-- ==== Sys2Proof/Word.lean ====
section
/-! DEFINITION. The words the engine's registers, memories and messages are made of, and their plainest
bit-field arithmetic (R6, R7: bit 0 is the least significant, multi-byte values are little-endian). -/

namespace Sys2Proof

/-- One byte. -/
abbrev Byte := BitVec 8

/-- A 32-bit register or instruction word (R13). -/
abbrev Word := BitVec 32

/-- A 64-bit register or scratchpad word (R13, R169). -/
abbrev DWord := BitVec 64

/-- A global address of 48 bits (R38). -/
abbrev GAddr := BitVec 48

end Sys2Proof
end

