-- ==== Sys2Proof/Syntax.lean ====
section
/-! DEFINITION. The commands: one constructor of `Instr` per row of spec/opcode_table.json, with the operands
the row's event carries. A physical cell is named by its index `die * 2304 + py * 48 + px` (R43), a region by its
die and (rx, ry), a host port by 0 or 1, a Xildo port by its die and 0-2. -/

namespace Sys2Proof

/-- The two cores of a cell (R160). -/
inductive CoreSel where
  | head | tail
deriving DecidableEq, Repr

/-- Who issues an access (R13, R153, R190). The two host ports are separate requesters (R318). DESIGN CHOICE (log 43): the spec says
of no other two sources of accesses whether they are one requester of R13. Here a core's own window and its far window are two, the
head's far window and the cell's send unit are one, all firmware is one, and the edge agents of a die are one. -/
inductive Req where
  /-- the host through port `port` -/
  | host (port : Nat)
  /-- a core's own control window or scratchpad path -/
  | core (cell : Nat) (k : CoreSel)
  /-- a core's far window, or the cell's send unit: mesh origin 0 -/
  | far (cell : Nat) (k : CoreSel)
  /-- a die controller, the engine controller or an armed load unit: mesh origin 2 -/
  | firmware
  /-- an edge fabric unit or memory controller of a die: mesh origin 3 -/
  | agent (die : Nat)
deriving DecidableEq, Repr

/-- A Xildo transport frame (R286): its fields, `rsvd` the reserved bits of its header (FLAGS[7:5], byte 0x13, bytes 0x1E-0x1F, in rising
order), `pois` the 32-byte units its poison map marks, `crc` the CRC-32C that closes it. -/
structure Frame where
  rsvd : Nat
  ftype : Nat
  rsig : Bool
  last : Bool
  rfmt : Nat
  paylen : Nat
  dstEngine : Nat
  srcEngine : Nat
  dstQueue : Nat
  srcQueue : Nat
  seq : BitVec 32
  tag : Nat
  gen : Nat
  status : Nat
  addr : GAddr
  sig : BitVec 32
  pois : List Nat
  payload : List Byte
  crc : Nat
deriving DecidableEq, Repr

/-- A link frame that carries no acceptable transport frame: one whose native link CRC fails (R289), a pause or priority flow control frame
(R282), one longer than 4,200 bytes, any other that the first two checks of R298 drop. -/
inductive BadFrame where
  | linkCrc | pause | tooLong | stranger
deriving DecidableEq, Repr

/-- A rack-bus frame as received (R384): identifier, format flags, its 32 data bytes (fewer if malformed). -/
structure RackFrame where
  extended : Bool
  ftype : Nat
  node : Nat
  fdBrs : Bool
  ownEcho : Bool
  data : List Byte
deriving DecidableEq, Repr

/-- A signed object after its signatures were checked by the engine controller (R471): the header and body fields,
and the verdict of each signature under the key set it names. -/
structure SignedObj where
  magicOk : Bool
  otype : Nat
  keyset : Nat
  ecdsaOk : Bool
  lmsOk : Bool
  svn : Nat
  serial : BitVec 64
  nonce : BitVec 128
  body : List Byte
deriving DecidableEq, Repr

/-- What a flash device's SFDP tables declare, where it answers (R453). -/
structure Sfdp where
  answers : Bool
  addr4 : Bool
  read144 : Bool
  erase4k : Bool
  erase64k : Bool
deriving DecidableEq, Repr

/-- What a start reads from the configuration flash (R453, R454, R456): the SFDP tables of both devices, which a warm restart reads here, the
records of the counters' journals that are valid in neither device, as (counter, place from the newest), black-box entries whose copy in
a device fails its CRC, as (JSEQ, 1 in device 0 or 2 in device 1 or 3 in both, the bytes that stand there), whether each device's configuration and calibration set passes its CRC, the repair-map entries of which one or both copies
fail theirs, and the stored licences that no longer verify, with the reason. -/
structure FlashRead where
  sfdp : List Sfdp
  ctrBad : List (Nat × Nat)
  bboxBad : List (Nat × Nat × List Byte)
  cfgOk : List Bool
  calOk : List Bool
  rmapBad : List (Nat × Nat)
  licBad : List (Nat × Nat)
deriving DecidableEq, Repr

/-- What training and the start-up test found in a GDDR7 device (R271): attempts used, channels that failed all of them, half-blocks with a
single-bit error, and whether a half-block was uncorrectable in both patterns or an address tag read back wrong. -/
structure DevTest where
  die : Nat
  dev : Nat
  attempts : Nat
  failch : Nat
  corr : Nat
  uncorr : Bool
  tagBad : Bool
deriving DecidableEq, Repr

/-- How a host answers a read of its memory (R322, R323): with data, with UR or CA, not within PCIE_CPL_TO.MS, or with data and EP set;
`lost` is a request or response of a host or firmware access that the mesh loses on a link that fails its loopback test (R194), or the end
of a retrain that fails (R270); `again m` gives an access to GDDR7 m mismatches in a row (R269). -/
inductive Fate where
  | good | refused | late | poisoned | lost
  | again (mismatches : Nat)
deriving DecidableEq, Repr

/-- A configuration register that R314 names: IDs, the list of capabilities, the serial number, the power state, the Max Payload Size and
Max Read Request Size codes, the ECRC enables, the MSI-X enable and function mask, and AER's advisory Poisoned TLP Received (R319). -/
inductive CfgReg where
  | vendorId | deviceId | classCode | capabilities | serial | power | payload | readRequest | ecrc | msix | aer
deriving DecidableEq, Repr

/-- The substrate regulator that failed, by the unit it feeds (R347). -/
inductive Feeds where
  | gddr (device : Nat)
  | xildo (port : Nat)
  | hostPort
  | dieControl
deriving DecidableEq, Repr

/-- Boundary-scan instructions of IEEE 1149.1 that a TAP implements (R500); `other` loads BYPASS. -/
inductive TapInstr where
  | bypass | idcode | samplePreload | extest | clamp | highz | other
deriving DecidableEq, Repr

/-- One command of the engine (an `upset` or `ecc` operand says which error the step's own control-state check finds in the
hardware: an event from outside the state, R223, R443): a register access, a host or mesh request, a frame on a link, a pin event, or one
step of a unit the spec lists in its table of operations and events. The commands without operands stand last. -/
inductive Instr where
  | registerWrite (req : Req) (ga : GAddr) (wide : Bool) (v : DWord)
  | lowWordWriteHeld (req : Req) (ga : GAddr) (v : Word)
  | highWordWritePair (req : Req) (ga : GAddr) (v : Word)
  | lowWordReadLatch (req : Req) (ga : GAddr)
  | cellFailInService (c : Nat) (source : Nat)
  | quickRemap (die py : Nat)
  | mxeDescPush (c : Nat)
  | easelLoadSegment (c : Nat)
  | easelReady (c : Nat)
  | swapWaveEnter (c : Nat)
  | feederFetch (c : Nat)
  | freezeWatchdogExpire (c : Nat)
  | finalRowCheck (c : Nat) (journalBad : Bool)
  | replayVerdict (c : Nat) (upset : Option (Nat × Int))
  | drainLineWrite (c : Nat)
  | passComplete (c : Nat)
  | ballastRow (c : Nat) (upset : Bool)
  | patternLoad (c : Nat)
  | mxeFlush (c : Nat)
  | mxeCntClrFreeze (c : Nat)
  | mxeCntClrEasel (c : Nat)
  | mxeRplCtrlWrite (c : Nat) (en : Bool)
  | mxeArithClrArith (c : Nat)
  | mxeArithClrChk (c : Nat)
  | mxeArithClrRpl (c : Nat)
  | spmBankOwnWrite (c : Nat) (v : Word)
  | ownershipGovern (c : Nat)
  | coreInstruction (c : Nat) (k : CoreSel)
  | coreLoad (c : Nat) (k : CoreSel)
  | coreStore (c : Nat) (k : CoreSel)
  | coreVectorAccess (c : Nat) (k : CoreSel)
  | controlWindowStore (c : Nat) (k : CoreSel)
  | farWindowLoad (c : Nat) (k : CoreSel)
  | farWindowStore (c : Nat) (k : CoreSel)
  | farLoadResponse (c : Nat) (k : CoreSel) (i : Nat)
  | fence (c : Nat) (k : CoreSel)
  | mergeEntryWrite (c : Nat) (k : CoreSel)
  | mergeAgeEvict (c : Nat) (k : CoreSel)
  | coreStart (c : Nat) (k : CoreSel)
  | coreStop (c : Nat) (k : CoreSel)
  | imemLoad (c : Nat) (k : CoreSel) (req : Req) (v : Word)
  | imemLoadComplete (c : Nat) (k : CoreSel)
  | eccRawWrite (c : Nat) (req : Req)
  | eccRawRead (c : Nat) (req : Req)
  | primerDone (c ecc : Nat)
  | scrubLineRead (c bank : Nat)
  | scrubWriteback (c bank : Nat)
  | istoreScrub (c : Nat) (k : CoreSel)
  | bengFill (c : Nat) (req : Req)
  | bengCopy (c : Nat) (req : Req)
  | bengPoison (c : Nat) (req : Req)
  | bengCommandStart (c : Nat)
  | bengCommandDone (c ecc : Nat)
  | packetRoute (i : Nat) (errs : List (Nat × Nat)) (ecc : Nat)
  | linkNakReceive (c link flit : Nat)
  | loopbackTestDone (c link : Nat) (near far : Bool) (wiresBad : List Nat) (raw : Nat)
  | detourLoad (c : Nat) (entries : List Word)
  | writePacketLand (i m ecc : Nat)
  | readPacket (i m : Nat)
  | readResponseReceive (i : Nat)
  | ackReceive (i : Nat)
  | signalPacket (i ecc : Nat)
  | multicastWriteLand (i ecc : Nat)
  | multicastSignal (i ecc : Nat)
  | txPut (c : Nat) (req : Req)
  | txGet (c : Nat) (req : Req)
  | txMulticastPut (c : Nat) (req : Req)
  | txCommandComplete (c ecc : Nat)
  | mcStallWatchdog (i : Nat)
  | mcLandAdd (c : Nat) (v : Word) (ecc : Nat)
  | syncArm (c n : Nat) (v : Word) (ecc : Nat)
  | syncSigWrite (c : Nat) (req : Req) (v : Word)
  | syncWait (c : Nat) (k : CoreSel)
  | syncWaitSatisfied (c : Nat) (k : CoreSel) (ecc : Nat)
  | syncWaitWatchdog (c : Nat) (k : CoreSel)
  | loadKind5Write (badReads : Nat) (fates : List Fate)
  | loadRound (lost : List (Nat × Nat × Nat × Nat)) (stalled : List (Nat × Nat × Nat × Nat)) (fates : List Fate)
  | loadChunkRepair (c seg chunk : Nat) (copies : List (List Nat)) (fates : List Fate)
  | jobStart (job : Nat)
  | jobHalt (job : Nat)
  | jobEnd (job : Nat)
  | stepDeclare (job : Nat)
  | stepNumSet (v : DWord)
  | testKernelCall (c : Nat) (k : CoreSel) (failed : Option Nat)
  | gddrRead (req : Req) (ga : GAddr) (len mismatches upset : Nat)
  | gddrWrite (req : Req) (ga : GAddr) (data : List Byte) (pois : List Nat) (mismatches upset : Nat)
  | channelRetrainDone (die dev ch : Nat) (ok : Bool)
  | gddrScrubSegment (die dev mismatches upset : Nat)
  | gddrTempRead (die dev : Nat) (t : Int)
  | gddrRefresh (die dev bank : Nat)
  | memEccRawWrite (req : Req) (die dev : Nat)
  | memEccRawRead (req : Req) (die dev : Nat)
  | fabSubmitPut (req : Req) (die : Nat) (cmd : BitVec 256)
  | fabSubmitGet (req : Req) (die : Nat) (cmd : BitVec 256)
  | fabSubmitSignal (req : Req) (die : Nat) (cmd : BitVec 256)
  | fabSubmitReduce (req : Req) (die : Nat) (cmd : BitVec 256)
  | fabCommandStart (die : Nat) (upset : Nat)
  | putFrameReceive (die port : Nat) (f : Frame) (link : DWord)
  | getRequestReceive (die port : Nat) (f : Frame) (link : DWord)
  | signalFrameReceive (die port : Nat) (f : Frame) (link : DWord)
  | reduceFrameReceive (die port : Nat) (f : Frame) (link : DWord)
  | getResponseReceive (die port : Nat) (f : Frame) (link : DWord)
  | completionReceive (die port : Nat) (f : Frame) (link : DWord)
  | frameAckReceive (die port : Nat) (f : Frame) (link : DWord)
  | faultNoticeReceive (die port : Nat) (f : Frame) (link : DWord)
  | nativeLinkNak (die port : Nat) (link : DWord)
  | e2eAckSend (q : Nat)
  | e2eResendTimeout (q : Nat)
  | commandTimeout (die tag : Nat)
  | fecUncorrectableBurst (die port lane count corr : Nat)
  | partnerSignalLoss (die port : Nat)
  | fabPcmdRetrain (die port : Nat)
  | portRetrainDone (die port : Nat) (lanesBad : BitVec 8) (crReq crRsp : Nat)
  | fabPortEnWrite (die port : Nat) (en : Bool)
  | contextOpen (q : Nat)
  | contextClose (q : Nat)
  | pcieLinkUp (port speed width : Nat)
  | pcieLinkDown (port : Nat)
  | hostBarRead (port bar off len : Nat) (ecrc : Bool) (fates : List Fate)
  | hostBarWrite (port bar off : Nat) (data : List Byte) (ep ecrc : Bool) (fates : List Fate)
  | ringDoorbell (port n pi : Nat)
  | ringEntryFetch (port n : Nat) (ok upset : Bool)
  | ringNop (port n : Nat)
  | ringDmaHostToEngine (port n : Nat) (fates : List Fate)
  | ringDmaEngineToHost (port n : Nat) (fates : List Fate)
  | ringRegisterWrite (port n : Nat) (fates : List Fate)
  | ringSignal (port n : Nat)
  | ringLoad (port n : Nat) (fates : List Fate)
  | ringJobCommand (port n : Nat) (fates : List Fate)
  | ringEntryComplete (port n : Nat)
  | ringEnable (port n : Nat)
  | ringDisable (port n : Nat)
  | msixRaise (req : Req) (port vec : Nat)
  | evqEnable (port : Nat)
  | evqCiWrite (port : Nat) (ci : Nat)
  | outboundRead (req : Req) (addr len : Nat)
  | outboundWrite (req : Req) (addr : Nat) (data : List Byte) (pois : List Nat)
  | outboundCompletion (id : Nat) (ok ep ecrc : Bool) (data : List Byte)
  | outboundCplTimeout (id : Nat)
  | functionLevelReset (port : Nat)
  | perstAssert (port : Nat)
  | perstRelease (port : Nat)
  | inputOutOfRange (vin10 ia ib : Nat)
  | bladeLoss (blade : Nat)
  | busConverterFail (die : Nat)
  | phaseFail (die phase meas : Nat)
  | substrateRegulatorFail (die : Nat) (u : Feeds)
  | ldoSliceFail (die rx ry rail slice : Nat)
  | regionComputeOn (die rx ry : Nat)
  | regionComputeOff (die rx ry : Nat)
  | regionFullOff (die rx ry : Nat)
  | regionRouterOn (die rx ry : Nat)
  | stageAdmission (die : Nat)
  | quarterStrength (die rx ry : Nat)
  | turnOnAbandon (die rx ry : Nat)
  | powerGood (die rx ry : Nat)
  | powerGoodMissed (die rx ry : Nat)
  | activityEstimate (die : Nat) (upset : Bool) (meas : Option Nat)
  | engineEstimate (paux : Nat) (reading : Option (Nat × Nat × Nat))
  | trimUpdate
  | bandIntervalJudge
  | averageModeEval
  | timeFrame (f : RackFrame)
  | windowAllFrame (f : RackFrame)
  | windowFrame (f : RackFrame)
  | budgetFrame (f : RackFrame)
  | cancelFrame (f : RackFrame)
  | rampRequest (w : Nat)
  | regionTempEval (die rx ry : Nat) (t : Int)
  | heatSwitchOn (die rx ry : Nat)
  | tempSensorFail (die rx ry : Nat)
  | thermalStop (die rx ry : Nat)
  | coolantDeassert (ns : Nat)
  | ptpSyncMessage (offset : Int) (domain : Nat) (l2 : Bool)
  | timeSet (v : DWord)
  | timeSrcWrite (src : Nat)
  | pllLockLoss (die field : Nat)
  | dieThrottleApply (die : Nat)
  | dieThrottleDecay (die : Nat)
  | droopFire (die rx ry mv : Nat)
  | droopStretchEnd (die rx ry mv good : Nat)
  | marginEval (die rx ry margin : Nat) (upset : Bool)
  | criticalMargin (die rx ry code : Nat)
  | targetedTestStart (c : Nat)
  | targetedTestVerdict (c : Nat) (pass : Bool)
  | firmwareSelfTest (c : Nat) (failed : Option Nat)
  | bboxSelect (jseq : Word)
  | firmwareVerify (sfdp : List Sfdp) (keysOk : List Bool) (objs : List SignedObj)
  | configRead (r : FlashRead)
  | diePowerUp (die : Nat) (ok ctlOk : Bool) (slicesBad : List (Nat × Nat × Nat))
  | pllCalibration (die : Nat) (locked : Bool) (raw : List (Nat × Nat × Nat)) (wiresBad : List (Nat × Nat × Nat))
  | neighbourTest (marchBad : List Nat) (verdicts : List (Nat × Nat × Bool)) (wiresBad retrain : List (Nat × Nat × Nat × Nat))
  | linkTraining (gddr : List DevTest) (lanesBad : List (Nat × Nat)) (credits : List (Nat × Nat × Nat))
  | bootResetWarm (confirm : Nat)
  | bootResetCold (confirm : Nat)
  | dieControllerWatchdog (die : Nat)
  | flashWriteComplete (ok0 ok1 : Bool)
  | licInstallLicence (obj : Option SignedObj) (fates : List Fate)
  | licInstallFirmware (obj : Option SignedObj) (ok : Bool) (fates : List Fate)
  | svcRemoveRepairEntries (obj : Option SignedObj) (die : Nat) (idxs : List Nat) (fates : List Fate)
  | svcClearBlackBox (obj : Option SignedObj) (fates : List Fate)
  | svcInstallRackKeys (obj : Option SignedObj) (keys : List (Option (List Byte))) (fates : List Fate)
  | svcRemoveLicence (obj : Option SignedObj) (lseq : Nat) (fates : List Fate)
  | svcReplaceConfig (obj : Option SignedObj) (cfg : List Byte) (fates : List Fate)
  | svcSelectFirmwareSlot (obj : Option SignedObj) (slot : Nat) (fates : List Fate)
  | svcRaiseMinSvn (obj : Option SignedObj) (fates : List Fate)
  | tapInstruction (die : Nat) (t : TapInstr)
  | streamedRowPresent (c : Nat) (upset : Option (Nat × Int))
  | highWordReadPair (req : Req) (ga : GAddr)
  | pcieLinkRecovery (port speed width : Nat)
  | pcieConfigRequest (port : Nat) (r : CfgReg) (v : Option Nat)
  | malformedFrameReceive (die port : Nat) (kind : BadFrame)
  | rackFrameIgnored (f : RackFrame)
  | quickRemapComplete
  | panelHalt
  | loadStart (fates : List Fate)
  | loadPrepare
  | loadRoundTimeout
  | loadInitialise
  | loadAbort
  | inputLoss
  | inputColdStartCondition
  | bladeRestore
  | spareConverterFail
  | bandControlStep
  | bandModeChange
  | rampTick
  | statusFrameSend
  | orphanEnter
  | canBusOff
  | coolantStop
  | coolantAssert
  | bandRestart
  | ppsEdge (ref : Bool)
  | refLoss
  | holdoverEnter
  | unsyncEnter
  | throttleApply
  | errorRecordArrive
  | bboxCommit (ok0 ok1 : Bool)
  | udpDatagramSend
  | mgmtLinkUp
  | coverageCheck
  | startupCoolantTimeout
  | primeAll
  | fuseMergePublish (faults : List (Nat × Nat × Nat))
  | gddrPriming
  | bootLockReady
  | phaseOverrun
  | warmRestart
  | heartbeatSend
  | heartbeatLossFailover
  | licAttest
  | licReadCertificate
  | w4RateApply
  | moduleReset
  | moduleResetRelease
  | mgmtLinkDown
deriving DecidableEq, Repr

end Sys2Proof
end

