-- ==== Sys2Proof/Decode.lean ====
section
/-! DEFINITION. Words of the opcode table. -/

namespace Sys2Proof

/-- The command a word spells by the table's bits. spec/opcode_table.json gives no row any bit field: a command is an
event or an access with its operands, never a word, so no word spells one. -/
def decodeTableWord (_nbits _w : Nat) : Option Instr := none

end Sys2Proof
end

