-- ==== Sys2Proof/Config.lean ====
section
/-! DEFINITION. What an implementation or one module fixes and the spec does not state: constants with no body, so that
no proof can see their values. The assumption log names each of them. -/

namespace Sys2Proof.Config

/-- Charge per activity event in fC, per die and counter A0-A7 (R367: calibrated per die, no figures given), of the calibration set or,
for `true`, firmware's default (R454). -/
opaque weight : Bool → Nat → Nat → Nat

/-- Leakage table of a region's rail in mA, by die, region index, rail, set-point code and step k, at 5k °C (R367), of the calibration set or,
for `true`, firmware's default (R454). -/
opaque leakage : Bool → Nat → Nat → Nat → Nat → Int → Nat

/-- LDO quiescent current of a die in mA (R367). -/
opaque quiescent : Nat → Nat

/-- Efficiency of the two conversion stages at a die current in mA, in parts per 65,536 (R368). -/
opaque efficiency : Nat → Nat

/-- Calibrated VSET floor code of a region, by die and region index, from the calibration seeds (R410) or, for `true`, firmware's
default (R454). -/
opaque vfloor : Bool → Nat → Nat → Nat

/-- Module serial number, programmed at test (R482). -/
opaque serial : BitVec 64

/-- The PCI vendor ID of Gnowick (R314: its number is not given). -/
opaque vendorId : BitVec 16

/-- Revision of a die and Gnowick's JEDEC manufacturer identity, in IDCODE (R500: not given). -/
opaque dieRevision : Nat → BitVec 4
opaque jedecId : BitVec 11

/-- Identity of a die from die test (R482). -/
opaque dieId : Nat → BitVec 64

/-- eFuse repair records a die has in all (R58, R482: the capacity is not stated). -/
opaque efuseCapacity : Nat → Nat

/-- A wrapped rack key of a configuration set (R454), where the set holds one: its form is not given. -/
opaque siteRackKey : List Byte → Nat → Option (List Byte)

/-- Number of collectors of a configuration set (R425, R454: its form is not given). -/
opaque siteCollectors : List Byte → Nat

/-- The 32 bytes of the rack key that a wrapped key holds (R384, R478; no register returns a key). -/
opaque rackKey : List Byte → List Byte

/-- The module's two signatures, 2,924 bytes, over header and body with LMS leaf q (R471, R479, R480). -/
opaque sign : Nat → List Byte → List Byte

/-- The module certificate object as Gnowick programmed it (R472, R479). -/
opaque certificate : List Byte

/-- The on-die random source: the n-th fresh 128-bit service nonce (R478). -/
opaque nonce : Nat → BitVec 128

/-- The pattern generator's 16 elements of ballast row n of a cell (R105: contents not stated). -/
opaque ballastPattern : Nat → Nat → List Byte

/-- The engine's test kernel for the head core (0) and the tail core (1), byte by byte (R250: its code is not given). -/
opaque testKernel : Nat → Nat → BitVec 8

/-- A free value: what the spec leaves undefined or does not state, one fresh value per index. -/
opaque freeWord : Nat → BitVec 64

/-- What a configuration set holds: the rack-bus node and its enable, the orphan budget in W, the MAC address of an engine
port (R311, R383, R387, R454; the layout of the set is not given). -/
opaque siteNode : List Byte → Nat
opaque siteBusEn : List Byte → Bool
opaque siteOrphanW : List Byte → Nat
opaque siteMac : List Byte → Nat → BitVec 48

/-- SPARED: a fused factory record list, (TYPE, die, LOC), of the module (R53). -/
opaque factoryFuses : List (Nat × Nat × Nat)

end Sys2Proof.Config
end

