-- ==== Sys2Proof/Machine/State.lean ====
section
/-! DEFINITION. The engine's state as plain data: what every register, buffer, queue and unit the spec names holds, the
outputs that left the module, and the queue of commands that wait. -/

namespace Sys2Proof.Machine

/-- A sparse map from Nat keys, in one canonical form: keys strictly rising, no value equal to the default the
reader gives. Memory, the register file and every per-unit table are held so. -/
abbrev SMap (α : Type) := List (Nat × α)

/-- The three parts (R1). -/
inductive Part where
  | dz8200 | dz4200 | dz2200
deriving DecidableEq, Repr

/-- No command of this block ends in a fault: every misuse the spec names has an outcome it states (a bus error, a
record, a halt, a drop), and that outcome is a next state. -/
inductive Fault where
deriving DecidableEq, Repr

/-- A command without a meaning. -/
inductive Refusal where
  /-- Raised by an arm of `exec` whose command has no meaning yet; safe. -/
  | notModelled (mnemonic : String)
deriving DecidableEq, Repr

/-! ### Error records (R422) -/

/-- Where a record is raised (R422 UNIT, UIDX and the location fields). -/
inductive Loc where
  | cell (c : Nat) (uidx : Nat)
  | region (die rx ry : Nat)
  | dieUnit (die uidx : Nat)
  | engine (uidx : Nat)
  | module (uidx : Nat)
deriving DecidableEq, Repr

/-- An error record (R422). `struck` is the struck cell of R429, when the defining rule names one; RSEQ and HJOB are
filled by the engine controller when the record arrives (R423). -/
structure Rec where
  cls : Nat
  sev : Nat
  loc : Loc
  xy : Option (Nat × Nat)
  halt : Bool
  job : Nat
  step : DWord
  time : Nat
  rseq : Nat
  hjob : Nat
  supp : Nat
  bootseq : Nat
  detail : DWord
  struck : Option Nat
  /-- serial number of the record and slot of its detection, for the order of R423 (the model's own) -/
  sn : Nat
  slot : Nat
deriving DecidableEq, Repr

/-- A message of RFC 5424 (R427). -/
structure Syslog where
  facility : Nat
  severity : Nat
  appName : String
  msgId : String
  structuredData : String
  msg : List (String × Nat)
deriving DecidableEq, Repr

/-- A halt on its way from the struck cell to its panel (R429), with the serial number of its record (0: no record), the job it halts,
and whether the struck cell has halted already (step 1). -/
structure HaltReq where
  cell : Nat
  cls : Nat
  sn : Nat
  job : Nat
  struck : Bool
deriving DecidableEq, Repr

/-- The last record of one class and location, for a stated rate limit (R424). -/
structure RateSt where
  cls : Nat
  loc : Loc
  last : Nat
  supp : Nat
deriving DecidableEq, Repr

/-- A black-box entry (R446): sequence number, KIND, body bytes, whether each flash copy holds it whole, and what stands in its place where
both copies fail their CRC (R449). -/
structure JEntry where
  jseq : Nat
  kind : Nat
  body : List Byte
  okA : Bool
  okB : Bool
  raw : Option (List Byte)
deriving DecidableEq, Repr

/-- What the engine has handed to its surroundings, newest first in the state's outbox. -/
inductive Out where
  | msix (port vec : Nat)
  | frame (die port : Nat) (bytes : List Byte)
  | datagram (collector : Nat) (bytes : List Byte)
  | syslog (collector : Nat) (m : Syslog)
  | can (ftype node : Nat) (data : List Byte)
  | delayReq (l2 : Bool) (domain : Nat)
  | hostCpl (port : Nat) (ok ep : Bool) (data : List Byte)
  | cfgRetry (port : Nat)
  | hostWrite (port addr : Nat) (data : List Byte) (ep : Bool)
  | hostReadReq (port id addr len : Nat)
  | heartbeat (die : Nat)
deriving DecidableEq, Repr

/-! ### Register access (R13) -/

/-- What a block keeps for a requester between the two halves of a 64-bit access (R13). -/
inductive Pend where
  | latch (key : Nat) (high : Word)
  | low (key : Nat) (low : Word)
deriving DecidableEq, Repr

/-- The last answer a requester received. -/
inductive Resp where
  | value (v : DWord) (poisoned : Bool)
  | read (data : List Byte) (pois : List Nat) (status : Nat)
  | ack (status : Nat)
  | done
  | busError
  | lost
deriving DecidableEq, Repr

/-! ### Cores (R160) -/

/-- A merge-buffer entry (R166): word number, byte-valid bits, bytes, and the delivered cycle of its last store. -/
structure MbEntry where
  word : Nat
  valid : BitVec 8
  data : DWord
  last : Nat
deriving DecidableEq, Repr

/-- A core stalled on a far-window load (R161): tag of the request, destination, and the load's funct3. -/
structure FarLoad where
  tag : Nat
  fp : Bool
  rd : Nat
  funct3 : Nat
  addr : Word
  len : Nat
deriving DecidableEq, Repr

/-- A store to the core's own control window that waits behind earlier ones (R159): its offset, value and pc. -/
structure HeldStore where
  off : Nat
  v : Word
  pc : Word
deriving DecidableEq, Repr

/-- A core waiting on a sync counter (R219): counter, target, destination (an FP register where `fp`), and the delivered cycle
at which the wait began. -/
structure WaitSt where
  ctr : Nat
  target : Nat
  fp : Bool
  rd : Nat
  start : Nat
  len : Nat
deriving DecidableEq, Repr

/-- An instruction-store load in progress (R165). -/
structure ImemLoad where
  lines : Nat
  src : Nat
  dst : Nat
deriving DecidableEq, Repr

/-- One core: STATE of R182, program counter, integer, FP and vector registers, CSRs by number, and its narrow path. -/
structure CoreSt where
  st : Nat
  pc : Word
  x : List Word
  f : List Word
  v : List (BitVec 256)
  csr : SMap Word
  inHandler : Bool
  /-- a write of RUN = 0 waits for the end of the current instruction or of a hold (R180, R182) -/
  stopReq : Bool
  mb : List MbEntry
  far : Option FarLoad
  farStores : Nat
  wait : Option WaitSt
  heldStores : List HeldStore
  imem : Option ImemLoad
deriving DecidableEq, Repr

/-- A core after a compute-rail turn-on: stopped, every register zero (R160, R182). -/
def CoreSt.reset : CoreSt :=
  { st := 0, pc := 0, x := List.replicate 32 0, f := List.replicate 32 0, v := List.replicate 32 0, csr := [],
    inHandler := false, stopReq := false, mb := [], far := none, farStores := 0, wait := none, heldStores := [], imem := none }

/-! ### Matrix engine -/

/-- A queued pass (R86, R107): the eight descriptor words, its number, the delivered cycle of its push, and how far it has come.
`segs` counts load segments begun, `seg` is the delivered cycle of the first beat of the last of them, `beats` how many of its eight beats
have been read, `start` is S of R83,
`rows` the streamed rows presented, `fetched` the rows fetched, `scl` its fetched stationary scale bytes, `xscl` the streamed scale
bytes fetched, from row 0 on, `raw` the lines fetched of the raw row in progress, `pre` the fetched rows of a streamed line whose raw
rows are still to come, `lastOut` that the last line of a final pass's last row was written, `replayOk` the slots replayable at its
acceptance (R143), `inits` the pass that last initialised each slot it names, by row, `epoch` the journal's clearing epoch then. -/
structure Pass where
  desc : BitVec 256
  j : Nat
  pushed : Nat
  segs : Nat
  seg : Option Nat
  beats : Nat
  ready : Bool
  start : Option Nat
  rows : Nat
  fetched : Nat
  scl : List Byte
  xscl : List Byte
  raw : List Byte
  pre : List (List Byte)
  lastOut : Bool
  replayOk : List Nat
  inits : List Nat
  epoch : Nat
deriving DecidableEq, Repr

/-- An easel (R78): the block it holds, element by element as stored bytes, what the segment in progress has delivered from each bank of
the pair (R81), and the two check values per reduction row in units of 2^-144 (R136). `owner` is the pass it was loaded for, `pattern` the cycle a pattern load into it began
(R106). -/
structure Easel where
  owner : Option Nat
  block : List Byte
  half : List Byte × List Byte
  c0 : List Int
  c1 : List Int
  pattern : Option Nat
deriving DecidableEq, Repr

def Easel.free : Easel := { owner := none, block := [], half := ([], []), c0 := [], c1 := [], pattern := none }

/-- A fetched streamed row waiting at the feeder heads: its bytes, its scale byte, its raw initial slots, and the delivered cycle
from which the feeders hold it (R85, R95). -/
structure FRow where
  j : Nat
  m : Nat
  arr : Nat
  bytes : List Byte
  scale : Byte
  raw : List (BitVec 128)
deriving DecidableEq, Repr

/-- What a slot index knows since the flush (R99, R142), with the last pass accepted that initialised it and the last
that named it. -/
structure SlotMeta where
  inited : Bool
  anchor : Int
  replayable : Bool
  initBy : Nat
  namedBy : Nat
deriving DecidableEq, Repr

def SlotMeta.reset : SlotMeta := { inited := false, anchor := 0, replayable := false, initBy := 0, namedBy := 0 }

/-- The two check slots of a slot index (R137), with the pass that initialised them. -/
structure Chk where
  c0 : BitVec 112
  c1 : BitVec 112
  trunc : Bool
  u : Nat
  w : Nat
  grp : Nat
deriving DecidableEq, Repr

def Chk.reset : Chk := { c0 := 0, c1 := 0, trunc := false, u := 0, w := 0, grp := 0 }

/-- A streamed row on its way through the array (R83): its pass, row and slot, the array cycle `t0` in which its feeder heads
presented it, the block, scales and check values it meets, its own bytes, scale byte and raw slots, the data slots accumulated so
far of a final pass's row with its check slots, and the upset it meets (log 7). -/
structure Flight where
  desc : BitVec 256
  j : Nat
  m : Nat
  slot : Nat
  t0 : Nat
  block : List Byte
  scl : List Byte
  c0 : List Int
  c1 : List Int
  bytes : List Byte
  scale : Byte
  raw : List (BitVec 128)
  data : List (BitVec 128)
  chk : Chk
  replayOk : Bool
  init : Nat
  epoch : Nat
  upset : Option (Nat × Int)
deriving DecidableEq, Repr

/-- A final row in the de-skew buffer or held for a replay (R100): data slots of its columns and its check slots, the
cycle of its column 127, and, once its check failed, the location found (COLUMN, KIND of R140). -/
structure FinalRow where
  desc : BitVec 256
  j : Nat
  m : Nat
  slot : Nat
  due : Nat
  data : List (BitVec 128)
  chk : Chk
  replayOk : Bool
  init : Nat
  epoch : Nat
  loc : Nat × Nat
deriving DecidableEq, Repr

/-- A row of the drain queue (R103): its pass, address, packed bytes, the lines written so far, the array cycle at whose end it enters
the queue, and whether it is its pass's last row. -/
structure DRow where
  j : Nat
  addr : Nat
  bytes : List Byte
  lines : Nat
  enter : Nat
  last : Bool
deriving DecidableEq, Repr

/-- A journal entry (R142). -/
structure JEnt where
  desc : BitVec 256
  j : Nat
deriving DecidableEq, Repr

/-- A push that was refused in the present cycle (R109-R111): class and detail, 0x10 with its REASON and pass number. -/
structure PushFail where
  cls : Nat
  detail : Nat
deriving DecidableEq, Repr

/-- The matrix engine of a cell (R78). Cycle counts are `cyc - frozen`, unfrozen cycles of the array (R83). -/
structure Mxe where
  seq : Nat
  queue : List Pass
  /-- S and r*M of started passes since the flush, newest first (R84, R87) -/
  starts : List (Nat × Nat × Nat)
  easels : List Easel
  cur : Nat
  feeder : List FRow
  frozen : Nat
  consec : Nat
  /-- the delivered cycle last counted as frozen, as an easel stall, with a program row or with a ballast row, plus
  one -/
  judged : Nat
  stallAt : Nat
  streamAt : Nat
  ballastAt : Nat
  /-- the delivered cycle, plus one, in which the feeder fetched a line, the drain wrote a line, the drain queue freed an entry -/
  fetchAt : Nat
  drainAt : Nat
  drainFreed : Nat
  /-- queue entries released in a delivered cycle: the cycle plus one, and how many (R110) -/
  freed : Nat × Nat
  /-- pushes refused in the present cycle, and whether a flush arrived in it (R111, R115) -/
  pushFails : List PushFail
  flushDue : Bool
  slots : SMap (BitVec 128)
  info : SMap SlotMeta
  chk : SMap Chk
  flight : List Flight
  finals : List FinalRow
  /-- rows that passed their check and wait for their convert cycle (R102) -/
  conv : List FinalRow
  /-- final rows that failed for good, by slot, initialising pass and own pass: they never pass their check (R142) -/
  lost : List (Nat × Nat × Nat)
  drain : List DRow
  rng : DWord
  draws : Nat
  rngPass : Option Nat
  journal : List JEnt
  epoch : Nat
  replay : Option FinalRow
  /-- the delivered cycle of the failing compare, and the slot before which the hold of an ended replay still lasts (R144) -/
  replayAt : Nat
  holdTo : Nat
  /-- starts no further pass (R143, R146) -/
  noStart : Bool
  /-- the delivered cycle from which no pass starts and no row is presented (R113) -/
  stopFrom : Option Nat
  /-- writes no further drain line (R114) -/
  noDrain : Bool
  balRows : Nat
deriving DecidableEq, Repr

def Mxe.reset : Mxe :=
  { seq := 0, queue := [], starts := [], easels := List.replicate 4 Easel.free, cur := 0, feeder := [], frozen := 0,
    consec := 0, judged := 0, stallAt := 0, streamAt := 0, ballastAt := 0, fetchAt := 0, drainAt := 0, drainFreed := 0,
    freed := (0, 0), pushFails := [], flushDue := false, slots := [], info := [], chk := [], flight := [], finals := [], conv := [],
    lost := [], drain := [], rng := 0, draws := 0, rngPass := none, journal := [], epoch := 0, replay := none, replayAt := 0,
    holdTo := 0, noStart := false, stopFrom := none, noDrain := false, balRows := 0 }

/-! ### Bank engine, send unit, scrubber, tests -/

/-- A bank-engine command (R176): OP, SRC, DST, LEN, pattern and signal word, the lines done, and the delivered cycle from which the next
line may move. -/
structure BengCmd where
  op : Nat
  src : Nat
  dst : Nat
  len : Nat
  pat : DWord
  sig : Word
  running : Bool
  lines : Nat
  next : Nat
deriving DecidableEq, Repr

/-- A send-unit command (R208) with its progress: bytes injected, TAGs whose response is outstanding. -/
structure TxCmd where
  op : Nat
  src : Nat
  dst : Nat
  units : Nat
  sig : Word
  x1 : Nat
  y1 : Nat
  sent : Nat
  waiting : List Nat
deriving DecidableEq, Repr

/-- The scrubber of one bank (R175): next line, whether the line read awaits its write-back, the
pass's start and whether it was logged late, the larger PASS_MS of a pass during which it was written (0: none), and the local time
from which the line is due. -/
structure ScrubSt where
  line : Nat
  wb : Bool
  passStart : Nat
  due : Nat
  lateLogged : Bool
  limit : Nat
deriving DecidableEq, Repr

def ScrubSt.reset : ScrubSt := { line := 0, wb := false, passStart := 0, due := 0, lateLogged := false, limit := 0 }

/-- A targeted test (R434): unit of ERR_TT, serial number of the triggering record (0: withheld), and the line address of a line
march. -/
structure TTest where
  unit : Nat
  sn : Nat
  word : Nat
deriving DecidableEq, Repr

/-- The sending end of a link (R193, R194): next SEQ, SEQ of the last flit that its far end received correctly, the retry buffer as the SEQs sent and not acknowledged, oldest first, whether a
refused flit waits for its NAK, consecutive refusals of the oldest flit, whether it is stopped for a loopback test, and whether it
failed with its detours not loaded yet (R195). -/
structure LinkSt where
  next : Nat
  good : Nat
  retry : List Nat
  naked : Bool
  refused : Nat
  stopped : Bool
  await : Bool
deriving DecidableEq, Repr

def LinkSt.reset : LinkSt := { next := 0, good := 255, retry := [], naked := false, refused := 0, stopped := false, await := false }

/-- An output port of a router (R188): the router cycle, plus one, in which a packet last took it, the router cycle until which the
flits of its VC0 or VC2 packet use it, the router cycles in which VC1 took it (the last three), and the VC of its last VC0 or VC2
packet. -/
structure OutSt where
  took : Nat
  busy : Nat
  v1 : List Nat
  last : Nat
deriving DecidableEq, Repr

def OutSt.reset : OutSt := { took := 0, busy := 0, v1 := [], last := 0 }

/-- A signal as it reaches a counter (R216): counter, epoch, increment, the origin's logical cell (none for a non-cell origin), and
whether it came through the Xildo fabric. -/
structure Signal where
  ctr : Nat
  epoch : Nat
  inc : Nat
  src : Option (Nat × Nat)
  remote : Bool
deriving DecidableEq, Repr

/-- One physical cell. -/
structure Cell where
  /-- cycles (pulses) delivered to its core gate (R10) -/
  cyc : Nat
  /-- held outside the numbering or as a hole (R45); a replay or a line march holds a cell too (R144, R435) -/
  held : Bool
  head : CoreSt
  tail : CoreSt
  mxe : Mxe
  owns : List Word
  beng : List BengCmd
  /-- bank-engine entries freed in a delivered cycle: the cycle plus one, and how many (R177) -/
  bengFreed : Nat × Nat
  tx : List TxCmd
  /-- send-unit entries freed in a router cycle: the cycle plus one, and how many (R209); the router cycle from which the unit may
  inject its next packet, one flit per cycle (R208) -/
  txFreed : Nat × Nat
  txAt : Nat
  scrub : SMap ScrubSt
  /-- the instruction stores' scrubbers: next line, and the local time from which it is due (R175) -/
  iscrub : List Nat
  iscrubDue : List Nat
  tests : List TTest
  running : Option TTest
  /-- the local time, plus one, of firmware's last self-test of the cell (R438) -/
  testedAt : Nat
  /-- the word of each bank's previous correction in its scrubber pass, plus one (R434) -/
  lastCorr : SMap Nat
  links : SMap LinkSt
  /-- router cycles delivered, and the router's output ports by side: 0 local, 1 north, 2 east, 3 south, 4 west -/
  rcyc : Nat
  outs : SMap OutSt
  /-- signals that reached the SYNC block and are judged at the end of a router cycle, each with the router cycle from which it is
  (R207, R217), in the order in which they came -/
  sigs : List (Nat × Signal)
  patched : Nat
  nextTag : Nat
deriving DecidableEq, Repr

def Cell.reset : Cell :=
  { cyc := 0, held := false, head := CoreSt.reset, tail := CoreSt.reset, mxe := Mxe.reset, owns := [], beng := [],
    bengFreed := (0, 0), tx := [], txFreed := (0, 0), txAt := 0, scrub := [], iscrub := [0, 0], iscrubDue := [0, 0], tests := [], running := none, testedAt := 0, lastCorr := [],
    links := [], rcyc := 0, outs := [], sigs := [], patched := 0, nextTag := 0 }

/-! ### Mesh -/

/-- Where a packet stands: in a die's I/O ring before the edge port of a router, on its way at a router (with the port it came in by),
at a cell's local port, or at an edge agent of a die. `via` is 0 local, 1 north, 2 east, 3 south, 4 west. -/
inductive At where
  | ring (c : Nat)
  | router (c : Nat) (via : Nat)
  | landed (c : Nat)
  | agent (die : Nat)
deriving DecidableEq, Repr

/-- A packet in flight (R190) with its data, the payload words that are poisoned, and where it stands. A multicast branch is
a packet of its own (R210). `src` is the requester, to whom a response goes; `org` the cell whose router formed the packet, none for
an edge agent's. `sent` is the link on which it has unacknowledged flits (R193), `waited` the cycles a multicast
branch has waited in its router (R214), or the slots since a packet reached its edge agent (R266). -/
structure Pkt where
  ptype : Nat
  dlen : Nat
  phys : Bool
  ackreq : Bool
  sigf : Bool
  tag : Nat
  x : Nat
  y : Nat
  x1 : Nat
  y1 : Nat
  die : Nat
  px : Nat
  py : Nat
  edge : Bool
  src : Req
  org : Option Nat
  addr : Nat
  blen : Nat
  status : Nat
  ctr : Nat
  epoch : Nat
  inc : Nat
  way : Option (Nat × Nat)
  data : List Byte
  pois : List Nat
  pos : At
  sent : Option Nat
  waited : Nat
deriving DecidableEq, Repr

/-! ### Canvas, jobs, loads -/

/-- A repair-map entry (R55) as its two copies hold it; `bad` counts copies whose CRC fails. -/
structure RmapEntry where
  typ : Nat
  source : Nat
  die : Nat
  loc : Nat
  confirm : Nat
  state : Nat
  bootseq : Nat
  firstS : Nat
  bad : Nat
deriving DecidableEq, Repr

/-- A loaded panel with its absolute origin (R70, R71). -/
structure Panel where
  id : Nat
  parent : Nat
  x0 : Nat
  y0 : Nat
  w : Nat
  h : Nat
  job : Nat
  ballast : Bool
deriving DecidableEq, Repr

/-- A held job (R243) with its step number, declared GDDR7 range, start set and queue contexts. -/
structure Job where
  id : Nat
  state : Nat
  step : DWord
  gbase : Nat
  glen : Nat
  testslot : Bool
  starts : List (Nat × CoreSel)
  ctxs : List Nat
deriving DecidableEq, Repr

/-- A segment of the load in progress (R232), with its panel placed. -/
structure Seg where
  off : Nat
  len : Nat
  panel : Nat
  kind : Nat
  start : Bool
  u0 : Nat
  v0 : Nat
  u1 : Nat
  v1 : Nat
  dest : Nat
  crcOff : Nat
deriving DecidableEq, Repr

/-- The load in progress (R235): the PHASE is BOOT_LOAD_STAT's; `k4` are the entries
held since PHASE 1 with their segment, `round` the rounds begun, `bad` the chunks not good as (cell, segment, chunk),
`bcastEnd` the time the last round's broadcast ended; `armed` the cells whose load units are armed (R192, R237), `tables` the CRCs that
the checkers hold for the round's chunks, as (segment, chunk, CRC) (R521), `asked` the holders already asked, as (cell, segment, chunk,
holder) (R238); `entered`, `prepared` and `k5` say whether the job has been entered, its
cells prepared, and the KIND 5 segments written. -/
structure LoadSt where
  job : Nat
  src : Nat
  len : Nat
  qctx : Nat
  panels : List Panel
  segs : List Seg
  k4 : List (Nat × Nat × Bool × DWord)
  testslot : Bool
  gbase : Nat
  glen : Nat
  round : Nat
  bad : List (Nat × Nat × Nat)
  bcastEnd : Nat
  armed : List Nat
  tables : List (Nat × Nat × Nat)
  asked : List (Nat × Nat × Nat × Nat)
  entered : Bool
  prepared : Bool
  k5 : Bool
deriving DecidableEq, Repr

/-! ### GDDR7 controllers -/

/-- A request that waits at a GDDR7 controller (R266, R269): its requester, address and length, the bytes and poisoned words of a write,
and the slot in which it arrived. -/
structure GWait where
  req : Req
  addr : Nat
  len : Nat
  data : Option (List Byte × List Nat)
  slot : Nat
deriving DecidableEq, Repr

/-- A GDDR7 controller (R266-R275) beyond its registers: the next segment to scrub, when the pass began, refresh commands
issued, the RSEQ of each record whose half-block test runs (R434), and the requests that wait for a channel. -/
structure Mc where
  scrub : Nat
  passStart : Nat
  refreshes : Nat
  tests : List Nat
  waits : List GWait
deriving DecidableEq, Repr

def Mc.reset : Mc := { scrub := 0, passStart := 0, refreshes := 0, tests := [], waits := [] }

/-! ### Xildo fabric -/

/-- A queue context (R290, R311). `txSeq`, `rxSeq` are its two sequence numbers; `unacked` the frames sent and not
acknowledged (Ethernet mode), `rto` the resend interval in force in µs (0: RTO), `dropping` that the rest of a refused
command is dropped, `landedPois` and `landedBad` what the frames of the command being received met. -/
structure Ctx where
  state : Nat
  port : Nat
  outstanding : Nat
  job : Nat
  peerEngine : Nat
  peerQueue : Nat
  dmac : BitVec 48
  winBase : Nat
  winLen : Nat
  txSeq : BitVec 32
  rxSeq : BitVec 32
  inflight : Nat
  cause : Nat
  unacked : List Frame
  progress : Nat
  rto : Nat
  toAck : Nat
  firstToAck : Nat
  dropping : Bool
  landedPois : Bool
  landedBad : Bool
deriving DecidableEq, Repr

/-- A free context: every configuration field at its reset value (R291, R311). -/
def Ctx.reset : Ctx :=
  { state := 0, port := 0, outstanding := 1, job := 0xFFFF, peerEngine := 0xFFFF, peerQueue := 0, dmac := 0, winBase := 0,
    winLen := 0, txSeq := 0, rxSeq := 0, inflight := 0, cause := 0, unacked := [], progress := 0, rto := 0, toAck := 0,
    firstToAck := 0, dropping := false, landedPois := false, landedBad := false }

/-- A submitted command with its submitter (R294). -/
structure FabCmd where
  cmd : BitVec 256
  req : Req
deriving DecidableEq, Repr

/-- A tag slot (R296): its generation, and the command in it with its start time, poison seen and bytes received. -/
structure Tag where
  gen : Nat
  cmd : Option FabCmd
  start : Nat
  pois : Bool
  got : Nat
deriving DecidableEq, Repr

def Tag.reset : Tag := { gen := 0, cmd := none, start := 0, pois := false, got := 0 }

/-- A Xildo port's link layer (R289): native retry buffer as (LSEQ, frame), next LSEQ, last LSEQ received, frames that wait for a credit
or for the end of a retrain, whether a write of EN = 0 waits for it (R311), whether 0x5C was logged since the start (R288); credits held
and credits to return, request class and response class, in 256-byte units; whether credits or an acknowledgement wait for a link frame;
the framing in force since the port came up: MODE, EtherType, IEEE 802.1Q tag (R287, R288), and whether it trained under the lane
licence (R283). -/
structure FPort where
  retry : List (Nat × Frame)
  lseq : Nat
  lack : Nat
  held : List (BitVec 48 × Frame)
  pendDisable : Bool
  cfgLogged : Bool
  crReq : Nat
  crRsp : Nat
  owedReq : Nat
  owedRsp : Nat
  due : Bool
  ether : Bool
  etype : Nat
  vlan : Option Nat
  licd : Bool
deriving DecidableEq, Repr

def FPort.reset : FPort :=
  { retry := [], lseq := 0, lack := 0xFFF, held := [], pendDisable := false, cfgLogged := false, crReq := 0,
    crRsp := 0, owedReq := 0, owedRsp := 0, due := false, ether := false, etype := 0, vlan := none, licd := false }

/-! ### Host ports -/

/-- A command ring (R324): configuration, indices, stop state, the entry in execution and its result so far, whether it waits
for the load it started, and whether its DMA channel runs it (R330). -/
structure Ring where
  base : Nat
  log2 : Nat
  chan : Nat
  en : Bool
  irqEn : Bool
  ciAddr : Nat
  ci : Nat
  pi : Nat
  stopped : Bool
  cause : Nat
  cur : Option (List Byte)
  res : Option (Nat × Nat)
  loading : Bool
  dma : Bool
deriving DecidableEq, Repr

def Ring.reset : Ring :=
  { base := 0, log2 := 4, chan := 0, en := false, irqEn := false, ciAddr := 0, ci := 0, pi := 0, stopped := false, cause := 0,
    cur := none, res := none, loading := false, dma := false }

/-- A host port beyond its registers: link and reset pins, event-ring sequence, loss to report, MSI-X table bytes and
pending bits, power state, whether its die has been powered; the configuration registers that the host sets (R314): Max Payload Size and
Max Read Request Size in bytes, ECRC generation and checking, MSI-X enable and function mask, AER's advisory Poisoned TLP Received, and its ECRC Error; whether
event-ring entries were written in this slot (2) or the one before (1), and the ring each DMA channel served last (R330, R331). -/
structure HPort where
  up : Bool
  perst : Bool
  upSince : Nat
  powered : Bool
  d3hot : Bool
  evqSeq : Nat
  evqLostDue : Bool
  msix : SMap Byte
  pba : List Nat
  lastRecovery : Option Nat
  mps : Nat
  mrrs : Nat
  ecrc : Nat
  msixEn : Bool
  msixMask : Bool
  aer : Bool
  aerEcrc : Bool
  batch : Nat
  turns : SMap Nat
deriving DecidableEq, Repr

def HPort.reset : HPort :=
  { up := false, perst := true, upSince := 0, powered := false, d3hot := false, evqSeq := 0, evqLostDue := false, msix := [],
    pba := [], lastRecovery := none, mps := 128, mrrs := 512, ecrc := 0, msixEn := false, msixMask := false, aer := false, aerEcrc := false, batch := 0,
    turns := [] }

/-- One TLP of an outbound read: its tag in the model, its port, the bytes of the request it asks for, when it was sent, and its
completion: whether EP was set, and its data. -/
structure OutTlp where
  id : Nat
  port : Nat
  off : Nat
  len : Nat
  sent : Option Nat
  done : Option (Bool × List Byte)
deriving DecidableEq, Repr

/-- An outbound read that waits for its completions (R321, R322), with the mesh packet that asked for it, if one did. -/
structure OutRead where
  id : Nat
  req : Req
  addr : Nat
  len : Nat
  tlps : List OutTlp
  pkt : Option Pkt
deriving DecidableEq, Repr

/-! ### Power, clock, heat -/

/-- A staged turn-on (R357-R359): stages (or sub-stages) admitted, when the next became due, arrival order, whether it
waited, runs at quarter strength, had only neighbour failures since it became due, since when and until which admission interval it
has failed only for a neighbour in every one,
whether a load asked for it, whether it is a router rail's one stage (R355). -/
structure TurnOn where
  stage : Nat
  sub : Nat
  due : Nat
  arrival : Nat
  quarter : Bool
  onlyC : Bool
  cFrom : Nat
  cLast : Nat
  waited : Bool
  forLoad : Bool
  router : Bool
deriving DecidableEq, Repr

/-- A switch-off that has not ended (R354): it waits for the next admission interval, or the region's detours are being loaded, in the
routers named. A dark router rail waits for its detours in the same way (R350). -/
inductive OffReq where
  | idle
  | next (full : Bool) (since : Nat)
  | detours (got : List Nat)
deriving DecidableEq, Repr

/-- A region (R352) beyond its registers: state, turn-on in progress, switch-off in progress, pulse-count caps (R406), the count in force in the
frame, the droop stretch as (slot of its firing, slot of the last firing) (R409), activity counters (R366), the last
estimates in mA, margin evaluation counts (R410), heat bookkeeping (R388), the 100 µs interval of the last change of VSET with both
rails' codes before it (R412), and the CRIT in force since the last evaluation (R418). -/
structure Region where
  st : Nat
  on : Option TurnOn
  off : OffReq
  sliceCap : Bool
  marginCap : Bool
  vmaxCap : Bool
  n : Nat
  stretch : Option (Nat × Nat)
  act : List Nat
  ic : Nat
  ir : Nat
  hiCnt : Nat
  loCnt : Nat
  ceilCnt : Nat
  critPend : Bool
  heatBelow : Option Nat
  stopSince : Option Nat
  capLogged : Bool
  offLogged : Bool
  vPrev : Option (Nat × Nat × Nat)
  crit : Nat
deriving DecidableEq, Repr

def Region.reset : Region :=
  { st := 0, on := none, off := .idle, sliceCap := false, marginCap := false, vmaxCap := false, n := 16, stretch := none, act := List.replicate 8 0, ic := 0, ir := 0,
    hiCnt := 0, loCnt := 0, ceilCnt := 0, critPend := false, heatBelow := none, stopSince := none, capLogged := false,
    offLogged := false, vPrev := none, crit := 2 }

/-- A die (R41) beyond its registers: its estimate in mA, the latest engine level stamped and its frame, the level
applied in the present frame, when its current was last at or above ILIM (R408), whether the spare or its own converter
feeds it, whether its controller runs, a converter failure of the present slot, and when PWR_STAGE_CFG was last written, with the value
in force till then. -/
structure Die where
  est : Nat
  leNext : Option (Nat × Nat)
  applied : Nat
  overLast : Nat
  admitAt : Nat
  lastDecay : Nat
  supplied : Bool
  ctlOk : Bool
  convFail : Bool
  cfgAt : Nat
  cfgOld : Nat
deriving DecidableEq, Repr

def Die.reset : Die :=
  { est := 0, leNext := none, applied := 0, overLast := 0, admitAt := 0, lastDecay := 0, supplied := false, ctlOk := true, convFail := false, cfgAt := 0, cfgOld := 0 }

/-- A held serve window (R376), in ticks. -/
structure Window where
  start : Nat
  len : Nat
  wid : Nat
deriving DecidableEq, Repr

/-- Power control (R368-R391): P in W, S in µW, T and B in W, the ramp rate of the last BUDGET in W/s, the throttle of the
band controller, the ceiling's and average mode's throttle requests, the cells it has enabled for ballast, newest first,
the mode in force, windows by START, the orphan state, when a frame was last heard and its TS and KSEL, the rack keys
installed, the last 100 ms average, which episodes are logged, the stop and the coolant pin, the last tick ramped, and the
sum and number of the values of S in the present interval, and of P, whether an event of R378 falls in it, the tick of the last
accepted BUDGET with the T and RATE in force before it, a stop that starts at the end of its tick with its reason, the B and target
before RAMP_CEIL clamps them, the readings of the input power of the last 60 s as (time, W), newest first, the sum and number of those
of the present trim and band intervals, the number of the interval in which each began, that of the last evaluation of the trailing
average, that of the last write of BAND_CTRL, and the STATUS frame that is queued. -/
structure Band where
  p : Nat
  s : Nat
  t : Nat
  b : Nat
  rate : Nat
  throttle : Nat
  ceilThr : Nat
  avgThr : Nat
  nbal : List Nat
  mode : Nat
  windows : List Window
  orphan : Bool
  heard : Nat
  lastTs : Nat
  ksel : Option Nat
  keys : List (Option (List Byte))
  lastAvg : Nat
  trimLogged : Bool
  oobLogged : Bool
  stopCause : Nat
  stopSeen : List Nat
  stopped : Bool
  coolantOk : Bool
  coolantSince : Nat
  lastTick : Nat
  sAcc : Nat
  sN : Nat
  pAcc : Nat
  pN : Nat
  exc : Bool
  chg : Option (Nat × Nat × Nat)
  stopDue : Option (Nat × Nat)
  bReq : Nat
  tReq : Nat
  samples : List (Nat × Nat)
  trimSum : Nat
  trimCnt : Nat
  judgeSum : Nat
  judgeCnt : Nat
  trimIv : Nat
  judgeIv : Nat
  avgIv : Nat
  modeIv : Nat
  statusQ : Option (List Byte)
deriving DecidableEq, Repr

/-- Facility time (R379-R382): offset from local time in ns, PPS and Sync bookkeeping, the second the next edge takes. -/
structure Time where
  base : Int
  state : Nat
  known : Bool
  goodPps : Nat
  goodSync : Nat
  lastPps : Nat
  lastSync : Nat
  next : Option Nat
  holdSince : Nat
  refOk : Bool
deriving DecidableEq, Repr

/-! ### Boot, flash, licences -/

/-- A firmware slot (R454): whether each device's copy verifies, its SVN and object bytes. -/
structure FwSlot where
  okA : Bool
  okB : Bool
  svn : Nat
  body : List Byte
deriving DecidableEq, Repr

/-- Bring-up (R459-R470) beyond BOOT registers. `kind` is the start kind of R461, `phaseStart` and `startAt` the local times at
which the phase and the start began, `off` that the converters are off, `lost` that the input is lost, `modRst` that MOD_RST# is asserted, `modRstReq` that an
input cold start waits for its release, `cfgDone` that the work of phase 2 is done, `nextDie` the die whose turn it is in a
phase, `excluded` the dies with reasons found in service that the next start excludes, `failedX` the failed die-boundary
crossings as (die, side, crossing), `failedEnds` the ends of links marked failed, `wires` the wires spared in this boot sequence, `liveList` the GDDR7 live list and whether the
last start found the same, `beat` the last heartbeat and `standbyAt` power good on the standby's die, `rmapHash` the digest of the
repair map after the merge. -/
structure Boot where
  kind : Nat
  phaseStart : Nat
  startAt : Nat
  off : Bool
  lost : Bool
  modRst : Bool
  modRstReq : Bool
  cfgDone : Bool
  nextDie : Nat
  excluded : List (Nat × Nat × Bool)
  disabled : List Nat
  holes : List Nat
  failedX : List (Nat × Nat × Nat)
  failedEnds : List (Nat × Nat)
  liveList : List (Nat × Nat)
  sameLive : Bool
  beat : Option Nat
  standbyAt : Option Nat
  rmapHash : List Byte
  engRecs : List Nat
  restartDue : Option Nat
  restartCls : Nat
  restartCold : Bool
  remap : Option (Nat × Nat × List Nat)
  /-- writes of BOOT_REMAP_CMD refused in the present slot because a remap was in progress (R76) -/
  remapLate : List (Nat × Nat)
  covLast : Nat
  covStep : DWord
  wires : List (Nat × Nat × Nat × Nat)
  /-- crossings that failed or lost wires before a warm restart, whose wires it tests again (R469) -/
  suspectX : List (Nat × Nat × Nat)
deriving DecidableEq, Repr

/-- A stored licence (R476): LSEQ, FEATURES, the object's bytes, and whether it verified at the last start. -/
structure Licence where
  lseq : Nat
  features : Nat
  bytes : List Byte
  valid : Bool
deriving DecidableEq, Repr

/-- What the flash devices hold of firmware, licences and the configuration set (R454, R455). -/
structure FlashStore where
  slotA : FwSlot
  slotB : FwSlot
  active : Nat
  licences : List Licence
  configSet : List Byte
deriving DecidableEq, Repr

/-- Configuration flash and eFuses (R53, R453-R456): devices in service, both firmware slots and the active pointer, the repair
map, hard fuses as (TYPE, die, LOC) beyond the factory's, licences, the counters BOOTSEQ, RSEQ and the LMS leaf index, the
configuration set and whether it was readable, service nonces drawn, SVN_MIN and REVOKE, and the LIC_CMD OP in progress. -/
structure Flash where
  dev0 : Bool
  dev1 : Bool
  noDevLogged : Bool
  slotA : FwSlot
  slotB : FwSlot
  active : Nat
  rmap : List RmapEntry
  hard : List (Nat × Nat × Nat)
  licences : List Licence
  bootseq : Nat
  rseq : Nat
  lmsQ : Nat
  configSet : List Byte
  cfgOk : Bool
  calOk : Bool
  /-- the vendor key sets whose digest is the ROM's (R472) -/
  keysOk : List Bool
  /-- the counters are written, and the repair map as the devices hold it (R455) -/
  ctrDone : Bool
  rmapDone : List RmapEntry
  /-- the counters' journals, newest record first: BOOTSEQ, RSEQ, the LMS leaf index, and the four counts of BBOX_CNT_CC and BBOX_CNT_ES (R456) -/
  ctrs : List (List Nat)
  /-- the areas of firmware, licences and configuration as the devices hold them (R455) -/
  kept : FlashStore
  nonces : Nat
  svnMin : Nat
  revoke : Nat
  licOp : Nat
deriving DecidableEq, Repr

/-- Error reporting (R423-R427, R446-R449): records on their way, halts on their way, rate limits, unsent records,
black box. -/
structure Err where
  recQ : List Rec
  haltQ : List HaltReq
  rates : List RateSt
  unsent : List Rec
  mgmtUp : Bool
  /-- local time at which each unsent record came (R426) -/
  ages : List Nat
  /-- records whose syslog message waits for the link (R425, R427) -/
  unlogged : List Rec
  /-- number of collectors of the configuration set, four at most (R425) -/
  collectors : Nat
  staged : List JEntry
  bbox : List JEntry
  lossRseq : Nat
  lossDue : Bool
  lossCount : Nat
  wrapped : Bool
  arrived : List Rec
  /-- serial number of the next record raised (the model's own) -/
  nextSn : Nat
deriving DecidableEq, Repr

/-- The engine. -/
structure State where
  part : Part
  /-- 1.5 GHz slots since State.reset (R400); local time in ns is slot * 2 / 3 -/
  slot : Nat
  /-- every register at a value other than its reset value, by register key -/
  regs : SMap DWord
  /-- what each register that software wrote in the present slot held at its start (R16, R111, R135) -/
  wrote : SMap DWord
  /-- W1C bits that hardware set in the present slot, by register key (R16) -/
  w1cSet : List (Nat × Nat)
  /-- every byte of scratchpad, instruction store, GDDR7 and host memory (with check bits) that is not zero -/
  mem : SMap Byte
  cells : SMap Cell
  regions : SMap Region
  dies : SMap Die
  mcs : SMap Mc
  /-- R13: one pending item per requester and block -/
  pend13 : List (Req × Nat × Pend)
  resp : List (Req × Resp)
  net : List Pkt
  panels : List Panel
  jobs : List Job
  /-- the jobs that left state RUNNING in the present slot (R246) -/
  leftRun : List Nat
  load : Option LoadSt
  ctxs : SMap Ctx
  tags : SMap Tag
  fabQ : List (Nat × FabCmd)
  /-- submissions that a full submit queue holds back in the mesh (R295), by die -/
  fabWait : List (Nat × FabCmd)
  fports : SMap FPort
  rings : SMap Ring
  hports : SMap HPort
  outReads : List OutRead
  nextId : Nat
  band : Band
  time : Time
  boot : Boot
  flash : Flash
  err : Err
  tap : List TapInstr
  out : List Out
  /-- how the host answers the reads of its memory that the running command makes, in order, each one not named with data: a command's
  operand, the model's own field (log 25) -/
  fates : List Fate
  /-- how many free values have been drawn: the model's own field (DESIGN CHOICE, log 3) -/
  free : Nat
  /-- the commands that wait, first in, first out -/
  pending : List Instr
deriving DecidableEq, Repr

/-! ### Reset -/

def Band.reset : Band :=
  { p := 0, s := 0, t := 0, b := 0, rate := 0, throttle := 0, ceilThr := 0, avgThr := 0, nbal := [], mode := 1, windows := [],
    orphan := false, heard := 0, lastTs := 0, ksel := none, keys := [none, none], lastAvg := 0, trimLogged := false,
    oobLogged := false, stopCause := 0, stopSeen := [], stopped := false, coolantOk := false, coolantSince := 0,
    lastTick := 0, sAcc := 0, sN := 0, pAcc := 0, pN := 0, exc := false, chg := none, stopDue := none, bReq := 0, tReq := 0, samples := [], trimSum := 0, trimCnt := 0,
    judgeSum := 0, judgeCnt := 0, trimIv := 0, judgeIv := 0, avgIv := 0, modeIv := 0, statusQ := none }

def Time.reset : Time :=
  { base := 0, state := 0, known := false, goodPps := 0, goodSync := 0, lastPps := 0, lastSync := 0, next := none,
    holdSince := 0, refOk := false }

def Boot.reset : Boot :=
  { kind := 1, phaseStart := 0, startAt := 0, off := false, lost := false, modRst := false, modRstReq := false, cfgDone := false, nextDie := 0,
    excluded := [], disabled := [], holes := [], failedX := [], failedEnds := [], liveList := [], sameLive := false, beat := none, standbyAt := none,
    rmapHash := [], engRecs := [], restartDue := none, restartCls := 0, restartCold := false, remap := none, remapLate := [], covLast := 0,
    covStep := 0, wires := [], suspectX := [] }

def FwSlot.reset : FwSlot := { okA := true, okB := true, svn := 0, body := [] }

def Flash.reset : Flash :=
  { dev0 := true, dev1 := true, noDevLogged := false, slotA := FwSlot.reset, slotB := FwSlot.reset, active := 0, rmap := [],
    hard := [], licences := [], bootseq := 0, rseq := 1, lmsQ := 0, configSet := [], cfgOk := true, calOk := true, keysOk := List.replicate 4 true, ctrDone := true, rmapDone := [],
    ctrs := [[0], [1], [0], [0], [0], [0], [0]],
    kept := { slotA := FwSlot.reset, slotB := FwSlot.reset, active := 0, licences := [], configSet := [] }, nonces := 0,
    svnMin := 0, revoke := 0, licOp := 0 }

def Err.reset : Err :=
  { recQ := [], haltQ := [], rates := [], unsent := [], mgmtUp := true, ages := [], unlogged := [], collectors := 0, staged := [], bbox := [], lossRseq := 0,
    lossDue := false, lossCount := 0, wrapped := false, arrived := [], nextSn := 1 }

/-- The engine right after reset: every register at its table's Reset value (nothing listed), BOOT_STAT.PHASE 1, no
canvas, no job, every unit idle, the queue of commands empty. -/
def State.reset : State :=
  { part := .dz8200, slot := 0, regs := [], wrote := [], w1cSet := [], mem := [], cells := [], regions := [], dies := [], mcs := [], pend13 := [], resp := [],
    net := [], panels := [], jobs := [], leftRun := [], load := none, ctxs := [], tags := [], fabQ := [], fabWait := [], fports := [], rings := [],
    hports := [], outReads := [], nextId := 0, band := Band.reset, time := Time.reset, boot := Boot.reset,
    flash := Flash.reset, err := Err.reset, tap := List.replicate 8 .idcode, out := [], fates := [], free := 0, pending := [] }

end Sys2Proof.Machine
end

