-- ==== Sys2Proof/Machine/RegTable.lean ====
section
/-! DEFINITION. The register tables of the spec (R12-R15): every register's offset in its space, how often it repeats, its
width, and each field's place, access type and reset value. Fields the tables call Reserved with access RO or WO are left
out: they read as zero and ignore writes. A field whose reset value is 'by part' has the value of `partReset`. -/

namespace Sys2Proof.Machine

/-- The access types (R14). -/
inductive Acc where
  | rw | ro | w1c | wo | rwl
deriving DecidableEq, Repr

/-- A field of a register table: lowest bit, width, access type, reset value. -/
structure Fld where
  lo : Nat
  w : Nat
  acc : Acc
  reset : Nat
deriving DecidableEq, Repr

/-- A run of `count` equal registers `stride` bytes apart, the first at offset `off` of its space. -/
structure RegRow where
  off : Nat
  stride : Nat
  count : Nat
  wide : Bool
  fields : List Fld
deriving DecidableEq, Repr

/-! Offsets of the registers of the cell control window (R40); a run of registers is named by its first. -/

def MXE_DESC : Nat := 0x0
def MXE_DESC_PUSH : Nat := 0x20
def MXE_QSTAT : Nat := 0x24
def MXE_PASS_SEQ : Nat := 0x28
def MXE_PASS_DONE : Nat := 0x2C
def MXE_STALL_FREEZE : Nat := 0x30
def MXE_STALL_EASEL : Nat := 0x38
def MXE_CNT_CLR : Nat := 0x40
def MXE_FREEZE_CAUSE : Nat := 0x44
def MXE_WDOG : Nat := 0x48
def MXE_FLUSH : Nat := 0x4C
def MXE_ERR_DESC : Nat := 0x50
def MXE_BAL_CTRL : Nat := 0x54
def MXE_BIAS : Nat := 0x800
def MXE_SR_SEED : Nat := 0x80
def MXE_CHK_ROWS : Nat := 0x88
def MXE_CHK_BOUND : Nat := 0x90
def MXE_CHK_SKIP : Nat := 0x94
def MXE_CHK_LAST : Nat := 0x98
def MXE_RPL_CTRL : Nat := 0x9C
def MXE_RPL_STAT : Nat := 0xA0
def MXE_ARITH_CNT : Nat := 0xA4
def MXE_ARITH_CLR : Nat := 0xA8
def SPM_BANK_OWN : Nat := 0x1000
def SPM_SCRUB_RATE : Nat := 0x1004
def SPM_SCRUB_STAT : Nat := 0x1008
def SPM_PRIME_STAT : Nat := 0x100C
def SPM_ECC_TEST : Nat := 0x1010
def SPM_ECC_TADDR : Nat := 0x1014
def SPM_ECC_TDATA : Nat := 0x1018
def SPM_ECC_TCHK : Nat := 0x1020
def SPM_ECC_CNT : Nat := 0x1024
def SPM_ERR_LAST : Nat := 0x1028
def SPM_MB_AGE : Nat := 0x102C
def SPM_BENG_SRC : Nat := 0x1040
def SPM_BENG_DST : Nat := 0x1044
def SPM_BENG_LEN : Nat := 0x1048
def SPM_BENG_SIG : Nat := 0x104C
def SPM_BENG_PAT : Nat := 0x1050
def SPM_BENG_CMD : Nat := 0x1058
def SPM_BENG_STAT : Nat := 0x105C
def HEAD_CTRL : Nat := 0x4000
def HEAD_STAT : Nat := 0x4004
def HEAD_BOOT_PC : Nat := 0x4008
def HEAD_PC : Nat := 0x400C
def HEAD_TRAP_CAUSE : Nat := 0x4010
def HEAD_TRAP_PC : Nat := 0x4014
def HEAD_TRAP_VAL : Nat := 0x4018
def HEAD_FARW : Nat := 0x401C
def HEAD_IMEM_LOAD : Nat := 0x4020
def HEAD_IMEM_STAT : Nat := 0x4024
def HEAD_IMEM_CNT : Nat := 0x4028
def RTR_XY : Nat := 0x2000
def RTR_SKIP_N : Nat := 0x2004
def RTR_SKIP_SELF : Nat := 0x2008
def RTR_SKIP_S : Nat := 0x200C
def RTR_DIE_ROUTE : Nat := 0x2010
/-- FAB_SUBMIT, the one register of 32 bytes (R311). -/
def FAB_SUBMIT : Nat := 0x51000
def RTR_LINK_STAT : Nat := 0x2014
def RTR_LINK_CFG : Nat := 0x2018
def RTR_RETRY_CNT : Nat := 0x201C
def RTR_MC_LAND : Nat := 0x2020
def RTR_MC_LAND_ADD : Nat := 0x2024
def RTR_MC_WDOG : Nat := 0x2028
def RTR_ERR_LAST : Nat := 0x202C
def RTR_DETOUR : Nat := 0x2040
def RTR_TX_SRC : Nat := 0x2080
def RTR_TX_DLO : Nat := 0x2084
def RTR_TX_DHI : Nat := 0x2088
def RTR_TX_LEN : Nat := 0x208C
def RTR_TX_RECT : Nat := 0x2094
def RTR_TX_SIG : Nat := 0x2090
def RTR_TX_CMD : Nat := 0x2098
def RTR_TX_STAT : Nat := 0x209C
def SYNC_CTR : Nat := 0x3000
def SYNC_WAIT : Nat := 0x3100
def SYNC_SIG : Nat := 0x3200
def SYNC_MC_SE : Nat := 0x3204
def SYNC_HTGT : Nat := 0x3208
def SYNC_TTGT : Nat := 0x320C
def SYNC_WDOG : Nat := 0x3210
def SYNC_WAIT_STAT : Nat := 0x3214
def SYNC_STALE_CNT : Nat := 0x3218
def SYNC_STALE_LAST : Nat := 0x321C
def SYNC_SAT_LO : Nat := 0x3220
def SYNC_SAT_HI : Nat := 0x3224
def PWR_CELL_STAT : Nat := 0x7000
def PWR_CELL_EST : Nat := 0x7040
def PWR_CELL_TEMP : Nat := 0x7044
def PWR_CELL_BAL : Nat := 0x7048
def ERR_STAT : Nat := 0x6000
def ERR_HALT_RSEQ : Nat := 0x6004
def ERR_TT : Nat := 0x6008
def ERR_TT_CNT : Nat := 0x600C
def ERR_RT_STEP : Nat := 0x6010
def ERR_RT_TIME : Nat := 0x6018

/-! Offsets of the registers of the die control space (R41); a run of registers is named by its first. -/

def FUSE_SKIP : Nat := 0x71000
def FUSE_SPARES : Nat := 0x710C0
def FUSE_RMAP_LIVE : Nat := 0x710C4
def MEM_STAT : Nat := 0x100000
def MEM_CFG : Nat := 0x100004
def MEM_TRAIN_STAT : Nat := 0x100008
def MEM_TEMP : Nat := 0x10000C
def MEM_ECC_CNT : Nat := 0x100010
def MEM_EDC_CNT : Nat := 0x100014
def MEM_ERR_ADDR : Nat := 0x100018
def MEM_ERR_INFO : Nat := 0x100020
def MEM_SCRUB_RATE : Nat := 0x100024
def MEM_SCRUB_STAT : Nat := 0x100028
def MEM_ECC_TCMD : Nat := 0x10002C
def MEM_ECC_TADDR : Nat := 0x100030
def MEM_ECC_TCHK : Nat := 0x100038
def FAB_ENGINE_ID : Nat := 0x50000
def FAB_QSEL : Nat := 0x50004
def FAB_QCFG0 : Nat := 0x50008
def FAB_QCFG1 : Nat := 0x5000C
def FAB_QCFG2 : Nat := 0x50010
def FAB_QCFG3 : Nat := 0x50014
def FAB_QCFG4 : Nat := 0x50018
def FAB_QCFG5 : Nat := 0x50020
def FAB_QSTAT : Nat := 0x50028
def FAB_SUBMIT_STAT : Nat := 0x5002C
def FAB_TAG_STAT : Nat := 0x50030
def FAB_PCFG : Nat := 0x50100
def FAB_PETYPE : Nat := 0x50104
def FAB_PMAC : Nat := 0x50108
def FAB_PSTAT : Nat := 0x50110
def FAB_PCMD : Nat := 0x50114
def FAB_PTIME : Nat := 0x50118
def FAB_PFEC : Nat := 0x50120
def FAB_PRETRY : Nat := 0x50128
def FAB_PDROP : Nat := 0x5012C
def PCIE_ID : Nat := 0x60000
def PCIE_LINK : Nat := 0x60004
def PCIE_CTRL : Nat := 0x60008
def PCIE_AP : Nat := 0x60010
def PCIE_EVQ_BASE : Nat := 0x60020
def PCIE_EVQ_SIZE : Nat := 0x60028
def PCIE_EVQ_PI : Nat := 0x6002C
def PCIE_EVQ_CI : Nat := 0x60030
def PCIE_EVQ_STAT : Nat := 0x60034
def PCIE_RING_SEL : Nat := 0x60040
def PCIE_RING_BASE : Nat := 0x60048
def PCIE_RING_CFG : Nat := 0x60050
def PCIE_RING_CI_ADDR : Nat := 0x60058
def PCIE_RING_STAT : Nat := 0x60060
def PCIE_DMA_STAT : Nat := 0x60080
def PCIE_MSIX_RAISE : Nat := 0x600C0
def PCIE_CPL_TO : Nat := 0x600C4
def PCIE_HOST_ADDR : Nat := 0x600C8
def PWR_IN : Nat := 0x10000
def PWR_BLADE : Nat := 0x10004
def PWR_CONV : Nat := 0x1000C
def PWR_PHASE : Nat := 0x10010
def PWR_DIE_I : Nat := 0x10014
def PWR_FIELD_V : Nat := 0x10018
def PWR_REG_CMD : Nat := 0x10020
def PWR_REG_RES : Nat := 0x10024
def PWR_STAGE_CFG : Nat := 0x10028
def PWR_STAGE_STAT : Nat := 0x1002C
def PWR_RSTATE : Nat := 0x10040
def LDO_CR : Nat := 0x20000
def TEMP_R : Nat := 0x30000
def TEMP_CFG : Nat := 0x30100
def CLK_STAT : Nat := 0x0
def CLK_THR : Nat := 0x4
def CLK_MCFG : Nat := 0x8
def CLK_DCFG : Nat := 0xC
def CLK_R : Nat := 0x100
def CLK_DROOP : Nat := 0x200
def CAL_STAT : Nat := 0x80000
def CAL_LAT_REG : Nat := 0x80004
def CAL_BND : Nat := 0x80080
def FUSE_STAT : Nat := 0x70000
def FUSE_SVN : Nat := 0x70004
def FUSE_SERIAL : Nat := 0x70008
def FUSE_DIE_ID : Nat := 0x70010
def FUSE_NVOTE : Nat := 0x70018
def FUSE_WIRES : Nat := 0x7001C
def FUSE_XDIS : Nat := 0x70020
def CAL_SEAM0 : Nat := 0x80040
def CAL_SEAM1 : Nat := 0x80060
def CAL_BLAT0 : Nat := 0x80100
def CAL_BLAT1 : Nat := 0x80120
def CAL_BLAT2 : Nat := 0x80140
def CAL_BLAT3 : Nat := 0x80160

/-! Offsets of the registers of the engine control space (R42); a run of registers is named by its first. -/

def BOOT_CANVAS : Nat := 0x50100
def BOOT_DIE_STATE : Nat := 0x50104
def BOOT_CANVAS_GEN : Nat := 0x50108
def BOOT_HOLE_COUNT : Nat := 0x5010C
def BOOT_HOLE_IDX : Nat := 0x50110
def BOOT_HOLE_DATA : Nat := 0x50114
def BOOT_REMAP_CMD : Nat := 0x50120
def BOOT_REMAP_STAT : Nat := 0x50124
def BOOT_LOAD_SRC : Nat := 0x50200
def BOOT_LOAD_LEN : Nat := 0x50208
def BOOT_LOAD_ORG : Nat := 0x5020C
def BOOT_LOAD_CMD : Nat := 0x50210
def BOOT_LOAD_STAT : Nat := 0x50214
def BOOT_LOAD_INFO : Nat := 0x50218
def BOOT_JOB_CMD : Nat := 0x50220
def BOOT_JOB_SEL : Nat := 0x50224
def BOOT_JOB_STAT : Nat := 0x50228
def BOOT_JOB_COUNT : Nat := 0x5022C
def STEP_DECL : Nat := 0x60000
def STEP_SEL : Nat := 0x60004
def STEP_JOB_NUM : Nat := 0x60008
def STEP_CTRL : Nat := 0x60010
def STEP_ENGINE : Nat := 0x60018
def STEP_LAST : Nat := 0x60020
def BOOT_GDDR_CAP : Nat := 0x50140
def BOOT_GDDR_STAT : Nat := 0x50148
def BOOT_GDDR_LIVE : Nat := 0x50150
def TIME_NOW : Nat := 0x0
def TIME_CFG : Nat := 0x8
def TIME_STAT : Nat := 0xC
def TIME_OFFSET : Nat := 0x10
def TIME_SET : Nat := 0x18
def RAMP_SP : Nat := 0x10000
def RAMP_TARGET : Nat := 0x10004
def RAMP_BUDGET : Nat := 0x10008
def RAMP_CEIL : Nat := 0x1000C
def RAMP_RATE : Nat := 0x10010
def RAMP_ORPHAN : Nat := 0x10014
def RAMP_REQ : Nat := 0x10018
def RAMP_STAT : Nat := 0x1001C
def RAMP_WSEL : Nat := 0x10020
def RAMP_WSTART : Nat := 0x10028
def RAMP_WLEN : Nat := 0x10030
def RAMP_WID : Nat := 0x10034
def BAND_CTRL : Nat := 0x20000
def BAND_AVG : Nat := 0x20004
def BAND_EST : Nat := 0x20008
def BAND_MEAS : Nat := 0x2000C
def BAND_TRIM : Nat := 0x20010
def BAND_STAT : Nat := 0x20014
def BAND_OOB : Nat := 0x20018
def BAND_BUS_CFG : Nat := 0x20020
def BAND_BUS_CNT : Nat := 0x20024
def BAND_BUS_STAT : Nat := 0x20028
def BAND_STOP : Nat := 0x20030
def BAND_RESTART : Nat := 0x20034
def BBOX_STAT : Nat := 0x40000
def BBOX_PEND : Nat := 0x40004
def BBOX_FIRST : Nat := 0x40008
def BBOX_NEXT : Nat := 0x4000C
def BBOX_SEL : Nat := 0x40010
def BBOX_SEL_STAT : Nat := 0x40014
def BBOX_RSEQ : Nat := 0x40018
def BBOX_CNT_CC : Nat := 0x4001C
def BBOX_CNT_ES : Nat := 0x40020
def BBOX_COV : Nat := 0x40030
def BBOX_COV_IDX : Nat := 0x40034
def BBOX_COV_DATA : Nat := 0x40038
def BBOX_DATA : Nat := 0x40040
def BOOT_STAT : Nat := 0x50000
def BOOT_SEQ : Nat := 0x50004
def BOOT_RESET : Nat := 0x50008
def BOOT_CAUSE : Nat := 0x5000C
def BOOT_PTIME : Nat := 0x50010
def BOOT_POVR : Nat := 0x50040
def BOOT_FW_SVN : Nat := 0x50044
def BOOT_FW_STAT : Nat := 0x50048
def LIC_STAT : Nat := 0x30000
def LIC_CMD : Nat := 0x30004
def LIC_RES : Nat := 0x30008
def LIC_SRC : Nat := 0x30010
def LIC_LEN : Nat := 0x30018
def LIC_DST : Nat := 0x30020
def LIC_NONCE : Nat := 0x30030
def LIC_ANON : Nat := 0x30040
def LIC_LMS : Nat := 0x30060

def cellRows0 : List RegRow := [
  ⟨MXE_DESC, 4, 8, false, [⟨0, 32, .rw, 0⟩]⟩,
  ⟨MXE_DESC_PUSH, 0, 1, false, [⟨0, 1, .wo, 0⟩]⟩,
  ⟨MXE_QSTAT, 0, 1, false, [⟨0, 4, .ro, 0⟩, ⟨4, 2, .ro, 0⟩, ⟨6, 4, .ro, 0⟩, ⟨10, 1, .ro, 0⟩, ⟨11, 1, .ro, 0⟩, ⟨12, 1, .ro, 0⟩]⟩,
  ⟨MXE_PASS_SEQ, 0, 1, false, [⟨0, 32, .ro, 0⟩]⟩,
  ⟨MXE_PASS_DONE, 0, 1, false, [⟨0, 32, .ro, 0⟩]⟩,
  ⟨MXE_STALL_FREEZE, 0, 1, true, [⟨0, 64, .ro, 0⟩]⟩,
  ⟨MXE_STALL_EASEL, 0, 1, true, [⟨0, 64, .ro, 0⟩]⟩,
  ⟨MXE_CNT_CLR, 0, 1, false, [⟨0, 1, .wo, 0⟩, ⟨1, 1, .wo, 0⟩]⟩,
  ⟨MXE_FREEZE_CAUSE, 0, 1, false, [⟨0, 1, .ro, 0⟩, ⟨1, 1, .ro, 0⟩, ⟨16, 16, .ro, 0⟩]⟩,
  ⟨MXE_WDOG, 0, 1, false, [⟨0, 5, .rw, 20⟩]⟩,
  ⟨MXE_FLUSH, 0, 1, false, [⟨0, 1, .wo, 0⟩]⟩,
  ⟨MXE_ERR_DESC, 0, 1, false, [⟨0, 4, .ro, 0⟩, ⟨8, 24, .ro, 0⟩]⟩,
  ⟨MXE_BAL_CTRL, 0, 1, false, [⟨0, 1, .rw, 0⟩]⟩,
  ⟨MXE_BIAS, 4, 512, false, [⟨0, 32, .rw, 0⟩]⟩,
  ⟨MXE_SR_SEED, 0, 1, true, [⟨0, 64, .rw, 0⟩]⟩,
  ⟨MXE_CHK_ROWS, 0, 1, true, [⟨0, 64, .ro, 0⟩]⟩,
  ⟨MXE_CHK_BOUND, 0, 1, false, [⟨0, 32, .ro, 0⟩]⟩,
  ⟨MXE_CHK_SKIP, 0, 1, false, [⟨0, 32, .ro, 0⟩]⟩,
  ⟨MXE_CHK_LAST, 0, 1, false, [⟨0, 8, .ro, 0⟩, ⟨8, 3, .ro, 0⟩, ⟨11, 2, .ro, 0⟩, ⟨13, 7, .ro, 0⟩, ⟨20, 12, .ro, 0⟩]⟩,
  ⟨MXE_RPL_CTRL, 0, 1, false, [⟨0, 1, .rw, 1⟩]⟩,
  ⟨MXE_RPL_STAT, 0, 1, false, [⟨0, 10, .ro, 0⟩, ⟨16, 8, .ro, 0⟩, ⟨24, 1, .ro, 0⟩]⟩,
  ⟨MXE_ARITH_CNT, 0, 1, false, [⟨0, 16, .ro, 0⟩, ⟨16, 16, .ro, 0⟩]⟩]

def cellRows1 : List RegRow := [
  ⟨MXE_ARITH_CLR, 0, 1, false, [⟨0, 1, .wo, 0⟩, ⟨1, 1, .wo, 0⟩, ⟨2, 1, .wo, 0⟩]⟩,
  ⟨SPM_BANK_OWN, 0, 1, false, [⟨0, 3, .rw, 4⟩, ⟨4, 3, .rw, 4⟩, ⟨8, 3, .rw, 4⟩, ⟨12, 3, .rw, 4⟩, ⟨16, 3, .rw, 4⟩, ⟨20, 3, .rw, 4⟩, ⟨24, 3, .rw, 4⟩, ⟨28, 3, .rw, 4⟩]⟩,
  ⟨SPM_SCRUB_RATE, 0, 1, false, [⟨0, 16, .rw, 10000⟩]⟩,
  ⟨SPM_SCRUB_STAT, 0, 1, false, [⟨0, 16, .ro, 0⟩, ⟨16, 8, .ro, 0⟩]⟩,
  ⟨SPM_PRIME_STAT, 0, 1, false, [⟨0, 1, .ro, 0⟩, ⟨1, 1, .ro, 0⟩]⟩,
  ⟨SPM_ECC_TEST, 0, 1, false, [⟨0, 2, .wo, 0⟩]⟩,
  ⟨SPM_ECC_TADDR, 0, 1, false, [⟨3, 18, .rw, 0⟩]⟩,
  ⟨SPM_ECC_TDATA, 0, 1, true, [⟨0, 64, .rw, 0⟩]⟩,
  ⟨SPM_ECC_TCHK, 0, 1, false, [⟨0, 8, .rw, 0⟩, ⟨8, 8, .ro, 0⟩]⟩,
  ⟨SPM_ECC_CNT, 0, 1, false, [⟨0, 16, .rw, 0⟩, ⟨16, 16, .rw, 0⟩]⟩,
  ⟨SPM_ERR_LAST, 0, 1, false, [⟨0, 21, .ro, 0⟩, ⟨21, 3, .ro, 0⟩, ⟨24, 8, .ro, 0⟩]⟩,
  ⟨SPM_MB_AGE, 0, 1, false, [⟨0, 6, .rw, 16⟩]⟩,
  ⟨SPM_BENG_SRC, 0, 1, false, [⟨0, 21, .rw, 0⟩, ⟨21, 11, .rw, 0⟩]⟩,
  ⟨SPM_BENG_DST, 0, 1, false, [⟨0, 21, .rw, 0⟩, ⟨21, 11, .rw, 0⟩]⟩,
  ⟨SPM_BENG_LEN, 0, 1, false, [⟨0, 15, .rw, 0⟩, ⟨15, 17, .rw, 0⟩]⟩,
  ⟨SPM_BENG_SIG, 0, 1, false, [⟨0, 6, .rw, 0⟩, ⟨6, 2, .rw, 0⟩, ⟨8, 8, .rw, 1⟩, ⟨16, 1, .rw, 0⟩, ⟨17, 15, .rw, 0⟩]⟩,
  ⟨SPM_BENG_PAT, 0, 1, true, [⟨0, 64, .rw, 0⟩]⟩,
  ⟨SPM_BENG_CMD, 0, 1, false, [⟨0, 2, .wo, 0⟩]⟩,
  ⟨SPM_BENG_STAT, 0, 1, false, [⟨0, 3, .ro, 0⟩, ⟨3, 1, .ro, 0⟩, ⟨4, 4, .ro, 0⟩, ⟨8, 24, .ro, 0⟩]⟩,
  ⟨HEAD_CTRL, 4096, 2, false, [⟨0, 1, .rw, 0⟩, ⟨1, 1, .rw, 0⟩]⟩,
  ⟨HEAD_STAT, 4096, 2, false, [⟨0, 3, .ro, 0⟩, ⟨3, 1, .ro, 1⟩]⟩,
  ⟨HEAD_BOOT_PC, 4096, 2, false, [⟨1, 14, .rw, 0⟩]⟩]

def cellRows2 : List RegRow := [
  ⟨HEAD_PC, 4096, 2, false, [⟨0, 32, .ro, 0⟩]⟩,
  ⟨HEAD_TRAP_CAUSE, 4096, 2, false, [⟨0, 32, .ro, 0⟩]⟩,
  ⟨HEAD_TRAP_PC, 4096, 2, false, [⟨0, 32, .ro, 0⟩]⟩,
  ⟨HEAD_TRAP_VAL, 4096, 2, false, [⟨0, 32, .ro, 0⟩]⟩,
  ⟨HEAD_FARW, 4096, 2, false, [⟨0, 18, .rw, 0⟩]⟩,
  ⟨HEAD_IMEM_LOAD, 4096, 2, false, [⟨0, 10, .wo, 0⟩, ⟨10, 10, .wo, 0⟩, ⟨20, 9, .wo, 0⟩]⟩,
  ⟨HEAD_IMEM_STAT, 4096, 2, false, [⟨0, 1, .ro, 0⟩, ⟨1, 3, .ro, 0⟩]⟩,
  ⟨HEAD_IMEM_CNT, 4096, 2, false, [⟨0, 16, .rw, 0⟩]⟩,
  ⟨RTR_XY, 0, 1, false, [⟨0, 8, .ro, 0⟩, ⟨8, 7, .ro, 0⟩, ⟨15, 1, .ro, 0⟩, ⟨16, 1, .ro, 0⟩, ⟨17, 3, .ro, 0⟩, ⟨20, 6, .ro, 0⟩, ⟨26, 6, .ro, 0⟩]⟩,
  ⟨RTR_SKIP_N, 0, 1, false, [⟨0, 6, .ro, 46⟩, ⟨8, 6, .ro, 47⟩, ⟨16, 1, .ro, 0⟩]⟩,
  ⟨RTR_SKIP_SELF, 0, 1, false, [⟨0, 6, .ro, 46⟩, ⟨8, 6, .ro, 47⟩, ⟨16, 1, .ro, 0⟩]⟩,
  ⟨RTR_SKIP_S, 0, 1, false, [⟨0, 6, .ro, 46⟩, ⟨8, 6, .ro, 47⟩, ⟨16, 1, .ro, 0⟩]⟩,
  ⟨RTR_DIE_ROUTE, 0, 1, false, [⟨0, 2, .ro, 0⟩, ⟨2, 2, .ro, 0⟩, ⟨4, 2, .ro, 0⟩, ⟨6, 2, .ro, 0⟩, ⟨8, 2, .ro, 0⟩, ⟨10, 2, .ro, 0⟩, ⟨12, 2, .ro, 0⟩, ⟨14, 2, .ro, 0⟩]⟩,
  ⟨RTR_LINK_STAT, 0, 1, false, [⟨0, 12, .ro, 0⟩, ⟨12, 1, .ro, 0⟩]⟩,
  ⟨RTR_LINK_CFG, 0, 1, false, [⟨0, 4, .rw, 8⟩]⟩,
  ⟨RTR_RETRY_CNT, 0, 1, false, [⟨0, 16, .rw, 0⟩, ⟨16, 8, .rw, 0⟩]⟩,
  ⟨RTR_MC_LAND, 0, 1, false, [⟨0, 16, .ro, 0⟩, ⟨16, 1, .rw, 1⟩]⟩,
  ⟨RTR_MC_LAND_ADD, 0, 1, false, [⟨0, 16, .wo, 0⟩]⟩,
  ⟨RTR_MC_WDOG, 0, 1, false, [⟨0, 5, .rw, 20⟩]⟩,
  ⟨RTR_ERR_LAST, 0, 1, false, [⟨0, 8, .ro, 0⟩, ⟨8, 4, .ro, 0⟩, ⟨12, 16, .ro, 0⟩]⟩,
  ⟨RTR_DETOUR, 4, 16, false, [⟨0, 1, .ro, 0⟩, ⟨1, 4, .ro, 0⟩, ⟨5, 4, .ro, 0⟩, ⟨9, 1, .ro, 0⟩, ⟨10, 8, .ro, 0⟩, ⟨18, 7, .ro, 0⟩]⟩,
  ⟨RTR_TX_SRC, 0, 1, false, [⟨0, 21, .rw, 0⟩, ⟨21, 11, .rw, 0⟩]⟩]

def cellRows3 : List RegRow := [
  ⟨RTR_TX_DLO, 0, 1, false, [⟨0, 32, .rw, 0⟩]⟩,
  ⟨RTR_TX_DHI, 0, 1, false, [⟨0, 16, .rw, 0⟩, ⟨16, 16, .rw, 0⟩]⟩,
  ⟨RTR_TX_LEN, 0, 1, false, [⟨0, 16, .rw, 0⟩, ⟨16, 16, .rw, 0⟩]⟩,
  ⟨RTR_TX_RECT, 0, 1, false, [⟨0, 8, .rw, 0⟩, ⟨8, 7, .rw, 0⟩, ⟨15, 17, .rw, 0⟩]⟩,
  ⟨RTR_TX_SIG, 0, 1, false, [⟨0, 6, .rw, 0⟩, ⟨6, 2, .rw, 0⟩, ⟨8, 8, .rw, 1⟩, ⟨16, 1, .rw, 0⟩, ⟨17, 1, .rw, 0⟩, ⟨18, 6, .rw, 0⟩, ⟨24, 2, .rw, 0⟩, ⟨26, 6, .rw, 0⟩]⟩,
  ⟨RTR_TX_CMD, 0, 1, false, [⟨0, 2, .wo, 0⟩]⟩,
  ⟨RTR_TX_STAT, 0, 1, false, [⟨0, 3, .ro, 0⟩, ⟨3, 1, .ro, 0⟩, ⟨4, 4, .ro, 0⟩, ⟨8, 24, .ro, 0⟩]⟩,
  ⟨SYNC_CTR, 4, 48, false, [⟨0, 20, .rw, 0⟩, ⟨20, 2, .rw, 0⟩]⟩,
  ⟨SYNC_WAIT, 4, 48, false, [⟨0, 20, .ro, 0⟩, ⟨20, 2, .ro, 0⟩]⟩,
  ⟨SYNC_SIG, 0, 1, false, [⟨0, 6, .wo, 0⟩, ⟨6, 2, .wo, 0⟩, ⟨8, 8, .wo, 0⟩, ⟨16, 8, .wo, 0⟩, ⟨24, 7, .wo, 0⟩, ⟨31, 1, .wo, 0⟩]⟩,
  ⟨SYNC_MC_SE, 0, 1, false, [⟨0, 8, .rw, 0⟩, ⟨8, 7, .rw, 0⟩]⟩,
  ⟨SYNC_HTGT, 0, 1, false, [⟨0, 20, .rw, 0⟩]⟩,
  ⟨SYNC_TTGT, 0, 1, false, [⟨0, 20, .rw, 0⟩]⟩,
  ⟨SYNC_WDOG, 0, 1, false, [⟨0, 24, .rw, 1500000⟩]⟩,
  ⟨SYNC_WAIT_STAT, 0, 1, false, [⟨0, 1, .ro, 0⟩, ⟨1, 6, .ro, 0⟩, ⟨7, 1, .ro, 0⟩, ⟨8, 6, .ro, 0⟩]⟩,
  ⟨SYNC_STALE_CNT, 0, 1, false, [⟨0, 16, .rw, 0⟩]⟩,
  ⟨SYNC_STALE_LAST, 0, 1, false, [⟨0, 6, .ro, 0⟩, ⟨6, 2, .ro, 0⟩, ⟨8, 2, .ro, 0⟩, ⟨10, 8, .ro, 0⟩, ⟨18, 7, .ro, 0⟩, ⟨25, 1, .ro, 0⟩]⟩,
  ⟨SYNC_SAT_LO, 0, 1, false, [⟨0, 32, .w1c, 0⟩]⟩,
  ⟨SYNC_SAT_HI, 0, 1, false, [⟨0, 16, .w1c, 0⟩]⟩,
  ⟨PWR_CELL_STAT, 0, 1, false, [⟨0, 4, .ro, 0⟩, ⟨4, 6, .ro, 30⟩, ⟨10, 1, .ro, 0⟩, ⟨11, 3, .ro, 0⟩, ⟨14, 3, .ro, 0⟩]⟩,
  ⟨PWR_CELL_EST, 0, 1, false, [⟨0, 16, .ro, 0⟩, ⟨16, 16, .ro, 0⟩]⟩,
  ⟨PWR_CELL_TEMP, 0, 1, false, [⟨0, 8, .ro, 0⟩, ⟨8, 5, .ro, 16⟩]⟩]

def cellRows4 : List RegRow := [
  ⟨PWR_CELL_BAL, 0, 1, false, [⟨0, 32, .ro, 0⟩]⟩,
  ⟨ERR_STAT, 0, 1, false, [⟨0, 1, .ro, 0⟩, ⟨1, 8, .ro, 0⟩, ⟨9, 1, .ro, 0⟩]⟩,
  ⟨ERR_HALT_RSEQ, 0, 1, false, [⟨0, 32, .ro, 0⟩]⟩,
  ⟨ERR_TT, 0, 1, false, [⟨0, 2, .ro, 0⟩, ⟨2, 2, .ro, 0⟩, ⟨4, 3, .ro, 0⟩, ⟨7, 3, .ro, 0⟩]⟩,
  ⟨ERR_TT_CNT, 0, 1, false, [⟨0, 16, .rw, 0⟩, ⟨16, 16, .rw, 0⟩]⟩,
  ⟨ERR_RT_STEP, 0, 1, true, [⟨0, 64, .ro, 0⟩]⟩,
  ⟨ERR_RT_TIME, 0, 1, true, [⟨0, 64, .ro, 0⟩]⟩]

/-- Registers of a cell (R107, R147, R181-R182, R225-R226, R364, R397, R450). -/
def cellRows : List RegRow := cellRows0 ++ cellRows1 ++ cellRows2 ++ cellRows3 ++ cellRows4

def dieRows0 : List RegRow := [
  ⟨FUSE_SKIP, 4, 48, false, [⟨0, 6, .ro, 46⟩, ⟨6, 2, .ro, 0⟩, ⟨8, 6, .ro, 47⟩, ⟨14, 2, .ro, 0⟩, ⟨16, 1, .ro, 1⟩, ⟨17, 1, .ro, 1⟩]⟩,
  ⟨FUSE_SPARES, 0, 1, false, [⟨0, 7, .ro, 96⟩]⟩,
  ⟨FUSE_RMAP_LIVE, 0, 1, false, [⟨0, 12, .ro, 0⟩]⟩,
  ⟨MEM_STAT, 65536, 12, false, [⟨0, 3, .ro, 0⟩, ⟨3, 4, .ro, 0⟩, ⟨7, 1, .ro, 0⟩, ⟨8, 1, .ro, 0⟩]⟩,
  ⟨MEM_CFG, 65536, 12, false, [⟨0, 2, .ro, 2⟩, ⟨8, 7, .ro, 127⟩]⟩,
  ⟨MEM_TRAIN_STAT, 65536, 12, false, [⟨0, 2, .ro, 0⟩, ⟨2, 4, .ro, 0⟩, ⟨6, 3, .ro, 0⟩, ⟨12, 12, .ro, 0⟩]⟩,
  ⟨MEM_TEMP, 65536, 12, false, [⟨0, 8, .ro, 0⟩, ⟨8, 8, .ro, 128⟩]⟩,
  ⟨MEM_ECC_CNT, 65536, 12, false, [⟨0, 16, .rw, 0⟩, ⟨16, 16, .rw, 0⟩]⟩,
  ⟨MEM_EDC_CNT, 65536, 12, false, [⟨0, 16, .rw, 0⟩, ⟨16, 8, .rw, 0⟩]⟩,
  ⟨MEM_ERR_ADDR, 65536, 12, true, [⟨0, 44, .ro, 0⟩]⟩,
  ⟨MEM_ERR_INFO, 65536, 12, false, [⟨0, 8, .ro, 0⟩, ⟨8, 16, .ro, 0⟩, ⟨24, 2, .ro, 0⟩]⟩,
  ⟨MEM_SCRUB_RATE, 65536, 12, false, [⟨0, 16, .rw, 240⟩]⟩,
  ⟨MEM_SCRUB_STAT, 65536, 12, false, [⟨0, 16, .ro, 0⟩, ⟨16, 1, .ro, 0⟩]⟩,
  ⟨MEM_ECC_TCMD, 65536, 12, false, [⟨0, 2, .wo, 0⟩]⟩,
  ⟨MEM_ECC_TADDR, 65536, 12, true, [⟨5, 39, .rw, 0⟩]⟩,
  ⟨MEM_ECC_TCHK, 65536, 12, false, [⟨0, 16, .rw, 0⟩, ⟨16, 16, .ro, 0⟩]⟩,
  ⟨FAB_ENGINE_ID, 0, 1, false, [⟨0, 16, .rw, 65535⟩]⟩,
  ⟨FAB_QSEL, 0, 1, false, [⟨0, 13, .rw, 0⟩]⟩,
  ⟨FAB_QCFG0, 0, 1, false, [⟨0, 2, .rw, 0⟩, ⟨2, 2, .rw, 0⟩, ⟨4, 7, .rw, 1⟩, ⟨16, 16, .ro, 65535⟩]⟩,
  ⟨FAB_QCFG1, 0, 1, false, [⟨0, 16, .rw, 65535⟩, ⟨16, 16, .rw, 0⟩]⟩,
  ⟨FAB_QCFG2, 0, 1, false, [⟨0, 32, .rw, 0⟩]⟩,
  ⟨FAB_QCFG3, 0, 1, false, [⟨0, 16, .rw, 0⟩]⟩]

def dieRows1 : List RegRow := [
  ⟨FAB_QCFG4, 0, 1, true, [⟨0, 48, .rw, 0⟩]⟩,
  ⟨FAB_QCFG5, 0, 1, true, [⟨0, 48, .rw, 0⟩]⟩,
  ⟨FAB_QSTAT, 0, 1, false, [⟨0, 7, .ro, 0⟩, ⟨7, 4, .ro, 0⟩]⟩,
  ⟨FAB_SUBMIT_STAT, 0, 1, false, [⟨0, 10, .ro, 0⟩, ⟨10, 4, .ro, 0⟩]⟩,
  ⟨FAB_TAG_STAT, 0, 1, false, [⟨0, 17, .ro, 0⟩]⟩,
  ⟨FAB_PCFG, 64, 3, false, [⟨0, 1, .rw, 1⟩, ⟨1, 1, .rw, 0⟩, ⟨2, 2, .rw, 0⟩, ⟨4, 2, .rw, 2⟩, ⟨6, 1, .rw, 0⟩, ⟨8, 12, .rw, 0⟩, ⟨20, 3, .rw, 0⟩]⟩,
  ⟨FAB_PETYPE, 64, 3, false, [⟨0, 16, .rw, 0⟩]⟩,
  ⟨FAB_PMAC, 64, 3, true, [⟨0, 48, .rwl, 0⟩]⟩,
  ⟨FAB_PSTAT, 64, 3, false, [⟨0, 3, .ro, 0⟩, ⟨4, 3, .ro, 0⟩, ⟨7, 3, .ro, 0⟩, ⟨10, 8, .ro, 0⟩, ⟨18, 1, .ro, 0⟩]⟩,
  ⟨FAB_PCMD, 64, 3, false, [⟨0, 1, .wo, 0⟩]⟩,
  ⟨FAB_PTIME, 64, 3, false, [⟨0, 16, .rw, 200⟩, ⟨16, 16, .rw, 100⟩]⟩,
  ⟨FAB_PFEC, 64, 3, true, [⟨0, 32, .rw, 0⟩, ⟨32, 32, .rw, 0⟩]⟩,
  ⟨FAB_PRETRY, 64, 3, false, [⟨0, 16, .rw, 0⟩, ⟨16, 16, .rw, 0⟩]⟩,
  ⟨FAB_PDROP, 64, 3, false, [⟨0, 16, .rw, 0⟩, ⟨16, 16, .rw, 0⟩]⟩,
  ⟨PCIE_ID, 0, 1, false, [⟨0, 16, .ro, 0⟩, ⟨16, 1, .ro, 0⟩]⟩,
  ⟨PCIE_LINK, 0, 1, false, [⟨0, 3, .ro, 0⟩, ⟨3, 5, .ro, 0⟩]⟩,
  ⟨PCIE_CTRL, 0, 1, false, [⟨0, 1, .rw, 1⟩, ⟨1, 1, .rw, 0⟩]⟩,
  ⟨PCIE_AP, 4, 4, false, [⟨0, 14, .rw, 0⟩]⟩,
  ⟨PCIE_EVQ_BASE, 0, 1, true, [⟨0, 44, .rw, 0⟩]⟩,
  ⟨PCIE_EVQ_SIZE, 0, 1, false, [⟨0, 5, .rw, 6⟩]⟩,
  ⟨PCIE_EVQ_PI, 0, 1, false, [⟨0, 17, .ro, 0⟩]⟩,
  ⟨PCIE_EVQ_CI, 0, 1, false, [⟨0, 17, .rw, 0⟩]⟩]

def dieRows2 : List RegRow := [
  ⟨PCIE_EVQ_STAT, 0, 1, false, [⟨0, 16, .ro, 0⟩, ⟨16, 1, .ro, 0⟩]⟩,
  ⟨PCIE_RING_SEL, 0, 1, false, [⟨0, 8, .rw, 0⟩]⟩,
  ⟨PCIE_RING_BASE, 0, 1, true, [⟨0, 44, .rw, 0⟩]⟩,
  ⟨PCIE_RING_CFG, 0, 1, false, [⟨0, 4, .rw, 4⟩, ⟨4, 4, .rw, 0⟩, ⟨8, 1, .rw, 0⟩, ⟨9, 1, .rw, 0⟩]⟩,
  ⟨PCIE_RING_CI_ADDR, 0, 1, true, [⟨0, 44, .rw, 0⟩]⟩,
  ⟨PCIE_RING_STAT, 0, 1, false, [⟨0, 16, .ro, 0⟩, ⟨16, 1, .ro, 0⟩, ⟨17, 3, .ro, 0⟩]⟩,
  ⟨PCIE_DMA_STAT, 4, 16, false, [⟨0, 1, .ro, 0⟩, ⟨1, 8, .ro, 0⟩]⟩,
  ⟨PCIE_MSIX_RAISE, 0, 1, false, [⟨0, 9, .wo, 0⟩]⟩,
  ⟨PCIE_CPL_TO, 0, 1, false, [⟨0, 16, .rw, 50⟩]⟩,
  ⟨PCIE_HOST_ADDR, 0, 1, true, [⟨0, 48, .ro, 0⟩, ⟨48, 4, .ro, 0⟩]⟩,
  ⟨PWR_IN, 0, 1, false, [⟨0, 16, .ro, 0⟩, ⟨16, 10, .ro, 0⟩]⟩,
  ⟨PWR_BLADE, 0, 1, false, [⟨0, 10, .ro, 0⟩, ⟨10, 10, .ro, 0⟩, ⟨20, 1, .ro, 0⟩, ⟨21, 1, .ro, 0⟩, ⟨22, 10, .ro, 0⟩]⟩,
  ⟨PWR_CONV, 0, 1, false, [⟨0, 1, .ro, 0⟩, ⟨1, 1, .ro, 0⟩, ⟨2, 1, .ro, 0⟩, ⟨3, 4, .ro, 15⟩]⟩,
  ⟨PWR_PHASE, 0, 1, false, [⟨0, 28, .ro, 0⟩]⟩,
  ⟨PWR_DIE_I, 0, 1, false, [⟨0, 12, .ro, 0⟩, ⟨16, 12, .ro, 0⟩]⟩,
  ⟨PWR_FIELD_V, 0, 1, false, [⟨0, 10, .ro, 0⟩]⟩,
  ⟨PWR_REG_CMD, 0, 1, false, [⟨0, 3, .wo, 0⟩, ⟨3, 3, .wo, 0⟩, ⟨6, 3, .wo, 0⟩]⟩,
  ⟨PWR_REG_RES, 0, 1, false, [⟨0, 2, .ro, 0⟩, ⟨2, 3, .ro, 0⟩, ⟨5, 3, .ro, 0⟩, ⟨8, 3, .ro, 0⟩]⟩,
  ⟨PWR_STAGE_CFG, 0, 1, false, [⟨0, 8, .rw, 48⟩, ⟨8, 7, .rw, 90⟩, ⟨16, 8, .rw, 20⟩, ⟨24, 8, .rw, 20⟩]⟩,
  ⟨PWR_STAGE_STAT, 0, 1, false, [⟨0, 16, .rw, 0⟩, ⟨16, 8, .rw, 0⟩, ⟨24, 8, .rw, 0⟩]⟩,
  ⟨PWR_RSTATE, 4, 8, false, [⟨0, 4, .ro, 0⟩, ⟨4, 4, .ro, 0⟩, ⟨8, 4, .ro, 0⟩, ⟨12, 4, .ro, 0⟩, ⟨16, 4, .ro, 0⟩, ⟨20, 4, .ro, 0⟩, ⟨24, 4, .ro, 0⟩, ⟨28, 4, .ro, 0⟩]⟩,
  ⟨LDO_CR, 4, 128, false, [⟨0, 6, .ro, 30⟩, ⟨6, 6, .ro, 0⟩, ⟨12, 4, .ro, 15⟩, ⟨16, 1, .ro, 0⟩, ⟨17, 1, .ro, 0⟩]⟩]

def dieRows3 : List RegRow := [
  ⟨TEMP_R, 4, 64, false, [⟨0, 8, .ro, 0⟩, ⟨8, 8, .ro, 128⟩, ⟨16, 5, .ro, 16⟩, ⟨21, 1, .ro, 0⟩, ⟨22, 1, .ro, 0⟩, ⟨23, 1, .ro, 0⟩]⟩,
  ⟨TEMP_CFG, 0, 1, false, [⟨0, 8, .rw, 95⟩, ⟨8, 8, .rw, 110⟩]⟩,
  ⟨CLK_STAT, 0, 1, false, [⟨0, 4, .ro, 0⟩, ⟨4, 4, .w1c, 0⟩, ⟨8, 1, .ro, 0⟩, ⟨9, 1, .ro, 0⟩]⟩,
  ⟨CLK_THR, 0, 1, false, [⟨0, 4, .ro, 0⟩, ⟨4, 4, .ro, 0⟩, ⟨8, 4, .rw, 0⟩, ⟨12, 4, .ro, 0⟩]⟩,
  ⟨CLK_MCFG, 0, 1, false, [⟨0, 5, .rw, 2⟩, ⟨5, 5, .rw, 6⟩, ⟨10, 5, .rw, 14⟩, ⟨16, 1, .rw, 1⟩]⟩,
  ⟨CLK_DCFG, 0, 1, false, [⟨0, 6, .rw, 40⟩, ⟨8, 8, .rw, 32⟩]⟩,
  ⟨CLK_R, 4, 64, false, [⟨0, 5, .ro, 0⟩, ⟨5, 5, .ro, 31⟩, ⟨10, 6, .ro, 0⟩, ⟨16, 5, .ro, 16⟩, ⟨21, 1, .ro, 0⟩, ⟨22, 1, .ro, 0⟩, ⟨23, 1, .ro, 0⟩, ⟨24, 1, .ro, 0⟩, ⟨25, 1, .ro, 0⟩]⟩,
  ⟨CLK_DROOP, 4, 64, false, [⟨0, 16, .rw, 0⟩]⟩,
  ⟨CAL_STAT, 0, 1, false, [⟨0, 1, .ro, 0⟩, ⟨1, 1, .ro, 0⟩, ⟨8, 8, .ro, 0⟩]⟩,
  ⟨CAL_LAT_REG, 0, 1, false, [⟨0, 4, .ro, 0⟩]⟩,
  ⟨CAL_BND, 4, 4, false, [⟨0, 4, .ro, 0⟩, ⟨4, 6, .ro, 0⟩, ⟨10, 4, .ro, 0⟩, ⟨14, 1, .ro, 0⟩, ⟨15, 1, .ro, 0⟩]⟩,
  ⟨FUSE_STAT, 0, 1, false, [⟨0, 12, .ro, 0⟩, ⟨12, 12, .ro, 0⟩, ⟨24, 1, .ro, 0⟩]⟩,
  ⟨FUSE_SVN, 0, 1, false, [⟨0, 16, .ro, 0⟩, ⟨16, 4, .ro, 0⟩]⟩,
  ⟨FUSE_SERIAL, 0, 1, true, [⟨0, 64, .ro, 0⟩]⟩,
  ⟨FUSE_DIE_ID, 0, 1, true, [⟨0, 64, .ro, 0⟩]⟩,
  ⟨FUSE_NVOTE, 0, 1, false, [⟨0, 7, .ro, 0⟩, ⟨7, 8, .ro, 0⟩]⟩,
  ⟨FUSE_WIRES, 0, 1, false, [⟨0, 8, .ro, 0⟩, ⟨8, 8, .ro, 0⟩, ⟨16, 8, .ro, 0⟩, ⟨24, 8, .ro, 0⟩]⟩,
  ⟨FUSE_XDIS, 0, 1, false, [⟨0, 6, .ro, 0⟩, ⟨6, 6, .ro, 0⟩, ⟨12, 6, .ro, 0⟩, ⟨18, 6, .ro, 0⟩]⟩,
  ⟨CAL_SEAM0, 4, 6, false, [⟨0, 4, .ro, 0⟩, ⟨4, 4, .ro, 0⟩, ⟨8, 4, .ro, 0⟩, ⟨12, 4, .ro, 0⟩, ⟨16, 4, .ro, 0⟩, ⟨20, 4, .ro, 0⟩, ⟨24, 4, .ro, 0⟩, ⟨28, 4, .ro, 0⟩]⟩,
  ⟨CAL_SEAM1, 4, 6, false, [⟨0, 4, .ro, 0⟩, ⟨4, 4, .ro, 0⟩, ⟨8, 4, .ro, 0⟩, ⟨12, 4, .ro, 0⟩, ⟨16, 4, .ro, 0⟩, ⟨20, 4, .ro, 0⟩, ⟨24, 4, .ro, 0⟩, ⟨28, 4, .ro, 0⟩]⟩,
  ⟨CAL_BLAT0, 4, 6, false, [⟨0, 4, .ro, 0⟩, ⟨4, 4, .ro, 0⟩, ⟨8, 4, .ro, 0⟩, ⟨12, 4, .ro, 0⟩, ⟨16, 4, .ro, 0⟩, ⟨20, 4, .ro, 0⟩, ⟨24, 4, .ro, 0⟩, ⟨28, 4, .ro, 0⟩]⟩,
  ⟨CAL_BLAT1, 4, 6, false, [⟨0, 4, .ro, 0⟩, ⟨4, 4, .ro, 0⟩, ⟨8, 4, .ro, 0⟩, ⟨12, 4, .ro, 0⟩, ⟨16, 4, .ro, 0⟩, ⟨20, 4, .ro, 0⟩, ⟨24, 4, .ro, 0⟩, ⟨28, 4, .ro, 0⟩]⟩]

def dieRows4 : List RegRow := [
  ⟨CAL_BLAT2, 4, 6, false, [⟨0, 4, .ro, 0⟩, ⟨4, 4, .ro, 0⟩, ⟨8, 4, .ro, 0⟩, ⟨12, 4, .ro, 0⟩, ⟨16, 4, .ro, 0⟩, ⟨20, 4, .ro, 0⟩, ⟨24, 4, .ro, 0⟩, ⟨28, 4, .ro, 0⟩]⟩,
  ⟨CAL_BLAT3, 4, 6, false, [⟨0, 4, .ro, 0⟩, ⟨4, 4, .ro, 0⟩, ⟨8, 4, .ro, 0⟩, ⟨12, 4, .ro, 0⟩, ⟨16, 4, .ro, 0⟩, ⟨20, 4, .ro, 0⟩, ⟨24, 4, .ro, 0⟩, ⟨28, 4, .ro, 0⟩]⟩]

/-- Registers of a die (R74, R277, R311, R336, R361-R363, R396, R418-R419, R483). -/
def dieRows : List RegRow := dieRows0 ++ dieRows1 ++ dieRows2 ++ dieRows3 ++ dieRows4

def ecRows0 : List RegRow := [
  ⟨BOOT_CANVAS, 0, 1, false, [⟨0, 8, .ro, 0⟩, ⟨8, 7, .ro, 0⟩, ⟨16, 2, .ro, 0⟩, ⟨18, 1, .ro, 0⟩, ⟨19, 1, .ro, 0⟩, ⟨20, 1, .ro, 0⟩, ⟨21, 1, .ro, 0⟩, ⟨22, 1, .ro, 0⟩]⟩,
  ⟨BOOT_DIE_STATE, 0, 1, false, [⟨0, 2, .ro, 0⟩, ⟨2, 2, .ro, 0⟩, ⟨4, 2, .ro, 0⟩, ⟨6, 2, .ro, 0⟩, ⟨8, 2, .ro, 0⟩, ⟨10, 2, .ro, 0⟩, ⟨12, 2, .ro, 0⟩, ⟨14, 2, .ro, 0⟩]⟩,
  ⟨BOOT_CANVAS_GEN, 0, 1, false, [⟨0, 32, .ro, 0⟩]⟩,
  ⟨BOOT_HOLE_COUNT, 0, 1, false, [⟨0, 16, .ro, 0⟩]⟩,
  ⟨BOOT_HOLE_IDX, 0, 1, false, [⟨0, 16, .rw, 0⟩]⟩,
  ⟨BOOT_HOLE_DATA, 0, 1, false, [⟨0, 8, .ro, 0⟩, ⟨8, 7, .ro, 0⟩, ⟨16, 1, .ro, 0⟩]⟩,
  ⟨BOOT_REMAP_CMD, 0, 1, false, [⟨0, 3, .wo, 0⟩, ⟨3, 6, .wo, 0⟩]⟩,
  ⟨BOOT_REMAP_STAT, 0, 1, false, [⟨0, 2, .ro, 0⟩, ⟨4, 3, .ro, 0⟩]⟩,
  ⟨BOOT_LOAD_SRC, 0, 1, true, [⟨0, 48, .rw, 0⟩]⟩,
  ⟨BOOT_LOAD_LEN, 0, 1, false, [⟨0, 32, .rw, 0⟩]⟩,
  ⟨BOOT_LOAD_ORG, 0, 1, false, [⟨0, 8, .rw, 0⟩, ⟨8, 7, .rw, 0⟩]⟩,
  ⟨BOOT_LOAD_CMD, 0, 1, false, [⟨0, 2, .wo, 0⟩]⟩,
  ⟨BOOT_LOAD_STAT, 0, 1, false, [⟨0, 3, .ro, 0⟩, ⟨3, 5, .ro, 0⟩, ⟨16, 16, .ro, 0⟩]⟩,
  ⟨BOOT_LOAD_INFO, 0, 1, false, [⟨0, 16, .ro, 65535⟩, ⟨16, 16, .ro, 0⟩]⟩,
  ⟨BOOT_JOB_CMD, 0, 1, false, [⟨0, 16, .wo, 0⟩, ⟨16, 2, .wo, 0⟩]⟩,
  ⟨BOOT_JOB_SEL, 0, 1, false, [⟨0, 16, .rw, 65535⟩]⟩,
  ⟨BOOT_JOB_STAT, 0, 1, false, [⟨0, 3, .ro, 0⟩, ⟨16, 13, .ro, 0⟩]⟩,
  ⟨BOOT_JOB_COUNT, 0, 1, false, [⟨0, 7, .ro, 0⟩]⟩,
  ⟨STEP_DECL, 0, 1, false, [⟨0, 16, .wo, 0⟩]⟩,
  ⟨STEP_SEL, 0, 1, false, [⟨0, 16, .rw, 65535⟩]⟩,
  ⟨STEP_JOB_NUM, 0, 1, true, [⟨0, 64, .rw, 0⟩]⟩,
  ⟨STEP_CTRL, 0, 1, false, [⟨0, 16, .rw, 65535⟩, ⟨16, 1, .rw, 1⟩]⟩]

def ecRows1 : List RegRow := [
  ⟨STEP_ENGINE, 0, 1, true, [⟨0, 64, .ro, 0⟩]⟩,
  ⟨STEP_LAST, 0, 1, true, [⟨0, 64, .ro, 0⟩]⟩,
  ⟨BOOT_GDDR_CAP, 0, 1, true, [⟨0, 44, .ro, 0⟩]⟩,
  ⟨BOOT_GDDR_STAT, 0, 1, false, [⟨0, 7, .ro, 0⟩, ⟨7, 1, .ro, 0⟩, ⟨8, 1, .ro, 0⟩]⟩,
  ⟨BOOT_GDDR_LIVE, 4, 3, false, [⟨0, 32, .ro, 0⟩]⟩,
  ⟨TIME_NOW, 0, 1, true, [⟨0, 64, .ro, 0⟩]⟩,
  ⟨TIME_CFG, 0, 1, false, [⟨0, 2, .rw, 0⟩, ⟨2, 1, .rw, 0⟩, ⟨8, 8, .rw, 0⟩, ⟨16, 8, .rw, 60⟩]⟩,
  ⟨TIME_STAT, 0, 1, false, [⟨0, 3, .ro, 0⟩, ⟨3, 1, .ro, 0⟩, ⟨4, 1, .ro, 0⟩, ⟨16, 16, .ro, 0⟩]⟩,
  ⟨TIME_OFFSET, 0, 1, false, [⟨0, 32, .ro, 0⟩]⟩,
  ⟨TIME_SET, 0, 1, true, [⟨0, 64, .wo, 0⟩]⟩,
  ⟨RAMP_SP, 0, 1, false, [⟨0, 32, .ro, 0⟩]⟩,
  ⟨RAMP_TARGET, 0, 1, false, [⟨0, 24, .ro, 0⟩]⟩,
  ⟨RAMP_BUDGET, 0, 1, false, [⟨0, 24, .ro, 0⟩]⟩,
  ⟨RAMP_CEIL, 0, 1, false, [⟨0, 24, .ro, 0⟩, ⟨24, 1, .ro, 0⟩]⟩,
  ⟨RAMP_RATE, 0, 1, false, [⟨0, 16, .rw, 3000⟩]⟩,
  ⟨RAMP_ORPHAN, 0, 1, false, [⟨0, 24, .rwl, 0⟩]⟩,
  ⟨RAMP_REQ, 0, 1, false, [⟨0, 24, .wo, 0⟩]⟩,
  ⟨RAMP_STAT, 0, 1, false, [⟨0, 1, .ro, 0⟩, ⟨1, 1, .ro, 0⟩, ⟨2, 4, .ro, 0⟩, ⟨6, 1, .ro, 0⟩]⟩,
  ⟨RAMP_WSEL, 0, 1, false, [⟨0, 3, .rw, 0⟩]⟩,
  ⟨RAMP_WSTART, 0, 1, true, [⟨0, 64, .ro, 0⟩]⟩,
  ⟨RAMP_WLEN, 0, 1, false, [⟨0, 32, .ro, 0⟩]⟩,
  ⟨RAMP_WID, 0, 1, false, [⟨0, 16, .ro, 0⟩, ⟨16, 1, .ro, 0⟩]⟩]

def ecRows2 : List RegRow := [
  ⟨BAND_CTRL, 0, 1, false, [⟨0, 1, .rw, 0⟩, ⟨1, 5, .rw, 6⟩, ⟨16, 16, .rw, 512⟩]⟩,
  ⟨BAND_AVG, 0, 1, false, [⟨0, 24, .rw, 0⟩, ⟨24, 6, .rw, 4⟩]⟩,
  ⟨BAND_EST, 0, 1, false, [⟨0, 24, .ro, 0⟩]⟩,
  ⟨BAND_MEAS, 0, 1, false, [⟨0, 24, .ro, 0⟩]⟩,
  ⟨BAND_TRIM, 0, 1, false, [⟨0, 16, .ro, 32768⟩]⟩,
  ⟨BAND_STAT, 0, 1, false, [⟨0, 1, .ro, 0⟩, ⟨1, 1, .ro, 0⟩, ⟨2, 1, .ro, 0⟩, ⟨3, 4, .ro, 0⟩, ⟨7, 15, .ro, 0⟩]⟩,
  ⟨BAND_OOB, 0, 1, false, [⟨0, 16, .rw, 0⟩, ⟨16, 16, .rw, 0⟩]⟩,
  ⟨BAND_BUS_CFG, 0, 1, false, [⟨0, 5, .rwl, 0⟩, ⟨5, 1, .rwl, 0⟩]⟩,
  ⟨BAND_BUS_CNT, 0, 1, false, [⟨0, 8, .rw, 0⟩, ⟨8, 8, .rw, 0⟩, ⟨16, 8, .rw, 0⟩, ⟨24, 8, .rw, 0⟩]⟩,
  ⟨BAND_BUS_STAT, 0, 1, false, [⟨0, 16, .ro, 0⟩, ⟨16, 8, .ro, 0⟩, ⟨24, 1, .ro, 0⟩, ⟨25, 1, .ro, 0⟩]⟩,
  ⟨BAND_STOP, 0, 1, false, [⟨0, 1, .ro, 0⟩, ⟨1, 2, .ro, 0⟩, ⟨3, 1, .ro, 0⟩, ⟨4, 1, .ro, 0⟩, ⟨5, 1, .ro, 0⟩]⟩,
  ⟨BAND_RESTART, 0, 1, false, [⟨0, 1, .wo, 0⟩]⟩,
  ⟨BBOX_STAT, 0, 1, false, [⟨0, 1, .ro, 0⟩, ⟨1, 1, .ro, 0⟩, ⟨2, 1, .ro, 0⟩, ⟨3, 1, .ro, 0⟩]⟩,
  ⟨BBOX_PEND, 0, 1, false, [⟨0, 13, .ro, 0⟩, ⟨16, 16, .ro, 0⟩]⟩,
  ⟨BBOX_FIRST, 0, 1, false, [⟨0, 32, .ro, 0⟩]⟩,
  ⟨BBOX_NEXT, 0, 1, false, [⟨0, 32, .ro, 1⟩]⟩,
  ⟨BBOX_SEL, 0, 1, false, [⟨0, 32, .rw, 0⟩]⟩,
  ⟨BBOX_SEL_STAT, 0, 1, false, [⟨0, 1, .ro, 0⟩, ⟨1, 1, .ro, 0⟩, ⟨2, 1, .ro, 0⟩]⟩,
  ⟨BBOX_RSEQ, 0, 1, false, [⟨0, 32, .ro, 1⟩]⟩,
  ⟨BBOX_CNT_CC, 0, 1, false, [⟨0, 16, .ro, 0⟩, ⟨16, 16, .ro, 0⟩]⟩,
  ⟨BBOX_CNT_ES, 0, 1, false, [⟨0, 16, .ro, 0⟩, ⟨16, 16, .ro, 0⟩]⟩,
  ⟨BBOX_COV, 0, 1, false, [⟨0, 16, .ro, 0⟩, ⟨16, 1, .ro, 0⟩]⟩]

def ecRows3 : List RegRow := [
  ⟨BBOX_COV_IDX, 0, 1, false, [⟨0, 16, .rw, 0⟩]⟩,
  ⟨BBOX_COV_DATA, 0, 1, false, [⟨0, 8, .ro, 0⟩, ⟨8, 7, .ro, 0⟩, ⟨16, 1, .ro, 0⟩, ⟨17, 1, .ro, 0⟩]⟩,
  ⟨BBOX_DATA, 4, 16, false, [⟨0, 32, .ro, 0⟩]⟩,
  ⟨BOOT_STAT, 0, 1, false, [⟨0, 4, .ro, 1⟩, ⟨4, 1, .ro, 0⟩, ⟨5, 1, .ro, 0⟩, ⟨6, 1, .ro, 0⟩, ⟨7, 3, .ro, 0⟩, ⟨10, 1, .ro, 0⟩, ⟨11, 1, .ro, 0⟩, ⟨12, 1, .ro, 0⟩, ⟨13, 1, .ro, 0⟩, ⟨14, 1, .ro, 0⟩]⟩,
  ⟨BOOT_SEQ, 0, 1, false, [⟨0, 24, .ro, 0⟩]⟩,
  ⟨BOOT_RESET, 0, 1, false, [⟨0, 2, .wo, 0⟩, ⟨16, 16, .wo, 0⟩]⟩,
  ⟨BOOT_CAUSE, 0, 1, false, [⟨0, 2, .ro, 0⟩, ⟨8, 8, .ro, 0⟩]⟩,
  ⟨BOOT_PTIME, 4, 10, false, [⟨0, 32, .ro, 0⟩]⟩,
  ⟨BOOT_POVR, 0, 1, false, [⟨0, 10, .ro, 0⟩]⟩,
  ⟨BOOT_FW_SVN, 0, 1, false, [⟨0, 32, .ro, 0⟩]⟩,
  ⟨BOOT_FW_STAT, 0, 1, false, [⟨0, 1, .ro, 0⟩, ⟨1, 1, .ro, 0⟩, ⟨2, 1, .ro, 0⟩]⟩,
  ⟨LIC_STAT, 0, 1, false, [⟨0, 1, .ro, 0⟩, ⟨1, 1, .ro, 0⟩, ⟨2, 1, .ro, 0⟩, ⟨3, 1, .ro, 0⟩, ⟨4, 5, .ro, 0⟩]⟩,
  ⟨LIC_CMD, 0, 1, false, [⟨0, 3, .wo, 0⟩]⟩,
  ⟨LIC_RES, 0, 1, false, [⟨0, 2, .ro, 0⟩, ⟨2, 5, .ro, 0⟩]⟩,
  ⟨LIC_SRC, 0, 1, true, [⟨0, 48, .rw, 0⟩]⟩,
  ⟨LIC_LEN, 0, 1, false, [⟨0, 25, .rw, 0⟩]⟩,
  ⟨LIC_DST, 0, 1, true, [⟨0, 48, .rw, 0⟩]⟩,
  ⟨LIC_NONCE, 4, 4, false, [⟨0, 32, .ro, 0⟩]⟩,
  ⟨LIC_ANON, 4, 8, false, [⟨0, 32, .rw, 0⟩]⟩,
  ⟨LIC_LMS, 0, 1, false, [⟨0, 21, .ro, 0⟩]⟩]

/-- Registers of engine control (R75, R253-R254, R279, R393-R395, R451, R481, R484). -/
def ecRows : List RegRow := ecRows0 ++ ecRows1 ++ ecRows2 ++ ecRows3

/-- The row that places a register at offset `o`, with whether `o` is the high word of a 64-bit one. -/
def RegRow.hit (o : Nat) (r : RegRow) : Option Bool :=
  let d := o - r.off
  if o < r.off then none
  else if r.stride = 0 then (if d = 0 then some false else if r.wide ∧ d = 4 then some true else none)
  else if d / r.stride < r.count ∧ d % r.stride = 0 then some false
  else if r.wide ∧ d / r.stride < r.count ∧ d % r.stride = 4 then some true
  else none

/-- The first row that holds offset `o`. -/
def findRow (rows : List RegRow) (o : Nat) : Option (RegRow × Bool) :=
  rows.findSome? fun r => (r.hit o).map fun h => (r, h)

/-- The rows of a unit: 0 engine control, 1-8 a die, from 16 a cell. -/
def unitRows (unit : Nat) : List RegRow :=
  if unit = 0 then ecRows else if unit < 16 then dieRows else cellRows

/-- Device ID (R313). -/
def Part.device : Part → Nat
  | .dz8200 => 0x8200 | .dz4200 => 0x4200 | .dz2200 => 0x2200

/-- Number of populated dies (R27). -/
def Part.dies : Part → Nat
  | .dz8200 => 8 | .dz4200 => 4 | .dz2200 => 2

/-- Tier ceiling in W without and with the licence (R370). -/
def Part.tier : Part → Bool → Nat
  | .dz8200, l => if l then 15000 else 12000
  | .dz4200, l => if l then 7600 else 6100
  | .dz2200, l => if l then 3900 else 3100

/-- Reset value of RAMP_ORPHAN in W (R387). -/
def Part.orphan : Part → Nat
  | .dz8200 => 9000 | .dz4200 => 4560 | .dz2200 => 2340

/-- Keys of a register: engine control, die `d`, physical cell `c`. -/
def ecKey (o : Nat) : Nat := o
def dieKey (d o : Nat) : Nat := o + 0x1000000 * (1 + d)
def cellKey (c o : Nat) : Nat := o + 0x1000000 * (16 + c)

/-- Reset values that differ by part: BAND_CTRL.MODE (R369), BAND_AVG.LIMIT (R370), RAMP_ORPHAN (R387), PCIE_ID (R313). -/
def partReset (p : Part) (key : Nat) : Nat :=
  if key = ecKey BAND_CTRL then (if p = .dz8200 then 1 else 0)
  else if key = ecKey BAND_AVG then p.tier false
  else if key = ecKey RAMP_ORPHAN then p.orphan
  else if key = dieKey 0 PCIE_ID then p.device
  else if key = dieKey 3 PCIE_ID then p.device + 0x10000
  else 0

/-- The reset value of the register with this key; 0 where the tables place none. -/
def regReset (p : Part) (key : Nat) : DWord :=
  match findRow (unitRows (key / 0x1000000)) (key % 0x1000000) with
  | some (r, false) => BitVec.ofNat 64 ((r.fields.map fun f => f.reset * 2 ^ f.lo).sum + partReset p key)
  | _ => 0

end Sys2Proof.Machine
end

