-- ==== Sys2Proof/Machine/Ops.lean ====
section
/-! DEFINITION. The named operations every meaning is written over: sparse maps, memory, registers and their fields,
the units' records, coordinates and the canvas (R43-R50), the global address (R38), local and facility time, jobs and
panels, what leaves the module, and the raising of error records (R422-R424, R429, R452). -/

namespace Sys2Proof.Machine

/-- The three outcomes of a command. -/
abbrev Res := Host.Outcome State Fault Refusal

/-! ### Sparse maps -/

/-- The value at key `k`, `d` where the map lists none. -/
def SMap.get {α : Type} (m : SMap α) (k : Nat) (d : α) : α :=
  match m with
  | [] => d
  | (j, v) :: t => if j = k then v else SMap.get t k d

/-- The map with `v` listed at key `k`. -/
def SMap.put {α : Type} (m : SMap α) (k : Nat) (v : α) : SMap α :=
  match m with
  | [] => [(k, v)]
  | (j, u) :: t => if k < j then (k, v) :: (j, u) :: t else if k = j then (k, v) :: t else (j, u) :: SMap.put t k v

/-- The map with key `k` no longer listed. -/
def SMap.del {α : Type} (m : SMap α) (k : Nat) : SMap α :=
  match m with
  | [] => []
  | (j, u) :: t => if j = k then SMap.del t k else (j, u) :: SMap.del t k

/-- Store `v` at key `k`, keeping values equal to the default `d` unlisted. -/
def SMap.set {α : Type} [DecidableEq α] (m : SMap α) (k : Nat) (v d : α) : SMap α :=
  if v = d then SMap.del m k else SMap.put m k v

/-- Keys strictly rising, each above `lo`. -/
def SMap.risingFrom {α : Type} (lo : Option Nat) (m : SMap α) : Bool :=
  match m with
  | [] => true
  | (j, _) :: t => (match lo with | none => true | some l => l < j) && SMap.risingFrom (some j) t

/-- The canonical form of memory: addresses strictly rising, no byte equal to what an unlisted address reads as (zero). -/
def Memory.wf (m : SMap Byte) : Bool := SMap.risingFrom none m && m.all fun p => p.2 != 0

/-! ### Memory -/

/-- Bits `[lo+w-1:lo]` of a number. -/
def bits (v lo w : Nat) : Nat := v / 2 ^ lo % 2 ^ w

/-- One bit of a number. -/
def bit (v i : Nat) : Bool := v / 2 ^ i % 2 == 1

/-- Bytes of a little-endian number (R7). -/
def toLe : Nat → Nat → List Byte
  | 0, _ => []
  | n + 1, v => BitVec.ofNat 8 v :: toLe n (v / 256)

/-- Most significant byte first. -/
def toBe (n v : Nat) : List Byte := (toLe n v).reverse

/-- The number that little-endian bytes spell (R7). -/
def ofLe : List Byte → Nat
  | [] => 0
  | b :: t => b.toNat + 256 * ofLe t

/-- A list put in order of a key, by insertion. -/
def insertBy (key : Nat → Nat) (a : Nat) : List Nat → List Nat
  | [] => [a]
  | b :: t => if key a ≤ key b then a :: b :: t else b :: insertBy key a t

def sortBy (key : Nat → Nat) (l : List Nat) : List Nat := l.foldr (insertBy key) []

/-- Sign of a `w`-bit number. -/
def toSigned (w v : Nat) : Int := if v % 2 ^ w < 2 ^ (w - 1) then (v % 2 ^ w : Nat) else (v % 2 ^ w : Nat) - (2 ^ w : Nat)

/-- An integer as a `w`-bit two's complement number. -/
def ofSigned (w : Nat) (v : Int) : Nat := (v % (2 ^ w : Nat)).toNat

namespace State

def byte (s : State) (k : Nat) : Byte := SMap.get s.mem k 0
def setByte (s : State) (k : Nat) (b : Byte) : State := { s with mem := SMap.set s.mem k b 0 }

/-- Store bytes at rising keys. -/
def setBytes (s : State) (k : Nat) : List Byte → State
  | [] => s
  | b :: t => State.setBytes (s.setByte k b) (k + 1) t

def bytes (s : State) (k n : Nat) : List Byte := (List.range n).map fun i => s.byte (k + i)

/-! ### Registers -/

/-- A register as held. -/
def reg (s : State) (k : Nat) : DWord := SMap.get s.regs k (regReset s.part k)

def setReg (s : State) (k : Nat) (v : DWord) : State := { s with regs := SMap.set s.regs k v (regReset s.part k) }

/-- A field of a register. -/
def fld (s : State) (k lo w : Nat) : Nat := bits (s.reg k).toNat lo w

/-- What a register held at the start of the present slot: a write of this slot does not show yet (R111, R135). -/
def regStart (s : State) (k : Nat) : DWord :=
  match s.wrote.find? fun p => p.1 == k with
  | some p => p.2
  | none => s.reg k

/-- Software wrote the register in the present slot. -/
def written (s : State) (k : Nat) : Bool := s.wrote.any fun p => p.1 == k

/-- Note a software write: what the register held at the start of the slot is kept (R16). -/
def noteWrite (s : State) (k : Nat) : State := if s.written k then s else { s with wrote := (k, s.reg k) :: s.wrote }

end State

def keyUnit (k : Nat) : Nat := k / 0x1000000
def keyOff (k : Nat) : Nat := k % 0x1000000

/-- The block a register key lies in: 4 KiB of a cell window, 64 KiB of die or engine control (R40-R42). -/
def keyBlock (k : Nat) : Nat := if keyUnit k < 16 then k / 0x10000 else k / 0x1000

/-- Index of physical cell d:(px, py). -/
def cellAt (d px py : Nat) : Nat := 2304 * d + 48 * py + px
def cellDie (c : Nat) : Nat := c / 2304
def cellPx (c : Nat) : Nat := c % 48
def cellPy (c : Nat) : Nat := c % 2304 / 48
/-- Index of region d:r(rx, ry). -/
def regionAt (d rx ry : Nat) : Nat := 64 * d + 8 * ry + rx
def cellRegion (c : Nat) : Nat := regionAt (cellDie c) (cellPx c / 6) (cellPy c / 6)
def cellField (c : Nat) : Nat := 2 * (cellPy c / 24) + cellPx c / 24
def regionField (rx ry : Nat) : Nat := 2 * (ry / 4) + rx / 4
/-- The 36 cells of a region. -/
def regionCells (d rx ry : Nat) : List Nat :=
  (List.range 36).map fun i => cellAt d (6 * rx + i % 6) (6 * ry + i / 6)

/-- A word with a field replaced. -/
def insField (r : DWord) (lo w v : Nat) : DWord :=
  BitVec.ofNat 64 (r.toNat - 2 ^ lo * bits r.toNat lo w + 2 ^ lo * (v % 2 ^ w))

namespace State

def setFld (s : State) (k lo w v : Nat) : State := s.setReg k (insField (s.reg k) lo w v)

/-- A saturating counter field raised by `n`. -/
def incSat (s : State) (k lo w n : Nat) : State := s.setFld k lo w (min (s.fld k lo w + n) (2 ^ w - 1))

/-- A hardware update of a field that software can write too: discarded when software wrote it in this cycle (R16). -/
def hwFld (s : State) (k lo w v : Nat) : State := if s.written k then s else s.setFld k lo w v

/-- A saturating counter raised by `n`, unless it was cleared in this cycle (R148). -/
def incSatUn (s : State) (k lo w n : Nat) : State := if s.written k then s else s.incSat k lo w n

/-- A counter cleared by software: increments of this cycle are discarded (R148). -/
def clearReg (s : State) (k : Nat) : State := (s.noteWrite k).setReg k 0

/-- Hardware sets a W1C bit: it stays set against a clear of this cycle (R16). -/
def setW1c (s : State) (k b : Nat) : State := ({ s with w1cSet := (k, b) :: s.w1cSet }).setFld k b 1 1

/-- A wrapping counter field raised by `n`. -/
def incWrap (s : State) (k lo w n : Nat) : State := s.setFld k lo w (s.fld k lo w + n)

/-! ### Units -/

def cell (s : State) (c : Nat) : Cell := SMap.get s.cells c Cell.reset
def setCell (s : State) (c : Nat) (x : Cell) : State := { s with cells := SMap.put s.cells c x }
def region (s : State) (r : Nat) : Region := SMap.get s.regions r Region.reset
def setRegion (s : State) (r : Nat) (x : Region) : State := { s with regions := SMap.put s.regions r x }
def die (s : State) (d : Nat) : Die := SMap.get s.dies d Die.reset
def setDie (s : State) (d : Nat) (x : Die) : State := { s with dies := SMap.put s.dies d x }
/-- Memory controller `n` of die `d`. -/
def mc (s : State) (d n : Nat) : Mc := SMap.get s.mcs (d * 12 + n) Mc.reset
def setMc (s : State) (d n : Nat) (x : Mc) : State := { s with mcs := SMap.put s.mcs (d * 12 + n) x }
def ctx (s : State) (q : Nat) : Ctx := SMap.get s.ctxs q Ctx.reset
def setCtx (s : State) (q : Nat) (x : Ctx) : State := { s with ctxs := SMap.put s.ctxs q x }
/-- Tag slot `t` of the FAB of die `d`. -/
def tag (s : State) (d t : Nat) : Tag := SMap.get s.tags (65536 * d + t) Tag.reset
def setTag (s : State) (d t : Nat) (x : Tag) : State := { s with tags := SMap.put s.tags (65536 * d + t) x }
def fport (s : State) (d p : Nat) : FPort := SMap.get s.fports (d * 3 + p) FPort.reset
def setFport (s : State) (d p : Nat) (x : FPort) : State := { s with fports := SMap.put s.fports (d * 3 + p) x }
def ring (s : State) (p n : Nat) : Ring := SMap.get s.rings (256 * p + n) Ring.reset
def setRing (s : State) (p n : Nat) (x : Ring) : State := { s with rings := SMap.put s.rings (256 * p + n) x }
def hport (s : State) (p : Nat) : HPort := SMap.get s.hports p HPort.reset
def setHport (s : State) (p : Nat) (x : HPort) : State := { s with hports := SMap.put s.hports p x }

def mxe (s : State) (c : Nat) : Mxe := (s.cell c).mxe
def setMxe (s : State) (c : Nat) (m : Mxe) : State := s.setCell c { s.cell c with mxe := m }

def core (s : State) (c : Nat) (k : CoreSel) : CoreSt :=
  match k with
  | .head => (s.cell c).head
  | .tail => (s.cell c).tail

def setCore (s : State) (c : Nat) (k : CoreSel) (x : CoreSt) : State :=
  match k with
  | .head => s.setCell c { s.cell c with head := x }
  | .tail => s.setCell c { s.cell c with tail := x }

/-- The head and tail cores, the bank engine and the MXE of a cell see no pulse: the cell is a hole or outside the numbering (R45),
replays a row (R144) or marches through a scratchpad line (R435). A replay's hold begins in the cycle after the failing compare
and ends in the cycle after the verdict. -/
def isHeld (s : State) (c : Nat) : Bool :=
  let x := s.cell c
  x.held || (match x.running with | some t => t.unit == 1 | none => false) ||
    (x.mxe.replay.isSome && decide (x.mxe.replayAt < x.cyc)) || decide (s.slot < x.mxe.holdTo)

/-- Activity counter `i` of a cell's region counts `n` (R366). -/
def act (s : State) (c i n : Nat) : State :=
  let x := s.region (cellRegion c)
  s.setRegion (cellRegion c) { x with act := x.act.set i ((x.act[i]?).getD 0 + n) }

/-- A fresh free value, and the state that has drawn it (log 3). -/
def fresh (s : State) : State := { s with free := s.free + 1 }

def emit (s : State) (o : Out) : State := { s with out := o :: s.out }

/-! ### Time (R9, R400) -/

/-- Local time in ns. -/
def now (s : State) : Nat := s.slot * 2 / 3

/-- Facility time in ns (R379). -/
def facility (s : State) : Nat := (s.time.base + (s.now : Int)).toNat

/-! ### Coordinates (R43-R50) -/

end State

/-- Die column and row by part (R44). -/
def dieCol : Part → Nat → Nat
  | .dz8200, d => d % 4
  | .dz4200, d => d % 2
  | .dz2200, d => d
def dieRow : Part → Nat → Nat
  | .dz8200, d => d / 4
  | .dz4200, d => d / 2
  | .dz2200, _ => 0

/-- The die at a die column and row. -/
def dieAt (p : Part) (dc dr : Nat) : Option Nat :=
  (List.range p.dies).find? fun d => dieCol p d == dc && dieRow p d == dr

/-- `phys_of` of R49 over skip positions a < b. -/
def physOf (a b lx : Nat) : Nat :=
  let px := if lx ≥ a then lx + 1 else lx
  if px ≥ b then px + 1 else px

/-- `local_of` of R49. -/
def localOf (a b px : Nat) : Option Nat :=
  if px = a ∨ px = b then none
  else
    let lx := if px > a then px - 1 else px
    some (if px > b then lx - 1 else lx)

/-- Ports and the die that carries each (R313). -/
def portDie (p : Nat) : Nat := if p = 0 then 0 else 3
def Part.ports (p : Part) : List Nat := if p = .dz2200 then [0] else [0, 1]

namespace State

/-- The die one step from a die: 0 north, 1 east, 2 south, 3 west. -/
def dieBeside (s : State) (d dir : Nat) : Option Nat :=
  let col := dieCol s.part d
  let row := dieRow s.part d
  if dir = 0 then (if row = 0 then none else dieAt s.part col (row - 1))
  else if dir = 1 then dieAt s.part (col + 1) row
  else if dir = 2 then dieAt s.part col (row + 1)
  else if col = 0 then none else dieAt s.part (col - 1) row

def skipA (s : State) (d py : Nat) : Nat := s.fld (dieKey d (FUSE_SKIP + 4 * py)) 0 6
def skipB (s : State) (d py : Nat) : Nat := s.fld (dieKey d (FUSE_SKIP + 4 * py)) 8 6
def canvasW (s : State) : Nat := s.fld (ecKey BOOT_CANVAS) 0 8
def canvasH (s : State) : Nat := s.fld (ecKey BOOT_CANVAS) 8 7
def canvasDc (s : State) : Nat := s.fld (ecKey BOOT_CANVAS) 16 2
def canvasDr (s : State) : Nat := s.fld (ecKey BOOT_CANVAS) 18 1
def canvasValid (s : State) : Bool := s.fld (ecKey BOOT_CANVAS) 22 1 == 1

/-- State of die d: 0 not populated or not assessed, 1 in canvas, 2 stranded, 3 excluded (R75). -/
def dieState (s : State) (d : Nat) : Nat := s.fld (ecKey BOOT_DIE_STATE) (2 * d) 2

/-- A die takes part in traffic: populated and not excluded. -/
def dieLive (s : State) (d : Nat) : Bool := d < s.part.dies && s.dieState d != 3

/-- `physical_of` of R50, none outside the published canvas. -/
def physicalOf (s : State) (x y : Nat) : Option Nat :=
  if s.canvasValid ∧ x < s.canvasW ∧ y < s.canvasH then
    (dieAt s.part (s.canvasDc + x / 46) (s.canvasDr + y / 48)).map fun d =>
      cellAt d (physOf (s.skipA d (y % 48)) (s.skipB d (y % 48)) (x % 46)) (y % 48)
  else none

/-- `logical_of` of R50. -/
def logicalOf (s : State) (c : Nat) : Option (Nat × Nat) :=
  let d := cellDie c
  if s.canvasValid ∧ s.dieState d = 1 then
    (localOf (s.skipA d (cellPy c)) (s.skipB d (cellPy c)) (cellPx c)).map fun lx =>
      (46 * (dieCol s.part d - s.canvasDc) + lx, 48 * (dieRow s.part d - s.canvasDr) + cellPy c)
  else none

def isHole (s : State) (c : Nat) : Bool := s.boot.holes.contains c

/-! ### Jobs and panels -/

/-- Panels that cover a logical cell. -/
def covering (s : State) (x y : Nat) : List Panel :=
  s.panels.filter fun p => p.x0 ≤ x && x < p.x0 + p.w && p.y0 ≤ y && y < p.y0 + p.h

/-- The innermost panel of a logical cell (R71): covering, and parent of no covering panel. -/
def panelAt (s : State) (x y : Nat) : Option Panel :=
  (s.covering x y).find? fun p => (s.covering x y).all fun q => q.parent != p.id || q.id == p.id

def panelOf (s : State) (c : Nat) : Option Panel :=
  match s.logicalOf c with
  | some (x, y) => s.panelAt x y
  | none => none

def job? (s : State) (id : Nat) : Option Job := s.jobs.find? fun j => j.id == id

/-- JOB_ID of the job that holds a cell (R248), 0xFFFF for none. -/
def jobOf (s : State) (c : Nat) : Nat := match s.panelOf c with | some p => p.job | none => 0xFFFF

def stepOf (s : State) (id : Nat) : DWord := match s.job? id with | some j => j.step | none => 0

def modJob (s : State) (id : Nat) (f : Job → Job) : State :=
  { s with jobs := s.jobs.map fun j => if j.id = id then f j else j }

/-- The logical cells of a panel, by row and column. -/
def panelCells (s : State) (p : Panel) : List Nat :=
  (List.range p.h).flatMap fun v => (List.range p.w).filterMap fun u => s.physicalOf (p.x0 + u) (p.y0 + v)

/-- The cells of a job: those of its top-level panels. -/
def jobCells (s : State) (id : Nat) : List Nat :=
  (s.panels.filter fun p => p.job == id && p.parent == 0xFFFF).flatMap s.panelCells

end State

/-! ### Check sums of byte strings -/

/-- One step of a reflected CRC-32 over a bit. -/
def crcBit (poly r : Nat) : Nat := if r % 2 = 1 then r / 2 ^^^ poly else r / 2

/-- A reflected CRC-32 over a byte. -/
def crcByte (poly r : Nat) (b : Byte) : Nat :=
  crcBit poly (crcBit poly (crcBit poly (crcBit poly (crcBit poly (crcBit poly (crcBit poly (crcBit poly (r ^^^ b.toNat))))))))

/-- CRC-32C of a byte string (R229). -/
def crc32c (bs : List Byte) : Nat := bs.foldl (crcByte 0x82F63B78) 0xFFFFFFFF ^^^ 0xFFFFFFFF

/-- The FCS of IEEE 802.3 over a byte string (R282). -/
def crc32 (bs : List Byte) : Nat := bs.foldl (crcByte 0xEDB88320) 0xFFFFFFFF ^^^ 0xFFFFFFFF

/-! ### Global address (R38, R39) -/

/-- What a global address names. `hole` lies at a hole, which refuses it (R46); `bad` is an address
R39 refuses, with its space. -/
inductive Target where
  | gddr (a : Nat)
  | spm (c off : Nat)
  | cellCtl (c off : Nat)
  | dieCtl (d off : Nat)
  | engCtl (off : Nat)
  | host (a : Nat)
  | hole (space c : Nat)
  | bad (space : Nat)
deriving DecidableEq, Repr

namespace State

/-- Decoding of a global address by R38. A hole refuses every access addressed to it (R46). -/
def target (s : State) (ga : Nat) : Target :=
  let sp := bits ga 44 4
  let x := bits ga 36 8
  let y := bits ga 29 7
  if sp = 0 then (if bits ga 0 44 < s.fld (ecKey BOOT_GDDR_CAP) 0 44 then .gddr (bits ga 0 44) else .bad 0)
  else if sp = 1 then
    if bits ga 21 8 = 0 ∧ bits ga 0 21 < 0x180000 then
      match s.physicalOf x y with
      | some c => if s.isHole c then .hole 1 c else .spm c (bits ga 0 21)
      | none => .bad 1
    else .bad 1
  else if sp = 2 then
    if bits ga 16 13 = 0 then
      match s.physicalOf x y with
      | some c => if s.isHole c then .hole 2 c else .cellCtl c (bits ga 0 16)
      | none => .bad 2
    else .bad 2
  else if sp = 3 then
    if bits ga 24 17 = 0 ∧ s.dieLive (bits ga 41 3) then .dieCtl (bits ga 41 3) (bits ga 0 24) else .bad 3
  else if sp = 4 then (if bits ga 24 20 = 0 ∧ bits ga 0 24 < 0x70000 then .engCtl (bits ga 0 24) else .bad 4)
  else if sp = 8 then .host (bits ga 0 44)
  else .bad sp

/-- Global address of a scratchpad byte of a logical cell. -/
def gaSpm (x y off : Nat) : Nat := 0x1 * 2 ^ 44 + x * 2 ^ 36 + y * 2 ^ 29 + off

/-! ### Leaving the module: host memory, MSI-X, event rings (R331-R333) -/

/-- Key of a byte of host memory (log 5). -/
def hostKey (a : Nat) : Nat := 3 * 2 ^ 44 + a

/-- A posted write to host memory. -/
def hostStore (s : State) (port a : Nat) (bs : List Byte) (ep : Bool) : State :=
  (s.setBytes (hostKey a) bs).emit (.hostWrite port a bs ep)

/-- Key of a PCIE register of a port. -/
def pcieKey (port o : Nat) : Nat := dieKey (portDie port) o

/-- A port whose link is up and whose function is in D0 sends requests (R314, R321). -/
def portOpen (s : State) (port : Nat) : Bool := (s.hport port).up && !(s.hport port).d3hot

/-- A vector is masked: by its table entry, by the function mask, because MSI-X is not enabled, or because the function is in D3hot and
sends nothing (R314, R331; log 15). -/
def vecMasked (h : HPort) (v : Nat) : Bool :=
  bit (SMap.get h.msix (16 * v + 12) 1).toNat 0 || h.msixMask || !h.msixEn || h.d3hot

/-- Raise an MSI-X vector: sent, or pending while it is masked (R331); a port whose link is down loses it (log 15). -/
def raiseVec (s : State) (port v : Nat) : State :=
  let h := s.hport port
  if vecMasked h v then s.setHport port { h with pba := if h.pba.contains v then h.pba else v :: h.pba }
  else if h.up then s.emit (.msix port v)
  else s

/-- A pending vector that is not masked any more is delivered. -/
def unmask (s : State) (p v : Nat) : State :=
  let h := s.hport p
  if h.pba.contains v && !vecMasked h v then (s.setHport p { h with pba := h.pba.filter (· != v) }).raiseVec p v
  else s

/-- Entries free in a port's event ring. -/
def evqRoom (s : State) (port : Nat) : Bool :=
  (s.fld (pcieKey port PCIE_EVQ_PI) 0 17 + 131072 - s.fld (pcieKey port PCIE_EVQ_CI) 0 17) % 131072 <
    2 ^ s.fld (pcieKey port PCIE_EVQ_SIZE) 0 5

def evqSlot (s : State) (port : Nat) : Nat :=
  (s.reg (pcieKey port PCIE_EVQ_BASE)).toNat / 4096 * 4096 +
    64 * (s.fld (pcieKey port PCIE_EVQ_PI) 0 17 % 2 ^ s.fld (pcieKey port PCIE_EVQ_SIZE) 0 5)

/-- Write one 64-byte entry to a port's event ring, which has room; the batch it belongs to raises vector 256 at its end (evqGap). -/
def evqPut (s : State) (port kind : Nat) (body : List Byte) : State :=
  let h := s.hport port
  let q := if h.evqSeq = 0xFFFFFFFF then 1 else h.evqSeq + 1
  let e := toLe 4 kind ++ toLe 4 q ++ body ++ List.replicate (56 - body.length) 0
  ((s.hostStore port (s.evqSlot port) e false).setHport port { h with evqSeq := q, batch := 2 }).incWrap
    (pcieKey port PCIE_EVQ_PI) 0 17 1

/-- At the end of a slot: a batch of entries ends with the first slot in which none was written, and vector 256 is raised once for it
(R331; log 28). -/
def evqGap (s : State) (port : Nat) : State :=
  let h := s.hport port
  if h.batch = 0 then s
  else
    let s1 := s.setHport port { h with batch := h.batch - 1 }
    if h.batch = 1 then s1.raiseVec port 256 else s1

/-- After a loss, the KIND 6 entry goes before any other once a slot is free (R333). -/
def evqLoss (s : State) (port : Nat) : State :=
  if s.fld (pcieKey port PCIE_CTRL) 1 1 = 1 ∧ (s.hport port).evqLostDue ∧ s.evqRoom port ∧ s.portOpen port then
    let s1 := s.setHport port { s.hport port with evqLostDue := false }
    s1.evqPut port 6 (toLe 4 (s.fld (pcieKey port PCIE_EVQ_STAT) 0 16))
  else s

/-- A record or event for one port: written, or dropped and counted when the ring is full (R332, R333). -/
def evqWrite (s : State) (port kind : Nat) (body : List Byte) : State :=
  if s.fld (pcieKey port PCIE_CTRL) 1 1 = 0 then s
  else
    let s1 := s.evqLoss port
    if s1.portOpen port && s1.evqRoom port then s1.evqPut port kind body
    else (s1.incSat (pcieKey port PCIE_EVQ_STAT) 0 16 1).setHport port { s1.hport port with evqLostDue := true }

/-- A record or event for every port. -/
def event (s : State) (kind : Nat) (body : List Byte) : State :=
  s.part.ports.foldl (fun t p => t.evqWrite p kind body) s

def raiseAll (s : State) (v : Nat) : State := s.part.ports.foldl (fun t p => t.raiseVec p v) s

/-- A change of job state with its event (R243, R244). -/
def setJobState (s : State) (id st : Nat) : State :=
  match s.job? id with
  | some j => if j.state = st then s else
      ((({ s with leftRun := if j.state = 3 then id :: s.leftRun else s.leftRun }).modJob id fun x => { x with state := st }).event 3 (toLe 2 id ++ toLe 2 st)).raiseAll 258
  | none => s

end State

/-! ### Pulses and gates (R401, R402, R405, R409) -/

/-- Slots of a frame in the order in which they are removed (R405). -/
def removalOrder : List Nat := [15, 7, 11, 3, 13, 5, 9, 1]

/-- Whether a count of n pulses keeps slot k of a frame (R405). -/
def keepsSlot (n k : Nat) : Bool := !(removalOrder.take (16 - n)).contains k

/-- Die, column and row of a region index. -/
def regionDie (r : Nat) : Nat := r / 64
def regionRx (r : Nat) : Nat := r % 8
def regionRy (r : Nat) : Nat := r % 64 / 8

/-- Key of a region's register in a run of 64 words (R396, R419). -/
def regionKey (o r : Nat) : Nat := dieKey (regionDie r) (o + 4 * (r % 64))
/-- Key of LDO_CRn or LDO_RRn of a region (R363). -/
def ldoKey (r rail : Nat) : Nat := dieKey (regionDie r) (LDO_CR + 8 * (r % 64) + 4 * rail)

/-- Whether a stretch suppresses a slot (R409): odd slots, from two slots after the firing. -/
def stretched (x : Option (Nat × Nat)) (slot : Nat) : Bool :=
  match x with
  | some (start, _) => slot % 2 == 1 && decide (start + 2 ≤ slot)
  | none => false

namespace State

/-- Lock of a field's PLL. -/
def locked (s : State) (d f : Nat) : Bool := s.fld (dieKey d CLK_STAT) f 1 == 1

/-- A region receives a pulse in the present slot while its field mesh runs (R401, R405, R409). -/
def pulse (s : State) (r : Nat) : Bool :=
  let x := s.region r
  s.locked (regionDie r) (regionField (regionRx r) (regionRy r)) && keepsSlot x.n (s.slot % 16) && !stretched x.stretch s.slot

/-- Gates (R402). -/
def routerGate (s : State) (r : Nat) : Bool := 1 ≤ (s.region r).st && (s.region r).st ≤ 5
def coreGate (s : State) (r : Nat) : Bool := (s.region r).st == 3 || (s.region r).st == 4
def memGate (s : State) (r : Nat) : Bool := s.coreGate r || ((s.region r).st == 2 && s.fld (ldoKey r 0) 17 1 == 1)

/-- A pulse reaches a cell's units beneath the core gate, the memory gate, the router gate in the present slot (R402). -/
def corePulse (s : State) (c : Nat) : Bool := s.coreGate (cellRegion c) && s.pulse (cellRegion c)
def memPulse (s : State) (c : Nat) : Bool := s.memGate (cellRegion c) && s.pulse (cellRegion c)
def routerPulse (s : State) (c : Nat) : Bool := s.routerGate (cellRegion c) && s.pulse (cellRegion c)

/-- The cores, the bank engine and the MXE of a cell see a pulse in the present slot: the core gate is open and the cell is not held
(R144, R402). -/
def runs (s : State) (c : Nat) : Bool := !s.isHeld c && s.corePulse c

end State

/-! ### Error records -/

/-- Severity a class gives; a circumstance that changes it is passed where the record is raised (R452). -/
def sevOf (cls : Nat) : Nat :=
  if [0x28, 0x3A, 0x49, 0x5B, 0x6A, 0x75, 0x7E, 0x86].contains cls then 2
  else if [0x78, 0x7C, 0x81].contains cls then 3
  else if [0x10, 0x11, 0x12, 0x13, 0x14, 0x16, 0x22, 0x23, 0x24, 0x25, 0x26, 0x29, 0x2A, 0x2D, 0x32, 0x34, 0x35, 0x36,
    0x37, 0x38, 0x39, 0x3C, 0x43, 0x44, 0x46, 0x54, 0x56, 0x59, 0x65, 0x66, 0x6B, 0x72, 0x8B].contains cls then 1
  else 0

/-- Physical cell of a location. -/
def Loc.cell? : Loc → Option Nat
  | .cell c _ => some c
  | _ => none

/-- The cell a requester's request comes from; host, firmware and edge agents have none (R429). -/
def originCell : Req → Option Nat
  | .core c _ => some c
  | .far c _ => some c
  | _ => none

/-- DIE, PX, PY, UNIT and UIDX of a location (R422). -/
def Loc.place : Loc → Nat × Nat × Nat × Nat × Nat
  | .cell c u => (cellDie c, cellPx c, cellPy c, 0, u)
  | .region d rx ry => (d, rx, ry, 1, 0)
  | .dieUnit d u => (d, 0xFF, 0xFF, 2, u)
  | .engine u => (0xFF, 0xFF, 0xFF, 3, u)
  | .module u => (0xFF, 0xFF, 0xFF, 4, u)

/-- The fields of a record in the order of R422: name, size in bytes, value. -/
def Rec.fields (r : Rec) : List (String × Nat × Nat) :=
  let phv := match r.loc with | .cell .. | .region .. | .dieUnit .. => 8 | _ => 0
  let (dd, px, py, unit, uidx) := r.loc.place
  [("CLASS", 1, r.cls), ("FLAGS", 1, r.sev + (if r.xy.isSome then 4 else 0) + phv + (if r.halt then 16 else 0)), ("JOB_ID", 2, r.job),
   ("RSEQ", 4, r.rseq), ("TIME", 8, r.time), ("STEP", 8, r.step.toNat),
   ("X", 1, match r.xy with | some (x, _) => x | none => 0xFF), ("Y", 1, match r.xy with | some (_, y) => y | none => 0xFF),
   ("DIE", 1, dd), ("PX", 1, px), ("PY", 1, py), ("UNIT", 1, unit), ("UIDX", 2, uidx), ("DETAIL", 8, r.detail.toNat),
   ("HJOB", 2, r.hjob), ("SUPP", 2, min r.supp 0xFFFF), ("BOOTSEQ", 4, bits r.bootseq 0 24)]

/-- The record's 48 bytes (R422). -/
def Rec.bytes (r : Rec) : List Byte := r.fields.flatMap fun f => toLe f.2.1 f.2.2

/-- The order of records that arrive together (R423): DIE, CLASS, then logical cells by y and x, then the rest by UNIT, PY, PX, UIDX. -/
def Rec.key (r : Rec) : Nat :=
  let (dd, px, py, unit, uidx) := r.loc.place
  dd * 2 ^ 48 + r.cls * 2 ^ 40 + match r.xy with
    | some (x, y) => y * 2 ^ 8 + x
    | none => 2 ^ 39 + unit * 2 ^ 32 + py * 2 ^ 24 + px * 2 ^ 16 + uidx % 2 ^ 16

/-- Record a reaches the engine controller before record b: it was detected in an earlier cycle, or in the same one and its key is lower
(R423; log 40). -/
def Rec.before (a b : Rec) : Bool :=
  decide (a.slot < b.slot ∨ (a.slot = b.slot ∧ (a.key < b.key ∨ (a.key = b.key ∧ a.sn < b.sn))))

namespace State

/-- The job a halt of cell `c` would halt: held, loading to done, and not about to be halted already (R429, R430). -/
def haltable (s : State) (c : Nat) : Bool :=
  match s.job? (s.jobOf c) with
  | some j => 1 ≤ j.state && j.state ≤ 4 && s.err.haltQ.all fun h => h.job != j.id
  | none => false

/-- Records withheld since the last one of this class and location. -/
def suppOf (s : State) (cls : Nat) (loc : Loc) : Nat :=
  match s.err.rates.find? fun r => r.cls == cls && decide (r.loc = loc) with
  | some r => r.supp
  | none => 0

def setRate (s : State) (r : RateSt) : State :=
  { s with err := { s.err with rates := r :: s.err.rates.filter fun q => !(q.cls == r.cls && decide (q.loc = r.loc)) } }

/-- Serial number of a record of a class with a stated limit of one per `ns`, were it raised now: 0 where the limit withholds it. -/
def limSn (s : State) (ns cls : Nat) (loc : Loc) : Nat :=
  match s.err.rates.find? fun r => r.cls == cls && decide (r.loc = loc) with
  | some r => if s.now < r.last + ns then 0 else s.err.nextSn
  | none => s.err.nextSn

/-- Raise a record of severity `sev`. `struck` is the struck cell of R429. The record goes to the engine controller
(`recQ`), the halt to the struck cell's panel (`haltQ`). -/
def raiseSev (s : State) (sev cls : Nat) (loc : Loc) (detail : Nat) (struck : Option Nat) : State :=
  let id := (match loc with | .cell c _ => s.jobOf c | _ => 0xFFFF)
  let hc := match struck with | some c => if sev = 1 ∧ s.haltable c then some c else none | none => none
  let r : Rec :=
    { cls := cls, sev := sev, loc := loc, xy := (match loc with | .cell c _ => s.logicalOf c | _ => none), halt := hc.isSome,
      job := id, step := s.stepOf id, time := s.facility / 1000 * 1000, rseq := 0,
      hjob := (match hc with | some c => s.jobOf c | none => 0xFFFF), supp := s.suppOf cls loc,
      bootseq := s.flash.bootseq, detail := BitVec.ofNat 64 detail, struck := struck, sn := s.err.nextSn, slot := s.slot }
  let s1 := s.setRate { cls := cls, loc := loc, last := s.now, supp := 0 }
  let hq := match hc with | some c => s1.err.haltQ ++ [⟨c, cls, r.sn, s.jobOf c, false⟩] | none => s1.err.haltQ
  { s1 with err := { s1.err with recQ := s1.err.recQ ++ [r], haltQ := hq, nextSn := s1.err.nextSn + 1 } }

/-- Raise a record with the severity its class gives. -/
def raise (s : State) (cls : Nat) (loc : Loc) (detail : Nat) (struck : Option Nat) : State :=
  s.raiseSev (sevOf cls) cls loc detail struck

/-- A record that its cell's panel is halted for, raised at the cell. -/
def raiseAt (s : State) (cls c detail : Nat) : State := s.raise cls (.cell c 0) detail (some c)

/-- A record of a class with a stated rate limit of one per `ns`: withheld and counted inside the interval (R424). -/
def raiseLim (s : State) (ns cls : Nat) (loc : Loc) (detail : Nat) : State :=
  match s.err.rates.find? fun r => r.cls == cls && decide (r.loc = loc) with
  | some r => if s.now < r.last + ns then s.setRate { r with supp := r.supp + 1 } else s.raise cls loc detail none
  | none => s.raise cls loc detail none

/-- A record of a class that is limited to one per `ns` for its cell, whatever UIDX it carries (R193, R424). -/
def raiseLimCell (s : State) (ns cls c uidx detail : Nat) : State :=
  match s.err.rates.find? fun r => r.cls == cls && decide (r.loc.cell? = some c) with
  | some r =>
    if s.now < r.last + ns then s.setRate { cls := cls, loc := .cell c uidx, last := r.last, supp := s.suppOf cls (.cell c uidx) + 1 }
    else s.raise cls (.cell c uidx) detail none
  | none => s.raise cls (.cell c uidx) detail none

/-! ### The halves of a 64-bit register (R13) -/

/-- The pending item of a requester in a block. -/
def pendOf (s : State) (req : Req) (b : Nat) : Option Pend :=
  match s.pend13.find? fun p => decide (p.1 = req) && p.2.1 == b with
  | some p => some p.2.2
  | none => none

def dropPend (s : State) (req : Req) (b : Nat) : State :=
  { s with pend13 := s.pend13.filter fun p => !(decide (p.1 = req) && p.2.1 == b) }

def setPend (s : State) (req : Req) (b : Nat) (x : Pend) : State :=
  { s.dropPend req b with pend13 := (req, b, x) :: (s.dropPend req b).pend13 }

/-- The answer a requester receives. -/
def answer (s : State) (req : Req) (r : Resp) : State :=
  { s with resp := (req, r) :: s.resp.filter fun p => !decide (p.1 = req) }

end State

end Sys2Proof.Machine
end

