-- ==== Sys2Proof/Machine/Sync.lean ====
section
/-! DEFINITION. Sync counters (R216-R222): arming, signals, stale drops, saturation. -/

namespace Sys2Proof.Machine

/-- Key of SYNC_CTRn of a cell. -/
def ctrKey (c n : Nat) : Nat := cellKey c (SYNC_CTR + 4 * n)

namespace State

def count (s : State) (c n : Nat) : Nat := s.fld (ctrKey c n) 0 20
def epoch (s : State) (c n : Nat) : Nat := s.fld (ctrKey c n) 20 2

/-- Set the saturation bit of counter n (R217). -/
def setSat (s : State) (c n : Nat) : State :=
  if n < 32 then s.setW1c (cellKey c SYNC_SAT_LO) n else s.setW1c (cellKey c SYNC_SAT_HI) (n - 32)

/-- A stale signal: dropped, counted, recorded, and logged at most once per cell per millisecond (R217). -/
def staleSignal (s : State) (c : Nat) (g : Signal) : State :=
  let last := g.ctr + g.epoch * 2 ^ 6 + s.epoch c g.ctr * 2 ^ 8 +
    (match g.src with | some (x, y) => x * 2 ^ 10 + y * 2 ^ 18 | none => 0) + (if g.remote then 2 ^ 25 else 0)
  ((s.incSatUn (cellKey c SYNC_STALE_CNT) 0 16 1).setReg (cellKey c SYNC_STALE_LAST) (BitVec.ofNat 64 last)).raiseLim
    1000000 0x33 (.cell c 0) 0

/-- A signal reaches the SYNC block of a cell: it is judged at the end of the present router cycle, `late` cycles on (R207, R217). -/
def applySignal (s : State) (c late : Nat) (g : Signal) : State :=
  s.setCell c { s.cell c with sigs := (s.cell c).sigs ++ [((s.cell c).rcyc + late, g)] }

/-- The matching signals of one cycle are added together; a sum that would pass 0xF_FFFF saturates the counter (R217). -/
def addSignals (s : State) (c n sum : Nat) : State :=
  if s.count c n + sum ≤ 0xFFFFF then s.setFld (ctrKey c n) 0 20 (s.count c n + sum)
  else (((s.setFld (ctrKey c n) 0 20 0xFFFFF).setSat c n).raiseAt 0x38 c 0)

/-- The signals that arrived for counter n in a cycle, judged against the epoch it holds after a write of that cycle (R217). -/
def judgeCtr (s : State) (c : Nat) (gs : List Signal) (n : Nat) : State :=
  let mine := gs.filter fun g => g.ctr == n
  let good := mine.filter fun g => g.epoch == s.epoch c n
  let s1 := (mine.filter fun g => g.epoch != s.epoch c n).foldl (fun t g => t.staleSignal c g) s
  if good.isEmpty then s1 else s1.addSignals c n (good.map fun g => g.inc).sum

/-- The end of a router cycle of the SYNC block: every signal that arrived in it is judged (R217). -/
def syncCycle (s : State) (c : Nat) : State :=
  let x := s.cell c
  if x.sigs.isEmpty then s
  else
    let gs := (x.sigs.filter fun g => decide (g.1 ≤ x.rcyc)).map fun g => g.2
    ((gs.map fun g => g.ctr).eraseDups).foldl (fun t n => t.judgeCtr c gs n)
      (s.setCell c { x with sigs := x.sigs.filter fun g => decide (x.rcyc < g.1) })

/-- A write to SYNC_CTRn arms the counter with COUNT and EPOCH (R217). -/
def armCounter (s : State) (c n : Nat) (v : Word) : State :=
  s.setReg (ctrKey c n) (BitVec.ofNat 64 (bits v.toNat 0 22))

end State

/-- RTR_ERR_LAST (R225). -/
def State.rtrLast (s : State) (c cls link tag : Nat) : State :=
  s.setReg (cellKey c RTR_ERR_LAST) (BitVec.ofNat 64 (cls + link * 2 ^ 8 + tag * 2 ^ 12))

/-- The router's or SYNC block's own control state met an error on this access (R223): 1 a single-bit error, corrected, 2 an
uncorrectable one. -/
def State.routerEcc (s : State) (c ecc : Nat) : State :=
  if ecc = 1 then (s.rtrLast c 0x3B 0 0).raise 0x3B (.cell c 0) 0 none
  else if ecc = 2 then (s.rtrLast c 0x3A 0 0).raise 0x3A (.cell c 0) 0 none
  else s

/-- SYNC_ARM (R217, R218, R223). -/
def execSyncArm (c n : Nat) (v : Word) (ecc : Nat) (s : State) : Res := .next ((s.routerEcc c ecc).armCounter c n v)

end Sys2Proof.Machine
end

