-- ==== Sys2Proof/Machine/Spm.lean ====
section
/-! DEFINITION. The scratchpad of a cell (R150-R157, R166-R178, R181): its code, the access checks, reads and writes of
every port class, the primer, the scrubber, the check-bit test, the bank engine and the merge buffers. -/

namespace Sys2Proof.Machine

/-! ### The code (R169-R171) -/

/-- Columns H_0 to H_63 (R169). -/
def eccCols : List Nat :=
  [0x07, 0x0B, 0x0D, 0x0E, 0x13, 0x15, 0x16, 0x19, 0x1A, 0x1C, 0x23, 0x25, 0x26, 0x29, 0x2A, 0x2C] ++
  [0x31, 0x32, 0x34, 0x38, 0x43, 0x45, 0x46, 0x49, 0x4A, 0x4C, 0x51, 0x52, 0x54, 0x58, 0x61, 0x62] ++
  [0x64, 0x68, 0x70, 0x83, 0x85, 0x86, 0x89, 0x8A, 0x8C, 0x91, 0x92, 0x94, 0x98, 0xA1, 0xA2, 0xA4] ++
  [0xA8, 0xB0, 0xC1, 0xC2, 0xC4, 0xC8, 0xD0, 0xE0, 0x1F, 0x3E, 0x7C, 0xF8, 0xF1, 0xE3, 0xC7, 0x8F]

/-- Exclusive-or of the columns of the set bits. -/
def xorCols : List Nat → Nat → Nat
  | [], _ => 0
  | h :: t, w => (if w % 2 = 1 then h else 0) ^^^ xorCols t (w / 2)

/-- Check byte of a 64-bit word (R169). -/
def eccByte (w : Nat) : Nat := xorCols eccCols w

/-- Judgement of a word read with its check byte (R170). -/
inductive Judge where
  | good
  | poison
  | single (fixed : Nat)
  | bad
deriving DecidableEq, Repr

/-- The decoder's judgement of a syndrome, in the order of R170. -/
def judge (w chk : Nat) : Judge :=
  let s := chk ^^^ eccByte w
  if s = 0 then .good
  else if s = 0xFF then .poison
  else match eccCols.findIdx? (· == s) with
    | some i => .single (w ^^^ 2 ^ i)
    | none => if [1, 2, 4, 8, 16, 32, 64, 128].contains s then .single w else .bad

/-! ### Where the bytes are -/

/-- Key of a scratchpad byte; its check bytes, the instruction stores and their check bytes follow it. -/
def spmKey (c off : Nat) : Nat := off + (2 ^ 44 + 2 ^ 24 * c)
def spmChkKey (c off : Nat) : Nat := off / 8 + (2 ^ 44 + 2 ^ 24 * c + 0x200000)
def imemKey (c : Nat) (k : CoreSel) (off : Nat) : Nat :=
  off + (2 ^ 44 + 2 ^ 24 * c + match k with | .head => 0x400000 | .tail => 0x410000)
def imemChkKey (c : Nat) (k : CoreSel) (off : Nat) : Nat :=
  off / 8 + (2 ^ 44 + 2 ^ 24 * c + match k with | .head => 0x408000 | .tail => 0x418000)

/-- Bank of an offset (R150). -/
def bankOf (off : Nat) : Nat := off / 0x30000

namespace State

/-- Stored data and check byte of the word that holds offset `off`. -/
def wordAt (s : State) (c off : Nat) : Nat := ofLe (s.bytes (spmKey c (off / 8 * 8)) 8)
def chkAt (s : State) (c off : Nat) : Nat := (s.byte (spmChkKey c off)).toNat

def scrubOf (s : State) (c b : Nat) : ScrubSt := SMap.get (s.cell c).scrub b ScrubSt.reset
def setScrub (s : State) (c b : Nat) (x : ScrubSt) : State :=
  s.setCell c { s.cell c with scrub := SMap.put (s.cell c).scrub b x }

/-- A word of a line that the scrubber has read is written before its write-back: it drops the write-back (R175). -/
def scrubDrop (s : State) (c off : Nat) : State :=
  let x := s.scrubOf c (bankOf off)
  if x.wb && x.line == off % 0x30000 / 64 then s.setScrub c (bankOf off) { x with wb := false } else s

/-- Store data and check byte exactly. -/
def putWord (s : State) (c off w chk : Nat) : State :=
  ((s.scrubDrop c off).setBytes (spmKey c (off / 8 * 8)) (toLe 8 w)).setByte (spmChkKey c off) (BitVec.ofNat 8 chk)

/-- A complete word with fresh check bits (R171). -/
def writeWord (s : State) (c off w : Nat) : State := s.putWord c off w (eccByte w)

/-- A poisoned word (R171). -/
def poisonWord (s : State) (c off : Nat) : State := s.putWord c off 0 0xFF

/-- SPM_PRIME_STAT.DONE. -/
def primed (s : State) (c : Nat) : Bool := s.fld (cellKey c SPM_PRIME_STAT) 0 1 == 1

/-- Owner class of a bank as OWN names it now, and at the start of the cycle, by which accesses are judged (R153-R155). -/
def ownerSet (s : State) (c bank : Nat) : Nat := s.fld (cellKey c SPM_BANK_OWN) (4 * bank) 3
def owner (s : State) (c bank : Nat) : Nat := bits (s.regStart (cellKey c SPM_BANK_OWN)).toNat (4 * bank) 3

/-- Queue a targeted test (R434, R435): merged when queued or running for the same unit, dropped beyond four queued. -/
def queueTest (s : State) (c unit sn word : Nat) : State :=
  let x := s.cell c
  let same := fun (t : TTest) => t.unit == unit && (unit != 1 || t.word / 64 == word / 64)
  if x.tests.any same || (match x.running with | some t => same t | none => false) || 4 ≤ x.tests.length then s
  else s.setCell c { x with tests := x.tests ++ [{ unit := unit, sn := sn, word := word }] }

/-- SPM_ERR_LAST (R181), also the detail of classes 0x20-0x22 (R518). -/
def errLast (off port syn : Nat) : Nat := off / 8 * 8 + port * 2 ^ 21 + syn * 2 ^ 24

def setErrLast (s : State) (c off port syn : Nat) : State :=
  s.setReg (cellKey c SPM_ERR_LAST) (BitVec.ofNat 64 (errLast off port syn))

/-- A record of class 0x21 or 0x22 for a word, with the line march it triggers (R172, R434). -/
def wordRecord (s : State) (cls c off port syn : Nat) (struck : Option Nat) : State :=
  (((s.queueTest c 1 s.err.nextSn off).raise cls (.cell c 0) (errLast off port syn) struck).setErrLast c off port syn)

/-- A correction (R172): counted, logged at most once per cell per millisecond; the second in a row at one word of a bank
within a scrubber pass triggers a line march (R434). SPM_ERR_LAST names the word also where the rate limit withholds the record; records
that name no word, of classes 0x26 to 0x29 and 0x2B, leave it (DESIGN CHOICE, log 49). -/
def correction (s : State) (c off port syn : Nat) : State :=
  let x := s.cell c
  let b := bankOf off
  let s1 := if SMap.get x.lastCorr b 0 = off / 8 + 1 then s.queueTest c 1 (s.limSn 1000000 0x20 (.cell c 0)) off else s
  let s2 := s1.setCell c { s1.cell c with lastCorr := SMap.put (s1.cell c).lastCorr b (off / 8 + 1) }
  ((s2.incSatUn (cellKey c SPM_ECC_CNT) 0 16 1).raiseLim 1000000 0x20 (.cell c 0) (errLast off port syn)).setErrLast c off
    port syn

/-- What a decoded read found. -/
inductive Found where
  | word (w : Nat)
  | lost (poison : Bool) (syn : Nat)
deriving DecidableEq, Repr

/-- A read that decodes a word (R170, R172): counters and corrections done; what follows an unusable word is the
reader's. -/
def readWord (s : State) (c off port : Nat) : State × Found :=
  let w := s.wordAt c off
  let chk := s.chkAt c off
  let syn := chk ^^^ eccByte w
  match judge w chk with
  | .good => (s, .word w)
  | .single v => (s.correction c off port syn, .word v)
  | .poison => (s.incSatUn (cellKey c SPM_ECC_CNT) 16 16 1, .lost true syn)
  | .bad => (s.incSatUn (cellKey c SPM_ECC_CNT) 16 16 1, .lost false syn)

/-! ### Access checks (R154) -/

/-- The first failing check of R154 as class and reason; none when the access is accepted. `fw` marks a mesh request of
firmware origin, which alone reaches the reserved sub-array (R152). -/
def spmCheck (s : State) (c off port : Nat) (fw : Bool) : Option (Nat × Nat) :=
  if 0x180000 ≤ off then some (0x25, 1)
  else if !s.primed c then some (0x25, 2)
  else if 0x170000 ≤ off then (if fw then none else some (0x24, 0))
  else if s.owner c (bankOf off) = port then none
  else some (0x23, 0)

/-- Global address of a scratchpad byte of a physical cell. -/
def gaOf (s : State) (c off : Nat) : Nat := match s.logicalOf c with | some (x, y) => gaSpm x y off | none => 2 ^ 44 + off

/-- A refused host request: class 0x63 with its reason, PCIE_HOST_ADDR set (R319). -/
def hostRefuse (s : State) (port ga reason : Nat) : State :=
  let v := bits ga 0 48 + reason * 2 ^ 48
  (s.setReg (pcieKey port PCIE_HOST_ADDR) (BitVec.ofNat 64 v)).raise 0x63 (.dieUnit (portDie port) port) v none

/-- Log a refused scratchpad access: under the host class for a host request, else with `struck` halted (R154, R39). -/
def spmRefuse (s : State) (c off port : Nat) (req : Req) (cr : Nat × Nat) : State :=
  match req with
  | .host p => s.hostRefuse p (s.gaOf c off) (if cr = (0x25, 1) then 1 else 4)
  | _ => (s.raise cr.1 (.cell c 0) (cr.2 + port * 2 ^ 8 + s.gaOf c off * 2 ^ 16) (originCell req)).setErrLast c off port 0

/-! ### Reading and writing runs of bytes -/

/-- The words that hold `len` bytes from `off`. -/
def wordsOf (off len : Nat) : List Nat :=
  if len = 0 then [] else (List.range ((off + len - 1) / 8 - off / 8 + 1)).map fun i => (off / 8 + i) * 8

/-- 64-byte lines a run of bytes touches. -/
def lineCount (off len : Nat) : Nat := if len = 0 then 0 else (off + len - 1) / 64 - off / 64 + 1

/-- Bytes of a run as a mesh read returns them, with the 8-byte words (counted from the first) that are poisoned; an
uncorrectable word is logged as 0x21, a poisoned one is not (R172, R206). -/
def meshRead (s : State) (c off len : Nat) : State × List Byte × List Nat :=
  let r := (wordsOf off len).foldl (fun (a : State × List Byte × List Nat) o =>
    match a.1.readWord c o 4 with
    | (t, .word w) => (t, a.2.1 ++ toLe 8 w, a.2.2)
    | (t, .lost true _) => (t, a.2.1 ++ toLe 8 0, a.2.2 ++ [o / 8 - off / 8])
    | (t, .lost false syn) => (t.wordRecord 0x21 c o 4 syn none, a.2.1 ++ toLe 8 0, a.2.2 ++ [o / 8 - off / 8]))
    (s, [], [])
  (r.1.act c 1 (lineCount off len), (r.2.1.drop (off % 8)).take len, r.2.2)

/-- The bytes of word `o` that a run of `data` from `off` covers, as (index in the word, byte). -/
def covered (off o : Nat) (data : List Byte) : List (Nat × Byte) :=
  (List.range 8).filterMap fun i => if off ≤ o + i then (data[o + i - off]?).map fun b => (i, b) else none

/-- A word's bytes with some replaced. -/
def mergeBytes (w : Nat) (bs : List (Nat × Byte)) : Nat :=
  ofLe ((List.range 8).map fun i =>
    match bs.find? fun p => p.1 == i with
    | some p => p.2
    | none => BitVec.ofNat 8 (w / 256 ^ i))

/-- Lines of a run with a word that the run covers only in part, and stores by read-modify-write. -/
def partLines (off : Nat) (data : List Byte) (pois : List Nat) : Nat :=
  (((wordsOf off data.length).filter fun o =>
    let bs := covered off o data
    bs.length != 8 && !(bs.any fun p => pois.contains ((o + p.1 - off) / 8))).map (· / 64)).eraseDups.length

/-- Write a run through the wide port (R168, R206). A word any of whose bytes comes poisoned is stored as poison, a whole
word gets fresh check bits, a part is merged into the word read. A part that meets a poisoned or uncorrectable word is
dropped, class 0x22 is logged against `struck`, and the answer is false; the other words of the write are stored (DESIGN CHOICE,
log 49). A line with a part of a word takes two cycles of the wide port (R168, R366). -/
def meshWrite (s : State) (c off : Nat) (data : List Byte) (pois : List Nat) (struck : Option Nat) : State × Bool :=
  (wordsOf off data.length).foldl (fun (a : State × Bool) o =>
    let bs := covered off o data
    if bs.any fun p => pois.contains ((o + p.1 - off) / 8) then (a.1.poisonWord c o, a.2)
    else if bs.length = 8 then (a.1.writeWord c o (mergeBytes 0 bs), a.2)
    else match a.1.readWord c o 4 with
      | (t, .word w) => (t.writeWord c o (mergeBytes w bs), a.2)
      | (t, .lost _ syn) => ((t.poisonWord c o).wordRecord 0x22 c o 4 syn struck, false))
    (s.act c 1 (lineCount off data.length + partLines off data pois), true)

/-! ### Cores: stopping and merge buffers (R164, R166) -/

/-- The block of a core: HEAD registers, or the same at the TAIL block. -/
def coreKey (c : Nat) (k : CoreSel) (o : Nat) : Nat := cellKey c (o + match k with | .head => 0 | .tail => 0x1000)

/-- Port class of a core (R153). -/
def corePort : CoreSel → Nat
  | .head => 5
  | .tail => 6

/-- Stop a core with a STATE of R182; hardware clears RUN. -/
def stopCore (s : State) (c : Nat) (k : CoreSel) (st : Nat) : State :=
  (s.setCore c k { s.core c k with st := st, stopReq := false, wait := none, far := none }).setFld (coreKey c k HEAD_CTRL) 0 1 0

/-- HEAD_TRAP_CAUSE, HEAD_TRAP_PC and HEAD_TRAP_VAL record an exception or bus error (R164). -/
def trapRegs (s : State) (c : Nat) (k : CoreSel) (cause pc val : Nat) : State :=
  ((s.setReg (coreKey c k HEAD_TRAP_CAUSE) (BitVec.ofNat 64 cause)).setReg (coreKey c k HEAD_TRAP_PC)
    (BitVec.ofNat 64 pc)).setReg (coreKey c k HEAD_TRAP_VAL) (BitVec.ofNat 64 val)

/-- A bus error or a consumed poisoned word stops the core with STATE 3 (R164). -/
def busStop (s : State) (c : Nat) (k : CoreSel) (cause pc val : Nat) : State :=
  (s.trapRegs c k cause pc val).stopCore c k 3

/-- The bytes an entry holds. -/
def mbBytes (e : MbEntry) : List (Nat × Byte) :=
  (List.range 8).filterMap fun i => if e.valid.getLsbD i then some (i, BitVec.ofNat 8 (e.data.toNat / 256 ^ i)) else none

/-- Write a merge-buffer entry to its bank and free it (R166): the ownership check again, a complete entry directly, an
incomplete one by read-modify-write. -/
def mbWrite (s : State) (c : Nat) (k : CoreSel) (e : MbEntry) : State :=
  let x := s.core c k
  let s := (s.setCore c k { x with mb := x.mb.filter fun f => f.word != e.word }).act c 2 (if e.valid = 0xFF then 1 else 2)
  let off := e.word * 8
  match s.spmCheck c off (corePort k) false with
  | some cr => (s.spmRefuse c off (corePort k) (.core c k) cr).busStop c k 7 x.pc.toNat (0x10000000 + off)
  | none =>
    if e.valid = 0xFF then s.writeWord c off e.data.toNat
    else match s.readWord c off (corePort k) with
      | (t, .word w) => t.writeWord c off (mergeBytes w (mbBytes e))
      | (t, .lost _ syn) => ((t.poisonWord c off).wordRecord 0x22 c off (corePort k) syn (some c)).busStop c k 7 x.pc.toNat
          (0x10000000 + off)

/-- Write the entries that satisfy `p`, oldest first. -/
def mbFlush (s : State) (c : Nat) (k : CoreSel) (p : MbEntry → Bool) : State :=
  ((s.core c k).mb.filter p).foldl (fun t e => t.mbWrite c k e) s

/-! ### Bank ownership (R155, R156) -/

/-- Entries of a core for banks whose owner the value `v` changes away from the core's class. -/
def losesBank (s : State) (c : Nat) (k : CoreSel) (v : Word) (e : MbEntry) : Bool :=
  let b := bankOf (e.word * 8)
  s.ownerSet c b == corePort k && bits v.toNat (4 * b) 3 != corePort k

/-- Whether an ownership change has to wait for merge-buffer writes. -/
def ownWaits (s : State) (c : Nat) (v : Word) : Bool :=
  (s.core c .head).mb.any (s.losesBank c .head v) || (s.core c .tail).mb.any (s.losesBank c .tail v)

/-- Write the merge-buffer entries that the change takes a bank from. -/
def ownFlush (s : State) (c : Nat) (v : Word) : State :=
  (s.mbFlush c .head (s.losesBank c .head v)).mbFlush c .tail (s.losesBank c .tail v)

/-- SPM_BANK_OWN takes a value, which governs from the next cycle (R155); its reserved bits read zero. -/
def setOwners (s : State) (c : Nat) (v : Word) : State :=
  (s.noteWrite (cellKey c SPM_BANK_OWN)).setReg (cellKey c SPM_BANK_OWN) (BitVec.ofNat 64 (v.toNat &&& 0x77777777))

/-- A write to SPM_BANK_OWN: it governs from the next cycle, or is held behind an earlier held write or its own merge-buffer
writes; in a hold the merge buffers write nothing, so that those writes wait for its end (R180). -/
def writeOwners (s : State) (c : Nat) (v : Word) : State :=
  let x := s.cell c
  if x.owns.isEmpty ∧ ¬ s.ownWaits c v then s.setOwners c v
  else
    let s1 := if x.owns.isEmpty ∧ ¬ s.isHeld c then s.ownFlush c v else s
    s1.setCell c { s1.cell c with owns := (s1.cell c).owns ++ [v] }

/-- The oldest held change governs once its own merge-buffer writes are done; the next one's start. A hold stops those writes, and with
them the change that waits for them (R180). -/
def governOwners (s : State) (c : Nat) : State :=
  match (s.cell c).owns with
  | [] => s
  | v :: rest =>
    if s.isHeld c ∧ s.ownWaits c v then s
    else
      let s0 := s.ownFlush c v
      let s1 := (s0.setCell c { s0.cell c with owns := rest }).setOwners c v
      match rest with
      | [] => s1
      | w :: _ => if s1.isHeld c then s1 else s1.ownFlush c w

/-! ### Check-bit test (R173) -/

/-- Port class under which a requester's ECC command, or any access of its own, is judged: a core of the cell itself
through its own window by its class, every other requester as MESH. -/
def classOf (c : Nat) : Req → Nat
  | .core c' k => if c' = c then corePort k else 4
  | _ => 4

/-- Write the entry of either core that holds the word, before the command (R166). In a hold the merge buffers write nothing (R180),
and the command acts without them (DESIGN CHOICE, log 48). -/
def eccFlush (s : State) (c off : Nat) : State :=
  if s.isHeld c then s else (s.mbFlush c .head fun e => e.word == off / 8).mbFlush c .tail fun e => e.word == off / 8

/-- Offset staged in SPM_ECC_TADDR. -/
def eccAddr (s : State) (c : Nat) : Nat := 8 * s.fld (cellKey c SPM_ECC_TADDR) 3 18

/-- The activity counter of a command: a core's uses its narrow port, any other the wide port (R173, R366). -/
def eccCounter (c : Nat) (req : Req) : Nat := if classOf c req = 4 then 1 else 2

/-- CMD = 1 (R173). A command that fails R154 changes nothing, is logged, and halts the requester's own cell. -/
def eccRawWrite (s : State) (c : Nat) (req : Req) : State :=
  let off := s.eccAddr c
  match s.spmCheck c off (classOf c req) (decide (req = .firmware)) with
  | some cr => s.spmRefuse c off (classOf c req) req cr
  | none =>
    let s1 := (s.eccFlush c off).act c (eccCounter c req) 1
    s1.putWord c off (s1.reg (cellKey c SPM_ECC_TDATA)).toNat (s1.fld (cellKey c SPM_ECC_TCHK) 0 8)

/-- CMD = 2 (R173). -/
def eccRawRead (s : State) (c : Nat) (req : Req) : State :=
  let off := s.eccAddr c
  match s.spmCheck c off (classOf c req) (decide (req = .firmware)) with
  | some cr => s.spmRefuse c off (classOf c req) req cr
  | none =>
    let s1 := (s.eccFlush c off).act c (eccCounter c req) 1
    let w := s1.wordAt c off
    let chk := s1.chkAt c off
    (s1.setReg (cellKey c SPM_ECC_TDATA) (BitVec.ofNat 64 w)).setReg (cellKey c SPM_ECC_TCHK)
      (BitVec.ofNat 64 (chk + (chk ^^^ eccByte w) * 2 ^ 8))

/-! ### Primer and scrubber (R174, R175) -/

/-- The primer starts: DONE clears, BUSY sets (R174). -/
def primerStart (s : State) (c : Nat) : State := s.setReg (cellKey c SPM_PRIME_STAT) 2

/-- Every byte of keys [lo, lo + n) becomes zero. -/
def clearMem (s : State) (lo n : Nat) : State :=
  { s with mem := s.mem.filter fun p => !(lo ≤ p.1 && p.1 < lo + n) }

/-- Links of a cell whose ends are marked failed, by bit. -/
def failedBits (s : State) (c : Nat) : Nat :=
  (List.range 12).foldl (fun a l => if s.boot.failedEnds.contains (c, l) then a + 2 ^ l else a) 0

/-- What the primer leaves: scratchpad, instruction stores and journal zero with valid check bits, every sync counter at
COUNT 0 and EPOCH 0, every detour entry disabled, every landing count 0; the routing state then loaded marks the links that failed
(R174, R223). The scrubber's pass starts with
the primed cell. -/
def primeCell (s : State) (c : Nat) : State :=
  let s1 := s.clearMem (2 ^ 44 + 2 ^ 24 * c) (2 ^ 24)
  let s2 := (List.range 48).foldl (fun t n => t.setReg (ctrKey c n) 0) s1
  let s3 := (List.range 16).foldl (fun t n => t.setReg (cellKey c (RTR_DETOUR + 4 * n)) 0) s2
  let s4 := s3.setFld (cellKey c RTR_MC_LAND) 0 16 0
  let s5 := s4.setFld (cellKey c RTR_LINK_STAT) 0 12 (s.failedBits c)
  let fresh := (List.range 8).map fun b => (b, { ScrubSt.reset with passStart := s.now, due := s.now })
  ((s5.setCell c { s5.cell c with mxe := { s5.mxe c with journal := [] }, links := [], sigs := [], scrub := fresh, iscrub := [0, 0], iscrubDue := [s.now, s.now] }).setReg
    (cellKey c SPM_PRIME_STAT) 1).act c 1 24576

/-- PASS_MS against which the pass in progress is judged late: the larger of the old and the new after a write. -/
def scrubLimit (s : State) (c b : Nat) : Nat := max (s.scrubOf c b).limit (s.fld (cellKey c SPM_SCRUB_RATE) 0 16)

/-- Line interval in ns (R175). -/
def scrubInterval (s : State) (c : Nat) : Nat := s.fld (cellKey c SPM_SCRUB_RATE) 0 16 * 1000000 / 3072

/-- The scrubber has done a line: the next one, or the next pass after line 3,071. Lines that have waited are read one after another until
the scrubber has caught up: the next is due an interval after this one was (DESIGN CHOICE, log 49). -/
def scrubNext (s : State) (c b : Nat) : State :=
  let x := s.scrubOf c b
  let due := x.due + s.scrubInterval c
  if x.line + 1 < 3072 then s.setScrub c b { x with line := x.line + 1, wb := false, due := due }
  else
    let s1 := (s.setScrub c b { line := 0, wb := false, passStart := s.now, due := due, lateLogged := false, limit := 0 }).setFld
      (cellKey c SPM_SCRUB_STAT) (16 + b) 1 0
    let s2 := s1.setCell c { s1.cell c with lastCorr := SMap.del (s1.cell c).lastCorr b }
    if b = 0 then s2.incWrap (cellKey c SPM_SCRUB_STAT) 0 16 1 else s2

/-- A pass beyond PASS_MS sets LATE and logs 0x2B once (R175). -/
def scrubLate (s : State) (c b : Nat) : State :=
  let x := s.scrubOf c b
  if x.passStart + s.scrubLimit c b * 1000000 < s.now ∧ ¬ x.lateLogged then
    ((s.setScrub c b { x with lateLogged := true }).setFld (cellKey c SPM_SCRUB_STAT) (16 + b) 1 1).raise 0x2B (.cell c b)
      0 none
  else s

/-- The eight words of the line a bank's scrubber stands at. -/
def scrubWords (s : State) (c b : Nat) : List Nat :=
  (List.range 8).map fun i => b * 0x30000 + (s.scrubOf c b).line * 64 + 8 * i

/-- The scrubber judges a line: corrections and uncorrectable words are logged; the words seen are kept for the
write-back when one is needed. -/
def scrubRead (s : State) (c b : Nat) : State :=
  let ws := s.scrubWords c b
  let s1 := ws.foldl (fun (t : State) o =>
    match t.readWord c o 0 with
    | (u, .lost false syn) => u.wordRecord 0x21 c o 0 syn none
    | (u, _) => u) (s.act c 1 1)
  if ws.all fun o => judge (s.wordAt c o) (s.chkAt c o) == .good then s1.scrubNext c b
  else s1.setScrub c b { s1.scrubOf c b with wb := true }

/-- The write-back of a line; a write of the owner to the line has dropped it before (`scrubDrop`). -/
def scrubWriteback (s : State) (c b : Nat) : State :=
  ((s.scrubWords c b).foldl (fun (t : State) o =>
    match judge (t.wordAt c o) (t.chkAt c o) with
    | .good => t
    | .single v => t.writeWord c o v
    | _ => t.poisonWord c o) (s.act c 1 1)).scrubNext c b

/-! ### Instruction stores (R162, R165, R175) -/

def imemWord (s : State) (c : Nat) (k : CoreSel) (off : Nat) : Nat := ofLe (s.bytes (imemKey c k (off / 8 * 8)) 8)
def imemChk (s : State) (c : Nat) (k : CoreSel) (off : Nat) : Nat := (s.byte (imemChkKey c k off)).toNat
def putImem (s : State) (c : Nat) (k : CoreSel) (off w : Nat) : State :=
  (s.setBytes (imemKey c k (off / 8 * 8)) (toLe 8 w)).setByte (imemChkKey c k off) (BitVec.ofNat 8 (eccByte w))

/-- A fetch or scrub of an instruction-store word: a single-bit error is corrected, rewritten, counted and logged as
0x27; an uncorrectable or poisoned word logs 0x28, severity engine. -/
def readImem (s : State) (c : Nat) (k : CoreSel) (off : Nat) : State × Option Nat :=
  let w := s.imemWord c k off
  match judge w (s.imemChk c k off) with
  | .good => (s, some w)
  | .single v => (((s.putImem c k off v).incSatUn (coreKey c k HEAD_IMEM_CNT) 0 16 1).raise 0x27 (.cell c 0) 0 none, some v)
  | _ => (s.raise 0x28 (.cell c 0) 0 none, none)

/-- Refusal reason of an instruction-store load (R165), the lowest that applies (DESIGN CHOICE, log 49); 0 for none. -/
def imemReason (s : State) (c : Nat) (k : CoreSel) (req : Req) (v : Word) : Nat :=
  let lines := bits v.toNat 0 10
  let x := s.core c k
  if req ≠ .firmware then 1
  else if x.st = 1 ∨ x.st = 4 then 2
  else if lines = 0 ∨ 512 < lines ∨ 1024 < bits v.toNat 10 10 + lines ∨ 512 < bits v.toNat 20 9 + lines then 3
  else if x.imem.isSome then 4
  else 0

/-- Detail of class 0x2A (R518). -/
def imemDetail (k : CoreSel) (reason : Nat) : Nat := reason + match k with | .head => 0 | .tail => 0x100

/-- A write of HEAD_IMEM_LOAD or TAIL_IMEM_LOAD (R165); an unprimed cell refuses it as R174 states, and SPM_ERR_LAST then names the
first source word (DESIGN CHOICE, log 43). -/
def imemLoad (s : State) (c : Nat) (k : CoreSel) (req : Req) (v : Word) : State :=
  if !s.primed c then
    let off := 0x170000 + 64 * bits v.toNat 10 10
    (s.raise 0x25 (.cell c 0) (2 + 4 * 2 ^ 8 + s.gaOf c off * 2 ^ 16) (originCell req)).setErrLast c off 0 0
  else
    let r := s.imemReason c k req v
    if r ≠ 0 then (s.setFld (coreKey c k HEAD_IMEM_STAT) 1 3 r).raise 0x2A (.cell c 0) (imemDetail k r) (originCell req)
    else s.setCore c k { s.core c k with imem := some ⟨bits v.toNat 0 10, bits v.toNat 10 10, bits v.toNat 20 9⟩ }

/-- The eight words of a source line as read, with the first lost word's offset and syndrome if there is one. -/
structure LineRead where
  s : State
  words : List Nat
  lost : Option (Nat × Nat)

/-- Every word of the line is read: corrections and lost words are counted and logged one by one (R165, R172, R181). -/
def imemLine (s : State) (c src : Nat) : LineRead :=
  (List.range 8).foldl (fun (a : LineRead) i =>
    match a.s.readWord c (src + 8 * i) 0 with
    | (t, .word w) => { a with s := t, words := a.words ++ [w] }
    | (t, .lost _ syn) => { a with s := t, lost := if a.lost.isSome then a.lost else some (src + 8 * i, syn) })
    { s := s, words := [], lost := none }

/-- Copy lines until one holds a lost word; such a line is not written, and its word is named (R165). -/
def imemLines (s : State) (c : Nat) (k : CoreSel) (src dst : Nat) : Nat → State × Option (Nat × Nat)
  | 0 => (s, none)
  | n + 1 =>
    let r := s.imemLine c src
    match r.lost with
    | some l => (r.s, some l)
    | none => State.imemLines (r.words.zipIdx.foldl (fun t p => t.putImem c k (dst + 8 * p.2) p.1) r.s) c k (src + 64) (dst + 64) n

/-- The load finishes its lines, or aborts with REASON 5 (R165); SPM_ERR_LAST names the word (R181). -/
def imemDone (s : State) (c : Nat) (k : CoreSel) : State :=
  match (s.core c k).imem with
  | none => s
  | some l =>
    let r := s.imemLines c k (0x170000 + 64 * l.src) (64 * l.dst) l.lines
    let s1 := r.1.setCore c k { r.1.core c k with imem := none }
    match r.2 with
    | none => s1
    | some (off, syn) =>
      ((s1.setFld (coreKey c k HEAD_IMEM_STAT) 1 3 5).raise 0x2A (.cell c 0) (imemDetail k 5) none).setErrLast c off 0 syn

/-! ### Bank engine (R176-R178) -/

/-- Entries of the bank engine's queue at the start of the cycle: those freed in it still count (R177). -/
def bengAtStart (s : State) (c : Nat) : Nat :=
  let x := s.cell c
  x.beng.length + (if x.bengFreed.1 = x.cyc + 1 then x.bengFreed.2 else 0)

/-- Refusal reason of a push (R177), the lowest that applies (DESIGN CHOICE, log 49); 0 for none. -/
def bengReason (s : State) (c op : Nat) : Nat :=
  let src := (s.reg (cellKey c SPM_BENG_SRC)).toNat
  let dst := (s.reg (cellKey c SPM_BENG_DST)).toNat
  let len := (s.reg (cellKey c SPM_BENG_LEN)).toNat
  let sig := (s.reg (cellKey c SPM_BENG_SIG)).toNat
  if bits len 0 15 = 0 ∨ 23552 < bits len 0 15 then 1
  else if (op = 2 ∧ src % 64 ≠ 0) ∨ dst % 64 ≠ 0 then 2
  else if (op = 2 ∧ 0x170000 < bits src 0 21 + 64 * bits len 0 15) ∨ 0x170000 < bits dst 0 21 + 64 * bits len 0 15 then 3
  else if 4 ≤ s.bengAtStart c then 4
  else if 2 ^ 21 ≤ src ∨ 2 ^ 21 ≤ dst ∨ 2 ^ 15 ≤ len ∨ 2 ^ 17 ≤ sig ∨ (bit sig 16 ∧ 47 < bits sig 0 6) then 5
  else 0

/-- A push of SPM_BENG_CMD: queued with the staged values, or refused with class 0x26, which halts no panel for the host or a firmware
requester (R176, R177, R183). -/
def bengPush (s : State) (c op : Nat) (req : Req) : State :=
  let r := s.bengReason c op
  if r ≠ 0 then (s.setFld (cellKey c SPM_BENG_STAT) 4 4 r).raise 0x26 (.cell c 0) r (if (originCell req).isSome then some c else none)
  else
    let b : BengCmd :=
      { op := op, src := s.fld (cellKey c SPM_BENG_SRC) 0 21, dst := s.fld (cellKey c SPM_BENG_DST) 0 21,
        len := s.fld (cellKey c SPM_BENG_LEN) 0 15, pat := s.reg (cellKey c SPM_BENG_PAT),
        sig := (s.reg (cellKey c SPM_BENG_SIG)).setWidth 32, running := false, lines := 0, next := 0 }
    s.setCell c { s.cell c with beng := (s.cell c).beng ++ [b] }

/-- A BENG access to a line, refused by R154: the command stops, the queue is discarded, the panel halted. -/
def bengRefuse (s : State) (c off : Nat) (cr : Nat × Nat) : State :=
  let s1 := (s.raise cr.1 (.cell c 0) (cr.2 + 7 * 2 ^ 8 + s.gaOf c off * 2 ^ 16) (some c)).setErrLast c off 7 0
  s1.setCell c { s1.cell c with beng := [] }

/-- One word of a command's line. -/
def bengWord (s : State) (c : Nat) (b : BengCmd) (o : Nat) : State :=
  if b.op = 1 then s.writeWord c (b.dst + o) b.pat.toNat
  else if b.op = 3 then s.poisonWord c (b.dst + o)
  else match s.readWord c (b.src + o) 7 with
    | (t, .word w) => t.writeWord c (b.dst + o) w
    | (t, .lost true _) => t.poisonWord c (b.dst + o)
    | (t, .lost false syn) => (t.wordRecord 0x21 c (b.src + o) 7 syn none).poisonWord c (b.dst + o)

/-- Line `i` of a command; none when R154 refuses it, with the offset and reason. -/
def bengLine (s : State) (c : Nat) (b : BengCmd) (i : Nat) : State × Option (Nat × Nat × Nat) :=
  let src := if b.op = 2 then s.spmCheck c (b.src + 64 * i) 7 false else none
  match src, s.spmCheck c (b.dst + 64 * i) 7 false with
  | some cr, _ => (s, some (b.src + 64 * i, cr))
  | none, some cr => (s, some (b.dst + 64 * i, cr))
  | none, none => ((List.range 8).foldl (fun t j => t.bengWord c b (64 * i + 8 * j)) (s.act c 1 (if b.op = 2 then 2 else 1)), none)

/-- Cycles that a line of the command takes: two for a copy within one bank or between ranges that overlap (R176). -/
def bengRate (b : BengCmd) : Nat :=
  let src := b.src + 64 * b.lines
  let dst := b.dst + 64 * b.lines
  if b.op = 2 ∧ (bankOf src = bankOf dst ∨ (b.src < b.dst + 64 * b.len ∧ b.dst < b.src + 64 * b.len)) then 2 else 1

/-- The running command moves its next line, or stops at one that is refused (R154, R176). -/
def bengMove (s : State) (c : Nat) (b : BengCmd) (rest : List BengCmd) : State × Bool :=
  match s.bengLine c b b.lines with
  | (t, some (off, cr)) => (t.bengRefuse c off cr, false)
  | (t, none) =>
    (t.setCell c { t.cell c with beng := { b with lines := b.lines + 1, next := (t.cell c).cyc + bengRate b } :: rest }, true)

/-- A delivered cycle of the bank engine: a running command moves its next line, up to the last but one (log 9). -/
def bengCycle (s : State) (c : Nat) : State :=
  match (s.cell c).beng with
  | b :: rest => if b.running ∧ b.lines + 1 < b.len ∧ b.next ≤ (s.cell c).cyc then (s.bengMove c b rest).1 else s
  | [] => s

/-- The next queued command starts; its lines move in this cycle and those that follow (log 9). -/
def bengStart (s : State) (c : Nat) : State :=
  match (s.cell c).beng with
  | b :: rest =>
    if b.running ∨ !s.runs c then s
    else s.setCell c { s.cell c with beng := { b with running := true, next := (s.cell c).cyc } :: rest }
  | [] => s

/-- The command ends: DONE increments and the optional signal is applied (R178); `ecc` is what the counter's check bits show (R223). -/
def bengFinish (s : State) (c : Nat) (b : BengCmd) (ecc : Nat) : State :=
  let n := (if (s.cell c).bengFreed.1 = (s.cell c).cyc + 1 then (s.cell c).bengFreed.2 else 0) + 1
  let t := (s.setCell c { s.cell c with beng := (s.cell c).beng.drop 1, bengFreed := ((s.cell c).cyc + 1, n) }).incWrap
    (cellKey c SPM_BENG_STAT) 8 24 1
  if bit b.sig.toNat 16 then
    (t.routerEcc c ecc).applySignal c 0 ⟨bits b.sig.toNat 0 6, bits b.sig.toNat 6 2, bits b.sig.toNat 8 8, t.logicalOf c, false⟩
  else t

/-- The last line, once every other has moved. -/
def bengDone (s : State) (c ecc : Nat) : State :=
  match (s.cell c).beng with
  | b :: rest =>
    if !b.running ∨ !s.runs c ∨ b.lines + 1 ≠ b.len ∨ (s.cell c).cyc < b.next then s
    else match s.bengMove c b rest with
      | (t, true) => t.bengFinish c b ecc
      | (t, false) => t
  | [] => s

end State

/-! ### Commands -/

/-- SPM_BANK_OWN_WRITE (R155, R156). -/
def execSpmBankOwnWrite (c : Nat) (v : Word) (s : State) : Res := .next (s.writeOwners c v)

/-- ECC_RAW_WRITE (R173). -/
def execEccRawWrite (c : Nat) (req : Req) (s : State) : Res :=
  .next ((s.dropPend req (keyBlock (cellKey c SPM_ECC_TEST))).eccRawWrite c req)

/-- ECC_RAW_READ (R173). -/
def execEccRawRead (c : Nat) (req : Req) (s : State) : Res :=
  .next ((s.dropPend req (keyBlock (cellKey c SPM_ECC_TEST))).eccRawRead c req)

/-- SCRUB_LINE_READ (R175): once the bank's line interval has come, in a primed cell with no write-back waiting. -/
def execScrubLineRead (c bank : Nat) (s : State) : Res :=
  let x := s.scrubOf c bank
  .next (if s.primed c ∧ !x.wb ∧ x.due ≤ s.now then
    (s.scrubLate c bank).scrubRead c bank else s)

/-- SCRUB_WRITEBACK (R175). -/
def execScrubWriteback (c bank : Nat) (s : State) : Res :=
  .next (if (s.scrubOf c bank).wb then (s.scrubLate c bank).scrubWriteback c bank else s)

/-- ISTORE_SCRUB (R175): the next line of an instruction store, at the banks' rate. -/
def execIstoreScrub (c : Nat) (k : CoreSel) (s : State) : Res :=
  let i := match k with | .head => 0 | .tail => 1
  let x := s.cell c
  let l := (x.iscrub[i]?).getD 0
  let due := (x.iscrubDue[i]?).getD 0
  let s1 := s.setCell c { x with iscrub := x.iscrub.set i ((l + 1) % 512), iscrubDue := x.iscrubDue.set i (due + s.scrubInterval c) }
  .next (if s.primed c ∧ due ≤ s.now then (List.range 8).foldl (fun t j => (t.readImem c k (64 * l + 8 * j)).1) s1 else s)

/-- BENG_FILL (R176). -/
def execBengFill (c : Nat) (req : Req) (s : State) : Res :=
  .next ((s.dropPend req (keyBlock (cellKey c SPM_BENG_CMD))).bengPush c 1 req)

/-- BENG_COPY (R176). -/
def execBengCopy (c : Nat) (req : Req) (s : State) : Res :=
  .next ((s.dropPend req (keyBlock (cellKey c SPM_BENG_CMD))).bengPush c 2 req)

/-- BENG_POISON (R176). -/
def execBengPoison (c : Nat) (req : Req) (s : State) : Res :=
  .next ((s.dropPend req (keyBlock (cellKey c SPM_BENG_CMD))).bengPush c 3 req)

/-- BENG_COMMAND_START (R176). -/
def execBengCommandStart (c : Nat) (s : State) : Res := .next (s.bengStart c)

/-- BENG_COMMAND_DONE (R178, R223). -/
def execBengCommandDone (c ecc : Nat) (s : State) : Res := .next (s.bengDone c ecc)

end Sys2Proof.Machine
end

