-- ==== Sys2Proof/Machine/Arith.lean ====
section
/-! DEFINITION. The arithmetic of the matrix engine (R118-R140): decoding of the palette formats, contributions, the
anchored addition rule, check columns, the check of a final row, and conversion with rounding. -/

namespace Sys2Proof.Machine

/-! ### Formats (R118-R120) -/

/-- A decoded element: a finite value `m * 2^e`. -/
inductive Elem where
  | nan
  | inf (neg : Bool)
  | fin (m e : Int)
deriving DecidableEq, Repr

/-- A floating format: exponent and fraction widths, bias, and what its top exponent means: 0 IEEE (infinities and NaN),
1 E4M3 (one NaN pattern), 2 every pattern finite. -/
structure FpFmt where
  eb : Nat
  mb : Nat
  bias : Nat
  top : Nat
deriving DecidableEq, Repr

/-- The floating formats of the palette (R118, R119). -/
def fpFmt : Nat → Option FpFmt
  | 0 => some ⟨8, 23, 127, 0⟩
  | 1 => some ⟨8, 7, 127, 0⟩
  | 2 => some ⟨5, 10, 15, 0⟩
  | 3 => some ⟨5, 2, 15, 0⟩
  | 4 => some ⟨4, 3, 7, 1⟩
  | 5 => some ⟨3, 2, 3, 2⟩
  | 6 => some ⟨2, 3, 1, 2⟩
  | 7 => some ⟨2, 1, 1, 2⟩
  | _ => none

/-- Bits of an element of a format in storage. -/
def fmtBits : Nat → Nat
  | 0 => 32 | 1 => 16 | 2 => 16 | 3 => 8 | 4 => 8 | 5 => 8 | 6 => 8 | 7 => 4 | 8 => 8 | 9 => 4 | _ => 128

/-- Width of an integer format. -/
def intWidth (f : Nat) : Nat := if f = 9 then 4 else 8

/-- Exact decoding (R119, R120). -/
def FpFmt.decode (f : FpFmt) (v : Nat) : Elem :=
  let frac := bits v 0 f.mb
  let ex := bits v f.mb f.eb
  let neg := bit v (f.mb + f.eb)
  let top := 2 ^ f.eb - 1
  if f.top = 0 ∧ ex = top then (if frac = 0 then .inf neg else .nan)
  else if f.top = 1 ∧ ex = top ∧ frac = 2 ^ f.mb - 1 then .nan
  else
    let m := if ex = 0 then frac else frac + 2 ^ f.mb
    let e : Int := (if ex = 0 then 1 else (ex : Int)) - f.bias - f.mb
    .fin (if neg then -(m : Int) else m) e

/-- Decode an element of palette code `f` from its stored bits. -/
def decodeElem (f v : Nat) : Elem :=
  match fpFmt f with
  | some g => g.decode v
  | none => .fin (toSigned (intWidth f) v) 0

/-- A block scale's exponent; none for NaN (R121). -/
def scaleExp (b : Nat) : Option Int := if b = 0xFF then none else some ((b : Int) - 127)

/-! ### Contributions and slots (R123-R126) -/

/-- A contribution: an integer in units of 2^A and flag bits in the order of R123 from TRUNC. -/
structure Contrib where
  t : Int
  flags : Nat
deriving DecidableEq, Repr

/-- `floor(m * 2^k)`, and whether it is exact. -/
def floorShift (m k : Int) : Int × Bool :=
  if 0 ≤ k then (m * (2 ^ k.toNat : Nat), true)
  else
    let q := m / ((2 ^ (-k).toNat : Nat) : Int)
    (q, q * ((2 ^ (-k).toNat : Nat) : Int) == m)

/-- A finite product as a contribution (the last lines of R125). -/
def finContrib (m e A : Int) : Contrib :=
  let r := floorShift m (e - A)
  if (2 ^ 90 : Int) ≤ r.1 then ⟨0, 2⟩
  else if r.1 < -(2 ^ 90 : Int) ∨ (r.1 = -(2 ^ 90 : Int) ∧ r.2) then ⟨0, 4⟩
  else ⟨r.1, if r.2 then 0 else 1⟩

/-- R125. -/
def contribution (x w : Elem) (sx sw : Option Int) (A : Int) : Contrib :=
  match x, w, sx, sw with
  | .nan, _, _, _ => ⟨0, 8⟩
  | _, .nan, _, _ => ⟨0, 8⟩
  | _, _, none, _ => ⟨0, 8⟩
  | _, _, _, none => ⟨0, 8⟩
  | .inf a, .inf b, _, _ => if a = b then ⟨0, 16⟩ else ⟨0, 32⟩
  | .inf a, .fin m _, _, _ => if m = 0 then ⟨0, 8⟩ else if a = decide (m < 0) then ⟨0, 16⟩ else ⟨0, 32⟩
  | .fin m _, .inf a, _, _ => if m = 0 then ⟨0, 8⟩ else if a = decide (m < 0) then ⟨0, 16⟩ else ⟨0, 32⟩
  | .fin m e, .fin n f, some a, some b => finContrib (m * n) (e + f + a + b) A

/-- Fields of a slot (R123). -/
def slotVal (v : Nat) : Nat := v % 2 ^ 112
def slotFlags (v : Nat) : Nat := v / 2 ^ 112 % 64
def slotAnchor (v : Nat) : Int := toSigned 10 (v / 2 ^ 118)

/-- A slot from VALUE, flags and anchor. -/
def mkSlot (v flags : Nat) (A : Int) : Nat := v % 2 ^ 112 + flags % 64 * 2 ^ 112 + ofSigned 10 A * 2 ^ 118

/-- The anchored addition rule (R126). -/
def slotAdd (v : Nat) (c : Contrib) : Nat :=
  mkSlot (((slotVal v : Int) + c.t) % (2 ^ 112 : Int)).toNat (slotFlags v ||| c.flags) (slotAnchor v)

/-- Exponent of the least significant bit of a format under a default anchor (R124). -/
def lsbExp : Nat → Int
  | 3 => -16 | 4 => -9 | 5 => -4 | 6 => -3 | 7 => -1 | _ => 0

/-! ### Descriptor fields (R108) -/

/-- Field `[lo+w-1:lo]` of descriptor word `i`. -/
def dfld (d : BitVec 256) (i lo w : Nat) : Nat := bits d.toNat (32 * i + lo) w

def dStat (d : BitVec 256) : Nat := dfld d 0 0 21
def dStatFmt (d : BitVec 256) : Nat := dfld d 0 24 4
def dStrmFmt (d : BitVec 256) : Nat := dfld d 0 28 4
def dStrm (d : BitVec 256) : Nat := dfld d 1 0 21
def dStride (d : BitVec 256) : Nat := dfld d 2 0 16
def dM (d : BitVec 256) : Nat := dfld d 2 16 8
def dKp (d : BitVec 256) : Nat := dfld d 2 24 6
def dNp (d : BitVec 256) : Nat := dfld d 3 0 8
def dSlot (d : BitVec 256) : Nat := dfld d 3 8 7
def dOp (d : BitVec 256) : Nat := dfld d 3 16 2
def dInit (d : BitVec 256) : Nat := dfld d 3 18 2
def dRnd (d : BitVec 256) : Nat := dfld d 3 20 2
def dReplay (d : BitVec 256) : Bool := dfld d 3 22 1 == 1
def dOutFmt (d : BitVec 256) : Nat := dfld d 3 24 4
def dStatScaled (d : BitVec 256) : Bool := dfld d 3 28 1 == 1
def dStrmScaled (d : BitVec 256) : Bool := dfld d 3 29 1 == 1
def dOut (d : BitVec 256) : Nat := dfld d 4 0 21
def dOutStride (d : BitVec 256) : Nat := dfld d 5 0 16
def dAnchorDef (d : BitVec 256) : Bool := dfld d 5 26 1 == 1
def dScl (d : BitVec 256) : Nat := dfld d 6 0 21
def dBias (d : BitVec 256) : Nat := dfld d 6 21 2
def dXscl (d : BitVec 256) : Nat := dfld d 7 0 21

/-- OP 1 and 3 initialise, OP 2 and 3 drain (R97). -/
def dIsInit (d : BitVec 256) : Bool := dOp d == 1 || dOp d == 3
def dIsFinal (d : BitVec 256) : Bool := 2 ≤ dOp d

/-- Effective anchor (R99, R124). -/
def dAnchor (d : BitVec 256) : Int :=
  if dAnchorDef d then lsbExp (dStatFmt d) + lsbExp (dStrmFmt d) else toSigned 10 (dfld d 5 16 10)

/-- Width class of an input format: 8, 4 or 16; 0 for none (R79). -/
def wclass (f : Nat) : Nat :=
  if [3, 4, 5, 6, 8].contains f then 8 else if [7, 9].contains f then 4 else if [1, 2].contains f then 16 else 0

/-- Width class of a pass. -/
def dClass (d : BitVec 256) : Nat := wclass (dStatFmt d)

/-- K' maximum (R79). -/
def kMax (cls : Nat) : Nat := if cls = 4 then 32 else 16

/-- The slots a pass names. -/
def dSlots (d : BitVec 256) : List Nat := (List.range (dM d)).map fun m => dSlot d + m

/-! ### Elements of rows and blocks (R80) -/

def byteAt (l : List Byte) (i : Nat) : Nat := ((l[i]?).getD 0).toNat

/-- Stored bits of element k of a streamed row. -/
def rowBits (cls : Nat) (l : List Byte) (k : Nat) : Nat :=
  if cls = 16 then byteAt l (2 * k) + 256 * byteAt l (2 * k + 1)
  else if cls = 4 then (if k % 2 = 0 then byteAt l (k / 2) % 16 else byteAt l (k / 2) / 16)
  else byteAt l k

/-- Stored bits of stationary element (k, n) in a loaded block: W8 and W4 as the two halves in order, W16 as its two
load segments (columns 0-63, then 64-127), each 16 rows of 128 bytes. -/
def blockBits (cls : Nat) (l : List Byte) (k n : Nat) : Nat :=
  if cls = 16 then
    let i := n / 64 * 2048 + 128 * k + 2 * (n % 64)
    byteAt l i + 256 * byteAt l (i + 1)
  else if cls = 4 then
    let b := byteAt l (64 * k + n / 2)
    if n % 2 = 0 then b % 16 else b / 16
  else byteAt l (128 * k + n)

def strmElem (d : BitVec 256) (l : List Byte) (k : Nat) : Elem := decodeElem (dStrmFmt d) (rowBits (dClass d) l k)
def statElem (d : BitVec 256) (l : List Byte) (k n : Nat) : Elem := decodeElem (dStatFmt d) (blockBits (dClass d) l k n)

/-- Column scale of a pass (R121). -/
def statScale (d : BitVec 256) (scl : List Byte) (n : Nat) : Option Int :=
  if dStatScaled d then scaleExp (byteAt scl n) else some 0

/-- Row scale of a streamed row (R121). -/
def strmScale (d : BitVec 256) (b : Byte) : Option Int := if dStrmScaled d then scaleExp b.toNat else some 0

/-- Column n of a streamed row added into a slot (R125, R126). `foreign`: the slot starts from a raw value of another ANCHOR, so
nothing is summed into it (R126, log 47). -/
def accColumn (d : BitVec 256) (blk scl row : List Byte) (sx : Option Int) (n : Nat) (foreign : Bool) (v : Nat) : Nat :=
  if foreign then v
  else (List.range (dKp d)).foldl (fun a k =>
    slotAdd a (contribution (strmElem d row k) (statElem d blk k n) sx (statScale d scl n) (dAnchor d))) v

/-- A raw initial slot whose ANCHOR differs from the pass's effective anchor (R98). -/
def rawForeign (d : BitVec 256) (raw : Nat) : Bool := dIsInit d && dInit d == 2 && slotAnchor raw != dAnchor d

/-! ### Check columns (R136, R137) -/

/-- Term of a check value: `w * 2^sw` in units of 2^-144; 0 for an excluded term. -/
def checkTerm (w : Elem) (sw : Option Int) : Int :=
  match w, sw with
  | .fin m e, some b => (floorShift m (e + b + 144)).1
  | _, _ => 0

/-- C0_k and C1_k of a block (R136), in units of 2^-144. -/
def checkC0 (d : BitVec 256) (blk scl : List Byte) (k : Nat) : Int :=
  (List.range (dNp d)).foldl (fun (a : Int) (n : Nat) => a + checkTerm (statElem d blk k n) (statScale d scl n)) 0
def checkC1 (d : BitVec 256) (blk scl : List Byte) (k : Nat) : Int :=
  (List.range (dNp d)).foldl (fun (a : Int) (n : Nat) => a + ((n : Int) + 1) * checkTerm (statElem d blk k n) (statScale d scl n)) 0

/-- `floor(x * 2^sx * C / 2^A)` with whether it is exact (R137). -/
def checkAdd (x : Elem) (sx : Option Int) (c A : Int) : Int × Bool :=
  match x, sx with
  | .fin m e, some a => floorShift (m * c) (e + a - 144 - A)
  | _, _ => (0, true)

/-- Check slots after a streamed row. -/
def chkRow (d : BitVec 256) (c0 c1 : List Int) (row : List Byte) (sx : Option Int) (c : Chk) : Chk :=
  let s := (List.range (dKp d)).foldl (fun (a : Chk) k =>
    let r0 := checkAdd (strmElem d row k) sx ((c0[k]?).getD 0) (dAnchor d)
    let r1 := checkAdd (strmElem d row k) sx ((c1[k]?).getD 0) (dAnchor d)
    { a with c0 := a.c0 + BitVec.ofInt 112 r0.1, c1 := a.c1 + BitVec.ofInt 112 r1.1,
             trunc := a.trunc || !r0.2 || !r1.2 }) c
  { s with u := min (s.u + dKp d) (2 ^ 21 - 1) }

/-- Check slots of a group before its initial values: W is the pass's N', the sums follow column by column (R137). -/
def chkOpen (d : BitVec 256) (j : Nat) : Chk := { Chk.reset with w := dNp d, grp := j }

/-- The initial slot of column n enters the check slots (R137). -/
def chkInitCol (n v : Nat) (c : Chk) : Chk :=
  { c with c0 := c.c0 + BitVec.ofNat 112 (slotVal v), c1 := c.c1 + BitVec.ofNat 112 ((n + 1) * slotVal v),
           trunc := c.trunc || bit (slotFlags v) 0 }

/-! ### Initial values (R130) -/

/-- The initial slot of a column: zero, the bias as a contribution, or the raw slot; the anchor is the pass's. -/
def initSlot (d : BitVec 256) (bias raw : Nat) : Nat :=
  if dInit d = 1 then slotAdd (mkSlot 0 0 (dAnchor d)) (contribution (decodeElem 0 bias) (.fin 1 0) (some 0) (some 0) (dAnchor d))
  else if dInit d = 2 then mkSlot (slotVal raw) (slotFlags raw) (dAnchor d)
  else mkSlot 0 0 (dAnchor d)

/-! ### The check of a final row (R139, R140) -/

/-- How a row compares. -/
inductive ChkRes where
  | skip
  | pass (bound : Bool)
  | fail (bound : Bool) (d0 d1 : Int)
deriving DecidableEq, Repr

/-- R139 over the slots n < W of a row and its check slots. -/
def checkRow (data : List Nat) (c : Chk) : ChkRes :=
  let z := (data.take c.w).zipIdx
  let s0 := z.foldl (fun a p => a + slotVal p.1) 0
  let s1 := z.foldl (fun a p => a + (p.2 + 1) * slotVal p.1) 0
  let d0 := (BitVec.ofNat 112 s0 - c.c0).toInt
  let d1 := (BitVec.ofNat 112 s1 - c.c1).toInt
  let bound := c.trunc || z.any fun p => bit (slotFlags p.1) 0
  if z.any fun p => bit (slotFlags p.1) 1 || bit (slotFlags p.1) 2 then .skip
  else if bound then
    if -((c.u * c.w : Nat) : Int) ≤ d0 ∧ d0 ≤ c.u ∧ -((c.u * (c.w * (c.w + 1) / 2) : Nat) : Int) ≤ d1 ∧ d1 ≤ c.u then .pass true
    else .fail true d0 d1
  else if d0 = 0 ∧ d1 = 0 then .pass false
  else .fail false d0 d1

/-- COLUMN and KIND of a failed row (R140); KIND 5 is a failed bounded comparison. -/
def locate (bound : Bool) (d0 d1 : Int) (w : Nat) : Nat × Nat :=
  if bound then (0, 5)
  else if d0 = 0 then (0, 3)
  else if d1 = 0 then (0, 2)
  else if d1 % d0 = 0 ∧ 1 ≤ d1 / d0 ∧ d1 / d0 ≤ (w : Int) then ((d1 / d0 - 1).toNat, 1)
  else (0, 4)

/-! ### Convert and round (R131-R133) -/

/-- `|V| = a * 2^A` rounded to a multiple of 2^q: the significand in units of 2^q (R132). -/
def roundMag (a : Nat) (A q : Int) (rnd draw : Nat) : Nat :=
  if q ≤ A then a * 2 ^ (A - q).toNat
  else
    let n := a / 2 ^ (q - A).toNat
    let rem := a % 2 ^ (q - A).toNat
    let up :=
      if rnd = 1 then false
      else if rnd = 3 then decide (draw < rem * 65536 / 2 ^ (q - A).toNat)
      else decide (2 ^ (q - A).toNat < 2 * rem) || (2 * rem == 2 ^ (q - A).toNat && n % 2 == 1)
    if up then n + 1 else n

/-- Whether `n * 2^q` lies above `m * 2^e`. -/
def aboveMag (n : Nat) (q : Int) (m : Nat) (e : Int) : Bool :=
  if e ≤ q then decide (m < n * 2 ^ (q - e).toNat) else decide (m * 2 ^ (e - q).toNat < n)

/-- Encodings of a floating format: greatest finite magnitude as (significand, exponent of its unit) and as bits, the
infinity or what stands for it, and NaN (R119, R133). -/
def FpFmt.maxSig (f : FpFmt) : Nat := if f.top = 1 then 2 ^ (f.mb + 1) - 2 else 2 ^ (f.mb + 1) - 1
def FpFmt.emax (f : FpFmt) : Int := if f.top = 0 then f.bias else (2 ^ f.eb - 1 : Int) - f.bias
def FpFmt.maxBits (f : FpFmt) : Nat :=
  if f.top = 0 then (2 ^ f.eb - 1) * 2 ^ f.mb - 1 else if f.top = 1 then 2 ^ (f.mb + f.eb) - 2 else 2 ^ (f.mb + f.eb) - 1
def FpFmt.infBits (f : FpFmt) : Nat := (2 ^ f.eb - 1) * 2 ^ f.mb
def FpFmt.nanBits (f : FpFmt) : Nat :=
  if f.top = 0 then f.infBits + 2 ^ (f.mb - 1) else if f.top = 1 then 2 ^ (f.mb + f.eb) - 1 else f.maxBits
def FpFmt.signBit (f : FpFmt) (neg : Bool) : Nat := if neg then 2 ^ (f.mb + f.eb) else 0

/-- Bits of the magnitude `n * 2^q`, representable in the format. -/
def FpFmt.encodeMag (f : FpFmt) (n : Nat) (q : Int) : Nat :=
  if n = 0 then 0
  else
    let e : Int := (Nat.log2 n : Int) + q
    let emin : Int := 1 - (f.bias : Int)
    if e < emin then n * 2 ^ (q - (emin - f.mb)).toNat / 2 ^ ((emin - f.mb) - q).toNat
    else
      let u := e - f.mb
      (e + f.bias).toNat * 2 ^ f.mb + (n * 2 ^ (q - u).toNat / 2 ^ (u - q).toNat - 2 ^ f.mb)

/-- An element as converted: its bits, and whether it counts as NaN or as overflow or infinity (MXE_ARITH_CNT). -/
structure Conv where
  v : Nat
  nan : Bool
  ovf : Bool
deriving DecidableEq, Repr

/-- Overflow of a sign (R133). -/
def FpFmt.overflow (f : FpFmt) (neg : Bool) (rnd : Nat) : Nat :=
  if rnd = 0 then (if f.top = 0 then f.infBits + f.signBit neg else if f.top = 1 then f.nanBits else f.maxBits + f.signBit neg)
  else f.maxBits + f.signBit neg

/-- Infinity of a sign (R133). -/
def FpFmt.infinity (f : FpFmt) (neg : Bool) (rnd : Nat) : Nat :=
  if f.top = 0 then (if rnd = 2 then f.maxBits + f.signBit neg else f.infBits + f.signBit neg)
  else if f.top = 1 then (if rnd = 0 then f.nanBits else f.maxBits + f.signBit neg)
  else f.maxBits + f.signBit neg

/-- A finite value in a floating format (R132). -/
def FpFmt.convert (f : FpFmt) (neg : Bool) (a : Nat) (A : Int) (rnd draw : Nat) : Conv :=
  if a = 0 then ⟨0, false, false⟩
  else
    let q := max ((Nat.log2 a : Int) + A - f.mb) (1 - (f.bias : Int) - f.mb)
    let n := roundMag a A q rnd draw
    if aboveMag n q f.maxSig (f.emax - f.mb) then ⟨f.overflow neg rnd, false, true⟩
    else ⟨f.encodeMag n q + f.signBit neg, false, false⟩

/-- A finite value in an integer format of width w: overflow gives the bound of its sign (R133). -/
def convertInt (w : Nat) (neg : Bool) (a : Nat) (A : Int) (rnd draw : Nat) : Conv :=
  let n := roundMag a A 0 rnd draw
  if neg then (if 2 ^ (w - 1) < n then ⟨2 ^ (w - 1), false, true⟩ else ⟨ofSigned w (-(n : Int)), false, false⟩)
  else if 2 ^ (w - 1) - 1 < n then ⟨2 ^ (w - 1) - 1, false, true⟩
  else ⟨n, false, false⟩

/-- What a slot reads as (R131). -/
inductive SlotRead where
  | nan
  | inf (neg : Bool)
  | over (neg : Bool)
  | fin (v : Int)
deriving DecidableEq, Repr

/-- The order of precedence of R131. -/
def readSlot (v : Nat) : SlotRead :=
  let f := slotFlags v
  if bit f 3 ∨ (bit f 4 ∧ bit f 5) then .nan
  else if bit f 4 then .inf false
  else if bit f 5 then .inf true
  else if bit f 1 ∧ bit f 2 then .nan
  else if bit f 1 then .over false
  else if bit f 2 then .over true
  else .fin (toSigned 112 (slotVal v))

/-- A slot converted to OUT_FMT under RND with its draw (R131-R133); raw slots are written unchanged. -/
def convertSlot (fmt rnd v draw : Nat) : Conv :=
  if fmt = 0xF then ⟨v, false, false⟩
  else match fpFmt fmt, readSlot v with
    | some f, .nan => ⟨f.nanBits, true, false⟩
    | some f, .inf neg => ⟨f.infinity neg rnd, false, true⟩
    | some f, .over neg => ⟨f.overflow neg rnd, false, true⟩
    | some f, .fin x => f.convert (decide (x < 0)) x.natAbs (slotAnchor v) rnd draw
    | none, .nan => ⟨2 ^ (intWidth fmt - 1) - 1, true, false⟩
    | none, .inf neg => ⟨if neg then 2 ^ (intWidth fmt - 1) else 2 ^ (intWidth fmt - 1) - 1, false, true⟩
    | none, .over neg => ⟨if neg then 2 ^ (intWidth fmt - 1) else 2 ^ (intWidth fmt - 1) - 1, false, true⟩
    | none, .fin x => convertInt (intWidth fmt) (decide (x < 0)) x.natAbs (slotAnchor v) rnd draw

/-- Elements of a width packed into bytes, the even column of a 4-bit format in the low nibble (R103, R133). -/
def packElems (w : Nat) : List Nat → List Byte
  | [] => []
  | [a] => if w = 4 then [BitVec.ofNat 8 a] else toLe (w / 8) a
  | a :: b :: t =>
    if w = 4 then BitVec.ofNat 8 (a + 16 * b) :: packElems w t else toLe (w / 8) a ++ packElems w (b :: t)

/-! ### The stochastic-rounding generator (R134) -/

/-- One step of the xorshift generator. -/
def next64 (s : DWord) : DWord :=
  let a := s ^^^ (s <<< 13)
  let b := a ^^^ (a >>> 7)
  b ^^^ (b <<< 17)

/-- Seed of pass j. -/
def rngSeed (seed : DWord) (j : Nat) : DWord :=
  let s := seed ^^^ (BitVec.ofNat 64 j * 0x9E3779B97F4A7C15)
  if s = 0 then 0x9E3779B97F4A7C15 else s

/-- The n-th draw of a pass: a new word every four draws. -/
def drawOf (rng : DWord) (n : Nat) : DWord × Nat :=
  let r := if n % 4 = 0 then next64 rng else rng
  (r, bits r.toNat (16 * (n % 4)) 16)

end Sys2Proof.Machine
end

