-- ==== Sys2Proof/Machine/Mxe.lean ====
section
/-! DEFINITION. The matrix engine of a cell (R78-R149): descriptor checks and the command queue, easel loads, feeder fetch,
swap waves, streamed rows, freezes, the check of final rows, conversion, drain, replay, ballast and the flush. An event of
the array acts when its condition holds and leaves the engine unchanged when it does not (log 6); what happens at the end of every
delivered cycle (accumulation, conversion, the freeze count, a flush) is `mxeCycle`, which the clock calls. -/

namespace Sys2Proof.Machine

/-- Rows per segment plan: a W16 block has two load segments, every other and a cleared block one (R88, R112). -/
def segNeed (d : BitVec 256) : Nat := if dClass d = 16 ∧ dKp d ≠ 0 then 2 else 1

/-- Whether a pass fetches through the feeders (R91, R112). -/
def needsFeed (d : BitVec 256) : Bool := 0 < dKp d || (dIsInit d && dInit d == 2)

/-- The parts of scratchpad a load segment reads, as (offset, length) (R80, R88). -/
def segRanges (d : BitVec 256) (seg : Nat) : List (Nat × Nat) :=
  if dKp d = 0 then []
  else if dClass d = 16 then
    (List.range 16).map fun k => (dStat d + k / 8 * 0x30000 + 256 * (k % 8) + 128 * seg, 128)
  else [(dStat d, 1024), (dStat d + 0x30000, 1024)]

/-- Bytes of a streamed row (R79). -/
def rowLen (d : BitVec 256) : Nat := if dClass d = 16 then 32 else 16

/-- Offset of streamed row m (R80). -/
def rowOff (d : BitVec 256) (m : Nat) : Nat := dStrm d + 16 * dStride d * m

/-- Bytes of an output row (R103). -/
def outLen (d : BitVec 256) : Nat := (dNp d * fmtBits (dOutFmt d) + 7) / 8

/-! ### Descriptor checks (R109) -/

/-- The reserved fields of R108 are zero. -/
def descReservedZero (d : BitVec 256) : Bool :=
  dfld d 0 21 3 == 0 && dfld d 1 21 11 == 0 && dfld d 2 30 2 == 0 && dfld d 3 15 1 == 0 && dfld d 3 23 1 == 0 &&
    dfld d 3 30 2 == 0 && dfld d 4 21 11 == 0 && dfld d 5 27 5 == 0 && dfld d 6 23 9 == 0 && dfld d 7 21 11 == 0

/-- REASON 7, stationary block. -/
def statBad (d : BitVec 256) : Bool :=
  let half := if dClass d = 16 then 2048 else 1024
  dKp d != 0 && (dStat d % 64 != 0 || dStat d / 0x30000 % 2 != 0 || decide (0x30000 < dStat d % 0x30000 + half) ||
    decide (0x170000 < dStat d + 0x30000 + half))

/-- REASON 7, streamed rows. -/
def strmBad (d : BitVec 256) : Bool :=
  dKp d != 0 && (dStrm d % rowLen d != 0 || (dClass d == 16 && dStride d % 2 == 1) ||
    decide (0x170000 < rowOff d (dM d - 1) + rowLen d))

/-- REASON 7, output rows. The last byte of a row is that of its last active column (DESIGN CHOICE, log 47). -/
def outBad (d : BitVec 256) : Bool :=
  dIsFinal d && (dOut d % 64 != 0 || decide (0x170000 < dOut d + 64 * dOutStride d * (dM d - 1) + outLen d))

/-- REASON 7, scale bytes and raw rows. -/
def sclBad (d : BitVec 256) : Bool :=
  (dStatScaled d && dKp d != 0 && (dScl d % 64 != 0 || decide (0x170000 < dScl d + 128))) ||
    (if dInit d = 2 then dXscl d % 64 != 0 || decide (0x170000 < dXscl d + 2048 * dM d)
     else dStrmScaled d && dKp d != 0 && decide (0x170000 < dXscl d + dM d))

/-- REASON 11: a slot of an OP 0 or OP 2 pass is not initialised or has another anchor (R99). -/
def slotsBad (info : SMap SlotMeta) (d : BitVec 256) : Bool :=
  !dIsInit d && (dSlots d).any fun s =>
    let x := SMap.get info s SlotMeta.reset
    !x.inited || x.anchor != dAnchor d

/-- Both formats lie in one width class (R79). -/
def oneClass (d : BitVec 256) : Bool := wclass (dStatFmt d) != 0 && wclass (dStatFmt d) == wclass (dStrmFmt d)

/-- REASON of a descriptor, the lowest that applies; 0 for a valid one (R109). -/
def descReason (info : SMap SlotMeta) (d : BitVec 256) : Nat :=
  let scaled := dStatScaled d || dStrmScaled d
  if dM d = 0 ∨ 128 < dM d then 1
  else if 128 < dSlot d + dM d then 2
  else if oneClass d ∧ kMax (dClass d) < dKp d then 3
  else if dNp d = 0 ∨ 128 < dNp d then 4
  else if !oneClass d then 5
  else if 0xA ≤ dOutFmt d ∧ dOutFmt d ≤ 0xE then 6
  else if statBad d || strmBad d || outBad d || sclBad d then 7
  else if !descReservedZero d || dInit d == 3 || (dInit d != 0 && !dIsInit d) || (dInit d == 2 && dStrmScaled d) then 8
  else if dAnchorDef d ∧ (scaled ∨ dClass d = 16) then 9
  else if scaled ∧ (dClass d = 16 ∨ dStatFmt d = 9 ∨ dStrmFmt d = 9) then 10
  else if slotsBad info d then 11
  else 0

/-! ### Journal (R142, R143) -/

/-- Slots named by a pass take their state of R99 and R142 from it. -/
def acceptInfo (info : SMap SlotMeta) (d : BitVec 256) (j : Nat) (keeps : Bool) : SMap SlotMeta :=
  (dSlots d).foldl (fun a s =>
    let x := SMap.get a s SlotMeta.reset
    let y : SlotMeta := if dIsInit d then { inited := true, anchor := dAnchor d, replayable := keeps, initBy := j, namedBy := j }
      else { x with replayable := x.replayable && keeps, namedBy := j }
    SMap.put a s y) info

/-- Some final row whose history holds the entry has not passed its check. -/
def histPending (m : Mxe) (e : JEnt) : Bool :=
  let hit := fun (s init j : Nat) => (dSlots e.desc).contains s && decide (init ≤ e.j) && decide (e.j ≤ j)
  (m.queue.any fun p => dIsFinal p.desc && (List.range (dM p.desc)).any fun i =>
    decide (p.rows ≤ i) && hit (dSlot p.desc + i) ((p.inits[i]?).getD 0) p.j) ||
  (m.flight.any fun f => dIsFinal f.desc && hit f.slot f.init f.j) || (m.finals.any fun r => hit r.slot r.init r.j) ||
  (m.lost.any fun r => hit r.1 r.2.1 r.2.2) || (match m.replay with | some r => hit r.slot r.init r.j | none => false)

/-- Whether a journal entry has retired. -/
def retired (m : Mxe) (e : JEnt) : Bool :=
  (dSlots e.desc).all (fun s => decide (e.j < (SMap.get m.info s SlotMeta.reset).initBy)) && !histPending m e

/-- Retired entries leave from the oldest end. -/
def retire (m : Mxe) : Mxe := { m with journal := m.journal.dropWhile (retired m) }

/-- The journal is cleared and every slot marked not replayable. -/
def clearJournal (m : Mxe) : Mxe :=
  { m with journal := [], epoch := m.epoch + 1, info := m.info.map fun p => (p.1, { p.2 with replayable := false }) }

/-! ### Array timing -/

/-- Wave entry S of pass j, when it has started (R83). -/
def startOf (m : Mxe) (j : Nat) : Option Nat := (m.starts.find? fun x => x.1 == j).map fun x => x.2.1

/-- Whether the columns of a segment of pass j are free (R87). -/
def colsFree (m : Mxe) (d : BitVec 256) (j seg t : Nat) : Bool :=
  j < 4 || (match startOf m (j - 3) with
    | some S => S + (if segNeed d = 2 ∧ seg = 0 then 80 else 144) ≤ t
    | none => false)

/-- Pass j - 1 has presented all its rows (R84): its r*M cycles have passed, and no row of an earlier pass is late, that is due before
array cycle t and not presented yet. `due` is the array cycle of a pass's next row. -/
def prevDone (m : Mxe) (t : Nat) (due : Pass → Nat → Nat) : Bool :=
  (match m.starts with | [] => true | x :: _ => decide (x.2.1 + x.2.2 ≤ t)) &&
    m.queue.all fun p => (match p.start with | none => true | some S => decide (dM p.desc ≤ p.rows ∨ t ≤ due p S))

/-- The next pass to start. -/
def nextPass (m : Mxe) : Option Pass := m.queue.find? fun p => p.start.isNone

/-- The pass whose rows are being presented. -/
def streamPass (m : Mxe) : Option Pass := m.queue.find? fun p => p.start.isSome && decide (p.rows < dM p.desc)

/-- The feeder of a pass's next row holds none in cycle `cyc`, though the pass uses it (R91). A fetched line reaches the feeders in the
third cycle counted from its issue (R85, R95). -/
def feedEmpty (m : Mxe) (p : Pass) (cyc : Nat) : Bool :=
  needsFeed p.desc && (match m.feeder with | [] => true | f :: _ => f.j != p.j || decide (cyc < f.arr))

/-- No pass starts and no row is presented any more: an access was refused in an earlier cycle (R113). -/
def stoppedAt (m : Mxe) (cyc : Nat) : Bool := match m.stopFrom with | some b => decide (b ≤ cyc) | none => false

/-- The pack stage holds a row ready to enter a drain queue that was full at the start of cycle `cyc` (R91). A converted row stands in
`drain` from its convert cycle on and enters the queue at the end of array cycle `enter`. -/
def drainFull (m : Mxe) (t cyc : Nat) : Bool :=
  m.drain.any (fun r => r.enter == t) &&
    decide (16 ≤ (m.drain.countP fun r => decide (r.enter < t)) + (if m.drainFreed = cyc + 1 then 1 else 0))

/-- An active feeder is due and empty in array cycle t (R91). `due` is the array cycle of the streaming pass's next row. -/
def feederDry (m : Mxe) (t cyc : Nat) (due : Pass → Nat → Nat) : Bool :=
  match streamPass m with
  | some p => (match p.start with | some S => decide (due p S ≤ t) | none => false) && m.streamAt != cyc + 1 && feedEmpty m p cyc
  | none => false

/-- Physical rows of a pass with a feeder of their own: those within K', or feeder row 0 for raw rows alone (R82, R91). -/
def feedRows (d : BitVec 256) : Nat := if dKp d = 0 then 1 else if dClass d = 4 then (dKp d + 1) / 2 else dKp d

def modPass (m : Mxe) (j : Nat) (f : Pass → Pass) : Mxe := { m with queue := m.queue.map fun p => if p.j = j then f p else p }

/-- The easel of a pass (R86). -/
def easelOf (m : Mxe) (j : Nat) : Easel := (m.easels[j % 4]?).getD Easel.free
def setEasel (m : Mxe) (j : Nat) (e : Easel) : Mxe := { m with easels := m.easels.set (j % 4) e }

/-- MXE_CHK_LAST (R147). -/
def chkLast (loc : Nat × Nat) (outcome slot j : Nat) : Nat :=
  loc.1 + loc.2 * 2 ^ 8 + outcome * 2 ^ 11 + slot * 2 ^ 13 + j % 2 ^ 12 * 2 ^ 20

/-- What an MXE read returned: the state after it, the bytes, and false where the scratchpad refused it or a word was
consumed. -/
structure MxeRead where
  s : State
  bytes : List Byte
  ok : Bool
  refused : Bool

namespace State

/-- The array cycle that stands at the start of the present cycle: delivered cycles less the frozen ones before it. -/
def arrayTime (s : State) (c : Nat) : Nat :=
  (s.cell c).cyc - ((s.mxe c).frozen - (if (s.mxe c).judged = (s.cell c).cyc + 1 then 1 else 0))

/-- Row interval r (R79). -/
def rowInterval (s : State) (d : BitVec 256) : Nat :=
  if dClass d = 16 then 2 else if dClass d = 4 then (if s.fld (ecKey LIC_STAT) 1 1 = 1 then 1 else 2) else 1

/-- The array cycle in which a started pass presents its next row: element k of row m stands in cell (k, 0) in cycle S + r*m + k + 1
(R83, R85, R95). -/
def rowDueAt (s : State) (p : Pass) (S : Nat) : Nat := S + s.rowInterval p.desc * p.rows + 1

/-- An MXE access the scratchpad refuses (R113): the scratchpad logs it, and from the next cycle no pass starts and no row is
presented. -/
def mxeRefuse (s : State) (c off port : Nat) (cr : Nat × Nat) : State :=
  let s1 := (s.raise cr.1 (.cell c 0) (cr.2 + port * 2 ^ 8 + s.gaOf c off * 2 ^ 16) (some c)).setErrLast c off port 0
  let m := s1.mxe c
  s1.setMxe c { m with stopFrom := if m.stopFrom.isSome then m.stopFrom else some ((s1.cell c).cyc + 1) }

/-- The MXE consumes a poisoned word (R114). -/
def mxeConsume (s : State) (c off port : Nat) : State :=
  let s1 := s.raiseAt 0x12 c (off + port * 2 ^ 21)
  s1.setMxe c { s1.mxe c with noDrain := true }

/-- One word of a line; a consumed word's data is a free value (log 3). -/
def mxeWord (r : MxeRead) (c port off : Nat) : MxeRead :=
  match r.s.readWord c off port with
  | (t, .word w) => { r with s := t, bytes := r.bytes ++ toLe 8 w }
  | (t, .lost ..) =>
    { s := (t.mxeConsume c off port).fresh, bytes := r.bytes ++ toLe 8 (Config.freeWord t.free).toNat, ok := false,
      refused := r.refused }

/-- One line of `n` bytes: 64 through a feeder, 128 through a stationary port (R81). A refused line ends the read. -/
def mxeLine (r : MxeRead) (c port n off : Nat) : MxeRead :=
  if r.refused then r
  else match r.s.spmCheck c off port false with
    | some cr => { s := r.s.mxeRefuse c off port cr, bytes := r.bytes, ok := false, refused := true }
    | none => (List.range (n / 8)).foldl (fun a i => mxeWord a c port (off + 8 * i)) { r with s := r.s.act c 1 1 }

/-- The feeder lines that hold the bytes [off, off + n). -/
def feedLines (off n : Nat) : List Nat := (List.range ((off + n - 1) / 64 - off / 64 + 1)).map fun i => (off / 64 + i) * 64

/-- The bytes [off, off + n), read by whole feeder lines (R81). -/
def feedRange (r : MxeRead) (c off n : Nat) : MxeRead :=
  let q := (feedLines off n).foldl (fun a o => mxeLine a c 1 64 o) { r with bytes := [] }
  { q with bytes := r.bytes ++ (q.bytes.drop (off % 64)).take n }

/-- Several runs of bytes through the feeders, joined. -/
def feedRanges (s : State) (c : Nat) (rs : List (Nat × Nat)) : MxeRead :=
  rs.foldl (fun a p => feedRange a c p.1 p.2) { s := s, bytes := [], ok := true, refused := false }

/-- Several runs of whole 128-byte lines through the stationary ports, joined (R81). -/
def statRanges (s : State) (c : Nat) (rs : List (Nat × Nat)) : MxeRead :=
  rs.foldl (fun a p => (List.range (p.2 / 128)).foldl (fun a i => mxeLine a c 2 128 (p.1 + 128 * i)) a)
    { s := s, bytes := [], ok := true, refused := false }

/-! ### Push (R99, R107-R110, R142) -/

/-- The staged descriptor, as held at the start of the cycle (R111). -/
def staged (s : State) (c : Nat) : BitVec 256 :=
  BitVec.ofNat 256 (ofLe ((List.range 8).flatMap fun i => toLe 4 (s.regStart (cellKey c (MXE_DESC + 4 * i))).toNat))

/-- A push cancels a pattern load in progress (R106); a refused push takes effect in nothing, so only an accepted one does
(DESIGN CHOICE, log 47). -/
def cancelPattern (m : Mxe) (cyc : Nat) : Mxe :=
  { m with easels := m.easels.map fun e => match e.pattern with
      | some b => if cyc < b + 12 then Easel.free else e
      | none => e }

/-- An accepted descriptor. -/
def mxeAccept (s : State) (c : Nat) (d : BitVec 256) : State :=
  let m := cancelPattern (s.mxe c) (s.cell c).cyc
  let j := m.seq
  let keeps := dReplay d && s.fld (cellKey c MXE_RPL_CTRL) 0 1 == 1
  let m1 := { m with info := acceptInfo m.info d j keeps, seq := j + 1 }
  let p : Pass :=
    { desc := d, j := j, pushed := (s.cell c).cyc, segs := 0, seg := none, beats := 0, ready := false, start := none, rows := 0, fetched := 0,
      scl := [], xscl := [], raw := [], pre := [], lastOut := false,
      replayOk := (dSlots d).filter fun x => (SMap.get m1.info x SlotMeta.reset).replayable,
      inits := (dSlots d).map fun x => (SMap.get m1.info x SlotMeta.reset).initBy, epoch := m.epoch }
  let m2 := retire { m1 with queue := m1.queue ++ [p] }
  if keeps ∧ 512 ≤ m2.journal.length then
    let m3 := clearJournal m2
    let info := if dIsInit d then acceptInfo m3.info d j true else m3.info
    let q : Pass := { p with epoch := m3.epoch, replayOk := if dIsInit d then dSlots d else [] }
    let m4 := { m3 with journal := [⟨d, j⟩], info := info, queue := m1.queue ++ [q] }
    (s.setMxe c m4).incSatUn (cellKey c MXE_RPL_STAT) 16 8 1
  else s.setMxe c { m2 with journal := if keeps then m2.journal ++ [⟨d, j⟩] else m2.journal }

/-- MXE_ERR_DESC of a refusal (R116). -/
def errDesc (s : State) (c r : Nat) : Nat := r + (s.mxe c).seq % 2 ^ 24 * 2 ^ 8

/-- Queue entries at the start of the cycle: those released in it still count (R110). An entry that an earlier push of the same cycle took
counts as well, so of two pushes with 7 entries the second is refused (DESIGN CHOICE, log 47). -/
def queueAtStart (s : State) (c : Nat) : Nat :=
  (s.mxe c).queue.length + (if (s.mxe c).freed.1 = (s.cell c).cyc + 1 then (s.mxe c).freed.2 else 0)

/-- A push is refused: recorded at the end of the cycle, since a flush of the same cycle discards it without a record (R111). -/
def pushRefuse (s : State) (c cls detail : Nat) : State :=
  s.setMxe c { s.mxe c with pushFails := (s.mxe c).pushFails ++ [⟨cls, detail⟩] }

/-- A push of the staged descriptor; one that meets a flush of the same cycle is discarded without a record (R111). A push is checked
and accepted while the cell is held as well (DESIGN CHOICE, log 47). -/
def mxePush (s : State) (c : Nat) : State :=
  let d := s.staged c
  let r := descReason (s.mxe c).info d
  if (s.mxe c).flushDue then s
  else if 8 ≤ s.queueAtStart c then s.pushRefuse c 0x11 0
  else if r ≠ 0 then s.pushRefuse c 0x10 (s.errDesc c r)
  else s.mxeAccept c d

/-- A refused push gets its record, 0x10 with MXE_ERR_DESC (R109, R110). -/
def pushRecord (s : State) (c : Nat) (f : PushFail) : State :=
  (if f.cls = 0x10 then s.setReg (cellKey c MXE_ERR_DESC) (BitVec.ofNat 64 f.detail) else s).raiseAt f.cls c f.detail

/-- The refused pushes of the cycle that ends. -/
def pushRecords (s : State) (c : Nat) : State :=
  (s.mxe c).pushFails.foldl (fun t f => t.pushRecord c f) (s.setMxe c { s.mxe c with pushFails := [] })

/-! ### Easels (R86-R88, R136) -/

/-- The lines of beat i of a load segment, one from each bank of the pair (R80, R81, R88). -/
def beatLines (d : BitVec 256) (seg i : Nat) : Nat × Nat :=
  let a := dStat d + (if dClass d = 16 then 256 * i + 128 * seg else 128 * i)
  (a, a + 0x30000)

/-- One stationary line of 128 bytes; one that is refused delivers nothing that is used (R113). -/
def beatLine (s : State) (c off : Nat) : MxeRead :=
  let r := mxeLine { s := s, bytes := [], ok := true, refused := false } c 2 128 off
  { r with bytes := r.bytes ++ List.replicate (128 - r.bytes.length) 0 }

/-- The next beat of the segment in progress: one line per bank in each cycle, also in a frozen one (R81, R88, R92); with the eighth the
segment joins the easel's block. A cleared block reads nothing (R112). -/
def loadBeat (s : State) (c : Nat) : State :=
  let cyc := (s.cell c).cyc
  match (s.mxe c).queue.find? fun p => match p.seg with | some b => decide (p.beats < 8 ∧ b + p.beats ≤ cyc) | none => false with
  | none => s
  | some p =>
    let e := easelOf (s.mxe c) p.j
    let q := beatLines p.desc (p.segs - 1) p.beats
    let a := if dKp p.desc = 0 then { s := s, bytes := [], ok := true, refused := false } else s.beatLine c q.1
    let b := if dKp p.desc = 0 then a else a.s.beatLine c q.2
    let h := (e.half.1 ++ a.bytes, e.half.2 ++ b.bytes)
    let e' : Easel := if p.beats = 7 then { e with block := e.block ++ h.1 ++ h.2, half := ([], []) } else { e with half := h }
    b.s.setMxe c (modPass (setEasel (b.s.mxe c) p.j e') p.j fun q => { q with beats := p.beats + 1 })

/-- The loader takes the next segment in pass order when it is idle and the segment's columns are free, from the cycle after the
push on (R85): this cycle is its first beat. -/
def loadSegment (s : State) (c : Nat) : State :=
  let m := s.mxe c
  let cyc := (s.cell c).cyc
  match m.queue.find? fun p => p.segs < segNeed p.desc with
  | none => s
  | some p =>
    if !s.runs c ∨ cyc ≤ p.pushed ∨ ¬ (m.queue.all fun q => match q.seg with | none => true | some b => b + 8 ≤ cyc) ∨
        ¬ colsFree m p.desc p.j p.segs (s.arrayTime c) then s
    else
      let e' : Easel := { Easel.free with owner := some p.j, block := if p.segs = 0 then [] else (easelOf m p.j).block }
      s.setMxe c (modPass (setEasel m p.j e') p.j fun q => { q with segs := q.segs + 1, seg := some cyc, beats := 0 })

/-- The check values of a pass's block (R136). -/
def formSums (m : Mxe) (p : Pass) : Mxe :=
  let e := easelOf m p.j
  setEasel m p.j { e with c0 := (List.range (dKp p.desc)).map (checkC0 p.desc e.block p.scl),
                          c1 := (List.range (dKp p.desc)).map (checkC1 p.desc e.block p.scl) }

/-- The sums have settled: 12 cycles after the last segment's first beat the easel is ready. -/
def easelReady (s : State) (c : Nat) : State :=
  let m := s.mxe c
  match m.queue.find? fun p => !p.ready with
  | none => s
  | some p =>
    match p.seg with
    | some b =>
      if s.runs c ∧ p.segs = segNeed p.desc ∧ p.beats = 8 ∧ b + 12 ≤ (s.cell c).cyc then
        s.setMxe c (modPass (formSums m p) p.j fun q => { q with ready := true })
      else s
    | none => s

/-! ### Feeder fetch (R80, R81, R98, R112) -/

/-- How many rows from row m of a pass lie in one line, up to `n`. -/
def rowsInLine (d : BitVec 256) (m n : Nat) : Nat :=
  ((List.range n).takeWhile fun i => rowOff d (m + i) / 64 == rowOff d m / 64).length

/-- Rows that one streamed line gives a pass: all of its rows that the line holds, at most the 64 a feeder queue has room for. -/
def lineRows (d : BitVec 256) (m : Nat) : Nat := rowsInLine d m (min (dM d - m) 64)

/-- The 128 slots of a raw row. -/
def rawSlots (bs : List Byte) : List (BitVec 128) :=
  if bs = [] then [] else (List.range 128).map fun n => BitVec.ofNat 128 (ofLe ((bs.drop (16 * n)).take 16))

/-- The state of pass `p` and of the feeder after a fetched line, with the cycle noted: one line per cycle (R81). -/
def fetchNote (s : State) (c : Nat) (p : Pass) (rows : List FRow) : State :=
  let m := s.mxe c
  s.setMxe c (modPass { m with feeder := m.feeder ++ rows, fetchAt := (s.cell c).cyc + 1 } p.j fun _ => p)

/-- The line that holds the next stationary scale bytes of a pass (R108): two lines before its first row. -/
def fetchScales (s : State) (c : Nat) (p : Pass) : State :=
  let r := mxeLine { s := s, bytes := [], ok := true, refused := false } c 1 64 (dScl p.desc + p.scl.length)
  let q := { p with scl := p.scl ++ r.bytes ++ List.replicate (64 - r.bytes.length) 0 }
  let t := r.s.fetchNote c q []
  if p.ready then t.setMxe c (formSums (t.mxe c) q) else t

/-- The line that holds the next streamed scale bytes of a pass. -/
def fetchRowScales (s : State) (c : Nat) (p : Pass) : State :=
  let off := dXscl p.desc + p.xscl.length
  let r := mxeLine { s := s, bytes := [], ok := true, refused := false } c 1 64 (off / 64 * 64)
  let bs := (r.bytes ++ List.replicate (64 - r.bytes.length) 0).drop (off % 64)
  r.s.fetchNote c { p with xscl := p.xscl ++ bs } []

/-- Row `m` of pass `p` as the feeders hold it. -/
def feedRow (s : State) (c : Nat) (p : Pass) (m : Nat) (bs : List Byte) (raw : List (BitVec 128)) : FRow :=
  { j := p.j, m := m, arr := (s.cell c).cyc + 3, bytes := bs, scale := (p.xscl[m]?).getD 0, raw := raw }

/-- The rows of one streamed line, cut out of its bytes. -/
def lineCut (d : BitVec 256) (m n : Nat) (bs : List Byte) : List (List Byte) :=
  (List.range n).map fun i => (bs.drop (rowOff d (m + i) % 64)).take (rowLen d)

/-- The streamed line of the pass's next rows, each row of which it holds at once. -/
def fetchRows (s : State) (c : Nat) (p : Pass) : State :=
  let d := p.desc
  let n := lineRows d p.fetched
  let r := mxeLine { s := s, bytes := [], ok := true, refused := false } c 1 64 (rowOff d p.fetched / 64 * 64)
  let rows := (lineCut d p.fetched n r.bytes).zipIdx.map fun q => r.s.feedRow c p (p.fetched + q.2) q.1 []
  r.s.fetchNote c { p with fetched := p.fetched + n } rows

/-- A raw row is complete: it joins the feeders with its streamed row. One whose anchor differs from the pass's in an active column is
logged (R98; the columns a pass masks are not compared: DESIGN CHOICE, log 47). -/
def rawDone (s : State) (c : Nat) (p : Pass) : State :=
  let d := p.desc
  let rs := rawSlots p.raw
  let q := { p with raw := [], pre := p.pre.drop 1, fetched := p.fetched + 1 }
  let t := s.fetchNote c q [s.feedRow c p p.fetched ((p.pre.head?).getD []) rs]
  if (rs.take (dNp d)).any fun v => slotAnchor v.toNat != dAnchor d then t.raiseAt 0x14 c 0 else t

/-- The next line of a pass with raw rows: one of the 32 of the row in progress, or the streamed line of the next rows. -/
def fetchRaw (s : State) (c : Nat) (p : Pass) : State :=
  let d := p.desc
  if dKp d ≠ 0 ∧ p.pre = [] then
    let r := mxeLine { s := s, bytes := [], ok := true, refused := false } c 1 64 (rowOff d p.fetched / 64 * 64)
    r.s.fetchNote c { p with pre := lineCut d p.fetched (lineRows d p.fetched) r.bytes } []
  else
    let r := mxeLine { s := s, bytes := [], ok := true, refused := false } c 1 64 (dXscl d + 2048 * p.fetched + p.raw.length)
    let q := { p with raw := p.raw ++ r.bytes ++ List.replicate (64 - r.bytes.length) 0 }
    if 2048 ≤ q.raw.length then r.s.rawDone c q else r.s.fetchNote c q []

/-- One feeder line (R81): the scale bytes of the oldest pass that still fetches, else its next rows, once the feeder queues have room
for them; at most one line per cycle, and from the cycle after the push on (R85). -/
def feederFetch (s : State) (c : Nat) : State :=
  let m := s.mxe c
  let cyc := (s.cell c).cyc
  match m.queue.find? fun p => needsFeed p.desc && decide (p.fetched < dM p.desc) with
  | none => s
  | some p =>
    let raw := dIsInit p.desc && dInit p.desc == 2
    let n := if raw then 1 else lineRows p.desc p.fetched
    if !s.runs c ∨ cyc ≤ p.pushed ∨ m.fetchAt = cyc + 1 ∨ 64 < m.feeder.length + n then s
    else if dStatScaled p.desc ∧ dKp p.desc ≠ 0 ∧ p.scl.length < 128 then s.fetchScales c p
    else if raw then s.fetchRaw c p
    else if dStrmScaled p.desc ∧ p.xscl.length < p.fetched + n then s.fetchRowScales c p
    else s.fetchRows c p

/-! ### Freeze (R91-R94) -/

/-- The array is frozen in this cycle, counted once. `feeder` is the number of feeder rows that are due and empty, `drain` that the
drain queue is full. The feeder heads of a row are all due at once, before the skew, and a line fills them all, so every active row's
bit of ROWS is set (DEDUCED, log 47). -/
def freeze (s : State) (c feeder : Nat) (drain : Bool) : State :=
  let m := s.mxe c
  let cyc := (s.cell c).cyc
  if m.judged = cyc + 1 then s
  else
    let cause := (if 0 < feeder then 1 + 2 ^ 16 * (2 ^ feeder - 1) else 0) + (if drain then 2 else 0)
    let n := { m with frozen := m.frozen + 1, consec := if m.judged = cyc then m.consec + 1 else 1, judged := cyc + 1 }
    ((s.setMxe c n).incSatUn (cellKey c MXE_STALL_FREEZE) 0 64 1).setReg (cellKey c MXE_FREEZE_CAUSE) (BitVec.ofNat 64 cause)

/-- The freeze conditions of R91 in the present cycle, as causes. -/
def dryNow (s : State) (c : Nat) : Bool :=
  feederDry (s.mxe c) (s.arrayTime c) (s.cell c).cyc s.rowDueAt
def fullNow (s : State) (c : Nat) : Bool := drainFull (s.mxe c) (s.arrayTime c) (s.cell c).cyc

/-- The rows that are due and empty in the present cycle. -/
def dryRows (s : State) (c : Nat) : Nat :=
  if !s.dryNow c then 0
  else match streamPass (s.mxe c) with
    | some p => feedRows p.desc
    | none => 0

/-- The array is frozen in the present cycle. -/
def frozenNow (s : State) (c : Nat) : Bool := decide ((s.mxe c).judged = (s.cell c).cyc + 1) || s.dryNow c || s.fullNow c

/-- The present cycle is judged: frozen and counted when a condition of R91 holds. -/
def judgeCycle (s : State) (c : Nat) : State :=
  if s.dryNow c || s.fullNow c then s.freeze c (s.dryRows c) (s.fullNow c) else s

/-- 2^LIMIT frozen cycles in a row, and this one is frozen too (R94). -/
def freezeExpire (s0 : State) (c : Nat) : State :=
  let s := if s0.runs c then s0.judgeCycle c else s0
  let m := s.mxe c
  if m.judged = (s.cell c).cyc + 1 ∧ m.consec = 2 ^ s.fld (cellKey c MXE_WDOG) 0 5 + 1 ∧ s.runs c then
    (s.setMxe c { m with consec := m.consec + 1 }).raiseAt 0x13 c (s.reg (cellKey c MXE_FREEZE_CAUSE)).toNat
  else s

/-! ### Swap wave and streamed rows (R83, R84, R96-R100) -/

/-- The cycle counts as an easel stall, once: every start condition holds but the easel's (R84, R116). The cycle of the push does not
count: pass 0 pushed in cycle 0 and started in cycle 13 stalls for 12 (R85 and the example before R116). -/
def easelStall (s : State) (c : Nat) (p : Pass) : State :=
  let m := s.mxe c
  if m.stallAt = (s.cell c).cyc + 1 ∨ (s.cell c).cyc ≤ p.pushed then s
  else (s.setMxe c { m with stallAt := (s.cell c).cyc + 1 }).incSatUn (cellKey c MXE_STALL_EASEL) 0 64 1

/-- The wave of the next pass enters, or the array freezes, or the cycle counts as an easel stall. -/
def waveEnter (s : State) (c : Nat) : State :=
  let m := s.mxe c
  let t := s.arrayTime c
  match nextPass m with
  | none => s
  | some p =>
    if !s.runs c ∨ m.noStart ∨ stoppedAt m (s.cell c).cyc ∨ ¬ prevDone m t s.rowDueAt then s
    else if s.frozenNow c then s.judgeCycle c
    else if !p.ready then s.easelStall c p
    else
      s.setMxe c (modPass { m with starts := ((p.j, t, s.rowInterval p.desc * dM p.desc) :: m.starts).take 4, cur := p.j % 4 } p.j
        fun q => { q with start := some t })

/-- Key of the slot of a column. -/
def slotKey (slot n : Nat) : Nat := slot * 128 + n

/-- Bias of column n of a pass (R98): the value the register holds at the start of the column's accumulate cycle. -/
def biasOf (s : State) (c : Nat) (d : BitVec 256) (n : Nat) : Nat :=
  (s.regStart (cellKey c (MXE_BIAS + 512 * dBias d + 4 * n))).toNat

/-- An upset of a unit (log 7) adds `delta` to a column's VALUE, or to a check slot for columns 128 and 129. -/
def upsetCol (u : Option (Nat × Int)) (n v : Nat) : Nat :=
  match u with
  | some (i, x) => if i = n then mkSlot (((slotVal v : Int) + x) % (2 ^ 112 : Int)).toNat (slotFlags v) (slotAnchor v) else v
  | none => v
def upsetChk (u : Option (Nat × Int)) (k : Chk) : Chk :=
  match u with
  | some (i, x) => if i = 128 then { k with c0 := k.c0 + BitVec.ofInt 112 x } else if i = 129 then { k with c1 := k.c1 + BitVec.ofInt 112 x } else k
  | none => k

/-! ### Accumulation (R83, R96, R97, R100, R125, R126, R130, R137) -/

/-- The slot a row's column starts from: the initial value of an init pass (R97, R130), else what the slot holds. -/
def colStart (d : BitVec 256) (raw : List (BitVec 128)) (bias n held : Nat) : Nat :=
  if dIsInit d then initSlot d bias ((raw[n]?).getD 0).toNat else held

/-- Column n of a row: start value plus the row's products, with the upset of the unit if any. -/
def colSum (f : Flight) (bias n held : Nat) : Nat :=
  upsetCol f.upset n (accColumn f.desc f.block f.scl f.bytes (strmScale f.desc f.scale) n
    (rawForeign f.desc ((f.raw[n]?).getD 0).toNat) (colStart f.desc f.raw bias n held))

def modFlight (m : Mxe) (f : Flight) (g : Flight → Flight) : Mxe :=
  { m with flight := m.flight.map fun x => if x.j = f.j ∧ x.m = f.m then g x else x }

/-- The check columns take the row in cycle t0 + 17; a final row's check slots are its own from then on (R100). They take the raw value
and the terms of a raw initial row whose ANCHOR is another, though its data slots take no product (DESIGN CHOICE, log 47). -/
def flightCheck (m : Mxe) (f : Flight) : Mxe :=
  let k0 := if dIsInit f.desc then chkOpen f.desc f.j else SMap.get m.chk f.slot Chk.reset
  let k := upsetChk f.upset (chkRow f.desc f.c0 f.c1 f.bytes (strmScale f.desc f.scale) k0)
  modFlight { m with chk := SMap.put m.chk f.slot k } f fun x => { x with chk := k }

/-- An initial value taken in column n enters the check slots of its group (R137), also those that a final row of the group has taken
with it. The raw value of another ANCHOR enters them too (DESIGN CHOICE, log 47). -/
def groupCheck (m : Mxe) (f : Flight) (n v t : Nat) : Mxe :=
  let k := SMap.get m.chk f.slot Chk.reset
  { m with chk := if k.grp = f.j then SMap.put m.chk f.slot (chkInitCol n v k) else m.chk,
           flight := m.flight.map fun x =>
             if x.slot = f.slot ∧ x.init = f.j ∧ x.t0 + 17 ≤ t then { x with chk := chkInitCol n v x.chk } else x }

/-- Column n of a row accumulates in cycle t = t0 + n + 17. -/
def flightColumn (m : Mxe) (f : Flight) (bias n t : Nat) : Mxe :=
  let held := (SMap.get m.slots (slotKey f.slot n) 0).toNat
  let m1 := if dIsInit f.desc then groupCheck m f n (colStart f.desc f.raw bias n held) t else m
  { m1 with slots := SMap.set m1.slots (slotKey f.slot n) (BitVec.ofNat 128 (colSum f bias n held)) 0 }

/-- The row has accumulated column 127: a final row stands in the de-skew buffer whole. -/
def flightLand (m : Mxe) (f : Flight) : Mxe :=
  let m1 := { m with flight := m.flight.filter fun x => !(x.j == f.j && x.m == f.m) }
  match m.flight.find? fun x => x.j == f.j && x.m == f.m with
  | some g =>
    if dIsFinal f.desc then
      { m1 with finals := m1.finals ++ [{ desc := g.desc, j := g.j, m := g.m, slot := g.slot, due := g.t0 + 144, data := g.data,
                                          chk := g.chk, replayOk := g.replayOk, init := g.init, epoch := g.epoch, loc := (0, 0) }] }
    else m1
  | none => m1

/-- What array cycle t does to a row in flight; `bias` gives the bias of a column. -/
def flightStep (bias : BitVec 256 → Nat → Nat) (t : Nat) (m : Mxe) (f : Flight) : Mxe :=
  if t < f.t0 + 17 then m
  else
    let n := t - (f.t0 + 17)
    let m1 := if n = 0 then flightCheck m f else m
    let m2 := if n < dNp f.desc then flightColumn m1 f (bias f.desc n) n t else m1
    let m3 := if dIsFinal f.desc then modFlight m2 f fun x => { x with data := x.data ++ [SMap.get m2.slots (slotKey f.slot n) 0] } else m2
    if n = 127 then flightLand m3 f else m3

/-- The rows in flight advance by array cycle t, oldest first. -/
def flightCycle (bias : BitVec 256 → Nat → Nat) (t : Nat) (m : Mxe) : Mxe := m.flight.foldl (flightStep bias t) m

/-- Present the next row of the streaming pass: it leaves the feeder heads and enters the array, one cycle after S + r*m (R83). -/
def presentRow (s : State) (c : Nat) (p : Pass) (u : Option (Nat × Int)) : State :=
  let m := s.mxe c
  let d := p.desc
  let f : FRow := if needsFeed d then (m.feeder.head?).getD ⟨p.j, p.rows, 0, [], 0, []⟩ else ⟨p.j, p.rows, 0, [], 0, []⟩
  let e := easelOf m p.j
  let slot := dSlot d + p.rows
  let x : Flight :=
    { desc := d, j := p.j, m := p.rows, slot := slot, t0 := s.arrayTime c - 1, block := e.block, scl := p.scl, c0 := e.c0, c1 := e.c1,
      bytes := f.bytes, scale := f.scale, raw := f.raw, data := [], chk := Chk.reset, replayOk := p.replayOk.contains slot,
      init := (p.inits[p.rows]?).getD 0, epoch := p.epoch, upset := u }
  let n := { m with feeder := if needsFeed d then m.feeder.drop 1 else m.feeder, flight := m.flight ++ [x], streamAt := (s.cell c).cyc + 1 }
  let phys := if dClass d = 4 then (dKp d + 1) / 2 else dKp d
  (s.setMxe c (modPass n p.j fun q => { q with rows := q.rows + 1 })).act c 0 (phys * ((dNp d + 31) / 32))

/-- A due row is presented, or the array freezes for this cycle. -/
def streamRow (s : State) (c : Nat) (u : Option (Nat × Int)) : State :=
  let m := s.mxe c
  let t := s.arrayTime c
  match streamPass m with
  | none => s
  | some p =>
    match p.start with
    | none => s
    | some S =>
      if !s.runs c ∨ stoppedAt m (s.cell c).cyc ∨ m.streamAt = (s.cell c).cyc + 1 ∨ t < s.rowDueAt p S then s
      else if s.frozenNow c then s.judgeCycle c
      else s.presentRow c p u

/-! ### Check, convert, drain (R102-R104, R131-R140) -/

/-- Convert one element of a row, drawing for RND 3 (R134). -/
def convertElem (d : BitVec 256) (a : DWord × Nat × List Conv) (v : Nat) : DWord × Nat × List Conv :=
  if dRnd d = 3 ∧ dOutFmt d ≠ 0xF then
    let r := drawOf a.1 a.2.1
    (r.1, a.2.1 + 1, a.2.2 ++ [convertSlot (dOutFmt d) 3 v r.2])
  else (a.1, a.2.1, a.2.2 ++ [convertSlot (dOutFmt d) (dRnd d) v 0])

/-- A row that passed converts in array cycle t, packs and enters the drain queue at the end of cycle t + 2 (R102). A stochastic pass's
seed is what MXE_SR_SEED held at the start of the cycle (R135). -/
def convertRow (s : State) (c : Nat) (r : FinalRow) (t : Nat) : State :=
  let m := s.mxe c
  let d := r.desc
  let seed := decide (dRnd d = 3 ∧ dOutFmt d ≠ 0xF) && decide (m.rngPass ≠ some r.j)
  let g := if seed then rngSeed (s.regStart (cellKey c MXE_SR_SEED)) r.j else m.rng
  let k := if seed then 0 else m.draws
  let o := (r.data.take (dNp d)).foldl (fun a v => convertElem d a v.toNat) (g, k, [])
  let row : DRow := ⟨r.j, dOut d + 64 * dOutStride d * r.m, packElems (fmtBits (dOutFmt d)) (o.2.2.map (·.v)), 0, t + 2, decide (r.m + 1 = dM d)⟩
  let n := { m with rng := o.1, draws := o.2.1, rngPass := if seed then some r.j else m.rngPass, drain := m.drain ++ [row] }
  (((s.setMxe c n).incSatUn (cellKey c MXE_ARITH_CNT) 0 16 (o.2.2.countP (·.nan))).incSatUn (cellKey c MXE_ARITH_CNT) 16 16
    (o.2.2.countP (·.ovf))).act c 7 (dNp d)

/-- A row passed its check: it waits for its convert cycle, and the journal entries it releases retire (R102, R142). -/
def rowPassed (s : State) (c : Nat) (r : FinalRow) : State :=
  s.setMxe c (retire { s.mxe c with conv := (s.mxe c).conv ++ [r] })

/-- The convert stage takes the oldest row that waits, four cycles after its column 127 (R102). -/
def convertNext (s : State) (c t : Nat) : State :=
  match (s.mxe c).conv with
  | [] => s
  | r :: rest => if r.due + 4 ≤ t then (s.setMxe c { s.mxe c with conv := rest }).convertRow c r t else s

/-- Record a failing row in MXE_CHK_LAST with its outcome, and log it. -/
def checkRecord (s : State) (c cls outcome : Nat) (r : FinalRow) : State :=
  let v := chkLast r.loc outcome r.slot r.j
  ((s.queueTest c 0 s.err.nextSn 0).setReg (cellKey c MXE_CHK_LAST) (BitVec.ofNat 64 v)).raise cls (.cell c 0) v (some c)

/-- A row that is not replayable, or whose replay failed: not converted, no further pass starts (R143, R146). -/
def rowLost (s : State) (c outcome : Nat) (r : FinalRow) : State :=
  let m := s.mxe c
  let s1 := s.setMxe c { m with noStart := true, lost := (r.slot, r.init, r.j) :: m.lost }
  s1.checkRecord c 0x16 outcome r

/-- A failing row (R140, R143, R144). An uncorrectable journal read is met here, before any hold: class 0x17, then class 0x16 with
OUTCOME 3 (DESIGN CHOICE, log 47). A row that goes to replay is written to MXE_CHK_LAST at its failing compare, with OUTCOME 0 until the
verdict (DESIGN CHOICE, log 47). -/
def rowFail (s : State) (c : Nat) (r : FinalRow) (journalBad : Bool) : State :=
  if r.replayOk ∧ r.epoch = (s.mxe c).epoch then
    if journalBad then
      let s1 := s.setMxe c (clearJournal (s.mxe c))
      let v := chkLast r.loc 3 r.slot r.j
      ((s1.setReg (cellKey c MXE_CHK_LAST) (BitVec.ofNat 64 v)).raise 0x17 (.cell c 0) v none).rowLost c 3 r
    else
      let s1 := s.setReg (cellKey c MXE_CHK_LAST) (BitVec.ofNat 64 (chkLast r.loc 0 r.slot r.j))
      s1.setMxe c { s1.mxe c with replay := some r, replayAt := (s1.cell c).cyc }
  else s.rowLost c 3 r

/-- Counters of the comparison of R139. -/
def countCheck (s : State) (c : Nat) : ChkRes → State
  | .skip => s.incSatUn (cellKey c MXE_CHK_SKIP) 0 32 1
  | .pass b | .fail b _ _ =>
    let t := s.incSatUn (cellKey c MXE_CHK_ROWS) 0 64 1
    if b then t.incSatUn (cellKey c MXE_CHK_BOUND) 0 32 1 else t

/-- The check stage takes the oldest final row once its compare cycle has come. In a frozen cycle the check holds still (R92). -/
def finalCheck (s : State) (c : Nat) (journalBad : Bool) : State :=
  let m := s.mxe c
  if !s.runs c then s
  else if s.frozenNow c then s.judgeCycle c
  else match m.finals with
  | [] => s
  | r :: rest =>
    if s.arrayTime c < r.due + 3 then s
    else
      let res := checkRow (r.data.map (·.toNat)) r.chk
      let s1 := (s.setMxe c { m with finals := rest }).countCheck c res
      match res with
      | .fail b d0 d1 => s1.rowFail c { r with loc := locate b d0 d1 r.chk.w } journalBad
      | _ => s1.rowPassed c r

/-! ### Replay (R145, R146) -/

/-- What the replay has recomputed so far. -/
structure Replay where
  s : State
  ok : Bool
  data : List Nat
  chk : Chk

/-- A row's data slots n < W and its check slots formed at once, as the replay unit does (R145). -/
def replayRow (W : Nat) (d : BitVec 256) (blk scl : List Byte) (c0 c1 : List Int) (row : List Byte) (scale : Byte) (raw : List (BitVec 128))
    (bias : Nat → Nat) (j : Nat) (data : List Nat) (k : Chk) : List Nat × Chk :=
  let init := (List.range (min W (dNp d))).map fun n => colStart d raw (bias n) n ((data[n]?).getD 0)
  let sums := init.zipIdx.map fun p => accColumn d blk scl row (strmScale d scale) p.2 (rawForeign d ((raw[p.2]?).getD 0).toNat) p.1
  let k0 := if dIsInit d then init.zipIdx.foldl (fun a p => chkInitCol p.2 p.1 a) (chkOpen d j) else k
  (sums, chkRow d c0 c1 row (strmScale d scale) k0)

/-- One journal entry of the slot. A refused or consumed read does not end the walk: the entry's other sources and the later entries
are read as well, and each fault is logged (DESIGN CHOICE, log 47). -/
def replayEntry (a : Replay) (W c slot : Nat) (e : JEnt) : Replay :=
  let d := e.desc
  let m := slot - dSlot d
  let blk := a.s.statRanges c ((List.range (segNeed d)).flatMap (segRanges d))
  let scl := if dStatScaled d ∧ dKp d ≠ 0 then blk.s.feedRanges c [(dScl d, 128)] else blk.s.feedRanges c []
  let row := if dKp d = 0 then scl.s.feedRanges c [] else scl.s.feedRanges c [(rowOff d m, rowLen d)]
  let rsc := if dStrmScaled d ∧ dKp d ≠ 0 then row.s.feedRanges c [(dXscl d + m, 1)] else row.s.feedRanges c []
  let raw := if dIsInit d ∧ dInit d = 2 then rsc.s.feedRanges c [(dXscl d + 2048 * m, 2048)] else rsc.s.feedRanges c []
  let c0 := (List.range (dKp d)).map (checkC0 d blk.bytes scl.bytes)
  let c1 := (List.range (dKp d)).map (checkC1 d blk.bytes scl.bytes)
  let r := replayRow W d blk.bytes scl.bytes c0 c1 row.bytes ((rsc.bytes[0]?).getD 0) (rawSlots raw.bytes) (raw.s.biasOf c d) e.j a.data a.chk
  { s := raw.s, ok := a.ok && blk.ok && scl.ok && row.ok && rsc.ok && raw.ok, data := r.1 ++ a.data.drop r.1.length, chk := r.2 }

/-- The replay of the failing row: recomputed data and check slots, with an upset of the replay unit if any. A journal cleared while
the replay runs leaves it no entry to walk, and it fails (DESIGN CHOICE, log 47). -/
def replayRun (s : State) (c : Nat) (r : FinalRow) (u : Option (Nat × Int)) : Replay :=
  let es := (s.mxe c).journal.filter fun e => decide (r.init ≤ e.j) && decide (e.j ≤ r.j) && (dSlots e.desc).contains r.slot
  let W := match es with | e :: _ => dNp e.desc | [] => 0
  let a := es.foldl (fun a e => replayEntry a W c r.slot e)
    { s := s, ok := decide (r.epoch = (s.mxe c).epoch), data := r.data.map (·.toNat), chk := r.chk }
  { a with data := a.data.zipIdx.map fun p => upsetCol u p.2 p.1, chk := upsetChk u a.chk }

/-- The replay ends; after a verdict the hold ends in the next cycle (R144). -/
def endReplay (s : State) (c : Nat) : State :=
  s.setMxe c { s.mxe c with replay := none, holdTo := s.slot + 1 }

/-- The replay's verdict. -/
def replayVerdict (s : State) (c : Nat) (u : Option (Nat × Int)) : State :=
  match (s.mxe c).replay with
  | none => s
  | some r =>
    let a := s.replayRun c r u
    let s1 := a.s.endReplay c
    if a.ok && (match checkRow a.data a.chk with | .fail .. => false | _ => true) then
      let m := s1.mxe c
      let slots := if (SMap.get m.info r.slot SlotMeta.reset).namedBy = r.j then
          a.data.zipIdx.foldl (fun x q => SMap.set x (slotKey r.slot q.2) (BitVec.ofNat 128 q.1) 0) m.slots else m.slots
      let chk := if (SMap.get m.info r.slot SlotMeta.reset).namedBy = r.j then SMap.put m.chk r.slot a.chk else m.chk
      let s2 := s1.setMxe c { m with slots := slots, chk := chk }
      (s2.checkRecord c 0x15 1 r).rowPassed c { r with data := a.data.map (BitVec.ofNat 128), chk := a.chk }
    else s1.rowLost c 2 r

/-! ### Drain and completion (R103, R104, R114) -/

/-- A line's bytes into their words; a word with masked bytes keeps them (R103, R168). A part of a word that meets a poisoned or
uncorrectable word is handled as R168 handles a mesh write's: class 0x22, poison, a halt; the drain goes on (DESIGN CHOICE, log 47). -/
def drainWords (s : State) (c off : Nat) (bs : List Byte) : State :=
  (wordsOf off bs.length).foldl (fun (t : State) o =>
    let cv := covered off o bs
    if cv.length = 8 then t.writeWord c o (mergeBytes 0 cv)
    else match t.readWord c o 3 with
      | (u, .word w) => u.writeWord c o (mergeBytes w cv)
      | (u, .lost _ syn) => (u.poisonWord c o).wordRecord 0x22 c o 3 syn (some c)) s

/-- Write the next line of the oldest row of the drain queue, one line per cycle. The pass is done with its last row's last line, when
that line is written (R104); a line that the scratchpad refuses is passed over. -/
def drainLine (s : State) (c : Nat) : State :=
  let m := s.mxe c
  let cyc := (s.cell c).cyc
  match m.drain with
  | [] => s
  | r :: rest =>
    if !s.runs c ∨ m.noDrain ∨ m.drainAt = cyc + 1 ∨ s.arrayTime c ≤ r.enter then s
    else
      let off := r.addr + 64 * r.lines
      let bs := (r.bytes.drop (64 * r.lines)).take 64
      let done := decide (r.bytes.length ≤ 64 * (r.lines + 1))
      let n := { m with drain := if done then rest else { r with lines := r.lines + 1 } :: rest, drainAt := cyc + 1,
                        drainFreed := if done then cyc + 1 else m.drainFreed }
      match s.spmCheck c off 3 false with
      | some cr => (s.setMxe c n).mxeRefuse c off 3 cr
      | none => ((s.setMxe c (if done && r.last then modPass n r.j fun q => { q with lastOut := true } else n)).act c 1 1).drainWords c off bs

/-- Whether a pass is complete (R104): a final pass with its last line, another at the end of the unfrozen cycle in which its last row
accumulates column 127. -/
def passDone (s : State) (c : Nat) (p : Pass) : Bool :=
  match p.start with
  | none => false
  | some S =>
    if dIsFinal p.desc then p.lastOut
    else
      let e := S + s.rowInterval p.desc * (dM p.desc - 1) + 144
      p.rows == dM p.desc && (decide (e < s.arrayTime c) || (decide (e = s.arrayTime c) && !s.frozenNow c))

/-- The oldest complete pass releases its queue entry. -/
def passComplete (s : State) (c : Nat) : State :=
  let m := s.mxe c
  let cyc := (s.cell c).cyc
  match m.queue.find? (s.passDone c) with
  | none => s
  | some p =>
    if !s.runs c then s
    else (s.setMxe c { m with queue := m.queue.filter (fun q => q.j != p.j),
                              freed := (cyc + 1, (if m.freed.1 = cyc + 1 then m.freed.2 else 0) + 1) }).incWrap (cellKey c MXE_PASS_DONE) 0 32 1

/-! ### Ballast and flush (R105, R106, R115, R441) -/

/-- A ballast row enters: EN is set, no program row is presented and no wave can enter in this cycle, and the array is not
frozen. A row whose check fails is logged at most once per cell per millisecond and queues the column test. -/
def ballastRow (s : State) (c : Nat) (upset : Bool) : State :=
  let m := s.mxe c
  let t := s.arrayTime c
  let cyc := (s.cell c).cyc
  let rowDue : Bool := match streamPass m with
    | some p => (match p.start with | some S => decide (s.rowDueAt p S ≤ t) | none => false) && !stoppedAt m cyc
    | none => false
  let waveDue : Bool := match nextPass m with
    | some p => prevDone m t s.rowDueAt && p.ready && !m.noStart && !stoppedAt m cyc
    | none => false
  if s.fld (cellKey c MXE_BAL_CTRL) 0 1 = 0 ∨ !s.runs c ∨ rowDue ∨ waveDue ∨ m.streamAt = cyc + 1 ∨ m.ballastAt = cyc + 1 ∨
      s.frozenNow c then s
  else
    let s1 := (s.setMxe c { m with ballastAt := cyc + 1, balRows := m.balRows + 1 }).act c 0 64
    if upset then (s1.queueTest c 0 (s1.limSn 1000000 0x19 (.cell c 0)) 0).raiseLim 1000000 0x19 (.cell c 0) 0 else s1

/-- A pattern block goes into the next free easel between a flush and the first push. -/
def patternLoad (s : State) (c : Nat) : State :=
  let m := s.mxe c
  if s.fld (cellKey c MXE_BAL_CTRL) 0 1 = 1 ∧ m.seq = 0 ∧ m.queue = [] ∧ s.runs c then
    match (List.range 4).find? fun i => (easelOf m i).owner.isNone && (easelOf m i).pattern.isNone with
    | some i => s.setMxe c (setEasel m i { Easel.free with block := Config.ballastPattern c i, pattern := some (s.cell c).cyc })
    | none => s
  else s

/-- What a flush leaves of the engine (R115): the slots' contents, the check slots, the generator and the counters stay. -/
def flushed (m : Mxe) : Mxe :=
  { m with seq := 0, queue := [], starts := [], easels := List.replicate 4 Easel.free, feeder := [], info := [], flight := [],
           finals := [], conv := [], lost := [], drain := [], rngPass := none, journal := [], epoch := m.epoch + 1, replay := none,
           holdTo := 0, noStart := false, stopFrom := none, noDrain := false, pushFails := [], flushDue := false }

/-- A flush acts (R115); one that arrived during a replay abandons it. -/
def mxeFlushNow (s : State) (c : Nat) : State :=
  let s1 := (match (s.mxe c).replay with
    | some r => s.checkRecord c 0x16 2 r
    | none => s)
  (s1.setMxe c (flushed (s1.mxe c))).setReg (cellKey c MXE_PASS_DONE) 0

/-- A flush arrives: it acts in the next cycle (R115), and every push of this cycle is discarded (R111). -/
def mxeFlush (s : State) (c : Nat) : State := s.setMxe c { s.mxe c with flushDue := true, pushFails := [] }

/-- The stages of a cell that is not held, at the end of a delivered cycle: the loader's beat (R81), then the cycle is judged (R91-R93); an unfrozen one counts as an
easel stall when only the easel is missing (R84), accumulates (R83) and converts (R102). -/
def mxeStages (s0 : State) (c : Nat) : State :=
  let t := s0.arrayTime c
  let s := (s0.loadBeat c).judgeCycle c
  if (s.mxe c).judged = (s.cell c).cyc + 1 then s
  else
    let m := s.mxe c
    let s1 := match nextPass m with
      | some p => if !p.ready && prevDone m t s.rowDueAt && !m.noStart && !stoppedAt m (s.cell c).cyc then s.easelStall c p else s
      | none => s
    (s1.setMxe c (flightCycle (s1.biasOf c) t (s1.mxe c))).convertNext c t

/-- The end of a delivered cycle of a cell: its stages, then a flush that arrived, or else the records of its refused pushes. -/
def mxeCycle (s0 : State) (c : Nat) : State :=
  let s := if s0.runs c then s0.mxeStages c else s0
  if (s.mxe c).flushDue then s.mxeFlushNow c else if (s.mxe c).pushFails = [] then s else s.pushRecords c

/-- A write to MXE_RPL_CTRL (R142). -/
def rplCtrl (s : State) (c : Nat) (en : Bool) : State :=
  let s1 := s.setFld (cellKey c MXE_RPL_CTRL) 0 1 (if en then 1 else 0)
  if en then s1 else s1.setMxe c (clearJournal (s1.mxe c))

/-- MXE_QSTAT (R116). -/
def qstat (s : State) (c : Nat) : Nat :=
  let m := s.mxe c
  let cyc := (s.cell c).cyc
  let rdy := fun e => if m.queue.any (fun p => p.ready && p.start.isNone && p.j % 4 == e) then 2 ^ (6 + e) else 0
  m.queue.length + m.seq % 4 * 2 ^ 4 + rdy 0 + rdy 1 + rdy 2 + rdy 3 +
    (if m.streamAt ≠ 0 ∧ m.streamAt = cyc then 2 ^ 10 else 0) + (if m.judged ≠ 0 ∧ m.judged = cyc then 2 ^ 11 else 0) +
    (if m.ballastAt ≠ 0 ∧ m.ballastAt = cyc then 2 ^ 12 else 0)

/-- MXE_RPL_STAT (R147): OVF is the register's, ENTRIES and ACTIVE the engine's. -/
def rplStat (s : State) (c : Nat) : Nat :=
  (s.mxe c).journal.length + s.fld (cellKey c MXE_RPL_STAT) 16 8 * 2 ^ 16 + (if (s.mxe c).replay.isSome then 2 ^ 24 else 0)

end State

/-! ### Commands -/

/-- MXE_DESC_PUSH (R99, R107-R111, R142). -/
def execMxeDescPush (c : Nat) (s : State) : Res := .next (s.mxePush c)

/-- EASEL_LOAD_SEGMENT (R80, R87, R88). -/
def execEaselLoadSegment (c : Nat) (s : State) : Res := .next (s.loadSegment c)

/-- EASEL_READY (R88, R136). -/
def execEaselReady (c : Nat) (s : State) : Res := .next (s.easelReady c)

/-- SWAP_WAVE_ENTER (R84, R91). -/
def execSwapWaveEnter (c : Nat) (s : State) : Res := .next (s.waveEnter c)

/-- FEEDER_FETCH (R81). -/
def execFeederFetch (c : Nat) (s : State) : Res := .next (s.feederFetch c)

/-- FREEZE_WATCHDOG_EXPIRE (R94). -/
def execFreezeWatchdogExpire (c : Nat) (s : State) : Res := .next (s.freezeExpire c)

/-- FINAL_ROW_CHECK (R139, R140, R143). -/
def execFinalRowCheck (c : Nat) (journalBad : Bool) (s : State) : Res := .next (s.finalCheck c journalBad)

/-- REPLAY_VERDICT (R145, R146). -/
def execReplayVerdict (c : Nat) (u : Option (Nat × Int)) (s : State) : Res := .next (s.replayVerdict c u)

/-- DRAIN_LINE_WRITE (R103). -/
def execDrainLineWrite (c : Nat) (s : State) : Res := .next (s.drainLine c)

/-- PASS_COMPLETE (R104). -/
def execPassComplete (c : Nat) (s : State) : Res := .next (s.passComplete c)

/-- BALLAST_ROW (R105, R441). -/
def execBallastRow (c : Nat) (upset : Bool) (s : State) : Res := .next (s.ballastRow c upset)

/-- PATTERN_LOAD (R106). -/
def execPatternLoad (c : Nat) (s : State) : Res := .next (s.patternLoad c)

/-- MXE_FLUSH (R115). -/
def execMxeFlush (c : Nat) (s : State) : Res := .next (s.mxeFlush c)

/-- MXE_CNT_CLR_FREEZE (R16, R116). -/
def execMxeCntClrFreeze (c : Nat) (s : State) : Res := .next (s.clearReg (cellKey c MXE_STALL_FREEZE))

/-- MXE_CNT_CLR_EASEL (R116). -/
def execMxeCntClrEasel (c : Nat) (s : State) : Res := .next (s.clearReg (cellKey c MXE_STALL_EASEL))

/-- MXE_RPL_CTRL_WRITE (R142, R147). -/
def execMxeRplCtrlWrite (c : Nat) (en : Bool) (s : State) : Res := .next (s.rplCtrl c en)

/-- MXE_ARITH_CLR_ARITH (R147). -/
def execMxeArithClrArith (c : Nat) (s : State) : Res := .next (s.clearReg (cellKey c MXE_ARITH_CNT))

/-- MXE_ARITH_CLR_CHK (R147). -/
def execMxeArithClrChk (c : Nat) (s : State) : Res :=
  .next (((s.clearReg (cellKey c MXE_CHK_ROWS)).clearReg (cellKey c MXE_CHK_BOUND)).clearReg (cellKey c MXE_CHK_SKIP))

/-- MXE_ARITH_CLR_RPL (R147). -/
def execMxeArithClrRpl (c : Nat) (s : State) : Res := .next ((s.noteWrite (cellKey c MXE_RPL_STAT)).setFld (cellKey c MXE_RPL_STAT) 16 8 0)

/-- STREAMED_ROW_PRESENT (R83, R91, R96-R98). -/
def execStreamedRowPresent (c : Nat) (u : Option (Nat × Int)) (s : State) : Res := .next (s.streamRow c u)

end Sys2Proof.Machine
end

