-- ==== Sys2Proof/Machine/Repair.lean ====
section
/-! DEFINITION. Repair (R45-R63, R75, R76): the repair map and its confirmations, holes, the failure of a cell in service, and
the quick remap of a die row. -/

namespace Sys2Proof.Machine

/-- Bit-field words of a repair-map entry (R55). -/
def RmapEntry.word0 (e : RmapEntry) : Nat := e.typ + e.source * 2 ^ 4 + e.die * 2 ^ 8 + e.loc * 2 ^ 16
def RmapEntry.word1 (e : RmapEntry) : Nat := e.confirm + e.state * 2 ^ 4 + e.bootseq * 2 ^ 8

/-- LOC of a cell, a region, an LDO slice (R56). -/
def locCell (c : Nat) : Nat := cellPx c + cellPy c * 2 ^ 6
def locRegion (rx ry : Nat) : Nat := rx + ry * 2 ^ 3
def locSlice (rx ry rail slice : Nat) : Nat := rx + ry * 2 ^ 3 + rail * 2 ^ 6 + slice * 2 ^ 7

/-- The two skip positions of a row with these disabled positions, which ascend (R48). -/
def skipsFor : List Nat → Nat × Nat
  | [] => (46, 47)
  | [p] => if p = 47 then (46, 47) else (p, 47)
  | p :: q :: _ => (p, q)

/-- An entry that counts: not unreadable in both copies, of a TYPE that R56 names. -/
def RmapEntry.live (e : RmapEntry) : Bool := e.bad != 2 && 1 ≤ e.typ && e.typ ≤ 8

/-! ### Links (R184, R185) -/

/-- What lies at the other end of a link. -/
inductive Far where
  | cell (c : Nat)
  | edge (die : Nat)
  | none
deriving DecidableEq, Repr

/-- Side of a link code: 1 north, 2 east, 3 south, 4 west; and its lateral offset plus 2. -/
def linkSide (l : Nat) : Nat := if l = 0 then 2 else if l = 1 then 4 else if l < 7 then 1 else 3
def linkOff (l : Nat) : Nat := if l < 2 then 2 else if l < 7 then l - 2 else l - 7

/-- The side by which a packet arrives. -/
def opposite (side : Nat) : Nat := if side = 1 then 3 else if side = 3 then 1 else if side = 2 then 4 else 2

/-- Link code of the other end of a link. -/
def backLink (l : Nat) : Nat := if l = 0 then 1 else if l = 1 then 0 else if l < 7 then 11 - (l - 2) else 6 - (l - 7)

/-- The link straight on from the side a packet came in by (R186). -/
def straight (via : Nat) : Nat := if via = 4 then 0 else if via = 2 then 1 else if via = 1 then 9 else 4

/-- Row of edge ports of a die (R185, R198). -/
def edgeRow (p : Part) (d : Nat) : Nat := if dieRow p d = 0 then 0 else 47
/-- Link code of an edge port: offset 0 toward the outer edge. -/
def edgeLink (p : Part) (d : Nat) : Nat := if dieRow p d = 0 then 4 else 9

/-- Whether a link crosses a die boundary. -/
def crosses (c l : Nat) : Bool :=
  (l == 0 && cellPx c == 47) || (l == 1 && cellPx c == 0) || (2 ≤ l && l < 7 && cellPy c == 0) || (7 ≤ l && cellPy c == 47)

namespace State

/-- What a link of a physical cell leads to. -/
def linkFar (s : State) (c l : Nat) : Far :=
  let d := cellDie c
  let px := cellPx c
  let py := cellPy c
  let onDie := fun (o : Option Nat) (x y : Nat) => match o with | some e => Far.cell (cellAt e x y) | none => Far.none
  if l = 0 then (if px < 47 then .cell (c + 1) else onDie (s.dieBeside d 1) 0 py)
  else if l = 1 then (if 0 < px then .cell (c - 1) else onDie (s.dieBeside d 3) 47 py)
  else if 11 < l ∨ px + linkOff l < 2 ∨ 49 < px + linkOff l then .none
  else
    let x := px + linkOff l - 2
    if l < 7 then
      if 0 < py then .cell (cellAt d x (py - 1))
      else if edgeRow s.part d = 0 then (if l = 4 then .edge d else .none)
      else onDie (s.dieBeside d 0) x 47
    else if py < 47 then .cell (cellAt d x (py + 1))
    else if edgeRow s.part d = 47 then (if l = 9 then .edge d else .none)
    else onDie (s.dieBeside d 2) x 0

end State

namespace State

/-! ### Fuses in force (R53, R59) -/

def hardFuses (s : State) : List (Nat × Nat × Nat) := Config.factoryFuses ++ s.flash.hard
def isHard (s : State) (typ d loc : Nat) : Bool := s.hardFuses.contains (typ, d, loc)

/-- A lasting fault at a unit: its active entry is confirmed at most once per boot sequence, or a new one is made; with
the map full the repair applies for this boot sequence only (R57, R60). -/
def confirmFuse (s : State) (typ source die loc : Nat) : State :=
  let hit := fun (e : RmapEntry) => e.typ == typ && e.die == die && e.loc == loc && e.bad != 2
  let bump := fun (e : RmapEntry) =>
    if hit e && e.bootseq != s.flash.bootseq then { e with confirm := min (e.confirm + 1) 15, bootseq := s.flash.bootseq } else e
  if s.flash.rmap.any hit then { s with flash := { s.flash with rmap := s.flash.rmap.map bump } }
  else
    let e : RmapEntry := { typ := typ, source := source, die := die, loc := loc, confirm := 1, state := 0, bootseq := s.flash.bootseq, firstS := s.facility / 1000000000 % 2 ^ 32, bad := 0 }
    if s.flash.rmap.length < 4096 then { s with flash := { s.flash with rmap := s.flash.rmap ++ [e] } }
    else s.raise 0x88 (.engine 0) e.word0 none

/-- A halt of the panel that holds a cell, on its way (R429), under the last record if that is of the class. -/
def haltPanelOf (s : State) (c cls : Nat) : State :=
  let last := match s.err.recQ.getLast? with | some r => r.cls == cls && cls != 0 | none => false
  let sn := if last then s.err.nextSn - 1 else 0
  if s.haltable c then { s with err := { s.err with haltQ := s.err.haltQ ++ [⟨c, cls, sn, s.jobOf c, false⟩] } } else s

/-- A record of what befell several cells: the first of them whose panel it halts is the struck cell, and the other cells' panels halt under
it (R194, R350, R429). -/
def raiseFor (s : State) (sev cls : Nat) (loc : Loc) (detail : Nat) (cs : List Nat) : State :=
  cs.foldl (fun t c => t.haltPanelOf c cls) (s.raiseSev sev cls loc detail (cs.find? s.haltable))

/-- A logical cell becomes a hole: held without pulses, its contents kept (R45, R46). -/
def makeHole (s : State) (c : Nat) : State :=
  if (s.logicalOf c).isNone ∨ s.isHole c then s
  else ({ s with boot := { s.boot with holes := c :: s.boot.holes } }).setCell c { s.cell c with held := true }

/-- The failure of a cell in service (R61). A cell in no job has no panel to halt. -/
def cellFail (s : State) (c source cls : Nat) : State :=
  ((s.haltPanelOf c cls).makeHole c).confirmFuse 1 source (cellDie c) (locCell c)

/-- Holes and disabled cells of a die row, by ascending px. -/
def rowHoles (s : State) (d py : Nat) : List Nat :=
  (List.range 48).filterMap fun px => if s.isHole (cellAt d px py) then some (cellAt d px py) else none
def rowDisabled (s : State) (d py : Nat) : List Nat :=
  (List.range 48).filter fun px => s.boot.disabled.contains (cellAt d px py)

/-- Whether a die row holds a cell of a panel of a loaded job that has not ended or been halted. -/
def rowBusy (s : State) (d py : Nat) : Bool :=
  (List.range 48).any fun px => match s.job? (s.jobOf (cellAt d px py)) with
    | some j => 1 ≤ j.state && j.state ≤ 4
    | none => false

/-- Refusal reason of a quick remap, in the order 3, 4, 2, 1 (R62); 0 for none. -/
def remapReason (s : State) (d py : Nat) : Nat :=
  if s.boot.remap.isSome then 3
  else if !s.canvasValid || s.dieState d != 1 || 48 ≤ py || (s.rowHoles d py).isEmpty then 4
  else if 2 ≤ (s.rowDisabled d py).length then 2
  else if s.rowBusy d py then 1
  else 0

/-- A write of BOOT_REMAP_CMD (R62, R76). One refused because a remap is in progress is kept for the rest of its cycle: the remap may
complete in it. -/
def quickRemap (s : State) (d py : Nat) : State :=
  let r := s.remapReason d py
  if r = 3 then ({ s with boot := { s.boot with remapLate := s.boot.remapLate ++ [(d, py)] } }).setReg (ecKey BOOT_REMAP_STAT) (BitVec.ofNat 64 (3 + 3 * 2 ^ 4))
  else if r ≠ 0 then s.setReg (ecKey BOOT_REMAP_STAT) (BitVec.ofNat 64 (3 + r * 2 ^ 4))
  else ({ s with boot := { s.boot with remap := some (d, py, s.rowHoles d py) } }).setReg (ecKey BOOT_REMAP_STAT) 1

/-- Health of the router rail of a cell's region. -/
def routerRailOk (s : State) (c : Nat) : Bool :=
  let st := (s.region (cellRegion c)).st
  1 ≤ st && st ≤ 5

/-- Why a disabled cell is skipped: 1 hard fuse, 2 soft fuse (R74). -/
def fuseSrc (s : State) (d py px : Nat) : Nat :=
  let c := cellAt d px py
  if s.isHard 1 d (locCell c) || s.isHard 2 d (locRegion (px / 6) (py / 6)) || s.isHard 3 d (locRegion (px / 6) (py / 6)) then 1 else 2

/-- SRC of a skip position after a remap of the holes `gone`: 0 where the position is a spare, 3 for those holes, what it was where it
was skipped before, else the fuse that disabled a spare since (R74). -/
def skipSrc (s : State) (gone : List Nat) (d py px : Nat) : Nat :=
  if !s.boot.disabled.contains (cellAt d px py) then 0
  else if gone.contains (cellAt d px py) then 3
  else if px = s.skipA d py ∧ s.fld (dieKey d (FUSE_SKIP + 4 * py)) 6 2 ≠ 0 then s.fld (dieKey d (FUSE_SKIP + 4 * py)) 6 2
  else if px = s.skipB d py ∧ s.fld (dieKey d (FUSE_SKIP + 4 * py)) 14 2 ≠ 0 then s.fld (dieKey d (FUSE_SKIP + 4 * py)) 14 2
  else s.fuseSrc d py px

/-- FUSE_SKIPn of a row for its disabled cells, with the sources `src`. -/
def writeSkips (s : State) (d py : Nat) (src : Nat → Nat) : State :=
  let ab := skipsFor (s.rowDisabled d py)
  let pt := fun px => if s.routerRailOk (cellAt d px py) then 1 else 0
  s.setReg (dieKey d (FUSE_SKIP + 4 * py)) (BitVec.ofNat 64 (ab.1 + src ab.1 * 2 ^ 6 + ab.2 * 2 ^ 8 + src ab.2 * 2 ^ 14 +
    pt ab.1 * 2 ^ 16 + pt ab.2 * 2 ^ 17))

/-- Cells that a row's numbering leaves out are held without pulses; the others are not, unless they are holes (R45). -/
def holdRow (s : State) (d py : Nat) : State :=
  (List.range 48).foldl (fun t px =>
    let c := cellAt d px py
    let out := decide (px = t.skipA d py) || decide (px = t.skipB d py) || t.isHole c
    if (t.cell c).held = out then t else t.setCell c { t.cell c with held := out }) s

/-- A unit with an active entry or a hard fuse. -/
def fused (s : State) (typ d loc : Nat) : Bool :=
  s.isHard typ d loc || s.flash.rmap.any fun e => e.live && e.typ == typ && e.die == d && e.loc == loc

/-- LOC of a row crossing (R56). -/
def locCross (side c : Nat) : Nat := side + c * 2 ^ 2

/-- A wire of a crossing out of use by the record of one end: with an entry, or spared in this boot sequence. -/
def wireOut (s : State) (d side c w : Nat) : Bool :=
  s.fused 5 d (locCross side c + w * 2 ^ 8) || s.boot.wires.contains (d, side, c, w)

/-- Wires of a crossing out of use, by the records of both its ends (R466). -/
def wiresOut (s : State) (d side c : Nat) : List Nat :=
  (List.range 40).filter fun w => s.wireOut d side c w ||
    (match s.dieBeside d side with | some e => s.wireOut e ((side + 2) % 4) c w | none => false)

/-- The spares that carry a crossing's failed wires: each takes the lowest-numbered one that is unused and not failed itself (R466). Wires
36 to 39 are the spares (PRESUMED, log 39). -/
def steer (out : List Nat) : List (Nat × Nat) :=
  (out.filter fun w => decide (w < 36)).foldl (fun m w =>
    match [36, 37, 38, 39].find? fun k => !out.contains k && !m.any fun e => e.2 == k with
    | some k => m ++ [(w, k)]
    | none => m) []

/-- Whether every failed wire of a list has a spare. -/
def steered (out : List Nat) : Bool := (steer out).length == (out.filter fun w => decide (w < 36)).length

/-- Detail of class 0x7F (R518). -/
def calDetail (reason d kind side c rx ry pad : Nat) : Nat :=
  reason + d * 2 ^ 8 + kind * 2 ^ 12 + side * 2 ^ 14 + c * 2 ^ 16 + rx * 2 ^ 22 + ry * 2 ^ 25 + pad * 2 ^ 28

/-- Failed crossings of the boundary between a die's side and its neighbour, by either end's record. -/
def crossFailed (s : State) (d side c : Nat) : Bool :=
  s.boot.failedX.contains (d, side, c) ||
    (match s.dieBeside d side with | some e => s.boot.failedX.contains (e, (side + 2) % 4, c) | none => false)

/-- Failed crossings of a boundary. -/
def crossCount (s : State) (d side : Nat) : Nat := (List.range 48).countP fun c => s.crossFailed d side c

/-- A die boundary with 5 to 12 failed crossings, found at the start or in service (R69). -/
def bndDegraded (s : State) : Bool :=
  (List.range s.part.dies).any fun d => [1, 2].any fun side =>
    match s.dieBeside d side with
    | some e => s.dieState d != 3 && s.dieState e != 3 && Nat.ble 5 (s.crossCount d side) && Nat.ble (s.crossCount d side) 12
    | none => false

/-- BOOT_CANVAS as read: BND_DEGRADED follows the boundaries, HOLES the holes (R69, R75). -/
def canvasWord (s : State) : Nat :=
  bits (s.reg (ecKey BOOT_CANVAS)).toNat 0 20 + (if s.canvasValid then 2 ^ 22 else 0) +
    (if s.canvasValid && s.bndDegraded then 2 ^ 20 else 0) + (if s.canvasValid ∧ ¬ s.boot.holes.isEmpty then 2 ^ 21 else 0)

/-- FUSE_SPARES and FUSE_RMAP_LIVE of a die: its spares, and the soft-fuse entries applied to it (R74). At a quick remap every live entry
of the die that is not a hard fuse counts as applied, also that of a hole in another row which nothing has disabled yet (DESIGN CHOICE,
log 41). -/
def skipCounts (s : State) (d : Nat) : State :=
  let n := s.boot.disabled.countP fun c => cellDie c == d
  let soft := s.flash.rmap.countP fun e => e.live && e.die == d && !s.isHard e.typ d e.loc
  (s.setFld (dieKey d FUSE_SPARES) 0 7 (96 - n)).setFld (dieKey d FUSE_RMAP_LIVE) 0 12 (min soft 0xFFF)

/-- The canvas is published or remapped: its event and vector 259 (R331, R332). -/
def canvasEvent (s : State) : State :=
  (s.event 4 (toLe 4 s.canvasWord ++ toLe 4 (s.fld (ecKey BOOT_CANVAS_GEN) 0 32))).raiseAll 259

/-- The remap completes (R62, R63): the row's holes as they were when it began become disabled, up to two disabled cells. Writes of
BOOT_REMAP_CMD of the same cycle are evaluated after it (R76). -/
def remapComplete (s : State) : State :=
  match s.boot.remap with
  | none => s
  | some (d, py, holes) =>
    let gone := holes.take (2 - (s.rowDisabled d py).length)
    let s1 := { s with boot := { s.boot with remap := none, disabled := s.boot.disabled ++ gone, holes := s.boot.holes.filter fun c => !gone.contains c } }
    let s2 := (s1.writeSkips d py (s1.skipSrc gone d py)).holdRow d py
    let s3 := (((s2.skipCounts d).incWrap (ecKey BOOT_CANVAS_GEN) 0 32 1).setReg (ecKey BOOT_REMAP_STAT) 2).canvasEvent
    s.boot.remapLate.foldl (fun t e => t.quickRemap e.1 e.2) { s3 with boot := { s3.boot with remapLate := [] } }

end State

/-- CELL_FAIL_IN_SERVICE (R61). No record of its own names the halt: HCLASS 0 (log 8). -/
def execCellFailInService (c source : Nat) (s : State) : Res := .next (s.cellFail c source 0)

/-- QUICK_REMAP (R62, R76). -/
def execQuickRemap (d py : Nat) (s : State) : Res := .next (s.quickRemap d py)

/-- QUICK_REMAP_COMPLETE (R62, R63). -/
def execQuickRemapComplete (s : State) : Res := .next s.remapComplete

end Sys2Proof.Machine
end

