-- ==== Sys2Proof/Machine/Clock.lean ====
section
/-! DEFINITION. Clocking (R399-R418): pulse patterns, the throttle, droop stretch, margin monitors and PLL faults. -/

namespace Sys2Proof.Machine

/-- Margin and voltage-ceiling caps (MCAP of R419). -/
def Region.mcap (x : Region) : Nat := if x.marginCap then 8 else if x.vmaxCap then 12 else 16

namespace State

/-- Pulse count of a region by the terms of R406. -/
def pulseCount (s : State) (r : Nat) : Nat :=
  let x := s.region r
  min (min (16 - (s.die (regionDie r)).applied) (if x.sliceCap then 10 else 16)) (min (s.fld (regionKey TEMP_R r) 16 5) x.mcap)

/-- At slot 0 of a frame every region takes the count of its terms (R406). -/
def latchCounts (s : State) : State :=
  { s with regions := s.regions.map fun p => (p.1, { p.2 with n := s.pulseCount p.1 }) }

/-- A multicast branch that waits at a router counts the router's cycles (R214), a packet at an edge agent the slots (R266). -/
def pulsePkt (s : State) (p : Pkt) : Pkt :=
  match p.pos with
  | .router c _ => if s.routerPulse c then { p with waited := p.waited + 1 } else p
  | .agent _ => { p with waited := p.waited + 1 }
  | _ => p

/-- A region whose core gate is open counts its cells' delivered cycles (A6 of R366). -/
def pulseRegion (s : State) (r : Nat) (x : Region) : Region :=
  if s.coreGate r && s.pulse r then { x with act := x.act.set 6 ((x.act[6]?).getD 0 + 36) } else x

/-! ### Throttle (R407, R408) -/

/-- LE: the largest level an engine-wide source requests. -/
def engineLevel (s : State) : Nat := max (max s.band.ceilThr s.band.avgThr) s.band.throttle

/-- The level last sent to a die. -/
def lastLevel (s : State) (d : Nat) : Nat :=
  match (s.die d).leNext with
  | some (l, _) => l
  | none => s.fld (dieKey d CLK_THR) 0 4

/-- A new engine level goes to every die, stamped 64 frames ahead (R407). -/
def issueLevel (s : State) : State :=
  (List.range s.part.dies).foldl (fun t d =>
    if t.lastLevel d = s.engineLevel then t else t.setDie d { t.die d with leNext := some (s.engineLevel, s.slot / 16 + 64) }) s

/-- max(ENG, DIE, SW) of a die. -/
def levelOf (s : State) (d : Nat) : Nat :=
  max (max (s.fld (dieKey d CLK_THR) 0 4) (s.fld (dieKey d CLK_THR) 4 4)) (s.fld (dieKey d CLK_THR) 8 4)

/-- A die whose stamped frame has come applies the engine level. -/
def throttleApply (s : State) (d : Nat) : State :=
  match (s.die d).leNext with
  | some (l, f) =>
    if f ≤ s.slot / 16 then
      let t := s.setFld (dieKey d CLK_THR) 0 4 l
      t.setDie d { t.die d with leNext := none, applied := t.levelOf d }
    else s
  | none => s

/-- A change of the die level takes effect at slot 0 of a frame. -/
def dieApply (s : State) (d : Nat) : State :=
  if s.slot % 16 = 0 then s.setDie d { s.die d with applied := s.levelOf d } else s

/-- The die controller's own request falls by one level per 100 µs once the current has stayed below ILIM for 1 ms. -/
def dieDecay (s : State) (d : Nat) : State :=
  let x := s.die d
  if 0 < s.fld (dieKey d CLK_THR) 4 4 ∧ x.overLast + 1000000 ≤ s.now ∧ x.lastDecay + 100000 ≤ s.now then
    (s.setFld (dieKey d CLK_THR) 4 4 (s.fld (dieKey d CLK_THR) 4 4 - 1)).setDie d { x with lastDecay := s.now }
  else s

/-! ### Droop (R409) -/

/-- CLK_DCFG of a region's die as it stood at the start of the slot: a write takes effect in the next slot (R418). -/
def droopCfg (s : State) (r lo w : Nat) : Nat := bits (s.regStart (dieKey (regionDie r) CLK_DCFG)).toNat lo w

/-- A rail has fallen `mv` below its set point: from DROOP_MV on a detector fires, which starts a stretch or restarts the HOLD count of the
one in force. -/
def droopFire (s : State) (r mv : Nat) : State :=
  let x := s.region r
  if mv < s.droopCfg r 0 6 then s
  else match x.stretch with
  | some (a, _) => s.setRegion r { x with stretch := some (a, s.slot) }
  | none => (s.setRegion r { x with stretch := some (s.slot, s.slot) }).incSatUn (regionKey CLK_DROOP r) 0 16 1

/-- The rail has stayed within `mv` of its set point for the `good` slots before this one: the stretch ends at the first even slot after
HOLD consecutive slots within DROOP_MV, all of them after the last firing. -/
def droopEnd (s : State) (r mv good : Nat) : State :=
  let x := s.region r
  match x.stretch with
  | some (_, b) =>
    if mv < s.droopCfg r 0 6 ∧ s.droopCfg r 8 8 ≤ min good (s.slot - 1 - b) ∧ s.slot % 2 = 0 then
      s.setRegion r { x with stretch := none }
    else s
  | none => s

/-! ### Margin (R410-R412) -/

/-- The set point of one rail; the voltage of a rail that is on follows (R363). -/
def railVset (s : State) (r rail v : Nat) : State :=
  let k := ldoKey r rail
  let t := s.setFld k 0 6 v
  if s.fld k 17 1 = 1 then t.setFld k 6 6 v else t

/-- The set points of both rails before the change of the present 100 µs interval, if there was one. -/
def vBefore (s : State) (r : Nat) : Option (Nat × Nat) :=
  match (s.region r).vPrev with
  | some (k, c, t) => if k = s.now / 100000 then some (c, t) else none
  | none => none

/-- The loop applies to both rails of a region, each from its own set point (R410). The set points before the first change of a 100 µs
interval are kept for the rest of it (R412). -/
def stepVset (s : State) (r : Nat) (f : Nat → Nat) : State :=
  let v := fun rail => s.fld (ldoKey r rail) 0 6
  let s1 := (s.railVset r 0 (f (v 0))).railVset r 1 (f (v 1))
  match s.vBefore r with
  | some _ => s1
  | none => s1.setRegion r { s1.region r with vPrev := some (s.now / 100000, v 0, v 1) }

/-- A compute-off discards a change of the set points made in the same 100 µs interval (R412). -/
def dropVset (s : State) (r : Nat) : State :=
  match s.vBefore r with
  | some (c, t) => (s.railVset r 0 c).railVset r 1 t
  | none => s

/-- The compute rail's set point, which the register tables show for the region. -/
def vset (s : State) (r : Nat) : Nat := s.fld (ldoKey r 0) 0 6

/-- Detail of class 0x7D (R518). -/
def marginDetail (s : State) (r reason : Nat) : Nat :=
  reason + regionDie r * 2 ^ 8 + regionRx r * 2 ^ 11 + regionRy r * 2 ^ 14 + s.vset r * 2 ^ 18
def regionLoc (r : Nat) : Loc := .region (regionDie r) (regionRx r) (regionRy r)

/-- The first five bits of CLK_Rn and its minimum after a reading. -/
def readMargin (s : State) (r m : Nat) : State :=
  (s.setFld (regionKey CLK_R r) 0 5 m).setFld (regionKey CLK_R r) 5 5 (min m (s.fld (regionKey CLK_R r) 5 5))

/-- LO side of the evaluation: VSET rises, and at the ceiling the cap of 12 follows after 100 evaluations. -/
def marginLow (s : State) (r up : Nat) : State :=
  let x := s.region r
  let v := s.vset r
  let cnt := if v = 40 then x.ceilCnt + 1 else 0
  let s1 := (s.setRegion r { x with loCnt := 0, hiCnt := 0, ceilCnt := cnt, critPend := false }).stepVset r fun v => min 40 (v + max 1 up)
  if 100 ≤ cnt ∧ ¬ x.vmaxCap then
    (s1.setRegion r { s1.region r with vmaxCap := true }).raise 0x7D (regionLoc r) (s1.marginDetail r 2) none
  else s1

/-- The other conditions of the evaluation: the margin cap is removed after ten good ones, VSET falls after a hundred high ones. -/
def marginGood (s : State) (r m up : Nat) : State :=
  let x := s.region r
  let floor := s.fld (regionKey CLK_R r) 10 6
  let lo := x.loCnt + 1
  let hi := if s.fld (dieKey (regionDie r) CLK_MCFG) 10 5 < m then x.hiCnt + 1 else 0
  let x1 := { x with loCnt := lo, ceilCnt := 0, critPend := false, marginCap := x.marginCap && decide (lo < 10) }
  let raised := fun v => min 40 (v + up)
  if 100 ≤ hi then
    (s.setRegion r { x1 with hiCnt := 0 }).stepVset r fun v => if raised v ≤ floor then raised v else raised v - 1
  else (s.setRegion r { x1 with hiCnt := hi }).stepVset r raised

/-- The evaluation of a region (R410, R412): `up` is 2 when a critical response waits for it (R411). The CRIT of CLK_MCFG is in force from
here on (R418). -/
def marginEval (s : State) (r m : Nat) : State :=
  if !s.coreGate r then s
  else
    let cfg := dieKey (regionDie r) CLK_MCFG
    let up := if (s.region r).critPend then 2 else 0
    let s0 := s.readMargin r m
    let s1 := s0.setRegion r { s0.region r with crit := s.fld cfg 0 5 }
    if s.fld cfg 16 1 = 0 then
      (s1.setRegion r { s1.region r with critPend := false }).stepVset r fun v => min 40 (v + up)
    else if m < s.fld cfg 5 5 then s1.marginLow r up
    else s1.marginGood r m up

/-- An uncorrectable error in CLK or CAL control state (R417). -/
def clkUpset (s : State) (d : Nat) : State := s.raise 0x7E (.dieUnit d 0) (2 + d * 2 ^ 8) none

/-- The critical response (R411), in any pulse of the region; once per episode it is logged. -/
def critical (s : State) (r code : Nat) : State :=
  if code ≤ (s.region r).crit ∧ s.routerGate r ∧ s.pulse r then
    let x := s.region r
    let s1 := (s.setRegion r { x with marginCap := true, critPend := true, loCnt := 0 }).setFld (regionKey CLK_R r) 5 5
      (min code (s.fld (regionKey CLK_R r) 5 5))
    if x.marginCap then s1 else s1.raise 0x7D (regionLoc r) (s1.marginDetail r 1) none
  else s

/-- A PLL loses lock in service (R416). -/
def lockLoss (s : State) (d f : Nat) : State :=
  if s.locked d f then
    ((s.setFld (dieKey d CLK_STAT) f 1 0).setW1c (dieKey d CLK_STAT) (4 + f)).raise 0x7E (.dieUnit d f)
      (1 + d * 2 ^ 8 + f * 2 ^ 11) none
  else s

/-- CLK_Rn as read: MCAP, VMAX, STRETCH and the gates with the held fields. -/
def clkR (s : State) (r : Nat) : Nat :=
  let x := s.region r
  bits (s.reg (regionKey CLK_R r)).toNat 0 16 + x.mcap * 2 ^ 16 + (if x.vmaxCap then 2 ^ 21 else 0) +
    (if x.stretch.isSome then 2 ^ 22 else 0) + (if s.routerGate r then 2 ^ 23 else 0) + (if s.memGate r then 2 ^ 24 else 0) +
    (if s.coreGate r then 2 ^ 25 else 0)

end State

/-- PLL_LOCK_LOSS (R416). -/
def execPllLockLoss (d f : Nat) (s : State) : Res := .next (s.lockLoss d f)

/-- THROTTLE_APPLY (R407). -/
def execThrottleApply (s : State) : Res := .next ((List.range s.part.dies).foldl (fun t d => t.throttleApply d) s)

/-- DIE_THROTTLE_APPLY (R408). -/
def execDieThrottleApply (d : Nat) (s : State) : Res := .next (s.dieApply d)

/-- DIE_THROTTLE_DECAY (R408). -/
def execDieThrottleDecay (d : Nat) (s : State) : Res := .next (s.dieDecay d)

/-- DROOP_FIRE (R409). -/
def execDroopFire (d rx ry mv : Nat) (s : State) : Res := .next (s.droopFire (regionAt d rx ry) mv)

/-- DROOP_STRETCH_END (R409). -/
def execDroopStretchEnd (d rx ry mv good : Nat) (s : State) : Res := .next (s.droopEnd (regionAt d rx ry) mv good)

/-- MARGIN_EVAL (R410, R417). -/
def execMarginEval (d rx ry m : Nat) (upset : Bool) (s : State) : Res :=
  .next (if upset then s.clkUpset d else s.marginEval (regionAt d rx ry) m)

/-- CRITICAL_MARGIN (R411). -/
def execCriticalMargin (d rx ry code : Nat) (s : State) : Res := .next (s.critical (regionAt d rx ry) code)

end Sys2Proof.Machine
end

