-- ==== Sys2Proof/Machine/Power.lean ====
section
/-! DEFINITION. Power delivery (R338-R364) and the estimates of R366-R368: the input and its limits, converters and phases, LDO
slices and their outcomes, region commands, the staged turn-on, power good, and the activity and engine estimates. -/

namespace Sys2Proof.Machine

/-- Maximum continuous input in W, and input current limits with two blades and with one in A (R339). -/
def Part.maxInput : Part → Nat
  | .dz8200 => 15000 | .dz4200 => 7600 | .dz2200 => 3900
def Part.limitTwo : Part → Nat
  | .dz8200 => 278 | .dz4200 => 141 | .dz2200 => 73
def Part.limitOne : Part → Nat
  | .dz8200 => 135 | .dz4200 => 72 | .dz2200 => 40

/-- The physical cell whose control window a register key lies in. -/
def keyCell (k : Nat) : Option Nat := if k / 0x1000000 < 16 then none else some (k / 0x1000000 - 16)

/-- Offsets of the blocks a compute rail feeds: MXE, SPM, cores (R348). -/
def onCompute (o : Nat) : Bool := o < 0x2000 || (0x4000 ≤ o && o < 0x6000)
/-- Offsets of the blocks a router rail feeds: router and send unit registers, sync counters (R348). -/
def onRouter (o : Nat) : Bool := 0x2000 ≤ o && o < 0x4000

/-- Number of ones among the low `n` bits. -/
def onesBelow (v n : Nat) : Nat := (List.range n).countP fun i => bit v i

/-- Set point in W of an amount in µW, and back. -/
def uW (w : Nat) : Nat := w * 1000000

/-- Whether every stage of a turn-on is closed. -/
def TurnOn.full (o : TurnOn) : Bool := if o.router then 1 ≤ o.stage else 4 ≤ o.stage

namespace State

/-- A field of a register that reads the same on every die (R361). -/
def setAll (s : State) (o lo w v : Nat) : State :=
  (List.range s.part.dies).foldl (fun t d => t.setFld (dieKey d o) lo w v) s

def vin (s : State) : Nat := s.fld (dieKey 0 PWR_IN) 0 16

/-- Input current limit in force (R339). -/
def inLimit (s : State) : Nat := s.fld (dieKey 0 PWR_BLADE) 22 10

/-- The engine ceiling: the lower of the power ceiling and the tier ceiling (R339, R370). -/
def ceilW (s : State) : Nat :=
  min (min s.part.maxInput (s.vin * s.inLimit / 100)) (s.part.tier (s.fld (ecKey LIC_STAT) 2 1 == 1))

def ceil (s : State) : Nat := s.fld (ecKey RAMP_CEIL) 0 24

/-- RAMP_CEIL takes its value, and what it clamps follows it (R370); `drop` is the fall of S of R378. -/
def updateCeil (s : State) (drop : Bool) : State :=
  let w := s.ceilW
  let s1 := (s.setFld (ecKey RAMP_CEIL) 0 24 w).setFld (ecKey RAMP_CEIL) 24 1 (s.fld (ecKey LIC_STAT) 2 1)
  let s2 := s1.setFld (ecKey BAND_AVG) 0 24 (min (s.fld (ecKey BAND_AVG) 0 24) w)
  let b := s.band
  let g := min b.bReq w
  { s2 with band := { b with b := g, t := min b.tReq g, chg := b.chg.map fun x => (x.1, min x.2.1 w, x.2.2),
                             s := if drop then min b.s (uW w) else b.s, exc := b.exc || (drop && decide (uW w < b.s)) } }

/-! ### Rails of a region -/

/-- Failed slices of a rail. -/
def failedSlices (s : State) (r rail : Nat) : Nat := 4 - onesBelow (s.fld (ldoKey r rail) 12 4) 4

/-- The compute units of a cell lose power: their registers, scratchpad and stores with them (R354); the PWR block's count of ballast rows
stays (R397). -/
def cellOff (s : State) (c : Nat) : State :=
  let x := s.cell c
  s.setCell c { Cell.reset with
    cyc := x.cyc, held := x.held, links := x.links, rcyc := x.rcyc, outs := x.outs, sigs := x.sigs, tx := x.tx, txFreed := x.txFreed, txAt := x.txAt,
    nextTag := x.nextTag, testedAt := x.testedAt, mxe := { Mxe.reset with balRows := x.mxe.balRows } }

/-- Registers of a region's cells on one rail return to their reset values. -/
def dropRegs (s : State) (r : Nat) (on : Nat → Bool) : State :=
  { s with regs := s.regs.filter fun p =>
      match keyCell p.1 with
      | some c => !(cellRegion c == r && on (p.1 % 0x1000000))
      | none => true }

/-- Cells of a region index. -/
def cellsOf (r : Nat) : List Nat := regionCells (regionDie r) (regionRx r) (regionRy r)

/-- The compute rail is off; MXE_BAL_CTRL.EN is clear in its cells (R354). -/
def computeRailOff (s : State) (r : Nat) : State :=
  let t := s.dropVset r
  let s0 := { t with band := { t.band with nbal := t.band.nbal.filter fun c => cellRegion c != r } }
  let s1 := ((cellsOf r).foldl (fun t c => t.cellOff c) s0).dropRegs r onCompute
  ((s1.setFld (ldoKey r 0) 17 1 0).setFld (ldoKey r 0) 6 6 0).setRegion r { s1.region r with on := none }

/-- The router rail is off. -/
def routerRailOff (s : State) (r : Nat) : State :=
  ((s.dropRegs r onRouter).setFld (ldoKey r 1) 17 1 0).setFld (ldoKey r 1) 6 6 0

def setSt (s : State) (r st : Nat) : State := s.setRegion r { s.region r with st := st }

/-- Whether a region holds a cell of a panel whose job is held (R353, R388). -/
def regionLoaded (s : State) (r : Nat) : Bool := (cellsOf r).any fun c => (s.job? (s.jobOf c)).isSome

/-- Detail of classes 0x70-0x72 (R518). -/
def railDetail (r rail failed : Nat) : Nat :=
  regionDie r * 2 ^ 8 + regionRx r * 2 ^ 11 + regionRy r * 2 ^ 14 + rail * 2 ^ 17 + failed * 2 ^ 18

/-- A region goes dark (R350): its logical cells become holes, the panels that hold them are halted, the rail is entered in
the repair map. Traffic that selects the links of a dark router rail waits for its detours. -/
def regionDark (s : State) (r rail failed source : Nat) : State :=
  let cs := cellsOf r
  let s2 := s.raiseFor (if s.regionLoaded r then 1 else 0) 0x72 (regionLoc r) (railDetail r rail failed) cs
  let s3 := cs.foldl (fun t c => t.makeHole c) s2
  let s4 := s3.computeRailOff r
  let s5 := if rail = 0 then s4 else
    let t := s4.routerRailOff r
    t.setRegion r { t.region r with off := .detours [] }
  (s5.setSt r (if rail = 0 then 5 else 6)).confirmFuse (if rail = 0 then 2 else 3) source (regionDie r)
    (locRegion (regionRx r) (regionRy r))

/-- The outcome of the number of failed slices on a rail (R350). -/
def sliceOutcome (s : State) (r rail source : Nat) : State :=
  let n := s.failedSlices r rail
  if n = 1 then s.raise 0x70 (regionLoc r) (railDetail r rail n) none
  else if n = 2 then
    let x := s.region r
    ((s.setRegion r { x with sliceCap := true, st := if x.st = 3 then 4 else x.st }).setFld (ldoKey r rail) 16 1 1).raise 0x71
      (regionLoc r) (railDetail r rail n) none
  else s.regionDark r rail n source

/-- SOURCE of an entry for a slice or a rail that fails now: 2 in service, 1 at a start (R349, R350). -/
def railSource (s : State) : Nat := if s.fld (ecKey BOOT_STAT) 4 1 = 1 then 2 else 1

/-- An LDO slice fails (R349, R350). -/
def sliceFail (s : State) (r rail slice : Nat) : State :=
  if s.fld (ldoKey r rail) (12 + slice) 1 = 0 ∨ 4 ≤ slice ∨ s.boot.off then s
  else
    let s1 := (s.setFld (ldoKey r rail) (12 + slice) 1 0).confirmFuse 4 s.railSource (regionDie r)
      (locSlice (regionRx r) (regionRy r) rail slice)
    if (s.region r).st = 5 ∧ rail = 0 ∨ (s.region r).st = 6 then s1 else s1.sliceOutcome r rail s.railSource

/-! ### Region commands (R353-R355) -/

/-- PWR_REG_RES for a command on a region. -/
def regRes (s : State) (r st reason : Nat) : State :=
  s.setReg (dieKey (regionDie r) PWR_REG_RES) (BitVec.ofNat 64 (st + reason * 2 ^ 2 + regionRx r * 2 ^ 5 + regionRy r * 2 ^ 8))

/-- A command on a region completes: PWR_REG_RES shows it while it is the most recent command (R361). -/
def resDone (s : State) (r : Nat) : State :=
  let k := dieKey (regionDie r) PWR_REG_RES
  if s.fld k 0 2 = 1 ∧ s.fld k 5 3 = regionRx r ∧ s.fld k 8 3 = regionRy r then s.regRes r 2 0 else s

/-- Row of regions that holds a die's edge ports (R198, R353). -/
def edgeRegionRow (p : Part) (d : Nat) : Nat := if dieRow p d = 0 then 0 else 7

/-- Refusal reason of a region command, the lowest that holds; 0 for none (R353). -/
def regionReason (s : State) (r op : Nat) : Nat :=
  let st := (s.region r).st
  let d := regionDie r
  if (op = 1 ∨ op = 4) ∧ (st = 5 ∨ st = 6 ∨ 2 ≤ s.dieState d) then 1
  else if (op = 2 ∨ op = 3) ∧ s.regionLoaded r then 2
  else if op = 3 ∧ regionRy r = edgeRegionRow s.part d then 3
  else if op = 1 ∧ st = 0 then 4
  else if (op = 1 ∨ op = 4) ∧ st = 2 then 5
  else if op = 0 ∨ 5 ≤ op then 6
  else 0

/-- A refused command (R353): class 0x77 and nothing else changes. -/
def regionRefuse (s : State) (r op reason : Nat) : State :=
  (s.regRes r 3 reason).raise 0x77 (regionLoc r)
    (reason + regionDie r * 2 ^ 8 + regionRx r * 2 ^ 11 + regionRy r * 2 ^ 14 + op * 2 ^ 17) none

/-- Turn-ons in progress of a die. -/
def turnOns (s : State) (d : Nat) : List Nat :=
  (List.range 64).filter fun i => (s.region (d * 64 + i)).on.isSome

/-- A turn-on whose first stage is due now. -/
def TurnOn.first (now arrival : Nat) (router forLoad : Bool) : TurnOn :=
  { stage := 0, sub := 0, due := now, arrival := arrival, quarter := false, onlyC := true, cFrom := 0, cLast := 0, waited := false,
    forLoad := forLoad, router := router }

/-- A staged turn-on begins (R356, R357); of a router rail its one stage (R355). A full off that waits for its detours is given up, and a
region that was off for heat no longer is (R388, R396). -/
def startTurnOn (s : State) (r : Nat) (router forLoad : Bool) : State :=
  let x := s.region r
  let order := (s.turnOns (regionDie r)).foldl (fun a i =>
    match (s.region (regionDie r * 64 + i)).on with | some o => max a (o.arrival + 1) | none => a) 0
  let s1 := if router then s else s.setFld (regionKey TEMP_R r) 21 1 0
  s1.setRegion r { x with
    st := if router then x.st else 2, on := some (TurnOn.first s.now order router forLoad), off := .idle,
    offLogged := x.offLogged && router, heatBelow := if router then x.heatBelow else none }

/-- The region's compute rail off and the region in state 1 (R354). -/
def computeOff (s : State) (r : Nat) : State := (s.computeRailOff r).setSt r 1

/-- Both rails off and the region in state 0. -/
def fullOff (s : State) (r : Nat) : State :=
  let s1 := ((s.computeRailOff r).routerRailOff r).setSt r 0
  s1.setRegion r { s1.region r with off := .idle }

/-- Routers outside a region, their rails on, that have a link into it: those that get the detours round it (R354). -/
def detourRing (s : State) (r : Nat) : List Nat :=
  ((cellsOf r).flatMap fun c => (List.range 12).filterMap fun l =>
    match s.linkFar c l with
    | .cell e => if cellRegion e ≠ r ∧ s.routerGate (cellRegion e) then some e else none
    | _ => none).eraseDups

/-- Full off ends once its detours are loaded in every router of the ring: the router rail opens (R354). -/
def fullOffEnd (s : State) (r : Nat) : State :=
  match (s.region r).off with
  | .detours got => if (s.region r).st = 1 ∧ (s.detourRing r).all got.contains then (s.fullOff r).resDone r else s
  | _ => s

/-- Full off (R354): the compute rail, and once the DETOUR_LOAD commands of the engine controller have loaded the detours the router
rail (log 10). -/
def fullOffBegin (s : State) (r : Nat) : State :=
  let s1 := s.computeOff r
  (s1.setRegion r { s1.region r with off := .detours [] }).fullOffEnd r

/-- The detours in router c are loaded; full offs that waited for them alone end. -/
def detoursIn (s : State) (c : Nat) : State :=
  s.regions.foldl (fun t e =>
    match (t.region e.1).off with
    | .detours got => (t.setRegion e.1 { t.region e.1 with off := .detours (c :: got) }).fullOffEnd e.1
    | _ => t) s

/-- Number of the admission interval of 2 µs (R357). -/
def interval (s : State) : Nat := s.now / 2000

/-- PWR_STAGE_CFG in force: a write takes effect at the next admission interval (R362). -/
def stageCfg (s : State) (d lo w : Nat) : Nat :=
  if (s.die d).cfgAt = s.interval + 1 then bits (s.die d).cfgOld lo w else s.fld (dieKey d PWR_STAGE_CFG) lo w

/-- Before a write of PWR_STAGE_CFG: the value in force stays till the interval's end. -/
def holdStageCfg (s : State) (d : Nat) : State :=
  let x := s.die d
  if x.cfgAt = s.interval + 1 then s
  else s.setDie d { x with cfgAt := s.interval + 1, cfgOld := (s.reg (dieKey d PWR_STAGE_CFG)).toNat }

/-- Compute off or full off (R354); in state 2 at the start of the next admission interval. -/
def regionOff (s : State) (r : Nat) (full : Bool) : State :=
  if (s.region r).st = 2 then
    match (s.region r).off with
    | .next f k => s.setRegion r { s.region r with off := .next (f || full) k }
    | _ => s.setRegion r { s.region r with off := .next full s.interval }
  else if full then s.fullOffBegin r else s.computeOff r

/-- An admission interval starts: a switch-off that waited for it abandons the turn-on and completes from there (R354). -/
def offDue (s : State) (r : Nat) : State :=
  match (s.region r).off with
  | .next full k =>
    if s.interval = k then s
    else
      let s1 := s.setRegion r { s.region r with off := .idle }
      if full then s1.fullOffBegin r else (s1.computeOff r).resDone r
  | _ => s

/-- A region command that was not refused (R353). A state it names already is left as it is, and so is a dark region. -/
def regionAct (s : State) (r op : Nat) : State :=
  let st := (s.region r).st
  if op = 1 then (if st = 1 then (s.regRes r 1 0).startTurnOn r false false else s.regRes r 2 0)
  else if op = 2 then
    (if st = 2 then (s.regRes r 1 0).regionOff r false else if st = 3 ∨ st = 4 then (s.regionOff r false).regRes r 2 0 else s.regRes r 2 0)
  else if op = 3 then (if 1 ≤ st ∧ st ≤ 4 then (s.regRes r 1 0).regionOff r true else s.regRes r 2 0)
  else if st = 0 then (s.regRes r 1 0).startTurnOn r true false
  else s.regRes r 2 0

/-- A write of PWR_REG_CMD (R353). -/
def regionCmd (s : State) (r op : Nat) : State :=
  let reason := s.regionReason r op
  let st := (s.region r).st
  let same := (op = 1 ∧ (st = 3 ∨ st = 4)) ∨ (op = 2 ∧ st = 1) ∨ (op = 3 ∧ st = 0) ∨ (op = 4 ∧ st = 1)
  if s.boot.off then s
  else if ¬ same ∧ reason ≠ 0 then s.regionRefuse r op reason else s.regionAct r op

/-! ### Staged turn-on (R357-R360) -/

/-- Regions of the die that share an edge or a corner with region r (R357). -/
def neighbours (r : Nat) : List Nat :=
  (List.range 64).filterMap fun i =>
    let q := regionDie r * 64 + i
    if q ≠ r ∧ regionRx q ≤ regionRx r + 1 ∧ regionRx r ≤ regionRx q + 1 ∧ regionRy q ≤ regionRy r + 1 ∧
        regionRy r ≤ regionRy q + 1 then some q else none

/-- A neighbour is at peak (R357 c): its estimate in mA is at least PEAK_PCT % of 30 A. -/
def peakNear (s : State) (r : Nat) : Bool :=
  (neighbours r).any fun q => s.stageCfg (regionDie r) 8 7 * 300 ≤ (s.region q).ic

/-- Inrush in A of the stage that is due. -/
def inrush (o : TurnOn) : Nat := if o.router then 4 else if o.quarter then 3 else 12

/-- The stage is closed; the next is due from now. -/
def nextStage (s : State) (o : TurnOn) : TurnOn :=
  let base := { o with due := s.now, onlyC := true, cFrom := 0, cLast := 0, waited := false }
  if o.quarter ∧ o.sub < 3 then { base with sub := o.sub + 1 } else { base with stage := o.stage + 1, sub := 0 }

/-- One turn-on considered in an interval, with the inrush admitted so far and whether admission has ended. -/
def admitOne (a : State × Nat × Bool) (r : Nat) : State × Nat × Bool :=
  let s := a.1
  let x := s.region r
  match x.on with
  | none => a
  | some o =>
    if a.2.2 ∨ o.full then a
    else
      let d := regionDie r
      let n := inrush o
      let okA := (s.die d).est + (a.2.1 + n) * 1000 ≤ s.fld (dieKey d PWR_DIE_I) 16 12 * 1000
      let okB := a.2.1 + n ≤ s.stageCfg d 0 8
      if ¬ (okA ∧ okB) then (s.setRegion r { x with on := some { o with onlyC := false, cLast := 0 } }, a.2.1, true)
      else if ¬ o.quarter ∧ ¬ o.router ∧ s.peakNear r then
        let k := s.interval
        let since := if o.cLast = k ∧ 0 < k then o.cFrom else 2000 * k
        let s1 := s.setRegion r { x with on := some { o with waited := true, cFrom := since, cLast := k + 1 } }
        (if o.waited then s1 else s1.incSatUn (dieKey d PWR_STAGE_STAT) 0 16 1, a.2.1, false)
      else (s.setRegion r { x with on := some (s.nextStage o) }, a.2.1 + n, false)

/-- Turn-ons of a die in order of arrival. -/
def byArrival (s : State) (d : Nat) : List Nat :=
  let arr := fun i => match (s.region (d * 64 + i)).on with | some o => o.arrival | none => 0
  (sortBy arr (s.turnOns d)).map fun i => d * 64 + i

/-- An admission interval of a die, once per 2 µs (R357). -/
def admitStages (s : State) (d : Nat) : State :=
  if (s.die d).admitAt = s.interval + 1 ∨ s.boot.off then s
  else
    let s1 := (List.range 64).foldl (fun t i => t.offDue (d * 64 + i)) (s.setDie d { s.die d with admitAt := s.interval + 1 })
    ((s1.byArrival d).foldl admitOne (s1, 0, false)).1

/-- A stage that failed only (c) in every interval for WAIT goes to quarter strength (R358); an interval in which it was not considered,
or failed (a) or (b), starts the count again (DEDUCED, log 37). -/
def quarter (s : State) (r : Nat) : State :=
  let x := s.region r
  match x.on with
  | some o =>
    if s.interval ≤ o.cLast ∧ 0 < o.cLast ∧ ¬ o.quarter ∧ o.cFrom + s.stageCfg (regionDie r) 16 8 * 100000 ≤ s.now ∧ ¬ s.boot.off then
      (s.setRegion r { x with on := some { o with quarter := true, sub := 0 } }).incSatUn (dieKey (regionDie r) PWR_STAGE_STAT) 16 8 1
    else s
  | none => s

/-- Whether a turn-on is to be abandoned: its stage was not admitted within ABORT because of (a) or (b) (R359). -/
def abandonDue (s : State) (r : Nat) : Bool :=
  match (s.region r).on with
  | some o => !o.onlyC && !o.full && decide (o.due + s.stageCfg (regionDie r) 24 8 * 1000000 ≤ s.now)
  | none => false

/-- The switches open and the region returns to state 1, a router rail to state 0. -/
def abandon (s : State) (r : Nat) : State :=
  let x := s.region r
  let router := match x.on with | some o => o.router | none => false
  ((s.setRegion r { x with st := if router then 0 else 1, on := none }).incSatUn (dieKey (regionDie r) PWR_STAGE_STAT) 24 8 1).regionRefuse r
    (if router then 4 else 1) 7

/-- The primer starts in every cell of a region (R174). -/
def primeRegion (s : State) (r : Nat) : State := (cellsOf r).foldl (fun t c => t.primerStart c) s

/-- A rail regulates to VSET 30 (R348, R360). -/
def railOn (s : State) (r rail : Nat) : State :=
  ((s.setFld (ldoKey r rail) 0 6 30).setFld (ldoKey r rail) 6 6 30).setFld (ldoKey r rail) 17 1 1

/-- The router and sync state of a cell after its primer, with the routing state that the die controller loads: links that failed stay
failed (R223, R355). -/
def primeRouter (s : State) (c : Nat) : State :=
  (s.setFld (cellKey c RTR_LINK_STAT) 0 12 (s.failedBits c)).setCell c { s.cell c with links := [], outs := [], sigs := [] }

/-- The detour entries of router e for its link l are removed (R355). -/
def undetour (s : State) (e l : Nat) : State :=
  (List.range 16).foldl (fun t i =>
    let k := cellKey e (RTR_DETOUR + 4 * i)
    if t.fld k 0 1 = 1 ∧ t.fld k 1 4 = l then t.setReg k 0 else t) s

/-- The detour entries round a region are removed (R355). -/
def undetourRegion (s : State) (r : Nat) : State :=
  (cellsOf r).foldl (fun t c => (List.range 12).foldl (fun u l =>
    match u.linkFar c l with
    | .cell e => if cellRegion e ≠ r then u.undetour e (backLink l) else u
    | _ => u) t) s

/-- A router rail is on (R355): the primer clears the router and sync state, routing state is loaded, the detours round the region go,
and the region enters state 1. -/
def routerUp (s : State) (r : Nat) : State :=
  let s1 := (cellsOf r).foldl (fun t c => t.primeRouter c) ((s.dropRegs r onRouter).railOn r 1)
  let s2 := s1.undetourRegion r
  (s2.setRegion r { s2.region r with on := none, st := 1 }).resDone r

/-- A rail that misses power good is handled as three failed slices (R350, R360). -/
def railMissed (s : State) (r : Nat) (o : TurnOn) : State :=
  s.regionDark r (if o.router then 1 else 0) 3 s.railSource

/-- Power good within 2 µs of the last stage (R360): the compute rail regulates to VSET 30 and the primer starts, but for the regions
of phase 3, which phase 5 primes (R356, R459). -/
def powerGood (s : State) (r : Nat) : State :=
  let x := s.region r
  match x.on with
  | none => s
  | some o =>
    if ¬ o.full ∨ s.boot.off then s
    else if o.due + 2000 < s.now then s.railMissed r o
    else if o.router then s.routerUp r
    else
      let s1 := (s.setRegion r { x with on := none }).railOn r 0
      if s.fld (ecKey BOOT_STAT) 0 4 = 3 then s1 else s1.primeRegion r

/-- A rail has missed power good: 2 µs have passed since its last stage (R360). -/
def goodMissed (s : State) (r : Nat) : State :=
  match (s.region r).on with
  | none => s
  | some o => if o.full ∧ o.due + 2000 ≤ s.now ∧ ¬ s.boot.off then s.railMissed r o else s

/-- Once every cell of a staging region is primed it enters state 3, or 4 if a rail is capped (R360). -/
def regionUp (s : State) (r : Nat) : State :=
  let x := s.region r
  if x.st = 2 ∧ x.on = none ∧ (cellsOf r).all (fun c => s.primed c) then
    (s.setSt r (if x.sliceCap then 4 else 3)).resDone r
  else s

/-- The primer of a cell finishes (R174). -/
def primerDone (s : State) (c : Nat) : State :=
  if s.fld (cellKey c SPM_PRIME_STAT) 1 1 = 1 then (s.primeCell c).regionUp (cellRegion c) else s

/-! ### Input (R338-R341) -/

/-- The field PLLs of a die stop (R401). -/
def pllsOff (s : State) (d : Nat) : State := s.setFld (dieKey d CLK_STAT) 0 4 0

/-- Every region of the engine is off, and with them every clocked unit and the field PLLs (R401). -/
def allOff (s : State) : State :=
  (List.range s.part.dies).foldl (fun t d => t.pllsOff d) ((List.range (s.part.dies * 64)).foldl (fun t r => t.fullOff r) s)

/-- Every job is lost (R341, R390, R431). -/
def loseJobs (s : State) : State := { s with jobs := [], panels := [], load := none }

/-- S becomes 0 and every held window is discarded (R378). -/
def zeroS (s : State) : State := { s with band := { s.band with s := 0, windows := [], exc := true } }

/-- The field rails and the currents they carry are 0 (R361), and with them the PLLs stop (R401). -/
def fieldOff (s : State) (d : Nat) : State :=
  ((s.setFld (dieKey d PWR_FIELD_V) 0 10 0).setFld (dieKey d PWR_DIE_I) 0 12 0).pllsOff d

/-- Input loss (R341); the engine is not ready again until it has started, and no other event of power delivery has an effect. -/
def inputLoss (s : State) : State :=
  let s1 := (List.range s.part.dies).foldl (fun t d => t.fieldOff d) ((s.allOff).loseJobs).zeroS
  (({ s1 with boot := { s1.boot with off := true, lost := true } }).setFld (ecKey BOOT_STAT) 4 1 0).raise 0x78 (.module 0) 0 none

/-- Currents of the blades in A, and with them the input's (R361). -/
def bladeCurrents (s : State) (ia ib : Nat) : State :=
  ((s.setAll PWR_IN 16 10 (min 1023 (ia + ib))).setAll PWR_BLADE 0 10 (min 1023 ia)).setAll PWR_BLADE 10 10 (min 1023 ib)

/-- Input measured at the blades, in units of 10 mV and in A: outside 48-58 V the excursion is logged once (R338). -/
def inputRange (s : State) (v ia ib : Nat) : State :=
  let was := s.vin
  let out := fun x => decide (x < 4800) || decide (5800 < x)
  if v < 4500 ∨ 6000 < v ∨ s.boot.off then s
  else
    let s1 := ((s.setAll PWR_IN 0 16 v).bladeCurrents ia ib).updateCeil false
    if out v && !(out was && was != 0) then s1.raise 0x76 (.module 0) 1 none else s1

/-- A blade is lost (R340). -/
def bladeLoss (s : State) (b : Nat) : State :=
  if 2 ≤ b ∨ s.fld (dieKey 0 PWR_BLADE) (20 + b) 1 = 1 ∨ s.boot.off then s
  else
    let s1 := (((s.setAll PWR_BLADE (20 + b) 1 1).setAll PWR_BLADE 22 10 s.part.limitOne).updateCeil true).raise 0x76 (.module b) 2 none
    if s.fld (dieKey 0 PWR_BLADE) (21 - b) 1 = 1 then s1.inputLoss else s1

/-- Both blades carry their share again (R340). -/
def bladeRestore (s : State) : State :=
  if s.fld (dieKey 0 PWR_BLADE) 20 2 = 0 ∨ s.boot.off then s
  else (((s.setAll PWR_BLADE 20 2 0).setAll PWR_BLADE 22 10 s.part.limitTwo).updateCeil false).raise 0x76 (.module 0) 2 none

/-! ### Converters and phases (R342-R346) -/

/-- A die is to be excluded (R64, R344, R346): what is found during a start is excluded by that start, at the die's turn of phase 3 or in
phase 8; what is found in service by the next, and class 0x8A carries severity engine (R77, log 41). -/
def excludeNext (s : State) (d reason : Nat) : State :=
  let serves := s.fld (ecKey BOOT_STAT) 4 1 == 1
  let t := { s with boot := { s.boot with excluded := s.boot.excluded ++ [(d, reason, serves)] } }
  if serves then t.raiseSev 2 0x8A (.dieUnit d 0) (reason + d * 2 ^ 8 + 2 ^ 11) none else t

/-- A die loses its supply (R344). -/
def supplyLoss (s : State) (d : Nat) : State :=
  let s1 := (List.range 64).foldl (fun t i => t.fullOff (d * 64 + i)) s
  (((s1.fieldOff d).setDie d { s1.die d with supplied := false }).raise 0x75 (.dieUnit d d) 0 none).excludeNext d 3

/-- A die without its converter is switched to the spare, or loses its supply (R343, R344). -/
def converterLost (s : State) (d : Nat) : State :=
  let k := dieKey d PWR_CONV
  if s.fld k 1 1 = 1 then
    (((s.setFld k 1 1 0).setAll PWR_CONV 2 1 0).setAll PWR_CONV 3 4 0xF).supplyLoss d
  else if s.fld k 0 1 = 0 then s
  else
    let s1 := s.setFld k 0 1 0
    if s.fld k 2 1 = 1 ∧ s.fld k 3 4 = 0xF then ((s1.setFld k 1 1 1).setAll PWR_CONV 3 4 d).raise 0x74 (.dieUnit d d) 0 none
    else s1.supplyLoss d

/-- The converter that feeds a die fails (R343). Which die the spare serves is settled at the end of the slot. -/
def converterFail (s : State) (d : Nat) : State := if s.boot.off then s else s.setDie d { s.die d with convFail := true }

/-- Converters that failed in the slot, by ascending die: of two that claim the spare together the lower-numbered die wins (R344). -/
def settleConverters (s : State) : State :=
  (List.range s.part.dies).foldl (fun t d =>
    if (t.die d).convFail ∧ ¬ t.boot.off then (t.setDie d { t.die d with convFail := false }).converterLost d else t) s

/-- The spare fails in standby (R343). -/
def spareFail (s : State) : State :=
  if s.boot.off then s
  else if s.fld (dieKey 0 PWR_CONV) 2 1 = 1 ∧ s.fld (dieKey 0 PWR_CONV) 3 4 = 0xF then
    (s.setAll PWR_CONV 2 1 0).raise 0x74 (.module s.part.dies) 0 none
  else s

/-- ILIM for a number of live phases (R345). -/
def ilim (n : Nat) : Nat := min 2160 (84 * n)

/-- A phase fails; the die's measured current in A decides the throttle request, whose level the spec does not state (log 3). -/
def phaseFail (s : State) (d p meas : Nat) : State :=
  if s.fld (dieKey d PWR_PHASE) p 1 = 0 ∨ 28 ≤ p ∨ s.boot.off then s
  else
    let s1 := s.setFld (dieKey d PWR_PHASE) p 1 0
    let n := onesBelow (s1.fld (dieKey d PWR_PHASE) 0 28) 28
    let s2 := (((s1.setFld (dieKey d PWR_DIE_I) 16 12 (ilim n)).setFld (dieKey d PWR_DIE_I) 0 12 meas).raise 0x73 (.dieUnit d p) n none)
    let s3 := if ilim n < meas then
        ((s2.fresh).setFld (dieKey d CLK_THR) 4 4 (1 + (Config.freeWord s2.free).toNat % 8)).setDie d { s2.die d with overLast := s2.now }
      else s2
    if n < 20 then (s3.raise 0x75 (.dieUnit d d) 0 none).excludeNext d 3 else s3

/-! ### Estimates (R366-R370) -/

/-- Temperature of a region in °C. -/
def temp (s : State) (r : Nat) : Int := toSigned 8 (s.fld (regionKey TEMP_R r) 0 8)

/-- A leakage table at set-point code v and temperature t, in mA: entries at steps of 5 °C, linear between them, in
whole mA rounded down (R367; the rounding is a DESIGN CHOICE, log 4). -/
def leak (dflt : Bool) (d i rail v : Nat) (t : Int) : Nat :=
  let k := t / 5
  let lo : Int := Config.leakage dflt d i rail v k
  let hi : Int := Config.leakage dflt d i rail v (k + 1)
  (lo + (hi - lo) * (t - 5 * k) / 5).toNat

/-- Charge of the counted events of a region on one rail, as a current over 2 µs in mA (R367). -/
def chargeMa (dflt : Bool) (d : Nat) (act : List Nat) (sel : Nat → Bool) : Nat :=
  ((List.range 8).foldl (fun a i => if sel i then a + Config.weight dflt d i * (act[i]?).getD 0 else a) 0) / 2000000

/-- A region's estimate from its counters, which are then clear (R366, R367). -/
def estimateRegion (s : State) (r : Nat) : State :=
  let x := s.region r
  let d := regionDie r
  let dflt := !s.flash.calOk
  let ic := leak dflt d (r % 64) 0 (s.vset r) (s.temp r) + chargeMa dflt d x.act (· != 5)
  let ir := leak dflt d (r % 64) 1 (s.fld (ldoKey r 1) 0 6) (s.temp r) + chargeMa dflt d x.act (· == 5)
  s.setRegion r { x with act := List.replicate 8 0, ic := ic, ir := ir }

/-- The die estimate E in mA (R367). -/
def estimateDie (s : State) (d : Nat) : State :=
  let s1 := (List.range 64).foldl (fun t i => t.estimateRegion (d * 64 + i)) s
  let e := ((List.range 64).map fun i => (s1.region (d * 64 + i)).ic + (s1.region (d * 64 + i)).ir).sum + Config.quiescent d
  s1.setDie d { s1.die d with est := e }

/-- Field-rail current in A that a die's phases have measured, every 100 µs (R361); a throttle request is held until it has stayed below
ILIM for 1 ms (R408). -/
def measured (s : State) (d : Nat) (meas : Option Nat) : State :=
  match meas with
  | some a =>
    let t := s.setFld (dieKey d PWR_DIE_I) 0 12 (min 4095 a)
    if s.fld (dieKey d PWR_DIE_I) 16 12 ≤ a then t.setDie d { t.die d with overLast := s.now } else t
  | none => s

/-- One die's term of R368 in W. -/
def dieWatts (s : State) (d : Nat) : Nat :=
  (s.die d).est * s.fld (dieKey d PWR_FIELD_V) 0 10 * 65536 / Config.efficiency (s.die d).est / 1000000

/-- A reading of the input, every 100 µs: PWR_IN takes it, and the input power VIN × IIN counts in the averages (R361, R368, R371, R375). -/
def inputReading (s : State) (rd : Option (Nat × Nat × Nat)) : State :=
  match rd with
  | none => s
  | some (v, ia, ib) =>
    let t := s.inputRange v ia ib
    let w := t.vin * t.fld (dieKey 0 PWR_IN) 16 10 / 100
    let b := t.band
    { t with band := { b with
        samples := (t.now, w) :: b.samples.filter fun e => decide (t.now ≤ e.1 + 60000000000),
        trimSum := b.trimSum + w, trimCnt := b.trimCnt + 1, judgeSum := b.judgeSum + w, judgeCnt := b.judgeCnt + 1 } }

/-- The engine estimate P (R368) and the ceiling's throttle request (R370); it falls again by one level at an estimate at or
below the ceiling (log 11). -/
def engineEstimate (s : State) (paux : Nat) : State :=
  let p := s.fld (ecKey BAND_TRIM) 0 16 * (((List.range s.part.dies).map s.dieWatts).sum + paux) / 32768
  let b := s.band
  let thr := if s.ceil < p then min 8 (b.ceilThr + 1) else b.ceilThr - 1
  (({ s with band := { b with p := p, ceilThr := thr, pAcc := b.pAcc + p, pN := b.pN + 1 } }).setFld (ecKey BAND_EST) 0 24 p).issueLevel

end State

/-! ### Commands -/

/-- PRIMER_DONE (R174, R223, R360). -/
def execPrimerDone (c ecc : Nat) (s : State) : Res := .next ((s.routerEcc c ecc).primerDone c)

/-- INPUT_OUT_OF_RANGE (R338). -/
def execInputOutOfRange (v ia ib : Nat) (s : State) : Res := .next (s.inputRange v ia ib)

/-- INPUT_LOSS (R341, R378). -/
def execInputLoss (s : State) : Res := .next s.inputLoss

/-- BLADE_LOSS (R340). -/
def execBladeLoss (b : Nat) (s : State) : Res := .next (s.bladeLoss b)

/-- BLADE_RESTORE (R340). -/
def execBladeRestore (s : State) : Res := .next s.bladeRestore

/-- BUS_CONVERTER_FAIL (R343, R344). -/
def execBusConverterFail (d : Nat) (s : State) : Res := .next (s.converterFail d)

/-- SPARE_CONVERTER_FAIL (R343). -/
def execSpareConverterFail (s : State) : Res := .next s.spareFail

/-- PHASE_FAIL (R345, R346). -/
def execPhaseFail (d p meas : Nat) (s : State) : Res := .next (s.phaseFail d p meas)

/-- REGION_COMPUTE_ON (R353). -/
def execRegionComputeOn (d rx ry : Nat) (s : State) : Res := .next (s.regionCmd (regionAt d rx ry) 1)

/-- REGION_COMPUTE_OFF (R353, R354). -/
def execRegionComputeOff (d rx ry : Nat) (s : State) : Res := .next (s.regionCmd (regionAt d rx ry) 2)

/-- REGION_FULL_OFF (R353, R354). -/
def execRegionFullOff (d rx ry : Nat) (s : State) : Res := .next (s.regionCmd (regionAt d rx ry) 3)

/-- REGION_ROUTER_ON (R353, R355). -/
def execRegionRouterOn (d rx ry : Nat) (s : State) : Res := .next (s.regionCmd (regionAt d rx ry) 4)

/-- QUARTER_STRENGTH (R358). -/
def execQuarterStrength (d rx ry : Nat) (s : State) : Res := .next (s.quarter (regionAt d rx ry))

/-- ACTIVITY_ESTIMATE (R361, R366, R367); an uncorrectable error in die-controller memory is class 0x86 (R443). -/
def execActivityEstimate (d : Nat) (upset : Bool) (meas : Option Nat) (s : State) : Res :=
  .next (if upset then s.raise 0x86 (.dieUnit d 0) (1 + d * 2 ^ 8) none else (s.measured d meas).estimateDie d)

/-- ENGINE_ESTIMATE (R361, R368, R370). -/
def execEngineEstimate (paux : Nat) (rd : Option (Nat × Nat × Nat)) (s : State) : Res := .next ((s.inputReading rd).engineEstimate paux)

end Sys2Proof.Machine
end

