-- ==== Sys2Proof/Machine/Band.lean ====
section
/-! DEFINITION. Power control and heat (R369-R389): the trim factor, modes, the band controller and its ballast, serve windows
and ramps, the rack bus, the orphan state, and the temperature rules of a region. -/

namespace Sys2Proof.Machine

namespace State

/-- The tick of facility time (R379). -/
def ftick (s : State) : Nat := s.facility / 1000

def setBand (s : State) (b : Band) : State := { s with band := b }

/-- A record of class 0x7A (R398). -/
def bandRec (s : State) (reason : Nat) : State := s.raise 0x7A (.engine 0) reason none

/-- A record of class 0x7A limited to one per second for its reason (R385); a withheld one counts in SUPP (R424). -/
def bandRecLim (s : State) (reason : Nat) : State :=
  let key := 0x7A + 256 * reason
  match s.err.rates.find? fun r => r.cls == key with
  | some r =>
    if s.now < r.last + 1000000000 then
      s.setRate { cls := 0x7A, loc := .engine 0, last := r.last, supp := s.suppOf 0x7A (.engine 0) + 1 }
    else (s.bandRec reason).setRate { cls := key, loc := .engine 0, last := s.now, supp := 0 }
  | none => (s.bandRec reason).setRate { cls := key, loc := .engine 0, last := s.now, supp := 0 }

/-! ### The rack bus: sending (R383, R384, R386) -/

def node (s : State) : Nat := s.fld (ecKey BAND_BUS_CFG) 0 5
def busOn (s : State) : Bool :=
  s.fld (ecKey BAND_BUS_CFG) 5 1 == 1 && !s.boot.off && !s.boot.modRst && s.fld (ecKey BOOT_STAT) 13 1 == 0
def keyIn (s : State) (k : Nat) : Bool := ((s.band.keys[k]?).getD none).isSome

/-- The key the engine signs with: that of the last accepted frame, else key 0 if installed, else key 1. -/
def signKey (s : State) : Nat :=
  match s.band.ksel with
  | some k => k
  | none => if s.keyIn 0 then 0 else 1

/-- MAC of a frame with an identifier and its bytes 0-23, under rack key k (R384). -/
def rackMac (s : State) (k : Nat) (id : Nat) (b : List Byte) : List Byte :=
  (hmac256 ((Config.rackKey (((s.band.keys[k]?).getD none).getD [])).take 32) (toLe 2 id ++ b)).take 8

/-- A frame of the engine's own with its first 15 bytes; with no rack key, or off the bus, none is sent. -/
def sendRack (s : State) (ftype : Nat) (body : List Byte) : State :=
  if s.busOn && (s.keyIn 0 || s.keyIn 1) then
    let b := body ++ List.replicate (15 - body.length) 0 ++ toLe 1 s.signKey ++ toLe 8 s.facility
    s.emit (.can ftype s.node (b ++ s.rackMac s.signKey (ftype * 32 + s.node) b))
  else s

/-- An EVENT frame (R384): its four detail bytes, whose meaning is not stated, are a free value (log 3). -/
def sendEvent (s : State) (code : Nat) : State :=
  (s.fresh).sendRack 0x08 (toLe 1 code ++ toLe 4 (Config.freeWord s.free).toNat)

/-- Hottest region in °C. -/
def hottest (s : State) : Int :=
  (List.range (s.part.dies * 64)).foldl (fun (a : Int) (r : Nat) => max a (s.temp r)) (-128)

/-- T and RATE in force: an accepted BUDGET frame changes them from the next tick (R377). -/
def rampTarget (s : State) : Nat :=
  match s.band.chg with
  | some (k, t, _) => if k = s.ftick then t else s.band.t
  | none => s.band.t
def rateIn (s : State) : Nat :=
  match s.band.chg with
  | some (k, _, r) => if k = s.ftick then r else s.band.rate
  | none => s.band.rate

/-- The current tick lies in a held window (R376). -/
def inWindow (s : State) : Bool := s.band.windows.any fun w => w.start ≤ s.ftick && s.ftick < w.start + w.len

/-- A STATUS frame is queued at the node's tick slot, in place of one not yet sent (R384, R386). -/
def statusFrame (s : State) : State :=
  if (s.ftick + 100000 - 3000 * s.node % 100000) % 100000 = 0 then
    let b := s.band
    let flags := b.mode + (if b.orphan then 2 else 0) + (if b.s ≠ uW s.rampTarget then 4 else 0) + s.fld (ecKey BAND_STAT) 0 1 * 8 +
      s.time.state * 16 + (if b.stopped then 128 else 0) + b.throttle * 256
    s.setBand { b with
      statusQ := some (toLe 4 (b.s / 1000000) ++ toLe 4 b.lastAvg ++ toLe 4 b.b ++ toLe 2 flags ++ toLe 1 (ofSigned 8 s.hottest)) }
  else s

/-- The queued STATUS frame leaves (R386); it is stamped and signed as it does (R384). -/
def busSend (s : State) : State :=
  match s.band.statusQ with
  | some b => if s.busOn then (s.setBand { s.band with statusQ := none }).sendRack 0x0A b else s
  | none => s

/-- RAMP_REQ in rack mode (R386). -/
def rampRequest (s : State) (w : Nat) : State :=
  if s.band.mode = 1 then s.sendRack 0x09 (toLe 4 (bits w 0 24)) else s

/-! ### Ballast (R249, R373, R374) -/

/-- A cell is eligible for ballast. -/
def eligible (s : State) (c : Nat) : Bool :=
  let r := cellRegion c
  let cap : Int := s.fld (dieKey (cellDie c) TEMP_CFG) 0 8
  let jobOk := match s.panelOf c with
    | none => true
    | some p => p.ballast && (match s.job? p.job with | some j => 2 ≤ j.state | none => false)
  (s.logicalOf c).isSome && jobOk && s.coreGate r && s.fld (regionKey TEMP_R r) 22 1 == 0 &&
    decide (s.temp r < cap - 5)

/-- Eligible cells in the order in which they are enabled: one cell of each region of each die in turn. -/
def eligibleCells (s : State) : List Nat :=
  ((List.range 36).flatMap fun i => (List.range (s.part.dies * 64)).filterMap fun r => (cellsOf r)[i]?).filter s.eligible

def setBal (s : State) (v : Nat) (cs : List Nat) : State := cs.foldl (fun t c => t.hwFld (cellKey c MXE_BAL_CTRL) 0 1 v) s

/-- Enable up to n more cells. -/
def balOn (s : State) (n : Nat) : State :=
  let cs := ((s.eligibleCells).filter fun c => !s.band.nbal.contains c).take n
  (s.setBal 1 cs).setBand { s.band with nbal := cs.reverse ++ s.band.nbal }

/-- Disable n cells, the newest first. -/
def balOff (s : State) (n : Nat) : State :=
  (s.setBal 0 (s.band.nbal.take n)).setBand { s.band with nbal := s.band.nbal.drop n }

/-- Ballast leaves the cells of a region. -/
def balWithdraw (s : State) (r : Nat) : State :=
  let gone := s.band.nbal.filter fun c => cellRegion c == r
  (s.setBal 0 (cellsOf r)).setBand { s.band with nbal := s.band.nbal.filter fun c => !gone.contains c }

def tol (s : State) : Nat := s.fld (ecKey BAND_CTRL) 1 5
def balStep (s : State) : Nat := s.fld (ecKey BAND_CTRL) 16 16

/-- Cells in which ballast is no longer permitted lose it (R249, R374). -/
def balSettle (s : State) : State :=
  let gone := s.band.nbal.filter fun c => !s.eligible c
  (s.setBal 0 gone).setBand { s.band with nbal := s.band.nbal.filter s.eligible }

/-- The band controller's step (R373); P in µW against S. -/
def bandStep (s0 : State) : State :=
  let s := s0.balSettle
  let b := s.band
  if b.mode ≠ 1 ∨ b.stopped then s
  else
    let p := uW b.p
    if min (b.s * (200 + s.tol) / 200) (uW s.ceil) < p then
      if b.nbal ≠ [] then s.balOff (4 * s.balStep)
      else (s.setBand { b with throttle := min 8 (b.throttle + 1) }).issueLevel
    else if b.s < p then s.balOff s.balStep
    else if p < b.s then
      if 0 < b.throttle then
        if p < b.s * (400 - s.tol) / 400 then (s.setBand { b with throttle := b.throttle - 1 }).issueLevel else s
      else s.balOn s.balStep
    else s

/-! ### Trim, averages, modes (R368-R371, R375, R378) -/

/-- G after an update: at most 1 % away, and held within 0.90 to 1.10 of 32,768; whether the limit held it. -/
def trimNext (g raw : Nat) : Nat × Bool :=
  let a := max (g - g / 100) (min (g + g / 100) raw)
  if a < 29492 then (29492, true) else if 36044 < a then (36044, true) else (a, false)

/-- Number of the 100 ms interval: of facility time while it is locked or in holdover, else of local time (R368). -/
def interval100 (s : State) : Nat := (if s.time.state = 2 ∨ s.time.state = 3 then s.ftick else s.now / 1000) / 100000

/-- The mean of n readings in W with a sum; of none it is a free value (log 3). -/
def meanOf (s : State) (sum n : Nat) : Nat := if n = 0 then (Config.freeWord s.free).toNat % 2 ^ 24 else sum / n

/-- The trim update at the end of a 100 ms interval, from the mean measured input and the mean of P over it (R368). With no estimate the
quotient is a free value (log 3). -/
def trimUpdate (s0 : State) : State :=
  if s0.band.trimIv = s0.interval100 then s0 else
  let est := if s0.band.pN = 0 then 0 else s0.band.pAcc / s0.band.pN
  let meas := s0.meanOf s0.band.trimSum s0.band.trimCnt
  let open_ := decide (est = 0) || decide (s0.band.trimCnt = 0)
  let s := s0.setBand { s0.band with pAcc := 0, pN := 0, trimSum := 0, trimCnt := 0, trimIv := s0.interval100 }
  let g := s.fld (ecKey BAND_TRIM) 0 16
  let raw := if est = 0 then (Config.freeWord s.free).toNat else g * meas / est
  let s0 := if open_ then s.fresh else s
  let r := trimNext g raw
  let s1 := ((s0.setFld (ecKey BAND_TRIM) 0 16 r.1).updateCeil false)
  let s2 := s1.setBand { s1.band with trimLogged := r.2 }
  if r.2 && !s.band.trimLogged then s2.bandRec 11 else s2

/-- BAND_STAT's three interval bits. -/
def setInterval (s : State) (inb under above : Bool) : State :=
  s.setFld (ecKey BAND_STAT) 0 3 ((if inb then 1 else 0) + (if under then 2 else 0) + (if above then 4 else 0))

/-- Mean of S over the interval in µW. -/
def meanS (s : State) : Nat := if s.band.sN = 0 then s.band.s else s.band.sAcc / s.band.sN

/-- The judgement of a 100 ms interval in rack mode, at its end (R375); one in which S moved by an event of R378 is not judged. -/
def intervalJudge (s : State) : State :=
  if s.band.judgeIv = s.interval100 then s else
  let avg := s.meanOf s.band.judgeSum s.band.judgeCnt
  let m := s.meanS
  let s := if s.band.judgeCnt = 0 then s.fresh else s
  let s0 := (s.setBand { s.band with lastAvg := avg, sAcc := 0, sN := 0, exc := false, judgeSum := 0, judgeCnt := 0, judgeIv := s.interval100 }).setFld (ecKey BAND_MEAS) 0 24 avg
  let lo := uW avg < m * (200 - s.tol) / 200
  let hi := m * (200 + s.tol) / 200 < uW avg
  if s.band.mode ≠ 1 ∨ s.band.exc then s0
  else if lo && decide (s.band.nbal.length = s.eligibleCells.length) then
    let s1 := ((s0.setInterval false true false).incSatUn (ecKey BAND_OOB) 0 16 1).setBand { s0.band with oobLogged := true }
    if s.band.oobLogged then s1 else (s1.bandRec 9).sendEvent 5
  else if hi && decide (s.band.throttle = 8) then
    let s1 := ((s0.setInterval false false true).incSatUn (ecKey BAND_OOB) 16 16 1).setBand { s0.band with oobLogged := true }
    if s.band.oobLogged then s1 else (s1.bandRec 10).sendEvent 5
  else (s0.setInterval (!lo && !hi) false false).setBand { s0.band with oobLogged := s0.band.oobLogged && (lo || hi) }

/-- The trailing average of the measured input over WIN_S seconds (R369). -/
def trailing (s : State) : Nat :=
  let ws := s.band.samples.filter fun e => decide (s.now < e.1 + s.fld (ecKey BAND_AVG) 24 6 * 1000000000)
  s.meanOf (ws.map (·.2)).sum ws.length

/-- Average mode's evaluation of the trailing average, one per 10 ms (R371). -/
def averageEval (s0 : State) : State :=
  let avg := s0.trailing
  let s := if s0.band.samples = [] then s0.fresh else s0
  let b : Band := { s.band with avgIv := s.now / 10000000 + 1 }
  let lim := s.fld (ecKey BAND_AVG) 0 24
  if b.mode ≠ 0 ∨ s0.band.avgIv = s0.now / 10000000 + 1 then s0
  else if lim < avg then (s.setBand { b with avgThr := min 8 (b.avgThr + 1) }).issueLevel
  else if avg < lim then (s.setBand { b with avgThr := b.avgThr - 1 }).issueLevel
  else s.setBand b

def orphanBudget (s : State) : Nat := min (s.fld (ecKey RAMP_ORPHAN) 0 24) s.ceil

/-- A written MODE takes effect at the start of the next 100 ms interval (R369, R371, R378). -/
def modeChange (s : State) : State :=
  let b := s.band
  let m := s.fld (ecKey BAND_CTRL) 0 1
  if m = b.mode ∨ b.modeIv = s.interval100 then s
  else if m = 0 then
    ((s.balOff b.nbal.length).setBand { b with mode := 0, windows := [], throttle := 0, nbal := [], exc := false }).issueLevel
  else
    let s1 := s.setBand { b with mode := 1, avgThr := 0, exc := true, chg := none, s := uW (min b.lastAvg s.ceil), b := s.orphanBudget, t := s.orphanBudget,
                                 bReq := s.orphanBudget, tReq := s.orphanBudget, rate := 0 }
    s1.issueLevel

/-! ### Serve windows and ramps (R372, R376-R378, R387) -/

/-- Refusal of a grant (R376). -/
def grantBad (s : State) (w : Window) : Bool :=
  w.len == 0 || decide (60000000 < w.len) || decide (w.start + w.len ≤ s.ftick) || decide (s.ftick + 3600000000 < w.start) ||
    (s.band.windows.any fun v => w.start < v.start + v.len && v.start < w.start + w.len) ||
    (s.band.windows.any fun v => v.wid == w.wid) || decide (8 ≤ s.band.windows.length)

/-- A window placed in order of START. -/
def placeWindow (ws : List Window) (w : Window) : List Window :=
  ws.takeWhile (fun v => v.start ≤ w.start) ++ w :: ws.dropWhile (fun v => v.start ≤ w.start)

/-- A grant: an exact repeat of a held window has no effect, a bad one is refused with reason 4. -/
def grant (s : State) (w : Window) : State :=
  if s.band.mode = 0 ∨ s.band.windows.contains w then s
  else if s.grantBad w then s.bandRecLim 4
  else s.setBand { s.band with windows := placeWindow s.band.windows w }

/-- Ramp rate in force in W/s. -/
def rampRate (s : State) : Nat := if s.rateIn = 0 then s.fld (ecKey RAMP_RATE) 0 16 else s.rateIn

/-- `x` moved toward `y` by at most `d`. -/
def toward (x y d : Nat) : Nat := if x < y then min y (x + d) else max y (x - d)

/-- The end of a tick: S moves inside a window, or descends in the orphan state (R377, R378). -/
def rampTick (s : State) : State :=
  let b := s.band
  if b.lastTick = s.ftick + 1 ∨ b.mode ≠ 1 then s
  else
    let sNew := if b.orphan then min b.s (toward b.s (uW b.b) (s.fld (ecKey RAMP_RATE) 0 16))
      else if (s.time.state = 2 ∨ s.time.state = 3) ∧ s.inWindow then toward b.s (uW s.rampTarget) s.rampRate else b.s
    s.setBand { b with s := sNew, lastTick := s.ftick + 1, sAcc := b.sAcc + sNew, sN := b.sN + 1,
                       exc := b.exc || (b.orphan && sNew != b.s),
                       windows := b.windows.filter fun w => s.ftick + 1 < w.start + w.len }

/-- The orphan state is entered after 2,000 ms of silence, in either mode (R387; DEDUCED, log 38). -/
def orphanEnter (s : State) : State :=
  let b := s.band
  if b.orphan ∨ s.now < b.heard + 2000000000 then s
  else ((s.setBand { b with orphan := true, b := s.orphanBudget, t := min b.t s.orphanBudget, bReq := s.orphanBudget, tReq := b.t, chg := none, windows := [] }).sendEvent 3).bandRec 5

/-! ### The rack bus: receiving (R385) -/

/-- What the checks of a received frame decide. -/
inductive FrameRes where
  | drop
  | ignored
  | conflict
  | malformed
  | auth
  | stale
  | ok
deriving DecidableEq, Repr

/-- Field of the frame's data. -/
def fdata (f : RackFrame) (lo n : Nat) : Nat := ofLe ((f.data.drop lo).take n)

/-- First byte of a TYPE's reserved bytes; the bytes from it to 14 are zero. -/
def reservedFrom (ftype : Nat) : Nat := if ftype = 1 then 8 else if ftype = 2 ∨ ftype = 4 then 14 else if ftype = 3 then 12 else 2

/-- Freshness (R385): in pin mode a TIME frame needs neither the time state nor the ±1 s window before lock. -/
def stale (s : State) (f : RackFrame) : Bool :=
  let ts := fdata f 16 8
  let exempt := f.ftype == 1 && s.fld (ecKey TIME_CFG) 0 2 == 0 && (s.time.state == 0 || s.time.state == 1)
  (!exempt && (!(s.time.state == 2 || s.time.state == 3) || decide (ts + 1000000000 < s.facility) ||
    decide (s.facility + 1000000000 < ts))) || decide (ts ≤ s.band.lastTs)

/-- The MAC of a received frame verifies under the key it names (R384, R385). -/
def macOk (s : State) (f : RackFrame) : Bool :=
  decide (f.data.drop 24 = s.rackMac (fdata f 15 1) (f.ftype * 32 + f.node) (f.data.take 24))

/-- The checks in their order. -/
def frameCheck (s : State) (f : RackFrame) : FrameRes :=
  if f.extended || !s.busOn then .drop
  else if ! [1, 2, 3, 4, 5, 8, 9, 10].contains f.ftype then .ignored
  else if 3 ≤ f.ftype ∧ f.ftype ≤ 5 ∧ f.node ≠ s.node then .ignored
  else if f.ftype ≤ 2 ∧ f.node ≠ 0 then .ignored
  else if 8 ≤ f.ftype then (if f.node = s.node ∧ ¬ f.ownEcho then .conflict else .drop)
  else if !f.fdBrs || f.data.length != 32 || 2 ≤ fdata f 15 1 || fdata f (reservedFrom f.ftype) (15 - reservedFrom f.ftype) != 0 then
    .malformed
  else if !s.macOk f || !s.keyIn (fdata f 15 1) then .auth
  else if s.stale f then .stale
  else .ok

/-- The counts and records of a frame that fails, and the bookkeeping of one that passes. -/
def frameReceive (s : State) (f : RackFrame) : State × Bool :=
  match s.frameCheck f with
  | .drop => (s, false)
  | .ignored => (s.incSatUn (ecKey BAND_BUS_CNT) 24 8 1, false)
  | .conflict => (s.bandRecLim 7, false)
  | .malformed => ((s.incSatUn (ecKey BAND_BUS_CNT) 0 8 1).bandRecLim 1, false)
  | .auth => ((s.incSatUn (ecKey BAND_BUS_CNT) 8 8 1).bandRecLim 2, false)
  | .stale => ((s.incSatUn (ecKey BAND_BUS_CNT) 16 8 1).bandRecLim 3, false)
  | .ok =>
    if s.band.stopped then (s, false)
    else (s.setBand { s.band with heard := s.now, lastTs := fdata f 16 8, ksel := some (fdata f 15 1) }, true)

/-- A frame of TYPE `ft` acts by `act` when it passes; a frame of another TYPE is only checked. -/
def onFrame (s : State) (ft : Nat) (f : RackFrame) (act : State → State) : State :=
  match s.frameReceive f with
  | (t, true) => if f.ftype = ft then act t else t
  | (t, false) => t

def windowOf (f : RackFrame) : Window := { start := fdata f 0 8, len := fdata f 8 4, wid := fdata f 12 2 }

/-- A BUDGET frame's body (R372, R377, R387). -/
def budget (s : State) (f : RackFrame) : State :=
  let b := s.band
  let bw := min (fdata f 0 4) s.ceil
  let s1 := s.setBand { b with b := bw, t := min (fdata f 4 4) bw, bReq := fdata f 0 4, tReq := fdata f 4 4, rate := fdata f 8 4, orphan := false, chg := some (s.ftick, s.rampTarget, s.rateIn) }
  if b.orphan then (s1.sendEvent 4).bandRec 6 else s1

/-- A CANCEL frame's body (R377). -/
def cancel (s : State) (f : RackFrame) : State :=
  let w := fdata f 0 2
  s.setBand { s.band with windows := if w = 0xFFFF then [] else s.band.windows.filter fun v => v.wid != w }

/-! ### Heat (R388, R389) -/

def thCap (s : State) (d : Nat) : Int := s.fld (dieKey d TEMP_CFG) 0 8
def thStop (s : State) (d : Nat) : Int := s.fld (dieKey d TEMP_CFG) 8 8
def sensorBad (s : State) (r : Nat) : Bool := s.fld (regionKey TEMP_R r) 23 1 == 1

/-- Highest reading among regions whose sensors are in service. -/
def highest (s : State) (rs : List Nat) : Option Int :=
  (rs.filter fun q => !s.sensorBad q).foldl (fun (a : Option Int) q => some (match a with | some x => max x (s.temp q) | none => s.temp q)) none

/-- The temperature a region is judged by: its reading, or the substitute of R389. -/
def judgedTemp (s : State) (r : Nat) (t : Int) : Int :=
  if s.sensorBad r then
    match s.highest (neighbours r) with
    | some x => x + 5
    | none => match s.highest ((List.range 64).map fun i => regionDie r * 64 + i) with
      | some x => x + 5
      | none => s.temp r
  else t

def heatRec (s : State) (r reason : Nat) : State :=
  s.raise 0x7B (regionLoc r) (reason + regionDie r * 2 ^ 8 + regionRx r * 2 ^ 11 + regionRy r * 2 ^ 14) none

/-- TEMP_Rn.T and MAX take a reading; MAX takes no substitute of R389. -/
def setTemp (s : State) (r : Nat) (t : Int) : State :=
  let old := toSigned 8 (s.fld (regionKey TEMP_R r) 8 8)
  let m := if s.sensorBad r then old else max old t
  (s.setFld (regionKey TEMP_R r) 0 8 (ofSigned 8 t)).setFld (regionKey TEMP_R r) 8 8 (ofSigned 8 m)

/-- Ballast is withdrawn, and returns, for heat. -/
def heatBallast (s : State) (r : Nat) (t : Int) : State :=
  let cap := s.thCap (regionDie r)
  if cap - 5 ≤ t then (s.balWithdraw r).setFld (regionKey TEMP_R r) 22 1 1
  else if t < cap - 8 ∧ ¬ s.sensorBad r then s.setFld (regionKey TEMP_R r) 22 1 0
  else s

/-- The pulse cap of a region with loaded work; a failed sensor's cap stays. -/
def heatCap (s : State) (r : Nat) (t : Int) : State :=
  let cap := s.thCap (regionDie r)
  let x := s.region r
  if s.sensorBad r then s
  else if cap ≤ t then
    let s1 := (s.setFld (regionKey TEMP_R r) 16 5 (16 - min 8 (t - cap + 1).toNat)).setRegion r { x with capLogged := true }
    if x.capLogged then s1 else s1.heatRec r 1
  else if t < cap - 2 then (s.setFld (regionKey TEMP_R r) 16 5 16).setRegion r { x with capLogged := false }
  else s

/-- A region without loaded work is switched off for heat. -/
def heatOff (s : State) (r : Nat) : State :=
  let x := s.region r
  if 2 ≤ x.st ∧ x.st ≤ 4 then
    let s1 := (s.regionOff r false).setFld (regionKey TEMP_R r) 21 1 1
    let s2 := s1.setRegion r { s1.region r with offLogged := true, heatBelow := none }
    if x.offLogged then s2 else s2.heatRec r 2
  else s

/-- Since when a switched-off region has been cool enough, and since when a region has been at the stop threshold. -/
def heatTimers (s : State) (r : Nat) (t : Int) : State :=
  let x := s.region r
  let d := regionDie r
  let below := if t < s.thCap d - 10 then (match x.heatBelow with | some v => some v | none => some s.now) else none
  let stop := if s.thStop d ≤ t then (match x.stopSince with | some v => some v | none => some s.now) else none
  s.setRegion r { x with heatBelow := below, stopSince := stop }

/-- A region's temperature report (R388, R389). -/
def tempEval (s : State) (r : Nat) (t : Int) : State :=
  let j := s.judgedTemp r t
  let s1 := ((s.setTemp r j).heatBallast r j).heatTimers r j
  if s1.regionLoaded r then s1.heatCap r j
  else if s1.thCap (regionDie r) ≤ j then (s1.heatOff r).heatTimers r j
  else s1.heatCap r j

/-- A region switched off for heat comes back on (R388). -/
def heatOn (s : State) (r : Nat) : State :=
  let x := s.region r
  if s.fld (regionKey TEMP_R r) 21 1 == 1 && x.st == 1 && x.off == .idle &&
      (match x.heatBelow with | some v => decide (v + 1000000000 ≤ s.now) | none => false) then
    s.startTurnOn r false false
  else s

/-- A sensor fails its self-check (R389). -/
def sensorFail (s : State) (r : Nat) : State :=
  if s.sensorBad r then s
  else ((((s.balWithdraw r).setFld (regionKey TEMP_R r) 22 1 1).setFld (regionKey TEMP_R r) 23 1 1).setFld (regionKey TEMP_R r) 16 5
    11).heatRec r 3

end State

/-! ### Commands -/

/-- BAND_CONTROL_STEP (R373, R374). -/
def execBandControlStep (s : State) : Res := .next s.bandStep

/-- TRIM_UPDATE (R368). -/
def execTrimUpdate (s : State) : Res := .next s.trimUpdate

/-- BAND_INTERVAL_JUDGE (R375). -/
def execBandIntervalJudge (s : State) : Res := .next s.intervalJudge

/-- AVERAGE_MODE_EVAL (R371). -/
def execAverageModeEval (s : State) : Res := .next s.averageEval

/-- BAND_MODE_CHANGE (R369, R378). -/
def execBandModeChange (s : State) : Res := .next s.modeChange

/-- TIME_FRAME (R384, R385): the second of the next TB_PPS edge. -/
def execTimeFrame (f : RackFrame) (s : State) : Res :=
  .next (s.onFrame 1 f fun t =>
    if t.fld (ecKey TIME_CFG) 0 2 = 0 then { t with time := { t.time with next := some (State.fdata f 0 8) } } else t)

/-- WINDOW_ALL_FRAME (R376). -/
def execWindowAllFrame (f : RackFrame) (s : State) : Res := .next (s.onFrame 2 f fun t => t.grant (State.windowOf f))

/-- WINDOW_FRAME (R376). -/
def execWindowFrame (f : RackFrame) (s : State) : Res := .next (s.onFrame 4 f fun t => t.grant (State.windowOf f))

/-- BUDGET_FRAME (R377). -/
def execBudgetFrame (f : RackFrame) (s : State) : Res := .next (s.onFrame 3 f fun t => t.budget f)

/-- CANCEL_FRAME (R377). -/
def execCancelFrame (f : RackFrame) (s : State) : Res := .next (s.onFrame 5 f fun t => t.cancel f)

/-- RACK_FRAME_IGNORED (R385): a frame of which only the checks are of interest. -/
def execRackFrameIgnored (f : RackFrame) (s : State) : Res := .next (s.frameReceive f).1

/-- RAMP_TICK (R377). -/
def execRampTick (s : State) : Res := .next s.rampTick

/-- STATUS_FRAME_SEND (R386). -/
def execStatusFrameSend (s : State) : Res := .next s.statusFrame

/-- RAMP_REQUEST (R386). -/
def execRampRequest (w : Nat) (s : State) : Res := .next (s.rampRequest w)

/-- ORPHAN_ENTER (R387). -/
def execOrphanEnter (s : State) : Res := .next s.orphanEnter

/-- CAN_BUS_OFF (R383). -/
def execCanBusOff (s : State) : Res := .next ((s.incSat (ecKey BAND_BUS_STAT) 16 8 1).bandRec 8)

/-- REGION_TEMP_EVAL (R388, R389). -/
def execRegionTempEval (d rx ry : Nat) (t : Int) (s : State) : Res := .next (s.tempEval (regionAt d rx ry) t)

/-- HEAT_SWITCH_ON (R388). -/
def execHeatSwitchOn (d rx ry : Nat) (s : State) : Res := .next (s.heatOn (regionAt d rx ry))

/-- TEMP_SENSOR_FAIL (R389). -/
def execTempSensorFail (d rx ry : Nat) (s : State) : Res := .next (s.sensorFail (regionAt d rx ry))

end Sys2Proof.Machine
end

