-- ==== Sys2Proof/Machine/Fp.lean ====
section
/-! DEFINITION. IEEE 754-2019 binary arithmetic as the cores (R160) and reduce-on-arrival (R305) use it: a finite number is a
sign, an integer and a power of two; results are computed exactly and rounded once. -/

namespace Sys2Proof.Machine

/-- A binary format: precision with the hidden bit, and exponent bits. -/
structure IeeeFmt where
  p : Nat
  ew : Nat
deriving DecidableEq, Repr

def fp32 : IeeeFmt := ⟨24, 8⟩
def bf16 : IeeeFmt := ⟨8, 8⟩

def IeeeFmt.bias (f : IeeeFmt) : Nat := 2 ^ (f.ew - 1) - 1
def IeeeFmt.emin (f : IeeeFmt) : Int := 1 - (f.bias : Int)
/-- Encoding of infinity, of the largest finite number, of the sign bit and of the quiet NaN. -/
def IeeeFmt.inf (f : IeeeFmt) : Nat := (2 ^ f.ew - 1) * 2 ^ (f.p - 1)
def IeeeFmt.sign (f : IeeeFmt) : Nat := 2 ^ (f.ew + f.p - 1)
def IeeeFmt.qnan (f : IeeeFmt) : Nat := f.inf + 2 ^ (f.p - 2)

/-- A decoded value; a finite one is (-1)^neg * m * 2^e. -/
inductive FpVal where
  | nan (signalling : Bool)
  | inf (neg : Bool)
  | fin (neg : Bool) (m : Nat) (e : Int)
deriving DecidableEq, Repr

def fpDecode (f : IeeeFmt) (v : Nat) : FpVal :=
  let neg := bit v (f.ew + f.p - 1)
  let m := bits v 0 (f.p - 1)
  let x := bits v (f.p - 1) f.ew
  if x = 2 ^ f.ew - 1 then (if m = 0 then .inf neg else .nan (!bit v (f.p - 2)))
  else if x = 0 then .fin neg m (f.emin - (f.p - 1 : Nat))
  else .fin neg (m + 2 ^ (f.p - 1)) (f.emin - (f.p - 1 : Nat) + (x - 1 : Nat))

/-- A result with its accrued exceptions: NX 1, UF 2, OF 4, DZ 8, NV 16. -/
structure FpRes where
  v : Nat
  fl : Nat
deriving DecidableEq, Repr

/-- Rounding modes of frm: 0 nearest even, 1 toward zero, 2 down, 3 up, 4 nearest, ties away. Whether a magnitude with least
bit `odd` and remainder compared with one half by `c` (0 exact, 1 below, 2 equal, 3 above) is raised. -/
def roundUp (rm : Nat) (neg odd : Bool) (c : Nat) : Bool :=
  if c = 0 then false
  else if rm = 0 then c == 3 || (c == 2 && odd)
  else if rm = 2 then neg
  else if rm = 3 then !neg
  else if rm = 4 then 2 ≤ c
  else false

/-- A magnitude m * 2^e, a little more where `sticky`, as an integer multiple of 2^q rounded by rm, and whether it is inexact. -/
def roundAt (rm : Nat) (neg : Bool) (m : Nat) (e : Int) (sticky : Bool) (q : Int) : Nat × Bool :=
  if q ≤ e then (m * 2 ^ (e - q).toNat + (if roundUp rm neg ((m * 2 ^ (e - q).toNat) % 2 == 1) (if sticky then 1 else 0) then 1 else 0), sticky)
  else
    let k := (q - e).toNat
    let r := m % 2 ^ k
    let c := if r = 0 ∧ ¬ sticky then 0 else if 2 * r < 2 ^ k then 1 else if 2 * r = 2 ^ k ∧ ¬ sticky then 2 else 3
    (m / 2 ^ k + (if roundUp rm neg (m / 2 ^ k % 2 == 1) c then 1 else 0), c != 0)

/-- Round and encode (-1)^neg * m * 2^e; tininess is detected after rounding. -/
def fpRound (f : IeeeFmt) (rm : Nat) (neg : Bool) (m : Nat) (e : Int) (sticky : Bool) : FpRes :=
  let sg := if neg then f.sign else 0
  if m = 0 ∧ ¬ sticky then ⟨sg, 0⟩
  else
    let top := e + (Nat.log2 m : Int)
    let qn := top - (f.p - 1 : Nat)
    let qs := f.emin - (f.p - 1 : Nat)
    let q := max qn qs
    let r := roundAt rm neg m e sticky q
    let v := (q - qs).toNat * 2 ^ (f.p - 1) + r.1
    if f.inf ≤ v then ⟨sg + (if rm = 1 ∨ (rm = 2 ∧ ¬ neg) ∨ (rm = 3 ∧ neg) then f.inf - 1 else f.inf), 5⟩
    else
      let tiny := top < f.emin ∧ (roundAt rm neg m e sticky qn).1 < 2 ^ (f.emin - qn).toNat
      ⟨sg + v, if r.2 then (if tiny then 3 else 1) else 0⟩

/-- A NaN result; invalid where an operand signals. -/
def fpNan (f : IeeeFmt) (inv : Bool) : FpRes := ⟨f.qnan, if inv then 16 else 0⟩

def FpVal.isNan : FpVal → Bool | .nan _ => true | _ => false
def FpVal.isSnan : FpVal → Bool | .nan b => b | _ => false
def FpVal.neg : FpVal → FpVal
  | .nan b => .nan b
  | .inf n => .inf (!n)
  | .fin n m e => .fin (!n) m e

/-- Exact sum of two finite numbers as an integer multiple of a power of two. -/
def fpSum (n1 : Bool) (m1 : Nat) (e1 : Int) (n2 : Bool) (m2 : Nat) (e2 : Int) : Int × Int :=
  let e := min e1 e2
  let a : Int := m1 * 2 ^ (e1 - e).toNat
  let b : Int := m2 * 2 ^ (e2 - e).toNat
  ((if n1 then -a else a) + (if n2 then -b else b), e)

/-- Sign of an exact zero sum. -/
def zeroSign (rm : Nat) (n1 n2 : Bool) : Bool := if n1 = n2 then n1 else rm == 2

def fpAddV (f : IeeeFmt) (rm : Nat) (a b : FpVal) : FpRes :=
  match a, b with
  | .nan x, y => fpNan f (x || y.isSnan)
  | _, .nan y => fpNan f y
  | .inf x, .inf y => if x = y then ⟨(if x then f.sign else 0) + f.inf, 0⟩ else fpNan f true
  | .inf x, _ => ⟨(if x then f.sign else 0) + f.inf, 0⟩
  | _, .inf y => ⟨(if y then f.sign else 0) + f.inf, 0⟩
  | .fin n1 m1 e1, .fin n2 m2 e2 =>
    let s := fpSum n1 m1 e1 n2 m2 e2
    if s.1 = 0 then ⟨if zeroSign rm n1 n2 then f.sign else 0, 0⟩
    else fpRound f rm (decide (s.1 < 0)) s.1.natAbs s.2 false

def fpAdd (f : IeeeFmt) (rm a b : Nat) : FpRes := fpAddV f rm (fpDecode f a) (fpDecode f b)
def fpSub (f : IeeeFmt) (rm a b : Nat) : FpRes := fpAddV f rm (fpDecode f a) (fpDecode f b).neg

def FpVal.isZero : FpVal → Bool | .fin _ m _ => m == 0 | _ => false
def FpVal.isInf : FpVal → Bool | .inf _ => true | _ => false
def FpVal.isNeg : FpVal → Bool | .nan _ => false | .inf n => n | .fin n _ _ => n

def fpMul (f : IeeeFmt) (rm a b : Nat) : FpRes :=
  let x := fpDecode f a
  let y := fpDecode f b
  let neg := x.isNeg != y.isNeg
  if x.isNan || y.isNan then fpNan f (x.isSnan || y.isSnan)
  else if (x.isInf && y.isZero) || (x.isZero && y.isInf) then fpNan f true
  else match x, y with
    | .fin _ m1 e1, .fin _ m2 e2 => fpRound f rm neg (m1 * m2) (e1 + e2) false
    | _, _ => ⟨(if neg then f.sign else 0) + f.inf, 0⟩

/-- a * b + c with one rounding. -/
def fpFma (f : IeeeFmt) (rm : Nat) (x y z : FpVal) : FpRes :=
  let neg := x.isNeg != y.isNeg
  if (x.isInf && y.isZero) || (x.isZero && y.isInf) then fpNan f true
  else if x.isNan || y.isNan || z.isNan then fpNan f (x.isSnan || y.isSnan || z.isSnan)
  else match x, y with
    | .fin _ m1 e1, .fin _ m2 e2 =>
      match z with
      | .fin n3 m3 e3 =>
        let s := fpSum neg (m1 * m2) (e1 + e2) n3 m3 e3
        if s.1 = 0 then ⟨if zeroSign rm neg n3 then f.sign else 0, 0⟩
        else fpRound f rm (decide (s.1 < 0)) s.1.natAbs s.2 false
      | z => ⟨(if z.isNeg then f.sign else 0) + f.inf, 0⟩
    | _, _ => if z.isInf && z.isNeg != neg then fpNan f true else ⟨(if neg then f.sign else 0) + f.inf, 0⟩

def fpDiv (f : IeeeFmt) (rm a b : Nat) : FpRes :=
  let x := fpDecode f a
  let y := fpDecode f b
  let neg := x.isNeg != y.isNeg
  let sg := if neg then f.sign else 0
  if x.isNan || y.isNan then fpNan f (x.isSnan || y.isSnan)
  else if (x.isInf && y.isInf) || (x.isZero && y.isZero) then fpNan f true
  else if x.isInf then ⟨sg + f.inf, 0⟩
  else if y.isInf then ⟨sg, 0⟩
  else if y.isZero then ⟨sg + f.inf, 8⟩
  else match x, y with
    | .fin _ m1 e1, .fin _ m2 e2 =>
      let k := f.p + 2 + Nat.log2 m2
      fpRound f rm neg (m1 * 2 ^ k / m2) (e1 - e2 - k) (m1 * 2 ^ k % m2 != 0)
    | _, _ => ⟨sg, 0⟩

/-- Integer square root by binary digits, most significant first. -/
def natSqrt : Nat → Nat → Nat
  | 0, _ => 0
  | k + 1, n => let r := 2 * natSqrt k (n / 4); if (r + 1) * (r + 1) ≤ n then r + 1 else r

def fpSqrt (f : IeeeFmt) (rm a : Nat) : FpRes :=
  match fpDecode f a with
  | .nan s => fpNan f s
  | .inf n => if n then fpNan f true else ⟨f.inf, 0⟩
  | .fin n m e =>
    if m = 0 then ⟨a, 0⟩
    else if n then fpNan f true
    else
      let k := 2 * f.p + (if (e - 2 * f.p) % 2 = 0 then 0 else 1)
      let m' := m * 2 ^ k
      let r := natSqrt (2 * f.p + 4) m'
      fpRound f rm false r ((e - k) / 2) (r * r != m')

/-- Order of two numbers that are not NaN: -1, 0, 1. -/
def fpOrd (x y : FpVal) : Int :=
  match x, y with
  | .inf a, .inf b => if a = b then 0 else if a then -1 else 1
  | .inf a, _ => if a then -1 else 1
  | _, .inf b => if b then 1 else -1
  | .fin n1 m1 e1, .fin n2 m2 e2 =>
    let s := (fpSum n1 m1 e1 (!n2) m2 e2).1
    if s < 0 then -1 else if s = 0 then 0 else 1
  | _, _ => 0

/-- feq, flt, fle: op 2, 1, 0; result bit and flags. -/
def fpCmp (f : IeeeFmt) (op a b : Nat) : Bool × Nat :=
  let x := fpDecode f a
  let y := fpDecode f b
  if x.isNan || y.isNan then (false, if op = 2 then (if x.isSnan || y.isSnan then 16 else 0) else 16)
  else (if op = 2 then fpOrd x y == 0 else if op = 1 then decide (fpOrd x y < 0) else decide (fpOrd x y ≤ 0), 0)

/-- fmin and fmax: the number where one operand is a NaN; -0 below +0. -/
def fpMinMax (f : IeeeFmt) (mx : Bool) (a b : Nat) : FpRes :=
  let x := fpDecode f a
  let y := fpDecode f b
  let fl := if x.isSnan || y.isSnan then 16 else 0
  if x.isNan && y.isNan then ⟨f.qnan, fl⟩
  else if x.isNan then ⟨b, fl⟩
  else if y.isNan then ⟨a, fl⟩
  else
    let less := decide (fpOrd x y < 0) || (fpOrd x y == 0 && x.isNeg && !y.isNeg)
    ⟨if less != mx then a else b, fl⟩

/-- fclass: the bit of the class. -/
def fpClass (f : IeeeFmt) (a : Nat) : Nat :=
  match fpDecode f a with
  | .nan s => if s then 2 ^ 8 else 2 ^ 9
  | .inf n => if n then 1 else 2 ^ 7
  | .fin n m _ =>
    if m = 0 then (if n then 2 ^ 3 else 2 ^ 4)
    else if m < 2 ^ (f.p - 1) then (if n then 2 ^ 2 else 2 ^ 5)
    else if n then 2 ^ 1 else 2 ^ 6

/-- To a 32-bit integer, saturating with NV. -/
def fpToInt (f : IeeeFmt) (signed : Bool) (rm a : Nat) : FpRes :=
  let lo : Int := if signed then -2 ^ 31 else 0
  let hi : Int := if signed then 2 ^ 31 - 1 else 2 ^ 32 - 1
  match fpDecode f a with
  | .nan _ => ⟨hi.toNat, 16⟩
  | .inf n => ⟨ofSigned 32 (if n then lo else hi), 16⟩
  | .fin n m e =>
    let r := roundAt rm n m e false 0
    let v : Int := if n then -(r.1 : Int) else r.1
    if v < lo then ⟨ofSigned 32 lo, 16⟩ else if hi < v then ⟨ofSigned 32 hi, 16⟩ else ⟨ofSigned 32 v, if r.2 then 1 else 0⟩

/-- From a 32-bit integer. -/
def fpOfInt (f : IeeeFmt) (signed : Bool) (rm a : Nat) : FpRes :=
  let v : Int := if signed then toSigned 32 a else a % 2 ^ 32
  fpRound f rm (decide (v < 0)) v.natAbs 0 false

end Sys2Proof.Machine
end

