-- ==== Sys2Proof/Machine/Time.lean ====
section
/-! DEFINITION. Facility time (R379-R382): its references, lock, holdover, steps and slews. -/

namespace Sys2Proof.Machine

namespace State

def timeRec (s : State) (reason : Nat) : State := s.raise 0x79 (.engine 0) reason none

def setTime (s : State) (t : Time) : State := { s with time := t }

/-- Windows whose end lies at or before the current tick are dropped (R382). -/
def dropEnded (s : State) : State :=
  s.setBand { s.band with windows := s.band.windows.filter fun w => s.ftick < w.start + w.len }

/-- TIME_OFFSET takes a measured offset, saturating. -/
def setOffset (s : State) (off : Int) : State :=
  s.setReg (ecKey TIME_OFFSET) (BitVec.ofNat 64 (ofSigned 32 (max (-(2 ^ 31 : Int)) (min (2 ^ 31 - 1) off))))

/-- A correction by `off`, local minus reference, measured `since` ns after the last one: a step above 1 ms, else a slew of
at most 100 ppm of that time (R382; log 12). -/
def correct (s : State) (off : Int) (since : Nat) : State :=
  let lim : Int := since / 10000
  if (1000000 : Int) < off ∨ off < -1000000 then
    let s1 := (s.setTime { s.time with base := s.time.base - off }).incSat (ecKey TIME_STAT) 16 16 1
    (s1.dropEnded).timeRec 3
  else s.setTime { s.time with base := s.time.base - max (-lim) (min lim off) }

/-- The reference's second at an edge: the one announced, else the nearest whole second (R380). -/
def edgeSecond (s : State) : Int :=
  match s.time.next with
  | some v => v
  | none => (((s.facility + 500000000) / 1000000000 * 1000000000 : Nat) : Int)

/-- A TB_PPS edge, with TB_REF present or not (R380, R381, R393). -/
def pps (s : State) (ref : Bool) : State :=
  let t := s.time
  let seen := { t with lastPps := s.now + 1, refOk := t.refOk || ref }
  if s.fld (ecKey TIME_CFG) 0 2 ≠ 0 then s.setTime seen
  else
    let gap := s.now + 1 - t.lastPps
    let good := decide (t.lastPps ≠ 0 ∧ 999999900 ≤ gap ∧ gap ≤ 1000000100)
    let known := t.known || t.next.isSome
    let n := if good then t.goodPps + 1 else 0
    let off : Int := s.time.base + s.now - s.edgeSecond
    let s1 := if known then (s.setOffset off).correct off (if t.lastPps = 0 then 0 else gap) else s
    let st := if 4 ≤ n ∧ known then 2 else t.state
    s1.setTime { s1.time with known := known, next := none, goodPps := n, lastPps := s.now + 1, refOk := t.refOk || ref, state := st }

/-- A PTP Sync message with the measured offset of local time (R380, R381): only in the domain and over the transport of TIME_CFG, and
answered with a Delay_Req. -/
def sync (s0 : State) (off : Int) (domain : Nat) (l2 : Bool) : State :=
  let t := s0.time
  let k := ecKey TIME_CFG
  if s0.fld k 0 2 ≠ 1 ∨ s0.fld k 8 8 ≠ domain ∨ s0.fld k 2 1 ≠ l2.toNat then s0
  else
    let s := s0.emit (.delayReq l2 domain)
    let n := if -1000 ≤ off ∧ off ≤ 1000 then t.goodSync + 1 else 0
    let s1 := (s.setOffset off).correct off (if t.lastSync = 0 then 0 else s.now + 1 - t.lastSync)
    s1.setTime { s1.time with known := true, goodSync := n, lastSync := s.now + 1, state := if 16 ≤ n then 2 else t.state }

/-- Holdover is entered from state 2 (R381). -/
def toHoldover (s : State) : State :=
  if s.time.state = 2 then
    (s.setTime { s.time with state := 3, holdSince := s.now, goodPps := 0, goodSync := 0 }).timeRec 1
  else s

/-- The reference's edges or messages have stopped for their limit. -/
def refSilent (s : State) : Bool :=
  if s.fld (ecKey TIME_CFG) 0 2 = 0 then decide (s.time.lastPps + 1500000000 ≤ s.now + 1)
  else decide (s.time.lastSync + 3000000000 ≤ s.now + 1)

/-- TB_REF has stopped (R381). -/
def refLoss (s : State) : State :=
  let s1 := s.setTime { s.time with refOk := false }
  if s.fld (ecKey TIME_CFG) 0 2 = 0 then s1.toHoldover else s1

/-- HOLD_S seconds in holdover (R381): held windows are discarded. -/
def unsync (s : State) : State :=
  if s.time.state = 3 ∧ s.time.holdSince + s.fld (ecKey TIME_CFG) 16 8 * 1000000000 ≤ s.now then
    ((s.setTime { s.time with state := 4 }).setBand { s.band with windows := [] }).timeRec 2
  else s

/-- TIME_SET (R380, R382). -/
def timeSet (s : State) (v : DWord) : State :=
  if v.toNat % 1000000000 ≠ 0 then s.timeRec 4
  else if s.fld (ecKey TIME_CFG) 0 2 = 0 then s.setTime { s.time with next := some v.toNat }
  else s

/-- A write of TIME_CFG.SRC (R380, R381, R393): with a reference it enters state 1, without one state 0 or 4, and a change to state 4
discards the held windows. -/
def timeSrc (s : State) (src : Nat) : State :=
  let v := min src 2
  let t := (s.setFld (ecKey TIME_CFG) 0 2 v).setTime
    { s.time with goodPps := 0, goodSync := 0, state := if v = 2 then (if s.time.known then 4 else 0) else 1 }
  if v = 2 ∧ s.time.known ∧ s.time.state ≠ 4 then (t.setBand { t.band with windows := [] }).timeRec 2 else t

end State

/-- PPS_EDGE (R380, R381). -/
def execPpsEdge (ref : Bool) (s : State) : Res := .next (s.pps ref)

/-- PTP_SYNC_MESSAGE (R380, R381). -/
def execPtpSyncMessage (off : Int) (domain : Nat) (l2 : Bool) (s : State) : Res := .next (s.sync off domain l2)

/-- REF_LOSS (R381). -/
def execRefLoss (s : State) : Res := .next s.refLoss

/-- HOLDOVER_ENTER (R381). -/
def execHoldoverEnter (s : State) : Res := .next (if s.refSilent then s.toHoldover else s)

/-- UNSYNC_ENTER (R381). -/
def execUnsyncEnter (s : State) : Res := .next s.unsync

/-- TIME_SET (R382). -/
def execTimeSet (v : DWord) (s : State) : Res := .next (s.timeSet v)

/-- TIME_SRC_WRITE (R381). -/
def execTimeSrcWrite (src : Nat) (s : State) : Res := .next (s.timeSrc src)

end Sys2Proof.Machine
end

