-- ==== Sys2Proof/Machine/Gddr.lean ====
section
/-! DEFINITION. The GDDR7 tier (R256-R280): the code of a half-block, the interleave, reads and writes of every kind, transfer
retries and channel retrains, the scrubber, device temperature, refresh and the raw test commands. -/

namespace Sys2Proof.Machine

/-! ### The code (R260, R261) -/

/-- Columns H_0 to H_255: the smallest 16-bit values with three bits set, in rising order (R260). -/
def gddrCols : List Nat :=
  ((List.range 16).flatMap fun c => (List.range c).flatMap fun b => (List.range b).map fun a => 2 ^ c + 2 ^ b + 2 ^ a).take 256

/-- Check field of 256 data bits. -/
def gddrCheck (w : Nat) : Nat := xorCols gddrCols w

/-- Judgement of a half-block by its syndrome (R261). -/
def gddrJudge (w chk : Nat) : Judge :=
  let s := chk ^^^ gddrCheck w
  if s = 0 then .good
  else if s = 0xFFFF then .poison
  else match gddrCols.findIdx? (· == s) with
    | some i => .single (w ^^^ 2 ^ i)
    | none => if (List.range 16).any (fun j => 2 ^ j == s) then .single w else .bad

/-! ### Places -/

/-- Keys of a half-block's check field and of what a stripe's tag differs from its expected value by (R259, R262). -/
def gddrChkKey (a : Nat) : Nat := 2 ^ 45 + 2 * (a / 32)
def gddrTagKey (a : Nat) : Nat := 2 ^ 45 + 2 ^ 43 + 4 * (a / 960)

/-- Key of a register of controller MEMn of a die (R277). -/
def memKey (d n o : Nat) : Nat := dieKey d (o + n * 0x10000)

/-- Segments per device by MEM_CFG.DENSITY (R258). -/
def segsOf (density : Nat) : Nat := if density = 0 then 1953124 else if density = 1 then 2929684 else 3906248

/-- A located address (R263). -/
structure GLoc where
  d : Nat
  n : Nat
  ch : Nat
  t : Nat
  k : Nat
  o : Nat
deriving DecidableEq, Repr

/-- The half-blocks that hold `len` bytes from address `a`. -/
def halvesOf (a len : Nat) : List Nat :=
  if len = 0 then [] else (List.range ((a + len - 1) / 32 - a / 32 + 1)).map fun i => (a / 32 + i) * 32

/-- Words of a run, counted from its first 8-byte word, that lie in half-block `h`. -/
def wordsIn (a len h : Nat) : List Nat :=
  (List.range 4).filterMap fun i =>
    let w := h / 8 + i
    if a / 8 ≤ w ∧ 8 * w < a + len then some (w - a / 8) else none

/-- A half-block's bytes with some replaced. -/
def mergeHalf (w : Nat) (bs : List (Nat × Byte)) : Nat :=
  ofLe ((List.range 32).map fun i => match bs.find? fun p => p.1 == i with | some p => p.2 | none => BitVec.ofNat 8 (w / 256 ^ i))

/-- The bytes of half-block `h` that a run of `data` from `a` covers. -/
def coveredHalf (a h : Nat) (data : List Byte) : List (Nat × Byte) :=
  (List.range 32).filterMap fun i => if a ≤ h + i then (data[h + i - a]?).map fun b => (i, b) else none

namespace State

/-- The live list, by rising device number and then die (R263). -/
def liveDevs (s : State) : List (Nat × Nat) :=
  (List.range 12).flatMap fun n => (List.range 8).filterMap fun d =>
    if s.fld (ecKey (BOOT_GDDR_LIVE + 4 * ((12 * d + n) / 32))) ((12 * d + n) % 32) 1 = 1 then some (d, n) else none

/-- Segments per device of this module. -/
def segs (s : State) : Nat :=
  match s.liveDevs with
  | (d, n) :: _ => segsOf (s.fld (memKey d n MEM_CFG) 0 2)
  | [] => segsOf 2

def gddrCap (s : State) : Nat := s.fld (ecKey BOOT_GDDR_CAP) 0 44

/-- `locate` of R263; none where no device is live. -/
def locate (s : State) (a : Nat) : Option GLoc :=
  let live := s.liveDevs
  let u := a / 960
  let o := a % 960
  match live[u % live.length]? with
  | some (d, n) => some ⟨d, n, u / live.length % 4, u / live.length / 4, o / 64, o % 64⟩
  | none => none

/-- The address tag that the segment of an address must hold (R259). -/
def expTag (g : GLoc) : Nat := ((g.t * 16 + g.ch) ^^^ (0x0100 * (12 * g.d + g.n))) % 2 ^ 32

/-- Block 15 of the segment that holds the stripe of `a`: the check fields of its 30 half-blocks, and the address tag in bytes 60-63
(R259). -/
def checkBlock (s : State) (g : GLoc) (a : Nat) : List Byte :=
  ((List.range 30).flatMap fun i => s.bytes (gddrChkKey (a / 960 * 960 + 32 * i)) 2) ++
    toLe 4 (expTag g ^^^ ofLe (s.bytes (gddrTagKey a) 4))

/-- Stored data and check field of the half-block at `a`. -/
def half (s : State) (a : Nat) : Nat := ofLe (s.bytes (a / 32 * 32) 32)
def halfChk (s : State) (a : Nat) : Nat := ofLe (s.bytes (gddrChkKey a) 2)
def putHalf (s : State) (a w chk : Nat) : State :=
  (s.setBytes (a / 32 * 32) (toLe 32 w)).setBytes (gddrChkKey a) (toLe 2 chk)
def writeHalf (s : State) (a w : Nat) : State := s.putHalf a w (gddrCheck w)
def poisonHalf (s : State) (a : Nat) : State := s.putHalf a 0 0xFFFF

/-- State of the device (MEM_STAT.STATE) and whether a channel retrains. -/
def devState (s : State) (d n : Nat) : Nat := s.fld (memKey d n MEM_STAT) 0 3
def retraining (s : State) (d n ch : Nat) : Bool := s.fld (memKey d n MEM_STAT) (3 + ch) 1 == 1

/-! ### Records (R277, R280) -/

/-- MEM_ERR_ADDR and MEM_ERR_INFO of a record. -/
def memLast (s : State) (g : GLoc) (cls a syn : Nat) : State :=
  (s.setReg (memKey g.d g.n MEM_ERR_ADDR) (BitVec.ofNat 64 a)).setReg (memKey g.d g.n MEM_ERR_INFO)
    (BitVec.ofNat 64 (cls + syn * 2 ^ 8 + g.ch * 2 ^ 24))

def memRaise (s : State) (g : GLoc) (cls a syn detail : Nat) (struck : Option Nat) : State :=
  (s.memLast g cls a syn).raise cls (.dieUnit g.d g.n) detail struck

/-- A record of class 0x40 or 0x41: at most one per controller per millisecond. -/
def memRaiseLim (s : State) (g : GLoc) (cls a syn : Nat) : State :=
  let t := s.raiseLim 1000000 cls (.dieUnit g.d g.n) 0
  if t.err.recQ.length = s.err.recQ.length then t else t.memLast g cls a syn

/-- The half-block test that class 0x42 triggers (R434). -/
def halfTest (s : State) (g : GLoc) : State :=
  let x := s.mc g.d g.n
  s.setMc g.d g.n { x with tests := x.tests ++ [s.err.nextSn] }

/-- A refused request (R265, R204): under the host class for a host, else class 0x44 against a cell origin. -/
def gddrRefuse (s : State) (req : Req) (a reason : Nat) : State :=
  match req with
  | .host p => s.hostRefuse p a (if reason = 1 then 1 else 4)
  | _ => match s.locate a with
    | some g => s.memRaise g 0x44 (a / 32 * 32) 0 (reason + a * 2 ^ 8) (originCell req)
    | none => s.raise 0x44 (.engine 0) (reason + a * 2 ^ 8) (originCell req)

/-- Reason of a request that R265 refuses, as R280 numbers them; 0 for none. -/
def gddrReason (s : State) (a len : Nat) : Nat :=
  if s.liveDevs = [] then 3
  else if s.gddrCap < a + len then 1
  else if 0 < len ∧ a / 960 ≠ (a + len - 1) / 960 then 2
  else 0

/-! ### Transfers (R269, R270) -/

/-- A transfer with `m` consecutive mismatches: each reissue is counted and logged, the third starts a retrain of the
channel. False: the request waits for the channel. -/
def transfer (s : State) (g : GLoc) (a m : Nat) : State × Bool :=
  if s.retraining g.d g.n g.ch then (s, false)
  else if m = 0 then (s, true)
  else
    let s1 := (s.incSatUn (memKey g.d g.n MEM_EDC_CNT) 0 16 (min m 3)).memRaiseLim g 0x40 (a / 32 * 32) 0
    if m < 3 then (s1, true)
    else ((s1.setFld (memKey g.d g.n MEM_STAT) (3 + g.ch) 1 1).incSatUn (memKey g.d g.n MEM_EDC_CNT) 16 8 1, false)

/-- A mesh packet stands at channel g's controller that arrived in slot `slot` or before it. -/
def meshBefore (s : State) (g : GLoc) (slot : Nat) : Bool :=
  s.net.any fun p => decide (p.pos = .agent g.d) && (p.ptype == 1 || p.ptype == 2) && bits p.addr 44 4 == 0 && decide (s.slot ≤ slot + p.waited) &&
    (match s.locate (bits p.addr 0 44) with | some h => h.n == g.n && h.ch == g.ch | none => false)

/-- A request of an edge agent of the die waits: its channel retrains, a request waits there, or one from the mesh came before it or in
the same cycle (R266, R269). -/
def heldBack (s : State) (g : GLoc) : Bool :=
  s.retraining g.d g.n g.ch || ((s.mc g.d g.n).waits.any fun w => match s.locate w.addr with | some h => h.ch == g.ch | none => false) ||
    s.meshBefore g s.slot

/-- A request joins those that wait at its controller. -/
def enqueue (s : State) (g : GLoc) (w : GWait) : State :=
  s.setMc g.d g.n { s.mc g.d g.n with waits := (s.mc g.d g.n).waits ++ [w] }

/-- Whether a range of global addresses holds a stripe of the device at position `idx` of the live list. -/
def rangeHolds (s : State) (base len idx : Nat) : Bool :=
  let nd := s.liveDevs.length
  0 < len && decide ((idx + nd - base / 960 % nd) % nd < (base + len - 1) / 960 - base / 960 + 1)

/-- First cells of the jobs whose declared range holds a stripe of the device. -/
def jobsOn (s : State) (idx : Nat) : List Nat :=
  (s.jobs.filter fun j => s.rangeHolds j.gbase j.glen idx).filterMap fun j => (s.jobCells j.id).head?

/-- A device fails in service (R270). -/
def deviceFail (s : State) (d n ch : Nat) : State :=
  let idx := s.liveDevs.findIdx fun p => p == (d, n)
  let cells := s.jobsOn idx
  let s1 := ((s.setFld (memKey d n MEM_STAT) 0 3 6).setFld (memKey d n MEM_TRAIN_STAT) 6 3 5).confirmFuse 7 4 d n
  let s2 := s1.memRaise ⟨d, n, ch, 0, 0, 0⟩ 0x46 0 0 0 cells.head?
  cells.tail.foldl (fun t c => t.haltPanelOf c 0x46) s2

/-! ### Reading (R262, R268) -/

/-- A wrong address tag: it is rewritten, and every half-block of the segment is treated as uncorrectable. -/
def tagWrong (s : State) (g : GLoc) (a : Nat) : State :=
  let base := a / 960 * 960
  let s1 := (List.range 30).foldl (fun t i => t.poisonHalf (base + 32 * i)) (s.setBytes (gddrTagKey a) (toLe 4 0))
  ((s1.incSatUn (memKey g.d g.n MEM_ECC_CNT) 16 16 30).halfTest g).memRaise g 0x42 base 0 0 none

def tagBad (s : State) (g : GLoc) (a : Nat) : Bool := ofLe ((s.checkBlock g a).drop 60) != expTag g

/-- A half-block read and judged; none where its words are lost. -/
def readHalf (s : State) (g : GLoc) (a : Nat) : State × Option Nat :=
  let w := s.half a
  let syn := s.halfChk a ^^^ gddrCheck w
  match gddrJudge w (s.halfChk a) with
  | .good => (s, some w)
  | .single v => (((s.writeHalf a v).incSatUn (memKey g.d g.n MEM_ECC_CNT) 0 16 1).memRaiseLim g 0x41 (a / 32 * 32) syn, some v)
  | .poison => (s.incSatUn (memKey g.d g.n MEM_ECC_CNT) 16 16 1, none)
  | .bad => ((((s.poisonHalf a).incSatUn (memKey g.d g.n MEM_ECC_CNT) 16 16 1).halfTest g).memRaise g 0x42 (a / 32 * 32) syn 0 none, none)

/-- Half-blocks of a run in order: bytes, and the lost words. -/
def readHalves (s : State) (g : GLoc) (a len : Nat) : State × List Byte × List Nat :=
  if s.tagBad g a then
    (s.tagWrong g a, List.replicate len 0, (halvesOf a len).flatMap (wordsIn a len))
  else
    let r := (halvesOf a len).foldl (fun (q : State × List Byte × List Nat) h =>
      match q.1.readHalf g h with
      | (t, some w) => (t, q.2.1 ++ toLe 32 w, q.2.2)
      | (t, none) => (t, q.2.1 ++ toLe 32 0, q.2.2 ++ wordsIn a len h)) (s, [], [])
    (r.1, (r.2.1.drop (a % 32)).take len, r.2.2)

/-- A run of bytes within one stripe, read for a requester: data, lost words, STATUS. -/
def gddrFetch (s : State) (g : GLoc) (a len : Nat) : State × List Byte × List Nat × Nat :=
  if s.devState g.d g.n = 6 then
    (s, List.replicate len 0, (halvesOf a len).flatMap (wordsIn a len), 2)
  else
    let r := s.readHalves g a len
    (r.1, r.2.1, r.2.2, if r.2.2 = [] then 0 else 2)

/-! ### Writing (R267) -/

/-- One half-block of a write; false where its part of the write was dropped. -/
def writePart (s : State) (g : GLoc) (req : Req) (a : Nat) (data : List Byte) (pois : List Nat) (h : Nat) : State × Bool :=
  let cv := coveredHalf a h data
  if (wordsIn a data.length h).any pois.contains then (s.poisonHalf h, true)
  else if cv.length = 32 then (s.writeHalf h (mergeHalf 0 cv), true)
  else
    let w := s.half h
    let syn := s.halfChk h ^^^ gddrCheck w
    match gddrJudge w (s.halfChk h) with
    | .good => (s.writeHalf h (mergeHalf w cv), true)
    | .single v =>
      (((s.writeHalf h (mergeHalf v cv)).incSatUn (memKey g.d g.n MEM_ECC_CNT) 0 16 1).memRaiseLim g 0x41 h syn, true)
    | _ => (((s.poisonHalf h).incSatUn (memKey g.d g.n MEM_ECC_CNT) 16 16 1).memRaise g 0x43 h syn 0 (originCell req), false)

/-- A run of bytes within one stripe, written for a requester: the STATUS it receives. -/
def gddrStore (s : State) (g : GLoc) (req : Req) (a : Nat) (data : List Byte) (pois : List Nat) : State × Nat :=
  if s.devState g.d g.n = 6 then ((match originCell req with | some c => s.haltPanelOf c 0x46 | none => s), 1)
  else
    let s0 := if s.tagBad g a ∧ (halvesOf a data.length).any (fun h => (coveredHalf a h data).length ≠ 32) then s.tagWrong g a else s
    let r := (halvesOf a data.length).foldl (fun (q : State × Bool) h =>
      let x := q.1.writePart g req a data pois h
      (x.1, q.2 && x.2)) (s0, true)
    (r.1, if r.2 then 0 else 2)

/-! ### Requests -/

/-- A request of an edge agent with `m` mismatches reaches its channel: false where it waits. -/
def admitReq (s : State) (g : GLoc) (a m : Nat) : State × Bool := if s.heldBack g then (s, false) else s.transfer g a m

/-- A read request: the answer, none while it waits for a channel. -/
def gddrReadReq (s : State) (req : Req) (a len m : Nat) : State × Option (List Byte × List Nat × Nat) :=
  let r := s.gddrReason a len
  if r ≠ 0 then (s.gddrRefuse req a r, some ([], [], 1))
  else match s.locate a with
    | none => (s, none)
    | some g =>
      match s.admitReq g a m with
      | (t, false) => (t.enqueue g { req := req, addr := a, len := len, data := none, slot := s.slot }, none)
      | (t, true) => ((t.gddrFetch g a len).1, some (t.gddrFetch g a len).2)

/-- A write request: its STATUS, none while it waits for a channel. -/
def gddrWriteReq (s : State) (req : Req) (a : Nat) (data : List Byte) (pois : List Nat) (m : Nat) : State × Option Nat :=
  let r := s.gddrReason a data.length
  if r ≠ 0 then (s.gddrRefuse req a r, some 1)
  else match s.locate a with
    | none => (s, none)
    | some g =>
      match s.admitReq g a m with
      | (t, false) => (t.enqueue g { req := req, addr := a, len := data.length, data := some (data, pois), slot := s.slot }, none)
      | (t, true) => ((t.gddrStore g req a data pois).1, some (t.gddrStore g req a data pois).2)

/-- An error in a controller's control state or check-block cache (R275): 1 a single-bit error, corrected silently, 3 a parity error of
the cache, whose entry is read again: both count as a correction; 2 an uncorrectable error: class 0x49. -/
def mcUpset (s : State) (g : Option GLoc) (upset : Nat) : State :=
  match g with
  | some g =>
    if upset = 2 then s.memRaise g 0x49 0 0 0 none
    else if upset = 1 ∨ upset = 3 then s.incSatUn (memKey g.d g.n MEM_ECC_CNT) 0 16 1
    else s
  | none => s

/-- A requester's read with its answer. -/
def gddrRead (s : State) (req : Req) (a len m upset : Nat) : State :=
  let s := s.mcUpset (s.locate a) upset
  if upset = 2 then s
  else match s.gddrReadReq req a len m with
    | (t, some (bs, ps, st)) => t.answer req (.read bs ps st)
    | (t, none) => t

def gddrWrite (s : State) (req : Req) (a : Nat) (data : List Byte) (pois : List Nat) (m upset : Nat) : State :=
  let s := s.mcUpset (s.locate a) upset
  if upset = 2 then s
  else match s.gddrWriteReq req a data pois m with
    | (t, some st) => t.answer req (.ack st)
    | (t, none) => t

/-- A request that waited is performed, and answered. -/
def serveWait (s : State) (g : GLoc) (w : GWait) : State :=
  let s1 := s.setMc g.d g.n { s.mc g.d g.n with waits := (s.mc g.d g.n).waits.erase w }
  match w.data with
  | none => let r := s1.gddrFetch g w.addr w.len; r.1.answer w.req (.read r.2.1 r.2.2.1 r.2.2.2)
  | some (bs, ps) => let r := s1.gddrStore g w.req w.addr bs ps; r.1.answer w.req (.ack r.2)

/-- The requests that wait at a controller go on in their order, each once its channel does not retrain and no earlier request from the
mesh stands before it (R266, R269). -/
def serveWaits (s : State) (d n : Nat) : State :=
  (s.mc d n).waits.foldl (fun t w => match t.locate w.addr with
    | some g => if t.retraining d n g.ch || t.meshBefore g w.slot then t else t.serveWait g w
    | none => t) s

/-- A retrain ends; the requests that waited for the channel are performed. -/
def retrainDone (s : State) (d n ch : Nat) (ok : Bool) : State :=
  if s.retraining d n ch ∧ ch < 4 then
    let s1 := s.setFld (memKey d n MEM_STAT) (3 + ch) 1 0
    (if ok then s1.memRaise ⟨d, n, ch, 0, 0, 0⟩ 0x45 0 0 0 none else s1.deviceFail d n ch).serveWaits d n
  else s

/-! ### Requests carried at once (log 14) -/

/-- What becomes of an access that a link or a channel holds: the next of the running command's fates says whether it is lost (log 32). -/
def nextFate (s : State) : State × Bool := ({ s with fates := s.fates.tail }, decide (s.fates.head? = some .lost))

/-- The mismatches that a request carried at once meets, where the next fate gives it some. -/
def nextAgain (s : State) : State × Nat :=
  match s.fates.head? with
  | some (.again m) => ({ s with fates := s.fates.tail }, m)
  | _ => (s, 0)

/-- A request carried at once waits out a retrain of its channel, and goes behind the requests that wait there (R266, R269). -/
def channelFree (s : State) (g : GLoc) : State :=
  if s.retraining g.d g.n g.ch then
    let r := s.nextFate
    r.1.retrainDone g.d g.n g.ch !r.2
  else s.serveWaits g.d g.n

/-- A request carried at once reaches its channel, with the mismatches it meets (R269). -/
def admitNow (s : State) (g : GLoc) (a : Nat) : State :=
  let r := (s.channelFree g).nextAgain
  let t := r.1.transfer g a r.2
  if t.2 then t.1 else t.1.channelFree g

/-- A read carried at once: data, lost words, STATUS. -/
def gddrReadNow (s : State) (req : Req) (a len : Nat) : State × List Byte × List Nat × Nat :=
  let r := s.gddrReason a len
  if r ≠ 0 then (s.gddrRefuse req a r, [], [], 1)
  else match s.locate a with
    | none => (s, [], [], 1)
    | some g => (s.admitNow g a).gddrFetch g a len

/-- A write carried at once. -/
def gddrWriteNow (s : State) (req : Req) (a : Nat) (data : List Byte) (pois : List Nat) : State × Nat :=
  let r := s.gddrReason a data.length
  if r ≠ 0 then (s.gddrRefuse req a r, 1)
  else match s.locate a with
    | none => (s, 1)
    | some g => (s.admitNow g a).gddrStore g req a data pois

/-- A request from the mesh waits at its controller: its channel retrains, or a request came before it: an earlier one, or one of the
same cycle from an edge port further west (R266). -/
def meshHeld (s : State) (g : GLoc) (p : Pkt) : Bool :=
  s.retraining g.d g.n g.ch ||
  ((s.mc g.d g.n).waits.any fun w => decide (w.slot + p.waited < s.slot) && (match s.locate w.addr with | some h => h.ch == g.ch | none => false)) ||
  s.net.any fun q => decide (q.pos = .agent g.d) && (q.ptype == 1 || q.ptype == 2) && bits q.addr 44 4 == 0 &&
    (match s.locate (bits q.addr 0 44) with | some h => h.n == g.n && h.ch == g.ch | none => false) &&
    (decide (p.waited < q.waited) || (p.waited == q.waited && decide (q.px < p.px)))

/-- A request from the mesh with `m` mismatches at its agent: false where it waits there. -/
def meshAdmit (s : State) (p : Pkt) (m : Nat) : State × Bool :=
  match s.target p.addr with
  | .gddr a =>
    if s.gddrReason a p.blen ≠ 0 then (s, true)
    else match s.locate a with
      | some g => if s.meshHeld g p then (s, false) else s.transfer g a m
      | none => (s, true)
  | _ => (s, true)

/-- Requests that waited for a mesh request at the controller of an address go on. -/
def afterMesh (s : State) (ga : Nat) : State :=
  match s.target ga with
  | .gddr a => match s.locate a with | some g => s.serveWaits g.d g.n | none => s
  | _ => s

/-! ### Scrubbing, temperature, refresh (R273, R274, R257) -/

/-- A pass beyond PASS_MIN sets LATE and logs 0x4A once. -/
def mscrubLate (s : State) (d n : Nat) : State :=
  if (s.mc d n).passStart + s.fld (memKey d n MEM_SCRUB_RATE) 0 16 * 60000000000 < s.now ∧
      s.fld (memKey d n MEM_SCRUB_STAT) 16 1 = 0 then
    (s.setFld (memKey d n MEM_SCRUB_STAT) 16 1 1).memRaise ⟨d, n, 0, 0, 0, 0⟩ 0x4A 0 0 0 none
  else s

/-- No request waits at a controller: the scrubber takes only command slots that none waits for (R266, R273). -/
def mcIdle (s : State) (d n : Nat) : Bool :=
  (s.mc d n).waits.isEmpty && (List.range 4).all fun ch => !s.retraining d n ch && !s.meshBefore ⟨d, n, ch, 0, 0, 0⟩ s.slot

/-- The scrubber goes on to its next segment, or ends its pass. -/
def segmentDone (s : State) (d n : Nat) : State :=
  let y := s.mc d n
  if y.scrub + 1 < s.segs then s.setMc d n { y with scrub := y.scrub + 1 }
  else ((s.setMc d n { y with scrub := 0, passStart := s.now }).setFld (memKey d n MEM_SCRUB_STAT) 16 1 0).incWrap
    (memKey d n MEM_SCRUB_STAT) 0 16 1

/-- The place of a device in the live list. -/
def liveIdx (s : State) (d n : Nat) : Nat := s.liveDevs.findIdx fun p => p == (d, n)

/-- The scrubber reads its device's next segment, with `m` mismatches, and goes on; a read that starts a retrain is made again. -/
def scrubSegment (s : State) (d n m : Nat) : State :=
  let a := ((s.mc d n).scrub * s.liveDevs.length + s.liveIdx d n) * 960
  match s.locate a with
  | none => s
  | some g =>
    let t := s.transfer g a m
    if t.2 then (t.1.readHalves g a 960).1.segmentDone d n else t.1

/-- The scrubber of an idle controller of a live device acts (R273). -/
def mscrub (s : State) (d n m upset : Nat) : State :=
  if upset = 2 then s.mcUpset (some ⟨d, n, 0, 0, 0, 0⟩) 2
  else if s.liveIdx d n < s.liveDevs.length ∧ s.devState d n = 4 ∧ s.mcIdle d n then
    ((s.mcUpset (some ⟨d, n, 0, 0, 0, 0⟩) upset).mscrubLate d n).scrubSegment d n m
  else s

/-- A temperature reading (R274). -/
def memTemp (s : State) (d n : Nat) (t : Int) : State :=
  let k := memKey d n MEM_STAT
  let m := max (toSigned 8 (s.fld (memKey d n MEM_TEMP) 8 8)) t
  let s1 := (s.setFld (memKey d n MEM_TEMP) 0 8 (ofSigned 8 t)).setFld (memKey d n MEM_TEMP) 8 8 (ofSigned 8 m)
  let s2 := if 85 ≤ t then s1.setFld k 8 1 1 else if t < 80 then s1.setFld k 8 1 0 else s1
  if 95 ≤ t then
    if s2.fld k 7 1 = 1 then s2 else (s2.setFld k 7 1 1).memRaise ⟨d, n, 0, 0, 0, 0⟩ 0x47 0 0 0 none
  else if t < 90 then s2.setFld k 7 1 0
  else s2

/-- A per-bank refresh changes no stored bit. -/
def memRefresh (s : State) (d n : Nat) : State :=
  s.setMc d n { s.mc d n with refreshes := (s.mc d n).refreshes + 1 }

/-! ### Raw commands (R277, R278) -/

def testAddr (s : State) (d n : Nat) : Nat := s.fld (memKey d n MEM_ECC_TADDR) 5 39 * 32

/-- The half-block at ADDR is served by this controller. -/
def testServed (s : State) (d n : Nat) : Bool :=
  decide (s.testAddr d n < s.gddrCap) && (match s.locate (s.testAddr d n) with | some g => g.d == d && g.n == n | none => false)

/-- A test command that is mis-addressed (R278): class 0x44 reason 1 at the controller that refuses it. -/
def testRefuse (s : State) (req : Req) (d n a : Nat) : State :=
  s.memRaise ⟨d, n, 0, 0, 0, 0⟩ 0x44 a 0 (1 + a * 2 ^ 8) (originCell req)

/-- The raw command takes its place behind the requests that wait for its channel (R266, R278). -/
def rawTurn (s : State) (a : Nat) : State := match s.locate a with | some g => s.admitNow g a | none => s

def memRawWrite (s : State) (req : Req) (d n : Nat) : State :=
  let a := s.testAddr d n
  if s.testServed d n then (s.rawTurn a).setBytes (gddrChkKey a) (toLe 2 (s.fld (memKey d n MEM_ECC_TCHK) 0 16))
  else s.testRefuse req d n a

def memRawRead (s : State) (req : Req) (d n : Nat) : State :=
  let a := s.testAddr d n
  if s.testServed d n then
    let k := memKey d n MEM_ECC_TCHK
    let s := s.rawTurn a
    (s.hwFld k 0 16 (s.halfChk a)).setFld k 16 16 (s.halfChk a ^^^ gddrCheck (s.half a))
  else s.testRefuse req d n a

end State

/-! ### Commands -/

/-- GDDR_READ (R268, R269, R275). -/
def execGddrRead (req : Req) (ga : GAddr) (len m upset : Nat) (s : State) : Res :=
  .next (s.gddrRead req (bits ga.toNat 0 44) len m upset)

/-- GDDR_WRITE (R267, R269, R275). -/
def execGddrWrite (req : Req) (ga : GAddr) (data : List Byte) (pois : List Nat) (m upset : Nat) (s : State) : Res :=
  .next (s.gddrWrite req (bits ga.toNat 0 44) data pois m upset)

/-- CHANNEL_RETRAIN_DONE (R269, R270). -/
def execChannelRetrainDone (d n ch : Nat) (ok : Bool) (s : State) : Res := .next (s.retrainDone d n ch ok)

/-- GDDR_SCRUB_SEGMENT (R273, R275). -/
def execGddrScrubSegment (d n m upset : Nat) (s : State) : Res := .next (s.mscrub d n m upset)

/-- GDDR_TEMP_READ (R274). -/
def execGddrTempRead (d n : Nat) (t : Int) (s : State) : Res := .next (s.memTemp d n t)

/-- GDDR_REFRESH (R257, R274). -/
def execGddrRefresh (d n : Nat) (_bank : Nat) (s : State) : Res := .next (s.memRefresh d n)

/-- MEM_ECC_RAW_WRITE (R277, R278). -/
def execMemEccRawWrite (req : Req) (d n : Nat) (s : State) : Res :=
  .next ((s.dropPend req (keyBlock (memKey d n MEM_ECC_TCMD))).memRawWrite req d n)

/-- MEM_ECC_RAW_READ (R277, R278). -/
def execMemEccRawRead (req : Req) (d n : Nat) (s : State) : Res :=
  .next ((s.dropPend req (keyBlock (memKey d n MEM_ECC_TCMD))).memRawRead req d n)

end Sys2Proof.Machine
end

