-- ==== Sys2Proof/Machine/Mesh.lean ====
section
/-! DEFINITION. The mesh (R184-R215): headers and flits, virtual channels with their buffers and credits, output arbitration, links
and neighbours, routing with detours, the walk of a packet from router to router, multicast forks, link retry and failure, the
injection of packets at a router or an edge port, and the accesses of edge agents, carried along their whole path at once (log 33). -/

namespace Sys2Proof.Machine

/-! ### Packets -/

/-- Data flits of a BLEN (R191). -/
def dlenOf (n : Nat) : Nat := if n ≤ 8 then 0 else (n + 31) / 32

/-- A packet of a TYPE from a requester, everything else zero. -/
def Pkt.blank (ptype : Nat) (src : Req) (pos : At) : Pkt :=
  { ptype := ptype, dlen := 0, phys := false, ackreq := false, sigf := false, tag := 0, x := 0, y := 0, x1 := 0, y1 := 0, die := 0,
    px := 0, py := 0, edge := false, src := src, org := originCell src, addr := 0, blen := 0, status := 0, ctr := 0, epoch := 0, inc := 0, way := none,
    data := [], pois := [], pos := pos, sent := none, waited := 0 }

/-- ORIGIN (R190, R192): the cell whose router formed the packet; of a request from elsewhere its requester; of an answer from elsewhere
the agent that serves the address, a memory controller, a die controller or the engine controller, a host port. -/
def Pkt.origin (p : Pkt) : Nat :=
  if p.org.isSome then 0
  else if p.ptype = 3 ∨ p.ptype = 4 then
    (if bits p.addr 44 4 = 0 then 3 else if bits p.addr 44 4 = 8 then 1 else if 3 ≤ bits p.addr 44 4 then 2 else 0)
  else match p.src with | .core .. | .far .. => 0 | .host _ => 1 | .firmware => 2 | .agent _ => 3

def Pkt.mcast (p : Pkt) : Bool := p.ptype == 6 || p.ptype == 7

/-- The DST word (R190). -/
def Pkt.dst (p : Pkt) : Nat :=
  if p.phys then p.die + p.px * 2 ^ 3 + p.py * 2 ^ 9 + (if p.edge then 2 ^ 15 else 0)
  else p.x + p.y * 2 ^ 8 + p.x1 * 2 ^ 16 + p.y1 * 2 ^ 24

/-- Flits of a packet: the header and DLEN data flits (R190). -/
def Pkt.flits (p : Pkt) : Nat := 1 + p.dlen

/-- Virtual channel (R187): multicasts on VC2; signals, and accesses of at most 8 bytes to spaces 0x2-0x4 with their answers, on VC1. -/
def Pkt.vc (p : Pkt) : Nat :=
  if p.mcast then 2
  else if p.ptype = 5 ∨ (p.blen ≤ 8 ∧ 2 ≤ bits p.addr 44 4 ∧ bits p.addr 44 4 ≤ 4) then 1
  else 0

/-- The header flit's words 0 to 5 and INLINE, as 32 bytes (R190); `src` is the SRC word. Reserved bits are zero. -/
def Pkt.header (p : Pkt) (src : Nat) : List Byte :=
  let w0 := p.ptype + p.dlen * 2 ^ 4 + (if p.phys then 2 ^ 8 else 0) + p.origin * 2 ^ 9 + (if p.ackreq then 2 ^ 11 else 0) +
    (if p.sigf then 2 ^ 12 else 0) + p.tag * 2 ^ 16
  let way := match p.way with | some (x, y) => x * 2 ^ 16 + y * 2 ^ 24 + 2 ^ 31 | none => 0
  toLe 4 w0 ++ toLe 4 p.dst ++ toLe 4 src ++ toLe 4 (bits p.addr 0 32) ++
    toLe 4 (bits p.addr 32 16 + p.blen * 2 ^ 16 + p.status * 2 ^ 25) ++ toLe 4 (p.ctr + p.epoch * 2 ^ 6 + p.inc * 2 ^ 8 + way) ++
    (if p.dlen = 0 then (p.data.take 8) ++ List.replicate (8 - p.data.length) 0 else List.replicate 8 0)

/-- Payload of flit i of a packet, 32 bytes: the header, then the data flits (R190, R191). -/
def Pkt.payload (p : Pkt) (src i : Nat) : List Byte :=
  if i = 0 then p.header src
  else let d := (p.data.drop (32 * (i - 1))).take 32; d ++ List.replicate (32 - d.length) 0

/-- PMASK of flit i (R189, R206): the poisoned 8-byte words of its payload; a header's INLINE data is its word 3. -/
def Pkt.pmask (p : Pkt) (i : Nat) : Nat :=
  if i = 0 then (if p.dlen = 0 ∧ p.pois.contains 0 then 8 else 0)
  else (List.range 4).foldl (fun a w => if p.pois.contains (4 * (i - 1) + w) then a + 2 ^ w else a) 0

/-- Sideband bits [31:0] of a flit (R189): VC, HEAD, TAIL, PMASK, VALID, SEQ, ACKSEQ, NAK and the credits returned. -/
structure Sideband where
  vc : Nat
  head : Bool
  tail : Bool
  pmask : Nat
  valid : Bool
  seq : Nat
  ackseq : Nat
  nak : Bool
  cr0 : Nat
  cr1 : Nat
  cr2 : Nat
deriving DecidableEq, Repr

def Sideband.word (b : Sideband) : Nat :=
  b.vc + (if b.head then 2 ^ 2 else 0) + (if b.tail then 2 ^ 3 else 0) + b.pmask * 2 ^ 4 + (if b.valid then 2 ^ 8 else 0) + b.seq * 2 ^ 9 +
    b.ackseq * 2 ^ 17 + (if b.nak then 2 ^ 25 else 0) + b.cr0 * 2 ^ 26 + b.cr1 * 2 ^ 28 + b.cr2 * 2 ^ 30

/-- One step of the CRC-16 over the bits of a byte, most significant first (R189). -/
def crc16Bits : Nat → Nat → Nat
  | 0, r => r
  | n + 1, r => crc16Bits n (if bit r 15 then (2 * r % 65536) ^^^ 0x1021 else 2 * r)

/-- CRC-16 of a byte string: polynomial 0x1021, initial value 0xFFFF, no reflection, no final exclusive-or (R189). -/
def crc16 (bs : List Byte) : Nat := bs.foldl (fun r b => crc16Bits 8 (r ^^^ (b.toNat * 256))) 0xFFFF

/-- CRC of a flit: its 32 payload bytes, then sideband bits [31:0] (R189). -/
def flitCrc (payload : List Byte) (b : Sideband) : Nat := crc16 (payload ++ toLe 4 b.word)

/-- The 48-bit sideband with its CRC in bits [47:32]. -/
def Sideband.full (b : Sideband) (payload : List Byte) : Nat := b.word + flitCrc payload b * 2 ^ 32

/-- The idle flit by which a receiver returns an acknowledgement, a NAK and credits (R189); its payload is zero (DESIGN CHOICE, log 33). -/
def Sideband.idle (acked : Nat) (nak : Bool) (cr0 cr1 cr2 : Nat) : Sideband :=
  { vc := 0, head := false, tail := false, pmask := 0, valid := false, seq := 0, ackseq := acked % 256, nak := nak, cr0 := cr0 % 4,
    cr1 := cr1 % 4, cr2 := cr2 % 4 }

/-- A flit on the wires: its payload in bits [255:0], its sideband above (R189). -/
def flitWord (payload : List Byte) (b : Sideband) : Nat := ofLe payload + b.full payload * 2 ^ 256

/-- The check of a received flit's CRC (R189, R193). -/
def flitGood (w : Nat) : Bool := crc16 (toLe 36 (w % 2 ^ 288)) == bits w 288 16

/-- A received idle flit by its sideband. -/
def idleGood (sb : Nat) : Bool := flitGood (sb * 2 ^ 256)

/-- Sideband of flit i of a packet that leaves with link sequence number `seq`, `acked` the last SEQ received on the reverse link; credits
travel on idle flits (log 33). -/
def Pkt.sideband (p : Pkt) (i seq acked : Nat) : Sideband :=
  { vc := p.vc, head := i == 0, tail := i == p.dlen, pmask := p.pmask i, valid := true, seq := seq % 256, ackseq := acked % 256,
    nak := false, cr0 := 0, cr1 := 0, cr2 := 0 }

/-- Detail of classes 0x35, 0x36 and 0x3C (R518). -/
def Pkt.detail (p : Pkt) (link : Nat) : Nat :=
  link + p.tag * 2 ^ 8 + p.ptype * 2 ^ 24 + (if p.phys then 2 ^ 28 else 0) + p.origin * 2 ^ 29 + p.dst * 2 ^ 32

/-- A header with a reserved TYPE, or DLEN inconsistent with BLEN (R192). A read response with STATUS 1 or 3 has no data to carry: it keeps
its request's BLEN with DLEN 0, and that is its consistent length (DESIGN CHOICE, log 33). -/
def Pkt.badHeader (p : Pkt) : Bool :=
  if p.ptype = 1 ∨ p.ptype = 6 then p.dlen != dlenOf p.blen || p.blen == 0 || decide (480 < p.blen)
  else if p.ptype = 3 then p.dlen != (if p.status = 1 ∨ p.status = 3 then 0 else dlenOf p.blen)
  else if p.ptype = 2 ∨ p.ptype = 4 ∨ p.ptype = 5 ∨ p.ptype = 7 then p.dlen != 0
  else true

namespace State

/-- The number under which a cell's links hold the sending end of its edge port's link from the I/O ring (R193, R198). -/
def ringLink : Nat := 16

/-- The die that runs the engine controller (R457): d0 until failover. -/
def ctlDie (s : State) : Nat := s.fld (ecKey BOOT_STAT) 7 3

/-- Modes of a router (R186). -/
def routerDead (s : State) (c : Nat) : Bool := !s.routerRailOk c || s.dieState (cellDie c) == 3
def routingMode (s : State) (c : Nat) : Bool := !s.routerDead c && (s.logicalOf c).isSome
def passMode (s : State) (c : Nat) : Bool :=
  !s.routerDead c && s.canvasValid && s.dieState (cellDie c) == 1 && (s.logicalOf c).isNone

/-- A link that crosses into another die (R185). -/
def crossing (s : State) (c l : Nat) : Bool :=
  decide (l < 12) && crosses c l && (match s.linkFar c l with | .cell _ => true | _ => false)

/-- The other end of a link: a router's, or the I/O ring's at an edge port. -/
def reverseOf (s : State) (c l : Nat) : Option (Nat × Nat) :=
  if l = ringLink then some (c, edgeLink s.part (cellDie c))
  else match s.linkFar c l with | .cell e => some (e, backLink l) | .edge _ => some (c, ringLink) | .none => none

/-- Link code of a link's end at its router. -/
def codeOf (s : State) (c l : Nat) : Nat := if l = ringLink then edgeLink s.part (cellDie c) else l

def link (s : State) (c l : Nat) : LinkSt := SMap.get (s.cell c).links l LinkSt.reset
def setLink (s : State) (c l : Nat) (x : LinkSt) : State := s.setCell c { s.cell c with links := SMap.put (s.cell c).links l x }
def linkFailed (s : State) (c l : Nat) : Bool := s.fld (cellKey c RTR_LINK_STAT) l 1 == 1

/-! ### Die routes (R197) -/

/-- Dies within n die steps of die t that no excluded die cuts off. -/
def dieBall (s : State) (t : Nat) : Nat → List Nat
  | 0 => if s.dieLive t then [t] else []
  | n + 1 =>
    let b := State.dieBall s t n
    (List.range s.part.dies).filter fun d =>
      b.contains d || (s.dieLive d && (List.range 4).any fun dir => match s.dieBeside d dir with | some e => b.contains e | none => false)

/-- RTR_DIE_ROUTE.DIRt of a die's routers; none where no path reaches t. -/
def dieDir (s : State) (d t : Nat) : Option Nat :=
  match (List.range 8).find? fun n => (s.dieBall t n).contains d with
  | some (n + 1) => [1, 3, 0, 2].find? fun dir =>
      match s.dieBeside d dir with | some e => (s.dieBall t n).contains e | none => false
  | _ => none

/-- A physical-mode packet can be addressed to a die (R203). -/
def dieReach (s : State) (d t : Nat) : Bool := s.dieLive t && (d == t || (s.dieDir d t).isSome)

/-! ### Routing (R196, R197, R199) -/

/-- A routing decision: the local port or a link. -/
inductive Hop where
  | loc
  | link (l : Nat)
  | lost
deriving DecidableEq, Repr

/-- Link code of a north or south step from a cell to logical (x, ny) (R51, R196). -/
def stepLink (s : State) (c x ny : Nat) (south : Bool) : Nat :=
  match s.physicalOf x ny with
  | some t => (if south then 7 else 2) + (cellPx t + 2 - cellPx c)
  | none => 12

/-- The link `route` selects before detours, for a target (tx, ty). -/
def routeTo (s : State) (c x y tx ty : Nat) : Nat :=
  if x < tx then 0
  else if tx < x then 1
  else s.stepLink c x (if y < ty then y + 1 else y - 1) (decide (y < ty))

/-- `route_phys` before detours. -/
def routePhys (s : State) (c : Nat) (p : Pkt) : Hop :=
  let d := cellDie c
  if p.die ≠ d then
    match s.dieDir d p.die with
    | some dir => .link (if dir = 0 then 4 else if dir = 1 then 0 else if dir = 2 then 9 else 1)
    | none => .lost
  else if cellPx c < p.px then .link 0
  else if p.px < cellPx c then .link 1
  else if cellPy c < p.py then .link 9
  else if p.py < cellPy c then .link 4
  else if p.edge then .link (edgeLink s.part d)
  else .loc

/-- The first enabled detour entry of a router that matches a link (R199). -/
def detourOf (s : State) (c l : Nat) : Option Nat :=
  ((List.range 16).map fun i => (s.reg (cellKey c (RTR_DETOUR + 4 * i))).toNat).find? fun e => bit e 0 && bits e 1 4 == l

/-- `route` with its detours; `fuel` bounds the waypoints set in one router. -/
def route (s : State) (c : Nat) (p : Pkt) : Nat → Pkt × Hop
  | 0 => (p, .lost)
  | fuel + 1 =>
    let go := fun (l : Nat) =>
      match s.detourOf c l with
      | some e =>
        if bit e 9 && !p.phys && !p.mcast && p.way.isNone then State.route s c { p with way := some (bits e 10 8, bits e 18 7) } fuel
        else (p, Hop.link (bits e 5 4))
      | none => (p, Hop.link l)
    if p.phys then
      match s.routePhys c p with
      | .link l => go l
      | h => (p, h)
    else
      match s.logicalOf c with
      | none => (p, .lost)
      | some (x, y) =>
        match p.way with
        | some (wx, wy) => if (x, y) = (wx, wy) then State.route s c { p with way := none } fuel else go (s.routeTo c x y wx wy)
        | none => if (x, y) = (p.x, p.y) then (p, .loc) else go (s.routeTo c x y p.x p.y)

/-- The SRC word of a packet (R190): its origin cell in logical coordinates, or an edge agent's edge port with bit 31 set. -/
def srcWord (s : State) (p : Pkt) (die px : Nat) : Nat :=
  match p.org with
  | some c => (match s.logicalOf c with
    | some (x, y) => x + y * 2 ^ 8
    | none => cellDie c + cellPx c * 2 ^ 3 + cellPy c * 2 ^ 9 + 2 ^ 31)
  | none => die + px * 2 ^ 3 + edgeRow s.part die * 2 ^ 9 + 2 ^ 15 + 2 ^ 31

/-- Decision of any router for a packet that is no multicast (R186). -/
def hopOf (s : State) (c via : Nat) (p : Pkt) : Pkt × Hop :=
  if s.passMode c then
    if p.phys ∧ p.src = .firmware ∧ p.die = cellDie c ∧ p.px = cellPx c ∧ p.py = cellPy c ∧ ¬ p.edge then (p, .loc)
    else if via = 0 then s.route c p 4
    else (p, .link (straight via))
  else if s.routingMode c then s.route c p 4
  else if p.phys then
    match s.route c p 4 with
    | (q, .loc) => (q, if s.dieState (cellDie c) = 2 then .lost else .loc)
    | r => r
  else (p, .lost)

/-! ### Records of a router -/

/-- A packet record at a router, against the cell that sent the packet (R192, R201). -/
def pktRaise (s : State) (cls c link : Nat) (p : Pkt) : State :=
  (s.rtrLast c cls link p.tag).raise cls (.cell c link) (p.detail link) p.org

/-- The packet at index i is replaced by others, which come last: the net's order is the order in which packets came to stand where
they are (R200). -/
def replacePkt (s : State) (i : Nat) (ps : List Pkt) : State := { s with net := s.net.eraseIdx i ++ ps }

/-- A request of the host or firmware that the mesh ends completes with a STATUS (R194, R201). -/
def endRequest (s : State) (p : Pkt) (status : Nat) : State :=
  match p.src with
  | .host _ | .firmware => if p.ptype = 1 ∨ p.ptype = 2 then s.answer p.src (.ack status) else s
  | _ => s

/-- An unroutable packet is discarded (R201). -/
def unroutable (s : State) (i c link : Nat) (p : Pkt) : State :=
  ((s.replacePkt i []).pktRaise 0x35 c link p).endRequest p 1

/-! ### Crossing a link (R193) -/

/-- A link that failed, or leads to a region whose router rail is dark, and has no detours yet (R195, R350). -/
def linkAwaits (s : State) (c l : Nat) : Bool :=
  (s.link c l).await || (match s.linkFar c l with
    | .cell e => (s.region (cellRegion e)).st == 6 && (match (s.region (cellRegion e)).off with | .detours got => ! got.contains c | _ => false)
    | _ => false)

/-- Whether a link takes flits now: a link that is stopped, waits for a NAK, or failed and has no detours yet holds them. -/
def linkHolds (s : State) (c l : Nat) : Bool := let x := s.link c l; x.naked || x.stopped || s.linkAwaits c l

/-- A link a packet cannot use (R201). -/
def linkDead (s : State) (c l : Nat) : Bool :=
  s.linkFailed c l || (match s.linkFar c l with | .cell e => s.routerDead e | .edge _ => false | .none => true)

/-- What a link leads to beyond the pass-through routers, which hold no flit and add no cycle (R186): the router or agent at its end
with the last link crossed, and every router that forwards on the way. A packet for a pass-through router itself ends there. -/
def runOn (s : State) (c l : Nat) (p : Pkt) : Nat → List Nat × Nat × Nat
  | 0 => ([c], c, l)
  | fuel + 1 =>
    match s.linkFar c l with
    | .cell e =>
      if s.passMode e && !s.linkDead c l then
        match s.hopOf e (opposite (linkSide l)) p with
        | (_, .link m) => let r := State.runOn s e m p fuel; (c :: r.1, r.2)
        | _ => ([c], c, l)
      else ([c], c, l)
    | _ => ([c], c, l)

/-- Flits the receiving buffer of a VC holds (R187): at a port that faces another die, or elsewhere. -/
def bufCap (s : State) (c via vc : Nat) : Nat :=
  let edge := (via == 4 && cellPx c == 0) || (via == 2 && cellPx c == 47) || (via == 1 && cellPy c == 0) || (via == 3 && cellPy c == 47)
  let boundary := edge && (s.dieBeside (cellDie c) (via - 1)).isSome
  if vc = 1 then (if boundary then 8 else 4) else if boundary then 20 else 8

/-- Flits that stand in an input buffer. -/
def occupancy (s : State) (c via vc : Nat) : Nat :=
  s.net.foldl (fun n q => if q.pos = .router c via ∧ q.vc = vc then n + q.flits else n) 0

/-- An input buffer has room for the flits of a packet; one longer than the buffer needs all of it (R187; log 33). -/
def roomFor (s : State) (c via vc flits : Nat) : Bool :=
  decide (s.occupancy c via vc + min flits (s.bufCap c via vc) ≤ s.bufCap c via vc)

/-- The receiving buffer of a link has the credits for a packet (R187); an edge agent's ring takes what comes. -/
def credit (s : State) (c l : Nat) (p : Pkt) : Bool :=
  let r := s.runOn c l p 64
  match s.linkFar r.2.1 r.2.2 with
  | .cell e => s.roomFor e (opposite (linkSide r.2.2)) p.vc p.flits
  | _ => true

/-- Packet i is the first of its VC in its buffer, so that a buffer gives its packets in the order they came in (R187, R200). -/
def isFirst (s : State) (i : Nat) (p : Pkt) : Bool := (s.net.take i).all fun q => !(decide (q.pos = p.pos) && q.vc == p.vc)

/-- Retry-buffer flits of a link's sending end (R193). -/
def retryCap (s : State) (c l : Nat) : Nat := if s.crossing c l then 48 else 32

/-- The retry buffer of a link has room for a packet's flits; a packet that stands in it already is sent from it. -/
def retryRoom (s : State) (c l : Nat) (p : Pkt) : Bool :=
  p.sent == some l || decide ((s.link c l).retry.length + p.flits ≤ s.retryCap c l)

/-- The n sequence numbers from `q` on, wrapping from 255 to 0. -/
def seqsFrom (q n : Nat) : List Nat := (List.range n).map fun k => (q + k) % 256

/-- A link takes the flits of a packet: the next SEQ advances, and the flits stand in the retry buffer until they are acknowledged. -/
def linkTakes (x : LinkSt) (l : Nat) (p : Pkt) : LinkSt :=
  if p.sent = some l then x else { x with next := (x.next + p.flits) % 256, retry := x.retry ++ seqsFrom x.next p.flits }

/-- The flits of a packet crossed a link in order: the far end acknowledges the last of them, and the refusals are over. -/
def linkPassed (s : State) (c l : Nat) (p : Pkt) : State :=
  let y := linkTakes (s.link c l) l p
  s.setLink c l { y with refused := 0, good := (y.next + 255) % 256 }

/-- The flits of a packet left a router by a link (R193, R366). -/
def linkSent (s : State) (c l : Nat) (p : Pkt) : State := (s.linkPassed c l p).act c 5 p.flits

/-- The die and column at which a packet that no cell formed entered the mesh: of its agent, toward its destination (R198). -/
def agentDie (s : State) (req : Req) : Nat :=
  match req with
  | .host p => portDie p
  | .agent d => d
  | _ => s.ctlDie

def entryOf (s : State) (p : Pkt) : Nat × Nat :=
  (s.agentDie p.src, if p.phys then p.px else match s.physicalOf p.x p.y with | some c => cellPx c | none => 0)

/-- Flit i of a packet on the wires of a link on which its first flit has sequence number `seq` (R189, R190). -/
def flitOn (s : State) (c l : Nat) (p : Pkt) (seq i : Nat) : Nat :=
  let acked := match s.reverseOf c l with | some (e, m) => (s.link e m).good | none => 255
  flitWord (p.payload (s.srcWord p (s.entryOf p).1 (s.entryOf p).2) i) (p.sideband i (seq + i) acked)

/-- The first flit of a packet that fails its CRC at the far end of a link, where the wires changed the bits of `err`, 304 to a flit
(R193). -/
def badFlit (s : State) (c l : Nat) (p : Pkt) (err : Nat) : Option Nat :=
  if err = 0 then none
  else
    let y := linkTakes (s.link c l) l p
    let seq := (y.next + 256 - p.flits) % 256
    (List.range p.flits).find? fun i => !flitGood (s.flitOn c l p seq i ^^^ bits err (304 * i) 304)

/-- Where a packet stands after it crossed a link. -/
def across (s : State) (c l : Nat) (p : Pkt) : Pkt :=
  let r := s.runOn c l p 64
  let pos := match s.linkFar r.2.1 r.2.2 with
    | .cell e => At.router e (opposite (linkSide r.2.2))
    | .edge d => At.agent d
    | .none => p.pos
  { p with pos := pos, sent := none, waited := 0 }

/-- A packet crosses a link and the pass-through routers behind it, each of which forwards its flits. -/
def crossTo (s : State) (c l : Nat) (p : Pkt) : State :=
  ((s.runOn c l p 64).1.drop 1).foldl (fun t e => t.act e 5 p.flits) (s.linkSent c l p)

/-- Flit k of a packet failed its CRC at the receiver: it is discarded with those after it and a NAK goes back; the sender keeps its flits
in the retry buffer. -/
def refuseFlit (s : State) (c l : Nat) (p : Pkt) (k : Nat) : State :=
  let y := linkTakes (s.link c l) l p
  let s1 := s.setLink c l { y with naked := true, good := (y.next + 511 - p.flits + k) % 256 }
  match s.reverseOf c l with
  | some (e, m) =>
    if m = ringLink then (s1.rtrLast c 0x30 l 0).raiseLimCell 1000000 0x30 c l 0
    else ((s1.incSatUn (cellKey e RTR_RETRY_CNT) 0 16 1).rtrLast e 0x30 m 0).raiseLimCell 1000000 0x30 e m 0
  | none => s1

/-- Packet i waits in the retry buffer of a link that refused its flit k. -/
def linkRefused (s : State) (i c l : Nat) (p : Pkt) (k : Nat) : State :=
  { s.refuseFlit c l p k with net := s.net.set i { p with sent := some l } }

/-- The NAK that goes back for a link: an idle flit with the last good SEQ (R189, R193). -/
def nakFlit (s : State) (c l : Nat) : Nat := (Sideband.idle (s.link c l).good true 0 0 0).full (List.replicate 32 0)

/-- The error that a command's operand puts on a link's wires. -/
def errOn (errs : List (Nat × Nat)) (l : Nat) : Nat := match errs.find? fun e => e.1 == l with | some e => e.2 | none => 0

/-! ### Output arbitration (R188) -/

def outSt (s : State) (c side : Nat) : OutSt := SMap.get (s.cell c).outs side OutSt.reset
def setOut (s : State) (c side : Nat) (x : OutSt) : State := s.setCell c { s.cell c with outs := SMap.put (s.cell c).outs side x }

/-- The links a packet at a router asks for: what `want` decides. -/
def asks (want : Nat → Nat → Pkt → List Nat) (c side : Nat) (q : Pkt) : Bool :=
  match q.pos with
  | .router e via => e == c && (want c via q).any fun l => linkSide l == side
  | _ => false

/-- A packet of another index, first in its buffer, with a VC in `vcs`, that could leave now, asks for the output too. -/
def rival (s : State) (want : Nat → Nat → Pkt → List Nat) (i c side : Nat) (vcs : List Nat) : Bool :=
  s.net.zipIdx.any fun q => q.2 != i && vcs.contains q.1.vc && s.isFirst q.2 q.1 && asks want c side q.1 &&
    (match q.1.pos with
      | .router _ via => (want c via q.1).all fun l => s.credit c l q.1 && !s.linkHolds c l && s.retryRoom c l q.1
      | _ => false)

/-- Packet i may take an output in this router cycle: nobody has taken it; VC1 goes first, but in at most three of four consecutive
cycles while another VC is ready; VC0 and VC2 alternate packet by packet, and each holds the output for its flits. -/
def granted (s : State) (want : Nat → Nat → Pkt → List Nat) (i c side : Nat) (p : Pkt) : Bool :=
  let o := s.outSt c side
  let t := (s.cell c).rcyc
  let spent := decide (3 ≤ t) && [1, 2, 3].all fun k => o.v1.contains (t - k)
  o.took != t + 1 &&
    if p.vc = 1 then !(spent && (decide (t < o.busy) || s.rival want i c side [0, 2]))
    else decide (o.busy ≤ t) && !(s.rival want i c side [1] && !spent) && !(o.last == p.vc && s.rival want i c side [2 - p.vc])

/-- The output is taken in this router cycle. A VC1 flit between the flits of another packet puts them off by a cycle. -/
def takeOut (s : State) (c side : Nat) (p : Pkt) : State :=
  let o := s.outSt c side
  let t := (s.cell c).rcyc
  s.setOut c side (if p.vc = 1 then { o with took := t + 1, v1 := (t :: o.v1).take 3, busy := if t < o.busy then o.busy + 1 else o.busy }
    else { o with took := t + 1, busy := t + p.flits, last := p.vc })

/-! ### Multicast (R210-R213) -/

/-- Outputs of a multicast packet at logical (x, y): sides 1-4, 0 for LOCAL (R210). -/
def mcOutputs (p : Pkt) (yo x y via : Nat) : List Nat :=
  if y = yo ∧ (via = 0 ∨ via = 2 ∨ via = 4) then
    (if x < p.x1 ∧ via ≠ 2 then [2] else []) ++ (if p.x < x ∧ via ≠ 4 then [4] else []) ++
      (if p.x ≤ x ∧ x ≤ p.x1 then
        (if p.y < y then [1] else []) ++ (if y < p.y1 then [3] else []) ++ (if p.y ≤ y ∧ y ≤ p.y1 then [0] else [])
      else [])
  else if via = 1 then (if y < p.y1 then [3] else []) ++ (if p.y ≤ y then [0] else [])
  else (if p.y < y then [1] else []) ++ (if y ≤ p.y1 then [0] else [])

/-- The link of an output after detours by ALT. -/
def mcLink (s : State) (c x y side : Nat) : Nat :=
  let l := if side = 2 then 0 else if side = 4 then 1 else if side = 1 then s.stepLink c x (y - 1) false else s.stepLink c x (y + 1) true
  match s.detourOf c l with
  | some e => bits e 5 4
  | none => l

/-- A cell has a landing credit (R212). A hole accepts and discards every flit (R213). -/
def landCredit (s : State) (c : Nat) : Bool :=
  s.isHole c || s.fld (cellKey c RTR_MC_LAND) 16 1 == 1 || 0 < s.fld (cellKey c RTR_MC_LAND) 0 16

def takeCredit (s : State) (c : Nat) : State :=
  if s.fld (cellKey c RTR_MC_LAND) 16 1 = 1 ∨ s.isHole c then s
  else s.setFld (cellKey c RTR_MC_LAND) 0 16 (s.fld (cellKey c RTR_MC_LAND) 0 16 - 1)

/-- The logical row of a multicast packet's origin. -/
def mcRow (s : State) (p : Pkt) : Option Nat := (p.org.bind s.logicalOf).map fun q => q.2

/-- Outputs of a multicast packet at a router: whether LOCAL is one, and the links. A copy that a link refused has that link left; a
pass-through router forwards without forking (R193, R213). -/
def mcOuts (s : State) (c via : Nat) (p : Pkt) : Bool × List Nat :=
  if p.sent.isSome then (false, p.sent.toList)
  else if s.passMode c then (false, [straight via])
  else match s.logicalOf c, s.mcRow p with
  | some (x, y), some yo => let o := mcOutputs p yo x y via; (o.contains 0, (o.filter (· != 0)).map (s.mcLink c x y))
  | _, _ => (false, [])

/-- The links a packet at a router asks for. -/
def wants (s : State) (c via : Nat) (p : Pkt) : List Nat :=
  if p.mcast then (s.mcOuts c via p).2
  else match s.hopOf c via p with
    | (_, .link l) => [l]
    | _ => []

/-- Every output of a multicast packet can accept it in this cycle (R211): its link takes flits and has a VC2 credit, its output is
free, and LOCAL has a landing credit. -/
def mcReady (s : State) (i c : Nat) (p : Pkt) (o : Bool × List Nat) : Bool :=
  s.isFirst i p && (o.2.all fun l => !s.linkHolds c l && s.credit c l p && s.retryRoom c l p && s.granted s.wants i c (linkSide l) p) &&
    (!o.1 || s.landCredit c)

/-- A multicast packet leaves a router on all its outputs together, or stays (R211). Every link checks its own flits; a link that refuses
one keeps a copy in its retry buffer, and the other branches go on (R193). -/
def mcRoute (s : State) (i c via : Nat) (p : Pkt) (errs : List (Nat × Nat)) : State :=
  if (s.logicalOf c).isNone || (s.mcRow p).isNone then s.unroutable i c 0 p
  else
    let o := s.mcOuts c via p
    match o.2.find? fun l => s.linkDead c l && !s.linkAwaits c l with
    | some l => s.unroutable i c l p
    | none =>
      if !s.mcReady i c p o then s
      else
        let bad := o.2.filterMap fun l => (s.badFlit c l p (errOn errs l)).map fun k => (l, k)
        let good := o.2.filter fun l => (s.badFlit c l p (errOn errs l)).isNone
        let s1 := good.foldl (fun t l => (t.crossTo c l p).takeOut c (linkSide l) p) s
        let s2 := bad.foldl (fun t b => (t.refuseFlit c b.1 p b.2).takeOut c (linkSide b.1) p) (if o.1 then s1.takeCredit c else s1)
        { s2 with net := s.net.take i ++ bad.map (fun b => { p with sent := some b.1 }) ++ s.net.drop (i + 1) ++
            (if o.1 && !s.isHole c then [{ p with pos := .landed c, sent := none, waited := 0 }] else []) ++ good.map fun l => s.across c l p }

/-! ### One router's step -/

/-- A packet that selected a link crosses it, waits, or is discarded. -/
def crossLink (s : State) (i c l : Nat) (p : Pkt) (err : Nat) : State :=
  let keep := { s with net := s.net.set i p }
  if s.linkHolds c l then keep
  else if s.linkDead c l then s.unroutable i c l p
  else
    let r := s.runOn c l p 64
    if s.linkDead r.2.1 r.2.2 then s.unroutable i r.2.1 r.2.2 p
    else if !(s.credit c l p && s.retryRoom c l p && s.granted s.wants i c (linkSide l) p) then keep
    else match s.badFlit c l p err with
      | none => ((s.crossTo c l p).takeOut c (linkSide l) p).replacePkt i [s.across c l p]
      | some k => s.linkRefused i c l p k

/-- A packet lands at the local port, one per router cycle. -/
def landLocal (s : State) (i c : Nat) (p : Pkt) : State :=
  if s.granted (fun _ _ _ => []) i c 0 p then (s.takeOut c 0 p).replacePkt i [{ p with pos := .landed c, sent := none }]
  else { s with net := s.net.set i p }

/-- A packet from the I/O ring enters the router of an edge port by the ring's link, which has credits, sequence numbers and a retry buffer
like any other (R187, R193). -/
def ringEnter (s : State) (i c : Nat) (p : Pkt) (err : Nat) : State :=
  let via := if edgeRow s.part (cellDie c) = 0 then 1 else 3
  let l := edgeLink s.part (cellDie c)
  if !s.isFirst i p || s.linkHolds c ringLink then s
  else if s.linkFailed c l then s.unroutable i c l p
  else if !(s.roomFor c via p.vc p.flits && s.retryRoom c ringLink p) then s
  else match s.badFlit c ringLink p err with
    | none => (s.linkPassed c ringLink p).replacePkt i [{ p with pos := .router c via, sent := none, waited := 0 }]
    | some k => s.linkRefused i c ringLink p k

/-- A router chooses the output of packet i, the first of its buffer, and moves it one step, in a slot in which its region's router gate
delivers a pulse (R402). -/
def packetRoute (s : State) (i : Nat) (errs : List (Nat × Nat)) (ecc : Nat) : State :=
  match s.net[i]? with
  | none => s
  | some p =>
    match p.pos with
    | .ring c =>
      if s.routerDead c then s.unroutable i c 0 p
      else if s.routerPulse c then s.ringEnter i c p (errOn errs ringLink)
      else s
    | .router c via =>
      let s1 := s.routerEcc c ecc
      if ecc = 2 || !s.isFirst i p then s1
      else if s1.routerDead c then s1.unroutable i c 0 p
      else if !s1.routerPulse c then s1
      else if p.badHeader then (s1.replacePkt i []).pktRaise 0x3C c 0 p
      else if p.mcast then s1.mcRoute i c via p errs
      else
        match s1.hopOf c via p with
        | (q, .loc) => s1.landLocal i c q
        | (q, .link l) => s1.crossLink i c l q (errOn errs l)
        | (q, .lost) => s1.unroutable i c 0 q
    | _ => s

/-! ### Retry and loopback (R193-R195, R467) -/

/-- Both directions of a link set alike. -/
def bothEnds (s : State) (c l : Nat) (f : LinkSt → LinkSt) : State :=
  let s1 := s.setLink c l (f (s.link c l))
  match s.reverseOf c l with
  | some (e, m) => s1.setLink e m (f (s1.link e m))
  | none => s1

/-- A NAK reaches the sender with the last good SEQ: flits up to it leave the retry buffer, and the rest are sent again from the next
cycle on; at RETRY_MAX refusals in a row the link stops, in both directions (R193, R194). -/
def nakReceive (s : State) (c l ackseq : Nat) : State :=
  let x := s.link c l
  if !x.naked then s
  else
    let rest := if x.retry.contains ackseq then (x.retry.dropWhile (· != ackseq)).drop 1 else x.retry
    let s1 := s.setLink c l { x with naked := false, refused := x.refused + 1, retry := rest }
    if s.fld (cellKey c RTR_LINK_CFG) 0 4 ≤ x.refused + 1 then s1.bothEnds c l fun y => { y with stopped := true } else s1

/-- A flit comes back on the reverse link of (c, l), carrying nothing but ACKSEQ, NAK and credits: checked like any other, it acknowledges the
flits up to ACKSEQ, or asks for those after it again (R189, R193). -/
def idleReceive (s : State) (c l sb : Nat) : State :=
  let x := s.link c l
  let a := bits sb 17 8
  if !idleGood sb then ((s.incSatUn (cellKey c RTR_RETRY_CNT) 0 16 1).rtrLast c 0x30 (s.codeOf c l) 0).raiseLimCell 1000000 0x30 c (s.codeOf c l) 0
  else if bit sb 25 then s.nakReceive c l a
  else if x.naked || !x.retry.contains a then s
  else s.setLink c l { x with retry := (x.retry.dropWhile (· != a)).drop 1 }

/-- Acknowledgements come back on the reverse link each cycle: the flits of packets that crossed leave the retry buffer. -/
def linkAcks (s : State) (c : Nat) (x : Cell) : Cell :=
  { x with links := x.links.map fun p =>
      let kept := s.net.foldl (fun n q => if q.sent == some p.1 && (match q.pos with | .router e _ | .ring e => e == c | _ => false) then n + q.flits else n) 0
      (p.1, if p.2.stopped || p.2.naked then p.2 else { p.2 with retry := p.2.retry.drop (p.2.retry.length - kept) }) }

/-- Index of a crossing along its die side, and the side (R56). -/
def crossSide (l : Nat) : Nat := linkSide l - 1
def crossIndex (c l : Nat) : Nat := if l < 2 then cellPy c else cellPx c

/-- A failing wire found in service (R466, R467): a spare takes its place while one is unused. -/
def spareWire (s : State) (c l w : Nat) : State :=
  let d := cellDie c
  let out := s.wiresOut d (crossSide l) (crossIndex c l)
  if out.contains w || !steered (out ++ [w]) then s else
  let s1 := { s with boot := { s.boot with wires := (d, crossSide l, crossIndex c l, w) :: s.boot.wires } }
  ((s1.incSat (dieKey d FUSE_WIRES) (8 * crossSide l) 8 1).confirmFuse 5 2 d (crossSide l + crossIndex c l * 2 ^ 2 + w * 2 ^ 8)).raise
    0x85 (.dieUnit d (crossIndex c l)) 0 none

/-- The cells a packet is addressed to. -/
def destCells (s : State) (p : Pkt) : List Nat :=
  if p.phys then (if p.edge then [] else [cellAt p.die p.px p.py])
  else if p.mcast then
    (List.range (p.y1 + 1 - p.y)).flatMap fun v => (List.range (p.x1 + 1 - p.x)).filterMap fun u => s.physicalOf (p.x + u) (p.y + v)
  else (s.physicalOf p.x p.y).toList

/-- A packet has unacknowledged flits on link l of cell c. -/
def onLink (c l : Nat) (p : Pkt) : Bool := p.sent == some l && (match p.pos with | .router e _ | .ring e => e == c | _ => false)

/-- The origin and destination cells of the packets that a link loses when it fails (R194). -/
def lostCells (s : State) (c l : Nat) : List Nat := (s.net.filter (onLink c l)).flatMap fun p => p.org.toList ++ s.destCells p

/-- The packets with unacknowledged flits on a failed link are lost (R194). -/
def loseOn (s : State) (c l : Nat) : State :=
  (s.net.filter (onLink c l)).foldl (fun t p => t.endRequest p 3) { s with net := s.net.filter fun p => !onLink c l p }

/-- The engine controller keeps the ends of links that failed, for the routing state it loads (R223, R355). -/
def markEnd (s : State) (c l : Nat) : State :=
  if s.boot.failedEnds.contains (c, l) then s else { s with boot := { s.boot with failedEnds := (c, l) :: s.boot.failedEnds } }

/-- One end of a link is marked failed. -/
def failEnd (s : State) (c l : Nat) : State :=
  (if l = ringLink then s else (s.setFld (cellKey c RTR_LINK_STAT) l 1 1).markEnd c l).setLink c l
    { s.link c l with naked := false, stopped := false, refused := 0, await := true, retry := [] }

/-- Links of a cell toward a side, by code. -/
def sideLinks (side : Nat) : List Nat := if side = 0 then [2, 3, 4, 5, 6] else if side = 1 then [0] else if side = 2 then [7, 8, 9, 10, 11] else [1]

/-- The links that leave a cell toward a side, failed at both ends. -/
def failSide (s : State) (c side : Nat) : State :=
  (sideLinks side).foldl (fun t l =>
    match t.linkFar c l with | .cell e => (t.failEnd c l).failEnd e (backLink l) | _ => t) s

/-- A crossing fails: the links that leave the routers on either side of it at its index, at both ends (R414, R420). -/
def failLinks (s : State) (c side : Nat) : State :=
  let t := s.failSide c side
  match s.linkFar c ([4, 0, 9, 1].getD side 0) with
  | .cell e => t.failSide e ((side + 2) % 4)
  | _ => t

/-- What a boundary's registers show of a crossing that failed in service (R415, R420): its raw latency is 0xF, the largest of the others
and the degradation follow. -/
def boundaryShows (s : State) (d side i : Nat) : State :=
  let k := dieKey d (CAL_BND + 4 * side)
  let s1 := (s.setFld (dieKey d (CAL_BLAT0 + 0x20 * side + 4 * (i / 8))) (4 * (i % 8)) 4 0xF).incSat k 4 6 1
  let raw := (List.range 48).foldl (fun a c =>
    let v := s1.fld (dieKey d (CAL_BLAT0 + 0x20 * side + 4 * (c / 8))) (4 * (c % 8)) 4
    if v = 0xF then a else max a v) 0
  (s1.setFld k 10 4 raw).setFld k 15 1 (if 4 < s1.fld k 4 6 then 1 else 0)

/-- What the CAL blocks of both dies show of a die-boundary crossing that fails after its boundary was measured (R415, R420, R466). -/
def crossShows (s : State) (d e side i : Nat) : State :=
  (((s.incSat (dieKey d CAL_STAT) 8 8 1).incSat (dieKey e CAL_STAT) 8 8 1).boundaryShows d side i).boundaryShows e ((side + 2) % 4) i

/-- Whether a link in its die is an east or west one over a region boundary, which is a crossing of its own; an offset link is one of the
several of its crossing, and shows only in RTR_LINK_STAT (R420). -/
def dieCrossing (c e l : Nat) : Bool := decide (l < 2) && cellRegion c != cellRegion e

/-- A link that failed counts as a crossing of its die or of two dies (R420); that of two dies counts once, whichever of its links failed,
and joins those that degrade the boundary (R69). A crossing of the vertical seam reads LAT 0. -/
def failCounts (s : State) (c e l : Nat) : State :=
  let d := cellDie c
  if d = cellDie e then
    if !dieCrossing c e l then s
    else
      let s1 := s.incSat (dieKey d CAL_STAT) 8 8 1
      if min (cellPx c) (cellPx e) = 23 then s1.setFld (dieKey d (CAL_SEAM0 + 4 * (cellPy c / 8))) (4 * (cellPy c % 8)) 4 0 else s1
  else if s.crossFailed d (crossSide l) (crossIndex c l) then s
  else
    let side := crossSide l
    let s1 := { s with boot := { s.boot with failedX := s.boot.failedX ++ [(d, side, crossIndex c l)] } }
    (s1.crossShows d (cellDie e) side (crossIndex c l)).failLinks c side

/-- Repair-map entries of a failed link (R194): TYPE 6 for a crossing, else TYPE 1 for each cell whose end failed. -/
def failFuses (s : State) (c l : Nat) (near far : Bool) : State :=
  if s.crossing c l then s.confirmFuse 6 2 (cellDie c) (crossSide l + crossIndex c l * 2 ^ 2)
  else
    let s1 := if near || l == ringLink then s else s.confirmFuse 1 2 (cellDie c) (locCell c)
    match s.reverseOf c l with
    | some (e, m) => if far || m == ringLink then s1 else s1.confirmFuse 1 2 (cellDie e) (locCell e)
    | none => s1

/-- A crossing of two dies meets its boundary's PAD with the latency its retraining measured (R415). -/
def meetsPad (s : State) (c l raw : Nat) : Bool := !s.crossing c l || Nat.ble raw (s.fld (dieKey (cellDie c) (CAL_BND + 4 * crossSide l)) 0 4)

/-- Class 0x7F reason 4 (R415, R421): the crossing missed PAD after its retraining. -/
def padRec (s : State) (c l : Nat) : State :=
  s.raise 0x7F (.dieUnit (cellDie c) (crossIndex c l)) 
    (calDetail 4 (cellDie c) 0 (crossSide l) (crossIndex c l) 0 0 0) none

/-- A loopback test ends (R194, R415, R467); `near` and `far` say which end passed, `bad` the wires of a crossing found failing, `raw` its
latency after the retraining. -/
def loopback (s : State) (c l : Nat) (near far : Bool) (bad : List Nat) (raw : Nat) : State :=
  if !(s.link c l).stopped then s
  else
    let s0 := if s.crossing c l then bad.foldl (fun t w => t.spareWire c l w) s else s
    let whole := !s.crossing c l || bad.all fun w => (s0.wiresOut (cellDie c) (crossSide l) (crossIndex c l)).contains w
    let miss := near && far && whole && !s.meetsPad c l raw
    if near && far && whole && !miss then
      (((s0.bothEnds c l fun x => { x with stopped := false, refused := 0 }).incSatUn (cellKey c RTR_RETRY_CNT) 16 8 1).rtrLast c 0x31 l 0).raise
        0x31 (.cell c l) 0 none
    else
      let s1 := (if miss then s0.padRec c l else s0).failEnd c l
      let s2 := match s.reverseOf c l with | some (e, m) => (s1.failEnd e m).failCounts c e l | none => s1
      let ends := (c, l) :: (s.reverseOf c l).toList
      let s3 := ((s2.failFuses c l near far).rtrLast c 0x32 l 0).raiseFor (sevOf 0x32) 0x32 (.cell c l) 0
        (ends.flatMap fun e => s.lostCells e.1 e.2)
      ends.foldl (fun t e => t.loseOn e.1 e.2) s3

/-- The engine controller loads a router's detour entries; packets that waited for them go on (R195). -/
def detourLoad (s : State) (c : Nat) (es : List Word) : State :=
  let s1 := (es.take 16).zipIdx.foldl (fun t e => t.setReg (cellKey c (RTR_DETOUR + 4 * e.2)) (BitVec.ofNat 64 (bits e.1.toNat 0 25))) s
  (s1.setCell c { s1.cell c with links := (s1.cell c).links.map fun p => (p.1, { p.2 with await := false }) }).detoursIn c

/-- A multicast packet that waited 2^LIMIT cycles in a router, and cannot leave it in this cycle either, ends (R214). -/
def mcStall (s : State) (i : Nat) : State :=
  match s.net[i]? with
  | none => s
  | some p =>
    match p.pos with
    | .router c via =>
      if p.mcast && Nat.ble (2 ^ s.fld (cellKey c RTR_MC_WDOG) 0 5) p.waited && !s.mcReady i c p (s.mcOuts c via p) then
        (s.destCells p).foldl (fun t e => t.haltPanelOf e 0x36) ((s.replacePkt i []).pktRaise 0x36 c 0 p)
      else s
    | _ => s

/-! ### Injection (R198, R203, R321) -/

/-- Port that carries a host address, none where no port qualifies (R321). -/
def outPort (s : State) (a : Nat) : Option Nat :=
  let ok := s.part.ports.filter fun p => s.fld (pcieKey p PCIE_CTRL) 0 1 == 1 && s.portOpen p
  match ok with
  | [p] => some p
  | _ :: _ => some (if bit a 12 then 1 else 0)
  | [] => none

/-- Where a global address is served: a logical cell, or an agent of a die. -/
inductive Dest where
  | cell (x y : Nat)
  | agent (d : Nat)
  | bad (space : Nat)
  | noPort
deriving DecidableEq, Repr

def dest (s : State) (ga len : Nat) : Dest :=
  match s.target ga with
  | .spm .. | .cellCtl .. | .hole .. => .cell (bits ga 36 8) (bits ga 29 7)
  | .gddr a => if s.gddrReason a len ≠ 0 then .bad 0 else match s.locate a with | some g => .agent g.d | none => .bad 0
  | .dieCtl d _ => .agent d
  | .engCtl _ => .agent s.ctlDie
  | .host a => match s.outPort a with | some p => .agent (portDie p) | none => .noPort
  | .bad sp => .bad sp

/-- A cell's request that its router refuses (R39, R203, R321). -/
def refuseAtOrigin (s : State) (c : Nat) (p : Pkt) (why : Dest) : State :=
  match why with
  | .bad 0 => (s.gddrRefuse p.src (bits p.addr 0 44) (max 1 (s.gddrReason (bits p.addr 0 44) p.blen))).rtrLast c 0x44 0 p.tag
  | .bad 1 => (s.raise 0x25 (.cell c 0) (1 + 4 * 2 ^ 8 + bits p.addr 0 48 * 2 ^ 16) (originCell p.src)).rtrLast c 0x25 0 p.tag
  | .noPort => s.raise 0x65 (.engine 0) (3 + bits p.addr 0 44 * 2 ^ 16) (originCell p.src)
  | _ => (s.raise 0x34 (.cell c 0) 0 (originCell p.src)).rtrLast c 0x34 0 p.tag

/-- A cell's request enters the mesh at its router, or is refused there: false. -/
def inject (s : State) (c : Nat) (p : Pkt) : State × Bool :=
  match s.dest p.addr p.blen with
  | .cell x y => ({ s with net := s.net ++ [{ p with x := x, y := y, pos := .router c 0 }] }, true)
  | .agent d =>
    if s.dieReach (cellDie c) d then
      let q := { p with phys := true, edge := true, die := d, px := cellPx c, py := edgeRow s.part d, pos := .router c 0 }
      ({ s with net := s.net ++ [q] }, true)
    else (s.refuseAtOrigin c p (.bad 3), false)
  | w => (s.refuseAtOrigin c p w, false)

/-- The edge port at which an agent of die d enters the mesh toward column px (R198). -/
def entryPort (s : State) (d px : Nat) : Option Nat :=
  let row := edgeRow s.part d
  let ok := fun x => !s.routerDead (cellAt d x row) && (s.routingMode (cellAt d x row) || s.dieState d != 1)
  match ((List.range (px + 1)).reverse.find? ok) with
  | some x => some (cellAt d x row)
  | none => ((List.range 48).find? fun x => px < x && ok x).map fun x => cellAt d x row

/-- An agent's packet for a logical cell, as it stands in the I/O ring before its edge port (R198): in physical mode from a stranded
die. -/
def agentPkt (s : State) (d : Nat) (p : Pkt) : Option (Nat × Pkt) :=
  (s.physicalOf p.x p.y).bind fun c => (s.entryPort d (cellPx c)).map fun e =>
    (e, { (if s.dieState d = 1 then p else { p with phys := true, die := cellDie c, px := cellPx c, py := cellPy c }) with
      pos := .ring e, org := none })

/-- An agent's packet for a logical cell enters the mesh. -/
def agentInject (s : State) (d : Nat) (p : Pkt) : State :=
  match s.agentPkt d p with
  | some (_, q) => { s with net := s.net ++ [q] }
  | none => s

/-! ### Accesses of edge agents (R185, R198, R201, R519) -/

/-- The column by which agents of two dies speak about address `a` (R519): (a / 64) mod 48, or the nearest to the west, failing that
to the east, whose edge routers on both dies route. -/
def ringColumn (s : State) (d e a : Nat) : Option Nat :=
  let live := fun g x => !s.routerDead (cellAt g x (edgeRow s.part g)) && !s.passMode (cellAt g x (edgeRow s.part g))
  let ok := fun x => live d x && live e x
  let x0 := a / 64 % 48
  match (List.range (x0 + 1)).reverse.find? ok with
  | some x => some x
  | none => (List.range 48).find? fun x => x0 < x && ok x

/-- A packet carried at once is lost on a link that fails its loopback test: the panel of its destination cell halts (R194). -/
def loseAccess (s : State) (p : Pkt) : State := (s.destCells p).foldl (fun t e => t.haltPanelOf e 0x32) s

/-- A packet carried at once is about to cross a link: none, it does; else its walk ends: 0 delivered, by the detours it waited for (R195;
log 32), 1 discarded with class 0x35 (R201), 3 lost (R194). -/
def gateLink (s : State) (c l : Nat) (p : Pkt) : State × Option Nat :=
  if s.linkAwaits c l then
    match s.nextFate with
    | (t, true) => (t.pktRaise 0x35 c (s.codeOf c l) p, some 1)
    | (t, false) => (t, some 0)
  else if (if l = ringLink then s.linkFailed c (s.codeOf c l) else s.linkDead c l) then (s.pktRaise 0x35 c (s.codeOf c l) p, some 1)
  else if (s.link c l).stopped then
    match s.nextFate with
    | (t, true) => (t.loseAccess p, some 3)
    | (t, false) => (t, none)
  else (s, none)

/-- A packet goes from router to router at once, counting its flits at each (A5), until it is delivered: 0, has no usable link: 1, with
class 0x35 at the router that discards it (R201), or is lost: 3 (R194). -/
def walk (s : State) (c via : Nat) (p : Pkt) : Nat → State × Nat
  | 0 => (s, 1)
  | fuel + 1 =>
    if s.routerDead c then (s.pktRaise 0x35 c 0 p, 1)
    else match s.hopOf c via p with
      | (_, .loc) => (s, 0)
      | (q, .lost) => (s.pktRaise 0x35 c 0 q, 1)
      | (q, .link l) =>
        match s.gateLink c l q with
        | (t, some k) => (t, k)
        | (t, none) =>
          let s1 := t.act c 5 q.flits
          match s.linkFar c l with
          | .cell e => State.walk s1 e (opposite (linkSide l)) q fuel
          | _ => (s1, 0)

/-- A packet from the I/O ring enters by an edge port's router and goes on. -/
def walkIn (s : State) (e : Nat) (q : Pkt) : State × Nat :=
  match s.gateLink e ringLink q with
  | (t, some k) => (t, k)
  | (t, none) => t.walk e (if edgeRow s.part (cellDie e) = 0 then 1 else 3) q 1024

/-- A multicast packet goes its tree at once, router by router: the cells where it lands, and whether it ended nowhere. A router without
a usable link discards its branch (R201); at the router `stall` it waits for 2^LIMIT cycles, and the packet ends there (R210, R214). -/
def mcWalk (s : State) (p : Pkt) (stall : Option Nat) : Nat → List (Nat × Nat) → State × List Nat
  | 0, _ => (s, [])
  | _ + 1, [] => (s, [])
  | fuel + 1, (c, via) :: rest =>
    let o := s.mcOuts c via p
    if stall = some c then
      State.mcWalk ((s.destCells p).foldl (fun t e => t.haltPanelOf e 0x36) (s.pktRaise 0x36 c 0 p)) p stall fuel rest
    else if s.routerDead c then State.mcWalk (s.pktRaise 0x35 c 0 { p with org := none }) p stall fuel rest
    else match o.2.find? fun l => s.linkDead c l && !s.linkAwaits c l with
      | some l => State.mcWalk (s.pktRaise 0x35 c l { p with org := none }) p stall fuel rest
      | none =>
        let s1 := s.act c 5 (p.flits * o.2.length)
        let s2 := if o.1 then s1.takeCredit c else s1
        let next := o.2.filterMap fun l => match s.linkFar c l with | .cell e => some (e, opposite (linkSide l)) | _ => none
        let r := State.mcWalk s2 p stall fuel (next ++ rest)
        (r.1, if o.1 && !s.isHole c then c :: r.2 else r.2)

/-- A packet of firmware origin from one cell's load unit to another cell, and the answer (R238), or how either ended. -/
def cellToCell (s : State) (a b : Nat) (p : Pkt) (back : Pkt) : State × Nat :=
  match s.logicalOf a, s.logicalOf b with
  | some (ax, ay), some (bx, bY) =>
    match s.walk a 0 { p with x := bx, y := bY, org := none } 1024 with
    | (t, 0) => t.walk b 0 { back with x := ax, y := ay, org := none } 1024
    | r => r
  | _, _ => (s, 1)

/-- A cell's read of a register of an agent, and its answer, at once (R198). -/
def cellAsks (s : State) (c : Nat) (req : Req) (d ga len : Nat) : State × Nat :=
  let p := { Pkt.blank 2 req (.router c 0) with addr := ga, blen := len, phys := true, edge := true, die := d, px := cellPx c, py := edgeRow s.part d }
  match s.walk c 0 p 1024, s.logicalOf c with
  | (t, 0), some (x, y) =>
    match t.agentPkt d { Pkt.blank 3 req (.agent d) with x := x, y := y, addr := ga, blen := len, dlen := dlenOf len } with
    | some (e, q) => t.walkIn e q
    | none => (t, 1)
  | (t, k), _ => (t, k)

/-- A request for the agent of a die that no path reaches is refused where it would enter the mesh (R203). -/
def dieRefuse (s : State) (d : Nat) (p : Pkt) : State :=
  match p.src with
  | .host n => s.hostRefuse n p.addr 4
  | _ => s.raise 0x34 (.dieUnit d 0) 0 none

/-- The way of an agent's access: at its own die on the I/O ring alone, to another die's agent by a physical-mode packet with EDGE = 1
(R519), to a cell from the edge port of the cell's column (R198). The number says how it ended: 0 delivered, 1 refused or discarded, 3
lost. -/
def carry (s : State) (d : Nat) (p : Pkt) (t : Dest) : State × Nat :=
  match t with
  | .cell x y =>
    match s.agentPkt d { p with x := x, y := y } with
    | some (e, q) => s.walkIn e q
    | none => (s.raise 0x35 (.dieUnit d 0) (Pkt.detail { p with x := x, y := y } 0) none, 1)
  | .agent e =>
    if e = d then (s, 0)
    else if !s.dieReach d e then (s.dieRefuse d p, 1)
    else
      let q := { p with phys := true, edge := true, die := e, px := p.addr / 64 % 48, py := edgeRow s.part e, org := none }
      match s.ringColumn d e p.addr with
      | some x => s.walkIn (cellAt d x (edgeRow s.part d)) { q with px := x }
      | none => (s.raise 0x35 (.dieUnit d 0) (q.detail 0) none, 1)
  | _ => (s, 0)

/-- An access of an agent of die d to a global address goes out: a read, or a write of `len` bytes. -/
def carryOut (s : State) (d : Nat) (req : Req) (ga len : Nat) (write : Bool) : State × Nat :=
  let p := { Pkt.blank (if write then 1 else 2) req (.agent d) with addr := ga, blen := len, dlen := if write then dlenOf len else 0 }
  s.carry d p (s.dest ga len)

/-- The answer to an agent's access comes back: from a cell's router to the edge port in the cell's own column (R198), from another
die's agent as R519 states. -/
def carryBack (s : State) (d : Nat) (req : Req) (ga len : Nat) (write : Bool) : State × Nat :=
  let p := { Pkt.blank (if write then 4 else 3) req (.agent d) with addr := ga, blen := len, dlen := if write then 0 else dlenOf len }
  match s.dest ga len with
  | .cell x y =>
    match s.physicalOf x y with
    | some c => s.walk c 0 { p with phys := true, edge := true, die := d, px := cellPx c, py := edgeRow s.part d, org := some c } 1024
    | none => (s, 0)
  | .agent e => s.carry e p (.agent d)
  | _ => (s, 0)

/-- An access of an agent of die d: it goes out, acts, and its answer comes back; `lost` is the answer to a STATUS where the mesh discards
or loses either (R194, R201). -/
def carried {α : Type} (s : State) (d : Nat) (req : Req) (ga len : Nat) (write : Bool) (lost : Nat → α) (act : State → State × α) :
    State × α :=
  match s.carryOut d req ga len write with
  | (t, 0) =>
    let r := act t
    match r.1.carryBack d req ga len write with
    | (u, 0) => (u, r.2)
    | (u, k) => (u, lost k)
  | (t, k) => (t, lost k)

/-- A firmware packet in physical mode to a cell that no logical coordinate names, and its response: the way of the start-up tests and
of the self-test of spares (R186, R198). It enters by the edge port of the cell's own column, which a pass-through router forwards
straight on (DEDUCED, log 32), or by the nearest port where that router's rail is dark. -/
def carryPhys (s : State) (c : Nat) : State × Nat :=
  let d := cellDie c
  let own := cellAt d (cellPx c) (edgeRow s.part d)
  match if s.routerDead own then s.entryPort d (cellPx c) else some own with
  | none => (s, 1)
  | some e =>
    let p := { Pkt.blank 1 .firmware (.agent d) with phys := true, die := d, px := cellPx c, py := cellPy c, blen := 8 }
    match s.walkIn e p with
    | (t, 0) => t.walk c 0 { p with ptype := 4, edge := true, py := edgeRow s.part d, org := some c } 1024
    | r => r

/-- A signal of a packet as its target sees it. -/
def pktSignal (s : State) (p : Pkt) : Signal :=
  ⟨p.ctr, p.epoch, p.inc, p.org.bind s.logicalOf, p.origin == 3⟩

/-- A signal packet at its cell: judged with those of its cycle, or dropped at a hole (R203, R217). -/
def landSignal (s : State) (c : Nat) (p : Pkt) : State :=
  if s.isHole c then (s.raise 0x34 (.cell c 0) 0 (originCell p.src)).rtrLast c 0x34 0 p.tag
  else s.applySignal c 0 (s.pktSignal p)

/-- A signal of a host or fabric origin to a logical cell, carried at once like that agent's other packets, which it does not pass (R200,
R203, R327; log 32). -/
def agentSignal (s : State) (d : Nat) (src : Req) (x y ctr epoch inc : Nat) : State :=
  let p := { Pkt.blank 5 src (.agent d) with x := x, y := y, ctr := ctr, epoch := epoch, inc := inc }
  match s.physicalOf x y, s.carry d p (.cell x y) with
  | some c, (t, 0) => t.landSignal c p
  | _, r => r.1

end State

/-! ### Commands -/

/-- PACKET_ROUTE (R186, R189, R192, R193, R196-R201, R210-R213, R223): `errs` are the errors on the wires, by link. -/
def execPacketRoute (i : Nat) (errs : List (Nat × Nat)) (ecc : Nat) (s : State) : Res := .next (s.packetRoute i errs ecc)

/-- LINK_NAK_RECEIVE (R189, R193, R194): the sideband of an idle flit of the reverse link. -/
def execLinkNakReceive (c l sb : Nat) (s : State) : Res := .next (s.idleReceive c l sb)

/-- LOOPBACK_TEST_DONE (R194, R467). -/
def execLoopbackTestDone (c l : Nat) (near far : Bool) (wiresBad : List Nat) (raw : Nat) (s : State) : Res :=
  .next (s.loopback c l near far wiresBad raw)

/-- DETOUR_LOAD (R195, R199). -/
def execDetourLoad (c : Nat) (es : List Word) (s : State) : Res := .next (s.detourLoad c es)

/-- MC_STALL_WATCHDOG (R214). -/
def execMcStallWatchdog (i : Nat) (s : State) : Res := .next (s.mcStall i)

/-- MC_LAND_ADD (R212, R223). -/
def execMcLandAdd (c : Nat) (v : Word) (ecc : Nat) (s : State) : Res :=
  .next ((s.routerEcc c ecc).incSat (cellKey c RTR_MC_LAND) 0 16 (bits v.toNat 0 16))

end Sys2Proof.Machine
end

