-- ==== Sys2Proof/Machine/Tx.lean ====
section
/-! DEFINITION. The send unit (R208, R209), writes to SYNC_SIG (R216, R226) and the waits of the cores (R219-R221). -/

namespace Sys2Proof.Machine

/-- Pieces (offset in the run, length) of `n` bytes from address `a`, none across a 256-byte boundary (R208). -/
def pieces256 (a n : Nat) : List (Nat × Nat) :=
  let h := min n (256 - a % 256)
  (0, h) :: ((List.range ((n - h + 255) / 256)).map fun i => (h + 256 * i, min 256 (n - h - 256 * i)))

/-- Pieces that also stay inside a stripe of 960 bytes (R265). -/
def piecesOf (stripes : Bool) (a n : Nat) : List (Nat × Nat) :=
  (pieces256 a n).flatMap fun p =>
    let k := 960 - (a + p.1) % 960
    if stripes ∧ k < p.2 then [(p.1, k), (p.1 + k, p.2 - k)] else [p]

/-- Global address of a command's remote end. -/
def TxCmd.len (t : TxCmd) : Nat := 32 * t.units

def txPieces (t : TxCmd) : List (Nat × Nat) := piecesOf (bits t.dst 44 4 == 0) t.dst t.len

/-- Virtual channel of a command's packets (R187). -/
def TxCmd.vc (t : TxCmd) : Nat := if t.op = 3 then 2 else 0

namespace State

/-- The first check of R154 that fails on a run of bytes, with its offset. -/
def spmCheckRun (s : State) (c off len port : Nat) (fw : Bool) : Option (Nat × Nat × Nat) :=
  (wordsOf off len).findSome? fun o => (s.spmCheck c o port fw).map fun cr => (o, cr)

/-- The send unit stops and its queue is discarded (R209, R224). -/
def txStop (s : State) (c : Nat) : State := s.setCell c { s.cell c with tx := [] }

/-- A fresh TAG of a cell. -/
def newTag (s : State) (c : Nat) : State := s.setCell c { s.cell c with nextTag := ((s.cell c).nextTag + 1) % 65536 }

def modTx (s : State) (c : Nat) (f : TxCmd → TxCmd) : State :=
  s.setCell c { s.cell c with tx := match (s.cell c).tx with | t :: r => f t :: r | [] => [] }

/-- Packet of a piece of the running command, without its data. -/
def txPacket (s : State) (c : Nat) (t : TxCmd) (last : Bool) (p : Nat × Nat) : Pkt :=
  let sig := t.sig.toNat
  { Pkt.blank (if t.op = 1 then 1 else if t.op = 2 then 2 else 6) (.far c .head) (.router c 0) with
    ackreq := t.op == 1, sigf := last && bit sig 16, tag := (s.cell c).nextTag, addr := t.dst + p.1, blen := p.2,
    dlen := if t.op = 2 then 0 else dlenOf p.2, ctr := bits sig 0 6, epoch := bits sig 6 2, inc := bits sig 8 8 }

/-- One piece of the running command leaves; false once the unit has stopped. -/
def txSend (a : State × Bool) (c : Nat) (t : TxCmd) (last : Bool) (p : Nat × Nat) : State × Bool :=
  if !a.2 then a
  else
    let s := a.1.newTag c
    let q := s.txPacket c t last p
    let count := fun (u : State) => u.modTx c fun x => { x with sent := x.sent + p.2, waiting := if t.op = 3 then x.waiting else q.tag :: x.waiting }
    if t.op = 2 then
      match s.inject c q with
      | (u, true) => (count u, true)
      | (u, false) => (u.txStop c, false)
    else
      match s.spmCheckRun c (t.src + p.1) p.2 4 false with
      | some (o, cr) => ((s.spmRefuse c o 4 (.far c .head) cr).txStop c, false)
      | none =>
        let r := s.meshRead c (t.src + p.1) p.2
        let q' := { q with data := r.2.1, pois := r.2.2 }
        if t.op = 3 then
          match s.dest q.addr q.blen with
          | .cell .. => (count { r.1 with net := r.1.net ++ [{ q' with x := bits t.dst 36 8, y := bits t.dst 29 7, x1 := t.x1, y1 := t.y1 }] }, true)
          | w => ((r.1.refuseAtOrigin c q w).txStop c, false)
        else match r.1.inject c q' with
          | (u, true) => (count u, true)
          | (u, false) => (u.txStop c, false)

/-- Flits of the running command's next packet. -/
def txFlits (_ : State) (t : TxCmd) : Nat :=
  match (txPieces t).find? fun p => p.1 == t.sent with
  | some p => if t.op = 2 then 1 else 1 + dlenOf p.2
  | none => 1

/-- The running command may inject its next packet: the flits of the one before have left at one per router cycle, the router's local
buffer has room, and a get has fewer than 16 reads outstanding, in a slot in which its core gate delivers a pulse (R187, R205, R208, R402). -/
def txMay (s : State) (c : Nat) (t : TxCmd) : Bool :=
  s.corePulse c && decide (t.sent < t.len) && decide ((s.cell c).txAt ≤ (s.cell c).rcyc) && s.roomFor c 0 t.vc (s.txFlits t) &&
    (t.op != 2 || decide (t.waiting.length < 16))

/-- The running command injects its next packet, when it may; a halt between two packets drops the rest (R224; log 13). -/
def txAdvance (s : State) (c : Nat) : State :=
  match (s.cell c).tx with
  | [] => s
  | t :: _ =>
    if s.txMay c t then
      match (txPieces t).find? fun p => p.1 == t.sent with
      | some p =>
        let s1 := (txSend (s, true) c t (t.sent + p.2 == t.len) p).1
        s1.setCell c { s1.cell c with txAt := (s1.cell c).rcyc + (if t.op = 2 then 1 else 1 + dlenOf p.2) }
      | none => s
    else s

/-- The oldest command starts with its first packet (R208). -/
def txStart (s : State) (c : Nat) : State := s.txAdvance c

/-- Entries of the queue at the start of the router cycle: those freed in it count (R209). -/
def txAtStart (s : State) (c : Nat) : Nat :=
  let x := s.cell c
  x.tx.length + (if x.txFreed.1 = x.rcyc + 1 then x.txFreed.2 else 0)

/-- Refusal reason of a push (R209); 0 for none. -/
def txReason (s : State) (c op : Nat) : Nat :=
  let rg := fun o => (s.reg (cellKey c o)).toNat
  let units := bits (rg RTR_TX_LEN) 0 16
  let src := bits (rg RTR_TX_SRC) 0 21
  let d := bits (rg RTR_TX_DLO) 0 32 + bits (rg RTR_TX_DHI) 0 16 * 2 ^ 32
  let sig := rg RTR_TX_SIG
  let x1 := bits (rg RTR_TX_RECT) 0 8
  let y1 := bits (rg RTR_TX_RECT) 8 7
  if units = 0 ∨ 47104 < units then 1
  else if src % 32 ≠ 0 ∨ d % 32 ≠ 0 then 2
  else if 0x170000 < src + 32 * units then 3
  else if 4 ≤ s.txAtStart c then 4
  else if 2 ^ 21 ≤ rg RTR_TX_SRC ∨ 2 ^ 16 ≤ rg RTR_TX_DHI ∨ 2 ^ 16 ≤ rg RTR_TX_LEN ∨ 2 ^ 15 ≤ rg RTR_TX_RECT ∨ 2 ^ 26 ≤ sig ∨
      47 < bits sig 0 6 ∨ 47 < bits sig 18 6 then 5
  else if (op = 3 ∧ (bits d 44 4 ≠ 1 ∨ x1 < bits d 36 8 ∨ y1 < bits d 29 7 ∨ ¬ s.canvasValid ∨ s.canvasW ≤ x1 ∨ s.canvasH ≤ y1)) ∨
      (op = 2 ∧ bit sig 16) then 6
  else 0

/-- The staged command. -/
def txStaged (s : State) (c op : Nat) : TxCmd :=
  let rg := fun o => (s.reg (cellKey c o)).toNat
  { op := op, src := bits (rg RTR_TX_SRC) 0 21, dst := bits (rg RTR_TX_DLO) 0 32 + bits (rg RTR_TX_DHI) 0 16 * 2 ^ 32,
    units := bits (rg RTR_TX_LEN) 0 16, sig := BitVec.ofNat 32 (rg RTR_TX_SIG), x1 := bits (rg RTR_TX_RECT) 0 8,
    y1 := bits (rg RTR_TX_RECT) 8 7, sent := 0, waiting := [] }

/-- A push of RTR_TX_CMD: queued, or refused with class 0x39, which halts the panel of a cell that wrote it (R209, R227). -/
def txPush (s : State) (c op : Nat) (req : Req) : State :=
  let r := s.txReason c op
  if r ≠ 0 then ((s.setFld (cellKey c RTR_TX_STAT) 4 4 r).rtrLast c 0x39 0 0).raise 0x39 (.cell c 0) r (originCell req)
  else
    let idle := (s.cell c).tx.isEmpty
    let s1 := s.setCell c { s.cell c with tx := (s.cell c).tx ++ [s.txStaged c op] }
    if idle then s1.txStart c else s1

/-- A packet of the running multicast put has not left its origin router. -/
def txMcWaits (s : State) (c : Nat) : Bool :=
  s.net.any fun p => p.ptype == 6 && decide (p.org = some c) && decide (p.pos = .router c 0)

/-- Whether the running command is complete (R208). -/
def txDone (s : State) (c : Nat) (t : TxCmd) : Bool := t.sent == t.len && t.waiting.isEmpty && (t.op != 3 || !s.txMcWaits c)

/-- The running command completes: DONE increments, its own signal is applied, the next command starts; `ecc` is what the counter's check
bits show (R223). -/
def txComplete (s : State) (c ecc : Nat) : State :=
  match (s.cell c).tx with
  | [] => s
  | t :: rest =>
    if s.corePulse c ∧ s.txDone c t then
      let sig := t.sig.toNat
      let n := (if (s.cell c).txFreed.1 = (s.cell c).rcyc + 1 then (s.cell c).txFreed.2 else 0) + 1
      let s1 := (s.setCell c { s.cell c with tx := rest, txFreed := ((s.cell c).rcyc + 1, n) }).incWrap (cellKey c RTR_TX_STAT) 8 24 1
      let s2 := if bit sig 17 then (s1.routerEcc c ecc).applySignal c 0 ⟨bits sig 18 6, bits sig 24 2, 1, s1.logicalOf c, false⟩ else s1
      s2.txStart c
    else s

/-! ### SYNC_SIG (R216, R226) -/

/-- A write to SYNC_SIG that is refused (R226). -/
def sigBad (s : State) (c : Nat) (v : Nat) : Bool :=
  let x := bits v 16 8
  let y := bits v 24 7
  let x1 := s.fld (cellKey c SYNC_MC_SE) 0 8
  let y1 := s.fld (cellKey c SYNC_MC_SE) 8 7
  Nat.ble 48 (bits v 0 6) || !s.canvasValid ||
    (if bit v 31 then Nat.blt x1 x || Nat.blt y1 y || Nat.ble s.canvasW x1 || Nat.ble s.canvasH y1
     else Nat.ble s.canvasW x || Nat.ble s.canvasH y)

/-- Global address of a register of a physical cell's window. -/
def gaCtl (s : State) (c off : Nat) : Nat :=
  2 * 2 ^ 44 + off + (match s.logicalOf c with | some (x, y) => x * 2 ^ 36 + y * 2 ^ 29 | none => 0)

/-- The SYNC block of a cell sends the signal, or refuses the write: false. -/
def sigWrite (s : State) (c : Nat) (req : Req) (v : Word) : State × Bool :=
  let n := v.toNat
  if s.sigBad c n then
    (match req with
      | .host p => s.hostRefuse p (s.gaCtl c SYNC_SIG) 4
      | _ => (s.rtrLast c 0x34 0 0).raise 0x34 (.cell c 0) 0 (originCell req), false)
  else
    let mc := bit n 31
    let p := { Pkt.blank (if mc then 7 else 5) (.far c .head) (.router c 0) with
      x := bits n 16 8, y := bits n 24 7, x1 := if mc then s.fld (cellKey c SYNC_MC_SE) 0 8 else 0,
      y1 := if mc then s.fld (cellKey c SYNC_MC_SE) 8 7 else 0, ctr := bits n 0 6, epoch := bits n 6 2, inc := max 1 (bits n 8 8) }
    ({ s with net := s.net ++ [p] }, true)

/-! ### Waits (R219-R221) -/

/-- An FP or integer register of a core written; x0 discards. -/
def setX (s : State) (c : Nat) (k : CoreSel) (fp : Bool) (rd : Nat) (v : Word) : State :=
  let x := s.core c k
  if fp then s.setCore c k { x with f := x.f.set rd v } else if rd = 0 then s else s.setCore c k { x with x := x.x.set rd v }

def waitTarget (s : State) (c : Nat) (k : CoreSel) : Nat :=
  s.fld (cellKey c (match k with | .head => SYNC_HTGT | .tail => SYNC_TTGT)) 0 20

/-- The test of R219 holds. -/
def waitMet (s : State) (c : Nat) (w : WaitSt) : Bool := Nat.ble w.target (s.count c w.ctr)

/-- The delivered cycle in which the watchdog of a wait reaches its limit (R220). -/
def waitLimit (s : State) (c : Nat) (w : WaitSt) : Nat := w.start + s.fld (cellKey c SYNC_WDOG) 0 24 * 1024

/-- A wait whose test holds, not later than in the cycle of its limit, ends with the loaded value (R219, R220, R222). -/
def waitSatisfied (s : State) (c : Nat) (k : CoreSel) : State :=
  let x := s.core c k
  match x.wait with
  | some w =>
    if s.waitMet c w ∧ s.runs c ∧ (s.cell c).cyc ≤ s.waitLimit c w then
      (s.setCore c k { x with wait := none, pc := x.pc + BitVec.ofNat 32 w.len }).setX c k w.fp w.rd
        (BitVec.ofNat 32 (s.count c w.ctr + s.epoch c w.ctr * 2 ^ 20))
    else s
  | none => s

/-- Detail of class 0x37 (R518). -/
def waitDetail (s : State) (c : Nat) (k : CoreSel) (w : WaitSt) : Nat :=
  w.ctr + (match k with | .head => 0 | .tail => 2 ^ 6) + s.count c w.ctr * 2 ^ 8 + s.epoch c w.ctr * 2 ^ 28 + w.target * 2 ^ 32

/-- The watchdog of a wait (R220): in the cycle of the limit an arrival wins, after it none does (R222); a failed wait stops its core with STATE 2 where the record halts a
panel, else with STATE 3. -/
def waitExpire (s : State) (c : Nat) (k : CoreSel) : State :=
  let x := s.core c k
  match x.wait with
  | some w =>
    if !s.runs c ∨ (s.cell c).cyc < s.waitLimit c w ∨ (s.waitMet c w ∧ (s.cell c).cyc = s.waitLimit c w) then s
    else (s.raiseAt 0x37 c (s.waitDetail c k w)).stopCore c k (if s.haltable c then 2 else 3)
  | none => s

end State

/-! ### Commands -/

/-- TX_PUT (R208, R209). -/
def execTxPut (c : Nat) (req : Req) (s : State) : Res := .next ((s.dropPend req (keyBlock (cellKey c RTR_TX_CMD))).txPush c 1 req)

/-- TX_GET (R208, R209). -/
def execTxGet (c : Nat) (req : Req) (s : State) : Res := .next ((s.dropPend req (keyBlock (cellKey c RTR_TX_CMD))).txPush c 2 req)

/-- TX_MULTICAST_PUT (R208, R209). -/
def execTxMulticastPut (c : Nat) (req : Req) (s : State) : Res := .next ((s.dropPend req (keyBlock (cellKey c RTR_TX_CMD))).txPush c 3 req)

/-- TX_COMMAND_COMPLETE (R208, R223). -/
def execTxCommandComplete (c ecc : Nat) (s : State) : Res := .next (s.txComplete c ecc)

/-- SYNC_SIG_WRITE (R216, R226). -/
def execSyncSigWrite (c : Nat) (req : Req) (v : Word) (s : State) : Res :=
  .next ((s.dropPend req (keyBlock (cellKey c SYNC_SIG))).sigWrite c req v).1

/-- A wait as its cycle ends (R219, R220): satisfied, expired, or still waiting. -/
def State.waitSettle (s : State) (c : Nat) (k : CoreSel) : State := (s.waitSatisfied c k).waitExpire c k

/-- SYNC_WAIT_SATISFIED (R219, R223). -/
def execSyncWaitSatisfied (c : Nat) (k : CoreSel) (ecc : Nat) (s : State) : Res := .next ((s.routerEcc c ecc).waitSatisfied c k)

/-- SYNC_WAIT_WATCHDOG (R220). -/
def execSyncWaitWatchdog (c : Nat) (k : CoreSel) (s : State) : Res := .next (s.waitExpire c k)

end Sys2Proof.Machine
end

