-- ==== Sys2Proof/Machine/Fab.lean ====
section
/-! DEFINITION. The Xildo fabric (R281-R312): ports and their widths, queue contexts, submissions and commands, frames sent and
received, retry at both levels, failures, reduce-on-arrival. -/

namespace Sys2Proof.Machine

/-! ### Ports (R281-R285, R288) -/

/-- Key of a per-port register. -/
def fabKey (d p o : Nat) : Nat := dieKey d (o + 0x40 * p)

/-- `port_width` of R284: width and first lane. -/
def portWidth (failed cap minw : Nat) : Option (Nat × Nat) :=
  match ([8, 4, 2, 1].filter (· ≤ cap)).findSome? fun w =>
    ((List.range (8 / w)).find? fun i => bits failed (w * i) w == 0).map fun i => (w, w * i) with
  | some (w, f) => if w < minw then none else some (w, f)
  | none => none

/-- FAB_PSTAT.WIDTH of a width. -/
def widthCode (w : Nat) : Nat := if w = 8 then 4 else if w = 4 then 3 else if w = 2 then 2 else if w = 1 then 1 else 0

/-- Payload bytes per frame by MAXPAY. -/
def maxPay (code : Nat) : Nat := if code = 0 then 256 else if code = 1 then 1024 else 4096

/-- Pieces (offset, length) of `n` bytes at `a`, none across a multiple of `m`. -/
def piecesBy (m a n : Nat) : List (Nat × Nat) :=
  let h := min n (m - a % m)
  (0, h) :: ((List.range ((n - h + m - 1) / m)).map fun i => (h + m * i, min m (n - h - m * i)))

/-! ### Commands (R294) -/

/-- Bits of word w of a command. -/
def cfld (c : BitVec 256) (w lo n : Nat) : Nat := bits c.toNat (32 * w + lo) n
def cQueue (c : BitVec 256) : Nat := cfld c 0 0 16
def cOp (c : BitVec 256) : Nat := cfld c 0 16 4
def cRfmt (c : BitVec 256) : Nat := cfld c 0 20 2
def cRsig (c : BitVec 256) : Bool := cfld c 0 22 1 == 1
def cCsig (c : BitVec 256) : Bool := cfld c 0 23 1 == 1
def cLen (c : BitVec 256) : Nat := cfld c 1 0 24
def cLocal (c : BitVec 256) : Nat := cfld c 2 0 32 + cfld c 3 0 16 * 2 ^ 32
def cRemote (c : BitVec 256) : Nat := cfld c 4 0 32 + cfld c 3 16 16 * 2 ^ 32
def cSig (c : BitVec 256) : BitVec 32 := BitVec.ofNat 32 (cfld c 5 0 32)

/-- REASON 4: OP, RFMT, RSIG and the reserved fields. -/
def cBadForm (c : BitVec 256) : Bool :=
  cOp c == 0 || Nat.blt 4 (cOp c) || cRfmt c == 3 || (cRfmt c != 0 && cOp c != 4) || (!cRsig c && cOp c == 3) ||
    cfld c 0 24 8 != 0 || cfld c 1 24 8 != 0 || cfld c 5 31 1 != 0 || cfld c 6 23 9 != 0 || cfld c 7 0 32 != 0

/-- REASON 5: LEN and alignment. -/
def cBadLen (c : BitVec 256) : Bool :=
  if cOp c = 3 then cLen c != 0
  else cLen c % 32 != 0 || cLen c == 0 || cLocal c % 32 != 0 || cRemote c % 32 != 0

/-- The frame a command's piece becomes, without payload. -/
def cFrame (c : BitVec 256) (ftype : Nat) (tag gen : Nat) (last : Bool) (addr paylen : Nat) : Frame :=
  { rsvd := 0, crc := 0, ftype := ftype, rsig := cRsig c, last := last, rfmt := cRfmt c, paylen := paylen, dstEngine := 0,
    srcEngine := 0, dstQueue := 0, srcQueue := cQueue c, seq := 0, tag := tag, gen := gen, status := 0, addr := BitVec.ofNat 48 addr,
    sig := cSig c, pois := [], payload := [] }

/-! ### Framing (R286, R287) -/

/-- The 32-byte transport header. -/
def frameHead (f : Frame) : List Byte :=
  toLe 1 f.ftype ++
  toLe 1 ((if f.rsig then 1 else 0) + (if f.last then 2 else 0) + f.rfmt % 4 * 4 + (if f.pois = [] then 0 else 16) + bits f.rsvd 0 3 * 32) ++
  toLe 2 f.paylen ++ toLe 2 f.dstEngine ++ toLe 2 f.srcEngine ++ toLe 2 f.dstQueue ++ toLe 2 f.srcQueue ++ toLe 4 f.seq.toNat ++ toLe 2 f.tag ++
  toLe 1 (f.gen % 16 + f.status % 16 * 16) ++ toLe 1 (bits f.rsvd 3 8) ++ toLe 6 f.addr.toNat ++ toLe 4 f.sig.toNat ++ toLe 2 (bits f.rsvd 11 16)

/-- The 16-byte poison map, where POIS = 1: bit j marks bytes 32j to 32j + 31. -/
def poisMap (f : Frame) : List Byte :=
  if f.pois = [] then [] else toLe 16 ((List.range 128).map fun j => if f.pois.contains j then 2 ^ j else 0).sum

/-- Header, map and payload: what the frame's CRC covers. -/
def frameBody (f : Frame) : List Byte := frameHead f ++ poisMap f ++ f.payload

/-- A frame closed by its CRC-32C. -/
def sealFrame (f : Frame) : Frame := { f with crc := crc32c (frameBody f) }

/-- The frame as bytes. -/
def frameBytes (f : Frame) : List Byte := frameBody f ++ toLe 4 f.crc

/-- Class of a frame on a native link, LVC of R289: response or request. -/
def respClass (f : Frame) : Bool := [3, 6, 7, 15].contains f.ftype

/-- Credits a frame takes, in 256-byte units (log 35: of its transport frame, rounded up). -/
def frameUnits (f : Frame) : Nat := (frameBytes f).length / 256 + (if (frameBytes f).length % 256 = 0 then 0 else 1)

/-- The native link header of a port (R289): LSEQ, LACK, NAK, LVC, IDLE, and the credits it returns. -/
def linkHead (x : FPort) (lseq : Nat) (nak lvc idle : Bool) : List Byte :=
  toLe 4 (lseq % 4096 + x.lack % 4096 * 2 ^ 12 + (if nak then 2 ^ 24 else 0) + (if lvc then 2 ^ 25 else 0) + (if idle then 2 ^ 26 else 0)) ++
    toLe 4 (min x.owedReq 0xFFFF + min x.owedRsp 0xFFFF * 2 ^ 16)

/-- A native link frame: header, transport frame (none where IDLE), and the link CRC-32C over both. -/
def nativeBytes (head body : List Byte) : List Byte := head ++ body ++ toLe 4 (crc32c (head ++ body))

/-- An Ethernet frame (R287): addresses, tag, EtherType and transport frame, padded to the 64-byte minimum and closed by the FCS. -/
def etherBytes (dmac smac : BitVec 48) (vlan : Option Nat) (etype : Nat) (f : Frame) : List Byte :=
  let h := toBe 6 dmac.toNat ++ toBe 6 smac.toNat ++ (match vlan with | some t => toBe 2 0x8100 ++ toBe 2 t | none => []) ++ toBe 2 etype ++ frameBytes f
  let b := h ++ List.replicate (60 - h.length) 0
  b ++ toLe 4 (crc32 b)

namespace State

def pstate (s : State) (d p : Nat) : Nat := s.fld (fabKey d p FAB_PSTAT) 0 3
/-- MODE of a port: that in force since it came up, or the one it will train with (R288). -/
def ethernet (s : State) (d p : Nat) : Bool :=
  if s.pstate d p = 2 ∨ s.pstate d p = 3 then (s.fport d p).ether else s.fld (fabKey d p FAB_PCFG) 1 1 == 1
def engineId (s : State) (d : Nat) : Nat := s.fld (dieKey d FAB_ENGINE_ID) 0 16
def ctxDie (q : Nat) : Nat := q / 8192

/-- A record of a FAB. -/
def fabRec (s : State) (cls d uidx detail : Nat) : State := s.raise cls (.dieUnit d uidx) detail none

/-- Class 0x54 with its REASON and queue (R295, R518). -/
def fab54 (s : State) (d reason q : Nat) (struck : Option Nat) : State :=
  (s.setFld (dieKey d FAB_SUBMIT_STAT) 10 4 reason).raise 0x54 (.dieUnit d 0) (reason + q * 2 ^ 8) struck

/-! ### Sending frames -/

/-- Bytes of the frames that a native port keeps until they are acknowledged, at most 256 KiB (R289). -/
def retryBytes (x : FPort) : Nat := (x.retry.map fun e => (frameBytes e.2).length).sum

/-- A native frame leaves against credits of its class, with room in the retry buffer, after those of its class that wait (R289). -/
def mayLeave (x : FPort) (f : Frame) : Bool :=
  !(x.held.any fun e => respClass e.2 == respClass f) && decide (frameUnits f ≤ if respClass f then x.crRsp else x.crReq) &&
    decide (retryBytes x + (frameBytes f).length ≤ 262144)

/-- A link frame that a native port sends: it returns the credits owed. -/
def linkSend (s : State) (d p lseq : Nat) (nak lvc idle : Bool) (body : List Byte) : State :=
  let x := s.fport d p
  (s.setFport d p { x with owedReq := x.owedReq - min x.owedReq 0xFFFF, owedRsp := x.owedRsp - min x.owedRsp 0xFFFF, due := false }).emit
    (.frame d p (nativeBytes (linkHead x lseq nak lvc idle) body))

/-- A new frame leaves a native port: it takes credits, and stays in the retry buffer. -/
def nativeSend (s : State) (d p : Nat) (f : Frame) : State :=
  let x := s.fport d p
  let n := frameUnits f
  let y := { x with retry := x.retry ++ [(x.lseq, f)], lseq := (x.lseq + 1) % 4096,
                    crReq := if respClass f then x.crReq else x.crReq - n, crRsp := if respClass f then x.crRsp - n else x.crRsp }
  (s.setFport d p y).linkSend d p x.lseq false (respClass f) false (frameBytes f)

/-- A frame of the native retry buffer is sent again. -/
def nativeAgain (s : State) (d p : Nat) (e : Nat × Frame) : State := s.linkSend d p e.1 false (respClass e.2) false (frameBytes e.2)

/-- A frame goes to a port: sent, or waiting for credits, for room in the retry buffer, or for the end of a retrain. -/
def sendFrame (s : State) (d p : Nat) (dmac : BitVec 48) (f : Frame) : State :=
  let x := s.fport d p
  let g := sealFrame f
  let wait := s.setFport d p { x with held := x.held ++ [(dmac, g)] }
  if s.pstate d p = 2 then
    if s.ethernet d p then
      s.emit (.frame d p (etherBytes dmac (BitVec.ofNat 48 (s.reg (fabKey d p FAB_PMAC)).toNat) x.vlan x.etype g))
    else if mayLeave x g then s.nativeSend d p g
    else wait
  else if s.pstate d p = 1 ∨ s.pstate d p = 3 then wait
  else s

/-- Frames that wait at a port leave, as far as they may, in order. -/
def flushHeld (s : State) (d p : Nat) : State :=
  (s.fport d p).held.foldl (fun t e => t.sendFrame d p e.1 e.2) (s.setFport d p { s.fport d p with held := [] })

/-- A frame of a context, with its engines and queues filled in. -/
def sendCtx (s : State) (q : Nat) (f : Frame) : State :=
  let x := s.ctx q
  s.sendFrame (ctxDie q) x.port x.dmac { f with srcEngine := s.engineId (ctxDie q), dstEngine := x.peerEngine, srcQueue := q, dstQueue := x.peerQueue }

/-- A request frame takes the context's next SEQ; in Ethernet mode the sender keeps it (R302). -/
def sendSeq (s : State) (q : Nat) (f : Frame) : State :=
  let x := s.ctx q
  let g := { f with seq := x.txSeq, srcEngine := s.engineId (ctxDie q), dstEngine := x.peerEngine, srcQueue := q, dstQueue := x.peerQueue }
  let keep := s.ethernet (ctxDie q) x.port
  let prog := if x.unacked = [] then s.now else x.progress
  let y := { x with txSeq := x.txSeq + 1, unacked := if keep then x.unacked ++ [g] else x.unacked, progress := prog }
  (s.setCtx q y).sendFrame (ctxDie q) x.port x.dmac g

/-- A completion frame. -/
def sendDone (s : State) (q : Nat) (f : Frame) (status : Nat) : State :=
  s.sendCtx q { cFrame 0 6 f.tag f.gen true 0 0 with rsig := false, status := status, sig := 0 }

/-! ### Memory as the FAB reaches it (R297-R299) -/

/-- A run of local memory within one target, read by the FAB of die d: bytes, poisoned words, STATUS. -/
def agentReadPart (s : State) (d ga len : Nat) : State × List Byte × List Nat × Nat :=
  s.carried d (.agent d) ga len false (fun k => ([], [], k)) fun s => match s.target ga with
  | .gddr a => s.gddrReadNow (.agent d) a len
  | .spm c off =>
    match s.spmCheckRun c off len 4 false with
    | some (o, cr) => (s.spmRefuse c o 4 (.agent d) cr, [], [], 1)
    | none => let r := s.meshRead c off len; (r.1, r.2.1, r.2.2, if r.2.2 = [] then 0 else 2)
  | .hole _ c => ((s.raise 0x25 (.cell c 0) (2 + 4 * 2 ^ 8 + ga * 2 ^ 16) none).rtrLast c 0x25 0 0, [], [], 1)
  | _ => if bits ga 44 4 = 0 then (s.gddrRefuse (.agent d) (bits ga 0 44) (s.gddrReason (bits ga 0 44) len), [], [], 1)
      else (s.raise 0x25 (.engine 0) (1 + 4 * 2 ^ 8 + ga * 2 ^ 16) none, [], [], 1)

/-- A run of memory written by the FAB of die d: STATUS. -/
def agentWritePart (s : State) (d ga : Nat) (data : List Byte) (pois : List Nat) : State × Nat :=
  s.carried d (.agent d) ga data.length true id fun s => match s.target ga with
  | .gddr a => s.gddrWriteNow (.agent d) a data pois
  | .spm c off =>
    match s.spmCheckRun c off data.length 4 false with
    | some (o, cr) => (s.spmRefuse c o 4 (.agent d) cr, 1)
    | none => let r := s.meshWrite c off data pois none; (r.1, if r.2 then 0 else 2)
  | .hole _ c => ((s.raise 0x25 (.cell c 0) (2 + 4 * 2 ^ 8 + ga * 2 ^ 16) none).rtrLast c 0x25 0 0, 1)
  | _ => if bits ga 44 4 = 0 then (s.gddrRefuse (.agent d) (bits ga 0 44) (s.gddrReason (bits ga 0 44) data.length), 1)
      else (s.raise 0x25 (.engine 0) (1 + 4 * 2 ^ 8 + ga * 2 ^ 16) none, 1)

/-- Pieces of a run: GDDR7 runs divided at stripe boundaries (R265). -/
def agentPieces (ga len : Nat) : List (Nat × Nat) := if bits ga 44 4 = 0 then piecesBy 960 ga len else [(0, len)]

/-- A run read piece by piece; the larger STATUS rules, 1 above 2. -/
def agentRead (s : State) (d ga len : Nat) : State × List Byte × List Nat × Nat :=
  (agentPieces ga len).foldl (fun (a : State × List Byte × List Nat × Nat) p =>
    let r := a.1.agentReadPart d (ga + p.1) p.2
    (r.1, a.2.1 ++ r.2.1, a.2.2.1 ++ r.2.2.1.map (· + p.1 / 8), if a.2.2.2 = 1 ∨ r.2.2.2 = 1 then 1 else max a.2.2.2 r.2.2.2)) (s, [], [], 0)

def agentWrite (s : State) (d ga : Nat) (data : List Byte) (pois : List Nat) : State × Nat :=
  (agentPieces ga data.length).foldl (fun (a : State × Nat) p =>
    let ps := pois.filterMap fun w => if p.1 / 8 ≤ w ∧ 8 * w < p.1 + p.2 then some (w - p.1 / 8) else none
    let r := a.1.agentWritePart d (ga + p.1) ((data.drop p.1).take p.2) ps
    (r.1, if a.2 = 1 ∨ r.2 = 1 then 1 else max a.2 r.2)) (s, 0)

/-- Words of 32-byte units. -/
def unitWords (us : List Nat) : List Nat := us.flatMap fun j => [4 * j, 4 * j + 1, 4 * j + 2, 4 * j + 3]
/-- Units that hold poisoned words. -/
def poisUnits (len : Nat) (ws : List Nat) : List Nat := (List.range (len / 32)).filter fun j => ws.any fun w => w / 4 == j

/-! ### Failure and completion of commands (R300, R303) -/

/-- A tag slot is released and its context has one command less in flight. -/
def releaseTag (s : State) (d t q : Nat) : State :=
  let x := s.tag d t
  (s.setTag d t { Tag.reset with gen := (x.gen + 1) % 16 }).setCtx q { s.ctx q with inflight := (s.ctx q).inflight - 1 }

/-- A command in flight fails with its record. -/
def failTag (s : State) (d t cause : Nat) : State :=
  match (s.tag d t).cmd with
  | none => s
  | some fc =>
    let q := cQueue fc.cmd
    let s1 := s.releaseTag d t q
    (s1.setCtx q { s1.ctx q with state := 3, cause := cause }).raise 0x56 (.dieUnit d (s.ctx q).port)
      (cause + q * 2 ^ 8 + t * 2 ^ 24 + (s.tag d t).gen * 2 ^ 40) (originCell fc.req)

/-- Tag slots of a context's commands. -/
def tagsOf (s : State) (q : Nat) : List Nat :=
  s.tags.filterMap fun p => match p.2.cmd with
    | some fc => if p.1 / 65536 = ctxDie q ∧ cQueue fc.cmd = q then some (p.1 % 65536) else none
    | none => none

/-- Every command of a context fails with a cause. -/
def failCtx (s : State) (q cause : Nat) : State := (s.tagsOf q).foldl (fun t n => t.failTag (ctxDie q) n cause) s

/-- The commands of a context end without records (R291, R293). -/
def quietFail (s : State) (q : Nat) : State := (s.tagsOf q).foldl (fun t n => t.releaseTag (ctxDie q) n q) s

/-- Commands in flight on the contexts of a port fail. -/
def failPort (s : State) (d p cause : Nat) : State :=
  ((s.ctxs.filter fun e => ctxDie e.1 == d && e.2.port == p).map (·.1)).foldl (fun t q => t.failCtx q cause) s

/-- A command completes at the sender (R300). -/
def completeTag (s : State) (d t : Nat) (fc : FabCmd) : State :=
  let s1 := s.releaseTag d t (cQueue fc.cmd)
  if cCsig fc.cmd then
    s1.agentSignal d (.agent d) (cfld fc.cmd 6 8 8) (cfld fc.cmd 6 16 7) (cfld fc.cmd 6 0 6) (cfld fc.cmd 6 6 2) 1
  else s1

/-! ### Submission (R295) -/

/-- LOCAL lies in space 0x0 or 0x1 and holds the command (REASON 6). -/
def localOk (s : State) (c : BitVec 256) : Bool :=
  let ok := fun ga => match s.target ga with | .gddr _ | .spm .. => true | .hole sp _ => sp == 1 | _ => false
  cOp c == 3 || (ok (cLocal c) && ok (cLocal c + cLen c - 1))

/-- Reason of a refused submission, in order; 0 for none. -/
def submitReason (s : State) (req : Req) (d : Nat) (c : BitVec 256) : Nat :=
  let x := s.ctx (cQueue c)
  if ctxDie (cQueue c) ≠ d ∨ x.state ≠ 2 then 2
  else if (match originCell req with | some e => s.jobOf e != x.job | none => false) then 3
  else if cBadForm c then 4
  else if cBadLen c then 5
  else if !s.localOk c then 6
  else if (cRsig c ∧ 47 < cfld c 5 0 6) ∨ (cCsig c ∧ (47 < cfld c 6 0 6 ∨ ¬ s.canvasValid ∨ s.canvasW ≤ cfld c 6 8 8 ∨ s.canvasH ≤ cfld c 6 16 7)) then 7
  else 0

/-- A submission that arrives: queued, or refused with class 0x54; the STATUS the origin receives. -/
def submitNow (s : State) (req : Req) (d : Nat) (c : BitVec 256) : State × Nat :=
  let r := s.submitReason req d c
  if r ≠ 0 then (s.fab54 d r (cQueue c) (originCell req), 1)
  else ({ s with fabQ := s.fabQ ++ [(d, { cmd := c, req := req })] }, 0)

/-- The submit queue of a die holds 512 commands (R295). -/
def fabFull (s : State) (d : Nat) : Bool := decide (512 ≤ s.fabQ.countP fun q => q.1 == d)

/-- A submission; a full queue holds it back and refuses nothing: none. -/
def submit (s : State) (req : Req) (d : Nat) (c : BitVec 256) : State × Option Nat :=
  if s.fabFull d then ({ s with fabWait := s.fabWait ++ [(d, { cmd := c, req := req })] }, none)
  else let r := s.submitNow req d c; (r.1, some r.2)

/-- The answer to a submission that was not held back. -/
def submitAnswer (req : Req) (r : State × Option Nat) : State := match r.2 with | some st => r.1.answer req (.ack st) | none => r.1

/-- Submissions that were held back arrive as the queue has room, in order. -/
def fabAdmit (s : State) (d : Nat) : State :=
  (s.fabWait.filter fun e => e.1 == d).foldl (fun t e =>
    if t.fabFull d then t
    else
      let r := ({ t with fabWait := t.fabWait.erase e }).submitNow e.2.req d e.2.cmd
      r.1.answer e.2.req (.ack r.2)) s

def fabAdmitAll (s : State) : State := (List.range s.part.dies).foldl (fun t d => t.fabAdmit d) s

/-- A halted job's contexts (R293). -/
def haltCtxs (s : State) (id : Nat) : State :=
  let qs := match s.job? id with | some j => j.ctxs | none => []
  (qs.foldl (fun t q =>
    let u := ({ t with fabQ := t.fabQ.filter fun e => cQueue e.2.cmd != q }).quietFail q
    u.setCtx q { u.ctx q with state := 3 }) s).fabAdmitAll

/-- A command's OP replaced. -/
def withOp (c : BitVec 256) (op : Nat) : BitVec 256 := BitVec.ofNat 256 (c.toNat - cOp c * 2 ^ 16 + op * 2 ^ 16)

/-! ### Start (R296, R297, R308) -/

/-- The first queued command of a die that can start: its context below the limit, no earlier command of the context. -/
def startable (s : State) (d : Nat) : List (Nat × FabCmd) → List Nat → Option FabCmd
  | [], _ => none
  | (e, fc) :: rest, seen =>
    let q := cQueue fc.cmd
    let x := s.ctx q
    if e = d ∧ ¬ seen.contains q ∧ x.state = 2 ∧ x.inflight < x.outstanding ∧ s.pstate d x.port ≠ 1 ∧ s.pstate d x.port ≠ 3 then some fc
    else State.startable s d rest (q :: seen)

def freeTag (s : State) (d : Nat) : Option Nat :=
  let used := s.tags.filterMap fun p => if p.1 / 65536 = d ∧ p.2.cmd.isSome then some (p.1 % 65536) else none
  (List.range (used.length + 1)).find? fun t => !used.contains t && decide (t < 65536)

/-- The frames of a put or reduce with its data; false once a local read is refused. -/
def sendData (a : State × Bool) (d q t gen : Nat) (fc : FabCmd) (last : Bool) (p : Nat × Nat) : State × Bool :=
  if !a.2 then a
  else
    let c := fc.cmd
    let r := a.1.agentRead d (cLocal c + p.1) p.2
    if r.2.2.2 = 1 then (r.1.failTag d t 1, false)
    else
      let us := poisUnits p.2 r.2.2.1
      let f := { cFrame c (if cOp c = 1 then 1 else 5) t gen last (cRemote c + p.1) p.2 with pois := us, payload := r.2.1 }
      let s1 := r.1.sendSeq q f
      (if us = [] ∨ (s1.tag d t).pois then s1 else
        (s1.setTag d t { s1.tag d t with pois := true }).raise 0x59 (.dieUnit d (s1.ctx q).port) 0 (originCell fc.req), true)

/-- A command takes a tag slot and its frames are sent. -/
def startCmd (s : State) (d t : Nat) (fc : FabCmd) : State :=
  let c := fc.cmd
  let q := cQueue c
  let x := s.ctx q
  let gen := (s.tag d t).gen
  let s1 := ({ s with fabQ := s.fabQ.eraseP fun e => e.1 == d && e.2.cmd == c && decide (e.2.req = fc.req) }).setCtx q { x with inflight := x.inflight + 1 }
  let s2 := (s1.setTag d t { gen := gen, cmd := some fc, start := s.now, pois := false, got := 0 }).fabAdmit d
  if s.pstate d x.port ≠ 2 then s2.failTag d t 3
  else if cOp c = 3 then s2.sendSeq q (cFrame c 4 t gen true 0 0)
  else
    let m := maxPay (s.fld (fabKey d x.port FAB_PCFG) 4 2)
    let ps := piecesBy m (cRemote c) (cLen c)
    if cOp c = 2 then
      ps.zipIdx.foldl (fun u p => u.sendSeq q (cFrame c 2 t gen (p.2 + 1 == ps.length) (cRemote c + p.1.1) p.1.2)) s2
    else (ps.zipIdx.foldl (fun a p => sendData a d q t gen fc (p.2 + 1 == ps.length) p.1) (s2, true)).1

/-- FAB_COMMAND_START of a die. An error in control state (R310): `upset` 1 is uncorrectable, 2 + p is a single bit in the bookkeeping of
port p, corrected and counted. -/
def fabStart (s : State) (d upset : Nat) : State :=
  if upset = 1 then s.fabRec 0x5B d 0 0
  else
    let s := if upset = 0 then s else s.incSatUn (fabKey d ((upset - 2) % 3) FAB_PRETRY) 0 16 1
    match s.startable d s.fabQ [], s.freeTag d with
    | some fc, some t => s.startCmd d t fc
    | _, _ => s

/-! ### Receiving requests (R298, R299) -/

/-- A frame dropped by the first two checks: counted, and 0x5A at most once per port per millisecond. -/
def strange (s : State) (d p : Nat) : State := (s.incSatUn (fabKey d p FAB_PDROP) 0 16 1).raiseLim 1000000 0x5A (.dieUnit d p) 0

/-- A pause or priority flow control frame (R282): discarded and counted, without a record. -/
def pauseFrame (s : State) (d p : Nat) : State := s.incSatUn (fabKey d p FAB_PDROP) 0 16 1

/-- Check 1: CRC, FTYPE, fields, PAYLEN. A frame without payload has PAYLEN 0, but for a get request. -/
def frameBad (f : Frame) : Bool :=
  f.crc != crc32c (frameBody f) || f.rsvd != 0 || bit f.sig.toNat 31 || f.rfmt == 3 || Nat.ble 3 f.status ||
    f.paylen % 32 != 0 || Nat.blt 4096 f.paylen || ! [1, 2, 3, 4, 5, 6, 7, 15].contains f.ftype ||
    f.payload.length != (if f.ftype = 2 then 0 else f.paylen) || ([4, 6, 7, 15].contains f.ftype && f.paylen != 0)

/-- Check 2: DST_QUEUE lies on this engine and the frame comes from its peer. -/
def fromPeer (s : State) (f : Frame) : Bool :=
  let x := s.ctx f.dstQueue
  decide (ctxDie f.dstQueue < s.part.dies) && s.dieLive (ctxDie f.dstQueue) && f.dstEngine == s.engineId (ctxDie f.dstQueue) &&
    x.peerEngine == f.srcEngine && x.peerQueue == f.srcQueue && x.state != 0

/-- Check 5: the data range lies in space 0x0 or 0x1 and in the window. -/
def inWin (x : Ctx) (f : Frame) : Bool :=
  let a := f.addr.toNat
  f.ftype == 4 || (Nat.ble (bits a 44 4) 1 && Nat.ble ((a + f.paylen - 1) / 2 ^ 44) 1 && Nat.ble x.winBase a &&
    Nat.ble (a + f.paylen) (x.winBase + x.winLen))

/-- Check 6: the RSIG target. -/
def sigBadTarget (s : State) (f : Frame) : Bool :=
  let v := f.sig.toNat
  f.rsig && (Nat.ble 48 (bits v 0 6) || (match s.physicalOf (bits v 16 8) (bits v 24 7) with | some c => s.isHole c | none => true))

/-- A frame counts toward the acknowledgement of Ethernet mode. -/
def countAck (s : State) (q : Nat) : State :=
  let x := s.ctx q
  s.setCtx q { x with rxSeq := x.rxSeq + 1, toAck := x.toAck + 1, firstToAck := if x.toAck = 0 then s.now else x.firstToAck }

/-- An acknowledgement of the last in-order SEQ. -/
def sendAck (s : State) (q : Nat) : State :=
  let x := s.ctx q
  (s.setCtx q { x with toAck := 0 }).sendCtx q { cFrame 0 7 0 0 false 0 0 with rsig := false, sig := 0, seq := x.rxSeq - 1 }

/-- A refused frame: completion with STATUS 1, class 0x57. -/
def refuseFrame (s : State) (q : Nat) (f : Frame) : State := (s.sendDone q f 1).fabRec 0x57 (ctxDie q) (s.ctx q).port 0

/-- The checks of R298; `land` acts on an accepted frame. -/
def onRequest (s : State) (d p : Nat) (f : Frame) (land : State → State) : State :=
  let q := f.dstQueue
  if frameBad f ∨ ¬ s.fromPeer f then s.strange d p
  else if (s.ctx q).state ≠ 2 then
    let t := s.setCtx q { s.ctx q with dropping := !f.last }
    if (s.ctx q).dropping then t else t.refuseFrame q f
  else if f.seq ≠ (s.ctx q).rxSeq then
    if s.ethernet (ctxDie q) (s.ctx q).port then s.sendAck q
    else
      let s1 := s.failCtx q 4
      if (s.tagsOf q).isEmpty then
        (s1.setCtx q { s1.ctx q with state := 3, cause := 4 }).fabRec 0x56 (ctxDie q) (s.ctx q).port (4 + q * 2 ^ 8)
      else s1
  else
    let s1 := s.countAck q
    let x := s1.ctx q
    if x.dropping then s1.setCtx q { x with dropping := !f.last }
    else if !inWin x f || s1.sigBadTarget f then (s1.setCtx q { x with dropping := !f.last, landedPois := false, landedBad := false }).refuseFrame q f
    else land s1

/-- A native link header comes in: the frames up to its LACK are acknowledged, its credits are taken, and what waits may leave. -/
def linkHeader (s : State) (d p : Nat) (link : DWord) : State :=
  let x := s.fport d p
  let v := link.toNat
  let r := match x.retry.findIdx? fun e => e.1 == bits v 12 12 with | some i => x.retry.drop (i + 1) | none => x.retry
  (s.setFport d p { x with retry := r, crReq := x.crReq + bits v 32 16, crRsp := x.crRsp + bits v 48 16 }).flushHeld d p

/-- A native NAK: frames from LACK + 1 are sent again, counted and logged. -/
def linkNak (s : State) (d p : Nat) (link : DWord) : State :=
  let s0 := s.linkHeader d p link
  let r := (s0.fport d p).retry
  let s1 := r.foldl (fun t e => t.nativeAgain d p e) (s0.incSatUn (fabKey d p FAB_PRETRY) 0 16 r.length)
  if r = [] then s1 else s1.raiseLim 1000000 0x50 (.dieUnit d p) 0

/-- A frame reaches the transport layer: in native mode, where it is the next in order of its link; its buffer goes back as credits
of its class. One out of order is the copy of another and is dropped. -/
def linkRx (s : State) (d p : Nat) (f : Frame) (link : DWord) (act : State → State) : State :=
  if s.ethernet d p then act s
  else
    let s1 := if bit link.toNat 24 then s.linkNak d p link else s.linkHeader d p link
    let x := s1.fport d p
    if bits link.toNat 0 12 ≠ (x.lack + 1) % 4096 then s1
    else
      let n := frameUnits f
      let y := { x with
        lack := (x.lack + 1) % 4096, due := true,
        owedReq := if respClass f then x.owedReq else x.owedReq + n, owedRsp := if respClass f then x.owedRsp + n else x.owedRsp }
      act (s1.setFport d p y)

/-- A link frame without transport frame carries the credits and the acknowledgement that no other frame of the slot carried (R289; log 35:
when it is sent). -/
def linkIdle (s : State) (d p : Nat) : State :=
  if (s.fport d p).due && s.pstate d p == 2 && !s.ethernet d p then s.linkSend d p (s.fport d p).lseq false false true [] else s

/-- A frame whose native link CRC fails is discarded, and a NAK with LACK goes back. -/
def linkBad (s : State) (d p : Nat) : State :=
  if s.ethernet d p then s.strange d p else s.linkSend d p (s.fport d p).lseq true false true []

/-- Part of a put, signal or reduce has landed with a STATUS; after the last frame the signal and the completion follow. -/
def landed (s : State) (f : Frame) (st : Nat) : State :=
  let q := f.dstQueue
  let x := s.ctx q
  let bad := x.landedBad || st == 1
  let poi := x.landedPois || st == 2
  if !f.last then s.setCtx q { x with landedBad := bad, landedPois := poi }
  else
    let s1 := s.setCtx q { x with landedBad := false, landedPois := false }
    let v := f.sig.toNat
    let s2 := if f.rsig ∧ ¬ bad then
        s1.agentSignal (ctxDie q) (.agent (ctxDie q)) (bits v 16 8) (bits v 24 7) (bits v 0 6) (bits v 6 2) (bits v 8 8)
      else s1
    s2.sendDone q f (if bad then 1 else if poi then 2 else 0)

/-- A put frame's data; marked units are stored as poison (R308). -/
def landPut (s : State) (f : Frame) : State :=
  let r := s.agentWrite (ctxDie f.dstQueue) f.addr.toNat f.payload (unitWords f.pois)
  r.1.landed f (if r.2 = 1 then 1 else if f.pois ≠ [] ∨ r.2 = 2 then 2 else 0)

/-- A get request read and answered; a get response that carries poison has STATUS 2 (R299, R308). -/
def landGet (s : State) (f : Frame) : State :=
  let q := f.dstQueue
  let r := s.agentRead (ctxDie q) f.addr.toNat f.paylen
  let us := poisUnits f.paylen r.2.2.1
  let g := { cFrame 0 3 f.tag f.gen f.last 0 (if r.2.2.2 = 1 then 0 else f.paylen) with
    rsig := false, sig := 0, status := r.2.2.2, pois := us, payload := if r.2.2.2 = 1 then [] else r.2.1 }
  r.1.sendCtx q g

/-! ### Reduce (R305-R307) -/

/-- Elements of n bytes of a unit. -/
def elemsOf (n : Nat) (bs : List Byte) : List Nat := (List.range (bs.length / n)).map fun i => ofLe ((bs.drop (n * i)).take n)

/-- FP32 and BF16 sums of R305: any NaN result is the format's stated one. -/
def sum32 (a b : Nat) : Nat := (fpAdd fp32 0 a b).v
def sum16 (a b : Nat) : Nat := (fpAdd bf16 0 a b).v

/-- Anchored sum of two slots (R126); none where the anchors differ. -/
def sumSlot (a b : Nat) : Option Nat :=
  if bits a 118 10 ≠ bits b 118 10 then none
  else some ((bits a 0 112 + bits b 0 112) % 2 ^ 112 + (bits a 112 6 ||| bits b 112 6) * 2 ^ 112 + bits a 118 10 * 2 ^ 118)

/-- The sum of two units; none for differing anchors. -/
def sumUnit (rfmt : Nat) (a b : List Byte) : Option (List Byte) :=
  if rfmt = 0 then some (((elemsOf 4 a).zip (elemsOf 4 b)).flatMap fun p => toLe 4 (sum32 p.1 p.2))
  else if rfmt = 1 then some (((elemsOf 2 a).zip (elemsOf 2 b)).flatMap fun p => toLe 2 (sum16 p.1 p.2))
  else (((elemsOf 16 a).zip (elemsOf 16 b)).mapM fun p => sumSlot p.1 p.2).map fun l => l.flatMap (toLe 16)

/-- One unit of a reduce: STATUS. -/
def reduceUnit (a : State × Nat) (f : Frame) (j : Nat) : State × Nat :=
  let d := ctxDie f.dstQueue
  let ga := f.addr.toNat + 32 * j
  let poisoned := [0, 1, 2, 3]
  let r := a.1.agentRead d ga 32
  let out := fun (t : State × Nat) (least : Nat) => (t.1, if a.2 = 1 ∨ t.2 = 1 then 1 else max (max a.2 t.2) least)
  if r.2.2.2 = 1 then (r.1, 1)
  else if f.pois.contains j ∨ r.2.2.2 = 2 then out (r.1.agentWrite d ga (List.replicate 32 0) poisoned) 2
  else match sumUnit f.rfmt r.2.1 ((f.payload.drop (32 * j)).take 32) with
    | some bs => out (r.1.agentWrite d ga bs []) 0
    | none => out ((r.1.fabRec 0x58 d (r.1.ctx f.dstQueue).port 0).agentWrite d ga (List.replicate 32 0) poisoned) 2

def landReduce (s : State) (f : Frame) : State :=
  let r := (List.range (f.paylen / 32)).foldl (fun a j => reduceUnit a f j) (s, 0)
  r.1.landed f r.2

/-! ### Receiving responses (R300-R302) -/

/-- The command a response names, when its GEN is current. -/
def current (s : State) (d : Nat) (f : Frame) : Option FabCmd := if (s.tag d f.tag).gen = f.gen then (s.tag d f.tag).cmd else none

/-- A stale response (R301). -/
def staleFrame (s : State) (d p : Nat) : State := (s.incSatUn (fabKey d p FAB_PDROP) 16 16 1).raiseLim 1000000 0x55 (.dieUnit d p) 0

/-- A response frame passes the first two checks, and its TAG is current; `act` acts on it. -/
def onResponse (s : State) (d p : Nat) (f : Frame) (act : State → FabCmd → State) : State :=
  if frameBad f ∨ ¬ s.fromPeer f then s.strange d p
  else match s.current (ctxDie f.dstQueue) f with
    | some fc => if cQueue fc.cmd = f.dstQueue then act s fc else s.staleFrame d p
    | none => s.staleFrame d p

/-- A get response's data is written locally. -/
def getData (s : State) (f : Frame) (fc : FabCmd) : State :=
  let d := ctxDie f.dstQueue
  if f.status = 1 then s.failTag d f.tag 1
  else
    let x := s.tag d f.tag
    let r := s.agentWrite d (cLocal fc.cmd + x.got) f.payload (unitWords f.pois)
    if r.2 = 1 then r.1.failTag d f.tag 1
    else
      let s1 := r.1.setTag d f.tag { x with got := x.got + f.paylen }
      if cLen fc.cmd ≤ x.got + f.paylen then s1.completeTag d f.tag fc else s1

/-- A completion; an anchored reduce with STATUS 2 fails with cause 6 (R306). -/
def cmdDone (s : State) (f : Frame) (fc : FabCmd) : State :=
  let d := ctxDie f.dstQueue
  if f.status = 1 then s.failTag d f.tag 1
  else if f.status = 2 ∧ cOp fc.cmd = 4 ∧ cRfmt fc.cmd = 2 then s.failTag d f.tag 6
  else s.completeTag d f.tag fc

/-- An acknowledgement releases the frames up to its SEQ. -/
def ackFrame (s : State) (d p : Nat) (f : Frame) : State :=
  if frameBad f ∨ ¬ s.fromPeer f then s.strange d p
  else
    let x := s.ctx f.dstQueue
    match x.unacked.findIdx? fun g => g.seq == f.seq with
    | some i => s.setCtx f.dstQueue { x with unacked := x.unacked.drop (i + 1), progress := s.now, rto := 0 }
    | none => s

/-- A fault notice (R304): one record for each context. -/
def faultNotice (s : State) (d p : Nat) (f : Frame) : State :=
  if frameBad f then s.strange d p
  else
    ((s.ctxs.filter fun e => e.2.state == 2 && e.2.peerEngine == f.srcEngine).map (·.1)).foldl (fun t q =>
      let e := ctxDie q
      let ts := t.tagsOf q
      let cells := ts.filterMap fun n => (t.tag e n).cmd.bind fun fc => originCell fc.req
      let n := ts.head?.getD 0
      let u := t.quietFail q
      let v := (if ts = [] then u else u.setCtx q { u.ctx q with state := 3, cause := 5 }).raise 0x56 (.dieUnit e (t.ctx q).port)
        (5 + q * 2 ^ 8 + n * 2 ^ 24 + (t.tag e n).gen * 2 ^ 40) cells.head?
      cells.tail.foldl (fun w c => w.haltPanelOf c 0x56) v) s

/-! ### Retry (R289, R302) -/

/-- The acknowledgement of Ethernet mode falls due after 8 frames or 5 µs. -/
def ackDue (s : State) (q : Nat) : Bool :=
  let x := s.ctx q
  s.ethernet (ctxDie q) x.port && (Nat.ble 8 x.toAck || (x.toAck != 0 && Nat.ble (x.firstToAck + 5000) s.now))

/-- Resend interval in force in µs. -/
def rtoOf (s : State) (q : Nat) : Nat :=
  if (s.ctx q).rto = 0 then s.fld (fabKey (ctxDie q) (s.ctx q).port FAB_PTIME) 0 16 else (s.ctx q).rto

/-- No acknowledgement advanced for the interval: every unacknowledged frame is sent again and the interval doubles. -/
def resend (s : State) (q : Nat) : State :=
  let x := s.ctx q
  if x.unacked = [] ∨ s.now < x.progress + 1000 * s.rtoOf q then s
  else
    let s1 := (s.setCtx q { x with rto := min 10000 (2 * s.rtoOf q), progress := s.now }).incSatUn (fabKey (ctxDie q) x.port FAB_PRETRY) 16 16 x.unacked.length
    x.unacked.foldl (fun t f => t.sendFrame (ctxDie q) x.port x.dmac f) s1

/-- REQ_TO has passed (R303). -/
def cmdTimeout (s : State) (d t : Nat) : State :=
  match (s.tag d t).cmd with
  | some fc =>
    if (s.tag d t).start + 1000000 * s.fld (fabKey d (s.ctx (cQueue fc.cmd)).port FAB_PTIME) 16 16 ≤ s.now then s.failTag d t 2 else s
  | none => s

/-! ### Ports (R284, R285, R288) -/

/-- A port without its EtherType or engine identity is held down. -/
def unconfigured (s : State) (d p : Nat) : Bool :=
  s.engineId d == 0xFFFF || (s.fld (fabKey d p FAB_PCFG) 1 1 == 1 && s.fld (fabKey d p FAB_PETYPE) 0 16 == 0)

/-- A port comes up with the framing that its registers give (R287, R288), under the lane licence or not (R283). -/
def takeFraming (s : State) (d p : Nat) : State :=
  let v := (s.reg (fabKey d p FAB_PCFG)).toNat
  s.setFport d p
    { s.fport d p with
    ether := bit v 1, etype := s.fld (fabKey d p FAB_PETYPE) 0 16,
    licd := s.fld (ecKey LIC_STAT) 0 1 == 1, vlan := if bit v 6 then some (bits v 8 12 + bits v 20 3 * 2 ^ 13) else none }

/-- A native link comes up anew: sequence numbers begin again, and the partner advertises its buffers (R289). -/
def linkBegin (s : State) (d p crReq crRsp : Nat) : State :=
  s.setFport d p { s.fport d p with retry := [], lseq := 0, lack := 0xFFF, crReq := crReq, crRsp := crRsp, owedReq := 0, owedRsp := 0, due := false }

def setPstate (s : State) (d p st : Nat) : State := s.setFld (fabKey d p FAB_PSTAT) 0 3 st

/-- WIDTH and FIRST of a port that runs on no lane. -/
def noWidth (s : State) (d p : Nat) : State := (s.setFld (fabKey d p FAB_PSTAT) 4 3 0).setFld (fabKey d p FAB_PSTAT) 7 3 0

/-- A port leaves service with its commands in flight and the frames that wait at it. -/
def portDown (s : State) (d p st : Nat) : State :=
  ((s.setFport d p { s.fport d p with pendDisable := false, held := [] }).setPstate d p st |>.noWidth d p).failPort d p 3

/-- The port starts to train, or is held down with class 0x5C once per start. -/
def trainPort (s : State) (d p st : Nat) : State :=
  if s.unconfigured d p then
    let x := s.fport d p
    let s1 := (s.setPstate d p 4).setFport d p { x with cfgLogged := true }
    if x.cfgLogged then s1 else s1.fabRec 0x5C d p 0
  else s.setPstate d p st

/-- A write that may supply what a port held down unconfigured misses lets it train (R288). -/
def cfgSupplied (s : State) (d p : Nat) : State := if s.pstate d p = 4 ∧ ¬ s.unconfigured d p then s.setPstate d p 1 else s

/-- A write that takes from a port what it needs holds it down (R288). -/
def cfgMissing (s : State) (d p : Nat) : State :=
  if 1 ≤ s.pstate d p ∧ s.pstate d p ≤ 3 ∧ s.engineId d = 0xFFFF then (s.portDown d p 4).trainPort d p 1 else s

/-- An up port retrains alone. -/
def retrain (s : State) (d p : Nat) : State := if s.pstate d p = 2 then s.setPstate d p 3 else s

/-- FAB_PCMD.RETRAIN: an up port retrains, a disabled one with EN = 1 tries again. -/
def pcmd (s : State) (d p : Nat) : State :=
  if s.pstate d p = 2 then s.retrain d p
  else if (s.pstate d p = 0 ∨ s.pstate d p = 4 ∨ s.pstate d p = 5) ∧ s.fld (fabKey d p FAB_PCFG) 0 1 = 1 then s.trainPort d p 1
  else s

/-- Detail of classes 0x51 to 0x53. -/
def portDetail (s : State) (d p : Nat) : Nat :=
  let v := s.reg (fabKey d p FAB_PSTAT)
  3 * d + p + bits v.toNat 4 3 * 2 ^ 8 + bits v.toNat 7 3 * 2 ^ 11 + bits v.toNat 10 8 * 2 ^ 16

/-- Lanes of a port marked failed, each with its repair-map entry. -/
def markLanes (s : State) (d p bad : Nat) : State :=
  let s1 := s.setFld (fabKey d p FAB_PSTAT) 10 8 (s.fld (fabKey d p FAB_PSTAT) 10 8 ||| bad)
  (List.range 8).foldl (fun t i => if bit bad i then t.confirmFuse 8 4 d (8 * p + i) else t) s1

/-- What a port that came up has waiting: native mode resends its retry buffer, counted and logged, and held frames leave (R285, R289). -/
def resume (s : State) (d p : Nat) : State :=
  let r := (s.fport d p).retry
  let s1 := if s.ethernet d p ∨ r = [] then s
    else (r.foldl (fun t e => t.nativeAgain d p e) (s.incSatUn (fabKey d p FAB_PRETRY) 0 16 r.length)).raiseLim 1000000 0x50 (.dieUnit d p) 0
  s1.flushHeld d p

/-- A lane licence in force: the lowest up port that has not trained under it retrains, one port at a time (R283). -/
def licRetrain (s : State) : State :=
  let ports := List.range (3 * s.part.dies)
  let old := fun i => !(s.fport (i / 3) (i % 3)).licd
  if s.fld (ecKey LIC_STAT) 0 1 = 0 ∨ ports.any (fun i => s.pstate (i / 3) (i % 3) == 3 && old i) then s
  else match ports.find? fun i => s.pstate (i / 3) (i % 3) == 2 && old i with
    | some i => s.retrain (i / 3) (i % 3)
    | none => s

/-- A port comes up at a width (R284, R285); a native link that was down, or ran Ethernet framing, begins anew (R289). -/
def portUp (s : State) (d p was w f crReq crRsp : Nat) : State :=
  let old := s.fld (fabKey d p FAB_PSTAT) 4 3
  let s1 := if was = 1 ∨ ((s.fport d p).ether ∧ s.fld (fabKey d p FAB_PCFG) 1 1 = 0) then s.linkBegin d p crReq crRsp else s
  let u := ((((s1.takeFraming d p).setPstate d p 2).setFld (fabKey d p FAB_PSTAT) 4 3 (widthCode w)).setFld (fabKey d p FAB_PSTAT) 7 3 f).resume d p
  if was = 3 then
    let v := u.fabRec 0x51 d p (u.portDetail d p)
    if widthCode w < old then v.fabRec 0x52 d p (v.portDetail d p) else v
  else u

/-- Training ends (R284, R285): the port comes up, is held down unconfigured (R288), or is disabled. -/
def trainDone (s : State) (d p bad crReq crRsp : Nat) : State :=
  let was := s.pstate d p
  if was ≠ 1 ∧ was ≠ 3 then s
  else
    let s1 := s.markLanes d p bad
    let cap := if s.fld (ecKey LIC_STAT) 0 1 = 1 then 8 else 4
    let s2 :=
      if s1.unconfigured d p then (s1.portDown d p 4).trainPort d p 1
      else match portWidth (s1.fld (fabKey d p FAB_PSTAT) 10 8) cap (2 ^ s1.fld (fabKey d p FAB_PCFG) 2 2) with
      | some (w, f) => s1.portUp d p was w f crReq crRsp
      | none =>
        let u := (s1.setPstate d p 5).noWidth d p
        (u.fabRec 0x53 d p (u.portDetail d p)).failPort d p 3
    if (s.fport d p).pendDisable then (s2.portDown d p 0).licRetrain else s2.licRetrain

/-- FAB_PCFG.EN (R311). -/
def portEn (s : State) (d p : Nat) (en : Bool) : State :=
  let s1 := s.setFld (fabKey d p FAB_PCFG) 0 1 (if en then 1 else 0)
  let st := s.pstate d p
  if en then (if st = 0 then s1.trainPort d p 1 else s1.setFport d p { s1.fport d p with pendDisable := false })
  else if st = 1 ∨ st = 3 then s1.setFport d p { s1.fport d p with pendDisable := true }
  else s1.portDown d p 0

/-- Fault notices on every up port (R304). -/
def faultNotices (s : State) : State :=
  (List.range (3 * s.part.dies)).foldl (fun t i =>
    let d := i / 3
    let p := i % 3
    let f := { cFrame 0 15 0 0 false 0 0 with rsig := false, sig := 0, srcEngine := t.engineId d, dstEngine := 0xFFFF }
    if t.pstate d p = 2 then
      if t.ethernet d p then
        let ms := ((t.ctxs.filter fun e => ctxDie e.1 == d && e.2.port == p && e.2.state == 2).map (·.2.dmac)).eraseDups
        ms.foldl (fun u m => u.sendFrame d p m f) t
      else t.sendFrame d p 0 f
    else t) s

/-! ### Contexts (R290-R292) -/

/-- A write that R292 or R311 ignores. -/
def cfgIgnored (s : State) (d q : Nat) : State := s.fab54 d 8 q none

/-- STATE = 2 written to a context. -/
def ctxOpen (s : State) (q : Nat) : State :=
  let x := s.ctx q
  let d := ctxDie q
  if x.state = 2 then s
  else if x.state = 0 ∨ x.port = 3 ∨ x.peerEngine = 0xFFFF ∨ (s.ethernet d x.port ∧ x.dmac = 0) then s.cfgIgnored d q
  else s.setCtx q { x with state := 2, txSeq := 0, rxSeq := 0, cause := 0, unacked := [], rto := 0, toAck := 0, dropping := false, landedPois := false, landedBad := false }

/-- STATE = 1 written to a context. -/
def ctxClose (s : State) (q : Nat) : State :=
  let x := s.ctx q
  if x.state = 0 then s.cfgIgnored (ctxDie q) q
  else if x.state = 1 then s
  else
    let s1 := s.failCtx q 7
    s1.setCtx q { s1.ctx q with state := 1 }

/-- Free contexts of a die. -/
def freeCtxs (s : State) (d n : Nat) : List Nat :=
  ((List.range (min 8192 (n + s.ctxs.length))).map (d * 8192 + ·)).filter fun q => (s.ctx q).state == 0

/-- Dies whose contexts exist. -/
def ctxDies (s : State) : List Nat := (List.range s.part.dies).filter s.dieLive

/-- Contexts taken from dies in turn, lowest index first, until `n` are taken or the dies are exhausted (R291). -/
def takeTurns (ls : List (List Nat)) : Nat → List Nat
  | 0 => []
  | fuel + 1 => match ls.filter (· ≠ []) with
    | [] => []
    | ms => ms.filterMap List.head? ++ takeTurns (ms.map List.tail) fuel

/-- The contexts a job of `n` gets, with the dies of its rectangle. -/
def chooseCtxs (s : State) (dies : List Nat) (n : Nat) : List Nat :=
  let a := (takeTurns (dies.map fun d => s.freeCtxs d n) n).take n
  let others := (s.ctxDies.filter fun d => !dies.contains d).flatMap fun d => s.freeCtxs d n
  a ++ others.take (n - a.length)

/-- Number of free contexts of the engine. -/
def freeCtxCount (s : State) : Nat := 8192 * s.ctxDies.length - (s.ctxs.filter fun e => e.2.state != 0 && s.dieLive (ctxDie e.1)).length

def allocCtxs (s : State) (id : Nat) (dies : List Nat) (n : Nat) : State :=
  let qs := s.chooseCtxs dies n
  (qs.foldl (fun t q => t.setCtx q { Ctx.reset with state := 1, job := id }) s).modJob id fun j => { j with ctxs := qs }

/-- End of a job frees its contexts (R291). -/
def freeJobCtxs (s : State) (id : Nat) : State :=
  let qs := match s.job? id with | some j => j.ctxs | none => []
  (qs.foldl (fun t q => (({ t with fabQ := t.fabQ.filter fun e => cQueue e.2.cmd != q }).quietFail q).setCtx q Ctx.reset) s).fabAdmitAll

end State

/-! ### Commands -/

/-- FAB_SUBMIT_PUT (R294, R295). -/
def execFabSubmitPut (req : Req) (d : Nat) (c : BitVec 256) (s : State) : Res :=
  .next (State.submitAnswer req ((s.dropPend req (keyBlock (dieKey d FAB_SUBMIT))).submit req d (State.withOp c 1)))

/-- FAB_SUBMIT_GET (R294, R295). -/
def execFabSubmitGet (req : Req) (d : Nat) (c : BitVec 256) (s : State) : Res :=
  .next (State.submitAnswer req ((s.dropPend req (keyBlock (dieKey d FAB_SUBMIT))).submit req d (State.withOp c 2)))

/-- FAB_SUBMIT_SIGNAL (R294, R295). -/
def execFabSubmitSignal (req : Req) (d : Nat) (c : BitVec 256) (s : State) : Res :=
  .next (State.submitAnswer req ((s.dropPend req (keyBlock (dieKey d FAB_SUBMIT))).submit req d (State.withOp c 3)))

/-- FAB_SUBMIT_REDUCE (R294, R295). -/
def execFabSubmitReduce (req : Req) (d : Nat) (c : BitVec 256) (s : State) : Res :=
  .next (State.submitAnswer req ((s.dropPend req (keyBlock (dieKey d FAB_SUBMIT))).submit req d (State.withOp c 4)))

/-- FAB_COMMAND_START (R296, R297, R308, R310). -/
def execFabCommandStart (d upset : Nat) (s : State) : Res := .next (s.fabStart d upset)

/-- PUT_FRAME_RECEIVE (R298, R299, R308). -/
def execPutFrameReceive (d p : Nat) (f : Frame) (link : DWord) (s : State) : Res :=
  let f := { f with ftype := 1 }
  .next (s.linkRx d p f link fun s => s.onRequest d p f fun t => t.landPut f)

/-- GET_REQUEST_RECEIVE (R298, R299). -/
def execGetRequestReceive (d p : Nat) (f : Frame) (link : DWord) (s : State) : Res :=
  let f := { f with ftype := 2 }
  .next (s.linkRx d p f link fun s => s.onRequest d p f fun t => t.landGet f)

/-- SIGNAL_FRAME_RECEIVE (R298, R299). -/
def execSignalFrameReceive (d p : Nat) (f : Frame) (link : DWord) (s : State) : Res :=
  let f := { f with ftype := 4 }
  .next (s.linkRx d p f link fun s => s.onRequest d p f fun t => t.landed f 0)

/-- REDUCE_FRAME_RECEIVE (R298, R305-R307). -/
def execReduceFrameReceive (d p : Nat) (f : Frame) (link : DWord) (s : State) : Res :=
  let f := { f with ftype := 5 }
  .next (s.linkRx d p f link fun s => s.onRequest d p f fun t => t.landReduce f)

/-- GET_RESPONSE_RECEIVE (R300, R301). -/
def execGetResponseReceive (d p : Nat) (f : Frame) (link : DWord) (s : State) : Res :=
  let f := { f with ftype := 3 }
  .next (s.linkRx d p f link fun s => s.onResponse d p f fun t fc => t.getData f fc)

/-- COMPLETION_RECEIVE (R300, R301, R306). -/
def execCompletionReceive (d p : Nat) (f : Frame) (link : DWord) (s : State) : Res :=
  let f := { f with ftype := 6 }
  .next (s.linkRx d p f link fun s => s.onResponse d p f fun t fc => t.cmdDone f fc)

/-- FRAME_ACK_RECEIVE (R302). -/
def execFrameAckReceive (d p : Nat) (f : Frame) (link : DWord) (s : State) : Res :=
  let f := { f with ftype := 7 }
  .next (s.linkRx d p f link fun s => s.ackFrame d p f)

/-- FAULT_NOTICE_RECEIVE (R304). -/
def execFaultNoticeReceive (d p : Nat) (f : Frame) (link : DWord) (s : State) : Res :=
  let f := { f with ftype := 15 }
  .next (s.linkRx d p f link fun s => s.faultNotice d p f)

/-- NATIVE_LINK_NAK (R289): the link header of a frame without transport frame; with NAK = 0 it brings LACK and credits alone. -/
def execNativeLinkNak (d p : Nat) (link : DWord) (s : State) : Res :=
  .next (if s.ethernet d p then s else if bit link.toNat 24 then s.linkNak d p link else s.linkHeader d p link)

/-- E2E_ACK_SEND (R302). -/
def execE2eAckSend (q : Nat) (s : State) : Res := .next (if s.ackDue q then s.sendAck q else s)

/-- E2E_RESEND_TIMEOUT (R302). -/
def execE2eResendTimeout (q : Nat) (s : State) : Res := .next (s.resend q)

/-- COMMAND_TIMEOUT (R303). -/
def execCommandTimeout (d t : Nat) (s : State) : Res := .next (s.cmdTimeout d t)

/-- FEC_UNCORRECTABLE_BURST (R285, R311): `count` uncorrectable codewords on one lane within 1 ms, and `corr` corrected ones. -/
def execFecUncorrectableBurst (d p : Nat) (_lane count corr : Nat) (s : State) : Res :=
  let s1 := (s.incSatUn (fabKey d p FAB_PFEC) 32 32 count).incSatUn (fabKey d p FAB_PFEC) 0 32 corr
  .next (if 16 < count then s1.retrain d p else s1)

/-- PARTNER_SIGNAL_LOSS (R285). -/
def execPartnerSignalLoss (d p : Nat) (s : State) : Res := .next (s.retrain d p)

/-- FAB_PCMD_RETRAIN (R285). -/
def execFabPcmdRetrain (d p : Nat) (s : State) : Res := .next (s.pcmd d p)

/-- PORT_RETRAIN_DONE (R284, R285, R288, R289): the lanes that failed, and the credits a partner advertises at a first link-up. -/
def execPortRetrainDone (d p : Nat) (bad : BitVec 8) (crReq crRsp : Nat) (s : State) : Res := .next (s.trainDone d p bad.toNat crReq crRsp)

/-- FAB_PORT_EN_WRITE (R311). -/
def execFabPortEnWrite (d p : Nat) (en : Bool) (s : State) : Res := .next (s.portEn d p en)

/-- CONTEXT_OPEN (R292). -/
def execContextOpen (q : Nat) (s : State) : Res := .next (s.ctxOpen q)

/-- CONTEXT_CLOSE (R292). -/
def execContextClose (q : Nat) (s : State) : Res := .next (s.ctxClose q)

/-- MALFORMED_FRAME_RECEIVE (R282, R289, R298): a native frame that fails its link CRC draws a NAK, a pause frame is counted, and any other
is dropped as strange. -/
def execMalformedFrameReceive (d p : Nat) (kind : BadFrame) (s : State) : Res :=
  .next (match kind with | .linkCrc => s.linkBad d p | .pause => s.pauseFrame d p | .tooLong | .stranger => s.strange d p)

end Sys2Proof.Machine
end

