-- ==== Sys2Proof/Machine/Pcie.lean ====
section
/-! DEFINITION. The host ports (R313-R337) but for what a host request or ring entry does at its target: links and resets,
outbound traffic to host memory, command rings, MSI-X, the event ring. -/

namespace Sys2Proof.Machine

/-- Little-endian field of a ring entry. -/
def rfield (e : List Byte) (o n : Nat) : Nat := ofLe ((e.drop o).take n)

/-- A ring entry with a reserved OPC, a non-zero reserved byte, or a field that breaks R326. -/
def entryBad (e : List Byte) : Bool :=
  let opc := rfield e 0 1
  let dma := opc == 1 || opc == 2
  let len := rfield e 4 4
  let host := rfield e 8 8
  let eng := rfield e 0x10 8
  let val := rfield e 0x18 8
  let flags := rfield e 1 1
  decide (6 < opc) || decide (4 ≤ flags) || (bit flags 1 && opc != 3) || rfield e 0x20 24 != 0 ||
  (if dma then len % 32 != 0 || len == 0 || decide (2 ^ 44 ≤ host) || host % 32 != 0 || decide (2 ^ 48 ≤ eng) || eng % 32 != 0 ||
      (bits eng 44 4 != 0 && bits eng 44 4 != 1)
    else host != 0 || (opc != 5 && len != 0)) ||
  (if opc = 3 ∨ opc = 5 then decide (2 ^ 48 ≤ eng) else !dma && eng != 0) ||
  (if opc = 3 then false else if opc = 4 ∨ opc = 5 ∨ opc = 6 then decide (2 ^ 32 ≤ val) else val != 0)

namespace State

/-- Location of a record of a port, with UIDX `u`. -/
def portLoc (port u : Nat) : Loc := .dieUnit (portDie port) u

/-! ### Outbound requests (R321-R323) -/

/-- A 0x65 record (R518). -/
def outFail (s : State) (req : Req) (port reason a : Nat) : State :=
  s.raise 0x65 (if reason = 3 then .engine 0 else portLoc port port)
    (reason + (if reason = 3 then 0 else port * 2 ^ 8) + a % 2 ^ 44 * 2 ^ 16) (originCell req)

/-- The TLPs of a request to space 0x8: port, first byte within the request, length. Each lies within 4 KiB, leaves through the port of
its own address, and is at most as long as that port's Max Payload Size (a write) or Max Read Request Size (a read) (R321). -/
def outSplit (s : State) (write : Bool) (a len : Nat) : List (Nat × Nat × Nat) :=
  (piecesBy 4096 a len).flatMap fun p =>
    match s.outPort (a + p.1) with
    | none => []
    | some q =>
      (piecesBy (if write then (s.hport q).mps else (s.hport q).mrrs) (a + p.1) p.2).map fun r => (q, p.1 + r.1, r.2)

/-- Posted writes of a run, TLP by TLP; one with a poisoned word has EP set. -/
def outStore (s : State) (a : Nat) (data : List Byte) (pois : List Nat) : State :=
  (s.outSplit true a data.length).foldl (fun t p =>
    t.hostStore p.1 (a + p.2.1) ((data.drop p.2.1).take p.2.2)
      (pois.any fun w => decide (p.2.1 < 8 * w + 8) && decide (8 * w < p.2.1 + p.2.2))) s

/-- A write to space 0x8: its STATUS. -/
def outWrite (s : State) (req : Req) (a : Nat) (data : List Byte) (pois : List Nat) : State × Nat :=
  if (s.outPort a).isNone then (s.outFail req 0 3 a, 1)
  else
    let s1 := s.outStore a data pois
    (match originCell req with
      | some c => if pois = [] then s1 else s1.raiseAt 0x66 c 0
      | none => s1, 0)

/-- Reads of a port that are sent and have no completion. -/
def tagsOut (s : State) (p : Nat) : Nat :=
  (s.outReads.map fun r => r.tlps.countP fun t => t.port == p && t.sent.isSome && t.done.isNone).sum

/-- A TLP of the outbound read with id `g` is changed. -/
def modTlp (s : State) (g id : Nat) (f : OutTlp → OutTlp) : State :=
  { s with outReads := s.outReads.map fun r => if r.id = g then { r with tlps := r.tlps.map fun t => if t.id = id then f t else t } else r }

/-- Reads that wait for a tag are sent, oldest first, while their port has fewer than 1,024 outstanding (R314). -/
def sendReads (s : State) : State :=
  (s.outReads.flatMap fun r => r.tlps.filterMap fun t => if t.sent.isNone then some (r, t) else none).foldl (fun u e =>
    if u.tagsOut e.2.port < 1024 then
      (u.modTlp e.1.id e.2.id fun t => { t with sent := some s.now }).emit (.hostReadReq e.2.port e.2.id (e.1.addr + e.2.off) e.2.len)
    else u) s

/-- A read of space 0x8 leaves TLP by TLP; no port qualifies: false. -/
def outRead (s : State) (req : Req) (a len : Nat) (pkt : Option Pkt) : State × Bool :=
  if (s.outPort a).isNone then (s.outFail req 0 3 a, false)
  else
    let ts := (s.outSplit false a len).zipIdx.map fun e =>
      ({ id := s.nextId + e.2, port := e.1.1, off := e.1.2.1, len := e.1.2.2, sent := none, done := none } : OutTlp)
    (({ s with outReads := s.outReads ++ [{ id := s.nextId, req := req, addr := a, len := len, tlps := ts, pkt := pkt }],
               nextId := s.nextId + max 1 ts.length } : State).sendReads, true)

/-- One TLP of a read that the engine controller or a DMA channel makes within its command, answered as the command's operand says: bytes,
and STATUS 0, 1, 2 or 3 (R322, R323). -/
def fetchTlp (s : State) (req : Req) (p a len : Nat) : State × List Byte × Nat :=
  let s1 := { s with fates := s.fates.tail }
  match s.fates.head? with
  | none | some .good | some .lost | some (.again _) => (s1, s.bytes (hostKey a) len, 0)
  | some .refused => (s1.outFail req p 1 a, [], 1)
  | some .late => (s1.outFail req p 2 a, [], 3)
  | some .poisoned => (s1.raise 0x62 (portLoc p p) 0 none, s.bytes (hostKey a) len, 2)

/-- STATUS of a run from those of its parts: 1 before 3 before 2 (log 28). -/
def worst (a b : Nat) : Nat := if a = 1 ∨ b = 1 then 1 else max a b

/-- A read of host memory by the engine controller, completed within its command: bytes and STATUS. -/
def hostFetch (s : State) (req : Req) (a len : Nat) : State × List Byte × Nat :=
  if (s.outPort a).isNone then (s.outFail req 0 3 a, [], 1)
  else (s.outSplit false a len).foldl (fun (q : State × List Byte × Nat) p =>
    let r := q.1.fetchTlp req p.1 (a + p.2.1) p.2.2
    (r.1, q.2.1 ++ r.2.1, worst q.2.2 r.2.2)) (s, [], 0)

/-- A command whose reads of host memory end as `f` says. -/
def withFates (s : State) (f : List Fate) (act : State → State) : State := { act { s with fates := f } with fates := [] }

/-- The response of an edge agent to a request packet: back to its cell in logical coordinates (R190, R204). -/
def agentReply (s : State) (d : Nat) (p : Pkt) (data : List Byte) (pois : List Nat) (status : Nat) : State :=
  if p.ptype = 1 ∧ status = 0 ∧ ¬ p.ackreq then s
  else match originCell p.src with
    | none => s.answer p.src (if p.ptype = 2 then .read data pois status else .ack status)
    | some c =>
      let (x, y) := (s.logicalOf c).getD (0, 0)
      let bad := status == 1 || status == 3
      s.agentInject d { Pkt.blank (if p.ptype = 2 then 3 else 4) p.src (.agent d) with
        x := x, y := y, tag := p.tag, addr := p.addr, blen := p.blen, status := status,
        dlen := if p.ptype = 2 && !bad then dlenOf p.blen else 0, data := if bad then [] else data, pois := if bad then [] else pois }

/-- An outbound read ends with a STATUS, toward its requester or its packet's cell. -/
def outEnd (s : State) (r : OutRead) (data : List Byte) (pois : List Nat) (status : Nat) : State :=
  let s1 := ({ s with outReads := s.outReads.filter fun q => q.id != r.id } : State).sendReads
  match r.pkt with
  | some p => s1.agentReply (portDie (r.tlps.headD ⟨0, 0, 0, 0, none, none⟩).port) p data pois status
  | none => s1.answer r.req (.read data pois status)

/-- The TLP that a tag names, sent and not completed, with its read. -/
def tlpOf (s : State) (id : Nat) : Option (OutRead × OutTlp) :=
  s.outReads.findSome? fun r => (r.tlps.find? fun t => t.id == id && t.sent.isSome && t.done.isNone).map fun t => (r, t)

/-- The bytes of a read whose TLPs are all completed, and the words that a TLP with EP set brought (R323). -/
def readData (r : OutRead) : List Byte × List Nat :=
  (r.tlps.flatMap fun t => match t.done with | some e => e.2 | none => [],
   (List.range ((r.len + 7) / 8)).filter fun w => r.tlps.any fun t =>
     (match t.done with | some e => e.1 | none => false) && decide (t.off < 8 * w + 8) && decide (8 * w < t.off + t.len))

/-- A read completion whose ECRC holds (R322, R323); one that answers no read in progress is dropped. The read ends with the last of its TLPs, or with the
first that fails. -/
def outComplete (s : State) (id : Nat) (ok ep : Bool) (data : List Byte) : State :=
  match s.tlpOf id with
  | none => s
  | some (r, t) =>
    if !ok then (s.outFail r.req t.port 1 (r.addr + t.off)).outEnd r [] [] 1
    else
      let d := (List.range t.len).map fun i => (data[i]?).getD 0
      let s1 := if ep then s.raise 0x62 (portLoc t.port t.port) 0 none else s
      let r1 := { r with tlps := r.tlps.map fun (u : OutTlp) => if u.id = id then { u with done := some (ep, d) } else u }
      if r1.tlps.all fun u => u.done.isSome then s1.outEnd r (readData r1).1 (readData r1).2 (if (readData r1).2 = [] then 0 else 2)
      else (s1.modTlp r.id id fun u => { u with done := some (ep, d) }).sendReads

/-- A read with no completion after PCIE_CPL_TO.MS. -/
def outTimeout (s : State) (id : Nat) : State :=
  match s.tlpOf id with
  | none => s
  | some (r, t) =>
    if t.sent.getD 0 + s.fld (pcieKey t.port PCIE_CPL_TO) 0 16 * 1000000 ≤ s.now then
      (s.outFail r.req t.port 2 (r.addr + t.off)).outEnd r [] [] 3
    else s

/-! ### Rings (R324-R329) -/

/-- A ring stops (R328): CI as it stands, record, event to both ports (R332), vector. -/
def stopRing (s : State) (p n cause : Nat) : State :=
  let r := s.ring p n
  let s1 := s.setRing p n { r with stopped := true, cause := cause, cur := none, res := none, loading := false, dma := false }
  let s2 := (s1.raise 0x64 (portLoc p n) (cause + n * 2 ^ 8 + p * 2 ^ 16 + r.ci * 2 ^ 32) none).event 5
    (toLe 2 n ++ toLe 2 cause ++ toLe 2 r.ci)
  if r.irqEn then s2.raiseVec p n else s2

/-- Host software wrote EN = 1 (R324). -/
def enableRing (s : State) (p n : Nat) : State :=
  let r := s.ring p n
  if r.en then s
  else s.setRing p n { r with en := true, ci := 0, pi := 0, stopped := false, cause := 0, cur := none, res := none, loading := false, dma := false }

/-- Host software wrote EN = 0 (R328). -/
def disableRing (s : State) (p n : Nat) : State :=
  let r := s.ring p n
  if !r.en then s
  else
    let s1 := if r.stopped then s else s.stopRing p n 4
    s1.setRing p n { s1.ring p n with en := false }

/-- A write of PCIE_DBn (R325). -/
def doorbell (s : State) (p n pi : Nat) : State :=
  let r := s.ring p n
  let s1 := s.setRing p n { r with pi := pi % 65536 }
  if r.en ∧ ¬ r.stopped ∧ 2 ^ r.log2 < (pi % 65536 + 65536 - r.ci) % 65536 then s1.stopRing p n 2 else s1

/-- Host address of the entry at CI. -/
def entryAddr (s : State) (p n : Nat) : Nat :=
  let r := s.ring p n
  r.base / 4096 * 4096 + 64 * (r.ci % 2 ^ r.log2)

/-- The entry at CI starts: read from host memory, then judged by R326 and its JOB_ID. -/
def fetchEntry (s : State) (p n : Nat) (ok : Bool) : State :=
  let r := s.ring p n
  if !(r.en && !r.stopped && r.cur.isNone && r.ci != r.pi && s.portOpen p) then s
  else if !ok then s.stopRing p n 3
  else
    let e := s.bytes (hostKey (s.entryAddr p n)) 64
    let job := rfield e 2 2
    let res := if entryBad e then some (1, 0)
      else if job != 0xFFFF && !(match s.job? job with | some j => j.state != 5 | none => false) then some (4, 0) else none
    s.setRing p n { r with cur := some e, res := res }

/-- The entry in execution, when it has OPC `opc` and no result yet. -/
def entryRuns (s : State) (p n opc : Nat) : Option (List Byte) :=
  let r := s.ring p n
  match r.cur, r.res with
  | some e, none => if rfield e 0 1 = opc ∧ s.portOpen p then some e else none
  | _, _ => none

def setResult (s : State) (p n st detail : Nat) : State := s.setRing p n { s.ring p n with res := some (st, detail) }

/-- RESULT and CI are written, the vector is raised, and a failed entry stops the ring (R327, R328). -/
def completeEntry (s : State) (p n : Nat) : State :=
  let r := s.ring p n
  match r.cur, r.res with
  | some e, some (st, det) =>
    if !s.portOpen p then s
    else
      let s1 := s.hostStore p (s.entryAddr p n + 0x38) (toLe 8 (st + det * 2 ^ 8 + s.facility % 2 ^ 48 * 2 ^ 16)) false
      let ci := (r.ci + 1) % 65536
      let s2 := s1.setRing p n { r with ci := ci, cur := none, res := none, loading := false, dma := false }
      let s3 := if r.ciAddr ≠ 0 then s2.hostStore p r.ciAddr (toLe 8 ci) false else s2
      if st = 0 ∨ st = 2 then (if bit (rfield e 1 1) 0 && r.irqEn then s3.raiseVec p n else s3)
      else s3.stopRing p n 1
  | _, _ => s

/-! ### DMA channels (R330) -/

/-- A run of a host port's data within one target, written; with `ep` every word it touches is stored as poison (R319). -/
def hostPut (s : State) (port ga : Nat) (bs : List Byte) (ep : Bool) : State × Nat :=
  let pois := if ep then List.range ((bs.length + 7) / 8 + 1) else []
  s.carried (portDie port) (.host port) ga bs.length true id fun s => match s.target ga with
    | .gddr g => s.gddrWriteNow (.host port) g bs pois
    | .spm c off =>
      match s.spmCheckRun c off bs.length 4 false with
      | some (o, cr) => (s.spmRefuse c o 4 (.host port) cr, 1)
      | none => let w := s.meshWrite c off bs pois none; (w.1, if w.2 then 0 else 2)
    | .hole .. => (s.hostRefuse port ga 4, 1)
    | _ => (s.hostRefuse port ga 1, 1)

/-- A run within one target, read for a host port: bytes, poisoned words, STATUS. -/
def hostGet (s : State) (port ga len : Nat) : State × List Byte × List Nat × Nat :=
  s.carried (portDie port) (.host port) ga len false (fun k => ([], [], k)) fun s => match s.target ga with
    | .gddr g => s.gddrReadNow (.host port) g len
    | .spm c off =>
      match s.spmCheckRun c off len 4 false with
      | some (o, cr) => (s.spmRefuse c o 4 (.host port) cr, [], [], 1)
      | none => let m := s.meshRead c off len; (m.1, m.2.1, m.2.2, if m.2.2 = [] then 0 else 2)
    | .hole .. => (s.hostRefuse port ga 4, [], [], 1)
    | _ => (s.hostRefuse port ga 1, [], [], 1)

/-- A port's writes into spaces 0x0 and 0x1: pieces within stripes, every write acknowledged (R327, R330). -/
def dmaWrite (s : State) (port ga : Nat) (data : List Byte) (ep : Bool) : State × Nat :=
  (agentPieces ga data.length).foldl (fun (a : State × Nat) p =>
    let r := a.1.hostPut port (ga + p.1) ((data.drop p.1).take p.2) ep
    (r.1, worst a.2 r.2)) (s, 0)

/-- A port's reads of spaces 0x0 and 0x1: bytes, poisoned words, STATUS. -/
def dmaRead (s : State) (port ga len : Nat) : State × List Byte × List Nat × Nat :=
  (agentPieces ga len).foldl (fun (a : State × List Byte × List Nat × Nat) p =>
    let r := a.1.hostGet port (ga + p.1) p.2
    (r.1, a.2.1 ++ r.2.1, a.2.2.1 ++ r.2.2.1.map (· + p.1 / 8), worst a.2.2.2 r.2.2.2))
    (s, [], [], 0)

/-- Class of the last record raised after `s`: DETAIL of a failed entry (R328). -/
def lastCls (s t : State) : Nat :=
  match (t.err.recQ.drop s.err.recQ.length).getLast? with
  | some r => r.cls
  | none => 0

/-- A ring has a DMA entry that its channel has still to run. -/
def dmaWaits (s : State) (p n : Nat) : Bool := (s.entryRuns p n 1).isSome || (s.entryRuns p n 2).isSome

/-- A channel serves its rings round-robin, one entry per turn, and runs one entry at a time: ring n has the turn when no entry of the
channel runs and no ring that waits comes before it after the ring served last (R330; log 28). -/
def dmaTurn (s : State) (p n : Nat) : Bool :=
  let ch := (s.ring p n).chan
  let last := SMap.get (s.hport p).turns ch 255
  let far := fun m => (m + 511 - last) % 256
  (List.range 256).all fun m => (s.ring p m).chan != ch || (!(s.ring p m).dma && (m == n || !s.dmaWaits p m || decide (far n < far m)))

/-- Ring n's channel runs its entry until it completes. -/
def dmaTake (s : State) (p n : Nat) : State :=
  let r := s.ring p n
  let h := s.hport p
  (s.setRing p n { r with dma := true }).setHport p { h with turns := SMap.set h.turns r.chan n 255 }

/-- A ring entry with OPC 1: the channel reads host memory through the ports of R321 and writes what each TLP brings (R323, R330). -/
def ringIn (s : State) (p n : Nat) : State :=
  match s.entryRuns p n 1 with
  | none => s
  | some e =>
    let a := rfield e 8 8
    if !s.dmaTurn p n then s
    else if (s.outPort a).isNone then let t := (s.dmaTake p n).outFail (.host p) 0 3 a; t.setResult p n 1 (lastCls s t)
    else
      let r := (s.outSplit false a (rfield e 4 4)).foldl (fun (q : State × Nat) b =>
        let f := q.1.fetchTlp (.host p) b.1 (a + b.2.1) b.2.2
        if f.2.2 = 1 ∨ f.2.2 = 3 then (f.1, worst q.2 f.2.2)
        else
          let w := f.1.dmaWrite p (rfield e 0x10 8 + b.2.1) f.2.1 (f.2.2 == 2)
          (w.1, worst (worst q.2 f.2.2) w.2)) (s.dmaTake p n, 0)
      r.1.setResult p n r.2 (if r.2 = 0 then 0 else lastCls s r.1)

/-- A ring entry with OPC 2; the host consumes poisoned data (R319, R323). -/
def ringOut (s : State) (p n : Nat) : State :=
  match s.entryRuns p n 2 with
  | none => s
  | some e =>
    let a := rfield e 8 8
    if !s.dmaTurn p n then s
    else if (s.outPort a).isNone then let t := (s.dmaTake p n).outFail (.host p) 0 3 a; t.setResult p n 1 (lastCls s t)
    else
    let r := (s.dmaTake p n).dmaRead p (rfield e 0x10 8) (rfield e 4 4)
    if r.2.2.2 = 1 ∨ r.2.2.2 = 3 then r.1.setResult p n r.2.2.2 (lastCls s r.1)
    else
      let s1 := r.1.outStore a r.2.1 r.2.2.1
      if r.2.2.2 = 2 then (s1.raise 0x61 (portLoc p p) 0 none).setResult p n 2 0x61 else s1.setResult p n 0 0

/-- A ring entry with OPC 4: a signal of origin host leaves its edge port (R327); an illegal target refuses it (R203). -/
def ringSignal (s : State) (p n : Nat) : State :=
  match s.entryRuns p n 4 with
  | none => s
  | some e =>
    let v := rfield e 0x18 4
    let x := bits v 16 8
    let y := bits v 24 7
    if bit v 31 || decide (47 < bits v 0 6) || bits v 8 8 == 0 then s.setResult p n 1 0
    else if (s.physicalOf x y).isNone then (s.hostRefuse p (2 * 2 ^ 44 + x * 2 ^ 36 + y * 2 ^ 29) 1).setResult p n 1 0x63
    else (s.agentSignal (portDie p) (.host p) x y (bits v 0 6) (bits v 6 2) (bits v 8 8)).setResult p n 0 0

/-! ### Event ring and vectors (R331-R333, R336) -/

/-- EVQ_EN goes from 0 to 1. -/
def enableEvq (s : State) (p : Nat) : State :=
  if s.fld (pcieKey p PCIE_CTRL) 1 1 = 1 then s
  else
    (((s.setFld (pcieKey p PCIE_CTRL) 1 1 1).setReg (pcieKey p PCIE_EVQ_PI) 0).setReg (pcieKey p PCIE_EVQ_CI) 0).setFld
      (pcieKey p PCIE_EVQ_STAT) 0 16 0 |>.setHport p { s.hport p with evqSeq := 0, evqLostDue := false }

/-- A write of PCIE_EVQ_CI: ignored where it would place CI beyond PI, that is less than 65,536 entries ahead of it, the most a ring
holds (DEDUCED, log 28). -/
def evqCi (s : State) (p ci : Nat) : State :=
  let pi := s.fld (pcieKey p PCIE_EVQ_PI) 0 17
  if (pi + 131072 - ci % 131072) % 131072 ≤ 65536 then
    (s.setReg (pcieKey p PCIE_EVQ_CI) (BitVec.ofNat 64 (ci % 131072))).evqLoss p
  else s.raise 0x68 (portLoc p p) 0 none

/-- A write of PCIE_MSIX_RAISE. -/
def msixWrite (s : State) (req : Req) (p v : Nat) : State :=
  if v % 512 < 260 then s.raise 0x6B (portLoc p p) 0 (originCell req) else s.raiseVec p (v % 512)

/-! ### Links and resets (R315, R335) -/

/-- Rings that are enabled and running stop with cause 5. -/
def stopRings (s : State) (p : Nat) : State :=
  (List.range 256).foldl (fun t n => if (t.ring p n).en && !(t.ring p n).stopped then t.stopRing p n 5 else t) s

/-- Every ring of a port returns to EN = 0. -/
def clearEn (s : State) (p : Nat) : State :=
  { s with rings := s.rings.map fun e => if e.1 / 256 = p then (e.1, { e.2 with en := false, dma := false }) else e }

/-- A register returns to its reset value. -/
def dropReg (s : State) (k : Nat) : State := s.setReg k (regReset s.part k)

/-- Event ring, MSI-X table and PCIE_CTRL return to reset. -/
def portRegs (s : State) (p : Nat) : State :=
  ([PCIE_CTRL, PCIE_EVQ_BASE, PCIE_EVQ_SIZE, PCIE_EVQ_PI, PCIE_EVQ_CI, PCIE_EVQ_STAT].foldl (fun t o => t.dropReg (pcieKey p o)) s).setHport p
    { s.hport p with evqSeq := 0, evqLostDue := false, msix := [], pba := [], msixEn := false, msixMask := false, batch := 0 }

/-- Function Level Reset, hot reset, or link down. -/
def portReset (s : State) (p : Nat) : State := ((s.stopRings p).clearEn p).portRegs p

/-- Detail of class 0x60. -/
def linkDetail (speed width p rec : Nat) : Nat := speed + width * 2 ^ 3 + rec * 2 ^ 8 + p * 2 ^ 9

/-- A port trains once its PERST# is released and its die has been powered (R313, R315, R508). -/
def linkUp (s : State) (p speed width : Nat) : State :=
  let h := s.hport p
  if !s.part.ports.contains p || h.perst || !h.powered || h.up || speed < 5 || 7 < speed || !([1, 2, 4, 8, 16].contains width) then s
  else
    let s1 := (s.setHport p { h with up := true, upSince := s.now, d3hot := false }).setReg (pcieKey p PCIE_LINK) (BitVec.ofNat 64 (speed + width * 8))
    if speed < 7 ∨ width < 16 then s1.raise 0x60 (portLoc p p) (linkDetail speed width p 0) none else s1

/-- A link goes down in service. -/
def linkDown (s : State) (p : Nat) : State :=
  let h := s.hport p
  if !h.up then s
  else
    let s1 := (s.setHport p { h with up := false, d3hot := false }).setReg (pcieKey p PCIE_LINK) 0
    (s1.raise 0x69 (portLoc p p) 0 none).portReset p

/-- Link recovery that keeps the link up: one record per second. -/
def linkRecovery (s : State) (p speed width : Nat) : State :=
  let h := s.hport p
  if !h.up then s
  else
    let s1 := s.setReg (pcieKey p PCIE_LINK) (BitVec.ofNat 64 (speed + width * 8))
    let soon := match h.lastRecovery with | some t => decide (s.now < t + 1000000000) | none => false
    if soon then s1.setRate { cls := 0x60, loc := portLoc p p, last := h.lastRecovery.getD 0, supp := s.suppOf 0x60 (portLoc p p) + 1 }
    else (s1.setHport p { h with lastRecovery := some s.now }).raise 0x60 (portLoc p p) (linkDetail speed width p 1) none

/-- A code c of a configuration space stands for 128 · 2^c bytes, at most `m`. -/
def sizeOf (c m : Nat) : Nat := if 128 * 2 ^ (c % 8) ≤ m then 128 * 2 ^ (c % 8) else m

/-- A configuration register as it reads (R314, R517); capabilities by their IDs, the extended ones with bit 15 set (PRESUMED, log 25). -/
def configShows (s : State) (p : Nat) (r : CfgReg) : List Byte :=
  let h := s.hport p
  let b := fun (c : Bool) => if c then 1 else 0
  match r with
  | .vendorId => toLe 2 Config.vendorId.toNat
  | .deviceId => toLe 2 s.part.device
  | .classCode => toLe 3 0x120000
  | .capabilities => [0x10, 0x11, 0x01, 0x8001, 0x8003, 0x8025].flatMap (toLe 2)
  | .serial => toLe 8 Config.serial.toNat
  | .power => toLe 1 (if h.d3hot then 3 else 0)
  | .payload => toLe 2 h.mps
  | .readRequest => toLe 2 h.mrrs
  | .ecrc => toLe 1 h.ecrc
  | .msix => toLe 1 (b h.msixMask + 2 * b h.msixEn)
  | .aer => toLe 1 (b h.aer + 2 * b h.aerEcrc)

/-- A configuration write: the fields the host sets; the others are read-only. Writing 1 clears an AER bit. -/
def configSet (h : HPort) (r : CfgReg) (v : Nat) : HPort :=
  match r with
  | .power => if v % 4 = 3 then { h with d3hot := true } else if v % 4 = 0 then { h with d3hot := false } else h
  | .payload => { h with mps := sizeOf v 512 }
  | .readRequest => { h with mrrs := sizeOf v 4096 }
  | .ecrc => { h with ecrc := v % 4 }
  | .msix => { h with msixMask := bit v 0, msixEn := bit v 1 }
  | .aer => { h with aer := h.aer && !bit v 0, aerEcrc := h.aerEcrc && !bit v 1 }
  | _ => h

/-- A configuration request (R314, R316): a read, or a write of `v`, after which vectors that are not masked any more are delivered. -/
def configReq (s : State) (p : Nat) (r : CfgReg) (v : Option Nat) : State :=
  let h := s.hport p
  if !h.up then s
  else if s.now < h.upSince + 100000000 then s.emit (.cfgRetry p)
  else
    match v with
    | none => s.emit (.hostCpl p true false (s.configShows p r))
    | some w => h.pba.reverse.foldl (fun t x => t.unmask p x) ((s.setHport p (configSet h r w)).emit (.hostCpl p true false []))

/-- A posted write received with EP set: class 0x62, and AER's advisory Poisoned TLP Received (R319). -/
def epWrite (s : State) (p : Nat) : State :=
  (s.raise 0x62 (portLoc p p) 0 none).setHport p { s.hport p with aer := true }

/-- A TLP fails its ECRC, which its port checks (R314, R433). -/
def ecrcBad (s : State) (p : Nat) (ecrc : Bool) : Bool := !ecrc && bit (s.hport p).ecrc 1

/-- A TLP with a failing ECRC is dropped, and AER shows the error (PRESUMED from the PCI Express Base Specification, log 25). -/
def ecrcDrop (s : State) (p : Nat) : State := s.setHport p { s.hport p with aerEcrc := true }

/-- Every PCIE register of a port returns to its reset value. -/
def portCold (s : State) (p : Nat) : State :=
  { s with
    regs := s.regs.filter fun e => !(decide (pcieKey p 0x60000 ≤ e.1) && decide (e.1 < pcieKey p 0x70000))
    rings := s.rings.filter fun e => e.1 / 256 != p }

/-- PERST# asserted: its port is held in reset (R335, R508). -/
def perst (s : State) (p : Nat) : State :=
  let h := s.hport p
  if h.perst || !s.part.ports.contains p then s
  else
    let s1 := if h.up then s.linkDown p else s
    (s1.portCold p).setHport p { HPort.reset with powered := h.powered }

end State

/-! ### Commands -/

/-- PCIE_LINK_UP (R313, R315, R508). -/
def execPcieLinkUp (p speed width : Nat) (s : State) : Res := .next (s.linkUp p speed width)

/-- PCIE_LINK_DOWN (R315, R335). -/
def execPcieLinkDown (p : Nat) (s : State) : Res := .next (s.linkDown p)

/-- PCIE_LINK_RECOVERY (R315). -/
def execPcieLinkRecovery (p speed width : Nat) (s : State) : Res := .next (s.linkRecovery p speed width)

/-- PCIE_CONFIG_REQUEST (R314, R316). -/
def execPcieConfigRequest (p : Nat) (r : CfgReg) (v : Option Nat) (s : State) : Res := .next (s.configReq p r v)

/-- RING_DOORBELL (R325). -/
def execRingDoorbell (p n pi : Nat) (s : State) : Res := .next (s.doorbell p n pi)

/-- RING_ENTRY_FETCH (R325-R328); an uncorrectable error in ring state is class 0x6A (R443). -/
def execRingEntryFetch (p n : Nat) (ok upset : Bool) (s : State) : Res :=
  .next (if upset then s.raise 0x6A (State.portLoc p n) 0 none else s.fetchEntry p n ok)

/-- RING_NOP (R327). -/
def execRingNop (p n : Nat) (s : State) : Res :=
  .next (match s.entryRuns p n 0 with | some _ => s.setResult p n 0 0 | none => s)

/-- RING_DMA_HOST_TO_ENGINE (R327, R330). -/
def execRingDmaHostToEngine (p n : Nat) (fates : List Fate) (s : State) : Res := .next (s.withFates fates fun t => t.ringIn p n)

/-- RING_DMA_ENGINE_TO_HOST (R327, R330). -/
def execRingDmaEngineToHost (p n : Nat) (fates : List Fate) (s : State) : Res := .next (s.withFates fates fun t => t.ringOut p n)

/-- RING_SIGNAL (R327). -/
def execRingSignal (p n : Nat) (s : State) : Res := .next (s.ringSignal p n)

/-- RING_ENTRY_COMPLETE (R327, R328). -/
def execRingEntryComplete (p n : Nat) (s : State) : Res := .next (s.completeEntry p n)

/-- RING_ENABLE (R324). -/
def execRingEnable (p n : Nat) (s : State) : Res := .next (s.enableRing p n)

/-- RING_DISABLE (R328). -/
def execRingDisable (p n : Nat) (s : State) : Res := .next (s.disableRing p n)

/-- MSIX_RAISE (R331). -/
def execMsixRaise (req : Req) (p v : Nat) (s : State) : Res :=
  .next ((s.dropPend req (keyBlock (State.pcieKey p PCIE_MSIX_RAISE))).msixWrite req p v)

/-- EVQ_ENABLE (R332, R336). -/
def execEvqEnable (p : Nat) (s : State) : Res := .next (s.enableEvq p)

/-- EVQ_CI_WRITE (R333). -/
def execEvqCiWrite (p ci : Nat) (s : State) : Res := .next (s.evqCi p ci)

/-- OUTBOUND_READ (R321). -/
def execOutboundRead (req : Req) (a len : Nat) (s : State) : Res :=
  .next (match s.outRead req a len none with
    | (t, true) => t
    | (t, false) => t.answer req (.read [] [] 1))

/-- OUTBOUND_WRITE (R322, R323). -/
def execOutboundWrite (req : Req) (a : Nat) (data : List Byte) (pois : List Nat) (s : State) : Res :=
  .next (let r := s.outWrite req a data pois; r.1.answer req (.ack r.2))

/-- OUTBOUND_COMPLETION (R314, R322, R323, R433). -/
def execOutboundCompletion (id : Nat) (ok ep ecrc : Bool) (data : List Byte) (s : State) : Res :=
  .next (match s.tlpOf id with
    | some (_, t) => if s.ecrcBad t.port ecrc then s.ecrcDrop t.port else s.outComplete id ok ep data
    | none => s)

/-- OUTBOUND_CPL_TIMEOUT (R322). -/
def execOutboundCplTimeout (id : Nat) (s : State) : Res := .next (s.outTimeout id)

/-- FUNCTION_LEVEL_RESET (R335). -/
def execFunctionLevelReset (p : Nat) (s : State) : Res := .next (s.portReset p)

/-- PERST_ASSERT (R335, R508). -/
def execPerstAssert (p : Nat) (s : State) : Res := .next (s.perst p)

/-- PERST_RELEASE (R508). -/
def execPerstRelease (p : Nat) (s : State) : Res := .next (s.setHport p { s.hport p with perst := false })

end Sys2Proof.Machine
end

