-- ==== Sys2Proof/Machine/Halt.lean ====
section
/-! DEFINITION. Starting and stopping cores (R182), the halt of a panel (R179, R429, R430), and jobs after their load: start,
halt, end, declared steps (R243-R247). -/

namespace Sys2Proof.Machine

/-- CSRs of floating-point and vector state, which a start clears (R182): fflags, frm, fcsr; vstart, vxsat, vxrm, vcsr, vl, vtype. -/
def fpVecCsrs : List Nat := [1, 2, 3, 8, 9, 0xA, 0xF, 0xC20, 0xC21]

namespace State

/-! ### Cores (R182, R243) -/

/-- A write of RUN = 1: in STATE 0, 2 or 3 of a primed cell the core starts at BOOT_PC with cleared integer, FP and vector
state; any other time it is ignored. -/
def coreRun (s : State) (c : Nat) (k : CoreSel) : State :=
  let x := s.core c k
  if !s.primed c || !(x.st == 0 || x.st == 2 || x.st == 3) then s
  else
    let y := { CoreSt.reset with
      st := 1, pc := BitVec.ofNat 32 (2 * s.fld (coreKey c k HEAD_BOOT_PC) 1 14),
      csr := x.csr.filter fun e => !fpVecCsrs.contains e.1, imem := x.imem, mb := x.mb, farStores := x.farStores, heldStores := x.heldStores }
    (s.setCore c k y).setFld (coreKey c k HEAD_CTRL) 0 1 1

/-- A running job all of whose started cores have stopped with STATE 0 becomes DONE (R243). A job whose last core stops becomes so at the
end of the cycle, since a halt of the same cycle goes before (R245). -/
def jobDone (s : State) (id : Nat) : State :=
  match s.job? id with
  | some j => if j.state = 3 ∧ j.starts.all (fun e => (s.core e.1 e.2).st == 0) then s.setJobState id 4 else s
  | none => s

/-- The current instruction of a core is not over: a far-window load or a sync wait is outstanding, or the cell is held (R180). -/
def coreBusy (s : State) (c : Nat) (k : CoreSel) : Bool := s.isHeld c || (s.core c k).far.isSome || (s.core c k).wait.isSome

/-- A write of RUN = 0 to a running core: after its current instruction, its merge buffer drains and it stops with STATE 0 (R166,
R180, R182). -/
def coreOff (s : State) (c : Nat) (k : CoreSel) : State :=
  if (s.core c k).st ≠ 1 then s
  else if s.coreBusy c k then (s.setCore c k { s.core c k with stopReq := true }).setFld (coreKey c k HEAD_CTRL) 0 1 0
  else
    let s1 := s.mbFlush c k fun _ => true
    if (s1.core c k).st = 1 then s1.stopCore c k 0 else s1

/-- A stop that was written while the core could not stop takes effect once it can. -/
def coreStopDue (s : State) (c : Nat) (k : CoreSel) : State :=
  if (s.core c k).stopReq && !s.coreBusy c k then s.coreOff c k else s

/-! ### Halts (R179, R221, R224, R429) -/

/-- One core of a halted cell: a running core stops with STATE 2, and its merge buffer is discarded. -/
def haltCore (s : State) (c : Nat) (k : CoreSel) : State :=
  let s1 := s.setCore c k { s.core c k with mb := [], heldStores := [] }
  if (s1.core c k).st = 1 then s1.stopCore c k 2 else s1

/-- RSEQ of the record with a serial number: as numbered, or as those on their way will be (R423); 0 for no record. -/
def rseqOf (s : State) (sn : Nat) : Nat :=
  if sn = 0 then 0
  else match s.err.arrived.find? fun r => r.sn == sn, s.err.recQ.find? fun r => r.sn == sn with
    | some r, _ => r.rseq
    | none, some r => (s.flash.rseq + s.err.recQ.countP (fun q => q.before r) - 1) % 0xFFFFFFFF + 1
    | none, none => 0

/-- A halted cell. -/
def cellHalt (s : State) (c cls rseq : Nat) : State :=
  let s1 := (s.haltCore c .head).haltCore c .tail
  let s2 := ((s1.setCell c { s1.cell c with beng := [] }).mxeFlush c).txStop c
  ((s2.setFld (cellKey c ERR_STAT) 0 1 1).setFld (cellKey c ERR_STAT) 1 8 cls).setReg (cellKey c ERR_HALT_RSEQ) (BitVec.ofNat 64 rseq)

/-- Every panel of a job is halted and the job becomes HALTED (R244, R245, R293). -/
def haltJob (s : State) (id cls rseq : Nat) : State :=
  (((s.jobCells id).foldl (fun t c => t.cellHalt c cls rseq) s).haltCtxs id).setJobState id 5

/-! ### Ending (R240, R244) -/

/-- A cell whose job ends or whose load is refused: cores stopped, MXE flushed, banks MESH. -/
def releaseCell (s : State) (c : Nat) : State :=
  let s1 := (s.coreOff c .head).coreOff c .tail
  (s1.mxeFlush c).setOwners c 0x44444444

/-- The cells of a job are released, its contexts freed, its panels and JOB_ID removed. -/
def removeJob (s : State) (id : Nat) : State :=
  let s1 := ((s.jobCells id).foldl (fun t c => t.releaseCell c) s).freeJobCtxs id
  let s2 := s1.setJobState id 0
  { s2 with jobs := s2.jobs.filter fun j => j.id != id, panels := s2.panels.filter fun p => p.job != id }

/-- Cells withdrawn from ballast before their job acts otherwise. -/
def ballastOff (s : State) (cs : List Nat) : State :=
  (s.setBal 0 cs).setBand { s.band with nbal := s.band.nbal.filter fun c => !cs.contains c }

/-! ### Declared steps (R246, R247) -/

/-- A job command, step declaration or step number that is ignored (class 0x8E). -/
def jobIgnored (s : State) (id cmd : Nat) : State := s.raise 0x8E (.engine 0) (id % 65536 + cmd * 2 ^ 16) none

def paceJob (s : State) : Nat := s.fld (ecKey STEP_CTRL) 0 16

/-- A job that enters RUNNING becomes the pacing job when PACE_JOB names no held job and AUTO = 1. -/
def adoptPace (s : State) (id : Nat) : State :=
  if (s.job? s.paceJob).isNone ∧ s.fld (ecKey STEP_CTRL) 16 1 = 1 then s.setFld (ecKey STEP_CTRL) 0 16 id else s

/-- A write of STEP_DECL. One that comes in the cycle of the job's halt or end is applied first (R246). -/
def declareStep (s : State) (id : Nat) : State :=
  if (match s.job? id with | some j => j.state == 3 | none => false) || s.leftRun.contains id then
    let s1 := s.modJob id fun x => { x with step := x.step + 1 }
    if s.paceJob = id then
      (s1.setReg (ecKey STEP_ENGINE) (s1.reg (ecKey STEP_ENGINE) + 1)).setReg (ecKey STEP_LAST) (BitVec.ofNat 64 s.facility)
    else s1
  else s.jobIgnored id 8

/-- A write of STEP_JOB_NUM. -/
def setStepNum (s : State) (v : DWord) : State :=
  let id := s.fld (ecKey STEP_SEL) 0 16
  match s.job? id with
  | some _ => s.modJob id fun x => { x with step := v }
  | none => s.jobIgnored id 9

/-! ### Job commands (R244) -/

/-- Start. -/
def jobStart (s : State) (id : Nat) : State :=
  match s.job? id with
  | some j =>
    if j.state ≠ 2 then s.jobIgnored id 1
    else
      let s1 := (s.setJobState id 3).adoptPace id
      (j.starts.foldl (fun t e => t.coreRun e.1 e.2) s1).jobDone id
  | none => s.jobIgnored id 1

/-- End. -/
def jobEnd (s : State) (id : Nat) : State :=
  match s.job? id with
  | some j =>
    if j.state < 2 then s.jobIgnored id 3
    else (if j.state = 3 then s.haltJob id 0 0 else s).removeJob id
  | none => s.jobIgnored id 3

end State

/-! ### Commands -/

/-- JOB_START (R244). -/
def execJobStart (id : Nat) (s : State) : Res := .next (s.jobStart id)

/-- JOB_END (R244). -/
def execJobEnd (id : Nat) (s : State) : Res := .next (s.jobEnd id)

/-- STEP_DECLARE (R246, R247). -/
def execStepDeclare (id : Nat) (s : State) : Res := .next (s.declareStep id)

/-- STEP_NUM_SET (R246). -/
def execStepNumSet (v : DWord) (s : State) : Res := .next (s.setStepNum v)

/-- CORE_START (R182). -/
def execCoreStart (c : Nat) (k : CoreSel) (s : State) : Res := .next (s.coreRun c k)

/-- CORE_STOP (R166, R182, R243). -/
def execCoreStop (c : Nat) (k : CoreSel) (s : State) : Res := .next (s.coreOff c k)

end Sys2Proof.Machine
end

