-- ==== Sys2Proof/Machine/Load.lean ====
section
/-! DEFINITION. Loading a job from its image (R229-R242): the image's tables, the checks of PHASE 1, preparation, KIND 5
segments, rounds with chunk checks and repair, refusals; and the halt of a panel, which may refuse a load. -/

namespace Sys2Proof.Machine

/-- Little-endian field of a table. -/
def ifield (bs : List Byte) (o n : Nat) : Nat := ofLe ((bs.drop o).take n)

/-! ### Panel descriptors (R70-R72) -/

/-- A descriptor as stored. -/
structure PDesc where
  x0 : Nat
  y0 : Nat
  w : Nat
  h : Nat
  id : Nat
  parent : Nat
  job : Nat
  ballast : Bool
  bad : Bool
deriving DecidableEq, Repr

/-- A descriptor of 16 bytes; a top-level one moves by the placement offset (R231). -/
def pdesc (b : List Byte) (ox oy : Nat) : PDesc :=
  let w0 := ifield b 0 4
  let w1 := ifield b 4 4
  let w2 := ifield b 8 4
  let top := bits w1 16 16 == 0xFFFF
  { x0 := bits w0 0 8 + (if top then ox else 0), y0 := bits w0 8 7 + (if top then oy else 0), w := bits w0 16 8, h := bits w0 24 7, id := bits w1 0 16, parent := bits w1 16 16, job := bits w2 0 16, ballast := bit w2 16,
    bad := bit w0 15 || bit w0 31 || bits w2 17 15 != 0 || crc32c (b.take 12) != ifield b 12 4 }

/-- Absolute origin through listed and loaded ancestors; none where the chain never reaches a top-level panel. -/
def absOrigin (ds : List PDesc) (loaded : List Panel) (d : PDesc) : Nat → Option (Nat × Nat)
  | 0 => none
  | fuel + 1 =>
    if d.parent = 0xFFFF then some (d.x0, d.y0)
    else match ds.find? fun e => e.id == d.parent with
      | some e => (absOrigin ds loaded e fuel).map fun o => (o.1 + d.x0, o.2 + d.y0)
      | none => match loaded.find? fun p => p.id == d.parent with
        | some p => some (p.x0 + d.x0, p.y0 + d.y0)
        | none => none

/-- Rectangles (x, y, w, h) that share a cell. -/
def overlap (ax ay aw ah bx bY bw bh : Nat) : Bool :=
  decide (ax < bx + bw) && decide (bx < ax + aw) && decide (ay < bY + bh) && decide (bY < ay + ah)

/-- The placed panel of a descriptor. -/
def placed (ds : List PDesc) (loaded : List Panel) (d : PDesc) : Panel :=
  let o := (absOrigin ds loaded d (ds.length + 1)).getD (d.x0, d.y0)
  { id := d.id, parent := d.parent, x0 := o.1, y0 := o.2, w := d.w, h := d.h, job := d.job, ballast := d.ballast }

/-- The first pair of elements of a list, in order, that satisfies `p`: its second element. -/
def laterOf {α : Type} (p : α → α → Bool) : List α → Option α
  | [] => none
  | a :: t => match t.find? fun b => p a b with
    | some b => some b
    | none => laterOf p t

/-! ### Segments (R232, R233) -/

/-- Chunks of a payload: index, offset and length. -/
def chunksOf (len : Nat) : List (Nat × Nat × Nat) :=
  (List.range ((len + 2047) / 2048)).map fun i => (i, 2048 * i, min 2048 (len - 2048 * i))

/-- Whether two runs share a byte. -/
def runsMeet (a n b m : Nat) : Bool := decide (a < b + m) && decide (b < a + n)

/-- A segment entry of 32 bytes over the placed panels. -/
def segOf (b : List Byte) (ps : List Panel) : Seg :=
  let r := ifield b 0xC 4
  let o := match ps.find? fun p => p.id == ifield b 8 2 with | some p => (p.x0, p.y0) | none => (0, 0)
  { off := ifield b 0 4, len := ifield b 4 4, panel := ifield b 8 2, kind := ifield b 0xA 1, start := bit (ifield b 0xB 1) 0, u0 := o.1 + bits r 0 8, v0 := o.2 + bits r 8 8, u1 := o.1 + bits r 16 8, v1 := o.2 + bits r 24 8, dest := ifield b 0x10 8, crcOff := ifield b 0x18 4 }

/-- An entry that breaks reason 14 by itself; `size` is the image's length, `glen` the declared range. -/
def segBad (b : List Byte) (ps : List Panel) (size glen : Nat) (testslot : Bool) : Bool :=
  let g := segOf b ps
  let r := ifield b 0xC 4
  let u0 := bits r 0 8
  let v0 := bits r 8 8
  let u1 := bits r 16 8
  let v1 := bits r 24 8
  crc32c (b.take 0x1C) != ifield b 0x1C 4 || g.kind == 0 || decide (5 < g.kind) || decide (2 ≤ ifield b 0xB 1) ||
  g.len == 0 || g.len % (if g.kind = 4 then 16 else 64) != 0 || g.off % 64 != 0 || g.crcOff % 4 != 0 ||
  decide (size < g.off + g.len) || decide (size < g.crcOff + 4 * ((g.len + 2047) / 2048)) ||
  (if g.kind = 5 then g.dest % 64 != 0 || decide (glen < g.dest + g.len)
   else
    (match ps.find? fun p => p.id == g.panel with
      | none => true
      | some p => decide (u1 < u0) || decide (v1 < v0) || decide (p.w ≤ u1) || decide (p.h ≤ v1)) ||
    (if g.kind = 4 then g.dest != 0
     else if g.kind = 3 then g.dest % 64 != 0 || decide (0x170000 < g.dest + g.len)
     else g.dest % 64 != 0 || decide ((if testslot then 0x7800 else 0x8000) < g.dest + g.len)))

/-- Two segments that write the same bytes of one cell, or of GDDR7 (R233). -/
def segsMeet (a b : Seg) : Bool :=
  a.kind == b.kind && a.kind != 4 && runsMeet a.dest a.len b.dest b.len &&
  (a.kind == 5 || overlap a.u0 a.v0 (a.u1 + 1 - a.u0) (a.v1 + 1 - a.v0) b.u0 b.v0 (b.u1 + 1 - b.u0) (b.v1 + 1 - b.v0))

/-! ### KIND 4 entries (R234) -/

/-- A register all of whose fields are write-only. -/
def RegRow.allWo (r : RegRow) : Bool := r.fields.all fun f => decide (f.acc = .wo)

/-- A forbidden entry of 16 bytes. -/
def entryForbidden (b : List Byte) : Bool :=
  let o := ifield b 0 2
  let wide := bit (ifield b 2 1) 0
  decide (2 ≤ ifield b 2 1) || ifield b 3 5 != 0 || (decide (0x6000 ≤ o) && decide (o < 0x8000)) ||
  o == HEAD_CTRL || o == HEAD_CTRL + 0x1000 || o == MXE_BAL_CTRL ||
  (match findRow cellRows o with
    | some (r, false) => r.wide != wide || (r.allWo && o != RTR_MC_LAND_ADD)
    | _ => true)

/-- The entries of a payload. -/
def entriesOf (b : List Byte) : List (List Byte) := (List.range (b.length / 16)).map fun i => (b.drop (16 * i)).take 16

namespace State

/-! ### Reading the image -/

/-- One request of a read of the image: the bytes and the status. -/
def imgPiece (s : State) (d sp a n : Nat) : State × List Byte × Nat :=
  s.carried d .firmware (2 ^ 44 * sp + a) n false (fun k => ([], k)) fun t =>
    if sp = 8 then t.hostFetch .firmware a n
    else let g := t.gddrReadNow .firmware a n; (g.1, g.2.1, g.2.2.2)

/-- A request of a read of the image after those before it: one that fails spoils the read. -/
def imgNext (d sp a : Nat) (q : State × Option (List Byte)) (p : Nat × Nat) : State × Option (List Byte) :=
  let r := q.1.imgPiece d sp (a + p.1) p.2
  (r.1, if r.2.2 = 0 then q.2.map (· ++ r.2.1) else none)

/-- A read of the image by the controller of die d: none where it is refused, is lost, is not answered or returns poison (R241). -/
def imgReadBy (s : State) (d src off len : Nat) : State × Option (List Byte) :=
  let a := bits src 0 44 + off
  let host := bits src 44 4 == 8
  (piecesBy (if host then 4096 else 960) a len).foldl (imgNext d (bits src 44 4) a) (s, some [])

/-- A read of the image by the engine controller. -/
def imgRead (s : State) (src off len : Nat) : State × Option (List Byte) := s.imgReadBy s.ctlDie src off len

/-- A chunk with its table value: its bytes and the CRC its table gives; none where a read is refused or poisoned. -/
def readChunk (s : State) (src : Nat) (g : Seg) (i o n : Nat) : State × Option (List Byte × Nat) :=
  match s.imgRead src (g.off + o) n with
  | (t, none) => (t, none)
  | (t, some bs) =>
    match t.imgRead src (g.crcOff + 4 * i) 4 with
    | (u, none) => (u, none)
    | (u, some c) => (u, some (bs, ofLe c))

/-- A chunk of KIND 4 or 5, read until its CRC is right, three times at most (R239); the first `spoilt` reads fail their CRC on the way.
None where a read is refused or poisoned, or all three fail. -/
def readGood (s : State) (src : Nat) (g : Seg) (i o n : Nat) : Nat → Nat → State × Option (List Byte)
  | 0, _ => (s, none)
  | more + 1, spoilt =>
    match s.readChunk src g i o n with
    | (t, none) => (t, none)
    | (t, some (bs, crc)) => if crc32c bs = crc ∧ spoilt = 0 then (t, some bs) else State.readGood t src g i o n more (spoilt - 1)

/-! ### Phases and refusals (R235, R240, R255) -/

def loadPhase (s : State) : Nat := s.fld (ecKey BOOT_LOAD_STAT) 0 3
def setPhase (s : State) (p : Nat) : State := s.setFld (ecKey BOOT_LOAD_STAT) 0 3 p

/-- The ring entry that waits for the load has its result: DETAIL is the load's REASON (R327, R328). -/
def ringLoadEnd (s : State) : State :=
  let res := if s.loadPhase = 5 then (0, 0) else (1, s.fld (ecKey BOOT_LOAD_STAT) 3 5)
  { s with rings := s.rings.map fun (e : Nat × Ring) => if e.2.loading then (e.1, { e.2 with loading := false, res := some res }) else e }

/-- PHASE becomes 5 or 6: the load event (R331, R332). -/
def loadEvent (s : State) : State :=
  (s.ringLoadEnd.event 2 (toLe 4 (s.reg (ecKey BOOT_LOAD_STAT)).toNat ++ toLe 4 (s.reg (ecKey BOOT_LOAD_INFO)).toNat)).raiseAll 257

/-- A 0x8B record (R518). -/
def loadRec (s : State) (reason panel seg : Nat) : State := s.raise 0x8B (.engine 0) (reason + panel * 2 ^ 8 + seg * 2 ^ 24) none

/-- Each cell that repaired a chunk in this load logs 0x8D as the load leaves PHASE 3 (R238). -/
def logPatches (s : State) (id : Nat) : State :=
  (s.jobCells id).foldl (fun t c =>
    let n := (t.cell c).patched
    if n = 0 then t else (t.raise 0x8D (.cell c 0) n none).setCell c { t.cell c with patched := 0 }) s

/-- A load is refused (R240). -/
def loadRefuse (s : State) (reason panel seg : Nat) : State :=
  let s1 := match s.load with
    | some l => if l.entered then (if s.loadPhase = 3 then s.logPatches l.job else s).removeJob l.job else s
    | none => s
  let s2 := ({ s1 with load := none }).loadRec reason panel seg
  (((s2.setPhase 6).setFld (ecKey BOOT_LOAD_STAT) 3 5 reason).setFld (ecKey BOOT_LOAD_INFO) 0 16
    (if reason = 18 ∨ reason = 19 then panel else 0xFFFF)).loadEvent

/-- A cell of the job in load failed a step: reason 19, naming its panel. -/
def loadCellFail (s : State) (c : Nat) : State :=
  match s.load, s.panelOf c with
  | some l, some p => if p.job = l.job then s.loadRefuse 19 p.id 0xFFFF else s
  | _, _ => s

/-! ### PHASE 1 (R241) -/

/-- A panel that contains a hole, or a cell of a die row whose quick remap is in progress (R46, R62, R72). -/
def panelHoled (s : State) (p : Panel) : Bool :=
  (s.panelCells p).any fun c =>
    s.isHole c || (match s.boot.remap with | some (d, py, _) => cellDie c == d && cellPy c == py | none => false)

/-- The lowest-numbered reason of R72 that a set of descriptors meets, with the panel concerned. -/
def panelReason (s : State) (ds : List PDesc) (ps : List Panel) : Option (Nat × Nat) :=
  let par := fun (d : PDesc) => match ds.find? fun e => e.id == d.parent with
    | some e => some (e.w, e.h, e.job)
    | none => (s.panels.find? fun (p : Panel) => p.id == d.parent).map fun (p : Panel) => (p.w, p.h, p.job)
  let past := fun (d : PDesc) =>
    if d.parent = 0xFFFF then decide (s.canvasW < d.x0 + d.w) || decide (s.canvasH < d.y0 + d.h)
    else match par d with | some (w, h, _) => decide (w < d.x0 + d.w) || decide (h < d.y0 + d.h) | none => false
  let meet := fun (p q : Panel) => overlap p.x0 p.y0 p.w p.h q.x0 q.y0 q.w q.h
  let dupId := fun (d : PDesc) => decide (0x0FFF < d.id) || (s.panels.any fun p => p.id == d.id) ||
    (d.parent != 0xFFFF && (par d).isNone) || (absOrigin ds s.panels d (ds.length + 1)).isNone
  match ds.find? (·.bad) with
  | some d => some (1, d.id)
  | none => match ds.find? fun d => d.w == 0 || d.h == 0 with
    | some d => some (2, d.id)
    | none => match ds.find? past with
      | some d => some (3, d.id)
      | none => match (laterOf (fun p q => p.parent == q.parent && meet p q) ps).orElse
            fun _ => ps.find? fun p => s.panels.any fun q => q.job != p.job && meet p q with
        | some p => some (4, p.id)
        | none => match (ds.find? dupId).orElse fun _ => laterOf (fun a b => a.id == b.id) ds with
          | some d => some (5, d.id)
          | none => match ds.find? fun d => d.parent != 0xFFFF && (match par d with | some (_, _, j) => j != d.job | none => false) with
            | some d => some (6, d.id)
            | none => match ps.find? s.panelHoled with
              | some p => some (7, p.id)
              | none => if 4096 < s.panels.length + ds.length then some (8, 0xFFFF) else none

/-- Reads the N panel descriptors' bounding rectangle: (x0, y0, x1, y1) of the top-level panels, inclusive (R231). -/
def bounding (ps : List Panel) : Nat × Nat × Nat × Nat :=
  let top := ps.filter fun p => p.parent == 0xFFFF
  top.foldl (fun r p => (min r.1 p.x0, min r.2.1 p.y0, max r.2.2.1 (p.x0 + p.w - 1), max r.2.2.2 (p.y0 + p.h - 1))) (255, 127, 0, 0)

/-- Nibble j of a run of calibration words. -/
def calNibble (s : State) (d o j : Nat) : Nat := s.fld (dieKey d (o + 4 * (j / 8))) (4 * (j % 8)) 4

/-- The crossings between two neighbouring cells of one die or of two, as (kind, calibrated value): kind 0 region, 1 field
seam, 2 die boundary (R415, R420). A failed seam crossing has no value to compare (log 16). -/
def crossings (s : State) (a b : Nat) : List (Nat × Nat) :=
  if cellDie a ≠ cellDie b then [(2, s.fld (dieKey (cellDie a) (CAL_BND + 4 * (if cellPy a = cellPy b then 1 else 2))) 0 4)]
  else
    let d := cellDie a
    if cellPy a = cellPy b then
      (((List.range 8).drop 1).filter fun r => decide (cellPx a < 6 * r) && decide (6 * r ≤ cellPx b)).filterMap fun r =>
        if r = 4 then (let v := s.calNibble d CAL_SEAM0 (cellPy a); if v = 0 then none else some (1, v))
        else some (0, s.fld (dieKey d CAL_LAT_REG) 0 4)
    else
      (((List.range 8).drop 1).filter fun r => decide (cellPy a < 6 * r) && decide (6 * r ≤ cellPy b)).filterMap fun r =>
        if r = 4 then (let v := s.calNibble d CAL_SEAM1 (cellPx a); if v = 0 then none else some (1, v))
        else some (0, s.fld (dieKey d CAL_LAT_REG) 0 4)

/-- Every crossing within a rectangle of logical cells. -/
def crossingsIn (s : State) (r : Nat × Nat × Nat × Nat) : List (Nat × Nat) :=
  (List.range (r.2.2.2 + 1 - r.2.1)).flatMap fun j => (List.range (r.2.2.1 + 1 - r.1)).flatMap fun i =>
    let x := r.1 + i
    let y := r.2.1 + j
    match s.physicalOf x y with
    | none => []
    | some c =>
      (if x < r.2.2.1 then (match s.physicalOf (x + 1) y with | some e => s.crossings c e | none => []) else []) ++
      (if y < r.2.2.2 then (match s.physicalOf x (y + 1) with | some e => s.crossings c e | none => []) else [])

/-- Reason 12. -/
def latBad (s : State) (r : Nat × Nat × Nat × Nat) (reg fld die : Nat) : Bool :=
  let cs := s.crossingsIn r
  cs.any (fun e => e.2 != (if e.1 = 0 then reg else if e.1 = 1 then fld else die)) || (!(cs.any fun e => e.1 == 2) && die != 0)

/-- Reason 16. -/
def rangeBad (s : State) (src size base len qctx : Nat) : Bool :=
  base % 65536 != 0 || len % 65536 != 0 || (0 < len && decide (s.gddrCap < base + len)) ||
  (s.jobs.any fun j => 0 < j.glen && 0 < len && runsMeet base len j.gbase j.glen) ||
  (bits src 44 4 == 0 && 0 < len && runsMeet base len (bits src 0 44) size) || decide (s.freeCtxCount < qctx)

/-- The KIND 4 payloads, chunk by chunk: the entries held, or the refusal (reason, segment). -/
def readEntries (s : State) (src : Nat) : List (Seg × Nat) → State × (List (Nat × Nat × Bool × DWord) ⊕ (Nat × Nat))
  | [] => (s, .inl [])
  | (g, n) :: rest =>
    let r := (chunksOf g.len).foldl (fun (q : State × Option (List Byte)) c =>
      match q.2 with
      | none => q
      | some bs => match q.1.readGood src g c.1 c.2.1 c.2.2 3 0 with
        | (t, some b) => (t, some (bs ++ b))
        | (t, none) => (t, none)) (s, some [])
    match r.2 with
    | none => (r.1, .inr (17, 0xFFFF))
    | some bs =>
      if (entriesOf bs).any entryForbidden then (r.1, .inr (15, n))
      else match State.readEntries r.1 src rest with
        | (t, .inl es) => (t, .inl ((entriesOf bs).map (fun b => (n, ifield b 0 2, bit (ifield b 2 1) 0, BitVec.ofNat 64 (ifield b 8 8))) ++ es))
        | e => e

/-- The outcome of PHASE 1: a load, or a reason with the panel and segment concerned. -/
def loadCheck (s : State) (src units ox oy : Nat) : State × (LoadSt ⊕ (Nat × Nat × Nat)) :=
  let size := 64 * units
  let no := fun (t : State) (r : Nat) => (t, Sum.inr (α := LoadSt) (r, 0xFFFF, 0xFFFF))
  if !s.canvasValid then no s 10
  else if src % 64 ≠ 0 ∨ (bits src 44 4 ≠ 0 ∧ bits src 44 4 ≠ 8) then no s 17
  else match s.imgRead src 0 64 with
  | (s, none) => no s 17
  | (s, some h) =>
    let s := s.setFld (ecKey BOOT_LOAD_STAT) 16 16 (ifield h 0xC 2)
    let np := ifield h 0xE 2
    let ns := ifield h 0x14 2
    let po := ifield h 0x10 4
    let so := ifield h 0x18 4
    let flags := ifield h 0x16 2
    let job := ifield h 0xC 2
    if ifield h 0 4 ≠ 0x494C5A44 ∨ ifield h 4 2 ≠ 1 ∨ ifield h 6 2 ≠ 64 ∨ crc32c (h.take 0x3C) ≠ ifield h 0x3C 4 ∨
        ifield h 8 4 ≠ units ∨ ifield h 0x1F 1 ≠ 0 ∨ ifield h 0x34 8 ≠ 0 ∨ 4 ≤ flags ∨ np = 0 ∨ 4096 < np ∨ ns = 0 ∨
        po % 64 ≠ 0 ∨ so % 64 ≠ 0 ∨ size < po + 16 * np ∨ size < so + 32 * ns then no s 9
    else match s.imgRead src po (16 * np) with
    | (s, none) => no s 17
    | (s, some pt) =>
      let ds := (List.range np).map fun i => pdesc ((pt.drop (16 * i)).take 16) ox oy
      let ps := ds.map (placed ds s.panels)
      let slot := bit flags 1
      match s.panelReason ds ps with
      | some (r, p) => (s, .inr (r, p, 0xFFFF))
      | none =>
        if job = 0xFFFF ∨ (s.job? job).isSome ∨ 64 ≤ s.jobs.length ∨ ds.any (fun d => d.job != job) then no s 11
        else if s.latBad (bounding ps) (ifield h 0x1C 1) (ifield h 0x1D 1) (ifield h 0x1E 1) then no s 12
        else if bit flags 0 ≠ (s.fld (ecKey LIC_STAT) 1 1 == 1) then no s 13
        else match s.imgRead src so (32 * ns) with
        | (s, none) => no s 17
        | (s, some st) =>
          let es := (List.range ns).map fun i => (st.drop (32 * i)).take 32
          let gs := es.map fun b => segOf b ps
          let firstBad := (List.range ns).find? fun i =>
            segBad ((es[i]?).getD []) ps size (ifield h 0x28 8) slot ||
              (match gs[i]? with | some g => (gs.take i).any fun e => segsMeet e g | none => false)
          match firstBad with
          | some i => (s, .inr (14, 0xFFFF, i))
          | none =>
            match s.readEntries src (gs.zipIdx.filter fun e => e.1.kind == 4) with
            | (s, .inr (r, n)) => (s, .inr (r, 0xFFFF, n))
            | (s, .inl k4) =>
              if s.rangeBad src size (ifield h 0x20 8) (ifield h 0x28 8) (ifield h 0x30 4) then no s 16
              else (s, .inl { job := job, src := src, len := size, qctx := ifield h 0x30 4, panels := ps, segs := gs, k4 := k4, testslot := slot, gbase := ifield h 0x20 8, glen := ifield h 0x28 8, round := 0, bad := [], bcastEnd := 0, armed := [], tables := [], asked := [], entered := false, prepared := false, k5 := false })

/-- A write of BOOT_LOAD_CMD with OP = 1 (R235, R242). A load refused before its header is read leaves BOOT_LOAD_STAT.JOB_ID as the earlier
load left it (DESIGN CHOICE, log 36). -/
def loadStart (s : State) : State :=
  if s.load.isSome then s.loadRec 10 0xFFFF 0xFFFF
  else
    let org := s.reg (ecKey BOOT_LOAD_ORG)
    let s0 := ((s.setFld (ecKey BOOT_LOAD_STAT) 0 8 1).setReg (ecKey BOOT_LOAD_INFO) 0xFFFF)
    match s0.loadCheck (s.fld (ecKey BOOT_LOAD_SRC) 0 48) (s.fld (ecKey BOOT_LOAD_LEN) 0 32) (bits org.toNat 0 8) (bits org.toNat 8 7) with
    | (t, .inl l) => { t with load := some l }
    | (t, .inr (r, p, g)) => t.loadRefuse r p g

/-! ### PHASE 2 (R236) -/

/-- Cells of a segment, by rows. -/
def segCells (s : State) (g : Seg) : List Nat :=
  (List.range (g.v1 + 1 - g.v0)).flatMap fun j => (List.range (g.u1 + 1 - g.u0)).filterMap fun i => s.physicalOf (g.u0 + i) (g.v0 + j)

/-- The core a code segment is for. -/
def Seg.core (g : Seg) : CoreSel := if g.kind = 1 then .head else .tail

/-- The job is entered as LOADING with its panels, its contexts are allocated, and regions in state 1 turn on (R291, R356). -/
def enterJob (s : State) (l : LoadSt) : State :=
  let starts := (l.segs.filter fun g => (g.kind == 1 || g.kind == 2) && g.start).flatMap fun g => (s.segCells g).map fun c => (c, Seg.core g)
  let j : Job := { id := l.job, state := 0, step := 0, gbase := l.gbase, glen := l.glen, testslot := l.testslot, starts := starts.eraseDups, ctxs := [] }
  let s1 := ({ s with jobs := s.jobs ++ [j], panels := s.panels ++ l.panels, load := some { l with entered := true } }).setJobState l.job 1
  let r := bounding l.panels
  let dies := (List.range s.part.dies).filter fun d => (s1.jobCells l.job).any fun c => cellDie c == d
  let rect := (List.range s.part.dies).filter fun d => s.dieState d == 1 &&
    overlap (46 * (dieCol s.part d - s.canvasDc)) (48 * (dieRow s.part d - s.canvasDr)) 46 48 r.1 r.2.1 (r.2.2.1 + 1 - r.1) (r.2.2.2 + 1 - r.2.1)
  let s2 := s1.allocCtxs l.job (if rect = [] then dies else rect) l.qctx
  let regs := ((s2.jobCells l.job).map cellRegion).eraseDups
  (regs.foldl (fun t r => if (t.region r).st = 1 then t.startTurnOn r false true else t) s2.balSettle).setPhase 2

/-- One cell is prepared: its matrix engine is flushed, and then its records are cleared (R236). -/
def prepareCell (s : State) (c : Nat) : State :=
  let s1 := ((s.mxeFlushNow c).setReg (cellKey c MXE_ERR_DESC) 0).setReg (cellKey c MXE_CHK_LAST) 0
  let s2 := (List.range 48).foldl (fun t n => t.armCounter c n 0) (s1.setOwners c 0x44444444)
  let s3 := ((s2.setFld (cellKey c RTR_MC_LAND) 16 1 1).setReg (cellKey c ERR_STAT) 0).setReg (cellKey c ERR_HALT_RSEQ) 0
  match s.logicalOf c, s.panelOf c with
  | some (x, y), some p =>
    let csr := fun (m : SMap Word) => SMap.put (SMap.put (SMap.put m 0xFC0 (BitVec.ofNat 32 (x + y * 2 ^ 8)))
      0xFC1 (BitVec.ofNat 32 (x - p.x0 + (y - p.y0) * 2 ^ 8))) 0xFC2 (BitVec.ofNat 32 p.id)
    let x := s3.cell c
    s3.setCell c { x with head := { x.head with csr := csr x.head.csr }, tail := { x.tail with csr := csr x.tail.csr }, patched := 0 }
  | _, _ => s3

/-- The job is entered, unless one of its panels has got a hole or a die row in remap since PHASE 1 (R46, R62). -/
def enterOrRefuse (s : State) (l : LoadSt) : State :=
  match l.panels.find? s.panelHoled with
  | some p => s.loadRefuse 7 p.id 0xFFFF
  | none => s.enterJob l

/-- PHASE 2: enters the job, then prepares its cells once every region that holds one is on (R236, R356). -/
def loadPrepare (s : State) : State :=
  match s.load with
  | none => s
  | some l =>
    let s1 := if l.entered then s else s.enterOrRefuse l
    match s1.load with
    | none => s1
    | some l =>
      if l.prepared then s1
      else
        let cs := s1.jobCells l.job
        match cs.find? fun c => !s1.coreGate (cellRegion c) && (s1.region (cellRegion c)).st != 2 && (s1.region (cellRegion c)).on.isNone with
        | some c => s1.loadCellFail c
        | none =>
          if cs.all fun c => s1.coreGate (cellRegion c) then
            let s2 := cs.foldl (fun t c => t.prepareCell c) (s1.ballastOff cs)
            ({ s2 with load := some { l with prepared := true } }).setPhase 3
          else s1

/-! ### PHASE 3 (R237-R239) -/

/-- The KIND 5 segments go to GDDR7, by writes of the engine controller (R198, R519). -/
def loadKind5 (s : State) (badReads : Nat) : State :=
  match s.load with
  | none => s
  | some l =>
    if !l.prepared || l.k5 then s
    else
      let gs := l.segs.filter fun g => g.kind == 5
      let r := (gs.flatMap fun g => (chunksOf g.len).map fun c => (g, c)).foldl (fun (q : State × Nat) e =>
        if q.2 ≠ 0 then q
        else match q.1.readGood l.src e.1 e.2.1 e.2.2.1 e.2.2.2 3 badReads with
          | (t, none) => (t, 17)
          | (t, some bs) =>
            let a := l.gbase + e.1.dest + e.2.2.1
            (piecesBy 960 a bs.length).foldl (fun (q : State × Nat) p =>
              let w := q.1.carried q.1.ctlDie .firmware (a + p.1) p.2 true id fun u =>
                u.gddrWriteNow .firmware (a + p.1) ((bs.drop p.1).take p.2) []
              (w.1, if w.2 = 1 ∨ w.2 = 3 then 19 else q.2)) (t, 0)) (s, 0)
      if r.2 ≠ 0 then r.1.loadRefuse r.2 0xFFFF 0xFFFF else { r.1 with load := some { l with k5 := true } }

/-- The rounds of a load, as segment indices: one per code segment in table order, then one for all KIND 3 segments. -/
def roundsOf (l : LoadSt) : List (List Nat) :=
  let ix := (List.range l.segs.length)
  let kind := fun i => match l.segs[i]? with | some g => g.kind | none => 0
  ((ix.filter fun i => kind i == 1 || kind i == 2).map fun i => [i]) ++
    (let ds := ix.filter fun i => kind i == 3; if ds = [] then [] else [ds])

/-- Where a chunk lands in its cell: code in the staging area, data at DEST (R521). -/
def landOff (g : Seg) (o : Nat) : Nat := (if g.kind = 3 then 0 else 0x170000) + g.dest + o

/-- The packets of a chunk: number, first byte and length, at most 256 bytes and within 256 bytes of DEST (R521). -/
def packetsOf (g : Seg) (o len : Nat) : List (Nat × Nat × Nat) :=
  (piecesBy 256 (g.dest + o) len).zipIdx.map fun e => (e.2, e.1)

/-- A loader packet lands in a cell; false where the scratchpad refuses it (R213). -/
def landPiece (s : State) (c : Nat) (g : Seg) (o : Nat) (bs : List Byte) (pois : List Nat) : State × Bool :=
  match s.spmCheckRun c (landOff g o) bs.length 4 true with
  | some (a, cr) => (s.spmRefuse c a 4 .firmware cr, false)
  | none => ((s.meshWrite c (landOff g o) bs pois none).1, true)

/-- The engine issues the instruction-store load of a cell whose code segment is good (R238); refused: reason 19. -/
def issueImem (s : State) (c : Nat) (g : Seg) : State :=
  let v := BitVec.ofNat 32 (g.len / 64 + g.dest / 64 * 2 ^ 10 + g.dest / 64 * 2 ^ 20)
  let t := s.imemLoad c (Seg.core g) .firmware v
  if (t.core c (Seg.core g)).imem.isNone then t.loadCellFail c else t

/-- The test kernel's bytes 0x7800-0x7FFF of both instruction stores (R250). -/
def writeKernel (s : State) (c : Nat) : State :=
  (List.range 256).foldl (fun t i =>
    let w := fun n => ofLe ((List.range 8).map fun j => Config.testKernel n (8 * i + j))
    (t.putImem c .head (0x7800 + 8 * i) (w 0)).putImem c .tail (0x7800 + 8 * i) (w 1)) s

def writeKernels (s : State) (l : LoadSt) : State :=
  if l.testslot then (s.jobCells l.job).foldl (fun t c => t.writeKernel c) s else s

/-- Whether the previous round has ended in every cell. -/
def roundOver (s : State) (l : LoadSt) : Bool :=
  l.bad.isEmpty && (s.jobCells l.job).all fun c => (s.cell c).head.imem.isNone && (s.cell c).tail.imem.isNone

/-- Address of a byte of a segment's payload in the scratchpad of the cell at logical (x, y). -/
def loadGa (x y : Nat) (g : Seg) (o : Nat) : Nat := gaSpm x y (landOff g o)

/-- Loader packet k of a chunk, at byte `o` of its segment, lands in those cells of a list to which it is not lost: the cells where it did. -/
def landAll (s : State) (g : Seg) (i n k o : Nat) (bs : List Byte) (lost : List (Nat × Nat × Nat × Nat)) (cs : List Nat) : State × List Nat :=
  cs.foldl (fun (a : State × List Nat) c =>
    if lost.contains (c, i, n, k) then a
    else match a.1.landPiece c g o bs [] with
      | (u, true) => (u, c :: a.2)
      | (u, false) => (u, a.2)) (s, [])

/-- One loader packet of a round goes out (R237): by unicast to a rectangle of one cell, else to the armed load unit of the north-west
cell, which injects it as a multicast of firmware origin to the rectangle. The answer: the cells where it landed. -/
def sendPacket (s : State) (l : LoadSt) (g : Seg) (i n k o : Nat) (bs : List Byte) (lost stalled : List (Nat × Nat × Nat × Nat)) : State × List Nat :=
  s.carried s.ctlDie .firmware (loadGa g.u0 g.v0 g o) bs.length true (fun _ => []) fun t =>
    match t.physicalOf g.u0 g.v0 with
    | none => (t, [])
    | some nw =>
      if g.u0 = g.u1 ∧ g.v0 = g.v1 then t.landAll g i n k o bs lost [nw]
      else if !l.armed.contains nw then (t, [])
      else
        let p := { Pkt.blank 6 .firmware (.router nw 0) with
          org := some nw, x := g.u0, y := g.v0, x1 := g.u1, y1 := g.v1, addr := loadGa g.u0 g.v0 g o, blen := bs.length, dlen := dlenOf bs.length }
        let stall := (stalled.find? fun e => e.1 == i && e.2.1 == n && e.2.2.1 == k).map fun e => e.2.2.2
        let r := t.mcWalk p stall 20000 [(nw, 0)]
        r.1.landAll g i n k o bs lost r.2

/-- A packet of a chunk's train after those before it: the cells where all of them landed (R521). -/
def sendNext (l : LoadSt) (g : Seg) (i n o : Nat) (bs : List Byte) (lost stalled : List (Nat × Nat × Nat × Nat)) (a : State × List Nat)
    (p : Nat × Nat × Nat) : State × List Nat :=
  let w := a.1.sendPacket l g i n p.1 (o + p.2.1) ((bs.drop p.2.1).take p.2.2) lost stalled
  (w.1, a.2.filter w.2.contains)

/-- A chunk goes out packet by packet: the cells in which it is bad at the end, because its CRC does not match the table's or a packet
did not land (R521). -/
def sendChunk (s : State) (l : LoadSt) (g : Seg) (i n o : Nat) (bs : List Byte) (crc : Nat) (lost stalled : List (Nat × Nat × Nat × Nat)) :
    State × List Nat :=
  match (packetsOf g o bs.length).foldl (sendNext l g i n o bs lost stalled) (s, s.segCells g) with
  | (t, good) => (t, if crc32c bs = crc then (s.segCells g).filter fun c => ! good.contains c else s.segCells g)

/-- What a broadcast has come to: the bad chunks, the tables given to the checkers, and whether every read of the image succeeded. -/
structure Bcast where
  s : State
  bad : List (Nat × Nat × Nat)
  tables : List (Nat × Nat × Nat)
  ok : Bool

/-- The chunks of a round go to their cells: `lost` names packets that do not reach a cell in time, `stalled` those that a router holds
up to its watchdog, as (segment, chunk, packet, router). -/
def broadcast (s : State) (l : LoadSt) (lost stalled : List (Nat × Nat × Nat × Nat)) (is : List Nat) : Bcast :=
  let es := is.flatMap fun i => match l.segs[i]? with | some g => (chunksOf g.len).map fun c => (i, g, c) | none => []
  es.foldl (fun (q : Bcast) e =>
    if !q.ok then q
    else match q.s.readChunk l.src e.2.1 e.2.2.1 e.2.2.2.1 e.2.2.2.2 with
      | (t, none) => { q with s := t, ok := false }
      | (t, some (bs, crc)) =>
        let r := t.sendChunk l e.2.1 e.1 e.2.2.1 e.2.2.2.1 bs crc lost stalled
        { s := r.1, bad := q.bad ++ r.2.map (fun c => (c, e.1, e.2.2.1)), tables := q.tables ++ [(e.1, e.2.2.1, crc)], ok := true })
    { s := s, bad := [], tables := [], ok := true }

/-- The load units are disarmed when the round has ended in every cell (R237). -/
def roundSettle (s : State) : State :=
  match s.load with
  | some l => if l.armed ≠ [] ∧ s.roundOver l then { s with load := some { l with armed := [] } } else s
  | none => s

/-- A round (R237). -/
def loadRound (s : State) (lost stalled : List (Nat × Nat × Nat × Nat)) : State :=
  match s.load with
  | none => s
  | some l =>
    if !l.prepared || (!l.k5 && l.segs.any fun g => g.kind == 5) || !s.roundOver l then s
    else match (roundsOf l)[l.round]? with
      | none => s
      | some is =>
        let l := { l with armed := (is.flatMap fun i => match l.segs[i]? with | some g => s.segCells g | none => []).eraseDups }
        let s0 := { (if l.round = 0 then s.writeKernels l else s) with load := some l }
        let b := s0.broadcast l lost stalled is
        if !b.ok then b.s.loadRefuse 17 0xFFFF 0xFFFF
        else
          let t1 := { b.s with load := some { l with round := l.round + 1, bad := b.bad, bcastEnd := b.s.now, tables := b.tables, asked := [] } }
          (is.foldl (fun u i => match l.segs[i]? with
            | some g =>
              if g.kind = 3 then u
              else (u.segCells g).foldl (fun u c => if b.bad.any (fun e => e.1 == c) || u.load.isNone then u else u.issueImem c g) u
            | none => u) t1).roundSettle

/-- Distance order of holders: |dx| + |dy|, then lower y, then lower x (R238). -/
def holderKey (s : State) (c h : Nat) : Nat :=
  match s.logicalOf c, s.logicalOf h with
  | some (x, y), some (hx, hy) => ((max x hx - min x hx) + (max y hy - min y hy)) * 65536 + hy * 256 + hx
  | _, _ => 0

/-- Chunks not good 250 ms after the broadcast (R239): the first such panel in PANEL_ID order. -/
def roundTimeout (s : State) : State :=
  match s.load with
  | none => s
  | some l =>
    if l.bad ≠ [] ∧ l.bcastEnd + 250000000 < s.now then
      s.loadRefuse 18 ((l.bad.filterMap fun b => (s.panelOf b.1).map (·.id)).foldl min 0xFFFF) 0xFFFF
    else s

/-- The holders of a chunk that its cell has still to ask, in their order, as many as its three attempts leave (R238). -/
def holders (s : State) (l : LoadSt) (c i n : Nat) (g : Seg) : List Nat :=
  let asked := l.asked.filter fun e => e.1 == c && e.2.1 == i && e.2.2.1 == n
  let hs := (s.segCells g).filter fun h => h != c && ! l.bad.contains (h, i, n) && ! asked.contains (c, i, n, h)
  (sortBy (s.holderKey c) hs).take (3 - asked.length)

/-- One packet of a chunk read from a holder: its bytes and poisoned words, where the read succeeds. -/
def holderPiece (s : State) (h : Nat) (g : Seg) (o n : Nat) : State × Option (List Byte × List Nat) :=
  match s.spmCheckRun h (landOff g o) n 4 true with
  | some (a, cr) => (s.spmRefuse h a 4 .firmware cr, none)
  | none => let r := s.meshRead h (landOff g o) n; (r.1, some r.2)

/-- One packet of a copy from a holder goes from the cell's load unit to the holder and back, and lands: its bytes, where it did without
poison. -/
def copyPiece (s : State) (c h : Nat) (g : Seg) (o n : Nat) : State × Option (List Byte) :=
  let req := { Pkt.blank 2 .firmware (.router c 0) with blen := n }
  let ans := { Pkt.blank 3 .firmware (.router h 0) with blen := n, dlen := dlenOf n }
  match s.cellToCell c h req ans with
  | (t, _ + 1) => (t, none)
  | (t, 0) =>
    match t.holderPiece h g o n with
    | (u, none) => (u, none)
    | (u, some (bs, pois)) => let w := u.landPiece c g o bs pois; (w.1, if w.2 && pois.isEmpty then some bs else none)

/-- A copy arrives packet by packet, but for the packets of `drop`; whether it is good: it landed whole, and its CRC is the table's. -/
def copyChunk (s : State) (g : Seg) (o len crc : Nat) (drop : List Nat) (piece : State → Nat → Nat → State × Option (List Byte)) : State × Bool :=
  let r := (packetsOf g o len).foldl (fun (a : State × Option (List Byte)) p =>
    if drop.contains p.1 then (a.1, none)
    else
      let w := piece a.1 (o + p.2.1) p.2.2
      (w.1, match a.2, w.2 with | some x, some y => some (x ++ y) | _, _ => none)) (s, some [])
  (r.1, match r.2 with | some bs => crc32c bs == crc | none => false)

/-- The die controller of the cell's die writes a packet of a chunk to it by unicast. -/
def unicastPiece (s : State) (c : Nat) (g : Seg) (o : Nat) (bs : List Byte) : State × Option (List Byte) :=
  let ga := match s.logicalOf c with | some (x, y) => loadGa x y g o | none => 0
  s.carried (cellDie c) .firmware ga bs.length true (fun _ => none) fun t =>
    let w := t.landPiece c g o bs []
    (w.1, if w.2 then some bs else none)

/-- The checker of a cell has a chunk good (R238): it is counted, and a code segment that is good in the cell is copied. -/
def chunkGood (s : State) (c i n : Nat) (g : Seg) : State :=
  match s.load with
  | none => s
  | some l =>
    let u1 := (s.setCell c { s.cell c with patched := (s.cell c).patched + 1 }).incSat (ecKey BOOT_LOAD_INFO) 16 16 1
    let bad := l.bad.filter fun b => b != (c, i, n)
    let u2 := { u1 with load := some { l with bad := bad } }
    (if g.kind ≠ 3 ∧ ¬ bad.any (fun b => b.1 == c && b.2.1 == i) then u2.issueImem c g else u2).roundSettle

/-- Attempts at the holders in turn; `copies` names for each the packets that do not arrive. The state, the holders asked, and whether a
copy was good. -/
def askHolders (s : State) (c : Nat) (g : Seg) (o len crc : Nat) : List Nat → List (List Nat) → State × List Nat × Bool
  | [], _ => (s, [], false)
  | h :: hs, copies =>
    match s.copyChunk g o len crc (copies.headD []) fun t a m => t.copyPiece c h g a m with
    | (t, true) => (t, [h], true)
    | (t, false) => let r := State.askHolders t c g o len crc hs copies.tail; (r.1, h :: r.2.1, r.2.2)

/-- The next attempts of the repair of a bad chunk (R238): the holders that are left, then one copy from the image source by the
controller of the cell's die. -/
def repairChunk (s : State) (c i n : Nat) (copies : List (List Nat)) : State :=
  match s.load with
  | none => s
  | some l =>
    match l.segs[i]?, l.bad.contains (c, i, n), l.tables.find? fun e => e.1 == i && e.2.1 == n with
    | some g, true, some (_, _, crc) =>
      if l.bcastEnd + 250000000 < s.now then s.roundTimeout
      else
        let o := 2048 * n
        let len := min 2048 (g.len - o)
        let r := s.askHolders c g o len crc (s.holders l c i n g) copies
        let l1 := { l with asked := l.asked ++ r.2.1.map fun h => (c, i, n, h) }
        let s1 := { r.1 with load := some l1 }
        if r.2.2 then s1.chunkGood c i n g
        else match s1.imgReadBy (cellDie c) l.src (g.off + o) len with
          | (t, none) => t.loadRefuse 17 0xFFFF 0xFFFF
          | (t, some bs) =>
            match t.copyChunk g o len crc ((copies.drop r.2.1.length).headD []) fun u a m => u.unicastPiece c g a ((bs.drop (a - o)).take m) with
            | (u, true) => u.chunkGood c i n g
            | (u, false) => u
    | _, _, _ => s

/-- A write of BOOT_LOAD_CMD with OP = 2 (R241, R242). -/
def loadAbort (s : State) : State := if s.load.isSome then s.loadRefuse 20 0xFFFF 0xFFFF else s

/-- A record of class 0x2A raised since `s` in a cell of the job in load refuses it (R241 reason 19). -/
def imemWatch (s t : State) (c : Nat) : State :=
  if (t.err.recQ.drop s.err.recQ.length).any fun r => r.cls == 0x2A then t.loadCellFail c else t

/-! ### Halts that may strike a load (R429, R244) -/

/-- Step 1 of a halt: the struck cell halts, and its job is HALTED from then on (R245, R293, R429). A job in load is refused by the step
that follows. -/
def haltStruck (s : State) (h : HaltReq) : State :=
  match s.job? h.job with
  | some j => if 2 ≤ j.state ∧ j.state ≤ 4 then ((s.cellHalt h.cell h.cls (s.rseqOf h.sn)).haltCtxs j.id).setJobState j.id 5 else s
  | none => s

/-- The struck cells of the halts detected in a cycle halt in the next one. -/
def haltSettle (s : State) : State :=
  (s.err.haltQ.filter fun h => !h.struck).foldl haltStruck
    { s with err := { s.err with haltQ := s.err.haltQ.map fun h => { h with struck := true } } }

/-- The oldest halt on its way reaches every other cell of its job (steps 2 and 3 of R429; R430), or refuses the job's load. -/
def panelHalt (s : State) : State :=
  match s.err.haltQ with
  | [] => s
  | h :: rest =>
    let s0 := { s with err := { s.err with haltQ := rest } }
    let s1 := if h.struck then s0 else s0.haltStruck h
    match s1.job? h.job with
    | none => s1
    | some j =>
      if j.state = 1 then s1.loadCellFail h.cell
      else ((s1.jobCells j.id).filter (· != h.cell)).foldl (fun t c => t.cellHalt c h.cls (s.rseqOf h.sn)) s1

/-- Jobs whose last core has stopped in the cycle are DONE at its end (R243, R245). -/
def jobsSettle (s : State) : State := s.jobs.foldl (fun t j => t.jobDone j.id) s

/-- BOOT_JOB_CMD OP 2. -/
def jobHalt (s : State) (id : Nat) : State :=
  match s.job? id with
  | some j =>
    if j.state = 1 then s.loadRefuse 19 0xFFFF 0xFFFF
    else if j.state = 2 ∨ j.state = 3 then s.haltJob id 0 0
    else s.jobIgnored id 2
  | none => s.jobIgnored id 2

/-- A write of BOOT_JOB_CMD (R244). -/
def jobCmd (s : State) (v : Nat) : State :=
  let id := bits v 0 16
  let op := bits v 16 2
  if op = 1 then s.jobStart id else if op = 2 then s.jobHalt id else if op = 3 then s.jobEnd id else s.jobIgnored id 0

end State

/-! ### Commands -/

/-- LOAD_START (R235, R241, R242). -/
def execLoadStart (fates : List Fate) (s : State) : Res := .next (s.withFates fates State.loadStart)

/-- LOAD_PREPARE (R235, R236). -/
def execLoadPrepare (s : State) : Res := .next s.loadPrepare

/-- LOAD_KIND5_WRITE (R235, R239): `badReads` reads of a chunk in a row fail their CRC on the way. -/
def execLoadKind5Write (badReads : Nat) (fates : List Fate) (s : State) : Res := .next (s.withFates fates fun t => t.loadKind5 badReads)

/-- LOAD_ROUND (R237, R521): `lost` names packets that do not reach a cell, as (cell, segment, chunk, packet), `stalled` those that a
router holds up (R214), as (segment, chunk, packet, router). -/
def execLoadRound (lost stalled : List (Nat × Nat × Nat × Nat)) (fates : List Fate) (s : State) : Res :=
  .next (s.withFates fates fun t => t.loadRound lost stalled)

/-- LOAD_CHUNK_REPAIR (R238): `copies` names, attempt by attempt, the packets of the copy that do not arrive. -/
def execLoadChunkRepair (c seg chunk : Nat) (copies : List (List Nat)) (fates : List Fate) (s : State) : Res :=
  .next (s.withFates fates fun t => t.repairChunk c seg chunk copies)

/-- LOAD_ROUND_TIMEOUT (R239). -/
def execLoadRoundTimeout (s : State) : Res := .next s.roundTimeout

/-- LOAD_ABORT (R241, R242). -/
def execLoadAbort (s : State) : Res := .next s.loadAbort

/-- IMEM_LOAD (R165). -/
def execImemLoad (c : Nat) (k : CoreSel) (req : Req) (v : Word) (s : State) : Res :=
  let t := s.dropPend req (keyBlock (State.coreKey c k HEAD_IMEM_LOAD))
  .next (t.imemWatch (t.imemLoad c k req v) c)

/-- IMEM_LOAD_COMPLETE (R165, R241). -/
def execImemLoadComplete (c : Nat) (k : CoreSel) (s : State) : Res := .next (s.imemWatch (s.imemDone c k) c).roundSettle

/-- PANEL_HALT (R429). -/
def execPanelHalt (s : State) : Res := .next s.panelHalt

/-- JOB_HALT (R244). -/
def execJobHalt (id : Nat) (s : State) : Res := .next (s.jobHalt id)

end Sys2Proof.Machine
end

