-- ==== Sys2Proof/Machine/Err.lean ====
section
/-! DEFINITION. What happens to an error record once raised (R423-R432), the black box (R446-R449), management Ethernet,
targeted and rotating self-tests with their coverage (R434-R441). -/

namespace Sys2Proof.Machine

/-- A record whose class names a severity that resets the engine. -/
def isEngine (r : Rec) : Bool := r.sev == 2

/-- A hexadecimal digit. -/
def hexDigit (n : Nat) : Char := ("0123456789ABCDEF".toList[n]?).getD '0'

/-- The syslog message of a record (R427). -/
def Rec.syslog (r : Rec) : Syslog :=
  { facility := 16, severity := if r.sev = 0 then 5 else if r.sev = 1 then 3 else if r.sev = 2 then 2 else 1, appName := "dzimin",
    msgId := String.ofList ['E', hexDigit (r.cls / 16), hexDigit (r.cls % 16)], structuredData := "-",
    msg := r.fields.map fun f => (f.1, f.2.2) }

/-- A datagram of records with its header (R426). -/
def datagramBytes (rs : List Rec) : List Byte :=
  toLe 4 0x52455A44 ++ toLe 2 1 ++ toLe 2 rs.length ++ toLe 8 Config.serial.toNat ++ rs.flatMap Rec.bytes

/-- The record that reaches the engine controller first (R423). -/
def firstRec : List Rec → Option Rec
  | [] => none
  | r :: rs => some (rs.foldl (fun a b => if b.before a then b else a) r)

namespace State

/-! ### The black box (R446-R448) -/

/-- JSEQ of the next entry. -/
def nextJ (s : State) : Nat := s.fld (ecKey BBOX_NEXT) 0 32

/-- Stage an entry, which takes the next JSEQ. -/
def stageOne (s : State) (kind : Nat) (body : List Byte) : State :=
  let e : JEntry := { jseq := s.nextJ, kind := kind, body := body, okA := true, okB := true, raw := none }
  ({ s with err := { s.err with staged := s.err.staged ++ [e] } }).setReg (ecKey BBOX_NEXT)
    (BitVec.ofNat 64 (if s.nextJ = 0xFFFFFFFF then 1 else s.nextJ + 1))

/-- An entry for the black box: dropped and counted while the buffer of 4,096 is full. -/
def stage (s : State) (kind rseq : Nat) (body : List Byte) : State :=
  if 4096 ≤ s.err.staged.length then
    let e := s.err
    ({ s with err := { e with lossDue := true, lossCount := e.lossCount + 1, lossRseq := if e.lossDue then e.lossRseq else rseq } }).incSat
      (ecKey BBOX_PEND) 16 16 1
  else s.stageOne kind body

/-- When space frees after a loss, one KIND 2 entry goes first. -/
def stageLoss (s : State) : State :=
  if s.err.lossDue ∧ s.err.staged.length < 4096 then
    ({ s with err := { s.err with lossDue := false, lossCount := 0, lossRseq := 0 } }).stageOne 2 (toLe 4 s.err.lossCount ++ toLe 4 s.err.lossRseq)
  else s

/-- A 0x8F or 0x82 record of the module's flash. -/
def flashRec (s : State) (cls reason : Nat) : State := s.raise cls (.module 0) reason none

/-- The journal keeps its newest 1,048,576 entries; the first overwrite after a clear sets WRAPPED. -/
def journal (s : State) (e : JEntry) : State :=
  let full := Nat.ble 1048576 s.err.bbox.length
  let s1 := { s with err := { s.err with bbox := (if full then s.err.bbox.drop 1 else s.err.bbox) ++ [e], wrapped := s.err.wrapped || full } }
  if full && !s.err.wrapped then s1.flashRec 0x8F 2 else s1

/-- An entry that holds the input-loss record. -/
def isLossEntry (e : JEntry) : Bool := e.kind == 1 && (match e.body[0]? with | some b => b.toNat == 0x78 | none => false)

/-- An entry that holds a record of severity engine. -/
def isEngineEntry (e : JEntry) : Bool := e.kind == 1 && (match e.body[1]? with | some f => f.toNat % 4 == 2 | none => false)

/-- Place of the staged entry that is written next: the oldest, and after input loss that record first (R447). -/
def nextStaged (s : State) : Nat :=
  if s.boot.off then (match s.err.staged.findIdx? isLossEntry with | some i => i | none => 0) else 0

/-- Counters or repair-map entries wait to be written, which go before black-box entries (R455); the commit of the input-loss record goes
before them. -/
def flashBehind (s : State) : Bool :=
  !(s.boot.off && s.err.staged.any isLossEntry) && (!s.flash.ctrDone || s.flash.rmapDone != s.flash.rmap)

/-- A flash event of class 0x82 (R485). -/
def flashEvent (s : State) (reason : Nat) : State := s.flashRec 0x82 reason

/-- Devices that leave service, with the record of `reason` for each, and the one record for none left (R453, R455). -/
def dropDevs (s : State) (ok0 ok1 : Bool) (reason : Nat) : State :=
  let d0 := s.flash.dev0 && ok0
  let d1 := s.flash.dev1 && ok1
  let s1 := if s.flash.dev0 && !ok0 then s.flashEvent reason else s
  let s2 := if s.flash.dev1 && !ok1 then s1.flashEvent reason else s1
  let gone := !d0 && !d1 && !s.flash.noDevLogged
  let s3 := if gone then s2.flashEvent 5 else s2
  { s3 with flash := { s3.flash with dev0 := d0, dev1 := d1, noDevLogged := s.flash.noDevLogged || gone } }

/-- Copies in which a black-box entry cannot be programmed leave service: class 0x8F reason 1 beside the 0x82 of the device (R448, R455). -/
def copyFail (s : State) (ok0 ok1 : Bool) : State :=
  let s1 := if s.flash.dev0 && !ok0 then s.flashRec 0x8F 1 else s
  let s2 := if s.flash.dev1 && !ok1 then s1.flashRec 0x8F 1 else s1
  s2.dropDevs ok0 ok1 4

/-- A staged entry is written to the copies in service, device 0 first, where it can be; with none, it is discarded (R455). The record of
an engine reset lets the restart begin. -/
def bboxCommit (s0 : State) (ok0 ok1 : Bool) : State :=
  match s0.err.staged[s0.nextStaged]? with
  | none => s0
  | some e =>
    let behind := (s0.flash.dev0 || s0.flash.dev1) && s0.flashBehind
    let s := if behind then s0 else s0.copyFail ok0 ok1
    if behind then s
    else if !s.flash.dev0 && !s.flash.dev1 then { s with err := { s.err with staged := s.err.staged.eraseIdx s.nextStaged } }.stageLoss
    else
      let s1 := ({ s with err := { s.err with staged := s.err.staged.eraseIdx s.nextStaged } }).journal { e with okA := s.flash.dev0, okB := s.flash.dev1 }
      let s2 := if isEngineEntry e && s1.boot.restartDue.isSome then { s1 with boot := { s1.boot with restartDue := some s1.now } } else s1
      s2.stageLoss

/-- The counters as they stand: BOOTSEQ, RSEQ, the LMS leaf index, and the records of each severity. -/
def ctrNow (s : State) : List Nat :=
  [s.flash.bootseq, s.flash.rseq, s.flash.lmsQ, s.fld (ecKey BBOX_CNT_CC) 0 16, s.fld (ecKey BBOX_CNT_CC) 16 16, s.fld (ecKey BBOX_CNT_ES) 0 16,
    s.fld (ecKey BBOX_CNT_ES) 16 16]

/-- Every counter that changed gets a new record in its journal (R456). -/
def ctrWrite (s : State) : State :=
  { s with flash := { s.flash with
      ctrDone := true, ctrs := List.zipWith (fun v l => if l.head? = some v then l else v :: l) s.ctrNow s.flash.ctrs } }

/-- Firmware, licences and the configuration set are written. -/
def keepStore (s : State) : State :=
  let f := s.flash
  { s with flash := { f with
      kept := { slotA := f.slotA, slotB := f.slotB, active := f.active, licences := f.licences, configSet := f.configSet } } }

/-- Every pending write of the flash is done. -/
def flashFlush (s : State) : State :=
  let t := s.ctrWrite.keepStore
  { t with flash := { t.flash with rmapDone := t.flash.rmap } }

/-- Every pending write of the flash is lost. -/
def flashBack (s : State) : State :=
  let f := s.flash
  { s with flash := { f with
      ctrDone := true, rmap := f.rmapDone, slotA := f.kept.slotA, slotB := f.kept.slotB, active := f.kept.active,
      licences := f.kept.licences, configSet := f.kept.configSet } }

/-- Every staged entry is committed, and with it what waits before it; with no device in service they are discarded (R455). -/
def commitStaged (s : State) : Nat → State
  | 0 => s
  | n + 1 => State.commitStaged ((if s.flash.dev0 || s.flash.dev1 then s.flashFlush else s).bboxCommit true true) n

/-! ### Destinations and severities (R423-R431) -/

/-- A message goes to every collector (R425). -/
def emitAll (s : State) (f : Nat → Out) : State := (List.range s.err.collectors).foldl (fun t i => t.emit (f i)) s

/-- A record waits for the management link, as datagram and as syslog: the newest 1,024 are held (R425). -/
def holdRec (e : Err) (now : Nat) (r : Rec) : Err :=
  let n := e.unsent.length + 1 - 1024
  { e with
      unsent := (e.unsent ++ [r]).drop n, ages := (e.ages ++ [now]).drop n,
      unlogged := (e.unlogged ++ [r]).drop (e.unlogged.length + 1 - 1024) }

/-- The record goes to the collectors (R425), if there are any: at once as syslog while the link is up, and held for a datagram. -/
def toMgmt (s : State) (r : Rec) : State :=
  let e := s.err
  if e.collectors = 0 then s
  else if e.mgmtUp then
    ({ s with err := { e with unsent := e.unsent ++ [r], ages := e.ages ++ [s.now] } } : State).emitAll fun i => .syslog i r.syslog
  else { s with err := holdRec e s.now r }

/-- BBOX_CNT_CC and BBOX_CNT_ES. -/
def countSev (s : State) (sev : Nat) : State :=
  s.incSat (ecKey (if sev < 2 then BBOX_CNT_CC else BBOX_CNT_ES)) (16 * (sev % 2)) 16 1

/-- A start is in progress. -/
def starting (s : State) : Bool := s.fld (ecKey BOOT_STAT) 4 1 == 0

/-- A record of severity engine (R431): fault notices, and the restart once it is committed or 50 ms after; the third within
10 minutes makes it a cold start. A record during a start, or with a restart already due, starts nothing of its own (R430) and counts. -/
def engineReset (s : State) (r : Rec) : State :=
  let recs := (s.boot.engRecs.filter fun t => decide (s.now ≤ t + 600000000000)) ++ [s.now]
  let cold := Nat.ble 3 recs.length
  let s0 := { s with boot := { s.boot with engRecs := recs, restartCold := s.boot.restartCold || (s.boot.restartDue.isSome && cold) } }
  if s.starting || s.boot.restartDue.isSome || s.boot.off then s0
  else
    let s1 := s0.faultNotices
    { s1 with boot := { s1.boot with restartDue := some (s.now + 50000000), restartCls := r.cls, restartCold := cold } }

/-- The first record on its way reaches the engine controller: RSEQ, black box, management Ethernet, event rings, counters,
and the action of its severity. -/
def recordArrive (s : State) : State :=
  match firstRec s.err.recQ with
  | none => s
  | some r0 =>
    let r := { r0 with rseq := s.flash.rseq }
    let s1 := { s with err := { s.err with recQ := s.err.recQ.erase r0, arrived := r :: s.err.arrived }, flash := { s.flash with rseq := s.flash.rseq % 0xFFFFFFFF + 1, ctrDone := false } }
    let s2 := (((s1.stage 1 r.rseq r.bytes).toMgmt r).event 1 r.bytes).countSev r.sev
    if isEngine r then s2.engineReset r else s2

/-! ### Management Ethernet (R425-R427) -/

/-- A datagram with the oldest records, 16 at most. -/
def sendRecs (s : State) : State :=
  let e := s.err
  ({ s with err := { e with unsent := e.unsent.drop 16, ages := e.ages.drop 16 } } : State).emitAll fun i =>
    .datagram i (datagramBytes (e.unsent.take 16))

/-- A datagram leaves when 16 records are held or the oldest is 1 ms old. -/
def datagram (s : State) : State :=
  let e := s.err
  if e.mgmtUp && !e.unsent.isEmpty && (Nat.ble 16 e.unsent.length || Nat.ble ((e.ages.head?).getD 0 + 1000000) s.now) then s.sendRecs
  else s

/-- Held records leave in RSEQ order. -/
def sendHeld (s : State) : Nat → State
  | 0 => s
  | n + 1 =>
    if s.err.unsent.isEmpty then s else State.sendHeld s.sendRecs n

/-- The link returns: the records held for it go out, as syslog those whose message waited for it. -/
def mgmtUp (s : State) : State :=
  if s.err.mgmtUp then s
  else
    let s0 := { s with err := { s.err with mgmtUp := true, unlogged := [] } }
    let s1 := s.err.unlogged.foldl (fun t r => t.emitAll fun i => .syslog i r.syslog) s0
    s1.sendHeld (s.err.unsent.length + 1)

/-! ### Reading the journal (R449) -/

/-- The committed entry with a JSEQ that a copy in service holds, or that both copies hold with a wrong CRC. -/
def bboxEntry (s : State) (j : Nat) : Option JEntry :=
  s.err.bbox.find? fun e => e.jseq == j && ((e.okA && s.flash.dev0) || (e.okB && s.flash.dev1) || e.raw.isSome)

/-- The 64 bytes of an entry as stored (R446, R449). -/
def jBytes (e : JEntry) : List Byte :=
  let b := toLe 4 e.jseq ++ toLe 4 e.kind ++ e.body ++ List.replicate (48 - e.body.length) 0 ++ toLe 4 0
  match e.raw with
  | some r => (r ++ List.replicate 64 0).take 64
  | none => b ++ toLe 4 (crc32c b)

/-! ### Targeted tests (R434-R436) -/

/-- Core, bank-engine and convert tests run once the cell is unassigned or its panel is halted. -/
def testFree (s : State) (c unit : Nat) : Bool :=
  unit < 2 || (match s.job? (s.jobOf c) with | some j => j.state == 5 | none => true)

/-- The first queued test of a cell starts when its unit is free; a line march holds the cell. -/
def testStart (s : State) (c : Nat) : State :=
  let x := s.cell c
  match x.tests, x.running with
  | t :: rest, none =>
    if s.testFree c t.unit then s.setCell c { x with tests := rest, running := some t } else s
  | _, _ => s

/-- RSEQ of the record that triggered a test; a withheld one has none, and what stands in its place is a free value (log 40). -/
def triggerRseq (s : State) (sn : Nat) : Nat := if sn = 0 then bits (Config.freeWord s.free).toNat 0 32 else s.rseqOf sn

/-- Detail of a verdict record (R518). -/
def verdictDetail (s : State) (t : TTest) (pass : Bool) : Nat :=
  s.triggerRseq t.sn + (if pass then 1 else 2) * 2 ^ 32 + t.unit * 2 ^ 36

/-- A targeted test ends (R436). -/
def testVerdict (s : State) (c : Nat) (pass : Bool) : State :=
  let x := s.cell c
  match x.running with
  | none => s
  | some t =>
    let s1 := s.setCell c { x with running := none }
    let s2 := (s1.setReg (cellKey c ERR_TT) (BitVec.ofNat 64 (2 + (if pass then 1 else 2) * 2 ^ 2 + t.unit * 2 ^ 4))).incSatUn
      (cellKey c ERR_TT_CNT) (if pass then 0 else 16) 16 1
    let cls := if t.unit = 0 ∨ t.unit = 5 then 0x18 else 0x2C
    let s3 := s2.fresh.raiseSev (if pass then 0 else 1) cls (.cell c 0) (s2.verdictDetail t pass) (if pass then none else some c)
    if pass then s3 else s3.cellFail c 2 cls

/-- A half-block test ends: a record, and nothing else (R436). -/
def halfVerdict (s : State) (d n : Nat) (pass : Bool) : State :=
  let x := s.mc d n
  match x.tests with
  | [] => s
  | q :: rest => (s.setMc d n { x with tests := rest }).raise 0x4B (.dieUnit d n) (s.rseqOf q + (if pass then 1 else 2) * 2 ^ 32) none

/-! ### Rotating self-test and coverage (R437-R440) -/

def stepEngine (s : State) : Nat := (s.reg (ecKey STEP_ENGINE)).toNat

/-- The time basis applies (R437). -/
def timeBasis (s : State) : Bool :=
  (s.job? s.paceJob).isNone || decide ((s.reg (ecKey STEP_LAST)).toNat + 60000000000 < s.facility)

/-- A cell meets its coverage goal. -/
def goalMet (s : State) (c : Nat) : Bool :=
  decide ((s.stepEngine + 2 ^ 64 - (s.reg (cellKey c ERR_RT_STEP)).toNat) % 2 ^ 64 < 64) ||
  (s.timeBasis && decide (s.facility ≤ (s.reg (cellKey c ERR_RT_TIME)).toNat + 60000000000))

/-- Logical cells past their goal, by y and then x (holes left out: log 17). -/
def overdue (s : State) : List (Nat × Nat) :=
  if !s.canvasValid then []
  else (List.range s.canvasH).flatMap fun y => (List.range s.canvasW).filterMap fun x =>
    match s.physicalOf x y with
    | some c => if s.isHole c || s.goalMet c then none else some (x, y)
    | none => none

/-- Class 0x2F, once per 64 counted declarations or 60 s. -/
def coverageCheck (s : State) : State :=
  let due := if s.timeBasis then decide (s.boot.covLast + 60000000000 ≤ s.now)
    else decide (s.boot.covStep.toNat + 64 ≤ s.stepEngine)
  if !due then s
  else
    let s1 := { s with boot := { s.boot with covLast := s.now, covStep := BitVec.ofNat 64 s.stepEngine } }
    match s.overdue with
    | [] => s1
    | (x, y) :: rest => s1.raise 0x2F (.engine 0) (min (rest.length + 1) 0xFFFF + x * 2 ^ 16 + y * 2 ^ 24) none

/-- A cell passes its rotating self-test. -/
def selfPass (s : State) (c : Nat) : State :=
  (s.setReg (cellKey c ERR_RT_STEP) (s.reg (ecKey STEP_ENGINE))).setReg (cellKey c ERR_RT_TIME) (BitVec.ofNat 64 s.facility)

/-- Unit of ERR_TT that R434 tests after class 0x2D names unit u of R439. -/
def unitOf (u : Nat) : Nat := if u = 0 then 2 else if u = 1 then 3 else if u = 2 then 5 else 4

/-- A failing self-test (R439): class 0x2D, the halt, and the targeted test. -/
def selfFail (s : State) (c u : Nat) : State := (s.queueTest c (unitOf u) s.err.nextSn 0).raiseAt 0x2D c (u % 4)

/-- A spare of a die in the canvas. -/
def isSpare (s : State) (c : Nat) : Bool :=
  s.canvasValid && s.dieState (cellDie c) == 1 && (s.logicalOf c).isNone && !s.boot.disabled.contains c && decide (c < s.part.dies * 2304)

/-- Spares by ascending die, py and px, and unassigned cells by ascending y and x: the orders in which firmware tests them (R438). -/
def spareCells (s : State) : List Nat := (List.range (s.part.dies * 2304)).filter s.isSpare
def freeCells (s : State) : List Nat :=
  (List.range s.canvasH).flatMap fun y => (List.range s.canvasW).filterMap fun x =>
    match s.physicalOf x y with
    | some c => if s.isHole c || (s.panelAt x y).isSome then none else some c
    | none => none

/-- A cell that firmware can test now under the time basis: powered, primed, and not tested for 60 s. -/
def timeDue (s : State) (c : Nat) : Bool :=
  s.primed c && s.coreGate (cellRegion c) && ((s.cell c).testedAt == 0 || Nat.ble ((s.cell c).testedAt + 60000000000) s.now)

/-- Whether a cell of the list that is tested in its order is due for firmware's test: its step of 64; under the time basis, the first of
the list that was not tested for 60 s. -/
def testDue (s : State) (cs : List Nat) (c x y d : Nat) : Bool :=
  if s.timeBasis then cs.find? s.timeDue == some c
  else decide ((s.stepEngine + 64 * 64 - x - y - d) % 64 = 0) && decide (s.reg (cellKey c ERR_RT_STEP) ≠ s.reg (ecKey STEP_ENGINE))

/-- The cell has been tested now. -/
def noteTested (s : State) (c : Nat) : State := s.setCell c { s.cell c with testedAt := s.now + 1 }

/-- A firmware test fails (R439): the record, and the core that ran it stops. -/
def firmwareFail (s : State) (c u : Nat) : State :=
  (s.selfFail c u).stopCore c (if u = 1 then .tail else .head) (if s.haltable c then 2 else 3)

/-- Firmware tests an unassigned cell, or a spare by physical-mode packets (R438); a spare that fails is disabled with a soft fuse (R47);
one that no packet reaches stays untested. -/
def firmwareTest (s : State) (c : Nat) (failed : Option Nat) : State :=
  if s.isSpare c then
    if !s.testDue s.spareCells c (cellPx c) (cellPy c) (cellDie c) then s
    else match (s.noteTested c).carryPhys c with
      | (t, _ + 1) => t
      | (t, 0) => match failed with
        | none => t.selfPass c
        | some u =>
          let s1 := t.firmwareFail c u
          ({ s1 with boot := { s1.boot with disabled := s1.boot.disabled ++ [c] } }).confirmFuse 1 2 (cellDie c) (locCell c)
  else match s.logicalOf c with
    | none => s
    | some (x, y) =>
      if s.isHole c || (s.panelAt x y).isSome || !s.testDue s.freeCells c x y 0 then s
      else match failed with
        | none => (s.noteTested c).selfPass c
        | some u => (s.noteTested c).firmwareFail c u

end State

/-! ### Commands -/

/-- ERROR_RECORD_ARRIVE (R423, R425, R428, R431). -/
def execErrorRecordArrive (s : State) : Res := .next s.recordArrive

/-- BBOX_COMMIT (R447, R448). -/
def execBboxCommit (ok0 ok1 : Bool) (s : State) : Res := .next (s.bboxCommit ok0 ok1)

/-- UDP_DATAGRAM_SEND (R426). -/
def execUdpDatagramSend (s : State) : Res := .next s.datagram

/-- MGMT_LINK_UP (R425). -/
def execMgmtLinkUp (s : State) : Res := .next s.mgmtUp

/-- MGMT_LINK_DOWN (R425). -/
def execMgmtLinkDown (s : State) : Res := .next { s with err := { s.err with mgmtUp := false } }

/-- TARGETED_TEST_START (R434, R435). -/
def execTargetedTestStart (c : Nat) (s : State) : Res := .next (s.testStart c)

/-- TARGETED_TEST_VERDICT (R436): `c` is a cell, or 18432 + 12 * die + device for the half-block test of a controller. -/
def execTargetedTestVerdict (c : Nat) (pass : Bool) (s : State) : Res :=
  .next (if c < 18432 then s.testVerdict c pass else s.halfVerdict ((c - 18432) / 12) ((c - 18432) % 12) pass)

/-- FIRMWARE_SELF_TEST (R438, R439, R47). -/
def execFirmwareSelfTest (c : Nat) (failed : Option Nat) (s : State) : Res := .next (s.firmwareTest c failed)

/-- COVERAGE_CHECK (R437, R440). -/
def execCoverageCheck (s : State) : Res := .next s.coverageCheck

/-- BBOX_SELECT (R449): the data registers show the entry with this JSEQ while it is held. -/
def execBboxSelect (j : Word) (s : State) : Res := .next (s.setReg (ecKey BBOX_SEL) (BitVec.ofNat 64 j.toNat))

end Sys2Proof.Machine
end

