-- ==== Sys2Proof/Machine/Boot.lean ====
section
/-! DEFINITION. Bring-up (R453-R470, R506-R508): what a start keeps and resets, the ten phases of cold start and warm restart, the
fuse merge and the canvas (R58, R59, R64-R67), GDDR7 training and priming at a start (R271, R272), failover and watchdogs. -/

namespace Sys2Proof.Machine

/-- Die that runs the standby controller (R457). -/
def Part.standby : Part → Nat
  | .dz2200 => 1 | _ => 3

/-- Die columns and rows (R44). -/
def Part.cols : Part → Nat
  | .dz8200 => 4 | _ => 2
def Part.rows : Part → Nat
  | .dz2200 => 1 | _ => 2

/-- Limit of a phase of a cold start in µs (R459, R460). -/
def coldLimit (p : Part) (n : Nat) : Nat :=
  if n = 3 then p.dies * 200000
  else ([300000, 400000, 0, 100000, 10000, 1000000, 3000000, 300000, 100000, 10000][n - 1]?).getD 0

/-- Limit of a phase of a warm restart in µs; after a stop phases 3 and 7 have the cold start's (R469). -/
def warmLimit (p : Part) (stop : Bool) (n : Nat) : Nat :=
  if stop && (n == 3 || n == 7) then coldLimit p n
  else ([350000, 300000, 150000, 50000, 10000, 300000, 1000000, 200000, 100000, 10000][n - 1]?).getD 0

/-- Register keys a start leaves alone: the counters of flash (R454), the journal's numbering, the measured input; an engine reset
also keeps the PCIE blocks (R335), the timebase (R390), the converters, and the number of canvases published (log 18). -/
def keepsKey (warm : Bool) (k : Nat) : Bool :=
  let o := k % 0x1000000
  let onDie := 1 ≤ k / 0x1000000 && k / 0x1000000 < 16
  [ecKey BBOX_CNT_CC, ecKey BBOX_CNT_ES, ecKey BBOX_NEXT].contains k ||
  (onDie && (o == PWR_IN || o == PWR_BLADE)) ||
  (warm && ((onDie && (o / 0x10000 == PCIE_ID / 0x10000 || o == PWR_CONV || o == PWR_PHASE || o == PWR_DIE_I || o == PWR_FIELD_V)) ||
    (k < 0x1000000 && o / 0x10000 == TIME_NOW / 0x10000) || k == ecKey BOOT_CANVAS_GEN))

/-- Bytes of a repair-map entry (R55). -/
def RmapEntry.bytes (e : RmapEntry) : List Byte :=
  let b := toLe 4 e.word0 ++ toLe 4 e.word1 ++ toLe 4 e.firstS
  b ++ toLe 4 (crc32c b)

namespace State

def phase (s : State) : Nat := s.fld (ecKey BOOT_STAT) 0 4
def ready (s : State) : Bool := s.fld (ecKey BOOT_STAT) 4 1 == 1

/-- A phase of a start that runs: the engine is supplied, out of module reset, and not in recovery. -/
def inPhase (s : State) (p : Nat) : Bool :=
  s.phase == p && !s.boot.off && !s.boot.modRst && s.fld (ecKey BOOT_STAT) 13 1 == 0

def warm (s : State) : Bool := s.boot.kind != 1

def setBoot (s : State) (b : Boot) : State := { s with boot := b }

/-- The duration of phase p is reported, in µs, saturating (R461). -/
def phaseTime (s : State) (p : Nat) : State :=
  s.setReg (ecKey (BOOT_PTIME + 4 * (p - 1))) (BitVec.ofNat 64 (min ((s.now - s.boot.phaseStart) / 1000) 0xFFFFFFFF))

/-- The next phase begins. -/
def startPhase (s : State) (p : Nat) : State :=
  (s.setFld (ecKey BOOT_STAT) 0 4 p).setBoot { s.boot with phaseStart := s.now, nextDie := 0 }

/-- Phase p ends and the next begins. -/
def endPhase (s : State) (p : Nat) : State := (s.phaseTime p).startPhase (p + 1)

/-! ### What a start resets -/

/-- Regions at the beginning of a start: an engine reset turns the compute rails off and leaves router rails as they are. -/
def startRegions (s : State) (warm : Bool) : SMap Region :=
  if warm then s.regions.map fun e => (e.1, { Region.reset with st := if s.routerGate e.1 then 1 else 0 }) else []

/-- Dies at the beginning of a start. -/
def startDies (s : State) (warm : Bool) : SMap Die :=
  s.dies.map fun e => (e.1, { Die.reset with supplied := warm && e.2.supplied, ctlOk := e.2.ctlOk })

/-- Host ports at the beginning of a start: an engine reset keeps them, a cold start takes their power away (R335, R459). -/
def startPorts (s : State) (warm : Bool) : SMap HPort :=
  if warm then s.hports else s.hports.map fun e => (e.1, { HPort.reset with perst := e.2.perst })

/-- Bring-up at the beginning of a start. -/
def startBoot (s : State) (warm : Bool) (kind : Nat) : Boot :=
  let b := s.boot
  { Boot.reset with
    kind := kind, phaseStart := s.now, startAt := s.now, excluded := b.excluded, liveList := b.liveList,
    beat := (if warm then b.beat else none), standbyAt := (if warm then b.standbyAt else none),
    engRecs := (if warm then b.engRecs else []), restartCls := b.restartCls, covLast := s.now,
    suspectX := if warm then b.failedX ++ b.wires.map (fun w => (w.1, w.2.1, w.2.2.1)) else [] }

/-- Flash at the beginning of a start: pending writes are done in the devices in service; with none they were discarded (R455). -/
def startFlash (s : State) : Flash :=
  if s.flash.dev0 || s.flash.dev1 then s.flashFlush.flash else s.flashBack.flash

/-- Everything a start resets: registers, cells, jobs, the mesh, the fabric and power control; flash, the black box, records on
their way and the pins stay (R431, R448, R456). -/
def wipe (s : State) (warm : Bool) (kind : Nat) : State :=
  let b := s.band
  { s with
    regs := s.regs.filter fun e => keepsKey warm e.1,
    cells := [], regions := s.startRegions warm, dies := s.startDies warm, mcs := [],
    pend13 := [], resp := [], net := [], panels := [], jobs := [], load := none, ctxs := [], tags := [], fabQ := [], fabWait := [], fports := [],
    rings := (if warm then s.rings else []), hports := s.startPorts warm, outReads := [],
    band := { Band.reset with mode := (if s.part = .dz8200 then 1 else 0), keys := b.keys, lastAvg := b.lastAvg, coolantOk := b.coolantOk, coolantSince := b.coolantSince, heard := b.heard },
    time := (if warm then s.time else { Time.reset with base := -(s.now : Int) }),
    boot := s.startBoot warm kind,
    flash := { s.startFlash with dev0 := true, dev1 := true, noDevLogged := false, licOp := 0 },
    err := { s.err with haltQ := [], rates := [] } }

/-- BOOT_STAT and BOOT_CAUSE of a start that begins: the engine controller's die, FAILOVER, and the slot that runs stay. -/
def startStat (s : State) (stat : Nat) (warm : Bool) (cause cls : Nat) : State :=
  (s.setReg (ecKey BOOT_STAT) (BitVec.ofNat 64 (1 + (if warm then 2 ^ 6 else 0) + bits stat 7 6 * 2 ^ 7))).setReg (ecKey BOOT_CAUSE)
    (BitVec.ofNat 64 (cause + cls % 256 * 2 ^ 8))

/-- A cold start begins (R459). -/
def beginCold (s : State) (cause cls : Nat) : State :=
  (s.wipe false 1).startStat (s.reg (ecKey BOOT_STAT)).toNat false cause cls

/-- A warm restart begins (R335, R469): rings stop and the hosts are told. -/
def beginWarm (s : State) (kind cls : Nat) : State :=
  let s1 := s.part.ports.foldl (fun t p => t.stopRings p) s
  let s2 := (s1.event 7 (toLe 8 s1.facility)).raiseAll 259
  (s2.wipe true kind).startStat (s.reg (ecKey BOOT_STAT)).toNat true 2 cls

/-! ### Firmware (R453, R473, R474) -/

/-- The LIC_RES reason for which a signed object is not valid, the lowest that holds; 0 where it is valid (R471, R472, R484). -/
def objReason (s : State) (o : SignedObj) (otype : Nat) : Nat :=
  let big := if otype = 1 then 16 * 2 ^ 20 - 2988 else 16384
  if !o.magicOk || o.otype != otype || o.body.length % 16 != 0 || decide (big < o.body.length) || (otype != 1 && o.svn != 0) ||
      (otype != 3 && o.nonce != 0) then 1
  else if !o.ecdsaOk then 2
  else if !o.lmsOk then 3
  else if decide (3 < o.keyset) || bit s.flash.revoke o.keyset || !((s.flash.keysOk[o.keyset]?).getD false) then 4
  else if decide (o.serial ≠ Config.serial) && !(otype == 1 && o.serial == 0) then 5
  else if otype = 1 ∧ o.svn < s.flash.svnMin then 7
  else 0

/-- Header and body of a signed object (R471). -/
def objBytes (o : SignedObj) : List Byte :=
  toLe 4 0x4F535A44 ++ toLe 2 o.otype ++ toLe 2 o.keyset ++ toLe 4 o.body.length ++ toLe 4 o.svn ++ toLe 8 o.serial.toNat ++
    toLe 16 o.nonce.toNat ++ toLe 4 1 ++ List.replicate 20 0 ++ o.body

def slotOf (f : Flash) (n : Nat) : FwSlot := if n = 0 then f.slotA else f.slotB
def setSlot (f : Flash) (n : Nat) (x : FwSlot) : Flash := if n = 0 then { f with slotA := x } else { f with slotB := x }

/-- The next pending write completes in every device in service, device 0 first: the counters, else the first repair-map entry that the
devices hold otherwise, else, once no black-box entry waits, licences, firmware and the configuration set (R455); a device in which it
failed leaves service, and with none the write is discarded. Black-box entries complete by BBOX_COMMIT. -/
def flashWrite (s : State) (ok0 ok1 : Bool) : State :=
  let s1 := s.dropDevs ok0 ok1 4
  let f := s1.flash
  if !f.dev0 && !f.dev1 then s1
  else if !f.ctrDone then s1.ctrWrite
  else match (List.range (max f.rmap.length f.rmapDone.length)).find? fun i => f.rmap[i]? != f.rmapDone[i]? with
    | some i => { s1 with flash := { f with rmapDone := f.rmapDone.take i ++ ((f.rmap.drop i).take 1) ++ f.rmapDone.drop (i + 1) } }
    | none => if s1.err.staged.isEmpty then s1.keepStore else s1

/-- Candidate i of R473: its slot and device. -/
def candSlot (active i : Nat) : Nat := if i < 2 then active else 1 - active
def candDev (i : Nat) : Nat := i % 2

/-- Reason for which candidate i is rejected. -/
def candReason (s : State) (objs : List SignedObj) (i : Nat) : Nat :=
  let dev := if candDev i = 0 then s.flash.dev0 else s.flash.dev1
  match objs[i]? with
  | some o => if dev then s.objReason o 1 else 1
  | none => 1

/-- What the ROM found of one slot: which copies verify, and the object. -/
def slotFound (s : State) (objs : List SignedObj) (n : Nat) : FwSlot :=
  let i := if n = s.flash.active then 0 else 2
  let a := s.candReason objs i == 0
  let b := s.candReason objs (i + 1) == 0
  match objs[if a then i else i + 1]? with
  | some o => { okA := a, okB := b, svn := o.svn, body := objBytes o }
  | none => { okA := false, okB := false, svn := 0, body := [] }

/-- Every die's host port has power: in recovery the host ports train (R474). -/
def recoveryPorts (s : State) : State :=
  s.part.ports.foldl (fun t p => t.setHport p { t.hport p with powered := true }) s

/-- A device is usable by its SFDP tables (R453). -/
def Sfdp.usable (t : Sfdp) : Bool := t.answers && t.addr4 && t.read144 && t.erase4k && t.erase64k

/-- The SFDP check of both devices before they are used (R453). -/
def sfdpCheck (s : State) (ts : List Sfdp) : State :=
  let ok := fun i => match ts[i]? with | some t => Sfdp.usable t | none => false
  s.dropDevs (ok 0) (ok 1) 3

/-- The collectors of the configuration set, where it is readable (R425, R454). -/
def readCollectors (s : State) (ok : Bool) : State :=
  { s with err := { s.err with collectors := if ok then min 4 (Config.siteCollectors s.flash.configSet) else 0 } }

/-- Phase 1 (R472-R474): the key block is read, with the key sets whose digest is the ROM's; candidates in order, the first valid one
runs. -/
def firmwareVerify (s : State) (sfdp : List Sfdp) (keysOk : List Bool) (objs : List SignedObj) : State :=
  if !s.inPhase 1 then s
  else
    let s0 := { s with flash := { s.flash with keysOk := keysOk } }.sfdpCheck sfdp
    let act := s0.flash.active
    let good := (List.range 4).find? fun i => s0.candReason objs i == 0
    let tried := match good with | some i => List.range i | none => List.range 4
    let s1 := tried.foldl (fun t i => t.raise 0x80 (.engine 0) (s0.candReason objs i + candSlot act i * 2 ^ 8 + candDev i * 2 ^ 9) none) s0
    let f := setSlot (setSlot s1.flash 0 (s0.slotFound objs 0)) 1 (s0.slotFound objs 1)
    match good with
    | some i =>
      let n := candSlot act i
      let s2 := ({ s1 with flash := { f with active := n } } : State).keepStore
      ((((s2.setFld (ecKey BOOT_STAT) 11 1 n).setFld (ecKey BOOT_STAT) 12 1 (candDev i)).setReg (ecKey BOOT_FW_SVN)
        (BitVec.ofNat 64 (slotOf f n).svn))).endPhase 1
    | none => (((s1.readCollectors s1.flash.cfgOk).raise 0x81 (.engine 0) 0 none).setFld (ecKey BOOT_STAT) 13 1 1).recoveryPorts

/-! ### Phase 2 (R454, R456, R476) -/

def largest (l : List Nat) : Option Nat := l.foldl (fun a v => match a with | some b => some (max b v) | none => some v) none

/-- A set of two copies, each verifying or not: the record, and whether a copy could be used (R454). -/
def readSet (s : State) (ok : List Bool) : State × Bool :=
  let a := s.flash.dev0 && (ok[0]?).getD false
  let b := s.flash.dev1 && (ok[1]?).getD false
  if !a && !b then (s.flashEvent 2, false)
  else if (s.flash.dev0 && !a) || (s.flash.dev1 && !b) then (s.flashEvent 1, true)
  else (s, true)

/-- The rack keys of the configuration set are installed; a key it does not hold stays as a service command left it (R384, R454). -/
def siteKeys (s : State) : State :=
  let pick := fun i => match Config.siteRackKey s.flash.configSet i with
    | some k => some k
    | none => (s.band.keys[i]?).getD none
  s.setBand { s.band with keys := [pick 0, pick 1] }

/-- Registers and keys that the configuration set gives (R311, R383, R384, R387). -/
def applyConfig (s0 : State) : State :=
  let s := s0.siteKeys
  let c := s.flash.configSet
  let s1 := (s.setReg (ecKey BAND_BUS_CFG) (BitVec.ofNat 64 (Config.siteNode c % 32 + (if Config.siteBusEn c then 2 ^ 5 else 0)))).setReg
    (ecKey RAMP_ORPHAN) (BitVec.ofNat 64 (Config.siteOrphanW c % 2 ^ 24))
  (List.range (3 * s.part.dies)).foldl (fun t i =>
    t.setReg (fabKey (i / 3) (i % 3) FAB_PMAC) (BitVec.ofNat 64 (Config.siteMac c i).toNat)) s1

/-- The repair map as read (R56, R59): entries of reserved TYPE and entries unreadable in both copies are logged and ignored. -/
def readRmap (s : State) (bad : List (Nat × Nat)) : State :=
  let n := fun i => match bad.find? fun b => b.1 == i with | some b => min b.2 2 | none => 0
  let es := s.flash.rmap.zipIdx.map fun e => { e.1 with bad := if n e.2 = 2 ∨ e.1.bad = 2 then 2 else 0 }
  es.zipIdx.foldl (fun t e =>
    if e.1.bad = 2 then t.raise 0x89 (.engine 0) (e.2 * 2 ^ 32) none
    else if !e.1.live then t.raise 0x89 (.engine 0) (e.1.word0 + e.2 * 2 ^ 32 + 2 ^ 48) none
    else t) { s with flash := { s.flash with rmap := es, rmapDone := es } }

/-- LIC_STAT features and count from the licences held (R476, R477). -/
def licFeatures (s : State) : Nat := (s.flash.licences.filter (·.valid)).foldl (fun a l => a ||| l.features % 8) 0

def licCount (s : State) : State :=
  s.setFld (ecKey LIC_STAT) 4 5 (s.flash.licences.filter (·.valid)).length

/-- Stored licences verify again; one that fails is ignored (R476). -/
def readLicences (s : State) (bad : List (Nat × Nat)) : State :=
  let why := fun i => (bad.find? fun b => b.1 == i)
  let ls := s.flash.licences.zipIdx.map fun l => { l.1 with valid := (why l.2).isNone }
  let s1 := { s with flash := { s.flash with licences := ls } }
  let s2 := s.flash.licences.zipIdx.foldl (fun t l =>
    match why l.2 with | some b => t.raise 0x83 (.engine 0) (b.2 % 256) none | none => t) s1
  (s2.setReg (ecKey LIC_STAT) (BitVec.ofNat 64 s2.licFeatures)).licCount

/-- The largest value in a valid record of counter i's journal (R456). -/
def ctrRead (s : State) (bad : List (Nat × Nat)) (i : Nat) : Option Nat :=
  largest ((((s.flash.ctrs[i]?).getD []).zipIdx.filter fun e => !bad.contains (i, e.2)).map (·.1))

/-- BBOX_CNT_CC and BBOX_CNT_ES as their journals hold them; a count without a valid record keeps its value. -/
def readBboxCnt (s : State) (bad : List (Nat × Nat)) : State :=
  (List.range 4).foldl (fun t i => match s.ctrRead bad (3 + i) with
    | some v => t.setFld (ecKey (if i < 2 then BBOX_CNT_CC else BBOX_CNT_ES)) (16 * (i % 2)) 16 v
    | none => t) s

/-- Counters as read: the largest valid value of each, BOOTSEQ then incremented and written (R456); where no record is valid BOOTSEQ and
RSEQ are free values (log 3), and the LMS index is exhausted (R480). -/
def readCounters (s : State) (r : FlashRead) : State :=
  let w := (Config.freeWord s.free).toNat
  let seq := (s.ctrRead r.ctrBad 0).getD w
  let rq := (s.ctrRead r.ctrBad 1).getD (w / 2 ^ 24)
  let s1 := if (s.ctrRead r.ctrBad 0).isNone || (s.ctrRead r.ctrBad 1).isNone then s.fresh else s
  let s2 := { s1 with flash := { s1.flash with
    bootseq := (seq + 1) % 2 ^ 24, rseq := (rq + 0xFFFFFFFE) % 0xFFFFFFFF + 1, lmsQ := (s.ctrRead r.ctrBad 2).getD 1048576 } }
  ((s2.readBboxCnt r.ctrBad).ctrWrite).setReg (ecKey BOOT_SEQ) (BitVec.ofNat 64 ((seq + 1) % 2 ^ 24))

/-- Whether the copies of device 0 and device 1 hold a thing after the good one of a device in service was copied to the other (R448, R473); a
device out of service keeps what it holds. -/
def copied (f : Flash) (a b : Bool) : Bool × Bool :=
  let got := (a && f.dev0) || (b && f.dev1)
  (a || (f.dev0 && got), b || (f.dev1 && got))

/-- A black-box entry after the comparison at a start: `bad` names copies that fail their CRC. Where both do, what stands there stays
(R448, R449). -/
def entryRead (f : Flash) (bad : List (Nat × Nat × List Byte)) (e : JEntry) : JEntry :=
  let x := match bad.find? fun b => b.1 == e.jseq with | some b => b.2 | none => (0, [])
  let c := copied f (e.okA && !bit x.1 0) (e.okB && !bit x.1 1)
  { e with okA := c.1, okB := c.2, raw := if !c.1 && !c.2 && (e.okA || e.okB) then some x.2 else e.raw }

/-- Both copies of a firmware slot hold what the good one held, and the journal's copies agree (R448, R473). -/
def repairCopies (s : State) (bad : List (Nat × Nat × List Byte)) : State :=
  let fix := fun (x : FwSlot) => { x with okA := (copied s.flash x.okA x.okB).1, okB := (copied s.flash x.okA x.okB).2 }
  { s with
    flash := { s.flash with slotA := fix s.flash.slotA, slotB := fix s.flash.slotB }
    err := { s.err with bbox := s.err.bbox.map (entryRead s.flash bad) } }

/-- The calibration set: read again at a cold start and after a watchdog's reset (R456, R458), and its fault in BOOT_STAT. -/
def configCal (s : State) (r : FlashRead) : State :=
  let calNow := !s.warm || s.boot.restartCls == 0x86
  let (s5, cal) := if calNow then s.readSet r.calOk else (s, s.flash.calOk)
  ({ s5 with flash := { s5.flash with calOk := cal } }).setFld (ecKey BOOT_STAT) 14 1 (if cal then 0 else 1)

/-- The configuration set: read, and applied where readable. -/
def configSets (s : State) (r : FlashRead) : State :=
  let (s2, cfg) := s.readSet r.cfgOk
  let s3 := { s2 with flash := { s2.flash with cfgOk := cfg } }
  ((if cfg then s3.applyConfig else s3).readCollectors cfg).configCal r

/-- The work of phase 2 is done: a fresh service nonce is drawn (R478). -/
def configDone (s : State) : State :=
  (({ s with flash := { s.flash with nonces := s.flash.nonces + 1 } } : State).keepStore.phaseTime 2).setBoot { s.boot with cfgDone := true }

/-- Phase 2. Its end waits for the first die's power (R506). A warm restart checks the SFDP tables here (R453). -/
def configRead (s : State) (r : FlashRead) : State :=
  if !s.inPhase 2 || s.boot.cfgDone then s
  else
    let s0 := if s.warm then s.sfdpCheck r.sfdp else s
    (((((s0.readCounters r).configSets r).readRmap r.rmapBad).readLicences r.licBad).repairCopies r.bboxBad).configDone

/-! ### Exclusion (R64, R457, R458) -/

/-- The host port and the Xildo ports of an excluded die are out of service (R66). -/
def dieUnitsOut (s : State) (d : Nat) : State :=
  let s1 := s.part.ports.foldl (fun t p =>
    if portDie p = d then t.setHport p { HPort.reset with perst := (t.hport p).perst } else t) s
  (List.range 3).foldl (fun t p => t.setPstate d p 6) s1

/-- A die is excluded (R64): class 0x8A; its ports go out of service; the standby takes over from a controller that goes with it. -/
def excludeDie (s : State) (d reason : Nat) (inService : Bool) : State :=
  let s1 := (s.setFld (ecKey BOOT_DIE_STATE) (2 * d) 2 3).raise 0x8A (.dieUnit d 0)
    (reason + d * 2 ^ 8 + (if inService then 2 ^ 11 else 0)) none
  let s2 := (s1.setFld (dieKey d CLK_STAT) 0 4 0).dieUnitsOut d
  if s2.ctlDie = d ∧ d ≠ s.part.standby then
    (s2.setFld (ecKey BOOT_STAT) 7 3 s.part.standby).setFld (ecKey BOOT_STAT) 10 1 1
  else s2

def isExcluded (s : State) (d : Nat) : Bool := s.dieState d == 3

/-! ### Phase 3 (R350, R356, R459) -/

/-- One rail of a region at a start: slices with entries are out, failures found now are entered and recorded; the number of
failed slices, and whether the rail can be powered. -/
def railStart (s : State) (r rail : Nat) (bad : List Nat) : State × Bool :=
  let d := regionDie r
  let loc := fun k => locSlice (regionRx r) (regionRy r) rail k
  let out := (List.range 4).filter fun k => s.fused 4 d (loc k)
  let new := (List.range 4).filter fun k => bad.contains k && !out.contains k
  let s1 := (out ++ new).foldl (fun t k => t.setFld (ldoKey r rail) (12 + k) 1 0) s
  let s2 := new.foldl (fun t k => t.confirmFuse 4 1 d (loc k)) s1
  let n := out.length + new.length
  let rloc := locRegion (regionRx r) (regionRy r)
  let dead := Nat.ble 3 n || s.fused (2 + rail) d rloc
  let s3 := if new.isEmpty then s2
    else if Nat.ble 3 n then (s2.raiseSev 0 0x72 (regionLoc r) (railDetail r rail n) none).confirmFuse (2 + rail) 1 d rloc
    else s2.raise (if n = 2 then 0x71 else 0x70) (regionLoc r) (railDetail r rail n) none
  (s3.setFld (ldoKey r rail) 16 1 (if n = 2 then 1 else 0), !dead)

/-- A region at a start: its router rail turns on, and the staged turn-on of its compute rail begins, in ascending order of ry and then
rx (R356, R357). -/
def regionStart (s : State) (r : Nat) (bad : List (Nat × Nat)) : State :=
  let of := fun rail => bad.filterMap fun b => if b.1 = rail then some b.2 else none
  let (s1, comp) := s.railStart r 0 (of 0)
  let (s2, rout) := s1.railStart r 1 (of 1)
  let cap := s2.fld (ldoKey r 0) 16 1 == 1 || s2.fld (ldoKey r 1) 16 1 == 1
  let s3 := if rout then s2.railOn r 1 else s2
  s3.setRegion r { Region.reset with
    st := if !rout then 6 else if !comp then 5 else 2, sliceCap := cap,
    on := if rout && comp then some (TurnOn.first s.now (r % 64) false false) else none }

/-- FUSE registers that the die's eFuses give (R482). -/
def fuseRegs (s : State) (d : Nat) : State :=
  let n := (s.hardFuses.filter fun h => h.2.1 == d).length
  let secret := d == 0 || d == s.part.standby
  let s1 := s.setReg (dieKey d FUSE_STAT) (BitVec.ofNat 64 (min n 0xFFF + min (Config.efuseCapacity d - n) 0xFFF * 2 ^ 12 +
    (if secret then 2 ^ 24 else 0)))
  let s2 := s1.setReg (dieKey d FUSE_SVN) (if secret then BitVec.ofNat 64 (s.flash.svnMin % 2 ^ 16 + s.flash.revoke % 16 * 2 ^ 16) else 0)
  (s2.setReg (dieKey d FUSE_SERIAL) Config.serial).setReg (dieKey d FUSE_DIE_ID) (Config.dieId d)

/-- The die's converter, phases and measured rail (R342, R345). The spare's self-test is that of die 0's turn, and a spare that fails later
in the start stays out (R343, R344). -/
def dieSupply (s : State) (d : Nat) : State :=
  let k := dieKey d PWR_CONV
  let s0 := if d = 0 ∧ s.fld k 3 4 = 0xF then s.setAll PWR_CONV 2 1 1 else s
  let s1 := if s0.fld k 1 1 = 1 then s0 else s0.setFld k 0 1 1
  s1.setFld (dieKey d PWR_FIELD_V) 0 10 850

/-- Phases that were switched out are in use again from a start on (R345). -/
def phasesBack (s : State) (d : Nat) : State := (s.setReg (dieKey d PWR_PHASE) 0xFFFFFFF).setFld (dieKey d PWR_DIE_I) 16 12 (ilim 28)

/-- Host ports of a die have power (R459, R508). -/
def portPower (s : State) (d : Nat) : State :=
  s.part.ports.foldl (fun t p => if portDie p = d then t.setHport p { t.hport p with powered := true } else t) s

/-- One die powers up. The controller of d0 resumes the engine's where it passes its test (R458). -/
def dieUp (s : State) (d : Nat) (slicesBad : List (Nat × Nat × Nat)) : State :=
  let s1 := if s.warm && (s.die d).supplied then s else (s.dieSupply d).setDie d { Die.reset with supplied := true }
  let s2 := (((s1.phasesBack d).setDie d { s1.die d with ctlOk := true }).portPower d).fuseRegs d
  let s3 := if d = s.part.standby ∧ s2.boot.standbyAt = none then s2.setBoot { s2.boot with standbyAt := some s.now } else s2
  let s4 := if d = 0 ∧ s.ctlDie ≠ 0 then (s3.setFld (ecKey BOOT_STAT) 7 3 0).setFld (ecKey BOOT_STAT) 10 1 0 else s3
  (List.range 64).foldl (fun t i =>
    t.regionStart (d * 64 + i) (slicesBad.filterMap fun b => if b.1 = i then some b.2 else none)) s4

/-- COOLANT_OK has been asserted without a break for 10 s (R391, R506). -/
def coolantSteady (s : State) : Bool := s.band.coolantOk && Nat.ble (s.band.coolantSince + 10000000000) s.now

/-- Phase 3 can go on: it has begun, or phase 2 is done and a cold start holds no longer (R506). -/
def powerPhase (s : State) : Bool := s.inPhase 3 || (s.inPhase 2 && s.boot.cfgDone && (s.warm || s.coolantSteady))

/-- A step of a phase that goes die by die is done; after the last die the phase ends. -/
def dieDone (s : State) (p : Nat) : State :=
  let s1 := s.setBoot { s.boot with nextDie := s.boot.nextDie + 1 }
  if s.part.dies ≤ s1.boot.nextDie then s1.endPhase p else s1

/-- Turn-ons are in progress. -/
def turningOn (s : State) : Bool := s.regions.any fun e => e.2.on.isSome

/-- Phase 3 ends once every die had its turn and every turn-on ended (R356, R459). -/
def powerSettle (s : State) : State :=
  if s.inPhase 3 && Nat.ble s.part.dies s.boot.nextDie && !s.turningOn then s.endPhase 3 else s

/-- Phase 3 for one die, in ascending order: one at a time, or in a warm restart that follows no stop in parallel (R459, R469). -/
def diePowerUp (s : State) (d : Nat) (ok ctlOk : Bool) (slicesBad : List (Nat × Nat × Nat)) : State :=
  if !s.powerPhase then s
  else
    let s1 := if s.phase = 2 then s.startPhase 3 else s
    if s1.boot.nextDie ≠ d ∨ s.part.dies ≤ d ∨ (s1.boot.kind ≠ 2 ∧ s1.turningOn) then s
    else
      let lim := if s.fld (dieKey 0 PWR_BLADE) 20 2 = 0 then s.part.limitTwo else s.part.limitOne
      let s2 := if d = 0 then s1.setAll PWR_BLADE 22 10 lim else s1
      let s3 := match s2.boot.excluded.find? fun e => e.1 == d with
        | some e => s2.excludeDie d e.2.1 e.2.2
        | none => if !ok then s2.excludeDie d 3 false else if !ctlOk then s2.excludeDie d 5 false else s2.dieUp d slicesBad
      (s3.setBoot { s3.boot with nextDie := d + 1 }).powerSettle

/-! ### Phase 4 (R401, R404, R414, R466) -/

/-- The cell of crossing c on a side of a die. -/
def crossCell (d side c : Nat) : Nat :=
  if side = 0 then cellAt d c 0 else if side = 1 then cellAt d 47 c else if side = 2 then cellAt d c 47 else cellAt d 0 c

/-- A die-boundary crossing that takes no part: its links fail. -/
def failCrossing (s : State) (d side c : Nat) : State :=
  (s.failLinks (crossCell d side c) side).setBoot { s.boot with failedX := (if s.boot.failedX.contains (d, side, c) then s.boot.failedX else s.boot.failedX ++ [(d, side, c)]) }

/-- A crossing that cannot be used: an entry of TYPE 0x6, class 0x85 (R466); after calibration its boundary's registers follow. -/
def disableCrossing (s : State) (d side c : Nat) : State :=
  let s1 := match s.dieBeside d side with
    | some e => if s.fld (dieKey d CAL_STAT) 0 1 = 1 then s.crossShows d e side c else s
    | none => s
  (((s1.failCrossing d side c).confirmFuse 6 4 d (locCross side c)).incSat (dieKey d FUSE_XDIS) (6 * side) 6 1).raise 0x85 (.dieUnit d c) 0 none

/-- A failing wire found at a start: replaced by a spare, or the crossing is disabled (R466). -/
def wireFail (s : State) (d side c w : Nat) : State :=
  let out := s.wiresOut d side c
  if 40 ≤ w ∨ 48 ≤ c ∨ 4 ≤ side ∨ out.contains w ∨ s.crossFailed d side c ∨ s.isExcluded d then s
  else if steered (out ++ [w]) then
    let s1 := s.setBoot { s.boot with wires := (d, side, c, w) :: s.boot.wires }
    ((s1.confirmFuse 5 4 d (locCross side c + w * 2 ^ 8)).incSat (dieKey d FUSE_WIRES) (8 * side) 8 1).raise 0x85 (.dieUnit d c) 0 none
  else s.disableCrossing d side c

/-- Registers of the CAL block (R420). -/
def blatKey (d side c : Nat) : Nat := dieKey d (CAL_BLAT0 + 0x20 * side + 4 * (c / 8))
def bndKey (d side : Nat) : Nat := dieKey d (CAL_BND + 4 * side)
def seamKey (d seam c : Nat) : Nat := dieKey d (CAL_SEAM0 + 0x20 * seam + 4 * (c / 8))

/-- A side with no neighbour that took part (R414). -/
def absentSide (s : State) (d side : Nat) : State :=
  (List.range 6).foldl (fun t k => t.setReg (blatKey d side (8 * k)) 0xFFFFFFFF) (s.setReg (bndKey d side) 0)

/-- Raw latency that a list of measurements gives for index c of kind k, or the nominal one. -/
def rawOf (raw : List (Nat × Nat × Nat)) (k c dflt : Nat) : Nat :=
  match raw.find? fun m => m.1 == k && m.2.1 == c with | some m => m.2.2 | none => dflt

/-- What one end of a boundary publishes. -/
def publishSide (s : State) (d side pad rawmax : Nat) (lat : Nat → Nat) : State :=
  let bad := (List.range 48).countP fun c => lat c == 0xF
  let s1 := (List.range 48).foldl (fun t c => t.setFld (blatKey d side c) (4 * (c % 8)) 4 (lat c)) s
  s1.setReg (bndKey d side) (BitVec.ofNat 64 (pad + bad * 2 ^ 4 + rawmax * 2 ^ 10 + 2 ^ 14 + (if 4 < bad then 2 ^ 15 else 0)))

/-- Calibration of the boundary between die d and its east (1) or south (2) neighbour e (R414). A crossing with an entry of TYPE
0x6, or disabled for want of spares, is failed and not measured. -/
def calBoundary (s : State) (d e side : Nat) (raw : List (Nat × Nat × Nat)) : State :=
  let opp := (side + 2) % 4
  let s1 := (List.range 48).foldl (fun t c =>
    if (t.fused 6 d (locCross side c) || t.fused 6 e (locCross opp c)) && !t.crossFailed d side c then t.failCrossing d side c else t) s
  let s2 := (List.range 48).foldl (fun t c =>
    if !t.crossFailed d side c && Nat.ble 10 (rawOf raw side c 6) then
      (t.failCrossing d side c).raise 0x7F (.dieUnit d c) (calDetail 2 d 0 side c 0 0 0) none
    else t) s1
  let lat := fun c => if s2.crossFailed d side c then 0xF else rawOf raw side c 6
  let rawmax := (List.range 48).foldl (fun a c => if s2.crossFailed d side c then a else max a (rawOf raw side c 6)) 0
  let pad := max 6 rawmax
  let s3 := (s2.publishSide d side pad rawmax lat).publishSide e opp pad rawmax lat
  if 6 < pad then s3.raise 0x7F (.dieUnit d 0) (calDetail 1 d 0 side 0 0 0 pad) none else s3

/-- A field-seam crossing: its LAT, or failure (R414, R420). -/
def calSeam (s : State) (d seam c : Nat) (raw : List (Nat × Nat × Nat)) : State :=
  if rawOf raw (4 + seam) c 1 = 1 then s.setFld (seamKey d seam c) (4 * (c % 8)) 4 1
  else
    let cell := if seam = 0 then cellAt d 23 c else cellAt d c 23
    ((s.failLinks cell (if seam = 0 then 1 else 2)).incSat (dieKey d CAL_STAT) 8 8 1).raise 0x7F (.dieUnit d c) (calDetail 3 d 1 seam c 0 0 0) none

/-- A region-boundary crossing that failed (R414): k = 8 + 2 * region + (0 east, 1 south), with its py or px. -/
def calRegion (s : State) (d k c : Nat) : State :=
  let rx := (k - 8) / 2 % 8
  let ry := (k - 8) / 16
  let east := k % 2 == 0
  let cell := if east then cellAt d (6 * rx + 5) c else cellAt d c (6 * ry + 5)
  ((s.failLinks cell (if east then 1 else 2)).incSat (dieKey d CAL_STAT) 8 8 1).raise 0x7F (.dieUnit d c)
    (calDetail 3 d 2 (if east then 0 else 1) c rx ry 0) none

/-- A boundary is measured once the PLLs of both its dies have locked, which is in the turn of the later one (R414); `raw` names its
crossings by the side of the earlier die, which the records name too. -/
def calShared (s : State) (d e side : Nat) (raw : List (Nat × Nat × Nat)) : State :=
  let t := s.calBoundary e d ((side + 2) % 4) raw
  let n := t.crossCount d side
  (t.incSat (dieKey d CAL_STAT) 8 8 n).incSat (dieKey e CAL_STAT) 8 8 n

/-- Calibration of one die: its seams and region boundaries, its boundaries with earlier dies, and the sides without a neighbour. -/
def calDie (s : State) (d : Nat) (raw : List (Nat × Nat × Nat)) : State :=
  let s1 := (List.range 96).foldl (fun t i => t.calSeam d (i / 48) (i % 48) raw) s
  let s2 := raw.foldl (fun t m => if 8 ≤ m.1 ∧ m.1 < 136 ∧ m.2.1 < 48 ∧ m.2.2 ≠ 1 then t.calRegion d m.1 m.2.1 else t) s1
  let s3 := (List.range 4).foldl (fun t side =>
    match t.dieBeside d side with
    | some e => if t.isExcluded e then t.absentSide d side else if e < d then t.calShared d e side raw else t
    | none => t.absentSide d side) s2
  s3.setFld (dieKey d CAL_STAT) 1 1 1

/-- Calibration of every die is done: CAL_STAT and CAL_LAT_REG show it, and the frame alignment is broadcast (R404, R420). -/
def calDone (s : State) : State :=
  (List.range s.part.dies).foldl (fun t e =>
    if t.isExcluded e then t
    else ((t.setFld (dieKey e CAL_STAT) 0 2 1).setReg (dieKey e CAL_LAT_REG) 1).setFld (dieKey e CLK_STAT) 9 1 1) s

/-- A die whose PLLs do not lock is excluded, and its neighbours have no neighbour there (R64, R414). -/
def pllFail (s : State) (d : Nat) : State :=
  (List.range 4).foldl (fun t side =>
    match t.dieBeside d side with | some e => t.absentSide e ((side + 2) % 4) | none => t) (s.excludeDie d 4 false)

/-- Floor codes of a die's regions, 0-30, from the calibration seeds (R410). -/
def readSeeds (s : State) (d : Nat) : State :=
  (List.range 64).foldl (fun t i => t.setFld (regionKey CLK_R (64 * d + i)) 10 6 (Config.vfloor (!s.flash.calOk) d i % 31)) s

/-- The wires of a crossing are tested in phase 4: all at a cold start, at a warm restart those of crossings with failures in the boot
sequence that it ends (R469). -/
def wireTested (s : State) (d side c : Nat) : Bool :=
  !s.warm || s.boot.suspectX.contains (d, side, c) ||
    (match s.dieBeside d side with | some e => s.boot.suspectX.contains (e, (side + 2) % 4, c) | none => false)

/-- Phase 4 for one die, in ascending order; after the last, calibration is done. -/
def pllCalibration (s : State) (d : Nat) (locked : Bool) (raw wiresBad : List (Nat × Nat × Nat)) : State :=
  if !s.inPhase 4 || s.boot.nextDie != d then s
  else
    let s1 := if s.isExcluded d then s
      else if !locked then s.pllFail d
      else
        let t := (s.readSeeds d).setReg (dieKey d CLK_STAT) (BitVec.ofNat 64 (0xF + s.fld (dieKey d CLK_STAT) 4 4 * 2 ^ 4 + 2 ^ 8))
        (wiresBad.foldl (fun u w => if s.wireTested d w.1 w.2.1 then u.wireFail d w.1 w.2.1 w.2.2 else u) t).calDie d raw
    (if s.part.dies ≤ d + 1 then s1.calDone else s1).dieDone 4

/-! ### Phases 5 and 6 (R174, R463-R467) -/

/-- The primer fills every cell of the regions that reached power good, which enter state 3 or 4 (R174, R360, R402). -/
def primeRegions (s : State) : State :=
  (List.range (s.part.dies * 64)).foldl (fun t r =>
    if 2 ≤ (t.region r).st ∧ (t.region r).st ≤ 4 ∧ (t.region r).on = none then ((cellsOf r).foldl (fun u c => u.primeCell c) t).regionUp r else t) s

/-- Phase 5. -/
def primeAll (s : State) : State := if s.inPhase 5 then s.primeRegions.endPhase 5 else s

/-- A cell found bad by a test: its entry, and its place among the cells that the numbering leaves out. -/
def cellBad (s : State) (c source : Nat) : State :=
  (s.confirmFuse 1 source (cellDie c) (locCell c)).setBoot { s.boot with disabled := (if s.boot.disabled.contains c then s.boot.disabled else s.boot.disabled ++ [c]) }

/-- The neighbours that test a cell (R464): east, west, and north and south at offset 0, across die boundaries too, that are in use and
whose link to it has not failed. -/
def testers (s : State) (c : Nat) : List Nat :=
  [0, 1, 4, 9].filterMap fun l => match s.linkFar c l with
    | .cell e => if s.isExcluded (cellDie e) || s.boot.disabled.contains e || s.fused 1 (cellDie e) (locCell e) || s.linkFailed c l then none else some e
    | _ => none

/-- Failing votes of a cell from verdicts (testee, tester, failed): one from each tester that fails it; where fewer than two testers reach
it, its die controller's verdict, which names the cell itself, counts two (R464, R465). -/
def failVotes (s : State) (vs : List (Nat × Nat × Bool)) (c : Nat) : Nat :=
  let ts := s.testers c
  if ts.length < 2 then (if vs.contains (c, c, true) then 2 else 0) else ts.countP fun e => vs.contains (c, e, true)

/-- One cell's failing votes (R465). -/
def vote (s : State) (c n : Nat) : State :=
  let k := dieKey (cellDie c) FUSE_NVOTE
  if s.part.dies * 2304 ≤ c ∨ s.isExcluded (cellDie c) then s
  else if 2 ≤ n then ((s.cellBad c 3).incSat k 0 7 1).raise 0x84 (.cell c 0) 0 none
  else if n = 1 then s.incSat k 7 8 1
  else s

/-- As phase 7 begins, every controller trains its device, but for one with an active entry (R271, R277). -/
def trainBegin (s : State) : State :=
  ((List.range s.part.dies).filter fun d => !s.isExcluded d).foldl (fun t d =>
    (List.range 12).foldl (fun u n => if u.fused 7 d n then u else u.setFld (memKey d n MEM_STAT) 0 3 1) t) s

/-- A crossing in which the soak spared a wire has retrained: above its boundary's PAD it is disabled (R467). -/
def soakRetrain (s : State) (d side c raw : Nat) : State :=
  if s.crossFailed d side c || s.isExcluded d || decide (raw ≤ s.fld (bndKey d side) 0 4) then s else s.disableCrossing d side c

/-- Phase 6: the march of a cold start over cells without an active fuse, the vote, the soak, with the latency of each crossing that
retrained after it; then the primer runs again. -/
def neighbourTest (s : State) (marchBad : List Nat) (verdicts : List (Nat × Nat × Bool)) (wiresBad retrain : List (Nat × Nat × Nat × Nat)) : State :=
  if !s.inPhase 6 then s
  else
    let ok := fun (t : State) c => decide (c < s.part.dies * 2304) && !t.isExcluded (cellDie c) && !t.fused 1 (cellDie c) (locCell c)
    let s1 := if s.warm then s else marchBad.foldl (fun t c => if ok t c then t.cellBad c 1 else t) s
    let tested := fun c => ok s1 c && !s1.boot.disabled.contains c
    let s2 := ((verdicts.map (·.1)).eraseDups.filter tested).foldl (fun t c => t.vote c (s1.failVotes verdicts c)) s1
    let s3 := wiresBad.foldl (fun t w => t.wireFail w.1 w.2.1 w.2.2.1 w.2.2.2) s2
    let s4 := retrain.foldl (fun t w =>
      if wiresBad.any (fun v => v.1 == w.1 && v.2.1 == w.2.1 && v.2.2.1 == w.2.2.1) then t.soakRetrain w.1 w.2.1 w.2.2.1 w.2.2.2 else t) s3
    (s4.primeRegions.endPhase 6).trainBegin

/-! ### Phase 7 (R271, R284, R459) -/

/-- CAUSE of R271, the first of its table that holds; 0 for none. The start-up test runs at a cold start only. -/
def devCause (warm : Bool) (t : DevTest) : Nat :=
  if t.failch % 16 ≠ 0 then 1
  else if warm then 0
  else if t.uncorr then 2
  else if 256 < t.corr then 3
  else if t.tagBad then 4
  else 0

/-- One GDDR7 device is trained and tested, or left out for its entry. -/
def devTrain (s : State) (d n : Nat) (ts : List DevTest) : State :=
  let k := memKey d n
  if s.fused 7 d n then s.setFld (k MEM_STAT) 0 3 7
  else
    let t : DevTest := (ts.find? fun t => t.die == d && t.dev == n).getD
      { die := d, dev := n, attempts := 1, failch := 0, corr := 0, uncorr := false, tagBad := false }
    let c := devCause s.warm t
    let s1 := s.setReg (k MEM_TRAIN_STAT) (BitVec.ofNat 64 ((if t.failch % 16 = 0 then max 1 (min t.attempts 3) else 3) + t.failch % 16 * 2 ^ 2 +
      c * 2 ^ 6 + (if s.warm then 0 else min t.corr 4095) * 2 ^ 12))
    if c = 0 then s1.setFld (k MEM_STAT) 0 3 3
    else
      ((s1.setFld (k MEM_STAT) 0 3 5).confirmFuse 7 (if c = 1 then 4 else 1) d n).memRaise ⟨d, n, 0, 0, 0, 0⟩ 0x48 0 0
        (d + n * 2 ^ 3 + c * 2 ^ 8) none

/-- One Xildo port trains; lanes with an active entry stay out (R284). -/
def portStart (s : State) (d p : Nat) (lanesBad : List (Nat × Nat)) (credits : List (Nat × Nat × Nat)) : State :=
  if s.fld (fabKey d p FAB_PCFG) 0 1 = 0 then s
  else
    let out := (List.range 8).foldl (fun a i => if s.fused 8 d (8 * p + i) then a + 2 ^ i else a) 0
    let c := match credits.find? fun e => e.1 == 3 * d + p with | some e => e.2 | none => (0, 0)
    let bad := (List.range 8).foldl (fun a i => if lanesBad.contains (d, 8 * p + i) && !bit out i then a + 2 ^ i else a) 0
    ((s.setFld (fabKey d p FAB_PSTAT) 10 8 out).trainPort d p 1).trainDone d p bad (c.1) (c.2)

/-- Phase 7; PCIe trains on its own (R459). -/
def linkTraining (s : State) (ts : List DevTest) (lanesBad : List (Nat × Nat)) (credits : List (Nat × Nat × Nat)) : State :=
  if !s.inPhase 7 then s
  else
    let dies := (List.range s.part.dies).filter fun d => !s.isExcluded d
    let s1 := dies.foldl (fun t d => (List.range 12).foldl (fun u n => u.devTrain d n ts) t) s
    let s2 := dies.foldl (fun t d => (List.range 3).foldl (fun u p => u.portStart d p lanesBad credits) t) s1
    s2.endPhase 7

/-! ### Phase 8 (R58, R59, R64-R67, R263, R264, R468) -/

/-- Promotion of one entry (R58): its new form, the hard fuses, and whether its die's capacity was exhausted. -/
def promote (hardBefore : List (Nat × Nat × Nat)) (added : List (Nat × Nat × Nat)) (e : RmapEntry) :
    RmapEntry × List (Nat × Nat × Nat) × Bool :=
  let u := (e.typ, e.die, e.loc)
  let all := hardBefore ++ added
  let room := decide ((all.filter fun h => h.2.1 == e.die).length < Config.efuseCapacity e.die)
  if !e.live || !(e.state == 1 || (e.state == 0 && Nat.ble 3 e.confirm)) then (e, added, false)
  else if all.contains u then ({ e with state := 2 }, added, false)
  else if room then ({ e with state := 2 }, added ++ [u], false)
  else ({ e with state := 0 }, added, true)

/-- Every entry of the repair map in turn; class 0x8C once for each die without capacity. -/
def promoteAll (s : State) : State :=
  let r := s.flash.rmap.foldl (fun (a : List RmapEntry × List (Nat × Nat × Nat) × List Nat) e =>
    let p := promote s.hardFuses a.2.1 e
    (a.1 ++ [p.1], p.2.1, if p.2.2 && !a.2.2.contains e.die then a.2.2 ++ [e.die] else a.2.2)) ([], [], [])
  let s1 := { s with flash := { s.flash with rmap := r.1, hard := s.flash.hard ++ r.2.1 } }
  r.2.2.foldl (fun t d => t.raise 0x8C (.dieUnit d 0) d none) s1

/-- A cell that the merged fuses disable: its own entry, or a rail of its region that cannot be powered (R59, R350). -/
def mergedBad (s : State) (c : Nat) : Bool :=
  let st := (s.region (cellRegion c)).st
  s.boot.disabled.contains c || s.fused 1 (cellDie c) (locCell c) || st == 5 || st == 6

/-- The disabled cells after the merge. -/
def mergeCells (s : State) : State :=
  s.setBoot { s.boot with disabled := (List.range (s.part.dies * 2304)).filter s.mergedBad, holes := [] }

/-- R64 reason 1. -/
def rowsBad (s : State) (d : Nat) : Bool := (List.range 48).any fun py => Nat.ble 3 (s.rowDisabled d py).length

/-- A canvas of whole dies: columns, rows, origin. -/
structure Rect where
  w : Nat
  h : Nat
  dc : Nat
  dr : Nat
deriving DecidableEq, Repr

def Rect.area (r : Rect) : Nat := 46 * r.w * (48 * r.h)

/-- Whether a die lies in a rectangle. -/
def Rect.holds (p : Part) (r : Rect) (d : Nat) : Bool :=
  r.dc ≤ dieCol p d && dieCol p d < r.dc + r.w && r.dr ≤ dieRow p d && dieRow p d < r.dr + r.h

/-- Ties (R65): greater height, lower dc0, lower dr0. -/
def Rect.better (a b : Rect) : Bool :=
  b.area < a.area || (a.area == b.area && (b.h < a.h || (a.h == b.h && (a.dc < b.dc || (a.dc == b.dc && a.dr < b.dr)))))

/-- Every rectangle of die columns and rows. -/
def rects (p : Part) : List Rect :=
  (List.range p.cols).flatMap fun dc => (List.range p.rows).flatMap fun dr =>
    (List.range (p.cols - dc)).flatMap fun w => (List.range (p.rows - dr)).map fun h => ⟨w + 1, h + 1, dc, dr⟩

/-- The largest rectangle without an excluded die (R65). -/
def bestRect (p : Part) (excl : Nat → Bool) : Option Rect :=
  ((rects p).filter fun r => (List.range p.dies).all fun d => !(r.holds p d && excl d)).foldl
    (fun a r => match a with | some b => if r.better b then some r else some b | none => some r) none

def rectArea (p : Part) (excl : Nat → Bool) : Nat := match bestRect p excl with | some r => r.area | none => 0

/-- R64 reason 2 on the boundary of d and its east or south neighbour e: the die on which the start-up test places the fault, and where
it places it on neither, the exclusion that leaves the larger canvas, or of the higher-numbered die. -/
def boundaryExclude (s : State) (faults : List (Nat × Nat × Nat)) (d e side : Nat) : State :=
  if s.isExcluded d || s.isExcluded e || Nat.ble (s.crossCount d side) 12 then s
  else
    let ad := rectArea s.part fun x => s.isExcluded x || x == d
    let ae := rectArea s.part fun x => s.isExcluded x || x == e
    let gone := match faults.find? fun f => f.1 == d && f.2.1 == side && (f.2.2 == d || f.2.2 == e) with
      | some f => f.2.2
      | none => if ae < ad then d else if ad < ae then e else max d e
    s.excludeDie gone 2 false

/-- The exclusions of phase 8: reason 1, then reason 2. DESIGN CHOICE (log 41): of several boundaries with more than 12 failed
crossings, one is judged after another, by ascending die, its east boundary before its south one, each on the exclusions made before. -/
def excludeAll (s : State) (faults : List (Nat × Nat × Nat)) : State :=
  let s1 := (List.range s.part.dies).foldl (fun t d => if !t.isExcluded d && t.rowsBad d then t.excludeDie d 1 false else t) s
  (List.range s.part.dies).foldl (fun t d => [1, 2].foldl (fun u side =>
    match u.dieBeside d side with | some e => u.boundaryExclude faults d e side | none => u) t) s1

/-- Dies that a failure of this start excludes after their turn of phase 3 (R344, R346). -/
def excludeFound (s : State) : State :=
  s.boot.excluded.foldl (fun t e => if t.isExcluded e.1 then t else t.excludeDie e.1 e.2.1 e.2.2) s

/-- Whether a canvas may be published (R67). -/
def canvasAllowed (s : State) : Bool :=
  (s.part.ports.any fun p => !s.isExcluded (portDie p)) && (!s.isExcluded 0 || !s.isExcluded s.part.standby)

/-- A stranded die's compute rails go off and its regions hold state 1; an excluded die's regions hold state 0 (R66, R352, R468). -/
def settleDie (s : State) (r : Rect) (d : Nat) : State :=
  if s.isExcluded d then (List.range 64).foldl (fun t i => if (t.region (d * 64 + i)).st = 0 then t else t.fullOff (d * 64 + i)) s
  else if r.holds s.part d then s.setFld (ecKey BOOT_DIE_STATE) (2 * d) 2 1
  else (List.range 64).foldl (fun t i =>
      if (t.region (d * 64 + i)).st = 0 ∨ (t.region (d * 64 + i)).st = 6 then t else t.computeOff (d * 64 + i))
    (s.setFld (ecKey BOOT_DIE_STATE) (2 * d) 2 2)

/-- Why a position is skipped: 0 spare, 1 hard fuse, 2 soft fuse (R74). -/
def mergeSrc (s : State) (d py px : Nat) : Nat :=
  let c := cellAt d px py
  if !s.boot.disabled.contains c then 0
  else s.fuseSrc d py px

/-- Skip positions, spares and the count of soft fuses of a die (R48, R74). -/
def skipDie (s : State) (d : Nat) : State :=
  let s1 := (List.range 48).foldl (fun t py => (t.writeSkips d py (t.mergeSrc d py)).holdRow d py) s
  (s1.skipCounts d).fuseRegs d

/-- The live list (R263). -/
def newLive (s : State) : List (Nat × Nat) :=
  (List.range 12).flatMap fun n => (List.range s.part.dies).filterMap fun d =>
    if !s.isExcluded d ∧ (s.devState d n = 3 ∨ s.devState d n = 4) then some (d, n) else none

/-- Live list, positions and capacity published (R263, R264, R279). -/
def publishGddr (s : State) : State :=
  let l := s.newLive
  let s1 := l.zipIdx.foldl (fun t e =>
    (t.setFld (ecKey (BOOT_GDDR_LIVE + 4 * ((12 * e.1.1 + e.1.2) / 32))) ((12 * e.1.1 + e.1.2) % 32) 1 1).setFld
      (memKey e.1.1 e.1.2 MEM_CFG) 8 7 e.2) s
  let s2 := (s1.setFld (ecKey BOOT_GDDR_STAT) 0 7 l.length).setReg (ecKey BOOT_GDDR_CAP) (BitVec.ofNat 64 (l.length * s1.segs * 960))
  s2.setBoot { s2.boot with liveList := l, sameLive := decide (s.boot.liveList = l) }

/-- BOOT_CANVAS of the chosen rectangle (R75); BND_DEGRADED and HOLES follow the boundaries and the holes. -/
def publishCanvas (s : State) (r : Rect) : State :=
  let deg := (List.range s.part.dies).any s.isExcluded
  (s.setReg (ecKey BOOT_CANVAS) (BitVec.ofNat 64 (46 * r.w + 48 * r.h * 2 ^ 8 + r.dc * 2 ^ 16 + r.dr * 2 ^ 18 +
    (if deg then 2 ^ 19 else 0) + 2 ^ 22))).incWrap (ecKey BOOT_CANVAS_GEN) 0 32 1

/-- The repair map's 65,536 bytes, entries not in use erased (R55, R479; log 19). -/
def rmapBytes (s : State) : List Byte :=
  s.flash.rmap.flatMap RmapEntry.bytes ++ List.replicate (65536 - 16 * s.flash.rmap.length) 0xFF

/-- No canvas may be published (R67): the engine stays in phase 8, and the condition goes to management Ethernet and to the black box.
The spec names no class for it: a free value (DESIGN CHOICE, log 41). -/
def reportNoCanvas (s : State) : State :=
  let s1 := s.setBoot { s.boot with nextDie := 1 }
  s1.fresh.raise (0x80 + (Config.freeWord s.free).toNat % 16) (.engine 0) 0 none

/-- Phase 8. With no canvas allowed the engine stays here and does not report ready (R67). The registers of R74 are written after the
promotions (R468), so an entry promoted in this start shows as a hard fuse and is not counted as a soft one: DESIGN CHOICE (log 41). -/
def fuseMerge (s : State) (faults : List (Nat × Nat × Nat)) : State :=
  if !s.inPhase 8 || s.boot.nextDie != 0 then s
  else
    let s1 := ((s.mergeCells.promoteAll).excludeFound).excludeAll faults
    match bestRect s.part s1.isExcluded with
    | none => s1.reportNoCanvas
    | some r =>
      if !s1.canvasAllowed then s1.reportNoCanvas
      else
        let s2 := (List.range s.part.dies).foldl (fun t d => t.settleDie r d) s1
        let s3 := s2.publishCanvas r
        let s4 := (List.range s.part.dies).foldl (fun t d => t.skipDie d) s3
        let s5 := s4.publishGddr
        (s5.setBoot { s5.boot with rmapHash := sha384 s5.rmapBytes, excluded := [] }).endPhase 8

/-! ### Phases 9 and 10 (R272, R378, R461, R462) -/

/-- Contents are kept: a warm restart, not after a stop, with the same live list, not caused by class 0x49 (R272, R391). -/
def keepsGddr (s : State) : Bool := s.boot.kind == 2 && s.boot.sameLive && s.boot.restartCls != 0x49

/-- Data zero, valid check fields and correct tags in every segment. -/
def primeGddr (s : State) : State :=
  { s with mem := s.mem.filter fun p => !(p.1 < 2 ^ 44 || (2 ^ 45 ≤ p.1 && p.1 < 3 * 2 ^ 44)) }

/-- The read-only check of every 1,024th segment at a warm restart; what it finds is handled as by any read (R268, R272). It reads under
the new live list's interleave (DESIGN CHOICE, log 34). -/
def keptCheck (s : State) : State :=
  let live := s.liveDevs
  live.zipIdx.foldl (fun t e => (List.range ((s.segs + 1023) / 1024)).foldl (fun u i =>
    let a := (1024 * i * live.length + e.2) * 960
    match u.locate a with
    | some g => (u.readHalves g a 960).1
    | none => u) t) s

/-- A device is in service from now on, and its scrubber's first pass begins (R273). -/
def deviceServes (s : State) (d n : Nat) : State :=
  (s.setFld (memKey d n MEM_STAT) 0 3 4).setMc d n { s.mc d n with scrub := 0, passStart := s.now }

/-- Phase 9. -/
def gddrPriming (s : State) : State :=
  if !s.inPhase 9 then s
  else
    let s0 := if s.warm then s.keptCheck else s
    let s1 := if s.keepsGddr then s0 else s0.primeGddr
    let s2 := (s1.setFld (ecKey BOOT_GDDR_STAT) 7 1 (if s.keepsGddr then 1 else 0)).setFld (ecKey BOOT_GDDR_STAT) 8 1 1
    (s.boot.liveList.foldl (fun t e => t.deviceServes e.1 e.2) s2).endPhase 9

/-- BODY of the KIND 3 black-box entry (R461). -/
def timingBody (s : State) : List Byte :=
  toLe 1 s.boot.kind ++ toLe 1 0 ++ toLe 2 (s.fld (ecKey BOOT_POVR) 0 10) ++ toLe 4 s.flash.bootseq ++
    (List.range 10).flatMap fun p => toLe 4 (s.fld (ecKey (BOOT_PTIME + 4 * p)) 0 32)

/-- S and B of an engine that becomes ready in rack mode (R378). -/
def bandReady (s : State) : State :=
  let s1 := s.updateCeil false
  if s1.band.mode = 1 then
    s1.setBand { s1.band with
      exc := true, s := uW (min s1.band.lastAvg s1.ceil), b := s1.orphanBudget, t := s1.orphanBudget, bReq := s1.orphanBudget,
      tReq := s1.orphanBudget }
  else s1

/-- Where a record about a register is raised. -/
def keyLoc (k : Nat) : Loc :=
  if keyUnit k = 0 then .engine 0 else if keyUnit k < 16 then .dieUnit (keyUnit k - 1) 0 else .cell (keyUnit k - 16) 0

/-- A record of class 0x87 reason 1: a write to an RWL register after boot lock (R14). -/
def lockedWrite (s : State) (k ga : Nat) : State := s.raise 0x87 (keyLoc k) (1 + ga % 2 ^ 48 * 2 ^ 16) none

/-- Global address of an engine-control or die-control register. -/
def keyGa (k : Nat) : Nat := if keyUnit k = 0 then 4 * 2 ^ 44 + keyOff k else 3 * 2 ^ 44 + (keyUnit k - 1) * 2 ^ 41 + keyOff k

/-- Boot lock is set: a write to an RWL register that reached it in the same cycle is ignored and logged (R462). -/
def bootLock (s : State) : State :=
  s.wrote.foldl (fun t e =>
    match findRow (unitRows (keyUnit e.1)) (keyOff e.1) with
    | some (r, _) => if r.fields.any fun f => decide (f.acc = .rwl) then (t.setReg e.1 e.2).lockedWrite e.1 (keyGa e.1) else t
    | none => t) (s.setFld (ecKey BOOT_STAT) 5 1 1)

/-- Phase 10. -/
def bootReady (s : State) : State :=
  if !s.inPhase 10 then s
  else
    let s1 := s.phaseTime 10
    let s2 := ((s1.bootLock).setFld (ecKey BOOT_STAT) 4 1 1).setFld (ecKey BOOT_STAT) 0 4 0
    let s3 := (s2.stage 3 0 s2.timingBody).bandReady
    let s4 := s3.setBoot { s3.boot with restartCls := 0, covLast := s3.now }
    (((s4.event 4 (toLe 4 s4.canvasWord ++ toLe 4 (s4.fld (ecKey BOOT_CANVAS_GEN) 0 32))).event 8 (toLe 8 s4.facility))).raiseAll 259

/-- Limit in force of the phase that runs. -/
def limitUs (s : State) (p : Nat) : Nat := if s.warm then warmLimit s.part (s.boot.kind == 3) p else coldLimit s.part p

/-- A phase that exceeds its limit is logged once, and the start continues (R461); the hold of R506 does not count. -/
def overrun (s : State) : State :=
  let p := s.phase
  if !s.inPhase p || p == 0 || Nat.ble 11 p || (p == 2 && s.boot.cfgDone) || s.fld (ecKey BOOT_POVR) (p - 1) 1 == 1 then s
  else if s.limitUs p < (s.now - s.boot.phaseStart) / 1000 then
    (s.setFld (ecKey BOOT_POVR) (p - 1) 1 1).raise 0x87 (.engine 0) (2 + p * 2 ^ 8) none
  else s

/-! ### Restarts (R431, R458, R469, R470) -/

/-- Phase 1 of a warm restart: the running slot verifies again, in either device. -/
def warmVerify (s : State) : State :=
  let x := slotOf s.flash s.flash.active
  if s.inPhase 1 && s.warm && (x.okA || x.okB) then s.endPhase 1 else s

/-- The restart that an engine-severity record asked for, once it may begin (R431), with its phase 1. -/
def warmRestart (s : State) : State :=
  match s.boot.restartDue with
  | some t =>
    if s.now < t ∨ s.boot.off ∨ s.boot.modRst then s
    else if s.boot.restartCold then s.beginCold 3 s.boot.restartCls
    else (s.beginWarm 2 s.boot.restartCls).warmVerify
  | none => s.warmVerify

/-- BOOT_RESET OP 1 (R469, R470). -/
def resetWarm (s : State) (confirm : Nat) : State :=
  if confirm ≠ 0x5253 ∨ !s.ready then s else (s.setBoot { s.boot with restartCls := 0 }).faultNotices.beginWarm 2 0

/-- BOOT_RESET OP 2 (R459, R470): a start that runs is abandoned. -/
def resetCold (s : State) (confirm : Nat) : State :=
  if confirm ≠ 0x5253 ∨ s.boot.off ∨ s.boot.modRst then s else (if s.ready then s.faultNotices else s).beginCold 1 0

/-! ### Die controllers (R457, R458) -/

/-- The engine controller's heartbeat. -/
def heartbeat (s : State) : State :=
  if s.boot.off || s.boot.modRst then s else (s.emit (.heartbeat s.ctlDie)).setBoot { s.boot with beat := some s.now }

/-- No heartbeat within 100 ms of power-good on the standby's die, or none for 5 ms later. -/
def silent (s : State) : Bool :=
  match s.boot.standbyAt with
  | none => false
  | some t =>
    match s.boot.beat with
    | some b => if t ≤ b then Nat.ble (b + 5000000) s.now else Nat.ble (t + 100000000) s.now
    | none => Nat.ble (t + 100000000) s.now

/-- The standby takes the role: in a start it begins a cold start, after ready class 0x86 restarts the engine. -/
def takeOver (s : State) : State :=
  let old := s.ctlDie
  let s1 := ((s.setFld (ecKey BOOT_STAT) 7 3 s.part.standby).setFld (ecKey BOOT_STAT) 10 1 1).setDie old { s.die old with ctlOk := false }
  if s.ready then s1.raise 0x86 (.dieUnit old 0) (2 + old * 2 ^ 8) none
  else s1.beginCold (s.fld (ecKey BOOT_CAUSE) 0 2) (s.fld (ecKey BOOT_CAUSE) 8 8)

def failover (s : State) : State :=
  if s.silent && s.ctlDie != s.part.standby && !s.boot.off && !s.boot.modRst then s.takeOver else s

/-- Another die controller's watchdog expires. -/
def watchdog (s : State) (d : Nat) : State :=
  if s.part.dies ≤ d ∨ d = s.ctlDie then s
  else (s.setDie d { s.die d with ctlOk := false }).raise 0x86 (.dieUnit d 0) (2 + d * 2 ^ 8) none

end State

/-! ### Commands -/

/-- LDO_SLICE_FAIL (R349, R350). -/
def execLdoSliceFail (d rx ry rail slice : Nat) (s : State) : Res := .next (s.sliceFail (regionAt d rx ry) rail slice).powerSettle

/-- STAGE_ADMISSION (R357). -/
def execStageAdmission (d : Nat) (s : State) : Res := .next (s.admitStages d).powerSettle

/-- POWER_GOOD (R360). -/
def execPowerGood (d rx ry : Nat) (s : State) : Res := .next (s.powerGood (regionAt d rx ry)).powerSettle

/-- POWER_GOOD_MISSED (R360). -/
def execPowerGoodMissed (d rx ry : Nat) (s : State) : Res := .next (s.goodMissed (regionAt d rx ry)).powerSettle

/-- FIRMWARE_VERIFY (R453, R472-R474): which devices are usable, which key sets have the ROM's digest, the four candidates. -/
def execFirmwareVerify (sfdp : List Sfdp) (keysOk : List Bool) (objs : List SignedObj) (s : State) : Res :=
  .next (s.firmwareVerify sfdp keysOk objs)

/-- CONFIG_READ (R454, R456, R476). -/
def execConfigRead (r : FlashRead) (s : State) : Res := .next (s.configRead r)

/-- DIE_POWER_UP (R356, R459, R506). -/
def execDiePowerUp (d : Nat) (ok ctlOk : Bool) (slicesBad : List (Nat × Nat × Nat)) (s : State) : Res :=
  .next (s.diePowerUp d ok ctlOk slicesBad)

/-- PLL_CALIBRATION (R401, R414, R466). -/
def execPllCalibration (d : Nat) (locked : Bool) (raw wiresBad : List (Nat × Nat × Nat)) (s : State) : Res :=
  .next (s.pllCalibration d locked raw wiresBad)

/-- PRIME_ALL (R174). -/
def execPrimeAll (s : State) : Res := .next s.primeAll

/-- NEIGHBOUR_TEST (R463-R467). -/
def execNeighbourTest (marchBad : List Nat) (verdicts : List (Nat × Nat × Bool)) (wiresBad retrain : List (Nat × Nat × Nat × Nat))
    (s : State) : Res := .next (s.neighbourTest marchBad verdicts wiresBad retrain)

/-- LINK_TRAINING (R271, R284, R459). -/
def execLinkTraining (ts : List DevTest) (lanesBad : List (Nat × Nat)) (credits : List (Nat × Nat × Nat)) (s : State) : Res :=
  .next (s.linkTraining ts lanesBad credits)

/-- FUSE_MERGE_PUBLISH (R64-R67, R468): `faults` names, by die and side, the boundaries whose fault the start-up test places on a die. -/
def execFuseMergePublish (faults : List (Nat × Nat × Nat)) (s : State) : Res := .next (s.fuseMerge faults)

/-- GDDR_PRIMING (R272). -/
def execGddrPriming (s : State) : Res := .next s.gddrPriming

/-- BOOT_LOCK_READY (R461, R462). -/
def execBootLockReady (s : State) : Res := .next s.bootReady

/-- PHASE_OVERRUN (R461). -/
def execPhaseOverrun (s : State) : Res := .next s.overrun

/-- WARM_RESTART (R431, R469). -/
def execWarmRestart (s : State) : Res := .next s.warmRestart

/-- BOOT_RESET_WARM (R470). -/
def execBootResetWarm (confirm : Nat) (s : State) : Res := .next (s.resetWarm confirm)

/-- BOOT_RESET_COLD (R459, R470). -/
def execBootResetCold (confirm : Nat) (s : State) : Res := .next (s.resetCold confirm)

/-- HEARTBEAT_SEND (R457). -/
def execHeartbeatSend (s : State) : Res := .next s.heartbeat

/-- HEARTBEAT_LOSS_FAILOVER (R457, R458). -/
def execHeartbeatLossFailover (s : State) : Res := .next s.failover

/-- DIE_CONTROLLER_WATCHDOG (R458). -/
def execDieControllerWatchdog (d : Nat) (s : State) : Res := .next (s.watchdog d)

/-- FLASH_WRITE_COMPLETE (R455). -/
def execFlashWriteComplete (ok0 ok1 : Bool) (s : State) : Res := .next (s.flashWrite ok0 ok1)

end Sys2Proof.Machine
end

