-- ==== Sys2Proof/Machine/Lic.lean ====
section
/-! DEFINITION. Licences, firmware installation, service commands and attestation (R475-R484). An object arrives with the verdict of
each of its signatures (R471); `none` is what the engine could not take for an object at all. -/

namespace Sys2Proof.Machine

/-- LMS leaves of the module's key (R480). -/
def lmsLeaves : Nat := 1048576

namespace State

/-! ### Results and refusals (R483, R484) -/

/-- LIC_RES. -/
def licRes (s : State) (st reason : Nat) : State := s.setReg (ecKey LIC_RES) (BitVec.ofNat 64 (st + reason * 2 ^ 2))

/-- A refused command: class 0x83 with the reason and the OP. -/
def licRefuse (s : State) (op reason : Nat) : State := (s.licRes 3 reason).raise 0x83 (.engine 0) (reason + op * 2 ^ 8) none

/-- The command ends. -/
def licEnd (s : State) : State := { s with flash := { s.flash with licOp := 0 } }

/-- Whether LIC_CMD accepts an OP: after ready, or OP 4 in recovery (R316, R474). -/
def licOpen (s : State) (op : Nat) : Bool := s.ready || (op == 4 && s.fld (ecKey BOOT_STAT) 13 1 == 1)

/-- A fresh service nonce. -/
def drawNonce (s : State) : State := { s with flash := { s.flash with nonces := s.flash.nonces + 1 } }

/-- A fresh nonce is drawn after every OP 2 (R478). -/
def nonceAfter (s : State) (op : Nat) : State := if op = 2 then s.drawNonce else s

/-- A command runs: not before ready, and not while another runs, which goes on (R484). -/
def licRun (s : State) (op : Nat) (act : State → State) : State :=
  if s.flash.licOp ≠ 0 ∧ s.flash.licOp ≠ op then (s.raise 0x83 (.engine 0) (9 + op * 2 ^ 8) none).nonceAfter op
  else if !s.licOpen op then (s.licRefuse op 13).nonceAfter op
  else (act s).licEnd.nonceAfter op

/-! ### Objects (R471, R474) -/

def licSrc (s : State) : Nat := (s.reg (ecKey LIC_SRC)).toNat
def licDst (s : State) : Nat := (s.reg (ecKey LIC_DST)).toNat

/-- An address in space 0x0 or 0x8, 64-byte aligned; in recovery only space 0x8 (log 20: the alignment of LIC_SRC). -/
def licAddrOk (s : State) (a : Nat) : Bool :=
  a % 64 == 0 && (bits a 44 4 == 8 || (bits a 44 4 == 0 && s.ready))

/-- The object at LIC_SRC: the state after reading it, and its reason for refusal, 0 where it is valid and of the TYPE. -/
def licObject (s : State) (obj : Option SignedObj) (otype : Nat) : State × Nat :=
  if !s.licAddrOk s.licSrc then (s, 8)
  else match s.imgRead s.licSrc 0 (s.fld (ecKey LIC_LEN) 0 25) with
    | (t, none) => (t, 8)
    | (t, some _) => match obj with
      | some o => (t, if s.fld (ecKey LIC_LEN) 0 25 ≠ 64 + o.body.length + 2924 then 1 else t.objReason o otype)
      | none => (t, 1)

/-- Write bytes to LIC_DST; false where the target refuses them. -/
def licWrite (s : State) (bs : List Byte) : State × Bool :=
  let a := s.licDst
  if bits a 44 4 = 8 then
    let r := s.outWrite .firmware (bits a 0 44) bs []
    (r.1, r.2 == 0)
  else
    (piecesBy 960 (bits a 0 44) bs.length).foldl (fun (q : State × Bool) p =>
      let r := q.1.carried q.1.ctlDie .firmware (bits a 0 44 + p.1) p.2 true id fun t =>
        t.gddrWriteNow .firmware (bits a 0 44 + p.1) ((bs.drop p.1).take p.2) []
      (r.1, q.2 && r.2 == 0)) (s, true)

/-! ### Licences (R476, R477) -/

/-- Features of a licence come into force (R477): lanes port by port, the 4-bit rate once no job is held, the tier at the next
100 ms interval. -/
def applyFeatures (s : State) (f : Nat) : State :=
  let s1 := if bit f 0 then (s.setFld (ecKey LIC_STAT) 0 1 1).licRetrain else s
  let s2 := if bit f 1 ∧ s1.fld (ecKey LIC_STAT) 1 1 = 0 then s1.setFld (ecKey LIC_STAT) 3 1 1 else s1
  if bit f 2 then s2.setFld (ecKey LIC_STAT) 2 1 1 else s2

/-- The 4-bit double rate takes effect when no job is held. -/
def w4Apply (s : State) : State :=
  if s.fld (ecKey LIC_STAT) 3 1 = 1 ∧ s.jobs = [] then (s.setFld (ecKey LIC_STAT) 3 1 0).setFld (ecKey LIC_STAT) 1 1 1 else s

/-- A licence body: FEATURES with its reserved bits zero, and 64 bytes. -/
def licBodyOk (b : List Byte) : Bool := b.length == 64 && ofLe (b.take 4) < 8 && (b.drop 16).all (· == 0)

/-- OP 1. -/
def installLicence (s : State) (obj : Option SignedObj) : State :=
  s.licRun 1 fun s =>
    let r := s.licObject obj 2
    match obj with
    | some o =>
      let l : Licence := { lseq := ofLe ((o.body.drop 4).take 4), features := ofLe (o.body.take 4), bytes := objBytes o, valid := true }
      if r.2 ≠ 0 then r.1.licRefuse 1 r.2
      else if !licBodyOk o.body then r.1.licRefuse 1 1
      else if r.1.flash.licences.any fun h => h.lseq == l.lseq then r.1.licRes 2 0
      else if 16 ≤ r.1.flash.licences.length then r.1.licRefuse 1 12
      else if !r.1.flash.dev0 && !r.1.flash.dev1 then r.1.licRefuse 1 11
      else
        let s1 := { r.1 with flash := { r.1.flash with licences := r.1.flash.licences ++ [l] } }
        (((s1.applyFeatures l.features).licCount).w4Apply).licRes 2 0
    | none => r.1.licRefuse 1 r.2

/-! ### Firmware (R475) -/

/-- OP 4: into the slot that does not run, in both devices; `ok` says that each copy reads back and verifies. -/
def installFirmware (s : State) (obj : Option SignedObj) (ok : Bool) : State :=
  s.licRun 4 fun s =>
    let r := s.licObject obj 1
    match obj with
    | some o =>
      if r.2 ≠ 0 then r.1.licRefuse 4 r.2
      else if !ok || (!r.1.flash.dev0 && !r.1.flash.dev1) then r.1.licRefuse 4 11
      else
        let n := 1 - r.1.fld (ecKey BOOT_STAT) 11 1
        let x : FwSlot := { okA := r.1.flash.dev0, okB := r.1.flash.dev1, svn := o.svn, body := objBytes o }
        ({ r.1 with flash := { setSlot r.1.flash n x with active := n } }).licRes 2 0
    | none => r.1.licRefuse 4 r.2

/-! ### Attestation (R479, R480) -/

/-- The 320-byte body of a report. -/
def reportBody (s : State) : List Byte :=
  let n := s.fld (ecKey BOOT_STAT) 11 1
  let run := slotOf s.flash n
  let other := slotOf s.flash (1 - n)
  let ok := other.okA || other.okB
  let pn := match s.part with | .dz8200 => 0x8200 | .dz4200 => 0x4200 | .dz2200 => 0x2200
  (List.range 8).flatMap (fun k => toLe 4 (s.fld (ecKey (LIC_ANON + 4 * k)) 0 32)) ++ toLe 8 Config.serial.toNat ++ toLe 2 pn ++ toLe 2 0 ++
    toLe 4 s.flash.bootseq ++ toLe 8 s.facility ++ toLe 4 run.svn ++ toLe 4 (n + if ok then 2 else 0) ++
    sha384 run.body ++ (if ok then sha384 other.body else List.replicate 48 0) ++ sha384 s.flash.configSet ++
    s.boot.rmapHash ++ sha384 ((s.flash.licences.filter (·.valid)).flatMap (·.bytes)) ++ toLe 4 (s.fld (ecKey LIC_STAT) 0 3) ++
    toLe 4 s.canvasWord ++ toLe 4 (s.fld (ecKey BOOT_DIE_STATE) 0 16)

/-- A report's header and body. -/
def reportBytes (s : State) : List Byte :=
  let b := s.reportBody
  toLe 4 0x4F535A44 ++ toLe 2 4 ++ toLe 2 0xFF ++ toLe 4 b.length ++ toLe 4 0 ++ toLe 8 Config.serial.toNat ++ List.replicate 16 0 ++
    toLe 4 1 ++ List.replicate 20 0 ++ b

/-- OP 3: leaf q is used only once q + 1 is written. -/
def attest (s : State) : State :=
  s.licRun 3 fun s =>
    let q := s.flash.lmsQ
    if !s.licAddrOk s.licDst then s.licRefuse 3 8
    else if lmsLeaves ≤ q then s.licRefuse 3 10
    else if !s.flash.dev0 && !s.flash.dev1 then s.licRefuse 3 11
    else
      let s1 := ({ s with flash := { s.flash with lmsQ := q + 1 } } : State).ctrWrite
      let r := s1.licWrite (s1.reportBytes ++ Config.sign q s1.reportBytes)
      if r.2 then r.1.licRes 2 0 else r.1.licRefuse 3 8

/-- OP 5. -/
def certificate (s : State) : State :=
  s.licRun 5 fun s =>
    if !s.licAddrOk s.licDst then s.licRefuse 5 8
    else
      let r := s.licWrite Config.certificate
      if r.2 then r.1.licRes 2 0 else r.1.licRefuse 5 8

/-! ### Service commands (R478) -/

def curNonce (s : State) : BitVec 128 := Config.nonce s.flash.nonces

/-- OP 2 with the command number `cmd`: the object is judged, the command acts or is refused with the reason `why` gives, and a fresh
nonce is drawn in every case. -/
def service (s : State) (obj : Option SignedObj) (cmd : Nat) (why : State → Nat) (act : State → State) : State :=
  s.licRun 2 fun s =>
    let r := s.licObject obj 3
    (match obj with
    | some o =>
      if r.2 ≠ 0 then r.1.licRefuse 2 r.2
      else if o.nonce ≠ s.curNonce then r.1.licRefuse 2 6
      else if ofLe (o.body.take 4) ≠ cmd then r.1.licRefuse 2 1
      else if why r.1 ≠ 0 then r.1.licRefuse 2 (why r.1)
      else (act r.1).licRes 2 0
    | none => r.1.licRefuse 2 r.2)

/-- Reason 11 while no flash device is in service. -/
def flashWhy (s : State) : Nat := if !s.flash.dev0 && !s.flash.dev1 then 11 else 0

/-- CMD 1: whether a named index is one of the die's entries with STATE 0, and what is removed. -/
def removeWhy (s : State) (die : Nat) (idxs : List Nat) : Nat :=
  if idxs.contains 0xFFFF then s.flashWhy
  else if idxs.any fun i => match s.flash.rmap[i]? with | some e => e.state != 0 | none => false then 9
  else if idxs.any (fun i => match s.flash.rmap[i]? with | some e => e.die != die | none => true) || Nat.ble 65 idxs.length then 1
  else s.flashWhy

def removeEntries (s : State) (die : Nat) (idxs : List Nat) : State :=
  let gone := fun (e : RmapEntry × Nat) =>
    if idxs.contains 0xFFFF then e.1.die == die && e.1.state == 0 else idxs.contains e.2
  let left := (s.flash.rmap.zipIdx.filter fun e => !gone e).map (·.1)
  { s with flash := { s.flash with rmap := left, rmapDone := left } }

/-- CMD 2: the journal is cleared with its counters, and one KIND 4 entry with the time is left, whatever the buffer holds (R448, R451). -/
def clearBbox (s : State) : State :=
  let s1 := { s with
    err := { s.err with bbox := [], wrapped := false },
    flash := { s.flash with ctrs := s.flash.ctrs.take 3 ++ List.replicate 4 [0] } }
  ((s1.setReg (ecKey BBOX_CNT_CC) 0).setReg (ecKey BBOX_CNT_ES) 0).stageOne 4 (toLe 8 s.facility)

/-- CMD 3: keys named by the mask; an unwrap that fails leaves nothing installed. -/
def installKeys (s : State) (keys : List (Option (List Byte))) : State :=
  let pick := fun i => match (keys[i]?).getD none with
    | some k => some k
    | none => (s.band.keys[i]?).getD none
  s.setBand { s.band with keys := [pick 0, pick 1] }

/-- CMD 4. -/
def removeLicence (s : State) (lseq : Nat) : State :=
  ({ s with flash := { s.flash with licences := s.flash.licences.filter fun l => l.lseq != lseq } }).licCount

/-- CMD 7: SVN_MIN becomes the running firmware's SVN, on both secret-holding dies. -/
def raiseSvn (s : State) : State :=
  let v := max s.flash.svnMin (bits (slotOf s.flash (s.fld (ecKey BOOT_STAT) 11 1)).svn 0 16)
  (({ s with flash := { s.flash with svnMin := v } }).setFld (dieKey 0 FUSE_SVN) 0 16 v).setFld (dieKey s.part.standby FUSE_SVN) 0 16 v

end State

/-! ### Commands -/

/-- LIC_INSTALL_LICENCE (R476, R477, R484). -/
def execLicInstallLicence (obj : Option SignedObj) (fates : List Fate) (s : State) : Res :=
  .next (s.withFates fates fun s => s.installLicence obj)

/-- LIC_ATTEST (R479, R480). -/
def execLicAttest (s : State) : Res := .next s.attest

/-- LIC_INSTALL_FIRMWARE (R474, R475). -/
def execLicInstallFirmware (obj : Option SignedObj) (ok : Bool) (fates : List Fate) (s : State) : Res :=
  .next (s.withFates fates fun s => s.installFirmware obj ok)

/-- LIC_READ_CERTIFICATE (R479). -/
def execLicReadCertificate (s : State) : Res := .next s.certificate

/-- SVC_REMOVE_REPAIR_ENTRIES (R478 CMD 1). -/
def execSvcRemoveRepairEntries (obj : Option SignedObj) (die : Nat) (idxs : List Nat) (fates : List Fate) (s : State) : Res :=
  .next (s.withFates fates fun s => s.service obj 1 (fun t => t.removeWhy die idxs) fun t => t.removeEntries die idxs)

/-- SVC_CLEAR_BLACK_BOX (R448, R478 CMD 2). -/
def execSvcClearBlackBox (obj : Option SignedObj) (fates : List Fate) (s : State) : Res :=
  .next (s.withFates fates fun s => s.service obj 2 State.flashWhy State.clearBbox)

/-- SVC_INSTALL_RACK_KEYS (R478 CMD 3). -/
def execSvcInstallRackKeys (obj : Option SignedObj) (keys : List (Option (List Byte))) (fates : List Fate) (s : State) : Res :=
  .next (s.withFates fates fun s => s.service obj 3 State.flashWhy fun t => t.installKeys keys)

/-- SVC_REMOVE_LICENCE (R478 CMD 4). -/
def execSvcRemoveLicence (obj : Option SignedObj) (lseq : Nat) (fates : List Fate) (s : State) : Res :=
  .next (s.withFates fates fun s => s.service obj 4 State.flashWhy fun t => t.removeLicence lseq)

/-- SVC_REPLACE_CONFIG (R478 CMD 5): used at the next start. -/
def execSvcReplaceConfig (obj : Option SignedObj) (cfg : List Byte) (fates : List Fate) (s : State) : Res :=
  .next (s.withFates fates fun s => s.service obj 5 State.flashWhy fun t => { t with flash := { t.flash with configSet := cfg } })

/-- SVC_SELECT_FIRMWARE_SLOT (R478 CMD 6): used at the next start. -/
def execSvcSelectFirmwareSlot (obj : Option SignedObj) (slot : Nat) (fates : List Fate) (s : State) : Res :=
  .next (s.withFates fates fun s => s.service obj 6 State.flashWhy fun t => { t with flash := { t.flash with active := slot % 2 } })

/-- SVC_RAISE_MIN_SVN (R478 CMD 7). -/
def execSvcRaiseMinSvn (obj : Option SignedObj) (fates : List Fate) (s : State) : Res :=
  .next (s.withFates fates fun s => s.service obj 7 (fun _ => 0) State.raiseSvn)

/-- W4_RATE_APPLY (R477). -/
def execW4RateApply (s : State) : Res := .next s.w4Apply

end Sys2Proof.Machine
end

