-- ==== Sys2Proof/Machine/Stop.lean ====
section
/-! DEFINITION. Coolant and thermal stops, the restart after them (R390, R391, R495), the reset pin and power-on (R338, R506, R507),
failed substrate regulators (R347), abandoned turn-ons (R359), and the boundary-scan TAPs (R500). -/

namespace Sys2Proof.Machine

namespace State

/-- Every record on its way reaches the engine controller, and every staged entry is committed. -/
def drainRecs (s : State) : Nat → State
  | 0 => s
  | n + 1 => State.drainRecs s.recordArrive n

def commitAll (s : State) : State :=
  let t := s.drainRecs s.err.recQ.length
  t.commitStaged t.err.staged.length

/-! ### Stops (R390) -/

/-- GDDR7 devices lose power. -/
def gddrOff (s : State) : State :=
  (List.range (12 * s.part.dies)).foldl (fun t i => t.setFld (memKey (i / 12) (i % 12) MEM_STAT) 0 3 0) s

/-- A region has been at or above TH_STOP for 10 ms (R388, R389). -/
def hot (s : State) (r : Nat) : Bool := match (s.region r).stopSince with | some t => decide (t + 10000000 ≤ s.now) | none => false

/-- The stop causes that hold now: coolant (1) before heat (2) (R392). -/
def stopCauses (s : State) : List Nat :=
  (if s.band.coolantOk then [] else [1]) ++ (if (List.range (s.part.dies * 64)).any s.hot then [2] else [])

/-- A stop for coolant (1) or heat (2): fault notices, an EVENT frame, rails and memory off, jobs lost, the record committed. The
engine is not ready until it restarts. -/
def stop (s : State) (reason : Nat) : State :=
  let s1 := (s.setBand { s.band with stopDue := none }).faultNotices.sendEvent reason
  let s2 := (((s1.balOff s1.band.nbal.length).allOff).gddrOff).loseJobs.zeroS
  let s3 := s2.setBand { s2.band with stopped := true, stopCause := reason, stopSeen := s.stopCauses, throttle := 0 }
  let s4 := (((s3.setFld (ecKey BOOT_STAT) 4 1 0).setFld (ecKey BOOT_STAT) 0 4 0).setBoot { s3.boot with restartDue := none })
  (s4.raise 0x7C (.module 0) reason none).commitAll

/-- A stop is possible: the engine is supplied, not stopped, and not in the part of a cold start before its rails turn on. -/
def stoppable (s : State) : Bool :=
  !s.boot.off && !s.boot.modRst && !s.band.stopped && !(s.boot.kind == 1 && (s.phase == 1 || s.phase == 2))

/-- A stop cause arrives (R390, R392): the stop starts at the end of the 1 µs tick, as coolant loss where both causes came in it; in a
stopped engine a cause not yet recorded makes a further record. -/
def stopArrive (s : State) (reason : Nat) : State :=
  if s.stoppable then
    s.setBand { s.band with stopDue := match s.band.stopDue with
      | some (k, r) => some (k, min r reason)
      | none => some (s.ftick, reason) }
  else if s.band.stopped && !s.boot.off && !s.boot.modRst && !s.band.stopSeen.contains reason then
    (s.setBand { s.band with stopSeen := reason :: s.band.stopSeen }).raise 0x7C (.module 0) reason none
  else s

/-- The tick of a stop cause has ended: the stop starts, unless the input was lost in the tick (R392). -/
def stopSettle (s : State) : State :=
  match s.band.stopDue with
  | some (k, r) =>
    if s.ftick = k then s
    else if s.stoppable then s.stop r
    else s.setBand { s.band with stopDue := none }
  | none => s

/-- A region's thermal stop. -/
def thermalStop (s : State) (r : Nat) : State := if s.hot r then s.stopArrive 2 else s

/-- A deassertion of COOLANT_OK that lasted, or has lasted, so many ns (R495). -/
def coolantLow (s : State) (ns : Nat) : State :=
  if ns < 1000 then s
  else if ns < 50000 then s.setBand { s.band with coolantSince := s.now }
  else s.setBand { s.band with coolantOk := false, coolantSince := s.now }

/-- The coolant stop of a deassertion that lasted 50 µs. -/
def coolantStop (s : State) : State := if s.band.coolantOk then s else s.stopArrive 1

/-- COOLANT_OK is asserted: the 10 s count starts. -/
def coolantHigh (s : State) : State :=
  if s.band.coolantOk then s else s.setBand { s.band with coolantOk := true, coolantSince := s.now, stopSeen := s.band.stopSeen.filter fun x => x != 1 }

/-- Every region of a populated die reads below TH_CAP - 10 °C. -/
def allCool (s : State) : Bool := (List.range (s.part.dies * 64)).all fun r => decide (s.temp r < s.thCap (regionDie r) - 10)

/-- A write of BAND_RESTART.GO = 1 (R391). -/
def bandRestart (s : State) : State :=
  if !s.band.stopped || s.boot.off || s.boot.modRst then s
  else if s.coolantSteady && s.allCool then (s.setBoot { s.boot with restartCls := 0 }).beginWarm 3 0
  else s.setFld (ecKey BAND_STOP) 5 1 1

/-! ### Input, reset pin (R338, R341, R506, R507) -/

/-- The bus converters turn off. -/
def convertersOff (s : State) : State :=
  (List.range s.part.dies).foldl (fun t d => (t.setReg (dieKey d PWR_CONV) (BitVec.ofNat 64 (0xF * 2 ^ 3))).fieldOff d) s

/-- What the hold-up did not save is gone when the input returns: records on their way, staged and unsent ones, repair-map entries that
no device holds (R447, R455); JSEQ goes on from the journal. Management Ethernet starts again (R498). -/
def powerLost (s : State) : State :=
  if !s.boot.lost then s
  else
    ({ s with
      flash := s.flashBack.flash,
      err := { s.err with recQ := [], staged := [], unsent := [], ages := [], unlogged := [], mgmtUp := false, lossDue := false, lossCount := 0, lossRseq := 0 } }.setReg
        (ecKey BBOX_PEND) 0).setReg (ecKey BBOX_NEXT)
      (match s.err.bbox.getLast? with | some e => BitVec.ofNat 64 (e.jseq % 0xFFFFFFFF + 1) | none => s.reg (ecKey BBOX_NEXT))

/-- The cold-start condition of R338: an engine that is off starts, or waits for the reset pin. -/
def inputStart (s0 : State) : State :=
  if !s0.boot.off then s0
  else
    let s := s0.powerLost
    if s.boot.modRst then s.setBoot { s.boot with off := false, lost := false, modRstReq := true }
    else s.beginCold 0 0

/-- Without steady coolant within 600 s of the start of phase 1 the engine turns off (R506). -/
def coolantTimeout (s : State) : State :=
  if s.inPhase 2 && s.boot.cfgDone && !s.warm && !s.coolantSteady && Nat.ble (s.boot.startAt + 600000000000) s.now then
    let s1 := ((s.raise 0x7C (.module 0) (1 + 2 ^ 8) none).commitAll).convertersOff
    s1.setBoot { s1.boot with off := true }
  else s

/-- MOD_RST# asserted for 10 µs (R507): no record. Records on their way and pending flash writes are committed; management Ethernet ends
(R498). -/
def moduleReset (s : State) : State :=
  if s.boot.modRst then s
  else
    let s1 := (s.faultNotices.allOff).loseJobs.zeroS
    let t := s1.commitAll
    let s2 := { t with err := { t.err with mgmtUp := false } }
    (s2.setFld (ecKey BOOT_STAT) 4 1 0).setBoot { s2.boot with modRst := true, modRstReq := false, restartDue := none }

/-- MOD_RST# released: the cold start, unless the input is not there yet. -/
def resetRelease (s : State) : State :=
  if !s.boot.modRst then s
  else if s.boot.lost then s.setBoot { s.boot with modRst := false }
  else s.beginCold (if s.boot.modRstReq then 0 else 1) 0

/-! ### Substrate regulators, turn-ons (R347, R359) -/

/-- A substrate regulator's failure is that of the unit it feeds; input loss takes precedence (R341). -/
def regulatorFail (s : State) (d : Nat) (u : Feeds) : State :=
  if s.boot.off then s
  else match u with
  | .gddr n => if s.devState d n = 4 ∧ n < 12 then s.deviceFail d n 0 else s
  | .xildo p => if s.pstate d p = 2 ∨ s.pstate d p = 3 then (s.setPstate d p 3).trainDone d p 0xFF 0 0 else s
  | .hostPort => s.part.ports.foldl (fun t p => if portDie p = d then t.linkDown p else t) s
  | .dieControl => if d = s.ctlDie then (if d = s.part.standby then s else s.takeOver) else s.watchdog d

/-- A turn-on is abandoned; during a load it refuses the load with reason 19 (R356, R359). -/
def turnOnAbandon (s : State) (r : Nat) : State :=
  if !s.abandonDue r then s
  else
    let forLoad := match (s.region r).on with | some o => o.forLoad | none => false
    let s1 := (s.abandon r).powerSettle
    if forLoad && s1.load.isSome then s1.loadRefuse 19 0xFFFF 0xFFFF else s1

/-! ### Boundary scan (R500) -/

/-- A TAP loads an instruction: test modes only while MOD_RST# is asserted, and BYPASS in their place otherwise. -/
def tapLoad (s : State) (d : Nat) (t : TapInstr) : State :=
  let got := match t with
    | .extest | .clamp | .highz => if s.boot.modRst then t else .bypass
    | .other => .bypass
    | _ => t
  if d < s.part.dies then { s with tap := s.tap.set d got } else s

/-- IDCODE of a die's TAP (R500). -/
def idcode (d : Nat) : BitVec 32 :=
  BitVec.ofNat 32 ((Config.dieRevision d).toNat * 2 ^ 28 + 0x8D20 * 2 ^ 12 + Config.jedecId.toNat * 2 + 1)

/-- What the data register of a die's TAP captures: IDCODE, or the one bit of BYPASS (R499, R500, IEEE 1149.1); none for the boundary
register, whose cells are the module's contacts. -/
def tapCapture (s : State) (d : Nat) : Option (BitVec 32) :=
  match s.tap[d]? with
  | some .idcode => some (idcode d)
  | some .bypass | some .clamp | some .highz => some 0
  | _ => none

end State

/-! ### Commands -/

/-- INPUT_COLD_START_CONDITION (R338, R506). -/
def execInputColdStartCondition (s : State) : Res := .next s.inputStart

/-- SUBSTRATE_REGULATOR_FAIL (R347). -/
def execSubstrateRegulatorFail (d : Nat) (u : Feeds) (s : State) : Res := .next (s.regulatorFail d u)

/-- TURN_ON_ABANDON (R359). -/
def execTurnOnAbandon (d rx ry : Nat) (s : State) : Res := .next (s.turnOnAbandon (regionAt d rx ry))

/-- THERMAL_STOP (R388-R390). -/
def execThermalStop (d rx ry : Nat) (s : State) : Res := .next (s.thermalStop (regionAt d rx ry))

/-- COOLANT_DEASSERT (R495). -/
def execCoolantDeassert (ns : Nat) (s : State) : Res := .next (s.coolantLow ns)

/-- COOLANT_STOP (R390). -/
def execCoolantStop (s : State) : Res := .next s.coolantStop

/-- COOLANT_ASSERT (R391). -/
def execCoolantAssert (s : State) : Res := .next s.coolantHigh

/-- BAND_RESTART (R391). -/
def execBandRestart (s : State) : Res := .next s.bandRestart

/-- STARTUP_COOLANT_TIMEOUT (R506). -/
def execStartupCoolantTimeout (s : State) : Res := .next s.coolantTimeout

/-- MODULE_RESET (R507). -/
def execModuleReset (s : State) : Res := .next s.moduleReset

/-- MODULE_RESET_RELEASE (R459, R507). -/
def execModuleResetRelease (s : State) : Res := .next s.resetRelease

/-- TAP_INSTRUCTION (R500). -/
def execTapInstruction (d : Nat) (t : TapInstr) (s : State) : Res := .next (s.tapLoad d t)

end Sys2Proof.Machine
end

