-- ==== Sys2Proof/Machine/Access.lean ====
section
/-! DEFINITION. Register access: how a requester reads and writes the registers of a cell, a die and engine control (R12-R16,
R38-R42), the halves of a 64-bit register (R13), which registers show what the units hold, and what a write sets in motion. -/

namespace Sys2Proof.Machine

/-! ### Keys -/

/-- The port whose PCIE block a die holds. -/
def Part.portOf (p : Part) (d : Nat) : Option Nat := p.ports.find? fun n => portDie n == d

/-- The register row at a key, with whether the key names the high word; none where no register lies there (R15, R41). -/
def rowAt (p : Part) (k : Nat) : Option (RegRow × Bool) :=
  if 1 ≤ keyUnit k ∧ keyUnit k < 16 ∧ keyOff k / 0x10000 = 6 ∧ (p.portOf (keyUnit k - 1)).isNone then none
  else findRow (unitRows (keyUnit k)) (keyOff k)

/-! ### What a write stores (R14) -/

/-- Smallest and largest value a field stores, by kind of unit (0 engine, 1 die, 2 cell), row offset and lowest bit; a value
outside them is stored as the nearer one. -/
structure Clamp where
  kind : Nat
  off : Nat
  lo : Nat
  least : Nat
  most : Nat
deriving DecidableEq, Repr

def clamps : List Clamp := [
  ⟨2, MXE_WDOG, 0, 10, 24⟩, ⟨2, SPM_SCRUB_RATE, 0, 100, 0xFFFF⟩, ⟨2, SPM_BENG_SIG, 8, 1, 255⟩, ⟨2, RTR_LINK_CFG, 0, 1, 15⟩,
  ⟨2, RTR_MC_WDOG, 0, 10, 24⟩, ⟨2, RTR_TX_SIG, 8, 1, 255⟩, ⟨2, SYNC_WDOG, 0, 1, 0xFFFFFF⟩,
  ⟨1, MEM_SCRUB_RATE, 0, 30, 0xFFFF⟩, ⟨1, FAB_PCFG, 4, 0, 2⟩, ⟨1, FAB_PTIME, 0, 1, 0xFFFF⟩, ⟨1, FAB_PTIME, 16, 60, 0xFFFF⟩,
  ⟨1, PCIE_EVQ_SIZE, 0, 6, 16⟩, ⟨1, PCIE_CPL_TO, 0, 1, 0xFFFF⟩, ⟨1, PWR_STAGE_CFG, 0, 12, 255⟩, ⟨1, PWR_STAGE_CFG, 8, 50, 100⟩,
  ⟨1, PWR_STAGE_CFG, 16, 1, 255⟩, ⟨1, PWR_STAGE_CFG, 24, 5, 255⟩, ⟨1, TEMP_CFG, 0, 70, 100⟩, ⟨1, CLK_THR, 8, 0, 8⟩,
  ⟨1, CLK_DCFG, 0, 20, 60⟩, ⟨1, CLK_DCFG, 8, 1, 255⟩, ⟨0, TIME_CFG, 0, 0, 2⟩, ⟨0, TIME_CFG, 16, 1, 255⟩,
  ⟨0, RAMP_RATE, 0, 100, 30000⟩, ⟨0, BAND_CTRL, 1, 2, 20⟩, ⟨0, BAND_CTRL, 16, 1, 0xFFFF⟩, ⟨0, BAND_AVG, 24, 1, 60⟩]

def keyKind (k : Nat) : Nat := if keyUnit k = 0 then 0 else if keyUnit k < 16 then 1 else 2

/-- A field's value clamped by its Meaning. -/
def clampField (kind off lo v : Nat) : Nat :=
  match clamps.find? fun c => c.kind == kind && c.off == off && c.lo == lo with
  | some c => min c.most (max c.least v)
  | none => v

/-- Bits of a stored address that read 0, by kind and row (R311, R336). -/
def alignBits (kind off : Nat) : Nat :=
  if kind ≠ 1 then 0
  else if off = PCIE_EVQ_BASE ∨ off = PCIE_RING_BASE then 12
  else if off = PCIE_RING_CI_ADDR then 3
  else if off = FAB_QCFG4 ∨ off = FAB_QCFG5 then 5
  else 0

/-- A field after a write of `v` over `old` (R14); `lock` is boot lock. -/
def fieldAfter (kind off : Nat) (lock : Bool) (f : Fld) (old v : Nat) : Nat :=
  match f.acc with
  | .rw => clampField kind off f.lo v
  | .ro => old
  | .w1c => old ^^^ (old &&& v)
  | .wo => 0
  | .rwl => if lock then old else v

/-- A register after a write of `v` over `old`. -/
def regAfter (kind : Nat) (r : RegRow) (lock : Bool) (old v : Nat) : Nat :=
  let n := (r.fields.map fun (f : Fld) => fieldAfter kind r.off lock f (bits old f.lo f.w) (bits v f.lo f.w) % 2 ^ f.w * 2 ^ f.lo).sum
  n / 2 ^ alignBits kind r.off * 2 ^ alignBits kind r.off

namespace State

def locked? (s : State) : Bool := s.fld (ecKey BOOT_STAT) 5 1 == 1

/-- The plain effect of a write to a register of row `r` at key `k`: a W1C bit that hardware set in this slot stays set (R16), and a
register whose fields are all RO ignores the write (R14). -/
def storeReg (s : State) (k : Nat) (r : RegRow) (v ga : Nat) : State :=
  let kept := fun b n => if s.w1cSet.contains (k, b) && !bit n b then n + 2 ^ b else n
  let v0 := regAfter (keyKind k) r s.locked? (s.reg k).toNat v
  let v1 := if r.fields.any (fun f => decide (f.acc = .w1c)) then (List.range 64).foldl (fun n b => kept b n) v0 else v0
  let s0 := if r.fields.any (fun f => decide (f.acc = .rw ∨ f.acc = .rwl)) then s.noteWrite k else s
  let s1 := s0.setReg k (BitVec.ofNat 64 v1)
  if s.locked? && r.fields.any (fun f => decide (f.acc = .rwl)) then s1.lockedWrite k ga else s1

/-! ### Registers that show what units hold -/

/-- RTR_XY: zero until the die controller has loaded it from the canvas (R223, R225). -/
def rtrXY (s : State) (c : Nat) : Nat :=
  if !s.canvasValid then 0
  else (match s.logicalOf c with | some (x, y) => x + y * 2 ^ 8 + 2 ^ 15 | none => 0) + (if s.isHole c then 2 ^ 16 else 0) +
    cellDie c * 2 ^ 17 + cellPx c * 2 ^ 20 + cellPy c * 2 ^ 26

/-- RTR_SKIP_N, RTR_SKIP_SELF or RTR_SKIP_S for row `py` of die `d`: its skip positions once it is in the canvas (R51). -/
def skipWord (s : State) (row : Option (Nat × Nat)) : Nat :=
  match row with
  | some (d, py) => if s.canvasValid ∧ s.dieState d = 1 then s.skipA d py + s.skipB d py * 2 ^ 8 + 2 ^ 16 else 46 + 47 * 2 ^ 8
  | none => 46 + 47 * 2 ^ 8

/-- The physical row north (`south` false) or south of a cell's. -/
def rowBeside (s : State) (c : Nat) (south : Bool) : Option (Nat × Nat) :=
  let d := cellDie c
  let py := cellPy c
  if south then (if py < 47 then some (d, py + 1) else (s.dieBeside d 2).map fun e => (e, 0))
  else if 0 < py then some (d, py - 1) else (s.dieBeside d 0).map fun e => (e, 47)

/-- RTR_DIE_ROUTE: zero until it is loaded from the canvas. -/
def dieRoute (s : State) (c : Nat) : Nat :=
  if !s.canvasValid then 0 else
  ((List.range 8).map fun t => (match s.dieDir (cellDie c) t with | some dir => dir | none => 0) * 2 ^ (2 * t)).sum

/-- SYNC_WAIT_STAT. -/
def waitStat (s : State) (c : Nat) : Nat :=
  let one := fun (w : Option WaitSt) => match w with | some x => 1 + x.ctr * 2 | none => 0
  one (s.cell c).head.wait + one (s.cell c).tail.wait * 2 ^ 7

/-- HEAD_STAT or TAIL_STAT: STATE is 4 while the cell holds a running core (R144, R182). -/
def coreStat (s : State) (c : Nat) (k : CoreSel) : Nat :=
  let x := s.core c k
  (if x.st = 1 ∧ s.isHeld c then 4 else x.st) + (if x.mb.isEmpty then 8 else 0)

/-- ERR_TT. -/
def ttStat (s : State) (c : Nat) : Nat :=
  let x := s.cell c
  (match x.running with | some t => 1 + t.unit * 2 ^ 4 | none => s.fld (cellKey c ERR_TT) 0 7) + x.tests.length * 2 ^ 7

/-- Bits of a staged command register that its table marks Reserved: they read as zero, and a push refuses them (R15, R177, R209). -/
def stagedBits (o : Nat) : Option Nat :=
  if o = SPM_BENG_SRC ∨ o = SPM_BENG_DST ∨ o = RTR_TX_SRC then some 21
  else if o = SPM_BENG_LEN ∨ o = RTR_TX_RECT then some 15
  else if o = SPM_BENG_SIG then some 17
  else if o = RTR_TX_DHI ∨ o = RTR_TX_LEN then some 16
  else if o = RTR_TX_SIG then some 26
  else none

/-- A computed register of a cell; none where the register holds its own value. -/
def cellShows (s : State) (c o : Nat) : Option Nat :=
  let held := (s.reg (cellKey c o)).toNat
  let r := cellRegion c
  let x := s.cell c
  if o = MXE_QSTAT then some (s.qstat c)
  else if o = MXE_PASS_SEQ then some ((s.mxe c).seq % 2 ^ 32)
  else if o = MXE_RPL_STAT then some (s.rplStat c)
  else if o = SPM_BENG_STAT then some (bits held 4 28 * 2 ^ 4 + x.beng.length + (if x.beng.any (·.running) then 8 else 0))
  else if o = RTR_TX_STAT then some (bits held 4 28 * 2 ^ 4 + x.tx.length + (if x.tx.isEmpty then 0 else 8))
  else if o = RTR_XY then some (s.rtrXY c)
  else if o = RTR_SKIP_N then some (s.skipWord (s.rowBeside c false))
  else if o = RTR_SKIP_SELF then some (s.skipWord (some (cellDie c, cellPy c)))
  else if o = RTR_SKIP_S then some (s.skipWord (s.rowBeside c true))
  else if o = RTR_DIE_ROUTE then some (s.dieRoute c)
  else if o = RTR_LINK_STAT then some (bits held 0 12 + (if s.passMode c then 2 ^ 12 else 0))
  else if SYNC_WAIT ≤ o ∧ o < SYNC_WAIT + 192 then
    some (s.count c ((o - SYNC_WAIT) / 4) + s.epoch c ((o - SYNC_WAIT) / 4) * 2 ^ 20)
  else if o = SYNC_WAIT_STAT then some (s.waitStat c)
  else if o = HEAD_STAT then some (s.coreStat c .head)
  else if o = HEAD_STAT + 0x1000 then some (s.coreStat c .tail)
  else if o = HEAD_PC then some x.head.pc.toNat
  else if o = HEAD_PC + 0x1000 then some x.tail.pc.toNat
  else if o = HEAD_IMEM_STAT then some (bits held 1 3 * 2 + (if x.head.imem.isSome then 1 else 0))
  else if o = HEAD_IMEM_STAT + 0x1000 then some (bits held 1 3 * 2 + (if x.tail.imem.isSome then 1 else 0))
  else if o = ERR_STAT then some (bits held 0 9 + (if s.isHole c then 2 ^ 9 else 0))
  else if o = ERR_TT then some (s.ttStat c)
  else if o = PWR_CELL_STAT then
    some ((s.region r).st + s.vset r * 2 ^ 4 + (if (s.region r).sliceCap then 2 ^ 10 else 0) + regionRx r * 2 ^ 11 + regionRy r * 2 ^ 14)
  else if o = PWR_CELL_EST then some (min ((s.region r).ic / 10) 0xFFFF + min ((s.region r).ir / 10) 0xFFFF * 2 ^ 16)
  else if o = PWR_CELL_TEMP then some (s.fld (regionKey TEMP_R r) 0 8 + s.pulseCount r * 2 ^ 8)
  else if o = PWR_CELL_BAL then some ((s.mxe c).balRows % 2 ^ 32)
  else (stagedBits o).map fun n => bits held 0 n

/-- The context that FAB_QSEL of a die selects. -/
def selCtx (s : State) (d : Nat) : Nat := d * 8192 + s.fld (dieKey d FAB_QSEL) 0 13

/-- The ring that PCIE_RING_SEL of a port selects. -/
def selRing (s : State) (p : Nat) : Nat := s.fld (pcieKey p PCIE_RING_SEL) 0 8

/-- PCIE_DMA_STATc: the ring whose DMA entry the channel runs. -/
def dmaStat (s : State) (p ch : Nat) : Nat :=
  match (List.range 256).find? fun n =>
    let r := s.ring p n
    r.chan == ch && r.dma with
  | some n => 1 + n * 2
  | none => 0

/-- A computed register of a die. -/
def dieShows (s : State) (d o : Nat) : Option Nat :=
  let held := (s.reg (dieKey d o)).toNat
  let x := s.ctx (s.selCtx d)
  if o = FAB_QCFG0 then some (x.state + x.port * 2 ^ 2 + x.outstanding * 2 ^ 4 + x.job * 2 ^ 16)
  else if o = FAB_QCFG1 then some (x.peerEngine + x.peerQueue * 2 ^ 16)
  else if o = FAB_QCFG2 then some (bits x.dmac.toNat 0 32)
  else if o = FAB_QCFG3 then some (bits x.dmac.toNat 32 16)
  else if o = FAB_QCFG4 then some x.winBase
  else if o = FAB_QCFG5 then some x.winLen
  else if o = FAB_QSTAT then some (x.inflight + x.cause * 2 ^ 7)
  else if FAB_PSTAT ≤ o ∧ o < FAB_PSTAT + 0xC0 ∧ (o - FAB_PSTAT) % 0x40 = 0 then
    some (bits held 0 18 + s.fld (ecKey LIC_STAT) 0 1 * 2 ^ 18)
  else if o = FAB_SUBMIT_STAT then some (bits held 10 4 * 2 ^ 10 + min 512 (s.fabQ.countP fun q => q.1 == d))
  else if o = FAB_TAG_STAT then some (s.tags.countP fun e => e.1 / 65536 == d && e.2.cmd.isSome)
  else if PWR_RSTATE ≤ o ∧ o < PWR_RSTATE + 32 then
    some ((List.range 8).map fun rx => (s.region (regionAt d rx ((o - PWR_RSTATE) / 4))).st * 2 ^ (4 * rx)).sum
  else if o = CLK_THR then some (bits held 0 12 + s.levelOf d * 2 ^ 12)
  else if CLK_R ≤ o ∧ o < CLK_R + 256 then some (s.clkR (d * 64 + (o - CLK_R) / 4))
  else match s.part.portOf d with
    | none => none
    | some p =>
      let r := s.ring p (s.selRing p)
      if o = PCIE_RING_BASE then some r.base
      else if o = PCIE_RING_CFG then some (r.log2 + r.chan * 2 ^ 4 + (if r.en then 2 ^ 8 else 0) + (if r.irqEn then 2 ^ 9 else 0))
      else if o = PCIE_RING_CI_ADDR then some r.ciAddr
      else if o = PCIE_RING_STAT then some (r.ci + (if r.stopped then 2 ^ 16 else 0) + r.cause * 2 ^ 17)
      else if PCIE_DMA_STAT ≤ o ∧ o < PCIE_DMA_STAT + 64 then some (s.dmaStat p ((o - PCIE_DMA_STAT) / 4))
      else if o = PCIE_EVQ_STAT then some (bits held 0 16 + (if s.evqRoom p then 0 else 2 ^ 16))
      else none

/-- Holes as BOOT_HOLE_DATA lists them: by y, then x. -/
def holeList (s : State) : List (Nat × Nat) :=
  let xs := s.boot.holes.filterMap s.logicalOf
  (sortBy id (xs.map fun (p : Nat × Nat) => p.2 * 256 + p.1)).map fun n => (n % 256, n / 256)

/-- The black-box entry that BBOX_SEL names, while it is held (R449). -/
def selEntry (s : State) : Option JEntry := s.bboxEntry (s.fld (ecKey BBOX_SEL) 0 32)

/-- TIME_STAT. -/
def timeStat (s : State) : Nat :=
  let t := s.time
  t.state + (if t.lastPps ≠ 0 ∧ s.now + 1 ≤ t.lastPps + 1500000000 then 8 else 0) + (if t.refOk then 16 else 0) +
    s.fld (ecKey TIME_STAT) 16 16 * 2 ^ 16

/-- RAMP_STAT. -/
def rampStat (s : State) : Nat :=
  let b := s.band
  (if b.s ≠ uW s.rampTarget then 1 else 0) + (if s.inWindow then 2 else 0) + b.windows.length * 2 ^ 2 + (if b.orphan then 2 ^ 6 else 0)

/-- BAND_STOP. -/
def stopStat (s : State) : Nat :=
  let b := s.band
  (if b.stopped then 1 else 0) + b.stopCause * 2 + (if b.coolantOk then 8 else 0) + (if s.coolantSteady then 16 else 0) +
    s.fld (ecKey BAND_STOP) 5 1 * 2 ^ 5

/-- The job a selector register names. -/
def selJob (s : State) (o : Nat) : Option Job := s.job? (s.fld (ecKey o) 0 16)

/-- A computed register of engine control. -/
def engShows (s : State) (o : Nat) : Option Nat :=
  let held := (s.reg (ecKey o)).toNat
  let b := s.band
  let win := b.windows[s.fld (ecKey RAMP_WSEL) 0 3]?
  if o = BOOT_CANVAS then some s.canvasWord
  else if o = BOOT_HOLE_COUNT then some s.holeList.length
  else if o = BOOT_HOLE_DATA then
    some (match s.holeList[s.fld (ecKey BOOT_HOLE_IDX) 0 16]? with | some (x, y) => x + y * 2 ^ 8 + 2 ^ 16 | none => 0)
  else if o = BOOT_JOB_STAT then
    some (match s.selJob BOOT_JOB_SEL with | some j => j.state + (s.panels.countP fun p => p.job == j.id) * 2 ^ 16 | none => 0)
  else if o = BOOT_JOB_COUNT then some s.jobs.length
  else if o = STEP_JOB_NUM then some (match s.selJob STEP_SEL with | some j => j.step.toNat | none => 0)
  else if o = TIME_NOW then some (s.facility % 2 ^ 64)
  else if o = TIME_STAT then some s.timeStat
  else if o = RAMP_SP then some (b.s / 1000)
  else if o = RAMP_TARGET then some s.rampTarget
  else if o = RAMP_BUDGET then some b.b
  else if o = RAMP_STAT then some s.rampStat
  else if o = RAMP_WSTART then some (match win with | some w => w.start | none => 0)
  else if o = RAMP_WLEN then some (match win with | some w => w.len | none => 0)
  else if o = RAMP_WID then some (match win with | some w => w.wid + 2 ^ 16 | none => 0)
  else if o = BAND_STAT then some (bits held 0 3 + b.throttle * 2 ^ 3 + b.nbal.length * 2 ^ 7)
  else if o = BAND_BUS_STAT then
    some (min ((s.now - b.heard) / 1000000) 0xFFFF + bits held 16 8 * 2 ^ 16 + (if s.keyIn 0 then 2 ^ 24 else 0) + (if s.keyIn 1 then 2 ^ 25 else 0))
  else if o = BAND_STOP then some s.stopStat
  else if o = BBOX_STAT then
    some ((if s.flash.dev0 then 1 else 0) + (if s.flash.dev1 then 2 else 0) + (if s.err.wrapped then 4 else 0) + (if s.err.staged.isEmpty then 0 else 8))
  else if o = BBOX_PEND then some (min s.err.staged.length 4096 + bits held 16 16 * 2 ^ 16)
  else if o = BBOX_FIRST then some (match s.err.bbox with | e :: _ => e.jseq | [] => 0)
  else if o = BBOX_SEL_STAT then
    some (match s.selEntry with | some e => 1 + (if !(e.okA && s.flash.dev0) && e.raw.isNone then 2 else 0) + (if e.raw.isSome then 4 else 0) | none => 0)
  else if o = BBOX_RSEQ then some s.flash.rseq
  else if BBOX_DATA ≤ o ∧ o < BBOX_DATA + 64 then
    some (match s.selEntry with | some e => rfield (jBytes e) (o - BBOX_DATA) 4 | none => 0)
  else if o = BBOX_COV then some (min s.overdue.length 0xFFFF + (if s.timeBasis then 2 ^ 16 else 0))
  else if o = BBOX_COV_DATA then
    some (match s.overdue[s.fld (ecKey BBOX_COV_IDX) 0 16]? with
      | some (x, y) => x + y * 2 ^ 8 + 2 ^ 16 +
          (match (s.physicalOf x y).bind fun c => s.job? (s.jobOf c) with | some j => if j.testslot then 0 else 2 ^ 17 | none => 0)
      | none => 0)
  else if o = BOOT_SEQ then some (s.flash.bootseq % 2 ^ 24)
  else if o = BOOT_FW_STAT then
    some ((if s.flash.slotA.okA || s.flash.slotA.okB then 1 else 0) + (if s.flash.slotB.okA || s.flash.slotB.okB then 2 else 0) + s.flash.active * 4)
  else if LIC_NONCE ≤ o ∧ o < LIC_NONCE + 16 then some (bits s.curNonce.toNat (8 * (o - LIC_NONCE)) 32)
  else if o = LIC_LMS then some (lmsLeaves - s.flash.lmsQ)
  else none

/-- The value a read of the register at key `k` returns. -/
def regShows (s : State) (k : Nat) : DWord :=
  let o := keyOff k
  let v := if keyUnit k = 0 then s.engShows o
    else if keyUnit k < 16 then s.dieShows (keyUnit k - 1) o
    else s.cellShows (keyUnit k - 16) o
  match v with
  | some n => BitVec.ofNat 64 n
  | none => s.reg k

/-! ### What a write sets in motion -/

/-- SPM_SCRUB_RATE: the pass in progress is late only by the larger PASS_MS (R175). -/
def writeScrubRate (s : State) (c : Nat) : State :=
  let old := s.fld (cellKey c SPM_SCRUB_RATE) 0 16
  (List.range 8).foldl (fun t b => t.setScrub c b { t.scrubOf c b with limit := max (t.scrubOf c b).limit old }) s

/-- HEAD_CTRL and TAIL_CTRL (R182). -/
def writeCtrl (s : State) (c : Nat) (k : CoreSel) (v : Nat) : State :=
  let s1 := s.setFld (coreKey c k HEAD_CTRL) 1 1 (bits v 1 1)
  if bit v 0 then s1.coreRun c k else s1.coreOff c k

/-- A write that reaches a register of a cell: the state after it and whether it was accepted. A refused IMEM_LOAD answers a bus error,
for reasons 1 to 4 of R165 as for an unprimed cell (DESIGN CHOICE, log 49). -/
def cellWrite (s : State) (req : Req) (c o : Nat) (row : RegRow) (v ga : Nat) : State × Bool :=
  let w := BitVec.ofNat 32 v
  let imem := fun (k : CoreSel) => (s.imemWatch (s.imemLoad c k req w) c, s.primed c && s.imemReason c k req w == 0)
  if o = MXE_DESC_PUSH then (if bit v 0 then s.mxePush c else s, true)
  else if o = MXE_CNT_CLR then
    let s1 := if bit v 0 then s.clearReg (cellKey c MXE_STALL_FREEZE) else s
    (if bit v 1 then s1.clearReg (cellKey c MXE_STALL_EASEL) else s1, true)
  else if o = MXE_FLUSH then (if bit v 0 then s.mxeFlush c else s, true)
  else if o = MXE_RPL_CTRL then (s.rplCtrl c (bit v 0), true)
  else if o = MXE_ARITH_CLR then
    let s1 := if bit v 0 then s.clearReg (cellKey c MXE_ARITH_CNT) else s
    let s2 := if bit v 1 then ((s1.clearReg (cellKey c MXE_CHK_ROWS)).clearReg (cellKey c MXE_CHK_BOUND)).clearReg (cellKey c MXE_CHK_SKIP) else s1
    (if bit v 2 then (s2.noteWrite (cellKey c MXE_RPL_STAT)).setFld (cellKey c MXE_RPL_STAT) 16 8 0 else s2, true)
  else if o = SPM_BANK_OWN then (s.writeOwners c w, true)
  else if o = SPM_SCRUB_RATE then ((s.writeScrubRate c).storeReg (cellKey c o) row v ga, true)
  else if o = SPM_ECC_TEST then (if v % 4 = 1 then s.eccRawWrite c req else if v % 4 = 2 then s.eccRawRead c req else s, true)
  else if o = SPM_BENG_CMD then (if v % 4 = 0 then s else s.bengPush c (v % 4) req, true)
  else if o = HEAD_CTRL then (s.writeCtrl c .head v, true)
  else if o = HEAD_CTRL + 0x1000 then (s.writeCtrl c .tail v, true)
  else if o = HEAD_IMEM_LOAD then imem .head
  else if o = HEAD_IMEM_LOAD + 0x1000 then imem .tail
  else if o = RTR_MC_LAND_ADD then (s.incSat (cellKey c RTR_MC_LAND) 0 16 (v % 65536), true)
  else if o = RTR_TX_CMD then (if v % 4 = 0 then s else s.txPush c (v % 4) req, true)
  else if SYNC_CTR ≤ o ∧ o < SYNC_CTR + 192 then (s.armCounter c ((o - SYNC_CTR) / 4) w, true)
  else if o = SYNC_SIG then s.sigWrite c req w
  else (s.storeReg (cellKey c o) row v ga, true)

/-- FAB_QCFG0-5 of the selected context (R292, R311). -/
def writeQcfg (s : State) (d o v : Nat) : State :=
  let q := s.selCtx d
  let x := s.ctx q
  let open2 := decide (x.state = 2)
  if x.state = 0 then s.cfgIgnored d q
  else if o = FAB_QCFG0 then
    let port := bits v 2 2
    let out := min 64 (max 1 (bits v 4 7))
    let changes := open2 && (decide (port ≠ x.port) || decide (out ≠ x.outstanding))
    let s1 := if open2 then (if changes then s.cfgIgnored d q else s) else s.setCtx q { x with port := port, outstanding := out }
    let st := v % 4
    if st = 2 then s1.ctxOpen q else if st = 1 then s1.ctxClose q else s1.cfgIgnored d q
  else if open2 then s.cfgIgnored d q
  else if o = FAB_QCFG1 then s.setCtx q { x with peerEngine := bits v 0 16, peerQueue := bits v 16 16 }
  else if o = FAB_QCFG2 then s.setCtx q { x with dmac := BitVec.ofNat 48 (bits x.dmac.toNat 32 16 * 2 ^ 32 + bits v 0 32) }
  else if o = FAB_QCFG3 then s.setCtx q { x with dmac := BitVec.ofNat 48 (bits v 0 16 * 2 ^ 32 + bits x.dmac.toNat 0 32) }
  else if o = FAB_QCFG4 then s.setCtx q { x with winBase := bits v 5 43 * 32 }
  else s.setCtx q { x with winLen := bits v 5 43 * 32 }

/-- FAB_ENGINE_ID: ignored while any context of the engine is Open (R311); it lets ports train that waited for it, and unset holds every
port down (R288). -/
def writeEngineId (s : State) (d v : Nat) : State :=
  if s.ctxs.any fun e => e.2.state == 2 then s.fab54 d 8 0xFFFF none
  else (List.range 3).foldl (fun t p => (t.cfgSupplied d p).cfgMissing d p) (s.setReg (dieKey d FAB_ENGINE_ID) (BitVec.ofNat 64 (v % 65536)))

/-- FAB_PETYPE: used at the next training, or at once by a port that waits for it (R288). -/
def writePetype (s : State) (d p : Nat) (row : RegRow) (v ga : Nat) : State := (s.storeReg (fabKey d p FAB_PETYPE) row v ga).cfgSupplied d p

/-- FAB_PCFG: the configuration fields, then EN. -/
def writePcfg (s : State) (d p : Nat) (row : RegRow) (v ga : Nat) : State :=
  let k := fabKey d p FAB_PCFG
  let en := s.fld k 0 1
  let s1 := ((s.storeReg k row v ga).setFld k 0 1 en).cfgSupplied d p
  if en = v % 2 then s1 else s1.portEn d p (bit v 0)

/-- The selected ring's registers (R324, R328, R336). -/
def writeRing (s : State) (p o v : Nat) : State :=
  let n := s.selRing p
  let r := s.ring p n
  if o = PCIE_RING_BASE then (if r.en then s else s.setRing p n { r with base := bits v 12 32 * 4096 })
  else if o = PCIE_RING_CI_ADDR then s.setRing p n { r with ciAddr := bits v 3 41 * 8 }
  else
    let s1 := if r.en then s.setRing p n { r with irqEn := bit v 9 }
      else s.setRing p n { r with irqEn := bit v 9, log2 := max 4 (bits v 0 4), chan := bits v 4 4 }
    if bit v 8 then s1.enableRing p n else s1.disableRing p n

/-- A write that reaches a PCIE register of a port. -/
def pcieWrite (s : State) (req : Req) (p o : Nat) (row : RegRow) (v ga : Nat) : State × Bool :=
  let k := pcieKey p o
  if o = PCIE_RING_BASE ∨ o = PCIE_RING_CFG ∨ o = PCIE_RING_CI_ADDR then (s.writeRing p o v, true)
  else if o = PCIE_CTRL then
    let s1 := s.setFld k 0 1 (bits v 0 1)
    (if bit v 1 then s1.enableEvq p else s1.setFld k 1 1 0, true)
  else if o = PCIE_EVQ_CI then (s.evqCi p (bits v 0 17), true)
  else if o = PCIE_MSIX_RAISE then (s.msixWrite req p (v % 512), decide (260 ≤ v % 512))
  else (s.storeReg k row v ga, true)

/-- TEMP_CFG: TH_STOP lies from TH_CAP + 5 to 115 (R396). -/
def writeTempCfg (s : State) (d : Nat) (row : RegRow) (v ga : Nat) : State :=
  let k := dieKey d TEMP_CFG
  let s1 := s.storeReg k row v ga
  s1.setFld k 8 8 (min 115 (max (s1.fld k 0 8 + 5) (bits v 8 8)))

/-- CLK_MCFG: ignored unless CRIT < LO < HI (R418). -/
def writeMcfg (s : State) (d : Nat) (row : RegRow) (v ga : Nat) : State :=
  if bits v 0 5 < bits v 5 5 ∧ bits v 5 5 < bits v 10 5 then s.storeReg (dieKey d CLK_MCFG) row v ga else s

/-- PWR_REG_CMD (R353). -/
def writeRegCmd (s : State) (d v : Nat) : State :=
  let r := regionAt d (bits v 0 3) (bits v 3 3)
  if 2 ^ 9 ≤ v then s.regionRefuse r (bits v 6 3) 6 else s.regionCmd r (bits v 6 3)

/-- A write that reaches a register of a die. -/
def dieWrite (s : State) (req : Req) (d o : Nat) (row : RegRow) (v ga : Nat) : State × Bool :=
  if FAB_QCFG0 ≤ o ∧ o ≤ FAB_QCFG5 then (s.writeQcfg d o v, true)
  else if o = FAB_ENGINE_ID then (s.writeEngineId d v, true)
  else if row.off = FAB_PETYPE then (s.writePetype d ((o - FAB_PETYPE) / 0x40) row v ga, true)
  else if row.off = FAB_PCFG then (s.writePcfg d ((o - FAB_PCFG) / 0x40) row v ga, true)
  else if row.off = FAB_PCMD then (if bit v 0 then s.pcmd d ((o - FAB_PCMD) / 0x40) else s, true)
  else if o = PWR_REG_CMD then (s.writeRegCmd d v, true)
  else if o = TEMP_CFG then (s.writeTempCfg d row v ga, true)
  else if o = CLK_MCFG then (s.writeMcfg d row v ga, true)
  else if row.off = MEM_ECC_TCMD then
    let n := (o - MEM_ECC_TCMD) / 0x10000
    (if v % 4 = 1 then s.memRawWrite req d n else if v % 4 = 2 then s.memRawRead req d n else s, true)
  else if o / 0x10000 = 6 then
    match s.part.portOf d with
    | some p => s.pcieWrite req p o row v ga
    | none => (s, false)
  else if o = PWR_STAGE_CFG then ((s.holdStageCfg d).storeReg (dieKey d o) row v ga, true)
  else (s.storeReg (dieKey d o) row v ga, true)

/-- LIC_CMD (R316, R474, R484). -/
def writeLicCmd (s : State) (op : Nat) : State :=
  if s.flash.licOp ≠ 0 then (s.raise 0x83 (.engine 0) (9 + op * 2 ^ 8) none).nonceAfter op
  else if !s.licOpen op then (s.licRefuse op 13).nonceAfter op
  else if op = 0 ∨ 6 ≤ op then s
  else ({ s with flash := { s.flash with licOp := op } }).licRes 1 0

/-- BOOT_RESET acts only with its CONFIRM (R470, R481). -/
def writeReset (s : State) (v : Nat) : State :=
  if v % 4 = 1 then s.resetWarm (bits v 16 16) else if v % 4 = 2 then s.resetCold (bits v 16 16) else s

/-- A write that reaches a register of engine control. -/
def engWrite (s : State) (o : Nat) (row : RegRow) (v ga : Nat) : State :=
  if o = BOOT_REMAP_CMD then s.quickRemap (bits v 0 3) (bits v 3 6)
  else if o = BOOT_LOAD_CMD then (if v % 4 = 1 then s.loadStart else if v % 4 = 2 then s.loadAbort else s)
  else if o = BOOT_JOB_CMD then s.jobCmd v
  else if o = STEP_DECL then s.declareStep (v % 65536)
  else if o = STEP_JOB_NUM then s.setStepNum (BitVec.ofNat 64 v)
  else if o = TIME_CFG then
    let src := s.fld (ecKey TIME_CFG) 0 2
    let s1 := (s.storeReg (ecKey o) row v ga).setFld (ecKey o) 0 2 src
    s1.timeSrc (v % 4)
  else if o = BAND_CTRL then
    let s1 := s.storeReg (ecKey o) row v ga
    s1.setBand { s1.band with modeIv := s1.interval100 }
  else if o = TIME_SET then s.timeSet (BitVec.ofNat 64 v)
  else if o = RAMP_REQ then s.rampRequest (bits v 0 24)
  else if o = BAND_AVG then
    let s1 := s.storeReg (ecKey o) row v ga
    s1.setFld (ecKey o) 0 24 (min (bits v 0 24) s1.ceil)
  else if o = BAND_RESTART then (if bit v 0 then s.bandRestart else s)
  else if o = BOOT_RESET then s.writeReset v
  else if o = LIC_CMD then s.writeLicCmd (v % 8)
  else s.storeReg (ecKey o) row v ga

/-- A whole register is written. -/
def writeReg (s : State) (req : Req) (k : Nat) (row : RegRow) (v ga : Nat) : State × Bool :=
  let o := keyOff k
  if keyUnit k = 0 then (s.engWrite o row v ga, true)
  else if keyUnit k < 16 then s.dieWrite req (keyUnit k - 1) o row v ga
  else s.cellWrite req (keyUnit k - 16) o row v ga

/-! ### Accesses and their halves (R13, R15) -/

/-- A refused access to a control space: the host class for a host, else class 0x34 (R15, R39, R227, R319). -/
def ctlRefuse (s : State) (req : Req) (k ga : Nat) : State :=
  match req with
  | .host p => s.hostRefuse p ga 4
  | _ =>
    let s1 := s.raise 0x34 (keyLoc k) 0 (originCell req)
    match keyLoc k with
    | .cell c _ => s1.rtrLast c 0x34 0 0
    | _ => s1

/-- A key inside FAB_SUBMIT of a die, with the die. -/
def submitKey (k : Nat) : Option Nat :=
  if 1 ≤ keyUnit k ∧ keyUnit k < 16 ∧ FAB_SUBMIT ≤ keyOff k ∧ keyOff k < FAB_SUBMIT + 32 then some (keyUnit k - 1) else none

/-- A write of one word (`wide` false) or a doubleword at a register key: the state and whether it was accepted. -/
def ctlWrite (s : State) (req : Req) (k : Nat) (wide : Bool) (v : DWord) (ga : Nat) : State × Bool :=
  let b := keyBlock k
  let held := s.pendOf req b
  let s1 := s.dropPend req b
  let no := (match submitKey k with
    | some d => s1.fab54 d 1 0xFFFF (originCell req)
    | none => s1.ctlRefuse req k ga, false)
  match rowAt s.part k with
  | none => no
  | some (row, high) =>
    if row.wide then
      if wide then (if high then no else s1.writeReg req k row v.toNat ga)
      else if high then
        match held with
        | some (.low key w) => if key + 4 = k then s1.writeReg req key row (w.toNat + v.toNat % 2 ^ 32 * 2 ^ 32) ga else no
        | _ => no
      else (s1.setPend req b (.low k (v.setWidth 32)), true)
    else if wide then no
    else s1.writeReg req k row (v.toNat % 2 ^ 32) ga

/-- A read at a register key: the value, or none where it is refused. -/
def ctlRead (s : State) (req : Req) (k : Nat) (wide : Bool) (ga : Nat) : State × Option DWord :=
  let b := keyBlock k
  let held := s.pendOf req b
  let s1 := s.dropPend req b
  let no := (s1.ctlRefuse req k ga, none)
  match rowAt s.part k with
  | none => no
  | some (row, high) =>
    if row.wide then
      if wide then (if high then no else (s1, some (s.regShows k)))
      else if high then
        match held with
        | some (.latch key w) => (s1, some (if key + 4 = k then w.setWidth 64 else s.regShows (k - 4) >>> 32))
        | _ => (s1, some (s.regShows (k - 4) >>> 32))
      else (s1.setPend req b (.latch k ((s.regShows k >>> 32).setWidth 32)), some ((s.regShows k).setWidth 32 |>.setWidth 64))
    else if wide then no
    else (s1, some (s.regShows k))

/-- The register key of a control-space target. -/
def ctlKey (t : Target) : Option Nat :=
  match t with
  | .cellCtl c o => some (cellKey c o)
  | .dieCtl d o => some (dieKey d o)
  | .engCtl o => some (ecKey o)
  | _ => none

/-- Where the origin router refuses a request: at the cell it comes from (R203). -/
def originLoc (req : Req) : Loc := match originCell req with | some c => .cell c 0 | none => .engine 0

/-- RTR_ERR_LAST of the router that refused a request of its own cell (R225). -/
def originLast (s : State) (req : Req) (cls : Nat) : State :=
  match originCell req with
  | some c => s.rtrLast c cls 0 0
  | none => s

/-- A request to a global address that no target serves, or that no register access can reach (R39). -/
def gaRefuse (s : State) (req : Req) (ga : Nat) : State :=
  match req, s.target ga with
  | .host p, .hole .. => s.hostRefuse p ga 4
  | .host p, _ => s.hostRefuse p ga 1
  | _, .hole 1 c => (s.raise 0x25 (.cell c 0) (2 + 4 * 2 ^ 8 + ga * 2 ^ 16) (originCell req)).rtrLast c 0x25 0 0
  | _, .hole _ c => (s.raise 0x34 (.cell c 0) 0 (originCell req)).rtrLast c 0x34 0 0
  | _, .bad 0 => (s.gddrRefuse req (bits ga 0 44) (s.gddrReason (bits ga 0 44) 8)).originLast req 0x44
  | _, .bad 1 => (s.raise 0x25 (originLoc req) (1 + 4 * 2 ^ 8 + ga * 2 ^ 16) (originCell req)).originLast req 0x25
  | _, _ => (s.raise 0x34 (originLoc req) 0 (originCell req)).originLast req 0x34

/-- A register write by global address, with the answer its requester receives. -/
def regWrite (s : State) (req : Req) (ga : Nat) (wide : Bool) (v : DWord) : State :=
  match ctlKey (s.target ga) with
  | some k =>
    let r := s.ctlWrite req k wide v ga
    r.1.answer req (if r.2 then .done else .busError)
  | none => (s.gaRefuse req ga).answer req .busError

/-- A register read by global address. -/
def regRead (s : State) (req : Req) (ga : Nat) (wide : Bool) : State :=
  match ctlKey (s.target ga) with
  | some k =>
    match s.ctlRead req k wide ga with
    | (t, some v) => t.answer req (.value v false)
    | (t, none) => t.answer req .busError
  | none => (s.gaRefuse req ga).answer req .busError

end State

/-! ### Commands -/

/-- REGISTER_WRITE (R14, R15, R16, R38-R42). -/
def execRegisterWrite (req : Req) (ga : GAddr) (wide : Bool) (v : DWord) (s : State) : Res := .next (s.regWrite req ga.toNat wide v)

/-- LOW_WORD_WRITE_HELD (R13). -/
def execLowWordWriteHeld (req : Req) (ga : GAddr) (v : Word) (s : State) : Res := .next (s.regWrite req ga.toNat false (v.setWidth 64))

/-- HIGH_WORD_WRITE_PAIR (R13). -/
def execHighWordWritePair (req : Req) (ga : GAddr) (v : Word) (s : State) : Res := .next (s.regWrite req ga.toNat false (v.setWidth 64))

/-- LOW_WORD_READ_LATCH (R13). -/
def execLowWordReadLatch (req : Req) (ga : GAddr) (s : State) : Res := .next (s.regRead req ga.toNat false)

/-- HIGH_WORD_READ_PAIR (R13). -/
def execHighWordReadPair (req : Req) (ga : GAddr) (s : State) : Res := .next (s.regRead req ga.toNat false)

end Sys2Proof.Machine
end

