-- ==== Sys2Proof/Machine/MeshLand.lean ====
section
/-! DEFINITION. What a packet does where it arrives (R191, R203-R207, R213, R216, R217): requests at a cell or an edge agent,
responses at their requester, signals. -/

namespace Sys2Proof.Machine

namespace State

/-- Two packets have one origin: the router of one cell, or one agent (R200). -/
def sameOrigin (p q : Pkt) : Bool := decide (q.org = p.org) && (p.org.isSome || decide (q.src = p.src))

/-- Of the packets of one origin and VC that stand at a place, packet i came first: they act in order (R200). -/
def actsNext (s : State) (i : Nat) (p : Pkt) : Bool :=
  (s.net.take i).all fun q => !(decide (q.pos = p.pos) && q.vc == p.vc && sameOrigin p q)

/-- What a packet finds where it stands: a cell's router takes it in a slot in which its region's router gate delivers a pulse (R402). -/
def takes (s : State) (p : Pkt) : Bool := match p.pos with | .landed c => s.routerPulse c | _ => true

/-- Scratchpad offset and length that a packet accesses in the cell at which it stands. -/
def landSpan (s : State) (c : Nat) (p : Pkt) : Option (Nat × Nat) :=
  if p.ptype = 3 then
    match (s.cell c).tx with
    | t :: _ => if t.waiting.contains p.tag then some (t.src + (p.addr - t.dst), p.data.length) else none
    | [] => none
  else if p.ptype = 6 ∨ ((p.ptype = 1 ∨ p.ptype = 2) ∧ bits p.addr 44 4 = 1) then some (bits p.addr 0 21, p.blen)
  else none

/-- A packet's MESH-class access waits: a line march runs in its bank (R435). -/
def marchHolds (s : State) (p : Pkt) : Bool :=
  match p.pos with
  | .landed c =>
    match (s.cell c).running, s.landSpan c p with
    | some t, some (o, n) => t.unit == 1 && (bankOf t.word == bankOf o || bankOf t.word == bankOf (o + n - 1))
    | _, _ => false
  | _ => false

/-- The packet at an index of the net, when it has a TYPE, its router runs, no earlier one of its origin and VC waits there and no line
march holds it. -/
def pktOf (s : State) (i ptype : Nat) : Option Pkt :=
  match s.net[i]? with
  | some p => if p.ptype = ptype ∧ s.takes p ∧ s.actsNext i p ∧ s.marchHolds p = false then some p else none
  | none => none

/-- The response of cell c to a request: back to its requester (R191, R204), in physical mode to the edge port of the cell's own
column where the requester is an edge agent (R186, R198). A write that asks for no acknowledgement and was not refused gets none. A read response with STATUS 1 or 3 keeps BLEN and
carries no data (DESIGN CHOICE, log 33). -/
def cellReply (s : State) (c : Nat) (p : Pkt) (data : List Byte) (pois : List Nat) (status : Nat) : State :=
  if p.ptype = 1 ∧ status = 0 ∧ ¬ p.ackreq then s
  else
    let bad := status == 1 || status == 3
    let q := { Pkt.blank (if p.ptype = 2 then 3 else 4) p.src (.router c 0) with
      org := some c, tag := p.tag, addr := p.addr, blen := p.blen, status := status,
      dlen := if p.ptype = 2 && !bad then dlenOf p.blen else 0, data := if bad then [] else data, pois := if bad then [] else pois }
    let r := match originCell p.src with
      | some o => let (x, y) := (s.logicalOf o).getD (0, 0); { q with x := x, y := y }
      | none => { q with phys := true, edge := true, die := s.agentDie p.src, px := cellPx c, py := edgeRow s.part (s.agentDie p.src) }
    { s with net := s.net ++ [r] }

/-- A request at a hole's router (R46, R203). -/
def holeRefuse (s : State) (c : Nat) (p : Pkt) : State :=
  match p.src with
  | .host n => s.hostRefuse n p.addr 4
  | _ =>
    if bits p.addr 44 4 = 1 then (s.raise 0x25 (.cell c 0) (2 + 4 * 2 ^ 8 + p.addr * 2 ^ 16) (originCell p.src)).rtrLast c 0x25 0 p.tag
    else (s.raise 0x34 (.cell c 0) 0 (originCell p.src)).rtrLast c 0x34 0 p.tag

/-- RTR_ERR_LAST names the TAG of the packet that a record of its router concerns (R225). -/
def tagLast (s t : State) (c : Nat) (p : Pkt) : State :=
  if (t.err.recQ.drop s.err.recQ.length).any fun r => decide (r.loc = .cell c 0) && decide (0x30 ≤ r.cls ∧ r.cls < 0x40) then
    t.setFld (cellKey c RTR_ERR_LAST) 12 16 p.tag
  else t

/-- A read or write of a control window by BLEN: only 4 and 8 bytes have a right width (R15). -/
def ctlPut (s : State) (req : Req) (k ga : Nat) (data : List Byte) : State × Nat :=
  if data.length = 4 ∨ data.length = 8 then
    let r := s.ctlWrite req k (data.length == 8) (BitVec.ofNat 64 (ofLe data)) ga
    (r.1, if r.2 then 0 else 1)
  else match submitKey k with
    | some d =>
      if data.length = 32 ∧ keyOff k = FAB_SUBMIT then
        let r := (s.dropPend req (keyBlock k)).submit req d (BitVec.ofNat 256 (ofLe data))
        (r.1, r.2.getD 0)
      else ((s.dropPend req (keyBlock k)).fab54 d 1 0xFFFF (originCell req), 1)
    | none => ((s.dropPend req (keyBlock k)).ctlRefuse req k ga, 1)

def ctlGet (s : State) (req : Req) (k ga len : Nat) : State × List Byte × Nat :=
  if len = 4 ∨ len = 8 then
    match s.ctlRead req k (len == 8) ga with
    | (t, some v) => (t, toLe len v.toNat, 0)
    | (t, none) => (t, [], 1)
  else ((s.dropPend req (keyBlock k)).ctlRefuse req k ga, [], 1)

/-- A write packet at its cell: STATUS. -/
def landWrite (s : State) (c : Nat) (p : Pkt) : State × Nat :=
  if s.isHole c then (s.holeRefuse c p, 1)
  else if bits p.addr 44 4 = 1 then
    let off := bits p.addr 0 21
    match s.spmCheckRun c off p.data.length 4 (decide (p.src = .firmware)) with
    | some (o, cr) => (s.spmRefuse c o 4 p.src cr, 1)
    | none => let r := s.meshWrite c off p.data p.pois (originCell p.src); (r.1, if r.2 then 0 else 2)
  else let r := s.ctlPut p.src (cellKey c (bits p.addr 0 16)) p.addr p.data; (s.tagLast r.1 c p, r.2)

/-- A read packet at its cell: bytes, poisoned words, STATUS. -/
def landRead (s : State) (c : Nat) (p : Pkt) : State × List Byte × List Nat × Nat :=
  if s.isHole c then (s.holeRefuse c p, [], [], 1)
  else if bits p.addr 44 4 = 1 then
    let off := bits p.addr 0 21
    match s.spmCheckRun c off p.blen 4 (decide (p.src = .firmware)) with
    | some (o, cr) => (s.spmRefuse c o 4 p.src cr, [], [], 1)
    | none => let r := s.meshRead c off p.blen; (r.1, r.2.1, r.2.2, if r.2.2 = [] then 0 else 2)
  else let r := s.ctlGet p.src (cellKey c (bits p.addr 0 16)) p.addr p.blen; (s.tagLast r.1 c p, r.2.1, [], r.2.2)

/-- A write packet at an edge agent: STATUS. -/
def agentPut (s : State) (p : Pkt) : State × Nat :=
  match s.target p.addr with
  | .gddr a => s.gddrWriteNow p.src a p.data p.pois
  | .host a => s.outWrite p.src a p.data p.pois
  | t =>
    match ctlKey t with
    | some k => s.ctlPut p.src k p.addr p.data
    | none => (s.gaRefuse p.src p.addr, 1)

/-- A read packet at an edge agent; none while its completion is awaited. -/
def agentGet (s : State) (p : Pkt) : State × Option (List Byte × List Nat × Nat) :=
  match s.target p.addr with
  | .gddr a => let r := s.gddrReadNow p.src a p.blen; (r.1, some r.2)
  | .host a =>
    match s.outRead p.src a p.blen (some p) with
    | (t, true) => (t, none)
    | (t, false) => (t, some ([], [], 1))
  | t =>
    match ctlKey t with
    | some k => let r := s.ctlGet p.src k p.addr p.blen; (r.1, some (r.2.1, [], r.2.2))
    | none => (s.gaRefuse p.src p.addr, some ([], [], 1))

/-- A packet to FAB_SUBMIT waits in the mesh while the submit queue is full (R295). -/
def submitHeld (s : State) (p : Pkt) : Bool :=
  match (ctlKey (s.target p.addr)).bind submitKey with | some d => s.fabFull d | none => false

/-- WRITE_PACKET_LAND: the write, its SIGF signal in the cycle after unless it was refused, its acknowledgement (R207). -/
def writeLand (s : State) (i m ecc : Nat) : State :=
  match s.pktOf i 1 with
  | none => s
  | some p =>
    let s0 := s.replacePkt i []
    match p.pos with
    | .landed c =>
      let r := s0.landWrite c p
      let s1 := if p.sigf ∧ r.2 = 0 then (r.1.routerEcc c ecc).applySignal c 1 (r.1.pktSignal p) else r.1
      s1.cellReply c p [] [] r.2
    | .agent d =>
      if s.submitHeld p then s
      else match s.meshAdmit p m with
      | (t, false) => t
      | (t, true) => let r := (t.replacePkt i []).agentPut p; (r.1.agentReply d p [] [] r.2).afterMesh p.addr
    | _ => s

/-- READ_PACKET. -/
def readLand (s : State) (i m : Nat) : State :=
  match s.pktOf i 2 with
  | none => s
  | some p =>
    let s0 := s.replacePkt i []
    match p.pos with
    | .landed c => let r := s0.landRead c p; r.1.cellReply c p r.2.1 r.2.2.1 r.2.2.2
    | .agent d =>
      match s.meshAdmit p m with
      | (t, false) => t
      | (t, true) =>
        match (t.replacePkt i []).agentGet p with
        | (u, some (bs, ps, st)) => (u.agentReply d p bs ps st).afterMesh p.addr
        | (u, none) => u
    | _ => s

/-- The TAG of a core's outstanding far-window load. -/
def farTag (s : State) (c : Nat) (k : CoreSel) : Option Nat := (s.core c k).far.map (·.tag)

/-- A read response of the running get is written to its cell, poison with it; STATUS 1 or 3 stops the unit (R206, R208, R209). -/
def getResponse (s : State) (c : Nat) (t : TxCmd) (p : Pkt) : State :=
  let s1 := s.modTx c fun x => { x with waiting := x.waiting.filter (· != p.tag) }
  if p.status = 1 ∨ p.status = 3 then s1.txStop c
  else
    let off := t.src + (p.addr - t.dst)
    match s1.spmCheckRun c off p.data.length 4 false with
    | some (o, cr) => (s1.spmRefuse c o 4 (.far c .head) cr).txStop c
    | none => (s1.meshWrite c off p.data p.pois (some c)).1.txAdvance c

/-- READ_RESPONSE_RECEIVE: a response of the send unit; one that answers no request any more is dropped. -/
def readResponse (s : State) (i : Nat) : State :=
  match s.pktOf i 3 with
  | none => s
  | some p =>
    match p.pos with
    | .landed c =>
      if s.farTag c .head = some p.tag ∨ s.farTag c .tail = some p.tag then s
      else
        let s0 := s.replacePkt i []
        match (s.cell c).tx with
        | t :: _ => if t.waiting.contains p.tag then s0.getResponse c t p else s0
        | [] => s0
    | .agent _ => (s.replacePkt i []).answer p.src (.read p.data p.pois p.status)
    | _ => s

/-- ACK_RECEIVE (R204, R208): of the running put, or of a far-window store. -/
def ackReceive (s : State) (i : Nat) : State :=
  match s.pktOf i 4 with
  | none => s
  | some p =>
    match p.pos with
    | .landed c =>
      let s0 := s.replacePkt i []
      let put := match (s.cell c).tx with | t :: _ => t.waiting.contains p.tag | [] => false
      if put then
        let s1 := s0.modTx c fun x => { x with waiting := x.waiting.filter (· != p.tag) }
        if p.status = 1 ∨ p.status = 3 then s1.txStop c else s1
      else match p.src with
        | .far _ k => s0.setCore c k { s0.core c k with farStores := (s0.core c k).farStores - 1 }
        | _ => s0
    | .agent _ => (s.replacePkt i []).answer p.src (.ack p.status)
    | _ => s

/-- SIGNAL_PACKET: applied to its counter, or dropped at a hole (R203, R217); `ecc` is what the counter's check bits show (R223). -/
def signalLand (s : State) (i ecc : Nat) : State :=
  match s.pktOf i 5 with
  | none => s
  | some p =>
    match p.pos with
    | .landed c =>
      let s0 := s.replacePkt i []
      if s.isHole c then s0.landSignal c p else (s0.routerEcc c ecc).landSignal c p
    | _ => s

/-- MULTICAST_WRITE_LAND: a MESH-class access; a refusal halts the panels of a cell origin and of the target (R213). -/
def mcastLand (s : State) (i ecc : Nat) : State :=
  match s.pktOf i 6 with
  | none => s
  | some p =>
    match p.pos with
    | .landed c =>
      let s0 := s.replacePkt i []
      let off := bits p.addr 0 21
      match s0.spmCheckRun c off p.data.length 4 (decide (p.src = .firmware)) with
      | some (o, cr) =>
        let s1 := s0.spmRefuse c o 4 p.src cr
        if (originCell p.src).isSome then s1.haltPanelOf c cr.1 else s1
      | none =>
        let r := s0.meshWrite c off p.data p.pois (originCell p.src)
        if p.sigf ∧ r.2 then (r.1.routerEcc c ecc).applySignal c 1 (r.1.pktSignal p) else r.1
    | _ => s

/-- MULTICAST_SIGNAL. -/
def mcastSignal (s : State) (i ecc : Nat) : State :=
  match s.pktOf i 7 with
  | none => s
  | some p =>
    match p.pos with
    | .landed c => let s0 := s.replacePkt i []; (s0.routerEcc c ecc).applySignal c 0 (s0.pktSignal p)
    | _ => s

end State

/-! ### Commands -/

/-- WRITE_PACKET_LAND (R154, R203, R204, R207, R223, R266, R269): `m` mismatches of its transfer where it goes to GDDR7. -/
def execWritePacketLand (i m ecc : Nat) (s : State) : Res := .next (s.writeLand i m ecc)

/-- READ_PACKET (R154, R172, R191, R204, R266, R269): `m` as for a write. -/
def execReadPacket (i m : Nat) (s : State) : Res := .next (s.readLand i m)

/-- READ_RESPONSE_RECEIVE (R206, R208, R209). -/
def execReadResponseReceive (i : Nat) (s : State) : Res := .next (s.readResponse i)

/-- ACK_RECEIVE (R204, R208, R209). -/
def execAckReceive (i : Nat) (s : State) : Res := .next (s.ackReceive i)

/-- SIGNAL_PACKET (R203, R217, R223). -/
def execSignalPacket (i ecc : Nat) (s : State) : Res := .next (s.signalLand i ecc)

/-- MULTICAST_WRITE_LAND (R207, R212, R213, R223). -/
def execMulticastWriteLand (i ecc : Nat) (s : State) : Res := .next (s.mcastLand i ecc)

/-- MULTICAST_SIGNAL (R216, R217, R223). -/
def execMulticastSignal (i ecc : Nat) (s : State) : Res := .next (s.mcastSignal i ecc)

end Sys2Proof.Machine
end

