-- ==== Sys2Proof/Machine/Host.lean ====
section
/-! DEFINITION. What a host request does through BAR0 and BAR2 (R316-R319), the ring entries that write a register, start a
load or command a job (R327), and the end of a load (PHASE 4). -/

namespace Sys2Proof.Machine

namespace State

/-! ### Completions -/

/-- The completion of a read: Completer Abort where `r` is none, else data with EP as given. -/
def cpl (s : State) (port : Nat) (r : Option (List Byte × Bool)) : State :=
  match r with
  | some (bs, ep) => s.emit (.hostCpl port true ep bs)
  | none => s.emit (.hostCpl port false false [])

/-- A port that takes memory requests: its link is up and its function is in D0. -/
def barOpen (s : State) (port : Nat) : Bool := s.part.ports.contains port && s.portOpen port

/-- BAR0 offsets that answer before the engine is ready (R316): the PCIE block, and the BOOT, BBOX and LIC windows. -/
def earlyBar0 (off : Nat) : Bool :=
  decide (off < 0x10000) || (decide (0x100000 ≤ off) && decide (off < 0x170000) && [3, 4, 5].contains ((off - 0x100000) / 0x10000))

/-! ### MSI-X table (R317, R331) -/

def msixByte (s : State) (p i : Nat) : Byte := SMap.get (s.hport p).msix i (if i % 16 = 12 then 1 else 0)

/-- The pending-bit array, byte by byte. -/
def pbaByte (s : State) (p i : Nat) : Byte :=
  BitVec.ofNat 8 ((List.range 8).map fun b => if (s.hport p).pba.contains (8 * i + b) then 2 ^ b else 0).sum

/-- Bytes written into the table; the vectors they touch are looked at again. -/
def msixPut (s : State) (p i : Nat) (data : List Byte) : State :=
  let h := s.hport p
  let tab := data.zipIdx.foldl (fun (m : SMap Byte) e => SMap.set m (i + e.2) e.1 (if (i + e.2) % 16 = 12 then 1 else 0)) h.msix
  let vs := ((List.range data.length).map fun j => (i + j) / 16).eraseDups
  vs.foldl (fun t v => t.unmask p v) (s.setHport p { h with msix := tab })

/-! ### BAR0 (R317): its mirror of engine control is reached as R519 states -/

/-- An access to the MSI-X table has 4 or 8 bytes, aligned (R15). -/
def msixWidth (off len : Nat) : Bool := (len == 4 || len == 8) && off % len == 0

/-- A refused BAR0 access: nothing lies there (reason 2), or the target refuses it (reason 4). -/
def bar0Refuse (s : State) (port off reason : Nat) : State := s.hostRefuse port off reason

/-- No register of the tables lies at a key or in the word it falls into (R317: reason 2); any other refused access is the target's. -/
def noReg (s : State) (k : Nat) : Bool := (rowAt s.part k).isNone && (rowAt s.part (k / 4 * 4)).isNone

/-- An access to BAR0 where no register lies: refused, and what its block held pending is gone (R13). -/
def bar0None (s : State) (p k off : Nat) : State := (s.dropPend (.host p) (keyBlock k)).bar0Refuse p off 2

def bar0Write (s : State) (p off : Nat) (data : List Byte) : State :=
  let v := ofLe data
  if off < 0x10000 then
    let k := pcieKey p (0x60000 + off)
    if s.noReg k then s.bar0None p k off
    else (s.ctlPut (.host p) k off data).1
  else if 0x10000 ≤ off ∧ off < 0x10800 ∧ off % 8 = 0 then
    (if data.length = 4 then s.doorbell p ((off - 0x10000) / 8) (v % 65536) else s.bar0Refuse p off 4)
  else if 0x20000 ≤ off ∧ off < 0x22000 then
    (if msixWidth off data.length then s.msixPut p (off - 0x20000) data else s.bar0Refuse p off 4)
  else if 0x22000 ≤ off ∧ off < 0x22040 then
    (if msixWidth off data.length then s else s.bar0Refuse p off 4)
  else if 0x100000 ≤ off ∧ off < 0x170000 then
    let k := ecKey (off - 0x100000)
    let ga := 4 * 2 ^ 44 + (off - 0x100000)
    if s.noReg k then s.bar0None p k off
    else (s.carried (portDie p) (.host p) ga data.length true id fun t => t.ctlPut (.host p) k ga data).1
  else s.bar0Refuse p off 2

def bar0Read (s : State) (p off len : Nat) : State :=
  let some' := fun (t : State) (bs : List Byte) => t.cpl p (some (bs, false))
  let no := fun (t : State) => t.cpl p none
  let reg := fun (r : State × List Byte × Nat) => if r.2.2 = 0 then some' r.1 r.2.1 else no r.1
  if off < 0x10000 then
    let k := pcieKey p (0x60000 + off)
    if s.noReg k then no (s.bar0None p k off)
    else reg (s.ctlGet (.host p) k off len)
  else if 0x10000 ≤ off ∧ off < 0x10800 ∧ off % 8 = 0 then
    (if len = 4 then some' s (toLe 4 (s.ring p ((off - 0x10000) / 8)).pi) else no (s.bar0Refuse p off 4))
  else if 0x20000 ≤ off ∧ off < 0x22000 then
    (if msixWidth off len then some' s ((List.range len).map fun i => s.msixByte p (off - 0x20000 + i)) else no (s.bar0Refuse p off 4))
  else if 0x22000 ≤ off ∧ off < 0x22040 then
    (if msixWidth off len then some' s ((List.range len).map fun i => s.pbaByte p (off - 0x22000 + i)) else no (s.bar0Refuse p off 4))
  else if 0x100000 ≤ off ∧ off < 0x170000 then
    let k := ecKey (off - 0x100000)
    let ga := 4 * 2 ^ 44 + (off - 0x100000)
    if s.noReg k then no (s.bar0None p k off)
    else reg (s.carried (portDie p) (.host p) ga len false (fun k => ([], k)) fun t => t.ctlGet (.host p) k ga len)
  else no (s.bar0Refuse p off 2)

/-! ### BAR2 (R318, R319) -/

/-- The global address of a BAR2 offset. -/
def bar2Addr (s : State) (p off : Nat) : Nat :=
  s.fld (pcieKey p (PCIE_AP + 4 * (off / 2 ^ 34))) 0 14 * 2 ^ 34 + off % 2 ^ 34

/-- Global addresses that an aperture may not reach (R318). -/
def barForbidden (ga : Nat) : Bool := decide (4 < bits ga 44 4)

/-- A write of a control window as requester `r`: absent targets refuse by R318 and R319. -/
def ctlWindowWrite (s s0 : State) (r : Req) (ga : Nat) (data : List Byte) : State :=
  match ctlKey (s.target ga) with
  | some k => (s0.carried (s.agentDie r) r ga data.length true id fun t => t.ctlPut r k ga data).1
  | none => s.gaRefuse r ga

def bar2Write (s : State) (p off : Nat) (data : List Byte) (ep : Bool) : State :=
  let ga := s.bar2Addr p off
  let s0 := if ep then s.epWrite p else s
  if 2 ^ 36 ≤ off then s.bar0Refuse p off 2
  else if barForbidden ga then s.hostRefuse p ga 3
  else if bits ga 44 4 < 2 then (s0.dmaWrite p ga data ep).1
  else s.ctlWindowWrite s0 (.host p) ga data

/-- The completion of a read of GDDR or scratchpad: an abort where it was refused or lost, or the bytes, marked poisoned where they are (R319). -/
def memCompletion (s : State) (p : Nat) (data : List Byte) (code : Nat) : State :=
  if code = 1 ∨ code = 3 then s.cpl p none
  else if code = 2 then (s.raise 0x61 (portLoc p p) 0 none).cpl p (some (data, true))
  else s.cpl p (some (data, false))

/-- A read of a control window by port `p`. -/
def ctlWindowRead (s : State) (p ga len : Nat) : State :=
  match ctlKey (s.target ga) with
  | some k =>
    let r := s.carried (portDie p) (.host p) ga len false (fun k => ([], k)) fun t => t.ctlGet (.host p) k ga len
    r.1.cpl p (if r.2.2 = 0 then some (r.2.1, false) else none)
  | none => (s.gaRefuse (.host p) ga).cpl p none

/-- The read of GDDR or scratchpad and its completion. -/
def memWindowRead (s : State) (p ga len : Nat) : State :=
  match s.dmaRead p ga len with
  | (t, data, _, code) => t.memCompletion p data code

def bar2Read (s : State) (p off len : Nat) : State :=
  let ga := s.bar2Addr p off
  if 2 ^ 36 ≤ off then (s.bar0Refuse p off 2).cpl p none
  else if barForbidden ga then (s.hostRefuse p ga 3).cpl p none
  else if bits ga 44 4 < 2 then s.memWindowRead p ga len
  else s.ctlWindowRead p ga len

/-- A host read (R316-R319). -/
def hostRead (s : State) (p bar off len : Nat) : State :=
  if !s.part.ports.contains p || !(s.hport p).up then s
  else if !s.barOpen p then s.cpl p none
  else if bar = 0 then (if s.ready || earlyBar0 off then s.bar0Read p off len else s.cpl p none)
  else if s.ready then s.bar2Read p off len
  else s.cpl p none

/-- A host posted write (R316-R319). -/
def hostWrite (s : State) (p bar off : Nat) (data : List Byte) (ep : Bool) : State :=
  if !s.barOpen p then s
  else if bar = 0 then
    (if s.ready || earlyBar0 off then (if ep then s.epWrite p else s).bar0Write p off data else s)
  else if s.ready then s.bar2Write p off data ep
  else s

/-! ### Ring entries (R327, R328) -/

/-- OPC 3: VALUE to ENGINE, as the host. -/
def ringReg (s : State) (p n : Nat) : State :=
  match s.entryRuns p n 3 with
  | none => s
  | some e =>
    let ga := rfield e 0x10 8
    let wide := bit (rfield e 1 1) 1
    let v := BitVec.ofNat 64 (rfield e 0x18 8)
    match ctlKey (s.target ga) with
    | some k =>
      let r := s.carried (portDie p) (.host p) ga (if wide then 8 else 4) true id fun t =>
        let w := t.ctlWrite (.host p) k wide v ga; (w.1, if w.2 then 0 else 1)
      r.1.setResult p n r.2 (if r.2 = 0 then 0 else lastCls s r.1)
    | none => let t := s.gaRefuse (.host p) ga; t.setResult p n 1 (lastCls s t)

/-- OPC 5: the load the entry describes starts at the engine controller (R519); its result comes with the load's end. -/
def ringLoad (s : State) (p n : Nat) : State :=
  match s.entryRuns p n 5 with
  | none => s
  | some e =>
    if (s.ring p n).loading then s
    else
      let r := s.carried (portDie p) (.host p) (4 * 2 ^ 44 + BOOT_LOAD_CMD) 4 true id fun t =>
        let s1 := ((t.setReg (ecKey BOOT_LOAD_SRC) (BitVec.ofNat 64 (rfield e 0x10 8 % 2 ^ 48))).setReg (ecKey BOOT_LOAD_LEN)
          (BitVec.ofNat 64 (rfield e 4 4))).setReg (ecKey BOOT_LOAD_ORG) (BitVec.ofNat 64 (rfield e 0x18 4 % 2 ^ 15))
        (if s1.load.isSome then s1.loadStart.setResult p n 1 10
         else (s1.setRing p n { s1.ring p n with loading := true }).loadStart, 0)
      if r.2 = 0 then r.1 else r.1.setResult p n r.2 (lastCls s r.1)

/-- OPC 6: BOOT_JOB_CMD, at the engine controller (R519). -/
def ringJob (s : State) (p n : Nat) : State :=
  match s.entryRuns p n 6 with
  | none => s
  | some e =>
    let r := s.carried (portDie p) (.host p) (4 * 2 ^ 44 + BOOT_JOB_CMD) 4 true id fun t =>
      let u := t.jobCmd (rfield e 0x18 4); (u, if lastCls t u = 0x8E then 1 else 0)
    r.1.setResult p n r.2 (if r.2 = 0 then 0 else lastCls s r.1)

/-! ### PHASE 4 (R234, R235) -/

/-- One KIND 4 entry at one cell. -/
def applyEntry (s : State) (c : Nat) (e : Nat × Nat × Bool × DWord) : State :=
  if s.load.isNone then s
  else
    let ga := gaCtl s c e.2.1
    let r := s.carried s.ctlDie .firmware ga (if e.2.2.1 then 8 else 4) true (fun _ => false) fun t => t.ctlWrite .firmware (cellKey c e.2.1) e.2.2.1 e.2.2.2 ga
    if r.2 then r.1 else r.1.loadCellFail c

/-- PHASE 4: the held entries in table order, then LOADED. -/
def loadInit (s : State) : State :=
  match s.load with
  | none => s
  | some l =>
    if !l.prepared || (!l.k5 && l.segs.any fun g => g.kind == 5) || !s.roundOver l || (roundsOf l)[l.round]?.isSome then s
    else
      let s0 := (if l.round = 0 then s.writeKernels l else s).logPatches l.job
      let s1 := s0.setPhase 4
      let s2 := l.k4.foldl (fun t e => match l.segs[e.1]? with
        | some g => (s.segCells g).foldl (fun u c => u.applyEntry c e) t
        | none => t) s1
      if s2.load.isNone then s2
      else ((({ s2 with load := none }).setJobState l.job 2).setPhase 5).loadEvent

end State

/-! ### Commands -/

/-- HOST_BAR_READ (R314, R316-R319, R433): `ecrc` says whether the TLP's ECRC holds. -/
def execHostBarRead (port bar off len : Nat) (ecrc : Bool) (fates : List Fate) (s : State) : Res :=
  .next (if s.ecrcBad port ecrc then s.ecrcDrop port else s.withFates fates fun t => t.hostRead port bar off len)

/-- HOST_BAR_WRITE (R314, R316-R319, R433): `ecrc` as for a read. -/
def execHostBarWrite (port bar off : Nat) (data : List Byte) (ep ecrc : Bool) (fates : List Fate) (s : State) : Res :=
  .next (if s.ecrcBad port ecrc then s.ecrcDrop port else s.withFates fates fun t => t.hostWrite port bar off data ep)

/-- RING_REGISTER_WRITE (R327). -/
def execRingRegisterWrite (port n : Nat) (fates : List Fate) (s : State) : Res := .next (s.withFates fates fun t => t.ringReg port n)

/-- RING_LOAD (R327). -/
def execRingLoad (port n : Nat) (fates : List Fate) (s : State) : Res := .next (s.withFates fates fun t => t.ringLoad port n)

/-- RING_JOB_COMMAND (R327). -/
def execRingJobCommand (port n : Nat) (fates : List Fate) (s : State) : Res := .next (s.withFates fates fun t => t.ringJob port n)

/-- LOAD_INITIALISE (R234, R235). -/
def execLoadInitialise (s : State) : Res := .next s.loadInit

end Sys2Proof.Machine
end

