-- ==== Sys2Proof/Machine/Rv32.lean ====
section
/-! DEFINITION. RV32IMFC with Zicsr in machine mode, as the cores implement it (R160, R163, R164): compressed forms, integer and
floating-point instructions, control and status registers. An instruction is its 32-bit word; what it does to memory stands
in Cores.lean, vectors in Rv32Vec.lean. -/

namespace Sys2Proof.Machine

/-- A number of `n` bits, sign-extended to 32. -/
def sext32 (n v : Nat) : Nat := ofSigned 32 (toSigned n v)
def w32 (v : Nat) : Nat := v % 2 ^ 32
def isum (v : Int) : Nat := ofSigned 32 v

/-! ### Fields of a 32-bit instruction -/

def opc (w : Nat) : Nat := bits w 0 7
def rdOf (w : Nat) : Nat := bits w 7 5
def f3Of (w : Nat) : Nat := bits w 12 3
def rs1Of (w : Nat) : Nat := bits w 15 5
def rs2Of (w : Nat) : Nat := bits w 20 5
def f7Of (w : Nat) : Nat := bits w 25 7
def immI (w : Nat) : Nat := sext32 12 (bits w 20 12)
def immS (w : Nat) : Nat := sext32 12 (bits w 7 5 + bits w 25 7 * 2 ^ 5)
def immB (w : Nat) : Nat := sext32 13 (bits w 8 4 * 2 + bits w 25 6 * 2 ^ 5 + bits w 7 1 * 2 ^ 11 + bits w 31 1 * 2 ^ 12)
def immU (w : Nat) : Nat := bits w 12 20 * 2 ^ 12
def immJ (w : Nat) : Nat := sext32 21 (bits w 21 10 * 2 + bits w 20 1 * 2 ^ 11 + bits w 12 8 * 2 ^ 12 + bits w 31 1 * 2 ^ 20)

def encI (op f3 rd rs1 imm : Nat) : Nat := op + rd * 2 ^ 7 + f3 * 2 ^ 12 + rs1 * 2 ^ 15 + imm % 2 ^ 12 * 2 ^ 20
def encR (op f3 f7 rd rs1 rs2 : Nat) : Nat := op + rd * 2 ^ 7 + f3 * 2 ^ 12 + rs1 * 2 ^ 15 + rs2 * 2 ^ 20 + f7 * 2 ^ 25
def encS (op f3 rs1 rs2 imm : Nat) : Nat :=
  op + bits imm 0 5 * 2 ^ 7 + f3 * 2 ^ 12 + rs1 * 2 ^ 15 + rs2 * 2 ^ 20 + bits imm 5 7 * 2 ^ 25
def encB (f3 rs1 rs2 imm : Nat) : Nat :=
  0x63 + bits imm 11 1 * 2 ^ 7 + bits imm 1 4 * 2 ^ 8 + f3 * 2 ^ 12 + rs1 * 2 ^ 15 + rs2 * 2 ^ 20 + bits imm 5 6 * 2 ^ 25 +
    bits imm 12 1 * 2 ^ 31
def encJ (rd imm : Nat) : Nat :=
  0x6F + rd * 2 ^ 7 + bits imm 12 8 * 2 ^ 12 + bits imm 11 1 * 2 ^ 20 + bits imm 1 10 * 2 ^ 21 + bits imm 20 1 * 2 ^ 31

/-! ### Compressed instructions -/

def cImm6 (h : Nat) : Nat := sext32 6 (bits h 2 5 + bits h 12 1 * 2 ^ 5)
def cImmJ (h : Nat) : Nat :=
  sext32 12 (bits h 3 3 * 2 + bits h 11 1 * 2 ^ 4 + bits h 2 1 * 2 ^ 5 + bits h 7 1 * 2 ^ 6 + bits h 6 1 * 2 ^ 7 + bits h 9 2 * 2 ^ 8 +
    bits h 8 1 * 2 ^ 10 + bits h 12 1 * 2 ^ 11)
def cImmB (h : Nat) : Nat :=
  sext32 9 (bits h 3 2 * 2 + bits h 10 2 * 2 ^ 3 + bits h 2 1 * 2 ^ 5 + bits h 5 2 * 2 ^ 6 + bits h 12 1 * 2 ^ 8)

def expandC0 (h : Nat) : Option Nat :=
  let rd := 8 + bits h 2 3
  let rs := 8 + bits h 7 3
  let im := bits h 10 3 * 8 + bits h 6 1 * 4 + bits h 5 1 * 64
  let sp := bits h 11 2 * 16 + bits h 7 4 * 64 + bits h 6 1 * 4 + bits h 5 1 * 8
  match bits h 13 3 with
  | 0 => if sp = 0 then none else some (encI 0x13 0 rd 2 sp)
  | 2 => some (encI 0x03 2 rd rs im)
  | 3 => some (encI 0x07 2 rd rs im)
  | 6 => some (encS 0x23 2 rs rd im)
  | 7 => some (encS 0x27 2 rs rd im)
  | _ => none

def expandC1 (h : Nat) : Option Nat :=
  let r := bits h 7 5
  let rd := 8 + bits h 7 3
  let rs := 8 + bits h 2 3
  let im := cImm6 h
  let sp := sext32 10 (bits h 6 1 * 2 ^ 4 + bits h 2 1 * 2 ^ 5 + bits h 5 1 * 2 ^ 6 + bits h 3 2 * 2 ^ 7 + bits h 12 1 * 2 ^ 9)
  match bits h 13 3 with
  | 0 => some (encI 0x13 0 r r im)
  | 1 => some (encJ 1 (cImmJ h))
  | 2 => some (encI 0x13 0 r 0 im)
  | 3 => if im = 0 then none else if r = 2 then some (encI 0x13 0 2 2 sp) else some (0x37 + r * 2 ^ 7 + bits im 0 20 * 2 ^ 12)
  | 4 =>
    if bits h 10 2 = 0 then (if bit h 12 then none else some (encI 0x13 5 rd rd (bits h 2 5)))
    else if bits h 10 2 = 1 then (if bit h 12 then none else some (encI 0x13 5 rd rd (bits h 2 5 + 0x400)))
    else if bits h 10 2 = 2 then some (encI 0x13 7 rd rd im)
    else if bit h 12 then none
    else match bits h 5 2 with
      | 0 => some (encR 0x33 0 0x20 rd rd rs)
      | 1 => some (encR 0x33 4 0 rd rd rs)
      | 2 => some (encR 0x33 6 0 rd rd rs)
      | _ => some (encR 0x33 7 0 rd rd rs)
  | 5 => some (encJ 0 (cImmJ h))
  | 6 => some (encB 0 rd 0 (cImmB h))
  | _ => some (encB 1 rd 0 (cImmB h))

def expandC2 (h : Nat) : Option Nat :=
  let r := bits h 7 5
  let q := bits h 2 5
  let lo := bits h 4 3 * 4 + bits h 12 1 * 32 + bits h 2 2 * 64
  let so := bits h 9 4 * 4 + bits h 7 2 * 64
  match bits h 13 3 with
  | 0 => if bit h 12 then none else some (encI 0x13 1 r r q)
  | 2 => if r = 0 then none else some (encI 0x03 2 r 2 lo)
  | 3 => some (encI 0x07 2 r 2 lo)
  | 4 =>
    if !bit h 12 then (if q = 0 then (if r = 0 then none else some (encI 0x67 0 0 r 0)) else some (encR 0x33 0 0 r 0 q))
    else if q = 0 then (if r = 0 then some 0x00100073 else some (encI 0x67 0 1 r 0))
    else some (encR 0x33 0 0 r r q)
  | 6 => some (encS 0x23 2 2 q so)
  | 7 => some (encS 0x27 2 2 q so)
  | _ => none

/-- The instruction a compressed one stands for; none where it is illegal on RV32FC. -/
def expandC (h : Nat) : Option Nat :=
  match h % 4 with
  | 0 => expandC0 h
  | 1 => expandC1 h
  | _ => expandC2 h

/-! ### Registers of a core -/

def CoreSt.xr (x : CoreSt) (r : Nat) : Nat := if r = 0 then 0 else ((x.x[r]?).getD 0).toNat
def CoreSt.fr (x : CoreSt) (r : Nat) : Nat := ((x.f[r]?).getD 0).toNat
def CoreSt.wx (x : CoreSt) (r v : Nat) : CoreSt := if r = 0 then x else { x with x := x.x.set r (BitVec.ofNat 32 v) }
def CoreSt.wf (x : CoreSt) (r v : Nat) : CoreSt := { x with f := x.f.set r (BitVec.ofNat 32 v) }
def CoreSt.csrOf (x : CoreSt) (n : Nat) : Nat := (SMap.get x.csr n 0).toNat
def CoreSt.putCsr (x : CoreSt) (n v : Nat) : CoreSt := { x with csr := SMap.set x.csr n (BitVec.ofNat 32 v) 0 }
/-- Accrued exceptions into fflags. -/
def CoreSt.accrue (x : CoreSt) (fl : Nat) : CoreSt := x.putCsr 1 (x.csrOf 1 ||| fl)
def CoreSt.pcn (x : CoreSt) : Nat := x.pc.toNat
def CoreSt.goto (x : CoreSt) (p : Nat) : CoreSt := { x with pc := BitVec.ofNat 32 p }

/-! ### CSRs (R160, R163); their values beyond the spec's are the privileged architecture's (log 21) -/

/-- mcycle and minstret both count delivered pulses (R162): `cyc` plus an offset that a write sets. -/
def CoreSt.counter (x : CoreSt) (n cyc : Nat) : Nat := (cyc + x.csrOf n + x.csrOf (n + 0x80) * 2 ^ 32) % 2 ^ 64

def CoreSt.setCounter (x : CoreSt) (n cyc v : Nat) : CoreSt :=
  let off := (v + 2 ^ 64 - cyc % 2 ^ 64) % 2 ^ 64
  (x.putCsr n (bits off 0 32)).putCsr (n + 0x80) (bits off 32 32)

/-- mstatus: FS, VS and MPP read 3, SD 1; MIE and MPIE are held. -/
def CoreSt.mstatus (x : CoreSt) : Nat := 0x80007E00 + (x.csrOf 0x300 &&& 0x88)

/-- A CSR read; none where the CSR does not exist. -/
def CoreSt.csrRead (x : CoreSt) (n cyc hart : Nat) : Option Nat :=
  if [1, 2, 8, 9, 0xA, 0xC20, 0xC21, 0x305, 0x340, 0x341, 0x342, 0x343, 0xFC0, 0xFC1, 0xFC2].contains n then some (x.csrOf n)
  else if n = 3 then some (x.csrOf 1 + x.csrOf 2 * 2 ^ 5)
  else if n = 0xF then some (x.csrOf 9 + x.csrOf 0xA * 2)
  else if n = 0xC22 then some 32
  else if n = 0x300 then some x.mstatus
  else if n = 0x301 then some 0x40001124
  else if n = 0xB00 ∨ n = 0xB02 then some (bits (x.counter n cyc) 0 32)
  else if n = 0xB80 ∨ n = 0xB82 then some (bits (x.counter (n - 0x80) cyc) 32 32)
  else if n = 0xF14 then some hart
  else if n = 0x304 ∨ n = 0x344 ∨ n = 0x310 ∨ n = 0x320 ∨ n = 0xF11 ∨ n = 0xF12 ∨ n = 0xF13 ∨ n = 0xF15 then some 0
  else if (0x323 ≤ n ∧ n < 0x340) ∨ (0xB03 ≤ n ∧ n < 0xB20) ∨ (0xB83 ≤ n ∧ n < 0xBA0) then some 0
  else none

/-- A CSR write. -/
def CoreSt.csrWrite (x : CoreSt) (n v cyc : Nat) : CoreSt :=
  if n = 1 then x.putCsr 1 (v % 32)
  else if n = 2 then x.putCsr 2 (v % 8)
  else if n = 3 then (x.putCsr 1 (v % 32)).putCsr 2 (bits v 5 3)
  else if n = 8 then x.putCsr 8 (v % 256)
  else if n = 9 then x.putCsr 9 (v % 2)
  else if n = 0xA then x.putCsr 0xA (v % 4)
  else if n = 0xF then (x.putCsr 9 (v % 2)).putCsr 0xA (bits v 1 2)
  else if n = 0x300 then x.putCsr 0x300 (v &&& 0x88)
  else if n = 0x305 then x.putCsr n (v / 4 * 4 + v % 2)
  else if n = 0x341 then x.putCsr n (v / 2 * 2)
  else if n = 0x340 ∨ n = 0x342 ∨ n = 0x343 then x.putCsr n v
  else if n = 0xB00 ∨ n = 0xB02 then x.setCounter n cyc (bits (x.counter n cyc) 32 32 * 2 ^ 32 + v)
  else if n = 0xB80 ∨ n = 0xB82 then x.setCounter (n - 0x80) cyc (bits (x.counter (n - 0x80) cyc) 0 32 + v * 2 ^ 32)
  else x

/-- CSRRW, CSRRS, CSRRC and their immediate forms. -/
def csrOp (x : CoreSt) (w cyc hart : Nat) : Option CoreSt :=
  let n := bits w 20 12
  let src := if bit w 14 then rs1Of w else x.xr (rs1Of w)
  let op := f3Of w % 4
  let writes := op == 1 || rs1Of w != 0
  match x.csrRead n cyc hart with
  | none => none
  | some old =>
    if writes && bits n 10 2 == 3 then none
    else
      let v := if op = 1 then src else if op = 2 then old ||| src else old &&& (src ^^^ 0xFFFFFFFF)
      some ((if writes then x.csrWrite n v cyc else x).wx (rdOf w) old)

/-! ### Integer instructions -/

/-- Register-register operations; `b` also the immediate of an OP-IMM. -/
def alu (f3 a b : Nat) (alt : Bool) : Nat :=
  match f3 with
  | 0 => if alt then a + 2 ^ 32 - b else a + b
  | 1 => a * 2 ^ (b % 32)
  | 2 => if toSigned 32 a < toSigned 32 b then 1 else 0
  | 3 => if a < b then 1 else 0
  | 4 => a ^^^ b
  | 5 => if alt then isum (toSigned 32 a / 2 ^ (b % 32)) else a / 2 ^ (b % 32)
  | 6 => a ||| b
  | _ => a &&& b

/-- The M extension. -/
def mulDiv (f3 a b : Nat) : Nat :=
  let sa := toSigned 32 a
  let sb := toSigned 32 b
  match f3 with
  | 0 => a * b
  | 1 => isum (sa * sb / 2 ^ 32)
  | 2 => isum (sa * (b : Int) / 2 ^ 32)
  | 3 => a * b / 2 ^ 32
  | 4 => if b = 0 then 0xFFFFFFFF else isum (Int.tdiv sa sb)
  | 5 => if b = 0 then 0xFFFFFFFF else a / b
  | 6 => if b = 0 then a else isum (Int.tmod sa sb)
  | _ => if b = 0 then a else a % b

def branchTaken (f3 a b : Nat) : Option Bool :=
  match f3 with
  | 0 => some (a == b)
  | 1 => some (a != b)
  | 4 => some (decide (toSigned 32 a < toSigned 32 b))
  | 5 => some (decide (toSigned 32 b ≤ toSigned 32 a))
  | 6 => some (decide (a < b))
  | 7 => some (decide (b ≤ a))
  | _ => none

/-! ### Floating-point instructions -/

/-- Rounding mode in force; none where it is reserved. -/
def rmOf (x : CoreSt) (rm : Nat) : Option Nat :=
  let m := if rm = 7 then x.csrOf 2 else rm
  if m ≤ 4 then some m else none

def wfr (x : CoreSt) (rd : Nat) (r : FpRes) : CoreSt := (x.wf rd r.v).accrue r.fl

/-- FMADD, FMSUB, FNMSUB, FNMADD. -/
def fmaOp (x : CoreSt) (w : Nat) : Option CoreSt :=
  let a := fpDecode fp32 (x.fr (rs1Of w))
  let b := fpDecode fp32 (x.fr (rs2Of w))
  let d := fpDecode fp32 (x.fr (bits w 27 5))
  if bits w 25 2 ≠ 0 then none
  else match rmOf x (f3Of w) with
    | none => none
    | some rm =>
      let r := match opc w with
        | 0x43 => fpFma fp32 rm a b d
        | 0x47 => fpFma fp32 rm a b d.neg
        | 0x4B => fpFma fp32 rm a.neg b d
        | _ => fpFma fp32 rm a.neg b d.neg
      some (wfr x (rdOf w) r)

/-- Sign of `b` into `a`: FSGNJ, FSGNJN, FSGNJX. -/
def sgnj (f3 a b : Nat) : Nat :=
  let s := b / 2 ^ 31 % 2
  a % 2 ^ 31 + 2 ^ 31 * (if f3 = 0 then s else if f3 = 1 then 1 - s else (a / 2 ^ 31 % 2 + s) % 2)

/-- OP-FP. -/
def fpOp (x : CoreSt) (w : Nat) : Option CoreSt :=
  let a := x.fr (rs1Of w)
  let b := x.fr (rs2Of w)
  let rd := rdOf w
  let f3 := f3Of w
  let rnd := fun (g : Nat → CoreSt) => (rmOf x f3).map g
  let cvt := rs2Of w
  match f7Of w with
  | 0x00 => rnd fun m => wfr x rd (fpAdd fp32 m a b)
  | 0x04 => rnd fun m => wfr x rd (fpSub fp32 m a b)
  | 0x08 => rnd fun m => wfr x rd (fpMul fp32 m a b)
  | 0x0C => rnd fun m => wfr x rd (fpDiv fp32 m a b)
  | 0x2C => if cvt = 0 then rnd fun m => wfr x rd (fpSqrt fp32 m a) else none
  | 0x10 => if f3 < 3 then some (x.wf rd (sgnj f3 a b)) else none
  | 0x14 => if f3 < 2 then some (wfr x rd (fpMinMax fp32 (f3 == 1) a b)) else none
  | 0x50 => if f3 < 3 then (let r := fpCmp fp32 f3 a b; some ((x.wx rd (if r.1 then 1 else 0)).accrue r.2)) else none
  | 0x60 => if cvt < 2 then rnd fun m => (let r := fpToInt fp32 (cvt == 0) m a; (x.wx rd r.v).accrue r.fl) else none
  | 0x68 => if cvt < 2 then rnd fun m => wfr x rd (fpOfInt fp32 (cvt == 0) m (x.xr (rs1Of w))) else none
  | 0x70 =>
    if cvt ≠ 0 then none
    else if f3 = 0 then some (x.wx rd a)
    else if f3 = 1 then some (x.wx rd (fpClass fp32 a))
    else none
  | 0x78 => if cvt = 0 ∧ f3 = 0 then some (x.wf rd (x.xr (rs1Of w))) else none
  | _ => none

/-! ### Execution but for memory, vectors and exceptions -/

/-- MRET: the handler ends (R164). -/
def mret (x : CoreSt) : CoreSt :=
  let st := x.csrOf 0x300
  { (x.putCsr 0x300 ((if bit st 7 then 8 else 0) + 0x80)).goto (x.csrOf 0x341) with inHandler := false }

/-- An instruction that touches no memory: the core after it; none where it is illegal. -/
def execScalar (x : CoreSt) (w len cyc hart : Nat) : Option CoreSt :=
  let a := x.xr (rs1Of w)
  let b := x.xr (rs2Of w)
  let rd := rdOf w
  let next := (x.pcn + len) % 2 ^ 32
  let go := fun (y : CoreSt) => some (y.goto next)
  match opc w with
  | 0x37 => go (x.wx rd (immU w))
  | 0x17 => go (x.wx rd (x.pcn + immU w))
  | 0x6F => some ((x.wx rd next).goto (x.pcn + immJ w))
  | 0x67 => if f3Of w = 0 then some ((x.wx rd next).goto (w32 (a + immI w) / 2 * 2)) else none
  | 0x63 => (branchTaken (f3Of w) a b).map fun t => x.goto (if t then x.pcn + immB w else next)
  | 0x13 =>
    let sh := f3Of w == 1 || f3Of w == 5
    if sh && !(f7Of w == 0 || (f7Of w == 0x20 && f3Of w == 5)) then none
    else go (x.wx rd (alu (f3Of w) a (if sh then rs2Of w else immI w) (f3Of w == 5 && f7Of w == 0x20)))
  | 0x33 =>
    if f7Of w = 0 then go (x.wx rd (alu (f3Of w) a b false))
    else if f7Of w = 1 then go (x.wx rd (mulDiv (f3Of w) a b))
    else if f7Of w = 0x20 ∧ (f3Of w = 0 ∨ f3Of w = 5) then go (x.wx rd (alu (f3Of w) a b true))
    else none
  | 0x73 =>
    if w = 0x30200073 then some (mret x)
    else if w = 0x10500073 then go x
    else if f3Of w % 4 = 0 then none
    else (csrOp x w cyc hart).map fun y => y.goto next
  | 0x53 => (fpOp x w).map fun y => y.goto next
  | 0x43 | 0x47 | 0x4B | 0x4F => (fmaOp x w).map fun y => y.goto next
  | _ => none

end Sys2Proof.Machine
end

