-- ==== Sys2Proof/Machine/Rv32Vec.lean ====
section
/-! DEFINITION. The Zve32f vector subset with VLEN 256 and ELEN 32 (R160): configuration, integer, fixed-point, floating-point,
mask and permutation instructions, and the plan of a vector load or store. What the vector extension leaves to an
implementation is chosen as log 22 says: undisturbed tails and masked-off elements, vl = min(AVL, VLMAX), reserved forms illegal. -/

namespace Sys2Proof.Machine

/-! ### Registers and vtype -/

/-- Element `i` of `eew` bits in the group at register `r`. -/
def vGet (v : List (BitVec 256)) (r eew i : Nat) : Nat := bits ((v[r + i * eew / 256]?).getD 0).toNat (i * eew % 256) eew

/-- Element `i` replaced. -/
def vPut (v : List (BitVec 256)) (r eew i val : Nat) : List (BitVec 256) :=
  let q := r + i * eew / 256
  let lo := i * eew % 256
  let old := ((v[q]?).getD 0).toNat
  v.set q (BitVec.ofNat 256 (old - bits old lo eew * 2 ^ lo + val % 2 ^ eew * 2 ^ lo))

/-- LMUL in eighths. -/
def lmulOf (code : Nat) : Nat :=
  match code with
  | 0 => 8
  | 1 => 16
  | 2 => 32
  | 3 => 64
  | 5 => 1
  | 6 => 2
  | 7 => 4
  | _ => 0

def vlmax (sew lm : Nat) : Nat := 32 * lm / sew

/-- SEW and LMUL in eighths of a vtype value; none where it is not supported. -/
def vtypeOf (t : Nat) : Option (Nat × Nat) :=
  let sew := 8 * 2 ^ bits t 3 3
  let lm := lmulOf (bits t 0 3)
  if 256 ≤ t ∨ 32 < sew ∨ lm = 0 ∨ 4 * lm < sew then none else some (sew, lm)

/-- VSETVLI, VSETIVLI, VSETVL. -/
def vsetvl (x : CoreSt) (w : Nat) : Option CoreSt :=
  let rd := rdOf w
  let rs := rs1Of w
  let form := if !bit w 31 then some (bits w 20 11, none) else if bit w 30 then some (bits w 20 10, some rs)
    else if f7Of w = 0x40 then some (x.xr (rs2Of w), none) else none
  match form with
  | none => none
  | some (t, imm) =>
    let bad := some (((x.putCsr 0xC21 0x80000000).putCsr 0xC20 0).putCsr 8 0 |>.wx rd 0)
    match vtypeOf t with
    | none => bad
    | some (sew, lm) =>
      let m := vlmax sew lm
      let old := match vtypeOf (x.csrOf 0xC21) with | some (s, l) => vlmax s l | none => 0
      let keep := imm.isNone && rs == 0 && rd == 0
      let avl := match imm with
        | some n => n
        | none => if rs ≠ 0 then x.xr rs else if rd ≠ 0 then 2 ^ 32 - 1 else x.csrOf 0xC20
      if keep && old != m then bad
      else
        let vl := min avl m
        some (((x.putCsr 0xC21 t).putCsr 0xC20 vl).putCsr 8 0 |>.wx rd vl)

/-! ### Operands of an instruction -/

/-- What an arithmetic instruction works under. -/
structure VCfg where
  sew : Nat
  lm : Nat
  vl : Nat
  start : Nat
  vm : Bool
  vd : Nat
  vs2 : Nat
  vs1 : Nat
  f6 : Nat
deriving DecidableEq, Repr

def vcfg (x : CoreSt) (w : Nat) : Option VCfg :=
  (vtypeOf (x.csrOf 0xC21)).map fun t =>
    { sew := t.1, lm := t.2, vl := x.csrOf 0xC20, start := x.csrOf 8, vm := bit w 25, vd := rdOf w, vs2 := rs2Of w, vs1 := rs1Of w,
      f6 := bits w 26 6 }

def mskBit (x : CoreSt) (r i : Nat) : Bool := vGet x.v r 1 i == 1

/-- The body elements, and those of them that are active. -/
def VCfg.body (k : VCfg) : List Nat := (List.range k.vl).filter fun i => decide (k.start ≤ i)
def VCfg.active (k : VCfg) (x : CoreSt) : List Nat := k.body.filter fun i => k.vm || mskBit x 0 i

/-- Registers of a group. -/
def groupRegs (m : Nat) : Nat := max 1 (m / 8)
def groupOk (r m : Nat) : Bool := 1 ≤ m && m ≤ 64 && r % groupRegs m == 0
/-- A destination of `de` bits and a source of `se` bits may overlap. -/
def overlapOk (vd de dm vs se sm : Nat) : Bool :=
  decide (vd + groupRegs dm ≤ vs) || decide (vs + groupRegs sm ≤ vd) || de == se || (decide (de < se) && vd == vs) ||
    (decide (se < de) && decide (8 ≤ sm) && vs + groupRegs sm == vd + groupRegs dm)
def disjoint (vd dm vs sm : Nat) : Bool := decide (vd + groupRegs dm ≤ vs) || decide (vs + groupRegs sm ≤ vd)

/-- A destination group under a mask may not hold v0. -/
def VCfg.maskOk (k : VCfg) : Bool := k.vm || k.vd != 0

/-- vstart returns to 0. -/
def vDone (x : CoreSt) : CoreSt := x.putCsr 8 0

/-- Write elements of the destination: `g` gives each one's value and flags, which accrue into CSR `fl`. -/
def vMap (x : CoreSt) (vd eew fl : Nat) (is : List Nat) (g : Nat → Nat × Nat) : CoreSt :=
  let r := is.foldl (fun (a : List (BitVec 256) × Nat) i => let e := g i; (vPut a.1 vd eew i e.1, a.2 ||| e.2)) (x.v, 0)
  vDone (({ x with v := r.1 }).putCsr fl (x.csrOf fl ||| r.2))

/-! ### Integer and fixed-point functions of elements -/

/-- The low `n` bits of an integer. -/
def lowBits (n : Nat) (v : Int) : Nat := ofSigned n v

/-- v / 2^d rounded by vxrm. -/
def roundOff (vxrm : Nat) (v : Int) (d : Nat) : Int :=
  let q := v / 2 ^ d
  let r := (v % 2 ^ d).toNat
  let up := match vxrm with
    | 0 => decide (2 ^ d ≤ 2 * r) && r != 0
    | 1 => decide (2 ^ d < 2 * r) || (2 * r == 2 ^ d && r != 0 && q % 2 == 1)
    | 2 => false
    | _ => r != 0 && q % 2 == 0
  if up then q + 1 else q

def satS (n : Nat) (v : Int) : Nat × Nat :=
  let hi : Int := 2 ^ (n - 1) - 1
  let lo : Int := -2 ^ (n - 1)
  if hi < v then (lowBits n hi, 1) else if v < lo then (lowBits n lo, 1) else (lowBits n v, 0)

def satU (n : Nat) (v : Int) : Nat × Nat :=
  if v < 0 then (0, 1) else if (2 : Int) ^ n ≤ v then (2 ^ n - 1, 1) else (v.toNat, 0)

/-- Single-width operations of OPI: vs2 element, other operand; value and saturation. -/
def opI (n vxrm f6 a b : Nat) : Option (Nat × Nat) :=
  let sa := toSigned n a
  let sb := toSigned n b
  let sh := b % n
  let ok := fun (v : Int) => some (lowBits n v, 0)
  match f6 with
  | 0x00 => ok (a + b)
  | 0x02 => ok (a - b)
  | 0x03 => ok (b - a)
  | 0x04 => ok (min a b)
  | 0x05 => ok (min sa sb)
  | 0x06 => ok (max a b)
  | 0x07 => ok (max sa sb)
  | 0x09 => ok (a &&& b : Nat)
  | 0x0A => ok (a ||| b : Nat)
  | 0x0B => ok (a ^^^ b : Nat)
  | 0x20 => some (satU n (a + b))
  | 0x21 => some (satS n (sa + sb))
  | 0x22 => some (satU n ((a : Int) - b))
  | 0x23 => some (satS n (sa - sb))
  | 0x25 => ok (a * 2 ^ sh)
  | 0x27 => some (satS n (roundOff vxrm (sa * sb) (n - 1)))
  | 0x28 => ok (a / 2 ^ sh : Nat)
  | 0x29 => ok (sa / 2 ^ sh)
  | 0x2A => ok (roundOff vxrm a sh)
  | 0x2B => ok (roundOff vxrm sa sh)
  | _ => none

/-- Narrowing operations: a source of 2n bits. -/
def opNarrow (n vxrm f6 a b : Nat) : Option (Nat × Nat) :=
  let sa := toSigned (2 * n) a
  let sh := b % (2 * n)
  match f6 with
  | 0x2C => some (lowBits n (a / 2 ^ sh : Nat), 0)
  | 0x2D => some (lowBits n (sa / 2 ^ sh), 0)
  | 0x2E => some (satU n (roundOff vxrm a sh))
  | 0x2F => some (satS n (roundOff vxrm sa sh))
  | _ => none

/-- Integer comparisons: vs2 against the other operand. -/
def opCmp (n f6 a b : Nat) : Option Bool :=
  let sa := toSigned n a
  let sb := toSigned n b
  match f6 with
  | 0x18 => some (a == b)
  | 0x19 => some (a != b)
  | 0x1A => some (decide (a < b))
  | 0x1B => some (decide (sa < sb))
  | 0x1C => some (decide (a ≤ b))
  | 0x1D => some (decide (sa ≤ sb))
  | 0x1E => some (decide (b < a))
  | 0x1F => some (decide (sb < sa))
  | _ => none

/-- Single-width operations of OPM: vs2 element, other operand, old destination. -/
def opM (n vxrm f6 a b d : Nat) : Option Nat :=
  let sa := toSigned n a
  let sb := toSigned n b
  let ok := fun (v : Int) => some (lowBits n v)
  match f6 with
  | 0x08 => ok (roundOff vxrm (a + b) 1)
  | 0x09 => ok (roundOff vxrm (sa + sb) 1)
  | 0x0A => ok (roundOff vxrm ((a : Int) - b) 1)
  | 0x0B => ok (roundOff vxrm (sa - sb) 1)
  | 0x20 => ok (if b = 0 then 2 ^ n - 1 else (a / b : Nat))
  | 0x21 => ok (if b = 0 then -1 else Int.tdiv sa sb)
  | 0x22 => ok (if b = 0 then a else (a % b : Nat))
  | 0x23 => ok (if b = 0 then sa else Int.tmod sa sb)
  | 0x24 => ok (a * b / 2 ^ n : Nat)
  | 0x25 => ok (a * b)
  | 0x26 => ok (sa * (b : Int) / 2 ^ n)
  | 0x27 => ok (sa * sb / 2 ^ n)
  | 0x29 => ok (b * d + a)
  | 0x2B => ok ((a : Int) - b * d)
  | 0x2D => ok (b * a + d)
  | 0x2F => ok ((d : Int) - b * a)
  | _ => none

/-- Widening operations: operands of n bits (`a` of 2n bits in the .w forms), result of 2n bits. -/
def opWide (n f6 a b d : Nat) : Option Nat :=
  let sa := toSigned n a
  let sb := toSigned n b
  let ok := fun (v : Int) => some (lowBits (2 * n) v)
  match f6 with
  | 0x30 => ok (a + b)
  | 0x31 => ok (sa + sb)
  | 0x32 => ok ((a : Int) - b)
  | 0x33 => ok (sa - sb)
  | 0x34 => ok (a + b)
  | 0x35 => ok (a + sb)
  | 0x36 => ok ((a : Int) - b)
  | 0x37 => ok (a - sb)
  | 0x38 => ok (a * b)
  | 0x3A => ok (sa * b)
  | 0x3B => ok (sa * sb)
  | 0x3C => ok (a * b + d)
  | 0x3D => ok (sa * sb + d)
  | 0x3E => ok (a * sb + d)
  | 0x3F => ok (sa * b + d)
  | _ => none

/-- Reductions of OPM. -/
def opRed (n f6 acc a : Nat) : Option Nat :=
  let sa := toSigned n a
  let sc := toSigned n acc
  match f6 with
  | 0x00 => some ((acc + a) % 2 ^ n)
  | 0x01 => some (acc &&& a)
  | 0x02 => some (acc ||| a)
  | 0x03 => some (acc ^^^ a)
  | 0x04 => some (min acc a)
  | 0x05 => some (lowBits n (min sc sa))
  | 0x06 => some (max acc a)
  | 0x07 => some (lowBits n (max sc sa))
  | _ => none

/-! ### Floating-point functions of elements -/

/-- VFREC7 and VFRSQRT7 take an input apart: exponent and 23-bit significand, a subnormal number normalised. -/
def normSub : Nat → Int → Nat → Int × Nat
  | 0, e, m => (e, m)
  | k + 1, e, m => if m < 2 ^ 22 then normSub k (e - 1) (m * 2) else (e, m * 2 % 2 ^ 23)

def expSig (a : Nat) : Int × Nat :=
  let e := bits a 23 8
  if e = 0 then normSub 23 0 (bits a 0 23) else (e, bits a 0 23)

/-- The 7-bit estimate of the reciprocal: the significand at the middle of its interval, rounded to nearest. -/
def rec7 (i : Nat) : Nat := (131072 + (257 + 2 * i)) / (2 * (257 + 2 * i)) - 128

/-- The 7-bit estimate of the reciprocal square root. -/
def rsqrt7 (i : Nat) : Nat := (natSqrt 13 ((if i < 64 then 16777216 else 33554432) / (129 + 2 * (i % 64))) + 1) / 2 - 128

/-- VFREC7. -/
def fpRec7 (rm a : Nat) : FpRes :=
  let sg := a / 2 ^ 31 * 2 ^ 31
  let neg := bit a 31
  match fpDecode fp32 a with
  | .nan s => fpNan fp32 s
  | .inf _ => ⟨sg, 0⟩
  | .fin _ m _ =>
    if m = 0 then ⟨sg + fp32.inf, 8⟩
    else
      let es := expSig a
      if es.1 < -1 then
        (if rm = 1 ∨ (rm = 2 ∧ ¬ neg) ∨ (rm = 3 ∧ neg) then ⟨sg + fp32.inf - 1, 5⟩ else ⟨sg + fp32.inf, 5⟩)
      else
        let sig := rec7 (es.2 / 2 ^ 16) * 2 ^ 16
        let e := 253 - es.1
        if e = 0 then ⟨sg + sig / 2 + 2 ^ 22, 0⟩
        else if e < 0 then ⟨sg + (sig / 2 + 2 ^ 22) / 2, 0⟩
        else ⟨sg + e.toNat * 2 ^ 23 + sig, 0⟩

/-- VFRSQRT7. -/
def fpRsqrt7 (a : Nat) : FpRes :=
  match fpDecode fp32 a with
  | .nan s => fpNan fp32 s
  | .inf n => if n then fpNan fp32 true else ⟨0, 0⟩
  | .fin n m _ =>
    if m = 0 then ⟨(if n then 2 ^ 31 else 0) + fp32.inf, 8⟩
    else if n then fpNan fp32 true
    else
      let es := expSig a
      let i := (es.1 % 2).toNat * 64 + es.2 / 2 ^ 17
      ⟨((380 - es.1) / 2).toNat * 2 ^ 23 + rsqrt7 i * 2 ^ 16, 0⟩

/-- Two-operand operations of OPF: vs2 element, other operand, old destination. -/
def opF (rm f6 a b d : Nat) : Option FpRes :=
  let da := fpDecode fp32 a
  let db := fpDecode fp32 b
  let dd := fpDecode fp32 d
  match f6 with
  | 0x00 => some (fpAdd fp32 rm a b)
  | 0x02 => some (fpSub fp32 rm a b)
  | 0x27 => some (fpSub fp32 rm b a)
  | 0x04 => some (fpMinMax fp32 false a b)
  | 0x06 => some (fpMinMax fp32 true a b)
  | 0x08 => some ⟨sgnj 0 a b, 0⟩
  | 0x09 => some ⟨sgnj 1 a b, 0⟩
  | 0x0A => some ⟨sgnj 2 a b, 0⟩
  | 0x20 => some (fpDiv fp32 rm a b)
  | 0x21 => some (fpDiv fp32 rm b a)
  | 0x24 => some (fpMul fp32 rm a b)
  | 0x28 => some (fpFma fp32 rm db dd da)
  | 0x29 => some (fpFma fp32 rm db.neg dd da.neg)
  | 0x2A => some (fpFma fp32 rm db dd da.neg)
  | 0x2B => some (fpFma fp32 rm db.neg dd da)
  | 0x2C => some (fpFma fp32 rm db da dd)
  | 0x2D => some (fpFma fp32 rm db.neg da dd.neg)
  | 0x2E => some (fpFma fp32 rm db da dd.neg)
  | 0x2F => some (fpFma fp32 rm db.neg da dd)
  | _ => none

/-- Floating-point comparisons: vs2 against the other operand. -/
def opFCmp (f6 a b : Nat) : Option (Bool × Nat) :=
  match f6 with
  | 0x18 => some (fpCmp fp32 2 a b)
  | 0x19 => some (fpCmp fp32 0 a b)
  | 0x1B => some (fpCmp fp32 1 a b)
  | 0x1C => some (let r := fpCmp fp32 2 a b; (!r.1, r.2))
  | 0x1D => some (fpCmp fp32 1 b a)
  | 0x1F => some (fpCmp fp32 0 b a)
  | _ => none

/-- To a 16-bit integer, saturating with NV. -/
def fpToInt16 (signed : Bool) (rm a : Nat) : FpRes :=
  let lo : Int := if signed then -2 ^ 15 else 0
  let hi : Int := if signed then 2 ^ 15 - 1 else 2 ^ 16 - 1
  match fpDecode fp32 a with
  | .nan _ => ⟨hi.toNat, 16⟩
  | .inf n => ⟨ofSigned 16 (if n then lo else hi), 16⟩
  | .fin n m e =>
    let r := roundAt rm n m e false 0
    let v : Int := if n then -(r.1 : Int) else r.1
    if v < lo then ⟨ofSigned 16 lo, 16⟩ else if hi < v then ⟨ofSigned 16 hi, 16⟩ else ⟨ofSigned 16 v, if r.2 then 1 else 0⟩

/-! ### OPI -/

/-- Whether a form (0 vector, 3 immediate, 4 scalar) of an OPI operation exists. -/
def opiForm (f3 f6 : Nat) : Bool :=
  if f3 = 0 then ! [0x03, 0x0F, 0x1E, 0x1F].contains f6
  else if f3 = 3 then ! [0x02, 0x04, 0x05, 0x06, 0x07, 0x12, 0x13, 0x1A, 0x1B, 0x22, 0x23, 0x30, 0x31].contains f6
  else !([0x30, 0x31].contains f6)

def vSlideUp (x : CoreSt) (k : VCfg) (off : Nat) : Option CoreSt :=
  if !k.maskOk || !groupOk k.vd k.lm || !groupOk k.vs2 k.lm || !disjoint k.vd k.lm k.vs2 k.lm then none
  else some (vMap x k.vd k.sew 9 ((k.active x).filter fun i => decide (off ≤ i)) fun i => (vGet x.v k.vs2 k.sew (i - off), 0))

def vSlideDown (x : CoreSt) (k : VCfg) (off : Nat) : Option CoreSt :=
  if !k.maskOk || !groupOk k.vd k.lm || !groupOk k.vs2 k.lm then none
  else some (vMap x k.vd k.sew 9 (k.active x) fun i => (if i + off < vlmax k.sew k.lm then vGet x.v k.vs2 k.sew (i + off) else 0, 0))

/-- Gather with the index of each element. -/
def vGather (x : CoreSt) (k : VCfg) (idx : Nat → Nat) : CoreSt :=
  vMap x k.vd k.sew 9 (k.active x) fun i => (if idx i < vlmax k.sew k.lm then vGet x.v k.vs2 k.sew (idx i) else 0, 0)

/-- VMV1R, VMV2R, VMV4R, VMV8R. -/
def vmvWhole (x : CoreSt) (k : VCfg) : Option CoreSt :=
  let n := k.vs1 + 1
  if !k.vm || ! [1, 2, 4, 8].contains n || k.vd % n != 0 || k.vs2 % n != 0 then none
  else some (vMap x k.vd k.sew 9 ((List.range (256 * n / k.sew)).filter fun i => decide (k.start ≤ i)) fun i => (vGet x.v k.vs2 k.sew i, 0))

/-- OPIVV, OPIVX, OPIVI. -/
def vOpI (x : CoreSt) (k : VCfg) (f3 : Nat) : Option CoreSt :=
  let n := k.sew
  let vv := f3 == 0
  let unsignedImm := [0x0C, 0x0E, 0x0F, 0x25, 0x28, 0x29, 0x2A, 0x2B, 0x2C, 0x2D, 0x2E, 0x2F].contains k.f6
  let sc := if f3 = 4 then x.xr k.vs1 else if unsignedImm then k.vs1 else sext32 5 k.vs1
  let b := fun i => if vv then vGet x.v k.vs1 n i else sc % 2 ^ n
  let a := fun i => vGet x.v k.vs2 n i
  let src1 := !vv || groupOk k.vs1 k.lm
  let srcs := groupOk k.vs2 k.lm && src1
  let mOver := overlapOk k.vd 1 8 k.vs2 n k.lm && (!vv || overlapOk k.vd 1 8 k.vs1 n k.lm)
  if !opiForm f3 k.f6 then none
  else if k.f6 = 0x0C then
    if !k.maskOk || !groupOk k.vd k.lm || !srcs || !disjoint k.vd k.lm k.vs2 k.lm || (vv && !disjoint k.vd k.lm k.vs1 k.lm) then none
    else some (vGather x k fun i => if vv then b i else sc)
  else if k.f6 = 0x0E then
    if vv then
      let m1 := 16 * k.lm / n
      if !k.maskOk || !groupOk k.vd k.lm || !groupOk k.vs2 k.lm || !groupOk k.vs1 m1 || !disjoint k.vd k.lm k.vs2 k.lm ||
        !disjoint k.vd k.lm k.vs1 m1 then none
      else some (vGather x k fun i => vGet x.v k.vs1 16 i)
    else vSlideUp x k sc
  else if k.f6 = 0x0F then vSlideDown x k sc
  else if k.f6 = 0x10 ∨ k.f6 = 0x12 then
    let cin := fun i => if mskBit x 0 i then 1 else 0
    if k.vm || k.vd == 0 || !groupOk k.vd k.lm || !srcs then none
    else some (vMap x k.vd n 9 k.body fun i =>
      (lowBits n (if k.f6 = 0x10 then ((a i + b i + cin i : Nat) : Int) else (a i : Int) - b i - cin i), 0))
  else if k.f6 = 0x11 ∨ k.f6 = 0x13 then
    let cin := fun i => if !k.vm && mskBit x 0 i then 1 else 0
    if !srcs || !mOver then none
    else some (vMap x k.vd 1 9 k.body fun i =>
      (if k.f6 = 0x11 then (if 2 ^ n ≤ a i + b i + cin i then 1 else 0) else if a i < b i + cin i then 1 else 0, 0))
  else if k.f6 = 0x17 then
    if k.vm then
      (if k.vs2 ≠ 0 || !groupOk k.vd k.lm || !src1 then none else some (vMap x k.vd n 9 k.body fun i => (b i, 0)))
    else if k.vd == 0 || !groupOk k.vd k.lm || !srcs then none
    else some (vMap x k.vd n 9 k.body fun i => (if mskBit x 0 i then b i else a i, 0))
  else if 0x18 ≤ k.f6 ∧ k.f6 ≤ 0x1F then
    if !srcs || !mOver then none
    else some (vMap x k.vd 1 9 (k.active x) fun i => (if opCmp n k.f6 (a i) (b i) = some true then 1 else 0, 0))
  else if f3 = 3 ∧ k.f6 = 0x27 then vmvWhole x k
  else if 0x2C ≤ k.f6 ∧ k.f6 ≤ 0x2F then
    if 32 < 2 * n || !k.maskOk || !groupOk k.vd k.lm || !groupOk k.vs2 (2 * k.lm) || !src1 || !overlapOk k.vd n k.lm k.vs2 (2 * n) (2 * k.lm) then none
    else some (vMap x k.vd n 9 (k.active x) fun i => (opNarrow n (x.csrOf 0xA) k.f6 (vGet x.v k.vs2 (2 * n) i) (b i)).getD (0, 0))
  else if k.f6 = 0x30 ∨ k.f6 = 0x31 then
    if k.start ≠ 0 || 32 < 2 * n || !groupOk k.vs2 k.lm then none
    else if k.vl = 0 then some (vDone x)
    else
      let ext := fun v => if k.f6 = 0x30 then v else lowBits (2 * n) (toSigned n v)
      let sum := (k.active x).foldl (fun acc i => (acc + ext (a i)) % 2 ^ (2 * n)) (vGet x.v k.vs1 (2 * n) 0)
      some (vDone { x with v := vPut x.v k.vd (2 * n) 0 sum })
  else if (opI n 0 k.f6 0 0).isNone || !k.maskOk || !groupOk k.vd k.lm || !srcs then none
  else some (vMap x k.vd n 9 (k.active x) fun i => (opI n (x.csrOf 0xA) k.f6 (a i) (b i)).getD (0, 0))

/-! ### OPM -/

/-- Active elements below the first set one of a mask, as vmsbf, vmsof and vmsif see them. -/
def firstSet (x : CoreSt) (k : VCfg) : Option Nat := (k.active x).find? fun i => mskBit x k.vs2 i

/-- VMUNARY0. -/
def vMaskUnary (x : CoreSt) (k : VCfg) : Option CoreSt :=
  if k.start ≠ 0 then none
  else if k.vs1 = 1 ∨ k.vs1 = 2 ∨ k.vs1 = 3 then
    let before := fun i => match firstSet x k with | some j => decide (i < j) | none => true
    let at' := fun i => decide (firstSet x k = some i)
    if k.vd = k.vs2 || !k.maskOk then none
    else some (vMap x k.vd 1 9 (k.active x) fun i =>
      (if (k.vs1 != 2 && before i) || (k.vs1 != 1 && at' i) then 1 else 0, 0))
  else if k.vs1 = 0x10 then
    if !k.maskOk || !groupOk k.vd k.lm || !disjoint k.vd k.lm k.vs2 8 || (!k.vm && !disjoint k.vd k.lm 0 8) then none
    else some (vMap x k.vd k.sew 9 (k.active x) fun i => ((k.active x).countP fun j => decide (j < i) && mskBit x k.vs2 j, 0))
  else none

/-- VCOMPRESS. -/
def vCompress (x : CoreSt) (k : VCfg) : Option CoreSt :=
  if k.start ≠ 0 || !k.vm || !groupOk k.vd k.lm || !groupOk k.vs2 k.lm || !disjoint k.vd k.lm k.vs2 k.lm || !disjoint k.vd k.lm k.vs1 8 then none
  else
    let is := (List.range k.vl).filter fun i => mskBit x k.vs1 i
    some (vMap x k.vd k.sew 9 (List.range is.length) fun j => (vGet x.v k.vs2 k.sew ((is[j]?).getD 0), 0))

/-- Mask-register logic. -/
def maskLogic (f6 : Nat) (a b : Bool) : Bool :=
  match f6 with
  | 0x18 => a && !b
  | 0x19 => a && b
  | 0x1A => a || b
  | 0x1B => a != b
  | 0x1C => a || !b
  | 0x1D => !(a && b)
  | 0x1E => !(a || b)
  | _ => a == b

/-- VZEXT, VSEXT. -/
def vExt (x : CoreSt) (k : VCfg) : Option CoreSt :=
  let f := if k.vs1 = 4 ∨ k.vs1 = 5 then 4 else if k.vs1 = 6 ∨ k.vs1 = 7 then 2 else 0
  let n := k.sew / f
  let m := k.lm / f
  if f = 0 || n < 8 || !k.maskOk || !groupOk k.vd k.lm || !groupOk k.vs2 m || !overlapOk k.vd k.sew k.lm k.vs2 n m then none
  else some (vMap x k.vd k.sew 9 (k.active x) fun i =>
    let v := vGet x.v k.vs2 n i
    (if k.vs1 % 2 = 1 then lowBits k.sew (toSigned n v) else v, 0))

/-- Forms that OPM has only with a vector (2) or only with a scalar (6). -/
def opmForm (f3 f6 : Nat) : Bool :=
  if f3 = 2 then ! [0x0E, 0x0F, 0x3E].contains f6
  else ! [0, 1, 2, 3, 4, 5, 6, 7, 0x12, 0x14, 0x17, 0x18, 0x19, 0x1A, 0x1B, 0x1C, 0x1D, 0x1E, 0x1F].contains f6

/-- OPMVV, OPMVX. -/
def vOpM (x : CoreSt) (k : VCfg) (f3 : Nat) : Option CoreSt :=
  let n := k.sew
  let vv := f3 == 2
  let sc := x.xr k.vs1
  let a := fun i => vGet x.v k.vs2 n i
  let b := fun i => if vv then vGet x.v k.vs1 n i else sc % 2 ^ n
  let src1 := !vv || groupOk k.vs1 k.lm
  let srcs := groupOk k.vs2 k.lm && src1
  if !opmForm f3 k.f6 then none
  else if k.f6 ≤ 7 then
    if k.start ≠ 0 || !groupOk k.vs2 k.lm then none
    else if k.vl = 0 then some (vDone x)
    else
      let r := (k.active x).foldl (fun acc i => (opRed n k.f6 acc (a i)).getD 0) (vGet x.v k.vs1 n 0)
      some (vDone { x with v := vPut x.v k.vd n 0 r })
  else if k.f6 = 0x0E then
    if !k.maskOk || !groupOk k.vd k.lm || !groupOk k.vs2 k.lm || !disjoint k.vd k.lm k.vs2 k.lm then none
    else some (vMap x k.vd n 9 (k.active x) fun i => (if i = 0 then sc else a (i - 1), 0))
  else if k.f6 = 0x0F then
    if !k.maskOk || !groupOk k.vd k.lm || !groupOk k.vs2 k.lm then none
    else some (vMap x k.vd n 9 (k.active x) fun i => (if i + 1 = k.vl then sc else a (i + 1), 0))
  else if k.f6 = 0x10 then
    if vv then
      if k.vs1 = 0 then (if k.vm then some (vDone (x.wx k.vd (sext32 n (a 0)))) else none)
      else if k.start ≠ 0 then none
      else if k.vs1 = 0x10 then some (vDone (x.wx k.vd ((k.active x).countP fun i => mskBit x k.vs2 i)))
      else if k.vs1 = 0x11 then some (vDone (x.wx k.vd (match firstSet x k with | some i => i | none => 2 ^ 32 - 1)))
      else none
    else if k.vs2 = 0 ∧ k.vm then some (if k.start < k.vl then vDone { x with v := vPut x.v k.vd n 0 sc } else vDone x)
    else none
  else if k.f6 = 0x12 then vExt x k
  else if k.f6 = 0x14 then
    if k.vs1 = 0x11 then
      if k.vs2 ≠ 0 || !k.maskOk || !groupOk k.vd k.lm then none
      else some (vMap x k.vd n 9 (k.active x) fun i => (i, 0))
    else vMaskUnary x k
  else if k.f6 = 0x17 then vCompress x k
  else if 0x18 ≤ k.f6 ∧ k.f6 ≤ 0x1F then
    if !k.vm then none
    else some (vMap x k.vd 1 9 k.body fun i => (if maskLogic k.f6 (mskBit x k.vs2 i) (mskBit x k.vs1 i) then 1 else 0, 0))
  else if 0x30 ≤ k.f6 then
    let w2 := decide (0x34 ≤ k.f6) && decide (k.f6 ≤ 0x37)
    let an := if w2 then 2 * n else n
    let am := if w2 then 2 * k.lm else k.lm
    if 32 < 2 * n || (opWide n k.f6 0 0 0).isNone || !k.maskOk || !groupOk k.vd (2 * k.lm) || !groupOk k.vs2 am || !src1 ||
      !overlapOk k.vd (2 * n) (2 * k.lm) k.vs2 an am || (vv && !overlapOk k.vd (2 * n) (2 * k.lm) k.vs1 n k.lm) then none
    else
      let acc := decide (0x3C ≤ k.f6)
      some (vMap x k.vd (2 * n) 9 (k.active x) fun i =>
        let av := vGet x.v k.vs2 an i
        let d := vGet x.v k.vd (2 * n) i
        ((if acc then opWide n k.f6 (b i) av d else opWide n k.f6 av (b i) d).getD 0, 0))
  else if (opM n 0 k.f6 0 0 0).isNone || !k.maskOk || !groupOk k.vd k.lm || !srcs then none
  else some (vMap x k.vd n 9 (k.active x) fun i => ((opM n (x.csrOf 0xA) k.f6 (a i) (b i) (vGet x.v k.vd n i)).getD 0, 0))

/-! ### OPF -/

def fres (r : FpRes) : Nat × Nat := (r.v, r.fl)

/-- Single-width unary operations of VFUNARY0 (f6 0x12) and VFUNARY1 (0x13). -/
def opFUnary (rm f6 vs1 a : Nat) : Option FpRes :=
  if f6 = 0x12 then
    match vs1 with
    | 0 => some (fpToInt fp32 false rm a)
    | 1 => some (fpToInt fp32 true rm a)
    | 2 => some (fpOfInt fp32 false rm a)
    | 3 => some (fpOfInt fp32 true rm a)
    | 6 => some (fpToInt fp32 false 1 a)
    | 7 => some (fpToInt fp32 true 1 a)
    | _ => none
  else
    match vs1 with
    | 0x00 => some (fpSqrt fp32 rm a)
    | 0x04 => some (fpRsqrt7 a)
    | 0x05 => some (fpRec7 rm a)
    | 0x10 => some ⟨fpClass fp32 a, 0⟩
    | _ => none

/-- Conversions between FP32 and 16-bit integers (SEW 16). -/
def vCvt16 (x : CoreSt) (k : VCfg) (rm : Nat) : Option CoreSt :=
  if k.vs1 = 0x0A ∨ k.vs1 = 0x0B then
    if !k.maskOk || !groupOk k.vd (2 * k.lm) || !groupOk k.vs2 k.lm || !overlapOk k.vd 32 (2 * k.lm) k.vs2 16 k.lm then none
    else some (vMap x k.vd 32 1 (k.active x) fun i =>
      let v := vGet x.v k.vs2 16 i
      fres (fpOfInt fp32 true rm (if k.vs1 = 0x0B then sext32 16 v else v)))
  else if [0x10, 0x11, 0x16, 0x17].contains k.vs1 then
    if !k.maskOk || !groupOk k.vd k.lm || !groupOk k.vs2 (2 * k.lm) || !overlapOk k.vd 16 k.lm k.vs2 32 (2 * k.lm) then none
    else some (vMap x k.vd 16 1 (k.active x) fun i =>
      fres (fpToInt16 (k.vs1 % 2 == 1) (if 0x16 ≤ k.vs1 then 1 else rm) (vGet x.v k.vs2 32 i)))
  else none

/-- OPFVV, OPFVF. -/
def vOpF (x : CoreSt) (k : VCfg) (f3 : Nat) : Option CoreSt :=
  let vv := f3 == 1
  let sc := x.fr k.vs1
  let a := fun i => vGet x.v k.vs2 32 i
  let b := fun i => if vv then vGet x.v k.vs1 32 i else sc
  let src1 := !vv || groupOk k.vs1 k.lm
  let srcs := groupOk k.vs2 k.lm && src1
  let dst := k.maskOk && groupOk k.vd k.lm
  match rmOf x 7 with
  | none => none
  | some rm =>
    if k.sew = 16 then (if vv ∧ k.f6 = 0x12 then vCvt16 x k rm else none)
    else if k.sew ≠ 32 then none
    else if [1, 3, 5, 7].contains k.f6 then
      if !vv || k.start ≠ 0 || !groupOk k.vs2 k.lm then none
      else if k.vl = 0 then some (vDone x)
      else
        let r := (k.active x).foldl (fun (q : FpRes) i =>
          let e := if k.f6 = 5 then fpMinMax fp32 false q.v (a i) else if k.f6 = 7 then fpMinMax fp32 true q.v (a i) else fpAdd fp32 rm q.v (a i)
          ⟨e.v, q.fl ||| e.fl⟩) ⟨vGet x.v k.vs1 32 0, 0⟩
        some (vDone (({ x with v := vPut x.v k.vd 32 0 r.v }).accrue r.fl))
    else if k.f6 = 0x0E then
      if vv || !dst || !groupOk k.vs2 k.lm || !disjoint k.vd k.lm k.vs2 k.lm then none
      else some (vMap x k.vd 32 1 (k.active x) fun i => (if i = 0 then sc else a (i - 1), 0))
    else if k.f6 = 0x0F then
      if vv || !dst || !groupOk k.vs2 k.lm then none
      else some (vMap x k.vd 32 1 (k.active x) fun i => (if i + 1 = k.vl then sc else a (i + 1), 0))
    else if k.f6 = 0x10 then
      if !k.vm then none
      else if vv then (if k.vs1 = 0 then some (vDone (x.wf k.vd (a 0))) else none)
      else if k.vs2 ≠ 0 then none
      else some (if k.start < k.vl then vDone { x with v := vPut x.v k.vd 32 0 sc } else vDone x)
    else if k.f6 = 0x12 ∨ k.f6 = 0x13 then
      if !vv || (opFUnary rm k.f6 k.vs1 0).isNone || !dst || !groupOk k.vs2 k.lm then none
      else some (vMap x k.vd 32 1 (k.active x) fun i => ((opFUnary rm k.f6 k.vs1 (a i)).map fres).getD (0, 0))
    else if k.f6 = 0x17 then
      if vv then none
      else if k.vm then (if k.vs2 ≠ 0 || !groupOk k.vd k.lm then none else some (vMap x k.vd 32 1 k.body fun _ => (sc, 0)))
      else if !dst || !groupOk k.vs2 k.lm then none
      else some (vMap x k.vd 32 1 k.body fun i => (if mskBit x 0 i then sc else a i, 0))
    else if 0x18 ≤ k.f6 ∧ k.f6 ≤ 0x1F then
      if (opFCmp k.f6 0 0).isNone || (vv && decide (k.f6 = 0x1D ∨ k.f6 = 0x1F)) || !srcs || !overlapOk k.vd 1 8 k.vs2 32 k.lm ||
        (vv && !overlapOk k.vd 1 8 k.vs1 32 k.lm) then none
      else some (vMap x k.vd 1 1 (k.active x) fun i =>
        let r := (opFCmp k.f6 (a i) (b i)).getD (false, 0)
        (if r.1 then 1 else 0, r.2))
    else if (opF rm k.f6 0 0 0).isNone || (vv && decide (k.f6 = 0x21 ∨ k.f6 = 0x27)) || !dst || !srcs then none
    else some (vMap x k.vd 32 1 (k.active x) fun i => ((opF rm k.f6 (a i) (b i) (vGet x.v k.vd 32 i)).map fres).getD (0, 0))

/-- OP-V: the core after it but for its pc; none where it is illegal. -/
def execVector (x : CoreSt) (w : Nat) : Option CoreSt :=
  let f3 := f3Of w
  if f3 = 7 then vsetvl x w
  else match vcfg x w with
    | none => none
    | some k =>
      if f3 = 0 ∨ f3 = 3 ∨ f3 = 4 then vOpI x k f3
      else if f3 = 2 ∨ f3 = 6 then vOpM x k f3
      else vOpF x k f3

/-- Active 32-bit lanes of a vector instruction under its mask (R366). -/
def vLanes (x : CoreSt) (w : Nat) : Nat :=
  match vcfg x w with
  | some k => ((k.active x).map fun i => i * k.sew / 32).eraseDups.length
  | none => 0

/-! ### Vector loads and stores -/

/-- One element access: its index in the element order, its register group and element, its address. -/
structure VAcc where
  i : Nat
  reg : Nat
  el : Nat
  addr : Nat
deriving DecidableEq, Repr

/-- A vector load or store: its element accesses in order. -/
structure VMem where
  store : Bool
  eew : Nat
  first : Bool
  accs : List VAcc
deriving DecidableEq, Repr

/-- The 32-bit lanes that a vector load or store has active, over its registers. -/
def VMem.lanes (m : VMem) : Nat := ((m.accs.map fun e => (e.reg, e.el * m.eew / 32))).eraseDups.length

def vmemEew (width : Nat) : Nat := if width = 0 then 8 else if width = 5 then 16 else if width = 6 then 32 else 0

/-- A contiguous run of elements: whole registers, or a mask. -/
def vRun (store : Bool) (eew vd start n base : Nat) : VMem :=
  { store := store, eew := eew, first := false,
    accs := ((List.range n).filter fun i => decide (start ≤ i)).map fun i => ⟨i, vd, i, w32 (base + i * eew / 8)⟩ }

/-- The plan of an instruction with a vector opcode; none where it is illegal. -/
def vMemOf (x : CoreSt) (w : Nat) : Option VMem :=
  let store := opc w == 0x27
  let nf := bits w 29 3 + 1
  let mop := bits w 26 2
  let vm := bit w 25
  let vd := rdOf w
  let r2 := rs2Of w
  let base := x.xr (rs1Of w)
  let ww := vmemEew (f3Of w)
  let start := x.csrOf 8
  if ww = 0 || bit w 28 then none
  else if mop = 0 ∧ r2 = 8 then
    if !vm || ! [1, 2, 4, 8].contains nf || vd % nf != 0 || (store && ww != 8) then none
    else some (vRun store ww vd start (nf * 256 / ww) base)
  else match vcfg x w with
    | none => none
    | some k =>
      if mop = 0 ∧ r2 = 0x0B then
        (if !vm || nf != 1 || ww != 8 then none else some (vRun store 8 vd start ((k.vl + 7) / 8) base))
      else if mop = 0 ∧ r2 ≠ 0 ∧ ¬ (r2 = 0x10 ∧ ¬ store) then none
      else
        let indexed := mop % 2 == 1
        let eew := if indexed then k.sew else ww
        let em8 := eew * k.lm
        let em := em8 / k.sew
        let im8 := ww * k.lm
        let im := im8 / k.sew
        let regs := groupRegs em
        let okI := !indexed || (im8 % k.sew == 0 && groupOk r2 im && (store ||
          (if nf = 1 then overlapOk vd eew em r2 ww im else disjoint vd (8 * regs * nf) r2 im)))
        if em8 % k.sew ≠ 0 || !groupOk vd em || 64 < em * nf || 32 < vd + regs * nf || (!store && !vm && vd == 0) || !okI then none
        else
          let at' := fun i => if indexed then vGet x.v r2 ww i else if mop = 2 then i * x.xr r2 else i * nf * eew / 8
          some { store := store, eew := eew, first := (mop == 0 && r2 == 0x10),
                 accs := (k.active x).flatMap fun i => (List.range nf).map fun f => ⟨i, vd + f * regs, i, w32 (base + at' i + f * eew / 8)⟩ }

end Sys2Proof.Machine
end

