-- ==== Sys2Proof/Machine/Cores.lean ====
section
/-! DEFINITION. What the cores do (R155, R159-R168, R219, R250, R251): issue, exceptions, accesses to the scratchpad, the control
window and the far window, fences, merge-buffer writes, waits and the test kernel. -/

namespace Sys2Proof.Machine

/-! ### Which command an instruction belongs to -/

/-- A scalar load or store: destination or source register, funct3, address. -/
structure SMem where
  store : Bool
  fp : Bool
  f3 : Nat
  r : Nat
  addr : Nat
deriving DecidableEq, Repr

def SMem.len (m : SMem) : Nat := 2 ^ (m.f3 % 4)

def scalarMem (x : CoreSt) (w : Nat) : Option SMem :=
  let f3 := f3Of w
  let a := x.xr (rs1Of w)
  match opc w with
  | 0x03 => if [0, 1, 2, 4, 5].contains f3 then some ⟨false, false, f3, rdOf w, w32 (a + immI w)⟩ else none
  | 0x07 => if f3 = 2 then some ⟨false, true, 2, rdOf w, w32 (a + immI w)⟩ else none
  | 0x23 => if f3 < 3 then some ⟨true, false, f3, rs2Of w, w32 (a + immS w)⟩ else none
  | 0x27 => if f3 = 2 then some ⟨true, true, 2, rs2Of w, w32 (a + immS w)⟩ else none
  | _ => none

/-- What a core address names (R161). -/
inductive Region161 where
  | fault | spm | ctl | far
deriving DecidableEq, Repr

def regionOf (a : Nat) : Region161 :=
  if 0x10000000 ≤ a ∧ a < 0x10180000 then .spm
  else if 0x20000000 ≤ a ∧ a < 0x20008000 then .ctl
  else if 0x40000000 ≤ a ∧ a < 0x80000000 then .far
  else .fault

/-- The command that issues an instruction. -/
inductive Row where
  | other | load | store | vector | ctlStore | farLoad | farStore | fence | wait
deriving DecidableEq, Repr

/-- A load of SYNC_WAITn through the own window (R219). -/
def SMem.isWait (m : SMem) : Bool :=
  m.len == 4 && m.addr % 4 == 0 && decide (0x20000000 + SYNC_WAIT ≤ m.addr) && decide (m.addr < 0x20000000 + SYNC_WAIT + 192)

def rowOf (x : CoreSt) (w : Nat) : Row :=
  match scalarMem x w with
  | some m =>
    match regionOf m.addr, m.store with
    | .far, false => .farLoad
    | .far, true => .farStore
    | .ctl, false => if m.isWait then .wait else .other
    | .ctl, true => .ctlStore
    | _, false => .load
    | _, true => .store
  | none =>
    if (opc w = 0x07 ∨ opc w = 0x27) ∧ vmemEew (f3Of w) + (if f3Of w = 7 then 1 else 0) ≠ 0 then .vector
    else if opc w = 0x0F ∧ f3Of w = 0 then .fence
    else .other

/-- Value of a load by its funct3. -/
def loadVal (f3 : Nat) (bs : List Byte) : Word :=
  let v := ofLe bs
  BitVec.ofNat 32 (if f3 = 0 then sext32 8 v else if f3 = 1 then sext32 16 v else v)

def SMem.data (m : SMem) (x : CoreSt) : List Byte := toLe m.len (if m.fp then x.fr m.r else x.xr m.r)

/-- What a fetch gives: the instruction's 32-bit word, its length and its bits as fetched; an access fault; a lost word. -/
inductive Fetched where
  | ins (w len raw : Nat)
  | fault (addr : Nat)
  | lost
deriving DecidableEq, Repr

namespace State

/-! ### Issue (R162, R180, R182) -/

def hartOf : CoreSel → Nat
  | .head => 0
  | .tail => 1

/-- A core that issues: running, not asked to stop, its cell not held, not stalled on a wait or a far-window load. -/
def canIssue (s : State) (c : Nat) (k : CoreSel) : Bool :=
  let x := s.core c k
  x.st == 1 && !x.stopReq && s.runs c && x.wait.isNone && x.far.isNone

/-- A halfword of the instruction store. -/
def fetchHalf (s : State) (c : Nat) (k : CoreSel) (a : Nat) : State × Option Nat :=
  let r := s.readImem c k a
  (r.1, r.2.map fun v => bits v (8 * (a % 8)) 16)

def fetch (s : State) (c : Nat) (k : CoreSel) : State × Fetched :=
  let p := (s.core c k).pcn
  if 0x8000 ≤ p then (s, .fault p)
  else match s.fetchHalf c k p with
    | (t, none) => (t, .lost)
    | (t, some h) =>
      if h % 4 ≠ 3 then (t, .ins ((expandC h).getD 0) 2 h)
      else if 0x8000 ≤ p + 2 then (t, .fault (p + 2))
      else match t.fetchHalf c k (p + 2) with
        | (u, none) => (u, .lost)
        | (u, some g) => (u, .ins (h + g * 2 ^ 16) 4 (h + g * 2 ^ 16))

/-- A core in the test kernel's entry: the kernel's own command runs it (R250). -/
def atKernel (s : State) (c : Nat) (k : CoreSel) : Bool :=
  (s.core c k).pcn == 0x7800 && (match s.job? (s.jobOf c) with | some j => j.testslot | none => false)

def advance (s : State) (c : Nat) (k : CoreSel) (len : Nat) : State :=
  let x := s.core c k
  s.setCore c k (x.goto (x.pcn + len))

/-! ### Exceptions (R164) -/

/-- Trap entry under the privileged architecture: MPIE takes MIE, MIE is cleared, pc is the base of mtvec. -/
def trapEnter (x : CoreSt) (cause tval : Nat) : CoreSt :=
  let st := x.csrOf 0x300
  { ((((x.putCsr 0x341 x.pcn).putCsr 0x342 cause).putCsr 0x343 tval).putCsr 0x300 (if bit st 3 then 0x80 else 0)).goto
      (x.csrOf 0x305 / 4 * 4) with inHandler := true }

/-- An exception: it vectors with TRAP_EN outside a handler, else the core stops and class 0x29 is logged. -/
def exception (s : State) (c : Nat) (k : CoreSel) (cause tval : Nat) : State :=
  let x := s.core c k
  let s1 := s.trapRegs c k cause x.pcn tval
  if s.fld (coreKey c k HEAD_CTRL) 1 1 = 1 ∧ ¬ x.inHandler then s1.setCore c k (trapEnter x cause tval)
  else (s1.raiseAt 0x29 c (cause + hartOf k * 2 ^ 32)).stopCore c k 3

/-- Issue the instruction at pc when it belongs to `row`; what lies at pc and cannot be fetched belongs to CORE_INSTRUCTION. -/
def issue (s : State) (c : Nat) (k : CoreSel) (row : Row) (run : State → Nat → Nat → Nat → State) : State :=
  if !s.canIssue c k || s.atKernel c k then s
  else match s.fetch c k with
    | (t, .ins w len raw) => if rowOf (s.core c k) w = row then run (if row = .fence then t else t.act c 3 1) w len raw else s
    | (t, .fault a) => if row = .other then t.exception c k 1 a else s
    | (t, .lost) => if row = .other then t.busStop c k 1 (s.core c k).pcn (s.core c k).pcn else s

/-! ### Scratchpad (R154, R161, R166, R167) -/

/-- Bytes of the core's merge buffer and of the bank, with the word then at hand; none where the core stopped. The narrow port reads a
word once for the elements of a vector that follow each other in it (R162): `last` is the word at hand before. -/
def loadFrom (s : State) (c : Nat) (k : CoreSel) (off n addr : Nat) (last : Option (Nat × Nat)) :
    State × Option (List Byte × Option (Nat × Nat)) :=
  let x := s.core c k
  match s.spmCheckRun c off n (corePort k) false with
  | some (o, cr) => ((s.spmRefuse c o (corePort k) (.core c k) cr).busStop c k 5 x.pcn addr, none)
  | none =>
    let held := match x.mb.find? fun e => e.word == off / 8 with | some e => mbBytes e | none => []
    let mine := fun i => (held.find? fun (p : Nat × Byte) => p.1 == off % 8 + i).map fun (p : Nat × Byte) => p.2
    let bytes := fun (w : Nat) => (List.range n).map fun i => (mine i).getD (BitVec.ofNat 8 (w / 256 ^ (off % 8 + i)))
    if (List.range n).all fun i => (mine i).isSome then (s, some (bytes 0, last))
    else match last.filter fun p => p.1 == off / 8 with
      | some p => (s, some (bytes p.2, last))
      | none =>
        match (s.act c 2 1).readWord c off (corePort k) with
        | (t, .word w) => (t, some (bytes w, some (off / 8, w)))
        | (t, .lost _ syn) => ((t.wordRecord 0x22 c off (corePort k) syn (some c)).busStop c k 5 x.pcn addr, none)

/-- A scalar load's bytes; none where the core stopped. -/
def loadSpm (s : State) (c : Nat) (k : CoreSel) (off n addr : Nat) : State × Option (List Byte) :=
  let r := s.loadFrom c k off n addr none
  (r.1, r.2.map fun p => p.1)

/-- Bytes merged into an entry of the word. -/
def mergeInto (e : MbEntry) (o : Nat) (bs : List Byte) (now : Nat) : MbEntry :=
  { e with
    valid := e.valid ||| BitVec.ofNat 8 ((2 ^ bs.length - 1) * 2 ^ o), data := BitVec.ofNat 64 (mergeBytes e.data.toNat (bs.zipIdx.map fun p => (o + p.2, p.1))), last := now }

/-- A store enters the merge buffer; false where the core stopped. -/
def storeSpm (s : State) (c : Nat) (k : CoreSel) (off addr : Nat) (bs : List Byte) : State × Bool :=
  let x := s.core c k
  match s.spmCheckRun c off bs.length (corePort k) false with
  | some (o, cr) => ((s.spmRefuse c o (corePort k) (.core c k) cr).busStop c k 7 x.pcn addr, false)
  | none =>
    let now := (s.cell c).cyc
    let w := off / 8
    if x.mb.any fun e => e.word == w then
      (s.setCore c k { x with mb := x.mb.map fun e => if e.word = w then mergeInto e (off % 8) bs now else e }, true)
    else
      let s1 := match x.mb with
        | e :: _ => if 4 ≤ x.mb.length then s.mbWrite c k e else s
        | [] => s
      let y := s1.core c k
      if y.st ≠ 1 then (s1, false)
      else (s1.setCore c k { y with mb := y.mb ++ [mergeInto ⟨w, 0, 0, now⟩ (off % 8) bs now] }, true)

/-- Alignment and access faults that come before an access of `n` bytes (R161, R164): cause. -/
def accessCause (store : Bool) (addr n : Nat) (ok : Bool) : Option Nat :=
  if addr % n ≠ 0 then some (if store then 6 else 4) else if ok then none else some (if store then 7 else 5)

/-- CORE_LOAD. -/
def runLoad (c : Nat) (k : CoreSel) (s : State) (w len _raw : Nat) : State :=
  match scalarMem (s.core c k) w with
  | none => s
  | some m =>
    match accessCause false m.addr m.len (regionOf m.addr == .spm) with
    | some cause => s.exception c k cause m.addr
    | none =>
      match s.loadSpm c k (m.addr - 0x10000000) m.len m.addr with
      | (t, some bs) => (t.advance c k len).setX c k m.fp m.r (loadVal m.f3 bs)
      | (t, none) => t

/-- CORE_STORE. -/
def runStore (c : Nat) (k : CoreSel) (s : State) (w len _raw : Nat) : State :=
  match scalarMem (s.core c k) w with
  | none => s
  | some m =>
    match accessCause true m.addr m.len (regionOf m.addr == .spm) with
    | some cause => s.exception c k cause m.addr
    | none =>
      match s.storeSpm c k (m.addr - 0x10000000) m.addr (m.data (s.core c k)) with
      | (t, true) => t.advance c k len
      | (t, false) => t

/-! ### Vector loads and stores (R161, R162) -/

/-- How a run of element accesses goes on: still going, with the word at hand, ended by an exception at an element, or the core
stopped. -/
inductive VEnd where
  | going (last : Option (Nat × Nat))
  | trap (i cause addr : Nat)
  | stopped
deriving DecidableEq, Repr

/-- One element of a vector load or store. -/
def vElement (c : Nat) (k : CoreSel) (m : VMem) (a : State × VEnd) (e : VAcc) : State × VEnd :=
  let s := a.1
  match a.2 with
  | .going last =>
    let n := m.eew / 8
    match accessCause m.store e.addr n (regionOf e.addr == .spm && decide (e.addr < 0x10170000)) with
    | some cause => (s, .trap e.i cause e.addr)
    | none =>
      let x := s.core c k
      if m.store then
        (match s.storeSpm c k (e.addr - 0x10000000) e.addr (toLe n (vGet x.v e.reg m.eew e.el)) with
          | (t, true) => (t, .going none)
          | (t, false) => (t, .stopped))
      else match s.loadFrom c k (e.addr - 0x10000000) n e.addr last with
        | (t, some r) =>
          let y := t.core c k
          (t.setCore c k { y with v := vPut y.v e.reg m.eew e.el (ofLe r.1) }, .going r.2)
        | (t, none) => (t, .stopped)
  | _ => a

def runVector (c : Nat) (k : CoreSel) (s : State) (w len raw : Nat) : State :=
  let x := s.core c k
  match vMemOf x w with
  | none => s.exception c k 2 raw
  | some m =>
    let s0 := s.act c 4 m.lanes
    match m.accs.foldl (vElement c k m) (s0, .going none) with
    | (t, .going _) => (t.setCore c k (vDone (t.core c k))).advance c k len
    | (t, .stopped) => t
    | (t, .trap i cause addr) =>
      if m.first ∧ 0 < i then (t.setCore c k (vDone ((t.core c k).putCsr 0xC20 i))).advance c k len
      else (t.setCore c k ((t.core c k).putCsr 8 i)).exception c k cause addr

/-! ### The own control window (R159, R161) -/

/-- A store reaches its block; a refused one stops the core at the next instruction boundary. -/
def ctlStore (s : State) (c : Nat) (k : CoreSel) (h : HeldStore) : State :=
  let r := s.ctlWrite (.core c k) (cellKey c h.off) false (h.v.setWidth 64) (s.gaCtl c h.off)
  if r.2 then r.1
  else if (r.1.core c k).st = 1 then r.1.busStop c k 7 h.pc.toNat (0x20000000 + h.off)
  else r.1.trapRegs c k 7 h.pc.toNat (0x20000000 + h.off)

/-- Whether a store waits: a signal behind a held ownership change, or any store behind a waiting one (R159). -/
def storeWaits (s : State) (c : Nat) (k : CoreSel) (off : Nat) : Bool :=
  !(s.core c k).heldStores.isEmpty || (off == SYNC_SIG && !(s.cell c).owns.isEmpty)

def runCtlStore (c : Nat) (k : CoreSel) (s : State) (w len _raw : Nat) : State :=
  let x := s.core c k
  match scalarMem x w with
  | none => s
  | some m =>
    match accessCause true m.addr m.len true with
    | some cause => s.exception c k cause m.addr
    | none =>
      let off := m.addr - 0x20000000
      let key := cellKey c off
      let s1 := s.advance c k len
      if m.len ≠ 4 then
        ((s1.dropPend (.core c k) (keyBlock key)).ctlRefuse (.core c k) key (s.gaCtl c off)).busStop c k 7 x.pcn m.addr
      else
        let h : HeldStore := ⟨off, BitVec.ofNat 32 (ofLe (m.data x)), x.pc⟩
        if s.storeWaits c k off then (let y := s1.core c k; s1.setCore c k { y with heldStores := y.heldStores ++ [h] })
        else s1.ctlStore c k h

/-- The stores of a core that waited go on, in order, up to the next that has to wait. -/
def releaseStores (s : State) (c : Nat) (k : CoreSel) : Nat → State
  | 0 => s
  | fuel + 1 =>
    match (s.core c k).heldStores with
    | [] => s
    | h :: rest =>
      if h.off = SYNC_SIG ∧ ¬ (s.cell c).owns.isEmpty then s
      else State.releaseStores ((s.setCore c k { s.core c k with heldStores := rest }).ctlStore c k h) c k fuel

/-- OWNERSHIP_GOVERN: the oldest held change governs, and signals that waited for it are sent. -/
def ownershipGovern (s : State) (c : Nat) : State :=
  let s1 := s.governOwners c
  let s2 := s1.releaseStores c .head (s1.core c .head).heldStores.length
  s2.releaseStores c .tail (s2.core c .tail).heldStores.length

/-- A load from the own window other than of SYNC_WAITn. -/
def ctlLoad (s : State) (c : Nat) (k : CoreSel) (m : SMem) (len : Nat) : State :=
  let x := s.core c k
  let off := m.addr - 0x20000000
  let key := cellKey c off
  match accessCause false m.addr m.len true with
  | some cause => s.exception c k cause m.addr
  | none =>
    if m.len ≠ 4 then
      ((s.dropPend (.core c k) (keyBlock key)).ctlRefuse (.core c k) key (s.gaCtl c off)).busStop c k 5 x.pcn m.addr
    else match s.ctlRead (.core c k) key false (s.gaCtl c off) with
      | (t, some v) => (t.advance c k len).setX c k m.fp m.r (v.setWidth 32)
      | (t, none) => t.busStop c k 5 x.pcn m.addr

/-- SYNC_WAIT (R219). -/
def runWait (c : Nat) (k : CoreSel) (s : State) (w len _raw : Nat) : State :=
  let x := s.core c k
  match scalarMem x w with
  | none => s
  | some m =>
    let n := (m.addr - 0x20000000 - SYNC_WAIT) / 4
    (s.dropPend (.core c k) (keyBlock (cellKey c SYNC_WAIT))).setCore c k
      { x with wait := some { ctr := n, target := s.waitTarget c k, fp := m.fp, rd := m.r, start := (s.cell c).cyc, len := len } }

/-! ### The far window (R161, R205, R206) -/

/-- Global address of a far-window address. -/
def farAddr (s : State) (c : Nat) (k : CoreSel) (a : Nat) : Nat :=
  (s.fld (coreKey c k HEAD_FARW) 0 18 * 2 ^ 30 + (a - 0x40000000)) % 2 ^ 48

def farPkt (s : State) (c : Nat) (k : CoreSel) (ptype : Nat) (m : SMem) : Pkt :=
  { Pkt.blank ptype (.far c k) (.router c 0) with tag := (s.cell c).nextTag, addr := s.farAddr c k m.addr, blen := m.len }

/-- The load waits for its response, or the core stops where the packet was refused. -/
def farLoadSent (c : Nat) (k : CoreSel) (pc addr : Nat) (w : FarLoad) (r : State × Bool) : State :=
  if r.2 then r.1.setCore c k { r.1.core c k with far := some w } else r.1.busStop c k 5 pc addr

def runFarLoad (c : Nat) (k : CoreSel) (s : State) (w len _raw : Nat) : State :=
  let x := s.core c k
  match scalarMem x w with
  | none => s
  | some m =>
    if m.addr % m.len ≠ 0 then s.exception c k 4 m.addr
    else farLoadSent c k x.pcn m.addr ⟨(s.cell c).nextTag, m.fp, m.r, m.f3, BitVec.ofNat 32 m.addr, len⟩
      ((s.newTag c).inject c (s.farPkt c k 2 m))

/-- A sent store is outstanding until its acknowledgement. -/
def farStoreSent (c : Nat) (k : CoreSel) (r : State × Bool) : State :=
  if r.2 then r.1.setCore c k { r.1.core c k with farStores := (r.1.core c k).farStores + 1 } else r.1

def runFarStore (c : Nat) (k : CoreSel) (s : State) (w len _raw : Nat) : State :=
  let x := s.core c k
  match scalarMem x w with
  | none => s
  | some m =>
    if m.addr % m.len ≠ 0 then s.exception c k 6 m.addr
    else
      let p := { s.farPkt c k 1 m with ackreq := true, data := m.data x, dlen := dlenOf m.len }
      farStoreSent c k (((s.newTag c).advance c k len).inject c p)

/-- The line march that class 0x22 triggers, at the scratchpad in which the lost word of a far-window load lies (R434). -/
def farTest (s : State) (ga : Nat) : State :=
  match s.target ga with
  | .spm e off => s.queueTest e 1 s.err.nextSn off
  | _ => s

/-- FAR_LOAD_RESPONSE: data, or the core's stop on poison, refusal or loss. -/
def farResponse (s : State) (c : Nat) (k : CoreSel) (i : Nat) : State :=
  match s.pktOf i 3, (s.core c k).far with
  | some p, some f =>
    if p.pos ≠ .landed c ∨ p.tag ≠ f.tag ∨ !s.runs c then s
    else
      let s0 := s.replacePkt i []
      let x := s0.core c k
      let addr := f.addr.toNat
      if p.status = 0 then
        ((s0.setCore c k { x with far := none }).advance c k f.len).setX c k f.fp f.rd (loadVal f.funct3 p.data)
      else if p.status = 2 then
        let d := errLast (bits p.addr 0 21) (corePort k) 0
        (((s0.farTest p.addr).raiseAt 0x22 c d).setErrLast c (bits p.addr 0 21) (corePort k) 0).busStop c k 5 x.pcn addr
      else s0.busStop c k 5 x.pcn addr
  | _, _ => s

/-! ### Fences and merge-buffer writes (R161, R166) -/

/-- FENCE: the merge buffer drains; the core goes on once every far-window store is acknowledged. -/
def runFence (c : Nat) (k : CoreSel) (s : State) (_w len _raw : Nat) : State :=
  let s1 := s.mbFlush c k fun _ => true
  if (s1.core c k).st ≠ 1 then s1.act c 3 1
  else if (s1.core c k).farStores = 0 then (s1.act c 3 1).advance c k len
  else s1

/-- MERGE_ENTRY_WRITE: a complete entry is written. -/
def mergeWrite (s : State) (c : Nat) (k : CoreSel) : State :=
  if !s.runs c then s
  else match (s.core c k).mb.find? fun e => e.valid == 0xFF with
    | some e => s.mbWrite c k e
    | none => s

/-- MERGE_AGE_EVICT: an incomplete entry without a store for AGE cycles is evicted. -/
def mergeEvict (s : State) (c : Nat) (k : CoreSel) : State :=
  let age := s.fld (cellKey c SPM_MB_AGE) 0 6
  if !s.runs c ∨ age = 0 then s
  else match (s.core c k).mb.find? fun e => e.valid != 0xFF && decide (e.last + age ≤ (s.cell c).cyc) with
    | some e => s.mbWrite c k e
    | none => s

/-! ### Every other instruction (R160) -/

/-- CORE_INSTRUCTION. -/
def runOther (c : Nat) (k : CoreSel) (s : State) (w len raw : Nat) : State :=
  let x := s.core c k
  match scalarMem x w with
  | some m => s.ctlLoad c k m len
  | none =>
    if w = 0x73 then s.exception c k 11 0
    else if w = 0x00100073 then s.exception c k 3 x.pcn
    else if opc w = 0x57 then
      (match execVector x w with
        | some y => (s.setCore c k (y.goto (x.pcn + len))).act c 4 (vLanes x w)
        | none => s.exception c k 2 raw)
    else match execScalar x w len (s.cell c).cyc (hartOf k) with
      | some y => s.setCore c k y
      | none => s.exception c k 2 raw

/-! ### The test kernel (R250, R251, R439) -/

/-- The n-th free value after those already drawn. -/
def freeAt (s : State) (n : Nat) : Nat := (Config.freeWord (s.free + n)).toNat

/-- Registers the standard calling convention lets a call overwrite. -/
def callerX : List Nat := [1, 5, 6, 7, 10, 11, 12, 13, 14, 15, 16, 17, 28, 29, 30, 31]
def callerF : List Nat := [0, 1, 2, 3, 4, 5, 6, 7, 10, 11, 12, 13, 14, 15, 16, 17, 28, 29, 30, 31]

/-- The kernel returns to ra; what the calling convention does not preserve holds free values. -/
def kernelReturn (s : State) (c : Nat) (k : CoreSel) : State :=
  let x := s.core c k
  let y := callerX.foldl (fun (a : CoreSt) r => a.wx r (s.freeAt r)) x
  let z := callerF.foldl (fun (a : CoreSt) r => a.wf r (s.freeAt (32 + r))) y
  ({ s with free := s.free + 64 }).setCore c k (z.goto (x.xr 1 / 2 * 2))

/-- The vector state and the area after a test: free values (R251). -/
def kernelScratch (s : State) (c : Nat) (k : CoreSel) (off : Nat) : State :=
  let x := s.core c k
  let v := (List.range 32).map fun r =>
    BitVec.ofNat 256 (((List.range 4).map fun j => s.freeAt (4 * r + j) * 2 ^ (64 * j)).sum)
  let y := { ((x.putCsr 0xC20 (s.freeAt 128)).putCsr 0xC21 (s.freeAt 129)).putCsr 8 0 with v := v }
  (List.range 512).foldl (fun t i => t.writeWord c (off + 8 * i) (s.freeAt (130 + i)))
    ({ s with free := s.free + 642 }.setCore c k y)

/-- Registers the head-core kernel uses and does not restore: staged descriptors and commands, and the counters of the passes and
bank-engine commands it runs (R251). -/
def kernelRegs : List Nat :=
  ((List.range 8).map fun i => MXE_DESC + 4 * i) ++ [SPM_BENG_SRC, SPM_BENG_DST, SPM_BENG_LEN, SPM_BENG_SIG, SPM_BENG_PAT, MXE_STALL_FREEZE,
    MXE_STALL_EASEL, MXE_CHK_ROWS, MXE_ARITH_CNT]

def kernelUnits (s : State) (c : Nat) : State :=
  let s1 := kernelRegs.zipIdx.foldl (fun t e =>
    match findRow cellRows e.1 with
    | some (r, _) => t.setReg (cellKey c e.1) (BitVec.ofNat 64 (regAfter 2 r false 0 (s.freeAt e.2)))
    | none => t) s
  ({ s1 with free := s.free + 32 }).setFld (cellKey c SPM_BENG_STAT) 8 24 (s.freeAt 31) |>.mxeFlush c

/-- A call of the test kernel: it reads STEP_ENGINE through the far window, with the stop of any far-window load that meets no usable
link (R201, R204); outside its step slot it returns; in it, the cell's datapaths are tested, and `failed` says
which unit failed. -/
def testKernel (s : State) (c : Nat) (k : CoreSel) (failed : Option Nat) : State :=
  if !s.canIssue c k || !s.atKernel c k then s
  else
    let x := s.core c k
    let xy := x.csrOf 0xFC0
    let step := s.stepEngine
    match s.cellAsks c (.far c k) s.ctlDie (4 * 2 ^ 44 + STEP_ENGINE) 4 with
    | (t, _ + 1) => t.busStop c k 5 x.pcn (0x40000000 + STEP_ENGINE)
    | (s, 0) =>
    if (step + 512 - bits xy 0 8 - bits xy 8 7) % 64 ≠ 0 then s.kernelReturn c k
    else
      let off := x.xr 10 / 4096 * 4096
      match s.spmCheckRun c off 4096 (corePort k) false with
      | some (o, cr) => (s.spmRefuse c o (corePort k) (.core c k) cr).busStop c k 7 x.pcn (0x10000000 + o)
      | none =>
        let s1 := s.kernelScratch c k off
        let s2 := match k with | .head => s1.kernelUnits c | .tail => s1
        match failed with
        | none => (s2.selfPass c).kernelReturn c k
        | some u =>
          let unit := match k with | .head => (if u = 2 ∨ u = 3 then u else 0) | .tail => 1
          (s2.selfFail c unit).stopCore c k (if s2.haltable c then 2 else 3)

end State

/-! ### Commands -/

/-- OWNERSHIP_GOVERN (R155, R156, R159). -/
def execOwnershipGovern (c : Nat) (s : State) : Res := .next (s.ownershipGovern c)

/-- CORE_INSTRUCTION (R160, R162-R164). -/
def execCoreInstruction (c : Nat) (k : CoreSel) (s : State) : Res := .next (s.issue c k .other (State.runOther c k))

/-- CORE_LOAD (R154, R161, R167, R172). -/
def execCoreLoad (c : Nat) (k : CoreSel) (s : State) : Res := .next (s.issue c k .load (State.runLoad c k))

/-- CORE_STORE (R154, R161, R166). -/
def execCoreStore (c : Nat) (k : CoreSel) (s : State) : Res := .next (s.issue c k .store (State.runStore c k))

/-- CORE_VECTOR_ACCESS (R161, R162, R166, R167). -/
def execCoreVectorAccess (c : Nat) (k : CoreSel) (s : State) : Res := .next (s.issue c k .vector (State.runVector c k))

/-- CONTROL_WINDOW_STORE (R15, R159, R164). -/
def execControlWindowStore (c : Nat) (k : CoreSel) (s : State) : Res := .next (s.issue c k .ctlStore (State.runCtlStore c k))

/-- FAR_WINDOW_LOAD (R161, R203, R205). -/
def execFarWindowLoad (c : Nat) (k : CoreSel) (s : State) : Res := .next (s.issue c k .farLoad (State.runFarLoad c k))

/-- FAR_WINDOW_STORE (R161, R203). -/
def execFarWindowStore (c : Nat) (k : CoreSel) (s : State) : Res := .next (s.issue c k .farStore (State.runFarStore c k))

/-- FAR_LOAD_RESPONSE (R164, R204, R206). -/
def execFarLoadResponse (c : Nat) (k : CoreSel) (i : Nat) (s : State) : Res := .next (s.farResponse c k i)

/-- FENCE (R161, R166). -/
def execFence (c : Nat) (k : CoreSel) (s : State) : Res := .next (s.issue c k .fence (State.runFence c k))

/-- MERGE_ENTRY_WRITE (R166). -/
def execMergeEntryWrite (c : Nat) (k : CoreSel) (s : State) : Res := .next (s.mergeWrite c k)

/-- MERGE_AGE_EVICT (R166). -/
def execMergeAgeEvict (c : Nat) (k : CoreSel) (s : State) : Res := .next (s.mergeEvict c k)

/-- SYNC_WAIT (R219). -/
def execSyncWait (c : Nat) (k : CoreSel) (s : State) : Res := .next (s.issue c k .wait (State.runWait c k))

/-- TEST_KERNEL_CALL (R250, R251, R439). -/
def execTestKernelCall (c : Nat) (k : CoreSel) (failed : Option Nat) (s : State) : Res := .next (s.testKernel c k failed)

end Sys2Proof.Machine
end

