-- ==== Sys2Proof/Machine/Dispatch.lean ====
section
/-! DEFINITION. What each command does: one arm per constructor of `Instr`, each one call of its meaning. -/

namespace Sys2Proof.Machine

def exec (i : Instr) (s : State) : Host.Outcome State Fault Refusal :=
  match i with
  | .registerWrite req ga wide v => Sys2Proof.Machine.execRegisterWrite req ga wide v s
  | .lowWordWriteHeld req ga v => Sys2Proof.Machine.execLowWordWriteHeld req ga v s
  | .highWordWritePair req ga v => Sys2Proof.Machine.execHighWordWritePair req ga v s
  | .lowWordReadLatch req ga => Sys2Proof.Machine.execLowWordReadLatch req ga s
  | .cellFailInService c source => Sys2Proof.Machine.execCellFailInService c source s
  | .quickRemap die py => Sys2Proof.Machine.execQuickRemap die py s
  | .mxeDescPush c => Sys2Proof.Machine.execMxeDescPush c s
  | .easelLoadSegment c => Sys2Proof.Machine.execEaselLoadSegment c s
  | .easelReady c => Sys2Proof.Machine.execEaselReady c s
  | .swapWaveEnter c => Sys2Proof.Machine.execSwapWaveEnter c s
  | .feederFetch c => Sys2Proof.Machine.execFeederFetch c s
  | .freezeWatchdogExpire c => Sys2Proof.Machine.execFreezeWatchdogExpire c s
  | .finalRowCheck c journalBad => Sys2Proof.Machine.execFinalRowCheck c journalBad s
  | .replayVerdict c upset => Sys2Proof.Machine.execReplayVerdict c upset s
  | .drainLineWrite c => Sys2Proof.Machine.execDrainLineWrite c s
  | .passComplete c => Sys2Proof.Machine.execPassComplete c s
  | .ballastRow c upset => Sys2Proof.Machine.execBallastRow c upset s
  | .patternLoad c => Sys2Proof.Machine.execPatternLoad c s
  | .mxeFlush c => Sys2Proof.Machine.execMxeFlush c s
  | .mxeCntClrFreeze c => Sys2Proof.Machine.execMxeCntClrFreeze c s
  | .mxeCntClrEasel c => Sys2Proof.Machine.execMxeCntClrEasel c s
  | .mxeRplCtrlWrite c en => Sys2Proof.Machine.execMxeRplCtrlWrite c en s
  | .mxeArithClrArith c => Sys2Proof.Machine.execMxeArithClrArith c s
  | .mxeArithClrChk c => Sys2Proof.Machine.execMxeArithClrChk c s
  | .mxeArithClrRpl c => Sys2Proof.Machine.execMxeArithClrRpl c s
  | .spmBankOwnWrite c v => Sys2Proof.Machine.execSpmBankOwnWrite c v s
  | .ownershipGovern c => Sys2Proof.Machine.execOwnershipGovern c s
  | .coreInstruction c k => Sys2Proof.Machine.execCoreInstruction c k s
  | .coreLoad c k => Sys2Proof.Machine.execCoreLoad c k s
  | .coreStore c k => Sys2Proof.Machine.execCoreStore c k s
  | .coreVectorAccess c k => Sys2Proof.Machine.execCoreVectorAccess c k s
  | .controlWindowStore c k => Sys2Proof.Machine.execControlWindowStore c k s
  | .farWindowLoad c k => Sys2Proof.Machine.execFarWindowLoad c k s
  | .farWindowStore c k => Sys2Proof.Machine.execFarWindowStore c k s
  | .farLoadResponse c k idx => Sys2Proof.Machine.execFarLoadResponse c k idx s
  | .fence c k => Sys2Proof.Machine.execFence c k s
  | .mergeEntryWrite c k => Sys2Proof.Machine.execMergeEntryWrite c k s
  | .mergeAgeEvict c k => Sys2Proof.Machine.execMergeAgeEvict c k s
  | .coreStart c k => Sys2Proof.Machine.execCoreStart c k s
  | .coreStop c k => Sys2Proof.Machine.execCoreStop c k s
  | .imemLoad c k req v => Sys2Proof.Machine.execImemLoad c k req v s
  | .imemLoadComplete c k => Sys2Proof.Machine.execImemLoadComplete c k s
  | .eccRawWrite c req => Sys2Proof.Machine.execEccRawWrite c req s
  | .eccRawRead c req => Sys2Proof.Machine.execEccRawRead c req s
  | .primerDone c ecc => Sys2Proof.Machine.execPrimerDone c ecc s
  | .scrubLineRead c bank => Sys2Proof.Machine.execScrubLineRead c bank s
  | .scrubWriteback c bank => Sys2Proof.Machine.execScrubWriteback c bank s
  | .istoreScrub c k => Sys2Proof.Machine.execIstoreScrub c k s
  | .bengFill c req => Sys2Proof.Machine.execBengFill c req s
  | .bengCopy c req => Sys2Proof.Machine.execBengCopy c req s
  | .bengPoison c req => Sys2Proof.Machine.execBengPoison c req s
  | .bengCommandStart c => Sys2Proof.Machine.execBengCommandStart c s
  | .bengCommandDone c ecc => Sys2Proof.Machine.execBengCommandDone c ecc s
  | .packetRoute idx errs ecc => Sys2Proof.Machine.execPacketRoute idx errs ecc s
  | .linkNakReceive c link flit => Sys2Proof.Machine.execLinkNakReceive c link flit s
  | .loopbackTestDone c link near far wiresBad raw => Sys2Proof.Machine.execLoopbackTestDone c link near far wiresBad raw s
  | .detourLoad c entries => Sys2Proof.Machine.execDetourLoad c entries s
  | .writePacketLand idx m ecc => Sys2Proof.Machine.execWritePacketLand idx m ecc s
  | .readPacket idx m => Sys2Proof.Machine.execReadPacket idx m s
  | .readResponseReceive idx => Sys2Proof.Machine.execReadResponseReceive idx s
  | .ackReceive idx => Sys2Proof.Machine.execAckReceive idx s
  | .signalPacket idx ecc => Sys2Proof.Machine.execSignalPacket idx ecc s
  | .multicastWriteLand idx ecc => Sys2Proof.Machine.execMulticastWriteLand idx ecc s
  | .multicastSignal idx ecc => Sys2Proof.Machine.execMulticastSignal idx ecc s
  | .txPut c req => Sys2Proof.Machine.execTxPut c req s
  | .txGet c req => Sys2Proof.Machine.execTxGet c req s
  | .txMulticastPut c req => Sys2Proof.Machine.execTxMulticastPut c req s
  | .txCommandComplete c ecc => Sys2Proof.Machine.execTxCommandComplete c ecc s
  | .mcStallWatchdog idx => Sys2Proof.Machine.execMcStallWatchdog idx s
  | .mcLandAdd c v ecc => Sys2Proof.Machine.execMcLandAdd c v ecc s
  | .syncArm c n v ecc => Sys2Proof.Machine.execSyncArm c n v ecc s
  | .syncSigWrite c req v => Sys2Proof.Machine.execSyncSigWrite c req v s
  | .syncWait c k => Sys2Proof.Machine.execSyncWait c k s
  | .syncWaitSatisfied c k ecc => Sys2Proof.Machine.execSyncWaitSatisfied c k ecc s
  | .syncWaitWatchdog c k => Sys2Proof.Machine.execSyncWaitWatchdog c k s
  | .loadKind5Write badReads fates => Sys2Proof.Machine.execLoadKind5Write badReads fates s
  | .loadRound lost stalled fates => Sys2Proof.Machine.execLoadRound lost stalled fates s
  | .loadChunkRepair c seg chunk copies fates => Sys2Proof.Machine.execLoadChunkRepair c seg chunk copies fates s
  | .jobStart job => Sys2Proof.Machine.execJobStart job s
  | .jobHalt job => Sys2Proof.Machine.execJobHalt job s
  | .jobEnd job => Sys2Proof.Machine.execJobEnd job s
  | .stepDeclare job => Sys2Proof.Machine.execStepDeclare job s
  | .stepNumSet v => Sys2Proof.Machine.execStepNumSet v s
  | .testKernelCall c k failed => Sys2Proof.Machine.execTestKernelCall c k failed s
  | .gddrRead req ga len mismatches upset => Sys2Proof.Machine.execGddrRead req ga len mismatches upset s
  | .gddrWrite req ga data pois mismatches upset => Sys2Proof.Machine.execGddrWrite req ga data pois mismatches upset s
  | .channelRetrainDone die dev ch ok => Sys2Proof.Machine.execChannelRetrainDone die dev ch ok s
  | .gddrScrubSegment die dev mismatches upset => Sys2Proof.Machine.execGddrScrubSegment die dev mismatches upset s
  | .gddrTempRead die dev t => Sys2Proof.Machine.execGddrTempRead die dev t s
  | .gddrRefresh die dev bank => Sys2Proof.Machine.execGddrRefresh die dev bank s
  | .memEccRawWrite req die dev => Sys2Proof.Machine.execMemEccRawWrite req die dev s
  | .memEccRawRead req die dev => Sys2Proof.Machine.execMemEccRawRead req die dev s
  | .fabSubmitPut req die cmd => Sys2Proof.Machine.execFabSubmitPut req die cmd s
  | .fabSubmitGet req die cmd => Sys2Proof.Machine.execFabSubmitGet req die cmd s
  | .fabSubmitSignal req die cmd => Sys2Proof.Machine.execFabSubmitSignal req die cmd s
  | .fabSubmitReduce req die cmd => Sys2Proof.Machine.execFabSubmitReduce req die cmd s
  | .fabCommandStart die upset => Sys2Proof.Machine.execFabCommandStart die upset s
  | .putFrameReceive die port f link => Sys2Proof.Machine.execPutFrameReceive die port f link s
  | .getRequestReceive die port f link => Sys2Proof.Machine.execGetRequestReceive die port f link s
  | .signalFrameReceive die port f link => Sys2Proof.Machine.execSignalFrameReceive die port f link s
  | .reduceFrameReceive die port f link => Sys2Proof.Machine.execReduceFrameReceive die port f link s
  | .getResponseReceive die port f link => Sys2Proof.Machine.execGetResponseReceive die port f link s
  | .completionReceive die port f link => Sys2Proof.Machine.execCompletionReceive die port f link s
  | .frameAckReceive die port f link => Sys2Proof.Machine.execFrameAckReceive die port f link s
  | .faultNoticeReceive die port f link => Sys2Proof.Machine.execFaultNoticeReceive die port f link s
  | .nativeLinkNak die port link => Sys2Proof.Machine.execNativeLinkNak die port link s
  | .e2eAckSend q => Sys2Proof.Machine.execE2eAckSend q s
  | .e2eResendTimeout q => Sys2Proof.Machine.execE2eResendTimeout q s
  | .commandTimeout die tag => Sys2Proof.Machine.execCommandTimeout die tag s
  | .fecUncorrectableBurst die port lane count corr => Sys2Proof.Machine.execFecUncorrectableBurst die port lane count corr s
  | .partnerSignalLoss die port => Sys2Proof.Machine.execPartnerSignalLoss die port s
  | .fabPcmdRetrain die port => Sys2Proof.Machine.execFabPcmdRetrain die port s
  | .portRetrainDone die port lanesBad crReq crRsp => Sys2Proof.Machine.execPortRetrainDone die port lanesBad crReq crRsp s
  | .fabPortEnWrite die port en => Sys2Proof.Machine.execFabPortEnWrite die port en s
  | .contextOpen q => Sys2Proof.Machine.execContextOpen q s
  | .contextClose q => Sys2Proof.Machine.execContextClose q s
  | .pcieLinkUp port speed width => Sys2Proof.Machine.execPcieLinkUp port speed width s
  | .pcieLinkDown port => Sys2Proof.Machine.execPcieLinkDown port s
  | .hostBarRead port bar off len ecrc fates => Sys2Proof.Machine.execHostBarRead port bar off len ecrc fates s
  | .hostBarWrite port bar off data ep ecrc fates => Sys2Proof.Machine.execHostBarWrite port bar off data ep ecrc fates s
  | .ringDoorbell port n pi => Sys2Proof.Machine.execRingDoorbell port n pi s
  | .ringEntryFetch port n ok upset => Sys2Proof.Machine.execRingEntryFetch port n ok upset s
  | .ringNop port n => Sys2Proof.Machine.execRingNop port n s
  | .ringDmaHostToEngine port n fates => Sys2Proof.Machine.execRingDmaHostToEngine port n fates s
  | .ringDmaEngineToHost port n fates => Sys2Proof.Machine.execRingDmaEngineToHost port n fates s
  | .ringRegisterWrite port n fates => Sys2Proof.Machine.execRingRegisterWrite port n fates s
  | .ringSignal port n => Sys2Proof.Machine.execRingSignal port n s
  | .ringLoad port n fates => Sys2Proof.Machine.execRingLoad port n fates s
  | .ringJobCommand port n fates => Sys2Proof.Machine.execRingJobCommand port n fates s
  | .ringEntryComplete port n => Sys2Proof.Machine.execRingEntryComplete port n s
  | .ringEnable port n => Sys2Proof.Machine.execRingEnable port n s
  | .ringDisable port n => Sys2Proof.Machine.execRingDisable port n s
  | .msixRaise req port vec => Sys2Proof.Machine.execMsixRaise req port vec s
  | .evqEnable port => Sys2Proof.Machine.execEvqEnable port s
  | .evqCiWrite port ci => Sys2Proof.Machine.execEvqCiWrite port ci s
  | .outboundRead req addr len => Sys2Proof.Machine.execOutboundRead req addr len s
  | .outboundWrite req addr data pois => Sys2Proof.Machine.execOutboundWrite req addr data pois s
  | .outboundCompletion id ok ep ecrc data => Sys2Proof.Machine.execOutboundCompletion id ok ep ecrc data s
  | .outboundCplTimeout id => Sys2Proof.Machine.execOutboundCplTimeout id s
  | .functionLevelReset port => Sys2Proof.Machine.execFunctionLevelReset port s
  | .perstAssert port => Sys2Proof.Machine.execPerstAssert port s
  | .perstRelease port => Sys2Proof.Machine.execPerstRelease port s
  | .inputOutOfRange vin10 ia ib => Sys2Proof.Machine.execInputOutOfRange vin10 ia ib s
  | .bladeLoss blade => Sys2Proof.Machine.execBladeLoss blade s
  | .busConverterFail die => Sys2Proof.Machine.execBusConverterFail die s
  | .phaseFail die phase meas => Sys2Proof.Machine.execPhaseFail die phase meas s
  | .substrateRegulatorFail die u => Sys2Proof.Machine.execSubstrateRegulatorFail die u s
  | .ldoSliceFail die rx ry rail slice => Sys2Proof.Machine.execLdoSliceFail die rx ry rail slice s
  | .regionComputeOn die rx ry => Sys2Proof.Machine.execRegionComputeOn die rx ry s
  | .regionComputeOff die rx ry => Sys2Proof.Machine.execRegionComputeOff die rx ry s
  | .regionFullOff die rx ry => Sys2Proof.Machine.execRegionFullOff die rx ry s
  | .regionRouterOn die rx ry => Sys2Proof.Machine.execRegionRouterOn die rx ry s
  | .stageAdmission die => Sys2Proof.Machine.execStageAdmission die s
  | .quarterStrength die rx ry => Sys2Proof.Machine.execQuarterStrength die rx ry s
  | .turnOnAbandon die rx ry => Sys2Proof.Machine.execTurnOnAbandon die rx ry s
  | .powerGood die rx ry => Sys2Proof.Machine.execPowerGood die rx ry s
  | .powerGoodMissed die rx ry => Sys2Proof.Machine.execPowerGoodMissed die rx ry s
  | .activityEstimate die upset meas => Sys2Proof.Machine.execActivityEstimate die upset meas s
  | .engineEstimate paux reading => Sys2Proof.Machine.execEngineEstimate paux reading s
  | .trimUpdate => Sys2Proof.Machine.execTrimUpdate s
  | .bandIntervalJudge => Sys2Proof.Machine.execBandIntervalJudge s
  | .averageModeEval => Sys2Proof.Machine.execAverageModeEval s
  | .timeFrame f => Sys2Proof.Machine.execTimeFrame f s
  | .windowAllFrame f => Sys2Proof.Machine.execWindowAllFrame f s
  | .windowFrame f => Sys2Proof.Machine.execWindowFrame f s
  | .budgetFrame f => Sys2Proof.Machine.execBudgetFrame f s
  | .cancelFrame f => Sys2Proof.Machine.execCancelFrame f s
  | .rampRequest w => Sys2Proof.Machine.execRampRequest w s
  | .regionTempEval die rx ry t => Sys2Proof.Machine.execRegionTempEval die rx ry t s
  | .heatSwitchOn die rx ry => Sys2Proof.Machine.execHeatSwitchOn die rx ry s
  | .tempSensorFail die rx ry => Sys2Proof.Machine.execTempSensorFail die rx ry s
  | .thermalStop die rx ry => Sys2Proof.Machine.execThermalStop die rx ry s
  | .coolantDeassert ns => Sys2Proof.Machine.execCoolantDeassert ns s
  | .ptpSyncMessage offset domain l2 => Sys2Proof.Machine.execPtpSyncMessage offset domain l2 s
  | .timeSet v => Sys2Proof.Machine.execTimeSet v s
  | .timeSrcWrite src => Sys2Proof.Machine.execTimeSrcWrite src s
  | .pllLockLoss die field => Sys2Proof.Machine.execPllLockLoss die field s
  | .dieThrottleApply die => Sys2Proof.Machine.execDieThrottleApply die s
  | .dieThrottleDecay die => Sys2Proof.Machine.execDieThrottleDecay die s
  | .droopFire die rx ry mv => Sys2Proof.Machine.execDroopFire die rx ry mv s
  | .droopStretchEnd die rx ry mv good => Sys2Proof.Machine.execDroopStretchEnd die rx ry mv good s
  | .marginEval die rx ry margin upset => Sys2Proof.Machine.execMarginEval die rx ry margin upset s
  | .criticalMargin die rx ry code => Sys2Proof.Machine.execCriticalMargin die rx ry code s
  | .targetedTestStart c => Sys2Proof.Machine.execTargetedTestStart c s
  | .targetedTestVerdict c pass => Sys2Proof.Machine.execTargetedTestVerdict c pass s
  | .firmwareSelfTest c failed => Sys2Proof.Machine.execFirmwareSelfTest c failed s
  | .bboxSelect jseq => Sys2Proof.Machine.execBboxSelect jseq s
  | .firmwareVerify sfdp keysOk objs => Sys2Proof.Machine.execFirmwareVerify sfdp keysOk objs s
  | .configRead r => Sys2Proof.Machine.execConfigRead r s
  | .diePowerUp die ok ctlOk slicesBad => Sys2Proof.Machine.execDiePowerUp die ok ctlOk slicesBad s
  | .pllCalibration die locked raw wiresBad => Sys2Proof.Machine.execPllCalibration die locked raw wiresBad s
  | .neighbourTest marchBad verdicts wiresBad retrain => Sys2Proof.Machine.execNeighbourTest marchBad verdicts wiresBad retrain s
  | .linkTraining gddr lanesBad credits => Sys2Proof.Machine.execLinkTraining gddr lanesBad credits s
  | .bootResetWarm confirm => Sys2Proof.Machine.execBootResetWarm confirm s
  | .bootResetCold confirm => Sys2Proof.Machine.execBootResetCold confirm s
  | .dieControllerWatchdog die => Sys2Proof.Machine.execDieControllerWatchdog die s
  | .flashWriteComplete ok0 ok1 => Sys2Proof.Machine.execFlashWriteComplete ok0 ok1 s
  | .licInstallLicence obj fates => Sys2Proof.Machine.execLicInstallLicence obj fates s
  | .licInstallFirmware obj ok fates => Sys2Proof.Machine.execLicInstallFirmware obj ok fates s
  | .svcRemoveRepairEntries obj die idxs fates => Sys2Proof.Machine.execSvcRemoveRepairEntries obj die idxs fates s
  | .svcClearBlackBox obj fates => Sys2Proof.Machine.execSvcClearBlackBox obj fates s
  | .svcInstallRackKeys obj keys fates => Sys2Proof.Machine.execSvcInstallRackKeys obj keys fates s
  | .svcRemoveLicence obj lseq fates => Sys2Proof.Machine.execSvcRemoveLicence obj lseq fates s
  | .svcReplaceConfig obj cfg fates => Sys2Proof.Machine.execSvcReplaceConfig obj cfg fates s
  | .svcSelectFirmwareSlot obj slot fates => Sys2Proof.Machine.execSvcSelectFirmwareSlot obj slot fates s
  | .svcRaiseMinSvn obj fates => Sys2Proof.Machine.execSvcRaiseMinSvn obj fates s
  | .tapInstruction die t => Sys2Proof.Machine.execTapInstruction die t s
  | .streamedRowPresent c upset => Sys2Proof.Machine.execStreamedRowPresent c upset s
  | .highWordReadPair req ga => Sys2Proof.Machine.execHighWordReadPair req ga s
  | .pcieLinkRecovery port speed width => Sys2Proof.Machine.execPcieLinkRecovery port speed width s
  | .pcieConfigRequest port r v => Sys2Proof.Machine.execPcieConfigRequest port r v s
  | .malformedFrameReceive die port kind => Sys2Proof.Machine.execMalformedFrameReceive die port kind s
  | .rackFrameIgnored f => Sys2Proof.Machine.execRackFrameIgnored f s
  | .quickRemapComplete => Sys2Proof.Machine.execQuickRemapComplete s
  | .panelHalt => Sys2Proof.Machine.execPanelHalt s
  | .loadStart fates => Sys2Proof.Machine.execLoadStart fates s
  | .loadPrepare => Sys2Proof.Machine.execLoadPrepare s
  | .loadRoundTimeout => Sys2Proof.Machine.execLoadRoundTimeout s
  | .loadInitialise => Sys2Proof.Machine.execLoadInitialise s
  | .loadAbort => Sys2Proof.Machine.execLoadAbort s
  | .inputLoss => Sys2Proof.Machine.execInputLoss s
  | .inputColdStartCondition => Sys2Proof.Machine.execInputColdStartCondition s
  | .bladeRestore => Sys2Proof.Machine.execBladeRestore s
  | .spareConverterFail => Sys2Proof.Machine.execSpareConverterFail s
  | .bandControlStep => Sys2Proof.Machine.execBandControlStep s
  | .bandModeChange => Sys2Proof.Machine.execBandModeChange s
  | .rampTick => Sys2Proof.Machine.execRampTick s
  | .statusFrameSend => Sys2Proof.Machine.execStatusFrameSend s
  | .orphanEnter => Sys2Proof.Machine.execOrphanEnter s
  | .canBusOff => Sys2Proof.Machine.execCanBusOff s
  | .coolantStop => Sys2Proof.Machine.execCoolantStop s
  | .coolantAssert => Sys2Proof.Machine.execCoolantAssert s
  | .bandRestart => Sys2Proof.Machine.execBandRestart s
  | .ppsEdge ref => Sys2Proof.Machine.execPpsEdge ref s
  | .refLoss => Sys2Proof.Machine.execRefLoss s
  | .holdoverEnter => Sys2Proof.Machine.execHoldoverEnter s
  | .unsyncEnter => Sys2Proof.Machine.execUnsyncEnter s
  | .throttleApply => Sys2Proof.Machine.execThrottleApply s
  | .errorRecordArrive => Sys2Proof.Machine.execErrorRecordArrive s
  | .bboxCommit ok0 ok1 => Sys2Proof.Machine.execBboxCommit ok0 ok1 s
  | .udpDatagramSend => Sys2Proof.Machine.execUdpDatagramSend s
  | .mgmtLinkUp => Sys2Proof.Machine.execMgmtLinkUp s
  | .coverageCheck => Sys2Proof.Machine.execCoverageCheck s
  | .startupCoolantTimeout => Sys2Proof.Machine.execStartupCoolantTimeout s
  | .primeAll => Sys2Proof.Machine.execPrimeAll s
  | .fuseMergePublish faults => Sys2Proof.Machine.execFuseMergePublish faults s
  | .gddrPriming => Sys2Proof.Machine.execGddrPriming s
  | .bootLockReady => Sys2Proof.Machine.execBootLockReady s
  | .phaseOverrun => Sys2Proof.Machine.execPhaseOverrun s
  | .warmRestart => Sys2Proof.Machine.execWarmRestart s
  | .heartbeatSend => Sys2Proof.Machine.execHeartbeatSend s
  | .heartbeatLossFailover => Sys2Proof.Machine.execHeartbeatLossFailover s
  | .licAttest => Sys2Proof.Machine.execLicAttest s
  | .licReadCertificate => Sys2Proof.Machine.execLicReadCertificate s
  | .w4RateApply => Sys2Proof.Machine.execW4RateApply s
  | .moduleReset => Sys2Proof.Machine.execModuleReset s
  | .moduleResetRelease => Sys2Proof.Machine.execModuleResetRelease s
  | .mgmtLinkDown => Sys2Proof.Machine.execMgmtLinkDown s

end Sys2Proof.Machine
end

