-- ==== Sys2Proof/Machine/Tick.lean ====
section
/-! DEFINITION. One slot of the 1.5 GHz clock (R400, R401): what the block does while no command waits (log 2). -/

namespace Sys2Proof.Machine

namespace State

/-- A cell's core units see the pulses of its region while they are not held (R144); its router sees those of its own gate, and
acknowledgements come back on its links (R193). -/
def pulseCell (s : State) (c : Nat) (x : Cell) : Cell :=
  let y := if s.runs c then { x with cyc := x.cyc + 1 } else x
  if s.routerPulse c then { s.linkAcks c y with rcyc := y.rcyc + 1 } else y

/-- The end of a delivered cycle of a cell: its matrix engine's stages (R81-R115), its bank engine's line (R176), the waits of its cores
(R219, R220), stops that a core could not take at once (R180, R182). -/
def cellCycle (s : State) (c : Nat) : State :=
  if s.corePulse c then
    let t := if s.runs c then (s.mxeCycle c).bengCycle c else s.mxeCycle c
    (((t.waitSettle c .head).waitSettle c .tail).coreStopDue c .head).coreStopDue c .tail
  else s

/-- The end of a router cycle of a cell's SYNC block (R217, R402). -/
def signalCycle (s : State) (c : Nat) : State := if s.routerPulse c then s.syncCycle c else s

/-- The end of a cycle of a cell's send unit, which a cell hold does not stop and the core gate clocks (R144, R402): it injects its next
packet (R208). -/
def routerCycle (s : State) (c : Nat) : State := if s.corePulse c then s.txAdvance c else s

/-- The slot passes: counts are latched at slot 0 of a frame, the gates' pulses are counted, and what software wrote in the slot is
old. -/
def passSlot (s : State) : State :=
  { s with regions := s.regions.map fun p => (p.1, s.pulseRegion p.1 p.2), cells := s.cells.map fun p => (p.1, s.pulseCell p.1 p.2),
           net := s.net.map s.pulsePkt, wrote := [], w1cSet := [], leftRun := [], boot := { s.boot with remapLate := [] }, slot := s.slot + 1 }

/-- The pulse counts of the slot: latched at slot 0 of a frame (R406). -/
def tickStart (s : State) : State := if s.slot % 16 = 0 then s.latchCounts else s

/-- What happens in a slot: its cells' and routers' cycles, the links' and ports' own sends; at its end the struck cells of its halts halt
(R429), jobs whose last core stopped are DONE (R243), converters that failed in it are settled (R344), and a queued STATUS frame leaves
(R386). -/
def tickEnd (s : State) : State :=
  let u := s.cells.foldl (fun u p => ((u.signalCycle p.1).cellCycle p.1).routerCycle p.1) s
  let v := (List.range (3 * u.part.dies)).foldl (fun v i => v.linkIdle (i / 3) (i % 3)) (u.part.ports.foldl (fun v p => v.evqGap p) u)
  v.haltSettle.jobsSettle.settleConverters.powerSettle.busSend

/-- One slot of the 1.5 GHz clock passes; at the end of a 1 µs tick a stop whose cause came in it starts (R392). -/
def tick (s : State) : State := s.tickStart.tickEnd.passSlot.stopSettle

end State

end Sys2Proof.Machine
end

