-- ==== Sys2Proof/WellFormed.lean ====
section
/-! DEFINITION. Well-formed commands: every operand lies in the range the spec gives the thing it names. The largest part's
population is taken (R1, R43): a die, a cell or a context that a smaller part lacks is refused by the command's meaning, as
R3 says. -/

namespace Sys2Proof.WellFormed

/-- A physical cell of d0-d7, 48 by 48 cells each (R11, R43). -/
def cellOk (c : Nat) : Bool := decide (c < 8 * 2304)
/-- A tested unit: a cell, or 18432 + 12 * die + device for the half-block test of a controller (R436). -/
def unitOk (c : Nat) : Bool := decide (c < 8 * 2304 + 96)
/-- A die name d0-d7 (R11). -/
def dieOk (d : Nat) : Bool := decide (d < 8)
/-- A region coordinate (R11). -/
def regOk (r : Nat) : Bool := decide (r < 8)
/-- A physical row of a die (R11). -/
def rowOk (py : Nat) : Bool := decide (py < 48)
/-- A sync counter SYNC0-SYNC47 (R11). -/
def ctrOk (n : Nat) : Bool := decide (n < 48)
/-- A scratchpad bank B0-B7 (R11). -/
def bankOk (b : Nat) : Bool := decide (b < 8)
/-- A link code (R184). -/
def linkOk (l : Nat) : Bool := decide (l < 12)
/-- A link of a router: 0-11 as R184 numbers them, or 16 for a die's link to its I/O ring (R519). -/
def anyLinkOk (l : Nat) : Bool := linkOk l || l == 16
/-- The 48 bits of a flit's sideband word (R189). -/
def sidebandOk (w : Nat) : Bool := decide (w < 2 ^ 48)
/-- Links on which a packet's flits fail their CRC, and how often (R193). -/
def linkErrsOk (l : List (Nat × Nat)) : Bool := l.all fun p => anyLinkOk p.1
/-- A router sequence number (R193), or a PTP domain (R380): 8 bits. -/
def seqOk (n : Nat) : Bool := decide (n < 256)
/-- What a router's control-state check finds: nothing, a corrected error, an uncorrectable one (R223). -/
def eccOk (e : Nat) : Bool := decide (e < 3)
/-- What a memory controller's control-state check finds: as a router's, or 3, a parity error in the check cache (R275). -/
def mcUpsetOk (e : Nat) : Bool := decide (e < 4)
/-- What the fabric's control-state check finds: nothing, an uncorrectable error, or 2 + p, a single bit in the bookkeeping of port p
(R310). -/
def fabUpsetOk (e : Nat) : Bool := decide (e < 5)
/-- The 16 detour entries of a router (R199). -/
def entriesOk (es : List Word) : Bool := decide (es.length ≤ 16)
/-- The SOURCE of a repair-map entry (R55: 4 bits). -/
def sourceOk (n : Nat) : Bool := decide (n < 16)
/-- A column of the array, or 128 and 129 for the check columns (R136). -/
def colOk (u : Option (Nat × Int)) : Bool := match u with | some p => decide (p.1 < 130) | none => true
/-- Host ports 0 and 1 (R313). -/
def hostPortOk (p : Nat) : Bool := decide (p < 2)
/-- BAR0 and BAR2 (R317, R318). -/
def barOk (b : Nat) : Bool := b == 0 || b == 2
/-- A submission ring 0-255 (R331). -/
def ringOk (n : Nat) : Bool := decide (n < 256)
/-- An MSI-X vector 0-511 (R331). -/
def vecOk (v : Nat) : Bool := decide (v < 512)
/-- A host memory address of 44 bits (R38). -/
def hostAddrOk (a : Nat) : Bool := decide (a < 2 ^ 44)
/-- The three Xildo ports of a die (R281). -/
def fabPortOk (p : Nat) : Bool := decide (p < 3)
/-- The eight lanes of a Xildo port. -/
def laneOk (l : Nat) : Bool := decide (l < 8)
/-- A queue context of the engine (R290). -/
def ctxOk (q : Nat) : Bool := decide (q < 65536)
/-- A 16-bit field: a JOB_ID or a tag slot. -/
def w16Ok (n : Nat) : Bool := decide (n < 65536)
/-- A 32-bit field. -/
def w32Ok (n : Nat) : Bool := decide (n < 2 ^ 32)
/-- The twelve GDDR7 devices of a die, MEM0-MEM11 (R3). -/
def devOk (n : Nat) : Bool := decide (n < 12)
/-- The four channels of a device (R257). -/
def chOk (n : Nat) : Bool := decide (n < 4)
/-- The 28 phases of a die (R345). -/
def phaseOk (n : Nat) : Bool := decide (n < 28)
/-- The two rails of a region, compute and router. -/
def railOk (n : Nat) : Bool := decide (n < 2)
/-- The four LDO slices of a rail (R350). -/
def sliceOk (n : Nat) : Bool := decide (n < 4)
/-- The four fields of a die (R11). -/
def fieldOk (n : Nat) : Bool := decide (n < 4)
/-- The two power blades (R338). -/
def bladeOk (n : Nat) : Bool := decide (n < 2)
/-- The two firmware slots (R455). -/
def slotOk (n : Nat) : Bool := decide (n < 2)
/-- TIME_CFG.SRC, 2 bits (R381). -/
def timeSrcOk (n : Nat) : Bool := decide (n < 4)
/-- A margin code, 5 bits (R410). -/
def codeOk (n : Nat) : Bool := decide (n < 32)
/-- The unit a substrate regulator feeds (R347). -/
def feedsOk (u : Feeds) : Bool := match u with | .gddr n => devOk n | .xildo p => fabPortOk p | .hostPort | .dieControl => true
/-- The places a round's lost packets name: cells of the engine. -/
def lostOk (l : List (Nat × Nat × Nat × Nat)) : Bool := l.all fun p => cellOk p.1
/-- The routers that hold up packets of a round. -/
def stalledOk (l : List (Nat × Nat × Nat × Nat)) : Bool := l.all fun p => cellOk p.2.2.2
/-- Wires of a die-boundary crossing (R466). -/
def wiresOk (l : List Nat) : Bool := l.all fun w => decide (w < 40)
/-- A requester (R13, R318): ports, cells and dies exist. -/
def reqOk (r : Req) : Bool :=
  match r with
  | .host p => hostPortOk p
  | .core c _ | .far c _ => cellOk c
  | .firmware => true
  | .agent d => dieOk d
/-- The fields of a frame header fit their widths, and the payload its length (R286). -/
def frameOk (f : Frame) : Bool :=
  decide (f.rsvd < 2 ^ 27) && decide (f.crc < 2 ^ 32) && decide (f.ftype < 256) && decide (f.rfmt < 4) && decide (f.paylen < 65536) && w16Ok f.dstEngine && w16Ok f.srcEngine &&
    w16Ok f.dstQueue && w16Ok f.srcQueue && w16Ok f.tag && decide (f.gen < 16) && decide (f.status < 16) &&
    decide (f.payload.length ≤ 65535) && f.pois.all fun j => decide (j < 128)
/-- A rack-bus frame: TYPE and NODE make an identifier of 11 bits, and at most 64 bytes follow (R384). -/
def rackOk (f : RackFrame) : Bool := decide (f.ftype < 64) && decide (f.node < 32) && decide (f.data.length ≤ 64)

/-- Every operand of a command lies in its range. -/
def instrOk (i : Instr) : Bool :=
  match i with
  | .registerWrite req _ _ _ | .lowWordWriteHeld req _ _ | .highWordWritePair req _ _ | .lowWordReadLatch req _
  | .highWordReadPair req _ => reqOk req
  | .cellFailInService c source => cellOk c && sourceOk source
  | .quickRemap die py => dieOk die && rowOk py
  | .mxeDescPush c | .easelLoadSegment c | .easelReady c | .swapWaveEnter c | .feederFetch c | .freezeWatchdogExpire c
  | .finalRowCheck c _ | .drainLineWrite c | .passComplete c | .ballastRow c _ | .patternLoad c | .mxeFlush c
  | .mxeCntClrFreeze c | .mxeCntClrEasel c | .mxeRplCtrlWrite c _ | .mxeArithClrArith c | .mxeArithClrChk c
  | .mxeArithClrRpl c | .spmBankOwnWrite c _ | .ownershipGovern c | .coreInstruction c _ | .coreLoad c _
  | .coreStore c _ | .coreVectorAccess c _ | .controlWindowStore c _ | .farWindowLoad c _ | .farWindowStore c _
  | .farLoadResponse c _ _ | .fence c _ | .mergeEntryWrite c _ | .mergeAgeEvict c _ | .coreStart c _ | .coreStop c _
  | .imemLoadComplete c _ | .istoreScrub c _ | .bengCommandStart c | .syncWait c _ | .syncWaitWatchdog c _
  | .loadChunkRepair c _ _ _ _ | .testKernelCall c _ _ | .targetedTestStart c | .firmwareSelfTest c _ => cellOk c
  | .replayVerdict c upset | .streamedRowPresent c upset => cellOk c && colOk upset
  | .imemLoad c _ req _ | .eccRawWrite c req | .eccRawRead c req | .bengFill c req | .bengCopy c req
  | .bengPoison c req | .syncSigWrite c req _ | .txPut c req | .txGet c req | .txMulticastPut c req => cellOk c && reqOk req
  | .scrubLineRead c bank | .scrubWriteback c bank => cellOk c && bankOk bank
  | .primerDone c ecc | .bengCommandDone c ecc | .txCommandComplete c ecc | .mcLandAdd c _ ecc => cellOk c && eccOk ecc
  | .packetRoute _ errs ecc => linkErrsOk errs && eccOk ecc
  | .signalPacket _ ecc | .multicastSignal _ ecc | .writePacketLand _ _ ecc | .multicastWriteLand _ ecc => eccOk ecc
  | .linkNakReceive c link flit => cellOk c && anyLinkOk link && sidebandOk flit
  | .loopbackTestDone c link _ _ wiresBad _ => cellOk c && anyLinkOk link && wiresOk wiresBad
  | .detourLoad c entries => cellOk c && entriesOk entries
  | .readPacket _ _ | .readResponseReceive _ | .ackReceive _
  | .mcStallWatchdog _ | .loadKind5Write _ _ | .stepNumSet _ | .outboundCompletion _ _ _ _ _ | .outboundCplTimeout _
  | .inputOutOfRange _ _ _ | .engineEstimate _ _ | .trimUpdate | .bandIntervalJudge | .averageModeEval
  | .rampRequest _ | .coolantDeassert _ | .timeSet _ | .bboxSelect _ | .firmwareVerify _ _ _
  | .configRead _ | .neighbourTest _ _ _ _ | .linkTraining _ _ _ | .flashWriteComplete _ _ | .licInstallLicence _ _
  | .licInstallFirmware _ _ _ | .svcClearBlackBox _ _ | .svcInstallRackKeys _ _ _ | .svcRemoveLicence _ _ _
  | .svcReplaceConfig _ _ _ | .svcRaiseMinSvn _ _ | .quickRemapComplete | .panelHalt | .loadStart _ | .loadPrepare
  | .loadRoundTimeout | .loadInitialise | .loadAbort | .inputLoss | .inputColdStartCondition | .bladeRestore
  | .spareConverterFail | .bandControlStep | .bandModeChange | .rampTick | .statusFrameSend | .orphanEnter | .canBusOff
  | .coolantStop | .coolantAssert | .bandRestart | .ppsEdge _ | .refLoss | .holdoverEnter | .unsyncEnter | .throttleApply
  | .errorRecordArrive | .bboxCommit _ _ | .udpDatagramSend | .mgmtLinkUp | .coverageCheck | .startupCoolantTimeout
  | .primeAll | .fuseMergePublish _ | .gddrPriming | .bootLockReady | .phaseOverrun | .warmRestart | .heartbeatSend
  | .heartbeatLossFailover | .licAttest | .licReadCertificate | .w4RateApply | .moduleReset | .moduleResetRelease
  | .mgmtLinkDown => true
  | .ptpSyncMessage _ domain _ => seqOk domain
  | .syncArm c n _ ecc => cellOk c && ctrOk n && eccOk ecc
  | .syncWaitSatisfied c _ ecc => cellOk c && eccOk ecc
  | .loadRound lost stalled _ => lostOk lost && stalledOk stalled
  | .jobStart job | .jobHalt job | .jobEnd job | .stepDeclare job => w16Ok job
  | .gddrRead req _ _ _ upset | .gddrWrite req _ _ _ _ upset => reqOk req && mcUpsetOk upset
  | .channelRetrainDone die dev ch _ => dieOk die && devOk dev && chOk ch
  | .gddrScrubSegment die dev _ upset => dieOk die && devOk dev && mcUpsetOk upset
  | .gddrTempRead die dev _ | .gddrRefresh die dev _ => dieOk die && devOk dev
  | .memEccRawWrite req die dev | .memEccRawRead req die dev => reqOk req && dieOk die && devOk dev
  | .fabSubmitPut req die _ | .fabSubmitGet req die _ | .fabSubmitSignal req die _ | .fabSubmitReduce req die _ =>
      reqOk req && dieOk die
  | .fabCommandStart die upset => dieOk die && fabUpsetOk upset
  | .putFrameReceive die port f _ | .getRequestReceive die port f _ | .signalFrameReceive die port f _
  | .reduceFrameReceive die port f _ | .getResponseReceive die port f _ | .completionReceive die port f _
  | .frameAckReceive die port f _ | .faultNoticeReceive die port f _ => dieOk die && fabPortOk port && frameOk f
  | .nativeLinkNak die port _ | .partnerSignalLoss die port | .fabPcmdRetrain die port
  | .portRetrainDone die port _ _ _ | .fabPortEnWrite die port _ | .malformedFrameReceive die port _ =>
      dieOk die && fabPortOk port
  | .e2eAckSend q | .e2eResendTimeout q | .contextOpen q | .contextClose q => ctxOk q
  | .commandTimeout die tag => dieOk die && w16Ok tag
  | .fecUncorrectableBurst die port lane _ _ => dieOk die && fabPortOk port && laneOk lane
  | .pcieLinkUp port _ _ | .pcieLinkDown port | .evqEnable port | .evqCiWrite port _ | .functionLevelReset port
  | .perstAssert port | .perstRelease port | .pcieLinkRecovery port _ _ | .pcieConfigRequest port _ _ =>
      hostPortOk port
  | .hostBarRead port bar _ _ _ _ | .hostBarWrite port bar _ _ _ _ _ => hostPortOk port && barOk bar
  | .ringDoorbell port n _ | .ringEntryFetch port n _ _ | .ringNop port n | .ringDmaHostToEngine port n _
  | .ringDmaEngineToHost port n _ | .ringRegisterWrite port n _ | .ringSignal port n | .ringLoad port n _
  | .ringJobCommand port n _ | .ringEntryComplete port n | .ringEnable port n | .ringDisable port n =>
      hostPortOk port && ringOk n
  | .msixRaise req port vec => reqOk req && hostPortOk port && vecOk vec
  | .outboundRead req addr _ | .outboundWrite req addr _ _ => reqOk req && hostAddrOk addr
  | .bladeLoss blade => bladeOk blade
  | .busConverterFail die | .stageAdmission die | .activityEstimate die _ _ | .dieThrottleApply die
  | .dieThrottleDecay die | .diePowerUp die _ _ _ | .pllCalibration die _ _ _ | .dieControllerWatchdog die
  | .svcRemoveRepairEntries _ die _ _ | .tapInstruction die _ => dieOk die
  | .phaseFail die phase _ => dieOk die && phaseOk phase
  | .substrateRegulatorFail die u => dieOk die && feedsOk u
  | .ldoSliceFail die rx ry rail slice => dieOk die && regOk rx && regOk ry && railOk rail && sliceOk slice
  | .regionComputeOn die rx ry | .regionComputeOff die rx ry | .regionFullOff die rx ry | .regionRouterOn die rx ry
  | .quarterStrength die rx ry | .turnOnAbandon die rx ry | .powerGood die rx ry | .powerGoodMissed die rx ry
  | .regionTempEval die rx ry _ | .heatSwitchOn die rx ry | .tempSensorFail die rx ry | .thermalStop die rx ry
  | .droopFire die rx ry _ | .droopStretchEnd die rx ry _ _ | .marginEval die rx ry _ _ => dieOk die && regOk rx && regOk ry
  | .timeFrame f | .windowAllFrame f | .windowFrame f | .budgetFrame f | .cancelFrame f | .rackFrameIgnored f =>
      rackOk f
  | .timeSrcWrite src => timeSrcOk src
  | .pllLockLoss die field => dieOk die && fieldOk field
  | .criticalMargin die rx ry code => dieOk die && regOk rx && regOk ry && codeOk code
  | .targetedTestVerdict c _ => unitOk c
  | .bootResetWarm confirm | .bootResetCold confirm => w32Ok confirm
  | .svcSelectFirmwareSlot _ slot _ => slotOk slot

/-- A queue of well-formed commands. -/
def queueOk (l : List Instr) : Bool := l.all instrOk

end Sys2Proof.WellFormed
end

