-- ==== Sys2Proof/Safety.lean ====
section
/-! DEFINITION. What counts as a safe state and a safe run, and what a command may change, in the terms the claims use. -/

namespace Sys2Proof.Machine

/-- The canonical form of the register file: keys strictly rising, no entry equal to its register's reset value. -/
def Regs.wf (p : Part) (m : SMap DWord) : Bool := SMap.risingFrom none m && m.all fun e => e.2 != regReset p e.1

/-- Memory and the register file are in their canonical forms, so that equal contents are equal data. -/
def State.canon (s : State) : Prop := Memory.wf s.mem = true ∧ Regs.wf s.part s.regs = true

/-- No record of a severity above contained waits (R422: 0 corrected, 1 contained, 2 engine, 3 stop). -/
def State.quiet (s : State) : Prop := ∀ r ∈ s.err.recQ, r.sev ≤ 1

/-- A safe state: canonical, with well-formed commands waiting, and nothing on record that stops the engine. -/
def State.safe (s : State) : Prop := s.canon ∧ WellFormed.queueOk s.pending = true ∧ s.quiet

/-- A safe run of `n` steps: each step answers a next state, and every state on the way is safe. -/
def safeRun : Nat → State → Prop
  | 0, s => s.safe
  | n + 1, s => s.safe ∧ ∃ t, step s = .next t ∧ safeRun n t

/-! ### What a command may change -/

/-- The kinds of state a command may change: the fields of `State` but the part, the clock and the queue. -/
inductive Comp where
  | regs | wrote | w1cSet | mem | cells | regions | dies | mcs | pend13 | resp | net | panels | jobs | leftRun
  | load | ctxs | tags | fabQ | fabWait | fports | rings | hports | outReads | nextId | band | time | boot | flash | err | tap | out | fates | free
deriving DecidableEq, Repr

/-- Both states hold the same in one kind of state. -/
def State.sameAt (s t : State) : Comp → Prop
  | .regs => t.regs = s.regs
  | .wrote => t.wrote = s.wrote
  | .w1cSet => t.w1cSet = s.w1cSet
  | .mem => t.mem = s.mem
  | .cells => t.cells = s.cells
  | .regions => t.regions = s.regions
  | .dies => t.dies = s.dies
  | .mcs => t.mcs = s.mcs
  | .pend13 => t.pend13 = s.pend13
  | .resp => t.resp = s.resp
  | .net => t.net = s.net
  | .panels => t.panels = s.panels
  | .jobs => t.jobs = s.jobs
  | .leftRun => t.leftRun = s.leftRun
  | .load => t.load = s.load
  | .ctxs => t.ctxs = s.ctxs
  | .tags => t.tags = s.tags
  | .fabQ => t.fabQ = s.fabQ
  | .fabWait => t.fabWait = s.fabWait
  | .fports => t.fports = s.fports
  | .rings => t.rings = s.rings
  | .hports => t.hports = s.hports
  | .outReads => t.outReads = s.outReads
  | .nextId => t.nextId = s.nextId
  | .band => t.band = s.band
  | .time => t.time = s.time
  | .boot => t.boot = s.boot
  | .flash => t.flash = s.flash
  | .err => t.err = s.err
  | .tap => t.tap = s.tap
  | .out => t.out = s.out
  | .fates => t.fates = s.fates
  | .free => t.free = s.free

/-- `t` differs from `s` in the listed kinds of state at most; the part, the clock and the queue of waiting commands are as
before, and memory and registers stay canonical. -/
def State.within (w : List Comp) (s t : State) : Prop :=
  t.part = s.part ∧ t.slot = s.slot ∧ t.pending = s.pending ∧ (s.canon → t.canon) ∧ ∀ k, k ∉ w → s.sameAt t k

/-- One record of class `cls` is raised, of the severity its class gives (R422, R452). -/
def State.logs (s t : State) (cls : Nat) (loc : Loc) (detail : Nat) : Prop :=
  ∃ r, t.err.recQ = s.err.recQ ++ [r] ∧ r.cls = cls ∧ r.sev = sevOf cls ∧ r.loc = loc ∧ r.detail = BitVec.ofNat 64 detail

/-- Every register but the listed ones reads as before. -/
def State.regsBut (s t : State) (ks : List Nat) : Prop := ∀ k, k ∉ ks → t.reg k = s.reg k

/-- Every cell but `c` is as before. -/
def State.cellsBut (s t : State) (c : Nat) : Prop := ∀ e, e ≠ c → t.cell e = s.cell e

/-- Core `k` of cell `c` issues the instruction `w` of `len` bytes, spelled `raw`, by the command `row`. -/
def State.issues (s : State) (c : Nat) (k : CoreSel) (row : Row) (w len raw : Nat) : Prop :=
  s.canIssue c k = true ∧ s.atKernel c k = false ∧ s.fetch c k = (s, .ins w len raw) ∧ rowOf (s.core c k) w = row

/-- Every core but one is as before. -/
def State.coresBut (s t : State) (c : Nat) (k : CoreSel) : Prop := ∀ d q, d ≠ c ∨ q ≠ k → t.core d q = s.core d q

/-- Every region but `r` is as before. -/
def State.regionsBut (s t : State) (r : Nat) : Prop := ∀ q, q ≠ r → t.region q = s.region q

/-- One frame leaves an Ethernet port, sealed and framed (R286, R287). -/
def State.sendsEther (s t : State) (d p : Nat) (dmac : BitVec 48) (g : Frame) : Prop :=
  t.out = .frame d p (etherBytes dmac (BitVec.ofNat 48 (s.reg (fabKey d p FAB_PMAC)).toNat) (s.fport d p).vlan (s.fport d p).etype (sealFrame g)) :: s.out

/-- Phase `p` of a start ends: its duration is reported and the next phase begins now (R459, R461). -/
def State.phaseEnds (s t : State) (p : Nat) : Prop :=
  t.fld (ecKey BOOT_STAT) 0 4 = p + 1 ∧ t.reg (ecKey (BOOT_PTIME + 4 * (p - 1))) = BitVec.ofNat 64 (min ((s.now - s.boot.phaseStart) / 1000) 0xFFFFFFFF) ∧
    t.boot.phaseStart = s.now ∧ t.boot.nextDie = 0

/-- What ending or halting a job can reach. -/
def haltReach : List Comp :=
  [.regs, .wrote, .mem, .cells, .regions, .resp, .panels, .jobs, .leftRun, .load,
   .ctxs, .tags, .fabQ, .fabWait, .rings, .hports, .err, .out]

/-- What a load can reach. -/
def loadReach : List Comp :=
  [.regs, .wrote, .mem, .cells, .regions, .mcs, .resp, .panels, .jobs, .leftRun, .load,
   .ctxs, .tags, .fabQ, .fabWait, .rings, .hports, .flash, .err, .out, .fates]

/-- What a cold start resets. -/
def coldReach : List Comp :=
  [.regs, .mem, .cells, .regions, .dies, .mcs, .pend13, .resp, .net, .panels, .jobs, .load,
   .ctxs, .tags, .fabQ, .fabWait, .fports, .rings, .hports, .outReads, .band, .time, .boot, .flash, .err, .out]

/-- What a control-register access can reach: it may reset the engine, run a job command or start a load. -/
def engineReach : List Comp :=
  [.regs, .wrote, .mem, .cells, .regions, .dies, .mcs, .pend13, .resp, .net, .panels, .jobs, .leftRun, .load,
   .ctxs, .tags, .fabQ, .fabWait, .fports, .rings, .hports, .outReads, .band, .time, .boot, .flash, .err, .out, .fates]

/-- The kinds of state a command may change (what its meaning can reach at all; most commands change less). -/
def touches : Instr → List Comp
  | .registerWrite _ _ _ _ => engineReach
  | .lowWordWriteHeld _ _ _ => engineReach
  | .highWordWritePair _ _ _ => engineReach
  | .lowWordReadLatch _ _ => [.regs, .pend13, .resp, .err]
  | .cellFailInService _ _ => [.cells, .boot, .flash, .err]
  | .quickRemap _ _ => [.regs, .boot]
  | .mxeDescPush _ => [.regs, .cells]
  | .easelLoadSegment _ => [.cells]
  | .easelReady _ => [.cells]
  | .swapWaveEnter _ => [.regs, .cells]
  | .feederFetch _ => [.regs, .cells, .regions, .err, .free]
  | .freezeWatchdogExpire _ => [.regs, .cells, .err]
  | .finalRowCheck _ _ => [.regs, .cells, .err]
  | .replayVerdict _ _ => [.regs, .cells, .regions, .err, .free]
  | .drainLineWrite _ => [.regs, .mem, .cells, .regions, .err]
  | .passComplete _ => [.regs, .cells]
  | .ballastRow _ _ => [.cells, .regions, .err]
  | .patternLoad _ => [.cells]
  | .mxeFlush _ => [.cells]
  | .mxeCntClrFreeze _ => [.regs, .wrote]
  | .mxeCntClrEasel _ => [.regs, .wrote]
  | .mxeRplCtrlWrite _ _ => [.regs, .cells]
  | .mxeArithClrArith _ => [.regs, .wrote]
  | .mxeArithClrChk _ => [.regs, .wrote]
  | .mxeArithClrRpl _ => [.regs, .wrote]
  | .spmBankOwnWrite _ _ => [.regs, .wrote, .mem, .cells, .regions, .err]
  | .ownershipGovern _ => engineReach
  | .coreInstruction _ _ => [.regs, .mem, .cells, .regions, .pend13, .err]
  | .coreLoad _ _ => [.regs, .mem, .cells, .regions, .err]
  | .coreStore _ _ => [.regs, .mem, .cells, .regions, .err]
  | .coreVectorAccess _ _ => [.regs, .mem, .cells, .regions, .err]
  | .controlWindowStore _ _ => engineReach
  | .farWindowLoad _ _ => [.regs, .mem, .cells, .regions, .net, .err]
  | .farWindowStore _ _ => [.regs, .mem, .cells, .regions, .net, .err]
  | .farLoadResponse _ _ _ => [.regs, .cells, .net, .err]
  | .fence _ _ => [.regs, .mem, .cells, .regions, .err]
  | .mergeEntryWrite _ _ => [.regs, .mem, .cells, .regions, .err]
  | .mergeAgeEvict _ _ => [.regs, .mem, .cells, .regions, .err]
  | .coreStart _ _ => [.regs, .cells]
  | .coreStop _ _ => [.regs, .mem, .cells, .regions, .err]
  | .imemLoad _ _ _ _ => [.regs, .wrote, .mem, .cells, .regions, .pend13, .resp, .panels, .jobs, .leftRun, .load, .ctxs, .tags, .fabQ, .fabWait, .rings, .hports, .err, .out]
  | .imemLoadComplete _ _ => haltReach
  | .eccRawWrite _ _ => [.regs, .mem, .cells, .regions, .pend13, .err]
  | .eccRawRead _ _ => [.regs, .mem, .cells, .regions, .pend13, .err]
  | .primerDone _ _ => [.regs, .mem, .cells, .regions, .err]
  | .scrubLineRead _ _ => [.regs, .cells, .regions, .err]
  | .scrubWriteback _ _ => [.regs, .mem, .cells, .regions, .err]
  | .istoreScrub _ _ => [.regs, .mem, .cells, .err]
  | .bengFill _ _ => [.regs, .cells, .pend13, .err]
  | .bengCopy _ _ => [.regs, .cells, .pend13, .err]
  | .bengPoison _ _ => [.regs, .cells, .pend13, .err]
  | .bengCommandStart _ => [.cells]
  | .bengCommandDone _ _ => [.regs, .mem, .cells, .regions, .err]
  | .packetRoute _ _ _ => [.regs, .cells, .regions, .resp, .net, .err]
  | .linkNakReceive _ _ _ => [.regs, .cells, .err]
  | .loopbackTestDone _ _ _ _ _ _ => [.regs, .cells, .resp, .net, .boot, .flash, .err]
  | .detourLoad _ _ => [.regs, .cells, .regions, .band]
  | .writePacketLand _ _ _ => engineReach
  | .readPacket _ _ => [.regs, .mem, .cells, .regions, .mcs, .pend13, .resp, .net, .outReads, .nextId, .flash, .err, .out, .fates]
  | .readResponseReceive _ => [.regs, .mem, .cells, .regions, .resp, .net, .err]
  | .ackReceive _ => [.cells, .resp, .net]
  | .signalPacket _ _ => [.regs, .cells, .net, .err]
  | .multicastWriteLand _ _ => [.regs, .mem, .cells, .regions, .net, .err]
  | .multicastSignal _ _ => [.regs, .cells, .net, .err]
  | .txPut _ _ => [.regs, .cells, .regions, .pend13, .net, .err]
  | .txGet _ _ => [.regs, .cells, .regions, .pend13, .net, .err]
  | .txMulticastPut _ _ => [.regs, .cells, .regions, .pend13, .net, .err]
  | .txCommandComplete _ _ => [.regs, .cells, .regions, .net, .err]
  | .mcStallWatchdog _ => [.regs, .net, .err]
  | .mcLandAdd _ _ _ => [.regs, .err]
  | .syncArm _ _ _ _ => [.regs, .err]
  | .syncSigWrite _ _ _ => [.regs, .pend13, .net, .err]
  | .syncWait _ _ => [.regs, .mem, .cells, .regions, .pend13, .err]
  | .syncWaitSatisfied _ _ _ => [.regs, .cells, .err]
  | .syncWaitWatchdog _ _ => [.regs, .cells, .err]
  | .loadKind5Write _ _ => loadReach
  | .loadRound _ _ _ => loadReach
  | .loadChunkRepair _ _ _ _ _ => loadReach
  | .jobStart _ => [.regs, .mem, .cells, .jobs, .leftRun, .hports, .err, .out]
  | .jobHalt _ => haltReach
  | .jobEnd _ => [.regs, .wrote, .mem, .cells, .regions, .resp, .panels, .jobs, .leftRun, .ctxs, .tags, .fabQ, .fabWait, .hports, .err, .out]
  | .stepDeclare _ => [.regs, .jobs, .err]
  | .stepNumSet _ => [.jobs, .err]
  | .testKernelCall _ _ _ => [.regs, .mem, .cells, .regions, .err, .fates, .free]
  | .gddrRead _ _ _ _ _ => [.regs, .mem, .mcs, .resp, .err]
  | .gddrWrite _ _ _ _ _ _ => [.regs, .mem, .mcs, .resp, .err]
  | .channelRetrainDone _ _ _ _ => [.regs, .mem, .mcs, .resp, .flash, .err]
  | .gddrScrubSegment _ _ _ _ => [.regs, .mem, .mcs, .err]
  | .gddrTempRead _ _ _ => [.regs, .err]
  | .gddrRefresh _ _ _ => [.mcs]
  | .memEccRawWrite _ _ _ => [.regs, .mem, .mcs, .pend13, .resp, .flash, .err, .fates]
  | .memEccRawRead _ _ _ => [.regs, .mem, .mcs, .pend13, .resp, .flash, .err, .fates]
  | .fabSubmitPut _ _ _ => [.regs, .pend13, .resp, .fabQ, .fabWait, .err]
  | .fabSubmitGet _ _ _ => [.regs, .pend13, .resp, .fabQ, .fabWait, .err]
  | .fabSubmitSignal _ _ _ => [.regs, .pend13, .resp, .fabQ, .fabWait, .err]
  | .fabSubmitReduce _ _ _ => [.regs, .pend13, .resp, .fabQ, .fabWait, .err]
  | .fabCommandStart _ _ => [.regs, .mem, .cells, .regions, .mcs, .resp, .ctxs, .tags, .fabQ, .fabWait, .fports, .flash, .err, .out, .fates]
  | .putFrameReceive _ _ _ _ => [.regs, .mem, .cells, .regions, .mcs, .resp, .ctxs, .tags, .fports, .flash, .err, .out, .fates]
  | .getRequestReceive _ _ _ _ => [.regs, .mem, .cells, .regions, .mcs, .resp, .ctxs, .tags, .fports, .flash, .err, .out, .fates]
  | .signalFrameReceive _ _ _ _ => [.regs, .cells, .regions, .ctxs, .tags, .fports, .err, .out, .fates]
  | .reduceFrameReceive _ _ _ _ => [.regs, .mem, .cells, .regions, .mcs, .resp, .ctxs, .tags, .fports, .flash, .err, .out, .fates]
  | .getResponseReceive _ _ _ _ => [.regs, .mem, .cells, .regions, .mcs, .resp, .ctxs, .tags, .fports, .flash, .err, .out, .fates]
  | .completionReceive _ _ _ _ => [.regs, .cells, .regions, .ctxs, .tags, .fports, .err, .out, .fates]
  | .frameAckReceive _ _ _ _ => [.regs, .ctxs, .fports, .err, .out]
  | .faultNoticeReceive _ _ _ _ => [.regs, .ctxs, .tags, .fports, .err, .out]
  | .nativeLinkNak _ _ _ => [.regs, .fports, .err, .out]
  | .e2eAckSend _ => [.ctxs, .fports, .out]
  | .e2eResendTimeout _ => [.regs, .ctxs, .fports, .out]
  | .commandTimeout _ _ => [.ctxs, .tags, .err]
  | .fecUncorrectableBurst _ _ _ _ _ => [.regs]
  | .partnerSignalLoss _ _ => [.regs]
  | .fabPcmdRetrain _ _ => [.regs, .fports, .err]
  | .portRetrainDone _ _ _ _ _ => [.regs, .ctxs, .tags, .fports, .flash, .err, .out]
  | .fabPortEnWrite _ _ _ => [.regs, .ctxs, .tags, .fports, .err]
  | .contextOpen _ => [.regs, .ctxs, .err]
  | .contextClose _ => [.regs, .ctxs, .tags, .err]
  | .pcieLinkUp _ _ _ => [.regs, .hports, .err]
  | .pcieLinkDown _ => [.regs, .mem, .rings, .hports, .err, .out]
  | .hostBarRead _ _ _ _ _ _ => [.regs, .mem, .cells, .regions, .mcs, .pend13, .resp, .hports, .flash, .err, .out, .fates]
  | .hostBarWrite _ _ _ _ _ _ _ => engineReach
  | .ringDoorbell _ _ _ => [.regs, .mem, .rings, .hports, .err, .out]
  | .ringEntryFetch _ _ _ _ => [.regs, .mem, .rings, .hports, .err, .out]
  | .ringNop _ _ => [.rings]
  | .ringDmaHostToEngine _ _ _ => [.regs, .mem, .cells, .regions, .mcs, .resp, .rings, .hports, .flash, .err, .fates]
  | .ringDmaEngineToHost _ _ _ => [.regs, .mem, .cells, .regions, .mcs, .resp, .rings, .hports, .flash, .err, .out, .fates]
  | .ringRegisterWrite _ _ _ => engineReach
  | .ringSignal _ _ => [.regs, .cells, .regions, .rings, .err, .fates]
  | .ringLoad _ _ _ => loadReach
  | .ringJobCommand _ _ _ => [.regs, .wrote, .mem, .cells, .regions, .resp, .panels, .jobs, .leftRun, .load, .ctxs, .tags, .fabQ, .fabWait, .rings, .hports, .err, .out, .fates]
  | .ringEntryComplete _ _ => [.regs, .mem, .rings, .hports, .err, .out]
  | .ringEnable _ _ => [.rings]
  | .ringDisable _ _ => [.regs, .mem, .rings, .hports, .err, .out]
  | .msixRaise _ _ _ => [.pend13, .hports, .err, .out]
  | .evqEnable _ => [.regs, .hports]
  | .evqCiWrite _ _ => [.regs, .mem, .hports, .err, .out]
  | .outboundRead _ _ _ => [.resp, .outReads, .nextId, .err, .out]
  | .outboundWrite _ _ _ _ => [.mem, .resp, .err, .out]
  | .outboundCompletion _ _ _ _ _ => [.resp, .net, .hports, .outReads, .err, .out]
  | .outboundCplTimeout _ => [.resp, .net, .outReads, .err, .out]
  | .functionLevelReset _ => [.regs, .mem, .rings, .hports, .err, .out]
  | .perstAssert _ => [.regs, .mem, .rings, .hports, .err, .out]
  | .perstRelease _ => [.hports]
  | .inputOutOfRange _ _ _ => [.regs, .band, .err]
  | .bladeLoss _ => [.regs, .cells, .regions, .panels, .jobs, .load, .band, .boot, .err]
  | .busConverterFail _ => [.dies]
  | .phaseFail _ _ _ => [.regs, .dies, .boot, .err, .free]
  | .substrateRegulatorFail _ _ => coldReach
  | .ldoSliceFail _ _ _ _ _ => [.regs, .cells, .regions, .band, .boot, .flash, .err]
  | .regionComputeOn _ _ _ => [.regs, .cells, .regions, .band, .err]
  | .regionComputeOff _ _ _ => [.regs, .cells, .regions, .band, .err]
  | .regionFullOff _ _ _ => [.regs, .cells, .regions, .band, .err]
  | .regionRouterOn _ _ _ => [.regs, .cells, .regions, .band, .err]
  | .stageAdmission _ => [.regs, .cells, .regions, .dies, .band, .boot]
  | .quarterStrength _ _ _ => [.regs, .regions]
  | .turnOnAbandon _ _ _ => [.regs, .wrote, .mem, .cells, .regions, .resp, .panels, .jobs, .leftRun, .load, .ctxs, .tags, .fabQ, .fabWait, .rings, .hports, .boot, .err, .out]
  | .powerGood _ _ _ => [.regs, .cells, .regions, .band, .boot, .flash, .err]
  | .powerGoodMissed _ _ _ => [.regs, .cells, .regions, .band, .boot, .flash, .err]
  | .activityEstimate _ _ _ => [.regs, .regions, .dies, .err]
  | .engineEstimate _ _ => [.regs, .dies, .band, .err]
  | .trimUpdate => [.regs, .band, .err, .free]
  | .bandIntervalJudge => [.regs, .band, .err, .out, .free]
  | .averageModeEval => [.dies, .band, .free]
  | .timeFrame _ => [.regs, .band, .time, .err]
  | .windowAllFrame _ => [.regs, .band, .err]
  | .windowFrame _ => [.regs, .band, .err]
  | .budgetFrame _ => [.regs, .band, .err, .out, .free]
  | .cancelFrame _ => [.regs, .band, .err]
  | .rampRequest _ => [.out]
  | .regionTempEval _ _ _ _ => [.regs, .cells, .regions, .band, .err]
  | .heatSwitchOn _ _ _ => [.regs, .regions]
  | .tempSensorFail _ _ _ => [.regs, .band, .err]
  | .thermalStop _ _ _ => [.band, .err]
  | .coolantDeassert _ => [.band]
  | .ptpSyncMessage _ _ _ => [.regs, .band, .time, .err, .out]
  | .timeSet _ => [.time, .err]
  | .timeSrcWrite _ => [.regs, .band, .time, .err]
  | .pllLockLoss _ _ => [.regs, .w1cSet, .err]
  | .dieThrottleApply _ => [.dies]
  | .dieThrottleDecay _ => [.regs, .dies]
  | .droopFire _ _ _ _ => [.regs, .regions]
  | .droopStretchEnd _ _ _ _ _ => [.regions]
  | .marginEval _ _ _ _ _ => [.regs, .regions, .err]
  | .criticalMargin _ _ _ _ => [.regs, .regions, .err]
  | .targetedTestStart _ => [.cells]
  | .targetedTestVerdict _ _ => [.regs, .cells, .mcs, .boot, .flash, .err, .free]
  | .firmwareSelfTest _ _ => [.regs, .cells, .regions, .boot, .flash, .err, .fates]
  | .bboxSelect _ => [.regs]
  | .firmwareVerify _ _ _ => [.regs, .hports, .boot, .flash, .err]
  | .configRead _ => [.regs, .band, .boot, .flash, .err, .free]
  | .diePowerUp _ _ _ _ => [.regs, .regions, .dies, .hports, .boot, .flash, .err]
  | .pllCalibration _ _ _ _ => [.regs, .cells, .hports, .boot, .flash, .err]
  | .neighbourTest _ _ _ _ => [.regs, .mem, .cells, .regions, .boot, .flash, .err]
  | .linkTraining _ _ _ => [.regs, .ctxs, .tags, .fports, .boot, .flash, .err, .out]
  | .bootResetWarm _ => coldReach
  | .bootResetCold _ => [.regs, .cells, .regions, .dies, .mcs, .pend13, .resp, .net, .panels, .jobs, .load, .ctxs, .tags, .fabQ, .fabWait, .fports, .rings, .hports, .outReads, .band, .time, .boot, .flash, .err, .out]
  | .dieControllerWatchdog _ => [.dies, .err]
  | .flashWriteComplete _ _ => [.flash, .err]
  | .licInstallLicence _ _ => [.regs, .mem, .regions, .mcs, .resp, .flash, .err, .fates]
  | .licInstallFirmware _ _ _ => [.regs, .mem, .regions, .mcs, .resp, .flash, .err, .fates]
  | .svcRemoveRepairEntries _ _ _ _ => [.regs, .mem, .regions, .mcs, .resp, .flash, .err, .fates]
  | .svcClearBlackBox _ _ => [.regs, .mem, .regions, .mcs, .resp, .flash, .err, .fates]
  | .svcInstallRackKeys _ _ _ => [.regs, .mem, .regions, .mcs, .resp, .band, .flash, .err, .fates]
  | .svcRemoveLicence _ _ _ => [.regs, .mem, .regions, .mcs, .resp, .flash, .err, .fates]
  | .svcReplaceConfig _ _ _ => [.regs, .mem, .regions, .mcs, .resp, .flash, .err, .fates]
  | .svcSelectFirmwareSlot _ _ _ => [.regs, .mem, .regions, .mcs, .resp, .flash, .err, .fates]
  | .svcRaiseMinSvn _ _ => [.regs, .mem, .regions, .mcs, .resp, .flash, .err, .fates]
  | .tapInstruction _ _ => [.tap]
  | .streamedRowPresent _ _ => [.regs, .cells, .regions]
  | .highWordReadPair _ _ => [.regs, .pend13, .resp, .err]
  | .pcieLinkRecovery _ _ _ => [.regs, .hports, .err]
  | .pcieConfigRequest _ _ _ => [.hports, .out]
  | .malformedFrameReceive _ _ _ => [.regs, .fports, .err, .out]
  | .rackFrameIgnored _ => [.regs, .band, .err]
  | .quickRemapComplete => [.regs, .mem, .cells, .hports, .boot, .out]
  | .panelHalt => haltReach
  | .loadStart _ => loadReach
  | .loadPrepare => [.regs, .wrote, .mem, .cells, .regions, .resp, .panels, .jobs, .leftRun, .load, .ctxs, .tags, .fabQ, .fabWait, .rings, .hports, .band, .err, .out]
  | .loadRoundTimeout => haltReach
  | .loadInitialise => engineReach
  | .loadAbort => haltReach
  | .inputLoss => [.regs, .cells, .regions, .panels, .jobs, .load, .band, .boot, .err]
  | .inputColdStartCondition => [.regs, .cells, .regions, .dies, .mcs, .pend13, .resp, .net, .panels, .jobs, .load, .ctxs, .tags, .fabQ, .fabWait, .fports, .rings, .hports, .outReads, .band, .time, .boot, .flash, .err]
  | .bladeRestore => [.regs, .band, .err]
  | .spareConverterFail => [.regs, .err]
  | .bandControlStep => [.regs, .dies, .band]
  | .bandModeChange => [.regs, .dies, .band]
  | .rampTick => [.band]
  | .statusFrameSend => [.band]
  | .orphanEnter => [.band, .err, .out, .free]
  | .canBusOff => [.regs, .err]
  | .coolantStop => [.band, .err]
  | .coolantAssert => [.band]
  | .bandRestart => coldReach
  | .ppsEdge _ => [.regs, .band, .time, .err]
  | .refLoss => [.time, .err]
  | .holdoverEnter => [.time, .err]
  | .unsyncEnter => [.band, .time, .err]
  | .throttleApply => [.regs, .dies]
  | .errorRecordArrive => [.regs, .mem, .fports, .hports, .boot, .flash, .err, .out]
  | .bboxCommit _ _ => [.regs, .boot, .flash, .err]
  | .udpDatagramSend => [.err, .out]
  | .mgmtLinkUp => [.err, .out]
  | .coverageCheck => [.boot, .err]
  | .startupCoolantTimeout => [.regs, .mem, .fports, .hports, .boot, .flash, .err, .out]
  | .primeAll => [.regs, .mem, .cells, .regions, .boot]
  | .fuseMergePublish _ => [.regs, .cells, .regions, .hports, .band, .boot, .flash, .err, .free]
  | .gddrPriming => [.regs, .mem, .mcs, .boot, .err]
  | .bootLockReady => [.regs, .mem, .hports, .band, .boot, .err, .out]
  | .phaseOverrun => [.regs, .err]
  | .warmRestart => coldReach
  | .heartbeatSend => [.boot, .out]
  | .heartbeatLossFailover => [.regs, .cells, .regions, .dies, .mcs, .pend13, .resp, .net, .panels, .jobs, .load, .ctxs, .tags, .fabQ, .fabWait, .fports, .rings, .hports, .outReads, .band, .time, .boot, .flash, .err]
  | .licAttest => [.regs, .mem, .regions, .mcs, .resp, .flash, .err, .out, .fates]
  | .licReadCertificate => [.regs, .mem, .regions, .mcs, .resp, .flash, .err, .out, .fates]
  | .w4RateApply => [.regs]
  | .moduleReset => [.regs, .mem, .cells, .regions, .panels, .jobs, .load, .fports, .hports, .band, .boot, .flash, .err, .out]
  | .moduleResetRelease => [.regs, .cells, .regions, .dies, .mcs, .pend13, .resp, .net, .panels, .jobs, .load, .ctxs, .tags, .fabQ, .fabWait, .fports, .rings, .hports, .outReads, .band, .time, .boot, .flash, .err]
  | .mgmtLinkDown => [.err]

/-- What the passing of a slot can reach. -/
def tickReach : List Comp :=
  [.regs, .wrote, .w1cSet, .mem, .cells, .regions, .dies, .resp, .net, .panels, .jobs, .leftRun, .load,
   .ctxs, .tags, .fabQ, .fabWait, .fports, .hports, .band, .boot, .flash, .err, .out, .free]

end Sys2Proof.Machine
end

