-- ==== Sys2Proof/Certificates/Slice0/Obligations.lean ====
section
/-! DEFINITION. The statements about the block, for the provers: each formalises rules of spec/ or says what the model's own
choices come to. -/

open Sys2Proof Sys2Proof.Machine

/-! ### Clock: throttle, droop stretch, margin (R401-R417) -/

/-- R407, R408. THROTTLE_APPLY: a die whose stamped frame has come applies the engine level. DIE_THROTTLE_APPLY: at slot 0 of a
frame the die applies max(ENG, DIE, SW). DIE_THROTTLE_DECAY: 1 ms after the current fell below ILIM, and 100 µs after the last
level, the die controller's own request falls by one. Other registers and other dies stay as they are. -/
def Obligations.ThrottleLevelsTakeEffect : Prop :=
  (∀ (s : State) (d l f : Nat), d < s.part.dies → (s.die d).leNext = some (l, f) → f ≤ s.slot / 16 → l ≤ 8 →
    ∃ t, exec .throttleApply s = .next t ∧ t.fld (dieKey d CLK_THR) 0 4 = l ∧ (t.die d).leNext = none ∧
      (t.die d).applied = max (max l (s.fld (dieKey d CLK_THR) 4 4)) (s.fld (dieKey d CLK_THR) 8 4) ∧
      ∀ k, (∀ e, k ≠ dieKey e CLK_THR) → t.reg k = s.reg k) ∧
  (∀ (s : State) (d l f : Nat), (s.die d).leNext = some (l, f) → s.slot / 16 < f →
    ∃ t, exec .throttleApply s = .next t ∧ t.die d = s.die d ∧ t.reg (dieKey d CLK_THR) = s.reg (dieKey d CLK_THR)) ∧
  (∀ (s : State) (d : Nat), s.slot % 16 = 0 →
    ∃ t, exec (.dieThrottleApply d) s = .next t ∧
      (t.die d).applied = max (max (s.fld (dieKey d CLK_THR) 0 4) (s.fld (dieKey d CLK_THR) 4 4)) (s.fld (dieKey d CLK_THR) 8 4) ∧
      (∀ e, e ≠ d → t.die e = s.die e) ∧ t.regs = s.regs) ∧
  (∀ (s : State) (d : Nat), 0 < s.fld (dieKey d CLK_THR) 4 4 → (s.die d).overLast + 1000000 ≤ s.now →
    (s.die d).lastDecay + 100000 ≤ s.now →
    ∃ t, exec (.dieThrottleDecay d) s = .next t ∧ t.fld (dieKey d CLK_THR) 4 4 + 1 = s.fld (dieKey d CLK_THR) 4 4 ∧
      t.fld (dieKey d CLK_THR) 0 4 = s.fld (dieKey d CLK_THR) 0 4 ∧ t.fld (dieKey d CLK_THR) 8 4 = s.fld (dieKey d CLK_THR) 8 4 ∧
      (t.die d).lastDecay = s.now ∧ s.regsBut t [dieKey d CLK_THR] ∧ ∀ e, e ≠ d → t.die e = s.die e)

/-- R404, R405, R406, R409. A rail that falls DROOP_MV below its set point starts a stretch, which DROOP counts, or, during one, restarts
the HOLD count only; a smaller fall does nothing. DROOP_STRETCH_END ends it at an even slot after HOLD slots within DROOP_MV, all of them
after the last firing. While it is in force, from two slots after the firing, the region receives no pulse in an
odd slot. No record is made. A count of 8 to 16 keeps that many of a frame's 16 slots, a smaller count removes a superset, count 8
removes every odd slot, and at slot 0 of a frame every region listed takes the smallest of its terms before anything else happens in
the slot. The count of firings leaves out a slot in which software clears it (R16). -/
def Obligations.PulseRemovalFollowsSlots : Prop :=
  ((∀ (s : State) (d rx ry mv : Nat), mv < s.droopCfg (regionAt d rx ry) 0 6 → exec (.droopFire d rx ry mv) s = .next s) ∧
  (∀ (s : State) (d rx ry mv : Nat), (s.region (regionAt d rx ry)).stretch = none →
    s.droopCfg (regionAt d rx ry) 0 6 ≤ mv → s.written (regionKey CLK_DROOP (regionAt d rx ry)) = false →
    ∃ t, exec (.droopFire d rx ry mv) s = .next t ∧ (t.region (regionAt d rx ry)).stretch = some (s.slot, s.slot) ∧
      t.fld (regionKey CLK_DROOP (regionAt d rx ry)) 0 16 =
        min (s.fld (regionKey CLK_DROOP (regionAt d rx ry)) 0 16 + 1) 0xFFFF ∧
      s.regsBut t [regionKey CLK_DROOP (regionAt d rx ry)] ∧ s.regionsBut t (regionAt d rx ry) ∧ t.err = s.err) ∧
  (∀ (s : State) (d rx ry mv a b : Nat), (s.region (regionAt d rx ry)).stretch = some (a, b) → s.droopCfg (regionAt d rx ry) 0 6 ≤ mv →
    ∃ t, exec (.droopFire d rx ry mv) s = .next t ∧ (t.region (regionAt d rx ry)).stretch = some (a, s.slot) ∧ t.regs = s.regs ∧
      t.err = s.err) ∧
  (∀ (s : State) (d rx ry mv good a b : Nat), (s.region (regionAt d rx ry)).stretch = some (a, b) →
    mv < s.droopCfg (regionAt d rx ry) 0 6 → s.droopCfg (regionAt d rx ry) 8 8 ≤ good →
    b + s.droopCfg (regionAt d rx ry) 8 8 < s.slot → s.slot % 2 = 0 →
    ∃ t, exec (.droopStretchEnd d rx ry mv good) s = .next t ∧ (t.region (regionAt d rx ry)).stretch = none ∧
      s.regionsBut t (regionAt d rx ry) ∧ t.regs = s.regs) ∧
  (∀ (s : State) (r a b : Nat), (s.region r).stretch = some (a, b) → a + 2 ≤ s.slot → s.slot % 2 = 1 → s.pulse r = false)) ∧
  ((∀ n, 8 ≤ n → n ≤ 16 → ((List.range 16).filter (keepsSlot n)).length = n) ∧
  (∀ m n k, m ≤ n → n ≤ 16 → keepsSlot m k = true → keepsSlot n k = true) ∧
  (∀ k, k < 16 → (keepsSlot 8 k = true ↔ k % 2 = 0)) ∧
  (∀ (s : State) (r : Nat) (x : Region), (r, x) ∈ s.regions → s.pending = [] → s.slot % 16 = 0 →
    ∃ t : State, step s = .next t.tickEnd.passSlot.stopSettle ∧ t.slot = s.slot ∧
      (t.region r).n = min (min (16 - (s.die (regionDie r)).applied) (if (s.region r).sliceCap then 10 else 16))
        (min (s.fld (regionKey TEMP_R r) 16 5)
          (if (s.region r).marginCap then 8 else if (s.region r).vmaxCap then 12 else 16))))


/-- R410, R411, R412, R416, R417. MARGIN_EVAL: with the loop enabled, a margin below LO raises the set point of each rail by one step, to 40
at most; at the hundredth such evaluation with the rail at 40 the voltage-ceiling cap applies and class
0x7D reason 2 is logged. The tenth margin at or above LO in a row removes the margin cap. With EN = 0 no cap is removed. An upset of
the control state logs 0x7E reason 2. CRITICAL_MARGIN: in a pulse of the region, a replica at or below the CRIT of the last evaluation
caps the region at 8 and logs class 0x7D reason 1 once per episode.
PLL_LOCK_LOSS: the field's lock bit falls, so that its mesh passes no pulse, and class 0x7E reason 1 of severity engine is logged. -/
def Obligations.MarginLoopHoldsTiming : Prop :=
  ((∀ (s : State) (d rx ry m : Nat), let r := regionAt d rx ry
    d < 8 → rx < 8 → ry < 8 → m < 32 → s.coreGate r = true → s.fld (dieKey d CLK_MCFG) 16 1 = 1 → m < s.fld (dieKey d CLK_MCFG) 5 5 →
    (s.region r).critPend = false → ¬ (s.vset r = 40 ∧ 99 ≤ (s.region r).ceilCnt) →
    ∃ t, exec (.marginEval d rx ry m false) s = .next t ∧ t.vset r = min 40 (s.vset r + 1) ∧
      t.fld (ldoKey r 1) 0 6 = min 40 (s.fld (ldoKey r 1) 0 6 + 1) ∧ t.fld (regionKey CLK_R r) 0 5 = m ∧
      t.fld (regionKey CLK_R r) 5 5 = min m (s.fld (regionKey CLK_R r) 5 5) ∧ (t.region r).marginCap = (s.region r).marginCap ∧
      (t.region r).vmaxCap = (s.region r).vmaxCap ∧ (t.region r).crit = s.fld (dieKey d CLK_MCFG) 0 5 ∧ t.err = s.err ∧
      s.regsBut t [ldoKey r 0, ldoKey r 1, regionKey CLK_R r] ∧ s.regionsBut t r) ∧
  (∀ (s : State) (d rx ry m : Nat), let r := regionAt d rx ry
    d < 8 → rx < 8 → ry < 8 → m < 32 → s.coreGate r = true → s.fld (dieKey d CLK_MCFG) 16 1 = 1 → m < s.fld (dieKey d CLK_MCFG) 5 5 →
    s.vset r = 40 → 99 ≤ (s.region r).ceilCnt → (s.region r).vmaxCap = false →
    ∃ t e, exec (.marginEval d rx ry m false) s = .next t ∧ t.vset r = 40 ∧ (t.region r).vmaxCap = true ∧
      t.err.recQ = s.err.recQ ++ [e] ∧ e.cls = 0x7D ∧ e.loc = State.regionLoc r ∧ e.detail.toNat % 256 = 2) ∧
  (∀ (s : State) (d rx ry m : Nat), let r := regionAt d rx ry
    d < 8 → rx < 8 → ry < 8 → m < 32 → s.coreGate r = true → s.fld (dieKey d CLK_MCFG) 16 1 = 1 → s.fld (dieKey d CLK_MCFG) 5 5 ≤ m →
    (s.region r).critPend = false → m ≤ s.fld (dieKey d CLK_MCFG) 10 5 → s.vset r ≤ 40 →
    ∃ t, exec (.marginEval d rx ry m false) s = .next t ∧ t.vset r = s.vset r ∧
      ((t.region r).marginCap = true ↔ (s.region r).marginCap = true ∧ (s.region r).loCnt + 1 < 10) ∧ t.err = s.err) ∧
  (∀ (s : State) (d rx ry m : Nat), let r := regionAt d rx ry
    d < 8 → rx < 8 → ry < 8 → m < 32 → s.coreGate r = true → s.fld (dieKey d CLK_MCFG) 16 1 = 0 → (s.region r).critPend = false →
    s.vset r ≤ 40 →
    ∃ t, exec (.marginEval d rx ry m false) s = .next t ∧ t.vset r = s.vset r ∧ (t.region r).marginCap = (s.region r).marginCap) ∧
  (∀ (s : State) (d rx ry m : Nat), ∃ t, exec (.marginEval d rx ry m true) s = .next t ∧ t.regions = s.regions ∧ t.regs = s.regs ∧
    s.logs t 0x7E (.dieUnit d 0) (2 + d * 2 ^ 8))) ∧
  ((∀ (s : State) (d rx ry code : Nat), let r := regionAt d rx ry
    d < 8 → rx < 8 → ry < 8 → s.routerGate r = true → s.pulse r = true → code ≤ (s.region r).crit →
    ∃ t, exec (.criticalMargin d rx ry code) s = .next t ∧ (t.region r).marginCap = true ∧ (t.region r).mcap = 8 ∧
      (t.region r).critPend = true ∧ s.regionsBut t r ∧ s.regsBut t [regionKey CLK_R r] ∧
      if (s.region r).marginCap then t.err = s.err
      else ∃ e, t.err.recQ = s.err.recQ ++ [e] ∧ e.cls = 0x7D ∧ e.loc = State.regionLoc r ∧ e.detail.toNat % 256 = 1) ∧
  (∀ (s : State) (d f : Nat), d < 8 → f < 4 → s.locked d f = true →
    ∃ t, exec (.pllLockLoss d f) s = .next t ∧ t.locked d f = false ∧
      (∀ r, regionDie r = d → regionField (regionRx r) (regionRy r) = f → t.pulse r = false) ∧
      (∀ g, g < 4 → g ≠ f → t.locked d g = s.locked d g) ∧ s.regsBut t [dieKey d CLK_STAT] ∧
      s.logs t 0x7E (.dieUnit d f) (1 + d * 2 ^ 8 + f * 2 ^ 11)))

/-! ### Facility time (R379-R382) -/

/-- R380, R381, R382. PPS_EDGE with the pins as reference: the announced second applies, an offset above 1 ms steps the time to it,
counts the step and logs class 0x79 reason 3, and the fourth good edge in a row with the second known locks. PTP_SYNC_MESSAGE: a
message of the set domain and transport is answered with a Delay_Req, its offset is shown, and the sixteenth within ±1 µs locks; one of
another domain does nothing. TIME_SET: a whole second is held for the next edge
where the pins are the reference, any other value is ignored and logged with reason 4. TIME_SRC_WRITE: the source is taken and the state is Acquiring; without a
source a known time is unsynchronised at once and every held window is discarded. REF_LOSS and HOLDOVER_ENTER take a locked time to holdover (state 3) with class 0x79 reason 1, once TB_REF has stopped or
the reference has been silent for 1.5 s (pins) or 3 s (PTP). UNSYNC_ENTER: HOLD_S seconds later the state is 4, every held window is
discarded, and reason 2 is logged. -/
def Obligations.TimebaseIsDisciplined : Prop :=
  ((∀ (s : State) (v : Nat) (ref : Bool), s.fld (ecKey TIME_CFG) 0 2 = 0 → s.time.next = some v →
    (1000000 : Int) < s.time.base + s.now - v ∨ s.time.base + s.now - v < -1000000 →
    ∃ t, exec (.ppsEdge ref) s = .next t ∧ t.time.base + (t.now : Int) = v ∧ t.time.next = none ∧ t.time.known = true ∧
      t.fld (ecKey TIME_STAT) 16 16 = min (s.fld (ecKey TIME_STAT) 16 16 + 1) 0xFFFF ∧ s.logs t 0x79 (.engine 0) 3 ∧
      s.regsBut t [ecKey TIME_STAT, ecKey TIME_OFFSET]) ∧
  (∀ (s : State) (v : Nat) (ref : Bool), s.fld (ecKey TIME_CFG) 0 2 = 0 → s.time.next = some v → s.time.lastPps ≠ 0 →
    s.time.base + s.now - v ≤ (1000000 : Int) → (-1000000 : Int) ≤ s.time.base + s.now - v →
    s.time.lastPps + 999999899 ≤ s.now → s.now ≤ s.time.lastPps + 1000000099 → 3 ≤ s.time.goodPps →
    ∃ t, exec (.ppsEdge ref) s = .next t ∧ t.time.state = 2 ∧ t.time.next = none ∧ t.err = s.err ∧
      10000 * (t.time.base - s.time.base) ≤ (s.now + 1 - s.time.lastPps : Nat) ∧
      10000 * (s.time.base - t.time.base) ≤ (s.now + 1 - s.time.lastPps : Nat) ∧ s.regsBut t [ecKey TIME_OFFSET]) ∧
  (∀ (s : State) (off : Int) (l2 : Bool), s.fld (ecKey TIME_CFG) 0 2 = 1 → s.fld (ecKey TIME_CFG) 2 1 = l2.toNat → -1000 ≤ off →
    off ≤ 1000 → 15 ≤ s.time.goodSync →
    ∃ t, exec (.ptpSyncMessage off (s.fld (ecKey TIME_CFG) 8 8) l2) s = .next t ∧ t.time.state = 2 ∧ t.time.known = true ∧
      toSigned 32 (t.fld (ecKey TIME_OFFSET) 0 32) = off ∧ t.out = .delayReq l2 (s.fld (ecKey TIME_CFG) 8 8) :: s.out ∧
      t.err = s.err ∧ s.regsBut t [ecKey TIME_OFFSET]) ∧
  (∀ (s : State) (off : Int) (domain : Nat) (l2 : Bool), s.fld (ecKey TIME_CFG) 8 8 ≠ domain →
    exec (.ptpSyncMessage off domain l2) s = .next s) ∧
  (∀ (s : State) (v : DWord), ∃ t, exec (.timeSet v) s = .next t ∧ t.regs = s.regs ∧
    if v.toNat % 1000000000 ≠ 0 then t.time = s.time ∧ s.logs t 0x79 (.engine 0) 4
    else t.err = s.err ∧ t.time.next = if s.fld (ecKey TIME_CFG) 0 2 = 0 then some v.toNat else s.time.next) ∧
  (∀ (s : State) (src : Nat), src < 2 →
    ∃ t, exec (.timeSrcWrite src) s = .next t ∧ t.fld (ecKey TIME_CFG) 0 2 = src ∧ t.time.state = 1 ∧
      s.regsBut t [ecKey TIME_CFG] ∧ t.fld (ecKey TIME_CFG) 16 8 = s.fld (ecKey TIME_CFG) 16 8) ∧
  (∀ s : State, s.time.known = true → s.time.state ≠ 4 →
    ∃ t, exec (.timeSrcWrite 2) s = .next t ∧ t.time.state = 4 ∧ t.band.windows = [] ∧ s.logs t 0x79 (.engine 0) 2 ∧
      s.regsBut t [ecKey TIME_CFG])) ∧
  ((∀ s : State, s.fld (ecKey TIME_CFG) 0 2 = 0 → s.time.state = 2 →
    ∃ t, exec .refLoss s = .next t ∧ t.time.state = 3 ∧ t.time.refOk = false ∧ t.time.base = s.time.base ∧ s.logs t 0x79 (.engine 0) 1 ∧ t.regs = s.regs) ∧
  (∀ s : State, s.time.state = 2 →
    (s.fld (ecKey TIME_CFG) 0 2 = 0 ∧ s.time.lastPps + 1500000000 ≤ s.now) ∨
      (s.fld (ecKey TIME_CFG) 0 2 = 1 ∧ s.time.lastSync + 3000000000 ≤ s.now) →
    ∃ t, exec .holdoverEnter s = .next t ∧ t.time.state = 3 ∧ t.time.holdSince = s.now ∧ t.time.base = s.time.base ∧
      s.logs t 0x79 (.engine 0) 1 ∧ t.regs = s.regs) ∧
  (∀ s : State, s.time.state = 3 → s.time.holdSince + s.fld (ecKey TIME_CFG) 16 8 * 1000000000 ≤ s.now →
    ∃ t, exec .unsyncEnter s = .next t ∧ t.time.state = 4 ∧ t.band.windows = [] ∧ t.band.s = s.band.s ∧
      s.logs t 0x79 (.engine 0) 2 ∧ t.regs = s.regs))

/-! ### Register access (R13, R14) -/

/-- R14. REGISTER_WRITE by access type: RW stores the value (a 32-bit and a 64-bit register), RO ignores it with no error, W1C
clears the bits written as 1 that hardware has not set in the same slot (R16), RWL stores it until boot lock and then ignores it with class 0x87 reason 1. No other register
changes. -/
def Obligations.RegisterWriteByAccessType : Prop :=
  (∀ (s : State) (req : Req) (ga : GAddr) (c i : Nat) (v : DWord), i < 8 →
    State.ctlKey (s.target ga.toNat) = some (cellKey c (MXE_DESC + 4 * i)) →
    ∃ t, exec (.registerWrite req ga false v) s = .next t ∧ (t.reg (cellKey c (MXE_DESC + 4 * i))).toNat = v.toNat % 2 ^ 32 ∧
      s.regsBut t [cellKey c (MXE_DESC + 4 * i)] ∧ (req, .done) ∈ t.resp ∧ t.err = s.err) ∧
  (∀ (s : State) (req : Req) (ga : GAddr) (c : Nat) (v : DWord), State.ctlKey (s.target ga.toNat) = some (cellKey c MXE_SR_SEED) →
    ∃ t, exec (.registerWrite req ga true v) s = .next t ∧ t.reg (cellKey c MXE_SR_SEED) = v ∧
      s.regsBut t [cellKey c MXE_SR_SEED] ∧ (req, .done) ∈ t.resp ∧ t.err = s.err) ∧
  (∀ (s : State) (req : Req) (ga : GAddr) (c : Nat) (v : DWord), State.ctlKey (s.target ga.toNat) = some (cellKey c MXE_PASS_DONE) →
    (s.reg (cellKey c MXE_PASS_DONE)).toNat < 2 ^ 32 →
    ∃ t, exec (.registerWrite req ga false v) s = .next t ∧ (∀ k, t.reg k = s.reg k) ∧ (req, .done) ∈ t.resp ∧ t.err = s.err) ∧
  (∀ (s : State) (req : Req) (ga : GAddr) (c n : Nat) (v : DWord), State.ctlKey (s.target ga.toNat) = some (cellKey c SYNC_SAT_LO) →
    n < 32 →
    ∃ t, exec (.registerWrite req ga false v) s = .next t ∧
      (t.fld (cellKey c SYNC_SAT_LO) n 1 = 1 ↔
        (s.fld (cellKey c SYNC_SAT_LO) n 1 = 1 ∧ bits v.toNat n 1 = 0) ∨ s.w1cSet.contains (cellKey c SYNC_SAT_LO, n) = true) ∧
      s.regsBut t [cellKey c SYNC_SAT_LO] ∧ (req, .done) ∈ t.resp) ∧
  (∀ (s : State) (req : Req) (ga : GAddr) (v : DWord), State.ctlKey (s.target ga.toNat) = some (ecKey RAMP_ORPHAN) →
    (s.reg (ecKey RAMP_ORPHAN)).toNat < 2 ^ 24 →
    ∃ t, exec (.registerWrite req ga false v) s = .next t ∧ s.regsBut t [ecKey RAMP_ORPHAN] ∧ (req, .done) ∈ t.resp ∧
      if s.fld (ecKey BOOT_STAT) 5 1 = 1 then
        t.reg (ecKey RAMP_ORPHAN) = s.reg (ecKey RAMP_ORPHAN) ∧ s.logs t 0x87 (.engine 0) (1 + ga.toNat * 2 ^ 16)
      else (t.reg (ecKey RAMP_ORPHAN)).toNat = v.toNat % 2 ^ 24 ∧ t.err = s.err)

/-- R13. A 32-bit read of the low word of a 64-bit register latches the high word for its requester, and the requester's read of the
high word returns the latch and consumes it, or the live value with no latch pending. A 32-bit write of the low word is held and
changes no register. Other requesters' and other blocks' pending items stay. The write of the high word stores both words together as one 64-bit write and consumes the held low word; with no low word
held for the requester it is refused and the register keeps its value. MXE_SR_SEED is the register. -/
def Obligations.SplitAccessesAndHeldWrites : Prop :=
  ((∀ (s : State) (req : Req) (ga : GAddr) (k : Nat) (row : RegRow), State.ctlKey (s.target ga.toNat) = some k →
    rowAt s.part k = some (row, false) → row.wide = true →
    ∃ t, exec (.lowWordReadLatch req ga) s = .next t ∧
      (req, .value (((s.regShows k).setWidth 32).setWidth 64) false) ∈ t.resp ∧
      t.pendOf req (keyBlock k) = some (.latch k ((s.regShows k >>> 32).setWidth 32)) ∧ t.regs = s.regs ∧
      ∀ q b, q ≠ req ∨ b ≠ keyBlock k → t.pendOf q b = s.pendOf q b) ∧
  (∀ (s : State) (req : Req) (ga : GAddr) (k : Nat) (w : Word) (row : RegRow), State.ctlKey (s.target ga.toNat) = some (k + 4) →
    rowAt s.part (k + 4) = some (row, true) → row.wide = true → s.pendOf req (keyBlock (k + 4)) = some (.latch k w) →
    ∃ t, exec (.highWordReadPair req ga) s = .next t ∧ (req, .value (w.setWidth 64) false) ∈ t.resp ∧
      t.pendOf req (keyBlock (k + 4)) = none ∧ t.regs = s.regs ∧
      ∀ q b, q ≠ req ∨ b ≠ keyBlock (k + 4) → t.pendOf q b = s.pendOf q b) ∧
  (∀ (s : State) (req : Req) (ga : GAddr) (k : Nat) (row : RegRow), State.ctlKey (s.target ga.toNat) = some (k + 4) →
    rowAt s.part (k + 4) = some (row, true) → row.wide = true → s.pendOf req (keyBlock (k + 4)) = none →
    ∃ t, exec (.highWordReadPair req ga) s = .next t ∧ (req, .value (s.regShows k >>> 32) false) ∈ t.resp ∧ t.regs = s.regs) ∧
  (∀ (s : State) (req : Req) (ga : GAddr) (k : Nat) (v : Word) (row : RegRow), State.ctlKey (s.target ga.toNat) = some k →
    rowAt s.part k = some (row, false) → row.wide = true →
    ∃ t, exec (.lowWordWriteHeld req ga v) s = .next t ∧ t.regs = s.regs ∧ t.pendOf req (keyBlock k) = some (.low k v) ∧
      (req, .done) ∈ t.resp ∧ ∀ q b, q ≠ req ∨ b ≠ keyBlock k → t.pendOf q b = s.pendOf q b)) ∧
  ((∀ (s : State) (req : Req) (ga : GAddr) (c : Nat) (v w : Word),
    State.ctlKey (s.target ga.toNat) = some (cellKey c (MXE_SR_SEED + 4)) →
    s.pendOf req (keyBlock (cellKey c MXE_SR_SEED)) = some (.low (cellKey c MXE_SR_SEED) w) →
    ∃ t, exec (.highWordWritePair req ga v) s = .next t ∧
      (t.reg (cellKey c MXE_SR_SEED)).toNat = w.toNat + v.toNat * 2 ^ 32 ∧ s.regsBut t [cellKey c MXE_SR_SEED] ∧
      t.pendOf req (keyBlock (cellKey c MXE_SR_SEED)) = none ∧ (req, .done) ∈ t.resp ∧ t.err = s.err) ∧
  (∀ (s : State) (req : Req) (ga : GAddr) (c : Nat) (v : Word),
    State.ctlKey (s.target ga.toNat) = some (cellKey c (MXE_SR_SEED + 4)) →
    s.pendOf req (keyBlock (cellKey c MXE_SR_SEED)) = none →
    ∃ t, exec (.highWordWritePair req ga v) s = .next t ∧ t.reg (cellKey c MXE_SR_SEED) = s.reg (cellKey c MXE_SR_SEED) ∧
      (req, .busError) ∈ t.resp))

/-! ### Matrix engine (R83-R149) -/

/-- R85, R87, R88, R107, R109, R110, R111, R116, R136. MXE_DESC_PUSH: a valid staged descriptor joins the queue with the next pass
number; a queue that had eight entries at the start of the cycle refuses it, and so is an invalid one, the queue unchanged. At the end of
the cycle, unless a flush came in it, the refusals are logged: a full queue with class 0x11, an invalid descriptor with class 0x10 and
the lowest REASON in MXE_ERR_DESC. EASEL_LOAD_SEGMENT: from the cycle after the push on, the next segment of the oldest pass with
segments to load starts in its easel j mod 4, once the segment before it has had its 8 cycles and its columns are free; a beat of the
segment in progress follows in each delivered cycle. EASEL_READY: 12 cycles after the last segment's first beat the pass is ready, with the check values of each reduction row. -/
def Obligations.DescriptorsQueueAndEaselsLoad : Prop :=
  ((∀ (s : State) (c : Nat), (s.mxe c).flushDue = false → s.queueAtStart c < 8 → descReason (s.mxe c).info (s.staged c) = 0 →
    ∃ t p, exec (.mxeDescPush c) s = .next t ∧ (t.mxe c).queue = (s.mxe c).queue ++ [p] ∧ p.desc = s.staged c ∧ p.j = (s.mxe c).seq ∧
      p.pushed = (s.cell c).cyc ∧ p.start = none ∧ p.segs = 0 ∧ p.beats = 0 ∧ p.rows = 0 ∧ p.ready = false ∧ (t.mxe c).seq = (s.mxe c).seq + 1 ∧
      t.err = s.err ∧ s.cellsBut t c ∧ s.regsBut t [cellKey c MXE_RPL_STAT]) ∧
  (∀ (s : State) (c : Nat), (s.mxe c).flushDue = false → 8 ≤ s.queueAtStart c →
    ∃ t, exec (.mxeDescPush c) s = .next t ∧ (t.mxe c).queue = (s.mxe c).queue ∧ (t.mxe c).seq = (s.mxe c).seq ∧ t.regs = s.regs ∧
      (t.mxe c).pushFails = (s.mxe c).pushFails ++ [⟨0x11, 0⟩] ∧ t.err = s.err ∧ s.cellsBut t c) ∧
  (∀ (s : State) (c : Nat), (s.mxe c).flushDue = false → s.queueAtStart c < 8 → descReason (s.mxe c).info (s.staged c) ≠ 0 →
    ∃ t, exec (.mxeDescPush c) s = .next t ∧ (t.mxe c).queue = (s.mxe c).queue ∧ (t.mxe c).seq = (s.mxe c).seq ∧ t.regs = s.regs ∧
      (t.mxe c).pushFails = (s.mxe c).pushFails ++
        [⟨0x10, descReason (s.mxe c).info (s.staged c) + (s.mxe c).seq % 2 ^ 24 * 2 ^ 8⟩] ∧ t.err = s.err ∧ s.cellsBut t c) ∧
  (∀ (s : State) (c : Nat), (s.mxe c).flushDue = true → exec (.mxeDescPush c) s = .next s) ∧
  (∀ (s : State) (c v : Nat), let u := if s.runs c then s.mxeStages c else s
    (u.mxe c).flushDue = false → (u.mxe c).pushFails = [⟨0x10, v⟩] → v < 2 ^ 32 →
    (s.mxeCycle c).reg (cellKey c MXE_ERR_DESC) = BitVec.ofNat 64 v ∧ u.regsBut (s.mxeCycle c) [cellKey c MXE_ERR_DESC] ∧
      u.logs (s.mxeCycle c) 0x10 (.cell c 0) v) ∧
  (∀ (s : State) (c : Nat), let u := if s.runs c then s.mxeStages c else s
    (u.mxe c).flushDue = false → (u.mxe c).pushFails = [⟨0x11, 0⟩] →
    (s.mxeCycle c).regs = u.regs ∧ u.logs (s.mxeCycle c) 0x11 (.cell c 0) 0)) ∧
  ((∀ (s : State) (c : Nat) (p : Pass), (s.mxe c).queue.find? (fun q => q.segs < segNeed q.desc) = some p → s.runs c = true →
    p.pushed < (s.cell c).cyc →
    ((s.mxe c).queue.all fun q => match q.seg with | none => true | some b => decide (b + 8 ≤ (s.cell c).cyc)) = true →
    colsFree (s.mxe c) p.desc p.j p.segs (s.arrayTime c) = true → (s.mxe c).easels.length = 4 →
    ∃ t, exec (.easelLoadSegment c) s = .next t ∧ (easelOf (t.mxe c) p.j).owner = some p.j ∧
      (t.mxe c).queue = ((s.mxe c).queue.map fun q =>
        if q.j = p.j then { q with segs := q.segs + 1, seg := some (s.cell c).cyc, beats := 0 } else q) ∧
      (t.mxe c).starts = (s.mxe c).starts ∧ (t.mxe c).slots = (s.mxe c).slots ∧ t.regs = s.regs ∧ t.err = s.err ∧ s.cellsBut t c) ∧
  (∀ (s : State) (c : Nat) (p : Pass), ((s.mxe c).queue.find? fun q => match q.seg with
      | some b => decide (q.beats < 8 ∧ b + q.beats ≤ (s.cell c).cyc)
      | none => false) = some p →
    ((s.loadBeat c).mxe c).queue = (s.mxe c).queue.map fun q => if q.j = p.j then { q with beats := p.beats + 1 } else q) ∧
  (∀ (s : State) (c b : Nat) (p : Pass), (s.mxe c).queue.find? (fun q => !q.ready) = some p → p.seg = some b →
    p.segs = segNeed p.desc → p.beats = 8 → b + 12 ≤ (s.cell c).cyc → s.runs c = true → (s.mxe c).easels.length = 4 →
    ∃ t, exec (.easelReady c) s = .next t ∧
      (t.mxe c).queue = ((s.mxe c).queue.map fun q => if q.j = p.j then { q with ready := true } else q) ∧
      (easelOf (t.mxe c) p.j).c0 = (List.range (dKp p.desc)).map (checkC0 p.desc (easelOf (s.mxe c) p.j).block p.scl) ∧
      (easelOf (t.mxe c) p.j).c1 = (List.range (dKp p.desc)).map (checkC1 p.desc (easelOf (s.mxe c) p.j).block p.scl) ∧
      t.regs = s.regs ∧ s.cellsBut t c))


/-- R84, R91, R93, R94, R113, R116. SWAP_WAVE_ENTER: in an unfrozen cycle a ready pass whose predecessor has presented all its rows enters
at the array's present cycle; while its easel is not ready the cycle counts as an easel stall, from the cycle after the push on; while a
row that is due finds its feeders empty the array freezes and the cycle counts as a freeze, with a bit of ROWS for the rows that are due
and empty. No pass enters once an access has been refused
in an earlier cycle. FREEZE_WATCHDOG_EXPIRE: the frozen cycle after 2^LIMIT in a row logs class 0x13 with the cause and halts the panel. A
counter that software clears in the same cycle leaves the cycle out (R16). -/
def Obligations.SwapWaveStallsAndFreezes : Prop :=
  (∀ (s : State) (c : Nat) (p : Pass), nextPass (s.mxe c) = some p → s.runs c = true → (s.mxe c).noStart = false →
    stoppedAt (s.mxe c) (s.cell c).cyc = false → prevDone (s.mxe c) (s.arrayTime c) s.rowDueAt = true → s.frozenNow c = false → p.ready = true →
    ∃ t, exec (.swapWaveEnter c) s = .next t ∧
      (t.mxe c).queue = ((s.mxe c).queue.map fun q => if q.j = p.j then { q with start := some (s.arrayTime c) } else q) ∧
      startOf (t.mxe c) p.j = some (s.arrayTime c) ∧ (t.mxe c).cur = p.j % 4 ∧ t.regs = s.regs ∧ t.err = s.err ∧ s.cellsBut t c) ∧
  (∀ (s : State) (c : Nat) (p : Pass), nextPass (s.mxe c) = some p → s.runs c = true → (s.mxe c).noStart = false →
    stoppedAt (s.mxe c) (s.cell c).cyc = false → prevDone (s.mxe c) (s.arrayTime c) s.rowDueAt = true → s.frozenNow c = false → p.ready = false →
    p.pushed < (s.cell c).cyc → (s.mxe c).stallAt ≠ (s.cell c).cyc + 1 → s.written (cellKey c MXE_STALL_EASEL) = false →
    ∃ t, exec (.swapWaveEnter c) s = .next t ∧ (t.mxe c).queue = (s.mxe c).queue ∧
      t.fld (cellKey c MXE_STALL_EASEL) 0 64 = min (s.fld (cellKey c MXE_STALL_EASEL) 0 64 + 1) (2 ^ 64 - 1) ∧
      s.regsBut t [cellKey c MXE_STALL_EASEL]) ∧
  (∀ (s : State) (c : Nat) (p q : Pass), nextPass (s.mxe c) = some p → streamPass (s.mxe c) = some q → s.runs c = true →
    (s.mxe c).noStart = false → stoppedAt (s.mxe c) (s.cell c).cyc = false → prevDone (s.mxe c) (s.arrayTime c) s.rowDueAt = true →
    (s.mxe c).judged ≠ (s.cell c).cyc + 1 → s.fullNow c = false → s.dryNow c = true → s.written (cellKey c MXE_STALL_FREEZE) = false →
    feedRows q.desc ≤ 16 →
    ∃ t, exec (.swapWaveEnter c) s = .next t ∧ (t.mxe c).queue = (s.mxe c).queue ∧ (t.mxe c).frozen = (s.mxe c).frozen + 1 ∧
      t.fld (cellKey c MXE_STALL_FREEZE) 0 64 = min (s.fld (cellKey c MXE_STALL_FREEZE) 0 64 + 1) (2 ^ 64 - 1) ∧
      t.fld (cellKey c MXE_FREEZE_CAUSE) 0 2 = 1 ∧ t.fld (cellKey c MXE_FREEZE_CAUSE) 16 16 = 2 ^ feedRows q.desc - 1 ∧
      s.regsBut t [cellKey c MXE_STALL_FREEZE, cellKey c MXE_FREEZE_CAUSE]) ∧
  (∀ (s : State) (c b : Nat), (s.mxe c).stopFrom = some b → b ≤ (s.cell c).cyc → exec (.swapWaveEnter c) s = .next s) ∧
  (∀ (s : State) (c : Nat), (s.mxe c).judged = (s.cell c).cyc + 1 → (s.mxe c).consec = 2 ^ s.fld (cellKey c MXE_WDOG) 0 5 + 1 →
    s.runs c = true →
    ∃ t, exec (.freezeWatchdogExpire c) s = .next t ∧ s.logs t 0x13 (.cell c 0) (s.reg (cellKey c MXE_FREEZE_CAUSE)).toNat ∧
      (t.mxe c).queue = (s.mxe c).queue ∧ t.regs = s.regs ∧
      (s.haltable c = true → t.err.haltQ = s.err.haltQ ++ [⟨c, 0x13, s.err.nextSn, s.jobOf c, false⟩]))

/-- R81, R83, R85, R96, R97, R100, R125, R137. FEEDER_FETCH: one line gives the oldest pass that still fetches all the rows it holds (no
stationary scale bytes, no raw rows), which reach the feeder in the third cycle. STREAMED_ROW_PRESENT: row m of a pass that started at
S is due from array cycle S + r*m + 1 on; a due row of an unfrozen array leaves the feeder and enters the array, its t0 the cycle before
the array's present one; no slot changes yet. In array cycle t0 + n + 17 the row's column n
takes its start value plus the row's products, and no other column changes; in cycle t0 + 144 a row of a final pass goes to the check
stage. -/
def Obligations.RowsAreFetchedAndPresented : Prop :=
  (∀ (s : State) (c : Nat) (p : Pass),
    (s.mxe c).queue.find? (fun q => needsFeed q.desc && decide (q.fetched < dM q.desc)) = some p → s.runs c = true →
    p.pushed < (s.cell c).cyc → (s.mxe c).fetchAt ≠ (s.cell c).cyc + 1 →
    (s.mxe c).feeder.length + State.lineRows p.desc p.fetched ≤ 64 →
    dStatScaled p.desc = false → dStrmScaled p.desc = false → dKp p.desc ≠ 0 → dInit p.desc = 0 →
    ∃ t, exec (.feederFetch c) s = .next t ∧
      let n := State.lineRows p.desc p.fetched
      (t.mxe c).feeder.length = (s.mxe c).feeder.length + n ∧ (t.mxe c).fetchAt = (s.cell c).cyc + 1 ∧
      (t.mxe c).queue = ((s.mxe c).queue.map fun q => if q.j = p.j then { p with fetched := p.fetched + n } else q) ∧
      (∀ i, i < n → ((t.mxe c).feeder[(s.mxe c).feeder.length + i]?).map (fun f => (f.j, f.m, f.arr)) =
        some (p.j, p.fetched + i, (s.cell c).cyc + 3)) ∧
      s.cellsBut t c) ∧
  (∀ (s : State) (c S : Nat) (p : Pass) (f : FRow), streamPass (s.mxe c) = some p → p.start = some S → s.runs c = true →
    stoppedAt (s.mxe c) (s.cell c).cyc = false → (s.mxe c).streamAt ≠ (s.cell c).cyc + 1 →
    S + s.rowInterval p.desc * p.rows + 1 ≤ s.arrayTime c → s.frozenNow c = false → needsFeed p.desc = true →
    (s.mxe c).feeder.head? = some f →
    ∃ t x, exec (.streamedRowPresent c none) s = .next t ∧ (t.mxe c).feeder = (s.mxe c).feeder.drop 1 ∧
      (t.mxe c).queue = ((s.mxe c).queue.map fun q => if q.j = p.j then { q with rows := q.rows + 1 } else q) ∧
      (t.mxe c).flight = (s.mxe c).flight ++ [x] ∧ x.desc = p.desc ∧ x.j = p.j ∧ x.m = p.rows ∧ x.slot = dSlot p.desc + p.rows ∧
      x.t0 + 1 = s.arrayTime c ∧ x.block = (easelOf (s.mxe c) p.j).block ∧ x.bytes = f.bytes ∧ x.data = [] ∧
      (t.mxe c).slots = (s.mxe c).slots ∧ (t.mxe c).finals = (s.mxe c).finals ∧
      t.regs = s.regs ∧ t.err = s.err ∧ s.cellsBut t c) ∧
  (∀ (bias : BitVec 256 → Nat → Nat) (m : Mxe) (f : Flight) (n : Nat), n < dNp f.desc →
    SMap.get (State.flightStep bias (f.t0 + 17 + n) m f).slots (State.slotKey f.slot n) 0 =
      BitVec.ofNat 128 (State.colSum f (bias f.desc n) n (SMap.get m.slots (State.slotKey f.slot n) 0).toNat) ∧
    ∀ k, k ≠ State.slotKey f.slot n → SMap.get (State.flightStep bias (f.t0 + 17 + n) m f).slots k 0 = SMap.get m.slots k 0) ∧
  (∀ (bias : BitVec 256 → Nat → Nat) (m : Mxe) (f : Flight), dIsFinal f.desc = true →
    m.flight.find? (fun x => x.j == f.j && x.m == f.m) = some f →
    ∃ r, (State.flightStep bias (f.t0 + 144) m f).finals = m.finals ++ [r] ∧ r.j = f.j ∧ r.m = f.m ∧ r.slot = f.slot ∧
      r.due = f.t0 + 144)

/-- R102, R103, R139, R140, R143, R144, R147. FINAL_ROW_CHECK: a row that agrees with its check columns is counted and goes on to convert,
four cycles after its column 127, and is in the drain queue at the end of two cycles more; a row that fails where its slot is replayable
starts a replay, which holds the cell from the next cycle on, else class 0x16 with outcome 3 is logged and no further pass starts.
REPLAY_VERDICT ends the hold with the next cycle: class 0x15 and the recomputed row goes on, or class 0x16 with outcome 2. -/
def Obligations.CheckedRowsGoOnOrReplay : Prop :=
  ((∀ (s : State) (c : Nat) (r : FinalRow) (rest : List FinalRow) (b : Bool), s.runs c = true →
    s.frozenNow c = false → (s.mxe c).finals = r :: rest → r.due + 3 ≤ s.arrayTime c →
    checkRow (r.data.map (·.toNat)) r.chk = .pass b → s.written (cellKey c MXE_CHK_ROWS) = false →
    ∃ t, exec (.finalRowCheck c false) s = .next t ∧ (t.mxe c).finals = rest ∧ (t.mxe c).conv = (s.mxe c).conv ++ [r] ∧
      (t.mxe c).drain = (s.mxe c).drain ∧
      t.fld (cellKey c MXE_CHK_ROWS) 0 64 = min (s.fld (cellKey c MXE_CHK_ROWS) 0 64 + 1) (2 ^ 64 - 1) ∧ t.err = s.err ∧
      s.regsBut t [cellKey c MXE_CHK_ROWS, cellKey c MXE_CHK_BOUND] ∧ s.cellsBut t c) ∧
  (∀ (s : State) (c u : Nat) (r : FinalRow) (rest : List FinalRow), (s.mxe c).conv = r :: rest → r.due + 4 ≤ u →
    ∃ row, ((s.convertNext c u).mxe c).drain = (s.mxe c).drain ++ [row] ∧ ((s.convertNext c u).mxe c).conv = rest ∧ row.j = r.j ∧
      row.addr = dOut r.desc + 64 * dOutStride r.desc * r.m ∧ row.lines = 0 ∧ row.enter = u + 2 ∧
      s.regsBut (s.convertNext c u) [cellKey c MXE_ARITH_CNT] ∧ (s.convertNext c u).err = s.err)) ∧
  ((∀ (s : State) (c : Nat) (r : FinalRow) (rest : List FinalRow) (b : Bool) (d0 d1 : Int), s.runs c = true →
    s.frozenNow c = false → (s.mxe c).finals = r :: rest → r.due + 3 ≤ s.arrayTime c →
    checkRow (r.data.map (·.toNat)) r.chk = .fail b d0 d1 → r.replayOk = true → r.epoch = (s.mxe c).epoch →
    ∃ t, exec (.finalRowCheck c false) s = .next t ∧ (t.mxe c).replayAt = (s.cell c).cyc ∧
      (t.mxe c).replay = some { r with loc := locate b d0 d1 r.chk.w } ∧ (t.mxe c).finals = rest ∧ (t.mxe c).conv = (s.mxe c).conv ∧
      t.err = s.err ∧ s.cellsBut t c) ∧
  (∀ (s : State) (c : Nat), (s.mxe c).replay.isSome = true → (s.mxe c).replayAt < (s.cell c).cyc → s.isHeld c = true) ∧
  (∀ (s : State) (c : Nat) (r : FinalRow) (rest : List FinalRow) (b : Bool) (d0 d1 : Int), s.runs c = true →
    s.frozenNow c = false → (s.mxe c).finals = r :: rest → r.due + 3 ≤ s.arrayTime c →
    checkRow (r.data.map (·.toNat)) r.chk = .fail b d0 d1 → r.replayOk = false → r.chk.w ≤ 128 →
    ∃ t, exec (.finalRowCheck c false) s = .next t ∧ (t.mxe c).noStart = true ∧ (t.mxe c).conv = (s.mxe c).conv ∧
      t.fld (cellKey c MXE_CHK_LAST) 11 2 = 3 ∧
      s.logs t 0x16 (.cell c 0) (chkLast (locate b d0 d1 r.chk.w) 3 r.slot r.j))) ∧
  ((∀ (s : State) (c : Nat) (r : FinalRow), (s.mxe c).replay = some r → (s.replayRun c r none).ok = true →
    (∀ b d0 d1, checkRow (s.replayRun c r none).data (s.replayRun c r none).chk ≠ .fail b d0 d1) →
    ∃ t row, exec (.replayVerdict c none) s = .next t ∧ (t.mxe c).replay = none ∧ (t.mxe c).holdTo = s.slot + 1 ∧
      (t.mxe c).conv = ((s.replayRun c r none).s.mxe c).conv ++ [row] ∧ row.j = r.j ∧ row.m = r.m ∧
      (s.replayRun c r none).s.logs t 0x15 (.cell c 0) (chkLast r.loc 1 r.slot r.j)) ∧
  (∀ (s : State) (c : Nat) (r : FinalRow), (s.mxe c).replay = some r → (s.replayRun c r none).ok = false →
    ∃ t, exec (.replayVerdict c none) s = .next t ∧ (t.mxe c).replay = none ∧ (t.mxe c).holdTo = s.slot + 1 ∧
      (t.mxe c).noStart = true ∧ (t.mxe c).conv = ((s.replayRun c r none).s.mxe c).conv ∧
      (s.replayRun c r none).s.logs t 0x16 (.cell c 0) (chkLast r.loc 2 r.slot r.j)))

/-- R103, R104, R105, R106, R111, R115, R116, R142, R147, R148, R441. DRAIN_LINE_WRITE: the oldest drained row's next whole line is stored to
scratchpad, every other byte of memory but the line's check bytes as before; with its last line the row leaves the queue, and with a
pass's last row the pass is marked. PASS_COMPLETE: a finished pass leaves the
queue and MXE_PASS_DONE counts it. BALLAST_ROW: with EN set and no program row or wave due, an idle unfrozen array takes a ballast row.
PATTERN_LOAD: after a flush and before the first push a free easel takes a pattern block. MXE_FLUSH acts at the end of its cycle, or of
the next where the cell is held: the queue, the feeder, rows in flight, the drain, the easels and the journal empty, pass numbering
restarts and every slot is uninitialised; the slots' contents stay, and a replay in progress ends with outcome 2. The clears:
MXE_CNT_CLR and MXE_ARITH_CLR clear exactly their counters, and an increment of the same cycle is discarded; MXE_RPL_CTRL takes EN, with
EN = 0 also clearing the journal and marking every slot not replayable. -/
def Obligations.DrainBallastAndJournal : Prop :=
  ((∀ (s : State) (c : Nat) (r : DRow) (rest : List DRow), (s.mxe c).drain = r :: rest → s.runs c = true →
    (s.mxe c).noDrain = false → (s.mxe c).drainAt ≠ (s.cell c).cyc + 1 → r.enter < s.arrayTime c → r.addr % 64 = 0 →
    r.bytes.length = 64 * (r.lines + 1) → s.spmCheck c (r.addr + 64 * r.lines) 3 false = none →
    ∃ t, exec (.drainLineWrite c) s = .next t ∧ (t.mxe c).drain = rest ∧
      (t.mxe c).queue = ((s.mxe c).queue.map fun q => if r.last = true ∧ q.j = r.j then { q with lastOut := true } else q) ∧
      (∀ i, i < 64 → some (t.byte (spmKey c (r.addr + 64 * r.lines + i))) = r.bytes[64 * r.lines + i]?) ∧
      (∀ k, (∀ i, i < 64 → k ≠ spmKey c (r.addr + 64 * r.lines + i) ∧ k ≠ spmChkKey c (r.addr + 64 * r.lines + i)) →
        t.byte k = s.byte k) ∧ t.regs = s.regs ∧ t.err = s.err ∧ s.cellsBut t c) ∧
  (∀ (s : State) (c : Nat) (p : Pass), (s.mxe c).queue.find? (s.passDone c) = some p → s.runs c = true →
    ∃ t, exec (.passComplete c) s = .next t ∧ (t.mxe c).queue = (s.mxe c).queue.filter (fun q => q.j != p.j) ∧
      t.queueAtStart c = (t.mxe c).queue.length + (t.mxe c).freed.2 ∧ 0 < (t.mxe c).freed.2 ∧
      t.fld (cellKey c MXE_PASS_DONE) 0 32 = (s.fld (cellKey c MXE_PASS_DONE) 0 32 + 1) % 2 ^ 32 ∧
      s.regsBut t [cellKey c MXE_PASS_DONE] ∧ t.err = s.err ∧ s.cellsBut t c)) ∧
  ((∀ (s : State) (c : Nat), s.fld (cellKey c MXE_BAL_CTRL) 0 1 = 1 → s.runs c = true → (s.mxe c).queue = [] →
    (s.mxe c).streamAt ≠ (s.cell c).cyc + 1 → (s.mxe c).ballastAt ≠ (s.cell c).cyc + 1 → s.frozenNow c = false →
    ∃ t, exec (.ballastRow c false) s = .next t ∧ (t.mxe c).balRows = (s.mxe c).balRows + 1 ∧
      (t.mxe c).ballastAt = (s.cell c).cyc + 1 ∧ (t.mxe c).slots = (s.mxe c).slots ∧ t.err = s.err ∧ t.regs = s.regs ∧ s.cellsBut t c) ∧
  (∀ (s : State) (c : Nat), s.fld (cellKey c MXE_BAL_CTRL) 0 1 = 1 → (s.mxe c).seq = 0 → (s.mxe c).queue = [] →
    s.runs c = true → (s.mxe c).easels.length = 4 → (easelOf (s.mxe c) 0).owner = none → (easelOf (s.mxe c) 0).pattern = none →
    ∃ t, exec (.patternLoad c) s = .next t ∧ (easelOf (t.mxe c) 0).block = Config.ballastPattern c 0 ∧
      (easelOf (t.mxe c) 0).pattern = some (s.cell c).cyc ∧ (∀ i, i % 4 ≠ 0 → easelOf (t.mxe c) i = easelOf (s.mxe c) i) ∧
      s.cellsBut t c) ∧
  (∀ (s : State) (c : Nat), ∃ t, exec (.mxeFlush c) s = .next t ∧ (t.mxe c).flushDue = true ∧ (t.mxe c).pushFails = [] ∧
    (t.mxe c).queue = (s.mxe c).queue ∧ t.regs = s.regs ∧ t.err = s.err ∧ s.cellsBut t c) ∧
  (∀ (s : State) (c : Nat), let u := if s.runs c then s.mxeStages c else s
    (u.mxe c).flushDue = true → (u.mxe c).replay = none →
    let t := s.mxeCycle c
    (t.mxe c).queue = [] ∧ (t.mxe c).feeder = [] ∧ (t.mxe c).flight = [] ∧ (t.mxe c).finals = [] ∧ (t.mxe c).conv = [] ∧
      (t.mxe c).drain = [] ∧ (t.mxe c).journal = [] ∧ (t.mxe c).info = [] ∧ (t.mxe c).starts = [] ∧ (t.mxe c).seq = 0 ∧
      (t.mxe c).noStart = false ∧ (t.mxe c).stopFrom = none ∧ (t.mxe c).easels = List.replicate 4 Easel.free ∧
      (t.mxe c).slots = (u.mxe c).slots ∧ (t.mxe c).chk = (u.mxe c).chk ∧ t.reg (cellKey c MXE_PASS_DONE) = 0 ∧
      u.regsBut t [cellKey c MXE_PASS_DONE] ∧ t.err = u.err ∧ u.cellsBut t c) ∧
  (∀ (s : State) (c : Nat) (r : FinalRow), let u := if s.runs c then s.mxeStages c else s
    (u.mxe c).flushDue = true → (u.mxe c).replay = some r →
    ((s.mxeCycle c).mxe c).replay = none ∧ u.logs (s.mxeCycle c) 0x16 (.cell c 0) (chkLast r.loc 2 r.slot r.j))) ∧
  ((∀ (s : State) (c : Nat), ∃ t, exec (.mxeCntClrFreeze c) s = .next t ∧ t.reg (cellKey c MXE_STALL_FREEZE) = 0 ∧
    s.regsBut t [cellKey c MXE_STALL_FREEZE] ∧ t.cells = s.cells ∧ t.incSatUn (cellKey c MXE_STALL_FREEZE) 0 64 1 = t) ∧
  (∀ (s : State) (c : Nat), ∃ t, exec (.mxeCntClrEasel c) s = .next t ∧ t.reg (cellKey c MXE_STALL_EASEL) = 0 ∧
    s.regsBut t [cellKey c MXE_STALL_EASEL] ∧ t.cells = s.cells ∧ t.incSatUn (cellKey c MXE_STALL_EASEL) 0 64 1 = t) ∧
  (∀ (s : State) (c : Nat), ∃ t, exec (.mxeArithClrArith c) s = .next t ∧ t.reg (cellKey c MXE_ARITH_CNT) = 0 ∧
    s.regsBut t [cellKey c MXE_ARITH_CNT] ∧ t.cells = s.cells ∧ ∀ lo n, t.incSatUn (cellKey c MXE_ARITH_CNT) lo 16 n = t) ∧
  (∀ (s : State) (c : Nat), ∃ t, exec (.mxeArithClrChk c) s = .next t ∧ t.reg (cellKey c MXE_CHK_ROWS) = 0 ∧
    t.reg (cellKey c MXE_CHK_BOUND) = 0 ∧ t.reg (cellKey c MXE_CHK_SKIP) = 0 ∧
    s.regsBut t [cellKey c MXE_CHK_ROWS, cellKey c MXE_CHK_BOUND, cellKey c MXE_CHK_SKIP] ∧ t.cells = s.cells) ∧
  (∀ (s : State) (c : Nat), ∃ t, exec (.mxeArithClrRpl c) s = .next t ∧ t.fld (cellKey c MXE_RPL_STAT) 16 8 = 0 ∧
    s.regsBut t [cellKey c MXE_RPL_STAT] ∧ t.cells = s.cells) ∧
  (∀ (s : State) (c : Nat) (en : Bool), ∃ t, exec (.mxeRplCtrlWrite c en) s = .next t ∧
    t.fld (cellKey c MXE_RPL_CTRL) 0 1 = (if en then 1 else 0) ∧ s.regsBut t [cellKey c MXE_RPL_CTRL] ∧ s.cellsBut t c ∧
    (t.mxe c).queue = (s.mxe c).queue ∧
    if en then (t.mxe c).journal = (s.mxe c).journal
    else (t.mxe c).journal = [] ∧ ∀ x ∈ (t.mxe c).info, x.2.replayable = false))

/-! ### Scratchpad (R153-R178) -/

/-- R153, R155, R156, R173. SPM_BANK_OWN_WRITE: with nothing held and no merge-buffer entry of a losing core, every bank has the owner the
write names from the next cycle on, and the one it had for the accesses of this cycle; behind a held write it is held. OWNERSHIP_GOVERN:
the oldest held write does the same. ECC_RAW_WRITE stores the staged data and check byte exactly, and nothing else in memory changes. ECC_RAW_READ shows the stored
data, check byte and syndrome. A command of a core that fails the checks of R154 changes no memory and no merge buffer and logs R154's class
against the core's cell. -/
def Obligations.OwnershipAndCheckBitTest : Prop :=
  ((∀ (s : State) (c : Nat) (v : Word), (s.cell c).owns = [] → s.ownWaits c v = false →
    ∃ t, exec (.spmBankOwnWrite c v) s = .next t ∧
      (∀ b, b < 8 → t.owner c b = s.owner c b ∧ t.passSlot.owner c b = bits v.toNat (4 * b) 3) ∧
      s.regsBut t [cellKey c SPM_BANK_OWN] ∧ t.cells = s.cells ∧ t.mem = s.mem ∧ t.err = s.err) ∧
  (∀ (s : State) (c : Nat) (v : Word), (s.cell c).owns ≠ [] →
    ∃ t, exec (.spmBankOwnWrite c v) s = .next t ∧ (t.cell c).owns = (s.cell c).owns ++ [v] ∧ t.regs = s.regs ∧ t.mem = s.mem ∧
      s.cellsBut t c ∧ t.err = s.err) ∧
  (∀ (s : State) (c : Nat) (v : Word) (rest : List Word), (s.cell c).owns = v :: rest → (s.core c .head).mb = [] →
    (s.core c .tail).mb = [] → (s.core c .head).heldStores = [] → (s.core c .tail).heldStores = [] →
    ∃ t, exec (.ownershipGovern c) s = .next t ∧ (t.cell c).owns = rest ∧
      (∀ b, b < 8 → t.owner c b = s.owner c b ∧ t.passSlot.owner c b = bits v.toNat (4 * b) 3) ∧
      s.regsBut t [cellKey c SPM_BANK_OWN] ∧ t.mem = s.mem ∧ s.cellsBut t c ∧ t.err = s.err)) ∧
  ((∀ (s : State) (c : Nat) (req : Req), (∀ k, ∀ e ∈ (s.core c k).mb, e.word ≠ s.eccAddr c / 8) →
    s.spmCheck c (s.eccAddr c) (State.classOf c req) (decide (req = .firmware)) = none →
    ∃ t, exec (.eccRawWrite c req) s = .next t ∧ t.wordAt c (s.eccAddr c) = (s.reg (cellKey c SPM_ECC_TDATA)).toNat ∧
      t.chkAt c (s.eccAddr c) = s.fld (cellKey c SPM_ECC_TCHK) 0 8 ∧
      (∀ k, (∀ i, i < 8 → k ≠ spmKey c (s.eccAddr c + i)) → k ≠ spmChkKey c (s.eccAddr c) → t.byte k = s.byte k) ∧
      t.regs = s.regs ∧ s.cellsBut t c ∧ (∀ k, t.core c k = s.core c k) ∧ t.mxe c = s.mxe c ∧ t.err = s.err) ∧
  (∀ (s : State) (c : Nat) (req : Req), (∀ k, ∀ e ∈ (s.core c k).mb, e.word ≠ s.eccAddr c / 8) →
    s.spmCheck c (s.eccAddr c) (State.classOf c req) (decide (req = .firmware)) = none →
    ∃ t, exec (.eccRawRead c req) s = .next t ∧ (t.reg (cellKey c SPM_ECC_TDATA)).toNat = s.wordAt c (s.eccAddr c) ∧
      t.fld (cellKey c SPM_ECC_TCHK) 0 8 = s.chkAt c (s.eccAddr c) ∧
      t.fld (cellKey c SPM_ECC_TCHK) 8 8 = s.chkAt c (s.eccAddr c) ^^^ eccByte (s.wordAt c (s.eccAddr c)) ∧
      s.regsBut t [cellKey c SPM_ECC_TDATA, cellKey c SPM_ECC_TCHK] ∧ t.mem = s.mem ∧ t.cells = s.cells ∧ t.err = s.err) ∧
  (∀ (s : State) (c d cls r : Nat) (q : CoreSel) (i : Instr), i = .eccRawWrite c (.core d q) ∨ i = .eccRawRead c (.core d q) →
    s.spmCheck c (s.eccAddr c) (State.classOf c (.core d q)) false = some (cls, r) →
    ∃ t e, exec i s = .next t ∧ t.mem = s.mem ∧ t.cells = s.cells ∧ t.err.recQ = s.err.recQ ++ [e] ∧ e.cls = cls ∧ e.loc = .cell c 0 ∧
      e.struck = some d ∧ s.regsBut t [cellKey c SPM_ERR_LAST]))


/-- R171, R174, R175, R223. PRIMER_DONE leaves every word of the cell's stores zero with valid check bits, its counters, detours and landing
count zero, its links cleared but for those that failed, the scrubber's passes starting now, and DONE set. SCRUB_LINE_READ: once it is
due, a line of good words is passed over, a line with a faulty word waits for its write-back.
SCRUB_WRITEBACK: the line is written back with corrected words good and lost words poisoned; a write to the line that comes first drops
the write-back. ISTORE_SCRUB: once it is due, a single-bit error is corrected, counted and logged as class 0x27. -/
def Obligations.PrimerAndScrubberMendWords : Prop :=
  (∀ (s : State) (c : Nat), s.fld (cellKey c SPM_PRIME_STAT) 1 1 = 1 →
    ∃ t, exec (.primerDone c 0) s = .next t ∧ t.primed c = true ∧ judge 0 0 = .good ∧
      (∀ o, o < 0x180000 → t.byte (spmKey c o) = 0 ∧ t.byte (spmChkKey c o) = 0) ∧
      (∀ k o, o < 0x8000 → t.byte (imemKey c k o) = 0 ∧ t.byte (imemChkKey c k o) = 0) ∧
      (∀ k, k < 2 ^ 44 + 2 ^ 24 * c ∨ 2 ^ 44 + 2 ^ 24 * c + 2 ^ 24 ≤ k → t.byte k = s.byte k) ∧
      (∀ n, n < 48 → t.reg (ctrKey c n) = 0) ∧ (∀ n, n < 16 → t.reg (cellKey c (RTR_DETOUR + 4 * n)) = 0) ∧
      t.fld (cellKey c RTR_MC_LAND) 0 16 = 0 ∧ (t.cell c).links = [] ∧ (t.cell c).sigs = [] ∧ t.fld (cellKey c RTR_LINK_STAT) 0 12 = s.failedBits c % 2 ^ 12 ∧
      (∀ b, b < 8 → (t.scrubOf c b).passStart = s.now ∧ (t.scrubOf c b).line = 0) ∧ (t.mxe c).journal = [] ∧ s.cellsBut t c ∧ t.err = s.err) ∧
  (∀ (s : State) (c b : Nat), s.primed c = true → (s.scrubOf c b).wb = false →
    (s.scrubOf c b).due ≤ s.now → (s.scrubOf c b).line < 3071 →
    s.now ≤ (s.scrubOf c b).passStart + s.scrubLimit c b * 1000000 →
    (∀ o ∈ s.scrubWords c b, judge (s.wordAt c o) (s.chkAt c o) = .good) →
    ∃ t, exec (.scrubLineRead c b) s = .next t ∧ (t.scrubOf c b).line = (s.scrubOf c b).line + 1 ∧
      (t.scrubOf c b).due = (s.scrubOf c b).due + s.scrubInterval c ∧ t.mem = s.mem ∧ t.regs = s.regs ∧
      t.err = s.err ∧ s.cellsBut t c) ∧
  (∀ (s : State) (c b : Nat), s.primed c = true → (s.scrubOf c b).wb = false →
    (s.scrubOf c b).due ≤ s.now →
    ¬ (∀ o ∈ s.scrubWords c b, judge (s.wordAt c o) (s.chkAt c o) = .good) →
    ∃ t, exec (.scrubLineRead c b) s = .next t ∧ (t.scrubOf c b).line = (s.scrubOf c b).line ∧
      (t.scrubOf c b).wb = true ∧ t.mem = s.mem ∧ s.cellsBut t c) ∧
  (∀ (s : State) (c o w : Nat), (s.scrubOf c (bankOf o)).line = o % 0x30000 / 64 →
    ((s.writeWord c o w).scrubOf c (bankOf o)).wb = false ∧ ∀ t, exec (.scrubWriteback c (bankOf o)) (s.writeWord c o w) = .next t →
      t = s.writeWord c o w) ∧
  (∀ (s : State) (c b : Nat), b < 8 → (s.scrubOf c b).line < 3071 → (s.scrubOf c b).wb = true →
    ∃ t, exec (.scrubWriteback c b) s = .next t ∧ (t.scrubOf c b).line = (s.scrubOf c b).line + 1 ∧ (t.scrubOf c b).wb = false ∧
      (∀ o ∈ s.scrubWords c b, match judge (s.wordAt c o) (s.chkAt c o) with
        | .good => t.wordAt c o = s.wordAt c o ∧ t.chkAt c o = s.chkAt c o
        | .single v => t.wordAt c o = v ∧ t.chkAt c o = eccByte v
        | _ => t.wordAt c o = 0 ∧ t.chkAt c o = 0xFF) ∧
      (∀ k, (∀ o ∈ s.scrubWords c b, (∀ i, i < 8 → k ≠ spmKey c (o + i)) ∧ k ≠ spmChkKey c o) → t.byte k = s.byte k) ∧ s.cellsBut t c) ∧
  (∀ (s : State) (c j v l : Nat) (k : CoreSel), s.primed c = true → s.written (State.coreKey c k HEAD_IMEM_CNT) = false →
    ((s.cell c).iscrubDue[match k with | .head => 0 | .tail => 1]?).getD 0 ≤ s.now →
    ((s.cell c).iscrub[match k with | .head => 0 | .tail => 1]?).getD 0 = l → l < 512 → j < 8 →
    (∀ i, i < 8 → judge (s.imemWord c k (64 * l + 8 * i)) (s.imemChk c k (64 * l + 8 * i)) = if i = j then .single v else .good) →
    ∃ t, exec (.istoreScrub c k) s = .next t ∧ t.imemWord c k (64 * l + 8 * j) = v ∧ t.imemChk c k (64 * l + 8 * j) = eccByte v ∧
      t.fld (State.coreKey c k HEAD_IMEM_CNT) 0 16 = min (s.fld (State.coreKey c k HEAD_IMEM_CNT) 0 16 + 1) 0xFFFF ∧ s.logs t 0x27 (.cell c 0) 0 ∧
      s.regsBut t [State.coreKey c k HEAD_IMEM_CNT] ∧ s.cellsBut t c)

/-- R154, R176, R177, R178, R183. BENG_FILL, BENG_COPY and BENG_POISON queue the staged values behind the commands that wait, or refuse them with
class 0x26 and REASON, the queue unchanged; a push of the host or of firmware that is refused halts no panel. The refusals: no lines or more than 23,552, an unaligned line, a range beyond 0x16_FFFF,
four commands queued at the start of the cycle. BENG_COMMAND_START starts the oldest command; a line follows in each delivered cycle, and one
that R154 refuses ends the command, discards the queue and logs the class. BENG_COMMAND_DONE writes the last line (the pattern, the source
line's words, or poison), counts DONE, and signals the counter named. -/
def Obligations.BankEngineRunsCommands : Prop :=
  ((∀ (s : State) (c op : Nat) (i : Instr) (req : Req), (i, op) ∈ [(Instr.bengFill c req, 1), (.bengCopy c req, 2), (.bengPoison c req, 3)] → s.bengReason c op = 0 →
    ∃ t b, exec i s = .next t ∧ (t.cell c).beng = (s.cell c).beng ++ [b] ∧ b.op = op ∧ b.src = s.fld (cellKey c SPM_BENG_SRC) 0 21 ∧
      b.dst = s.fld (cellKey c SPM_BENG_DST) 0 21 ∧ b.len = s.fld (cellKey c SPM_BENG_LEN) 0 15 ∧ b.pat = s.reg (cellKey c SPM_BENG_PAT) ∧
      b.running = false ∧ t.regs = s.regs ∧ t.mem = s.mem ∧ t.err = s.err ∧ s.cellsBut t c) ∧
  (∀ (s : State) (c op : Nat) (i : Instr) (req : Req), (i, op) ∈ [(Instr.bengFill c req, 1), (.bengCopy c req, 2), (.bengPoison c req, 3)] → s.bengReason c op ≠ 0 →
    ∃ t, exec i s = .next t ∧ t.cells = s.cells ∧ t.mem = s.mem ∧ t.fld (cellKey c SPM_BENG_STAT) 4 4 = s.bengReason c op ∧
      s.regsBut t [cellKey c SPM_BENG_STAT] ∧ s.logs t 0x26 (.cell c 0) (s.bengReason c op)) ∧
  (∀ (s : State) (c op : Nat) (i : Instr) (req : Req), (i, op) ∈ [(Instr.bengFill c req, 1), (.bengCopy c req, 2), (.bengPoison c req, 3)] →
    s.bengReason c op ≠ 0 → req = .firmware ∨ (∃ p, req = .host p) →
    ∃ t, exec i s = .next t ∧ t.err.haltQ = s.err.haltQ) ∧
  (∀ (s : State) (c op : Nat), s.bengReason c op = 0 → 1 ≤ s.fld (cellKey c SPM_BENG_LEN) 0 15 ∧ s.fld (cellKey c SPM_BENG_LEN) 0 15 ≤ 23552 ∧
    (s.reg (cellKey c SPM_BENG_DST)).toNat % 64 = 0 ∧
    s.fld (cellKey c SPM_BENG_DST) 0 21 + 64 * s.fld (cellKey c SPM_BENG_LEN) 0 15 ≤ 0x170000 ∧ s.bengAtStart c < 4)) ∧
  ((∀ (s : State) (c : Nat) (b : BengCmd) (rest : List BengCmd), (s.cell c).beng = b :: rest → b.running = false → s.runs c = true →
    ∃ t, exec (.bengCommandStart c) s = .next t ∧ (t.cell c).beng = { b with running := true, next := (s.cell c).cyc } :: rest ∧
      t.mem = s.mem ∧ t.regs = s.regs ∧ t.err = s.err ∧ s.cellsBut t c) ∧
  (∀ (s : State) (c : Nat) (b : BengCmd) (rest : List BengCmd), (s.cell c).beng = b :: rest → b.running = true → b.op = 1 →
    b.lines + 1 < b.len → b.next ≤ (s.cell c).cyc → b.dst % 64 = 0 → s.spmCheck c (b.dst + 64 * b.lines) 7 false = none →
    ((s.bengCycle c).cell c).beng = { b with lines := b.lines + 1, next := (s.cell c).cyc + 1 } :: rest ∧
      (∀ i, i < 8 → (s.bengCycle c).wordAt c (b.dst + 64 * b.lines + 8 * i) = b.pat.toNat) ∧ (s.bengCycle c).regs = s.regs) ∧
  (∀ (s : State) (c cls r : Nat) (b : BengCmd) (rest : List BengCmd), (s.cell c).beng = b :: rest → b.running = true → b.op ≠ 2 →
    b.lines + 1 < b.len → b.next ≤ (s.cell c).cyc → s.spmCheck c (b.dst + 64 * b.lines) 7 false = some (cls, r) →
    let t := s.bengCycle c
    (t.cell c).beng = [] ∧ t.mem = s.mem ∧ s.regsBut t [cellKey c SPM_ERR_LAST] ∧
      ∃ e, t.err.recQ = s.err.recQ ++ [e] ∧ e.cls = cls ∧ e.struck = some c) ∧
  (∀ (s : State) (c cls r : Nat) (b : BengCmd) (rest : List BengCmd), (s.cell c).beng = b :: rest → b.running = true →
    s.runs c = true → b.op ≠ 2 → b.lines + 1 = b.len → b.next ≤ (s.cell c).cyc →
    s.spmCheck c (b.dst + 64 * b.lines) 7 false = some (cls, r) →
    ∃ t e, exec (.bengCommandDone c 0) s = .next t ∧ (t.cell c).beng = [] ∧ t.mem = s.mem ∧ t.err.recQ = s.err.recQ ++ [e] ∧
      e.cls = cls ∧ e.struck = some c ∧ s.regsBut t [cellKey c SPM_ERR_LAST]) ∧
  (∀ (s : State) (c n : Nat) (b : BengCmd) (rest : List BengCmd), (s.cell c).beng = b :: rest → b.running = true →
    s.runs c = true → b.next ≤ (s.cell c).cyc → bit b.sig.toNat 16 = false → b.dst % 64 = 0 → b.len = n + 1 → b.lines = n → s.spmCheck c (b.dst + 64 * n) 7 false = none →
    b.op = 1 ∨ b.op = 3 →
    ∃ t, exec (.bengCommandDone c 0) s = .next t ∧ (t.cell c).beng = rest ∧
      t.fld (cellKey c SPM_BENG_STAT) 8 24 = (s.fld (cellKey c SPM_BENG_STAT) 8 24 + 1) % 2 ^ 24 ∧
      (∀ i, i < 8 → if b.op = 1 then t.wordAt c (b.dst + 64 * n + 8 * i) = b.pat.toNat ∧ t.chkAt c (b.dst + 64 * n + 8 * i) = eccByte b.pat.toNat
        else t.wordAt c (b.dst + 64 * n + 8 * i) = 0 ∧ t.chkAt c (b.dst + 64 * n + 8 * i) = 0xFF) ∧
      (∀ k, (∀ i, i < 64 → k ≠ spmKey c (b.dst + 64 * n + i) ∧ k ≠ spmChkKey c (b.dst + 64 * n + i)) → t.byte k = s.byte k) ∧
      s.regsBut t [cellKey c SPM_BENG_STAT] ∧ t.err = s.err ∧ s.cellsBut t c) ∧
  (∀ (s : State) (c n : Nat) (b : BengCmd) (rest : List BengCmd), (s.cell c).beng = b :: rest → b.running = true →
    s.runs c = true → b.next ≤ (s.cell c).cyc → b.op = 2 → b.src % 64 = 0 → b.dst % 64 = 0 → b.len = n + 1 → b.lines = n → s.spmCheck c (b.src + 64 * n) 7 false = none →
    s.spmCheck c (b.dst + 64 * n) 7 false = none →
    (∀ i, i < 8 → judge (s.wordAt c (b.src + 64 * n + 8 * i)) (s.chkAt c (b.src + 64 * n + 8 * i)) = .good) →
    bit b.sig.toNat 16 = true →
    ∃ t, exec (.bengCommandDone c 0) s = .next t ∧
      (∀ i, i < 8 → t.wordAt c (b.dst + 64 * n + 8 * i) = s.wordAt c (b.src + 64 * n + 8 * i)) ∧
      t.fld (cellKey c SPM_BENG_STAT) 8 24 = (s.fld (cellKey c SPM_BENG_STAT) 8 24 + 1) % 2 ^ 24 ∧
      (t.cell c).sigs = (s.cell c).sigs ++
        [((s.cell c).rcyc, ⟨bits b.sig.toNat 0 6, bits b.sig.toNat 6 2, bits b.sig.toNat 8 8, s.logicalOf c, false⟩)] ∧
      s.regsBut t [cellKey c SPM_BENG_STAT] ∧ t.err = s.err ∧ s.cellsBut t c))

/-! ### Cores (R159-R168) -/

/-- The model's choice (log 21: the base instructions are RV32IMC's, R160 names the set). Integer instructions of the cores: ADDI, ADD, SUB, LUI, AUIPC,
JAL, BEQ and the division corners, each on any registers; register 0 reads zero and is never written. -/
def Obligations.IntegerInstructionsCompute : Prop :=
  (∀ (x : CoreSt) (rd rs imm cyc h : Nat), x.x.length = 32 → rd < 32 → rs < 32 → imm < 4096 →
    ∃ y, execScalar x (encI 0x13 0 rd rs imm) 4 cyc h = some y ∧ y.pcn = (x.pcn + 4) % 2 ^ 32 ∧
      (∀ r, r < 32 → y.xr r = if r = rd ∧ rd ≠ 0 then (x.xr rs + sext32 12 imm) % 2 ^ 32 else x.xr r) ∧ y.f = x.f ∧ y.v = x.v ∧ y.csr = x.csr) ∧
  (∀ (x : CoreSt) (rd rs1 rs2 cyc h : Nat), x.x.length = 32 → rd < 32 → rs1 < 32 → rs2 < 32 →
    (∃ y, execScalar x (encR 0x33 0 0 rd rs1 rs2) 4 cyc h = some y ∧
      ∀ r, r < 32 → y.xr r = if r = rd ∧ rd ≠ 0 then (x.xr rs1 + x.xr rs2) % 2 ^ 32 else x.xr r) ∧
    (∃ y, execScalar x (encR 0x33 0 0x20 rd rs1 rs2) 4 cyc h = some y ∧
      ∀ r, r < 32 → y.xr r = if r = rd ∧ rd ≠ 0 then (x.xr rs1 + 2 ^ 32 - x.xr rs2) % 2 ^ 32 else x.xr r) ∧
    (x.xr rs2 = 0 → ∃ y, execScalar x (encR 0x33 4 1 rd rs1 rs2) 4 cyc h = some y ∧
      ∀ r, r < 32 → y.xr r = if r = rd ∧ rd ≠ 0 then 0xFFFFFFFF else x.xr r) ∧
    (x.xr rs2 = 0 → ∃ y, execScalar x (encR 0x33 7 1 rd rs1 rs2) 4 cyc h = some y ∧
      ∀ r, r < 32 → y.xr r = if r = rd ∧ rd ≠ 0 then x.xr rs1 else x.xr r)) ∧
  (∀ (x : CoreSt) (rd imm cyc h : Nat), x.x.length = 32 → rd < 32 → imm < 2 ^ 20 →
    (∃ y, execScalar x (0x37 + rd * 2 ^ 7 + imm * 2 ^ 12) 4 cyc h = some y ∧
      ∀ r, r < 32 → y.xr r = if r = rd ∧ rd ≠ 0 then imm * 2 ^ 12 else x.xr r) ∧
    (∃ y, execScalar x (0x17 + rd * 2 ^ 7 + imm * 2 ^ 12) 4 cyc h = some y ∧
      ∀ r, r < 32 → y.xr r = if r = rd ∧ rd ≠ 0 then (x.pcn + imm * 2 ^ 12) % 2 ^ 32 else x.xr r)) ∧
  (∀ (x : CoreSt) (rd off cyc h : Nat), x.x.length = 32 → rd < 32 → off < 2 ^ 20 → off % 2 = 0 →
    ∃ y, execScalar x (encJ rd off) 4 cyc h = some y ∧ y.pcn = (x.pcn + off) % 2 ^ 32 ∧
      ∀ r, r < 32 → y.xr r = if r = rd ∧ rd ≠ 0 then (x.pcn + 4) % 2 ^ 32 else x.xr r) ∧
  (∀ (x : CoreSt) (rs1 rs2 off cyc h : Nat), rs1 < 32 → rs2 < 32 → off < 2 ^ 12 → off % 2 = 0 →
    ∃ y, execScalar x (encB 0 rs1 rs2 off) 4 cyc h = some y ∧ y.x = x.x ∧
      y.pcn = if x.xr rs1 = x.xr rs2 then (x.pcn + off) % 2 ^ 32 else (x.pcn + 4) % 2 ^ 32)

/-- R160, R162, R164. CORE_INSTRUCTION: a scalar or vector instruction that touches no memory takes the core to the state its execution
gives; nothing else but the region's activity changes. An exception (here ECALL, an illegal word, a fetch beyond the store) enters the
handler at mtvec with TRAP_EN outside a handler, and otherwise stops the core with STATE 3 and class 0x29; the trap registers hold
cause, pc and value. -/
def Obligations.CoreInstructionsIssue : Prop :=
  (∀ (s : State) (c w len raw : Nat) (k : CoreSel) (y : CoreSt), s.issues c k .other w len raw → scalarMem (s.core c k) w = none →
    w ≠ 0x73 → w ≠ 0x00100073 → opc w ≠ 0x57 → execScalar (s.core c k) w len (s.cell c).cyc (State.hartOf k) = some y →
    ∃ t, exec (.coreInstruction c k) s = .next t ∧ t.core c k = y ∧ s.coresBut t c k ∧ t.mem = s.mem ∧ t.regs = s.regs ∧ t.err = s.err ∧
      t.mxe c = s.mxe c) ∧
  (∀ (s : State) (c w len raw : Nat) (k : CoreSel) (y : CoreSt), s.issues c k .other w len raw → scalarMem (s.core c k) w = none →
    opc w = 0x57 → execVector (s.core c k) w = some y →
    ∃ t, exec (.coreInstruction c k) s = .next t ∧ t.core c k = y.goto ((s.core c k).pcn + len) ∧ s.coresBut t c k ∧ t.mem = s.mem ∧
      t.regs = s.regs ∧ t.err = s.err) ∧
  (∀ (s : State) (c len raw : Nat) (k : CoreSel), s.issues c k .other 0x73 len raw → s.fld (State.coreKey c k HEAD_CTRL) 1 1 = 1 →
    (s.core c k).inHandler = false → (s.core c k).csrOf 0x305 % 4 = 0 →
    ∃ t, exec (.coreInstruction c k) s = .next t ∧ (t.core c k).pcn = (s.core c k).csrOf 0x305 ∧ (t.core c k).inHandler = true ∧
      (t.core c k).csrOf 0x341 = (s.core c k).pcn ∧ (t.core c k).csrOf 0x342 = 11 ∧ (t.core c k).st = 1 ∧ (t.core c k).x = (s.core c k).x ∧
      (t.reg (State.coreKey c k HEAD_TRAP_CAUSE)).toNat = 11 ∧ t.err = s.err ∧ t.mem = s.mem) ∧
  (∀ (s : State) (c w len raw : Nat) (k : CoreSel), s.issues c k .other w len raw → scalarMem (s.core c k) w = none →
    opc w ≠ 0x57 → w ≠ 0x73 → w ≠ 0x00100073 → execScalar (s.core c k) w len (s.cell c).cyc (State.hartOf k) = none →
    s.fld (State.coreKey c k HEAD_CTRL) 1 1 = 0 →
    ∃ t, exec (.coreInstruction c k) s = .next t ∧ (t.core c k).st = 3 ∧ (t.reg (State.coreKey c k HEAD_TRAP_CAUSE)).toNat = 2 ∧
      (t.reg (State.coreKey c k HEAD_TRAP_PC)).toNat = (s.core c k).pcn ∧ t.fld (State.coreKey c k HEAD_CTRL) 0 1 = 0 ∧ t.mem = s.mem ∧
      s.coresBut t c k ∧ s.logs t 0x29 (.cell c 0) (2 + State.hartOf k * 2 ^ 32)) ∧
  (∀ (s : State) (c : Nat) (k : CoreSel), s.canIssue c k = true → s.atKernel c k = false → 0x8000 ≤ (s.core c k).pcn →
    s.fld (State.coreKey c k HEAD_CTRL) 1 1 = 0 →
    ∃ t, exec (.coreInstruction c k) s = .next t ∧ (t.core c k).st = 3 ∧ (t.reg (State.coreKey c k HEAD_TRAP_CAUSE)).toNat = 1 ∧
      s.logs t 0x29 (.cell c 0) (1 + State.hartOf k * 2 ^ 32))

/-- R154, R161, R164, R166, R167. CORE_LOAD: an aligned load from a bank the core owns gives the word's bytes, or the merge buffer's where it
holds them all; a refused one stops the core with STATE 3 and logs R154's class. CORE_STORE: an aligned store enters the merge buffer,
memory unchanged. CORE_VECTOR_ACCESS: an illegal vector access traps with cause 2 and an access of no elements only goes on. -/
def Obligations.LoadsAndStoresReachScratchpad : Prop :=
  (∀ (s : State) (c w len raw v o : Nat) (k : CoreSel) (m : SMem), s.issues c k .load w len raw → scalarMem (s.core c k) w = some m →
    m.fp = false → m.r < 32 → (s.core c k).x.length = 32 → regionOf m.addr = .spm → o = m.addr - 0x10000000 → m.addr % m.len = 0 → m.len ≤ 8 →
    s.spmCheckRun c o m.len (State.corePort k) false = none → (∀ e ∈ (s.core c k).mb, e.word ≠ o / 8) →
    judge (s.wordAt c o) (s.chkAt c o) = .good → loadVal m.f3 (s.bytes (spmKey c o) m.len) = BitVec.ofNat 32 v → v < 2 ^ 32 →
    ∃ t, exec (.coreLoad c k) s = .next t ∧ (∀ r, r < 32 → (t.core c k).xr r = if r = m.r ∧ m.r ≠ 0 then v else (s.core c k).xr r) ∧
      (t.core c k).pcn = ((s.core c k).pcn + len) % 2 ^ 32 ∧ (t.core c k).mb = (s.core c k).mb ∧ t.mem = s.mem ∧ t.regs = s.regs ∧
      t.err = s.err ∧ s.coresBut t c k) ∧
  (∀ (s : State) (c w len raw o a cls r : Nat) (k : CoreSel) (m : SMem), s.issues c k .load w len raw → scalarMem (s.core c k) w = some m →
    regionOf m.addr = .spm → m.addr % m.len = 0 → s.spmCheckRun c (m.addr - 0x10000000) m.len (State.corePort k) false = some (o, cls, r) →
    a = m.addr →
    ∃ t e, exec (.coreLoad c k) s = .next t ∧ (t.core c k).st = 3 ∧ (t.core c k).x = (s.core c k).x ∧ t.mem = s.mem ∧
      (t.reg (State.coreKey c k HEAD_TRAP_CAUSE)).toNat = 5 ∧ t.reg (State.coreKey c k HEAD_TRAP_VAL) = BitVec.ofNat 64 a ∧
      t.err.recQ = s.err.recQ ++ [e] ∧ e.cls = cls ∧ e.struck = some c ∧ s.coresBut t c k) ∧
  (∀ (s : State) (c w len raw o : Nat) (k : CoreSel) (m : SMem), s.issues c k .store w len raw → scalarMem (s.core c k) w = some m →
    regionOf m.addr = .spm → o = m.addr - 0x10000000 → m.addr % m.len = 0 →
    s.spmCheckRun c o m.len (State.corePort k) false = none → (∀ e ∈ (s.core c k).mb, e.word ≠ o / 8) → (s.core c k).mb.length < 4 →
    ∃ t e, exec (.coreStore c k) s = .next t ∧ (t.core c k).mb = (s.core c k).mb ++ [e] ∧ e.word = o / 8 ∧ e.last = (s.cell c).cyc ∧
      State.mbBytes e = (m.data (s.core c k)).zipIdx.map (fun p => (o % 8 + p.2, p.1)) ∧ (t.core c k).pcn = ((s.core c k).pcn + len) % 2 ^ 32 ∧
      (t.core c k).x = (s.core c k).x ∧ t.mem = s.mem ∧ t.regs = s.regs ∧ t.err = s.err ∧ s.coresBut t c k) ∧
  (∀ (s : State) (c w len raw : Nat) (k : CoreSel), s.issues c k .vector w len raw → vMemOf (s.core c k) w = none →
    s.fld (State.coreKey c k HEAD_CTRL) 1 1 = 0 →
    ∃ t, exec (.coreVectorAccess c k) s = .next t ∧ (t.core c k).st = 3 ∧ t.mem = s.mem ∧
      s.logs t 0x29 (.cell c 0) (2 + State.hartOf k * 2 ^ 32)) ∧
  (∀ (s : State) (c w len raw a reg el o : Nat) (k : CoreSel), s.issues c k .vector w len raw →
    vMemOf (s.core c k) w = some ⟨false, 32, false, [⟨0, reg, el, a⟩]⟩ → regionOf a = .spm → a < 0x10170000 → a % 4 = 0 → o = a - 0x10000000 →
    s.spmCheckRun c o 4 (State.corePort k) false = none → (∀ e ∈ (s.core c k).mb, e.word ≠ o / 8) →
    judge (s.wordAt c o) (s.chkAt c o) = .good → reg < 32 → el < 8 → (s.core c k).v.length = 32 →
    ∃ t, exec (.coreVectorAccess c k) s = .next t ∧ vGet (t.core c k).v reg 32 el = ofLe (s.bytes (spmKey c o) 4) ∧
      (∀ r, r < 32 → r ≠ reg → (t.core c k).v[r]? = (s.core c k).v[r]?) ∧ (t.core c k).pcn = ((s.core c k).pcn + len) % 2 ^ 32 ∧
      (t.core c k).x = (s.core c k).x ∧ t.mem = s.mem ∧ t.err = s.err ∧ s.coresBut t c k)

/-- R161, R166. MERGE_ENTRY_WRITE writes a complete entry's word with fresh check bits and frees the entry; MERGE_AGE_EVICT merges the bytes of
an entry of AGE cycles into its word. FENCE, with an empty buffer and no store outstanding, lets the core go on. -/
def Obligations.MergeBuffersDrain : Prop :=
  (∀ (s : State) (c : Nat) (k : CoreSel) (e : MbEntry), s.runs c = true → (s.core c k).mb.find? (fun e => e.valid == 0xFF) = some e →
    s.spmCheck c (e.word * 8) (State.corePort k) false = none →
    ∃ t, exec (.mergeEntryWrite c k) s = .next t ∧ (t.core c k).mb = (s.core c k).mb.filter (fun f => f.word != e.word) ∧
      t.wordAt c (e.word * 8) = e.data.toNat ∧ t.chkAt c (e.word * 8) = eccByte e.data.toNat ∧
      (∀ q, (∀ i, i < 8 → q ≠ spmKey c (e.word * 8 + i)) → q ≠ spmChkKey c (e.word * 8) → t.byte q = s.byte q) ∧
      t.regs = s.regs ∧ t.err = s.err ∧ s.coresBut t c k) ∧
  (∀ (s : State) (c : Nat) (k : CoreSel) (e : MbEntry), s.runs c = true → s.fld (cellKey c SPM_MB_AGE) 0 6 ≠ 0 →
    (s.core c k).mb.find? (fun e => e.valid != 0xFF && decide (e.last + s.fld (cellKey c SPM_MB_AGE) 0 6 ≤ (s.cell c).cyc)) = some e →
    s.spmCheck c (e.word * 8) (State.corePort k) false = none → judge (s.wordAt c (e.word * 8)) (s.chkAt c (e.word * 8)) = .good →
    ∃ t, exec (.mergeAgeEvict c k) s = .next t ∧ (t.core c k).mb = (s.core c k).mb.filter (fun f => f.word != e.word) ∧
      (∀ i, i < 8 → t.byte (spmKey c (e.word * 8 + i)) =
        if e.valid.getLsbD i then BitVec.ofNat 8 (e.data.toNat / 256 ^ i) else s.byte (spmKey c (e.word * 8 + i))) ∧
      t.chkAt c (e.word * 8) = eccByte (t.wordAt c (e.word * 8)) ∧
      (∀ q, (∀ i, i < 8 → q ≠ spmKey c (e.word * 8 + i)) → q ≠ spmChkKey c (e.word * 8) → t.byte q = s.byte q) ∧
      t.regs = s.regs ∧ t.err = s.err ∧ s.coresBut t c k) ∧
  (∀ (s : State) (c w len raw : Nat) (k : CoreSel), s.issues c k .fence w len raw → (s.core c k).mb = [] → (s.core c k).farStores = 0 →
    ∃ t, exec (.fence c k) s = .next t ∧ t.core c k = (s.core c k).goto ((s.core c k).pcn + len) ∧ t.mem = s.mem ∧ t.regs = s.regs ∧
      t.err = s.err ∧ s.coresBut t c k) ∧
  (∀ (s : State) (c w len raw : Nat) (k : CoreSel), s.issues c k .fence w len raw → (s.core c k).mb = [] → (s.core c k).farStores ≠ 0 →
    ∃ t, exec (.fence c k) s = .next t ∧ t.core c k = s.core c k ∧ t.mem = s.mem)

/-- R161, R164, R203, R205. CONTROL_WINDOW_STORE writes the register of the own window. FAR_WINDOW_LOAD sends a read request and the core
waits; FAR_WINDOW_STORE sends a write request and the core goes on with one store more outstanding. FAR_LOAD_RESPONSE gives the data to the
waiting core, or stops it with STATE 3 where the response says it was refused. -/
def Obligations.WindowsReachRegistersAndMesh : Prop :=
  (∀ (s : State) (c w len raw n : Nat) (k : CoreSel) (m : SMem), s.issues c k .ctlStore w len raw → scalarMem (s.core c k) w = some m →
    m.len = 4 → m.fp = false → n < 8 → m.addr = 0x20000000 + MXE_DESC + 4 * n → (s.core c k).heldStores = [] → c < 18432 →
    ∃ t, exec (.controlWindowStore c k) s = .next t ∧ (t.reg (cellKey c (MXE_DESC + 4 * n))).toNat = (s.core c k).xr m.r ∧
      s.regsBut t [cellKey c (MXE_DESC + 4 * n)] ∧ t.core c k = (s.core c k).goto ((s.core c k).pcn + len) ∧ t.mem = s.mem ∧ t.err = s.err ∧
      s.coresBut t c k) ∧
  (∀ (s : State) (c w len raw : Nat) (k : CoreSel) (m : SMem) (x y : Nat), s.issues c k .farLoad w len raw →
    scalarMem (s.core c k) w = some m → m.addr % m.len = 0 → s.dest (s.farAddr c k m.addr) m.len = .cell x y →
    ∃ t p, exec (.farWindowLoad c k) s = .next t ∧ t.net = s.net ++ [p] ∧ p.ptype = 2 ∧ p.addr = s.farAddr c k m.addr ∧ p.blen = m.len ∧
      p.x = x ∧ p.y = y ∧ p.tag = (s.cell c).nextTag ∧ p.src = .far c k ∧ p.pos = .router c 0 ∧
      ((t.core c k).far).map (fun f => (f.tag, f.rd)) = some (p.tag, m.r) ∧ (t.core c k).pc = (s.core c k).pc ∧ t.mem = s.mem ∧
      t.regs = s.regs ∧ t.err = s.err ∧ s.coresBut t c k) ∧
  (∀ (s : State) (c w len raw : Nat) (k : CoreSel) (m : SMem) (x y : Nat), s.issues c k .farStore w len raw →
    scalarMem (s.core c k) w = some m → m.addr % m.len = 0 → s.dest (s.farAddr c k m.addr) m.len = .cell x y →
    ∃ t p, exec (.farWindowStore c k) s = .next t ∧ t.net = s.net ++ [p] ∧ p.ptype = 1 ∧ p.addr = s.farAddr c k m.addr ∧
      p.data = m.data (s.core c k) ∧ p.ackreq = true ∧ p.x = x ∧ p.y = y ∧ p.src = .far c k ∧
      (t.core c k).farStores = (s.core c k).farStores + 1 ∧ (t.core c k).pcn = ((s.core c k).pcn + len) % 2 ^ 32 ∧
      t.mem = s.mem ∧ t.regs = s.regs ∧ t.err = s.err ∧ s.coresBut t c k) ∧
  (∀ (s : State) (c i : Nat) (k : CoreSel) (p : Pkt) (f : FarLoad), s.pktOf i 3 = some p → (s.core c k).far = some f → p.pos = .landed c →
    p.tag = f.tag → s.runs c = true → p.status = 0 → f.fp = false → f.rd < 32 → (s.core c k).x.length = 32 →
    ∃ t, exec (.farLoadResponse c k i) s = .next t ∧ (t.core c k).far = none ∧
      (∀ r, r < 32 → (t.core c k).xr r = if r = f.rd ∧ f.rd ≠ 0 then (loadVal f.funct3 p.data).toNat else (s.core c k).xr r) ∧
      (t.core c k).pcn = ((s.core c k).pcn + f.len) % 2 ^ 32 ∧ t.net = s.net.eraseIdx i ∧ t.mem = s.mem ∧ t.regs = s.regs ∧
      t.err = s.err ∧ s.coresBut t c k) ∧
  (∀ (s : State) (c i : Nat) (k : CoreSel) (p : Pkt) (f : FarLoad), s.pktOf i 3 = some p → (s.core c k).far = some f → p.pos = .landed c →
    p.tag = f.tag → s.runs c = true → p.status = 1 →
    ∃ t, exec (.farLoadResponse c k i) s = .next t ∧ (t.core c k).st = 3 ∧ (t.core c k).x = (s.core c k).x ∧
      (t.reg (State.coreKey c k HEAD_TRAP_CAUSE)).toNat = 5 ∧ t.net = s.net.eraseIdx i ∧ t.mem = s.mem ∧ s.coresBut t c k)

/-! ### Starting and stopping cores, instruction stores, the test kernel (R164-R166, R182, R243, R250, R251) -/

/-- R165, R182, R243. CORE_START: a stopped core of a primed cell runs from BOOT_PC with integer, FP and vector registers zero; a write of RUN = 1 to
a running core is ignored. CORE_STOP: a running core stops with STATE 0 and RUN clears; when it was the last started core of a
running job, the job is done at the end of the cycle. A core whose instruction is not over, or whose cell is held, takes RUN = 0, issues nothing more and stops when it is. IMEM_LOAD of firmware into a stopped core is taken; a refused one writes REASON and logs class 0x2A, nothing else changes.
IMEM_LOAD_COMPLETE of one line of good words copies it from the reserved sub-array with fresh check bits. -/
def Obligations.CoresStartStopAndLoadCode : Prop :=
  ((∀ (s : State) (c : Nat) (k : CoreSel), s.primed c = true → (s.core c k).st = 0 ∨ (s.core c k).st = 2 ∨ (s.core c k).st = 3 →
    ∃ t, exec (.coreStart c k) s = .next t ∧ (t.core c k).st = 1 ∧ (t.core c k).pcn = 2 * s.fld (State.coreKey c k HEAD_BOOT_PC) 1 14 ∧
      (∀ r, (t.core c k).xr r = 0 ∧ (t.core c k).fr r = 0) ∧ (∀ r : Nat, (((t.core c k).v : List (BitVec 256))[r]?).getD 0 = 0) ∧
      t.fld (State.coreKey c k HEAD_CTRL) 0 1 = 1 ∧ (t.core c k).inHandler = false ∧
      s.regsBut t [State.coreKey c k HEAD_CTRL] ∧ t.mem = s.mem ∧ s.coresBut t c k ∧ t.err = s.err) ∧
  (∀ (s : State) (c : Nat) (k : CoreSel), (s.core c k).st = 1 ∨ s.primed c = false →
    ∃ t, exec (.coreStart c k) s = .next t ∧ t.cells = s.cells ∧ t.regs = s.regs ∧ t.mem = s.mem) ∧
  (∀ (s : State) (c : Nat) (k : CoreSel), (s.core c k).st = 1 → (s.core c k).mb = [] → s.coreBusy c k = false →
    s.job? (s.jobOf c) = none →
    ∃ t, exec (.coreStop c k) s = .next t ∧ (t.core c k).st = 0 ∧ (t.core c k).x = (s.core c k).x ∧
      t.fld (State.coreKey c k HEAD_CTRL) 0 1 = 0 ∧ s.regsBut t [State.coreKey c k HEAD_CTRL] ∧ t.mem = s.mem ∧ s.coresBut t c k ∧ t.err = s.err) ∧
  (∀ (s : State) (c : Nat) (k : CoreSel), (s.core c k).st = 1 → s.coreBusy c k = true →
    ∃ t, exec (.coreStop c k) s = .next t ∧ t.core c k = { s.core c k with stopReq := true } ∧ t.canIssue c k = false ∧
      t.fld (State.coreKey c k HEAD_CTRL) 0 1 = 0 ∧ s.regsBut t [State.coreKey c k HEAD_CTRL] ∧ t.mem = s.mem ∧ s.coresBut t c k ∧ t.err = s.err) ∧
  (∀ (s : State) (c : Nat) (k : CoreSel) (j : Job), (s.core c k).st = 1 → (s.core c k).mb = [] → s.coreBusy c k = false → s.job? (s.jobOf c) = some j → j.state = 3 →
    j.starts = [(c, k)] →
    ∃ t, exec (.coreStop c k) s = .next t ∧ (t.core c k).st = 0 ∧ t.job? (s.jobOf c) = some j ∧ t.jobsSettle.job? (s.jobOf c) = some { j with state := 4 } ∧
      s.coresBut t c k ∧ t.err = s.err)) ∧
  ((∀ (s : State) (c : Nat) (k : CoreSel) (v : Word), s.primed c = true → s.imemReason c k .firmware v = 0 →
    ∃ t, exec (.imemLoad c k .firmware v) s = .next t ∧
      (t.core c k).imem = some ⟨bits v.toNat 0 10, bits v.toNat 10 10, bits v.toNat 20 9⟩ ∧ (t.core c k).st = (s.core c k).st ∧
      1 ≤ bits v.toNat 0 10 ∧ bits v.toNat 0 10 ≤ 512 ∧ (s.core c k).st ≠ 1 ∧ t.regs = s.regs ∧ t.mem = s.mem ∧ t.err = s.err ∧
      s.coresBut t c k) ∧
  (∀ (s : State) (c r : Nat) (k : CoreSel) (req : Req) (v : Word), s.primed c = true → s.imemReason c k req v = r → r ≠ 0 → s.load = none →
    ∃ t, exec (.imemLoad c k req v) s = .next t ∧ t.fld (State.coreKey c k HEAD_IMEM_STAT) 1 3 = r ∧ t.cells = s.cells ∧ t.mem = s.mem ∧
      (req ≠ .firmware → r = 1) ∧ s.regsBut t [State.coreKey c k HEAD_IMEM_STAT] ∧ s.logs t 0x2A (.cell c 0) (State.imemDetail k r)) ∧
  (∀ (s : State) (c src dst : Nat) (k : CoreSel), (s.core c k).imem = some ⟨1, src, dst⟩ → src < 1024 → dst < 512 → s.load = none →
    (∀ i, i < 8 → judge (s.wordAt c (0x170000 + 64 * src + 8 * i)) (s.chkAt c (0x170000 + 64 * src + 8 * i)) = .good) →
    ∃ t, exec (.imemLoadComplete c k) s = .next t ∧ (t.core c k).imem = none ∧
      (∀ i, i < 8 → t.imemWord c k (64 * dst + 8 * i) = s.wordAt c (0x170000 + 64 * src + 8 * i) ∧
        t.imemChk c k (64 * dst + 8 * i) = eccByte (s.wordAt c (0x170000 + 64 * src + 8 * i))) ∧
      (∀ q, (∀ i, i < 64 → q ≠ imemKey c k (64 * dst + i) ∧ q ≠ imemChkKey c k (64 * dst + i)) → t.byte q = s.byte q) ∧
      t.regs = s.regs ∧ t.err = s.err ∧ s.coresBut t c k))


/-- The model's choices for the kernel's own program (the log's entry on the test kernel) within R201, R250, R251, R439. TEST_KERNEL_CALL reads STEP_ENGINE
over the mesh, and a read that meets no usable link stops the core. With the number read, it outside the cell's step slot returns
with every register the calling convention preserves and all memory unchanged; in it, a pass writes the cell's test step and time, and a
failure logs class 0x2D and stops the core. -/
def Obligations.TestKernelReturnsOrReports : Prop :=
  (∀ (s v : State) (c : Nat) (k : CoreSel) (u : Option Nat), s.canIssue c k = true → s.atKernel c k = true →
    s.cellAsks c (.far c k) s.ctlDie (4 * 2 ^ 44 + STEP_ENGINE) 4 = (v, 0) →
    (s.stepEngine + 512 - bits ((s.core c k).csrOf 0xFC0) 0 8 - bits ((s.core c k).csrOf 0xFC0) 8 7) % 64 ≠ 0 →
    ∃ t, exec (.testKernelCall c k u) s = .next t ∧ (t.core c k).pcn = (s.core c k).xr 1 / 2 * 2 ∧
      (∀ r, r < 32 → r ∉ State.callerX → (t.core c k).xr r = (s.core c k).xr r) ∧ (t.core c k).csr = (s.core c k).csr ∧
      (t.core c k).v = (s.core c k).v ∧ t.mem = s.mem ∧ t.regs = v.regs ∧ t.err = v.err ∧ s.coresBut t c k) ∧
  (∀ (s v : State) (c : Nat), s.canIssue c .tail = true → s.atKernel c .tail = true →
    s.cellAsks c (.far c .tail) s.ctlDie (4 * 2 ^ 44 + STEP_ENGINE) 4 = (v, 0) →
    (s.stepEngine + 512 - bits ((s.core c .tail).csrOf 0xFC0) 0 8 - bits ((s.core c .tail).csrOf 0xFC0) 8 7) % 64 = 0 →
    v.spmCheckRun c ((s.core c .tail).xr 10 / 4096 * 4096) 4096 6 false = none →
    ∃ t, exec (.testKernelCall c .tail none) s = .next t ∧ (t.core c .tail).pcn = (s.core c .tail).xr 1 / 2 * 2 ∧
      t.reg (cellKey c ERR_RT_STEP) = v.reg (ecKey STEP_ENGINE) ∧ t.fld (cellKey c ERR_RT_TIME) 0 64 = s.facility % 2 ^ 64 ∧
      v.regsBut t [cellKey c ERR_RT_STEP, cellKey c ERR_RT_TIME] ∧
      (∀ q, (∀ i, i < 4096 → q ≠ spmKey c ((s.core c .tail).xr 10 / 4096 * 4096 + i) ∧
        q ≠ spmChkKey c ((s.core c .tail).xr 10 / 4096 * 4096 + i)) → t.byte q = s.byte q) ∧ t.err = v.err) ∧
  (∀ (s v : State) (c u : Nat), s.canIssue c .tail = true → s.atKernel c .tail = true →
    s.cellAsks c (.far c .tail) s.ctlDie (4 * 2 ^ 44 + STEP_ENGINE) 4 = (v, 0) →
    (s.stepEngine + 512 - bits ((s.core c .tail).csrOf 0xFC0) 0 8 - bits ((s.core c .tail).csrOf 0xFC0) 8 7) % 64 = 0 →
    v.spmCheckRun c ((s.core c .tail).xr 10 / 4096 * 4096) 4096 6 false = none →
    ∃ t, exec (.testKernelCall c .tail (some u)) s = .next t ∧ (t.core c .tail).st = (if v.haltable c then 2 else 3) ∧
      v.logs t 0x2D (.cell c 0) 1) ∧
  (∀ (s v : State) (c n : Nat) (k : CoreSel) (u : Option Nat), s.canIssue c k = true → s.atKernel c k = true →
    s.cellAsks c (.far c k) s.ctlDie (4 * 2 ^ 44 + STEP_ENGINE) 4 = (v, n + 1) →
    ∃ t, exec (.testKernelCall c k u) s = .next t ∧ (t.core c k).st = 3 ∧ (t.reg (State.coreKey c k HEAD_TRAP_CAUSE)).toNat = 5 ∧
      (t.core c k).x = (s.core c k).x ∧ t.mem = s.mem ∧ t.err = v.err ∧ s.coresBut t c k)

/-! ### Sync counters (R216-R221, R226) -/

/-- R216, R217, R223, R226. SYNC_ARM sets COUNT and EPOCH; an upset of the block's state shows as class 0x3B where corrected, else as class
0x3A. A signal whose epoch matches adds its increment and saturates at 0xF_FFFF with class 0x38; one of
another epoch is dropped and counted. (A landed signal packet is judged so.) MC_LAND_ADD adds to the landing count. SYNC_SIG_WRITE: a signal to a cell of the canvas leaves as a signal packet (multicast with MC = 1) with the fields
written, an INC of 0 sent as 1; a counter above 47 is refused with class 0x34, nothing sent. -/
def Obligations.CountersTakeAndSendSignals : Prop :=
  ((∀ (s : State) (c n e : Nat) (v : Word), n < 48 →
    ∃ t, exec (.syncArm c n v e) s = .next t ∧ t.count c n = bits v.toNat 0 20 ∧ t.epoch c n = bits v.toNat 20 2 ∧
      s.regsBut t (if e = 1 ∨ e = 2 then [ctrKey c n, cellKey c RTR_ERR_LAST] else [ctrKey c n]) ∧ t.cells = s.cells ∧
      (e = 1 → s.logs t 0x3B (.cell c 0) 0) ∧ (e = 2 → s.logs t 0x3A (.cell c 0) 0) ∧ (e ≠ 1 → e ≠ 2 → t.err = s.err)) ∧
  (∀ (s : State) (c late : Nat) (g : Signal), ((s.applySignal c late g).cell c).sigs = (s.cell c).sigs ++ [((s.cell c).rcyc + late, g)] ∧
    (s.applySignal c late g).regs = s.regs ∧ (s.applySignal c late g).err = s.err ∧ s.cellsBut (s.applySignal c late g) c) ∧
  (∀ (s : State) (c n : Nat), n < 48 → (s.cell c).sigs ≠ [] →
    (∀ p ∈ (s.cell c).sigs, p.1 ≤ (s.cell c).rcyc ∧ p.2.ctr = n ∧ p.2.epoch = s.epoch c n) →
    ((s.syncCycle c).cell c).sigs = [] ∧ (s.syncCycle c).epoch c n = s.epoch c n ∧
      (s.count c n + ((s.cell c).sigs.map fun p => p.2.inc).sum ≤ 0xFFFFF →
        (s.syncCycle c).count c n = s.count c n + ((s.cell c).sigs.map fun p => p.2.inc).sum ∧ s.regsBut (s.syncCycle c) [ctrKey c n] ∧
          (s.syncCycle c).err = s.err) ∧
      (0xFFFFF < s.count c n + ((s.cell c).sigs.map fun p => p.2.inc).sum →
        (s.syncCycle c).count c n = 0xFFFFF ∧
          (s.syncCycle c).fld (cellKey c (if n < 32 then SYNC_SAT_LO else SYNC_SAT_HI)) (n % 32) 1 = 1 ∧
          s.regsBut (s.syncCycle c) [ctrKey c n, cellKey c (if n < 32 then SYNC_SAT_LO else SYNC_SAT_HI)] ∧
          s.logs (s.syncCycle c) 0x38 (.cell c 0) 0)) ∧
  (∀ (s : State) (c n : Nat) (g : Signal), (s.cell c).sigs = [(n, g)] → n ≤ (s.cell c).rcyc → g.epoch ≠ s.epoch c g.ctr → g.ctr < 48 →
    s.written (cellKey c SYNC_STALE_CNT) = false →
    (s.syncCycle c).count c g.ctr = s.count c g.ctr ∧
      (s.syncCycle c).fld (cellKey c SYNC_STALE_CNT) 0 16 = min (s.fld (cellKey c SYNC_STALE_CNT) 0 16 + 1) 0xFFFF ∧
      s.regsBut (s.syncCycle c) [cellKey c SYNC_STALE_CNT, cellKey c SYNC_STALE_LAST]) ∧
  (∀ (s : State) (c n : Nat) (g : Signal), (s.cell c).sigs = [(n, g)] → (s.cell c).rcyc < n → (s.syncCycle c).regs = s.regs ∧
    (s.syncCycle c).cell c = s.cell c ∧ (s.syncCycle c).err = s.err) ∧
  (∀ (s : State) (c e : Nat) (v : Word), ∃ t, exec (.mcLandAdd c v e) s = .next t ∧
    t.fld (cellKey c RTR_MC_LAND) 0 16 = min (s.fld (cellKey c RTR_MC_LAND) 0 16 + bits v.toNat 0 16) 0xFFFF ∧
    s.regsBut t (if e = 1 ∨ e = 2 then [cellKey c RTR_MC_LAND, cellKey c RTR_ERR_LAST] else [cellKey c RTR_MC_LAND]) ∧ t.cells = s.cells ∧
    (e = 1 → s.logs t 0x3B (.cell c 0) 0) ∧ (e = 2 → s.logs t 0x3A (.cell c 0) 0) ∧ (e ≠ 1 → e ≠ 2 → t.err = s.err))) ∧
  ((∀ (s : State) (c : Nat) (req : Req) (v : Word), bits v.toNat 0 6 < 48 → s.canvasValid = true → bit v.toNat 31 = false →
    bits v.toNat 16 8 < s.canvasW → bits v.toNat 24 7 < s.canvasH →
    ∃ t p, exec (.syncSigWrite c req v) s = .next t ∧ t.net = s.net ++ [p] ∧ p.ptype = 5 ∧ p.x = bits v.toNat 16 8 ∧ p.y = bits v.toNat 24 7 ∧
      p.ctr = bits v.toNat 0 6 ∧ p.epoch = bits v.toNat 6 2 ∧ p.inc = max 1 (bits v.toNat 8 8) ∧ p.pos = .router c 0 ∧
      t.regs = s.regs ∧ t.cells = s.cells ∧ t.err = s.err) ∧
  (∀ (s : State) (c : Nat) (req : Req) (v : Word), bits v.toNat 0 6 < 48 → s.canvasValid = true → bit v.toNat 31 = true →
    bits v.toNat 16 8 ≤ s.fld (cellKey c SYNC_MC_SE) 0 8 → s.fld (cellKey c SYNC_MC_SE) 0 8 < s.canvasW →
    bits v.toNat 24 7 ≤ s.fld (cellKey c SYNC_MC_SE) 8 7 → s.fld (cellKey c SYNC_MC_SE) 8 7 < s.canvasH →
    ∃ t p, exec (.syncSigWrite c req v) s = .next t ∧ t.net = s.net ++ [p] ∧ p.ptype = 7 ∧ p.x = bits v.toNat 16 8 ∧ p.y = bits v.toNat 24 7 ∧
      p.x1 = s.fld (cellKey c SYNC_MC_SE) 0 8 ∧ p.y1 = s.fld (cellKey c SYNC_MC_SE) 8 7 ∧ t.regs = s.regs ∧ t.err = s.err) ∧
  (∀ (s : State) (c d : Nat) (k : CoreSel) (v : Word), 48 ≤ bits v.toNat 0 6 →
    ∃ t e, exec (.syncSigWrite c (.core d k) v) s = .next t ∧ t.net = s.net ∧ t.err.recQ = s.err.recQ ++ [e] ∧ e.cls = 0x34 ∧
      e.loc = .cell c 0 ∧ e.struck = some d))


/-- R219, R220, R222. SYNC_WAIT: the core stalls on the counter with its target. SYNC_WAIT_SATISFIED: COUNT at or above the target, at the
latest LIMIT × 1,024 delivered cycles after the start, ends the wait with COUNT and EPOCH in the destination. SYNC_WAIT_WATCHDOG: in that
cycle an unmet wait, and after it any wait, logs class 0x37 and stops the core, with STATE 3 where no panel is halted. -/
def Obligations.WaitsEndOrExpire : Prop :=
  (∀ (s : State) (c w len raw n : Nat) (k : CoreSel) (m : SMem), s.issues c k .wait w len raw → scalarMem (s.core c k) w = some m →
    n < 48 → m.addr = 0x20000000 + SYNC_WAIT + 4 * n →
    ∃ t x, exec (.syncWait c k) s = .next t ∧ (t.core c k).wait = some x ∧ x.ctr = n ∧ x.target = s.waitTarget c k ∧ x.rd = m.r ∧
      x.start = (s.cell c).cyc ∧ (t.core c k).pc = (s.core c k).pc ∧ t.regs = s.regs ∧ t.mem = s.mem ∧ t.err = s.err ∧ s.coresBut t c k) ∧
  (∀ (s : State) (c : Nat) (k : CoreSel) (x : WaitSt), (s.core c k).wait = some x → x.target ≤ s.count c x.ctr → s.runs c = true →
    (s.cell c).cyc ≤ x.start + s.fld (cellKey c SYNC_WDOG) 0 24 * 1024 → x.fp = false → x.rd < 32 → (s.core c k).x.length = 32 →
    ∃ t, exec (.syncWaitSatisfied c k 0) s = .next t ∧ (t.core c k).wait = none ∧
      (∀ r, r < 32 → (t.core c k).xr r = if r = x.rd ∧ x.rd ≠ 0 then s.count c x.ctr + s.epoch c x.ctr * 2 ^ 20 else (s.core c k).xr r) ∧
      (t.core c k).pc = (s.core c k).pc + BitVec.ofNat 32 x.len ∧ t.regs = s.regs ∧ t.mem = s.mem ∧ t.err = s.err ∧ s.coresBut t c k) ∧
  (∀ (s : State) (c : Nat) (k : CoreSel) (x : WaitSt), (s.core c k).wait = some x → s.runs c = true → x.ctr < 48 →
    (s.count c x.ctr < x.target ∧ x.start + s.fld (cellKey c SYNC_WDOG) 0 24 * 1024 ≤ (s.cell c).cyc) ∨
      x.start + s.fld (cellKey c SYNC_WDOG) 0 24 * 1024 < (s.cell c).cyc →
    ∃ t, exec (.syncWaitWatchdog c k) s = .next t ∧ (t.core c k).wait = none ∧ (t.core c k).st = (if s.haltable c then 2 else 3) ∧
      t.count c x.ctr = s.count c x.ctr ∧ s.regsBut t [State.coreKey c k HEAD_CTRL] ∧
      s.logs t 0x37 (.cell c 0) (s.waitDetail c k x) ∧ s.coresBut t c k)

/-! ### Mesh (R186-R215) -/

/-- R186, R187, R188, R192, R193, R196, R200, R201, R223. PACKET_ROUTE of the first packet of its VC in its buffer, unicast, in a routing-mode router: at its target
it goes to the local port; a target further east takes the east link, where that link takes flits, the receiving buffer has a credit, the retry buffer has room
and the output is granted: the link's SEQ advances by the packet's flits, which stand in the retry buffer; where one of these fails it stays. A flit whose CRC
fails at the receiver stays at the sender and is counted at the receiver. Over a failed link the packet is discarded with class 0x35. A packet behind another of its VC in its
buffer stays; a packet on the I/O ring enters its edge port's router where that has the credits and the link's retry buffer the room. An uncorrectable error of the router's state logs class 0x3A and
moves nothing. -/
def Obligations.PacketsRouteTowardTheirTarget : Prop :=
  (∀ (s : State) (i c via x y : Nat) (p : Pkt), s.net[i]? = some p → p.pos = .router c via → s.isFirst i p = true → p.badHeader = false → p.mcast = false →
    p.phys = false → p.way = none → s.routerDead c = false → s.logicalOf c = some (x, y) → p.x = x → p.y = y →
    s.routerPulse c = true →
    ∃ t, exec (.packetRoute i [] 0) s = .next t ∧
      t.net = (if s.granted (fun _ _ _ => []) i c 0 p then s.net.eraseIdx i ++ [{ p with pos := .landed c, sent := none }] else s.net) ∧ t.regs = s.regs ∧
      (t.cell c) = { s.cell c with outs := (t.cell c).outs } ∧ s.cellsBut t c ∧ t.err = s.err) ∧
  (∀ (s : State) (i c via x y : Nat) (p : Pkt), s.net[i]? = some p → p.pos = .router c via → s.isFirst i p = true → p.badHeader = false → p.mcast = false →
    p.phys = false → p.way = none → p.sent = none → s.routerDead c = false → s.routerDead (c + 1) = false → s.logicalOf c = some (x, y) → x < p.x →
    cellPx c < 47 → s.detourOf c 0 = none → s.linkHolds c 0 = false → s.linkFailed c 0 = false → s.runOn c 0 p 64 = ([c], c, 0) → s.credit c 0 p = true →
    s.retryRoom c 0 p = true → s.granted s.wants i c 2 p = true → s.routerPulse c = true →
    ∃ t, exec (.packetRoute i [] 0) s = .next t ∧ t.net = s.net.eraseIdx i ++ [{ p with pos := .router (c + 1) 4, sent := none, waited := 0 }] ∧
      t.link c 0 =
        { s.link c 0 with
          next := ((s.link c 0).next + p.flits) % 256, retry := (s.link c 0).retry ++ State.seqsFrom (s.link c 0).next p.flits, refused := 0,
          good := ((s.link c 0).next + p.flits + 255) % 256 } ∧ t.regs = s.regs ∧ t.err = s.err ∧ s.cellsBut t c) ∧
  (∀ (s : State) (i c via x y : Nat) (errs : List (Nat × Nat)) (p : Pkt), s.net[i]? = some p → p.pos = .router c via → s.isFirst i p = true → p.badHeader = false →
    p.mcast = false → p.phys = false → p.way = none → s.routerDead c = false → s.routerDead (c + 1) = false → s.logicalOf c = some (x, y) → x < p.x →
    cellPx c < 47 → s.detourOf c 0 = none → s.linkFailed c 0 = false → s.runOn c 0 p 64 = ([c], c, 0) →
    (s.linkHolds c 0 = true ∨ s.credit c 0 p = false ∨ s.retryRoom c 0 p = false ∨ s.granted s.wants i c 2 p = false) →
    exec (.packetRoute i errs 0) s = .next s) ∧
  (∀ (s : State) (i c via x y err k : Nat) (p : Pkt), s.net[i]? = some p → p.pos = .router c via → s.isFirst i p = true → p.badHeader = false → p.mcast = false →
    p.phys = false → p.way = none → p.sent = none → s.routerDead c = false → s.routerDead (c + 1) = false → s.logicalOf c = some (x, y) → x < p.x →
    cellPx c < 47 → s.detourOf c 0 = none → s.linkHolds c 0 = false → s.linkFailed c 0 = false → s.runOn c 0 p 64 = ([c], c, 0) → s.credit c 0 p = true →
    s.retryRoom c 0 p = true → s.granted s.wants i c 2 p = true → s.routerPulse c = true → s.badFlit c 0 p err = some k → s.written (cellKey (c + 1) RTR_RETRY_CNT) = false →
    ∃ t, exec (.packetRoute i [(0, err)] 0) s = .next t ∧ t.net = s.net.set i { p with sent := some 0 } ∧ (t.link c 0).naked = true ∧
      (t.link c 0).good = ((s.link c 0).next + k + 255) % 256 ∧
      (t.link c 0).retry = (s.link c 0).retry ++ State.seqsFrom (s.link c 0).next p.flits ∧
      t.fld (cellKey (c + 1) RTR_RETRY_CNT) 0 16 = min (s.fld (cellKey (c + 1) RTR_RETRY_CNT) 0 16 + 1) 0xFFFF ∧
      s.regsBut t [cellKey (c + 1) RTR_RETRY_CNT, cellKey (c + 1) RTR_ERR_LAST] ∧ s.cellsBut t c) ∧
  (∀ (s : State) (i c via x y : Nat) (errs : List (Nat × Nat)) (p : Pkt), s.net[i]? = some p → p.pos = .router c via → s.isFirst i p = true → p.badHeader = false →
    p.mcast = false → p.phys = false → p.way = none → s.routerDead c = false → s.logicalOf c = some (x, y) → x < p.x → s.detourOf c 0 = none →
    s.linkHolds c 0 = false → s.linkFailed c 0 = true → s.routerPulse c = true →
    ∃ t e, exec (.packetRoute i errs 0) s = .next t ∧ t.net = s.net.eraseIdx i ∧ t.err.recQ = s.err.recQ ++ [e] ∧ e.cls = 0x35 ∧
      e.loc = .cell c 0 ∧ e.struck = p.org ∧ s.regsBut t [cellKey c RTR_ERR_LAST] ∧ t.cells = s.cells) ∧
  (∀ (s : State) (i c via : Nat) (errs : List (Nat × Nat)) (p : Pkt), s.net[i]? = some p → p.pos = .router c via → s.isFirst i p = false →
    exec (.packetRoute i errs 0) s = .next s) ∧
  (∀ (s : State) (i c via ecc : Nat) (p : Pkt), s.net[i]? = some p → p.pos = .ring c → via = (if edgeRow s.part (cellDie c) = 0 then 1 else 3) →
    s.isFirst i p = true → s.routerDead c = false → s.routerPulse c = true → s.linkHolds c State.ringLink = false →
    s.linkFailed c (edgeLink s.part (cellDie c)) = false → s.roomFor c via p.vc p.flits = true → s.retryRoom c State.ringLink p = true →
    ∃ t, exec (.packetRoute i [] ecc) s = .next t ∧ t.net = s.net.eraseIdx i ++ [{ p with pos := .router c via, sent := none, waited := 0 }] ∧
      (t.link c State.ringLink).refused = 0 ∧ (∀ l, l ≠ State.ringLink → t.link c l = s.link c l) ∧ t.regs = s.regs ∧ s.cellsBut t c ∧ t.err = s.err) ∧
  (∀ (s : State) (i c via : Nat) (errs : List (Nat × Nat)) (p : Pkt), s.net[i]? = some p → p.pos = .router c via →
    ∃ t, exec (.packetRoute i errs 2) s = .next t ∧ t.net = s.net ∧ t.cells = s.cells ∧ s.regsBut t [cellKey c RTR_ERR_LAST] ∧
      s.logs t 0x3A (.cell c 0) 0)

/-- R193, R194, R195, R199, R214. LINK_NAK_RECEIVE takes an idle flit of the reverse link. With NAK = 1 the flits up to its ACKSEQ leave the retry buffer and the rest are sent
again; at RETRY_MAX refusals in a row the link stops in both directions. With NAK = 0 the acknowledged flits leave; one whose CRC fails is counted and
discarded. LOOPBACK_TEST_DONE: a pass puts both directions back in service with class 0x31; a failure marks both ends failed with
class 0x32. DETOUR_LOAD writes the router's entries and packets that waited go on. MC_STALL_WATCHDOG: a multicast branch that waited 2^LIMIT cycles and cannot
leave is discarded with class 0x36. -/
def Obligations.LinksRetryFailAndDetour : Prop :=
  (∀ (s : State) (c l sb a : Nat), idleGood sb = true → bit sb 25 = true → a = bits sb 17 8 → (s.link c l).naked = true → (s.link c l).refused + 1 < s.fld (cellKey c RTR_LINK_CFG) 0 4 →
    ∃ t, exec (.linkNakReceive c l sb) s = .next t ∧ (t.link c l).naked = false ∧ (t.link c l).refused = (s.link c l).refused + 1 ∧
      (t.link c l).stopped = (s.link c l).stopped ∧ (a ∉ (s.link c l).retry → (t.link c l).retry = (s.link c l).retry) ∧
      (∀ pre post, (s.link c l).retry = pre ++ a :: post → a ∉ pre → (t.link c l).retry = post) ∧
      (∀ m, m ≠ l → t.link c m = s.link c m) ∧ t.regs = s.regs ∧ t.net = s.net ∧ s.cellsBut t c) ∧
  (∀ (s : State) (c l sb : Nat), idleGood sb = true → bit sb 25 = true → (s.link c l).naked = true → s.fld (cellKey c RTR_LINK_CFG) 0 4 ≤ (s.link c l).refused + 1 →
    ∃ t, exec (.linkNakReceive c l sb) s = .next t ∧ (t.link c l).stopped = true ∧ (∀ e m, s.reverseOf c l = some (e, m) → (t.link e m).stopped = true) ∧
      t.regs = s.regs ∧ t.net = s.net ∧ t.err = s.err) ∧
  (∀ (s : State) (c l sb a : Nat) (pre post : List Nat), idleGood sb = true → bit sb 25 = false → a = bits sb 17 8 → (s.link c l).naked = false →
    (s.link c l).retry = pre ++ a :: post → a ∉ pre →
    ∃ t, exec (.linkNakReceive c l sb) s = .next t ∧ t.link c l = { s.link c l with retry := post } ∧ (∀ m, m ≠ l → t.link c m = s.link c m) ∧
      t.regs = s.regs ∧ t.net = s.net ∧ s.cellsBut t c ∧ t.err = s.err) ∧
  (∀ (s : State) (c l sb : Nat), idleGood sb = false → s.written (cellKey c RTR_RETRY_CNT) = false →
    ∃ t, exec (.linkNakReceive c l sb) s = .next t ∧ t.cells = s.cells ∧ t.net = s.net ∧
      t.fld (cellKey c RTR_RETRY_CNT) 0 16 = min (s.fld (cellKey c RTR_RETRY_CNT) 0 16 + 1) 0xFFFF ∧
      s.regsBut t [cellKey c RTR_RETRY_CNT, cellKey c RTR_ERR_LAST]) ∧
  (∀ (s : State) (c l raw : Nat), (s.link c l).stopped = true → s.meetsPad c l raw = true → s.written (cellKey c RTR_RETRY_CNT) = false →
    ∃ t, exec (.loopbackTestDone c l true true [] raw) s = .next t ∧ (t.link c l).stopped = false ∧ (t.link c l).refused = 0 ∧
      (∀ e m, s.reverseOf c l = some (e, m) → (t.link e m).stopped = false ∧ (t.link e m).refused = 0) ∧
      t.fld (cellKey c RTR_RETRY_CNT) 16 8 = min (s.fld (cellKey c RTR_RETRY_CNT) 16 8 + 1) 0xFF ∧
      s.regsBut t [cellKey c RTR_RETRY_CNT, cellKey c RTR_ERR_LAST] ∧ s.logs t 0x31 (.cell c l) 0 ∧ t.net = s.net) ∧
  (∀ (s : State) (c raw : Nat) (near far : Bool), (s.link c 0).stopped = true → cellPx c < 47 → (near && far) = false →
    (∀ p ∈ s.net, p.sent ≠ some 0 ∧ p.sent ≠ some 1) →
    ∃ t r, exec (.loopbackTestDone c 0 near far [] raw) s = .next t ∧ t.linkFailed c 0 = true ∧ t.linkFailed (c + 1) 1 = true ∧
      r ∈ t.err.recQ ∧ r.cls = 0x32 ∧ r.loc = .cell c 0 ∧ t.net = s.net) ∧
  (∀ (s : State) (c i : Nat) (es : List Word) (e : Word), es.length ≤ 16 → es[i]? = some e → (∀ r got, (s.region r).off ≠ .detours got) →
    ∃ t, exec (.detourLoad c es) s = .next t ∧ (t.reg (cellKey c (RTR_DETOUR + 4 * i))).toNat = bits e.toNat 0 25 ∧
      (∀ l, (t.link c l).await = false) ∧ (∀ k, (∀ j, j < es.length → k ≠ cellKey c (RTR_DETOUR + 4 * j)) → t.reg k = s.reg k) ∧
      t.net = s.net ∧ t.err = s.err ∧ s.cellsBut t c) ∧
  (∀ (s : State) (i c via : Nat) (p : Pkt), s.net[i]? = some p → p.pos = .router c via → p.mcast = true →
    2 ^ s.fld (cellKey c RTR_MC_WDOG) 0 5 ≤ p.waited → s.mcReady i c p (s.mcOuts c via p) = false →
    ∃ t e, exec (.mcStallWatchdog i) s = .next t ∧ t.net = s.net.eraseIdx i ∧ t.err.recQ = s.err.recQ ++ [e] ∧ e.cls = 0x36 ∧
      e.loc = .cell c 0 ∧ e.struck = p.org)

/-- R168, R191, R203, R204, R213, R217. At a cell: WRITE_PACKET_LAND stores a run of whole words, signals in the cycle after where SIGF is set, and acknowledges where asked; a refused write changes no
memory, logs R154's class against the origin and answers STATUS 1. READ_PACKET answers with the bytes. MULTICAST_WRITE_LAND stores without an
answer. SIGNAL_PACKET and MULTICAST_SIGNAL reach the SYNC block, which judges them as the cycle ends, with class 0x3A where its counter's check bits show an uncorrectable error. -/
def Obligations.RequestsActAtTheirCell : Prop :=
  (∀ (s : State) (i m ecc c o off : Nat) (p : Pkt), s.pktOf i 1 = some p → p.pos = .landed c → s.isHole c = false → originCell p.src = some o →
    bits p.addr 44 4 = 1 → off = bits p.addr 0 21 → off % 8 = 0 → p.data.length % 8 = 0 → p.pois = [] → p.sigf = false →
    s.spmCheckRun c off p.data.length 4 (decide (p.src = .firmware)) = none →
    ∃ t as, exec (.writePacketLand i m ecc) s = .next t ∧ (∀ j, j < p.data.length → some (t.byte (spmKey c (off + j))) = p.data[j]?) ∧
      (∀ j, j < p.data.length / 8 → t.chkAt c (off + 8 * j) = eccByte (t.wordAt c (off + 8 * j))) ∧
      (∀ k, (∀ j, j < p.data.length → k ≠ spmKey c (off + j) ∧ k ≠ spmChkKey c (off + j)) → t.byte k = s.byte k) ∧
      t.net = s.net.eraseIdx i ++ as ∧ as.map (fun a => (a.ptype, a.tag, a.status, a.src)) = (if p.ackreq then [(4, p.tag, 0, p.src)] else []) ∧
      t.regs = s.regs ∧ t.cell c = { s.cell c with scrub := (t.cell c).scrub } ∧ s.cellsBut t c ∧ t.err = s.err) ∧
  (∀ (s : State) (i m c o off : Nat) (p : Pkt), s.pktOf i 1 = some p → p.pos = .landed c → s.isHole c = false → originCell p.src = some o →
    bits p.addr 44 4 = 1 → off = bits p.addr 0 21 → off % 8 = 0 → p.data.length % 8 = 0 → p.pois = [] → p.sigf = true →
    s.spmCheckRun c off p.data.length 4 (decide (p.src = .firmware)) = none →
    ∃ t, exec (.writePacketLand i m 0) s = .next t ∧ (t.cell c).sigs = (s.cell c).sigs ++ [((s.cell c).rcyc + 1, s.pktSignal p)] ∧
      (∀ j, j < p.data.length → some (t.byte (spmKey c (off + j))) = p.data[j]?) ∧ t.regs = s.regs ∧ t.err = s.err) ∧
  (∀ (s : State) (i m ecc c o off w cls r : Nat) (p : Pkt), s.pktOf i 1 = some p → p.pos = .landed c → s.isHole c = false → originCell p.src = some o →
    bits p.addr 44 4 = 1 → off = bits p.addr 0 21 →
    s.spmCheckRun c off p.data.length 4 (decide (p.src = .firmware)) = some (w, cls, r) →
    ∃ t e a, exec (.writePacketLand i m ecc) s = .next t ∧ t.mem = s.mem ∧ t.net = s.net.eraseIdx i ++ [a] ∧ a.ptype = 4 ∧ a.tag = p.tag ∧ a.status = 1 ∧
      t.err.recQ = s.err.recQ ++ [e] ∧ e.cls = cls ∧ e.loc = .cell c 0 ∧ e.struck = some o ∧ s.regsBut t [cellKey c SPM_ERR_LAST]) ∧
  (∀ (s : State) (i m c o off : Nat) (p : Pkt), s.pktOf i 2 = some p → p.pos = .landed c → s.isHole c = false → originCell p.src = some o →
    bits p.addr 44 4 = 1 → off = bits p.addr 0 21 → s.spmCheckRun c off p.blen 4 (decide (p.src = .firmware)) = none →
    (∀ j, j < p.blen → judge (s.wordAt c (off + j)) (s.chkAt c (off + j)) = .good) →
    ∃ t a, exec (.readPacket i m) s = .next t ∧ t.net = s.net.eraseIdx i ++ [a] ∧ a.ptype = 3 ∧ a.tag = p.tag ∧ a.status = 0 ∧
      a.data = s.bytes (spmKey c off) p.blen ∧ a.pois = [] ∧ a.src = p.src ∧ t.mem = s.mem ∧ t.regs = s.regs ∧ t.cells = s.cells ∧ t.err = s.err) ∧
  (∀ (s : State) (i ecc c off : Nat) (p : Pkt), s.pktOf i 6 = some p → p.pos = .landed c → off = bits p.addr 0 21 → off % 8 = 0 →
    p.data.length % 8 = 0 → p.pois = [] → p.sigf = false → s.spmCheckRun c off p.data.length 4 (decide (p.src = .firmware)) = none →
    ∃ t, exec (.multicastWriteLand i ecc) s = .next t ∧ (∀ j, j < p.data.length → some (t.byte (spmKey c (off + j))) = p.data[j]?) ∧
      (∀ k, (∀ j, j < p.data.length → k ≠ spmKey c (off + j) ∧ k ≠ spmChkKey c (off + j)) → t.byte k = s.byte k) ∧
      t.net = s.net.eraseIdx i ∧ t.regs = s.regs ∧ t.cell c = { s.cell c with scrub := (t.cell c).scrub } ∧ s.cellsBut t c ∧ t.err = s.err) ∧
  (∀ (s : State) (i c : Nat) (p : Pkt) (m : Instr), (s.pktOf i 5 = some p ∧ m = .signalPacket i 0 ∧ s.isHole c = false) ∨ (s.pktOf i 7 = some p ∧ m = .multicastSignal i 0) →
    p.pos = .landed c →
    ∃ t, exec m s = .next t ∧ t.cell c = { s.cell c with sigs := (s.cell c).sigs ++ [((s.cell c).rcyc, s.pktSignal p)] } ∧ t.net = s.net.eraseIdx i ∧
      t.regs = s.regs ∧ s.cellsBut t c ∧ t.mem = s.mem ∧ t.err = s.err) ∧
  (∀ (s : State) (i c : Nat) (p : Pkt) (m : Instr), (s.pktOf i 5 = some p ∧ m = .signalPacket i 2 ∧ s.isHole c = false) ∨ (s.pktOf i 7 = some p ∧ m = .multicastSignal i 2) →
    p.pos = .landed c →
    ∃ t, exec m s = .next t ∧ t.cell c = { s.cell c with sigs := (s.cell c).sigs ++ [((s.cell c).rcyc, s.pktSignal p)] } ∧ t.net = s.net.eraseIdx i ∧
      s.regsBut t [cellKey c RTR_ERR_LAST] ∧ s.cellsBut t c ∧
      s.logs t 0x3A (.cell c 0) 0)

/-- R204, R206, R208, R209. ACK_RECEIVE: a far-window store is no longer outstanding; an answer of STATUS 1 to the running put stops the send unit and discards its queue.
READ_RESPONSE_RECEIVE: the running get's data is stored at its place in the cell. -/
def Obligations.ResponsesReachTheirRequester : Prop :=
  (∀ (s : State) (i c : Nat) (k : CoreSel) (p : Pkt), s.pktOf i 4 = some p → p.pos = .landed c → (s.cell c).tx = [] → p.src = .far c k →
    ∃ t, exec (.ackReceive i) s = .next t ∧ (t.core c k).farStores = (s.core c k).farStores - 1 ∧ (t.core c k).x = (s.core c k).x ∧
      t.net = s.net.eraseIdx i ∧ t.regs = s.regs ∧ t.mem = s.mem ∧ t.err = s.err ∧ s.coresBut t c k) ∧
  (∀ (s : State) (i c : Nat) (p : Pkt) (x : TxCmd) (rest : List TxCmd), s.pktOf i 4 = some p → p.pos = .landed c → (s.cell c).tx = x :: rest →
    p.tag ∈ x.waiting → p.status = 0 →
    ∃ t y, exec (.ackReceive i) s = .next t ∧ (t.cell c).tx = y :: rest ∧ y.waiting = x.waiting.filter (· != p.tag) ∧ y.sent = x.sent ∧
      t.net = s.net.eraseIdx i ∧ t.regs = s.regs ∧ t.err = s.err ∧ s.cellsBut t c) ∧
  (∀ (s : State) (i c : Nat) (p : Pkt) (x : TxCmd) (rest : List TxCmd), s.pktOf i 4 = some p → p.pos = .landed c → (s.cell c).tx = x :: rest →
    p.tag ∈ x.waiting → p.status = 1 →
    ∃ t, exec (.ackReceive i) s = .next t ∧ (t.cell c).tx = [] ∧ t.net = s.net.eraseIdx i ∧ t.regs = s.regs ∧ t.err = s.err ∧ s.cellsBut t c) ∧
  (∀ (s : State) (i c off : Nat) (p : Pkt) (x : TxCmd) (rest : List TxCmd), s.pktOf i 3 = some p → p.pos = .landed c →
    s.farTag c .head ≠ some p.tag → s.farTag c .tail ≠ some p.tag → (s.cell c).tx = x :: rest → p.tag ∈ x.waiting → p.status = 0 →
    off = x.src + (p.addr - x.dst) → off % 8 = 0 → p.data.length % 8 = 0 → p.pois = [] → x.len ≤ x.sent →
    s.spmCheckRun c off p.data.length 4 false = none →
    ∃ t y, exec (.readResponseReceive i) s = .next t ∧ (∀ j, j < p.data.length → some (t.byte (spmKey c (off + j))) = p.data[j]?) ∧
      (∀ k, (∀ j, j < p.data.length → k ≠ spmKey c (off + j) ∧ k ≠ spmChkKey c (off + j)) → t.byte k = s.byte k) ∧
      (t.cell c).tx = y :: rest ∧ y.waiting = x.waiting.filter (· != p.tag) ∧ t.net = s.net.eraseIdx i ∧ t.regs = s.regs ∧ t.err = s.err ∧ s.cellsBut t c)

/-- R208, R209. TX_PUT, TX_GET and TX_MULTICAST_PUT: behind other commands the staged command waits; a refused push writes REASON and logs class
0x39. An idle unit starts as soon as its packets of before have left and the router's local buffer has room: a put of 32 bytes sends them in a write packet, a get sends a read request, a multicast put sends to the rectangle.
TX_COMMAND_COMPLETE counts DONE. -/
def Obligations.SendUnitRunsCommands : Prop :=
  (∀ (s : State) (c op : Nat) (req : Req) (i : Instr), (i, op) ∈ [(Instr.txPut c req, 1), (.txGet c req, 2), (.txMulticastPut c req, 3)] → s.txReason c op = 0 →
    (s.cell c).tx ≠ [] →
    ∃ t, exec i s = .next t ∧ (t.cell c).tx = (s.cell c).tx ++ [s.txStaged c op] ∧ t.net = s.net ∧ t.regs = s.regs ∧ t.mem = s.mem ∧
      t.err = s.err ∧ s.cellsBut t c) ∧
  (∀ (s : State) (c op : Nat) (req : Req) (i : Instr), (i, op) ∈ [(Instr.txPut c req, 1), (.txGet c req, 2), (.txMulticastPut c req, 3)] → s.txReason c op ≠ 0 →
    ∃ t, exec i s = .next t ∧ t.cells = s.cells ∧ t.net = s.net ∧ t.mem = s.mem ∧ t.fld (cellKey c RTR_TX_STAT) 4 4 = s.txReason c op ∧
      s.regsBut t [cellKey c RTR_TX_STAT, cellKey c RTR_ERR_LAST] ∧ s.logs t 0x39 (.cell c 0) (s.txReason c op)) ∧
  (∀ (s : State) (c op x y : Nat) (req : Req) (i : Instr), (i, op) ∈ [(Instr.txPut c req, 1), (.txMulticastPut c req, 3)] → s.txReason c op = 0 → (s.cell c).tx = [] →
    s.txMay c (s.txStaged c op) = true → (s.txStaged c op).units = 1 → bits (s.txStaged c op).dst 44 4 = 1 → s.dest (s.txStaged c op).dst 32 = .cell x y →
    s.spmCheckRun c (s.txStaged c op).src 32 4 false = none →
    (∀ j, j < 32 → judge (s.wordAt c ((s.txStaged c op).src + j)) (s.chkAt c ((s.txStaged c op).src + j)) = .good) →
    ∃ t p, exec i s = .next t ∧ t.net = s.net ++ [p] ∧ p.data = s.bytes (spmKey c (s.txStaged c op).src) 32 ∧ p.addr = (s.txStaged c op).dst ∧
      p.ptype = (if op = 1 then 1 else 6) ∧ p.ackreq = (op == 1) ∧ p.pos = .router c 0 ∧ (op = 1 → p.x = x ∧ p.y = y) ∧
      (op = 3 → p.x1 = (s.txStaged c 3).x1 ∧ p.y1 = (s.txStaged c 3).y1) ∧
      (t.cell c).tx.map (fun q => (q.sent, q.waiting)) = [(32, if op = 1 then [p.tag] else [])] ∧ t.regs = s.regs ∧ t.mem = s.mem ∧ t.err = s.err ∧
      s.cellsBut t c) ∧
  (∀ (s : State) (c x y : Nat) (req : Req), s.txReason c 2 = 0 → (s.cell c).tx = [] → s.txMay c (s.txStaged c 2) = true → (s.txStaged c 2).units = 1 → bits (s.txStaged c 2).dst 44 4 = 1 →
    s.dest (s.txStaged c 2).dst 32 = .cell x y →
    ∃ t p, exec (.txGet c req) s = .next t ∧ t.net = s.net ++ [p] ∧ p.ptype = 2 ∧ p.blen = 32 ∧ p.addr = (s.txStaged c 2).dst ∧ p.x = x ∧ p.y = y ∧
      p.data = [] ∧ (t.cell c).tx.map (fun q => (q.sent, q.waiting)) = [(32, [p.tag])] ∧ t.regs = s.regs ∧ t.mem = s.mem ∧ t.err = s.err ∧ s.cellsBut t c) ∧
  (∀ (s : State) (c ecc : Nat) (x : TxCmd), (s.cell c).tx = [x] → s.corePulse c = true → s.txDone c x = true → bit x.sig.toNat 17 = false →
    ∃ t, exec (.txCommandComplete c ecc) s = .next t ∧ (t.cell c).tx = [] ∧
      t.fld (cellKey c RTR_TX_STAT) 8 24 = (s.fld (cellKey c RTR_TX_STAT) 8 24 + 1) % 2 ^ 24 ∧ s.regsBut t [cellKey c RTR_TX_STAT] ∧
      t.net = s.net ∧ t.err = s.err ∧ s.cellsBut t c)

/-! ### Halts, jobs, loads (R179, R235-R247, R429, R430) -/

/-- R179, R243, R245, R429. In the cycle after a halt's cause the struck cell halts and its job is HALTED; PANEL_HALT then halts every other cell of the
job (or, given in the same cycle, all of them). In a halted cell both cores stop with STATE 2 where they ran, the merge buffers, the bank engine and the send
unit are empty, the MXE is flushed from the next cycle on, and ERR_STAT shows HALTED. A halt whose job is gone halts nothing. JOB_HALT does the
same on a host command. A halt of a loading job refuses its load with reason 19. -/
def Obligations.HaltsStopTheWholeJob : Prop :=
  (∀ (s : State) (h : HaltReq) (j : Job), s.err.haltQ = [h] → h.struck = false → s.job? h.job = some j → 2 ≤ j.state → j.state ≤ 4 →
    s.haltSettle.err.haltQ = [{ h with struck := true }] ∧ s.haltSettle.job? h.job = some { j with state := 5 } ∧
      (∀ k, (s.haltSettle.core h.cell k).st = (if (s.core h.cell k).st = 1 then 2 else (s.core h.cell k).st) ∧ (s.haltSettle.core h.cell k).mb = []) ∧
      (s.haltSettle.cell h.cell).beng = [] ∧ (s.haltSettle.cell h.cell).tx = [] ∧ (s.haltSettle.mxe h.cell).flushDue = true ∧
      s.haltSettle.fld (cellKey h.cell ERR_STAT) 0 1 = 1 ∧ s.cellsBut s.haltSettle h.cell) ∧
  (∀ (s : State) (h : HaltReq) (rest : List HaltReq) (j : Job), s.err.haltQ = h :: rest → h.struck = true → s.job? h.job = some j → j.state ≠ 1 →
    ∃ t, exec .panelHalt s = .next t ∧ t.err.haltQ = rest ∧ t.jobs = s.jobs ∧ t.cell h.cell = s.cell h.cell ∧
      (∀ c ∈ s.jobCells h.job, c ≠ h.cell → (∀ k, (t.core c k).st = (if (s.core c k).st = 1 then 2 else (s.core c k).st) ∧ (t.core c k).mb = []) ∧
        (t.cell c).beng = [] ∧ (t.cell c).tx = [] ∧ (t.mxe c).flushDue = true ∧ t.fld (cellKey c ERR_STAT) 0 1 = 1) ∧
      ∀ c, c ∉ s.jobCells h.job → t.cell c = s.cell c) ∧
  (∀ (s : State) (h : HaltReq) (rest : List HaltReq) (j : Job), s.err.haltQ = h :: rest → h.struck = false → h.cell ∈ s.jobCells h.job →
    s.job? h.job = some j → 2 ≤ j.state → j.state ≤ 4 →
    ∃ t x, exec .panelHalt s = .next t ∧ t.err.haltQ = rest ∧ t.job? h.job = some x ∧ x.state = 5 ∧ x.starts = j.starts ∧
      (∀ c ∈ s.jobCells h.job, (∀ k, (t.core c k).st = (if (s.core c k).st = 1 then 2 else (s.core c k).st) ∧ (t.core c k).mb = []) ∧
        (t.cell c).beng = [] ∧ (t.cell c).tx = [] ∧ (t.mxe c).flushDue = true ∧ t.fld (cellKey c ERR_STAT) 0 1 = 1) ∧
      ∀ c, c ∉ s.jobCells h.job → t.cell c = s.cell c) ∧
  (∀ (s : State) (h : HaltReq) (rest : List HaltReq), s.err.haltQ = h :: rest → s.job? h.job = none →
    ∃ t, exec .panelHalt s = .next t ∧ t.err.haltQ = rest ∧ t.err.recQ = s.err.recQ ∧ t.cells = s.cells ∧ t.jobs = s.jobs ∧ t.regs = s.regs) ∧
  (∀ (s : State) (h : HaltReq) (rest : List HaltReq) (p : Panel) (j : Job) (l : LoadSt), s.err.haltQ = h :: rest → s.panelOf h.cell = some p →
    p.job = h.job → s.job? h.job = some j → j.state = 1 → s.load = some l → l.job = h.job → l.entered = true →
    ∃ t, exec .panelHalt s = .next t ∧ t.load = none ∧ t.job? h.job = none ∧ t.loadPhase = 6 ∧ t.fld (ecKey BOOT_LOAD_STAT) 3 5 = 19 ∧
      t.fld (ecKey BOOT_LOAD_INFO) 0 16 = p.id % 2 ^ 16) ∧
  (∀ (s : State) (id : Nat) (j : Job), s.job? id = some j → j.state = 2 ∨ j.state = 3 →
    ∃ t x, exec (.jobHalt id) s = .next t ∧ t.job? id = some x ∧ x.state = 5 ∧
      (∀ c ∈ s.jobCells id, (∀ k, (t.core c k).st ≠ 1 ∧ (t.core c k).mb = []) ∧ (t.mxe c).flushDue = true ∧ t.fld (cellKey c ERR_STAT) 0 1 = 1) ∧
      ∀ c, c ∉ s.jobCells id → t.cell c = s.cell c) ∧
  (∀ (s : State) (id : Nat), s.job? id = none →
    ∃ t, exec (.jobHalt id) s = .next t ∧ t.jobs = s.jobs ∧ t.cells = s.cells ∧ t.regs = s.regs ∧ s.logs t 0x8E (.engine 0) (id % 65536 + 2 * 2 ^ 16))

/-- R243, R244, R246, R247. JOB_START of a loaded job starts its cores and the job runs, or is done where it starts none; any other start is ignored
with class 0x8E. JOB_END removes the job, its panels and its cells' ownership; a running job is halted first. STEP_DECLARE adds one to the step number of a job that runs or left RUNNING in this cycle, and for the pacing job to STEP_ENGINE with STEP_LAST; otherwise it is ignored
with class 0x8E. STEP_NUM_SET sets the selected job's step number. -/
def Obligations.JobsRunAndDeclareSteps : Prop :=
  ((∀ (s : State) (id c : Nat) (k : CoreSel) (j : Job), s.job? id = some j → j.state = 2 → j.starts = [(c, k)] → s.primed c = true → (s.core c k).st = 0 →
    ∃ t x, exec (.jobStart id) s = .next t ∧ t.job? id = some x ∧ x.state = 3 ∧ (t.core c k).st = 1 ∧
      (t.core c k).pcn = 2 * s.fld (State.coreKey c k HEAD_BOOT_PC) 1 14 ∧ s.coresBut t c k ∧ t.err = s.err) ∧
  (∀ (s : State) (id : Nat) (j : Job), s.job? id = some j → j.state = 2 → j.starts = [] →
    ∃ t x, exec (.jobStart id) s = .next t ∧ t.job? id = some x ∧ x.state = 4 ∧ t.cells = s.cells) ∧
  (∀ (s : State) (id : Nat), (∀ j, s.job? id = some j → j.state ≠ 2) →
    ∃ t, exec (.jobStart id) s = .next t ∧ t.jobs = s.jobs ∧ t.cells = s.cells ∧ t.regs = s.regs ∧ s.logs t 0x8E (.engine 0) (id % 65536 + 1 * 2 ^ 16)) ∧
  (∀ (s : State) (id : Nat) (j : Job), s.job? id = some j → 2 ≤ j.state →
    (j.state = 3 ∨ ∀ c ∈ s.jobCells id, ∀ k, s.coreBusy c k = false) →
    ∃ t, exec (.jobEnd id) s = .next t ∧ t.job? id = none ∧ t.panels = s.panels.filter (fun p => p.job != id) ∧
      (∀ c ∈ s.jobCells id, (∀ k, (t.core c k).st ≠ 1) ∧ (t.mxe c).flushDue = true ∧ ∀ b, b < 8 → t.ownerSet c b = 4) ∧
      ∀ i, i ≠ id → (t.job? i).isSome = (s.job? i).isSome) ∧
  (∀ (s : State) (id : Nat), s.job? id = none →
    ∃ t, exec (.jobEnd id) s = .next t ∧ t.jobs = s.jobs ∧ t.cells = s.cells ∧ s.logs t 0x8E (.engine 0) (id % 65536 + 3 * 2 ^ 16))) ∧
  ((∀ (s : State) (id : Nat) (j : Job), s.job? id = some j → j.state = 3 ∨ id ∈ s.leftRun →
    ∃ t, exec (.stepDeclare id) s = .next t ∧ t.job? id = some { j with step := j.step + 1 } ∧ t.err = s.err ∧ t.cells = s.cells ∧
      if s.paceJob = id then
        t.reg (ecKey STEP_ENGINE) = s.reg (ecKey STEP_ENGINE) + 1 ∧ t.reg (ecKey STEP_LAST) = BitVec.ofNat 64 s.facility ∧
          s.regsBut t [ecKey STEP_ENGINE, ecKey STEP_LAST]
      else t.regs = s.regs) ∧
  (∀ (s : State) (id : Nat), (∀ j, s.job? id = some j → j.state ≠ 3) → id ∉ s.leftRun →
    ∃ t, exec (.stepDeclare id) s = .next t ∧ t.jobs = s.jobs ∧ t.regs = s.regs ∧ s.logs t 0x8E (.engine 0) (id % 65536 + 8 * 2 ^ 16)) ∧
  (∀ (s : State) (v : DWord) (j : Job), s.job? (s.fld (ecKey STEP_SEL) 0 16) = some j →
    ∃ t, exec (.stepNumSet v) s = .next t ∧ t.job? (s.fld (ecKey STEP_SEL) 0 16) = some { j with step := v } ∧ t.regs = s.regs ∧
      t.cells = s.cells ∧ t.err = s.err))


/-- R235, R236, R240, R241. LOAD_START: an image that PHASE 1 accepts is held, its job number free and its space legal; while a load runs, or with no canvas,
reason 10. LOAD_PREPARE refuses with reason 7 where a panel has got a hole since (R46, R62); else it leaves each cell of the job with MESH banks, idle counters
and its MXE flushed, and PHASE 3. LOAD_ABORT and LOAD_ROUND_TIMEOUT refuse with
reasons 20 and 18: the job is gone and PHASE is 6. -/
def Obligations.LoadsStartPrepareAndRefuse : Prop :=
  (∀ (s u : State) (l : LoadSt) (f : List Fate), s.load = none →
    State.loadCheck ((({ s with fates := f } : State).setFld (ecKey BOOT_LOAD_STAT) 0 8 1).setReg (ecKey BOOT_LOAD_INFO) 0xFFFF) (s.fld (ecKey BOOT_LOAD_SRC) 0 48)
      (s.fld (ecKey BOOT_LOAD_LEN) 0 32) (bits (s.reg (ecKey BOOT_LOAD_ORG)).toNat 0 8) (bits (s.reg (ecKey BOOT_LOAD_ORG)).toNat 8 7) = (u, .inl l) →
    ∃ t, exec (.loadStart f) s = .next t ∧ t.load = some l ∧ t.regs = u.regs ∧ t.mem = u.mem ∧ t.cells = s.cells ∧ t.jobs = s.jobs ∧
      t.panels = s.panels ∧ s.canvasValid = true ∧ s.fld (ecKey BOOT_LOAD_SRC) 0 48 % 64 = 0 ∧ l.job ≠ 0xFFFF ∧ s.job? l.job = none ∧
      s.jobs.length < 64 ∧ l.entered = false ∧ l.round = 0) ∧
  (∀ (s : State) (f : List Fate), s.load.isSome = true →
    ∃ t, exec (.loadStart f) s = .next t ∧ t.load = s.load ∧ t.regs = s.regs ∧ t.cells = s.cells ∧ t.jobs = s.jobs ∧
      s.logs t 0x8B (.engine 0) (10 + 0xFFFF * 2 ^ 8 + 0xFFFF * 2 ^ 24)) ∧
  (∀ (s : State) (f : List Fate), s.load = none → s.canvasValid = false →
    ∃ t, exec (.loadStart f) s = .next t ∧ t.load = none ∧ t.loadPhase = 6 ∧ t.fld (ecKey BOOT_LOAD_STAT) 3 5 = 10 ∧ t.cells = s.cells ∧ t.jobs = s.jobs) ∧
  (∀ (s : State) (l : LoadSt) (p : Panel), s.load = some l → l.entered = false → l.panels.find? s.panelHoled = some p →
    ∃ t, exec .loadPrepare s = .next t ∧ t.load = none ∧ t.jobs = s.jobs ∧ t.panels = s.panels ∧ t.cells = s.cells ∧ t.loadPhase = 6 ∧
      t.fld (ecKey BOOT_LOAD_STAT) 3 5 = 7) ∧
  (∀ (s : State) (l : LoadSt), s.load = some l → l.entered = true → l.prepared = false →
    (∀ c ∈ s.jobCells l.job, s.coreGate (cellRegion c) = true) →
    ∃ t, exec .loadPrepare s = .next t ∧ t.load = some { l with prepared := true } ∧ t.loadPhase = 3 ∧
      (∀ c ∈ s.jobCells l.job, (∀ b, b < 8 → t.ownerSet c b = 4) ∧ (∀ n, n < 48 → t.reg (ctrKey c n) = 0) ∧ (t.mxe c).queue = [] ∧ (t.mxe c).replay = none ∧
        t.reg (cellKey c MXE_ERR_DESC) = 0 ∧ t.reg (cellKey c MXE_CHK_LAST) = 0 ∧
        t.fld (cellKey c RTR_MC_LAND) 16 1 = 1 ∧ t.reg (cellKey c ERR_STAT) = 0 ∧ t.fld (cellKey c MXE_BAL_CTRL) 0 1 = 0) ∧
      t.mem = s.mem ∧ t.jobs = s.jobs ∧ ∀ c, c ∉ s.jobCells l.job → t.cell c = s.cell c) ∧
  (∀ (s : State) (l : LoadSt) (r : Nat) (i : Instr), s.load = some l → l.entered = true →
    (i = .loadAbort ∧ r = 20) ∨ (i = .loadRoundTimeout ∧ r = 18 ∧ l.bad ≠ [] ∧ l.bcastEnd + 250000000 < s.now) →
    ∃ t, exec i s = .next t ∧ t.load = none ∧ t.job? l.job = none ∧ t.loadPhase = 6 ∧ t.fld (ecKey BOOT_LOAD_STAT) 3 5 = r ∧
      t.panels = s.panels.filter (fun p => p.job != l.job))

/-- R237, R238, R239, R521. LOAD_ROUND: a KIND 3 chunk of one packet to one cell goes to its die's edge port and through the mesh to the cell; it lands in the
scratchpad, and is bad where its CRC is not the table's or the packet did not arrive. LOAD_CHUNK_REPAIR: with no holder left the image source's good copy lands and is
counted; later than 250 ms after the broadcast it refuses the load with reason 18. LOAD_KIND5_WRITE writes its chunk to GDDR7 at the job's range; three bad reads refuse
with reason 17. LOAD_INITIALISE ends the load: the job is LOADED and PHASE is 5. -/
def Obligations.LoadsDeliverAndFinish : Prop :=
  (∀ (s s0 v0 v w : State) (l : LoadSt) (g : Seg) (i c n crc : Nat) (bs : List Byte), s.load = some l → l.prepared = true → l.k5 = true →
    s.roundOver l = true → (State.roundsOf l)[l.round]? = some [i] → 0 < l.round → l.segs[i]? = some g → g.kind = 3 → g.u0 = g.u1 → g.v0 = g.v1 →
    s.segCells g = [c] → chunksOf g.len = [(0, 0, n)] → State.packetsOf g 0 n = [(0, 0, n)] →
    s0 = { s with fates := [], load := some { l with armed := [c] } } →
    s0.readChunk l.src g 0 0 n = (v0, some (bs, crc)) → bs.length = n → n % 8 = 0 → g.dest % 8 = 0 →
    v0.carryOut v0.ctlDie .firmware (State.loadGa g.u0 g.v0 g 0) n true = (v, 0) → v.physicalOf g.u0 g.v0 = some c →
    v.spmCheckRun c g.dest n 4 true = none →
    (v.landPiece c g 0 bs []).1.carryBack v0.ctlDie .firmware (State.loadGa g.u0 g.v0 g 0) n true = (w, 0) →
    (∃ t, exec (.loadRound [] [] []) s = .next t ∧
      t.load = some { l with armed := (if crc32c bs = crc then [] else [c]), tables := [(i, 0, crc)], asked := [], round := l.round + 1,
                             bad := (if crc32c bs = crc then [] else [(c, i, 0)]), bcastEnd := s.now } ∧
      (∀ j, j < n → some (t.byte (spmKey c (g.dest + j))) = bs[j]?) ∧
      (∀ k, (∀ j, j < n → k ≠ spmKey c (g.dest + j) ∧ k ≠ spmChkKey c (g.dest + j)) → t.byte k = v.byte k) ∧
      t.cell c = { s.cell c with scrub := (t.cell c).scrub } ∧ s.cellsBut t c ∧ t.regs = w.regs) ∧
    ∃ t, exec (.loadRound [(c, i, 0, 0)] [] []) s = .next t ∧
      t.load = some { l with armed := [c], tables := [(i, 0, crc)], asked := [], round := l.round + 1, bad := [(c, i, 0)], bcastEnd := s.now } ∧
      t.mem = v.mem ∧ t.cells = s.cells) ∧
  (∀ (s v0 v w : State) (l : LoadSt) (g : Seg) (i c n x y : Nat) (bs : List Byte), s.load = some l → l.segs[i]? = some g → g.kind = 3 → l.bad = [(c, i, 0)] →
    l.tables = [(i, 0, crc32c bs)] → s.now ≤ l.bcastEnd + 250000000 → n = min 2048 g.len → State.packetsOf g 0 n = [(0, 0, n)] → s.segCells g = [c] →
    ({ s with fates := [] } : State).imgReadBy (cellDie c) l.src g.off n = (v0, some bs) → bs.length = n → n % 8 = 0 → g.dest % 8 = 0 →
    v0.logicalOf c = some (x, y) → v0.carryOut (cellDie c) .firmware (State.loadGa x y g 0) n true = (v, 0) →
    v.spmCheckRun c g.dest n 4 true = none → (v.landPiece c g 0 bs []).1.carryBack (cellDie c) .firmware (State.loadGa x y g 0) n true = (w, 0) →
    ∃ t l', exec (.loadChunkRepair c i 0 [] []) s = .next t ∧ t.load = some l' ∧ l'.bad = [] ∧ l'.round = l.round ∧
      (∀ j, j < n → some (t.byte (spmKey c (g.dest + j))) = bs[j]?) ∧ (t.cell c).patched = (s.cell c).patched + 1 ∧
      t.fld (ecKey BOOT_LOAD_INFO) 16 16 = min (w.fld (ecKey BOOT_LOAD_INFO) 16 16 + 1) 0xFFFF ∧ w.regsBut t [ecKey BOOT_LOAD_INFO] ∧ s.cellsBut t c) ∧
  (∀ (s : State) (l : LoadSt) (g : Seg) (i c crc : Nat) (copies : List (List Nat)) (f : List Fate), s.load = some l → l.entered = true → l.segs[i]? = some g →
    (c, i, 0) ∈ l.bad → l.tables = [(i, 0, crc)] → l.bcastEnd + 250000000 < s.now →
    ∃ t, exec (.loadChunkRepair c i 0 copies f) s = .next t ∧ t.load = none ∧ t.job? l.job = none ∧ t.loadPhase = 6 ∧ t.fld (ecKey BOOT_LOAD_STAT) 3 5 = 18) ∧
  (∀ (s v0 v u w : State) (l : LoadSt) (g : Seg) (n st : Nat) (bs : List Byte), s.load = some l → l.prepared = true → l.k5 = false →
    l.segs.filter (fun g => g.kind == 5) = [g] → chunksOf g.len = [(0, 0, n)] →
    ({ s with fates := [] } : State).readChunk l.src g 0 0 n = (v0, some (bs, crc32c bs)) → bs.length = n → (l.gbase + g.dest) % 960 + n ≤ 960 → 0 < n →
    v0.carryOut v0.ctlDie .firmware (l.gbase + g.dest) n true = (v, 0) → v.gddrWriteNow .firmware (l.gbase + g.dest) bs [] = (u, st) → st ≠ 1 → st ≠ 3 →
    u.carryBack v0.ctlDie .firmware (l.gbase + g.dest) n true = (w, 0) →
    ∃ t, exec (.loadKind5Write 0 []) s = .next t ∧ t.load = some { l with k5 := true } ∧ t.mem = w.mem ∧ t.regs = w.regs ∧ t.cells = s.cells) ∧
  (∀ (s : State) (l : LoadSt) (g : Seg) (n : Nat) (bs : List Byte), s.load = some l → l.prepared = true → l.k5 = false → l.entered = true →
    l.segs.filter (fun g => g.kind == 5) = [g] → chunksOf g.len = [(0, 0, n)] → s.fates = [] → s.readChunk l.src g 0 0 n = (s, some (bs, crc32c bs)) →
    ∃ t, exec (.loadKind5Write 3 []) s = .next t ∧ t.load = none ∧ t.loadPhase = 6 ∧ t.fld (ecKey BOOT_LOAD_STAT) 3 5 = 17) ∧
  (∀ (s : State) (l : LoadSt) (j : Job), s.load = some l → l.prepared = true → l.k5 = true → s.roundOver l = true → (State.roundsOf l)[l.round]? = none →
    0 < l.round → l.k4 = [] → s.job? l.job = some j → j.state = 1 →
    ∃ t, exec .loadInitialise s = .next t ∧ t.load = none ∧ t.job? l.job = some { j with state := 2 } ∧ t.loadPhase = 5 ∧ t.panels = s.panels ∧
      ∀ c, (t.cell c).head = (s.cell c).head ∧ (t.cell c).tail = (s.cell c).tail ∧ t.mxe c = s.mxe c)

/-! ### GDDR7 (R256-R280) -/

/-- R261, R265, R267, R268, R277. GDDR_READ of one stripe of a device in service: good half-blocks answer their bytes and change no memory; a single-bit error is
answered corrected and the half-block is rewritten; an uncorrectable half-block is answered as lost words with STATUS 2 and stored as poison, with class 0x42. A request that R265
refuses answers STATUS 1 with class 0x44. GDDR_WRITE of a whole half-block stores it with a fresh check field and no read; a part is merged into a good half-block; a poisoned word makes
its half-block poison. An uncorrectable error of the controller's own state logs class 0x49 and answers nothing. The raw test commands take their
turn behind the requests that wait for their channel, and write and read a check field alone. -/
def Obligations.GddrReadsAndWrites : Prop :=
  (∀ (s : State) (req : Req) (ga : GAddr) (len : Nat) (g : GLoc), s.gddrReason (bits ga.toNat 0 44) len = 0 → s.locate (bits ga.toNat 0 44) = some g →
    s.heldBack g = false → s.tagBad g (bits ga.toNat 0 44) = false → s.devState g.d g.n ≠ 6 →
    (∀ h ∈ halvesOf (bits ga.toNat 0 44) len, gddrJudge (s.half h) (s.halfChk h) = .good) →
    exec (.gddrRead req ga len 0 0) s = .next (s.answer req (.read (s.bytes (bits ga.toNat 0 44) len) [] 0))) ∧
  (∀ (s : State) (req : Req) (ga : GAddr) (g : GLoc) (a w v : Nat), a = bits ga.toNat 0 44 → a % 32 = 0 → s.gddrReason a 32 = 0 → s.locate a = some g →
    s.heldBack g = false → s.tagBad g a = false → s.devState g.d g.n ≠ 6 → w = s.half a →
    s.written (memKey g.d g.n MEM_ECC_CNT) = false →
    (gddrJudge w (s.halfChk a) = .single v →
      ∃ t, exec (.gddrRead req ga 32 0 0) s = .next t ∧ (req, Resp.read (toLe 32 v) [] 0) ∈ t.resp ∧ t.half a = v ∧ t.halfChk a = gddrCheck v ∧
        t.fld (memKey g.d g.n MEM_ECC_CNT) 0 16 = min (s.fld (memKey g.d g.n MEM_ECC_CNT) 0 16 + 1) 0xFFFF ∧
        ∀ k, (k < a ∨ a + 32 ≤ k) → k ≠ gddrChkKey a → k ≠ gddrChkKey a + 1 → t.byte k = s.byte k) ∧
    (gddrJudge w (s.halfChk a) = .bad →
      ∃ t, exec (.gddrRead req ga 32 0 0) s = .next t ∧ (req, Resp.read (List.replicate 32 0) [0, 1, 2, 3] 2) ∈ t.resp ∧ t.half a = 0 ∧
        t.halfChk a = 0xFFFF ∧ s.logs t 0x42 (.dieUnit g.d g.n) 0 ∧ (t.mc g.d g.n).tests = (s.mc g.d g.n).tests ++ [s.err.nextSn] ∧
        t.fld (memKey g.d g.n MEM_ECC_CNT) 16 16 = min (s.fld (memKey g.d g.n MEM_ECC_CNT) 16 16 + 1) 0xFFFF ∧ t.cells = s.cells ∧
        ∀ k, (k < a ∨ a + 32 ≤ k) → k ≠ gddrChkKey a → k ≠ gddrChkKey a + 1 → t.byte k = s.byte k)) ∧
  (∀ (s : State) (c : Nat) (k : CoreSel) (ga : GAddr) (data : List Byte) (pois : List Nat) (len m r : Nat), s.gddrReason (bits ga.toNat 0 44) len = r → r ≠ 0 → data.length = len →
    (∃ t e, exec (.gddrRead (.far c k) ga len m 0) s = .next t ∧ t.mem = s.mem ∧
      s.regsBut t (match s.locate (bits ga.toNat 0 44) with
        | some g => [memKey g.d g.n MEM_ERR_ADDR, memKey g.d g.n MEM_ERR_INFO] | none => []) ∧ (Req.far c k, Resp.read [] [] 1) ∈ t.resp ∧
      t.err.recQ = s.err.recQ ++ [e] ∧ e.cls = 0x44 ∧ e.detail = BitVec.ofNat 64 (r + bits ga.toNat 0 44 * 2 ^ 8) ∧ e.struck = some c) ∧
    ∃ t e, exec (.gddrWrite (.far c k) ga data pois m 0) s = .next t ∧ t.mem = s.mem ∧ (Req.far c k, Resp.ack 1) ∈ t.resp ∧
      t.err.recQ = s.err.recQ ++ [e] ∧ e.cls = 0x44) ∧
  (∀ (s : State) (req : Req) (ga : GAddr) (g : GLoc) (a : Nat) (data : List Byte), a = bits ga.toNat 0 44 → a % 32 = 0 → data.length = 32 → s.gddrReason a 32 = 0 → s.locate a = some g →
    s.heldBack g = false → s.devState g.d g.n ≠ 6 →
    (∃ t, exec (.gddrWrite req ga data [] 0 0) s = .next t ∧ (req, Resp.ack 0) ∈ t.resp ∧ t.bytes a 32 = data ∧ t.halfChk a = gddrCheck (ofLe data) ∧
      t.regs = s.regs ∧ t.err = s.err ∧ ∀ k, (k < a ∨ a + 32 ≤ k) → k ≠ gddrChkKey a → k ≠ gddrChkKey a + 1 → t.byte k = s.byte k) ∧
    ∃ t, exec (.gddrWrite req ga data [2] 0 0) s = .next t ∧ (req, Resp.ack 0) ∈ t.resp ∧ t.half a = 0 ∧ t.halfChk a = 0xFFFF ∧ t.regs = s.regs ∧ t.err = s.err ∧
      ∀ k, (k < a ∨ a + 32 ≤ k) → k ≠ gddrChkKey a → k ≠ gddrChkKey a + 1 → t.byte k = s.byte k) ∧
  (∀ (s : State) (req : Req) (ga : GAddr) (g : GLoc) (a : Nat) (data : List Byte), a = bits ga.toNat 0 44 → 0 < data.length → a % 32 + data.length < 32 →
    s.gddrReason a data.length = 0 → s.locate a = some g → s.heldBack g = false → s.tagBad g a = false → s.devState g.d g.n ≠ 6 →
    (gddrJudge (s.half a) (s.halfChk a) = .good →
      ∃ t, exec (.gddrWrite req ga data [] 0 0) s = .next t ∧ (req, Resp.ack 0) ∈ t.resp ∧ t.bytes a data.length = data ∧ t.halfChk a = gddrCheck (t.half a) ∧
        t.regs = s.regs ∧ t.err = s.err ∧ ∀ k, (k < a ∨ a + data.length ≤ k) → k ≠ gddrChkKey a → k ≠ gddrChkKey a + 1 → t.byte k = s.byte k) ∧
    (gddrJudge (s.half a) (s.halfChk a) = .poison →
      ∃ t e, exec (.gddrWrite req ga data [] 0 0) s = .next t ∧ (req, Resp.ack 2) ∈ t.resp ∧ t.half a = 0 ∧ t.halfChk a = 0xFFFF ∧
        t.err.recQ = s.err.recQ ++ [e] ∧ e.cls = 0x43 ∧ e.struck = originCell req)) ∧
  (∀ (s : State) (req : Req) (ga : GAddr) (len m : Nat) (g : GLoc), s.locate (bits ga.toNat 0 44) = some g →
    ∃ t, exec (.gddrRead req ga len m 2) s = .next t ∧ t.resp = s.resp ∧ t.mem = s.mem ∧ s.logs t 0x49 (.dieUnit g.d g.n) 0) ∧
  (∀ (s u : State) (req : Req) (d n : Nat), s.testServed d n = true → u = (s.dropPend req (keyBlock (memKey d n MEM_ECC_TCMD))).rawTurn (s.testAddr d n) →
    (∃ t, exec (.memEccRawWrite req d n) s = .next t ∧ t.halfChk (s.testAddr d n) = s.fld (memKey d n MEM_ECC_TCHK) 0 16 ∧
      t.half (s.testAddr d n) = u.half (s.testAddr d n) ∧ t.regs = u.regs ∧ t.err = u.err) ∧
    (u.written (memKey d n MEM_ECC_TCHK) = false →
      ∃ t, exec (.memEccRawRead req d n) s = .next t ∧ t.fld (memKey d n MEM_ECC_TCHK) 0 16 = u.halfChk (s.testAddr d n) ∧
        t.fld (memKey d n MEM_ECC_TCHK) 16 16 = u.halfChk (s.testAddr d n) ^^^ gddrCheck (u.half (s.testAddr d n)) ∧
        u.regsBut t [memKey d n MEM_ECC_TCHK] ∧ t.mem = u.mem ∧ t.err = u.err) ∧
    ((s.mc d n).waits = [] → (∀ ch, s.retraining d n ch = false) → s.fates = [] → u.mem = s.mem ∧ u.regs = s.regs ∧ u.err = s.err))

/-- R269, R270, R273, R274, R277. Fewer than three mismatches are counted as retries and the transfer goes on; the third starts a retrain of that channel alone, and the request waits. CHANNEL_RETRAIN_DONE: a pass
logs class 0x45 and performs what waited; a failure puts the device out of service with class 0x46 and a TYPE 0x7 entry. GDDR_SCRUB_SEGMENT
reads the next segment and, at the last one, counts a pass; a read that starts a retrain is made again. GDDR_TEMP_READ keeps the reading and the highest and sets DREF and THROT at 85 and 95
degrees. GDDR_REFRESH changes no stored bit. -/
def Obligations.GddrDevicesRetrainScrubAndRefresh : Prop :=
  (∀ (s : State) (req : Req) (ga : GAddr) (len m : Nat) (g : GLoc), s.gddrReason (bits ga.toNat 0 44) len = 0 → s.locate (bits ga.toNat 0 44) = some g →
    s.heldBack g = false → g.ch < 4 → 3 ≤ m → s.written (memKey g.d g.n MEM_EDC_CNT) = false →
    ∃ t, exec (.gddrRead req ga len m 0) s = .next t ∧ t.retraining g.d g.n g.ch = true ∧ t.resp = s.resp ∧
      (t.mc g.d g.n).waits = (s.mc g.d g.n).waits ++ [⟨req, bits ga.toNat 0 44, len, none, s.slot⟩] ∧ t.mem = s.mem ∧
      t.fld (memKey g.d g.n MEM_EDC_CNT) 0 16 = min (s.fld (memKey g.d g.n MEM_EDC_CNT) 0 16 + 3) 0xFFFF ∧
      t.fld (memKey g.d g.n MEM_EDC_CNT) 16 8 = min (s.fld (memKey g.d g.n MEM_EDC_CNT) 16 8 + 1) 0xFF ∧
      (∀ c, c < 4 → c ≠ g.ch → t.retraining g.d g.n c = s.retraining g.d g.n c) ∧ t.cells = s.cells) ∧
  (∀ (s : State) (d n ch : Nat), s.retraining d n ch = true → ch < 4 → (s.mc d n).waits = [] →
    (∃ t, exec (.channelRetrainDone d n ch true) s = .next t ∧ t.retraining d n ch = false ∧ s.logs t 0x45 (.dieUnit d n) 0 ∧
      t.devState d n = s.devState d n ∧ t.mem = s.mem ∧ t.flash = s.flash ∧
      s.regsBut t [memKey d n MEM_STAT, memKey d n MEM_ERR_ADDR, memKey d n MEM_ERR_INFO]) ∧
    ∃ t r, exec (.channelRetrainDone d n ch false) s = .next t ∧ t.retraining d n ch = false ∧ t.devState d n = 6 ∧
      t.fld (memKey d n MEM_TRAIN_STAT) 6 3 = 5 ∧ r ∈ t.err.recQ ∧ r.cls = 0x46 ∧ r.loc = .dieUnit d n ∧ t.mem = s.mem) ∧
  (∀ (s : State) (w : GWait) (g : GLoc), s.retraining g.d g.n g.ch = true → g.ch < 4 → (s.mc g.d g.n).waits = [w] → w.data = none → s.locate w.addr = some g →
    s.meshBefore g w.slot = false → s.devState g.d g.n ≠ 6 → s.tagBad g w.addr = false →
    (∀ h ∈ halvesOf w.addr w.len, gddrJudge (s.half h) (s.halfChk h) = .good) →
    ∃ t, exec (.channelRetrainDone g.d g.n g.ch true) s = .next t ∧ (w.req, Resp.read (s.bytes w.addr w.len) [] 0) ∈ t.resp ∧ t.mem = s.mem ∧
      (t.mc g.d g.n).waits = []) ∧
  (∀ (s : State) (d n a : Nat) (g : GLoc), s.liveDevs.findIdx (fun p => p == (d, n)) < s.liveDevs.length → s.devState d n = 4 →
    a = ((s.mc d n).scrub * s.liveDevs.length + s.liveDevs.findIdx (fun p => p == (d, n))) * 960 → s.locate a = some g → s.tagBad g a = false → s.mcIdle d n = true →
    s.now ≤ (s.mc d n).passStart + s.fld (memKey d n MEM_SCRUB_RATE) 0 16 * 60000000000 →
    (∀ h ∈ halvesOf a 960, gddrJudge (s.half h) (s.halfChk h) = .good) →
    ∃ t, exec (.gddrScrubSegment d n 0 0) s = .next t ∧ t.mem = s.mem ∧ t.err = s.err ∧
      if (s.mc d n).scrub + 1 < s.segs then (t.mc d n).scrub = (s.mc d n).scrub + 1 ∧ t.regs = s.regs
      else (t.mc d n).scrub = 0 ∧ (t.mc d n).passStart = s.now ∧
        t.fld (memKey d n MEM_SCRUB_STAT) 0 16 = (s.fld (memKey d n MEM_SCRUB_STAT) 0 16 + 1) % 2 ^ 16 ∧ t.fld (memKey d n MEM_SCRUB_STAT) 16 1 = 0) ∧
  (∀ (s : State) (d n a m : Nat) (g : GLoc), s.liveIdx d n < s.liveDevs.length → s.devState d n = 4 →
    a = ((s.mc d n).scrub * s.liveDevs.length + s.liveIdx d n) * 960 → s.locate a = some g → s.mcIdle d n = true → 3 ≤ m →
    ∃ t, exec (.gddrScrubSegment d n m 0) s = .next t ∧ t.retraining d n g.ch = true ∧ (t.mc d n).scrub = (s.mc d n).scrub ∧ t.mem = s.mem) ∧
  (∀ (s : State) (d n : Nat) (v : Int), -128 ≤ v → v ≤ 127 →
    ∃ t, exec (.gddrTempRead d n v) s = .next t ∧ toSigned 8 (t.fld (memKey d n MEM_TEMP) 0 8) = v ∧
      toSigned 8 (t.fld (memKey d n MEM_TEMP) 8 8) = max (toSigned 8 (s.fld (memKey d n MEM_TEMP) 8 8)) v ∧
      (85 ≤ v → t.fld (memKey d n MEM_STAT) 8 1 = 1) ∧ (v < 80 → t.fld (memKey d n MEM_STAT) 8 1 = 0) ∧
      (80 ≤ v → v < 85 → t.fld (memKey d n MEM_STAT) 8 1 = s.fld (memKey d n MEM_STAT) 8 1) ∧
      (95 ≤ v → t.fld (memKey d n MEM_STAT) 7 1 = 1) ∧ (v < 90 → t.fld (memKey d n MEM_STAT) 7 1 = 0) ∧
      (90 ≤ v → v < 95 → t.fld (memKey d n MEM_STAT) 7 1 = s.fld (memKey d n MEM_STAT) 7 1) ∧
      (if 95 ≤ v ∧ s.fld (memKey d n MEM_STAT) 7 1 = 0 then s.logs t 0x47 (.dieUnit d n) 0 else t.err = s.err) ∧
      t.mem = s.mem ∧ s.regsBut t [memKey d n MEM_TEMP, memKey d n MEM_STAT, memKey d n MEM_ERR_ADDR, memKey d n MEM_ERR_INFO]) ∧
  (∀ (s : State) (d n b : Nat), ∃ t, exec (.gddrRefresh d n b) s = .next t ∧ (t.mc d n).refreshes = (s.mc d n).refreshes + 1 ∧
    t.mem = s.mem ∧ t.regs = s.regs ∧ t.err = s.err)

/-! ### Xildo fabric (R281-R312) -/

/-- R286, R287, R289, R291, R292, R294, R295, R297, R300, R303, R310. FAB_SUBMIT_*: a legal command is queued and acknowledged; a full queue holds it back; an illegal one is refused with
class 0x54 and its reason, and answers STATUS 1. FAB_COMMAND_START gives the first startable command a tag and sends its frames under the context's next SEQ: at an Ethernet port at once,
at a native port against its credits; over a port that is not up it fails with class 0x56 and cause 3. COMMAND_TIMEOUT fails a command with cause 2 once REQ_TO has passed. CONTEXT_OPEN and
CONTEXT_CLOSE move an allocated context. -/
def Obligations.FabCommandsAreQueuedAndStarted : Prop :=
  (∀ (s : State) (req : Req) (d op : Nat) (c : BitVec 256) (i : Instr),
    (i = .fabSubmitPut req d c ∧ op = 1) ∨ (i = .fabSubmitGet req d c ∧ op = 2) ∨ (i = .fabSubmitSignal req d c ∧ op = 3) ∨ (i = .fabSubmitReduce req d c ∧ op = 4) →
    (s.fabFull d = false → s.submitReason req d (State.withOp c op) = 0 →
      ∃ t, exec i s = .next t ∧ t.fabQ = s.fabQ ++ [(d, ⟨State.withOp c op, req⟩)] ∧ cOp (State.withOp c op) = op ∧ (req, Resp.ack 0) ∈ t.resp ∧
        t.regs = s.regs ∧ t.ctxs = s.ctxs ∧ t.tags = s.tags ∧ t.err = s.err ∧ t.mem = s.mem) ∧
    (s.fabFull d = true →
      ∃ t, exec i s = .next t ∧ t.fabWait = s.fabWait ++ [(d, ⟨State.withOp c op, req⟩)] ∧ t.fabQ = s.fabQ ∧ t.resp = s.resp ∧ t.regs = s.regs ∧ t.err = s.err) ∧
    (s.fabFull d = false → s.submitReason req d (State.withOp c op) ≠ 0 →
      ∃ t e, exec i s = .next t ∧ t.fabQ = s.fabQ ∧ (req, Resp.ack 1) ∈ t.resp ∧
        t.fld (dieKey d FAB_SUBMIT_STAT) 10 4 = s.submitReason req d (State.withOp c op) ∧ s.regsBut t [dieKey d FAB_SUBMIT_STAT] ∧
        t.err.recQ = s.err.recQ ++ [e] ∧ e.cls = 0x54 ∧ e.struck = originCell req ∧
        e.detail = BitVec.ofNat 64 (s.submitReason req d (State.withOp c op) + cQueue (State.withOp c op) * 2 ^ 8))) ∧
  (∀ (s : State) (d n q : Nat) (fc : FabCmd) (x : Ctx), s.startable d s.fabQ [] = some fc → s.freeTag d = some n → q = cQueue fc.cmd → State.ctxDie q = d → x = s.ctx q →
    s.fabWait.filter (fun e => e.1 == d) = [] → s.pstate d x.port = 2 → cOp fc.cmd = 3 →
    (s.ethernet d x.port = true →
      ∃ t g, exec (.fabCommandStart d 0) s = .next t ∧ s.sendsEther t d x.port x.dmac g ∧ g.ftype = 4 ∧ g.seq = x.txSeq ∧ g.tag = n ∧
        g.gen = (s.tag d n).gen ∧ g.rsig = cRsig fc.cmd ∧ g.last = true ∧ g.dstEngine = x.peerEngine ∧ g.dstQueue = x.peerQueue ∧ g.srcQueue = q ∧ g.sig = cSig fc.cmd ∧ g.payload = [] ∧
        (t.tag d n).cmd = some fc ∧ (t.tag d n).start = s.now ∧ (t.ctx q).inflight = x.inflight + 1 ∧ (t.ctx q).txSeq = x.txSeq + 1 ∧
        t.fabQ.length + 1 = s.fabQ.length ∧ t.mem = s.mem ∧ t.regs = s.regs ∧ t.err = s.err) ∧
    (s.ethernet d x.port = false → (s.fport d x.port).held = [] → 1 ≤ (s.fport d x.port).crReq → State.retryBytes (s.fport d x.port) + 36 ≤ 262144 →
      ∃ t g, exec (.fabCommandStart d 0) s = .next t ∧ g.ftype = 4 ∧ g.seq = x.txSeq ∧ g.tag = n ∧ (frameBytes g).length = 36 ∧ frameUnits g = 1 ∧
        t.out = .frame d x.port (nativeBytes (linkHead (s.fport d x.port) (s.fport d x.port).lseq false false false) (frameBytes g)) :: s.out ∧
        (t.fport d x.port).retry = (s.fport d x.port).retry ++ [((s.fport d x.port).lseq, g)] ∧ (t.fport d x.port).crReq = (s.fport d x.port).crReq - 1 ∧
        (t.fport d x.port).lseq = ((s.fport d x.port).lseq + 1) % 4096 ∧ (t.ctx q).unacked = x.unacked ∧ t.regs = s.regs ∧ t.err = s.err)) ∧
  (∀ (s s2 v w : State) (d n q c off len : Nat) (fc : FabCmd) (x : Ctx), s.startable d s.fabQ [] = some fc → s.freeTag d = some n → q = cQueue fc.cmd → State.ctxDie q = d → x = s.ctx q →
    s.fabWait.filter (fun e => e.1 == d) = [] → s.pstate d x.port = 2 → s.ethernet d x.port = true → cOp fc.cmd = 1 → len = cLen fc.cmd →
    piecesBy (maxPay (s.fld (fabKey d x.port FAB_PCFG) 4 2)) (cRemote fc.cmd) len = [(0, len)] →
    s2 = ((({ s with fabQ := s.fabQ.eraseP fun e => e.1 == d && e.2.cmd == fc.cmd && decide (e.2.req = fc.req) } : State).setCtx q { x with inflight := x.inflight + 1 }).setTag d n
      { gen := (s.tag d n).gen, cmd := some fc, start := s.now, pois := false, got := 0 }) →
    s2.carryOut d (.agent d) (cLocal fc.cmd) len false = (v, 0) → bits (cLocal fc.cmd) 44 4 = 1 → v.target (cLocal fc.cmd) = .spm c off → v.spmCheckRun c off len 4 false = none →
    (∀ j, j < len → judge (v.wordAt c (off + j)) (v.chkAt c (off + j)) = .good) → (v.meshRead c off len).1.carryBack d (.agent d) (cLocal fc.cmd) len false = (w, 0) →
    ∃ t g, exec (.fabCommandStart d 0) s = .next t ∧ s.sendsEther t d x.port x.dmac g ∧ g.ftype = 1 ∧ g.seq = x.txSeq ∧ g.tag = n ∧
      g.last = true ∧ g.addr = BitVec.ofNat 48 (cRemote fc.cmd) ∧ g.payload = s.bytes (spmKey c off) len ∧ g.paylen = len ∧ g.pois = [] ∧
      (t.tag d n).cmd = some fc ∧ (t.ctx q).inflight = x.inflight + 1 ∧ t.mem = s.mem ∧ t.regs = w.regs ∧ t.err = w.err) ∧
  (∀ (s : State) (d n q : Nat) (fc : FabCmd), q = cQueue fc.cmd → State.ctxDie q = d →
    (s.startable d s.fabQ [] = some fc → s.freeTag d = some n → s.fabWait.filter (fun e => e.1 == d) = [] → s.pstate d (s.ctx q).port ≠ 2 →
      ∃ t e, exec (.fabCommandStart d 0) s = .next t ∧ t.out = s.out ∧ (t.tag d n).cmd = none ∧ (t.ctx q).state = 3 ∧ (t.ctx q).cause = 3 ∧
        t.err.recQ = s.err.recQ ++ [e] ∧ e.cls = 0x56 ∧ e.struck = originCell fc.req ∧ t.mem = s.mem) ∧
    ((s.tag d n).cmd = some fc → (s.tag d n).start + 1000000 * s.fld (fabKey d (s.ctx q).port FAB_PTIME) 16 16 ≤ s.now →
      ∃ t e, exec (.commandTimeout d n) s = .next t ∧ (t.tag d n).cmd = none ∧ (t.tag d n).gen = ((s.tag d n).gen + 1) % 16 ∧ (t.ctx q).state = 3 ∧ (t.ctx q).cause = 2 ∧
        (t.ctx q).inflight = (s.ctx q).inflight - 1 ∧ t.err.recQ = s.err.recQ ++ [e] ∧ e.cls = 0x56 ∧ e.struck = originCell fc.req ∧ t.mem = s.mem ∧ t.regs = s.regs) ∧
    ((s.tag d n).cmd = some fc → s.now < (s.tag d n).start + 1000000 * s.fld (fabKey d (s.ctx q).port FAB_PTIME) 16 16 →
      exec (.commandTimeout d n) s = .next s)) ∧
  (∀ (s : State) (d p : Nat), (∃ t, exec (.fabCommandStart d 1) s = .next t ∧ t.fabQ = s.fabQ ∧ t.tags = s.tags ∧ t.out = s.out ∧ s.logs t 0x5B (.dieUnit d 0) 0) ∧
    (p < 3 → s.startable d s.fabQ [] = none → s.written (fabKey d p FAB_PRETRY) = false →
      ∃ t, exec (.fabCommandStart d (2 + p)) s = .next t ∧ t.fld (fabKey d p FAB_PRETRY) 0 16 = min (s.fld (fabKey d p FAB_PRETRY) 0 16 + 1) 0xFFFF ∧
        s.regsBut t [fabKey d p FAB_PRETRY] ∧ t.err = s.err)) ∧
  (∀ (s : State) (q : Nat) (x : Ctx), x = s.ctx q →
    ((x.state = 1 ∨ x.state = 3) → x.port ≠ 3 → x.peerEngine ≠ 0xFFFF → (s.ethernet (State.ctxDie q) x.port = false ∨ x.dmac ≠ 0) →
      ∃ t, exec (.contextOpen q) s = .next t ∧ (t.ctx q).state = 2 ∧ (t.ctx q).txSeq = 0 ∧ (t.ctx q).rxSeq = 0 ∧ (t.ctx q).cause = 0 ∧
        (t.ctx q).peerEngine = x.peerEngine ∧ (t.ctx q).winLen = x.winLen ∧ (∀ r, r ≠ q → t.ctx r = s.ctx r) ∧ t.regs = s.regs ∧ t.err = s.err) ∧
    (x.state = 0 → ∀ i, i = .contextOpen q ∨ i = .contextClose q →
      ∃ t, exec i s = .next t ∧ t.ctxs = s.ctxs ∧ t.tags = s.tags ∧ s.logs t 0x54 (.dieUnit (State.ctxDie q) 0) (8 + q * 2 ^ 8)) ∧
    ((x.state = 2 ∨ x.state = 3) → s.tagsOf q = [] →
      ∃ t, exec (.contextClose q) s = .next t ∧ t.ctx q = { x with state := 1 } ∧ (∀ r, r ≠ q → t.ctx r = s.ctx r) ∧ t.tags = s.tags ∧ t.regs = s.regs ∧ t.err = s.err))

/-- R282, R289, R298, R299, R305. Request frames in order from the peer of an open context: a put stores its payload and its last frame draws a completion with STATUS 0; a get
request is answered with the bytes; a signal reaches its cell's SYNC block before its completion; a reduce stores the FP32 sums. A frame outside the window is refused with STATUS 1 and class 0x57; one that
fails the first checks, is too long or is a pause frame is counted in FAB_PDROP and dropped, all but the pause frame as strange; a native frame with a bad link CRC draws a NAK. A native frame
in order brings credits, owes the credits of its own buffer and is acknowledged; one out of order is a copy and does not act. -/
def Obligations.FabRequestFramesAct : Prop :=
  (∀ (s v w : State) (d p e c off ga n : Nat) (link : DWord) (f : Frame) (x : Ctx), x = s.ctx f.dstQueue → e = State.ctxDie f.dstQueue → s.ethernet d p = true → s.ethernet e x.port = true →
    x.state = 2 → x.dropping = false → x.landedBad = false → x.landedPois = false → f.seq = x.rxSeq → f.last = true →
    s.fromPeer f = true → f.rsig = false → f.pois = [] → s.pstate e x.port = 2 → State.inWin x { f with ftype := 1 } = true → ga = f.addr.toNat → bits ga 44 4 = 1 →
    v.target ga = .spm c off →
    (State.frameBad { f with ftype := 1 } = false → off % 8 = 0 → n = f.payload.length → (s.countAck f.dstQueue).carryOut e (.agent e) ga n true = (v, 0) →
      v.spmCheckRun c off n 4 false = none → (v.meshWrite c off f.payload [] none).1.carryBack e (.agent e) ga n true = (w, 0) →
      ∃ t g, exec (.putFrameReceive d p f link) s = .next t ∧ (∀ j, j < n → some (t.byte (spmKey c (off + j))) = f.payload[j]?) ∧
        (∀ k, (∀ j, j < n → k ≠ spmKey c (off + j) ∧ k ≠ spmChkKey c (off + j)) → t.byte k = s.byte k) ∧
        s.sendsEther t e x.port x.dmac g ∧ g.ftype = 6 ∧ g.status = 0 ∧ g.tag = f.tag ∧ g.gen = f.gen ∧
        (t.ctx f.dstQueue).rxSeq = x.rxSeq + 1 ∧ t.regs = w.regs ∧ t.err = w.err ∧ t.cell c = { s.cell c with scrub := (t.cell c).scrub } ∧ s.cellsBut t c) ∧
    (State.frameBad { f with ftype := 2 } = false → n = f.paylen → (s.countAck f.dstQueue).carryOut e (.agent e) ga n false = (v, 0) → v.spmCheckRun c off n 4 false = none →
      (∀ j, j < n → judge (v.wordAt c (off + j)) (v.chkAt c (off + j)) = .good) → (v.meshRead c off n).1.carryBack e (.agent e) ga n false = (w, 0) →
      ∃ t g, exec (.getRequestReceive d p f link) s = .next t ∧ s.sendsEther t e x.port x.dmac g ∧ g.ftype = 3 ∧ g.status = 0 ∧
        g.tag = f.tag ∧ g.gen = f.gen ∧ g.payload = s.bytes (spmKey c off) n ∧ g.pois = [] ∧ t.mem = s.mem ∧ t.regs = w.regs ∧ t.err = w.err ∧ t.cells = s.cells)) ∧
  (∀ (s : State) (d p e a : Nat) (link : DWord) (f : Frame) (x : Ctx) (g : GLoc), x = s.ctx f.dstQueue → e = State.ctxDie f.dstQueue → s.ethernet d p = true → s.ethernet e x.port = true →
    x.state = 2 → x.dropping = false → x.landedBad = false → x.landedPois = false → f.seq = x.rxSeq → f.last = true → s.fromPeer f = true → f.rsig = false → f.pois = [] →
    s.pstate e x.port = 2 → State.inWin x { f with ftype := 5 } = true → a = f.addr.toNat → bits a 44 4 = 0 → a % 32 = 0 → s.gddrReason a 32 = 0 → s.locate a = some g → g.d = e →
    s.devState g.d g.n ≠ 6 → s.retraining g.d g.n g.ch = false → (s.mc g.d g.n).waits = [] → s.fates = [] →
    s.tagBad g a = false → gddrJudge (s.half a) (s.halfChk a) = .good → State.frameBad { f with ftype := 5 } = false → f.rfmt = 0 → f.paylen = 32 →
    ∃ t y, exec (.reduceFrameReceive d p f link) s = .next t ∧
      (∀ j, j < 8 → ofLe (t.bytes (a + 4 * j) 4) = State.sum32 (ofLe (s.bytes (a + 4 * j) 4)) (ofLe ((f.payload.drop (4 * j)).take 4))) ∧
      t.halfChk a = gddrCheck (t.half a) ∧ (∀ k, (k < a ∨ a + 32 ≤ k) → k ≠ gddrChkKey a → k ≠ gddrChkKey a + 1 → t.byte k = s.byte k) ∧
      s.sendsEther t e x.port x.dmac y ∧ y.ftype = 6 ∧ y.status = 0 ∧ t.regs = s.regs ∧ t.err = s.err) ∧
  (∀ (s u v : State) (d p e c : Nat) (link : DWord) (f : Frame) (x : Ctx) (k : Pkt), x = s.ctx f.dstQueue → e = State.ctxDie f.dstQueue → s.ethernet d p = true →
    s.ethernet e x.port = true → x.state = 2 → x.dropping = false → x.landedBad = false → x.landedPois = false → f.seq = x.rxSeq → f.last = true →
    s.fromPeer f = true → f.rsig = true → s.pstate e x.port = 2 → s.sigBadTarget f = false → State.frameBad { f with ftype := 4 } = false →
    u = (s.countAck f.dstQueue).setCtx f.dstQueue { (s.countAck f.dstQueue).ctx f.dstQueue with landedBad := false, landedPois := false } →
    k = { Pkt.blank 5 (.agent e) (.agent e) with
      x := bits f.sig.toNat 16 8, y := bits f.sig.toNat 24 7, ctr := bits f.sig.toNat 0 6, epoch := bits f.sig.toNat 6 2, inc := bits f.sig.toNat 8 8 } →
    u.physicalOf k.x k.y = some c → u.carry e k (.cell k.x k.y) = (v, 0) → v.isHole c = false →
    ∃ t g, exec (.signalFrameReceive d p f link) s = .next t ∧
      t.cell c = { s.cell c with sigs := (s.cell c).sigs ++ [((s.cell c).rcyc, ⟨k.ctr, k.epoch, k.inc, none, true⟩)] } ∧ s.cellsBut t c ∧
      s.sendsEther t e x.port x.dmac g ∧ g.ftype = 6 ∧ g.status = 0 ∧ g.tag = f.tag ∧
      (t.ctx f.dstQueue).rxSeq = x.rxSeq + 1 ∧ t.mem = s.mem ∧ t.net = s.net) ∧
  (∀ (s : State) (d p e : Nat) (link : DWord) (f : Frame) (x : Ctx), x = s.ctx f.dstQueue → e = State.ctxDie f.dstQueue → s.ethernet d p = true → s.ethernet e x.port = true → x.state = 2 →
    x.dropping = false → f.seq = x.rxSeq → s.fromPeer f = true →
    s.pstate e x.port = 2 → State.frameBad { f with ftype := 1 } = false → State.inWin x { f with ftype := 1 } = false →
    ∃ t g, exec (.putFrameReceive d p f link) s = .next t ∧ t.mem = s.mem ∧ s.sendsEther t e x.port x.dmac g ∧ g.ftype = 6 ∧
      g.status = 1 ∧ g.tag = f.tag ∧ s.logs t 0x57 (.dieUnit e x.port) 0) ∧
  (∀ (s : State) (d p : Nat) (k : BadFrame), s.written (fabKey d p FAB_PDROP) = false → k ≠ .linkCrc ∨ s.ethernet d p = true →
    ∃ t, exec (.malformedFrameReceive d p k) s = .next t ∧ t.fld (fabKey d p FAB_PDROP) 0 16 = min (s.fld (fabKey d p FAB_PDROP) 0 16 + 1) 0xFFFF ∧
      (k = .pause → t.err = s.err) ∧ s.regsBut t [fabKey d p FAB_PDROP] ∧ t.mem = s.mem ∧ t.ctxs = s.ctxs ∧ t.out = s.out) ∧
  (∀ (s : State) (d p : Nat) (x : FPort), s.ethernet d p = false → x = s.fport d p →
    ∃ t, exec (.malformedFrameReceive d p .linkCrc) s = .next t ∧ t.out = .frame d p (nativeBytes (linkHead x x.lseq true false true) []) :: s.out ∧
      (t.fport d p).lack = x.lack ∧ (t.fport d p).lseq = x.lseq ∧ t.mem = s.mem ∧ t.regs = s.regs ∧ t.ctxs = s.ctxs) ∧
  (∀ (s : State) (d p : Nat) (link : DWord) (f : Frame) (x : FPort), s.ethernet d p = false → x = s.fport d p → bit link.toNat 24 = false → x.held = [] → State.frameBad { f with ftype := 1 } = true →
    ∃ t, exec (.putFrameReceive d p f link) s = .next t ∧ (t.fport d p).crReq = x.crReq + bits link.toNat 32 16 ∧ (t.fport d p).crRsp = x.crRsp + bits link.toNat 48 16 ∧
      (bits link.toNat 0 12 = (x.lack + 1) % 4096 → (t.fport d p).lack = (x.lack + 1) % 4096 ∧ (t.fport d p).due = true ∧
        (t.fport d p).owedReq = x.owedReq + frameUnits { f with ftype := 1 } ∧ (t.fport d p).owedRsp = x.owedRsp) ∧
      (bits link.toNat 0 12 ≠ (x.lack + 1) % 4096 → (t.fport d p).lack = x.lack ∧ (t.fport d p).owedReq = x.owedReq ∧ t.regs = s.regs ∧ t.err = s.err) ∧
      t.mem = s.mem ∧ t.ctxs = s.ctxs)

/-- R289, R300, R301, R302, R304. Responses: the last get response stores its data and ends the command; a completion with STATUS 0 ends it and one with STATUS 1 fails it with cause 1; a
response whose GEN is not current is counted and dropped. FRAME_ACK_RECEIVE releases the frames up to its SEQ. A fault notice logs class 0x56 with cause 5 for each context
of that peer. NATIVE_LINK_NAK takes a link header without transport frame: it releases the frames up to LACK, and with NAK = 1 sends those after it again. E2E_ACK_SEND acknowledges the last SEQ in order; E2E_RESEND_TIMEOUT sends every
unacknowledged frame again and doubles the interval. -/
def Obligations.FabResponsesAndRetries : Prop :=
  (∀ (s v w : State) (d p n e q c off : Nat) (link : DWord) (f : Frame) (fc : FabCmd), s.ethernet d p = true → q = f.dstQueue → e = State.ctxDie q → s.fromPeer f = true → n = f.tag → (s.tag e n).cmd = some fc →
    (s.tag e n).gen = f.gen → cQueue fc.cmd = q → cCsig fc.cmd = false →
    (State.frameBad { f with ftype := 3 } = false → f.status = 0 → f.pois = [] → (s.tag e n).got = 0 → cLen fc.cmd = f.paylen → off % 8 = 0 → bits (cLocal fc.cmd) 44 4 = 1 →
      s.carryOut e (.agent e) (cLocal fc.cmd) f.payload.length true = (v, 0) → v.target (cLocal fc.cmd) = .spm c off → v.spmCheckRun c off f.payload.length 4 false = none →
      (v.meshWrite c off f.payload [] none).1.carryBack e (.agent e) (cLocal fc.cmd) f.payload.length true = (w, 0) →
      ∃ t, exec (.getResponseReceive d p f link) s = .next t ∧ (∀ j, j < f.payload.length → some (t.byte (spmKey c (off + j))) = f.payload[j]?) ∧
        (∀ k, (∀ j, j < f.payload.length → k ≠ spmKey c (off + j) ∧ k ≠ spmChkKey c (off + j)) → t.byte k = s.byte k) ∧
        (t.tag e n).cmd = none ∧ (t.tag e n).gen = (f.gen + 1) % 16 ∧ (t.ctx q).inflight = (s.ctx q).inflight - 1 ∧ t.regs = w.regs ∧ t.err = w.err ∧ t.out = s.out) ∧
    (State.frameBad { f with ftype := 6 } = false →
      (f.status = 0 → ∃ t, exec (.completionReceive d p f link) s = .next t ∧ (t.tag e n).cmd = none ∧ (t.tag e n).gen = (f.gen + 1) % 16 ∧
        (t.ctx q).inflight = (s.ctx q).inflight - 1 ∧ (t.ctx q).state = (s.ctx q).state ∧ t.regs = s.regs ∧ t.err = s.err ∧ t.mem = s.mem ∧ t.out = s.out) ∧
      (f.status = 1 → ∃ t r, exec (.completionReceive d p f link) s = .next t ∧ (t.tag e n).cmd = none ∧ (t.ctx q).state = 3 ∧ (t.ctx q).cause = 1 ∧
        t.err.recQ = s.err.recQ ++ [r] ∧ r.cls = 0x56 ∧ r.struck = originCell fc.req ∧ t.regs = s.regs ∧ t.mem = s.mem))) ∧
  (∀ (s : State) (d p : Nat) (link : DWord) (f : Frame), s.ethernet d p = true → s.fromPeer f = true → State.frameBad { f with ftype := 6 } = false →
    (s.tag (State.ctxDie f.dstQueue) f.tag).gen ≠ f.gen → s.written (fabKey d p FAB_PDROP) = false →
    ∃ t, exec (.completionReceive d p f link) s = .next t ∧ t.tags = s.tags ∧ t.ctxs = s.ctxs ∧ t.mem = s.mem ∧
      t.fld (fabKey d p FAB_PDROP) 16 16 = min (s.fld (fabKey d p FAB_PDROP) 16 16 + 1) 0xFFFF ∧ s.regsBut t [fabKey d p FAB_PDROP]) ∧
  (∀ (s : State) (d p i : Nat) (link : DWord) (f : Frame), s.ethernet d p = true → s.fromPeer f = true → State.frameBad { f with ftype := 7 } = false →
    (s.ctx f.dstQueue).unacked.findIdx? (fun g => g.seq == f.seq) = some i →
    ∃ t, exec (.frameAckReceive d p f link) s = .next t ∧ (t.ctx f.dstQueue).unacked = (s.ctx f.dstQueue).unacked.drop (i + 1) ∧ (t.ctx f.dstQueue).progress = s.now ∧
      (t.ctx f.dstQueue).rto = 0 ∧ (∀ r, r ≠ f.dstQueue → t.ctx r = s.ctx r) ∧ t.regs = s.regs ∧ t.out = s.out ∧ t.err = s.err) ∧
  (∀ (s : State) (d p q : Nat) (link : DWord) (f : Frame) (x : Ctx), s.ethernet d p = true → State.frameBad { f with ftype := 15 } = false → s.ctxs = [(q, x)] → x.state = 2 → x.peerEngine = f.srcEngine →
    s.tags = [] →
    ∃ t, exec (.faultNoticeReceive d p f link) s = .next t ∧ t.ctxs = s.ctxs ∧ s.logs t 0x56 (.dieUnit (State.ctxDie q) x.port) (5 + q * 2 ^ 8) ∧ t.mem = s.mem ∧ t.regs = s.regs) ∧
  (∀ (s : State) (d p i : Nat) (link : DWord) (r : List (Nat × Frame)), s.ethernet d p = false → bit link.toNat 24 = true → (s.fport d p).held = [] →
    (s.fport d p).retry.findIdx? (fun e => e.1 == bits link.toNat 12 12) = some i → r = (s.fport d p).retry.drop (i + 1) → s.written (fabKey d p FAB_PRETRY) = false →
    ∃ t, exec (.nativeLinkNak d p link) s = .next t ∧ (t.fport d p).retry = r ∧ t.out.length = s.out.length + r.length ∧
      (∀ e, r = [e] → t.out = .frame d p (nativeBytes (linkHead (s.fport d p) e.1 false (respClass e.2) false) (frameBytes e.2)) :: s.out) ∧
      t.fld (fabKey d p FAB_PRETRY) 0 16 = min (s.fld (fabKey d p FAB_PRETRY) 0 16 + r.length) 0xFFFF ∧ s.regsBut t [fabKey d p FAB_PRETRY] ∧ t.mem = s.mem ∧ t.ctxs = s.ctxs) ∧
  (∀ (s : State) (d p i : Nat) (link : DWord) (x : FPort), s.ethernet d p = false → bit link.toNat 24 = false → x = s.fport d p → x.held = [] →
    x.retry.findIdx? (fun e => e.1 == bits link.toNat 12 12) = some i →
    ∃ t, exec (.nativeLinkNak d p link) s = .next t ∧ (t.fport d p).retry = x.retry.drop (i + 1) ∧ (t.fport d p).crReq = x.crReq + bits link.toNat 32 16 ∧
      (t.fport d p).crRsp = x.crRsp + bits link.toNat 48 16 ∧ t.out = s.out ∧ t.regs = s.regs ∧ t.err = s.err ∧ t.mem = s.mem ∧ t.ctxs = s.ctxs) ∧
  (∀ (s : State) (q : Nat) (x : Ctx), x = s.ctx q → s.pstate (State.ctxDie q) x.port = 2 →
    (s.ackDue q = true → ∃ t g, exec (.e2eAckSend q) s = .next t ∧ s.sendsEther t (State.ctxDie q) x.port x.dmac g ∧ g.ftype = 7 ∧ g.seq = x.rxSeq - 1 ∧
      (t.ctx q).toAck = 0 ∧ t.regs = s.regs ∧ t.mem = s.mem ∧ t.err = s.err) ∧
    (s.ethernet (State.ctxDie q) x.port = true → x.unacked ≠ [] → x.progress + 1000 * s.rtoOf q ≤ s.now →
      ∃ t, exec (.e2eResendTimeout q) s = .next t ∧ t.out.length = s.out.length + x.unacked.length ∧ (∀ f, x.unacked = [f] → s.sendsEther t (State.ctxDie q) x.port x.dmac f) ∧
        (t.ctx q).rto = min 10000 (2 * s.rtoOf q) ∧ (t.ctx q).progress = s.now ∧ (t.ctx q).unacked = x.unacked ∧ t.mem = s.mem ∧ t.err = s.err))

/-- R284, R285, R288, R289, R311. A burst of more than 16 codewords, loss of signal or FAB_PCMD.RETRAIN makes an up port retrain. PORT_RETRAIN_DONE: with a width left the port is up at the width and
first lane that the failed lanes allow, with the framing of its registers and, where a native link begins, at a first link-up or after Ethernet framing, the credits its partner advertises; a retrain logs class 0x51; with no width its state is 5, with class
0x53. FAB_PCFG.EN written 1 trains a disabled port, or holds it down unconfigured with class 0x5C, and 0 disables it. -/
def Obligations.FabPortsTrainAndFail : Prop :=
  (∀ (s : State) (d p l n k : Nat), s.pstate d p = 2 →
    (∃ t, exec (.partnerSignalLoss d p) s = .next t ∧ t.pstate d p = 3 ∧ s.regsBut t [fabKey d p FAB_PSTAT] ∧ t.err = s.err ∧ t.ctxs = s.ctxs ∧ t.tags = s.tags) ∧
    (∃ t, exec (.fabPcmdRetrain d p) s = .next t ∧ t.pstate d p = 3 ∧ s.regsBut t [fabKey d p FAB_PSTAT] ∧ t.err = s.err) ∧
    (16 < n → s.written (fabKey d p FAB_PFEC) = false → ∃ t, exec (.fecUncorrectableBurst d p l n k) s = .next t ∧ t.pstate d p = 3 ∧
      t.fld (fabKey d p FAB_PFEC) 32 32 = min (s.fld (fabKey d p FAB_PFEC) 32 32 + n) 0xFFFFFFFF ∧ s.regsBut t [fabKey d p FAB_PSTAT, fabKey d p FAB_PFEC])) ∧
  (∀ (s : State) (d p l n k : Nat), n ≤ 16 → s.written (fabKey d p FAB_PFEC) = false →
    ∃ t, exec (.fecUncorrectableBurst d p l n k) s = .next t ∧ t.pstate d p = s.pstate d p ∧
      t.fld (fabKey d p FAB_PFEC) 32 32 = min (s.fld (fabKey d p FAB_PFEC) 32 32 + n) 0xFFFFFFFF ∧
      t.fld (fabKey d p FAB_PFEC) 0 32 = min (s.fld (fabKey d p FAB_PFEC) 0 32 + k) 0xFFFFFFFF ∧ s.regsBut t [fabKey d p FAB_PFEC] ∧ t.err = s.err) ∧
  (∀ (s : State) (d p w f cq cr : Nat), s.pstate d p = 1 → (s.fport d p).pendDisable = false → (s.fport d p).held = [] → s.fld (ecKey LIC_STAT) 0 1 = 0 → s.unconfigured d p = false →
    portWidth (s.fld (fabKey d p FAB_PSTAT) 10 8) 4 (2 ^ s.fld (fabKey d p FAB_PCFG) 2 2) = some (w, f) →
    ∃ t, exec (.portRetrainDone d p 0 cq cr) s = .next t ∧ t.pstate d p = 2 ∧ t.fld (fabKey d p FAB_PSTAT) 4 3 = widthCode w ∧ t.fld (fabKey d p FAB_PSTAT) 7 3 = f % 8 ∧
      t.fld (fabKey d p FAB_PSTAT) 10 8 = s.fld (fabKey d p FAB_PSTAT) 10 8 ∧ (t.fport d p).crReq = cq ∧ (t.fport d p).crRsp = cr ∧ (t.fport d p).retry = [] ∧ (t.fport d p).lseq = 0 ∧
      t.ethernet d p = (s.fld (fabKey d p FAB_PCFG) 1 1 == 1) ∧ s.regsBut t [fabKey d p FAB_PSTAT] ∧ t.err = s.err ∧ t.ctxs = s.ctxs) ∧
  (∀ (s : State) (d p w f cq cr : Nat), s.pstate d p = 3 → (s.fport d p).pendDisable = false → (s.fport d p).held = [] → (s.fport d p).retry = [] → s.fld (ecKey LIC_STAT) 0 1 = 0 →
    (s.fport d p).ether = false ∨ s.fld (fabKey d p FAB_PCFG) 1 1 = 1 →
    s.unconfigured d p = false → portWidth (s.fld (fabKey d p FAB_PSTAT) 10 8) 4 (2 ^ s.fld (fabKey d p FAB_PCFG) 2 2) = some (w, f) →
    ∃ t r, exec (.portRetrainDone d p 0 cq cr) s = .next t ∧ t.pstate d p = 2 ∧ t.fld (fabKey d p FAB_PSTAT) 4 3 = widthCode w ∧ (t.fport d p).crReq = (s.fport d p).crReq ∧
      r ∈ t.err.recQ ∧ r.cls = 0x51 ∧ r.loc = .dieUnit d p ∧ (widthCode w < s.fld (fabKey d p FAB_PSTAT) 4 3 → ∃ q, q ∈ t.err.recQ ∧ q.cls = 0x52 ∧ q.loc = .dieUnit d p)) ∧
  (∀ (s : State) (d p w f cq cr : Nat), s.pstate d p = 3 → (s.fport d p).pendDisable = false → (s.fport d p).held = [] → s.fld (ecKey LIC_STAT) 0 1 = 0 →
    (s.fport d p).ether = true → s.fld (fabKey d p FAB_PCFG) 1 1 = 0 →
    s.unconfigured d p = false → portWidth (s.fld (fabKey d p FAB_PSTAT) 10 8) 4 (2 ^ s.fld (fabKey d p FAB_PCFG) 2 2) = some (w, f) →
    ∃ t, exec (.portRetrainDone d p 0 cq cr) s = .next t ∧ t.pstate d p = 2 ∧ t.ethernet d p = false ∧ (t.fport d p).crReq = cq ∧ (t.fport d p).crRsp = cr ∧
      (t.fport d p).lseq = 0 ∧ (t.fport d p).retry = []) ∧
  (∀ (s : State) (d p cq cr : Nat) (bad : BitVec 8), s.pstate d p = 1 ∨ s.pstate d p = 3 → (s.fport d p).pendDisable = false → s.fld (ecKey LIC_STAT) 0 1 = 0 → s.ctxs = [] → s.unconfigured d p = false →
    portWidth (s.fld (fabKey d p FAB_PSTAT) 10 8 ||| bad.toNat) 4 (2 ^ s.fld (fabKey d p FAB_PCFG) 2 2) = none →
    ∃ t r, exec (.portRetrainDone d p bad cq cr) s = .next t ∧ t.pstate d p = 5 ∧ t.fld (fabKey d p FAB_PSTAT) 4 3 = 0 ∧
      t.fld (fabKey d p FAB_PSTAT) 10 8 = s.fld (fabKey d p FAB_PSTAT) 10 8 ||| bad.toNat ∧ r ∈ t.err.recQ ∧ r.cls = 0x53 ∧ r.loc = .dieUnit d p ∧ s.regsBut t [fabKey d p FAB_PSTAT]) ∧
  (∀ (s : State) (d p : Nat), s.pstate d p = 0 →
    ∃ t, exec (.fabPortEnWrite d p true) s = .next t ∧ t.fld (fabKey d p FAB_PCFG) 0 1 = 1 ∧ s.regsBut t [fabKey d p FAB_PCFG, fabKey d p FAB_PSTAT] ∧
      if s.unconfigured d p then t.pstate d p = 4 ∧ ((s.fport d p).cfgLogged = false → s.logs t 0x5C (.dieUnit d p) 0) else t.pstate d p = 1 ∧ t.err = s.err) ∧
  (∀ (s : State) (d p : Nat), s.pstate d p = 2 → s.ctxs = [] →
    ∃ t, exec (.fabPortEnWrite d p false) s = .next t ∧ t.pstate d p = 0 ∧ t.fld (fabKey d p FAB_PCFG) 0 1 = 0 ∧ (t.fport d p).held = [] ∧
      s.regsBut t [fabKey d p FAB_PCFG, fabKey d p FAB_PSTAT] ∧ t.err = s.err)

/-! ### Host interface (R313-R337) -/

/-- R313, R315, R316, R335, R508. A port out of PERST# whose die has been powered trains: PCIE_LINK holds rate and width, and a link below x16 at PCIe 7.0 logs class 0x60. A link
that goes down logs class 0x69 and, as a Function Level Reset does, returns its rings to EN = 0, its event ring, MSI-X table and PCIE_CTRL to reset; a running ring stops with cause 5. A recovery is logged. A
configuration request within 100 ms of link up is retried; later a read shows the register, and a write sets what the host may set. PERST# returns every register and ring of the port to reset. -/
def Obligations.HostLinksTrainFailAndReset : Prop :=
  (∀ (s : State) (p speed width : Nat), s.part.ports.contains p = true → (s.hport p).perst = false → (s.hport p).powered = true → (s.hport p).up = false →
    5 ≤ speed → speed ≤ 7 → width ∈ [1, 2, 4, 8, 16] →
    ∃ t, exec (.pcieLinkUp p speed width) s = .next t ∧ t.hport p = { s.hport p with up := true, upSince := s.now, d3hot := false } ∧
      t.fld (State.pcieKey p PCIE_LINK) 0 3 = speed ∧ t.fld (State.pcieKey p PCIE_LINK) 3 5 = width ∧ s.regsBut t [State.pcieKey p PCIE_LINK] ∧
      (∀ q, q ≠ p → t.hport q = s.hport q) ∧ t.rings = s.rings ∧
      if speed < 7 ∨ width < 16 then s.logs t 0x60 (.dieUnit (portDie p) p) (speed + width * 2 ^ 3 + p * 2 ^ 9) else t.err = s.err) ∧
  (∀ (s : State) (p : Nat), (s.hport p).up = true → (∀ n, n < 256 → (s.ring p n).en = false) →
    ∃ t, exec (.pcieLinkDown p) s = .next t ∧ (t.hport p).up = false ∧ (t.hport p).msix = [] ∧ (t.hport p).pba = [] ∧ t.reg (State.pcieKey p PCIE_LINK) = 0 ∧
      t.reg (State.pcieKey p PCIE_CTRL) = regReset s.part (State.pcieKey p PCIE_CTRL) ∧ t.reg (State.pcieKey p PCIE_EVQ_PI) = 0 ∧ s.logs t 0x69 (.dieUnit (portDie p) p) 0 ∧
      (∀ q, q ≠ p → t.hport q = s.hport q) ∧ t.mem = s.mem ∧ t.jobs = s.jobs) ∧
  (∀ (s : State) (p n : Nat), n < 256 → (s.ring p n).en = true → (s.ring p n).stopped = false →
    ∃ t r, exec (.functionLevelReset p) s = .next t ∧ (t.ring p n).en = false ∧ (t.ring p n).stopped = true ∧ (t.ring p n).cause = 5 ∧ (t.ring p n).ci = (s.ring p n).ci ∧
      (t.ring p n).cur = none ∧ r ∈ t.err.recQ ∧ r.cls = 0x64 ∧ r.loc = .dieUnit (portDie p) n ∧ (t.hport p).msix = [] ∧
      t.reg (State.pcieKey p PCIE_CTRL) = regReset s.part (State.pcieKey p PCIE_CTRL) ∧ (t.hport p).up = (s.hport p).up ∧ t.jobs = s.jobs ∧ t.cells = s.cells) ∧
  (∀ (s : State) (p speed width : Nat), (s.hport p).up = true → speed < 8 → width < 32 → (∀ v, (s.hport p).lastRecovery = some v → v + 1000000000 ≤ s.now) →
    ∃ t, exec (.pcieLinkRecovery p speed width) s = .next t ∧ t.fld (State.pcieKey p PCIE_LINK) 0 3 = speed ∧ t.fld (State.pcieKey p PCIE_LINK) 3 5 = width ∧
      s.regsBut t [State.pcieKey p PCIE_LINK] ∧ (t.hport p).up = true ∧ s.logs t 0x60 (.dieUnit (portDie p) p) (speed + width * 2 ^ 3 + 2 ^ 8 + p * 2 ^ 9) ∧ t.rings = s.rings) ∧
  (∀ (s : State) (p w : Nat) (r : CfgReg) (v : Option Nat), (s.hport p).up = true →
    (s.now < (s.hport p).upSince + 100000000 → exec (.pcieConfigRequest p r v) s = .next (s.emit (.cfgRetry p))) ∧
    ((s.hport p).upSince + 100000000 ≤ s.now →
      exec (.pcieConfigRequest p r none) s = .next (s.emit (.hostCpl p true false (s.configShows p r))) ∧ s.configShows p .classCode = [0, 0, 0x12] ∧
      ((s.hport p).pba = [] →
        ∃ t, exec (.pcieConfigRequest p r (some w)) s = .next t ∧ t.out = .hostCpl p true false [] :: s.out ∧ t.regs = s.regs ∧ t.err = s.err ∧ (t.hport p).up = true ∧
          (t.hport p).d3hot = (if r = .power ∧ w % 4 = 3 then true else if r = .power ∧ w % 4 = 0 then false else (s.hport p).d3hot) ∧
          (t.hport p).msixEn = (if r = .msix then bit w 1 else (s.hport p).msixEn) ∧ (t.hport p).mps = (if r = .payload then State.sizeOf w 512 else (s.hport p).mps) ∧
          (t.hport p).mrrs = (if r = .readRequest then State.sizeOf w 4096 else (s.hport p).mrrs)))) ∧
  (∀ (s : State) (p : Nat),
    (s.part.ports.contains p = true → (s.hport p).perst = false →
      ∃ t, exec (.perstAssert p) s = .next t ∧ t.hport p = { HPort.reset with powered := (s.hport p).powered } ∧ (∀ n, n < 256 → t.ring p n = Ring.reset) ∧
        (∀ o, 0x60000 ≤ o → o < 0x70000 → t.reg (State.pcieKey p o) = regReset s.part (State.pcieKey p o)) ∧
        ((∀ n, n < 256 → (s.ring p n).en = false) → ∀ q, q ≠ p → t.hport q = s.hport q) ∧ t.jobs = s.jobs ∧ t.cells = s.cells) ∧
    ∃ t, exec (.perstRelease p) s = .next t ∧ t.hport p = { s.hport p with perst := false } ∧ (∀ q, q ≠ p → t.hport q = s.hport q) ∧ t.regs = s.regs ∧ t.rings = s.rings)

/-- R316, R318, R319, R321, R322, R323, R331, R333, R336. BAR2 of a ready engine reads and writes scratchpad through its aperture, along the way from the port's die to the cell and back; a write
with EP set is stored as poison with class 0x62; an aperture into a forbidden space is refused with class 0x63; before the engine is ready a read is aborted and a write dropped. A TLP whose ECRC fails at a port that checks it is dropped (the model's choice, the log's entry on PCIe). OUTBOUND_WRITE stores
in host memory and acknowledges, with class 0x66 where a cell sends poison; OUTBOUND_READ leaves a request that OUTBOUND_COMPLETION answers or, after PCIE_CPL_TO, OUTBOUND_CPL_TIMEOUT ends with
STATUS 3 and class 0x65; with no open port STATUS is 1. MSIX_RAISE sends vectors 260 and up, or keeps them pending, and refuses lower ones with class 0x6B. EVQ_ENABLE clears the event ring's
indices; EVQ_CI_WRITE moves CI, but never beyond PI. -/
def Obligations.HostMemoryTrafficAndVectors : Prop :=
  (∀ (s : State) (p off ga len : Nat), s.barOpen p = true → s.fates = [] → off < 2 ^ 36 → ga = s.bar2Addr p off →
    (∀ (v w : State) (c o : Nat), s.ready = true → bits ga 44 4 = 1 → v.target ga = .spm c o → v.spmCheckRun c o len 4 false = none →
      (s.carryOut (portDie p) (.host p) ga len false = (v, 0) → (∀ j, j < len → judge (v.wordAt c (o + j)) (v.chkAt c (o + j)) = .good) →
        (v.meshRead c o len).1.carryBack (portDie p) (.host p) ga len false = (w, 0) →
        exec (.hostBarRead p 2 off len true []) s = .next { w.emit (.hostCpl p true false (s.bytes (spmKey c o) len)) with fates := [] } ∧ w.mem = s.mem) ∧
      ∀ data : List Byte, data.length = len → o % 8 = 0 → len % 8 = 0 →
        (s.carryOut (portDie p) (.host p) ga len true = (v, 0) → (v.meshWrite c o data [] none).1.carryBack (portDie p) (.host p) ga len true = (w, 0) →
          exec (.hostBarWrite p 2 off data false true []) s = .next { w with fates := [] } ∧ (∀ j, j < len → some (w.byte (spmKey c (o + j))) = data[j]?) ∧
            (∀ k, (∀ j, j < len → k ≠ spmKey c (o + j) ∧ k ≠ spmChkKey c (o + j)) → w.byte k = s.byte k) ∧
            w.cell c = { s.cell c with scrub := (w.cell c).scrub } ∧ s.cellsBut w c) ∧
        ((s.epWrite p).carryOut (portDie p) (.host p) ga len true = (v, 0) →
          (v.meshWrite c o data (List.range ((len + 7) / 8 + 1)) none).1.carryBack (portDie p) (.host p) ga len true = (w, 0) →
          exec (.hostBarWrite p 2 off data true true []) s = .next { w with fates := [] } ∧ (∀ j, j < len / 8 → judge (w.wordAt c (o + 8 * j)) (w.chkAt c (o + 8 * j)) = .poison) ∧
            (∃ r, r ∈ w.err.recQ ∧ r.cls = 0x62 ∧ r.loc = .dieUnit (portDie p) p) ∧ (w.hport p).aer = true)) ∧
    (s.ready = true → 4 < bits ga 44 4 → ∀ data : List Byte,
      (∃ t, exec (.hostBarWrite p 2 off data false true []) s = .next t ∧ t.mem = s.mem ∧ t.fld (State.pcieKey p PCIE_HOST_ADDR) 0 48 = bits ga 0 48 ∧
        t.fld (State.pcieKey p PCIE_HOST_ADDR) 48 4 = 3 ∧ s.regsBut t [State.pcieKey p PCIE_HOST_ADDR] ∧ s.logs t 0x63 (.dieUnit (portDie p) p) (bits ga 0 48 + 3 * 2 ^ 48)) ∧
      ∃ t, exec (.hostBarRead p 2 off len true []) s = .next t ∧ t.mem = s.mem ∧ t.out = .hostCpl p false false [] :: s.out ∧ s.logs t 0x63 (.dieUnit (portDie p) p) (bits ga 0 48 + 3 * 2 ^ 48)) ∧
    (s.ready = false → (s.part.ports.contains p = true ∧ (s.hport p).up = true → exec (.hostBarRead p 2 off len true []) s = .next (s.emit (.hostCpl p false false []))) ∧
      ∀ data : List Byte, exec (.hostBarWrite p 2 off data false true []) s = .next s) ∧
    (s.ecrcBad p false = true → ∀ (bar : Nat) (ep : Bool) (data : List Byte) (fs : List Fate), exec (.hostBarRead p bar off len false fs) s = .next (s.ecrcDrop p) ∧
      exec (.hostBarWrite p bar off data ep false fs) s = .next (s.ecrcDrop p) ∧ ((s.ecrcDrop p).hport p).aerEcrc = true)) ∧
  (∀ (s : State) (req : Req) (a p len : Nat), s.outSplit false a len = [(p, 0, len)] → s.outPort a = some p → s.tagsOut p < 1024 →
    (∀ r ∈ s.outReads, r.id ≠ s.nextId ∧ ∀ u ∈ r.tlps, u.sent.isSome = true) →
    ∃ t, exec (.outboundRead req a len) s = .next t ∧ t.out = .hostReadReq p s.nextId a len :: s.out ∧
      t.outReads = s.outReads ++ [{ id := s.nextId, req := req, addr := a, len := len, pkt := none,
                                    tlps := [{ id := s.nextId, port := p, off := 0, len := len, sent := some s.now, done := none }] }] ∧
      t.nextId = s.nextId + 1 ∧ t.regs = s.regs ∧ t.mem = s.mem ∧ t.resp = s.resp) ∧
  (∀ (s : State) (req : Req) (a p : Nat) (data : List Byte) (pois : List Nat), s.outSplit true a data.length = [(p, 0, data.length)] → s.outPort a = some p → 0 < data.length →
    ∃ t, exec (.outboundWrite req a data pois) s = .next t ∧ (req, Resp.ack 0) ∈ t.resp ∧
      (∀ j, j < data.length → some (t.byte (State.hostKey (a + j))) = data[j]?) ∧
      (∀ k, (∀ j, j < data.length → k ≠ State.hostKey (a + j)) → t.byte k = s.byte k) ∧ t.regs = s.regs ∧
      (pois = [] → t.out = .hostWrite p a data false :: s.out ∧ t.err = s.err) ∧ (∀ c, originCell req = some c → pois ≠ [] → s.logs t 0x66 (.cell c 0) 0)) ∧
  (∀ (s : State) (req : Req) (a len : Nat) (data : List Byte) (pois : List Nat), s.outPort a = none →
    (∃ t r, exec (.outboundRead req a len) s = .next t ∧ (req, Resp.read [] [] 1) ∈ t.resp ∧ t.outReads = s.outReads ∧ t.err.recQ = s.err.recQ ++ [r] ∧ r.cls = 0x65 ∧
      r.struck = originCell req) ∧
    ∃ t r, exec (.outboundWrite req a data pois) s = .next t ∧ (req, Resp.ack 1) ∈ t.resp ∧ t.mem = s.mem ∧ t.err.recQ = s.err.recQ ++ [r] ∧ r.cls = 0x65 ∧
      r.detail = BitVec.ofNat 64 (3 + a % 2 ^ 44 * 2 ^ 16)) ∧
  (∀ (s : State) (st : Nat) (r : OutRead) (u : OutTlp) (data : List Byte), s.outReads = [r] → r.tlps = [u] → r.pkt = none → u.off = 0 → u.len = r.len → u.sent = some st → u.done = none →
    data.length = r.len →
    (∃ t, exec (.outboundCompletion u.id true false true data) s = .next t ∧ (r.req, Resp.read data [] 0) ∈ t.resp ∧ t.outReads = [] ∧ t.err = s.err ∧ t.mem = s.mem ∧ t.regs = s.regs) ∧
    (0 < r.len → ∃ t ps, exec (.outboundCompletion u.id true true true data) s = .next t ∧ (r.req, Resp.read data ps 2) ∈ t.resp ∧ t.outReads = [] ∧
      s.logs t 0x62 (.dieUnit (portDie u.port) u.port) 0) ∧
    (∃ t e, exec (.outboundCompletion u.id false false true data) s = .next t ∧ (r.req, Resp.read [] [] 1) ∈ t.resp ∧ t.outReads = [] ∧
      t.err.recQ = s.err.recQ ++ [e] ∧ e.cls = 0x65 ∧ e.struck = originCell r.req ∧ t.mem = s.mem) ∧
    (∀ ok ep, s.ecrcBad u.port false = true → exec (.outboundCompletion u.id ok ep false data) s = .next (s.ecrcDrop u.port)) ∧
    (st + s.fld (State.pcieKey u.port PCIE_CPL_TO) 0 16 * 1000000 ≤ s.now →
      ∃ t e, exec (.outboundCplTimeout u.id) s = .next t ∧ (r.req, Resp.read [] [] 3) ∈ t.resp ∧ t.outReads = [] ∧
        t.err.recQ = s.err.recQ ++ [e] ∧ e.cls = 0x65 ∧ e.struck = originCell r.req ∧ t.mem = s.mem) ∧
    (s.now < st + s.fld (State.pcieKey u.port PCIE_CPL_TO) 0 16 * 1000000 → exec (.outboundCplTimeout u.id) s = .next s)) ∧
  (∀ (s : State) (req : Req) (p v : Nat), v < 512 →
    (260 ≤ v → (s.hport p).up = true → State.vecMasked (s.hport p) v = false →
      ∃ t, exec (.msixRaise req p v) s = .next t ∧ t.out = .msix p v :: s.out ∧ t.hports = s.hports ∧ t.regs = s.regs ∧ t.err = s.err) ∧
    (260 ≤ v → State.vecMasked (s.hport p) v = true →
      ∃ t, exec (.msixRaise req p v) s = .next t ∧ v ∈ (t.hport p).pba ∧ t.out = s.out ∧ t.regs = s.regs ∧ t.err = s.err) ∧
    (v < 260 → ∃ t r, exec (.msixRaise req p v) s = .next t ∧ t.out = s.out ∧ t.hports = s.hports ∧ t.err.recQ = s.err.recQ ++ [r] ∧ r.cls = 0x6B ∧ r.struck = originCell req)) ∧
  (∀ (s : State) (p ci : Nat), ci < 2 ^ 17 →
    (s.fld (State.pcieKey p PCIE_CTRL) 1 1 = 0 →
      ∃ t, exec (.evqEnable p) s = .next t ∧ t.fld (State.pcieKey p PCIE_CTRL) 1 1 = 1 ∧ t.reg (State.pcieKey p PCIE_EVQ_PI) = 0 ∧ t.reg (State.pcieKey p PCIE_EVQ_CI) = 0 ∧
        t.fld (State.pcieKey p PCIE_EVQ_STAT) 0 16 = 0 ∧ (t.hport p).evqSeq = 0 ∧
        s.regsBut t [State.pcieKey p PCIE_CTRL, State.pcieKey p PCIE_EVQ_PI, State.pcieKey p PCIE_EVQ_CI, State.pcieKey p PCIE_EVQ_STAT] ∧ t.err = s.err) ∧
    ((s.fld (State.pcieKey p PCIE_EVQ_PI) 0 17 + 131072 - ci) % 131072 ≤ 65536 → (s.hport p).evqLostDue = false →
      ∃ t, exec (.evqCiWrite p ci) s = .next t ∧ t.fld (State.pcieKey p PCIE_EVQ_CI) 0 17 = ci ∧ s.regsBut t [State.pcieKey p PCIE_EVQ_CI] ∧ t.err = s.err ∧ t.out = s.out) ∧
    (65536 < (s.fld (State.pcieKey p PCIE_EVQ_PI) 0 17 + 131072 - ci) % 131072 →
      ∃ t, exec (.evqCiWrite p ci) s = .next t ∧ t.regs = s.regs ∧ s.logs t 0x68 (.dieUnit (portDie p) p) 0))

/-- R322, R324, R325, R326, R327, R328, R330. A ring that is enabled starts at index 0; a doorbell stores PI, and one beyond the ring's size stops the ring with cause 2; disabling a running ring stops it with cause 4. The entry at
CI is read and judged; an unreadable one stops the ring with cause 3. Its operation acts and has its result, a DMA operation in its channel's turn, with STATUS 3 where the host does not answer; its completion writes RESULT and CI + 1, and a failed one
stops the ring with cause 1. -/
def Obligations.RingsRunTheirEntries : Prop :=
  (∀ (s : State) (p n : Nat) (r : Ring), r = s.ring p n →
    (r.en = false → ∃ t, exec (.ringEnable p n) s = .next t ∧
      t.ring p n = { r with en := true, ci := 0, pi := 0, stopped := false, cause := 0, cur := none, res := none, loading := false, dma := false } ∧ t.regs = s.regs ∧ t.mem = s.mem ∧ t.err = s.err) ∧
    (r.en = true → r.stopped = false →
      ∃ t e, exec (.ringDisable p n) s = .next t ∧ (t.ring p n).en = false ∧ (t.ring p n).stopped = true ∧ (t.ring p n).cause = 4 ∧ (t.ring p n).ci = r.ci ∧
        e ∈ t.err.recQ ∧ e.cls = 0x64 ∧ t.jobs = s.jobs ∧ t.cells = s.cells) ∧
    (∀ pi, pi < 65536 → (r.en = true ∧ r.stopped = false → (pi + 65536 - r.ci) % 65536 ≤ 2 ^ r.log2) →
      ∃ t, exec (.ringDoorbell p n pi) s = .next t ∧ t.ring p n = { r with pi := pi } ∧ t.regs = s.regs ∧ t.mem = s.mem ∧ t.err = s.err ∧ t.out = s.out) ∧
    (∀ pi, pi < 65536 → r.en = true → r.stopped = false → 2 ^ r.log2 < (pi + 65536 - r.ci) % 65536 →
      ∃ t e, exec (.ringDoorbell p n pi) s = .next t ∧ (t.ring p n).pi = pi ∧ (t.ring p n).stopped = true ∧ (t.ring p n).cause = 2 ∧ e ∈ t.err.recQ ∧ e.cls = 0x64)) ∧
  (∀ (s : State) (p n : Nat) (r : Ring) (e : List Byte), r = s.ring p n → r.en = true → r.stopped = false → r.cur = none → r.ci ≠ r.pi → s.portOpen p = true →
    e = s.bytes (State.hostKey (r.base / 4096 * 4096 + 64 * (r.ci % 2 ^ r.log2))) 64 →
    (∃ t, exec (.ringEntryFetch p n true false) s = .next t ∧ (t.ring p n).cur = some e ∧ (t.ring p n).ci = r.ci ∧
      (entryBad e = true → (t.ring p n).res = some (1, 0)) ∧ (entryBad e = false → rfield e 2 2 = 0xFFFF → (t.ring p n).res = none) ∧
      (entryBad e = false → rfield e 2 2 ≠ 0xFFFF → s.job? (rfield e 2 2) = none → (t.ring p n).res = some (4, 0)) ∧ t.mem = s.mem ∧ t.regs = s.regs ∧ t.err = s.err) ∧
    (∃ t x, exec (.ringEntryFetch p n false false) s = .next t ∧ (t.ring p n).stopped = true ∧ (t.ring p n).cause = 3 ∧ (t.ring p n).ci = r.ci ∧ x ∈ t.err.recQ ∧ x.cls = 0x64) ∧
    ∃ t, exec (.ringEntryFetch p n true true) s = .next t ∧ t.rings = s.rings ∧ s.logs t 0x6A (.dieUnit (portDie p) n) 0) ∧
  (∀ (s s1 v w : State) (p n q c o a ga len : Nat) (e : List Byte), len = rfield e 4 4 → a = rfield e 8 8 → ga = rfield e 0x10 8 → s.dmaTurn p n = true → s.outPort a = some q →
    bits ga 44 4 = 1 → v.target ga = .spm c o → v.spmCheckRun c o len 4 false = none →
    (s.entryRuns p n 1 = some e → o % 8 = 0 → len % 8 = 0 → s.outSplit false a len = [(q, 0, len)] → s1 = ({ s with fates := [] } : State).dmaTake p n →
      s1.carryOut (portDie p) (.host p) ga len true = (v, 0) →
      (v.meshWrite c o (s.bytes (State.hostKey a) len) [] none).1.carryBack (portDie p) (.host p) ga len true = (w, 0) →
      ∃ t, exec (.ringDmaHostToEngine p n []) s = .next t ∧ t.bytes (spmKey c o) len = s.bytes (State.hostKey a) len ∧
        (∀ k, (∀ j, j < len → k ≠ spmKey c (o + j) ∧ k ≠ spmChkKey c (o + j)) → t.byte k = s.byte k) ∧
        t.ring p n = { s.ring p n with dma := true, res := some (0, 0) } ∧ t.regs = w.regs ∧ t.err = w.err) ∧
    (s.entryRuns p n 2 = some e → 0 < len → s.outSplit true a len = [(q, 0, len)] → s1 = ({ s with fates := [] } : State).dmaTake p n → s1.carryOut (portDie p) (.host p) ga len false = (v, 0) →
      (∀ j, j < len → judge (v.wordAt c (o + j)) (v.chkAt c (o + j)) = .good) →
      (v.meshRead c o len).1.carryBack (portDie p) (.host p) ga len false = (w, 0) →
      ∃ t, exec (.ringDmaEngineToHost p n []) s = .next t ∧ t.bytes (State.hostKey a) len = s.bytes (spmKey c o) len ∧
        (∀ k, (∀ j, j < len → k ≠ State.hostKey (a + j)) → t.byte k = s.byte k) ∧ t.ring p n = { s.ring p n with dma := true, res := some (0, 0) } ∧ t.regs = w.regs ∧ t.err = w.err)) ∧
  (∀ (s : State) (p n q len : Nat) (e : List Byte), s.entryRuns p n 1 = some e →
    (s.dmaTurn p n = true → s.outPort (rfield e 8 8) = some q → s.outSplit false (rfield e 8 8) (rfield e 4 4) = [(q, 0, len)] →
      ∃ t, exec (.ringDmaHostToEngine p n [.late]) s = .next t ∧ (t.ring p n).res = some (3, 0x65) ∧ t.mem = s.mem ∧ t.regs = s.regs ∧
        s.logs t 0x65 (.dieUnit (portDie q) q) (2 + q * 2 ^ 8 + rfield e 8 8 % 2 ^ 44 * 2 ^ 16)) ∧
    (s.dmaTurn p n = false → ∃ t, exec (.ringDmaHostToEngine p n []) s = .next t ∧ t.rings = s.rings ∧ t.mem = s.mem ∧ t.regs = s.regs ∧ t.err = s.err)) ∧
  (∀ (s : State) (p n : Nat) (e : List Byte),
    (s.entryRuns p n 0 = some e → ∃ t, exec (.ringNop p n) s = .next t ∧ t.ring p n = { s.ring p n with res := some (0, 0) } ∧ t.mem = s.mem ∧ t.regs = s.regs ∧ t.err = s.err) ∧
    (∀ k v u w, s.entryRuns p n 3 = some e → State.ctlKey (s.target (rfield e 0x10 8)) = some k →
      ({ s with fates := [] } : State).carryOut (portDie p) (.host p) (rfield e 0x10 8) (if bit (rfield e 1 1) 1 then 8 else 4) true = (v, 0) →
      v.ctlWrite (.host p) k (bit (rfield e 1 1) 1) (BitVec.ofNat 64 (rfield e 0x18 8)) (rfield e 0x10 8) = (u, true) →
      u.carryBack (portDie p) (.host p) (rfield e 0x10 8) (if bit (rfield e 1 1) 1 then 8 else 4) true = (w, 0) →
      ∃ t, exec (.ringRegisterWrite p n []) s = .next t ∧ t.regs = w.regs ∧ t.mem = u.mem ∧ t.cells = u.cells ∧ (t.ring p n).res = some (0, 0)) ∧
    (∀ v c k, s.entryRuns p n 4 = some e → k = { Pkt.blank 5 (.host p) (.agent (portDie p)) with
        x := bits (rfield e 0x18 4) 16 8, y := bits (rfield e 0x18 4) 24 7, ctr := bits (rfield e 0x18 4) 0 6, epoch := bits (rfield e 0x18 4) 6 2,
        inc := bits (rfield e 0x18 4) 8 8 } →
      k.ctr < 48 → bit (rfield e 0x18 4) 31 = false → 0 < k.inc → s.physicalOf k.x k.y = some c → s.carry (portDie p) k (.cell k.x k.y) = (v, 0) → v.isHole c = false →
      ∃ t, exec (.ringSignal p n) s = .next t ∧ (t.ring p n).res = some (0, 0) ∧ t.mem = s.mem ∧ t.regs = v.regs ∧ t.err = v.err ∧ t.net = s.net ∧
        t.cell c = { s.cell c with sigs := (s.cell c).sigs ++ [((s.cell c).rcyc, ⟨k.ctr, k.epoch, k.inc, none, false⟩)] } ∧ s.cellsBut t c) ∧
    (∀ v u w, s.entryRuns p n 5 = some e → s.load = none → (s.ring p n).loading = false →
      ({ s with fates := [] } : State).carryOut (portDie p) (.host p) (4 * 2 ^ 44 + BOOT_LOAD_CMD) 4 true = (v, 0) →
      u = (((v.setReg (ecKey BOOT_LOAD_SRC) (BitVec.ofNat 64 (rfield e 0x10 8 % 2 ^ 48))).setReg (ecKey BOOT_LOAD_LEN) (BitVec.ofNat 64 (rfield e 4 4))).setReg
        (ecKey BOOT_LOAD_ORG) (BitVec.ofNat 64 (rfield e 0x18 4 % 2 ^ 15))).setRing p n { v.ring p n with loading := true } →
      u.loadStart.carryBack (portDie p) (.host p) (4 * 2 ^ 44 + BOOT_LOAD_CMD) 4 true = (w, 0) →
      exec (.ringLoad p n []) s = .next { w with fates := [] } ∧ u.load = none ∧ u.jobs = s.jobs ∧ u.mem = s.mem ∧ (u.ring p n).loading = true ∧
        w.load = u.loadStart.load ∧ w.rings = u.loadStart.rings ∧ w.mem = u.loadStart.mem) ∧
    (∀ v w j, s.entryRuns p n 6 = some e → s.job? (bits (rfield e 0x18 4) 0 16) = some j → j.state = 2 → j.starts = [] → bits (rfield e 0x18 4) 16 2 = 1 →
      ({ s with fates := [] } : State).carryOut (portDie p) (.host p) (4 * 2 ^ 44 + BOOT_JOB_CMD) 4 true = (v, 0) →
      (v.jobCmd (rfield e 0x18 4)).carryBack (portDie p) (.host p) (4 * 2 ^ 44 + BOOT_JOB_CMD) 4 true = (w, 0) →
      ∃ t x, exec (.ringJobCommand p n []) s = .next t ∧ t.job? (bits (rfield e 0x18 4) 0 16) = some x ∧ x.state = 4 ∧ (t.ring p n).res = some (0, 0) ∧
        t.cells = s.cells)) ∧
  (∀ (s : State) (p n st det a : Nat) (r : Ring) (e : List Byte), r = s.ring p n → r.cur = some e → r.res = some (st, det) → s.portOpen p = true → r.ciAddr = 0 →
    a = r.base / 4096 * 4096 + 64 * (r.ci % 2 ^ r.log2) + 0x38 →
    (st = 0 ∨ st = 2 → ∃ t, exec (.ringEntryComplete p n) s = .next t ∧ t.bytes (State.hostKey a) 8 = toLe 8 (st + det * 2 ^ 8 + s.facility % 2 ^ 48 * 2 ^ 16) ∧
      (∀ k, (∀ j, j < 8 → k ≠ State.hostKey (a + j)) → t.byte k = s.byte k) ∧
      t.ring p n = { r with ci := (r.ci + 1) % 65536, cur := none, res := none, loading := false, dma := false } ∧ t.regs = s.regs ∧ t.err = s.err) ∧
    (st = 1 ∨ st = 3 ∨ st = 4 → ∃ t x, exec (.ringEntryComplete p n) s = .next t ∧ (t.ring p n).ci = (r.ci + 1) % 65536 ∧ (t.ring p n).stopped = true ∧
      (t.ring p n).cause = 1 ∧ (t.ring p n).cur = none ∧ x ∈ t.err.recQ ∧ x.cls = 0x64 ∧ t.jobs = s.jobs))

/-! ### Power delivery (R338-R368) -/

/-- R338, R339, R340, R341, R343, R344, R345, R347, R350. The input: a measurement in range sets VIN, the currents and the ceiling, and an excursion outside 48 to 58 V logs class 0x76 once; input loss
turns every rail off, loses every job and logs class 0x78, and no other event of power delivery has an effect after it; the cold-start condition starts an engine that is off. A lost blade lowers
the input limit, its restoration raises it again. A die whose converter failed moves to the spare at the end of the slot, or loses its supply; two dies that claim the spare together are settled by
ascending die. A failed phase lowers ILIM. One failed slice is recorded, two cap the region, three make it dark and its
cells holes. A failed substrate regulator fails its device or link. -/
def Obligations.SupplyFailuresAreContained : Prop :=
  (∀ (s : State) (v ia ib : Nat),
    (4500 ≤ v → v ≤ 6000 → s.boot.off = false → ∃ t, exec (.inputOutOfRange v ia ib) s = .next t ∧
      (∀ d, d < s.part.dies → t.fld (dieKey d PWR_IN) 0 16 = v ∧ t.fld (dieKey d PWR_IN) 16 10 = min 1023 (ia + ib) ∧
        t.fld (dieKey d PWR_BLADE) 0 10 = min 1023 ia ∧ t.fld (dieKey d PWR_BLADE) 10 10 = min 1023 ib ∧ t.fld (dieKey d PWR_BLADE) 20 12 = s.fld (dieKey d PWR_BLADE) 20 12) ∧
      t.ceil = min (min s.part.maxInput (v * s.inLimit / 100)) (s.part.tier (s.fld (ecKey LIC_STAT) 2 1 == 1)) ∧ t.band.b = min s.band.bReq t.ceil ∧ t.band.t = min s.band.tReq t.band.b ∧ t.band.bReq = s.band.bReq ∧ t.band.tReq = s.band.tReq ∧
      (∀ k, (∀ d, k ≠ dieKey d PWR_IN ∧ k ≠ dieKey d PWR_BLADE) → k ≠ ecKey RAMP_CEIL → k ≠ ecKey BAND_AVG → t.reg k = s.reg k) ∧ t.regions = s.regions ∧ t.band.s = s.band.s ∧
      if (v < 4800 ∨ 5800 < v) ∧ (4800 ≤ s.vin ∧ s.vin ≤ 5800 ∨ s.vin = 0) then s.logs t 0x76 (.module 0) 1 else t.err = s.err) ∧
    (v < 4500 ∨ 6000 < v → exec (.inputOutOfRange v ia ib) s = .next s)) ∧
  (∀ (s : State) (v ia ib b d p meas rx ry rail slice : Nat), s.boot.off = true → ∀ i ∈ [Instr.inputOutOfRange v ia ib, .bladeLoss b, .bladeRestore, .busConverterFail d, .spareConverterFail,
      .phaseFail d p meas, .ldoSliceFail d rx ry rail slice, .regionComputeOn d rx ry, .regionComputeOff d rx ry, .regionFullOff d rx ry, .regionRouterOn d rx ry,
      .quarterStrength d rx ry, .stageAdmission d, .powerGood d rx ry, .powerGoodMissed d rx ry] ++ (List.range 12).map (Instr.substrateRegulatorFail d ∘ .gddr) ++ [.substrateRegulatorFail d .hostPort, .substrateRegulatorFail d .dieControl],
    exec i s = .next s) ∧
  (∀ s : State,
    (∃ t, exec .inputLoss s = .next t ∧ (∀ r, r < s.part.dies * 64 → (t.region r).st = 0 ∧ (t.region r).on = none) ∧ t.jobs = [] ∧ t.panels = [] ∧ t.load = none ∧
      t.ready = false ∧ t.boot.off = true ∧ (∀ d, d < s.part.dies → t.fld (dieKey d PWR_FIELD_V) 0 10 = 0 ∧ t.fld (dieKey d PWR_DIE_I) 0 12 = 0 ∧ t.fld (dieKey d CLK_STAT) 0 4 = 0) ∧ t.band.s = 0 ∧ t.band.windows = [] ∧ s.logs t 0x78 (.module 0) 0 ∧ t.flash = s.flash) ∧
    (s.boot.off = true → s.boot.modRst = false →
      ∃ t, exec .inputColdStartCondition s = .next t ∧ t.fld (ecKey BOOT_STAT) 0 4 = 1 ∧ t.ready = false ∧ t.fld (ecKey BOOT_CAUSE) 0 4 = 0 ∧ t.boot.off = false ∧ t.cells = [] ∧
        t.regions = [] ∧ t.jobs = [] ∧ t.err.bbox = s.err.bbox ∧
        if s.boot.lost then t.flash.rmap = s.flash.rmapDone ∧ t.err.recQ = [] ∧ t.err.unsent = [] else ((s.flash.dev0 || s.flash.dev1) = true → t.flash.rmap = s.flash.rmap) ∧ t.err.recQ = s.err.recQ)) ∧
  (∀ (s : State) (b : Nat), b < 2 → s.boot.off = false →
    (s.fld (dieKey 0 PWR_BLADE) (20 + b) 1 = 0 → s.fld (dieKey 0 PWR_BLADE) (21 - b) 1 = 0 →
      ∃ t, exec (.bladeLoss b) s = .next t ∧ (∀ d, d < s.part.dies → t.fld (dieKey d PWR_BLADE) (20 + b) 1 = 1 ∧ t.fld (dieKey d PWR_BLADE) 22 10 = s.part.limitOne) ∧
        t.ceil = min (min s.part.maxInput (s.vin * s.part.limitOne / 100)) (s.part.tier (s.fld (ecKey LIC_STAT) 2 1 == 1)) ∧ s.logs t 0x76 (.module b) 2 ∧ t.regions = s.regions ∧ t.jobs = s.jobs) ∧
    (s.fld (dieKey 0 PWR_BLADE) (20 + b) 1 = 0 → s.fld (dieKey 0 PWR_BLADE) (21 - b) 1 = 1 →
      ∃ t r, exec (.bladeLoss b) s = .next t ∧ t.boot.off = true ∧ t.jobs = [] ∧ r ∈ t.err.recQ ∧ r.cls = 0x78) ∧
    (s.fld (dieKey 0 PWR_BLADE) 20 2 ≠ 0 →
      ∃ t, exec .bladeRestore s = .next t ∧ (∀ d, d < s.part.dies → t.fld (dieKey d PWR_BLADE) 20 2 = 0 ∧ t.fld (dieKey d PWR_BLADE) 22 10 = s.part.limitTwo) ∧
        t.ceil = min (min s.part.maxInput (s.vin * s.part.limitTwo / 100)) (s.part.tier (s.fld (ecKey LIC_STAT) 2 1 == 1)) ∧ s.logs t 0x76 (.module 0) 2 ∧ t.regions = s.regions)) ∧
  (∀ (s : State) (d : Nat), d < s.part.dies → s.boot.off = false → (∀ e, (s.die e).convFail = false) →
    ∃ u, exec (.busConverterFail d) s = .next u ∧ (u.die d).convFail = true ∧ (∀ e, e ≠ d → u.die e = s.die e) ∧ u.regs = s.regs ∧ u.regions = s.regions ∧ u.err = s.err ∧
      (s.fld (dieKey d PWR_CONV) 0 2 = 1 → s.fld (dieKey d PWR_CONV) 2 1 = 1 → s.fld (dieKey d PWR_CONV) 3 4 = 0xF →
        u.settleConverters.fld (dieKey d PWR_CONV) 0 2 = 2 ∧ (∀ e, e < s.part.dies → u.settleConverters.fld (dieKey e PWR_CONV) 3 4 = d) ∧
        s.logs u.settleConverters 0x74 (.dieUnit d d) 0 ∧ u.settleConverters.regions = s.regions ∧ u.settleConverters.cells = s.cells) ∧
      ((s.fld (dieKey d PWR_CONV) 0 2 = 1 ∧ (s.fld (dieKey d PWR_CONV) 2 1 = 0 ∨ s.fld (dieKey d PWR_CONV) 3 4 ≠ 0xF)) ∨ 2 ≤ s.fld (dieKey d PWR_CONV) 0 2 →
        u.settleConverters.fld (dieKey d PWR_CONV) 1 1 = 0 ∧ (∀ i, i < 64 → (u.settleConverters.region (d * 64 + i)).st = 0) ∧ (u.settleConverters.die d).supplied = false ∧
        (2 ≤ s.fld (dieKey d PWR_CONV) 0 2 → ∀ e, e < s.part.dies → u.settleConverters.fld (dieKey e PWR_CONV) 2 5 = 0x1E) ∧
        u.settleConverters.fld (dieKey d PWR_FIELD_V) 0 10 = 0 ∧ u.settleConverters.fld (dieKey d CLK_STAT) 0 4 = 0 ∧
        (d, 3, s.fld (ecKey BOOT_STAT) 4 1 == 1) ∈ u.settleConverters.boot.excluded ∧
        (s.fld (ecKey BOOT_STAT) 4 1 = 1 →
          ∃ a b, u.settleConverters.err.recQ = s.err.recQ ++ [a, b] ∧ a.cls = 0x75 ∧ a.sev = 2 ∧ a.loc = .dieUnit d d ∧ b.cls = 0x8A ∧ b.sev = 2) ∧
        (s.fld (ecKey BOOT_STAT) 4 1 = 0 → ∃ a, u.settleConverters.err.recQ = s.err.recQ ++ [a] ∧ a.cls = 0x75 ∧ a.loc = .dieUnit d d) ∧
        ∀ r, regionDie r ≠ d → u.settleConverters.region r = s.region r)) ∧
  (∀ (s : State) (d e : Nat), d < e → e < s.part.dies → s.boot.off = false → (∀ q, (s.die q).convFail = true ↔ q = d ∨ q = e) → s.fld (dieKey d PWR_CONV) 0 7 = 0x7D →
      s.fld (dieKey e PWR_CONV) 0 7 = 0x7D →
    s.settleConverters.fld (dieKey d PWR_CONV) 0 2 = 2 ∧ (s.settleConverters.die e).supplied = false ∧ s.settleConverters.fld (dieKey e PWR_CONV) 3 4 = d) ∧
  (∀ s : State, s.boot.off = false → s.fld (dieKey 0 PWR_CONV) 2 1 = 1 → s.fld (dieKey 0 PWR_CONV) 3 4 = 0xF →
    ∃ t, exec .spareConverterFail s = .next t ∧ (∀ d, d < s.part.dies → t.fld (dieKey d PWR_CONV) 2 1 = 0) ∧ s.logs t 0x74 (.module s.part.dies) 0 ∧ t.regions = s.regions ∧ t.cells = s.cells) ∧
  (∀ (s : State) (d p meas n : Nat), p < 28 → s.boot.off = false → s.fld (dieKey d PWR_PHASE) p 1 = 1 → n + 1 = onesBelow (s.fld (dieKey d PWR_PHASE) 0 28) 28 → 20 ≤ n → meas ≤ State.ilim n →
    ∃ t, exec (.phaseFail d p meas) s = .next t ∧ t.fld (dieKey d PWR_PHASE) p 1 = 0 ∧ t.fld (dieKey d PWR_DIE_I) 16 12 = min 2160 (84 * n) ∧ t.fld (dieKey d PWR_DIE_I) 0 12 = meas ∧
      s.logs t 0x73 (.dieUnit d p) n ∧ s.regsBut t [dieKey d PWR_PHASE, dieKey d PWR_DIE_I] ∧ t.regions = s.regions ∧ t.dies = s.dies) ∧
  (∀ (s : State) (d rx ry rail slice r : Nat), r = regionAt d rx ry → rail < 2 → slice < 4 → s.fld (ldoKey r rail) (12 + slice) 1 = 1 → (s.region r).st ≠ 5 → (s.region r).st ≠ 6 → s.boot.off = false → s.inPhase 3 = false →
    (s.failedSlices r rail = 0 → ∃ t e, exec (.ldoSliceFail d rx ry rail slice) s = .next t ∧ t.fld (ldoKey r rail) (12 + slice) 1 = 0 ∧ t.regions = s.regions ∧ t.cells = s.cells ∧
      e ∈ t.err.recQ ∧ e.cls = 0x70 ∧ s.regsBut t [ldoKey r rail]) ∧
    (s.failedSlices r rail = 1 → ∃ t e, exec (.ldoSliceFail d rx ry rail slice) s = .next t ∧ (t.region r).sliceCap = true ∧
      (t.region r).st = (if (s.region r).st = 3 then 4 else (s.region r).st) ∧ t.fld (ldoKey r rail) 16 1 = 1 ∧ e ∈ t.err.recQ ∧ e.cls = 0x71 ∧ t.cells = s.cells ∧
      s.regionsBut t r) ∧
    (s.failedSlices r rail = 2 → ∃ t e, exec (.ldoSliceFail d rx ry rail slice) s = .next t ∧ (t.region r).st = 5 + rail ∧ (t.region r).on = none ∧ e ∈ t.err.recQ ∧ e.cls = 0x72 ∧
      (∀ c ∈ State.cellsOf r, (s.logicalOf c).isSome = true → t.isHole c = true) ∧ s.regionsBut t r)) ∧
  (∀ (s : State) (d n : Nat), n < 12 → s.boot.off = false → s.devState d n = 4 →
    ∃ t e, exec (.substrateRegulatorFail d (.gddr n)) s = .next t ∧ t.devState d n = 6 ∧ e ∈ t.err.recQ ∧ e.cls = 0x46 ∧ e.loc = .dieUnit d n ∧ t.mem = s.mem) ∧
  (∀ (s : State) (d p : Nat), p ∈ s.part.ports → portDie p = d → s.boot.off = false → (s.hport p).up = true →
    ∃ t e, exec (.substrateRegulatorFail d .hostPort) s = .next t ∧ (t.hport p).up = false ∧ e ∈ t.err.recQ ∧ e.cls = 0x69 ∧ t.jobs = s.jobs ∧ t.cells = s.cells)

/-- R353, R354, R355, R357, R358, R359, R360, R366, R367, R368, R370. Region commands: compute on begins a staged turn-on from state 1, compute off and full off open the switches, router on begins the one stage from state 0; a refused
one logs class 0x77 with its reason and changes nothing else. STAGE_ADMISSION closes the next stage where the die's current and its own limit allow it. QUARTER_STRENGTH goes to quarter steps. An
abandoned turn-on returns to state 1. At power good the rail regulates at VSET 30 and the primer runs; a missed one makes the region dark. The estimates add leakage and charge,
and the engine's estimate above the ceiling asks for a throttle. -/
def Obligations.RegionsTurnOnInStages : Prop :=
  (∀ (s : State) (d rx ry r : Nat), r = regionAt d rx ry → rx < 8 → ry < 8 → s.boot.off = false →
    ((s.region r).st = 1 → s.regionReason r 1 = 0 →
      ∃ t o, exec (.regionComputeOn d rx ry) s = .next t ∧ (t.region r).st = 2 ∧ (t.region r).on = some o ∧ o.stage = 0 ∧ o.due = s.now ∧ o.router = false ∧ o.quarter = false ∧
        t.fld (dieKey d PWR_REG_RES) 0 2 = 1 ∧ t.fld (regionKey TEMP_R r) 21 1 = 0 ∧ t.fld (regionKey TEMP_R r) 0 21 = s.fld (regionKey TEMP_R r) 0 21 ∧
        s.regsBut t [dieKey d PWR_REG_RES, regionKey TEMP_R r] ∧ s.regionsBut t r ∧ t.err = s.err ∧ t.cells = s.cells) ∧
    ((s.region r).st = 3 ∨ (s.region r).st = 4 → s.regionReason r 2 = 0 →
      ∃ t, exec (.regionComputeOff d rx ry) s = .next t ∧ (t.region r).st = 1 ∧ (t.region r).on = none ∧ t.fld (ldoKey r 0) 17 1 = 0 ∧ t.fld (dieKey d PWR_REG_RES) 0 2 = 2 ∧
        (∀ c ∈ State.cellsOf r, ∀ k, (t.core c k).st = 0 ∧ (t.mxe c).queue = []) ∧ s.regionsBut t r ∧ t.err = s.err) ∧
    ((s.region r).st = 3 ∨ (s.region r).st = 4 ∨ (s.region r).st = 1 → s.regionReason r 3 = 0 →
      ∃ t, exec (.regionFullOff d rx ry) s = .next t ∧ t.fld (ldoKey r 0) 17 1 = 0 ∧ s.regionsBut t r ∧ t.err = s.err ∧
        if s.detourRing r = [] then (t.region r).st = 0 ∧ t.fld (ldoKey r 1) 17 1 = 0 ∧ t.fld (dieKey d PWR_REG_RES) 0 2 = 2
        else (t.region r).st = 1 ∧ (t.region r).off = .detours [] ∧ t.fld (ldoKey r 1) 17 1 = s.fld (ldoKey r 1) 17 1 ∧ t.fld (dieKey d PWR_REG_RES) 0 2 = 1) ∧
    ((s.region r).st = 2 → (s.region r).off = .idle → ∀ i full, (i = Instr.regionComputeOff d rx ry ∧ full = false ∧ s.regionReason r 2 = 0) ∨
        (i = .regionFullOff d rx ry ∧ full = true ∧ s.regionReason r 3 = 0) →
      ∃ t, exec i s = .next t ∧ (t.region r).st = 2 ∧ (t.region r).off = .next full s.interval ∧ t.fld (dieKey d PWR_REG_RES) 0 2 = 1 ∧ s.regsBut t [dieKey d PWR_REG_RES] ∧
        s.regionsBut t r ∧ t.err = s.err) ∧
    ((s.region r).st = 0 → s.regionReason r 4 = 0 →
      ∃ t o, exec (.regionRouterOn d rx ry) s = .next t ∧ (t.region r).st = 0 ∧ (t.region r).on = some o ∧ o.router = true ∧ o.stage = 0 ∧ t.fld (dieKey d PWR_REG_RES) 0 2 = 1 ∧
        s.regsBut t [dieKey d PWR_REG_RES] ∧ s.regionsBut t r ∧ t.err = s.err) ∧
    (∀ op i, (i = .regionComputeOn d rx ry ∧ op = 1 ∧ (s.region r).st ≠ 3 ∧ (s.region r).st ≠ 4) ∨ (i = .regionComputeOff d rx ry ∧ op = 2 ∧ (s.region r).st ≠ 1) ∨
        (i = .regionFullOff d rx ry ∧ op = 3 ∧ (s.region r).st ≠ 0) ∨ (i = .regionRouterOn d rx ry ∧ op = 4 ∧ (s.region r).st ≠ 1) → s.regionReason r op ≠ 0 →
      ∃ t e, exec i s = .next t ∧ t.regions = s.regions ∧ t.cells = s.cells ∧ t.fld (dieKey d PWR_REG_RES) 0 2 = 3 ∧ t.fld (dieKey d PWR_REG_RES) 2 3 = s.regionReason r op ∧
        s.regsBut t [dieKey d PWR_REG_RES] ∧ t.err.recQ = s.err.recQ ++ [e] ∧ e.cls = 0x77)) ∧
  (∀ (s : State) (d r : Nat) (o : TurnOn), s.byArrival d = [r] → (s.region r).on = some o → o.full = false → o.quarter = false → o.router = false → (s.die d).admitAt ≠ s.interval + 1 →
      (∀ i, i < 64 → (s.region (d * 64 + i)).off = .idle) → s.boot.off = false → s.inPhase 3 = false →
    ((s.die d).est + 12000 ≤ s.fld (dieKey d PWR_DIE_I) 16 12 * 1000 → 12 ≤ s.stageCfg d 0 8 →
      (s.peakNear r = false → ∃ t, exec (.stageAdmission d) s = .next t ∧
        (t.region r).on = some { o with stage := o.stage + 1, sub := 0, due := s.now, onlyC := true, cFrom := 0, cLast := 0, waited := false } ∧
        (t.die d).admitAt = s.interval + 1 ∧ t.regs = s.regs ∧ t.err = s.err ∧ s.regionsBut t r) ∧
      (s.peakNear r = true → 0 < s.interval → o.cLast = s.interval → o.waited = true → ∃ t, exec (.stageAdmission d) s = .next t ∧
        (t.region r).on = some { o with cLast := s.interval + 1 } ∧ t.regs = s.regs ∧ t.err = s.err ∧ s.regionsBut t r)) ∧
    (s.fld (dieKey d PWR_DIE_I) 16 12 * 1000 < (s.die d).est + 12000 →
      ∃ t, exec (.stageAdmission d) s = .next t ∧ (t.region r).on = some { o with onlyC := false, cLast := 0 } ∧ t.regs = s.regs ∧ s.regionsBut t r)) ∧
  (∀ (s : State) (d i k : Nat), i < 64 → (s.region (d * 64 + i)).st = 2 → (s.region (d * 64 + i)).off = .next false k → s.interval ≠ k → (s.die d).admitAt ≠ s.interval + 1 →
      (∀ q, q ≠ d * 64 + i → (s.region q).off = .idle ∧ (s.region q).on = none) → s.boot.off = false → s.inPhase 3 = false →
    ∃ t, exec (.stageAdmission d) s = .next t ∧ (t.region (d * 64 + i)).st = 1 ∧ (t.region (d * 64 + i)).on = none ∧ (t.region (d * 64 + i)).off = .idle ∧
      t.fld (ldoKey (d * 64 + i) 0) 17 1 = 0 ∧ s.regionsBut t (d * 64 + i) ∧ t.err = s.err) ∧
  (∀ (s : State) (d rx ry r : Nat) (o : TurnOn), r = regionAt d rx ry → rx < 8 → ry < 8 → (s.region r).on = some o →
      s.boot.off = false → s.fld (ecKey BOOT_STAT) 0 4 ≠ 3 → s.written (dieKey d PWR_STAGE_STAT) = false →
    (s.interval ≤ o.cLast → 0 < o.cLast → o.quarter = false → o.cFrom + s.stageCfg d 16 8 * 100000 ≤ s.now →
      ∃ t, exec (.quarterStrength d rx ry) s = .next t ∧ (t.region r).on = some { o with quarter := true, sub := 0 } ∧
        t.fld (dieKey d PWR_STAGE_STAT) 16 8 = min (s.fld (dieKey d PWR_STAGE_STAT) 16 8 + 1) 0xFF ∧ s.regsBut t [dieKey d PWR_STAGE_STAT] ∧ s.regionsBut t r ∧ t.err = s.err) ∧
    (o.onlyC = false → o.full = false → o.router = false → o.due + s.stageCfg d 24 8 * 1000000 ≤ s.now → s.load = none →
      ∃ t e, exec (.turnOnAbandon d rx ry) s = .next t ∧ (t.region r).st = 1 ∧ (t.region r).on = none ∧ t.fld (dieKey d PWR_STAGE_STAT) 24 8 = min (s.fld (dieKey d PWR_STAGE_STAT) 24 8 + 1) 0xFF ∧
        t.fld (dieKey d PWR_REG_RES) 2 3 = 7 ∧ t.err.recQ = s.err.recQ ++ [e] ∧ e.cls = 0x77 ∧ s.regionsBut t r) ∧
    (o.full = true → o.router = false → s.now ≤ o.due + 2000 →
      ∃ t, exec (.powerGood d rx ry) s = .next t ∧ (t.region r).on = none ∧ (t.region r).st = (s.region r).st ∧ t.fld (ldoKey r 0) 0 6 = 30 ∧ t.fld (ldoKey r 0) 17 1 = 1 ∧
        (∀ c ∈ State.cellsOf r, t.fld (cellKey c SPM_PRIME_STAT) 1 1 = 1) ∧ s.regionsBut t r ∧ t.err = s.err) ∧
    (o.full = true → o.router = true → s.now ≤ o.due + 2000 →
      ∃ t, exec (.powerGood d rx ry) s = .next t ∧ (t.region r).on = none ∧ (t.region r).st = 1 ∧ t.fld (ldoKey r 1) 0 6 = 30 ∧ t.fld (ldoKey r 1) 17 1 = 1 ∧
        (∀ c ∈ State.cellsOf r, ∀ o, onRouter o = true → o ≠ RTR_LINK_STAT → t.reg (cellKey c o) = regReset s.part (cellKey c o)) ∧ s.regionsBut t r ∧ t.err = s.err) ∧
    (o.full = true → o.router = false → o.due + 2000 ≤ s.now →
      ∃ t e, exec (.powerGoodMissed d rx ry) s = .next t ∧ (t.region r).st = 5 ∧ (t.region r).on = none ∧ e ∈ t.err.recQ ∧ e.cls = 0x72 ∧
        (∀ c ∈ State.cellsOf r, (s.logicalOf c).isSome = true → t.isHole c = true) ∧ s.regionsBut t r)) ∧
  (∀ (s : State) (d : Nat) (meas : Option Nat), d < s.part.dies →
    (∃ t, exec (.activityEstimate d false meas) s = .next t ∧
      (t.die d).est = ((List.range 64).map fun i => (t.region (d * 64 + i)).ic + (t.region (d * 64 + i)).ir).sum + Config.quiescent d ∧
      (∀ i, i < 64 → (t.region (d * 64 + i)).act = List.replicate 8 0 ∧ (t.region (d * 64 + i)).st = (s.region (d * 64 + i)).st ∧
        (t.region (d * 64 + i)).ic = State.leak (!s.flash.calOk) d i 0 (s.vset (d * 64 + i)) (s.temp (d * 64 + i)) +
          State.chargeMa (!s.flash.calOk) d (s.region (d * 64 + i)).act (· != 5) ∧
        (t.region (d * 64 + i)).ir = State.leak (!s.flash.calOk) d i 1 (s.fld (ldoKey (d * 64 + i) 1) 0 6) (s.temp (d * 64 + i)) +
          State.chargeMa (!s.flash.calOk) d (s.region (d * 64 + i)).act (· == 5)) ∧
      (∀ r, regionDie r ≠ d → t.region r = s.region r) ∧ s.regsBut t [dieKey d PWR_DIE_I] ∧ t.err = s.err ∧
      match meas with
      | none => t.regs = s.regs ∧ (t.die d).overLast = (s.die d).overLast
      | some a => t.fld (dieKey d PWR_DIE_I) 0 12 = min 4095 a ∧ t.fld (dieKey d PWR_DIE_I) 16 12 = s.fld (dieKey d PWR_DIE_I) 16 12 ∧
          (t.die d).overLast = if s.fld (dieKey d PWR_DIE_I) 16 12 ≤ a then s.now else (s.die d).overLast) ∧
    ∃ t, exec (.activityEstimate d true meas) s = .next t ∧ t.regions = s.regions ∧ t.dies = s.dies ∧ s.logs t 0x86 (.dieUnit d 0) (1 + d * 2 ^ 8)) ∧
  (∀ (s : State) (paux p : Nat), p = s.fld (ecKey BAND_TRIM) 0 16 * (((List.range s.part.dies).map s.dieWatts).sum + paux) / 32768 →
    (∀ (v ia ib : Nat), 4500 ≤ v → v ≤ 6000 → s.boot.off = false → ∀ u, exec (.inputOutOfRange v ia ib) s = .next u →
      ∃ t w, exec (.engineEstimate paux (some (v, ia, ib))) s = .next t ∧ w = v * min 1023 (ia + ib) / 100 ∧ (∃ q, t.band.samples = (s.now, w) :: q ∧ ∀ e ∈ q, e ∈ s.band.samples ∧ s.now ≤ e.1 + 60000000000) ∧
        t.band.trimSum = s.band.trimSum + w ∧ t.band.trimCnt = s.band.trimCnt + 1 ∧ t.band.judgeSum = s.band.judgeSum + w ∧ t.band.judgeCnt = s.band.judgeCnt + 1 ∧
        t.band.ceilThr = (if u.ceil < p then min 8 (s.band.ceilThr + 1) else s.band.ceilThr - 1) ∧ (∀ d, d < s.part.dies → t.fld (dieKey d PWR_IN) 0 16 = v) ∧
        (∀ k, k ≠ ecKey BAND_EST → t.reg k = u.reg k) ∧ t.err = u.err) ∧
    ∃ t, exec (.engineEstimate paux none) s = .next t ∧ t.band.samples = s.band.samples ∧ t.band.p = p ∧ t.fld (ecKey BAND_EST) 0 24 = p % 2 ^ 24 ∧ t.band.pAcc = s.band.pAcc + p ∧ t.band.pN = s.band.pN + 1 ∧
      t.band.ceilThr = (if s.ceil < p then min 8 (s.band.ceilThr + 1) else s.band.ceilThr - 1) ∧ t.band.s = s.band.s ∧
      (∀ d, d < s.part.dies → t.lastLevel d = t.engineLevel) ∧ s.regsBut t [ecKey BAND_EST] ∧ t.err = s.err ∧ t.cells = s.cells)

/-! ### Power control and the rack bus (R368-R387) -/

/-- R368, R371, R373, R375. In rack mode the band controller's step releases ballast, then raises the throttle, where P is above its bound; releases one step above S; below S lowers the throttle or enables eligible cells; a cell in which ballast is no longer permitted loses it. At the end of a 100 ms interval a trim update moves G by at
most 1 % and holds it within 0.90 to 1.10, logging class 0x7A reason 11 once, and an interval is judged by the mean of the input readings against the mean of S, but not one in which an exceptional event moved S; average mode
throttles above the limit of the trailing average over WIN_S, once per 10 ms. -/
def Obligations.BandControllerTracksItsSetPoint : Prop :=
  (∀ (s : State) (b : Band), b = s.band → b.mode = 1 → b.stopped = false → (∀ c ∈ b.nbal, s.eligible c = true) → (∀ c, s.written (cellKey c MXE_BAL_CTRL) = false) →
    (min (b.s * (200 + s.tol) / 200) (uW s.ceil) < uW b.p → b.nbal ≠ [] →
      ∃ t, exec .bandControlStep s = .next t ∧ t.band = { b with nbal := b.nbal.drop (4 * s.balStep) } ∧
        (∀ c ∈ b.nbal.take (4 * s.balStep), t.fld (cellKey c MXE_BAL_CTRL) 0 1 = 0) ∧
        (∀ k, (∀ c ∈ b.nbal.take (4 * s.balStep), k ≠ cellKey c MXE_BAL_CTRL) → t.reg k = s.reg k) ∧ t.cells = s.cells ∧ t.err = s.err) ∧
    (min (b.s * (200 + s.tol) / 200) (uW s.ceil) < uW b.p → b.nbal = [] →
      ∃ t, exec .bandControlStep s = .next t ∧ t.band = { b with throttle := min 8 (b.throttle + 1) } ∧ t.regs = s.regs ∧ t.cells = s.cells ∧ t.err = s.err) ∧
    (uW b.p ≤ min (b.s * (200 + s.tol) / 200) (uW s.ceil) → b.s < uW b.p →
      ∃ t, exec .bandControlStep s = .next t ∧ t.band = { b with nbal := b.nbal.drop s.balStep } ∧ t.cells = s.cells ∧ t.err = s.err) ∧
    (uW b.p ≤ uW s.ceil → uW b.p < b.s → 0 < b.throttle → uW b.p < b.s * (400 - s.tol) / 400 →
      ∃ t, exec .bandControlStep s = .next t ∧ t.band = { b with throttle := b.throttle - 1 } ∧ t.regs = s.regs ∧ t.err = s.err) ∧
    (∀ cs, uW b.p ≤ uW s.ceil → uW b.p < b.s → b.throttle = 0 → cs = (s.eligibleCells.filter fun c => !b.nbal.contains c).take s.balStep →
      ∃ t, exec .bandControlStep s = .next t ∧ t.band = { b with nbal := cs.reverse ++ b.nbal } ∧ (∀ c ∈ cs, t.fld (cellKey c MXE_BAL_CTRL) 0 1 = 1) ∧
        (∀ k, (∀ c ∈ cs, k ≠ cellKey c MXE_BAL_CTRL) → t.reg k = s.reg k) ∧ t.err = s.err)) ∧
  (∀ s : State, ∃ t, exec .bandControlStep s = .next t ∧ ∀ c ∈ s.band.nbal, s.eligible c = false → c ∉ t.band.nbal ∧
    (s.written (cellKey c MXE_BAL_CTRL) = false → t.fld (cellKey c MXE_BAL_CTRL) 0 1 = 0)) ∧
  (∀ s : State, s.band.trimIv = s.interval100 → exec .trimUpdate s = .next s) ∧
  (∀ s : State, s.band.trimIv ≠ s.interval100 → ∃ t, exec .trimUpdate s = .next t ∧ 29492 ≤ t.fld (ecKey BAND_TRIM) 0 16 ∧ t.fld (ecKey BAND_TRIM) 0 16 ≤ 36044 ∧
    t.band.pAcc = 0 ∧ t.band.pN = 0 ∧ t.band.trimSum = 0 ∧ t.band.trimCnt = 0 ∧ t.band.trimIv = s.interval100) ∧
  (∀ (s : State) (meas est g a : Nat), g = s.fld (ecKey BAND_TRIM) 0 16 → s.band.trimIv ≠ s.interval100 → 0 < s.band.trimCnt → meas = s.band.trimSum / s.band.trimCnt → 0 < s.band.pN → est = s.band.pAcc / s.band.pN → 0 < est → a = max (g - g / 100) (min (g + g / 100) (g * meas / est)) →
    ∃ t, exec .trimUpdate s = .next t ∧ t.fld (ecKey BAND_TRIM) 0 16 = min (max a 29492) 36044 ∧ t.free = s.free ∧ t.band.s = s.band.s ∧
      (29492 ≤ a ∧ a ≤ 36044 → t.err = s.err) ∧ ((a < 29492 ∨ 36044 < a) → s.band.trimLogged = false → s.logs t 0x7A (.engine 0) 11)) ∧
  (∀ (s : State) (avg m : Nat), m = s.meanS → s.band.mode = 1 → s.written (ecKey BAND_OOB) = false → s.band.judgeIv ≠ s.interval100 → 0 < s.band.judgeCnt →
      avg = s.band.judgeSum / s.band.judgeCnt →
    (s.band.exc = true → ∃ t, exec .bandIntervalJudge s = .next t ∧ t.band.exc = false ∧ t.band.lastAvg = avg ∧ t.band.sN = 0 ∧ t.fld (ecKey BAND_MEAS) 0 24 = avg % 2 ^ 24 ∧
      s.regsBut t [ecKey BAND_MEAS] ∧ t.err = s.err) ∧
    (s.band.exc = false → m * (200 - s.tol) / 200 ≤ uW avg → uW avg ≤ m * (200 + s.tol) / 200 →
      ∃ t, exec .bandIntervalJudge s = .next t ∧ t.fld (ecKey BAND_STAT) 0 3 = 1 ∧ t.fld (ecKey BAND_MEAS) 0 24 = avg % 2 ^ 24 ∧ t.band.lastAvg = avg ∧ t.band.sN = 0 ∧
        s.regsBut t [ecKey BAND_STAT, ecKey BAND_MEAS] ∧ t.err = s.err) ∧
    (s.band.exc = false → uW avg < m * (200 - s.tol) / 200 → s.band.nbal.length = s.eligibleCells.length → s.band.oobLogged = false →
      ∃ t, exec .bandIntervalJudge s = .next t ∧ t.fld (ecKey BAND_STAT) 0 3 = 2 ∧ t.fld (ecKey BAND_OOB) 0 16 = min (s.fld (ecKey BAND_OOB) 0 16 + 1) 0xFFFF ∧
        s.logs t 0x7A (.engine 0) 9) ∧
    (s.band.exc = false → m * (200 + s.tol) / 200 < uW avg → s.band.throttle = 8 → s.band.oobLogged = false →
      ∃ t, exec .bandIntervalJudge s = .next t ∧ t.fld (ecKey BAND_STAT) 0 3 = 4 ∧ t.fld (ecKey BAND_OOB) 16 16 = min (s.fld (ecKey BAND_OOB) 16 16 + 1) 0xFFFF ∧
        s.logs t 0x7A (.engine 0) 10)) ∧
  (∀ s : State, s.band.judgeIv = s.interval100 → exec .bandIntervalJudge s = .next s) ∧
  (∀ (s : State) (ws : List (Nat × Nat)) (avg k : Nat), ws = (s.band.samples.filter fun e => decide (s.now < e.1 + s.fld (ecKey BAND_AVG) 24 6 * 1000000000)) → ws ≠ [] →
      avg = (ws.map (·.2)).sum / ws.length → k = s.now / 10000000 + 1 → s.band.avgIv ≠ k → s.band.mode = 0 →
    (s.fld (ecKey BAND_AVG) 0 24 < avg → ∃ t, exec .averageModeEval s = .next t ∧ t.band = { s.band with avgThr := min 8 (s.band.avgThr + 1), avgIv := k } ∧ t.regs = s.regs ∧ t.err = s.err) ∧
    (avg < s.fld (ecKey BAND_AVG) 0 24 → ∃ t, exec .averageModeEval s = .next t ∧ t.band = { s.band with avgThr := s.band.avgThr - 1, avgIv := k } ∧ t.regs = s.regs ∧ t.err = s.err))

/-- R369, R376, R377, R378, R383, R385, R386, R387. A written MODE takes effect. An accepted rack frame acts by its TYPE: the second of the next edge in pin mode, a window placed in order of START, a budget, a cancelled window; a bad grant is
refused with class 0x7A reason 4. A frame that fails its checks is counted and changes no set point. S moves at a tick only inside a window, and descends in the orphan state, which
2 s of silence enter in either mode. RAMP_REQUEST sends its frame; STATUS_FRAME_SEND queues one in its tick slot, in place of one not yet sent, and the bus sends it at the end of a cycle; a bus-off is counted with reason 8. -/
def Obligations.RackFramesMoveTheSetPoint : Prop :=
  (∀ s : State, s.band.modeIv ≠ s.interval100 → (∀ c, s.written (cellKey c MXE_BAL_CTRL) = false) →
    (s.fld (ecKey BAND_CTRL) 0 1 = 1 → s.band.mode ≠ 1 → ∃ t, exec .bandModeChange s = .next t ∧ t.band.mode = 1 ∧ t.band.s = uW (min s.band.lastAvg s.ceil) ∧
      t.band.b = s.orphanBudget ∧ t.band.t = s.orphanBudget ∧ t.band.avgThr = 0 ∧ t.band.heard = s.band.heard ∧ t.regs = s.regs ∧ t.err = s.err) ∧
    (s.fld (ecKey BAND_CTRL) 0 1 = 0 → s.band.mode ≠ 0 → ∃ t, exec .bandModeChange s = .next t ∧ t.band.mode = 0 ∧ t.band.windows = [] ∧ t.band.throttle = 0 ∧ t.band.nbal = [] ∧
      t.band.orphan = s.band.orphan ∧ t.band.s = s.band.s ∧ (∀ c ∈ s.band.nbal, t.fld (cellKey c MXE_BAL_CTRL) 0 1 = 0) ∧ t.err = s.err)) ∧
  (∀ (s : State) (f : RackFrame), s.frameCheck f = .ok → s.band.stopped = false →
    (f.ftype = 1 → ∃ t, exec (.timeFrame f) s = .next t ∧ t.time = (if s.fld (ecKey TIME_CFG) 0 2 = 0 then { s.time with next := some (State.fdata f 0 8) } else s.time) ∧ t.band.s = s.band.s ∧ t.band.lastTs = State.fdata f 16 8 ∧
      t.band.heard = s.now ∧ t.regs = s.regs ∧ t.err = s.err) ∧
    (∀ i, (f.ftype = 2 ∧ i = .windowAllFrame f) ∨ (f.ftype = 4 ∧ i = .windowFrame f) → s.band.mode = 1 → s.band.windows.contains (State.windowOf f) = false →
      (s.grantBad (State.windowOf f) = false → ∃ t, exec i s = .next t ∧ t.band.windows = State.placeWindow s.band.windows (State.windowOf f) ∧ t.band.s = s.band.s ∧ t.regs = s.regs ∧
        t.err = s.err) ∧
      (s.grantBad (State.windowOf f) = true → s.err.rates = [] → ∃ t, exec i s = .next t ∧ t.band.windows = s.band.windows ∧ t.band.s = s.band.s ∧ t.regs = s.regs ∧ s.logs t 0x7A (.engine 0) 4)) ∧
    (f.ftype = 3 → ∃ t, exec (.budgetFrame f) s = .next t ∧ t.band.b = min (State.fdata f 0 4) s.ceil ∧ t.band.t = min (State.fdata f 4 4) t.band.b ∧ t.band.bReq = State.fdata f 0 4 ∧ t.band.tReq = State.fdata f 4 4 ∧ t.band.rate = State.fdata f 8 4 ∧ t.rampTarget = s.rampTarget ∧ t.rateIn = s.rateIn ∧
      t.band.orphan = false ∧ t.band.s = s.band.s ∧ t.band.windows = s.band.windows ∧ t.regs = s.regs ∧
      if s.band.orphan = true then s.logs t 0x7A (.engine 0) 6 else t.err = s.err) ∧
    (f.ftype = 5 → ∃ t, exec (.cancelFrame f) s = .next t ∧ t.band.s = s.band.s ∧ t.regs = s.regs ∧ t.err = s.err ∧
      t.band.windows = (if State.fdata f 0 2 = 0xFFFF then [] else s.band.windows.filter fun w => w.wid != State.fdata f 0 2))) ∧
  (∀ (s : State) (f : RackFrame), s.written (ecKey BAND_BUS_CNT) = false →
    (s.frameCheck f = .ignored → ∃ t, exec (.rackFrameIgnored f) s = .next t ∧ t.fld (ecKey BAND_BUS_CNT) 24 8 = min (s.fld (ecKey BAND_BUS_CNT) 24 8 + 1) 0xFF ∧ s.regsBut t [ecKey BAND_BUS_CNT] ∧
      t.band = s.band ∧ t.time = s.time ∧ t.err = s.err) ∧
    (∀ lo r, (s.frameCheck f = .malformed ∧ lo = 0 ∧ r = 1) ∨ (s.frameCheck f = .auth ∧ lo = 8 ∧ r = 2) ∨ (s.frameCheck f = .stale ∧ lo = 16 ∧ r = 3) → s.err.rates = [] →
      ∀ i, i = .timeFrame f ∨ i = .windowAllFrame f ∨ i = .windowFrame f ∨ i = .budgetFrame f ∨ i = .cancelFrame f ∨ i = .rackFrameIgnored f →
      ∃ t, exec i s = .next t ∧ t.fld (ecKey BAND_BUS_CNT) lo 8 = min (s.fld (ecKey BAND_BUS_CNT) lo 8 + 1) 0xFF ∧ s.regsBut t [ecKey BAND_BUS_CNT] ∧ t.band = s.band ∧ t.time = s.time ∧
        s.logs t 0x7A (.engine 0) r)) ∧
  (∀ (s : State) (b : Band), b = s.band → b.mode = 1 → b.lastTick ≠ s.ftick + 1 →
    ∃ t, exec .rampTick s = .next t ∧ t.band.lastTick = s.ftick + 1 ∧ t.band.sN = b.sN + 1 ∧ t.band.sAcc = b.sAcc + t.band.s ∧ t.regs = s.regs ∧ t.err = s.err ∧
      (b.orphan = false → s.inWindow = true → s.time.state = 2 ∨ s.time.state = 3 →
        t.band.s = if b.s < uW s.rampTarget then min (uW s.rampTarget) (b.s + s.rampRate) else max (uW s.rampTarget) (b.s - s.rampRate)) ∧
      (b.orphan = false → s.inWindow = false → t.band.s = b.s) ∧
      (b.orphan = true → t.band.s ≤ b.s ∧ b.s - s.fld (ecKey RAMP_RATE) 0 16 ≤ t.band.s)) ∧
  (∀ s : State,
    (s.band.orphan = false → s.band.heard + 2000000000 ≤ s.now →
      ∃ t, exec .orphanEnter s = .next t ∧ t.band.orphan = true ∧ t.band.windows = [] ∧ t.band.b = s.orphanBudget ∧ t.band.t = min s.band.t s.orphanBudget ∧ t.band.s = s.band.s ∧
        s.logs t 0x7A (.engine 0) 5 ∧ t.regs = s.regs) ∧
    (s.now < s.band.heard + 2000000000 → exec .orphanEnter s = .next s) ∧
    ∀ w, s.band.mode = 1 → s.busOn = true → s.keyIn 0 = true →
      ∃ t d, exec (.rampRequest w) s = .next t ∧ t.out = .can 0x09 s.node d :: s.out ∧ d.take 4 = toLe 4 (bits w 0 24) ∧
        (d.drop 16).take 8 = toLe 8 s.facility ∧ d.drop 24 = s.rackMac s.signKey (0x09 * 32 + s.node) (d.take 24) ∧ t.band = s.band ∧ t.regs = s.regs ∧ t.err = s.err) ∧
  (∀ s : State,
    ((s.ftick + 100000 - 3000 * s.node % 100000) % 100000 = 0 →
      ∃ t d, exec .statusFrameSend s = .next t ∧ t.band = { s.band with statusQ := some d } ∧ d.take 4 = toLe 4 (s.band.s / 1000000) ∧ d.length = 15 ∧ t.out = s.out ∧ t.regs = s.regs ∧ t.err = s.err) ∧
    ((s.ftick + 100000 - 3000 * s.node % 100000) % 100000 ≠ 0 → exec .statusFrameSend s = .next s) ∧
    (∀ q, s.band.statusQ = some q → q.length = 15 → s.busOn = true → s.keyIn 0 = true →
      ∃ d, s.busSend.out = .can 0x0A s.node d :: s.out ∧ d.take 15 = q ∧ d.drop 24 = s.rackMac s.signKey (0x0A * 32 + s.node) (d.take 24) ∧ s.busSend.band = { s.band with statusQ := none }) ∧
    (s.band.statusQ = none ∨ s.busOn = false → s.busSend = s) ∧
    ∃ t, exec .canBusOff s = .next t ∧ t.fld (ecKey BAND_BUS_STAT) 16 8 = min (s.fld (ecKey BAND_BUS_STAT) 16 8 + 1) 0xFF ∧ s.regsBut t [ecKey BAND_BUS_STAT] ∧
      s.logs t 0x7A (.engine 0) 8 ∧ t.band = s.band)

/-! ### Heat, coolant, stops and the module pins (R388-R392, R495, R500, R506, R507) -/

/-- R388, R389. A region well below TH_CAP keeps its clock, its ballast and its state. A loaded region at or above TH_CAP loses its ballast and is capped at 16 - min(8, T - TH_CAP + 1) pulses,
logged once; an unloaded one is switched off (in state 2 at the next admission interval), logged once, and comes back after 1 s below TH_CAP - 10. A failed sensor caps its region at 11 pulses of 16 and logs reason 3; the region then reads the highest
neighbour with a sensor in service plus 5, and keeps its cap. -/
def Obligations.RegionsAnswerHeat : Prop :=
  (∀ (s : State) (d rx ry r : Nat) (T : Int), r = regionAt d rx ry → rx < 8 → ry < 8 → -128 ≤ T → T ≤ 127 →
    (s.sensorBad r = false → T < s.thCap d - 8 →
      ∃ t, exec (.regionTempEval d rx ry T) s = .next t ∧ t.temp r = T ∧ t.fld (regionKey TEMP_R r) 16 5 = 16 ∧ t.fld (regionKey TEMP_R r) 22 1 = 0 ∧
        toSigned 8 (t.fld (regionKey TEMP_R r) 8 8) = max (toSigned 8 (s.fld (regionKey TEMP_R r) 8 8)) T ∧ (t.region r).capLogged = false ∧ (t.region r).st = (s.region r).st ∧
        s.regsBut t [regionKey TEMP_R r] ∧ s.regionsBut t r ∧ t.cells = s.cells ∧ t.band = s.band ∧ t.err = s.err) ∧
    (s.sensorBad r = false → s.regionLoaded r = true → s.thCap d ≤ T → (∀ c ∈ State.cellsOf r, s.written (cellKey c MXE_BAL_CTRL) = false) →
      ∃ t, exec (.regionTempEval d rx ry T) s = .next t ∧ t.temp r = T ∧ t.fld (regionKey TEMP_R r) 16 5 = 16 - min 8 (T - s.thCap d + 1).toNat ∧ t.fld (regionKey TEMP_R r) 22 1 = 1 ∧
        (∀ c ∈ State.cellsOf r, t.fld (cellKey c MXE_BAL_CTRL) 0 1 = 0) ∧ (t.region r).st = (s.region r).st ∧ (t.region r).capLogged = true ∧ s.regionsBut t r ∧ t.cells = s.cells ∧
        s.regsBut t (regionKey TEMP_R r :: (State.cellsOf r).map fun c => cellKey c MXE_BAL_CTRL) ∧
        if (s.region r).capLogged = true then t.err = s.err else s.logs t 0x7B (State.regionLoc r) (1 + d * 2 ^ 8 + rx * 2 ^ 11 + ry * 2 ^ 14)) ∧
    (s.sensorBad r = false → s.regionLoaded r = false → s.thCap d ≤ T → 2 ≤ (s.region r).st → (s.region r).st ≤ 4 → (s.region r).off = .idle →
      ∃ t, exec (.regionTempEval d rx ry T) s = .next t ∧ t.temp r = T ∧ t.fld (regionKey TEMP_R r) 21 1 = 1 ∧
        (if (s.region r).st = 2 then (t.region r).st = 2 ∧ (t.region r).off = .next false s.interval ∧ (t.region r).on = (s.region r).on
          else (t.region r).st = 1 ∧ (t.region r).on = none ∧ t.fld (ldoKey r 0) 17 1 = 0) ∧ s.regionsBut t r ∧ t.jobs = s.jobs ∧
        if (s.region r).offLogged = true then t.err = s.err else s.logs t 0x7B (State.regionLoc r) (2 + d * 2 ^ 8 + rx * 2 ^ 11 + ry * 2 ^ 14)) ∧
    (∀ x, s.sensorBad r = true → s.highest (State.neighbours r) = some x → -128 ≤ x + 5 → x + 5 ≤ 127 → s.regionLoaded r = true ∨ x + 5 < s.thCap d →
      ∃ t, exec (.regionTempEval d rx ry T) s = .next t ∧ t.temp r = x + 5 ∧ t.fld (regionKey TEMP_R r) 16 5 = s.fld (regionKey TEMP_R r) 16 5 ∧ t.sensorBad r = true ∧
        (t.region r).st = (s.region r).st ∧ s.regionsBut t r ∧ t.err = s.err)) ∧
  (∀ (s : State) (d rx ry r v : Nat), r = regionAt d rx ry → s.fld (regionKey TEMP_R r) 21 1 = 1 → (s.region r).st = 1 → (s.region r).off = .idle → (s.region r).heatBelow = some v →
    (v + 1000000000 ≤ s.now → ∃ t, exec (.heatSwitchOn d rx ry) s = .next t ∧ (t.region r).st = 2 ∧ (t.region r).on.isSome = true ∧ t.fld (regionKey TEMP_R r) 21 1 = 0 ∧
      s.regsBut t [regionKey TEMP_R r] ∧ s.regionsBut t r ∧ t.cells = s.cells ∧ t.err = s.err) ∧
    (s.now < v + 1000000000 → exec (.heatSwitchOn d rx ry) s = .next s)) ∧
  (∀ (s : State) (d rx ry r : Nat), r = regionAt d rx ry → rx < 8 → ry < 8 → s.sensorBad r = false → (∀ c ∈ State.cellsOf r, s.written (cellKey c MXE_BAL_CTRL) = false) →
    ∃ t, exec (.tempSensorFail d rx ry) s = .next t ∧ t.sensorBad r = true ∧ t.fld (regionKey TEMP_R r) 22 1 = 1 ∧ t.fld (regionKey TEMP_R r) 16 5 = 11 ∧
      (∀ c ∈ State.cellsOf r, t.fld (cellKey c MXE_BAL_CTRL) 0 1 = 0) ∧ t.regions = s.regions ∧ t.cells = s.cells ∧
      s.regsBut t (regionKey TEMP_R r :: (State.cellsOf r).map fun c => cellKey c MXE_BAL_CTRL) ∧ s.logs t 0x7B (State.regionLoc r) (3 + d * 2 ^ 8 + rx * 2 ^ 11 + ry * 2 ^ 14))

/-- R390, R391, R392, R495, R500, R506, R507. A region at TH_STOP for 10 ms, or a deassertion of COOLANT_OK of 50 µs, stops the engine at the end of its 1 µs tick: rails and GDDR off, jobs lost, S at 0, a class 0x7C record;
both in one tick are recorded as coolant loss. A further cause in a stopped engine makes one more record and nothing else. A short deassertion restarts the count or does nothing. BAND_RESTART begins a warm restart once
COOLANT_OK has held 10 s and every region is cool, and otherwise sets REFUSED. Without steady coolant 600 s after phase 1 began a cold start ends: class 0x7C with bit 8, converters off, engine off. MOD_RST# turns rails off and loses jobs with no error record; its
release begins the cold start, of KIND 1. A TAP takes EXTEST, CLAMP and HIGHZ in module reset only, and BYPASS in their place otherwise. -/
def Obligations.StopsResetAndRestart : Prop :=
  ((∀ (s : State) (d rx ry r t0 : Nat), r = regionAt d rx ry → (s.region r).stopSince = some t0 →
    (s.stoppable = true → t0 + 10000000 ≤ s.now → exec (.thermalStop d rx ry) s = .next { s with band := { s.band with stopDue :=
      match s.band.stopDue with | some (k, c) => some (k, min c 2) | none => some (s.ftick, 2) } }) ∧
    (s.band.stopped = true → s.boot.off = false → s.boot.modRst = false → t0 + 10000000 ≤ s.now →
      (s.band.stopSeen.contains 2 = false → ∃ t, exec (.thermalStop d rx ry) s = .next t ∧ t.band = { s.band with stopSeen := 2 :: s.band.stopSeen } ∧ t.regs = s.regs ∧
        t.regions = s.regions ∧ s.logs t 0x7C (.module 0) 2) ∧
      (s.band.stopSeen.contains 2 = true → exec (.thermalStop d rx ry) s = .next s)) ∧
    (s.now < t0 + 10000000 → exec (.thermalStop d rx ry) s = .next s)) ∧
  (∀ s : State,
    (s.band.coolantOk = false → s.stoppable = true → exec .coolantStop s = .next { s with band := { s.band with stopDue :=
      match s.band.stopDue with | some (k, c) => some (k, min c 1) | none => some (s.ftick, 1) } }) ∧
    (s.band.coolantOk = false → s.band.stopped = true → s.boot.off = false → s.boot.modRst = false → s.band.stopSeen.contains 1 = false →
      ∃ t, exec .coolantStop s = .next t ∧ t.band = { s.band with stopSeen := 1 :: s.band.stopSeen } ∧ t.regs = s.regs ∧ t.regions = s.regions ∧ s.logs t 0x7C (.module 0) 1) ∧
    (s.band.coolantOk = true → exec .coolantStop s = .next s)) ∧
  (∀ s : State, s.pending = [] → ∃ u : State, step s = .next u.stopSettle ∧ u.slot = s.slot + 1) ∧
  (∀ (s : State) (k c : Nat), s.band.stopDue = some (k, c) →
    (s.ftick = k → s.stopSettle = s) ∧
    (s.ftick ≠ k → s.stoppable = true → ∃ t, t = s.stopSettle ∧ t.band.stopped = true ∧ t.band.stopCause = c ∧ t.band.s = 0 ∧ t.band.windows = [] ∧ t.band.stopDue = none ∧
      t.jobs = [] ∧ t.panels = [] ∧ t.load = none ∧ t.fld (ecKey BOOT_STAT) 4 1 = 0 ∧ (∀ q, q < s.part.dies * 64 → (t.region q).st = 0 ∧ (t.region q).on = none) ∧
      (∀ e n, e < s.part.dies → n < 12 → t.devState e n = 0) ∧ t.boot.off = s.boot.off ∧
      ∃ e ∈ t.err.arrived, e.cls = 0x7C ∧ e.sev = 3 ∧ e.loc = .module 0 ∧ e.detail = BitVec.ofNat 64 c) ∧
    (s.ftick ≠ k → s.stoppable = false → s.stopSettle = { s with band := { s.band with stopDue := none } })) ∧
  (∀ (s : State) (ns : Nat),
    (ns < 1000 → exec (.coolantDeassert ns) s = .next s) ∧
    (1000 ≤ ns → ns < 50000 → exec (.coolantDeassert ns) s = .next { s with band := { s.band with coolantSince := s.now } }) ∧
    (50000 ≤ ns → exec (.coolantDeassert ns) s = .next { s with band := { s.band with coolantOk := false, coolantSince := s.now } })) ∧
  (∀ s : State,
    (s.band.coolantOk = false → ∃ t, exec .coolantAssert s = .next t ∧ t.band.coolantOk = true ∧ t.band.coolantSince = s.now ∧ t.band.stopped = s.band.stopped ∧ t.regs = s.regs ∧ t.err = s.err) ∧
    (s.band.coolantOk = true → exec .coolantAssert s = .next s)) ∧
  ∀ s : State, s.band.stopped = true → s.boot.off = false → s.boot.modRst = false →
    (s.band.coolantOk = true → s.band.coolantSince + 10000000000 ≤ s.now → (∀ r, r < s.part.dies * 64 → s.temp r < s.thCap (regionDie r) - 10) →
      ∃ t, exec .bandRestart s = .next t ∧ t.band.stopped = false ∧ t.fld (ecKey BAND_STOP) 5 1 = 0 ∧ t.fld (ecKey BOOT_STAT) 0 4 = 1 ∧ t.fld (ecKey BOOT_STAT) 4 1 = 0 ∧
        t.fld (ecKey BOOT_STAT) 6 1 = 1 ∧ t.fld (ecKey BOOT_CAUSE) 0 4 = 2 ∧ t.boot.kind = 3 ∧ t.keepsGddr = false ∧ t.jobs = [] ∧ t.cells = [] ∧ ((s.flash.dev0 || s.flash.dev1) = true → t.flash.rmap = s.flash.rmap)) ∧
    (s.band.coolantOk = false ∨ s.now < s.band.coolantSince + 10000000000 ∨ (∃ r, r < s.part.dies * 64 ∧ s.thCap (regionDie r) - 10 ≤ s.temp r) →
      ∃ t, exec .bandRestart s = .next t ∧ t.fld (ecKey BAND_STOP) 5 1 = 1 ∧ s.regsBut t [ecKey BAND_STOP] ∧ t.band = s.band ∧ t.boot = s.boot ∧ t.regions = s.regions ∧ t.cells = s.cells ∧
        t.err = s.err)) ∧
  ((∀ s : State, s.inPhase 2 = true → s.boot.cfgDone = true → s.boot.kind = 1 → s.coolantSteady = false →
    (s.boot.startAt + 600000000000 ≤ s.now →
      ∃ t, exec .startupCoolantTimeout s = .next t ∧ t.boot.off = true ∧ (∀ d, d < s.part.dies → t.fld (dieKey d PWR_CONV) 0 3 = 0) ∧
        ∃ e ∈ t.err.arrived, e.cls = 0x7C ∧ e.sev = 3 ∧ e.loc = .module 0 ∧ e.detail = 257) ∧
    (s.now < s.boot.startAt + 600000000000 → exec .startupCoolantTimeout s = .next s)) ∧
  (∀ s : State,
    (s.boot.modRst = false → ∃ t, exec .moduleReset s = .next t ∧ t.boot.modRst = true ∧ t.jobs = [] ∧ t.panels = [] ∧ t.load = none ∧ t.band.s = 0 ∧ t.fld (ecKey BOOT_STAT) 4 1 = 0 ∧
      (∀ q, q < s.part.dies * 64 → (t.region q).st = 0) ∧ t.err.mgmtUp = false ∧ (s.err.recQ = [] → t.err.arrived = s.err.arrived)) ∧
    (s.boot.modRst = true → s.boot.lost = false →
      ∃ t, exec .moduleResetRelease s = .next t ∧ t.boot.modRst = false ∧ t.fld (ecKey BOOT_STAT) 0 4 = 1 ∧ t.fld (ecKey BOOT_STAT) 6 1 = 0 ∧
        t.fld (ecKey BOOT_CAUSE) 0 4 = (if s.boot.modRstReq = true then 0 else 1) ∧ t.jobs = [] ∧ t.cells = [] ∧ t.regions = [] ∧ ((s.flash.dev0 || s.flash.dev1) = true → t.flash.rmap = s.flash.rmap) ∧ t.err.recQ = s.err.recQ) ∧
    (s.boot.modRst = true → s.boot.lost = true → exec .moduleResetRelease s = .next { s with boot := { s.boot with modRst := false } })) ∧
  ∀ (s : State) (d : Nat) (i : TapInstr), d < s.tap.length →
    (((i = .extest ∨ i = .clamp ∨ i = .highz) ∧ s.boot.modRst = false) ∨ i = .other → ∃ t, exec (.tapInstruction d i) s = .next t ∧ t.tap[d]? = some .bypass ∧ { t with tap := s.tap } = s ∧
      ∀ e, e ≠ d → t.tap[e]? = s.tap[e]?) ∧
    (((i = .extest ∨ i = .clamp ∨ i = .highz) ∧ s.boot.modRst = true) ∨ i = .bypass ∨ i = .idcode ∨ i = .samplePreload →
      ∃ t, exec (.tapInstruction d i) s = .next t ∧ t.tap[d]? = some i ∧ { t with tap := s.tap } = s ∧ ∀ e, e ≠ d → t.tap[e]? = s.tap[e]?))

/-! ### Errors, the black box and self-tests (R423-R440, R446-R449) -/

/-- R423, R425, R426, R431, R447, R449. The first record on its way takes the next RSEQ, is staged for the black box and sent to management Ethernet; one of severity engine has a restart due in 50 ms. The third of severity engine within 10 minutes makes the restart a cold one. A staged entry is committed to the
copies in service, at once letting the restart begin where it is that record; a copy in which the write fails leaves service with classes 0x8F and 0x82; a full buffer drops and counts. A datagram with the oldest 16 records behind its header, and each
record's syslog message, go to every collector; records held while the link was down leave when it returns. BBOX_SELECT selects an entry. -/
def Obligations.RecordsReachTheirDestinations : Prop :=
  (∀ (s : State) (r0 : Rec), firstRec s.err.recQ = some r0 →
  let r := { r0 with rseq := s.flash.rseq }
  ∃ t, exec .errorRecordArrive s = .next t ∧ t.err.recQ = s.err.recQ.erase r0 ∧ t.err.arrived = r :: s.err.arrived ∧
    t.flash = { s.flash with rseq := s.flash.rseq % 0xFFFFFFFF + 1, ctrDone := false } ∧
    t.jobs = s.jobs ∧ t.cells = s.cells ∧ t.regions = s.regions ∧ t.fld (ecKey (if r0.sev < 2 then BBOX_CNT_CC else BBOX_CNT_ES)) (16 * (r0.sev % 2)) 16 =
      min (s.fld (ecKey (if r0.sev < 2 then BBOX_CNT_CC else BBOX_CNT_ES)) (16 * (r0.sev % 2)) 16 + 1) 0xFFFF ∧
    (s.err.staged.length < 4096 → ∃ e, t.err.staged = s.err.staged ++ [e] ∧ e.jseq = s.fld (ecKey BBOX_NEXT) 0 32 ∧ e.kind = 1 ∧ e.body = r.bytes ∧ e.okA = true ∧ e.okB = true ∧ e.raw = none) ∧
    (4096 ≤ s.err.staged.length → t.err.staged = s.err.staged ∧ t.err.lossCount = s.err.lossCount + 1 ∧
      t.fld (ecKey BBOX_PEND) 16 16 = min (s.fld (ecKey BBOX_PEND) 16 16 + 1) 0xFFFF) ∧
    (s.err.collectors ≠ 0 → s.err.mgmtUp = true → (∀ i, i < s.err.collectors → .syslog i r.syslog ∈ t.out) ∧ t.err.unsent = s.err.unsent ++ [r] ∧ t.err.ages = s.err.ages ++ [s.now] ∧
      t.err.unlogged = s.err.unlogged) ∧
    (s.err.collectors ≠ 0 → s.err.mgmtUp = false → t.err.unsent = (s.err.unsent ++ [r]).drop (s.err.unsent.length + 1 - 1024) ∧
      t.err.unlogged = (s.err.unlogged ++ [r]).drop (s.err.unlogged.length + 1 - 1024)) ∧
    (s.err.collectors = 0 → t.err.unsent = s.err.unsent ∧ t.err.unlogged = s.err.unlogged) ∧
    (r0.sev ≠ 2 → t.boot = s.boot) ∧
    (r0.sev = 2 → s.fld (ecKey BOOT_STAT) 4 1 = 1 → s.boot.restartDue = none → s.boot.off = false →
      t.boot.restartDue = some (s.now + 50000000) ∧ t.boot.restartCls = r0.cls ∧ t.boot.restartCold = decide (3 ≤ t.boot.engRecs.length)) ∧
    (r0.sev = 2 → t.boot.engRecs = (s.boot.engRecs.filter fun q => decide (s.now ≤ q + 600000000000)) ++ [s.now])) ∧
  (∀ s : State, s.err.recQ = [] → exec .errorRecordArrive s = .next s) ∧
  (∀ (s : State) (e : JEntry) (rest : List JEntry), s.err.staged = e :: rest → s.boot.off = false → s.flash.dev0 = true ∨ s.flash.dev1 = true → s.err.bbox.length < 1048576 → s.err.lossDue = false → s.flashBehind = false →
    ∃ t, exec (.bboxCommit true true) s = .next t ∧ t.flash = s.flash ∧ t.err = { s.err with staged := rest, bbox := s.err.bbox ++ [{ e with okA := s.flash.dev0, okB := s.flash.dev1 }] } ∧ t.regs = s.regs ∧
      t.boot = if State.isEngineEntry e = true ∧ s.boot.restartDue.isSome = true then { s.boot with restartDue := some s.now } else s.boot) ∧
  (∀ (s : State) (e : JEntry) (rest : List JEntry), s.err.staged = e :: rest → s.boot.off = false → s.flash.dev0 = true → s.flash.dev1 = true → s.err.bbox.length < 1048576 → s.err.lossDue = false → s.flashBehind = false →
    ∃ t a b, exec (.bboxCommit false true) s = .next t ∧ t.flash.dev0 = false ∧ t.flash.dev1 = true ∧ t.err.recQ = s.err.recQ ++ [a, b] ∧ a.cls = 0x8F ∧ a.detail = 1 ∧ b.cls = 0x82 ∧ b.detail = 4 ∧
      t.err.staged = rest ∧ t.err.bbox = s.err.bbox ++ [{ e with okA := false, okB := true }]) ∧
  (∀ (s : State) (ok0 ok1 : Bool),
    (s.err.staged ≠ [] → s.flash.dev0 = true ∨ s.flash.dev1 = true → s.flashBehind = true → exec (.bboxCommit ok0 ok1) s = .next s) ∧
    (s.flash.dev0 = false → s.flash.dev1 = false → s.flash.noDevLogged = true → s.boot.off = false → s.err.lossDue = false →
      exec (.bboxCommit ok0 ok1) s = .next { s with err := { s.err with staged := s.err.staged.drop 1 } })) ∧
  (∀ s : State,
    (s.err.mgmtUp = true → s.err.unsent ≠ [] → 16 ≤ s.err.unsent.length ∨ (s.err.ages.head?).getD 0 + 1000000 ≤ s.now →
      ∃ t, exec .udpDatagramSend s = .next t ∧ t.err = { s.err with unsent := s.err.unsent.drop 16, ages := s.err.ages.drop 16 } ∧ { t with err := s.err, out := s.out } = s ∧
        ∀ i, i < s.err.collectors → .datagram i (datagramBytes (s.err.unsent.take 16)) ∈ t.out) ∧
    (s.err.mgmtUp = false → exec .udpDatagramSend s = .next s) ∧
    (s.err.mgmtUp = false → ∃ t, exec .mgmtLinkUp s = .next t ∧ t.err.mgmtUp = true ∧ t.err.unsent = [] ∧ t.err.unlogged = [] ∧
      (∀ r ∈ s.err.unlogged, ∀ i, i < s.err.collectors → .syslog i r.syslog ∈ t.out) ∧
      (∀ r ∈ s.err.unsent, ∃ l, r ∈ l ∧ l.length ≤ 16 ∧ ∀ i, i < s.err.collectors → .datagram i (datagramBytes l) ∈ t.out) ∧
      t.err.recQ = s.err.recQ ∧ t.regs = s.regs) ∧
    exec .mgmtLinkDown s = .next { s with err := { s.err with mgmtUp := false } }) ∧
  ∀ (s : State) (j : Word), ∃ t, exec (.bboxSelect j) s = .next t ∧ t.reg (ecKey BBOX_SEL) = BitVec.ofNat 64 j.toNat ∧ s.regsBut t [ecKey BBOX_SEL] ∧ t.err = s.err

/-- R434, R435, R436, R437, R438, R439, R440. A queued targeted test starts on an idle cell. Its verdict sets ERR_TT, counts, and is logged as class 0x18, 0x2C or 0x4B with the RSEQ of its trigger; a lasting verdict in a
logical cell makes it a hole. Firmware's test of an unassigned cell, or of a spare that its physical-mode packets reach, updates ERR_RT_STEP and ERR_RT_TIME where it passes, and logs class 0x2D and stops the core where it fails. A coverage check that is due logs class 0x2F with the
number of cells past their goal and the first of them. -/
def Obligations.TestsAndCoverage : Prop :=
  (∀ (s : State) (c : Nat) (q : TTest) (rest : List TTest), (s.cell c).tests = q :: rest →
    ((s.cell c).running = none → s.testFree c q.unit = true →
      ∃ t, exec (.targetedTestStart c) s = .next t ∧ t.cell c = { s.cell c with tests := rest, running := some q } ∧ (q.unit = 1 → t.isHeld c = true) ∧ s.cellsBut t c ∧ t.regs = s.regs ∧
        t.err = s.err) ∧
    ((s.cell c).running.isSome = true ∨ s.testFree c q.unit = false → exec (.targetedTestStart c) s = .next s)) ∧
  (∀ (s : State) (c : Nat) (q : TTest), c < 18432 → (s.cell c).running = some q → q.unit < 8 → s.written (cellKey c ERR_TT_CNT) = false →
    (∃ t, exec (.targetedTestVerdict c true) s = .next t ∧ (t.cell c).running = none ∧ t.reg (cellKey c ERR_TT) = BitVec.ofNat 64 (2 + 4 + q.unit * 16) ∧
      t.fld (cellKey c ERR_TT_CNT) 0 16 = min (s.fld (cellKey c ERR_TT_CNT) 0 16 + 1) 0xFFFF ∧ t.fld (cellKey c ERR_TT_CNT) 16 16 = s.fld (cellKey c ERR_TT_CNT) 16 16 ∧ s.regsBut t [cellKey c ERR_TT, cellKey c ERR_TT_CNT] ∧ s.cellsBut t c ∧ t.boot = s.boot ∧
      t.flash = s.flash ∧ ∃ r, t.err.recQ = s.err.recQ ++ [r] ∧ r.cls = (if q.unit = 0 ∨ q.unit = 5 then 0x18 else 0x2C) ∧ r.sev = 0 ∧ r.loc = .cell c 0 ∧
        r.detail = BitVec.ofNat 64 (s.triggerRseq q.sn + 2 ^ 32 + q.unit * 2 ^ 36)) ∧
    ∃ t, exec (.targetedTestVerdict c false) s = .next t ∧ (t.cell c).running = none ∧ t.reg (cellKey c ERR_TT) = BitVec.ofNat 64 (2 + 8 + q.unit * 16) ∧
      t.fld (cellKey c ERR_TT_CNT) 16 16 = min (s.fld (cellKey c ERR_TT_CNT) 16 16 + 1) 0xFFFF ∧ s.regsBut t [cellKey c ERR_TT, cellKey c ERR_TT_CNT] ∧ s.cellsBut t c ∧
      ((s.logicalOf c).isSome = true → t.isHole c = true ∧ t.isHeld c = true) ∧
      ∃ r, r ∈ t.err.recQ ∧ r.cls = (if q.unit = 0 ∨ q.unit = 5 then 0x18 else 0x2C) ∧ r.sev = 1 ∧ r.loc = .cell c 0 ∧ r.detail = BitVec.ofNat 64 (s.triggerRseq q.sn + 2 ^ 33 + q.unit * 2 ^ 36)) ∧
  (∀ (s : State) (d n q : Nat) (rest : List Nat) (ok : Bool), d < 8 → n < 12 → (s.mc d n).tests = q :: rest →
    ∃ t, exec (.targetedTestVerdict (18432 + 12 * d + n) ok) s = .next t ∧ (t.mc d n).tests = rest ∧ s.logs t 0x4B (.dieUnit d n) (s.rseqOf q + (if ok = true then 1 else 2) * 2 ^ 32) ∧
      t.regs = s.regs ∧ t.mem = s.mem) ∧
  (∀ (s : State) (c x y : Nat), s.isSpare c = false → s.logicalOf c = some (x, y) → s.isHole c = false → s.panelAt x y = none → s.testDue s.freeCells c x y 0 = true →
    (∃ t, exec (.firmwareSelfTest c none) s = .next t ∧ t.reg (cellKey c ERR_RT_STEP) = s.reg (ecKey STEP_ENGINE) ∧ t.reg (cellKey c ERR_RT_TIME) = BitVec.ofNat 64 s.facility ∧
      s.regsBut t [cellKey c ERR_RT_STEP, cellKey c ERR_RT_TIME] ∧ t.err = s.err ∧ t.cell c = { s.cell c with testedAt := s.now + 1 } ∧ s.cellsBut t c) ∧
    ∀ u k, u < 4 → k = (if u = 1 then CoreSel.tail else .head) → ∃ t, exec (.firmwareSelfTest c (some u)) s = .next t ∧ s.logs t 0x2D (.cell c 0) u ∧ (t.core c k).st = 3 ∧
      t.fld (State.coreKey c k HEAD_CTRL) 0 1 = 0 ∧ s.regsBut t [State.coreKey c k HEAD_CTRL] ∧ s.cellsBut t c ∧
      ((s.cell c).tests = [] → (s.cell c).running = none → ∃ e, (t.cell c).tests = [e] ∧ e.unit = State.unitOf u ∧ e.sn = s.err.nextSn)) ∧
  (∀ (s v : State) (c u : Nat), s.isSpare c = true → s.testDue s.spareCells c (cellPx c) (cellPy c) (cellDie c) = true → u < 4 →
    (∀ n, (s.noteTested c).carryPhys c = (v, n + 1) → exec (.firmwareSelfTest c (some u)) s = .next v ∧ exec (.firmwareSelfTest c none) s = .next v) ∧
    ((s.noteTested c).carryPhys c = (v, 0) → (∃ t r, exec (.firmwareSelfTest c (some u)) s = .next t ∧ c ∈ t.boot.disabled ∧ r ∈ t.err.recQ ∧ r.cls = 0x2D ∧ r.loc = .cell c 0 ∧
        t.fld (State.coreKey c (if u = 1 then .tail else .head) HEAD_CTRL) 0 1 = 0 ∧ v.regsBut t [State.coreKey c (if u = 1 then .tail else .head) HEAD_CTRL]) ∧
      ∃ t, exec (.firmwareSelfTest c none) s = .next t ∧ t.reg (cellKey c ERR_RT_STEP) = v.reg (ecKey STEP_ENGINE) ∧ t.reg (cellKey c ERR_RT_TIME) = BitVec.ofNat 64 v.facility ∧
        t.boot = v.boot ∧ t.err = v.err)) ∧
  (∀ s : State, (s.timeBasis = true ∧ s.boot.covLast + 60000000000 ≤ s.now) ∨ (s.timeBasis = false ∧ s.boot.covStep.toNat + 64 ≤ s.stepEngine) →
    (s.overdue = [] → ∃ t, exec .coverageCheck s = .next t ∧ t.boot.covLast = s.now ∧ t.err = s.err ∧ t.regs = s.regs) ∧
    ∀ x y rest, s.overdue = (x, y) :: rest → ∃ t, exec .coverageCheck s = .next t ∧ t.boot.covLast = s.now ∧ t.regs = s.regs ∧
      s.logs t 0x2F (.engine 0) (min (rest.length + 1) 0xFFFF + x * 2 ^ 16 + y * 2 ^ 24))

/-! ### Bring-up (R59, R64-R67, R271, R272, R348, R356, R404, R414, R431, R453-R470) -/

/-- R454, R456, R458, R459, R461, R465, R466, R473, R474. Phase 1 takes a device that fails its SFDP check out of service, and runs the first candidate that verifies, with class 0x80 for each one before it, or enters recovery. Phase 2 takes the largest valid counters and increments BOOTSEQ; where none is
valid they are free values. Phase 3 powers each die in order, router rails at VSET 30 and compute rails in stages, or excludes it, and ends once every turn-on has. Phase 4 locks and calibrates each die, with its boundaries to earlier dies, or excludes it. Phase 5 primes. Phase 6 disables a cell with two
failing votes of its testers, and counts one; a failing wire takes a spare, and a crossing that retrained above its boundary's PAD after that is disabled. -/
def Obligations.StartPhasesOneToSix : Prop :=
  (∀ (s u : State) (ts : List Sfdp) (keys : List Bool) (objs : List SignedObj), ts.map State.Sfdp.usable = [true, true] → u = { s with flash := { s.flash with keysOk := keys } } → s.inPhase 1 = true → s.flash.dev0 = true → s.flash.dev1 = true →
      s.flash.active < 2 →
    (∀ i, i < 4 → u.candReason objs i = 0 → (∀ j, j < i → u.candReason objs j ≠ 0) →
      ∃ t, exec (.firmwareVerify ts keys objs) s = .next t ∧ s.phaseEnds t 1 ∧ t.flash.active = State.candSlot s.flash.active i ∧
        t.fld (ecKey BOOT_STAT) 11 1 = State.candSlot s.flash.active i ∧ t.fld (ecKey BOOT_STAT) 12 1 = State.candDev i ∧
        (∃ l, t.err.recQ = s.err.recQ ++ l ∧ l.length = i ∧ ∀ r ∈ l, r.cls = 0x80) ∧
        t.flash.kept.active = t.flash.active ∧ s.regsBut t [ecKey BOOT_STAT, ecKey BOOT_FW_SVN, ecKey BOOT_PTIME]) ∧
    ((∀ i, i < 4 → u.candReason objs i ≠ 0) →
      ∃ t r, exec (.firmwareVerify ts keys objs) s = .next t ∧ t.fld (ecKey BOOT_STAT) 13 1 = 1 ∧ t.fld (ecKey BOOT_STAT) 0 4 = 1 ∧ r ∈ t.err.recQ ∧ r.cls = 0x81 ∧
        t.flash.active = s.flash.active ∧ (∀ p ∈ s.part.ports, (t.hport p).powered = true) ∧ s.regsBut t [ecKey BOOT_STAT])) ∧
  (∀ (s : State) (ts : List Sfdp) (keys : List Bool) (objs : List SignedObj), ts.map State.Sfdp.usable = [true, false] → s.inPhase 1 = true → s.flash.dev0 = true → s.flash.dev1 = true →
    ∃ t r, exec (.firmwareVerify ts keys objs) s = .next t ∧ t.flash.dev0 = true ∧ t.flash.dev1 = false ∧ r ∈ t.err.recQ ∧ r.cls = 0x82 ∧ r.detail = 3) ∧
  (∀ (s : State) (r : FlashRead), s.inPhase 2 = true → s.boot.cfgDone = false → s.warm = false ∨ r.sfdp.map State.Sfdp.usable = [true, true] → s.flash.dev0 = true → s.flash.dev1 = true → r.rmapBad = [] → r.licBad = [] →
    r.calOk = [true, true] → s.flash.rmap.all (fun e => e.live) = true →
    (∀ v w, s.ctrRead r.ctrBad 0 = some v → s.ctrRead r.ctrBad 1 = some w → r.cfgOk = [true, true] →
      ∃ t, exec (.configRead r) s = .next t ∧ t.flash.bootseq = (v + 1) % 2 ^ 24 ∧ t.reg (ecKey BOOT_SEQ) = BitVec.ofNat 64 ((v + 1) % 2 ^ 24) ∧
        t.flash.rseq = (w + 0xFFFFFFFE) % 0xFFFFFFFF + 1 ∧ t.flash.lmsQ = (s.ctrRead r.ctrBad 2).getD 1048576 ∧
        (∀ x, s.ctrRead r.ctrBad 3 = some x → t.fld (ecKey BBOX_CNT_CC) 0 16 = x % 2 ^ 16) ∧ t.flash.cfgOk = true ∧ t.boot.cfgDone = true ∧ t.flash.nonces = s.flash.nonces + 1 ∧ t.flash.rmapDone = t.flash.rmap ∧
        t.fld (ecKey BAND_BUS_CFG) 0 5 = Config.siteNode s.flash.configSet % 32 ∧ t.err.recQ = s.err.recQ ∧ t.free = s.free ∧ t.fld (ecKey BOOT_STAT) 0 4 = 2) ∧
    (s.ctrRead r.ctrBad 0 = none → r.cfgOk = [false, false] →
      ∃ t e, exec (.configRead r) s = .next t ∧ t.flash.bootseq = ((Config.freeWord s.free).toNat + 1) % 2 ^ 24 ∧ t.free = s.free + 1 ∧ t.flash.cfgOk = false ∧ t.boot.cfgDone = true ∧
        e ∈ t.err.recQ ∧ e.cls = 0x82 ∧ e.detail = 2)) ∧
  (∀ (s : State) (d : Nat), s.inPhase 3 = true → s.boot.nextDie = d → d < s.part.dies → (s.boot.excluded.find? fun e => e.1 == d) = none → s.turningOn = false ∨ s.boot.kind = 2 →
    (∃ t, exec (.diePowerUp d true true []) s = .next t ∧ (t.die d).supplied = true ∧ (t.die d).ctlOk = true ∧ t.fld (dieKey d PWR_PHASE) 0 28 = 0xFFFFFFF ∧
      t.fld (dieKey d PWR_DIE_I) 16 12 = State.ilim 28 ∧ (∀ p ∈ s.part.ports, portDie p = d → (t.hport p).powered = true) ∧
      (∀ (i r : Nat) (dead : Nat → Bool), i < 64 → r = d * 64 + i →
        (∀ rail, dead rail = (Nat.ble 3 ((List.range 4).countP fun k => s.fused 4 d (locSlice (regionRx r) (regionRy r) rail k)) || s.fused (2 + rail) d (locRegion (regionRx r) (regionRy r)))) →
        (t.region r).st = (if dead 1 = true then 6 else if dead 0 = true then 5 else 2) ∧
        (t.region r).on = (if dead 1 = true ∨ dead 0 = true then none else some (State.TurnOn.first s.now i false false)) ∧
        (dead 1 = false → t.fld (ldoKey r 1) 0 6 = 30 ∧ t.fld (ldoKey r 1) 17 1 = 1)) ∧
      t.err.recQ = s.err.recQ ∧ (∀ r, regionDie r ≠ d → t.region r = s.region r) ∧
      if d + 1 < s.part.dies ∨ t.turningOn = true then t.boot.nextDie = d + 1 ∧ t.fld (ecKey BOOT_STAT) 0 4 = 3 else s.phaseEnds t 3) ∧
    (∀ ok ctl rs, (ok = false ∧ rs = 3) ∨ (ok = true ∧ ctl = false ∧ rs = 5) →
      ∃ t, exec (.diePowerUp d ok ctl []) s = .next t ∧ t.dieState d = 3 ∧ s.logs t 0x8A (.dieUnit d 0) (rs + d * 2 ^ 8) ∧ (∀ p, p < 3 → t.pstate d p = 6) ∧
        (∀ p ∈ s.part.ports, portDie p = d → (t.hport p).up = false ∧ (t.hport p).powered = false) ∧ t.regions = s.regions ∧ t.cells = s.cells)) ∧
  (∀ (s : State) (d rx ry r : Nat) (o : TurnOn), r = regionAt d rx ry → rx < 8 → ry < 8 → s.inPhase 3 = true → s.boot.nextDie = s.part.dies → (s.region r).on = some o → o.full = true → o.router = false →
      s.now ≤ o.due + 2000 →
    ∃ t, exec (.powerGood d rx ry) s = .next t ∧ (t.region r).on = none ∧ (t.region r).st = (s.region r).st ∧ t.fld (ldoKey r 0) 0 6 = 30 ∧ s.regionsBut t r ∧ t.cells = s.cells ∧ t.err = s.err ∧
      if t.turningOn = true then t.fld (ecKey BOOT_STAT) 0 4 = 3 else s.phaseEnds t 3) ∧
  (∀ (s : State) (d : Nat), s.inPhase 4 = true → s.boot.nextDie = d → d < s.part.dies → s.isExcluded d = false →
    (s.boot.failedX = [] →
      ∃ t, exec (.pllCalibration d true [] []) s = .next t ∧ t.fld (dieKey d CLK_STAT) 0 4 = 0xF ∧ t.fld (dieKey d CAL_STAT) 1 1 = (if d + 1 < s.part.dies then 1 else 0) ∧
        (s.part.dies ≤ d + 1 → ∀ e, e < s.part.dies → s.isExcluded e = false → t.fld (dieKey e CAL_STAT) 0 2 = 1 ∧ t.fld (dieKey e CLK_STAT) 9 1 = 1) ∧
        (∀ i, i < 64 → t.fld (regionKey CLK_R (64 * d + i)) 10 6 = Config.vfloor (!s.flash.calOk) d i % 31) ∧
        (∀ e n, s.dieBeside d 3 = some e → e < d → s.isExcluded e = false → n = (List.range 48).countP (fun c => s.fused 6 e (State.locCross 1 c) || s.fused 6 d (State.locCross 3 c)) →
          t.reg (State.bndKey e 1) = BitVec.ofNat 64 (6 + n * 2 ^ 4 + (if n < 48 then 6 * 2 ^ 10 else 0) + 2 ^ 14 + if 4 < n then 2 ^ 15 else 0) ∧ t.reg (State.bndKey d 3) = t.reg (State.bndKey e 1)) ∧
        (∀ seam c, seam < 2 → c < 48 → t.fld (State.seamKey d seam c) (4 * (c % 8)) 4 = 1) ∧ t.err.recQ = s.err.recQ ∧
        if d + 1 < s.part.dies then t.boot.nextDie = d + 1 else s.phaseEnds t 4) ∧
    ∃ t, exec (.pllCalibration d false [] []) s = .next t ∧ t.dieState d = 3 ∧ s.logs t 0x8A (.dieUnit d 0) (4 + d * 2 ^ 8) ∧
      (∀ side e, side < 4 → s.dieBeside d side = some e → t.reg (State.bndKey e ((side + 2) % 4)) = 0) ∧ t.cells = s.cells) ∧
  (∀ s : State, s.inPhase 5 = true →
    ∃ t, exec .primeAll s = .next t ∧ s.phaseEnds t 5 ∧ t.err = s.err ∧ ∀ r, r < s.part.dies * 64 → 2 ≤ (s.region r).st → (s.region r).st ≤ 4 → (s.region r).on = none →
      (∀ c ∈ State.cellsOf r, t.primed c = true) ∧ ((s.region r).st = 2 → (t.region r).st = if (s.region r).sliceCap = true then 4 else 3)) ∧
  (∀ (s : State) (c n : Nat) (vs : List (Nat × Nat × Bool)), s.inPhase 6 = true → c < s.part.dies * 2304 → s.isExcluded (cellDie c) = false → s.flash.rmap.length < 4096 →
      s.fused 1 (cellDie c) (locCell c) = false → s.boot.disabled.contains c = false → vs ≠ [] → (∀ v ∈ vs, v.1 = c) →
      (2 ≤ (s.testers c).length ∧ n = (s.testers c).countP fun e => vs.contains (c, e, true)) ∨ ((s.testers c).length < 2 ∧ n = if vs.contains (c, c, true) = true then 2 else 0) →
    (2 ≤ n → ∃ t, exec (.neighbourTest [] vs [] []) s = .next t ∧ c ∈ t.boot.disabled ∧ t.fused 1 (cellDie c) (locCell c) = true ∧ s.logs t 0x84 (.cell c 0) 0 ∧ s.phaseEnds t 6) ∧
    (n = 0 → ∃ t, exec (.neighbourTest [] vs [] []) s = .next t ∧ t.boot.disabled = s.boot.disabled ∧ t.flash = s.flash ∧ t.reg (dieKey (cellDie c) FUSE_NVOTE) = s.reg (dieKey (cellDie c) FUSE_NVOTE) ∧
      t.err.recQ = s.err.recQ ∧ s.phaseEnds t 6) ∧
    (n = 1 → ∃ t, exec (.neighbourTest [] vs [] []) s = .next t ∧ t.boot.disabled = s.boot.disabled ∧ t.flash = s.flash ∧
      (∀ e k, e < s.part.dies → k < 12 → s.isExcluded e = false → s.fused 7 e k = false → t.devState e k = 1) ∧
      t.fld (dieKey (cellDie c) FUSE_NVOTE) 7 8 = min (s.fld (dieKey (cellDie c) FUSE_NVOTE) 7 8 + 1) 0xFF ∧ t.err.recQ = s.err.recQ ∧ s.phaseEnds t 6)) ∧
  ∀ (s : State) (d side c w : Nat), s.inPhase 6 = true → d < s.part.dies → side < 4 → c < 48 → w < 40 → s.crossFailed d side c = false → s.isExcluded d = false → s.flash.rmap.length < 4096 →
    (∀ raw, s.fld (State.bndKey d side) 0 4 < raw → (s.wiresOut d side c).contains w = false → State.steered (s.wiresOut d side c ++ [w]) = true →
      ∃ t, exec (.neighbourTest [] [] [(d, side, c, w)] [(d, side, c, raw)]) s = .next t ∧ s.phaseEnds t 6 ∧ t.crossFailed d side c = true) ∧
    ∃ t, exec (.neighbourTest [] [] [(d, side, c, w)] []) s = .next t ∧ s.phaseEnds t 6 ∧
      if (s.wiresOut d side c).contains w = true then t.boot.wires = s.boot.wires ∧ t.err.recQ = s.err.recQ
      else if State.steered (s.wiresOut d side c ++ [w]) = true then (d, side, c, w) ∈ t.boot.wires ∧ s.logs t 0x85 (.dieUnit d c) 0 ∧ t.crossFailed d side c = false
      else t.crossFailed d side c = true ∧ s.logs t 0x85 (.dieUnit d c) 0

/-- R65, R66, R67, R263, R271, R272, R378, R459, R461, R462, R468. Phase 7 trains the memory devices: live, failed with class 0x48, or left out for its fuse. Phase 8 publishes a largest rectangle of dies without an excluded one, the state of every
die, the disabled cells, and the live list; with no canvas allowed it stays, and a record reports it. Phase 9 primes GDDR, or keeps it as the check of every 1,024th segment leaves it. Phase 10 locks, reports ready, stages the phase timing and takes S from the last interval. A phase past its limit logs class 0x87 once. -/
def Obligations.StartPhasesSevenToTen : Prop :=
  (∀ (s : State) (ts : List DevTest) (lanes : List (Nat × Nat)) (credits : List (Nat × Nat × Nat)), s.inPhase 7 = true →
    ∃ t, exec (.linkTraining ts lanes credits) s = .next t ∧ s.phaseEnds t 7 ∧ ∀ d n v, d < s.part.dies → n < 12 → s.isExcluded d = false →
      v = ((ts.find? fun q => q.die == d && q.dev == n).map (State.devCause s.warm)).getD 0 →
      t.devState d n = (if s.fused 7 d n = true then 7 else if v = 0 then 3 else 5) ∧
      (t.devState d n = 5 → ∃ r ∈ t.err.recQ, r.cls = 0x48 ∧ r.loc = .dieUnit d n)) ∧
  (∀ (s s1 : State) (faults : List (Nat × Nat × Nat)), s.inPhase 8 = true → s.boot.nextDie = 0 → s1 = s.mergeCells.promoteAll.excludeFound.excludeAll faults →
    ∃ t, exec (.fuseMergePublish faults) s = .next t ∧
      ((∀ q ∈ State.rects s.part, ∃ d, d < s.part.dies ∧ q.holds s.part d = true ∧ s1.isExcluded d = true) ∨ s1.canvasAllowed = false →
        t.fld (ecKey BOOT_STAT) 0 4 = 8 ∧ t.ready = s.ready ∧ t.regs = s1.regs ∧ ∃ e, t.err.recQ = s1.err.recQ ++ [e]) ∧
      ((∃ q ∈ State.rects s.part, ∀ d, d < s.part.dies → q.holds s.part d = true → s1.isExcluded d = false) → s1.canvasAllowed = true →
        ∃ r, s.phaseEnds t 8 ∧ r ∈ State.rects s.part ∧ (∀ d, d < s.part.dies → r.holds s.part d = true → s1.isExcluded d = false) ∧
        (∀ q ∈ State.rects s.part, (∀ d, d < s.part.dies → q.holds s.part d = true → s1.isExcluded d = false) → q.area < r.area ∨ (q.area = r.area ∧ (q.h < r.h ∨ (q.h = r.h ∧ (r.dc < q.dc ∨ (r.dc = q.dc ∧ r.dr ≤ q.dr)))))) ∧
        t.canvasValid = true ∧ t.canvasW = 46 * r.w ∧ t.canvasH = 48 * r.h ∧ t.canvasDc = r.dc ∧ t.canvasDr = r.dr ∧
        t.fld (ecKey BOOT_CANVAS_GEN) 0 32 = (s.fld (ecKey BOOT_CANVAS_GEN) 0 32 + 1) % 2 ^ 32 ∧
        (∀ d, d < s.part.dies → t.dieState d = (if s1.isExcluded d = true then 3 else if r.holds s.part d = true then 1 else 2)) ∧
        (∀ c, c ∈ t.boot.disabled ↔ c < s.part.dies * 2304 ∧ s.mergedBad c = true) ∧
        (∀ d n, (d, n) ∈ t.boot.liveList ↔ d < s.part.dies ∧ n < 12 ∧ s1.isExcluded d = false ∧ (s.devState d n = 3 ∨ s.devState d n = 4)) ∧
        t.fld (ecKey BOOT_GDDR_STAT) 0 7 = t.boot.liveList.length)) ∧
  (∀ s : State, s.inPhase 9 = true →
    (∀ v, v = (if s.warm = true then s.keptCheck else s) → s.keepsGddr = false → ∃ t, exec .gddrPriming s = .next t ∧ s.phaseEnds t 9 ∧ (∀ a, a < 2 ^ 44 → t.byte a = 0) ∧
      (∀ k, 2 ^ 44 ≤ k → k < 2 ^ 45 → t.byte k = v.byte k) ∧ t.fld (ecKey BOOT_GDDR_STAT) 7 2 = 2 ∧
      (∀ e ∈ s.boot.liveList, t.devState e.1 e.2 = 4 ∧ (t.mc e.1 e.2).passStart = s.now) ∧ t.err = v.err) ∧
    (s.keepsGddr = true → ∃ t, exec .gddrPriming s = .next t ∧ s.phaseEnds t 9 ∧ t.mem = s.keptCheck.mem ∧ t.err = s.keptCheck.err ∧ t.fld (ecKey BOOT_GDDR_STAT) 7 2 = 3 ∧
      ∀ e ∈ s.boot.liveList, t.devState e.1 e.2 = 4)) ∧
  (∀ s : State, s.inPhase 10 = true → s.err.staged.length < 4096 →
    ∃ t e, exec .bootLockReady s = .next t ∧ t.ready = true ∧ t.fld (ecKey BOOT_STAT) 5 1 = 1 ∧ t.fld (ecKey BOOT_STAT) 0 4 = 0 ∧ t.err.staged = s.err.staged ++ [e] ∧ e.kind = 3 ∧
      e.body.length = 48 ∧ (s.band.mode = 1 → t.band.s = uW (min s.band.lastAvg t.ceil) ∧ t.band.b = t.orphanBudget) ∧ (s.band.mode ≠ 1 → t.band.s = s.band.s) ∧
      t.cells = s.cells ∧ t.regions = s.regions ∧ (s.wrote = [] → t.err.recQ = s.err.recQ) ∧
      ∀ k v row i, (k, v) ∈ s.wrote → findRow (unitRows (keyUnit k)) (keyOff k) = some (row, i) → (row.fields.any fun f => decide (f.acc = .rwl)) = true →
        ∃ r ∈ t.err.recQ, r.cls = 0x87 ∧ r.loc = State.keyLoc k) ∧
  ∀ (s : State) (p : Nat), s.inPhase p = true → 1 ≤ p → p ≤ 10 → (p = 2 → s.boot.cfgDone = false) → s.fld (ecKey BOOT_POVR) (p - 1) 1 = 0 →
    (s.limitUs p < (s.now - s.boot.phaseStart) / 1000 →
      ∃ t, exec .phaseOverrun s = .next t ∧ t.fld (ecKey BOOT_POVR) (p - 1) 1 = 1 ∧ s.logs t 0x87 (.engine 0) (2 + p * 2 ^ 8) ∧ s.regsBut t [ecKey BOOT_POVR] ∧ t.boot = s.boot) ∧
    ((s.now - s.boot.phaseStart) / 1000 ≤ s.limitUs p → exec .phaseOverrun s = .next s)

/-- R335, R431, R455, R457, R458, R469, R470. The restart an engine-severity record asked for begins once due, warm with KIND 2, or cold with KIND 3 for the third in 10 minutes. BOOT_RESET with its CONFIRM begins a warm restart of a ready
engine, or a cold start; without it nothing happens. The heartbeat is sent; its loss makes the standby take over, with class 0x86 after ready and a cold start during one. Another die's watchdog logs class 0x86. A completed flash write leaves the counters, the next repair-map entry, or firmware, licences and the configuration set in every device in service; a device in which it failed leaves service. -/
def Obligations.RestartsAndFailover : Prop :=
  (∀ (s : State) (u : Nat), s.boot.restartDue = some u → s.boot.off = false → s.boot.modRst = false →
    (u ≤ s.now → s.boot.restartCold = false →
      ∃ t, exec .warmRestart s = .next t ∧ t.boot.kind = 2 ∧ t.ready = false ∧ t.fld (ecKey BOOT_STAT) 6 1 = 1 ∧ t.fld (ecKey BOOT_CAUSE) 0 2 = 2 ∧
        t.fld (ecKey BOOT_CAUSE) 8 8 = s.boot.restartCls % 256 ∧ t.jobs = [] ∧ t.cells = [] ∧ t.panels = [] ∧ t.boot.restartDue = none ∧
        ((s.flash.dev0 || s.flash.dev1) = true → t.fld (ecKey BOOT_STAT) 0 4 = if ((State.slotOf s.flash s.flash.active).okA || (State.slotOf s.flash s.flash.active).okB) = true then 2 else 1)) ∧
    (u ≤ s.now → s.boot.restartCold = true →
      ∃ t, exec .warmRestart s = .next t ∧ t.boot.kind = 1 ∧ t.ready = false ∧ t.fld (ecKey BOOT_STAT) 0 4 = 1 ∧ t.fld (ecKey BOOT_STAT) 6 1 = 0 ∧ t.fld (ecKey BOOT_CAUSE) 0 2 = 3 ∧
        t.fld (ecKey BOOT_CAUSE) 8 8 = s.boot.restartCls % 256 ∧ t.jobs = [] ∧ t.cells = [] ∧ t.regions = []) ∧
    (s.now < u → exec .warmRestart s = .next s)) ∧
  (∀ s : State,
    (s.ready = true → ∃ t, exec (.bootResetWarm 0x5253) s = .next t ∧ t.boot.kind = 2 ∧ t.ready = false ∧ t.fld (ecKey BOOT_STAT) 0 4 = 1 ∧ t.fld (ecKey BOOT_STAT) 6 1 = 1 ∧
      t.fld (ecKey BOOT_CAUSE) 0 2 = 2 ∧ t.jobs = [] ∧ t.cells = []) ∧
    (s.boot.off = false → s.boot.modRst = false → ∃ t, exec (.bootResetCold 0x5253) s = .next t ∧ t.boot.kind = 1 ∧ t.ready = false ∧ t.fld (ecKey BOOT_STAT) 0 4 = 1 ∧
      t.fld (ecKey BOOT_STAT) 6 1 = 0 ∧ t.fld (ecKey BOOT_CAUSE) 0 2 = 1 ∧ t.jobs = [] ∧ t.cells = [] ∧ t.regions = []) ∧
    ∀ k, k ≠ 0x5253 → exec (.bootResetWarm k) s = .next s ∧ exec (.bootResetCold k) s = .next s) ∧
  (∀ s : State, s.boot.off = false → s.boot.modRst = false →
    exec .heartbeatSend s = .next { s with out := .heartbeat s.ctlDie :: s.out, boot := { s.boot with beat := some s.now } } ∧
    ∀ u b, s.boot.standbyAt = some u → s.boot.beat = some b → u ≤ b → s.ctlDie ≠ s.part.standby →
      (b + 5000000 ≤ s.now → s.ready = true → ∃ t, exec .heartbeatLossFailover s = .next t ∧ t.ctlDie = s.part.standby ∧ t.fld (ecKey BOOT_STAT) 10 1 = 1 ∧ (t.die s.ctlDie).ctlOk = false ∧
        s.logs t 0x86 (.dieUnit s.ctlDie 0) (2 + s.ctlDie * 2 ^ 8) ∧ s.regsBut t [ecKey BOOT_STAT] ∧ t.cells = s.cells) ∧
      (b + 5000000 ≤ s.now → s.ready = false → ∃ t, exec .heartbeatLossFailover s = .next t ∧ t.ctlDie = s.part.standby ∧ t.fld (ecKey BOOT_STAT) 0 4 = 1 ∧ t.boot.kind = 1 ∧
        t.cells = [] ∧ t.err.recQ = s.err.recQ) ∧
      (s.now < b + 5000000 → exec .heartbeatLossFailover s = .next s)) ∧
  (∀ (s : State) (d : Nat), d < s.part.dies → d ≠ s.ctlDie →
    ∃ t, exec (.dieControllerWatchdog d) s = .next t ∧ (t.die d).ctlOk = false ∧ s.logs t 0x86 (.dieUnit d 0) (2 + d * 2 ^ 8) ∧ t.regs = s.regs ∧ t.cells = s.cells) ∧
  ∀ s : State, s.flash.dev0 = true → s.flash.dev1 = true →
    (∃ t, exec (.flashWriteComplete true true) s = .next t ∧ t.err = s.err ∧ t.flash.rmap = s.flash.rmap ∧ (s.flash.ctrDone = false → t.flash = { s.flash with ctrDone := true, ctrs := t.flash.ctrs } ∧
        ∀ (i v : Nat) (l : List Nat), s.ctrNow[i]? = some v → s.flash.ctrs[i]? = some l → t.flash.ctrs[i]? = some (if l.head? = some v then l else v :: l)) ∧
      (s.flash.ctrDone = true → s.flash.rmapDone = s.flash.rmap → s.err.staged ≠ [] → t.flash = s.flash) ∧
      (s.flash.ctrDone = true → s.flash.rmapDone = s.flash.rmap → s.err.staged = [] → t.flash.kept = { slotA := s.flash.slotA, slotB := s.flash.slotB, active := s.flash.active, licences := s.flash.licences, configSet := s.flash.configSet } ∧ t.flash.active = s.flash.active ∧ t.flash.licences = s.flash.licences) ∧
      ∀ i, s.flash.ctrDone = true → s.flash.rmap[i]? ≠ s.flash.rmapDone[i]? → (∀ j, j < i → s.flash.rmap[j]? = s.flash.rmapDone[j]?) →
        t.flash = { s.flash with rmapDone := s.flash.rmapDone.take i ++ (s.flash.rmap.drop i).take 1 ++ s.flash.rmapDone.drop (i + 1) }) ∧
    (∃ t, exec (.flashWriteComplete false true) s = .next t ∧ t.flash.dev0 = false ∧ t.flash.dev1 = true ∧ t.flash.rmap = s.flash.rmap ∧ s.logs t 0x82 (.module 0) 4) ∧
    ∃ t, exec (.flashWriteComplete true false) s = .next t ∧ t.flash.dev1 = false ∧ t.flash.dev0 = true ∧ t.flash.rmap = s.flash.rmap ∧ s.logs t 0x82 (.module 0) 4

/-! ### Repair in service, licences and service commands (R61-R63, R76, R448, R474-R480, R484) -/

/-- R61, R62, R63, R76. A cell that fails in service becomes a hole, its panel is halted and its soft fuse recorded. A quick remap of a row with holes is accepted on an idle row with a spare and refused
with its reason otherwise; its completion skips the row's holes, counts the spares and the soft fuses again and publishes a new canvas, and
a command refused in that cycle because a remap was in progress is evaluated again. -/
def Obligations.FailedCellsBecomeHolesAndRowsRemap : Prop :=
  (∀ (s : State) (c source : Nat), (s.logicalOf c).isSome = true → s.flash.rmap.length < 4096 →
    ∃ t, exec (.cellFailInService c source) s = .next t ∧ t.isHole c = true ∧ (s.isHole c = false → t.cell c = { s.cell c with held := true }) ∧ s.cellsBut t c ∧
      t.fused 1 (cellDie c) (locCell c) = true ∧ t.regs = s.regs ∧ t.err.recQ = s.err.recQ ∧
      t.err.haltQ = s.err.haltQ ++ (if s.haltable c = true then [⟨c, 0, 0, s.jobOf c, false⟩] else [])) ∧
  (∀ (s : State) (d py : Nat),
    (s.boot.remap.isSome = true → ∃ t, exec (.quickRemap d py) s = .next t ∧ t.reg (ecKey BOOT_REMAP_STAT) = 3 + 3 * 2 ^ 4 ∧ t.boot = { s.boot with remapLate := s.boot.remapLate ++ [(d, py)] } ∧ s.regsBut t [ecKey BOOT_REMAP_STAT]) ∧
    (s.boot.remap = none → s.canvasValid = true → s.dieState d = 1 → py < 48 →
      ∃ t, exec (.quickRemap d py) s = .next t ∧ s.regsBut t [ecKey BOOT_REMAP_STAT] ∧ t.cells = s.cells ∧
        if s.rowHoles d py = [] then t.reg (ecKey BOOT_REMAP_STAT) = 3 + 4 * 2 ^ 4 ∧ t.boot = s.boot
        else if 2 ≤ (s.rowDisabled d py).length then t.reg (ecKey BOOT_REMAP_STAT) = 3 + 2 * 2 ^ 4 ∧ t.boot = s.boot
        else if s.rowBusy d py = true then t.reg (ecKey BOOT_REMAP_STAT) = 3 + 2 ^ 4 ∧ t.boot = s.boot
        else t.reg (ecKey BOOT_REMAP_STAT) = 1 ∧ t.boot = { s.boot with remap := some (d, py, s.rowHoles d py) })) ∧
  (∀ (s u : State) (e : Nat × Nat), s.boot.remapLate = [e] → exec .quickRemapComplete { s with boot := { s.boot with remapLate := [] } } = .next u → s.boot.remap.isSome = true →
    exec .quickRemapComplete s = .next (u.quickRemap e.1 e.2)) ∧
  ∀ (s : State) (d py : Nat) (holes gone : List Nat), s.boot.remap = some (d, py, holes) → s.boot.remapLate = [] → gone = holes.take (2 - (s.rowDisabled d py).length) →
    ∃ t, exec .quickRemapComplete s = .next t ∧ t.boot.remap = none ∧ t.boot.disabled = s.boot.disabled ++ gone ∧ t.boot.holes = s.boot.holes.filter (fun c => !gone.contains c) ∧
      t.fld (ecKey BOOT_CANVAS_GEN) 0 32 = (s.fld (ecKey BOOT_CANVAS_GEN) 0 32 + 1) % 2 ^ 32 ∧ t.reg (ecKey BOOT_REMAP_STAT) = 2 ∧
      t.fld (dieKey d FUSE_SPARES) 0 7 = 96 - t.boot.disabled.countP (fun c => cellDie c == d) ∧
      t.fld (dieKey d FUSE_RMAP_LIVE) 0 12 = min (s.flash.rmap.countP fun e => e.live && e.die == d && !s.isHard e.typ d e.loc) 0xFFF ∧ t.err = s.err ∧ t.jobs = s.jobs

/-- R448, R474, R475, R476, R477, R478, R479, R480, R484. A valid licence is stored once and its features come into force, the 4-bit rate once no job is held; a valid firmware image goes to the slot that does not run; a service command of its
number and nonce acts, and a fresh nonce is drawn; an attestation uses its leaf once. An object that is not valid is refused with its reason in LIC_RES and class 0x83. `fates` are those of the host-memory reads that fetch the object. -/
def Obligations.LicencesAndServiceCommands : Prop :=
  (∀ (s u : State) (o : SignedObj) (fates : List Fate), s.flash.licOp = 0 → s.ready = true → ({ s with fates := fates } : State).licObject (some o) 2 = (u, 0) → State.licBodyOk o.body = true →
  let f := ofLe (o.body.take 4);
  let q := ofLe ((o.body.drop 4).take 4);
    ((u.flash.licences.any fun h => h.lseq == q) = true → ∃ t, exec (.licInstallLicence (some o) fates) s = .next t ∧ t.reg (ecKey LIC_RES) = 2 ∧ t.flash = { u.flash with licOp := 0 } ∧
      u.regsBut t [ecKey LIC_RES] ∧ t.err = u.err) ∧
    ((u.flash.licences.any fun h => h.lseq == q) = false → u.flash.licences.length < 16 → u.flash.dev0 = true →
      ∃ t l, exec (.licInstallLicence (some o) fates) s = .next t ∧ t.flash.licences = u.flash.licences ++ [l] ∧ l.lseq = q ∧ l.features = f ∧ l.valid = true ∧ t.reg (ecKey LIC_RES) = 2 ∧
        t.fld (ecKey LIC_STAT) 4 5 = (u.flash.licences.filter fun h => h.valid).length + 1 ∧
        t.fld (ecKey LIC_STAT) 0 1 = (if bit f 0 = true then 1 else u.fld (ecKey LIC_STAT) 0 1) ∧ t.fld (ecKey LIC_STAT) 2 1 = (if bit f 2 = true then 1 else u.fld (ecKey LIC_STAT) 2 1) ∧
        (u.fld (ecKey LIC_STAT) 3 1 = 0 → bit f 1 = true → u.fld (ecKey LIC_STAT) 1 1 = 0 → t.fld (ecKey LIC_STAT) 1 1 = (if u.jobs = [] then 1 else 0) ∧
          t.fld (ecKey LIC_STAT) 3 1 = (if u.jobs = [] then 0 else 1)))) ∧
  (∀ (s : State),
    (s.fld (ecKey LIC_STAT) 3 1 = 1 → s.jobs = [] → ∃ t, exec .w4RateApply s = .next t ∧ t.fld (ecKey LIC_STAT) 3 1 = 0 ∧ t.fld (ecKey LIC_STAT) 1 1 = 1 ∧ s.regsBut t [ecKey LIC_STAT] ∧
      t.flash = s.flash ∧ t.err = s.err) ∧
    (s.fld (ecKey LIC_STAT) 3 1 = 0 ∨ s.jobs ≠ [] → exec .w4RateApply s = .next s)) ∧
  (∀ (s u : State) (o : SignedObj) (fates : List Fate), s.flash.licOp = 0 → s.ready = true ∨ s.fld (ecKey BOOT_STAT) 13 1 = 1 → ({ s with fates := fates } : State).licObject (some o) 1 = (u, 0) → u.flash.dev0 = true →
  let n := 1 - u.fld (ecKey BOOT_STAT) 11 1;
    (∃ t, exec (.licInstallFirmware (some o) true fates) s = .next t ∧ t.flash.active = n ∧ (State.slotOf t.flash n).svn = o.svn ∧ (State.slotOf t.flash n).okA = true ∧
      State.slotOf t.flash (1 - n) = State.slotOf u.flash (1 - n) ∧ t.reg (ecKey LIC_RES) = 2 ∧ u.regsBut t [ecKey LIC_RES] ∧ t.err = u.err) ∧
    ∃ t, exec (.licInstallFirmware (some o) false fates) s = .next t ∧ t.flash = { u.flash with licOp := 0 } ∧ t.reg (ecKey LIC_RES) = 3 + 11 * 2 ^ 2 ∧ u.logs t 0x83 (.engine 0) (11 + 4 * 2 ^ 8)) ∧
  (∀ (s : State) (obj : Option SignedObj) (op otype why : Nat) (i : Instr) (u : State) (fates : List Fate), s.flash.licOp = 0 → s.ready = true → ({ s with fates := fates } : State).licObject obj otype = (u, why) → why ≠ 0 → why < 16 →
    (i = .licInstallLicence obj fates ∧ op = 1 ∧ otype = 2) ∨ (i = .licInstallFirmware obj true fates ∧ op = 4 ∧ otype = 1) ∨ (i = .svcRaiseMinSvn obj fates ∧ op = 2 ∧ otype = 3) →
    ∃ t, exec i s = .next t ∧ t.reg (ecKey LIC_RES) = BitVec.ofNat 64 (3 + why * 2 ^ 2) ∧ u.regsBut t [ecKey LIC_RES] ∧ t.flash.licences = u.flash.licences ∧ t.flash.active = u.flash.active ∧
      u.logs t 0x83 (.engine 0) (why + op * 2 ^ 8)) ∧
  (∀ s : State, s.flash.licOp = 0 → s.ready = true → s.licAddrOk s.licDst = true →
    (s.flash.lmsQ < 1048576 → s.flash.dev0 = true →
      ∃ t u ok, exec .licAttest s = .next t ∧ (let s1 := ({ s with flash := { s.flash with lmsQ := s.flash.lmsQ + 1 } } : State).ctrWrite; s1.licWrite (s1.reportBytes ++ Config.sign s.flash.lmsQ s1.reportBytes)) = (u, ok) ∧ t.mem = u.mem ∧ t.flash.lmsQ = u.flash.lmsQ ∧
        t.reg (ecKey LIC_RES) = (if ok = true then 2 else 35) ∧ u.regsBut t [ecKey LIC_RES]) ∧
    (1048576 ≤ s.flash.lmsQ → ∃ t, exec .licAttest s = .next t ∧ t.reg (ecKey LIC_RES) = 3 + 10 * 2 ^ 2 ∧ s.regsBut t [ecKey LIC_RES] ∧ t.mem = s.mem ∧ t.flash = { s.flash with licOp := 0 } ∧
      s.logs t 0x83 (.engine 0) (10 + 3 * 2 ^ 8)) ∧
    ∃ t u ok, exec .licReadCertificate s = .next t ∧ s.licWrite Config.certificate = (u, ok) ∧ t.mem = u.mem ∧ t.reg (ecKey LIC_RES) = (if ok = true then 2 else 35) ∧
      u.regsBut t [ecKey LIC_RES]) ∧
  (∀ (s u : State) (o : SignedObj) (fates : List Fate), s.flash.licOp = 0 → s.ready = true → ({ s with fates := fates } : State).licObject (some o) 3 = (u, 0) → u.flash.dev0 = true →
    (∀ (die : Nat) (idxs : List Nat), o.nonce = s.curNonce → ofLe (o.body.take 4) = 1 → u.removeWhy die idxs = 0 →
      ∃ t, exec (.svcRemoveRepairEntries (some o) die idxs fates) s = .next t ∧ t.reg (ecKey LIC_RES) = 2 ∧ u.regsBut t [ecKey LIC_RES] ∧ t.flash.nonces = u.flash.nonces + 1 ∧ t.err = u.err ∧
        t.flash.rmap = if idxs.contains 0xFFFF = true then u.flash.rmap.filter (fun e => !(e.die == die && e.state == 0))
          else (u.flash.rmap.zipIdx.filter fun e => !idxs.contains e.2).map (·.1)) ∧
    (o.nonce = s.curNonce → ofLe (o.body.take 4) = 2 → ∃ t e, exec (.svcClearBlackBox (some o) fates) s = .next t ∧ t.err.bbox = [] ∧ t.err.wrapped = false ∧ t.reg (ecKey BBOX_CNT_CC) = 0 ∧ t.reg (ecKey BBOX_CNT_ES) = 0 ∧
      t.err.staged = u.err.staged ++ [e] ∧ e.kind = 4 ∧ e.jseq = u.fld (ecKey BBOX_NEXT) 0 32 ∧ t.reg (ecKey LIC_RES) = 2 ∧ t.flash.nonces = u.flash.nonces + 1) ∧
    (∀ k : List Byte, o.nonce = s.curNonce → ofLe (o.body.take 4) = 3 → ∃ t, exec (.svcInstallRackKeys (some o) [some k, none] fates) s = .next t ∧
      t.band = { u.band with keys := [some k, (u.band.keys[1]?).getD none] } ∧ t.reg (ecKey LIC_RES) = 2 ∧ t.flash.nonces = u.flash.nonces + 1 ∧ t.err = u.err) ∧
    (∀ lseq, o.nonce = s.curNonce → ofLe (o.body.take 4) = 4 → ∃ t, exec (.svcRemoveLicence (some o) lseq fates) s = .next t ∧ t.flash.licences = u.flash.licences.filter (fun l => l.lseq != lseq) ∧
      t.reg (ecKey LIC_RES) = 2 ∧ u.regsBut t [ecKey LIC_RES, ecKey LIC_STAT] ∧ t.flash.nonces = u.flash.nonces + 1 ∧ t.err = u.err) ∧
    (∀ cfg, o.nonce = s.curNonce → ofLe (o.body.take 4) = 5 → ∃ t, exec (.svcReplaceConfig (some o) cfg fates) s = .next t ∧ t.flash = { u.flash with configSet := cfg, nonces := u.flash.nonces + 1, licOp := 0 } ∧
      t.reg (ecKey LIC_RES) = 2 ∧ u.regsBut t [ecKey LIC_RES] ∧ t.err = u.err) ∧
    (∀ slot, o.nonce = s.curNonce → ofLe (o.body.take 4) = 6 → ∃ t, exec (.svcSelectFirmwareSlot (some o) slot fates) s = .next t ∧
      t.flash = { u.flash with active := slot % 2, nonces := u.flash.nonces + 1, licOp := 0 } ∧ t.reg (ecKey LIC_RES) = 2 ∧ u.regsBut t [ecKey LIC_RES] ∧ t.err = u.err) ∧
    (o.nonce = s.curNonce → ofLe (o.body.take 4) = 7 → ∃ t v, exec (.svcRaiseMinSvn (some o) fates) s = .next t ∧
      v = max u.flash.svnMin ((State.slotOf u.flash (u.fld (ecKey BOOT_STAT) 11 1)).svn % 2 ^ 16) ∧ t.flash.svnMin = v ∧
      (v < 2 ^ 16 → t.fld (dieKey 0 FUSE_SVN) 0 16 = v ∧ t.fld (dieKey u.part.standby FUSE_SVN) 0 16 = v) ∧ t.reg (ecKey LIC_RES) = 2 ∧ t.flash.nonces = u.flash.nonces + 1 ∧ t.err = u.err) ∧
    (o.nonce ≠ s.curNonce → ∃ t, exec (.svcClearBlackBox (some o) fates) s = .next t ∧ t.reg (ecKey LIC_RES) = 3 + 6 * 2 ^ 2 ∧ t.err.bbox = u.err.bbox ∧ t.flash.nonces = u.flash.nonces + 1 ∧
      u.logs t 0x83 (.engine 0) (6 + 2 * 2 ^ 8)))

/-! ### The machine as a whole -/

/-- The model's queue of waiting commands: a step takes the command at its front, and is that command's meaning on the state with the queue's rest. -/
def Obligations.StepRunsTheFrontCommand : Prop :=
  ∀ (s : State) (c : Instr) (rest : List Instr), s.pending = c :: rest → step s = exec c { s with pending := rest }

/-- The model's choice (log 2): with no command waiting one slot of the 1.5 GHz clock passes. It reaches the kinds of state of `tickReach` at most. In a slot in which no cell runs, no job runs or halts, no batch of events ends, no converter
failed, no Xildo port owes a link frame, no STATUS frame waits, no turn-on ends phase 3 and no stop is due, registers, memory, records, jobs, the start, flash and power control stay as they are. -/
def Obligations.IdleStepPassesOneSlot : Prop :=
  ∀ s : State, s.pending = [] → ∃ t, step s = .next t ∧ t.slot = s.slot + 1 ∧ t.pending = [] ∧ t.part = s.part ∧ (s.canon → t.canon) ∧ (∀ k, k ∉ tickReach → s.sameAt t k) ∧
    (s.cells = [] → (∀ p, (s.hport p).batch = 0) → (∀ d, (s.die d).convFail = false) → (∀ d p, (s.fport d p).due = false) → s.inPhase 3 = false → s.band.stopDue = none →
      (∀ j ∈ s.jobs, j.state ≠ 3) → s.err.haltQ = [] → s.band.statusQ = none → s.boot.remapLate = [] →
      t.regs = s.regs ∧ t.mem = s.mem ∧ t.err = s.err ∧ t.jobs = s.jobs ∧ t.panels = s.panels ∧ t.load = s.load ∧ t.boot = s.boot ∧ t.flash = s.flash ∧ t.band = s.band ∧ t.out = s.out ∧
      t.dies = s.dies ∧ t.fports = s.fports ∧ t.hports = s.hports ∧ t.cells = [] ∧ t.wrote = [] ∧ t.w1cSet = [] ∧ t.leftRun = [])

/-- R75, R396, R423 and the registers' Reset columns: right after reset the registers read their reset values, no cell is primed, no job is held, the RSEQ is not 0 and the contents are canonical. -/
def Obligations.ResetLeavesTheTablesValues : Prop :=
  (∀ k, State.reset.reg k = regReset .dz8200 k) ∧ State.reset.canon ∧ State.reset.fld (ecKey BOOT_STAT) 0 5 = 1 ∧ State.reset.canvasValid = false ∧
  (∀ d, d < 8 → State.reset.thCap d = 95 ∧ State.reset.thStop d = 110) ∧
  (∀ r, r < 512 → State.reset.temp r = 0 ∧ State.reset.fld (regionKey TEMP_R r) 16 5 = 16 ∧ (State.reset.region r).st = 0) ∧
  (∀ c, c < 18432 → State.reset.primed c = false ∧ ∀ k, (State.reset.core c k).st = 0) ∧
  (∀ a, State.reset.byte a = 0) ∧ State.reset.jobs = [] ∧ State.reset.pending = [] ∧ State.reset.err.recQ = [] ∧ State.reset.flash.rseq = 1 ∧ State.reset.ready = false

/-- Every command answers a next state, and changes at most the kinds of state its operation can reach (`touches`); the part, the clock and the queue of waiting commands stay, and the contents stay canonical. -/
def Obligations.EveryCommandStaysWithinItsReach : Prop :=
  ∀ (c : Instr) (s : State), ∃ t, exec c s = .next t ∧ s.within (touches c) t

/-- Every step from a state with canonical memory and registers, whether a command waits or not, leaves them canonical. -/
def Obligations.EveryStepKeepsContentsCanonical : Prop :=
  ∀ s t : State, s.canon → step s = .next t → t.canon

/-- R423: the RSEQ that the next record takes is never 0 and fits 32 bits, whatever command or idle step comes. -/
def Obligations.RseqIsNeverZero : Prop :=
  ∀ s t : State, 1 ≤ s.flash.rseq → s.flash.rseq ≤ 0xFFFFFFFF → step s = .next t → 1 ≤ t.flash.rseq ∧ t.flash.rseq ≤ 0xFFFFFFFF
end

