-- ==== Sys2Proof/Laws/Maps.lean ====
section
/-! SUPPORT. Sparse maps: a read after a write, and the canonical form under every map operation. -/

namespace Sys2Proof.Laws

set_option Elab.async false
set_option linter.all false

open Sys2Proof.Machine

variable {α : Type}

@[simp] theorem get_put_same (m : SMap α) (k : Nat) (v d : α) : SMap.get (SMap.put m k v) k d = v := by
  induction m with
  | nil => simp [SMap.put, SMap.get]
  | cons p t ih =>
    obtain ⟨j, u⟩ := p
    unfold SMap.put
    split
    · simp [SMap.get]
    · split
      · simp [SMap.get]
      · rename_i h; simp [SMap.get, ih, Ne.symm h]

theorem get_put_other (m : SMap α) {k i : Nat} (v d : α) (h : i ≠ k) : SMap.get (SMap.put m k v) i d = SMap.get m i d := by
  induction m with
  | nil => simp [SMap.put, SMap.get, Ne.symm h]
  | cons p t ih =>
    obtain ⟨j, u⟩ := p
    unfold SMap.put
    split
    · simp [SMap.get, Ne.symm h]
    · split
      · rename_i e; subst e; simp [SMap.get, Ne.symm h]
      · simp only [SMap.get, ih]

@[simp] theorem get_del_same (m : SMap α) (k : Nat) (d : α) : SMap.get (SMap.del m k) k d = d := by
  induction m with
  | nil => rfl
  | cons p t ih =>
    obtain ⟨j, u⟩ := p
    unfold SMap.del
    split
    · exact ih
    · rename_i h; simp [SMap.get, ih, h]

theorem get_del_other (m : SMap α) {k i : Nat} (d : α) (h : i ≠ k) : SMap.get (SMap.del m k) i d = SMap.get m i d := by
  induction m with
  | nil => rfl
  | cons p t ih =>
    obtain ⟨j, u⟩ := p
    unfold SMap.del
    split
    · rename_i e; subst e; simp [SMap.get, ih, Ne.symm h]
    · simp only [SMap.get, ih]

@[simp] theorem get_set_same [DecidableEq α] (m : SMap α) (k : Nat) (v d : α) : SMap.get (SMap.set m k v d) k d = v := by
  unfold SMap.set; split
  · rename_i h; simp [h]
  · simp

theorem get_set_other [DecidableEq α] (m : SMap α) {k i : Nat} (v d e : α) (h : i ≠ k) :
    SMap.get (SMap.set m k v d) i e = SMap.get m i e := by
  unfold SMap.set; split
  · exact get_del_other m e h
  · exact get_put_other m v e h

/-! ### The canonical form -/

/-- A lower bound that lies below every key also lies below those of a list with fewer keys. -/
theorem rising_mono {m : SMap α} {a b : Nat} (h : a ≤ b) (hm : SMap.risingFrom (some b) m = true) :
    SMap.risingFrom (some a) m = true := by
  cases m with
  | nil => rfl
  | cons p t =>
    simp only [SMap.risingFrom, Bool.and_eq_true, decide_eq_true_eq] at hm ⊢
    exact ⟨by omega, hm.2⟩

theorem rising_none {m : SMap α} {a : Nat} (hm : SMap.risingFrom (some a) m = true) : SMap.risingFrom none m = true := by
  cases m with
  | nil => rfl
  | cons p t => simp only [SMap.risingFrom, Bool.and_eq_true] at hm ⊢; exact ⟨trivial, hm.2⟩

theorem rising_tail {lo : Option Nat} {p : Nat × α} {t : SMap α} (h : SMap.risingFrom lo (p :: t) = true) :
    SMap.risingFrom lo t = true := by
  simp only [SMap.risingFrom, Bool.and_eq_true] at h
  cases lo with
  | none => exact rising_none h.2
  | some l => exact rising_mono (by have := h.1; simp only [decide_eq_true_eq] at this; omega) h.2

theorem rising_filter (f : Nat × α → Bool) (m : SMap α) : ∀ {lo : Option Nat}, SMap.risingFrom lo m = true →
    SMap.risingFrom lo (m.filter f) = true := by
  induction m with
  | nil => exact fun h => h
  | cons p t ih =>
    intro lo h
    by_cases hp : f p = true
    · simp only [List.filter_cons, hp, if_true]
      simp only [SMap.risingFrom, Bool.and_eq_true] at h ⊢
      exact ⟨h.1, ih h.2⟩
    · simp only [List.filter_cons, hp]
      exact ih (rising_tail h)

theorem rising_del (m : SMap α) (k : Nat) : ∀ {lo : Option Nat}, SMap.risingFrom lo m = true →
    SMap.risingFrom lo (SMap.del m k) = true := by
  induction m with
  | nil => exact fun h => h
  | cons p t ih =>
    intro lo h
    obtain ⟨j, u⟩ := p
    unfold SMap.del
    split
    · exact ih (rising_tail h)
    · simp only [SMap.risingFrom, Bool.and_eq_true] at h ⊢
      exact ⟨h.1, ih h.2⟩

theorem rising_put (m : SMap α) (k : Nat) (v : α) : ∀ {lo : Option Nat}, (∀ l, lo = some l → l < k) →
    SMap.risingFrom lo m = true → SMap.risingFrom lo (SMap.put m k v) = true := by
  induction m with
  | nil => intro lo hl _; cases lo with
    | none => rfl
    | some l => simp [SMap.put, SMap.risingFrom, hl l rfl]
  | cons p t ih =>
    intro lo hl h
    obtain ⟨j, u⟩ := p
    simp only [SMap.risingFrom, Bool.and_eq_true] at h
    unfold SMap.put
    split
    · rename_i hk
      simp only [SMap.risingFrom, Bool.and_eq_true, decide_eq_true_eq]
      refine ⟨?_, hk, h.2⟩
      cases lo with
      | none => rfl
      | some l => simp [hl l rfl]
    · split
      · rename_i e; subst e
        simp only [SMap.risingFrom, Bool.and_eq_true]
        exact h
      · simp only [SMap.risingFrom, Bool.and_eq_true]
        exact ⟨h.1, ih (fun l e => by cases e; omega) h.2⟩

theorem mem_put {m : SMap α} {k : Nat} {v : α} {p : Nat × α} (h : p ∈ SMap.put m k v) : p = (k, v) ∨ p ∈ m := by
  induction m with
  | nil => simpa [SMap.put] using h
  | cons q t ih =>
    obtain ⟨j, u⟩ := q
    unfold SMap.put at h
    split at h
    · simpa using h
    · split at h
      · rcases List.mem_cons.1 h with e | e
        · exact .inl e
        · exact .inr (List.mem_cons_of_mem _ e)
      · rcases List.mem_cons.1 h with e | e
        · exact .inr (by simp [e])
        · rcases ih e with e | e
          · exact .inl e
          · exact .inr (List.mem_cons_of_mem _ e)

theorem mem_del {m : SMap α} {k : Nat} {p : Nat × α} (h : p ∈ SMap.del m k) : p ∈ m := by
  induction m with
  | nil => exact h
  | cons q t ih =>
    obtain ⟨j, u⟩ := q
    unfold SMap.del at h
    split at h
    · exact List.mem_cons_of_mem _ (ih h)
    · rcases List.mem_cons.1 h with e | e
      · simp [e]
      · exact List.mem_cons_of_mem _ (ih e)

/-- Storing a value keeps keys rising. -/
theorem rising_set [DecidableEq α] (m : SMap α) (k : Nat) (v d : α) (h : SMap.risingFrom none m = true) :
    SMap.risingFrom none (SMap.set m k v d) = true := by
  unfold SMap.set; split
  · exact rising_del m k h
  · exact rising_put m k v (fun _ e => by cases e) h

/-- An entry of a map after a store is an old one, or the stored one at a value other than the default. -/
theorem mem_set [DecidableEq α] {m : SMap α} {k : Nat} {v d : α} {p : Nat × α} (h : p ∈ SMap.set m k v d) :
    (p = (k, v) ∧ v ≠ d) ∨ p ∈ m := by
  unfold SMap.set at h; split at h
  · exact .inr (mem_del h)
  · rename_i e
    rcases mem_put h with e' | e'
    · exact .inl ⟨e', e⟩
    · exact .inr e'

/-- Storing a byte keeps memory's canonical form. -/
theorem memory_wf_set (m : SMap Byte) (k : Nat) (b : Byte) (h : Memory.wf m = true) : Memory.wf (SMap.set m k b 0) = true := by
  simp only [Memory.wf, Bool.and_eq_true, List.all_eq_true] at h ⊢
  refine ⟨rising_set m k b 0 h.1, fun p hp => ?_⟩
  rcases mem_set hp with ⟨e, hb⟩ | hp
  · subst e; simpa using hb
  · exact h.2 p hp

/-- Dropping entries keeps memory's canonical form. -/
theorem memory_wf_filter (m : SMap Byte) (f : Nat × Byte → Bool) (h : Memory.wf m = true) : Memory.wf (m.filter f) = true := by
  simp only [Memory.wf, Bool.and_eq_true, List.all_eq_true] at h ⊢
  exact ⟨rising_filter f m h.1, fun p hp => h.2 p (List.mem_filter.1 hp).1⟩

end Sys2Proof.Laws
end

