-- ==== Sys2Proof/Laws/Within.lean ====
section
/-! SUPPORT. What every operation of the machine leaves as it is (`State.within`): how the relation passes through record updates,
pairs, folds and the stores that change memory or a register. -/

namespace Sys2Proof.Laws

set_option Elab.async false
set_option linter.all false

open Sys2Proof Sys2Proof.Machine

variable {w : List Comp}

/-- Dropping entries keeps the register file's canonical form. -/
theorem regs_wf_filter (p : Part) (m : SMap DWord) (f : Nat × DWord → Bool) (h : Regs.wf p m = true) :
    Regs.wf p (m.filter f) = true := by
  simp only [Regs.wf, Bool.and_eq_true, List.all_eq_true] at h ⊢
  exact ⟨rising_filter f m h.1, fun e he => h.2 e (List.mem_filter.1 he).1⟩

/-- Storing a register keeps the canonical form. -/
theorem regs_wf_set (p : Part) (m : SMap DWord) (k : Nat) (v : DWord) (h : Regs.wf p m = true) :
    Regs.wf p (SMap.set m k v (regReset p k)) = true := by
  simp only [Regs.wf, Bool.and_eq_true, List.all_eq_true] at h ⊢
  refine ⟨rising_set m k v _ h.1, fun e he => ?_⟩
  rcases mem_set he with ⟨e', hv⟩ | he
  · subst e'; simpa using hv
  · exact h.2 e he

theorem within_refl (s : State) : s.within w s := ⟨rfl, rfl, rfl, id, fun k _ => by cases k <;> rfl⟩

theorem sameAt_trans {s t u : State} {k : Comp} (h : s.sameAt t k) (g : t.sameAt u k) : s.sameAt u k := by
  cases k <;> exact Eq.trans g h

theorem within_trans {s t u : State} (h : s.within w t) (k : t.within w u) : s.within w u :=
  ⟨k.1.trans h.1, k.2.1.trans h.2.1, k.2.2.1.trans h.2.2.1, fun c => k.2.2.2.1 (h.2.2.2.1 c),
    fun c hc => sameAt_trans (h.2.2.2.2 c hc) (k.2.2.2.2 c hc)⟩

/-- More may change where less may. -/
theorem within_mono {v : List Comp} {s t : State} (h : s.within v t) (i : v ⊆ w) : s.within w t :=
  ⟨h.1, h.2.1, h.2.2.1, h.2.2.2.1, fun c hc => h.2.2.2.2 c fun hv => hc (i hv)⟩

theorem sub_of {a b : List Comp} (h : b ⊆ w) (e : (a.all fun k => b.contains k) = true) : a ⊆ w := fun k hk =>
  h (by simpa using List.all_eq_true.1 e k hk)

/-- An update of fields other than memory and registers. -/
theorem within_mk {s0 s : State} {wrote : SMap DWord} {w1cSet : List (Nat × Nat)} {cells : SMap Cell} {regions : SMap
    Region} {dies : SMap Die} {mcs : SMap Mc} {pend13 : List (Req × Nat × Pend)} {resp : List (Req × Resp)} {net :
    List Pkt} {panels : List Panel} {jobs : List Job} {leftRun : List Nat} {load : Option LoadSt} {ctxs : SMap Ctx}
    {tags : SMap Tag} {fabQ : List (Nat × FabCmd)} {fabWait : List (Nat × FabCmd)} {fports : SMap FPort} {rings : SMap
    Ring} {hports : SMap HPort} {outReads : List OutRead} {nextId : Nat} {band : Band} {time : Time} {boot : Boot}
    {flash : Flash} {err : Err} {tap : List TapInstr} {out : List Out} {fates : List Fate} {free : Nat} (h0 : wrote =
    s.wrote ∨ Comp.wrote ∈ w) (h1 : w1cSet = s.w1cSet ∨ Comp.w1cSet ∈ w) (h2 : cells = s.cells ∨ Comp.cells ∈ w) (h3 :
    regions = s.regions ∨ Comp.regions ∈ w) (h4 : dies = s.dies ∨ Comp.dies ∈ w) (h5 : mcs = s.mcs ∨ Comp.mcs ∈ w) (h6
    : pend13 = s.pend13 ∨ Comp.pend13 ∈ w) (h7 : resp = s.resp ∨ Comp.resp ∈ w) (h8 : net = s.net ∨ Comp.net ∈ w) (h9
    : panels = s.panels ∨ Comp.panels ∈ w) (h10 : jobs = s.jobs ∨ Comp.jobs ∈ w) (h11 : leftRun = s.leftRun ∨
    Comp.leftRun ∈ w) (h12 : load = s.load ∨ Comp.load ∈ w) (h13 : ctxs = s.ctxs ∨ Comp.ctxs ∈ w) (h14 : tags = s.tags
    ∨ Comp.tags ∈ w) (h15 : fabQ = s.fabQ ∨ Comp.fabQ ∈ w) (h16 : fabWait = s.fabWait ∨ Comp.fabWait ∈ w) (h17 :
    fports = s.fports ∨ Comp.fports ∈ w) (h18 : rings = s.rings ∨ Comp.rings ∈ w) (h19 : hports = s.hports ∨
    Comp.hports ∈ w) (h20 : outReads = s.outReads ∨ Comp.outReads ∈ w) (h21 : nextId = s.nextId ∨ Comp.nextId ∈ w)
    (h22 : band = s.band ∨ Comp.band ∈ w) (h23 : time = s.time ∨ Comp.time ∈ w) (h24 : boot = s.boot ∨ Comp.boot ∈ w)
    (h25 : flash = s.flash ∨ Comp.flash ∈ w) (h26 : err = s.err ∨ Comp.err ∈ w) (h27 : tap = s.tap ∨ Comp.tap ∈ w)
    (h28 : out = s.out ∨ Comp.out ∈ w) (h29 : fates = s.fates ∨ Comp.fates ∈ w) (h30 : free = s.free ∨ Comp.free ∈ w)
    (h : s0.within w s) :
    s0.within w (State.mk s.part s.slot s.regs wrote w1cSet s.mem cells regions dies mcs pend13 resp net panels jobs
    leftRun load ctxs tags fabQ fabWait fports rings hports outReads nextId band time boot flash err tap out fates
    free s.pending) := by
  refine ⟨h.1, h.2.1, h.2.2.1, h.2.2.2.1, fun i hi => ?_⟩
  cases i with
  | regs => exact h.2.2.2.2 _ hi
  | wrote => exact (h0.resolve_right hi).trans (h.2.2.2.2 .wrote hi)
  | w1cSet => exact (h1.resolve_right hi).trans (h.2.2.2.2 .w1cSet hi)
  | mem => exact h.2.2.2.2 _ hi
  | cells => exact (h2.resolve_right hi).trans (h.2.2.2.2 .cells hi)
  | regions => exact (h3.resolve_right hi).trans (h.2.2.2.2 .regions hi)
  | dies => exact (h4.resolve_right hi).trans (h.2.2.2.2 .dies hi)
  | mcs => exact (h5.resolve_right hi).trans (h.2.2.2.2 .mcs hi)
  | pend13 => exact (h6.resolve_right hi).trans (h.2.2.2.2 .pend13 hi)
  | resp => exact (h7.resolve_right hi).trans (h.2.2.2.2 .resp hi)
  | net => exact (h8.resolve_right hi).trans (h.2.2.2.2 .net hi)
  | panels => exact (h9.resolve_right hi).trans (h.2.2.2.2 .panels hi)
  | jobs => exact (h10.resolve_right hi).trans (h.2.2.2.2 .jobs hi)
  | leftRun => exact (h11.resolve_right hi).trans (h.2.2.2.2 .leftRun hi)
  | load => exact (h12.resolve_right hi).trans (h.2.2.2.2 .load hi)
  | ctxs => exact (h13.resolve_right hi).trans (h.2.2.2.2 .ctxs hi)
  | tags => exact (h14.resolve_right hi).trans (h.2.2.2.2 .tags hi)
  | fabQ => exact (h15.resolve_right hi).trans (h.2.2.2.2 .fabQ hi)
  | fabWait => exact (h16.resolve_right hi).trans (h.2.2.2.2 .fabWait hi)
  | fports => exact (h17.resolve_right hi).trans (h.2.2.2.2 .fports hi)
  | rings => exact (h18.resolve_right hi).trans (h.2.2.2.2 .rings hi)
  | hports => exact (h19.resolve_right hi).trans (h.2.2.2.2 .hports hi)
  | outReads => exact (h20.resolve_right hi).trans (h.2.2.2.2 .outReads hi)
  | nextId => exact (h21.resolve_right hi).trans (h.2.2.2.2 .nextId hi)
  | band => exact (h22.resolve_right hi).trans (h.2.2.2.2 .band hi)
  | time => exact (h23.resolve_right hi).trans (h.2.2.2.2 .time hi)
  | boot => exact (h24.resolve_right hi).trans (h.2.2.2.2 .boot hi)
  | flash => exact (h25.resolve_right hi).trans (h.2.2.2.2 .flash hi)
  | err => exact (h26.resolve_right hi).trans (h.2.2.2.2 .err hi)
  | tap => exact (h27.resolve_right hi).trans (h.2.2.2.2 .tap hi)
  | out => exact (h28.resolve_right hi).trans (h.2.2.2.2 .out hi)
  | fates => exact (h29.resolve_right hi).trans (h.2.2.2.2 .fates hi)
  | free => exact (h30.resolve_right hi).trans (h.2.2.2.2 .free hi)

/-- An update that drops memory bytes. -/
theorem within_mk_mem {s0 s : State} {g : Nat × Byte → Bool} {wrote : SMap DWord} {w1cSet : List (Nat × Nat)} {cells :
    SMap Cell} {regions : SMap Region} {dies : SMap Die} {mcs : SMap Mc} {pend13 : List (Req × Nat × Pend)} {resp :
    List (Req × Resp)} {net : List Pkt} {panels : List Panel} {jobs : List Job} {leftRun : List Nat} {load : Option
    LoadSt} {ctxs : SMap Ctx} {tags : SMap Tag} {fabQ : List (Nat × FabCmd)} {fabWait : List (Nat × FabCmd)} {fports :
    SMap FPort} {rings : SMap Ring} {hports : SMap HPort} {outReads : List OutRead} {nextId : Nat} {band : Band} {time
    : Time} {boot : Boot} {flash : Flash} {err : Err} {tap : List TapInstr} {out : List Out} {fates : List Fate} {free
    : Nat} (hm : Comp.mem ∈ w) (h0 : wrote = s.wrote ∨ Comp.wrote ∈ w) (h1 : w1cSet = s.w1cSet ∨ Comp.w1cSet ∈ w) (h2
    : cells = s.cells ∨ Comp.cells ∈ w) (h3 : regions = s.regions ∨ Comp.regions ∈ w) (h4 : dies = s.dies ∨ Comp.dies
    ∈ w) (h5 : mcs = s.mcs ∨ Comp.mcs ∈ w) (h6 : pend13 = s.pend13 ∨ Comp.pend13 ∈ w) (h7 : resp = s.resp ∨ Comp.resp
    ∈ w) (h8 : net = s.net ∨ Comp.net ∈ w) (h9 : panels = s.panels ∨ Comp.panels ∈ w) (h10 : jobs = s.jobs ∨ Comp.jobs
    ∈ w) (h11 : leftRun = s.leftRun ∨ Comp.leftRun ∈ w) (h12 : load = s.load ∨ Comp.load ∈ w) (h13 : ctxs = s.ctxs ∨
    Comp.ctxs ∈ w) (h14 : tags = s.tags ∨ Comp.tags ∈ w) (h15 : fabQ = s.fabQ ∨ Comp.fabQ ∈ w) (h16 : fabWait =
    s.fabWait ∨ Comp.fabWait ∈ w) (h17 : fports = s.fports ∨ Comp.fports ∈ w) (h18 : rings = s.rings ∨ Comp.rings ∈ w)
    (h19 : hports = s.hports ∨ Comp.hports ∈ w) (h20 : outReads = s.outReads ∨ Comp.outReads ∈ w) (h21 : nextId =
    s.nextId ∨ Comp.nextId ∈ w) (h22 : band = s.band ∨ Comp.band ∈ w) (h23 : time = s.time ∨ Comp.time ∈ w) (h24 :
    boot = s.boot ∨ Comp.boot ∈ w) (h25 : flash = s.flash ∨ Comp.flash ∈ w) (h26 : err = s.err ∨ Comp.err ∈ w) (h27 :
    tap = s.tap ∨ Comp.tap ∈ w) (h28 : out = s.out ∨ Comp.out ∈ w) (h29 : fates = s.fates ∨ Comp.fates ∈ w) (h30 :
    free = s.free ∨ Comp.free ∈ w) (h : s0.within w s) :
    s0.within w (State.mk s.part s.slot s.regs wrote w1cSet (s.mem.filter g) cells regions dies mcs pend13 resp net
    panels jobs leftRun load ctxs tags fabQ fabWait fports rings hports outReads nextId band time boot flash err tap
    out fates free s.pending) := by
  refine ⟨h.1, h.2.1, h.2.2.1, fun c => ⟨memory_wf_filter _ g (h.2.2.2.1 c).1, (h.2.2.2.1 c).2⟩, fun i hi => ?_⟩
  cases i with
  | regs => exact h.2.2.2.2 _ hi
  | wrote => exact (h0.resolve_right hi).trans (h.2.2.2.2 .wrote hi)
  | w1cSet => exact (h1.resolve_right hi).trans (h.2.2.2.2 .w1cSet hi)
  | mem => exact absurd hm hi
  | cells => exact (h2.resolve_right hi).trans (h.2.2.2.2 .cells hi)
  | regions => exact (h3.resolve_right hi).trans (h.2.2.2.2 .regions hi)
  | dies => exact (h4.resolve_right hi).trans (h.2.2.2.2 .dies hi)
  | mcs => exact (h5.resolve_right hi).trans (h.2.2.2.2 .mcs hi)
  | pend13 => exact (h6.resolve_right hi).trans (h.2.2.2.2 .pend13 hi)
  | resp => exact (h7.resolve_right hi).trans (h.2.2.2.2 .resp hi)
  | net => exact (h8.resolve_right hi).trans (h.2.2.2.2 .net hi)
  | panels => exact (h9.resolve_right hi).trans (h.2.2.2.2 .panels hi)
  | jobs => exact (h10.resolve_right hi).trans (h.2.2.2.2 .jobs hi)
  | leftRun => exact (h11.resolve_right hi).trans (h.2.2.2.2 .leftRun hi)
  | load => exact (h12.resolve_right hi).trans (h.2.2.2.2 .load hi)
  | ctxs => exact (h13.resolve_right hi).trans (h.2.2.2.2 .ctxs hi)
  | tags => exact (h14.resolve_right hi).trans (h.2.2.2.2 .tags hi)
  | fabQ => exact (h15.resolve_right hi).trans (h.2.2.2.2 .fabQ hi)
  | fabWait => exact (h16.resolve_right hi).trans (h.2.2.2.2 .fabWait hi)
  | fports => exact (h17.resolve_right hi).trans (h.2.2.2.2 .fports hi)
  | rings => exact (h18.resolve_right hi).trans (h.2.2.2.2 .rings hi)
  | hports => exact (h19.resolve_right hi).trans (h.2.2.2.2 .hports hi)
  | outReads => exact (h20.resolve_right hi).trans (h.2.2.2.2 .outReads hi)
  | nextId => exact (h21.resolve_right hi).trans (h.2.2.2.2 .nextId hi)
  | band => exact (h22.resolve_right hi).trans (h.2.2.2.2 .band hi)
  | time => exact (h23.resolve_right hi).trans (h.2.2.2.2 .time hi)
  | boot => exact (h24.resolve_right hi).trans (h.2.2.2.2 .boot hi)
  | flash => exact (h25.resolve_right hi).trans (h.2.2.2.2 .flash hi)
  | err => exact (h26.resolve_right hi).trans (h.2.2.2.2 .err hi)
  | tap => exact (h27.resolve_right hi).trans (h.2.2.2.2 .tap hi)
  | out => exact (h28.resolve_right hi).trans (h.2.2.2.2 .out hi)
  | fates => exact (h29.resolve_right hi).trans (h.2.2.2.2 .fates hi)
  | free => exact (h30.resolve_right hi).trans (h.2.2.2.2 .free hi)

/-- An update that returns registers to their reset values. -/
theorem within_mk_regs {s0 s : State} {g : Nat × DWord → Bool} {wrote : SMap DWord} {w1cSet : List (Nat × Nat)} {cells
    : SMap Cell} {regions : SMap Region} {dies : SMap Die} {mcs : SMap Mc} {pend13 : List (Req × Nat × Pend)} {resp :
    List (Req × Resp)} {net : List Pkt} {panels : List Panel} {jobs : List Job} {leftRun : List Nat} {load : Option
    LoadSt} {ctxs : SMap Ctx} {tags : SMap Tag} {fabQ : List (Nat × FabCmd)} {fabWait : List (Nat × FabCmd)} {fports :
    SMap FPort} {rings : SMap Ring} {hports : SMap HPort} {outReads : List OutRead} {nextId : Nat} {band : Band} {time
    : Time} {boot : Boot} {flash : Flash} {err : Err} {tap : List TapInstr} {out : List Out} {fates : List Fate} {free
    : Nat} (hr : Comp.regs ∈ w) (h0 : wrote = s.wrote ∨ Comp.wrote ∈ w) (h1 : w1cSet = s.w1cSet ∨ Comp.w1cSet ∈ w) (h2
    : cells = s.cells ∨ Comp.cells ∈ w) (h3 : regions = s.regions ∨ Comp.regions ∈ w) (h4 : dies = s.dies ∨ Comp.dies
    ∈ w) (h5 : mcs = s.mcs ∨ Comp.mcs ∈ w) (h6 : pend13 = s.pend13 ∨ Comp.pend13 ∈ w) (h7 : resp = s.resp ∨ Comp.resp
    ∈ w) (h8 : net = s.net ∨ Comp.net ∈ w) (h9 : panels = s.panels ∨ Comp.panels ∈ w) (h10 : jobs = s.jobs ∨ Comp.jobs
    ∈ w) (h11 : leftRun = s.leftRun ∨ Comp.leftRun ∈ w) (h12 : load = s.load ∨ Comp.load ∈ w) (h13 : ctxs = s.ctxs ∨
    Comp.ctxs ∈ w) (h14 : tags = s.tags ∨ Comp.tags ∈ w) (h15 : fabQ = s.fabQ ∨ Comp.fabQ ∈ w) (h16 : fabWait =
    s.fabWait ∨ Comp.fabWait ∈ w) (h17 : fports = s.fports ∨ Comp.fports ∈ w) (h18 : rings = s.rings ∨ Comp.rings ∈ w)
    (h19 : hports = s.hports ∨ Comp.hports ∈ w) (h20 : outReads = s.outReads ∨ Comp.outReads ∈ w) (h21 : nextId =
    s.nextId ∨ Comp.nextId ∈ w) (h22 : band = s.band ∨ Comp.band ∈ w) (h23 : time = s.time ∨ Comp.time ∈ w) (h24 :
    boot = s.boot ∨ Comp.boot ∈ w) (h25 : flash = s.flash ∨ Comp.flash ∈ w) (h26 : err = s.err ∨ Comp.err ∈ w) (h27 :
    tap = s.tap ∨ Comp.tap ∈ w) (h28 : out = s.out ∨ Comp.out ∈ w) (h29 : fates = s.fates ∨ Comp.fates ∈ w) (h30 :
    free = s.free ∨ Comp.free ∈ w) (h : s0.within w s) :
    s0.within w (State.mk s.part s.slot (s.regs.filter g) wrote w1cSet s.mem cells regions dies mcs pend13 resp net
    panels jobs leftRun load ctxs tags fabQ fabWait fports rings hports outReads nextId band time boot flash err tap
    out fates free s.pending) := by
  refine ⟨h.1, h.2.1, h.2.2.1, fun c => ⟨(h.2.2.2.1 c).1, regs_wf_filter _ _ g (h.2.2.2.1 c).2⟩, fun i hi => ?_⟩
  cases i with
  | regs => exact absurd hr hi
  | wrote => exact (h0.resolve_right hi).trans (h.2.2.2.2 .wrote hi)
  | w1cSet => exact (h1.resolve_right hi).trans (h.2.2.2.2 .w1cSet hi)
  | mem => exact h.2.2.2.2 _ hi
  | cells => exact (h2.resolve_right hi).trans (h.2.2.2.2 .cells hi)
  | regions => exact (h3.resolve_right hi).trans (h.2.2.2.2 .regions hi)
  | dies => exact (h4.resolve_right hi).trans (h.2.2.2.2 .dies hi)
  | mcs => exact (h5.resolve_right hi).trans (h.2.2.2.2 .mcs hi)
  | pend13 => exact (h6.resolve_right hi).trans (h.2.2.2.2 .pend13 hi)
  | resp => exact (h7.resolve_right hi).trans (h.2.2.2.2 .resp hi)
  | net => exact (h8.resolve_right hi).trans (h.2.2.2.2 .net hi)
  | panels => exact (h9.resolve_right hi).trans (h.2.2.2.2 .panels hi)
  | jobs => exact (h10.resolve_right hi).trans (h.2.2.2.2 .jobs hi)
  | leftRun => exact (h11.resolve_right hi).trans (h.2.2.2.2 .leftRun hi)
  | load => exact (h12.resolve_right hi).trans (h.2.2.2.2 .load hi)
  | ctxs => exact (h13.resolve_right hi).trans (h.2.2.2.2 .ctxs hi)
  | tags => exact (h14.resolve_right hi).trans (h.2.2.2.2 .tags hi)
  | fabQ => exact (h15.resolve_right hi).trans (h.2.2.2.2 .fabQ hi)
  | fabWait => exact (h16.resolve_right hi).trans (h.2.2.2.2 .fabWait hi)
  | fports => exact (h17.resolve_right hi).trans (h.2.2.2.2 .fports hi)
  | rings => exact (h18.resolve_right hi).trans (h.2.2.2.2 .rings hi)
  | hports => exact (h19.resolve_right hi).trans (h.2.2.2.2 .hports hi)
  | outReads => exact (h20.resolve_right hi).trans (h.2.2.2.2 .outReads hi)
  | nextId => exact (h21.resolve_right hi).trans (h.2.2.2.2 .nextId hi)
  | band => exact (h22.resolve_right hi).trans (h.2.2.2.2 .band hi)
  | time => exact (h23.resolve_right hi).trans (h.2.2.2.2 .time hi)
  | boot => exact (h24.resolve_right hi).trans (h.2.2.2.2 .boot hi)
  | flash => exact (h25.resolve_right hi).trans (h.2.2.2.2 .flash hi)
  | err => exact (h26.resolve_right hi).trans (h.2.2.2.2 .err hi)
  | tap => exact (h27.resolve_right hi).trans (h.2.2.2.2 .tap hi)
  | out => exact (h28.resolve_right hi).trans (h.2.2.2.2 .out hi)
  | fates => exact (h29.resolve_right hi).trans (h.2.2.2.2 .fates hi)
  | free => exact (h30.resolve_right hi).trans (h.2.2.2.2 .free hi)

/-- A store of a register. -/
theorem within_setReg {s0 s : State} {k : Nat} {v : DWord} (hw : [Comp.regs] ⊆ w) (h : s0.within w s) : s0.within w (s.setReg k v) := by
  refine ⟨h.1, h.2.1, h.2.2.1, fun c => ⟨(h.2.2.2.1 c).1, regs_wf_set _ _ k v (h.2.2.2.1 c).2⟩, fun i hi => ?_⟩
  cases i <;> first | exact h.2.2.2.2 _ hi | exact absurd (hw (by decide)) hi

/-- A store of a byte. -/
theorem within_setByte {s0 s : State} {k : Nat} {b : Byte} (hw : [Comp.mem] ⊆ w) (h : s0.within w s) : s0.within w (s.setByte k b) := by
  refine ⟨h.1, h.2.1, h.2.2.1, fun c => ⟨memory_wf_set _ k b (h.2.2.2.1 c).1, (h.2.2.2.1 c).2⟩, fun i hi => ?_⟩
  cases i <;> first | exact h.2.2.2.2 _ hi | exact absurd (hw (by decide)) hi

/-- The state of a pair that an operation answers. -/
theorem within_pair {β : Type} {s0 u : State} {p : State × β} {v : β} (e : p = (u, v)) (h : s0.within w p.1) : s0.within w u := by
  subst e; exact h

/-- A choice between two states, or between two pairs. -/
theorem within_ite {c : Prop} [Decidable c] {s0 a b : State} (ha : s0.within w a) (hb : s0.within w b) :
    s0.within w (if c then a else b) := by split <;> assumption

theorem within_ite_pair {c : Prop} [Decidable c] {β : Type} {s0 : State} {a b : State × β} (ha : s0.within w a.1)
    (hb : s0.within w b.1) : s0.within w (if c then a else b).1 := by split <;> assumption

/-- A fold over states. -/
theorem within_foldl {α : Type} {s0 : State} {f : State → α → State} (l : List α) :
    ∀ {s : State}, (∀ t x, s0.within w t → s0.within w (f t x)) → s0.within w s → s0.within w (l.foldl f s) := by
  induction l with
  | nil => exact fun _ h => h
  | cons x l ih => exact fun hf h => ih hf (hf _ x h)

/-- A fold over pairs of a state and a value. -/
theorem within_foldl_pair {α β : Type} {s0 : State} {f : State × β → α → State × β} (l : List α) :
    ∀ {p : State × β}, (∀ q x, s0.within w q.1 → s0.within w (f q x).1) → s0.within w p.1 → s0.within w (l.foldl f p).1 := by
  induction l with
  | nil => exact fun _ h => h
  | cons x l ih => exact fun hf h => ih hf (hf _ x h)

theorem within_fst {ks : List Comp} {s0 : State} {α β : Type} {r : State × α} {b : β} (h : s0.within ks r.1) : s0.within ks (r.1, b).1 := h

end Sys2Proof.Laws
end

