-- ==== Sys2Proof/Laws/WithinOps.lean ====
section
/-! SUPPORT. What the operations of Machine/Ops.lean may change (`State.within`). -/

set_option Elab.async false
set_option linter.all false

namespace Sys2Proof.Laws

open Sys2Proof Sys2Proof.Machine Sys2Proof.Machine.State

theorem within_setRate {ks : List Comp} {s0 : State} {s : State} {r} (hw : [.err] ⊆ ks) (h : s0.within ks s) :
    s0.within ks (State.setRate s r) := by
  unfold State.setRate
  try dsimp only
  repeat' (first
    | with_reducible assumption
    | with_reducible exact Or.inl rfl
    | exact Or.inr (hw (by decide))
    | exact hw (by decide)
    | with_reducible apply within_mk)

theorem within_raiseSev {ks : List Comp} {s0 : State} {s : State} {sev cls loc detail struck} (hw : [.err] ⊆ ks) (h : s0.within ks s) :
    s0.within ks (State.raiseSev s sev cls loc detail struck) := by
  unfold State.raiseSev
  try dsimp only
  repeat' (first
    | with_reducible assumption
    | with_reducible apply within_setRate (sub_of hw rfl)
    | with_reducible exact Or.inl rfl
    | exact Or.inr (hw (by decide))
    | exact hw (by decide)
    | split
    | with_reducible apply within_mk)

theorem within_raise {ks : List Comp} {s0 : State} {s : State} {cls loc detail struck} (hw : [.err] ⊆ ks) (h : s0.within ks s) :
    s0.within ks (State.raise s cls loc detail struck) := by
  unfold State.raise
  try dsimp only
  repeat' (first
    | with_reducible assumption
    | with_reducible apply within_raiseSev (sub_of hw rfl))

theorem within_setFld {ks : List Comp} {s0 : State} {s : State} {k lo w v} (hw : [.regs] ⊆ ks) (h : s0.within ks s) :
    s0.within ks (State.setFld s k lo w v) := by
  unfold State.setFld
  try dsimp only
  repeat' (first
    | with_reducible assumption
    | with_reducible apply within_setReg (sub_of hw rfl))

theorem within_incSat {ks : List Comp} {s0 : State} {s : State} {k lo w n} (hw : [.regs] ⊆ ks) (h : s0.within ks s) :
    s0.within ks (State.incSat s k lo w n) := by
  unfold State.incSat
  try dsimp only
  repeat' (first
    | with_reducible assumption
    | with_reducible apply within_setFld (sub_of hw rfl))

theorem within_incSatUn {ks : List Comp} {s0 : State} {s : State} {k lo w n} (hw : [.regs] ⊆ ks) (h : s0.within ks s) :
    s0.within ks (State.incSatUn s k lo w n) := by
  unfold State.incSatUn
  try dsimp only
  repeat' (first
    | with_reducible assumption
    | with_reducible apply within_incSat (sub_of hw rfl)
    | with_reducible apply within_foldl
    | with_reducible apply within_foldl_pair
    | with_reducible exact within_refl _
    | with_reducible apply within_ite
    | with_reducible apply within_ite_pair
    | with_reducible exact Or.inl rfl
    | exact Or.inr (hw (by decide))
    | exact hw (by decide)
    | with_reducible refine within_pair (by assumption) ?_
    | (intro _ _ _; try dsimp only)
    | (intro _ _; try dsimp only)
    | split
    | with_reducible apply within_mk)

theorem within_setRegion {ks : List Comp} {s0 : State} {s : State} {r x} (hw : [.regions] ⊆ ks) (h : s0.within ks s) :
    s0.within ks (State.setRegion s r x) := by
  unfold State.setRegion
  try dsimp only
  repeat' (first
    | with_reducible assumption
    | with_reducible exact Or.inl rfl
    | exact Or.inr (hw (by decide))
    | exact hw (by decide)
    | with_reducible apply within_mk)

theorem within_raiseLim {ks : List Comp} {s0 : State} {s : State} {ns cls loc detail} (hw : [.err] ⊆ ks) (h : s0.within ks s) :
    s0.within ks (State.raiseLim s ns cls loc detail) := by
  unfold State.raiseLim
  try dsimp only
  repeat' (first
    | with_reducible assumption
    | with_reducible apply within_setRate (sub_of hw rfl)
    | with_reducible apply within_raise (sub_of hw rfl)
    | with_reducible apply within_ite
    | split)

theorem within_setCtx {ks : List Comp} {s0 : State} {s : State} {q x} (hw : [.ctxs] ⊆ ks) (h : s0.within ks s) :
    s0.within ks (State.setCtx s q x) := by
  unfold State.setCtx
  try dsimp only
  repeat' (first
    | with_reducible assumption
    | with_reducible exact Or.inl rfl
    | exact Or.inr (hw (by decide))
    | exact hw (by decide)
    | with_reducible apply within_mk)

theorem within_setCell {ks : List Comp} {s0 : State} {s : State} {c x} (hw : [.cells] ⊆ ks) (h : s0.within ks s) :
    s0.within ks (State.setCell s c x) := by
  unfold State.setCell
  try dsimp only
  repeat' (first
    | with_reducible assumption
    | with_reducible exact Or.inl rfl
    | exact Or.inr (hw (by decide))
    | exact hw (by decide)
    | with_reducible apply within_mk)

theorem within_setCore {ks : List Comp} {s0 : State} {s : State} {c k x} (hw : [.cells] ⊆ ks) (h : s0.within ks s) :
    s0.within ks (State.setCore s c k x) := by
  unfold State.setCore
  try dsimp only
  repeat' (first
    | with_reducible assumption
    | with_reducible apply within_setCell (sub_of hw rfl)
    | split)

theorem within_answer {ks : List Comp} {s0 : State} {s : State} {req r} (hw : [.resp] ⊆ ks) (h : s0.within ks s) :
    s0.within ks (State.answer s req r) := by
  unfold State.answer
  try dsimp only
  repeat' (first
    | with_reducible assumption
    | with_reducible exact Or.inl rfl
    | exact Or.inr (hw (by decide))
    | exact hw (by decide)
    | with_reducible apply within_mk)

theorem within_act {ks : List Comp} {s0 : State} {s : State} {c i n} (hw : [.regions] ⊆ ks) (h : s0.within ks s) :
    s0.within ks (State.act s c i n) := by
  unfold State.act
  try dsimp only
  repeat' (first
    | with_reducible assumption
    | with_reducible apply within_setRegion (sub_of hw rfl))

theorem within_raiseAt {ks : List Comp} {s0 : State} {s : State} {cls c detail} (hw : [.err] ⊆ ks) (h : s0.within ks s) :
    s0.within ks (State.raiseAt s cls c detail) := by
  unfold State.raiseAt
  try dsimp only
  repeat' (first
    | with_reducible assumption
    | with_reducible apply within_raise (sub_of hw rfl))

theorem within_setW1c {ks : List Comp} {s0 : State} {s : State} {k b} (hw : [.regs, .w1cSet] ⊆ ks) (h : s0.within ks s) :
    s0.within ks (State.setW1c s k b) := by
  unfold State.setW1c
  try dsimp only
  repeat' (first
    | with_reducible assumption
    | with_reducible apply within_setFld (sub_of hw rfl)
    | with_reducible apply within_foldl
    | with_reducible apply within_foldl_pair
    | with_reducible exact within_refl _
    | with_reducible apply within_ite
    | with_reducible apply within_ite_pair
    | with_reducible exact Or.inl rfl
    | exact Or.inr (hw (by decide))
    | exact hw (by decide)
    | with_reducible refine within_pair (by assumption) ?_
    | (intro _ _ _; try dsimp only)
    | (intro _ _; try dsimp only)
    | split
    | with_reducible apply within_mk)

theorem within_setMc {ks : List Comp} {s0 : State} {s : State} {d n x} (hw : [.mcs] ⊆ ks) (h : s0.within ks s) :
    s0.within ks (State.setMc s d n x) := by
  unfold State.setMc
  try dsimp only
  repeat' (first
    | with_reducible assumption
    | with_reducible exact Or.inl rfl
    | exact Or.inr (hw (by decide))
    | exact hw (by decide)
    | with_reducible apply within_mk)

theorem within_setBytes {ks : List Comp} {s0 : State} {s : State} {k a2} (hw : [.mem] ⊆ ks) (h : s0.within ks s) :
    s0.within ks (State.setBytes s k a2) := by
  induction a2 generalizing s k with
  | nil => exact h
  | cons x l ih =>
    unfold State.setBytes
    try dsimp only
    repeat' (first
      | with_reducible assumption
      | with_reducible apply ih
      | with_reducible apply within_setByte (sub_of hw rfl))

theorem within_setDie {ks : List Comp} {s0 : State} {s : State} {d x} (hw : [.dies] ⊆ ks) (h : s0.within ks s) :
    s0.within ks (State.setDie s d x) := by
  unfold State.setDie
  try dsimp only
  repeat' (first
    | with_reducible assumption
    | with_reducible exact Or.inl rfl
    | exact Or.inr (hw (by decide))
    | exact hw (by decide)
    | with_reducible apply within_mk)

theorem within_emit {ks : List Comp} {s0 : State} {s : State} {o} (hw : [.out] ⊆ ks) (h : s0.within ks s) :
    s0.within ks (State.emit s o) := by
  unfold State.emit
  try dsimp only
  repeat' (first
    | with_reducible assumption
    | with_reducible exact Or.inl rfl
    | exact Or.inr (hw (by decide))
    | exact hw (by decide)
    | with_reducible apply within_mk)

theorem within_dropPend {ks : List Comp} {s0 : State} {s : State} {req b} (hw : [.pend13] ⊆ ks) (h : s0.within ks s) :
    s0.within ks (State.dropPend s req b) := by
  unfold State.dropPend
  try dsimp only
  repeat' (first
    | with_reducible assumption
    | with_reducible exact Or.inl rfl
    | exact Or.inr (hw (by decide))
    | exact hw (by decide)
    | with_reducible apply within_mk)

theorem within_setPend {ks : List Comp} {s0 : State} {s : State} {req b x} (hw : [.pend13] ⊆ ks) (h : s0.within ks s) :
    s0.within ks (State.setPend s req b x) := by
  unfold State.setPend
  try dsimp only
  repeat' (first
    | with_reducible assumption
    | with_reducible apply within_dropPend (sub_of hw rfl)
    | with_reducible exact Or.inl rfl
    | exact Or.inr (hw (by decide))
    | exact hw (by decide)
    | with_reducible apply within_mk)

theorem within_hostStore {ks : List Comp} {s0 : State} {s : State} {port a bs ep} (hw : [.mem, .out] ⊆ ks) (h : s0.within ks s) :
    s0.within ks (State.hostStore s port a bs ep) := by
  unfold State.hostStore
  try dsimp only
  repeat' (first
    | with_reducible assumption
    | with_reducible apply within_emit (sub_of hw rfl)
    | with_reducible apply within_setBytes (sub_of hw rfl))

theorem within_setTag {ks : List Comp} {s0 : State} {s : State} {d t x} (hw : [.tags] ⊆ ks) (h : s0.within ks s) :
    s0.within ks (State.setTag s d t x) := by
  unfold State.setTag
  try dsimp only
  repeat' (first
    | with_reducible assumption
    | with_reducible exact Or.inl rfl
    | exact Or.inr (hw (by decide))
    | exact hw (by decide)
    | with_reducible apply within_mk)

theorem within_noteWrite {ks : List Comp} {s0 : State} {s : State} {k} (hw : [.wrote] ⊆ ks) (h : s0.within ks s) :
    s0.within ks (State.noteWrite s k) := by
  unfold State.noteWrite
  try dsimp only
  repeat' (first
    | with_reducible assumption
    | with_reducible apply within_foldl
    | with_reducible apply within_foldl_pair
    | with_reducible exact within_refl _
    | with_reducible apply within_ite
    | with_reducible apply within_ite_pair
    | with_reducible exact Or.inl rfl
    | exact Or.inr (hw (by decide))
    | exact hw (by decide)
    | with_reducible refine within_pair (by assumption) ?_
    | (intro _ _ _; try dsimp only)
    | (intro _ _; try dsimp only)
    | split
    | with_reducible apply within_mk)

theorem within_setMxe {ks : List Comp} {s0 : State} {s : State} {c m} (hw : [.cells] ⊆ ks) (h : s0.within ks s) :
    s0.within ks (State.setMxe s c m) := by
  unfold State.setMxe
  try dsimp only
  repeat' (first
    | with_reducible assumption
    | with_reducible apply within_setCell (sub_of hw rfl))

theorem within_setHport {ks : List Comp} {s0 : State} {s : State} {p x} (hw : [.hports] ⊆ ks) (h : s0.within ks s) :
    s0.within ks (State.setHport s p x) := by
  unfold State.setHport
  try dsimp only
  repeat' (first
    | with_reducible assumption
    | with_reducible exact Or.inl rfl
    | exact Or.inr (hw (by decide))
    | exact hw (by decide)
    | with_reducible apply within_mk)

theorem within_raiseVec {ks : List Comp} {s0 : State} {s : State} {port v} (hw : [.hports, .out] ⊆ ks) (h : s0.within ks s) :
    s0.within ks (State.raiseVec s port v) := by
  unfold State.raiseVec
  try dsimp only
  repeat' (first
    | with_reducible assumption
    | with_reducible apply within_setHport (sub_of hw rfl)
    | with_reducible apply within_emit (sub_of hw rfl)
    | with_reducible apply within_ite)

theorem within_raiseAll {ks : List Comp} {s0 : State} {s : State} {v} (hw : [.hports, .out] ⊆ ks) (h : s0.within ks s) :
    s0.within ks (State.raiseAll s v) := by
  unfold State.raiseAll
  try dsimp only
  repeat' (first
    | with_reducible assumption
    | with_reducible apply within_raiseVec (sub_of hw rfl)
    | with_reducible apply within_foldl
    | (intro _ _ _; try dsimp only)
    | (intro _ _; try dsimp only))

theorem within_incWrap {ks : List Comp} {s0 : State} {s : State} {k lo w n} (hw : [.regs] ⊆ ks) (h : s0.within ks s) :
    s0.within ks (State.incWrap s k lo w n) := by
  unfold State.incWrap
  try dsimp only
  repeat' (first
    | with_reducible assumption
    | with_reducible apply within_setFld (sub_of hw rfl))

theorem within_evqPut {ks : List Comp} {s0 : State} {s : State} {port kind body} (hw : [.regs, .mem, .hports, .out] ⊆ ks) (h : s0.within ks s) :
    s0.within ks (State.evqPut s port kind body) := by
  unfold State.evqPut
  try dsimp only
  repeat' (first
    | with_reducible assumption
    | with_reducible apply within_incWrap (sub_of hw rfl)
    | with_reducible apply within_setHport (sub_of hw rfl)
    | with_reducible apply within_hostStore (sub_of hw rfl))

theorem within_evqLoss {ks : List Comp} {s0 : State} {s : State} {port} (hw : [.regs, .mem, .hports, .out] ⊆ ks) (h : s0.within ks s) :
    s0.within ks (State.evqLoss s port) := by
  unfold State.evqLoss
  try dsimp only
  repeat' (first
    | with_reducible assumption
    | with_reducible apply within_setHport (sub_of hw rfl)
    | with_reducible apply within_evqPut (sub_of hw rfl)
    | with_reducible apply within_ite)

theorem within_evqWrite {ks : List Comp} {s0 : State} {s : State} {port kind body} (hw : [.regs, .mem, .hports, .out] ⊆ ks) (h : s0.within ks s) :
    s0.within ks (State.evqWrite s port kind body) := by
  unfold State.evqWrite
  try dsimp only
  repeat' (first
    | with_reducible assumption
    | with_reducible apply within_evqLoss (sub_of hw rfl)
    | with_reducible apply within_evqPut (sub_of hw rfl)
    | with_reducible apply within_setHport (sub_of hw rfl)
    | with_reducible apply within_incSat (sub_of hw rfl)
    | with_reducible apply within_ite)

theorem within_event {ks : List Comp} {s0 : State} {s : State} {kind body} (hw : [.regs, .mem, .hports, .out] ⊆ ks) (h : s0.within ks s) :
    s0.within ks (State.event s kind body) := by
  unfold State.event
  try dsimp only
  repeat' (first
    | with_reducible assumption
    | with_reducible apply within_evqWrite (sub_of hw rfl)
    | with_reducible apply within_foldl
    | (intro _ _ _; try dsimp only)
    | (intro _ _; try dsimp only))

theorem within_modJob {ks : List Comp} {s0 : State} {s : State} {id f} (hw : [.jobs] ⊆ ks) (h : s0.within ks s) :
    s0.within ks (State.modJob s id f) := by
  unfold State.modJob
  try dsimp only
  repeat' (first
    | with_reducible assumption
    | with_reducible exact Or.inl rfl
    | exact Or.inr (hw (by decide))
    | exact hw (by decide)
    | with_reducible apply within_mk)

theorem within_setJobState {ks : List Comp} {s0 : State} {s : State} {id st} (hw : [.regs, .mem, .jobs, .leftRun, .hports, .out] ⊆ ks) (h : s0.within ks s) :
    s0.within ks (State.setJobState s id st) := by
  unfold State.setJobState
  try dsimp only
  repeat' (first
    | with_reducible assumption
    | with_reducible apply within_raiseAll (sub_of hw rfl)
    | with_reducible apply within_event (sub_of hw rfl)
    | with_reducible apply within_modJob (sub_of hw rfl)
    | with_reducible apply within_foldl
    | with_reducible apply within_foldl_pair
    | with_reducible exact within_refl _
    | with_reducible apply within_ite
    | with_reducible apply within_ite_pair
    | with_reducible exact Or.inl rfl
    | exact Or.inr (hw (by decide))
    | exact hw (by decide)
    | with_reducible refine within_pair (by assumption) ?_
    | (intro _ _ _; try dsimp only)
    | (intro _ _; try dsimp only)
    | split
    | with_reducible apply within_mk)

theorem within_setRing {ks : List Comp} {s0 : State} {s : State} {p n x} (hw : [.rings] ⊆ ks) (h : s0.within ks s) :
    s0.within ks (State.setRing s p n x) := by
  unfold State.setRing
  try dsimp only
  repeat' (first
    | with_reducible assumption
    | with_reducible exact Or.inl rfl
    | exact Or.inr (hw (by decide))
    | exact hw (by decide)
    | with_reducible apply within_mk)

theorem within_setFport {ks : List Comp} {s0 : State} {s : State} {d p x} (hw : [.fports] ⊆ ks) (h : s0.within ks s) :
    s0.within ks (State.setFport s d p x) := by
  unfold State.setFport
  try dsimp only
  repeat' (first
    | with_reducible assumption
    | with_reducible exact Or.inl rfl
    | exact Or.inr (hw (by decide))
    | exact hw (by decide)
    | with_reducible apply within_mk)

theorem within_hwFld {ks : List Comp} {s0 : State} {s : State} {k lo w v} (hw : [.regs] ⊆ ks) (h : s0.within ks s) :
    s0.within ks (State.hwFld s k lo w v) := by
  unfold State.hwFld
  try dsimp only
  repeat' (first
    | with_reducible assumption
    | with_reducible apply within_setFld (sub_of hw rfl)
    | with_reducible apply within_foldl
    | with_reducible apply within_foldl_pair
    | with_reducible exact within_refl _
    | with_reducible apply within_ite
    | with_reducible apply within_ite_pair
    | with_reducible exact Or.inl rfl
    | exact Or.inr (hw (by decide))
    | exact hw (by decide)
    | with_reducible refine within_pair (by assumption) ?_
    | (intro _ _ _; try dsimp only)
    | (intro _ _; try dsimp only)
    | split
    | with_reducible apply within_mk)

theorem within_clearReg {ks : List Comp} {s0 : State} {s : State} {k} (hw : [.regs, .wrote] ⊆ ks) (h : s0.within ks s) :
    s0.within ks (State.clearReg s k) := by
  unfold State.clearReg
  try dsimp only
  repeat' (first
    | with_reducible assumption
    | with_reducible apply within_setReg (sub_of hw rfl)
    | with_reducible apply within_noteWrite (sub_of hw rfl)
    | with_reducible apply within_foldl
    | with_reducible apply within_foldl_pair
    | with_reducible exact within_refl _
    | with_reducible apply within_ite
    | with_reducible apply within_ite_pair
    | with_reducible exact Or.inl rfl
    | exact Or.inr (hw (by decide))
    | exact hw (by decide)
    | with_reducible refine within_pair (by assumption) ?_
    | (intro _ _ _; try dsimp only)
    | (intro _ _; try dsimp only)
    | split
    | with_reducible apply within_mk)

theorem within_fresh {ks : List Comp} {s0 : State} {s : State} (hw : [.free] ⊆ ks) (h : s0.within ks s) :
    s0.within ks (State.fresh s) := by
  unfold State.fresh
  try dsimp only
  repeat' (first
    | with_reducible assumption
    | with_reducible exact Or.inl rfl
    | exact Or.inr (hw (by decide))
    | exact hw (by decide)
    | with_reducible apply within_mk)

theorem within_unmask {ks : List Comp} {s0 : State} {s : State} {p v} (hw : [.hports, .out] ⊆ ks) (h : s0.within ks s) :
    s0.within ks (State.unmask s p v) := by
  unfold State.unmask
  try dsimp only
  repeat' (first
    | with_reducible assumption
    | with_reducible apply within_raiseVec (sub_of hw rfl)
    | with_reducible apply within_setHport (sub_of hw rfl)
    | with_reducible apply within_ite)

theorem within_raiseLimCell {ks : List Comp} {s0 : State} {s : State} {ns cls c uidx detail} (hw : [.err] ⊆ ks) (h : s0.within ks s) :
    s0.within ks (State.raiseLimCell s ns cls c uidx detail) := by
  unfold State.raiseLimCell
  try dsimp only
  repeat' (first
    | with_reducible assumption
    | with_reducible apply within_setRate (sub_of hw rfl)
    | with_reducible apply within_raise (sub_of hw rfl)
    | with_reducible apply within_foldl
    | with_reducible apply within_foldl_pair
    | with_reducible exact within_refl _
    | with_reducible apply within_ite
    | with_reducible apply within_ite_pair
    | with_reducible exact Or.inl rfl
    | exact Or.inr (hw (by decide))
    | exact hw (by decide)
    | with_reducible refine within_pair (by assumption) ?_
    | (intro _ _ _; try dsimp only)
    | (intro _ _; try dsimp only)
    | split
    | with_reducible apply within_mk)

theorem within_evqGap {ks : List Comp} {s0 : State} {s : State} {port} (hw : [.hports, .out] ⊆ ks) (h : s0.within ks s) :
    s0.within ks (State.evqGap s port) := by
  unfold State.evqGap
  try dsimp only
  repeat' (first
    | with_reducible assumption
    | with_reducible apply within_setHport (sub_of hw rfl)
    | with_reducible apply within_raiseVec (sub_of hw rfl)
    | with_reducible apply within_foldl
    | with_reducible apply within_foldl_pair
    | with_reducible exact within_refl _
    | with_reducible apply within_ite
    | with_reducible apply within_ite_pair
    | with_reducible exact Or.inl rfl
    | exact Or.inr (hw (by decide))
    | exact hw (by decide)
    | with_reducible refine within_pair (by assumption) ?_
    | (intro _ _ _; try dsimp only)
    | (intro _ _; try dsimp only)
    | split
    | with_reducible apply within_mk)

end Sys2Proof.Laws
end

