-- ==== Sys2Proof/Laws/WithinSync.lean ====
section
/-! SUPPORT. What the operations of Machine/Sync.lean may change (`State.within`). -/

set_option Elab.async false
set_option linter.all false

namespace Sys2Proof.Laws

open Sys2Proof Sys2Proof.Machine Sys2Proof.Machine.State

theorem within_setSat {ks : List Comp} {s0 : State} {s : State} {c n} (hw : [.regs, .w1cSet] ⊆ ks) (h : s0.within ks s) :
    s0.within ks (State.setSat s c n) := by
  unfold State.setSat
  try dsimp only
  repeat' (first
    | with_reducible assumption
    | with_reducible apply within_setW1c (sub_of hw rfl)
    | with_reducible apply within_ite)

theorem within_addSignals {ks : List Comp} {s0 : State} {s : State} {c n sum} (hw : [.regs, .w1cSet, .err] ⊆ ks) (h : s0.within ks s) :
    s0.within ks (State.addSignals s c n sum) := by
  unfold State.addSignals
  try dsimp only
  repeat' (first
    | with_reducible assumption
    | with_reducible apply within_setFld (sub_of hw rfl)
    | with_reducible apply within_raiseAt (sub_of hw rfl)
    | with_reducible apply within_setSat (sub_of hw rfl)
    | with_reducible apply within_foldl
    | with_reducible apply within_foldl_pair
    | with_reducible exact within_refl _
    | with_reducible apply within_ite
    | with_reducible apply within_ite_pair
    | with_reducible exact Or.inl rfl
    | exact Or.inr (hw (by decide))
    | exact hw (by decide)
    | with_reducible refine within_pair (by assumption) ?_
    | (intro _ _ _; try dsimp only)
    | (intro _ _; try dsimp only)
    | split
    | with_reducible apply within_mk)

theorem within_rtrLast {ks : List Comp} {s0 : State} {s : State} {c cls link tag} (hw : [.regs] ⊆ ks) (h : s0.within ks s) :
    s0.within ks (State.rtrLast s c cls link tag) := by
  unfold State.rtrLast
  try dsimp only
  repeat' (first
    | with_reducible assumption
    | with_reducible apply within_setReg (sub_of hw rfl))

theorem within_armCounter {ks : List Comp} {s0 : State} {s : State} {c n v} (hw : [.regs] ⊆ ks) (h : s0.within ks s) :
    s0.within ks (State.armCounter s c n v) := by
  unfold State.armCounter
  try dsimp only
  repeat' (first
    | with_reducible assumption
    | with_reducible apply within_setReg (sub_of hw rfl))

theorem within_applySignal {ks : List Comp} {s0 : State} {s : State} {c late g} (hw : [.cells] ⊆ ks) (h : s0.within ks s) :
    s0.within ks (State.applySignal s c late g) := by
  unfold State.applySignal
  try dsimp only
  repeat' (first
    | with_reducible assumption
    | with_reducible apply within_setCell (sub_of hw rfl)
    | with_reducible apply within_foldl
    | with_reducible apply within_foldl_pair
    | with_reducible exact within_refl _
    | with_reducible apply within_ite
    | with_reducible apply within_ite_pair
    | with_reducible exact Or.inl rfl
    | exact Or.inr (hw (by decide))
    | exact hw (by decide)
    | with_reducible refine within_pair (by assumption) ?_
    | (intro _ _ _; try dsimp only)
    | (intro _ _; try dsimp only)
    | split
    | with_reducible apply within_mk)

theorem within_routerEcc {ks : List Comp} {s0 : State} {s : State} {c ecc} (hw : [.regs, .err] ⊆ ks) (h : s0.within ks s) :
    s0.within ks (State.routerEcc s c ecc) := by
  unfold State.routerEcc
  try dsimp only
  repeat' (first
    | with_reducible assumption
    | with_reducible apply within_raise (sub_of hw rfl)
    | with_reducible apply within_rtrLast (sub_of hw rfl)
    | with_reducible apply within_ite)

theorem within_staleSignal {ks : List Comp} {s0 : State} {s : State} {c g} (hw : [.regs, .err] ⊆ ks) (h : s0.within ks s) :
    s0.within ks (State.staleSignal s c g) := by
  unfold State.staleSignal
  try dsimp only
  repeat' (first
    | with_reducible assumption
    | with_reducible apply within_raiseLim (sub_of hw rfl)
    | with_reducible apply within_setReg (sub_of hw rfl)
    | with_reducible apply within_incSatUn (sub_of hw rfl)
    | split)

theorem within_judgeCtr {ks : List Comp} {s0 : State} {s : State} {c gs n} (hw : [.regs, .w1cSet, .err] ⊆ ks) (h : s0.within ks s) :
    s0.within ks (State.judgeCtr s c gs n) := by
  unfold State.judgeCtr
  try dsimp only
  repeat' (first
    | with_reducible assumption
    | with_reducible apply within_staleSignal (sub_of hw rfl)
    | with_reducible apply within_addSignals (sub_of hw rfl)
    | with_reducible apply within_foldl
    | with_reducible apply within_foldl_pair
    | with_reducible exact within_refl _
    | with_reducible apply within_ite
    | with_reducible apply within_ite_pair
    | with_reducible exact Or.inl rfl
    | exact Or.inr (hw (by decide))
    | exact hw (by decide)
    | with_reducible refine within_pair (by assumption) ?_
    | (intro _ _ _; try dsimp only)
    | (intro _ _; try dsimp only)
    | split
    | with_reducible apply within_mk)

theorem within_syncCycle {ks : List Comp} {s0 : State} {s : State} {c} (hw : [.regs, .w1cSet, .cells, .err] ⊆ ks) (h : s0.within ks s) :
    s0.within ks (State.syncCycle s c) := by
  unfold State.syncCycle
  try dsimp only
  repeat' (first
    | with_reducible assumption
    | with_reducible apply within_judgeCtr (sub_of hw rfl)
    | with_reducible apply within_setCell (sub_of hw rfl)
    | with_reducible apply within_foldl
    | with_reducible apply within_foldl_pair
    | with_reducible exact within_refl _
    | with_reducible apply within_ite
    | with_reducible apply within_ite_pair
    | with_reducible exact Or.inl rfl
    | exact Or.inr (hw (by decide))
    | exact hw (by decide)
    | with_reducible refine within_pair (by assumption) ?_
    | (intro _ _ _; try dsimp only)
    | (intro _ _; try dsimp only)
    | split
    | with_reducible apply within_mk)

theorem within_execSyncArm {ks : List Comp} (s : State) {c n v ecc} (hw : [.regs, .err] ⊆ ks) :
    ∃ z, execSyncArm c n v ecc s = .next z ∧ s.within ks z := by
  unfold execSyncArm
  exact ⟨_, rfl, by
    repeat' (first
      | with_reducible exact within_refl _
      | with_reducible assumption
      | with_reducible apply within_armCounter (sub_of hw rfl)
      | with_reducible apply within_routerEcc (sub_of hw rfl)
      | with_reducible apply within_foldl
      | with_reducible apply within_foldl_pair
      | with_reducible apply within_ite
      | with_reducible apply within_ite_pair
      | with_reducible exact Or.inl rfl
      | exact Or.inr (hw (by decide))
      | exact hw (by decide)
      | with_reducible refine within_pair (by assumption) ?_
      | (intro _ _ _; try dsimp only)
      | (intro _ _; try dsimp only)
      | split
      | with_reducible apply within_mk)⟩

end Sys2Proof.Laws
end

