-- ==== Sys2Proof/Laws/WithinSpm.lean ====
section
/-! SUPPORT. What the operations of Machine/Spm.lean may change (`State.within`). -/

set_option Elab.async false
set_option linter.all false

namespace Sys2Proof.Laws

open Sys2Proof Sys2Proof.Machine Sys2Proof.Machine.State

/-- A fold over what `LineRead` carries. -/
theorem within_foldl_line {ks : List Comp} {α : Type} {s0 : State} {f : LineRead → α → LineRead} (l : List α) :
    ∀ {p : LineRead}, (∀ q x, s0.within ks q.s → s0.within ks (f q x).s) → s0.within ks p.s → s0.within ks (l.foldl f p).s := by
  induction l with
  | nil => exact fun _ h => h
  | cons x l ih => exact fun hf h => ih hf (hf _ x h)

theorem within_hostRefuse {ks : List Comp} {s0 : State} {s : State} {port ga reason} (hw : [.regs, .err] ⊆ ks) (h : s0.within ks s) :
    s0.within ks (State.hostRefuse s port ga reason) := by
  unfold State.hostRefuse
  try dsimp only
  repeat' (first
    | with_reducible assumption
    | with_reducible apply within_raise (sub_of hw rfl)
    | with_reducible apply within_setReg (sub_of hw rfl))

theorem within_stopCore {ks : List Comp} {s0 : State} {s : State} {c k st} (hw : [.regs, .cells] ⊆ ks) (h : s0.within ks s) :
    s0.within ks (State.stopCore s c k st) := by
  unfold State.stopCore
  try dsimp only
  repeat' (first
    | with_reducible assumption
    | with_reducible apply within_setFld (sub_of hw rfl)
    | with_reducible apply within_setCore (sub_of hw rfl))

theorem within_trapRegs {ks : List Comp} {s0 : State} {s : State} {c k cause pc val} (hw : [.regs] ⊆ ks) (h : s0.within ks s) :
    s0.within ks (State.trapRegs s c k cause pc val) := by
  unfold State.trapRegs
  try dsimp only
  repeat' (first
    | with_reducible assumption
    | with_reducible apply within_setReg (sub_of hw rfl))

theorem within_busStop {ks : List Comp} {s0 : State} {s : State} {c k cause pc val} (hw : [.regs, .cells] ⊆ ks) (h : s0.within ks s) :
    s0.within ks (State.busStop s c k cause pc val) := by
  unfold State.busStop
  try dsimp only
  repeat' (first
    | with_reducible assumption
    | with_reducible apply within_stopCore (sub_of hw rfl)
    | with_reducible apply within_trapRegs (sub_of hw rfl))

theorem within_setErrLast {ks : List Comp} {s0 : State} {s : State} {c off port syn} (hw : [.regs] ⊆ ks) (h : s0.within ks s) :
    s0.within ks (State.setErrLast s c off port syn) := by
  unfold State.setErrLast
  try dsimp only
  repeat' (first
    | with_reducible assumption
    | with_reducible apply within_setReg (sub_of hw rfl))

theorem within_spmRefuse {ks : List Comp} {s0 : State} {s : State} {c off port req cr} (hw : [.regs, .err] ⊆ ks) (h : s0.within ks s) :
    s0.within ks (State.spmRefuse s c off port req cr) := by
  unfold State.spmRefuse
  try dsimp only
  repeat' (first
    | with_reducible assumption
    | with_reducible apply within_hostRefuse (sub_of hw rfl)
    | with_reducible apply within_setErrLast (sub_of hw rfl)
    | with_reducible apply within_raise (sub_of hw rfl)
    | split)

theorem within_setScrub {ks : List Comp} {s0 : State} {s : State} {c b x} (hw : [.cells] ⊆ ks) (h : s0.within ks s) :
    s0.within ks (State.setScrub s c b x) := by
  unfold State.setScrub
  try dsimp only
  repeat' (first
    | with_reducible assumption
    | with_reducible apply within_setCell (sub_of hw rfl))

theorem within_scrubDrop {ks : List Comp} {s0 : State} {s : State} {c off} (hw : [.cells] ⊆ ks) (h : s0.within ks s) :
    s0.within ks (State.scrubDrop s c off) := by
  unfold State.scrubDrop
  try dsimp only
  repeat' (first
    | with_reducible assumption
    | with_reducible apply within_setScrub (sub_of hw rfl)
    | with_reducible apply within_foldl
    | with_reducible apply within_foldl_pair
    | with_reducible apply within_foldl_line
    | with_reducible exact within_refl _
    | with_reducible apply within_ite
    | with_reducible apply within_ite_pair
    | with_reducible exact Or.inl rfl
    | exact Or.inr (hw (by decide))
    | exact hw (by decide)
    | with_reducible refine within_pair (by assumption) ?_
    | (intro _ _ _; try dsimp only)
    | (intro _ _; try dsimp only)
    | split
    | with_reducible apply within_mk)

theorem within_putWord {ks : List Comp} {s0 : State} {s : State} {c off w chk} (hw : [.mem, .cells] ⊆ ks) (h : s0.within ks s) :
    s0.within ks (State.putWord s c off w chk) := by
  unfold State.putWord
  try dsimp only
  repeat' (first
    | with_reducible assumption
    | with_reducible apply within_setByte (sub_of hw rfl)
    | with_reducible apply within_setBytes (sub_of hw rfl)
    | with_reducible apply within_scrubDrop (sub_of hw rfl))

theorem within_writeWord {ks : List Comp} {s0 : State} {s : State} {c off w} (hw : [.mem, .cells] ⊆ ks) (h : s0.within ks s) :
    s0.within ks (State.writeWord s c off w) := by
  unfold State.writeWord
  try dsimp only
  repeat' (first
    | with_reducible assumption
    | with_reducible apply within_putWord (sub_of hw rfl))

theorem within_queueTest {ks : List Comp} {s0 : State} {s : State} {c unit sn word} (hw : [.cells] ⊆ ks) (h : s0.within ks s) :
    s0.within ks (State.queueTest s c unit sn word) := by
  unfold State.queueTest
  try dsimp only
  repeat' (first
    | with_reducible assumption
    | with_reducible apply within_setCell (sub_of hw rfl)
    | with_reducible apply within_ite
    | split)

theorem within_correction {ks : List Comp} {s0 : State} {s : State} {c off port syn} (hw : [.regs, .cells, .err] ⊆ ks) (h : s0.within ks s) :
    s0.within ks (State.correction s c off port syn) := by
  unfold State.correction
  try dsimp only
  repeat' (first
    | with_reducible assumption
    | with_reducible apply within_queueTest (sub_of hw rfl)
    | with_reducible apply within_setCell (sub_of hw rfl)
    | with_reducible apply within_setErrLast (sub_of hw rfl)
    | with_reducible apply within_raiseLim (sub_of hw rfl)
    | with_reducible apply within_incSatUn (sub_of hw rfl)
    | with_reducible apply within_ite)

theorem within_readWord {ks : List Comp} {s0 : State} {s : State} {c off port} (hw : [.regs, .cells, .err] ⊆ ks) (h : s0.within ks s) :
    s0.within ks (State.readWord s c off port).1 := by
  unfold State.readWord
  try dsimp only
  repeat' (first
    | with_reducible assumption
    | with_reducible apply within_correction (sub_of hw rfl)
    | with_reducible apply within_incSatUn (sub_of hw rfl)
    | split)

theorem within_wordRecord {ks : List Comp} {s0 : State} {s : State} {cls c off port syn struck} (hw : [.regs, .cells, .err] ⊆ ks) (h : s0.within ks s) :
    s0.within ks (State.wordRecord s cls c off port syn struck) := by
  unfold State.wordRecord
  try dsimp only
  repeat' (first
    | with_reducible assumption
    | with_reducible apply within_setErrLast (sub_of hw rfl)
    | with_reducible apply within_raise (sub_of hw rfl)
    | with_reducible apply within_queueTest (sub_of hw rfl))

theorem within_poisonWord {ks : List Comp} {s0 : State} {s : State} {c off} (hw : [.mem, .cells] ⊆ ks) (h : s0.within ks s) :
    s0.within ks (State.poisonWord s c off) := by
  unfold State.poisonWord
  try dsimp only
  repeat' (first
    | with_reducible assumption
    | with_reducible apply within_putWord (sub_of hw rfl))

theorem within_mbWrite {ks : List Comp} {s0 : State} {s : State} {c k e} (hw : [.regs, .mem, .cells, .regions, .err] ⊆ ks) (h : s0.within ks s) :
    s0.within ks (State.mbWrite s c k e) := by
  unfold State.mbWrite
  try dsimp only
  repeat' (first
    | with_reducible assumption
    | with_reducible apply within_act (sub_of hw rfl)
    | with_reducible apply within_setCore (sub_of hw rfl)
    | with_reducible apply within_busStop (sub_of hw rfl)
    | with_reducible apply within_spmRefuse (sub_of hw rfl)
    | with_reducible apply within_writeWord (sub_of hw rfl)
    | with_reducible apply within_readWord (sub_of hw rfl)
    | with_reducible apply within_wordRecord (sub_of hw rfl)
    | with_reducible apply within_poisonWord (sub_of hw rfl)
    | with_reducible apply within_ite
    | with_reducible refine within_pair (by assumption) ?_
    | split)

theorem within_mbFlush {ks : List Comp} {s0 : State} {s : State} {c k p} (hw : [.regs, .mem, .cells, .regions, .err] ⊆ ks) (h : s0.within ks s) :
    s0.within ks (State.mbFlush s c k p) := by
  unfold State.mbFlush
  try dsimp only
  repeat' (first
    | with_reducible assumption
    | with_reducible apply within_mbWrite (sub_of hw rfl)
    | with_reducible apply within_foldl
    | (intro _ _ _; try dsimp only)
    | (intro _ _; try dsimp only))

theorem within_setOwners {ks : List Comp} {s0 : State} {s : State} {c v} (hw : [.regs, .wrote] ⊆ ks) (h : s0.within ks s) :
    s0.within ks (State.setOwners s c v) := by
  unfold State.setOwners
  try dsimp only
  repeat' (first
    | with_reducible assumption
    | with_reducible apply within_setReg (sub_of hw rfl)
    | with_reducible apply within_noteWrite (sub_of hw rfl))

theorem within_imemLoad {ks : List Comp} {s0 : State} {s : State} {c k req v} (hw : [.regs, .cells, .err] ⊆ ks) (h : s0.within ks s) :
    s0.within ks (State.imemLoad s c k req v) := by
  unfold State.imemLoad
  try dsimp only
  repeat' (first
    | with_reducible assumption
    | with_reducible apply within_setErrLast (sub_of hw rfl)
    | with_reducible apply within_raise (sub_of hw rfl)
    | with_reducible apply within_setFld (sub_of hw rfl)
    | with_reducible apply within_setCore (sub_of hw rfl)
    | with_reducible apply within_foldl
    | with_reducible apply within_foldl_pair
    | with_reducible apply within_foldl_line
    | with_reducible exact within_refl _
    | with_reducible apply within_ite
    | with_reducible apply within_ite_pair
    | with_reducible exact Or.inl rfl
    | exact Or.inr (hw (by decide))
    | exact hw (by decide)
    | with_reducible refine within_pair (by assumption) ?_
    | (intro _ _ _; try dsimp only)
    | (intro _ _; try dsimp only)
    | split
    | with_reducible apply within_mk)

theorem within_ownFlush {ks : List Comp} {s0 : State} {s : State} {c v} (hw : [.regs, .mem, .cells, .regions, .err] ⊆ ks) (h : s0.within ks s) :
    s0.within ks (State.ownFlush s c v) := by
  unfold State.ownFlush
  try dsimp only
  repeat' (first
    | with_reducible assumption
    | with_reducible apply within_mbFlush (sub_of hw rfl))

theorem within_writeOwners {ks : List Comp} {s0 : State} {s : State} {c v} (hw : [.regs, .wrote, .mem, .cells, .regions, .err] ⊆ ks) (h : s0.within ks s) :
    s0.within ks (State.writeOwners s c v) := by
  unfold State.writeOwners
  try dsimp only
  repeat' (first
    | with_reducible assumption
    | with_reducible apply within_setOwners (sub_of hw rfl)
    | with_reducible apply within_ownFlush (sub_of hw rfl)
    | with_reducible apply within_setCell (sub_of hw rfl)
    | with_reducible apply within_ite)

theorem within_eccFlush {ks : List Comp} {s0 : State} {s : State} {c off} (hw : [.regs, .mem, .cells, .regions, .err] ⊆ ks) (h : s0.within ks s) :
    s0.within ks (State.eccFlush s c off) := by
  unfold State.eccFlush
  try dsimp only
  repeat' (first
    | with_reducible assumption
    | with_reducible apply within_mbFlush (sub_of hw rfl)
    | with_reducible apply within_foldl
    | with_reducible apply within_foldl_pair
    | with_reducible apply within_foldl_line
    | with_reducible exact within_refl _
    | with_reducible apply within_ite
    | with_reducible apply within_ite_pair
    | with_reducible exact Or.inl rfl
    | exact Or.inr (hw (by decide))
    | exact hw (by decide)
    | with_reducible refine within_pair (by assumption) ?_
    | (intro _ _ _; try dsimp only)
    | (intro _ _; try dsimp only)
    | split
    | with_reducible apply within_mk)

theorem within_eccRawWrite {ks : List Comp} {s0 : State} {s : State} {c req} (hw : [.regs, .mem, .cells, .regions, .err] ⊆ ks) (h : s0.within ks s) :
    s0.within ks (State.eccRawWrite s c req) := by
  unfold State.eccRawWrite
  try dsimp only
  repeat' (first
    | with_reducible assumption
    | with_reducible apply within_spmRefuse (sub_of hw rfl)
    | with_reducible apply within_act (sub_of hw rfl)
    | with_reducible apply within_eccFlush (sub_of hw rfl)
    | with_reducible apply within_putWord (sub_of hw rfl)
    | with_reducible apply within_foldl
    | with_reducible apply within_foldl_pair
    | with_reducible apply within_foldl_line
    | with_reducible exact within_refl _
    | with_reducible apply within_ite
    | with_reducible apply within_ite_pair
    | with_reducible exact Or.inl rfl
    | exact Or.inr (hw (by decide))
    | exact hw (by decide)
    | with_reducible refine within_pair (by assumption) ?_
    | (intro _ _ _; try dsimp only)
    | (intro _ _; try dsimp only)
    | split
    | with_reducible apply within_mk)

theorem within_eccRawRead {ks : List Comp} {s0 : State} {s : State} {c req} (hw : [.regs, .mem, .cells, .regions, .err] ⊆ ks) (h : s0.within ks s) :
    s0.within ks (State.eccRawRead s c req) := by
  unfold State.eccRawRead
  try dsimp only
  repeat' (first
    | with_reducible assumption
    | with_reducible apply within_spmRefuse (sub_of hw rfl)
    | with_reducible apply within_act (sub_of hw rfl)
    | with_reducible apply within_eccFlush (sub_of hw rfl)
    | with_reducible apply within_setReg (sub_of hw rfl)
    | with_reducible apply within_foldl
    | with_reducible apply within_foldl_pair
    | with_reducible apply within_foldl_line
    | with_reducible exact within_refl _
    | with_reducible apply within_ite
    | with_reducible apply within_ite_pair
    | with_reducible exact Or.inl rfl
    | exact Or.inr (hw (by decide))
    | exact hw (by decide)
    | with_reducible refine within_pair (by assumption) ?_
    | (intro _ _ _; try dsimp only)
    | (intro _ _; try dsimp only)
    | split
    | with_reducible apply within_mk)

theorem within_bengPush {ks : List Comp} {s0 : State} {s : State} {c op req} (hw : [.regs, .cells, .err] ⊆ ks) (h : s0.within ks s) :
    s0.within ks (State.bengPush s c op req) := by
  unfold State.bengPush
  try dsimp only
  repeat' (first
    | with_reducible assumption
    | with_reducible apply within_raise (sub_of hw rfl)
    | with_reducible apply within_setFld (sub_of hw rfl)
    | with_reducible apply within_setCell (sub_of hw rfl)
    | with_reducible apply within_foldl
    | with_reducible apply within_foldl_pair
    | with_reducible apply within_foldl_line
    | with_reducible exact within_refl _
    | with_reducible apply within_ite
    | with_reducible apply within_ite_pair
    | with_reducible exact Or.inl rfl
    | exact Or.inr (hw (by decide))
    | exact hw (by decide)
    | with_reducible refine within_pair (by assumption) ?_
    | (intro _ _ _; try dsimp only)
    | (intro _ _; try dsimp only)
    | split
    | with_reducible apply within_mk)

theorem within_meshRead {ks : List Comp} {s0 : State} {s : State} {c off len} (hw : [.regs, .cells, .regions, .err] ⊆ ks) (h : s0.within ks s) :
    s0.within ks (State.meshRead s c off len).1 := by
  unfold State.meshRead
  try dsimp only
  repeat' (first
    | with_reducible assumption
    | with_reducible apply within_readWord (sub_of hw rfl)
    | with_reducible apply within_wordRecord (sub_of hw rfl)
    | with_reducible apply within_act (sub_of hw rfl)
    | with_reducible apply within_foldl_pair
    | with_reducible refine within_pair (by assumption) ?_
    | (intro _ _ _; try dsimp only)
    | (intro _ _; try dsimp only)
    | split)

theorem within_meshWrite {ks : List Comp} {s0 : State} {s : State} {c off data pois struck} (hw : [.regs, .mem, .cells, .regions, .err] ⊆ ks) (h : s0.within ks s) :
    s0.within ks (State.meshWrite s c off data pois struck).1 := by
  unfold State.meshWrite
  try dsimp only
  repeat' (first
    | with_reducible assumption
    | with_reducible apply within_poisonWord (sub_of hw rfl)
    | with_reducible apply within_writeWord (sub_of hw rfl)
    | with_reducible apply within_readWord (sub_of hw rfl)
    | with_reducible apply within_wordRecord (sub_of hw rfl)
    | with_reducible apply within_act (sub_of hw rfl)
    | with_reducible apply within_foldl_pair
    | with_reducible apply within_ite_pair
    | with_reducible refine within_pair (by assumption) ?_
    | (intro _ _ _; try dsimp only)
    | (intro _ _; try dsimp only)
    | split)

theorem within_bengWord {ks : List Comp} {s0 : State} {s : State} {c b o} (hw : [.regs, .mem, .cells, .err] ⊆ ks) (h : s0.within ks s) :
    s0.within ks (State.bengWord s c b o) := by
  unfold State.bengWord
  try dsimp only
  repeat' (first
    | with_reducible assumption
    | with_reducible apply within_writeWord (sub_of hw rfl)
    | with_reducible apply within_poisonWord (sub_of hw rfl)
    | with_reducible apply within_readWord (sub_of hw rfl)
    | with_reducible apply within_wordRecord (sub_of hw rfl)
    | with_reducible apply within_ite
    | with_reducible refine within_pair (by assumption) ?_
    | split)

theorem within_bengLine {ks : List Comp} {s0 : State} {s : State} {c b i} (hw : [.regs, .mem, .cells, .regions, .err] ⊆ ks) (h : s0.within ks s) :
    s0.within ks (State.bengLine s c b i).1 := by
  unfold State.bengLine
  try dsimp only
  repeat' (first
    | with_reducible assumption
    | with_reducible apply within_bengWord (sub_of hw rfl)
    | with_reducible apply within_act (sub_of hw rfl)
    | with_reducible apply within_foldl
    | (intro _ _ _; try dsimp only)
    | (intro _ _; try dsimp only)
    | split)

theorem within_bengRefuse {ks : List Comp} {s0 : State} {s : State} {c off cr} (hw : [.regs, .cells, .err] ⊆ ks) (h : s0.within ks s) :
    s0.within ks (State.bengRefuse s c off cr) := by
  unfold State.bengRefuse
  try dsimp only
  repeat' (first
    | with_reducible assumption
    | with_reducible apply within_setErrLast (sub_of hw rfl)
    | with_reducible apply within_raise (sub_of hw rfl)
    | with_reducible apply within_setCell (sub_of hw rfl))

theorem within_bengMove {ks : List Comp} {s0 : State} {s : State} {c b rest} (hw : [.regs, .mem, .cells, .regions, .err] ⊆ ks) (h : s0.within ks s) :
    s0.within ks (State.bengMove s c b rest).1 := by
  unfold State.bengMove
  try dsimp only
  repeat' (first
    | with_reducible assumption
    | with_reducible apply within_bengLine (sub_of hw rfl)
    | with_reducible apply within_bengRefuse (sub_of hw rfl)
    | with_reducible apply within_setCell (sub_of hw rfl)
    | with_reducible apply within_foldl
    | with_reducible apply within_foldl_pair
    | with_reducible apply within_foldl_line
    | with_reducible exact within_refl _
    | with_reducible apply within_ite
    | with_reducible apply within_ite_pair
    | with_reducible exact Or.inl rfl
    | exact Or.inr (hw (by decide))
    | exact hw (by decide)
    | with_reducible refine within_pair (by assumption) ?_
    | (intro _ _ _; try dsimp only)
    | (intro _ _; try dsimp only)
    | split
    | with_reducible apply within_mk)

theorem within_bengCycle {ks : List Comp} {s0 : State} {s : State} {c} (hw : [.regs, .mem, .cells, .regions, .err] ⊆ ks) (h : s0.within ks s) :
    s0.within ks (State.bengCycle s c) := by
  unfold State.bengCycle
  try dsimp only
  repeat' (first
    | with_reducible assumption
    | with_reducible apply within_bengMove (sub_of hw rfl)
    | with_reducible apply within_foldl
    | with_reducible apply within_foldl_pair
    | with_reducible apply within_foldl_line
    | with_reducible exact within_refl _
    | with_reducible apply within_ite
    | with_reducible apply within_ite_pair
    | with_reducible exact Or.inl rfl
    | exact Or.inr (hw (by decide))
    | exact hw (by decide)
    | with_reducible refine within_pair (by assumption) ?_
    | (intro _ _ _; try dsimp only)
    | (intro _ _; try dsimp only)
    | split
    | with_reducible apply within_mk)

theorem within_bengFinish {ks : List Comp} {s0 : State} {s : State} {c b ecc} (hw : [.regs, .cells, .err] ⊆ ks) (h : s0.within ks s) :
    s0.within ks (State.bengFinish s c b ecc) := by
  unfold State.bengFinish
  try dsimp only
  repeat' (first
    | with_reducible assumption
    | with_reducible apply within_incWrap (sub_of hw rfl)
    | with_reducible apply within_setCell (sub_of hw rfl)
    | with_reducible apply within_applySignal (sub_of hw rfl)
    | with_reducible apply within_routerEcc (sub_of hw rfl)
    | with_reducible apply within_foldl
    | with_reducible apply within_foldl_pair
    | with_reducible apply within_foldl_line
    | with_reducible exact within_refl _
    | with_reducible apply within_ite
    | with_reducible apply within_ite_pair
    | with_reducible exact Or.inl rfl
    | exact Or.inr (hw (by decide))
    | exact hw (by decide)
    | with_reducible refine within_pair (by assumption) ?_
    | (intro _ _ _; try dsimp only)
    | (intro _ _; try dsimp only)
    | split
    | with_reducible apply within_mk)

theorem within_bengDone {ks : List Comp} {s0 : State} {s : State} {c ecc} (hw : [.regs, .mem, .cells, .regions, .err] ⊆ ks) (h : s0.within ks s) :
    s0.within ks (State.bengDone s c ecc) := by
  unfold State.bengDone
  try dsimp only
  repeat' (first
    | with_reducible assumption
    | with_reducible apply within_bengMove (sub_of hw rfl)
    | with_reducible apply within_bengFinish (sub_of hw rfl)
    | with_reducible apply within_ite
    | with_reducible refine within_pair (by assumption) ?_
    | split)

theorem within_bengStart {ks : List Comp} {s0 : State} {s : State} {c} (hw : [.cells] ⊆ ks) (h : s0.within ks s) :
    s0.within ks (State.bengStart s c) := by
  unfold State.bengStart
  try dsimp only
  repeat' (first
    | with_reducible assumption
    | with_reducible apply within_setCell (sub_of hw rfl)
    | with_reducible apply within_ite
    | with_reducible refine within_pair (by assumption) ?_
    | split)

theorem within_clearMem {ks : List Comp} {s0 : State} {s : State} {lo n} (hw : [.mem] ⊆ ks) (h : s0.within ks s) :
    s0.within ks (State.clearMem s lo n) := by
  unfold State.clearMem
  try dsimp only
  repeat' (first
    | with_reducible assumption
    | with_reducible apply within_mk_mem
    | with_reducible exact Or.inl rfl
    | exact Or.inr (hw (by decide))
    | exact hw (by decide))

theorem within_putImem {ks : List Comp} {s0 : State} {s : State} {c k off w} (hw : [.mem] ⊆ ks) (h : s0.within ks s) :
    s0.within ks (State.putImem s c k off w) := by
  unfold State.putImem
  try dsimp only
  repeat' (first
    | with_reducible assumption
    | with_reducible apply within_setByte (sub_of hw rfl)
    | with_reducible apply within_setBytes (sub_of hw rfl))

theorem within_readImem {ks : List Comp} {s0 : State} {s : State} {c k off} (hw : [.regs, .mem, .err] ⊆ ks) (h : s0.within ks s) :
    s0.within ks (State.readImem s c k off).1 := by
  unfold State.readImem
  try dsimp only
  repeat' (first
    | with_reducible assumption
    | with_reducible apply within_raise (sub_of hw rfl)
    | with_reducible apply within_incSatUn (sub_of hw rfl)
    | with_reducible apply within_putImem (sub_of hw rfl)
    | split)

theorem within_governOwners {ks : List Comp} {s0 : State} {s : State} {c} (hw : [.regs, .wrote, .mem, .cells, .regions, .err] ⊆ ks) (h : s0.within ks s) :
    s0.within ks (State.governOwners s c) := by
  unfold State.governOwners
  try dsimp only
  repeat' (first
    | with_reducible assumption
    | with_reducible apply within_ownFlush (sub_of hw rfl)
    | with_reducible apply within_setOwners (sub_of hw rfl)
    | with_reducible apply within_setCell (sub_of hw rfl)
    | split)

theorem within_imemLine {ks : List Comp} {s0 : State} {s : State} {c src} (hw : [.regs, .cells, .err] ⊆ ks) (h : s0.within ks s) :
    s0.within ks (State.imemLine s c src).s := by
  unfold State.imemLine
  try dsimp only
  repeat' (first
    | with_reducible assumption
    | with_reducible apply within_readWord (sub_of hw rfl)
    | with_reducible apply within_foldl
    | with_reducible apply within_foldl_pair
    | with_reducible apply within_foldl_line
    | with_reducible exact within_refl _
    | with_reducible apply within_ite
    | with_reducible apply within_ite_pair
    | with_reducible exact Or.inl rfl
    | exact Or.inr (hw (by decide))
    | exact hw (by decide)
    | with_reducible refine within_pair (by assumption) ?_
    | (intro _ _ _; try dsimp only)
    | (intro _ _; try dsimp only)
    | split
    | with_reducible apply within_mk)

theorem within_imemLines {ks : List Comp} {s0 : State} {s : State} {c k src dst a5} (hw : [.regs, .mem, .cells, .err] ⊆ ks) (h : s0.within ks s) :
    s0.within ks (State.imemLines s c k src dst a5).1 := by
  induction a5 generalizing s c k src dst with
  | zero => exact h
  | succ n ih =>
    unfold State.imemLines
    try dsimp only
    repeat' (first
      | with_reducible assumption
      | with_reducible apply ih
      | with_reducible apply within_imemLine (sub_of hw rfl)
      | with_reducible apply within_putImem (sub_of hw rfl)
      | with_reducible apply within_foldl
      | with_reducible apply within_foldl_pair
      | with_reducible apply within_foldl_line
      | with_reducible exact within_refl _
      | with_reducible apply within_ite
      | with_reducible apply within_ite_pair
      | with_reducible exact Or.inl rfl
      | exact Or.inr (hw (by decide))
      | exact hw (by decide)
      | with_reducible refine within_pair (by assumption) ?_
      | (intro _ _ _; try dsimp only)
      | (intro _ _; try dsimp only)
      | split
      | with_reducible apply within_mk)

theorem within_imemDone {ks : List Comp} {s0 : State} {s : State} {c k} (hw : [.regs, .mem, .cells, .err] ⊆ ks) (h : s0.within ks s) :
    s0.within ks (State.imemDone s c k) := by
  unfold State.imemDone
  try dsimp only
  repeat' (first
    | with_reducible assumption
    | with_reducible apply within_imemLines (sub_of hw rfl)
    | with_reducible apply within_setCore (sub_of hw rfl)
    | with_reducible apply within_setErrLast (sub_of hw rfl)
    | with_reducible apply within_raise (sub_of hw rfl)
    | with_reducible apply within_setFld (sub_of hw rfl)
    | with_reducible apply within_foldl
    | with_reducible apply within_foldl_pair
    | with_reducible apply within_foldl_line
    | with_reducible exact within_refl _
    | with_reducible apply within_ite
    | with_reducible apply within_ite_pair
    | with_reducible exact Or.inl rfl
    | exact Or.inr (hw (by decide))
    | exact hw (by decide)
    | with_reducible refine within_pair (by assumption) ?_
    | (intro _ _ _; try dsimp only)
    | (intro _ _; try dsimp only)
    | split
    | with_reducible apply within_mk)

theorem within_primeCell {ks : List Comp} {s0 : State} {s : State} {c} (hw : [.regs, .mem, .cells, .regions] ⊆ ks) (h : s0.within ks s) :
    s0.within ks (State.primeCell s c) := by
  unfold State.primeCell
  try dsimp only
  repeat' (first
    | with_reducible assumption
    | with_reducible apply within_clearMem (sub_of hw rfl)
    | with_reducible apply within_setReg (sub_of hw rfl)
    | with_reducible apply within_setFld (sub_of hw rfl)
    | with_reducible apply within_act (sub_of hw rfl)
    | with_reducible apply within_setCell (sub_of hw rfl)
    | with_reducible apply within_foldl
    | with_reducible apply within_foldl_pair
    | with_reducible apply within_foldl_line
    | with_reducible exact within_refl _
    | with_reducible apply within_ite
    | with_reducible apply within_ite_pair
    | with_reducible exact Or.inl rfl
    | exact Or.inr (hw (by decide))
    | exact hw (by decide)
    | with_reducible refine within_pair (by assumption) ?_
    | (intro _ _ _; try dsimp only)
    | (intro _ _; try dsimp only)
    | split
    | with_reducible apply within_mk)

theorem within_primerStart {ks : List Comp} {s0 : State} {s : State} {c} (hw : [.regs] ⊆ ks) (h : s0.within ks s) :
    s0.within ks (State.primerStart s c) := by
  unfold State.primerStart
  try dsimp only
  repeat' (first
    | with_reducible assumption
    | with_reducible apply within_setReg (sub_of hw rfl))

theorem within_scrubLate {ks : List Comp} {s0 : State} {s : State} {c b} (hw : [.regs, .cells, .err] ⊆ ks) (h : s0.within ks s) :
    s0.within ks (State.scrubLate s c b) := by
  unfold State.scrubLate
  try dsimp only
  repeat' (first
    | with_reducible assumption
    | with_reducible apply within_raise (sub_of hw rfl)
    | with_reducible apply within_setFld (sub_of hw rfl)
    | with_reducible apply within_setScrub (sub_of hw rfl)
    | with_reducible apply within_ite)

theorem within_scrubNext {ks : List Comp} {s0 : State} {s : State} {c b} (hw : [.regs, .cells] ⊆ ks) (h : s0.within ks s) :
    s0.within ks (State.scrubNext s c b) := by
  unfold State.scrubNext
  try dsimp only
  repeat' (first
    | with_reducible assumption
    | with_reducible apply within_setScrub (sub_of hw rfl)
    | with_reducible apply within_setFld (sub_of hw rfl)
    | with_reducible apply within_setCell (sub_of hw rfl)
    | with_reducible apply within_incWrap (sub_of hw rfl)
    | with_reducible apply within_ite)

theorem within_scrubRead {ks : List Comp} {s0 : State} {s : State} {c b} (hw : [.regs, .cells, .regions, .err] ⊆ ks) (h : s0.within ks s) :
    s0.within ks (State.scrubRead s c b) := by
  unfold State.scrubRead
  try dsimp only
  repeat' (first
    | with_reducible assumption
    | with_reducible apply within_readWord (sub_of hw rfl)
    | with_reducible apply within_wordRecord (sub_of hw rfl)
    | with_reducible apply within_act (sub_of hw rfl)
    | with_reducible apply within_scrubNext (sub_of hw rfl)
    | with_reducible apply within_setScrub (sub_of hw rfl)
    | with_reducible apply within_foldl
    | with_reducible apply within_ite
    | with_reducible refine within_pair (by assumption) ?_
    | (intro _ _ _; try dsimp only)
    | (intro _ _; try dsimp only)
    | split)

theorem within_scrubWriteback {ks : List Comp} {s0 : State} {s : State} {c b} (hw : [.regs, .mem, .cells, .regions] ⊆ ks) (h : s0.within ks s) :
    s0.within ks (State.scrubWriteback s c b) := by
  unfold State.scrubWriteback
  try dsimp only
  repeat' (first
    | with_reducible assumption
    | with_reducible apply within_scrubNext (sub_of hw rfl)
    | with_reducible apply within_writeWord (sub_of hw rfl)
    | with_reducible apply within_poisonWord (sub_of hw rfl)
    | with_reducible apply within_act (sub_of hw rfl)
    | with_reducible apply within_foldl
    | with_reducible apply within_ite
    | (intro _ _ _; try dsimp only)
    | (intro _ _; try dsimp only)
    | split)

theorem within_execBengCommandDone {ks : List Comp} (s : State) {c ecc} (hw : [.regs, .mem, .cells, .regions, .err] ⊆ ks) :
    ∃ z, execBengCommandDone c ecc s = .next z ∧ s.within ks z := by
  unfold execBengCommandDone
  exact ⟨_, rfl, by
    repeat' (first
      | with_reducible exact within_refl _
      | with_reducible apply within_bengDone (sub_of hw rfl))⟩

theorem within_execBengCommandStart {ks : List Comp} (s : State) {c} (hw : [.cells] ⊆ ks) :
    ∃ z, execBengCommandStart c s = .next z ∧ s.within ks z := by
  unfold execBengCommandStart
  exact ⟨_, rfl, by
    repeat' (first
      | with_reducible exact within_refl _
      | with_reducible apply within_bengStart (sub_of hw rfl))⟩

theorem within_execBengCopy {ks : List Comp} (s : State) {c req} (hw : [.regs, .cells, .pend13, .err] ⊆ ks) :
    ∃ z, execBengCopy c req s = .next z ∧ s.within ks z := by
  unfold execBengCopy
  exact ⟨_, rfl, by
    repeat' (first
      | with_reducible exact within_refl _
      | with_reducible assumption
      | with_reducible apply within_bengPush (sub_of hw rfl)
      | with_reducible apply within_dropPend (sub_of hw rfl)
      | with_reducible apply within_foldl
      | with_reducible apply within_foldl_pair
      | with_reducible apply within_foldl_line
      | with_reducible apply within_ite
      | with_reducible apply within_ite_pair
      | with_reducible exact Or.inl rfl
      | exact Or.inr (hw (by decide))
      | exact hw (by decide)
      | with_reducible refine within_pair (by assumption) ?_
      | (intro _ _ _; try dsimp only)
      | (intro _ _; try dsimp only)
      | split
      | with_reducible apply within_mk)⟩

theorem within_execBengFill {ks : List Comp} (s : State) {c req} (hw : [.regs, .cells, .pend13, .err] ⊆ ks) :
    ∃ z, execBengFill c req s = .next z ∧ s.within ks z := by
  unfold execBengFill
  exact ⟨_, rfl, by
    repeat' (first
      | with_reducible exact within_refl _
      | with_reducible assumption
      | with_reducible apply within_bengPush (sub_of hw rfl)
      | with_reducible apply within_dropPend (sub_of hw rfl)
      | with_reducible apply within_foldl
      | with_reducible apply within_foldl_pair
      | with_reducible apply within_foldl_line
      | with_reducible apply within_ite
      | with_reducible apply within_ite_pair
      | with_reducible exact Or.inl rfl
      | exact Or.inr (hw (by decide))
      | exact hw (by decide)
      | with_reducible refine within_pair (by assumption) ?_
      | (intro _ _ _; try dsimp only)
      | (intro _ _; try dsimp only)
      | split
      | with_reducible apply within_mk)⟩

theorem within_execBengPoison {ks : List Comp} (s : State) {c req} (hw : [.regs, .cells, .pend13, .err] ⊆ ks) :
    ∃ z, execBengPoison c req s = .next z ∧ s.within ks z := by
  unfold execBengPoison
  exact ⟨_, rfl, by
    repeat' (first
      | with_reducible exact within_refl _
      | with_reducible assumption
      | with_reducible apply within_bengPush (sub_of hw rfl)
      | with_reducible apply within_dropPend (sub_of hw rfl)
      | with_reducible apply within_foldl
      | with_reducible apply within_foldl_pair
      | with_reducible apply within_foldl_line
      | with_reducible apply within_ite
      | with_reducible apply within_ite_pair
      | with_reducible exact Or.inl rfl
      | exact Or.inr (hw (by decide))
      | exact hw (by decide)
      | with_reducible refine within_pair (by assumption) ?_
      | (intro _ _ _; try dsimp only)
      | (intro _ _; try dsimp only)
      | split
      | with_reducible apply within_mk)⟩

theorem within_execEccRawRead {ks : List Comp} (s : State) {c req} (hw : [.regs, .mem, .cells, .regions, .pend13, .err] ⊆ ks) :
    ∃ z, execEccRawRead c req s = .next z ∧ s.within ks z := by
  unfold execEccRawRead
  exact ⟨_, rfl, by
    repeat' (first
      | with_reducible exact within_refl _
      | with_reducible assumption
      | with_reducible apply within_eccRawRead (sub_of hw rfl)
      | with_reducible apply within_dropPend (sub_of hw rfl)
      | with_reducible apply within_foldl
      | with_reducible apply within_foldl_pair
      | with_reducible apply within_foldl_line
      | with_reducible apply within_ite
      | with_reducible apply within_ite_pair
      | with_reducible exact Or.inl rfl
      | exact Or.inr (hw (by decide))
      | exact hw (by decide)
      | with_reducible refine within_pair (by assumption) ?_
      | (intro _ _ _; try dsimp only)
      | (intro _ _; try dsimp only)
      | split
      | with_reducible apply within_mk)⟩

theorem within_execEccRawWrite {ks : List Comp} (s : State) {c req} (hw : [.regs, .mem, .cells, .regions, .pend13, .err] ⊆ ks) :
    ∃ z, execEccRawWrite c req s = .next z ∧ s.within ks z := by
  unfold execEccRawWrite
  exact ⟨_, rfl, by
    repeat' (first
      | with_reducible exact within_refl _
      | with_reducible assumption
      | with_reducible apply within_eccRawWrite (sub_of hw rfl)
      | with_reducible apply within_dropPend (sub_of hw rfl)
      | with_reducible apply within_foldl
      | with_reducible apply within_foldl_pair
      | with_reducible apply within_foldl_line
      | with_reducible apply within_ite
      | with_reducible apply within_ite_pair
      | with_reducible exact Or.inl rfl
      | exact Or.inr (hw (by decide))
      | exact hw (by decide)
      | with_reducible refine within_pair (by assumption) ?_
      | (intro _ _ _; try dsimp only)
      | (intro _ _; try dsimp only)
      | split
      | with_reducible apply within_mk)⟩

theorem within_execIstoreScrub {ks : List Comp} (s : State) {c k} (hw : [.regs, .mem, .cells, .err] ⊆ ks) :
    ∃ z, execIstoreScrub c k s = .next z ∧ s.within ks z := by
  unfold execIstoreScrub
  exact ⟨_, rfl, by
    repeat' (first
      | with_reducible exact within_refl _
      | with_reducible assumption
      | with_reducible apply within_setCell (sub_of hw rfl)
      | with_reducible apply within_readImem (sub_of hw rfl)
      | with_reducible apply within_foldl
      | with_reducible apply within_ite
      | (intro _ _ _; try dsimp only)
      | (intro _ _; try dsimp only)
      | split)⟩

theorem within_execScrubLineRead {ks : List Comp} (s : State) {c bank} (hw : [.regs, .cells, .regions, .err] ⊆ ks) :
    ∃ z, execScrubLineRead c bank s = .next z ∧ s.within ks z := by
  unfold execScrubLineRead
  exact ⟨_, rfl, by
    repeat' (first
      | with_reducible exact within_refl _
      | with_reducible apply within_scrubRead (sub_of hw rfl)
      | with_reducible apply within_scrubLate (sub_of hw rfl)
      | with_reducible apply within_ite)⟩

theorem within_execScrubWriteback {ks : List Comp} (s : State) {c bank} (hw : [.regs, .mem, .cells, .regions, .err] ⊆ ks) :
    ∃ z, execScrubWriteback c bank s = .next z ∧ s.within ks z := by
  unfold execScrubWriteback
  exact ⟨_, rfl, by
    repeat' (first
      | with_reducible exact within_refl _
      | with_reducible apply within_scrubWriteback (sub_of hw rfl)
      | with_reducible apply within_scrubLate (sub_of hw rfl)
      | with_reducible apply within_ite)⟩

theorem within_execSpmBankOwnWrite {ks : List Comp} (s : State) {c v} (hw : [.regs, .wrote, .mem, .cells, .regions, .err] ⊆ ks) :
    ∃ z, execSpmBankOwnWrite c v s = .next z ∧ s.within ks z := by
  unfold execSpmBankOwnWrite
  exact ⟨_, rfl, by
    repeat' (first
      | with_reducible exact within_refl _
      | with_reducible apply within_writeOwners (sub_of hw rfl))⟩

end Sys2Proof.Laws
end

