-- ==== Sys2Proof/Laws/WithinMxe.lean ====
section
/-! SUPPORT. What the operations of Machine/Mxe.lean may change (`State.within`). -/

set_option Elab.async false
set_option linter.all false

namespace Sys2Proof.Laws

open Sys2Proof Sys2Proof.Machine Sys2Proof.Machine.State

/-- A fold over what `MxeRead` carries. -/
theorem within_foldl_read {ks : List Comp} {α : Type} {s0 : State} {f : MxeRead → α → MxeRead} (l : List α) :
    ∀ {p : MxeRead}, (∀ q x, s0.within ks q.s → s0.within ks (f q x).s) → s0.within ks p.s → s0.within ks (l.foldl f p).s := by
  induction l with
  | nil => exact fun _ h => h
  | cons x l ih => exact fun hf h => ih hf (hf _ x h)

/-- A fold over what `Replay` carries. -/
theorem within_foldl_replay {ks : List Comp} {α : Type} {s0 : State} {f : Replay → α → Replay} (l : List α) :
    ∀ {p : Replay}, (∀ q x, s0.within ks q.s → s0.within ks (f q x).s) → s0.within ks p.s → s0.within ks (l.foldl f p).s := by
  induction l with
  | nil => exact fun _ h => h
  | cons x l ih => exact fun hf h => ih hf (hf _ x h)

theorem within_mxeFlush {ks : List Comp} {s0 : State} {s : State} {c} (hw : [.cells] ⊆ ks) (h : s0.within ks s) :
    s0.within ks (State.mxeFlush s c) := by
  unfold State.mxeFlush
  try dsimp only
  repeat' (first
    | with_reducible assumption
    | with_reducible apply within_setMxe (sub_of hw rfl)
    | split)

theorem within_pushRefuse {ks : List Comp} {s0 : State} {s : State} {c cls detail} (hw : [.cells] ⊆ ks) (h : s0.within ks s) :
    s0.within ks (State.pushRefuse s c cls detail) := by
  unfold State.pushRefuse
  try dsimp only
  repeat' (first
    | with_reducible assumption
    | with_reducible apply within_setMxe (sub_of hw rfl)
    | with_reducible apply within_foldl
    | with_reducible apply within_foldl_pair
    | with_reducible apply within_foldl_read
    | with_reducible apply within_foldl_replay
    | with_reducible exact within_refl _
    | with_reducible apply within_ite
    | with_reducible apply within_ite_pair
    | with_reducible exact Or.inl rfl
    | exact Or.inr (hw (by decide))
    | exact hw (by decide)
    | with_reducible refine within_pair (by assumption) ?_
    | (intro _ _ _; try dsimp only)
    | (intro _ _; try dsimp only)
    | split
    | with_reducible apply within_mk)

theorem within_mxeAccept {ks : List Comp} {s0 : State} {s : State} {c d} (hw : [.regs, .cells] ⊆ ks) (h : s0.within ks s) :
    s0.within ks (State.mxeAccept s c d) := by
  unfold State.mxeAccept
  try dsimp only
  repeat' (first
    | with_reducible assumption
    | with_reducible apply within_incSatUn (sub_of hw rfl)
    | with_reducible apply within_setMxe (sub_of hw rfl)
    | with_reducible apply within_ite
    | split)

theorem within_mxePush {ks : List Comp} {s0 : State} {s : State} {c} (hw : [.regs, .cells] ⊆ ks) (h : s0.within ks s) :
    s0.within ks (State.mxePush s c) := by
  unfold State.mxePush
  try dsimp only
  repeat' (first
    | with_reducible assumption
    | with_reducible apply within_pushRefuse (sub_of hw rfl)
    | with_reducible apply within_mxeAccept (sub_of hw rfl)
    | with_reducible apply within_ite)

theorem within_rplCtrl {ks : List Comp} {s0 : State} {s : State} {c en} (hw : [.regs, .cells] ⊆ ks) (h : s0.within ks s) :
    s0.within ks (State.rplCtrl s c en) := by
  unfold State.rplCtrl
  try dsimp only
  repeat' (first
    | with_reducible assumption
    | with_reducible apply within_setFld (sub_of hw rfl)
    | with_reducible apply within_setMxe (sub_of hw rfl)
    | with_reducible apply within_ite)

theorem within_ballastRow {ks : List Comp} {s0 : State} {s : State} {c upset} (hw : [.cells, .regions, .err] ⊆ ks) (h : s0.within ks s) :
    s0.within ks (State.ballastRow s c upset) := by
  unfold State.ballastRow
  try dsimp only
  repeat' (first
    | with_reducible assumption
    | with_reducible apply within_act (sub_of hw rfl)
    | with_reducible apply within_setMxe (sub_of hw rfl)
    | with_reducible apply within_raiseLim (sub_of hw rfl)
    | with_reducible apply within_queueTest (sub_of hw rfl)
    | with_reducible apply within_ite
    | split)

theorem within_mxeRefuse {ks : List Comp} {s0 : State} {s : State} {c off port cr} (hw : [.regs, .cells, .err] ⊆ ks) (h : s0.within ks s) :
    s0.within ks (State.mxeRefuse s c off port cr) := by
  unfold State.mxeRefuse
  try dsimp only
  repeat' (first
    | with_reducible assumption
    | with_reducible apply within_setErrLast (sub_of hw rfl)
    | with_reducible apply within_raise (sub_of hw rfl)
    | with_reducible apply within_setMxe (sub_of hw rfl))

theorem within_mxeConsume {ks : List Comp} {s0 : State} {s : State} {c off port} (hw : [.cells, .err] ⊆ ks) (h : s0.within ks s) :
    s0.within ks (State.mxeConsume s c off port) := by
  unfold State.mxeConsume
  try dsimp only
  repeat' (first
    | with_reducible assumption
    | with_reducible apply within_raiseAt (sub_of hw rfl)
    | with_reducible apply within_setMxe (sub_of hw rfl))

theorem within_mxeWord {ks : List Comp} {s0 : State} {r : MxeRead} {c port off} (hw : [.regs, .cells, .err, .free] ⊆ ks) (h : s0.within ks r.s) :
    s0.within ks (State.mxeWord r c port off).s := by
  unfold State.mxeWord
  try dsimp only
  repeat' (first
    | with_reducible assumption
    | with_reducible apply within_readWord (sub_of hw rfl)
    | with_reducible apply within_fresh (sub_of hw rfl)
    | with_reducible apply within_mxeConsume (sub_of hw rfl)
    | with_reducible refine within_pair (by assumption) ?_
    | split)

theorem within_mxeLine {ks : List Comp} {s0 : State} {r : MxeRead} {c port n off} (hw : [.regs, .cells, .regions, .err, .free] ⊆ ks) (h : s0.within ks r.s) :
    s0.within ks (State.mxeLine r c port n off).s := by
  unfold State.mxeLine
  try dsimp only
  repeat' (first
    | with_reducible assumption
    | with_reducible apply within_mxeRefuse (sub_of hw rfl)
    | with_reducible apply within_mxeWord (sub_of hw rfl)
    | with_reducible apply within_act (sub_of hw rfl)
    | with_reducible apply within_foldl_read
    | (intro _ _ _; try dsimp only)
    | (intro _ _; try dsimp only)
    | split)

theorem within_beatLine {ks : List Comp} {s0 : State} {s : State} {c off} (hw : [.regs, .cells, .regions, .err, .free] ⊆ ks) (h : s0.within ks s) :
    s0.within ks (State.beatLine s c off).s := by
  unfold State.beatLine
  try dsimp only
  repeat' (first
    | with_reducible assumption
    | with_reducible apply within_mxeLine (sub_of hw rfl)
    | with_reducible apply within_foldl
    | with_reducible apply within_foldl_pair
    | with_reducible apply within_foldl_read
    | with_reducible apply within_foldl_replay
    | with_reducible exact within_refl _
    | with_reducible apply within_ite
    | with_reducible apply within_ite_pair
    | with_reducible exact Or.inl rfl
    | exact Or.inr (hw (by decide))
    | exact hw (by decide)
    | with_reducible refine within_pair (by assumption) ?_
    | (intro _ _ _; try dsimp only)
    | (intro _ _; try dsimp only)
    | split
    | with_reducible apply within_mk)

theorem within_freeze {ks : List Comp} {s0 : State} {s : State} {c feeder drain} (hw : [.regs, .cells] ⊆ ks) (h : s0.within ks s) :
    s0.within ks (State.freeze s c feeder drain) := by
  unfold State.freeze
  try dsimp only
  repeat' (first
    | with_reducible assumption
    | with_reducible apply within_setReg (sub_of hw rfl)
    | with_reducible apply within_incSatUn (sub_of hw rfl)
    | with_reducible apply within_setMxe (sub_of hw rfl)
    | with_reducible apply within_ite)

theorem within_judgeCycle {ks : List Comp} {s0 : State} {s : State} {c} (hw : [.regs, .cells] ⊆ ks) (h : s0.within ks s) :
    s0.within ks (State.judgeCycle s c) := by
  unfold State.judgeCycle
  try dsimp only
  repeat' (first
    | with_reducible assumption
    | with_reducible apply within_freeze (sub_of hw rfl)
    | with_reducible apply within_foldl
    | with_reducible apply within_foldl_pair
    | with_reducible apply within_foldl_read
    | with_reducible apply within_foldl_replay
    | with_reducible exact within_refl _
    | with_reducible apply within_ite
    | with_reducible apply within_ite_pair
    | with_reducible exact Or.inl rfl
    | exact Or.inr (hw (by decide))
    | exact hw (by decide)
    | with_reducible refine within_pair (by assumption) ?_
    | (intro _ _ _; try dsimp only)
    | (intro _ _; try dsimp only)
    | split
    | with_reducible apply within_mk)

theorem within_loadBeat {ks : List Comp} {s0 : State} {s : State} {c} (hw : [.regs, .cells, .regions, .err, .free] ⊆ ks) (h : s0.within ks s) :
    s0.within ks (State.loadBeat s c) := by
  unfold State.loadBeat
  try dsimp only
  repeat' (first
    | with_reducible assumption
    | with_reducible apply within_beatLine (sub_of hw rfl)
    | with_reducible apply within_setMxe (sub_of hw rfl)
    | with_reducible apply within_foldl
    | with_reducible apply within_foldl_pair
    | with_reducible apply within_foldl_read
    | with_reducible apply within_foldl_replay
    | with_reducible exact within_refl _
    | with_reducible apply within_ite
    | with_reducible apply within_ite_pair
    | with_reducible exact Or.inl rfl
    | exact Or.inr (hw (by decide))
    | exact hw (by decide)
    | with_reducible refine within_pair (by assumption) ?_
    | (intro _ _ _; try dsimp only)
    | (intro _ _; try dsimp only)
    | split
    | with_reducible apply within_mk)

theorem within_easelStall {ks : List Comp} {s0 : State} {s : State} {c p} (hw : [.regs, .cells] ⊆ ks) (h : s0.within ks s) :
    s0.within ks (State.easelStall s c p) := by
  unfold State.easelStall
  try dsimp only
  repeat' (first
    | with_reducible assumption
    | with_reducible apply within_incSatUn (sub_of hw rfl)
    | with_reducible apply within_setMxe (sub_of hw rfl)
    | with_reducible apply within_foldl
    | with_reducible apply within_foldl_pair
    | with_reducible apply within_foldl_read
    | with_reducible apply within_foldl_replay
    | with_reducible exact within_refl _
    | with_reducible apply within_ite
    | with_reducible apply within_ite_pair
    | with_reducible exact Or.inl rfl
    | exact Or.inr (hw (by decide))
    | exact hw (by decide)
    | with_reducible refine within_pair (by assumption) ?_
    | (intro _ _ _; try dsimp only)
    | (intro _ _; try dsimp only)
    | split
    | with_reducible apply within_mk)

theorem within_convertRow {ks : List Comp} {s0 : State} {s : State} {c r t} (hw : [.regs, .cells, .regions] ⊆ ks) (h : s0.within ks s) :
    s0.within ks (State.convertRow s c r t) := by
  unfold State.convertRow
  try dsimp only
  repeat' (first
    | with_reducible assumption
    | with_reducible apply within_act (sub_of hw rfl)
    | with_reducible apply within_incSatUn (sub_of hw rfl)
    | with_reducible apply within_setMxe (sub_of hw rfl))

theorem within_convertNext {ks : List Comp} {s0 : State} {s : State} {c t} (hw : [.regs, .cells, .regions] ⊆ ks) (h : s0.within ks s) :
    s0.within ks (State.convertNext s c t) := by
  unfold State.convertNext
  try dsimp only
  repeat' (first
    | with_reducible assumption
    | with_reducible apply within_convertRow (sub_of hw rfl)
    | with_reducible apply within_setMxe (sub_of hw rfl)
    | with_reducible apply within_foldl
    | with_reducible apply within_foldl_pair
    | with_reducible apply within_foldl_read
    | with_reducible apply within_foldl_replay
    | with_reducible exact within_refl _
    | with_reducible apply within_ite
    | with_reducible apply within_ite_pair
    | with_reducible exact Or.inl rfl
    | exact Or.inr (hw (by decide))
    | exact hw (by decide)
    | with_reducible refine within_pair (by assumption) ?_
    | (intro _ _ _; try dsimp only)
    | (intro _ _; try dsimp only)
    | split
    | with_reducible apply within_mk)

theorem within_mxeStages {ks : List Comp} {s0 : State} {a0 : State} {c} (hw : [.regs, .cells, .regions, .err, .free] ⊆ ks) (h : s0.within ks a0) :
    s0.within ks (State.mxeStages a0 c) := by
  unfold State.mxeStages
  try dsimp only
  repeat' (first
    | with_reducible assumption
    | with_reducible apply within_judgeCycle (sub_of hw rfl)
    | with_reducible apply within_loadBeat (sub_of hw rfl)
    | with_reducible apply within_easelStall (sub_of hw rfl)
    | with_reducible apply within_convertNext (sub_of hw rfl)
    | with_reducible apply within_setMxe (sub_of hw rfl)
    | with_reducible apply within_foldl
    | with_reducible apply within_foldl_pair
    | with_reducible apply within_foldl_read
    | with_reducible apply within_foldl_replay
    | with_reducible exact within_refl _
    | with_reducible apply within_ite
    | with_reducible apply within_ite_pair
    | with_reducible exact Or.inl rfl
    | exact Or.inr (hw (by decide))
    | exact hw (by decide)
    | with_reducible refine within_pair (by assumption) ?_
    | (intro _ _ _; try dsimp only)
    | (intro _ _; try dsimp only)
    | split
    | with_reducible apply within_mk)

theorem within_checkRecord {ks : List Comp} {s0 : State} {s : State} {c cls outcome r} (hw : [.regs, .cells, .err] ⊆ ks) (h : s0.within ks s) :
    s0.within ks (State.checkRecord s c cls outcome r) := by
  unfold State.checkRecord
  try dsimp only
  repeat' (first
    | with_reducible assumption
    | with_reducible apply within_raise (sub_of hw rfl)
    | with_reducible apply within_setReg (sub_of hw rfl)
    | with_reducible apply within_queueTest (sub_of hw rfl))

theorem within_mxeFlushNow {ks : List Comp} {s0 : State} {s : State} {c} (hw : [.regs, .cells, .err] ⊆ ks) (h : s0.within ks s) :
    s0.within ks (State.mxeFlushNow s c) := by
  unfold State.mxeFlushNow
  try dsimp only
  repeat' (first
    | with_reducible assumption
    | with_reducible apply within_checkRecord (sub_of hw rfl)
    | with_reducible apply within_setReg (sub_of hw rfl)
    | with_reducible apply within_setMxe (sub_of hw rfl)
    | with_reducible apply within_foldl
    | with_reducible apply within_foldl_pair
    | with_reducible apply within_foldl_read
    | with_reducible apply within_foldl_replay
    | with_reducible exact within_refl _
    | with_reducible apply within_ite
    | with_reducible apply within_ite_pair
    | with_reducible exact Or.inl rfl
    | exact Or.inr (hw (by decide))
    | exact hw (by decide)
    | with_reducible refine within_pair (by assumption) ?_
    | (intro _ _ _; try dsimp only)
    | (intro _ _; try dsimp only)
    | split
    | with_reducible apply within_mk)

theorem within_pushRecord {ks : List Comp} {s0 : State} {s : State} {c f} (hw : [.regs, .err] ⊆ ks) (h : s0.within ks s) :
    s0.within ks (State.pushRecord s c f) := by
  unfold State.pushRecord
  try dsimp only
  repeat' (first
    | with_reducible assumption
    | with_reducible apply within_raiseAt (sub_of hw rfl)
    | with_reducible apply within_setReg (sub_of hw rfl)
    | with_reducible apply within_foldl
    | with_reducible apply within_foldl_pair
    | with_reducible apply within_foldl_read
    | with_reducible apply within_foldl_replay
    | with_reducible exact within_refl _
    | with_reducible apply within_ite
    | with_reducible apply within_ite_pair
    | with_reducible exact Or.inl rfl
    | exact Or.inr (hw (by decide))
    | exact hw (by decide)
    | with_reducible refine within_pair (by assumption) ?_
    | (intro _ _ _; try dsimp only)
    | (intro _ _; try dsimp only)
    | split
    | with_reducible apply within_mk)

theorem within_pushRecords {ks : List Comp} {s0 : State} {s : State} {c} (hw : [.regs, .cells, .err] ⊆ ks) (h : s0.within ks s) :
    s0.within ks (State.pushRecords s c) := by
  unfold State.pushRecords
  try dsimp only
  repeat' (first
    | with_reducible assumption
    | with_reducible apply within_pushRecord (sub_of hw rfl)
    | with_reducible apply within_setMxe (sub_of hw rfl)
    | with_reducible apply within_foldl
    | with_reducible apply within_foldl_pair
    | with_reducible apply within_foldl_read
    | with_reducible apply within_foldl_replay
    | with_reducible exact within_refl _
    | with_reducible apply within_ite
    | with_reducible apply within_ite_pair
    | with_reducible exact Or.inl rfl
    | exact Or.inr (hw (by decide))
    | exact hw (by decide)
    | with_reducible refine within_pair (by assumption) ?_
    | (intro _ _ _; try dsimp only)
    | (intro _ _; try dsimp only)
    | split
    | with_reducible apply within_mk)

theorem within_mxeCycle {ks : List Comp} {s0 : State} {a0 : State} {c} (hw : [.regs, .cells, .regions, .err, .free] ⊆ ks) (h : s0.within ks a0) :
    s0.within ks (State.mxeCycle a0 c) := by
  unfold State.mxeCycle
  try dsimp only
  repeat' (first
    | with_reducible assumption
    | with_reducible apply within_mxeStages (sub_of hw rfl)
    | with_reducible apply within_mxeFlushNow (sub_of hw rfl)
    | with_reducible apply within_pushRecords (sub_of hw rfl)
    | with_reducible apply within_foldl
    | with_reducible apply within_foldl_pair
    | with_reducible apply within_foldl_read
    | with_reducible apply within_foldl_replay
    | with_reducible exact within_refl _
    | with_reducible apply within_ite
    | with_reducible apply within_ite_pair
    | with_reducible exact Or.inl rfl
    | exact Or.inr (hw (by decide))
    | exact hw (by decide)
    | with_reducible refine within_pair (by assumption) ?_
    | (intro _ _ _; try dsimp only)
    | (intro _ _; try dsimp only)
    | split
    | with_reducible apply within_mk)

theorem within_countCheck {ks : List Comp} {s0 : State} {s : State} {c a2} (hw : [.regs] ⊆ ks) (h : s0.within ks s) :
    s0.within ks (State.countCheck s c a2) := by
  unfold State.countCheck
  try dsimp only
  repeat' (first
    | with_reducible assumption
    | with_reducible apply within_incSatUn (sub_of hw rfl)
    | with_reducible apply within_ite
    | split)

theorem within_drainWords {ks : List Comp} {s0 : State} {s : State} {c off bs} (hw : [.regs, .mem, .cells, .err] ⊆ ks) (h : s0.within ks s) :
    s0.within ks (State.drainWords s c off bs) := by
  unfold State.drainWords
  try dsimp only
  repeat' (first
    | with_reducible assumption
    | with_reducible apply within_writeWord (sub_of hw rfl)
    | with_reducible apply within_readWord (sub_of hw rfl)
    | with_reducible apply within_wordRecord (sub_of hw rfl)
    | with_reducible apply within_poisonWord (sub_of hw rfl)
    | with_reducible apply within_foldl
    | with_reducible apply within_ite
    | with_reducible refine within_pair (by assumption) ?_
    | (intro _ _ _; try dsimp only)
    | (intro _ _; try dsimp only)
    | split)

theorem within_drainLine {ks : List Comp} {s0 : State} {s : State} {c} (hw : [.regs, .mem, .cells, .regions, .err] ⊆ ks) (h : s0.within ks s) :
    s0.within ks (State.drainLine s c) := by
  unfold State.drainLine
  try dsimp only
  repeat' (first
    | with_reducible assumption
    | with_reducible apply within_mxeRefuse (sub_of hw rfl)
    | with_reducible apply within_setMxe (sub_of hw rfl)
    | with_reducible apply within_drainWords (sub_of hw rfl)
    | with_reducible apply within_act (sub_of hw rfl)
    | with_reducible apply within_ite
    | split)

theorem within_easelReady {ks : List Comp} {s0 : State} {s : State} {c} (hw : [.cells] ⊆ ks) (h : s0.within ks s) :
    s0.within ks (State.easelReady s c) := by
  unfold State.easelReady
  try dsimp only
  repeat' (first
    | with_reducible assumption
    | with_reducible apply within_setMxe (sub_of hw rfl)
    | with_reducible apply within_ite
    | split)

theorem within_endReplay {ks : List Comp} {s0 : State} {s : State} {c} (hw : [.cells] ⊆ ks) (h : s0.within ks s) :
    s0.within ks (State.endReplay s c) := by
  unfold State.endReplay
  try dsimp only
  repeat' (first
    | with_reducible assumption
    | with_reducible apply within_setMxe (sub_of hw rfl)
    | with_reducible apply within_foldl
    | with_reducible apply within_foldl_pair
    | with_reducible apply within_foldl_read
    | with_reducible apply within_foldl_replay
    | with_reducible exact within_refl _
    | with_reducible apply within_ite
    | with_reducible apply within_ite_pair
    | with_reducible exact Or.inl rfl
    | exact Or.inr (hw (by decide))
    | exact hw (by decide)
    | with_reducible refine within_pair (by assumption) ?_
    | (intro _ _ _; try dsimp only)
    | (intro _ _; try dsimp only)
    | split
    | with_reducible apply within_mk)

theorem within_feedRange {ks : List Comp} {s0 : State} {r : MxeRead} {c off n} (hw : [.regs, .cells, .regions, .err, .free] ⊆ ks) (h : s0.within ks r.s) :
    s0.within ks (State.feedRange r c off n).s := by
  unfold State.feedRange
  try dsimp only
  repeat' (first
    | with_reducible assumption
    | with_reducible apply within_mxeLine (sub_of hw rfl)
    | with_reducible apply within_foldl
    | with_reducible apply within_foldl_pair
    | with_reducible apply within_foldl_read
    | with_reducible apply within_foldl_replay
    | with_reducible exact within_refl _
    | with_reducible apply within_ite
    | with_reducible apply within_ite_pair
    | with_reducible exact Or.inl rfl
    | exact Or.inr (hw (by decide))
    | exact hw (by decide)
    | with_reducible refine within_pair (by assumption) ?_
    | (intro _ _ _; try dsimp only)
    | (intro _ _; try dsimp only)
    | split
    | with_reducible apply within_mk)

theorem within_feedRanges {ks : List Comp} {s0 : State} {s : State} {c rs} (hw : [.regs, .cells, .regions, .err, .free] ⊆ ks) (h : s0.within ks s) :
    s0.within ks (State.feedRanges s c rs).s := by
  unfold State.feedRanges
  try dsimp only
  repeat' (first
    | with_reducible assumption
    | with_reducible apply within_feedRange (sub_of hw rfl)
    | with_reducible apply within_foldl
    | with_reducible apply within_foldl_pair
    | with_reducible apply within_foldl_read
    | with_reducible apply within_foldl_replay
    | with_reducible exact within_refl _
    | with_reducible apply within_ite
    | with_reducible apply within_ite_pair
    | with_reducible exact Or.inl rfl
    | exact Or.inr (hw (by decide))
    | exact hw (by decide)
    | with_reducible refine within_pair (by assumption) ?_
    | (intro _ _ _; try dsimp only)
    | (intro _ _; try dsimp only)
    | split
    | with_reducible apply within_mk)

theorem within_fetchNote {ks : List Comp} {s0 : State} {s : State} {c p rows} (hw : [.cells] ⊆ ks) (h : s0.within ks s) :
    s0.within ks (State.fetchNote s c p rows) := by
  unfold State.fetchNote
  try dsimp only
  repeat' (first
    | with_reducible assumption
    | with_reducible apply within_setMxe (sub_of hw rfl)
    | with_reducible apply within_foldl
    | with_reducible apply within_foldl_pair
    | with_reducible apply within_foldl_read
    | with_reducible apply within_foldl_replay
    | with_reducible exact within_refl _
    | with_reducible apply within_ite
    | with_reducible apply within_ite_pair
    | with_reducible exact Or.inl rfl
    | exact Or.inr (hw (by decide))
    | exact hw (by decide)
    | with_reducible refine within_pair (by assumption) ?_
    | (intro _ _ _; try dsimp only)
    | (intro _ _; try dsimp only)
    | split
    | with_reducible apply within_mk)

theorem within_fetchScales {ks : List Comp} {s0 : State} {s : State} {c p} (hw : [.regs, .cells, .regions, .err, .free] ⊆ ks) (h : s0.within ks s) :
    s0.within ks (State.fetchScales s c p) := by
  unfold State.fetchScales
  try dsimp only
  repeat' (first
    | with_reducible assumption
    | with_reducible apply within_mxeLine (sub_of hw rfl)
    | with_reducible apply within_fetchNote (sub_of hw rfl)
    | with_reducible apply within_setMxe (sub_of hw rfl)
    | with_reducible apply within_foldl
    | with_reducible apply within_foldl_pair
    | with_reducible apply within_foldl_read
    | with_reducible apply within_foldl_replay
    | with_reducible exact within_refl _
    | with_reducible apply within_ite
    | with_reducible apply within_ite_pair
    | with_reducible exact Or.inl rfl
    | exact Or.inr (hw (by decide))
    | exact hw (by decide)
    | with_reducible refine within_pair (by assumption) ?_
    | (intro _ _ _; try dsimp only)
    | (intro _ _; try dsimp only)
    | split
    | with_reducible apply within_mk)

theorem within_rawDone {ks : List Comp} {s0 : State} {s : State} {c p} (hw : [.cells, .err] ⊆ ks) (h : s0.within ks s) :
    s0.within ks (State.rawDone s c p) := by
  unfold State.rawDone
  try dsimp only
  repeat' (first
    | with_reducible assumption
    | with_reducible apply within_fetchNote (sub_of hw rfl)
    | with_reducible apply within_raiseAt (sub_of hw rfl)
    | with_reducible apply within_foldl
    | with_reducible apply within_foldl_pair
    | with_reducible apply within_foldl_read
    | with_reducible apply within_foldl_replay
    | with_reducible exact within_refl _
    | with_reducible apply within_ite
    | with_reducible apply within_ite_pair
    | with_reducible exact Or.inl rfl
    | exact Or.inr (hw (by decide))
    | exact hw (by decide)
    | with_reducible refine within_pair (by assumption) ?_
    | (intro _ _ _; try dsimp only)
    | (intro _ _; try dsimp only)
    | split
    | with_reducible apply within_mk)

theorem within_fetchRaw {ks : List Comp} {s0 : State} {s : State} {c p} (hw : [.regs, .cells, .regions, .err, .free] ⊆ ks) (h : s0.within ks s) :
    s0.within ks (State.fetchRaw s c p) := by
  unfold State.fetchRaw
  try dsimp only
  repeat' (first
    | with_reducible assumption
    | with_reducible apply within_mxeLine (sub_of hw rfl)
    | with_reducible apply within_fetchNote (sub_of hw rfl)
    | with_reducible apply within_rawDone (sub_of hw rfl)
    | with_reducible apply within_foldl
    | with_reducible apply within_foldl_pair
    | with_reducible apply within_foldl_read
    | with_reducible apply within_foldl_replay
    | with_reducible exact within_refl _
    | with_reducible apply within_ite
    | with_reducible apply within_ite_pair
    | with_reducible exact Or.inl rfl
    | exact Or.inr (hw (by decide))
    | exact hw (by decide)
    | with_reducible refine within_pair (by assumption) ?_
    | (intro _ _ _; try dsimp only)
    | (intro _ _; try dsimp only)
    | split
    | with_reducible apply within_mk)

theorem within_fetchRowScales {ks : List Comp} {s0 : State} {s : State} {c p} (hw : [.regs, .cells, .regions, .err, .free] ⊆ ks) (h : s0.within ks s) :
    s0.within ks (State.fetchRowScales s c p) := by
  unfold State.fetchRowScales
  try dsimp only
  repeat' (first
    | with_reducible assumption
    | with_reducible apply within_mxeLine (sub_of hw rfl)
    | with_reducible apply within_fetchNote (sub_of hw rfl)
    | with_reducible apply within_foldl
    | with_reducible apply within_foldl_pair
    | with_reducible apply within_foldl_read
    | with_reducible apply within_foldl_replay
    | with_reducible exact within_refl _
    | with_reducible apply within_ite
    | with_reducible apply within_ite_pair
    | with_reducible exact Or.inl rfl
    | exact Or.inr (hw (by decide))
    | exact hw (by decide)
    | with_reducible refine within_pair (by assumption) ?_
    | (intro _ _ _; try dsimp only)
    | (intro _ _; try dsimp only)
    | split
    | with_reducible apply within_mk)

theorem within_fetchRows {ks : List Comp} {s0 : State} {s : State} {c p} (hw : [.regs, .cells, .regions, .err, .free] ⊆ ks) (h : s0.within ks s) :
    s0.within ks (State.fetchRows s c p) := by
  unfold State.fetchRows
  try dsimp only
  repeat' (first
    | with_reducible assumption
    | with_reducible apply within_mxeLine (sub_of hw rfl)
    | with_reducible apply within_fetchNote (sub_of hw rfl)
    | with_reducible apply within_foldl
    | with_reducible apply within_foldl_pair
    | with_reducible apply within_foldl_read
    | with_reducible apply within_foldl_replay
    | with_reducible exact within_refl _
    | with_reducible apply within_ite
    | with_reducible apply within_ite_pair
    | with_reducible exact Or.inl rfl
    | exact Or.inr (hw (by decide))
    | exact hw (by decide)
    | with_reducible refine within_pair (by assumption) ?_
    | (intro _ _ _; try dsimp only)
    | (intro _ _; try dsimp only)
    | split
    | with_reducible apply within_mk)

theorem within_feederFetch {ks : List Comp} {s0 : State} {s : State} {c} (hw : [.regs, .cells, .regions, .err, .free] ⊆ ks) (h : s0.within ks s) :
    s0.within ks (State.feederFetch s c) := by
  unfold State.feederFetch
  try dsimp only
  repeat' (first
    | with_reducible assumption
    | with_reducible apply within_fetchScales (sub_of hw rfl)
    | with_reducible apply within_fetchRaw (sub_of hw rfl)
    | with_reducible apply within_fetchRowScales (sub_of hw rfl)
    | with_reducible apply within_fetchRows (sub_of hw rfl)
    | with_reducible apply within_ite
    | split)

theorem within_rowLost {ks : List Comp} {s0 : State} {s : State} {c outcome r} (hw : [.regs, .cells, .err] ⊆ ks) (h : s0.within ks s) :
    s0.within ks (State.rowLost s c outcome r) := by
  unfold State.rowLost
  try dsimp only
  repeat' (first
    | with_reducible assumption
    | with_reducible apply within_setMxe (sub_of hw rfl)
    | with_reducible apply within_checkRecord (sub_of hw rfl))

theorem within_rowFail {ks : List Comp} {s0 : State} {s : State} {c r journalBad} (hw : [.regs, .cells, .err] ⊆ ks) (h : s0.within ks s) :
    s0.within ks (State.rowFail s c r journalBad) := by
  unfold State.rowFail
  try dsimp only
  repeat' (first
    | with_reducible assumption
    | with_reducible apply within_setMxe (sub_of hw rfl)
    | with_reducible apply within_rowLost (sub_of hw rfl)
    | with_reducible apply within_raise (sub_of hw rfl)
    | with_reducible apply within_setReg (sub_of hw rfl)
    | with_reducible apply within_ite)

theorem within_rowPassed {ks : List Comp} {s0 : State} {s : State} {c r} (hw : [.cells] ⊆ ks) (h : s0.within ks s) :
    s0.within ks (State.rowPassed s c r) := by
  unfold State.rowPassed
  try dsimp only
  repeat' (first
    | with_reducible assumption
    | with_reducible apply within_setMxe (sub_of hw rfl)
    | with_reducible apply within_foldl
    | with_reducible apply within_foldl_pair
    | with_reducible apply within_foldl_read
    | with_reducible apply within_foldl_replay
    | with_reducible exact within_refl _
    | with_reducible apply within_ite
    | with_reducible apply within_ite_pair
    | with_reducible exact Or.inl rfl
    | exact Or.inr (hw (by decide))
    | exact hw (by decide)
    | with_reducible refine within_pair (by assumption) ?_
    | (intro _ _ _; try dsimp only)
    | (intro _ _; try dsimp only)
    | split
    | with_reducible apply within_mk)

theorem within_finalCheck {ks : List Comp} {s0 : State} {s : State} {c journalBad} (hw : [.regs, .cells, .err] ⊆ ks) (h : s0.within ks s) :
    s0.within ks (State.finalCheck s c journalBad) := by
  unfold State.finalCheck
  try dsimp only
  repeat' (first
    | with_reducible assumption
    | with_reducible apply within_judgeCycle (sub_of hw rfl)
    | with_reducible apply within_countCheck (sub_of hw rfl)
    | with_reducible apply within_setMxe (sub_of hw rfl)
    | with_reducible apply within_rowFail (sub_of hw rfl)
    | with_reducible apply within_rowPassed (sub_of hw rfl)
    | with_reducible apply within_ite
    | split)

theorem within_freezeExpire {ks : List Comp} {s0 : State} {a0 : State} {c} (hw : [.regs, .cells, .err] ⊆ ks) (h : s0.within ks a0) :
    s0.within ks (State.freezeExpire a0 c) := by
  unfold State.freezeExpire
  try dsimp only
  repeat' (first
    | with_reducible assumption
    | with_reducible apply within_judgeCycle (sub_of hw rfl)
    | with_reducible apply within_raiseAt (sub_of hw rfl)
    | with_reducible apply within_setMxe (sub_of hw rfl)
    | with_reducible apply within_ite)

theorem within_loadSegment {ks : List Comp} {s0 : State} {s : State} {c} (hw : [.cells] ⊆ ks) (h : s0.within ks s) :
    s0.within ks (State.loadSegment s c) := by
  unfold State.loadSegment
  try dsimp only
  repeat' (first
    | with_reducible assumption
    | with_reducible apply within_setMxe (sub_of hw rfl)
    | with_reducible apply within_ite
    | split)

theorem within_passComplete {ks : List Comp} {s0 : State} {s : State} {c} (hw : [.regs, .cells] ⊆ ks) (h : s0.within ks s) :
    s0.within ks (State.passComplete s c) := by
  unfold State.passComplete
  try dsimp only
  repeat' (first
    | with_reducible assumption
    | with_reducible apply within_incWrap (sub_of hw rfl)
    | with_reducible apply within_setMxe (sub_of hw rfl)
    | with_reducible apply within_ite
    | split)

theorem within_patternLoad {ks : List Comp} {s0 : State} {s : State} {c} (hw : [.cells] ⊆ ks) (h : s0.within ks s) :
    s0.within ks (State.patternLoad s c) := by
  unfold State.patternLoad
  try dsimp only
  repeat' (first
    | with_reducible assumption
    | with_reducible apply within_setMxe (sub_of hw rfl)
    | with_reducible apply within_ite
    | split)

theorem within_presentRow {ks : List Comp} {s0 : State} {s : State} {c p u} (hw : [.cells, .regions] ⊆ ks) (h : s0.within ks s) :
    s0.within ks (State.presentRow s c p u) := by
  unfold State.presentRow
  try dsimp only
  repeat' (first
    | with_reducible assumption
    | with_reducible apply within_act (sub_of hw rfl)
    | with_reducible apply within_setMxe (sub_of hw rfl))

theorem within_statRanges {ks : List Comp} {s0 : State} {s : State} {c rs} (hw : [.regs, .cells, .regions, .err, .free] ⊆ ks) (h : s0.within ks s) :
    s0.within ks (State.statRanges s c rs).s := by
  unfold State.statRanges
  try dsimp only
  repeat' (first
    | with_reducible assumption
    | with_reducible apply within_mxeLine (sub_of hw rfl)
    | with_reducible apply within_foldl
    | with_reducible apply within_foldl_pair
    | with_reducible apply within_foldl_read
    | with_reducible apply within_foldl_replay
    | with_reducible exact within_refl _
    | with_reducible apply within_ite
    | with_reducible apply within_ite_pair
    | with_reducible exact Or.inl rfl
    | exact Or.inr (hw (by decide))
    | exact hw (by decide)
    | with_reducible refine within_pair (by assumption) ?_
    | (intro _ _ _; try dsimp only)
    | (intro _ _; try dsimp only)
    | split
    | with_reducible apply within_mk)

theorem within_replayEntry {ks : List Comp} {s0 : State} {a : State.Replay} {W c slot e} (hw : [.regs, .cells, .regions, .err, .free] ⊆ ks) (h : s0.within ks a.s) :
    s0.within ks (State.replayEntry a W c slot e).s := by
  unfold State.replayEntry
  try dsimp only
  repeat' (first
    | with_reducible assumption
    | with_reducible apply within_statRanges (sub_of hw rfl)
    | with_reducible apply within_feedRanges (sub_of hw rfl)
    | split)

theorem within_replayRun {ks : List Comp} {s0 : State} {s : State} {c r u} (hw : [.regs, .cells, .regions, .err, .free] ⊆ ks) (h : s0.within ks s) :
    s0.within ks (State.replayRun s c r u).s := by
  unfold State.replayRun
  try dsimp only
  repeat' (first
    | with_reducible assumption
    | with_reducible apply within_replayEntry (sub_of hw rfl)
    | with_reducible apply within_foldl_replay
    | (intro _ _ _; try dsimp only)
    | (intro _ _; try dsimp only))

theorem within_replayVerdict {ks : List Comp} {s0 : State} {s : State} {c u} (hw : [.regs, .cells, .regions, .err, .free] ⊆ ks) (h : s0.within ks s) :
    s0.within ks (State.replayVerdict s c u) := by
  unfold State.replayVerdict
  try dsimp only
  repeat' (first
    | with_reducible assumption
    | with_reducible apply within_replayRun (sub_of hw rfl)
    | with_reducible apply within_endReplay (sub_of hw rfl)
    | with_reducible apply within_setMxe (sub_of hw rfl)
    | with_reducible apply within_rowPassed (sub_of hw rfl)
    | with_reducible apply within_checkRecord (sub_of hw rfl)
    | with_reducible apply within_rowLost (sub_of hw rfl)
    | with_reducible apply within_ite
    | split)

theorem within_streamRow {ks : List Comp} {s0 : State} {s : State} {c u} (hw : [.regs, .cells, .regions] ⊆ ks) (h : s0.within ks s) :
    s0.within ks (State.streamRow s c u) := by
  unfold State.streamRow
  try dsimp only
  repeat' (first
    | with_reducible assumption
    | with_reducible apply within_judgeCycle (sub_of hw rfl)
    | with_reducible apply within_presentRow (sub_of hw rfl)
    | with_reducible apply within_ite
    | split)

theorem within_waveEnter {ks : List Comp} {s0 : State} {s : State} {c} (hw : [.regs, .cells] ⊆ ks) (h : s0.within ks s) :
    s0.within ks (State.waveEnter s c) := by
  unfold State.waveEnter
  try dsimp only
  repeat' (first
    | with_reducible assumption
    | with_reducible apply within_judgeCycle (sub_of hw rfl)
    | with_reducible apply within_easelStall (sub_of hw rfl)
    | with_reducible apply within_setMxe (sub_of hw rfl)
    | with_reducible apply within_ite
    | split)

theorem within_execBallastRow {ks : List Comp} (s : State) {c upset} (hw : [.cells, .regions, .err] ⊆ ks) :
    ∃ z, execBallastRow c upset s = .next z ∧ s.within ks z := by
  unfold execBallastRow
  exact ⟨_, rfl, by
    repeat' (first
      | with_reducible exact within_refl _
      | with_reducible apply within_ballastRow (sub_of hw rfl))⟩

theorem within_execDrainLineWrite {ks : List Comp} (s : State) {c} (hw : [.regs, .mem, .cells, .regions, .err] ⊆ ks) :
    ∃ z, execDrainLineWrite c s = .next z ∧ s.within ks z := by
  unfold execDrainLineWrite
  exact ⟨_, rfl, by
    repeat' (first
      | with_reducible exact within_refl _
      | with_reducible apply within_drainLine (sub_of hw rfl))⟩

theorem within_execEaselLoadSegment {ks : List Comp} (s : State) {c} (hw : [.cells] ⊆ ks) :
    ∃ z, execEaselLoadSegment c s = .next z ∧ s.within ks z := by
  unfold execEaselLoadSegment
  exact ⟨_, rfl, by
    repeat' (first
      | with_reducible exact within_refl _
      | with_reducible apply within_loadSegment (sub_of hw rfl))⟩

theorem within_execEaselReady {ks : List Comp} (s : State) {c} (hw : [.cells] ⊆ ks) :
    ∃ z, execEaselReady c s = .next z ∧ s.within ks z := by
  unfold execEaselReady
  exact ⟨_, rfl, by
    repeat' (first
      | with_reducible exact within_refl _
      | with_reducible apply within_easelReady (sub_of hw rfl))⟩

theorem within_execFeederFetch {ks : List Comp} (s : State) {c} (hw : [.regs, .cells, .regions, .err, .free] ⊆ ks) :
    ∃ z, execFeederFetch c s = .next z ∧ s.within ks z := by
  unfold execFeederFetch
  exact ⟨_, rfl, by
    repeat' (first
      | with_reducible exact within_refl _
      | with_reducible apply within_feederFetch (sub_of hw rfl))⟩

theorem within_execFinalRowCheck {ks : List Comp} (s : State) {c journalBad} (hw : [.regs, .cells, .err] ⊆ ks) :
    ∃ z, execFinalRowCheck c journalBad s = .next z ∧ s.within ks z := by
  unfold execFinalRowCheck
  exact ⟨_, rfl, by
    repeat' (first
      | with_reducible exact within_refl _
      | with_reducible apply within_finalCheck (sub_of hw rfl))⟩

theorem within_execFreezeWatchdogExpire {ks : List Comp} (s : State) {c} (hw : [.regs, .cells, .err] ⊆ ks) :
    ∃ z, execFreezeWatchdogExpire c s = .next z ∧ s.within ks z := by
  unfold execFreezeWatchdogExpire
  exact ⟨_, rfl, by
    repeat' (first
      | with_reducible exact within_refl _
      | with_reducible apply within_freezeExpire (sub_of hw rfl))⟩

theorem within_execMxeArithClrArith {ks : List Comp} (s : State) {c} (hw : [.regs, .wrote] ⊆ ks) :
    ∃ z, execMxeArithClrArith c s = .next z ∧ s.within ks z := by
  unfold execMxeArithClrArith
  exact ⟨_, rfl, by
    repeat' (first
      | with_reducible exact within_refl _
      | with_reducible apply within_clearReg (sub_of hw rfl))⟩

theorem within_execMxeArithClrChk {ks : List Comp} (s : State) {c} (hw : [.regs, .wrote] ⊆ ks) :
    ∃ z, execMxeArithClrChk c s = .next z ∧ s.within ks z := by
  unfold execMxeArithClrChk
  exact ⟨_, rfl, by
    repeat' (first
      | with_reducible exact within_refl _
      | with_reducible apply within_clearReg (sub_of hw rfl))⟩

theorem within_execMxeArithClrRpl {ks : List Comp} (s : State) {c} (hw : [.regs, .wrote] ⊆ ks) :
    ∃ z, execMxeArithClrRpl c s = .next z ∧ s.within ks z := by
  unfold execMxeArithClrRpl
  exact ⟨_, rfl, by
    repeat' (first
      | with_reducible exact within_refl _
      | with_reducible apply within_setFld (sub_of hw rfl)
      | with_reducible apply within_noteWrite (sub_of hw rfl))⟩

theorem within_execMxeCntClrEasel {ks : List Comp} (s : State) {c} (hw : [.regs, .wrote] ⊆ ks) :
    ∃ z, execMxeCntClrEasel c s = .next z ∧ s.within ks z := by
  unfold execMxeCntClrEasel
  exact ⟨_, rfl, by
    repeat' (first
      | with_reducible exact within_refl _
      | with_reducible apply within_clearReg (sub_of hw rfl))⟩

theorem within_execMxeCntClrFreeze {ks : List Comp} (s : State) {c} (hw : [.regs, .wrote] ⊆ ks) :
    ∃ z, execMxeCntClrFreeze c s = .next z ∧ s.within ks z := by
  unfold execMxeCntClrFreeze
  exact ⟨_, rfl, by
    repeat' (first
      | with_reducible exact within_refl _
      | with_reducible apply within_clearReg (sub_of hw rfl))⟩

theorem within_execMxeDescPush {ks : List Comp} (s : State) {c} (hw : [.regs, .cells] ⊆ ks) :
    ∃ z, execMxeDescPush c s = .next z ∧ s.within ks z := by
  unfold execMxeDescPush
  exact ⟨_, rfl, by
    repeat' (first
      | with_reducible exact within_refl _
      | with_reducible apply within_mxePush (sub_of hw rfl))⟩

theorem within_execMxeFlush {ks : List Comp} (s : State) {c} (hw : [.cells] ⊆ ks) :
    ∃ z, execMxeFlush c s = .next z ∧ s.within ks z := by
  unfold execMxeFlush
  exact ⟨_, rfl, by
    repeat' (first
      | with_reducible exact within_refl _
      | with_reducible apply within_mxeFlush (sub_of hw rfl))⟩

theorem within_execMxeRplCtrlWrite {ks : List Comp} (s : State) {c en} (hw : [.regs, .cells] ⊆ ks) :
    ∃ z, execMxeRplCtrlWrite c en s = .next z ∧ s.within ks z := by
  unfold execMxeRplCtrlWrite
  exact ⟨_, rfl, by
    repeat' (first
      | with_reducible exact within_refl _
      | with_reducible apply within_rplCtrl (sub_of hw rfl))⟩

theorem within_execPassComplete {ks : List Comp} (s : State) {c} (hw : [.regs, .cells] ⊆ ks) :
    ∃ z, execPassComplete c s = .next z ∧ s.within ks z := by
  unfold execPassComplete
  exact ⟨_, rfl, by
    repeat' (first
      | with_reducible exact within_refl _
      | with_reducible apply within_passComplete (sub_of hw rfl))⟩

theorem within_execPatternLoad {ks : List Comp} (s : State) {c} (hw : [.cells] ⊆ ks) :
    ∃ z, execPatternLoad c s = .next z ∧ s.within ks z := by
  unfold execPatternLoad
  exact ⟨_, rfl, by
    repeat' (first
      | with_reducible exact within_refl _
      | with_reducible apply within_patternLoad (sub_of hw rfl))⟩

theorem within_execReplayVerdict {ks : List Comp} (s : State) {c u} (hw : [.regs, .cells, .regions, .err, .free] ⊆ ks) :
    ∃ z, execReplayVerdict c u s = .next z ∧ s.within ks z := by
  unfold execReplayVerdict
  exact ⟨_, rfl, by
    repeat' (first
      | with_reducible exact within_refl _
      | with_reducible apply within_replayVerdict (sub_of hw rfl))⟩

theorem within_execStreamedRowPresent {ks : List Comp} (s : State) {c u} (hw : [.regs, .cells, .regions] ⊆ ks) :
    ∃ z, execStreamedRowPresent c u s = .next z ∧ s.within ks z := by
  unfold execStreamedRowPresent
  exact ⟨_, rfl, by
    repeat' (first
      | with_reducible exact within_refl _
      | with_reducible apply within_streamRow (sub_of hw rfl))⟩

theorem within_execSwapWaveEnter {ks : List Comp} (s : State) {c} (hw : [.regs, .cells] ⊆ ks) :
    ∃ z, execSwapWaveEnter c s = .next z ∧ s.within ks z := by
  unfold execSwapWaveEnter
  exact ⟨_, rfl, by
    repeat' (first
      | with_reducible exact within_refl _
      | with_reducible apply within_waveEnter (sub_of hw rfl))⟩

end Sys2Proof.Laws
end

