-- ==== Sys2Proof/Laws/WithinRepair.lean ====
section
/-! SUPPORT. What the operations of Machine/Repair.lean may change (`State.within`). -/

set_option Elab.async false
set_option linter.all false

namespace Sys2Proof.Laws

open Sys2Proof Sys2Proof.Machine Sys2Proof.Machine.State

theorem within_haltPanelOf {ks : List Comp} {s0 : State} {s : State} {c cls} (hw : [.err] ⊆ ks) (h : s0.within ks s) :
    s0.within ks (State.haltPanelOf s c cls) := by
  unfold State.haltPanelOf
  try dsimp only
  repeat' (first
    | with_reducible assumption
    | with_reducible apply within_ite
    | with_reducible exact Or.inl rfl
    | exact Or.inr (hw (by decide))
    | exact hw (by decide)
    | split
    | with_reducible apply within_mk)

theorem within_confirmFuse {ks : List Comp} {s0 : State} {s : State} {typ source die loc} (hw : [.flash, .err] ⊆ ks) (h : s0.within ks s) :
    s0.within ks (State.confirmFuse s typ source die loc) := by
  unfold State.confirmFuse
  try dsimp only
  repeat' (first
    | with_reducible assumption
    | with_reducible apply within_raise (sub_of hw rfl)
    | with_reducible apply within_ite
    | with_reducible exact Or.inl rfl
    | exact Or.inr (hw (by decide))
    | exact hw (by decide)
    | with_reducible apply within_mk)

theorem within_quickRemap {ks : List Comp} {s0 : State} {s : State} {d py} (hw : [.regs, .boot] ⊆ ks) (h : s0.within ks s) :
    s0.within ks (State.quickRemap s d py) := by
  unfold State.quickRemap
  try dsimp only
  repeat' (first
    | with_reducible assumption
    | with_reducible apply within_setReg (sub_of hw rfl)
    | with_reducible apply within_ite
    | with_reducible exact Or.inl rfl
    | exact Or.inr (hw (by decide))
    | exact hw (by decide)
    | with_reducible apply within_mk)

theorem within_canvasEvent {ks : List Comp} {s0 : State} {s : State} (hw : [.regs, .mem, .hports, .out] ⊆ ks) (h : s0.within ks s) :
    s0.within ks (State.canvasEvent s) := by
  unfold State.canvasEvent
  try dsimp only
  repeat' (first
    | with_reducible assumption
    | with_reducible apply within_raiseAll (sub_of hw rfl)
    | with_reducible apply within_event (sub_of hw rfl))

theorem within_makeHole {ks : List Comp} {s0 : State} {s : State} {c} (hw : [.cells, .boot] ⊆ ks) (h : s0.within ks s) :
    s0.within ks (State.makeHole s c) := by
  unfold State.makeHole
  try dsimp only
  repeat' (first
    | with_reducible assumption
    | with_reducible apply within_setCell (sub_of hw rfl)
    | with_reducible apply within_ite
    | with_reducible exact Or.inl rfl
    | exact Or.inr (hw (by decide))
    | exact hw (by decide)
    | with_reducible apply within_mk)

theorem within_cellFail {ks : List Comp} {s0 : State} {s : State} {c source cls} (hw : [.cells, .boot, .flash, .err] ⊆ ks) (h : s0.within ks s) :
    s0.within ks (State.cellFail s c source cls) := by
  unfold State.cellFail
  try dsimp only
  repeat' (first
    | with_reducible assumption
    | with_reducible apply within_confirmFuse (sub_of hw rfl)
    | with_reducible apply within_makeHole (sub_of hw rfl)
    | with_reducible apply within_haltPanelOf (sub_of hw rfl))

theorem within_holdRow {ks : List Comp} {s0 : State} {s : State} {d py} (hw : [.cells] ⊆ ks) (h : s0.within ks s) :
    s0.within ks (State.holdRow s d py) := by
  unfold State.holdRow
  try dsimp only
  repeat' (first
    | with_reducible assumption
    | with_reducible apply within_setCell (sub_of hw rfl)
    | with_reducible apply within_foldl
    | with_reducible apply within_ite
    | (intro _ _ _; try dsimp only)
    | (intro _ _; try dsimp only))

theorem within_writeSkips {ks : List Comp} {s0 : State} {s : State} {d py src} (hw : [.regs] ⊆ ks) (h : s0.within ks s) :
    s0.within ks (State.writeSkips s d py src) := by
  unfold State.writeSkips
  try dsimp only
  repeat' (first
    | with_reducible assumption
    | with_reducible apply within_setReg (sub_of hw rfl))

theorem within_skipCounts {ks : List Comp} {s0 : State} {s : State} {d} (hw : [.regs] ⊆ ks) (h : s0.within ks s) :
    s0.within ks (State.skipCounts s d) := by
  unfold State.skipCounts
  try dsimp only
  repeat' (first
    | with_reducible assumption
    | with_reducible apply within_setFld (sub_of hw rfl)
    | with_reducible apply within_foldl
    | with_reducible apply within_foldl_pair
    | with_reducible exact within_refl _
    | with_reducible apply within_ite
    | with_reducible apply within_ite_pair
    | with_reducible exact Or.inl rfl
    | exact Or.inr (hw (by decide))
    | exact hw (by decide)
    | with_reducible refine within_pair (by assumption) ?_
    | (intro _ _ _; try dsimp only)
    | (intro _ _; try dsimp only)
    | split
    | with_reducible apply within_mk)

theorem within_raiseFor {ks : List Comp} {s0 : State} {s : State} {sev cls loc detail cs} (hw : [.err] ⊆ ks) (h : s0.within ks s) :
    s0.within ks (State.raiseFor s sev cls loc detail cs) := by
  unfold State.raiseFor
  try dsimp only
  repeat' (first
    | with_reducible assumption
    | with_reducible apply within_haltPanelOf (sub_of hw rfl)
    | with_reducible apply within_raiseSev (sub_of hw rfl)
    | with_reducible apply within_foldl
    | with_reducible apply within_foldl_pair
    | with_reducible exact within_refl _
    | with_reducible apply within_ite
    | with_reducible apply within_ite_pair
    | with_reducible exact Or.inl rfl
    | exact Or.inr (hw (by decide))
    | exact hw (by decide)
    | with_reducible refine within_pair (by assumption) ?_
    | (intro _ _ _; try dsimp only)
    | (intro _ _; try dsimp only)
    | split
    | with_reducible apply within_mk)

theorem within_remapComplete {ks : List Comp} {s0 : State} {s : State} (hw : [.regs, .mem, .cells, .hports, .boot, .out] ⊆ ks) (h : s0.within ks s) :
    s0.within ks (State.remapComplete s) := by
  unfold State.remapComplete
  split
  · assumption
  · extract_lets g b s1 s2 s3 b3
    have h1 : s0.within ks s1 := by
      with_reducible apply within_mk
      all_goals first | assumption | with_reducible exact Or.inl rfl | exact Or.inr (hw (by decide))
    have h3 : s0.within ks s3 := within_canvasEvent (sub_of hw rfl) (within_setReg (sub_of hw rfl) (within_incWrap (sub_of hw rfl)
      (within_skipCounts (sub_of hw rfl) (within_holdRow (sub_of hw rfl) (within_writeSkips (sub_of hw rfl) h1)))))
    clear_value b3
    clear_value s3
    refine within_foldl _ (fun _ _ ht => within_quickRemap (sub_of hw rfl) ht) ?_
    with_reducible apply within_mk
    all_goals first | assumption | with_reducible exact Or.inl rfl | exact Or.inr (hw (by decide))

theorem within_execCellFailInService {ks : List Comp} (s : State) {c source} (hw : [.cells, .boot, .flash, .err] ⊆ ks) :
    ∃ z, execCellFailInService c source s = .next z ∧ s.within ks z := by
  unfold execCellFailInService
  exact ⟨_, rfl, by
    repeat' (first
      | with_reducible exact within_refl _
      | with_reducible apply within_cellFail (sub_of hw rfl))⟩

theorem within_execQuickRemap {ks : List Comp} (s : State) {d py} (hw : [.regs, .boot] ⊆ ks) :
    ∃ z, execQuickRemap d py s = .next z ∧ s.within ks z := by
  unfold execQuickRemap
  exact ⟨_, rfl, by
    repeat' (first
      | with_reducible exact within_refl _
      | with_reducible apply within_quickRemap (sub_of hw rfl))⟩

theorem within_execQuickRemapComplete {ks : List Comp} (s : State) (hw : [.regs, .mem, .cells, .hports, .boot, .out] ⊆ ks) :
    ∃ z, execQuickRemapComplete s = .next z ∧ s.within ks z := by
  unfold execQuickRemapComplete
  exact ⟨_, rfl, by
    repeat' (first
      | with_reducible exact within_refl _
      | with_reducible apply within_remapComplete (sub_of hw rfl))⟩

end Sys2Proof.Laws
end

