-- ==== Sys2Proof/Laws/WithinClock.lean ====
section
/-! SUPPORT. What the operations of Machine/Clock.lean may change (`State.within`). -/

set_option Elab.async false
set_option linter.all false

namespace Sys2Proof.Laws

open Sys2Proof Sys2Proof.Machine Sys2Proof.Machine.State

theorem within_railVset {ks : List Comp} {s0 : State} {s : State} {r rail v} (hw : [.regs] ⊆ ks) (h : s0.within ks s) :
    s0.within ks (State.railVset s r rail v) := by
  unfold State.railVset
  try dsimp only
  repeat' (first
    | with_reducible assumption
    | with_reducible apply within_setFld (sub_of hw rfl)
    | with_reducible apply within_foldl
    | with_reducible apply within_foldl_pair
    | with_reducible exact within_refl _
    | with_reducible apply within_ite
    | with_reducible apply within_ite_pair
    | with_reducible exact Or.inl rfl
    | exact Or.inr (hw (by decide))
    | exact hw (by decide)
    | with_reducible refine within_pair (by assumption) ?_
    | (intro _ _ _; try dsimp only)
    | (intro _ _; try dsimp only)
    | split
    | with_reducible apply within_mk)

theorem within_dropVset {ks : List Comp} {s0 : State} {s : State} {r} (hw : [.regs] ⊆ ks) (h : s0.within ks s) :
    s0.within ks (State.dropVset s r) := by
  unfold State.dropVset
  try dsimp only
  repeat' (first
    | with_reducible assumption
    | with_reducible apply within_railVset (sub_of hw rfl)
    | with_reducible apply within_foldl
    | with_reducible apply within_foldl_pair
    | with_reducible exact within_refl _
    | with_reducible apply within_ite
    | with_reducible apply within_ite_pair
    | with_reducible exact Or.inl rfl
    | exact Or.inr (hw (by decide))
    | exact hw (by decide)
    | with_reducible refine within_pair (by assumption) ?_
    | (intro _ _ _; try dsimp only)
    | (intro _ _; try dsimp only)
    | split
    | with_reducible apply within_mk)

theorem within_issueLevel {ks : List Comp} {s0 : State} {s : State} (hw : [.dies] ⊆ ks) (h : s0.within ks s) :
    s0.within ks (State.issueLevel s) := by
  unfold State.issueLevel
  try dsimp only
  repeat' (first
    | with_reducible assumption
    | with_reducible apply within_setDie (sub_of hw rfl)
    | with_reducible apply within_foldl
    | with_reducible apply within_ite
    | (intro _ _ _; try dsimp only)
    | (intro _ _; try dsimp only))

theorem within_clkUpset {ks : List Comp} {s0 : State} {s : State} {d} (hw : [.err] ⊆ ks) (h : s0.within ks s) :
    s0.within ks (State.clkUpset s d) := by
  unfold State.clkUpset
  try dsimp only
  repeat' (first
    | with_reducible assumption
    | with_reducible apply within_raise (sub_of hw rfl))

theorem within_critical {ks : List Comp} {s0 : State} {s : State} {r code} (hw : [.regs, .regions, .err] ⊆ ks) (h : s0.within ks s) :
    s0.within ks (State.critical s r code) := by
  unfold State.critical
  try dsimp only
  repeat' (first
    | with_reducible assumption
    | with_reducible apply within_setFld (sub_of hw rfl)
    | with_reducible apply within_setRegion (sub_of hw rfl)
    | with_reducible apply within_raise (sub_of hw rfl)
    | with_reducible apply within_ite)

theorem within_dieApply {ks : List Comp} {s0 : State} {s : State} {d} (hw : [.dies] ⊆ ks) (h : s0.within ks s) :
    s0.within ks (State.dieApply s d) := by
  unfold State.dieApply
  try dsimp only
  repeat' (first
    | with_reducible assumption
    | with_reducible apply within_setDie (sub_of hw rfl)
    | with_reducible apply within_ite)

theorem within_dieDecay {ks : List Comp} {s0 : State} {s : State} {d} (hw : [.regs, .dies] ⊆ ks) (h : s0.within ks s) :
    s0.within ks (State.dieDecay s d) := by
  unfold State.dieDecay
  try dsimp only
  repeat' (first
    | with_reducible assumption
    | with_reducible apply within_setDie (sub_of hw rfl)
    | with_reducible apply within_setFld (sub_of hw rfl)
    | with_reducible apply within_ite)

theorem within_droopEnd {ks : List Comp} {s0 : State} {s : State} {r mv good} (hw : [.regions] ⊆ ks) (h : s0.within ks s) :
    s0.within ks (State.droopEnd s r mv good) := by
  unfold State.droopEnd
  try dsimp only
  repeat' (first
    | with_reducible assumption
    | with_reducible apply within_setRegion (sub_of hw rfl)
    | with_reducible apply within_ite
    | split)

theorem within_droopFire {ks : List Comp} {s0 : State} {s : State} {r mv} (hw : [.regs, .regions] ⊆ ks) (h : s0.within ks s) :
    s0.within ks (State.droopFire s r mv) := by
  unfold State.droopFire
  try dsimp only
  repeat' (first
    | with_reducible assumption
    | with_reducible apply within_setRegion (sub_of hw rfl)
    | with_reducible apply within_incSatUn (sub_of hw rfl)
    | split)

theorem within_latchCounts {ks : List Comp} {s0 : State} {s : State} (hw : [.regions] ⊆ ks) (h : s0.within ks s) :
    s0.within ks (State.latchCounts s) := by
  unfold State.latchCounts
  try dsimp only
  repeat' (first
    | with_reducible assumption
    | with_reducible exact Or.inl rfl
    | exact Or.inr (hw (by decide))
    | exact hw (by decide)
    | with_reducible apply within_mk)

theorem within_lockLoss {ks : List Comp} {s0 : State} {s : State} {d f} (hw : [.regs, .w1cSet, .err] ⊆ ks) (h : s0.within ks s) :
    s0.within ks (State.lockLoss s d f) := by
  unfold State.lockLoss
  try dsimp only
  repeat' (first
    | with_reducible assumption
    | with_reducible apply within_raise (sub_of hw rfl)
    | with_reducible apply within_setW1c (sub_of hw rfl)
    | with_reducible apply within_setFld (sub_of hw rfl)
    | with_reducible apply within_ite)

theorem within_readMargin {ks : List Comp} {s0 : State} {s : State} {r m} (hw : [.regs] ⊆ ks) (h : s0.within ks s) :
    s0.within ks (State.readMargin s r m) := by
  unfold State.readMargin
  try dsimp only
  repeat' (first
    | with_reducible assumption
    | with_reducible apply within_setFld (sub_of hw rfl))

theorem within_stepVset {ks : List Comp} {s0 : State} {s : State} {r f} (hw : [.regs, .regions] ⊆ ks) (h : s0.within ks s) :
    s0.within ks (State.stepVset s r f) := by
  unfold State.stepVset
  try dsimp only
  repeat' (first
    | with_reducible assumption
    | with_reducible apply within_railVset (sub_of hw rfl)
    | with_reducible apply within_setRegion (sub_of hw rfl)
    | with_reducible apply within_foldl
    | with_reducible apply within_foldl_pair
    | with_reducible exact within_refl _
    | with_reducible apply within_ite
    | with_reducible apply within_ite_pair
    | with_reducible exact Or.inl rfl
    | exact Or.inr (hw (by decide))
    | exact hw (by decide)
    | with_reducible refine within_pair (by assumption) ?_
    | (intro _ _ _; try dsimp only)
    | (intro _ _; try dsimp only)
    | split
    | with_reducible apply within_mk)

theorem within_marginLow {ks : List Comp} {s0 : State} {s : State} {r up} (hw : [.regs, .regions, .err] ⊆ ks) (h : s0.within ks s) :
    s0.within ks (State.marginLow s r up) := by
  unfold State.marginLow
  try dsimp only
  repeat' (first
    | with_reducible assumption
    | with_reducible apply within_stepVset (sub_of hw rfl)
    | with_reducible apply within_setRegion (sub_of hw rfl)
    | with_reducible apply within_raise (sub_of hw rfl)
    | with_reducible apply within_ite)

theorem within_marginGood {ks : List Comp} {s0 : State} {s : State} {r m up} (hw : [.regs, .regions] ⊆ ks) (h : s0.within ks s) :
    s0.within ks (State.marginGood s r m up) := by
  unfold State.marginGood
  try dsimp only
  repeat' (first
    | with_reducible assumption
    | with_reducible apply within_stepVset (sub_of hw rfl)
    | with_reducible apply within_setRegion (sub_of hw rfl)
    | with_reducible apply within_ite)

theorem within_marginEval {ks : List Comp} {s0 : State} {s : State} {r m} (hw : [.regs, .regions, .err] ⊆ ks) (h : s0.within ks s) :
    s0.within ks (State.marginEval s r m) := by
  unfold State.marginEval
  try dsimp only
  repeat' (first
    | with_reducible assumption
    | with_reducible apply within_readMargin (sub_of hw rfl)
    | with_reducible apply within_setRegion (sub_of hw rfl)
    | with_reducible apply within_stepVset (sub_of hw rfl)
    | with_reducible apply within_marginLow (sub_of hw rfl)
    | with_reducible apply within_marginGood (sub_of hw rfl)
    | with_reducible apply within_ite)

theorem within_throttleApply {ks : List Comp} {s0 : State} {s : State} {d} (hw : [.regs, .dies] ⊆ ks) (h : s0.within ks s) :
    s0.within ks (State.throttleApply s d) := by
  unfold State.throttleApply
  try dsimp only
  repeat' (first
    | with_reducible assumption
    | with_reducible apply within_setFld (sub_of hw rfl)
    | with_reducible apply within_setDie (sub_of hw rfl)
    | with_reducible apply within_ite
    | split)

theorem within_execCriticalMargin {ks : List Comp} (s : State) {d rx ry code} (hw : [.regs, .regions, .err] ⊆ ks) :
    ∃ z, execCriticalMargin d rx ry code s = .next z ∧ s.within ks z := by
  unfold execCriticalMargin
  exact ⟨_, rfl, by
    repeat' (first
      | with_reducible exact within_refl _
      | with_reducible apply within_critical (sub_of hw rfl))⟩

theorem within_execDieThrottleApply {ks : List Comp} (s : State) {d} (hw : [.dies] ⊆ ks) :
    ∃ z, execDieThrottleApply d s = .next z ∧ s.within ks z := by
  unfold execDieThrottleApply
  exact ⟨_, rfl, by
    repeat' (first
      | with_reducible exact within_refl _
      | with_reducible apply within_dieApply (sub_of hw rfl))⟩

theorem within_execDieThrottleDecay {ks : List Comp} (s : State) {d} (hw : [.regs, .dies] ⊆ ks) :
    ∃ z, execDieThrottleDecay d s = .next z ∧ s.within ks z := by
  unfold execDieThrottleDecay
  exact ⟨_, rfl, by
    repeat' (first
      | with_reducible exact within_refl _
      | with_reducible apply within_dieDecay (sub_of hw rfl))⟩

theorem within_execDroopFire {ks : List Comp} (s : State) {d rx ry mv} (hw : [.regs, .regions] ⊆ ks) :
    ∃ z, execDroopFire d rx ry mv s = .next z ∧ s.within ks z := by
  unfold execDroopFire
  exact ⟨_, rfl, by
    repeat' (first
      | with_reducible exact within_refl _
      | with_reducible apply within_droopFire (sub_of hw rfl))⟩

theorem within_execDroopStretchEnd {ks : List Comp} (s : State) {d rx ry mv good} (hw : [.regions] ⊆ ks) :
    ∃ z, execDroopStretchEnd d rx ry mv good s = .next z ∧ s.within ks z := by
  unfold execDroopStretchEnd
  exact ⟨_, rfl, by
    repeat' (first
      | with_reducible exact within_refl _
      | with_reducible apply within_droopEnd (sub_of hw rfl))⟩

theorem within_execMarginEval {ks : List Comp} (s : State) {d rx ry m upset} (hw : [.regs, .regions, .err] ⊆ ks) :
    ∃ z, execMarginEval d rx ry m upset s = .next z ∧ s.within ks z := by
  unfold execMarginEval
  exact ⟨_, rfl, by
    repeat' (first
      | with_reducible exact within_refl _
      | with_reducible apply within_clkUpset (sub_of hw rfl)
      | with_reducible apply within_marginEval (sub_of hw rfl)
      | with_reducible apply within_ite)⟩

theorem within_execPllLockLoss {ks : List Comp} (s : State) {d f} (hw : [.regs, .w1cSet, .err] ⊆ ks) :
    ∃ z, execPllLockLoss d f s = .next z ∧ s.within ks z := by
  unfold execPllLockLoss
  exact ⟨_, rfl, by
    repeat' (first
      | with_reducible exact within_refl _
      | with_reducible apply within_lockLoss (sub_of hw rfl))⟩

theorem within_execThrottleApply {ks : List Comp} (s : State) (hw : [.regs, .dies] ⊆ ks) :
    ∃ z, execThrottleApply s = .next z ∧ s.within ks z := by
  unfold execThrottleApply
  exact ⟨_, rfl, by
    repeat' (first
      | with_reducible exact within_refl _
      | with_reducible assumption
      | with_reducible apply within_throttleApply (sub_of hw rfl)
      | with_reducible apply within_foldl
      | (intro _ _ _; try dsimp only)
      | (intro _ _; try dsimp only))⟩

end Sys2Proof.Laws
end

