-- ==== Sys2Proof/Laws/WithinPower.lean ====
section
/-! SUPPORT. What the operations of Machine/Power.lean may change (`State.within`). -/

set_option Elab.async false
set_option linter.all false

namespace Sys2Proof.Laws

open Sys2Proof Sys2Proof.Machine Sys2Proof.Machine.State

theorem within_regRes {ks : List Comp} {s0 : State} {s : State} {r st reason} (hw : [.regs] ⊆ ks) (h : s0.within ks s) :
    s0.within ks (State.regRes s r st reason) := by
  unfold State.regRes
  try dsimp only
  repeat' (first
    | with_reducible assumption
    | with_reducible apply within_setReg (sub_of hw rfl))

theorem within_regionRefuse {ks : List Comp} {s0 : State} {s : State} {r op reason} (hw : [.regs, .err] ⊆ ks) (h : s0.within ks s) :
    s0.within ks (State.regionRefuse s r op reason) := by
  unfold State.regionRefuse
  try dsimp only
  repeat' (first
    | with_reducible assumption
    | with_reducible apply within_raise (sub_of hw rfl)
    | with_reducible apply within_regRes (sub_of hw rfl))

theorem within_abandon {ks : List Comp} {s0 : State} {s : State} {r} (hw : [.regs, .regions, .err] ⊆ ks) (h : s0.within ks s) :
    s0.within ks (State.abandon s r) := by
  unfold State.abandon
  try dsimp only
  repeat' (first
    | with_reducible assumption
    | with_reducible apply within_regionRefuse (sub_of hw rfl)
    | with_reducible apply within_incSatUn (sub_of hw rfl)
    | with_reducible apply within_setRegion (sub_of hw rfl)
    | split)

theorem within_admitOne {ks : List Comp} {s0 : State} {a r} (hw : [.regs, .regions] ⊆ ks) (h : s0.within ks a.1) :
    s0.within ks (State.admitOne a r).1 := by
  unfold State.admitOne
  try dsimp only
  repeat' (first
    | with_reducible assumption
    | with_reducible apply within_setRegion (sub_of hw rfl)
    | with_reducible apply within_incSatUn (sub_of hw rfl)
    | with_reducible apply within_ite
    | with_reducible apply within_ite_pair
    | split)

theorem within_setSt {ks : List Comp} {s0 : State} {s : State} {r st} (hw : [.regions] ⊆ ks) (h : s0.within ks s) :
    s0.within ks (State.setSt s r st) := by
  unfold State.setSt
  try dsimp only
  repeat' (first
    | with_reducible assumption
    | with_reducible apply within_setRegion (sub_of hw rfl))

theorem within_dropRegs {ks : List Comp} {s0 : State} {s : State} {r on} (hw : [.regs] ⊆ ks) (h : s0.within ks s) :
    s0.within ks (State.dropRegs s r on) := by
  unfold State.dropRegs
  try dsimp only
  repeat' (first
    | with_reducible assumption
    | with_reducible exact Or.inl rfl
    | exact Or.inr (hw (by decide))
    | exact hw (by decide)
    | split
    | with_reducible apply within_mk_regs)

theorem within_cellOff {ks : List Comp} {s0 : State} {s : State} {c} (hw : [.cells] ⊆ ks) (h : s0.within ks s) :
    s0.within ks (State.cellOff s c) := by
  unfold State.cellOff
  try dsimp only
  repeat' (first
    | with_reducible assumption
    | with_reducible apply within_setCell (sub_of hw rfl))

theorem within_computeRailOff {ks : List Comp} {s0 : State} {s : State} {r} (hw : [.regs, .cells, .regions, .band] ⊆ ks) (h : s0.within ks s) :
    s0.within ks (State.computeRailOff s r) := by
  unfold State.computeRailOff
  try dsimp only
  repeat' (first
    | with_reducible assumption
    | with_reducible apply within_dropVset (sub_of hw rfl)
    | with_reducible apply within_dropRegs (sub_of hw rfl)
    | with_reducible apply within_cellOff (sub_of hw rfl)
    | with_reducible apply within_setRegion (sub_of hw rfl)
    | with_reducible apply within_setFld (sub_of hw rfl)
    | with_reducible apply within_foldl
    | with_reducible apply within_foldl_pair
    | with_reducible exact within_refl _
    | with_reducible apply within_ite
    | with_reducible apply within_ite_pair
    | with_reducible exact Or.inl rfl
    | exact Or.inr (hw (by decide))
    | exact hw (by decide)
    | with_reducible refine within_pair (by assumption) ?_
    | (intro _ _ _; try dsimp only)
    | (intro _ _; try dsimp only)
    | split
    | with_reducible apply within_mk)

theorem within_computeOff {ks : List Comp} {s0 : State} {s : State} {r} (hw : [.regs, .cells, .regions, .band] ⊆ ks) (h : s0.within ks s) :
    s0.within ks (State.computeOff s r) := by
  unfold State.computeOff
  try dsimp only
  repeat' (first
    | with_reducible assumption
    | with_reducible apply within_setSt (sub_of hw rfl)
    | with_reducible apply within_computeRailOff (sub_of hw rfl))

theorem within_resDone {ks : List Comp} {s0 : State} {s : State} {r} (hw : [.regs] ⊆ ks) (h : s0.within ks s) :
    s0.within ks (State.resDone s r) := by
  unfold State.resDone
  try dsimp only
  repeat' (first
    | with_reducible assumption
    | with_reducible apply within_regRes (sub_of hw rfl)
    | with_reducible apply within_foldl
    | with_reducible apply within_foldl_pair
    | with_reducible exact within_refl _
    | with_reducible apply within_ite
    | with_reducible apply within_ite_pair
    | with_reducible exact Or.inl rfl
    | exact Or.inr (hw (by decide))
    | exact hw (by decide)
    | with_reducible refine within_pair (by assumption) ?_
    | (intro _ _ _; try dsimp only)
    | (intro _ _; try dsimp only)
    | split
    | with_reducible apply within_mk)

theorem within_routerRailOff {ks : List Comp} {s0 : State} {s : State} {r} (hw : [.regs] ⊆ ks) (h : s0.within ks s) :
    s0.within ks (State.routerRailOff s r) := by
  unfold State.routerRailOff
  try dsimp only
  repeat' (first
    | with_reducible assumption
    | with_reducible apply within_setFld (sub_of hw rfl)
    | with_reducible apply within_dropRegs (sub_of hw rfl))

theorem within_fullOff {ks : List Comp} {s0 : State} {s : State} {r} (hw : [.regs, .cells, .regions, .band] ⊆ ks) (h : s0.within ks s) :
    s0.within ks (State.fullOff s r) := by
  unfold State.fullOff
  try dsimp only
  repeat' (first
    | with_reducible assumption
    | with_reducible apply within_setSt (sub_of hw rfl)
    | with_reducible apply within_routerRailOff (sub_of hw rfl)
    | with_reducible apply within_computeRailOff (sub_of hw rfl)
    | with_reducible apply within_setRegion (sub_of hw rfl)
    | with_reducible apply within_foldl
    | with_reducible apply within_foldl_pair
    | with_reducible exact within_refl _
    | with_reducible apply within_ite
    | with_reducible apply within_ite_pair
    | with_reducible exact Or.inl rfl
    | exact Or.inr (hw (by decide))
    | exact hw (by decide)
    | with_reducible refine within_pair (by assumption) ?_
    | (intro _ _ _; try dsimp only)
    | (intro _ _; try dsimp only)
    | split
    | with_reducible apply within_mk)

theorem within_fullOffEnd {ks : List Comp} {s0 : State} {s : State} {r} (hw : [.regs, .cells, .regions, .band] ⊆ ks) (h : s0.within ks s) :
    s0.within ks (State.fullOffEnd s r) := by
  unfold State.fullOffEnd
  try dsimp only
  repeat' (first
    | with_reducible assumption
    | with_reducible apply within_resDone (sub_of hw rfl)
    | with_reducible apply within_fullOff (sub_of hw rfl)
    | with_reducible apply within_foldl
    | with_reducible apply within_foldl_pair
    | with_reducible exact within_refl _
    | with_reducible apply within_ite
    | with_reducible apply within_ite_pair
    | with_reducible exact Or.inl rfl
    | exact Or.inr (hw (by decide))
    | exact hw (by decide)
    | with_reducible refine within_pair (by assumption) ?_
    | (intro _ _ _; try dsimp only)
    | (intro _ _; try dsimp only)
    | split
    | with_reducible apply within_mk)

theorem within_fullOffBegin {ks : List Comp} {s0 : State} {s : State} {r} (hw : [.regs, .cells, .regions, .band] ⊆ ks) (h : s0.within ks s) :
    s0.within ks (State.fullOffBegin s r) := by
  unfold State.fullOffBegin
  try dsimp only
  repeat' (first
    | with_reducible assumption
    | with_reducible apply within_computeOff (sub_of hw rfl)
    | with_reducible apply within_fullOffEnd (sub_of hw rfl)
    | with_reducible apply within_setRegion (sub_of hw rfl)
    | with_reducible apply within_foldl
    | with_reducible apply within_foldl_pair
    | with_reducible exact within_refl _
    | with_reducible apply within_ite
    | with_reducible apply within_ite_pair
    | with_reducible exact Or.inl rfl
    | exact Or.inr (hw (by decide))
    | exact hw (by decide)
    | with_reducible refine within_pair (by assumption) ?_
    | (intro _ _ _; try dsimp only)
    | (intro _ _; try dsimp only)
    | split
    | with_reducible apply within_mk)

theorem within_offDue {ks : List Comp} {s0 : State} {s : State} {r} (hw : [.regs, .cells, .regions, .band] ⊆ ks) (h : s0.within ks s) :
    s0.within ks (State.offDue s r) := by
  unfold State.offDue
  try dsimp only
  repeat' (first
    | with_reducible assumption
    | with_reducible apply within_setRegion (sub_of hw rfl)
    | with_reducible apply within_fullOffBegin (sub_of hw rfl)
    | with_reducible apply within_resDone (sub_of hw rfl)
    | with_reducible apply within_computeOff (sub_of hw rfl)
    | with_reducible apply within_foldl
    | with_reducible apply within_foldl_pair
    | with_reducible exact within_refl _
    | with_reducible apply within_ite
    | with_reducible apply within_ite_pair
    | with_reducible exact Or.inl rfl
    | exact Or.inr (hw (by decide))
    | exact hw (by decide)
    | with_reducible refine within_pair (by assumption) ?_
    | (intro _ _ _; try dsimp only)
    | (intro _ _; try dsimp only)
    | split
    | with_reducible apply within_mk)

theorem within_admitStages {ks : List Comp} {s0 : State} {s : State} {d} (hw : [.regs, .cells, .regions, .dies, .band] ⊆ ks) (h : s0.within ks s) :
    s0.within ks (State.admitStages s d) := by
  unfold State.admitStages
  try dsimp only
  repeat' (first
    | with_reducible assumption
    | with_reducible apply within_offDue (sub_of hw rfl)
    | with_reducible apply within_setDie (sub_of hw rfl)
    | with_reducible apply within_admitOne (sub_of hw rfl)
    | with_reducible apply within_foldl
    | with_reducible apply within_foldl_pair
    | with_reducible exact within_refl _
    | with_reducible apply within_ite
    | with_reducible apply within_ite_pair
    | with_reducible exact Or.inl rfl
    | exact Or.inr (hw (by decide))
    | exact hw (by decide)
    | with_reducible refine within_pair (by assumption) ?_
    | (intro _ _ _; try dsimp only)
    | (intro _ _; try dsimp only)
    | split
    | with_reducible apply within_mk)

theorem within_startTurnOn {ks : List Comp} {s0 : State} {s : State} {r router forLoad} (hw : [.regs, .regions] ⊆ ks) (h : s0.within ks s) :
    s0.within ks (State.startTurnOn s r router forLoad) := by
  unfold State.startTurnOn
  try dsimp only
  repeat' (first
    | with_reducible assumption
    | with_reducible apply within_setFld (sub_of hw rfl)
    | with_reducible apply within_setRegion (sub_of hw rfl)
    | with_reducible apply within_foldl
    | with_reducible apply within_foldl_pair
    | with_reducible exact within_refl _
    | with_reducible apply within_ite
    | with_reducible apply within_ite_pair
    | with_reducible exact Or.inl rfl
    | exact Or.inr (hw (by decide))
    | exact hw (by decide)
    | with_reducible refine within_pair (by assumption) ?_
    | (intro _ _ _; try dsimp only)
    | (intro _ _; try dsimp only)
    | split
    | with_reducible apply within_mk)

theorem within_regionOff {ks : List Comp} {s0 : State} {s : State} {r full} (hw : [.regs, .cells, .regions, .band] ⊆ ks) (h : s0.within ks s) :
    s0.within ks (State.regionOff s r full) := by
  unfold State.regionOff
  try dsimp only
  repeat' (first
    | with_reducible assumption
    | with_reducible apply within_setRegion (sub_of hw rfl)
    | with_reducible apply within_fullOffBegin (sub_of hw rfl)
    | with_reducible apply within_computeOff (sub_of hw rfl)
    | with_reducible apply within_foldl
    | with_reducible apply within_foldl_pair
    | with_reducible exact within_refl _
    | with_reducible apply within_ite
    | with_reducible apply within_ite_pair
    | with_reducible exact Or.inl rfl
    | exact Or.inr (hw (by decide))
    | exact hw (by decide)
    | with_reducible refine within_pair (by assumption) ?_
    | (intro _ _ _; try dsimp only)
    | (intro _ _; try dsimp only)
    | split
    | with_reducible apply within_mk)

theorem within_regionAct {ks : List Comp} {s0 : State} {s : State} {r op} (hw : [.regs, .cells, .regions, .band] ⊆ ks) (h : s0.within ks s) :
    s0.within ks (State.regionAct s r op) := by
  unfold State.regionAct
  try dsimp only
  repeat' (first
    | with_reducible assumption
    | with_reducible apply within_startTurnOn (sub_of hw rfl)
    | with_reducible apply within_regRes (sub_of hw rfl)
    | with_reducible apply within_regionOff (sub_of hw rfl)
    | with_reducible apply within_ite)

theorem within_regionCmd {ks : List Comp} {s0 : State} {s : State} {r op} (hw : [.regs, .cells, .regions, .band, .err] ⊆ ks) (h : s0.within ks s) :
    s0.within ks (State.regionCmd s r op) := by
  unfold State.regionCmd
  try dsimp only
  repeat' (first
    | with_reducible assumption
    | with_reducible apply within_regionRefuse (sub_of hw rfl)
    | with_reducible apply within_regionAct (sub_of hw rfl)
    | with_reducible apply within_ite)

theorem within_holdStageCfg {ks : List Comp} {s0 : State} {s : State} {d} (hw : [.dies] ⊆ ks) (h : s0.within ks s) :
    s0.within ks (State.holdStageCfg s d) := by
  unfold State.holdStageCfg
  try dsimp only
  repeat' (first
    | with_reducible assumption
    | with_reducible apply within_setDie (sub_of hw rfl)
    | with_reducible apply within_foldl
    | with_reducible apply within_foldl_pair
    | with_reducible exact within_refl _
    | with_reducible apply within_ite
    | with_reducible apply within_ite_pair
    | with_reducible exact Or.inl rfl
    | exact Or.inr (hw (by decide))
    | exact hw (by decide)
    | with_reducible refine within_pair (by assumption) ?_
    | (intro _ _ _; try dsimp only)
    | (intro _ _; try dsimp only)
    | split
    | with_reducible apply within_mk)

theorem within_pllsOff {ks : List Comp} {s0 : State} {s : State} {d} (hw : [.regs] ⊆ ks) (h : s0.within ks s) :
    s0.within ks (State.pllsOff s d) := by
  unfold State.pllsOff
  try dsimp only
  repeat' (first
    | with_reducible assumption
    | with_reducible apply within_setFld (sub_of hw rfl)
    | with_reducible apply within_foldl
    | with_reducible apply within_foldl_pair
    | with_reducible exact within_refl _
    | with_reducible apply within_ite
    | with_reducible apply within_ite_pair
    | with_reducible exact Or.inl rfl
    | exact Or.inr (hw (by decide))
    | exact hw (by decide)
    | with_reducible refine within_pair (by assumption) ?_
    | (intro _ _ _; try dsimp only)
    | (intro _ _; try dsimp only)
    | split
    | with_reducible apply within_mk)

theorem within_allOff {ks : List Comp} {s0 : State} {s : State} (hw : [.regs, .cells, .regions, .band] ⊆ ks) (h : s0.within ks s) :
    s0.within ks (State.allOff s) := by
  unfold State.allOff
  try dsimp only
  repeat' (first
    | with_reducible assumption
    | with_reducible apply within_pllsOff (sub_of hw rfl)
    | with_reducible apply within_fullOff (sub_of hw rfl)
    | with_reducible apply within_foldl
    | (intro _ _ _; try dsimp only)
    | (intro _ _; try dsimp only))

theorem within_updateCeil {ks : List Comp} {s0 : State} {s : State} {drop} (hw : [.regs, .band] ⊆ ks) (h : s0.within ks s) :
    s0.within ks (State.updateCeil s drop) := by
  unfold State.updateCeil
  try dsimp only
  repeat' (first
    | with_reducible assumption
    | with_reducible apply within_setFld (sub_of hw rfl)
    | with_reducible exact Or.inl rfl
    | exact Or.inr (hw (by decide))
    | exact hw (by decide)
    | with_reducible apply within_mk)

theorem within_setAll {ks : List Comp} {s0 : State} {s : State} {o lo w v} (hw : [.regs] ⊆ ks) (h : s0.within ks s) :
    s0.within ks (State.setAll s o lo w v) := by
  unfold State.setAll
  try dsimp only
  repeat' (first
    | with_reducible assumption
    | with_reducible apply within_setFld (sub_of hw rfl)
    | with_reducible apply within_foldl
    | (intro _ _ _; try dsimp only)
    | (intro _ _; try dsimp only))

theorem within_bladeCurrents {ks : List Comp} {s0 : State} {s : State} {ia ib} (hw : [.regs] ⊆ ks) (h : s0.within ks s) :
    s0.within ks (State.bladeCurrents s ia ib) := by
  unfold State.bladeCurrents
  try dsimp only
  repeat' (first
    | with_reducible assumption
    | with_reducible apply within_setAll (sub_of hw rfl)
    | with_reducible apply within_foldl
    | with_reducible apply within_foldl_pair
    | with_reducible exact within_refl _
    | with_reducible apply within_ite
    | with_reducible apply within_ite_pair
    | with_reducible exact Or.inl rfl
    | exact Or.inr (hw (by decide))
    | exact hw (by decide)
    | with_reducible refine within_pair (by assumption) ?_
    | (intro _ _ _; try dsimp only)
    | (intro _ _; try dsimp only)
    | split
    | with_reducible apply within_mk)

theorem within_fieldOff {ks : List Comp} {s0 : State} {s : State} {d} (hw : [.regs] ⊆ ks) (h : s0.within ks s) :
    s0.within ks (State.fieldOff s d) := by
  unfold State.fieldOff
  try dsimp only
  repeat' (first
    | with_reducible assumption
    | with_reducible apply within_pllsOff (sub_of hw rfl)
    | with_reducible apply within_setFld (sub_of hw rfl)
    | with_reducible apply within_foldl
    | with_reducible apply within_foldl_pair
    | with_reducible exact within_refl _
    | with_reducible apply within_ite
    | with_reducible apply within_ite_pair
    | with_reducible exact Or.inl rfl
    | exact Or.inr (hw (by decide))
    | exact hw (by decide)
    | with_reducible refine within_pair (by assumption) ?_
    | (intro _ _ _; try dsimp only)
    | (intro _ _; try dsimp only)
    | split
    | with_reducible apply within_mk)

theorem within_zeroS {ks : List Comp} {s0 : State} {s : State} (hw : [.band] ⊆ ks) (h : s0.within ks s) :
    s0.within ks (State.zeroS s) := by
  unfold State.zeroS
  try dsimp only
  repeat' (first
    | with_reducible assumption
    | with_reducible exact Or.inl rfl
    | exact Or.inr (hw (by decide))
    | exact hw (by decide)
    | with_reducible apply within_mk)

theorem within_loseJobs {ks : List Comp} {s0 : State} {s : State} (hw : [.panels, .jobs, .load] ⊆ ks) (h : s0.within ks s) :
    s0.within ks (State.loseJobs s) := by
  unfold State.loseJobs
  try dsimp only
  repeat' (first
    | with_reducible assumption
    | with_reducible exact Or.inl rfl
    | exact Or.inr (hw (by decide))
    | exact hw (by decide)
    | with_reducible apply within_mk)

theorem within_inputLoss {ks : List Comp} {s0 : State} {s : State} (hw : [.regs, .cells, .regions, .panels, .jobs, .load, .band, .boot, .err] ⊆ ks) (h : s0.within ks s) :
    s0.within ks (State.inputLoss s) := by
  unfold State.inputLoss
  try dsimp only
  repeat' (first
    | with_reducible assumption
    | with_reducible apply within_fieldOff (sub_of hw rfl)
    | with_reducible apply within_zeroS (sub_of hw rfl)
    | with_reducible apply within_loseJobs (sub_of hw rfl)
    | with_reducible apply within_allOff (sub_of hw rfl)
    | with_reducible apply within_raise (sub_of hw rfl)
    | with_reducible apply within_setFld (sub_of hw rfl)
    | with_reducible apply within_foldl
    | with_reducible apply within_foldl_pair
    | with_reducible exact within_refl _
    | with_reducible apply within_ite
    | with_reducible apply within_ite_pair
    | with_reducible exact Or.inl rfl
    | exact Or.inr (hw (by decide))
    | exact hw (by decide)
    | with_reducible refine within_pair (by assumption) ?_
    | (intro _ _ _; try dsimp only)
    | (intro _ _; try dsimp only)
    | split
    | with_reducible apply within_mk)

theorem within_bladeLoss {ks : List Comp} {s0 : State} {s : State} {b} (hw : [.regs, .cells, .regions, .panels, .jobs, .load, .band, .boot, .err] ⊆ ks) (h : s0.within ks s) :
    s0.within ks (State.bladeLoss s b) := by
  unfold State.bladeLoss
  try dsimp only
  repeat' (first
    | with_reducible assumption
    | with_reducible apply within_raise (sub_of hw rfl)
    | with_reducible apply within_updateCeil (sub_of hw rfl)
    | with_reducible apply within_setAll (sub_of hw rfl)
    | with_reducible apply within_inputLoss (sub_of hw rfl)
    | with_reducible apply within_ite)

theorem within_bladeRestore {ks : List Comp} {s0 : State} {s : State} (hw : [.regs, .band, .err] ⊆ ks) (h : s0.within ks s) :
    s0.within ks (State.bladeRestore s) := by
  unfold State.bladeRestore
  try dsimp only
  repeat' (first
    | with_reducible assumption
    | with_reducible apply within_raise (sub_of hw rfl)
    | with_reducible apply within_updateCeil (sub_of hw rfl)
    | with_reducible apply within_setAll (sub_of hw rfl)
    | with_reducible apply within_ite)

theorem within_converterFail {ks : List Comp} {s0 : State} {s : State} {d} (hw : [.dies] ⊆ ks) (h : s0.within ks s) :
    s0.within ks (State.converterFail s d) := by
  unfold State.converterFail
  try dsimp only
  repeat' (first
    | with_reducible assumption
    | with_reducible apply within_setDie (sub_of hw rfl)
    | with_reducible apply within_foldl
    | with_reducible apply within_foldl_pair
    | with_reducible exact within_refl _
    | with_reducible apply within_ite
    | with_reducible apply within_ite_pair
    | with_reducible exact Or.inl rfl
    | exact Or.inr (hw (by decide))
    | exact hw (by decide)
    | with_reducible refine within_pair (by assumption) ?_
    | (intro _ _ _; try dsimp only)
    | (intro _ _; try dsimp only)
    | split
    | with_reducible apply within_mk)

theorem within_excludeNext {ks : List Comp} {s0 : State} {s : State} {d reason} (hw : [.boot, .err] ⊆ ks) (h : s0.within ks s) :
    s0.within ks (State.excludeNext s d reason) := by
  unfold State.excludeNext
  try dsimp only
  repeat' (first
    | with_reducible assumption
    | with_reducible apply within_raiseSev (sub_of hw rfl)
    | with_reducible apply within_foldl
    | with_reducible apply within_foldl_pair
    | with_reducible exact within_refl _
    | with_reducible apply within_ite
    | with_reducible apply within_ite_pair
    | with_reducible exact Or.inl rfl
    | exact Or.inr (hw (by decide))
    | exact hw (by decide)
    | with_reducible refine within_pair (by assumption) ?_
    | (intro _ _ _; try dsimp only)
    | (intro _ _; try dsimp only)
    | split
    | with_reducible apply within_mk)

theorem within_supplyLoss {ks : List Comp} {s0 : State} {s : State} {d} (hw : [.regs, .cells, .regions, .dies, .band, .boot, .err] ⊆ ks) (h : s0.within ks s) :
    s0.within ks (State.supplyLoss s d) := by
  unfold State.supplyLoss
  try dsimp only
  repeat' (first
    | with_reducible assumption
    | with_reducible apply within_fullOff (sub_of hw rfl)
    | with_reducible apply within_excludeNext (sub_of hw rfl)
    | with_reducible apply within_raise (sub_of hw rfl)
    | with_reducible apply within_setDie (sub_of hw rfl)
    | with_reducible apply within_fieldOff (sub_of hw rfl)
    | with_reducible apply within_foldl
    | (intro _ _ _; try dsimp only)
    | (intro _ _; try dsimp only))

theorem within_converterLost {ks : List Comp} {s0 : State} {s : State} {d} (hw : [.regs, .cells, .regions, .dies, .band, .boot, .err] ⊆ ks) (h : s0.within ks s) :
    s0.within ks (State.converterLost s d) := by
  unfold State.converterLost
  try dsimp only
  repeat' (first
    | with_reducible assumption
    | with_reducible apply within_supplyLoss (sub_of hw rfl)
    | with_reducible apply within_setAll (sub_of hw rfl)
    | with_reducible apply within_setFld (sub_of hw rfl)
    | with_reducible apply within_raise (sub_of hw rfl)
    | with_reducible apply within_foldl
    | with_reducible apply within_foldl_pair
    | with_reducible exact within_refl _
    | with_reducible apply within_ite
    | with_reducible apply within_ite_pair
    | with_reducible exact Or.inl rfl
    | exact Or.inr (hw (by decide))
    | exact hw (by decide)
    | with_reducible refine within_pair (by assumption) ?_
    | (intro _ _ _; try dsimp only)
    | (intro _ _; try dsimp only)
    | split
    | with_reducible apply within_mk)

theorem within_detoursIn {ks : List Comp} {s0 : State} {s : State} {c} (hw : [.regs, .cells, .regions, .band] ⊆ ks) (h : s0.within ks s) :
    s0.within ks (State.detoursIn s c) := by
  unfold State.detoursIn
  try dsimp only
  repeat' (first
    | with_reducible assumption
    | with_reducible apply within_fullOffEnd (sub_of hw rfl)
    | with_reducible apply within_setRegion (sub_of hw rfl)
    | with_reducible apply within_foldl
    | with_reducible apply within_foldl_pair
    | with_reducible exact within_refl _
    | with_reducible apply within_ite
    | with_reducible apply within_ite_pair
    | with_reducible exact Or.inl rfl
    | exact Or.inr (hw (by decide))
    | exact hw (by decide)
    | with_reducible refine within_pair (by assumption) ?_
    | (intro _ _ _; try dsimp only)
    | (intro _ _; try dsimp only)
    | split
    | with_reducible apply within_mk)

theorem within_railOn {ks : List Comp} {s0 : State} {s : State} {r rail} (hw : [.regs] ⊆ ks) (h : s0.within ks s) :
    s0.within ks (State.railOn s r rail) := by
  unfold State.railOn
  try dsimp only
  repeat' (first
    | with_reducible assumption
    | with_reducible apply within_setFld (sub_of hw rfl))

theorem within_engineEstimate {ks : List Comp} {s0 : State} {s : State} {paux} (hw : [.regs, .dies, .band] ⊆ ks) (h : s0.within ks s) :
    s0.within ks (State.engineEstimate s paux) := by
  unfold State.engineEstimate
  try dsimp only
  repeat' (first
    | with_reducible assumption
    | with_reducible apply within_issueLevel (sub_of hw rfl)
    | with_reducible apply within_setFld (sub_of hw rfl)
    | with_reducible exact Or.inl rfl
    | exact Or.inr (hw (by decide))
    | exact hw (by decide)
    | with_reducible apply within_mk)

theorem within_estimateRegion {ks : List Comp} {s0 : State} {s : State} {r} (hw : [.regions] ⊆ ks) (h : s0.within ks s) :
    s0.within ks (State.estimateRegion s r) := by
  unfold State.estimateRegion
  try dsimp only
  repeat' (first
    | with_reducible assumption
    | with_reducible apply within_setRegion (sub_of hw rfl))

theorem within_estimateDie {ks : List Comp} {s0 : State} {s : State} {d} (hw : [.regions, .dies] ⊆ ks) (h : s0.within ks s) :
    s0.within ks (State.estimateDie s d) := by
  unfold State.estimateDie
  try dsimp only
  repeat' (first
    | with_reducible assumption
    | with_reducible apply within_estimateRegion (sub_of hw rfl)
    | with_reducible apply within_setDie (sub_of hw rfl)
    | with_reducible apply within_foldl
    | (intro _ _ _; try dsimp only)
    | (intro _ _; try dsimp only))

theorem within_regionDark {ks : List Comp} {s0 : State} {s : State} {r rail failed source} (hw : [.regs, .cells, .regions, .band, .boot, .flash, .err] ⊆ ks) (h : s0.within ks s) :
    s0.within ks (State.regionDark s r rail failed source) := by
  unfold State.regionDark
  try dsimp only
  repeat' (first
    | with_reducible assumption
    | with_reducible apply within_raiseFor (sub_of hw rfl)
    | with_reducible apply within_makeHole (sub_of hw rfl)
    | with_reducible apply within_computeRailOff (sub_of hw rfl)
    | with_reducible apply within_routerRailOff (sub_of hw rfl)
    | with_reducible apply within_setRegion (sub_of hw rfl)
    | with_reducible apply within_confirmFuse (sub_of hw rfl)
    | with_reducible apply within_setSt (sub_of hw rfl)
    | with_reducible apply within_foldl
    | with_reducible apply within_foldl_pair
    | with_reducible exact within_refl _
    | with_reducible apply within_ite
    | with_reducible apply within_ite_pair
    | with_reducible exact Or.inl rfl
    | exact Or.inr (hw (by decide))
    | exact hw (by decide)
    | with_reducible refine within_pair (by assumption) ?_
    | (intro _ _ _; try dsimp only)
    | (intro _ _; try dsimp only)
    | split
    | with_reducible apply within_mk)

theorem within_railMissed {ks : List Comp} {s0 : State} {s : State} {r o} (hw : [.regs, .cells, .regions, .band, .boot, .flash, .err] ⊆ ks) (h : s0.within ks s) :
    s0.within ks (State.railMissed s r o) := by
  unfold State.railMissed
  try dsimp only
  repeat' (first
    | with_reducible assumption
    | with_reducible apply within_regionDark (sub_of hw rfl)
    | with_reducible apply within_foldl
    | with_reducible apply within_foldl_pair
    | with_reducible exact within_refl _
    | with_reducible apply within_ite
    | with_reducible apply within_ite_pair
    | with_reducible exact Or.inl rfl
    | exact Or.inr (hw (by decide))
    | exact hw (by decide)
    | with_reducible refine within_pair (by assumption) ?_
    | (intro _ _ _; try dsimp only)
    | (intro _ _; try dsimp only)
    | split
    | with_reducible apply within_mk)

theorem within_goodMissed {ks : List Comp} {s0 : State} {s : State} {r} (hw : [.regs, .cells, .regions, .band, .boot, .flash, .err] ⊆ ks) (h : s0.within ks s) :
    s0.within ks (State.goodMissed s r) := by
  unfold State.goodMissed
  try dsimp only
  repeat' (first
    | with_reducible assumption
    | with_reducible apply within_railMissed (sub_of hw rfl)
    | with_reducible apply within_ite
    | split)

theorem within_inputRange {ks : List Comp} {s0 : State} {s : State} {v ia ib} (hw : [.regs, .band, .err] ⊆ ks) (h : s0.within ks s) :
    s0.within ks (State.inputRange s v ia ib) := by
  unfold State.inputRange
  try dsimp only
  repeat' (first
    | with_reducible assumption
    | with_reducible apply within_updateCeil (sub_of hw rfl)
    | with_reducible apply within_bladeCurrents (sub_of hw rfl)
    | with_reducible apply within_setAll (sub_of hw rfl)
    | with_reducible apply within_raise (sub_of hw rfl)
    | with_reducible apply within_ite)

theorem within_inputReading {ks : List Comp} {s0 : State} {s : State} {rd} (hw : [.regs, .band, .err] ⊆ ks) (h : s0.within ks s) :
    s0.within ks (State.inputReading s rd) := by
  unfold State.inputReading
  try dsimp only
  repeat' (first
    | with_reducible assumption
    | with_reducible apply within_inputRange (sub_of hw rfl)
    | with_reducible apply within_foldl
    | with_reducible apply within_foldl_pair
    | with_reducible exact within_refl _
    | with_reducible apply within_ite
    | with_reducible apply within_ite_pair
    | with_reducible exact Or.inl rfl
    | exact Or.inr (hw (by decide))
    | exact hw (by decide)
    | with_reducible refine within_pair (by assumption) ?_
    | (intro _ _ _; try dsimp only)
    | (intro _ _; try dsimp only)
    | split
    | with_reducible apply within_mk)

theorem within_measured {ks : List Comp} {s0 : State} {s : State} {d meas} (hw : [.regs, .dies] ⊆ ks) (h : s0.within ks s) :
    s0.within ks (State.measured s d meas) := by
  unfold State.measured
  try dsimp only
  repeat' (first
    | with_reducible assumption
    | with_reducible apply within_setFld (sub_of hw rfl)
    | with_reducible apply within_setDie (sub_of hw rfl)
    | with_reducible apply within_foldl
    | with_reducible apply within_foldl_pair
    | with_reducible exact within_refl _
    | with_reducible apply within_ite
    | with_reducible apply within_ite_pair
    | with_reducible exact Or.inl rfl
    | exact Or.inr (hw (by decide))
    | exact hw (by decide)
    | with_reducible refine within_pair (by assumption) ?_
    | (intro _ _ _; try dsimp only)
    | (intro _ _; try dsimp only)
    | split
    | with_reducible apply within_mk)

theorem within_regionUp {ks : List Comp} {s0 : State} {s : State} {r} (hw : [.regs, .regions] ⊆ ks) (h : s0.within ks s) :
    s0.within ks (State.regionUp s r) := by
  unfold State.regionUp
  try dsimp only
  repeat' (first
    | with_reducible assumption
    | with_reducible apply within_resDone (sub_of hw rfl)
    | with_reducible apply within_setSt (sub_of hw rfl)
    | with_reducible apply within_ite)

theorem within_phaseFail {ks : List Comp} {s0 : State} {s : State} {d p meas} (hw : [.regs, .dies, .boot, .err, .free] ⊆ ks) (h : s0.within ks s) :
    s0.within ks (State.phaseFail s d p meas) := by
  unfold State.phaseFail
  try dsimp only
  repeat' (first
    | with_reducible assumption
    | with_reducible apply within_setFld (sub_of hw rfl)
    | with_reducible apply within_raise (sub_of hw rfl)
    | with_reducible apply within_setDie (sub_of hw rfl)
    | with_reducible apply within_fresh (sub_of hw rfl)
    | with_reducible apply within_excludeNext (sub_of hw rfl)
    | with_reducible apply within_ite)

theorem within_primeRouter {ks : List Comp} {s0 : State} {s : State} {c} (hw : [.regs, .cells] ⊆ ks) (h : s0.within ks s) :
    s0.within ks (State.primeRouter s c) := by
  unfold State.primeRouter
  try dsimp only
  repeat' (first
    | with_reducible assumption
    | with_reducible apply within_setCell (sub_of hw rfl)
    | with_reducible apply within_setFld (sub_of hw rfl)
    | with_reducible apply within_foldl
    | with_reducible apply within_foldl_pair
    | with_reducible exact within_refl _
    | with_reducible apply within_ite
    | with_reducible apply within_ite_pair
    | with_reducible exact Or.inl rfl
    | exact Or.inr (hw (by decide))
    | exact hw (by decide)
    | with_reducible refine within_pair (by assumption) ?_
    | (intro _ _ _; try dsimp only)
    | (intro _ _; try dsimp only)
    | split
    | with_reducible apply within_mk)

theorem within_undetour {ks : List Comp} {s0 : State} {s : State} {e l} (hw : [.regs] ⊆ ks) (h : s0.within ks s) :
    s0.within ks (State.undetour s e l) := by
  unfold State.undetour
  try dsimp only
  repeat' (first
    | with_reducible assumption
    | with_reducible apply within_setReg (sub_of hw rfl)
    | with_reducible apply within_foldl
    | with_reducible apply within_foldl_pair
    | with_reducible exact within_refl _
    | with_reducible apply within_ite
    | with_reducible apply within_ite_pair
    | with_reducible exact Or.inl rfl
    | exact Or.inr (hw (by decide))
    | exact hw (by decide)
    | with_reducible refine within_pair (by assumption) ?_
    | (intro _ _ _; try dsimp only)
    | (intro _ _; try dsimp only)
    | split
    | with_reducible apply within_mk)

theorem within_undetourRegion {ks : List Comp} {s0 : State} {s : State} {r} (hw : [.regs] ⊆ ks) (h : s0.within ks s) :
    s0.within ks (State.undetourRegion s r) := by
  unfold State.undetourRegion
  try dsimp only
  repeat' (first
    | with_reducible assumption
    | with_reducible apply within_undetour (sub_of hw rfl)
    | with_reducible apply within_foldl
    | with_reducible apply within_foldl_pair
    | with_reducible exact within_refl _
    | with_reducible apply within_ite
    | with_reducible apply within_ite_pair
    | with_reducible exact Or.inl rfl
    | exact Or.inr (hw (by decide))
    | exact hw (by decide)
    | with_reducible refine within_pair (by assumption) ?_
    | (intro _ _ _; try dsimp only)
    | (intro _ _; try dsimp only)
    | split
    | with_reducible apply within_mk)

theorem within_routerUp {ks : List Comp} {s0 : State} {s : State} {r} (hw : [.regs, .cells, .regions] ⊆ ks) (h : s0.within ks s) :
    s0.within ks (State.routerUp s r) := by
  unfold State.routerUp
  try dsimp only
  repeat' (first
    | with_reducible assumption
    | with_reducible apply within_primeRouter (sub_of hw rfl)
    | with_reducible apply within_railOn (sub_of hw rfl)
    | with_reducible apply within_dropRegs (sub_of hw rfl)
    | with_reducible apply within_undetourRegion (sub_of hw rfl)
    | with_reducible apply within_resDone (sub_of hw rfl)
    | with_reducible apply within_setRegion (sub_of hw rfl)
    | with_reducible apply within_foldl
    | with_reducible apply within_foldl_pair
    | with_reducible exact within_refl _
    | with_reducible apply within_ite
    | with_reducible apply within_ite_pair
    | with_reducible exact Or.inl rfl
    | exact Or.inr (hw (by decide))
    | exact hw (by decide)
    | with_reducible refine within_pair (by assumption) ?_
    | (intro _ _ _; try dsimp only)
    | (intro _ _; try dsimp only)
    | split
    | with_reducible apply within_mk)

theorem within_primeRegion {ks : List Comp} {s0 : State} {s : State} {r} (hw : [.regs] ⊆ ks) (h : s0.within ks s) :
    s0.within ks (State.primeRegion s r) := by
  unfold State.primeRegion
  try dsimp only
  repeat' (first
    | with_reducible assumption
    | with_reducible apply within_primerStart (sub_of hw rfl)
    | with_reducible apply within_foldl
    | (intro _ _ _; try dsimp only)
    | (intro _ _; try dsimp only))

theorem within_powerGood {ks : List Comp} {s0 : State} {s : State} {r} (hw : [.regs, .cells, .regions, .band, .boot, .flash, .err] ⊆ ks) (h : s0.within ks s) :
    s0.within ks (State.powerGood s r) := by
  unfold State.powerGood
  try dsimp only
  repeat' (first
    | with_reducible assumption
    | with_reducible apply within_railMissed (sub_of hw rfl)
    | with_reducible apply within_routerUp (sub_of hw rfl)
    | with_reducible apply within_railOn (sub_of hw rfl)
    | with_reducible apply within_setRegion (sub_of hw rfl)
    | with_reducible apply within_primeRegion (sub_of hw rfl)
    | with_reducible apply within_foldl
    | with_reducible apply within_foldl_pair
    | with_reducible exact within_refl _
    | with_reducible apply within_ite
    | with_reducible apply within_ite_pair
    | with_reducible exact Or.inl rfl
    | exact Or.inr (hw (by decide))
    | exact hw (by decide)
    | with_reducible refine within_pair (by assumption) ?_
    | (intro _ _ _; try dsimp only)
    | (intro _ _; try dsimp only)
    | split
    | with_reducible apply within_mk)

theorem within_primerDone {ks : List Comp} {s0 : State} {s : State} {c} (hw : [.regs, .mem, .cells, .regions] ⊆ ks) (h : s0.within ks s) :
    s0.within ks (State.primerDone s c) := by
  unfold State.primerDone
  try dsimp only
  repeat' (first
    | with_reducible assumption
    | with_reducible apply within_regionUp (sub_of hw rfl)
    | with_reducible apply within_primeCell (sub_of hw rfl)
    | with_reducible apply within_ite)

theorem within_quarter {ks : List Comp} {s0 : State} {s : State} {r} (hw : [.regs, .regions] ⊆ ks) (h : s0.within ks s) :
    s0.within ks (State.quarter s r) := by
  unfold State.quarter
  try dsimp only
  repeat' (first
    | with_reducible assumption
    | with_reducible apply within_incSatUn (sub_of hw rfl)
    | with_reducible apply within_setRegion (sub_of hw rfl)
    | with_reducible apply within_ite
    | split)

theorem within_settleConverters {ks : List Comp} {s0 : State} {s : State} (hw : [.regs, .cells, .regions, .dies, .band, .boot, .err] ⊆ ks) (h : s0.within ks s) :
    s0.within ks (State.settleConverters s) := by
  unfold State.settleConverters
  try dsimp only
  repeat' (first
    | with_reducible assumption
    | with_reducible apply within_converterLost (sub_of hw rfl)
    | with_reducible apply within_setDie (sub_of hw rfl)
    | with_reducible apply within_foldl
    | with_reducible apply within_foldl_pair
    | with_reducible exact within_refl _
    | with_reducible apply within_ite
    | with_reducible apply within_ite_pair
    | with_reducible exact Or.inl rfl
    | exact Or.inr (hw (by decide))
    | exact hw (by decide)
    | with_reducible refine within_pair (by assumption) ?_
    | (intro _ _ _; try dsimp only)
    | (intro _ _; try dsimp only)
    | split
    | with_reducible apply within_mk)

theorem within_sliceOutcome {ks : List Comp} {s0 : State} {s : State} {r rail source} (hw : [.regs, .cells, .regions, .band, .boot, .flash, .err] ⊆ ks) (h : s0.within ks s) :
    s0.within ks (State.sliceOutcome s r rail source) := by
  unfold State.sliceOutcome
  try dsimp only
  repeat' (first
    | with_reducible assumption
    | with_reducible apply within_raise (sub_of hw rfl)
    | with_reducible apply within_setFld (sub_of hw rfl)
    | with_reducible apply within_setRegion (sub_of hw rfl)
    | with_reducible apply within_regionDark (sub_of hw rfl)
    | with_reducible apply within_ite)

theorem within_sliceFail {ks : List Comp} {s0 : State} {s : State} {r rail slice} (hw : [.regs, .cells, .regions, .band, .boot, .flash, .err] ⊆ ks) (h : s0.within ks s) :
    s0.within ks (State.sliceFail s r rail slice) := by
  unfold State.sliceFail
  try dsimp only
  repeat' (first
    | with_reducible assumption
    | with_reducible apply within_confirmFuse (sub_of hw rfl)
    | with_reducible apply within_setFld (sub_of hw rfl)
    | with_reducible apply within_sliceOutcome (sub_of hw rfl)
    | with_reducible apply within_ite)

theorem within_spareFail {ks : List Comp} {s0 : State} {s : State} (hw : [.regs, .err] ⊆ ks) (h : s0.within ks s) :
    s0.within ks (State.spareFail s) := by
  unfold State.spareFail
  try dsimp only
  repeat' (first
    | with_reducible assumption
    | with_reducible apply within_raise (sub_of hw rfl)
    | with_reducible apply within_setAll (sub_of hw rfl)
    | with_reducible apply within_ite)

theorem within_execActivityEstimate {ks : List Comp} (s : State) {d upset meas} (hw : [.regs, .regions, .dies, .err] ⊆ ks) :
    ∃ z, execActivityEstimate d upset meas s = .next z ∧ s.within ks z := by
  unfold execActivityEstimate
  exact ⟨_, rfl, by
    repeat' (first
      | with_reducible exact within_refl _
      | with_reducible apply within_raise (sub_of hw rfl)
      | with_reducible apply within_estimateDie (sub_of hw rfl)
      | with_reducible apply within_measured (sub_of hw rfl)
      | with_reducible apply within_ite)⟩

theorem within_execBladeLoss {ks : List Comp} (s : State) {b} (hw : [.regs, .cells, .regions, .panels, .jobs, .load, .band, .boot, .err] ⊆ ks) :
    ∃ z, execBladeLoss b s = .next z ∧ s.within ks z := by
  unfold execBladeLoss
  exact ⟨_, rfl, by
    repeat' (first
      | with_reducible exact within_refl _
      | with_reducible apply within_bladeLoss (sub_of hw rfl))⟩

theorem within_execBladeRestore {ks : List Comp} (s : State) (hw : [.regs, .band, .err] ⊆ ks) :
    ∃ z, execBladeRestore s = .next z ∧ s.within ks z := by
  unfold execBladeRestore
  exact ⟨_, rfl, by
    repeat' (first
      | with_reducible exact within_refl _
      | with_reducible apply within_bladeRestore (sub_of hw rfl))⟩

theorem within_execBusConverterFail {ks : List Comp} (s : State) {d} (hw : [.dies] ⊆ ks) :
    ∃ z, execBusConverterFail d s = .next z ∧ s.within ks z := by
  unfold execBusConverterFail
  exact ⟨_, rfl, by
    repeat' (first
      | with_reducible exact within_refl _
      | with_reducible apply within_converterFail (sub_of hw rfl))⟩

theorem within_execEngineEstimate {ks : List Comp} (s : State) {paux rd} (hw : [.regs, .dies, .band, .err] ⊆ ks) :
    ∃ z, execEngineEstimate paux rd s = .next z ∧ s.within ks z := by
  unfold execEngineEstimate
  exact ⟨_, rfl, by
    repeat' (first
      | with_reducible exact within_refl _
      | with_reducible apply within_engineEstimate (sub_of hw rfl)
      | with_reducible apply within_inputReading (sub_of hw rfl))⟩

theorem within_execInputLoss {ks : List Comp} (s : State) (hw : [.regs, .cells, .regions, .panels, .jobs, .load, .band, .boot, .err] ⊆ ks) :
    ∃ z, execInputLoss s = .next z ∧ s.within ks z := by
  unfold execInputLoss
  exact ⟨_, rfl, by
    repeat' (first
      | with_reducible exact within_refl _
      | with_reducible apply within_inputLoss (sub_of hw rfl))⟩

theorem within_execInputOutOfRange {ks : List Comp} (s : State) {v ia ib} (hw : [.regs, .band, .err] ⊆ ks) :
    ∃ z, execInputOutOfRange v ia ib s = .next z ∧ s.within ks z := by
  unfold execInputOutOfRange
  exact ⟨_, rfl, by
    repeat' (first
      | with_reducible exact within_refl _
      | with_reducible apply within_inputRange (sub_of hw rfl))⟩

theorem within_execPhaseFail {ks : List Comp} (s : State) {d p meas} (hw : [.regs, .dies, .boot, .err, .free] ⊆ ks) :
    ∃ z, execPhaseFail d p meas s = .next z ∧ s.within ks z := by
  unfold execPhaseFail
  exact ⟨_, rfl, by
    repeat' (first
      | with_reducible exact within_refl _
      | with_reducible apply within_phaseFail (sub_of hw rfl))⟩

theorem within_execPrimerDone {ks : List Comp} (s : State) {c ecc} (hw : [.regs, .mem, .cells, .regions, .err] ⊆ ks) :
    ∃ z, execPrimerDone c ecc s = .next z ∧ s.within ks z := by
  unfold execPrimerDone
  exact ⟨_, rfl, by
    repeat' (first
      | with_reducible exact within_refl _
      | with_reducible assumption
      | with_reducible apply within_primerDone (sub_of hw rfl)
      | with_reducible apply within_routerEcc (sub_of hw rfl)
      | with_reducible apply within_foldl
      | with_reducible apply within_foldl_pair
      | with_reducible apply within_ite
      | with_reducible apply within_ite_pair
      | with_reducible exact Or.inl rfl
      | exact Or.inr (hw (by decide))
      | exact hw (by decide)
      | with_reducible refine within_pair (by assumption) ?_
      | (intro _ _ _; try dsimp only)
      | (intro _ _; try dsimp only)
      | split
      | with_reducible apply within_mk)⟩

theorem within_execQuarterStrength {ks : List Comp} (s : State) {d rx ry} (hw : [.regs, .regions] ⊆ ks) :
    ∃ z, execQuarterStrength d rx ry s = .next z ∧ s.within ks z := by
  unfold execQuarterStrength
  exact ⟨_, rfl, by
    repeat' (first
      | with_reducible exact within_refl _
      | with_reducible apply within_quarter (sub_of hw rfl))⟩

theorem within_execRegionComputeOff {ks : List Comp} (s : State) {d rx ry} (hw : [.regs, .cells, .regions, .band, .err] ⊆ ks) :
    ∃ z, execRegionComputeOff d rx ry s = .next z ∧ s.within ks z := by
  unfold execRegionComputeOff
  exact ⟨_, rfl, by
    repeat' (first
      | with_reducible exact within_refl _
      | with_reducible apply within_regionCmd (sub_of hw rfl))⟩

theorem within_execRegionComputeOn {ks : List Comp} (s : State) {d rx ry} (hw : [.regs, .cells, .regions, .band, .err] ⊆ ks) :
    ∃ z, execRegionComputeOn d rx ry s = .next z ∧ s.within ks z := by
  unfold execRegionComputeOn
  exact ⟨_, rfl, by
    repeat' (first
      | with_reducible exact within_refl _
      | with_reducible apply within_regionCmd (sub_of hw rfl))⟩

theorem within_execRegionFullOff {ks : List Comp} (s : State) {d rx ry} (hw : [.regs, .cells, .regions, .band, .err] ⊆ ks) :
    ∃ z, execRegionFullOff d rx ry s = .next z ∧ s.within ks z := by
  unfold execRegionFullOff
  exact ⟨_, rfl, by
    repeat' (first
      | with_reducible exact within_refl _
      | with_reducible apply within_regionCmd (sub_of hw rfl))⟩

theorem within_execRegionRouterOn {ks : List Comp} (s : State) {d rx ry} (hw : [.regs, .cells, .regions, .band, .err] ⊆ ks) :
    ∃ z, execRegionRouterOn d rx ry s = .next z ∧ s.within ks z := by
  unfold execRegionRouterOn
  exact ⟨_, rfl, by
    repeat' (first
      | with_reducible exact within_refl _
      | with_reducible apply within_regionCmd (sub_of hw rfl))⟩

theorem within_execSpareConverterFail {ks : List Comp} (s : State) (hw : [.regs, .err] ⊆ ks) :
    ∃ z, execSpareConverterFail s = .next z ∧ s.within ks z := by
  unfold execSpareConverterFail
  exact ⟨_, rfl, by
    repeat' (first
      | with_reducible exact within_refl _
      | with_reducible apply within_spareFail (sub_of hw rfl))⟩

end Sys2Proof.Laws
end

