-- ==== Sys2Proof/Laws/WithinBand.lean ====
section
/-! SUPPORT. What the operations of Machine/Band.lean may change (`State.within`). -/

set_option Elab.async false
set_option linter.all false

namespace Sys2Proof.Laws

open Sys2Proof Sys2Proof.Machine Sys2Proof.Machine.State

theorem within_setBand {ks : List Comp} {s0 : State} {s : State} {b} (hw : [.band] ⊆ ks) (h : s0.within ks s) :
    s0.within ks (State.setBand s b) := by
  unfold State.setBand
  try dsimp only
  repeat' (first
    | with_reducible assumption
    | with_reducible exact Or.inl rfl
    | exact Or.inr (hw (by decide))
    | exact hw (by decide)
    | with_reducible apply within_mk)

theorem within_sendRack {ks : List Comp} {s0 : State} {s : State} {ftype body} (hw : [.out] ⊆ ks) (h : s0.within ks s) :
    s0.within ks (State.sendRack s ftype body) := by
  unfold State.sendRack
  try dsimp only
  repeat' (first
    | with_reducible assumption
    | with_reducible apply within_emit (sub_of hw rfl)
    | with_reducible apply within_ite)

theorem within_rampRequest {ks : List Comp} {s0 : State} {s : State} {w} (hw : [.out] ⊆ ks) (h : s0.within ks s) :
    s0.within ks (State.rampRequest s w) := by
  unfold State.rampRequest
  try dsimp only
  repeat' (first
    | with_reducible assumption
    | with_reducible apply within_sendRack (sub_of hw rfl)
    | with_reducible apply within_ite)

theorem within_averageEval {ks : List Comp} {s0 : State} {a0 : State} (hw : [.dies, .band, .free] ⊆ ks) (h : s0.within ks a0) :
    s0.within ks (State.averageEval a0) := by
  unfold State.averageEval
  try dsimp only
  repeat' (first
    | with_reducible assumption
    | with_reducible apply within_fresh (sub_of hw rfl)
    | with_reducible apply within_issueLevel (sub_of hw rfl)
    | with_reducible apply within_setBand (sub_of hw rfl)
    | with_reducible apply within_foldl
    | with_reducible apply within_foldl_pair
    | with_reducible exact within_refl _
    | with_reducible apply within_ite
    | with_reducible apply within_ite_pair
    | with_reducible exact Or.inl rfl
    | exact Or.inr (hw (by decide))
    | exact hw (by decide)
    | with_reducible refine within_pair (by assumption) ?_
    | (intro _ _ _; try dsimp only)
    | (intro _ _; try dsimp only)
    | split
    | with_reducible apply within_mk)

theorem within_setBal {ks : List Comp} {s0 : State} {s : State} {v cs} (hw : [.regs] ⊆ ks) (h : s0.within ks s) :
    s0.within ks (State.setBal s v cs) := by
  unfold State.setBal
  try dsimp only
  repeat' (first
    | with_reducible assumption
    | with_reducible apply within_hwFld (sub_of hw rfl)
    | with_reducible apply within_foldl
    | (intro _ _ _; try dsimp only)
    | (intro _ _; try dsimp only))

theorem within_balOff {ks : List Comp} {s0 : State} {s : State} {n} (hw : [.regs, .band] ⊆ ks) (h : s0.within ks s) :
    s0.within ks (State.balOff s n) := by
  unfold State.balOff
  try dsimp only
  repeat' (first
    | with_reducible assumption
    | with_reducible apply within_setBand (sub_of hw rfl)
    | with_reducible apply within_setBal (sub_of hw rfl))

theorem within_balOn {ks : List Comp} {s0 : State} {s : State} {n} (hw : [.regs, .band] ⊆ ks) (h : s0.within ks s) :
    s0.within ks (State.balOn s n) := by
  unfold State.balOn
  try dsimp only
  repeat' (first
    | with_reducible assumption
    | with_reducible apply within_setBand (sub_of hw rfl)
    | with_reducible apply within_setBal (sub_of hw rfl))

theorem within_balSettle {ks : List Comp} {s0 : State} {s : State} (hw : [.regs, .band] ⊆ ks) (h : s0.within ks s) :
    s0.within ks (State.balSettle s) := by
  unfold State.balSettle
  try dsimp only
  repeat' (first
    | with_reducible assumption
    | with_reducible apply within_setBand (sub_of hw rfl)
    | with_reducible apply within_setBal (sub_of hw rfl)
    | with_reducible apply within_foldl
    | with_reducible apply within_foldl_pair
    | with_reducible exact within_refl _
    | with_reducible apply within_ite
    | with_reducible apply within_ite_pair
    | with_reducible exact Or.inl rfl
    | exact Or.inr (hw (by decide))
    | exact hw (by decide)
    | with_reducible refine within_pair (by assumption) ?_
    | (intro _ _ _; try dsimp only)
    | (intro _ _; try dsimp only)
    | split
    | with_reducible apply within_mk)

theorem within_balWithdraw {ks : List Comp} {s0 : State} {s : State} {r} (hw : [.regs, .band] ⊆ ks) (h : s0.within ks s) :
    s0.within ks (State.balWithdraw s r) := by
  unfold State.balWithdraw
  try dsimp only
  repeat' (first
    | with_reducible assumption
    | with_reducible apply within_setBand (sub_of hw rfl)
    | with_reducible apply within_setBal (sub_of hw rfl))

theorem within_bandRec {ks : List Comp} {s0 : State} {s : State} {reason} (hw : [.err] ⊆ ks) (h : s0.within ks s) :
    s0.within ks (State.bandRec s reason) := by
  unfold State.bandRec
  try dsimp only
  repeat' (first
    | with_reducible assumption
    | with_reducible apply within_raise (sub_of hw rfl))

theorem within_bandRecLim {ks : List Comp} {s0 : State} {s : State} {reason} (hw : [.err] ⊆ ks) (h : s0.within ks s) :
    s0.within ks (State.bandRecLim s reason) := by
  unfold State.bandRecLim
  try dsimp only
  repeat' (first
    | with_reducible assumption
    | with_reducible apply within_setRate (sub_of hw rfl)
    | with_reducible apply within_bandRec (sub_of hw rfl)
    | with_reducible apply within_ite
    | split)

theorem within_bandStep {ks : List Comp} {s0 : State} {a0 : State} (hw : [.regs, .dies, .band] ⊆ ks) (h : s0.within ks a0) :
    s0.within ks (State.bandStep a0) := by
  unfold State.bandStep
  try dsimp only
  repeat' (first
    | with_reducible assumption
    | with_reducible apply within_balSettle (sub_of hw rfl)
    | with_reducible apply within_balOff (sub_of hw rfl)
    | with_reducible apply within_issueLevel (sub_of hw rfl)
    | with_reducible apply within_setBand (sub_of hw rfl)
    | with_reducible apply within_balOn (sub_of hw rfl)
    | with_reducible apply within_ite)

theorem within_sendEvent {ks : List Comp} {s0 : State} {s : State} {code} (hw : [.out, .free] ⊆ ks) (h : s0.within ks s) :
    s0.within ks (State.sendEvent s code) := by
  unfold State.sendEvent
  try dsimp only
  repeat' (first
    | with_reducible assumption
    | with_reducible apply within_sendRack (sub_of hw rfl)
    | with_reducible apply within_fresh (sub_of hw rfl)
    | with_reducible apply within_foldl
    | with_reducible apply within_foldl_pair
    | with_reducible exact within_refl _
    | with_reducible apply within_ite
    | with_reducible apply within_ite_pair
    | with_reducible exact Or.inl rfl
    | exact Or.inr (hw (by decide))
    | exact hw (by decide)
    | with_reducible refine within_pair (by assumption) ?_
    | (intro _ _ _; try dsimp only)
    | (intro _ _; try dsimp only)
    | split
    | with_reducible apply within_mk)

theorem within_budget {ks : List Comp} {s0 : State} {s : State} {f} (hw : [.band, .err, .out, .free] ⊆ ks) (h : s0.within ks s) :
    s0.within ks (State.budget s f) := by
  unfold State.budget
  try dsimp only
  repeat' (first
    | with_reducible assumption
    | with_reducible apply within_setBand (sub_of hw rfl)
    | with_reducible apply within_bandRec (sub_of hw rfl)
    | with_reducible apply within_sendEvent (sub_of hw rfl)
    | with_reducible apply within_ite)

theorem within_busSend {ks : List Comp} {s0 : State} {s : State} (hw : [.band, .out] ⊆ ks) (h : s0.within ks s) :
    s0.within ks (State.busSend s) := by
  unfold State.busSend
  try dsimp only
  repeat' (first
    | with_reducible assumption
    | with_reducible apply within_sendRack (sub_of hw rfl)
    | with_reducible apply within_setBand (sub_of hw rfl)
    | with_reducible apply within_foldl
    | with_reducible apply within_foldl_pair
    | with_reducible exact within_refl _
    | with_reducible apply within_ite
    | with_reducible apply within_ite_pair
    | with_reducible exact Or.inl rfl
    | exact Or.inr (hw (by decide))
    | exact hw (by decide)
    | with_reducible refine within_pair (by assumption) ?_
    | (intro _ _ _; try dsimp only)
    | (intro _ _; try dsimp only)
    | split
    | with_reducible apply within_mk)

theorem within_cancel {ks : List Comp} {s0 : State} {s : State} {f} (hw : [.band] ⊆ ks) (h : s0.within ks s) :
    s0.within ks (State.cancel s f) := by
  unfold State.cancel
  try dsimp only
  repeat' (first
    | with_reducible assumption
    | with_reducible apply within_setBand (sub_of hw rfl))

theorem within_frameReceive {ks : List Comp} {s0 : State} {s : State} {f} (hw : [.regs, .band, .err] ⊆ ks) (h : s0.within ks s) :
    s0.within ks (State.frameReceive s f).1 := by
  unfold State.frameReceive
  try dsimp only
  repeat' (first
    | with_reducible assumption
    | with_reducible apply within_incSatUn (sub_of hw rfl)
    | with_reducible apply within_bandRecLim (sub_of hw rfl)
    | with_reducible apply within_setBand (sub_of hw rfl)
    | split)

theorem within_grant {ks : List Comp} {s0 : State} {s : State} {w} (hw : [.band, .err] ⊆ ks) (h : s0.within ks s) :
    s0.within ks (State.grant s w) := by
  unfold State.grant
  try dsimp only
  repeat' (first
    | with_reducible assumption
    | with_reducible apply within_bandRecLim (sub_of hw rfl)
    | with_reducible apply within_setBand (sub_of hw rfl)
    | with_reducible apply within_ite)

theorem within_heatBallast {ks : List Comp} {s0 : State} {s : State} {r t} (hw : [.regs, .band] ⊆ ks) (h : s0.within ks s) :
    s0.within ks (State.heatBallast s r t) := by
  unfold State.heatBallast
  try dsimp only
  repeat' (first
    | with_reducible assumption
    | with_reducible apply within_setFld (sub_of hw rfl)
    | with_reducible apply within_balWithdraw (sub_of hw rfl)
    | with_reducible apply within_ite)

theorem within_heatRec {ks : List Comp} {s0 : State} {s : State} {r reason} (hw : [.err] ⊆ ks) (h : s0.within ks s) :
    s0.within ks (State.heatRec s r reason) := by
  unfold State.heatRec
  try dsimp only
  repeat' (first
    | with_reducible assumption
    | with_reducible apply within_raise (sub_of hw rfl))

theorem within_heatCap {ks : List Comp} {s0 : State} {s : State} {r t} (hw : [.regs, .regions, .err] ⊆ ks) (h : s0.within ks s) :
    s0.within ks (State.heatCap s r t) := by
  unfold State.heatCap
  try dsimp only
  repeat' (first
    | with_reducible assumption
    | with_reducible apply within_setRegion (sub_of hw rfl)
    | with_reducible apply within_setFld (sub_of hw rfl)
    | with_reducible apply within_heatRec (sub_of hw rfl)
    | with_reducible apply within_ite)

theorem within_heatOff {ks : List Comp} {s0 : State} {s : State} {r} (hw : [.regs, .cells, .regions, .band, .err] ⊆ ks) (h : s0.within ks s) :
    s0.within ks (State.heatOff s r) := by
  unfold State.heatOff
  try dsimp only
  repeat' (first
    | with_reducible assumption
    | with_reducible apply within_setFld (sub_of hw rfl)
    | with_reducible apply within_regionOff (sub_of hw rfl)
    | with_reducible apply within_setRegion (sub_of hw rfl)
    | with_reducible apply within_heatRec (sub_of hw rfl)
    | with_reducible apply within_ite)

theorem within_heatOn {ks : List Comp} {s0 : State} {s : State} {r} (hw : [.regs, .regions] ⊆ ks) (h : s0.within ks s) :
    s0.within ks (State.heatOn s r) := by
  unfold State.heatOn
  try dsimp only
  repeat' (first
    | with_reducible assumption
    | with_reducible apply within_startTurnOn (sub_of hw rfl)
    | with_reducible apply within_ite
    | split)

theorem within_heatTimers {ks : List Comp} {s0 : State} {s : State} {r t} (hw : [.regions] ⊆ ks) (h : s0.within ks s) :
    s0.within ks (State.heatTimers s r t) := by
  unfold State.heatTimers
  try dsimp only
  repeat' (first
    | with_reducible assumption
    | with_reducible apply within_setRegion (sub_of hw rfl)
    | split)

theorem within_setInterval {ks : List Comp} {s0 : State} {s : State} {inb under above} (hw : [.regs] ⊆ ks) (h : s0.within ks s) :
    s0.within ks (State.setInterval s inb under above) := by
  unfold State.setInterval
  try dsimp only
  repeat' (first
    | with_reducible assumption
    | with_reducible apply within_setFld (sub_of hw rfl))

theorem within_intervalJudge {ks : List Comp} {s0 : State} {s : State} (hw : [.regs, .band, .err, .out, .free] ⊆ ks) (h : s0.within ks s) :
    s0.within ks (State.intervalJudge s) := by
  unfold State.intervalJudge
  try dsimp only
  repeat' (first
    | with_reducible assumption
    | with_reducible apply within_fresh (sub_of hw rfl)
    | with_reducible apply within_setFld (sub_of hw rfl)
    | with_reducible apply within_setBand (sub_of hw rfl)
    | with_reducible apply within_incSatUn (sub_of hw rfl)
    | with_reducible apply within_setInterval (sub_of hw rfl)
    | with_reducible apply within_sendEvent (sub_of hw rfl)
    | with_reducible apply within_bandRec (sub_of hw rfl)
    | with_reducible apply within_foldl
    | with_reducible apply within_foldl_pair
    | with_reducible exact within_refl _
    | with_reducible apply within_ite
    | with_reducible apply within_ite_pair
    | with_reducible exact Or.inl rfl
    | exact Or.inr (hw (by decide))
    | exact hw (by decide)
    | with_reducible refine within_pair (by assumption) ?_
    | (intro _ _ _; try dsimp only)
    | (intro _ _; try dsimp only)
    | split
    | with_reducible apply within_mk)

theorem within_modeChange {ks : List Comp} {s0 : State} {s : State} (hw : [.regs, .dies, .band] ⊆ ks) (h : s0.within ks s) :
    s0.within ks (State.modeChange s) := by
  unfold State.modeChange
  try dsimp only
  repeat' (first
    | with_reducible assumption
    | with_reducible apply within_issueLevel (sub_of hw rfl)
    | with_reducible apply within_setBand (sub_of hw rfl)
    | with_reducible apply within_balOff (sub_of hw rfl)
    | with_reducible apply within_ite)

theorem within_onFrame {ks : List Comp} {s0 : State} {s : State} {ft f} {act : State → State} (hw : [.regs, .band, .err] ⊆ ks) (h0 : s0.within ks s) (h1 : ∀ t, s0.within ks t → s0.within ks (act t)) :
    s0.within ks (State.onFrame s ft f act) := by
  unfold State.onFrame
  try dsimp only
  repeat' (first
    | with_reducible assumption
    | with_reducible apply h1
    | with_reducible apply within_frameReceive (sub_of hw rfl)
    | with_reducible apply within_ite
    | with_reducible refine within_pair (by assumption) ?_
    | (intro _ _ _; try dsimp only)
    | (intro _ _; try dsimp only)
    | split)

theorem within_orphanEnter {ks : List Comp} {s0 : State} {s : State} (hw : [.band, .err, .out, .free] ⊆ ks) (h : s0.within ks s) :
    s0.within ks (State.orphanEnter s) := by
  unfold State.orphanEnter
  try dsimp only
  repeat' (first
    | with_reducible assumption
    | with_reducible apply within_bandRec (sub_of hw rfl)
    | with_reducible apply within_sendEvent (sub_of hw rfl)
    | with_reducible apply within_setBand (sub_of hw rfl)
    | with_reducible apply within_ite)

theorem within_rampTick {ks : List Comp} {s0 : State} {s : State} (hw : [.band] ⊆ ks) (h : s0.within ks s) :
    s0.within ks (State.rampTick s) := by
  unfold State.rampTick
  try dsimp only
  repeat' (first
    | with_reducible assumption
    | with_reducible apply within_setBand (sub_of hw rfl)
    | with_reducible apply within_ite)

theorem within_sensorFail {ks : List Comp} {s0 : State} {s : State} {r} (hw : [.regs, .band, .err] ⊆ ks) (h : s0.within ks s) :
    s0.within ks (State.sensorFail s r) := by
  unfold State.sensorFail
  try dsimp only
  repeat' (first
    | with_reducible assumption
    | with_reducible apply within_heatRec (sub_of hw rfl)
    | with_reducible apply within_setFld (sub_of hw rfl)
    | with_reducible apply within_balWithdraw (sub_of hw rfl)
    | with_reducible apply within_ite)

theorem within_setTemp {ks : List Comp} {s0 : State} {s : State} {r t} (hw : [.regs] ⊆ ks) (h : s0.within ks s) :
    s0.within ks (State.setTemp s r t) := by
  unfold State.setTemp
  try dsimp only
  repeat' (first
    | with_reducible assumption
    | with_reducible apply within_setFld (sub_of hw rfl))

theorem within_statusFrame {ks : List Comp} {s0 : State} {s : State} (hw : [.band] ⊆ ks) (h : s0.within ks s) :
    s0.within ks (State.statusFrame s) := by
  unfold State.statusFrame
  try dsimp only
  repeat' (first
    | with_reducible assumption
    | with_reducible apply within_setBand (sub_of hw rfl)
    | with_reducible apply within_foldl
    | with_reducible apply within_foldl_pair
    | with_reducible exact within_refl _
    | with_reducible apply within_ite
    | with_reducible apply within_ite_pair
    | with_reducible exact Or.inl rfl
    | exact Or.inr (hw (by decide))
    | exact hw (by decide)
    | with_reducible refine within_pair (by assumption) ?_
    | (intro _ _ _; try dsimp only)
    | (intro _ _; try dsimp only)
    | split
    | with_reducible apply within_mk)

theorem within_tempEval {ks : List Comp} {s0 : State} {s : State} {r t} (hw : [.regs, .cells, .regions, .band, .err] ⊆ ks) (h : s0.within ks s) :
    s0.within ks (State.tempEval s r t) := by
  unfold State.tempEval
  try dsimp only
  repeat' (first
    | with_reducible assumption
    | with_reducible apply within_heatTimers (sub_of hw rfl)
    | with_reducible apply within_heatBallast (sub_of hw rfl)
    | with_reducible apply within_setTemp (sub_of hw rfl)
    | with_reducible apply within_heatCap (sub_of hw rfl)
    | with_reducible apply within_heatOff (sub_of hw rfl)
    | with_reducible apply within_ite)

theorem within_trimUpdate {ks : List Comp} {s0 : State} {a0 : State} (hw : [.regs, .band, .err, .free] ⊆ ks) (h : s0.within ks a0) :
    s0.within ks (State.trimUpdate a0) := by
  unfold State.trimUpdate
  try dsimp only
  repeat' (first
    | with_reducible assumption
    | with_reducible apply within_setBand (sub_of hw rfl)
    | with_reducible apply within_fresh (sub_of hw rfl)
    | with_reducible apply within_updateCeil (sub_of hw rfl)
    | with_reducible apply within_setFld (sub_of hw rfl)
    | with_reducible apply within_bandRec (sub_of hw rfl)
    | with_reducible apply within_ite)

theorem within_execAverageModeEval {ks : List Comp} (s : State) (hw : [.dies, .band, .free] ⊆ ks) :
    ∃ z, execAverageModeEval s = .next z ∧ s.within ks z := by
  unfold execAverageModeEval
  exact ⟨_, rfl, by
    repeat' (first
      | with_reducible exact within_refl _
      | with_reducible apply within_averageEval (sub_of hw rfl))⟩

theorem within_execBandControlStep {ks : List Comp} (s : State) (hw : [.regs, .dies, .band] ⊆ ks) :
    ∃ z, execBandControlStep s = .next z ∧ s.within ks z := by
  unfold execBandControlStep
  exact ⟨_, rfl, by
    repeat' (first
      | with_reducible exact within_refl _
      | with_reducible apply within_bandStep (sub_of hw rfl))⟩

theorem within_execBandIntervalJudge {ks : List Comp} (s : State) (hw : [.regs, .band, .err, .out, .free] ⊆ ks) :
    ∃ z, execBandIntervalJudge s = .next z ∧ s.within ks z := by
  unfold execBandIntervalJudge
  exact ⟨_, rfl, by
    repeat' (first
      | with_reducible exact within_refl _
      | with_reducible apply within_intervalJudge (sub_of hw rfl))⟩

theorem within_execBandModeChange {ks : List Comp} (s : State) (hw : [.regs, .dies, .band] ⊆ ks) :
    ∃ z, execBandModeChange s = .next z ∧ s.within ks z := by
  unfold execBandModeChange
  exact ⟨_, rfl, by
    repeat' (first
      | with_reducible exact within_refl _
      | with_reducible apply within_modeChange (sub_of hw rfl))⟩

theorem within_execBudgetFrame {ks : List Comp} (s : State) {f} (hw : [.regs, .band, .err, .out, .free] ⊆ ks) :
    ∃ z, execBudgetFrame f s = .next z ∧ s.within ks z := by
  unfold execBudgetFrame
  exact ⟨_, rfl, by
    repeat' (first
      | with_reducible exact within_refl _
      | with_reducible assumption
      | with_reducible apply within_onFrame (sub_of hw rfl)
      | with_reducible apply within_budget (sub_of hw rfl)
      | (intro _ _ _; try dsimp only)
      | (intro _ _; try dsimp only))⟩

theorem within_execCanBusOff {ks : List Comp} (s : State) (hw : [.regs, .err] ⊆ ks) :
    ∃ z, execCanBusOff s = .next z ∧ s.within ks z := by
  unfold execCanBusOff
  exact ⟨_, rfl, by
    repeat' (first
      | with_reducible exact within_refl _
      | with_reducible apply within_bandRec (sub_of hw rfl)
      | with_reducible apply within_incSat (sub_of hw rfl))⟩

theorem within_execCancelFrame {ks : List Comp} (s : State) {f} (hw : [.regs, .band, .err] ⊆ ks) :
    ∃ z, execCancelFrame f s = .next z ∧ s.within ks z := by
  unfold execCancelFrame
  exact ⟨_, rfl, by
    repeat' (first
      | with_reducible exact within_refl _
      | with_reducible assumption
      | with_reducible apply within_onFrame (sub_of hw rfl)
      | with_reducible apply within_cancel (sub_of hw rfl)
      | (intro _ _ _; try dsimp only)
      | (intro _ _; try dsimp only))⟩

theorem within_execHeatSwitchOn {ks : List Comp} (s : State) {d rx ry} (hw : [.regs, .regions] ⊆ ks) :
    ∃ z, execHeatSwitchOn d rx ry s = .next z ∧ s.within ks z := by
  unfold execHeatSwitchOn
  exact ⟨_, rfl, by
    repeat' (first
      | with_reducible exact within_refl _
      | with_reducible apply within_heatOn (sub_of hw rfl))⟩

theorem within_execOrphanEnter {ks : List Comp} (s : State) (hw : [.band, .err, .out, .free] ⊆ ks) :
    ∃ z, execOrphanEnter s = .next z ∧ s.within ks z := by
  unfold execOrphanEnter
  exact ⟨_, rfl, by
    repeat' (first
      | with_reducible exact within_refl _
      | with_reducible apply within_orphanEnter (sub_of hw rfl))⟩

theorem within_execRackFrameIgnored {ks : List Comp} (s : State) {f} (hw : [.regs, .band, .err] ⊆ ks) :
    ∃ z, execRackFrameIgnored f s = .next z ∧ s.within ks z := by
  unfold execRackFrameIgnored
  exact ⟨_, rfl, by
    repeat' (first
      | with_reducible exact within_refl _
      | with_reducible apply within_frameReceive (sub_of hw rfl))⟩

theorem within_execRampRequest {ks : List Comp} (s : State) {w} (hw : [.out] ⊆ ks) :
    ∃ z, execRampRequest w s = .next z ∧ s.within ks z := by
  unfold execRampRequest
  exact ⟨_, rfl, by
    repeat' (first
      | with_reducible exact within_refl _
      | with_reducible apply within_rampRequest (sub_of hw rfl))⟩

theorem within_execRampTick {ks : List Comp} (s : State) (hw : [.band] ⊆ ks) :
    ∃ z, execRampTick s = .next z ∧ s.within ks z := by
  unfold execRampTick
  exact ⟨_, rfl, by
    repeat' (first
      | with_reducible exact within_refl _
      | with_reducible apply within_rampTick (sub_of hw rfl))⟩

theorem within_execRegionTempEval {ks : List Comp} (s : State) {d rx ry t} (hw : [.regs, .cells, .regions, .band, .err] ⊆ ks) :
    ∃ z, execRegionTempEval d rx ry t s = .next z ∧ s.within ks z := by
  unfold execRegionTempEval
  exact ⟨_, rfl, by
    repeat' (first
      | with_reducible exact within_refl _
      | with_reducible apply within_tempEval (sub_of hw rfl))⟩

theorem within_execStatusFrameSend {ks : List Comp} (s : State) (hw : [.band] ⊆ ks) :
    ∃ z, execStatusFrameSend s = .next z ∧ s.within ks z := by
  unfold execStatusFrameSend
  exact ⟨_, rfl, by
    repeat' (first
      | with_reducible exact within_refl _
      | with_reducible apply within_statusFrame (sub_of hw rfl))⟩

theorem within_execTempSensorFail {ks : List Comp} (s : State) {d rx ry} (hw : [.regs, .band, .err] ⊆ ks) :
    ∃ z, execTempSensorFail d rx ry s = .next z ∧ s.within ks z := by
  unfold execTempSensorFail
  exact ⟨_, rfl, by
    repeat' (first
      | with_reducible exact within_refl _
      | with_reducible apply within_sensorFail (sub_of hw rfl))⟩

theorem within_execTimeFrame {ks : List Comp} (s : State) {f} (hw : [.regs, .band, .time, .err] ⊆ ks) :
    ∃ z, execTimeFrame f s = .next z ∧ s.within ks z := by
  unfold execTimeFrame
  exact ⟨_, rfl, by
    repeat' (first
      | with_reducible exact within_refl _
      | with_reducible assumption
      | with_reducible apply within_onFrame (sub_of hw rfl)
      | with_reducible apply within_foldl
      | with_reducible apply within_foldl_pair
      | with_reducible apply within_ite
      | with_reducible apply within_ite_pair
      | with_reducible exact Or.inl rfl
      | exact Or.inr (hw (by decide))
      | exact hw (by decide)
      | with_reducible refine within_pair (by assumption) ?_
      | (intro _ _ _; try dsimp only)
      | (intro _ _; try dsimp only)
      | split
      | with_reducible apply within_mk)⟩

theorem within_execTrimUpdate {ks : List Comp} (s : State) (hw : [.regs, .band, .err, .free] ⊆ ks) :
    ∃ z, execTrimUpdate s = .next z ∧ s.within ks z := by
  unfold execTrimUpdate
  exact ⟨_, rfl, by
    repeat' (first
      | with_reducible exact within_refl _
      | with_reducible apply within_trimUpdate (sub_of hw rfl))⟩

theorem within_execWindowAllFrame {ks : List Comp} (s : State) {f} (hw : [.regs, .band, .err] ⊆ ks) :
    ∃ z, execWindowAllFrame f s = .next z ∧ s.within ks z := by
  unfold execWindowAllFrame
  exact ⟨_, rfl, by
    repeat' (first
      | with_reducible exact within_refl _
      | with_reducible assumption
      | with_reducible apply within_onFrame (sub_of hw rfl)
      | with_reducible apply within_grant (sub_of hw rfl)
      | (intro _ _ _; try dsimp only)
      | (intro _ _; try dsimp only))⟩

theorem within_execWindowFrame {ks : List Comp} (s : State) {f} (hw : [.regs, .band, .err] ⊆ ks) :
    ∃ z, execWindowFrame f s = .next z ∧ s.within ks z := by
  unfold execWindowFrame
  exact ⟨_, rfl, by
    repeat' (first
      | with_reducible exact within_refl _
      | with_reducible assumption
      | with_reducible apply within_onFrame (sub_of hw rfl)
      | with_reducible apply within_grant (sub_of hw rfl)
      | (intro _ _ _; try dsimp only)
      | (intro _ _; try dsimp only))⟩

end Sys2Proof.Laws
end

