-- ==== Sys2Proof/Laws/WithinTime.lean ====
section
/-! SUPPORT. What the operations of Machine/Time.lean may change (`State.within`). -/

set_option Elab.async false
set_option linter.all false

namespace Sys2Proof.Laws

open Sys2Proof Sys2Proof.Machine Sys2Proof.Machine.State

theorem within_setTime {ks : List Comp} {s0 : State} {s : State} {t} (hw : [.time] ⊆ ks) (h : s0.within ks s) :
    s0.within ks (State.setTime s t) := by
  unfold State.setTime
  try dsimp only
  repeat' (first
    | with_reducible assumption
    | with_reducible exact Or.inl rfl
    | exact Or.inr (hw (by decide))
    | exact hw (by decide)
    | with_reducible apply within_mk)

theorem within_timeRec {ks : List Comp} {s0 : State} {s : State} {reason} (hw : [.err] ⊆ ks) (h : s0.within ks s) :
    s0.within ks (State.timeRec s reason) := by
  unfold State.timeRec
  try dsimp only
  repeat' (first
    | with_reducible assumption
    | with_reducible apply within_raise (sub_of hw rfl))

theorem within_timeSrc {ks : List Comp} {s0 : State} {s : State} {src} (hw : [.regs, .band, .time, .err] ⊆ ks) (h : s0.within ks s) :
    s0.within ks (State.timeSrc s src) := by
  unfold State.timeSrc
  try dsimp only
  repeat' (first
    | with_reducible assumption
    | with_reducible apply within_setTime (sub_of hw rfl)
    | with_reducible apply within_setFld (sub_of hw rfl)
    | with_reducible apply within_timeRec (sub_of hw rfl)
    | with_reducible apply within_setBand (sub_of hw rfl)
    | with_reducible apply within_foldl
    | with_reducible apply within_foldl_pair
    | with_reducible exact within_refl _
    | with_reducible apply within_ite
    | with_reducible apply within_ite_pair
    | with_reducible exact Or.inl rfl
    | exact Or.inr (hw (by decide))
    | exact hw (by decide)
    | with_reducible refine within_pair (by assumption) ?_
    | (intro _ _ _; try dsimp only)
    | (intro _ _; try dsimp only)
    | split
    | with_reducible apply within_mk)

theorem within_timeSet {ks : List Comp} {s0 : State} {s : State} {v} (hw : [.time, .err] ⊆ ks) (h : s0.within ks s) :
    s0.within ks (State.timeSet s v) := by
  unfold State.timeSet
  try dsimp only
  repeat' (first
    | with_reducible assumption
    | with_reducible apply within_timeRec (sub_of hw rfl)
    | with_reducible apply within_setTime (sub_of hw rfl)
    | with_reducible apply within_ite)

theorem within_dropEnded {ks : List Comp} {s0 : State} {s : State} (hw : [.band] ⊆ ks) (h : s0.within ks s) :
    s0.within ks (State.dropEnded s) := by
  unfold State.dropEnded
  try dsimp only
  repeat' (first
    | with_reducible assumption
    | with_reducible apply within_setBand (sub_of hw rfl))

theorem within_correct {ks : List Comp} {s0 : State} {s : State} {off since} (hw : [.regs, .band, .time, .err] ⊆ ks) (h : s0.within ks s) :
    s0.within ks (State.correct s off since) := by
  unfold State.correct
  try dsimp only
  repeat' (first
    | with_reducible assumption
    | with_reducible apply within_incSat (sub_of hw rfl)
    | with_reducible apply within_setTime (sub_of hw rfl)
    | with_reducible apply within_timeRec (sub_of hw rfl)
    | with_reducible apply within_dropEnded (sub_of hw rfl)
    | with_reducible apply within_ite)

theorem within_setOffset {ks : List Comp} {s0 : State} {s : State} {off} (hw : [.regs] ⊆ ks) (h : s0.within ks s) :
    s0.within ks (State.setOffset s off) := by
  unfold State.setOffset
  try dsimp only
  repeat' (first
    | with_reducible assumption
    | with_reducible apply within_setReg (sub_of hw rfl))

theorem within_pps {ks : List Comp} {s0 : State} {s : State} {ref} (hw : [.regs, .band, .time, .err] ⊆ ks) (h : s0.within ks s) :
    s0.within ks (State.pps s ref) := by
  unfold State.pps
  try dsimp only
  repeat' (first
    | with_reducible assumption
    | with_reducible apply within_setTime (sub_of hw rfl)
    | with_reducible apply within_correct (sub_of hw rfl)
    | with_reducible apply within_setOffset (sub_of hw rfl)
    | with_reducible apply within_ite)

theorem within_toHoldover {ks : List Comp} {s0 : State} {s : State} (hw : [.time, .err] ⊆ ks) (h : s0.within ks s) :
    s0.within ks (State.toHoldover s) := by
  unfold State.toHoldover
  try dsimp only
  repeat' (first
    | with_reducible assumption
    | with_reducible apply within_timeRec (sub_of hw rfl)
    | with_reducible apply within_setTime (sub_of hw rfl)
    | with_reducible apply within_ite)

theorem within_refLoss {ks : List Comp} {s0 : State} {s : State} (hw : [.time, .err] ⊆ ks) (h : s0.within ks s) :
    s0.within ks (State.refLoss s) := by
  unfold State.refLoss
  try dsimp only
  repeat' (first
    | with_reducible assumption
    | with_reducible apply within_setTime (sub_of hw rfl)
    | with_reducible apply within_toHoldover (sub_of hw rfl)
    | with_reducible apply within_ite)

theorem within_sync {ks : List Comp} {s0 : State} {a0 : State} {off domain l2} (hw : [.regs, .band, .time, .err, .out] ⊆ ks) (h : s0.within ks a0) :
    s0.within ks (State.sync a0 off domain l2) := by
  unfold State.sync
  try dsimp only
  repeat' (first
    | with_reducible assumption
    | with_reducible apply within_emit (sub_of hw rfl)
    | with_reducible apply within_correct (sub_of hw rfl)
    | with_reducible apply within_setOffset (sub_of hw rfl)
    | with_reducible apply within_setTime (sub_of hw rfl)
    | with_reducible apply within_foldl
    | with_reducible apply within_foldl_pair
    | with_reducible exact within_refl _
    | with_reducible apply within_ite
    | with_reducible apply within_ite_pair
    | with_reducible exact Or.inl rfl
    | exact Or.inr (hw (by decide))
    | exact hw (by decide)
    | with_reducible refine within_pair (by assumption) ?_
    | (intro _ _ _; try dsimp only)
    | (intro _ _; try dsimp only)
    | split
    | with_reducible apply within_mk)

theorem within_unsync {ks : List Comp} {s0 : State} {s : State} (hw : [.band, .time, .err] ⊆ ks) (h : s0.within ks s) :
    s0.within ks (State.unsync s) := by
  unfold State.unsync
  try dsimp only
  repeat' (first
    | with_reducible assumption
    | with_reducible apply within_timeRec (sub_of hw rfl)
    | with_reducible apply within_setBand (sub_of hw rfl)
    | with_reducible apply within_setTime (sub_of hw rfl)
    | with_reducible apply within_ite)

theorem within_execHoldoverEnter {ks : List Comp} (s : State) (hw : [.time, .err] ⊆ ks) :
    ∃ z, execHoldoverEnter s = .next z ∧ s.within ks z := by
  unfold execHoldoverEnter
  exact ⟨_, rfl, by
    repeat' (first
      | with_reducible exact within_refl _
      | with_reducible apply within_toHoldover (sub_of hw rfl)
      | with_reducible apply within_ite)⟩

theorem within_execPpsEdge {ks : List Comp} (s : State) {ref} (hw : [.regs, .band, .time, .err] ⊆ ks) :
    ∃ z, execPpsEdge ref s = .next z ∧ s.within ks z := by
  unfold execPpsEdge
  exact ⟨_, rfl, by
    repeat' (first
      | with_reducible exact within_refl _
      | with_reducible apply within_pps (sub_of hw rfl))⟩

theorem within_execPtpSyncMessage {ks : List Comp} (s : State) {off domain l2} (hw : [.regs, .band, .time, .err, .out] ⊆ ks) :
    ∃ z, execPtpSyncMessage off domain l2 s = .next z ∧ s.within ks z := by
  unfold execPtpSyncMessage
  exact ⟨_, rfl, by
    repeat' (first
      | with_reducible exact within_refl _
      | with_reducible apply within_sync (sub_of hw rfl))⟩

theorem within_execRefLoss {ks : List Comp} (s : State) (hw : [.time, .err] ⊆ ks) :
    ∃ z, execRefLoss s = .next z ∧ s.within ks z := by
  unfold execRefLoss
  exact ⟨_, rfl, by
    repeat' (first
      | with_reducible exact within_refl _
      | with_reducible apply within_refLoss (sub_of hw rfl))⟩

theorem within_execTimeSet {ks : List Comp} (s : State) {v} (hw : [.time, .err] ⊆ ks) :
    ∃ z, execTimeSet v s = .next z ∧ s.within ks z := by
  unfold execTimeSet
  exact ⟨_, rfl, by
    repeat' (first
      | with_reducible exact within_refl _
      | with_reducible apply within_timeSet (sub_of hw rfl))⟩

theorem within_execTimeSrcWrite {ks : List Comp} (s : State) {src} (hw : [.regs, .band, .time, .err] ⊆ ks) :
    ∃ z, execTimeSrcWrite src s = .next z ∧ s.within ks z := by
  unfold execTimeSrcWrite
  exact ⟨_, rfl, by
    repeat' (first
      | with_reducible exact within_refl _
      | with_reducible apply within_timeSrc (sub_of hw rfl))⟩

theorem within_execUnsyncEnter {ks : List Comp} (s : State) (hw : [.band, .time, .err] ⊆ ks) :
    ∃ z, execUnsyncEnter s = .next z ∧ s.within ks z := by
  unfold execUnsyncEnter
  exact ⟨_, rfl, by
    repeat' (first
      | with_reducible exact within_refl _
      | with_reducible apply within_unsync (sub_of hw rfl))⟩

end Sys2Proof.Laws
end

