-- ==== Sys2Proof/Laws/WithinGddr.lean ====
section
/-! SUPPORT. What the operations of Machine/Gddr.lean may change (`State.within`). -/

set_option Elab.async false
set_option linter.all false

namespace Sys2Proof.Laws

open Sys2Proof Sys2Proof.Machine Sys2Proof.Machine.State

theorem within_nextAgain {ks : List Comp} {s0 : State} {s : State} (hw : [.fates] ⊆ ks) (h : s0.within ks s) :
    s0.within ks (State.nextAgain s).1 := by
  unfold State.nextAgain
  try dsimp only
  repeat' (first
    | with_reducible assumption
    | with_reducible apply within_foldl
    | with_reducible apply within_foldl_pair
    | with_reducible exact within_refl _
    | with_reducible apply within_ite
    | with_reducible apply within_ite_pair
    | with_reducible exact Or.inl rfl
    | exact Or.inr (hw (by decide))
    | exact hw (by decide)
    | with_reducible refine within_pair (by assumption) ?_
    | (intro _ _ _; try dsimp only)
    | (intro _ _; try dsimp only)
    | split
    | with_reducible apply within_mk)

theorem within_nextFate {ks : List Comp} {s0 : State} {s : State} (hw : [.fates] ⊆ ks) (h : s0.within ks s) :
    s0.within ks (State.nextFate s).1 := by
  unfold State.nextFate
  try dsimp only
  repeat' (first
    | with_reducible assumption
    | with_reducible apply within_foldl
    | with_reducible apply within_foldl_pair
    | with_reducible exact within_refl _
    | with_reducible apply within_ite
    | with_reducible apply within_ite_pair
    | with_reducible exact Or.inl rfl
    | exact Or.inr (hw (by decide))
    | exact hw (by decide)
    | with_reducible refine within_pair (by assumption) ?_
    | (intro _ _ _; try dsimp only)
    | (intro _ _; try dsimp only)
    | split
    | with_reducible apply within_mk)

theorem within_putHalf {ks : List Comp} {s0 : State} {s : State} {a w chk} (hw : [.mem] ⊆ ks) (h : s0.within ks s) :
    s0.within ks (State.putHalf s a w chk) := by
  unfold State.putHalf
  try dsimp only
  repeat' (first
    | with_reducible assumption
    | with_reducible apply within_setBytes (sub_of hw rfl))

theorem within_poisonHalf {ks : List Comp} {s0 : State} {s : State} {a} (hw : [.mem] ⊆ ks) (h : s0.within ks s) :
    s0.within ks (State.poisonHalf s a) := by
  unfold State.poisonHalf
  try dsimp only
  repeat' (first
    | with_reducible assumption
    | with_reducible apply within_putHalf (sub_of hw rfl))

theorem within_memLast {ks : List Comp} {s0 : State} {s : State} {g cls a syn} (hw : [.regs] ⊆ ks) (h : s0.within ks s) :
    s0.within ks (State.memLast s g cls a syn) := by
  unfold State.memLast
  try dsimp only
  repeat' (first
    | with_reducible assumption
    | with_reducible apply within_setReg (sub_of hw rfl))

theorem within_memRaise {ks : List Comp} {s0 : State} {s : State} {g cls a syn detail struck} (hw : [.regs, .err] ⊆ ks) (h : s0.within ks s) :
    s0.within ks (State.memRaise s g cls a syn detail struck) := by
  unfold State.memRaise
  try dsimp only
  repeat' (first
    | with_reducible assumption
    | with_reducible apply within_raise (sub_of hw rfl)
    | with_reducible apply within_memLast (sub_of hw rfl))

theorem within_halfTest {ks : List Comp} {s0 : State} {s : State} {g} (hw : [.mcs] ⊆ ks) (h : s0.within ks s) :
    s0.within ks (State.halfTest s g) := by
  unfold State.halfTest
  try dsimp only
  repeat' (first
    | with_reducible assumption
    | with_reducible apply within_setMc (sub_of hw rfl))

theorem within_tagWrong {ks : List Comp} {s0 : State} {s : State} {g a} (hw : [.regs, .mem, .mcs, .err] ⊆ ks) (h : s0.within ks s) :
    s0.within ks (State.tagWrong s g a) := by
  unfold State.tagWrong
  try dsimp only
  repeat' (first
    | with_reducible assumption
    | with_reducible apply within_poisonHalf (sub_of hw rfl)
    | with_reducible apply within_setBytes (sub_of hw rfl)
    | with_reducible apply within_memRaise (sub_of hw rfl)
    | with_reducible apply within_halfTest (sub_of hw rfl)
    | with_reducible apply within_incSatUn (sub_of hw rfl)
    | with_reducible apply within_foldl
    | (intro _ _ _; try dsimp only)
    | (intro _ _; try dsimp only))

theorem within_memRaiseLim {ks : List Comp} {s0 : State} {s : State} {g cls a syn} (hw : [.regs, .err] ⊆ ks) (h : s0.within ks s) :
    s0.within ks (State.memRaiseLim s g cls a syn) := by
  unfold State.memRaiseLim
  try dsimp only
  repeat' (first
    | with_reducible assumption
    | with_reducible apply within_raiseLim (sub_of hw rfl)
    | with_reducible apply within_memLast (sub_of hw rfl)
    | with_reducible apply within_ite)

theorem within_writeHalf {ks : List Comp} {s0 : State} {s : State} {a w} (hw : [.mem] ⊆ ks) (h : s0.within ks s) :
    s0.within ks (State.writeHalf s a w) := by
  unfold State.writeHalf
  try dsimp only
  repeat' (first
    | with_reducible assumption
    | with_reducible apply within_putHalf (sub_of hw rfl))

theorem within_readHalf {ks : List Comp} {s0 : State} {s : State} {g a} (hw : [.regs, .mem, .mcs, .err] ⊆ ks) (h : s0.within ks s) :
    s0.within ks (State.readHalf s g a).1 := by
  unfold State.readHalf
  try dsimp only
  repeat' (first
    | with_reducible assumption
    | with_reducible apply within_memRaiseLim (sub_of hw rfl)
    | with_reducible apply within_incSatUn (sub_of hw rfl)
    | with_reducible apply within_writeHalf (sub_of hw rfl)
    | with_reducible apply within_memRaise (sub_of hw rfl)
    | with_reducible apply within_halfTest (sub_of hw rfl)
    | with_reducible apply within_poisonHalf (sub_of hw rfl)
    | split)

theorem within_readHalves {ks : List Comp} {s0 : State} {s : State} {g a len} (hw : [.regs, .mem, .mcs, .err] ⊆ ks) (h : s0.within ks s) :
    s0.within ks (State.readHalves s g a len).1 := by
  unfold State.readHalves
  try dsimp only
  repeat' (first
    | with_reducible assumption
    | with_reducible apply within_tagWrong (sub_of hw rfl)
    | with_reducible apply within_readHalf (sub_of hw rfl)
    | with_reducible apply within_foldl_pair
    | with_reducible apply within_ite_pair
    | with_reducible refine within_pair (by assumption) ?_
    | (intro _ _ _; try dsimp only)
    | (intro _ _; try dsimp only)
    | split)

theorem within_gddrFetch {ks : List Comp} {s0 : State} {s : State} {g a len} (hw : [.regs, .mem, .mcs, .err] ⊆ ks) (h : s0.within ks s) :
    s0.within ks (State.gddrFetch s g a len).1 := by
  unfold State.gddrFetch
  try dsimp only
  repeat' (first
    | with_reducible assumption
    | with_reducible apply within_readHalves (sub_of hw rfl)
    | with_reducible apply within_ite_pair)

theorem within_writePart {ks : List Comp} {s0 : State} {s : State} {g req a data pois a6} (hw : [.regs, .mem, .err] ⊆ ks) (h : s0.within ks s) :
    s0.within ks (State.writePart s g req a data pois a6).1 := by
  unfold State.writePart
  try dsimp only
  repeat' (first
    | with_reducible assumption
    | with_reducible apply within_poisonHalf (sub_of hw rfl)
    | with_reducible apply within_writeHalf (sub_of hw rfl)
    | with_reducible apply within_memRaiseLim (sub_of hw rfl)
    | with_reducible apply within_incSatUn (sub_of hw rfl)
    | with_reducible apply within_memRaise (sub_of hw rfl)
    | with_reducible apply within_ite_pair
    | split)

theorem within_gddrStore {ks : List Comp} {s0 : State} {s : State} {g req a data pois} (hw : [.regs, .mem, .mcs, .err] ⊆ ks) (h : s0.within ks s) :
    s0.within ks (State.gddrStore s g req a data pois).1 := by
  unfold State.gddrStore
  try dsimp only
  repeat' (first
    | with_reducible assumption
    | with_reducible apply within_haltPanelOf (sub_of hw rfl)
    | with_reducible apply within_tagWrong (sub_of hw rfl)
    | with_reducible apply within_writePart (sub_of hw rfl)
    | with_reducible apply within_foldl_pair
    | with_reducible apply within_ite
    | with_reducible apply within_ite_pair
    | (intro _ _ _; try dsimp only)
    | (intro _ _; try dsimp only)
    | split)

theorem within_serveWait {ks : List Comp} {s0 : State} {s : State} {g w} (hw : [.regs, .mem, .mcs, .resp, .err] ⊆ ks) (h : s0.within ks s) :
    s0.within ks (State.serveWait s g w) := by
  unfold State.serveWait
  try dsimp only
  repeat' (first
    | with_reducible assumption
    | with_reducible apply within_setMc (sub_of hw rfl)
    | with_reducible apply within_gddrFetch (sub_of hw rfl)
    | with_reducible apply within_answer (sub_of hw rfl)
    | with_reducible apply within_gddrStore (sub_of hw rfl)
    | with_reducible apply within_foldl
    | with_reducible apply within_foldl_pair
    | with_reducible exact within_refl _
    | with_reducible apply within_ite
    | with_reducible apply within_ite_pair
    | with_reducible exact Or.inl rfl
    | exact Or.inr (hw (by decide))
    | exact hw (by decide)
    | with_reducible refine within_pair (by assumption) ?_
    | (intro _ _ _; try dsimp only)
    | (intro _ _; try dsimp only)
    | split
    | with_reducible apply within_mk)

theorem within_serveWaits {ks : List Comp} {s0 : State} {s : State} {d n} (hw : [.regs, .mem, .mcs, .resp, .err] ⊆ ks) (h : s0.within ks s) :
    s0.within ks (State.serveWaits s d n) := by
  unfold State.serveWaits
  try dsimp only
  repeat' (first
    | with_reducible assumption
    | with_reducible apply within_serveWait (sub_of hw rfl)
    | with_reducible apply within_foldl
    | with_reducible apply within_foldl_pair
    | with_reducible exact within_refl _
    | with_reducible apply within_ite
    | with_reducible apply within_ite_pair
    | with_reducible exact Or.inl rfl
    | exact Or.inr (hw (by decide))
    | exact hw (by decide)
    | with_reducible refine within_pair (by assumption) ?_
    | (intro _ _ _; try dsimp only)
    | (intro _ _; try dsimp only)
    | split
    | with_reducible apply within_mk)

theorem within_deviceFail {ks : List Comp} {s0 : State} {s : State} {d n ch} (hw : [.regs, .flash, .err] ⊆ ks) (h : s0.within ks s) :
    s0.within ks (State.deviceFail s d n ch) := by
  unfold State.deviceFail
  try dsimp only
  repeat' (first
    | with_reducible assumption
    | with_reducible apply within_confirmFuse (sub_of hw rfl)
    | with_reducible apply within_setFld (sub_of hw rfl)
    | with_reducible apply within_memRaise (sub_of hw rfl)
    | with_reducible apply within_haltPanelOf (sub_of hw rfl)
    | with_reducible apply within_foldl
    | (intro _ _ _; try dsimp only)
    | (intro _ _; try dsimp only))

theorem within_retrainDone {ks : List Comp} {s0 : State} {s : State} {d n ch ok} (hw : [.regs, .mem, .mcs, .resp, .flash, .err] ⊆ ks) (h : s0.within ks s) :
    s0.within ks (State.retrainDone s d n ch ok) := by
  unfold State.retrainDone
  try dsimp only
  repeat' (first
    | with_reducible assumption
    | with_reducible apply within_setFld (sub_of hw rfl)
    | with_reducible apply within_serveWaits (sub_of hw rfl)
    | with_reducible apply within_memRaise (sub_of hw rfl)
    | with_reducible apply within_deviceFail (sub_of hw rfl)
    | with_reducible apply within_ite)

theorem within_channelFree {ks : List Comp} {s0 : State} {s : State} {g} (hw : [.regs, .mem, .mcs, .resp, .flash, .err, .fates] ⊆ ks) (h : s0.within ks s) :
    s0.within ks (State.channelFree s g) := by
  unfold State.channelFree
  try dsimp only
  repeat' (first
    | with_reducible assumption
    | with_reducible apply within_nextFate (sub_of hw rfl)
    | with_reducible apply within_retrainDone (sub_of hw rfl)
    | with_reducible apply within_serveWaits (sub_of hw rfl)
    | with_reducible apply within_foldl
    | with_reducible apply within_foldl_pair
    | with_reducible exact within_refl _
    | with_reducible apply within_ite
    | with_reducible apply within_ite_pair
    | with_reducible exact Or.inl rfl
    | exact Or.inr (hw (by decide))
    | exact hw (by decide)
    | with_reducible refine within_pair (by assumption) ?_
    | (intro _ _ _; try dsimp only)
    | (intro _ _; try dsimp only)
    | split
    | with_reducible apply within_mk)

theorem within_transfer {ks : List Comp} {s0 : State} {s : State} {g a m} (hw : [.regs, .err] ⊆ ks) (h : s0.within ks s) :
    s0.within ks (State.transfer s g a m).1 := by
  unfold State.transfer
  try dsimp only
  repeat' (first
    | with_reducible assumption
    | with_reducible apply within_memRaiseLim (sub_of hw rfl)
    | with_reducible apply within_incSatUn (sub_of hw rfl)
    | with_reducible apply within_setFld (sub_of hw rfl)
    | with_reducible apply within_ite_pair)

theorem within_admitNow {ks : List Comp} {s0 : State} {s : State} {g a} (hw : [.regs, .mem, .mcs, .resp, .flash, .err, .fates] ⊆ ks) (h : s0.within ks s) :
    s0.within ks (State.admitNow s g a) := by
  unfold State.admitNow
  try dsimp only
  repeat' (first
    | with_reducible assumption
    | with_reducible apply within_nextAgain (sub_of hw rfl)
    | with_reducible apply within_channelFree (sub_of hw rfl)
    | with_reducible apply within_transfer (sub_of hw rfl)
    | with_reducible apply within_foldl
    | with_reducible apply within_foldl_pair
    | with_reducible exact within_refl _
    | with_reducible apply within_ite
    | with_reducible apply within_ite_pair
    | with_reducible exact Or.inl rfl
    | exact Or.inr (hw (by decide))
    | exact hw (by decide)
    | with_reducible refine within_pair (by assumption) ?_
    | (intro _ _ _; try dsimp only)
    | (intro _ _; try dsimp only)
    | split
    | with_reducible apply within_mk)

theorem within_admitReq {ks : List Comp} {s0 : State} {s : State} {g a m} (hw : [.regs, .err] ⊆ ks) (h : s0.within ks s) :
    s0.within ks (State.admitReq s g a m).1 := by
  unfold State.admitReq
  try dsimp only
  repeat' (first
    | with_reducible assumption
    | with_reducible apply within_transfer (sub_of hw rfl)
    | with_reducible apply within_foldl
    | with_reducible apply within_foldl_pair
    | with_reducible exact within_refl _
    | with_reducible apply within_ite
    | with_reducible apply within_ite_pair
    | with_reducible exact Or.inl rfl
    | exact Or.inr (hw (by decide))
    | exact hw (by decide)
    | with_reducible refine within_pair (by assumption) ?_
    | (intro _ _ _; try dsimp only)
    | (intro _ _; try dsimp only)
    | split
    | with_reducible apply within_mk)

theorem within_afterMesh {ks : List Comp} {s0 : State} {s : State} {ga} (hw : [.regs, .mem, .mcs, .resp, .err] ⊆ ks) (h : s0.within ks s) :
    s0.within ks (State.afterMesh s ga) := by
  unfold State.afterMesh
  try dsimp only
  repeat' (first
    | with_reducible assumption
    | with_reducible apply within_serveWaits (sub_of hw rfl)
    | with_reducible apply within_foldl
    | with_reducible apply within_foldl_pair
    | with_reducible exact within_refl _
    | with_reducible apply within_ite
    | with_reducible apply within_ite_pair
    | with_reducible exact Or.inl rfl
    | exact Or.inr (hw (by decide))
    | exact hw (by decide)
    | with_reducible refine within_pair (by assumption) ?_
    | (intro _ _ _; try dsimp only)
    | (intro _ _; try dsimp only)
    | split
    | with_reducible apply within_mk)

theorem within_gddrRefuse {ks : List Comp} {s0 : State} {s : State} {req a reason} (hw : [.regs, .err] ⊆ ks) (h : s0.within ks s) :
    s0.within ks (State.gddrRefuse s req a reason) := by
  unfold State.gddrRefuse
  try dsimp only
  repeat' (first
    | with_reducible assumption
    | with_reducible apply within_hostRefuse (sub_of hw rfl)
    | with_reducible apply within_memRaise (sub_of hw rfl)
    | with_reducible apply within_raise (sub_of hw rfl)
    | with_reducible apply within_foldl
    | with_reducible apply within_foldl_pair
    | with_reducible exact within_refl _
    | with_reducible apply within_ite
    | with_reducible apply within_ite_pair
    | with_reducible exact Or.inl rfl
    | exact Or.inr (hw (by decide))
    | exact hw (by decide)
    | with_reducible refine within_pair (by assumption) ?_
    | (intro _ _ _; try dsimp only)
    | (intro _ _; try dsimp only)
    | split
    | with_reducible apply within_mk)

theorem within_gddrReadNow {ks : List Comp} {s0 : State} {s : State} {req a len} (hw : [.regs, .mem, .mcs, .resp, .flash, .err, .fates] ⊆ ks) (h : s0.within ks s) :
    s0.within ks (State.gddrReadNow s req a len).1 := by
  unfold State.gddrReadNow
  try dsimp only
  repeat' (first
    | with_reducible assumption
    | with_reducible apply within_gddrRefuse (sub_of hw rfl)
    | with_reducible apply within_gddrFetch (sub_of hw rfl)
    | with_reducible apply within_admitNow (sub_of hw rfl)
    | with_reducible apply within_ite_pair
    | split)

theorem within_gddrWriteNow {ks : List Comp} {s0 : State} {s : State} {req a data pois} (hw : [.regs, .mem, .mcs, .resp, .flash, .err, .fates] ⊆ ks) (h : s0.within ks s) :
    s0.within ks (State.gddrWriteNow s req a data pois).1 := by
  unfold State.gddrWriteNow
  try dsimp only
  repeat' (first
    | with_reducible assumption
    | with_reducible apply within_gddrRefuse (sub_of hw rfl)
    | with_reducible apply within_gddrStore (sub_of hw rfl)
    | with_reducible apply within_admitNow (sub_of hw rfl)
    | with_reducible apply within_ite_pair
    | split)

theorem within_rawTurn {ks : List Comp} {s0 : State} {s : State} {a} (hw : [.regs, .mem, .mcs, .resp, .flash, .err, .fates] ⊆ ks) (h : s0.within ks s) :
    s0.within ks (State.rawTurn s a) := by
  unfold State.rawTurn
  try dsimp only
  repeat' (first
    | with_reducible assumption
    | with_reducible apply within_admitNow (sub_of hw rfl)
    | with_reducible apply within_foldl
    | with_reducible apply within_foldl_pair
    | with_reducible exact within_refl _
    | with_reducible apply within_ite
    | with_reducible apply within_ite_pair
    | with_reducible exact Or.inl rfl
    | exact Or.inr (hw (by decide))
    | exact hw (by decide)
    | with_reducible refine within_pair (by assumption) ?_
    | (intro _ _ _; try dsimp only)
    | (intro _ _; try dsimp only)
    | split
    | with_reducible apply within_mk)

theorem within_testRefuse {ks : List Comp} {s0 : State} {s : State} {req d n a} (hw : [.regs, .err] ⊆ ks) (h : s0.within ks s) :
    s0.within ks (State.testRefuse s req d n a) := by
  unfold State.testRefuse
  try dsimp only
  repeat' (first
    | with_reducible assumption
    | with_reducible apply within_memRaise (sub_of hw rfl)
    | with_reducible apply within_foldl
    | with_reducible apply within_foldl_pair
    | with_reducible exact within_refl _
    | with_reducible apply within_ite
    | with_reducible apply within_ite_pair
    | with_reducible exact Or.inl rfl
    | exact Or.inr (hw (by decide))
    | exact hw (by decide)
    | with_reducible refine within_pair (by assumption) ?_
    | (intro _ _ _; try dsimp only)
    | (intro _ _; try dsimp only)
    | split
    | with_reducible apply within_mk)

theorem within_memRawWrite {ks : List Comp} {s0 : State} {s : State} {req d n} (hw : [.regs, .mem, .mcs, .resp, .flash, .err, .fates] ⊆ ks) (h : s0.within ks s) :
    s0.within ks (State.memRawWrite s req d n) := by
  unfold State.memRawWrite
  try dsimp only
  repeat' (first
    | with_reducible assumption
    | with_reducible apply within_setBytes (sub_of hw rfl)
    | with_reducible apply within_rawTurn (sub_of hw rfl)
    | with_reducible apply within_testRefuse (sub_of hw rfl)
    | with_reducible apply within_ite)

theorem within_memRawRead {ks : List Comp} {s0 : State} {s : State} {req d n} (hw : [.regs, .mem, .mcs, .resp, .flash, .err, .fates] ⊆ ks) (h : s0.within ks s) :
    s0.within ks (State.memRawRead s req d n) := by
  unfold State.memRawRead
  try dsimp only
  repeat' (first
    | with_reducible assumption
    | with_reducible apply within_rawTurn (sub_of hw rfl)
    | with_reducible apply within_setFld (sub_of hw rfl)
    | with_reducible apply within_hwFld (sub_of hw rfl)
    | with_reducible apply within_testRefuse (sub_of hw rfl)
    | with_reducible apply within_foldl
    | with_reducible apply within_foldl_pair
    | with_reducible exact within_refl _
    | with_reducible apply within_ite
    | with_reducible apply within_ite_pair
    | with_reducible exact Or.inl rfl
    | exact Or.inr (hw (by decide))
    | exact hw (by decide)
    | with_reducible refine within_pair (by assumption) ?_
    | (intro _ _ _; try dsimp only)
    | (intro _ _; try dsimp only)
    | split
    | with_reducible apply within_mk)

theorem within_enqueue {ks : List Comp} {s0 : State} {s : State} {g w} (hw : [.mcs] ⊆ ks) (h : s0.within ks s) :
    s0.within ks (State.enqueue s g w) := by
  unfold State.enqueue
  try dsimp only
  repeat' (first
    | with_reducible assumption
    | with_reducible apply within_setMc (sub_of hw rfl)
    | with_reducible apply within_foldl
    | with_reducible apply within_foldl_pair
    | with_reducible exact within_refl _
    | with_reducible apply within_ite
    | with_reducible apply within_ite_pair
    | with_reducible exact Or.inl rfl
    | exact Or.inr (hw (by decide))
    | exact hw (by decide)
    | with_reducible refine within_pair (by assumption) ?_
    | (intro _ _ _; try dsimp only)
    | (intro _ _; try dsimp only)
    | split
    | with_reducible apply within_mk)

theorem within_mcUpset {ks : List Comp} {s0 : State} {s : State} {g upset} (hw : [.regs, .err] ⊆ ks) (h : s0.within ks s) :
    s0.within ks (State.mcUpset s g upset) := by
  unfold State.mcUpset
  try dsimp only
  repeat' (first
    | with_reducible assumption
    | with_reducible apply within_memRaise (sub_of hw rfl)
    | with_reducible apply within_incSatUn (sub_of hw rfl)
    | with_reducible apply within_foldl
    | with_reducible apply within_foldl_pair
    | with_reducible exact within_refl _
    | with_reducible apply within_ite
    | with_reducible apply within_ite_pair
    | with_reducible exact Or.inl rfl
    | exact Or.inr (hw (by decide))
    | exact hw (by decide)
    | with_reducible refine within_pair (by assumption) ?_
    | (intro _ _ _; try dsimp only)
    | (intro _ _; try dsimp only)
    | split
    | with_reducible apply within_mk)

theorem within_gddrReadReq {ks : List Comp} {s0 : State} {s : State} {req a len m} (hw : [.regs, .mem, .mcs, .err] ⊆ ks) (h : s0.within ks s) :
    s0.within ks (State.gddrReadReq s req a len m).1 := by
  unfold State.gddrReadReq
  try dsimp only
  repeat' (first
    | with_reducible assumption
    | with_reducible apply within_gddrRefuse (sub_of hw rfl)
    | with_reducible apply within_admitReq (sub_of hw rfl)
    | with_reducible apply within_enqueue (sub_of hw rfl)
    | with_reducible apply within_gddrFetch (sub_of hw rfl)
    | with_reducible apply within_ite_pair
    | with_reducible refine within_pair (by assumption) ?_
    | split)

theorem within_gddrRead {ks : List Comp} {s0 : State} {s : State} {req a len m upset} (hw : [.regs, .mem, .mcs, .resp, .err] ⊆ ks) (h : s0.within ks s) :
    s0.within ks (State.gddrRead s req a len m upset) := by
  unfold State.gddrRead
  try dsimp only
  repeat' (first
    | with_reducible assumption
    | with_reducible apply within_mcUpset (sub_of hw rfl)
    | with_reducible apply within_gddrReadReq (sub_of hw rfl)
    | with_reducible apply within_answer (sub_of hw rfl)
    | with_reducible apply within_ite
    | with_reducible refine within_pair (by assumption) ?_
    | split)

theorem within_gddrWriteReq {ks : List Comp} {s0 : State} {s : State} {req a data pois m} (hw : [.regs, .mem, .mcs, .err] ⊆ ks) (h : s0.within ks s) :
    s0.within ks (State.gddrWriteReq s req a data pois m).1 := by
  unfold State.gddrWriteReq
  try dsimp only
  repeat' (first
    | with_reducible assumption
    | with_reducible apply within_gddrRefuse (sub_of hw rfl)
    | with_reducible apply within_admitReq (sub_of hw rfl)
    | with_reducible apply within_enqueue (sub_of hw rfl)
    | with_reducible apply within_gddrStore (sub_of hw rfl)
    | with_reducible apply within_ite_pair
    | with_reducible refine within_pair (by assumption) ?_
    | split)

theorem within_gddrWrite {ks : List Comp} {s0 : State} {s : State} {req a data pois m upset} (hw : [.regs, .mem, .mcs, .resp, .err] ⊆ ks) (h : s0.within ks s) :
    s0.within ks (State.gddrWrite s req a data pois m upset) := by
  unfold State.gddrWrite
  try dsimp only
  repeat' (first
    | with_reducible assumption
    | with_reducible apply within_mcUpset (sub_of hw rfl)
    | with_reducible apply within_gddrWriteReq (sub_of hw rfl)
    | with_reducible apply within_answer (sub_of hw rfl)
    | with_reducible refine within_pair (by assumption) ?_
    | split)

theorem within_memRefresh {ks : List Comp} {s0 : State} {s : State} {d n} (hw : [.mcs] ⊆ ks) (h : s0.within ks s) :
    s0.within ks (State.memRefresh s d n) := by
  unfold State.memRefresh
  try dsimp only
  repeat' (first
    | with_reducible assumption
    | with_reducible apply within_setMc (sub_of hw rfl))

theorem within_memTemp {ks : List Comp} {s0 : State} {s : State} {d n t} (hw : [.regs, .err] ⊆ ks) (h : s0.within ks s) :
    s0.within ks (State.memTemp s d n t) := by
  unfold State.memTemp
  try dsimp only
  repeat' (first
    | with_reducible assumption
    | with_reducible apply within_setFld (sub_of hw rfl)
    | with_reducible apply within_memRaise (sub_of hw rfl)
    | with_reducible apply within_ite)

theorem within_meshAdmit {ks : List Comp} {s0 : State} {s : State} {p m} (hw : [.regs, .err] ⊆ ks) (h : s0.within ks s) :
    s0.within ks (State.meshAdmit s p m).1 := by
  unfold State.meshAdmit
  try dsimp only
  repeat' (first
    | with_reducible assumption
    | with_reducible apply within_transfer (sub_of hw rfl)
    | with_reducible apply within_foldl
    | with_reducible apply within_foldl_pair
    | with_reducible exact within_refl _
    | with_reducible apply within_ite
    | with_reducible apply within_ite_pair
    | with_reducible exact Or.inl rfl
    | exact Or.inr (hw (by decide))
    | exact hw (by decide)
    | with_reducible refine within_pair (by assumption) ?_
    | (intro _ _ _; try dsimp only)
    | (intro _ _; try dsimp only)
    | split
    | with_reducible apply within_mk)

theorem within_segmentDone {ks : List Comp} {s0 : State} {s : State} {d n} (hw : [.regs, .mcs] ⊆ ks) (h : s0.within ks s) :
    s0.within ks (State.segmentDone s d n) := by
  unfold State.segmentDone
  try dsimp only
  repeat' (first
    | with_reducible assumption
    | with_reducible apply within_setMc (sub_of hw rfl)
    | with_reducible apply within_incWrap (sub_of hw rfl)
    | with_reducible apply within_setFld (sub_of hw rfl)
    | with_reducible apply within_foldl
    | with_reducible apply within_foldl_pair
    | with_reducible exact within_refl _
    | with_reducible apply within_ite
    | with_reducible apply within_ite_pair
    | with_reducible exact Or.inl rfl
    | exact Or.inr (hw (by decide))
    | exact hw (by decide)
    | with_reducible refine within_pair (by assumption) ?_
    | (intro _ _ _; try dsimp only)
    | (intro _ _; try dsimp only)
    | split
    | with_reducible apply within_mk)

theorem within_scrubSegment {ks : List Comp} {s0 : State} {s : State} {d n m} (hw : [.regs, .mem, .mcs, .err] ⊆ ks) (h : s0.within ks s) :
    s0.within ks (State.scrubSegment s d n m) := by
  unfold State.scrubSegment
  try dsimp only
  repeat' (first
    | with_reducible assumption
    | with_reducible apply within_transfer (sub_of hw rfl)
    | with_reducible apply within_segmentDone (sub_of hw rfl)
    | with_reducible apply within_readHalves (sub_of hw rfl)
    | with_reducible apply within_foldl
    | with_reducible apply within_foldl_pair
    | with_reducible exact within_refl _
    | with_reducible apply within_ite
    | with_reducible apply within_ite_pair
    | with_reducible exact Or.inl rfl
    | exact Or.inr (hw (by decide))
    | exact hw (by decide)
    | with_reducible refine within_pair (by assumption) ?_
    | (intro _ _ _; try dsimp only)
    | (intro _ _; try dsimp only)
    | split
    | with_reducible apply within_mk)

theorem within_mscrubLate {ks : List Comp} {s0 : State} {s : State} {d n} (hw : [.regs, .err] ⊆ ks) (h : s0.within ks s) :
    s0.within ks (State.mscrubLate s d n) := by
  unfold State.mscrubLate
  try dsimp only
  repeat' (first
    | with_reducible assumption
    | with_reducible apply within_memRaise (sub_of hw rfl)
    | with_reducible apply within_setFld (sub_of hw rfl)
    | with_reducible apply within_ite)

theorem within_mscrub {ks : List Comp} {s0 : State} {s : State} {d n m upset} (hw : [.regs, .mem, .mcs, .err] ⊆ ks) (h : s0.within ks s) :
    s0.within ks (State.mscrub s d n m upset) := by
  unfold State.mscrub
  repeat' (first
    | with_reducible assumption
    | extract_lets
    | with_reducible apply within_mcUpset (sub_of hw rfl)
    | with_reducible apply within_scrubSegment (sub_of hw rfl)
    | with_reducible apply within_mscrubLate (sub_of hw rfl)
    | with_reducible apply within_foldl
    | with_reducible apply within_foldl_pair
    | with_reducible exact within_refl _
    | with_reducible apply within_ite
    | with_reducible apply within_ite_pair
    | with_reducible exact Or.inl rfl
    | exact Or.inr (hw (by decide))
    | exact hw (by decide)
    | with_reducible refine within_pair (by assumption) ?_
    | (intro _ _ _; try dsimp only)
    | (intro _ _; try dsimp only)
    | split
    | with_reducible apply within_mk)

theorem within_execChannelRetrainDone {ks : List Comp} (s : State) {d n ch ok} (hw : [.regs, .mem, .mcs, .resp, .flash, .err] ⊆ ks) :
    ∃ z, execChannelRetrainDone d n ch ok s = .next z ∧ s.within ks z := by
  unfold execChannelRetrainDone
  exact ⟨_, rfl, by
    repeat' (first
      | with_reducible exact within_refl _
      | with_reducible apply within_retrainDone (sub_of hw rfl))⟩

theorem within_execGddrRead {ks : List Comp} (s : State) {req ga len m upset} (hw : [.regs, .mem, .mcs, .resp, .err] ⊆ ks) :
    ∃ z, execGddrRead req ga len m upset s = .next z ∧ s.within ks z := by
  unfold execGddrRead
  exact ⟨_, rfl, by
    repeat' (first
      | with_reducible exact within_refl _
      | with_reducible apply within_gddrRead (sub_of hw rfl))⟩

theorem within_execGddrRefresh {ks : List Comp} (s : State) {d n bank} (hw : [.mcs] ⊆ ks) :
    ∃ z, execGddrRefresh d n bank s = .next z ∧ s.within ks z := by
  unfold execGddrRefresh
  exact ⟨_, rfl, by
    repeat' (first
      | with_reducible exact within_refl _
      | with_reducible apply within_memRefresh (sub_of hw rfl))⟩

theorem within_execGddrScrubSegment {ks : List Comp} (s : State) {d n m upset} (hw : [.regs, .mem, .mcs, .err] ⊆ ks) :
    ∃ z, execGddrScrubSegment d n m upset s = .next z ∧ s.within ks z := by
  unfold execGddrScrubSegment
  exact ⟨_, rfl, by
    repeat' (first
      | with_reducible exact within_refl _
      | with_reducible apply within_mscrub (sub_of hw rfl))⟩

theorem within_execGddrTempRead {ks : List Comp} (s : State) {d n t} (hw : [.regs, .err] ⊆ ks) :
    ∃ z, execGddrTempRead d n t s = .next z ∧ s.within ks z := by
  unfold execGddrTempRead
  exact ⟨_, rfl, by
    repeat' (first
      | with_reducible exact within_refl _
      | with_reducible apply within_memTemp (sub_of hw rfl))⟩

theorem within_execGddrWrite {ks : List Comp} (s : State) {req ga data pois m upset} (hw : [.regs, .mem, .mcs, .resp, .err] ⊆ ks) :
    ∃ z, execGddrWrite req ga data pois m upset s = .next z ∧ s.within ks z := by
  unfold execGddrWrite
  exact ⟨_, rfl, by
    repeat' (first
      | with_reducible exact within_refl _
      | with_reducible apply within_gddrWrite (sub_of hw rfl))⟩

theorem within_execMemEccRawRead {ks : List Comp} (s : State) {req d n} (hw : [.regs, .mem, .mcs, .pend13, .resp, .flash, .err, .fates] ⊆ ks) :
    ∃ z, execMemEccRawRead req d n s = .next z ∧ s.within ks z := by
  unfold execMemEccRawRead
  exact ⟨_, rfl, by
    repeat' (first
      | with_reducible exact within_refl _
      | with_reducible assumption
      | with_reducible apply within_memRawRead (sub_of hw rfl)
      | with_reducible apply within_dropPend (sub_of hw rfl)
      | with_reducible apply within_foldl
      | with_reducible apply within_foldl_pair
      | with_reducible apply within_ite
      | with_reducible apply within_ite_pair
      | with_reducible exact Or.inl rfl
      | exact Or.inr (hw (by decide))
      | exact hw (by decide)
      | with_reducible refine within_pair (by assumption) ?_
      | (intro _ _ _; try dsimp only)
      | (intro _ _; try dsimp only)
      | split
      | with_reducible apply within_mk)⟩

theorem within_execMemEccRawWrite {ks : List Comp} (s : State) {req d n} (hw : [.regs, .mem, .mcs, .pend13, .resp, .flash, .err, .fates] ⊆ ks) :
    ∃ z, execMemEccRawWrite req d n s = .next z ∧ s.within ks z := by
  unfold execMemEccRawWrite
  exact ⟨_, rfl, by
    repeat' (first
      | with_reducible exact within_refl _
      | with_reducible assumption
      | with_reducible apply within_memRawWrite (sub_of hw rfl)
      | with_reducible apply within_dropPend (sub_of hw rfl)
      | with_reducible apply within_foldl
      | with_reducible apply within_foldl_pair
      | with_reducible apply within_ite
      | with_reducible apply within_ite_pair
      | with_reducible exact Or.inl rfl
      | exact Or.inr (hw (by decide))
      | exact hw (by decide)
      | with_reducible refine within_pair (by assumption) ?_
      | (intro _ _ _; try dsimp only)
      | (intro _ _; try dsimp only)
      | split
      | with_reducible apply within_mk)⟩

end Sys2Proof.Laws
end

