-- ==== Sys2Proof/Laws/WithinMesh.lean ====
section
/-! SUPPORT. What the operations of Machine/Mesh.lean may change (`State.within`). -/

set_option Elab.async false
set_option linter.all false

namespace Sys2Proof.Laws

open Sys2Proof Sys2Proof.Machine Sys2Proof.Machine.State

theorem within_replacePkt {ks : List Comp} {s0 : State} {s : State} {i ps} (hw : [.net] ⊆ ks) (h : s0.within ks s) :
    s0.within ks (State.replacePkt s i ps) := by
  unfold State.replacePkt
  try dsimp only
  repeat' (first
    | with_reducible assumption
    | with_reducible exact Or.inl rfl
    | exact Or.inr (hw (by decide))
    | exact hw (by decide)
    | with_reducible apply within_mk)

theorem within_agentInject {ks : List Comp} {s0 : State} {s : State} {d p} (hw : [.net] ⊆ ks) (h : s0.within ks s) :
    s0.within ks (State.agentInject s d p) := by
  unfold State.agentInject
  try dsimp only
  repeat' (first
    | with_reducible assumption
    | with_reducible exact Or.inl rfl
    | exact Or.inr (hw (by decide))
    | exact hw (by decide)
    | split
    | with_reducible apply within_mk)

theorem within_pktRaise {ks : List Comp} {s0 : State} {s : State} {cls c link p} (hw : [.regs, .err] ⊆ ks) (h : s0.within ks s) :
    s0.within ks (State.pktRaise s cls c link p) := by
  unfold State.pktRaise
  try dsimp only
  repeat' (first
    | with_reducible assumption
    | with_reducible apply within_raise (sub_of hw rfl)
    | with_reducible apply within_rtrLast (sub_of hw rfl))

theorem within_loseAccess {ks : List Comp} {s0 : State} {s : State} {p} (hw : [.err] ⊆ ks) (h : s0.within ks s) :
    s0.within ks (State.loseAccess s p) := by
  unfold State.loseAccess
  try dsimp only
  repeat' (first
    | with_reducible assumption
    | with_reducible apply within_haltPanelOf (sub_of hw rfl)
    | with_reducible apply within_foldl
    | with_reducible apply within_foldl_pair
    | with_reducible exact within_refl _
    | with_reducible apply within_ite
    | with_reducible apply within_ite_pair
    | with_reducible exact Or.inl rfl
    | exact Or.inr (hw (by decide))
    | exact hw (by decide)
    | with_reducible refine within_pair (by assumption) ?_
    | (intro _ _ _; try dsimp only)
    | (intro _ _; try dsimp only)
    | split
    | with_reducible apply within_mk)

theorem within_gateLink {ks : List Comp} {s0 : State} {s : State} {c l p} (hw : [.regs, .err, .fates] ⊆ ks) (h : s0.within ks s) :
    s0.within ks (State.gateLink s c l p).1 := by
  unfold State.gateLink
  try dsimp only
  repeat' (first
    | with_reducible assumption
    | with_reducible apply within_nextFate (sub_of hw rfl)
    | with_reducible apply within_pktRaise (sub_of hw rfl)
    | with_reducible apply within_loseAccess (sub_of hw rfl)
    | with_reducible apply within_foldl
    | with_reducible apply within_foldl_pair
    | with_reducible exact within_refl _
    | with_reducible apply within_ite
    | with_reducible apply within_ite_pair
    | with_reducible exact Or.inl rfl
    | exact Or.inr (hw (by decide))
    | exact hw (by decide)
    | with_reducible refine within_pair (by assumption) ?_
    | (intro _ _ _; try dsimp only)
    | (intro _ _; try dsimp only)
    | split
    | with_reducible apply within_mk)

theorem within_walk {ks : List Comp} {s0 : State} {s : State} {c via p a4} (hw : [.regs, .regions, .err, .fates] ⊆ ks) (h : s0.within ks s) :
    s0.within ks (State.walk s c via p a4).1 := by
  induction a4 generalizing s c via p with
  | zero => exact h
  | succ n ih =>
    rw [State.walk]
    split
    · exact within_pktRaise (sub_of hw rfl) h
    · split
      · exact h
      · exact within_pktRaise (sub_of hw rfl) h
      · rename_i q l _
        have hg : s0.within ks (s.gateLink c l q).1 := within_gateLink (sub_of hw rfl) h
        split
        · rename_i t k e; rw [e] at hg; exact hg
        · rename_i t e; rw [e] at hg
          dsimp only
          split
          · exact ih (within_act (sub_of hw rfl) hg)
          · exact within_act (sub_of hw rfl) hg

theorem within_walkIn {ks : List Comp} {s0 : State} {s : State} {e q} (hw : [.regs, .regions, .err, .fates] ⊆ ks) (h : s0.within ks s) :
    s0.within ks (State.walkIn s e q).1 := by
  have hg : s0.within ks (s.gateLink e ringLink q).1 := within_gateLink (sub_of hw rfl) h
  rw [State.walkIn]
  split
  · rename_i t k e; rw [e] at hg; exact hg
  · rename_i t e; rw [e] at hg; exact within_walk (sub_of hw rfl) hg

theorem within_dieRefuse {ks : List Comp} {s0 : State} {s : State} {d p} (hw : [.regs, .err] ⊆ ks) (h : s0.within ks s) :
    s0.within ks (State.dieRefuse s d p) := by
  unfold State.dieRefuse
  try dsimp only
  repeat' (first
    | with_reducible assumption
    | with_reducible apply within_hostRefuse (sub_of hw rfl)
    | with_reducible apply within_raise (sub_of hw rfl)
    | with_reducible apply within_foldl
    | with_reducible apply within_foldl_pair
    | with_reducible exact within_refl _
    | with_reducible apply within_ite
    | with_reducible apply within_ite_pair
    | with_reducible exact Or.inl rfl
    | exact Or.inr (hw (by decide))
    | exact hw (by decide)
    | with_reducible refine within_pair (by assumption) ?_
    | (intro _ _ _; try dsimp only)
    | (intro _ _; try dsimp only)
    | split
    | with_reducible apply within_mk)

theorem within_carry {ks : List Comp} {s0 : State} {s : State} {d p t} (hw : [.regs, .regions, .err, .fates] ⊆ ks) (h : s0.within ks s) :
    s0.within ks (State.carry s d p t).1 := by
  unfold State.carry
  try dsimp only
  repeat' (first
    | with_reducible assumption
    | with_reducible apply within_walkIn (sub_of hw rfl)
    | with_reducible apply within_raise (sub_of hw rfl)
    | with_reducible apply within_dieRefuse (sub_of hw rfl)
    | with_reducible apply within_foldl
    | with_reducible apply within_foldl_pair
    | with_reducible exact within_refl _
    | with_reducible apply within_ite
    | with_reducible apply within_ite_pair
    | with_reducible exact Or.inl rfl
    | exact Or.inr (hw (by decide))
    | exact hw (by decide)
    | with_reducible refine within_pair (by assumption) ?_
    | (intro _ _ _; try dsimp only)
    | (intro _ _; try dsimp only)
    | split
    | with_reducible apply within_mk)

theorem within_carryOut {ks : List Comp} {s0 : State} {s : State} {d req ga len write} (hw : [.regs, .regions, .err, .fates] ⊆ ks) (h : s0.within ks s) :
    s0.within ks (State.carryOut s d req ga len write).1 := by
  unfold State.carryOut
  try dsimp only
  repeat' (first
    | with_reducible assumption
    | with_reducible apply within_carry (sub_of hw rfl)
    | with_reducible apply within_foldl
    | with_reducible apply within_foldl_pair
    | with_reducible exact within_refl _
    | with_reducible apply within_ite
    | with_reducible apply within_ite_pair
    | with_reducible exact Or.inl rfl
    | exact Or.inr (hw (by decide))
    | exact hw (by decide)
    | with_reducible refine within_pair (by assumption) ?_
    | (intro _ _ _; try dsimp only)
    | (intro _ _; try dsimp only)
    | split
    | with_reducible apply within_mk)

theorem within_carryBack {ks : List Comp} {s0 : State} {s : State} {d req ga len write} (hw : [.regs, .regions, .err, .fates] ⊆ ks) (h : s0.within ks s) :
    s0.within ks (State.carryBack s d req ga len write).1 := by
  unfold State.carryBack
  try dsimp only
  repeat' (first
    | with_reducible assumption
    | with_reducible apply within_walk (sub_of hw rfl)
    | with_reducible apply within_carry (sub_of hw rfl)
    | with_reducible apply within_foldl
    | with_reducible apply within_foldl_pair
    | with_reducible exact within_refl _
    | with_reducible apply within_ite
    | with_reducible apply within_ite_pair
    | with_reducible exact Or.inl rfl
    | exact Or.inr (hw (by decide))
    | exact hw (by decide)
    | with_reducible refine within_pair (by assumption) ?_
    | (intro _ _ _; try dsimp only)
    | (intro _ _; try dsimp only)
    | split
    | with_reducible apply within_mk)

theorem within_carried {ks : List Comp} {s0 : State} {s : State} {d req ga len write lost} {act : State → State × α} (hw : [.regs, .regions, .err, .fates] ⊆ ks) (h0 : s0.within ks s) (h1 : ∀ t, s0.within ks t → s0.within ks (act t).1) :
    s0.within ks (State.carried s d req ga len write lost act).1 := by
  unfold State.carried
  try dsimp only
  repeat' (first
    | with_reducible assumption
    | with_reducible apply h1
    | with_reducible apply within_carryOut (sub_of hw rfl)
    | with_reducible apply within_carryBack (sub_of hw rfl)
    | with_reducible apply within_foldl
    | with_reducible apply within_foldl_pair
    | with_reducible exact within_refl _
    | with_reducible apply within_ite
    | with_reducible apply within_ite_pair
    | with_reducible exact Or.inl rfl
    | exact Or.inr (hw (by decide))
    | exact hw (by decide)
    | with_reducible refine within_pair (by assumption) ?_
    | (intro _ _ _; try dsimp only)
    | (intro _ _; try dsimp only)
    | split
    | with_reducible apply within_mk)

theorem within_refuseAtOrigin {ks : List Comp} {s0 : State} {s : State} {c p why} (hw : [.regs, .err] ⊆ ks) (h : s0.within ks s) :
    s0.within ks (State.refuseAtOrigin s c p why) := by
  unfold State.refuseAtOrigin
  try dsimp only
  repeat' (first
    | with_reducible assumption
    | with_reducible apply within_rtrLast (sub_of hw rfl)
    | with_reducible apply within_gddrRefuse (sub_of hw rfl)
    | with_reducible apply within_raise (sub_of hw rfl)
    | split)

theorem within_inject {ks : List Comp} {s0 : State} {s : State} {c p} (hw : [.regs, .net, .err] ⊆ ks) (h : s0.within ks s) :
    s0.within ks (State.inject s c p).1 := by
  unfold State.inject
  try dsimp only
  repeat' (first
    | with_reducible assumption
    | with_reducible apply within_refuseAtOrigin (sub_of hw rfl)
    | with_reducible apply within_ite_pair
    | with_reducible exact Or.inl rfl
    | exact Or.inr (hw (by decide))
    | exact hw (by decide)
    | split
    | with_reducible apply within_mk)

theorem within_landSignal {ks : List Comp} {s0 : State} {s : State} {c p} (hw : [.regs, .cells, .err] ⊆ ks) (h : s0.within ks s) :
    s0.within ks (State.landSignal s c p) := by
  unfold State.landSignal
  try dsimp only
  repeat' (first
    | with_reducible assumption
    | with_reducible apply within_rtrLast (sub_of hw rfl)
    | with_reducible apply within_raise (sub_of hw rfl)
    | with_reducible apply within_applySignal (sub_of hw rfl)
    | with_reducible apply within_foldl
    | with_reducible apply within_foldl_pair
    | with_reducible exact within_refl _
    | with_reducible apply within_ite
    | with_reducible apply within_ite_pair
    | with_reducible exact Or.inl rfl
    | exact Or.inr (hw (by decide))
    | exact hw (by decide)
    | with_reducible refine within_pair (by assumption) ?_
    | (intro _ _ _; try dsimp only)
    | (intro _ _; try dsimp only)
    | split
    | with_reducible apply within_mk)

theorem within_agentSignal {ks : List Comp} {s0 : State} {s : State} {d src x y ctr epoch inc} (hw : [.regs, .cells, .regions, .err, .fates] ⊆ ks) (h : s0.within ks s) :
    s0.within ks (State.agentSignal s d src x y ctr epoch inc) := by
  unfold State.agentSignal
  try dsimp only
  repeat' (first
    | with_reducible assumption
    | with_reducible apply within_carry (sub_of hw rfl)
    | with_reducible apply within_landSignal (sub_of hw rfl)
    | with_reducible apply within_foldl
    | with_reducible apply within_foldl_pair
    | with_reducible exact within_refl _
    | with_reducible apply within_ite
    | with_reducible apply within_ite_pair
    | with_reducible exact Or.inl rfl
    | exact Or.inr (hw (by decide))
    | exact hw (by decide)
    | with_reducible refine within_pair (by assumption) ?_
    | (intro _ _ _; try dsimp only)
    | (intro _ _; try dsimp only)
    | split
    | with_reducible apply within_mk)

theorem within_cellToCell {ks : List Comp} {s0 : State} {s : State} {a b p back} (hw : [.regs, .regions, .err, .fates] ⊆ ks) (h : s0.within ks s) :
    s0.within ks (State.cellToCell s a b p back).1 := by
  unfold State.cellToCell
  try dsimp only
  repeat' (first
    | with_reducible assumption
    | with_reducible apply within_walk (sub_of hw rfl)
    | with_reducible apply within_foldl
    | with_reducible apply within_foldl_pair
    | with_reducible exact within_refl _
    | with_reducible apply within_ite
    | with_reducible apply within_ite_pair
    | with_reducible exact Or.inl rfl
    | exact Or.inr (hw (by decide))
    | exact hw (by decide)
    | with_reducible refine within_pair (by assumption) ?_
    | (intro _ _ _; try dsimp only)
    | (intro _ _; try dsimp only)
    | split
    | with_reducible apply within_mk)

theorem within_setLink {ks : List Comp} {s0 : State} {s : State} {c l x} (hw : [.cells] ⊆ ks) (h : s0.within ks s) :
    s0.within ks (State.setLink s c l x) := by
  unfold State.setLink
  try dsimp only
  repeat' (first
    | with_reducible assumption
    | with_reducible apply within_setCell (sub_of hw rfl))

theorem within_bothEnds {ks : List Comp} {s0 : State} {s : State} {c l f} (hw : [.cells] ⊆ ks) (h : s0.within ks s) :
    s0.within ks (State.bothEnds s c l f) := by
  unfold State.bothEnds
  try dsimp only
  repeat' (first
    | with_reducible assumption
    | with_reducible apply within_setLink (sub_of hw rfl)
    | with_reducible apply within_foldl
    | with_reducible apply within_foldl_pair
    | with_reducible exact within_refl _
    | with_reducible apply within_ite
    | with_reducible apply within_ite_pair
    | with_reducible exact Or.inl rfl
    | exact Or.inr (hw (by decide))
    | exact hw (by decide)
    | with_reducible refine within_pair (by assumption) ?_
    | (intro _ _ _; try dsimp only)
    | (intro _ _; try dsimp only)
    | split
    | with_reducible apply within_mk)

theorem within_boundaryShows {ks : List Comp} {s0 : State} {s : State} {d side i} (hw : [.regs] ⊆ ks) (h : s0.within ks s) :
    s0.within ks (State.boundaryShows s d side i) := by
  unfold State.boundaryShows
  try dsimp only
  repeat' (first
    | with_reducible assumption
    | with_reducible apply within_incSat (sub_of hw rfl)
    | with_reducible apply within_setFld (sub_of hw rfl)
    | with_reducible apply within_foldl
    | with_reducible apply within_foldl_pair
    | with_reducible exact within_refl _
    | with_reducible apply within_ite
    | with_reducible apply within_ite_pair
    | with_reducible exact Or.inl rfl
    | exact Or.inr (hw (by decide))
    | exact hw (by decide)
    | with_reducible refine within_pair (by assumption) ?_
    | (intro _ _ _; try dsimp only)
    | (intro _ _; try dsimp only)
    | split
    | with_reducible apply within_mk)

theorem within_takeCredit {ks : List Comp} {s0 : State} {s : State} {c} (hw : [.regs] ⊆ ks) (h : s0.within ks s) :
    s0.within ks (State.takeCredit s c) := by
  unfold State.takeCredit
  try dsimp only
  repeat' (first
    | with_reducible assumption
    | with_reducible apply within_setFld (sub_of hw rfl)
    | with_reducible apply within_ite)

theorem within_mcWalk {ks : List Comp} {s0 : State} {s : State} {p stall a3 a4} (hw : [.regs, .regions, .err] ⊆ ks) (h : s0.within ks s) :
    s0.within ks (State.mcWalk s p stall a3 a4).1 := by
  induction a3 generalizing s p stall a4 with
  | zero => exact h
  | succ n ih =>
    rcases a4 with _ | ⟨⟨c, via⟩, rest⟩
    · exact h
    · rw [State.mcWalk]
      dsimp only
      have hp : ∀ {k l q}, s0.within ks (s.pktRaise k c l q) := within_pktRaise (sub_of hw rfl) h
      split
      · exact ih (within_foldl _ (fun _ _ ht => within_haltPanelOf (sub_of hw rfl) ht) hp)
      · split
        · exact ih hp
        · split
          · exact ih hp
          · refine ih ?_
            split
            · exact within_takeCredit (sub_of hw rfl) (within_act (sub_of hw rfl) h)
            · exact within_act (sub_of hw rfl) h

theorem within_markEnd {ks : List Comp} {s0 : State} {s : State} {c l} (hw : [.boot] ⊆ ks) (h : s0.within ks s) :
    s0.within ks (State.markEnd s c l) := by
  unfold State.markEnd
  try dsimp only
  repeat' (first
    | with_reducible assumption
    | with_reducible apply within_foldl
    | with_reducible apply within_foldl_pair
    | with_reducible exact within_refl _
    | with_reducible apply within_ite
    | with_reducible apply within_ite_pair
    | with_reducible exact Or.inl rfl
    | exact Or.inr (hw (by decide))
    | exact hw (by decide)
    | with_reducible refine within_pair (by assumption) ?_
    | (intro _ _ _; try dsimp only)
    | (intro _ _; try dsimp only)
    | split
    | with_reducible apply within_mk)

theorem within_failEnd {ks : List Comp} {s0 : State} {s : State} {c l} (hw : [.regs, .cells, .boot] ⊆ ks) (h : s0.within ks s) :
    s0.within ks (State.failEnd s c l) := by
  unfold State.failEnd
  try dsimp only
  repeat' (first
    | with_reducible assumption
    | with_reducible apply within_setLink (sub_of hw rfl)
    | with_reducible apply within_markEnd (sub_of hw rfl)
    | with_reducible apply within_setFld (sub_of hw rfl)
    | with_reducible apply within_foldl
    | with_reducible apply within_foldl_pair
    | with_reducible exact within_refl _
    | with_reducible apply within_ite
    | with_reducible apply within_ite_pair
    | with_reducible exact Or.inl rfl
    | exact Or.inr (hw (by decide))
    | exact hw (by decide)
    | with_reducible refine within_pair (by assumption) ?_
    | (intro _ _ _; try dsimp only)
    | (intro _ _; try dsimp only)
    | split
    | with_reducible apply within_mk)

theorem within_failSide {ks : List Comp} {s0 : State} {s : State} {c side} (hw : [.regs, .cells, .boot] ⊆ ks) (h : s0.within ks s) :
    s0.within ks (State.failSide s c side) := by
  unfold State.failSide
  try dsimp only
  repeat' (first
    | with_reducible assumption
    | with_reducible apply within_failEnd (sub_of hw rfl)
    | with_reducible apply within_foldl
    | with_reducible apply within_foldl_pair
    | with_reducible exact within_refl _
    | with_reducible apply within_ite
    | with_reducible apply within_ite_pair
    | with_reducible exact Or.inl rfl
    | exact Or.inr (hw (by decide))
    | exact hw (by decide)
    | with_reducible refine within_pair (by assumption) ?_
    | (intro _ _ _; try dsimp only)
    | (intro _ _; try dsimp only)
    | split
    | with_reducible apply within_mk)

theorem within_failLinks {ks : List Comp} {s0 : State} {s : State} {c side} (hw : [.regs, .cells, .boot] ⊆ ks) (h : s0.within ks s) :
    s0.within ks (State.failLinks s c side) := by
  unfold State.failLinks
  try dsimp only
  repeat' (first
    | with_reducible assumption
    | with_reducible apply within_failSide (sub_of hw rfl)
    | with_reducible apply within_foldl
    | (intro _ _ _; try dsimp only)
    | (intro _ _; try dsimp only)
    | split)

theorem within_carryPhys {ks : List Comp} {s0 : State} {s : State} {c} (hw : [.regs, .regions, .err, .fates] ⊆ ks) (h : s0.within ks s) :
    s0.within ks (State.carryPhys s c).1 := by
  unfold State.carryPhys
  try dsimp only
  repeat' (first
    | with_reducible assumption
    | with_reducible apply within_walkIn (sub_of hw rfl)
    | with_reducible apply within_walk (sub_of hw rfl)
    | with_reducible apply within_foldl
    | with_reducible apply within_foldl_pair
    | with_reducible exact within_refl _
    | with_reducible apply within_ite
    | with_reducible apply within_ite_pair
    | with_reducible exact Or.inl rfl
    | exact Or.inr (hw (by decide))
    | exact hw (by decide)
    | with_reducible refine within_pair (by assumption) ?_
    | (intro _ _ _; try dsimp only)
    | (intro _ _; try dsimp only)
    | split
    | with_reducible apply within_mk)

theorem within_cellAsks {ks : List Comp} {s0 : State} {s : State} {c req d ga len} (hw : [.regs, .regions, .err, .fates] ⊆ ks) (h : s0.within ks s) :
    s0.within ks (State.cellAsks s c req d ga len).1 := by
  unfold State.cellAsks
  try dsimp only
  repeat' (first
    | with_reducible assumption
    | with_reducible apply within_walk (sub_of hw rfl)
    | with_reducible apply within_walkIn (sub_of hw rfl)
    | with_reducible apply within_foldl
    | with_reducible apply within_foldl_pair
    | with_reducible exact within_refl _
    | with_reducible apply within_ite
    | with_reducible apply within_ite_pair
    | with_reducible exact Or.inl rfl
    | exact Or.inr (hw (by decide))
    | exact hw (by decide)
    | with_reducible refine within_pair (by assumption) ?_
    | (intro _ _ _; try dsimp only)
    | (intro _ _; try dsimp only)
    | split
    | with_reducible apply within_mk)

theorem within_endRequest {ks : List Comp} {s0 : State} {s : State} {p status} (hw : [.resp] ⊆ ks) (h : s0.within ks s) :
    s0.within ks (State.endRequest s p status) := by
  unfold State.endRequest
  try dsimp only
  repeat' (first
    | with_reducible assumption
    | with_reducible apply within_answer (sub_of hw rfl)
    | with_reducible apply within_ite
    | split)

theorem within_unroutable {ks : List Comp} {s0 : State} {s : State} {i c link p} (hw : [.regs, .resp, .net, .err] ⊆ ks) (h : s0.within ks s) :
    s0.within ks (State.unroutable s i c link p) := by
  unfold State.unroutable
  try dsimp only
  repeat' (first
    | with_reducible assumption
    | with_reducible apply within_endRequest (sub_of hw rfl)
    | with_reducible apply within_pktRaise (sub_of hw rfl)
    | with_reducible apply within_replacePkt (sub_of hw rfl))

theorem within_setOut {ks : List Comp} {s0 : State} {s : State} {c side x} (hw : [.cells] ⊆ ks) (h : s0.within ks s) :
    s0.within ks (State.setOut s c side x) := by
  unfold State.setOut
  try dsimp only
  repeat' (first
    | with_reducible assumption
    | with_reducible apply within_setCell (sub_of hw rfl)
    | with_reducible apply within_foldl
    | with_reducible apply within_foldl_pair
    | with_reducible exact within_refl _
    | with_reducible apply within_ite
    | with_reducible apply within_ite_pair
    | with_reducible exact Or.inl rfl
    | exact Or.inr (hw (by decide))
    | exact hw (by decide)
    | with_reducible refine within_pair (by assumption) ?_
    | (intro _ _ _; try dsimp only)
    | (intro _ _; try dsimp only)
    | split
    | with_reducible apply within_mk)

theorem within_takeOut {ks : List Comp} {s0 : State} {s : State} {c side p} (hw : [.cells] ⊆ ks) (h : s0.within ks s) :
    s0.within ks (State.takeOut s c side p) := by
  unfold State.takeOut
  try dsimp only
  repeat' (first
    | with_reducible assumption
    | with_reducible apply within_setOut (sub_of hw rfl)
    | with_reducible apply within_foldl
    | with_reducible apply within_foldl_pair
    | with_reducible exact within_refl _
    | with_reducible apply within_ite
    | with_reducible apply within_ite_pair
    | with_reducible exact Or.inl rfl
    | exact Or.inr (hw (by decide))
    | exact hw (by decide)
    | with_reducible refine within_pair (by assumption) ?_
    | (intro _ _ _; try dsimp only)
    | (intro _ _; try dsimp only)
    | split
    | with_reducible apply within_mk)

theorem within_linkPassed {ks : List Comp} {s0 : State} {s : State} {c l p} (hw : [.cells] ⊆ ks) (h : s0.within ks s) :
    s0.within ks (State.linkPassed s c l p) := by
  unfold State.linkPassed
  try dsimp only
  repeat' (first
    | with_reducible assumption
    | with_reducible apply within_setLink (sub_of hw rfl)
    | with_reducible apply within_foldl
    | with_reducible apply within_foldl_pair
    | with_reducible exact within_refl _
    | with_reducible apply within_ite
    | with_reducible apply within_ite_pair
    | with_reducible exact Or.inl rfl
    | exact Or.inr (hw (by decide))
    | exact hw (by decide)
    | with_reducible refine within_pair (by assumption) ?_
    | (intro _ _ _; try dsimp only)
    | (intro _ _; try dsimp only)
    | split
    | with_reducible apply within_mk)

theorem within_linkSent {ks : List Comp} {s0 : State} {s : State} {c l p} (hw : [.cells, .regions] ⊆ ks) (h : s0.within ks s) :
    s0.within ks (State.linkSent s c l p) := by
  unfold State.linkSent
  try dsimp only
  repeat' (first
    | with_reducible assumption
    | with_reducible apply within_act (sub_of hw rfl)
    | with_reducible apply within_linkPassed (sub_of hw rfl))

theorem within_crossTo {ks : List Comp} {s0 : State} {s : State} {c l p} (hw : [.cells, .regions] ⊆ ks) (h : s0.within ks s) :
    s0.within ks (State.crossTo s c l p) := by
  unfold State.crossTo
  try dsimp only
  repeat' (first
    | with_reducible assumption
    | with_reducible apply within_act (sub_of hw rfl)
    | with_reducible apply within_linkSent (sub_of hw rfl)
    | with_reducible apply within_foldl
    | with_reducible apply within_foldl_pair
    | with_reducible exact within_refl _
    | with_reducible apply within_ite
    | with_reducible apply within_ite_pair
    | with_reducible exact Or.inl rfl
    | exact Or.inr (hw (by decide))
    | exact hw (by decide)
    | with_reducible refine within_pair (by assumption) ?_
    | (intro _ _ _; try dsimp only)
    | (intro _ _; try dsimp only)
    | split
    | with_reducible apply within_mk)

theorem within_refuseFlit {ks : List Comp} {s0 : State} {s : State} {c l p k} (hw : [.regs, .cells, .err] ⊆ ks) (h : s0.within ks s) :
    s0.within ks (State.refuseFlit s c l p k) := by
  unfold State.refuseFlit
  try dsimp only
  repeat' (first
    | with_reducible assumption
    | with_reducible apply within_setLink (sub_of hw rfl)
    | with_reducible apply within_raiseLimCell (sub_of hw rfl)
    | with_reducible apply within_rtrLast (sub_of hw rfl)
    | with_reducible apply within_incSatUn (sub_of hw rfl)
    | with_reducible apply within_foldl
    | with_reducible apply within_foldl_pair
    | with_reducible exact within_refl _
    | with_reducible apply within_ite
    | with_reducible apply within_ite_pair
    | with_reducible exact Or.inl rfl
    | exact Or.inr (hw (by decide))
    | exact hw (by decide)
    | with_reducible refine within_pair (by assumption) ?_
    | (intro _ _ _; try dsimp only)
    | (intro _ _; try dsimp only)
    | split
    | with_reducible apply within_mk)

theorem within_linkRefused {ks : List Comp} {s0 : State} {s : State} {i c l p k} (hw : [.regs, .cells, .net, .err] ⊆ ks) (h : s0.within ks s) :
    s0.within ks (State.linkRefused s i c l p k) := by
  unfold State.linkRefused
  try dsimp only
  repeat' (first
    | with_reducible assumption
    | with_reducible apply within_refuseFlit (sub_of hw rfl)
    | with_reducible apply within_foldl
    | with_reducible apply within_foldl_pair
    | with_reducible exact within_refl _
    | with_reducible apply within_ite
    | with_reducible apply within_ite_pair
    | with_reducible exact Or.inl rfl
    | exact Or.inr (hw (by decide))
    | exact hw (by decide)
    | with_reducible refine within_pair (by assumption) ?_
    | (intro _ _ _; try dsimp only)
    | (intro _ _; try dsimp only)
    | split
    | with_reducible apply within_mk)

theorem within_crossLink {ks : List Comp} {s0 : State} {s : State} {i c l p err} (hw : [.regs, .cells, .regions, .resp, .net, .err] ⊆ ks) (h : s0.within ks s) :
    s0.within ks (State.crossLink s i c l p err) := by
  unfold State.crossLink
  try dsimp only
  repeat' (first
    | with_reducible assumption
    | with_reducible apply within_unroutable (sub_of hw rfl)
    | with_reducible apply within_replacePkt (sub_of hw rfl)
    | with_reducible apply within_takeOut (sub_of hw rfl)
    | with_reducible apply within_crossTo (sub_of hw rfl)
    | with_reducible apply within_linkRefused (sub_of hw rfl)
    | with_reducible apply within_foldl
    | with_reducible apply within_foldl_pair
    | with_reducible exact within_refl _
    | with_reducible apply within_ite
    | with_reducible apply within_ite_pair
    | with_reducible exact Or.inl rfl
    | exact Or.inr (hw (by decide))
    | exact hw (by decide)
    | with_reducible refine within_pair (by assumption) ?_
    | (intro _ _ _; try dsimp only)
    | (intro _ _; try dsimp only)
    | split
    | with_reducible apply within_mk)

theorem within_crossShows {ks : List Comp} {s0 : State} {s : State} {d e side i} (hw : [.regs] ⊆ ks) (h : s0.within ks s) :
    s0.within ks (State.crossShows s d e side i) := by
  unfold State.crossShows
  try dsimp only
  repeat' (first
    | with_reducible assumption
    | with_reducible apply within_boundaryShows (sub_of hw rfl)
    | with_reducible apply within_incSat (sub_of hw rfl)
    | with_reducible apply within_foldl
    | with_reducible apply within_foldl_pair
    | with_reducible exact within_refl _
    | with_reducible apply within_ite
    | with_reducible apply within_ite_pair
    | with_reducible exact Or.inl rfl
    | exact Or.inr (hw (by decide))
    | exact hw (by decide)
    | with_reducible refine within_pair (by assumption) ?_
    | (intro _ _ _; try dsimp only)
    | (intro _ _; try dsimp only)
    | split
    | with_reducible apply within_mk)

theorem within_detourLoad {ks : List Comp} {s0 : State} {s : State} {c es} (hw : [.regs, .cells, .regions, .band] ⊆ ks) (h : s0.within ks s) :
    s0.within ks (State.detourLoad s c es) := by
  unfold State.detourLoad
  try dsimp only
  repeat' (first
    | with_reducible assumption
    | with_reducible apply within_setReg (sub_of hw rfl)
    | with_reducible apply within_detoursIn (sub_of hw rfl)
    | with_reducible apply within_setCell (sub_of hw rfl)
    | with_reducible apply within_foldl
    | (intro _ _ _; try dsimp only)
    | (intro _ _; try dsimp only))

theorem within_failCounts {ks : List Comp} {s0 : State} {s : State} {c e l} (hw : [.regs, .cells, .boot] ⊆ ks) (h : s0.within ks s) :
    s0.within ks (State.failCounts s c e l) := by
  unfold State.failCounts
  try dsimp only
  repeat' (first
    | with_reducible assumption
    | with_reducible apply within_incSat (sub_of hw rfl)
    | with_reducible apply within_setFld (sub_of hw rfl)
    | with_reducible apply within_failLinks (sub_of hw rfl)
    | with_reducible apply within_crossShows (sub_of hw rfl)
    | with_reducible apply within_foldl
    | with_reducible apply within_foldl_pair
    | with_reducible exact within_refl _
    | with_reducible apply within_ite
    | with_reducible apply within_ite_pair
    | with_reducible exact Or.inl rfl
    | exact Or.inr (hw (by decide))
    | exact hw (by decide)
    | with_reducible refine within_pair (by assumption) ?_
    | (intro _ _ _; try dsimp only)
    | (intro _ _; try dsimp only)
    | split
    | with_reducible apply within_mk)

theorem within_failFuses {ks : List Comp} {s0 : State} {s : State} {c l near far} (hw : [.flash, .err] ⊆ ks) (h : s0.within ks s) :
    s0.within ks (State.failFuses s c l near far) := by
  unfold State.failFuses
  try dsimp only
  repeat' (first
    | with_reducible assumption
    | with_reducible apply within_confirmFuse (sub_of hw rfl)
    | with_reducible apply within_foldl
    | with_reducible apply within_foldl_pair
    | with_reducible exact within_refl _
    | with_reducible apply within_ite
    | with_reducible apply within_ite_pair
    | with_reducible exact Or.inl rfl
    | exact Or.inr (hw (by decide))
    | exact hw (by decide)
    | with_reducible refine within_pair (by assumption) ?_
    | (intro _ _ _; try dsimp only)
    | (intro _ _; try dsimp only)
    | split
    | with_reducible apply within_mk)

theorem within_nakReceive {ks : List Comp} {s0 : State} {s : State} {c l ackseq} (hw : [.cells] ⊆ ks) (h : s0.within ks s) :
    s0.within ks (State.nakReceive s c l ackseq) := by
  unfold State.nakReceive
  try dsimp only
  repeat' (first
    | with_reducible assumption
    | with_reducible apply within_setLink (sub_of hw rfl)
    | with_reducible apply within_bothEnds (sub_of hw rfl)
    | with_reducible apply within_ite)

theorem within_idleReceive {ks : List Comp} {s0 : State} {s : State} {c l sb} (hw : [.regs, .cells, .err] ⊆ ks) (h : s0.within ks s) :
    s0.within ks (State.idleReceive s c l sb) := by
  unfold State.idleReceive
  try dsimp only
  repeat' (first
    | with_reducible assumption
    | with_reducible apply within_raiseLimCell (sub_of hw rfl)
    | with_reducible apply within_rtrLast (sub_of hw rfl)
    | with_reducible apply within_incSatUn (sub_of hw rfl)
    | with_reducible apply within_nakReceive (sub_of hw rfl)
    | with_reducible apply within_setLink (sub_of hw rfl)
    | with_reducible apply within_foldl
    | with_reducible apply within_foldl_pair
    | with_reducible exact within_refl _
    | with_reducible apply within_ite
    | with_reducible apply within_ite_pair
    | with_reducible exact Or.inl rfl
    | exact Or.inr (hw (by decide))
    | exact hw (by decide)
    | with_reducible refine within_pair (by assumption) ?_
    | (intro _ _ _; try dsimp only)
    | (intro _ _; try dsimp only)
    | split
    | with_reducible apply within_mk)

theorem within_landLocal {ks : List Comp} {s0 : State} {s : State} {i c p} (hw : [.cells, .net] ⊆ ks) (h : s0.within ks s) :
    s0.within ks (State.landLocal s i c p) := by
  unfold State.landLocal
  try dsimp only
  repeat' (first
    | with_reducible assumption
    | with_reducible apply within_replacePkt (sub_of hw rfl)
    | with_reducible apply within_takeOut (sub_of hw rfl)
    | with_reducible apply within_foldl
    | with_reducible apply within_foldl_pair
    | with_reducible exact within_refl _
    | with_reducible apply within_ite
    | with_reducible apply within_ite_pair
    | with_reducible exact Or.inl rfl
    | exact Or.inr (hw (by decide))
    | exact hw (by decide)
    | with_reducible refine within_pair (by assumption) ?_
    | (intro _ _ _; try dsimp only)
    | (intro _ _; try dsimp only)
    | split
    | with_reducible apply within_mk)

theorem within_spareWire {ks : List Comp} {s0 : State} {s : State} {c l w} (hw : [.regs, .boot, .flash, .err] ⊆ ks) (h : s0.within ks s) :
    s0.within ks (State.spareWire s c l w) := by
  unfold State.spareWire
  try dsimp only
  repeat' (first
    | with_reducible assumption
    | with_reducible apply within_raise (sub_of hw rfl)
    | with_reducible apply within_confirmFuse (sub_of hw rfl)
    | with_reducible apply within_incSat (sub_of hw rfl)
    | with_reducible apply within_foldl
    | with_reducible apply within_foldl_pair
    | with_reducible exact within_refl _
    | with_reducible apply within_ite
    | with_reducible apply within_ite_pair
    | with_reducible exact Or.inl rfl
    | exact Or.inr (hw (by decide))
    | exact hw (by decide)
    | with_reducible refine within_pair (by assumption) ?_
    | (intro _ _ _; try dsimp only)
    | (intro _ _; try dsimp only)
    | split
    | with_reducible apply within_mk)

theorem within_padRec {ks : List Comp} {s0 : State} {s : State} {c l} (hw : [.err] ⊆ ks) (h : s0.within ks s) :
    s0.within ks (State.padRec s c l) := by
  unfold State.padRec
  try dsimp only
  repeat' (first
    | with_reducible assumption
    | with_reducible apply within_raise (sub_of hw rfl)
    | with_reducible apply within_foldl
    | with_reducible apply within_foldl_pair
    | with_reducible exact within_refl _
    | with_reducible apply within_ite
    | with_reducible apply within_ite_pair
    | with_reducible exact Or.inl rfl
    | exact Or.inr (hw (by decide))
    | exact hw (by decide)
    | with_reducible refine within_pair (by assumption) ?_
    | (intro _ _ _; try dsimp only)
    | (intro _ _; try dsimp only)
    | split
    | with_reducible apply within_mk)

theorem within_loseOn {ks : List Comp} {s0 : State} {s : State} {c l} (hw : [.resp, .net] ⊆ ks) (h : s0.within ks s) :
    s0.within ks (State.loseOn s c l) := by
  unfold State.loseOn
  try dsimp only
  repeat' (first
    | with_reducible assumption
    | with_reducible apply within_endRequest (sub_of hw rfl)
    | with_reducible apply within_foldl
    | with_reducible apply within_ite
    | with_reducible exact Or.inl rfl
    | exact Or.inr (hw (by decide))
    | exact hw (by decide)
    | (intro _ _ _; try dsimp only)
    | (intro _ _; try dsimp only)
    | split
    | with_reducible apply within_mk)

theorem within_loopback {ks : List Comp} {s0 : State} {s : State} {c l near far bad raw} (hw : [.regs, .cells, .resp, .net, .boot, .flash, .err] ⊆ ks) (h : s0.within ks s) :
    s0.within ks (State.loopback s c l near far bad raw) := by
  unfold State.loopback
  try dsimp only
  repeat' (first
    | with_reducible assumption
    | with_reducible apply within_spareWire (sub_of hw rfl)
    | with_reducible apply within_raise (sub_of hw rfl)
    | with_reducible apply within_rtrLast (sub_of hw rfl)
    | with_reducible apply within_incSatUn (sub_of hw rfl)
    | with_reducible apply within_bothEnds (sub_of hw rfl)
    | with_reducible apply within_failEnd (sub_of hw rfl)
    | with_reducible apply within_padRec (sub_of hw rfl)
    | with_reducible apply within_failCounts (sub_of hw rfl)
    | with_reducible apply within_raiseFor (sub_of hw rfl)
    | with_reducible apply within_failFuses (sub_of hw rfl)
    | with_reducible apply within_loseOn (sub_of hw rfl)
    | with_reducible apply within_foldl
    | with_reducible apply within_ite
    | (intro _ _ _; try dsimp only)
    | (intro _ _; try dsimp only)
    | split)

theorem within_mcRoute {ks : List Comp} {s0 : State} {s : State} {i c via p errs} (hw : [.regs, .cells, .regions, .resp, .net, .err] ⊆ ks) (h : s0.within ks s) :
    s0.within ks (State.mcRoute s i c via p errs) := by
  unfold State.mcRoute
  try dsimp only
  repeat' (first
    | with_reducible assumption
    | with_reducible apply within_unroutable (sub_of hw rfl)
    | with_reducible apply within_takeOut (sub_of hw rfl)
    | with_reducible apply within_crossTo (sub_of hw rfl)
    | with_reducible apply within_refuseFlit (sub_of hw rfl)
    | with_reducible apply within_takeCredit (sub_of hw rfl)
    | with_reducible apply within_foldl
    | with_reducible apply within_foldl_pair
    | with_reducible exact within_refl _
    | with_reducible apply within_ite
    | with_reducible apply within_ite_pair
    | with_reducible exact Or.inl rfl
    | exact Or.inr (hw (by decide))
    | exact hw (by decide)
    | with_reducible refine within_pair (by assumption) ?_
    | (intro _ _ _; try dsimp only)
    | (intro _ _; try dsimp only)
    | split
    | with_reducible apply within_mk)

theorem within_mcStall {ks : List Comp} {s0 : State} {s : State} {i} (hw : [.regs, .net, .err] ⊆ ks) (h : s0.within ks s) :
    s0.within ks (State.mcStall s i) := by
  unfold State.mcStall
  try dsimp only
  repeat' (first
    | with_reducible assumption
    | with_reducible apply within_haltPanelOf (sub_of hw rfl)
    | with_reducible apply within_pktRaise (sub_of hw rfl)
    | with_reducible apply within_replacePkt (sub_of hw rfl)
    | with_reducible apply within_foldl
    | with_reducible apply within_ite
    | (intro _ _ _; try dsimp only)
    | (intro _ _; try dsimp only)
    | split)

theorem within_ringEnter {ks : List Comp} {s0 : State} {s : State} {i c p err} (hw : [.regs, .cells, .resp, .net, .err] ⊆ ks) (h : s0.within ks s) :
    s0.within ks (State.ringEnter s i c p err) := by
  unfold State.ringEnter
  try dsimp only
  repeat' (first
    | with_reducible assumption
    | with_reducible apply within_unroutable (sub_of hw rfl)
    | with_reducible apply within_replacePkt (sub_of hw rfl)
    | with_reducible apply within_linkPassed (sub_of hw rfl)
    | with_reducible apply within_linkRefused (sub_of hw rfl)
    | with_reducible apply within_foldl
    | with_reducible apply within_foldl_pair
    | with_reducible exact within_refl _
    | with_reducible apply within_ite
    | with_reducible apply within_ite_pair
    | with_reducible exact Or.inl rfl
    | exact Or.inr (hw (by decide))
    | exact hw (by decide)
    | with_reducible refine within_pair (by assumption) ?_
    | (intro _ _ _; try dsimp only)
    | (intro _ _; try dsimp only)
    | split
    | with_reducible apply within_mk)

theorem within_packetRoute {ks : List Comp} {s0 : State} {s : State} {i errs ecc} (hw : [.regs, .cells, .regions, .resp, .net, .err] ⊆ ks) (h : s0.within ks s) :
    s0.within ks (State.packetRoute s i errs ecc) := by
  unfold State.packetRoute
  try dsimp only
  repeat' (first
    | with_reducible assumption
    | with_reducible apply within_unroutable (sub_of hw rfl)
    | with_reducible apply within_ringEnter (sub_of hw rfl)
    | with_reducible apply within_routerEcc (sub_of hw rfl)
    | with_reducible apply within_pktRaise (sub_of hw rfl)
    | with_reducible apply within_replacePkt (sub_of hw rfl)
    | with_reducible apply within_mcRoute (sub_of hw rfl)
    | with_reducible apply within_landLocal (sub_of hw rfl)
    | with_reducible apply within_crossLink (sub_of hw rfl)
    | with_reducible apply within_ite
    | split)

theorem within_execDetourLoad {ks : List Comp} (s : State) {c es} (hw : [.regs, .cells, .regions, .band] ⊆ ks) :
    ∃ z, execDetourLoad c es s = .next z ∧ s.within ks z := by
  unfold execDetourLoad
  exact ⟨_, rfl, by
    repeat' (first
      | with_reducible exact within_refl _
      | with_reducible apply within_detourLoad (sub_of hw rfl))⟩

theorem within_execLinkNakReceive {ks : List Comp} (s : State) {c l sb} (hw : [.regs, .cells, .err] ⊆ ks) :
    ∃ z, execLinkNakReceive c l sb s = .next z ∧ s.within ks z := by
  unfold execLinkNakReceive
  exact ⟨_, rfl, by
    repeat' (first
      | with_reducible exact within_refl _
      | with_reducible apply within_idleReceive (sub_of hw rfl))⟩

theorem within_execLoopbackTestDone {ks : List Comp} (s : State) {c l near far wiresBad raw} (hw : [.regs, .cells, .resp, .net, .boot, .flash, .err] ⊆ ks) :
    ∃ z, execLoopbackTestDone c l near far wiresBad raw s = .next z ∧ s.within ks z := by
  unfold execLoopbackTestDone
  exact ⟨_, rfl, by
    repeat' (first
      | with_reducible exact within_refl _
      | with_reducible apply within_loopback (sub_of hw rfl))⟩

theorem within_execMcLandAdd {ks : List Comp} (s : State) {c v ecc} (hw : [.regs, .err] ⊆ ks) :
    ∃ z, execMcLandAdd c v ecc s = .next z ∧ s.within ks z := by
  unfold execMcLandAdd
  exact ⟨_, rfl, by
    repeat' (first
      | with_reducible exact within_refl _
      | with_reducible assumption
      | with_reducible apply within_incSat (sub_of hw rfl)
      | with_reducible apply within_routerEcc (sub_of hw rfl)
      | with_reducible apply within_foldl
      | with_reducible apply within_foldl_pair
      | with_reducible apply within_ite
      | with_reducible apply within_ite_pair
      | with_reducible exact Or.inl rfl
      | exact Or.inr (hw (by decide))
      | exact hw (by decide)
      | with_reducible refine within_pair (by assumption) ?_
      | (intro _ _ _; try dsimp only)
      | (intro _ _; try dsimp only)
      | split
      | with_reducible apply within_mk)⟩

theorem within_execMcStallWatchdog {ks : List Comp} (s : State) {i} (hw : [.regs, .net, .err] ⊆ ks) :
    ∃ z, execMcStallWatchdog i s = .next z ∧ s.within ks z := by
  unfold execMcStallWatchdog
  exact ⟨_, rfl, by
    repeat' (first
      | with_reducible exact within_refl _
      | with_reducible apply within_mcStall (sub_of hw rfl))⟩

theorem within_execPacketRoute {ks : List Comp} (s : State) {i errs ecc} (hw : [.regs, .cells, .regions, .resp, .net, .err] ⊆ ks) :
    ∃ z, execPacketRoute i errs ecc s = .next z ∧ s.within ks z := by
  unfold execPacketRoute
  exact ⟨_, rfl, by
    repeat' (first
      | with_reducible exact within_refl _
      | with_reducible apply within_packetRoute (sub_of hw rfl))⟩

end Sys2Proof.Laws
end

