-- ==== Sys2Proof/Laws/WithinTx.lean ====
section
/-! SUPPORT. What the operations of Machine/Tx.lean may change (`State.within`). -/

set_option Elab.async false
set_option linter.all false

namespace Sys2Proof.Laws

open Sys2Proof Sys2Proof.Machine Sys2Proof.Machine.State

theorem within_modTx {ks : List Comp} {s0 : State} {s : State} {c f} (hw : [.cells] ⊆ ks) (h : s0.within ks s) :
    s0.within ks (State.modTx s c f) := by
  unfold State.modTx
  try dsimp only
  repeat' (first
    | with_reducible assumption
    | with_reducible apply within_setCell (sub_of hw rfl)
    | split)

theorem within_txStop {ks : List Comp} {s0 : State} {s : State} {c} (hw : [.cells] ⊆ ks) (h : s0.within ks s) :
    s0.within ks (State.txStop s c) := by
  unfold State.txStop
  try dsimp only
  repeat' (first
    | with_reducible assumption
    | with_reducible apply within_setCell (sub_of hw rfl))

theorem within_newTag {ks : List Comp} {s0 : State} {s : State} {c} (hw : [.cells] ⊆ ks) (h : s0.within ks s) :
    s0.within ks (State.newTag s c) := by
  unfold State.newTag
  try dsimp only
  repeat' (first
    | with_reducible assumption
    | with_reducible apply within_setCell (sub_of hw rfl))

theorem within_txSend {ks : List Comp} {s0 : State} {a c t last p} (hw : [.regs, .cells, .regions, .net, .err] ⊆ ks) (h : s0.within ks a.1) :
    s0.within ks (State.txSend a c t last p).1 := by
  unfold State.txSend
  try dsimp only
  repeat' (first
    | with_reducible assumption
    | with_reducible apply within_newTag (sub_of hw rfl)
    | with_reducible apply within_modTx (sub_of hw rfl)
    | with_reducible apply within_inject (sub_of hw rfl)
    | with_reducible apply within_txStop (sub_of hw rfl)
    | with_reducible apply within_spmRefuse (sub_of hw rfl)
    | with_reducible apply within_meshRead (sub_of hw rfl)
    | with_reducible apply within_refuseAtOrigin (sub_of hw rfl)
    | with_reducible apply within_foldl
    | with_reducible apply within_foldl_pair
    | with_reducible exact within_refl _
    | with_reducible apply within_ite
    | with_reducible apply within_ite_pair
    | with_reducible exact Or.inl rfl
    | exact Or.inr (hw (by decide))
    | exact hw (by decide)
    | with_reducible refine within_pair (by assumption) ?_
    | (intro _ _ _; try dsimp only)
    | (intro _ _; try dsimp only)
    | split
    | with_reducible apply within_mk)

theorem within_txAdvance {ks : List Comp} {s0 : State} {s : State} {c} (hw : [.regs, .cells, .regions, .net, .err] ⊆ ks) (h : s0.within ks s) :
    s0.within ks (State.txAdvance s c) := by
  unfold State.txAdvance
  try dsimp only
  repeat' (first
    | with_reducible assumption
    | with_reducible apply within_txSend (sub_of hw rfl)
    | with_reducible apply within_setCell (sub_of hw rfl)
    | with_reducible apply within_foldl
    | with_reducible apply within_foldl_pair
    | with_reducible exact within_refl _
    | with_reducible apply within_ite
    | with_reducible apply within_ite_pair
    | with_reducible exact Or.inl rfl
    | exact Or.inr (hw (by decide))
    | exact hw (by decide)
    | with_reducible refine within_pair (by assumption) ?_
    | (intro _ _ _; try dsimp only)
    | (intro _ _; try dsimp only)
    | split
    | with_reducible apply within_mk)

theorem within_txStart {ks : List Comp} {s0 : State} {s : State} {c} (hw : [.regs, .cells, .regions, .net, .err] ⊆ ks) (h : s0.within ks s) :
    s0.within ks (State.txStart s c) := by
  unfold State.txStart
  try dsimp only
  repeat' (first
    | with_reducible assumption
    | with_reducible apply within_txAdvance (sub_of hw rfl)
    | with_reducible apply within_foldl_pair
    | (intro _ _ _; try dsimp only)
    | (intro _ _; try dsimp only)
    | split)

theorem within_txPush {ks : List Comp} {s0 : State} {s : State} {c op req} (hw : [.regs, .cells, .regions, .net, .err] ⊆ ks) (h : s0.within ks s) :
    s0.within ks (State.txPush s c op req) := by
  unfold State.txPush
  try dsimp only
  repeat' (first
    | with_reducible assumption
    | with_reducible apply within_raise (sub_of hw rfl)
    | with_reducible apply within_rtrLast (sub_of hw rfl)
    | with_reducible apply within_setFld (sub_of hw rfl)
    | with_reducible apply within_setCell (sub_of hw rfl)
    | with_reducible apply within_txStart (sub_of hw rfl)
    | with_reducible apply within_foldl
    | with_reducible apply within_foldl_pair
    | with_reducible exact within_refl _
    | with_reducible apply within_ite
    | with_reducible apply within_ite_pair
    | with_reducible exact Or.inl rfl
    | exact Or.inr (hw (by decide))
    | exact hw (by decide)
    | with_reducible refine within_pair (by assumption) ?_
    | (intro _ _ _; try dsimp only)
    | (intro _ _; try dsimp only)
    | split
    | with_reducible apply within_mk)

theorem within_sigWrite {ks : List Comp} {s0 : State} {s : State} {c req v} (hw : [.regs, .net, .err] ⊆ ks) (h : s0.within ks s) :
    s0.within ks (State.sigWrite s c req v).1 := by
  unfold State.sigWrite
  try dsimp only
  repeat' (first
    | with_reducible assumption
    | with_reducible apply within_hostRefuse (sub_of hw rfl)
    | with_reducible apply within_raise (sub_of hw rfl)
    | with_reducible apply within_rtrLast (sub_of hw rfl)
    | with_reducible apply within_ite_pair
    | with_reducible exact Or.inl rfl
    | exact Or.inr (hw (by decide))
    | exact hw (by decide)
    | split
    | with_reducible apply within_mk)

theorem within_waitExpire {ks : List Comp} {s0 : State} {s : State} {c k} (hw : [.regs, .cells, .err] ⊆ ks) (h : s0.within ks s) :
    s0.within ks (State.waitExpire s c k) := by
  unfold State.waitExpire
  try dsimp only
  repeat' (first
    | with_reducible assumption
    | with_reducible apply within_stopCore (sub_of hw rfl)
    | with_reducible apply within_raiseAt (sub_of hw rfl)
    | with_reducible apply within_ite
    | split)

theorem within_setX {ks : List Comp} {s0 : State} {s : State} {c k fp rd v} (hw : [.cells] ⊆ ks) (h : s0.within ks s) :
    s0.within ks (State.setX s c k fp rd v) := by
  unfold State.setX
  try dsimp only
  repeat' (first
    | with_reducible assumption
    | with_reducible apply within_setCore (sub_of hw rfl)
    | with_reducible apply within_ite)

theorem within_waitSatisfied {ks : List Comp} {s0 : State} {s : State} {c k} (hw : [.cells] ⊆ ks) (h : s0.within ks s) :
    s0.within ks (State.waitSatisfied s c k) := by
  unfold State.waitSatisfied
  try dsimp only
  repeat' (first
    | with_reducible assumption
    | with_reducible apply within_setX (sub_of hw rfl)
    | with_reducible apply within_setCore (sub_of hw rfl)
    | with_reducible apply within_ite
    | split)

theorem within_waitSettle {ks : List Comp} {s0 : State} {s : State} {c k} (hw : [.regs, .cells, .err] ⊆ ks) (h : s0.within ks s) :
    s0.within ks (State.waitSettle s c k) := by
  unfold State.waitSettle
  try dsimp only
  repeat' (first
    | with_reducible assumption
    | with_reducible apply within_waitExpire (sub_of hw rfl)
    | with_reducible apply within_waitSatisfied (sub_of hw rfl)
    | with_reducible apply within_foldl
    | with_reducible apply within_foldl_pair
    | with_reducible exact within_refl _
    | with_reducible apply within_ite
    | with_reducible apply within_ite_pair
    | with_reducible exact Or.inl rfl
    | exact Or.inr (hw (by decide))
    | exact hw (by decide)
    | with_reducible refine within_pair (by assumption) ?_
    | (intro _ _ _; try dsimp only)
    | (intro _ _; try dsimp only)
    | split
    | with_reducible apply within_mk)

theorem within_txComplete {ks : List Comp} {s0 : State} {s : State} {c ecc} (hw : [.regs, .cells, .regions, .net, .err] ⊆ ks) (h : s0.within ks s) :
    s0.within ks (State.txComplete s c ecc) := by
  unfold State.txComplete
  try dsimp only
  repeat' (first
    | with_reducible assumption
    | with_reducible apply within_incWrap (sub_of hw rfl)
    | with_reducible apply within_setCell (sub_of hw rfl)
    | with_reducible apply within_applySignal (sub_of hw rfl)
    | with_reducible apply within_routerEcc (sub_of hw rfl)
    | with_reducible apply within_txStart (sub_of hw rfl)
    | with_reducible apply within_foldl
    | with_reducible apply within_foldl_pair
    | with_reducible exact within_refl _
    | with_reducible apply within_ite
    | with_reducible apply within_ite_pair
    | with_reducible exact Or.inl rfl
    | exact Or.inr (hw (by decide))
    | exact hw (by decide)
    | with_reducible refine within_pair (by assumption) ?_
    | (intro _ _ _; try dsimp only)
    | (intro _ _; try dsimp only)
    | split
    | with_reducible apply within_mk)

theorem within_execSyncSigWrite {ks : List Comp} (s : State) {c req v} (hw : [.regs, .pend13, .net, .err] ⊆ ks) :
    ∃ z, execSyncSigWrite c req v s = .next z ∧ s.within ks z := by
  unfold execSyncSigWrite
  exact ⟨_, rfl, by
    repeat' (first
      | with_reducible exact within_refl _
      | with_reducible assumption
      | with_reducible apply within_sigWrite (sub_of hw rfl)
      | with_reducible apply within_dropPend (sub_of hw rfl)
      | with_reducible apply within_foldl
      | with_reducible apply within_foldl_pair
      | with_reducible apply within_ite
      | with_reducible apply within_ite_pair
      | with_reducible exact Or.inl rfl
      | exact Or.inr (hw (by decide))
      | exact hw (by decide)
      | with_reducible refine within_pair (by assumption) ?_
      | (intro _ _ _; try dsimp only)
      | (intro _ _; try dsimp only)
      | split
      | with_reducible apply within_mk)⟩

theorem within_execSyncWaitSatisfied {ks : List Comp} (s : State) {c k ecc} (hw : [.regs, .cells, .err] ⊆ ks) :
    ∃ z, execSyncWaitSatisfied c k ecc s = .next z ∧ s.within ks z := by
  unfold execSyncWaitSatisfied
  exact ⟨_, rfl, by
    repeat' (first
      | with_reducible exact within_refl _
      | with_reducible assumption
      | with_reducible apply within_waitSatisfied (sub_of hw rfl)
      | with_reducible apply within_routerEcc (sub_of hw rfl)
      | with_reducible apply within_foldl
      | with_reducible apply within_foldl_pair
      | with_reducible apply within_ite
      | with_reducible apply within_ite_pair
      | with_reducible exact Or.inl rfl
      | exact Or.inr (hw (by decide))
      | exact hw (by decide)
      | with_reducible refine within_pair (by assumption) ?_
      | (intro _ _ _; try dsimp only)
      | (intro _ _; try dsimp only)
      | split
      | with_reducible apply within_mk)⟩

theorem within_execSyncWaitWatchdog {ks : List Comp} (s : State) {c k} (hw : [.regs, .cells, .err] ⊆ ks) :
    ∃ z, execSyncWaitWatchdog c k s = .next z ∧ s.within ks z := by
  unfold execSyncWaitWatchdog
  exact ⟨_, rfl, by
    repeat' (first
      | with_reducible exact within_refl _
      | with_reducible apply within_waitExpire (sub_of hw rfl))⟩

theorem within_execTxCommandComplete {ks : List Comp} (s : State) {c ecc} (hw : [.regs, .cells, .regions, .net, .err] ⊆ ks) :
    ∃ z, execTxCommandComplete c ecc s = .next z ∧ s.within ks z := by
  unfold execTxCommandComplete
  exact ⟨_, rfl, by
    repeat' (first
      | with_reducible exact within_refl _
      | with_reducible apply within_txComplete (sub_of hw rfl))⟩

theorem within_execTxGet {ks : List Comp} (s : State) {c req} (hw : [.regs, .cells, .regions, .pend13, .net, .err] ⊆ ks) :
    ∃ z, execTxGet c req s = .next z ∧ s.within ks z := by
  unfold execTxGet
  exact ⟨_, rfl, by
    repeat' (first
      | with_reducible exact within_refl _
      | with_reducible assumption
      | with_reducible apply within_txPush (sub_of hw rfl)
      | with_reducible apply within_dropPend (sub_of hw rfl)
      | with_reducible apply within_foldl
      | with_reducible apply within_foldl_pair
      | with_reducible apply within_ite
      | with_reducible apply within_ite_pair
      | with_reducible exact Or.inl rfl
      | exact Or.inr (hw (by decide))
      | exact hw (by decide)
      | with_reducible refine within_pair (by assumption) ?_
      | (intro _ _ _; try dsimp only)
      | (intro _ _; try dsimp only)
      | split
      | with_reducible apply within_mk)⟩

theorem within_execTxMulticastPut {ks : List Comp} (s : State) {c req} (hw : [.regs, .cells, .regions, .pend13, .net, .err] ⊆ ks) :
    ∃ z, execTxMulticastPut c req s = .next z ∧ s.within ks z := by
  unfold execTxMulticastPut
  exact ⟨_, rfl, by
    repeat' (first
      | with_reducible exact within_refl _
      | with_reducible assumption
      | with_reducible apply within_txPush (sub_of hw rfl)
      | with_reducible apply within_dropPend (sub_of hw rfl)
      | with_reducible apply within_foldl
      | with_reducible apply within_foldl_pair
      | with_reducible apply within_ite
      | with_reducible apply within_ite_pair
      | with_reducible exact Or.inl rfl
      | exact Or.inr (hw (by decide))
      | exact hw (by decide)
      | with_reducible refine within_pair (by assumption) ?_
      | (intro _ _ _; try dsimp only)
      | (intro _ _; try dsimp only)
      | split
      | with_reducible apply within_mk)⟩

theorem within_execTxPut {ks : List Comp} (s : State) {c req} (hw : [.regs, .cells, .regions, .pend13, .net, .err] ⊆ ks) :
    ∃ z, execTxPut c req s = .next z ∧ s.within ks z := by
  unfold execTxPut
  exact ⟨_, rfl, by
    repeat' (first
      | with_reducible exact within_refl _
      | with_reducible assumption
      | with_reducible apply within_txPush (sub_of hw rfl)
      | with_reducible apply within_dropPend (sub_of hw rfl)
      | with_reducible apply within_foldl
      | with_reducible apply within_foldl_pair
      | with_reducible apply within_ite
      | with_reducible apply within_ite_pair
      | with_reducible exact Or.inl rfl
      | exact Or.inr (hw (by decide))
      | exact hw (by decide)
      | with_reducible refine within_pair (by assumption) ?_
      | (intro _ _ _; try dsimp only)
      | (intro _ _; try dsimp only)
      | split
      | with_reducible apply within_mk)⟩

end Sys2Proof.Laws
end

