-- ==== Sys2Proof/Laws/WithinFab.lean ====
section
/-! SUPPORT. What the operations of Machine/Fab.lean may change (`State.within`). -/

set_option Elab.async false
set_option linter.all false

namespace Sys2Proof.Laws

open Sys2Proof Sys2Proof.Machine Sys2Proof.Machine.State

theorem within_strange {ks : List Comp} {s0 : State} {s : State} {d p} (hw : [.regs, .err] ⊆ ks) (h : s0.within ks s) :
    s0.within ks (State.strange s d p) := by
  unfold State.strange
  try dsimp only
  repeat' (first
    | with_reducible assumption
    | with_reducible apply within_raiseLim (sub_of hw rfl)
    | with_reducible apply within_incSatUn (sub_of hw rfl))

theorem within_ackFrame {ks : List Comp} {s0 : State} {s : State} {d p f} (hw : [.regs, .ctxs, .err] ⊆ ks) (h : s0.within ks s) :
    s0.within ks (State.ackFrame s d p f) := by
  unfold State.ackFrame
  try dsimp only
  repeat' (first
    | with_reducible assumption
    | with_reducible apply within_strange (sub_of hw rfl)
    | with_reducible apply within_setCtx (sub_of hw rfl)
    | with_reducible apply within_ite
    | split)

theorem within_fab54 {ks : List Comp} {s0 : State} {s : State} {d reason q struck} (hw : [.regs, .err] ⊆ ks) (h : s0.within ks s) :
    s0.within ks (State.fab54 s d reason q struck) := by
  unfold State.fab54
  try dsimp only
  repeat' (first
    | with_reducible assumption
    | with_reducible apply within_raise (sub_of hw rfl)
    | with_reducible apply within_setFld (sub_of hw rfl))

theorem within_submitNow {ks : List Comp} {s0 : State} {s : State} {req d c} (hw : [.regs, .fabQ, .err] ⊆ ks) (h : s0.within ks s) :
    s0.within ks (State.submitNow s req d c).1 := by
  unfold State.submitNow
  try dsimp only
  repeat' (first
    | with_reducible assumption
    | with_reducible apply within_fab54 (sub_of hw rfl)
    | with_reducible apply within_foldl
    | with_reducible apply within_foldl_pair
    | with_reducible exact within_refl _
    | with_reducible apply within_ite
    | with_reducible apply within_ite_pair
    | with_reducible exact Or.inl rfl
    | exact Or.inr (hw (by decide))
    | exact hw (by decide)
    | with_reducible refine within_pair (by assumption) ?_
    | (intro _ _ _; try dsimp only)
    | (intro _ _; try dsimp only)
    | split
    | with_reducible apply within_mk)

theorem within_fabAdmit {ks : List Comp} {s0 : State} {s : State} {d} (hw : [.regs, .resp, .fabQ, .fabWait, .err] ⊆ ks) (h : s0.within ks s) :
    s0.within ks (State.fabAdmit s d) := by
  unfold State.fabAdmit
  try dsimp only
  repeat' (first
    | with_reducible assumption
    | with_reducible apply within_submitNow (sub_of hw rfl)
    | with_reducible apply within_answer (sub_of hw rfl)
    | with_reducible apply within_foldl
    | with_reducible apply within_foldl_pair
    | with_reducible exact within_refl _
    | with_reducible apply within_ite
    | with_reducible apply within_ite_pair
    | with_reducible exact Or.inl rfl
    | exact Or.inr (hw (by decide))
    | exact hw (by decide)
    | with_reducible refine within_pair (by assumption) ?_
    | (intro _ _ _; try dsimp only)
    | (intro _ _; try dsimp only)
    | split
    | with_reducible apply within_mk)

theorem within_fabAdmitAll {ks : List Comp} {s0 : State} {s : State} (hw : [.regs, .resp, .fabQ, .fabWait, .err] ⊆ ks) (h : s0.within ks s) :
    s0.within ks (State.fabAdmitAll s) := by
  unfold State.fabAdmitAll
  try dsimp only
  repeat' (first
    | with_reducible assumption
    | with_reducible apply within_fabAdmit (sub_of hw rfl)
    | with_reducible apply within_foldl
    | with_reducible apply within_foldl_pair
    | with_reducible exact within_refl _
    | with_reducible apply within_ite
    | with_reducible apply within_ite_pair
    | with_reducible exact Or.inl rfl
    | exact Or.inr (hw (by decide))
    | exact hw (by decide)
    | with_reducible refine within_pair (by assumption) ?_
    | (intro _ _ _; try dsimp only)
    | (intro _ _; try dsimp only)
    | split
    | with_reducible apply within_mk)

theorem within_releaseTag {ks : List Comp} {s0 : State} {s : State} {d t q} (hw : [.ctxs, .tags] ⊆ ks) (h : s0.within ks s) :
    s0.within ks (State.releaseTag s d t q) := by
  unfold State.releaseTag
  try dsimp only
  repeat' (first
    | with_reducible assumption
    | with_reducible apply within_setCtx (sub_of hw rfl)
    | with_reducible apply within_setTag (sub_of hw rfl))

theorem within_quietFail {ks : List Comp} {s0 : State} {s : State} {q} (hw : [.ctxs, .tags] ⊆ ks) (h : s0.within ks s) :
    s0.within ks (State.quietFail s q) := by
  unfold State.quietFail
  try dsimp only
  repeat' (first
    | with_reducible assumption
    | with_reducible apply within_releaseTag (sub_of hw rfl)
    | with_reducible apply within_foldl
    | (intro _ _ _; try dsimp only)
    | (intro _ _; try dsimp only))

theorem within_freeJobCtxs {ks : List Comp} {s0 : State} {s : State} {id} (hw : [.regs, .resp, .ctxs, .tags, .fabQ, .fabWait, .err] ⊆ ks) (h : s0.within ks s) :
    s0.within ks (State.freeJobCtxs s id) := by
  unfold State.freeJobCtxs
  try dsimp only
  repeat' (first
    | with_reducible assumption
    | with_reducible apply within_fabAdmitAll (sub_of hw rfl)
    | with_reducible apply within_setCtx (sub_of hw rfl)
    | with_reducible apply within_quietFail (sub_of hw rfl)
    | with_reducible apply within_foldl
    | with_reducible exact Or.inl rfl
    | exact Or.inr (hw (by decide))
    | exact hw (by decide)
    | (intro _ _ _; try dsimp only)
    | (intro _ _; try dsimp only)
    | split
    | with_reducible apply within_mk)

theorem within_haltCtxs {ks : List Comp} {s0 : State} {s : State} {id} (hw : [.regs, .resp, .ctxs, .tags, .fabQ, .fabWait, .err] ⊆ ks) (h : s0.within ks s) :
    s0.within ks (State.haltCtxs s id) := by
  unfold State.haltCtxs
  try dsimp only
  repeat' (first
    | with_reducible assumption
    | with_reducible apply within_fabAdmitAll (sub_of hw rfl)
    | with_reducible apply within_quietFail (sub_of hw rfl)
    | with_reducible apply within_setCtx (sub_of hw rfl)
    | with_reducible apply within_foldl
    | with_reducible exact Or.inl rfl
    | exact Or.inr (hw (by decide))
    | exact hw (by decide)
    | (intro _ _ _; try dsimp only)
    | (intro _ _; try dsimp only)
    | split
    | with_reducible apply within_mk)

theorem within_linkSend {ks : List Comp} {s0 : State} {s : State} {d p lseq nak lvc idle body} (hw : [.fports, .out] ⊆ ks) (h : s0.within ks s) :
    s0.within ks (State.linkSend s d p lseq nak lvc idle body) := by
  unfold State.linkSend
  try dsimp only
  repeat' (first
    | with_reducible assumption
    | with_reducible apply within_emit (sub_of hw rfl)
    | with_reducible apply within_setFport (sub_of hw rfl)
    | with_reducible apply within_foldl
    | with_reducible apply within_foldl_pair
    | with_reducible exact within_refl _
    | with_reducible apply within_ite
    | with_reducible apply within_ite_pair
    | with_reducible exact Or.inl rfl
    | exact Or.inr (hw (by decide))
    | exact hw (by decide)
    | with_reducible refine within_pair (by assumption) ?_
    | (intro _ _ _; try dsimp only)
    | (intro _ _; try dsimp only)
    | split
    | with_reducible apply within_mk)

theorem within_nativeSend {ks : List Comp} {s0 : State} {s : State} {d p f} (hw : [.fports, .out] ⊆ ks) (h : s0.within ks s) :
    s0.within ks (State.nativeSend s d p f) := by
  unfold State.nativeSend
  try dsimp only
  repeat' (first
    | with_reducible assumption
    | with_reducible apply within_linkSend (sub_of hw rfl)
    | with_reducible apply within_setFport (sub_of hw rfl)
    | with_reducible apply within_foldl
    | with_reducible apply within_foldl_pair
    | with_reducible exact within_refl _
    | with_reducible apply within_ite
    | with_reducible apply within_ite_pair
    | with_reducible exact Or.inl rfl
    | exact Or.inr (hw (by decide))
    | exact hw (by decide)
    | with_reducible refine within_pair (by assumption) ?_
    | (intro _ _ _; try dsimp only)
    | (intro _ _; try dsimp only)
    | split
    | with_reducible apply within_mk)

theorem within_sendFrame {ks : List Comp} {s0 : State} {s : State} {d p dmac f} (hw : [.fports, .out] ⊆ ks) (h : s0.within ks s) :
    s0.within ks (State.sendFrame s d p dmac f) := by
  unfold State.sendFrame
  try dsimp only
  repeat' (first
    | with_reducible assumption
    | with_reducible apply within_setFport (sub_of hw rfl)
    | with_reducible apply within_emit (sub_of hw rfl)
    | with_reducible apply within_nativeSend (sub_of hw rfl)
    | with_reducible apply within_ite)

theorem within_faultNotices {ks : List Comp} {s0 : State} {s : State} (hw : [.fports, .out] ⊆ ks) (h : s0.within ks s) :
    s0.within ks (State.faultNotices s) := by
  unfold State.faultNotices
  try dsimp only
  repeat' (first
    | with_reducible assumption
    | with_reducible apply within_sendFrame (sub_of hw rfl)
    | with_reducible apply within_foldl
    | with_reducible apply within_ite
    | (intro _ _ _; try dsimp only)
    | (intro _ _; try dsimp only))

theorem within_cfgIgnored {ks : List Comp} {s0 : State} {s : State} {d q} (hw : [.regs, .err] ⊆ ks) (h : s0.within ks s) :
    s0.within ks (State.cfgIgnored s d q) := by
  unfold State.cfgIgnored
  try dsimp only
  repeat' (first
    | with_reducible assumption
    | with_reducible apply within_fab54 (sub_of hw rfl))

theorem within_ctxOpen {ks : List Comp} {s0 : State} {s : State} {q} (hw : [.regs, .ctxs, .err] ⊆ ks) (h : s0.within ks s) :
    s0.within ks (State.ctxOpen s q) := by
  unfold State.ctxOpen
  try dsimp only
  repeat' (first
    | with_reducible assumption
    | with_reducible apply within_cfgIgnored (sub_of hw rfl)
    | with_reducible apply within_setCtx (sub_of hw rfl)
    | with_reducible apply within_ite)

theorem within_failTag {ks : List Comp} {s0 : State} {s : State} {d t cause} (hw : [.ctxs, .tags, .err] ⊆ ks) (h : s0.within ks s) :
    s0.within ks (State.failTag s d t cause) := by
  unfold State.failTag
  try dsimp only
  repeat' (first
    | with_reducible assumption
    | with_reducible apply within_releaseTag (sub_of hw rfl)
    | with_reducible apply within_raise (sub_of hw rfl)
    | with_reducible apply within_setCtx (sub_of hw rfl)
    | split)

theorem within_failCtx {ks : List Comp} {s0 : State} {s : State} {q cause} (hw : [.ctxs, .tags, .err] ⊆ ks) (h : s0.within ks s) :
    s0.within ks (State.failCtx s q cause) := by
  unfold State.failCtx
  try dsimp only
  repeat' (first
    | with_reducible assumption
    | with_reducible apply within_failTag (sub_of hw rfl)
    | with_reducible apply within_foldl
    | (intro _ _ _; try dsimp only)
    | (intro _ _; try dsimp only))

theorem within_ctxClose {ks : List Comp} {s0 : State} {s : State} {q} (hw : [.regs, .ctxs, .tags, .err] ⊆ ks) (h : s0.within ks s) :
    s0.within ks (State.ctxClose s q) := by
  unfold State.ctxClose
  try dsimp only
  repeat' (first
    | with_reducible assumption
    | with_reducible apply within_cfgIgnored (sub_of hw rfl)
    | with_reducible apply within_failCtx (sub_of hw rfl)
    | with_reducible apply within_setCtx (sub_of hw rfl)
    | with_reducible apply within_ite)

theorem within_setPstate {ks : List Comp} {s0 : State} {s : State} {d p st} (hw : [.regs] ⊆ ks) (h : s0.within ks s) :
    s0.within ks (State.setPstate s d p st) := by
  unfold State.setPstate
  try dsimp only
  repeat' (first
    | with_reducible assumption
    | with_reducible apply within_setFld (sub_of hw rfl))

theorem within_fabRec {ks : List Comp} {s0 : State} {s : State} {cls d uidx detail} (hw : [.err] ⊆ ks) (h : s0.within ks s) :
    s0.within ks (State.fabRec s cls d uidx detail) := by
  unfold State.fabRec
  try dsimp only
  repeat' (first
    | with_reducible assumption
    | with_reducible apply within_raise (sub_of hw rfl))

theorem within_trainPort {ks : List Comp} {s0 : State} {s : State} {d p st} (hw : [.regs, .fports, .err] ⊆ ks) (h : s0.within ks s) :
    s0.within ks (State.trainPort s d p st) := by
  unfold State.trainPort
  try dsimp only
  repeat' (first
    | with_reducible assumption
    | with_reducible apply within_setFport (sub_of hw rfl)
    | with_reducible apply within_setPstate (sub_of hw rfl)
    | with_reducible apply within_fabRec (sub_of hw rfl)
    | with_reducible apply within_ite)

theorem within_failPort {ks : List Comp} {s0 : State} {s : State} {d p cause} (hw : [.ctxs, .tags, .err] ⊆ ks) (h : s0.within ks s) :
    s0.within ks (State.failPort s d p cause) := by
  unfold State.failPort
  try dsimp only
  repeat' (first
    | with_reducible assumption
    | with_reducible apply within_failCtx (sub_of hw rfl)
    | with_reducible apply within_foldl
    | (intro _ _ _; try dsimp only)
    | (intro _ _; try dsimp only))

theorem within_noWidth {ks : List Comp} {s0 : State} {s : State} {d p} (hw : [.regs] ⊆ ks) (h : s0.within ks s) :
    s0.within ks (State.noWidth s d p) := by
  unfold State.noWidth
  try dsimp only
  repeat' (first
    | with_reducible assumption
    | with_reducible apply within_setFld (sub_of hw rfl)
    | with_reducible apply within_foldl
    | with_reducible apply within_foldl_pair
    | with_reducible exact within_refl _
    | with_reducible apply within_ite
    | with_reducible apply within_ite_pair
    | with_reducible exact Or.inl rfl
    | exact Or.inr (hw (by decide))
    | exact hw (by decide)
    | with_reducible refine within_pair (by assumption) ?_
    | (intro _ _ _; try dsimp only)
    | (intro _ _; try dsimp only)
    | split
    | with_reducible apply within_mk)

theorem within_portDown {ks : List Comp} {s0 : State} {s : State} {d p st} (hw : [.regs, .ctxs, .tags, .fports, .err] ⊆ ks) (h : s0.within ks s) :
    s0.within ks (State.portDown s d p st) := by
  unfold State.portDown
  try dsimp only
  repeat' (first
    | with_reducible assumption
    | with_reducible apply within_failPort (sub_of hw rfl)
    | with_reducible apply within_noWidth (sub_of hw rfl)
    | with_reducible apply within_setPstate (sub_of hw rfl)
    | with_reducible apply within_setFport (sub_of hw rfl)
    | with_reducible apply within_foldl
    | with_reducible apply within_foldl_pair
    | with_reducible exact within_refl _
    | with_reducible apply within_ite
    | with_reducible apply within_ite_pair
    | with_reducible exact Or.inl rfl
    | exact Or.inr (hw (by decide))
    | exact hw (by decide)
    | with_reducible refine within_pair (by assumption) ?_
    | (intro _ _ _; try dsimp only)
    | (intro _ _; try dsimp only)
    | split
    | with_reducible apply within_mk)

theorem within_cfgMissing {ks : List Comp} {s0 : State} {s : State} {d p} (hw : [.regs, .ctxs, .tags, .fports, .err] ⊆ ks) (h : s0.within ks s) :
    s0.within ks (State.cfgMissing s d p) := by
  unfold State.cfgMissing
  try dsimp only
  repeat' (first
    | with_reducible assumption
    | with_reducible apply within_trainPort (sub_of hw rfl)
    | with_reducible apply within_portDown (sub_of hw rfl)
    | with_reducible apply within_foldl
    | with_reducible apply within_foldl_pair
    | with_reducible exact within_refl _
    | with_reducible apply within_ite
    | with_reducible apply within_ite_pair
    | with_reducible exact Or.inl rfl
    | exact Or.inr (hw (by decide))
    | exact hw (by decide)
    | with_reducible refine within_pair (by assumption) ?_
    | (intro _ _ _; try dsimp only)
    | (intro _ _; try dsimp only)
    | split
    | with_reducible apply within_mk)

theorem within_cfgSupplied {ks : List Comp} {s0 : State} {s : State} {d p} (hw : [.regs] ⊆ ks) (h : s0.within ks s) :
    s0.within ks (State.cfgSupplied s d p) := by
  unfold State.cfgSupplied
  try dsimp only
  repeat' (first
    | with_reducible assumption
    | with_reducible apply within_setPstate (sub_of hw rfl)
    | with_reducible apply within_foldl
    | with_reducible apply within_foldl_pair
    | with_reducible exact within_refl _
    | with_reducible apply within_ite
    | with_reducible apply within_ite_pair
    | with_reducible exact Or.inl rfl
    | exact Or.inr (hw (by decide))
    | exact hw (by decide)
    | with_reducible refine within_pair (by assumption) ?_
    | (intro _ _ _; try dsimp only)
    | (intro _ _; try dsimp only)
    | split
    | with_reducible apply within_mk)

theorem within_portEn {ks : List Comp} {s0 : State} {s : State} {d p en} (hw : [.regs, .ctxs, .tags, .fports, .err] ⊆ ks) (h : s0.within ks s) :
    s0.within ks (State.portEn s d p en) := by
  unfold State.portEn
  try dsimp only
  repeat' (first
    | with_reducible assumption
    | with_reducible apply within_setFld (sub_of hw rfl)
    | with_reducible apply within_trainPort (sub_of hw rfl)
    | with_reducible apply within_setFport (sub_of hw rfl)
    | with_reducible apply within_portDown (sub_of hw rfl)
    | with_reducible apply within_ite)

theorem within_retrain {ks : List Comp} {s0 : State} {s : State} {d p} (hw : [.regs] ⊆ ks) (h : s0.within ks s) :
    s0.within ks (State.retrain s d p) := by
  unfold State.retrain
  try dsimp only
  repeat' (first
    | with_reducible assumption
    | with_reducible apply within_setPstate (sub_of hw rfl)
    | with_reducible apply within_ite)

theorem within_pcmd {ks : List Comp} {s0 : State} {s : State} {d p} (hw : [.regs, .fports, .err] ⊆ ks) (h : s0.within ks s) :
    s0.within ks (State.pcmd s d p) := by
  unfold State.pcmd
  try dsimp only
  repeat' (first
    | with_reducible assumption
    | with_reducible apply within_retrain (sub_of hw rfl)
    | with_reducible apply within_trainPort (sub_of hw rfl)
    | with_reducible apply within_ite)

theorem within_submit {ks : List Comp} {s0 : State} {s : State} {req d c} (hw : [.regs, .fabQ, .fabWait, .err] ⊆ ks) (h : s0.within ks s) :
    s0.within ks (State.submit s req d c).1 := by
  unfold State.submit
  try dsimp only
  repeat' (first
    | with_reducible assumption
    | with_reducible apply within_submitNow (sub_of hw rfl)
    | with_reducible apply within_ite_pair
    | with_reducible exact Or.inl rfl
    | exact Or.inr (hw (by decide))
    | exact hw (by decide)
    | with_reducible apply within_mk)

theorem within_agentReadPart {ks : List Comp} {s0 : State} {s : State} {d ga len} (hw : [.regs, .mem, .cells, .regions, .mcs, .resp, .flash, .err, .fates] ⊆ ks) (h : s0.within ks s) :
    s0.within ks (State.agentReadPart s d ga len).1 := by
  unfold State.agentReadPart
  try dsimp only
  repeat' (first
    | with_reducible assumption
    | with_reducible apply within_carried (sub_of hw rfl)
    | with_reducible apply within_gddrReadNow (sub_of hw rfl)
    | with_reducible apply within_spmRefuse (sub_of hw rfl)
    | with_reducible apply within_meshRead (sub_of hw rfl)
    | with_reducible apply within_rtrLast (sub_of hw rfl)
    | with_reducible apply within_raise (sub_of hw rfl)
    | with_reducible apply within_gddrRefuse (sub_of hw rfl)
    | with_reducible apply within_foldl
    | with_reducible apply within_foldl_pair
    | with_reducible exact within_refl _
    | with_reducible apply within_ite
    | with_reducible apply within_ite_pair
    | with_reducible exact Or.inl rfl
    | exact Or.inr (hw (by decide))
    | exact hw (by decide)
    | with_reducible refine within_pair (by assumption) ?_
    | (intro _ _ _; try dsimp only)
    | (intro _ _; try dsimp only)
    | split
    | with_reducible apply within_mk)

theorem within_agentRead {ks : List Comp} {s0 : State} {s : State} {d ga len} (hw : [.regs, .mem, .cells, .regions, .mcs, .resp, .flash, .err, .fates] ⊆ ks) (h : s0.within ks s) :
    s0.within ks (State.agentRead s d ga len).1 := by
  unfold State.agentRead
  try dsimp only
  repeat' (first
    | with_reducible assumption
    | with_reducible apply within_agentReadPart (sub_of hw rfl)
    | with_reducible apply within_foldl_pair
    | (intro _ _ _; try dsimp only)
    | (intro _ _; try dsimp only))

theorem within_agentWritePart {ks : List Comp} {s0 : State} {s : State} {d ga data pois} (hw : [.regs, .mem, .cells, .regions, .mcs, .resp, .flash, .err, .fates] ⊆ ks) (h : s0.within ks s) :
    s0.within ks (State.agentWritePart s d ga data pois).1 := by
  unfold State.agentWritePart
  try dsimp only
  repeat' (first
    | with_reducible assumption
    | with_reducible apply within_carried (sub_of hw rfl)
    | with_reducible apply within_gddrWriteNow (sub_of hw rfl)
    | with_reducible apply within_spmRefuse (sub_of hw rfl)
    | with_reducible apply within_meshWrite (sub_of hw rfl)
    | with_reducible apply within_rtrLast (sub_of hw rfl)
    | with_reducible apply within_raise (sub_of hw rfl)
    | with_reducible apply within_gddrRefuse (sub_of hw rfl)
    | with_reducible apply within_foldl
    | with_reducible apply within_foldl_pair
    | with_reducible exact within_refl _
    | with_reducible apply within_ite
    | with_reducible apply within_ite_pair
    | with_reducible exact Or.inl rfl
    | exact Or.inr (hw (by decide))
    | exact hw (by decide)
    | with_reducible refine within_pair (by assumption) ?_
    | (intro _ _ _; try dsimp only)
    | (intro _ _; try dsimp only)
    | split
    | with_reducible apply within_mk)

theorem within_agentWrite {ks : List Comp} {s0 : State} {s : State} {d ga data pois} (hw : [.regs, .mem, .cells, .regions, .mcs, .resp, .flash, .err, .fates] ⊆ ks) (h : s0.within ks s) :
    s0.within ks (State.agentWrite s d ga data pois).1 := by
  unfold State.agentWrite
  try dsimp only
  repeat' (first
    | with_reducible assumption
    | with_reducible apply within_agentWritePart (sub_of hw rfl)
    | with_reducible apply within_foldl_pair
    | (intro _ _ _; try dsimp only)
    | (intro _ _; try dsimp only))

theorem within_allocCtxs {ks : List Comp} {s0 : State} {s : State} {id dies n} (hw : [.jobs, .ctxs] ⊆ ks) (h : s0.within ks s) :
    s0.within ks (State.allocCtxs s id dies n) := by
  unfold State.allocCtxs
  try dsimp only
  repeat' (first
    | with_reducible assumption
    | with_reducible apply within_modJob (sub_of hw rfl)
    | with_reducible apply within_setCtx (sub_of hw rfl)
    | with_reducible apply within_foldl
    | (intro _ _ _; try dsimp only)
    | (intro _ _; try dsimp only))

theorem within_licRetrain {ks : List Comp} {s0 : State} {s : State} (hw : [.regs] ⊆ ks) (h : s0.within ks s) :
    s0.within ks (State.licRetrain s) := by
  unfold State.licRetrain
  try dsimp only
  repeat' (first
    | with_reducible assumption
    | with_reducible apply within_retrain (sub_of hw rfl)
    | with_reducible apply within_ite
    | split)

theorem within_completeTag {ks : List Comp} {s0 : State} {s : State} {d t fc} (hw : [.regs, .cells, .regions, .ctxs, .tags, .err, .fates] ⊆ ks) (h : s0.within ks s) :
    s0.within ks (State.completeTag s d t fc) := by
  unfold State.completeTag
  try dsimp only
  repeat' (first
    | with_reducible assumption
    | with_reducible apply within_releaseTag (sub_of hw rfl)
    | with_reducible apply within_agentSignal (sub_of hw rfl)
    | with_reducible apply within_ite)

theorem within_cmdDone {ks : List Comp} {s0 : State} {s : State} {f fc} (hw : [.regs, .cells, .regions, .ctxs, .tags, .err, .fates] ⊆ ks) (h : s0.within ks s) :
    s0.within ks (State.cmdDone s f fc) := by
  unfold State.cmdDone
  try dsimp only
  repeat' (first
    | with_reducible assumption
    | with_reducible apply within_failTag (sub_of hw rfl)
    | with_reducible apply within_completeTag (sub_of hw rfl)
    | with_reducible apply within_ite)

theorem within_cmdTimeout {ks : List Comp} {s0 : State} {s : State} {d t} (hw : [.ctxs, .tags, .err] ⊆ ks) (h : s0.within ks s) :
    s0.within ks (State.cmdTimeout s d t) := by
  unfold State.cmdTimeout
  try dsimp only
  repeat' (first
    | with_reducible assumption
    | with_reducible apply within_failTag (sub_of hw rfl)
    | with_reducible apply within_ite
    | split)

theorem within_countAck {ks : List Comp} {s0 : State} {s : State} {q} (hw : [.ctxs] ⊆ ks) (h : s0.within ks s) :
    s0.within ks (State.countAck s q) := by
  unfold State.countAck
  try dsimp only
  repeat' (first
    | with_reducible assumption
    | with_reducible apply within_setCtx (sub_of hw rfl))

theorem within_sendSeq {ks : List Comp} {s0 : State} {s : State} {q f} (hw : [.ctxs, .fports, .out] ⊆ ks) (h : s0.within ks s) :
    s0.within ks (State.sendSeq s q f) := by
  unfold State.sendSeq
  try dsimp only
  repeat' (first
    | with_reducible assumption
    | with_reducible apply within_sendFrame (sub_of hw rfl)
    | with_reducible apply within_setCtx (sub_of hw rfl))

theorem within_sendData {ks : List Comp} {s0 : State} {a d q t gen fc last p} (hw : [.regs, .mem, .cells, .regions, .mcs, .resp, .ctxs, .tags, .fports, .flash, .err, .out, .fates] ⊆ ks) (h : s0.within ks a.1) :
    s0.within ks (State.sendData a d q t gen fc last p).1 := by
  unfold State.sendData
  try dsimp only
  repeat' (first
    | with_reducible assumption
    | with_reducible apply within_agentRead (sub_of hw rfl)
    | with_reducible apply within_failTag (sub_of hw rfl)
    | with_reducible apply within_sendSeq (sub_of hw rfl)
    | with_reducible apply within_raise (sub_of hw rfl)
    | with_reducible apply within_setTag (sub_of hw rfl)
    | with_reducible apply within_ite
    | with_reducible apply within_ite_pair)

theorem within_startCmd {ks : List Comp} {s0 : State} {s : State} {d t fc} (hw : [.regs, .mem, .cells, .regions, .mcs, .resp, .ctxs, .tags, .fabQ, .fabWait, .fports, .flash, .err, .out, .fates] ⊆ ks) (h : s0.within ks s) :
    s0.within ks (State.startCmd s d t fc) := by
  unfold State.startCmd
  try dsimp only
  repeat' (first
    | with_reducible assumption
    | with_reducible apply within_setCtx (sub_of hw rfl)
    | with_reducible apply within_fabAdmit (sub_of hw rfl)
    | with_reducible apply within_setTag (sub_of hw rfl)
    | with_reducible apply within_failTag (sub_of hw rfl)
    | with_reducible apply within_sendSeq (sub_of hw rfl)
    | with_reducible apply within_sendData (sub_of hw rfl)
    | with_reducible apply within_foldl
    | with_reducible apply within_foldl_pair
    | with_reducible apply within_ite
    | with_reducible exact Or.inl rfl
    | exact Or.inr (hw (by decide))
    | exact hw (by decide)
    | with_reducible apply within_mk
    | (intro _ _ _; try dsimp only)
    | (intro _ _; try dsimp only))

theorem within_fabStart {ks : List Comp} {s0 : State} {s : State} {d upset} (hw : [.regs, .mem, .cells, .regions, .mcs, .resp, .ctxs, .tags, .fabQ, .fabWait, .fports, .flash, .err, .out, .fates] ⊆ ks) (h : s0.within ks s) :
    s0.within ks (State.fabStart s d upset) := by
  unfold State.fabStart
  try dsimp only
  repeat' (first
    | with_reducible assumption
    | with_reducible apply within_fabRec (sub_of hw rfl)
    | with_reducible apply within_incSatUn (sub_of hw rfl)
    | with_reducible apply within_startCmd (sub_of hw rfl)
    | with_reducible apply within_ite
    | split)

theorem within_faultNotice {ks : List Comp} {s0 : State} {s : State} {d p f} (hw : [.regs, .ctxs, .tags, .err] ⊆ ks) (h : s0.within ks s) :
    s0.within ks (State.faultNotice s d p f) := by
  unfold State.faultNotice
  try dsimp only
  repeat' (first
    | with_reducible assumption
    | with_reducible apply within_strange (sub_of hw rfl)
    | with_reducible apply within_quietFail (sub_of hw rfl)
    | with_reducible apply within_raise (sub_of hw rfl)
    | with_reducible apply within_setCtx (sub_of hw rfl)
    | with_reducible apply within_haltPanelOf (sub_of hw rfl)
    | with_reducible apply within_foldl
    | with_reducible apply within_ite
    | (intro _ _ _; try dsimp only)
    | (intro _ _; try dsimp only))

theorem within_flushHeld {ks : List Comp} {s0 : State} {s : State} {d p} (hw : [.fports, .out] ⊆ ks) (h : s0.within ks s) :
    s0.within ks (State.flushHeld s d p) := by
  unfold State.flushHeld
  try dsimp only
  repeat' (first
    | with_reducible assumption
    | with_reducible apply within_sendFrame (sub_of hw rfl)
    | with_reducible apply within_setFport (sub_of hw rfl)
    | with_reducible apply within_foldl
    | with_reducible apply within_foldl_pair
    | with_reducible exact within_refl _
    | with_reducible apply within_ite
    | with_reducible apply within_ite_pair
    | with_reducible exact Or.inl rfl
    | exact Or.inr (hw (by decide))
    | exact hw (by decide)
    | with_reducible refine within_pair (by assumption) ?_
    | (intro _ _ _; try dsimp only)
    | (intro _ _; try dsimp only)
    | split
    | with_reducible apply within_mk)

theorem within_getData {ks : List Comp} {s0 : State} {s : State} {f fc} (hw : [.regs, .mem, .cells, .regions, .mcs, .resp, .ctxs, .tags, .flash, .err, .fates] ⊆ ks) (h : s0.within ks s) :
    s0.within ks (State.getData s f fc) := by
  unfold State.getData
  try dsimp only
  repeat' (first
    | with_reducible assumption
    | with_reducible apply within_failTag (sub_of hw rfl)
    | with_reducible apply within_agentWrite (sub_of hw rfl)
    | with_reducible apply within_setTag (sub_of hw rfl)
    | with_reducible apply within_completeTag (sub_of hw rfl)
    | with_reducible apply within_ite)

theorem within_sendCtx {ks : List Comp} {s0 : State} {s : State} {q f} (hw : [.fports, .out] ⊆ ks) (h : s0.within ks s) :
    s0.within ks (State.sendCtx s q f) := by
  unfold State.sendCtx
  try dsimp only
  repeat' (first
    | with_reducible assumption
    | with_reducible apply within_sendFrame (sub_of hw rfl))

theorem within_landGet {ks : List Comp} {s0 : State} {s : State} {f} (hw : [.regs, .mem, .cells, .regions, .mcs, .resp, .fports, .flash, .err, .out, .fates] ⊆ ks) (h : s0.within ks s) :
    s0.within ks (State.landGet s f) := by
  unfold State.landGet
  try dsimp only
  repeat' (first
    | with_reducible assumption
    | with_reducible apply within_agentRead (sub_of hw rfl)
    | with_reducible apply within_sendCtx (sub_of hw rfl))

theorem within_sendDone {ks : List Comp} {s0 : State} {s : State} {q f status} (hw : [.fports, .out] ⊆ ks) (h : s0.within ks s) :
    s0.within ks (State.sendDone s q f status) := by
  unfold State.sendDone
  try dsimp only
  repeat' (first
    | with_reducible assumption
    | with_reducible apply within_sendCtx (sub_of hw rfl))

theorem within_landed {ks : List Comp} {s0 : State} {s : State} {f st} (hw : [.regs, .cells, .regions, .ctxs, .fports, .err, .out, .fates] ⊆ ks) (h : s0.within ks s) :
    s0.within ks (State.landed s f st) := by
  unfold State.landed
  try dsimp only
  repeat' (first
    | with_reducible assumption
    | with_reducible apply within_setCtx (sub_of hw rfl)
    | with_reducible apply within_agentSignal (sub_of hw rfl)
    | with_reducible apply within_sendDone (sub_of hw rfl)
    | with_reducible apply within_ite)

theorem within_landPut {ks : List Comp} {s0 : State} {s : State} {f} (hw : [.regs, .mem, .cells, .regions, .mcs, .resp, .ctxs, .fports, .flash, .err, .out, .fates] ⊆ ks) (h : s0.within ks s) :
    s0.within ks (State.landPut s f) := by
  unfold State.landPut
  try dsimp only
  repeat' (first
    | with_reducible assumption
    | with_reducible apply within_agentWrite (sub_of hw rfl)
    | with_reducible apply within_landed (sub_of hw rfl))

theorem within_reduceUnit {ks : List Comp} {s0 : State} {a f j} (hw : [.regs, .mem, .cells, .regions, .mcs, .resp, .flash, .err, .fates] ⊆ ks) (h : s0.within ks a.1) :
    s0.within ks (State.reduceUnit a f j).1 := by
  unfold State.reduceUnit
  try dsimp only
  repeat' (first
    | with_reducible assumption
    | with_reducible apply within_agentRead (sub_of hw rfl)
    | with_reducible apply within_agentWrite (sub_of hw rfl)
    | with_reducible apply within_fabRec (sub_of hw rfl)
    | with_reducible apply within_ite_pair
    | split)

theorem within_landReduce {ks : List Comp} {s0 : State} {s : State} {f} (hw : [.regs, .mem, .cells, .regions, .mcs, .resp, .ctxs, .fports, .flash, .err, .out, .fates] ⊆ ks) (h : s0.within ks s) :
    s0.within ks (State.landReduce s f) := by
  unfold State.landReduce
  try dsimp only
  repeat' (first
    | with_reducible assumption
    | with_reducible apply within_reduceUnit (sub_of hw rfl)
    | with_reducible apply within_landed (sub_of hw rfl)
    | with_reducible apply within_foldl_pair
    | (intro _ _ _; try dsimp only)
    | (intro _ _; try dsimp only))

theorem within_linkBad {ks : List Comp} {s0 : State} {s : State} {d p} (hw : [.regs, .fports, .err, .out] ⊆ ks) (h : s0.within ks s) :
    s0.within ks (State.linkBad s d p) := by
  unfold State.linkBad
  try dsimp only
  repeat' (first
    | with_reducible assumption
    | with_reducible apply within_strange (sub_of hw rfl)
    | with_reducible apply within_linkSend (sub_of hw rfl)
    | with_reducible apply within_foldl
    | with_reducible apply within_foldl_pair
    | with_reducible exact within_refl _
    | with_reducible apply within_ite
    | with_reducible apply within_ite_pair
    | with_reducible exact Or.inl rfl
    | exact Or.inr (hw (by decide))
    | exact hw (by decide)
    | with_reducible refine within_pair (by assumption) ?_
    | (intro _ _ _; try dsimp only)
    | (intro _ _; try dsimp only)
    | split
    | with_reducible apply within_mk)

theorem within_linkBegin {ks : List Comp} {s0 : State} {s : State} {d p crReq crRsp} (hw : [.fports] ⊆ ks) (h : s0.within ks s) :
    s0.within ks (State.linkBegin s d p crReq crRsp) := by
  unfold State.linkBegin
  try dsimp only
  repeat' (first
    | with_reducible assumption
    | with_reducible apply within_setFport (sub_of hw rfl)
    | with_reducible apply within_foldl
    | with_reducible apply within_foldl_pair
    | with_reducible exact within_refl _
    | with_reducible apply within_ite
    | with_reducible apply within_ite_pair
    | with_reducible exact Or.inl rfl
    | exact Or.inr (hw (by decide))
    | exact hw (by decide)
    | with_reducible refine within_pair (by assumption) ?_
    | (intro _ _ _; try dsimp only)
    | (intro _ _; try dsimp only)
    | split
    | with_reducible apply within_mk)

theorem within_linkHeader {ks : List Comp} {s0 : State} {s : State} {d p link} (hw : [.fports, .out] ⊆ ks) (h : s0.within ks s) :
    s0.within ks (State.linkHeader s d p link) := by
  unfold State.linkHeader
  try dsimp only
  repeat' (first
    | with_reducible assumption
    | with_reducible apply within_flushHeld (sub_of hw rfl)
    | with_reducible apply within_setFport (sub_of hw rfl)
    | with_reducible apply within_foldl
    | with_reducible apply within_foldl_pair
    | with_reducible exact within_refl _
    | with_reducible apply within_ite
    | with_reducible apply within_ite_pair
    | with_reducible exact Or.inl rfl
    | exact Or.inr (hw (by decide))
    | exact hw (by decide)
    | with_reducible refine within_pair (by assumption) ?_
    | (intro _ _ _; try dsimp only)
    | (intro _ _; try dsimp only)
    | split
    | with_reducible apply within_mk)

theorem within_linkIdle {ks : List Comp} {s0 : State} {s : State} {d p} (hw : [.fports, .out] ⊆ ks) (h : s0.within ks s) :
    s0.within ks (State.linkIdle s d p) := by
  unfold State.linkIdle
  try dsimp only
  repeat' (first
    | with_reducible assumption
    | with_reducible apply within_linkSend (sub_of hw rfl)
    | with_reducible apply within_foldl
    | with_reducible apply within_foldl_pair
    | with_reducible exact within_refl _
    | with_reducible apply within_ite
    | with_reducible apply within_ite_pair
    | with_reducible exact Or.inl rfl
    | exact Or.inr (hw (by decide))
    | exact hw (by decide)
    | with_reducible refine within_pair (by assumption) ?_
    | (intro _ _ _; try dsimp only)
    | (intro _ _; try dsimp only)
    | split
    | with_reducible apply within_mk)

theorem within_nativeAgain {ks : List Comp} {s0 : State} {s : State} {d p e} (hw : [.fports, .out] ⊆ ks) (h : s0.within ks s) :
    s0.within ks (State.nativeAgain s d p e) := by
  unfold State.nativeAgain
  try dsimp only
  repeat' (first
    | with_reducible assumption
    | with_reducible apply within_linkSend (sub_of hw rfl)
    | with_reducible apply within_foldl
    | with_reducible apply within_foldl_pair
    | with_reducible exact within_refl _
    | with_reducible apply within_ite
    | with_reducible apply within_ite_pair
    | with_reducible exact Or.inl rfl
    | exact Or.inr (hw (by decide))
    | exact hw (by decide)
    | with_reducible refine within_pair (by assumption) ?_
    | (intro _ _ _; try dsimp only)
    | (intro _ _; try dsimp only)
    | split
    | with_reducible apply within_mk)

theorem within_linkNak {ks : List Comp} {s0 : State} {s : State} {d p link} (hw : [.regs, .fports, .err, .out] ⊆ ks) (h : s0.within ks s) :
    s0.within ks (State.linkNak s d p link) := by
  unfold State.linkNak
  try dsimp only
  repeat' (first
    | with_reducible assumption
    | with_reducible apply within_linkHeader (sub_of hw rfl)
    | with_reducible apply within_nativeAgain (sub_of hw rfl)
    | with_reducible apply within_incSatUn (sub_of hw rfl)
    | with_reducible apply within_raiseLim (sub_of hw rfl)
    | with_reducible apply within_foldl
    | with_reducible apply within_ite
    | (intro _ _ _; try dsimp only)
    | (intro _ _; try dsimp only)
    | split)

theorem within_linkRx {ks : List Comp} {s0 : State} {s : State} {d p f link} {act : State → State} (hw : [.regs, .fports, .err, .out] ⊆ ks) (h0 : s0.within ks s) (h1 : ∀ t, s0.within ks t → s0.within ks (act t)) :
    s0.within ks (State.linkRx s d p f link act) := by
  unfold State.linkRx
  try dsimp only
  repeat' (first
    | with_reducible assumption
    | with_reducible apply h1
    | with_reducible apply within_linkNak (sub_of hw rfl)
    | with_reducible apply within_linkHeader (sub_of hw rfl)
    | with_reducible apply within_setFport (sub_of hw rfl)
    | with_reducible apply within_foldl
    | with_reducible apply within_foldl_pair
    | with_reducible exact within_refl _
    | with_reducible apply within_ite
    | with_reducible apply within_ite_pair
    | with_reducible exact Or.inl rfl
    | exact Or.inr (hw (by decide))
    | exact hw (by decide)
    | with_reducible refine within_pair (by assumption) ?_
    | (intro _ _ _; try dsimp only)
    | (intro _ _; try dsimp only)
    | split
    | with_reducible apply within_mk)

theorem within_markLanes {ks : List Comp} {s0 : State} {s : State} {d p bad} (hw : [.regs, .flash, .err] ⊆ ks) (h : s0.within ks s) :
    s0.within ks (State.markLanes s d p bad) := by
  unfold State.markLanes
  try dsimp only
  repeat' (first
    | with_reducible assumption
    | with_reducible apply within_setFld (sub_of hw rfl)
    | with_reducible apply within_confirmFuse (sub_of hw rfl)
    | with_reducible apply within_foldl
    | with_reducible apply within_ite
    | (intro _ _ _; try dsimp only)
    | (intro _ _; try dsimp only))

theorem within_resume {ks : List Comp} {s0 : State} {s : State} {d p} (hw : [.regs, .fports, .err, .out] ⊆ ks) (h : s0.within ks s) :
    s0.within ks (State.resume s d p) := by
  unfold State.resume
  try dsimp only
  repeat' (first
    | with_reducible assumption
    | with_reducible apply within_raiseLim (sub_of hw rfl)
    | with_reducible apply within_nativeAgain (sub_of hw rfl)
    | with_reducible apply within_incSatUn (sub_of hw rfl)
    | with_reducible apply within_flushHeld (sub_of hw rfl)
    | with_reducible apply within_foldl
    | with_reducible apply within_foldl_pair
    | with_reducible exact within_refl _
    | with_reducible apply within_ite
    | with_reducible apply within_ite_pair
    | with_reducible exact Or.inl rfl
    | exact Or.inr (hw (by decide))
    | exact hw (by decide)
    | with_reducible refine within_pair (by assumption) ?_
    | (intro _ _ _; try dsimp only)
    | (intro _ _; try dsimp only)
    | split
    | with_reducible apply within_mk)

theorem within_takeFraming {ks : List Comp} {s0 : State} {s : State} {d p} (hw : [.fports] ⊆ ks) (h : s0.within ks s) :
    s0.within ks (State.takeFraming s d p) := by
  unfold State.takeFraming
  try dsimp only
  repeat' (first
    | with_reducible assumption
    | with_reducible apply within_setFport (sub_of hw rfl)
    | with_reducible apply within_foldl
    | with_reducible apply within_foldl_pair
    | with_reducible exact within_refl _
    | with_reducible apply within_ite
    | with_reducible apply within_ite_pair
    | with_reducible exact Or.inl rfl
    | exact Or.inr (hw (by decide))
    | exact hw (by decide)
    | with_reducible refine within_pair (by assumption) ?_
    | (intro _ _ _; try dsimp only)
    | (intro _ _; try dsimp only)
    | split
    | with_reducible apply within_mk)

theorem within_portUp {ks : List Comp} {s0 : State} {s : State} {d p was w f crReq crRsp} (hw : [.regs, .fports, .err, .out] ⊆ ks) (h : s0.within ks s) :
    s0.within ks (State.portUp s d p was w f crReq crRsp) := by
  unfold State.portUp
  try dsimp only
  repeat' (first
    | with_reducible assumption
    | with_reducible apply within_linkBegin (sub_of hw rfl)
    | with_reducible apply within_resume (sub_of hw rfl)
    | with_reducible apply within_setFld (sub_of hw rfl)
    | with_reducible apply within_setPstate (sub_of hw rfl)
    | with_reducible apply within_takeFraming (sub_of hw rfl)
    | with_reducible apply within_fabRec (sub_of hw rfl)
    | with_reducible apply within_foldl
    | with_reducible apply within_foldl_pair
    | with_reducible exact within_refl _
    | with_reducible apply within_ite
    | with_reducible apply within_ite_pair
    | with_reducible exact Or.inl rfl
    | exact Or.inr (hw (by decide))
    | exact hw (by decide)
    | with_reducible refine within_pair (by assumption) ?_
    | (intro _ _ _; try dsimp only)
    | (intro _ _; try dsimp only)
    | split
    | with_reducible apply within_mk)

theorem within_trainDone {ks : List Comp} {s0 : State} {s : State} {d p bad crReq crRsp} (hw : [.regs, .ctxs, .tags, .fports, .flash, .err, .out] ⊆ ks) (h : s0.within ks s) :
    s0.within ks (State.trainDone s d p bad crReq crRsp) := by
  unfold State.trainDone
  try dsimp only
  repeat' (first
    | with_reducible assumption
    | with_reducible apply within_markLanes (sub_of hw rfl)
    | with_reducible apply within_trainPort (sub_of hw rfl)
    | with_reducible apply within_portDown (sub_of hw rfl)
    | with_reducible apply within_portUp (sub_of hw rfl)
    | with_reducible apply within_noWidth (sub_of hw rfl)
    | with_reducible apply within_setPstate (sub_of hw rfl)
    | with_reducible apply within_failPort (sub_of hw rfl)
    | with_reducible apply within_fabRec (sub_of hw rfl)
    | with_reducible apply within_licRetrain (sub_of hw rfl)
    | with_reducible apply within_foldl
    | with_reducible apply within_foldl_pair
    | with_reducible exact within_refl _
    | with_reducible apply within_ite
    | with_reducible apply within_ite_pair
    | with_reducible exact Or.inl rfl
    | exact Or.inr (hw (by decide))
    | exact hw (by decide)
    | with_reducible refine within_pair (by assumption) ?_
    | (intro _ _ _; try dsimp only)
    | (intro _ _; try dsimp only)
    | split
    | with_reducible apply within_mk)

theorem within_refuseFrame {ks : List Comp} {s0 : State} {s : State} {q f} (hw : [.fports, .err, .out] ⊆ ks) (h : s0.within ks s) :
    s0.within ks (State.refuseFrame s q f) := by
  unfold State.refuseFrame
  try dsimp only
  repeat' (first
    | with_reducible assumption
    | with_reducible apply within_fabRec (sub_of hw rfl)
    | with_reducible apply within_sendDone (sub_of hw rfl))

theorem within_sendAck {ks : List Comp} {s0 : State} {s : State} {q} (hw : [.ctxs, .fports, .out] ⊆ ks) (h : s0.within ks s) :
    s0.within ks (State.sendAck s q) := by
  unfold State.sendAck
  try dsimp only
  repeat' (first
    | with_reducible assumption
    | with_reducible apply within_sendCtx (sub_of hw rfl)
    | with_reducible apply within_setCtx (sub_of hw rfl))

theorem within_onRequest {ks : List Comp} {s0 : State} {s : State} {d p f} {land : State → State} (hw : [.regs, .ctxs, .tags, .fports, .err, .out] ⊆ ks) (h0 : s0.within ks s) (h1 : ∀ t, s0.within ks t → s0.within ks (land t)) :
    s0.within ks (State.onRequest s d p f land) := by
  unfold State.onRequest
  try dsimp only
  repeat' (first
    | with_reducible assumption
    | with_reducible apply h1
    | with_reducible apply within_strange (sub_of hw rfl)
    | with_reducible apply within_setCtx (sub_of hw rfl)
    | with_reducible apply within_refuseFrame (sub_of hw rfl)
    | with_reducible apply within_sendAck (sub_of hw rfl)
    | with_reducible apply within_failCtx (sub_of hw rfl)
    | with_reducible apply within_fabRec (sub_of hw rfl)
    | with_reducible apply within_countAck (sub_of hw rfl)
    | with_reducible apply within_ite
    | (intro _ _ _; try dsimp only)
    | (intro _ _; try dsimp only))

theorem within_staleFrame {ks : List Comp} {s0 : State} {s : State} {d p} (hw : [.regs, .err] ⊆ ks) (h : s0.within ks s) :
    s0.within ks (State.staleFrame s d p) := by
  unfold State.staleFrame
  try dsimp only
  repeat' (first
    | with_reducible assumption
    | with_reducible apply within_raiseLim (sub_of hw rfl)
    | with_reducible apply within_incSatUn (sub_of hw rfl))

theorem within_onResponse {ks : List Comp} {s0 : State} {s : State} {d p f} {act : State → FabCmd → State} (hw : [.regs, .err] ⊆ ks) (h0 : s0.within ks s) (h1 : ∀ t y0, s0.within ks t → s0.within ks (act t y0)) :
    s0.within ks (State.onResponse s d p f act) := by
  unfold State.onResponse
  try dsimp only
  repeat' (first
    | with_reducible assumption
    | with_reducible apply h1
    | with_reducible apply within_strange (sub_of hw rfl)
    | with_reducible apply within_staleFrame (sub_of hw rfl)
    | with_reducible apply within_ite
    | (intro _ _ _; try dsimp only)
    | (intro _ _; try dsimp only)
    | split)

theorem within_pauseFrame {ks : List Comp} {s0 : State} {s : State} {d p} (hw : [.regs] ⊆ ks) (h : s0.within ks s) :
    s0.within ks (State.pauseFrame s d p) := by
  unfold State.pauseFrame
  try dsimp only
  repeat' (first
    | with_reducible assumption
    | with_reducible apply within_incSatUn (sub_of hw rfl)
    | with_reducible apply within_foldl
    | with_reducible apply within_foldl_pair
    | with_reducible exact within_refl _
    | with_reducible apply within_ite
    | with_reducible apply within_ite_pair
    | with_reducible exact Or.inl rfl
    | exact Or.inr (hw (by decide))
    | exact hw (by decide)
    | with_reducible refine within_pair (by assumption) ?_
    | (intro _ _ _; try dsimp only)
    | (intro _ _; try dsimp only)
    | split
    | with_reducible apply within_mk)

theorem within_resend {ks : List Comp} {s0 : State} {s : State} {q} (hw : [.regs, .ctxs, .fports, .out] ⊆ ks) (h : s0.within ks s) :
    s0.within ks (State.resend s q) := by
  unfold State.resend
  try dsimp only
  repeat' (first
    | with_reducible assumption
    | with_reducible apply within_incSatUn (sub_of hw rfl)
    | with_reducible apply within_setCtx (sub_of hw rfl)
    | with_reducible apply within_sendFrame (sub_of hw rfl)
    | with_reducible apply within_foldl
    | with_reducible apply within_ite
    | (intro _ _ _; try dsimp only)
    | (intro _ _; try dsimp only))

theorem within_submitAnswer {ks : List Comp} {s0 : State} {req r} (hw : [.resp] ⊆ ks) (h : s0.within ks r.1) :
    s0.within ks (State.submitAnswer req r) := by
  unfold State.submitAnswer
  try dsimp only
  repeat' (first
    | with_reducible assumption
    | with_reducible apply within_answer (sub_of hw rfl)
    | with_reducible apply within_foldl
    | with_reducible apply within_foldl_pair
    | with_reducible exact within_refl _
    | with_reducible apply within_ite
    | with_reducible apply within_ite_pair
    | with_reducible exact Or.inl rfl
    | exact Or.inr (hw (by decide))
    | exact hw (by decide)
    | with_reducible refine within_pair (by assumption) ?_
    | (intro _ _ _; try dsimp only)
    | (intro _ _; try dsimp only)
    | split
    | with_reducible apply within_mk)

theorem within_execCommandTimeout {ks : List Comp} (s : State) {d t} (hw : [.ctxs, .tags, .err] ⊆ ks) :
    ∃ z, execCommandTimeout d t s = .next z ∧ s.within ks z := by
  unfold execCommandTimeout
  exact ⟨_, rfl, by
    repeat' (first
      | with_reducible exact within_refl _
      | with_reducible apply within_cmdTimeout (sub_of hw rfl))⟩

theorem within_execCompletionReceive {ks : List Comp} (s : State) {d p f link} (hw : [.regs, .cells, .regions, .ctxs, .tags, .fports, .err, .out, .fates] ⊆ ks) :
    ∃ z, execCompletionReceive d p f link s = .next z ∧ s.within ks z := by
  unfold execCompletionReceive
  exact ⟨_, rfl, by
    repeat' (first
      | with_reducible exact within_refl _
      | with_reducible assumption
      | with_reducible apply within_linkRx (sub_of hw rfl)
      | with_reducible apply within_onResponse (sub_of hw rfl)
      | with_reducible apply within_cmdDone (sub_of hw rfl)
      | (intro _ _ _; try dsimp only)
      | (intro _ _; try dsimp only))⟩

theorem within_execContextClose {ks : List Comp} (s : State) {q} (hw : [.regs, .ctxs, .tags, .err] ⊆ ks) :
    ∃ z, execContextClose q s = .next z ∧ s.within ks z := by
  unfold execContextClose
  exact ⟨_, rfl, by
    repeat' (first
      | with_reducible exact within_refl _
      | with_reducible apply within_ctxClose (sub_of hw rfl))⟩

theorem within_execContextOpen {ks : List Comp} (s : State) {q} (hw : [.regs, .ctxs, .err] ⊆ ks) :
    ∃ z, execContextOpen q s = .next z ∧ s.within ks z := by
  unfold execContextOpen
  exact ⟨_, rfl, by
    repeat' (first
      | with_reducible exact within_refl _
      | with_reducible apply within_ctxOpen (sub_of hw rfl))⟩

theorem within_execE2eAckSend {ks : List Comp} (s : State) {q} (hw : [.ctxs, .fports, .out] ⊆ ks) :
    ∃ z, execE2eAckSend q s = .next z ∧ s.within ks z := by
  unfold execE2eAckSend
  exact ⟨_, rfl, by
    repeat' (first
      | with_reducible exact within_refl _
      | with_reducible apply within_sendAck (sub_of hw rfl)
      | with_reducible apply within_ite)⟩

theorem within_execE2eResendTimeout {ks : List Comp} (s : State) {q} (hw : [.regs, .ctxs, .fports, .out] ⊆ ks) :
    ∃ z, execE2eResendTimeout q s = .next z ∧ s.within ks z := by
  unfold execE2eResendTimeout
  exact ⟨_, rfl, by
    repeat' (first
      | with_reducible exact within_refl _
      | with_reducible apply within_resend (sub_of hw rfl))⟩

theorem within_execFabCommandStart {ks : List Comp} (s : State) {d upset} (hw : [.regs, .mem, .cells, .regions, .mcs, .resp, .ctxs, .tags, .fabQ, .fabWait, .fports, .flash, .err, .out, .fates] ⊆ ks) :
    ∃ z, execFabCommandStart d upset s = .next z ∧ s.within ks z := by
  unfold execFabCommandStart
  exact ⟨_, rfl, by
    repeat' (first
      | with_reducible exact within_refl _
      | with_reducible apply within_fabStart (sub_of hw rfl))⟩

theorem within_execFabPcmdRetrain {ks : List Comp} (s : State) {d p} (hw : [.regs, .fports, .err] ⊆ ks) :
    ∃ z, execFabPcmdRetrain d p s = .next z ∧ s.within ks z := by
  unfold execFabPcmdRetrain
  exact ⟨_, rfl, by
    repeat' (first
      | with_reducible exact within_refl _
      | with_reducible apply within_pcmd (sub_of hw rfl))⟩

theorem within_execFabPortEnWrite {ks : List Comp} (s : State) {d p en} (hw : [.regs, .ctxs, .tags, .fports, .err] ⊆ ks) :
    ∃ z, execFabPortEnWrite d p en s = .next z ∧ s.within ks z := by
  unfold execFabPortEnWrite
  exact ⟨_, rfl, by
    repeat' (first
      | with_reducible exact within_refl _
      | with_reducible apply within_portEn (sub_of hw rfl))⟩

theorem within_execFabSubmitGet {ks : List Comp} (s : State) {req d c} (hw : [.regs, .pend13, .resp, .fabQ, .fabWait, .err] ⊆ ks) :
    ∃ z, execFabSubmitGet req d c s = .next z ∧ s.within ks z := by
  unfold execFabSubmitGet
  exact ⟨_, rfl, by
    repeat' (first
      | with_reducible exact within_refl _
      | with_reducible assumption
      | with_reducible apply within_submitAnswer (sub_of hw rfl)
      | with_reducible apply within_submit (sub_of hw rfl)
      | with_reducible apply within_dropPend (sub_of hw rfl)
      | with_reducible apply within_foldl
      | with_reducible apply within_foldl_pair
      | with_reducible apply within_ite
      | with_reducible apply within_ite_pair
      | with_reducible exact Or.inl rfl
      | exact Or.inr (hw (by decide))
      | exact hw (by decide)
      | with_reducible refine within_pair (by assumption) ?_
      | (intro _ _ _; try dsimp only)
      | (intro _ _; try dsimp only)
      | split
      | with_reducible apply within_mk)⟩

theorem within_execFabSubmitPut {ks : List Comp} (s : State) {req d c} (hw : [.regs, .pend13, .resp, .fabQ, .fabWait, .err] ⊆ ks) :
    ∃ z, execFabSubmitPut req d c s = .next z ∧ s.within ks z := by
  unfold execFabSubmitPut
  exact ⟨_, rfl, by
    repeat' (first
      | with_reducible exact within_refl _
      | with_reducible assumption
      | with_reducible apply within_submitAnswer (sub_of hw rfl)
      | with_reducible apply within_submit (sub_of hw rfl)
      | with_reducible apply within_dropPend (sub_of hw rfl)
      | with_reducible apply within_foldl
      | with_reducible apply within_foldl_pair
      | with_reducible apply within_ite
      | with_reducible apply within_ite_pair
      | with_reducible exact Or.inl rfl
      | exact Or.inr (hw (by decide))
      | exact hw (by decide)
      | with_reducible refine within_pair (by assumption) ?_
      | (intro _ _ _; try dsimp only)
      | (intro _ _; try dsimp only)
      | split
      | with_reducible apply within_mk)⟩

theorem within_execFabSubmitReduce {ks : List Comp} (s : State) {req d c} (hw : [.regs, .pend13, .resp, .fabQ, .fabWait, .err] ⊆ ks) :
    ∃ z, execFabSubmitReduce req d c s = .next z ∧ s.within ks z := by
  unfold execFabSubmitReduce
  exact ⟨_, rfl, by
    repeat' (first
      | with_reducible exact within_refl _
      | with_reducible assumption
      | with_reducible apply within_submitAnswer (sub_of hw rfl)
      | with_reducible apply within_submit (sub_of hw rfl)
      | with_reducible apply within_dropPend (sub_of hw rfl)
      | with_reducible apply within_foldl
      | with_reducible apply within_foldl_pair
      | with_reducible apply within_ite
      | with_reducible apply within_ite_pair
      | with_reducible exact Or.inl rfl
      | exact Or.inr (hw (by decide))
      | exact hw (by decide)
      | with_reducible refine within_pair (by assumption) ?_
      | (intro _ _ _; try dsimp only)
      | (intro _ _; try dsimp only)
      | split
      | with_reducible apply within_mk)⟩

theorem within_execFabSubmitSignal {ks : List Comp} (s : State) {req d c} (hw : [.regs, .pend13, .resp, .fabQ, .fabWait, .err] ⊆ ks) :
    ∃ z, execFabSubmitSignal req d c s = .next z ∧ s.within ks z := by
  unfold execFabSubmitSignal
  exact ⟨_, rfl, by
    repeat' (first
      | with_reducible exact within_refl _
      | with_reducible assumption
      | with_reducible apply within_submitAnswer (sub_of hw rfl)
      | with_reducible apply within_submit (sub_of hw rfl)
      | with_reducible apply within_dropPend (sub_of hw rfl)
      | with_reducible apply within_foldl
      | with_reducible apply within_foldl_pair
      | with_reducible apply within_ite
      | with_reducible apply within_ite_pair
      | with_reducible exact Or.inl rfl
      | exact Or.inr (hw (by decide))
      | exact hw (by decide)
      | with_reducible refine within_pair (by assumption) ?_
      | (intro _ _ _; try dsimp only)
      | (intro _ _; try dsimp only)
      | split
      | with_reducible apply within_mk)⟩

theorem within_execFaultNoticeReceive {ks : List Comp} (s : State) {d p f link} (hw : [.regs, .ctxs, .tags, .fports, .err, .out] ⊆ ks) :
    ∃ z, execFaultNoticeReceive d p f link s = .next z ∧ s.within ks z := by
  unfold execFaultNoticeReceive
  exact ⟨_, rfl, by
    repeat' (first
      | with_reducible exact within_refl _
      | with_reducible assumption
      | with_reducible apply within_linkRx (sub_of hw rfl)
      | with_reducible apply within_faultNotice (sub_of hw rfl)
      | (intro _ _ _; try dsimp only)
      | (intro _ _; try dsimp only))⟩

theorem within_execFecUncorrectableBurst {ks : List Comp} (s : State) {d p lane count corr} (hw : [.regs] ⊆ ks) :
    ∃ z, execFecUncorrectableBurst d p lane count corr s = .next z ∧ s.within ks z := by
  unfold execFecUncorrectableBurst
  exact ⟨_, rfl, by
    repeat' (first
      | with_reducible exact within_refl _
      | with_reducible apply within_incSatUn (sub_of hw rfl)
      | with_reducible apply within_retrain (sub_of hw rfl)
      | with_reducible apply within_ite)⟩

theorem within_execFrameAckReceive {ks : List Comp} (s : State) {d p f link} (hw : [.regs, .ctxs, .fports, .err, .out] ⊆ ks) :
    ∃ z, execFrameAckReceive d p f link s = .next z ∧ s.within ks z := by
  unfold execFrameAckReceive
  exact ⟨_, rfl, by
    repeat' (first
      | with_reducible exact within_refl _
      | with_reducible assumption
      | with_reducible apply within_linkRx (sub_of hw rfl)
      | with_reducible apply within_ackFrame (sub_of hw rfl)
      | (intro _ _ _; try dsimp only)
      | (intro _ _; try dsimp only))⟩

theorem within_execGetRequestReceive {ks : List Comp} (s : State) {d p f link} (hw : [.regs, .mem, .cells, .regions, .mcs, .resp, .ctxs, .tags, .fports, .flash, .err, .out, .fates] ⊆ ks) :
    ∃ z, execGetRequestReceive d p f link s = .next z ∧ s.within ks z := by
  unfold execGetRequestReceive
  exact ⟨_, rfl, by
    repeat' (first
      | with_reducible exact within_refl _
      | with_reducible assumption
      | with_reducible apply within_linkRx (sub_of hw rfl)
      | with_reducible apply within_onRequest (sub_of hw rfl)
      | with_reducible apply within_landGet (sub_of hw rfl)
      | (intro _ _ _; try dsimp only)
      | (intro _ _; try dsimp only))⟩

theorem within_execGetResponseReceive {ks : List Comp} (s : State) {d p f link} (hw : [.regs, .mem, .cells, .regions, .mcs, .resp, .ctxs, .tags, .fports, .flash, .err, .out, .fates] ⊆ ks) :
    ∃ z, execGetResponseReceive d p f link s = .next z ∧ s.within ks z := by
  unfold execGetResponseReceive
  exact ⟨_, rfl, by
    repeat' (first
      | with_reducible exact within_refl _
      | with_reducible assumption
      | with_reducible apply within_linkRx (sub_of hw rfl)
      | with_reducible apply within_onResponse (sub_of hw rfl)
      | with_reducible apply within_getData (sub_of hw rfl)
      | (intro _ _ _; try dsimp only)
      | (intro _ _; try dsimp only))⟩

theorem within_execMalformedFrameReceive {ks : List Comp} (s : State) {d p kind} (hw : [.regs, .fports, .err, .out] ⊆ ks) :
    ∃ z, execMalformedFrameReceive d p kind s = .next z ∧ s.within ks z := by
  unfold execMalformedFrameReceive
  exact ⟨_, rfl, by
    repeat' (first
      | with_reducible exact within_refl _
      | with_reducible assumption
      | with_reducible apply within_linkBad (sub_of hw rfl)
      | with_reducible apply within_pauseFrame (sub_of hw rfl)
      | with_reducible apply within_strange (sub_of hw rfl)
      | with_reducible apply within_foldl
      | with_reducible apply within_foldl_pair
      | with_reducible apply within_ite
      | with_reducible apply within_ite_pair
      | with_reducible exact Or.inl rfl
      | exact Or.inr (hw (by decide))
      | exact hw (by decide)
      | with_reducible refine within_pair (by assumption) ?_
      | (intro _ _ _; try dsimp only)
      | (intro _ _; try dsimp only)
      | split
      | with_reducible apply within_mk)⟩

theorem within_execNativeLinkNak {ks : List Comp} (s : State) {d p link} (hw : [.regs, .fports, .err, .out] ⊆ ks) :
    ∃ z, execNativeLinkNak d p link s = .next z ∧ s.within ks z := by
  unfold execNativeLinkNak
  exact ⟨_, rfl, by
    repeat' (first
      | with_reducible exact within_refl _
      | with_reducible apply within_linkNak (sub_of hw rfl)
      | with_reducible apply within_linkHeader (sub_of hw rfl)
      | with_reducible apply within_ite)⟩

theorem within_execPartnerSignalLoss {ks : List Comp} (s : State) {d p} (hw : [.regs] ⊆ ks) :
    ∃ z, execPartnerSignalLoss d p s = .next z ∧ s.within ks z := by
  unfold execPartnerSignalLoss
  exact ⟨_, rfl, by
    repeat' (first
      | with_reducible exact within_refl _
      | with_reducible apply within_retrain (sub_of hw rfl))⟩

theorem within_execPortRetrainDone {ks : List Comp} (s : State) {d p bad crReq crRsp} (hw : [.regs, .ctxs, .tags, .fports, .flash, .err, .out] ⊆ ks) :
    ∃ z, execPortRetrainDone d p bad crReq crRsp s = .next z ∧ s.within ks z := by
  unfold execPortRetrainDone
  exact ⟨_, rfl, by
    repeat' (first
      | with_reducible exact within_refl _
      | with_reducible apply within_trainDone (sub_of hw rfl))⟩

theorem within_execPutFrameReceive {ks : List Comp} (s : State) {d p f link} (hw : [.regs, .mem, .cells, .regions, .mcs, .resp, .ctxs, .tags, .fports, .flash, .err, .out, .fates] ⊆ ks) :
    ∃ z, execPutFrameReceive d p f link s = .next z ∧ s.within ks z := by
  unfold execPutFrameReceive
  exact ⟨_, rfl, by
    repeat' (first
      | with_reducible exact within_refl _
      | with_reducible assumption
      | with_reducible apply within_linkRx (sub_of hw rfl)
      | with_reducible apply within_onRequest (sub_of hw rfl)
      | with_reducible apply within_landPut (sub_of hw rfl)
      | (intro _ _ _; try dsimp only)
      | (intro _ _; try dsimp only))⟩

theorem within_execReduceFrameReceive {ks : List Comp} (s : State) {d p f link} (hw : [.regs, .mem, .cells, .regions, .mcs, .resp, .ctxs, .tags, .fports, .flash, .err, .out, .fates] ⊆ ks) :
    ∃ z, execReduceFrameReceive d p f link s = .next z ∧ s.within ks z := by
  unfold execReduceFrameReceive
  exact ⟨_, rfl, by
    repeat' (first
      | with_reducible exact within_refl _
      | with_reducible assumption
      | with_reducible apply within_linkRx (sub_of hw rfl)
      | with_reducible apply within_onRequest (sub_of hw rfl)
      | with_reducible apply within_landReduce (sub_of hw rfl)
      | (intro _ _ _; try dsimp only)
      | (intro _ _; try dsimp only))⟩

theorem within_execSignalFrameReceive {ks : List Comp} (s : State) {d p f link} (hw : [.regs, .cells, .regions, .ctxs, .tags, .fports, .err, .out, .fates] ⊆ ks) :
    ∃ z, execSignalFrameReceive d p f link s = .next z ∧ s.within ks z := by
  unfold execSignalFrameReceive
  exact ⟨_, rfl, by
    repeat' (first
      | with_reducible exact within_refl _
      | with_reducible assumption
      | with_reducible apply within_linkRx (sub_of hw rfl)
      | with_reducible apply within_onRequest (sub_of hw rfl)
      | with_reducible apply within_landed (sub_of hw rfl)
      | (intro _ _ _; try dsimp only)
      | (intro _ _; try dsimp only))⟩

end Sys2Proof.Laws
end

