-- ==== Sys2Proof/Laws/WithinPcie.lean ====
section
/-! SUPPORT. What the operations of Machine/Pcie.lean may change (`State.within`). -/

set_option Elab.async false
set_option linter.all false

namespace Sys2Proof.Laws

open Sys2Proof Sys2Proof.Machine Sys2Proof.Machine.State

theorem within_outFail {ks : List Comp} {s0 : State} {s : State} {req port reason a} (hw : [.err] ⊆ ks) (h : s0.within ks s) :
    s0.within ks (State.outFail s req port reason a) := by
  unfold State.outFail
  try dsimp only
  repeat' (first
    | with_reducible assumption
    | with_reducible apply within_raise (sub_of hw rfl))

theorem within_modTlp {ks : List Comp} {s0 : State} {s : State} {g id f} (hw : [.outReads] ⊆ ks) (h : s0.within ks s) :
    s0.within ks (State.modTlp s g id f) := by
  unfold State.modTlp
  try dsimp only
  repeat' (first
    | with_reducible assumption
    | with_reducible apply within_foldl
    | with_reducible apply within_foldl_pair
    | with_reducible exact within_refl _
    | with_reducible apply within_ite
    | with_reducible apply within_ite_pair
    | with_reducible exact Or.inl rfl
    | exact Or.inr (hw (by decide))
    | exact hw (by decide)
    | with_reducible refine within_pair (by assumption) ?_
    | (intro _ _ _; try dsimp only)
    | (intro _ _; try dsimp only)
    | split
    | with_reducible apply within_mk)

theorem within_sendReads {ks : List Comp} {s0 : State} {s : State} (hw : [.outReads, .out] ⊆ ks) (h : s0.within ks s) :
    s0.within ks (State.sendReads s) := by
  unfold State.sendReads
  try dsimp only
  repeat' (first
    | with_reducible assumption
    | with_reducible apply within_emit (sub_of hw rfl)
    | with_reducible apply within_modTlp (sub_of hw rfl)
    | with_reducible apply within_foldl
    | with_reducible apply within_foldl_pair
    | with_reducible exact within_refl _
    | with_reducible apply within_ite
    | with_reducible apply within_ite_pair
    | with_reducible exact Or.inl rfl
    | exact Or.inr (hw (by decide))
    | exact hw (by decide)
    | with_reducible refine within_pair (by assumption) ?_
    | (intro _ _ _; try dsimp only)
    | (intro _ _; try dsimp only)
    | split
    | with_reducible apply within_mk)

theorem within_outRead {ks : List Comp} {s0 : State} {s : State} {req a len pkt} (hw : [.outReads, .nextId, .err, .out] ⊆ ks) (h : s0.within ks s) :
    s0.within ks (State.outRead s req a len pkt).1 := by
  unfold State.outRead
  try dsimp only
  repeat' (first
    | with_reducible assumption
    | with_reducible apply within_outFail (sub_of hw rfl)
    | with_reducible apply within_sendReads (sub_of hw rfl)
    | with_reducible exact Or.inl rfl
    | exact Or.inr (hw (by decide))
    | exact hw (by decide)
    | split
    | with_reducible apply within_mk)

theorem within_outStore {ks : List Comp} {s0 : State} {s : State} {a data pois} (hw : [.mem, .out] ⊆ ks) (h : s0.within ks s) :
    s0.within ks (State.outStore s a data pois) := by
  unfold State.outStore
  try dsimp only
  repeat' (first
    | with_reducible assumption
    | with_reducible apply within_hostStore (sub_of hw rfl)
    | with_reducible apply within_foldl
    | (intro _ _ _; try dsimp only)
    | (intro _ _; try dsimp only))

theorem within_outWrite {ks : List Comp} {s0 : State} {s : State} {req a data pois} (hw : [.mem, .err, .out] ⊆ ks) (h : s0.within ks s) :
    s0.within ks (State.outWrite s req a data pois).1 := by
  unfold State.outWrite
  try dsimp only
  repeat' (first
    | with_reducible assumption
    | with_reducible apply within_outFail (sub_of hw rfl)
    | with_reducible apply within_outStore (sub_of hw rfl)
    | with_reducible apply within_raiseAt (sub_of hw rfl)
    | with_reducible apply within_ite
    | split)

theorem within_fetchTlp {ks : List Comp} {s0 : State} {s : State} {req p a len} (hw : [.err, .fates] ⊆ ks) (h : s0.within ks s) :
    s0.within ks (State.fetchTlp s req p a len).1 := by
  unfold State.fetchTlp
  try dsimp only
  repeat' (first
    | with_reducible assumption
    | with_reducible apply within_outFail (sub_of hw rfl)
    | with_reducible apply within_raise (sub_of hw rfl)
    | with_reducible apply within_foldl
    | with_reducible apply within_foldl_pair
    | with_reducible exact within_refl _
    | with_reducible apply within_ite
    | with_reducible apply within_ite_pair
    | with_reducible exact Or.inl rfl
    | exact Or.inr (hw (by decide))
    | exact hw (by decide)
    | with_reducible refine within_pair (by assumption) ?_
    | (intro _ _ _; try dsimp only)
    | (intro _ _; try dsimp only)
    | split
    | with_reducible apply within_mk)

theorem within_hostFetch {ks : List Comp} {s0 : State} {s : State} {req a len} (hw : [.err, .fates] ⊆ ks) (h : s0.within ks s) :
    s0.within ks (State.hostFetch s req a len).1 := by
  unfold State.hostFetch
  try dsimp only
  repeat' (first
    | with_reducible assumption
    | with_reducible apply within_outFail (sub_of hw rfl)
    | with_reducible apply within_fetchTlp (sub_of hw rfl)
    | with_reducible apply within_foldl
    | with_reducible apply within_foldl_pair
    | with_reducible exact within_refl _
    | with_reducible apply within_ite
    | with_reducible apply within_ite_pair
    | with_reducible exact Or.inl rfl
    | exact Or.inr (hw (by decide))
    | exact hw (by decide)
    | with_reducible refine within_pair (by assumption) ?_
    | (intro _ _ _; try dsimp only)
    | (intro _ _; try dsimp only)
    | split
    | with_reducible apply within_mk)

theorem within_stopRing {ks : List Comp} {s0 : State} {s : State} {p n cause} (hw : [.regs, .mem, .rings, .hports, .err, .out] ⊆ ks) (h : s0.within ks s) :
    s0.within ks (State.stopRing s p n cause) := by
  unfold State.stopRing
  try dsimp only
  repeat' (first
    | with_reducible assumption
    | with_reducible apply within_setRing (sub_of hw rfl)
    | with_reducible apply within_event (sub_of hw rfl)
    | with_reducible apply within_raise (sub_of hw rfl)
    | with_reducible apply within_raiseVec (sub_of hw rfl)
    | with_reducible apply within_foldl
    | with_reducible apply within_foldl_pair
    | with_reducible exact within_refl _
    | with_reducible apply within_ite
    | with_reducible apply within_ite_pair
    | with_reducible exact Or.inl rfl
    | exact Or.inr (hw (by decide))
    | exact hw (by decide)
    | with_reducible refine within_pair (by assumption) ?_
    | (intro _ _ _; try dsimp only)
    | (intro _ _; try dsimp only)
    | split
    | with_reducible apply within_mk)

theorem within_stopRings {ks : List Comp} {s0 : State} {s : State} {p} (hw : [.regs, .mem, .rings, .hports, .err, .out] ⊆ ks) (h : s0.within ks s) :
    s0.within ks (State.stopRings s p) := by
  unfold State.stopRings
  try dsimp only
  repeat' (first
    | with_reducible assumption
    | with_reducible apply within_stopRing (sub_of hw rfl)
    | with_reducible apply within_foldl
    | with_reducible apply within_ite
    | (intro _ _ _; try dsimp only)
    | (intro _ _; try dsimp only))

theorem within_enableRing {ks : List Comp} {s0 : State} {s : State} {p n} (hw : [.rings] ⊆ ks) (h : s0.within ks s) :
    s0.within ks (State.enableRing s p n) := by
  unfold State.enableRing
  try dsimp only
  repeat' (first
    | with_reducible assumption
    | with_reducible apply within_setRing (sub_of hw rfl)
    | with_reducible apply within_ite)

theorem within_disableRing {ks : List Comp} {s0 : State} {s : State} {p n} (hw : [.regs, .mem, .rings, .hports, .err, .out] ⊆ ks) (h : s0.within ks s) :
    s0.within ks (State.disableRing s p n) := by
  unfold State.disableRing
  try dsimp only
  repeat' (first
    | with_reducible assumption
    | with_reducible apply within_stopRing (sub_of hw rfl)
    | with_reducible apply within_setRing (sub_of hw rfl)
    | with_reducible apply within_ite)

theorem within_enableEvq {ks : List Comp} {s0 : State} {s : State} {p} (hw : [.regs, .hports] ⊆ ks) (h : s0.within ks s) :
    s0.within ks (State.enableEvq s p) := by
  unfold State.enableEvq
  try dsimp only
  repeat' (first
    | with_reducible assumption
    | with_reducible apply within_setHport (sub_of hw rfl)
    | with_reducible apply within_setFld (sub_of hw rfl)
    | with_reducible apply within_setReg (sub_of hw rfl)
    | with_reducible apply within_ite)

theorem within_evqCi {ks : List Comp} {s0 : State} {s : State} {p ci} (hw : [.regs, .mem, .hports, .err, .out] ⊆ ks) (h : s0.within ks s) :
    s0.within ks (State.evqCi s p ci) := by
  unfold State.evqCi
  try dsimp only
  repeat' (first
    | with_reducible assumption
    | with_reducible apply within_evqLoss (sub_of hw rfl)
    | with_reducible apply within_setReg (sub_of hw rfl)
    | with_reducible apply within_raise (sub_of hw rfl)
    | with_reducible apply within_ite)

theorem within_msixWrite {ks : List Comp} {s0 : State} {s : State} {req p v} (hw : [.hports, .err, .out] ⊆ ks) (h : s0.within ks s) :
    s0.within ks (State.msixWrite s req p v) := by
  unfold State.msixWrite
  try dsimp only
  repeat' (first
    | with_reducible assumption
    | with_reducible apply within_raise (sub_of hw rfl)
    | with_reducible apply within_raiseVec (sub_of hw rfl)
    | with_reducible apply within_ite)

theorem within_agentReply {ks : List Comp} {s0 : State} {s : State} {d p data pois status} (hw : [.resp, .net] ⊆ ks) (h : s0.within ks s) :
    s0.within ks (State.agentReply s d p data pois status) := by
  unfold State.agentReply
  try dsimp only
  repeat' (first
    | with_reducible assumption
    | with_reducible apply within_answer (sub_of hw rfl)
    | with_reducible apply within_agentInject (sub_of hw rfl)
    | with_reducible apply within_ite
    | split)

theorem within_doorbell {ks : List Comp} {s0 : State} {s : State} {p n pi} (hw : [.regs, .mem, .rings, .hports, .err, .out] ⊆ ks) (h : s0.within ks s) :
    s0.within ks (State.doorbell s p n pi) := by
  unfold State.doorbell
  try dsimp only
  repeat' (first
    | with_reducible assumption
    | with_reducible apply within_setRing (sub_of hw rfl)
    | with_reducible apply within_stopRing (sub_of hw rfl)
    | with_reducible apply within_ite)

theorem within_hostGet {ks : List Comp} {s0 : State} {s : State} {port ga len} (hw : [.regs, .mem, .cells, .regions, .mcs, .resp, .flash, .err, .fates] ⊆ ks) (h : s0.within ks s) :
    s0.within ks (State.hostGet s port ga len).1 := by
  unfold State.hostGet
  try dsimp only
  repeat' (first
    | with_reducible assumption
    | with_reducible apply within_carried (sub_of hw rfl)
    | with_reducible apply within_gddrReadNow (sub_of hw rfl)
    | with_reducible apply within_spmRefuse (sub_of hw rfl)
    | with_reducible apply within_meshRead (sub_of hw rfl)
    | with_reducible apply within_hostRefuse (sub_of hw rfl)
    | (intro _ _ _; try dsimp only)
    | (intro _ _; try dsimp only)
    | split)

theorem within_dmaRead {ks : List Comp} {s0 : State} {s : State} {port ga len} (hw : [.regs, .mem, .cells, .regions, .mcs, .resp, .flash, .err, .fates] ⊆ ks) (h : s0.within ks s) :
    s0.within ks (State.dmaRead s port ga len).1 := by
  unfold State.dmaRead
  try dsimp only
  repeat' (first
    | with_reducible assumption
    | with_reducible apply within_hostGet (sub_of hw rfl)
    | with_reducible apply within_foldl_pair
    | (intro _ _ _; try dsimp only)
    | (intro _ _; try dsimp only))

theorem within_epWrite {ks : List Comp} {s0 : State} {s : State} {p} (hw : [.hports, .err] ⊆ ks) (h : s0.within ks s) :
    s0.within ks (State.epWrite s p) := by
  unfold State.epWrite
  try dsimp only
  repeat' (first
    | with_reducible assumption
    | with_reducible apply within_setHport (sub_of hw rfl)
    | with_reducible apply within_raise (sub_of hw rfl)
    | with_reducible apply within_foldl
    | with_reducible apply within_foldl_pair
    | with_reducible exact within_refl _
    | with_reducible apply within_ite
    | with_reducible apply within_ite_pair
    | with_reducible exact Or.inl rfl
    | exact Or.inr (hw (by decide))
    | exact hw (by decide)
    | with_reducible refine within_pair (by assumption) ?_
    | (intro _ _ _; try dsimp only)
    | (intro _ _; try dsimp only)
    | split
    | with_reducible apply within_mk)

theorem within_hostPut {ks : List Comp} {s0 : State} {s : State} {port ga bs ep} (hw : [.regs, .mem, .cells, .regions, .mcs, .resp, .flash, .err, .fates] ⊆ ks) (h : s0.within ks s) :
    s0.within ks (State.hostPut s port ga bs ep).1 := by
  unfold State.hostPut
  try dsimp only
  repeat' (first
    | with_reducible assumption
    | with_reducible apply within_carried (sub_of hw rfl)
    | with_reducible apply within_gddrWriteNow (sub_of hw rfl)
    | with_reducible apply within_spmRefuse (sub_of hw rfl)
    | with_reducible apply within_meshWrite (sub_of hw rfl)
    | with_reducible apply within_hostRefuse (sub_of hw rfl)
    | (intro _ _ _; try dsimp only)
    | (intro _ _; try dsimp only)
    | split)

theorem within_dmaWrite {ks : List Comp} {s0 : State} {s : State} {port ga data ep} (hw : [.regs, .mem, .cells, .regions, .mcs, .resp, .flash, .err, .fates] ⊆ ks) (h : s0.within ks s) :
    s0.within ks (State.dmaWrite s port ga data ep).1 := by
  unfold State.dmaWrite
  try dsimp only
  repeat' (first
    | with_reducible assumption
    | with_reducible apply within_hostPut (sub_of hw rfl)
    | with_reducible apply within_foldl_pair
    | (intro _ _ _; try dsimp only)
    | (intro _ _; try dsimp only))

theorem within_clearEn {ks : List Comp} {s0 : State} {s : State} {p} (hw : [.rings] ⊆ ks) (h : s0.within ks s) :
    s0.within ks (State.clearEn s p) := by
  unfold State.clearEn
  try dsimp only
  repeat' (first
    | with_reducible assumption
    | with_reducible exact Or.inl rfl
    | exact Or.inr (hw (by decide))
    | exact hw (by decide)
    | with_reducible apply within_mk)

theorem within_completeEntry {ks : List Comp} {s0 : State} {s : State} {p n} (hw : [.regs, .mem, .rings, .hports, .err, .out] ⊆ ks) (h : s0.within ks s) :
    s0.within ks (State.completeEntry s p n) := by
  unfold State.completeEntry
  try dsimp only
  repeat' (first
    | with_reducible assumption
    | with_reducible apply within_hostStore (sub_of hw rfl)
    | with_reducible apply within_setRing (sub_of hw rfl)
    | with_reducible apply within_raiseVec (sub_of hw rfl)
    | with_reducible apply within_stopRing (sub_of hw rfl)
    | with_reducible apply within_ite
    | split)

theorem within_configReq {ks : List Comp} {s0 : State} {s : State} {p r v} (hw : [.hports, .out] ⊆ ks) (h : s0.within ks s) :
    s0.within ks (State.configReq s p r v) := by
  unfold State.configReq
  try dsimp only
  repeat' (first
    | with_reducible assumption
    | with_reducible apply within_emit (sub_of hw rfl)
    | with_reducible apply within_unmask (sub_of hw rfl)
    | with_reducible apply within_setHport (sub_of hw rfl)
    | with_reducible apply within_foldl
    | with_reducible apply within_foldl_pair
    | with_reducible exact within_refl _
    | with_reducible apply within_ite
    | with_reducible apply within_ite_pair
    | with_reducible exact Or.inl rfl
    | exact Or.inr (hw (by decide))
    | exact hw (by decide)
    | with_reducible refine within_pair (by assumption) ?_
    | (intro _ _ _; try dsimp only)
    | (intro _ _; try dsimp only)
    | split
    | with_reducible apply within_mk)

theorem within_dmaTake {ks : List Comp} {s0 : State} {s : State} {p n} (hw : [.rings, .hports] ⊆ ks) (h : s0.within ks s) :
    s0.within ks (State.dmaTake s p n) := by
  unfold State.dmaTake
  try dsimp only
  repeat' (first
    | with_reducible assumption
    | with_reducible apply within_setHport (sub_of hw rfl)
    | with_reducible apply within_setRing (sub_of hw rfl)
    | with_reducible apply within_foldl
    | with_reducible apply within_foldl_pair
    | with_reducible exact within_refl _
    | with_reducible apply within_ite
    | with_reducible apply within_ite_pair
    | with_reducible exact Or.inl rfl
    | exact Or.inr (hw (by decide))
    | exact hw (by decide)
    | with_reducible refine within_pair (by assumption) ?_
    | (intro _ _ _; try dsimp only)
    | (intro _ _; try dsimp only)
    | split
    | with_reducible apply within_mk)

theorem within_dropReg {ks : List Comp} {s0 : State} {s : State} {k} (hw : [.regs] ⊆ ks) (h : s0.within ks s) :
    s0.within ks (State.dropReg s k) := by
  unfold State.dropReg
  try dsimp only
  repeat' (first
    | with_reducible assumption
    | with_reducible apply within_setReg (sub_of hw rfl))

theorem within_ecrcDrop {ks : List Comp} {s0 : State} {s : State} {p} (hw : [.hports] ⊆ ks) (h : s0.within ks s) :
    s0.within ks (State.ecrcDrop s p) := by
  unfold State.ecrcDrop
  try dsimp only
  repeat' (first
    | with_reducible assumption
    | with_reducible apply within_setHport (sub_of hw rfl)
    | with_reducible apply within_foldl
    | with_reducible apply within_foldl_pair
    | with_reducible exact within_refl _
    | with_reducible apply within_ite
    | with_reducible apply within_ite_pair
    | with_reducible exact Or.inl rfl
    | exact Or.inr (hw (by decide))
    | exact hw (by decide)
    | with_reducible refine within_pair (by assumption) ?_
    | (intro _ _ _; try dsimp only)
    | (intro _ _; try dsimp only)
    | split
    | with_reducible apply within_mk)

theorem within_fetchEntry {ks : List Comp} {s0 : State} {s : State} {p n ok} (hw : [.regs, .mem, .rings, .hports, .err, .out] ⊆ ks) (h : s0.within ks s) :
    s0.within ks (State.fetchEntry s p n ok) := by
  unfold State.fetchEntry
  try dsimp only
  repeat' (first
    | with_reducible assumption
    | with_reducible apply within_stopRing (sub_of hw rfl)
    | with_reducible apply within_setRing (sub_of hw rfl)
    | with_reducible apply within_ite
    | split)

theorem within_portRegs {ks : List Comp} {s0 : State} {s : State} {p} (hw : [.regs, .hports] ⊆ ks) (h : s0.within ks s) :
    s0.within ks (State.portRegs s p) := by
  unfold State.portRegs
  try dsimp only
  repeat' (first
    | with_reducible assumption
    | with_reducible apply within_setHport (sub_of hw rfl)
    | with_reducible apply within_dropReg (sub_of hw rfl)
    | with_reducible apply within_foldl
    | (intro _ _ _; try dsimp only)
    | (intro _ _; try dsimp only))

theorem within_portReset {ks : List Comp} {s0 : State} {s : State} {p} (hw : [.regs, .mem, .rings, .hports, .err, .out] ⊆ ks) (h : s0.within ks s) :
    s0.within ks (State.portReset s p) := by
  unfold State.portReset
  try dsimp only
  repeat' (first
    | with_reducible assumption
    | with_reducible apply within_portRegs (sub_of hw rfl)
    | with_reducible apply within_clearEn (sub_of hw rfl)
    | with_reducible apply within_stopRings (sub_of hw rfl))

theorem within_linkDown {ks : List Comp} {s0 : State} {s : State} {p} (hw : [.regs, .mem, .rings, .hports, .err, .out] ⊆ ks) (h : s0.within ks s) :
    s0.within ks (State.linkDown s p) := by
  unfold State.linkDown
  try dsimp only
  repeat' (first
    | with_reducible assumption
    | with_reducible apply within_setReg (sub_of hw rfl)
    | with_reducible apply within_setHport (sub_of hw rfl)
    | with_reducible apply within_portReset (sub_of hw rfl)
    | with_reducible apply within_raise (sub_of hw rfl)
    | with_reducible apply within_ite)

theorem within_linkRecovery {ks : List Comp} {s0 : State} {s : State} {p speed width} (hw : [.regs, .hports, .err] ⊆ ks) (h : s0.within ks s) :
    s0.within ks (State.linkRecovery s p speed width) := by
  unfold State.linkRecovery
  try dsimp only
  repeat' (first
    | with_reducible assumption
    | with_reducible apply within_setReg (sub_of hw rfl)
    | with_reducible apply within_setRate (sub_of hw rfl)
    | with_reducible apply within_raise (sub_of hw rfl)
    | with_reducible apply within_setHport (sub_of hw rfl)
    | with_reducible apply within_ite
    | split)

theorem within_linkUp {ks : List Comp} {s0 : State} {s : State} {p speed width} (hw : [.regs, .hports, .err] ⊆ ks) (h : s0.within ks s) :
    s0.within ks (State.linkUp s p speed width) := by
  unfold State.linkUp
  try dsimp only
  repeat' (first
    | with_reducible assumption
    | with_reducible apply within_setReg (sub_of hw rfl)
    | with_reducible apply within_setHport (sub_of hw rfl)
    | with_reducible apply within_raise (sub_of hw rfl)
    | with_reducible apply within_ite)

theorem within_outEnd {ks : List Comp} {s0 : State} {s : State} {r data pois status} (hw : [.resp, .net, .outReads, .out] ⊆ ks) (h : s0.within ks s) :
    s0.within ks (State.outEnd s r data pois status) := by
  unfold State.outEnd
  try dsimp only
  repeat' (first
    | with_reducible assumption
    | with_reducible apply within_sendReads (sub_of hw rfl)
    | with_reducible apply within_agentReply (sub_of hw rfl)
    | with_reducible apply within_answer (sub_of hw rfl)
    | with_reducible exact Or.inl rfl
    | exact Or.inr (hw (by decide))
    | exact hw (by decide)
    | split
    | with_reducible apply within_mk)

theorem within_outComplete {ks : List Comp} {s0 : State} {s : State} {id ok ep data} (hw : [.resp, .net, .outReads, .err, .out] ⊆ ks) (h : s0.within ks s) :
    s0.within ks (State.outComplete s id ok ep data) := by
  unfold State.outComplete
  try dsimp only
  repeat' (first
    | with_reducible assumption
    | with_reducible apply within_outEnd (sub_of hw rfl)
    | with_reducible apply within_outFail (sub_of hw rfl)
    | with_reducible apply within_raise (sub_of hw rfl)
    | with_reducible apply within_sendReads (sub_of hw rfl)
    | with_reducible apply within_modTlp (sub_of hw rfl)
    | with_reducible apply within_ite
    | split)

theorem within_outTimeout {ks : List Comp} {s0 : State} {s : State} {id} (hw : [.resp, .net, .outReads, .err, .out] ⊆ ks) (h : s0.within ks s) :
    s0.within ks (State.outTimeout s id) := by
  unfold State.outTimeout
  try dsimp only
  repeat' (first
    | with_reducible assumption
    | with_reducible apply within_outEnd (sub_of hw rfl)
    | with_reducible apply within_outFail (sub_of hw rfl)
    | with_reducible apply within_ite
    | split)

theorem within_portCold {ks : List Comp} {s0 : State} {s : State} {p} (hw : [.regs, .rings] ⊆ ks) (h : s0.within ks s) :
    s0.within ks (State.portCold s p) := by
  unfold State.portCold
  try dsimp only
  repeat' (first
    | with_reducible assumption
    | with_reducible apply within_mk_regs
    | with_reducible exact Or.inl rfl
    | exact Or.inr (hw (by decide))
    | exact hw (by decide))

theorem within_perst {ks : List Comp} {s0 : State} {s : State} {p} (hw : [.regs, .mem, .rings, .hports, .err, .out] ⊆ ks) (h : s0.within ks s) :
    s0.within ks (State.perst s p) := by
  unfold State.perst
  try dsimp only
  repeat' (first
    | with_reducible assumption
    | with_reducible apply within_linkDown (sub_of hw rfl)
    | with_reducible apply within_setHport (sub_of hw rfl)
    | with_reducible apply within_portCold (sub_of hw rfl)
    | with_reducible apply within_ite)

theorem within_setResult {ks : List Comp} {s0 : State} {s : State} {p n st detail} (hw : [.rings] ⊆ ks) (h : s0.within ks s) :
    s0.within ks (State.setResult s p n st detail) := by
  unfold State.setResult
  try dsimp only
  repeat' (first
    | with_reducible assumption
    | with_reducible apply within_setRing (sub_of hw rfl))

theorem within_ringIn {ks : List Comp} {s0 : State} {s : State} {p n} (hw : [.regs, .mem, .cells, .regions, .mcs, .resp, .rings, .hports, .flash, .err, .fates] ⊆ ks) (h : s0.within ks s) :
    s0.within ks (State.ringIn s p n) := by
  unfold State.ringIn
  try dsimp only
  repeat' (first
    | with_reducible assumption
    | with_reducible apply within_outFail (sub_of hw rfl)
    | with_reducible apply within_dmaTake (sub_of hw rfl)
    | with_reducible apply within_setResult (sub_of hw rfl)
    | with_reducible apply within_fetchTlp (sub_of hw rfl)
    | with_reducible apply within_dmaWrite (sub_of hw rfl)
    | with_reducible apply within_foldl
    | with_reducible apply within_foldl_pair
    | with_reducible exact within_refl _
    | with_reducible apply within_ite
    | with_reducible apply within_ite_pair
    | with_reducible exact Or.inl rfl
    | exact Or.inr (hw (by decide))
    | exact hw (by decide)
    | with_reducible refine within_pair (by assumption) ?_
    | (intro _ _ _; try dsimp only)
    | (intro _ _; try dsimp only)
    | split
    | with_reducible apply within_mk)

theorem within_ringOut {ks : List Comp} {s0 : State} {s : State} {p n} (hw : [.regs, .mem, .cells, .regions, .mcs, .resp, .rings, .hports, .flash, .err, .out, .fates] ⊆ ks) (h : s0.within ks s) :
    s0.within ks (State.ringOut s p n) := by
  unfold State.ringOut
  try dsimp only
  repeat' (first
    | with_reducible assumption
    | with_reducible apply within_outFail (sub_of hw rfl)
    | with_reducible apply within_dmaTake (sub_of hw rfl)
    | with_reducible apply within_setResult (sub_of hw rfl)
    | with_reducible apply within_dmaRead (sub_of hw rfl)
    | with_reducible apply within_outStore (sub_of hw rfl)
    | with_reducible apply within_raise (sub_of hw rfl)
    | with_reducible apply within_foldl
    | with_reducible apply within_foldl_pair
    | with_reducible exact within_refl _
    | with_reducible apply within_ite
    | with_reducible apply within_ite_pair
    | with_reducible exact Or.inl rfl
    | exact Or.inr (hw (by decide))
    | exact hw (by decide)
    | with_reducible refine within_pair (by assumption) ?_
    | (intro _ _ _; try dsimp only)
    | (intro _ _; try dsimp only)
    | split
    | with_reducible apply within_mk)

theorem within_ringSignal {ks : List Comp} {s0 : State} {s : State} {p n} (hw : [.regs, .cells, .regions, .rings, .err, .fates] ⊆ ks) (h : s0.within ks s) :
    s0.within ks (State.ringSignal s p n) := by
  unfold State.ringSignal
  try dsimp only
  repeat' (first
    | with_reducible assumption
    | with_reducible apply within_setResult (sub_of hw rfl)
    | with_reducible apply within_hostRefuse (sub_of hw rfl)
    | with_reducible apply within_agentSignal (sub_of hw rfl)
    | with_reducible apply within_ite
    | split)

theorem within_withFates {ks : List Comp} {s0 : State} {s : State} {f} {act : State → State} (hw : [.fates] ⊆ ks) (h0 : s0.within ks s) (h1 : ∀ t, s0.within ks t → s0.within ks (act t)) :
    s0.within ks (State.withFates s f act) := by
  unfold State.withFates
  try dsimp only
  repeat' (first
    | with_reducible assumption
    | with_reducible apply h1
    | with_reducible apply within_foldl
    | with_reducible apply within_foldl_pair
    | with_reducible exact within_refl _
    | with_reducible apply within_ite
    | with_reducible apply within_ite_pair
    | with_reducible exact Or.inl rfl
    | exact Or.inr (hw (by decide))
    | exact hw (by decide)
    | with_reducible refine within_pair (by assumption) ?_
    | (intro _ _ _; try dsimp only)
    | (intro _ _; try dsimp only)
    | split
    | with_reducible apply within_mk)

theorem within_execEvqCiWrite {ks : List Comp} (s : State) {p ci} (hw : [.regs, .mem, .hports, .err, .out] ⊆ ks) :
    ∃ z, execEvqCiWrite p ci s = .next z ∧ s.within ks z := by
  unfold execEvqCiWrite
  exact ⟨_, rfl, by
    repeat' (first
      | with_reducible exact within_refl _
      | with_reducible apply within_evqCi (sub_of hw rfl))⟩

theorem within_execEvqEnable {ks : List Comp} (s : State) {p} (hw : [.regs, .hports] ⊆ ks) :
    ∃ z, execEvqEnable p s = .next z ∧ s.within ks z := by
  unfold execEvqEnable
  exact ⟨_, rfl, by
    repeat' (first
      | with_reducible exact within_refl _
      | with_reducible apply within_enableEvq (sub_of hw rfl))⟩

theorem within_execFunctionLevelReset {ks : List Comp} (s : State) {p} (hw : [.regs, .mem, .rings, .hports, .err, .out] ⊆ ks) :
    ∃ z, execFunctionLevelReset p s = .next z ∧ s.within ks z := by
  unfold execFunctionLevelReset
  exact ⟨_, rfl, by
    repeat' (first
      | with_reducible exact within_refl _
      | with_reducible apply within_portReset (sub_of hw rfl))⟩

theorem within_execMsixRaise {ks : List Comp} (s : State) {req p v} (hw : [.pend13, .hports, .err, .out] ⊆ ks) :
    ∃ z, execMsixRaise req p v s = .next z ∧ s.within ks z := by
  unfold execMsixRaise
  exact ⟨_, rfl, by
    repeat' (first
      | with_reducible exact within_refl _
      | with_reducible assumption
      | with_reducible apply within_msixWrite (sub_of hw rfl)
      | with_reducible apply within_dropPend (sub_of hw rfl)
      | with_reducible apply within_foldl
      | with_reducible apply within_foldl_pair
      | with_reducible apply within_ite
      | with_reducible apply within_ite_pair
      | with_reducible exact Or.inl rfl
      | exact Or.inr (hw (by decide))
      | exact hw (by decide)
      | with_reducible refine within_pair (by assumption) ?_
      | (intro _ _ _; try dsimp only)
      | (intro _ _; try dsimp only)
      | split
      | with_reducible apply within_mk)⟩

theorem within_execOutboundCompletion {ks : List Comp} (s : State) {id ok ep ecrc data} (hw : [.resp, .net, .hports, .outReads, .err, .out] ⊆ ks) :
    ∃ z, execOutboundCompletion id ok ep ecrc data s = .next z ∧ s.within ks z := by
  unfold execOutboundCompletion
  exact ⟨_, rfl, by
    repeat' (first
      | with_reducible exact within_refl _
      | with_reducible assumption
      | with_reducible apply within_ecrcDrop (sub_of hw rfl)
      | with_reducible apply within_outComplete (sub_of hw rfl)
      | with_reducible apply within_foldl
      | with_reducible apply within_foldl_pair
      | with_reducible apply within_ite
      | with_reducible apply within_ite_pair
      | with_reducible exact Or.inl rfl
      | exact Or.inr (hw (by decide))
      | exact hw (by decide)
      | with_reducible refine within_pair (by assumption) ?_
      | (intro _ _ _; try dsimp only)
      | (intro _ _; try dsimp only)
      | split
      | with_reducible apply within_mk)⟩

theorem within_execOutboundCplTimeout {ks : List Comp} (s : State) {id} (hw : [.resp, .net, .outReads, .err, .out] ⊆ ks) :
    ∃ z, execOutboundCplTimeout id s = .next z ∧ s.within ks z := by
  unfold execOutboundCplTimeout
  exact ⟨_, rfl, by
    repeat' (first
      | with_reducible exact within_refl _
      | with_reducible apply within_outTimeout (sub_of hw rfl))⟩

theorem within_execOutboundRead {ks : List Comp} (s : State) {req a len} (hw : [.resp, .outReads, .nextId, .err, .out] ⊆ ks) :
    ∃ z, execOutboundRead req a len s = .next z ∧ s.within ks z := by
  unfold execOutboundRead
  exact ⟨_, rfl, by
    repeat' (first
      | with_reducible exact within_refl _
      | with_reducible apply within_outRead (sub_of hw rfl)
      | with_reducible apply within_answer (sub_of hw rfl)
      | with_reducible refine within_pair (by assumption) ?_
      | split)⟩

theorem within_execOutboundWrite {ks : List Comp} (s : State) {req a data pois} (hw : [.mem, .resp, .err, .out] ⊆ ks) :
    ∃ z, execOutboundWrite req a data pois s = .next z ∧ s.within ks z := by
  unfold execOutboundWrite
  exact ⟨_, rfl, by
    repeat' (first
      | with_reducible exact within_refl _
      | with_reducible apply within_outWrite (sub_of hw rfl)
      | with_reducible apply within_answer (sub_of hw rfl))⟩

theorem within_execPcieConfigRequest {ks : List Comp} (s : State) {p r v} (hw : [.hports, .out] ⊆ ks) :
    ∃ z, execPcieConfigRequest p r v s = .next z ∧ s.within ks z := by
  unfold execPcieConfigRequest
  exact ⟨_, rfl, by
    repeat' (first
      | with_reducible exact within_refl _
      | with_reducible apply within_configReq (sub_of hw rfl))⟩

theorem within_execPcieLinkDown {ks : List Comp} (s : State) {p} (hw : [.regs, .mem, .rings, .hports, .err, .out] ⊆ ks) :
    ∃ z, execPcieLinkDown p s = .next z ∧ s.within ks z := by
  unfold execPcieLinkDown
  exact ⟨_, rfl, by
    repeat' (first
      | with_reducible exact within_refl _
      | with_reducible apply within_linkDown (sub_of hw rfl))⟩

theorem within_execPcieLinkRecovery {ks : List Comp} (s : State) {p speed width} (hw : [.regs, .hports, .err] ⊆ ks) :
    ∃ z, execPcieLinkRecovery p speed width s = .next z ∧ s.within ks z := by
  unfold execPcieLinkRecovery
  exact ⟨_, rfl, by
    repeat' (first
      | with_reducible exact within_refl _
      | with_reducible apply within_linkRecovery (sub_of hw rfl))⟩

theorem within_execPcieLinkUp {ks : List Comp} (s : State) {p speed width} (hw : [.regs, .hports, .err] ⊆ ks) :
    ∃ z, execPcieLinkUp p speed width s = .next z ∧ s.within ks z := by
  unfold execPcieLinkUp
  exact ⟨_, rfl, by
    repeat' (first
      | with_reducible exact within_refl _
      | with_reducible apply within_linkUp (sub_of hw rfl))⟩

theorem within_execPerstAssert {ks : List Comp} (s : State) {p} (hw : [.regs, .mem, .rings, .hports, .err, .out] ⊆ ks) :
    ∃ z, execPerstAssert p s = .next z ∧ s.within ks z := by
  unfold execPerstAssert
  exact ⟨_, rfl, by
    repeat' (first
      | with_reducible exact within_refl _
      | with_reducible apply within_perst (sub_of hw rfl))⟩

theorem within_execPerstRelease {ks : List Comp} (s : State) {p} (hw : [.hports] ⊆ ks) :
    ∃ z, execPerstRelease p s = .next z ∧ s.within ks z := by
  unfold execPerstRelease
  exact ⟨_, rfl, by
    repeat' (first
      | with_reducible exact within_refl _
      | with_reducible apply within_setHport (sub_of hw rfl))⟩

theorem within_execRingDisable {ks : List Comp} (s : State) {p n} (hw : [.regs, .mem, .rings, .hports, .err, .out] ⊆ ks) :
    ∃ z, execRingDisable p n s = .next z ∧ s.within ks z := by
  unfold execRingDisable
  exact ⟨_, rfl, by
    repeat' (first
      | with_reducible exact within_refl _
      | with_reducible apply within_disableRing (sub_of hw rfl))⟩

theorem within_execRingDmaEngineToHost {ks : List Comp} (s : State) {p n fates} (hw : [.regs, .mem, .cells, .regions, .mcs, .resp, .rings, .hports, .flash, .err, .out, .fates] ⊆ ks) :
    ∃ z, execRingDmaEngineToHost p n fates s = .next z ∧ s.within ks z := by
  unfold execRingDmaEngineToHost
  exact ⟨_, rfl, by
    repeat' (first
      | with_reducible exact within_refl _
      | with_reducible assumption
      | with_reducible apply within_withFates (sub_of hw rfl)
      | with_reducible apply within_ringOut (sub_of hw rfl)
      | (intro _ _ _; try dsimp only)
      | (intro _ _; try dsimp only))⟩

theorem within_execRingDmaHostToEngine {ks : List Comp} (s : State) {p n fates} (hw : [.regs, .mem, .cells, .regions, .mcs, .resp, .rings, .hports, .flash, .err, .fates] ⊆ ks) :
    ∃ z, execRingDmaHostToEngine p n fates s = .next z ∧ s.within ks z := by
  unfold execRingDmaHostToEngine
  exact ⟨_, rfl, by
    repeat' (first
      | with_reducible exact within_refl _
      | with_reducible assumption
      | with_reducible apply within_withFates (sub_of hw rfl)
      | with_reducible apply within_ringIn (sub_of hw rfl)
      | (intro _ _ _; try dsimp only)
      | (intro _ _; try dsimp only))⟩

theorem within_execRingDoorbell {ks : List Comp} (s : State) {p n pi} (hw : [.regs, .mem, .rings, .hports, .err, .out] ⊆ ks) :
    ∃ z, execRingDoorbell p n pi s = .next z ∧ s.within ks z := by
  unfold execRingDoorbell
  exact ⟨_, rfl, by
    repeat' (first
      | with_reducible exact within_refl _
      | with_reducible apply within_doorbell (sub_of hw rfl))⟩

theorem within_execRingEnable {ks : List Comp} (s : State) {p n} (hw : [.rings] ⊆ ks) :
    ∃ z, execRingEnable p n s = .next z ∧ s.within ks z := by
  unfold execRingEnable
  exact ⟨_, rfl, by
    repeat' (first
      | with_reducible exact within_refl _
      | with_reducible apply within_enableRing (sub_of hw rfl))⟩

theorem within_execRingEntryComplete {ks : List Comp} (s : State) {p n} (hw : [.regs, .mem, .rings, .hports, .err, .out] ⊆ ks) :
    ∃ z, execRingEntryComplete p n s = .next z ∧ s.within ks z := by
  unfold execRingEntryComplete
  exact ⟨_, rfl, by
    repeat' (first
      | with_reducible exact within_refl _
      | with_reducible apply within_completeEntry (sub_of hw rfl))⟩

theorem within_execRingEntryFetch {ks : List Comp} (s : State) {p n ok upset} (hw : [.regs, .mem, .rings, .hports, .err, .out] ⊆ ks) :
    ∃ z, execRingEntryFetch p n ok upset s = .next z ∧ s.within ks z := by
  unfold execRingEntryFetch
  exact ⟨_, rfl, by
    repeat' (first
      | with_reducible exact within_refl _
      | with_reducible apply within_raise (sub_of hw rfl)
      | with_reducible apply within_fetchEntry (sub_of hw rfl)
      | with_reducible apply within_ite)⟩

theorem within_execRingNop {ks : List Comp} (s : State) {p n} (hw : [.rings] ⊆ ks) :
    ∃ z, execRingNop p n s = .next z ∧ s.within ks z := by
  unfold execRingNop
  exact ⟨_, rfl, by
    repeat' (first
      | with_reducible exact within_refl _
      | with_reducible apply within_setResult (sub_of hw rfl)
      | split)⟩

theorem within_execRingSignal {ks : List Comp} (s : State) {p n} (hw : [.regs, .cells, .regions, .rings, .err, .fates] ⊆ ks) :
    ∃ z, execRingSignal p n s = .next z ∧ s.within ks z := by
  unfold execRingSignal
  exact ⟨_, rfl, by
    repeat' (first
      | with_reducible exact within_refl _
      | with_reducible apply within_ringSignal (sub_of hw rfl))⟩

end Sys2Proof.Laws
end

