-- ==== Sys2Proof/Laws/WithinHalt.lean ====
section
/-! SUPPORT. What the operations of Machine/Halt.lean may change (`State.within`). -/

set_option Elab.async false
set_option linter.all false

namespace Sys2Proof.Laws

open Sys2Proof Sys2Proof.Machine Sys2Proof.Machine.State

theorem within_adoptPace {ks : List Comp} {s0 : State} {s : State} {id} (hw : [.regs] ⊆ ks) (h : s0.within ks s) :
    s0.within ks (State.adoptPace s id) := by
  unfold State.adoptPace
  try dsimp only
  repeat' (first
    | with_reducible assumption
    | with_reducible apply within_setFld (sub_of hw rfl)
    | with_reducible apply within_ite)

theorem within_coreOff {ks : List Comp} {s0 : State} {s : State} {c k} (hw : [.regs, .mem, .cells, .regions, .err] ⊆ ks) (h : s0.within ks s) :
    s0.within ks (State.coreOff s c k) := by
  unfold State.coreOff
  try dsimp only
  repeat' (first
    | with_reducible assumption
    | with_reducible apply within_setFld (sub_of hw rfl)
    | with_reducible apply within_setCore (sub_of hw rfl)
    | with_reducible apply within_mbFlush (sub_of hw rfl)
    | with_reducible apply within_stopCore (sub_of hw rfl)
    | with_reducible apply within_foldl
    | with_reducible apply within_foldl_pair
    | with_reducible exact within_refl _
    | with_reducible apply within_ite
    | with_reducible apply within_ite_pair
    | with_reducible exact Or.inl rfl
    | exact Or.inr (hw (by decide))
    | exact hw (by decide)
    | with_reducible refine within_pair (by assumption) ?_
    | (intro _ _ _; try dsimp only)
    | (intro _ _; try dsimp only)
    | split
    | with_reducible apply within_mk)

theorem within_releaseCell {ks : List Comp} {s0 : State} {s : State} {c} (hw : [.regs, .wrote, .mem, .cells, .regions, .err] ⊆ ks) (h : s0.within ks s) :
    s0.within ks (State.releaseCell s c) := by
  unfold State.releaseCell
  try dsimp only
  repeat' (first
    | with_reducible assumption
    | with_reducible apply within_coreOff (sub_of hw rfl)
    | with_reducible apply within_setOwners (sub_of hw rfl)
    | with_reducible apply within_mxeFlush (sub_of hw rfl))

theorem within_removeJob {ks : List Comp} {s0 : State} {s : State} {id} (hw : [.regs, .wrote, .mem, .cells, .regions, .resp, .panels, .jobs, .leftRun, .ctxs, .tags, .fabQ, .fabWait, .hports, .err, .out] ⊆ ks) (h : s0.within ks s) :
    s0.within ks (State.removeJob s id) := by
  unfold State.removeJob
  try dsimp only
  repeat' (first
    | with_reducible assumption
    | with_reducible apply within_freeJobCtxs (sub_of hw rfl)
    | with_reducible apply within_releaseCell (sub_of hw rfl)
    | with_reducible apply within_setJobState (sub_of hw rfl)
    | with_reducible apply within_foldl
    | with_reducible exact Or.inl rfl
    | exact Or.inr (hw (by decide))
    | exact hw (by decide)
    | with_reducible apply within_mk
    | (intro _ _ _; try dsimp only)
    | (intro _ _; try dsimp only))

theorem within_jobIgnored {ks : List Comp} {s0 : State} {s : State} {id cmd} (hw : [.err] ⊆ ks) (h : s0.within ks s) :
    s0.within ks (State.jobIgnored s id cmd) := by
  unfold State.jobIgnored
  try dsimp only
  repeat' (first
    | with_reducible assumption
    | with_reducible apply within_raise (sub_of hw rfl))

theorem within_jobDone {ks : List Comp} {s0 : State} {s : State} {id} (hw : [.regs, .mem, .jobs, .leftRun, .hports, .out] ⊆ ks) (h : s0.within ks s) :
    s0.within ks (State.jobDone s id) := by
  unfold State.jobDone
  try dsimp only
  repeat' (first
    | with_reducible assumption
    | with_reducible apply within_setJobState (sub_of hw rfl)
    | with_reducible apply within_ite
    | split)

theorem within_coreRun {ks : List Comp} {s0 : State} {s : State} {c k} (hw : [.regs, .cells] ⊆ ks) (h : s0.within ks s) :
    s0.within ks (State.coreRun s c k) := by
  unfold State.coreRun
  try dsimp only
  repeat' (first
    | with_reducible assumption
    | with_reducible apply within_setFld (sub_of hw rfl)
    | with_reducible apply within_setCore (sub_of hw rfl)
    | with_reducible apply within_ite)

theorem within_jobStart {ks : List Comp} {s0 : State} {s : State} {id} (hw : [.regs, .mem, .cells, .jobs, .leftRun, .hports, .err, .out] ⊆ ks) (h : s0.within ks s) :
    s0.within ks (State.jobStart s id) := by
  unfold State.jobStart
  try dsimp only
  repeat' (first
    | with_reducible assumption
    | with_reducible apply within_jobIgnored (sub_of hw rfl)
    | with_reducible apply within_adoptPace (sub_of hw rfl)
    | with_reducible apply within_setJobState (sub_of hw rfl)
    | with_reducible apply within_jobDone (sub_of hw rfl)
    | with_reducible apply within_coreRun (sub_of hw rfl)
    | with_reducible apply within_foldl
    | with_reducible apply within_ite
    | (intro _ _ _; try dsimp only)
    | (intro _ _; try dsimp only)
    | split)

theorem within_haltCore {ks : List Comp} {s0 : State} {s : State} {c k} (hw : [.regs, .cells] ⊆ ks) (h : s0.within ks s) :
    s0.within ks (State.haltCore s c k) := by
  unfold State.haltCore
  try dsimp only
  repeat' (first
    | with_reducible assumption
    | with_reducible apply within_setCore (sub_of hw rfl)
    | with_reducible apply within_stopCore (sub_of hw rfl)
    | with_reducible apply within_ite)

theorem within_cellHalt {ks : List Comp} {s0 : State} {s : State} {c cls rseq} (hw : [.regs, .cells] ⊆ ks) (h : s0.within ks s) :
    s0.within ks (State.cellHalt s c cls rseq) := by
  unfold State.cellHalt
  try dsimp only
  repeat' (first
    | with_reducible assumption
    | with_reducible apply within_haltCore (sub_of hw rfl)
    | with_reducible apply within_txStop (sub_of hw rfl)
    | with_reducible apply within_mxeFlush (sub_of hw rfl)
    | with_reducible apply within_setCell (sub_of hw rfl)
    | with_reducible apply within_setReg (sub_of hw rfl)
    | with_reducible apply within_setFld (sub_of hw rfl))

theorem within_haltJob {ks : List Comp} {s0 : State} {s : State} {id cls rseq} (hw : [.regs, .mem, .cells, .resp, .jobs, .leftRun, .ctxs, .tags, .fabQ, .fabWait, .hports, .err, .out] ⊆ ks) (h : s0.within ks s) :
    s0.within ks (State.haltJob s id cls rseq) := by
  unfold State.haltJob
  try dsimp only
  repeat' (first
    | with_reducible assumption
    | with_reducible apply within_setJobState (sub_of hw rfl)
    | with_reducible apply within_haltCtxs (sub_of hw rfl)
    | with_reducible apply within_cellHalt (sub_of hw rfl)
    | with_reducible apply within_foldl
    | (intro _ _ _; try dsimp only)
    | (intro _ _; try dsimp only))

theorem within_jobEnd {ks : List Comp} {s0 : State} {s : State} {id} (hw : [.regs, .wrote, .mem, .cells, .regions, .resp, .panels, .jobs, .leftRun, .ctxs, .tags, .fabQ, .fabWait, .hports, .err, .out] ⊆ ks) (h : s0.within ks s) :
    s0.within ks (State.jobEnd s id) := by
  unfold State.jobEnd
  try dsimp only
  repeat' (first
    | with_reducible assumption
    | with_reducible apply within_jobIgnored (sub_of hw rfl)
    | with_reducible apply within_removeJob (sub_of hw rfl)
    | with_reducible apply within_haltJob (sub_of hw rfl)
    | with_reducible apply within_ite
    | split)

theorem within_declareStep {ks : List Comp} {s0 : State} {s : State} {id} (hw : [.regs, .jobs, .err] ⊆ ks) (h : s0.within ks s) :
    s0.within ks (State.declareStep s id) := by
  unfold State.declareStep
  try dsimp only
  repeat' (first
    | with_reducible assumption
    | with_reducible apply within_modJob (sub_of hw rfl)
    | with_reducible apply within_setReg (sub_of hw rfl)
    | with_reducible apply within_jobIgnored (sub_of hw rfl)
    | with_reducible apply within_ite
    | split)

theorem within_setStepNum {ks : List Comp} {s0 : State} {s : State} {v} (hw : [.jobs, .err] ⊆ ks) (h : s0.within ks s) :
    s0.within ks (State.setStepNum s v) := by
  unfold State.setStepNum
  try dsimp only
  repeat' (first
    | with_reducible assumption
    | with_reducible apply within_modJob (sub_of hw rfl)
    | with_reducible apply within_jobIgnored (sub_of hw rfl)
    | split)

theorem within_ballastOff {ks : List Comp} {s0 : State} {s : State} {cs} (hw : [.regs, .band] ⊆ ks) (h : s0.within ks s) :
    s0.within ks (State.ballastOff s cs) := by
  unfold State.ballastOff
  try dsimp only
  repeat' (first
    | with_reducible assumption
    | with_reducible apply within_setBand (sub_of hw rfl)
    | with_reducible apply within_setBal (sub_of hw rfl))

theorem within_coreStopDue {ks : List Comp} {s0 : State} {s : State} {c k} (hw : [.regs, .mem, .cells, .regions, .err] ⊆ ks) (h : s0.within ks s) :
    s0.within ks (State.coreStopDue s c k) := by
  unfold State.coreStopDue
  try dsimp only
  repeat' (first
    | with_reducible assumption
    | with_reducible apply within_coreOff (sub_of hw rfl)
    | with_reducible apply within_foldl
    | with_reducible apply within_foldl_pair
    | with_reducible exact within_refl _
    | with_reducible apply within_ite
    | with_reducible apply within_ite_pair
    | with_reducible exact Or.inl rfl
    | exact Or.inr (hw (by decide))
    | exact hw (by decide)
    | with_reducible refine within_pair (by assumption) ?_
    | (intro _ _ _; try dsimp only)
    | (intro _ _; try dsimp only)
    | split
    | with_reducible apply within_mk)

theorem within_execCoreStart {ks : List Comp} (s : State) {c k} (hw : [.regs, .cells] ⊆ ks) :
    ∃ z, execCoreStart c k s = .next z ∧ s.within ks z := by
  unfold execCoreStart
  exact ⟨_, rfl, by
    repeat' (first
      | with_reducible exact within_refl _
      | with_reducible apply within_coreRun (sub_of hw rfl))⟩

theorem within_execCoreStop {ks : List Comp} (s : State) {c k} (hw : [.regs, .mem, .cells, .regions, .err] ⊆ ks) :
    ∃ z, execCoreStop c k s = .next z ∧ s.within ks z := by
  unfold execCoreStop
  exact ⟨_, rfl, by
    repeat' (first
      | with_reducible exact within_refl _
      | with_reducible apply within_coreOff (sub_of hw rfl))⟩

theorem within_execJobEnd {ks : List Comp} (s : State) {id} (hw : [.regs, .wrote, .mem, .cells, .regions, .resp, .panels, .jobs, .leftRun, .ctxs, .tags, .fabQ, .fabWait, .hports, .err, .out] ⊆ ks) :
    ∃ z, execJobEnd id s = .next z ∧ s.within ks z := by
  unfold execJobEnd
  exact ⟨_, rfl, by
    repeat' (first
      | with_reducible exact within_refl _
      | with_reducible apply within_jobEnd (sub_of hw rfl))⟩

theorem within_execJobStart {ks : List Comp} (s : State) {id} (hw : [.regs, .mem, .cells, .jobs, .leftRun, .hports, .err, .out] ⊆ ks) :
    ∃ z, execJobStart id s = .next z ∧ s.within ks z := by
  unfold execJobStart
  exact ⟨_, rfl, by
    repeat' (first
      | with_reducible exact within_refl _
      | with_reducible apply within_jobStart (sub_of hw rfl))⟩

theorem within_execStepDeclare {ks : List Comp} (s : State) {id} (hw : [.regs, .jobs, .err] ⊆ ks) :
    ∃ z, execStepDeclare id s = .next z ∧ s.within ks z := by
  unfold execStepDeclare
  exact ⟨_, rfl, by
    repeat' (first
      | with_reducible exact within_refl _
      | with_reducible apply within_declareStep (sub_of hw rfl))⟩

theorem within_execStepNumSet {ks : List Comp} (s : State) {v} (hw : [.jobs, .err] ⊆ ks) :
    ∃ z, execStepNumSet v s = .next z ∧ s.within ks z := by
  unfold execStepNumSet
  exact ⟨_, rfl, by
    repeat' (first
      | with_reducible exact within_refl _
      | with_reducible apply within_setStepNum (sub_of hw rfl))⟩

end Sys2Proof.Laws
end

