-- ==== Sys2Proof/Laws/WithinLoad.lean ====
section
/-! SUPPORT. What the operations of Machine/Load.lean may change (`State.within`). -/

set_option Elab.async false
set_option linter.all false

namespace Sys2Proof.Laws

open Sys2Proof Sys2Proof.Machine Sys2Proof.Machine.State

/-- A fold over what `Bcast` carries. -/
theorem within_foldl_bcast {ks : List Comp} {α : Type} {s0 : State} {f : Bcast → α → Bcast} (l : List α) :
    ∀ {p : Bcast}, (∀ q x, s0.within ks q.s → s0.within ks (f q x).s) → s0.within ks p.s → s0.within ks (l.foldl f p).s := by
  induction l with
  | nil => exact fun _ h => h
  | cons x l ih => exact fun hf h => ih hf (hf _ x h)

theorem within_loadRec {ks : List Comp} {s0 : State} {s : State} {reason panel seg} (hw : [.err] ⊆ ks) (h : s0.within ks s) :
    s0.within ks (State.loadRec s reason panel seg) := by
  unfold State.loadRec
  try dsimp only
  repeat' (first
    | with_reducible assumption
    | with_reducible apply within_raise (sub_of hw rfl))

theorem within_imgPiece {ks : List Comp} {s0 : State} {s : State} {d sp a n} (hw : [.regs, .mem, .regions, .mcs, .resp, .flash, .err, .fates] ⊆ ks) (h : s0.within ks s) :
    s0.within ks (State.imgPiece s d sp a n).1 := by
  unfold State.imgPiece
  try dsimp only
  repeat' (first
    | with_reducible assumption
    | with_reducible apply within_carried (sub_of hw rfl)
    | with_reducible apply within_hostFetch (sub_of hw rfl)
    | with_reducible apply within_gddrReadNow (sub_of hw rfl)
    | with_reducible apply within_foldl
    | with_reducible apply within_foldl_pair
    | with_reducible apply within_foldl_bcast
    | with_reducible exact within_refl _
    | with_reducible apply within_ite
    | with_reducible apply within_ite_pair
    | with_reducible exact Or.inl rfl
    | exact Or.inr (hw (by decide))
    | exact hw (by decide)
    | with_reducible refine within_pair (by assumption) ?_
    | (intro _ _ _; try dsimp only)
    | (intro _ _; try dsimp only)
    | split
    | with_reducible apply within_mk)

theorem within_imgNext {ks : List Comp} {s0 : State} {d sp a q p} (hw : [.regs, .mem, .regions, .mcs, .resp, .flash, .err, .fates] ⊆ ks) (h : s0.within ks q.1) :
    s0.within ks (State.imgNext d sp a q p).1 := by
  rw [State.imgNext]
  exact within_fst (within_imgPiece hw h)

theorem within_imgReadBy {ks : List Comp} {s0 : State} {s : State} {d src off len} (hw : [.regs, .mem, .regions, .mcs, .resp, .flash, .err, .fates] ⊆ ks) (h : s0.within ks s) :
    s0.within ks (State.imgReadBy s d src off len).1 := by
  rw [State.imgReadBy]
  exact within_foldl_pair (f := State.imgNext d _ _) _ (fun _ _ hq => within_imgNext hw hq) h

theorem within_imgRead {ks : List Comp} {s0 : State} {s : State} {src off len} (hw : [.regs, .mem, .regions, .mcs, .resp, .flash, .err, .fates] ⊆ ks) (h : s0.within ks s) :
    s0.within ks (State.imgRead s src off len).1 := by
  unfold State.imgRead
  try dsimp only
  repeat' (first
    | with_reducible assumption
    | with_reducible apply within_imgReadBy (sub_of hw rfl)
    | with_reducible apply within_foldl_pair
    | with_reducible apply within_ite_pair
    | (intro _ _ _; try dsimp only)
    | (intro _ _; try dsimp only))

theorem within_readChunk {ks : List Comp} {s0 : State} {s : State} {src g i o n} (hw : [.regs, .mem, .regions, .mcs, .resp, .flash, .err, .fates] ⊆ ks) (h : s0.within ks s) :
    s0.within ks (State.readChunk s src g i o n).1 := by
  unfold State.readChunk
  try dsimp only
  repeat' (first
    | with_reducible assumption
    | with_reducible apply within_imgRead (sub_of hw rfl)
    | with_reducible refine within_pair (by assumption) ?_
    | split)

theorem within_readGood {ks : List Comp} {s0 : State} {s : State} {src g i o n a6 a7} (hw : [.regs, .mem, .regions, .mcs, .resp, .flash, .err, .fates] ⊆ ks) (h : s0.within ks s) :
    s0.within ks (State.readGood s src g i o n a6 a7).1 := by
  induction a6 generalizing s src g i o n a7 with
  | zero => exact h
  | succ n ih =>
    unfold State.readGood
    try dsimp only
    repeat' (first
      | with_reducible assumption
      | with_reducible apply ih
      | with_reducible apply within_readChunk (sub_of hw rfl)
      | with_reducible apply within_foldl
      | with_reducible apply within_foldl_pair
      | with_reducible apply within_foldl_bcast
      | with_reducible exact within_refl _
      | with_reducible apply within_ite
      | with_reducible apply within_ite_pair
      | with_reducible exact Or.inl rfl
      | exact Or.inr (hw (by decide))
      | exact hw (by decide)
      | with_reducible refine within_pair (by assumption) ?_
      | (intro _ _ _; try dsimp only)
      | (intro _ _; try dsimp only)
      | split
      | with_reducible apply within_mk)

theorem within_readEntries {ks : List Comp} {s0 : State} {s : State} {src a2} (hw : [.regs, .mem, .regions, .mcs, .resp, .flash, .err, .fates] ⊆ ks) (h : s0.within ks s) :
    s0.within ks (State.readEntries s src a2).1 := by
  induction a2 generalizing s src with
  | nil => exact h
  | cons x l ih =>
    unfold State.readEntries
    try dsimp only
    repeat' (first
      | with_reducible assumption
      | with_reducible apply ih
      | with_reducible apply within_readGood (sub_of hw rfl)
      | with_reducible apply within_foldl_pair
      | with_reducible apply within_ite_pair
      | with_reducible refine within_pair (by assumption) ?_
      | (intro _ _ _; try dsimp only)
      | (intro _ _; try dsimp only)
      | split)

theorem within_loadCheck {ks : List Comp} {s0 : State} {s : State} {src units ox oy} (hw : [.regs, .mem, .regions, .mcs, .resp, .flash, .err, .fates] ⊆ ks) (h : s0.within ks s) :
    s0.within ks (State.loadCheck s src units ox oy).1 := by
  unfold State.loadCheck
  try dsimp only
  repeat' (first
    | with_reducible assumption
    | with_reducible apply within_imgRead (sub_of hw rfl)
    | with_reducible apply within_setFld (sub_of hw rfl)
    | with_reducible apply within_readEntries (sub_of hw rfl)
    | with_reducible apply within_ite_pair
    | with_reducible refine within_pair (by assumption) ?_
    | split)

theorem within_logPatches {ks : List Comp} {s0 : State} {s : State} {id} (hw : [.cells, .err] ⊆ ks) (h : s0.within ks s) :
    s0.within ks (State.logPatches s id) := by
  unfold State.logPatches
  try dsimp only
  repeat' (first
    | with_reducible assumption
    | with_reducible apply within_setCell (sub_of hw rfl)
    | with_reducible apply within_raise (sub_of hw rfl)
    | with_reducible apply within_foldl
    | with_reducible apply within_ite
    | (intro _ _ _; try dsimp only)
    | (intro _ _; try dsimp only))

theorem within_ringLoadEnd {ks : List Comp} {s0 : State} {s : State} (hw : [.rings] ⊆ ks) (h : s0.within ks s) :
    s0.within ks (State.ringLoadEnd s) := by
  unfold State.ringLoadEnd
  try dsimp only
  repeat' (first
    | with_reducible assumption
    | with_reducible exact Or.inl rfl
    | exact Or.inr (hw (by decide))
    | exact hw (by decide)
    | with_reducible apply within_mk)

theorem within_loadEvent {ks : List Comp} {s0 : State} {s : State} (hw : [.regs, .mem, .rings, .hports, .out] ⊆ ks) (h : s0.within ks s) :
    s0.within ks (State.loadEvent s) := by
  unfold State.loadEvent
  try dsimp only
  repeat' (first
    | with_reducible assumption
    | with_reducible apply within_raiseAll (sub_of hw rfl)
    | with_reducible apply within_event (sub_of hw rfl)
    | with_reducible apply within_ringLoadEnd (sub_of hw rfl))

theorem within_setPhase {ks : List Comp} {s0 : State} {s : State} {p} (hw : [.regs] ⊆ ks) (h : s0.within ks s) :
    s0.within ks (State.setPhase s p) := by
  unfold State.setPhase
  try dsimp only
  repeat' (first
    | with_reducible assumption
    | with_reducible apply within_setFld (sub_of hw rfl))

theorem within_loadRefuse {ks : List Comp} {s0 : State} {s : State} {reason panel seg} (hw : [.regs, .wrote, .mem, .cells, .regions, .resp, .panels, .jobs, .leftRun, .load, .ctxs, .tags, .fabQ, .fabWait, .rings, .hports, .err, .out] ⊆ ks) (h : s0.within ks s) :
    s0.within ks (State.loadRefuse s reason panel seg) := by
  unfold State.loadRefuse
  try dsimp only
  repeat' (first
    | with_reducible assumption
    | with_reducible apply within_removeJob (sub_of hw rfl)
    | with_reducible apply within_logPatches (sub_of hw rfl)
    | with_reducible apply within_loadRec (sub_of hw rfl)
    | with_reducible apply within_loadEvent (sub_of hw rfl)
    | with_reducible apply within_setFld (sub_of hw rfl)
    | with_reducible apply within_setPhase (sub_of hw rfl)
    | with_reducible apply within_ite
    | with_reducible exact Or.inl rfl
    | exact Or.inr (hw (by decide))
    | exact hw (by decide)
    | split
    | with_reducible apply within_mk)

theorem within_loadStart {ks : List Comp} {s0 : State} {s : State} (hw : [.regs, .wrote, .mem, .cells, .regions, .mcs, .resp, .panels, .jobs, .leftRun, .load, .ctxs, .tags, .fabQ, .fabWait, .rings, .hports, .flash, .err, .out, .fates] ⊆ ks) (h : s0.within ks s) :
    s0.within ks (State.loadStart s) := by
  unfold State.loadStart
  try dsimp only
  repeat' (first
    | with_reducible assumption
    | with_reducible apply within_loadRec (sub_of hw rfl)
    | with_reducible apply within_setReg (sub_of hw rfl)
    | with_reducible apply within_setFld (sub_of hw rfl)
    | with_reducible apply within_loadCheck (sub_of hw rfl)
    | with_reducible apply within_loadRefuse (sub_of hw rfl)
    | with_reducible apply within_ite
    | with_reducible exact Or.inl rfl
    | exact Or.inr (hw (by decide))
    | exact hw (by decide)
    | with_reducible refine within_pair (by assumption) ?_
    | split
    | with_reducible apply within_mk)

theorem within_loadAbort {ks : List Comp} {s0 : State} {s : State} (hw : [.regs, .wrote, .mem, .cells, .regions, .resp, .panels, .jobs, .leftRun, .load, .ctxs, .tags, .fabQ, .fabWait, .rings, .hports, .err, .out] ⊆ ks) (h : s0.within ks s) :
    s0.within ks (State.loadAbort s) := by
  unfold State.loadAbort
  try dsimp only
  repeat' (first
    | with_reducible assumption
    | with_reducible apply within_loadRefuse (sub_of hw rfl)
    | with_reducible apply within_ite)

theorem within_jobHalt {ks : List Comp} {s0 : State} {s : State} {id} (hw : [.regs, .wrote, .mem, .cells, .regions, .resp, .panels, .jobs, .leftRun, .load, .ctxs, .tags, .fabQ, .fabWait, .rings, .hports, .err, .out] ⊆ ks) (h : s0.within ks s) :
    s0.within ks (State.jobHalt s id) := by
  unfold State.jobHalt
  try dsimp only
  repeat' (first
    | with_reducible assumption
    | with_reducible apply within_loadRefuse (sub_of hw rfl)
    | with_reducible apply within_haltJob (sub_of hw rfl)
    | with_reducible apply within_jobIgnored (sub_of hw rfl)
    | with_reducible apply within_ite
    | split)

theorem within_jobCmd {ks : List Comp} {s0 : State} {s : State} {v} (hw : [.regs, .wrote, .mem, .cells, .regions, .resp, .panels, .jobs, .leftRun, .load, .ctxs, .tags, .fabQ, .fabWait, .rings, .hports, .err, .out] ⊆ ks) (h : s0.within ks s) :
    s0.within ks (State.jobCmd s v) := by
  unfold State.jobCmd
  try dsimp only
  repeat' (first
    | with_reducible assumption
    | with_reducible apply within_jobStart (sub_of hw rfl)
    | with_reducible apply within_jobHalt (sub_of hw rfl)
    | with_reducible apply within_jobEnd (sub_of hw rfl)
    | with_reducible apply within_jobIgnored (sub_of hw rfl)
    | with_reducible apply within_ite)

theorem within_loadCellFail {ks : List Comp} {s0 : State} {s : State} {c} (hw : [.regs, .wrote, .mem, .cells, .regions, .resp, .panels, .jobs, .leftRun, .load, .ctxs, .tags, .fabQ, .fabWait, .rings, .hports, .err, .out] ⊆ ks) (h : s0.within ks s) :
    s0.within ks (State.loadCellFail s c) := by
  unfold State.loadCellFail
  try dsimp only
  repeat' (first
    | with_reducible assumption
    | with_reducible apply within_loadRefuse (sub_of hw rfl)
    | with_reducible apply within_ite
    | split)

theorem within_imemWatch {ks : List Comp} {s0 : State} {s : State} {t : State} {c} (hw : [.regs, .wrote, .mem, .cells, .regions, .resp, .panels, .jobs, .leftRun, .load, .ctxs, .tags, .fabQ, .fabWait, .rings, .hports, .err, .out] ⊆ ks) (h0 : s0.within ks s) (h1 : s0.within ks t) :
    s0.within ks (State.imemWatch s t c) := by
  unfold State.imemWatch
  try dsimp only
  repeat' (first
    | with_reducible assumption
    | with_reducible apply within_loadCellFail (sub_of hw rfl)
    | with_reducible apply within_ite)

theorem within_copyChunk {ks : List Comp} {s0 : State} {s : State} {g o len crc drop} {piece : State → Nat → Nat → State × Option (List Byte)} (hw : [] ⊆ ks) (h0 : s0.within ks s) (h1 : ∀ t y0 y1, s0.within ks t → s0.within ks (piece t y0 y1).1) :
    s0.within ks (State.copyChunk s g o len crc drop piece).1 := by
  unfold State.copyChunk
  try dsimp only
  repeat' (first
    | with_reducible assumption
    | with_reducible apply h1
    | with_reducible apply within_foldl
    | with_reducible apply within_foldl_pair
    | with_reducible apply within_foldl_bcast
    | with_reducible exact within_refl _
    | with_reducible apply within_ite
    | with_reducible apply within_ite_pair
    | with_reducible exact Or.inl rfl
    | exact Or.inr (hw (by decide))
    | exact hw (by decide)
    | with_reducible refine within_pair (by assumption) ?_
    | (intro _ _ _; try dsimp only)
    | (intro _ _; try dsimp only)
    | split
    | with_reducible apply within_mk)

theorem within_holderPiece {ks : List Comp} {s0 : State} {s : State} {a1 g o n} (hw : [.regs, .cells, .regions, .err] ⊆ ks) (h : s0.within ks s) :
    s0.within ks (State.holderPiece s a1 g o n).1 := by
  unfold State.holderPiece
  try dsimp only
  repeat' (first
    | with_reducible assumption
    | with_reducible apply within_spmRefuse (sub_of hw rfl)
    | with_reducible apply within_meshRead (sub_of hw rfl)
    | with_reducible apply within_foldl
    | with_reducible apply within_foldl_pair
    | with_reducible apply within_foldl_bcast
    | with_reducible exact within_refl _
    | with_reducible apply within_ite
    | with_reducible apply within_ite_pair
    | with_reducible exact Or.inl rfl
    | exact Or.inr (hw (by decide))
    | exact hw (by decide)
    | with_reducible refine within_pair (by assumption) ?_
    | (intro _ _ _; try dsimp only)
    | (intro _ _; try dsimp only)
    | split
    | with_reducible apply within_mk)

theorem within_landPiece {ks : List Comp} {s0 : State} {s : State} {c g o bs pois} (hw : [.regs, .mem, .cells, .regions, .err] ⊆ ks) (h : s0.within ks s) :
    s0.within ks (State.landPiece s c g o bs pois).1 := by
  unfold State.landPiece
  try dsimp only
  repeat' (first
    | with_reducible assumption
    | with_reducible apply within_spmRefuse (sub_of hw rfl)
    | with_reducible apply within_meshWrite (sub_of hw rfl)
    | with_reducible apply within_foldl
    | with_reducible apply within_foldl_pair
    | with_reducible apply within_foldl_bcast
    | with_reducible exact within_refl _
    | with_reducible apply within_ite
    | with_reducible apply within_ite_pair
    | with_reducible exact Or.inl rfl
    | exact Or.inr (hw (by decide))
    | exact hw (by decide)
    | with_reducible refine within_pair (by assumption) ?_
    | (intro _ _ _; try dsimp only)
    | (intro _ _; try dsimp only)
    | split
    | with_reducible apply within_mk)

theorem within_copyPiece {ks : List Comp} {s0 : State} {s : State} {c a2 g o n} (hw : [.regs, .mem, .cells, .regions, .err, .fates] ⊆ ks) (h : s0.within ks s) :
    s0.within ks (State.copyPiece s c a2 g o n).1 := by
  unfold State.copyPiece
  try dsimp only
  repeat' (first
    | with_reducible assumption
    | with_reducible apply within_cellToCell (sub_of hw rfl)
    | with_reducible apply within_holderPiece (sub_of hw rfl)
    | with_reducible apply within_landPiece (sub_of hw rfl)
    | with_reducible apply within_foldl
    | with_reducible apply within_foldl_pair
    | with_reducible apply within_foldl_bcast
    | with_reducible exact within_refl _
    | with_reducible apply within_ite
    | with_reducible apply within_ite_pair
    | with_reducible exact Or.inl rfl
    | exact Or.inr (hw (by decide))
    | exact hw (by decide)
    | with_reducible refine within_pair (by assumption) ?_
    | (intro _ _ _; try dsimp only)
    | (intro _ _; try dsimp only)
    | split
    | with_reducible apply within_mk)

theorem within_askHolders {ks : List Comp} {s0 : State} {s : State} {c g o len crc a6 a7} (hw : [.regs, .mem, .cells, .regions, .err, .fates] ⊆ ks) (h : s0.within ks s) :
    s0.within ks (State.askHolders s c g o len crc a6 a7).1 := by
  induction a6 generalizing s c g o len crc a7 with
  | nil => exact h
  | cons x l ih =>
    unfold State.askHolders
    try dsimp only
    repeat' (first
      | with_reducible assumption
      | with_reducible apply ih
      | with_reducible apply within_copyPiece (sub_of hw rfl)
      | with_reducible apply within_copyChunk (sub_of hw rfl)
      | with_reducible apply within_foldl
      | with_reducible apply within_foldl_pair
      | with_reducible apply within_foldl_bcast
      | with_reducible exact within_refl _
      | with_reducible apply within_ite
      | with_reducible apply within_ite_pair
      | with_reducible exact Or.inl rfl
      | exact Or.inr (hw (by decide))
      | exact hw (by decide)
      | with_reducible refine within_pair (by assumption) ?_
      | (intro _ _ _; try dsimp only)
      | (intro _ _; try dsimp only)
      | split
      | with_reducible apply within_mk)

theorem within_landAll {ks : List Comp} {s0 : State} {s : State} {g i n k o bs lost cs} (hw : [.regs, .mem, .cells, .regions, .err] ⊆ ks) (h : s0.within ks s) :
    s0.within ks (State.landAll s g i n k o bs lost cs).1 := by
  unfold State.landAll
  try dsimp only
  repeat' (first
    | with_reducible assumption
    | with_reducible apply within_landPiece (sub_of hw rfl)
    | with_reducible apply within_foldl
    | with_reducible apply within_foldl_pair
    | with_reducible apply within_foldl_bcast
    | with_reducible exact within_refl _
    | with_reducible apply within_ite
    | with_reducible apply within_ite_pair
    | with_reducible exact Or.inl rfl
    | exact Or.inr (hw (by decide))
    | exact hw (by decide)
    | with_reducible refine within_pair (by assumption) ?_
    | (intro _ _ _; try dsimp only)
    | (intro _ _; try dsimp only)
    | split
    | with_reducible apply within_mk)

theorem within_sendPacket {ks : List Comp} {s0 : State} {s : State} {l g i n k o bs lost stalled} (hw : [.regs, .mem, .cells, .regions, .err, .fates] ⊆ ks) (h : s0.within ks s) :
    s0.within ks (State.sendPacket s l g i n k o bs lost stalled).1 := by
  unfold State.sendPacket
  try dsimp only
  repeat' (first
    | with_reducible assumption
    | with_reducible apply within_carried (sub_of hw rfl)
    | with_reducible apply within_landAll (sub_of hw rfl)
    | with_reducible apply within_mcWalk (sub_of hw rfl)
    | with_reducible apply within_foldl
    | with_reducible apply within_foldl_pair
    | with_reducible apply within_foldl_bcast
    | with_reducible exact within_refl _
    | with_reducible apply within_ite
    | with_reducible apply within_ite_pair
    | with_reducible exact Or.inl rfl
    | exact Or.inr (hw (by decide))
    | exact hw (by decide)
    | with_reducible refine within_pair (by assumption) ?_
    | (intro _ _ _; try dsimp only)
    | (intro _ _; try dsimp only)
    | split
    | with_reducible apply within_mk)

theorem within_sendNext {ks : List Comp} {s0 : State} {l g i n o bs lost stalled q p} (hw : [.regs, .mem, .cells, .regions, .err, .fates] ⊆ ks) (h : s0.within ks q.1) :
    s0.within ks (State.sendNext l g i n o bs lost stalled q p).1 := by
  rw [State.sendNext]
  exact within_fst (within_sendPacket hw h)

theorem within_sendChunk {ks : List Comp} {s0 : State} {s : State} {l g i n o bs crc lost stalled} (hw : [.regs, .mem, .cells, .regions, .err, .fates] ⊆ ks) (h : s0.within ks s) :
    s0.within ks (State.sendChunk s l g i n o bs crc lost stalled).1 := by
  unfold State.sendChunk
  try dsimp only
  repeat' (first
    | with_reducible assumption
    | with_reducible apply within_sendNext (sub_of hw rfl)
    | with_reducible apply within_foldl
    | with_reducible apply within_foldl_pair
    | with_reducible apply within_foldl_bcast
    | with_reducible exact within_refl _
    | with_reducible apply within_ite
    | with_reducible apply within_ite_pair
    | with_reducible exact Or.inl rfl
    | exact Or.inr (hw (by decide))
    | exact hw (by decide)
    | with_reducible refine within_pair (by assumption) ?_
    | (intro _ _ _; try dsimp only)
    | (intro _ _; try dsimp only)
    | split
    | with_reducible apply within_mk)

theorem within_broadcast {ks : List Comp} {s0 : State} {s : State} {l lost stalled is} (hw : [.regs, .mem, .cells, .regions, .mcs, .resp, .flash, .err, .fates] ⊆ ks) (h : s0.within ks s) :
    s0.within ks (State.broadcast s l lost stalled is).s := by
  unfold State.broadcast
  try dsimp only
  repeat' (first
    | with_reducible assumption
    | with_reducible apply within_readChunk (sub_of hw rfl)
    | with_reducible apply within_sendChunk (sub_of hw rfl)
    | with_reducible apply within_foldl
    | with_reducible apply within_foldl_pair
    | with_reducible apply within_foldl_bcast
    | with_reducible exact within_refl _
    | with_reducible apply within_ite
    | with_reducible apply within_ite_pair
    | with_reducible exact Or.inl rfl
    | exact Or.inr (hw (by decide))
    | exact hw (by decide)
    | with_reducible refine within_pair (by assumption) ?_
    | (intro _ _ _; try dsimp only)
    | (intro _ _; try dsimp only)
    | split
    | with_reducible apply within_mk)

theorem within_roundSettle {ks : List Comp} {s0 : State} {s : State} (hw : [.load] ⊆ ks) (h : s0.within ks s) :
    s0.within ks (State.roundSettle s) := by
  unfold State.roundSettle
  try dsimp only
  repeat' (first
    | with_reducible assumption
    | with_reducible apply within_foldl
    | with_reducible apply within_foldl_pair
    | with_reducible apply within_foldl_bcast
    | with_reducible exact within_refl _
    | with_reducible apply within_ite
    | with_reducible apply within_ite_pair
    | with_reducible exact Or.inl rfl
    | exact Or.inr (hw (by decide))
    | exact hw (by decide)
    | with_reducible refine within_pair (by assumption) ?_
    | (intro _ _ _; try dsimp only)
    | (intro _ _; try dsimp only)
    | split
    | with_reducible apply within_mk)

theorem within_issueImem {ks : List Comp} {s0 : State} {s : State} {c g} (hw : [.regs, .wrote, .mem, .cells, .regions, .resp, .panels, .jobs, .leftRun, .load, .ctxs, .tags, .fabQ, .fabWait, .rings, .hports, .err, .out] ⊆ ks) (h : s0.within ks s) :
    s0.within ks (State.issueImem s c g) := by
  unfold State.issueImem
  try dsimp only
  repeat' (first
    | with_reducible assumption
    | with_reducible apply within_imemLoad (sub_of hw rfl)
    | with_reducible apply within_loadCellFail (sub_of hw rfl)
    | with_reducible apply within_ite)

theorem within_chunkGood {ks : List Comp} {s0 : State} {s : State} {c i n g} (hw : [.regs, .wrote, .mem, .cells, .regions, .resp, .panels, .jobs, .leftRun, .load, .ctxs, .tags, .fabQ, .fabWait, .rings, .hports, .err, .out] ⊆ ks) (h : s0.within ks s) :
    s0.within ks (State.chunkGood s c i n g) := by
  unfold State.chunkGood
  try dsimp only
  repeat' (first
    | with_reducible assumption
    | with_reducible apply within_incSat (sub_of hw rfl)
    | with_reducible apply within_setCell (sub_of hw rfl)
    | with_reducible apply within_roundSettle (sub_of hw rfl)
    | with_reducible apply within_issueImem (sub_of hw rfl)
    | with_reducible apply within_foldl
    | with_reducible apply within_foldl_pair
    | with_reducible apply within_foldl_bcast
    | with_reducible exact within_refl _
    | with_reducible apply within_ite
    | with_reducible apply within_ite_pair
    | with_reducible exact Or.inl rfl
    | exact Or.inr (hw (by decide))
    | exact hw (by decide)
    | with_reducible refine within_pair (by assumption) ?_
    | (intro _ _ _; try dsimp only)
    | (intro _ _; try dsimp only)
    | split
    | with_reducible apply within_mk)

theorem within_enterJob {ks : List Comp} {s0 : State} {s : State} {l} (hw : [.regs, .mem, .regions, .panels, .jobs, .leftRun, .load, .ctxs, .hports, .band, .out] ⊆ ks) (h : s0.within ks s) :
    s0.within ks (State.enterJob s l) := by
  unfold State.enterJob
  try dsimp only
  repeat' (first
    | with_reducible assumption
    | with_reducible apply within_setJobState (sub_of hw rfl)
    | with_reducible apply within_allocCtxs (sub_of hw rfl)
    | with_reducible apply within_setPhase (sub_of hw rfl)
    | with_reducible apply within_startTurnOn (sub_of hw rfl)
    | with_reducible apply within_balSettle (sub_of hw rfl)
    | with_reducible apply within_foldl
    | with_reducible apply within_ite
    | with_reducible exact Or.inl rfl
    | exact Or.inr (hw (by decide))
    | exact hw (by decide)
    | with_reducible apply within_mk
    | (intro _ _ _; try dsimp only)
    | (intro _ _; try dsimp only))

theorem within_enterOrRefuse {ks : List Comp} {s0 : State} {s : State} {l} (hw : [.regs, .wrote, .mem, .cells, .regions, .resp, .panels, .jobs, .leftRun, .load, .ctxs, .tags, .fabQ, .fabWait, .rings, .hports, .band, .err, .out] ⊆ ks) (h : s0.within ks s) :
    s0.within ks (State.enterOrRefuse s l) := by
  unfold State.enterOrRefuse
  try dsimp only
  repeat' (first
    | with_reducible assumption
    | with_reducible apply within_loadRefuse (sub_of hw rfl)
    | with_reducible apply within_enterJob (sub_of hw rfl)
    | with_reducible apply within_foldl
    | with_reducible apply within_foldl_pair
    | with_reducible apply within_foldl_bcast
    | with_reducible exact within_refl _
    | with_reducible apply within_ite
    | with_reducible apply within_ite_pair
    | with_reducible exact Or.inl rfl
    | exact Or.inr (hw (by decide))
    | exact hw (by decide)
    | with_reducible refine within_pair (by assumption) ?_
    | (intro _ _ _; try dsimp only)
    | (intro _ _; try dsimp only)
    | split
    | with_reducible apply within_mk)

theorem within_haltStruck {ks : List Comp} {s0 : State} {s : State} {a1} (hw : [.regs, .mem, .cells, .resp, .jobs, .leftRun, .ctxs, .tags, .fabQ, .fabWait, .hports, .err, .out] ⊆ ks) (h : s0.within ks s) :
    s0.within ks (State.haltStruck s a1) := by
  unfold State.haltStruck
  try dsimp only
  repeat' (first
    | with_reducible assumption
    | with_reducible apply within_setJobState (sub_of hw rfl)
    | with_reducible apply within_haltCtxs (sub_of hw rfl)
    | with_reducible apply within_cellHalt (sub_of hw rfl)
    | with_reducible apply within_foldl
    | with_reducible apply within_foldl_pair
    | with_reducible apply within_foldl_bcast
    | with_reducible exact within_refl _
    | with_reducible apply within_ite
    | with_reducible apply within_ite_pair
    | with_reducible exact Or.inl rfl
    | exact Or.inr (hw (by decide))
    | exact hw (by decide)
    | with_reducible refine within_pair (by assumption) ?_
    | (intro _ _ _; try dsimp only)
    | (intro _ _; try dsimp only)
    | split
    | with_reducible apply within_mk)

theorem within_haltSettle {ks : List Comp} {s0 : State} {s : State} (hw : [.regs, .mem, .cells, .resp, .jobs, .leftRun, .ctxs, .tags, .fabQ, .fabWait, .hports, .err, .out] ⊆ ks) (h : s0.within ks s) :
    s0.within ks (State.haltSettle s) := by
  unfold State.haltSettle
  try dsimp only
  repeat' (first
    | with_reducible assumption
    | with_reducible apply within_haltStruck (sub_of hw rfl)
    | with_reducible apply within_foldl
    | with_reducible apply within_foldl_pair
    | with_reducible apply within_foldl_bcast
    | with_reducible exact within_refl _
    | with_reducible apply within_ite
    | with_reducible apply within_ite_pair
    | with_reducible exact Or.inl rfl
    | exact Or.inr (hw (by decide))
    | exact hw (by decide)
    | with_reducible refine within_pair (by assumption) ?_
    | (intro _ _ _; try dsimp only)
    | (intro _ _; try dsimp only)
    | split
    | with_reducible apply within_mk)

theorem within_jobsSettle {ks : List Comp} {s0 : State} {s : State} (hw : [.regs, .mem, .jobs, .leftRun, .hports, .out] ⊆ ks) (h : s0.within ks s) :
    s0.within ks (State.jobsSettle s) := by
  unfold State.jobsSettle
  try dsimp only
  repeat' (first
    | with_reducible assumption
    | with_reducible apply within_jobDone (sub_of hw rfl)
    | with_reducible apply within_foldl
    | with_reducible apply within_foldl_pair
    | with_reducible apply within_foldl_bcast
    | with_reducible exact within_refl _
    | with_reducible apply within_ite
    | with_reducible apply within_ite_pair
    | with_reducible exact Or.inl rfl
    | exact Or.inr (hw (by decide))
    | exact hw (by decide)
    | with_reducible refine within_pair (by assumption) ?_
    | (intro _ _ _; try dsimp only)
    | (intro _ _; try dsimp only)
    | split
    | with_reducible apply within_mk)

theorem within_writeKernel {ks : List Comp} {s0 : State} {s : State} {c} (hw : [.mem] ⊆ ks) (h : s0.within ks s) :
    s0.within ks (State.writeKernel s c) := by
  unfold State.writeKernel
  try dsimp only
  repeat' (first
    | with_reducible assumption
    | with_reducible apply within_putImem (sub_of hw rfl)
    | with_reducible apply within_foldl
    | (intro _ _ _; try dsimp only)
    | (intro _ _; try dsimp only))

theorem within_writeKernels {ks : List Comp} {s0 : State} {s : State} {l} (hw : [.mem] ⊆ ks) (h : s0.within ks s) :
    s0.within ks (State.writeKernels s l) := by
  unfold State.writeKernels
  try dsimp only
  repeat' (first
    | with_reducible assumption
    | with_reducible apply within_writeKernel (sub_of hw rfl)
    | with_reducible apply within_foldl
    | with_reducible apply within_ite
    | (intro _ _ _; try dsimp only)
    | (intro _ _; try dsimp only))

theorem within_loadKind5 {ks : List Comp} {s0 : State} {s : State} {badReads} (hw : [.regs, .wrote, .mem, .cells, .regions, .mcs, .resp, .panels, .jobs, .leftRun, .load, .ctxs, .tags, .fabQ, .fabWait, .rings, .hports, .flash, .err, .out, .fates] ⊆ ks) (h : s0.within ks s) :
    s0.within ks (State.loadKind5 s badReads) := by
  unfold State.loadKind5
  try dsimp only
  repeat' (first
    | with_reducible assumption
    | with_reducible apply within_readGood (sub_of hw rfl)
    | with_reducible apply within_carried (sub_of hw rfl)
    | with_reducible apply within_gddrWriteNow (sub_of hw rfl)
    | with_reducible apply within_loadRefuse (sub_of hw rfl)
    | with_reducible apply within_foldl_pair
    | with_reducible apply within_ite
    | with_reducible apply within_ite_pair
    | with_reducible exact Or.inl rfl
    | exact Or.inr (hw (by decide))
    | exact hw (by decide)
    | with_reducible refine within_pair (by assumption) ?_
    | (intro _ _ _; try dsimp only)
    | (intro _ _; try dsimp only)
    | split
    | with_reducible apply within_mk)

theorem within_prepareCell {ks : List Comp} {s0 : State} {s : State} {c} (hw : [.regs, .wrote, .cells, .err] ⊆ ks) (h : s0.within ks s) :
    s0.within ks (State.prepareCell s c) := by
  unfold State.prepareCell
  try dsimp only
  repeat' (first
    | with_reducible assumption
    | with_reducible apply within_setReg (sub_of hw rfl)
    | with_reducible apply within_mxeFlushNow (sub_of hw rfl)
    | with_reducible apply within_armCounter (sub_of hw rfl)
    | with_reducible apply within_setOwners (sub_of hw rfl)
    | with_reducible apply within_setFld (sub_of hw rfl)
    | with_reducible apply within_setCell (sub_of hw rfl)
    | with_reducible apply within_foldl
    | (intro _ _ _; try dsimp only)
    | (intro _ _; try dsimp only)
    | split)

theorem within_loadPrepare {ks : List Comp} {s0 : State} {s : State} (hw : [.regs, .wrote, .mem, .cells, .regions, .resp, .panels, .jobs, .leftRun, .load, .ctxs, .tags, .fabQ, .fabWait, .rings, .hports, .band, .err, .out] ⊆ ks) (h : s0.within ks s) :
    s0.within ks (State.loadPrepare s) := by
  unfold State.loadPrepare
  try dsimp only
  repeat' (first
    | with_reducible assumption
    | with_reducible apply within_enterOrRefuse (sub_of hw rfl)
    | with_reducible apply within_loadCellFail (sub_of hw rfl)
    | with_reducible apply within_prepareCell (sub_of hw rfl)
    | with_reducible apply within_ballastOff (sub_of hw rfl)
    | with_reducible apply within_setPhase (sub_of hw rfl)
    | with_reducible apply within_foldl
    | with_reducible apply within_ite
    | with_reducible exact Or.inl rfl
    | exact Or.inr (hw (by decide))
    | exact hw (by decide)
    | (intro _ _ _; try dsimp only)
    | (intro _ _; try dsimp only)
    | split
    | with_reducible apply within_mk)

theorem within_loadRound {ks : List Comp} {s0 : State} {s : State} {lost stalled} (hw : [.regs, .wrote, .mem, .cells, .regions, .mcs, .resp, .panels, .jobs, .leftRun, .load, .ctxs, .tags, .fabQ, .fabWait, .rings, .hports, .flash, .err, .out, .fates] ⊆ ks) (h : s0.within ks s) :
    s0.within ks (State.loadRound s lost stalled) := by
  unfold State.loadRound
  try dsimp only
  repeat' (first
    | with_reducible assumption
    | with_reducible apply within_writeKernels (sub_of hw rfl)
    | with_reducible apply within_broadcast (sub_of hw rfl)
    | with_reducible apply within_loadRefuse (sub_of hw rfl)
    | with_reducible apply within_roundSettle (sub_of hw rfl)
    | with_reducible apply within_issueImem (sub_of hw rfl)
    | with_reducible apply within_foldl
    | with_reducible apply within_ite
    | with_reducible exact Or.inl rfl
    | exact Or.inr (hw (by decide))
    | exact hw (by decide)
    | with_reducible refine within_pair (by assumption) ?_
    | (intro _ _ _; try dsimp only)
    | (intro _ _; try dsimp only)
    | split
    | with_reducible apply within_mk)

theorem within_panelHalt {ks : List Comp} {s0 : State} {s : State} (hw : [.regs, .wrote, .mem, .cells, .regions, .resp, .panels, .jobs, .leftRun, .load, .ctxs, .tags, .fabQ, .fabWait, .rings, .hports, .err, .out] ⊆ ks) (h : s0.within ks s) :
    s0.within ks (State.panelHalt s) := by
  unfold State.panelHalt
  try dsimp only
  repeat' (first
    | with_reducible assumption
    | with_reducible apply within_haltStruck (sub_of hw rfl)
    | with_reducible apply within_loadCellFail (sub_of hw rfl)
    | with_reducible apply within_cellHalt (sub_of hw rfl)
    | with_reducible apply within_foldl
    | with_reducible apply within_foldl_pair
    | with_reducible apply within_foldl_bcast
    | with_reducible exact within_refl _
    | with_reducible apply within_ite
    | with_reducible apply within_ite_pair
    | with_reducible exact Or.inl rfl
    | exact Or.inr (hw (by decide))
    | exact hw (by decide)
    | with_reducible refine within_pair (by assumption) ?_
    | (intro _ _ _; try dsimp only)
    | (intro _ _; try dsimp only)
    | split
    | with_reducible apply within_mk)

theorem within_roundTimeout {ks : List Comp} {s0 : State} {s : State} (hw : [.regs, .wrote, .mem, .cells, .regions, .resp, .panels, .jobs, .leftRun, .load, .ctxs, .tags, .fabQ, .fabWait, .rings, .hports, .err, .out] ⊆ ks) (h : s0.within ks s) :
    s0.within ks (State.roundTimeout s) := by
  unfold State.roundTimeout
  try dsimp only
  repeat' (first
    | with_reducible assumption
    | with_reducible apply within_loadRefuse (sub_of hw rfl)
    | with_reducible apply within_ite
    | split)

theorem within_unicastPiece {ks : List Comp} {s0 : State} {s : State} {c g o bs} (hw : [.regs, .mem, .cells, .regions, .err, .fates] ⊆ ks) (h : s0.within ks s) :
    s0.within ks (State.unicastPiece s c g o bs).1 := by
  unfold State.unicastPiece
  try dsimp only
  repeat' (first
    | with_reducible assumption
    | with_reducible apply within_carried (sub_of hw rfl)
    | with_reducible apply within_landPiece (sub_of hw rfl)
    | with_reducible apply within_foldl
    | with_reducible apply within_foldl_pair
    | with_reducible apply within_foldl_bcast
    | with_reducible exact within_refl _
    | with_reducible apply within_ite
    | with_reducible apply within_ite_pair
    | with_reducible exact Or.inl rfl
    | exact Or.inr (hw (by decide))
    | exact hw (by decide)
    | with_reducible refine within_pair (by assumption) ?_
    | (intro _ _ _; try dsimp only)
    | (intro _ _; try dsimp only)
    | split
    | with_reducible apply within_mk)

theorem within_repairChunk {ks : List Comp} {s0 : State} {s : State} {c i n copies} (hw : [.regs, .wrote, .mem, .cells, .regions, .mcs, .resp, .panels, .jobs, .leftRun, .load, .ctxs, .tags, .fabQ, .fabWait, .rings, .hports, .flash, .err, .out, .fates] ⊆ ks) (h : s0.within ks s) :
    s0.within ks (State.repairChunk s c i n copies) := by
  unfold State.repairChunk
  try dsimp only
  repeat' (first
    | with_reducible assumption
    | with_reducible apply within_roundTimeout (sub_of hw rfl)
    | with_reducible apply within_askHolders (sub_of hw rfl)
    | with_reducible apply within_chunkGood (sub_of hw rfl)
    | with_reducible apply within_imgReadBy (sub_of hw rfl)
    | with_reducible apply within_loadRefuse (sub_of hw rfl)
    | with_reducible apply within_copyChunk (sub_of hw rfl)
    | with_reducible apply within_unicastPiece (sub_of hw rfl)
    | with_reducible apply within_foldl
    | with_reducible apply within_foldl_pair
    | with_reducible apply within_foldl_bcast
    | with_reducible exact within_refl _
    | with_reducible apply within_ite
    | with_reducible apply within_ite_pair
    | with_reducible exact Or.inl rfl
    | exact Or.inr (hw (by decide))
    | exact hw (by decide)
    | with_reducible refine within_pair (by assumption) ?_
    | (intro _ _ _; try dsimp only)
    | (intro _ _; try dsimp only)
    | split
    | with_reducible apply within_mk)

theorem within_execImemLoad {ks : List Comp} (s : State) {c k req v} (hw : [.regs, .wrote, .mem, .cells, .regions, .pend13, .resp, .panels, .jobs, .leftRun, .load, .ctxs, .tags, .fabQ, .fabWait, .rings, .hports, .err, .out] ⊆ ks) :
    ∃ z, execImemLoad c k req v s = .next z ∧ s.within ks z := by
  unfold execImemLoad
  exact ⟨_, rfl, by
    repeat' (first
      | with_reducible exact within_refl _
      | with_reducible assumption
      | with_reducible apply within_dropPend (sub_of hw rfl)
      | with_reducible apply within_imemWatch (sub_of hw rfl)
      | with_reducible apply within_imemLoad (sub_of hw rfl)
      | with_reducible apply within_foldl
      | with_reducible apply within_foldl_pair
      | with_reducible apply within_foldl_bcast
      | with_reducible apply within_ite
      | with_reducible apply within_ite_pair
      | with_reducible exact Or.inl rfl
      | exact Or.inr (hw (by decide))
      | exact hw (by decide)
      | with_reducible refine within_pair (by assumption) ?_
      | (intro _ _ _; try dsimp only)
      | (intro _ _; try dsimp only)
      | split
      | with_reducible apply within_mk)⟩

theorem within_execImemLoadComplete {ks : List Comp} (s : State) {c k} (hw : [.regs, .wrote, .mem, .cells, .regions, .resp, .panels, .jobs, .leftRun, .load, .ctxs, .tags, .fabQ, .fabWait, .rings, .hports, .err, .out] ⊆ ks) :
    ∃ z, execImemLoadComplete c k s = .next z ∧ s.within ks z := by
  unfold execImemLoadComplete
  exact ⟨_, rfl, by
    repeat' (first
      | with_reducible exact within_refl _
      | with_reducible apply within_roundSettle (sub_of hw rfl)
      | with_reducible apply within_imemWatch (sub_of hw rfl)
      | with_reducible apply within_imemDone (sub_of hw rfl))⟩

theorem within_execJobHalt {ks : List Comp} (s : State) {id} (hw : [.regs, .wrote, .mem, .cells, .regions, .resp, .panels, .jobs, .leftRun, .load, .ctxs, .tags, .fabQ, .fabWait, .rings, .hports, .err, .out] ⊆ ks) :
    ∃ z, execJobHalt id s = .next z ∧ s.within ks z := by
  unfold execJobHalt
  exact ⟨_, rfl, by
    repeat' (first
      | with_reducible exact within_refl _
      | with_reducible apply within_jobHalt (sub_of hw rfl))⟩

theorem within_execLoadAbort {ks : List Comp} (s : State) (hw : [.regs, .wrote, .mem, .cells, .regions, .resp, .panels, .jobs, .leftRun, .load, .ctxs, .tags, .fabQ, .fabWait, .rings, .hports, .err, .out] ⊆ ks) :
    ∃ z, execLoadAbort s = .next z ∧ s.within ks z := by
  unfold execLoadAbort
  exact ⟨_, rfl, by
    repeat' (first
      | with_reducible exact within_refl _
      | with_reducible apply within_loadAbort (sub_of hw rfl))⟩

theorem within_execLoadChunkRepair {ks : List Comp} (s : State) {c seg chunk copies fates} (hw : [.regs, .wrote, .mem, .cells, .regions, .mcs, .resp, .panels, .jobs, .leftRun, .load, .ctxs, .tags, .fabQ, .fabWait, .rings, .hports, .flash, .err, .out, .fates] ⊆ ks) :
    ∃ z, execLoadChunkRepair c seg chunk copies fates s = .next z ∧ s.within ks z := by
  unfold execLoadChunkRepair
  exact ⟨_, rfl, by
    repeat' (first
      | with_reducible exact within_refl _
      | with_reducible assumption
      | with_reducible apply within_withFates (sub_of hw rfl)
      | with_reducible apply within_repairChunk (sub_of hw rfl)
      | (intro _ _ _; try dsimp only)
      | (intro _ _; try dsimp only))⟩

theorem within_execLoadKind5Write {ks : List Comp} (s : State) {badReads fates} (hw : [.regs, .wrote, .mem, .cells, .regions, .mcs, .resp, .panels, .jobs, .leftRun, .load, .ctxs, .tags, .fabQ, .fabWait, .rings, .hports, .flash, .err, .out, .fates] ⊆ ks) :
    ∃ z, execLoadKind5Write badReads fates s = .next z ∧ s.within ks z := by
  unfold execLoadKind5Write
  exact ⟨_, rfl, by
    repeat' (first
      | with_reducible exact within_refl _
      | with_reducible assumption
      | with_reducible apply within_withFates (sub_of hw rfl)
      | with_reducible apply within_loadKind5 (sub_of hw rfl)
      | (intro _ _ _; try dsimp only)
      | (intro _ _; try dsimp only))⟩

theorem within_execLoadPrepare {ks : List Comp} (s : State) (hw : [.regs, .wrote, .mem, .cells, .regions, .resp, .panels, .jobs, .leftRun, .load, .ctxs, .tags, .fabQ, .fabWait, .rings, .hports, .band, .err, .out] ⊆ ks) :
    ∃ z, execLoadPrepare s = .next z ∧ s.within ks z := by
  unfold execLoadPrepare
  exact ⟨_, rfl, by
    repeat' (first
      | with_reducible exact within_refl _
      | with_reducible apply within_loadPrepare (sub_of hw rfl))⟩

theorem within_execLoadRound {ks : List Comp} (s : State) {lost stalled fates} (hw : [.regs, .wrote, .mem, .cells, .regions, .mcs, .resp, .panels, .jobs, .leftRun, .load, .ctxs, .tags, .fabQ, .fabWait, .rings, .hports, .flash, .err, .out, .fates] ⊆ ks) :
    ∃ z, execLoadRound lost stalled fates s = .next z ∧ s.within ks z := by
  unfold execLoadRound
  exact ⟨_, rfl, by
    repeat' (first
      | with_reducible exact within_refl _
      | with_reducible assumption
      | with_reducible apply within_withFates (sub_of hw rfl)
      | with_reducible apply within_loadRound (sub_of hw rfl)
      | (intro _ _ _; try dsimp only)
      | (intro _ _; try dsimp only))⟩

theorem within_execLoadRoundTimeout {ks : List Comp} (s : State) (hw : [.regs, .wrote, .mem, .cells, .regions, .resp, .panels, .jobs, .leftRun, .load, .ctxs, .tags, .fabQ, .fabWait, .rings, .hports, .err, .out] ⊆ ks) :
    ∃ z, execLoadRoundTimeout s = .next z ∧ s.within ks z := by
  unfold execLoadRoundTimeout
  exact ⟨_, rfl, by
    repeat' (first
      | with_reducible exact within_refl _
      | with_reducible apply within_roundTimeout (sub_of hw rfl))⟩

theorem within_execLoadStart {ks : List Comp} (s : State) {fates} (hw : [.regs, .wrote, .mem, .cells, .regions, .mcs, .resp, .panels, .jobs, .leftRun, .load, .ctxs, .tags, .fabQ, .fabWait, .rings, .hports, .flash, .err, .out, .fates] ⊆ ks) :
    ∃ z, execLoadStart fates s = .next z ∧ s.within ks z := by
  unfold execLoadStart
  exact ⟨_, rfl, by
    repeat' (first
      | with_reducible exact within_refl _
      | with_reducible assumption
      | with_reducible apply within_withFates (sub_of hw rfl)
      | with_reducible apply within_loadStart (sub_of hw rfl)
      | (intro _ _ _; try dsimp only)
      | (intro _ _; try dsimp only))⟩

theorem within_execPanelHalt {ks : List Comp} (s : State) (hw : [.regs, .wrote, .mem, .cells, .regions, .resp, .panels, .jobs, .leftRun, .load, .ctxs, .tags, .fabQ, .fabWait, .rings, .hports, .err, .out] ⊆ ks) :
    ∃ z, execPanelHalt s = .next z ∧ s.within ks z := by
  unfold execPanelHalt
  exact ⟨_, rfl, by
    repeat' (first
      | with_reducible exact within_refl _
      | with_reducible assumption
      | with_reducible apply within_panelHalt (sub_of hw rfl)
      | with_reducible apply within_foldl
      | with_reducible apply within_foldl_pair
      | with_reducible apply within_foldl_bcast
      | with_reducible apply within_ite
      | with_reducible apply within_ite_pair
      | with_reducible exact Or.inl rfl
      | exact Or.inr (hw (by decide))
      | exact hw (by decide)
      | with_reducible refine within_pair (by assumption) ?_
      | (intro _ _ _; try dsimp only)
      | (intro _ _; try dsimp only)
      | split
      | with_reducible apply within_mk)⟩

end Sys2Proof.Laws
end

