-- ==== Sys2Proof/Laws/WithinErr.lean ====
section
/-! SUPPORT. What the operations of Machine/Err.lean may change (`State.within`). -/

set_option Elab.async false
set_option linter.all false

namespace Sys2Proof.Laws

open Sys2Proof Sys2Proof.Machine Sys2Proof.Machine.State

theorem within_ctrWrite {ks : List Comp} {s0 : State} {s : State} (hw : [.flash] ⊆ ks) (h : s0.within ks s) :
    s0.within ks (State.ctrWrite s) := by
  unfold State.ctrWrite
  try dsimp only
  repeat' (first
    | with_reducible assumption
    | with_reducible apply within_foldl
    | with_reducible apply within_foldl_pair
    | with_reducible exact within_refl _
    | with_reducible apply within_ite
    | with_reducible apply within_ite_pair
    | with_reducible exact Or.inl rfl
    | exact Or.inr (hw (by decide))
    | exact hw (by decide)
    | with_reducible refine within_pair (by assumption) ?_
    | (intro _ _ _; try dsimp only)
    | (intro _ _; try dsimp only)
    | split
    | with_reducible apply within_mk)

theorem within_flashRec {ks : List Comp} {s0 : State} {s : State} {cls reason} (hw : [.err] ⊆ ks) (h : s0.within ks s) :
    s0.within ks (State.flashRec s cls reason) := by
  unfold State.flashRec
  try dsimp only
  repeat' (first
    | with_reducible assumption
    | with_reducible apply within_raise (sub_of hw rfl))

theorem within_flashEvent {ks : List Comp} {s0 : State} {s : State} {reason} (hw : [.err] ⊆ ks) (h : s0.within ks s) :
    s0.within ks (State.flashEvent s reason) := by
  unfold State.flashEvent
  try dsimp only
  repeat' (first
    | with_reducible assumption
    | with_reducible apply within_flashRec (sub_of hw rfl))

theorem within_dropDevs {ks : List Comp} {s0 : State} {s : State} {ok0 ok1 reason} (hw : [.flash, .err] ⊆ ks) (h : s0.within ks s) :
    s0.within ks (State.dropDevs s ok0 ok1 reason) := by
  unfold State.dropDevs
  try dsimp only
  repeat' (first
    | with_reducible assumption
    | with_reducible apply within_flashEvent (sub_of hw rfl)
    | with_reducible apply within_ite
    | with_reducible exact Or.inl rfl
    | exact Or.inr (hw (by decide))
    | exact hw (by decide)
    | with_reducible apply within_mk)

theorem within_copyFail {ks : List Comp} {s0 : State} {s : State} {ok0 ok1} (hw : [.flash, .err] ⊆ ks) (h : s0.within ks s) :
    s0.within ks (State.copyFail s ok0 ok1) := by
  unfold State.copyFail
  try dsimp only
  repeat' (first
    | with_reducible assumption
    | with_reducible apply within_flashRec (sub_of hw rfl)
    | with_reducible apply within_dropDevs (sub_of hw rfl)
    | with_reducible apply within_foldl
    | with_reducible apply within_foldl_pair
    | with_reducible exact within_refl _
    | with_reducible apply within_ite
    | with_reducible apply within_ite_pair
    | with_reducible exact Or.inl rfl
    | exact Or.inr (hw (by decide))
    | exact hw (by decide)
    | with_reducible refine within_pair (by assumption) ?_
    | (intro _ _ _; try dsimp only)
    | (intro _ _; try dsimp only)
    | split
    | with_reducible apply within_mk)

theorem within_stageOne {ks : List Comp} {s0 : State} {s : State} {kind body} (hw : [.regs, .err] ⊆ ks) (h : s0.within ks s) :
    s0.within ks (State.stageOne s kind body) := by
  unfold State.stageOne
  try dsimp only
  repeat' (first
    | with_reducible assumption
    | with_reducible apply within_setReg (sub_of hw rfl)
    | with_reducible exact Or.inl rfl
    | exact Or.inr (hw (by decide))
    | exact hw (by decide)
    | with_reducible apply within_mk)

theorem within_stageLoss {ks : List Comp} {s0 : State} {s : State} (hw : [.regs, .err] ⊆ ks) (h : s0.within ks s) :
    s0.within ks (State.stageLoss s) := by
  unfold State.stageLoss
  try dsimp only
  repeat' (first
    | with_reducible assumption
    | with_reducible apply within_stageOne (sub_of hw rfl)
    | with_reducible apply within_ite
    | with_reducible exact Or.inl rfl
    | exact Or.inr (hw (by decide))
    | exact hw (by decide)
    | with_reducible apply within_mk)

theorem within_journal {ks : List Comp} {s0 : State} {s : State} {e} (hw : [.err] ⊆ ks) (h : s0.within ks s) :
    s0.within ks (State.journal s e) := by
  unfold State.journal
  try dsimp only
  repeat' (first
    | with_reducible assumption
    | with_reducible apply within_flashRec (sub_of hw rfl)
    | with_reducible apply within_ite
    | with_reducible exact Or.inl rfl
    | exact Or.inr (hw (by decide))
    | exact hw (by decide)
    | with_reducible apply within_mk)

theorem within_bboxCommit {ks : List Comp} {s0 : State} {a0 : State} {ok0 ok1} (hw : [.regs, .boot, .flash, .err] ⊆ ks) (h : s0.within ks a0) :
    s0.within ks (State.bboxCommit a0 ok0 ok1) := by
  unfold State.bboxCommit
  try dsimp only
  repeat' (first
    | with_reducible assumption
    | with_reducible apply within_copyFail (sub_of hw rfl)
    | with_reducible apply within_stageLoss (sub_of hw rfl)
    | with_reducible apply within_journal (sub_of hw rfl)
    | with_reducible apply within_ite
    | with_reducible exact Or.inl rfl
    | exact Or.inr (hw (by decide))
    | exact hw (by decide)
    | split
    | with_reducible apply within_mk)

theorem within_stage {ks : List Comp} {s0 : State} {s : State} {kind rseq body} (hw : [.regs, .err] ⊆ ks) (h : s0.within ks s) :
    s0.within ks (State.stage s kind rseq body) := by
  unfold State.stage
  try dsimp only
  repeat' (first
    | with_reducible assumption
    | with_reducible apply within_incSat (sub_of hw rfl)
    | with_reducible apply within_stageOne (sub_of hw rfl)
    | with_reducible apply within_ite
    | with_reducible exact Or.inl rfl
    | exact Or.inr (hw (by decide))
    | exact hw (by decide)
    | with_reducible apply within_mk)

theorem within_countSev {ks : List Comp} {s0 : State} {s : State} {sev} (hw : [.regs] ⊆ ks) (h : s0.within ks s) :
    s0.within ks (State.countSev s sev) := by
  unfold State.countSev
  try dsimp only
  repeat' (first
    | with_reducible assumption
    | with_reducible apply within_incSat (sub_of hw rfl))

theorem within_emitAll {ks : List Comp} {s0 : State} {s : State} {f} (hw : [.out] ⊆ ks) (h : s0.within ks s) :
    s0.within ks (State.emitAll s f) := by
  unfold State.emitAll
  try dsimp only
  repeat' (first
    | with_reducible assumption
    | with_reducible apply within_emit (sub_of hw rfl)
    | with_reducible apply within_foldl
    | with_reducible apply within_foldl_pair
    | with_reducible exact within_refl _
    | with_reducible apply within_ite
    | with_reducible apply within_ite_pair
    | with_reducible exact Or.inl rfl
    | exact Or.inr (hw (by decide))
    | exact hw (by decide)
    | with_reducible refine within_pair (by assumption) ?_
    | (intro _ _ _; try dsimp only)
    | (intro _ _; try dsimp only)
    | split
    | with_reducible apply within_mk)

theorem within_toMgmt {ks : List Comp} {s0 : State} {s : State} {r} (hw : [.err, .out] ⊆ ks) (h : s0.within ks s) :
    s0.within ks (State.toMgmt s r) := by
  unfold State.toMgmt
  dsimp only
  split
  · exact h
  · split
    · refine within_emitAll (sub_of hw rfl) ?_
      with_reducible apply within_mk
      all_goals first | assumption | with_reducible exact Or.inl rfl | exact Or.inr (hw (by decide))
    · generalize State.holdRec s.err s.now r = e
      with_reducible apply within_mk
      all_goals first | assumption | with_reducible exact Or.inl rfl | exact Or.inr (hw (by decide))

theorem within_engineReset {ks : List Comp} {s0 : State} {s : State} {r} (hw : [.fports, .boot, .out] ⊆ ks) (h : s0.within ks s) :
    s0.within ks (State.engineReset s r) := by
  unfold State.engineReset
  try dsimp only
  repeat' (first
    | with_reducible assumption
    | with_reducible apply within_faultNotices (sub_of hw rfl)
    | with_reducible apply within_ite
    | with_reducible exact Or.inl rfl
    | exact Or.inr (hw (by decide))
    | exact hw (by decide)
    | with_reducible apply within_mk)

theorem within_recordArrive {ks : List Comp} {s0 : State} {s : State} (hw : [.regs, .mem, .fports, .hports, .boot, .flash, .err, .out] ⊆ ks) (h : s0.within ks s) :
    s0.within ks (State.recordArrive s) := by
  unfold State.recordArrive
  try dsimp only
  repeat' (first
    | with_reducible assumption
    | with_reducible apply within_countSev (sub_of hw rfl)
    | with_reducible apply within_event (sub_of hw rfl)
    | with_reducible apply within_toMgmt (sub_of hw rfl)
    | with_reducible apply within_stage (sub_of hw rfl)
    | with_reducible apply within_engineReset (sub_of hw rfl)
    | with_reducible apply within_ite
    | with_reducible exact Or.inl rfl
    | exact Or.inr (hw (by decide))
    | exact hw (by decide)
    | split
    | with_reducible apply within_mk)

theorem within_keepStore {ks : List Comp} {s0 : State} {s : State} (hw : [.flash] ⊆ ks) (h : s0.within ks s) :
    s0.within ks (State.keepStore s) := by
  unfold State.keepStore
  try dsimp only
  repeat' (first
    | with_reducible assumption
    | with_reducible apply within_foldl
    | with_reducible apply within_foldl_pair
    | with_reducible exact within_refl _
    | with_reducible apply within_ite
    | with_reducible apply within_ite_pair
    | with_reducible exact Or.inl rfl
    | exact Or.inr (hw (by decide))
    | exact hw (by decide)
    | with_reducible refine within_pair (by assumption) ?_
    | (intro _ _ _; try dsimp only)
    | (intro _ _; try dsimp only)
    | split
    | with_reducible apply within_mk)

theorem within_flashFlush {ks : List Comp} {s0 : State} {s : State} (hw : [.flash] ⊆ ks) (h : s0.within ks s) :
    s0.within ks (State.flashFlush s) := by
  unfold State.flashFlush
  try dsimp only
  repeat' (first
    | with_reducible assumption
    | with_reducible apply within_keepStore (sub_of hw rfl)
    | with_reducible apply within_ctrWrite (sub_of hw rfl)
    | with_reducible apply within_foldl
    | with_reducible apply within_foldl_pair
    | with_reducible exact within_refl _
    | with_reducible apply within_ite
    | with_reducible apply within_ite_pair
    | with_reducible exact Or.inl rfl
    | exact Or.inr (hw (by decide))
    | exact hw (by decide)
    | with_reducible refine within_pair (by assumption) ?_
    | (intro _ _ _; try dsimp only)
    | (intro _ _; try dsimp only)
    | split
    | with_reducible apply within_mk)

theorem within_commitStaged {ks : List Comp} {s0 : State} {s : State} {a1} (hw : [.regs, .boot, .flash, .err] ⊆ ks) (h : s0.within ks s) :
    s0.within ks (State.commitStaged s a1) := by
  induction a1 generalizing s with
  | zero => exact h
  | succ n ih =>
    unfold State.commitStaged
    try dsimp only
    repeat' (first
      | with_reducible assumption
      | with_reducible apply ih
      | with_reducible apply within_flashFlush (sub_of hw rfl)
      | with_reducible apply within_bboxCommit (sub_of hw rfl)
      | with_reducible apply within_foldl
      | with_reducible apply within_foldl_pair
      | with_reducible exact within_refl _
      | with_reducible apply within_ite
      | with_reducible apply within_ite_pair
      | with_reducible exact Or.inl rfl
      | exact Or.inr (hw (by decide))
      | exact hw (by decide)
      | with_reducible refine within_pair (by assumption) ?_
      | (intro _ _ _; try dsimp only)
      | (intro _ _; try dsimp only)
      | split
      | with_reducible apply within_mk)

theorem within_coverageCheck {ks : List Comp} {s0 : State} {s : State} (hw : [.boot, .err] ⊆ ks) (h : s0.within ks s) :
    s0.within ks (State.coverageCheck s) := by
  unfold State.coverageCheck
  try dsimp only
  repeat' (first
    | with_reducible assumption
    | with_reducible apply within_raise (sub_of hw rfl)
    | with_reducible apply within_ite
    | with_reducible exact Or.inl rfl
    | exact Or.inr (hw (by decide))
    | exact hw (by decide)
    | split
    | with_reducible apply within_mk)

theorem within_sendRecs {ks : List Comp} {s0 : State} {s : State} (hw : [.err, .out] ⊆ ks) (h : s0.within ks s) :
    s0.within ks (State.sendRecs s) := by
  unfold State.sendRecs
  try dsimp only
  repeat' (first
    | with_reducible assumption
    | with_reducible apply within_emitAll (sub_of hw rfl)
    | with_reducible apply within_foldl
    | with_reducible apply within_foldl_pair
    | with_reducible exact within_refl _
    | with_reducible apply within_ite
    | with_reducible apply within_ite_pair
    | with_reducible exact Or.inl rfl
    | exact Or.inr (hw (by decide))
    | exact hw (by decide)
    | with_reducible refine within_pair (by assumption) ?_
    | (intro _ _ _; try dsimp only)
    | (intro _ _; try dsimp only)
    | split
    | with_reducible apply within_mk)

theorem within_datagram {ks : List Comp} {s0 : State} {s : State} (hw : [.err, .out] ⊆ ks) (h : s0.within ks s) :
    s0.within ks (State.datagram s) := by
  unfold State.datagram
  try dsimp only
  repeat' (first
    | with_reducible assumption
    | with_reducible apply within_sendRecs (sub_of hw rfl)
    | with_reducible apply within_ite
    | with_reducible exact Or.inl rfl
    | exact Or.inr (hw (by decide))
    | exact hw (by decide)
    | with_reducible apply within_mk)

theorem within_selfFail {ks : List Comp} {s0 : State} {s : State} {c u} (hw : [.cells, .err] ⊆ ks) (h : s0.within ks s) :
    s0.within ks (State.selfFail s c u) := by
  unfold State.selfFail
  try dsimp only
  repeat' (first
    | with_reducible assumption
    | with_reducible apply within_raiseAt (sub_of hw rfl)
    | with_reducible apply within_queueTest (sub_of hw rfl))

theorem within_firmwareFail {ks : List Comp} {s0 : State} {s : State} {c u} (hw : [.regs, .cells, .err] ⊆ ks) (h : s0.within ks s) :
    s0.within ks (State.firmwareFail s c u) := by
  unfold State.firmwareFail
  try dsimp only
  repeat' (first
    | with_reducible assumption
    | with_reducible apply within_stopCore (sub_of hw rfl)
    | with_reducible apply within_selfFail (sub_of hw rfl)
    | with_reducible apply within_foldl
    | with_reducible apply within_foldl_pair
    | with_reducible exact within_refl _
    | with_reducible apply within_ite
    | with_reducible apply within_ite_pair
    | with_reducible exact Or.inl rfl
    | exact Or.inr (hw (by decide))
    | exact hw (by decide)
    | with_reducible refine within_pair (by assumption) ?_
    | (intro _ _ _; try dsimp only)
    | (intro _ _; try dsimp only)
    | split
    | with_reducible apply within_mk)

theorem within_noteTested {ks : List Comp} {s0 : State} {s : State} {c} (hw : [.cells] ⊆ ks) (h : s0.within ks s) :
    s0.within ks (State.noteTested s c) := by
  unfold State.noteTested
  try dsimp only
  repeat' (first
    | with_reducible assumption
    | with_reducible apply within_setCell (sub_of hw rfl)
    | with_reducible apply within_foldl
    | with_reducible apply within_foldl_pair
    | with_reducible exact within_refl _
    | with_reducible apply within_ite
    | with_reducible apply within_ite_pair
    | with_reducible exact Or.inl rfl
    | exact Or.inr (hw (by decide))
    | exact hw (by decide)
    | with_reducible refine within_pair (by assumption) ?_
    | (intro _ _ _; try dsimp only)
    | (intro _ _; try dsimp only)
    | split
    | with_reducible apply within_mk)

theorem within_selfPass {ks : List Comp} {s0 : State} {s : State} {c} (hw : [.regs] ⊆ ks) (h : s0.within ks s) :
    s0.within ks (State.selfPass s c) := by
  unfold State.selfPass
  try dsimp only
  repeat' (first
    | with_reducible assumption
    | with_reducible apply within_setReg (sub_of hw rfl))

theorem within_firmwareTest {ks : List Comp} {s0 : State} {s : State} {c failed} (hw : [.regs, .cells, .regions, .boot, .flash, .err, .fates] ⊆ ks) (h : s0.within ks s) :
    s0.within ks (State.firmwareTest s c failed) := by
  unfold State.firmwareTest
  try dsimp only
  repeat' (first
    | with_reducible assumption
    | with_reducible apply within_carryPhys (sub_of hw rfl)
    | with_reducible apply within_noteTested (sub_of hw rfl)
    | with_reducible apply within_selfPass (sub_of hw rfl)
    | with_reducible apply within_firmwareFail (sub_of hw rfl)
    | with_reducible apply within_confirmFuse (sub_of hw rfl)
    | with_reducible apply within_foldl
    | with_reducible apply within_foldl_pair
    | with_reducible exact within_refl _
    | with_reducible apply within_ite
    | with_reducible apply within_ite_pair
    | with_reducible exact Or.inl rfl
    | exact Or.inr (hw (by decide))
    | exact hw (by decide)
    | with_reducible refine within_pair (by assumption) ?_
    | (intro _ _ _; try dsimp only)
    | (intro _ _; try dsimp only)
    | split
    | with_reducible apply within_mk)

theorem within_flashBack {ks : List Comp} {s0 : State} {s : State} (hw : [.flash] ⊆ ks) (h : s0.within ks s) :
    s0.within ks (State.flashBack s) := by
  unfold State.flashBack
  try dsimp only
  repeat' (first
    | with_reducible assumption
    | with_reducible apply within_foldl
    | with_reducible apply within_foldl_pair
    | with_reducible exact within_refl _
    | with_reducible apply within_ite
    | with_reducible apply within_ite_pair
    | with_reducible exact Or.inl rfl
    | exact Or.inr (hw (by decide))
    | exact hw (by decide)
    | with_reducible refine within_pair (by assumption) ?_
    | (intro _ _ _; try dsimp only)
    | (intro _ _; try dsimp only)
    | split
    | with_reducible apply within_mk)

theorem within_halfVerdict {ks : List Comp} {s0 : State} {s : State} {d n pass} (hw : [.mcs, .err] ⊆ ks) (h : s0.within ks s) :
    s0.within ks (State.halfVerdict s d n pass) := by
  unfold State.halfVerdict
  try dsimp only
  repeat' (first
    | with_reducible assumption
    | with_reducible apply within_raise (sub_of hw rfl)
    | with_reducible apply within_setMc (sub_of hw rfl)
    | split)

theorem within_sendHeld {ks : List Comp} {s0 : State} {s : State} {a1} (hw : [.err, .out] ⊆ ks) (h : s0.within ks s) :
    s0.within ks (State.sendHeld s a1) := by
  induction a1 generalizing s with
  | zero => exact h
  | succ n ih =>
    unfold State.sendHeld
    try dsimp only
    repeat' (first
      | with_reducible assumption
      | with_reducible apply ih
      | with_reducible apply within_sendRecs (sub_of hw rfl)
      | with_reducible apply within_foldl
      | with_reducible apply within_foldl_pair
      | with_reducible exact within_refl _
      | with_reducible apply within_ite
      | with_reducible apply within_ite_pair
      | with_reducible exact Or.inl rfl
      | exact Or.inr (hw (by decide))
      | exact hw (by decide)
      | with_reducible refine within_pair (by assumption) ?_
      | (intro _ _ _; try dsimp only)
      | (intro _ _; try dsimp only)
      | split
      | with_reducible apply within_mk)

theorem within_mgmtUp {ks : List Comp} {s0 : State} {s : State} (hw : [.err, .out] ⊆ ks) (h : s0.within ks s) :
    s0.within ks (State.mgmtUp s) := by
  unfold State.mgmtUp
  try dsimp only
  repeat' (first
    | with_reducible assumption
    | with_reducible apply within_emitAll (sub_of hw rfl)
    | with_reducible apply within_sendHeld (sub_of hw rfl)
    | with_reducible apply within_foldl
    | with_reducible apply within_ite
    | with_reducible exact Or.inl rfl
    | exact Or.inr (hw (by decide))
    | exact hw (by decide)
    | with_reducible apply within_mk
    | (intro _ _ _; try dsimp only)
    | (intro _ _; try dsimp only))

theorem within_testStart {ks : List Comp} {s0 : State} {s : State} {c} (hw : [.cells] ⊆ ks) (h : s0.within ks s) :
    s0.within ks (State.testStart s c) := by
  unfold State.testStart
  try dsimp only
  repeat' (first
    | with_reducible assumption
    | with_reducible apply within_setCell (sub_of hw rfl)
    | with_reducible apply within_ite
    | split)

theorem within_testVerdict {ks : List Comp} {s0 : State} {s : State} {c pass} (hw : [.regs, .cells, .boot, .flash, .err, .free] ⊆ ks) (h : s0.within ks s) :
    s0.within ks (State.testVerdict s c pass) := by
  unfold State.testVerdict
  try dsimp only
  repeat' (first
    | with_reducible assumption
    | with_reducible apply within_setCell (sub_of hw rfl)
    | with_reducible apply within_incSatUn (sub_of hw rfl)
    | with_reducible apply within_setReg (sub_of hw rfl)
    | with_reducible apply within_raiseSev (sub_of hw rfl)
    | with_reducible apply within_fresh (sub_of hw rfl)
    | with_reducible apply within_cellFail (sub_of hw rfl)
    | with_reducible apply within_foldl
    | with_reducible apply within_foldl_pair
    | with_reducible exact within_refl _
    | with_reducible apply within_ite
    | with_reducible apply within_ite_pair
    | with_reducible exact Or.inl rfl
    | exact Or.inr (hw (by decide))
    | exact hw (by decide)
    | with_reducible refine within_pair (by assumption) ?_
    | (intro _ _ _; try dsimp only)
    | (intro _ _; try dsimp only)
    | split
    | with_reducible apply within_mk)

theorem within_execBboxCommit {ks : List Comp} (s : State) {ok0 ok1} (hw : [.regs, .boot, .flash, .err] ⊆ ks) :
    ∃ z, execBboxCommit ok0 ok1 s = .next z ∧ s.within ks z := by
  unfold execBboxCommit
  exact ⟨_, rfl, by
    repeat' (first
      | with_reducible exact within_refl _
      | with_reducible apply within_bboxCommit (sub_of hw rfl))⟩

theorem within_execBboxSelect {ks : List Comp} (s : State) {j} (hw : [.regs] ⊆ ks) :
    ∃ z, execBboxSelect j s = .next z ∧ s.within ks z := by
  unfold execBboxSelect
  exact ⟨_, rfl, by
    repeat' (first
      | with_reducible exact within_refl _
      | with_reducible apply within_setReg (sub_of hw rfl))⟩

theorem within_execCoverageCheck {ks : List Comp} (s : State) (hw : [.boot, .err] ⊆ ks) :
    ∃ z, execCoverageCheck s = .next z ∧ s.within ks z := by
  unfold execCoverageCheck
  exact ⟨_, rfl, by
    repeat' (first
      | with_reducible exact within_refl _
      | with_reducible apply within_coverageCheck (sub_of hw rfl))⟩

theorem within_execErrorRecordArrive {ks : List Comp} (s : State) (hw : [.regs, .mem, .fports, .hports, .boot, .flash, .err, .out] ⊆ ks) :
    ∃ z, execErrorRecordArrive s = .next z ∧ s.within ks z := by
  unfold execErrorRecordArrive
  exact ⟨_, rfl, by
    repeat' (first
      | with_reducible exact within_refl _
      | with_reducible apply within_recordArrive (sub_of hw rfl))⟩

theorem within_execFirmwareSelfTest {ks : List Comp} (s : State) {c failed} (hw : [.regs, .cells, .regions, .boot, .flash, .err, .fates] ⊆ ks) :
    ∃ z, execFirmwareSelfTest c failed s = .next z ∧ s.within ks z := by
  unfold execFirmwareSelfTest
  exact ⟨_, rfl, by
    repeat' (first
      | with_reducible exact within_refl _
      | with_reducible apply within_firmwareTest (sub_of hw rfl))⟩

theorem within_execMgmtLinkDown {ks : List Comp} (s : State) (hw : [.err] ⊆ ks) :
    ∃ z, execMgmtLinkDown s = .next z ∧ s.within ks z := by
  unfold execMgmtLinkDown
  exact ⟨_, rfl, by
    repeat' (first
      | with_reducible exact within_refl _
      | with_reducible exact Or.inl rfl
      | exact Or.inr (hw (by decide))
      | exact hw (by decide)
      | with_reducible apply within_mk)⟩

theorem within_execMgmtLinkUp {ks : List Comp} (s : State) (hw : [.err, .out] ⊆ ks) :
    ∃ z, execMgmtLinkUp s = .next z ∧ s.within ks z := by
  unfold execMgmtLinkUp
  exact ⟨_, rfl, by
    repeat' (first
      | with_reducible exact within_refl _
      | with_reducible apply within_mgmtUp (sub_of hw rfl))⟩

theorem within_execTargetedTestStart {ks : List Comp} (s : State) {c} (hw : [.cells] ⊆ ks) :
    ∃ z, execTargetedTestStart c s = .next z ∧ s.within ks z := by
  unfold execTargetedTestStart
  exact ⟨_, rfl, by
    repeat' (first
      | with_reducible exact within_refl _
      | with_reducible apply within_testStart (sub_of hw rfl))⟩

theorem within_execTargetedTestVerdict {ks : List Comp} (s : State) {c pass} (hw : [.regs, .cells, .mcs, .boot, .flash, .err, .free] ⊆ ks) :
    ∃ z, execTargetedTestVerdict c pass s = .next z ∧ s.within ks z := by
  unfold execTargetedTestVerdict
  exact ⟨_, rfl, by
    repeat' (first
      | with_reducible exact within_refl _
      | with_reducible apply within_testVerdict (sub_of hw rfl)
      | with_reducible apply within_halfVerdict (sub_of hw rfl)
      | with_reducible apply within_ite)⟩

theorem within_execUdpDatagramSend {ks : List Comp} (s : State) (hw : [.err, .out] ⊆ ks) :
    ∃ z, execUdpDatagramSend s = .next z ∧ s.within ks z := by
  unfold execUdpDatagramSend
  exact ⟨_, rfl, by
    repeat' (first
      | with_reducible exact within_refl _
      | with_reducible apply within_datagram (sub_of hw rfl))⟩

end Sys2Proof.Laws
end

