-- ==== Sys2Proof/Laws/WithinBoot.lean ====
section
/-! SUPPORT. What the operations of Machine/Boot.lean may change (`State.within`). -/

set_option Elab.async false
set_option linter.all false

namespace Sys2Proof.Laws

open Sys2Proof Sys2Proof.Machine Sys2Proof.Machine.State

theorem within_absentSide {ks : List Comp} {s0 : State} {s : State} {d side} (hw : [.regs] ⊆ ks) (h : s0.within ks s) :
    s0.within ks (State.absentSide s d side) := by
  unfold State.absentSide
  try dsimp only
  repeat' (first
    | with_reducible assumption
    | with_reducible apply within_setReg (sub_of hw rfl)
    | with_reducible apply within_foldl
    | (intro _ _ _; try dsimp only)
    | (intro _ _; try dsimp only))

theorem within_lockedWrite {ks : List Comp} {s0 : State} {s : State} {k ga} (hw : [.err] ⊆ ks) (h : s0.within ks s) :
    s0.within ks (State.lockedWrite s k ga) := by
  unfold State.lockedWrite
  try dsimp only
  repeat' (first
    | with_reducible assumption
    | with_reducible apply within_raise (sub_of hw rfl))

theorem within_startStat {ks : List Comp} {s0 : State} {s : State} {stat warm cause cls} (hw : [.regs] ⊆ ks) (h : s0.within ks s) :
    s0.within ks (State.startStat s stat warm cause cls) := by
  unfold State.startStat
  try dsimp only
  repeat' (first
    | with_reducible assumption
    | with_reducible apply within_setReg (sub_of hw rfl))

theorem within_wipe {ks : List Comp} {s0 : State} {s : State} {warm kind} (hw : [.regs, .cells, .regions, .dies, .mcs, .pend13, .resp, .net, .panels, .jobs, .load, .ctxs, .tags, .fabQ, .fabWait, .fports, .rings, .hports, .outReads, .band, .time, .boot, .flash, .err] ⊆ ks) (h : s0.within ks s) :
    s0.within ks (State.wipe s warm kind) := by
  unfold State.wipe
  try dsimp only
  repeat' (first
    | with_reducible assumption
    | with_reducible apply within_mk_regs
    | with_reducible exact Or.inl rfl
    | exact Or.inr (hw (by decide))
    | exact hw (by decide))

theorem within_beginWarm {ks : List Comp} {s0 : State} {s : State} {kind cls} (hw : [.regs, .mem, .cells, .regions, .dies, .mcs, .pend13, .resp, .net, .panels, .jobs, .load, .ctxs, .tags, .fabQ, .fabWait, .fports, .rings, .hports, .outReads, .band, .time, .boot, .flash, .err, .out] ⊆ ks) (h : s0.within ks s) :
    s0.within ks (State.beginWarm s kind cls) := by
  unfold State.beginWarm
  try dsimp only
  repeat' (first
    | with_reducible assumption
    | with_reducible apply within_stopRings (sub_of hw rfl)
    | with_reducible apply within_raiseAll (sub_of hw rfl)
    | with_reducible apply within_event (sub_of hw rfl)
    | with_reducible apply within_startStat (sub_of hw rfl)
    | with_reducible apply within_wipe (sub_of hw rfl)
    | with_reducible apply within_foldl
    | (intro _ _ _; try dsimp only)
    | (intro _ _; try dsimp only))

theorem within_setBoot {ks : List Comp} {s0 : State} {s : State} {b} (hw : [.boot] ⊆ ks) (h : s0.within ks s) :
    s0.within ks (State.setBoot s b) := by
  unfold State.setBoot
  try dsimp only
  repeat' (first
    | with_reducible assumption
    | with_reducible exact Or.inl rfl
    | exact Or.inr (hw (by decide))
    | exact hw (by decide)
    | with_reducible apply within_mk)

theorem within_resetWarm {ks : List Comp} {s0 : State} {s : State} {confirm} (hw : [.regs, .mem, .cells, .regions, .dies, .mcs, .pend13, .resp, .net, .panels, .jobs, .load, .ctxs, .tags, .fabQ, .fabWait, .fports, .rings, .hports, .outReads, .band, .time, .boot, .flash, .err, .out] ⊆ ks) (h : s0.within ks s) :
    s0.within ks (State.resetWarm s confirm) := by
  unfold State.resetWarm
  try dsimp only
  repeat' (first
    | with_reducible assumption
    | with_reducible apply within_beginWarm (sub_of hw rfl)
    | with_reducible apply within_faultNotices (sub_of hw rfl)
    | with_reducible apply within_setBoot (sub_of hw rfl)
    | with_reducible apply within_ite)

theorem within_beginCold {ks : List Comp} {s0 : State} {s : State} {cause cls} (hw : [.regs, .cells, .regions, .dies, .mcs, .pend13, .resp, .net, .panels, .jobs, .load, .ctxs, .tags, .fabQ, .fabWait, .fports, .rings, .hports, .outReads, .band, .time, .boot, .flash, .err] ⊆ ks) (h : s0.within ks s) :
    s0.within ks (State.beginCold s cause cls) := by
  unfold State.beginCold
  try dsimp only
  repeat' (first
    | with_reducible assumption
    | with_reducible apply within_startStat (sub_of hw rfl)
    | with_reducible apply within_wipe (sub_of hw rfl))

theorem within_resetCold {ks : List Comp} {s0 : State} {s : State} {confirm} (hw : [.regs, .cells, .regions, .dies, .mcs, .pend13, .resp, .net, .panels, .jobs, .load, .ctxs, .tags, .fabQ, .fabWait, .fports, .rings, .hports, .outReads, .band, .time, .boot, .flash, .err, .out] ⊆ ks) (h : s0.within ks s) :
    s0.within ks (State.resetCold s confirm) := by
  unfold State.resetCold
  try dsimp only
  repeat' (first
    | with_reducible assumption
    | with_reducible apply within_beginCold (sub_of hw rfl)
    | with_reducible apply within_faultNotices (sub_of hw rfl)
    | with_reducible apply within_ite)

theorem within_siteKeys {ks : List Comp} {s0 : State} {s : State} (hw : [.band] ⊆ ks) (h : s0.within ks s) :
    s0.within ks (State.siteKeys s) := by
  unfold State.siteKeys
  try dsimp only
  repeat' (first
    | with_reducible assumption
    | with_reducible apply within_setBand (sub_of hw rfl)
    | with_reducible apply within_foldl
    | with_reducible apply within_foldl_pair
    | with_reducible exact within_refl _
    | with_reducible apply within_ite
    | with_reducible apply within_ite_pair
    | with_reducible exact Or.inl rfl
    | exact Or.inr (hw (by decide))
    | exact hw (by decide)
    | with_reducible refine within_pair (by assumption) ?_
    | (intro _ _ _; try dsimp only)
    | (intro _ _; try dsimp only)
    | split
    | with_reducible apply within_mk)

theorem within_applyConfig {ks : List Comp} {s0 : State} {a0 : State} (hw : [.regs, .band] ⊆ ks) (h : s0.within ks a0) :
    s0.within ks (State.applyConfig a0) := by
  unfold State.applyConfig
  try dsimp only
  repeat' (first
    | with_reducible assumption
    | with_reducible apply within_siteKeys (sub_of hw rfl)
    | with_reducible apply within_setReg (sub_of hw rfl)
    | with_reducible apply within_foldl
    | (intro _ _ _; try dsimp only)
    | (intro _ _; try dsimp only))

theorem within_bandReady {ks : List Comp} {s0 : State} {s : State} (hw : [.regs, .band] ⊆ ks) (h : s0.within ks s) :
    s0.within ks (State.bandReady s) := by
  unfold State.bandReady
  try dsimp only
  repeat' (first
    | with_reducible assumption
    | with_reducible apply within_updateCeil (sub_of hw rfl)
    | with_reducible apply within_setBand (sub_of hw rfl)
    | with_reducible apply within_ite)

theorem within_bootLock {ks : List Comp} {s0 : State} {s : State} (hw : [.regs, .err] ⊆ ks) (h : s0.within ks s) :
    s0.within ks (State.bootLock s) := by
  unfold State.bootLock
  try dsimp only
  repeat' (first
    | with_reducible assumption
    | with_reducible apply within_lockedWrite (sub_of hw rfl)
    | with_reducible apply within_setReg (sub_of hw rfl)
    | with_reducible apply within_setFld (sub_of hw rfl)
    | with_reducible apply within_foldl
    | with_reducible apply within_foldl_pair
    | with_reducible exact within_refl _
    | with_reducible apply within_ite
    | with_reducible apply within_ite_pair
    | with_reducible exact Or.inl rfl
    | exact Or.inr (hw (by decide))
    | exact hw (by decide)
    | with_reducible refine within_pair (by assumption) ?_
    | (intro _ _ _; try dsimp only)
    | (intro _ _; try dsimp only)
    | split
    | with_reducible apply within_mk)

theorem within_phaseTime {ks : List Comp} {s0 : State} {s : State} {p} (hw : [.regs] ⊆ ks) (h : s0.within ks s) :
    s0.within ks (State.phaseTime s p) := by
  unfold State.phaseTime
  try dsimp only
  repeat' (first
    | with_reducible assumption
    | with_reducible apply within_setReg (sub_of hw rfl))

theorem within_bootReady {ks : List Comp} {s0 : State} {s : State} (hw : [.regs, .mem, .hports, .band, .boot, .err, .out] ⊆ ks) (h : s0.within ks s) :
    s0.within ks (State.bootReady s) := by
  unfold State.bootReady
  try dsimp only
  repeat' (first
    | with_reducible assumption
    | with_reducible apply within_phaseTime (sub_of hw rfl)
    | with_reducible apply within_setFld (sub_of hw rfl)
    | with_reducible apply within_bootLock (sub_of hw rfl)
    | with_reducible apply within_bandReady (sub_of hw rfl)
    | with_reducible apply within_stage (sub_of hw rfl)
    | with_reducible apply within_setBoot (sub_of hw rfl)
    | with_reducible apply within_raiseAll (sub_of hw rfl)
    | with_reducible apply within_event (sub_of hw rfl)
    | with_reducible apply within_ite)

theorem within_dieUnitsOut {ks : List Comp} {s0 : State} {s : State} {d} (hw : [.regs, .hports] ⊆ ks) (h : s0.within ks s) :
    s0.within ks (State.dieUnitsOut s d) := by
  unfold State.dieUnitsOut
  try dsimp only
  repeat' (first
    | with_reducible assumption
    | with_reducible apply within_setHport (sub_of hw rfl)
    | with_reducible apply within_setPstate (sub_of hw rfl)
    | with_reducible apply within_foldl
    | with_reducible apply within_foldl_pair
    | with_reducible exact within_refl _
    | with_reducible apply within_ite
    | with_reducible apply within_ite_pair
    | with_reducible exact Or.inl rfl
    | exact Or.inr (hw (by decide))
    | exact hw (by decide)
    | with_reducible refine within_pair (by assumption) ?_
    | (intro _ _ _; try dsimp only)
    | (intro _ _; try dsimp only)
    | split
    | with_reducible apply within_mk)

theorem within_excludeDie {ks : List Comp} {s0 : State} {s : State} {d reason inService} (hw : [.regs, .hports, .err] ⊆ ks) (h : s0.within ks s) :
    s0.within ks (State.excludeDie s d reason inService) := by
  unfold State.excludeDie
  try dsimp only
  repeat' (first
    | with_reducible assumption
    | with_reducible apply within_raise (sub_of hw rfl)
    | with_reducible apply within_setFld (sub_of hw rfl)
    | with_reducible apply within_dieUnitsOut (sub_of hw rfl)
    | with_reducible apply within_ite)

theorem within_boundaryExclude {ks : List Comp} {s0 : State} {s : State} {faults d e side} (hw : [.regs, .hports, .err] ⊆ ks) (h : s0.within ks s) :
    s0.within ks (State.boundaryExclude s faults d e side) := by
  unfold State.boundaryExclude
  try dsimp only
  repeat' (first
    | with_reducible assumption
    | with_reducible apply within_excludeDie (sub_of hw rfl)
    | with_reducible apply within_ite)

theorem within_failCrossing {ks : List Comp} {s0 : State} {s : State} {d side c} (hw : [.regs, .cells, .boot] ⊆ ks) (h : s0.within ks s) :
    s0.within ks (State.failCrossing s d side c) := by
  unfold State.failCrossing
  try dsimp only
  repeat' (first
    | with_reducible assumption
    | with_reducible apply within_setBoot (sub_of hw rfl)
    | with_reducible apply within_failLinks (sub_of hw rfl))

theorem within_publishSide {ks : List Comp} {s0 : State} {s : State} {d side pad rawmax lat} (hw : [.regs] ⊆ ks) (h : s0.within ks s) :
    s0.within ks (State.publishSide s d side pad rawmax lat) := by
  unfold State.publishSide
  try dsimp only
  repeat' (first
    | with_reducible assumption
    | with_reducible apply within_setFld (sub_of hw rfl)
    | with_reducible apply within_setReg (sub_of hw rfl)
    | with_reducible apply within_foldl
    | (intro _ _ _; try dsimp only)
    | (intro _ _; try dsimp only))

theorem within_calBoundary {ks : List Comp} {s0 : State} {s : State} {d e side raw} (hw : [.regs, .cells, .boot, .err] ⊆ ks) (h : s0.within ks s) :
    s0.within ks (State.calBoundary s d e side raw) := by
  unfold State.calBoundary
  try dsimp only
  repeat' (first
    | with_reducible assumption
    | with_reducible apply within_failCrossing (sub_of hw rfl)
    | with_reducible apply within_raise (sub_of hw rfl)
    | with_reducible apply within_publishSide (sub_of hw rfl)
    | with_reducible apply within_foldl
    | with_reducible apply within_ite
    | (intro _ _ _; try dsimp only)
    | (intro _ _; try dsimp only))

theorem within_calSeam {ks : List Comp} {s0 : State} {s : State} {d seam c raw} (hw : [.regs, .cells, .boot, .err] ⊆ ks) (h : s0.within ks s) :
    s0.within ks (State.calSeam s d seam c raw) := by
  unfold State.calSeam
  try dsimp only
  repeat' (first
    | with_reducible assumption
    | with_reducible apply within_setFld (sub_of hw rfl)
    | with_reducible apply within_raise (sub_of hw rfl)
    | with_reducible apply within_incSat (sub_of hw rfl)
    | with_reducible apply within_failLinks (sub_of hw rfl)
    | with_reducible apply within_ite)

theorem within_calRegion {ks : List Comp} {s0 : State} {s : State} {d k c} (hw : [.regs, .cells, .boot, .err] ⊆ ks) (h : s0.within ks s) :
    s0.within ks (State.calRegion s d k c) := by
  unfold State.calRegion
  try dsimp only
  repeat' (first
    | with_reducible assumption
    | with_reducible apply within_raise (sub_of hw rfl)
    | with_reducible apply within_incSat (sub_of hw rfl)
    | with_reducible apply within_failLinks (sub_of hw rfl))

theorem within_calShared {ks : List Comp} {s0 : State} {s : State} {d e side raw} (hw : [.regs, .cells, .boot, .err] ⊆ ks) (h : s0.within ks s) :
    s0.within ks (State.calShared s d e side raw) := by
  unfold State.calShared
  try dsimp only
  repeat' (first
    | with_reducible assumption
    | with_reducible apply within_calBoundary (sub_of hw rfl)
    | with_reducible apply within_incSat (sub_of hw rfl)
    | with_reducible apply within_foldl
    | with_reducible apply within_foldl_pair
    | with_reducible exact within_refl _
    | with_reducible apply within_ite
    | with_reducible apply within_ite_pair
    | with_reducible exact Or.inl rfl
    | exact Or.inr (hw (by decide))
    | exact hw (by decide)
    | with_reducible refine within_pair (by assumption) ?_
    | (intro _ _ _; try dsimp only)
    | (intro _ _; try dsimp only)
    | split
    | with_reducible apply within_mk)

theorem within_calDie {ks : List Comp} {s0 : State} {s : State} {d raw} (hw : [.regs, .cells, .boot, .err] ⊆ ks) (h : s0.within ks s) :
    s0.within ks (State.calDie s d raw) := by
  unfold State.calDie
  try dsimp only
  repeat' (first
    | with_reducible assumption
    | with_reducible apply within_calSeam (sub_of hw rfl)
    | with_reducible apply within_calRegion (sub_of hw rfl)
    | with_reducible apply within_absentSide (sub_of hw rfl)
    | with_reducible apply within_calShared (sub_of hw rfl)
    | with_reducible apply within_setFld (sub_of hw rfl)
    | with_reducible apply within_foldl
    | with_reducible apply within_ite
    | (intro _ _ _; try dsimp only)
    | (intro _ _; try dsimp only)
    | split)

theorem within_calDone {ks : List Comp} {s0 : State} {s : State} (hw : [.regs] ⊆ ks) (h : s0.within ks s) :
    s0.within ks (State.calDone s) := by
  unfold State.calDone
  try dsimp only
  repeat' (first
    | with_reducible assumption
    | with_reducible apply within_setFld (sub_of hw rfl)
    | with_reducible apply within_setReg (sub_of hw rfl)
    | with_reducible apply within_foldl
    | with_reducible apply within_foldl_pair
    | with_reducible exact within_refl _
    | with_reducible apply within_ite
    | with_reducible apply within_ite_pair
    | with_reducible exact Or.inl rfl
    | exact Or.inr (hw (by decide))
    | exact hw (by decide)
    | with_reducible refine within_pair (by assumption) ?_
    | (intro _ _ _; try dsimp only)
    | (intro _ _; try dsimp only)
    | split
    | with_reducible apply within_mk)

theorem within_cellBad {ks : List Comp} {s0 : State} {s : State} {c source} (hw : [.boot, .flash, .err] ⊆ ks) (h : s0.within ks s) :
    s0.within ks (State.cellBad s c source) := by
  unfold State.cellBad
  try dsimp only
  repeat' (first
    | with_reducible assumption
    | with_reducible apply within_setBoot (sub_of hw rfl)
    | with_reducible apply within_confirmFuse (sub_of hw rfl))

theorem within_readSet {ks : List Comp} {s0 : State} {s : State} {ok} (hw : [.err] ⊆ ks) (h : s0.within ks s) :
    s0.within ks (State.readSet s ok).1 := by
  unfold State.readSet
  try dsimp only
  repeat' (first
    | with_reducible assumption
    | with_reducible apply within_flashEvent (sub_of hw rfl)
    | with_reducible apply within_ite_pair)

theorem within_configCal {ks : List Comp} {s0 : State} {s : State} {r} (hw : [.regs, .flash, .err] ⊆ ks) (h : s0.within ks s) :
    s0.within ks (State.configCal s r) := by
  unfold State.configCal
  try dsimp only
  repeat' (first
    | with_reducible assumption
    | with_reducible apply within_readSet (sub_of hw rfl)
    | with_reducible apply within_setFld (sub_of hw rfl)
    | with_reducible apply within_foldl
    | with_reducible apply within_foldl_pair
    | with_reducible exact within_refl _
    | with_reducible apply within_ite
    | with_reducible apply within_ite_pair
    | with_reducible exact Or.inl rfl
    | exact Or.inr (hw (by decide))
    | exact hw (by decide)
    | with_reducible refine within_pair (by assumption) ?_
    | (intro _ _ _; try dsimp only)
    | (intro _ _; try dsimp only)
    | split
    | with_reducible apply within_mk)

theorem within_configDone {ks : List Comp} {s0 : State} {s : State} (hw : [.regs, .boot, .flash] ⊆ ks) (h : s0.within ks s) :
    s0.within ks (State.configDone s) := by
  unfold State.configDone
  try dsimp only
  repeat' (first
    | with_reducible assumption
    | with_reducible apply within_setBoot (sub_of hw rfl)
    | with_reducible apply within_phaseTime (sub_of hw rfl)
    | with_reducible apply within_keepStore (sub_of hw rfl)
    | with_reducible apply within_foldl
    | with_reducible apply within_foldl_pair
    | with_reducible exact within_refl _
    | with_reducible apply within_ite
    | with_reducible apply within_ite_pair
    | with_reducible exact Or.inl rfl
    | exact Or.inr (hw (by decide))
    | exact hw (by decide)
    | with_reducible refine within_pair (by assumption) ?_
    | (intro _ _ _; try dsimp only)
    | (intro _ _; try dsimp only)
    | split
    | with_reducible apply within_mk)

theorem within_sfdpCheck {ks : List Comp} {s0 : State} {s : State} {ts} (hw : [.flash, .err] ⊆ ks) (h : s0.within ks s) :
    s0.within ks (State.sfdpCheck s ts) := by
  unfold State.sfdpCheck
  try dsimp only
  repeat' (first
    | with_reducible assumption
    | with_reducible apply within_dropDevs (sub_of hw rfl)
    | with_reducible apply within_foldl
    | with_reducible apply within_foldl_pair
    | with_reducible exact within_refl _
    | with_reducible apply within_ite
    | with_reducible apply within_ite_pair
    | with_reducible exact Or.inl rfl
    | exact Or.inr (hw (by decide))
    | exact hw (by decide)
    | with_reducible refine within_pair (by assumption) ?_
    | (intro _ _ _; try dsimp only)
    | (intro _ _; try dsimp only)
    | split
    | with_reducible apply within_mk)

theorem within_repairCopies {ks : List Comp} {s0 : State} {s : State} {bad} (hw : [.flash, .err] ⊆ ks) (h : s0.within ks s) :
    s0.within ks (State.repairCopies s bad) := by
  unfold State.repairCopies
  try dsimp only
  repeat' (first
    | with_reducible assumption
    | with_reducible exact Or.inl rfl
    | exact Or.inr (hw (by decide))
    | exact hw (by decide)
    | with_reducible apply within_mk)

theorem within_licCount {ks : List Comp} {s0 : State} {s : State} (hw : [.regs] ⊆ ks) (h : s0.within ks s) :
    s0.within ks (State.licCount s) := by
  unfold State.licCount
  try dsimp only
  repeat' (first
    | with_reducible assumption
    | with_reducible apply within_setFld (sub_of hw rfl))

theorem within_readLicences {ks : List Comp} {s0 : State} {s : State} {bad} (hw : [.regs, .flash, .err] ⊆ ks) (h : s0.within ks s) :
    s0.within ks (State.readLicences s bad) := by
  unfold State.readLicences
  try dsimp only
  repeat' (first
    | with_reducible assumption
    | with_reducible apply within_raise (sub_of hw rfl)
    | with_reducible apply within_licCount (sub_of hw rfl)
    | with_reducible apply within_setReg (sub_of hw rfl)
    | with_reducible apply within_foldl
    | with_reducible exact Or.inl rfl
    | exact Or.inr (hw (by decide))
    | exact hw (by decide)
    | (intro _ _ _; try dsimp only)
    | (intro _ _; try dsimp only)
    | split
    | with_reducible apply within_mk)

theorem within_readRmap {ks : List Comp} {s0 : State} {s : State} {bad} (hw : [.flash, .err] ⊆ ks) (h : s0.within ks s) :
    s0.within ks (State.readRmap s bad) := by
  unfold State.readRmap
  try dsimp only
  repeat' (first
    | with_reducible assumption
    | with_reducible apply within_raise (sub_of hw rfl)
    | with_reducible apply within_foldl
    | with_reducible apply within_ite
    | with_reducible exact Or.inl rfl
    | exact Or.inr (hw (by decide))
    | exact hw (by decide)
    | (intro _ _ _; try dsimp only)
    | (intro _ _; try dsimp only)
    | split
    | with_reducible apply within_mk)

theorem within_readCollectors {ks : List Comp} {s0 : State} {s : State} {ok} (hw : [.err] ⊆ ks) (h : s0.within ks s) :
    s0.within ks (State.readCollectors s ok) := by
  unfold State.readCollectors
  try dsimp only
  repeat' (first
    | with_reducible assumption
    | with_reducible apply within_foldl
    | with_reducible apply within_foldl_pair
    | with_reducible exact within_refl _
    | with_reducible apply within_ite
    | with_reducible apply within_ite_pair
    | with_reducible exact Or.inl rfl
    | exact Or.inr (hw (by decide))
    | exact hw (by decide)
    | with_reducible refine within_pair (by assumption) ?_
    | (intro _ _ _; try dsimp only)
    | (intro _ _; try dsimp only)
    | split
    | with_reducible apply within_mk)

theorem within_configSets {ks : List Comp} {s0 : State} {s : State} {r} (hw : [.regs, .band, .flash, .err] ⊆ ks) (h : s0.within ks s) :
    s0.within ks (State.configSets s r) := by
  unfold State.configSets
  try dsimp only
  repeat' (first
    | with_reducible assumption
    | with_reducible apply within_readSet (sub_of hw rfl)
    | with_reducible apply within_configCal (sub_of hw rfl)
    | with_reducible apply within_readCollectors (sub_of hw rfl)
    | with_reducible apply within_applyConfig (sub_of hw rfl)
    | with_reducible apply within_foldl
    | with_reducible apply within_foldl_pair
    | with_reducible exact within_refl _
    | with_reducible apply within_ite
    | with_reducible apply within_ite_pair
    | with_reducible exact Or.inl rfl
    | exact Or.inr (hw (by decide))
    | exact hw (by decide)
    | with_reducible refine within_pair (by assumption) ?_
    | (intro _ _ _; try dsimp only)
    | (intro _ _; try dsimp only)
    | split
    | with_reducible apply within_mk)

theorem within_readBboxCnt {ks : List Comp} {s0 : State} {s : State} {bad} (hw : [.regs] ⊆ ks) (h : s0.within ks s) :
    s0.within ks (State.readBboxCnt s bad) := by
  unfold State.readBboxCnt
  try dsimp only
  repeat' (first
    | with_reducible assumption
    | with_reducible apply within_setFld (sub_of hw rfl)
    | with_reducible apply within_foldl
    | with_reducible apply within_foldl_pair
    | with_reducible exact within_refl _
    | with_reducible apply within_ite
    | with_reducible apply within_ite_pair
    | with_reducible exact Or.inl rfl
    | exact Or.inr (hw (by decide))
    | exact hw (by decide)
    | with_reducible refine within_pair (by assumption) ?_
    | (intro _ _ _; try dsimp only)
    | (intro _ _; try dsimp only)
    | split
    | with_reducible apply within_mk)

theorem within_readCounters {ks : List Comp} {s0 : State} {s : State} {r} (hw : [.regs, .flash, .free] ⊆ ks) (h : s0.within ks s) :
    s0.within ks (State.readCounters s r) := by
  unfold State.readCounters
  try dsimp only
  repeat' (first
    | with_reducible assumption
    | with_reducible apply within_fresh (sub_of hw rfl)
    | with_reducible apply within_setReg (sub_of hw rfl)
    | with_reducible apply within_ctrWrite (sub_of hw rfl)
    | with_reducible apply within_readBboxCnt (sub_of hw rfl)
    | with_reducible apply within_ite
    | with_reducible exact Or.inl rfl
    | exact Or.inr (hw (by decide))
    | exact hw (by decide)
    | split
    | with_reducible apply within_mk)

theorem within_configRead {ks : List Comp} {s0 : State} {s : State} {r} (hw : [.regs, .band, .boot, .flash, .err, .free] ⊆ ks) (h : s0.within ks s) :
    s0.within ks (State.configRead s r) := by
  unfold State.configRead
  try dsimp only
  repeat' (first
    | with_reducible assumption
    | with_reducible apply within_sfdpCheck (sub_of hw rfl)
    | with_reducible apply within_configDone (sub_of hw rfl)
    | with_reducible apply within_repairCopies (sub_of hw rfl)
    | with_reducible apply within_readLicences (sub_of hw rfl)
    | with_reducible apply within_readRmap (sub_of hw rfl)
    | with_reducible apply within_configSets (sub_of hw rfl)
    | with_reducible apply within_readCounters (sub_of hw rfl)
    | with_reducible apply within_foldl
    | with_reducible apply within_foldl_pair
    | with_reducible exact within_refl _
    | with_reducible apply within_ite
    | with_reducible apply within_ite_pair
    | with_reducible exact Or.inl rfl
    | exact Or.inr (hw (by decide))
    | exact hw (by decide)
    | with_reducible refine within_pair (by assumption) ?_
    | (intro _ _ _; try dsimp only)
    | (intro _ _; try dsimp only)
    | split
    | with_reducible apply within_mk)

theorem within_devTrain {ks : List Comp} {s0 : State} {s : State} {d n ts} (hw : [.regs, .flash, .err] ⊆ ks) (h : s0.within ks s) :
    s0.within ks (State.devTrain s d n ts) := by
  unfold State.devTrain
  try dsimp only
  repeat' (first
    | with_reducible assumption
    | with_reducible apply within_setFld (sub_of hw rfl)
    | with_reducible apply within_setReg (sub_of hw rfl)
    | with_reducible apply within_memRaise (sub_of hw rfl)
    | with_reducible apply within_confirmFuse (sub_of hw rfl)
    | with_reducible apply within_foldl
    | with_reducible apply within_foldl_pair
    | with_reducible exact within_refl _
    | with_reducible apply within_ite
    | with_reducible apply within_ite_pair
    | with_reducible exact Or.inl rfl
    | exact Or.inr (hw (by decide))
    | exact hw (by decide)
    | with_reducible refine within_pair (by assumption) ?_
    | (intro _ _ _; try dsimp only)
    | (intro _ _; try dsimp only)
    | split
    | with_reducible apply within_mk)

theorem within_deviceServes {ks : List Comp} {s0 : State} {s : State} {d n} (hw : [.regs, .mcs] ⊆ ks) (h : s0.within ks s) :
    s0.within ks (State.deviceServes s d n) := by
  unfold State.deviceServes
  try dsimp only
  repeat' (first
    | with_reducible assumption
    | with_reducible apply within_setMc (sub_of hw rfl)
    | with_reducible apply within_setFld (sub_of hw rfl)
    | with_reducible apply within_foldl
    | with_reducible apply within_foldl_pair
    | with_reducible exact within_refl _
    | with_reducible apply within_ite
    | with_reducible apply within_ite_pair
    | with_reducible exact Or.inl rfl
    | exact Or.inr (hw (by decide))
    | exact hw (by decide)
    | with_reducible refine within_pair (by assumption) ?_
    | (intro _ _ _; try dsimp only)
    | (intro _ _; try dsimp only)
    | split
    | with_reducible apply within_mk)

theorem within_startPhase {ks : List Comp} {s0 : State} {s : State} {p} (hw : [.regs, .boot] ⊆ ks) (h : s0.within ks s) :
    s0.within ks (State.startPhase s p) := by
  unfold State.startPhase
  try dsimp only
  repeat' (first
    | with_reducible assumption
    | with_reducible apply within_setBoot (sub_of hw rfl)
    | with_reducible apply within_setFld (sub_of hw rfl))

theorem within_endPhase {ks : List Comp} {s0 : State} {s : State} {p} (hw : [.regs, .boot] ⊆ ks) (h : s0.within ks s) :
    s0.within ks (State.endPhase s p) := by
  unfold State.endPhase
  try dsimp only
  repeat' (first
    | with_reducible assumption
    | with_reducible apply within_startPhase (sub_of hw rfl)
    | with_reducible apply within_phaseTime (sub_of hw rfl))

theorem within_dieDone {ks : List Comp} {s0 : State} {s : State} {p} (hw : [.regs, .boot] ⊆ ks) (h : s0.within ks s) :
    s0.within ks (State.dieDone s p) := by
  unfold State.dieDone
  try dsimp only
  repeat' (first
    | with_reducible assumption
    | with_reducible apply within_setBoot (sub_of hw rfl)
    | with_reducible apply within_endPhase (sub_of hw rfl)
    | with_reducible apply within_ite)

theorem within_dieSupply {ks : List Comp} {s0 : State} {s : State} {d} (hw : [.regs] ⊆ ks) (h : s0.within ks s) :
    s0.within ks (State.dieSupply s d) := by
  unfold State.dieSupply
  try dsimp only
  repeat' (first
    | with_reducible assumption
    | with_reducible apply within_setAll (sub_of hw rfl)
    | with_reducible apply within_setFld (sub_of hw rfl)
    | with_reducible apply within_foldl
    | with_reducible apply within_foldl_pair
    | with_reducible exact within_refl _
    | with_reducible apply within_ite
    | with_reducible apply within_ite_pair
    | with_reducible exact Or.inl rfl
    | exact Or.inr (hw (by decide))
    | exact hw (by decide)
    | with_reducible refine within_pair (by assumption) ?_
    | (intro _ _ _; try dsimp only)
    | (intro _ _; try dsimp only)
    | split
    | with_reducible apply within_mk)

theorem within_fuseRegs {ks : List Comp} {s0 : State} {s : State} {d} (hw : [.regs] ⊆ ks) (h : s0.within ks s) :
    s0.within ks (State.fuseRegs s d) := by
  unfold State.fuseRegs
  try dsimp only
  repeat' (first
    | with_reducible assumption
    | with_reducible apply within_setReg (sub_of hw rfl))

theorem within_portPower {ks : List Comp} {s0 : State} {s : State} {d} (hw : [.hports] ⊆ ks) (h : s0.within ks s) :
    s0.within ks (State.portPower s d) := by
  unfold State.portPower
  try dsimp only
  repeat' (first
    | with_reducible assumption
    | with_reducible apply within_setHport (sub_of hw rfl)
    | with_reducible apply within_foldl
    | with_reducible apply within_ite
    | (intro _ _ _; try dsimp only)
    | (intro _ _; try dsimp only))

theorem within_phasesBack {ks : List Comp} {s0 : State} {s : State} {d} (hw : [.regs] ⊆ ks) (h : s0.within ks s) :
    s0.within ks (State.phasesBack s d) := by
  unfold State.phasesBack
  try dsimp only
  repeat' (first
    | with_reducible assumption
    | with_reducible apply within_setFld (sub_of hw rfl)
    | with_reducible apply within_setReg (sub_of hw rfl)
    | with_reducible apply within_foldl
    | with_reducible apply within_foldl_pair
    | with_reducible exact within_refl _
    | with_reducible apply within_ite
    | with_reducible apply within_ite_pair
    | with_reducible exact Or.inl rfl
    | exact Or.inr (hw (by decide))
    | exact hw (by decide)
    | with_reducible refine within_pair (by assumption) ?_
    | (intro _ _ _; try dsimp only)
    | (intro _ _; try dsimp only)
    | split
    | with_reducible apply within_mk)

theorem within_railStart {ks : List Comp} {s0 : State} {s : State} {r rail bad} (hw : [.regs, .flash, .err] ⊆ ks) (h : s0.within ks s) :
    s0.within ks (State.railStart s r rail bad).1 := by
  unfold State.railStart
  try dsimp only
  repeat' (first
    | with_reducible assumption
    | with_reducible apply within_setFld (sub_of hw rfl)
    | with_reducible apply within_confirmFuse (sub_of hw rfl)
    | with_reducible apply within_raiseSev (sub_of hw rfl)
    | with_reducible apply within_raise (sub_of hw rfl)
    | with_reducible apply within_foldl
    | with_reducible apply within_ite
    | (intro _ _ _; try dsimp only)
    | (intro _ _; try dsimp only))

theorem within_regionStart {ks : List Comp} {s0 : State} {s : State} {r bad} (hw : [.regs, .regions, .flash, .err] ⊆ ks) (h : s0.within ks s) :
    s0.within ks (State.regionStart s r bad) := by
  unfold State.regionStart
  try dsimp only
  repeat' (first
    | with_reducible assumption
    | with_reducible apply within_railStart (sub_of hw rfl)
    | with_reducible apply within_railOn (sub_of hw rfl)
    | with_reducible apply within_setRegion (sub_of hw rfl)
    | with_reducible apply within_ite
    | split)

theorem within_dieUp {ks : List Comp} {s0 : State} {s : State} {d slicesBad} (hw : [.regs, .regions, .dies, .hports, .boot, .flash, .err] ⊆ ks) (h : s0.within ks s) :
    s0.within ks (State.dieUp s d slicesBad) := by
  unfold State.dieUp
  try dsimp only
  repeat' (first
    | with_reducible assumption
    | with_reducible apply within_setDie (sub_of hw rfl)
    | with_reducible apply within_dieSupply (sub_of hw rfl)
    | with_reducible apply within_fuseRegs (sub_of hw rfl)
    | with_reducible apply within_portPower (sub_of hw rfl)
    | with_reducible apply within_phasesBack (sub_of hw rfl)
    | with_reducible apply within_setBoot (sub_of hw rfl)
    | with_reducible apply within_setFld (sub_of hw rfl)
    | with_reducible apply within_regionStart (sub_of hw rfl)
    | with_reducible apply within_foldl
    | with_reducible apply within_ite
    | (intro _ _ _; try dsimp only)
    | (intro _ _; try dsimp only))

theorem within_powerSettle {ks : List Comp} {s0 : State} {s : State} (hw : [.regs, .boot] ⊆ ks) (h : s0.within ks s) :
    s0.within ks (State.powerSettle s) := by
  unfold State.powerSettle
  try dsimp only
  repeat' (first
    | with_reducible assumption
    | with_reducible apply within_endPhase (sub_of hw rfl)
    | with_reducible apply within_foldl
    | with_reducible apply within_foldl_pair
    | with_reducible exact within_refl _
    | with_reducible apply within_ite
    | with_reducible apply within_ite_pair
    | with_reducible exact Or.inl rfl
    | exact Or.inr (hw (by decide))
    | exact hw (by decide)
    | with_reducible refine within_pair (by assumption) ?_
    | (intro _ _ _; try dsimp only)
    | (intro _ _; try dsimp only)
    | split
    | with_reducible apply within_mk)

theorem within_diePowerUp {ks : List Comp} {s0 : State} {s : State} {d ok ctlOk slicesBad} (hw : [.regs, .regions, .dies, .hports, .boot, .flash, .err] ⊆ ks) (h : s0.within ks s) :
    s0.within ks (State.diePowerUp s d ok ctlOk slicesBad) := by
  unfold State.diePowerUp
  try dsimp only
  repeat' (first
    | with_reducible assumption
    | with_reducible apply within_startPhase (sub_of hw rfl)
    | with_reducible apply within_setAll (sub_of hw rfl)
    | with_reducible apply within_excludeDie (sub_of hw rfl)
    | with_reducible apply within_dieUp (sub_of hw rfl)
    | with_reducible apply within_powerSettle (sub_of hw rfl)
    | with_reducible apply within_setBoot (sub_of hw rfl)
    | with_reducible apply within_foldl
    | with_reducible apply within_foldl_pair
    | with_reducible exact within_refl _
    | with_reducible apply within_ite
    | with_reducible apply within_ite_pair
    | with_reducible exact Or.inl rfl
    | exact Or.inr (hw (by decide))
    | exact hw (by decide)
    | with_reducible refine within_pair (by assumption) ?_
    | (intro _ _ _; try dsimp only)
    | (intro _ _; try dsimp only)
    | split
    | with_reducible apply within_mk)

theorem within_disableCrossing {ks : List Comp} {s0 : State} {s : State} {d side c} (hw : [.regs, .cells, .boot, .flash, .err] ⊆ ks) (h : s0.within ks s) :
    s0.within ks (State.disableCrossing s d side c) := by
  unfold State.disableCrossing
  try dsimp only
  repeat' (first
    | with_reducible assumption
    | with_reducible apply within_crossShows (sub_of hw rfl)
    | with_reducible apply within_raise (sub_of hw rfl)
    | with_reducible apply within_incSat (sub_of hw rfl)
    | with_reducible apply within_confirmFuse (sub_of hw rfl)
    | with_reducible apply within_failCrossing (sub_of hw rfl)
    | with_reducible apply within_foldl
    | with_reducible apply within_foldl_pair
    | with_reducible exact within_refl _
    | with_reducible apply within_ite
    | with_reducible apply within_ite_pair
    | with_reducible exact Or.inl rfl
    | exact Or.inr (hw (by decide))
    | exact hw (by decide)
    | with_reducible refine within_pair (by assumption) ?_
    | (intro _ _ _; try dsimp only)
    | (intro _ _; try dsimp only)
    | split
    | with_reducible apply within_mk)

theorem within_excludeAll {ks : List Comp} {s0 : State} {s : State} {faults} (hw : [.regs, .hports, .err] ⊆ ks) (h : s0.within ks s) :
    s0.within ks (State.excludeAll s faults) := by
  unfold State.excludeAll
  try dsimp only
  repeat' (first
    | with_reducible assumption
    | with_reducible apply within_excludeDie (sub_of hw rfl)
    | with_reducible apply within_boundaryExclude (sub_of hw rfl)
    | with_reducible apply within_foldl
    | with_reducible apply within_ite
    | (intro _ _ _; try dsimp only)
    | (intro _ _; try dsimp only)
    | split)

theorem within_excludeFound {ks : List Comp} {s0 : State} {s : State} (hw : [.regs, .hports, .err] ⊆ ks) (h : s0.within ks s) :
    s0.within ks (State.excludeFound s) := by
  unfold State.excludeFound
  try dsimp only
  repeat' (first
    | with_reducible assumption
    | with_reducible apply within_excludeDie (sub_of hw rfl)
    | with_reducible apply within_foldl
    | with_reducible apply within_foldl_pair
    | with_reducible exact within_refl _
    | with_reducible apply within_ite
    | with_reducible apply within_ite_pair
    | with_reducible exact Or.inl rfl
    | exact Or.inr (hw (by decide))
    | exact hw (by decide)
    | with_reducible refine within_pair (by assumption) ?_
    | (intro _ _ _; try dsimp only)
    | (intro _ _; try dsimp only)
    | split
    | with_reducible apply within_mk)

theorem within_takeOver {ks : List Comp} {s0 : State} {s : State} (hw : [.regs, .cells, .regions, .dies, .mcs, .pend13, .resp, .net, .panels, .jobs, .load, .ctxs, .tags, .fabQ, .fabWait, .fports, .rings, .hports, .outReads, .band, .time, .boot, .flash, .err] ⊆ ks) (h : s0.within ks s) :
    s0.within ks (State.takeOver s) := by
  unfold State.takeOver
  try dsimp only
  repeat' (first
    | with_reducible assumption
    | with_reducible apply within_setDie (sub_of hw rfl)
    | with_reducible apply within_setFld (sub_of hw rfl)
    | with_reducible apply within_raise (sub_of hw rfl)
    | with_reducible apply within_beginCold (sub_of hw rfl)
    | with_reducible apply within_ite)

theorem within_failover {ks : List Comp} {s0 : State} {s : State} (hw : [.regs, .cells, .regions, .dies, .mcs, .pend13, .resp, .net, .panels, .jobs, .load, .ctxs, .tags, .fabQ, .fabWait, .fports, .rings, .hports, .outReads, .band, .time, .boot, .flash, .err] ⊆ ks) (h : s0.within ks s) :
    s0.within ks (State.failover s) := by
  unfold State.failover
  try dsimp only
  repeat' (first
    | with_reducible assumption
    | with_reducible apply within_takeOver (sub_of hw rfl)
    | with_reducible apply within_ite)

theorem within_recoveryPorts {ks : List Comp} {s0 : State} {s : State} (hw : [.hports] ⊆ ks) (h : s0.within ks s) :
    s0.within ks (State.recoveryPorts s) := by
  unfold State.recoveryPorts
  try dsimp only
  repeat' (first
    | with_reducible assumption
    | with_reducible apply within_setHport (sub_of hw rfl)
    | with_reducible apply within_foldl
    | with_reducible apply within_foldl_pair
    | with_reducible exact within_refl _
    | with_reducible apply within_ite
    | with_reducible apply within_ite_pair
    | with_reducible exact Or.inl rfl
    | exact Or.inr (hw (by decide))
    | exact hw (by decide)
    | with_reducible refine within_pair (by assumption) ?_
    | (intro _ _ _; try dsimp only)
    | (intro _ _; try dsimp only)
    | split
    | with_reducible apply within_mk)

theorem within_firmwareVerify {ks : List Comp} {s0 : State} {s : State} {sfdp keysOk objs} (hw : [.regs, .hports, .boot, .flash, .err] ⊆ ks) (h : s0.within ks s) :
    s0.within ks (State.firmwareVerify s sfdp keysOk objs) := by
  unfold State.firmwareVerify
  try dsimp only
  repeat' (first
    | with_reducible assumption
    | with_reducible apply within_sfdpCheck (sub_of hw rfl)
    | with_reducible apply within_raise (sub_of hw rfl)
    | with_reducible apply within_keepStore (sub_of hw rfl)
    | with_reducible apply within_endPhase (sub_of hw rfl)
    | with_reducible apply within_setReg (sub_of hw rfl)
    | with_reducible apply within_setFld (sub_of hw rfl)
    | with_reducible apply within_recoveryPorts (sub_of hw rfl)
    | with_reducible apply within_readCollectors (sub_of hw rfl)
    | with_reducible apply within_foldl
    | with_reducible apply within_ite
    | with_reducible exact Or.inl rfl
    | exact Or.inr (hw (by decide))
    | exact hw (by decide)
    | (intro _ _ _; try dsimp only)
    | (intro _ _; try dsimp only)
    | split
    | with_reducible apply within_mk)

theorem within_flashWrite {ks : List Comp} {s0 : State} {s : State} {ok0 ok1} (hw : [.flash, .err] ⊆ ks) (h : s0.within ks s) :
    s0.within ks (State.flashWrite s ok0 ok1) := by
  unfold State.flashWrite
  try dsimp only
  repeat' (first
    | with_reducible assumption
    | with_reducible apply within_dropDevs (sub_of hw rfl)
    | with_reducible apply within_ctrWrite (sub_of hw rfl)
    | with_reducible apply within_keepStore (sub_of hw rfl)
    | with_reducible apply within_foldl
    | with_reducible apply within_foldl_pair
    | with_reducible exact within_refl _
    | with_reducible apply within_ite
    | with_reducible apply within_ite_pair
    | with_reducible exact Or.inl rfl
    | exact Or.inr (hw (by decide))
    | exact hw (by decide)
    | with_reducible refine within_pair (by assumption) ?_
    | (intro _ _ _; try dsimp only)
    | (intro _ _; try dsimp only)
    | split
    | with_reducible apply within_mk)

theorem within_promoteAll {ks : List Comp} {s0 : State} {s : State} (hw : [.flash, .err] ⊆ ks) (h : s0.within ks s) :
    s0.within ks (State.promoteAll s) := by
  unfold State.promoteAll
  try dsimp only
  repeat' (first
    | with_reducible assumption
    | with_reducible apply within_raise (sub_of hw rfl)
    | with_reducible apply within_foldl
    | with_reducible exact Or.inl rfl
    | exact Or.inr (hw (by decide))
    | exact hw (by decide)
    | with_reducible apply within_mk
    | (intro _ _ _; try dsimp only)
    | (intro _ _; try dsimp only))

theorem within_mergeCells {ks : List Comp} {s0 : State} {s : State} (hw : [.boot] ⊆ ks) (h : s0.within ks s) :
    s0.within ks (State.mergeCells s) := by
  unfold State.mergeCells
  try dsimp only
  repeat' (first
    | with_reducible assumption
    | with_reducible apply within_setBoot (sub_of hw rfl))

theorem within_reportNoCanvas {ks : List Comp} {s0 : State} {s : State} (hw : [.boot, .err, .free] ⊆ ks) (h : s0.within ks s) :
    s0.within ks (State.reportNoCanvas s) := by
  unfold State.reportNoCanvas
  try dsimp only
  repeat' (first
    | with_reducible assumption
    | with_reducible apply within_setBoot (sub_of hw rfl)
    | with_reducible apply within_raise (sub_of hw rfl)
    | with_reducible apply within_fresh (sub_of hw rfl)
    | with_reducible apply within_foldl
    | with_reducible apply within_foldl_pair
    | with_reducible exact within_refl _
    | with_reducible apply within_ite
    | with_reducible apply within_ite_pair
    | with_reducible exact Or.inl rfl
    | exact Or.inr (hw (by decide))
    | exact hw (by decide)
    | with_reducible refine within_pair (by assumption) ?_
    | (intro _ _ _; try dsimp only)
    | (intro _ _; try dsimp only)
    | split
    | with_reducible apply within_mk)

theorem within_settleDie {ks : List Comp} {s0 : State} {s : State} {r d} (hw : [.regs, .cells, .regions, .band] ⊆ ks) (h : s0.within ks s) :
    s0.within ks (State.settleDie s r d) := by
  unfold State.settleDie
  try dsimp only
  repeat' (first
    | with_reducible assumption
    | with_reducible apply within_fullOff (sub_of hw rfl)
    | with_reducible apply within_setFld (sub_of hw rfl)
    | with_reducible apply within_computeOff (sub_of hw rfl)
    | with_reducible apply within_foldl
    | with_reducible apply within_ite
    | (intro _ _ _; try dsimp only)
    | (intro _ _; try dsimp only))

theorem within_publishCanvas {ks : List Comp} {s0 : State} {s : State} {r} (hw : [.regs] ⊆ ks) (h : s0.within ks s) :
    s0.within ks (State.publishCanvas s r) := by
  unfold State.publishCanvas
  try dsimp only
  repeat' (first
    | with_reducible assumption
    | with_reducible apply within_incWrap (sub_of hw rfl)
    | with_reducible apply within_setReg (sub_of hw rfl))

theorem within_skipDie {ks : List Comp} {s0 : State} {s : State} {d} (hw : [.regs, .cells] ⊆ ks) (h : s0.within ks s) :
    s0.within ks (State.skipDie s d) := by
  unfold State.skipDie
  try dsimp only
  repeat' (first
    | with_reducible assumption
    | with_reducible apply within_holdRow (sub_of hw rfl)
    | with_reducible apply within_writeSkips (sub_of hw rfl)
    | with_reducible apply within_fuseRegs (sub_of hw rfl)
    | with_reducible apply within_skipCounts (sub_of hw rfl)
    | with_reducible apply within_foldl
    | (intro _ _ _; try dsimp only)
    | (intro _ _; try dsimp only))

theorem within_publishGddr {ks : List Comp} {s0 : State} {s : State} (hw : [.regs, .boot] ⊆ ks) (h : s0.within ks s) :
    s0.within ks (State.publishGddr s) := by
  unfold State.publishGddr
  try dsimp only
  repeat' (first
    | with_reducible assumption
    | with_reducible apply within_setFld (sub_of hw rfl)
    | with_reducible apply within_setReg (sub_of hw rfl)
    | with_reducible apply within_setBoot (sub_of hw rfl)
    | with_reducible apply within_foldl
    | (intro _ _ _; try dsimp only)
    | (intro _ _; try dsimp only))

theorem within_fuseMerge {ks : List Comp} {s0 : State} {s : State} {faults} (hw : [.regs, .cells, .regions, .hports, .band, .boot, .flash, .err, .free] ⊆ ks) (h : s0.within ks s) :
    s0.within ks (State.fuseMerge s faults) := by
  unfold State.fuseMerge
  try dsimp only
  repeat' (first
    | with_reducible assumption
    | with_reducible apply within_excludeAll (sub_of hw rfl)
    | with_reducible apply within_excludeFound (sub_of hw rfl)
    | with_reducible apply within_promoteAll (sub_of hw rfl)
    | with_reducible apply within_mergeCells (sub_of hw rfl)
    | with_reducible apply within_reportNoCanvas (sub_of hw rfl)
    | with_reducible apply within_settleDie (sub_of hw rfl)
    | with_reducible apply within_publishCanvas (sub_of hw rfl)
    | with_reducible apply within_skipDie (sub_of hw rfl)
    | with_reducible apply within_publishGddr (sub_of hw rfl)
    | with_reducible apply within_endPhase (sub_of hw rfl)
    | with_reducible apply within_setBoot (sub_of hw rfl)
    | with_reducible apply within_foldl
    | with_reducible apply within_ite
    | (intro _ _ _; try dsimp only)
    | (intro _ _; try dsimp only)
    | split)

theorem within_keptCheck {ks : List Comp} {s0 : State} {s : State} (hw : [.regs, .mem, .mcs, .err] ⊆ ks) (h : s0.within ks s) :
    s0.within ks (State.keptCheck s) := by
  unfold State.keptCheck
  try dsimp only
  repeat' (first
    | with_reducible assumption
    | with_reducible apply within_readHalves (sub_of hw rfl)
    | with_reducible apply within_foldl
    | with_reducible apply within_foldl_pair
    | with_reducible exact within_refl _
    | with_reducible apply within_ite
    | with_reducible apply within_ite_pair
    | with_reducible exact Or.inl rfl
    | exact Or.inr (hw (by decide))
    | exact hw (by decide)
    | with_reducible refine within_pair (by assumption) ?_
    | (intro _ _ _; try dsimp only)
    | (intro _ _; try dsimp only)
    | split
    | with_reducible apply within_mk)

theorem within_primeGddr {ks : List Comp} {s0 : State} {s : State} (hw : [.mem] ⊆ ks) (h : s0.within ks s) :
    s0.within ks (State.primeGddr s) := by
  unfold State.primeGddr
  try dsimp only
  repeat' (first
    | with_reducible assumption
    | with_reducible apply within_mk_mem
    | with_reducible exact Or.inl rfl
    | exact Or.inr (hw (by decide))
    | exact hw (by decide))

theorem within_gddrPriming {ks : List Comp} {s0 : State} {s : State} (hw : [.regs, .mem, .mcs, .boot, .err] ⊆ ks) (h : s0.within ks s) :
    s0.within ks (State.gddrPriming s) := by
  unfold State.gddrPriming
  try dsimp only
  repeat' (first
    | with_reducible assumption
    | with_reducible apply within_keptCheck (sub_of hw rfl)
    | with_reducible apply within_primeGddr (sub_of hw rfl)
    | with_reducible apply within_setFld (sub_of hw rfl)
    | with_reducible apply within_endPhase (sub_of hw rfl)
    | with_reducible apply within_deviceServes (sub_of hw rfl)
    | with_reducible apply within_foldl
    | with_reducible apply within_ite
    | (intro _ _ _; try dsimp only)
    | (intro _ _; try dsimp only))

theorem within_heartbeat {ks : List Comp} {s0 : State} {s : State} (hw : [.boot, .out] ⊆ ks) (h : s0.within ks s) :
    s0.within ks (State.heartbeat s) := by
  unfold State.heartbeat
  try dsimp only
  repeat' (first
    | with_reducible assumption
    | with_reducible apply within_setBoot (sub_of hw rfl)
    | with_reducible apply within_emit (sub_of hw rfl)
    | with_reducible apply within_ite)

theorem within_portStart {ks : List Comp} {s0 : State} {s : State} {d p lanesBad credits} (hw : [.regs, .ctxs, .tags, .fports, .flash, .err, .out] ⊆ ks) (h : s0.within ks s) :
    s0.within ks (State.portStart s d p lanesBad credits) := by
  unfold State.portStart
  try dsimp only
  repeat' (first
    | with_reducible assumption
    | with_reducible apply within_trainDone (sub_of hw rfl)
    | with_reducible apply within_trainPort (sub_of hw rfl)
    | with_reducible apply within_setFld (sub_of hw rfl)
    | with_reducible apply within_ite)

theorem within_linkTraining {ks : List Comp} {s0 : State} {s : State} {ts lanesBad credits} (hw : [.regs, .ctxs, .tags, .fports, .boot, .flash, .err, .out] ⊆ ks) (h : s0.within ks s) :
    s0.within ks (State.linkTraining s ts lanesBad credits) := by
  unfold State.linkTraining
  try dsimp only
  repeat' (first
    | with_reducible assumption
    | with_reducible apply within_devTrain (sub_of hw rfl)
    | with_reducible apply within_portStart (sub_of hw rfl)
    | with_reducible apply within_endPhase (sub_of hw rfl)
    | with_reducible apply within_foldl
    | with_reducible apply within_ite
    | (intro _ _ _; try dsimp only)
    | (intro _ _; try dsimp only))

theorem within_vote {ks : List Comp} {s0 : State} {s : State} {c n} (hw : [.regs, .boot, .flash, .err] ⊆ ks) (h : s0.within ks s) :
    s0.within ks (State.vote s c n) := by
  unfold State.vote
  try dsimp only
  repeat' (first
    | with_reducible assumption
    | with_reducible apply within_raise (sub_of hw rfl)
    | with_reducible apply within_incSat (sub_of hw rfl)
    | with_reducible apply within_cellBad (sub_of hw rfl)
    | with_reducible apply within_ite)

theorem within_wireFail {ks : List Comp} {s0 : State} {s : State} {d side c w} (hw : [.regs, .cells, .boot, .flash, .err] ⊆ ks) (h : s0.within ks s) :
    s0.within ks (State.wireFail s d side c w) := by
  unfold State.wireFail
  try dsimp only
  repeat' (first
    | with_reducible assumption
    | with_reducible apply within_setBoot (sub_of hw rfl)
    | with_reducible apply within_raise (sub_of hw rfl)
    | with_reducible apply within_incSat (sub_of hw rfl)
    | with_reducible apply within_confirmFuse (sub_of hw rfl)
    | with_reducible apply within_disableCrossing (sub_of hw rfl)
    | with_reducible apply within_ite)

theorem within_soakRetrain {ks : List Comp} {s0 : State} {s : State} {d side c raw} (hw : [.regs, .cells, .boot, .flash, .err] ⊆ ks) (h : s0.within ks s) :
    s0.within ks (State.soakRetrain s d side c raw) := by
  unfold State.soakRetrain
  try dsimp only
  repeat' (first
    | with_reducible assumption
    | with_reducible apply within_disableCrossing (sub_of hw rfl)
    | with_reducible apply within_foldl
    | with_reducible apply within_foldl_pair
    | with_reducible exact within_refl _
    | with_reducible apply within_ite
    | with_reducible apply within_ite_pair
    | with_reducible exact Or.inl rfl
    | exact Or.inr (hw (by decide))
    | exact hw (by decide)
    | with_reducible refine within_pair (by assumption) ?_
    | (intro _ _ _; try dsimp only)
    | (intro _ _; try dsimp only)
    | split
    | with_reducible apply within_mk)

theorem within_trainBegin {ks : List Comp} {s0 : State} {s : State} (hw : [.regs] ⊆ ks) (h : s0.within ks s) :
    s0.within ks (State.trainBegin s) := by
  unfold State.trainBegin
  try dsimp only
  repeat' (first
    | with_reducible assumption
    | with_reducible apply within_setFld (sub_of hw rfl)
    | with_reducible apply within_foldl
    | with_reducible apply within_foldl_pair
    | with_reducible exact within_refl _
    | with_reducible apply within_ite
    | with_reducible apply within_ite_pair
    | with_reducible exact Or.inl rfl
    | exact Or.inr (hw (by decide))
    | exact hw (by decide)
    | with_reducible refine within_pair (by assumption) ?_
    | (intro _ _ _; try dsimp only)
    | (intro _ _; try dsimp only)
    | split
    | with_reducible apply within_mk)

theorem within_primeRegions {ks : List Comp} {s0 : State} {s : State} (hw : [.regs, .mem, .cells, .regions] ⊆ ks) (h : s0.within ks s) :
    s0.within ks (State.primeRegions s) := by
  unfold State.primeRegions
  try dsimp only
  repeat' (first
    | with_reducible assumption
    | with_reducible apply within_regionUp (sub_of hw rfl)
    | with_reducible apply within_primeCell (sub_of hw rfl)
    | with_reducible apply within_foldl
    | with_reducible apply within_ite
    | (intro _ _ _; try dsimp only)
    | (intro _ _; try dsimp only))

theorem within_neighbourTest {ks : List Comp} {s0 : State} {s : State} {marchBad verdicts wiresBad retrain} (hw : [.regs, .mem, .cells, .regions, .boot, .flash, .err] ⊆ ks) (h : s0.within ks s) :
    s0.within ks (State.neighbourTest s marchBad verdicts wiresBad retrain) := by
  unfold State.neighbourTest
  try dsimp only
  repeat' (first
    | with_reducible assumption
    | with_reducible apply within_cellBad (sub_of hw rfl)
    | with_reducible apply within_vote (sub_of hw rfl)
    | with_reducible apply within_wireFail (sub_of hw rfl)
    | with_reducible apply within_soakRetrain (sub_of hw rfl)
    | with_reducible apply within_trainBegin (sub_of hw rfl)
    | with_reducible apply within_endPhase (sub_of hw rfl)
    | with_reducible apply within_primeRegions (sub_of hw rfl)
    | with_reducible apply within_foldl
    | with_reducible apply within_ite
    | (intro _ _ _; try dsimp only)
    | (intro _ _; try dsimp only))

theorem within_overrun {ks : List Comp} {s0 : State} {s : State} (hw : [.regs, .err] ⊆ ks) (h : s0.within ks s) :
    s0.within ks (State.overrun s) := by
  unfold State.overrun
  try dsimp only
  repeat' (first
    | with_reducible assumption
    | with_reducible apply within_raise (sub_of hw rfl)
    | with_reducible apply within_setFld (sub_of hw rfl)
    | with_reducible apply within_ite)

theorem within_pllFail {ks : List Comp} {s0 : State} {s : State} {d} (hw : [.regs, .hports, .err] ⊆ ks) (h : s0.within ks s) :
    s0.within ks (State.pllFail s d) := by
  unfold State.pllFail
  try dsimp only
  repeat' (first
    | with_reducible assumption
    | with_reducible apply within_absentSide (sub_of hw rfl)
    | with_reducible apply within_excludeDie (sub_of hw rfl)
    | with_reducible apply within_foldl
    | (intro _ _ _; try dsimp only)
    | (intro _ _; try dsimp only)
    | split)

theorem within_readSeeds {ks : List Comp} {s0 : State} {s : State} {d} (hw : [.regs] ⊆ ks) (h : s0.within ks s) :
    s0.within ks (State.readSeeds s d) := by
  unfold State.readSeeds
  try dsimp only
  repeat' (first
    | with_reducible assumption
    | with_reducible apply within_setFld (sub_of hw rfl)
    | with_reducible apply within_foldl
    | with_reducible apply within_foldl_pair
    | with_reducible exact within_refl _
    | with_reducible apply within_ite
    | with_reducible apply within_ite_pair
    | with_reducible exact Or.inl rfl
    | exact Or.inr (hw (by decide))
    | exact hw (by decide)
    | with_reducible refine within_pair (by assumption) ?_
    | (intro _ _ _; try dsimp only)
    | (intro _ _; try dsimp only)
    | split
    | with_reducible apply within_mk)

theorem within_pllCalibration {ks : List Comp} {s0 : State} {s : State} {d locked raw wiresBad} (hw : [.regs, .cells, .hports, .boot, .flash, .err] ⊆ ks) (h : s0.within ks s) :
    s0.within ks (State.pllCalibration s d locked raw wiresBad) := by
  unfold State.pllCalibration
  try dsimp only
  repeat' (first
    | with_reducible assumption
    | with_reducible apply within_pllFail (sub_of hw rfl)
    | with_reducible apply within_setReg (sub_of hw rfl)
    | with_reducible apply within_readSeeds (sub_of hw rfl)
    | with_reducible apply within_calDie (sub_of hw rfl)
    | with_reducible apply within_wireFail (sub_of hw rfl)
    | with_reducible apply within_dieDone (sub_of hw rfl)
    | with_reducible apply within_calDone (sub_of hw rfl)
    | with_reducible apply within_foldl
    | with_reducible apply within_ite
    | (intro _ _ _; try dsimp only)
    | (intro _ _; try dsimp only))

theorem within_primeAll {ks : List Comp} {s0 : State} {s : State} (hw : [.regs, .mem, .cells, .regions, .boot] ⊆ ks) (h : s0.within ks s) :
    s0.within ks (State.primeAll s) := by
  unfold State.primeAll
  try dsimp only
  repeat' (first
    | with_reducible assumption
    | with_reducible apply within_endPhase (sub_of hw rfl)
    | with_reducible apply within_primeRegions (sub_of hw rfl)
    | with_reducible apply within_ite)

theorem within_watchdog {ks : List Comp} {s0 : State} {s : State} {d} (hw : [.dies, .err] ⊆ ks) (h : s0.within ks s) :
    s0.within ks (State.watchdog s d) := by
  unfold State.watchdog
  try dsimp only
  repeat' (first
    | with_reducible assumption
    | with_reducible apply within_raise (sub_of hw rfl)
    | with_reducible apply within_setDie (sub_of hw rfl)
    | with_reducible apply within_ite)

theorem within_warmVerify {ks : List Comp} {s0 : State} {s : State} (hw : [.regs, .boot] ⊆ ks) (h : s0.within ks s) :
    s0.within ks (State.warmVerify s) := by
  unfold State.warmVerify
  try dsimp only
  repeat' (first
    | with_reducible assumption
    | with_reducible apply within_endPhase (sub_of hw rfl)
    | with_reducible apply within_ite)

theorem within_warmRestart {ks : List Comp} {s0 : State} {s : State} (hw : [.regs, .mem, .cells, .regions, .dies, .mcs, .pend13, .resp, .net, .panels, .jobs, .load, .ctxs, .tags, .fabQ, .fabWait, .fports, .rings, .hports, .outReads, .band, .time, .boot, .flash, .err, .out] ⊆ ks) (h : s0.within ks s) :
    s0.within ks (State.warmRestart s) := by
  unfold State.warmRestart
  try dsimp only
  repeat' (first
    | with_reducible assumption
    | with_reducible apply within_beginCold (sub_of hw rfl)
    | with_reducible apply within_warmVerify (sub_of hw rfl)
    | with_reducible apply within_beginWarm (sub_of hw rfl)
    | with_reducible apply within_ite
    | split)

theorem within_execBootLockReady {ks : List Comp} (s : State) (hw : [.regs, .mem, .hports, .band, .boot, .err, .out] ⊆ ks) :
    ∃ z, execBootLockReady s = .next z ∧ s.within ks z := by
  unfold execBootLockReady
  exact ⟨_, rfl, by
    repeat' (first
      | with_reducible exact within_refl _
      | with_reducible apply within_bootReady (sub_of hw rfl))⟩

theorem within_execBootResetCold {ks : List Comp} (s : State) {confirm} (hw : [.regs, .cells, .regions, .dies, .mcs, .pend13, .resp, .net, .panels, .jobs, .load, .ctxs, .tags, .fabQ, .fabWait, .fports, .rings, .hports, .outReads, .band, .time, .boot, .flash, .err, .out] ⊆ ks) :
    ∃ z, execBootResetCold confirm s = .next z ∧ s.within ks z := by
  unfold execBootResetCold
  exact ⟨_, rfl, by
    repeat' (first
      | with_reducible exact within_refl _
      | with_reducible apply within_resetCold (sub_of hw rfl))⟩

theorem within_execBootResetWarm {ks : List Comp} (s : State) {confirm} (hw : [.regs, .mem, .cells, .regions, .dies, .mcs, .pend13, .resp, .net, .panels, .jobs, .load, .ctxs, .tags, .fabQ, .fabWait, .fports, .rings, .hports, .outReads, .band, .time, .boot, .flash, .err, .out] ⊆ ks) :
    ∃ z, execBootResetWarm confirm s = .next z ∧ s.within ks z := by
  unfold execBootResetWarm
  exact ⟨_, rfl, by
    repeat' (first
      | with_reducible exact within_refl _
      | with_reducible apply within_resetWarm (sub_of hw rfl))⟩

theorem within_execConfigRead {ks : List Comp} (s : State) {r} (hw : [.regs, .band, .boot, .flash, .err, .free] ⊆ ks) :
    ∃ z, execConfigRead r s = .next z ∧ s.within ks z := by
  unfold execConfigRead
  exact ⟨_, rfl, by
    repeat' (first
      | with_reducible exact within_refl _
      | with_reducible apply within_configRead (sub_of hw rfl))⟩

theorem within_execDieControllerWatchdog {ks : List Comp} (s : State) {d} (hw : [.dies, .err] ⊆ ks) :
    ∃ z, execDieControllerWatchdog d s = .next z ∧ s.within ks z := by
  unfold execDieControllerWatchdog
  exact ⟨_, rfl, by
    repeat' (first
      | with_reducible exact within_refl _
      | with_reducible apply within_watchdog (sub_of hw rfl))⟩

theorem within_execDiePowerUp {ks : List Comp} (s : State) {d ok ctlOk slicesBad} (hw : [.regs, .regions, .dies, .hports, .boot, .flash, .err] ⊆ ks) :
    ∃ z, execDiePowerUp d ok ctlOk slicesBad s = .next z ∧ s.within ks z := by
  unfold execDiePowerUp
  exact ⟨_, rfl, by
    repeat' (first
      | with_reducible exact within_refl _
      | with_reducible apply within_diePowerUp (sub_of hw rfl))⟩

theorem within_execFirmwareVerify {ks : List Comp} (s : State) {sfdp keysOk objs} (hw : [.regs, .hports, .boot, .flash, .err] ⊆ ks) :
    ∃ z, execFirmwareVerify sfdp keysOk objs s = .next z ∧ s.within ks z := by
  unfold execFirmwareVerify
  exact ⟨_, rfl, by
    repeat' (first
      | with_reducible exact within_refl _
      | with_reducible apply within_firmwareVerify (sub_of hw rfl))⟩

theorem within_execFlashWriteComplete {ks : List Comp} (s : State) {ok0 ok1} (hw : [.flash, .err] ⊆ ks) :
    ∃ z, execFlashWriteComplete ok0 ok1 s = .next z ∧ s.within ks z := by
  unfold execFlashWriteComplete
  exact ⟨_, rfl, by
    repeat' (first
      | with_reducible exact within_refl _
      | with_reducible apply within_flashWrite (sub_of hw rfl))⟩

theorem within_execFuseMergePublish {ks : List Comp} (s : State) {faults} (hw : [.regs, .cells, .regions, .hports, .band, .boot, .flash, .err, .free] ⊆ ks) :
    ∃ z, execFuseMergePublish faults s = .next z ∧ s.within ks z := by
  unfold execFuseMergePublish
  exact ⟨_, rfl, by
    repeat' (first
      | with_reducible exact within_refl _
      | with_reducible apply within_fuseMerge (sub_of hw rfl))⟩

theorem within_execGddrPriming {ks : List Comp} (s : State) (hw : [.regs, .mem, .mcs, .boot, .err] ⊆ ks) :
    ∃ z, execGddrPriming s = .next z ∧ s.within ks z := by
  unfold execGddrPriming
  exact ⟨_, rfl, by
    repeat' (first
      | with_reducible exact within_refl _
      | with_reducible apply within_gddrPriming (sub_of hw rfl))⟩

theorem within_execHeartbeatLossFailover {ks : List Comp} (s : State) (hw : [.regs, .cells, .regions, .dies, .mcs, .pend13, .resp, .net, .panels, .jobs, .load, .ctxs, .tags, .fabQ, .fabWait, .fports, .rings, .hports, .outReads, .band, .time, .boot, .flash, .err] ⊆ ks) :
    ∃ z, execHeartbeatLossFailover s = .next z ∧ s.within ks z := by
  unfold execHeartbeatLossFailover
  exact ⟨_, rfl, by
    repeat' (first
      | with_reducible exact within_refl _
      | with_reducible apply within_failover (sub_of hw rfl))⟩

theorem within_execHeartbeatSend {ks : List Comp} (s : State) (hw : [.boot, .out] ⊆ ks) :
    ∃ z, execHeartbeatSend s = .next z ∧ s.within ks z := by
  unfold execHeartbeatSend
  exact ⟨_, rfl, by
    repeat' (first
      | with_reducible exact within_refl _
      | with_reducible apply within_heartbeat (sub_of hw rfl))⟩

theorem within_execLdoSliceFail {ks : List Comp} (s : State) {d rx ry rail slice} (hw : [.regs, .cells, .regions, .band, .boot, .flash, .err] ⊆ ks) :
    ∃ z, execLdoSliceFail d rx ry rail slice s = .next z ∧ s.within ks z := by
  unfold execLdoSliceFail
  exact ⟨_, rfl, by
    repeat' (first
      | with_reducible exact within_refl _
      | with_reducible apply within_powerSettle (sub_of hw rfl)
      | with_reducible apply within_sliceFail (sub_of hw rfl))⟩

theorem within_execLinkTraining {ks : List Comp} (s : State) {ts lanesBad credits} (hw : [.regs, .ctxs, .tags, .fports, .boot, .flash, .err, .out] ⊆ ks) :
    ∃ z, execLinkTraining ts lanesBad credits s = .next z ∧ s.within ks z := by
  unfold execLinkTraining
  exact ⟨_, rfl, by
    repeat' (first
      | with_reducible exact within_refl _
      | with_reducible apply within_linkTraining (sub_of hw rfl))⟩

theorem within_execNeighbourTest {ks : List Comp} (s : State) {marchBad verdicts wiresBad retrain} (hw : [.regs, .mem, .cells, .regions, .boot, .flash, .err] ⊆ ks) :
    ∃ z, execNeighbourTest marchBad verdicts wiresBad retrain s = .next z ∧ s.within ks z := by
  unfold execNeighbourTest
  exact ⟨_, rfl, by
    repeat' (first
      | with_reducible exact within_refl _
      | with_reducible apply within_neighbourTest (sub_of hw rfl))⟩

theorem within_execPhaseOverrun {ks : List Comp} (s : State) (hw : [.regs, .err] ⊆ ks) :
    ∃ z, execPhaseOverrun s = .next z ∧ s.within ks z := by
  unfold execPhaseOverrun
  exact ⟨_, rfl, by
    repeat' (first
      | with_reducible exact within_refl _
      | with_reducible apply within_overrun (sub_of hw rfl))⟩

theorem within_execPllCalibration {ks : List Comp} (s : State) {d locked raw wiresBad} (hw : [.regs, .cells, .hports, .boot, .flash, .err] ⊆ ks) :
    ∃ z, execPllCalibration d locked raw wiresBad s = .next z ∧ s.within ks z := by
  unfold execPllCalibration
  exact ⟨_, rfl, by
    repeat' (first
      | with_reducible exact within_refl _
      | with_reducible apply within_pllCalibration (sub_of hw rfl))⟩

theorem within_execPowerGood {ks : List Comp} (s : State) {d rx ry} (hw : [.regs, .cells, .regions, .band, .boot, .flash, .err] ⊆ ks) :
    ∃ z, execPowerGood d rx ry s = .next z ∧ s.within ks z := by
  unfold execPowerGood
  exact ⟨_, rfl, by
    repeat' (first
      | with_reducible exact within_refl _
      | with_reducible apply within_powerSettle (sub_of hw rfl)
      | with_reducible apply within_powerGood (sub_of hw rfl))⟩

theorem within_execPowerGoodMissed {ks : List Comp} (s : State) {d rx ry} (hw : [.regs, .cells, .regions, .band, .boot, .flash, .err] ⊆ ks) :
    ∃ z, execPowerGoodMissed d rx ry s = .next z ∧ s.within ks z := by
  unfold execPowerGoodMissed
  exact ⟨_, rfl, by
    repeat' (first
      | with_reducible exact within_refl _
      | with_reducible apply within_powerSettle (sub_of hw rfl)
      | with_reducible apply within_goodMissed (sub_of hw rfl))⟩

theorem within_execPrimeAll {ks : List Comp} (s : State) (hw : [.regs, .mem, .cells, .regions, .boot] ⊆ ks) :
    ∃ z, execPrimeAll s = .next z ∧ s.within ks z := by
  unfold execPrimeAll
  exact ⟨_, rfl, by
    repeat' (first
      | with_reducible exact within_refl _
      | with_reducible apply within_primeAll (sub_of hw rfl))⟩

theorem within_execStageAdmission {ks : List Comp} (s : State) {d} (hw : [.regs, .cells, .regions, .dies, .band, .boot] ⊆ ks) :
    ∃ z, execStageAdmission d s = .next z ∧ s.within ks z := by
  unfold execStageAdmission
  exact ⟨_, rfl, by
    repeat' (first
      | with_reducible exact within_refl _
      | with_reducible apply within_powerSettle (sub_of hw rfl)
      | with_reducible apply within_admitStages (sub_of hw rfl))⟩

theorem within_execWarmRestart {ks : List Comp} (s : State) (hw : [.regs, .mem, .cells, .regions, .dies, .mcs, .pend13, .resp, .net, .panels, .jobs, .load, .ctxs, .tags, .fabQ, .fabWait, .fports, .rings, .hports, .outReads, .band, .time, .boot, .flash, .err, .out] ⊆ ks) :
    ∃ z, execWarmRestart s = .next z ∧ s.within ks z := by
  unfold execWarmRestart
  exact ⟨_, rfl, by
    repeat' (first
      | with_reducible exact within_refl _
      | with_reducible apply within_warmRestart (sub_of hw rfl))⟩

end Sys2Proof.Laws
end

