-- ==== Sys2Proof/Laws/WithinLic.lean ====
section
/-! SUPPORT. What the operations of Machine/Lic.lean may change (`State.within`). -/

set_option Elab.async false
set_option linter.all false

namespace Sys2Proof.Laws

open Sys2Proof Sys2Proof.Machine Sys2Proof.Machine.State

theorem within_drawNonce {ks : List Comp} {s0 : State} {s : State} (hw : [.flash] ⊆ ks) (h : s0.within ks s) :
    s0.within ks (State.drawNonce s) := by
  unfold State.drawNonce
  try dsimp only
  repeat' (first
    | with_reducible assumption
    | with_reducible exact Or.inl rfl
    | exact Or.inr (hw (by decide))
    | exact hw (by decide)
    | with_reducible apply within_mk)

theorem within_nonceAfter {ks : List Comp} {s0 : State} {s : State} {op} (hw : [.flash] ⊆ ks) (h : s0.within ks s) :
    s0.within ks (State.nonceAfter s op) := by
  unfold State.nonceAfter
  try dsimp only
  repeat' (first
    | with_reducible assumption
    | with_reducible apply within_drawNonce (sub_of hw rfl)
    | with_reducible apply within_foldl
    | with_reducible apply within_foldl_pair
    | with_reducible exact within_refl _
    | with_reducible apply within_ite
    | with_reducible apply within_ite_pair
    | with_reducible exact Or.inl rfl
    | exact Or.inr (hw (by decide))
    | exact hw (by decide)
    | with_reducible refine within_pair (by assumption) ?_
    | (intro _ _ _; try dsimp only)
    | (intro _ _; try dsimp only)
    | split
    | with_reducible apply within_mk)

theorem within_licRes {ks : List Comp} {s0 : State} {s : State} {st reason} (hw : [.regs] ⊆ ks) (h : s0.within ks s) :
    s0.within ks (State.licRes s st reason) := by
  unfold State.licRes
  try dsimp only
  repeat' (first
    | with_reducible assumption
    | with_reducible apply within_setReg (sub_of hw rfl))

theorem within_licRefuse {ks : List Comp} {s0 : State} {s : State} {op reason} (hw : [.regs, .err] ⊆ ks) (h : s0.within ks s) :
    s0.within ks (State.licRefuse s op reason) := by
  unfold State.licRefuse
  try dsimp only
  repeat' (first
    | with_reducible assumption
    | with_reducible apply within_raise (sub_of hw rfl)
    | with_reducible apply within_licRes (sub_of hw rfl))

theorem within_applyFeatures {ks : List Comp} {s0 : State} {s : State} {f} (hw : [.regs] ⊆ ks) (h : s0.within ks s) :
    s0.within ks (State.applyFeatures s f) := by
  unfold State.applyFeatures
  try dsimp only
  repeat' (first
    | with_reducible assumption
    | with_reducible apply within_licRetrain (sub_of hw rfl)
    | with_reducible apply within_setFld (sub_of hw rfl)
    | with_reducible apply within_ite)

theorem within_licEnd {ks : List Comp} {s0 : State} {s : State} (hw : [.flash] ⊆ ks) (h : s0.within ks s) :
    s0.within ks (State.licEnd s) := by
  unfold State.licEnd
  try dsimp only
  repeat' (first
    | with_reducible assumption
    | with_reducible exact Or.inl rfl
    | exact Or.inr (hw (by decide))
    | exact hw (by decide)
    | with_reducible apply within_mk)

theorem within_licRun {ks : List Comp} {s0 : State} {s : State} {op} {act : State → State} (hw : [.regs, .flash, .err] ⊆ ks) (h0 : s0.within ks s) (h1 : ∀ t, s0.within ks t → s0.within ks (act t)) :
    s0.within ks (State.licRun s op act) := by
  unfold State.licRun
  try dsimp only
  repeat' (first
    | with_reducible assumption
    | with_reducible apply h1
    | with_reducible apply within_nonceAfter (sub_of hw rfl)
    | with_reducible apply within_raise (sub_of hw rfl)
    | with_reducible apply within_licRefuse (sub_of hw rfl)
    | with_reducible apply within_licEnd (sub_of hw rfl)
    | with_reducible apply within_ite
    | (intro _ _ _; try dsimp only)
    | (intro _ _; try dsimp only))

theorem within_licWrite {ks : List Comp} {s0 : State} {s : State} {bs} (hw : [.regs, .mem, .regions, .mcs, .resp, .flash, .err, .out, .fates] ⊆ ks) (h : s0.within ks s) :
    s0.within ks (State.licWrite s bs).1 := by
  unfold State.licWrite
  try dsimp only
  repeat' (first
    | with_reducible assumption
    | with_reducible apply within_outWrite (sub_of hw rfl)
    | with_reducible apply within_carried (sub_of hw rfl)
    | with_reducible apply within_gddrWriteNow (sub_of hw rfl)
    | with_reducible apply within_foldl_pair
    | with_reducible apply within_ite_pair
    | (intro _ _ _; try dsimp only)
    | (intro _ _; try dsimp only))

theorem within_attest {ks : List Comp} {s0 : State} {s : State} (hw : [.regs, .mem, .regions, .mcs, .resp, .flash, .err, .out, .fates] ⊆ ks) (h : s0.within ks s) :
    s0.within ks (State.attest s) := by
  unfold State.attest
  try dsimp only
  repeat' (first
    | with_reducible assumption
    | with_reducible apply within_licRun (sub_of hw rfl)
    | with_reducible apply within_licRefuse (sub_of hw rfl)
    | with_reducible apply within_ctrWrite (sub_of hw rfl)
    | with_reducible apply within_licWrite (sub_of hw rfl)
    | with_reducible apply within_licRes (sub_of hw rfl)
    | with_reducible apply within_ite
    | with_reducible exact Or.inl rfl
    | exact Or.inr (hw (by decide))
    | exact hw (by decide)
    | with_reducible apply within_mk
    | (intro _ _ _; try dsimp only)
    | (intro _ _; try dsimp only))

theorem within_certificate {ks : List Comp} {s0 : State} {s : State} (hw : [.regs, .mem, .regions, .mcs, .resp, .flash, .err, .out, .fates] ⊆ ks) (h : s0.within ks s) :
    s0.within ks (State.certificate s) := by
  unfold State.certificate
  try dsimp only
  repeat' (first
    | with_reducible assumption
    | with_reducible apply within_licRun (sub_of hw rfl)
    | with_reducible apply within_licRefuse (sub_of hw rfl)
    | with_reducible apply within_licWrite (sub_of hw rfl)
    | with_reducible apply within_licRes (sub_of hw rfl)
    | with_reducible apply within_ite
    | (intro _ _ _; try dsimp only)
    | (intro _ _; try dsimp only))

theorem within_clearBbox {ks : List Comp} {s0 : State} {s : State} (hw : [.regs, .flash, .err] ⊆ ks) (h : s0.within ks s) :
    s0.within ks (State.clearBbox s) := by
  unfold State.clearBbox
  try dsimp only
  repeat' (first
    | with_reducible assumption
    | with_reducible apply within_stageOne (sub_of hw rfl)
    | with_reducible apply within_setReg (sub_of hw rfl)
    | with_reducible apply within_foldl
    | with_reducible apply within_foldl_pair
    | with_reducible exact within_refl _
    | with_reducible apply within_ite
    | with_reducible apply within_ite_pair
    | with_reducible exact Or.inl rfl
    | exact Or.inr (hw (by decide))
    | exact hw (by decide)
    | with_reducible refine within_pair (by assumption) ?_
    | (intro _ _ _; try dsimp only)
    | (intro _ _; try dsimp only)
    | split
    | with_reducible apply within_mk)

theorem within_licObject {ks : List Comp} {s0 : State} {s : State} {obj otype} (hw : [.regs, .mem, .regions, .mcs, .resp, .flash, .err, .fates] ⊆ ks) (h : s0.within ks s) :
    s0.within ks (State.licObject s obj otype).1 := by
  unfold State.licObject
  try dsimp only
  repeat' (first
    | with_reducible assumption
    | with_reducible apply within_imgRead (sub_of hw rfl)
    | with_reducible apply within_ite_pair
    | with_reducible refine within_pair (by assumption) ?_
    | split)

theorem within_installFirmware {ks : List Comp} {s0 : State} {s : State} {obj ok} (hw : [.regs, .mem, .regions, .mcs, .resp, .flash, .err, .fates] ⊆ ks) (h : s0.within ks s) :
    s0.within ks (State.installFirmware s obj ok) := by
  unfold State.installFirmware
  try dsimp only
  repeat' (first
    | with_reducible assumption
    | with_reducible apply within_licRun (sub_of hw rfl)
    | with_reducible apply within_licObject (sub_of hw rfl)
    | with_reducible apply within_licRefuse (sub_of hw rfl)
    | with_reducible apply within_licRes (sub_of hw rfl)
    | with_reducible apply within_ite
    | with_reducible exact Or.inl rfl
    | exact Or.inr (hw (by decide))
    | exact hw (by decide)
    | (intro _ _ _; try dsimp only)
    | (intro _ _; try dsimp only)
    | split
    | with_reducible apply within_mk)

theorem within_installKeys {ks : List Comp} {s0 : State} {s : State} {keys} (hw : [.band] ⊆ ks) (h : s0.within ks s) :
    s0.within ks (State.installKeys s keys) := by
  unfold State.installKeys
  try dsimp only
  repeat' (first
    | with_reducible assumption
    | with_reducible apply within_setBand (sub_of hw rfl)
    | split)

theorem within_w4Apply {ks : List Comp} {s0 : State} {s : State} (hw : [.regs] ⊆ ks) (h : s0.within ks s) :
    s0.within ks (State.w4Apply s) := by
  unfold State.w4Apply
  try dsimp only
  repeat' (first
    | with_reducible assumption
    | with_reducible apply within_setFld (sub_of hw rfl)
    | with_reducible apply within_ite)

theorem within_installLicence {ks : List Comp} {s0 : State} {s : State} {obj} (hw : [.regs, .mem, .regions, .mcs, .resp, .flash, .err, .fates] ⊆ ks) (h : s0.within ks s) :
    s0.within ks (State.installLicence s obj) := by
  unfold State.installLicence
  try dsimp only
  repeat' (first
    | with_reducible assumption
    | with_reducible apply within_licRun (sub_of hw rfl)
    | with_reducible apply within_licObject (sub_of hw rfl)
    | with_reducible apply within_licRefuse (sub_of hw rfl)
    | with_reducible apply within_licRes (sub_of hw rfl)
    | with_reducible apply within_w4Apply (sub_of hw rfl)
    | with_reducible apply within_licCount (sub_of hw rfl)
    | with_reducible apply within_applyFeatures (sub_of hw rfl)
    | with_reducible apply within_ite
    | with_reducible exact Or.inl rfl
    | exact Or.inr (hw (by decide))
    | exact hw (by decide)
    | (intro _ _ _; try dsimp only)
    | (intro _ _; try dsimp only)
    | split
    | with_reducible apply within_mk)

theorem within_raiseSvn {ks : List Comp} {s0 : State} {s : State} (hw : [.regs, .flash] ⊆ ks) (h : s0.within ks s) :
    s0.within ks (State.raiseSvn s) := by
  unfold State.raiseSvn
  try dsimp only
  repeat' (first
    | with_reducible assumption
    | with_reducible apply within_setFld (sub_of hw rfl)
    | with_reducible exact Or.inl rfl
    | exact Or.inr (hw (by decide))
    | exact hw (by decide)
    | with_reducible apply within_mk)

theorem within_removeEntries {ks : List Comp} {s0 : State} {s : State} {die idxs} (hw : [.flash] ⊆ ks) (h : s0.within ks s) :
    s0.within ks (State.removeEntries s die idxs) := by
  unfold State.removeEntries
  try dsimp only
  repeat' (first
    | with_reducible assumption
    | with_reducible exact Or.inl rfl
    | exact Or.inr (hw (by decide))
    | exact hw (by decide)
    | with_reducible apply within_mk)

theorem within_removeLicence {ks : List Comp} {s0 : State} {s : State} {lseq} (hw : [.regs, .flash] ⊆ ks) (h : s0.within ks s) :
    s0.within ks (State.removeLicence s lseq) := by
  unfold State.removeLicence
  try dsimp only
  repeat' (first
    | with_reducible assumption
    | with_reducible apply within_licCount (sub_of hw rfl)
    | with_reducible exact Or.inl rfl
    | exact Or.inr (hw (by decide))
    | exact hw (by decide)
    | with_reducible apply within_mk)

theorem within_service {ks : List Comp} {s0 : State} {s : State} {obj cmd why} {act : State → State} (hw : [.regs, .mem, .regions, .mcs, .resp, .flash, .err, .fates] ⊆ ks) (h0 : s0.within ks s) (h1 : ∀ t, s0.within ks t → s0.within ks (act t)) :
    s0.within ks (State.service s obj cmd why act) := by
  unfold State.service
  try dsimp only
  repeat' (first
    | with_reducible assumption
    | with_reducible apply h1
    | with_reducible apply within_licRun (sub_of hw rfl)
    | with_reducible apply within_licObject (sub_of hw rfl)
    | with_reducible apply within_licRefuse (sub_of hw rfl)
    | with_reducible apply within_licRes (sub_of hw rfl)
    | with_reducible apply within_ite
    | (intro _ _ _; try dsimp only)
    | (intro _ _; try dsimp only)
    | split)

theorem within_execLicAttest {ks : List Comp} (s : State) (hw : [.regs, .mem, .regions, .mcs, .resp, .flash, .err, .out, .fates] ⊆ ks) :
    ∃ z, execLicAttest s = .next z ∧ s.within ks z := by
  unfold execLicAttest
  exact ⟨_, rfl, by
    repeat' (first
      | with_reducible exact within_refl _
      | with_reducible apply within_attest (sub_of hw rfl))⟩

theorem within_execLicInstallFirmware {ks : List Comp} (s : State) {obj ok fates} (hw : [.regs, .mem, .regions, .mcs, .resp, .flash, .err, .fates] ⊆ ks) :
    ∃ z, execLicInstallFirmware obj ok fates s = .next z ∧ s.within ks z := by
  unfold execLicInstallFirmware
  exact ⟨_, rfl, by
    repeat' (first
      | with_reducible exact within_refl _
      | with_reducible assumption
      | with_reducible apply within_withFates (sub_of hw rfl)
      | with_reducible apply within_installFirmware (sub_of hw rfl)
      | (intro _ _ _; try dsimp only)
      | (intro _ _; try dsimp only))⟩

theorem within_execLicInstallLicence {ks : List Comp} (s : State) {obj fates} (hw : [.regs, .mem, .regions, .mcs, .resp, .flash, .err, .fates] ⊆ ks) :
    ∃ z, execLicInstallLicence obj fates s = .next z ∧ s.within ks z := by
  unfold execLicInstallLicence
  exact ⟨_, rfl, by
    repeat' (first
      | with_reducible exact within_refl _
      | with_reducible assumption
      | with_reducible apply within_withFates (sub_of hw rfl)
      | with_reducible apply within_installLicence (sub_of hw rfl)
      | (intro _ _ _; try dsimp only)
      | (intro _ _; try dsimp only))⟩

theorem within_execLicReadCertificate {ks : List Comp} (s : State) (hw : [.regs, .mem, .regions, .mcs, .resp, .flash, .err, .out, .fates] ⊆ ks) :
    ∃ z, execLicReadCertificate s = .next z ∧ s.within ks z := by
  unfold execLicReadCertificate
  exact ⟨_, rfl, by
    repeat' (first
      | with_reducible exact within_refl _
      | with_reducible apply within_certificate (sub_of hw rfl))⟩

theorem within_execSvcClearBlackBox {ks : List Comp} (s : State) {obj fates} (hw : [.regs, .mem, .regions, .mcs, .resp, .flash, .err, .fates] ⊆ ks) :
    ∃ z, execSvcClearBlackBox obj fates s = .next z ∧ s.within ks z := by
  unfold execSvcClearBlackBox
  exact ⟨_, rfl, by
    repeat' (first
      | with_reducible exact within_refl _
      | with_reducible assumption
      | with_reducible apply within_withFates (sub_of hw rfl)
      | with_reducible apply within_service (sub_of hw rfl)
      | with_reducible apply within_clearBbox (sub_of hw rfl)
      | (intro _ _ _; try dsimp only)
      | (intro _ _; try dsimp only))⟩

theorem within_execSvcInstallRackKeys {ks : List Comp} (s : State) {obj keys fates} (hw : [.regs, .mem, .regions, .mcs, .resp, .band, .flash, .err, .fates] ⊆ ks) :
    ∃ z, execSvcInstallRackKeys obj keys fates s = .next z ∧ s.within ks z := by
  unfold execSvcInstallRackKeys
  exact ⟨_, rfl, by
    repeat' (first
      | with_reducible exact within_refl _
      | with_reducible assumption
      | with_reducible apply within_withFates (sub_of hw rfl)
      | with_reducible apply within_service (sub_of hw rfl)
      | with_reducible apply within_installKeys (sub_of hw rfl)
      | (intro _ _ _; try dsimp only)
      | (intro _ _; try dsimp only))⟩

theorem within_execSvcRaiseMinSvn {ks : List Comp} (s : State) {obj fates} (hw : [.regs, .mem, .regions, .mcs, .resp, .flash, .err, .fates] ⊆ ks) :
    ∃ z, execSvcRaiseMinSvn obj fates s = .next z ∧ s.within ks z := by
  unfold execSvcRaiseMinSvn
  exact ⟨_, rfl, by
    repeat' (first
      | with_reducible exact within_refl _
      | with_reducible assumption
      | with_reducible apply within_withFates (sub_of hw rfl)
      | with_reducible apply within_service (sub_of hw rfl)
      | with_reducible apply within_raiseSvn (sub_of hw rfl)
      | (intro _ _ _; try dsimp only)
      | (intro _ _; try dsimp only))⟩

theorem within_execSvcRemoveLicence {ks : List Comp} (s : State) {obj lseq fates} (hw : [.regs, .mem, .regions, .mcs, .resp, .flash, .err, .fates] ⊆ ks) :
    ∃ z, execSvcRemoveLicence obj lseq fates s = .next z ∧ s.within ks z := by
  unfold execSvcRemoveLicence
  exact ⟨_, rfl, by
    repeat' (first
      | with_reducible exact within_refl _
      | with_reducible assumption
      | with_reducible apply within_withFates (sub_of hw rfl)
      | with_reducible apply within_service (sub_of hw rfl)
      | with_reducible apply within_removeLicence (sub_of hw rfl)
      | (intro _ _ _; try dsimp only)
      | (intro _ _; try dsimp only))⟩

theorem within_execSvcRemoveRepairEntries {ks : List Comp} (s : State) {obj die idxs fates} (hw : [.regs, .mem, .regions, .mcs, .resp, .flash, .err, .fates] ⊆ ks) :
    ∃ z, execSvcRemoveRepairEntries obj die idxs fates s = .next z ∧ s.within ks z := by
  unfold execSvcRemoveRepairEntries
  exact ⟨_, rfl, by
    repeat' (first
      | with_reducible exact within_refl _
      | with_reducible assumption
      | with_reducible apply within_withFates (sub_of hw rfl)
      | with_reducible apply within_service (sub_of hw rfl)
      | with_reducible apply within_removeEntries (sub_of hw rfl)
      | (intro _ _ _; try dsimp only)
      | (intro _ _; try dsimp only))⟩

theorem within_execSvcReplaceConfig {ks : List Comp} (s : State) {obj cfg fates} (hw : [.regs, .mem, .regions, .mcs, .resp, .flash, .err, .fates] ⊆ ks) :
    ∃ z, execSvcReplaceConfig obj cfg fates s = .next z ∧ s.within ks z := by
  unfold execSvcReplaceConfig
  exact ⟨_, rfl, by
    repeat' (first
      | with_reducible exact within_refl _
      | with_reducible assumption
      | with_reducible apply within_withFates (sub_of hw rfl)
      | with_reducible apply within_service (sub_of hw rfl)
      | with_reducible exact Or.inl rfl
      | exact Or.inr (hw (by decide))
      | exact hw (by decide)
      | with_reducible apply within_mk
      | (intro _ _ _; try dsimp only)
      | (intro _ _; try dsimp only))⟩

theorem within_execSvcSelectFirmwareSlot {ks : List Comp} (s : State) {obj slot fates} (hw : [.regs, .mem, .regions, .mcs, .resp, .flash, .err, .fates] ⊆ ks) :
    ∃ z, execSvcSelectFirmwareSlot obj slot fates s = .next z ∧ s.within ks z := by
  unfold execSvcSelectFirmwareSlot
  exact ⟨_, rfl, by
    repeat' (first
      | with_reducible exact within_refl _
      | with_reducible assumption
      | with_reducible apply within_withFates (sub_of hw rfl)
      | with_reducible apply within_service (sub_of hw rfl)
      | with_reducible exact Or.inl rfl
      | exact Or.inr (hw (by decide))
      | exact hw (by decide)
      | with_reducible apply within_mk
      | (intro _ _ _; try dsimp only)
      | (intro _ _; try dsimp only))⟩

theorem within_execW4RateApply {ks : List Comp} (s : State) (hw : [.regs] ⊆ ks) :
    ∃ z, execW4RateApply s = .next z ∧ s.within ks z := by
  unfold execW4RateApply
  exact ⟨_, rfl, by
    repeat' (first
      | with_reducible exact within_refl _
      | with_reducible apply within_w4Apply (sub_of hw rfl))⟩

end Sys2Proof.Laws
end

