-- ==== Sys2Proof/Laws/WithinStop.lean ====
section
/-! SUPPORT. What the operations of Machine/Stop.lean may change (`State.within`). -/

set_option Elab.async false
set_option linter.all false

namespace Sys2Proof.Laws

open Sys2Proof Sys2Proof.Machine Sys2Proof.Machine.State

theorem within_bandRestart {ks : List Comp} {s0 : State} {s : State} (hw : [.regs, .mem, .cells, .regions, .dies, .mcs, .pend13, .resp, .net, .panels, .jobs, .load, .ctxs, .tags, .fabQ, .fabWait, .fports, .rings, .hports, .outReads, .band, .time, .boot, .flash, .err, .out] ⊆ ks) (h : s0.within ks s) :
    s0.within ks (State.bandRestart s) := by
  unfold State.bandRestart
  try dsimp only
  repeat' (first
    | with_reducible assumption
    | with_reducible apply within_beginWarm (sub_of hw rfl)
    | with_reducible apply within_setBoot (sub_of hw rfl)
    | with_reducible apply within_setFld (sub_of hw rfl)
    | with_reducible apply within_ite)

theorem within_drainRecs {ks : List Comp} {s0 : State} {s : State} {a1} (hw : [.regs, .mem, .fports, .hports, .boot, .flash, .err, .out] ⊆ ks) (h : s0.within ks s) :
    s0.within ks (State.drainRecs s a1) := by
  induction a1 generalizing s with
  | zero => exact h
  | succ n ih =>
    unfold State.drainRecs
    try dsimp only
    repeat' (first
      | with_reducible assumption
      | with_reducible apply ih
      | with_reducible apply within_recordArrive (sub_of hw rfl))

theorem within_commitAll {ks : List Comp} {s0 : State} {s : State} (hw : [.regs, .mem, .fports, .hports, .boot, .flash, .err, .out] ⊆ ks) (h : s0.within ks s) :
    s0.within ks (State.commitAll s) := by
  unfold State.commitAll
  try dsimp only
  repeat' (first
    | with_reducible assumption
    | with_reducible apply within_drainRecs (sub_of hw rfl)
    | with_reducible apply within_commitStaged (sub_of hw rfl))

theorem within_convertersOff {ks : List Comp} {s0 : State} {s : State} (hw : [.regs] ⊆ ks) (h : s0.within ks s) :
    s0.within ks (State.convertersOff s) := by
  unfold State.convertersOff
  try dsimp only
  repeat' (first
    | with_reducible assumption
    | with_reducible apply within_fieldOff (sub_of hw rfl)
    | with_reducible apply within_setReg (sub_of hw rfl)
    | with_reducible apply within_foldl
    | (intro _ _ _; try dsimp only)
    | (intro _ _; try dsimp only))

theorem within_coolantHigh {ks : List Comp} {s0 : State} {s : State} (hw : [.band] ⊆ ks) (h : s0.within ks s) :
    s0.within ks (State.coolantHigh s) := by
  unfold State.coolantHigh
  try dsimp only
  repeat' (first
    | with_reducible assumption
    | with_reducible apply within_setBand (sub_of hw rfl)
    | with_reducible apply within_ite)

theorem within_coolantLow {ks : List Comp} {s0 : State} {s : State} {ns} (hw : [.band] ⊆ ks) (h : s0.within ks s) :
    s0.within ks (State.coolantLow s ns) := by
  unfold State.coolantLow
  try dsimp only
  repeat' (first
    | with_reducible assumption
    | with_reducible apply within_setBand (sub_of hw rfl)
    | with_reducible apply within_ite)

theorem within_stopArrive {ks : List Comp} {s0 : State} {s : State} {reason} (hw : [.band, .err] ⊆ ks) (h : s0.within ks s) :
    s0.within ks (State.stopArrive s reason) := by
  unfold State.stopArrive
  try dsimp only
  repeat' (first
    | with_reducible assumption
    | with_reducible apply within_setBand (sub_of hw rfl)
    | with_reducible apply within_raise (sub_of hw rfl)
    | with_reducible apply within_foldl
    | with_reducible apply within_foldl_pair
    | with_reducible exact within_refl _
    | with_reducible apply within_ite
    | with_reducible apply within_ite_pair
    | with_reducible exact Or.inl rfl
    | exact Or.inr (hw (by decide))
    | exact hw (by decide)
    | with_reducible refine within_pair (by assumption) ?_
    | (intro _ _ _; try dsimp only)
    | (intro _ _; try dsimp only)
    | split
    | with_reducible apply within_mk)

theorem within_coolantStop {ks : List Comp} {s0 : State} {s : State} (hw : [.band, .err] ⊆ ks) (h : s0.within ks s) :
    s0.within ks (State.coolantStop s) := by
  unfold State.coolantStop
  try dsimp only
  repeat' (first
    | with_reducible assumption
    | with_reducible apply within_stopArrive (sub_of hw rfl)
    | with_reducible apply within_ite)

theorem within_coolantTimeout {ks : List Comp} {s0 : State} {s : State} (hw : [.regs, .mem, .fports, .hports, .boot, .flash, .err, .out] ⊆ ks) (h : s0.within ks s) :
    s0.within ks (State.coolantTimeout s) := by
  unfold State.coolantTimeout
  try dsimp only
  repeat' (first
    | with_reducible assumption
    | with_reducible apply within_convertersOff (sub_of hw rfl)
    | with_reducible apply within_commitAll (sub_of hw rfl)
    | with_reducible apply within_raise (sub_of hw rfl)
    | with_reducible apply within_setBoot (sub_of hw rfl)
    | with_reducible apply within_ite)

theorem within_gddrOff {ks : List Comp} {s0 : State} {s : State} (hw : [.regs] ⊆ ks) (h : s0.within ks s) :
    s0.within ks (State.gddrOff s) := by
  unfold State.gddrOff
  try dsimp only
  repeat' (first
    | with_reducible assumption
    | with_reducible apply within_setFld (sub_of hw rfl)
    | with_reducible apply within_foldl
    | (intro _ _ _; try dsimp only)
    | (intro _ _; try dsimp only))

theorem within_powerLost {ks : List Comp} {s0 : State} {s : State} (hw : [.regs, .flash, .err] ⊆ ks) (h : s0.within ks s) :
    s0.within ks (State.powerLost s) := by
  unfold State.powerLost
  try dsimp only
  repeat' (first
    | with_reducible assumption
    | with_reducible apply within_setReg (sub_of hw rfl)
    | with_reducible apply within_flashBack (sub_of hw rfl)
    | with_reducible apply within_foldl
    | with_reducible apply within_foldl_pair
    | with_reducible exact within_refl _
    | with_reducible apply within_ite
    | with_reducible apply within_ite_pair
    | with_reducible exact Or.inl rfl
    | exact Or.inr (hw (by decide))
    | exact hw (by decide)
    | with_reducible refine within_pair (by assumption) ?_
    | (intro _ _ _; try dsimp only)
    | (intro _ _; try dsimp only)
    | split
    | with_reducible apply within_mk)

theorem within_inputStart {ks : List Comp} {s0 : State} {a0 : State} (hw : [.regs, .cells, .regions, .dies, .mcs, .pend13, .resp, .net, .panels, .jobs, .load, .ctxs, .tags, .fabQ, .fabWait, .fports, .rings, .hports, .outReads, .band, .time, .boot, .flash, .err] ⊆ ks) (h : s0.within ks a0) :
    s0.within ks (State.inputStart a0) := by
  unfold State.inputStart
  try dsimp only
  repeat' (first
    | with_reducible assumption
    | with_reducible apply within_powerLost (sub_of hw rfl)
    | with_reducible apply within_setBoot (sub_of hw rfl)
    | with_reducible apply within_beginCold (sub_of hw rfl)
    | with_reducible apply within_ite)

theorem within_moduleReset {ks : List Comp} {s0 : State} {s : State} (hw : [.regs, .mem, .cells, .regions, .panels, .jobs, .load, .fports, .hports, .band, .boot, .flash, .err, .out] ⊆ ks) (h : s0.within ks s) :
    s0.within ks (State.moduleReset s) := by
  unfold State.moduleReset
  try dsimp only
  repeat' (first
    | with_reducible assumption
    | with_reducible apply within_zeroS (sub_of hw rfl)
    | with_reducible apply within_loseJobs (sub_of hw rfl)
    | with_reducible apply within_allOff (sub_of hw rfl)
    | with_reducible apply within_faultNotices (sub_of hw rfl)
    | with_reducible apply within_commitAll (sub_of hw rfl)
    | with_reducible apply within_setBoot (sub_of hw rfl)
    | with_reducible apply within_setFld (sub_of hw rfl)
    | with_reducible apply within_foldl
    | with_reducible apply within_foldl_pair
    | with_reducible exact within_refl _
    | with_reducible apply within_ite
    | with_reducible apply within_ite_pair
    | with_reducible exact Or.inl rfl
    | exact Or.inr (hw (by decide))
    | exact hw (by decide)
    | with_reducible refine within_pair (by assumption) ?_
    | (intro _ _ _; try dsimp only)
    | (intro _ _; try dsimp only)
    | split
    | with_reducible apply within_mk)

theorem within_regulatorFail {ks : List Comp} {s0 : State} {s : State} {d u} (hw : [.regs, .mem, .cells, .regions, .dies, .mcs, .pend13, .resp, .net, .panels, .jobs, .load, .ctxs, .tags, .fabQ, .fabWait, .fports, .rings, .hports, .outReads, .band, .time, .boot, .flash, .err, .out] ⊆ ks) (h : s0.within ks s) :
    s0.within ks (State.regulatorFail s d u) := by
  unfold State.regulatorFail
  try dsimp only
  repeat' (first
    | with_reducible assumption
    | with_reducible apply within_deviceFail (sub_of hw rfl)
    | with_reducible apply within_trainDone (sub_of hw rfl)
    | with_reducible apply within_setPstate (sub_of hw rfl)
    | with_reducible apply within_linkDown (sub_of hw rfl)
    | with_reducible apply within_takeOver (sub_of hw rfl)
    | with_reducible apply within_watchdog (sub_of hw rfl)
    | with_reducible apply within_foldl
    | with_reducible apply within_ite
    | (intro _ _ _; try dsimp only)
    | (intro _ _; try dsimp only)
    | split)

theorem within_resetRelease {ks : List Comp} {s0 : State} {s : State} (hw : [.regs, .cells, .regions, .dies, .mcs, .pend13, .resp, .net, .panels, .jobs, .load, .ctxs, .tags, .fabQ, .fabWait, .fports, .rings, .hports, .outReads, .band, .time, .boot, .flash, .err] ⊆ ks) (h : s0.within ks s) :
    s0.within ks (State.resetRelease s) := by
  unfold State.resetRelease
  try dsimp only
  repeat' (first
    | with_reducible assumption
    | with_reducible apply within_setBoot (sub_of hw rfl)
    | with_reducible apply within_beginCold (sub_of hw rfl)
    | with_reducible apply within_ite)

theorem within_stop {ks : List Comp} {s0 : State} {s : State} {reason} (hw : [.regs, .mem, .cells, .regions, .panels, .jobs, .load, .fports, .hports, .band, .boot, .flash, .err, .out, .free] ⊆ ks) (h : s0.within ks s) :
    s0.within ks (State.stop s reason) := by
  unfold State.stop
  try dsimp only
  repeat' (first
    | with_reducible assumption
    | with_reducible apply within_sendEvent (sub_of hw rfl)
    | with_reducible apply within_faultNotices (sub_of hw rfl)
    | with_reducible apply within_setBand (sub_of hw rfl)
    | with_reducible apply within_zeroS (sub_of hw rfl)
    | with_reducible apply within_loseJobs (sub_of hw rfl)
    | with_reducible apply within_gddrOff (sub_of hw rfl)
    | with_reducible apply within_allOff (sub_of hw rfl)
    | with_reducible apply within_balOff (sub_of hw rfl)
    | with_reducible apply within_setBoot (sub_of hw rfl)
    | with_reducible apply within_setFld (sub_of hw rfl)
    | with_reducible apply within_commitAll (sub_of hw rfl)
    | with_reducible apply within_raise (sub_of hw rfl))

theorem within_stopSettle {ks : List Comp} {s0 : State} {s : State} (hw : [.regs, .mem, .cells, .regions, .panels, .jobs, .load, .fports, .hports, .band, .boot, .flash, .err, .out, .free] ⊆ ks) (h : s0.within ks s) :
    s0.within ks (State.stopSettle s) := by
  unfold State.stopSettle
  try dsimp only
  repeat' (first
    | with_reducible assumption
    | with_reducible apply within_stop (sub_of hw rfl)
    | with_reducible apply within_setBand (sub_of hw rfl)
    | with_reducible apply within_foldl
    | with_reducible apply within_foldl_pair
    | with_reducible exact within_refl _
    | with_reducible apply within_ite
    | with_reducible apply within_ite_pair
    | with_reducible exact Or.inl rfl
    | exact Or.inr (hw (by decide))
    | exact hw (by decide)
    | with_reducible refine within_pair (by assumption) ?_
    | (intro _ _ _; try dsimp only)
    | (intro _ _; try dsimp only)
    | split
    | with_reducible apply within_mk)

theorem within_tapLoad {ks : List Comp} {s0 : State} {s : State} {d t} (hw : [.tap] ⊆ ks) (h : s0.within ks s) :
    s0.within ks (State.tapLoad s d t) := by
  unfold State.tapLoad
  try dsimp only
  repeat' (first
    | with_reducible assumption
    | with_reducible exact Or.inl rfl
    | exact Or.inr (hw (by decide))
    | exact hw (by decide)
    | split
    | with_reducible apply within_mk)

theorem within_thermalStop {ks : List Comp} {s0 : State} {s : State} {r} (hw : [.band, .err] ⊆ ks) (h : s0.within ks s) :
    s0.within ks (State.thermalStop s r) := by
  unfold State.thermalStop
  try dsimp only
  repeat' (first
    | with_reducible assumption
    | with_reducible apply within_stopArrive (sub_of hw rfl)
    | with_reducible apply within_ite
    | split)

theorem within_turnOnAbandon {ks : List Comp} {s0 : State} {s : State} {r} (hw : [.regs, .wrote, .mem, .cells, .regions, .resp, .panels, .jobs, .leftRun, .load, .ctxs, .tags, .fabQ, .fabWait, .rings, .hports, .boot, .err, .out] ⊆ ks) (h : s0.within ks s) :
    s0.within ks (State.turnOnAbandon s r) := by
  unfold State.turnOnAbandon
  try dsimp only
  repeat' (first
    | with_reducible assumption
    | with_reducible apply within_powerSettle (sub_of hw rfl)
    | with_reducible apply within_abandon (sub_of hw rfl)
    | with_reducible apply within_loadRefuse (sub_of hw rfl)
    | with_reducible apply within_ite
    | split)

theorem within_execBandRestart {ks : List Comp} (s : State) (hw : [.regs, .mem, .cells, .regions, .dies, .mcs, .pend13, .resp, .net, .panels, .jobs, .load, .ctxs, .tags, .fabQ, .fabWait, .fports, .rings, .hports, .outReads, .band, .time, .boot, .flash, .err, .out] ⊆ ks) :
    ∃ z, execBandRestart s = .next z ∧ s.within ks z := by
  unfold execBandRestart
  exact ⟨_, rfl, by
    repeat' (first
      | with_reducible exact within_refl _
      | with_reducible apply within_bandRestart (sub_of hw rfl))⟩

theorem within_execCoolantAssert {ks : List Comp} (s : State) (hw : [.band] ⊆ ks) :
    ∃ z, execCoolantAssert s = .next z ∧ s.within ks z := by
  unfold execCoolantAssert
  exact ⟨_, rfl, by
    repeat' (first
      | with_reducible exact within_refl _
      | with_reducible apply within_coolantHigh (sub_of hw rfl))⟩

theorem within_execCoolantDeassert {ks : List Comp} (s : State) {ns} (hw : [.band] ⊆ ks) :
    ∃ z, execCoolantDeassert ns s = .next z ∧ s.within ks z := by
  unfold execCoolantDeassert
  exact ⟨_, rfl, by
    repeat' (first
      | with_reducible exact within_refl _
      | with_reducible apply within_coolantLow (sub_of hw rfl))⟩

theorem within_execCoolantStop {ks : List Comp} (s : State) (hw : [.band, .err] ⊆ ks) :
    ∃ z, execCoolantStop s = .next z ∧ s.within ks z := by
  unfold execCoolantStop
  exact ⟨_, rfl, by
    repeat' (first
      | with_reducible exact within_refl _
      | with_reducible apply within_coolantStop (sub_of hw rfl))⟩

theorem within_execInputColdStartCondition {ks : List Comp} (s : State) (hw : [.regs, .cells, .regions, .dies, .mcs, .pend13, .resp, .net, .panels, .jobs, .load, .ctxs, .tags, .fabQ, .fabWait, .fports, .rings, .hports, .outReads, .band, .time, .boot, .flash, .err] ⊆ ks) :
    ∃ z, execInputColdStartCondition s = .next z ∧ s.within ks z := by
  unfold execInputColdStartCondition
  exact ⟨_, rfl, by
    repeat' (first
      | with_reducible exact within_refl _
      | with_reducible apply within_inputStart (sub_of hw rfl))⟩

theorem within_execModuleReset {ks : List Comp} (s : State) (hw : [.regs, .mem, .cells, .regions, .panels, .jobs, .load, .fports, .hports, .band, .boot, .flash, .err, .out] ⊆ ks) :
    ∃ z, execModuleReset s = .next z ∧ s.within ks z := by
  unfold execModuleReset
  exact ⟨_, rfl, by
    repeat' (first
      | with_reducible exact within_refl _
      | with_reducible apply within_moduleReset (sub_of hw rfl))⟩

theorem within_execModuleResetRelease {ks : List Comp} (s : State) (hw : [.regs, .cells, .regions, .dies, .mcs, .pend13, .resp, .net, .panels, .jobs, .load, .ctxs, .tags, .fabQ, .fabWait, .fports, .rings, .hports, .outReads, .band, .time, .boot, .flash, .err] ⊆ ks) :
    ∃ z, execModuleResetRelease s = .next z ∧ s.within ks z := by
  unfold execModuleResetRelease
  exact ⟨_, rfl, by
    repeat' (first
      | with_reducible exact within_refl _
      | with_reducible apply within_resetRelease (sub_of hw rfl))⟩

theorem within_execStartupCoolantTimeout {ks : List Comp} (s : State) (hw : [.regs, .mem, .fports, .hports, .boot, .flash, .err, .out] ⊆ ks) :
    ∃ z, execStartupCoolantTimeout s = .next z ∧ s.within ks z := by
  unfold execStartupCoolantTimeout
  exact ⟨_, rfl, by
    repeat' (first
      | with_reducible exact within_refl _
      | with_reducible apply within_coolantTimeout (sub_of hw rfl))⟩

theorem within_execSubstrateRegulatorFail {ks : List Comp} (s : State) {d u} (hw : [.regs, .mem, .cells, .regions, .dies, .mcs, .pend13, .resp, .net, .panels, .jobs, .load, .ctxs, .tags, .fabQ, .fabWait, .fports, .rings, .hports, .outReads, .band, .time, .boot, .flash, .err, .out] ⊆ ks) :
    ∃ z, execSubstrateRegulatorFail d u s = .next z ∧ s.within ks z := by
  unfold execSubstrateRegulatorFail
  exact ⟨_, rfl, by
    repeat' (first
      | with_reducible exact within_refl _
      | with_reducible apply within_regulatorFail (sub_of hw rfl))⟩

theorem within_execTapInstruction {ks : List Comp} (s : State) {d t} (hw : [.tap] ⊆ ks) :
    ∃ z, execTapInstruction d t s = .next z ∧ s.within ks z := by
  unfold execTapInstruction
  exact ⟨_, rfl, by
    repeat' (first
      | with_reducible exact within_refl _
      | with_reducible apply within_tapLoad (sub_of hw rfl))⟩

theorem within_execThermalStop {ks : List Comp} (s : State) {d rx ry} (hw : [.band, .err] ⊆ ks) :
    ∃ z, execThermalStop d rx ry s = .next z ∧ s.within ks z := by
  unfold execThermalStop
  exact ⟨_, rfl, by
    repeat' (first
      | with_reducible exact within_refl _
      | with_reducible apply within_thermalStop (sub_of hw rfl))⟩

theorem within_execTurnOnAbandon {ks : List Comp} (s : State) {d rx ry} (hw : [.regs, .wrote, .mem, .cells, .regions, .resp, .panels, .jobs, .leftRun, .load, .ctxs, .tags, .fabQ, .fabWait, .rings, .hports, .boot, .err, .out] ⊆ ks) :
    ∃ z, execTurnOnAbandon d rx ry s = .next z ∧ s.within ks z := by
  unfold execTurnOnAbandon
  exact ⟨_, rfl, by
    repeat' (first
      | with_reducible exact within_refl _
      | with_reducible apply within_turnOnAbandon (sub_of hw rfl))⟩

end Sys2Proof.Laws
end

