-- ==== Sys2Proof/Laws/WithinAccess.lean ====
section
/-! SUPPORT. What the operations of Machine/Access.lean may change (`State.within`). -/

set_option Elab.async false
set_option linter.all false

namespace Sys2Proof.Laws

open Sys2Proof Sys2Proof.Machine Sys2Proof.Machine.State

theorem within_ctlRefuse {ks : List Comp} {s0 : State} {s : State} {req k ga} (hw : [.regs, .err] ⊆ ks) (h : s0.within ks s) :
    s0.within ks (State.ctlRefuse s req k ga) := by
  unfold State.ctlRefuse
  try dsimp only
  repeat' (first
    | with_reducible assumption
    | with_reducible apply within_hostRefuse (sub_of hw rfl)
    | with_reducible apply within_raise (sub_of hw rfl)
    | with_reducible apply within_rtrLast (sub_of hw rfl)
    | split)

theorem within_ctlRead {ks : List Comp} {s0 : State} {s : State} {req k wide ga} (hw : [.regs, .pend13, .err] ⊆ ks) (h : s0.within ks s) :
    s0.within ks (State.ctlRead s req k wide ga).1 := by
  unfold State.ctlRead
  try dsimp only
  repeat' (first
    | with_reducible assumption
    | with_reducible apply within_dropPend (sub_of hw rfl)
    | with_reducible apply within_ctlRefuse (sub_of hw rfl)
    | with_reducible apply within_setPend (sub_of hw rfl)
    | with_reducible apply within_ite_pair
    | split)

theorem within_originLast {ks : List Comp} {s0 : State} {s : State} {req cls} (hw : [.regs] ⊆ ks) (h : s0.within ks s) :
    s0.within ks (State.originLast s req cls) := by
  unfold State.originLast
  try dsimp only
  repeat' (first
    | with_reducible assumption
    | with_reducible apply within_rtrLast (sub_of hw rfl)
    | with_reducible apply within_foldl
    | with_reducible apply within_foldl_pair
    | with_reducible exact within_refl _
    | with_reducible apply within_ite
    | with_reducible apply within_ite_pair
    | with_reducible exact Or.inl rfl
    | exact Or.inr (hw (by decide))
    | exact hw (by decide)
    | with_reducible refine within_pair (by assumption) ?_
    | (intro _ _ _; try dsimp only)
    | (intro _ _; try dsimp only)
    | split
    | with_reducible apply within_mk)

theorem within_gaRefuse {ks : List Comp} {s0 : State} {s : State} {req ga} (hw : [.regs, .err] ⊆ ks) (h : s0.within ks s) :
    s0.within ks (State.gaRefuse s req ga) := by
  unfold State.gaRefuse
  try dsimp only
  repeat' (first
    | with_reducible assumption
    | with_reducible apply within_hostRefuse (sub_of hw rfl)
    | with_reducible apply within_rtrLast (sub_of hw rfl)
    | with_reducible apply within_raise (sub_of hw rfl)
    | with_reducible apply within_originLast (sub_of hw rfl)
    | with_reducible apply within_gddrRefuse (sub_of hw rfl)
    | split)

theorem within_storeReg {ks : List Comp} {s0 : State} {s : State} {k r v ga} (hw : [.regs, .wrote, .err] ⊆ ks) (h : s0.within ks s) :
    s0.within ks (State.storeReg s k r v ga) := by
  unfold State.storeReg
  try dsimp only
  repeat' (first
    | with_reducible assumption
    | with_reducible apply within_noteWrite (sub_of hw rfl)
    | with_reducible apply within_setReg (sub_of hw rfl)
    | with_reducible apply within_lockedWrite (sub_of hw rfl)
    | with_reducible apply within_ite)

theorem within_writeReset {ks : List Comp} {s0 : State} {s : State} {v} (hw : [.regs, .mem, .cells, .regions, .dies, .mcs, .pend13, .resp, .net, .panels, .jobs, .load, .ctxs, .tags, .fabQ, .fabWait, .fports, .rings, .hports, .outReads, .band, .time, .boot, .flash, .err, .out] ⊆ ks) (h : s0.within ks s) :
    s0.within ks (State.writeReset s v) := by
  unfold State.writeReset
  try dsimp only
  repeat' (first
    | with_reducible assumption
    | with_reducible apply within_resetWarm (sub_of hw rfl)
    | with_reducible apply within_resetCold (sub_of hw rfl)
    | with_reducible apply within_ite)

theorem within_writeLicCmd {ks : List Comp} {s0 : State} {s : State} {op} (hw : [.regs, .flash, .err] ⊆ ks) (h : s0.within ks s) :
    s0.within ks (State.writeLicCmd s op) := by
  unfold State.writeLicCmd
  try dsimp only
  repeat' (first
    | with_reducible assumption
    | with_reducible apply within_nonceAfter (sub_of hw rfl)
    | with_reducible apply within_raise (sub_of hw rfl)
    | with_reducible apply within_licRefuse (sub_of hw rfl)
    | with_reducible apply within_licRes (sub_of hw rfl)
    | with_reducible apply within_ite
    | with_reducible exact Or.inl rfl
    | exact Or.inr (hw (by decide))
    | exact hw (by decide)
    | with_reducible apply within_mk)

theorem within_engWrite {ks : List Comp} {s0 : State} {s : State} {o row v ga} (hw : [.regs, .wrote, .mem, .cells, .regions, .dies, .mcs, .pend13, .resp, .net, .panels, .jobs, .leftRun, .load, .ctxs, .tags, .fabQ, .fabWait, .fports, .rings, .hports, .outReads, .band, .time, .boot, .flash, .err, .out, .fates] ⊆ ks) (h : s0.within ks s) :
    s0.within ks (State.engWrite s o row v ga) := by
  unfold State.engWrite
  try dsimp only
  repeat' (first
    | with_reducible assumption
    | with_reducible apply within_quickRemap (sub_of hw rfl)
    | with_reducible apply within_loadStart (sub_of hw rfl)
    | with_reducible apply within_loadAbort (sub_of hw rfl)
    | with_reducible apply within_jobCmd (sub_of hw rfl)
    | with_reducible apply within_declareStep (sub_of hw rfl)
    | with_reducible apply within_setStepNum (sub_of hw rfl)
    | with_reducible apply within_setFld (sub_of hw rfl)
    | with_reducible apply within_storeReg (sub_of hw rfl)
    | with_reducible apply within_timeSrc (sub_of hw rfl)
    | with_reducible apply within_setBand (sub_of hw rfl)
    | with_reducible apply within_timeSet (sub_of hw rfl)
    | with_reducible apply within_rampRequest (sub_of hw rfl)
    | with_reducible apply within_bandRestart (sub_of hw rfl)
    | with_reducible apply within_writeReset (sub_of hw rfl)
    | with_reducible apply within_writeLicCmd (sub_of hw rfl)
    | with_reducible apply within_foldl
    | with_reducible apply within_foldl_pair
    | with_reducible exact within_refl _
    | with_reducible apply within_ite
    | with_reducible apply within_ite_pair
    | with_reducible exact Or.inl rfl
    | exact Or.inr (hw (by decide))
    | exact hw (by decide)
    | with_reducible refine within_pair (by assumption) ?_
    | (intro _ _ _; try dsimp only)
    | (intro _ _; try dsimp only)
    | split
    | with_reducible apply within_mk)

theorem within_writeQcfg {ks : List Comp} {s0 : State} {s : State} {d o v} (hw : [.regs, .ctxs, .tags, .err] ⊆ ks) (h : s0.within ks s) :
    s0.within ks (State.writeQcfg s d o v) := by
  unfold State.writeQcfg
  try dsimp only
  repeat' (first
    | with_reducible assumption
    | with_reducible apply within_cfgIgnored (sub_of hw rfl)
    | with_reducible apply within_setCtx (sub_of hw rfl)
    | with_reducible apply within_ctxOpen (sub_of hw rfl)
    | with_reducible apply within_ctxClose (sub_of hw rfl)
    | with_reducible apply within_ite)

theorem within_writeEngineId {ks : List Comp} {s0 : State} {s : State} {d v} (hw : [.regs, .ctxs, .tags, .fports, .err] ⊆ ks) (h : s0.within ks s) :
    s0.within ks (State.writeEngineId s d v) := by
  unfold State.writeEngineId
  try dsimp only
  repeat' (first
    | with_reducible assumption
    | with_reducible apply within_fab54 (sub_of hw rfl)
    | with_reducible apply within_cfgMissing (sub_of hw rfl)
    | with_reducible apply within_cfgSupplied (sub_of hw rfl)
    | with_reducible apply within_setReg (sub_of hw rfl)
    | with_reducible apply within_foldl
    | with_reducible apply within_foldl_pair
    | with_reducible exact within_refl _
    | with_reducible apply within_ite
    | with_reducible apply within_ite_pair
    | with_reducible exact Or.inl rfl
    | exact Or.inr (hw (by decide))
    | exact hw (by decide)
    | with_reducible refine within_pair (by assumption) ?_
    | (intro _ _ _; try dsimp only)
    | (intro _ _; try dsimp only)
    | split
    | with_reducible apply within_mk)

theorem within_writePetype {ks : List Comp} {s0 : State} {s : State} {d p row v ga} (hw : [.regs, .wrote, .err] ⊆ ks) (h : s0.within ks s) :
    s0.within ks (State.writePetype s d p row v ga) := by
  unfold State.writePetype
  try dsimp only
  repeat' (first
    | with_reducible assumption
    | with_reducible apply within_cfgSupplied (sub_of hw rfl)
    | with_reducible apply within_storeReg (sub_of hw rfl)
    | with_reducible apply within_foldl
    | with_reducible apply within_foldl_pair
    | with_reducible exact within_refl _
    | with_reducible apply within_ite
    | with_reducible apply within_ite_pair
    | with_reducible exact Or.inl rfl
    | exact Or.inr (hw (by decide))
    | exact hw (by decide)
    | with_reducible refine within_pair (by assumption) ?_
    | (intro _ _ _; try dsimp only)
    | (intro _ _; try dsimp only)
    | split
    | with_reducible apply within_mk)

theorem within_writePcfg {ks : List Comp} {s0 : State} {s : State} {d p row v ga} (hw : [.regs, .wrote, .ctxs, .tags, .fports, .err] ⊆ ks) (h : s0.within ks s) :
    s0.within ks (State.writePcfg s d p row v ga) := by
  unfold State.writePcfg
  try dsimp only
  repeat' (first
    | with_reducible assumption
    | with_reducible apply within_cfgSupplied (sub_of hw rfl)
    | with_reducible apply within_setFld (sub_of hw rfl)
    | with_reducible apply within_storeReg (sub_of hw rfl)
    | with_reducible apply within_portEn (sub_of hw rfl)
    | with_reducible apply within_ite)

theorem within_writeRegCmd {ks : List Comp} {s0 : State} {s : State} {d v} (hw : [.regs, .cells, .regions, .band, .err] ⊆ ks) (h : s0.within ks s) :
    s0.within ks (State.writeRegCmd s d v) := by
  unfold State.writeRegCmd
  try dsimp only
  repeat' (first
    | with_reducible assumption
    | with_reducible apply within_regionRefuse (sub_of hw rfl)
    | with_reducible apply within_regionCmd (sub_of hw rfl)
    | with_reducible apply within_ite)

theorem within_writeTempCfg {ks : List Comp} {s0 : State} {s : State} {d row v ga} (hw : [.regs, .wrote, .err] ⊆ ks) (h : s0.within ks s) :
    s0.within ks (State.writeTempCfg s d row v ga) := by
  unfold State.writeTempCfg
  try dsimp only
  repeat' (first
    | with_reducible assumption
    | with_reducible apply within_storeReg (sub_of hw rfl)
    | with_reducible apply within_setFld (sub_of hw rfl))

theorem within_writeMcfg {ks : List Comp} {s0 : State} {s : State} {d row v ga} (hw : [.regs, .wrote, .err] ⊆ ks) (h : s0.within ks s) :
    s0.within ks (State.writeMcfg s d row v ga) := by
  unfold State.writeMcfg
  try dsimp only
  repeat' (first
    | with_reducible assumption
    | with_reducible apply within_storeReg (sub_of hw rfl)
    | with_reducible apply within_ite)

theorem within_writeRing {ks : List Comp} {s0 : State} {s : State} {p o v} (hw : [.regs, .mem, .rings, .hports, .err, .out] ⊆ ks) (h : s0.within ks s) :
    s0.within ks (State.writeRing s p o v) := by
  unfold State.writeRing
  try dsimp only
  repeat' (first
    | with_reducible assumption
    | with_reducible apply within_setRing (sub_of hw rfl)
    | with_reducible apply within_enableRing (sub_of hw rfl)
    | with_reducible apply within_disableRing (sub_of hw rfl)
    | with_reducible apply within_ite)

theorem within_pcieWrite {ks : List Comp} {s0 : State} {s : State} {req p o row v ga} (hw : [.regs, .wrote, .mem, .rings, .hports, .err, .out] ⊆ ks) (h : s0.within ks s) :
    s0.within ks (State.pcieWrite s req p o row v ga).1 := by
  unfold State.pcieWrite
  try dsimp only
  repeat' (first
    | with_reducible assumption
    | with_reducible apply within_writeRing (sub_of hw rfl)
    | with_reducible apply within_setFld (sub_of hw rfl)
    | with_reducible apply within_enableEvq (sub_of hw rfl)
    | with_reducible apply within_evqCi (sub_of hw rfl)
    | with_reducible apply within_msixWrite (sub_of hw rfl)
    | with_reducible apply within_storeReg (sub_of hw rfl)
    | with_reducible apply within_ite
    | with_reducible apply within_ite_pair)

theorem within_dieWrite {ks : List Comp} {s0 : State} {s : State} {req d o row v ga} (hw : [.regs, .wrote, .mem, .cells, .regions, .dies, .mcs, .resp, .ctxs, .tags, .fports, .rings, .hports, .band, .flash, .err, .out, .fates] ⊆ ks) (h : s0.within ks s) :
    s0.within ks (State.dieWrite s req d o row v ga).1 := by
  unfold State.dieWrite
  try dsimp only
  repeat' (first
    | with_reducible assumption
    | with_reducible apply within_writeQcfg (sub_of hw rfl)
    | with_reducible apply within_writeEngineId (sub_of hw rfl)
    | with_reducible apply within_writePetype (sub_of hw rfl)
    | with_reducible apply within_writePcfg (sub_of hw rfl)
    | with_reducible apply within_pcmd (sub_of hw rfl)
    | with_reducible apply within_writeRegCmd (sub_of hw rfl)
    | with_reducible apply within_writeTempCfg (sub_of hw rfl)
    | with_reducible apply within_writeMcfg (sub_of hw rfl)
    | with_reducible apply within_memRawWrite (sub_of hw rfl)
    | with_reducible apply within_memRawRead (sub_of hw rfl)
    | with_reducible apply within_pcieWrite (sub_of hw rfl)
    | with_reducible apply within_storeReg (sub_of hw rfl)
    | with_reducible apply within_holdStageCfg (sub_of hw rfl)
    | with_reducible apply within_ite
    | with_reducible apply within_ite_pair
    | split)

theorem within_writeScrubRate {ks : List Comp} {s0 : State} {s : State} {c} (hw : [.cells] ⊆ ks) (h : s0.within ks s) :
    s0.within ks (State.writeScrubRate s c) := by
  unfold State.writeScrubRate
  try dsimp only
  repeat' (first
    | with_reducible assumption
    | with_reducible apply within_setScrub (sub_of hw rfl)
    | with_reducible apply within_foldl
    | (intro _ _ _; try dsimp only)
    | (intro _ _; try dsimp only))

theorem within_writeCtrl {ks : List Comp} {s0 : State} {s : State} {c k v} (hw : [.regs, .mem, .cells, .regions, .err] ⊆ ks) (h : s0.within ks s) :
    s0.within ks (State.writeCtrl s c k v) := by
  unfold State.writeCtrl
  try dsimp only
  repeat' (first
    | with_reducible assumption
    | with_reducible apply within_setFld (sub_of hw rfl)
    | with_reducible apply within_coreRun (sub_of hw rfl)
    | with_reducible apply within_coreOff (sub_of hw rfl)
    | with_reducible apply within_ite)

theorem within_cellWrite {ks : List Comp} {s0 : State} {s : State} {req c o row v ga} (hw : [.regs, .wrote, .mem, .cells, .regions, .resp, .net, .panels, .jobs, .leftRun, .load, .ctxs, .tags, .fabQ, .fabWait, .rings, .hports, .err, .out] ⊆ ks) (h : s0.within ks s) :
    s0.within ks (State.cellWrite s req c o row v ga).1 := by
  unfold State.cellWrite
  try dsimp only
  repeat' (first
    | with_reducible assumption
    | with_reducible apply within_imemWatch (sub_of hw rfl)
    | with_reducible apply within_imemLoad (sub_of hw rfl)
    | with_reducible apply within_mxePush (sub_of hw rfl)
    | with_reducible apply within_clearReg (sub_of hw rfl)
    | with_reducible apply within_mxeFlush (sub_of hw rfl)
    | with_reducible apply within_rplCtrl (sub_of hw rfl)
    | with_reducible apply within_setFld (sub_of hw rfl)
    | with_reducible apply within_noteWrite (sub_of hw rfl)
    | with_reducible apply within_writeOwners (sub_of hw rfl)
    | with_reducible apply within_storeReg (sub_of hw rfl)
    | with_reducible apply within_writeScrubRate (sub_of hw rfl)
    | with_reducible apply within_eccRawWrite (sub_of hw rfl)
    | with_reducible apply within_eccRawRead (sub_of hw rfl)
    | with_reducible apply within_bengPush (sub_of hw rfl)
    | with_reducible apply within_writeCtrl (sub_of hw rfl)
    | with_reducible apply within_incSat (sub_of hw rfl)
    | with_reducible apply within_txPush (sub_of hw rfl)
    | with_reducible apply within_armCounter (sub_of hw rfl)
    | with_reducible apply within_sigWrite (sub_of hw rfl)
    | with_reducible apply within_ite
    | with_reducible apply within_ite_pair)

theorem within_writeReg {ks : List Comp} {s0 : State} {s : State} {req k row v ga} (hw : [.regs, .wrote, .mem, .cells, .regions, .dies, .mcs, .pend13, .resp, .net, .panels, .jobs, .leftRun, .load, .ctxs, .tags, .fabQ, .fabWait, .fports, .rings, .hports, .outReads, .band, .time, .boot, .flash, .err, .out, .fates] ⊆ ks) (h : s0.within ks s) :
    s0.within ks (State.writeReg s req k row v ga).1 := by
  unfold State.writeReg
  try dsimp only
  repeat' (first
    | with_reducible assumption
    | with_reducible apply within_engWrite (sub_of hw rfl)
    | with_reducible apply within_dieWrite (sub_of hw rfl)
    | with_reducible apply within_cellWrite (sub_of hw rfl)
    | with_reducible apply within_ite_pair)

theorem within_ctlWrite {ks : List Comp} {s0 : State} {s : State} {req k wide v ga} (hw : [.regs, .wrote, .mem, .cells, .regions, .dies, .mcs, .pend13, .resp, .net, .panels, .jobs, .leftRun, .load, .ctxs, .tags, .fabQ, .fabWait, .fports, .rings, .hports, .outReads, .band, .time, .boot, .flash, .err, .out, .fates] ⊆ ks) (h : s0.within ks s) :
    s0.within ks (State.ctlWrite s req k wide v ga).1 := by
  unfold State.ctlWrite
  try dsimp only
  repeat' (first
    | with_reducible assumption
    | with_reducible apply within_dropPend (sub_of hw rfl)
    | with_reducible apply within_fab54 (sub_of hw rfl)
    | with_reducible apply within_ctlRefuse (sub_of hw rfl)
    | with_reducible apply within_writeReg (sub_of hw rfl)
    | with_reducible apply within_setPend (sub_of hw rfl)
    | with_reducible apply within_ite_pair
    | split)

theorem within_regRead {ks : List Comp} {s0 : State} {s : State} {req ga wide} (hw : [.regs, .pend13, .resp, .err] ⊆ ks) (h : s0.within ks s) :
    s0.within ks (State.regRead s req ga wide) := by
  unfold State.regRead
  try dsimp only
  repeat' (first
    | with_reducible assumption
    | with_reducible apply within_ctlRead (sub_of hw rfl)
    | with_reducible apply within_answer (sub_of hw rfl)
    | with_reducible apply within_gaRefuse (sub_of hw rfl)
    | with_reducible refine within_pair (by assumption) ?_
    | split)

theorem within_regWrite {ks : List Comp} {s0 : State} {s : State} {req ga wide v} (hw : [.regs, .wrote, .mem, .cells, .regions, .dies, .mcs, .pend13, .resp, .net, .panels, .jobs, .leftRun, .load, .ctxs, .tags, .fabQ, .fabWait, .fports, .rings, .hports, .outReads, .band, .time, .boot, .flash, .err, .out, .fates] ⊆ ks) (h : s0.within ks s) :
    s0.within ks (State.regWrite s req ga wide v) := by
  unfold State.regWrite
  try dsimp only
  repeat' (first
    | with_reducible assumption
    | with_reducible apply within_ctlWrite (sub_of hw rfl)
    | with_reducible apply within_answer (sub_of hw rfl)
    | with_reducible apply within_gaRefuse (sub_of hw rfl)
    | split)

theorem within_execHighWordReadPair {ks : List Comp} (s : State) {req ga} (hw : [.regs, .pend13, .resp, .err] ⊆ ks) :
    ∃ z, execHighWordReadPair req ga s = .next z ∧ s.within ks z := by
  unfold execHighWordReadPair
  exact ⟨_, rfl, by
    repeat' (first
      | with_reducible exact within_refl _
      | with_reducible apply within_regRead (sub_of hw rfl))⟩

theorem within_execHighWordWritePair {ks : List Comp} (s : State) {req ga v} (hw : [.regs, .wrote, .mem, .cells, .regions, .dies, .mcs, .pend13, .resp, .net, .panels, .jobs, .leftRun, .load, .ctxs, .tags, .fabQ, .fabWait, .fports, .rings, .hports, .outReads, .band, .time, .boot, .flash, .err, .out, .fates] ⊆ ks) :
    ∃ z, execHighWordWritePair req ga v s = .next z ∧ s.within ks z := by
  unfold execHighWordWritePair
  exact ⟨_, rfl, by
    repeat' (first
      | with_reducible exact within_refl _
      | with_reducible apply within_regWrite (sub_of hw rfl))⟩

theorem within_execLowWordReadLatch {ks : List Comp} (s : State) {req ga} (hw : [.regs, .pend13, .resp, .err] ⊆ ks) :
    ∃ z, execLowWordReadLatch req ga s = .next z ∧ s.within ks z := by
  unfold execLowWordReadLatch
  exact ⟨_, rfl, by
    repeat' (first
      | with_reducible exact within_refl _
      | with_reducible apply within_regRead (sub_of hw rfl))⟩

theorem within_execLowWordWriteHeld {ks : List Comp} (s : State) {req ga v} (hw : [.regs, .wrote, .mem, .cells, .regions, .dies, .mcs, .pend13, .resp, .net, .panels, .jobs, .leftRun, .load, .ctxs, .tags, .fabQ, .fabWait, .fports, .rings, .hports, .outReads, .band, .time, .boot, .flash, .err, .out, .fates] ⊆ ks) :
    ∃ z, execLowWordWriteHeld req ga v s = .next z ∧ s.within ks z := by
  unfold execLowWordWriteHeld
  exact ⟨_, rfl, by
    repeat' (first
      | with_reducible exact within_refl _
      | with_reducible apply within_regWrite (sub_of hw rfl))⟩

theorem within_execRegisterWrite {ks : List Comp} (s : State) {req ga wide v} (hw : [.regs, .wrote, .mem, .cells, .regions, .dies, .mcs, .pend13, .resp, .net, .panels, .jobs, .leftRun, .load, .ctxs, .tags, .fabQ, .fabWait, .fports, .rings, .hports, .outReads, .band, .time, .boot, .flash, .err, .out, .fates] ⊆ ks) :
    ∃ z, execRegisterWrite req ga wide v s = .next z ∧ s.within ks z := by
  unfold execRegisterWrite
  exact ⟨_, rfl, by
    repeat' (first
      | with_reducible exact within_refl _
      | with_reducible apply within_regWrite (sub_of hw rfl))⟩

end Sys2Proof.Laws
end

