-- ==== Sys2Proof/Laws/WithinMeshLand.lean ====
section
/-! SUPPORT. What the operations of Machine/MeshLand.lean may change (`State.within`). -/

set_option Elab.async false
set_option linter.all false

namespace Sys2Proof.Laws

open Sys2Proof Sys2Proof.Machine Sys2Proof.Machine.State

theorem within_ackReceive {ks : List Comp} {s0 : State} {s : State} {i} (hw : [.cells, .resp, .net] ⊆ ks) (h : s0.within ks s) :
    s0.within ks (State.ackReceive s i) := by
  unfold State.ackReceive
  try dsimp only
  repeat' (first
    | with_reducible assumption
    | with_reducible apply within_replacePkt (sub_of hw rfl)
    | with_reducible apply within_modTx (sub_of hw rfl)
    | with_reducible apply within_txStop (sub_of hw rfl)
    | with_reducible apply within_setCore (sub_of hw rfl)
    | with_reducible apply within_answer (sub_of hw rfl)
    | with_reducible apply within_foldl
    | with_reducible apply within_foldl_pair
    | with_reducible exact within_refl _
    | with_reducible apply within_ite
    | with_reducible apply within_ite_pair
    | with_reducible exact Or.inl rfl
    | exact Or.inr (hw (by decide))
    | exact hw (by decide)
    | with_reducible refine within_pair (by assumption) ?_
    | (intro _ _ _; try dsimp only)
    | (intro _ _; try dsimp only)
    | split
    | with_reducible apply within_mk)

theorem within_ctlGet {ks : List Comp} {s0 : State} {s : State} {req k ga len} (hw : [.regs, .pend13, .err] ⊆ ks) (h : s0.within ks s) :
    s0.within ks (State.ctlGet s req k ga len).1 := by
  unfold State.ctlGet
  try dsimp only
  repeat' (first
    | with_reducible assumption
    | with_reducible apply within_ctlRead (sub_of hw rfl)
    | with_reducible apply within_ctlRefuse (sub_of hw rfl)
    | with_reducible apply within_dropPend (sub_of hw rfl)
    | with_reducible apply within_ite_pair
    | with_reducible refine within_pair (by assumption) ?_
    | split)

theorem within_agentGet {ks : List Comp} {s0 : State} {s : State} {p} (hw : [.regs, .mem, .mcs, .pend13, .resp, .outReads, .nextId, .flash, .err, .out, .fates] ⊆ ks) (h : s0.within ks s) :
    s0.within ks (State.agentGet s p).1 := by
  unfold State.agentGet
  try dsimp only
  repeat' (first
    | with_reducible assumption
    | with_reducible apply within_gddrReadNow (sub_of hw rfl)
    | with_reducible apply within_outRead (sub_of hw rfl)
    | with_reducible apply within_ctlGet (sub_of hw rfl)
    | with_reducible apply within_gaRefuse (sub_of hw rfl)
    | with_reducible refine within_pair (by assumption) ?_
    | split)

theorem within_ctlPut {ks : List Comp} {s0 : State} {s : State} {req k ga data} (hw : [.regs, .wrote, .mem, .cells, .regions, .dies, .mcs, .pend13, .resp, .net, .panels, .jobs, .leftRun, .load, .ctxs, .tags, .fabQ, .fabWait, .fports, .rings, .hports, .outReads, .band, .time, .boot, .flash, .err, .out, .fates] ⊆ ks) (h : s0.within ks s) :
    s0.within ks (State.ctlPut s req k ga data).1 := by
  unfold State.ctlPut
  try dsimp only
  repeat' (first
    | with_reducible assumption
    | with_reducible apply within_ctlWrite (sub_of hw rfl)
    | with_reducible apply within_submit (sub_of hw rfl)
    | with_reducible apply within_dropPend (sub_of hw rfl)
    | with_reducible apply within_fab54 (sub_of hw rfl)
    | with_reducible apply within_ctlRefuse (sub_of hw rfl)
    | with_reducible apply within_ite_pair
    | split)

theorem within_agentPut {ks : List Comp} {s0 : State} {s : State} {p} (hw : [.regs, .wrote, .mem, .cells, .regions, .dies, .mcs, .pend13, .resp, .net, .panels, .jobs, .leftRun, .load, .ctxs, .tags, .fabQ, .fabWait, .fports, .rings, .hports, .outReads, .band, .time, .boot, .flash, .err, .out, .fates] ⊆ ks) (h : s0.within ks s) :
    s0.within ks (State.agentPut s p).1 := by
  unfold State.agentPut
  try dsimp only
  repeat' (first
    | with_reducible assumption
    | with_reducible apply within_gddrWriteNow (sub_of hw rfl)
    | with_reducible apply within_outWrite (sub_of hw rfl)
    | with_reducible apply within_ctlPut (sub_of hw rfl)
    | with_reducible apply within_gaRefuse (sub_of hw rfl)
    | split)

theorem within_cellReply {ks : List Comp} {s0 : State} {s : State} {c p data pois status} (hw : [.net] ⊆ ks) (h : s0.within ks s) :
    s0.within ks (State.cellReply s c p data pois status) := by
  unfold State.cellReply
  try dsimp only
  repeat' (first
    | with_reducible assumption
    | with_reducible apply within_ite
    | with_reducible exact Or.inl rfl
    | exact Or.inr (hw (by decide))
    | exact hw (by decide)
    | split
    | with_reducible apply within_mk)

theorem within_getResponse {ks : List Comp} {s0 : State} {s : State} {c t p} (hw : [.regs, .mem, .cells, .regions, .net, .err] ⊆ ks) (h : s0.within ks s) :
    s0.within ks (State.getResponse s c t p) := by
  unfold State.getResponse
  try dsimp only
  repeat' (first
    | with_reducible assumption
    | with_reducible apply within_modTx (sub_of hw rfl)
    | with_reducible apply within_txStop (sub_of hw rfl)
    | with_reducible apply within_spmRefuse (sub_of hw rfl)
    | with_reducible apply within_txAdvance (sub_of hw rfl)
    | with_reducible apply within_meshWrite (sub_of hw rfl)
    | with_reducible apply within_ite
    | split)

theorem within_holeRefuse {ks : List Comp} {s0 : State} {s : State} {c p} (hw : [.regs, .err] ⊆ ks) (h : s0.within ks s) :
    s0.within ks (State.holeRefuse s c p) := by
  unfold State.holeRefuse
  try dsimp only
  repeat' (first
    | with_reducible assumption
    | with_reducible apply within_hostRefuse (sub_of hw rfl)
    | with_reducible apply within_rtrLast (sub_of hw rfl)
    | with_reducible apply within_raise (sub_of hw rfl)
    | with_reducible apply within_ite
    | split)

theorem within_tagLast {ks : List Comp} {s0 : State} {s : State} {t : State} {c p} (hw : [.regs] ⊆ ks) (h0 : s0.within ks s) (h1 : s0.within ks t) :
    s0.within ks (State.tagLast s t c p) := by
  unfold State.tagLast
  try dsimp only
  repeat' (first
    | with_reducible assumption
    | with_reducible apply within_setFld (sub_of hw rfl)
    | with_reducible apply within_foldl
    | with_reducible apply within_foldl_pair
    | with_reducible exact within_refl _
    | with_reducible apply within_ite
    | with_reducible apply within_ite_pair
    | with_reducible exact Or.inl rfl
    | exact Or.inr (hw (by decide))
    | exact hw (by decide)
    | with_reducible refine within_pair (by assumption) ?_
    | (intro _ _ _; try dsimp only)
    | (intro _ _; try dsimp only)
    | split
    | with_reducible apply within_mk)

theorem within_landRead {ks : List Comp} {s0 : State} {s : State} {c p} (hw : [.regs, .cells, .regions, .pend13, .err] ⊆ ks) (h : s0.within ks s) :
    s0.within ks (State.landRead s c p).1 := by
  unfold State.landRead
  try dsimp only
  repeat' (first
    | with_reducible assumption
    | with_reducible apply within_holeRefuse (sub_of hw rfl)
    | with_reducible apply within_spmRefuse (sub_of hw rfl)
    | with_reducible apply within_meshRead (sub_of hw rfl)
    | with_reducible apply within_ctlGet (sub_of hw rfl)
    | with_reducible apply within_tagLast (sub_of hw rfl)
    | with_reducible apply within_ite_pair
    | split)

theorem within_landWrite {ks : List Comp} {s0 : State} {s : State} {c p} (hw : [.regs, .wrote, .mem, .cells, .regions, .dies, .mcs, .pend13, .resp, .net, .panels, .jobs, .leftRun, .load, .ctxs, .tags, .fabQ, .fabWait, .fports, .rings, .hports, .outReads, .band, .time, .boot, .flash, .err, .out, .fates] ⊆ ks) (h : s0.within ks s) :
    s0.within ks (State.landWrite s c p).1 := by
  unfold State.landWrite
  try dsimp only
  repeat' (first
    | with_reducible assumption
    | with_reducible apply within_holeRefuse (sub_of hw rfl)
    | with_reducible apply within_spmRefuse (sub_of hw rfl)
    | with_reducible apply within_meshWrite (sub_of hw rfl)
    | with_reducible apply within_ctlPut (sub_of hw rfl)
    | with_reducible apply within_tagLast (sub_of hw rfl)
    | with_reducible apply within_ite_pair
    | split)

theorem within_mcastLand {ks : List Comp} {s0 : State} {s : State} {i ecc} (hw : [.regs, .mem, .cells, .regions, .net, .err] ⊆ ks) (h : s0.within ks s) :
    s0.within ks (State.mcastLand s i ecc) := by
  unfold State.mcastLand
  try dsimp only
  repeat' (first
    | with_reducible assumption
    | with_reducible apply within_replacePkt (sub_of hw rfl)
    | with_reducible apply within_spmRefuse (sub_of hw rfl)
    | with_reducible apply within_haltPanelOf (sub_of hw rfl)
    | with_reducible apply within_meshWrite (sub_of hw rfl)
    | with_reducible apply within_applySignal (sub_of hw rfl)
    | with_reducible apply within_routerEcc (sub_of hw rfl)
    | with_reducible apply within_foldl
    | with_reducible apply within_foldl_pair
    | with_reducible exact within_refl _
    | with_reducible apply within_ite
    | with_reducible apply within_ite_pair
    | with_reducible exact Or.inl rfl
    | exact Or.inr (hw (by decide))
    | exact hw (by decide)
    | with_reducible refine within_pair (by assumption) ?_
    | (intro _ _ _; try dsimp only)
    | (intro _ _; try dsimp only)
    | split
    | with_reducible apply within_mk)

theorem within_mcastSignal {ks : List Comp} {s0 : State} {s : State} {i ecc} (hw : [.regs, .cells, .net, .err] ⊆ ks) (h : s0.within ks s) :
    s0.within ks (State.mcastSignal s i ecc) := by
  unfold State.mcastSignal
  try dsimp only
  repeat' (first
    | with_reducible assumption
    | with_reducible apply within_replacePkt (sub_of hw rfl)
    | with_reducible apply within_applySignal (sub_of hw rfl)
    | with_reducible apply within_routerEcc (sub_of hw rfl)
    | with_reducible apply within_foldl
    | with_reducible apply within_foldl_pair
    | with_reducible exact within_refl _
    | with_reducible apply within_ite
    | with_reducible apply within_ite_pair
    | with_reducible exact Or.inl rfl
    | exact Or.inr (hw (by decide))
    | exact hw (by decide)
    | with_reducible refine within_pair (by assumption) ?_
    | (intro _ _ _; try dsimp only)
    | (intro _ _; try dsimp only)
    | split
    | with_reducible apply within_mk)

theorem within_readLand {ks : List Comp} {s0 : State} {s : State} {i m} (hw : [.regs, .mem, .cells, .regions, .mcs, .pend13, .resp, .net, .outReads, .nextId, .flash, .err, .out, .fates] ⊆ ks) (h : s0.within ks s) :
    s0.within ks (State.readLand s i m) := by
  unfold State.readLand
  try dsimp only
  repeat' (first
    | with_reducible assumption
    | with_reducible apply within_replacePkt (sub_of hw rfl)
    | with_reducible apply within_landRead (sub_of hw rfl)
    | with_reducible apply within_cellReply (sub_of hw rfl)
    | with_reducible apply within_meshAdmit (sub_of hw rfl)
    | with_reducible apply within_agentGet (sub_of hw rfl)
    | with_reducible apply within_afterMesh (sub_of hw rfl)
    | with_reducible apply within_agentReply (sub_of hw rfl)
    | with_reducible refine within_pair (by assumption) ?_
    | split)

theorem within_readResponse {ks : List Comp} {s0 : State} {s : State} {i} (hw : [.regs, .mem, .cells, .regions, .resp, .net, .err] ⊆ ks) (h : s0.within ks s) :
    s0.within ks (State.readResponse s i) := by
  unfold State.readResponse
  try dsimp only
  repeat' (first
    | with_reducible assumption
    | with_reducible apply within_replacePkt (sub_of hw rfl)
    | with_reducible apply within_getResponse (sub_of hw rfl)
    | with_reducible apply within_answer (sub_of hw rfl)
    | with_reducible apply within_foldl
    | with_reducible apply within_foldl_pair
    | with_reducible exact within_refl _
    | with_reducible apply within_ite
    | with_reducible apply within_ite_pair
    | with_reducible exact Or.inl rfl
    | exact Or.inr (hw (by decide))
    | exact hw (by decide)
    | with_reducible refine within_pair (by assumption) ?_
    | (intro _ _ _; try dsimp only)
    | (intro _ _; try dsimp only)
    | split
    | with_reducible apply within_mk)

theorem within_signalLand {ks : List Comp} {s0 : State} {s : State} {i ecc} (hw : [.regs, .cells, .net, .err] ⊆ ks) (h : s0.within ks s) :
    s0.within ks (State.signalLand s i ecc) := by
  unfold State.signalLand
  try dsimp only
  repeat' (first
    | with_reducible assumption
    | with_reducible apply within_replacePkt (sub_of hw rfl)
    | with_reducible apply within_landSignal (sub_of hw rfl)
    | with_reducible apply within_routerEcc (sub_of hw rfl)
    | with_reducible apply within_foldl
    | with_reducible apply within_foldl_pair
    | with_reducible exact within_refl _
    | with_reducible apply within_ite
    | with_reducible apply within_ite_pair
    | with_reducible exact Or.inl rfl
    | exact Or.inr (hw (by decide))
    | exact hw (by decide)
    | with_reducible refine within_pair (by assumption) ?_
    | (intro _ _ _; try dsimp only)
    | (intro _ _; try dsimp only)
    | split
    | with_reducible apply within_mk)

theorem within_writeLand {ks : List Comp} {s0 : State} {s : State} {i m ecc} (hw : [.regs, .wrote, .mem, .cells, .regions, .dies, .mcs, .pend13, .resp, .net, .panels, .jobs, .leftRun, .load, .ctxs, .tags, .fabQ, .fabWait, .fports, .rings, .hports, .outReads, .band, .time, .boot, .flash, .err, .out, .fates] ⊆ ks) (h : s0.within ks s) :
    s0.within ks (State.writeLand s i m ecc) := by
  unfold State.writeLand
  try dsimp only
  repeat' (first
    | with_reducible assumption
    | with_reducible apply within_replacePkt (sub_of hw rfl)
    | with_reducible apply within_landWrite (sub_of hw rfl)
    | with_reducible apply within_applySignal (sub_of hw rfl)
    | with_reducible apply within_routerEcc (sub_of hw rfl)
    | with_reducible apply within_cellReply (sub_of hw rfl)
    | with_reducible apply within_meshAdmit (sub_of hw rfl)
    | with_reducible apply within_agentPut (sub_of hw rfl)
    | with_reducible apply within_afterMesh (sub_of hw rfl)
    | with_reducible apply within_agentReply (sub_of hw rfl)
    | with_reducible apply within_foldl
    | with_reducible apply within_foldl_pair
    | with_reducible exact within_refl _
    | with_reducible apply within_ite
    | with_reducible apply within_ite_pair
    | with_reducible exact Or.inl rfl
    | exact Or.inr (hw (by decide))
    | exact hw (by decide)
    | with_reducible refine within_pair (by assumption) ?_
    | (intro _ _ _; try dsimp only)
    | (intro _ _; try dsimp only)
    | split
    | with_reducible apply within_mk)

theorem within_execAckReceive {ks : List Comp} (s : State) {i} (hw : [.cells, .resp, .net] ⊆ ks) :
    ∃ z, execAckReceive i s = .next z ∧ s.within ks z := by
  unfold execAckReceive
  exact ⟨_, rfl, by
    repeat' (first
      | with_reducible exact within_refl _
      | with_reducible apply within_ackReceive (sub_of hw rfl))⟩

theorem within_execMulticastSignal {ks : List Comp} (s : State) {i ecc} (hw : [.regs, .cells, .net, .err] ⊆ ks) :
    ∃ z, execMulticastSignal i ecc s = .next z ∧ s.within ks z := by
  unfold execMulticastSignal
  exact ⟨_, rfl, by
    repeat' (first
      | with_reducible exact within_refl _
      | with_reducible apply within_mcastSignal (sub_of hw rfl))⟩

theorem within_execMulticastWriteLand {ks : List Comp} (s : State) {i ecc} (hw : [.regs, .mem, .cells, .regions, .net, .err] ⊆ ks) :
    ∃ z, execMulticastWriteLand i ecc s = .next z ∧ s.within ks z := by
  unfold execMulticastWriteLand
  exact ⟨_, rfl, by
    repeat' (first
      | with_reducible exact within_refl _
      | with_reducible apply within_mcastLand (sub_of hw rfl))⟩

theorem within_execReadPacket {ks : List Comp} (s : State) {i m} (hw : [.regs, .mem, .cells, .regions, .mcs, .pend13, .resp, .net, .outReads, .nextId, .flash, .err, .out, .fates] ⊆ ks) :
    ∃ z, execReadPacket i m s = .next z ∧ s.within ks z := by
  unfold execReadPacket
  exact ⟨_, rfl, by
    repeat' (first
      | with_reducible exact within_refl _
      | with_reducible apply within_readLand (sub_of hw rfl))⟩

theorem within_execReadResponseReceive {ks : List Comp} (s : State) {i} (hw : [.regs, .mem, .cells, .regions, .resp, .net, .err] ⊆ ks) :
    ∃ z, execReadResponseReceive i s = .next z ∧ s.within ks z := by
  unfold execReadResponseReceive
  exact ⟨_, rfl, by
    repeat' (first
      | with_reducible exact within_refl _
      | with_reducible apply within_readResponse (sub_of hw rfl))⟩

theorem within_execSignalPacket {ks : List Comp} (s : State) {i ecc} (hw : [.regs, .cells, .net, .err] ⊆ ks) :
    ∃ z, execSignalPacket i ecc s = .next z ∧ s.within ks z := by
  unfold execSignalPacket
  exact ⟨_, rfl, by
    repeat' (first
      | with_reducible exact within_refl _
      | with_reducible apply within_signalLand (sub_of hw rfl))⟩

theorem within_execWritePacketLand {ks : List Comp} (s : State) {i m ecc} (hw : [.regs, .wrote, .mem, .cells, .regions, .dies, .mcs, .pend13, .resp, .net, .panels, .jobs, .leftRun, .load, .ctxs, .tags, .fabQ, .fabWait, .fports, .rings, .hports, .outReads, .band, .time, .boot, .flash, .err, .out, .fates] ⊆ ks) :
    ∃ z, execWritePacketLand i m ecc s = .next z ∧ s.within ks z := by
  unfold execWritePacketLand
  exact ⟨_, rfl, by
    repeat' (first
      | with_reducible exact within_refl _
      | with_reducible apply within_writeLand (sub_of hw rfl))⟩

end Sys2Proof.Laws
end

