-- ==== Sys2Proof/Laws/WithinHost.lean ====
section
/-! SUPPORT. What the operations of Machine/Host.lean may change (`State.within`). -/

set_option Elab.async false
set_option linter.all false

namespace Sys2Proof.Laws

open Sys2Proof Sys2Proof.Machine Sys2Proof.Machine.State

theorem within_applyEntry {ks : List Comp} {s0 : State} {s : State} {c e} (hw : [.regs, .wrote, .mem, .cells, .regions, .dies, .mcs, .pend13, .resp, .net, .panels, .jobs, .leftRun, .load, .ctxs, .tags, .fabQ, .fabWait, .fports, .rings, .hports, .outReads, .band, .time, .boot, .flash, .err, .out, .fates] ⊆ ks) (h : s0.within ks s) :
    s0.within ks (State.applyEntry s c e) := by
  unfold State.applyEntry
  try dsimp only
  repeat' (first
    | with_reducible assumption
    | with_reducible apply within_carried (sub_of hw rfl)
    | with_reducible apply within_ctlWrite (sub_of hw rfl)
    | with_reducible apply within_loadCellFail (sub_of hw rfl)
    | with_reducible apply within_ite
    | (intro _ _ _; try dsimp only)
    | (intro _ _; try dsimp only))

theorem within_bar0Refuse {ks : List Comp} {s0 : State} {s : State} {port off reason} (hw : [.regs, .err] ⊆ ks) (h : s0.within ks s) :
    s0.within ks (State.bar0Refuse s port off reason) := by
  unfold State.bar0Refuse
  try dsimp only
  repeat' (first
    | with_reducible assumption
    | with_reducible apply within_hostRefuse (sub_of hw rfl))

theorem within_bar0None {ks : List Comp} {s0 : State} {s : State} {p k off} (hw : [.regs, .pend13, .err] ⊆ ks) (h : s0.within ks s) :
    s0.within ks (State.bar0None s p k off) := by
  unfold State.bar0None
  try dsimp only
  repeat' (first
    | with_reducible assumption
    | with_reducible apply within_bar0Refuse (sub_of hw rfl)
    | with_reducible apply within_dropPend (sub_of hw rfl)
    | with_reducible apply within_foldl
    | with_reducible apply within_foldl_pair
    | with_reducible exact within_refl _
    | with_reducible apply within_ite
    | with_reducible apply within_ite_pair
    | with_reducible exact Or.inl rfl
    | exact Or.inr (hw (by decide))
    | exact hw (by decide)
    | with_reducible refine within_pair (by assumption) ?_
    | (intro _ _ _; try dsimp only)
    | (intro _ _; try dsimp only)
    | split
    | with_reducible apply within_mk)

theorem within_cpl {ks : List Comp} {s0 : State} {s : State} {port r} (hw : [.out] ⊆ ks) (h : s0.within ks s) :
    s0.within ks (State.cpl s port r) := by
  unfold State.cpl
  try dsimp only
  repeat' (first
    | with_reducible assumption
    | with_reducible apply within_emit (sub_of hw rfl)
    | split)

theorem within_bar0Read {ks : List Comp} {s0 : State} {s : State} {p off len} (hw : [.regs, .regions, .pend13, .err, .out, .fates] ⊆ ks) (h : s0.within ks s) :
    s0.within ks (State.bar0Read s p off len) := by
  unfold State.bar0Read
  try dsimp only
  repeat' (first
    | with_reducible assumption
    | with_reducible apply within_cpl (sub_of hw rfl)
    | with_reducible apply within_bar0None (sub_of hw rfl)
    | with_reducible apply within_ctlGet (sub_of hw rfl)
    | with_reducible apply within_bar0Refuse (sub_of hw rfl)
    | with_reducible apply within_carried (sub_of hw rfl)
    | with_reducible apply within_ite
    | (intro _ _ _; try dsimp only)
    | (intro _ _; try dsimp only))

theorem within_msixPut {ks : List Comp} {s0 : State} {s : State} {p i data} (hw : [.hports, .out] ⊆ ks) (h : s0.within ks s) :
    s0.within ks (State.msixPut s p i data) := by
  unfold State.msixPut
  try dsimp only
  repeat' (first
    | with_reducible assumption
    | with_reducible apply within_unmask (sub_of hw rfl)
    | with_reducible apply within_setHport (sub_of hw rfl)
    | with_reducible apply within_foldl
    | (intro _ _ _; try dsimp only)
    | (intro _ _; try dsimp only))

theorem within_bar0Write {ks : List Comp} {s0 : State} {s : State} {p off data} (hw : [.regs, .wrote, .mem, .cells, .regions, .dies, .mcs, .pend13, .resp, .net, .panels, .jobs, .leftRun, .load, .ctxs, .tags, .fabQ, .fabWait, .fports, .rings, .hports, .outReads, .band, .time, .boot, .flash, .err, .out, .fates] ⊆ ks) (h : s0.within ks s) :
    s0.within ks (State.bar0Write s p off data) := by
  unfold State.bar0Write
  try dsimp only
  repeat' (first
    | with_reducible assumption
    | with_reducible apply within_bar0None (sub_of hw rfl)
    | with_reducible apply within_ctlPut (sub_of hw rfl)
    | with_reducible apply within_doorbell (sub_of hw rfl)
    | with_reducible apply within_bar0Refuse (sub_of hw rfl)
    | with_reducible apply within_msixPut (sub_of hw rfl)
    | with_reducible apply within_carried (sub_of hw rfl)
    | with_reducible apply within_ite
    | (intro _ _ _; try dsimp only)
    | (intro _ _; try dsimp only))

theorem within_memCompletion {ks : List Comp} {s0 : State} {s : State} {p data code} (hw : [.err, .out] ⊆ ks) (h : s0.within ks s) :
    s0.within ks (State.memCompletion s p data code) := by
  unfold State.memCompletion
  try dsimp only
  repeat' (first
    | with_reducible assumption
    | with_reducible apply within_cpl (sub_of hw rfl)
    | with_reducible apply within_raise (sub_of hw rfl)
    | with_reducible apply within_ite)

theorem within_memWindowRead {ks : List Comp} {s0 : State} {s : State} {p ga len} (hw : [.regs, .mem, .cells, .regions, .mcs, .resp, .flash, .err, .out, .fates] ⊆ ks) (h : s0.within ks s) :
    s0.within ks (State.memWindowRead s p ga len) := by
  unfold State.memWindowRead
  try dsimp only
  repeat' (first
    | with_reducible assumption
    | with_reducible apply within_dmaRead (sub_of hw rfl)
    | with_reducible apply within_memCompletion (sub_of hw rfl)
    | split)

theorem within_ctlWindowRead {ks : List Comp} {s0 : State} {s : State} {p ga len} (hw : [.regs, .regions, .pend13, .err, .out, .fates] ⊆ ks) (h : s0.within ks s) :
    s0.within ks (State.ctlWindowRead s p ga len) := by
  unfold State.ctlWindowRead
  repeat' (first
    | with_reducible assumption
    | extract_lets
    | with_reducible apply within_carried (sub_of hw rfl)
    | with_reducible apply within_ctlGet (sub_of hw rfl)
    | with_reducible apply within_cpl (sub_of hw rfl)
    | with_reducible apply within_gaRefuse (sub_of hw rfl)
    | (intro _ _ _; try dsimp only)
    | (intro _ _; try dsimp only)
    | split)

theorem within_bar2Read {ks : List Comp} {s0 : State} {s : State} {p off len} (hw : [.regs, .mem, .cells, .regions, .mcs, .pend13, .resp, .flash, .err, .out, .fates] ⊆ ks) (h : s0.within ks s) :
    s0.within ks (State.bar2Read s p off len) := by
  unfold State.bar2Read
  try dsimp only
  repeat' (first
    | with_reducible assumption
    | with_reducible apply within_cpl (sub_of hw rfl)
    | with_reducible apply within_bar0Refuse (sub_of hw rfl)
    | with_reducible apply within_hostRefuse (sub_of hw rfl)
    | with_reducible apply within_memWindowRead (sub_of hw rfl)
    | with_reducible apply within_ctlWindowRead (sub_of hw rfl)
    | with_reducible apply within_ite)

theorem within_ctlWindowWrite {ks : List Comp} {s0 : State} {s : State} {a1 : State} {r ga data} (hw : [.regs, .wrote, .mem, .cells, .regions, .dies, .mcs, .pend13, .resp, .net, .panels, .jobs, .leftRun, .load, .ctxs, .tags, .fabQ, .fabWait, .fports, .rings, .hports, .outReads, .band, .time, .boot, .flash, .err, .out, .fates] ⊆ ks) (h0 : s0.within ks s) (h1 : s0.within ks a1) :
    s0.within ks (State.ctlWindowWrite s a1 r ga data) := by
  unfold State.ctlWindowWrite
  try dsimp only
  repeat' (first
    | with_reducible assumption
    | with_reducible apply within_carried (sub_of hw rfl)
    | with_reducible apply within_ctlPut (sub_of hw rfl)
    | with_reducible apply within_gaRefuse (sub_of hw rfl)
    | (intro _ _ _; try dsimp only)
    | (intro _ _; try dsimp only)
    | split)

theorem within_bar2Write {ks : List Comp} {s0 : State} {s : State} {p off data ep} (hw : [.regs, .wrote, .mem, .cells, .regions, .dies, .mcs, .pend13, .resp, .net, .panels, .jobs, .leftRun, .load, .ctxs, .tags, .fabQ, .fabWait, .fports, .rings, .hports, .outReads, .band, .time, .boot, .flash, .err, .out, .fates] ⊆ ks) (h : s0.within ks s) :
    s0.within ks (State.bar2Write s p off data ep) := by
  unfold State.bar2Write
  try dsimp only
  repeat' (first
    | with_reducible assumption
    | with_reducible apply within_epWrite (sub_of hw rfl)
    | with_reducible apply within_bar0Refuse (sub_of hw rfl)
    | with_reducible apply within_hostRefuse (sub_of hw rfl)
    | with_reducible apply within_dmaWrite (sub_of hw rfl)
    | with_reducible apply within_ctlWindowWrite (sub_of hw rfl)
    | with_reducible apply within_ite)

theorem within_hostRead {ks : List Comp} {s0 : State} {s : State} {p bar off len} (hw : [.regs, .mem, .cells, .regions, .mcs, .pend13, .resp, .flash, .err, .out, .fates] ⊆ ks) (h : s0.within ks s) :
    s0.within ks (State.hostRead s p bar off len) := by
  unfold State.hostRead
  try dsimp only
  repeat' (first
    | with_reducible assumption
    | with_reducible apply within_cpl (sub_of hw rfl)
    | with_reducible apply within_bar0Read (sub_of hw rfl)
    | with_reducible apply within_bar2Read (sub_of hw rfl)
    | with_reducible apply within_ite)

theorem within_hostWrite {ks : List Comp} {s0 : State} {s : State} {p bar off data ep} (hw : [.regs, .wrote, .mem, .cells, .regions, .dies, .mcs, .pend13, .resp, .net, .panels, .jobs, .leftRun, .load, .ctxs, .tags, .fabQ, .fabWait, .fports, .rings, .hports, .outReads, .band, .time, .boot, .flash, .err, .out, .fates] ⊆ ks) (h : s0.within ks s) :
    s0.within ks (State.hostWrite s p bar off data ep) := by
  unfold State.hostWrite
  try dsimp only
  repeat' (first
    | with_reducible assumption
    | with_reducible apply within_bar0Write (sub_of hw rfl)
    | with_reducible apply within_epWrite (sub_of hw rfl)
    | with_reducible apply within_bar2Write (sub_of hw rfl)
    | with_reducible apply within_ite)

theorem within_loadInit {ks : List Comp} {s0 : State} {s : State} (hw : [.regs, .wrote, .mem, .cells, .regions, .dies, .mcs, .pend13, .resp, .net, .panels, .jobs, .leftRun, .load, .ctxs, .tags, .fabQ, .fabWait, .fports, .rings, .hports, .outReads, .band, .time, .boot, .flash, .err, .out, .fates] ⊆ ks) (h : s0.within ks s) :
    s0.within ks (State.loadInit s) := by
  unfold State.loadInit
  try dsimp only
  repeat' (first
    | with_reducible assumption
    | with_reducible apply within_logPatches (sub_of hw rfl)
    | with_reducible apply within_writeKernels (sub_of hw rfl)
    | with_reducible apply within_setPhase (sub_of hw rfl)
    | with_reducible apply within_applyEntry (sub_of hw rfl)
    | with_reducible apply within_loadEvent (sub_of hw rfl)
    | with_reducible apply within_setJobState (sub_of hw rfl)
    | with_reducible apply within_foldl
    | with_reducible apply within_ite
    | with_reducible exact Or.inl rfl
    | exact Or.inr (hw (by decide))
    | exact hw (by decide)
    | (intro _ _ _; try dsimp only)
    | (intro _ _; try dsimp only)
    | split
    | with_reducible apply within_mk)

theorem within_ringJob {ks : List Comp} {s0 : State} {s : State} {p n} (hw : [.regs, .wrote, .mem, .cells, .regions, .resp, .panels, .jobs, .leftRun, .load, .ctxs, .tags, .fabQ, .fabWait, .rings, .hports, .err, .out, .fates] ⊆ ks) (h : s0.within ks s) :
    s0.within ks (State.ringJob s p n) := by
  unfold State.ringJob
  try dsimp only
  repeat' (first
    | with_reducible assumption
    | with_reducible apply within_carried (sub_of hw rfl)
    | with_reducible apply within_jobCmd (sub_of hw rfl)
    | with_reducible apply within_setResult (sub_of hw rfl)
    | with_reducible apply within_ite
    | (intro _ _ _; try dsimp only)
    | (intro _ _; try dsimp only)
    | split)

theorem within_ringLoad {ks : List Comp} {s0 : State} {s : State} {p n} (hw : [.regs, .wrote, .mem, .cells, .regions, .mcs, .resp, .panels, .jobs, .leftRun, .load, .ctxs, .tags, .fabQ, .fabWait, .rings, .hports, .flash, .err, .out, .fates] ⊆ ks) (h : s0.within ks s) :
    s0.within ks (State.ringLoad s p n) := by
  unfold State.ringLoad
  try dsimp only
  repeat' (first
    | with_reducible assumption
    | with_reducible apply within_carried (sub_of hw rfl)
    | with_reducible apply within_setReg (sub_of hw rfl)
    | with_reducible apply within_setResult (sub_of hw rfl)
    | with_reducible apply within_loadStart (sub_of hw rfl)
    | with_reducible apply within_setRing (sub_of hw rfl)
    | with_reducible apply within_ite
    | (intro _ _ _; try dsimp only)
    | (intro _ _; try dsimp only)
    | split)

theorem within_ringReg {ks : List Comp} {s0 : State} {s : State} {p n} (hw : [.regs, .wrote, .mem, .cells, .regions, .dies, .mcs, .pend13, .resp, .net, .panels, .jobs, .leftRun, .load, .ctxs, .tags, .fabQ, .fabWait, .fports, .rings, .hports, .outReads, .band, .time, .boot, .flash, .err, .out, .fates] ⊆ ks) (h : s0.within ks s) :
    s0.within ks (State.ringReg s p n) := by
  unfold State.ringReg
  try dsimp only
  repeat' (first
    | with_reducible assumption
    | with_reducible apply within_carried (sub_of hw rfl)
    | with_reducible apply within_ctlWrite (sub_of hw rfl)
    | with_reducible apply within_setResult (sub_of hw rfl)
    | with_reducible apply within_gaRefuse (sub_of hw rfl)
    | with_reducible apply within_ite
    | (intro _ _ _; try dsimp only)
    | (intro _ _; try dsimp only)
    | split)

theorem within_execHostBarRead {ks : List Comp} (s : State) {port bar off len ecrc fates} (hw : [.regs, .mem, .cells, .regions, .mcs, .pend13, .resp, .hports, .flash, .err, .out, .fates] ⊆ ks) :
    ∃ z, execHostBarRead port bar off len ecrc fates s = .next z ∧ s.within ks z := by
  unfold execHostBarRead
  exact ⟨_, rfl, by
    repeat' (first
      | with_reducible exact within_refl _
      | with_reducible assumption
      | with_reducible apply within_ecrcDrop (sub_of hw rfl)
      | with_reducible apply within_withFates (sub_of hw rfl)
      | with_reducible apply within_hostRead (sub_of hw rfl)
      | with_reducible apply within_foldl
      | with_reducible apply within_foldl_pair
      | with_reducible apply within_ite
      | with_reducible apply within_ite_pair
      | with_reducible exact Or.inl rfl
      | exact Or.inr (hw (by decide))
      | exact hw (by decide)
      | with_reducible refine within_pair (by assumption) ?_
      | (intro _ _ _; try dsimp only)
      | (intro _ _; try dsimp only)
      | split
      | with_reducible apply within_mk)⟩

theorem within_execHostBarWrite {ks : List Comp} (s : State) {port bar off data ep ecrc fates} (hw : [.regs, .wrote, .mem, .cells, .regions, .dies, .mcs, .pend13, .resp, .net, .panels, .jobs, .leftRun, .load, .ctxs, .tags, .fabQ, .fabWait, .fports, .rings, .hports, .outReads, .band, .time, .boot, .flash, .err, .out, .fates] ⊆ ks) :
    ∃ z, execHostBarWrite port bar off data ep ecrc fates s = .next z ∧ s.within ks z := by
  unfold execHostBarWrite
  exact ⟨_, rfl, by
    repeat' (first
      | with_reducible exact within_refl _
      | with_reducible assumption
      | with_reducible apply within_ecrcDrop (sub_of hw rfl)
      | with_reducible apply within_withFates (sub_of hw rfl)
      | with_reducible apply within_hostWrite (sub_of hw rfl)
      | with_reducible apply within_foldl
      | with_reducible apply within_foldl_pair
      | with_reducible apply within_ite
      | with_reducible apply within_ite_pair
      | with_reducible exact Or.inl rfl
      | exact Or.inr (hw (by decide))
      | exact hw (by decide)
      | with_reducible refine within_pair (by assumption) ?_
      | (intro _ _ _; try dsimp only)
      | (intro _ _; try dsimp only)
      | split
      | with_reducible apply within_mk)⟩

theorem within_execLoadInitialise {ks : List Comp} (s : State) (hw : [.regs, .wrote, .mem, .cells, .regions, .dies, .mcs, .pend13, .resp, .net, .panels, .jobs, .leftRun, .load, .ctxs, .tags, .fabQ, .fabWait, .fports, .rings, .hports, .outReads, .band, .time, .boot, .flash, .err, .out, .fates] ⊆ ks) :
    ∃ z, execLoadInitialise s = .next z ∧ s.within ks z := by
  unfold execLoadInitialise
  exact ⟨_, rfl, by
    repeat' (first
      | with_reducible exact within_refl _
      | with_reducible apply within_loadInit (sub_of hw rfl))⟩

theorem within_execRingJobCommand {ks : List Comp} (s : State) {port n fates} (hw : [.regs, .wrote, .mem, .cells, .regions, .resp, .panels, .jobs, .leftRun, .load, .ctxs, .tags, .fabQ, .fabWait, .rings, .hports, .err, .out, .fates] ⊆ ks) :
    ∃ z, execRingJobCommand port n fates s = .next z ∧ s.within ks z := by
  unfold execRingJobCommand
  exact ⟨_, rfl, by
    repeat' (first
      | with_reducible exact within_refl _
      | with_reducible assumption
      | with_reducible apply within_withFates (sub_of hw rfl)
      | with_reducible apply within_ringJob (sub_of hw rfl)
      | (intro _ _ _; try dsimp only)
      | (intro _ _; try dsimp only))⟩

theorem within_execRingLoad {ks : List Comp} (s : State) {port n fates} (hw : [.regs, .wrote, .mem, .cells, .regions, .mcs, .resp, .panels, .jobs, .leftRun, .load, .ctxs, .tags, .fabQ, .fabWait, .rings, .hports, .flash, .err, .out, .fates] ⊆ ks) :
    ∃ z, execRingLoad port n fates s = .next z ∧ s.within ks z := by
  unfold execRingLoad
  exact ⟨_, rfl, by
    repeat' (first
      | with_reducible exact within_refl _
      | with_reducible assumption
      | with_reducible apply within_withFates (sub_of hw rfl)
      | with_reducible apply within_ringLoad (sub_of hw rfl)
      | (intro _ _ _; try dsimp only)
      | (intro _ _; try dsimp only))⟩

theorem within_execRingRegisterWrite {ks : List Comp} (s : State) {port n fates} (hw : [.regs, .wrote, .mem, .cells, .regions, .dies, .mcs, .pend13, .resp, .net, .panels, .jobs, .leftRun, .load, .ctxs, .tags, .fabQ, .fabWait, .fports, .rings, .hports, .outReads, .band, .time, .boot, .flash, .err, .out, .fates] ⊆ ks) :
    ∃ z, execRingRegisterWrite port n fates s = .next z ∧ s.within ks z := by
  unfold execRingRegisterWrite
  exact ⟨_, rfl, by
    repeat' (first
      | with_reducible exact within_refl _
      | with_reducible assumption
      | with_reducible apply within_withFates (sub_of hw rfl)
      | with_reducible apply within_ringReg (sub_of hw rfl)
      | (intro _ _ _; try dsimp only)
      | (intro _ _; try dsimp only))⟩

end Sys2Proof.Laws
end

