-- ==== Sys2Proof/Laws/WithinCores.lean ====
section
/-! SUPPORT. What the operations of Machine/Cores.lean may change (`State.within`). -/

set_option Elab.async false
set_option linter.all false

namespace Sys2Proof.Laws

open Sys2Proof Sys2Proof.Machine Sys2Proof.Machine.State

theorem within_advance {ks : List Comp} {s0 : State} {s : State} {c k len} (hw : [.cells] ⊆ ks) (h : s0.within ks s) :
    s0.within ks (State.advance s c k len) := by
  unfold State.advance
  try dsimp only
  repeat' (first
    | with_reducible assumption
    | with_reducible apply within_setCore (sub_of hw rfl))

theorem within_exception {ks : List Comp} {s0 : State} {s : State} {c k cause tval} (hw : [.regs, .cells, .err] ⊆ ks) (h : s0.within ks s) :
    s0.within ks (State.exception s c k cause tval) := by
  unfold State.exception
  try dsimp only
  repeat' (first
    | with_reducible assumption
    | with_reducible apply within_trapRegs (sub_of hw rfl)
    | with_reducible apply within_setCore (sub_of hw rfl)
    | with_reducible apply within_stopCore (sub_of hw rfl)
    | with_reducible apply within_raiseAt (sub_of hw rfl)
    | with_reducible apply within_ite)

theorem within_ctlLoad {ks : List Comp} {s0 : State} {s : State} {c k m len} (hw : [.regs, .cells, .pend13, .err] ⊆ ks) (h : s0.within ks s) :
    s0.within ks (State.ctlLoad s c k m len) := by
  unfold State.ctlLoad
  try dsimp only
  repeat' (first
    | with_reducible assumption
    | with_reducible apply within_exception (sub_of hw rfl)
    | with_reducible apply within_busStop (sub_of hw rfl)
    | with_reducible apply within_ctlRefuse (sub_of hw rfl)
    | with_reducible apply within_dropPend (sub_of hw rfl)
    | with_reducible apply within_ctlRead (sub_of hw rfl)
    | with_reducible apply within_setX (sub_of hw rfl)
    | with_reducible apply within_advance (sub_of hw rfl)
    | with_reducible apply within_ite
    | with_reducible refine within_pair (by assumption) ?_
    | split)

theorem within_ctlStore {ks : List Comp} {s0 : State} {s : State} {c k a3} (hw : [.regs, .wrote, .mem, .cells, .regions, .dies, .mcs, .pend13, .resp, .net, .panels, .jobs, .leftRun, .load, .ctxs, .tags, .fabQ, .fabWait, .fports, .rings, .hports, .outReads, .band, .time, .boot, .flash, .err, .out, .fates] ⊆ ks) (h : s0.within ks s) :
    s0.within ks (State.ctlStore s c k a3) := by
  unfold State.ctlStore
  try dsimp only
  repeat' (first
    | with_reducible assumption
    | with_reducible apply within_ctlWrite (sub_of hw rfl)
    | with_reducible apply within_busStop (sub_of hw rfl)
    | with_reducible apply within_trapRegs (sub_of hw rfl)
    | with_reducible apply within_ite)

theorem within_farLoadSent {ks : List Comp} {s0 : State} {c k pc addr w r} (hw : [.regs, .cells] ⊆ ks) (h : s0.within ks r.1) :
    s0.within ks (State.farLoadSent c k pc addr w r) := by
  unfold State.farLoadSent
  try dsimp only
  repeat' (first
    | with_reducible assumption
    | with_reducible apply within_setCore (sub_of hw rfl)
    | with_reducible apply within_busStop (sub_of hw rfl)
    | with_reducible apply within_ite)

theorem within_farTest {ks : List Comp} {s0 : State} {s : State} {ga} (hw : [.cells] ⊆ ks) (h : s0.within ks s) :
    s0.within ks (State.farTest s ga) := by
  unfold State.farTest
  try dsimp only
  repeat' (first
    | with_reducible assumption
    | with_reducible apply within_queueTest (sub_of hw rfl)
    | with_reducible apply within_foldl
    | with_reducible apply within_foldl_pair
    | with_reducible exact within_refl _
    | with_reducible apply within_ite
    | with_reducible apply within_ite_pair
    | with_reducible exact Or.inl rfl
    | exact Or.inr (hw (by decide))
    | exact hw (by decide)
    | with_reducible refine within_pair (by assumption) ?_
    | (intro _ _ _; try dsimp only)
    | (intro _ _; try dsimp only)
    | split
    | with_reducible apply within_mk)

theorem within_farResponse {ks : List Comp} {s0 : State} {s : State} {c k i} (hw : [.regs, .cells, .net, .err] ⊆ ks) (h : s0.within ks s) :
    s0.within ks (State.farResponse s c k i) := by
  unfold State.farResponse
  try dsimp only
  repeat' (first
    | with_reducible assumption
    | with_reducible apply within_replacePkt (sub_of hw rfl)
    | with_reducible apply within_setX (sub_of hw rfl)
    | with_reducible apply within_advance (sub_of hw rfl)
    | with_reducible apply within_setCore (sub_of hw rfl)
    | with_reducible apply within_busStop (sub_of hw rfl)
    | with_reducible apply within_setErrLast (sub_of hw rfl)
    | with_reducible apply within_raiseAt (sub_of hw rfl)
    | with_reducible apply within_farTest (sub_of hw rfl)
    | with_reducible apply within_ite
    | split)

theorem within_farStoreSent {ks : List Comp} {s0 : State} {c k r} (hw : [.cells] ⊆ ks) (h : s0.within ks r.1) :
    s0.within ks (State.farStoreSent c k r) := by
  unfold State.farStoreSent
  try dsimp only
  repeat' (first
    | with_reducible assumption
    | with_reducible apply within_setCore (sub_of hw rfl)
    | with_reducible apply within_ite)

theorem within_fetchHalf {ks : List Comp} {s0 : State} {s : State} {c k a} (hw : [.regs, .mem, .err] ⊆ ks) (h : s0.within ks s) :
    s0.within ks (State.fetchHalf s c k a).1 := by
  unfold State.fetchHalf
  try dsimp only
  repeat' (first
    | with_reducible assumption
    | with_reducible apply within_readImem (sub_of hw rfl))

theorem within_fetch {ks : List Comp} {s0 : State} {s : State} {c k} (hw : [.regs, .mem, .err] ⊆ ks) (h : s0.within ks s) :
    s0.within ks (State.fetch s c k).1 := by
  unfold State.fetch
  try dsimp only
  repeat' (first
    | with_reducible assumption
    | with_reducible apply within_fetchHalf (sub_of hw rfl)
    | with_reducible apply within_ite_pair
    | with_reducible refine within_pair (by assumption) ?_
    | split)

theorem within_issue {ks : List Comp} {s0 : State} {s : State} {c k row} {run : State → Nat → Nat → Nat → State} (hw : [.regs, .mem, .cells, .regions, .err] ⊆ ks) (h0 : s0.within ks s) (h1 : ∀ t y0 y1 y2, s0.within ks t → s0.within ks (run t y0 y1 y2)) :
    s0.within ks (State.issue s c k row run) := by
  unfold State.issue
  try dsimp only
  repeat' (first
    | with_reducible assumption
    | with_reducible apply h1
    | with_reducible apply within_fetch (sub_of hw rfl)
    | with_reducible apply within_act (sub_of hw rfl)
    | with_reducible apply within_exception (sub_of hw rfl)
    | with_reducible apply within_busStop (sub_of hw rfl)
    | with_reducible apply within_ite
    | with_reducible refine within_pair (by assumption) ?_
    | (intro _ _ _; try dsimp only)
    | (intro _ _; try dsimp only)
    | split)

theorem within_kernelReturn {ks : List Comp} {s0 : State} {s : State} {c k} (hw : [.cells, .free] ⊆ ks) (h : s0.within ks s) :
    s0.within ks (State.kernelReturn s c k) := by
  unfold State.kernelReturn
  try dsimp only
  repeat' (first
    | with_reducible assumption
    | with_reducible apply within_setCore (sub_of hw rfl)
    | with_reducible exact Or.inl rfl
    | exact Or.inr (hw (by decide))
    | exact hw (by decide)
    | with_reducible apply within_mk)

theorem within_kernelScratch {ks : List Comp} {s0 : State} {s : State} {c k off} (hw : [.mem, .cells, .free] ⊆ ks) (h : s0.within ks s) :
    s0.within ks (State.kernelScratch s c k off) := by
  unfold State.kernelScratch
  try dsimp only
  repeat' (first
    | with_reducible assumption
    | with_reducible apply within_writeWord (sub_of hw rfl)
    | with_reducible apply within_setCore (sub_of hw rfl)
    | with_reducible apply within_foldl
    | with_reducible exact Or.inl rfl
    | exact Or.inr (hw (by decide))
    | exact hw (by decide)
    | with_reducible apply within_mk
    | (intro _ _ _; try dsimp only)
    | (intro _ _; try dsimp only))

theorem within_kernelUnits {ks : List Comp} {s0 : State} {s : State} {c} (hw : [.regs, .cells, .free] ⊆ ks) (h : s0.within ks s) :
    s0.within ks (State.kernelUnits s c) := by
  unfold State.kernelUnits
  try dsimp only
  repeat' (first
    | with_reducible assumption
    | with_reducible apply within_setReg (sub_of hw rfl)
    | with_reducible apply within_mxeFlush (sub_of hw rfl)
    | with_reducible apply within_setFld (sub_of hw rfl)
    | with_reducible apply within_foldl
    | with_reducible exact Or.inl rfl
    | exact Or.inr (hw (by decide))
    | exact hw (by decide)
    | (intro _ _ _; try dsimp only)
    | (intro _ _; try dsimp only)
    | split
    | with_reducible apply within_mk)

theorem within_loadFrom {ks : List Comp} {s0 : State} {s : State} {c k off n addr last} (hw : [.regs, .cells, .regions, .err] ⊆ ks) (h : s0.within ks s) :
    s0.within ks (State.loadFrom s c k off n addr last).1 := by
  unfold State.loadFrom
  try dsimp only
  repeat' (first
    | with_reducible assumption
    | with_reducible apply within_busStop (sub_of hw rfl)
    | with_reducible apply within_spmRefuse (sub_of hw rfl)
    | with_reducible apply within_readWord (sub_of hw rfl)
    | with_reducible apply within_act (sub_of hw rfl)
    | with_reducible apply within_wordRecord (sub_of hw rfl)
    | with_reducible apply within_foldl
    | with_reducible apply within_foldl_pair
    | with_reducible exact within_refl _
    | with_reducible apply within_ite
    | with_reducible apply within_ite_pair
    | with_reducible exact Or.inl rfl
    | exact Or.inr (hw (by decide))
    | exact hw (by decide)
    | with_reducible refine within_pair (by assumption) ?_
    | (intro _ _ _; try dsimp only)
    | (intro _ _; try dsimp only)
    | split
    | with_reducible apply within_mk)

theorem within_loadSpm {ks : List Comp} {s0 : State} {s : State} {c k off n addr} (hw : [.regs, .cells, .regions, .err] ⊆ ks) (h : s0.within ks s) :
    s0.within ks (State.loadSpm s c k off n addr).1 := by
  unfold State.loadSpm
  try dsimp only
  repeat' (first
    | with_reducible assumption
    | with_reducible apply within_loadFrom (sub_of hw rfl)
    | with_reducible apply within_ite_pair
    | with_reducible refine within_pair (by assumption) ?_
    | split)

theorem within_mergeEvict {ks : List Comp} {s0 : State} {s : State} {c k} (hw : [.regs, .mem, .cells, .regions, .err] ⊆ ks) (h : s0.within ks s) :
    s0.within ks (State.mergeEvict s c k) := by
  unfold State.mergeEvict
  try dsimp only
  repeat' (first
    | with_reducible assumption
    | with_reducible apply within_mbWrite (sub_of hw rfl)
    | with_reducible apply within_ite
    | split)

theorem within_mergeWrite {ks : List Comp} {s0 : State} {s : State} {c k} (hw : [.regs, .mem, .cells, .regions, .err] ⊆ ks) (h : s0.within ks s) :
    s0.within ks (State.mergeWrite s c k) := by
  unfold State.mergeWrite
  try dsimp only
  repeat' (first
    | with_reducible assumption
    | with_reducible apply within_mbWrite (sub_of hw rfl)
    | with_reducible apply within_ite
    | split)

theorem within_releaseStores {ks : List Comp} {s0 : State} {s : State} {c k a3} (hw : [.regs, .wrote, .mem, .cells, .regions, .dies, .mcs, .pend13, .resp, .net, .panels, .jobs, .leftRun, .load, .ctxs, .tags, .fabQ, .fabWait, .fports, .rings, .hports, .outReads, .band, .time, .boot, .flash, .err, .out, .fates] ⊆ ks) (h : s0.within ks s) :
    s0.within ks (State.releaseStores s c k a3) := by
  induction a3 generalizing s c k with
  | zero => exact h
  | succ n ih =>
    unfold State.releaseStores
    try dsimp only
    repeat' (first
      | with_reducible assumption
      | with_reducible apply ih
      | with_reducible apply within_setCore (sub_of hw rfl)
      | with_reducible apply within_ctlStore (sub_of hw rfl)
      | with_reducible apply within_ite
      | split)

theorem within_ownershipGovern {ks : List Comp} {s0 : State} {s : State} {c} (hw : [.regs, .wrote, .mem, .cells, .regions, .dies, .mcs, .pend13, .resp, .net, .panels, .jobs, .leftRun, .load, .ctxs, .tags, .fabQ, .fabWait, .fports, .rings, .hports, .outReads, .band, .time, .boot, .flash, .err, .out, .fates] ⊆ ks) (h : s0.within ks s) :
    s0.within ks (State.ownershipGovern s c) := by
  unfold State.ownershipGovern
  try dsimp only
  repeat' (first
    | with_reducible assumption
    | with_reducible apply within_governOwners (sub_of hw rfl)
    | with_reducible apply within_releaseStores (sub_of hw rfl))

theorem within_runCtlStore {ks : List Comp} {s0 : State} {c k} {s : State} {w len raw} (hw : [.regs, .wrote, .mem, .cells, .regions, .dies, .mcs, .pend13, .resp, .net, .panels, .jobs, .leftRun, .load, .ctxs, .tags, .fabQ, .fabWait, .fports, .rings, .hports, .outReads, .band, .time, .boot, .flash, .err, .out, .fates] ⊆ ks) (h : s0.within ks s) :
    s0.within ks (State.runCtlStore c k s w len raw) := by
  unfold State.runCtlStore
  try dsimp only
  repeat' (first
    | with_reducible assumption
    | with_reducible apply within_exception (sub_of hw rfl)
    | with_reducible apply within_advance (sub_of hw rfl)
    | with_reducible apply within_busStop (sub_of hw rfl)
    | with_reducible apply within_ctlRefuse (sub_of hw rfl)
    | with_reducible apply within_dropPend (sub_of hw rfl)
    | with_reducible apply within_setCore (sub_of hw rfl)
    | with_reducible apply within_ctlStore (sub_of hw rfl)
    | with_reducible apply within_ite
    | split)

theorem within_runFarLoad {ks : List Comp} {s0 : State} {c k} {s : State} {w len raw} (hw : [.regs, .cells, .net, .err] ⊆ ks) (h : s0.within ks s) :
    s0.within ks (State.runFarLoad c k s w len raw) := by
  unfold State.runFarLoad
  try dsimp only
  repeat' (first
    | with_reducible assumption
    | with_reducible apply within_exception (sub_of hw rfl)
    | with_reducible apply within_farLoadSent (sub_of hw rfl)
    | with_reducible apply within_inject (sub_of hw rfl)
    | with_reducible apply within_newTag (sub_of hw rfl)
    | with_reducible apply within_ite
    | split)

theorem within_runFarStore {ks : List Comp} {s0 : State} {c k} {s : State} {w len raw} (hw : [.regs, .cells, .net, .err] ⊆ ks) (h : s0.within ks s) :
    s0.within ks (State.runFarStore c k s w len raw) := by
  unfold State.runFarStore
  try dsimp only
  repeat' (first
    | with_reducible assumption
    | with_reducible apply within_exception (sub_of hw rfl)
    | with_reducible apply within_farStoreSent (sub_of hw rfl)
    | with_reducible apply within_inject (sub_of hw rfl)
    | with_reducible apply within_advance (sub_of hw rfl)
    | with_reducible apply within_newTag (sub_of hw rfl)
    | with_reducible apply within_ite
    | split)

theorem within_runFence {ks : List Comp} {s0 : State} {c k} {s : State} {w len raw} (hw : [.regs, .mem, .cells, .regions, .err] ⊆ ks) (h : s0.within ks s) :
    s0.within ks (State.runFence c k s w len raw) := by
  unfold State.runFence
  try dsimp only
  repeat' (first
    | with_reducible assumption
    | with_reducible apply within_mbFlush (sub_of hw rfl)
    | with_reducible apply within_act (sub_of hw rfl)
    | with_reducible apply within_advance (sub_of hw rfl)
    | with_reducible apply within_foldl
    | with_reducible apply within_foldl_pair
    | with_reducible exact within_refl _
    | with_reducible apply within_ite
    | with_reducible apply within_ite_pair
    | with_reducible exact Or.inl rfl
    | exact Or.inr (hw (by decide))
    | exact hw (by decide)
    | with_reducible refine within_pair (by assumption) ?_
    | (intro _ _ _; try dsimp only)
    | (intro _ _; try dsimp only)
    | split
    | with_reducible apply within_mk)

theorem within_runLoad {ks : List Comp} {s0 : State} {c k} {s : State} {w len raw} (hw : [.regs, .cells, .regions, .err] ⊆ ks) (h : s0.within ks s) :
    s0.within ks (State.runLoad c k s w len raw) := by
  unfold State.runLoad
  try dsimp only
  repeat' (first
    | with_reducible assumption
    | with_reducible apply within_exception (sub_of hw rfl)
    | with_reducible apply within_loadSpm (sub_of hw rfl)
    | with_reducible apply within_setX (sub_of hw rfl)
    | with_reducible apply within_advance (sub_of hw rfl)
    | with_reducible refine within_pair (by assumption) ?_
    | split)

theorem within_runOther {ks : List Comp} {s0 : State} {c k} {s : State} {w len raw} (hw : [.regs, .cells, .regions, .pend13, .err] ⊆ ks) (h : s0.within ks s) :
    s0.within ks (State.runOther c k s w len raw) := by
  unfold State.runOther
  try dsimp only
  repeat' (first
    | with_reducible assumption
    | with_reducible apply within_ctlLoad (sub_of hw rfl)
    | with_reducible apply within_exception (sub_of hw rfl)
    | with_reducible apply within_act (sub_of hw rfl)
    | with_reducible apply within_setCore (sub_of hw rfl)
    | with_reducible apply within_ite
    | split)

theorem within_storeSpm {ks : List Comp} {s0 : State} {s : State} {c k off addr bs} (hw : [.regs, .mem, .cells, .regions, .err] ⊆ ks) (h : s0.within ks s) :
    s0.within ks (State.storeSpm s c k off addr bs).1 := by
  unfold State.storeSpm
  try dsimp only
  repeat' (first
    | with_reducible assumption
    | with_reducible apply within_busStop (sub_of hw rfl)
    | with_reducible apply within_spmRefuse (sub_of hw rfl)
    | with_reducible apply within_setCore (sub_of hw rfl)
    | with_reducible apply within_mbWrite (sub_of hw rfl)
    | with_reducible apply within_ite
    | with_reducible apply within_ite_pair
    | split)

theorem within_runStore {ks : List Comp} {s0 : State} {c k} {s : State} {w len raw} (hw : [.regs, .mem, .cells, .regions, .err] ⊆ ks) (h : s0.within ks s) :
    s0.within ks (State.runStore c k s w len raw) := by
  unfold State.runStore
  try dsimp only
  repeat' (first
    | with_reducible assumption
    | with_reducible apply within_exception (sub_of hw rfl)
    | with_reducible apply within_storeSpm (sub_of hw rfl)
    | with_reducible apply within_advance (sub_of hw rfl)
    | with_reducible refine within_pair (by assumption) ?_
    | split)

theorem within_vElement {ks : List Comp} {s0 : State} {c k m a e} (hw : [.regs, .mem, .cells, .regions, .err] ⊆ ks) (h : s0.within ks a.1) :
    s0.within ks (State.vElement c k m a e).1 := by
  unfold State.vElement
  try dsimp only
  repeat' (first
    | with_reducible assumption
    | with_reducible apply within_storeSpm (sub_of hw rfl)
    | with_reducible apply within_loadFrom (sub_of hw rfl)
    | with_reducible apply within_setCore (sub_of hw rfl)
    | with_reducible apply within_ite_pair
    | with_reducible refine within_pair (by assumption) ?_
    | split)

theorem within_runVector {ks : List Comp} {s0 : State} {c k} {s : State} {w len raw} (hw : [.regs, .mem, .cells, .regions, .err] ⊆ ks) (h : s0.within ks s) :
    s0.within ks (State.runVector c k s w len raw) := by
  unfold State.runVector
  try dsimp only
  repeat' (first
    | with_reducible assumption
    | with_reducible apply within_exception (sub_of hw rfl)
    | with_reducible apply within_act (sub_of hw rfl)
    | with_reducible apply within_vElement (sub_of hw rfl)
    | with_reducible apply within_advance (sub_of hw rfl)
    | with_reducible apply within_setCore (sub_of hw rfl)
    | with_reducible apply within_foldl_pair
    | with_reducible apply within_ite
    | with_reducible refine within_pair (by assumption) ?_
    | (intro _ _ _; try dsimp only)
    | (intro _ _; try dsimp only)
    | split)

theorem within_runWait {ks : List Comp} {s0 : State} {c k} {s : State} {w len raw} (hw : [.cells, .pend13] ⊆ ks) (h : s0.within ks s) :
    s0.within ks (State.runWait c k s w len raw) := by
  unfold State.runWait
  try dsimp only
  repeat' (first
    | with_reducible assumption
    | with_reducible apply within_setCore (sub_of hw rfl)
    | with_reducible apply within_dropPend (sub_of hw rfl)
    | split)

theorem within_testKernel {ks : List Comp} {s0 : State} {s : State} {c k failed} (hw : [.regs, .mem, .cells, .regions, .err, .fates, .free] ⊆ ks) (h : s0.within ks s) :
    s0.within ks (State.testKernel s c k failed) := by
  unfold State.testKernel
  try dsimp only
  repeat' (first
    | with_reducible assumption
    | with_reducible apply within_cellAsks (sub_of hw rfl)
    | with_reducible apply within_busStop (sub_of hw rfl)
    | with_reducible apply within_kernelReturn (sub_of hw rfl)
    | with_reducible apply within_spmRefuse (sub_of hw rfl)
    | with_reducible apply within_kernelScratch (sub_of hw rfl)
    | with_reducible apply within_kernelUnits (sub_of hw rfl)
    | with_reducible apply within_selfPass (sub_of hw rfl)
    | with_reducible apply within_stopCore (sub_of hw rfl)
    | with_reducible apply within_selfFail (sub_of hw rfl)
    | with_reducible apply within_foldl
    | with_reducible apply within_foldl_pair
    | with_reducible exact within_refl _
    | with_reducible apply within_ite
    | with_reducible apply within_ite_pair
    | with_reducible exact Or.inl rfl
    | exact Or.inr (hw (by decide))
    | exact hw (by decide)
    | with_reducible refine within_pair (by assumption) ?_
    | (intro _ _ _; try dsimp only)
    | (intro _ _; try dsimp only)
    | split
    | with_reducible apply within_mk)

theorem within_execControlWindowStore {ks : List Comp} (s : State) {c k} (hw : [.regs, .wrote, .mem, .cells, .regions, .dies, .mcs, .pend13, .resp, .net, .panels, .jobs, .leftRun, .load, .ctxs, .tags, .fabQ, .fabWait, .fports, .rings, .hports, .outReads, .band, .time, .boot, .flash, .err, .out, .fates] ⊆ ks) :
    ∃ z, execControlWindowStore c k s = .next z ∧ s.within ks z := by
  unfold execControlWindowStore
  exact ⟨_, rfl, by
    repeat' (first
      | with_reducible exact within_refl _
      | with_reducible assumption
      | with_reducible apply within_issue (sub_of hw rfl)
      | with_reducible apply within_runCtlStore (sub_of hw rfl)
      | (intro _ _ _; try dsimp only)
      | (intro _ _; try dsimp only))⟩

theorem within_execCoreInstruction {ks : List Comp} (s : State) {c k} (hw : [.regs, .mem, .cells, .regions, .pend13, .err] ⊆ ks) :
    ∃ z, execCoreInstruction c k s = .next z ∧ s.within ks z := by
  unfold execCoreInstruction
  exact ⟨_, rfl, by
    repeat' (first
      | with_reducible exact within_refl _
      | with_reducible assumption
      | with_reducible apply within_issue (sub_of hw rfl)
      | with_reducible apply within_runOther (sub_of hw rfl)
      | (intro _ _ _; try dsimp only)
      | (intro _ _; try dsimp only))⟩

theorem within_execCoreLoad {ks : List Comp} (s : State) {c k} (hw : [.regs, .mem, .cells, .regions, .err] ⊆ ks) :
    ∃ z, execCoreLoad c k s = .next z ∧ s.within ks z := by
  unfold execCoreLoad
  exact ⟨_, rfl, by
    repeat' (first
      | with_reducible exact within_refl _
      | with_reducible assumption
      | with_reducible apply within_issue (sub_of hw rfl)
      | with_reducible apply within_runLoad (sub_of hw rfl)
      | (intro _ _ _; try dsimp only)
      | (intro _ _; try dsimp only))⟩

theorem within_execCoreStore {ks : List Comp} (s : State) {c k} (hw : [.regs, .mem, .cells, .regions, .err] ⊆ ks) :
    ∃ z, execCoreStore c k s = .next z ∧ s.within ks z := by
  unfold execCoreStore
  exact ⟨_, rfl, by
    repeat' (first
      | with_reducible exact within_refl _
      | with_reducible assumption
      | with_reducible apply within_issue (sub_of hw rfl)
      | with_reducible apply within_runStore (sub_of hw rfl)
      | (intro _ _ _; try dsimp only)
      | (intro _ _; try dsimp only))⟩

theorem within_execCoreVectorAccess {ks : List Comp} (s : State) {c k} (hw : [.regs, .mem, .cells, .regions, .err] ⊆ ks) :
    ∃ z, execCoreVectorAccess c k s = .next z ∧ s.within ks z := by
  unfold execCoreVectorAccess
  exact ⟨_, rfl, by
    repeat' (first
      | with_reducible exact within_refl _
      | with_reducible assumption
      | with_reducible apply within_issue (sub_of hw rfl)
      | with_reducible apply within_runVector (sub_of hw rfl)
      | (intro _ _ _; try dsimp only)
      | (intro _ _; try dsimp only))⟩

theorem within_execFarLoadResponse {ks : List Comp} (s : State) {c k i} (hw : [.regs, .cells, .net, .err] ⊆ ks) :
    ∃ z, execFarLoadResponse c k i s = .next z ∧ s.within ks z := by
  unfold execFarLoadResponse
  exact ⟨_, rfl, by
    repeat' (first
      | with_reducible exact within_refl _
      | with_reducible apply within_farResponse (sub_of hw rfl))⟩

theorem within_execFarWindowLoad {ks : List Comp} (s : State) {c k} (hw : [.regs, .mem, .cells, .regions, .net, .err] ⊆ ks) :
    ∃ z, execFarWindowLoad c k s = .next z ∧ s.within ks z := by
  unfold execFarWindowLoad
  exact ⟨_, rfl, by
    repeat' (first
      | with_reducible exact within_refl _
      | with_reducible assumption
      | with_reducible apply within_issue (sub_of hw rfl)
      | with_reducible apply within_runFarLoad (sub_of hw rfl)
      | (intro _ _ _; try dsimp only)
      | (intro _ _; try dsimp only))⟩

theorem within_execFarWindowStore {ks : List Comp} (s : State) {c k} (hw : [.regs, .mem, .cells, .regions, .net, .err] ⊆ ks) :
    ∃ z, execFarWindowStore c k s = .next z ∧ s.within ks z := by
  unfold execFarWindowStore
  exact ⟨_, rfl, by
    repeat' (first
      | with_reducible exact within_refl _
      | with_reducible assumption
      | with_reducible apply within_issue (sub_of hw rfl)
      | with_reducible apply within_runFarStore (sub_of hw rfl)
      | (intro _ _ _; try dsimp only)
      | (intro _ _; try dsimp only))⟩

theorem within_execFence {ks : List Comp} (s : State) {c k} (hw : [.regs, .mem, .cells, .regions, .err] ⊆ ks) :
    ∃ z, execFence c k s = .next z ∧ s.within ks z := by
  unfold execFence
  exact ⟨_, rfl, by
    repeat' (first
      | with_reducible exact within_refl _
      | with_reducible assumption
      | with_reducible apply within_issue (sub_of hw rfl)
      | with_reducible apply within_runFence (sub_of hw rfl)
      | (intro _ _ _; try dsimp only)
      | (intro _ _; try dsimp only))⟩

theorem within_execMergeAgeEvict {ks : List Comp} (s : State) {c k} (hw : [.regs, .mem, .cells, .regions, .err] ⊆ ks) :
    ∃ z, execMergeAgeEvict c k s = .next z ∧ s.within ks z := by
  unfold execMergeAgeEvict
  exact ⟨_, rfl, by
    repeat' (first
      | with_reducible exact within_refl _
      | with_reducible apply within_mergeEvict (sub_of hw rfl))⟩

theorem within_execMergeEntryWrite {ks : List Comp} (s : State) {c k} (hw : [.regs, .mem, .cells, .regions, .err] ⊆ ks) :
    ∃ z, execMergeEntryWrite c k s = .next z ∧ s.within ks z := by
  unfold execMergeEntryWrite
  exact ⟨_, rfl, by
    repeat' (first
      | with_reducible exact within_refl _
      | with_reducible apply within_mergeWrite (sub_of hw rfl))⟩

theorem within_execOwnershipGovern {ks : List Comp} (s : State) {c} (hw : [.regs, .wrote, .mem, .cells, .regions, .dies, .mcs, .pend13, .resp, .net, .panels, .jobs, .leftRun, .load, .ctxs, .tags, .fabQ, .fabWait, .fports, .rings, .hports, .outReads, .band, .time, .boot, .flash, .err, .out, .fates] ⊆ ks) :
    ∃ z, execOwnershipGovern c s = .next z ∧ s.within ks z := by
  unfold execOwnershipGovern
  exact ⟨_, rfl, by
    repeat' (first
      | with_reducible exact within_refl _
      | with_reducible apply within_ownershipGovern (sub_of hw rfl))⟩

theorem within_execSyncWait {ks : List Comp} (s : State) {c k} (hw : [.regs, .mem, .cells, .regions, .pend13, .err] ⊆ ks) :
    ∃ z, execSyncWait c k s = .next z ∧ s.within ks z := by
  unfold execSyncWait
  exact ⟨_, rfl, by
    repeat' (first
      | with_reducible exact within_refl _
      | with_reducible assumption
      | with_reducible apply within_issue (sub_of hw rfl)
      | with_reducible apply within_runWait (sub_of hw rfl)
      | (intro _ _ _; try dsimp only)
      | (intro _ _; try dsimp only))⟩

theorem within_execTestKernelCall {ks : List Comp} (s : State) {c k failed} (hw : [.regs, .mem, .cells, .regions, .err, .fates, .free] ⊆ ks) :
    ∃ z, execTestKernelCall c k failed s = .next z ∧ s.within ks z := by
  unfold execTestKernelCall
  exact ⟨_, rfl, by
    repeat' (first
      | with_reducible exact within_refl _
      | with_reducible apply within_testKernel (sub_of hw rfl))⟩

end Sys2Proof.Laws
end

