-- ==== Sys2Proof/Laws/WithinTick.lean ====
section
/-! SUPPORT. What the operations of Machine/Tick.lean may change (`State.within`). -/

set_option Elab.async false
set_option linter.all false

namespace Sys2Proof.Laws

open Sys2Proof Sys2Proof.Machine Sys2Proof.Machine.State

theorem within_cellCycle {ks : List Comp} {s0 : State} {s : State} {c} (hw : [.regs, .mem, .cells, .regions, .err, .free] ⊆ ks) (h : s0.within ks s) :
    s0.within ks (State.cellCycle s c) := by
  unfold State.cellCycle
  try dsimp only
  repeat' (first
    | with_reducible assumption
    | with_reducible apply within_bengCycle (sub_of hw rfl)
    | with_reducible apply within_mxeCycle (sub_of hw rfl)
    | with_reducible apply within_coreStopDue (sub_of hw rfl)
    | with_reducible apply within_waitSettle (sub_of hw rfl)
    | with_reducible apply within_foldl
    | with_reducible apply within_foldl_pair
    | with_reducible exact within_refl _
    | with_reducible apply within_ite
    | with_reducible apply within_ite_pair
    | with_reducible exact Or.inl rfl
    | exact Or.inr (hw (by decide))
    | exact hw (by decide)
    | with_reducible refine within_pair (by assumption) ?_
    | (intro _ _ _; try dsimp only)
    | (intro _ _; try dsimp only)
    | split
    | with_reducible apply within_mk)


theorem within_routerCycle {ks : List Comp} {s0 : State} {s : State} {c} (hw : [.regs, .cells, .regions, .net, .err] ⊆ ks) (h : s0.within ks s) :
    s0.within ks (State.routerCycle s c) := by
  unfold State.routerCycle
  try dsimp only
  repeat' (first
    | with_reducible assumption
    | with_reducible apply within_txAdvance (sub_of hw rfl)
    | with_reducible apply within_foldl
    | with_reducible apply within_foldl_pair
    | with_reducible exact within_refl _
    | with_reducible apply within_ite
    | with_reducible apply within_ite_pair
    | with_reducible exact Or.inl rfl
    | exact Or.inr (hw (by decide))
    | exact hw (by decide)
    | with_reducible refine within_pair (by assumption) ?_
    | (intro _ _ _; try dsimp only)
    | (intro _ _; try dsimp only)
    | split
    | with_reducible apply within_mk)

theorem within_signalCycle {ks : List Comp} {s0 : State} {s : State} {c} (hw : [.regs, .w1cSet, .cells, .err] ⊆ ks) (h : s0.within ks s) :
    s0.within ks (State.signalCycle s c) := by
  unfold State.signalCycle
  try dsimp only
  repeat' (first
    | with_reducible assumption
    | with_reducible apply within_syncCycle (sub_of hw rfl)
    | with_reducible apply within_foldl
    | with_reducible apply within_foldl_pair
    | with_reducible exact within_refl _
    | with_reducible apply within_ite
    | with_reducible apply within_ite_pair
    | with_reducible exact Or.inl rfl
    | exact Or.inr (hw (by decide))
    | exact hw (by decide)
    | with_reducible refine within_pair (by assumption) ?_
    | (intro _ _ _; try dsimp only)
    | (intro _ _; try dsimp only)
    | split
    | with_reducible apply within_mk)

theorem within_tickEnd {ks : List Comp} {s0 : State} {s : State} (hw : [.regs, .w1cSet, .mem, .cells, .regions, .dies, .resp, .net, .jobs, .leftRun, .ctxs, .tags, .fabQ, .fabWait, .fports, .hports, .band, .boot, .err, .out, .free] ⊆ ks) (h : s0.within ks s) :
    s0.within ks (State.tickEnd s) := by
  unfold State.tickEnd
  try dsimp only
  repeat' (first
    | with_reducible assumption
    | with_reducible apply within_routerCycle (sub_of hw rfl)
    | with_reducible apply within_cellCycle (sub_of hw rfl)
    | with_reducible apply within_signalCycle (sub_of hw rfl)
    | with_reducible apply within_linkIdle (sub_of hw rfl)
    | with_reducible apply within_evqGap (sub_of hw rfl)
    | with_reducible apply within_busSend (sub_of hw rfl)
    | with_reducible apply within_powerSettle (sub_of hw rfl)
    | with_reducible apply within_settleConverters (sub_of hw rfl)
    | with_reducible apply within_jobsSettle (sub_of hw rfl)
    | with_reducible apply within_haltSettle (sub_of hw rfl)
    | with_reducible apply within_foldl
    | with_reducible apply within_foldl_pair
    | with_reducible exact within_refl _
    | with_reducible apply within_ite
    | with_reducible apply within_ite_pair
    | with_reducible exact Or.inl rfl
    | exact Or.inr (hw (by decide))
    | exact hw (by decide)
    | with_reducible refine within_pair (by assumption) ?_
    | (intro _ _ _; try dsimp only)
    | (intro _ _; try dsimp only)
    | split
    | with_reducible apply within_mk)

theorem within_tickStart {ks : List Comp} {s0 : State} {s : State} (hw : [.regions] ⊆ ks) (h : s0.within ks s) :
    s0.within ks (State.tickStart s) := by
  unfold State.tickStart
  try dsimp only
  repeat' (first
    | with_reducible assumption
    | with_reducible apply within_latchCounts (sub_of hw rfl)
    | with_reducible apply within_foldl
    | with_reducible apply within_foldl_pair
    | with_reducible exact within_refl _
    | with_reducible apply within_ite
    | with_reducible apply within_ite_pair
    | with_reducible exact Or.inl rfl
    | exact Or.inr (hw (by decide))
    | exact hw (by decide)
    | with_reducible refine within_pair (by assumption) ?_
    | (intro _ _ _; try dsimp only)
    | (intro _ _; try dsimp only)
    | split
    | with_reducible apply within_mk)

/-- One slot passes: the clock advances by one; the part and the queue stay, and nothing outside `tickReach` changes. -/
theorem tick_within (s : State) : s.tick.part = s.part ∧ s.tick.slot = s.slot + 1 ∧ s.tick.pending = s.pending ∧
    (s.canon → s.tick.canon) ∧ ∀ k, k ∉ tickReach → s.sameAt s.tick k := by
  have h := within_tickEnd (ks := tickReach) (by decide) (within_tickStart (by decide) (within_refl s))
  have k : s.tickStart.tickEnd.passSlot.within tickReach s.tick := within_stopSettle (by decide) (within_refl _)
  refine ⟨k.1.trans h.1, k.2.1.trans (congrArg (· + 1) h.2.1), k.2.2.1.trans h.2.2.1, fun c => k.2.2.2.1 (h.2.2.2.1 c), fun i hi => ?_⟩
  refine sameAt_trans (sameAt_trans (h.2.2.2.2 i hi) ?_) (k.2.2.2.2 i hi)
  cases i <;> first | rfl | exact absurd (by decide) hi

end Sys2Proof.Laws
end

