-- ==== Sys2Proof/Laws/PerInstr.lean ====
section
/-! SUPPORT. For each command one lemma: it answers a next state and changes at most the kinds of state its operation can reach. -/

namespace Sys2Proof.Laws.Reach

set_option Elab.async false
set_option linter.all false

open Sys2Proof Sys2Proof.Machine

/-- What a command can reach: it answers a next state, and every kind of state outside `touches` stays as it was. -/
def Statement (i : Instr) : Prop := ∀ s : State, ∃ t, exec i s = .next t ∧ s.within (touches i) t

theorem registerWrite (req : Req) (ga : GAddr) (wide : Bool) (v : DWord) : Statement (.registerWrite req ga wide v) := fun s => within_execRegisterWrite (ks := touches (.registerWrite req ga wide v)) s (by simp [touches, engineReach, haltReach, loadReach, coldReach])
theorem lowWordWriteHeld (req : Req) (ga : GAddr) (v : Word) : Statement (.lowWordWriteHeld req ga v) := fun s => within_execLowWordWriteHeld (ks := touches (.lowWordWriteHeld req ga v)) s (by simp [touches, engineReach, haltReach, loadReach, coldReach])
theorem highWordWritePair (req : Req) (ga : GAddr) (v : Word) : Statement (.highWordWritePair req ga v) := fun s => within_execHighWordWritePair (ks := touches (.highWordWritePair req ga v)) s (by simp [touches, engineReach, haltReach, loadReach, coldReach])
theorem lowWordReadLatch (req : Req) (ga : GAddr) : Statement (.lowWordReadLatch req ga) := fun s => within_execLowWordReadLatch (ks := touches (.lowWordReadLatch req ga)) s (by simp [touches, engineReach, haltReach, loadReach, coldReach])
theorem cellFailInService (c : Nat) (source : Nat) : Statement (.cellFailInService c source) := fun s => within_execCellFailInService (ks := touches (.cellFailInService c source)) s (by simp [touches, engineReach, haltReach, loadReach, coldReach])
theorem quickRemap (die : Nat) (py : Nat) : Statement (.quickRemap die py) := fun s => within_execQuickRemap (ks := touches (.quickRemap die py)) s (by simp [touches, engineReach, haltReach, loadReach, coldReach])
theorem mxeDescPush (c : Nat) : Statement (.mxeDescPush c) := fun s => within_execMxeDescPush (ks := touches (.mxeDescPush c)) s (by simp [touches, engineReach, haltReach, loadReach, coldReach])
theorem easelLoadSegment (c : Nat) : Statement (.easelLoadSegment c) := fun s => within_execEaselLoadSegment (ks := touches (.easelLoadSegment c)) s (by simp [touches, engineReach, haltReach, loadReach, coldReach])
theorem easelReady (c : Nat) : Statement (.easelReady c) := fun s => within_execEaselReady (ks := touches (.easelReady c)) s (by simp [touches, engineReach, haltReach, loadReach, coldReach])
theorem swapWaveEnter (c : Nat) : Statement (.swapWaveEnter c) := fun s => within_execSwapWaveEnter (ks := touches (.swapWaveEnter c)) s (by simp [touches, engineReach, haltReach, loadReach, coldReach])
theorem feederFetch (c : Nat) : Statement (.feederFetch c) := fun s => within_execFeederFetch (ks := touches (.feederFetch c)) s (by simp [touches, engineReach, haltReach, loadReach, coldReach])
theorem freezeWatchdogExpire (c : Nat) : Statement (.freezeWatchdogExpire c) := fun s => within_execFreezeWatchdogExpire (ks := touches (.freezeWatchdogExpire c)) s (by simp [touches, engineReach, haltReach, loadReach, coldReach])
theorem finalRowCheck (c : Nat) (journalBad : Bool) : Statement (.finalRowCheck c journalBad) := fun s => within_execFinalRowCheck (ks := touches (.finalRowCheck c journalBad)) s (by simp [touches, engineReach, haltReach, loadReach, coldReach])
theorem replayVerdict (c : Nat) (upset : Option (Nat × Int)) : Statement (.replayVerdict c upset) := fun s => within_execReplayVerdict (ks := touches (.replayVerdict c upset)) s (by simp [touches, engineReach, haltReach, loadReach, coldReach])
theorem drainLineWrite (c : Nat) : Statement (.drainLineWrite c) := fun s => within_execDrainLineWrite (ks := touches (.drainLineWrite c)) s (by simp [touches, engineReach, haltReach, loadReach, coldReach])
theorem passComplete (c : Nat) : Statement (.passComplete c) := fun s => within_execPassComplete (ks := touches (.passComplete c)) s (by simp [touches, engineReach, haltReach, loadReach, coldReach])
theorem ballastRow (c : Nat) (upset : Bool) : Statement (.ballastRow c upset) := fun s => within_execBallastRow (ks := touches (.ballastRow c upset)) s (by simp [touches, engineReach, haltReach, loadReach, coldReach])
theorem patternLoad (c : Nat) : Statement (.patternLoad c) := fun s => within_execPatternLoad (ks := touches (.patternLoad c)) s (by simp [touches, engineReach, haltReach, loadReach, coldReach])
theorem mxeFlush (c : Nat) : Statement (.mxeFlush c) := fun s => within_execMxeFlush (ks := touches (.mxeFlush c)) s (by simp [touches, engineReach, haltReach, loadReach, coldReach])
theorem mxeCntClrFreeze (c : Nat) : Statement (.mxeCntClrFreeze c) := fun s => within_execMxeCntClrFreeze (ks := touches (.mxeCntClrFreeze c)) s (by simp [touches, engineReach, haltReach, loadReach, coldReach])
theorem mxeCntClrEasel (c : Nat) : Statement (.mxeCntClrEasel c) := fun s => within_execMxeCntClrEasel (ks := touches (.mxeCntClrEasel c)) s (by simp [touches, engineReach, haltReach, loadReach, coldReach])
theorem mxeRplCtrlWrite (c : Nat) (en : Bool) : Statement (.mxeRplCtrlWrite c en) := fun s => within_execMxeRplCtrlWrite (ks := touches (.mxeRplCtrlWrite c en)) s (by simp [touches, engineReach, haltReach, loadReach, coldReach])
theorem mxeArithClrArith (c : Nat) : Statement (.mxeArithClrArith c) := fun s => within_execMxeArithClrArith (ks := touches (.mxeArithClrArith c)) s (by simp [touches, engineReach, haltReach, loadReach, coldReach])
theorem mxeArithClrChk (c : Nat) : Statement (.mxeArithClrChk c) := fun s => within_execMxeArithClrChk (ks := touches (.mxeArithClrChk c)) s (by simp [touches, engineReach, haltReach, loadReach, coldReach])
theorem mxeArithClrRpl (c : Nat) : Statement (.mxeArithClrRpl c) := fun s => within_execMxeArithClrRpl (ks := touches (.mxeArithClrRpl c)) s (by simp [touches, engineReach, haltReach, loadReach, coldReach])
theorem spmBankOwnWrite (c : Nat) (v : Word) : Statement (.spmBankOwnWrite c v) := fun s => within_execSpmBankOwnWrite (ks := touches (.spmBankOwnWrite c v)) s (by simp [touches, engineReach, haltReach, loadReach, coldReach])
theorem ownershipGovern (c : Nat) : Statement (.ownershipGovern c) := fun s => within_execOwnershipGovern (ks := touches (.ownershipGovern c)) s (by simp [touches, engineReach, haltReach, loadReach, coldReach])
theorem coreInstruction (c : Nat) (k : CoreSel) : Statement (.coreInstruction c k) := fun s => within_execCoreInstruction (ks := touches (.coreInstruction c k)) s (by simp [touches, engineReach, haltReach, loadReach, coldReach])
theorem coreLoad (c : Nat) (k : CoreSel) : Statement (.coreLoad c k) := fun s => within_execCoreLoad (ks := touches (.coreLoad c k)) s (by simp [touches, engineReach, haltReach, loadReach, coldReach])
theorem coreStore (c : Nat) (k : CoreSel) : Statement (.coreStore c k) := fun s => within_execCoreStore (ks := touches (.coreStore c k)) s (by simp [touches, engineReach, haltReach, loadReach, coldReach])
theorem coreVectorAccess (c : Nat) (k : CoreSel) : Statement (.coreVectorAccess c k) := fun s => within_execCoreVectorAccess (ks := touches (.coreVectorAccess c k)) s (by simp [touches, engineReach, haltReach, loadReach, coldReach])
theorem controlWindowStore (c : Nat) (k : CoreSel) : Statement (.controlWindowStore c k) := fun s => within_execControlWindowStore (ks := touches (.controlWindowStore c k)) s (by simp [touches, engineReach, haltReach, loadReach, coldReach])
theorem farWindowLoad (c : Nat) (k : CoreSel) : Statement (.farWindowLoad c k) := fun s => within_execFarWindowLoad (ks := touches (.farWindowLoad c k)) s (by simp [touches, engineReach, haltReach, loadReach, coldReach])
theorem farWindowStore (c : Nat) (k : CoreSel) : Statement (.farWindowStore c k) := fun s => within_execFarWindowStore (ks := touches (.farWindowStore c k)) s (by simp [touches, engineReach, haltReach, loadReach, coldReach])
theorem farLoadResponse (c : Nat) (k : CoreSel) (i : Nat) : Statement (.farLoadResponse c k i) := fun s => within_execFarLoadResponse (ks := touches (.farLoadResponse c k i)) s (by simp [touches, engineReach, haltReach, loadReach, coldReach])
theorem fence (c : Nat) (k : CoreSel) : Statement (.fence c k) := fun s => within_execFence (ks := touches (.fence c k)) s (by simp [touches, engineReach, haltReach, loadReach, coldReach])
theorem mergeEntryWrite (c : Nat) (k : CoreSel) : Statement (.mergeEntryWrite c k) := fun s => within_execMergeEntryWrite (ks := touches (.mergeEntryWrite c k)) s (by simp [touches, engineReach, haltReach, loadReach, coldReach])
theorem mergeAgeEvict (c : Nat) (k : CoreSel) : Statement (.mergeAgeEvict c k) := fun s => within_execMergeAgeEvict (ks := touches (.mergeAgeEvict c k)) s (by simp [touches, engineReach, haltReach, loadReach, coldReach])
theorem coreStart (c : Nat) (k : CoreSel) : Statement (.coreStart c k) := fun s => within_execCoreStart (ks := touches (.coreStart c k)) s (by simp [touches, engineReach, haltReach, loadReach, coldReach])
theorem coreStop (c : Nat) (k : CoreSel) : Statement (.coreStop c k) := fun s => within_execCoreStop (ks := touches (.coreStop c k)) s (by simp [touches, engineReach, haltReach, loadReach, coldReach])
theorem imemLoad (c : Nat) (k : CoreSel) (req : Req) (v : Word) : Statement (.imemLoad c k req v) := fun s => within_execImemLoad (ks := touches (.imemLoad c k req v)) s (by simp [touches, engineReach, haltReach, loadReach, coldReach])
theorem imemLoadComplete (c : Nat) (k : CoreSel) : Statement (.imemLoadComplete c k) := fun s => within_execImemLoadComplete (ks := touches (.imemLoadComplete c k)) s (by simp [touches, engineReach, haltReach, loadReach, coldReach])
theorem eccRawWrite (c : Nat) (req : Req) : Statement (.eccRawWrite c req) := fun s => within_execEccRawWrite (ks := touches (.eccRawWrite c req)) s (by simp [touches, engineReach, haltReach, loadReach, coldReach])
theorem eccRawRead (c : Nat) (req : Req) : Statement (.eccRawRead c req) := fun s => within_execEccRawRead (ks := touches (.eccRawRead c req)) s (by simp [touches, engineReach, haltReach, loadReach, coldReach])
theorem primerDone (c : Nat) (ecc : Nat) : Statement (.primerDone c ecc) := fun s => within_execPrimerDone (ks := touches (.primerDone c ecc)) s (by simp [touches, engineReach, haltReach, loadReach, coldReach])
theorem scrubLineRead (c : Nat) (bank : Nat) : Statement (.scrubLineRead c bank) := fun s => within_execScrubLineRead (ks := touches (.scrubLineRead c bank)) s (by simp [touches, engineReach, haltReach, loadReach, coldReach])
theorem scrubWriteback (c : Nat) (bank : Nat) : Statement (.scrubWriteback c bank) := fun s => within_execScrubWriteback (ks := touches (.scrubWriteback c bank)) s (by simp [touches, engineReach, haltReach, loadReach, coldReach])
theorem istoreScrub (c : Nat) (k : CoreSel) : Statement (.istoreScrub c k) := fun s => within_execIstoreScrub (ks := touches (.istoreScrub c k)) s (by simp [touches, engineReach, haltReach, loadReach, coldReach])
theorem bengFill (c : Nat) (req : Req) : Statement (.bengFill c req) := fun s => within_execBengFill (ks := touches (.bengFill c req)) s (by simp [touches, engineReach, haltReach, loadReach, coldReach])
theorem bengCopy (c : Nat) (req : Req) : Statement (.bengCopy c req) := fun s => within_execBengCopy (ks := touches (.bengCopy c req)) s (by simp [touches, engineReach, haltReach, loadReach, coldReach])
theorem bengPoison (c : Nat) (req : Req) : Statement (.bengPoison c req) := fun s => within_execBengPoison (ks := touches (.bengPoison c req)) s (by simp [touches, engineReach, haltReach, loadReach, coldReach])
theorem bengCommandStart (c : Nat) : Statement (.bengCommandStart c) := fun s => within_execBengCommandStart (ks := touches (.bengCommandStart c)) s (by simp [touches, engineReach, haltReach, loadReach, coldReach])
theorem bengCommandDone (c : Nat) (ecc : Nat) : Statement (.bengCommandDone c ecc) := fun s => within_execBengCommandDone (ks := touches (.bengCommandDone c ecc)) s (by simp [touches, engineReach, haltReach, loadReach, coldReach])
theorem packetRoute (i : Nat) (errs : List (Nat × Nat)) (ecc : Nat) : Statement (.packetRoute i errs ecc) := fun s => within_execPacketRoute (ks := touches (.packetRoute i errs ecc)) s (by simp [touches, engineReach, haltReach, loadReach, coldReach])
theorem linkNakReceive (c : Nat) (link : Nat) (flit : Nat) : Statement (.linkNakReceive c link flit) := fun s => within_execLinkNakReceive (ks := touches (.linkNakReceive c link flit)) s (by simp [touches, engineReach, haltReach, loadReach, coldReach])
theorem loopbackTestDone (c : Nat) (link : Nat) (near : Bool) (far : Bool) (wiresBad : List Nat) (raw : Nat) : Statement (.loopbackTestDone c link near far wiresBad raw) := fun s => within_execLoopbackTestDone (ks := touches (.loopbackTestDone c link near far wiresBad raw)) s (by simp [touches, engineReach, haltReach, loadReach, coldReach])
theorem detourLoad (c : Nat) (entries : List Word) : Statement (.detourLoad c entries) := fun s => within_execDetourLoad (ks := touches (.detourLoad c entries)) s (by simp [touches, engineReach, haltReach, loadReach, coldReach])
theorem writePacketLand (i : Nat) (m : Nat) (ecc : Nat) : Statement (.writePacketLand i m ecc) := fun s => within_execWritePacketLand (ks := touches (.writePacketLand i m ecc)) s (by simp [touches, engineReach, haltReach, loadReach, coldReach])
theorem readPacket (i : Nat) (m : Nat) : Statement (.readPacket i m) := fun s => within_execReadPacket (ks := touches (.readPacket i m)) s (by simp [touches, engineReach, haltReach, loadReach, coldReach])
theorem readResponseReceive (i : Nat) : Statement (.readResponseReceive i) := fun s => within_execReadResponseReceive (ks := touches (.readResponseReceive i)) s (by simp [touches, engineReach, haltReach, loadReach, coldReach])
theorem ackReceive (i : Nat) : Statement (.ackReceive i) := fun s => within_execAckReceive (ks := touches (.ackReceive i)) s (by simp [touches, engineReach, haltReach, loadReach, coldReach])
theorem signalPacket (i : Nat) (ecc : Nat) : Statement (.signalPacket i ecc) := fun s => within_execSignalPacket (ks := touches (.signalPacket i ecc)) s (by simp [touches, engineReach, haltReach, loadReach, coldReach])
theorem multicastWriteLand (i : Nat) (ecc : Nat) : Statement (.multicastWriteLand i ecc) := fun s => within_execMulticastWriteLand (ks := touches (.multicastWriteLand i ecc)) s (by simp [touches, engineReach, haltReach, loadReach, coldReach])
theorem multicastSignal (i : Nat) (ecc : Nat) : Statement (.multicastSignal i ecc) := fun s => within_execMulticastSignal (ks := touches (.multicastSignal i ecc)) s (by simp [touches, engineReach, haltReach, loadReach, coldReach])
theorem txPut (c : Nat) (req : Req) : Statement (.txPut c req) := fun s => within_execTxPut (ks := touches (.txPut c req)) s (by simp [touches, engineReach, haltReach, loadReach, coldReach])
theorem txGet (c : Nat) (req : Req) : Statement (.txGet c req) := fun s => within_execTxGet (ks := touches (.txGet c req)) s (by simp [touches, engineReach, haltReach, loadReach, coldReach])
theorem txMulticastPut (c : Nat) (req : Req) : Statement (.txMulticastPut c req) := fun s => within_execTxMulticastPut (ks := touches (.txMulticastPut c req)) s (by simp [touches, engineReach, haltReach, loadReach, coldReach])
theorem txCommandComplete (c : Nat) (ecc : Nat) : Statement (.txCommandComplete c ecc) := fun s => within_execTxCommandComplete (ks := touches (.txCommandComplete c ecc)) s (by simp [touches, engineReach, haltReach, loadReach, coldReach])
theorem mcStallWatchdog (i : Nat) : Statement (.mcStallWatchdog i) := fun s => within_execMcStallWatchdog (ks := touches (.mcStallWatchdog i)) s (by simp [touches, engineReach, haltReach, loadReach, coldReach])
theorem mcLandAdd (c : Nat) (v : Word) (ecc : Nat) : Statement (.mcLandAdd c v ecc) := fun s => within_execMcLandAdd (ks := touches (.mcLandAdd c v ecc)) s (by simp [touches, engineReach, haltReach, loadReach, coldReach])
theorem syncArm (c : Nat) (n : Nat) (v : Word) (ecc : Nat) : Statement (.syncArm c n v ecc) := fun s => within_execSyncArm (ks := touches (.syncArm c n v ecc)) s (by simp [touches, engineReach, haltReach, loadReach, coldReach])
theorem syncSigWrite (c : Nat) (req : Req) (v : Word) : Statement (.syncSigWrite c req v) := fun s => within_execSyncSigWrite (ks := touches (.syncSigWrite c req v)) s (by simp [touches, engineReach, haltReach, loadReach, coldReach])
theorem syncWait (c : Nat) (k : CoreSel) : Statement (.syncWait c k) := fun s => within_execSyncWait (ks := touches (.syncWait c k)) s (by simp [touches, engineReach, haltReach, loadReach, coldReach])
theorem syncWaitSatisfied (c : Nat) (k : CoreSel) (ecc : Nat) : Statement (.syncWaitSatisfied c k ecc) := fun s => within_execSyncWaitSatisfied (ks := touches (.syncWaitSatisfied c k ecc)) s (by simp [touches, engineReach, haltReach, loadReach, coldReach])
theorem syncWaitWatchdog (c : Nat) (k : CoreSel) : Statement (.syncWaitWatchdog c k) := fun s => within_execSyncWaitWatchdog (ks := touches (.syncWaitWatchdog c k)) s (by simp [touches, engineReach, haltReach, loadReach, coldReach])
theorem loadKind5Write (badReads : Nat) (fates : List Fate) : Statement (.loadKind5Write badReads fates) := fun s => within_execLoadKind5Write (ks := touches (.loadKind5Write badReads fates)) s (by simp [touches, engineReach, haltReach, loadReach, coldReach])
theorem loadRound (lost : List (Nat × Nat × Nat × Nat)) (stalled : List (Nat × Nat × Nat × Nat)) (fates : List Fate) : Statement (.loadRound lost stalled fates) := fun s => within_execLoadRound (ks := touches (.loadRound lost stalled fates)) s (by simp [touches, engineReach, haltReach, loadReach, coldReach])
theorem loadChunkRepair (c : Nat) (seg : Nat) (chunk : Nat) (copies : List (List Nat)) (fates : List Fate) : Statement (.loadChunkRepair c seg chunk copies fates) := fun s => within_execLoadChunkRepair (ks := touches (.loadChunkRepair c seg chunk copies fates)) s (by simp [touches, engineReach, haltReach, loadReach, coldReach])
theorem jobStart (job : Nat) : Statement (.jobStart job) := fun s => within_execJobStart (ks := touches (.jobStart job)) s (by simp [touches, engineReach, haltReach, loadReach, coldReach])
theorem jobHalt (job : Nat) : Statement (.jobHalt job) := fun s => within_execJobHalt (ks := touches (.jobHalt job)) s (by simp [touches, engineReach, haltReach, loadReach, coldReach])
theorem jobEnd (job : Nat) : Statement (.jobEnd job) := fun s => within_execJobEnd (ks := touches (.jobEnd job)) s (by simp [touches, engineReach, haltReach, loadReach, coldReach])
theorem stepDeclare (job : Nat) : Statement (.stepDeclare job) := fun s => within_execStepDeclare (ks := touches (.stepDeclare job)) s (by simp [touches, engineReach, haltReach, loadReach, coldReach])
theorem stepNumSet (v : DWord) : Statement (.stepNumSet v) := fun s => within_execStepNumSet (ks := touches (.stepNumSet v)) s (by simp [touches, engineReach, haltReach, loadReach, coldReach])
theorem testKernelCall (c : Nat) (k : CoreSel) (failed : Option Nat) : Statement (.testKernelCall c k failed) := fun s => within_execTestKernelCall (ks := touches (.testKernelCall c k failed)) s (by simp [touches, engineReach, haltReach, loadReach, coldReach])
theorem gddrRead (req : Req) (ga : GAddr) (len : Nat) (mismatches : Nat) (upset : Nat) : Statement (.gddrRead req ga len mismatches upset) := fun s => within_execGddrRead (ks := touches (.gddrRead req ga len mismatches upset)) s (by simp [touches, engineReach, haltReach, loadReach, coldReach])
theorem gddrWrite (req : Req) (ga : GAddr) (data : List Byte) (pois : List Nat) (mismatches : Nat) (upset : Nat) : Statement (.gddrWrite req ga data pois mismatches upset) := fun s => within_execGddrWrite (ks := touches (.gddrWrite req ga data pois mismatches upset)) s (by simp [touches, engineReach, haltReach, loadReach, coldReach])
theorem channelRetrainDone (die : Nat) (dev : Nat) (ch : Nat) (ok : Bool) : Statement (.channelRetrainDone die dev ch ok) := fun s => within_execChannelRetrainDone (ks := touches (.channelRetrainDone die dev ch ok)) s (by simp [touches, engineReach, haltReach, loadReach, coldReach])
theorem gddrScrubSegment (die : Nat) (dev : Nat) (mismatches : Nat) (upset : Nat) : Statement (.gddrScrubSegment die dev mismatches upset) := fun s => within_execGddrScrubSegment (ks := touches (.gddrScrubSegment die dev mismatches upset)) s (by simp [touches, engineReach, haltReach, loadReach, coldReach])
theorem gddrTempRead (die : Nat) (dev : Nat) (t : Int) : Statement (.gddrTempRead die dev t) := fun s => within_execGddrTempRead (ks := touches (.gddrTempRead die dev t)) s (by simp [touches, engineReach, haltReach, loadReach, coldReach])
theorem gddrRefresh (die : Nat) (dev : Nat) (bank : Nat) : Statement (.gddrRefresh die dev bank) := fun s => within_execGddrRefresh (bank := bank) (ks := touches (.gddrRefresh die dev bank)) s (by simp [touches, engineReach, haltReach, loadReach, coldReach])
theorem memEccRawWrite (req : Req) (die : Nat) (dev : Nat) : Statement (.memEccRawWrite req die dev) := fun s => within_execMemEccRawWrite (ks := touches (.memEccRawWrite req die dev)) s (by simp [touches, engineReach, haltReach, loadReach, coldReach])
theorem memEccRawRead (req : Req) (die : Nat) (dev : Nat) : Statement (.memEccRawRead req die dev) := fun s => within_execMemEccRawRead (ks := touches (.memEccRawRead req die dev)) s (by simp [touches, engineReach, haltReach, loadReach, coldReach])
theorem fabSubmitPut (req : Req) (die : Nat) (cmd : BitVec 256) : Statement (.fabSubmitPut req die cmd) := fun s => within_execFabSubmitPut (ks := touches (.fabSubmitPut req die cmd)) s (by simp [touches, engineReach, haltReach, loadReach, coldReach])
theorem fabSubmitGet (req : Req) (die : Nat) (cmd : BitVec 256) : Statement (.fabSubmitGet req die cmd) := fun s => within_execFabSubmitGet (ks := touches (.fabSubmitGet req die cmd)) s (by simp [touches, engineReach, haltReach, loadReach, coldReach])
theorem fabSubmitSignal (req : Req) (die : Nat) (cmd : BitVec 256) : Statement (.fabSubmitSignal req die cmd) := fun s => within_execFabSubmitSignal (ks := touches (.fabSubmitSignal req die cmd)) s (by simp [touches, engineReach, haltReach, loadReach, coldReach])
theorem fabSubmitReduce (req : Req) (die : Nat) (cmd : BitVec 256) : Statement (.fabSubmitReduce req die cmd) := fun s => within_execFabSubmitReduce (ks := touches (.fabSubmitReduce req die cmd)) s (by simp [touches, engineReach, haltReach, loadReach, coldReach])
theorem fabCommandStart (die : Nat) (upset : Nat) : Statement (.fabCommandStart die upset) := fun s => within_execFabCommandStart (ks := touches (.fabCommandStart die upset)) s (by simp [touches, engineReach, haltReach, loadReach, coldReach])
theorem putFrameReceive (die : Nat) (port : Nat) (f : Frame) (link : DWord) : Statement (.putFrameReceive die port f link) := fun s => within_execPutFrameReceive (ks := touches (.putFrameReceive die port f link)) s (by simp [touches, engineReach, haltReach, loadReach, coldReach])
theorem getRequestReceive (die : Nat) (port : Nat) (f : Frame) (link : DWord) : Statement (.getRequestReceive die port f link) := fun s => within_execGetRequestReceive (ks := touches (.getRequestReceive die port f link)) s (by simp [touches, engineReach, haltReach, loadReach, coldReach])
theorem signalFrameReceive (die : Nat) (port : Nat) (f : Frame) (link : DWord) : Statement (.signalFrameReceive die port f link) := fun s => within_execSignalFrameReceive (ks := touches (.signalFrameReceive die port f link)) s (by simp [touches, engineReach, haltReach, loadReach, coldReach])
theorem reduceFrameReceive (die : Nat) (port : Nat) (f : Frame) (link : DWord) : Statement (.reduceFrameReceive die port f link) := fun s => within_execReduceFrameReceive (ks := touches (.reduceFrameReceive die port f link)) s (by simp [touches, engineReach, haltReach, loadReach, coldReach])
theorem getResponseReceive (die : Nat) (port : Nat) (f : Frame) (link : DWord) : Statement (.getResponseReceive die port f link) := fun s => within_execGetResponseReceive (ks := touches (.getResponseReceive die port f link)) s (by simp [touches, engineReach, haltReach, loadReach, coldReach])
theorem completionReceive (die : Nat) (port : Nat) (f : Frame) (link : DWord) : Statement (.completionReceive die port f link) := fun s => within_execCompletionReceive (ks := touches (.completionReceive die port f link)) s (by simp [touches, engineReach, haltReach, loadReach, coldReach])
theorem frameAckReceive (die : Nat) (port : Nat) (f : Frame) (link : DWord) : Statement (.frameAckReceive die port f link) := fun s => within_execFrameAckReceive (ks := touches (.frameAckReceive die port f link)) s (by simp [touches, engineReach, haltReach, loadReach, coldReach])
theorem faultNoticeReceive (die : Nat) (port : Nat) (f : Frame) (link : DWord) : Statement (.faultNoticeReceive die port f link) := fun s => within_execFaultNoticeReceive (ks := touches (.faultNoticeReceive die port f link)) s (by simp [touches, engineReach, haltReach, loadReach, coldReach])
theorem nativeLinkNak (die : Nat) (port : Nat) (link : DWord) : Statement (.nativeLinkNak die port link) := fun s => within_execNativeLinkNak (ks := touches (.nativeLinkNak die port link)) s (by simp [touches, engineReach, haltReach, loadReach, coldReach])
theorem e2eAckSend (q : Nat) : Statement (.e2eAckSend q) := fun s => within_execE2eAckSend (ks := touches (.e2eAckSend q)) s (by simp [touches, engineReach, haltReach, loadReach, coldReach])
theorem e2eResendTimeout (q : Nat) : Statement (.e2eResendTimeout q) := fun s => within_execE2eResendTimeout (ks := touches (.e2eResendTimeout q)) s (by simp [touches, engineReach, haltReach, loadReach, coldReach])
theorem commandTimeout (die : Nat) (tag : Nat) : Statement (.commandTimeout die tag) := fun s => within_execCommandTimeout (ks := touches (.commandTimeout die tag)) s (by simp [touches, engineReach, haltReach, loadReach, coldReach])
theorem fecUncorrectableBurst (die : Nat) (port : Nat) (lane : Nat) (count : Nat) (corr : Nat) : Statement (.fecUncorrectableBurst die port lane count corr) := fun s => within_execFecUncorrectableBurst (lane := lane) (ks := touches (.fecUncorrectableBurst die port lane count corr)) s (by simp [touches, engineReach, haltReach, loadReach, coldReach])
theorem partnerSignalLoss (die : Nat) (port : Nat) : Statement (.partnerSignalLoss die port) := fun s => within_execPartnerSignalLoss (ks := touches (.partnerSignalLoss die port)) s (by simp [touches, engineReach, haltReach, loadReach, coldReach])
theorem fabPcmdRetrain (die : Nat) (port : Nat) : Statement (.fabPcmdRetrain die port) := fun s => within_execFabPcmdRetrain (ks := touches (.fabPcmdRetrain die port)) s (by simp [touches, engineReach, haltReach, loadReach, coldReach])
theorem portRetrainDone (die : Nat) (port : Nat) (lanesBad : BitVec 8) (crReq : Nat) (crRsp : Nat) : Statement (.portRetrainDone die port lanesBad crReq crRsp) := fun s => within_execPortRetrainDone (ks := touches (.portRetrainDone die port lanesBad crReq crRsp)) s (by simp [touches, engineReach, haltReach, loadReach, coldReach])
theorem fabPortEnWrite (die : Nat) (port : Nat) (en : Bool) : Statement (.fabPortEnWrite die port en) := fun s => within_execFabPortEnWrite (ks := touches (.fabPortEnWrite die port en)) s (by simp [touches, engineReach, haltReach, loadReach, coldReach])
theorem contextOpen (q : Nat) : Statement (.contextOpen q) := fun s => within_execContextOpen (ks := touches (.contextOpen q)) s (by simp [touches, engineReach, haltReach, loadReach, coldReach])
theorem contextClose (q : Nat) : Statement (.contextClose q) := fun s => within_execContextClose (ks := touches (.contextClose q)) s (by simp [touches, engineReach, haltReach, loadReach, coldReach])
theorem pcieLinkUp (port : Nat) (speed : Nat) (width : Nat) : Statement (.pcieLinkUp port speed width) := fun s => within_execPcieLinkUp (ks := touches (.pcieLinkUp port speed width)) s (by simp [touches, engineReach, haltReach, loadReach, coldReach])
theorem pcieLinkDown (port : Nat) : Statement (.pcieLinkDown port) := fun s => within_execPcieLinkDown (ks := touches (.pcieLinkDown port)) s (by simp [touches, engineReach, haltReach, loadReach, coldReach])
theorem hostBarRead (port : Nat) (bar : Nat) (off : Nat) (len : Nat) (ecrc : Bool) (fates : List Fate) : Statement (.hostBarRead port bar off len ecrc fates) := fun s => within_execHostBarRead (ks := touches (.hostBarRead port bar off len ecrc fates)) s (by simp [touches, engineReach, haltReach, loadReach, coldReach])
theorem hostBarWrite (port : Nat) (bar : Nat) (off : Nat) (data : List Byte) (ep : Bool) (ecrc : Bool) (fates : List Fate) : Statement (.hostBarWrite port bar off data ep ecrc fates) := fun s => within_execHostBarWrite (ks := touches (.hostBarWrite port bar off data ep ecrc fates)) s (by simp [touches, engineReach, haltReach, loadReach, coldReach])
theorem ringDoorbell (port : Nat) (n : Nat) (pi : Nat) : Statement (.ringDoorbell port n pi) := fun s => within_execRingDoorbell (ks := touches (.ringDoorbell port n pi)) s (by simp [touches, engineReach, haltReach, loadReach, coldReach])
theorem ringEntryFetch (port : Nat) (n : Nat) (ok : Bool) (upset : Bool) : Statement (.ringEntryFetch port n ok upset) := fun s => within_execRingEntryFetch (ks := touches (.ringEntryFetch port n ok upset)) s (by simp [touches, engineReach, haltReach, loadReach, coldReach])
theorem ringNop (port : Nat) (n : Nat) : Statement (.ringNop port n) := fun s => within_execRingNop (ks := touches (.ringNop port n)) s (by simp [touches, engineReach, haltReach, loadReach, coldReach])
theorem ringDmaHostToEngine (port : Nat) (n : Nat) (fates : List Fate) : Statement (.ringDmaHostToEngine port n fates) := fun s => within_execRingDmaHostToEngine (ks := touches (.ringDmaHostToEngine port n fates)) s (by simp [touches, engineReach, haltReach, loadReach, coldReach])
theorem ringDmaEngineToHost (port : Nat) (n : Nat) (fates : List Fate) : Statement (.ringDmaEngineToHost port n fates) := fun s => within_execRingDmaEngineToHost (ks := touches (.ringDmaEngineToHost port n fates)) s (by simp [touches, engineReach, haltReach, loadReach, coldReach])
theorem ringRegisterWrite (port : Nat) (n : Nat) (fates : List Fate) : Statement (.ringRegisterWrite port n fates) := fun s => within_execRingRegisterWrite (ks := touches (.ringRegisterWrite port n fates)) s (by simp [touches, engineReach, haltReach, loadReach, coldReach])
theorem ringSignal (port : Nat) (n : Nat) : Statement (.ringSignal port n) := fun s => within_execRingSignal (ks := touches (.ringSignal port n)) s (by simp [touches, engineReach, haltReach, loadReach, coldReach])
theorem ringLoad (port : Nat) (n : Nat) (fates : List Fate) : Statement (.ringLoad port n fates) := fun s => within_execRingLoad (ks := touches (.ringLoad port n fates)) s (by simp [touches, engineReach, haltReach, loadReach, coldReach])
theorem ringJobCommand (port : Nat) (n : Nat) (fates : List Fate) : Statement (.ringJobCommand port n fates) := fun s => within_execRingJobCommand (ks := touches (.ringJobCommand port n fates)) s (by simp [touches, engineReach, haltReach, loadReach, coldReach])
theorem ringEntryComplete (port : Nat) (n : Nat) : Statement (.ringEntryComplete port n) := fun s => within_execRingEntryComplete (ks := touches (.ringEntryComplete port n)) s (by simp [touches, engineReach, haltReach, loadReach, coldReach])
theorem ringEnable (port : Nat) (n : Nat) : Statement (.ringEnable port n) := fun s => within_execRingEnable (ks := touches (.ringEnable port n)) s (by simp [touches, engineReach, haltReach, loadReach, coldReach])
theorem ringDisable (port : Nat) (n : Nat) : Statement (.ringDisable port n) := fun s => within_execRingDisable (ks := touches (.ringDisable port n)) s (by simp [touches, engineReach, haltReach, loadReach, coldReach])
theorem msixRaise (req : Req) (port : Nat) (vec : Nat) : Statement (.msixRaise req port vec) := fun s => within_execMsixRaise (ks := touches (.msixRaise req port vec)) s (by simp [touches, engineReach, haltReach, loadReach, coldReach])
theorem evqEnable (port : Nat) : Statement (.evqEnable port) := fun s => within_execEvqEnable (ks := touches (.evqEnable port)) s (by simp [touches, engineReach, haltReach, loadReach, coldReach])
theorem evqCiWrite (port : Nat) (ci : Nat) : Statement (.evqCiWrite port ci) := fun s => within_execEvqCiWrite (ks := touches (.evqCiWrite port ci)) s (by simp [touches, engineReach, haltReach, loadReach, coldReach])
theorem outboundRead (req : Req) (addr : Nat) (len : Nat) : Statement (.outboundRead req addr len) := fun s => within_execOutboundRead (ks := touches (.outboundRead req addr len)) s (by simp [touches, engineReach, haltReach, loadReach, coldReach])
theorem outboundWrite (req : Req) (addr : Nat) (data : List Byte) (pois : List Nat) : Statement (.outboundWrite req addr data pois) := fun s => within_execOutboundWrite (ks := touches (.outboundWrite req addr data pois)) s (by simp [touches, engineReach, haltReach, loadReach, coldReach])
theorem outboundCompletion (id : Nat) (ok : Bool) (ep : Bool) (ecrc : Bool) (data : List Byte) : Statement (.outboundCompletion id ok ep ecrc data) := fun s => within_execOutboundCompletion (ks := touches (.outboundCompletion id ok ep ecrc data)) s (by simp [touches, engineReach, haltReach, loadReach, coldReach])
theorem outboundCplTimeout (id : Nat) : Statement (.outboundCplTimeout id) := fun s => within_execOutboundCplTimeout (ks := touches (.outboundCplTimeout id)) s (by simp [touches, engineReach, haltReach, loadReach, coldReach])
theorem functionLevelReset (port : Nat) : Statement (.functionLevelReset port) := fun s => within_execFunctionLevelReset (ks := touches (.functionLevelReset port)) s (by simp [touches, engineReach, haltReach, loadReach, coldReach])
theorem perstAssert (port : Nat) : Statement (.perstAssert port) := fun s => within_execPerstAssert (ks := touches (.perstAssert port)) s (by simp [touches, engineReach, haltReach, loadReach, coldReach])
theorem perstRelease (port : Nat) : Statement (.perstRelease port) := fun s => within_execPerstRelease (ks := touches (.perstRelease port)) s (by simp [touches, engineReach, haltReach, loadReach, coldReach])
theorem inputOutOfRange (vin10 : Nat) (ia : Nat) (ib : Nat) : Statement (.inputOutOfRange vin10 ia ib) := fun s => within_execInputOutOfRange (ks := touches (.inputOutOfRange vin10 ia ib)) s (by simp [touches, engineReach, haltReach, loadReach, coldReach])
theorem bladeLoss (blade : Nat) : Statement (.bladeLoss blade) := fun s => within_execBladeLoss (ks := touches (.bladeLoss blade)) s (by simp [touches, engineReach, haltReach, loadReach, coldReach])
theorem busConverterFail (die : Nat) : Statement (.busConverterFail die) := fun s => within_execBusConverterFail (ks := touches (.busConverterFail die)) s (by simp [touches, engineReach, haltReach, loadReach, coldReach])
theorem phaseFail (die : Nat) (phase : Nat) (meas : Nat) : Statement (.phaseFail die phase meas) := fun s => within_execPhaseFail (ks := touches (.phaseFail die phase meas)) s (by simp [touches, engineReach, haltReach, loadReach, coldReach])
theorem substrateRegulatorFail (die : Nat) (u : Feeds) : Statement (.substrateRegulatorFail die u) := fun s => within_execSubstrateRegulatorFail (ks := touches (.substrateRegulatorFail die u)) s (by simp [touches, engineReach, haltReach, loadReach, coldReach])
theorem ldoSliceFail (die : Nat) (rx : Nat) (ry : Nat) (rail : Nat) (slice : Nat) : Statement (.ldoSliceFail die rx ry rail slice) := fun s => within_execLdoSliceFail (ks := touches (.ldoSliceFail die rx ry rail slice)) s (by simp [touches, engineReach, haltReach, loadReach, coldReach])
theorem regionComputeOn (die : Nat) (rx : Nat) (ry : Nat) : Statement (.regionComputeOn die rx ry) := fun s => within_execRegionComputeOn (ks := touches (.regionComputeOn die rx ry)) s (by simp [touches, engineReach, haltReach, loadReach, coldReach])
theorem regionComputeOff (die : Nat) (rx : Nat) (ry : Nat) : Statement (.regionComputeOff die rx ry) := fun s => within_execRegionComputeOff (ks := touches (.regionComputeOff die rx ry)) s (by simp [touches, engineReach, haltReach, loadReach, coldReach])
theorem regionFullOff (die : Nat) (rx : Nat) (ry : Nat) : Statement (.regionFullOff die rx ry) := fun s => within_execRegionFullOff (ks := touches (.regionFullOff die rx ry)) s (by simp [touches, engineReach, haltReach, loadReach, coldReach])
theorem regionRouterOn (die : Nat) (rx : Nat) (ry : Nat) : Statement (.regionRouterOn die rx ry) := fun s => within_execRegionRouterOn (ks := touches (.regionRouterOn die rx ry)) s (by simp [touches, engineReach, haltReach, loadReach, coldReach])
theorem stageAdmission (die : Nat) : Statement (.stageAdmission die) := fun s => within_execStageAdmission (ks := touches (.stageAdmission die)) s (by simp [touches, engineReach, haltReach, loadReach, coldReach])
theorem quarterStrength (die : Nat) (rx : Nat) (ry : Nat) : Statement (.quarterStrength die rx ry) := fun s => within_execQuarterStrength (ks := touches (.quarterStrength die rx ry)) s (by simp [touches, engineReach, haltReach, loadReach, coldReach])
theorem turnOnAbandon (die : Nat) (rx : Nat) (ry : Nat) : Statement (.turnOnAbandon die rx ry) := fun s => within_execTurnOnAbandon (ks := touches (.turnOnAbandon die rx ry)) s (by simp [touches, engineReach, haltReach, loadReach, coldReach])
theorem powerGood (die : Nat) (rx : Nat) (ry : Nat) : Statement (.powerGood die rx ry) := fun s => within_execPowerGood (ks := touches (.powerGood die rx ry)) s (by simp [touches, engineReach, haltReach, loadReach, coldReach])
theorem powerGoodMissed (die : Nat) (rx : Nat) (ry : Nat) : Statement (.powerGoodMissed die rx ry) := fun s => within_execPowerGoodMissed (ks := touches (.powerGoodMissed die rx ry)) s (by simp [touches, engineReach, haltReach, loadReach, coldReach])
theorem activityEstimate (die : Nat) (upset : Bool) (meas : Option Nat) : Statement (.activityEstimate die upset meas) := fun s => within_execActivityEstimate (ks := touches (.activityEstimate die upset meas)) s (by simp [touches, engineReach, haltReach, loadReach, coldReach])
theorem engineEstimate (paux : Nat) (reading : Option (Nat × Nat × Nat)) : Statement (.engineEstimate paux reading) := fun s => within_execEngineEstimate (ks := touches (.engineEstimate paux reading)) s (by simp [touches, engineReach, haltReach, loadReach, coldReach])
theorem trimUpdate : Statement .trimUpdate := fun s => within_execTrimUpdate (ks := touches .trimUpdate) s (by simp [touches, engineReach, haltReach, loadReach, coldReach])
theorem bandIntervalJudge : Statement .bandIntervalJudge := fun s => within_execBandIntervalJudge (ks := touches .bandIntervalJudge) s (by simp [touches, engineReach, haltReach, loadReach, coldReach])
theorem averageModeEval : Statement .averageModeEval := fun s => within_execAverageModeEval (ks := touches .averageModeEval) s (by simp [touches, engineReach, haltReach, loadReach, coldReach])
theorem timeFrame (f : RackFrame) : Statement (.timeFrame f) := fun s => within_execTimeFrame (ks := touches (.timeFrame f)) s (by simp [touches, engineReach, haltReach, loadReach, coldReach])
theorem windowAllFrame (f : RackFrame) : Statement (.windowAllFrame f) := fun s => within_execWindowAllFrame (ks := touches (.windowAllFrame f)) s (by simp [touches, engineReach, haltReach, loadReach, coldReach])
theorem windowFrame (f : RackFrame) : Statement (.windowFrame f) := fun s => within_execWindowFrame (ks := touches (.windowFrame f)) s (by simp [touches, engineReach, haltReach, loadReach, coldReach])
theorem budgetFrame (f : RackFrame) : Statement (.budgetFrame f) := fun s => within_execBudgetFrame (ks := touches (.budgetFrame f)) s (by simp [touches, engineReach, haltReach, loadReach, coldReach])
theorem cancelFrame (f : RackFrame) : Statement (.cancelFrame f) := fun s => within_execCancelFrame (ks := touches (.cancelFrame f)) s (by simp [touches, engineReach, haltReach, loadReach, coldReach])
theorem rampRequest (w : Nat) : Statement (.rampRequest w) := fun s => within_execRampRequest (ks := touches (.rampRequest w)) s (by simp [touches, engineReach, haltReach, loadReach, coldReach])
theorem regionTempEval (die : Nat) (rx : Nat) (ry : Nat) (t : Int) : Statement (.regionTempEval die rx ry t) := fun s => within_execRegionTempEval (ks := touches (.regionTempEval die rx ry t)) s (by simp [touches, engineReach, haltReach, loadReach, coldReach])
theorem heatSwitchOn (die : Nat) (rx : Nat) (ry : Nat) : Statement (.heatSwitchOn die rx ry) := fun s => within_execHeatSwitchOn (ks := touches (.heatSwitchOn die rx ry)) s (by simp [touches, engineReach, haltReach, loadReach, coldReach])
theorem tempSensorFail (die : Nat) (rx : Nat) (ry : Nat) : Statement (.tempSensorFail die rx ry) := fun s => within_execTempSensorFail (ks := touches (.tempSensorFail die rx ry)) s (by simp [touches, engineReach, haltReach, loadReach, coldReach])
theorem thermalStop (die : Nat) (rx : Nat) (ry : Nat) : Statement (.thermalStop die rx ry) := fun s => within_execThermalStop (ks := touches (.thermalStop die rx ry)) s (by simp [touches, engineReach, haltReach, loadReach, coldReach])
theorem coolantDeassert (ns : Nat) : Statement (.coolantDeassert ns) := fun s => within_execCoolantDeassert (ks := touches (.coolantDeassert ns)) s (by simp [touches, engineReach, haltReach, loadReach, coldReach])
theorem ptpSyncMessage (offset : Int) (domain : Nat) (l2 : Bool) : Statement (.ptpSyncMessage offset domain l2) := fun s => within_execPtpSyncMessage (ks := touches (.ptpSyncMessage offset domain l2)) s (by simp [touches, engineReach, haltReach, loadReach, coldReach])
theorem timeSet (v : DWord) : Statement (.timeSet v) := fun s => within_execTimeSet (ks := touches (.timeSet v)) s (by simp [touches, engineReach, haltReach, loadReach, coldReach])
theorem timeSrcWrite (src : Nat) : Statement (.timeSrcWrite src) := fun s => within_execTimeSrcWrite (ks := touches (.timeSrcWrite src)) s (by simp [touches, engineReach, haltReach, loadReach, coldReach])
theorem pllLockLoss (die : Nat) (field : Nat) : Statement (.pllLockLoss die field) := fun s => within_execPllLockLoss (ks := touches (.pllLockLoss die field)) s (by simp [touches, engineReach, haltReach, loadReach, coldReach])
theorem dieThrottleApply (die : Nat) : Statement (.dieThrottleApply die) := fun s => within_execDieThrottleApply (ks := touches (.dieThrottleApply die)) s (by simp [touches, engineReach, haltReach, loadReach, coldReach])
theorem dieThrottleDecay (die : Nat) : Statement (.dieThrottleDecay die) := fun s => within_execDieThrottleDecay (ks := touches (.dieThrottleDecay die)) s (by simp [touches, engineReach, haltReach, loadReach, coldReach])
theorem droopFire (die : Nat) (rx : Nat) (ry : Nat) (mv : Nat) : Statement (.droopFire die rx ry mv) := fun s => within_execDroopFire (ks := touches (.droopFire die rx ry mv)) s (by simp [touches, engineReach, haltReach, loadReach, coldReach])
theorem droopStretchEnd (die : Nat) (rx : Nat) (ry : Nat) (mv : Nat) (good : Nat) : Statement (.droopStretchEnd die rx ry mv good) := fun s => within_execDroopStretchEnd (ks := touches (.droopStretchEnd die rx ry mv good)) s (by simp [touches, engineReach, haltReach, loadReach, coldReach])
theorem marginEval (die : Nat) (rx : Nat) (ry : Nat) (margin : Nat) (upset : Bool) : Statement (.marginEval die rx ry margin upset) := fun s => within_execMarginEval (ks := touches (.marginEval die rx ry margin upset)) s (by simp [touches, engineReach, haltReach, loadReach, coldReach])
theorem criticalMargin (die : Nat) (rx : Nat) (ry : Nat) (code : Nat) : Statement (.criticalMargin die rx ry code) := fun s => within_execCriticalMargin (ks := touches (.criticalMargin die rx ry code)) s (by simp [touches, engineReach, haltReach, loadReach, coldReach])
theorem targetedTestStart (c : Nat) : Statement (.targetedTestStart c) := fun s => within_execTargetedTestStart (ks := touches (.targetedTestStart c)) s (by simp [touches, engineReach, haltReach, loadReach, coldReach])
theorem targetedTestVerdict (c : Nat) (pass : Bool) : Statement (.targetedTestVerdict c pass) := fun s => within_execTargetedTestVerdict (ks := touches (.targetedTestVerdict c pass)) s (by simp [touches, engineReach, haltReach, loadReach, coldReach])
theorem firmwareSelfTest (c : Nat) (failed : Option Nat) : Statement (.firmwareSelfTest c failed) := fun s => within_execFirmwareSelfTest (ks := touches (.firmwareSelfTest c failed)) s (by simp [touches, engineReach, haltReach, loadReach, coldReach])
theorem bboxSelect (jseq : Word) : Statement (.bboxSelect jseq) := fun s => within_execBboxSelect (ks := touches (.bboxSelect jseq)) s (by simp [touches, engineReach, haltReach, loadReach, coldReach])
theorem firmwareVerify (sfdp : List Sfdp) (keysOk : List Bool) (objs : List SignedObj) : Statement (.firmwareVerify sfdp keysOk objs) := fun s => within_execFirmwareVerify (ks := touches (.firmwareVerify sfdp keysOk objs)) s (by simp [touches, engineReach, haltReach, loadReach, coldReach])
theorem configRead (r : FlashRead) : Statement (.configRead r) := fun s => within_execConfigRead (ks := touches (.configRead r)) s (by simp [touches, engineReach, haltReach, loadReach, coldReach])
theorem diePowerUp (die : Nat) (ok : Bool) (ctlOk : Bool) (slicesBad : List (Nat × Nat × Nat)) : Statement (.diePowerUp die ok ctlOk slicesBad) := fun s => within_execDiePowerUp (ks := touches (.diePowerUp die ok ctlOk slicesBad)) s (by simp [touches, engineReach, haltReach, loadReach, coldReach])
theorem pllCalibration (die : Nat) (locked : Bool) (raw : List (Nat × Nat × Nat)) (wiresBad : List (Nat × Nat × Nat)) : Statement (.pllCalibration die locked raw wiresBad) := fun s => within_execPllCalibration (ks := touches (.pllCalibration die locked raw wiresBad)) s (by simp [touches, engineReach, haltReach, loadReach, coldReach])
theorem neighbourTest (marchBad : List Nat) (verdicts : List (Nat × Nat × Bool)) (wiresBad : List (Nat × Nat × Nat × Nat)) (retrain : List (Nat × Nat × Nat × Nat)) : Statement (.neighbourTest marchBad verdicts wiresBad retrain) := fun s => within_execNeighbourTest (ks := touches (.neighbourTest marchBad verdicts wiresBad retrain)) s (by simp [touches, engineReach, haltReach, loadReach, coldReach])
theorem linkTraining (gddr : List DevTest) (lanesBad : List (Nat × Nat)) (credits : List (Nat × Nat × Nat)) : Statement (.linkTraining gddr lanesBad credits) := fun s => within_execLinkTraining (ks := touches (.linkTraining gddr lanesBad credits)) s (by simp [touches, engineReach, haltReach, loadReach, coldReach])
theorem bootResetWarm (confirm : Nat) : Statement (.bootResetWarm confirm) := fun s => within_execBootResetWarm (ks := touches (.bootResetWarm confirm)) s (by simp [touches, engineReach, haltReach, loadReach, coldReach])
theorem bootResetCold (confirm : Nat) : Statement (.bootResetCold confirm) := fun s => within_execBootResetCold (ks := touches (.bootResetCold confirm)) s (by simp [touches, engineReach, haltReach, loadReach, coldReach])
theorem dieControllerWatchdog (die : Nat) : Statement (.dieControllerWatchdog die) := fun s => within_execDieControllerWatchdog (ks := touches (.dieControllerWatchdog die)) s (by simp [touches, engineReach, haltReach, loadReach, coldReach])
theorem flashWriteComplete (ok0 : Bool) (ok1 : Bool) : Statement (.flashWriteComplete ok0 ok1) := fun s => within_execFlashWriteComplete (ks := touches (.flashWriteComplete ok0 ok1)) s (by simp [touches, engineReach, haltReach, loadReach, coldReach])
theorem licInstallLicence (obj : Option SignedObj) (fates : List Fate) : Statement (.licInstallLicence obj fates) := fun s => within_execLicInstallLicence (ks := touches (.licInstallLicence obj fates)) s (by simp [touches, engineReach, haltReach, loadReach, coldReach])
theorem licInstallFirmware (obj : Option SignedObj) (ok : Bool) (fates : List Fate) : Statement (.licInstallFirmware obj ok fates) := fun s => within_execLicInstallFirmware (ks := touches (.licInstallFirmware obj ok fates)) s (by simp [touches, engineReach, haltReach, loadReach, coldReach])
theorem svcRemoveRepairEntries (obj : Option SignedObj) (die : Nat) (idxs : List Nat) (fates : List Fate) : Statement (.svcRemoveRepairEntries obj die idxs fates) := fun s => within_execSvcRemoveRepairEntries (ks := touches (.svcRemoveRepairEntries obj die idxs fates)) s (by simp [touches, engineReach, haltReach, loadReach, coldReach])
theorem svcClearBlackBox (obj : Option SignedObj) (fates : List Fate) : Statement (.svcClearBlackBox obj fates) := fun s => within_execSvcClearBlackBox (ks := touches (.svcClearBlackBox obj fates)) s (by simp [touches, engineReach, haltReach, loadReach, coldReach])
theorem svcInstallRackKeys (obj : Option SignedObj) (keys : List (Option (List Byte))) (fates : List Fate) : Statement (.svcInstallRackKeys obj keys fates) := fun s => within_execSvcInstallRackKeys (ks := touches (.svcInstallRackKeys obj keys fates)) s (by simp [touches, engineReach, haltReach, loadReach, coldReach])
theorem svcRemoveLicence (obj : Option SignedObj) (lseq : Nat) (fates : List Fate) : Statement (.svcRemoveLicence obj lseq fates) := fun s => within_execSvcRemoveLicence (ks := touches (.svcRemoveLicence obj lseq fates)) s (by simp [touches, engineReach, haltReach, loadReach, coldReach])
theorem svcReplaceConfig (obj : Option SignedObj) (cfg : List Byte) (fates : List Fate) : Statement (.svcReplaceConfig obj cfg fates) := fun s => within_execSvcReplaceConfig (ks := touches (.svcReplaceConfig obj cfg fates)) s (by simp [touches, engineReach, haltReach, loadReach, coldReach])
theorem svcSelectFirmwareSlot (obj : Option SignedObj) (slot : Nat) (fates : List Fate) : Statement (.svcSelectFirmwareSlot obj slot fates) := fun s => within_execSvcSelectFirmwareSlot (ks := touches (.svcSelectFirmwareSlot obj slot fates)) s (by simp [touches, engineReach, haltReach, loadReach, coldReach])
theorem svcRaiseMinSvn (obj : Option SignedObj) (fates : List Fate) : Statement (.svcRaiseMinSvn obj fates) := fun s => within_execSvcRaiseMinSvn (ks := touches (.svcRaiseMinSvn obj fates)) s (by simp [touches, engineReach, haltReach, loadReach, coldReach])
theorem tapInstruction (die : Nat) (t : TapInstr) : Statement (.tapInstruction die t) := fun s => within_execTapInstruction (ks := touches (.tapInstruction die t)) s (by simp [touches, engineReach, haltReach, loadReach, coldReach])
theorem streamedRowPresent (c : Nat) (upset : Option (Nat × Int)) : Statement (.streamedRowPresent c upset) := fun s => within_execStreamedRowPresent (ks := touches (.streamedRowPresent c upset)) s (by simp [touches, engineReach, haltReach, loadReach, coldReach])
theorem highWordReadPair (req : Req) (ga : GAddr) : Statement (.highWordReadPair req ga) := fun s => within_execHighWordReadPair (ks := touches (.highWordReadPair req ga)) s (by simp [touches, engineReach, haltReach, loadReach, coldReach])
theorem pcieLinkRecovery (port : Nat) (speed : Nat) (width : Nat) : Statement (.pcieLinkRecovery port speed width) := fun s => within_execPcieLinkRecovery (ks := touches (.pcieLinkRecovery port speed width)) s (by simp [touches, engineReach, haltReach, loadReach, coldReach])
theorem pcieConfigRequest (port : Nat) (r : CfgReg) (v : Option Nat) : Statement (.pcieConfigRequest port r v) := fun s => within_execPcieConfigRequest (ks := touches (.pcieConfigRequest port r v)) s (by simp [touches, engineReach, haltReach, loadReach, coldReach])
theorem malformedFrameReceive (die : Nat) (port : Nat) (kind : BadFrame) : Statement (.malformedFrameReceive die port kind) := fun s => within_execMalformedFrameReceive (ks := touches (.malformedFrameReceive die port kind)) s (by simp [touches, engineReach, haltReach, loadReach, coldReach])
theorem rackFrameIgnored (f : RackFrame) : Statement (.rackFrameIgnored f) := fun s => within_execRackFrameIgnored (ks := touches (.rackFrameIgnored f)) s (by simp [touches, engineReach, haltReach, loadReach, coldReach])
theorem quickRemapComplete : Statement .quickRemapComplete := fun s => within_execQuickRemapComplete (ks := touches .quickRemapComplete) s (by simp [touches, engineReach, haltReach, loadReach, coldReach])
theorem panelHalt : Statement .panelHalt := fun s => within_execPanelHalt (ks := touches .panelHalt) s (by simp [touches, engineReach, haltReach, loadReach, coldReach])
theorem loadStart (fates : List Fate) : Statement (.loadStart fates) := fun s => within_execLoadStart (ks := touches (.loadStart fates)) s (by simp [touches, engineReach, haltReach, loadReach, coldReach])
theorem loadPrepare : Statement .loadPrepare := fun s => within_execLoadPrepare (ks := touches .loadPrepare) s (by simp [touches, engineReach, haltReach, loadReach, coldReach])
theorem loadRoundTimeout : Statement .loadRoundTimeout := fun s => within_execLoadRoundTimeout (ks := touches .loadRoundTimeout) s (by simp [touches, engineReach, haltReach, loadReach, coldReach])
theorem loadInitialise : Statement .loadInitialise := fun s => within_execLoadInitialise (ks := touches .loadInitialise) s (by simp [touches, engineReach, haltReach, loadReach, coldReach])
theorem loadAbort : Statement .loadAbort := fun s => within_execLoadAbort (ks := touches .loadAbort) s (by simp [touches, engineReach, haltReach, loadReach, coldReach])
theorem inputLoss : Statement .inputLoss := fun s => within_execInputLoss (ks := touches .inputLoss) s (by simp [touches, engineReach, haltReach, loadReach, coldReach])
theorem inputColdStartCondition : Statement .inputColdStartCondition := fun s => within_execInputColdStartCondition (ks := touches .inputColdStartCondition) s (by simp [touches, engineReach, haltReach, loadReach, coldReach])
theorem bladeRestore : Statement .bladeRestore := fun s => within_execBladeRestore (ks := touches .bladeRestore) s (by simp [touches, engineReach, haltReach, loadReach, coldReach])
theorem spareConverterFail : Statement .spareConverterFail := fun s => within_execSpareConverterFail (ks := touches .spareConverterFail) s (by simp [touches, engineReach, haltReach, loadReach, coldReach])
theorem bandControlStep : Statement .bandControlStep := fun s => within_execBandControlStep (ks := touches .bandControlStep) s (by simp [touches, engineReach, haltReach, loadReach, coldReach])
theorem bandModeChange : Statement .bandModeChange := fun s => within_execBandModeChange (ks := touches .bandModeChange) s (by simp [touches, engineReach, haltReach, loadReach, coldReach])
theorem rampTick : Statement .rampTick := fun s => within_execRampTick (ks := touches .rampTick) s (by simp [touches, engineReach, haltReach, loadReach, coldReach])
theorem statusFrameSend : Statement .statusFrameSend := fun s => within_execStatusFrameSend (ks := touches .statusFrameSend) s (by simp [touches, engineReach, haltReach, loadReach, coldReach])
theorem orphanEnter : Statement .orphanEnter := fun s => within_execOrphanEnter (ks := touches .orphanEnter) s (by simp [touches, engineReach, haltReach, loadReach, coldReach])
theorem canBusOff : Statement .canBusOff := fun s => within_execCanBusOff (ks := touches .canBusOff) s (by simp [touches, engineReach, haltReach, loadReach, coldReach])
theorem coolantStop : Statement .coolantStop := fun s => within_execCoolantStop (ks := touches .coolantStop) s (by simp [touches, engineReach, haltReach, loadReach, coldReach])
theorem coolantAssert : Statement .coolantAssert := fun s => within_execCoolantAssert (ks := touches .coolantAssert) s (by simp [touches, engineReach, haltReach, loadReach, coldReach])
theorem bandRestart : Statement .bandRestart := fun s => within_execBandRestart (ks := touches .bandRestart) s (by simp [touches, engineReach, haltReach, loadReach, coldReach])
theorem ppsEdge (ref : Bool) : Statement (.ppsEdge ref) := fun s => within_execPpsEdge (ks := touches (.ppsEdge ref)) s (by simp [touches, engineReach, haltReach, loadReach, coldReach])
theorem refLoss : Statement .refLoss := fun s => within_execRefLoss (ks := touches .refLoss) s (by simp [touches, engineReach, haltReach, loadReach, coldReach])
theorem holdoverEnter : Statement .holdoverEnter := fun s => within_execHoldoverEnter (ks := touches .holdoverEnter) s (by simp [touches, engineReach, haltReach, loadReach, coldReach])
theorem unsyncEnter : Statement .unsyncEnter := fun s => within_execUnsyncEnter (ks := touches .unsyncEnter) s (by simp [touches, engineReach, haltReach, loadReach, coldReach])
theorem throttleApply : Statement .throttleApply := fun s => within_execThrottleApply (ks := touches .throttleApply) s (by simp [touches, engineReach, haltReach, loadReach, coldReach])
theorem errorRecordArrive : Statement .errorRecordArrive := fun s => within_execErrorRecordArrive (ks := touches .errorRecordArrive) s (by simp [touches, engineReach, haltReach, loadReach, coldReach])
theorem bboxCommit (ok0 : Bool) (ok1 : Bool) : Statement (.bboxCommit ok0 ok1) := fun s => within_execBboxCommit (ks := touches (.bboxCommit ok0 ok1)) s (by simp [touches, engineReach, haltReach, loadReach, coldReach])
theorem udpDatagramSend : Statement .udpDatagramSend := fun s => within_execUdpDatagramSend (ks := touches .udpDatagramSend) s (by simp [touches, engineReach, haltReach, loadReach, coldReach])
theorem mgmtLinkUp : Statement .mgmtLinkUp := fun s => within_execMgmtLinkUp (ks := touches .mgmtLinkUp) s (by simp [touches, engineReach, haltReach, loadReach, coldReach])
theorem coverageCheck : Statement .coverageCheck := fun s => within_execCoverageCheck (ks := touches .coverageCheck) s (by simp [touches, engineReach, haltReach, loadReach, coldReach])
theorem startupCoolantTimeout : Statement .startupCoolantTimeout := fun s => within_execStartupCoolantTimeout (ks := touches .startupCoolantTimeout) s (by simp [touches, engineReach, haltReach, loadReach, coldReach])
theorem primeAll : Statement .primeAll := fun s => within_execPrimeAll (ks := touches .primeAll) s (by simp [touches, engineReach, haltReach, loadReach, coldReach])
theorem fuseMergePublish (faults : List (Nat × Nat × Nat)) : Statement (.fuseMergePublish faults) := fun s => within_execFuseMergePublish (ks := touches (.fuseMergePublish faults)) s (by simp [touches, engineReach, haltReach, loadReach, coldReach])
theorem gddrPriming : Statement .gddrPriming := fun s => within_execGddrPriming (ks := touches .gddrPriming) s (by simp [touches, engineReach, haltReach, loadReach, coldReach])
theorem bootLockReady : Statement .bootLockReady := fun s => within_execBootLockReady (ks := touches .bootLockReady) s (by simp [touches, engineReach, haltReach, loadReach, coldReach])
theorem phaseOverrun : Statement .phaseOverrun := fun s => within_execPhaseOverrun (ks := touches .phaseOverrun) s (by simp [touches, engineReach, haltReach, loadReach, coldReach])
theorem warmRestart : Statement .warmRestart := fun s => within_execWarmRestart (ks := touches .warmRestart) s (by simp [touches, engineReach, haltReach, loadReach, coldReach])
theorem heartbeatSend : Statement .heartbeatSend := fun s => within_execHeartbeatSend (ks := touches .heartbeatSend) s (by simp [touches, engineReach, haltReach, loadReach, coldReach])
theorem heartbeatLossFailover : Statement .heartbeatLossFailover := fun s => within_execHeartbeatLossFailover (ks := touches .heartbeatLossFailover) s (by simp [touches, engineReach, haltReach, loadReach, coldReach])
theorem licAttest : Statement .licAttest := fun s => within_execLicAttest (ks := touches .licAttest) s (by simp [touches, engineReach, haltReach, loadReach, coldReach])
theorem licReadCertificate : Statement .licReadCertificate := fun s => within_execLicReadCertificate (ks := touches .licReadCertificate) s (by simp [touches, engineReach, haltReach, loadReach, coldReach])
theorem w4RateApply : Statement .w4RateApply := fun s => within_execW4RateApply (ks := touches .w4RateApply) s (by simp [touches, engineReach, haltReach, loadReach, coldReach])
theorem moduleReset : Statement .moduleReset := fun s => within_execModuleReset (ks := touches .moduleReset) s (by simp [touches, engineReach, haltReach, loadReach, coldReach])
theorem moduleResetRelease : Statement .moduleResetRelease := fun s => within_execModuleResetRelease (ks := touches .moduleResetRelease) s (by simp [touches, engineReach, haltReach, loadReach, coldReach])
theorem mgmtLinkDown : Statement .mgmtLinkDown := fun s => within_execMgmtLinkDown (ks := touches .mgmtLinkDown) s (by simp [touches, engineReach, haltReach, loadReach, coldReach])

end Sys2Proof.Laws.Reach
end

