-- ==== Sys2Proof/Laws/State.lean ====
section
/-! SUPPORT. What each named update of the state leaves alone: one lemma per update and field, and per update and reading. -/

set_option Elab.async false
set_option linter.all false

namespace Sys2Proof.Laws

open Sys2Proof Sys2Proof.Machine

variable (s : State)

/-- Storing bytes changes memory only. -/
theorem setBytes_eq (k : Nat) (l : List Byte) : State.setBytes s k l = { s with mem := (State.setBytes s k l).mem } := by
  induction l generalizing s k with
  | nil => rfl
  | cons b t ih => unfold State.setBytes; rw [ih]; rfl

@[simp] theorem setByte_part (k : Nat) (b : Byte) : (s.setByte k b).part = s.part := (rfl)
@[simp] theorem setByte_slot (k : Nat) (b : Byte) : (s.setByte k b).slot = s.slot := (rfl)
@[simp] theorem setByte_regs (k : Nat) (b : Byte) : (s.setByte k b).regs = s.regs := (rfl)
@[simp] theorem setByte_wrote (k : Nat) (b : Byte) : (s.setByte k b).wrote = s.wrote := (rfl)
@[simp] theorem setByte_w1cSet (k : Nat) (b : Byte) : (s.setByte k b).w1cSet = s.w1cSet := (rfl)
@[simp] theorem setByte_cells (k : Nat) (b : Byte) : (s.setByte k b).cells = s.cells := (rfl)
@[simp] theorem setByte_regions (k : Nat) (b : Byte) : (s.setByte k b).regions = s.regions := (rfl)
@[simp] theorem setByte_dies (k : Nat) (b : Byte) : (s.setByte k b).dies = s.dies := (rfl)
@[simp] theorem setByte_mcs (k : Nat) (b : Byte) : (s.setByte k b).mcs = s.mcs := (rfl)
@[simp] theorem setByte_pend13 (k : Nat) (b : Byte) : (s.setByte k b).pend13 = s.pend13 := (rfl)
@[simp] theorem setByte_resp (k : Nat) (b : Byte) : (s.setByte k b).resp = s.resp := (rfl)
@[simp] theorem setByte_net (k : Nat) (b : Byte) : (s.setByte k b).net = s.net := (rfl)
@[simp] theorem setByte_panels (k : Nat) (b : Byte) : (s.setByte k b).panels = s.panels := (rfl)
@[simp] theorem setByte_jobs (k : Nat) (b : Byte) : (s.setByte k b).jobs = s.jobs := (rfl)
@[simp] theorem setByte_leftRun (k : Nat) (b : Byte) : (s.setByte k b).leftRun = s.leftRun := (rfl)
@[simp] theorem setByte_load (k : Nat) (b : Byte) : (s.setByte k b).load = s.load := (rfl)
@[simp] theorem setByte_ctxs (k : Nat) (b : Byte) : (s.setByte k b).ctxs = s.ctxs := (rfl)
@[simp] theorem setByte_tags (k : Nat) (b : Byte) : (s.setByte k b).tags = s.tags := (rfl)
@[simp] theorem setByte_fabQ (k : Nat) (b : Byte) : (s.setByte k b).fabQ = s.fabQ := (rfl)
@[simp] theorem setByte_fabWait (k : Nat) (b : Byte) : (s.setByte k b).fabWait = s.fabWait := (rfl)
@[simp] theorem setByte_fports (k : Nat) (b : Byte) : (s.setByte k b).fports = s.fports := (rfl)
@[simp] theorem setByte_rings (k : Nat) (b : Byte) : (s.setByte k b).rings = s.rings := (rfl)
@[simp] theorem setByte_hports (k : Nat) (b : Byte) : (s.setByte k b).hports = s.hports := (rfl)
@[simp] theorem setByte_outReads (k : Nat) (b : Byte) : (s.setByte k b).outReads = s.outReads := (rfl)
@[simp] theorem setByte_nextId (k : Nat) (b : Byte) : (s.setByte k b).nextId = s.nextId := (rfl)
@[simp] theorem setByte_band (k : Nat) (b : Byte) : (s.setByte k b).band = s.band := (rfl)
@[simp] theorem setByte_time (k : Nat) (b : Byte) : (s.setByte k b).time = s.time := (rfl)
@[simp] theorem setByte_boot (k : Nat) (b : Byte) : (s.setByte k b).boot = s.boot := (rfl)
@[simp] theorem setByte_flash (k : Nat) (b : Byte) : (s.setByte k b).flash = s.flash := (rfl)
@[simp] theorem setByte_err (k : Nat) (b : Byte) : (s.setByte k b).err = s.err := (rfl)
@[simp] theorem setByte_tap (k : Nat) (b : Byte) : (s.setByte k b).tap = s.tap := (rfl)
@[simp] theorem setByte_out (k : Nat) (b : Byte) : (s.setByte k b).out = s.out := (rfl)
@[simp] theorem setByte_fates (k : Nat) (b : Byte) : (s.setByte k b).fates = s.fates := (rfl)
@[simp] theorem setByte_free (k : Nat) (b : Byte) : (s.setByte k b).free = s.free := (rfl)
@[simp] theorem setByte_pending (k : Nat) (b : Byte) : (s.setByte k b).pending = s.pending := (rfl)
@[simp] theorem setByte_reg (k : Nat) (b : Byte) (k' : Nat) : (s.setByte k b).reg k' = s.reg k' := (rfl)
@[simp] theorem setByte_fld (k : Nat) (b : Byte) (k' : Nat) (lo' : Nat) (w' : Nat) : (s.setByte k b).fld k' lo' w' = s.fld k' lo' w' := (rfl)
@[simp] theorem setByte_cell (k : Nat) (b : Byte) (c' : Nat) : (s.setByte k b).cell c' = s.cell c' := (rfl)
@[simp] theorem setByte_mxe (k : Nat) (b : Byte) (c' : Nat) : (s.setByte k b).mxe c' = s.mxe c' := (rfl)
@[simp] theorem setByte_core (k : Nat) (b : Byte) (c' : Nat) (k' : CoreSel) : (s.setByte k b).core c' k' = s.core c' k' := (rfl)
@[simp] theorem setByte_region (k : Nat) (b : Byte) (r' : Nat) : (s.setByte k b).region r' = s.region r' := (rfl)
@[simp] theorem setByte_die (k : Nat) (b : Byte) (d' : Nat) : (s.setByte k b).die d' = s.die d' := (rfl)
@[simp] theorem setByte_mc (k : Nat) (b : Byte) (d' : Nat) (n' : Nat) : (s.setByte k b).mc d' n' = s.mc d' n' := (rfl)
@[simp] theorem setByte_ctx (k : Nat) (b : Byte) (q' : Nat) : (s.setByte k b).ctx q' = s.ctx q' := (rfl)
@[simp] theorem setByte_tag (k : Nat) (b : Byte) (d' : Nat) (t' : Nat) : (s.setByte k b).tag d' t' = s.tag d' t' := (rfl)
@[simp] theorem setByte_fport (k : Nat) (b : Byte) (d' : Nat) (p' : Nat) : (s.setByte k b).fport d' p' = s.fport d' p' := (rfl)
@[simp] theorem setByte_ring (k : Nat) (b : Byte) (p' : Nat) (n' : Nat) : (s.setByte k b).ring p' n' = s.ring p' n' := (rfl)
@[simp] theorem setByte_hport (k : Nat) (b : Byte) (p' : Nat) : (s.setByte k b).hport p' = s.hport p' := (rfl)
@[simp] theorem setByte_now (k : Nat) (b : Byte) : (s.setByte k b).now = s.now := (rfl)
@[simp] theorem setByte_facility (k : Nat) (b : Byte) : (s.setByte k b).facility = s.facility := (rfl)
@[simp] theorem setByte_job (k : Nat) (b : Byte) (id' : Nat) : (s.setByte k b).job? id' = s.job? id' := (rfl)
@[simp] theorem setByte_logicalOf (k : Nat) (b : Byte) (c' : Nat) : (s.setByte k b).logicalOf c' = s.logicalOf c' := (rfl)
@[simp] theorem setByte_physicalOf (k : Nat) (b : Byte) (x' : Nat) (y' : Nat) : (s.setByte k b).physicalOf x' y' = s.physicalOf x' y' := (rfl)
@[simp] theorem setByte_panelOf (k : Nat) (b : Byte) (c' : Nat) : (s.setByte k b).panelOf c' = s.panelOf c' := (rfl)
@[simp] theorem setByte_jobOf (k : Nat) (b : Byte) (c' : Nat) : (s.setByte k b).jobOf c' = s.jobOf c' := (rfl)
@[simp] theorem setByte_isHole (k : Nat) (b : Byte) (c' : Nat) : (s.setByte k b).isHole c' = s.isHole c' := (rfl)
@[simp] theorem setByte_target (k : Nat) (b : Byte) (ga' : Nat) : (s.setByte k b).target ga' = s.target ga' := (rfl)

@[simp] theorem setBytes_part (k : Nat) (l : List Byte) : (s.setBytes k l).part = s.part := by rw [setBytes_eq]
@[simp] theorem setBytes_slot (k : Nat) (l : List Byte) : (s.setBytes k l).slot = s.slot := by rw [setBytes_eq]
@[simp] theorem setBytes_regs (k : Nat) (l : List Byte) : (s.setBytes k l).regs = s.regs := by rw [setBytes_eq]
@[simp] theorem setBytes_wrote (k : Nat) (l : List Byte) : (s.setBytes k l).wrote = s.wrote := by rw [setBytes_eq]
@[simp] theorem setBytes_w1cSet (k : Nat) (l : List Byte) : (s.setBytes k l).w1cSet = s.w1cSet := by rw [setBytes_eq]
@[simp] theorem setBytes_cells (k : Nat) (l : List Byte) : (s.setBytes k l).cells = s.cells := by rw [setBytes_eq]
@[simp] theorem setBytes_regions (k : Nat) (l : List Byte) : (s.setBytes k l).regions = s.regions := by rw [setBytes_eq]
@[simp] theorem setBytes_dies (k : Nat) (l : List Byte) : (s.setBytes k l).dies = s.dies := by rw [setBytes_eq]
@[simp] theorem setBytes_mcs (k : Nat) (l : List Byte) : (s.setBytes k l).mcs = s.mcs := by rw [setBytes_eq]
@[simp] theorem setBytes_pend13 (k : Nat) (l : List Byte) : (s.setBytes k l).pend13 = s.pend13 := by rw [setBytes_eq]
@[simp] theorem setBytes_resp (k : Nat) (l : List Byte) : (s.setBytes k l).resp = s.resp := by rw [setBytes_eq]
@[simp] theorem setBytes_net (k : Nat) (l : List Byte) : (s.setBytes k l).net = s.net := by rw [setBytes_eq]
@[simp] theorem setBytes_panels (k : Nat) (l : List Byte) : (s.setBytes k l).panels = s.panels := by rw [setBytes_eq]
@[simp] theorem setBytes_jobs (k : Nat) (l : List Byte) : (s.setBytes k l).jobs = s.jobs := by rw [setBytes_eq]
@[simp] theorem setBytes_leftRun (k : Nat) (l : List Byte) : (s.setBytes k l).leftRun = s.leftRun := by rw [setBytes_eq]
@[simp] theorem setBytes_load (k : Nat) (l : List Byte) : (s.setBytes k l).load = s.load := by rw [setBytes_eq]
@[simp] theorem setBytes_ctxs (k : Nat) (l : List Byte) : (s.setBytes k l).ctxs = s.ctxs := by rw [setBytes_eq]
@[simp] theorem setBytes_tags (k : Nat) (l : List Byte) : (s.setBytes k l).tags = s.tags := by rw [setBytes_eq]
@[simp] theorem setBytes_fabQ (k : Nat) (l : List Byte) : (s.setBytes k l).fabQ = s.fabQ := by rw [setBytes_eq]
@[simp] theorem setBytes_fabWait (k : Nat) (l : List Byte) : (s.setBytes k l).fabWait = s.fabWait := by rw [setBytes_eq]
@[simp] theorem setBytes_fports (k : Nat) (l : List Byte) : (s.setBytes k l).fports = s.fports := by rw [setBytes_eq]
@[simp] theorem setBytes_rings (k : Nat) (l : List Byte) : (s.setBytes k l).rings = s.rings := by rw [setBytes_eq]
@[simp] theorem setBytes_hports (k : Nat) (l : List Byte) : (s.setBytes k l).hports = s.hports := by rw [setBytes_eq]
@[simp] theorem setBytes_outReads (k : Nat) (l : List Byte) : (s.setBytes k l).outReads = s.outReads := by rw [setBytes_eq]
@[simp] theorem setBytes_nextId (k : Nat) (l : List Byte) : (s.setBytes k l).nextId = s.nextId := by rw [setBytes_eq]
@[simp] theorem setBytes_band (k : Nat) (l : List Byte) : (s.setBytes k l).band = s.band := by rw [setBytes_eq]
@[simp] theorem setBytes_time (k : Nat) (l : List Byte) : (s.setBytes k l).time = s.time := by rw [setBytes_eq]
@[simp] theorem setBytes_boot (k : Nat) (l : List Byte) : (s.setBytes k l).boot = s.boot := by rw [setBytes_eq]
@[simp] theorem setBytes_flash (k : Nat) (l : List Byte) : (s.setBytes k l).flash = s.flash := by rw [setBytes_eq]
@[simp] theorem setBytes_err (k : Nat) (l : List Byte) : (s.setBytes k l).err = s.err := by rw [setBytes_eq]
@[simp] theorem setBytes_tap (k : Nat) (l : List Byte) : (s.setBytes k l).tap = s.tap := by rw [setBytes_eq]
@[simp] theorem setBytes_out (k : Nat) (l : List Byte) : (s.setBytes k l).out = s.out := by rw [setBytes_eq]
@[simp] theorem setBytes_fates (k : Nat) (l : List Byte) : (s.setBytes k l).fates = s.fates := by rw [setBytes_eq]
@[simp] theorem setBytes_free (k : Nat) (l : List Byte) : (s.setBytes k l).free = s.free := by rw [setBytes_eq]
@[simp] theorem setBytes_pending (k : Nat) (l : List Byte) : (s.setBytes k l).pending = s.pending := by rw [setBytes_eq]
@[simp] theorem setBytes_reg (k : Nat) (l : List Byte) (k' : Nat) : (s.setBytes k l).reg k' = s.reg k' := by rw [setBytes_eq]; rfl
@[simp] theorem setBytes_fld (k : Nat) (l : List Byte) (k' : Nat) (lo' : Nat) (w' : Nat) : (s.setBytes k l).fld k' lo' w' = s.fld k' lo' w' := by rw [setBytes_eq]; rfl
@[simp] theorem setBytes_cell (k : Nat) (l : List Byte) (c' : Nat) : (s.setBytes k l).cell c' = s.cell c' := by rw [setBytes_eq]; rfl
@[simp] theorem setBytes_mxe (k : Nat) (l : List Byte) (c' : Nat) : (s.setBytes k l).mxe c' = s.mxe c' := by rw [setBytes_eq]; rfl
@[simp] theorem setBytes_core (k : Nat) (l : List Byte) (c' : Nat) (k' : CoreSel) : (s.setBytes k l).core c' k' = s.core c' k' := by rw [setBytes_eq]; rfl
@[simp] theorem setBytes_region (k : Nat) (l : List Byte) (r' : Nat) : (s.setBytes k l).region r' = s.region r' := by rw [setBytes_eq]; rfl
@[simp] theorem setBytes_die (k : Nat) (l : List Byte) (d' : Nat) : (s.setBytes k l).die d' = s.die d' := by rw [setBytes_eq]; rfl
@[simp] theorem setBytes_mc (k : Nat) (l : List Byte) (d' : Nat) (n' : Nat) : (s.setBytes k l).mc d' n' = s.mc d' n' := by rw [setBytes_eq]; rfl
@[simp] theorem setBytes_ctx (k : Nat) (l : List Byte) (q' : Nat) : (s.setBytes k l).ctx q' = s.ctx q' := by rw [setBytes_eq]; rfl
@[simp] theorem setBytes_tag (k : Nat) (l : List Byte) (d' : Nat) (t' : Nat) : (s.setBytes k l).tag d' t' = s.tag d' t' := by rw [setBytes_eq]; rfl
@[simp] theorem setBytes_fport (k : Nat) (l : List Byte) (d' : Nat) (p' : Nat) : (s.setBytes k l).fport d' p' = s.fport d' p' := by rw [setBytes_eq]; rfl
@[simp] theorem setBytes_ring (k : Nat) (l : List Byte) (p' : Nat) (n' : Nat) : (s.setBytes k l).ring p' n' = s.ring p' n' := by rw [setBytes_eq]; rfl
@[simp] theorem setBytes_hport (k : Nat) (l : List Byte) (p' : Nat) : (s.setBytes k l).hport p' = s.hport p' := by rw [setBytes_eq]; rfl
@[simp] theorem setBytes_now (k : Nat) (l : List Byte) : (s.setBytes k l).now = s.now := by rw [setBytes_eq]; rfl
@[simp] theorem setBytes_facility (k : Nat) (l : List Byte) : (s.setBytes k l).facility = s.facility := by rw [setBytes_eq]; rfl
@[simp] theorem setBytes_job (k : Nat) (l : List Byte) (id' : Nat) : (s.setBytes k l).job? id' = s.job? id' := by rw [setBytes_eq]; rfl
@[simp] theorem setBytes_logicalOf (k : Nat) (l : List Byte) (c' : Nat) : (s.setBytes k l).logicalOf c' = s.logicalOf c' := by rw [setBytes_eq]; rfl
@[simp] theorem setBytes_physicalOf (k : Nat) (l : List Byte) (x' : Nat) (y' : Nat) : (s.setBytes k l).physicalOf x' y' = s.physicalOf x' y' := by rw [setBytes_eq]; rfl
@[simp] theorem setBytes_panelOf (k : Nat) (l : List Byte) (c' : Nat) : (s.setBytes k l).panelOf c' = s.panelOf c' := by rw [setBytes_eq]; rfl
@[simp] theorem setBytes_jobOf (k : Nat) (l : List Byte) (c' : Nat) : (s.setBytes k l).jobOf c' = s.jobOf c' := by rw [setBytes_eq]; rfl
@[simp] theorem setBytes_isHole (k : Nat) (l : List Byte) (c' : Nat) : (s.setBytes k l).isHole c' = s.isHole c' := by rw [setBytes_eq]; rfl
@[simp] theorem setBytes_target (k : Nat) (l : List Byte) (ga' : Nat) : (s.setBytes k l).target ga' = s.target ga' := by rw [setBytes_eq]; rfl

@[simp] theorem setReg_part (k : Nat) (v : DWord) : (s.setReg k v).part = s.part := (rfl)
@[simp] theorem setReg_slot (k : Nat) (v : DWord) : (s.setReg k v).slot = s.slot := (rfl)
@[simp] theorem setReg_wrote (k : Nat) (v : DWord) : (s.setReg k v).wrote = s.wrote := (rfl)
@[simp] theorem setReg_w1cSet (k : Nat) (v : DWord) : (s.setReg k v).w1cSet = s.w1cSet := (rfl)
@[simp] theorem setReg_mem (k : Nat) (v : DWord) : (s.setReg k v).mem = s.mem := (rfl)
@[simp] theorem setReg_cells (k : Nat) (v : DWord) : (s.setReg k v).cells = s.cells := (rfl)
@[simp] theorem setReg_regions (k : Nat) (v : DWord) : (s.setReg k v).regions = s.regions := (rfl)
@[simp] theorem setReg_dies (k : Nat) (v : DWord) : (s.setReg k v).dies = s.dies := (rfl)
@[simp] theorem setReg_mcs (k : Nat) (v : DWord) : (s.setReg k v).mcs = s.mcs := (rfl)
@[simp] theorem setReg_pend13 (k : Nat) (v : DWord) : (s.setReg k v).pend13 = s.pend13 := (rfl)
@[simp] theorem setReg_resp (k : Nat) (v : DWord) : (s.setReg k v).resp = s.resp := (rfl)
@[simp] theorem setReg_net (k : Nat) (v : DWord) : (s.setReg k v).net = s.net := (rfl)
@[simp] theorem setReg_panels (k : Nat) (v : DWord) : (s.setReg k v).panels = s.panels := (rfl)
@[simp] theorem setReg_jobs (k : Nat) (v : DWord) : (s.setReg k v).jobs = s.jobs := (rfl)
@[simp] theorem setReg_leftRun (k : Nat) (v : DWord) : (s.setReg k v).leftRun = s.leftRun := (rfl)
@[simp] theorem setReg_load (k : Nat) (v : DWord) : (s.setReg k v).load = s.load := (rfl)
@[simp] theorem setReg_ctxs (k : Nat) (v : DWord) : (s.setReg k v).ctxs = s.ctxs := (rfl)
@[simp] theorem setReg_tags (k : Nat) (v : DWord) : (s.setReg k v).tags = s.tags := (rfl)
@[simp] theorem setReg_fabQ (k : Nat) (v : DWord) : (s.setReg k v).fabQ = s.fabQ := (rfl)
@[simp] theorem setReg_fabWait (k : Nat) (v : DWord) : (s.setReg k v).fabWait = s.fabWait := (rfl)
@[simp] theorem setReg_fports (k : Nat) (v : DWord) : (s.setReg k v).fports = s.fports := (rfl)
@[simp] theorem setReg_rings (k : Nat) (v : DWord) : (s.setReg k v).rings = s.rings := (rfl)
@[simp] theorem setReg_hports (k : Nat) (v : DWord) : (s.setReg k v).hports = s.hports := (rfl)
@[simp] theorem setReg_outReads (k : Nat) (v : DWord) : (s.setReg k v).outReads = s.outReads := (rfl)
@[simp] theorem setReg_nextId (k : Nat) (v : DWord) : (s.setReg k v).nextId = s.nextId := (rfl)
@[simp] theorem setReg_band (k : Nat) (v : DWord) : (s.setReg k v).band = s.band := (rfl)
@[simp] theorem setReg_time (k : Nat) (v : DWord) : (s.setReg k v).time = s.time := (rfl)
@[simp] theorem setReg_boot (k : Nat) (v : DWord) : (s.setReg k v).boot = s.boot := (rfl)
@[simp] theorem setReg_flash (k : Nat) (v : DWord) : (s.setReg k v).flash = s.flash := (rfl)
@[simp] theorem setReg_err (k : Nat) (v : DWord) : (s.setReg k v).err = s.err := (rfl)
@[simp] theorem setReg_tap (k : Nat) (v : DWord) : (s.setReg k v).tap = s.tap := (rfl)
@[simp] theorem setReg_out (k : Nat) (v : DWord) : (s.setReg k v).out = s.out := (rfl)
@[simp] theorem setReg_fates (k : Nat) (v : DWord) : (s.setReg k v).fates = s.fates := (rfl)
@[simp] theorem setReg_free (k : Nat) (v : DWord) : (s.setReg k v).free = s.free := (rfl)
@[simp] theorem setReg_pending (k : Nat) (v : DWord) : (s.setReg k v).pending = s.pending := (rfl)
@[simp] theorem setReg_byte (k : Nat) (v : DWord) (k' : Nat) : (s.setReg k v).byte k' = s.byte k' := (rfl)
@[simp] theorem setReg_bytes (k : Nat) (v : DWord) (k' : Nat) (n' : Nat) : (s.setReg k v).bytes k' n' = s.bytes k' n' := (rfl)
@[simp] theorem setReg_cell (k : Nat) (v : DWord) (c' : Nat) : (s.setReg k v).cell c' = s.cell c' := (rfl)
@[simp] theorem setReg_mxe (k : Nat) (v : DWord) (c' : Nat) : (s.setReg k v).mxe c' = s.mxe c' := (rfl)
@[simp] theorem setReg_core (k : Nat) (v : DWord) (c' : Nat) (k' : CoreSel) : (s.setReg k v).core c' k' = s.core c' k' := (rfl)
@[simp] theorem setReg_region (k : Nat) (v : DWord) (r' : Nat) : (s.setReg k v).region r' = s.region r' := (rfl)
@[simp] theorem setReg_die (k : Nat) (v : DWord) (d' : Nat) : (s.setReg k v).die d' = s.die d' := (rfl)
@[simp] theorem setReg_mc (k : Nat) (v : DWord) (d' : Nat) (n' : Nat) : (s.setReg k v).mc d' n' = s.mc d' n' := (rfl)
@[simp] theorem setReg_ctx (k : Nat) (v : DWord) (q' : Nat) : (s.setReg k v).ctx q' = s.ctx q' := (rfl)
@[simp] theorem setReg_tag (k : Nat) (v : DWord) (d' : Nat) (t' : Nat) : (s.setReg k v).tag d' t' = s.tag d' t' := (rfl)
@[simp] theorem setReg_fport (k : Nat) (v : DWord) (d' : Nat) (p' : Nat) : (s.setReg k v).fport d' p' = s.fport d' p' := (rfl)
@[simp] theorem setReg_ring (k : Nat) (v : DWord) (p' : Nat) (n' : Nat) : (s.setReg k v).ring p' n' = s.ring p' n' := (rfl)
@[simp] theorem setReg_hport (k : Nat) (v : DWord) (p' : Nat) : (s.setReg k v).hport p' = s.hport p' := (rfl)
@[simp] theorem setReg_now (k : Nat) (v : DWord) : (s.setReg k v).now = s.now := (rfl)
@[simp] theorem setReg_facility (k : Nat) (v : DWord) : (s.setReg k v).facility = s.facility := (rfl)
@[simp] theorem setReg_job (k : Nat) (v : DWord) (id' : Nat) : (s.setReg k v).job? id' = s.job? id' := (rfl)
@[simp] theorem setReg_isHole (k : Nat) (v : DWord) (c' : Nat) : (s.setReg k v).isHole c' = s.isHole c' := (rfl)

@[simp] theorem setFld_part (k : Nat) (lo : Nat) (w : Nat) (v : Nat) : (s.setFld k lo w v).part = s.part := (rfl)
@[simp] theorem setFld_slot (k : Nat) (lo : Nat) (w : Nat) (v : Nat) : (s.setFld k lo w v).slot = s.slot := (rfl)
@[simp] theorem setFld_wrote (k : Nat) (lo : Nat) (w : Nat) (v : Nat) : (s.setFld k lo w v).wrote = s.wrote := (rfl)
@[simp] theorem setFld_w1cSet (k : Nat) (lo : Nat) (w : Nat) (v : Nat) : (s.setFld k lo w v).w1cSet = s.w1cSet := (rfl)
@[simp] theorem setFld_mem (k : Nat) (lo : Nat) (w : Nat) (v : Nat) : (s.setFld k lo w v).mem = s.mem := (rfl)
@[simp] theorem setFld_cells (k : Nat) (lo : Nat) (w : Nat) (v : Nat) : (s.setFld k lo w v).cells = s.cells := (rfl)
@[simp] theorem setFld_regions (k : Nat) (lo : Nat) (w : Nat) (v : Nat) : (s.setFld k lo w v).regions = s.regions := (rfl)
@[simp] theorem setFld_dies (k : Nat) (lo : Nat) (w : Nat) (v : Nat) : (s.setFld k lo w v).dies = s.dies := (rfl)
@[simp] theorem setFld_mcs (k : Nat) (lo : Nat) (w : Nat) (v : Nat) : (s.setFld k lo w v).mcs = s.mcs := (rfl)
@[simp] theorem setFld_pend13 (k : Nat) (lo : Nat) (w : Nat) (v : Nat) : (s.setFld k lo w v).pend13 = s.pend13 := (rfl)
@[simp] theorem setFld_resp (k : Nat) (lo : Nat) (w : Nat) (v : Nat) : (s.setFld k lo w v).resp = s.resp := (rfl)
@[simp] theorem setFld_net (k : Nat) (lo : Nat) (w : Nat) (v : Nat) : (s.setFld k lo w v).net = s.net := (rfl)
@[simp] theorem setFld_panels (k : Nat) (lo : Nat) (w : Nat) (v : Nat) : (s.setFld k lo w v).panels = s.panels := (rfl)
@[simp] theorem setFld_jobs (k : Nat) (lo : Nat) (w : Nat) (v : Nat) : (s.setFld k lo w v).jobs = s.jobs := (rfl)
@[simp] theorem setFld_leftRun (k : Nat) (lo : Nat) (w : Nat) (v : Nat) : (s.setFld k lo w v).leftRun = s.leftRun := (rfl)
@[simp] theorem setFld_load (k : Nat) (lo : Nat) (w : Nat) (v : Nat) : (s.setFld k lo w v).load = s.load := (rfl)
@[simp] theorem setFld_ctxs (k : Nat) (lo : Nat) (w : Nat) (v : Nat) : (s.setFld k lo w v).ctxs = s.ctxs := (rfl)
@[simp] theorem setFld_tags (k : Nat) (lo : Nat) (w : Nat) (v : Nat) : (s.setFld k lo w v).tags = s.tags := (rfl)
@[simp] theorem setFld_fabQ (k : Nat) (lo : Nat) (w : Nat) (v : Nat) : (s.setFld k lo w v).fabQ = s.fabQ := (rfl)
@[simp] theorem setFld_fabWait (k : Nat) (lo : Nat) (w : Nat) (v : Nat) : (s.setFld k lo w v).fabWait = s.fabWait := (rfl)
@[simp] theorem setFld_fports (k : Nat) (lo : Nat) (w : Nat) (v : Nat) : (s.setFld k lo w v).fports = s.fports := (rfl)
@[simp] theorem setFld_rings (k : Nat) (lo : Nat) (w : Nat) (v : Nat) : (s.setFld k lo w v).rings = s.rings := (rfl)
@[simp] theorem setFld_hports (k : Nat) (lo : Nat) (w : Nat) (v : Nat) : (s.setFld k lo w v).hports = s.hports := (rfl)
@[simp] theorem setFld_outReads (k : Nat) (lo : Nat) (w : Nat) (v : Nat) : (s.setFld k lo w v).outReads = s.outReads := (rfl)
@[simp] theorem setFld_nextId (k : Nat) (lo : Nat) (w : Nat) (v : Nat) : (s.setFld k lo w v).nextId = s.nextId := (rfl)
@[simp] theorem setFld_band (k : Nat) (lo : Nat) (w : Nat) (v : Nat) : (s.setFld k lo w v).band = s.band := (rfl)
@[simp] theorem setFld_time (k : Nat) (lo : Nat) (w : Nat) (v : Nat) : (s.setFld k lo w v).time = s.time := (rfl)
@[simp] theorem setFld_boot (k : Nat) (lo : Nat) (w : Nat) (v : Nat) : (s.setFld k lo w v).boot = s.boot := (rfl)
@[simp] theorem setFld_flash (k : Nat) (lo : Nat) (w : Nat) (v : Nat) : (s.setFld k lo w v).flash = s.flash := (rfl)
@[simp] theorem setFld_err (k : Nat) (lo : Nat) (w : Nat) (v : Nat) : (s.setFld k lo w v).err = s.err := (rfl)
@[simp] theorem setFld_tap (k : Nat) (lo : Nat) (w : Nat) (v : Nat) : (s.setFld k lo w v).tap = s.tap := (rfl)
@[simp] theorem setFld_out (k : Nat) (lo : Nat) (w : Nat) (v : Nat) : (s.setFld k lo w v).out = s.out := (rfl)
@[simp] theorem setFld_fates (k : Nat) (lo : Nat) (w : Nat) (v : Nat) : (s.setFld k lo w v).fates = s.fates := (rfl)
@[simp] theorem setFld_free (k : Nat) (lo : Nat) (w : Nat) (v : Nat) : (s.setFld k lo w v).free = s.free := (rfl)
@[simp] theorem setFld_pending (k : Nat) (lo : Nat) (w : Nat) (v : Nat) : (s.setFld k lo w v).pending = s.pending := (rfl)
@[simp] theorem setFld_byte (k : Nat) (lo : Nat) (w : Nat) (v : Nat) (k' : Nat) : (s.setFld k lo w v).byte k' = s.byte k' := (rfl)
@[simp] theorem setFld_bytes (k : Nat) (lo : Nat) (w : Nat) (v : Nat) (k' : Nat) (n' : Nat) : (s.setFld k lo w v).bytes k' n' = s.bytes k' n' := (rfl)
@[simp] theorem setFld_cell (k : Nat) (lo : Nat) (w : Nat) (v : Nat) (c' : Nat) : (s.setFld k lo w v).cell c' = s.cell c' := (rfl)
@[simp] theorem setFld_mxe (k : Nat) (lo : Nat) (w : Nat) (v : Nat) (c' : Nat) : (s.setFld k lo w v).mxe c' = s.mxe c' := (rfl)
@[simp] theorem setFld_core (k : Nat) (lo : Nat) (w : Nat) (v : Nat) (c' : Nat) (k' : CoreSel) : (s.setFld k lo w v).core c' k' = s.core c' k' := (rfl)
@[simp] theorem setFld_region (k : Nat) (lo : Nat) (w : Nat) (v : Nat) (r' : Nat) : (s.setFld k lo w v).region r' = s.region r' := (rfl)
@[simp] theorem setFld_die (k : Nat) (lo : Nat) (w : Nat) (v : Nat) (d' : Nat) : (s.setFld k lo w v).die d' = s.die d' := (rfl)
@[simp] theorem setFld_mc (k : Nat) (lo : Nat) (w : Nat) (v : Nat) (d' : Nat) (n' : Nat) : (s.setFld k lo w v).mc d' n' = s.mc d' n' := (rfl)
@[simp] theorem setFld_ctx (k : Nat) (lo : Nat) (w : Nat) (v : Nat) (q' : Nat) : (s.setFld k lo w v).ctx q' = s.ctx q' := (rfl)
@[simp] theorem setFld_tag (k : Nat) (lo : Nat) (w : Nat) (v : Nat) (d' : Nat) (t' : Nat) : (s.setFld k lo w v).tag d' t' = s.tag d' t' := (rfl)
@[simp] theorem setFld_fport (k : Nat) (lo : Nat) (w : Nat) (v : Nat) (d' : Nat) (p' : Nat) : (s.setFld k lo w v).fport d' p' = s.fport d' p' := (rfl)
@[simp] theorem setFld_ring (k : Nat) (lo : Nat) (w : Nat) (v : Nat) (p' : Nat) (n' : Nat) : (s.setFld k lo w v).ring p' n' = s.ring p' n' := (rfl)
@[simp] theorem setFld_hport (k : Nat) (lo : Nat) (w : Nat) (v : Nat) (p' : Nat) : (s.setFld k lo w v).hport p' = s.hport p' := (rfl)
@[simp] theorem setFld_now (k : Nat) (lo : Nat) (w : Nat) (v : Nat) : (s.setFld k lo w v).now = s.now := (rfl)
@[simp] theorem setFld_facility (k : Nat) (lo : Nat) (w : Nat) (v : Nat) : (s.setFld k lo w v).facility = s.facility := (rfl)
@[simp] theorem setFld_job (k : Nat) (lo : Nat) (w : Nat) (v : Nat) (id' : Nat) : (s.setFld k lo w v).job? id' = s.job? id' := (rfl)
@[simp] theorem setFld_isHole (k : Nat) (lo : Nat) (w : Nat) (v : Nat) (c' : Nat) : (s.setFld k lo w v).isHole c' = s.isHole c' := (rfl)

@[simp] theorem incSat_part (k : Nat) (lo : Nat) (w : Nat) (n : Nat) : (s.incSat k lo w n).part = s.part := (rfl)
@[simp] theorem incSat_slot (k : Nat) (lo : Nat) (w : Nat) (n : Nat) : (s.incSat k lo w n).slot = s.slot := (rfl)
@[simp] theorem incSat_wrote (k : Nat) (lo : Nat) (w : Nat) (n : Nat) : (s.incSat k lo w n).wrote = s.wrote := (rfl)
@[simp] theorem incSat_w1cSet (k : Nat) (lo : Nat) (w : Nat) (n : Nat) : (s.incSat k lo w n).w1cSet = s.w1cSet := (rfl)
@[simp] theorem incSat_mem (k : Nat) (lo : Nat) (w : Nat) (n : Nat) : (s.incSat k lo w n).mem = s.mem := (rfl)
@[simp] theorem incSat_cells (k : Nat) (lo : Nat) (w : Nat) (n : Nat) : (s.incSat k lo w n).cells = s.cells := (rfl)
@[simp] theorem incSat_regions (k : Nat) (lo : Nat) (w : Nat) (n : Nat) : (s.incSat k lo w n).regions = s.regions := (rfl)
@[simp] theorem incSat_dies (k : Nat) (lo : Nat) (w : Nat) (n : Nat) : (s.incSat k lo w n).dies = s.dies := (rfl)
@[simp] theorem incSat_mcs (k : Nat) (lo : Nat) (w : Nat) (n : Nat) : (s.incSat k lo w n).mcs = s.mcs := (rfl)
@[simp] theorem incSat_pend13 (k : Nat) (lo : Nat) (w : Nat) (n : Nat) : (s.incSat k lo w n).pend13 = s.pend13 := (rfl)
@[simp] theorem incSat_resp (k : Nat) (lo : Nat) (w : Nat) (n : Nat) : (s.incSat k lo w n).resp = s.resp := (rfl)
@[simp] theorem incSat_net (k : Nat) (lo : Nat) (w : Nat) (n : Nat) : (s.incSat k lo w n).net = s.net := (rfl)
@[simp] theorem incSat_panels (k : Nat) (lo : Nat) (w : Nat) (n : Nat) : (s.incSat k lo w n).panels = s.panels := (rfl)
@[simp] theorem incSat_jobs (k : Nat) (lo : Nat) (w : Nat) (n : Nat) : (s.incSat k lo w n).jobs = s.jobs := (rfl)
@[simp] theorem incSat_leftRun (k : Nat) (lo : Nat) (w : Nat) (n : Nat) : (s.incSat k lo w n).leftRun = s.leftRun := (rfl)
@[simp] theorem incSat_load (k : Nat) (lo : Nat) (w : Nat) (n : Nat) : (s.incSat k lo w n).load = s.load := (rfl)
@[simp] theorem incSat_ctxs (k : Nat) (lo : Nat) (w : Nat) (n : Nat) : (s.incSat k lo w n).ctxs = s.ctxs := (rfl)
@[simp] theorem incSat_tags (k : Nat) (lo : Nat) (w : Nat) (n : Nat) : (s.incSat k lo w n).tags = s.tags := (rfl)
@[simp] theorem incSat_fabQ (k : Nat) (lo : Nat) (w : Nat) (n : Nat) : (s.incSat k lo w n).fabQ = s.fabQ := (rfl)
@[simp] theorem incSat_fabWait (k : Nat) (lo : Nat) (w : Nat) (n : Nat) : (s.incSat k lo w n).fabWait = s.fabWait := (rfl)
@[simp] theorem incSat_fports (k : Nat) (lo : Nat) (w : Nat) (n : Nat) : (s.incSat k lo w n).fports = s.fports := (rfl)
@[simp] theorem incSat_rings (k : Nat) (lo : Nat) (w : Nat) (n : Nat) : (s.incSat k lo w n).rings = s.rings := (rfl)
@[simp] theorem incSat_hports (k : Nat) (lo : Nat) (w : Nat) (n : Nat) : (s.incSat k lo w n).hports = s.hports := (rfl)
@[simp] theorem incSat_outReads (k : Nat) (lo : Nat) (w : Nat) (n : Nat) : (s.incSat k lo w n).outReads = s.outReads := (rfl)
@[simp] theorem incSat_nextId (k : Nat) (lo : Nat) (w : Nat) (n : Nat) : (s.incSat k lo w n).nextId = s.nextId := (rfl)
@[simp] theorem incSat_band (k : Nat) (lo : Nat) (w : Nat) (n : Nat) : (s.incSat k lo w n).band = s.band := (rfl)
@[simp] theorem incSat_time (k : Nat) (lo : Nat) (w : Nat) (n : Nat) : (s.incSat k lo w n).time = s.time := (rfl)
@[simp] theorem incSat_boot (k : Nat) (lo : Nat) (w : Nat) (n : Nat) : (s.incSat k lo w n).boot = s.boot := (rfl)
@[simp] theorem incSat_flash (k : Nat) (lo : Nat) (w : Nat) (n : Nat) : (s.incSat k lo w n).flash = s.flash := (rfl)
@[simp] theorem incSat_err (k : Nat) (lo : Nat) (w : Nat) (n : Nat) : (s.incSat k lo w n).err = s.err := (rfl)
@[simp] theorem incSat_tap (k : Nat) (lo : Nat) (w : Nat) (n : Nat) : (s.incSat k lo w n).tap = s.tap := (rfl)
@[simp] theorem incSat_out (k : Nat) (lo : Nat) (w : Nat) (n : Nat) : (s.incSat k lo w n).out = s.out := (rfl)
@[simp] theorem incSat_fates (k : Nat) (lo : Nat) (w : Nat) (n : Nat) : (s.incSat k lo w n).fates = s.fates := (rfl)
@[simp] theorem incSat_free (k : Nat) (lo : Nat) (w : Nat) (n : Nat) : (s.incSat k lo w n).free = s.free := (rfl)
@[simp] theorem incSat_pending (k : Nat) (lo : Nat) (w : Nat) (n : Nat) : (s.incSat k lo w n).pending = s.pending := (rfl)
@[simp] theorem incSat_byte (k : Nat) (lo : Nat) (w : Nat) (n : Nat) (k' : Nat) : (s.incSat k lo w n).byte k' = s.byte k' := (rfl)
@[simp] theorem incSat_bytes (k : Nat) (lo : Nat) (w : Nat) (n : Nat) (k' : Nat) (n' : Nat) : (s.incSat k lo w n).bytes k' n' = s.bytes k' n' := (rfl)
@[simp] theorem incSat_cell (k : Nat) (lo : Nat) (w : Nat) (n : Nat) (c' : Nat) : (s.incSat k lo w n).cell c' = s.cell c' := (rfl)
@[simp] theorem incSat_mxe (k : Nat) (lo : Nat) (w : Nat) (n : Nat) (c' : Nat) : (s.incSat k lo w n).mxe c' = s.mxe c' := (rfl)
@[simp] theorem incSat_core (k : Nat) (lo : Nat) (w : Nat) (n : Nat) (c' : Nat) (k' : CoreSel) : (s.incSat k lo w n).core c' k' = s.core c' k' := (rfl)
@[simp] theorem incSat_region (k : Nat) (lo : Nat) (w : Nat) (n : Nat) (r' : Nat) : (s.incSat k lo w n).region r' = s.region r' := (rfl)
@[simp] theorem incSat_die (k : Nat) (lo : Nat) (w : Nat) (n : Nat) (d' : Nat) : (s.incSat k lo w n).die d' = s.die d' := (rfl)
@[simp] theorem incSat_mc (k : Nat) (lo : Nat) (w : Nat) (n : Nat) (d' : Nat) (n' : Nat) : (s.incSat k lo w n).mc d' n' = s.mc d' n' := (rfl)
@[simp] theorem incSat_ctx (k : Nat) (lo : Nat) (w : Nat) (n : Nat) (q' : Nat) : (s.incSat k lo w n).ctx q' = s.ctx q' := (rfl)
@[simp] theorem incSat_tag (k : Nat) (lo : Nat) (w : Nat) (n : Nat) (d' : Nat) (t' : Nat) : (s.incSat k lo w n).tag d' t' = s.tag d' t' := (rfl)
@[simp] theorem incSat_fport (k : Nat) (lo : Nat) (w : Nat) (n : Nat) (d' : Nat) (p' : Nat) : (s.incSat k lo w n).fport d' p' = s.fport d' p' := (rfl)
@[simp] theorem incSat_ring (k : Nat) (lo : Nat) (w : Nat) (n : Nat) (p' : Nat) (n' : Nat) : (s.incSat k lo w n).ring p' n' = s.ring p' n' := (rfl)
@[simp] theorem incSat_hport (k : Nat) (lo : Nat) (w : Nat) (n : Nat) (p' : Nat) : (s.incSat k lo w n).hport p' = s.hport p' := (rfl)
@[simp] theorem incSat_now (k : Nat) (lo : Nat) (w : Nat) (n : Nat) : (s.incSat k lo w n).now = s.now := (rfl)
@[simp] theorem incSat_facility (k : Nat) (lo : Nat) (w : Nat) (n : Nat) : (s.incSat k lo w n).facility = s.facility := (rfl)
@[simp] theorem incSat_job (k : Nat) (lo : Nat) (w : Nat) (n : Nat) (id' : Nat) : (s.incSat k lo w n).job? id' = s.job? id' := (rfl)
@[simp] theorem incSat_isHole (k : Nat) (lo : Nat) (w : Nat) (n : Nat) (c' : Nat) : (s.incSat k lo w n).isHole c' = s.isHole c' := (rfl)

@[simp] theorem incWrap_part (k : Nat) (lo : Nat) (w : Nat) (n : Nat) : (s.incWrap k lo w n).part = s.part := (rfl)
@[simp] theorem incWrap_slot (k : Nat) (lo : Nat) (w : Nat) (n : Nat) : (s.incWrap k lo w n).slot = s.slot := (rfl)
@[simp] theorem incWrap_wrote (k : Nat) (lo : Nat) (w : Nat) (n : Nat) : (s.incWrap k lo w n).wrote = s.wrote := (rfl)
@[simp] theorem incWrap_w1cSet (k : Nat) (lo : Nat) (w : Nat) (n : Nat) : (s.incWrap k lo w n).w1cSet = s.w1cSet := (rfl)
@[simp] theorem incWrap_mem (k : Nat) (lo : Nat) (w : Nat) (n : Nat) : (s.incWrap k lo w n).mem = s.mem := (rfl)
@[simp] theorem incWrap_cells (k : Nat) (lo : Nat) (w : Nat) (n : Nat) : (s.incWrap k lo w n).cells = s.cells := (rfl)
@[simp] theorem incWrap_regions (k : Nat) (lo : Nat) (w : Nat) (n : Nat) : (s.incWrap k lo w n).regions = s.regions := (rfl)
@[simp] theorem incWrap_dies (k : Nat) (lo : Nat) (w : Nat) (n : Nat) : (s.incWrap k lo w n).dies = s.dies := (rfl)
@[simp] theorem incWrap_mcs (k : Nat) (lo : Nat) (w : Nat) (n : Nat) : (s.incWrap k lo w n).mcs = s.mcs := (rfl)
@[simp] theorem incWrap_pend13 (k : Nat) (lo : Nat) (w : Nat) (n : Nat) : (s.incWrap k lo w n).pend13 = s.pend13 := (rfl)
@[simp] theorem incWrap_resp (k : Nat) (lo : Nat) (w : Nat) (n : Nat) : (s.incWrap k lo w n).resp = s.resp := (rfl)
@[simp] theorem incWrap_net (k : Nat) (lo : Nat) (w : Nat) (n : Nat) : (s.incWrap k lo w n).net = s.net := (rfl)
@[simp] theorem incWrap_panels (k : Nat) (lo : Nat) (w : Nat) (n : Nat) : (s.incWrap k lo w n).panels = s.panels := (rfl)
@[simp] theorem incWrap_jobs (k : Nat) (lo : Nat) (w : Nat) (n : Nat) : (s.incWrap k lo w n).jobs = s.jobs := (rfl)
@[simp] theorem incWrap_leftRun (k : Nat) (lo : Nat) (w : Nat) (n : Nat) : (s.incWrap k lo w n).leftRun = s.leftRun := (rfl)
@[simp] theorem incWrap_load (k : Nat) (lo : Nat) (w : Nat) (n : Nat) : (s.incWrap k lo w n).load = s.load := (rfl)
@[simp] theorem incWrap_ctxs (k : Nat) (lo : Nat) (w : Nat) (n : Nat) : (s.incWrap k lo w n).ctxs = s.ctxs := (rfl)
@[simp] theorem incWrap_tags (k : Nat) (lo : Nat) (w : Nat) (n : Nat) : (s.incWrap k lo w n).tags = s.tags := (rfl)
@[simp] theorem incWrap_fabQ (k : Nat) (lo : Nat) (w : Nat) (n : Nat) : (s.incWrap k lo w n).fabQ = s.fabQ := (rfl)
@[simp] theorem incWrap_fabWait (k : Nat) (lo : Nat) (w : Nat) (n : Nat) : (s.incWrap k lo w n).fabWait = s.fabWait := (rfl)
@[simp] theorem incWrap_fports (k : Nat) (lo : Nat) (w : Nat) (n : Nat) : (s.incWrap k lo w n).fports = s.fports := (rfl)
@[simp] theorem incWrap_rings (k : Nat) (lo : Nat) (w : Nat) (n : Nat) : (s.incWrap k lo w n).rings = s.rings := (rfl)
@[simp] theorem incWrap_hports (k : Nat) (lo : Nat) (w : Nat) (n : Nat) : (s.incWrap k lo w n).hports = s.hports := (rfl)
@[simp] theorem incWrap_outReads (k : Nat) (lo : Nat) (w : Nat) (n : Nat) : (s.incWrap k lo w n).outReads = s.outReads := (rfl)
@[simp] theorem incWrap_nextId (k : Nat) (lo : Nat) (w : Nat) (n : Nat) : (s.incWrap k lo w n).nextId = s.nextId := (rfl)
@[simp] theorem incWrap_band (k : Nat) (lo : Nat) (w : Nat) (n : Nat) : (s.incWrap k lo w n).band = s.band := (rfl)
@[simp] theorem incWrap_time (k : Nat) (lo : Nat) (w : Nat) (n : Nat) : (s.incWrap k lo w n).time = s.time := (rfl)
@[simp] theorem incWrap_boot (k : Nat) (lo : Nat) (w : Nat) (n : Nat) : (s.incWrap k lo w n).boot = s.boot := (rfl)
@[simp] theorem incWrap_flash (k : Nat) (lo : Nat) (w : Nat) (n : Nat) : (s.incWrap k lo w n).flash = s.flash := (rfl)
@[simp] theorem incWrap_err (k : Nat) (lo : Nat) (w : Nat) (n : Nat) : (s.incWrap k lo w n).err = s.err := (rfl)
@[simp] theorem incWrap_tap (k : Nat) (lo : Nat) (w : Nat) (n : Nat) : (s.incWrap k lo w n).tap = s.tap := (rfl)
@[simp] theorem incWrap_out (k : Nat) (lo : Nat) (w : Nat) (n : Nat) : (s.incWrap k lo w n).out = s.out := (rfl)
@[simp] theorem incWrap_fates (k : Nat) (lo : Nat) (w : Nat) (n : Nat) : (s.incWrap k lo w n).fates = s.fates := (rfl)
@[simp] theorem incWrap_free (k : Nat) (lo : Nat) (w : Nat) (n : Nat) : (s.incWrap k lo w n).free = s.free := (rfl)
@[simp] theorem incWrap_pending (k : Nat) (lo : Nat) (w : Nat) (n : Nat) : (s.incWrap k lo w n).pending = s.pending := (rfl)
@[simp] theorem incWrap_byte (k : Nat) (lo : Nat) (w : Nat) (n : Nat) (k' : Nat) : (s.incWrap k lo w n).byte k' = s.byte k' := (rfl)
@[simp] theorem incWrap_bytes (k : Nat) (lo : Nat) (w : Nat) (n : Nat) (k' : Nat) (n' : Nat) : (s.incWrap k lo w n).bytes k' n' = s.bytes k' n' := (rfl)
@[simp] theorem incWrap_cell (k : Nat) (lo : Nat) (w : Nat) (n : Nat) (c' : Nat) : (s.incWrap k lo w n).cell c' = s.cell c' := (rfl)
@[simp] theorem incWrap_mxe (k : Nat) (lo : Nat) (w : Nat) (n : Nat) (c' : Nat) : (s.incWrap k lo w n).mxe c' = s.mxe c' := (rfl)
@[simp] theorem incWrap_core (k : Nat) (lo : Nat) (w : Nat) (n : Nat) (c' : Nat) (k' : CoreSel) : (s.incWrap k lo w n).core c' k' = s.core c' k' := (rfl)
@[simp] theorem incWrap_region (k : Nat) (lo : Nat) (w : Nat) (n : Nat) (r' : Nat) : (s.incWrap k lo w n).region r' = s.region r' := (rfl)
@[simp] theorem incWrap_die (k : Nat) (lo : Nat) (w : Nat) (n : Nat) (d' : Nat) : (s.incWrap k lo w n).die d' = s.die d' := (rfl)
@[simp] theorem incWrap_mc (k : Nat) (lo : Nat) (w : Nat) (n : Nat) (d' : Nat) (n' : Nat) : (s.incWrap k lo w n).mc d' n' = s.mc d' n' := (rfl)
@[simp] theorem incWrap_ctx (k : Nat) (lo : Nat) (w : Nat) (n : Nat) (q' : Nat) : (s.incWrap k lo w n).ctx q' = s.ctx q' := (rfl)
@[simp] theorem incWrap_tag (k : Nat) (lo : Nat) (w : Nat) (n : Nat) (d' : Nat) (t' : Nat) : (s.incWrap k lo w n).tag d' t' = s.tag d' t' := (rfl)
@[simp] theorem incWrap_fport (k : Nat) (lo : Nat) (w : Nat) (n : Nat) (d' : Nat) (p' : Nat) : (s.incWrap k lo w n).fport d' p' = s.fport d' p' := (rfl)
@[simp] theorem incWrap_ring (k : Nat) (lo : Nat) (w : Nat) (n : Nat) (p' : Nat) (n' : Nat) : (s.incWrap k lo w n).ring p' n' = s.ring p' n' := (rfl)
@[simp] theorem incWrap_hport (k : Nat) (lo : Nat) (w : Nat) (n : Nat) (p' : Nat) : (s.incWrap k lo w n).hport p' = s.hport p' := (rfl)
@[simp] theorem incWrap_now (k : Nat) (lo : Nat) (w : Nat) (n : Nat) : (s.incWrap k lo w n).now = s.now := (rfl)
@[simp] theorem incWrap_facility (k : Nat) (lo : Nat) (w : Nat) (n : Nat) : (s.incWrap k lo w n).facility = s.facility := (rfl)
@[simp] theorem incWrap_job (k : Nat) (lo : Nat) (w : Nat) (n : Nat) (id' : Nat) : (s.incWrap k lo w n).job? id' = s.job? id' := (rfl)
@[simp] theorem incWrap_isHole (k : Nat) (lo : Nat) (w : Nat) (n : Nat) (c' : Nat) : (s.incWrap k lo w n).isHole c' = s.isHole c' := (rfl)

@[simp] theorem setCell_part (c : Nat) (x : Cell) : (s.setCell c x).part = s.part := (rfl)
@[simp] theorem setCell_slot (c : Nat) (x : Cell) : (s.setCell c x).slot = s.slot := (rfl)
@[simp] theorem setCell_regs (c : Nat) (x : Cell) : (s.setCell c x).regs = s.regs := (rfl)
@[simp] theorem setCell_wrote (c : Nat) (x : Cell) : (s.setCell c x).wrote = s.wrote := (rfl)
@[simp] theorem setCell_w1cSet (c : Nat) (x : Cell) : (s.setCell c x).w1cSet = s.w1cSet := (rfl)
@[simp] theorem setCell_mem (c : Nat) (x : Cell) : (s.setCell c x).mem = s.mem := (rfl)
@[simp] theorem setCell_regions (c : Nat) (x : Cell) : (s.setCell c x).regions = s.regions := (rfl)
@[simp] theorem setCell_dies (c : Nat) (x : Cell) : (s.setCell c x).dies = s.dies := (rfl)
@[simp] theorem setCell_mcs (c : Nat) (x : Cell) : (s.setCell c x).mcs = s.mcs := (rfl)
@[simp] theorem setCell_pend13 (c : Nat) (x : Cell) : (s.setCell c x).pend13 = s.pend13 := (rfl)
@[simp] theorem setCell_resp (c : Nat) (x : Cell) : (s.setCell c x).resp = s.resp := (rfl)
@[simp] theorem setCell_net (c : Nat) (x : Cell) : (s.setCell c x).net = s.net := (rfl)
@[simp] theorem setCell_panels (c : Nat) (x : Cell) : (s.setCell c x).panels = s.panels := (rfl)
@[simp] theorem setCell_jobs (c : Nat) (x : Cell) : (s.setCell c x).jobs = s.jobs := (rfl)
@[simp] theorem setCell_leftRun (c : Nat) (x : Cell) : (s.setCell c x).leftRun = s.leftRun := (rfl)
@[simp] theorem setCell_load (c : Nat) (x : Cell) : (s.setCell c x).load = s.load := (rfl)
@[simp] theorem setCell_ctxs (c : Nat) (x : Cell) : (s.setCell c x).ctxs = s.ctxs := (rfl)
@[simp] theorem setCell_tags (c : Nat) (x : Cell) : (s.setCell c x).tags = s.tags := (rfl)
@[simp] theorem setCell_fabQ (c : Nat) (x : Cell) : (s.setCell c x).fabQ = s.fabQ := (rfl)
@[simp] theorem setCell_fabWait (c : Nat) (x : Cell) : (s.setCell c x).fabWait = s.fabWait := (rfl)
@[simp] theorem setCell_fports (c : Nat) (x : Cell) : (s.setCell c x).fports = s.fports := (rfl)
@[simp] theorem setCell_rings (c : Nat) (x : Cell) : (s.setCell c x).rings = s.rings := (rfl)
@[simp] theorem setCell_hports (c : Nat) (x : Cell) : (s.setCell c x).hports = s.hports := (rfl)
@[simp] theorem setCell_outReads (c : Nat) (x : Cell) : (s.setCell c x).outReads = s.outReads := (rfl)
@[simp] theorem setCell_nextId (c : Nat) (x : Cell) : (s.setCell c x).nextId = s.nextId := (rfl)
@[simp] theorem setCell_band (c : Nat) (x : Cell) : (s.setCell c x).band = s.band := (rfl)
@[simp] theorem setCell_time (c : Nat) (x : Cell) : (s.setCell c x).time = s.time := (rfl)
@[simp] theorem setCell_boot (c : Nat) (x : Cell) : (s.setCell c x).boot = s.boot := (rfl)
@[simp] theorem setCell_flash (c : Nat) (x : Cell) : (s.setCell c x).flash = s.flash := (rfl)
@[simp] theorem setCell_err (c : Nat) (x : Cell) : (s.setCell c x).err = s.err := (rfl)
@[simp] theorem setCell_tap (c : Nat) (x : Cell) : (s.setCell c x).tap = s.tap := (rfl)
@[simp] theorem setCell_out (c : Nat) (x : Cell) : (s.setCell c x).out = s.out := (rfl)
@[simp] theorem setCell_fates (c : Nat) (x : Cell) : (s.setCell c x).fates = s.fates := (rfl)
@[simp] theorem setCell_free (c : Nat) (x : Cell) : (s.setCell c x).free = s.free := (rfl)
@[simp] theorem setCell_pending (c : Nat) (x : Cell) : (s.setCell c x).pending = s.pending := (rfl)
@[simp] theorem setCell_reg (c : Nat) (x : Cell) (k' : Nat) : (s.setCell c x).reg k' = s.reg k' := (rfl)
@[simp] theorem setCell_fld (c : Nat) (x : Cell) (k' : Nat) (lo' : Nat) (w' : Nat) : (s.setCell c x).fld k' lo' w' = s.fld k' lo' w' := (rfl)
@[simp] theorem setCell_byte (c : Nat) (x : Cell) (k' : Nat) : (s.setCell c x).byte k' = s.byte k' := (rfl)
@[simp] theorem setCell_bytes (c : Nat) (x : Cell) (k' : Nat) (n' : Nat) : (s.setCell c x).bytes k' n' = s.bytes k' n' := (rfl)
@[simp] theorem setCell_region (c : Nat) (x : Cell) (r' : Nat) : (s.setCell c x).region r' = s.region r' := (rfl)
@[simp] theorem setCell_die (c : Nat) (x : Cell) (d' : Nat) : (s.setCell c x).die d' = s.die d' := (rfl)
@[simp] theorem setCell_mc (c : Nat) (x : Cell) (d' : Nat) (n' : Nat) : (s.setCell c x).mc d' n' = s.mc d' n' := (rfl)
@[simp] theorem setCell_ctx (c : Nat) (x : Cell) (q' : Nat) : (s.setCell c x).ctx q' = s.ctx q' := (rfl)
@[simp] theorem setCell_tag (c : Nat) (x : Cell) (d' : Nat) (t' : Nat) : (s.setCell c x).tag d' t' = s.tag d' t' := (rfl)
@[simp] theorem setCell_fport (c : Nat) (x : Cell) (d' : Nat) (p' : Nat) : (s.setCell c x).fport d' p' = s.fport d' p' := (rfl)
@[simp] theorem setCell_ring (c : Nat) (x : Cell) (p' : Nat) (n' : Nat) : (s.setCell c x).ring p' n' = s.ring p' n' := (rfl)
@[simp] theorem setCell_hport (c : Nat) (x : Cell) (p' : Nat) : (s.setCell c x).hport p' = s.hport p' := (rfl)
@[simp] theorem setCell_now (c : Nat) (x : Cell) : (s.setCell c x).now = s.now := (rfl)
@[simp] theorem setCell_facility (c : Nat) (x : Cell) : (s.setCell c x).facility = s.facility := (rfl)
@[simp] theorem setCell_job (c : Nat) (x : Cell) (id' : Nat) : (s.setCell c x).job? id' = s.job? id' := (rfl)
@[simp] theorem setCell_logicalOf (c : Nat) (x : Cell) (c' : Nat) : (s.setCell c x).logicalOf c' = s.logicalOf c' := (rfl)
@[simp] theorem setCell_physicalOf (c : Nat) (x : Cell) (x' : Nat) (y' : Nat) : (s.setCell c x).physicalOf x' y' = s.physicalOf x' y' := (rfl)
@[simp] theorem setCell_panelOf (c : Nat) (x : Cell) (c' : Nat) : (s.setCell c x).panelOf c' = s.panelOf c' := (rfl)
@[simp] theorem setCell_jobOf (c : Nat) (x : Cell) (c' : Nat) : (s.setCell c x).jobOf c' = s.jobOf c' := (rfl)
@[simp] theorem setCell_isHole (c : Nat) (x : Cell) (c' : Nat) : (s.setCell c x).isHole c' = s.isHole c' := (rfl)
@[simp] theorem setCell_target (c : Nat) (x : Cell) (ga' : Nat) : (s.setCell c x).target ga' = s.target ga' := (rfl)

@[simp] theorem setRegion_part (r : Nat) (x : Region) : (s.setRegion r x).part = s.part := (rfl)
@[simp] theorem setRegion_slot (r : Nat) (x : Region) : (s.setRegion r x).slot = s.slot := (rfl)
@[simp] theorem setRegion_regs (r : Nat) (x : Region) : (s.setRegion r x).regs = s.regs := (rfl)
@[simp] theorem setRegion_wrote (r : Nat) (x : Region) : (s.setRegion r x).wrote = s.wrote := (rfl)
@[simp] theorem setRegion_w1cSet (r : Nat) (x : Region) : (s.setRegion r x).w1cSet = s.w1cSet := (rfl)
@[simp] theorem setRegion_mem (r : Nat) (x : Region) : (s.setRegion r x).mem = s.mem := (rfl)
@[simp] theorem setRegion_cells (r : Nat) (x : Region) : (s.setRegion r x).cells = s.cells := (rfl)
@[simp] theorem setRegion_dies (r : Nat) (x : Region) : (s.setRegion r x).dies = s.dies := (rfl)
@[simp] theorem setRegion_mcs (r : Nat) (x : Region) : (s.setRegion r x).mcs = s.mcs := (rfl)
@[simp] theorem setRegion_pend13 (r : Nat) (x : Region) : (s.setRegion r x).pend13 = s.pend13 := (rfl)
@[simp] theorem setRegion_resp (r : Nat) (x : Region) : (s.setRegion r x).resp = s.resp := (rfl)
@[simp] theorem setRegion_net (r : Nat) (x : Region) : (s.setRegion r x).net = s.net := (rfl)
@[simp] theorem setRegion_panels (r : Nat) (x : Region) : (s.setRegion r x).panels = s.panels := (rfl)
@[simp] theorem setRegion_jobs (r : Nat) (x : Region) : (s.setRegion r x).jobs = s.jobs := (rfl)
@[simp] theorem setRegion_leftRun (r : Nat) (x : Region) : (s.setRegion r x).leftRun = s.leftRun := (rfl)
@[simp] theorem setRegion_load (r : Nat) (x : Region) : (s.setRegion r x).load = s.load := (rfl)
@[simp] theorem setRegion_ctxs (r : Nat) (x : Region) : (s.setRegion r x).ctxs = s.ctxs := (rfl)
@[simp] theorem setRegion_tags (r : Nat) (x : Region) : (s.setRegion r x).tags = s.tags := (rfl)
@[simp] theorem setRegion_fabQ (r : Nat) (x : Region) : (s.setRegion r x).fabQ = s.fabQ := (rfl)
@[simp] theorem setRegion_fabWait (r : Nat) (x : Region) : (s.setRegion r x).fabWait = s.fabWait := (rfl)
@[simp] theorem setRegion_fports (r : Nat) (x : Region) : (s.setRegion r x).fports = s.fports := (rfl)
@[simp] theorem setRegion_rings (r : Nat) (x : Region) : (s.setRegion r x).rings = s.rings := (rfl)
@[simp] theorem setRegion_hports (r : Nat) (x : Region) : (s.setRegion r x).hports = s.hports := (rfl)
@[simp] theorem setRegion_outReads (r : Nat) (x : Region) : (s.setRegion r x).outReads = s.outReads := (rfl)
@[simp] theorem setRegion_nextId (r : Nat) (x : Region) : (s.setRegion r x).nextId = s.nextId := (rfl)
@[simp] theorem setRegion_band (r : Nat) (x : Region) : (s.setRegion r x).band = s.band := (rfl)
@[simp] theorem setRegion_time (r : Nat) (x : Region) : (s.setRegion r x).time = s.time := (rfl)
@[simp] theorem setRegion_boot (r : Nat) (x : Region) : (s.setRegion r x).boot = s.boot := (rfl)
@[simp] theorem setRegion_flash (r : Nat) (x : Region) : (s.setRegion r x).flash = s.flash := (rfl)
@[simp] theorem setRegion_err (r : Nat) (x : Region) : (s.setRegion r x).err = s.err := (rfl)
@[simp] theorem setRegion_tap (r : Nat) (x : Region) : (s.setRegion r x).tap = s.tap := (rfl)
@[simp] theorem setRegion_out (r : Nat) (x : Region) : (s.setRegion r x).out = s.out := (rfl)
@[simp] theorem setRegion_fates (r : Nat) (x : Region) : (s.setRegion r x).fates = s.fates := (rfl)
@[simp] theorem setRegion_free (r : Nat) (x : Region) : (s.setRegion r x).free = s.free := (rfl)
@[simp] theorem setRegion_pending (r : Nat) (x : Region) : (s.setRegion r x).pending = s.pending := (rfl)
@[simp] theorem setRegion_reg (r : Nat) (x : Region) (k' : Nat) : (s.setRegion r x).reg k' = s.reg k' := (rfl)
@[simp] theorem setRegion_fld (r : Nat) (x : Region) (k' : Nat) (lo' : Nat) (w' : Nat) : (s.setRegion r x).fld k' lo' w' = s.fld k' lo' w' := (rfl)
@[simp] theorem setRegion_byte (r : Nat) (x : Region) (k' : Nat) : (s.setRegion r x).byte k' = s.byte k' := (rfl)
@[simp] theorem setRegion_bytes (r : Nat) (x : Region) (k' : Nat) (n' : Nat) : (s.setRegion r x).bytes k' n' = s.bytes k' n' := (rfl)
@[simp] theorem setRegion_cell (r : Nat) (x : Region) (c' : Nat) : (s.setRegion r x).cell c' = s.cell c' := (rfl)
@[simp] theorem setRegion_mxe (r : Nat) (x : Region) (c' : Nat) : (s.setRegion r x).mxe c' = s.mxe c' := (rfl)
@[simp] theorem setRegion_core (r : Nat) (x : Region) (c' : Nat) (k' : CoreSel) : (s.setRegion r x).core c' k' = s.core c' k' := (rfl)
@[simp] theorem setRegion_die (r : Nat) (x : Region) (d' : Nat) : (s.setRegion r x).die d' = s.die d' := (rfl)
@[simp] theorem setRegion_mc (r : Nat) (x : Region) (d' : Nat) (n' : Nat) : (s.setRegion r x).mc d' n' = s.mc d' n' := (rfl)
@[simp] theorem setRegion_ctx (r : Nat) (x : Region) (q' : Nat) : (s.setRegion r x).ctx q' = s.ctx q' := (rfl)
@[simp] theorem setRegion_tag (r : Nat) (x : Region) (d' : Nat) (t' : Nat) : (s.setRegion r x).tag d' t' = s.tag d' t' := (rfl)
@[simp] theorem setRegion_fport (r : Nat) (x : Region) (d' : Nat) (p' : Nat) : (s.setRegion r x).fport d' p' = s.fport d' p' := (rfl)
@[simp] theorem setRegion_ring (r : Nat) (x : Region) (p' : Nat) (n' : Nat) : (s.setRegion r x).ring p' n' = s.ring p' n' := (rfl)
@[simp] theorem setRegion_hport (r : Nat) (x : Region) (p' : Nat) : (s.setRegion r x).hport p' = s.hport p' := (rfl)
@[simp] theorem setRegion_now (r : Nat) (x : Region) : (s.setRegion r x).now = s.now := (rfl)
@[simp] theorem setRegion_facility (r : Nat) (x : Region) : (s.setRegion r x).facility = s.facility := (rfl)
@[simp] theorem setRegion_job (r : Nat) (x : Region) (id' : Nat) : (s.setRegion r x).job? id' = s.job? id' := (rfl)
@[simp] theorem setRegion_logicalOf (r : Nat) (x : Region) (c' : Nat) : (s.setRegion r x).logicalOf c' = s.logicalOf c' := (rfl)
@[simp] theorem setRegion_physicalOf (r : Nat) (x : Region) (x' : Nat) (y' : Nat) : (s.setRegion r x).physicalOf x' y' = s.physicalOf x' y' := (rfl)
@[simp] theorem setRegion_panelOf (r : Nat) (x : Region) (c' : Nat) : (s.setRegion r x).panelOf c' = s.panelOf c' := (rfl)
@[simp] theorem setRegion_jobOf (r : Nat) (x : Region) (c' : Nat) : (s.setRegion r x).jobOf c' = s.jobOf c' := (rfl)
@[simp] theorem setRegion_isHole (r : Nat) (x : Region) (c' : Nat) : (s.setRegion r x).isHole c' = s.isHole c' := (rfl)
@[simp] theorem setRegion_target (r : Nat) (x : Region) (ga' : Nat) : (s.setRegion r x).target ga' = s.target ga' := (rfl)

@[simp] theorem setDie_part (d : Nat) (x : Die) : (s.setDie d x).part = s.part := (rfl)
@[simp] theorem setDie_slot (d : Nat) (x : Die) : (s.setDie d x).slot = s.slot := (rfl)
@[simp] theorem setDie_regs (d : Nat) (x : Die) : (s.setDie d x).regs = s.regs := (rfl)
@[simp] theorem setDie_wrote (d : Nat) (x : Die) : (s.setDie d x).wrote = s.wrote := (rfl)
@[simp] theorem setDie_w1cSet (d : Nat) (x : Die) : (s.setDie d x).w1cSet = s.w1cSet := (rfl)
@[simp] theorem setDie_mem (d : Nat) (x : Die) : (s.setDie d x).mem = s.mem := (rfl)
@[simp] theorem setDie_cells (d : Nat) (x : Die) : (s.setDie d x).cells = s.cells := (rfl)
@[simp] theorem setDie_regions (d : Nat) (x : Die) : (s.setDie d x).regions = s.regions := (rfl)
@[simp] theorem setDie_mcs (d : Nat) (x : Die) : (s.setDie d x).mcs = s.mcs := (rfl)
@[simp] theorem setDie_pend13 (d : Nat) (x : Die) : (s.setDie d x).pend13 = s.pend13 := (rfl)
@[simp] theorem setDie_resp (d : Nat) (x : Die) : (s.setDie d x).resp = s.resp := (rfl)
@[simp] theorem setDie_net (d : Nat) (x : Die) : (s.setDie d x).net = s.net := (rfl)
@[simp] theorem setDie_panels (d : Nat) (x : Die) : (s.setDie d x).panels = s.panels := (rfl)
@[simp] theorem setDie_jobs (d : Nat) (x : Die) : (s.setDie d x).jobs = s.jobs := (rfl)
@[simp] theorem setDie_leftRun (d : Nat) (x : Die) : (s.setDie d x).leftRun = s.leftRun := (rfl)
@[simp] theorem setDie_load (d : Nat) (x : Die) : (s.setDie d x).load = s.load := (rfl)
@[simp] theorem setDie_ctxs (d : Nat) (x : Die) : (s.setDie d x).ctxs = s.ctxs := (rfl)
@[simp] theorem setDie_tags (d : Nat) (x : Die) : (s.setDie d x).tags = s.tags := (rfl)
@[simp] theorem setDie_fabQ (d : Nat) (x : Die) : (s.setDie d x).fabQ = s.fabQ := (rfl)
@[simp] theorem setDie_fabWait (d : Nat) (x : Die) : (s.setDie d x).fabWait = s.fabWait := (rfl)
@[simp] theorem setDie_fports (d : Nat) (x : Die) : (s.setDie d x).fports = s.fports := (rfl)
@[simp] theorem setDie_rings (d : Nat) (x : Die) : (s.setDie d x).rings = s.rings := (rfl)
@[simp] theorem setDie_hports (d : Nat) (x : Die) : (s.setDie d x).hports = s.hports := (rfl)
@[simp] theorem setDie_outReads (d : Nat) (x : Die) : (s.setDie d x).outReads = s.outReads := (rfl)
@[simp] theorem setDie_nextId (d : Nat) (x : Die) : (s.setDie d x).nextId = s.nextId := (rfl)
@[simp] theorem setDie_band (d : Nat) (x : Die) : (s.setDie d x).band = s.band := (rfl)
@[simp] theorem setDie_time (d : Nat) (x : Die) : (s.setDie d x).time = s.time := (rfl)
@[simp] theorem setDie_boot (d : Nat) (x : Die) : (s.setDie d x).boot = s.boot := (rfl)
@[simp] theorem setDie_flash (d : Nat) (x : Die) : (s.setDie d x).flash = s.flash := (rfl)
@[simp] theorem setDie_err (d : Nat) (x : Die) : (s.setDie d x).err = s.err := (rfl)
@[simp] theorem setDie_tap (d : Nat) (x : Die) : (s.setDie d x).tap = s.tap := (rfl)
@[simp] theorem setDie_out (d : Nat) (x : Die) : (s.setDie d x).out = s.out := (rfl)
@[simp] theorem setDie_fates (d : Nat) (x : Die) : (s.setDie d x).fates = s.fates := (rfl)
@[simp] theorem setDie_free (d : Nat) (x : Die) : (s.setDie d x).free = s.free := (rfl)
@[simp] theorem setDie_pending (d : Nat) (x : Die) : (s.setDie d x).pending = s.pending := (rfl)
@[simp] theorem setDie_reg (d : Nat) (x : Die) (k' : Nat) : (s.setDie d x).reg k' = s.reg k' := (rfl)
@[simp] theorem setDie_fld (d : Nat) (x : Die) (k' : Nat) (lo' : Nat) (w' : Nat) : (s.setDie d x).fld k' lo' w' = s.fld k' lo' w' := (rfl)
@[simp] theorem setDie_byte (d : Nat) (x : Die) (k' : Nat) : (s.setDie d x).byte k' = s.byte k' := (rfl)
@[simp] theorem setDie_bytes (d : Nat) (x : Die) (k' : Nat) (n' : Nat) : (s.setDie d x).bytes k' n' = s.bytes k' n' := (rfl)
@[simp] theorem setDie_cell (d : Nat) (x : Die) (c' : Nat) : (s.setDie d x).cell c' = s.cell c' := (rfl)
@[simp] theorem setDie_mxe (d : Nat) (x : Die) (c' : Nat) : (s.setDie d x).mxe c' = s.mxe c' := (rfl)
@[simp] theorem setDie_core (d : Nat) (x : Die) (c' : Nat) (k' : CoreSel) : (s.setDie d x).core c' k' = s.core c' k' := (rfl)
@[simp] theorem setDie_region (d : Nat) (x : Die) (r' : Nat) : (s.setDie d x).region r' = s.region r' := (rfl)
@[simp] theorem setDie_mc (d : Nat) (x : Die) (d' : Nat) (n' : Nat) : (s.setDie d x).mc d' n' = s.mc d' n' := (rfl)
@[simp] theorem setDie_ctx (d : Nat) (x : Die) (q' : Nat) : (s.setDie d x).ctx q' = s.ctx q' := (rfl)
@[simp] theorem setDie_tag (d : Nat) (x : Die) (d' : Nat) (t' : Nat) : (s.setDie d x).tag d' t' = s.tag d' t' := (rfl)
@[simp] theorem setDie_fport (d : Nat) (x : Die) (d' : Nat) (p' : Nat) : (s.setDie d x).fport d' p' = s.fport d' p' := (rfl)
@[simp] theorem setDie_ring (d : Nat) (x : Die) (p' : Nat) (n' : Nat) : (s.setDie d x).ring p' n' = s.ring p' n' := (rfl)
@[simp] theorem setDie_hport (d : Nat) (x : Die) (p' : Nat) : (s.setDie d x).hport p' = s.hport p' := (rfl)
@[simp] theorem setDie_now (d : Nat) (x : Die) : (s.setDie d x).now = s.now := (rfl)
@[simp] theorem setDie_facility (d : Nat) (x : Die) : (s.setDie d x).facility = s.facility := (rfl)
@[simp] theorem setDie_job (d : Nat) (x : Die) (id' : Nat) : (s.setDie d x).job? id' = s.job? id' := (rfl)
@[simp] theorem setDie_logicalOf (d : Nat) (x : Die) (c' : Nat) : (s.setDie d x).logicalOf c' = s.logicalOf c' := (rfl)
@[simp] theorem setDie_physicalOf (d : Nat) (x : Die) (x' : Nat) (y' : Nat) : (s.setDie d x).physicalOf x' y' = s.physicalOf x' y' := (rfl)
@[simp] theorem setDie_panelOf (d : Nat) (x : Die) (c' : Nat) : (s.setDie d x).panelOf c' = s.panelOf c' := (rfl)
@[simp] theorem setDie_jobOf (d : Nat) (x : Die) (c' : Nat) : (s.setDie d x).jobOf c' = s.jobOf c' := (rfl)
@[simp] theorem setDie_isHole (d : Nat) (x : Die) (c' : Nat) : (s.setDie d x).isHole c' = s.isHole c' := (rfl)
@[simp] theorem setDie_target (d : Nat) (x : Die) (ga' : Nat) : (s.setDie d x).target ga' = s.target ga' := (rfl)

@[simp] theorem setMc_part (d : Nat) (n : Nat) (x : Mc) : (s.setMc d n x).part = s.part := (rfl)
@[simp] theorem setMc_slot (d : Nat) (n : Nat) (x : Mc) : (s.setMc d n x).slot = s.slot := (rfl)
@[simp] theorem setMc_regs (d : Nat) (n : Nat) (x : Mc) : (s.setMc d n x).regs = s.regs := (rfl)
@[simp] theorem setMc_wrote (d : Nat) (n : Nat) (x : Mc) : (s.setMc d n x).wrote = s.wrote := (rfl)
@[simp] theorem setMc_w1cSet (d : Nat) (n : Nat) (x : Mc) : (s.setMc d n x).w1cSet = s.w1cSet := (rfl)
@[simp] theorem setMc_mem (d : Nat) (n : Nat) (x : Mc) : (s.setMc d n x).mem = s.mem := (rfl)
@[simp] theorem setMc_cells (d : Nat) (n : Nat) (x : Mc) : (s.setMc d n x).cells = s.cells := (rfl)
@[simp] theorem setMc_regions (d : Nat) (n : Nat) (x : Mc) : (s.setMc d n x).regions = s.regions := (rfl)
@[simp] theorem setMc_dies (d : Nat) (n : Nat) (x : Mc) : (s.setMc d n x).dies = s.dies := (rfl)
@[simp] theorem setMc_pend13 (d : Nat) (n : Nat) (x : Mc) : (s.setMc d n x).pend13 = s.pend13 := (rfl)
@[simp] theorem setMc_resp (d : Nat) (n : Nat) (x : Mc) : (s.setMc d n x).resp = s.resp := (rfl)
@[simp] theorem setMc_net (d : Nat) (n : Nat) (x : Mc) : (s.setMc d n x).net = s.net := (rfl)
@[simp] theorem setMc_panels (d : Nat) (n : Nat) (x : Mc) : (s.setMc d n x).panels = s.panels := (rfl)
@[simp] theorem setMc_jobs (d : Nat) (n : Nat) (x : Mc) : (s.setMc d n x).jobs = s.jobs := (rfl)
@[simp] theorem setMc_leftRun (d : Nat) (n : Nat) (x : Mc) : (s.setMc d n x).leftRun = s.leftRun := (rfl)
@[simp] theorem setMc_load (d : Nat) (n : Nat) (x : Mc) : (s.setMc d n x).load = s.load := (rfl)
@[simp] theorem setMc_ctxs (d : Nat) (n : Nat) (x : Mc) : (s.setMc d n x).ctxs = s.ctxs := (rfl)
@[simp] theorem setMc_tags (d : Nat) (n : Nat) (x : Mc) : (s.setMc d n x).tags = s.tags := (rfl)
@[simp] theorem setMc_fabQ (d : Nat) (n : Nat) (x : Mc) : (s.setMc d n x).fabQ = s.fabQ := (rfl)
@[simp] theorem setMc_fabWait (d : Nat) (n : Nat) (x : Mc) : (s.setMc d n x).fabWait = s.fabWait := (rfl)
@[simp] theorem setMc_fports (d : Nat) (n : Nat) (x : Mc) : (s.setMc d n x).fports = s.fports := (rfl)
@[simp] theorem setMc_rings (d : Nat) (n : Nat) (x : Mc) : (s.setMc d n x).rings = s.rings := (rfl)
@[simp] theorem setMc_hports (d : Nat) (n : Nat) (x : Mc) : (s.setMc d n x).hports = s.hports := (rfl)
@[simp] theorem setMc_outReads (d : Nat) (n : Nat) (x : Mc) : (s.setMc d n x).outReads = s.outReads := (rfl)
@[simp] theorem setMc_nextId (d : Nat) (n : Nat) (x : Mc) : (s.setMc d n x).nextId = s.nextId := (rfl)
@[simp] theorem setMc_band (d : Nat) (n : Nat) (x : Mc) : (s.setMc d n x).band = s.band := (rfl)
@[simp] theorem setMc_time (d : Nat) (n : Nat) (x : Mc) : (s.setMc d n x).time = s.time := (rfl)
@[simp] theorem setMc_boot (d : Nat) (n : Nat) (x : Mc) : (s.setMc d n x).boot = s.boot := (rfl)
@[simp] theorem setMc_flash (d : Nat) (n : Nat) (x : Mc) : (s.setMc d n x).flash = s.flash := (rfl)
@[simp] theorem setMc_err (d : Nat) (n : Nat) (x : Mc) : (s.setMc d n x).err = s.err := (rfl)
@[simp] theorem setMc_tap (d : Nat) (n : Nat) (x : Mc) : (s.setMc d n x).tap = s.tap := (rfl)
@[simp] theorem setMc_out (d : Nat) (n : Nat) (x : Mc) : (s.setMc d n x).out = s.out := (rfl)
@[simp] theorem setMc_fates (d : Nat) (n : Nat) (x : Mc) : (s.setMc d n x).fates = s.fates := (rfl)
@[simp] theorem setMc_free (d : Nat) (n : Nat) (x : Mc) : (s.setMc d n x).free = s.free := (rfl)
@[simp] theorem setMc_pending (d : Nat) (n : Nat) (x : Mc) : (s.setMc d n x).pending = s.pending := (rfl)
@[simp] theorem setMc_reg (d : Nat) (n : Nat) (x : Mc) (k' : Nat) : (s.setMc d n x).reg k' = s.reg k' := (rfl)
@[simp] theorem setMc_fld (d : Nat) (n : Nat) (x : Mc) (k' : Nat) (lo' : Nat) (w' : Nat) : (s.setMc d n x).fld k' lo' w' = s.fld k' lo' w' := (rfl)
@[simp] theorem setMc_byte (d : Nat) (n : Nat) (x : Mc) (k' : Nat) : (s.setMc d n x).byte k' = s.byte k' := (rfl)
@[simp] theorem setMc_bytes (d : Nat) (n : Nat) (x : Mc) (k' : Nat) (n' : Nat) : (s.setMc d n x).bytes k' n' = s.bytes k' n' := (rfl)
@[simp] theorem setMc_cell (d : Nat) (n : Nat) (x : Mc) (c' : Nat) : (s.setMc d n x).cell c' = s.cell c' := (rfl)
@[simp] theorem setMc_mxe (d : Nat) (n : Nat) (x : Mc) (c' : Nat) : (s.setMc d n x).mxe c' = s.mxe c' := (rfl)
@[simp] theorem setMc_core (d : Nat) (n : Nat) (x : Mc) (c' : Nat) (k' : CoreSel) : (s.setMc d n x).core c' k' = s.core c' k' := (rfl)
@[simp] theorem setMc_region (d : Nat) (n : Nat) (x : Mc) (r' : Nat) : (s.setMc d n x).region r' = s.region r' := (rfl)
@[simp] theorem setMc_die (d : Nat) (n : Nat) (x : Mc) (d' : Nat) : (s.setMc d n x).die d' = s.die d' := (rfl)
@[simp] theorem setMc_ctx (d : Nat) (n : Nat) (x : Mc) (q' : Nat) : (s.setMc d n x).ctx q' = s.ctx q' := (rfl)
@[simp] theorem setMc_tag (d : Nat) (n : Nat) (x : Mc) (d' : Nat) (t' : Nat) : (s.setMc d n x).tag d' t' = s.tag d' t' := (rfl)
@[simp] theorem setMc_fport (d : Nat) (n : Nat) (x : Mc) (d' : Nat) (p' : Nat) : (s.setMc d n x).fport d' p' = s.fport d' p' := (rfl)
@[simp] theorem setMc_ring (d : Nat) (n : Nat) (x : Mc) (p' : Nat) (n' : Nat) : (s.setMc d n x).ring p' n' = s.ring p' n' := (rfl)
@[simp] theorem setMc_hport (d : Nat) (n : Nat) (x : Mc) (p' : Nat) : (s.setMc d n x).hport p' = s.hport p' := (rfl)
@[simp] theorem setMc_now (d : Nat) (n : Nat) (x : Mc) : (s.setMc d n x).now = s.now := (rfl)
@[simp] theorem setMc_facility (d : Nat) (n : Nat) (x : Mc) : (s.setMc d n x).facility = s.facility := (rfl)
@[simp] theorem setMc_job (d : Nat) (n : Nat) (x : Mc) (id' : Nat) : (s.setMc d n x).job? id' = s.job? id' := (rfl)
@[simp] theorem setMc_logicalOf (d : Nat) (n : Nat) (x : Mc) (c' : Nat) : (s.setMc d n x).logicalOf c' = s.logicalOf c' := (rfl)
@[simp] theorem setMc_physicalOf (d : Nat) (n : Nat) (x : Mc) (x' : Nat) (y' : Nat) : (s.setMc d n x).physicalOf x' y' = s.physicalOf x' y' := (rfl)
@[simp] theorem setMc_panelOf (d : Nat) (n : Nat) (x : Mc) (c' : Nat) : (s.setMc d n x).panelOf c' = s.panelOf c' := (rfl)
@[simp] theorem setMc_jobOf (d : Nat) (n : Nat) (x : Mc) (c' : Nat) : (s.setMc d n x).jobOf c' = s.jobOf c' := (rfl)
@[simp] theorem setMc_isHole (d : Nat) (n : Nat) (x : Mc) (c' : Nat) : (s.setMc d n x).isHole c' = s.isHole c' := (rfl)
@[simp] theorem setMc_target (d : Nat) (n : Nat) (x : Mc) (ga' : Nat) : (s.setMc d n x).target ga' = s.target ga' := (rfl)

@[simp] theorem setCtx_part (q : Nat) (x : Ctx) : (s.setCtx q x).part = s.part := (rfl)
@[simp] theorem setCtx_slot (q : Nat) (x : Ctx) : (s.setCtx q x).slot = s.slot := (rfl)
@[simp] theorem setCtx_regs (q : Nat) (x : Ctx) : (s.setCtx q x).regs = s.regs := (rfl)
@[simp] theorem setCtx_wrote (q : Nat) (x : Ctx) : (s.setCtx q x).wrote = s.wrote := (rfl)
@[simp] theorem setCtx_w1cSet (q : Nat) (x : Ctx) : (s.setCtx q x).w1cSet = s.w1cSet := (rfl)
@[simp] theorem setCtx_mem (q : Nat) (x : Ctx) : (s.setCtx q x).mem = s.mem := (rfl)
@[simp] theorem setCtx_cells (q : Nat) (x : Ctx) : (s.setCtx q x).cells = s.cells := (rfl)
@[simp] theorem setCtx_regions (q : Nat) (x : Ctx) : (s.setCtx q x).regions = s.regions := (rfl)
@[simp] theorem setCtx_dies (q : Nat) (x : Ctx) : (s.setCtx q x).dies = s.dies := (rfl)
@[simp] theorem setCtx_mcs (q : Nat) (x : Ctx) : (s.setCtx q x).mcs = s.mcs := (rfl)
@[simp] theorem setCtx_pend13 (q : Nat) (x : Ctx) : (s.setCtx q x).pend13 = s.pend13 := (rfl)
@[simp] theorem setCtx_resp (q : Nat) (x : Ctx) : (s.setCtx q x).resp = s.resp := (rfl)
@[simp] theorem setCtx_net (q : Nat) (x : Ctx) : (s.setCtx q x).net = s.net := (rfl)
@[simp] theorem setCtx_panels (q : Nat) (x : Ctx) : (s.setCtx q x).panels = s.panels := (rfl)
@[simp] theorem setCtx_jobs (q : Nat) (x : Ctx) : (s.setCtx q x).jobs = s.jobs := (rfl)
@[simp] theorem setCtx_leftRun (q : Nat) (x : Ctx) : (s.setCtx q x).leftRun = s.leftRun := (rfl)
@[simp] theorem setCtx_load (q : Nat) (x : Ctx) : (s.setCtx q x).load = s.load := (rfl)
@[simp] theorem setCtx_tags (q : Nat) (x : Ctx) : (s.setCtx q x).tags = s.tags := (rfl)
@[simp] theorem setCtx_fabQ (q : Nat) (x : Ctx) : (s.setCtx q x).fabQ = s.fabQ := (rfl)
@[simp] theorem setCtx_fabWait (q : Nat) (x : Ctx) : (s.setCtx q x).fabWait = s.fabWait := (rfl)
@[simp] theorem setCtx_fports (q : Nat) (x : Ctx) : (s.setCtx q x).fports = s.fports := (rfl)
@[simp] theorem setCtx_rings (q : Nat) (x : Ctx) : (s.setCtx q x).rings = s.rings := (rfl)
@[simp] theorem setCtx_hports (q : Nat) (x : Ctx) : (s.setCtx q x).hports = s.hports := (rfl)
@[simp] theorem setCtx_outReads (q : Nat) (x : Ctx) : (s.setCtx q x).outReads = s.outReads := (rfl)
@[simp] theorem setCtx_nextId (q : Nat) (x : Ctx) : (s.setCtx q x).nextId = s.nextId := (rfl)
@[simp] theorem setCtx_band (q : Nat) (x : Ctx) : (s.setCtx q x).band = s.band := (rfl)
@[simp] theorem setCtx_time (q : Nat) (x : Ctx) : (s.setCtx q x).time = s.time := (rfl)
@[simp] theorem setCtx_boot (q : Nat) (x : Ctx) : (s.setCtx q x).boot = s.boot := (rfl)
@[simp] theorem setCtx_flash (q : Nat) (x : Ctx) : (s.setCtx q x).flash = s.flash := (rfl)
@[simp] theorem setCtx_err (q : Nat) (x : Ctx) : (s.setCtx q x).err = s.err := (rfl)
@[simp] theorem setCtx_tap (q : Nat) (x : Ctx) : (s.setCtx q x).tap = s.tap := (rfl)
@[simp] theorem setCtx_out (q : Nat) (x : Ctx) : (s.setCtx q x).out = s.out := (rfl)
@[simp] theorem setCtx_fates (q : Nat) (x : Ctx) : (s.setCtx q x).fates = s.fates := (rfl)
@[simp] theorem setCtx_free (q : Nat) (x : Ctx) : (s.setCtx q x).free = s.free := (rfl)
@[simp] theorem setCtx_pending (q : Nat) (x : Ctx) : (s.setCtx q x).pending = s.pending := (rfl)
@[simp] theorem setCtx_reg (q : Nat) (x : Ctx) (k' : Nat) : (s.setCtx q x).reg k' = s.reg k' := (rfl)
@[simp] theorem setCtx_fld (q : Nat) (x : Ctx) (k' : Nat) (lo' : Nat) (w' : Nat) : (s.setCtx q x).fld k' lo' w' = s.fld k' lo' w' := (rfl)
@[simp] theorem setCtx_byte (q : Nat) (x : Ctx) (k' : Nat) : (s.setCtx q x).byte k' = s.byte k' := (rfl)
@[simp] theorem setCtx_bytes (q : Nat) (x : Ctx) (k' : Nat) (n' : Nat) : (s.setCtx q x).bytes k' n' = s.bytes k' n' := (rfl)
@[simp] theorem setCtx_cell (q : Nat) (x : Ctx) (c' : Nat) : (s.setCtx q x).cell c' = s.cell c' := (rfl)
@[simp] theorem setCtx_mxe (q : Nat) (x : Ctx) (c' : Nat) : (s.setCtx q x).mxe c' = s.mxe c' := (rfl)
@[simp] theorem setCtx_core (q : Nat) (x : Ctx) (c' : Nat) (k' : CoreSel) : (s.setCtx q x).core c' k' = s.core c' k' := (rfl)
@[simp] theorem setCtx_region (q : Nat) (x : Ctx) (r' : Nat) : (s.setCtx q x).region r' = s.region r' := (rfl)
@[simp] theorem setCtx_die (q : Nat) (x : Ctx) (d' : Nat) : (s.setCtx q x).die d' = s.die d' := (rfl)
@[simp] theorem setCtx_mc (q : Nat) (x : Ctx) (d' : Nat) (n' : Nat) : (s.setCtx q x).mc d' n' = s.mc d' n' := (rfl)
@[simp] theorem setCtx_tag (q : Nat) (x : Ctx) (d' : Nat) (t' : Nat) : (s.setCtx q x).tag d' t' = s.tag d' t' := (rfl)
@[simp] theorem setCtx_fport (q : Nat) (x : Ctx) (d' : Nat) (p' : Nat) : (s.setCtx q x).fport d' p' = s.fport d' p' := (rfl)
@[simp] theorem setCtx_ring (q : Nat) (x : Ctx) (p' : Nat) (n' : Nat) : (s.setCtx q x).ring p' n' = s.ring p' n' := (rfl)
@[simp] theorem setCtx_hport (q : Nat) (x : Ctx) (p' : Nat) : (s.setCtx q x).hport p' = s.hport p' := (rfl)
@[simp] theorem setCtx_now (q : Nat) (x : Ctx) : (s.setCtx q x).now = s.now := (rfl)
@[simp] theorem setCtx_facility (q : Nat) (x : Ctx) : (s.setCtx q x).facility = s.facility := (rfl)
@[simp] theorem setCtx_job (q : Nat) (x : Ctx) (id' : Nat) : (s.setCtx q x).job? id' = s.job? id' := (rfl)
@[simp] theorem setCtx_logicalOf (q : Nat) (x : Ctx) (c' : Nat) : (s.setCtx q x).logicalOf c' = s.logicalOf c' := (rfl)
@[simp] theorem setCtx_physicalOf (q : Nat) (x : Ctx) (x' : Nat) (y' : Nat) : (s.setCtx q x).physicalOf x' y' = s.physicalOf x' y' := (rfl)
@[simp] theorem setCtx_panelOf (q : Nat) (x : Ctx) (c' : Nat) : (s.setCtx q x).panelOf c' = s.panelOf c' := (rfl)
@[simp] theorem setCtx_jobOf (q : Nat) (x : Ctx) (c' : Nat) : (s.setCtx q x).jobOf c' = s.jobOf c' := (rfl)
@[simp] theorem setCtx_isHole (q : Nat) (x : Ctx) (c' : Nat) : (s.setCtx q x).isHole c' = s.isHole c' := (rfl)
@[simp] theorem setCtx_target (q : Nat) (x : Ctx) (ga' : Nat) : (s.setCtx q x).target ga' = s.target ga' := (rfl)

@[simp] theorem setTag_part (d : Nat) (t : Nat) (x : Tag) : (s.setTag d t x).part = s.part := (rfl)
@[simp] theorem setTag_slot (d : Nat) (t : Nat) (x : Tag) : (s.setTag d t x).slot = s.slot := (rfl)
@[simp] theorem setTag_regs (d : Nat) (t : Nat) (x : Tag) : (s.setTag d t x).regs = s.regs := (rfl)
@[simp] theorem setTag_wrote (d : Nat) (t : Nat) (x : Tag) : (s.setTag d t x).wrote = s.wrote := (rfl)
@[simp] theorem setTag_w1cSet (d : Nat) (t : Nat) (x : Tag) : (s.setTag d t x).w1cSet = s.w1cSet := (rfl)
@[simp] theorem setTag_mem (d : Nat) (t : Nat) (x : Tag) : (s.setTag d t x).mem = s.mem := (rfl)
@[simp] theorem setTag_cells (d : Nat) (t : Nat) (x : Tag) : (s.setTag d t x).cells = s.cells := (rfl)
@[simp] theorem setTag_regions (d : Nat) (t : Nat) (x : Tag) : (s.setTag d t x).regions = s.regions := (rfl)
@[simp] theorem setTag_dies (d : Nat) (t : Nat) (x : Tag) : (s.setTag d t x).dies = s.dies := (rfl)
@[simp] theorem setTag_mcs (d : Nat) (t : Nat) (x : Tag) : (s.setTag d t x).mcs = s.mcs := (rfl)
@[simp] theorem setTag_pend13 (d : Nat) (t : Nat) (x : Tag) : (s.setTag d t x).pend13 = s.pend13 := (rfl)
@[simp] theorem setTag_resp (d : Nat) (t : Nat) (x : Tag) : (s.setTag d t x).resp = s.resp := (rfl)
@[simp] theorem setTag_net (d : Nat) (t : Nat) (x : Tag) : (s.setTag d t x).net = s.net := (rfl)
@[simp] theorem setTag_panels (d : Nat) (t : Nat) (x : Tag) : (s.setTag d t x).panels = s.panels := (rfl)
@[simp] theorem setTag_jobs (d : Nat) (t : Nat) (x : Tag) : (s.setTag d t x).jobs = s.jobs := (rfl)
@[simp] theorem setTag_leftRun (d : Nat) (t : Nat) (x : Tag) : (s.setTag d t x).leftRun = s.leftRun := (rfl)
@[simp] theorem setTag_load (d : Nat) (t : Nat) (x : Tag) : (s.setTag d t x).load = s.load := (rfl)
@[simp] theorem setTag_ctxs (d : Nat) (t : Nat) (x : Tag) : (s.setTag d t x).ctxs = s.ctxs := (rfl)
@[simp] theorem setTag_fabQ (d : Nat) (t : Nat) (x : Tag) : (s.setTag d t x).fabQ = s.fabQ := (rfl)
@[simp] theorem setTag_fabWait (d : Nat) (t : Nat) (x : Tag) : (s.setTag d t x).fabWait = s.fabWait := (rfl)
@[simp] theorem setTag_fports (d : Nat) (t : Nat) (x : Tag) : (s.setTag d t x).fports = s.fports := (rfl)
@[simp] theorem setTag_rings (d : Nat) (t : Nat) (x : Tag) : (s.setTag d t x).rings = s.rings := (rfl)
@[simp] theorem setTag_hports (d : Nat) (t : Nat) (x : Tag) : (s.setTag d t x).hports = s.hports := (rfl)
@[simp] theorem setTag_outReads (d : Nat) (t : Nat) (x : Tag) : (s.setTag d t x).outReads = s.outReads := (rfl)
@[simp] theorem setTag_nextId (d : Nat) (t : Nat) (x : Tag) : (s.setTag d t x).nextId = s.nextId := (rfl)
@[simp] theorem setTag_band (d : Nat) (t : Nat) (x : Tag) : (s.setTag d t x).band = s.band := (rfl)
@[simp] theorem setTag_time (d : Nat) (t : Nat) (x : Tag) : (s.setTag d t x).time = s.time := (rfl)
@[simp] theorem setTag_boot (d : Nat) (t : Nat) (x : Tag) : (s.setTag d t x).boot = s.boot := (rfl)
@[simp] theorem setTag_flash (d : Nat) (t : Nat) (x : Tag) : (s.setTag d t x).flash = s.flash := (rfl)
@[simp] theorem setTag_err (d : Nat) (t : Nat) (x : Tag) : (s.setTag d t x).err = s.err := (rfl)
@[simp] theorem setTag_tap (d : Nat) (t : Nat) (x : Tag) : (s.setTag d t x).tap = s.tap := (rfl)
@[simp] theorem setTag_out (d : Nat) (t : Nat) (x : Tag) : (s.setTag d t x).out = s.out := (rfl)
@[simp] theorem setTag_fates (d : Nat) (t : Nat) (x : Tag) : (s.setTag d t x).fates = s.fates := (rfl)
@[simp] theorem setTag_free (d : Nat) (t : Nat) (x : Tag) : (s.setTag d t x).free = s.free := (rfl)
@[simp] theorem setTag_pending (d : Nat) (t : Nat) (x : Tag) : (s.setTag d t x).pending = s.pending := (rfl)
@[simp] theorem setTag_reg (d : Nat) (t : Nat) (x : Tag) (k' : Nat) : (s.setTag d t x).reg k' = s.reg k' := (rfl)
@[simp] theorem setTag_fld (d : Nat) (t : Nat) (x : Tag) (k' : Nat) (lo' : Nat) (w' : Nat) : (s.setTag d t x).fld k' lo' w' = s.fld k' lo' w' := (rfl)
@[simp] theorem setTag_byte (d : Nat) (t : Nat) (x : Tag) (k' : Nat) : (s.setTag d t x).byte k' = s.byte k' := (rfl)
@[simp] theorem setTag_bytes (d : Nat) (t : Nat) (x : Tag) (k' : Nat) (n' : Nat) : (s.setTag d t x).bytes k' n' = s.bytes k' n' := (rfl)
@[simp] theorem setTag_cell (d : Nat) (t : Nat) (x : Tag) (c' : Nat) : (s.setTag d t x).cell c' = s.cell c' := (rfl)
@[simp] theorem setTag_mxe (d : Nat) (t : Nat) (x : Tag) (c' : Nat) : (s.setTag d t x).mxe c' = s.mxe c' := (rfl)
@[simp] theorem setTag_core (d : Nat) (t : Nat) (x : Tag) (c' : Nat) (k' : CoreSel) : (s.setTag d t x).core c' k' = s.core c' k' := (rfl)
@[simp] theorem setTag_region (d : Nat) (t : Nat) (x : Tag) (r' : Nat) : (s.setTag d t x).region r' = s.region r' := (rfl)
@[simp] theorem setTag_die (d : Nat) (t : Nat) (x : Tag) (d' : Nat) : (s.setTag d t x).die d' = s.die d' := (rfl)
@[simp] theorem setTag_mc (d : Nat) (t : Nat) (x : Tag) (d' : Nat) (n' : Nat) : (s.setTag d t x).mc d' n' = s.mc d' n' := (rfl)
@[simp] theorem setTag_ctx (d : Nat) (t : Nat) (x : Tag) (q' : Nat) : (s.setTag d t x).ctx q' = s.ctx q' := (rfl)
@[simp] theorem setTag_fport (d : Nat) (t : Nat) (x : Tag) (d' : Nat) (p' : Nat) : (s.setTag d t x).fport d' p' = s.fport d' p' := (rfl)
@[simp] theorem setTag_ring (d : Nat) (t : Nat) (x : Tag) (p' : Nat) (n' : Nat) : (s.setTag d t x).ring p' n' = s.ring p' n' := (rfl)
@[simp] theorem setTag_hport (d : Nat) (t : Nat) (x : Tag) (p' : Nat) : (s.setTag d t x).hport p' = s.hport p' := (rfl)
@[simp] theorem setTag_now (d : Nat) (t : Nat) (x : Tag) : (s.setTag d t x).now = s.now := (rfl)
@[simp] theorem setTag_facility (d : Nat) (t : Nat) (x : Tag) : (s.setTag d t x).facility = s.facility := (rfl)
@[simp] theorem setTag_job (d : Nat) (t : Nat) (x : Tag) (id' : Nat) : (s.setTag d t x).job? id' = s.job? id' := (rfl)
@[simp] theorem setTag_logicalOf (d : Nat) (t : Nat) (x : Tag) (c' : Nat) : (s.setTag d t x).logicalOf c' = s.logicalOf c' := (rfl)
@[simp] theorem setTag_physicalOf (d : Nat) (t : Nat) (x : Tag) (x' : Nat) (y' : Nat) : (s.setTag d t x).physicalOf x' y' = s.physicalOf x' y' := (rfl)
@[simp] theorem setTag_panelOf (d : Nat) (t : Nat) (x : Tag) (c' : Nat) : (s.setTag d t x).panelOf c' = s.panelOf c' := (rfl)
@[simp] theorem setTag_jobOf (d : Nat) (t : Nat) (x : Tag) (c' : Nat) : (s.setTag d t x).jobOf c' = s.jobOf c' := (rfl)
@[simp] theorem setTag_isHole (d : Nat) (t : Nat) (x : Tag) (c' : Nat) : (s.setTag d t x).isHole c' = s.isHole c' := (rfl)
@[simp] theorem setTag_target (d : Nat) (t : Nat) (x : Tag) (ga' : Nat) : (s.setTag d t x).target ga' = s.target ga' := (rfl)

@[simp] theorem setFport_part (d : Nat) (p : Nat) (x : FPort) : (s.setFport d p x).part = s.part := (rfl)
@[simp] theorem setFport_slot (d : Nat) (p : Nat) (x : FPort) : (s.setFport d p x).slot = s.slot := (rfl)
@[simp] theorem setFport_regs (d : Nat) (p : Nat) (x : FPort) : (s.setFport d p x).regs = s.regs := (rfl)
@[simp] theorem setFport_wrote (d : Nat) (p : Nat) (x : FPort) : (s.setFport d p x).wrote = s.wrote := (rfl)
@[simp] theorem setFport_w1cSet (d : Nat) (p : Nat) (x : FPort) : (s.setFport d p x).w1cSet = s.w1cSet := (rfl)
@[simp] theorem setFport_mem (d : Nat) (p : Nat) (x : FPort) : (s.setFport d p x).mem = s.mem := (rfl)
@[simp] theorem setFport_cells (d : Nat) (p : Nat) (x : FPort) : (s.setFport d p x).cells = s.cells := (rfl)
@[simp] theorem setFport_regions (d : Nat) (p : Nat) (x : FPort) : (s.setFport d p x).regions = s.regions := (rfl)
@[simp] theorem setFport_dies (d : Nat) (p : Nat) (x : FPort) : (s.setFport d p x).dies = s.dies := (rfl)
@[simp] theorem setFport_mcs (d : Nat) (p : Nat) (x : FPort) : (s.setFport d p x).mcs = s.mcs := (rfl)
@[simp] theorem setFport_pend13 (d : Nat) (p : Nat) (x : FPort) : (s.setFport d p x).pend13 = s.pend13 := (rfl)
@[simp] theorem setFport_resp (d : Nat) (p : Nat) (x : FPort) : (s.setFport d p x).resp = s.resp := (rfl)
@[simp] theorem setFport_net (d : Nat) (p : Nat) (x : FPort) : (s.setFport d p x).net = s.net := (rfl)
@[simp] theorem setFport_panels (d : Nat) (p : Nat) (x : FPort) : (s.setFport d p x).panels = s.panels := (rfl)
@[simp] theorem setFport_jobs (d : Nat) (p : Nat) (x : FPort) : (s.setFport d p x).jobs = s.jobs := (rfl)
@[simp] theorem setFport_leftRun (d : Nat) (p : Nat) (x : FPort) : (s.setFport d p x).leftRun = s.leftRun := (rfl)
@[simp] theorem setFport_load (d : Nat) (p : Nat) (x : FPort) : (s.setFport d p x).load = s.load := (rfl)
@[simp] theorem setFport_ctxs (d : Nat) (p : Nat) (x : FPort) : (s.setFport d p x).ctxs = s.ctxs := (rfl)
@[simp] theorem setFport_tags (d : Nat) (p : Nat) (x : FPort) : (s.setFport d p x).tags = s.tags := (rfl)
@[simp] theorem setFport_fabQ (d : Nat) (p : Nat) (x : FPort) : (s.setFport d p x).fabQ = s.fabQ := (rfl)
@[simp] theorem setFport_fabWait (d : Nat) (p : Nat) (x : FPort) : (s.setFport d p x).fabWait = s.fabWait := (rfl)
@[simp] theorem setFport_rings (d : Nat) (p : Nat) (x : FPort) : (s.setFport d p x).rings = s.rings := (rfl)
@[simp] theorem setFport_hports (d : Nat) (p : Nat) (x : FPort) : (s.setFport d p x).hports = s.hports := (rfl)
@[simp] theorem setFport_outReads (d : Nat) (p : Nat) (x : FPort) : (s.setFport d p x).outReads = s.outReads := (rfl)
@[simp] theorem setFport_nextId (d : Nat) (p : Nat) (x : FPort) : (s.setFport d p x).nextId = s.nextId := (rfl)
@[simp] theorem setFport_band (d : Nat) (p : Nat) (x : FPort) : (s.setFport d p x).band = s.band := (rfl)
@[simp] theorem setFport_time (d : Nat) (p : Nat) (x : FPort) : (s.setFport d p x).time = s.time := (rfl)
@[simp] theorem setFport_boot (d : Nat) (p : Nat) (x : FPort) : (s.setFport d p x).boot = s.boot := (rfl)
@[simp] theorem setFport_flash (d : Nat) (p : Nat) (x : FPort) : (s.setFport d p x).flash = s.flash := (rfl)
@[simp] theorem setFport_err (d : Nat) (p : Nat) (x : FPort) : (s.setFport d p x).err = s.err := (rfl)
@[simp] theorem setFport_tap (d : Nat) (p : Nat) (x : FPort) : (s.setFport d p x).tap = s.tap := (rfl)
@[simp] theorem setFport_out (d : Nat) (p : Nat) (x : FPort) : (s.setFport d p x).out = s.out := (rfl)
@[simp] theorem setFport_fates (d : Nat) (p : Nat) (x : FPort) : (s.setFport d p x).fates = s.fates := (rfl)
@[simp] theorem setFport_free (d : Nat) (p : Nat) (x : FPort) : (s.setFport d p x).free = s.free := (rfl)
@[simp] theorem setFport_pending (d : Nat) (p : Nat) (x : FPort) : (s.setFport d p x).pending = s.pending := (rfl)
@[simp] theorem setFport_reg (d : Nat) (p : Nat) (x : FPort) (k' : Nat) : (s.setFport d p x).reg k' = s.reg k' := (rfl)
@[simp] theorem setFport_fld (d : Nat) (p : Nat) (x : FPort) (k' : Nat) (lo' : Nat) (w' : Nat) : (s.setFport d p x).fld k' lo' w' = s.fld k' lo' w' := (rfl)
@[simp] theorem setFport_byte (d : Nat) (p : Nat) (x : FPort) (k' : Nat) : (s.setFport d p x).byte k' = s.byte k' := (rfl)
@[simp] theorem setFport_bytes (d : Nat) (p : Nat) (x : FPort) (k' : Nat) (n' : Nat) : (s.setFport d p x).bytes k' n' = s.bytes k' n' := (rfl)
@[simp] theorem setFport_cell (d : Nat) (p : Nat) (x : FPort) (c' : Nat) : (s.setFport d p x).cell c' = s.cell c' := (rfl)
@[simp] theorem setFport_mxe (d : Nat) (p : Nat) (x : FPort) (c' : Nat) : (s.setFport d p x).mxe c' = s.mxe c' := (rfl)
@[simp] theorem setFport_core (d : Nat) (p : Nat) (x : FPort) (c' : Nat) (k' : CoreSel) : (s.setFport d p x).core c' k' = s.core c' k' := (rfl)
@[simp] theorem setFport_region (d : Nat) (p : Nat) (x : FPort) (r' : Nat) : (s.setFport d p x).region r' = s.region r' := (rfl)
@[simp] theorem setFport_die (d : Nat) (p : Nat) (x : FPort) (d' : Nat) : (s.setFport d p x).die d' = s.die d' := (rfl)
@[simp] theorem setFport_mc (d : Nat) (p : Nat) (x : FPort) (d' : Nat) (n' : Nat) : (s.setFport d p x).mc d' n' = s.mc d' n' := (rfl)
@[simp] theorem setFport_ctx (d : Nat) (p : Nat) (x : FPort) (q' : Nat) : (s.setFport d p x).ctx q' = s.ctx q' := (rfl)
@[simp] theorem setFport_tag (d : Nat) (p : Nat) (x : FPort) (d' : Nat) (t' : Nat) : (s.setFport d p x).tag d' t' = s.tag d' t' := (rfl)
@[simp] theorem setFport_ring (d : Nat) (p : Nat) (x : FPort) (p' : Nat) (n' : Nat) : (s.setFport d p x).ring p' n' = s.ring p' n' := (rfl)
@[simp] theorem setFport_hport (d : Nat) (p : Nat) (x : FPort) (p' : Nat) : (s.setFport d p x).hport p' = s.hport p' := (rfl)
@[simp] theorem setFport_now (d : Nat) (p : Nat) (x : FPort) : (s.setFport d p x).now = s.now := (rfl)
@[simp] theorem setFport_facility (d : Nat) (p : Nat) (x : FPort) : (s.setFport d p x).facility = s.facility := (rfl)
@[simp] theorem setFport_job (d : Nat) (p : Nat) (x : FPort) (id' : Nat) : (s.setFport d p x).job? id' = s.job? id' := (rfl)
@[simp] theorem setFport_logicalOf (d : Nat) (p : Nat) (x : FPort) (c' : Nat) : (s.setFport d p x).logicalOf c' = s.logicalOf c' := (rfl)
@[simp] theorem setFport_physicalOf (d : Nat) (p : Nat) (x : FPort) (x' : Nat) (y' : Nat) : (s.setFport d p x).physicalOf x' y' = s.physicalOf x' y' := (rfl)
@[simp] theorem setFport_panelOf (d : Nat) (p : Nat) (x : FPort) (c' : Nat) : (s.setFport d p x).panelOf c' = s.panelOf c' := (rfl)
@[simp] theorem setFport_jobOf (d : Nat) (p : Nat) (x : FPort) (c' : Nat) : (s.setFport d p x).jobOf c' = s.jobOf c' := (rfl)
@[simp] theorem setFport_isHole (d : Nat) (p : Nat) (x : FPort) (c' : Nat) : (s.setFport d p x).isHole c' = s.isHole c' := (rfl)
@[simp] theorem setFport_target (d : Nat) (p : Nat) (x : FPort) (ga' : Nat) : (s.setFport d p x).target ga' = s.target ga' := (rfl)

@[simp] theorem setRing_part (p : Nat) (n : Nat) (x : Ring) : (s.setRing p n x).part = s.part := (rfl)
@[simp] theorem setRing_slot (p : Nat) (n : Nat) (x : Ring) : (s.setRing p n x).slot = s.slot := (rfl)
@[simp] theorem setRing_regs (p : Nat) (n : Nat) (x : Ring) : (s.setRing p n x).regs = s.regs := (rfl)
@[simp] theorem setRing_wrote (p : Nat) (n : Nat) (x : Ring) : (s.setRing p n x).wrote = s.wrote := (rfl)
@[simp] theorem setRing_w1cSet (p : Nat) (n : Nat) (x : Ring) : (s.setRing p n x).w1cSet = s.w1cSet := (rfl)
@[simp] theorem setRing_mem (p : Nat) (n : Nat) (x : Ring) : (s.setRing p n x).mem = s.mem := (rfl)
@[simp] theorem setRing_cells (p : Nat) (n : Nat) (x : Ring) : (s.setRing p n x).cells = s.cells := (rfl)
@[simp] theorem setRing_regions (p : Nat) (n : Nat) (x : Ring) : (s.setRing p n x).regions = s.regions := (rfl)
@[simp] theorem setRing_dies (p : Nat) (n : Nat) (x : Ring) : (s.setRing p n x).dies = s.dies := (rfl)
@[simp] theorem setRing_mcs (p : Nat) (n : Nat) (x : Ring) : (s.setRing p n x).mcs = s.mcs := (rfl)
@[simp] theorem setRing_pend13 (p : Nat) (n : Nat) (x : Ring) : (s.setRing p n x).pend13 = s.pend13 := (rfl)
@[simp] theorem setRing_resp (p : Nat) (n : Nat) (x : Ring) : (s.setRing p n x).resp = s.resp := (rfl)
@[simp] theorem setRing_net (p : Nat) (n : Nat) (x : Ring) : (s.setRing p n x).net = s.net := (rfl)
@[simp] theorem setRing_panels (p : Nat) (n : Nat) (x : Ring) : (s.setRing p n x).panels = s.panels := (rfl)
@[simp] theorem setRing_jobs (p : Nat) (n : Nat) (x : Ring) : (s.setRing p n x).jobs = s.jobs := (rfl)
@[simp] theorem setRing_leftRun (p : Nat) (n : Nat) (x : Ring) : (s.setRing p n x).leftRun = s.leftRun := (rfl)
@[simp] theorem setRing_load (p : Nat) (n : Nat) (x : Ring) : (s.setRing p n x).load = s.load := (rfl)
@[simp] theorem setRing_ctxs (p : Nat) (n : Nat) (x : Ring) : (s.setRing p n x).ctxs = s.ctxs := (rfl)
@[simp] theorem setRing_tags (p : Nat) (n : Nat) (x : Ring) : (s.setRing p n x).tags = s.tags := (rfl)
@[simp] theorem setRing_fabQ (p : Nat) (n : Nat) (x : Ring) : (s.setRing p n x).fabQ = s.fabQ := (rfl)
@[simp] theorem setRing_fabWait (p : Nat) (n : Nat) (x : Ring) : (s.setRing p n x).fabWait = s.fabWait := (rfl)
@[simp] theorem setRing_fports (p : Nat) (n : Nat) (x : Ring) : (s.setRing p n x).fports = s.fports := (rfl)
@[simp] theorem setRing_hports (p : Nat) (n : Nat) (x : Ring) : (s.setRing p n x).hports = s.hports := (rfl)
@[simp] theorem setRing_outReads (p : Nat) (n : Nat) (x : Ring) : (s.setRing p n x).outReads = s.outReads := (rfl)
@[simp] theorem setRing_nextId (p : Nat) (n : Nat) (x : Ring) : (s.setRing p n x).nextId = s.nextId := (rfl)
@[simp] theorem setRing_band (p : Nat) (n : Nat) (x : Ring) : (s.setRing p n x).band = s.band := (rfl)
@[simp] theorem setRing_time (p : Nat) (n : Nat) (x : Ring) : (s.setRing p n x).time = s.time := (rfl)
@[simp] theorem setRing_boot (p : Nat) (n : Nat) (x : Ring) : (s.setRing p n x).boot = s.boot := (rfl)
@[simp] theorem setRing_flash (p : Nat) (n : Nat) (x : Ring) : (s.setRing p n x).flash = s.flash := (rfl)
@[simp] theorem setRing_err (p : Nat) (n : Nat) (x : Ring) : (s.setRing p n x).err = s.err := (rfl)
@[simp] theorem setRing_tap (p : Nat) (n : Nat) (x : Ring) : (s.setRing p n x).tap = s.tap := (rfl)
@[simp] theorem setRing_out (p : Nat) (n : Nat) (x : Ring) : (s.setRing p n x).out = s.out := (rfl)
@[simp] theorem setRing_fates (p : Nat) (n : Nat) (x : Ring) : (s.setRing p n x).fates = s.fates := (rfl)
@[simp] theorem setRing_free (p : Nat) (n : Nat) (x : Ring) : (s.setRing p n x).free = s.free := (rfl)
@[simp] theorem setRing_pending (p : Nat) (n : Nat) (x : Ring) : (s.setRing p n x).pending = s.pending := (rfl)
@[simp] theorem setRing_reg (p : Nat) (n : Nat) (x : Ring) (k' : Nat) : (s.setRing p n x).reg k' = s.reg k' := (rfl)
@[simp] theorem setRing_fld (p : Nat) (n : Nat) (x : Ring) (k' : Nat) (lo' : Nat) (w' : Nat) : (s.setRing p n x).fld k' lo' w' = s.fld k' lo' w' := (rfl)
@[simp] theorem setRing_byte (p : Nat) (n : Nat) (x : Ring) (k' : Nat) : (s.setRing p n x).byte k' = s.byte k' := (rfl)
@[simp] theorem setRing_bytes (p : Nat) (n : Nat) (x : Ring) (k' : Nat) (n' : Nat) : (s.setRing p n x).bytes k' n' = s.bytes k' n' := (rfl)
@[simp] theorem setRing_cell (p : Nat) (n : Nat) (x : Ring) (c' : Nat) : (s.setRing p n x).cell c' = s.cell c' := (rfl)
@[simp] theorem setRing_mxe (p : Nat) (n : Nat) (x : Ring) (c' : Nat) : (s.setRing p n x).mxe c' = s.mxe c' := (rfl)
@[simp] theorem setRing_core (p : Nat) (n : Nat) (x : Ring) (c' : Nat) (k' : CoreSel) : (s.setRing p n x).core c' k' = s.core c' k' := (rfl)
@[simp] theorem setRing_region (p : Nat) (n : Nat) (x : Ring) (r' : Nat) : (s.setRing p n x).region r' = s.region r' := (rfl)
@[simp] theorem setRing_die (p : Nat) (n : Nat) (x : Ring) (d' : Nat) : (s.setRing p n x).die d' = s.die d' := (rfl)
@[simp] theorem setRing_mc (p : Nat) (n : Nat) (x : Ring) (d' : Nat) (n' : Nat) : (s.setRing p n x).mc d' n' = s.mc d' n' := (rfl)
@[simp] theorem setRing_ctx (p : Nat) (n : Nat) (x : Ring) (q' : Nat) : (s.setRing p n x).ctx q' = s.ctx q' := (rfl)
@[simp] theorem setRing_tag (p : Nat) (n : Nat) (x : Ring) (d' : Nat) (t' : Nat) : (s.setRing p n x).tag d' t' = s.tag d' t' := (rfl)
@[simp] theorem setRing_fport (p : Nat) (n : Nat) (x : Ring) (d' : Nat) (p' : Nat) : (s.setRing p n x).fport d' p' = s.fport d' p' := (rfl)
@[simp] theorem setRing_hport (p : Nat) (n : Nat) (x : Ring) (p' : Nat) : (s.setRing p n x).hport p' = s.hport p' := (rfl)
@[simp] theorem setRing_now (p : Nat) (n : Nat) (x : Ring) : (s.setRing p n x).now = s.now := (rfl)
@[simp] theorem setRing_facility (p : Nat) (n : Nat) (x : Ring) : (s.setRing p n x).facility = s.facility := (rfl)
@[simp] theorem setRing_job (p : Nat) (n : Nat) (x : Ring) (id' : Nat) : (s.setRing p n x).job? id' = s.job? id' := (rfl)
@[simp] theorem setRing_logicalOf (p : Nat) (n : Nat) (x : Ring) (c' : Nat) : (s.setRing p n x).logicalOf c' = s.logicalOf c' := (rfl)
@[simp] theorem setRing_physicalOf (p : Nat) (n : Nat) (x : Ring) (x' : Nat) (y' : Nat) : (s.setRing p n x).physicalOf x' y' = s.physicalOf x' y' := (rfl)
@[simp] theorem setRing_panelOf (p : Nat) (n : Nat) (x : Ring) (c' : Nat) : (s.setRing p n x).panelOf c' = s.panelOf c' := (rfl)
@[simp] theorem setRing_jobOf (p : Nat) (n : Nat) (x : Ring) (c' : Nat) : (s.setRing p n x).jobOf c' = s.jobOf c' := (rfl)
@[simp] theorem setRing_isHole (p : Nat) (n : Nat) (x : Ring) (c' : Nat) : (s.setRing p n x).isHole c' = s.isHole c' := (rfl)
@[simp] theorem setRing_target (p : Nat) (n : Nat) (x : Ring) (ga' : Nat) : (s.setRing p n x).target ga' = s.target ga' := (rfl)

@[simp] theorem setHport_part (p : Nat) (x : HPort) : (s.setHport p x).part = s.part := (rfl)
@[simp] theorem setHport_slot (p : Nat) (x : HPort) : (s.setHport p x).slot = s.slot := (rfl)
@[simp] theorem setHport_regs (p : Nat) (x : HPort) : (s.setHport p x).regs = s.regs := (rfl)
@[simp] theorem setHport_wrote (p : Nat) (x : HPort) : (s.setHport p x).wrote = s.wrote := (rfl)
@[simp] theorem setHport_w1cSet (p : Nat) (x : HPort) : (s.setHport p x).w1cSet = s.w1cSet := (rfl)
@[simp] theorem setHport_mem (p : Nat) (x : HPort) : (s.setHport p x).mem = s.mem := (rfl)
@[simp] theorem setHport_cells (p : Nat) (x : HPort) : (s.setHport p x).cells = s.cells := (rfl)
@[simp] theorem setHport_regions (p : Nat) (x : HPort) : (s.setHport p x).regions = s.regions := (rfl)
@[simp] theorem setHport_dies (p : Nat) (x : HPort) : (s.setHport p x).dies = s.dies := (rfl)
@[simp] theorem setHport_mcs (p : Nat) (x : HPort) : (s.setHport p x).mcs = s.mcs := (rfl)
@[simp] theorem setHport_pend13 (p : Nat) (x : HPort) : (s.setHport p x).pend13 = s.pend13 := (rfl)
@[simp] theorem setHport_resp (p : Nat) (x : HPort) : (s.setHport p x).resp = s.resp := (rfl)
@[simp] theorem setHport_net (p : Nat) (x : HPort) : (s.setHport p x).net = s.net := (rfl)
@[simp] theorem setHport_panels (p : Nat) (x : HPort) : (s.setHport p x).panels = s.panels := (rfl)
@[simp] theorem setHport_jobs (p : Nat) (x : HPort) : (s.setHport p x).jobs = s.jobs := (rfl)
@[simp] theorem setHport_leftRun (p : Nat) (x : HPort) : (s.setHport p x).leftRun = s.leftRun := (rfl)
@[simp] theorem setHport_load (p : Nat) (x : HPort) : (s.setHport p x).load = s.load := (rfl)
@[simp] theorem setHport_ctxs (p : Nat) (x : HPort) : (s.setHport p x).ctxs = s.ctxs := (rfl)
@[simp] theorem setHport_tags (p : Nat) (x : HPort) : (s.setHport p x).tags = s.tags := (rfl)
@[simp] theorem setHport_fabQ (p : Nat) (x : HPort) : (s.setHport p x).fabQ = s.fabQ := (rfl)
@[simp] theorem setHport_fabWait (p : Nat) (x : HPort) : (s.setHport p x).fabWait = s.fabWait := (rfl)
@[simp] theorem setHport_fports (p : Nat) (x : HPort) : (s.setHport p x).fports = s.fports := (rfl)
@[simp] theorem setHport_rings (p : Nat) (x : HPort) : (s.setHport p x).rings = s.rings := (rfl)
@[simp] theorem setHport_outReads (p : Nat) (x : HPort) : (s.setHport p x).outReads = s.outReads := (rfl)
@[simp] theorem setHport_nextId (p : Nat) (x : HPort) : (s.setHport p x).nextId = s.nextId := (rfl)
@[simp] theorem setHport_band (p : Nat) (x : HPort) : (s.setHport p x).band = s.band := (rfl)
@[simp] theorem setHport_time (p : Nat) (x : HPort) : (s.setHport p x).time = s.time := (rfl)
@[simp] theorem setHport_boot (p : Nat) (x : HPort) : (s.setHport p x).boot = s.boot := (rfl)
@[simp] theorem setHport_flash (p : Nat) (x : HPort) : (s.setHport p x).flash = s.flash := (rfl)
@[simp] theorem setHport_err (p : Nat) (x : HPort) : (s.setHport p x).err = s.err := (rfl)
@[simp] theorem setHport_tap (p : Nat) (x : HPort) : (s.setHport p x).tap = s.tap := (rfl)
@[simp] theorem setHport_out (p : Nat) (x : HPort) : (s.setHport p x).out = s.out := (rfl)
@[simp] theorem setHport_fates (p : Nat) (x : HPort) : (s.setHport p x).fates = s.fates := (rfl)
@[simp] theorem setHport_free (p : Nat) (x : HPort) : (s.setHport p x).free = s.free := (rfl)
@[simp] theorem setHport_pending (p : Nat) (x : HPort) : (s.setHport p x).pending = s.pending := (rfl)
@[simp] theorem setHport_reg (p : Nat) (x : HPort) (k' : Nat) : (s.setHport p x).reg k' = s.reg k' := (rfl)
@[simp] theorem setHport_fld (p : Nat) (x : HPort) (k' : Nat) (lo' : Nat) (w' : Nat) : (s.setHport p x).fld k' lo' w' = s.fld k' lo' w' := (rfl)
@[simp] theorem setHport_byte (p : Nat) (x : HPort) (k' : Nat) : (s.setHport p x).byte k' = s.byte k' := (rfl)
@[simp] theorem setHport_bytes (p : Nat) (x : HPort) (k' : Nat) (n' : Nat) : (s.setHport p x).bytes k' n' = s.bytes k' n' := (rfl)
@[simp] theorem setHport_cell (p : Nat) (x : HPort) (c' : Nat) : (s.setHport p x).cell c' = s.cell c' := (rfl)
@[simp] theorem setHport_mxe (p : Nat) (x : HPort) (c' : Nat) : (s.setHport p x).mxe c' = s.mxe c' := (rfl)
@[simp] theorem setHport_core (p : Nat) (x : HPort) (c' : Nat) (k' : CoreSel) : (s.setHport p x).core c' k' = s.core c' k' := (rfl)
@[simp] theorem setHport_region (p : Nat) (x : HPort) (r' : Nat) : (s.setHport p x).region r' = s.region r' := (rfl)
@[simp] theorem setHport_die (p : Nat) (x : HPort) (d' : Nat) : (s.setHport p x).die d' = s.die d' := (rfl)
@[simp] theorem setHport_mc (p : Nat) (x : HPort) (d' : Nat) (n' : Nat) : (s.setHport p x).mc d' n' = s.mc d' n' := (rfl)
@[simp] theorem setHport_ctx (p : Nat) (x : HPort) (q' : Nat) : (s.setHport p x).ctx q' = s.ctx q' := (rfl)
@[simp] theorem setHport_tag (p : Nat) (x : HPort) (d' : Nat) (t' : Nat) : (s.setHport p x).tag d' t' = s.tag d' t' := (rfl)
@[simp] theorem setHport_fport (p : Nat) (x : HPort) (d' : Nat) (p' : Nat) : (s.setHport p x).fport d' p' = s.fport d' p' := (rfl)
@[simp] theorem setHport_ring (p : Nat) (x : HPort) (p' : Nat) (n' : Nat) : (s.setHport p x).ring p' n' = s.ring p' n' := (rfl)
@[simp] theorem setHport_now (p : Nat) (x : HPort) : (s.setHport p x).now = s.now := (rfl)
@[simp] theorem setHport_facility (p : Nat) (x : HPort) : (s.setHport p x).facility = s.facility := (rfl)
@[simp] theorem setHport_job (p : Nat) (x : HPort) (id' : Nat) : (s.setHport p x).job? id' = s.job? id' := (rfl)
@[simp] theorem setHport_logicalOf (p : Nat) (x : HPort) (c' : Nat) : (s.setHport p x).logicalOf c' = s.logicalOf c' := (rfl)
@[simp] theorem setHport_physicalOf (p : Nat) (x : HPort) (x' : Nat) (y' : Nat) : (s.setHport p x).physicalOf x' y' = s.physicalOf x' y' := (rfl)
@[simp] theorem setHport_panelOf (p : Nat) (x : HPort) (c' : Nat) : (s.setHport p x).panelOf c' = s.panelOf c' := (rfl)
@[simp] theorem setHport_jobOf (p : Nat) (x : HPort) (c' : Nat) : (s.setHport p x).jobOf c' = s.jobOf c' := (rfl)
@[simp] theorem setHport_isHole (p : Nat) (x : HPort) (c' : Nat) : (s.setHport p x).isHole c' = s.isHole c' := (rfl)
@[simp] theorem setHport_target (p : Nat) (x : HPort) (ga' : Nat) : (s.setHport p x).target ga' = s.target ga' := (rfl)

@[simp] theorem setMxe_part (c : Nat) (m : Mxe) : (s.setMxe c m).part = s.part := (rfl)
@[simp] theorem setMxe_slot (c : Nat) (m : Mxe) : (s.setMxe c m).slot = s.slot := (rfl)
@[simp] theorem setMxe_regs (c : Nat) (m : Mxe) : (s.setMxe c m).regs = s.regs := (rfl)
@[simp] theorem setMxe_wrote (c : Nat) (m : Mxe) : (s.setMxe c m).wrote = s.wrote := (rfl)
@[simp] theorem setMxe_w1cSet (c : Nat) (m : Mxe) : (s.setMxe c m).w1cSet = s.w1cSet := (rfl)
@[simp] theorem setMxe_mem (c : Nat) (m : Mxe) : (s.setMxe c m).mem = s.mem := (rfl)
@[simp] theorem setMxe_regions (c : Nat) (m : Mxe) : (s.setMxe c m).regions = s.regions := (rfl)
@[simp] theorem setMxe_dies (c : Nat) (m : Mxe) : (s.setMxe c m).dies = s.dies := (rfl)
@[simp] theorem setMxe_mcs (c : Nat) (m : Mxe) : (s.setMxe c m).mcs = s.mcs := (rfl)
@[simp] theorem setMxe_pend13 (c : Nat) (m : Mxe) : (s.setMxe c m).pend13 = s.pend13 := (rfl)
@[simp] theorem setMxe_resp (c : Nat) (m : Mxe) : (s.setMxe c m).resp = s.resp := (rfl)
@[simp] theorem setMxe_net (c : Nat) (m : Mxe) : (s.setMxe c m).net = s.net := (rfl)
@[simp] theorem setMxe_panels (c : Nat) (m : Mxe) : (s.setMxe c m).panels = s.panels := (rfl)
@[simp] theorem setMxe_jobs (c : Nat) (m : Mxe) : (s.setMxe c m).jobs = s.jobs := (rfl)
@[simp] theorem setMxe_leftRun (c : Nat) (m : Mxe) : (s.setMxe c m).leftRun = s.leftRun := (rfl)
@[simp] theorem setMxe_load (c : Nat) (m : Mxe) : (s.setMxe c m).load = s.load := (rfl)
@[simp] theorem setMxe_ctxs (c : Nat) (m : Mxe) : (s.setMxe c m).ctxs = s.ctxs := (rfl)
@[simp] theorem setMxe_tags (c : Nat) (m : Mxe) : (s.setMxe c m).tags = s.tags := (rfl)
@[simp] theorem setMxe_fabQ (c : Nat) (m : Mxe) : (s.setMxe c m).fabQ = s.fabQ := (rfl)
@[simp] theorem setMxe_fabWait (c : Nat) (m : Mxe) : (s.setMxe c m).fabWait = s.fabWait := (rfl)
@[simp] theorem setMxe_fports (c : Nat) (m : Mxe) : (s.setMxe c m).fports = s.fports := (rfl)
@[simp] theorem setMxe_rings (c : Nat) (m : Mxe) : (s.setMxe c m).rings = s.rings := (rfl)
@[simp] theorem setMxe_hports (c : Nat) (m : Mxe) : (s.setMxe c m).hports = s.hports := (rfl)
@[simp] theorem setMxe_outReads (c : Nat) (m : Mxe) : (s.setMxe c m).outReads = s.outReads := (rfl)
@[simp] theorem setMxe_nextId (c : Nat) (m : Mxe) : (s.setMxe c m).nextId = s.nextId := (rfl)
@[simp] theorem setMxe_band (c : Nat) (m : Mxe) : (s.setMxe c m).band = s.band := (rfl)
@[simp] theorem setMxe_time (c : Nat) (m : Mxe) : (s.setMxe c m).time = s.time := (rfl)
@[simp] theorem setMxe_boot (c : Nat) (m : Mxe) : (s.setMxe c m).boot = s.boot := (rfl)
@[simp] theorem setMxe_flash (c : Nat) (m : Mxe) : (s.setMxe c m).flash = s.flash := (rfl)
@[simp] theorem setMxe_err (c : Nat) (m : Mxe) : (s.setMxe c m).err = s.err := (rfl)
@[simp] theorem setMxe_tap (c : Nat) (m : Mxe) : (s.setMxe c m).tap = s.tap := (rfl)
@[simp] theorem setMxe_out (c : Nat) (m : Mxe) : (s.setMxe c m).out = s.out := (rfl)
@[simp] theorem setMxe_fates (c : Nat) (m : Mxe) : (s.setMxe c m).fates = s.fates := (rfl)
@[simp] theorem setMxe_free (c : Nat) (m : Mxe) : (s.setMxe c m).free = s.free := (rfl)
@[simp] theorem setMxe_pending (c : Nat) (m : Mxe) : (s.setMxe c m).pending = s.pending := (rfl)
@[simp] theorem setMxe_reg (c : Nat) (m : Mxe) (k' : Nat) : (s.setMxe c m).reg k' = s.reg k' := (rfl)
@[simp] theorem setMxe_fld (c : Nat) (m : Mxe) (k' : Nat) (lo' : Nat) (w' : Nat) : (s.setMxe c m).fld k' lo' w' = s.fld k' lo' w' := (rfl)
@[simp] theorem setMxe_byte (c : Nat) (m : Mxe) (k' : Nat) : (s.setMxe c m).byte k' = s.byte k' := (rfl)
@[simp] theorem setMxe_bytes (c : Nat) (m : Mxe) (k' : Nat) (n' : Nat) : (s.setMxe c m).bytes k' n' = s.bytes k' n' := (rfl)
@[simp] theorem setMxe_region (c : Nat) (m : Mxe) (r' : Nat) : (s.setMxe c m).region r' = s.region r' := (rfl)
@[simp] theorem setMxe_die (c : Nat) (m : Mxe) (d' : Nat) : (s.setMxe c m).die d' = s.die d' := (rfl)
@[simp] theorem setMxe_mc (c : Nat) (m : Mxe) (d' : Nat) (n' : Nat) : (s.setMxe c m).mc d' n' = s.mc d' n' := (rfl)
@[simp] theorem setMxe_ctx (c : Nat) (m : Mxe) (q' : Nat) : (s.setMxe c m).ctx q' = s.ctx q' := (rfl)
@[simp] theorem setMxe_tag (c : Nat) (m : Mxe) (d' : Nat) (t' : Nat) : (s.setMxe c m).tag d' t' = s.tag d' t' := (rfl)
@[simp] theorem setMxe_fport (c : Nat) (m : Mxe) (d' : Nat) (p' : Nat) : (s.setMxe c m).fport d' p' = s.fport d' p' := (rfl)
@[simp] theorem setMxe_ring (c : Nat) (m : Mxe) (p' : Nat) (n' : Nat) : (s.setMxe c m).ring p' n' = s.ring p' n' := (rfl)
@[simp] theorem setMxe_hport (c : Nat) (m : Mxe) (p' : Nat) : (s.setMxe c m).hport p' = s.hport p' := (rfl)
@[simp] theorem setMxe_now (c : Nat) (m : Mxe) : (s.setMxe c m).now = s.now := (rfl)
@[simp] theorem setMxe_facility (c : Nat) (m : Mxe) : (s.setMxe c m).facility = s.facility := (rfl)
@[simp] theorem setMxe_job (c : Nat) (m : Mxe) (id' : Nat) : (s.setMxe c m).job? id' = s.job? id' := (rfl)
@[simp] theorem setMxe_logicalOf (c : Nat) (m : Mxe) (c' : Nat) : (s.setMxe c m).logicalOf c' = s.logicalOf c' := (rfl)
@[simp] theorem setMxe_physicalOf (c : Nat) (m : Mxe) (x' : Nat) (y' : Nat) : (s.setMxe c m).physicalOf x' y' = s.physicalOf x' y' := (rfl)
@[simp] theorem setMxe_panelOf (c : Nat) (m : Mxe) (c' : Nat) : (s.setMxe c m).panelOf c' = s.panelOf c' := (rfl)
@[simp] theorem setMxe_jobOf (c : Nat) (m : Mxe) (c' : Nat) : (s.setMxe c m).jobOf c' = s.jobOf c' := (rfl)
@[simp] theorem setMxe_isHole (c : Nat) (m : Mxe) (c' : Nat) : (s.setMxe c m).isHole c' = s.isHole c' := (rfl)
@[simp] theorem setMxe_target (c : Nat) (m : Mxe) (ga' : Nat) : (s.setMxe c m).target ga' = s.target ga' := (rfl)

@[simp] theorem setCore_part (c : Nat) (k : CoreSel) (x : CoreSt) : (s.setCore c k x).part = s.part := by cases k <;> rfl
@[simp] theorem setCore_slot (c : Nat) (k : CoreSel) (x : CoreSt) : (s.setCore c k x).slot = s.slot := by cases k <;> rfl
@[simp] theorem setCore_regs (c : Nat) (k : CoreSel) (x : CoreSt) : (s.setCore c k x).regs = s.regs := by cases k <;> rfl
@[simp] theorem setCore_wrote (c : Nat) (k : CoreSel) (x : CoreSt) : (s.setCore c k x).wrote = s.wrote := by cases k <;> rfl
@[simp] theorem setCore_w1cSet (c : Nat) (k : CoreSel) (x : CoreSt) : (s.setCore c k x).w1cSet = s.w1cSet := by cases k <;> rfl
@[simp] theorem setCore_mem (c : Nat) (k : CoreSel) (x : CoreSt) : (s.setCore c k x).mem = s.mem := by cases k <;> rfl
@[simp] theorem setCore_regions (c : Nat) (k : CoreSel) (x : CoreSt) : (s.setCore c k x).regions = s.regions := by cases k <;> rfl
@[simp] theorem setCore_dies (c : Nat) (k : CoreSel) (x : CoreSt) : (s.setCore c k x).dies = s.dies := by cases k <;> rfl
@[simp] theorem setCore_mcs (c : Nat) (k : CoreSel) (x : CoreSt) : (s.setCore c k x).mcs = s.mcs := by cases k <;> rfl
@[simp] theorem setCore_pend13 (c : Nat) (k : CoreSel) (x : CoreSt) : (s.setCore c k x).pend13 = s.pend13 := by cases k <;> rfl
@[simp] theorem setCore_resp (c : Nat) (k : CoreSel) (x : CoreSt) : (s.setCore c k x).resp = s.resp := by cases k <;> rfl
@[simp] theorem setCore_net (c : Nat) (k : CoreSel) (x : CoreSt) : (s.setCore c k x).net = s.net := by cases k <;> rfl
@[simp] theorem setCore_panels (c : Nat) (k : CoreSel) (x : CoreSt) : (s.setCore c k x).panels = s.panels := by cases k <;> rfl
@[simp] theorem setCore_jobs (c : Nat) (k : CoreSel) (x : CoreSt) : (s.setCore c k x).jobs = s.jobs := by cases k <;> rfl
@[simp] theorem setCore_leftRun (c : Nat) (k : CoreSel) (x : CoreSt) : (s.setCore c k x).leftRun = s.leftRun := by cases k <;> rfl
@[simp] theorem setCore_load (c : Nat) (k : CoreSel) (x : CoreSt) : (s.setCore c k x).load = s.load := by cases k <;> rfl
@[simp] theorem setCore_ctxs (c : Nat) (k : CoreSel) (x : CoreSt) : (s.setCore c k x).ctxs = s.ctxs := by cases k <;> rfl
@[simp] theorem setCore_tags (c : Nat) (k : CoreSel) (x : CoreSt) : (s.setCore c k x).tags = s.tags := by cases k <;> rfl
@[simp] theorem setCore_fabQ (c : Nat) (k : CoreSel) (x : CoreSt) : (s.setCore c k x).fabQ = s.fabQ := by cases k <;> rfl
@[simp] theorem setCore_fabWait (c : Nat) (k : CoreSel) (x : CoreSt) : (s.setCore c k x).fabWait = s.fabWait := by cases k <;> rfl
@[simp] theorem setCore_fports (c : Nat) (k : CoreSel) (x : CoreSt) : (s.setCore c k x).fports = s.fports := by cases k <;> rfl
@[simp] theorem setCore_rings (c : Nat) (k : CoreSel) (x : CoreSt) : (s.setCore c k x).rings = s.rings := by cases k <;> rfl
@[simp] theorem setCore_hports (c : Nat) (k : CoreSel) (x : CoreSt) : (s.setCore c k x).hports = s.hports := by cases k <;> rfl
@[simp] theorem setCore_outReads (c : Nat) (k : CoreSel) (x : CoreSt) : (s.setCore c k x).outReads = s.outReads := by cases k <;> rfl
@[simp] theorem setCore_nextId (c : Nat) (k : CoreSel) (x : CoreSt) : (s.setCore c k x).nextId = s.nextId := by cases k <;> rfl
@[simp] theorem setCore_band (c : Nat) (k : CoreSel) (x : CoreSt) : (s.setCore c k x).band = s.band := by cases k <;> rfl
@[simp] theorem setCore_time (c : Nat) (k : CoreSel) (x : CoreSt) : (s.setCore c k x).time = s.time := by cases k <;> rfl
@[simp] theorem setCore_boot (c : Nat) (k : CoreSel) (x : CoreSt) : (s.setCore c k x).boot = s.boot := by cases k <;> rfl
@[simp] theorem setCore_flash (c : Nat) (k : CoreSel) (x : CoreSt) : (s.setCore c k x).flash = s.flash := by cases k <;> rfl
@[simp] theorem setCore_err (c : Nat) (k : CoreSel) (x : CoreSt) : (s.setCore c k x).err = s.err := by cases k <;> rfl
@[simp] theorem setCore_tap (c : Nat) (k : CoreSel) (x : CoreSt) : (s.setCore c k x).tap = s.tap := by cases k <;> rfl
@[simp] theorem setCore_out (c : Nat) (k : CoreSel) (x : CoreSt) : (s.setCore c k x).out = s.out := by cases k <;> rfl
@[simp] theorem setCore_fates (c : Nat) (k : CoreSel) (x : CoreSt) : (s.setCore c k x).fates = s.fates := by cases k <;> rfl
@[simp] theorem setCore_free (c : Nat) (k : CoreSel) (x : CoreSt) : (s.setCore c k x).free = s.free := by cases k <;> rfl
@[simp] theorem setCore_pending (c : Nat) (k : CoreSel) (x : CoreSt) : (s.setCore c k x).pending = s.pending := by cases k <;> rfl
@[simp] theorem setCore_reg (c : Nat) (k : CoreSel) (x : CoreSt) (k' : Nat) : (s.setCore c k x).reg k' = s.reg k' := by cases k <;> rfl
@[simp] theorem setCore_fld (c : Nat) (k : CoreSel) (x : CoreSt) (k' : Nat) (lo' : Nat) (w' : Nat) : (s.setCore c k x).fld k' lo' w' = s.fld k' lo' w' := by cases k <;> rfl
@[simp] theorem setCore_byte (c : Nat) (k : CoreSel) (x : CoreSt) (k' : Nat) : (s.setCore c k x).byte k' = s.byte k' := by cases k <;> rfl
@[simp] theorem setCore_bytes (c : Nat) (k : CoreSel) (x : CoreSt) (k' : Nat) (n' : Nat) : (s.setCore c k x).bytes k' n' = s.bytes k' n' := by cases k <;> rfl
@[simp] theorem setCore_region (c : Nat) (k : CoreSel) (x : CoreSt) (r' : Nat) : (s.setCore c k x).region r' = s.region r' := by cases k <;> rfl
@[simp] theorem setCore_die (c : Nat) (k : CoreSel) (x : CoreSt) (d' : Nat) : (s.setCore c k x).die d' = s.die d' := by cases k <;> rfl
@[simp] theorem setCore_mc (c : Nat) (k : CoreSel) (x : CoreSt) (d' : Nat) (n' : Nat) : (s.setCore c k x).mc d' n' = s.mc d' n' := by cases k <;> rfl
@[simp] theorem setCore_ctx (c : Nat) (k : CoreSel) (x : CoreSt) (q' : Nat) : (s.setCore c k x).ctx q' = s.ctx q' := by cases k <;> rfl
@[simp] theorem setCore_tag (c : Nat) (k : CoreSel) (x : CoreSt) (d' : Nat) (t' : Nat) : (s.setCore c k x).tag d' t' = s.tag d' t' := by cases k <;> rfl
@[simp] theorem setCore_fport (c : Nat) (k : CoreSel) (x : CoreSt) (d' : Nat) (p' : Nat) : (s.setCore c k x).fport d' p' = s.fport d' p' := by cases k <;> rfl
@[simp] theorem setCore_ring (c : Nat) (k : CoreSel) (x : CoreSt) (p' : Nat) (n' : Nat) : (s.setCore c k x).ring p' n' = s.ring p' n' := by cases k <;> rfl
@[simp] theorem setCore_hport (c : Nat) (k : CoreSel) (x : CoreSt) (p' : Nat) : (s.setCore c k x).hport p' = s.hport p' := by cases k <;> rfl
@[simp] theorem setCore_now (c : Nat) (k : CoreSel) (x : CoreSt) : (s.setCore c k x).now = s.now := by cases k <;> rfl
@[simp] theorem setCore_facility (c : Nat) (k : CoreSel) (x : CoreSt) : (s.setCore c k x).facility = s.facility := by cases k <;> rfl
@[simp] theorem setCore_job (c : Nat) (k : CoreSel) (x : CoreSt) (id' : Nat) : (s.setCore c k x).job? id' = s.job? id' := by cases k <;> rfl
@[simp] theorem setCore_logicalOf (c : Nat) (k : CoreSel) (x : CoreSt) (c' : Nat) : (s.setCore c k x).logicalOf c' = s.logicalOf c' := by cases k <;> rfl
@[simp] theorem setCore_physicalOf (c : Nat) (k : CoreSel) (x : CoreSt) (x' : Nat) (y' : Nat) : (s.setCore c k x).physicalOf x' y' = s.physicalOf x' y' := by cases k <;> rfl
@[simp] theorem setCore_panelOf (c : Nat) (k : CoreSel) (x : CoreSt) (c' : Nat) : (s.setCore c k x).panelOf c' = s.panelOf c' := by cases k <;> rfl
@[simp] theorem setCore_jobOf (c : Nat) (k : CoreSel) (x : CoreSt) (c' : Nat) : (s.setCore c k x).jobOf c' = s.jobOf c' := by cases k <;> rfl
@[simp] theorem setCore_isHole (c : Nat) (k : CoreSel) (x : CoreSt) (c' : Nat) : (s.setCore c k x).isHole c' = s.isHole c' := by cases k <;> rfl
@[simp] theorem setCore_target (c : Nat) (k : CoreSel) (x : CoreSt) (ga' : Nat) : (s.setCore c k x).target ga' = s.target ga' := by cases k <;> rfl

@[simp] theorem act_part (c : Nat) (i : Nat) (n : Nat) : (s.act c i n).part = s.part := (rfl)
@[simp] theorem act_slot (c : Nat) (i : Nat) (n : Nat) : (s.act c i n).slot = s.slot := (rfl)
@[simp] theorem act_regs (c : Nat) (i : Nat) (n : Nat) : (s.act c i n).regs = s.regs := (rfl)
@[simp] theorem act_wrote (c : Nat) (i : Nat) (n : Nat) : (s.act c i n).wrote = s.wrote := (rfl)
@[simp] theorem act_w1cSet (c : Nat) (i : Nat) (n : Nat) : (s.act c i n).w1cSet = s.w1cSet := (rfl)
@[simp] theorem act_mem (c : Nat) (i : Nat) (n : Nat) : (s.act c i n).mem = s.mem := (rfl)
@[simp] theorem act_cells (c : Nat) (i : Nat) (n : Nat) : (s.act c i n).cells = s.cells := (rfl)
@[simp] theorem act_dies (c : Nat) (i : Nat) (n : Nat) : (s.act c i n).dies = s.dies := (rfl)
@[simp] theorem act_mcs (c : Nat) (i : Nat) (n : Nat) : (s.act c i n).mcs = s.mcs := (rfl)
@[simp] theorem act_pend13 (c : Nat) (i : Nat) (n : Nat) : (s.act c i n).pend13 = s.pend13 := (rfl)
@[simp] theorem act_resp (c : Nat) (i : Nat) (n : Nat) : (s.act c i n).resp = s.resp := (rfl)
@[simp] theorem act_net (c : Nat) (i : Nat) (n : Nat) : (s.act c i n).net = s.net := (rfl)
@[simp] theorem act_panels (c : Nat) (i : Nat) (n : Nat) : (s.act c i n).panels = s.panels := (rfl)
@[simp] theorem act_jobs (c : Nat) (i : Nat) (n : Nat) : (s.act c i n).jobs = s.jobs := (rfl)
@[simp] theorem act_leftRun (c : Nat) (i : Nat) (n : Nat) : (s.act c i n).leftRun = s.leftRun := (rfl)
@[simp] theorem act_load (c : Nat) (i : Nat) (n : Nat) : (s.act c i n).load = s.load := (rfl)
@[simp] theorem act_ctxs (c : Nat) (i : Nat) (n : Nat) : (s.act c i n).ctxs = s.ctxs := (rfl)
@[simp] theorem act_tags (c : Nat) (i : Nat) (n : Nat) : (s.act c i n).tags = s.tags := (rfl)
@[simp] theorem act_fabQ (c : Nat) (i : Nat) (n : Nat) : (s.act c i n).fabQ = s.fabQ := (rfl)
@[simp] theorem act_fabWait (c : Nat) (i : Nat) (n : Nat) : (s.act c i n).fabWait = s.fabWait := (rfl)
@[simp] theorem act_fports (c : Nat) (i : Nat) (n : Nat) : (s.act c i n).fports = s.fports := (rfl)
@[simp] theorem act_rings (c : Nat) (i : Nat) (n : Nat) : (s.act c i n).rings = s.rings := (rfl)
@[simp] theorem act_hports (c : Nat) (i : Nat) (n : Nat) : (s.act c i n).hports = s.hports := (rfl)
@[simp] theorem act_outReads (c : Nat) (i : Nat) (n : Nat) : (s.act c i n).outReads = s.outReads := (rfl)
@[simp] theorem act_nextId (c : Nat) (i : Nat) (n : Nat) : (s.act c i n).nextId = s.nextId := (rfl)
@[simp] theorem act_band (c : Nat) (i : Nat) (n : Nat) : (s.act c i n).band = s.band := (rfl)
@[simp] theorem act_time (c : Nat) (i : Nat) (n : Nat) : (s.act c i n).time = s.time := (rfl)
@[simp] theorem act_boot (c : Nat) (i : Nat) (n : Nat) : (s.act c i n).boot = s.boot := (rfl)
@[simp] theorem act_flash (c : Nat) (i : Nat) (n : Nat) : (s.act c i n).flash = s.flash := (rfl)
@[simp] theorem act_err (c : Nat) (i : Nat) (n : Nat) : (s.act c i n).err = s.err := (rfl)
@[simp] theorem act_tap (c : Nat) (i : Nat) (n : Nat) : (s.act c i n).tap = s.tap := (rfl)
@[simp] theorem act_out (c : Nat) (i : Nat) (n : Nat) : (s.act c i n).out = s.out := (rfl)
@[simp] theorem act_fates (c : Nat) (i : Nat) (n : Nat) : (s.act c i n).fates = s.fates := (rfl)
@[simp] theorem act_free (c : Nat) (i : Nat) (n : Nat) : (s.act c i n).free = s.free := (rfl)
@[simp] theorem act_pending (c : Nat) (i : Nat) (n : Nat) : (s.act c i n).pending = s.pending := (rfl)
@[simp] theorem act_reg (c : Nat) (i : Nat) (n : Nat) (k' : Nat) : (s.act c i n).reg k' = s.reg k' := (rfl)
@[simp] theorem act_fld (c : Nat) (i : Nat) (n : Nat) (k' : Nat) (lo' : Nat) (w' : Nat) : (s.act c i n).fld k' lo' w' = s.fld k' lo' w' := (rfl)
@[simp] theorem act_byte (c : Nat) (i : Nat) (n : Nat) (k' : Nat) : (s.act c i n).byte k' = s.byte k' := (rfl)
@[simp] theorem act_bytes (c : Nat) (i : Nat) (n : Nat) (k' : Nat) (n' : Nat) : (s.act c i n).bytes k' n' = s.bytes k' n' := (rfl)
@[simp] theorem act_cell (c : Nat) (i : Nat) (n : Nat) (c' : Nat) : (s.act c i n).cell c' = s.cell c' := (rfl)
@[simp] theorem act_mxe (c : Nat) (i : Nat) (n : Nat) (c' : Nat) : (s.act c i n).mxe c' = s.mxe c' := (rfl)
@[simp] theorem act_core (c : Nat) (i : Nat) (n : Nat) (c' : Nat) (k' : CoreSel) : (s.act c i n).core c' k' = s.core c' k' := (rfl)
@[simp] theorem act_die (c : Nat) (i : Nat) (n : Nat) (d' : Nat) : (s.act c i n).die d' = s.die d' := (rfl)
@[simp] theorem act_mc (c : Nat) (i : Nat) (n : Nat) (d' : Nat) (n' : Nat) : (s.act c i n).mc d' n' = s.mc d' n' := (rfl)
@[simp] theorem act_ctx (c : Nat) (i : Nat) (n : Nat) (q' : Nat) : (s.act c i n).ctx q' = s.ctx q' := (rfl)
@[simp] theorem act_tag (c : Nat) (i : Nat) (n : Nat) (d' : Nat) (t' : Nat) : (s.act c i n).tag d' t' = s.tag d' t' := (rfl)
@[simp] theorem act_fport (c : Nat) (i : Nat) (n : Nat) (d' : Nat) (p' : Nat) : (s.act c i n).fport d' p' = s.fport d' p' := (rfl)
@[simp] theorem act_ring (c : Nat) (i : Nat) (n : Nat) (p' : Nat) (n' : Nat) : (s.act c i n).ring p' n' = s.ring p' n' := (rfl)
@[simp] theorem act_hport (c : Nat) (i : Nat) (n : Nat) (p' : Nat) : (s.act c i n).hport p' = s.hport p' := (rfl)
@[simp] theorem act_now (c : Nat) (i : Nat) (n : Nat) : (s.act c i n).now = s.now := (rfl)
@[simp] theorem act_facility (c : Nat) (i : Nat) (n : Nat) : (s.act c i n).facility = s.facility := (rfl)
@[simp] theorem act_job (c : Nat) (i : Nat) (n : Nat) (id' : Nat) : (s.act c i n).job? id' = s.job? id' := (rfl)
@[simp] theorem act_logicalOf (c : Nat) (i : Nat) (n : Nat) (c' : Nat) : (s.act c i n).logicalOf c' = s.logicalOf c' := (rfl)
@[simp] theorem act_physicalOf (c : Nat) (i : Nat) (n : Nat) (x' : Nat) (y' : Nat) : (s.act c i n).physicalOf x' y' = s.physicalOf x' y' := (rfl)
@[simp] theorem act_panelOf (c : Nat) (i : Nat) (n : Nat) (c' : Nat) : (s.act c i n).panelOf c' = s.panelOf c' := (rfl)
@[simp] theorem act_jobOf (c : Nat) (i : Nat) (n : Nat) (c' : Nat) : (s.act c i n).jobOf c' = s.jobOf c' := (rfl)
@[simp] theorem act_isHole (c : Nat) (i : Nat) (n : Nat) (c' : Nat) : (s.act c i n).isHole c' = s.isHole c' := (rfl)
@[simp] theorem act_target (c : Nat) (i : Nat) (n : Nat) (ga' : Nat) : (s.act c i n).target ga' = s.target ga' := (rfl)

@[simp] theorem fresh_part : (s.fresh).part = s.part := (rfl)
@[simp] theorem fresh_slot : (s.fresh).slot = s.slot := (rfl)
@[simp] theorem fresh_regs : (s.fresh).regs = s.regs := (rfl)
@[simp] theorem fresh_wrote : (s.fresh).wrote = s.wrote := (rfl)
@[simp] theorem fresh_w1cSet : (s.fresh).w1cSet = s.w1cSet := (rfl)
@[simp] theorem fresh_mem : (s.fresh).mem = s.mem := (rfl)
@[simp] theorem fresh_cells : (s.fresh).cells = s.cells := (rfl)
@[simp] theorem fresh_regions : (s.fresh).regions = s.regions := (rfl)
@[simp] theorem fresh_dies : (s.fresh).dies = s.dies := (rfl)
@[simp] theorem fresh_mcs : (s.fresh).mcs = s.mcs := (rfl)
@[simp] theorem fresh_pend13 : (s.fresh).pend13 = s.pend13 := (rfl)
@[simp] theorem fresh_resp : (s.fresh).resp = s.resp := (rfl)
@[simp] theorem fresh_net : (s.fresh).net = s.net := (rfl)
@[simp] theorem fresh_panels : (s.fresh).panels = s.panels := (rfl)
@[simp] theorem fresh_jobs : (s.fresh).jobs = s.jobs := (rfl)
@[simp] theorem fresh_leftRun : (s.fresh).leftRun = s.leftRun := (rfl)
@[simp] theorem fresh_load : (s.fresh).load = s.load := (rfl)
@[simp] theorem fresh_ctxs : (s.fresh).ctxs = s.ctxs := (rfl)
@[simp] theorem fresh_tags : (s.fresh).tags = s.tags := (rfl)
@[simp] theorem fresh_fabQ : (s.fresh).fabQ = s.fabQ := (rfl)
@[simp] theorem fresh_fabWait : (s.fresh).fabWait = s.fabWait := (rfl)
@[simp] theorem fresh_fports : (s.fresh).fports = s.fports := (rfl)
@[simp] theorem fresh_rings : (s.fresh).rings = s.rings := (rfl)
@[simp] theorem fresh_hports : (s.fresh).hports = s.hports := (rfl)
@[simp] theorem fresh_outReads : (s.fresh).outReads = s.outReads := (rfl)
@[simp] theorem fresh_nextId : (s.fresh).nextId = s.nextId := (rfl)
@[simp] theorem fresh_band : (s.fresh).band = s.band := (rfl)
@[simp] theorem fresh_time : (s.fresh).time = s.time := (rfl)
@[simp] theorem fresh_boot : (s.fresh).boot = s.boot := (rfl)
@[simp] theorem fresh_flash : (s.fresh).flash = s.flash := (rfl)
@[simp] theorem fresh_err : (s.fresh).err = s.err := (rfl)
@[simp] theorem fresh_tap : (s.fresh).tap = s.tap := (rfl)
@[simp] theorem fresh_out : (s.fresh).out = s.out := (rfl)
@[simp] theorem fresh_fates : (s.fresh).fates = s.fates := (rfl)
@[simp] theorem fresh_pending : (s.fresh).pending = s.pending := (rfl)
@[simp] theorem fresh_reg (k' : Nat) : (s.fresh).reg k' = s.reg k' := (rfl)
@[simp] theorem fresh_fld (k' : Nat) (lo' : Nat) (w' : Nat) : (s.fresh).fld k' lo' w' = s.fld k' lo' w' := (rfl)
@[simp] theorem fresh_byte (k' : Nat) : (s.fresh).byte k' = s.byte k' := (rfl)
@[simp] theorem fresh_bytes (k' : Nat) (n' : Nat) : (s.fresh).bytes k' n' = s.bytes k' n' := (rfl)
@[simp] theorem fresh_cell (c' : Nat) : (s.fresh).cell c' = s.cell c' := (rfl)
@[simp] theorem fresh_mxe (c' : Nat) : (s.fresh).mxe c' = s.mxe c' := (rfl)
@[simp] theorem fresh_core (c' : Nat) (k' : CoreSel) : (s.fresh).core c' k' = s.core c' k' := (rfl)
@[simp] theorem fresh_region (r' : Nat) : (s.fresh).region r' = s.region r' := (rfl)
@[simp] theorem fresh_die (d' : Nat) : (s.fresh).die d' = s.die d' := (rfl)
@[simp] theorem fresh_mc (d' : Nat) (n' : Nat) : (s.fresh).mc d' n' = s.mc d' n' := (rfl)
@[simp] theorem fresh_ctx (q' : Nat) : (s.fresh).ctx q' = s.ctx q' := (rfl)
@[simp] theorem fresh_tag (d' : Nat) (t' : Nat) : (s.fresh).tag d' t' = s.tag d' t' := (rfl)
@[simp] theorem fresh_fport (d' : Nat) (p' : Nat) : (s.fresh).fport d' p' = s.fport d' p' := (rfl)
@[simp] theorem fresh_ring (p' : Nat) (n' : Nat) : (s.fresh).ring p' n' = s.ring p' n' := (rfl)
@[simp] theorem fresh_hport (p' : Nat) : (s.fresh).hport p' = s.hport p' := (rfl)
@[simp] theorem fresh_now : (s.fresh).now = s.now := (rfl)
@[simp] theorem fresh_facility : (s.fresh).facility = s.facility := (rfl)
@[simp] theorem fresh_job (id' : Nat) : (s.fresh).job? id' = s.job? id' := (rfl)
@[simp] theorem fresh_logicalOf (c' : Nat) : (s.fresh).logicalOf c' = s.logicalOf c' := (rfl)
@[simp] theorem fresh_physicalOf (x' : Nat) (y' : Nat) : (s.fresh).physicalOf x' y' = s.physicalOf x' y' := (rfl)
@[simp] theorem fresh_panelOf (c' : Nat) : (s.fresh).panelOf c' = s.panelOf c' := (rfl)
@[simp] theorem fresh_jobOf (c' : Nat) : (s.fresh).jobOf c' = s.jobOf c' := (rfl)
@[simp] theorem fresh_isHole (c' : Nat) : (s.fresh).isHole c' = s.isHole c' := (rfl)
@[simp] theorem fresh_target (ga' : Nat) : (s.fresh).target ga' = s.target ga' := (rfl)

@[simp] theorem emit_part (o : Out) : (s.emit o).part = s.part := (rfl)
@[simp] theorem emit_slot (o : Out) : (s.emit o).slot = s.slot := (rfl)
@[simp] theorem emit_regs (o : Out) : (s.emit o).regs = s.regs := (rfl)
@[simp] theorem emit_wrote (o : Out) : (s.emit o).wrote = s.wrote := (rfl)
@[simp] theorem emit_w1cSet (o : Out) : (s.emit o).w1cSet = s.w1cSet := (rfl)
@[simp] theorem emit_mem (o : Out) : (s.emit o).mem = s.mem := (rfl)
@[simp] theorem emit_cells (o : Out) : (s.emit o).cells = s.cells := (rfl)
@[simp] theorem emit_regions (o : Out) : (s.emit o).regions = s.regions := (rfl)
@[simp] theorem emit_dies (o : Out) : (s.emit o).dies = s.dies := (rfl)
@[simp] theorem emit_mcs (o : Out) : (s.emit o).mcs = s.mcs := (rfl)
@[simp] theorem emit_pend13 (o : Out) : (s.emit o).pend13 = s.pend13 := (rfl)
@[simp] theorem emit_resp (o : Out) : (s.emit o).resp = s.resp := (rfl)
@[simp] theorem emit_net (o : Out) : (s.emit o).net = s.net := (rfl)
@[simp] theorem emit_panels (o : Out) : (s.emit o).panels = s.panels := (rfl)
@[simp] theorem emit_jobs (o : Out) : (s.emit o).jobs = s.jobs := (rfl)
@[simp] theorem emit_leftRun (o : Out) : (s.emit o).leftRun = s.leftRun := (rfl)
@[simp] theorem emit_load (o : Out) : (s.emit o).load = s.load := (rfl)
@[simp] theorem emit_ctxs (o : Out) : (s.emit o).ctxs = s.ctxs := (rfl)
@[simp] theorem emit_tags (o : Out) : (s.emit o).tags = s.tags := (rfl)
@[simp] theorem emit_fabQ (o : Out) : (s.emit o).fabQ = s.fabQ := (rfl)
@[simp] theorem emit_fabWait (o : Out) : (s.emit o).fabWait = s.fabWait := (rfl)
@[simp] theorem emit_fports (o : Out) : (s.emit o).fports = s.fports := (rfl)
@[simp] theorem emit_rings (o : Out) : (s.emit o).rings = s.rings := (rfl)
@[simp] theorem emit_hports (o : Out) : (s.emit o).hports = s.hports := (rfl)
@[simp] theorem emit_outReads (o : Out) : (s.emit o).outReads = s.outReads := (rfl)
@[simp] theorem emit_nextId (o : Out) : (s.emit o).nextId = s.nextId := (rfl)
@[simp] theorem emit_band (o : Out) : (s.emit o).band = s.band := (rfl)
@[simp] theorem emit_time (o : Out) : (s.emit o).time = s.time := (rfl)
@[simp] theorem emit_boot (o : Out) : (s.emit o).boot = s.boot := (rfl)
@[simp] theorem emit_flash (o : Out) : (s.emit o).flash = s.flash := (rfl)
@[simp] theorem emit_err (o : Out) : (s.emit o).err = s.err := (rfl)
@[simp] theorem emit_tap (o : Out) : (s.emit o).tap = s.tap := (rfl)
@[simp] theorem emit_fates (o : Out) : (s.emit o).fates = s.fates := (rfl)
@[simp] theorem emit_free (o : Out) : (s.emit o).free = s.free := (rfl)
@[simp] theorem emit_pending (o : Out) : (s.emit o).pending = s.pending := (rfl)
@[simp] theorem emit_reg (o : Out) (k' : Nat) : (s.emit o).reg k' = s.reg k' := (rfl)
@[simp] theorem emit_fld (o : Out) (k' : Nat) (lo' : Nat) (w' : Nat) : (s.emit o).fld k' lo' w' = s.fld k' lo' w' := (rfl)
@[simp] theorem emit_byte (o : Out) (k' : Nat) : (s.emit o).byte k' = s.byte k' := (rfl)
@[simp] theorem emit_bytes (o : Out) (k' : Nat) (n' : Nat) : (s.emit o).bytes k' n' = s.bytes k' n' := (rfl)
@[simp] theorem emit_cell (o : Out) (c' : Nat) : (s.emit o).cell c' = s.cell c' := (rfl)
@[simp] theorem emit_mxe (o : Out) (c' : Nat) : (s.emit o).mxe c' = s.mxe c' := (rfl)
@[simp] theorem emit_core (o : Out) (c' : Nat) (k' : CoreSel) : (s.emit o).core c' k' = s.core c' k' := (rfl)
@[simp] theorem emit_region (o : Out) (r' : Nat) : (s.emit o).region r' = s.region r' := (rfl)
@[simp] theorem emit_die (o : Out) (d' : Nat) : (s.emit o).die d' = s.die d' := (rfl)
@[simp] theorem emit_mc (o : Out) (d' : Nat) (n' : Nat) : (s.emit o).mc d' n' = s.mc d' n' := (rfl)
@[simp] theorem emit_ctx (o : Out) (q' : Nat) : (s.emit o).ctx q' = s.ctx q' := (rfl)
@[simp] theorem emit_tag (o : Out) (d' : Nat) (t' : Nat) : (s.emit o).tag d' t' = s.tag d' t' := (rfl)
@[simp] theorem emit_fport (o : Out) (d' : Nat) (p' : Nat) : (s.emit o).fport d' p' = s.fport d' p' := (rfl)
@[simp] theorem emit_ring (o : Out) (p' : Nat) (n' : Nat) : (s.emit o).ring p' n' = s.ring p' n' := (rfl)
@[simp] theorem emit_hport (o : Out) (p' : Nat) : (s.emit o).hport p' = s.hport p' := (rfl)
@[simp] theorem emit_now (o : Out) : (s.emit o).now = s.now := (rfl)
@[simp] theorem emit_facility (o : Out) : (s.emit o).facility = s.facility := (rfl)
@[simp] theorem emit_job (o : Out) (id' : Nat) : (s.emit o).job? id' = s.job? id' := (rfl)
@[simp] theorem emit_logicalOf (o : Out) (c' : Nat) : (s.emit o).logicalOf c' = s.logicalOf c' := (rfl)
@[simp] theorem emit_physicalOf (o : Out) (x' : Nat) (y' : Nat) : (s.emit o).physicalOf x' y' = s.physicalOf x' y' := (rfl)
@[simp] theorem emit_panelOf (o : Out) (c' : Nat) : (s.emit o).panelOf c' = s.panelOf c' := (rfl)
@[simp] theorem emit_jobOf (o : Out) (c' : Nat) : (s.emit o).jobOf c' = s.jobOf c' := (rfl)
@[simp] theorem emit_isHole (o : Out) (c' : Nat) : (s.emit o).isHole c' = s.isHole c' := (rfl)
@[simp] theorem emit_target (o : Out) (ga' : Nat) : (s.emit o).target ga' = s.target ga' := (rfl)

@[simp] theorem modJob_part (id : Nat) (f : Job → Job) : (s.modJob id f).part = s.part := (rfl)
@[simp] theorem modJob_slot (id : Nat) (f : Job → Job) : (s.modJob id f).slot = s.slot := (rfl)
@[simp] theorem modJob_regs (id : Nat) (f : Job → Job) : (s.modJob id f).regs = s.regs := (rfl)
@[simp] theorem modJob_wrote (id : Nat) (f : Job → Job) : (s.modJob id f).wrote = s.wrote := (rfl)
@[simp] theorem modJob_w1cSet (id : Nat) (f : Job → Job) : (s.modJob id f).w1cSet = s.w1cSet := (rfl)
@[simp] theorem modJob_mem (id : Nat) (f : Job → Job) : (s.modJob id f).mem = s.mem := (rfl)
@[simp] theorem modJob_cells (id : Nat) (f : Job → Job) : (s.modJob id f).cells = s.cells := (rfl)
@[simp] theorem modJob_regions (id : Nat) (f : Job → Job) : (s.modJob id f).regions = s.regions := (rfl)
@[simp] theorem modJob_dies (id : Nat) (f : Job → Job) : (s.modJob id f).dies = s.dies := (rfl)
@[simp] theorem modJob_mcs (id : Nat) (f : Job → Job) : (s.modJob id f).mcs = s.mcs := (rfl)
@[simp] theorem modJob_pend13 (id : Nat) (f : Job → Job) : (s.modJob id f).pend13 = s.pend13 := (rfl)
@[simp] theorem modJob_resp (id : Nat) (f : Job → Job) : (s.modJob id f).resp = s.resp := (rfl)
@[simp] theorem modJob_net (id : Nat) (f : Job → Job) : (s.modJob id f).net = s.net := (rfl)
@[simp] theorem modJob_panels (id : Nat) (f : Job → Job) : (s.modJob id f).panels = s.panels := (rfl)
@[simp] theorem modJob_leftRun (id : Nat) (f : Job → Job) : (s.modJob id f).leftRun = s.leftRun := (rfl)
@[simp] theorem modJob_load (id : Nat) (f : Job → Job) : (s.modJob id f).load = s.load := (rfl)
@[simp] theorem modJob_ctxs (id : Nat) (f : Job → Job) : (s.modJob id f).ctxs = s.ctxs := (rfl)
@[simp] theorem modJob_tags (id : Nat) (f : Job → Job) : (s.modJob id f).tags = s.tags := (rfl)
@[simp] theorem modJob_fabQ (id : Nat) (f : Job → Job) : (s.modJob id f).fabQ = s.fabQ := (rfl)
@[simp] theorem modJob_fabWait (id : Nat) (f : Job → Job) : (s.modJob id f).fabWait = s.fabWait := (rfl)
@[simp] theorem modJob_fports (id : Nat) (f : Job → Job) : (s.modJob id f).fports = s.fports := (rfl)
@[simp] theorem modJob_rings (id : Nat) (f : Job → Job) : (s.modJob id f).rings = s.rings := (rfl)
@[simp] theorem modJob_hports (id : Nat) (f : Job → Job) : (s.modJob id f).hports = s.hports := (rfl)
@[simp] theorem modJob_outReads (id : Nat) (f : Job → Job) : (s.modJob id f).outReads = s.outReads := (rfl)
@[simp] theorem modJob_nextId (id : Nat) (f : Job → Job) : (s.modJob id f).nextId = s.nextId := (rfl)
@[simp] theorem modJob_band (id : Nat) (f : Job → Job) : (s.modJob id f).band = s.band := (rfl)
@[simp] theorem modJob_time (id : Nat) (f : Job → Job) : (s.modJob id f).time = s.time := (rfl)
@[simp] theorem modJob_boot (id : Nat) (f : Job → Job) : (s.modJob id f).boot = s.boot := (rfl)
@[simp] theorem modJob_flash (id : Nat) (f : Job → Job) : (s.modJob id f).flash = s.flash := (rfl)
@[simp] theorem modJob_err (id : Nat) (f : Job → Job) : (s.modJob id f).err = s.err := (rfl)
@[simp] theorem modJob_tap (id : Nat) (f : Job → Job) : (s.modJob id f).tap = s.tap := (rfl)
@[simp] theorem modJob_out (id : Nat) (f : Job → Job) : (s.modJob id f).out = s.out := (rfl)
@[simp] theorem modJob_fates (id : Nat) (f : Job → Job) : (s.modJob id f).fates = s.fates := (rfl)
@[simp] theorem modJob_free (id : Nat) (f : Job → Job) : (s.modJob id f).free = s.free := (rfl)
@[simp] theorem modJob_pending (id : Nat) (f : Job → Job) : (s.modJob id f).pending = s.pending := (rfl)
@[simp] theorem modJob_reg (id : Nat) (f : Job → Job) (k' : Nat) : (s.modJob id f).reg k' = s.reg k' := (rfl)
@[simp] theorem modJob_fld (id : Nat) (f : Job → Job) (k' : Nat) (lo' : Nat) (w' : Nat) : (s.modJob id f).fld k' lo' w' = s.fld k' lo' w' := (rfl)
@[simp] theorem modJob_byte (id : Nat) (f : Job → Job) (k' : Nat) : (s.modJob id f).byte k' = s.byte k' := (rfl)
@[simp] theorem modJob_bytes (id : Nat) (f : Job → Job) (k' : Nat) (n' : Nat) : (s.modJob id f).bytes k' n' = s.bytes k' n' := (rfl)
@[simp] theorem modJob_cell (id : Nat) (f : Job → Job) (c' : Nat) : (s.modJob id f).cell c' = s.cell c' := (rfl)
@[simp] theorem modJob_mxe (id : Nat) (f : Job → Job) (c' : Nat) : (s.modJob id f).mxe c' = s.mxe c' := (rfl)
@[simp] theorem modJob_core (id : Nat) (f : Job → Job) (c' : Nat) (k' : CoreSel) : (s.modJob id f).core c' k' = s.core c' k' := (rfl)
@[simp] theorem modJob_region (id : Nat) (f : Job → Job) (r' : Nat) : (s.modJob id f).region r' = s.region r' := (rfl)
@[simp] theorem modJob_die (id : Nat) (f : Job → Job) (d' : Nat) : (s.modJob id f).die d' = s.die d' := (rfl)
@[simp] theorem modJob_mc (id : Nat) (f : Job → Job) (d' : Nat) (n' : Nat) : (s.modJob id f).mc d' n' = s.mc d' n' := (rfl)
@[simp] theorem modJob_ctx (id : Nat) (f : Job → Job) (q' : Nat) : (s.modJob id f).ctx q' = s.ctx q' := (rfl)
@[simp] theorem modJob_tag (id : Nat) (f : Job → Job) (d' : Nat) (t' : Nat) : (s.modJob id f).tag d' t' = s.tag d' t' := (rfl)
@[simp] theorem modJob_fport (id : Nat) (f : Job → Job) (d' : Nat) (p' : Nat) : (s.modJob id f).fport d' p' = s.fport d' p' := (rfl)
@[simp] theorem modJob_ring (id : Nat) (f : Job → Job) (p' : Nat) (n' : Nat) : (s.modJob id f).ring p' n' = s.ring p' n' := (rfl)
@[simp] theorem modJob_hport (id : Nat) (f : Job → Job) (p' : Nat) : (s.modJob id f).hport p' = s.hport p' := (rfl)
@[simp] theorem modJob_now (id : Nat) (f : Job → Job) : (s.modJob id f).now = s.now := (rfl)
@[simp] theorem modJob_facility (id : Nat) (f : Job → Job) : (s.modJob id f).facility = s.facility := (rfl)
@[simp] theorem modJob_logicalOf (id : Nat) (f : Job → Job) (c' : Nat) : (s.modJob id f).logicalOf c' = s.logicalOf c' := (rfl)
@[simp] theorem modJob_physicalOf (id : Nat) (f : Job → Job) (x' : Nat) (y' : Nat) : (s.modJob id f).physicalOf x' y' = s.physicalOf x' y' := (rfl)
@[simp] theorem modJob_panelOf (id : Nat) (f : Job → Job) (c' : Nat) : (s.modJob id f).panelOf c' = s.panelOf c' := (rfl)
@[simp] theorem modJob_jobOf (id : Nat) (f : Job → Job) (c' : Nat) : (s.modJob id f).jobOf c' = s.jobOf c' := (rfl)
@[simp] theorem modJob_isHole (id : Nat) (f : Job → Job) (c' : Nat) : (s.modJob id f).isHole c' = s.isHole c' := (rfl)
@[simp] theorem modJob_target (id : Nat) (f : Job → Job) (ga' : Nat) : (s.modJob id f).target ga' = s.target ga' := (rfl)

@[simp] theorem hostStore_part (p : Nat) (a : Nat) (b : List Byte) (ep : Bool) : (s.hostStore p a b ep).part = s.part := by unfold State.hostStore; rw [setBytes_eq]; rfl
@[simp] theorem hostStore_slot (p : Nat) (a : Nat) (b : List Byte) (ep : Bool) : (s.hostStore p a b ep).slot = s.slot := by unfold State.hostStore; rw [setBytes_eq]; rfl
@[simp] theorem hostStore_regs (p : Nat) (a : Nat) (b : List Byte) (ep : Bool) : (s.hostStore p a b ep).regs = s.regs := by unfold State.hostStore; rw [setBytes_eq]; rfl
@[simp] theorem hostStore_wrote (p : Nat) (a : Nat) (b : List Byte) (ep : Bool) : (s.hostStore p a b ep).wrote = s.wrote := by unfold State.hostStore; rw [setBytes_eq]; rfl
@[simp] theorem hostStore_w1cSet (p : Nat) (a : Nat) (b : List Byte) (ep : Bool) : (s.hostStore p a b ep).w1cSet = s.w1cSet := by unfold State.hostStore; rw [setBytes_eq]; rfl
@[simp] theorem hostStore_cells (p : Nat) (a : Nat) (b : List Byte) (ep : Bool) : (s.hostStore p a b ep).cells = s.cells := by unfold State.hostStore; rw [setBytes_eq]; rfl
@[simp] theorem hostStore_regions (p : Nat) (a : Nat) (b : List Byte) (ep : Bool) : (s.hostStore p a b ep).regions = s.regions := by unfold State.hostStore; rw [setBytes_eq]; rfl
@[simp] theorem hostStore_dies (p : Nat) (a : Nat) (b : List Byte) (ep : Bool) : (s.hostStore p a b ep).dies = s.dies := by unfold State.hostStore; rw [setBytes_eq]; rfl
@[simp] theorem hostStore_mcs (p : Nat) (a : Nat) (b : List Byte) (ep : Bool) : (s.hostStore p a b ep).mcs = s.mcs := by unfold State.hostStore; rw [setBytes_eq]; rfl
@[simp] theorem hostStore_pend13 (p : Nat) (a : Nat) (b : List Byte) (ep : Bool) : (s.hostStore p a b ep).pend13 = s.pend13 := by unfold State.hostStore; rw [setBytes_eq]; rfl
@[simp] theorem hostStore_resp (p : Nat) (a : Nat) (b : List Byte) (ep : Bool) : (s.hostStore p a b ep).resp = s.resp := by unfold State.hostStore; rw [setBytes_eq]; rfl
@[simp] theorem hostStore_net (p : Nat) (a : Nat) (b : List Byte) (ep : Bool) : (s.hostStore p a b ep).net = s.net := by unfold State.hostStore; rw [setBytes_eq]; rfl
@[simp] theorem hostStore_panels (p : Nat) (a : Nat) (b : List Byte) (ep : Bool) : (s.hostStore p a b ep).panels = s.panels := by unfold State.hostStore; rw [setBytes_eq]; rfl
@[simp] theorem hostStore_jobs (p : Nat) (a : Nat) (b : List Byte) (ep : Bool) : (s.hostStore p a b ep).jobs = s.jobs := by unfold State.hostStore; rw [setBytes_eq]; rfl
@[simp] theorem hostStore_leftRun (p : Nat) (a : Nat) (b : List Byte) (ep : Bool) : (s.hostStore p a b ep).leftRun = s.leftRun := by unfold State.hostStore; rw [setBytes_eq]; rfl
@[simp] theorem hostStore_load (p : Nat) (a : Nat) (b : List Byte) (ep : Bool) : (s.hostStore p a b ep).load = s.load := by unfold State.hostStore; rw [setBytes_eq]; rfl
@[simp] theorem hostStore_ctxs (p : Nat) (a : Nat) (b : List Byte) (ep : Bool) : (s.hostStore p a b ep).ctxs = s.ctxs := by unfold State.hostStore; rw [setBytes_eq]; rfl
@[simp] theorem hostStore_tags (p : Nat) (a : Nat) (b : List Byte) (ep : Bool) : (s.hostStore p a b ep).tags = s.tags := by unfold State.hostStore; rw [setBytes_eq]; rfl
@[simp] theorem hostStore_fabQ (p : Nat) (a : Nat) (b : List Byte) (ep : Bool) : (s.hostStore p a b ep).fabQ = s.fabQ := by unfold State.hostStore; rw [setBytes_eq]; rfl
@[simp] theorem hostStore_fabWait (p : Nat) (a : Nat) (b : List Byte) (ep : Bool) : (s.hostStore p a b ep).fabWait = s.fabWait := by unfold State.hostStore; rw [setBytes_eq]; rfl
@[simp] theorem hostStore_fports (p : Nat) (a : Nat) (b : List Byte) (ep : Bool) : (s.hostStore p a b ep).fports = s.fports := by unfold State.hostStore; rw [setBytes_eq]; rfl
@[simp] theorem hostStore_rings (p : Nat) (a : Nat) (b : List Byte) (ep : Bool) : (s.hostStore p a b ep).rings = s.rings := by unfold State.hostStore; rw [setBytes_eq]; rfl
@[simp] theorem hostStore_hports (p : Nat) (a : Nat) (b : List Byte) (ep : Bool) : (s.hostStore p a b ep).hports = s.hports := by unfold State.hostStore; rw [setBytes_eq]; rfl
@[simp] theorem hostStore_outReads (p : Nat) (a : Nat) (b : List Byte) (ep : Bool) : (s.hostStore p a b ep).outReads = s.outReads := by unfold State.hostStore; rw [setBytes_eq]; rfl
@[simp] theorem hostStore_nextId (p : Nat) (a : Nat) (b : List Byte) (ep : Bool) : (s.hostStore p a b ep).nextId = s.nextId := by unfold State.hostStore; rw [setBytes_eq]; rfl
@[simp] theorem hostStore_band (p : Nat) (a : Nat) (b : List Byte) (ep : Bool) : (s.hostStore p a b ep).band = s.band := by unfold State.hostStore; rw [setBytes_eq]; rfl
@[simp] theorem hostStore_time (p : Nat) (a : Nat) (b : List Byte) (ep : Bool) : (s.hostStore p a b ep).time = s.time := by unfold State.hostStore; rw [setBytes_eq]; rfl
@[simp] theorem hostStore_boot (p : Nat) (a : Nat) (b : List Byte) (ep : Bool) : (s.hostStore p a b ep).boot = s.boot := by unfold State.hostStore; rw [setBytes_eq]; rfl
@[simp] theorem hostStore_flash (p : Nat) (a : Nat) (b : List Byte) (ep : Bool) : (s.hostStore p a b ep).flash = s.flash := by unfold State.hostStore; rw [setBytes_eq]; rfl
@[simp] theorem hostStore_err (p : Nat) (a : Nat) (b : List Byte) (ep : Bool) : (s.hostStore p a b ep).err = s.err := by unfold State.hostStore; rw [setBytes_eq]; rfl
@[simp] theorem hostStore_tap (p : Nat) (a : Nat) (b : List Byte) (ep : Bool) : (s.hostStore p a b ep).tap = s.tap := by unfold State.hostStore; rw [setBytes_eq]; rfl
@[simp] theorem hostStore_fates (p : Nat) (a : Nat) (b : List Byte) (ep : Bool) : (s.hostStore p a b ep).fates = s.fates := by unfold State.hostStore; rw [setBytes_eq]; rfl
@[simp] theorem hostStore_free (p : Nat) (a : Nat) (b : List Byte) (ep : Bool) : (s.hostStore p a b ep).free = s.free := by unfold State.hostStore; rw [setBytes_eq]; rfl
@[simp] theorem hostStore_pending (p : Nat) (a : Nat) (b : List Byte) (ep : Bool) : (s.hostStore p a b ep).pending = s.pending := by unfold State.hostStore; rw [setBytes_eq]; rfl
@[simp] theorem hostStore_reg (p : Nat) (a : Nat) (b : List Byte) (ep : Bool) (k' : Nat) : (s.hostStore p a b ep).reg k' = s.reg k' := by unfold State.hostStore; rw [setBytes_eq]; rfl
@[simp] theorem hostStore_fld (p : Nat) (a : Nat) (b : List Byte) (ep : Bool) (k' : Nat) (lo' : Nat) (w' : Nat) : (s.hostStore p a b ep).fld k' lo' w' = s.fld k' lo' w' := by unfold State.hostStore; rw [setBytes_eq]; rfl
@[simp] theorem hostStore_cell (p : Nat) (a : Nat) (b : List Byte) (ep : Bool) (c' : Nat) : (s.hostStore p a b ep).cell c' = s.cell c' := by unfold State.hostStore; rw [setBytes_eq]; rfl
@[simp] theorem hostStore_mxe (p : Nat) (a : Nat) (b : List Byte) (ep : Bool) (c' : Nat) : (s.hostStore p a b ep).mxe c' = s.mxe c' := by unfold State.hostStore; rw [setBytes_eq]; rfl
@[simp] theorem hostStore_core (p : Nat) (a : Nat) (b : List Byte) (ep : Bool) (c' : Nat) (k' : CoreSel) : (s.hostStore p a b ep).core c' k' = s.core c' k' := by unfold State.hostStore; rw [setBytes_eq]; rfl
@[simp] theorem hostStore_region (p : Nat) (a : Nat) (b : List Byte) (ep : Bool) (r' : Nat) : (s.hostStore p a b ep).region r' = s.region r' := by unfold State.hostStore; rw [setBytes_eq]; rfl
@[simp] theorem hostStore_die (p : Nat) (a : Nat) (b : List Byte) (ep : Bool) (d' : Nat) : (s.hostStore p a b ep).die d' = s.die d' := by unfold State.hostStore; rw [setBytes_eq]; rfl
@[simp] theorem hostStore_mc (p : Nat) (a : Nat) (b : List Byte) (ep : Bool) (d' : Nat) (n' : Nat) : (s.hostStore p a b ep).mc d' n' = s.mc d' n' := by unfold State.hostStore; rw [setBytes_eq]; rfl
@[simp] theorem hostStore_ctx (p : Nat) (a : Nat) (b : List Byte) (ep : Bool) (q' : Nat) : (s.hostStore p a b ep).ctx q' = s.ctx q' := by unfold State.hostStore; rw [setBytes_eq]; rfl
@[simp] theorem hostStore_tag (p : Nat) (a : Nat) (b : List Byte) (ep : Bool) (d' : Nat) (t' : Nat) : (s.hostStore p a b ep).tag d' t' = s.tag d' t' := by unfold State.hostStore; rw [setBytes_eq]; rfl
@[simp] theorem hostStore_fport (p : Nat) (a : Nat) (b : List Byte) (ep : Bool) (d' : Nat) (p' : Nat) : (s.hostStore p a b ep).fport d' p' = s.fport d' p' := by unfold State.hostStore; rw [setBytes_eq]; rfl
@[simp] theorem hostStore_ring (p : Nat) (a : Nat) (b : List Byte) (ep : Bool) (p' : Nat) (n' : Nat) : (s.hostStore p a b ep).ring p' n' = s.ring p' n' := by unfold State.hostStore; rw [setBytes_eq]; rfl
@[simp] theorem hostStore_hport (p : Nat) (a : Nat) (b : List Byte) (ep : Bool) (p' : Nat) : (s.hostStore p a b ep).hport p' = s.hport p' := by unfold State.hostStore; rw [setBytes_eq]; rfl
@[simp] theorem hostStore_now (p : Nat) (a : Nat) (b : List Byte) (ep : Bool) : (s.hostStore p a b ep).now = s.now := by unfold State.hostStore; rw [setBytes_eq]; rfl
@[simp] theorem hostStore_facility (p : Nat) (a : Nat) (b : List Byte) (ep : Bool) : (s.hostStore p a b ep).facility = s.facility := by unfold State.hostStore; rw [setBytes_eq]; rfl
@[simp] theorem hostStore_job (p : Nat) (a : Nat) (b : List Byte) (ep : Bool) (id' : Nat) : (s.hostStore p a b ep).job? id' = s.job? id' := by unfold State.hostStore; rw [setBytes_eq]; rfl
@[simp] theorem hostStore_logicalOf (p : Nat) (a : Nat) (b : List Byte) (ep : Bool) (c' : Nat) : (s.hostStore p a b ep).logicalOf c' = s.logicalOf c' := by unfold State.hostStore; rw [setBytes_eq]; rfl
@[simp] theorem hostStore_physicalOf (p : Nat) (a : Nat) (b : List Byte) (ep : Bool) (x' : Nat) (y' : Nat) : (s.hostStore p a b ep).physicalOf x' y' = s.physicalOf x' y' := by unfold State.hostStore; rw [setBytes_eq]; rfl
@[simp] theorem hostStore_panelOf (p : Nat) (a : Nat) (b : List Byte) (ep : Bool) (c' : Nat) : (s.hostStore p a b ep).panelOf c' = s.panelOf c' := by unfold State.hostStore; rw [setBytes_eq]; rfl
@[simp] theorem hostStore_jobOf (p : Nat) (a : Nat) (b : List Byte) (ep : Bool) (c' : Nat) : (s.hostStore p a b ep).jobOf c' = s.jobOf c' := by unfold State.hostStore; rw [setBytes_eq]; rfl
@[simp] theorem hostStore_isHole (p : Nat) (a : Nat) (b : List Byte) (ep : Bool) (c' : Nat) : (s.hostStore p a b ep).isHole c' = s.isHole c' := by unfold State.hostStore; rw [setBytes_eq]; rfl
@[simp] theorem hostStore_target (p : Nat) (a : Nat) (b : List Byte) (ep : Bool) (ga' : Nat) : (s.hostStore p a b ep).target ga' = s.target ga' := by unfold State.hostStore; rw [setBytes_eq]; rfl

@[simp] theorem setRate_part (r : RateSt) : (s.setRate r).part = s.part := (rfl)
@[simp] theorem setRate_slot (r : RateSt) : (s.setRate r).slot = s.slot := (rfl)
@[simp] theorem setRate_regs (r : RateSt) : (s.setRate r).regs = s.regs := (rfl)
@[simp] theorem setRate_wrote (r : RateSt) : (s.setRate r).wrote = s.wrote := (rfl)
@[simp] theorem setRate_w1cSet (r : RateSt) : (s.setRate r).w1cSet = s.w1cSet := (rfl)
@[simp] theorem setRate_mem (r : RateSt) : (s.setRate r).mem = s.mem := (rfl)
@[simp] theorem setRate_cells (r : RateSt) : (s.setRate r).cells = s.cells := (rfl)
@[simp] theorem setRate_regions (r : RateSt) : (s.setRate r).regions = s.regions := (rfl)
@[simp] theorem setRate_dies (r : RateSt) : (s.setRate r).dies = s.dies := (rfl)
@[simp] theorem setRate_mcs (r : RateSt) : (s.setRate r).mcs = s.mcs := (rfl)
@[simp] theorem setRate_pend13 (r : RateSt) : (s.setRate r).pend13 = s.pend13 := (rfl)
@[simp] theorem setRate_resp (r : RateSt) : (s.setRate r).resp = s.resp := (rfl)
@[simp] theorem setRate_net (r : RateSt) : (s.setRate r).net = s.net := (rfl)
@[simp] theorem setRate_panels (r : RateSt) : (s.setRate r).panels = s.panels := (rfl)
@[simp] theorem setRate_jobs (r : RateSt) : (s.setRate r).jobs = s.jobs := (rfl)
@[simp] theorem setRate_leftRun (r : RateSt) : (s.setRate r).leftRun = s.leftRun := (rfl)
@[simp] theorem setRate_load (r : RateSt) : (s.setRate r).load = s.load := (rfl)
@[simp] theorem setRate_ctxs (r : RateSt) : (s.setRate r).ctxs = s.ctxs := (rfl)
@[simp] theorem setRate_tags (r : RateSt) : (s.setRate r).tags = s.tags := (rfl)
@[simp] theorem setRate_fabQ (r : RateSt) : (s.setRate r).fabQ = s.fabQ := (rfl)
@[simp] theorem setRate_fabWait (r : RateSt) : (s.setRate r).fabWait = s.fabWait := (rfl)
@[simp] theorem setRate_fports (r : RateSt) : (s.setRate r).fports = s.fports := (rfl)
@[simp] theorem setRate_rings (r : RateSt) : (s.setRate r).rings = s.rings := (rfl)
@[simp] theorem setRate_hports (r : RateSt) : (s.setRate r).hports = s.hports := (rfl)
@[simp] theorem setRate_outReads (r : RateSt) : (s.setRate r).outReads = s.outReads := (rfl)
@[simp] theorem setRate_nextId (r : RateSt) : (s.setRate r).nextId = s.nextId := (rfl)
@[simp] theorem setRate_band (r : RateSt) : (s.setRate r).band = s.band := (rfl)
@[simp] theorem setRate_time (r : RateSt) : (s.setRate r).time = s.time := (rfl)
@[simp] theorem setRate_boot (r : RateSt) : (s.setRate r).boot = s.boot := (rfl)
@[simp] theorem setRate_flash (r : RateSt) : (s.setRate r).flash = s.flash := (rfl)
@[simp] theorem setRate_tap (r : RateSt) : (s.setRate r).tap = s.tap := (rfl)
@[simp] theorem setRate_out (r : RateSt) : (s.setRate r).out = s.out := (rfl)
@[simp] theorem setRate_fates (r : RateSt) : (s.setRate r).fates = s.fates := (rfl)
@[simp] theorem setRate_free (r : RateSt) : (s.setRate r).free = s.free := (rfl)
@[simp] theorem setRate_pending (r : RateSt) : (s.setRate r).pending = s.pending := (rfl)
@[simp] theorem setRate_reg (r : RateSt) (k' : Nat) : (s.setRate r).reg k' = s.reg k' := (rfl)
@[simp] theorem setRate_fld (r : RateSt) (k' : Nat) (lo' : Nat) (w' : Nat) : (s.setRate r).fld k' lo' w' = s.fld k' lo' w' := (rfl)
@[simp] theorem setRate_byte (r : RateSt) (k' : Nat) : (s.setRate r).byte k' = s.byte k' := (rfl)
@[simp] theorem setRate_bytes (r : RateSt) (k' : Nat) (n' : Nat) : (s.setRate r).bytes k' n' = s.bytes k' n' := (rfl)
@[simp] theorem setRate_cell (r : RateSt) (c' : Nat) : (s.setRate r).cell c' = s.cell c' := (rfl)
@[simp] theorem setRate_mxe (r : RateSt) (c' : Nat) : (s.setRate r).mxe c' = s.mxe c' := (rfl)
@[simp] theorem setRate_core (r : RateSt) (c' : Nat) (k' : CoreSel) : (s.setRate r).core c' k' = s.core c' k' := (rfl)
@[simp] theorem setRate_region (r : RateSt) (r' : Nat) : (s.setRate r).region r' = s.region r' := (rfl)
@[simp] theorem setRate_die (r : RateSt) (d' : Nat) : (s.setRate r).die d' = s.die d' := (rfl)
@[simp] theorem setRate_mc (r : RateSt) (d' : Nat) (n' : Nat) : (s.setRate r).mc d' n' = s.mc d' n' := (rfl)
@[simp] theorem setRate_ctx (r : RateSt) (q' : Nat) : (s.setRate r).ctx q' = s.ctx q' := (rfl)
@[simp] theorem setRate_tag (r : RateSt) (d' : Nat) (t' : Nat) : (s.setRate r).tag d' t' = s.tag d' t' := (rfl)
@[simp] theorem setRate_fport (r : RateSt) (d' : Nat) (p' : Nat) : (s.setRate r).fport d' p' = s.fport d' p' := (rfl)
@[simp] theorem setRate_ring (r : RateSt) (p' : Nat) (n' : Nat) : (s.setRate r).ring p' n' = s.ring p' n' := (rfl)
@[simp] theorem setRate_hport (r : RateSt) (p' : Nat) : (s.setRate r).hport p' = s.hport p' := (rfl)
@[simp] theorem setRate_now (r : RateSt) : (s.setRate r).now = s.now := (rfl)
@[simp] theorem setRate_facility (r : RateSt) : (s.setRate r).facility = s.facility := (rfl)
@[simp] theorem setRate_job (r : RateSt) (id' : Nat) : (s.setRate r).job? id' = s.job? id' := (rfl)
@[simp] theorem setRate_logicalOf (r : RateSt) (c' : Nat) : (s.setRate r).logicalOf c' = s.logicalOf c' := (rfl)
@[simp] theorem setRate_physicalOf (r : RateSt) (x' : Nat) (y' : Nat) : (s.setRate r).physicalOf x' y' = s.physicalOf x' y' := (rfl)
@[simp] theorem setRate_panelOf (r : RateSt) (c' : Nat) : (s.setRate r).panelOf c' = s.panelOf c' := (rfl)
@[simp] theorem setRate_jobOf (r : RateSt) (c' : Nat) : (s.setRate r).jobOf c' = s.jobOf c' := (rfl)
@[simp] theorem setRate_isHole (r : RateSt) (c' : Nat) : (s.setRate r).isHole c' = s.isHole c' := (rfl)
@[simp] theorem setRate_target (r : RateSt) (ga' : Nat) : (s.setRate r).target ga' = s.target ga' := (rfl)

@[simp] theorem raiseSev_part (sev : Nat) (cls : Nat) (loc : Loc) (d : Nat) (st : Option Nat) : (s.raiseSev sev cls loc d st).part = s.part := (rfl)
@[simp] theorem raiseSev_slot (sev : Nat) (cls : Nat) (loc : Loc) (d : Nat) (st : Option Nat) : (s.raiseSev sev cls loc d st).slot = s.slot := (rfl)
@[simp] theorem raiseSev_regs (sev : Nat) (cls : Nat) (loc : Loc) (d : Nat) (st : Option Nat) : (s.raiseSev sev cls loc d st).regs = s.regs := (rfl)
@[simp] theorem raiseSev_wrote (sev : Nat) (cls : Nat) (loc : Loc) (d : Nat) (st : Option Nat) : (s.raiseSev sev cls loc d st).wrote = s.wrote := (rfl)
@[simp] theorem raiseSev_w1cSet (sev : Nat) (cls : Nat) (loc : Loc) (d : Nat) (st : Option Nat) : (s.raiseSev sev cls loc d st).w1cSet = s.w1cSet := (rfl)
@[simp] theorem raiseSev_mem (sev : Nat) (cls : Nat) (loc : Loc) (d : Nat) (st : Option Nat) : (s.raiseSev sev cls loc d st).mem = s.mem := (rfl)
@[simp] theorem raiseSev_cells (sev : Nat) (cls : Nat) (loc : Loc) (d : Nat) (st : Option Nat) : (s.raiseSev sev cls loc d st).cells = s.cells := (rfl)
@[simp] theorem raiseSev_regions (sev : Nat) (cls : Nat) (loc : Loc) (d : Nat) (st : Option Nat) : (s.raiseSev sev cls loc d st).regions = s.regions := (rfl)
@[simp] theorem raiseSev_dies (sev : Nat) (cls : Nat) (loc : Loc) (d : Nat) (st : Option Nat) : (s.raiseSev sev cls loc d st).dies = s.dies := (rfl)
@[simp] theorem raiseSev_mcs (sev : Nat) (cls : Nat) (loc : Loc) (d : Nat) (st : Option Nat) : (s.raiseSev sev cls loc d st).mcs = s.mcs := (rfl)
@[simp] theorem raiseSev_pend13 (sev : Nat) (cls : Nat) (loc : Loc) (d : Nat) (st : Option Nat) : (s.raiseSev sev cls loc d st).pend13 = s.pend13 := (rfl)
@[simp] theorem raiseSev_resp (sev : Nat) (cls : Nat) (loc : Loc) (d : Nat) (st : Option Nat) : (s.raiseSev sev cls loc d st).resp = s.resp := (rfl)
@[simp] theorem raiseSev_net (sev : Nat) (cls : Nat) (loc : Loc) (d : Nat) (st : Option Nat) : (s.raiseSev sev cls loc d st).net = s.net := (rfl)
@[simp] theorem raiseSev_panels (sev : Nat) (cls : Nat) (loc : Loc) (d : Nat) (st : Option Nat) : (s.raiseSev sev cls loc d st).panels = s.panels := (rfl)
@[simp] theorem raiseSev_jobs (sev : Nat) (cls : Nat) (loc : Loc) (d : Nat) (st : Option Nat) : (s.raiseSev sev cls loc d st).jobs = s.jobs := (rfl)
@[simp] theorem raiseSev_leftRun (sev : Nat) (cls : Nat) (loc : Loc) (d : Nat) (st : Option Nat) : (s.raiseSev sev cls loc d st).leftRun = s.leftRun := (rfl)
@[simp] theorem raiseSev_load (sev : Nat) (cls : Nat) (loc : Loc) (d : Nat) (st : Option Nat) : (s.raiseSev sev cls loc d st).load = s.load := (rfl)
@[simp] theorem raiseSev_ctxs (sev : Nat) (cls : Nat) (loc : Loc) (d : Nat) (st : Option Nat) : (s.raiseSev sev cls loc d st).ctxs = s.ctxs := (rfl)
@[simp] theorem raiseSev_tags (sev : Nat) (cls : Nat) (loc : Loc) (d : Nat) (st : Option Nat) : (s.raiseSev sev cls loc d st).tags = s.tags := (rfl)
@[simp] theorem raiseSev_fabQ (sev : Nat) (cls : Nat) (loc : Loc) (d : Nat) (st : Option Nat) : (s.raiseSev sev cls loc d st).fabQ = s.fabQ := (rfl)
@[simp] theorem raiseSev_fabWait (sev : Nat) (cls : Nat) (loc : Loc) (d : Nat) (st : Option Nat) : (s.raiseSev sev cls loc d st).fabWait = s.fabWait := (rfl)
@[simp] theorem raiseSev_fports (sev : Nat) (cls : Nat) (loc : Loc) (d : Nat) (st : Option Nat) : (s.raiseSev sev cls loc d st).fports = s.fports := (rfl)
@[simp] theorem raiseSev_rings (sev : Nat) (cls : Nat) (loc : Loc) (d : Nat) (st : Option Nat) : (s.raiseSev sev cls loc d st).rings = s.rings := (rfl)
@[simp] theorem raiseSev_hports (sev : Nat) (cls : Nat) (loc : Loc) (d : Nat) (st : Option Nat) : (s.raiseSev sev cls loc d st).hports = s.hports := (rfl)
@[simp] theorem raiseSev_outReads (sev : Nat) (cls : Nat) (loc : Loc) (d : Nat) (st : Option Nat) : (s.raiseSev sev cls loc d st).outReads = s.outReads := (rfl)
@[simp] theorem raiseSev_nextId (sev : Nat) (cls : Nat) (loc : Loc) (d : Nat) (st : Option Nat) : (s.raiseSev sev cls loc d st).nextId = s.nextId := (rfl)
@[simp] theorem raiseSev_band (sev : Nat) (cls : Nat) (loc : Loc) (d : Nat) (st : Option Nat) : (s.raiseSev sev cls loc d st).band = s.band := (rfl)
@[simp] theorem raiseSev_time (sev : Nat) (cls : Nat) (loc : Loc) (d : Nat) (st : Option Nat) : (s.raiseSev sev cls loc d st).time = s.time := (rfl)
@[simp] theorem raiseSev_boot (sev : Nat) (cls : Nat) (loc : Loc) (d : Nat) (st : Option Nat) : (s.raiseSev sev cls loc d st).boot = s.boot := (rfl)
@[simp] theorem raiseSev_flash (sev : Nat) (cls : Nat) (loc : Loc) (d : Nat) (st : Option Nat) : (s.raiseSev sev cls loc d st).flash = s.flash := (rfl)
@[simp] theorem raiseSev_tap (sev : Nat) (cls : Nat) (loc : Loc) (d : Nat) (st : Option Nat) : (s.raiseSev sev cls loc d st).tap = s.tap := (rfl)
@[simp] theorem raiseSev_out (sev : Nat) (cls : Nat) (loc : Loc) (d : Nat) (st : Option Nat) : (s.raiseSev sev cls loc d st).out = s.out := (rfl)
@[simp] theorem raiseSev_fates (sev : Nat) (cls : Nat) (loc : Loc) (d : Nat) (st : Option Nat) : (s.raiseSev sev cls loc d st).fates = s.fates := (rfl)
@[simp] theorem raiseSev_free (sev : Nat) (cls : Nat) (loc : Loc) (d : Nat) (st : Option Nat) : (s.raiseSev sev cls loc d st).free = s.free := (rfl)
@[simp] theorem raiseSev_pending (sev : Nat) (cls : Nat) (loc : Loc) (d : Nat) (st : Option Nat) : (s.raiseSev sev cls loc d st).pending = s.pending := (rfl)
@[simp] theorem raiseSev_reg (sev : Nat) (cls : Nat) (loc : Loc) (d : Nat) (st : Option Nat) (k' : Nat) : (s.raiseSev sev cls loc d st).reg k' = s.reg k' := (rfl)
@[simp] theorem raiseSev_fld (sev : Nat) (cls : Nat) (loc : Loc) (d : Nat) (st : Option Nat) (k' : Nat) (lo' : Nat) (w' : Nat) : (s.raiseSev sev cls loc d st).fld k' lo' w' = s.fld k' lo' w' := (rfl)
@[simp] theorem raiseSev_byte (sev : Nat) (cls : Nat) (loc : Loc) (d : Nat) (st : Option Nat) (k' : Nat) : (s.raiseSev sev cls loc d st).byte k' = s.byte k' := (rfl)
@[simp] theorem raiseSev_bytes (sev : Nat) (cls : Nat) (loc : Loc) (d : Nat) (st : Option Nat) (k' : Nat) (n' : Nat) : (s.raiseSev sev cls loc d st).bytes k' n' = s.bytes k' n' := (rfl)
@[simp] theorem raiseSev_cell (sev : Nat) (cls : Nat) (loc : Loc) (d : Nat) (st : Option Nat) (c' : Nat) : (s.raiseSev sev cls loc d st).cell c' = s.cell c' := (rfl)
@[simp] theorem raiseSev_mxe (sev : Nat) (cls : Nat) (loc : Loc) (d : Nat) (st : Option Nat) (c' : Nat) : (s.raiseSev sev cls loc d st).mxe c' = s.mxe c' := (rfl)
@[simp] theorem raiseSev_core (sev : Nat) (cls : Nat) (loc : Loc) (d : Nat) (st : Option Nat) (c' : Nat) (k' : CoreSel) : (s.raiseSev sev cls loc d st).core c' k' = s.core c' k' := (rfl)
@[simp] theorem raiseSev_region (sev : Nat) (cls : Nat) (loc : Loc) (d : Nat) (st : Option Nat) (r' : Nat) : (s.raiseSev sev cls loc d st).region r' = s.region r' := (rfl)
@[simp] theorem raiseSev_die (sev : Nat) (cls : Nat) (loc : Loc) (d : Nat) (st : Option Nat) (d' : Nat) : (s.raiseSev sev cls loc d st).die d' = s.die d' := (rfl)
@[simp] theorem raiseSev_mc (sev : Nat) (cls : Nat) (loc : Loc) (d : Nat) (st : Option Nat) (d' : Nat) (n' : Nat) : (s.raiseSev sev cls loc d st).mc d' n' = s.mc d' n' := (rfl)
@[simp] theorem raiseSev_ctx (sev : Nat) (cls : Nat) (loc : Loc) (d : Nat) (st : Option Nat) (q' : Nat) : (s.raiseSev sev cls loc d st).ctx q' = s.ctx q' := (rfl)
@[simp] theorem raiseSev_tag (sev : Nat) (cls : Nat) (loc : Loc) (d : Nat) (st : Option Nat) (d' : Nat) (t' : Nat) : (s.raiseSev sev cls loc d st).tag d' t' = s.tag d' t' := (rfl)
@[simp] theorem raiseSev_fport (sev : Nat) (cls : Nat) (loc : Loc) (d : Nat) (st : Option Nat) (d' : Nat) (p' : Nat) : (s.raiseSev sev cls loc d st).fport d' p' = s.fport d' p' := (rfl)
@[simp] theorem raiseSev_ring (sev : Nat) (cls : Nat) (loc : Loc) (d : Nat) (st : Option Nat) (p' : Nat) (n' : Nat) : (s.raiseSev sev cls loc d st).ring p' n' = s.ring p' n' := (rfl)
@[simp] theorem raiseSev_hport (sev : Nat) (cls : Nat) (loc : Loc) (d : Nat) (st : Option Nat) (p' : Nat) : (s.raiseSev sev cls loc d st).hport p' = s.hport p' := (rfl)
@[simp] theorem raiseSev_now (sev : Nat) (cls : Nat) (loc : Loc) (d : Nat) (st : Option Nat) : (s.raiseSev sev cls loc d st).now = s.now := (rfl)
@[simp] theorem raiseSev_facility (sev : Nat) (cls : Nat) (loc : Loc) (d : Nat) (st : Option Nat) : (s.raiseSev sev cls loc d st).facility = s.facility := (rfl)
@[simp] theorem raiseSev_job (sev : Nat) (cls : Nat) (loc : Loc) (d : Nat) (st : Option Nat) (id' : Nat) : (s.raiseSev sev cls loc d st).job? id' = s.job? id' := (rfl)
@[simp] theorem raiseSev_logicalOf (sev : Nat) (cls : Nat) (loc : Loc) (d : Nat) (st : Option Nat) (c' : Nat) : (s.raiseSev sev cls loc d st).logicalOf c' = s.logicalOf c' := (rfl)
@[simp] theorem raiseSev_physicalOf (sev : Nat) (cls : Nat) (loc : Loc) (d : Nat) (st : Option Nat) (x' : Nat) (y' : Nat) : (s.raiseSev sev cls loc d st).physicalOf x' y' = s.physicalOf x' y' := (rfl)
@[simp] theorem raiseSev_panelOf (sev : Nat) (cls : Nat) (loc : Loc) (d : Nat) (st : Option Nat) (c' : Nat) : (s.raiseSev sev cls loc d st).panelOf c' = s.panelOf c' := (rfl)
@[simp] theorem raiseSev_jobOf (sev : Nat) (cls : Nat) (loc : Loc) (d : Nat) (st : Option Nat) (c' : Nat) : (s.raiseSev sev cls loc d st).jobOf c' = s.jobOf c' := (rfl)
@[simp] theorem raiseSev_isHole (sev : Nat) (cls : Nat) (loc : Loc) (d : Nat) (st : Option Nat) (c' : Nat) : (s.raiseSev sev cls loc d st).isHole c' = s.isHole c' := (rfl)
@[simp] theorem raiseSev_target (sev : Nat) (cls : Nat) (loc : Loc) (d : Nat) (st : Option Nat) (ga' : Nat) : (s.raiseSev sev cls loc d st).target ga' = s.target ga' := (rfl)

@[simp] theorem raise_part (cls : Nat) (loc : Loc) (d : Nat) (st : Option Nat) : (s.raise cls loc d st).part = s.part := (rfl)
@[simp] theorem raise_slot (cls : Nat) (loc : Loc) (d : Nat) (st : Option Nat) : (s.raise cls loc d st).slot = s.slot := (rfl)
@[simp] theorem raise_regs (cls : Nat) (loc : Loc) (d : Nat) (st : Option Nat) : (s.raise cls loc d st).regs = s.regs := (rfl)
@[simp] theorem raise_wrote (cls : Nat) (loc : Loc) (d : Nat) (st : Option Nat) : (s.raise cls loc d st).wrote = s.wrote := (rfl)
@[simp] theorem raise_w1cSet (cls : Nat) (loc : Loc) (d : Nat) (st : Option Nat) : (s.raise cls loc d st).w1cSet = s.w1cSet := (rfl)
@[simp] theorem raise_mem (cls : Nat) (loc : Loc) (d : Nat) (st : Option Nat) : (s.raise cls loc d st).mem = s.mem := (rfl)
@[simp] theorem raise_cells (cls : Nat) (loc : Loc) (d : Nat) (st : Option Nat) : (s.raise cls loc d st).cells = s.cells := (rfl)
@[simp] theorem raise_regions (cls : Nat) (loc : Loc) (d : Nat) (st : Option Nat) : (s.raise cls loc d st).regions = s.regions := (rfl)
@[simp] theorem raise_dies (cls : Nat) (loc : Loc) (d : Nat) (st : Option Nat) : (s.raise cls loc d st).dies = s.dies := (rfl)
@[simp] theorem raise_mcs (cls : Nat) (loc : Loc) (d : Nat) (st : Option Nat) : (s.raise cls loc d st).mcs = s.mcs := (rfl)
@[simp] theorem raise_pend13 (cls : Nat) (loc : Loc) (d : Nat) (st : Option Nat) : (s.raise cls loc d st).pend13 = s.pend13 := (rfl)
@[simp] theorem raise_resp (cls : Nat) (loc : Loc) (d : Nat) (st : Option Nat) : (s.raise cls loc d st).resp = s.resp := (rfl)
@[simp] theorem raise_net (cls : Nat) (loc : Loc) (d : Nat) (st : Option Nat) : (s.raise cls loc d st).net = s.net := (rfl)
@[simp] theorem raise_panels (cls : Nat) (loc : Loc) (d : Nat) (st : Option Nat) : (s.raise cls loc d st).panels = s.panels := (rfl)
@[simp] theorem raise_jobs (cls : Nat) (loc : Loc) (d : Nat) (st : Option Nat) : (s.raise cls loc d st).jobs = s.jobs := (rfl)
@[simp] theorem raise_leftRun (cls : Nat) (loc : Loc) (d : Nat) (st : Option Nat) : (s.raise cls loc d st).leftRun = s.leftRun := (rfl)
@[simp] theorem raise_load (cls : Nat) (loc : Loc) (d : Nat) (st : Option Nat) : (s.raise cls loc d st).load = s.load := (rfl)
@[simp] theorem raise_ctxs (cls : Nat) (loc : Loc) (d : Nat) (st : Option Nat) : (s.raise cls loc d st).ctxs = s.ctxs := (rfl)
@[simp] theorem raise_tags (cls : Nat) (loc : Loc) (d : Nat) (st : Option Nat) : (s.raise cls loc d st).tags = s.tags := (rfl)
@[simp] theorem raise_fabQ (cls : Nat) (loc : Loc) (d : Nat) (st : Option Nat) : (s.raise cls loc d st).fabQ = s.fabQ := (rfl)
@[simp] theorem raise_fabWait (cls : Nat) (loc : Loc) (d : Nat) (st : Option Nat) : (s.raise cls loc d st).fabWait = s.fabWait := (rfl)
@[simp] theorem raise_fports (cls : Nat) (loc : Loc) (d : Nat) (st : Option Nat) : (s.raise cls loc d st).fports = s.fports := (rfl)
@[simp] theorem raise_rings (cls : Nat) (loc : Loc) (d : Nat) (st : Option Nat) : (s.raise cls loc d st).rings = s.rings := (rfl)
@[simp] theorem raise_hports (cls : Nat) (loc : Loc) (d : Nat) (st : Option Nat) : (s.raise cls loc d st).hports = s.hports := (rfl)
@[simp] theorem raise_outReads (cls : Nat) (loc : Loc) (d : Nat) (st : Option Nat) : (s.raise cls loc d st).outReads = s.outReads := (rfl)
@[simp] theorem raise_nextId (cls : Nat) (loc : Loc) (d : Nat) (st : Option Nat) : (s.raise cls loc d st).nextId = s.nextId := (rfl)
@[simp] theorem raise_band (cls : Nat) (loc : Loc) (d : Nat) (st : Option Nat) : (s.raise cls loc d st).band = s.band := (rfl)
@[simp] theorem raise_time (cls : Nat) (loc : Loc) (d : Nat) (st : Option Nat) : (s.raise cls loc d st).time = s.time := (rfl)
@[simp] theorem raise_boot (cls : Nat) (loc : Loc) (d : Nat) (st : Option Nat) : (s.raise cls loc d st).boot = s.boot := (rfl)
@[simp] theorem raise_flash (cls : Nat) (loc : Loc) (d : Nat) (st : Option Nat) : (s.raise cls loc d st).flash = s.flash := (rfl)
@[simp] theorem raise_tap (cls : Nat) (loc : Loc) (d : Nat) (st : Option Nat) : (s.raise cls loc d st).tap = s.tap := (rfl)
@[simp] theorem raise_out (cls : Nat) (loc : Loc) (d : Nat) (st : Option Nat) : (s.raise cls loc d st).out = s.out := (rfl)
@[simp] theorem raise_fates (cls : Nat) (loc : Loc) (d : Nat) (st : Option Nat) : (s.raise cls loc d st).fates = s.fates := (rfl)
@[simp] theorem raise_free (cls : Nat) (loc : Loc) (d : Nat) (st : Option Nat) : (s.raise cls loc d st).free = s.free := (rfl)
@[simp] theorem raise_pending (cls : Nat) (loc : Loc) (d : Nat) (st : Option Nat) : (s.raise cls loc d st).pending = s.pending := (rfl)
@[simp] theorem raise_reg (cls : Nat) (loc : Loc) (d : Nat) (st : Option Nat) (k' : Nat) : (s.raise cls loc d st).reg k' = s.reg k' := (rfl)
@[simp] theorem raise_fld (cls : Nat) (loc : Loc) (d : Nat) (st : Option Nat) (k' : Nat) (lo' : Nat) (w' : Nat) : (s.raise cls loc d st).fld k' lo' w' = s.fld k' lo' w' := (rfl)
@[simp] theorem raise_byte (cls : Nat) (loc : Loc) (d : Nat) (st : Option Nat) (k' : Nat) : (s.raise cls loc d st).byte k' = s.byte k' := (rfl)
@[simp] theorem raise_bytes (cls : Nat) (loc : Loc) (d : Nat) (st : Option Nat) (k' : Nat) (n' : Nat) : (s.raise cls loc d st).bytes k' n' = s.bytes k' n' := (rfl)
@[simp] theorem raise_cell (cls : Nat) (loc : Loc) (d : Nat) (st : Option Nat) (c' : Nat) : (s.raise cls loc d st).cell c' = s.cell c' := (rfl)
@[simp] theorem raise_mxe (cls : Nat) (loc : Loc) (d : Nat) (st : Option Nat) (c' : Nat) : (s.raise cls loc d st).mxe c' = s.mxe c' := (rfl)
@[simp] theorem raise_core (cls : Nat) (loc : Loc) (d : Nat) (st : Option Nat) (c' : Nat) (k' : CoreSel) : (s.raise cls loc d st).core c' k' = s.core c' k' := (rfl)
@[simp] theorem raise_region (cls : Nat) (loc : Loc) (d : Nat) (st : Option Nat) (r' : Nat) : (s.raise cls loc d st).region r' = s.region r' := (rfl)
@[simp] theorem raise_die (cls : Nat) (loc : Loc) (d : Nat) (st : Option Nat) (d' : Nat) : (s.raise cls loc d st).die d' = s.die d' := (rfl)
@[simp] theorem raise_mc (cls : Nat) (loc : Loc) (d : Nat) (st : Option Nat) (d' : Nat) (n' : Nat) : (s.raise cls loc d st).mc d' n' = s.mc d' n' := (rfl)
@[simp] theorem raise_ctx (cls : Nat) (loc : Loc) (d : Nat) (st : Option Nat) (q' : Nat) : (s.raise cls loc d st).ctx q' = s.ctx q' := (rfl)
@[simp] theorem raise_tag (cls : Nat) (loc : Loc) (d : Nat) (st : Option Nat) (d' : Nat) (t' : Nat) : (s.raise cls loc d st).tag d' t' = s.tag d' t' := (rfl)
@[simp] theorem raise_fport (cls : Nat) (loc : Loc) (d : Nat) (st : Option Nat) (d' : Nat) (p' : Nat) : (s.raise cls loc d st).fport d' p' = s.fport d' p' := (rfl)
@[simp] theorem raise_ring (cls : Nat) (loc : Loc) (d : Nat) (st : Option Nat) (p' : Nat) (n' : Nat) : (s.raise cls loc d st).ring p' n' = s.ring p' n' := (rfl)
@[simp] theorem raise_hport (cls : Nat) (loc : Loc) (d : Nat) (st : Option Nat) (p' : Nat) : (s.raise cls loc d st).hport p' = s.hport p' := (rfl)
@[simp] theorem raise_now (cls : Nat) (loc : Loc) (d : Nat) (st : Option Nat) : (s.raise cls loc d st).now = s.now := (rfl)
@[simp] theorem raise_facility (cls : Nat) (loc : Loc) (d : Nat) (st : Option Nat) : (s.raise cls loc d st).facility = s.facility := (rfl)
@[simp] theorem raise_job (cls : Nat) (loc : Loc) (d : Nat) (st : Option Nat) (id' : Nat) : (s.raise cls loc d st).job? id' = s.job? id' := (rfl)
@[simp] theorem raise_logicalOf (cls : Nat) (loc : Loc) (d : Nat) (st : Option Nat) (c' : Nat) : (s.raise cls loc d st).logicalOf c' = s.logicalOf c' := (rfl)
@[simp] theorem raise_physicalOf (cls : Nat) (loc : Loc) (d : Nat) (st : Option Nat) (x' : Nat) (y' : Nat) : (s.raise cls loc d st).physicalOf x' y' = s.physicalOf x' y' := (rfl)
@[simp] theorem raise_panelOf (cls : Nat) (loc : Loc) (d : Nat) (st : Option Nat) (c' : Nat) : (s.raise cls loc d st).panelOf c' = s.panelOf c' := (rfl)
@[simp] theorem raise_jobOf (cls : Nat) (loc : Loc) (d : Nat) (st : Option Nat) (c' : Nat) : (s.raise cls loc d st).jobOf c' = s.jobOf c' := (rfl)
@[simp] theorem raise_isHole (cls : Nat) (loc : Loc) (d : Nat) (st : Option Nat) (c' : Nat) : (s.raise cls loc d st).isHole c' = s.isHole c' := (rfl)
@[simp] theorem raise_target (cls : Nat) (loc : Loc) (d : Nat) (st : Option Nat) (ga' : Nat) : (s.raise cls loc d st).target ga' = s.target ga' := (rfl)

@[simp] theorem raiseAt_part (cls : Nat) (c : Nat) (d : Nat) : (s.raiseAt cls c d).part = s.part := (rfl)
@[simp] theorem raiseAt_slot (cls : Nat) (c : Nat) (d : Nat) : (s.raiseAt cls c d).slot = s.slot := (rfl)
@[simp] theorem raiseAt_regs (cls : Nat) (c : Nat) (d : Nat) : (s.raiseAt cls c d).regs = s.regs := (rfl)
@[simp] theorem raiseAt_wrote (cls : Nat) (c : Nat) (d : Nat) : (s.raiseAt cls c d).wrote = s.wrote := (rfl)
@[simp] theorem raiseAt_w1cSet (cls : Nat) (c : Nat) (d : Nat) : (s.raiseAt cls c d).w1cSet = s.w1cSet := (rfl)
@[simp] theorem raiseAt_mem (cls : Nat) (c : Nat) (d : Nat) : (s.raiseAt cls c d).mem = s.mem := (rfl)
@[simp] theorem raiseAt_cells (cls : Nat) (c : Nat) (d : Nat) : (s.raiseAt cls c d).cells = s.cells := (rfl)
@[simp] theorem raiseAt_regions (cls : Nat) (c : Nat) (d : Nat) : (s.raiseAt cls c d).regions = s.regions := (rfl)
@[simp] theorem raiseAt_dies (cls : Nat) (c : Nat) (d : Nat) : (s.raiseAt cls c d).dies = s.dies := (rfl)
@[simp] theorem raiseAt_mcs (cls : Nat) (c : Nat) (d : Nat) : (s.raiseAt cls c d).mcs = s.mcs := (rfl)
@[simp] theorem raiseAt_pend13 (cls : Nat) (c : Nat) (d : Nat) : (s.raiseAt cls c d).pend13 = s.pend13 := (rfl)
@[simp] theorem raiseAt_resp (cls : Nat) (c : Nat) (d : Nat) : (s.raiseAt cls c d).resp = s.resp := (rfl)
@[simp] theorem raiseAt_net (cls : Nat) (c : Nat) (d : Nat) : (s.raiseAt cls c d).net = s.net := (rfl)
@[simp] theorem raiseAt_panels (cls : Nat) (c : Nat) (d : Nat) : (s.raiseAt cls c d).panels = s.panels := (rfl)
@[simp] theorem raiseAt_jobs (cls : Nat) (c : Nat) (d : Nat) : (s.raiseAt cls c d).jobs = s.jobs := (rfl)
@[simp] theorem raiseAt_leftRun (cls : Nat) (c : Nat) (d : Nat) : (s.raiseAt cls c d).leftRun = s.leftRun := (rfl)
@[simp] theorem raiseAt_load (cls : Nat) (c : Nat) (d : Nat) : (s.raiseAt cls c d).load = s.load := (rfl)
@[simp] theorem raiseAt_ctxs (cls : Nat) (c : Nat) (d : Nat) : (s.raiseAt cls c d).ctxs = s.ctxs := (rfl)
@[simp] theorem raiseAt_tags (cls : Nat) (c : Nat) (d : Nat) : (s.raiseAt cls c d).tags = s.tags := (rfl)
@[simp] theorem raiseAt_fabQ (cls : Nat) (c : Nat) (d : Nat) : (s.raiseAt cls c d).fabQ = s.fabQ := (rfl)
@[simp] theorem raiseAt_fabWait (cls : Nat) (c : Nat) (d : Nat) : (s.raiseAt cls c d).fabWait = s.fabWait := (rfl)
@[simp] theorem raiseAt_fports (cls : Nat) (c : Nat) (d : Nat) : (s.raiseAt cls c d).fports = s.fports := (rfl)
@[simp] theorem raiseAt_rings (cls : Nat) (c : Nat) (d : Nat) : (s.raiseAt cls c d).rings = s.rings := (rfl)
@[simp] theorem raiseAt_hports (cls : Nat) (c : Nat) (d : Nat) : (s.raiseAt cls c d).hports = s.hports := (rfl)
@[simp] theorem raiseAt_outReads (cls : Nat) (c : Nat) (d : Nat) : (s.raiseAt cls c d).outReads = s.outReads := (rfl)
@[simp] theorem raiseAt_nextId (cls : Nat) (c : Nat) (d : Nat) : (s.raiseAt cls c d).nextId = s.nextId := (rfl)
@[simp] theorem raiseAt_band (cls : Nat) (c : Nat) (d : Nat) : (s.raiseAt cls c d).band = s.band := (rfl)
@[simp] theorem raiseAt_time (cls : Nat) (c : Nat) (d : Nat) : (s.raiseAt cls c d).time = s.time := (rfl)
@[simp] theorem raiseAt_boot (cls : Nat) (c : Nat) (d : Nat) : (s.raiseAt cls c d).boot = s.boot := (rfl)
@[simp] theorem raiseAt_flash (cls : Nat) (c : Nat) (d : Nat) : (s.raiseAt cls c d).flash = s.flash := (rfl)
@[simp] theorem raiseAt_tap (cls : Nat) (c : Nat) (d : Nat) : (s.raiseAt cls c d).tap = s.tap := (rfl)
@[simp] theorem raiseAt_out (cls : Nat) (c : Nat) (d : Nat) : (s.raiseAt cls c d).out = s.out := (rfl)
@[simp] theorem raiseAt_fates (cls : Nat) (c : Nat) (d : Nat) : (s.raiseAt cls c d).fates = s.fates := (rfl)
@[simp] theorem raiseAt_free (cls : Nat) (c : Nat) (d : Nat) : (s.raiseAt cls c d).free = s.free := (rfl)
@[simp] theorem raiseAt_pending (cls : Nat) (c : Nat) (d : Nat) : (s.raiseAt cls c d).pending = s.pending := (rfl)
@[simp] theorem raiseAt_reg (cls : Nat) (c : Nat) (d : Nat) (k' : Nat) : (s.raiseAt cls c d).reg k' = s.reg k' := (rfl)
@[simp] theorem raiseAt_fld (cls : Nat) (c : Nat) (d : Nat) (k' : Nat) (lo' : Nat) (w' : Nat) : (s.raiseAt cls c d).fld k' lo' w' = s.fld k' lo' w' := (rfl)
@[simp] theorem raiseAt_byte (cls : Nat) (c : Nat) (d : Nat) (k' : Nat) : (s.raiseAt cls c d).byte k' = s.byte k' := (rfl)
@[simp] theorem raiseAt_bytes (cls : Nat) (c : Nat) (d : Nat) (k' : Nat) (n' : Nat) : (s.raiseAt cls c d).bytes k' n' = s.bytes k' n' := (rfl)
@[simp] theorem raiseAt_cell (cls : Nat) (c : Nat) (d : Nat) (c' : Nat) : (s.raiseAt cls c d).cell c' = s.cell c' := (rfl)
@[simp] theorem raiseAt_mxe (cls : Nat) (c : Nat) (d : Nat) (c' : Nat) : (s.raiseAt cls c d).mxe c' = s.mxe c' := (rfl)
@[simp] theorem raiseAt_core (cls : Nat) (c : Nat) (d : Nat) (c' : Nat) (k' : CoreSel) : (s.raiseAt cls c d).core c' k' = s.core c' k' := (rfl)
@[simp] theorem raiseAt_region (cls : Nat) (c : Nat) (d : Nat) (r' : Nat) : (s.raiseAt cls c d).region r' = s.region r' := (rfl)
@[simp] theorem raiseAt_die (cls : Nat) (c : Nat) (d : Nat) (d' : Nat) : (s.raiseAt cls c d).die d' = s.die d' := (rfl)
@[simp] theorem raiseAt_mc (cls : Nat) (c : Nat) (d : Nat) (d' : Nat) (n' : Nat) : (s.raiseAt cls c d).mc d' n' = s.mc d' n' := (rfl)
@[simp] theorem raiseAt_ctx (cls : Nat) (c : Nat) (d : Nat) (q' : Nat) : (s.raiseAt cls c d).ctx q' = s.ctx q' := (rfl)
@[simp] theorem raiseAt_tag (cls : Nat) (c : Nat) (d : Nat) (d' : Nat) (t' : Nat) : (s.raiseAt cls c d).tag d' t' = s.tag d' t' := (rfl)
@[simp] theorem raiseAt_fport (cls : Nat) (c : Nat) (d : Nat) (d' : Nat) (p' : Nat) : (s.raiseAt cls c d).fport d' p' = s.fport d' p' := (rfl)
@[simp] theorem raiseAt_ring (cls : Nat) (c : Nat) (d : Nat) (p' : Nat) (n' : Nat) : (s.raiseAt cls c d).ring p' n' = s.ring p' n' := (rfl)
@[simp] theorem raiseAt_hport (cls : Nat) (c : Nat) (d : Nat) (p' : Nat) : (s.raiseAt cls c d).hport p' = s.hport p' := (rfl)
@[simp] theorem raiseAt_now (cls : Nat) (c : Nat) (d : Nat) : (s.raiseAt cls c d).now = s.now := (rfl)
@[simp] theorem raiseAt_facility (cls : Nat) (c : Nat) (d : Nat) : (s.raiseAt cls c d).facility = s.facility := (rfl)
@[simp] theorem raiseAt_job (cls : Nat) (c : Nat) (d : Nat) (id' : Nat) : (s.raiseAt cls c d).job? id' = s.job? id' := (rfl)
@[simp] theorem raiseAt_logicalOf (cls : Nat) (c : Nat) (d : Nat) (c' : Nat) : (s.raiseAt cls c d).logicalOf c' = s.logicalOf c' := (rfl)
@[simp] theorem raiseAt_physicalOf (cls : Nat) (c : Nat) (d : Nat) (x' : Nat) (y' : Nat) : (s.raiseAt cls c d).physicalOf x' y' = s.physicalOf x' y' := (rfl)
@[simp] theorem raiseAt_panelOf (cls : Nat) (c : Nat) (d : Nat) (c' : Nat) : (s.raiseAt cls c d).panelOf c' = s.panelOf c' := (rfl)
@[simp] theorem raiseAt_jobOf (cls : Nat) (c : Nat) (d : Nat) (c' : Nat) : (s.raiseAt cls c d).jobOf c' = s.jobOf c' := (rfl)
@[simp] theorem raiseAt_isHole (cls : Nat) (c : Nat) (d : Nat) (c' : Nat) : (s.raiseAt cls c d).isHole c' = s.isHole c' := (rfl)
@[simp] theorem raiseAt_target (cls : Nat) (c : Nat) (d : Nat) (ga' : Nat) : (s.raiseAt cls c d).target ga' = s.target ga' := (rfl)

@[simp] theorem raiseLim_part (ns : Nat) (cls : Nat) (loc : Loc) (d : Nat) : (s.raiseLim ns cls loc d).part = s.part := by unfold State.raiseLim; split; split <;> rfl; rfl
@[simp] theorem raiseLim_slot (ns : Nat) (cls : Nat) (loc : Loc) (d : Nat) : (s.raiseLim ns cls loc d).slot = s.slot := by unfold State.raiseLim; split; split <;> rfl; rfl
@[simp] theorem raiseLim_regs (ns : Nat) (cls : Nat) (loc : Loc) (d : Nat) : (s.raiseLim ns cls loc d).regs = s.regs := by unfold State.raiseLim; split; split <;> rfl; rfl
@[simp] theorem raiseLim_wrote (ns : Nat) (cls : Nat) (loc : Loc) (d : Nat) : (s.raiseLim ns cls loc d).wrote = s.wrote := by unfold State.raiseLim; split; split <;> rfl; rfl
@[simp] theorem raiseLim_w1cSet (ns : Nat) (cls : Nat) (loc : Loc) (d : Nat) : (s.raiseLim ns cls loc d).w1cSet = s.w1cSet := by unfold State.raiseLim; split; split <;> rfl; rfl
@[simp] theorem raiseLim_mem (ns : Nat) (cls : Nat) (loc : Loc) (d : Nat) : (s.raiseLim ns cls loc d).mem = s.mem := by unfold State.raiseLim; split; split <;> rfl; rfl
@[simp] theorem raiseLim_cells (ns : Nat) (cls : Nat) (loc : Loc) (d : Nat) : (s.raiseLim ns cls loc d).cells = s.cells := by unfold State.raiseLim; split; split <;> rfl; rfl
@[simp] theorem raiseLim_regions (ns : Nat) (cls : Nat) (loc : Loc) (d : Nat) : (s.raiseLim ns cls loc d).regions = s.regions := by unfold State.raiseLim; split; split <;> rfl; rfl
@[simp] theorem raiseLim_dies (ns : Nat) (cls : Nat) (loc : Loc) (d : Nat) : (s.raiseLim ns cls loc d).dies = s.dies := by unfold State.raiseLim; split; split <;> rfl; rfl
@[simp] theorem raiseLim_mcs (ns : Nat) (cls : Nat) (loc : Loc) (d : Nat) : (s.raiseLim ns cls loc d).mcs = s.mcs := by unfold State.raiseLim; split; split <;> rfl; rfl
@[simp] theorem raiseLim_pend13 (ns : Nat) (cls : Nat) (loc : Loc) (d : Nat) : (s.raiseLim ns cls loc d).pend13 = s.pend13 := by unfold State.raiseLim; split; split <;> rfl; rfl
@[simp] theorem raiseLim_resp (ns : Nat) (cls : Nat) (loc : Loc) (d : Nat) : (s.raiseLim ns cls loc d).resp = s.resp := by unfold State.raiseLim; split; split <;> rfl; rfl
@[simp] theorem raiseLim_net (ns : Nat) (cls : Nat) (loc : Loc) (d : Nat) : (s.raiseLim ns cls loc d).net = s.net := by unfold State.raiseLim; split; split <;> rfl; rfl
@[simp] theorem raiseLim_panels (ns : Nat) (cls : Nat) (loc : Loc) (d : Nat) : (s.raiseLim ns cls loc d).panels = s.panels := by unfold State.raiseLim; split; split <;> rfl; rfl
@[simp] theorem raiseLim_jobs (ns : Nat) (cls : Nat) (loc : Loc) (d : Nat) : (s.raiseLim ns cls loc d).jobs = s.jobs := by unfold State.raiseLim; split; split <;> rfl; rfl
@[simp] theorem raiseLim_leftRun (ns : Nat) (cls : Nat) (loc : Loc) (d : Nat) : (s.raiseLim ns cls loc d).leftRun = s.leftRun := by unfold State.raiseLim; split; split <;> rfl; rfl
@[simp] theorem raiseLim_load (ns : Nat) (cls : Nat) (loc : Loc) (d : Nat) : (s.raiseLim ns cls loc d).load = s.load := by unfold State.raiseLim; split; split <;> rfl; rfl
@[simp] theorem raiseLim_ctxs (ns : Nat) (cls : Nat) (loc : Loc) (d : Nat) : (s.raiseLim ns cls loc d).ctxs = s.ctxs := by unfold State.raiseLim; split; split <;> rfl; rfl
@[simp] theorem raiseLim_tags (ns : Nat) (cls : Nat) (loc : Loc) (d : Nat) : (s.raiseLim ns cls loc d).tags = s.tags := by unfold State.raiseLim; split; split <;> rfl; rfl
@[simp] theorem raiseLim_fabQ (ns : Nat) (cls : Nat) (loc : Loc) (d : Nat) : (s.raiseLim ns cls loc d).fabQ = s.fabQ := by unfold State.raiseLim; split; split <;> rfl; rfl
@[simp] theorem raiseLim_fabWait (ns : Nat) (cls : Nat) (loc : Loc) (d : Nat) : (s.raiseLim ns cls loc d).fabWait = s.fabWait := by unfold State.raiseLim; split; split <;> rfl; rfl
@[simp] theorem raiseLim_fports (ns : Nat) (cls : Nat) (loc : Loc) (d : Nat) : (s.raiseLim ns cls loc d).fports = s.fports := by unfold State.raiseLim; split; split <;> rfl; rfl
@[simp] theorem raiseLim_rings (ns : Nat) (cls : Nat) (loc : Loc) (d : Nat) : (s.raiseLim ns cls loc d).rings = s.rings := by unfold State.raiseLim; split; split <;> rfl; rfl
@[simp] theorem raiseLim_hports (ns : Nat) (cls : Nat) (loc : Loc) (d : Nat) : (s.raiseLim ns cls loc d).hports = s.hports := by unfold State.raiseLim; split; split <;> rfl; rfl
@[simp] theorem raiseLim_outReads (ns : Nat) (cls : Nat) (loc : Loc) (d : Nat) : (s.raiseLim ns cls loc d).outReads = s.outReads := by unfold State.raiseLim; split; split <;> rfl; rfl
@[simp] theorem raiseLim_nextId (ns : Nat) (cls : Nat) (loc : Loc) (d : Nat) : (s.raiseLim ns cls loc d).nextId = s.nextId := by unfold State.raiseLim; split; split <;> rfl; rfl
@[simp] theorem raiseLim_band (ns : Nat) (cls : Nat) (loc : Loc) (d : Nat) : (s.raiseLim ns cls loc d).band = s.band := by unfold State.raiseLim; split; split <;> rfl; rfl
@[simp] theorem raiseLim_time (ns : Nat) (cls : Nat) (loc : Loc) (d : Nat) : (s.raiseLim ns cls loc d).time = s.time := by unfold State.raiseLim; split; split <;> rfl; rfl
@[simp] theorem raiseLim_boot (ns : Nat) (cls : Nat) (loc : Loc) (d : Nat) : (s.raiseLim ns cls loc d).boot = s.boot := by unfold State.raiseLim; split; split <;> rfl; rfl
@[simp] theorem raiseLim_flash (ns : Nat) (cls : Nat) (loc : Loc) (d : Nat) : (s.raiseLim ns cls loc d).flash = s.flash := by unfold State.raiseLim; split; split <;> rfl; rfl
@[simp] theorem raiseLim_tap (ns : Nat) (cls : Nat) (loc : Loc) (d : Nat) : (s.raiseLim ns cls loc d).tap = s.tap := by unfold State.raiseLim; split; split <;> rfl; rfl
@[simp] theorem raiseLim_out (ns : Nat) (cls : Nat) (loc : Loc) (d : Nat) : (s.raiseLim ns cls loc d).out = s.out := by unfold State.raiseLim; split; split <;> rfl; rfl
@[simp] theorem raiseLim_fates (ns : Nat) (cls : Nat) (loc : Loc) (d : Nat) : (s.raiseLim ns cls loc d).fates = s.fates := by unfold State.raiseLim; split; split <;> rfl; rfl
@[simp] theorem raiseLim_free (ns : Nat) (cls : Nat) (loc : Loc) (d : Nat) : (s.raiseLim ns cls loc d).free = s.free := by unfold State.raiseLim; split; split <;> rfl; rfl
@[simp] theorem raiseLim_pending (ns : Nat) (cls : Nat) (loc : Loc) (d : Nat) : (s.raiseLim ns cls loc d).pending = s.pending := by unfold State.raiseLim; split; split <;> rfl; rfl
@[simp] theorem raiseLim_reg (ns : Nat) (cls : Nat) (loc : Loc) (d : Nat) (k' : Nat) : (s.raiseLim ns cls loc d).reg k' = s.reg k' := by unfold State.raiseLim; split; split <;> rfl; rfl
@[simp] theorem raiseLim_fld (ns : Nat) (cls : Nat) (loc : Loc) (d : Nat) (k' : Nat) (lo' : Nat) (w' : Nat) : (s.raiseLim ns cls loc d).fld k' lo' w' = s.fld k' lo' w' := by unfold State.raiseLim; split; split <;> rfl; rfl
@[simp] theorem raiseLim_byte (ns : Nat) (cls : Nat) (loc : Loc) (d : Nat) (k' : Nat) : (s.raiseLim ns cls loc d).byte k' = s.byte k' := by unfold State.raiseLim; split; split <;> rfl; rfl
@[simp] theorem raiseLim_bytes (ns : Nat) (cls : Nat) (loc : Loc) (d : Nat) (k' : Nat) (n' : Nat) : (s.raiseLim ns cls loc d).bytes k' n' = s.bytes k' n' := by unfold State.raiseLim; split; split <;> rfl; rfl
@[simp] theorem raiseLim_cell (ns : Nat) (cls : Nat) (loc : Loc) (d : Nat) (c' : Nat) : (s.raiseLim ns cls loc d).cell c' = s.cell c' := by unfold State.raiseLim; split; split <;> rfl; rfl
@[simp] theorem raiseLim_mxe (ns : Nat) (cls : Nat) (loc : Loc) (d : Nat) (c' : Nat) : (s.raiseLim ns cls loc d).mxe c' = s.mxe c' := by unfold State.raiseLim; split; split <;> rfl; rfl
@[simp] theorem raiseLim_core (ns : Nat) (cls : Nat) (loc : Loc) (d : Nat) (c' : Nat) (k' : CoreSel) : (s.raiseLim ns cls loc d).core c' k' = s.core c' k' := by unfold State.raiseLim; split; split <;> rfl; rfl
@[simp] theorem raiseLim_region (ns : Nat) (cls : Nat) (loc : Loc) (d : Nat) (r' : Nat) : (s.raiseLim ns cls loc d).region r' = s.region r' := by unfold State.raiseLim; split; split <;> rfl; rfl
@[simp] theorem raiseLim_die (ns : Nat) (cls : Nat) (loc : Loc) (d : Nat) (d' : Nat) : (s.raiseLim ns cls loc d).die d' = s.die d' := by unfold State.raiseLim; split; split <;> rfl; rfl
@[simp] theorem raiseLim_mc (ns : Nat) (cls : Nat) (loc : Loc) (d : Nat) (d' : Nat) (n' : Nat) : (s.raiseLim ns cls loc d).mc d' n' = s.mc d' n' := by unfold State.raiseLim; split; split <;> rfl; rfl
@[simp] theorem raiseLim_ctx (ns : Nat) (cls : Nat) (loc : Loc) (d : Nat) (q' : Nat) : (s.raiseLim ns cls loc d).ctx q' = s.ctx q' := by unfold State.raiseLim; split; split <;> rfl; rfl
@[simp] theorem raiseLim_tag (ns : Nat) (cls : Nat) (loc : Loc) (d : Nat) (d' : Nat) (t' : Nat) : (s.raiseLim ns cls loc d).tag d' t' = s.tag d' t' := by unfold State.raiseLim; split; split <;> rfl; rfl
@[simp] theorem raiseLim_fport (ns : Nat) (cls : Nat) (loc : Loc) (d : Nat) (d' : Nat) (p' : Nat) : (s.raiseLim ns cls loc d).fport d' p' = s.fport d' p' := by unfold State.raiseLim; split; split <;> rfl; rfl
@[simp] theorem raiseLim_ring (ns : Nat) (cls : Nat) (loc : Loc) (d : Nat) (p' : Nat) (n' : Nat) : (s.raiseLim ns cls loc d).ring p' n' = s.ring p' n' := by unfold State.raiseLim; split; split <;> rfl; rfl
@[simp] theorem raiseLim_hport (ns : Nat) (cls : Nat) (loc : Loc) (d : Nat) (p' : Nat) : (s.raiseLim ns cls loc d).hport p' = s.hport p' := by unfold State.raiseLim; split; split <;> rfl; rfl
@[simp] theorem raiseLim_now (ns : Nat) (cls : Nat) (loc : Loc) (d : Nat) : (s.raiseLim ns cls loc d).now = s.now := by unfold State.raiseLim; split; split <;> rfl; rfl
@[simp] theorem raiseLim_facility (ns : Nat) (cls : Nat) (loc : Loc) (d : Nat) : (s.raiseLim ns cls loc d).facility = s.facility := by unfold State.raiseLim; split; split <;> rfl; rfl
@[simp] theorem raiseLim_job (ns : Nat) (cls : Nat) (loc : Loc) (d : Nat) (id' : Nat) : (s.raiseLim ns cls loc d).job? id' = s.job? id' := by unfold State.raiseLim; split; split <;> rfl; rfl
@[simp] theorem raiseLim_logicalOf (ns : Nat) (cls : Nat) (loc : Loc) (d : Nat) (c' : Nat) : (s.raiseLim ns cls loc d).logicalOf c' = s.logicalOf c' := by unfold State.raiseLim; split; split <;> rfl; rfl
@[simp] theorem raiseLim_physicalOf (ns : Nat) (cls : Nat) (loc : Loc) (d : Nat) (x' : Nat) (y' : Nat) : (s.raiseLim ns cls loc d).physicalOf x' y' = s.physicalOf x' y' := by unfold State.raiseLim; split; split <;> rfl; rfl
@[simp] theorem raiseLim_panelOf (ns : Nat) (cls : Nat) (loc : Loc) (d : Nat) (c' : Nat) : (s.raiseLim ns cls loc d).panelOf c' = s.panelOf c' := by unfold State.raiseLim; split; split <;> rfl; rfl
@[simp] theorem raiseLim_jobOf (ns : Nat) (cls : Nat) (loc : Loc) (d : Nat) (c' : Nat) : (s.raiseLim ns cls loc d).jobOf c' = s.jobOf c' := by unfold State.raiseLim; split; split <;> rfl; rfl
@[simp] theorem raiseLim_isHole (ns : Nat) (cls : Nat) (loc : Loc) (d : Nat) (c' : Nat) : (s.raiseLim ns cls loc d).isHole c' = s.isHole c' := by unfold State.raiseLim; split; split <;> rfl; rfl
@[simp] theorem raiseLim_target (ns : Nat) (cls : Nat) (loc : Loc) (d : Nat) (ga' : Nat) : (s.raiseLim ns cls loc d).target ga' = s.target ga' := by unfold State.raiseLim; split; split <;> rfl; rfl

@[simp] theorem raiseVec_part (p : Nat) (v : Nat) : (s.raiseVec p v).part = s.part := by unfold State.raiseVec; dsimp only; split; rfl; split <;> rfl
@[simp] theorem raiseVec_slot (p : Nat) (v : Nat) : (s.raiseVec p v).slot = s.slot := by unfold State.raiseVec; dsimp only; split; rfl; split <;> rfl
@[simp] theorem raiseVec_regs (p : Nat) (v : Nat) : (s.raiseVec p v).regs = s.regs := by unfold State.raiseVec; dsimp only; split; rfl; split <;> rfl
@[simp] theorem raiseVec_wrote (p : Nat) (v : Nat) : (s.raiseVec p v).wrote = s.wrote := by unfold State.raiseVec; dsimp only; split; rfl; split <;> rfl
@[simp] theorem raiseVec_w1cSet (p : Nat) (v : Nat) : (s.raiseVec p v).w1cSet = s.w1cSet := by unfold State.raiseVec; dsimp only; split; rfl; split <;> rfl
@[simp] theorem raiseVec_mem (p : Nat) (v : Nat) : (s.raiseVec p v).mem = s.mem := by unfold State.raiseVec; dsimp only; split; rfl; split <;> rfl
@[simp] theorem raiseVec_cells (p : Nat) (v : Nat) : (s.raiseVec p v).cells = s.cells := by unfold State.raiseVec; dsimp only; split; rfl; split <;> rfl
@[simp] theorem raiseVec_regions (p : Nat) (v : Nat) : (s.raiseVec p v).regions = s.regions := by unfold State.raiseVec; dsimp only; split; rfl; split <;> rfl
@[simp] theorem raiseVec_dies (p : Nat) (v : Nat) : (s.raiseVec p v).dies = s.dies := by unfold State.raiseVec; dsimp only; split; rfl; split <;> rfl
@[simp] theorem raiseVec_mcs (p : Nat) (v : Nat) : (s.raiseVec p v).mcs = s.mcs := by unfold State.raiseVec; dsimp only; split; rfl; split <;> rfl
@[simp] theorem raiseVec_pend13 (p : Nat) (v : Nat) : (s.raiseVec p v).pend13 = s.pend13 := by unfold State.raiseVec; dsimp only; split; rfl; split <;> rfl
@[simp] theorem raiseVec_resp (p : Nat) (v : Nat) : (s.raiseVec p v).resp = s.resp := by unfold State.raiseVec; dsimp only; split; rfl; split <;> rfl
@[simp] theorem raiseVec_net (p : Nat) (v : Nat) : (s.raiseVec p v).net = s.net := by unfold State.raiseVec; dsimp only; split; rfl; split <;> rfl
@[simp] theorem raiseVec_panels (p : Nat) (v : Nat) : (s.raiseVec p v).panels = s.panels := by unfold State.raiseVec; dsimp only; split; rfl; split <;> rfl
@[simp] theorem raiseVec_jobs (p : Nat) (v : Nat) : (s.raiseVec p v).jobs = s.jobs := by unfold State.raiseVec; dsimp only; split; rfl; split <;> rfl
@[simp] theorem raiseVec_leftRun (p : Nat) (v : Nat) : (s.raiseVec p v).leftRun = s.leftRun := by unfold State.raiseVec; dsimp only; split; rfl; split <;> rfl
@[simp] theorem raiseVec_load (p : Nat) (v : Nat) : (s.raiseVec p v).load = s.load := by unfold State.raiseVec; dsimp only; split; rfl; split <;> rfl
@[simp] theorem raiseVec_ctxs (p : Nat) (v : Nat) : (s.raiseVec p v).ctxs = s.ctxs := by unfold State.raiseVec; dsimp only; split; rfl; split <;> rfl
@[simp] theorem raiseVec_tags (p : Nat) (v : Nat) : (s.raiseVec p v).tags = s.tags := by unfold State.raiseVec; dsimp only; split; rfl; split <;> rfl
@[simp] theorem raiseVec_fabQ (p : Nat) (v : Nat) : (s.raiseVec p v).fabQ = s.fabQ := by unfold State.raiseVec; dsimp only; split; rfl; split <;> rfl
@[simp] theorem raiseVec_fabWait (p : Nat) (v : Nat) : (s.raiseVec p v).fabWait = s.fabWait := by unfold State.raiseVec; dsimp only; split; rfl; split <;> rfl
@[simp] theorem raiseVec_fports (p : Nat) (v : Nat) : (s.raiseVec p v).fports = s.fports := by unfold State.raiseVec; dsimp only; split; rfl; split <;> rfl
@[simp] theorem raiseVec_rings (p : Nat) (v : Nat) : (s.raiseVec p v).rings = s.rings := by unfold State.raiseVec; dsimp only; split; rfl; split <;> rfl
@[simp] theorem raiseVec_outReads (p : Nat) (v : Nat) : (s.raiseVec p v).outReads = s.outReads := by unfold State.raiseVec; dsimp only; split; rfl; split <;> rfl
@[simp] theorem raiseVec_nextId (p : Nat) (v : Nat) : (s.raiseVec p v).nextId = s.nextId := by unfold State.raiseVec; dsimp only; split; rfl; split <;> rfl
@[simp] theorem raiseVec_band (p : Nat) (v : Nat) : (s.raiseVec p v).band = s.band := by unfold State.raiseVec; dsimp only; split; rfl; split <;> rfl
@[simp] theorem raiseVec_time (p : Nat) (v : Nat) : (s.raiseVec p v).time = s.time := by unfold State.raiseVec; dsimp only; split; rfl; split <;> rfl
@[simp] theorem raiseVec_boot (p : Nat) (v : Nat) : (s.raiseVec p v).boot = s.boot := by unfold State.raiseVec; dsimp only; split; rfl; split <;> rfl
@[simp] theorem raiseVec_flash (p : Nat) (v : Nat) : (s.raiseVec p v).flash = s.flash := by unfold State.raiseVec; dsimp only; split; rfl; split <;> rfl
@[simp] theorem raiseVec_err (p : Nat) (v : Nat) : (s.raiseVec p v).err = s.err := by unfold State.raiseVec; dsimp only; split; rfl; split <;> rfl
@[simp] theorem raiseVec_tap (p : Nat) (v : Nat) : (s.raiseVec p v).tap = s.tap := by unfold State.raiseVec; dsimp only; split; rfl; split <;> rfl
@[simp] theorem raiseVec_fates (p : Nat) (v : Nat) : (s.raiseVec p v).fates = s.fates := by unfold State.raiseVec; dsimp only; split; rfl; split <;> rfl
@[simp] theorem raiseVec_free (p : Nat) (v : Nat) : (s.raiseVec p v).free = s.free := by unfold State.raiseVec; dsimp only; split; rfl; split <;> rfl
@[simp] theorem raiseVec_pending (p : Nat) (v : Nat) : (s.raiseVec p v).pending = s.pending := by unfold State.raiseVec; dsimp only; split; rfl; split <;> rfl
@[simp] theorem raiseVec_reg (p : Nat) (v : Nat) (k' : Nat) : (s.raiseVec p v).reg k' = s.reg k' := by unfold State.raiseVec; dsimp only; split; rfl; split <;> rfl
@[simp] theorem raiseVec_fld (p : Nat) (v : Nat) (k' : Nat) (lo' : Nat) (w' : Nat) : (s.raiseVec p v).fld k' lo' w' = s.fld k' lo' w' := by unfold State.raiseVec; dsimp only; split; rfl; split <;> rfl
@[simp] theorem raiseVec_byte (p : Nat) (v : Nat) (k' : Nat) : (s.raiseVec p v).byte k' = s.byte k' := by unfold State.raiseVec; dsimp only; split; rfl; split <;> rfl
@[simp] theorem raiseVec_bytes (p : Nat) (v : Nat) (k' : Nat) (n' : Nat) : (s.raiseVec p v).bytes k' n' = s.bytes k' n' := by unfold State.raiseVec; dsimp only; split; rfl; split <;> rfl
@[simp] theorem raiseVec_cell (p : Nat) (v : Nat) (c' : Nat) : (s.raiseVec p v).cell c' = s.cell c' := by unfold State.raiseVec; dsimp only; split; rfl; split <;> rfl
@[simp] theorem raiseVec_mxe (p : Nat) (v : Nat) (c' : Nat) : (s.raiseVec p v).mxe c' = s.mxe c' := by unfold State.raiseVec; dsimp only; split; rfl; split <;> rfl
@[simp] theorem raiseVec_core (p : Nat) (v : Nat) (c' : Nat) (k' : CoreSel) : (s.raiseVec p v).core c' k' = s.core c' k' := by unfold State.raiseVec; dsimp only; split; rfl; split <;> rfl
@[simp] theorem raiseVec_region (p : Nat) (v : Nat) (r' : Nat) : (s.raiseVec p v).region r' = s.region r' := by unfold State.raiseVec; dsimp only; split; rfl; split <;> rfl
@[simp] theorem raiseVec_die (p : Nat) (v : Nat) (d' : Nat) : (s.raiseVec p v).die d' = s.die d' := by unfold State.raiseVec; dsimp only; split; rfl; split <;> rfl
@[simp] theorem raiseVec_mc (p : Nat) (v : Nat) (d' : Nat) (n' : Nat) : (s.raiseVec p v).mc d' n' = s.mc d' n' := by unfold State.raiseVec; dsimp only; split; rfl; split <;> rfl
@[simp] theorem raiseVec_ctx (p : Nat) (v : Nat) (q' : Nat) : (s.raiseVec p v).ctx q' = s.ctx q' := by unfold State.raiseVec; dsimp only; split; rfl; split <;> rfl
@[simp] theorem raiseVec_tag (p : Nat) (v : Nat) (d' : Nat) (t' : Nat) : (s.raiseVec p v).tag d' t' = s.tag d' t' := by unfold State.raiseVec; dsimp only; split; rfl; split <;> rfl
@[simp] theorem raiseVec_fport (p : Nat) (v : Nat) (d' : Nat) (p' : Nat) : (s.raiseVec p v).fport d' p' = s.fport d' p' := by unfold State.raiseVec; dsimp only; split; rfl; split <;> rfl
@[simp] theorem raiseVec_ring (p : Nat) (v : Nat) (p' : Nat) (n' : Nat) : (s.raiseVec p v).ring p' n' = s.ring p' n' := by unfold State.raiseVec; dsimp only; split; rfl; split <;> rfl
@[simp] theorem raiseVec_now (p : Nat) (v : Nat) : (s.raiseVec p v).now = s.now := by unfold State.raiseVec; dsimp only; split; rfl; split <;> rfl
@[simp] theorem raiseVec_facility (p : Nat) (v : Nat) : (s.raiseVec p v).facility = s.facility := by unfold State.raiseVec; dsimp only; split; rfl; split <;> rfl
@[simp] theorem raiseVec_job (p : Nat) (v : Nat) (id' : Nat) : (s.raiseVec p v).job? id' = s.job? id' := by unfold State.raiseVec; dsimp only; split; rfl; split <;> rfl
@[simp] theorem raiseVec_logicalOf (p : Nat) (v : Nat) (c' : Nat) : (s.raiseVec p v).logicalOf c' = s.logicalOf c' := by unfold State.raiseVec; dsimp only; split; rfl; split <;> rfl
@[simp] theorem raiseVec_physicalOf (p : Nat) (v : Nat) (x' : Nat) (y' : Nat) : (s.raiseVec p v).physicalOf x' y' = s.physicalOf x' y' := by unfold State.raiseVec; dsimp only; split; rfl; split <;> rfl
@[simp] theorem raiseVec_panelOf (p : Nat) (v : Nat) (c' : Nat) : (s.raiseVec p v).panelOf c' = s.panelOf c' := by unfold State.raiseVec; dsimp only; split; rfl; split <;> rfl
@[simp] theorem raiseVec_jobOf (p : Nat) (v : Nat) (c' : Nat) : (s.raiseVec p v).jobOf c' = s.jobOf c' := by unfold State.raiseVec; dsimp only; split; rfl; split <;> rfl
@[simp] theorem raiseVec_isHole (p : Nat) (v : Nat) (c' : Nat) : (s.raiseVec p v).isHole c' = s.isHole c' := by unfold State.raiseVec; dsimp only; split; rfl; split <;> rfl
@[simp] theorem raiseVec_target (p : Nat) (v : Nat) (ga' : Nat) : (s.raiseVec p v).target ga' = s.target ga' := by unfold State.raiseVec; dsimp only; split; rfl; split <;> rfl

@[simp] theorem answer_part (req : Req) (r : Resp) : (s.answer req r).part = s.part := (rfl)
@[simp] theorem answer_slot (req : Req) (r : Resp) : (s.answer req r).slot = s.slot := (rfl)
@[simp] theorem answer_regs (req : Req) (r : Resp) : (s.answer req r).regs = s.regs := (rfl)
@[simp] theorem answer_wrote (req : Req) (r : Resp) : (s.answer req r).wrote = s.wrote := (rfl)
@[simp] theorem answer_w1cSet (req : Req) (r : Resp) : (s.answer req r).w1cSet = s.w1cSet := (rfl)
@[simp] theorem answer_mem (req : Req) (r : Resp) : (s.answer req r).mem = s.mem := (rfl)
@[simp] theorem answer_cells (req : Req) (r : Resp) : (s.answer req r).cells = s.cells := (rfl)
@[simp] theorem answer_regions (req : Req) (r : Resp) : (s.answer req r).regions = s.regions := (rfl)
@[simp] theorem answer_dies (req : Req) (r : Resp) : (s.answer req r).dies = s.dies := (rfl)
@[simp] theorem answer_mcs (req : Req) (r : Resp) : (s.answer req r).mcs = s.mcs := (rfl)
@[simp] theorem answer_pend13 (req : Req) (r : Resp) : (s.answer req r).pend13 = s.pend13 := (rfl)
@[simp] theorem answer_net (req : Req) (r : Resp) : (s.answer req r).net = s.net := (rfl)
@[simp] theorem answer_panels (req : Req) (r : Resp) : (s.answer req r).panels = s.panels := (rfl)
@[simp] theorem answer_jobs (req : Req) (r : Resp) : (s.answer req r).jobs = s.jobs := (rfl)
@[simp] theorem answer_leftRun (req : Req) (r : Resp) : (s.answer req r).leftRun = s.leftRun := (rfl)
@[simp] theorem answer_load (req : Req) (r : Resp) : (s.answer req r).load = s.load := (rfl)
@[simp] theorem answer_ctxs (req : Req) (r : Resp) : (s.answer req r).ctxs = s.ctxs := (rfl)
@[simp] theorem answer_tags (req : Req) (r : Resp) : (s.answer req r).tags = s.tags := (rfl)
@[simp] theorem answer_fabQ (req : Req) (r : Resp) : (s.answer req r).fabQ = s.fabQ := (rfl)
@[simp] theorem answer_fabWait (req : Req) (r : Resp) : (s.answer req r).fabWait = s.fabWait := (rfl)
@[simp] theorem answer_fports (req : Req) (r : Resp) : (s.answer req r).fports = s.fports := (rfl)
@[simp] theorem answer_rings (req : Req) (r : Resp) : (s.answer req r).rings = s.rings := (rfl)
@[simp] theorem answer_hports (req : Req) (r : Resp) : (s.answer req r).hports = s.hports := (rfl)
@[simp] theorem answer_outReads (req : Req) (r : Resp) : (s.answer req r).outReads = s.outReads := (rfl)
@[simp] theorem answer_nextId (req : Req) (r : Resp) : (s.answer req r).nextId = s.nextId := (rfl)
@[simp] theorem answer_band (req : Req) (r : Resp) : (s.answer req r).band = s.band := (rfl)
@[simp] theorem answer_time (req : Req) (r : Resp) : (s.answer req r).time = s.time := (rfl)
@[simp] theorem answer_boot (req : Req) (r : Resp) : (s.answer req r).boot = s.boot := (rfl)
@[simp] theorem answer_flash (req : Req) (r : Resp) : (s.answer req r).flash = s.flash := (rfl)
@[simp] theorem answer_err (req : Req) (r : Resp) : (s.answer req r).err = s.err := (rfl)
@[simp] theorem answer_tap (req : Req) (r : Resp) : (s.answer req r).tap = s.tap := (rfl)
@[simp] theorem answer_out (req : Req) (r : Resp) : (s.answer req r).out = s.out := (rfl)
@[simp] theorem answer_fates (req : Req) (r : Resp) : (s.answer req r).fates = s.fates := (rfl)
@[simp] theorem answer_free (req : Req) (r : Resp) : (s.answer req r).free = s.free := (rfl)
@[simp] theorem answer_pending (req : Req) (r : Resp) : (s.answer req r).pending = s.pending := (rfl)
@[simp] theorem answer_reg (req : Req) (r : Resp) (k' : Nat) : (s.answer req r).reg k' = s.reg k' := (rfl)
@[simp] theorem answer_fld (req : Req) (r : Resp) (k' : Nat) (lo' : Nat) (w' : Nat) : (s.answer req r).fld k' lo' w' = s.fld k' lo' w' := (rfl)
@[simp] theorem answer_byte (req : Req) (r : Resp) (k' : Nat) : (s.answer req r).byte k' = s.byte k' := (rfl)
@[simp] theorem answer_bytes (req : Req) (r : Resp) (k' : Nat) (n' : Nat) : (s.answer req r).bytes k' n' = s.bytes k' n' := (rfl)
@[simp] theorem answer_cell (req : Req) (r : Resp) (c' : Nat) : (s.answer req r).cell c' = s.cell c' := (rfl)
@[simp] theorem answer_mxe (req : Req) (r : Resp) (c' : Nat) : (s.answer req r).mxe c' = s.mxe c' := (rfl)
@[simp] theorem answer_core (req : Req) (r : Resp) (c' : Nat) (k' : CoreSel) : (s.answer req r).core c' k' = s.core c' k' := (rfl)
@[simp] theorem answer_region (req : Req) (r : Resp) (r' : Nat) : (s.answer req r).region r' = s.region r' := (rfl)
@[simp] theorem answer_die (req : Req) (r : Resp) (d' : Nat) : (s.answer req r).die d' = s.die d' := (rfl)
@[simp] theorem answer_mc (req : Req) (r : Resp) (d' : Nat) (n' : Nat) : (s.answer req r).mc d' n' = s.mc d' n' := (rfl)
@[simp] theorem answer_ctx (req : Req) (r : Resp) (q' : Nat) : (s.answer req r).ctx q' = s.ctx q' := (rfl)
@[simp] theorem answer_tag (req : Req) (r : Resp) (d' : Nat) (t' : Nat) : (s.answer req r).tag d' t' = s.tag d' t' := (rfl)
@[simp] theorem answer_fport (req : Req) (r : Resp) (d' : Nat) (p' : Nat) : (s.answer req r).fport d' p' = s.fport d' p' := (rfl)
@[simp] theorem answer_ring (req : Req) (r : Resp) (p' : Nat) (n' : Nat) : (s.answer req r).ring p' n' = s.ring p' n' := (rfl)
@[simp] theorem answer_hport (req : Req) (r : Resp) (p' : Nat) : (s.answer req r).hport p' = s.hport p' := (rfl)
@[simp] theorem answer_now (req : Req) (r : Resp) : (s.answer req r).now = s.now := (rfl)
@[simp] theorem answer_facility (req : Req) (r : Resp) : (s.answer req r).facility = s.facility := (rfl)
@[simp] theorem answer_job (req : Req) (r : Resp) (id' : Nat) : (s.answer req r).job? id' = s.job? id' := (rfl)
@[simp] theorem answer_logicalOf (req : Req) (r : Resp) (c' : Nat) : (s.answer req r).logicalOf c' = s.logicalOf c' := (rfl)
@[simp] theorem answer_physicalOf (req : Req) (r : Resp) (x' : Nat) (y' : Nat) : (s.answer req r).physicalOf x' y' = s.physicalOf x' y' := (rfl)
@[simp] theorem answer_panelOf (req : Req) (r : Resp) (c' : Nat) : (s.answer req r).panelOf c' = s.panelOf c' := (rfl)
@[simp] theorem answer_jobOf (req : Req) (r : Resp) (c' : Nat) : (s.answer req r).jobOf c' = s.jobOf c' := (rfl)
@[simp] theorem answer_isHole (req : Req) (r : Resp) (c' : Nat) : (s.answer req r).isHole c' = s.isHole c' := (rfl)
@[simp] theorem answer_target (req : Req) (r : Resp) (ga' : Nat) : (s.answer req r).target ga' = s.target ga' := (rfl)

end Sys2Proof.Laws
end

