-- ==== Sys2Proof/Laws/Regs.lean ====
section
/-! SUPPORT. Reading a register, a register's field, a byte or a unit after it was stored. -/

namespace Sys2Proof.Laws

set_option Elab.async false
set_option linter.all false

open Sys2Proof Sys2Proof.Machine

variable (s : State)

/-! ### Registers -/

theorem reg_setReg (k j : Nat) (v : DWord) : (s.setReg k v).reg j = if j = k then v else s.reg j := by
  unfold State.reg State.setReg
  by_cases h : j = k
  · subst h; simp
  · simp [h, get_set_other _ _ _ _ h]

@[simp] theorem reg_setReg_same (k : Nat) (v : DWord) : (s.setReg k v).reg k = v := by simp [reg_setReg]

theorem reg_setReg_other {k j : Nat} (v : DWord) (h : j ≠ k) : (s.setReg k v).reg j = s.reg j := by simp [reg_setReg, h]

theorem fld_setReg_same (k lo w : Nat) (v : DWord) : (s.setReg k v).fld k lo w = bits v.toNat lo w := by
  simp [State.fld]

theorem fld_setReg_other {k j : Nat} (v : DWord) (lo w : Nat) (h : j ≠ k) : (s.setReg k v).fld j lo w = s.fld j lo w := by
  simp [State.fld, reg_setReg_other s v h]

/-! ### Fields -/

/-- Bits of a number below 2^64 whose field was replaced. -/
theorem insField_toNat (r : DWord) {lo w : Nat} (v : Nat) (h : lo + w ≤ 64) :
    (insField r lo w v).toNat = r.toNat % 2 ^ lo + (v % 2 ^ w + r.toNat / 2 ^ lo / 2 ^ w * 2 ^ w) * 2 ^ lo := by
  have hr := r.isLt
  have e1 : r.toNat = r.toNat % 2 ^ lo + (bits r.toNat lo w + r.toNat / 2 ^ lo / 2 ^ w * 2 ^ w) * 2 ^ lo := by
    have a := Nat.mod_add_div (r.toNat / 2 ^ lo) (2 ^ w)
    have b := Nat.mod_add_div r.toNat (2 ^ lo)
    unfold bits
    rw [Nat.mul_comm (r.toNat / 2 ^ lo / 2 ^ w), a, Nat.mul_comm, b]
  have hb : bits r.toNat lo w < 2 ^ w := Nat.mod_lt _ (by positivity)
  have hv : v % 2 ^ w < 2 ^ w := Nat.mod_lt _ (by positivity)
  have hl : r.toNat % 2 ^ lo < 2 ^ lo := Nat.mod_lt _ (by positivity)
  have hp : 2 ^ lo * 2 ^ w * 2 ^ (64 - lo - w) = 2 ^ 64 := by rw [← pow_add, ← pow_add]; congr 1; omega
  have hq : r.toNat / 2 ^ lo / 2 ^ w < 2 ^ (64 - lo - w) := by
    rw [Nat.div_div_eq_div_mul, Nat.div_lt_iff_lt_mul (by positivity)]
    calc r.toNat < 2 ^ 64 := hr
      _ = _ := by rw [← hp]; ring
  unfold insField
  rw [BitVec.toNat_ofNat, Nat.mul_comm (2 ^ lo) (bits _ _ _), Nat.mul_comm (2 ^ lo) (v % 2 ^ w), Nat.mod_eq_of_lt]
  · generalize bits r.toNat lo w = x at *
    generalize r.toNat / 2 ^ lo / 2 ^ w * 2 ^ w = y at *
    have : (x + y) * 2 ^ lo = x * 2 ^ lo + y * 2 ^ lo := by ring
    have : (v % 2 ^ w + y) * 2 ^ lo = v % 2 ^ w * 2 ^ lo + y * 2 ^ lo := by ring
    omega
  · have hx : r.toNat - bits r.toNat lo w * 2 ^ lo + v % 2 ^ w * 2 ^ lo
        = r.toNat % 2 ^ lo + (v % 2 ^ w + r.toNat / 2 ^ lo / 2 ^ w * 2 ^ w) * 2 ^ lo := by
      generalize bits r.toNat lo w = x at *
      generalize r.toNat / 2 ^ lo / 2 ^ w * 2 ^ w = y at *
      have : (x + y) * 2 ^ lo = x * 2 ^ lo + y * 2 ^ lo := by ring
      have : (v % 2 ^ w + y) * 2 ^ lo = v % 2 ^ w * 2 ^ lo + y * 2 ^ lo := by ring
      omega
    rw [hx]
    have h1 : v % 2 ^ w + r.toNat / 2 ^ lo / 2 ^ w * 2 ^ w + 1 ≤ 2 ^ (64 - lo - w) * 2 ^ w := by
      have : (r.toNat / 2 ^ lo / 2 ^ w + 1) * 2 ^ w ≤ 2 ^ (64 - lo - w) * 2 ^ w := Nat.mul_le_mul_right _ hq
      have e : (r.toNat / 2 ^ lo / 2 ^ w + 1) * 2 ^ w = r.toNat / 2 ^ lo / 2 ^ w * 2 ^ w + 2 ^ w := by ring
      omega
    have h2 := Nat.mul_le_mul_right (2 ^ lo) h1
    have e2 : 2 ^ (64 - lo - w) * 2 ^ w * 2 ^ lo = 2 ^ 64 := by rw [← hp]; ring
    have e3 : (v % 2 ^ w + r.toNat / 2 ^ lo / 2 ^ w * 2 ^ w + 1) * 2 ^ lo =
      (v % 2 ^ w + r.toNat / 2 ^ lo / 2 ^ w * 2 ^ w) * 2 ^ lo + 2 ^ lo := by ring
    omega

/-- The field that was replaced. -/
theorem bits_insField (r : DWord) {lo w : Nat} (v : Nat) (h : lo + w ≤ 64) : bits (insField r lo w v).toNat lo w = v % 2 ^ w := by
  rw [insField_toNat r v h]
  unfold bits
  rw [Nat.add_mul_div_right _ _ (by positivity), Nat.div_eq_of_lt (Nat.mod_lt _ (by positivity)), Nat.zero_add,
    Nat.add_mul_mod_self_right, Nat.mod_mod]

/-- Bits above the replaced field. -/
theorem bits_insField_above (r : DWord) {lo w a b : Nat} (v : Nat) (h : lo + w ≤ 64) (ha : lo + w ≤ a) :
    bits (insField r lo w v).toNat a b = bits r.toNat a b := by
  have key : (insField r lo w v).toNat / 2 ^ (lo + w) = r.toNat / 2 ^ (lo + w) := by
    rw [insField_toNat r v h, pow_add, ← Nat.div_div_eq_div_mul, ← Nat.div_div_eq_div_mul,
      Nat.add_mul_div_right _ _ (by positivity), Nat.div_eq_of_lt (Nat.mod_lt r.toNat (by positivity : 0 < 2 ^ lo)),
      Nat.zero_add, Nat.add_mul_div_right _ _ (by positivity), Nat.div_eq_of_lt (Nat.mod_lt v (by positivity : 0 < 2 ^ w)),
      Nat.zero_add]
  obtain ⟨d, rfl⟩ := Nat.exists_eq_add_of_le ha
  unfold bits
  rw [pow_add, ← Nat.div_div_eq_div_mul, ← Nat.div_div_eq_div_mul, key]

/-- Bits below the replaced field. -/
theorem bits_insField_below (r : DWord) {lo w a b : Nat} (v : Nat) (h : lo + w ≤ 64) (ha : a + b ≤ lo) :
    bits (insField r lo w v).toNat a b = bits r.toNat a b := by
  have key : (insField r lo w v).toNat % 2 ^ lo = r.toNat % 2 ^ lo := by
    rw [insField_toNat r v h, Nat.add_mul_mod_self_right, Nat.mod_mod]
  have e : ∀ n : Nat, bits n a b = n % 2 ^ lo / 2 ^ a % 2 ^ b := by
    intro n
    obtain ⟨d, rfl⟩ := Nat.exists_eq_add_of_le ha
    unfold bits
    rw [show a + b + d = a + (b + d) by omega, pow_add, Nat.mod_mul_right_div_self, pow_add, Nat.mod_mul_right_mod]
  rw [e, e, key]

theorem reg_setFld (k j lo w v : Nat) : (s.setFld k lo w v).reg j = if j = k then insField (s.reg k) lo w v else s.reg j := by
  unfold State.setFld; rw [reg_setReg]

theorem reg_setFld_other {k j : Nat} (lo w v : Nat) (h : j ≠ k) : (s.setFld k lo w v).reg j = s.reg j := by simp [reg_setFld, h]

theorem fld_setFld_same {k lo w : Nat} (v : Nat) (h : lo + w ≤ 64) : (s.setFld k lo w v).fld k lo w = v % 2 ^ w := by
  simp [State.fld, reg_setFld, bits_insField _ _ h]

theorem fld_setFld_other {k j : Nat} (lo w v a b : Nat) (h : j ≠ k) : (s.setFld k lo w v).fld j a b = s.fld j a b := by
  simp [State.fld, reg_setFld, h]

/-- Another field of the register that was changed. -/
theorem fld_setFld_apart {k lo w a b : Nat} (v : Nat) (h : lo + w ≤ 64) (d : a + b ≤ lo ∨ lo + w ≤ a) :
    (s.setFld k lo w v).fld k a b = s.fld k a b := by
  simp only [State.fld, reg_setFld, if_true]
  rcases d with d | d
  · exact bits_insField_below _ _ h d
  · exact bits_insField_above _ _ h d

theorem reg_incSat_other {k j : Nat} (lo w n : Nat) (h : j ≠ k) : (s.incSat k lo w n).reg j = s.reg j :=
  reg_setFld_other s _ _ _ h

theorem fld_incSat_same {k lo w : Nat} (n : Nat) (h : lo + w ≤ 64) :
    (s.incSat k lo w n).fld k lo w = min (s.fld k lo w + n) (2 ^ w - 1) := by
  unfold State.incSat
  rw [fld_setFld_same s _ h, Nat.mod_eq_of_lt]
  have := Nat.two_pow_pos w
  omega

theorem fld_incSat_other {k j : Nat} (lo w n a b : Nat) (h : j ≠ k) : (s.incSat k lo w n).fld j a b = s.fld j a b :=
  fld_setFld_other s _ _ _ _ _ h

theorem fld_incSat_apart {k lo w a b : Nat} (n : Nat) (h : lo + w ≤ 64) (d : a + b ≤ lo ∨ lo + w ≤ a) :
    (s.incSat k lo w n).fld k a b = s.fld k a b := fld_setFld_apart s _ h d

theorem fld_incWrap_same {k lo w : Nat} (n : Nat) (h : lo + w ≤ 64) :
    (s.incWrap k lo w n).fld k lo w = (s.fld k lo w + n) % 2 ^ w := fld_setFld_same s _ h

theorem reg_incWrap_other {k j : Nat} (lo w n : Nat) (h : j ≠ k) : (s.incWrap k lo w n).reg j = s.reg j :=
  reg_setFld_other s _ _ _ h

/-- A field fits its width. -/
theorem fld_lt (k lo w : Nat) : s.fld k lo w < 2 ^ w := Nat.mod_lt _ (Nat.two_pow_pos w)

/-! ### Bytes -/

theorem byte_setByte (k j : Nat) (b : Byte) : (s.setByte k b).byte j = if j = k then b else s.byte j := by
  unfold State.byte State.setByte
  by_cases h : j = k
  · subst h; simp
  · simp [h, get_set_other _ _ _ _ h]

/-- A byte after a run of bytes was stored. -/
theorem byte_setBytes (k j : Nat) (l : List Byte) :
    (s.setBytes k l).byte j = if k ≤ j ∧ j < k + l.length then (l[j - k]?).getD 0 else s.byte j := by
  induction l generalizing s k with
  | nil => simp [State.setBytes]
  | cons b t ih =>
    unfold State.setBytes
    rw [ih, byte_setByte]
    simp only [List.length_cons]
    by_cases h1 : j = k
    · subst h1; simp
    · by_cases h2 : k ≤ j ∧ j < k + (t.length + 1)
      · have : k + 1 ≤ j ∧ j < k + 1 + t.length := by omega
        have e : j - k = (j - (k + 1)) + 1 := by omega
        simp only [h1, h2, this, if_false, and_self, if_true, e]
        simp
      · have : ¬ (k + 1 ≤ j ∧ j < k + 1 + t.length) := by omega
        rw [if_neg this, if_neg h2, if_neg h1]

/-! ### Units -/

theorem cell_setCell (c e : Nat) (x : Cell) : (s.setCell c x).cell e = if e = c then x else s.cell e := by
  unfold State.cell State.setCell
  by_cases h : e = c
  · subst h; simp
  · simp [h, get_put_other _ _ _ h]

theorem region_setRegion (r e : Nat) (x : Region) : (s.setRegion r x).region e = if e = r then x else s.region e := by
  unfold State.region State.setRegion
  by_cases h : e = r
  · subst h; simp
  · simp [h, get_put_other _ _ _ h]

theorem die_setDie (d e : Nat) (x : Die) : (s.setDie d x).die e = if e = d then x else s.die e := by
  unfold State.die State.setDie
  by_cases h : e = d
  · subst h; simp
  · simp [h, get_put_other _ _ _ h]

theorem mc_setMc_same (d n : Nat) (x : Mc) : (s.setMc d n x).mc d n = x := by simp [State.mc, State.setMc]

theorem ctx_setCtx (q e : Nat) (x : Ctx) : (s.setCtx q x).ctx e = if e = q then x else s.ctx e := by
  unfold State.ctx State.setCtx
  by_cases h : e = q
  · subst h; simp
  · simp [h, get_put_other _ _ _ h]

theorem tag_setTag_same (d t : Nat) (x : Tag) : (s.setTag d t x).tag d t = x := by simp [State.tag, State.setTag]

theorem fport_setFport_same (d p : Nat) (x : FPort) : (s.setFport d p x).fport d p = x := by simp [State.fport, State.setFport]

theorem ring_setRing_same (p n : Nat) (x : Ring) : (s.setRing p n x).ring p n = x := by simp [State.ring, State.setRing]

theorem hport_setHport (p e : Nat) (x : HPort) : (s.setHport p x).hport e = if e = p then x else s.hport e := by
  unfold State.hport State.setHport
  by_cases h : e = p
  · subst h; simp
  · simp [h, get_put_other _ _ _ h]

@[simp] theorem cell_setCell_same (c : Nat) (x : Cell) : (s.setCell c x).cell c = x := by simp [cell_setCell]
@[simp] theorem region_setRegion_same (r : Nat) (x : Region) : (s.setRegion r x).region r = x := by simp [region_setRegion]
@[simp] theorem die_setDie_same (d : Nat) (x : Die) : (s.setDie d x).die d = x := by simp [die_setDie]
@[simp] theorem ctx_setCtx_same (q : Nat) (x : Ctx) : (s.setCtx q x).ctx q = x := by simp [ctx_setCtx]
@[simp] theorem hport_setHport_same (p : Nat) (x : HPort) : (s.setHport p x).hport p = x := by simp [hport_setHport]

@[simp] theorem mxe_setMxe_same (c : Nat) (m : Mxe) : (s.setMxe c m).mxe c = m := by simp [State.mxe, State.setMxe]

@[simp] theorem core_setCore_same (c : Nat) (k : CoreSel) (x : CoreSt) : (s.setCore c k x).core c k = x := by
  cases k <;> simp [State.core, State.setCore]

end Sys2Proof.Laws
end

