-- ==== Sys2Proof/Tests/Slice0.lean ====
section
/-! SUPPORT. Tests: ill-formed commands that WellFormed refuses, values worked by hand from the spec, and for every statement
with hypotheses a state that meets them. -/

namespace Sys2Proof.Tests

open Sys2Proof Sys2Proof.Machine

set_option Elab.async false

/-- Registers set on top of a state. -/
def withRegs (s : State) (l : List (Nat × Nat)) : State := l.foldl (fun t p => t.setReg p.1 (BitVec.ofNat 64 p.2)) s

/-- An engine whose regions 0 and 1 of die 0 run: state 3, all 16 pulses, every field PLL locked. -/
def live : State :=
  withRegs { State.reset with regions := [(0, { Region.reset with st := 3, n := 16 }), (1, { Region.reset with st := 3, n := 16 })] } [(dieKey 0 CLK_STAT, 0xF)]

/-! ### Clock -/

/-- A state with one region in service (state 3) and its registers. -/
def regionSt (x : Region) (slot : Nat) (regs : List (Nat × Nat)) : State :=
  withRegs { State.reset with slot := slot, regions := [(0, x)] } regs

def thrSt : State := withRegs { State.reset with slot := 1600, dies := [(0, { Die.reset with leNext := some (3, 100), overLast := 0, lastDecay := 0 })] }
  [(dieKey 0 CLK_THR, 0x125)]
def thrLate : State := { thrSt with slot := 1600000 }

theorem witness_throttle :
    (0 < thrSt.part.dies ∧ (thrSt.die 0).leNext = some (3, 100) ∧ 100 ≤ thrSt.slot / 16) ∧
    ((thrSt.die 0).leNext = some (3, 100) ∧ { thrSt with slot := 16 }.slot / 16 < 100) ∧ thrSt.slot % 16 = 0 ∧
    (0 < thrLate.fld (dieKey 0 CLK_THR) 4 4 ∧ (thrLate.die 0).overLast + 1000000 ≤ thrLate.now ∧
      (thrLate.die 0).lastDecay + 100000 ≤ thrLate.now) := by decide +kernel

def strSt : State := regionSt { Region.reset with st := 3, stretch := some (1, 3) } 21 []

/-- A region of a die with DROOP_MV 12 and HOLD 16. -/
def dcSt (x : Region) (slot : Nat) : State := regionSt x slot [(dieKey 0 CLK_DCFG, 0x100C)]
theorem witness_droop :
    (dcSt Region.reset 4).region (regionAt 0 0 0) = Region.reset ∧ Region.reset.stretch = none ∧
    11 < (dcSt Region.reset 4).droopCfg (regionAt 0 0 0) 0 6 ∧ (dcSt Region.reset 4).droopCfg (regionAt 0 0 0) 0 6 ≤ 12 ∧
    (dcSt Region.reset 4).written (regionKey CLK_DROOP (regionAt 0 0 0)) = false ∧ (strSt.region (regionAt 0 0 0)).stretch = some (1, 3) ∧
    ((dcSt { Region.reset with stretch := some (1, 3) } 20).region (regionAt 0 0 0)).stretch = some (1, 3) ∧
    (dcSt { Region.reset with stretch := some (1, 3) } 20).droopCfg (regionAt 0 0 0) 8 8 ≤ 16 ∧
    3 + (dcSt { Region.reset with stretch := some (1, 3) } 20).droopCfg (regionAt 0 0 0) 8 8 < 20 ∧ 1 + 2 ≤ strSt.slot ∧ strSt.slot % 2 = 1 := by decide +kernel

/-- A region's margin state: MCFG with CRIT 3, LO 8, HI 12, EN as given. -/
def mgSt (x : Region) (en v : Nat) : State :=
  regionSt x 0 [(dieKey 0 CLK_MCFG, 3 + 8 * 32 + 12 * 1024 + en * 65536), (ldoKey 0 0, v), (ldoKey 0 1, v)]
def rg : Region := { Region.reset with st := 3 }

theorem witness_margin :
    ((mgSt rg 1 30).coreGate 0 = true ∧ (mgSt rg 1 30).fld (dieKey 0 CLK_MCFG) 16 1 = 1 ∧ 5 < (mgSt rg 1 30).fld (dieKey 0 CLK_MCFG) 5 5 ∧
      ((mgSt rg 1 30).region 0).critPend = false ∧ ¬ ((mgSt rg 1 30).vset 0 = 40 ∧ 99 ≤ ((mgSt rg 1 30).region 0).ceilCnt)) ∧
    ((mgSt { rg with ceilCnt := 99 } 1 40).vset 0 = 40 ∧ 99 ≤ ((mgSt { rg with ceilCnt := 99 } 1 40).region 0).ceilCnt ∧ ((mgSt { rg with ceilCnt := 99 } 1 40).region 0).vmaxCap = false) ∧
    ((mgSt rg 1 30).fld (dieKey 0 CLK_MCFG) 5 5 ≤ 12 ∧ 12 ≤ (mgSt rg 1 30).fld (dieKey 0 CLK_MCFG) 10 5 ∧ (mgSt rg 1 30).vset 0 ≤ 40) ∧
    (mgSt rg 0 30).fld (dieKey 0 CLK_MCFG) 16 1 = 0 ∧ (let u := withRegs { State.reset with regions := [(0, { rg with crit := 3, n := 16 })] } [(dieKey 0 CLK_STAT, 0xF)];
      u.routerGate 0 = true ∧ u.pulse 0 = true ∧ 3 ≤ (u.region 0).crit) ∧
    (withRegs State.reset [(dieKey 0 CLK_STAT, 0xF)]).locked 0 2 = true := by decide +kernel

theorem witness_pulse : (0, rg) ∈ (regionSt rg 16 []).regions ∧ (regionSt rg 16 []).pending = [] ∧ (regionSt rg 16 []).slot % 16 = 0 := by
  decide +kernel

/-- The worked example of R409: level 3 and a cap of 11 keep the pulses of this row of the table. -/
theorem test_pulse_example : (List.range 16).filter (keepsSlot (min (16 - 3) 11)) = [0, 1, 2, 4, 5, 6, 8, 9, 10, 12, 14] := by decide +kernel


/-! ### Facility time -/

def tmSt (slot : Nat) (tm : Time) (regs : List (Nat × Nat)) : State := withRegs { State.reset with slot := slot, time := tm } regs
/-- One good edge a second ago; the next second is announced. -/
def tmPps : State := tmSt 3000000000 { Time.reset with next := some 2000000000, known := true, lastPps := 1000000000, goodPps := 3, state := 1 } []

theorem witness_time :
    ((tmSt 3000000000 { Time.reset with next := some 7000000000 } []).fld (ecKey TIME_CFG) 0 2 = 0 ∧
      (0 : Int) + (tmSt 3000000000 { Time.reset with next := some 7000000000 } []).now - 7000000000 < -1000000) ∧
    (tmPps.fld (ecKey TIME_CFG) 0 2 = 0 ∧ tmPps.time.next = some 2000000000 ∧ tmPps.time.lastPps ≠ 0 ∧
      tmPps.time.base + tmPps.now - 2000000000 ≤ (1000000 : Int) ∧ (-1000000 : Int) ≤ tmPps.time.base + tmPps.now - 2000000000 ∧
      tmPps.time.lastPps + 999999899 ≤ tmPps.now ∧ tmPps.now ≤ tmPps.time.lastPps + 1000000099 ∧ 3 ≤ tmPps.time.goodPps ∧
      tmPps.time.state ≠ 0) ∧
    (let u := tmSt 9 { Time.reset with goodSync := 15, state := 1 } [(ecKey TIME_CFG, 1 + 0x2400)];
      u.fld (ecKey TIME_CFG) 0 2 = 1 ∧ u.fld (ecKey TIME_CFG) 2 1 = false.toNat ∧ u.fld (ecKey TIME_CFG) 8 8 = 0x24 ∧ u.fld (ecKey TIME_CFG) 8 8 ≠ 0x25 ∧ 15 ≤ u.time.goodSync) ∧
    (tmSt 9 { Time.reset with state := 2, known := true } []).time.known = true ∧ (tmSt 9 { Time.reset with state := 2, known := true } []).time.state ≠ 4 := by decide +kernel

theorem witness_holdover :
    ((tmSt 9 { Time.reset with state := 2 } []).fld (ecKey TIME_CFG) 0 2 = 0) ∧
    (tmSt 3000000000 { Time.reset with state := 2, lastPps := 5 } []).time.lastPps + 1500000000 ≤
      (tmSt 3000000000 { Time.reset with state := 2, lastPps := 5 } []).now ∧
    (tmSt 6000000000 { Time.reset with state := 2, lastSync := 5 } [(ecKey TIME_CFG, 1)]).time.lastSync + 3000000000 ≤
      (tmSt 6000000000 { Time.reset with state := 2, lastSync := 5 } [(ecKey TIME_CFG, 1)]).now ∧
    (tmSt 6000000000000 { Time.reset with state := 3 } []).time.holdSince +
      (tmSt 6000000000000 { Time.reset with state := 3 } []).fld (ecKey TIME_CFG) 16 8 * 1000000000 ≤
        (tmSt 6000000000000 { Time.reset with state := 3 } []).now := by decide +kernel
/-! ### Register access -/

/-- A canvas of one die column with cell (0, 0) at physical (0, 0). -/
def cvSt : State := withRegs State.reset [(ecKey BOOT_CANVAS, 46 + 48 * 256 + 2 ^ 22), (ecKey BOOT_DIE_STATE, 1)]
def gaCell (off : Nat) : GAddr := BitVec.ofNat 48 (2 * 2 ^ 44 + off)
def seedKey : Nat := cellKey (cellAt 0 0 0) MXE_SR_SEED

theorem witness_access :
    State.ctlKey (cvSt.target (gaCell 0x4).toNat) = some (cellKey (cellAt 0 0 0) (MXE_DESC + 4 * 1)) ∧
    State.ctlKey (cvSt.target (gaCell 0x80).toNat) = some seedKey ∧
    State.ctlKey (cvSt.target (gaCell MXE_PASS_DONE).toNat) = some (cellKey (cellAt 0 0 0) MXE_PASS_DONE) ∧
    (cvSt.reg (cellKey (cellAt 0 0 0) MXE_PASS_DONE)).toNat < 2 ^ 32 ∧
    State.ctlKey (cvSt.target (gaCell SYNC_SAT_LO).toNat) = some (cellKey (cellAt 0 0 0) SYNC_SAT_LO) ∧
    State.ctlKey (cvSt.target (BitVec.ofNat 48 (4 * 2 ^ 44 + RAMP_ORPHAN)).toNat) = some (ecKey RAMP_ORPHAN) ∧
    (cvSt.reg (ecKey RAMP_ORPHAN)).toNat < 2 ^ 24 := by decide +kernel

theorem witness_pairs :
    (rowAt cvSt.part seedKey).map (fun p => (p.2, p.1.wide)) = some (false, true) ∧
    State.ctlKey (cvSt.target (gaCell 0x84).toNat) = some (seedKey + 4) ∧
    (rowAt cvSt.part (seedKey + 4)).map (fun p => (p.2, p.1.wide)) = some (true, true) ∧
    (cvSt.setPend (.host 0) (keyBlock (seedKey + 4)) (.latch seedKey 5)).pendOf (.host 0) (keyBlock (seedKey + 4)) = some (.latch seedKey 5) ∧
    cvSt.pendOf (.host 0) (keyBlock (seedKey + 4)) = none ∧
    (cvSt.setPend .firmware (keyBlock seedKey) (.low seedKey 7)).pendOf .firmware (keyBlock seedKey) = some (.low seedKey 7) ∧
    cellKey (cellAt 0 0 0) (MXE_SR_SEED + 4) = seedKey + 4 := by decide +kernel


/-! ### Matrix engine -/

/-- A descriptor from its eight words. -/
def mkDesc (w : List Nat) : BitVec 256 := BitVec.ofNat 256 (w.foldr (fun a b => a + 2 ^ 32 * b) 0)
/-- One final initialising row of one column, 8-bit formats, K' as given. -/
def dsc (kp : Nat) : BitVec 256 :=
  mkDesc [0x33000000, 0x2000, 1 + 65536 + kp * 2 ^ 24, 1 + 3 * 2 ^ 16 + 15 * 2 ^ 24, 0x1000, 1 + 2 ^ 26, 0, 0]
def mxSt (cyc : Nat) (m : Mxe) : State :=
  { live with cells := [(0, { Cell.reset with cyc := cyc, mxe := m })] }
def ps (kp : Nat) : Pass :=
  { desc := dsc kp, j := 0, pushed := 0, segs := 0, seg := none, beats := 0, ready := false, start := none, rows := 0, fetched := 0, scl := [],
    xscl := [], raw := [], pre := [], lastOut := false, replayOk := [], inits := [0], epoch := 0 }
def stagedSt (m : Mxe) (kp : Nat) : State :=
  withRegs (mxSt 0 m) ((List.range 8).map fun i => (cellKey 0 (MXE_DESC + 4 * i), (dsc kp).toNat / 2 ^ (32 * i) % 2 ^ 32))
def q8 : Mxe := { Mxe.reset with queue := List.replicate 8 (ps 1) }

theorem witness_push :
    ((stagedSt Mxe.reset 1).queueAtStart 0 < 8 ∧ ((stagedSt Mxe.reset 1).mxe 0).flushDue = false ∧ descReason ((stagedSt Mxe.reset 1).mxe 0).info ((stagedSt Mxe.reset 1).staged 0) = 0) ∧
    8 ≤ (stagedSt q8 1).queueAtStart 0 ∧
    descReason ((stagedSt Mxe.reset 17).mxe 0).info ((stagedSt Mxe.reset 17).staged 0) ≠ 0 := by decide +kernel

/-- A refused push of the cycle that ends, and a flush that arrived in it. -/
def failSt (cls v : Nat) : State := mxSt 20 { Mxe.reset with pushFails := [⟨cls, v⟩] }
def flushSt (r : Option FinalRow) : State := mxSt 20 { Mxe.reset with flushDue := true, replay := r }
theorem witness_push_fails :
    (let u := if (failSt 0x10 3).runs 0 then (failSt 0x10 3).mxeStages 0 else failSt 0x10 3
     (u.mxe 0).flushDue = false ∧ (u.mxe 0).pushFails = [⟨0x10, 3⟩]) ∧
    (let u := if (failSt 0x11 0).runs 0 then (failSt 0x11 0).mxeStages 0 else failSt 0x11 0
     (u.mxe 0).flushDue = false ∧ (u.mxe 0).pushFails = [⟨0x11, 0⟩]) ∧
    (let u := if (flushSt none).runs 0 then (flushSt none).mxeStages 0 else flushSt none
     (u.mxe 0).flushDue = true ∧ (u.mxe 0).replay = none) := by decide +kernel

def ldSt : State := mxSt 20 { Mxe.reset with queue := [ps 1] }
def rdSt : State := mxSt 20 { Mxe.reset with queue := [{ ps 1 with segs := 1, seg := some 8, beats := 8 }] }
/-- A segment whose second beat is due. -/
def btSt : State := mxSt 9 { Mxe.reset with queue := [{ ps 1 with segs := 1, seg := some 8, beats := 1 }] }

theorem witness_easel :
    ((ldSt.mxe 0).queue.find? (fun q => q.segs < segNeed q.desc) = some (ps 1) ∧ ldSt.runs 0 = true ∧ (ldSt.mxe 0).easels.length = 4 ∧ (ps 1).pushed < (ldSt.cell 0).cyc ∧
      ((ldSt.mxe 0).queue.all fun q => match q.seg with | none => true | some b => decide (b + 8 ≤ (ldSt.cell 0).cyc)) = true ∧
      colsFree (ldSt.mxe 0) (ps 1).desc (ps 1).j (ps 1).segs (ldSt.arrayTime 0) = true) ∧
    ((rdSt.mxe 0).queue.find? (fun q => !q.ready) = some { ps 1 with segs := 1, seg := some 8, beats := 8 } ∧ 1 = segNeed (ps 1).desc ∧
      8 + 12 ≤ (rdSt.cell 0).cyc) ∧
    ((btSt.mxe 0).queue.find? fun q => match q.seg with
      | some b => decide (q.beats < 8 ∧ b + q.beats ≤ (btSt.cell 0).cyc)
      | none => false) = some { ps 1 with segs := 1, seg := some 8, beats := 1 } := by decide +kernel

def frow : FRow := { j := 0, m := 0, arr := 0, bytes := List.replicate 16 0x38, scale := 0, raw := [] }
def enSt : State := mxSt 30 { Mxe.reset with queue := [{ ps 1 with ready := true }], feeder := [frow] }
/-- The one row of a streaming pass is due, its feeder empty, and the next pass waits. -/
def dryQ : Pass := { ps 1 with ready := true, start := some 30 }
def dryN : Pass := { ps 1 with j := 1, ready := true }
def drySt : State := mxSt 31 { Mxe.reset with queue := [dryQ, dryN], starts := [(0, 30, 1)] }
def stpSt : State := mxSt 31 { Mxe.reset with stopFrom := some 30 }
def wdSt : State := mxSt 30 { Mxe.reset with judged := 31, consec := 2 ^ (State.reset.fld (cellKey 0 MXE_WDOG) 0 5) + 1 }

theorem witness_wave :
    (nextPass (enSt.mxe 0) = some { ps 1 with ready := true } ∧ prevDone (enSt.mxe 0) (enSt.arrayTime 0) enSt.rowDueAt = true ∧ enSt.runs 0 = true ∧
      (enSt.mxe 0).noStart = false ∧ stoppedAt (enSt.mxe 0) 30 = false ∧ enSt.frozenNow 0 = false) ∧
    (nextPass (ldSt.mxe 0) = some (ps 1) ∧ prevDone (ldSt.mxe 0) (ldSt.arrayTime 0) ldSt.rowDueAt = true ∧ (ps 1).ready = false ∧
      ldSt.frozenNow 0 = false ∧ (ldSt.mxe 0).stallAt ≠ (ldSt.cell 0).cyc + 1 ∧ ldSt.written (cellKey 0 MXE_STALL_EASEL) = false) ∧
    (nextPass (drySt.mxe 0) = some dryN ∧ streamPass (drySt.mxe 0) = some dryQ ∧ drySt.dryNow 0 = true ∧ drySt.runs 0 = true ∧
      prevDone (drySt.mxe 0) (drySt.arrayTime 0) drySt.rowDueAt = true ∧ (drySt.mxe 0).noStart = false ∧ stoppedAt (drySt.mxe 0) 31 = false ∧
      (drySt.mxe 0).judged ≠ (drySt.cell 0).cyc + 1 ∧ drySt.fullNow 0 = false ∧ drySt.written (cellKey 0 MXE_STALL_FREEZE) = false ∧
      feedRows (dsc 1) ≤ 16) ∧ (stpSt.mxe 0).stopFrom = some 30 ∧ 30 ≤ (stpSt.cell 0).cyc ∧
    ((wdSt.mxe 0).judged = (wdSt.cell 0).cyc + 1 ∧ (wdSt.mxe 0).consec = 2 ^ wdSt.fld (cellKey 0 MXE_WDOG) 0 5 + 1 ∧ wdSt.runs 0 = true) := by decide +kernel

/-- The pass whose first row is due. -/
def pgo : Pass := { ps 1 with ready := true, start := some 30, segs := 1, seg := some 8, fetched := 1 }
def goSt : State := mxSt 31 { Mxe.reset with queue := [pgo], feeder := [frow], starts := [(0, 30, 1)] }

theorem witness_rows :
    ((ldSt.mxe 0).queue.find? (fun q => needsFeed q.desc && decide (q.fetched < dM q.desc)) = some (ps 1) ∧
      (ldSt.mxe 0).fetchAt ≠ (ldSt.cell 0).cyc + 1 ∧ (ldSt.mxe 0).feeder.length + State.lineRows (dsc 1) 0 ≤ 64 ∧ dStatScaled (dsc 1) = false ∧ dStrmScaled (dsc 1) = false ∧ dKp (dsc 1) ≠ 0 ∧ dInit (dsc 1) = 0) ∧
    (let d := mkDesc [0x33000000, 0x2000, 1 + 65536 + 2 ^ 24, 1 + 2 * 2 ^ 16 + 15 * 2 ^ 24, 0x1000, 1 + 2 ^ 26, 0, 0]
     let p : Pass := { pgo with desc := d }
     let s := mxSt 31 { Mxe.reset with queue := [p], feeder := [frow], starts := [(0, 30, 1)] }
     streamPass (s.mxe 0) = some p ∧ p.start = some 30 ∧ 30 + s.rowInterval d * 0 + 1 ≤ s.arrayTime 0 ∧ s.runs 0 = true ∧
      (s.mxe 0).streamAt ≠ (s.cell 0).cyc + 1 ∧ s.frozenNow 0 = false ∧ needsFeed d = true ∧
      (s.mxe 0).feeder.head? = some frow ∧ stoppedAt (s.mxe 0) (s.cell 0).cyc = false) := by decide +kernel
/-- A row in flight. -/
def flt : Flight :=
  { desc := dsc 1, j := 0, m := 0, slot := 0, t0 := 30, block := [], scl := [], c0 := [], c1 := [], bytes := [], scale := 0, raw := [],
    data := [], chk := Chk.reset, replayOk := false, init := 0, epoch := 0, upset := none }
theorem witness_flight : 0 < dNp flt.desc ∧ dIsFinal flt.desc = true ∧ ([flt].find? fun x => x.j == flt.j && x.m == flt.m) = some flt := by
  decide +kernel

def fin (ok : Bool) (c0 : BitVec 112) : FinalRow :=
  { desc := dsc 1, j := 0, m := 0, slot := 0, due := 20, data := List.replicate 128 0, chk := { Chk.reset with c0 := c0, w := 1 }, replayOk := ok, init := 0,
    epoch := 0, loc := (0, 0) }
def finSt (ok : Bool) (c0 : BitVec 112) : State := mxSt 30 { Mxe.reset with finals := [fin ok c0] }
def rpSt (ok : Bool) (c0 : BitVec 112) : State := mxSt 30 { Mxe.reset with replay := some (fin ok c0) }
def rpBad : State := mxSt 30 { Mxe.reset with replay := some (fin true 0), journal := [⟨dsc 1, 0⟩] }

theorem witness_check :
    ((finSt true 0).frozenNow 0 = false ∧ (finSt true 0).runs 0 = true ∧ 20 + 3 ≤ (finSt true 0).arrayTime 0 ∧ (finSt true 0).written (cellKey 0 MXE_CHK_ROWS) = false ∧ checkRow ((fin true 0).data.map (·.toNat)) (fin true 0).chk = .pass false) ∧
    checkRow ((fin true 5).data.map (·.toNat)) (fin true 5).chk = .fail false (-5) 0 ∧ (finSt true 5).frozenNow 0 = false ∧
    (fin true 5).epoch = ((finSt true 5).mxe 0).epoch ∧ (finSt true 5).runs 0 = true ∧ (finSt false 5).runs 0 = true ∧ (fin false 5).chk.w ≤ 128 ∧
    checkRow ((fin false 5).data.map (·.toNat)) (fin false 5).chk = .fail false (-5) 0 ∧ ((rpSt true 0).mxe 0).replayAt < ((rpSt true 0).cell 0).cyc ∧
    ((mxSt 30 { Mxe.reset with conv := [fin true 0] }).mxe 0).conv = [fin true 0] ∧ (fin true 0).due + 4 ≤ 24 := by decide +kernel
theorem witness_replay :
    ((rpSt true 0).mxe 0).replay = some (fin true 0) ∧ ((rpSt true 0).replayRun 0 (fin true 0) none).ok = true ∧
    (match checkRow ((rpSt true 0).replayRun 0 (fin true 0) none).data ((rpSt true 0).replayRun 0 (fin true 0) none).chk with
      | .fail .. => false | _ => true) = true ∧
    (rpBad.mxe 0).replay = some (fin true 0) ∧ (rpBad.replayRun 0 (fin true 0) none).ok = false := by decide +kernel

def drow : DRow := { j := 0, addr := 0x1000, bytes := List.replicate 64 0x5A, lines := 0, enter := 26, last := true }
def drSt : State := withRegs (mxSt 30 { Mxe.reset with drain := [drow], queue := [{ pgo with rows := 1 }] })
  [(cellKey 0 SPM_PRIME_STAT, 1), (cellKey 0 SPM_BANK_OWN, 3)]
def pcSt : State := mxSt 30 { Mxe.reset with queue := [{ pgo with rows := 1, lastOut := true }] }

theorem witness_drain :
    ((drSt.mxe 0).drain = [drow] ∧ (drSt.mxe 0).noDrain = false ∧ (drSt.mxe 0).drainAt ≠ (drSt.cell 0).cyc + 1 ∧ drSt.runs 0 = true ∧ drow.enter < drSt.arrayTime 0 ∧ drow.addr % 64 = 0 ∧
      drow.bytes.length = 64 * (drow.lines + 1) ∧ drSt.spmCheck 0 (drow.addr + 64 * drow.lines) 3 false = none) ∧
    (pcSt.mxe 0).queue.find? (pcSt.passDone 0) = some { pgo with rows := 1, lastOut := true } ∧ pcSt.runs 0 = true := by decide +kernel

def balSt : State := withRegs (mxSt 30 Mxe.reset) [(cellKey 0 MXE_BAL_CTRL, 1)]
theorem witness_ballast :
    balSt.fld (cellKey 0 MXE_BAL_CTRL) 0 1 = 1 ∧ balSt.runs 0 = true ∧ (balSt.mxe 0).queue = [] ∧
    (balSt.mxe 0).streamAt ≠ (balSt.cell 0).cyc + 1 ∧
    (balSt.mxe 0).ballastAt ≠ (balSt.cell 0).cyc + 1 ∧ balSt.frozenNow 0 = false ∧ (balSt.mxe 0).seq = 0 ∧
    (balSt.mxe 0).easels.length = 4 ∧ (easelOf (balSt.mxe 0) 0).owner = none ∧ (easelOf (balSt.mxe 0) 0).pattern = none ∧
    0 < balSt.slot + 1 := by decide +kernel

/-! ### Scratchpad -/

/-- A primed cell 0 whose bank owners are all `o`. -/
def spSt (o : Nat) (x : Cell) (regs : List (Nat × Nat)) : State :=
  withRegs { live with cells := [(0, x)] } ([(cellKey 0 SPM_PRIME_STAT, 1), (cellKey 0 SPM_BANK_OWN, o * 0x11111111)] ++ regs)

theorem witness_owner :
    (((spSt 4 Cell.reset []).cell 0).owns = [] ∧ (spSt 4 Cell.reset []).ownWaits 0 0x55 = false) ∧
    ((spSt 4 { Cell.reset with owns := [0x55] } []).cell 0).owns = [0x55] ∧
    ((spSt 4 { Cell.reset with owns := [0x55] } []).core 0 .head).mb = [] ∧ ((spSt 4 { Cell.reset with owns := [0x55] } []).core 0 .tail).mb = [] ∧
    ((spSt 4 { Cell.reset with owns := [0x55] } []).core 0 .head).heldStores = [] ∧ ((spSt 4 { Cell.reset with owns := [0x55] } []).core 0 .tail).heldStores = [] := by decide +kernel

def eccSt (o : Nat) : State := spSt o Cell.reset [(cellKey 0 SPM_ECC_TADDR, 0x40), (cellKey 0 SPM_ECC_TDATA, 0x77), (cellKey 0 SPM_ECC_TCHK, 0x12)]
theorem witness_ecc :
    (eccSt 4).spmCheck 0 ((eccSt 4).eccAddr 0) (State.classOf 0 .firmware) (decide (Req.firmware = .firmware)) = none ∧
    ((eccSt 4).core 0 .head).mb = [] ∧ ((eccSt 4).core 0 .tail).mb = [] ∧
    (eccSt 4).spmCheck 0 ((eccSt 4).eccAddr 0) (State.classOf 0 (.core 0 .head)) false = some (0x23, 0) := by decide +kernel

def prSt : State := { spSt 4 Cell.reset [(cellKey 0 SPM_PRIME_STAT, 2), (ctrKey 0 3, 9)] with mem := [(spmKey 0 8, 7)] }
/-- Word 0 of bank 0 holds 1 with the check byte of 0: a single-bit error. -/
def scSt (x : Cell) (mem : List (Nat × Byte)) : State := { spSt 4 x [] with slot := 15000, mem := mem }

theorem witness_primer_scrub :
    prSt.fld (cellKey 0 SPM_PRIME_STAT) 1 1 = 1 ∧
    ((scSt Cell.reset []).primed 0 = true ∧ ((scSt Cell.reset []).scrubOf 0 0).wb = false ∧ ((scSt Cell.reset []).scrubOf 0 0).line < 3071 ∧
      ((scSt Cell.reset []).scrubOf 0 0).due ≤ (scSt Cell.reset []).now ∧
      (scSt Cell.reset []).written (State.coreKey 0 .head HEAD_IMEM_CNT) = false ∧
      (scSt Cell.reset []).now ≤ ((scSt Cell.reset []).scrubOf 0 0).passStart + (scSt Cell.reset []).scrubLimit 0 0 * 1000000 ∧
      ∀ o ∈ (scSt Cell.reset []).scrubWords 0 0, judge ((scSt Cell.reset []).wordAt 0 o) ((scSt Cell.reset []).chkAt 0 o) = .good) ∧
    ¬ (∀ o ∈ (scSt Cell.reset [(spmKey 0 0, 1)]).scrubWords 0 0,
      judge ((scSt Cell.reset [(spmKey 0 0, 1)]).wordAt 0 o) ((scSt Cell.reset [(spmKey 0 0, 1)]).chkAt 0 o) = .good) ∧
    ((scSt { Cell.reset with scrub := [(0, { ScrubSt.reset with wb := true })] } [(spmKey 0 0, 1)]).scrubOf 0 0).wb = true ∧
    ((scSt { Cell.reset with scrub := [(0, { ScrubSt.reset with wb := true })] } [(spmKey 0 0, 1)]).scrubOf 0 (bankOf 8)).line = 8 % 0x30000 / 64 ∧
    ((scSt Cell.reset [(imemKey 0 .head 8, 4)]).cell 0).iscrubDue[0]? = some 0 ∧ ((scSt Cell.reset [(imemKey 0 .head 8, 4)]).cell 0).iscrub[0]? = some 0 ∧
    (∀ i, i < 8 → judge ((scSt Cell.reset [(imemKey 0 .head 8, 4)]).imemWord 0 .head (64 * 0 + 8 * i))
      ((scSt Cell.reset [(imemKey 0 .head 8, 4)]).imemChk 0 .head (64 * 0 + 8 * i)) = if i = 1 then .single 0 else .good) := by decide +kernel

def bq (op : Nat) (run : Bool) (len sig lines : Nat) : BengCmd :=
  { op := op, src := 0x1000, dst := 0x2000, len := len, pat := 0x55AA, sig := BitVec.ofNat 32 sig, running := run, lines := lines, next := 0 }
def bqSt (o : Nat) (b : BengCmd) : State := spSt o { Cell.reset with beng := [b] } []

theorem witness_beng_push :
    (spSt 7 Cell.reset [(cellKey 0 SPM_BENG_LEN, 4), (cellKey 0 SPM_BENG_DST, 0x80)]).bengReason 0 1 = 0 ∧
    (spSt 7 Cell.reset []).bengReason 0 2 = 1 ∧
    (Instr.bengCopy 0 .firmware, 2) ∈ [(Instr.bengFill 0 .firmware, 1), (.bengCopy 0 .firmware, 2), (.bengPoison 0 .firmware, 3)] := by decide +kernel
theorem witness_beng_run :
    (bqSt 7 (bq 1 false 2 0 0)).runs 0 = true ∧ (bqSt 7 (bq 1 true 2 0 0)).spmCheck 0 (0x2000 + 64 * 0) 7 false = none ∧ 0 + 1 < (bq 1 true 2 0 0).len ∧
    (bqSt 4 (bq 1 true 2 0 0)).spmCheck 0 (0x2000 + 64 * 0) 7 false = some (0x23, 0) ∧ (bqSt 4 (bq 1 true 2 0 1)).spmCheck 0 (0x2000 + 64 * 1) 7 false = some (0x23, 0) ∧
    (bqSt 4 (bq 1 true 2 0 1)).runs 0 = true ∧ (bq 1 true 2 0 1).lines + 1 = (bq 1 true 2 0 1).len ∧ (bqSt 7 (bq 1 true 2 0 1)).spmCheck 0 (0x2000 + 64 * 1) 7 false = none ∧
    (bqSt 7 (bq 2 true 2 0x10105 1)).spmCheck 0 (0x1000 + 64 * 1) 7 false = none ∧ bit (bq 1 true 2 0 1).sig.toNat 16 = false ∧
    (∀ i, i < 8 → judge ((bqSt 7 (bq 2 true 2 0x10105 1)).wordAt 0 (0x1000 + 64 * 1 + 8 * i)) ((bqSt 7 (bq 2 true 2 0x10105 1)).chkAt 0 (0x1000 + 64 * 1 + 8 * i)) = .good) ∧
    bit (bq 2 true 2 0x10105 1).sig.toNat 16 = true := by decide +kernel

/-! ### Cores -/

/-- Cell 0's head core runs at pc 0 on the instruction `w`, with x5 = `a` and x6 = `b`. -/
def coSt (w a b : Nat) (x : CoreSt) (o : Nat) (regs : List (Nat × Nat)) : State :=
  (spSt o { Cell.reset with head := { x with st := 1, x := (x.x.set 5 (BitVec.ofNat 32 a)).set 6 (BitVec.ofNat 32 b) } } regs).putImem 0 .head 0 w
def cr0 : CoreSt := CoreSt.reset
def addiW : Nat := encI 0x13 0 5 6 7
def lwW : Nat := encI 0x03 2 5 6 0
def swW : Nat := encS 0x23 2 6 5 0
def vleW : Nat := 0x07 + 2 ^ 7 + 6 * 2 ^ 12 + 6 * 2 ^ 15 + 2 ^ 25

theorem test_integer_words : encI 0x13 0 5 6 7 = 0x00730293 ∧ encR 0x33 0 0x20 1 2 3 = 0x403100B3 ∧ encJ 1 8 = 0x008000EF ∧
    encB 0 1 2 16 = 0x00208863 ∧ CoreSt.reset.x.length = 32 := by decide +kernel

/-- `State.issues` as a closed test. -/
def issuesB (s : State) (row : Row) (w raw : Nat) : Bool :=
  s.canIssue 0 .head && !s.atKernel 0 .head && decide (s.fetch 0 .head = (s, .ins w 4 raw)) && decide (rowOf (s.core 0 .head) w = row)

theorem witness_issue :
    (issuesB (coSt addiW 1 2 cr0 5 []) .other addiW addiW = true ∧ scalarMem ((coSt addiW 1 2 cr0 5 []).core 0 .head) addiW = none ∧
      opc addiW ≠ 0x57 ∧ (execScalar ((coSt addiW 1 2 cr0 5 []).core 0 .head) addiW 4 0 0).isSome = true) ∧
    (issuesB (coSt 0x022180D7 1 2 cr0 5 []) .other 0x022180D7 0x022180D7 = true ∧ opc 0x022180D7 = 0x57 ∧
      (execVector ((coSt 0x022180D7 1 2 cr0 5 []).core 0 .head) 0x022180D7).isSome = true) ∧
    (issuesB (coSt 0x73 1 2 cr0 5 [(State.coreKey 0 .head HEAD_CTRL, 3)]) .other 0x73 0x73 = true ∧
      (coSt 0x73 1 2 cr0 5 [(State.coreKey 0 .head HEAD_CTRL, 3)]).fld (State.coreKey 0 .head HEAD_CTRL) 1 1 = 1 ∧ cr0.csrOf 0x305 % 4 = 0) ∧
    (issuesB (coSt 0x0B 1 2 cr0 5 []) .other 0x0B 0x0B = true ∧ execScalar ((coSt 0x0B 1 2 cr0 5 []).core 0 .head) 0x0B 4 0 0 = none ∧
      (coSt 0x0B 1 2 cr0 5 []).fld (State.coreKey 0 .head HEAD_CTRL) 1 1 = 0) ∧
    ((coSt 0 1 2 { cr0 with pc := 0x8000 } 5 []).canIssue 0 .head = true ∧ (coSt 0 1 2 { cr0 with pc := 0x8000 } 5 []).atKernel 0 .head = false) := by
  decide +kernel

def lwSt (o : Nat) : State := coSt lwW 1 0x10000010 cr0 o []
def swSt : State := coSt swW 0x1234 0x10000014 cr0 5 []
def vSt : State := coSt vleW 1 0x10000010 { cr0 with csr := [(0xC20, 1), (0xC21, 16)] } 5 []
theorem witness_access_core :
    (issuesB (lwSt 5) .load lwW lwW = true ∧ scalarMem ((lwSt 5).core 0 .head) lwW = some ⟨false, false, 2, 5, 0x10000010⟩ ∧
      regionOf 0x10000010 = .spm ∧ (lwSt 5).spmCheckRun 0 0x10 4 (State.corePort .head) false = none ∧ ((lwSt 5).core 0 .head).mb = [] ∧
      judge ((lwSt 5).wordAt 0 0x10) ((lwSt 5).chkAt 0 0x10) = .good ∧ loadVal 2 ((lwSt 5).bytes (spmKey 0 0x10) 4) = BitVec.ofNat 32 0) ∧
    (issuesB (lwSt 4) .load lwW lwW = true ∧ (lwSt 4).spmCheckRun 0 0x10 4 (State.corePort .head) false = some (0x10, 0x23, 0)) ∧
    (issuesB swSt .store swW swW = true ∧ scalarMem (swSt.core 0 .head) swW = some ⟨true, false, 2, 5, 0x10000014⟩ ∧
      swSt.spmCheckRun 0 0x14 4 (State.corePort .head) false = none ∧ (swSt.core 0 .head).mb.length < 4) ∧
    (issuesB (coSt (vleW + 2 ^ 28) 1 0x10000010 cr0 5 []) .vector (vleW + 2 ^ 28) (vleW + 2 ^ 28) = true ∧
      vMemOf ((coSt (vleW + 2 ^ 28) 1 0x10000010 cr0 5 []).core 0 .head) (vleW + 2 ^ 28) = none) ∧
    (issuesB vSt .vector vleW vleW = true ∧ vMemOf (vSt.core 0 .head) vleW = some ⟨false, 32, false, [⟨0, 1, 0, 0x10000010⟩]⟩ ∧
      vSt.spmCheckRun 0 0x10 4 (State.corePort .head) false = none ∧ (vSt.core 0 .head).v.length = 32) := by decide +kernel

def mbE (v : BitVec 8) : MbEntry := ⟨4, v, 0x1122334455667788, 0⟩
def mbSt (v : BitVec 8) (w : Nat) (n : Nat) : State :=
  let s := coSt w 1 2 { cr0 with mb := [mbE v], farStores := n } 5 []
  s.setCell 0 { s.cell 0 with cyc := 100 }
theorem witness_merge :
    (((mbSt 0xFF 0 0).core 0 .head).mb.find? (fun e => e.valid == 0xFF) = some (mbE 0xFF) ∧
      (mbSt 0xFF 0 0).spmCheck 0 (4 * 8) (State.corePort .head) false = none ∧ (mbSt 0xFF 0 0).runs 0 = true) ∧
    ((mbSt 0xF 0 0).fld (cellKey 0 SPM_MB_AGE) 0 6 ≠ 0 ∧
      ((mbSt 0xF 0 0).core 0 .head).mb.find? (fun e => e.valid != 0xFF && decide (e.last + (mbSt 0xF 0 0).fld (cellKey 0 SPM_MB_AGE) 0 6 ≤ ((mbSt 0xF 0 0).cell 0).cyc)) =
        some (mbE 0xF) ∧ judge ((mbSt 0xF 0 0).wordAt 0 32) ((mbSt 0xF 0 0).chkAt 0 32) = .good) ∧
    (issuesB (coSt 0x0F 1 2 cr0 5 []) .fence 0x0F 0x0F = true) ∧
    (issuesB (coSt 0x0F 1 2 { cr0 with farStores := 1 } 5 []) .fence 0x0F 0x0F = true) := by decide +kernel

def cvRegs : List (Nat × Nat) := [(ecKey BOOT_CANVAS, 46 + 48 * 256 + 2 ^ 22), (ecKey BOOT_DIE_STATE, 1), (State.coreKey 0 .head HEAD_FARW, 2 ^ 14)]
def ctlSt : State := coSt swW 0x1234 0x20000004 cr0 5 []
def farSt (w : Nat) : State := coSt w 0x1234 0x40001000 cr0 5 cvRegs
def respP (st : Nat) : Pkt := { Pkt.blank 3 (.far 0 .head) (.landed 0) with tag := 7, data := [1, 2, 3, 4], status := st }
def respSt (st : Nat) : State := { coSt 0 1 2 { cr0 with far := some ⟨7, false, 5, 2, 0x40001000, 4⟩ } 5 [] with net := [respP st] }
theorem witness_windows :
    (issuesB ctlSt .ctlStore swW swW = true ∧ scalarMem (ctlSt.core 0 .head) swW = some ⟨true, false, 2, 5, 0x20000000 + MXE_DESC + 4 * 1⟩ ∧
      (ctlSt.core 0 .head).heldStores = []) ∧
    (issuesB (farSt lwW) .farLoad lwW lwW = true ∧ scalarMem ((farSt lwW).core 0 .head) lwW = some ⟨false, false, 2, 5, 0x40001000⟩ ∧
      (farSt lwW).dest ((farSt lwW).farAddr 0 .head 0x40001000) 4 = .cell 0 0) ∧
    (issuesB (farSt swW) .farStore swW swW = true ∧ scalarMem ((farSt swW).core 0 .head) swW = some ⟨true, false, 2, 5, 0x40001000⟩ ∧
      (farSt swW).dest ((farSt swW).farAddr 0 .head 0x40001000) 4 = .cell 0 0) ∧
    ((respSt 0).pktOf 0 3 = some (respP 0) ∧ ((respSt 0).core 0 .head).far = some ⟨7, false, 5, 2, 0x40001000, 4⟩ ∧
      (respP 0).pos = .landed 0 ∧ (respP 0).tag = 7 ∧ (respSt 0).runs 0 = true) ∧
    (respSt 1).pktOf 0 3 = some (respP 1) := by decide +kernel

/-! ### Core control, test kernel, sync counters -/

def stopSt (x : CoreSt) (regs : List (Nat × Nat)) : State := spSt 5 { Cell.reset with head := x } regs
def jobA (st : Nat) : Job := { id := 5, state := st, step := 0, gbase := 0, glen := 0, testslot := true, starts := [(0, .head)], ctxs := [] }
def panA : Panel := { id := 1, parent := 0xFFFF, x0 := 0, y0 := 0, w := 4, h := 4, job := 5, ballast := false }
/-- Cell 0's head core runs in a running job of its own. -/
def jobSt (x : CoreSt) (regs : List (Nat × Nat)) : State := { stopSt { x with st := 1 } (cvRegs ++ regs) with jobs := [jobA 3], panels := [panA] }

theorem witness_cores :
    ((stopSt cr0 []).primed 0 = true ∧ ((stopSt cr0 []).core 0 .head).st = 0) ∧ ((stopSt { cr0 with st := 1 } []).core 0 .head).st = 1 ∧
    (((stopSt { cr0 with st := 1 } []).core 0 .head).mb = [] ∧ (stopSt { cr0 with st := 1 } []).job? ((stopSt { cr0 with st := 1 } []).jobOf 0) = none ∧
      (stopSt { cr0 with st := 1 } []).coreBusy 0 .head = false) ∧
    ((jobSt { cr0 with far := some ⟨7, false, 5, 2, 0x40001000, 4⟩ } []).coreBusy 0 .head = true) ∧
    ((jobSt cr0 []).coreBusy 0 .head = false ∧ ((jobSt cr0 []).core 0 .head).mb = []) ∧
    ((jobSt cr0 []).job? ((jobSt cr0 []).jobOf 0) = some (jobA 3) ∧ (jobA 3).state = 3 ∧ (jobA 3).starts = [(0, .head)]) := by decide +kernel

theorem witness_imem :
    (stopSt cr0 []).imemReason 0 .head .firmware (1 + 2 ^ 10 + 3 * 2 ^ 20) = 0 ∧ (stopSt cr0 []).load = none ∧
    (stopSt cr0 []).imemReason 0 .head (.host 0) 1 = 1 ∧
    ((stopSt { cr0 with imem := some ⟨1, 1, 3⟩ } []).core 0 .head).imem = some ⟨1, 1, 3⟩ ∧
    (∀ i, i < 8 → judge ((stopSt { cr0 with imem := some ⟨1, 1, 3⟩ } []).wordAt 0 (0x170000 + 64 * 1 + 8 * i))
      ((stopSt { cr0 with imem := some ⟨1, 1, 3⟩ } []).chkAt 0 (0x170000 + 64 * 1 + 8 * i)) = .good) := by decide +kernel

/-- Cell 0 at the kernel's entry, step number `n`. -/
def tkSt (n : Nat) : State :=
  let x := { cr0 with st := 1, pc := 0x7800, x := (cr0.x.set 1 0x100).set 10 0x2000 }
  { spSt 6 { Cell.reset with head := x, tail := x } (cvRegs ++ [(ecKey STEP_ENGINE, n)]) with jobs := [jobA 3], panels := [panA] }
/-- Every region of die 0 is powered. -/
def onRegs : SMap Region := (List.range 64).map fun i => (i, { Region.reset with st := 3, n := 16 })
def tkOn (n : Nat) : State := { tkSt n with regions := onRegs }
/-- Every link of the cell has failed. -/
def tkCut : State := (tkSt 1).setReg (cellKey 0 RTR_LINK_STAT) 0x3FFF
theorem witness_kernel :
    (∀ k, (tkOn 64).canIssue 0 k = true ∧ (tkOn 64).atKernel 0 k = true ∧ (tkOn 1).canIssue 0 k = true ∧ (tkOn 1).atKernel 0 k = true ∧
      tkCut.canIssue 0 k = true ∧ tkCut.atKernel 0 k = true) ∧
    ((tkOn 1).stepEngine + 512 - bits (((tkOn 1).core 0 .head).csrOf 0xFC0) 0 8 - bits (((tkOn 1).core 0 .head).csrOf 0xFC0) 8 7) % 64 ≠ 0 ∧
    ((tkOn 64).stepEngine + 512 - bits (((tkOn 64).core 0 .tail).csrOf 0xFC0) 0 8 - bits (((tkOn 64).core 0 .tail).csrOf 0xFC0) 8 7) % 64 = 0 ∧
    (tkCut.cellAsks 0 (.far 0 .tail) tkCut.ctlDie (4 * 2 ^ 44 + STEP_ENGINE) 4).2 = 0 + 1 := by
  refine ⟨fun k => by cases k <;> decide +kernel, ?_⟩
  decide +kernel
theorem witness_kernel_read : ((tkOn 64).cellAsks 0 (.far 0 .tail) (tkOn 64).ctlDie (4 * 2 ^ 44 + STEP_ENGINE) 4).2 = 0 := by decide +kernel
theorem witness_kernel_area : ((tkOn 64).cellAsks 0 (.far 0 .tail) (tkOn 64).ctlDie (4 * 2 ^ 44 + STEP_ENGINE) 4).1.spmCheckRun 0
    (((tkOn 64).core 0 .tail).xr 10 / 4096 * 4096) 4096 6 false = none := by decide +kernel

def sgSt : State := spSt 5 Cell.reset [(ctrKey 0 3, 0x1FFFF0)]
/-- Signals that act in the present cycle. -/
def sgQ (l : List Signal) : State := spSt 5 { Cell.reset with sigs := l.map fun g => (0, g) } [(ctrKey 0 3, 0x1FFFF0)]
theorem witness_signals :
    (1 = sgSt.epoch 0 3 ∧ sgSt.count 0 3 + 5 ≤ 0xFFFFF ∧ 0xFFFFF < sgSt.count 0 3 + 255 ∧ (2 : Nat) ≠ sgSt.epoch 0 3 ∧ sgSt.written (cellKey 0 SYNC_STALE_CNT) = false) ∧
    (∀ p ∈ (sgQ [⟨3, 1, 5, none, false⟩]).cell 0 |>.sigs, p.1 ≤ ((sgQ [⟨3, 1, 5, none, false⟩]).cell 0).rcyc ∧ p.2.ctr = 3 ∧ p.2.epoch = (sgQ [⟨3, 1, 5, none, false⟩]).epoch 0 3) ∧
    ((sgQ [⟨3, 1, 5, none, false⟩]).cell 0).sigs ≠ [] ∧ (sgQ [⟨3, 1, 5, none, false⟩]).count 0 3 + (((sgQ [⟨3, 1, 5, none, false⟩]).cell 0).sigs.map fun p => p.2.inc).sum ≤ 0xFFFFF ∧
    0xFFFFF < (sgQ [⟨3, 1, 255, none, false⟩]).count 0 3 + (((sgQ [⟨3, 1, 255, none, false⟩]).cell 0).sigs.map fun p => p.2.inc).sum ∧
    ((sgQ [⟨3, 2, 5, none, false⟩]).cell 0).sigs = [(0, ⟨3, 2, 5, none, false⟩)] ∧ (2 : Nat) ≠ (sgQ [⟨3, 2, 5, none, false⟩]).epoch 0 3 ∧
    ((spSt 5 { Cell.reset with sigs := [(9, ⟨3, 1, 5, none, false⟩)] } []).cell 0).rcyc < 9 := by decide +kernel

def sgCv : State := spSt 5 Cell.reset (cvRegs ++ [(cellKey 0 SYNC_MC_SE, 3 + 2 * 256)])
theorem witness_sig_write :
    sgCv.canvasValid = true ∧ bits (0x02010345 : Nat) 0 6 < 48 ∧ bits (0x02010345 : Nat) 16 8 < sgCv.canvasW ∧ bits (0x02010345 : Nat) 24 7 < sgCv.canvasH ∧
    bit 0x02010345 31 = false ∧ bit 0x82010345 31 = true ∧ bits (0x82010345 : Nat) 16 8 ≤ sgCv.fld (cellKey 0 SYNC_MC_SE) 0 8 ∧
    sgCv.fld (cellKey 0 SYNC_MC_SE) 0 8 < sgCv.canvasW ∧ bits (0x82010345 : Nat) 24 7 ≤ sgCv.fld (cellKey 0 SYNC_MC_SE) 8 7 ∧
    sgCv.fld (cellKey 0 SYNC_MC_SE) 8 7 < sgCv.canvasH ∧ 48 ≤ bits (0x3F : Nat) 0 6 := by decide +kernel

def wtSt : State := coSt lwW 1 (0x20000000 + SYNC_WAIT + 4 * 7) cr0 5 []
def wx : WaitSt := ⟨3, 5, false, 5, 10, 4⟩
def wtgSt (n cyc : Nat) : State :=
  let s := coSt lwW 1 2 { cr0 with wait := some wx } 5 [(ctrKey 0 3, n)]
  s.setCell 0 { s.cell 0 with cyc := cyc }
theorem witness_waits :
    (issuesB wtSt .wait lwW lwW = true ∧ scalarMem (wtSt.core 0 .head) lwW = some ⟨false, false, 2, 5, 0x20000000 + SYNC_WAIT + 4 * 7⟩) ∧
    (((wtgSt 5 20).core 0 .head).wait = some wx ∧ wx.target ≤ (wtgSt 5 20).count 0 wx.ctr ∧ (wtgSt 5 20).runs 0 = true ∧
      ((wtgSt 5 20).cell 0).cyc ≤ wx.start + (wtgSt 5 20).fld (cellKey 0 SYNC_WDOG) 0 24 * 1024 ∧ wx.target ≤ (wtgSt 5 (10 + (wtgSt 5 0).fld (cellKey 0 SYNC_WDOG) 0 24 * 1024)).count 0 wx.ctr) ∧
    (((wtgSt 4 2000000000).core 0 .head).wait = some wx ∧ (wtgSt 4 2000000000).count 0 wx.ctr < wx.target ∧
      wx.start + (wtgSt 4 2000000000).fld (cellKey 0 SYNC_WDOG) 0 24 * 1024 ≤ ((wtgSt 4 2000000000).cell 0).cyc) := by decide +kernel

/-! ### Mesh -/

/-- A canvas of one die with its first region on, and packets. -/
def mshSt (x : Cell) (regs : List (Nat × Nat)) (net : List Pkt) : State :=
  { withRegs { live with cells := [(0, x)], net := net }
      (cvRegs ++ [(cellKey 0 SPM_PRIME_STAT, 1), (cellKey 0 SPM_BANK_OWN, 0x44444444)] ++ regs) with slot := 1 }
/-- A signal packet at cell 0's router. -/
def sigP (x y : Nat) : Pkt := { Pkt.blank 5 (.far 0 .head) (.router 0 0) with x := x, y := y, ctr := 3, epoch := 0, inc := 2 }

theorem withRegs_regions (l : List (Nat × Nat)) (s : State) : (withRegs s l).regions = s.regions := by
  induction l generalizing s with
  | nil => rfl
  | cons e l ih => exact ih _

/-- The one region of these states has no switch-off in progress. -/
theorem msh_off (x : Cell) (regs : List (Nat × Nat)) (net : List Pkt) (r : Nat) (got : List Nat) : ((mshSt x regs net).region r).off ≠ .detours got := by
  have h : (mshSt x regs net).regions = [(0, { Region.reset with st := 3, n := 16 }), (1, { Region.reset with st := 3, n := 16 })] :=
    withRegs_regions _ _
  simp only [State.region, h, SMap.get]
  split <;> (try split) <;> simp [Region.reset]

def lk1 (x : LinkSt) (p : Pkt) : State := mshSt { Cell.reset with links := [(0, x)] } [] [p]
def rgP : Pkt := { sigP 0 0 with pos := .ring 0 }
/-- A packet stands at the head of its buffer in a router that runs. -/
def atHead (s : State) (i c via : Nat) (p : Pkt) : Bool :=
  decide (s.net[i]? = some p ∧ p.pos = .router c via ∧ p.badHeader = false ∧ p.mcast = false ∧ p.phys = false ∧ p.way = none ∧ p.sent = none) &&
    s.isFirst i p && !s.routerDead c && s.routerPulse c
/-- The link toward the cell to the east takes the packet at the head of its buffer. -/
def eastTakes (s : State) (i c : Nat) (p : Pkt) : Bool :=
  decide (s.routerDead (c + 1) = false ∧ s.detourOf c 0 = none ∧ s.linkHolds c 0 = false ∧ s.linkFailed c 0 = false ∧ s.runOn c 0 p 64 = ([c], c, 0)) &&
    s.credit c 0 p && s.retryRoom c 0 p && s.granted s.wants i c 2 p
theorem witness_route :
    (atHead (mshSt Cell.reset [] [sigP 0 0]) 0 0 0 (sigP 0 0) = true ∧ (mshSt Cell.reset [] [sigP 0 0]).logicalOf 0 = some (0, 0) ∧
      (mshSt Cell.reset [] [sigP 0 0]).granted (fun _ _ _ => []) 0 0 0 (sigP 0 0) = true) ∧
    (atHead (mshSt Cell.reset [] [sigP 2 0]) 0 0 0 (sigP 2 0) = true ∧ eastTakes (mshSt Cell.reset [] [sigP 2 0]) 0 0 (sigP 2 0) = true ∧
      (0 : Nat) < (sigP 2 0).x ∧ (mshSt Cell.reset [] [sigP 2 0]).badFlit 0 0 (sigP 2 0) 1 = some 0 ∧
      (mshSt Cell.reset [] [sigP 2 0]).written (cellKey 1 RTR_RETRY_CNT) = false) ∧
    (atHead (mshSt Cell.reset [(cellKey 0 RTR_LINK_STAT, 1)] [sigP 2 0]) 0 0 0 (sigP 2 0) = true ∧
      (mshSt Cell.reset [(cellKey 0 RTR_LINK_STAT, 1)] [sigP 2 0]).linkFailed 0 0 = true ∧
      (mshSt Cell.reset [(cellKey 0 RTR_LINK_STAT, 1)] [sigP 2 0]).linkHolds 0 0 = false ∧
      (mshSt Cell.reset [(cellKey 0 RTR_LINK_STAT, 1)] [sigP 2 0]).detourOf 0 0 = none) := by
  decide +kernel
theorem witness_route_waits :
    (atHead (lk1 { LinkSt.reset with stopped := true } (sigP 2 0)) 0 0 0 (sigP 2 0) = true ∧
      (lk1 { LinkSt.reset with stopped := true } (sigP 2 0)).linkHolds 0 0 = true ∧ (lk1 { LinkSt.reset with stopped := true } (sigP 2 0)).linkFailed 0 0 = false ∧
      (lk1 { LinkSt.reset with stopped := true } (sigP 2 0)).runOn 0 0 (sigP 2 0) 64 = ([0], 0, 0)) ∧
    (mshSt Cell.reset [] [sigP 2 0, sigP 2 0]).isFirst 1 (sigP 2 0) = false ∧
    (let u := mshSt Cell.reset [] [rgP];
      u.isFirst 0 rgP = true ∧ edgeRow u.part (cellDie 0) = 0 ∧ u.routerDead 0 = false ∧ u.routerPulse 0 = true ∧ u.linkHolds 0 State.ringLink = false ∧
      u.linkFailed 0 (edgeLink u.part (cellDie 0)) = false ∧ u.roomFor 0 1 rgP.vc rgP.flits = true ∧ u.retryRoom 0 State.ringLink rgP = true) := by decide +kernel

def lkSt (x : LinkSt) : State := mshSt { Cell.reset with links := [(0, x)] } [] []
def mcP (w : Nat) : Pkt := { Pkt.blank 7 (.far 0 .head) (.router 0 0) with x := 0, y := 0, x1 := 1, y1 := 1, ctr := 3, inc := 2, waited := w }
/-- The sideband of an idle flit with ACKSEQ `a`. -/
def idleSb (a : Nat) (nak : Bool) : Nat := (Sideband.idle a nak 0 0 0).full (List.replicate 32 0)
theorem witness_links :
    (idleGood (idleSb 4 true) = true ∧ bit (idleSb 4 true) 25 = true ∧ bits (idleSb 4 true) 17 8 = 4 ∧ idleGood (idleSb 9 true) = true ∧
      bit (idleSb 9 true) 25 = true ∧ bits (idleSb 9 true) 17 8 = 9 ∧ idleGood (idleSb 4 false) = true ∧ bit (idleSb 4 false) 25 = false ∧
      bits (idleSb 4 false) 17 8 = 4 ∧ idleGood 1 = false) ∧
    (((lkSt { LinkSt.reset with naked := true, retry := [3, 4, 5] }).link 0 0).naked = true ∧
      ((lkSt { LinkSt.reset with naked := true, retry := [3, 4, 5] }).link 0 0).refused + 1 <
        (lkSt { LinkSt.reset with naked := true, retry := [3, 4, 5] }).fld (cellKey 0 RTR_LINK_CFG) 0 4 ∧ ((9 : Nat) ∉ [3, 4, 5]) ∧ ([3, 4, 5] = [3] ++ 4 :: [5])) ∧
    (((lkSt { LinkSt.reset with retry := [3, 4, 5] }).link 0 0).naked = false ∧ ((lkSt { LinkSt.reset with retry := [3, 4, 5] }).link 0 0).retry = [3] ++ 4 :: [5] ∧
      (4 : Nat) ∉ [3]) ∧
    (((lkSt { LinkSt.reset with naked := true, refused := 7 }).link 0 0).naked = true ∧
      (lkSt { LinkSt.reset with naked := true, refused := 7 }).fld (cellKey 0 RTR_LINK_CFG) 0 4 ≤ ((lkSt { LinkSt.reset with naked := true, refused := 7 }).link 0 0).refused + 1) ∧
    ((lkSt { LinkSt.reset with stopped := true }).link 0 0).stopped = true ∧ (lkSt { LinkSt.reset with stopped := true }).meetsPad 0 0 0 = true ∧
    (lkSt { LinkSt.reset with stopped := true }).written (cellKey 0 RTR_RETRY_CNT) = false ∧ (lkSt { LinkSt.reset with stopped := true }).net = [] ∧
    ((lk1 { LinkSt.reset with stopped := true } (mcP (2 ^ 24))).net[0]? = some (mcP (2 ^ 24)) ∧ (mcP (2 ^ 24)).mcast = true ∧
      2 ^ (lk1 { LinkSt.reset with stopped := true } (mcP (2 ^ 24))).fld (cellKey 0 RTR_MC_WDOG) 0 5 ≤ (mcP (2 ^ 24)).waited ∧
      (lk1 { LinkSt.reset with stopped := true } (mcP (2 ^ 24))).mcReady 0 0 (mcP (2 ^ 24))
        ((lk1 { LinkSt.reset with stopped := true } (mcP (2 ^ 24))).mcOuts 0 0 (mcP (2 ^ 24))) = false) := by decide +kernel

def wP (t : Nat) : Pkt :=
  { Pkt.blank t (.far 5 .head) (.landed 0) with addr := 2 ^ 44 + 0x40, blen := 16, dlen := 1, tag := 9, data := if t = 2 then [] else List.replicate 16 0x5A, ackreq := true, ctr := 3, inc := 2 }
def wG : Pkt := { wP 1 with sigf := true }
def ldp (p : Pkt) (o : Nat) : State := mshSt Cell.reset [(cellKey 0 SPM_BANK_OWN, o)] [p]
def ldw (t : Nat) (o : Nat) : State := ldp (wP t) o
theorem witness_land :
    ((ldw 1 4).pktOf 0 1 = some (wP 1) ∧ (ldw 1 4).isHole 0 = false ∧ originCell (wP 1).src = some 5 ∧ bits (wP 1).addr 44 4 = 1 ∧
      bits (wP 1).addr 0 21 = 0x40 ∧ (wP 1).data.length = 16 ∧ (wP 1).pois = [] ∧ (wP 1).sigf = false ∧
      (ldw 1 4).spmCheckRun 0 0x40 (wP 1).data.length 4 (decide ((wP 1).src = .firmware)) = none) ∧
    ((ldp wG 4).pktOf 0 1 = some wG ∧ wG.sigf = true ∧ (ldp wG 4).spmCheckRun 0 0x40 wG.data.length 4 (decide (wG.src = .firmware)) = none) ∧
    ((ldw 1 5).pktOf 0 1 = some (wP 1) ∧ (ldw 1 5).isHole 0 = false ∧ (ldw 1 5).spmCheckRun 0 0x40 16 4 false = some (0x40, 0x23, 0)) ∧
    ((ldw 2 4).pktOf 0 2 = some (wP 2) ∧ (∀ j, j < (wP 2).blen → judge ((ldw 2 4).wordAt 0 (0x40 + j)) ((ldw 2 4).chkAt 0 (0x40 + j)) = .good) ∧
      (ldw 2 4).spmCheckRun 0 0x40 16 4 false = none) ∧
    (ldw 6 4).pktOf 0 6 = some (wP 6) ∧ (ldw 6 4).spmCheckRun 0 0x40 16 4 false = none ∧ (ldw 5 4).pktOf 0 5 = some (wP 5) ∧ (ldw 7 4).pktOf 0 7 = some (wP 7) := by decide +kernel

def txc (op : Nat) : TxCmd := { op := op, src := 0x40, dst := 2 ^ 44 + 0x1000, units := 1, sig := 0, x1 := 0, y1 := 0, sent := 32, waiting := [9] }
def akP (st : Nat) : Pkt := { Pkt.blank 4 (.far 0 .head) (.landed 0) with tag := 9, status := st }
def akSt (st : Nat) (txs : List TxCmd) : State := mshSt { Cell.reset with tx := txs, head := { cr0 with farStores := 2 } } [] [akP st]
def gtP : Pkt := { Pkt.blank 3 (.far 0 .head) (.landed 0) with tag := 9, addr := 2 ^ 44 + 0x1000, blen := 32, data := List.replicate 32 0x5A }
def gtSt : State := mshSt { Cell.reset with tx := [txc 2] } [] [gtP]
theorem witness_responses :
    (akSt 0 []).pktOf 0 4 = some (akP 0) ∧ ((akSt 0 [txc 1]).cell 0).tx = [txc 1] ∧ 9 ∈ (txc 1).waiting ∧ (akP 1).status = 1 ∧
    (gtSt.pktOf 0 3 = some gtP ∧ gtSt.farTag 0 .head ≠ some 9 ∧ gtSt.farTag 0 .tail ≠ some 9 ∧ (txc 2).len ≤ (txc 2).sent ∧
      (txc 2).src + (gtP.addr - (txc 2).dst) = 0x40 ∧ gtSt.spmCheckRun 0 0x40 gtP.data.length 4 false = none) := by decide +kernel

def txSt (txs : List TxCmd) (len : Nat) : State :=
  mshSt { Cell.reset with tx := txs } [(cellKey 0 RTR_TX_SRC, 0x40), (cellKey 0 RTR_TX_DLO, 0x1000), (cellKey 0 RTR_TX_DHI, 0x1000),
    (cellKey 0 RTR_TX_LEN, len), (cellKey 0 RTR_TX_SIG, 0x100), (cellKey 0 RTR_TX_RECT, 0x101)] []
theorem witness_tx :
    (txSt [txc 1] 1).txReason 0 1 = 0 ∧ (txSt [] 0).txReason 0 1 = 1 ∧ (txSt [] 1).txReason 0 2 = 0 ∧ (txSt [] 1).txReason 0 3 = 0 ∧
    ((txSt [] 1).txStaged 0 1).units = 1 ∧ bits ((txSt [] 1).txStaged 0 1).dst 44 4 = 1 ∧ (txSt [] 1).dest ((txSt [] 1).txStaged 0 1).dst 32 = .cell 0 0 ∧
    (txSt [] 1).txMay 0 ((txSt [] 1).txStaged 0 1) = true ∧ (txSt [] 1).txMay 0 ((txSt [] 1).txStaged 0 2) = true ∧ (txSt [] 1).txMay 0 ((txSt [] 1).txStaged 0 3) = true ∧
    (txSt [] 1).spmCheckRun 0 ((txSt [] 1).txStaged 0 1).src 32 4 false = none ∧
    (∀ j, j < 32 → judge ((txSt [] 1).wordAt 0 (((txSt [] 1).txStaged 0 1).src + j)) ((txSt [] 1).chkAt 0 (((txSt [] 1).txStaged 0 1).src + j)) = .good) ∧
    (txSt [{ txc 1 with waiting := [] }] 1).txDone 0 { txc 1 with waiting := [] } = true ∧ (txSt [] 1).corePulse 0 = true := by decide +kernel

/-! ### GDDR7 -/

/-- One device in service, of die 0, with 2^30 bytes. -/
def gdSt (mem : List (Nat × Byte)) (regs : List (Nat × Nat)) : State :=
  withRegs { State.reset with mem := mem } ([(ecKey BOOT_GDDR_LIVE, 1), (ecKey BOOT_GDDR_CAP, 2 ^ 30), (memKey 0 0 MEM_STAT, 4)] ++ regs)
def gdGood (s : State) (a len : Nat) : Bool := (halvesOf a len).all fun h => decide (gddrJudge (s.half h) (s.halfChk h) = .good)
def gdUp (s : State) (a len : Nat) : Bool :=
  decide (s.gddrReason a len = 0) && (s.locate a).any fun g => !s.heldBack g && !s.tagBad g a && decide (s.devState g.d g.n ≠ 6 ∧ g.ch < 4) && !s.written (memKey g.d g.n MEM_ECC_CNT) && !s.written (memKey g.d g.n MEM_EDC_CNT)
theorem witness_gddr_read : gdUp (gdSt [] []) 64 100 = true ∧ gdGood (gdSt [] []) 64 100 = true := by decide +kernel
theorem witness_gddr_judgements : gdUp (gdSt [(64, 1)] []) 64 32 = true ∧ gddrJudge ((gdSt [(64, 1)] []).half 64) ((gdSt [(64, 1)] []).halfChk 64) = .single 0 ∧
    gddrJudge ((gdSt [(64, 3)] []).half 64) ((gdSt [(64, 3)] []).halfChk 64) = .bad ∧
    gddrJudge ((gdSt [(gddrChkKey 64, 0xFF), (gddrChkKey 64 + 1, 0xFF)] []).half 64) ((gdSt [(gddrChkKey 64, 0xFF), (gddrChkKey 64 + 1, 0xFF)] []).halfChk 64) = .poison := by decide +kernel
theorem witness_gddr_refused : (gdSt [] []).gddrReason (2 ^ 30) 1 = 1 ∧ (gdSt [] []).gddrReason 959 2 = 2 ∧ State.reset.gddrReason 0 32 = 3 := by decide +kernel
def gdRaw : State := gdSt [] [(memKey 0 0 MEM_ECC_TADDR, 64), (memKey 0 0 MEM_ECC_TCHK, 0x1234)]
theorem witness_gddr_raw : gdRaw.testServed 0 0 = true ∧ (gdRaw.mc 0 0).waits = [] ∧ (∀ ch, ch < 4 → gdRaw.retraining 0 0 ch = false) ∧ gdRaw.fates = [] ∧
    ((gdRaw.dropPend .firmware (keyBlock (memKey 0 0 MEM_ECC_TCMD))).rawTurn (gdRaw.testAddr 0 0)).written (memKey 0 0 MEM_ECC_TCHK) = false := by decide +kernel
theorem witness_gddr_retrain : (gdSt [] [(memKey 0 0 MEM_STAT, 4 + 8)]).retraining 0 0 0 = true := by decide +kernel
def gdScrub (n : Nat) : State := { gdSt [] [] with mcs := [(0, { Mc.reset with scrub := n })] }
theorem witness_gddr_scrub : (gdScrub 0).locate 0 = some ⟨0, 0, 0, 0, 0, 0⟩ ∧ gdGood (gdScrub 0) 0 960 = true ∧ (gdScrub 0).devState 0 0 = 4 ∧
    (gdScrub 0).mcIdle 0 0 = true ∧ (gdScrub 0).tagBad ⟨0, 0, 0, 0, 0, 0⟩ 0 = false ∧ (gdScrub 0).now ≤ ((gdScrub 0).mc 0 0).passStart ∧
    ((gdScrub 0).mc 0 0).scrub + 1 < (gdScrub 0).segs := by decide +kernel
theorem witness_gddr_scrub_last : ((gdScrub 3906247).locate (3906247 * 960)).isSome = true ∧ gdGood (gdScrub 3906247) (3906247 * 960) 960 = true ∧
    ¬ ((gdScrub 3906247).mc 0 0).scrub + 1 < (gdScrub 3906247).segs ∧
    ((gdScrub 3906247).locate (3906247 * 960)).any (fun g => (gdScrub 3906247).tagBad g (3906247 * 960)) = false := by decide +kernel
def gdWait : GWait := ⟨.far 3 .head, 64, 34, none, 0⟩
def gdHeld : State := { gdSt [] [(memKey 0 0 MEM_STAT, 4 + 8)] with mcs := [(0, { Mc.reset with waits := [gdWait] })] }
theorem witness_gddr_waits : gdHeld.retraining 0 0 0 = true ∧ (gdHeld.mc 0 0).waits = [gdWait] ∧ gdHeld.locate 64 = some ⟨0, 0, 0, 0, 1, 0⟩ ∧
    gdHeld.meshBefore ⟨0, 0, 0, 0, 1, 0⟩ 0 = false ∧ gdHeld.devState 0 0 ≠ 6 ∧ gdHeld.tagBad ⟨0, 0, 0, 0, 1, 0⟩ 64 = false ∧ gdGood gdHeld 64 34 = true := by decide +kernel

/-! ### Loads. The images are 320 bytes: header, one panel of one cell, one segment, its check value, 64 bytes 0x5A. -/

def img3 : Nat := 0x5a5a5a5a5a5a5a5a5a5a5a5a5a5a5a5a5a5a5a5a5a5a5a5a5a5a5a5a5a5a5a5a5a5a5a5a5a5a5a5a5a5a5a5a5a5a5a5a5a5a5a5a5a5a5a5a5a5a5a5a5a5a5a5a00000000000000000000000000000000000000000000000000000000000000000000000000000000000000000000000000000000000000000000000081c3ac6000000000000000000000000000000000000000000000000000000000000000006f296b71000000c00000000000001000000000000003000200000040000001000000000000000000000000000000000000000000000000000000000000000000000000000000000000000000000000008ea31aab00000007ffff00020101000021f1684c0000000000000000000000000000000000000000000000000000000000000000000000800000000100000040000100070000000500400001494c5a44
def img5 : Nat := 0x5a5a5a5a5a5a5a5a5a5a5a5a5a5a5a5a5a5a5a5a5a5a5a5a5a5a5a5a5a5a5a5a5a5a5a5a5a5a5a5a5a5a5a5a5a5a5a5a5a5a5a5a5a5a5a5a5a5a5a5a5a5a5a5a00000000000000000000000000000000000000000000000000000000000000000000000000000000000000000000000000000000000000000000000081c3ac60000000000000000000000000000000000000000000000000000000000000000011cfdae2000000c00000000000000000000000000005000200000040000001000000000000000000000000000000000000000000000000000000000000000000000000000000000000000000000000008ea31aab00000007ffff0002010100000336ee680000000000000000000000000000000000010000000000000001000000000000000000800000000100000040000100070000000500400001494c5a44
/-- The image at GDDR address 0. -/
def imgSt (img : Nat) (regs : List (Nat × Nat)) : State :=
  (List.range 10).foldl (fun t i => t.writeHalf (32 * i) (img / 2 ^ (256 * i) % 2 ^ 256))
    (gdSt [] (cvRegs ++ [(ecKey BOOT_LOAD_LEN, 5), (cellKey 0 SPM_PRIME_STAT, 1), (cellKey 0 SPM_BANK_OWN, 0x44444444)] ++ regs))
def ldPan : Panel := { id := 2, parent := 0xFFFF, x0 := 0, y0 := 0, w := 1, h := 1, job := 7, ballast := false }
def ldSeg (kind dest : Nat) : Seg :=
  { off := 256, len := 64, panel := 2, kind := kind, start := false, u0 := 0, v0 := 0, u1 := 0, v1 := 0, dest := dest, crcOff := 192 }
def ldL (kind dest gb round : Nat) (bad : List (Nat × Nat × Nat)) (k5 : Bool) : LoadSt :=
  { job := 7, src := 0, len := 320, qctx := 0, panels := [ldPan], segs := [ldSeg kind dest], k4 := [], testslot := false, gbase := gb,
    glen := gb, round := round, bad := bad, bcastEnd := 0, entered := true, prepared := true, k5 := k5,
    armed := [], tables := [], asked := [] }
def ldJob : Job := { id := 7, state := 1, step := 0, gbase := 0, glen := 0, testslot := false, starts := [], ctxs := [] }
def loadSt (img : Nat) (l : LoadSt) : State :=
  { imgSt img [(ecKey BOOT_LOAD_STAT, 3)] with load := some l, jobs := [ldJob], panels := [ldPan], regions := [(0, rg)], slot := 2 ^ 40 }
def okLoad (r : State × (LoadSt ⊕ (Nat × Nat × Nat))) : Option LoadSt := match r.2 with | .inl l => some l | .inr _ => none

/-- Cell 0 of running job 5 has a halt request. -/
def hqSt (q : HaltReq) (js : List Job) : State := { jobSt cr0 [] with err := { State.reset.err with haltQ := [q] }, jobs := js }
theorem witness_halts :
    (let s := hqSt ⟨0, 0x2C, 1, 5, false⟩ [jobA 3];
      s.err.haltQ = [⟨0, 0x2C, 1, 5, false⟩] ∧ s.job? 5 = some (jobA 3) ∧ (0 : Nat) ∈ s.jobCells 5 ∧ (jobA 3).state = 3) ∧
    (let s := hqSt ⟨0, 0x2C, 1, 5, true⟩ [{ jobA 3 with state := 5 }]; s.job? 5 = some { jobA 3 with state := 5 } ∧ (1 : Nat) ∈ s.jobCells 5) ∧
    (hqSt ⟨0, 0x2C, 1, 5, true⟩ []).job? 5 = none ∧
    (let s := { loadSt 0 (ldL 3 0 0 0 [] true) with err := { State.reset.err with haltQ := [⟨0, 0x2C, 1, 7, false⟩] } };
      s.panelOf 0 = some ldPan ∧ ldPan.job = 7 ∧ s.job? 7 = some ldJob ∧ ldJob.state = 1 ∧ s.load = some (ldL 3 0 0 0 [] true) ∧
        (ldL 3 0 0 0 [] true).job = 7 ∧ (ldL 3 0 0 0 [] true).entered = true) := by decide +kernel
theorem witness_jobs :
    (let s := { spSt 4 Cell.reset cvRegs with jobs := [jobA 2], panels := [panA] };
      s.job? 5 = some (jobA 2) ∧ (jobA 2).starts = [(0, .head)] ∧ s.primed 0 = true ∧ (s.core 0 .head).st = 0) ∧
    (let s := { spSt 4 Cell.reset cvRegs with jobs := [{ jobA 2 with starts := [] }], panels := [panA] };
      (s.job? 5).isSome = true ∧ (∀ c ∈ s.jobCells 5, s.coreBusy c .head = false ∧ s.coreBusy c .tail = false)) ∧ (State.reset.job? 5 = none) ∧
    (let s := { State.reset with jobs := [jobA 4], leftRun := [5] }; s.job? 5 = some (jobA 4) ∧ (5 : Nat) ∈ s.leftRun) ∧
    (let s := withRegs { State.reset with jobs := [jobA 3] } [(ecKey STEP_SEL, 5)]; s.job? (s.fld (ecKey STEP_SEL) 0 16) = some (jobA 3)) := by decide +kernel
theorem witness_load_check :
    (imgSt img3 []).load = none ∧
    okLoad (State.loadCheck (((imgSt img3 []).setFld (ecKey BOOT_LOAD_STAT) 0 8 1).setReg (ecKey BOOT_LOAD_INFO) 0xFFFF) 0 5 0 0) =
      some { ldL 3 0x1000 0 0 [] false with entered := false, prepared := false } := by decide +kernel
/-- A state in a load with every region of the die on. -/
def ldOn (img : Nat) (l : LoadSt) : State := { loadSt img l with regions := onRegs }
/-- A load in its second round: the code segment before it has no cell left to wait for. -/
def ldA : LoadSt := { ldL 3 0x1000 0 1 [] true with segs := [ldSeg 1 0, ldSeg 3 0x1000] }
def chunk3 : List Byte := List.replicate 64 0x5A
def crc3 : Nat := 2177084512
def ga3 : Nat := State.loadGa 0 0 (ldSeg 3 0x1000) 0

theorem witness_load_prepare :
    (let l := { ldL 3 0x1000 0 0 [] true with entered := false };
      l.panels.find? (ldOn 0 l).panelHoled = none ∧
      l.panels.find? ({ ldOn 0 l with boot := { State.reset.boot with remap := some (0, 0, []) } } : State).panelHoled = some ldPan) ∧
    (let s := { loadSt img3 (ldL 3 0x1000 0 0 [] true) with load := some { ldL 3 0x1000 0 0 [] true with prepared := false } };
      s.jobCells 7 = [0] ∧ s.coreGate 0 = true) ∧
    (let s := loadSt img3 (ldL 3 0x1000 0 1 [(0, 0, 0)] true); (0 : Nat) + 250000000 < s.now) ∧ State.reset.canvasValid = false := by decide +kernel
theorem witness_load_round :
    (ldOn img3 ldA).roundOver ldA = true ∧ (State.roundsOf ldA)[ldA.round]? = some [1] ∧ ldA.segs[1]? = some (ldSeg 3 0x1000) ∧
    (ldOn img3 ldA).segCells (ldSeg 3 0x1000) = [0] ∧ chunksOf 64 = [(0, 0, 64)] ∧ State.packetsOf (ldSeg 3 0x1000) 0 64 = [(0, 0, 64)] ∧
    (let s0 := { ldOn img3 ldA with fates := [], load := some { ldA with armed := [0] } };
      s0.readChunk 0 (ldSeg 3 0x1000) 0 0 64 = (s0, some (chunk3, crc3)) ∧ s0.carryOut s0.ctlDie .firmware ga3 64 true = (s0, 0) ∧
      s0.physicalOf 0 0 = some 0 ∧ s0.spmCheckRun 0 0x1000 64 4 true = none ∧
      ((s0.landPiece 0 (ldSeg 3 0x1000) 0 chunk3 []).1.carryBack s0.ctlDie .firmware ga3 64 true).2 = 0) := by decide +kernel
/-- A load with one bad chunk whose table the checker holds. -/
def ldB (bcastEnd : Nat) : LoadSt := { ldL 3 0x1000 0 1 [(0, 0, 0)] true with tables := [(0, 0, crc3)], bcastEnd := bcastEnd }
theorem witness_load_repair :
    crc32c chunk3 = crc3 ∧
    (let s := ldOn img3 (ldB (2 ^ 40));
      s.now ≤ 2 ^ 40 + 250000000 ∧ s.imgReadBy (cellDie 0) 0 256 64 = (s, some chunk3) ∧ s.logicalOf 0 = some (0, 0) ∧ s.segCells (ldSeg 3 0x1000) = [0] ∧
      s.carryOut (cellDie 0) .firmware ga3 64 true = (s, 0) ∧ s.spmCheckRun 0 0x1000 64 4 true = none ∧
      ((s.landPiece 0 (ldSeg 3 0x1000) 0 chunk3 []).1.carryBack (cellDie 0) .firmware ga3 64 true).2 = 0) ∧
    (0 : Nat) + 250000000 < (ldOn img3 (ldB 0)).now := by decide +kernel
theorem witness_load_kind5 :
    (let s := ldOn img5 (ldL 5 0 0x10000 0 [] false);
      s.fates = [] ∧ s.readChunk 0 (ldSeg 5 0) 0 0 64 = (s, some (chunk3, crc32c chunk3)) ∧ (0x10000 + 0) % 960 + 64 ≤ 960 ∧
      s.carryOut s.ctlDie .firmware 0x10000 64 true = (s, 0) ∧ (s.gddrWriteNow .firmware 0x10000 chunk3 []).2 = 0 ∧
      ((s.gddrWriteNow .firmware 0x10000 chunk3 []).1.carryBack s.ctlDie .firmware 0x10000 64 true).2 = 0) := by decide +kernel
theorem witness_load_initialise :
    (let s := loadSt img3 (ldL 3 0x1000 0 1 [] true);
      s.roundOver (ldL 3 0x1000 0 1 [] true) = true ∧ (State.roundsOf (ldL 3 0x1000 0 1 [] true))[1]? = none ∧ s.job? 7 = some ldJob) := by decide +kernel

/-! ### Xildo fabric -/

/-- A command of queue 3: OP with RSIG and a signal to counter 5, LEN bytes from LOCAL (cell 0, 0x40) to REMOTE. -/
def fcmd (op len : Nat) : BitVec 256 :=
  BitVec.ofNat 256 (3 + op * 2 ^ 16 + (if op = 3 then 2 ^ 22 else 0) + len * 2 ^ 32 + 0x40 * 2 ^ 64 + 0x1000 * 2 ^ 96 + 0x100 * 2 ^ 128 + 5 * 2 ^ 160)
def fctx : Ctx :=
  { Ctx.reset with state := 2, job := 0xFFFF, peerEngine := 9, peerQueue := 4, dmac := 0x1234, winBase := 2 ^ 44, winLen := 0x100000 }
/-- Port 0 up with Ethernet or native framing. -/
def fpA (eth : Bool) : FPort := { FPort.reset with ether := eth, etype := 0x88B5, crReq := 4, crRsp := 4 }
/-- Die 0 with context 3 open to engine 9 over port 0, whose state is `pst`. -/
def fbSt (x : Ctx) (pst : Nat) (eth : Bool) (regs : List (Nat × Nat)) : State :=
  { withRegs { State.reset with ctxs := [(3, x)], regions := onRegs, fports := [(0, fpA eth)] }
      (cvRegs ++ [(cellKey 0 SPM_PRIME_STAT, 1), (cellKey 0 SPM_BANK_OWN, 0x44444444), (dieKey 0 FAB_ENGINE_ID, 1),
        (fabKey 0 0 FAB_PSTAT, pst), (fabKey 0 0 FAB_PCFG, if eth then 0x23 else 0x21), (fabKey 0 0 FAB_PETYPE, 0x88B5)] ++ regs) with slot := 1 }
def fcq (op : Nat) : FabCmd := ⟨fcmd op (if op = 3 then 0 else 32), .host 0⟩
def fqSt (op pst : Nat) : State := { fbSt fctx pst true [] with fabQ := [(0, fcq op)] }
theorem witness_fab_submit :
    (∀ op, 1 ≤ op → op ≤ 4 → (fbSt fctx 2 true []).submitReason (.host 0) 0 (State.withOp (fcmd op (if op = 3 then 0 else 32)) op) = 0) ∧
    State.reset.submitReason (.host 0) 0 (State.withOp (fcmd 1 32) 1) = 2 ∧ State.reset.fabFull 0 = false ∧
    ({ State.reset with fabQ := List.replicate 512 (0, ⟨0, .host 0⟩) } : State).fabFull 0 = true := by
  refine ⟨fun op h1 h2 => ?_, by decide +kernel⟩
  obtain rfl | rfl | rfl | rfl : op = 1 ∨ op = 2 ∨ op = 3 ∨ op = 4 := by omega
  all_goals decide +kernel
/-- What the first piece of a command has done to the state as it reads its data. -/
def started (s : State) (fc : FabCmd) : State :=
  (({ s with fabQ := s.fabQ.eraseP fun e => e.1 == 0 && e.2.cmd == fc.cmd && decide (e.2.req = fc.req) } : State).setCtx 3
    { s.ctx 3 with inflight := (s.ctx 3).inflight + 1 }).setTag 0 0 { gen := (s.tag 0 0).gen, cmd := some fc, start := s.now, pois := false, got := 0 }
theorem witness_fab_native :
    (let s := { fbSt fctx 2 false [] with fabQ := [(0, fcq 3)] };
      s.startable 0 s.fabQ [] = some (fcq 3) ∧ s.freeTag 0 = some 0 ∧ s.pstate 0 0 = 2 ∧ s.ethernet 0 0 = false ∧ (s.fport 0 0).held = [] ∧
      1 ≤ (s.fport 0 0).crReq ∧ State.retryBytes (s.fport 0 0) + 36 ≤ 262144 ∧ s.fabWait = []) ∧
    (State.reset.startable 0 State.reset.fabQ [] = none ∧ State.reset.written (fabKey 0 0 FAB_PRETRY) = false) := by decide +kernel
theorem witness_fab_read :
    (let u := started (fqSt 1 2) (fcq 1);
      u.carryOut 0 (.agent 0) (cLocal (fcq 1).cmd) 32 false = (u, 0) ∧ bits (cLocal (fcq 1).cmd) 44 4 = 1 ∧ u.target (cLocal (fcq 1).cmd) = .spm 0 0x40 ∧
      u.spmCheckRun 0 0x40 32 4 false = none ∧ (∀ j, j < 32 → judge (u.wordAt 0 (0x40 + j)) (u.chkAt 0 (0x40 + j)) = .good) ∧
      ((u.meshRead 0 0x40 32).1.carryBack 0 (.agent 0) (cLocal (fcq 1).cmd) 32 false).2 = 0) := by decide +kernel
theorem witness_fab_start :
    (∀ op ∈ [1, 3], (fqSt op 2).startable 0 (fqSt op 2).fabQ [] = some (fcq op) ∧ cOp (fcq op).cmd = op ∧ cQueue (fcq op).cmd = 3) ∧
    (fqSt 1 2).freeTag 0 = some 0 ∧ (fqSt 1 2).pstate 0 0 = 2 ∧ (fqSt 1 2).ethernet 0 0 = true ∧ (fqSt 1 0).startable 0 (fqSt 1 0).fabQ [] = some (fcq 1) ∧ (fqSt 1 0).pstate 0 0 ≠ 2 ∧
    piecesBy (maxPay ((fqSt 1 2).fld (fabKey 0 0 FAB_PCFG) 4 2)) (cRemote (fcq 1).cmd) 32 = [(0, 32)] := by decide +kernel
/-- A command in tag slot 0. -/
def ftSt (op slot : Nat) (eth : Bool) : State :=
  { fbSt { fctx with inflight := 1 } 2 eth [] with tags := [(0, { gen := 7, cmd := some (fcq op), start := 0, pois := false, got := 0 })], slot := slot }
theorem witness_fab_timeout :
    ((ftSt 1 1 true).tag 0 0).cmd = some (fcq 1) ∧ (ftSt 1 1 true).now < 1000000 * (ftSt 1 1 true).fld (fabKey 0 0 FAB_PTIME) 16 16 ∧
    1000000 * (ftSt 1 (2 ^ 45) true).fld (fabKey 0 0 FAB_PTIME) 16 16 ≤ (ftSt 1 (2 ^ 45) true).now := by decide +kernel
theorem witness_fab_context :
    ((fbSt { fctx with state := 1 } 2 false []).ethernet 0 0 = false ∧ ((fbSt { fctx with state := 1 } 2 false []).ctx 3).peerEngine ≠ 0xFFFF) ∧
    (State.reset.ctx 3).state = 0 ∧ (fbSt fctx 2 false []).tagsOf 3 = [] := by decide +kernel

/-- A request frame for context 3. -/
def rq (ft : Nat) : Frame :=
  sealFrame {
    rsvd := 0, crc := 0, ftype := ft, rsig := ft == 4, last := true, rfmt := 0, paylen := if [4, 6, 7, 15].contains ft then 0 else 32, dstEngine := 1, srcEngine := 9,
    dstQueue := 3, srcQueue := 4, seq := 0, tag := 0, gen := 7, status := 0, addr := BitVec.ofNat 48 (2 ^ 44 + 0x1000), sig := 5, pois := [],
    payload := if ft = 1 ∨ ft = 5 ∨ ft = 3 then (List.replicate 8 [0, 0, 0x80, 0x3F]).flatten else [] }
def rqSt : State := fbSt fctx 2 true []
theorem witness_fab_requests :
    (∀ ft ∈ [1, 2, 4, 5], State.frameBad (rq ft) = false ∧ rqSt.fromPeer (rq ft) = true) ∧ State.inWin fctx (rq 1) = true ∧ State.inWin fctx { rq 1 with addr := 0 } = false ∧
    State.frameBad (sealFrame { rq 1 with addr := 0 }) = false ∧ rqSt.sigBadTarget (rq 4) = false ∧ rqSt.ethernet 0 0 = true ∧
    (rqSt.ctx 3).dropping = false ∧ (rqSt.ctx 3).landedBad = false ∧ (rqSt.ctx 3).landedPois = false ∧ rqSt.pstate 0 0 = 2 ∧
    (let u := rqSt.countAck 3;
      u.carryOut 0 (.agent 0) (rq 1).addr.toNat 32 true = (u, 0) ∧ u.carryOut 0 (.agent 0) (rq 1).addr.toNat 32 false = (u, 0) ∧
      u.target (rq 1).addr.toNat = .spm 0 0x1000 ∧ u.spmCheckRun 0 0x1000 32 4 false = none ∧
      (∀ j, j < 32 → judge (u.wordAt 0 (0x1000 + j)) (u.chkAt 0 (0x1000 + j)) = .good) ∧
      ((u.meshWrite 0 0x1000 (rq 1).payload [] none).1.carryBack 0 (.agent 0) (rq 1).addr.toNat 32 true).2 = 0 ∧
      ((u.meshRead 0 0x1000 32).1.carryBack 0 (.agent 0) (rq 1).addr.toNat 32 false).2 = 0) := by decide +kernel
/-- A reduce request for 32 bytes of GDDR7 at address 64, in the window of its context. -/
def rqG : Frame := sealFrame { rq 5 with addr := 64 }
def rgSt : State := fbSt { fctx with winBase := 0 } 2 true [(ecKey BOOT_GDDR_LIVE, 1), (ecKey BOOT_GDDR_CAP, 2 ^ 30), (memKey 0 0 MEM_STAT, 4)]
theorem witness_fab_reduce :
    rgSt.fromPeer rqG = true ∧ rqG.rsig = false ∧ State.inWin { fctx with winBase := 0 } rqG = true ∧ rgSt.gddrReason 64 32 = 0 ∧
    (rgSt.locate 64).any (fun g => g.d == 0 && decide (rgSt.devState g.d g.n ≠ 6) && !rgSt.tagBad g 64) = true ∧
    gddrJudge (rgSt.half 64) (rgSt.halfChk 64) = .good ∧ State.frameBad rqG = false ∧ rqG.rfmt = 0 ∧ rgSt.fates = [] ∧
    (rgSt.locate 64).any (fun g => !rgSt.retraining g.d g.n g.ch && (rgSt.mc g.d g.n).waits == []) = true := by decide +kernel
/-- The signal of frame `rq 4`, as the agent's packet. -/
def sgPk : Pkt := { Pkt.blank 5 (.agent 0) (.agent 0) with x := 0, y := 0, ctr := 5, epoch := 0, inc := 0 }
theorem witness_fab_signal :
    (let u := (rqSt.countAck 3).setCtx 3 { (rqSt.countAck 3).ctx 3 with landedBad := false, landedPois := false };
      bits (rq 4).sig.toNat 16 8 = 0 ∧ bits (rq 4).sig.toNat 24 7 = 0 ∧ bits (rq 4).sig.toNat 0 6 = 5 ∧ (rq 4).last = true ∧ (rq 4).rsig = true ∧
      u.physicalOf 0 0 = some 0 ∧ (u.carry 0 sgPk (.cell 0 0)).2 = 0 ∧ (u.carry 0 sgPk (.cell 0 0)).1.isHole 0 = false) := by decide +kernel
theorem witness_fab_native_rx :
    (let s := fbSt fctx 2 false [];
      s.ethernet 0 0 = false ∧ (s.fport 0 0).held = [] ∧ State.frameBad { rq 1 with crc := 0, ftype := 1 } = true ∧ s.written (fabKey 0 0 FAB_PDROP) = false ∧
      bits (0 : DWord).toNat 0 12 = ((s.fport 0 0).lack + 1) % 4096 ∧ bits (1 : DWord).toNat 0 12 ≠ ((s.fport 0 0).lack + 1) % 4096) := by decide +kernel
theorem witness_fab_responses :
    (∀ ft ∈ [3, 6, 7, 15], State.frameBad (rq ft) = false) ∧ (ftSt 2 1 true).fromPeer (rq 3) = true ∧
    ((ftSt 2 1 true).tag 0 0).gen = (rq 3).gen ∧ ((ftSt 2 1 true).tag 0 0).got = 0 ∧ cLen (fcq 2).cmd = (rq 3).paylen ∧ cCsig (fcq 2).cmd = false ∧
    (let s := ftSt 2 1 true;
      s.carryOut 0 (.agent 0) (cLocal (fcq 2).cmd) 32 true = (s, 0) ∧ s.target (cLocal (fcq 2).cmd) = .spm 0 0x40 ∧ s.spmCheckRun 0 0x40 32 4 false = none ∧
      ((s.meshWrite 0 0x40 (rq 3).payload [] none).1.carryBack 0 (.agent 0) (cLocal (fcq 2).cmd) 32 true).2 = 0) ∧
    (rqSt.tag 0 0).gen ≠ (rq 3).gen := by decide +kernel
def unSt (n : Nat) (slot : Nat) : State :=
  { fbSt { fctx with unacked := [rq 1], toAck := n } 2 true [] with slot := slot, fports := [(0, { fpA true with retry := [(0, rq 1), (1, rq 1)] })] }
theorem witness_fab_retry :
    ((unSt 0 0).ctx 3).unacked.findIdx? (fun g => g.seq == (rq 7).seq) = some 0 ∧ (unSt 8 0).ackDue 3 = true ∧
    ((unSt 0 (2 ^ 40)).ctx 3).progress + 1000 * (unSt 0 (2 ^ 40)).rtoOf 3 ≤ (unSt 0 (2 ^ 40)).now ∧
    (let s := { unSt 0 0 with fports := [(0, { fpA false with retry := [(0, rq 1), (1, rq 1)] })] };
      s.ethernet 0 0 = false ∧ (s.fport 0 0).retry.findIdx? (fun e => e.1 == 0) = some 0 ∧ s.written (fabKey 0 0 FAB_PRETRY) = false ∧ (s.fport 0 0).held = [] ∧
      bit (0x1000000 : DWord).toNat 24 = true ∧ bits (0x1000000 : DWord).toNat 12 12 = 0 ∧ bit (0 : DWord).toNat 24 = false) := by decide +kernel
theorem witness_fab_ports :
    (fbSt fctx 1 true []).pstate 0 0 = 1 ∧ (fbSt fctx 1 true []).fld (ecKey LIC_STAT) 0 1 = 0 ∧ portWidth 0 4 1 = some (4, 0) ∧ portWidth 0xFF 4 1 = none ∧
    portWidth 1 4 1 = some (4, 4) ∧ (fbSt fctx 0 true []).unconfigured 0 0 = false ∧ (fbSt fctx 1 true []).unconfigured 0 0 = false ∧
    ((fbSt fctx 3 true []).pstate 0 0 = 3 ∧ ((fbSt fctx 3 true []).fport 0 0).held = [] ∧ ((fbSt fctx 3 true []).fport 0 0).retry = []) ∧
    (let s := { fbSt fctx 3 false [] with fports := [(0, fpA true)] };
      s.pstate 0 0 = 3 ∧ (s.fport 0 0).ether = true ∧ s.fld (fabKey 0 0 FAB_PCFG) 1 1 = 0 ∧ s.unconfigured 0 0 = false ∧ (s.fport 0 0).held = [] ∧
        (s.fport 0 0).pendDisable = false ∧ s.fld (ecKey LIC_STAT) 0 1 = 0) ∧
    (fbSt fctx 2 true []).written (fabKey 0 0 FAB_PFEC) = false := by decide +kernel

/-! ### Host interface -/

/-- Port 0 is up on a ready engine whose cell 0 is primed; aperture 0 shows the scratchpads. -/
def hpUp : HPort := { HPort.reset with up := true, perst := false, powered := true, msixEn := true }
def hsSt (h : HPort) (r : Ring) (regs : List (Nat × Nat)) : State :=
  { fbSt fctx 2 true ([(ecKey BOOT_STAT, 0x30), (State.pcieKey 0 PCIE_AP, 2 ^ 10)] ++ regs) with hports := [(0, h)], rings := [(1, r)], slot := 2 ^ 40 }
def rgOn : Ring := { Ring.reset with en := true, base := 0x10000, pi := 3, ci := 1 }
theorem witness_host_links :
    ((hsSt { hpUp with up := false } Ring.reset []).hport 0).powered = true ∧ (hsSt hpUp Ring.reset []).part.ports.contains 0 = true ∧
    (∀ n, n < 256 → ((hsSt hpUp Ring.reset []).ring 0 n).en = false) ∧ ((hsSt hpUp rgOn []).ring 0 1).en = true ∧ ((hsSt hpUp rgOn []).ring 0 1).stopped = false ∧
    ((hsSt hpUp rgOn []).hport 0).upSince + 100000000 ≤ (hsSt hpUp rgOn []).now ∧ (hsSt { hpUp with upSince := 2 ^ 60 } rgOn []).now < 2 ^ 60 := by decide +kernel
theorem witness_host_bars :
    (hsSt hpUp rgOn []).barOpen 0 = true ∧ (hsSt hpUp rgOn []).ready = true ∧ (hsSt hpUp rgOn []).target ((hsSt hpUp rgOn []).bar2Addr 0 0x40) = .spm 0 0x40 ∧
    (hsSt hpUp rgOn []).spmCheckRun 0 0x40 16 4 false = none ∧ (hsSt hpUp rgOn []).routerDead 0 = false ∧
    (∀ j, j < 16 → judge ((hsSt hpUp rgOn []).wordAt 0 (0x40 + j)) ((hsSt hpUp rgOn []).chkAt 0 (0x40 + j)) = .good) ∧
    4 < bits ((hsSt hpUp rgOn [(State.pcieKey 0 PCIE_AP, 8 * 2 ^ 10)]).bar2Addr 0 0) 44 4 ∧ (hsSt hpUp rgOn [(ecKey BOOT_STAT, 0)]).ready = false ∧
    (hsSt hpUp rgOn []).outPort 0x40 = some 0 ∧ State.reset.outPort 0x40 = none := by decide +kernel
def brGa : Nat := 2 ^ 44 + 0x40
theorem witness_host_ways :
    (let s := hsSt hpUp rgOn [];
      s.bar2Addr 0 0x40 = brGa ∧ s.carryOut (portDie 0) (.host 0) brGa 16 false = (s, 0) ∧ s.carryOut (portDie 0) (.host 0) brGa 16 true = (s, 0) ∧
      ((s.meshRead 0 0x40 16).1.carryBack (portDie 0) (.host 0) brGa 16 false).2 = 0 ∧
      ((s.meshWrite 0 0x40 (List.replicate 16 7) [] none).1.carryBack (portDie 0) (.host 0) brGa 16 true).2 = 0) ∧
    (let s := (hsSt hpUp rgOn []).epWrite 0;
      s.carryOut (portDie 0) (.host 0) brGa 16 true = (s, 0) ∧
      ((s.meshWrite 0 0x40 (List.replicate 16 7) (List.range 3) none).1.carryBack (portDie 0) (.host 0) brGa 16 true).2 = 0) := by decide +kernel
def orSt (slot : Nat) : State :=
  { hsSt hpUp rgOn [] with outReads := [⟨3, .far 0 .head, 0x40, 4, [⟨3, 0, 0, 4, some 0, none⟩], none⟩], slot := slot }
theorem witness_outbound :
    ((hsSt hpUp rgOn []).outSplit false 0x40 4 = [(0, 0, 4)] ∧ (hsSt hpUp rgOn []).outSplit true 0x40 4 = [(0, 0, 4)] ∧ (hsSt hpUp rgOn []).tagsOut 0 < 1024 ∧
      (hsSt hpUp rgOn []).outReads = []) ∧
    ((orSt 0).outReads.find? (fun r => r.id == 3)).isSome = true ∧ (orSt 0).now < (orSt 0).fld (State.pcieKey 0 PCIE_CPL_TO) 0 16 * 1000000 ∧
    (orSt (2 ^ 40)).fld (State.pcieKey 0 PCIE_CPL_TO) 0 16 * 1000000 ≤ (orSt (2 ^ 40)).now := by decide +kernel
theorem witness_vectors :
    State.vecMasked hpUp 300 = true ∧ State.vecMasked { hpUp with msix := [(16 * 300 + 12, 0)] } 300 = false ∧ (hsSt hpUp rgOn []).fld (State.pcieKey 0 PCIE_EVQ_PI) 0 17 = 0 ∧
    (hsSt hpUp rgOn []).fld (State.pcieKey 0 PCIE_CTRL) 1 1 = 0 ∧ (hsSt hpUp rgOn [(State.pcieKey 0 PCIE_EVQ_PI, 5)]).fld (State.pcieKey 0 PCIE_EVQ_PI) 0 17 = 5 := by decide +kernel
/-- A ring entry: OPC, LEN, HOST, ENGINE, VALUE. -/
def ent (opc len host eng val : Nat) : List Byte :=
  toLe 1 opc ++ [0, 0xFF, 0xFF] ++ toLe 4 len ++ toLe 8 host ++ toLe 8 eng ++ toLe 8 val ++ List.replicate 32 0
def entSt (e : List Byte) (res : Option (Nat × Nat)) : State := hsSt hpUp { rgOn with cur := some e, res := res } []
def spmGa : Nat := 2 ^ 44 + 0x1000
/-- A DMA entry of ring 1 runs in its channel: the state as its access goes out. -/
def dmaSt (opc : Nat) : State := ({ entSt (ent opc 32 0x40 spmGa 0) none with fates := [] } : State).dmaTake 0 1
theorem witness_dma :
    (let s := entSt (ent 1 32 0x40 spmGa 0) none;
      s.dmaTurn 0 1 = true ∧ s.outPort 0x40 = some 0 ∧ s.outSplit false 0x40 32 = [(0, 0, 32)] ∧ s.outSplit true 0x40 32 = [(0, 0, 32)]) ∧
    (let s := dmaSt 1;
      s.carryOut (portDie 0) (.host 0) spmGa 32 true = (s, 0) ∧ s.target spmGa = .spm 0 0x1000 ∧ s.spmCheckRun 0 0x1000 32 4 false = none ∧
      ((s.meshWrite 0 0x1000 (s.bytes (State.hostKey 0x40) 32) [] none).1.carryBack (portDie 0) (.host 0) spmGa 32 true).2 = 0) ∧
    (let s := dmaSt 2;
      s.carryOut (portDie 0) (.host 0) spmGa 32 false = (s, 0) ∧ s.target spmGa = .spm 0 0x1000 ∧ s.spmCheckRun 0 0x1000 32 4 false = none ∧
      (∀ j, j < 32 → judge (s.wordAt 0 (0x1000 + j)) (s.chkAt 0 (0x1000 + j)) = .good) ∧
      ((s.meshRead 0 0x1000 32).1.carryBack (portDie 0) (.host 0) spmGa 32 false).2 = 0) ∧
    (let s := { entSt (ent 1 32 0x40 spmGa 0) none with rings := [(1, { rgOn with cur := some (ent 1 32 0x40 spmGa 0) }), (2, { rgOn with cur := some (ent 1 32 0x40 spmGa 0), dma := true })] };
      s.entryRuns 0 1 1 = some (ent 1 32 0x40 spmGa 0) ∧ s.dmaTurn 0 1 = false) := by decide +kernel
/-- Port 0 checks the ECRC of what it receives. -/
def ecSt : State := hsSt { hpUp with ecrc := 2 } rgOn []
theorem witness_ecrc : ecSt.barOpen 0 = true ∧ ecSt.fates = [] ∧ ecSt.ecrcBad 0 false = true ∧ (hsSt hpUp rgOn []).fates = [] := by decide +kernel
/-- The signal of the ring entry below. -/
def rsPk : Pkt := { Pkt.blank 5 (.host 0) (.agent (portDie 0)) with x := 0, y := 0, ctr := 3, epoch := 0, inc := 1 }
def jcGa : Nat := 4 * 2 ^ 44 + BOOT_JOB_CMD
def lcGa : Nat := 4 * 2 ^ 44 + BOOT_LOAD_CMD
theorem witness_ring_ways :
    (let s := entSt (ent 4 0 0 0 (2 ^ 8 + 3)) none;
      bits (rfield (ent 4 0 0 0 (2 ^ 8 + 3)) 0x18 4) 0 6 = 3 ∧ bits (rfield (ent 4 0 0 0 (2 ^ 8 + 3)) 0x18 4) 8 8 = 1 ∧ s.physicalOf 0 0 = some 0 ∧
      (s.carry (portDie 0) rsPk (.cell 0 0)).2 = 0 ∧ (s.carry (portDie 0) rsPk (.cell 0 0)).1.isHole 0 = false) ∧
    (let s := entSt (ent 5 32 0x40 spmGa 0) none;
      s.load = none ∧ (s.ring 0 1).loading = false ∧ (s.carryOut (portDie 0) (.host 0) lcGa 4 true).2 = 0 ∧
      ((s.setRing 0 1 { s.ring 0 1 with loading := true }).loadStart.carryBack (portDie 0) (.host 0) lcGa 4 true).2 = 0) ∧
    (let s := { entSt (ent 6 0 0 0 (5 + 2 ^ 16)) none with jobs := [{ jobA 2 with starts := [] }] };
      (s.carryOut (portDie 0) (.host 0) jcGa 4 true).2 = 0 ∧
      ((s.jobCmd (rfield (ent 6 0 0 0 (5 + 2 ^ 16)) 0x18 4)).carryBack (portDie 0) (.host 0) jcGa 4 true).2 = 0) := by decide +kernel
def seGa : Nat := 2 * 2 ^ 44 + MXE_SR_SEED
theorem witness_ring_entries :
    (∀ opc ∈ [0, 1, 2, 3, 4, 5, 6], (entSt (ent opc 32 0x40 spmGa 0) none).entryRuns 0 1 opc = some (ent opc 32 0x40 spmGa 0)) ∧
    (entSt (ent 1 32 0x40 spmGa 0) none).target (rfield (ent 1 32 0x40 spmGa 0) 0x10 8) = .spm 0 0x1000 ∧ (entSt (ent 1 32 0x40 spmGa 0) none).spmCheckRun 0 0x1000 32 4 false = none ∧
    entryBad (ent 1 32 0x40 spmGa 0) = false ∧ entryBad (ent 7 0 0 0 0) = true ∧ (hsSt hpUp rgOn []).portOpen 0 = true ∧
    (let s := entSt (ent 3 0 0 seGa 9) none; State.ctlKey (s.target seGa) = some (cellKey 0 MXE_SR_SEED) ∧
      s.carryOut (portDie 0) (.host 0) seGa 4 true = (s, 0) ∧ (s.ctlWrite (.host 0) (cellKey 0 MXE_SR_SEED) false 9 seGa).2 = true ∧
      ((s.ctlWrite (.host 0) (cellKey 0 MXE_SR_SEED) false 9 seGa).1.carryBack (portDie 0) (.host 0) seGa 4 true).2 = 0) ∧
    ((entSt (ent 4 0 0 0 (2 ^ 8 + 3)) none).physicalOf 0 0).isSome = true ∧
    (let s := { entSt (ent 6 0 0 0 (5 + 2 ^ 16)) none with jobs := [{ jobA 2 with starts := [] }] };
      (s.job? (bits (rfield (ent 6 0 0 0 (5 + 2 ^ 16)) 0x18 4) 0 16)).isSome = true ∧ bits (rfield (ent 6 0 0 0 (5 + 2 ^ 16)) 0x18 4) 16 2 = 1) := by decide +kernel

/-! ### Power delivery -/

/-- Die 0's region 9 (rx 1, ry 1) as given, its LDO slices in service but for `bad` on the compute rail. -/
def pwSt (x : Region) (bad : Nat) (regs : List (Nat × Nat)) : State :=
  { withRegs { State.reset with regions := [(9, x)] }
      ([(ecKey BOOT_CANVAS, 46 + 48 * 256 + 2 ^ 22), (ecKey BOOT_DIE_STATE, 1), (ldoKey 9 0, 30 + (0xF - bad) * 2 ^ 12), (ldoKey 9 1, 30 + 0xF * 2 ^ 12),
        (dieKey 0 PWR_IN, 5400), (dieKey 0 PWR_DIE_I, 2160 * 2 ^ 16)] ++ regs) with slot := 2 ^ 40 }
theorem witness_supply :
    4800 ≤ (pwSt rg 0 []).vin ∧ (pwSt rg 0 []).vin ≤ 5800 ∧ State.reset.boot.modRst = false ∧
    (pwSt rg 0 []).fld (dieKey 0 PWR_BLADE) 20 2 = 0 ∧ (pwSt rg 0 [(dieKey 0 PWR_BLADE, 2 ^ 21)]).fld (dieKey 0 PWR_BLADE) 21 1 = 1 ∧
    (pwSt rg 0 [(dieKey 0 PWR_BLADE, 2 ^ 21)]).fld (dieKey 0 PWR_BLADE) 20 2 ≠ 0 := by decide +kernel
theorem witness_converters :
    (let s := pwSt rg 0 [(dieKey 1 PWR_CONV, 1 + 4 + 0xF * 8), (dieKey 0 PWR_CONV, 1 + 4 + 0xF * 8)];
      s.fld (dieKey 1 PWR_CONV) 1 1 = 0 ∧ s.fld (dieKey 1 PWR_CONV) 0 1 = 1 ∧ s.fld (dieKey 1 PWR_CONV) 2 1 = 1 ∧ s.fld (dieKey 1 PWR_CONV) 3 4 = 0xF ∧ 1 < s.part.dies ∧
      s.fld (dieKey 0 PWR_CONV) 2 1 = 1 ∧ s.fld (dieKey 0 PWR_CONV) 3 4 = 0xF) ∧
    (let s := pwSt rg 0 [(dieKey 1 PWR_CONV, 1)]; s.fld (dieKey 1 PWR_CONV) 2 1 = 0 ∧ s.fld (dieKey 1 PWR_CONV) 0 1 = 1) ∧
    (let s := pwSt rg 0 [(dieKey 0 PWR_PHASE, 2 ^ 28 - 1)]; s.fld (dieKey 0 PWR_PHASE) 5 1 = 1 ∧ 27 + 1 = onesBelow (s.fld (dieKey 0 PWR_PHASE) 0 28) 28) := by decide +kernel
theorem witness_slices :
    (pwSt rg 0 []).failedSlices 9 0 = 0 ∧ (pwSt rg 2 []).failedSlices 9 0 = 1 ∧ (pwSt rg 6 []).failedSlices 9 0 = 2 ∧ (pwSt rg 6 []).fld (ldoKey 9 0) 12 1 = 1 ∧
    (pwSt rg 0 []).failedSlices 9 1 = 0 ∧ regionAt 0 1 1 = 9 ∧ (gdSt [] []).devState 0 0 = 4 ∧ ((hsSt hpUp Ring.reset []).hport 0).up = true := by decide +kernel
def rSt (st : Nat) : State := pwSt { Region.reset with st := st } 0 []
theorem witness_region_commands :
    ((rSt 1).region 9).st = 1 ∧ (rSt 1).regionReason 9 1 = 0 ∧ (rSt 3).regionReason 9 2 = 0 ∧ (rSt 3).regionReason 9 3 = 0 ∧ (rSt 1).regionReason 9 3 = 0 ∧
    (rSt 0).regionReason 9 4 = 0 ∧ (rSt 5).regionReason 9 1 = 1 ∧ (rSt 5).regionReason 9 4 = 1 ∧ (rSt 0).regionReason 9 1 = 4 := by decide +kernel
theorem witness_region_refused :
    (let s := { pwSt rg 0 [] with jobs := [jobA 3], panels := [{ panA with w := 20, h := 20 }] }; s.regionReason 9 2 = 2 ∧ s.regionReason 9 3 = 2) := by decide +kernel
/-- Converter and input facts of an engine that is on. -/
theorem witness_supply_on : (pwSt rg 0 []).boot.off = false ∧ (pwSt rg 0 []).inPhase 3 = false ∧ State.reset.vin = 0 ∧ (∀ e, ((pwSt rg 0 []).die e).convFail = false) ∧
    ({ State.reset with boot := { State.reset.boot with off := true } } : State).boot.off = true ∧
    (pwSt rg 0 [(dieKey 1 PWR_CONV, 2)]).fld (dieKey 1 PWR_CONV) 0 2 = 2 := by
  refine ⟨by decide +kernel, by decide +kernel, by decide +kernel, fun _ => rfl, rfl, by decide +kernel⟩
/-- Two dies whose converters failed in one slot. -/
def twoConv : State :=
  { pwSt rg 0 [(dieKey 0 PWR_CONV, 0x7D), (dieKey 1 PWR_CONV, 0x7D)] with dies := [(0, { State.reset.die 0 with convFail := true }), (1, { State.reset.die 1 with convFail := true })] }
theorem witness_two_converters : (∀ q, (twoConv.die q).convFail = true ↔ q = 0 ∨ q = 1) ∧ twoConv.fld (dieKey 0 PWR_CONV) 0 7 = 0x7D ∧ twoConv.fld (dieKey 1 PWR_CONV) 0 7 = 0x7D := by
  refine ⟨fun q => ?_, by decide +kernel, by decide +kernel⟩
  have h : twoConv.dies = [(0, { State.reset.die 0 with convFail := true }), (1, { State.reset.die 1 with convFail := true })] := rfl
  match q with
  | 0 => exact ⟨fun _ => .inl rfl, fun _ => by decide +kernel⟩
  | 1 => exact ⟨fun _ => .inr rfl, fun _ => by decide +kernel⟩
  | n + 2 => simp [State.die, h, SMap.get]; rfl
def ton : TurnOn := { stage := 1, sub := 0, due := 0, arrival := 0, quarter := false, onlyC := true, cFrom := 0, cLast := 0, waited := true, forLoad := false, router := false }
def toSt (o : TurnOn) (regs : List (Nat × Nat)) : State := pwSt { Region.reset with st := 2, on := some o } 0 regs
theorem witness_turn_on :
    (toSt ton []).byArrival 0 = [9] ∧ ton.full = false ∧ ((toSt ton []).die 0).admitAt ≠ (toSt ton []).now / 2000 + 1 ∧
    ((toSt ton []).die 0).est + 12000 ≤ (toSt ton []).fld (dieKey 0 PWR_DIE_I) 16 12 * 1000 ∧ 12 ≤ (toSt ton []).fld (dieKey 0 PWR_STAGE_CFG) 0 8 ∧
    (toSt ton []).peakNear 9 = false ∧ (toSt ton [(dieKey 0 PWR_DIE_I, 0)]).fld (dieKey 0 PWR_DIE_I) 16 12 * 1000 < 12000 ∧
    (toSt ton []).fld (dieKey 0 PWR_STAGE_CFG) 16 8 * 100000 ≤ (toSt ton []).now ∧ (toSt { ton with onlyC := false } []).fld (dieKey 0 PWR_STAGE_CFG) 24 8 * 1000000 ≤ (toSt ton []).now ∧
    (toSt ton []).boot.off = false ∧ (toSt ton []).inPhase 3 = false ∧ (toSt ton []).fld (ecKey BOOT_STAT) 0 4 ≠ 3 ∧ (toSt ton []).written (dieKey 0 PWR_STAGE_STAT) = false ∧
    (∀ i, i < 64 → ((toSt ton []).region (0 * 64 + i)).off = .idle) ∧ (toSt ton []).load = none ∧ { ton with stage := 4 }.full = true := by decide +kernel
/-- A turn-on in an admission interval in which a neighbour is near its peak. -/
def pkSt (o : TurnOn) : State := { toSt o [] with regions := [(9, { Region.reset with st := 2, on := some o }), (10, { Region.reset with st := 3, ic := 40000 })] }
def pkOn : TurnOn := { ton with cLast := (toSt ton []).interval }
theorem witness_neighbour_peak :
    (pkSt pkOn).peakNear 9 = true ∧ (pkSt pkOn).byArrival 0 = [9] ∧ 0 < (pkSt pkOn).interval ∧ pkOn.cLast = (pkSt pkOn).interval ∧ pkOn.waited = true ∧
    (pkSt pkOn).interval ≤ pkOn.cLast ∧ pkOn.cFrom + (pkSt pkOn).stageCfg 0 16 8 * 100000 ≤ (pkSt pkOn).now ∧
    ({ pkOn with due := 2 ^ 60 } : TurnOn).full = false ∧ (pkSt pkOn).now ≤ 2 ^ 60 + 2000 ∧ (0 : Nat) + 2000 ≤ (pkSt pkOn).now := by decide +kernel
/-- A region whose switch-off waits for the next admission interval. -/
def offSt : State := { rSt 2 with regions := [(9, { Region.reset with st := 2, off := .next false 0 })] }
theorem witness_deferred_off :
    (offSt.region (0 * 64 + 9)).off = .next false 0 ∧ offSt.interval ≠ 0 ∧ (offSt.die 0).admitAt ≠ offSt.interval + 1 ∧ offSt.boot.off = false ∧ offSt.inPhase 3 = false ∧
    ∀ q, q ≠ 0 * 64 + 9 → (offSt.region q).off = .idle ∧ (offSt.region q).on = none := by
  refine ⟨by decide +kernel, by decide +kernel, by decide +kernel, by decide +kernel, by decide +kernel, fun q hq => ?_⟩
  have h : ¬ 9 = q := by omega
  simp [offSt, State.region, SMap.get, h, Region.reset]
theorem witness_off_detours :
    ({ rSt 3 with regions := onRegs } : State).detourRing 9 ≠ [] ∧ ({ rSt 3 with regions := onRegs } : State).regionReason 9 3 = 0 ∧ (rSt 3).detourRing 9 = [] ∧
    (toSt ton []).regionReason 9 2 = 0 ∧ (toSt ton []).regionReason 9 3 = 0 ∧ ((toSt ton []).region 9).off = .idle := by decide +kernel
theorem witness_supply_lost :
    (let s := pwSt rg 0 [(dieKey 1 PWR_CONV, 1), (ecKey BOOT_STAT, 16)]; s.fld (ecKey BOOT_STAT) 4 1 = 1 ∧ s.fld (dieKey 1 PWR_CONV) 0 2 = 1 ∧ s.fld (dieKey 1 PWR_CONV) 2 1 = 0 ∧ s.boot.off = false) ∧
    (let s := pwSt rg 0 [(dieKey 1 PWR_CONV, 2)]; s.fld (ecKey BOOT_STAT) 4 1 = 0 ∧ 2 ≤ s.fld (dieKey 1 PWR_CONV) 0 2 ∧ s.boot.off = false) ∧
    ((gdSt [] []).boot.off = false ∧ (hsSt hpUp Ring.reset []).boot.off = false ∧ (hsSt hpUp Ring.reset []).part.ports.contains 0 = true ∧ portDie 0 = 0) ∧
    State.reset.boot.off = false ∧ (State.reset.boot.modRst = false) := by decide +kernel

/-! ### Power control and the rack bus -/

/-- Rack mode with estimate `p` W, set point `sp` W, and the ballast and throttle given; time is known. -/
def bnd (p sp thr : Nat) (nbal : List Nat) : Band :=
  { Band.reset with mode := 1, p := p, s := uW sp, t := 9000, b := 10000, throttle := thr, nbal := nbal, keys := [some [1, 2, 3], none], heard := 0 }
def bdSt (b : Band) (slot : Nat) (regs : List (Nat × Nat)) : State :=
  { withRegs { State.reset with band := b, regions := [(0, rg)], time := { Time.reset with state := 2, known := true } }
      (cvRegs ++ [(ecKey BAND_BUS_CFG, 32 + 3), (ecKey RAMP_CEIL, 15000), (ecKey BAND_CTRL, 1 + 10 * 2 + 2 * 2 ^ 16)] ++ regs) with slot := slot }
theorem witness_band_step :
    (let s := bdSt (bnd 9000 8000 0 [5, 4, 3]) 1 []; min (s.band.s * (200 + s.tol) / 200) (uW s.ceil) < uW s.band.p ∧ s.balStep = 2 ∧ s.tol = 10 ∧
      (∀ c ∈ s.band.nbal, s.eligible c = true)) ∧
    (let s := bdSt { bnd 9000 8000 0 [] with pAcc := 9000, pN := 1 } 1 []; 0 < s.band.pN ∧ 0 < s.band.pAcc / s.band.pN) ∧
    (let s := bdSt (bnd 8100 8000 0 [5, 4, 3]) 1 []; uW s.band.p ≤ min (s.band.s * (200 + s.tol) / 200) (uW s.ceil) ∧ s.band.s < uW s.band.p) ∧
    (let s := bdSt (bnd 5000 8000 3 []) 1 []; uW s.band.p ≤ uW s.ceil ∧ uW s.band.p < s.band.s * (400 - s.tol) / 400) := by decide +kernel
/-- 100 ms intervals of which none has been judged, with input readings of `w` W; the mean of S is 8000 W. -/
def ivSt (w : Nat) (nbal : List Nat) (thr : Nat) (regs : List (Nat × Nat)) : State :=
  bdSt { bnd 1 8000 thr nbal with
    trimCnt := 2, trimSum := 2 * w, judgeCnt := 2, judgeSum := 2 * w, trimIv := 7, judgeIv := 7, pN := 1, pAcc := 8000, samples := [(1, w)] } 1 regs
theorem witness_band_interval :
    (let s := ivSt 8000 [] 0 [];
      s.meanS = uW 8000 ∧ s.band.oobLogged = false ∧ s.written (ecKey BAND_OOB) = false ∧ s.band.trimIv ≠ s.interval100 ∧ s.band.judgeIv ≠ s.interval100 ∧
      0 < s.band.trimCnt ∧ s.band.trimSum / s.band.trimCnt = 8000 ∧ 0 < s.band.pAcc / s.band.pN ∧ 0 < s.band.judgeCnt ∧ s.band.judgeSum / s.band.judgeCnt = 8000 ∧
      s.band.exc = false ∧ s.meanS * (200 - s.tol) / 200 ≤ uW 8000 ∧ uW 8000 ≤ s.meanS * (200 + s.tol) / 200 ∧ s.fld (ecKey BAND_TRIM) 0 16 = 32768) ∧
    (let s := ivSt 4000 [] 0 [(ecKey BOOT_CANVAS, 0)]; s.canvasValid = false ∧ s.band.nbal = [] ∧ uW 4000 < s.meanS * (200 - s.tol) / 200 ∧ s.band.exc = false) ∧
    (let s := ivSt 12000 [] 8 []; s.meanS * (200 + s.tol) / 200 < uW 12000 ∧ s.band.throttle = 8 ∧ s.band.exc = false) ∧
    (bdSt { bnd 1 8000 0 [] with exc := true, judgeIv := 7, judgeCnt := 1 } 1 []).band.exc = true ∧
    (let s := bdSt (bnd 1 8000 0 []) (2 ^ 40) []; ({ s with band := { s.band with trimIv := s.interval100, judgeIv := s.interval100 } } : State).band.trimIv = s.interval100) := by decide +kernel
/-- Average mode with one reading of `w` W in the window and a limit of 8000 W. -/
def avSt (w : Nat) : State :=
  bdSt { bnd 1 8000 0 [] with mode := 0, samples := [(1, w)], avgIv := 7, modeIv := 7 } 1 [(ecKey BAND_AVG, 8000 + 10 * 2 ^ 24), (ecKey BAND_CTRL, 0)]
theorem witness_average :
    (∀ w ∈ [7000, 9000], ((avSt w).band.samples.filter fun e => decide ((avSt w).now < e.1 + (avSt w).fld (ecKey BAND_AVG) 24 6 * 1000000000)) = [(1, w)]) ∧
    (avSt 7000).band.avgIv ≠ (avSt 7000).now / 10000000 + 1 ∧ (avSt 7000).band.mode = 0 ∧ (avSt 7000).fld (ecKey BAND_AVG) 0 24 = 8000 := by decide +kernel
theorem witness_mode :
    (let s := bdSt { bnd 1 8000 0 [] with mode := 0, modeIv := 7 } 1 []; s.band.modeIv ≠ s.interval100 ∧ s.fld (ecKey BAND_CTRL) 0 1 = 1 ∧ s.band.mode ≠ 1) ∧
    (let s := bdSt { bnd 1 8000 0 [3] with modeIv := 7 } 1 [(ecKey BAND_CTRL, 0)]; s.band.modeIv ≠ s.interval100 ∧ s.fld (ecKey BAND_CTRL) 0 1 = 0 ∧ s.band.mode ≠ 0) := by decide +kernel
theorem withRegs_written (l : List (Nat × Nat)) (s : State) (k : Nat) : (withRegs s l).written k = s.written k := by
  induction l generalizing s with
  | nil => rfl
  | cons e l ih => exact ih _
/-- Nothing has been written in these states. -/
theorem bd_written (b : Band) (slot : Nat) (regs : List (Nat × Nat)) (c : Nat) : (bdSt b slot regs).written (cellKey c MXE_BAL_CTRL) = false :=
  (withRegs_written _ _ _).trans rfl
theorem witness_no_ballast (s : State) (h : s.canvasValid = false) (hn : s.band.nbal = []) : s.band.nbal.length = s.eligibleCells.length := by
  have e : ∀ c, s.eligible c = false := fun c => by simp [State.eligible, State.logicalOf, h]
  have f : s.eligible = fun _ => false := funext e
  rw [hn, State.eligibleCells, f, List.filter_eq_nil_iff.mpr fun _ _ => Bool.false_ne_true]
/-! Lengths of the hash functions' results: the rack keys' bytes are constants of the site, so a frame's MAC is known by its length only. -/

theorem shaRound_length (q : ShaKind) (h : List Nat) (kw : Nat × Nat) (e : h.length = 8) : (shaRound q h kw).length = 8 := by
  unfold shaRound
  split
  · rfl
  · exact e
theorem shaRounds_length (q : ShaKind) (l : List (Nat × Nat)) (h : List Nat) (e : h.length = 8) : (l.foldl (shaRound q) h).length = 8 := by
  induction l generalizing h with
  | nil => exact e
  | cons x l ih => exact ih _ (shaRound_length q h x e)
theorem shaBlock_length (q : ShaKind) (h : List Nat) (b : List Byte) (e : h.length = 8) : (shaBlock q h b).length = 8 := by
  simp [shaBlock, shaRounds_length q _ h e, e]
theorem shaBlocks_length (q : ShaKind) (n : Nat) (h : List Nat) (m : List Byte) (e : h.length = 8) : (shaBlocks q n h m).length = 8 := by
  induction n generalizing h m with
  | zero => exact e
  | succ n ih => exact ih _ _ (shaBlock_length q h _ e)
theorem toBe_length4 (x : Nat) : (toBe 4 x).length = 4 := by simp [toBe, toLe]
theorem flat_length (l : List Nat) : (l.flatMap (toBe 4)).length = 4 * l.length := by
  induction l with
  | nil => rfl
  | cons x l ih => simp only [List.flatMap_cons, List.length_append, List.length_cons, toBe_length4, ih]; omega
theorem sha256_length (m : List Byte) : (sha256 m).length = 32 := by
  have h := flat_length (shaBlocks sha256Kind ((shaPad sha256Kind m).length / (2 * sha256Kind.w)) sha256H (shaPad sha256Kind m))
  rw [shaBlocks_length _ _ _ _ rfl] at h
  exact h
theorem rackMac_length (s : State) (k id : Nat) (b : List Byte) : (s.rackMac k id b).length = 8 := by
  simp [State.rackMac, hmac256, sha256_length]

/-- A frame's bytes 0-23: its first bytes, KSEL 0 and time stamp 5; then its MAC. -/
def rf24 (body : List Byte) : List Byte := body ++ List.replicate (16 - body.length) 0 ++ toLe 8 5
def rf (s : State) (ft : Nat) (body : List Byte) : RackFrame :=
  let n := if ft ≤ 2 then 0 else 3
  { extended := false, ftype := ft, node := n, fdBrs := true, ownEcho := false, data := rf24 body ++ s.rackMac 0 (ft * 32 + n) (rf24 body) }
/-- The checks of a frame of 32 bytes whose MAC is right. -/
def checkRest (s : State) (f : RackFrame) : State.FrameRes :=
  if f.extended || !s.busOn then .drop
  else if ! [1, 2, 3, 4, 5, 8, 9, 10].contains f.ftype then .ignored
  else if 3 ≤ f.ftype ∧ f.ftype ≤ 5 ∧ f.node ≠ s.node then .ignored
  else if f.ftype ≤ 2 ∧ f.node ≠ 0 then .ignored
  else if 8 ≤ f.ftype then (if f.node = s.node ∧ ¬ f.ownEcho then .conflict else .drop)
  else if !f.fdBrs || 2 ≤ State.fdata f 15 1 || State.fdata f (State.reservedFrom f.ftype) (15 - State.reservedFrom f.ftype) != 0 then .malformed
  else if !s.keyIn (State.fdata f 15 1) then .auth
  else if s.stale f then .stale
  else .ok
theorem frameCheck_rf (s : State) (ft : Nat) (body : List Byte) (h : (rf24 body).length = 24) (k : State.fdata (rf s ft body) 15 1 = 0) :
    s.frameCheck (rf s ft body) = checkRest s (rf s ft body) := by
  have hl : (rf s ft body).data.length = 32 := by simp [rf, h, rackMac_length]
  have hm : s.macOk (rf s ft body) = true := by
    simp only [State.macOk, k, decide_eq_true_eq]
    simp [rf, h]
  simp only [State.frameCheck, checkRest, hl, hm]
  simp
def bd0 : State := bdSt (bnd 1 8000 0 []) 1 []
theorem witness_rack_ok : ∀ ft ∈ [1, 2, 3, 4, 5], bd0.frameCheck (rf bd0 ft [1]) = .ok := by
  intro ft h
  rw [frameCheck_rf bd0 ft [1] rfl (by rfl)]
  revert ft
  decide +kernel
theorem witness_rack_stale (s : State) (h : s = bdSt { bnd 1 8000 0 [] with lastTs := 9 } 1 []) : s.frameCheck (rf s 1 [1]) = .stale := by
  subst h
  rw [frameCheck_rf _ 1 [1] rfl (by rfl)]
  decide +kernel
/-- A frame signed with a key that is not installed. -/
def rfB : RackFrame := { rf bd0 1 [1] with data := [1] ++ List.replicate 14 0 ++ [1] ++ List.replicate 16 0 }
theorem witness_rack_auth : bd0.frameCheck rfB = .auth := by
  have k : bd0.keyIn (State.fdata rfB 15 1) = false := by decide +kernel
  have h : (if !rfB.fdBrs || rfB.data.length != 32 || decide (2 ≤ State.fdata rfB 15 1) || State.fdata rfB (State.reservedFrom rfB.ftype) (15 - State.reservedFrom rfB.ftype) != 0
    then State.FrameRes.malformed else .auth) = .auth := by decide +kernel
  have g : (rfB.extended || !bd0.busOn) = false ∧ (! [1, 2, 3, 4, 5, 8, 9, 10].contains rfB.ftype) = false ∧ ¬ (3 ≤ rfB.ftype ∧ rfB.ftype ≤ 5 ∧ rfB.node ≠ bd0.node) ∧
      ¬ (rfB.ftype ≤ 2 ∧ rfB.node ≠ 0) ∧ ¬ 8 ≤ rfB.ftype := by decide +kernel
  simp only [State.frameCheck, g, k, Bool.false_eq_true, if_false, Bool.not_false, Bool.or_true, if_true]
  exact h
theorem witness_rack_frames :
    bd0.frameCheck { rf bd0 1 [1] with ftype := 30 } = .ignored ∧ bd0.frameCheck { rf bd0 1 [1] with data := [] } = .malformed ∧
    bd0.grantBad (State.windowOf (rf bd0 2 (toLe 8 100 ++ toLe 4 50))) = false ∧ bd0.grantBad (State.windowOf (rf bd0 2 [])) = true ∧
    bd0.err.rates = [] ∧ bd0.written (ecKey BAND_BUS_CNT) = false ∧ bd0.band.stopped = false ∧ bd0.band.mode = 1 ∧ bd0.band.windows = [] := by decide +kernel
theorem witness_rack_grant : bd0.frameCheck (rf bd0 2 (toLe 8 100 ++ toLe 4 50)) = .ok := by
  rw [frameCheck_rf bd0 2 _ rfl (by rfl)]
  decide +kernel
theorem witness_ramp :
    (bdSt { bnd 1 8000 0 [] with windows := [⟨0, 50, 1⟩] } 1 []).inWindow = true ∧ (bdSt (bnd 1 8000 0 []) 1 []).inWindow = false ∧
    (bdSt (bnd 1 8000 0 []) 1 []).band.lastTick ≠ (bdSt (bnd 1 8000 0 []) 1 []).ftick + 1 ∧
    (bdSt (bnd 1 8000 0 []) (2 ^ 40) []).band.heard + 2000000000 ≤ (bdSt (bnd 1 8000 0 []) (2 ^ 40) []).now ∧
    (bdSt (bnd 1 8000 0 []) 1 []).busOn = true ∧ (bdSt (bnd 1 8000 0 []) 1 []).keyIn 0 = true ∧
    (bdSt (bnd 1 8000 0 []) 1 [(ecKey BAND_BUS_CFG, 32)]).ftick = 0 ∧ (bdSt (bnd 1 8000 0 []) 1 []).fld (ecKey BAND_CTRL) 0 1 = 1 := by decide +kernel
theorem witness_status :
    (let s := bdSt { bnd 1 8000 0 [] with statusQ := some (List.replicate 15 7) } 1 [];
      s.band.statusQ = some (List.replicate 15 7) ∧ s.busOn = true ∧ s.keyIn 0 = true) ∧
    (let s := bdSt (bnd 1 8000 0 []) 1 [(ecKey BAND_BUS_CFG, 32)]; (s.ftick + 100000 - 3000 * s.node % 100000) % 100000 = 0) ∧
    (bd0.ftick + 100000 - 3000 * bd0.node % 100000) % 100000 ≠ 0 ∧ bd0.band.statusQ = none := by decide +kernel

/-! ### Heat, coolant, stops and the module pins -/

/-- Die 0's region 9 holds `x` and reads `T` °C; TH_CAP 95, TH_STOP 105. -/
def htSt (x : Region) (T : Nat) (regs : List (Nat × Nat)) : State := pwSt x 0 ([(regionKey TEMP_R 9, T + 16 * 2 ^ 16), (dieKey 0 TEMP_CFG, 95 + 105 * 2 ^ 8)] ++ regs)
def hotJob : State := { htSt rg 40 [] with jobs := [jobA 3], panels := [{ panA with w := 20, h := 20 }] }
/-- A ready engine with COOLANT_OK as given, region 9 at TH_STOP since time 0. -/
def stSt (ok : Bool) (since : Nat) : State :=
  { htSt { rg with stopSince := some 0 } 110 [(ecKey BOOT_STAT, 16)] with band := { Band.reset with coolantOk := ok, coolantSince := since } }
def stopped (seen : List Nat) (ok : Bool) (since : Nat) : State :=
  { stSt ok since with band := { Band.reset with stopped := true, stopCause := 1, stopSeen := seen, coolantOk := ok, coolantSince := since } }
theorem witness_heat :
    (htSt rg 40 []).sensorBad 9 = false ∧ ((40 : Int) < (htSt rg 40 []).thCap 0 - 8) ∧ hotJob.regionLoaded 9 = true ∧ hotJob.thCap 0 ≤ 97 ∧ hotJob.sensorBad 9 = false ∧
    (htSt rg 40 []).regionLoaded 9 = false ∧ ((htSt rg 40 []).region 9).off = .idle ∧ (htSt { Region.reset with st := 2 } 40 []).regionLoaded 9 = false ∧ 2 ≤ ((htSt rg 40 []).region 9).st ∧ ((htSt rg 40 []).region 9).st ≤ 4 ∧
    (let s := htSt rg 40 [(regionKey TEMP_R 9, 2 ^ 23 + 11 * 2 ^ 16), (regionKey TEMP_R 10, 50)]; s.sensorBad 9 = true ∧ s.highest (State.neighbours 9) = some 50 ∧ ((50 + 5 : Int) < s.thCap 0)) := by
  decide +kernel
def heatBack (v : Nat) : State := htSt { Region.reset with st := 1, heatBelow := some v } 40 [(regionKey TEMP_R 9, 2 ^ 21)]
theorem witness_heat_switch_on :
    (heatBack 0).fld (regionKey TEMP_R 9) 21 1 = 1 ∧ ((heatBack 0).region 9).st = 1 ∧ ((heatBack 0).region 9).off = .idle ∧ 0 + 1000000000 ≤ (heatBack 0).now ∧ (heatBack (2 ^ 60)).now < 2 ^ 60 + 1000000000 := by decide +kernel
theorem witness_stops :
    ((stSt true 0).region 9).stopSince = some 0 ∧ (stSt true 0).stoppable = true ∧ 0 + 10000000 ≤ (stSt true 0).now ∧ (stSt false 0).stoppable = true ∧
    (stopped [1] true 0).band.stopped = true ∧ (stopped [1] true 0).boot.off = false ∧ (stopped [1] true 0).boot.modRst = false ∧ (stopped [1] true 0).band.stopSeen.contains 2 = false ∧
    (let s := { stSt true 0 with band := { (stSt true 0).band with stopDue := some (5, 2) } }; s.band.stopDue = some (5, 2) ∧ s.ftick ≠ 5 ∧ s.stoppable = true) ∧
    (let s := { stopped [1] true 0 with band := { (stopped [1] true 0).band with stopDue := some (5, 2) } }; s.ftick ≠ 5 ∧ s.stoppable = false) ∧
    (let s := { stSt true 0 with band := { (stSt true 0).band with stopDue := some ((stSt true 0).ftick, 1) } }; s.band.stopDue = some (s.ftick, 1)) ∧
    State.reset.pending = [] ∧
    (stopped [1, 2] true 0).band.stopSeen.contains 2 = true ∧ State.reset.now < 0 + 10000000 := by decide +kernel
theorem witness_restart :
    (let s := { stopped [1] true 0 with regs := [], part := .dz2200 }; s.band.coolantSince + 10000000000 ≤ s.now ∧ s.allCool = true) ∧
    (stopped [1] true 0).allCool = false ∧ (stopped [1] false 0).band.coolantOk = false := by decide +kernel
def coldHold (slot : Nat) : State :=
  { withRegs State.reset [(ecKey BOOT_STAT, 2)] with slot := slot, boot := { Boot.reset with cfgDone := true } }
theorem witness_pins :
    (coldHold (2 ^ 41)).inPhase 2 = true ∧ (coldHold (2 ^ 41)).boot.kind = 1 ∧ (coldHold (2 ^ 41)).coolantSteady = false ∧
    (coldHold (2 ^ 41)).boot.startAt + 600000000000 ≤ (coldHold (2 ^ 41)).now ∧ (coldHold 5).now < (coldHold 5).boot.startAt + 600000000000 ∧
    State.reset.boot.modRst = false ∧ State.reset.boot.lost = false ∧ State.reset.err.staged = [] ∧ 3 < State.reset.tap.length := by decide +kernel
/-- No ballast bit of these states has been written in the present slot. -/
theorem hot_written (c : Nat) : hotJob.written (cellKey c MXE_BAL_CTRL) = false := (withRegs_written _ _ _).trans rfl
theorem heat_written (c : Nat) : (htSt rg 40 []).written (cellKey c MXE_BAL_CTRL) = false := (withRegs_written _ _ _).trans rfl

/-! ### Errors, the black box and self-tests -/

def rec0 (cls sev : Nat) : Rec :=
  { cls := cls, sev := sev, loc := .module 0, xy := none, halt := false, job := 0xFFFF, step := 0, time := 0, rseq := 0, hjob := 0xFFFF, supp := 0, bootseq := 0, sn := 1, slot := 0, detail := 0, struck := none }
/-- A ready engine with one record on its way. -/
def erSt (sev : Nat) (up : Bool) (unsent : List Rec) : State :=
  { withRegs State.reset (cvRegs ++ [(ecKey BOOT_STAT, 16)]) with
    err := { Err.reset with recQ := [rec0 0x21 sev], mgmtUp := up, unsent := unsent, collectors := 2, ages := unsent.map fun _ => 0 }, flash := { Flash.reset with cfgOk := true }, slot := 2 ^ 40 }
def jent : JEntry := { jseq := 0, kind := 1, body := (rec0 0x78 2).bytes, okA := true, okB := true, raw := none }
theorem witness_records :
    firstRec (erSt 2 true []).err.recQ = some (rec0 0x21 2) ∧ firstRec (erSt 0 false []).err.recQ = some (rec0 0x21 0) ∧ (erSt 2 true []).flash.cfgOk = true ∧ (erSt 2 true []).fld (ecKey BOOT_STAT) 4 1 = 1 ∧ (erSt 2 true []).boot.restartDue = none ∧
    (erSt 2 true []).boot.off = false ∧ State.reset.err.recQ = [] ∧ (erSt 0 true []).err.staged.length < 4096 ∧
    ({ erSt 0 true [] with err := { Err.reset with staged := List.replicate 4096 jent } } : State).err.staged.length = 4096 := by decide +kernel
theorem witness_commit :
    (let s := { erSt 2 true [] with err := { Err.reset with staged := [jent] }, boot := { Boot.reset with restartDue := some 0 } }; s.err.staged = jent :: [] ∧ s.boot.off = false ∧
      s.flash.dev0 = true ∧ s.err.bbox.length < 1048576 ∧ s.err.lossDue = false ∧ State.isEngineEntry jent = true ∧ s.flashBehind = false) ∧
    (let s := { erSt 2 true [] with err := { Err.reset with staged := [jent] }, flash := { Flash.reset with ctrDone := false } }; s.err.staged ≠ [] ∧ s.flash.dev0 = true ∧ s.flashBehind = true) ∧
    ((erSt 2 true [rec0 1 0]).err.ages.head?).getD 0 + 1000000 ≤ (erSt 2 true [rec0 1 0]).now ∧ (erSt 2 true []).err.collectors ≠ 0 ∧ State.reset.err.collectors = 0 ∧ (erSt 2 true [rec0 1 0]).err.unsent ≠ [] := by decide +kernel
def ttSt (u : Nat) : State :=
  { withRegs State.reset cvRegs with cells := [(5, { Cell.reset with tests := [⟨u, 9, 0⟩] }), (6, { Cell.reset with running := some ⟨u, 9, 0⟩ })], slot := 2 ^ 40 }
theorem witness_tests :
    ((ttSt 2).cell 5).tests = [⟨2, 9, 0⟩] ∧ ((ttSt 2).cell 5).running = none ∧ (ttSt 2).testFree 5 2 = true ∧ ((ttSt 1).cell 6).running = some ⟨1, 9, 0⟩ ∧ (ttSt 1).written (cellKey 6 ERR_TT_CNT) = false ∧ ((ttSt 1).logicalOf 6).isSome = true := by
  decide +kernel
def halfSt : State := (ttSt 2).setMc 1 3 { Mc.reset with tests := [77] }
theorem witness_half_test : (halfSt.mc 1 3).tests = [77] := by decide +kernel
/-- Both copies of the black box are in service; none is. -/
theorem witness_copies :
    (let s := { erSt 2 true [] with err := { Err.reset with staged := [jent] } };
      s.flash.dev0 = true ∧ s.flash.dev1 = true ∧ s.err.bbox.length < 1048576 ∧ s.err.lossDue = false ∧ s.flashBehind = false ∧ s.boot.off = false) ∧
    (let s := { erSt 2 true [] with flash := { Flash.reset with dev0 := false, dev1 := false, noDevLogged := true } };
      s.flash.dev0 = false ∧ s.flash.dev1 = false ∧ s.flash.noDevLogged = true ∧ s.boot.off = false ∧ s.err.lossDue = false) := by decide +kernel
/-- Of the cells of a powered die only unassigned cell 5 and spare 47 are primed. -/
def fwSt : State := withRegs { ttSt 2 with cells := [], regions := onRegs } [(cellKey 5 SPM_PRIME_STAT, 1), (cellKey 47 SPM_PRIME_STAT, 1), (dieKey 0 CLK_STAT, 0xF)]
theorem witness_self_tests :
    (fwSt.isSpare 5 = false ∧ fwSt.logicalOf 5 = some (5, 0) ∧ fwSt.isHole 5 = false ∧ fwSt.panelAt 5 0 = none ∧ fwSt.testDue fwSt.freeCells 5 5 0 0 = true ∧
      (fwSt.cell 5).tests = [] ∧ (fwSt.cell 5).running = none) ∧
    (fwSt.isSpare 47 = true ∧ fwSt.testDue fwSt.spareCells 47 (cellPx 47) (cellPy 47) (cellDie 47) = true ∧ ((fwSt.noteTested 47).carryPhys 47).2 = 0) := by decide +kernel
/-- The way to the spare has failed at its edge port. -/
def fwCut : State := fwSt.setReg (cellKey 47 RTR_LINK_STAT) 0x3FFF
theorem witness_self_tests_lost :
    fwCut.isSpare 47 = true ∧ fwCut.testDue fwCut.spareCells 47 (cellPx 47) (cellPy 47) (cellDie 47) = true ∧ ((fwCut.noteTested 47).carryPhys 47).2 = 0 + 1 := by decide +kernel
theorem witness_coverage :
    State.reset.overdue = [] ∧ State.reset.timeBasis = true ∧ (ttSt 2).timeBasis = true ∧ (ttSt 2).boot.covLast + 60000000000 ≤ (ttSt 2).now := by decide +kernel
/-- A canvas of one cell whose last pass is 100 declarations and 733 s ago. -/
def covSt : State := { withRegs State.reset [(ecKey BOOT_CANVAS, 1 + 256 + 2 ^ 22), (ecKey BOOT_DIE_STATE, 1), (ecKey STEP_ENGINE, 100)] with slot := 2 ^ 40 }
theorem witness_overdue : covSt.overdue = [(0, 0)] ∧ covSt.timeBasis = true ∧ covSt.boot.covLast + 60000000000 ≤ covSt.now := by decide +kernel

/-! ### Bring-up -/

/-- Phase `p` of a start of kind `k` (1 cold, 2 warm) of the two-die part. -/
def phSt (p k : Nat) (regs : List (Nat × Nat)) : State :=
  { withRegs { State.reset with part := .dz2200 } ([(ecKey BOOT_STAT, p)] ++ regs) with boot := { Boot.reset with kind := k }, slot := 2 ^ 40 }
def fwObj : SignedObj := { magicOk := true, otype := 1, keyset := 0, ecdsaOk := true, lmsOk := true, svn := 5, serial := 0, nonce := 0, body := List.replicate 16 7 }
theorem witness_firmware :
    (phSt 1 1 []).inPhase 1 = true ∧ (phSt 1 1 []).flash.dev0 = true ∧ (phSt 1 1 []).flash.dev1 = true ∧ (phSt 1 1 []).flash.active < 2 ∧
    (phSt 1 1 []).candReason [{ fwObj with ecdsaOk := false }] 0 ≠ 0 ∧ ∀ i ∈ [0, 1, 2, 3], (phSt 1 1 []).candReason [] i ≠ 0 := by decide +kernel
/-- Key set 0 verifies. -/
def phKeys : State := { phSt 1 1 [] with flash := { (phSt 1 1 []).flash with keysOk := [true] } }
theorem witness_firmware_valid : phKeys.candReason [{ fwObj with ecdsaOk := false }, fwObj] 1 = 0 ∧ phKeys.candReason [{ fwObj with ecdsaOk := false }, fwObj] 0 ≠ 0 := by
  have h : phKeys.flash.dev1 = true ∧ bit phKeys.flash.revoke 0 = false ∧ ¬ 5 < phKeys.flash.svnMin ∧ phKeys.flash.keysOk = [true] ∧ phKeys.flash.dev0 = true := by decide +kernel
  simp [State.candReason, State.candDev, State.objReason, fwObj, h.1, h.2.1, h.2.2.1, h.2.2.2.1, h.2.2.2.2]
/-- SFDP tables that pass, but for 4 KB erase as given. -/
def sf (e4 : Bool) : Sfdp := { answers := true, addr4 := true, read144 := true, erase4k := e4, erase64k := true }
theorem witness_sfdp : [sf true, sf true].map State.Sfdp.usable = [true, true] ∧ [sf true, sf false].map State.Sfdp.usable = [true, false] := by decide +kernel
def flr (bad : List (Nat × Nat)) (cfg : Bool) : FlashRead :=
  { sfdp := [sf true, sf true], ctrBad := bad, bboxBad := [], cfgOk := [cfg, cfg], calOk := [true, true], rmapBad := [], licBad := [] }
theorem witness_config :
    (phSt 2 1 []).inPhase 2 = true ∧ (phSt 2 1 []).boot.cfgDone = false ∧ (phSt 2 1 []).flash.dev0 = true ∧ (phSt 2 1 []).flash.dev1 = true ∧
    (phSt 2 1 []).flash.rmap.all (fun e => e.live) = true ∧ (phSt 2 1 []).ctrRead (flr [] true).ctrBad 0 = some 0 ∧ (phSt 2 1 []).ctrRead (flr [] true).ctrBad 1 = some 1 ∧ (phSt 2 1 []).ctrRead (flr [] true).ctrBad 3 = some 0 ∧
    (phSt 2 1 []).ctrRead (flr [(0, 0)] false).ctrBad 0 = none ∧ (phSt 2 1 []).warm = false ∧ (flr [] true).sfdp.map State.Sfdp.usable = [true, true] := by decide +kernel
theorem witness_phases :
    (phSt 3 1 []).inPhase 3 = true ∧ (phSt 3 1 []).boot.nextDie = 0 ∧ 0 < (phSt 3 1 []).part.dies ∧ ((phSt 3 1 []).boot.excluded.find? fun e => e.1 == 0) = none ∧ (phSt 3 1 []).turningOn = false ∧ (phSt 3 2 []).boot.kind = 2 ∧
    (phSt 4 1 []).inPhase 4 = true ∧ (phSt 4 1 []).isExcluded 0 = false ∧ (phSt 4 1 []).boot.failedX = [] ∧ (phSt 5 1 []).inPhase 5 = true ∧ (phSt 6 1 []).inPhase 6 = true ∧
    (phSt 6 1 []).flash.rmap.length < 4096 ∧ (phSt 6 1 []).crossFailed 0 1 5 = false ∧ (phSt 6 1 []).fld (State.bndKey 0 1) 0 4 < 9 ∧ (phSt 8 1 []).boot.nextDie = 0 ∧ (phSt 9 1 []).warm = false ∧ (phSt 7 1 []).inPhase 7 = true ∧ (phSt 8 1 []).inPhase 8 = true ∧
    (phSt 9 1 []).inPhase 9 = true ∧ (phSt 9 1 []).keepsGddr = false ∧ (let s := phSt 9 2 []; ({ s with boot := { s.boot with sameLive := true } } : State).keepsGddr = true) ∧
    (phSt 10 1 []).inPhase 10 = true ∧ (phSt 10 1 []).err.staged.length < 4096 ∧ (phSt 5 1 []).fld (ecKey BOOT_POVR) 4 1 = 0 ∧
    (phSt 5 1 []).limitUs 5 < ((phSt 5 1 []).now - (phSt 5 1 []).boot.phaseStart) / 1000 ∧ (State.reset.now - State.reset.boot.phaseStart) / 1000 ≤ State.reset.limitUs 1 := by decide +kernel
def rsSt (cold : Bool) (due : Nat) : State :=
  { phSt 0 1 [(ecKey BOOT_STAT, 16)] with boot := { Boot.reset with restartDue := some due, restartCold := cold, restartCls := 0x49, standbyAt := some 1, beat := some 2 } }
theorem witness_restarts :
    (rsSt true 0).boot.off = false ∧ (rsSt true 0).boot.modRst = false ∧ 0 ≤ (rsSt true 0).now ∧ (rsSt false (2 ^ 60)).now < 2 ^ 60 ∧ (rsSt false 0).ready = true ∧
    (rsSt false 0).ctlDie ≠ (rsSt false 0).part.standby ∧ 2 + 5000000 ≤ (rsSt false 0).now ∧ (phSt 3 1 []).ready = false ∧ (1 : Nat) < (rsSt true 0).part.dies ∧ 1 ≠ (rsSt true 0).ctlDie ∧
    (let s := { rsSt false 0 with slot := 1 }; s.now < 2 + 5000000) ∧ (rsSt true 0).flash.dev0 = true ∧ (rsSt true 0).flash.dev1 = true := by decide +kernel
/-- A compute rail's turn-on whose four stages are in, after every die has been powered in phase 3. -/
def phOn : State :=
  let s := phSt 3 1 []
  { s with boot := { s.boot with nextDie := 2 }, regions := [(9, { Region.reset with st := 2, on := some { ton with stage := 4, due := 2 ^ 60 } })] }
theorem witness_phase_turn_on :
    phOn.inPhase 3 = true ∧ phOn.boot.nextDie = phOn.part.dies ∧ (phOn.region 9).on = some { ton with stage := 4, due := 2 ^ 60 } ∧
    ({ ton with stage := 4, due := 2 ^ 60 } : TurnOn).full = true ∧ phOn.now ≤ 2 ^ 60 + 2000 := by decide +kernel
theorem witness_ready_lock :
    (let s := { phSt 10 1 [] with wrote := [(ecKey BAND_BUS_CFG, 0)] };
      s.inPhase 10 = true ∧ (ecKey BAND_BUS_CFG, (0 : DWord)) ∈ s.wrote ∧
      ((findRow (unitRows (keyUnit (ecKey BAND_BUS_CFG))) (keyOff (ecKey BAND_BUS_CFG))).any fun r => r.1.fields.any fun f => decide (f.acc = .rwl)) = true) ∧
    (let s := phSt 5 1 []; ∀ r, r < 2 → (s.region r).on = none) := by decide +kernel
/-- Flash with counters to write, and with one repair-map entry to write. -/
theorem witness_flash_write :
    (let f := { Flash.reset with ctrDone := false }; f.dev0 = true ∧ f.dev1 = true ∧ f.ctrDone = false) ∧
    (let f := { Flash.reset with rmap := [⟨1, 2, 0, 5, 1, 0, 0, 0, 0⟩] }; f.ctrDone = true ∧ f.rmap[0]? ≠ f.rmapDone[0]?) ∧
    (Flash.reset.ctrDone = true ∧ Flash.reset.rmapDone = Flash.reset.rmap) := by decide +kernel
/-- Without factory fuses no unit is fused in phase 6 of this start. -/
theorem ph_fused (h : Config.factoryFuses = []) (t d l : Nat) : (phSt 6 1 []).fused t d l = false := by
  have e : (phSt 6 1 []).flash.hard = [] ∧ (phSt 6 1 []).flash.rmap = [] := ⟨rfl, rfl⟩
  simp [State.fused, State.isHard, State.hardFuses, h, e.1, e.2]
/-- Then no wire of a crossing is out of use, and every neighbour of cell 200 tests it. -/
theorem witness_wires (h : Config.factoryFuses = []) : (phSt 6 1 []).wiresOut 0 1 5 = [] := by
  have e : (phSt 6 1 []).boot.wires = [] := rfl
  have w : ∀ d side c w, (phSt 6 1 []).wireOut d side c w = false := by intros; simp [State.wireOut, ph_fused h, e]
  simp only [State.wiresOut, w, Bool.false_or]
  refine List.filter_eq_nil_iff.mpr fun _ _ => ?_
  split <;> simp
theorem witness_testers (h : Config.factoryFuses = []) : (phSt 6 1 []).testers 200 = [201, 199, 152, 248] := by
  simp only [State.testers, ph_fused h, Bool.or_false]
  decide +kernel
/-- Cell 200 fails two of its testers, one, or none. -/
theorem witness_votes :
    [201, 199, 152, 248].countP (fun e => ([(200, 201, true), (200, 152, true)] : List (Nat × Nat × Bool)).contains (200, e, true)) = 2 ∧
    [201, 199, 152, 248].countP (fun e => ([(200, 201, true), (200, 152, false)] : List (Nat × Nat × Bool)).contains (200, e, true)) = 1 ∧
    [201, 199, 152, 248].countP (fun e => ([(200, 201, false)] : List (Nat × Nat × Bool)).contains (200, e, true)) = 0 ∧
    (200 : Nat) < (phSt 6 1 []).part.dies * 2304 ∧ (phSt 6 1 []).isExcluded (cellDie 200) = false ∧ (phSt 6 1 []).boot.disabled.contains 200 = false := by decide +kernel
/-- Four failed wires have spares and a fifth has none. -/
theorem witness_steered : State.steered ([] ++ [7]) = true ∧ State.steered ([1, 2, 3, 4] ++ [7]) = false := by decide +kernel
/-- The west side of die 1 meets die 0; the seams of a die have no earlier neighbour of their own. -/
theorem witness_boundary : (phSt 4 1 []).dieBeside 1 3 = some 0 ∧ (phSt 4 1 []).isExcluded 0 = false ∧ (1 : Nat) < (phSt 4 1 []).part.dies := by decide +kernel
theorem witness_canvas_none :
    let s := phSt 8 1 [(ecKey BOOT_DIE_STATE, 15)];
      (s.mergeCells.promoteAll.excludeAll []).canvasAllowed = false := by decide +kernel
/-- Without factory fuses every die of this start is in the canvas. -/
theorem witness_canvas (h : Config.factoryFuses = []) :
    let s := phSt 8 1 []
    let s1 := s.mergeCells.promoteAll.excludeFound.excludeAll []
    (∃ q ∈ State.rects s.part, ∀ d, d < s.part.dies → q.holds s.part d = true → s1.isExcluded d = false) ∧ s1.canvasAllowed = true := by
  intro s s1
  have e : s.flash.hard = [] ∧ s.flash.rmap = [] := ⟨rfl, rfl⟩
  have f : ∀ t d l, s.fused t d l = false := by intros; simp [State.fused, State.isHard, State.hardFuses, h, e.1, e.2]
  have b : ∀ c, s.mergedBad c = false := fun c => by
    have g : s.boot.disabled = [] ∧ (s.region (cellRegion c)).st = 0 := ⟨rfl, rfl⟩
    simp [State.mergedBad, f, g.1, g.2]
  have m : s.mergeCells = s.setBoot { s.boot with disabled := [], holes := [] } := by
    have g : (List.range (s.part.dies * 2304)).filter s.mergedBad = [] := List.filter_eq_nil_iff.mpr fun c _ => by simp [b c]
    rw [State.mergeCells, g]
  have k : s1 = (s.setBoot { s.boot with disabled := [], holes := [] }).promoteAll.excludeFound.excludeAll [] := by simp only [s1, m]
  rw [k]
  decide +kernel

/-! ### Repair in service, licences and service commands -/

def hoSt (holes : List Nat) (remap : Option (Nat × Nat × List Nat)) : State :=
  { withRegs State.reset (cvRegs ++ [(dieKey 0 FUSE_SPARES, 96)]) with boot := { Boot.reset with holes := holes, remap := remap } }
theorem witness_cell_fail : ((hoSt [] none).logicalOf 5).isSome = true ∧ (hoSt [] none).flash.rmap.length < 4096 ∧ (hoSt [] none).isHole 5 = false := by decide +kernel
theorem witness_remap :
    (hoSt [5] (some (0, 0, [5]))).boot.remap.isSome = true ∧ (hoSt [5] none).boot.remap = none ∧ (hoSt [5] none).canvasValid = true ∧ (hoSt [5] none).dieState 0 = 1 ∧
    (hoSt [5] none).rowHoles 0 0 = [5] ∧ (hoSt [5] none).rowDisabled 0 0 = [] ∧ (hoSt [5] none).rowBusy 0 0 = false ∧ [5] = [5].take (2 - ((hoSt [5] none).rowDisabled 0 0).length) := by decide +kernel
/-- A second command was refused in the cycle in which a remap completes. -/
def lateSt : State := let s := hoSt [5] (some (0, 0, [5])); { s with boot := { s.boot with remapLate := [(0, 3)] } }
theorem witness_remap_late : lateSt.boot.remapLate = [(0, 3)] ∧ lateSt.boot.remap.isSome = true ∧ (hoSt [5] (some (0, 0, [5]))).boot.remapLate = [] := by decide +kernel
/-- A ready engine whose object of `len` bytes lies at GDDR7 address 0 (one device live); key set 0 verifies. -/
def liSt (len : Nat) (regs : List (Nat × Nat)) : State :=
  { gdSt [] ([(ecKey BOOT_STAT, 16), (ecKey LIC_LEN, len)] ++ regs) with flash := { Flash.reset with rmap := [⟨1, 2, 0, 5, 1, 0, 0, 0, 0⟩], keysOk := [true] } }
def licObj (ty : Nat) (nonce : BitVec 128) (body : List Byte) : SignedObj :=
  { magicOk := true, otype := ty, keyset := 0, ecdsaOk := true, lmsOk := true, svn := 5, serial := Config.serial, nonce := nonce, body := body }
theorem image_read (len : Nat) (h : len = 3052 ∨ len = 3004) :
    ∃ bs, (liSt len []).imgRead (liSt len []).licSrc 0 ((liSt len []).fld (ecKey LIC_LEN) 0 25) = (liSt len [], some bs) := by
  have a : ∀ n ∈ [3052, 3004], ((liSt n []).imgRead (liSt n []).licSrc 0 ((liSt n []).fld (ecKey LIC_LEN) 0 25)).1 = liSt n [] ∧
      ((liSt n []).imgRead (liSt n []).licSrc 0 ((liSt n []).fld (ecKey LIC_LEN) 0 25)).2.isSome = true := by decide +kernel
  have b := a len (by rcases h with rfl | rfl <;> simp)
  obtain ⟨bs, hb⟩ := Option.isSome_iff_exists.mp b.2
  exact ⟨bs, Prod.ext b.1 hb⟩
theorem witness_object (nonce : BitVec 128) (body : List Byte) (hb : body.length = 64) :
    (liSt 3052 []).licObject (some { licObj 2 0 body with svn := 0 }) 2 = (liSt 3052 [], 0) ∧
    (liSt 3052 []).licObject (some { licObj 3 nonce body with svn := 0 }) 3 = (liSt 3052 [], 0) := by
  obtain ⟨bs, h⟩ := image_read 3052 (.inl rfl)
  have a : (liSt 3052 []).licAddrOk (liSt 3052 []).licSrc = true ∧ bit (liSt 3052 []).flash.revoke 0 = false ∧ (liSt 3052 []).flash.keysOk = [true] ∧
      (liSt 3052 []).fld (ecKey LIC_LEN) 0 25 = 3052 := by decide +kernel
  rw [a.2.2.2] at h
  simp [State.licObject, a.1, a.2.2.2, h, State.objReason, licObj, hb, a.2.1, a.2.2.1]
theorem witness_licence_body : State.licBodyOk ([3] ++ List.replicate 63 0) = true ∧ ([3] ++ List.replicate 63 (0 : Byte)).length = 64 := by decide +kernel
theorem witness_licence :
    (liSt 3052 []).flash.licOp = 0 ∧ (liSt 3052 []).ready = true ∧ ((liSt 3052 []).flash.licences.any fun h => h.lseq == 0) = false ∧ (liSt 3052 []).flash.licences.length < 16 ∧ (liSt 3052 []).flash.dev0 = true ∧
    (let s := { liSt 3052 [] with flash := { (liSt 3052 []).flash with licences := [⟨0, 1, [], true⟩] } }; (s.flash.licences.any fun h => h.lseq == 0) = true) ∧
    (liSt 3052 [(ecKey LIC_STAT, 8)]).fld (ecKey LIC_STAT) 3 1 = 1 ∧ (liSt 3052 [(ecKey LIC_STAT, 8)]).jobs = [] ∧ (liSt 3052 []).fld (ecKey LIC_STAT) 3 1 = 0 ∧
    (liSt 3052 [(ecKey LIC_SRC, 1)]).licObject none 2 = (liSt 3052 [(ecKey LIC_SRC, 1)], 8) ∧ (liSt 3052 []).licAddrOk (liSt 3052 []).licDst = true ∧ (liSt 3052 []).flash.lmsQ < 1048576 ∧
    (liSt 3052 []).removeWhy 0 [0] = 0 ∧ (liSt 3052 []).err.staged.length < 4096 ∧ ofLe (([2] ++ List.replicate 63 (0 : Byte)).take 4) = 2 := by decide +kernel
theorem witness_firmware_object : (liSt 3004 []).licObject (some { fwObj with serial := 0 }) 1 = (liSt 3004 [], 0) := by
  obtain ⟨bs, h⟩ := image_read 3004 (.inr rfl)
  have a : (liSt 3004 []).licAddrOk (liSt 3004 []).licSrc = true ∧ bit (liSt 3004 []).flash.revoke 0 = false ∧ (liSt 3004 []).flash.keysOk = [true] ∧
      (liSt 3004 []).fld (ecKey LIC_LEN) 0 25 = 3004 ∧ ¬ 5 < (liSt 3004 []).flash.svnMin := by decide +kernel
  rw [a.2.2.2.1] at h
  simp [State.licObject, a.1, a.2.2.2.1, h, State.objReason, fwObj, a.2.1, a.2.2.1, a.2.2.2.2]
theorem witness_nonce (body : List Byte) : (licObj 3 (liSt 3052 []).curNonce body).nonce = (liSt 3052 []).curNonce ∧ (licObj 3 ((liSt 3052 []).curNonce + 1) body).nonce ≠ (liSt 3052 []).curNonce := by
  refine ⟨rfl, ?_⟩
  simp [licObj]

/-! ### Ill-formed commands, one for each check, and values worked by hand from the spec -/

theorem smoke_engine_units : (let bad := fun (i : Instr) => WellFormed.instrOk i = false;
    bad (.coreStart 18432 .head) ∧ bad (.targetedTestVerdict 18528 true) ∧ bad (.dieThrottleApply 8) ∧ bad (.regionComputeOn 0 8 0) ∧ bad (.quickRemap 0 48) ∧ bad (.syncArm 0 48 0 0) ∧ bad (.syncArm 0 0 0 3) ∧
    bad (.scrubLineRead 0 8) ∧ bad (.loopbackTestDone 0 12 true true [] 0) ∧ bad (.loopbackTestDone 0 0 true true [40] 0) ∧ bad (.linkNakReceive 0 12 0) ∧ bad (.linkNakReceive 0 0 (2 ^ 48)) ∧ bad (.packetRoute 0 [] 3) ∧ bad (.packetRoute 0 [(12, 1)] 0) ∧ bad (.detourLoad 0 (List.replicate 17 0)) ∧
    bad (.cellFailInService 0 16) ∧ bad (.streamedRowPresent 0 (some (130, 1))) ∧ bad (.loadRound [(18432, 0, 0, 0)] [] []) ∧ bad (.loadRound [] [(0, 0, 0, 18432)] [])) := by decide +kernel
theorem smoke_outside : (let bad := fun (i : Instr) => WellFormed.instrOk i = false;
    bad (.perstAssert 2) ∧ bad (.hostBarRead 0 1 0 4 true []) ∧ bad (.ringNop 0 256) ∧ bad (.msixRaise (.host 0) 0 512) ∧ bad (.outboundRead (.host 0) (2 ^ 44) 1) ∧ bad (.fabPcmdRetrain 0 3) ∧
    bad (.fecUncorrectableBurst 0 0 8 0 0) ∧ bad (.fabCommandStart 0 5) ∧ bad (.contextOpen 65536) ∧ bad (.commandTimeout 0 65536) ∧ bad (.bootResetWarm (2 ^ 32)) ∧ bad (.gddrRefresh 0 12 0) ∧
    bad (.channelRetrainDone 0 0 4 true) ∧ bad (.gddrRead (.host 2) 0 1 0 0) ∧ bad (.gddrRead (.far 18432 .head) 0 1 0 0) ∧ bad (.gddrRead (.host 0) 0 1 0 4)) := by decide +kernel
theorem smoke_power : (let bad := fun (i : Instr) => WellFormed.instrOk i = false;
    bad (.phaseFail 0 28 0) ∧ bad (.ldoSliceFail 0 0 0 2 0) ∧ bad (.ldoSliceFail 0 0 0 0 4) ∧ bad (.pllLockLoss 0 4) ∧ bad (.bladeLoss 2) ∧ bad (.svcSelectFirmwareSlot none 2 []) ∧
    bad (.timeSrcWrite 4) ∧ bad (.ptpSyncMessage 0 256 false) ∧ bad (.criticalMargin 0 0 0 32) ∧ bad (.substrateRegulatorFail 0 (.gddr 12)) ∧ bad (.timeFrame { rfB with ftype := 64 }) ∧
    bad (.frameAckReceive 0 0 { cFrame 0 1 0 0 false 0 0 with gen := 16 } 0) ∧ WellFormed.queueOk [.inputLoss, .bladeLoss 2] = false) := by decide +kernel
/-- The spec's worked example of a die row with two disabled cells: skips 9 and 30. -/
theorem test_disabled_row : localOf 9 30 31 = some 29 ∧ localOf 9 30 7 = some 7 ∧ localOf 46 47 29 = some 29 ∧ localOf 9 30 9 = none ∧ localOf 9 30 30 = none := by decide +kernel
/-- The spec's worked example of the scratchpad code: data 5 has check byte 0x0A; one flipped bit is corrected, two are not. -/
theorem test_scratchpad_code : eccByte 5 = 0x0A ∧ judge 1 0x0A = .single 5 ∧ judge 0 0x0A = .bad ∧ judge 5 0x0A = .good := by decide +kernel
/-- The spec's worked example of locating GDDR7 address 2^32 with 96 devices, and with d2 device 7 fused off. -/
theorem test_gddr_locate :
    (withRegs State.reset [(ecKey BOOT_GDDR_LIVE, 0xFFFFFFFF), (ecKey (BOOT_GDDR_LIVE + 4), 0xFFFFFFFF), (ecKey (BOOT_GDDR_LIVE + 8), 0xFFFFFFFF)]).locate (2 ^ 32) = some ⟨4, 4, 3, 11650, 4, 0⟩ ∧
    (withRegs State.reset [(ecKey BOOT_GDDR_LIVE, 0x7FFFFFFF), (ecKey (BOOT_GDDR_LIVE + 4), 0xFFFFFFFF), (ecKey (BOOT_GDDR_LIVE + 8), 0xFFFFFFFF)]).locate (2 ^ 32) = some ⟨2, 11, 1, 11773, 4, 0⟩ := by
  decide +kernel
/-- The spec's worked examples of rounding to E4M3: 13.3125, 470 and -2^-10 under the four modes. -/
theorem test_rounding : ∀ f ∈ (fpFmt 4).toList,
    (f.convert false 213 (-4) 0 0).v = 0x55 ∧ (f.convert false 213 (-4) 1 0).v = 0x55 ∧ (f.convert false 213 (-4) 3 20479).v = 0x56 ∧ (f.convert false 213 (-4) 3 20480).v = 0x55 ∧
    (f.convert false 470 0 0 0).v = 0x7F ∧ (f.convert false 470 0 1 0).v = 0x7E ∧ (f.convert false 470 0 2 0).v = 0x7E ∧ (f.convert false 470 0 3 0).v = 0x7E ∧ (f.convert false 464 0 0 0).v = 0x7E ∧
    (f.convert true 1 (-10) 0 0).v = 0x80 ∧ (f.convert true 1 (-10) 3 32767).v = 0x81 ∧ (f.convert true 1 (-10) 3 32768).v = 0x80 := by decide +kernel
/-- The spec's worked example of locating a faulty column: D0 = 16 and D1 = 48 name data column 2. -/
theorem test_locate_column : locate false 16 48 4 = (2, 1) ∧ locate false 16 0 4 = (0, 2) ∧ locate false 0 5 4 = (0, 3) := by decide +kernel
theorem witness_canonical : State.reset.canon ∧ (∃ t, step State.reset = .next t) ∧ 1 ≤ State.reset.flash.rseq ∧ State.reset.flash.rseq ≤ 0xFFFFFFFF ∧ State.reset.pending = [] := by
  refine ⟨⟨by decide +kernel, by decide +kernel⟩, ⟨_, rfl⟩, by decide +kernel, by decide +kernel, rfl⟩
theorem witness_quiet_slot :
    State.reset.cells = [] ∧ (∀ p, (State.reset.hport p).batch = 0) ∧ (∀ d, (State.reset.die d).convFail = false) ∧ (∀ d p, (State.reset.fport d p).due = false) ∧
    State.reset.inPhase 3 = false ∧ State.reset.band.stopDue = none ∧ State.reset.jobs = [] ∧ State.reset.err.haltQ = [] ∧ State.reset.band.statusQ = none ∧
    State.reset.boot.remapLate = [] := by
  refine ⟨rfl, fun _ => ?_, fun _ => rfl, fun _ _ => rfl, by decide +kernel, rfl, rfl, rfl, rfl, rfl⟩
  simp [State.hport, State.reset, SMap.get, HPort.reset]
end Sys2Proof.Tests
end

section
/-! Start phases 7 to 10 (R65-R67, R263, R271, R272, R378, R459, R461, R462, R468). The units' own work of a start (training,
switching rails, reading memory, sending events) leaves engine control and the devices' states alone and takes no record back:
`UnitWork` says that once for every operation, so that each phase's proof follows the few registers the phase itself publishes. -/

namespace Sys2Proof.StartPhases

open Sys2Proof Sys2Proof.Machine Sys2Proof.Laws

/-! ### Folds and sparse maps -/

/-- A list without duplicates is folded over: the steps of the other elements keep `I` till the step of `x` turns it into `P`, which the
rest keep. -/
theorem foldl_establishes {α : Type} {f : State → α → State} {I P : State → Prop} {x : α} {l : List α}
    (hI : ∀ t, ∀ y ∈ l, y ≠ x → I t → I (f t y)) (hx : ∀ t, I t → P (f t x)) (hP : ∀ t, ∀ y ∈ l, y ≠ x → P t → P (f t y))
    (hl : l.Nodup) (hmem : x ∈ l) {s : State} (hs : I s) : P (l.foldl f s) := by
  obtain ⟨l1, l2, rfl⟩ := List.append_of_mem hmem
  rw [List.nodup_middle, List.nodup_cons, List.mem_append] at hl
  have before : I (l1.foldl f s) := List.foldlRecOn (motive := I) l1 f hs fun t ht y hy =>
    hI t y (by simp [hy]) (fun e => hl.1 (.inl (e ▸ hy))) ht
  rw [List.foldl_append, List.foldl_cons]
  exact List.foldlRecOn (motive := P) l2 f (hx _ before) fun t ht y hy => hP t y (by simp [hy]) (fun e => hl.1 (.inr (e ▸ hy))) ht

/-- What the step of one element establishes whatever came before it, and every step keeps. -/
theorem foldl_reaches {α : Type} {f : State → α → State} {P : State → Prop} {x : α} (hx : ∀ t, P (f t x)) (hP : ∀ t y, P t → P (f t y))
    {l : List α} (hmem : x ∈ l) (s : State) : P (l.foldl f s) := by
  obtain ⟨l1, l2, rfl⟩ := List.append_of_mem hmem
  rw [List.foldl_append, List.foldl_cons]
  exact List.foldlRecOn (motive := P) l2 f (hx _) fun t ht y _ => hP t y ht

/-- Reading a key whose entries a filter keeps. -/
theorem get_filter_of_kept {α : Type} {f : Nat × α → Bool} {k : Nat} (h : ∀ v, f (k, v) = true) (m : SMap α) (d : α) :
    SMap.get (m.filter f) k d = SMap.get m k d := by
  induction m with
  | nil => rfl
  | cons p m ih =>
    obtain ⟨j, v⟩ := p
    by_cases hj : j = k
    · subst hj; simp [SMap.get, h]
    · by_cases hf : f (j, v) = true <;> simp [SMap.get, hf, hj, ih]

/-- Reading a key whose entries a filter drops. -/
theorem get_filter_of_dropped {α : Type} {f : Nat × α → Bool} {k : Nat} (h : ∀ v, f (k, v) = false) (m : SMap α) (d : α) :
    SMap.get (m.filter f) k d = d := by
  induction m with
  | nil => rfl
  | cons p m ih =>
    obtain ⟨j, v⟩ := p
    by_cases hj : j = k
    · subst hj; simp [h, ih]
    · by_cases hf : f (j, v) = true <;> simp [SMap.get, hf, hj, ih]

/-! ### What an operation leaves alone -/

section
variable {s t : State} {w : List Comp}

/-- The kinds of state outside an operation's reach are as before. -/
theorem within_same (h : s.within w t) (k : Comp) (hk : k ∉ w) : s.sameAt t k := by
  obtain ⟨-, -, -, -, same⟩ := h
  exact same k hk

theorem within_part (h : s.within w t) : t.part = s.part := h.1

theorem within_now (h : s.within w t) : t.now = s.now := by
  obtain ⟨-, slot, -⟩ := h
  simp only [State.now, slot]

theorem within_boot (h : s.within w t) (hw : .boot ∉ w) : t.boot = s.boot := within_same h .boot hw

end

/-! ### The units' work -/

/-- A register that the units' work of a start leaves alone: engine control, and the state of a memory device. -/
def fixedKey (k : Nat) : Prop := k < 0x1000000 ∨ ∃ d n, d < 8 ∧ n < 12 ∧ k = memKey d n MEM_STAT

/-- `t` comes from `s` by the units' work: engine control and the devices' states read as before, and every record is still there. -/
structure UnitWork (s t : State) : Prop where
  part : t.part = s.part
  reg : ∀ k, fixedKey k → t.reg k = s.reg k
  recs : s.err.recQ <+: t.err.recQ

theorem fixedKey_ecKey {o : Nat} (h : o < 0x1000000) : fixedKey (ecKey o) := .inl h

theorem fixedKey_memStat {d n : Nat} (hd : d < 8) (hn : n < 12) : fixedKey (memKey d n MEM_STAT) := .inr ⟨d, n, hd, hn, rfl⟩

/-- No register of a cell. -/
theorem keyCell_of_fixedKey {k : Nat} (h : fixedKey k) : keyCell k = none := by
  have hk : k / 0x1000000 < 16 := by
    rcases h with h | ⟨d, n, hd, hn, rfl⟩
    · omega
    · simp only [memKey, dieKey, MEM_STAT]; omega
  simp [keyCell, hk]

/-- Die control below the memory controllers' blocks. -/
theorem not_fixedKey_dieKey (d : Nat) {o : Nat} (h : o < 0x100000) : ¬ fixedKey (dieKey d o) := by
  rintro (hk | ⟨e, n, -, hn, hk⟩)
  · simp only [dieKey] at hk; omega
  · simp only [memKey, dieKey, MEM_STAT] at hk; omega

/-- A register of a memory controller other than its first. -/
theorem not_fixedKey_memKey (d n : Nat) {o : Nat} (h : MEM_STAT < o) (h' : o < MEM_STAT + 0x10000) : ¬ fixedKey (memKey d n o) := by
  simp only [MEM_STAT] at h h'
  rintro (hk | ⟨e, m, -, hm, hk⟩)
  · simp only [memKey, dieKey] at hk; omega
  · simp only [memKey, dieKey, MEM_STAT] at hk; omega

theorem not_fixedKey_fabKey (d : Nat) {p o : Nat} (hp : p < 3) (ho : o < 0x60000) : ¬ fixedKey (fabKey d p o) :=
  not_fixedKey_dieKey d (by omega)

theorem not_fixedKey_ldoKey (r : Nat) {rail : Nat} (h : rail < 2) : ¬ fixedKey (ldoKey r rail) :=
  not_fixedKey_dieKey _ (by simp only [LDO_CR]; omega)

theorem not_fixedKey_pcieKey (port : Nat) {o : Nat} (h : o < 0x100000) : ¬ fixedKey (State.pcieKey port o) :=
  not_fixedKey_dieKey _ h

namespace UnitWork

variable {s t u : State}

theorem refl (s : State) : UnitWork s s := ⟨rfl, fun _ _ => rfl, List.prefix_rfl⟩

theorem trans (h : UnitWork s t) (g : UnitWork t u) : UnitWork s u :=
  ⟨g.part.trans h.part, fun k hk => (g.reg k hk).trans (h.reg k hk), h.recs.trans g.recs⟩

theorem fld (h : UnitWork s t) {k : Nat} (hk : fixedKey k) (lo w : Nat) : t.fld k lo w = s.fld k lo w := by
  simp only [State.fld, h.reg k hk]

theorem devState (h : UnitWork s t) {d n : Nat} (hd : d < 8) (hn : n < 12) : t.devState d n = s.devState d n :=
  h.fld (fixedKey_memStat hd hn) 0 3

/-- A state with the same part, registers and records. -/
theorem of_eq (h : UnitWork s t) (hp : u.part = t.part) (hr : u.regs = t.regs) (he : u.err.recQ = t.err.recQ) : UnitWork s u :=
  h.trans ⟨hp, fun k _ => by simp only [State.reg, hp, hr], he ▸ List.prefix_rfl⟩

/-- A change in kinds of state other than registers and records. -/
theorem of_within (h : UnitWork s t) {w : List Comp} (hw : t.within w u) (hr : .regs ∉ w) (he : .err ∉ w) : UnitWork s u :=
  h.of_eq (within_part hw) (within_same hw .regs hr) (congrArg Err.recQ (within_same hw .err he))

theorem setReg (h : UnitWork s t) {k : Nat} {v : DWord} (hk : ¬ fixedKey k) : UnitWork s (t.setReg k v) :=
  h.trans ⟨rfl, fun _ hj => reg_setReg_other t v fun e => hk (e ▸ hj), List.prefix_rfl⟩

theorem setFld (h : UnitWork s t) {k lo w v : Nat} (hk : ¬ fixedKey k) : UnitWork s (t.setFld k lo w v) := h.setReg hk

theorem incSat (h : UnitWork s t) {k lo w n : Nat} (hk : ¬ fixedKey k) : UnitWork s (t.incSat k lo w n) := h.setReg hk

theorem incSatUn (h : UnitWork s t) {k lo w n : Nat} (hk : ¬ fixedKey k) : UnitWork s (t.incSatUn k lo w n) := by
  unfold State.incSatUn
  split
  · exact h
  · exact h.incSat hk

theorem incWrap (h : UnitWork s t) {k lo w n : Nat} (hk : ¬ fixedKey k) : UnitWork s (t.incWrap k lo w n) := h.setReg hk

/-- Registers of cells that return to their reset values. -/
theorem dropRegs (h : UnitWork s t) {r : Nat} {on : Nat → Bool} : UnitWork s (t.dropRegs r on) := by
  refine h.trans ⟨rfl, fun k hk => get_filter_of_kept (fun v => ?_) _ _, List.prefix_rfl⟩
  simp only [keyCell_of_fixedKey hk]

theorem raiseSev (h : UnitWork s t) {sev cls : Nat} {loc : Loc} {detail : Nat} {struck : Option Nat} :
    UnitWork s (t.raiseSev sev cls loc detail struck) :=
  h.trans ⟨rfl, fun _ _ => rfl, List.prefix_append _ _⟩

theorem raise (h : UnitWork s t) {cls : Nat} {loc : Loc} {detail : Nat} {struck : Option Nat} : UnitWork s (t.raise cls loc detail struck) :=
  h.raiseSev

theorem raiseLim (h : UnitWork s t) {ns cls : Nat} {loc : Loc} {detail : Nat} : UnitWork s (t.raiseLim ns cls loc detail) := by
  unfold State.raiseLim
  split
  · split
    · exact h.of_eq rfl rfl rfl
    · exact h.raise
  · exact h.raise

theorem foldl {α : Type} {f : State → α → State} (l : List α) (h : UnitWork s t)
    (hf : ∀ u, ∀ x ∈ l, UnitWork s u → UnitWork s (f u x)) : UnitWork s (l.foldl f t) :=
  List.foldlRecOn l f h fun u hu x hx => hf u x hx hu

/-! #### The fabric (R284, R285, R288, R303) -/

theorem confirmFuse (h : UnitWork s t) {typ source d loc : Nat} : UnitWork s (t.confirmFuse typ source d loc) := by
  unfold State.confirmFuse
  dsimp only
  split
  · exact h.of_eq rfl rfl rfl
  · split
    · exact h.of_eq rfl rfl rfl
    · exact h.raise

theorem setCtx (h : UnitWork s t) {q : Nat} {x : Ctx} : UnitWork s (t.setCtx q x) := h.of_eq rfl rfl rfl

theorem releaseTag (h : UnitWork s t) {d n q : Nat} : UnitWork s (t.releaseTag d n q) := h.of_eq rfl rfl rfl

theorem failTag (h : UnitWork s t) {d n cause : Nat} : UnitWork s (t.failTag d n cause) := by
  unfold State.failTag
  split
  · exact h
  · exact h.releaseTag.setCtx.raise

theorem failPort (h : UnitWork s t) {d p cause : Nat} : UnitWork s (t.failPort d p cause) :=
  h.foldl _ fun _ _ _ hu => hu.foldl _ fun _ _ _ hv => hv.failTag

theorem setPstate (h : UnitWork s t) {d p st : Nat} (hp : p < 3) : UnitWork s (t.setPstate d p st) :=
  h.setFld (not_fixedKey_fabKey d hp (by decide))

theorem noWidth (h : UnitWork s t) {d p : Nat} (hp : p < 3) : UnitWork s (t.noWidth d p) :=
  (h.setFld (not_fixedKey_fabKey d hp (by decide))).setFld (not_fixedKey_fabKey d hp (by decide))

theorem portDown (h : UnitWork s t) {d p st : Nat} (hp : p < 3) : UnitWork s (t.portDown d p st) :=
  (((h.of_eq (u := t.setFport d p _) rfl rfl rfl).setPstate hp).noWidth hp).failPort

theorem trainPort (h : UnitWork s t) {d p st : Nat} (hp : p < 3) : UnitWork s (t.trainPort d p st) := by
  have held := (h.setPstate (d := d) (st := 4) hp).of_eq (u := (t.setPstate d p 4).setFport d p { t.fport d p with cfgLogged := true }) rfl rfl rfl
  unfold State.trainPort
  dsimp only
  split
  · split
    · exact held
    · exact held.raise
  · exact h.setPstate hp

theorem markLanes (h : UnitWork s t) {d p bad : Nat} (hp : p < 3) : UnitWork s (t.markLanes d p bad) := by
  refine (h.setFld (not_fixedKey_fabKey d hp (by decide))).foldl _ fun u i _ hu => ?_
  split
  · exact hu.confirmFuse
  · exact hu

theorem flushHeld (h : UnitWork s t) {d p : Nat} : UnitWork s (t.flushHeld d p) :=
  h.of_within (within_flushHeld (List.Subset.refl _) (within_refl t)) (by decide) (by decide)

theorem resume (h : UnitWork s t) {d p : Nat} (hp : p < 3) : UnitWork s (t.resume d p) := by
  refine UnitWork.flushHeld ?_
  split
  · exact h
  · refine UnitWork.raiseLim (UnitWork.foldl _ (h.incSatUn (not_fixedKey_fabKey d hp (by decide))) fun u e _ hu => ?_)
    exact hu.of_eq rfl rfl rfl

theorem licRetrain (h : UnitWork s t) : UnitWork s t.licRetrain := by
  unfold State.licRetrain
  dsimp only
  split
  · exact h
  · split
    · unfold State.retrain
      split
      · exact h.setPstate (Nat.mod_lt _ (by decide))
      · exact h
    · exact h

theorem portUp (h : UnitWork s t) {d p was w f crReq crRsp : Nat} (hp : p < 3) : UnitWork s (t.portUp d p was w f crReq crRsp) := by
  have begun : ∀ {c : Prop} [Decidable c], UnitWork s (if c then t.linkBegin d p crReq crRsp else t) := by
    intro c _
    split
    · exact h.of_eq rfl rfl rfl
    · exact h
  have key := not_fixedKey_fabKey d hp (o := FAB_PSTAT) (by decide)
  have up := ((((begun (c := was = 1 ∨ ((t.fport d p).ether ∧ t.fld (fabKey d p FAB_PCFG) 1 1 = 0))).of_eq
    (u := State.takeFraming _ d p) rfl rfl rfl).setPstate (d := d) (st := 2) hp).setFld (lo := 4) (w := 3) (v := widthCode w) key
    |>.setFld (lo := 7) (w := 3) (v := f) key).resume (d := d) hp
  unfold State.portUp
  dsimp only
  split
  · split
    · exact up.raise.raise
    · exact up.raise
  · exact up

theorem trainDone (h : UnitWork s t) {d p bad crReq crRsp : Nat} (hp : p < 3) : UnitWork s (t.trainDone d p bad crReq crRsp) := by
  have marked := h.markLanes (d := d) (bad := bad) hp
  have ends : ∀ u, UnitWork s u →
      UnitWork s (if (t.fport d p).pendDisable = true then (u.portDown d p 0).licRetrain else u.licRetrain) := by
    intro u hu
    split
    · exact (hu.portDown hp).licRetrain
    · exact hu.licRetrain
  unfold State.trainDone
  dsimp only
  split
  · exact h
  · refine ends _ ?_
    split
    · exact (marked.portDown hp).trainPort hp
    · split
      · exact marked.portUp hp
      · exact ((marked.setPstate hp).noWidth hp).raise.failPort

theorem portStart (h : UnitWork s t) {d p : Nat} {lanes : List (Nat × Nat)} {credits : List (Nat × Nat × Nat)} (hp : p < 3) :
    UnitWork s (t.portStart d p lanes credits) := by
  unfold State.portStart
  dsimp only
  split
  · exact h
  · exact ((h.setFld (not_fixedKey_fabKey d hp (by decide))).trainPort hp).trainDone hp

/-! #### Rails, skip positions and ports (R48, R66, R74, R354) -/

theorem railVset (h : UnitWork s t) {r rail v : Nat} (hr : rail < 2) : UnitWork s (t.railVset r rail v) := by
  have key := not_fixedKey_ldoKey r hr
  unfold State.railVset
  dsimp only
  split
  · exact (h.setFld key).setFld key
  · exact h.setFld key

theorem dropVset (h : UnitWork s t) {r : Nat} : UnitWork s (t.dropVset r) := by
  unfold State.dropVset
  split
  · exact (h.railVset (by decide)).railVset (by decide)
  · exact h

theorem setRegion (h : UnitWork s t) {r : Nat} {x : Region} : UnitWork s (t.setRegion r x) := h.of_eq rfl rfl rfl

theorem setBoot (h : UnitWork s t) {b : Boot} : UnitWork s (t.setBoot b) := h.of_eq rfl rfl rfl

theorem setCell (h : UnitWork s t) {c : Nat} {x : Cell} : UnitWork s (t.setCell c x) := h.of_eq rfl rfl rfl

theorem setHport (h : UnitWork s t) {p : Nat} {x : HPort} : UnitWork s (t.setHport p x) := h.of_eq rfl rfl rfl

theorem computeRailOff (h : UnitWork s t) {r : Nat} : UnitWork s (t.computeRailOff r) := by
  have key := not_fixedKey_ldoKey r (rail := 0) (by decide)
  have unballasted : UnitWork s { t.dropVset r with
      band := { (t.dropVset r).band with nbal := (t.dropVset r).band.nbal.filter fun c => cellRegion c != r } } :=
    h.dropVset.of_eq rfl rfl rfl
  exact (((unballasted.foldl _ fun _ _ _ hu => hu.setCell).dropRegs.setFld key).setFld key).setRegion

theorem routerRailOff (h : UnitWork s t) {r : Nat} : UnitWork s (t.routerRailOff r) := by
  have key := not_fixedKey_ldoKey r (rail := 1) (by decide)
  exact (h.dropRegs.setFld key).setFld key

theorem computeOff (h : UnitWork s t) {r : Nat} : UnitWork s (t.computeOff r) := h.computeRailOff.setRegion

theorem fullOff (h : UnitWork s t) {r : Nat} : UnitWork s (t.fullOff r) := h.computeRailOff.routerRailOff.setRegion.setRegion

theorem dieUnitsOut (h : UnitWork s t) {d : Nat} : UnitWork s (t.dieUnitsOut d) := by
  refine UnitWork.foldl _ (h.foldl _ fun u p _ hu => ?_) fun u p hp hu => hu.setPstate (List.mem_range.1 hp)
  split
  · exact hu.setHport
  · exact hu

theorem holdRow (h : UnitWork s t) {d py : Nat} : UnitWork s (t.holdRow d py) := by
  refine h.foldl _ fun u px _ hu => ?_
  dsimp only
  split
  · exact hu
  · exact hu.setCell

theorem writeSkips (h : UnitWork s t) {d py : Nat} {src : Nat → Nat} (hpy : py < 48) : UnitWork s (t.writeSkips d py src) :=
  h.setReg (not_fixedKey_dieKey d (by simp only [FUSE_SKIP]; omega))

theorem fuseRegs (h : UnitWork s t) {d : Nat} : UnitWork s (t.fuseRegs d) :=
  (((h.setReg (not_fixedKey_dieKey d (by decide))).setReg (not_fixedKey_dieKey d (by decide))).setReg
    (not_fixedKey_dieKey d (by decide))).setReg (not_fixedKey_dieKey d (by decide))

theorem skipDie (h : UnitWork s t) {d : Nat} : UnitWork s (t.skipDie d) := by
  refine UnitWork.fuseRegs (UnitWork.setFld (UnitWork.setFld (h.foldl _ fun u py hpy hu => ?_)
    (not_fixedKey_dieKey d (by decide))) (not_fixedKey_dieKey d (by decide)))
  exact (hu.writeSkips (List.mem_range.1 hpy)).holdRow

/-! #### Memory (R262, R268, R272) -/

theorem memLast (h : UnitWork s t) {g : GLoc} {cls a syn : Nat} : UnitWork s (t.memLast g cls a syn) :=
  (h.setReg (not_fixedKey_memKey g.d g.n (by decide) (by decide))).setReg (not_fixedKey_memKey g.d g.n (by decide) (by decide))

theorem memRaise (h : UnitWork s t) {g : GLoc} {cls a syn detail : Nat} {struck : Option Nat} :
    UnitWork s (t.memRaise g cls a syn detail struck) := h.memLast.raise

theorem memRaiseLim (h : UnitWork s t) {g : GLoc} {cls a syn : Nat} : UnitWork s (t.memRaiseLim g cls a syn) := by
  unfold State.memRaiseLim
  dsimp only
  split
  · exact h.raiseLim
  · exact h.raiseLim.memLast

theorem setBytes (h : UnitWork s t) {k : Nat} {l : List Byte} : UnitWork s (t.setBytes k l) :=
  h.of_eq (setBytes_part ..) (setBytes_regs ..) (by simp)

theorem putHalf (h : UnitWork s t) {a w chk : Nat} : UnitWork s (t.putHalf a w chk) := h.setBytes.setBytes

theorem writeHalf (h : UnitWork s t) {a w : Nat} : UnitWork s (t.writeHalf a w) := h.putHalf

theorem poisonHalf (h : UnitWork s t) {a : Nat} : UnitWork s (t.poisonHalf a) := h.putHalf

theorem halfTest (h : UnitWork s t) {g : GLoc} : UnitWork s (t.halfTest g) := h.of_eq rfl rfl rfl

theorem tagWrong (h : UnitWork s t) {g : GLoc} {a : Nat} : UnitWork s (t.tagWrong g a) := by
  have poisoned := (h.setBytes (k := gddrTagKey a) (l := toLe 4 0)).foldl (f := fun t i => t.poisonHalf (a / 960 * 960 + 32 * i)) (List.range 30)
    fun _ _ _ hu => hu.poisonHalf
  exact (poisoned.incSatUn (not_fixedKey_memKey g.d g.n (by decide) (by decide))).halfTest.memRaise

theorem readHalf (h : UnitWork s t) {g : GLoc} {a : Nat} : UnitWork s (t.readHalf g a).1 := by
  have key := not_fixedKey_memKey g.d g.n (o := MEM_ECC_CNT) (by decide) (by decide)
  unfold State.readHalf
  dsimp only
  split <;> dsimp only
  · exact h
  · exact (h.writeHalf.incSatUn key).memRaiseLim
  · exact h.incSatUn key
  · exact (h.poisonHalf.incSatUn key).halfTest.memRaise

theorem readHalves (h : UnitWork s t) {g : GLoc} {a len : Nat} : UnitWork s (t.readHalves g a len).1 := by
  unfold State.readHalves
  split
  · exact h.tagWrong
  · refine List.foldlRecOn (motive := fun q : State × List Byte × List Nat => UnitWork s q.1) _ _ h fun q hq half _ => ?_
    have read := hq.readHalf (g := g) (a := half)
    split <;> (rename_i e; rw [e] at read; exact read)

theorem keptCheck (h : UnitWork s t) : UnitWork s t.keptCheck := by
  refine h.foldl _ fun u e _ hu => hu.foldl _ fun v i _ hv => ?_
  dsimp only
  split
  · exact hv.readHalves
  · exact hv

/-! #### Events to the hosts (R331-R333) -/

theorem emit (h : UnitWork s t) {o : Out} : UnitWork s (t.emit o) := h.of_eq rfl rfl rfl

theorem evqPut (h : UnitWork s t) {port kind : Nat} {body : List Byte} : UnitWork s (t.evqPut port kind body) :=
  (h.setBytes.emit.setHport).incWrap (not_fixedKey_pcieKey port (by decide))

theorem evqLoss (h : UnitWork s t) {port : Nat} : UnitWork s (t.evqLoss port) := by
  unfold State.evqLoss
  dsimp only
  split
  · exact h.setHport.evqPut
  · exact h

theorem evqWrite (h : UnitWork s t) {port kind : Nat} {body : List Byte} : UnitWork s (t.evqWrite port kind body) := by
  unfold State.evqWrite
  dsimp only
  split
  · exact h
  · split
    · exact h.evqLoss.evqPut
    · exact (h.evqLoss.incSat (not_fixedKey_pcieKey port (by decide))).setHport

theorem event (h : UnitWork s t) {kind : Nat} {body : List Byte} : UnitWork s (t.event kind body) :=
  h.foldl _ fun _ _ _ hu => hu.evqWrite

theorem raiseAll (h : UnitWork s t) {v : Nat} : UnitWork s (t.raiseAll v) :=
  h.of_within (within_raiseAll (List.Subset.refl _) (within_refl t)) (by decide) (by decide)

end UnitWork

/-! ### The end of a phase (R459, R461) -/

section
variable (u : State) (p : Nat)

theorem reg_endPhase {k : Nat} (h1 : k ≠ ecKey BOOT_STAT) (h2 : k ≠ ecKey (BOOT_PTIME + 4 * (p - 1))) : (u.endPhase p).reg k = u.reg k := by
  change ((u.setReg _ _).setFld _ 0 4 _).reg k = _
  rw [reg_setFld_other _ _ _ _ h1, reg_setReg_other _ _ h2]

theorem fld_endPhase {k : Nat} (h1 : k ≠ ecKey BOOT_STAT) (h2 : k ≠ ecKey (BOOT_PTIME + 4 * (p - 1))) (lo w : Nat) :
    (u.endPhase p).fld k lo w = u.fld k lo w := by simp only [State.fld, reg_endPhase u p h1 h2]

theorem boot_endPhase : (u.endPhase p).boot = { u.boot with phaseStart := u.now, nextDie := 0 } := rfl

theorem err_endPhase : (u.endPhase p).err = u.err := rfl

/-- A memory device's registers lie outside engine control. -/
theorem devState_endPhase (hp : p ≤ 10) (d n : Nat) : (u.endPhase p).devState d n = u.devState d n := by
  refine fld_endPhase u p ?_ ?_ 0 3 <;> simp only [memKey, dieKey, ecKey, MEM_STAT, BOOT_STAT, BOOT_PTIME] <;> omega

/-- A phase ends at the time, and with the beginning, that the state it began in gives. -/
theorem phaseEnds_endPhase {s : State} (hp : 1 ≤ p) (hp' : p ≤ 9) (hnow : u.now = s.now) (hstart : u.boot.phaseStart = s.boot.phaseStart) :
    s.phaseEnds (u.endPhase p) p := by
  have key : ecKey (BOOT_PTIME + 4 * (p - 1)) ≠ ecKey BOOT_STAT := by simp only [ecKey, BOOT_PTIME, BOOT_STAT]; omega
  refine ⟨?_, ?_, hnow, rfl⟩
  · change ((u.setReg _ _).setFld (ecKey BOOT_STAT) 0 4 (p + 1)).fld _ 0 4 = _
    rw [fld_setFld_same _ _ (by decide)]
    omega
  · change ((u.setReg _ _).setFld (ecKey BOOT_STAT) 0 4 (p + 1)).reg _ = _
    rw [reg_setFld_other _ _ _ _ key, reg_setReg_same, hnow, hstart]

end

theorem phase_of_inPhase {s : State} {p : Nat} (h : s.inPhase p = true) : s.fld (ecKey BOOT_STAT) 0 4 = p := by
  simp only [State.inPhase, Bool.and_eq_true, beq_iff_eq] at h
  exact h.1.1.1

/-! ### Phase 7: training the memory devices (R271) -/

/-- MEM_STAT.STATE of a device after its training. -/
def trainedState (s : State) (d n : Nat) (ts : List DevTest) : Nat :=
  if s.fused 7 d n = true then 7
  else if ((ts.find? fun q => q.die == d && q.dev == n).map (State.devCause s.warm)).getD 0 = 0 then 3 else 5

/-- A device has its state after training, and its record where it failed. -/
def Trained (d n v : Nat) (t : State) : Prop :=
  t.devState d n = v ∧ (t.devState d n = 5 → ∃ r ∈ t.err.recQ, r.cls = 0x48 ∧ r.loc = .dieUnit d n)

theorem Trained.mono {d n v : Nat} {t u : State} (h : Trained d n v t) (hst : u.devState d n = t.devState d n) (hrec : t.err.recQ <+: u.err.recQ) :
    Trained d n v u := by
  obtain ⟨hv, hr⟩ := h
  refine ⟨hst.trans hv, fun h5 => ?_⟩
  obtain ⟨r, hmem, hcls⟩ := hr (hst ▸ h5)
  exact ⟨r, hrec.subset hmem, hcls⟩

/-- The fuses of another unit stay as they are when one is confirmed. -/
theorem fused_confirmFuse (s : State) {typ src d loc typ' d' loc' : Nat} (h : ¬ (typ = typ' ∧ d = d' ∧ loc = loc')) :
    (s.confirmFuse typ src d loc).fused typ' d' loc' = s.fused typ' d' loc' := by
  unfold State.confirmFuse
  dsimp only
  split
  · simp only [State.fused, State.isHard, State.hardFuses, List.any_map]
    congr 2
    funext e
    simp only [Function.comp, RmapEntry.live]
    split <;> rfl
  · split
    · have new : ∀ b : Bool, (b && typ == typ' && d == d' && loc == loc') = false := by
        intro b
        simp only [Bool.and_eq_false_iff, beq_eq_false_iff_ne]
        tauto
      simp only [State.fused, State.isHard, State.hardFuses, List.any_append, List.any_cons, List.any_nil, new, Bool.or_false]
    · rfl

theorem fused_setReg (s : State) (k : Nat) (v : DWord) (typ d loc : Nat) : (s.setReg k v).fused typ d loc = s.fused typ d loc := rfl

theorem fused_setFld (s : State) (k lo w v typ d loc : Nat) : (s.setFld k lo w v).fused typ d loc = s.fused typ d loc := rfl

theorem fused_memRaise (s : State) (g : GLoc) (cls a syn detail : Nat) (struck : Option Nat) (typ d loc : Nat) :
    (s.memRaise g cls a syn detail struck).fused typ d loc = s.fused typ d loc := by
  simp only [State.memRaise, State.memLast, State.fused, State.isHard, State.hardFuses, raise_flash, setReg_flash]

variable {ts : List DevTest} {d n : Nat}

/-- The training of a device: its units' work, the device's new state, and the record of a failure. -/
theorem devTrain_cases (s : State) (d n : Nat) (ts : List DevTest) :
    ∃ u, UnitWork s u ∧ UnitWork (u.setFld (memKey d n MEM_STAT) 0 3 (trainedState s d n ts)) (s.devTrain d n ts) ∧
      (trainedState s d n ts = 5 → ∃ r ∈ (s.devTrain d n ts).err.recQ, r.cls = 0x48 ∧ r.loc = .dieUnit d n) := by
  unfold State.devTrain trainedState
  dsimp only
  split
  · exact ⟨s, .refl s, .refl _, fun h => absurd h (by decide)⟩
  · have key := not_fixedKey_memKey d n (o := MEM_TRAIN_STAT) (by decide) (by decide)
    rw [show State.devCause s.warm ((ts.find? fun t => t.die == d && t.dev == n).getD
        { die := d, dev := n, attempts := 1, failch := 0, corr := 0, uncorr := false, tagBad := false }) =
        ((ts.find? fun q => q.die == d && q.dev == n).map (State.devCause s.warm)).getD 0 by
      cases ts.find? fun q => q.die == d && q.dev == n <;> simp [State.devCause]]
    split
    · exact ⟨_, (UnitWork.refl s).setReg key, .refl _, fun h => absurd h (by decide)⟩
    · exact ⟨_, (UnitWork.refl s).setReg key, (UnitWork.refl _).confirmFuse.memRaise,
        fun _ => ⟨_, List.mem_append_right _ List.mem_cons_self, rfl, rfl⟩⟩

theorem trained_devTrain (s : State) (hd : d < 8) (hn : n < 12) : Trained d n (trainedState s d n ts) (s.devTrain d n ts) := by
  obtain ⟨u, -, hwork, hrec⟩ := devTrain_cases s d n ts
  have hst : (s.devTrain d n ts).devState d n = trainedState s d n ts := by
    rw [hwork.devState hd hn, State.devState, fld_setFld_same _ _ (by decide)]
    unfold trainedState
    split
    · rfl
    · split <;> rfl
  exact ⟨hst, fun h => hrec (hst ▸ h)⟩

/-- Registers and records under the training of a device. -/
theorem reg_devTrain (s : State) {k : Nat} (hk : fixedKey k) (h : k ≠ memKey d n MEM_STAT) : (s.devTrain d n ts).reg k = s.reg k := by
  obtain ⟨u, hu, hwork, -⟩ := devTrain_cases s d n ts
  rw [hwork.reg k hk, reg_setFld_other _ _ _ _ h, hu.reg k hk]

theorem recs_devTrain (s : State) : s.err.recQ <+: (s.devTrain d n ts).err.recQ := by
  obtain ⟨u, hu, hwork, -⟩ := devTrain_cases s d n ts
  have later := hwork.recs
  rw [setFld_err] at later
  exact hu.recs.trans later

theorem within_devTrain_self (s : State) : s.within [.regs, .flash, .err] (s.devTrain d n ts) :=
  within_devTrain (List.Subset.refl _) (within_refl s)

/-- The training of one device tells nothing of another. -/
theorem trainedState_devTrain_other (s : State) {e m : Nat} (h : ¬ (d = e ∧ n = m)) :
    trainedState (s.devTrain d n ts) e m ts = trainedState s e m ts := by
  have hwarm : (s.devTrain d n ts).warm = s.warm := by
    simp only [State.warm, within_boot (within_devTrain_self s) (by decide)]
  have hfused : (s.devTrain d n ts).fused 7 e m = s.fused 7 e m := by
    unfold State.devTrain
    dsimp only
    split
    · rw [fused_setFld]
    · split
      · rw [fused_setFld, fused_setReg]
      · rw [fused_memRaise, fused_confirmFuse _ fun hx => h hx.2, fused_setFld, fused_setReg]
  simp only [trainedState, hwarm, hfused]

theorem devState_devTrain_other (s : State) {e m : Nat} (he : e < 8) (hm : m < 12) (hn : n < 12) (h : ¬ (d = e ∧ n = m)) :
    (s.devTrain d n ts).devState e m = s.devState e m := by
  have key : memKey e m MEM_STAT ≠ memKey d n MEM_STAT := by simp only [memKey, dieKey, MEM_STAT]; omega
  simp only [State.devState, State.fld, reg_devTrain s (fixedKey_memStat he hm) key]

/-- Phase 7 over the memory devices of the dies `ds`. -/
def trainDevs (s : State) (ts : List DevTest) (ds : List Nat) : State :=
  ds.foldl (fun t d => (List.range 12).foldl (fun u n => u.devTrain d n ts) t) s

theorem trainDevs_trained (s : State) {ds : List Nat} (hds : ds.Nodup) (hd8 : ∀ d ∈ ds, d < 8) (hd : d ∈ ds) (hn : n < 12) :
    Trained d n (trainedState s d n ts) (trainDevs s ts ds) := by
  have keep : ∀ (t : State) (e : Nat), ∀ m ∈ List.range 12, ¬ (e = d ∧ m = n) →
      Trained d n (trainedState s d n ts) t → Trained d n (trainedState s d n ts) (t.devTrain e m ts) := fun t e m hm hne ht =>
    ht.mono (devState_devTrain_other t (hd8 d hd) hn (List.mem_range.1 hm) hne) (recs_devTrain t)
  refine foldl_establishes (I := fun t => trainedState t d n ts = trainedState s d n ts) (x := d) ?_ ?_ ?_ hds hd rfl
  · intro t e _ hne ht
    exact List.foldlRecOn (motive := fun t => trainedState t d n ts = trainedState s d n ts) _ _ ht fun u hu m _ =>
      (trainedState_devTrain_other u fun h => hne h.1).trans hu
  · intro t ht
    refine foldl_establishes (I := fun t => trainedState t d n ts = trainedState s d n ts) (x := n) ?_ ?_ ?_ List.nodup_range
      (List.mem_range.2 hn) ht
    · exact fun u m _ hne hu => (trainedState_devTrain_other u fun h => hne h.2).trans hu
    · exact fun u hu => hu ▸ trained_devTrain u (hd8 d hd) hn
    · exact fun u m hm hne hu => keep u d m hm (fun h => hne h.2) hu
  · intro t e _ hne ht
    exact List.foldlRecOn _ _ ht fun u hu m hm => keep u e m hm (fun h => hne h.1) hu

/-- Phase 7 over the Xildo ports of the dies `ds`. -/
def startPortsOf (s : State) (lanes : List (Nat × Nat)) (credits : List (Nat × Nat × Nat)) (ds : List Nat) : State :=
  ds.foldl (fun t d => (List.range 3).foldl (fun u p => u.portStart d p lanes credits) t) s

theorem startPortsOf_work (s : State) (lanes : List (Nat × Nat)) (credits : List (Nat × Nat × Nat)) (ds : List Nat) :
    UnitWork s (startPortsOf s lanes credits ds) :=
  (UnitWork.refl s).foldl _ fun _ _ _ ht => ht.foldl _ fun _ _ hp hu => hu.portStart (List.mem_range.1 hp)

/-- The dies that are not excluded. -/
def liveDies (s : State) : List Nat := (List.range s.part.dies).filter fun d => !s.isExcluded d

theorem linkTraining_eq {s : State} (h : s.inPhase 7 = true) (ts : List DevTest) (lanes : List (Nat × Nat)) (credits : List (Nat × Nat × Nat)) :
    s.linkTraining ts lanes credits = (startPortsOf (trainDevs s ts (liveDies s)) lanes credits (liveDies s)).endPhase 7 := by
  unfold State.linkTraining
  rw [h]
  rfl

theorem within_trainDevs (s : State) (ds : List Nat) : s.within [.regs, .flash, .err] (trainDevs s ts ds) :=
  within_foldl _ (fun _ _ ht => within_foldl _ (fun _ _ hu => within_devTrain (List.Subset.refl _) hu) ht) (within_refl s)

theorem within_startPortsOf (s : State) (lanes : List (Nat × Nat)) (credits : List (Nat × Nat × Nat)) (ds : List Nat) :
    s.within [.regs, .ctxs, .tags, .fports, .flash, .err, .out] (startPortsOf s lanes credits ds) :=
  within_foldl _ (fun _ _ ht => within_foldl _ (fun _ _ hu => within_portStart (List.Subset.refl _) hu) ht) (within_refl s)

theorem dies_le (p : Part) : p.dies ≤ 8 := by cases p <;> decide

/-- Phase 7 ends, and every memory device of a die not excluded stands as its training leaves it (R65; R271). -/
theorem phase_seven (s : State) (ts : List DevTest) (lanes : List (Nat × Nat)) (credits : List (Nat × Nat × Nat)) (h : s.inPhase 7 = true) :
    s.phaseEnds (s.linkTraining ts lanes credits) 7 ∧ ∀ d n, d < s.part.dies → n < 12 → s.isExcluded d = false →
      Trained d n (trainedState s d n ts) (s.linkTraining ts lanes credits) := by
  rw [linkTraining_eq h]
  have hports := startPortsOf_work (trainDevs s ts (liveDies s)) lanes credits (liveDies s)
  have wdevs := within_trainDevs (ts := ts) s (liveDies s)
  have wports := within_startPortsOf (trainDevs s ts (liveDies s)) lanes credits (liveDies s)
  refine ⟨phaseEnds_endPhase _ 7 (by decide) (by decide) ((within_now wports).trans (within_now wdevs)) ?_, fun d n hd hn hex => ?_⟩
  · rw [within_boot wports (by decide), within_boot wdevs (by decide)]
  · have dies8 : ∀ e ∈ liveDies s, e < 8 := fun e he =>
      lt_of_lt_of_le (List.mem_range.1 (List.mem_filter.1 he).1) (dies_le s.part)
    have live : d ∈ liveDies s := List.mem_filter.2 ⟨List.mem_range.2 hd, by simp [hex]⟩
    have trained := trainDevs_trained (ts := ts) s (List.nodup_range.filter _) dies8 live hn
    refine (trained.mono (hports.devState (dies8 d live) hn) hports.recs).mono ?_ List.prefix_rfl
    exact devState_endPhase _ 7 (by decide) d n

/-! ### Phase 8: the largest rectangle (R65) -/

/-- A rectangle is no better than another: smaller, or equal and behind it by height, column and row (R65). -/
def Outdone (q r : State.Rect) : Prop :=
  q.area < r.area ∨ (q.area = r.area ∧ (q.h < r.h ∨ (q.h = r.h ∧ (r.dc < q.dc ∨ (r.dc = q.dc ∧ r.dr ≤ q.dr)))))

theorem Outdone.refl (q : State.Rect) : Outdone q q := .inr ⟨rfl, .inr ⟨rfl, .inr ⟨rfl, le_rfl⟩⟩⟩

theorem Outdone.trans {a b c : State.Rect} (h : Outdone a b) (g : Outdone b c) : Outdone a c := by
  unfold Outdone at *
  omega

theorem outdone_of_better {a b : State.Rect} (h : a.better b = true) : Outdone b a := by
  simp only [State.Rect.better, Bool.or_eq_true, Bool.and_eq_true, decide_eq_true_eq, beq_iff_eq] at h
  unfold Outdone
  omega

theorem outdone_of_not_better {a b : State.Rect} (h : ¬ a.better b = true) : Outdone a b := by
  simp only [State.Rect.better, Bool.or_eq_true, Bool.and_eq_true, decide_eq_true_eq, beq_iff_eq] at h
  unfold Outdone
  omega

/-- The better of the rectangle found so far and another. -/
def keepBetter (a : Option State.Rect) (r : State.Rect) : Option State.Rect :=
  match a with | some b => if r.better b then some r else some b | none => some r

/-- From a rectangle on, a fold finds one that outdoes it and every rectangle of the list. -/
theorem foldl_keepBetter (l : List State.Rect) (b : State.Rect) :
    ∃ r, l.foldl keepBetter (some b) = some r ∧ (r = b ∨ r ∈ l) ∧ Outdone b r ∧ ∀ q ∈ l, Outdone q r := by
  induction l generalizing b with
  | nil => exact ⟨b, rfl, .inl rfl, .refl b, fun _ h => absurd h List.not_mem_nil⟩
  | cons x l ih =>
    have next : ∃ c, keepBetter (some b) x = some c ∧ (c = b ∨ c = x) ∧ Outdone b c ∧ Outdone x c := by
      unfold keepBetter
      dsimp only
      split
      · exact ⟨x, rfl, .inr rfl, outdone_of_better ‹_›, .refl x⟩
      · exact ⟨b, rfl, .inl rfl, .refl b, outdone_of_not_better ‹_›⟩
    obtain ⟨c, hc, horig, hbc, hxc⟩ := next
    obtain ⟨r, hr, hrorig, hcr, hl⟩ := ih c
    refine ⟨r, by rw [List.foldl_cons, hc, hr], ?_, hbc.trans hcr, fun q hq => ?_⟩
    · rcases hrorig with rfl | h
      · exact horig.imp id fun e => by simp [e]
      · exact .inr (List.mem_cons_of_mem _ h)
    · rcases List.mem_cons.1 hq with rfl | h
      · exact hxc.trans hcr
      · exact hl q h

/-- A rectangle that holds no excluded die. -/
def Free (p : Part) (excl : Nat → Bool) (q : State.Rect) : Prop := ∀ d, d < p.dies → q.holds p d = true → excl d = false

/-- The rectangles without an excluded die. -/
def freeRects (p : Part) (excl : Nat → Bool) : List State.Rect :=
  (State.rects p).filter fun r => (List.range p.dies).all fun d => !(r.holds p d && excl d)

theorem mem_freeRects {p : Part} {excl : Nat → Bool} {q : State.Rect} : q ∈ freeRects p excl ↔ q ∈ State.rects p ∧ Free p excl q := by
  simp only [freeRects, Free, List.mem_filter, List.all_eq_true, List.mem_range, Bool.not_eq_true', Bool.and_eq_false_imp]

theorem bestRect_eq (p : Part) (excl : Nat → Bool) : State.bestRect p excl = (freeRects p excl).foldl keepBetter none := rfl

/-- No rectangle is published where every one holds an excluded die. -/
theorem bestRect_none {p : Part} {excl : Nat → Bool} (h : ∀ q ∈ State.rects p, ∃ d, d < p.dies ∧ q.holds p d = true ∧ excl d = true) :
    State.bestRect p excl = none := by
  have none_free : freeRects p excl = [] := List.eq_nil_iff_forall_not_mem.2 fun q hq => by
    obtain ⟨hmem, hfree⟩ := mem_freeRects.1 hq
    obtain ⟨d, hd, hholds, hexcl⟩ := h q hmem
    exact absurd (hfree d hd hholds) (by simp [hexcl])
  rw [bestRect_eq, none_free]
  rfl

/-- Where a rectangle holds no excluded die, the one published is such a rectangle and outdoes every other. -/
theorem bestRect_some {p : Part} {excl : Nat → Bool} (h : ∃ q ∈ State.rects p, Free p excl q) :
    ∃ r, State.bestRect p excl = some r ∧ r ∈ State.rects p ∧ Free p excl r ∧ ∀ q ∈ State.rects p, Free p excl q → Outdone q r := by
  obtain ⟨q, hq, hfree⟩ := h
  have hmem : q ∈ freeRects p excl := mem_freeRects.2 ⟨hq, hfree⟩
  rw [bestRect_eq]
  match hl : freeRects p excl with
  | [] => exact absurd (hl ▸ hmem) List.not_mem_nil
  | b :: l =>
    obtain ⟨r, hr, horig, hb, hall⟩ := foldl_keepBetter l b
    have hin : r ∈ freeRects p excl := hl ▸ List.mem_cons.2 horig
    refine ⟨r, hr, (mem_freeRects.1 hin).1, (mem_freeRects.1 hin).2, fun x hx hxf => ?_⟩
    rcases List.mem_cons.1 (hl ▸ mem_freeRects.2 ⟨hx, hxf⟩) with rfl | h
    · exact hb
    · exact hall x h

/-- A rectangle lies within the module's die columns and rows. -/
theorem rect_bounds {p : Part} {r : State.Rect} (h : r ∈ State.rects p) : r.w ≤ 4 ∧ r.h ≤ 2 ∧ r.dc < 4 ∧ r.dr < 2 := by
  have hc : p.cols ≤ 4 := by cases p <;> decide
  have hr : p.rows ≤ 2 := by cases p <;> decide
  simp only [State.rects, List.mem_flatMap, List.mem_map, List.mem_range] at h
  obtain ⟨dc, hdc, dr, hdr, w, hw, h, hh, rfl⟩ := h
  dsimp only
  omega

/-! ### Phase 8: exclusions (R64, R66) -/

/-- `t` comes from `s` by exclusions: only the dies' states, the engine controller's place and the units' work change. -/
structure Excludes (s t : State) : Prop where
  part : t.part = s.part
  reg : ∀ k, fixedKey k → k ≠ ecKey BOOT_DIE_STATE → k ≠ ecKey BOOT_STAT → t.reg k = s.reg k
  stat : ∀ lo w, lo + w ≤ 7 → t.fld (ecKey BOOT_STAT) lo w = s.fld (ecKey BOOT_STAT) lo w

theorem UnitWork.excludes {s t : State} (h : UnitWork s t) : Excludes s t :=
  ⟨h.part, fun k hk _ _ => h.reg k hk, fun lo w _ => h.fld (fixedKey_ecKey (by decide)) lo w⟩

namespace Excludes

variable {s t u : State}

theorem refl (s : State) : Excludes s s := (UnitWork.refl s).excludes

theorem trans (h : Excludes s t) (g : Excludes t u) : Excludes s u :=
  ⟨g.part.trans h.part, fun k hk h1 h2 => (g.reg k hk h1 h2).trans (h.reg k hk h1 h2), fun lo w hw => (g.stat lo w hw).trans (h.stat lo w hw)⟩

theorem devState (h : Excludes s t) {d n : Nat} (hd : d < 8) (hn : n < 12) : t.devState d n = s.devState d n := by
  have key : memKey d n MEM_STAT ≠ ecKey BOOT_DIE_STATE ∧ memKey d n MEM_STAT ≠ ecKey BOOT_STAT := by
    simp only [memKey, dieKey, ecKey, MEM_STAT, BOOT_DIE_STATE, BOOT_STAT]; omega
  simp only [State.devState, State.fld, h.reg _ (fixedKey_memStat hd hn) key.1 key.2]

theorem setDieState (h : Excludes s t) {lo w v : Nat} : Excludes s (t.setFld (ecKey BOOT_DIE_STATE) lo w v) :=
  h.trans ⟨rfl, fun _ _ h1 _ => reg_setFld_other _ _ _ _ h1, fun _ _ _ => fld_setFld_other _ _ _ _ _ _ (by decide)⟩

/-- The fields of BOOT_STAT above its low seven bits. -/
theorem setStat (h : Excludes s t) {lo w v : Nat} (hlo : 7 ≤ lo) (hw : lo + w ≤ 64) : Excludes s (t.setFld (ecKey BOOT_STAT) lo w v) :=
  h.trans ⟨rfl, fun _ _ _ h2 => reg_setFld_other _ _ _ _ h2, fun _ _ hb => fld_setFld_apart _ _ hw (.inl (by omega))⟩

theorem excludeDie (h : Excludes s t) {d reason : Nat} {inService : Bool} : Excludes s (t.excludeDie d reason inService) := by
  unfold State.excludeDie
  dsimp only
  generalize reason + d * 2 ^ 8 + (if inService = true then 2 ^ 11 else 0) = detail
  have out : Excludes s ((((t.setFld (ecKey BOOT_DIE_STATE) (2 * d) 2 3).raise 0x8A (.dieUnit d 0) detail none).setFld (dieKey d CLK_STAT)
      0 4 0).dieUnitsOut d) :=
    h.setDieState.trans ((UnitWork.refl _).raise.setFld (not_fixedKey_dieKey d (by decide))).dieUnitsOut.excludes
  split
  · exact (out.setStat le_rfl (by decide)).setStat (by decide) (by decide)
  · exact out

theorem foldl {α : Type} {f : State → α → State} (l : List α) (h : Excludes s t) (hf : ∀ u x, Excludes s u → Excludes s (f u x)) :
    Excludes s (l.foldl f t) :=
  List.foldlRecOn l f h fun u hu x _ => hf u x hu

theorem boundaryExclude (h : Excludes s t) {faults : List (Nat × Nat × Nat)} {d e side : Nat} :
    Excludes s (t.boundaryExclude faults d e side) := by
  unfold State.boundaryExclude
  dsimp only
  split
  · exact h
  · exact h.excludeDie

theorem excludeAll (h : Excludes s t) {faults : List (Nat × Nat × Nat)} : Excludes s (t.excludeAll faults) := by
  refine Excludes.foldl _ (h.foldl _ fun u d hu => ?_) fun u d hu => hu.foldl _ fun v side hv => ?_
  · split
    · exact hu.excludeDie
    · exact hu
  · split
    · exact hv.boundaryExclude
    · exact hv

theorem excludeFound (h : Excludes s t) : Excludes s t.excludeFound := by
  refine h.foldl _ fun u e hu => ?_
  split
  · exact hu
  · exact hu.excludeDie

end Excludes

/-- The merge, the promotions and the exclusions of phase 8. -/
def merged (s : State) (faults : List (Nat × Nat × Nat)) : State := s.mergeCells.promoteAll.excludeFound.excludeAll faults

theorem merged_excludes (s : State) (faults : List (Nat × Nat × Nat)) : Excludes s (merged s faults) := by
  have fuses : UnitWork s s.mergeCells.promoteAll := by
    refine UnitWork.foldl _ ?_ fun _ _ _ hu => hu.raise
    exact (UnitWork.refl s).of_eq rfl rfl rfl
  exact fuses.excludes.excludeFound.excludeAll

theorem within_merged (s : State) (faults : List (Nat × Nat × Nat)) : s.mergeCells.within [.regs, .hports, .flash, .err] (merged s faults) :=
  within_excludeAll (by decide) (within_excludeFound (by decide) (within_promoteAll (by decide) (within_refl _)))

/-! ### Phase 8: publication (R66, R263, R468) -/

/-- The state of a die once its regions are settled: BOOT_DIE_STATE 1 in canvas, 2 stranded, 3 excluded (R75). -/
def settledState (s : State) (r : State.Rect) (d : Nat) : Nat :=
  if s.isExcluded d = true then 3 else if r.holds s.part d = true then 1 else 2

/-- A die settles: its field of BOOT_DIE_STATE, and the units' work on its regions. -/
theorem settleDie_cases (s : State) (r : State.Rect) (d : Nat) :
    UnitWork (if s.isExcluded d = true then s else s.setFld (ecKey BOOT_DIE_STATE) (2 * d) 2 (settledState s r d)) (s.settleDie r d) := by
  unfold State.settleDie settledState
  split
  · refine (UnitWork.refl s).foldl _ fun u i _ hu => ?_
    split
    · exact hu
    · exact hu.fullOff
  · split
    · exact .refl _
    · refine (UnitWork.refl _).foldl _ fun u i _ hu => ?_
      split
      · exact hu
      · exact hu.computeOff

theorem excludes_settleDie (s : State) (r : State.Rect) (d : Nat) : Excludes s (s.settleDie r d) := by
  refine Excludes.trans ?_ (settleDie_cases s r d).excludes
  split
  · exact .refl s
  · exact (Excludes.refl s).setDieState

theorem dieState_settleDie_same (s : State) (r : State.Rect) {d : Nat} (hd : d < 8) : (s.settleDie r d).dieState d = settledState s r d := by
  unfold State.dieState
  rw [(settleDie_cases s r d).fld (fixedKey_ecKey (by decide)) (2 * d) 2]
  split
  · rename_i h
    rw [settledState, if_pos h]
    exact beq_iff_eq.1 h
  · rw [fld_setFld_same _ _ (by omega)]
    unfold settledState
    split
    · rfl
    · split <;> rfl

theorem dieState_settleDie_other (s : State) (r : State.Rect) {d e : Nat} (hd : d < 8) (h : d ≠ e) :
    (s.settleDie r d).dieState e = s.dieState e := by
  unfold State.dieState
  rw [(settleDie_cases s r d).fld (fixedKey_ecKey (by decide)) (2 * e) 2]
  split
  · rfl
  · exact fld_setFld_apart _ _ (by omega) (by omega)

/-- The dies below `n` settle in turn. -/
def settleDies (n : Nat) (s : State) (r : State.Rect) : State := (List.range n).foldl (fun t d => t.settleDie r d) s

theorem excludes_settleDies (n : Nat) (s : State) (r : State.Rect) : Excludes s (settleDies n s r) :=
  (Excludes.refl s).foldl _ fun u d hu => hu.trans (excludes_settleDie u r d)

theorem within_settleDies (n : Nat) (s : State) (r : State.Rect) : s.within [.regs, .cells, .regions, .band] (settleDies n s r) :=
  within_foldl _ (fun _ _ ht => within_settleDie (List.Subset.refl _) ht) (within_refl s)

theorem dieState_settleDies {n : Nat} (hn : n ≤ 8) (s : State) (r : State.Rect) {d : Nat} (hd : d < n) :
    (settleDies n s r).dieState d = settledState s r d := by
  have d8 : ∀ e ∈ List.range n, e < 8 := fun e he => lt_of_lt_of_le (List.mem_range.1 he) hn
  have hmem := List.mem_range.2 hd
  refine foldl_establishes (I := fun t => t.part = s.part ∧ t.dieState d = s.dieState d) (P := fun t => t.dieState d = settledState s r d)
    (x := d) ?_ ?_ ?_ List.nodup_range hmem ⟨rfl, rfl⟩
  · exact fun t e he hne ht => ⟨(excludes_settleDie t r e).part.trans ht.1, (dieState_settleDie_other t r (d8 e he) hne).trans ht.2⟩
  · intro t ht
    rw [dieState_settleDie_same t r (d8 d hmem)]
    unfold settledState State.isExcluded
    rw [ht.1, ht.2]
  · exact fun t e he hne ht => (dieState_settleDie_other t r (d8 e he) hne).trans ht

/-- Engine control apart from BOOT_CANVAS and its generation. -/
theorem reg_publishCanvas_other (s : State) (r : State.Rect) {k : Nat} (h1 : k ≠ ecKey BOOT_CANVAS) (h2 : k ≠ ecKey BOOT_CANVAS_GEN) :
    (s.publishCanvas r).reg k = s.reg k :=
  (reg_incWrap_other _ _ _ _ h2).trans (reg_setReg_other _ _ h1)

theorem gen_publishCanvas (s : State) (r : State.Rect) :
    (s.publishCanvas r).fld (ecKey BOOT_CANVAS_GEN) 0 32 = (s.fld (ecKey BOOT_CANVAS_GEN) 0 32 + 1) % 2 ^ 32 := by
  refine (fld_incWrap_same _ _ (by decide)).trans ?_
  rw [fld_setReg_other _ _ _ _ (by decide)]

/-- BOOT_CANVAS shows a rectangle of the module. -/
def ShowsCanvas (t : State) (r : State.Rect) : Prop :=
  t.canvasValid = true ∧ t.canvasW = 46 * r.w ∧ t.canvasH = 48 * r.h ∧ t.canvasDc = r.dc ∧ t.canvasDr = r.dr

theorem ShowsCanvas.of_reg {t u : State} {r : State.Rect} (h : ShowsCanvas t r) (e : u.reg (ecKey BOOT_CANVAS) = t.reg (ecKey BOOT_CANVAS)) :
    ShowsCanvas u r := by
  simpa only [ShowsCanvas, State.canvasValid, State.canvasW, State.canvasH, State.canvasDc, State.canvasDr, State.fld, e] using h

theorem showsCanvas_publishCanvas (s : State) {p : Part} {r : State.Rect} (h : r ∈ State.rects p) : ShowsCanvas (s.publishCanvas r) r := by
  obtain ⟨hw, hh, hdc, hdr⟩ := rect_bounds h
  have word : ∃ g, g ≤ 1 ∧ ((s.publishCanvas r).reg (ecKey BOOT_CANVAS)).toNat =
      46 * r.w + 48 * r.h * 2 ^ 8 + r.dc * 2 ^ 16 + r.dr * 2 ^ 18 + g * 2 ^ 19 + 2 ^ 22 := by
    refine ⟨if (List.range s.part.dies).any s.isExcluded = true then 1 else 0, by split <;> decide, ?_⟩
    unfold State.publishCanvas
    dsimp only
    rw [reg_incWrap_other _ _ _ _ (by decide), reg_setReg_same, BitVec.toNat_ofNat]
    split <;> omega
  obtain ⟨g, hg, hword⟩ := word
  have at8 : ((s.publishCanvas r).reg (ecKey BOOT_CANVAS)).toNat / 2 ^ 8 = 48 * r.h + (r.dc + r.dr * 4 + g * 8 + 64) * 2 ^ 8 := by omega
  have at16 : ((s.publishCanvas r).reg (ecKey BOOT_CANVAS)).toNat / 2 ^ 16 = r.dc + (r.dr + g * 2 + 16) * 4 := by omega
  have at18 : ((s.publishCanvas r).reg (ecKey BOOT_CANVAS)).toNat / 2 ^ 18 = r.dr + (g + 8) * 2 := by omega
  have at22 : ((s.publishCanvas r).reg (ecKey BOOT_CANVAS)).toNat / 2 ^ 22 = 1 := by omega
  simp only [ShowsCanvas, State.canvasValid, State.canvasW, State.canvasH, State.canvasDc, State.canvasDr, State.fld, bits, at8, at16, at18, at22]
  exact ⟨rfl, by omega, by omega, by omega, by omega⟩

theorem mem_newLive (s : State) (d n : Nat) :
    (d, n) ∈ s.newLive ↔ d < s.part.dies ∧ n < 12 ∧ s.isExcluded d = false ∧ (s.devState d n = 3 ∨ s.devState d n = 4) := by
  simp only [State.newLive, List.mem_flatMap, List.mem_filterMap, List.mem_range]
  constructor
  · rintro ⟨m, hm, e, he, hval⟩
    split at hval
    · rename_i hc
      obtain ⟨rfl, rfl⟩ := Prod.mk.inj (Option.some.inj hval)
      exact ⟨he, hm, by simpa using hc.1, hc.2⟩
    · cases hval
  · rintro ⟨hd, hn, hex, hst⟩
    exact ⟨n, hn, d, hd, if_pos ⟨by simp [hex], hst⟩⟩

theorem length_newLive (s : State) : s.newLive.length ≤ 96 := by
  have each : ∀ x ∈ (List.range 12).map fun n => ((List.range s.part.dies).filterMap fun d =>
      if !s.isExcluded d ∧ (s.devState d n = 3 ∨ s.devState d n = 4) then some (d, n) else none).length, x ≤ 8 := by
    intro x hx
    obtain ⟨n, -, rfl⟩ := List.mem_map.1 hx
    exact (List.length_filterMap_le _ _).trans (List.length_range.trans_le (dies_le s.part))
  have total := List.sum_le_card_nsmul _ 8 each
  simpa [State.newLive, List.length_flatMap] using total

/-- The registers that publish the live list: BOOT_GDDR_LIVE of each device, and its position in its MEM_CFG. -/
def showLive (s : State) (l : List ((Nat × Nat) × Nat)) : State :=
  l.foldl (fun t e => (t.setFld (ecKey (BOOT_GDDR_LIVE + 4 * ((12 * e.1.1 + e.1.2) / 32))) ((12 * e.1.1 + e.1.2) % 32) 1 1).setFld
    (memKey e.1.1 e.1.2 MEM_CFG) 8 7 e.2) s

theorem reg_showLive (s : State) (l : List ((Nat × Nat) × Nat)) {k : Nat} (hk : k < BOOT_GDDR_LIVE) : (showLive s l).reg k = s.reg k :=
  List.foldlRecOn (motive := fun t : State => t.reg k = s.reg k) _ _ rfl fun t ht e _ => by
    simp only [BOOT_GDDR_LIVE] at hk
    rw [reg_setFld_other _ _ _ _ (by simp only [memKey, dieKey]; omega), reg_setFld_other _ _ _ _ (by simp only [ecKey, BOOT_GDDR_LIVE]; omega), ht]

theorem within_showLive (s : State) (l : List ((Nat × Nat) × Nat)) : s.within [.regs] (showLive s l) :=
  within_foldl _ (fun _ _ ht => within_setFld (List.Subset.refl _) (within_setFld (List.Subset.refl _) ht)) (within_refl s)

/-- The registers of the live list, its length and its capacity (R263, R264). -/
def listLive (s : State) : State :=
  ((showLive s s.newLive.zipIdx).setFld (ecKey BOOT_GDDR_STAT) 0 7 s.newLive.length).setReg (ecKey BOOT_GDDR_CAP)
    (BitVec.ofNat 64 (s.newLive.length * (showLive s s.newLive.zipIdx).segs * 960))

theorem reg_setBoot (s : State) (b : Boot) (k : Nat) : (s.setBoot b).reg k = s.reg k := rfl
theorem fld_setBoot (s : State) (b : Boot) (k lo w : Nat) : (s.setBoot b).fld k lo w = s.fld k lo w := rfl
theorem now_setBoot (s : State) (b : Boot) : (s.setBoot b).now = s.now := rfl
theorem boot_setBoot (s : State) (b : Boot) : (s.setBoot b).boot = b := rfl

theorem boot_listLive (s : State) : (listLive s).boot = s.boot := by
  rw [listLive, setReg_boot, setFld_boot, within_boot (within_showLive s _) (by decide)]

theorem publishGddr_eq (s : State) : s.publishGddr =
    (listLive s).setBoot { (listLive s).boot with liveList := s.newLive, sameLive := decide (s.boot.liveList = s.newLive) } := rfl

theorem reg_publishGddr (s : State) {k : Nat} (hk : k < BOOT_GDDR_CAP) : s.publishGddr.reg k = s.reg k := by
  simp only [BOOT_GDDR_CAP] at hk
  rw [publishGddr_eq, reg_setBoot, listLive, reg_setReg_other _ _ (by simp only [ecKey, BOOT_GDDR_CAP]; omega),
    reg_setFld_other _ _ _ _ (by simp only [ecKey, BOOT_GDDR_STAT]; omega), reg_showLive _ _ (by simp only [BOOT_GDDR_LIVE]; omega)]

theorem stat_publishGddr (s : State) : s.publishGddr.fld (ecKey BOOT_GDDR_STAT) 0 7 = s.newLive.length := by
  rw [publishGddr_eq, fld_setBoot, listLive, fld_setReg_other _ _ _ _ (by decide), fld_setFld_same _ _ (by decide)]
  exact Nat.mod_eq_of_lt (by have := length_newLive s; omega)

theorem boot_publishGddr (s : State) :
    s.publishGddr.boot = { s.boot with liveList := s.newLive, sameLive := decide (s.boot.liveList = s.newLive) } := by
  rw [publishGddr_eq, boot_setBoot, boot_listLive]

/-- Every die's skip positions, spares and fuse registers are written. -/
def numberDies (n : Nat) (s : State) : State := (List.range n).foldl (fun t d => t.skipDie d) s

theorem numberDies_work (n : Nat) (s : State) : UnitWork s (numberDies n s) :=
  (UnitWork.refl s).foldl _ fun _ _ _ hu => hu.skipDie

/-- The engine after the dies settled, the canvas was published and its dies were numbered. -/
def canvasOut (n : Nat) (m : State) (r : State.Rect) : State := numberDies n ((settleDies n m r).publishCanvas r)

/-- The exclusions are judged, and the hash of the repair map is taken. -/
def closeMerge (s : State) : State := s.setBoot { s.boot with rmapHash := sha384 s.rmapBytes, excluded := [] }

/-- What phase 8 publishes. -/
def published (n : Nat) (m : State) (r : State.Rect) : State := closeMerge (canvasOut n m r).publishGddr

section
variable {s : State} (faults : List (Nat × Nat × Nat))

theorem fuseMerge_stays (h8 : s.inPhase 8 = true) (h0 : s.boot.nextDie = 0)
    (h : State.bestRect s.part (merged s faults).isExcluded = none ∨ (merged s faults).canvasAllowed = false) :
    s.fuseMerge faults = (merged s faults).reportNoCanvas := by
  unfold merged at h ⊢
  unfold State.fuseMerge
  simp only [h8, h0]
  rcases h with h | h
  · simp [h]
  · cases State.bestRect s.part (s.mergeCells.promoteAll.excludeFound.excludeAll faults).isExcluded <;> simp [h]

theorem fuseMerge_publishes (h8 : s.inPhase 8 = true) (h0 : s.boot.nextDie = 0) {r : State.Rect}
    (hr : State.bestRect s.part (merged s faults).isExcluded = some r) (hc : (merged s faults).canvasAllowed = true) :
    s.fuseMerge faults = (published s.part.dies (merged s faults) r).endPhase 8 := by
  unfold merged at hr hc ⊢
  unfold State.fuseMerge
  simp only [h8, h0, hr, hc]
  rfl

end

section
variable {n : Nat} (hn : n ≤ 8) (m : State) (r : State.Rect)

theorem within_canvasOut : m.within [.regs, .cells, .regions, .band] (canvasOut n m r) :=
  within_foldl _ (fun _ _ ht => within_skipDie (by decide) ht) (within_publishCanvas (by decide) (within_settleDies n m r))

include hn in
theorem dieState_canvasOut {d : Nat} (hd : d < n) : (canvasOut n m r).dieState d = settledState m r d := by
  rw [← dieState_settleDies hn m r hd]
  unfold State.dieState
  rw [canvasOut, (numberDies_work n _).fld (fixedKey_ecKey (by decide))]
  simp only [State.fld, reg_publishCanvas_other _ r (k := ecKey BOOT_DIE_STATE) (by decide) (by decide)]

include hn in
theorem isExcluded_canvasOut {d : Nat} (hd : d < n) : (canvasOut n m r).isExcluded d = m.isExcluded d := by
  rw [State.isExcluded, dieState_canvasOut hn m r hd]
  unfold settledState
  split
  · rename_i h; rw [h]; rfl
  · rename_i h; rw [Bool.eq_false_iff.2 h]; split <;> rfl

theorem part_canvasOut : (canvasOut n m r).part = m.part := within_part (within_canvasOut m r)

theorem devState_canvasOut {d k : Nat} (hd : d < 8) (hk : k < 12) : (canvasOut n m r).devState d k = m.devState d k := by
  have key : memKey d k MEM_STAT ≠ ecKey BOOT_CANVAS ∧ memKey d k MEM_STAT ≠ ecKey BOOT_CANVAS_GEN := by
    simp only [memKey, dieKey, ecKey, MEM_STAT, BOOT_CANVAS, BOOT_CANVAS_GEN]; omega
  rw [canvasOut, (numberDies_work n _).devState hd hk, ← (excludes_settleDies n m r).devState hd hk]
  simp only [State.devState, State.fld, reg_publishCanvas_other _ r key.1 key.2]

theorem showsCanvas_canvasOut {p : Part} (h : r ∈ State.rects p) : ShowsCanvas (canvasOut n m r) r :=
  (showsCanvas_publishCanvas _ h).of_reg ((numberDies_work n _).reg _ (fixedKey_ecKey (by decide)))

theorem gen_canvasOut : (canvasOut n m r).fld (ecKey BOOT_CANVAS_GEN) 0 32 = (m.fld (ecKey BOOT_CANVAS_GEN) 0 32 + 1) % 2 ^ 32 := by
  rw [canvasOut, (numberDies_work n _).fld (fixedKey_ecKey (by decide)), gen_publishCanvas]
  simp only [State.fld, (excludes_settleDies n m r).reg (ecKey BOOT_CANVAS_GEN) (fixedKey_ecKey (by decide)) (by decide) (by decide)]

end

/-- The report of a missing canvas: registers stay, and one record is raised. -/
theorem regs_reportNoCanvas (m : State) : m.reportNoCanvas.regs = m.regs := by
  simp only [State.reportNoCanvas, raise_regs, fresh_regs, State.setBoot]

theorem fld_reportNoCanvas (m : State) (k lo w : Nat) : m.reportNoCanvas.fld k lo w = m.fld k lo w := by
  simp only [State.reportNoCanvas, raise_fld, fresh_fld]
  rfl

theorem recQ_reportNoCanvas (m : State) : ∃ e, m.reportNoCanvas.err.recQ = m.err.recQ ++ [e] := ⟨_, rfl⟩

/-- With no canvas the engine stays in phase 8, and one record reports it (R67; log 41). -/
theorem phase_eight_stays {s : State} (faults : List (Nat × Nat × Nat)) (h8 : s.inPhase 8 = true) (h0 : s.boot.nextDie = 0)
    (h : (∀ q ∈ State.rects s.part, ∃ d, d < s.part.dies ∧ q.holds s.part d = true ∧ (merged s faults).isExcluded d = true) ∨
      (merged s faults).canvasAllowed = false) :
    (s.fuseMerge faults).fld (ecKey BOOT_STAT) 0 4 = 8 ∧ (s.fuseMerge faults).ready = s.ready ∧ (s.fuseMerge faults).regs = (merged s faults).regs ∧
      ∃ e, (s.fuseMerge faults).err.recQ = (merged s faults).err.recQ ++ [e] := by
  rw [fuseMerge_stays faults h8 h0 (h.imp_left bestRect_none)]
  have ex := merged_excludes s faults
  refine ⟨?_, ?_, regs_reportNoCanvas _, recQ_reportNoCanvas _⟩
  · rw [fld_reportNoCanvas, ex.stat 0 4 (by decide), phase_of_inPhase h8]
  · rw [State.ready, fld_reportNoCanvas, ex.stat 4 1 (by decide), State.ready]

/-- What phase 8 publishes of a canvas `r`, chosen over the exclusions of `m` (R65, R66, R75, R263, R468). -/
structure Publishes (s m t : State) (r : State.Rect) : Prop where
  canvas : ShowsCanvas t r
  gen : t.fld (ecKey BOOT_CANVAS_GEN) 0 32 = (s.fld (ecKey BOOT_CANVAS_GEN) 0 32 + 1) % 2 ^ 32
  dies : ∀ d, d < s.part.dies → t.dieState d = if m.isExcluded d = true then 3 else if r.holds s.part d = true then 1 else 2
  disabled : ∀ c, c ∈ t.boot.disabled ↔ c < s.part.dies * 2304 ∧ s.mergedBad c = true
  live : ∀ d n, (d, n) ∈ t.boot.liveList ↔ d < s.part.dies ∧ n < 12 ∧ m.isExcluded d = false ∧ (s.devState d n = 3 ∨ s.devState d n = 4)
  count : t.fld (ecKey BOOT_GDDR_STAT) 0 7 = t.boot.liveList.length

section
variable (n : Nat) (m : State) (r : State.Rect)

/-- The registers of the canvas after the publication of the live list and the end of the phase. -/
theorem reg_published {k : Nat} (h1 : BOOT_CANVAS ≤ k) (h2 : k < BOOT_GDDR_CAP) :
    ((published n m r).endPhase 8).reg k = (canvasOut n m r).reg k := by
  have clear : k ≠ ecKey BOOT_STAT ∧ k ≠ ecKey (BOOT_PTIME + 4 * (8 - 1)) := by
    simp only [BOOT_CANVAS, ecKey, BOOT_STAT, BOOT_PTIME] at *; omega
  rw [reg_endPhase _ _ clear.1 clear.2, published, closeMerge, reg_setBoot, reg_publishGddr _ h2]

theorem fld_published {k : Nat} (h1 : BOOT_CANVAS ≤ k) (h2 : k < BOOT_GDDR_CAP) (lo w : Nat) :
    ((published n m r).endPhase 8).fld k lo w = (canvasOut n m r).fld k lo w := by
  simp only [State.fld, reg_published n m r h1 h2]

theorem dieState_published (d : Nat) : ((published n m r).endPhase 8).dieState d = (canvasOut n m r).dieState d := by
  simp only [State.dieState, fld_published n m r (k := ecKey BOOT_DIE_STATE) (by decide) (by decide)]

theorem count_published : ((published n m r).endPhase 8).fld (ecKey BOOT_GDDR_STAT) 0 7 = (canvasOut n m r).newLive.length := by
  rw [fld_endPhase _ _ (by decide) (by decide), ← stat_publishGddr]
  simp only [State.fld, published, closeMerge, reg_setBoot]

theorem disabled_published : ((published n m r).endPhase 8).boot.disabled = m.boot.disabled := by
  rw [boot_endPhase]
  dsimp only
  rw [published, closeMerge, boot_setBoot, boot_publishGddr, within_boot (within_canvasOut (n := n) m r) (by decide)]

theorem liveList_published : ((published n m r).endPhase 8).boot.liveList = (canvasOut n m r).newLive := by
  rw [boot_endPhase]
  dsimp only
  rw [published, closeMerge, boot_setBoot, boot_publishGddr]

theorem phaseStart_published : (published n m r).boot.phaseStart = m.boot.phaseStart := by
  rw [published, closeMerge, boot_setBoot, boot_publishGddr, within_boot (within_canvasOut (n := n) m r) (by decide)]

theorem now_published : (published n m r).now = m.now := by
  rw [published, closeMerge, now_setBoot, within_now (within_publishGddr (List.Subset.refl _) (within_refl _)), within_now (within_canvasOut m r)]

end

/-- The merge itself changes the disabled cells and the holes. -/
theorem boot_merged (s : State) (faults : List (Nat × Nat × Nat)) :
    (merged s faults).boot = { s.boot with disabled := (List.range (s.part.dies * 2304)).filter s.mergedBad, holes := [] } :=
  within_boot (within_merged s faults) (by decide)

theorem now_merged (s : State) (faults : List (Nat × Nat × Nat)) : (merged s faults).now = s.now :=
  (within_now (within_merged s faults)).trans rfl

/-- With a canvas phase 8 publishes a largest rectangle of free dies and what follows from it (R65, R66). -/
theorem phase_eight_publishes {s : State} (faults : List (Nat × Nat × Nat)) (h8 : s.inPhase 8 = true) (h0 : s.boot.nextDie = 0)
    (h : ∃ q ∈ State.rects s.part, Free s.part (merged s faults).isExcluded q) (hc : (merged s faults).canvasAllowed = true) :
    ∃ r, s.phaseEnds (s.fuseMerge faults) 8 ∧ r ∈ State.rects s.part ∧ Free s.part (merged s faults).isExcluded r ∧
      (∀ q ∈ State.rects s.part, Free s.part (merged s faults).isExcluded q → Outdone q r) ∧ Publishes s (merged s faults) (s.fuseMerge faults) r := by
  obtain ⟨r, hr, hmem, hfree, hbest⟩ := bestRect_some h
  refine ⟨r, ?_, hmem, hfree, hbest, ?_⟩ <;> rw [fuseMerge_publishes faults h8 h0 hr hc]
  · exact phaseEnds_endPhase _ 8 (by decide) (by decide) (by rw [now_published, now_merged]) (by rw [phaseStart_published, boot_merged])
  · have ex := merged_excludes s faults
    have h8 := dies_le s.part
    refine ⟨?_, ?_, fun d hd => ?_, fun c => ?_, fun d n => ?_, ?_⟩
    · exact (showsCanvas_canvasOut _ _ hmem).of_reg (reg_published _ _ _ (by decide) (by decide))
    · rw [fld_published _ _ _ (by decide) (by decide), gen_canvasOut]
      simp only [State.fld, ex.reg (ecKey BOOT_CANVAS_GEN) (fixedKey_ecKey (by decide)) (by decide) (by decide)]
    · rw [dieState_published, dieState_canvasOut h8 _ r hd, settledState, ex.part]
    · rw [disabled_published, boot_merged]
      dsimp only
      rw [List.mem_filter, List.mem_range]
    · rw [liveList_published, mem_newLive, part_canvasOut, ex.part]
      refine and_congr_right fun hd => and_congr_right fun hn => ?_
      rw [isExcluded_canvasOut h8 _ r hd, devState_canvasOut _ r (hd.trans_le h8) hn, ex.devState (hd.trans_le h8) hn]
    · rw [liveList_published, count_published]

/-! ### Phase 9: priming GDDR (R272, R273) -/

/-- The state after the read-only check, which a warm restart makes. -/
def checked (s : State) : State := if s.warm = true then s.keptCheck else s

/-- The contents of GDDR, kept or primed. -/
def filled (s : State) : State := if s.keepsGddr = true then checked s else (checked s).primeGddr

/-- BOOT_GDDR_STAT shows whether the contents were kept, and that priming is done. -/
def primed (s : State) : State :=
  ((filled s).setFld (ecKey BOOT_GDDR_STAT) 7 1 (if s.keepsGddr = true then 1 else 0)).setFld (ecKey BOOT_GDDR_STAT) 8 1 1

/-- The devices of a list go into service. -/
def serveAll (s : State) (l : List (Nat × Nat)) : State := l.foldl (fun t e => t.deviceServes e.1 e.2) s

theorem gddrPriming_eq {s : State} (h : s.inPhase 9 = true) : s.gddrPriming = (serveAll (primed s) s.boot.liveList).endPhase 9 := by
  unfold State.gddrPriming
  rw [h]
  rfl

theorem within_checked (s : State) : s.within [.regs, .mem, .mcs, .err] (checked s) :=
  within_ite (within_keptCheck (List.Subset.refl _) (within_refl s)) (within_refl s)

theorem within_primed (s : State) : (checked s).within [.regs, .mem] (primed s) :=
  within_setFld (by decide) (within_setFld (by decide) (within_ite (within_refl _) (within_primeGddr (by decide) (within_refl _))))

theorem within_serveAll (s : State) (l : List (Nat × Nat)) : s.within [.regs, .mcs] (serveAll s l) :=
  within_foldl _ (fun _ _ ht => within_deviceServes (List.Subset.refl _) ht) (within_refl s)

theorem now_primed (s : State) : (primed s).now = s.now := (within_now (within_primed s)).trans (within_now (within_checked s))

theorem boot_primed (s : State) : (primed s).boot = s.boot :=
  (within_boot (within_primed s) (by decide)).trans (within_boot (within_checked s) (by decide))

theorem reg_serveAll (s : State) (l : List (Nat × Nat)) {k : Nat} (hk : k < 0x1000000) : (serveAll s l).reg k = s.reg k :=
  List.foldlRecOn (motive := fun t : State => t.reg k = s.reg k) _ _ rfl fun t ht e _ => by
    rw [State.deviceServes, setMc_reg, reg_setFld_other _ _ _ _ (by simp only [memKey, dieKey]; omega), ht]

/-- A device in service since now. -/
def Serves (now d n : Nat) (t : State) : Prop := t.now = now → t.devState d n = 4 ∧ (t.mc d n).passStart = now

theorem mc_setMc (s : State) (d n e m : Nat) (x : Mc) :
    (s.setMc d n x).mc e m = if e * 12 + m = d * 12 + n then x else s.mc e m := by
  unfold State.mc State.setMc
  by_cases h : e * 12 + m = d * 12 + n
  · rw [h]; simp
  · simp [h, get_put_other _ _ _ h]

theorem devState_deviceServes (t : State) (e m d n : Nat) :
    (t.deviceServes e m).devState d n = if memKey d n MEM_STAT = memKey e m MEM_STAT then 4 else t.devState d n := by
  rw [State.devState, State.deviceServes, setMc_fld]
  split
  · rename_i hk
    rw [hk]
    exact fld_setFld_same _ _ (by decide)
  · exact fld_setFld_other _ _ _ _ _ _ ‹_›

theorem mc_deviceServes (t : State) (e m d n : Nat) :
    ((t.deviceServes e m).mc d n).passStart = if d * 12 + n = e * 12 + m then t.now else (t.mc d n).passStart := by
  rw [State.deviceServes, mc_setMc]
  split
  · rfl
  · rw [setFld_mc]

theorem now_deviceServes (t : State) (e m : Nat) : (t.deviceServes e m).now = t.now :=
  within_now (within_deviceServes (ks := [.regs, .mcs]) (List.Subset.refl _) (within_refl t))

theorem serves_deviceServes (t : State) (now d n : Nat) : Serves now d n (t.deviceServes d n) := by
  intro hnow
  rw [now_deviceServes] at hnow
  rw [devState_deviceServes, mc_deviceServes, if_pos rfl, if_pos rfl]
  exact ⟨rfl, hnow⟩

theorem serves_deviceServes_other (t : State) {now d n : Nat} (e m : Nat) (h : Serves now d n t) : Serves now d n (t.deviceServes e m) := by
  intro hnow
  rw [now_deviceServes] at hnow
  obtain ⟨hst, hpass⟩ := h hnow
  rw [devState_deviceServes, mc_deviceServes, hst, hpass, hnow]
  exact ⟨ite_self _, ite_self _⟩

theorem serves_serveAll (s : State) {l : List (Nat × Nat)} {e : Nat × Nat} (h : e ∈ l) (now : Nat) : Serves now e.1 e.2 (serveAll s l) := by
  unfold serveAll
  refine foldl_reaches (P := fun t => Serves now e.1 e.2 t) (x := e) (fun t => ?_) (fun t x ht => ?_) h s
  · exact serves_deviceServes t now e.1 e.2
  · exact serves_deviceServes_other t x.1 x.2 ht

theorem bits_two (v lo : Nat) : bits v lo 2 = bits v lo 1 + 2 * bits v (lo + 1) 1 := by
  unfold bits
  rw [Nat.pow_succ 2 lo, ← Nat.div_div_eq_div_mul]
  omega

theorem stat_primed (s : State) : (primed s).fld (ecKey BOOT_GDDR_STAT) 7 2 = if s.keepsGddr = true then 3 else 2 := by
  have low : (primed s).fld (ecKey BOOT_GDDR_STAT) 7 1 = if s.keepsGddr = true then 1 else 0 := by
    rw [primed, fld_setFld_apart _ _ (by decide) (by decide), fld_setFld_same _ _ (by decide)]
    split <;> rfl
  have high : (primed s).fld (ecKey BOOT_GDDR_STAT) 8 1 = 1 := fld_setFld_same _ _ (by decide)
  rw [State.fld] at low high ⊢
  rw [bits_two, low, high]
  split <;> rfl

/-- Priming leaves no data, and keeps what lies between data and check fields. -/
theorem byte_primeGddr (s : State) (k : Nat) :
    (k < 2 ^ 44 → s.primeGddr.byte k = 0) ∧ (2 ^ 44 ≤ k → k < 2 ^ 45 → s.primeGddr.byte k = s.byte k) := by
  constructor
  · intro h
    exact get_filter_of_dropped (fun v => by simp; omega) _ _
  · intro h1 h2
    exact get_filter_of_kept (fun v => by simp; omega) _ _

theorem warm_of_keepsGddr {s : State} (h : s.keepsGddr = true) : s.warm = true := by
  simp only [State.keepsGddr, Bool.and_eq_true, beq_iff_eq] at h
  simp [State.warm, h.1.1]

/-- Phase 9 primes GDDR, or keeps it as the check of every 1,024th segment leaves it (R272). -/
theorem phase_nine {s : State} (h9 : s.inPhase 9 = true) :
    s.phaseEnds s.gddrPriming 9 ∧ s.gddrPriming.mem = (filled s).mem ∧ s.gddrPriming.err = (checked s).err ∧
      s.gddrPriming.fld (ecKey BOOT_GDDR_STAT) 7 2 = (if s.keepsGddr = true then 3 else 2) ∧
      ∀ e ∈ s.boot.liveList, s.gddrPriming.devState e.1 e.2 = 4 ∧ (s.gddrPriming.mc e.1 e.2).passStart = s.now := by
  rw [gddrPriming_eq h9]
  have serving := within_serveAll (primed s) s.boot.liveList
  refine ⟨?_, within_same serving .mem (by decide), ?_, ?_, fun e he => ?_⟩
  · refine phaseEnds_endPhase _ 9 (by decide) (by decide) ?_ ?_
    · rw [within_now serving, now_primed]
    · rw [within_boot serving (by decide), boot_primed]
  · exact (within_same serving .err (by decide)).trans (within_same (within_primed s) .err (by decide))
  · rw [fld_endPhase _ _ (by decide) (by decide), ← stat_primed]
    simp only [State.fld, reg_serveAll _ _ (k := ecKey BOOT_GDDR_STAT) (by decide)]
  · rw [devState_endPhase _ _ (by decide), ← now_primed]
    exact serves_serveAll _ he _ (within_now serving)

/-! ### Phase 10: boot lock and ready (R14, R378, R461, R462) -/

/-- A register with a field that boot lock closes. -/
def Lockable (k : Nat) : Prop :=
  ∃ row i, findRow (unitRows (keyUnit k)) (keyOff k) = some (row, i) ∧ (row.fields.any fun f => decide (f.acc = .rwl)) = true

/-- A record of a write that came with boot lock. -/
def LockRecord (k : Nat) (t : State) : Prop := ∃ r ∈ t.err.recQ, r.cls = 0x87 ∧ r.loc = State.keyLoc k

/-- One write that reached its register with boot lock. -/
def relock (t : State) (e : Nat × DWord) : State :=
  match findRow (unitRows (keyUnit e.1)) (keyOff e.1) with
  | some (r, _) => if r.fields.any fun f => decide (f.acc = .rwl) then (t.setReg e.1 e.2).lockedWrite e.1 (State.keyGa e.1) else t
  | none => t

theorem bootLock_eq (s : State) : s.bootLock = s.wrote.foldl relock (s.setFld (ecKey BOOT_STAT) 5 1 1) := rfl

theorem relock_cases (t : State) (e : Nat × DWord) :
    (Lockable e.1 ∧ relock t e = (t.setReg e.1 e.2).lockedWrite e.1 (State.keyGa e.1)) ∨ (¬ Lockable e.1 ∧ relock t e = t) := by
  unfold relock Lockable
  cases hrow : findRow (unitRows (keyUnit e.1)) (keyOff e.1) with
  | none => exact .inr ⟨by simp, rfl⟩
  | some p =>
    obtain ⟨row, i⟩ := p
    dsimp only
    split
    · rename_i h; exact .inl ⟨⟨row, i, rfl, h⟩, rfl⟩
    · rename_i h; exact .inr ⟨by simpa using h, rfl⟩

/-- BOOT_STAT has no such field. -/
theorem not_lockable_bootStat : ¬ Lockable (ecKey BOOT_STAT) := by
  rintro ⟨row, i, hrow, hany⟩
  have none : ((findRow (unitRows (keyUnit (ecKey BOOT_STAT))) (keyOff (ecKey BOOT_STAT))).all fun p =>
      !p.1.fields.any fun f => decide (f.acc = .rwl)) = true := by decide +kernel
  rw [hrow] at none
  simp only [Option.all_some, hany] at none
  exact absurd none (by decide)

theorem relock_stat (t : State) (e : Nat × DWord) : (relock t e).reg (ecKey BOOT_STAT) = t.reg (ecKey BOOT_STAT) := by
  rcases relock_cases t e with ⟨hl, he⟩ | ⟨-, he⟩
  · have hne : ecKey BOOT_STAT ≠ e.1 := fun h => not_lockable_bootStat (by rwa [h])
    rw [he, State.lockedWrite, raise_reg, reg_setReg_other _ _ hne]
  · rw [he]

theorem relock_staged (t : State) (e : Nat × DWord) : (relock t e).err.staged = t.err.staged := by
  rcases relock_cases t e with ⟨-, he⟩ | ⟨-, he⟩
  · rw [he]; rfl
  · rw [he]

theorem relock_recs (t : State) (e : Nat × DWord) : t.err.recQ <+: (relock t e).err.recQ := by
  rcases relock_cases t e with ⟨-, he⟩ | ⟨-, he⟩
  · rw [he]; exact (UnitWork.refl (t.setReg e.1 e.2)).raise.recs
  · rw [he]

theorem lockRecord_relock (t : State) (e : Nat × DWord) (h : Lockable e.1) : LockRecord e.1 (relock t e) := by
  rcases relock_cases t e with ⟨-, he⟩ | ⟨hn, -⟩
  · rw [he]; exact ⟨_, List.mem_append_right _ List.mem_cons_self, rfl, rfl⟩
  · exact absurd h hn

theorem LockRecord.mono {k : Nat} {t u : State} (h : LockRecord k t) (hr : t.err.recQ <+: u.err.recQ) : LockRecord k u := by
  obtain ⟨r, hmem, hcls⟩ := h
  exact ⟨r, hr.subset hmem, hcls⟩

theorem fld_bootLock (s : State) : s.bootLock.fld (ecKey BOOT_STAT) 5 1 = 1 := by
  have kept : s.bootLock.reg (ecKey BOOT_STAT) = (s.setFld (ecKey BOOT_STAT) 5 1 1).reg (ecKey BOOT_STAT) :=
    List.foldlRecOn (motive := fun t : State => t.reg (ecKey BOOT_STAT) = _) _ relock rfl fun t ht e _ => (relock_stat t e).trans ht
  rw [State.fld, kept]
  exact fld_setFld_same s 1 (by decide)

theorem staged_bootLock (s : State) : s.bootLock.err.staged = s.err.staged :=
  List.foldlRecOn (motive := fun t : State => t.err.staged = s.err.staged) _ relock rfl fun t ht e _ => (relock_staged t e).trans ht

theorem lockRecord_bootLock {s : State} {k : Nat} {v : DWord} (h : (k, v) ∈ s.wrote) (hk : Lockable k) : LockRecord k s.bootLock :=
  foldl_reaches (P := fun t => LockRecord k t) (x := (k, v)) (fun t => lockRecord_relock t (k, v) hk)
    (fun t e ht => ht.mono (relock_recs t e)) h _

theorem length_toLe (n v : Nat) : (toLe n v).length = n := by
  induction n generalizing v with
  | zero => rfl
  | succ n ih => rw [toLe, List.length_cons, ih]

/-- The timing of the ten phases fills an entry's body (R461). -/
theorem length_timingBody (s : State) : s.timingBody.length = 48 := by
  simp [State.timingBody, length_toLe, List.length_flatMap]

/-- The engine locked and ready, its timing not yet staged. -/
def lockedReady (s : State) : State := (((s.phaseTime 10).bootLock).setFld (ecKey BOOT_STAT) 4 1 1).setFld (ecKey BOOT_STAT) 0 4 0

/-- Its timing staged, and S and B taken. -/
def timed (s : State) : State := ((lockedReady s).stage 3 0 (lockedReady s).timingBody).bandReady

/-- Ready, the events to the hosts not yet sent. -/
def readied (s : State) : State := (timed s).setBoot { (timed s).boot with restartCls := 0, covLast := (timed s).now }

theorem bootReady_eq {s : State} (h : s.inPhase 10 = true) : s.bootReady =
    (((readied s).event 4 (toLe 4 (readied s).canvasWord ++ toLe 4 ((readied s).fld (ecKey BOOT_CANVAS_GEN) 0 32))).event 8
      (toLe 8 (readied s).facility)).raiseAll 259 := by
  unfold State.bootReady
  rw [h]
  rfl

theorem readied_work (s : State) : UnitWork (timed s) (readied s) := (UnitWork.refl _).setBoot

/-- The last events of a start change registers of the host ports only. -/
theorem bootReady_work {s : State} (h : s.inPhase 10 = true) :
    UnitWork (timed s) s.bootReady ∧ (timed s).within [.regs, .mem, .hports, .boot, .out] s.bootReady := by
  rw [bootReady_eq h]
  exact ⟨(readied_work s).event.event.raiseAll,
    within_raiseAll (by decide) (within_event (by decide) (within_event (by decide) (within_setBoot (by decide) (within_refl _))))⟩

theorem within_lockedReady (s : State) : s.within [.regs, .err] (lockedReady s) :=
  within_setFld (by decide) (within_setFld (by decide) (within_bootLock (by decide) (within_phaseTime (by decide) (within_refl s))))

theorem staged_lockedReady (s : State) : (lockedReady s).err.staged = s.err.staged := staged_bootLock _

theorem recQ_lockedReady (s : State) (h : s.wrote = []) : (lockedReady s).err.recQ = s.err.recQ := by
  have none : (s.phaseTime 10).wrote = [] := h
  rw [lockedReady, setFld_err, setFld_err, bootLock_eq, none]
  rfl

theorem lockRecord_lockedReady {s : State} {k : Nat} {v : DWord} (h : (k, v) ∈ s.wrote) (hk : Lockable k) : LockRecord k (lockedReady s) :=
  lockRecord_bootLock (s := s.phaseTime 10) h hk

theorem stat_lockedReady (s : State) :
    (lockedReady s).fld (ecKey BOOT_STAT) 0 4 = 0 ∧ (lockedReady s).fld (ecKey BOOT_STAT) 4 1 = 1 ∧
      (lockedReady s).fld (ecKey BOOT_STAT) 5 1 = 1 := by
  refine ⟨fld_setFld_same _ _ (by decide), ?_, ?_⟩ <;> rw [lockedReady, fld_setFld_apart _ _ (by decide) (by decide)]
  · exact fld_setFld_same _ _ (by decide)
  · rw [fld_setFld_apart _ _ (by decide) (by decide), fld_bootLock]

/-- An entry finds room in the buffer of the black box. -/
theorem stage_of_room {s : State} (h : s.err.staged.length < 4096) (kind rseq : Nat) (body : List Byte) :
    s.stage kind rseq body = s.stageOne kind body := if_neg (by omega)

theorem err_stageOne (s : State) (kind : Nat) (body : List Byte) :
    ∃ e, (s.stageOne kind body).err = { s.err with staged := s.err.staged ++ [e] } ∧ e.kind = kind ∧ e.body = body := ⟨_, rfl, rfl, rfl⟩

theorem reg_stageOne_other (s : State) (kind : Nat) (body : List Byte) {k : Nat} (h : k ≠ ecKey BBOX_NEXT) :
    (s.stageOne kind body).reg k = s.reg k := by
  unfold State.stageOne
  rw [reg_setReg_other _ _ h]
  simp only [State.reg]

theorem reg_setBandField (s : State) (b : Band) (k : Nat) : State.reg { s with band := b } k = s.reg k := rfl

/-- Taking S and B changes the ceiling's registers only. -/
theorem reg_bandReady_other (s : State) {k : Nat} (h1 : k ≠ ecKey RAMP_CEIL) (h2 : k ≠ ecKey BAND_AVG) : s.bandReady.reg k = s.reg k := by
  have ceil : (s.updateCeil false).reg k = s.reg k := by
    unfold State.updateCeil
    dsimp only
    rw [reg_setBandField, reg_setFld_other _ _ _ _ h2, reg_setFld_other _ _ _ _ h1, reg_setFld_other _ _ _ _ h1]
  unfold State.bandReady
  dsimp only
  split
  · rw [State.setBand, reg_setBandField, ceil]
  · exact ceil

theorem ceil_setBand (s : State) (b : Band) : (s.setBand b).ceil = s.ceil := rfl

theorem orphanBudget_setBand (s : State) (b : Band) : (s.setBand b).orphanBudget = s.orphanBudget := rfl

/-- S and B of an engine that becomes ready (R378). -/
theorem band_bandReady (s : State) :
    (s.band.mode = 1 → s.bandReady.band.s = uW (min s.band.lastAvg s.bandReady.ceil) ∧ s.bandReady.band.b = s.bandReady.orphanBudget) ∧
      (s.band.mode ≠ 1 → s.bandReady.band.s = s.band.s) := by
  have mode : (s.updateCeil false).band.mode = s.band.mode := rfl
  unfold State.bandReady
  dsimp only
  rw [mode]
  constructor
  · intro h
    rw [if_pos h, ceil_setBand, orphanBudget_setBand]
    exact ⟨rfl, rfl⟩
  · intro h
    rw [if_neg h]
    rfl

/-- What a start leaves once the engine is ready. -/
theorem timed_facts (s : State) (hroom : s.err.staged.length < 4096) :
    (∃ e, (timed s).err = { (lockedReady s).err with staged := s.err.staged ++ [e] } ∧ e.kind = 3 ∧ e.body.length = 48) ∧
      (timed s).reg (ecKey BOOT_STAT) = (lockedReady s).reg (ecKey BOOT_STAT) ∧
      (s.band.mode = 1 → (timed s).band.s = uW (min s.band.lastAvg (timed s).ceil) ∧ (timed s).band.b = (timed s).orphanBudget) ∧
      (s.band.mode ≠ 1 → (timed s).band.s = s.band.s) := by
  have hstaged := staged_lockedReady s
  have hstage : timed s = ((lockedReady s).stageOne 3 (lockedReady s).timingBody).bandReady := by
    rw [timed, stage_of_room (hstaged ▸ hroom)]
  have hband : ((lockedReady s).stageOne 3 (lockedReady s).timingBody).band = s.band :=
    within_same (within_stageOne (List.Subset.refl _) (within_lockedReady s)) .band (by decide)
  rw [hstage]
  obtain ⟨e, herr, hkind, hbody⟩ := err_stageOne (lockedReady s) 3 (lockedReady s).timingBody
  refine ⟨⟨e, ?_, hkind, hbody ▸ length_timingBody _⟩, ?_, ?_⟩
  · rw [← hstaged, ← herr]
    exact within_same (within_bandReady (List.Subset.refl _) (within_refl _)) .err (by decide)
  · rw [reg_bandReady_other _ (by decide) (by decide), reg_stageOne_other _ _ _ (by decide)]
  · rw [← hband]
    exact band_bandReady _

theorem within_timed (s : State) : s.within [.regs, .band, .err] (timed s) :=
  within_bandReady (by decide) (within_stage (by decide) (within_mono (within_lockedReady s) (by decide)))

/-- Phase 10 locks, reports ready, stages the phase timing and takes S from the last interval (R378, R462). -/
theorem phase_ten {s : State} (h10 : s.inPhase 10 = true) (hroom : s.err.staged.length < 4096) :
    ∃ e, s.bootReady.ready = true ∧ s.bootReady.fld (ecKey BOOT_STAT) 5 1 = 1 ∧ s.bootReady.fld (ecKey BOOT_STAT) 0 4 = 0 ∧
      s.bootReady.err.staged = s.err.staged ++ [e] ∧ e.kind = 3 ∧ e.body.length = 48 ∧
      (s.band.mode = 1 → s.bootReady.band.s = uW (min s.band.lastAvg s.bootReady.ceil) ∧ s.bootReady.band.b = s.bootReady.orphanBudget) ∧
      (s.band.mode ≠ 1 → s.bootReady.band.s = s.band.s) ∧ s.bootReady.cells = s.cells ∧ s.bootReady.regions = s.regions ∧
      (s.wrote = [] → s.bootReady.err.recQ = s.err.recQ) ∧ ∀ k v, (k, v) ∈ s.wrote → Lockable k → LockRecord k s.bootReady := by
  obtain ⟨work, reach⟩ := bootReady_work h10
  obtain ⟨⟨e, herr, hkind, hbody⟩, hstat, hrack, helse⟩ := timed_facts s hroom
  obtain ⟨hphase, hready, hlock⟩ := stat_lockedReady s
  have fld : ∀ lo w, s.bootReady.fld (ecKey BOOT_STAT) lo w = (lockedReady s).fld (ecKey BOOT_STAT) lo w := fun lo w => by
    rw [work.fld (fixedKey_ecKey (by decide))]; simp only [State.fld, hstat]
  have hceil : s.bootReady.ceil = (timed s).ceil := work.fld (fixedKey_ecKey (by decide)) 0 24
  have horphan : s.bootReady.orphanBudget = (timed s).orphanBudget := by
    rw [State.orphanBudget, hceil, work.fld (fixedKey_ecKey (by decide))]; rfl
  have hband : s.bootReady.band = (timed s).band := within_same reach .band (by decide)
  have hrec : s.bootReady.err = _ := (within_same reach .err (by decide)).trans herr
  refine ⟨e, ?_, (fld 5 1).trans hlock, (fld 0 4).trans hphase, ?_, hkind, hbody, ?_, ?_, ?_, ?_, ?_, ?_⟩
  · rw [State.ready, fld, hready]; rfl
  · rw [hrec]
  · rw [hband, hceil, horphan]; exact hrack
  · rw [hband]; exact helse
  · exact (within_same reach .cells (by decide)).trans (within_same (within_timed s) .cells (by decide))
  · exact (within_same reach .regions (by decide)).trans (within_same (within_timed s) .regions (by decide))
  · intro hw
    rw [hrec]
    exact recQ_lockedReady s hw
  · intro k v hmem hk
    refine (lockRecord_lockedReady hmem hk).mono ?_
    rw [hrec]

/-! ### A phase past its limit (R461) -/

/-- The check of a running phase whose overrun is not yet flagged: past its limit it flags and records it (R461). -/
theorem overrun_of_past {s : State} {p : Nat} (hp : s.inPhase p = true) (h1 : 1 ≤ p) (h10 : p ≤ 10) (h2 : p = 2 → s.boot.cfgDone = false)
    (hnew : s.fld (ecKey BOOT_POVR) (p - 1) 1 = 0) :
    s.overrun = if s.limitUs p < (s.now - s.boot.phaseStart) / 1000 then
      (s.setFld (ecKey BOOT_POVR) (p - 1) 1 1).raise 0x87 (.engine 0) (2 + p * 2 ^ 8) none else s := by
  have phase : s.phase = p := phase_of_inPhase hp
  have runs : (!s.inPhase p || p == 0 || Nat.ble 11 p || (p == 2 && s.boot.cfgDone) || s.fld (ecKey BOOT_POVR) (p - 1) 1 == 1) = false := by
    have cfg : (p == 2 && s.boot.cfgDone) = false := by
      simp only [Bool.and_eq_false_imp, beq_iff_eq]
      exact h2
    have range : (p == 0) = false ∧ Nat.ble 11 p = false :=
      ⟨beq_eq_false_iff_ne.2 (by omega), by rw [← Bool.not_eq_true, Nat.ble_eq]; omega⟩
    rw [hp, cfg, hnew, range.1, range.2]
    rfl
  unfold State.overrun
  dsimp only
  rw [phase, runs]
  rfl

/-- The record of a phase past its limit: one bit of BOOT_POVR and class 0x87. -/
theorem overrun_record (s : State) {p : Nat} (h1 : 1 ≤ p) (h10 : p ≤ 10) :
    let t := (s.setFld (ecKey BOOT_POVR) (p - 1) 1 1).raise 0x87 (.engine 0) (2 + p * 2 ^ 8) none
    t.fld (ecKey BOOT_POVR) (p - 1) 1 = 1 ∧ s.logs t 0x87 (.engine 0) (2 + p * 2 ^ 8) ∧ s.regsBut t [ecKey BOOT_POVR] ∧ t.boot = s.boot := by
  refine ⟨?_, ⟨_, rfl, rfl, rfl, rfl, rfl⟩, fun k hk => ?_, rfl⟩
  · rw [raise_fld]; exact fld_setFld_same _ _ (by omega)
  · rw [raise_reg, reg_setFld_other _ _ _ _ (by simpa using hk)]

/-- Settles O51: each phase's own lemma, over the units' work that none of them has to follow. -/
theorem startPhasesSevenToTen : Obligations.StartPhasesSevenToTen := by
  unfold Obligations.StartPhasesSevenToTen
  refine ⟨fun s ts lanes credits h => ?_, fun s s1 faults h8 h0 hs1 => ?_, fun s h => ?_, fun s h hroom => ?_, fun s p hp h1 h10 h2 hnew => ?_⟩
  · obtain ⟨ends, trained⟩ := phase_seven s ts lanes credits h
    refine ⟨_, rfl, ends, fun d n v hd hn hex hv => ?_⟩
    subst hv
    exact trained d n hd hn hex
  · subst hs1
    refine ⟨_, rfl, phase_eight_stays faults h8 h0, fun hfree hallowed => ?_⟩
    obtain ⟨r, ends, hmem, hr, hbest, pub⟩ := phase_eight_publishes faults h8 h0 hfree hallowed
    obtain ⟨valid, width, height, col, row⟩ := pub.canvas
    exact ⟨r, ends, hmem, hr, hbest, valid, width, height, col, row, pub.gen, pub.dies, pub.disabled, pub.live, pub.count⟩
  · obtain ⟨ends, hmem, herr, hstat, hserve⟩ := phase_nine h
    constructor
    · intro v hv hkeep
      obtain rfl : v = checked s := hv
      have hbyte : ∀ k, s.gddrPriming.byte k = (checked s).primeGddr.byte k := fun k => by
        rw [State.byte, hmem, filled, if_neg (by simp [hkeep])]; rfl
      refine ⟨_, rfl, ends, fun a ha => ?_, fun k hk1 hk2 => ?_, ?_, hserve, herr⟩
      · exact (hbyte a).trans ((byte_primeGddr _ a).1 ha)
      · exact (hbyte k).trans ((byte_primeGddr _ k).2 hk1 hk2)
      · exact hstat.trans (if_neg (by simp [hkeep]))
    · intro hkeep
      have hchecked : checked s = s.keptCheck := if_pos (warm_of_keepsGddr hkeep)
      rw [filled, if_pos hkeep, hchecked] at hmem
      rw [hchecked] at herr
      exact ⟨_, rfl, ends, hmem, herr, hstat.trans (if_pos hkeep), fun e he => (hserve e he).1⟩
  · obtain ⟨e, hready, hlock, hphase, hstaged, hkind, hbody, hrack, helse, hcells, hregions, hquiet, hrecs⟩ := phase_ten h hroom
    exact ⟨_, e, rfl, hready, hlock, hphase, hstaged, hkind, hbody, hrack, helse, hcells, hregions, hquiet,
      fun k v row i hmem hrow hany => hrecs k v hmem ⟨row, i, hrow, hany⟩⟩
  · have result := overrun_of_past hp h1 h10 h2 hnew
    have hexec : exec .phaseOverrun s = .next s.overrun := rfl
    rw [hexec, result]
    constructor
    · intro hlimit
      rw [if_pos hlimit]
      exact ⟨_, rfl, overrun_record s h1 h10⟩
    · intro hlimit
      rw [if_neg (by omega)]

end Sys2Proof.StartPhases
end

section
/-! The words of a scratchpad (R169, R171, R175): the little-endian bytes of a word, and what storing one word, or the words of a line one
after the other, leaves in the scratchpad and everywhere else. -/

namespace Sys2Proof.Scratchpad

open Sys2Proof Sys2Proof.Machine Sys2Proof.Laws Sys2Proof.StartPhases

/-! ### Bytes and check bytes -/

theorem ofLe_toLe (n v : Nat) : ofLe (toLe n v) = v % 256 ^ n := by
  induction n generalizing v with
  | zero => simp [toLe, ofLe, Nat.mod_one]
  | succ n ih =>
    have low : (BitVec.ofNat 8 v).toNat = v % 256 := BitVec.toNat_ofNat v 8
    rw [toLe, ofLe, ih, low, Nat.pow_succ', Nat.mod_mul]

theorem ofLe_lt (l : List Byte) : ofLe l < 256 ^ l.length := by
  induction l with
  | nil => exact Nat.one_pos
  | cons b t ih =>
    have hb : b.toNat < 256 := b.isLt
    rw [ofLe, List.length_cons, Nat.pow_succ]
    omega

theorem wordAt_lt (s : State) (c o : Nat) : s.wordAt c o < 2 ^ 64 := by
  have h := ofLe_lt (s.bytes (spmKey c (o / 8 * 8)) 8)
  rw [State.bytes, List.length_map, List.length_range] at h
  exact h

/-- An exclusive-or of byte-wide columns is a byte. -/
theorem xorCols_lt {l : List Nat} (h : ∀ x ∈ l, x < 2 ^ 8) (w : Nat) : xorCols l w < 2 ^ 8 := by
  induction l generalizing w with
  | nil => exact Nat.two_pow_pos 8
  | cons x l ih =>
    have column : (if w % 2 = 1 then x else 0) < 2 ^ 8 := by
      split
      · exact h x List.mem_cons_self
      · exact Nat.two_pow_pos 8
    exact Nat.xor_lt_two_pow column (ih (fun y hy => h y (List.mem_cons_of_mem x hy)) (w / 2))

theorem eccByte_lt (w : Nat) : eccByte w < 256 := xorCols_lt (by decide) w

/-! ### Storing one word -/

/-- What the scrubber drops when a word is written is a note of the cell's own scrubber (R175). -/
theorem scrubDrop_eq (s : State) (c o : Nat) : s.scrubDrop c o = s ∨ ∃ m, s.scrubDrop c o = s.setCell c { s.cell c with scrub := m } := by
  unfold State.scrubDrop
  dsimp only
  split
  · exact .inr ⟨_, rfl⟩
  · exact .inl rfl

theorem byte_scrubDrop (s : State) (c o k : Nat) : (s.scrubDrop c o).byte k = s.byte k := by
  rcases scrubDrop_eq s c o with h | ⟨m, h⟩ <;> rw [h]
  rfl

/-- The units of a state after a word was stored are those after the scrubber's note was dropped. -/
theorem cell_putWord (s : State) (c o w chk e : Nat) : (s.putWord c o w chk).cell e = (s.scrubDrop c o).cell e := by
  rw [State.cell, State.putWord, setByte_cells, setBytes_cells]
  rfl

theorem cell_putWord_other (s : State) {c e : Nat} (o w chk : Nat) (h : e ≠ c) : (s.putWord c o w chk).cell e = s.cell e := by
  rw [cell_putWord]
  rcases scrubDrop_eq s c o with hd | ⟨m, hd⟩ <;> rw [hd]
  rw [cell_setCell, if_neg h]

theorem cell_putWord_same (s : State) (c o w chk : Nat) : ∃ m, (s.putWord c o w chk).cell c = { s.cell c with scrub := m } := by
  rw [cell_putWord]
  rcases scrubDrop_eq s c o with h | ⟨m, h⟩ <;> rw [h]
  · exact ⟨_, rfl⟩
  · exact ⟨m, cell_setCell_same _ _ _⟩

theorem byte_putWord (s : State) (c o w chk k : Nat) : (s.putWord c o w chk).byte k =
    if k = spmChkKey c o then BitVec.ofNat 8 chk
    else if spmKey c (o / 8 * 8) ≤ k ∧ k < spmKey c (o / 8 * 8) + 8 then ((toLe 8 w)[k - spmKey c (o / 8 * 8)]?).getD 0 else s.byte k := by
  rw [State.putWord, byte_setByte, byte_setBytes, length_toLe, byte_scrubDrop]

/-- A byte that belongs neither to the word stored nor to its check byte. -/
theorem byte_putWord_other (s : State) {c o k : Nat} (w chk : Nat) (ho : o % 8 = 0)
    (hw : ∀ i, i < 8 → k ≠ spmKey c (o + i)) (hc : k ≠ spmChkKey c o) : (s.putWord c o w chk).byte k = s.byte k := by
  rw [byte_putWord, if_neg hc, if_neg]
  rintro ⟨h1, h2⟩
  simp only [spmKey] at h1 h2 hw
  exact hw (k - (o + (2 ^ 44 + 2 ^ 24 * c))) (by omega) (by omega)

theorem wordAt_congr {s t : State} {c o : Nat} (h : ∀ i, i < 8 → t.byte (spmKey c (o / 8 * 8) + i) = s.byte (spmKey c (o / 8 * 8) + i)) :
    t.wordAt c o = s.wordAt c o :=
  congrArg ofLe (List.map_congr_left fun i hi => h i (List.mem_range.1 hi))

theorem wordAt_putWord_same (s : State) (c : Nat) {o : Nat} (w chk : Nat) (ho : o < 0x180000) :
    (s.putWord c o w chk).wordAt c o = w % 2 ^ 64 := by
  have bytes : (s.putWord c o w chk).bytes (spmKey c (o / 8 * 8)) 8 = toLe 8 w := by
    refine List.ext_getElem (by rw [State.bytes, List.length_map, List.length_range, length_toLe]) fun i hi _ => ?_
    have hi : i < 8 := by simpa [State.bytes] using hi
    have apart : spmKey c (o / 8 * 8) + i ≠ spmChkKey c o := by simp only [spmKey, spmChkKey]; omega
    simp only [State.bytes, List.getElem_map, List.getElem_range]
    rw [byte_putWord, if_neg apart, if_pos (by omega), Nat.add_sub_cancel_left,
      List.getElem?_eq_getElem (by rw [length_toLe]; exact hi), Option.getD_some]
  rw [State.wordAt, bytes, ofLe_toLe]
  norm_num

theorem chkAt_putWord_same (s : State) (c o w chk : Nat) : (s.putWord c o w chk).chkAt c o = chk % 256 := by
  rw [State.chkAt, byte_putWord, if_pos rfl, BitVec.toNat_ofNat]

theorem wordAt_putWord_other (s : State) (c : Nat) {o p : Nat} (w chk : Nat) (hp : p < 0x180000) (h : p / 8 ≠ o / 8) :
    (s.putWord c o w chk).wordAt c p = s.wordAt c p := by
  refine wordAt_congr fun i hi => ?_
  rw [byte_putWord, if_neg (by simp only [spmKey, spmChkKey]; omega), if_neg (by simp only [spmKey]; omega)]

theorem chkAt_putWord_other (s : State) (c : Nat) {o p : Nat} (w chk : Nat) (ho : o < 0x180000) (h : p / 8 ≠ o / 8) :
    (s.putWord c o w chk).chkAt c p = s.chkAt c p := by
  rw [State.chkAt, byte_putWord, if_neg (by simp only [spmChkKey]; omega), if_neg (by simp only [spmKey, spmChkKey]; omega)]
  rfl

/-! ### Storing the words of a line -/

/-- `t` comes from `s` by storing the words `w` with the check bytes `chk` at the first `n` words from offset `d` of cell `c`: beside
them only the cell's scrubber and activity counters change. -/
structure StoresWords (s t : State) (c d n : Nat) (w chk : Nat → Nat) : Prop where
  word : ∀ j, j < n → t.wordAt c (d + 8 * j) = w j % 2 ^ 64
  check : ∀ j, j < n → t.chkAt c (d + 8 * j) = chk j % 256
  otherWord : ∀ o, o < 0x180000 → (∀ j, j < n → o / 8 ≠ (d + 8 * j) / 8) → t.wordAt c o = s.wordAt c o ∧ t.chkAt c o = s.chkAt c o
  otherByte : ∀ k, (∀ i, i < 8 * n → k ≠ spmKey c (d + i) ∧ k ≠ spmChkKey c (d + i)) → t.byte k = s.byte k
  reach : s.within [.mem, .cells, .regions] t
  cells : s.cellsBut t c
  cell : ∃ m, t.cell c = { s.cell c with scrub := m }

namespace StoresWords

variable {s t : State} {c d n : Nat} {w chk : Nat → Nat}

/-- Counting activity stores no word. -/
theorem act (s : State) (c i n d : Nat) (w chk : Nat → Nat) : StoresWords s (s.act c i n) c d 0 w chk where
  word j hj := absurd hj (Nat.not_lt_zero j)
  check j hj := absurd hj (Nat.not_lt_zero j)
  otherWord _ _ _ := ⟨rfl, rfl⟩
  otherByte _ _ := rfl
  reach := within_act (by decide) (within_refl s)
  cells _ _ := rfl
  cell := ⟨_, rfl⟩

/-- The next word of the line. -/
theorem putWord (h : StoresWords s t c d n w chk) (hd : d % 8 = 0) (hn : d + 8 * n < 0x180000) :
    StoresWords s (t.putWord c (d + 8 * n) (w n) (chk n)) c d (n + 1) w chk where
  word j hj := by
    rcases Nat.lt_succ_iff_lt_or_eq.1 hj with hlt | rfl
    · rw [wordAt_putWord_other t c _ _ (by omega) (by omega), h.word j hlt]
    · exact wordAt_putWord_same t c _ _ hn
  check j hj := by
    rcases Nat.lt_succ_iff_lt_or_eq.1 hj with hlt | rfl
    · rw [chkAt_putWord_other t c _ _ hn (by omega), h.check j hlt]
    · exact chkAt_putWord_same t c _ _ _
  otherWord o ho hne := by
    have hlast := hne n (Nat.lt_succ_self n)
    rw [wordAt_putWord_other t c _ _ ho hlast, chkAt_putWord_other t c _ _ hn hlast]
    exact h.otherWord o ho fun j hj => hne j (Nat.lt_succ_of_lt hj)
  otherByte k hk := by
    have own : (t.putWord c (d + 8 * n) (w n) (chk n)).byte k = t.byte k := by
      refine byte_putWord_other t _ _ (by omega) (fun i hi => ?_) (hk (8 * n) (by omega)).2
      rw [Nat.add_assoc]
      exact (hk (8 * n + i) (by omega)).1
    rw [own]
    exact h.otherByte k fun i hi => hk i (by omega)
  reach := within_putWord (by decide) h.reach
  cells e he := (cell_putWord_other t _ _ _ he).trans (h.cells e he)
  cell := by
    obtain ⟨m, hm⟩ := h.cell
    obtain ⟨m', hm'⟩ := cell_putWord_same t c (d + 8 * n) (w n) (chk n)
    exact ⟨m', by rw [hm', hm]⟩

theorem regs (h : StoresWords s t c d n w chk) : t.regs = s.regs := within_same h.reach .regs (by decide)

theorem err (h : StoresWords s t c d n w chk) : t.err = s.err := within_same h.reach .err (by decide)

theorem part (h : StoresWords s t c d n w chk) : t.part = s.part := within_part h.reach

end StoresWords

end Sys2Proof.Scratchpad
end

section
/-! The bank engine (R154, R176-R178). A push is queued or refused; a line that R154 lets pass stores its eight words and nothing else, one
that it refuses ends the command; the end of a command counts DONE and signals. -/

namespace Sys2Proof.BankEngine

open Sys2Proof Sys2Proof.Machine Sys2Proof.Laws Sys2Proof.StartPhases Sys2Proof.Scratchpad

/-! ### A push (R176, R177) -/

/-- The command that a push of `op` queues: the staged values, not yet started. -/
def staged (s : State) (c op : Nat) : BengCmd :=
  { op := op, src := s.fld (cellKey c SPM_BENG_SRC) 0 21, dst := s.fld (cellKey c SPM_BENG_DST) 0 21,
    len := s.fld (cellKey c SPM_BENG_LEN) 0 15, pat := s.reg (cellKey c SPM_BENG_PAT),
    sig := (s.reg (cellKey c SPM_BENG_SIG)).setWidth 32, running := false, lines := 0, next := 0 }

/-- The three commands of R176 push their OP, once the requester's pending half of a write has gone (R13). -/
theorem exec_push {i : Instr} {c op : Nat} {req : Req}
    (h : (i, op) ∈ [(Instr.bengFill c req, 1), (.bengCopy c req, 2), (.bengPoison c req, 3)]) (s : State) :
    exec i s = .next ((s.dropPend req (keyBlock (cellKey c SPM_BENG_CMD))).bengPush c op req) := by
  simp only [List.mem_cons, Prod.mk.injEq, List.not_mem_nil, or_false] at h
  rcases h with ⟨rfl, rfl⟩ | ⟨rfl, rfl⟩ | ⟨rfl, rfl⟩ <;> rfl

theorem bengPush_accepted {s : State} {c op : Nat} (req : Req) (h : s.bengReason c op = 0) :
    s.bengPush c op req = s.setCell c { s.cell c with beng := (s.cell c).beng ++ [staged s c op] } := by
  unfold State.bengPush
  dsimp only
  rw [h, if_neg (not_not_intro rfl)]
  rfl

theorem bengPush_refused {s : State} {c op : Nat} (req : Req) (h : s.bengReason c op ≠ 0) :
    s.bengPush c op req = (s.setFld (cellKey c SPM_BENG_STAT) 4 4 (s.bengReason c op)).raise 0x26 (.cell c 0) (s.bengReason c op)
      (if (originCell req).isSome then some c else none) := by
  unfold State.bengPush
  dsimp only
  rw [if_pos h]

/-- The reasons of R177 fit REASON. -/
theorem bengReason_lt (s : State) (c op : Nat) : s.bengReason c op < 2 ^ 4 := by
  unfold State.bengReason
  dsimp only
  repeat' split
  all_goals decide

/-- What a push that is not refused was found to satisfy (R177). -/
theorem ranges_of_accepted {s : State} {c op : Nat} (h : s.bengReason c op = 0) :
    1 ≤ s.fld (cellKey c SPM_BENG_LEN) 0 15 ∧ s.fld (cellKey c SPM_BENG_LEN) 0 15 ≤ 23552 ∧
      (s.reg (cellKey c SPM_BENG_DST)).toNat % 64 = 0 ∧
      s.fld (cellKey c SPM_BENG_DST) 0 21 + 64 * s.fld (cellKey c SPM_BENG_LEN) 0 15 ≤ 0x170000 ∧ s.bengAtStart c < 4 := by
  unfold State.bengReason at h
  dsimp only at h
  split at h
  · exact absurd h (by decide)
  next hlen =>
  split at h
  · exact absurd h (by decide)
  next halign =>
  split at h
  · exact absurd h (by decide)
  next hrange =>
  split at h
  · exact absurd h (by decide)
  next hfull =>
  simp only [State.fld]
  omega

/-- A record with no struck cell halts no panel (R429). -/
theorem haltQ_raise_none (s : State) (cls : Nat) (loc : Loc) (detail : Nat) : (s.raise cls loc detail none).err.haltQ = s.err.haltQ := rfl

/-! ### A line that R154 refuses -/

/-- A refused line empties the queue, and its record strikes the cell; memory and every register but SPM_ERR_LAST stay (R154). -/
theorem bengRefuse_effect (s : State) (c off cls r : Nat) :
    ((s.bengRefuse c off (cls, r)).cell c).beng = [] ∧ (s.bengRefuse c off (cls, r)).mem = s.mem ∧
      s.regsBut (s.bengRefuse c off (cls, r)) [cellKey c SPM_ERR_LAST] ∧
      ∃ e, (s.bengRefuse c off (cls, r)).err.recQ = s.err.recQ ++ [e] ∧ e.cls = cls ∧ e.struck = some c := by
  unfold State.bengRefuse State.setErrLast
  refine ⟨?_, ?_, fun k hk => ?_, _, rfl, rfl, rfl⟩
  · simp
  · simp
  · have hk : k ≠ cellKey c SPM_ERR_LAST := by simpa using hk
    simp [reg_setReg_other _ _ hk]

/-- A line of a fill or a poison is refused for its destination only. -/
theorem bengMove_refused {s : State} {c cls r : Nat} {b : BengCmd} (rest : List BengCmd) (hop : b.op ≠ 2)
    (h : s.spmCheck c (b.dst + 64 * b.lines) 7 false = some (cls, r)) :
    s.bengMove c b rest = (s.bengRefuse c (b.dst + 64 * b.lines) (cls, r), false) := by
  unfold State.bengMove State.bengLine
  simp only [if_neg hop, h]

/-! ### A line that R154 lets pass -/

/-- An access of the bank engine that passes lies below the reserved sub-array (R152). -/
theorem lt_of_spmCheck_none {s : State} {c off : Nat} (h : s.spmCheck c off 7 false = none) : off < 0x170000 := by
  by_contra hge
  unfold State.spmCheck at h
  split at h
  · exact absurd h (Option.some_ne_none _)
  split at h
  · exact absurd h (Option.some_ne_none _)
  rw [if_pos (by omega)] at h
  exact absurd h (Option.some_ne_none _)

theorem readWord_of_good {s : State} {c o : Nat} (port : Nat) (h : judge (s.wordAt c o) (s.chkAt c o) = .good) :
    s.readWord c o port = (s, .word (s.wordAt c o)) := by
  unfold State.readWord
  simp only [h]

/-- The next line of the source of a copy: aligned, open to the engine, and good in every word. -/
structure GoodSource (s : State) (c : Nat) (b : BengCmd) : Prop where
  aligned : b.src % 64 = 0
  passes : s.spmCheck c (b.src + 64 * b.lines) 7 false = none
  good : ∀ j, j < 8 → judge (s.wordAt c (b.src + 64 * b.lines + 8 * j)) (s.chkAt c (b.src + 64 * b.lines + 8 * j)) = .good

/-- The next line of a command passes R154, and a copy finds good words at its source. -/
structure LinePasses (s : State) (c : Nat) (b : BengCmd) : Prop where
  aligned : b.dst % 64 = 0
  passes : s.spmCheck c (b.dst + 64 * b.lines) 7 false = none
  source : b.op = 1 ∨ b.op = 3 ∨ b.op = 2 ∧ GoodSource s c b

/-- Word `j` of a command's next line: the pattern, poison's zero, or the source line's word (R176). -/
def lineWord (s : State) (c : Nat) (b : BengCmd) (j : Nat) : Nat :=
  if b.op = 1 then b.pat.toNat else if b.op = 3 then 0 else s.wordAt c (b.src + 64 * b.lines + 8 * j)

/-- The check byte stored with it (R171). -/
def lineCheck (s : State) (c : Nat) (b : BengCmd) (j : Nat) : Nat := if b.op = 3 then 0xFF else eccByte (lineWord s c b j)

theorem lineWord_lt (s : State) (c : Nat) (b : BengCmd) (j : Nat) : lineWord s c b j < 2 ^ 64 := by
  unfold lineWord
  split
  · exact b.pat.isLt
  split
  · exact Nat.two_pow_pos 64
  · exact wordAt_lt s c _

theorem lineCheck_lt (s : State) (c : Nat) (b : BengCmd) (j : Nat) : lineCheck s c b j < 256 := by
  unfold lineCheck
  split
  · decide
  · exact eccByte_lt _

/-- The first `n` words of the next line are stored. -/
abbrev LineStored (s t : State) (c : Nat) (b : BengCmd) (n : Nat) : Prop :=
  StoresWords s t c (b.dst + 64 * b.lines) n (lineWord s c b) (lineCheck s c b)

/-- A word of the source line still reads as before the line: it is none of the words stored so far, even where the lines are one. -/
theorem source_unchanged {s t : State} {c : Nat} {b : BengCmd} {n : Nat} (hn : n < 8) (hdst : b.dst % 64 = 0) (hsrc : GoodSource s c b)
    (h : LineStored s t c b n) :
    t.wordAt c (b.src + 64 * b.lines + 8 * n) = s.wordAt c (b.src + 64 * b.lines + 8 * n) ∧
      t.chkAt c (b.src + 64 * b.lines + 8 * n) = s.chkAt c (b.src + 64 * b.lines + 8 * n) := by
  have below := lt_of_spmCheck_none hsrc.passes
  have aligned := hsrc.aligned
  exact h.otherWord _ (by omega) fun j hj => by omega

/-- Each step of a line stores the command's word. -/
theorem bengWord_eq {s t : State} {c : Nat} {b : BengCmd} {n : Nat} (hn : n < 8) (hb : LinePasses s c b) (h : LineStored s t c b n) :
    t.bengWord c b (64 * b.lines + 8 * n) = t.putWord c (b.dst + 64 * b.lines + 8 * n) (lineWord s c b n) (lineCheck s c b n) := by
  unfold State.bengWord lineCheck lineWord
  rw [← Nat.add_assoc, ← Nat.add_assoc]
  rcases hb.source with hop | hop | ⟨hop, hsrc⟩
  · simp only [hop, if_pos]
    rfl
  · simp only [hop, if_pos]
    rfl
  · obtain ⟨word, check⟩ := source_unchanged hn hb.aligned hsrc h
    have good := hsrc.good n hn
    rw [← word, ← check] at good
    simp only [hop, readWord_of_good 7 good, word]
    rfl

/-- The steps of a line store its words one after the other. -/
theorem lineStored_foldl {s : State} {c : Nat} {b : BengCmd} (hb : LinePasses s c b) (units : Nat) {n : Nat} (hn : n ≤ 8) :
    LineStored s ((List.range n).foldl (fun t j => t.bengWord c b (64 * b.lines + 8 * j)) (s.act c 1 units)) c b n := by
  induction n with
  | zero => exact StoresWords.act s c 1 units _ _ _
  | succ n ih =>
    have before := ih (by omega)
    have below := lt_of_spmCheck_none hb.passes
    have aligned := hb.aligned
    rw [List.range_succ, List.foldl_append, List.foldl_cons, List.foldl_nil, bengWord_eq hn hb before]
    exact before.putWord (by omega) (by omega)

/-- The command after its next line, which took it `bengRate` cycles. -/
def advanced (s : State) (c : Nat) (b : BengCmd) : BengCmd :=
  { b with lines := b.lines + 1, next := (s.cell c).cyc + State.bengRate b }

/-- The running command stores its next line and goes on. -/
theorem bengMove_passes {s : State} {c : Nat} {b : BengCmd} (rest : List BengCmd) (hb : LinePasses s c b) :
    ∃ t, s.bengMove c b rest = (t.setCell c { t.cell c with beng := advanced t c b :: rest }, true) ∧ LineStored s t c b 8 := by
  have source : (if b.op = 2 then s.spmCheck c (b.src + 64 * b.lines) 7 false else none) = none := by
    split
    next hop =>
      rcases hb.source with h | h | ⟨-, hsrc⟩
      · omega
      · omega
      · exact hsrc.passes
    · rfl
  refine ⟨_, ?_, lineStored_foldl hb (if b.op = 2 then 2 else 1) le_rfl⟩
  unfold State.bengMove State.bengLine
  simp only [source, hb.passes]
  rfl

/-- What the next line leaves: its words in the scratchpad, the command advanced, and all else but the cell's scrubber and activity
counters as before. -/
structure LineDone (s t : State) (c : Nat) (b : BengCmd) (rest : List BengCmd) : Prop where
  word : ∀ j, j < 8 → t.wordAt c (b.dst + 64 * b.lines + 8 * j) = lineWord s c b j
  check : ∀ j, j < 8 → t.chkAt c (b.dst + 64 * b.lines + 8 * j) = lineCheck s c b j
  otherByte : ∀ k, (∀ i, i < 64 → k ≠ spmKey c (b.dst + 64 * b.lines + i) ∧ k ≠ spmChkKey c (b.dst + 64 * b.lines + i)) →
    t.byte k = s.byte k
  regs : t.regs = s.regs
  err : t.err = s.err
  part : t.part = s.part
  cells : s.cellsBut t c
  cell : ∃ m, t.cell c = { s.cell c with scrub := m, beng := advanced s c b :: rest }

theorem bengMove_lineDone {s : State} {c : Nat} {b : BengCmd} (rest : List BengCmd) (hb : LinePasses s c b) :
    ∃ t, s.bengMove c b rest = (t, true) ∧ LineDone s t c b rest := by
  obtain ⟨t, move, h⟩ := bengMove_passes rest hb
  refine ⟨_, move, ?_, ?_, h.otherByte, h.regs, h.err, h.part, fun e he => ?_, ?_⟩
  · exact fun j hj => (h.word j hj).trans (Nat.mod_eq_of_lt (lineWord_lt s c b j))
  · exact fun j hj => (h.check j hj).trans (Nat.mod_eq_of_lt (lineCheck_lt s c b j))
  · rw [cell_setCell, if_neg he, h.cells e he]
  · obtain ⟨m, hm⟩ := h.cell
    exact ⟨m, by rw [cell_setCell_same, advanced, hm]; rfl⟩

/-! ### The commands -/

theorem bengStart_of_waiting {s : State} {c : Nat} {b : BengCmd} {rest : List BengCmd} (hq : (s.cell c).beng = b :: rest)
    (hwait : b.running = false) (hruns : s.runs c = true) :
    s.bengStart c = s.setCell c { s.cell c with beng := { b with running := true, next := (s.cell c).cyc } :: rest } := by
  unfold State.bengStart
  simp [hq, hwait, hruns]

/-- In a delivered cycle a running command moves its next line, but for its last. -/
theorem bengCycle_of_running {s : State} {c : Nat} {b : BengCmd} {rest : List BengCmd} (hq : (s.cell c).beng = b :: rest)
    (hrun : b.running = true) (hmore : b.lines + 1 < b.len) (hnext : b.next ≤ (s.cell c).cyc) :
    s.bengCycle c = (s.bengMove c b rest).1 := by
  unfold State.bengCycle
  simp only [hq]
  rw [if_pos ⟨hrun, hmore, hnext⟩]

/-- The last line of a command: its end follows a line that passes. -/
theorem bengDone_of_last {s t : State} {c : Nat} {b : BengCmd} {rest : List BengCmd} {moved : Bool} (ecc : Nat)
    (hq : (s.cell c).beng = b :: rest) (hrun : b.running = true) (hruns : s.runs c = true) (hlast : b.lines + 1 = b.len)
    (hnext : b.next ≤ (s.cell c).cyc) (hmove : s.bengMove c b rest = (t, moved)) :
    s.bengDone c ecc = if moved then t.bengFinish c b ecc else t := by
  unfold State.bengDone
  simp only [hq]
  rw [if_neg (by simp [hrun, hruns, hlast, hnext]), hmove]
  cases moved <;> rfl

/-! ### The end of a command (R178) -/

/-- The coordinates of a cell rest on the canvas and the skip positions, which are registers of no cell (R50). -/
theorem logicalOf_of_regsBut {s t : State} {c : Nat} (o : Nat) (ho : o < 0x1000000) (hpart : t.part = s.part)
    (h : s.regsBut t [cellKey c o]) : t.logicalOf c = s.logicalOf c := by
  have engine : ∀ k, k < 0x1000000 → ∀ lo w, t.fld k lo w = s.fld k lo w := fun k hk lo w => by
    rw [State.fld, h k (by simp only [List.mem_singleton, cellKey]; omega)]
    rfl
  have skip : ∀ lo w, t.fld (dieKey (cellDie c) (FUSE_SKIP + 4 * cellPy c)) lo w =
      s.fld (dieKey (cellDie c) (FUSE_SKIP + 4 * cellPy c)) lo w := fun lo w => by
    have offset : FUSE_SKIP + 4 * cellPy c < 0x1000000 := by simp only [FUSE_SKIP, cellPy]; omega
    rw [State.fld, h _ (by simp only [List.mem_singleton, cellKey, dieKey, cellDie]; omega)]
    rfl
  unfold State.logicalOf State.canvasValid State.dieState State.skipA State.skipB State.canvasDc State.canvasDr
  dsimp only
  rw [hpart, skip, skip, engine (ecKey BOOT_CANVAS) (by decide), engine (ecKey BOOT_CANVAS) (by decide),
    engine (ecKey BOOT_CANVAS) (by decide), engine (ecKey BOOT_DIE_STATE) (by decide)]

/-- The queue without the command that ended, its place counted as taken till the cycle ends (R177), and DONE counted. -/
def counted (s : State) (c : Nat) : State :=
  let n := (if (s.cell c).bengFreed.1 = (s.cell c).cyc + 1 then (s.cell c).bengFreed.2 else 0) + 1
  (s.setCell c { s.cell c with beng := (s.cell c).beng.drop 1, bengFreed := ((s.cell c).cyc + 1, n) }).incWrap (cellKey c SPM_BENG_STAT) 8 24 1

theorem cell_counted_same (s : State) (c : Nat) :
    ∃ p, (counted s c).cell c = { s.cell c with beng := (s.cell c).beng.drop 1, bengFreed := p } :=
  ⟨_, cell_setCell_same s c _⟩

theorem cell_counted_other (s : State) {c e : Nat} (h : e ≠ c) : (counted s c).cell e = s.cell e :=
  (cell_setCell s c e _).trans (if_neg h)

theorem done_counted (s : State) (c : Nat) :
    (counted s c).fld (cellKey c SPM_BENG_STAT) 8 24 = (s.fld (cellKey c SPM_BENG_STAT) 8 24 + 1) % 2 ^ 24 :=
  fld_incWrap_same _ 1 (by decide)

theorem regsBut_counted (s : State) (c : Nat) : s.regsBut (counted s c) [cellKey c SPM_BENG_STAT] := fun k hk =>
  (reg_incWrap_other _ 8 24 1 (by simpa using hk)).trans (setCell_reg s c _ k)

/-- The signal that a command names (R178). -/
def ownSignal (s : State) (c : Nat) (b : BengCmd) : Signal :=
  ⟨bits b.sig.toNat 0 6, bits b.sig.toNat 6 2, bits b.sig.toNat 8 8, s.logicalOf c, false⟩

theorem bengFinish_unsignalled (s : State) (c : Nat) {b : BengCmd} (ecc : Nat) (h : bit b.sig.toNat 16 = false) :
    s.bengFinish c b ecc = counted s c := by
  unfold State.bengFinish
  simp only [h]
  rfl

theorem bengFinish_signalled (s : State) (c : Nat) {b : BengCmd} (h : bit b.sig.toNat 16 = true) :
    s.bengFinish c b 0 = (counted s c).applySignal c 0 (ownSignal s c b) := by
  have own : (counted s c).logicalOf c = s.logicalOf c := logicalOf_of_regsBut SPM_BENG_STAT (by decide) rfl (regsBut_counted s c)
  rw [ownSignal, ← own]
  unfold State.bengFinish
  simp only [h, if_true]
  rfl

/-- BENG_COMMAND_DONE moves a last line that passes and ends the command. -/
theorem exec_commandDone {s : State} {c : Nat} {b : BengCmd} {rest : List BengCmd} (hq : (s.cell c).beng = b :: rest)
    (hrun : b.running = true) (hruns : s.runs c = true) (hlast : b.lines + 1 = b.len) (hnext : b.next ≤ (s.cell c).cyc)
    (hb : LinePasses s c b) :
    ∃ t, exec (.bengCommandDone c 0) s = .next (t.bengFinish c b 0) ∧ LineDone s t c b rest := by
  obtain ⟨t, move, line⟩ := bengMove_lineDone rest hb
  exact ⟨t, congrArg Host.Outcome.next (bengDone_of_last 0 hq hrun hruns hlast hnext move), line⟩

namespace LineDone

variable {s t : State} {c : Nat} {b : BengCmd} {rest : List BengCmd}

theorem reg (h : LineDone s t c b rest) (k : Nat) : t.reg k = s.reg k := by
  rw [State.reg, h.regs, h.part]
  rfl

theorem regsBut_counted (h : LineDone s t c b rest) : s.regsBut (counted t c) [cellKey c SPM_BENG_STAT] := fun k hk =>
  (BankEngine.regsBut_counted t c k hk).trans (h.reg k)

theorem done_counted (h : LineDone s t c b rest) :
    (counted t c).fld (cellKey c SPM_BENG_STAT) 8 24 = (s.fld (cellKey c SPM_BENG_STAT) 8 24 + 1) % 2 ^ 24 := by
  rw [BankEngine.done_counted, State.fld, h.reg]
  rfl

theorem cells_counted (h : LineDone s t c b rest) : s.cellsBut (counted t c) c := fun e he =>
  (cell_counted_other t he).trans (h.cells e he)

/-- Of its cell, the end of a command changes the queue, the place freed and the scrubber's note. -/
theorem cell_counted (h : LineDone s t c b rest) :
    ∃ m p, (counted t c).cell c = { s.cell c with scrub := m, beng := rest, bengFreed := p } := by
  obtain ⟨m, hm⟩ := h.cell
  obtain ⟨p, hp⟩ := cell_counted_same t c
  exact ⟨m, p, by rw [hp, hm]; rfl⟩

theorem logicalOf (h : LineDone s t c b rest) : t.logicalOf c = s.logicalOf c :=
  logicalOf_of_regsBut 0 (by decide) h.part fun k _ => h.reg k

end LineDone

/-! ### The obligation -/

/-- Settles O14: a push by what it found, a line by its eight words, an end by the line that came before it. -/
theorem bankEngineRunsCommands : Obligations.BankEngineRunsCommands := by
  unfold Obligations.BankEngineRunsCommands
  refine ⟨⟨fun s c op i req hi h => ?_, fun s c op i req hi h => ?_, fun s c op i req hi h hreq => ?_, fun s c op => ranges_of_accepted⟩,
    fun s c b rest hq hwait hruns => ?_, fun s c b rest hq hrun hop hmore hnext haligned hcheck => ?_,
    fun s c cls r b rest hq hrun hop hmore hnext hcheck => ?_, fun s c cls r b rest hq hrun hruns hop hlast hnext hcheck => ?_,
    fun s c n b rest hq hrun hruns hnext hsig haligned hlen hlines hcheck hop => ?_,
    fun s c n b rest hq hrun hruns hnext hop hsrc hdst hlen hlines hcheckSrc hcheckDst hgood hsig => ?_⟩
  · refine ⟨_, staged s c op, (exec_push hi s).trans (congrArg _ (bengPush_accepted req h)), ?_, rfl, rfl, rfl, rfl, rfl, rfl, rfl, rfl, rfl,
      fun e he => ?_⟩
    · rw [cell_setCell_same]
      rfl
    · rw [cell_setCell, if_neg he]
      rfl
  · refine ⟨_, (exec_push hi s).trans (congrArg _ (bengPush_refused req h)), rfl, rfl, ?_, fun k hk => ?_, _, rfl, rfl, rfl, rfl, rfl⟩
    · rw [raise_fld, fld_setFld_same _ _ (by decide)]
      exact Nat.mod_eq_of_lt (bengReason_lt s c op)
    · rw [raise_reg, reg_setFld_other _ _ _ _ (by simpa using hk)]
      rfl
  · have origin : originCell req = none := by
      rcases hreq with rfl | ⟨p, rfl⟩ <;> rfl
    refine ⟨_, (exec_push hi s).trans (congrArg _ (bengPush_refused req h)), ?_⟩
    rw [origin]
    exact haltQ_raise_none _ _ _ _
  · refine ⟨_, congrArg Host.Outcome.next (bengStart_of_waiting hq hwait hruns), ?_, rfl, rfl, rfl, fun e he => ?_⟩
    · rw [cell_setCell_same]
    · rw [cell_setCell, if_neg he]
  · obtain ⟨t, move, line⟩ := bengMove_lineDone rest ⟨haligned, hcheck, .inl hop⟩
    obtain ⟨m, cell⟩ := line.cell
    rw [bengCycle_of_running hq hrun hmore hnext, move]
    refine ⟨?_, fun i hi => ?_, line.regs⟩
    · have rate : State.bengRate b = 1 := by simp [State.bengRate, hop]
      rw [cell, advanced, rate]
    · rw [line.word i hi, lineWord, if_pos hop]
  · rw [bengCycle_of_running hq hrun hmore hnext, bengMove_refused rest hop hcheck]
    exact bengRefuse_effect s c _ cls r
  · have done := bengDone_of_last 0 hq hrun hruns hlast hnext (bengMove_refused rest hop hcheck)
    obtain ⟨empty, hmem, hregs, e, hrec, hcls, hstruck⟩ := bengRefuse_effect s c (b.dst + 64 * b.lines) cls r
    exact ⟨_, e, congrArg Host.Outcome.next done, empty, hmem, hrec, hcls, hstruck, hregs⟩
  · subst hlines
    obtain ⟨t, done, line⟩ := exec_commandDone hq hrun hruns hlen.symm hnext ⟨haligned, hcheck, hop.imp_right .inl⟩
    obtain ⟨m, p, cell⟩ := line.cell_counted
    rw [bengFinish_unsignalled t c 0 hsig] at done
    refine ⟨_, done, by rw [cell], line.done_counted, fun i hi => ?_, line.otherByte, line.regsBut_counted, line.err, line.cells_counted⟩
    have word : (counted t c).wordAt c (b.dst + 64 * b.lines + 8 * i) = lineWord s c b i := line.word i hi
    have check : (counted t c).chkAt c (b.dst + 64 * b.lines + 8 * i) = lineCheck s c b i := line.check i hi
    rw [word, check, lineCheck, lineWord]
    rcases hop with hop | hop <;> simp [hop]
  · subst hlines
    obtain ⟨t, done, line⟩ := exec_commandDone hq hrun hruns hlen.symm hnext
      ⟨hdst, hcheckDst, .inr (.inr ⟨hop, hsrc, hcheckSrc, hgood⟩)⟩
    obtain ⟨m, p, cell⟩ := line.cell_counted
    rw [bengFinish_signalled t c hsig] at done
    refine ⟨_, done, fun i hi => ?_, line.done_counted, ?_, line.regsBut_counted, line.err, fun e he => ?_⟩
    · have word : lineWord s c b i = s.wordAt c (b.src + 64 * b.lines + 8 * i) := by simp [lineWord, hop]
      exact (line.word i hi).trans word
    · rw [State.applySignal, cell_setCell_same, cell, ownSignal, line.logicalOf]
      rfl
    · rw [State.applySignal, cell_setCell, if_neg he, line.cells_counted e he]

end Sys2Proof.BankEngine
end

section
/-! Boundary scan (R500) by the dies of a part: a smaller part has fewer dies than the model keeps TAP instructions. -/

namespace Sys2Proof.BoundaryScan

open Sys2Proof Sys2Proof.Machine

theorem tapLoad_of_absent {s : State} {d : Nat} (h : s.part.dies ≤ d) (i : TapInstr) : s.tapLoad d i = s :=
  if_neg (Nat.not_lt.2 h)

theorem exec_tapInstruction_of_absent {s : State} {d : Nat} (h : s.part.dies ≤ d) (i : TapInstr) : exec (.tapInstruction d i) s = .next s :=
  congrArg Host.Outcome.next (tapLoad_of_absent h i)

/-- Refutes O47 in its TAP clause, which ranges over the instructions held (`d < s.tap.length`) and not over the part's dies. A DZ2200 as
it comes out of reset holds eight, each IDCODE, and has two dies: a TAP instruction for die 2 changes nothing, where the clause has an
instruction outside R500's list leave BYPASS. -/
theorem not_stopsResetAndRestart : ¬ Obligations.StopsResetAndRestart := by
  intro h
  obtain ⟨-, -, -, taps⟩ := h
  obtain ⟨bypassed, -⟩ := taps { State.reset with part := .dz2200 } 2 .other (by decide)
  obtain ⟨t, next, bypass, -⟩ := bypassed (.inr rfl)
  rw [exec_tapInstruction_of_absent (by decide)] at next
  cases next
  exact absurd bypass (by decide)

end Sys2Proof.BoundaryScan
end

section
/-! Removing pulses (R405, R406, R409). A stretch as its two commands find it, the slots that a count keeps, and the counts that the regions
take at slot 0 of a frame. -/

namespace Sys2Proof.PulseRemoval

open Sys2Proof Sys2Proof.Machine Sys2Proof.Laws

/-! ### The droop stretch (R409) -/

section
variable {s : State} {r mv : Nat}

theorem droopFire_of_small_fall (h : mv < s.droopCfg r 0 6) : s.droopFire r mv = s := if_pos h

/-- A firing outside a stretch starts one and is counted, unless software clears the count in the slot (R16). -/
theorem droopFire_of_no_stretch (hx : (s.region r).stretch = none) (h : s.droopCfg r 0 6 ≤ mv)
    (hw : s.written (regionKey CLK_DROOP r) = false) :
    s.droopFire r mv =
      (s.setRegion r { s.region r with stretch := some (s.slot, s.slot) }).incSat (regionKey CLK_DROOP r) 0 16 1 := by
  have hw' : (s.setRegion r { s.region r with stretch := some (s.slot, s.slot) }).written (regionKey CLK_DROOP r) = false := hw
  simp [State.droopFire, Nat.not_lt.2 h, hx, State.incSatUn, hw']

theorem droopFire_of_stretch {a b : Nat} (hx : (s.region r).stretch = some (a, b)) (h : s.droopCfg r 0 6 ≤ mv) :
    s.droopFire r mv = s.setRegion r { s.region r with stretch := some (a, s.slot) } := by
  simp [State.droopFire, Nat.not_lt.2 h, hx]

/-- HOLD slots that fit between the last firing and an even slot, all within DROOP_MV, end the stretch there. -/
theorem droopEnd_of_held {good a b : Nat} (hx : (s.region r).stretch = some (a, b)) (hmv : mv < s.droopCfg r 0 6)
    (hgood : s.droopCfg r 8 8 ≤ good) (hafter : b + s.droopCfg r 8 8 < s.slot) (heven : s.slot % 2 = 0) :
    s.droopEnd r mv good = s.setRegion r { s.region r with stretch := none } := by
  have hheld : s.droopCfg r 8 8 ≤ min good (s.slot - 1 - b) := by omega
  simp only [State.droopEnd, hx]
  exact if_pos ⟨hmv, hheld, heven⟩

theorem stretched_odd {a b slot : Nat} (hfrom : a + 2 ≤ slot) (hodd : slot % 2 = 1) : stretched (some (a, b)) slot = true := by
  simp [stretched, hfrom, hodd]

theorem pulse_of_stretched (h : stretched (s.region r).stretch s.slot = true) : s.pulse r = false := by
  simp [State.pulse, h]

theorem regionsBut_setRegion (x : Region) : s.regionsBut (s.setRegion r x) r := fun q hq => by rw [region_setRegion, if_neg hq]

end

/-! ### The slots that a count keeps (R405) -/

theorem keepsSlot_iff {n k : Nat} : keepsSlot n k = true ↔ k ∉ removalOrder.take (16 - n) := by
  simp [keepsSlot]

/-- A smaller count removes a longer part of the one order, so every slot it keeps a larger count keeps too. -/
theorem keepsSlot_mono {m n k : Nat} (h : m ≤ n) (hm : keepsSlot m k = true) : keepsSlot n k = true :=
  keepsSlot_iff.2 fun hk => keepsSlot_iff.1 hm (List.take_subset_take_left removalOrder (Nat.sub_le_sub_left h 16) hk)

theorem length_keepsSlot : ∀ n < 17, 8 ≤ n → ((List.range 16).filter (keepsSlot n)).length = n := by decide

theorem keepsSlot_eight_iff_even : ∀ k < 16, keepsSlot 8 k = true ↔ k % 2 = 0 := by decide

/-! ### The counts at slot 0 of a frame (R406) -/

/-- Changing every entry of a sparse map changes what is read at a key that the map lists. -/
theorem get_map_of_listed {α : Type} (f : Nat → α → α) {m : SMap α} {k : Nat} {v : α} (h : (k, v) ∈ m) (d : α) :
    SMap.get (m.map fun p => (p.1, f p.1 p.2)) k d = f k (SMap.get m k d) := by
  induction m with
  | nil => cases h
  | cons p t ih =>
    obtain ⟨j, u⟩ := p
    by_cases hj : j = k
    · subst hj
      simp [SMap.get]
    · have ht : (k, v) ∈ t := (List.mem_cons.1 h).resolve_left fun e => hj (congrArg Prod.fst e).symm
      simpa [SMap.get, hj] using ih ht

theorem region_latchCounts {s : State} {r : Nat} {x : Region} (h : (r, x) ∈ s.regions) :
    s.latchCounts.region r = { s.region r with n := s.pulseCount r } :=
  get_map_of_listed (fun q (y : Region) => { y with n := s.pulseCount q }) h Region.reset

theorem step_at_frame_start {s : State} (hp : s.pending = []) (h0 : s.slot % 16 = 0) :
    step s = .next s.latchCounts.tickEnd.passSlot.stopSettle := by
  have start : s.tickStart = s.latchCounts := if_pos h0
  rw [← start, step, hp]
  rfl

/-! ### The obligation -/

/-- Settles O2: the droop commands by the stretch they find, the slots kept by the one removal order, and the counts by the latch that
opens the slot. -/
theorem pulseRemovalFollowsSlots : Obligations.PulseRemovalFollowsSlots := by
  unfold Obligations.PulseRemovalFollowsSlots
  refine ⟨⟨fun s d rx ry mv h => ?_, fun s d rx ry mv hx h hw => ?_, fun s d rx ry mv a b hx h => ?_,
    fun s d rx ry mv good a b hx hmv hgood hafter heven => ?_, fun s r a b hx hfrom hodd => ?_⟩,
    fun n h8 h16 => length_keepsSlot n (Nat.lt_succ_of_le h16) h8, fun m n k h _ hm => keepsSlot_mono h hm, keepsSlot_eight_iff_even,
    fun s r x hr hp h0 => ?_⟩
  · exact congrArg Host.Outcome.next (droopFire_of_small_fall h)
  · refine ⟨_, congrArg Host.Outcome.next (droopFire_of_no_stretch hx h hw), ?_, fld_incSat_same _ 1 (by decide), fun k hk => ?_,
      regionsBut_setRegion _, rfl⟩
    · rw [incSat_region, region_setRegion_same]
    · rw [reg_incSat_other _ _ _ _ (by simpa using hk), setRegion_reg]
  · refine ⟨_, congrArg Host.Outcome.next (droopFire_of_stretch hx h), ?_, rfl, rfl⟩
    rw [region_setRegion_same]
  · refine ⟨_, congrArg Host.Outcome.next (droopEnd_of_held hx hmv hgood hafter heven), ?_, regionsBut_setRegion _, rfl⟩
    rw [region_setRegion_same]
  · exact pulse_of_stretched (by rw [hx]; exact stretched_odd hfrom hodd)
  · refine ⟨s.latchCounts, step_at_frame_start hp h0, rfl, ?_⟩
    rw [region_latchCounts hr]
    rfl

end Sys2Proof.PulseRemoval
end

section
/-! PROOFS. The machine as a whole: what a step is, what every command can reach, and what stays canonical. -/

namespace Sys2Proof.WholeMachine

open Sys2Proof Sys2Proof.Machine Sys2Proof.Laws

/-! ### A step -/

theorem step_front {s : State} {c : Instr} {rest : List Instr} (h : s.pending = c :: rest) : step s = exec c { s with pending := rest } := by
  rw [step, h]

theorem step_idle {s : State} (h : s.pending = []) : step s = .next s.tick := by
  rw [step, h]

/-- Settles O55: the front command of the queue is what a step matches on. -/
theorem stepRunsTheFrontCommand : Obligations.StepRunsTheFrontCommand := fun _ _ _ h => step_front h

/-! ### What every command can reach -/

/-- One lemma of `Laws.Reach` for each command. -/
theorem reach_of_command : ∀ c : Instr, Reach.Statement c
  | .registerWrite _ _ _ _ => Reach.registerWrite _ _ _ _
  | .lowWordWriteHeld _ _ _ => Reach.lowWordWriteHeld _ _ _
  | .highWordWritePair _ _ _ => Reach.highWordWritePair _ _ _
  | .lowWordReadLatch _ _ => Reach.lowWordReadLatch _ _
  | .cellFailInService _ _ => Reach.cellFailInService _ _
  | .quickRemap _ _ => Reach.quickRemap _ _
  | .mxeDescPush _ => Reach.mxeDescPush _
  | .easelLoadSegment _ => Reach.easelLoadSegment _
  | .easelReady _ => Reach.easelReady _
  | .swapWaveEnter _ => Reach.swapWaveEnter _
  | .feederFetch _ => Reach.feederFetch _
  | .freezeWatchdogExpire _ => Reach.freezeWatchdogExpire _
  | .finalRowCheck _ _ => Reach.finalRowCheck _ _
  | .replayVerdict _ _ => Reach.replayVerdict _ _
  | .drainLineWrite _ => Reach.drainLineWrite _
  | .passComplete _ => Reach.passComplete _
  | .ballastRow _ _ => Reach.ballastRow _ _
  | .patternLoad _ => Reach.patternLoad _
  | .mxeFlush _ => Reach.mxeFlush _
  | .mxeCntClrFreeze _ => Reach.mxeCntClrFreeze _
  | .mxeCntClrEasel _ => Reach.mxeCntClrEasel _
  | .mxeRplCtrlWrite _ _ => Reach.mxeRplCtrlWrite _ _
  | .mxeArithClrArith _ => Reach.mxeArithClrArith _
  | .mxeArithClrChk _ => Reach.mxeArithClrChk _
  | .mxeArithClrRpl _ => Reach.mxeArithClrRpl _
  | .spmBankOwnWrite _ _ => Reach.spmBankOwnWrite _ _
  | .ownershipGovern _ => Reach.ownershipGovern _
  | .coreInstruction _ _ => Reach.coreInstruction _ _
  | .coreLoad _ _ => Reach.coreLoad _ _
  | .coreStore _ _ => Reach.coreStore _ _
  | .coreVectorAccess _ _ => Reach.coreVectorAccess _ _
  | .controlWindowStore _ _ => Reach.controlWindowStore _ _
  | .farWindowLoad _ _ => Reach.farWindowLoad _ _
  | .farWindowStore _ _ => Reach.farWindowStore _ _
  | .farLoadResponse _ _ _ => Reach.farLoadResponse _ _ _
  | .fence _ _ => Reach.fence _ _
  | .mergeEntryWrite _ _ => Reach.mergeEntryWrite _ _
  | .mergeAgeEvict _ _ => Reach.mergeAgeEvict _ _
  | .coreStart _ _ => Reach.coreStart _ _
  | .coreStop _ _ => Reach.coreStop _ _
  | .imemLoad _ _ _ _ => Reach.imemLoad _ _ _ _
  | .imemLoadComplete _ _ => Reach.imemLoadComplete _ _
  | .eccRawWrite _ _ => Reach.eccRawWrite _ _
  | .eccRawRead _ _ => Reach.eccRawRead _ _
  | .primerDone _ _ => Reach.primerDone _ _
  | .scrubLineRead _ _ => Reach.scrubLineRead _ _
  | .scrubWriteback _ _ => Reach.scrubWriteback _ _
  | .istoreScrub _ _ => Reach.istoreScrub _ _
  | .bengFill _ _ => Reach.bengFill _ _
  | .bengCopy _ _ => Reach.bengCopy _ _
  | .bengPoison _ _ => Reach.bengPoison _ _
  | .bengCommandStart _ => Reach.bengCommandStart _
  | .bengCommandDone _ _ => Reach.bengCommandDone _ _
  | .packetRoute _ _ _ => Reach.packetRoute _ _ _
  | .linkNakReceive _ _ _ => Reach.linkNakReceive _ _ _
  | .loopbackTestDone _ _ _ _ _ _ => Reach.loopbackTestDone _ _ _ _ _ _
  | .detourLoad _ _ => Reach.detourLoad _ _
  | .writePacketLand _ _ _ => Reach.writePacketLand _ _ _
  | .readPacket _ _ => Reach.readPacket _ _
  | .readResponseReceive _ => Reach.readResponseReceive _
  | .ackReceive _ => Reach.ackReceive _
  | .signalPacket _ _ => Reach.signalPacket _ _
  | .multicastWriteLand _ _ => Reach.multicastWriteLand _ _
  | .multicastSignal _ _ => Reach.multicastSignal _ _
  | .txPut _ _ => Reach.txPut _ _
  | .txGet _ _ => Reach.txGet _ _
  | .txMulticastPut _ _ => Reach.txMulticastPut _ _
  | .txCommandComplete _ _ => Reach.txCommandComplete _ _
  | .mcStallWatchdog _ => Reach.mcStallWatchdog _
  | .mcLandAdd _ _ _ => Reach.mcLandAdd _ _ _
  | .syncArm _ _ _ _ => Reach.syncArm _ _ _ _
  | .syncSigWrite _ _ _ => Reach.syncSigWrite _ _ _
  | .syncWait _ _ => Reach.syncWait _ _
  | .syncWaitSatisfied _ _ _ => Reach.syncWaitSatisfied _ _ _
  | .syncWaitWatchdog _ _ => Reach.syncWaitWatchdog _ _
  | .loadKind5Write _ _ => Reach.loadKind5Write _ _
  | .loadRound _ _ _ => Reach.loadRound _ _ _
  | .loadChunkRepair _ _ _ _ _ => Reach.loadChunkRepair _ _ _ _ _
  | .jobStart _ => Reach.jobStart _
  | .jobHalt _ => Reach.jobHalt _
  | .jobEnd _ => Reach.jobEnd _
  | .stepDeclare _ => Reach.stepDeclare _
  | .stepNumSet _ => Reach.stepNumSet _
  | .testKernelCall _ _ _ => Reach.testKernelCall _ _ _
  | .gddrRead _ _ _ _ _ => Reach.gddrRead _ _ _ _ _
  | .gddrWrite _ _ _ _ _ _ => Reach.gddrWrite _ _ _ _ _ _
  | .channelRetrainDone _ _ _ _ => Reach.channelRetrainDone _ _ _ _
  | .gddrScrubSegment _ _ _ _ => Reach.gddrScrubSegment _ _ _ _
  | .gddrTempRead _ _ _ => Reach.gddrTempRead _ _ _
  | .gddrRefresh _ _ _ => Reach.gddrRefresh _ _ _
  | .memEccRawWrite _ _ _ => Reach.memEccRawWrite _ _ _
  | .memEccRawRead _ _ _ => Reach.memEccRawRead _ _ _
  | .fabSubmitPut _ _ _ => Reach.fabSubmitPut _ _ _
  | .fabSubmitGet _ _ _ => Reach.fabSubmitGet _ _ _
  | .fabSubmitSignal _ _ _ => Reach.fabSubmitSignal _ _ _
  | .fabSubmitReduce _ _ _ => Reach.fabSubmitReduce _ _ _
  | .fabCommandStart _ _ => Reach.fabCommandStart _ _
  | .putFrameReceive _ _ _ _ => Reach.putFrameReceive _ _ _ _
  | .getRequestReceive _ _ _ _ => Reach.getRequestReceive _ _ _ _
  | .signalFrameReceive _ _ _ _ => Reach.signalFrameReceive _ _ _ _
  | .reduceFrameReceive _ _ _ _ => Reach.reduceFrameReceive _ _ _ _
  | .getResponseReceive _ _ _ _ => Reach.getResponseReceive _ _ _ _
  | .completionReceive _ _ _ _ => Reach.completionReceive _ _ _ _
  | .frameAckReceive _ _ _ _ => Reach.frameAckReceive _ _ _ _
  | .faultNoticeReceive _ _ _ _ => Reach.faultNoticeReceive _ _ _ _
  | .nativeLinkNak _ _ _ => Reach.nativeLinkNak _ _ _
  | .e2eAckSend _ => Reach.e2eAckSend _
  | .e2eResendTimeout _ => Reach.e2eResendTimeout _
  | .commandTimeout _ _ => Reach.commandTimeout _ _
  | .fecUncorrectableBurst _ _ _ _ _ => Reach.fecUncorrectableBurst _ _ _ _ _
  | .partnerSignalLoss _ _ => Reach.partnerSignalLoss _ _
  | .fabPcmdRetrain _ _ => Reach.fabPcmdRetrain _ _
  | .portRetrainDone _ _ _ _ _ => Reach.portRetrainDone _ _ _ _ _
  | .fabPortEnWrite _ _ _ => Reach.fabPortEnWrite _ _ _
  | .contextOpen _ => Reach.contextOpen _
  | .contextClose _ => Reach.contextClose _
  | .pcieLinkUp _ _ _ => Reach.pcieLinkUp _ _ _
  | .pcieLinkDown _ => Reach.pcieLinkDown _
  | .hostBarRead _ _ _ _ _ _ => Reach.hostBarRead _ _ _ _ _ _
  | .hostBarWrite _ _ _ _ _ _ _ => Reach.hostBarWrite _ _ _ _ _ _ _
  | .ringDoorbell _ _ _ => Reach.ringDoorbell _ _ _
  | .ringEntryFetch _ _ _ _ => Reach.ringEntryFetch _ _ _ _
  | .ringNop _ _ => Reach.ringNop _ _
  | .ringDmaHostToEngine _ _ _ => Reach.ringDmaHostToEngine _ _ _
  | .ringDmaEngineToHost _ _ _ => Reach.ringDmaEngineToHost _ _ _
  | .ringRegisterWrite _ _ _ => Reach.ringRegisterWrite _ _ _
  | .ringSignal _ _ => Reach.ringSignal _ _
  | .ringLoad _ _ _ => Reach.ringLoad _ _ _
  | .ringJobCommand _ _ _ => Reach.ringJobCommand _ _ _
  | .ringEntryComplete _ _ => Reach.ringEntryComplete _ _
  | .ringEnable _ _ => Reach.ringEnable _ _
  | .ringDisable _ _ => Reach.ringDisable _ _
  | .msixRaise _ _ _ => Reach.msixRaise _ _ _
  | .evqEnable _ => Reach.evqEnable _
  | .evqCiWrite _ _ => Reach.evqCiWrite _ _
  | .outboundRead _ _ _ => Reach.outboundRead _ _ _
  | .outboundWrite _ _ _ _ => Reach.outboundWrite _ _ _ _
  | .outboundCompletion _ _ _ _ _ => Reach.outboundCompletion _ _ _ _ _
  | .outboundCplTimeout _ => Reach.outboundCplTimeout _
  | .functionLevelReset _ => Reach.functionLevelReset _
  | .perstAssert _ => Reach.perstAssert _
  | .perstRelease _ => Reach.perstRelease _
  | .inputOutOfRange _ _ _ => Reach.inputOutOfRange _ _ _
  | .bladeLoss _ => Reach.bladeLoss _
  | .busConverterFail _ => Reach.busConverterFail _
  | .phaseFail _ _ _ => Reach.phaseFail _ _ _
  | .substrateRegulatorFail _ _ => Reach.substrateRegulatorFail _ _
  | .ldoSliceFail _ _ _ _ _ => Reach.ldoSliceFail _ _ _ _ _
  | .regionComputeOn _ _ _ => Reach.regionComputeOn _ _ _
  | .regionComputeOff _ _ _ => Reach.regionComputeOff _ _ _
  | .regionFullOff _ _ _ => Reach.regionFullOff _ _ _
  | .regionRouterOn _ _ _ => Reach.regionRouterOn _ _ _
  | .stageAdmission _ => Reach.stageAdmission _
  | .quarterStrength _ _ _ => Reach.quarterStrength _ _ _
  | .turnOnAbandon _ _ _ => Reach.turnOnAbandon _ _ _
  | .powerGood _ _ _ => Reach.powerGood _ _ _
  | .powerGoodMissed _ _ _ => Reach.powerGoodMissed _ _ _
  | .activityEstimate _ _ _ => Reach.activityEstimate _ _ _
  | .engineEstimate _ _ => Reach.engineEstimate _ _
  | .trimUpdate => Reach.trimUpdate
  | .bandIntervalJudge => Reach.bandIntervalJudge
  | .averageModeEval => Reach.averageModeEval
  | .timeFrame _ => Reach.timeFrame _
  | .windowAllFrame _ => Reach.windowAllFrame _
  | .windowFrame _ => Reach.windowFrame _
  | .budgetFrame _ => Reach.budgetFrame _
  | .cancelFrame _ => Reach.cancelFrame _
  | .rampRequest _ => Reach.rampRequest _
  | .regionTempEval _ _ _ _ => Reach.regionTempEval _ _ _ _
  | .heatSwitchOn _ _ _ => Reach.heatSwitchOn _ _ _
  | .tempSensorFail _ _ _ => Reach.tempSensorFail _ _ _
  | .thermalStop _ _ _ => Reach.thermalStop _ _ _
  | .coolantDeassert _ => Reach.coolantDeassert _
  | .ptpSyncMessage _ _ _ => Reach.ptpSyncMessage _ _ _
  | .timeSet _ => Reach.timeSet _
  | .timeSrcWrite _ => Reach.timeSrcWrite _
  | .pllLockLoss _ _ => Reach.pllLockLoss _ _
  | .dieThrottleApply _ => Reach.dieThrottleApply _
  | .dieThrottleDecay _ => Reach.dieThrottleDecay _
  | .droopFire _ _ _ _ => Reach.droopFire _ _ _ _
  | .droopStretchEnd _ _ _ _ _ => Reach.droopStretchEnd _ _ _ _ _
  | .marginEval _ _ _ _ _ => Reach.marginEval _ _ _ _ _
  | .criticalMargin _ _ _ _ => Reach.criticalMargin _ _ _ _
  | .targetedTestStart _ => Reach.targetedTestStart _
  | .targetedTestVerdict _ _ => Reach.targetedTestVerdict _ _
  | .firmwareSelfTest _ _ => Reach.firmwareSelfTest _ _
  | .bboxSelect _ => Reach.bboxSelect _
  | .firmwareVerify _ _ _ => Reach.firmwareVerify _ _ _
  | .configRead _ => Reach.configRead _
  | .diePowerUp _ _ _ _ => Reach.diePowerUp _ _ _ _
  | .pllCalibration _ _ _ _ => Reach.pllCalibration _ _ _ _
  | .neighbourTest _ _ _ _ => Reach.neighbourTest _ _ _ _
  | .linkTraining _ _ _ => Reach.linkTraining _ _ _
  | .bootResetWarm _ => Reach.bootResetWarm _
  | .bootResetCold _ => Reach.bootResetCold _
  | .dieControllerWatchdog _ => Reach.dieControllerWatchdog _
  | .flashWriteComplete _ _ => Reach.flashWriteComplete _ _
  | .licInstallLicence _ _ => Reach.licInstallLicence _ _
  | .licInstallFirmware _ _ _ => Reach.licInstallFirmware _ _ _
  | .svcRemoveRepairEntries _ _ _ _ => Reach.svcRemoveRepairEntries _ _ _ _
  | .svcClearBlackBox _ _ => Reach.svcClearBlackBox _ _
  | .svcInstallRackKeys _ _ _ => Reach.svcInstallRackKeys _ _ _
  | .svcRemoveLicence _ _ _ => Reach.svcRemoveLicence _ _ _
  | .svcReplaceConfig _ _ _ => Reach.svcReplaceConfig _ _ _
  | .svcSelectFirmwareSlot _ _ _ => Reach.svcSelectFirmwareSlot _ _ _
  | .svcRaiseMinSvn _ _ => Reach.svcRaiseMinSvn _ _
  | .tapInstruction _ _ => Reach.tapInstruction _ _
  | .streamedRowPresent _ _ => Reach.streamedRowPresent _ _
  | .highWordReadPair _ _ => Reach.highWordReadPair _ _
  | .pcieLinkRecovery _ _ _ => Reach.pcieLinkRecovery _ _ _
  | .pcieConfigRequest _ _ _ => Reach.pcieConfigRequest _ _ _
  | .malformedFrameReceive _ _ _ => Reach.malformedFrameReceive _ _ _
  | .rackFrameIgnored _ => Reach.rackFrameIgnored _
  | .quickRemapComplete => Reach.quickRemapComplete
  | .panelHalt => Reach.panelHalt
  | .loadStart _ => Reach.loadStart _
  | .loadPrepare => Reach.loadPrepare
  | .loadRoundTimeout => Reach.loadRoundTimeout
  | .loadInitialise => Reach.loadInitialise
  | .loadAbort => Reach.loadAbort
  | .inputLoss => Reach.inputLoss
  | .inputColdStartCondition => Reach.inputColdStartCondition
  | .bladeRestore => Reach.bladeRestore
  | .spareConverterFail => Reach.spareConverterFail
  | .bandControlStep => Reach.bandControlStep
  | .bandModeChange => Reach.bandModeChange
  | .rampTick => Reach.rampTick
  | .statusFrameSend => Reach.statusFrameSend
  | .orphanEnter => Reach.orphanEnter
  | .canBusOff => Reach.canBusOff
  | .coolantStop => Reach.coolantStop
  | .coolantAssert => Reach.coolantAssert
  | .bandRestart => Reach.bandRestart
  | .ppsEdge _ => Reach.ppsEdge _
  | .refLoss => Reach.refLoss
  | .holdoverEnter => Reach.holdoverEnter
  | .unsyncEnter => Reach.unsyncEnter
  | .throttleApply => Reach.throttleApply
  | .errorRecordArrive => Reach.errorRecordArrive
  | .bboxCommit _ _ => Reach.bboxCommit _ _
  | .udpDatagramSend => Reach.udpDatagramSend
  | .mgmtLinkUp => Reach.mgmtLinkUp
  | .coverageCheck => Reach.coverageCheck
  | .startupCoolantTimeout => Reach.startupCoolantTimeout
  | .primeAll => Reach.primeAll
  | .fuseMergePublish _ => Reach.fuseMergePublish _
  | .gddrPriming => Reach.gddrPriming
  | .bootLockReady => Reach.bootLockReady
  | .phaseOverrun => Reach.phaseOverrun
  | .warmRestart => Reach.warmRestart
  | .heartbeatSend => Reach.heartbeatSend
  | .heartbeatLossFailover => Reach.heartbeatLossFailover
  | .licAttest => Reach.licAttest
  | .licReadCertificate => Reach.licReadCertificate
  | .w4RateApply => Reach.w4RateApply
  | .moduleReset => Reach.moduleReset
  | .moduleResetRelease => Reach.moduleResetRelease
  | .mgmtLinkDown => Reach.mgmtLinkDown

/-- Settles O58: the reach of each command's meaning. -/
theorem everyCommandStaysWithinItsReach : Obligations.EveryCommandStaysWithinItsReach := reach_of_command

/-- The queue of waiting commands is no part of the contents. -/
theorem canon_dequeue {s : State} (h : s.canon) (rest : List Instr) : State.canon { s with pending := rest } := h

/-- Settles O59: a command keeps the contents canonical by its reach, an idle step by that of the slot. -/
theorem everyStepKeepsContentsCanonical : Obligations.EveryStepKeepsContentsCanonical := by
  intro s t hs ht
  cases hp : s.pending with
  | nil =>
    obtain ⟨-, -, -, hcanon, -⟩ := tick_within s
    rw [step_idle hp] at ht
    injection ht with ht
    exact ht ▸ hcanon hs
  | cons c rest =>
    obtain ⟨u, hu, -, -, -, hcanon, -⟩ := reach_of_command c { s with pending := rest }
    rw [step_front hp, hu] at ht
    injection ht with ht
    exact ht ▸ hcanon (canon_dequeue hs rest)

/-! ### An idle slot -/

theorem evqGap_of_no_batch {s : State} {p : Nat} (h : (s.hport p).batch = 0) : s.evqGap p = s := if_pos h

theorem linkIdle_of_nothing_due {s : State} {d p : Nat} (h : (s.fport d p).due = false) : s.linkIdle d p = s := by
  simp [State.linkIdle, h]

theorem jobDone_of_not_running {s : State} (h : ∀ j ∈ s.jobs, j.state ≠ 3) (id : Nat) : s.jobDone id = s := by
  unfold State.jobDone
  split
  · next j hj => exact if_neg fun hd => h j (List.mem_of_find?_eq_some hj) hd.1
  · rfl

theorem settleConverters_of_none_failed {s : State} (h : ∀ d, (s.die d).convFail = false) : s.settleConverters = s :=
  List.foldl_fixed' (fun d => by simp [h d]) _

theorem haltSettle_of_no_halt {s : State} (h : s.err.haltQ = []) : s.haltSettle = s := by
  have herr : ({ s.err with haltQ := [] } : Err) = s.err := by rw [← h]
  simp only [State.haltSettle, h, List.map_nil, List.filter_nil, List.foldl_nil, herr]

theorem powerSettle_of_not_phase_three {s : State} (h : s.inPhase 3 = false) : s.powerSettle = s := by
  simp [State.powerSettle, h]

theorem busSend_of_no_status {s : State} (h : s.band.statusQ = none) : s.busSend = s := by
  rw [State.busSend, h]

theorem stopSettle_of_no_stop {s : State} (h : s.band.stopDue = none) : s.stopSettle = s := by
  rw [State.stopSettle, h]

/-- Nothing of what the end of a slot settles is there to settle. -/
structure Idle (s : State) : Prop where
  cells : s.cells = []
  batch : ∀ p, (s.hport p).batch = 0
  conv : ∀ d, (s.die d).convFail = false
  due : ∀ d p, (s.fport d p).due = false
  phase : s.inPhase 3 = false
  stop : s.band.stopDue = none
  jobs : ∀ j ∈ s.jobs, j.state ≠ 3
  halts : s.err.haltQ = []
  status : s.band.statusQ = none

theorem Idle.tickStart {s : State} (h : Idle s) : Idle s.tickStart := by
  unfold State.tickStart
  split
  · exact ⟨h.cells, h.batch, h.conv, h.due, h.phase, h.stop, h.jobs, h.halts, h.status⟩
  · exact h

theorem tickEnd_of_idle {s : State} (h : Idle s) : s.tickEnd = s := by
  have hports : s.part.ports.foldl (fun v p => v.evqGap p) s = s :=
    List.foldl_fixed' (fun p => evqGap_of_no_batch (h.batch p)) _
  have hlinks : (List.range (3 * s.part.dies)).foldl (fun v i => v.linkIdle (i / 3) (i % 3)) s = s :=
    List.foldl_fixed' (fun i => linkIdle_of_nothing_due (h.due _ _)) _
  have hjobs : s.jobsSettle = s := List.foldl_fixed' (fun j => jobDone_of_not_running h.jobs j.id) _
  simp only [State.tickEnd, h.cells, List.foldl_nil, hports, hlinks, haltSettle_of_no_halt h.halts, hjobs,
    settleConverters_of_none_failed h.conv, powerSettle_of_not_phase_three h.phase, busSend_of_no_status h.status]

theorem tick_of_idle {s : State} (h : Idle s) : s.tick = s.tickStart.passSlot := by
  rw [State.tick, tickEnd_of_idle h.tickStart]
  exact stopSettle_of_no_stop h.tickStart.stop

/-- Settles O56: the slot's reach, and nothing to settle at the end of an idle one. -/
theorem idleStepPassesOneSlot : Obligations.IdleStepPassesOneSlot := by
  intro s hp
  obtain ⟨hpart, hslot, hpend, hcanon, hreach⟩ := tick_within s
  refine ⟨s.tick, step_idle hp, hslot, hpend.trans hp, hpart, hcanon, hreach, ?_⟩
  intro hcells hbatch hconv hdue hphase hstop hjobs hhalts hstatus hlate
  have hidle : Idle s := ⟨hcells, hbatch, hconv, hdue, hphase, hstop, hjobs, hhalts, hstatus⟩
  have hstart : s.tickStart = { s with regions := s.tickStart.regions } := by
    unfold State.tickStart
    split <;> rfl
  have hboot : ({ s.boot with remapLate := [] } : Boot) = s.boot := by rw [← hlate]
  rw [tick_of_idle hidle, hstart]
  refine ⟨rfl, rfl, rfl, rfl, rfl, rfl, hboot, rfl, rfl, rfl, rfl, rfl, rfl, ?_, rfl, rfl, rfl⟩
  exact congrArg (List.map _) hcells

/-! ### Reset -/

/-- The register of a die or of a cell that a table's row places, with nothing that differs by part. -/
theorem regReset_of_row {p : Part} {k : Nat} {r : RegRow} (h : findRow (unitRows (k / 0x1000000)) (k % 0x1000000) = some (r, false))
    (hp : partReset p k = 0) : regReset p k = BitVec.ofNat 64 (r.fields.map fun f => f.reset * 2 ^ f.lo).sum := by
  rw [regReset, h, hp]
  rfl

theorem partReset_dieKey (p : Part) (d : Nat) {o : Nat} (ho : o < 0x1000000) (h : o ≠ PCIE_ID) : partReset p (dieKey d o) = 0 := by
  have e (n : Nat) (hn : n < 0x1000000) : dieKey d o ≠ ecKey n := by
    unfold dieKey ecKey
    omega
  have e' (q : Nat) : dieKey d o ≠ dieKey q PCIE_ID := by
    simp only [dieKey, PCIE_ID] at h ⊢
    omega
  simp [partReset, e BAND_CTRL (by decide), e BAND_AVG (by decide), e RAMP_ORPHAN (by decide), e']

theorem partReset_cellKey (p : Part) (c : Nat) {o : Nat} (ho : o < 0x1000000) : partReset p (cellKey c o) = 0 := by
  have e (n : Nat) (hn : n < 0x1000000) : cellKey c o ≠ ecKey n := by
    unfold cellKey ecKey
    omega
  have e' (q : Nat) (hq : q < 8) : cellKey c o ≠ dieKey q PCIE_ID := by
    simp only [cellKey, dieKey, PCIE_ID]
    omega
  simp [partReset, e BAND_CTRL (by decide), e BAND_AVG (by decide), e RAMP_ORPHAN (by decide), e' 0 (by decide), e' 3 (by decide)]

theorem reset_dieKey {d o : Nat} {r : RegRow} (hd : d < 8) (ho : o < 0x1000000) (h : o ≠ PCIE_ID)
    (hr : findRow dieRows o = some (r, false)) :
    State.reset.reg (dieKey d o) = BitVec.ofNat 64 (r.fields.map fun f => f.reset * 2 ^ f.lo).sum := by
  have hunit : dieKey d o / 0x1000000 = 1 + d := by unfold dieKey; omega
  have hoff : dieKey d o % 0x1000000 = o := by unfold dieKey; omega
  have hrows : unitRows (1 + d) = dieRows := by
    rw [unitRows, if_neg (by omega), if_pos (by omega)]
  exact regReset_of_row (by rw [hunit, hoff, hrows, hr]) (partReset_dieKey _ d ho h)

theorem reset_cellKey (c : Nat) {o : Nat} {r : RegRow} (ho : o < 0x1000000) (hr : findRow cellRows o = some (r, false)) :
    State.reset.reg (cellKey c o) = BitVec.ofNat 64 (r.fields.map fun f => f.reset * 2 ^ f.lo).sum := by
  have hunit : cellKey c o / 0x1000000 = 16 + c := by unfold cellKey; omega
  have hoff : cellKey c o % 0x1000000 = o := by unfold cellKey; omega
  have hrows : unitRows (16 + c) = cellRows := by
    rw [unitRows, if_neg (by omega), if_neg (by omega)]
  exact regReset_of_row (by rw [hunit, hoff, hrows, hr]) (partReset_cellKey _ c ho)

theorem row_TEMP_CFG : findRow dieRows TEMP_CFG = some (⟨TEMP_CFG, 0, 1, false, [⟨0, 8, .rw, 95⟩, ⟨8, 8, .rw, 110⟩]⟩, false) := by decide

/-- The row of the regions' temperatures (R396). -/
def tempRow : RegRow :=
  ⟨TEMP_R, 4, 64, false, [⟨0, 8, .ro, 0⟩, ⟨8, 8, .ro, 128⟩, ⟨16, 5, .ro, 16⟩, ⟨21, 1, .ro, 0⟩, ⟨22, 1, .ro, 0⟩, ⟨23, 1, .ro, 0⟩]⟩

theorem row_TEMP_R : ∀ n < 64, findRow dieRows (TEMP_R + 4 * n) = some (tempRow, false) := by decide

theorem row_SPM_PRIME_STAT : findRow cellRows SPM_PRIME_STAT =
    some (⟨SPM_PRIME_STAT, 0, 1, false, [⟨0, 1, .ro, 0⟩, ⟨1, 1, .ro, 0⟩]⟩, false) := by decide

theorem reset_TEMP_CFG {d : Nat} (hd : d < 8) : State.reset.reg (dieKey d TEMP_CFG) = BitVec.ofNat 64 (95 + 110 * 2 ^ 8) :=
  reset_dieKey hd (by decide) (by decide) row_TEMP_CFG

theorem reset_TEMP_R {r : Nat} (hr : r < 512) : State.reset.reg (regionKey TEMP_R r) = BitVec.ofNat 64 (128 * 2 ^ 8 + 16 * 2 ^ 16) :=
  have hn : r % 64 < 64 := Nat.mod_lt _ (by decide)
  reset_dieKey (by unfold regionDie; omega) (by simp only [TEMP_R]; omega) (by simp only [TEMP_R, PCIE_ID]; omega) (row_TEMP_R _ hn)

theorem reset_SPM_PRIME_STAT (c : Nat) : State.reset.reg (cellKey c SPM_PRIME_STAT) = 0 :=
  reset_cellKey c (by decide) row_SPM_PRIME_STAT

/-- Settles O57: nothing is listed after reset, so every register reads its table's value. -/
theorem resetLeavesTheTablesValues : Obligations.ResetLeavesTheTablesValues := by
  refine ⟨fun k => rfl, ⟨rfl, rfl⟩, by decide, by decide, fun d hd => ⟨?_, ?_⟩, fun r hr => ⟨?_, ?_, rfl⟩,
    fun c _ => ⟨?_, fun k => by cases k <;> rfl⟩, fun a => rfl, rfl, rfl, rfl, rfl, by decide⟩
  · rw [State.thCap, State.fld, reset_TEMP_CFG hd]
    decide
  · rw [State.thStop, State.fld, reset_TEMP_CFG hd]
    decide
  · rw [State.temp, State.fld, reset_TEMP_R hr]
    decide
  · rw [State.fld, reset_TEMP_R hr]
    decide
  · rw [State.primed, State.fld, reset_SPM_PRIME_STAT]
    decide

end Sys2Proof.WholeMachine
end

section
/-! PROOFS. The RSEQ that the next record takes (R423): only a record that arrives and the reading of the counters at a start change it. -/

namespace Sys2Proof.RecordSequence

open Sys2Proof Sys2Proof.Machine Sys2Proof.Laws

/-- Every kind of state but the flash. -/
def allButFlash : List Comp :=
  [.regs, .wrote, .w1cSet, .mem, .cells, .regions, .dies, .mcs, .pend13, .resp, .net, .panels, .jobs, .leftRun, .load, .ctxs, .tags,
   .fabQ, .fabWait, .fports, .rings, .hports, .outReads, .nextId, .band, .time, .boot, .err, .tap, .out, .fates, .free]

theorem flash_of_within {s t : State} (h : s.within allButFlash t) : t.flash = s.flash := by
  obtain ⟨-, -, -, -, h⟩ := h
  exact h .flash (by decide)

/-! ### Operations that leave the flash as it is -/

@[simp] theorem flash_incSatUn {s : State} {k lo w n} : (State.incSatUn s k lo w n).flash = s.flash :=
  flash_of_within (within_incSatUn (by decide) (within_refl _))

@[simp] theorem flash_dropPend {s : State} {req b} : (State.dropPend s req b).flash = s.flash :=
  flash_of_within (within_dropPend (by decide) (within_refl _))

@[simp] theorem flash_setPend {s : State} {req b x} : (State.setPend s req b x).flash = s.flash :=
  flash_of_within (within_setPend (by decide) (within_refl _))

@[simp] theorem flash_raiseAll {s : State} {v} : (State.raiseAll s v).flash = s.flash :=
  flash_of_within (within_raiseAll (by decide) (within_refl _))

@[simp] theorem flash_event {s : State} {kind body} : (State.event s kind body).flash = s.flash :=
  flash_of_within (within_event (by decide) (within_refl _))

@[simp] theorem flash_setJobState {s : State} {id st} : (State.setJobState s id st).flash = s.flash :=
  flash_of_within (within_setJobState (by decide) (within_refl _))

@[simp] theorem flash_hwFld {s : State} {k lo w v} : (State.hwFld s k lo w v).flash = s.flash :=
  flash_of_within (within_hwFld (by decide) (within_refl _))

@[simp] theorem flash_rtrLast {s : State} {c cls link tag} : (State.rtrLast s c cls link tag).flash = s.flash :=
  flash_of_within (within_rtrLast (by decide) (within_refl _))

@[simp] theorem flash_applySignal {s : State} {c late g} : (State.applySignal s c late g).flash = s.flash :=
  flash_of_within (within_applySignal (by decide) (within_refl _))

@[simp] theorem flash_routerEcc {s : State} {c ecc} : (State.routerEcc s c ecc).flash = s.flash :=
  flash_of_within (within_routerEcc (by decide) (within_refl _))

@[simp] theorem flash_hostRefuse {s : State} {port ga reason} : (State.hostRefuse s port ga reason).flash = s.flash :=
  flash_of_within (within_hostRefuse (by decide) (within_refl _))

@[simp] theorem flash_trapRegs {s : State} {c k cause pc val} : (State.trapRegs s c k cause pc val).flash = s.flash :=
  flash_of_within (within_trapRegs (by decide) (within_refl _))

@[simp] theorem flash_busStop {s : State} {c k cause pc val} : (State.busStop s c k cause pc val).flash = s.flash :=
  flash_of_within (within_busStop (by decide) (within_refl _))

@[simp] theorem flash_spmRefuse {s : State} {c off port req cr} : (State.spmRefuse s c off port req cr).flash = s.flash :=
  flash_of_within (within_spmRefuse (by decide) (within_refl _))

@[simp] theorem flash_meshRead {s : State} {c off len} : (State.meshRead s c off len).1.flash = s.flash :=
  flash_of_within (within_meshRead (by decide) (within_refl _))

@[simp] theorem flash_meshWrite {s : State} {c off data pois struck} : (State.meshWrite s c off data pois struck).1.flash = s.flash :=
  flash_of_within (within_meshWrite (by decide) (within_refl _))

@[simp] theorem flash_governOwners {s : State} {c} : (State.governOwners s c).flash = s.flash :=
  flash_of_within (within_governOwners (by decide) (within_refl _))

@[simp] theorem flash_haltPanelOf {s : State} {c cls} : (State.haltPanelOf s c cls).flash = s.flash :=
  flash_of_within (within_haltPanelOf (by decide) (within_refl _))

@[simp] theorem flash_quickRemap {s : State} {d py} : (State.quickRemap s d py).flash = s.flash :=
  flash_of_within (within_quickRemap (by decide) (within_refl _))

@[simp] theorem flash_makeHole {s : State} {c} : (State.makeHole s c).flash = s.flash :=
  flash_of_within (within_makeHole (by decide) (within_refl _))

@[simp] theorem flash_raiseFor {s : State} {sev cls loc detail cs} : (State.raiseFor s sev cls loc detail cs).flash = s.flash :=
  flash_of_within (within_raiseFor (by decide) (within_refl _))

@[simp] theorem flash_setSt {s : State} {r st} : (State.setSt s r st).flash = s.flash :=
  flash_of_within (within_setSt (by decide) (within_refl _))

@[simp] theorem flash_computeRailOff {s : State} {r} : (State.computeRailOff s r).flash = s.flash :=
  flash_of_within (within_computeRailOff (by decide) (within_refl _))

@[simp] theorem flash_routerRailOff {s : State} {r} : (State.routerRailOff s r).flash = s.flash :=
  flash_of_within (within_routerRailOff (by decide) (within_refl _))

@[simp] theorem flash_holdStageCfg {s : State} {d} : (State.holdStageCfg s d).flash = s.flash :=
  flash_of_within (within_holdStageCfg (by decide) (within_refl _))

@[simp] theorem flash_allOff {s : State} : (State.allOff s).flash = s.flash :=
  flash_of_within (within_allOff (by decide) (within_refl _))

@[simp] theorem flash_setAll {s : State} {o lo w v} : (State.setAll s o lo w v).flash = s.flash :=
  flash_of_within (within_setAll (by decide) (within_refl _))

@[simp] theorem flash_zeroS {s : State} : (State.zeroS s).flash = s.flash :=
  flash_of_within (within_zeroS (by decide) (within_refl _))

@[simp] theorem flash_loseJobs {s : State} : (State.loseJobs s).flash = s.flash :=
  flash_of_within (within_loseJobs (by decide) (within_refl _))

@[simp] theorem flash_railOn {s : State} {r rail} : (State.railOn s r rail).flash = s.flash :=
  flash_of_within (within_railOn (by decide) (within_refl _))

@[simp] theorem flash_routerUp {s : State} {r} : (State.routerUp s r).flash = s.flash :=
  flash_of_within (within_routerUp (by decide) (within_refl _))

@[simp] theorem flash_primeRegion {s : State} {r} : (State.primeRegion s r).flash = s.flash :=
  flash_of_within (within_primeRegion (by decide) (within_refl _))

@[simp] theorem flash_setBand {s : State} {b} : (State.setBand s b).flash = s.flash :=
  flash_of_within (within_setBand (by decide) (within_refl _))

@[simp] theorem flash_rampRequest {s : State} {w} : (State.rampRequest s w).flash = s.flash :=
  flash_of_within (within_rampRequest (by decide) (within_refl _))

@[simp] theorem flash_balOff {s : State} {n} : (State.balOff s n).flash = s.flash :=
  flash_of_within (within_balOff (by decide) (within_refl _))

@[simp] theorem flash_sendEvent {s : State} {code} : (State.sendEvent s code).flash = s.flash :=
  flash_of_within (within_sendEvent (by decide) (within_refl _))

@[simp] theorem flash_timeSrc {s : State} {src} : (State.timeSrc s src).flash = s.flash :=
  flash_of_within (within_timeSrc (by decide) (within_refl _))

@[simp] theorem flash_timeSet {s : State} {v} : (State.timeSet s v).flash = s.flash :=
  flash_of_within (within_timeSet (by decide) (within_refl _))

@[simp] theorem flash_nextAgain {s : State} : (State.nextAgain s).1.flash = s.flash :=
  flash_of_within (within_nextAgain (by decide) (within_refl _))

@[simp] theorem flash_nextFate {s : State} : (State.nextFate s).1.flash = s.flash :=
  flash_of_within (within_nextFate (by decide) (within_refl _))

@[simp] theorem flash_memRaise {s : State} {g cls a syn detail struck} : (State.memRaise s g cls a syn detail struck).flash = s.flash :=
  flash_of_within (within_memRaise (by decide) (within_refl _))

@[simp] theorem flash_gddrFetch {s : State} {g a len} : (State.gddrFetch s g a len).1.flash = s.flash :=
  flash_of_within (within_gddrFetch (by decide) (within_refl _))

@[simp] theorem flash_gddrStore {s : State} {g req a data pois} : (State.gddrStore s g req a data pois).1.flash = s.flash :=
  flash_of_within (within_gddrStore (by decide) (within_refl _))

@[simp] theorem flash_serveWaits {s : State} {d n} : (State.serveWaits s d n).flash = s.flash :=
  flash_of_within (within_serveWaits (by decide) (within_refl _))

@[simp] theorem flash_transfer {s : State} {g a m} : (State.transfer s g a m).1.flash = s.flash :=
  flash_of_within (within_transfer (by decide) (within_refl _))

@[simp] theorem flash_afterMesh {s : State} {ga} : (State.afterMesh s ga).flash = s.flash :=
  flash_of_within (within_afterMesh (by decide) (within_refl _))

@[simp] theorem flash_gddrRefuse {s : State} {req a reason} : (State.gddrRefuse s req a reason).flash = s.flash :=
  flash_of_within (within_gddrRefuse (by decide) (within_refl _))

@[simp] theorem flash_testRefuse {s : State} {req d n a} : (State.testRefuse s req d n a).flash = s.flash :=
  flash_of_within (within_testRefuse (by decide) (within_refl _))

@[simp] theorem flash_meshAdmit {s : State} {p m} : (State.meshAdmit s p m).1.flash = s.flash :=
  flash_of_within (within_meshAdmit (by decide) (within_refl _))

@[simp] theorem flash_replacePkt {s : State} {i ps} : (State.replacePkt s i ps).flash = s.flash :=
  flash_of_within (within_replacePkt (by decide) (within_refl _))

@[simp] theorem flash_carryOut {s : State} {d req ga len write} : (State.carryOut s d req ga len write).1.flash = s.flash :=
  flash_of_within (within_carryOut (by decide) (within_refl _))

@[simp] theorem flash_carryBack {s : State} {d req ga len write} : (State.carryBack s d req ga len write).1.flash = s.flash :=
  flash_of_within (within_carryBack (by decide) (within_refl _))

@[simp] theorem flash_bothEnds {s : State} {c l f} : (State.bothEnds s c l f).flash = s.flash :=
  flash_of_within (within_bothEnds (by decide) (within_refl _))

@[simp] theorem flash_failEnd {s : State} {c l} : (State.failEnd s c l).flash = s.flash :=
  flash_of_within (within_failEnd (by decide) (within_refl _))

@[simp] theorem flash_carryPhys {s : State} {c} : (State.carryPhys s c).1.flash = s.flash :=
  flash_of_within (within_carryPhys (by decide) (within_refl _))

@[simp] theorem flash_crossShows {s : State} {d e side i} : (State.crossShows s d e side i).flash = s.flash :=
  flash_of_within (within_crossShows (by decide) (within_refl _))

@[simp] theorem flash_failCounts {s : State} {c e l} : (State.failCounts s c e l).flash = s.flash :=
  flash_of_within (within_failCounts (by decide) (within_refl _))

@[simp] theorem flash_padRec {s : State} {c l} : (State.padRec s c l).flash = s.flash :=
  flash_of_within (within_padRec (by decide) (within_refl _))

@[simp] theorem flash_loseOn {s : State} {c l} : (State.loseOn s c l).flash = s.flash :=
  flash_of_within (within_loseOn (by decide) (within_refl _))

@[simp] theorem flash_strange {s : State} {d p} : (State.strange s d p).flash = s.flash :=
  flash_of_within (within_strange (by decide) (within_refl _))

@[simp] theorem flash_fab54 {s : State} {d reason q struck} : (State.fab54 s d reason q struck).flash = s.flash :=
  flash_of_within (within_fab54 (by decide) (within_refl _))

@[simp] theorem flash_fabAdmit {s : State} {d} : (State.fabAdmit s d).flash = s.flash :=
  flash_of_within (within_fabAdmit (by decide) (within_refl _))

@[simp] theorem flash_faultNotices {s : State} : (State.faultNotices s).flash = s.flash :=
  flash_of_within (within_faultNotices (by decide) (within_refl _))

@[simp] theorem flash_failTag {s : State} {d t cause} : (State.failTag s d t cause).flash = s.flash :=
  flash_of_within (within_failTag (by decide) (within_refl _))

@[simp] theorem flash_failCtx {s : State} {q cause} : (State.failCtx s q cause).flash = s.flash :=
  flash_of_within (within_failCtx (by decide) (within_refl _))

@[simp] theorem flash_setPstate {s : State} {d p st} : (State.setPstate s d p st).flash = s.flash :=
  flash_of_within (within_setPstate (by decide) (within_refl _))

@[simp] theorem flash_fabRec {s : State} {cls d uidx detail} : (State.fabRec s cls d uidx detail).flash = s.flash :=
  flash_of_within (within_fabRec (by decide) (within_refl _))

@[simp] theorem flash_trainPort {s : State} {d p st} : (State.trainPort s d p st).flash = s.flash :=
  flash_of_within (within_trainPort (by decide) (within_refl _))

@[simp] theorem flash_failPort {s : State} {d p cause} : (State.failPort s d p cause).flash = s.flash :=
  flash_of_within (within_failPort (by decide) (within_refl _))

@[simp] theorem flash_noWidth {s : State} {d p} : (State.noWidth s d p).flash = s.flash :=
  flash_of_within (within_noWidth (by decide) (within_refl _))

@[simp] theorem flash_portDown {s : State} {d p st} : (State.portDown s d p st).flash = s.flash :=
  flash_of_within (within_portDown (by decide) (within_refl _))

@[simp] theorem flash_pcmd {s : State} {d p} : (State.pcmd s d p).flash = s.flash :=
  flash_of_within (within_pcmd (by decide) (within_refl _))

@[simp] theorem flash_submit {s : State} {req d c} : (State.submit s req d c).1.flash = s.flash :=
  flash_of_within (within_submit (by decide) (within_refl _))

@[simp] theorem flash_licRetrain {s : State} : (State.licRetrain s).flash = s.flash :=
  flash_of_within (within_licRetrain (by decide) (within_refl _))

@[simp] theorem flash_completeTag {s : State} {d t fc} : (State.completeTag s d t fc).flash = s.flash :=
  flash_of_within (within_completeTag (by decide) (within_refl _))

@[simp] theorem flash_countAck {s : State} {q} : (State.countAck s q).flash = s.flash :=
  flash_of_within (within_countAck (by decide) (within_refl _))

@[simp] theorem flash_sendSeq {s : State} {q f} : (State.sendSeq s q f).flash = s.flash :=
  flash_of_within (within_sendSeq (by decide) (within_refl _))

@[simp] theorem flash_sendCtx {s : State} {q f} : (State.sendCtx s q f).flash = s.flash :=
  flash_of_within (within_sendCtx (by decide) (within_refl _))

@[simp] theorem flash_landed {s : State} {f st} : (State.landed s f st).flash = s.flash :=
  flash_of_within (within_landed (by decide) (within_refl _))

@[simp] theorem flash_linkHeader {s : State} {d p link} : (State.linkHeader s d p link).flash = s.flash :=
  flash_of_within (within_linkHeader (by decide) (within_refl _))

@[simp] theorem flash_linkNak {s : State} {d p link} : (State.linkNak s d p link).flash = s.flash :=
  flash_of_within (within_linkNak (by decide) (within_refl _))

@[simp] theorem flash_portUp {s : State} {d p was w f crReq crRsp} : (State.portUp s d p was w f crReq crRsp).flash = s.flash :=
  flash_of_within (within_portUp (by decide) (within_refl _))

@[simp] theorem flash_refuseFrame {s : State} {q f} : (State.refuseFrame s q f).flash = s.flash :=
  flash_of_within (within_refuseFrame (by decide) (within_refl _))

@[simp] theorem flash_sendAck {s : State} {q} : (State.sendAck s q).flash = s.flash :=
  flash_of_within (within_sendAck (by decide) (within_refl _))

@[simp] theorem flash_staleFrame {s : State} {d p} : (State.staleFrame s d p).flash = s.flash :=
  flash_of_within (within_staleFrame (by decide) (within_refl _))

@[simp] theorem flash_outFail {s : State} {req port reason a} : (State.outFail s req port reason a).flash = s.flash :=
  flash_of_within (within_outFail (by decide) (within_refl _))

@[simp] theorem flash_outRead {s : State} {req a len pkt} : (State.outRead s req a len pkt).1.flash = s.flash :=
  flash_of_within (within_outRead (by decide) (within_refl _))

@[simp] theorem flash_outStore {s : State} {a data pois} : (State.outStore s a data pois).flash = s.flash :=
  flash_of_within (within_outStore (by decide) (within_refl _))

@[simp] theorem flash_outWrite {s : State} {req a data pois} : (State.outWrite s req a data pois).1.flash = s.flash :=
  flash_of_within (within_outWrite (by decide) (within_refl _))

@[simp] theorem flash_fetchTlp {s : State} {req p a len} : (State.fetchTlp s req p a len).1.flash = s.flash :=
  flash_of_within (within_fetchTlp (by decide) (within_refl _))

@[simp] theorem flash_hostFetch {s : State} {req a len} : (State.hostFetch s req a len).1.flash = s.flash :=
  flash_of_within (within_hostFetch (by decide) (within_refl _))

@[simp] theorem flash_stopRings {s : State} {p} : (State.stopRings s p).flash = s.flash :=
  flash_of_within (within_stopRings (by decide) (within_refl _))

@[simp] theorem flash_agentReply {s : State} {d p data pois status} : (State.agentReply s d p data pois status).flash = s.flash :=
  flash_of_within (within_agentReply (by decide) (within_refl _))

@[simp] theorem flash_doorbell {s : State} {p n pi} : (State.doorbell s p n pi).flash = s.flash :=
  flash_of_within (within_doorbell (by decide) (within_refl _))

@[simp] theorem flash_epWrite {s : State} {p} : (State.epWrite s p).flash = s.flash :=
  flash_of_within (within_epWrite (by decide) (within_refl _))

@[simp] theorem flash_dmaTake {s : State} {p n} : (State.dmaTake s p n).flash = s.flash :=
  flash_of_within (within_dmaTake (by decide) (within_refl _))

@[simp] theorem flash_ecrcDrop {s : State} {p} : (State.ecrcDrop s p).flash = s.flash :=
  flash_of_within (within_ecrcDrop (by decide) (within_refl _))

@[simp] theorem flash_linkDown {s : State} {p} : (State.linkDown s p).flash = s.flash :=
  flash_of_within (within_linkDown (by decide) (within_refl _))

@[simp] theorem flash_setResult {s : State} {p n st detail} : (State.setResult s p n st detail).flash = s.flash :=
  flash_of_within (within_setResult (by decide) (within_refl _))

@[simp] theorem flash_declareStep {s : State} {id} : (State.declareStep s id).flash = s.flash :=
  flash_of_within (within_declareStep (by decide) (within_refl _))

@[simp] theorem flash_setStepNum {s : State} {v} : (State.setStepNum s v).flash = s.flash :=
  flash_of_within (within_setStepNum (by decide) (within_refl _))

@[simp] theorem flash_loadRec {s : State} {reason panel seg} : (State.loadRec s reason panel seg).flash = s.flash :=
  flash_of_within (within_loadRec (by decide) (within_refl _))

@[simp] theorem flash_logPatches {s : State} {id} : (State.logPatches s id).flash = s.flash :=
  flash_of_within (within_logPatches (by decide) (within_refl _))

@[simp] theorem flash_loadEvent {s : State} : (State.loadEvent s).flash = s.flash :=
  flash_of_within (within_loadEvent (by decide) (within_refl _))

@[simp] theorem flash_setPhase {s : State} {p} : (State.setPhase s p).flash = s.flash :=
  flash_of_within (within_setPhase (by decide) (within_refl _))

@[simp] theorem flash_loadRefuse {s : State} {reason panel seg} : (State.loadRefuse s reason panel seg).flash = s.flash :=
  flash_of_within (within_loadRefuse (by decide) (within_refl _))

@[simp] theorem flash_loadAbort {s : State} : (State.loadAbort s).flash = s.flash :=
  flash_of_within (within_loadAbort (by decide) (within_refl _))

@[simp] theorem flash_jobCmd {s : State} {v} : (State.jobCmd s v).flash = s.flash :=
  flash_of_within (within_jobCmd (by decide) (within_refl _))

@[simp] theorem flash_loadCellFail {s : State} {c} : (State.loadCellFail s c).flash = s.flash :=
  flash_of_within (within_loadCellFail (by decide) (within_refl _))

@[simp] theorem flash_askHolders {s : State} {c g o len crc a6 a7} : (State.askHolders s c g o len crc a6 a7).1.flash = s.flash :=
  flash_of_within (within_askHolders (by decide) (within_refl _))

@[simp] theorem flash_sendChunk {s : State} {l g i n o bs crc lost stalled} : (State.sendChunk s l g i n o bs crc lost stalled).1.flash = s.flash :=
  flash_of_within (within_sendChunk (by decide) (within_refl _))

@[simp] theorem flash_roundSettle {s : State} : (State.roundSettle s).flash = s.flash :=
  flash_of_within (within_roundSettle (by decide) (within_refl _))

@[simp] theorem flash_issueImem {s : State} {c g} : (State.issueImem s c g).flash = s.flash :=
  flash_of_within (within_issueImem (by decide) (within_refl _))

@[simp] theorem flash_chunkGood {s : State} {c i n g} : (State.chunkGood s c i n g).flash = s.flash :=
  flash_of_within (within_chunkGood (by decide) (within_refl _))

@[simp] theorem flash_writeKernels {s : State} {l} : (State.writeKernels s l).flash = s.flash :=
  flash_of_within (within_writeKernels (by decide) (within_refl _))

@[simp] theorem flash_roundTimeout {s : State} : (State.roundTimeout s).flash = s.flash :=
  flash_of_within (within_roundTimeout (by decide) (within_refl _))

@[simp] theorem flash_unicastPiece {s : State} {c g o bs} : (State.unicastPiece s c g o bs).1.flash = s.flash :=
  flash_of_within (within_unicastPiece (by decide) (within_refl _))

@[simp] theorem flash_flashRec {s : State} {cls reason} : (State.flashRec s cls reason).flash = s.flash :=
  flash_of_within (within_flashRec (by decide) (within_refl _))

@[simp] theorem flash_flashEvent {s : State} {reason} : (State.flashEvent s reason).flash = s.flash :=
  flash_of_within (within_flashEvent (by decide) (within_refl _))

@[simp] theorem flash_stageOne {s : State} {kind body} : (State.stageOne s kind body).flash = s.flash :=
  flash_of_within (within_stageOne (by decide) (within_refl _))

@[simp] theorem flash_stageLoss {s : State} : (State.stageLoss s).flash = s.flash :=
  flash_of_within (within_stageLoss (by decide) (within_refl _))

@[simp] theorem flash_journal {s : State} {e} : (State.journal s e).flash = s.flash :=
  flash_of_within (within_journal (by decide) (within_refl _))

@[simp] theorem flash_stage {s : State} {kind rseq body} : (State.stage s kind rseq body).flash = s.flash :=
  flash_of_within (within_stage (by decide) (within_refl _))

@[simp] theorem flash_countSev {s : State} {sev} : (State.countSev s sev).flash = s.flash :=
  flash_of_within (within_countSev (by decide) (within_refl _))

@[simp] theorem flash_toMgmt {s : State} {r} : (State.toMgmt s r).flash = s.flash :=
  flash_of_within (within_toMgmt (by decide) (within_refl _))

@[simp] theorem flash_engineReset {s : State} {r} : (State.engineReset s r).flash = s.flash :=
  flash_of_within (within_engineReset (by decide) (within_refl _))

@[simp] theorem flash_firmwareFail {s : State} {c u} : (State.firmwareFail s c u).flash = s.flash :=
  flash_of_within (within_firmwareFail (by decide) (within_refl _))

@[simp] theorem flash_noteTested {s : State} {c} : (State.noteTested s c).flash = s.flash :=
  flash_of_within (within_noteTested (by decide) (within_refl _))

@[simp] theorem flash_selfPass {s : State} {c} : (State.selfPass s c).flash = s.flash :=
  flash_of_within (within_selfPass (by decide) (within_refl _))

@[simp] theorem flash_halfVerdict {s : State} {d n pass} : (State.halfVerdict s d n pass).flash = s.flash :=
  flash_of_within (within_halfVerdict (by decide) (within_refl _))

@[simp] theorem flash_startStat {s : State} {stat warm cause cls} : (State.startStat s stat warm cause cls).flash = s.flash :=
  flash_of_within (within_startStat (by decide) (within_refl _))

@[simp] theorem flash_setBoot {s : State} {b} : (State.setBoot s b).flash = s.flash :=
  flash_of_within (within_setBoot (by decide) (within_refl _))

@[simp] theorem flash_applyConfig {a0 : State} : (State.applyConfig a0).flash = a0.flash :=
  flash_of_within (within_applyConfig (by decide) (within_refl _))

@[simp] theorem flash_phaseTime {s : State} {p} : (State.phaseTime s p).flash = s.flash :=
  flash_of_within (within_phaseTime (by decide) (within_refl _))

@[simp] theorem flash_excludeDie {s : State} {d reason inService} : (State.excludeDie s d reason inService).flash = s.flash :=
  flash_of_within (within_excludeDie (by decide) (within_refl _))

@[simp] theorem flash_failCrossing {s : State} {d side c} : (State.failCrossing s d side c).flash = s.flash :=
  flash_of_within (within_failCrossing (by decide) (within_refl _))

@[simp] theorem flash_calDie {s : State} {d raw} : (State.calDie s d raw).flash = s.flash :=
  flash_of_within (within_calDie (by decide) (within_refl _))

@[simp] theorem flash_calDone {s : State} : (State.calDone s).flash = s.flash :=
  flash_of_within (within_calDone (by decide) (within_refl _))

@[simp] theorem flash_readSet {s : State} {ok} : (State.readSet s ok).1.flash = s.flash :=
  flash_of_within (within_readSet (by decide) (within_refl _))

@[simp] theorem flash_licCount {s : State} : (State.licCount s).flash = s.flash :=
  flash_of_within (within_licCount (by decide) (within_refl _))

@[simp] theorem flash_readCollectors {s : State} {ok} : (State.readCollectors s ok).flash = s.flash :=
  flash_of_within (within_readCollectors (by decide) (within_refl _))

@[simp] theorem flash_readBboxCnt {s : State} {bad} : (State.readBboxCnt s bad).flash = s.flash :=
  flash_of_within (within_readBboxCnt (by decide) (within_refl _))

@[simp] theorem flash_startPhase {s : State} {p} : (State.startPhase s p).flash = s.flash :=
  flash_of_within (within_startPhase (by decide) (within_refl _))

@[simp] theorem flash_endPhase {s : State} {p} : (State.endPhase s p).flash = s.flash :=
  flash_of_within (within_endPhase (by decide) (within_refl _))

@[simp] theorem flash_dieDone {s : State} {p} : (State.dieDone s p).flash = s.flash :=
  flash_of_within (within_dieDone (by decide) (within_refl _))

@[simp] theorem flash_dieSupply {s : State} {d} : (State.dieSupply s d).flash = s.flash :=
  flash_of_within (within_dieSupply (by decide) (within_refl _))

@[simp] theorem flash_fuseRegs {s : State} {d} : (State.fuseRegs s d).flash = s.flash :=
  flash_of_within (within_fuseRegs (by decide) (within_refl _))

@[simp] theorem flash_portPower {s : State} {d} : (State.portPower s d).flash = s.flash :=
  flash_of_within (within_portPower (by decide) (within_refl _))

@[simp] theorem flash_phasesBack {s : State} {d} : (State.phasesBack s d).flash = s.flash :=
  flash_of_within (within_phasesBack (by decide) (within_refl _))

@[simp] theorem flash_powerSettle {s : State} : (State.powerSettle s).flash = s.flash :=
  flash_of_within (within_powerSettle (by decide) (within_refl _))

@[simp] theorem flash_excludeAll {s : State} {faults} : (State.excludeAll s faults).flash = s.flash :=
  flash_of_within (within_excludeAll (by decide) (within_refl _))

@[simp] theorem flash_excludeFound {s : State} : (State.excludeFound s).flash = s.flash :=
  flash_of_within (within_excludeFound (by decide) (within_refl _))

@[simp] theorem flash_recoveryPorts {s : State} : (State.recoveryPorts s).flash = s.flash :=
  flash_of_within (within_recoveryPorts (by decide) (within_refl _))

@[simp] theorem flash_mergeCells {s : State} : (State.mergeCells s).flash = s.flash :=
  flash_of_within (within_mergeCells (by decide) (within_refl _))

@[simp] theorem flash_reportNoCanvas {s : State} : (State.reportNoCanvas s).flash = s.flash :=
  flash_of_within (within_reportNoCanvas (by decide) (within_refl _))

@[simp] theorem flash_settleDie {s : State} {r d} : (State.settleDie s r d).flash = s.flash :=
  flash_of_within (within_settleDie (by decide) (within_refl _))

@[simp] theorem flash_publishCanvas {s : State} {r} : (State.publishCanvas s r).flash = s.flash :=
  flash_of_within (within_publishCanvas (by decide) (within_refl _))

@[simp] theorem flash_skipDie {s : State} {d} : (State.skipDie s d).flash = s.flash :=
  flash_of_within (within_skipDie (by decide) (within_refl _))

@[simp] theorem flash_publishGddr {s : State} : (State.publishGddr s).flash = s.flash :=
  flash_of_within (within_publishGddr (by decide) (within_refl _))

@[simp] theorem flash_trainBegin {s : State} : (State.trainBegin s).flash = s.flash :=
  flash_of_within (within_trainBegin (by decide) (within_refl _))

@[simp] theorem flash_primeRegions {s : State} : (State.primeRegions s).flash = s.flash :=
  flash_of_within (within_primeRegions (by decide) (within_refl _))

@[simp] theorem flash_pllFail {s : State} {d} : (State.pllFail s d).flash = s.flash :=
  flash_of_within (within_pllFail (by decide) (within_refl _))

@[simp] theorem flash_readSeeds {s : State} {d} : (State.readSeeds s d).flash = s.flash :=
  flash_of_within (within_readSeeds (by decide) (within_refl _))

@[simp] theorem flash_watchdog {s : State} {d} : (State.watchdog s d).flash = s.flash :=
  flash_of_within (within_watchdog (by decide) (within_refl _))

@[simp] theorem flash_warmVerify {s : State} : (State.warmVerify s).flash = s.flash :=
  flash_of_within (within_warmVerify (by decide) (within_refl _))

@[simp] theorem flash_licRes {s : State} {st reason} : (State.licRes s st reason).flash = s.flash :=
  flash_of_within (within_licRes (by decide) (within_refl _))

@[simp] theorem flash_licRefuse {s : State} {op reason} : (State.licRefuse s op reason).flash = s.flash :=
  flash_of_within (within_licRefuse (by decide) (within_refl _))

@[simp] theorem flash_applyFeatures {s : State} {f} : (State.applyFeatures s f).flash = s.flash :=
  flash_of_within (within_applyFeatures (by decide) (within_refl _))

@[simp] theorem flash_installKeys {s : State} {keys} : (State.installKeys s keys).flash = s.flash :=
  flash_of_within (within_installKeys (by decide) (within_refl _))

@[simp] theorem flash_w4Apply {s : State} : (State.w4Apply s).flash = s.flash :=
  flash_of_within (within_w4Apply (by decide) (within_refl _))

@[simp] theorem flash_convertersOff {s : State} : (State.convertersOff s).flash = s.flash :=
  flash_of_within (within_convertersOff (by decide) (within_refl _))

@[simp] theorem flash_gddrOff {s : State} : (State.gddrOff s).flash = s.flash :=
  flash_of_within (within_gddrOff (by decide) (within_refl _))

@[simp] theorem flash_ctlRefuse {s : State} {req k ga} : (State.ctlRefuse s req k ga).flash = s.flash :=
  flash_of_within (within_ctlRefuse (by decide) (within_refl _))

@[simp] theorem flash_gaRefuse {s : State} {req ga} : (State.gaRefuse s req ga).flash = s.flash :=
  flash_of_within (within_gaRefuse (by decide) (within_refl _))

@[simp] theorem flash_storeReg {s : State} {k r v ga} : (State.storeReg s k r v ga).flash = s.flash :=
  flash_of_within (within_storeReg (by decide) (within_refl _))

@[simp] theorem flash_writeQcfg {s : State} {d o v} : (State.writeQcfg s d o v).flash = s.flash :=
  flash_of_within (within_writeQcfg (by decide) (within_refl _))

@[simp] theorem flash_writeEngineId {s : State} {d v} : (State.writeEngineId s d v).flash = s.flash :=
  flash_of_within (within_writeEngineId (by decide) (within_refl _))

@[simp] theorem flash_writePetype {s : State} {d p row v ga} : (State.writePetype s d p row v ga).flash = s.flash :=
  flash_of_within (within_writePetype (by decide) (within_refl _))

@[simp] theorem flash_writePcfg {s : State} {d p row v ga} : (State.writePcfg s d p row v ga).flash = s.flash :=
  flash_of_within (within_writePcfg (by decide) (within_refl _))

@[simp] theorem flash_writeRegCmd {s : State} {d v} : (State.writeRegCmd s d v).flash = s.flash :=
  flash_of_within (within_writeRegCmd (by decide) (within_refl _))

@[simp] theorem flash_writeTempCfg {s : State} {d row v ga} : (State.writeTempCfg s d row v ga).flash = s.flash :=
  flash_of_within (within_writeTempCfg (by decide) (within_refl _))

@[simp] theorem flash_writeMcfg {s : State} {d row v ga} : (State.writeMcfg s d row v ga).flash = s.flash :=
  flash_of_within (within_writeMcfg (by decide) (within_refl _))

@[simp] theorem flash_pcieWrite {s : State} {req p o row v ga} : (State.pcieWrite s req p o row v ga).1.flash = s.flash :=
  flash_of_within (within_pcieWrite (by decide) (within_refl _))

@[simp] theorem flash_cellWrite {s : State} {req c o row v ga} : (State.cellWrite s req c o row v ga).1.flash = s.flash :=
  flash_of_within (within_cellWrite (by decide) (within_refl _))

@[simp] theorem flash_ctlGet {s : State} {req k ga len} : (State.ctlGet s req k ga len).1.flash = s.flash :=
  flash_of_within (within_ctlGet (by decide) (within_refl _))

@[simp] theorem flash_cellReply {s : State} {c p data pois status} : (State.cellReply s c p data pois status).flash = s.flash :=
  flash_of_within (within_cellReply (by decide) (within_refl _))

@[simp] theorem flash_holeRefuse {s : State} {c p} : (State.holeRefuse s c p).flash = s.flash :=
  flash_of_within (within_holeRefuse (by decide) (within_refl _))

@[simp] theorem flash_landRead {s : State} {c p} : (State.landRead s c p).1.flash = s.flash :=
  flash_of_within (within_landRead (by decide) (within_refl _))

@[simp] theorem flash_bar0Refuse {s : State} {port off reason} : (State.bar0Refuse s port off reason).flash = s.flash :=
  flash_of_within (within_bar0Refuse (by decide) (within_refl _))

@[simp] theorem flash_bar0None {s : State} {p k off} : (State.bar0None s p k off).flash = s.flash :=
  flash_of_within (within_bar0None (by decide) (within_refl _))

@[simp] theorem flash_cpl {s : State} {port r} : (State.cpl s port r).flash = s.flash :=
  flash_of_within (within_cpl (by decide) (within_refl _))

@[simp] theorem flash_bar0Read {s : State} {p off len} : (State.bar0Read s p off len).flash = s.flash :=
  flash_of_within (within_bar0Read (by decide) (within_refl _))

@[simp] theorem flash_msixPut {s : State} {p i data} : (State.msixPut s p i data).flash = s.flash :=
  flash_of_within (within_msixPut (by decide) (within_refl _))

@[simp] theorem flash_memCompletion {s : State} {p data code} : (State.memCompletion s p data code).flash = s.flash :=
  flash_of_within (within_memCompletion (by decide) (within_refl _))

@[simp] theorem flash_ctlWindowRead {s : State} {p ga len} : (State.ctlWindowRead s p ga len).flash = s.flash :=
  flash_of_within (within_ctlWindowRead (by decide) (within_refl _))

@[simp] theorem flash_advance {s : State} {c k len} : (State.advance s c k len).flash = s.flash :=
  flash_of_within (within_advance (by decide) (within_refl _))

@[simp] theorem flash_exception {s : State} {c k cause tval} : (State.exception s c k cause tval).flash = s.flash :=
  flash_of_within (within_exception (by decide) (within_refl _))

/-! ### Operations that keep the number: how it passes through a choice, a fold and a command's frame -/

@[simp] theorem rseq_ite {c : Prop} [Decidable c] {a b : State} :
    (if c then a else b).flash.rseq = if c then a.flash.rseq else b.flash.rseq := apply_ite (fun s : State => s.flash.rseq) ..

@[simp] theorem rseq_foldl {α : Type} {f : State → α → State} (h : ∀ t x, (f t x).flash.rseq = t.flash.rseq) (l : List α) (s : State) :
    (l.foldl f s).flash.rseq = s.flash.rseq := by
  induction l generalizing s with
  | nil => rfl
  | cons x l ih => exact (ih _).trans (h s x)

@[simp] theorem rseq_foldl_fst {α β : Type} {f : State × β → α → State × β} (h : ∀ p x, (f p x).1.flash.rseq = p.1.flash.rseq) (l : List α)
    (p : State × β) : (l.foldl f p).1.flash.rseq = p.1.flash.rseq := by
  induction l generalizing p with
  | nil => rfl
  | cons x l ih => exact (ih _).trans (h p x)

theorem rseq_of_pair {β : Type} {p : State × β} {t : State} {v : β} {n : Nat} (e : p = (t, v)) (h : p.1.flash.rseq = n) : t.flash.rseq = n := by
  subst e
  exact h

theorem flash_of_pair {β : Type} {p : State × β} {t : State} {v : β} {f : Flash} (e : p = (t, v)) (h : p.1.flash = f) : t.flash = f := by
  subst e
  exact h

theorem rseq_foldl_bcast {α : Type} {f : State.Bcast → α → State.Bcast} (h : ∀ q x, (f q x).s.flash.rseq = q.s.flash.rseq) (l : List α)
    (q : State.Bcast) : (l.foldl f q).s.flash.rseq = q.s.flash.rseq := by
  induction l generalizing q with
  | nil => rfl
  | cons x l ih => exact (ih _).trans (h q x)

@[simp] theorem rseq_ite_fst {β : Type} {c : Prop} [Decidable c] {a b : State × β} :
    (if c then a else b).1.flash.rseq = if c then a.1.flash.rseq else b.1.flash.rseq := apply_ite (fun p : State × β => p.1.flash.rseq) ..

@[simp] theorem rseq_setSlot {f : Flash} {n : Nat} {x : FwSlot} : (State.setSlot f n x).rseq = f.rseq := by
  unfold State.setSlot
  split <;> rfl

@[simp] theorem flash_tagLast {s t : State} {c : Nat} {p : Pkt} : (s.tagLast t c p).flash = t.flash := by
  unfold State.tagLast
  split <;> rfl

@[simp] theorem rseq_withFates {s : State} {f} {act : State → State} (h : ∀ t, (act t).flash.rseq = t.flash.rseq) :
    (s.withFates f act).flash.rseq = s.flash.rseq := h _

@[simp] theorem rseq_copyChunk {s : State} {g o len crc drop} {piece : State → Nat → Nat → State × Option (List Byte)}
    (h : ∀ t x y, (piece t x y).1.flash.rseq = t.flash.rseq) :
    (s.copyChunk g o len crc drop piece).1.flash.rseq = s.flash.rseq := by
  unfold State.copyChunk
  exact rseq_foldl_fst (fun a p => by simp [h]) _ _

@[simp] theorem rseq_carried {α : Type} {s : State} {d req ga len write} {lost : Nat → α} {act : State → State × α}
    (h : ∀ t, (act t).1.flash.rseq = t.flash.rseq) :
    (s.carried d req ga len write lost act).1.flash.rseq = s.flash.rseq := by
  unfold State.carried
  split
  · next t e =>
    have ht := congrArg Flash.rseq (flash_of_pair e flash_carryOut)
    dsimp only
    split
    · next u e => exact (congrArg Flash.rseq (flash_of_pair e flash_carryBack)).trans ((h t).trans ht)
    · next u k e => exact (congrArg Flash.rseq (flash_of_pair e flash_carryBack)).trans ((h t).trans ht)
  · next t k e => exact congrArg Flash.rseq (flash_of_pair e flash_carryOut)

@[simp] theorem rseq_onRequest {s : State} {d p f} {land : State → State} (h : ∀ t, (land t).flash.rseq = t.flash.rseq) :
    (s.onRequest d p f land).flash.rseq = s.flash.rseq := by
  unfold State.onRequest
  (repeat' split) <;> simp [h]

@[simp] theorem rseq_onResponse {s : State} {d p f} {act : State → FabCmd → State} (h : ∀ t x, (act t x).flash.rseq = t.flash.rseq) :
    (s.onResponse d p f act).flash.rseq = s.flash.rseq := by
  unfold State.onResponse
  (repeat' split) <;> simp [h]

@[simp] theorem rseq_linkRx {s : State} {d p f link} {act : State → State} (h : ∀ t, (act t).flash.rseq = t.flash.rseq) :
    (s.linkRx d p f link act).flash.rseq = s.flash.rseq := by
  unfold State.linkRx
  (repeat' split) <;> simp [h]
/-! ### Operations that keep the number: one lemma for each that reaches the flash -/

@[simp] theorem rseq_confirmFuse {s : State} {typ source die loc} : (State.confirmFuse s typ source die loc).flash.rseq = s.flash.rseq := by
  simp [State.confirmFuse]

@[simp] theorem rseq_cellFail {s : State} {c source cls} : (State.cellFail s c source cls).flash.rseq = s.flash.rseq := by
  simp [State.cellFail]

@[simp] theorem rseq_regionDark {s : State} {r rail failed source} : (State.regionDark s r rail failed source).flash.rseq = s.flash.rseq := by
  simp [State.regionDark]

@[simp] theorem rseq_railMissed {s : State} {r o} : (State.railMissed s r o).flash.rseq = s.flash.rseq := by simp [State.railMissed]

@[simp] theorem rseq_goodMissed {s : State} {r} : (State.goodMissed s r).flash.rseq = s.flash.rseq := by
  unfold State.goodMissed
  split <;> simp

@[simp] theorem rseq_powerGood {s : State} {r} : (State.powerGood s r).flash.rseq = s.flash.rseq := by
  simp only [State.powerGood]
  (repeat' split) <;> simp_all

@[simp] theorem rseq_sliceOutcome {s : State} {r rail source} : (State.sliceOutcome s r rail source).flash.rseq = s.flash.rseq := by
  simp [State.sliceOutcome]

@[simp] theorem rseq_sliceFail {s : State} {r rail slice} : (State.sliceFail s r rail slice).flash.rseq = s.flash.rseq := by
  simp [State.sliceFail]

@[simp] theorem rseq_deviceFail {s : State} {d n ch} : (State.deviceFail s d n ch).flash.rseq = s.flash.rseq := by
  simp [State.deviceFail]

@[simp] theorem rseq_retrainDone {s : State} {d n ch ok} : (State.retrainDone s d n ch ok).flash.rseq = s.flash.rseq := by
  simp [State.retrainDone]

@[simp] theorem rseq_channelFree {s : State} {g} : (State.channelFree s g).flash.rseq = s.flash.rseq := by simp [State.channelFree]

@[simp] theorem rseq_admitNow {s : State} {g a} : (State.admitNow s g a).flash.rseq = s.flash.rseq := by simp [State.admitNow]

@[simp] theorem rseq_gddrReadNow {s : State} {req a len} : (State.gddrReadNow s req a len).1.flash.rseq = s.flash.rseq := by
  simp only [State.gddrReadNow]
  (repeat' split) <;> simp_all

@[simp] theorem rseq_gddrWriteNow {s : State} {req a data pois} : (State.gddrWriteNow s req a data pois).1.flash.rseq = s.flash.rseq := by
  simp only [State.gddrWriteNow]
  (repeat' split) <;> simp_all

@[simp] theorem rseq_rawTurn {s : State} {a} : (State.rawTurn s a).flash.rseq = s.flash.rseq := by
  unfold State.rawTurn
  split <;> simp

@[simp] theorem rseq_memRawWrite {s : State} {req d n} : (State.memRawWrite s req d n).flash.rseq = s.flash.rseq := by
  simp [State.memRawWrite]

@[simp] theorem rseq_memRawRead {s : State} {req d n} : (State.memRawRead s req d n).flash.rseq = s.flash.rseq := by
  simp [State.memRawRead]

@[simp] theorem rseq_failFuses {s : State} {c l near far} : (State.failFuses s c l near far).flash.rseq = s.flash.rseq := by
  unfold State.failFuses
  (repeat' split) <;> simp

@[simp] theorem rseq_spareWire {s : State} {c l w} : (State.spareWire s c l w).flash.rseq = s.flash.rseq := by simp [State.spareWire]

@[simp] theorem rseq_loopback {s : State} {c l near far bad raw} : (State.loopback s c l near far bad raw).flash.rseq = s.flash.rseq := by
  simp only [State.loopback]
  (repeat' split) <;> simp_all

@[simp] theorem rseq_agentReadPart {s : State} {d ga len} : (State.agentReadPart s d ga len).1.flash.rseq = s.flash.rseq := by
  unfold State.agentReadPart
  refine rseq_carried fun t => ?_
  (repeat' split) <;> simp

@[simp] theorem rseq_agentRead {s : State} {d ga len} : (State.agentRead s d ga len).1.flash.rseq = s.flash.rseq := by
  simp [State.agentRead]

@[simp] theorem rseq_agentWritePart {s : State} {d ga data pois} : (State.agentWritePart s d ga data pois).1.flash.rseq = s.flash.rseq := by
  unfold State.agentWritePart
  refine rseq_carried fun t => ?_
  (repeat' split) <;> simp

@[simp] theorem rseq_agentWrite {s : State} {d ga data pois} : (State.agentWrite s d ga data pois).1.flash.rseq = s.flash.rseq := by
  simp [State.agentWrite]

@[simp] theorem rseq_sendData {a d q t gen fc last p} : (State.sendData a d q t gen fc last p).1.flash.rseq = a.1.flash.rseq := by
  simp only [State.sendData]
  (repeat' split) <;> simp_all

@[simp] theorem rseq_startCmd {s : State} {d t fc} : (State.startCmd s d t fc).flash.rseq = s.flash.rseq := by simp [State.startCmd]

@[simp] theorem rseq_fabStart {s : State} {d upset} : (State.fabStart s d upset).flash.rseq = s.flash.rseq := by
  simp only [State.fabStart]
  (repeat' split) <;> simp_all

@[simp] theorem rseq_getData {s : State} {f fc} : (State.getData s f fc).flash.rseq = s.flash.rseq := by simp [State.getData]

@[simp] theorem rseq_landGet {s : State} {f} : (State.landGet s f).flash.rseq = s.flash.rseq := by simp [State.landGet]

@[simp] theorem rseq_landPut {s : State} {f} : (State.landPut s f).flash.rseq = s.flash.rseq := by simp [State.landPut]

@[simp] theorem rseq_reduceUnit {a f j} : (State.reduceUnit a f j).1.flash.rseq = a.1.flash.rseq := by
  simp only [State.reduceUnit]
  (repeat' split) <;> simp_all

@[simp] theorem rseq_landReduce {s : State} {f} : (State.landReduce s f).flash.rseq = s.flash.rseq := by simp [State.landReduce]

@[simp] theorem rseq_markLanes {s : State} {d p bad} : (State.markLanes s d p bad).flash.rseq = s.flash.rseq := by simp [State.markLanes]

@[simp] theorem rseq_trainDone {s : State} {d p bad crReq crRsp} : (State.trainDone s d p bad crReq crRsp).flash.rseq = s.flash.rseq := by
  simp only [State.trainDone]
  (repeat' split) <;> simp_all

@[simp] theorem rseq_hostGet {s : State} {port ga len} : (State.hostGet s port ga len).1.flash.rseq = s.flash.rseq := by
  unfold State.hostGet
  refine rseq_carried fun t => ?_
  (repeat' split) <;> simp

@[simp] theorem rseq_dmaRead {s : State} {port ga len} : (State.dmaRead s port ga len).1.flash.rseq = s.flash.rseq := by
  simp [State.dmaRead]

@[simp] theorem rseq_hostPut {s : State} {port ga bs ep} : (State.hostPut s port ga bs ep).1.flash.rseq = s.flash.rseq := by
  unfold State.hostPut
  refine rseq_carried fun t => ?_
  (repeat' split) <;> simp

@[simp] theorem rseq_dmaWrite {s : State} {port ga data ep} : (State.dmaWrite s port ga data ep).1.flash.rseq = s.flash.rseq := by
  simp [State.dmaWrite]

@[simp] theorem rseq_ringIn {s : State} {p n} : (State.ringIn s p n).flash.rseq = s.flash.rseq := by
  unfold State.ringIn
  split
  · rfl
  · simp only [rseq_ite, flash_setResult]
    rw [rseq_foldl_fst fun q b => by simp]
    simp

@[simp] theorem rseq_ringOut {s : State} {p n} : (State.ringOut s p n).flash.rseq = s.flash.rseq := by
  unfold State.ringOut
  split <;> simp

@[simp] theorem rseq_imgPiece {s : State} {d sp a n} : (State.imgPiece s d sp a n).1.flash.rseq = s.flash.rseq := by
  unfold State.imgPiece
  split <;> simp

@[simp] theorem rseq_imgNext {d sp a q p} : (State.imgNext d sp a q p).1.flash.rseq = q.1.flash.rseq := by simp [State.imgNext]

@[simp] theorem rseq_imgReadBy {s : State} {d src off len} : (State.imgReadBy s d src off len).1.flash.rseq = s.flash.rseq := by
  simp [State.imgReadBy]

@[simp] theorem rseq_imgRead {s : State} {src off len} : (State.imgRead s src off len).1.flash.rseq = s.flash.rseq := by
  simp [State.imgRead]

@[simp] theorem rseq_readChunk {s : State} {src g i o n} : (State.readChunk s src g i o n).1.flash.rseq = s.flash.rseq := by
  grind [State.readChunk, rseq_imgRead]

@[simp] theorem rseq_readGood {s : State} {src g i o n a6 a7} : (State.readGood s src g i o n a6 a7).1.flash.rseq = s.flash.rseq := by
  induction a6 generalizing s a7 with
  | zero => rfl
  | succ more ih => grind [State.readGood, rseq_readChunk]

@[simp] theorem rseq_readEntries {s : State} {src a2} : (State.readEntries s src a2).1.flash.rseq = s.flash.rseq := by
  induction a2 generalizing s with
  | nil => rfl
  | cons e rest ih =>
    obtain ⟨g, n⟩ := e
    rw [State.readEntries]
    generalize hp : List.foldl _ _ _ = r
    have hr : r.1.flash.rseq = s.flash.rseq := by
      rw [← hp]
      exact rseq_foldl_fst (fun q c => by grind [rseq_readGood]) _ _
    split
    · exact hr
    · split
      · exact hr
      · split
        · next t es h => exact (rseq_of_pair h ih).trans hr
        · exact ih.trans hr

@[simp] theorem rseq_loadCheck {s : State} {src units ox oy} : (State.loadCheck s src units ox oy).1.flash.rseq = s.flash.rseq := by
  unfold State.loadCheck
  dsimp only
  split
  · rfl
  · split
    · rfl
    · split
      · next t h => exact rseq_of_pair h rseq_imgRead
      · next t hd h =>
        have ht := rseq_of_pair h rseq_imgRead
        split
        · exact ht
        · split
          · next u h => exact (rseq_of_pair h rseq_imgRead).trans ht
          · next u pt h =>
            have hu := (rseq_of_pair h rseq_imgRead).trans ht
            split
            · exact hu
            · split
              · exact hu
              · split
                · exact hu
                · split
                  · exact hu
                  · split
                    · next v h => exact (rseq_of_pair h rseq_imgRead).trans hu
                    · next v st h =>
                      have hv := (rseq_of_pair h rseq_imgRead).trans hu
                      split
                      · exact hv
                      · split
                        · next w r n h => exact (rseq_of_pair h rseq_readEntries).trans hv
                        · next w k4 h =>
                          have hw := (rseq_of_pair h rseq_readEntries).trans hv
                          split <;> exact hw

@[simp] theorem rseq_loadStart {s : State} : (State.loadStart s).flash.rseq = s.flash.rseq := by
  unfold State.loadStart
  split
  · simp
  · dsimp only
    split
    · next t l h => exact (rseq_of_pair h rseq_loadCheck).trans (by simp)
    · next t r p g h => exact (by simp : _ = t.flash.rseq).trans ((rseq_of_pair h rseq_loadCheck).trans (by simp))

@[simp] theorem rseq_broadcast {s : State} {l lost stalled is} : (State.broadcast s l lost stalled is).s.flash.rseq = s.flash.rseq := by
  unfold State.broadcast
  refine rseq_foldl_bcast (fun q e => ?_) _ _
  split
  · rfl
  · split
    · next t h => exact rseq_of_pair h rseq_readChunk
    · next t bs crc h => exact by simp [rseq_of_pair h rseq_readChunk]

@[simp] theorem rseq_loadKind5 {s : State} {badReads} : (State.loadKind5 s badReads).flash.rseq = s.flash.rseq := by
  unfold State.loadKind5
  split
  · rfl
  · split
    · rfl
    · dsimp only
      generalize hp : List.foldl _ _ _ = r
      have hr : r.1.flash.rseq = s.flash.rseq := by
        rw [← hp]
        refine rseq_foldl_fst (fun q e => ?_) _ _
        split
        · rfl
        · split
          · next t h => exact rseq_of_pair h rseq_readGood
          · next t bs h =>
            refine (rseq_foldl_fst (fun q p => ?_) _ _).trans (rseq_of_pair h rseq_readGood : t.flash.rseq = q.1.flash.rseq)
            exact rseq_carried fun u => rseq_gddrWriteNow
      split
      · simp [hr]
      · exact hr

@[simp] theorem rseq_loadRound {s : State} {lost stalled} : (State.loadRound s lost stalled).flash.rseq = s.flash.rseq := by
  unfold State.loadRound
  split
  · rfl
  · split
    · rfl
    · split
      · rfl
      · dsimp only
        rw [rseq_ite]
        refine (ite_congr rfl (fun _ => ?_) fun _ => ?_).trans (ite_self _)
        · rw [flash_loadRefuse, rseq_broadcast]
          simp
        · rw [flash_roundSettle]
          refine (rseq_foldl (fun u i => ?_) _ _).trans ?_
          · split <;> simp
          · exact rseq_broadcast.trans (by simp)

@[simp] theorem rseq_repairChunk {s : State} {c i n copies} : (State.repairChunk s c i n copies).flash.rseq = s.flash.rseq := by
  unfold State.repairChunk
  split
  · rfl
  · split
    · split
      · simp
      · dsimp only
        split
        · simp
        · split
          · next t h => exact (congrArg Flash.rseq flash_loadRefuse).trans ((rseq_of_pair h rseq_imgReadBy).trans (by simp))
          · next t bs h =>
            have ht := (rseq_of_pair h rseq_imgReadBy).trans (by simp : _ = s.flash.rseq)
            split
            · next u h => exact (congrArg Flash.rseq flash_chunkGood).trans ((rseq_of_pair h (rseq_copyChunk (by simp))).trans ht)
            · next u h => exact (rseq_of_pair h (rseq_copyChunk (by simp))).trans ht
    · rfl

@[simp] theorem rseq_ctrWrite {s : State} : (State.ctrWrite s).flash.rseq = s.flash.rseq := by simp [State.ctrWrite]

@[simp] theorem rseq_dropDevs {s : State} {ok0 ok1 reason} : (State.dropDevs s ok0 ok1 reason).flash.rseq = s.flash.rseq := by
  simp [State.dropDevs]

@[simp] theorem rseq_copyFail {s : State} {ok0 ok1} : (State.copyFail s ok0 ok1).flash.rseq = s.flash.rseq := by simp [State.copyFail]

@[simp] theorem rseq_bboxCommit {a0 : State} {ok0 ok1} : (State.bboxCommit a0 ok0 ok1).flash.rseq = a0.flash.rseq := by
  unfold State.bboxCommit
  split <;> simp

@[simp] theorem rseq_keepStore {s : State} : (State.keepStore s).flash.rseq = s.flash.rseq := by simp [State.keepStore]

@[simp] theorem rseq_flashFlush {s : State} : (State.flashFlush s).flash.rseq = s.flash.rseq := by simp [State.flashFlush]

@[simp] theorem rseq_commitStaged {s : State} {a1} : (State.commitStaged s a1).flash.rseq = s.flash.rseq := by
  induction a1 generalizing s with
  | zero => rfl
  | succ n ih => rw [State.commitStaged, ih]; simp

@[simp] theorem rseq_firmwareTest {s : State} {c failed} : (State.firmwareTest s c failed).flash.rseq = s.flash.rseq := by
  unfold State.firmwareTest
  split
  · split
    · rfl
    · split
      · next t n h => simp [flash_of_pair h flash_carryPhys]
      · next t h =>
        have ht := flash_of_pair h flash_carryPhys
        cases failed <;> simp [ht]
  · split
    · rfl
    · split
      · rfl
      · cases failed <;> simp

@[simp] theorem rseq_flashBack {s : State} : (State.flashBack s).flash.rseq = s.flash.rseq := by simp [State.flashBack]

@[simp] theorem rseq_testVerdict {s : State} {c pass} : (State.testVerdict s c pass).flash.rseq = s.flash.rseq := by
  simp only [State.testVerdict]
  (repeat' split) <;> simp_all

@[simp] theorem rseq_wipe {s : State} {warm kind} : (State.wipe s warm kind).flash.rseq = s.flash.rseq := by
  simp only [State.wipe, State.startFlash]
  split
  · exact rseq_flashFlush
  · exact rseq_flashBack

@[simp] theorem rseq_beginWarm {s : State} {kind cls} : (State.beginWarm s kind cls).flash.rseq = s.flash.rseq := by
  simp [State.beginWarm]

@[simp] theorem rseq_resetWarm {s : State} {confirm} : (State.resetWarm s confirm).flash.rseq = s.flash.rseq := by simp [State.resetWarm]

@[simp] theorem rseq_beginCold {s : State} {cause cls} : (State.beginCold s cause cls).flash.rseq = s.flash.rseq := by
  simp [State.beginCold]

@[simp] theorem rseq_resetCold {s : State} {confirm} : (State.resetCold s confirm).flash.rseq = s.flash.rseq := by simp [State.resetCold]

@[simp] theorem rseq_cellBad {s : State} {c source} : (State.cellBad s c source).flash.rseq = s.flash.rseq := by simp [State.cellBad]

@[simp] theorem rseq_configCal {s : State} {r} : (State.configCal s r).flash.rseq = s.flash.rseq := by
  simp only [State.configCal]
  (repeat' split) <;> simp_all

@[simp] theorem rseq_configDone {s : State} : (State.configDone s).flash.rseq = s.flash.rseq := by simp [State.configDone]

@[simp] theorem rseq_sfdpCheck {s : State} {ts} : (State.sfdpCheck s ts).flash.rseq = s.flash.rseq := by simp [State.sfdpCheck]

@[simp] theorem rseq_repairCopies {s : State} {bad} : (State.repairCopies s bad).flash.rseq = s.flash.rseq := by
  simp [State.repairCopies]

@[simp] theorem rseq_readLicences {s : State} {bad} : (State.readLicences s bad).flash.rseq = s.flash.rseq := by
  simp only [State.readLicences, flash_licCount, setReg_flash]
  rw [rseq_foldl fun t l => ?_]
  split <;> simp

@[simp] theorem rseq_readRmap {s : State} {bad} : (State.readRmap s bad).flash.rseq = s.flash.rseq := by simp [State.readRmap]

@[simp] theorem rseq_configSets {s : State} {r} : (State.configSets s r).flash.rseq = s.flash.rseq := by simp [State.configSets]

@[simp] theorem rseq_devTrain {s : State} {d n ts} : (State.devTrain s d n ts).flash.rseq = s.flash.rseq := by simp [State.devTrain]

@[simp] theorem rseq_railStart {s : State} {r rail bad} : (State.railStart s r rail bad).1.flash.rseq = s.flash.rseq := by
  simp [State.railStart]

@[simp] theorem rseq_regionStart {s : State} {r bad} : (State.regionStart s r bad).flash.rseq = s.flash.rseq := by
  simp [State.regionStart]

@[simp] theorem rseq_dieUp {s : State} {d slicesBad} : (State.dieUp s d slicesBad).flash.rseq = s.flash.rseq := by simp [State.dieUp]

@[simp] theorem rseq_diePowerUp {s : State} {d ok ctlOk slicesBad} : (State.diePowerUp s d ok ctlOk slicesBad).flash.rseq = s.flash.rseq := by
  simp only [State.diePowerUp]
  (repeat' split) <;> simp_all

@[simp] theorem rseq_disableCrossing {s : State} {d side c} : (State.disableCrossing s d side c).flash.rseq = s.flash.rseq := by
  unfold State.disableCrossing
  split <;> simp

@[simp] theorem rseq_takeOver {s : State} : (State.takeOver s).flash.rseq = s.flash.rseq := by simp [State.takeOver]

@[simp] theorem rseq_failover {s : State} : (State.failover s).flash.rseq = s.flash.rseq := by simp [State.failover]

@[simp] theorem rseq_firmwareVerify {s : State} {sfdp keysOk objs} : (State.firmwareVerify s sfdp keysOk objs).flash.rseq = s.flash.rseq := by
  unfold State.firmwareVerify
  dsimp only
  split
  · rfl
  · split <;> simp

@[simp] theorem rseq_flashWrite {s : State} {ok0 ok1} : (State.flashWrite s ok0 ok1).flash.rseq = s.flash.rseq := by
  simp only [State.flashWrite]
  (repeat' split) <;> simp_all

@[simp] theorem rseq_promoteAll {s : State} : (State.promoteAll s).flash.rseq = s.flash.rseq := by simp [State.promoteAll]

@[simp] theorem rseq_fuseMerge {s : State} {faults} : (State.fuseMerge s faults).flash.rseq = s.flash.rseq := by
  simp only [State.fuseMerge]
  (repeat' split) <;> simp_all

@[simp] theorem rseq_portStart {s : State} {d p lanesBad credits} : (State.portStart s d p lanesBad credits).flash.rseq = s.flash.rseq := by
  simp [State.portStart]

@[simp] theorem rseq_linkTraining {s : State} {ts lanesBad credits} : (State.linkTraining s ts lanesBad credits).flash.rseq = s.flash.rseq := by
  simp [State.linkTraining]

@[simp] theorem rseq_vote {s : State} {c n} : (State.vote s c n).flash.rseq = s.flash.rseq := by simp [State.vote]

@[simp] theorem rseq_wireFail {s : State} {d side c w} : (State.wireFail s d side c w).flash.rseq = s.flash.rseq := by
  simp [State.wireFail]

@[simp] theorem rseq_soakRetrain {s : State} {d side c raw} : (State.soakRetrain s d side c raw).flash.rseq = s.flash.rseq := by
  simp [State.soakRetrain]

@[simp] theorem rseq_neighbourTest {s : State} {marchBad verdicts wiresBad retrain} :
    (State.neighbourTest s marchBad verdicts wiresBad retrain).flash.rseq = s.flash.rseq := by
  simp [State.neighbourTest]

@[simp] theorem rseq_pllCalibration {s : State} {d locked raw wiresBad} :
    (State.pllCalibration s d locked raw wiresBad).flash.rseq = s.flash.rseq := by
  simp [State.pllCalibration]

@[simp] theorem rseq_warmRestart {s : State} : (State.warmRestart s).flash.rseq = s.flash.rseq := by
  unfold State.warmRestart
  split <;> simp

@[simp] theorem rseq_drawNonce {s : State} : (State.drawNonce s).flash.rseq = s.flash.rseq := by simp [State.drawNonce]

@[simp] theorem rseq_nonceAfter {s : State} {op} : (State.nonceAfter s op).flash.rseq = s.flash.rseq := by simp [State.nonceAfter]

@[simp] theorem rseq_licEnd {s : State} : (State.licEnd s).flash.rseq = s.flash.rseq := by simp [State.licEnd]

@[simp] theorem rseq_licRun {s : State} {op : Nat} {act : State → State} (h : ∀ t, (act t).flash.rseq = t.flash.rseq) :
    (s.licRun op act).flash.rseq = s.flash.rseq := by
  unfold State.licRun
  split
  · simp
  · split <;> simp [h]

@[simp] theorem rseq_licWrite {s : State} {bs} : (State.licWrite s bs).1.flash.rseq = s.flash.rseq := by
  simp only [State.licWrite]
  (repeat' split) <;> simp_all

@[simp] theorem rseq_attest {s : State} : (State.attest s).flash.rseq = s.flash.rseq := by simp [State.attest]

@[simp] theorem rseq_certificate {s : State} : (State.certificate s).flash.rseq = s.flash.rseq := by simp [State.certificate]

@[simp] theorem rseq_clearBbox {s : State} : (State.clearBbox s).flash.rseq = s.flash.rseq := by simp [State.clearBbox]

@[simp] theorem rseq_licObject {s : State} {obj otype} : (State.licObject s obj otype).1.flash.rseq = s.flash.rseq := by
  unfold State.licObject
  split
  · rfl
  · split
    · next t h => exact rseq_of_pair h rseq_imgRead
    · next t bs h => cases obj <;> exact rseq_of_pair h rseq_imgRead

@[simp] theorem rseq_service {s : State} {obj cmd why} {act : State → State} (h : ∀ t, (act t).flash.rseq = t.flash.rseq) :
    (s.service obj cmd why act).flash.rseq = s.flash.rseq := by
  unfold State.service
  refine rseq_licRun fun t => ?_
  cases obj with
  | none => simp
  | some o => simp [h]

@[simp] theorem rseq_installFirmware {s : State} {obj ok} : (State.installFirmware s obj ok).flash.rseq = s.flash.rseq := by
  unfold State.installFirmware
  refine rseq_licRun fun t => ?_
  cases obj <;> simp

@[simp] theorem rseq_installLicence {s : State} {obj} : (State.installLicence s obj).flash.rseq = s.flash.rseq := by
  unfold State.installLicence
  split <;> simp

@[simp] theorem rseq_raiseSvn {s : State} : (State.raiseSvn s).flash.rseq = s.flash.rseq := by simp [State.raiseSvn]

@[simp] theorem rseq_removeEntries {s : State} {die idxs} : (State.removeEntries s die idxs).flash.rseq = s.flash.rseq := by
  simp [State.removeEntries]

@[simp] theorem rseq_removeLicence {s : State} {lseq} : (State.removeLicence s lseq).flash.rseq = s.flash.rseq := by
  simp [State.removeLicence]

@[simp] theorem rseq_bandRestart {s : State} : (State.bandRestart s).flash.rseq = s.flash.rseq := by simp [State.bandRestart]

@[simp] theorem rseq_powerLost {s : State} : (State.powerLost s).flash.rseq = s.flash.rseq := by simp [State.powerLost]

@[simp] theorem rseq_inputStart {a0 : State} : (State.inputStart a0).flash.rseq = a0.flash.rseq := by simp [State.inputStart]

@[simp] theorem rseq_regulatorFail {s : State} {d u} : (State.regulatorFail s d u).flash.rseq = s.flash.rseq := by
  unfold State.regulatorFail
  (repeat' split) <;> simp

@[simp] theorem rseq_resetRelease {s : State} : (State.resetRelease s).flash.rseq = s.flash.rseq := by simp [State.resetRelease]

@[simp] theorem rseq_writeReset {s : State} {v} : (State.writeReset s v).flash.rseq = s.flash.rseq := by simp [State.writeReset]

@[simp] theorem rseq_writeLicCmd {s : State} {op} : (State.writeLicCmd s op).flash.rseq = s.flash.rseq := by simp [State.writeLicCmd]

@[simp] theorem rseq_engWrite {s : State} {o row v ga} : (State.engWrite s o row v ga).flash.rseq = s.flash.rseq := by
  simp [State.engWrite]

@[simp] theorem rseq_dieWrite {s : State} {req d o row v ga} : (State.dieWrite s req d o row v ga).1.flash.rseq = s.flash.rseq := by
  unfold State.dieWrite
  simp only [rseq_ite_fst]
  cases s.part.portOf d <;> simp

@[simp] theorem rseq_writeReg {s : State} {req k row v ga} : (State.writeReg s req k row v ga).1.flash.rseq = s.flash.rseq := by
  unfold State.writeReg
  (repeat' split) <;> simp

@[simp] theorem rseq_ctlWrite {s : State} {req k wide v ga} : (State.ctlWrite s req k wide v ga).1.flash.rseq = s.flash.rseq := by
  simp only [State.ctlWrite]
  (repeat' split) <;> simp_all

@[simp] theorem rseq_regWrite {s : State} {req ga wide v} : (State.regWrite s req ga wide v).flash.rseq = s.flash.rseq := by
  unfold State.regWrite
  split <;> simp

@[simp] theorem rseq_agentGet {s : State} {p} : (State.agentGet s p).1.flash.rseq = s.flash.rseq := by
  unfold State.agentGet
  split
  · simp
  · split
    · next t h => exact congrArg Flash.rseq (flash_of_pair h flash_outRead)
    · next t h => exact congrArg Flash.rseq (flash_of_pair h flash_outRead)
  · split <;> simp

@[simp] theorem rseq_ctlPut {s : State} {req k ga data} : (State.ctlPut s req k ga data).1.flash.rseq = s.flash.rseq := by
  unfold State.ctlPut
  (repeat' split) <;> simp

@[simp] theorem rseq_agentPut {s : State} {p} : (State.agentPut s p).1.flash.rseq = s.flash.rseq := by
  unfold State.agentPut
  (repeat' split) <;> simp

@[simp] theorem rseq_landWrite {s : State} {c p} : (State.landWrite s c p).1.flash.rseq = s.flash.rseq := by
  unfold State.landWrite
  dsimp only
  (repeat' split) <;> simp

@[simp] theorem rseq_readLand {s : State} {i m} : (State.readLand s i m).flash.rseq = s.flash.rseq := by
  unfold State.readLand
  split
  · rfl
  · split
    · simp
    · split
      · next t h => exact congrArg Flash.rseq (flash_of_pair h flash_meshAdmit)
      · next t h =>
        have ht := congrArg Flash.rseq (flash_of_pair h flash_meshAdmit)
        split
        · next u bs ps st h => exact (by simp : _ = u.flash.rseq).trans ((rseq_of_pair h rseq_agentGet).trans (by simp [ht]))
        · next u h => exact (rseq_of_pair h rseq_agentGet).trans (by simp [ht])
    · rfl

@[simp] theorem rseq_writeLand {s : State} {i m ecc} : (State.writeLand s i m ecc).flash.rseq = s.flash.rseq := by
  unfold State.writeLand
  split
  · rfl
  · split
    · simp
    · split
      · rfl
      · split
        · next t h => exact congrArg Flash.rseq (flash_of_pair h flash_meshAdmit)
        · next t h =>
          have ht := congrArg Flash.rseq (flash_of_pair h flash_meshAdmit)
          simp [ht]
    · rfl

@[simp] theorem rseq_applyEntry {s : State} {c e} : (State.applyEntry s c e).flash.rseq = s.flash.rseq := by simp [State.applyEntry]

@[simp] theorem rseq_bar0Write {s : State} {p off data} : (State.bar0Write s p off data).flash.rseq = s.flash.rseq := by
  simp [State.bar0Write]

@[simp] theorem rseq_memWindowRead {s : State} {p ga len} : (State.memWindowRead s p ga len).flash.rseq = s.flash.rseq := by
  simp [State.memWindowRead]

@[simp] theorem rseq_bar2Read {s : State} {p off len} : (State.bar2Read s p off len).flash.rseq = s.flash.rseq := by
  simp [State.bar2Read]

@[simp] theorem rseq_ctlWindowWrite {s s0 : State} {r ga data} (h : s0.flash.rseq = s.flash.rseq) :
    (s.ctlWindowWrite s0 r ga data).flash.rseq = s.flash.rseq := by
  unfold State.ctlWindowWrite
  split
  · exact (rseq_carried fun t => rseq_ctlPut).trans h
  · simp

@[simp] theorem rseq_bar2Write {s : State} {p off data ep} : (State.bar2Write s p off data ep).flash.rseq = s.flash.rseq := by
  simp [State.bar2Write]

@[simp] theorem rseq_hostRead {s : State} {p bar off len} : (State.hostRead s p bar off len).flash.rseq = s.flash.rseq := by
  simp [State.hostRead]

@[simp] theorem rseq_hostWrite {s : State} {p bar off data ep} : (State.hostWrite s p bar off data ep).flash.rseq = s.flash.rseq := by
  simp [State.hostWrite]

@[simp] theorem rseq_loadInit {s : State} : (State.loadInit s).flash.rseq = s.flash.rseq := by
  unfold State.loadInit
  split
  · rfl
  · split
    · rfl
    · dsimp only
      generalize hp : List.foldl _ _ _ = u
      have hu : u.flash.rseq = s.flash.rseq := by
        rw [← hp, rseq_foldl fun t e => by split <;> simp]
        simp
      split
      · exact hu
      · simp [hu]

@[simp] theorem rseq_ringLoad {s : State} {p n} : (State.ringLoad s p n).flash.rseq = s.flash.rseq := by
  unfold State.ringLoad
  split <;> simp

@[simp] theorem rseq_ringReg {s : State} {p n} : (State.ringReg s p n).flash.rseq = s.flash.rseq := by
  simp only [State.ringReg]
  (repeat' split) <;> simp_all

@[simp] theorem rseq_ctlStore {s : State} {c k a3} : (State.ctlStore s c k a3).flash.rseq = s.flash.rseq := by simp [State.ctlStore]

@[simp] theorem rseq_releaseStores {s : State} {c k a3} : (State.releaseStores s c k a3).flash.rseq = s.flash.rseq := by
  induction a3 generalizing s with
  | zero => rfl
  | succ fuel ih =>
    rw [State.releaseStores]
    split
    · rfl
    · split
      · rfl
      · rw [ih]; simp

@[simp] theorem rseq_ownershipGovern {s : State} {c} : (State.ownershipGovern s c).flash.rseq = s.flash.rseq := by
  simp [State.ownershipGovern]

@[simp] theorem rseq_runCtlStore {c k} {s : State} {w len raw} : (State.runCtlStore c k s w len raw).flash.rseq = s.flash.rseq := by
  simp only [State.runCtlStore]
  (repeat' split) <;> simp_all

theorem rseq_issue_ctlStore {s : State} {c : Nat} {k : CoreSel} : (s.issue c k .ctlStore (State.runCtlStore c k)).flash.rseq = s.flash.rseq := by
  have hfetch : (s.fetch c k).1.flash = s.flash := flash_of_within (within_fetch (by decide) (within_refl _))
  unfold State.issue
  split
  · rfl
  · split
    · next t w len raw h =>
      have ht := flash_of_pair h hfetch
      split
      · simp [ht]
      · rfl
    · rfl
    · rfl

/-! ### The two changes -/

/-- R423: the number that the next record takes is one of 1 to 0xFFFFFFFF. -/
def RseqOk (s : State) : Prop := 1 ≤ s.flash.rseq ∧ s.flash.rseq ≤ 0xFFFFFFFF

theorem RseqOk.of_eq {s t : State} (h : RseqOk s) (e : t.flash.rseq = s.flash.rseq) : RseqOk t := by
  rwa [RseqOk, e]

/-- A number taken from 1 to 0xFFFFFFFF in a circle. -/
theorem circle_bounds (n : Nat) : 1 ≤ n % 0xFFFFFFFF + 1 ∧ n % 0xFFFFFFFF + 1 ≤ 0xFFFFFFFF := by omega

theorem RseqOk.recordArrive {s : State} (h : RseqOk s) : RseqOk s.recordArrive := by
  unfold State.recordArrive
  split
  · exact h
  · have hnext : RseqOk { s with flash := { s.flash with rseq := s.flash.rseq % 0xFFFFFFFF + 1 } } := circle_bounds _
    exact hnext.of_eq (by simp)

theorem RseqOk.readCounters (s : State) (r : FlashRead) : RseqOk (s.readCounters r) := by
  have hread (n : Nat) : RseqOk { s with flash := { s.flash with rseq := n % 0xFFFFFFFF + 1 } } := circle_bounds n
  exact (hread _).of_eq (by simp [State.readCounters]; rfl)

theorem RseqOk.configRead {s : State} (h : RseqOk s) (r : FlashRead) : RseqOk (s.configRead r) := by
  unfold State.configRead
  split
  · exact h
  · exact (RseqOk.readCounters (if s.warm then s.sfdpCheck r.sfdp else s) r).of_eq (by simp)

theorem RseqOk.drainRecs {s : State} (h : RseqOk s) (n : Nat) : RseqOk (s.drainRecs n) := by
  induction n generalizing s with
  | zero => exact h
  | succ n ih => exact ih h.recordArrive

theorem RseqOk.commitAll {s : State} (h : RseqOk s) : RseqOk s.commitAll :=
  (h.drainRecs _).of_eq rseq_commitStaged

theorem RseqOk.coolantTimeout {s : State} (h : RseqOk s) : RseqOk s.coolantTimeout := by
  unfold State.coolantTimeout
  split
  · have hraised : RseqOk (s.raise 0x7C (.module 0) (1 + 2 ^ 8) none) := h.of_eq (by simp)
    exact hraised.commitAll.of_eq (by simp)
  · exact h

theorem RseqOk.moduleReset {s : State} (h : RseqOk s) : RseqOk s.moduleReset := by
  unfold State.moduleReset
  split
  · exact h
  · have hoff : RseqOk (s.faultNotices.allOff).loseJobs.zeroS := h.of_eq (by simp)
    exact hoff.commitAll.of_eq (by simp)

theorem RseqOk.stop {s : State} (h : RseqOk s) (reason : Nat) : RseqOk (s.stop reason) := by
  unfold State.stop
  exact RseqOk.commitAll (h.of_eq (by simp))

theorem RseqOk.stopSettle {s : State} (h : RseqOk s) : RseqOk s.stopSettle := by
  unfold State.stopSettle
  split
  · split
    · exact h
    · split
      · exact h.stop _
      · exact h.of_eq (by simp)
  · exact h

/-! ### Every step -/

theorem RseqOk.of_next {s t u : State} (h : RseqOk s) (e : (.next u : Res) = .next t) (hu : u.flash.rseq = s.flash.rseq) : RseqOk t := by
  injection e with e
  exact e ▸ h.of_eq hu

theorem RseqOk.next {t u : State} (e : (.next u : Res) = .next t) (h : RseqOk u) : RseqOk t := by
  injection e with e
  exact e ▸ h

/-- A command that can reach the flash. -/
theorem RseqOk.exec_flash {c : Instr} {s t : State} (h : RseqOk s) (e : exec c s = .next t) (hc : .flash ∈ touches c) : RseqOk t := by
  cases c with
  | configRead r => exact RseqOk.next e (h.configRead r)
  | errorRecordArrive => exact RseqOk.next e h.recordArrive
  | moduleReset => exact RseqOk.next e h.moduleReset
  | startupCoolantTimeout => exact RseqOk.next e h.coolantTimeout
  | cellFailInService => exact h.of_next e (by simp)
  | channelRetrainDone => exact h.of_next e (by simp)
  | memEccRawRead => exact h.of_next e (by simp)
  | memEccRawWrite => exact h.of_next e (by simp)
  | loopbackTestDone => exact h.of_next e (by simp)
  | fabCommandStart => exact h.of_next e (by simp)
  | getRequestReceive => exact h.of_next e (by simp)
  | getResponseReceive => exact h.of_next e (by simp)
  | portRetrainDone => exact h.of_next e (by simp)
  | putFrameReceive => exact h.of_next e (by simp)
  | reduceFrameReceive => exact h.of_next e (by simp)
  | ringDmaEngineToHost => exact h.of_next e (by simp)
  | ringDmaHostToEngine => exact h.of_next e (by simp)
  | loadChunkRepair => exact h.of_next e (by simp)
  | loadKind5Write => exact h.of_next e (by simp)
  | loadRound => exact h.of_next e (by simp)
  | loadStart => exact h.of_next e (by simp)
  | bboxCommit => exact h.of_next e (by simp)
  | firmwareSelfTest => exact h.of_next e (by simp)
  | targetedTestVerdict => exact h.of_next e (by simp)
  | bootResetCold => exact h.of_next e (by simp)
  | bootResetWarm => exact h.of_next e (by simp)
  | diePowerUp => exact h.of_next e (by simp)
  | firmwareVerify => exact h.of_next e (by simp)
  | flashWriteComplete => exact h.of_next e (by simp)
  | fuseMergePublish => exact h.of_next e (by simp)
  | heartbeatLossFailover => exact h.of_next e (by simp)
  | ldoSliceFail => exact h.of_next e (by simp)
  | linkTraining => exact h.of_next e (by simp)
  | neighbourTest => exact h.of_next e (by simp)
  | pllCalibration => exact h.of_next e (by simp)
  | powerGood => exact h.of_next e (by simp)
  | powerGoodMissed => exact h.of_next e (by simp)
  | warmRestart => exact h.of_next e (by simp)
  | licAttest => exact h.of_next e (by simp)
  | licInstallFirmware => exact h.of_next e (by simp)
  | licInstallLicence => exact h.of_next e (by simp)
  | licReadCertificate => exact h.of_next e (by simp)
  | svcClearBlackBox => exact h.of_next e (by simp)
  | svcInstallRackKeys => exact h.of_next e (by simp)
  | svcRaiseMinSvn => exact h.of_next e (by simp)
  | svcRemoveLicence => exact h.of_next e (by simp)
  | svcRemoveRepairEntries => exact h.of_next e (by simp)
  | svcReplaceConfig => exact h.of_next e (by simp)
  | svcSelectFirmwareSlot => exact h.of_next e (by simp)
  | bandRestart => exact h.of_next e (by simp)
  | inputColdStartCondition => exact h.of_next e (by simp)
  | moduleResetRelease => exact h.of_next e (by simp)
  | substrateRegulatorFail => exact h.of_next e (by simp)
  | highWordWritePair => exact h.of_next e (by simp)
  | lowWordWriteHeld => exact h.of_next e (by simp)
  | registerWrite => exact h.of_next e (by simp)
  | readPacket => exact h.of_next e (by simp)
  | writePacketLand => exact h.of_next e (by simp)
  | hostBarRead => exact h.of_next e (by simp)
  | hostBarWrite => exact h.of_next e (by simp)
  | loadInitialise => exact h.of_next e (by simp)
  | ringLoad => exact h.of_next e (by simp)
  | ringRegisterWrite => exact h.of_next e (by simp)
  | controlWindowStore => exact h.of_next e rseq_issue_ctlStore
  | ownershipGovern => exact h.of_next e (by simp)
  | _ => simp [touches, haltReach] at hc

theorem RseqOk.exec {c : Instr} {s t : State} (h : RseqOk s) (e : exec c s = .next t) : RseqOk t := by
  by_cases hc : .flash ∈ touches c
  · exact h.exec_flash e hc
  · obtain ⟨u, hu, -, -, -, -, hreach⟩ := WholeMachine.reach_of_command c s
    rw [hu] at e
    exact RseqOk.next e (h.of_eq (congrArg Flash.rseq (hreach .flash hc)))

theorem RseqOk.tick {s : State} (h : RseqOk s) : RseqOk s.tick := by
  have hend : s.tickStart.tickEnd.flash = s.flash := flash_of_within (within_tickEnd (by decide) (within_tickStart (by decide) (within_refl s)))
  have hpass : RseqOk s.tickStart.tickEnd.passSlot := h.of_eq (congrArg Flash.rseq hend)
  exact hpass.stopSettle

/-- Settles O60: a record that arrives takes the next number of a circle without 0, the reading of the counters at a start ends on that
circle, and nothing else changes the number. -/
theorem rseqIsNeverZero : Obligations.RseqIsNeverZero := by
  intro s t h1 h2 e
  have h : RseqOk s := ⟨h1, h2⟩
  cases hp : s.pending with
  | nil =>
    rw [WholeMachine.step_idle hp] at e
    exact RseqOk.next e h.tick
  | cons c rest =>
    rw [WholeMachine.step_front hp] at e
    exact (show RseqOk { s with pending := rest } from h).exec e

end Sys2Proof.RecordSequence
end

section
/-! PROOFS. The throttle (R407, R408): engine levels by their stamped frame, the die controllers' own levels and their decay. -/

namespace Sys2Proof.ThrottleLevels

open Sys2Proof Sys2Proof.Machine Sys2Proof.Laws

theorem thr_ne {d e : Nat} (h : d ≠ e) : dieKey d CLK_THR ≠ dieKey e CLK_THR := by
  unfold dieKey
  omega

/-- A die's turn concerns that die alone. -/
structure DieSame (s t : State) (d : Nat) : Prop where
  die : t.die d = s.die d
  thr : t.reg (dieKey d CLK_THR) = s.reg (dieKey d CLK_THR)
  slot : t.slot = s.slot

theorem DieSame.fld {s t : State} {d : Nat} (h : DieSame s t d) (lo w : Nat) : t.fld (dieKey d CLK_THR) lo w = s.fld (dieKey d CLK_THR) lo w := by
  rw [State.fld, h.thr]
  rfl

theorem throttleApply_of_due {s : State} {d l f : Nat} (h : (s.die d).leNext = some (l, f)) (hf : f ≤ s.slot / 16) :
    s.throttleApply d = (s.setFld (dieKey d CLK_THR) 0 4 l).setDie d
      { s.die d with leNext := none, applied := (s.setFld (dieKey d CLK_THR) 0 4 l).levelOf d } := by
  simp [State.throttleApply, h, hf]

theorem throttleApply_of_later {s : State} {d l f : Nat} (h : (s.die d).leNext = some (l, f)) (hf : s.slot / 16 < f) : s.throttleApply d = s := by
  simp [State.throttleApply, h, Nat.not_le.2 hf]

theorem throttleApply_cases (s : State) (e : Nat) : s.throttleApply e = s ∨ ∃ l x, s.throttleApply e = (s.setFld (dieKey e CLK_THR) 0 4 l).setDie e x := by
  unfold State.throttleApply
  split
  · split
    · exact .inr ⟨_, _, rfl⟩
    · exact .inl rfl
  · exact .inl rfl

theorem dieSame_throttleApply (s : State) {d e : Nat} (h : d ≠ e) : DieSame s (s.throttleApply e) d := by
  obtain he | ⟨l, x, he⟩ := throttleApply_cases s e
  · rw [he]
    exact ⟨rfl, rfl, rfl⟩
  · rw [he]
    exact ⟨by simp [die_setDie, h], by simp [reg_setFld, thr_ne h], rfl⟩

theorem reg_throttleApply (s : State) (e : Nat) {k : Nat} (h : k ≠ dieKey e CLK_THR) : (s.throttleApply e).reg k = s.reg k := by
  obtain he | ⟨l, x, he⟩ := throttleApply_cases s e
  · rw [he]
  · rw [he]
    simp [reg_setFld, h]

/-- Die `d` applies the level `l`, next to the other two that it holds. -/
def Applied (s : State) (d l : Nat) (t : State) : Prop :=
  t.fld (dieKey d CLK_THR) 0 4 = l ∧ (t.die d).leNext = none ∧
    (t.die d).applied = max (max l (s.fld (dieKey d CLK_THR) 4 4)) (s.fld (dieKey d CLK_THR) 8 4)

theorem Applied.mono {s t u : State} {d l : Nat} (h : Applied s d l t) (g : DieSame t u d) : Applied s d l u := by
  rwa [Applied, g.fld, g.die]

theorem levelOf_setEng (s : State) (d : Nat) {l : Nat} (hl : l ≤ 8) : (s.setFld (dieKey d CLK_THR) 0 4 l).levelOf d =
    max (max l (s.fld (dieKey d CLK_THR) 4 4)) (s.fld (dieKey d CLK_THR) 8 4) := by
  rw [State.levelOf, fld_setFld_same _ _ (by decide), fld_setFld_apart _ _ (by decide) (.inr (by decide)),
    fld_setFld_apart _ _ (by decide) (.inr (by decide)), Nat.mod_eq_of_lt (by omega)]

theorem applied_throttleApply {s t : State} {d l f : Nat} (hn : (s.die d).leNext = some (l, f)) (hf : f ≤ s.slot / 16) (hl : l ≤ 8)
    (h : DieSame s t d) : Applied s d l (t.throttleApply d) := by
  rw [throttleApply_of_due (by rw [h.die, hn]) (by rw [h.slot]; exact hf)]
  refine ⟨?_, by simp, ?_⟩
  · rw [setDie_fld, fld_setFld_same _ _ (by decide), Nat.mod_eq_of_lt (by omega)]
  · rw [die_setDie_same, levelOf_setEng _ _ hl, h.fld, h.fld]

theorem dieSame_trans {s t u : State} {d : Nat} (h : DieSame s t d) (g : DieSame t u d) : DieSame s u d :=
  ⟨g.die.trans h.die, g.thr.trans h.thr, g.slot.trans h.slot⟩

/-- Settles O1: a die's turn leaves the other dies alone, and the die's own turn is the level its registers give. -/
theorem throttleLevelsTakeEffect : Obligations.ThrottleLevelsTakeEffect := by
  unfold Obligations.ThrottleLevelsTakeEffect
  refine ⟨fun s d l f hd hn hf hl => ⟨_, rfl, ?_⟩, fun s d l f hn hf => ⟨_, rfl, ?_⟩, fun s d h0 => ⟨_, rfl, ?_⟩,
    fun s d hpos hover hlast => ⟨_, rfl, ?_⟩⟩
  · have happ : Applied s d l ((List.range s.part.dies).foldl (fun t d => t.throttleApply d) s) :=
      StartPhases.foldl_establishes (I := fun t => DieSame s t d)
        (fun t e _ he h => dieSame_trans h (dieSame_throttleApply t he.symm)) (fun t h => applied_throttleApply hn hf hl h)
        (fun t e _ he h => h.mono (dieSame_throttleApply t he.symm)) List.nodup_range (List.mem_range.2 hd) ⟨rfl, rfl, rfl⟩
    obtain ⟨hl, hnext, happlied⟩ := happ
    refine ⟨hl, hnext, happlied, fun k hk => ?_⟩
    exact List.foldlRecOn (motive := fun t => t.reg k = s.reg k) _ _ rfl fun t ht e _ => (reg_throttleApply t e (hk e)).trans ht
  · have hsame : DieSame s ((List.range s.part.dies).foldl (fun t d => t.throttleApply d) s) d :=
      List.foldlRecOn (motive := fun t => DieSame s t d) _ _ ⟨rfl, rfl, rfl⟩ fun t ht e _ => by
        by_cases he : d = e
        · subst he
          rwa [throttleApply_of_later (by rw [ht.die, hn]) (by rw [ht.slot]; exact hf)]
        · exact dieSame_trans ht (dieSame_throttleApply t he)
    exact ⟨hsame.die, hsame.thr⟩
  · rw [State.dieApply, if_pos h0]
    exact ⟨by rw [die_setDie_same]; rfl, fun e he => by simp [die_setDie, he], rfl⟩
  · rw [State.dieDecay, if_pos ⟨hpos, hover, hlast⟩]
    have hlt := fld_lt s (dieKey d CLK_THR) 4 4
    refine ⟨?_, ?_, ?_, by simp, fun k hk => ?_, fun e he => by simp [die_setDie, he]⟩
    · rw [setDie_fld, fld_setFld_same _ _ (by decide), Nat.mod_eq_of_lt (by omega)]
      omega
    · rw [setDie_fld, fld_setFld_apart _ _ (by decide) (.inl (by decide))]
    · rw [setDie_fld, fld_setFld_apart _ _ (by decide) (.inr (by decide))]
    · rw [setDie_reg, reg_setFld_other _ _ _ _ (by simpa using hk)]

end Sys2Proof.ThrottleLevels
end

section
/-! PROOFS. What a raised record and a written field leave behind, in the words of the clauses. -/

namespace Sys2Proof.Clauses

open Sys2Proof Sys2Proof.Machine Sys2Proof.Laws

/-- The model's answer with a next state. -/
theorem next_congr {s t : State} (h : s = t) : (Host.Outcome.next s : Res) = .next t := congrArg _ h

theorem now_of_slot {s t : State} (h : t.slot = s.slot) : t.now = s.now := by
  rw [State.now, h]
  rfl

theorem logs_raise {s t : State} (h : t.err.recQ = s.err.recQ) (cls : Nat) (loc : Loc) (detail : Nat) (struck : Option Nat) :
    s.logs (t.raise cls loc detail struck) cls loc detail :=
  ⟨_, by rw [← h]; rfl, rfl, rfl, rfl, rfl⟩

theorem logs_raiseAt {s t : State} (h : t.err.recQ = s.err.recQ) (cls c detail : Nat) :
    s.logs (t.raiseAt cls c detail) cls (.cell c 0) detail := logs_raise h ..

theorem logs_of_err {s t u : State} {cls : Nat} {loc : Loc} {detail : Nat} (h : s.logs t cls loc detail) (hu : u.err.recQ = t.err.recQ) :
    s.logs u cls loc detail := by
  obtain ⟨r, hr, h⟩ := h
  exact ⟨r, hu.trans hr, h⟩

theorem regsBut_refl (s : State) (ks : List Nat) : s.regsBut s ks := fun _ _ => rfl

theorem regsBut_trans {s t u : State} {ks : List Nat} (h : s.regsBut t ks) (h' : t.regsBut u ks) : s.regsBut u ks :=
  fun k hk => (h' k hk).trans (h k hk)

theorem regsBut_mono {s t : State} {ks ls : List Nat} (h : s.regsBut t ks) (hs : ks ⊆ ls) : s.regsBut t ls :=
  fun k hk => h k fun hm => hk (hs hm)

theorem reg_of_regs {s t : State} (hp : t.part = s.part) (h : t.regs = s.regs) (k : Nat) : t.reg k = s.reg k := by
  rw [State.reg, hp, h]
  rfl

theorem regsBut_of_regs {s t u : State} {ks : List Nat} (h : s.regsBut t ks) (hp : u.part = t.part) (hu : u.regs = t.regs) : s.regsBut u ks :=
  fun k hk => (reg_of_regs hp hu k).trans (h k hk)

theorem regsBut_setFld {s t : State} {ks : List Nat} {k : Nat} (h : s.regsBut t ks) (hk : k ∈ ks) (lo w v : Nat) :
    s.regsBut (t.setFld k lo w v) ks :=
  fun j hj => by rw [reg_setFld, if_neg (ne_of_mem_of_not_mem hk hj).symm]; exact h j hj

theorem regsBut_setReg {s t : State} {ks : List Nat} {k : Nat} (h : s.regsBut t ks) (hk : k ∈ ks) (v : BitVec 64) :
    s.regsBut (t.setReg k v) ks :=
  fun j hj => by rw [reg_setReg, if_neg (ne_of_mem_of_not_mem hk hj).symm]; exact h j hj

theorem fld_of_regs {s t : State} (hp : t.part = s.part) (h : t.regs = s.regs) (k lo w : Nat) : t.fld k lo w = s.fld k lo w := by
  rw [State.fld, reg_of_regs hp h]
  rfl

theorem fld_of_regsBut {s t : State} {ks : List Nat} (h : s.regsBut t ks) {k : Nat} (hk : k ∉ ks) (lo w : Nat) : t.fld k lo w = s.fld k lo w := by
  rw [State.fld, h k hk]
  rfl

theorem cellsBut_refl (s : State) (c : Nat) : s.cellsBut s c := fun _ _ => rfl

theorem cellsBut_setCell {s t : State} {c : Nat} (h : s.cellsBut t c) (x : Cell) : s.cellsBut (t.setCell c x) c :=
  fun e he => by rw [cell_setCell, if_neg he]; exact h e he

end Sys2Proof.Clauses
end

section
/-! PROOFS. The margin loop (R410, R411), critical margins and lock loss (R412, R416, R417). -/

namespace Sys2Proof.MarginLoop

open Sys2Proof Sys2Proof.Machine Sys2Proof.Laws Sys2Proof.Clauses

theorem regionDie_regionAt (d : Nat) {rx ry : Nat} (hx : rx < 8) (hy : ry < 8) : regionDie (regionAt d rx ry) = d := by
  unfold regionDie regionAt
  omega

theorem ldoKey_ne (r : Nat) : ldoKey r 0 ≠ ldoKey r 1 := by
  unfold ldoKey dieKey
  omega

theorem clkKey_ne_ldoKey (r q : Nat) {rail : Nat} (h : rail < 2) : regionKey CLK_R r ≠ ldoKey q rail := by
  simp only [regionKey, ldoKey, dieKey, CLK_R, LDO_CR]
  omega

theorem clkKey_ne_dieKey (r d : Nat) {o : Nat} (h : o < 0x100) : dieKey d o ≠ regionKey CLK_R r := by
  simp only [regionKey, dieKey, CLK_R]
  omega

/-! ### The set point of a rail -/

theorem reg_railVset (s : State) {r rail k : Nat} (v : Nat) (h : k ≠ ldoKey r rail) : (s.railVset r rail v).reg k = s.reg k := by
  simp only [State.railVset]
  split <;> simp [reg_setFld, h]

theorem fld_railVset (s : State) (r rail v : Nat) : (s.railVset r rail v).fld (ldoKey r rail) 0 6 = v % 64 := by
  simp only [State.railVset]
  split
  · rw [fld_setFld_apart _ _ (by decide) (.inl (by decide)), fld_setFld_same _ _ (by decide)]
    rfl
  · rw [fld_setFld_same _ _ (by decide)]
    rfl

@[simp] theorem regions_railVset (s : State) (r rail v : Nat) : (s.railVset r rail v).regions = s.regions := by
  simp only [State.railVset]
  split <;> rfl

@[simp] theorem err_railVset (s : State) (r rail v : Nat) : (s.railVset r rail v).err = s.err := by
  simp only [State.railVset]
  split <;> rfl

@[simp] theorem region_railVset (s : State) (r rail v q : Nat) : (s.railVset r rail v).region q = s.region q :=
  congrArg (fun m => SMap.get m q Region.reset) (regions_railVset ..)

/-- Both rails of a region take a new set point; of the region only the set points before may change. -/
structure Stepped (s t : State) (r v0 v1 : Nat) : Prop where
  compute : t.fld (ldoKey r 0) 0 6 = v0 % 64
  router : t.fld (ldoKey r 1) 0 6 = v1 % 64
  reg : ∀ k, k ≠ ldoKey r 0 → k ≠ ldoKey r 1 → t.reg k = s.reg k
  region : ∃ p, t.region r = { s.region r with vPrev := p }
  regions : s.regionsBut t r
  err : t.err = s.err

theorem stepped_stepVset (s : State) (r : Nat) (f : Nat → Nat) : Stepped s (s.stepVset r f) r (f (s.vset r)) (f (s.fld (ldoKey r 1) 0 6)) := by
  have h1 : Stepped s ((s.railVset r 0 (f (s.vset r))).railVset r 1 (f (s.fld (ldoKey r 1) 0 6))) r (f (s.vset r)) (f (s.fld (ldoKey r 1) 0 6)) :=
    { compute := by rw [State.fld, reg_railVset _ _ (ldoKey_ne r)]; exact fld_railVset s r 0 _
      router := fld_railVset _ r 1 _
      reg := fun k h0 h1 => (reg_railVset _ _ h1).trans (reg_railVset _ _ h0)
      region := ⟨(s.region r).vPrev, by simp⟩
      regions := fun q _ => by simp
      err := by simp }
  simp only [State.stepVset]
  split
  · exact h1
  · exact ⟨h1.compute, h1.router, h1.reg, ⟨_, by rw [region_setRegion_same, region_railVset, region_railVset]⟩,
      fun q hq => by simp [region_setRegion, hq], h1.err⟩

theorem Stepped.vset {s t : State} {r v0 v1 : Nat} (h : Stepped s t r v0 v1) (hv : v0 ≤ 40) : t.vset r = v0 :=
  h.compute.trans (Nat.mod_eq_of_lt (by omega))

theorem Stepped.fld_other {s t : State} {r v0 v1 k : Nat} (h : Stepped s t r v0 v1) (h0 : k ≠ ldoKey r 0) (h1 : k ≠ ldoKey r 1) (lo w : Nat) :
    t.fld k lo w = s.fld k lo w := by
  rw [State.fld, h.reg k h0 h1]
  rfl

/-! ### An evaluation -/

/-- What an evaluation reads: the margin register of the region takes the reading, the region the critical margin in force. -/
def evalRead (s : State) (r m : Nat) : State :=
  (s.readMargin r m).setRegion r { s.region r with crit := s.fld (dieKey (regionDie r) CLK_MCFG) 0 5 }

theorem reg_evalRead (s : State) {r m k : Nat} (h : k ≠ regionKey CLK_R r) : (evalRead s r m).reg k = s.reg k := by
  simp [evalRead, State.readMargin, reg_setFld, h]

theorem fld_evalRead (s : State) {r m k : Nat} (h : k ≠ regionKey CLK_R r) (lo w : Nat) : (evalRead s r m).fld k lo w = s.fld k lo w := by
  rw [State.fld, reg_evalRead s h]
  rfl

theorem region_evalRead (s : State) (r m : Nat) :
    (evalRead s r m).region r = { s.region r with crit := s.fld (dieKey (regionDie r) CLK_MCFG) 0 5 } := region_setRegion_same ..

theorem regionsBut_evalRead (s : State) (r m : Nat) : s.regionsBut (evalRead s r m) r := fun q hq => by
  simp [evalRead, State.readMargin, region_setRegion, hq]

theorem vset_evalRead (s : State) (r m : Nat) : (evalRead s r m).vset r = s.vset r :=
  fld_evalRead s (clkKey_ne_ldoKey r r (by decide)).symm 0 6

theorem margin_evalRead (s : State) (r : Nat) {m : Nat} (hm : m < 32) : (evalRead s r m).fld (regionKey CLK_R r) 0 5 = m := by
  rw [evalRead, setRegion_fld, State.readMargin, fld_setFld_apart _ _ (by decide) (.inl (by decide)), fld_setFld_same _ _ (by decide)]
  omega

theorem least_evalRead (s : State) (r : Nat) {m : Nat} (hm : m < 32) :
    (evalRead s r m).fld (regionKey CLK_R r) 5 5 = min m (s.fld (regionKey CLK_R r) 5 5) := by
  rw [evalRead, setRegion_fld, State.readMargin, fld_setFld_same _ _ (by decide)]
  omega

theorem marginEval_eq (s : State) {r m : Nat} (hg : s.coreGate r = true) :
    s.marginEval r m = (let up := if (s.region r).critPend then 2 else 0
      if s.fld (dieKey (regionDie r) CLK_MCFG) 16 1 = 0 then
        ((evalRead s r m).setRegion r { (evalRead s r m).region r with critPend := false }).stepVset r fun v => min 40 (v + up)
      else if m < s.fld (dieKey (regionDie r) CLK_MCFG) 5 5 then (evalRead s r m).marginLow r up
      else (evalRead s r m).marginGood r m up) := by
  rw [State.marginEval, hg]
  rfl

/-- A region's own record of an evaluation, ahead of the step of its set point. -/
theorem stepped_setRegion (s : State) (r : Nat) (x : Region) (f : Nat → Nat) :
    Stepped (s.setRegion r x) ((s.setRegion r x).stepVset r f) r (f (s.vset r)) (f (s.fld (ldoKey r 1) 0 6)) := stepped_stepVset ..

/-- A low margin that is not the hundredth at the ceiling. -/
theorem marginLow_steps {s : State} {r up : Nat} (h : ¬ (s.vset r = 40 ∧ 99 ≤ (s.region r).ceilCnt)) :
    ∃ x : Region, x.marginCap = (s.region r).marginCap ∧ x.vmaxCap = (s.region r).vmaxCap ∧ x.crit = (s.region r).crit ∧
      s.marginLow r up = (s.setRegion r x).stepVset r fun v => min 40 (v + max 1 up) := by
  refine ⟨{ s.region r with loCnt := 0, hiCnt := 0, ceilCnt := if s.vset r = 40 then (s.region r).ceilCnt + 1 else 0, critPend := false },
    rfl, rfl, rfl, if_neg fun hc => h ?_⟩
  obtain ⟨hc, -⟩ := hc
  split at hc
  · exact ⟨‹_›, by omega⟩
  · omega

/-- The hundredth low margin in a row at the ceiling. -/
theorem marginLow_caps {s : State} {r up : Nat} (h40 : s.vset r = 40) (h99 : 99 ≤ (s.region r).ceilCnt) (hcap : (s.region r).vmaxCap = false) :
    ∃ x t, Stepped (s.setRegion r x) t r 40 (min 40 (s.fld (ldoKey r 1) 0 6 + max 1 up)) ∧
      s.marginLow r up = (t.setRegion r { t.region r with vmaxCap := true }).raise 0x7D (State.regionLoc r) (t.marginDetail r 2) none := by
  have hstep := stepped_setRegion s r { s.region r with loCnt := 0, hiCnt := 0, ceilCnt := (s.region r).ceilCnt + 1, critPend := false }
    fun v => min 40 (v + max 1 up)
  rw [h40, Nat.min_eq_left (by omega)] at hstep
  refine ⟨_, _, hstep, ?_⟩
  rw [State.marginLow]
  simp only [h40, if_true]
  rw [if_pos ⟨by omega, by simp [hcap]⟩]

theorem marginGood_steps {s : State} {r m up : Nat} (hm : m ≤ s.fld (dieKey (regionDie r) CLK_MCFG) 10 5) :
    ∃ x : Region, x.marginCap = ((s.region r).marginCap && decide ((s.region r).loCnt + 1 < 10)) ∧
      s.marginGood r m up = (s.setRegion r x).stepVset r fun v => min 40 (v + up) := by
  simp only [State.marginGood, Nat.not_lt.2 hm, if_false, Nat.not_le.2 (Nat.zero_lt_of_ne_zero (by decide : (100 : Nat) ≠ 0))]
  exact ⟨_, rfl, rfl⟩

theorem marginDetail_reason (s : State) (r : Nat) {reason : Nat} (h : reason < 256) :
    (BitVec.ofNat 64 (s.marginDetail r reason)).toNat % 256 = reason := by
  rw [BitVec.toNat_ofNat, State.marginDetail]
  omega

/-! ### The clauses -/

section
variable {s : State} {r m : Nat}

/-- An evaluation with no critical margin pending. -/
theorem marginEval_low (hg : s.coreGate r = true) (hc : (s.region r).critPend = false)
    (hen : s.fld (dieKey (regionDie r) CLK_MCFG) 16 1 = 1) (hm : m < s.fld (dieKey (regionDie r) CLK_MCFG) 5 5) :
    s.marginEval r m = (evalRead s r m).marginLow r 0 := by
  simp [marginEval_eq s hg, hc, hen, hm]

theorem marginEval_good (hg : s.coreGate r = true) (hc : (s.region r).critPend = false)
    (hen : s.fld (dieKey (regionDie r) CLK_MCFG) 16 1 = 1) (hm : s.fld (dieKey (regionDie r) CLK_MCFG) 5 5 ≤ m) :
    s.marginEval r m = (evalRead s r m).marginGood r m 0 := by
  simp [marginEval_eq s hg, hc, hen, Nat.not_lt.2 hm]

theorem marginEval_disabled (hg : s.coreGate r = true) (hc : (s.region r).critPend = false)
    (hen : s.fld (dieKey (regionDie r) CLK_MCFG) 16 1 = 0) :
    s.marginEval r m = ((evalRead s r m).setRegion r { (evalRead s r m).region r with critPend := false }).stepVset r fun v => min 40 v := by
  simp [marginEval_eq s hg, hc, hen]

theorem rail_evalRead {rail : Nat} (h : rail < 2) :
    (evalRead s r m).fld (ldoKey r rail) 0 6 = s.fld (ldoKey r rail) 0 6 :=
  fld_evalRead s (clkKey_ne_ldoKey r r h).symm 0 6

theorem low_steps (hm32 : m < 32) (hg : s.coreGate r = true) (hen : s.fld (dieKey (regionDie r) CLK_MCFG) 16 1 = 1)
    (hm : m < s.fld (dieKey (regionDie r) CLK_MCFG) 5 5) (hc : (s.region r).critPend = false)
    (hn : ¬ (s.vset r = 40 ∧ 99 ≤ (s.region r).ceilCnt)) :
    ∃ t, s.marginEval r m = t ∧ t.vset r = min 40 (s.vset r + 1) ∧ t.fld (ldoKey r 1) 0 6 = min 40 (s.fld (ldoKey r 1) 0 6 + 1) ∧
      t.fld (regionKey CLK_R r) 0 5 = m ∧ t.fld (regionKey CLK_R r) 5 5 = min m (s.fld (regionKey CLK_R r) 5 5) ∧
      (t.region r).marginCap = (s.region r).marginCap ∧ (t.region r).vmaxCap = (s.region r).vmaxCap ∧
      (t.region r).crit = s.fld (dieKey (regionDie r) CLK_MCFG) 0 5 ∧ t.err = s.err ∧
      s.regsBut t [ldoKey r 0, ldoKey r 1, regionKey CLK_R r] ∧ s.regionsBut t r := by
  obtain ⟨x, hxm, hxv, hxc, ht⟩ := marginLow_steps (s := evalRead s r m) (r := r) (up := 0) (by rwa [vset_evalRead, region_evalRead])
  have hstep := stepped_setRegion (evalRead s r m) r x fun v => min 40 (v + max 1 0)
  rw [← ht, ← marginEval_low hg hc hen hm, vset_evalRead, rail_evalRead (by decide)] at hstep
  rw [region_evalRead] at hxm hxv hxc
  generalize s.marginEval r m = t at hstep
  obtain ⟨p, hregion⟩ := hstep.region
  rw [region_setRegion_same] at hregion
  have hclk (lo w : Nat) : t.fld (regionKey CLK_R r) lo w = (evalRead s r m).fld (regionKey CLK_R r) lo w :=
    (hstep.fld_other (clkKey_ne_ldoKey r r (by decide)) (clkKey_ne_ldoKey r r (by decide)) lo w).trans (setRegion_fld ..)
  refine ⟨t, rfl, hstep.vset (Nat.min_le_left ..), hstep.router.trans (Nat.mod_eq_of_lt ((Nat.min_le_left ..).trans_lt (by decide))),
    (hclk 0 5).trans (margin_evalRead s r hm32), (hclk 5 5).trans (least_evalRead s r hm32), by rw [hregion]; exact hxm,
    by rw [hregion]; exact hxv, by rw [hregion]; exact hxc, hstep.err, fun k hk => ?_, fun q hq => ?_⟩
  · simp only [List.mem_cons, List.not_mem_nil, or_false, not_or] at hk
    obtain ⟨hcompute, hrouter, hclk⟩ := hk
    exact ((hstep.reg k hcompute hrouter).trans (setRegion_reg ..)).trans (reg_evalRead s hclk)
  · rw [hstep.regions q hq, region_setRegion, if_neg hq]
    exact regionsBut_evalRead s r m q hq

theorem low_caps (hg : s.coreGate r = true) (hen : s.fld (dieKey (regionDie r) CLK_MCFG) 16 1 = 1)
    (hm : m < s.fld (dieKey (regionDie r) CLK_MCFG) 5 5) (h40 : s.vset r = 40) (h99 : 99 ≤ (s.region r).ceilCnt)
    (hcap : (s.region r).vmaxCap = false) :
    ∃ e, (s.marginEval r m).vset r = 40 ∧ ((s.marginEval r m).region r).vmaxCap = true ∧
      (s.marginEval r m).err.recQ = s.err.recQ ++ [e] ∧ e.cls = 0x7D ∧ e.loc = State.regionLoc r ∧ e.detail.toNat % 256 = 2 := by
  obtain ⟨x, t, hstep, ht⟩ := marginLow_caps (s := evalRead s r m) (r := r) (up := if (s.region r).critPend then 2 else 0)
    (by rwa [vset_evalRead]) (by rwa [region_evalRead]) (by rwa [region_evalRead])
  have heval : s.marginEval r m = (evalRead s r m).marginLow r (if (s.region r).critPend then 2 else 0) := by
    simp [marginEval_eq s hg, hen, hm]
  have herr : t.err = s.err := hstep.err
  obtain ⟨e, hrec, hcls, -, hloc, hdetail⟩ := logs_raise (s := s) (t := t.setRegion r { t.region r with vmaxCap := true })
    (congrArg Err.recQ herr) 0x7D (State.regionLoc r) (t.marginDetail r 2) none
  rw [heval, ht]
  refine ⟨e, hstep.vset le_rfl, ?_, hrec, hcls, hloc, ?_⟩
  · rw [raise_region, region_setRegion_same]
  · rw [hdetail, marginDetail_reason _ _ (by decide)]

theorem good_steps (hg : s.coreGate r = true) (hen : s.fld (dieKey (regionDie r) CLK_MCFG) 16 1 = 1)
    (hm : s.fld (dieKey (regionDie r) CLK_MCFG) 5 5 ≤ m) (hc : (s.region r).critPend = false)
    (hhi : m ≤ s.fld (dieKey (regionDie r) CLK_MCFG) 10 5) (h40 : s.vset r ≤ 40) :
    let t := s.marginEval r m
    t.vset r = s.vset r ∧ ((t.region r).marginCap = true ↔ (s.region r).marginCap = true ∧ (s.region r).loCnt + 1 < 10) ∧ t.err = s.err := by
  intro t
  have hcfg : (evalRead s r m).fld (dieKey (regionDie r) CLK_MCFG) 10 5 = s.fld (dieKey (regionDie r) CLK_MCFG) 10 5 :=
    fld_evalRead s (clkKey_ne_dieKey r _ (by decide)) 10 5
  obtain ⟨x, hx, ht⟩ := marginGood_steps (s := evalRead s r m) (up := 0) (hhi.trans_eq hcfg.symm)
  have hstep := stepped_setRegion (evalRead s r m) r x fun v => min 40 (v + 0)
  rw [← ht, ← marginEval_good hg hc hen hm, vset_evalRead, Nat.add_zero, Nat.min_eq_right h40] at hstep
  obtain ⟨p, hregion⟩ := hstep.region
  refine ⟨hstep.vset h40, ?_, hstep.err⟩
  rw [show (t.region r).marginCap = x.marginCap by rw [hregion, region_setRegion_same], hx, region_evalRead]
  simp

theorem disabled_steps (hg : s.coreGate r = true) (hen : s.fld (dieKey (regionDie r) CLK_MCFG) 16 1 = 0)
    (hc : (s.region r).critPend = false) (h40 : s.vset r ≤ 40) :
    (s.marginEval r m).vset r = s.vset r ∧ ((s.marginEval r m).region r).marginCap = (s.region r).marginCap := by
  have hstep := stepped_setRegion (evalRead s r m) r { (evalRead s r m).region r with critPend := false } fun v => min 40 v
  rw [← marginEval_disabled hg hc hen, vset_evalRead, Nat.min_eq_right h40] at hstep
  obtain ⟨p, hregion⟩ := hstep.region
  refine ⟨hstep.vset h40, ?_⟩
  rw [hregion, region_setRegion_same, region_evalRead]

end

/-! ### Critical margins and lock loss -/

/-- The region after a critical margin. -/
def critRead (s : State) (r code : Nat) : State :=
  (s.setRegion r { s.region r with marginCap := true, critPend := true, loCnt := 0 }).setFld (regionKey CLK_R r) 5 5
    (min code (s.fld (regionKey CLK_R r) 5 5))

theorem critical_eq {s : State} {r code : Nat} (hg : s.routerGate r = true) (hp : s.pulse r = true) (hc : code ≤ (s.region r).crit) :
    s.critical r code = if (s.region r).marginCap then critRead s r code
      else (critRead s r code).raise 0x7D (State.regionLoc r) ((critRead s r code).marginDetail r 1) none :=
  if_pos ⟨hc, hg, hp⟩

theorem region_critRead (s : State) (r code : Nat) :
    (critRead s r code).region r = { s.region r with marginCap := true, critPend := true, loCnt := 0 } := region_setRegion_same ..

theorem regionsBut_critRead (s : State) (r code : Nat) : s.regionsBut (critRead s r code) r := fun q hq => by
  simp [critRead, region_setRegion, hq]

theorem regsBut_critRead (s : State) (r code : Nat) : s.regsBut (critRead s r code) [regionKey CLK_R r] := fun k hk => by
  rw [List.mem_singleton] at hk
  simp [critRead, reg_setFld, hk]

theorem critical_caps {s : State} {r code : Nat} (hg : s.routerGate r = true) (hp : s.pulse r = true) (hc : code ≤ (s.region r).crit) :
    ∃ t, s.critical r code = t ∧ (t.region r).marginCap = true ∧ (t.region r).mcap = 8 ∧
      (t.region r).critPend = true ∧ s.regionsBut t r ∧ s.regsBut t [regionKey CLK_R r] ∧
      if (s.region r).marginCap then t.err = s.err
      else ∃ e, t.err.recQ = s.err.recQ ++ [e] ∧ e.cls = 0x7D ∧ e.loc = State.regionLoc r ∧ e.detail.toNat % 256 = 1 := by
  refine ⟨_, critical_eq hg hp hc, ?_⟩
  cases hcap : (s.region r).marginCap
  case true =>
    simp only [if_true, region_critRead]
    exact ⟨trivial, rfl, trivial, regionsBut_critRead s r code, regsBut_critRead s r code, rfl⟩
  case false =>
    simp only [Bool.false_eq_true, if_false, raise_region, region_critRead]
    exact ⟨trivial, rfl, trivial, regionsBut_critRead s r code, regsBut_critRead s r code, _, rfl, rfl, rfl, marginDetail_reason _ _ (by decide)⟩

theorem fld_setW1c_apart (s : State) (k : Nat) {b lo w : Nat} (hb : b + 1 ≤ 64) (h : lo + w ≤ b ∨ b + 1 ≤ lo) :
    (s.setW1c k b).fld k lo w = s.fld k lo w :=
  fld_setFld_apart _ _ hb h

/-- A field's lock bit falls, and the loss is held in the field's W1C bit. -/
def unlocked (s : State) (d f : Nat) : State := (s.setFld (dieKey d CLK_STAT) f 1 0).setW1c (dieKey d CLK_STAT) (4 + f)

theorem locked_unlocked (s : State) {d f g : Nat} (hf : f < 4) (hg : g < 4) :
    (unlocked s d f).locked d g = if g = f then false else s.locked d g := by
  rw [State.locked, unlocked, fld_setW1c_apart _ _ (by omega) (by omega)]
  split
  · rw [‹g = f›, fld_setFld_same _ _ (by omega)]
    rfl
  · rw [fld_setFld_apart _ _ (by omega) (by omega)]
    rfl

theorem regsBut_unlocked (s : State) (d f : Nat) : s.regsBut (unlocked s d f) [dieKey d CLK_STAT] :=
  regsBut_setFld (regsBut_of_regs (regsBut_setFld (regsBut_refl s _) (List.mem_singleton_self _) _ _ _) rfl rfl) (List.mem_singleton_self _) _ _ _

theorem lockLoss_eq {s : State} {d f : Nat} (hl : s.locked d f = true) :
    s.lockLoss d f = (unlocked s d f).raise 0x7E (.dieUnit d f) (1 + d * 2 ^ 8 + f * 2 ^ 11) none := if_pos hl

theorem lockLoss_unlocks {s : State} {d f : Nat} (hf : f < 4) (hl : s.locked d f = true) :
    ∃ t, s.lockLoss d f = t ∧ t.locked d f = false ∧
      (∀ r, regionDie r = d → regionField (regionRx r) (regionRy r) = f → t.pulse r = false) ∧
      (∀ g, g < 4 → g ≠ f → t.locked d g = s.locked d g) ∧ s.regsBut t [dieKey d CLK_STAT] ∧
      s.logs t 0x7E (.dieUnit d f) (1 + d * 2 ^ 8 + f * 2 ^ 11) := by
  have hlocked (g : Nat) (hg : g < 4) : (s.lockLoss d f).locked d g = if g = f then false else s.locked d g := by
    rw [lockLoss_eq hl, State.locked, raise_fld]
    exact locked_unlocked s hf hg
  refine ⟨_, rfl, by rw [hlocked f hf, if_pos rfl], fun r hd hr => ?_, fun g hg hgf => by rw [hlocked g hg, if_neg hgf], ?_⟩
  · simp [State.pulse, hd, hr, hlocked f hf]
  · rw [lockLoss_eq hl]
    exact ⟨regsBut_unlocked s d f, logs_raise rfl ..⟩

/-- Settles O3, one lemma per kind of evaluation, for the critical margin and for the loss of lock. -/
theorem marginLoopHoldsTiming : Obligations.MarginLoopHoldsTiming := by
  unfold Obligations.MarginLoopHoldsTiming
  refine ⟨⟨?_, ?_, ?_, ?_, fun s d rx ry m => ⟨_, rfl, rfl, rfl, _, rfl, rfl, rfl, rfl, rfl⟩⟩, ?_, fun s d f _ hf hl => ?_⟩
  · intro s d rx ry m r _ hx hy hm hg hen hlo hc hn
    rw [← regionDie_regionAt d hx hy] at hen hlo
    obtain ⟨t, ht, h⟩ := low_steps hm hg hen hlo hc hn
    rw [regionDie_regionAt d hx hy] at h
    exact ⟨t, next_congr ht, h⟩
  · intro s d rx ry m r _ hx hy _ hg hen hlo h40 h99 hcap
    rw [← regionDie_regionAt d hx hy] at hen hlo
    obtain ⟨e, h⟩ := low_caps hg hen hlo h40 h99 hcap
    exact ⟨_, e, rfl, h⟩
  · intro s d rx ry m r _ hx hy _ hg hen hlo hc hhi h40
    rw [← regionDie_regionAt d hx hy] at hen hlo hhi
    exact ⟨_, rfl, good_steps hg hen hlo hc hhi h40⟩
  · intro s d rx ry m r _ hx hy _ hg hen hc h40
    rw [← regionDie_regionAt d hx hy] at hen
    exact ⟨_, rfl, disabled_steps hg hen hc h40⟩
  · intro s d rx ry code r _ _ _ hg hp hc
    obtain ⟨t, ht, h⟩ := critical_caps hg hp hc
    exact ⟨t, next_congr ht, h⟩
  · obtain ⟨t, ht, h⟩ := lockLoss_unlocks hf hl
    exact ⟨t, next_congr ht, h⟩

end Sys2Proof.MarginLoop
end

section
/-! PROOFS. Facility time: reference edges and messages, time setting, holdover and loss (R379-R382). -/

namespace Sys2Proof.Timebase

open Sys2Proof Sys2Proof.Machine Sys2Proof.Laws Sys2Proof.Clauses

theorem toSigned_ofSigned {v : Int} (h : -1000 ≤ v) (h' : v ≤ 1000) : toSigned 32 (ofSigned 32 v) = v := by
  unfold toSigned ofSigned
  omega

theorem timeCfg_ne_offset : ecKey TIME_CFG ≠ ecKey TIME_OFFSET := by decide
theorem timeStat_ne_offset : ecKey TIME_STAT ≠ ecKey TIME_OFFSET := by decide

/-! ### A correction of the time -/

theorem setBand_fld (s : State) (b : Band) (k lo w : Nat) : (s.setBand b).fld k lo w = s.fld k lo w := rfl

theorem time_setTime (s : State) (t : Time) : (s.setTime t).time = t := rfl

theorem now_setTime (s : State) (t : Time) : (s.setTime t).now = s.now := rfl

theorem fld_setTime (s : State) (t : Time) (k lo w : Nat) : (s.setTime t).fld k lo w = s.fld k lo w := rfl

/-- The time stepped by an offset, the step counted, the windows that are over dropped. -/
def timeStepped (s : State) (off : Int) : State :=
  ((s.setTime { s.time with base := s.time.base - off }).incSat (ecKey TIME_STAT) 16 16 1).dropEnded

/-- An offset above 1 ms is stepped away, counted and recorded (R381). -/
theorem correct_steps (s : State) {off : Int} (since : Nat) (h : (1000000 : Int) < off ∨ off < -1000000) :
    s.correct off since = (timeStepped s off).timeRec 3 :=
  if_pos h

theorem fld_timeStepped (s : State) (off : Int) :
    (timeStepped s off).fld (ecKey TIME_STAT) 16 16 = min (s.fld (ecKey TIME_STAT) 16 16 + 1) 0xFFFF := by
  rw [timeStepped, State.dropEnded, setBand_fld, fld_incSat_same _ _ (by decide), fld_setTime, show (2 ^ 16 - 1) = 0xFFFF from rfl]

theorem err_timeStepped (s : State) (off : Int) : (timeStepped s off).err = s.err := rfl

theorem regsBut_timeStepped (s : State) (off : Int) : s.regsBut (timeStepped s off) [ecKey TIME_STAT, ecKey TIME_OFFSET] :=
  regsBut_setFld (regsBut_refl s _) (by simp) _ _ _

/-- A smaller one is slewed away, by at most one part in ten thousand. -/
theorem correct_slews (s : State) {off : Int} (since : Nat) (h : -1000000 ≤ off) (h' : off ≤ (1000000 : Int)) :
    ∃ b : Int, s.correct off since = s.setTime { s.time with base := b } ∧ 10000 * (b - s.time.base) ≤ since ∧
      10000 * (s.time.base - b) ≤ since := by
  refine ⟨_, if_neg (by omega), ?_, ?_⟩ <;> omega

/-! ### The second's edge -/

/-- The good edges in a row with the present one (R380). -/
def goodEdges (s : State) : Nat :=
  if s.time.lastPps ≠ 0 ∧ 999999900 ≤ s.now + 1 - s.time.lastPps ∧ s.now + 1 - s.time.lastPps ≤ 1000000100 then s.time.goodPps + 1 else 0

theorem pps_eq {s : State} {v : Nat} (ref : Bool) (hsrc : s.fld (ecKey TIME_CFG) 0 2 = 0) (hnext : s.time.next = some v) :
    ∃ since t, t = (s.setOffset (s.time.base + s.now - v)).correct (s.time.base + s.now - v) since ∧
      since ≤ s.now + 1 - s.time.lastPps ∧
      s.pps ref = t.setTime { t.time with
        known := true, next := none, goodPps := goodEdges s, lastPps := s.now + 1, refOk := s.time.refOk || ref
        state := if 4 ≤ goodEdges s then 2 else s.time.state } := by
  refine ⟨if s.time.lastPps = 0 then 0 else s.now + 1 - s.time.lastPps, _, rfl, by split <;> omega, ?_⟩
  simp [State.pps, State.edgeSecond, goodEdges, hsrc, hnext]

theorem pps_steps {s : State} {v : Nat} (ref : Bool) (hsrc : s.fld (ecKey TIME_CFG) 0 2 = 0) (hnext : s.time.next = some v)
    (hoff : (1000000 : Int) < s.time.base + s.now - v ∨ s.time.base + s.now - v < -1000000) :
    ∃ t, s.pps ref = t ∧ t.time.base + (t.now : Int) = v ∧ t.time.next = none ∧ t.time.known = true ∧
      t.fld (ecKey TIME_STAT) 16 16 = min (s.fld (ecKey TIME_STAT) 16 16 + 1) 0xFFFF ∧ s.logs t 0x79 (.engine 0) 3 ∧
      s.regsBut t [ecKey TIME_STAT, ecKey TIME_OFFSET] := by
  obtain ⟨since, t, ht, -, hpps⟩ := pps_eq ref hsrc hnext
  rw [correct_steps _ _ hoff] at ht
  have hfld : t.fld (ecKey TIME_STAT) 16 16 = min (s.fld (ecKey TIME_STAT) 16 16 + 1) 0xFFFF := by
    rw [ht, State.timeRec, raise_fld, fld_timeStepped, State.fld, State.setOffset, reg_setReg, if_neg timeStat_ne_offset]
    rfl
  have hbase : t.time.base = s.time.base - (s.time.base + s.now - v) := by rw [ht]; rfl
  have hnow : t.now = s.now := now_of_slot (by rw [ht]; rfl)
  have hlogs : s.logs t 0x79 (.engine 0) 3 := by
    rw [ht, State.timeRec]
    exact logs_raise (congrArg Err.recQ (err_timeStepped (s.setOffset _) _)) ..
  have hregs : s.regsBut t [ecKey TIME_STAT, ecKey TIME_OFFSET] := by
    rw [ht]
    exact regsBut_of_regs (regsBut_trans (regsBut_setReg (regsBut_refl s _) (by simp) _) (regsBut_timeStepped _ _)) rfl rfl
  refine ⟨_, hpps, ?_, rfl, rfl, by rw [fld_setTime, hfld], logs_of_err hlogs rfl, regsBut_of_regs hregs rfl rfl⟩
  rw [now_setTime, time_setTime, hnow, hbase]
  omega

theorem pps_locks {s : State} {v : Nat} (ref : Bool) (hsrc : s.fld (ecKey TIME_CFG) 0 2 = 0) (hnext : s.time.next = some v)
    (h0 : s.time.lastPps ≠ 0) (hle : s.time.base + s.now - v ≤ (1000000 : Int)) (hge : (-1000000 : Int) ≤ s.time.base + s.now - v)
    (hlo : s.time.lastPps + 999999899 ≤ s.now) (hhi : s.now ≤ s.time.lastPps + 1000000099) (hgood : 3 ≤ s.time.goodPps) :
    ∃ t, s.pps ref = t ∧ t.time.state = 2 ∧ t.time.next = none ∧ t.err = s.err ∧
      10000 * (t.time.base - s.time.base) ≤ (s.now + 1 - s.time.lastPps : Nat) ∧
      10000 * (s.time.base - t.time.base) ≤ (s.now + 1 - s.time.lastPps : Nat) ∧ s.regsBut t [ecKey TIME_OFFSET] := by
  obtain ⟨since, t, ht, hsince, hpps⟩ := pps_eq ref hsrc hnext
  obtain ⟨b, hb, hup, hdown⟩ := correct_slews (s.setOffset (s.time.base + s.now - v)) since hge hle
  have hedges : 4 ≤ goodEdges s := by
    rw [goodEdges, if_pos ⟨h0, by omega, by omega⟩]
    omega
  rw [hb] at ht
  subst ht
  have hbase : (s.setOffset (s.time.base + s.now - v)).time.base = s.time.base := rfl
  rw [hbase] at hup hdown
  refine ⟨_, hpps, if_pos hedges, rfl, rfl, ?_, ?_, regsBut_setReg (regsBut_refl s _) (List.mem_singleton_self _) _⟩
  · show 10000 * (b - s.time.base) ≤ _
    omega
  · show 10000 * (s.time.base - b) ≤ _
    omega

/-! ### Messages of the set domain -/

theorem sync_other {s : State} (off : Int) {domain : Nat} (l2 : Bool) (h : s.fld (ecKey TIME_CFG) 8 8 ≠ domain) : s.sync off domain l2 = s :=
  if_pos (.inr (.inl h))

theorem offset_shown (s : State) {off : Int} (hge : -1000 ≤ off) (hle : off ≤ 1000) :
    toSigned 32 ((s.setOffset off).fld (ecKey TIME_OFFSET) 0 32) = off := by
  have hlt : ofSigned 32 off < 2 ^ 32 := by
    unfold ofSigned
    omega
  rw [State.fld, State.setOffset, reg_setReg, if_pos rfl, Int.min_eq_right (by omega), Int.max_eq_right (by omega), BitVec.toNat_ofNat,
    Nat.mod_eq_of_lt (hlt.trans (by decide)), bits, Nat.pow_zero, Nat.div_one, Nat.mod_eq_of_lt hlt, toSigned_ofSigned hge hle]

theorem sync_locks {s : State} {off : Int} {l2 : Bool} (hsrc : s.fld (ecKey TIME_CFG) 0 2 = 1) (hl2 : s.fld (ecKey TIME_CFG) 2 1 = l2.toNat)
    (hge : -1000 ≤ off) (hle : off ≤ 1000) (hgood : 15 ≤ s.time.goodSync) :
    ∃ t, s.sync off (s.fld (ecKey TIME_CFG) 8 8) l2 = t ∧ t.time.state = 2 ∧ t.time.known = true ∧
      toSigned 32 (t.fld (ecKey TIME_OFFSET) 0 32) = off ∧ t.out = .delayReq l2 (s.fld (ecKey TIME_CFG) 8 8) :: s.out ∧
      t.err = s.err ∧ s.regsBut t [ecKey TIME_OFFSET] := by
  have hdo : ¬ (s.fld (ecKey TIME_CFG) 0 2 ≠ 1 ∨ s.fld (ecKey TIME_CFG) 8 8 ≠ s.fld (ecKey TIME_CFG) 8 8 ∨ s.fld (ecKey TIME_CFG) 2 1 ≠ l2.toNat) := by
    simp [hsrc, hl2]
  obtain ⟨b, hb, -, -⟩ := correct_slews ((s.emit (.delayReq l2 (s.fld (ecKey TIME_CFG) 8 8))).setOffset off)
    (if s.time.lastSync = 0 then 0 else s.now + 1 - s.time.lastSync) (show -1000000 ≤ off by omega) (by omega)
  refine ⟨_, if_neg hdo, ?_⟩
  rw [show ∀ o, (s.emit o).now = s.now from fun _ => rfl, hb]
  refine ⟨if_pos ?_, rfl, offset_shown _ hge hle, rfl, rfl, regsBut_setReg (regsBut_refl s _) (List.mem_singleton_self _) _⟩
  rw [if_pos ⟨hge, hle⟩]
  omega

/-! ### The source, holdover and loss -/

theorem timeSet_acts (s : State) (v : DWord) : ∃ t, s.timeSet v = t ∧ t.regs = s.regs ∧
    if v.toNat % 1000000000 ≠ 0 then t.time = s.time ∧ s.logs t 0x79 (.engine 0) 4
    else t.err = s.err ∧ t.time.next = if s.fld (ecKey TIME_CFG) 0 2 = 0 then some v.toNat else s.time.next := by
  refine ⟨_, rfl, ?_⟩
  unfold State.timeSet
  split
  · exact ⟨rfl, rfl, logs_raise rfl ..⟩
  · split
    · exact ⟨rfl, rfl, rfl⟩
    · exact ⟨rfl, rfl, rfl⟩

theorem timeSrc_acquires (s : State) {src : Nat} (h : src < 2) : ∃ t, s.timeSrc src = t ∧ t.fld (ecKey TIME_CFG) 0 2 = src ∧ t.time.state = 1 ∧
    s.regsBut t [ecKey TIME_CFG] ∧ t.fld (ecKey TIME_CFG) 16 8 = s.fld (ecKey TIME_CFG) 16 8 := by
  have hmin : min src 2 = src := Nat.min_eq_left (by omega)
  have h2 : ¬ src = 2 := by omega
  refine ⟨_, if_neg (by simp [hmin, h2]), ?_, ?_, regsBut_setFld (regsBut_refl s _) (List.mem_singleton_self _) _ _ _, ?_⟩
  · rw [fld_setTime, fld_setFld_same _ _ (by decide), hmin]
    omega
  · simp [State.setTime, hmin, h2]
  · rw [fld_setTime, fld_setFld_apart _ _ (by decide) (.inr (by decide))]

theorem timeSrc_none {s : State} (hknown : s.time.known = true) (h4 : s.time.state ≠ 4) :
    ∃ t, s.timeSrc 2 = t ∧ t.time.state = 4 ∧ t.band.windows = [] ∧ s.logs t 0x79 (.engine 0) 2 ∧ s.regsBut t [ecKey TIME_CFG] := by
  refine ⟨_, if_pos ⟨rfl, hknown, h4⟩, ?_, rfl, logs_raise (t := State.setBand _ _) rfl ..,
    regsBut_setFld (regsBut_refl s _) (List.mem_singleton_self _) _ _ _⟩
  show (if (2 : Nat) = 2 then if s.time.known = true then 4 else 0 else 1) = 4
  rw [if_pos rfl, if_pos hknown]

theorem toHoldover_holds {s : State} (h : s.time.state = 2) :
    ∃ t, s.toHoldover = t ∧ t.time.state = 3 ∧ t.time.holdSince = s.now ∧ t.time.base = s.time.base ∧ t.time.refOk = s.time.refOk ∧
      s.logs t 0x79 (.engine 0) 1 ∧ t.regs = s.regs :=
  ⟨_, if_pos h, rfl, rfl, rfl, rfl, logs_raise (t := State.setTime _ _) rfl .., rfl⟩

theorem refLoss_holds {s : State} (hsrc : s.fld (ecKey TIME_CFG) 0 2 = 0) (h : s.time.state = 2) :
    ∃ t, s.refLoss = t ∧ t.time.state = 3 ∧ t.time.refOk = false ∧ t.time.base = s.time.base ∧ s.logs t 0x79 (.engine 0) 1 ∧ t.regs = s.regs := by
  obtain ⟨t, ht, hstate, -, hbase, href, hlogs, hregs⟩ := toHoldover_holds (s := s.setTime { s.time with refOk := false }) h
  exact ⟨t, (if_pos hsrc).trans ht, hstate, href, hbase, hlogs, hregs⟩

theorem refSilent_of {s : State} (h : (s.fld (ecKey TIME_CFG) 0 2 = 0 ∧ s.time.lastPps + 1500000000 ≤ s.now) ∨
    (s.fld (ecKey TIME_CFG) 0 2 = 1 ∧ s.time.lastSync + 3000000000 ≤ s.now)) : s.refSilent = true := by
  unfold State.refSilent
  rcases h with ⟨hsrc, h⟩ | ⟨hsrc, h⟩ <;> simp [hsrc] <;> omega

theorem unsync_loses {s : State} (h3 : s.time.state = 3) (h : s.time.holdSince + s.fld (ecKey TIME_CFG) 16 8 * 1000000000 ≤ s.now) :
    ∃ t, s.unsync = t ∧ t.time.state = 4 ∧ t.band.windows = [] ∧ t.band.s = s.band.s ∧ s.logs t 0x79 (.engine 0) 2 ∧ t.regs = s.regs :=
  ⟨_, if_pos ⟨h3, h⟩, rfl, rfl, rfl, logs_raise (t := State.setBand _ _) rfl .., rfl⟩

/-- Settles O4, one lemma per reference event. -/
theorem timebaseIsDisciplined : Obligations.TimebaseIsDisciplined := by
  unfold Obligations.TimebaseIsDisciplined
  refine ⟨⟨?_, ?_, ?_, ?_, ?_, ?_, ?_⟩, ?_, ?_, ?_⟩
  · intro s v ref hsrc hnext hoff
    obtain ⟨t, ht, h⟩ := pps_steps ref hsrc hnext hoff
    exact ⟨t, next_congr ht, h⟩
  · intro s v ref hsrc hnext h0 hle hge hlo hhi hgood
    obtain ⟨t, ht, h⟩ := pps_locks ref hsrc hnext h0 hle hge hlo hhi hgood
    exact ⟨t, next_congr ht, h⟩
  · intro s off l2 hsrc hl2 hge hle hgood
    obtain ⟨t, ht, h⟩ := sync_locks hsrc hl2 hge hle hgood
    exact ⟨t, next_congr ht, h⟩
  · intro s off domain l2 h
    exact next_congr (sync_other off l2 h)
  · intro s v
    obtain ⟨t, ht, h⟩ := timeSet_acts s v
    exact ⟨t, next_congr ht, h⟩
  · intro s src hsrc
    obtain ⟨t, ht, h⟩ := timeSrc_acquires s hsrc
    exact ⟨t, next_congr ht, h⟩
  · intro s hknown h4
    obtain ⟨t, ht, h⟩ := timeSrc_none hknown h4
    exact ⟨t, next_congr ht, h⟩
  · intro s hsrc h2
    obtain ⟨t, ht, h⟩ := refLoss_holds hsrc h2
    exact ⟨t, next_congr ht, h⟩
  · intro s h2 hsilent
    obtain ⟨t, ht, hstate, hsince, hbase, -, hrest⟩ := toHoldover_holds h2
    exact ⟨t, next_congr ((if_pos (refSilent_of hsilent)).trans ht), hstate, hsince, hbase, hrest⟩
  · intro s h3 h
    obtain ⟨t, ht, h⟩ := unsync_loses h3 h
    exact ⟨t, next_congr ht, h⟩

end Sys2Proof.Timebase
end

section
/-! PROOFS. Register writes by access type and the word pairs of wide registers (R13, R14, R16). -/

namespace Sys2Proof.RegisterAccess

open Sys2Proof Sys2Proof.Machine Sys2Proof.Laws Sys2Proof.Clauses

/-! ### The row of a key -/

theorem keyUnit_cellKey (c : Nat) {o : Nat} (ho : o < 0x1000000) : keyUnit (cellKey c o) = 16 + c := by
  unfold keyUnit cellKey
  omega

theorem keyOff_cellKey (c : Nat) {o : Nat} (ho : o < 0x1000000) : keyOff (cellKey c o) = o := by
  unfold keyOff cellKey
  omega

theorem keyUnit_ecKey {o : Nat} (ho : o < 0x1000000) : keyUnit (ecKey o) = 0 := by
  unfold keyUnit ecKey
  omega

theorem keyOff_ecKey {o : Nat} (ho : o < 0x1000000) : keyOff (ecKey o) = o := by
  unfold keyOff ecKey
  omega

theorem rowAt_cellKey (p : Part) (c : Nat) {o : Nat} (ho : o < 0x1000000) : rowAt p (cellKey c o) = findRow cellRows o := by
  rw [rowAt, keyUnit_cellKey c ho, keyOff_cellKey c ho, if_neg (by omega), unitRows, if_neg (by omega), if_neg (by omega)]

theorem rowAt_ecKey (p : Part) {o : Nat} (ho : o < 0x1000000) : rowAt p (ecKey o) = findRow ecRows o := by
  rw [rowAt, keyUnit_ecKey ho, keyOff_ecKey ho, if_neg (by omega), unitRows, if_pos rfl]

theorem writeReg_cellKey (s : State) (req : Req) (c : Nat) {o : Nat} (ho : o < 0x1000000) (row : RegRow) (v ga : Nat) :
    s.writeReg req (cellKey c o) row v ga = s.cellWrite req c o row v ga := by
  rw [State.writeReg, keyUnit_cellKey c ho, keyOff_cellKey c ho, if_neg (by omega), if_neg (by omega), Nat.add_sub_cancel_left]

theorem writeReg_ecKey (s : State) (req : Req) {o : Nat} (ho : o < 0x1000000) (row : RegRow) (v ga : Nat) :
    s.writeReg req (ecKey o) row v ga = (s.engWrite o row v ga, true) := by
  rw [State.writeReg, keyUnit_ecKey ho, keyOff_ecKey ho, if_pos rfl]

/-! ### A write that its access type decides -/

/-- A 32-bit write of a narrow register. -/
theorem ctlWrite_narrow {s : State} {k : Nat} {row : RegRow} (req : Req) (v : DWord) (ga : Nat) (hrow : rowAt s.part k = some (row, false))
    (hw : row.wide = false) : s.ctlWrite req k false v ga = (s.dropPend req (keyBlock k)).writeReg req k row (v.toNat % 2 ^ 32) ga := by
  simp [State.ctlWrite, hrow, hw]

/-- A 64-bit write of a wide register. -/
theorem ctlWrite_wide {s : State} {k : Nat} {row : RegRow} (req : Req) (v : DWord) (ga : Nat) (hrow : rowAt s.part k = some (row, false))
    (hw : row.wide = true) : s.ctlWrite req k true v ga = (s.dropPend req (keyBlock k)).writeReg req k row v.toNat ga := by
  simp [State.ctlWrite, hrow, hw]

theorem regWrite_eq {s : State} {ga k : Nat} (req : Req) (wide : Bool) (v : DWord) (h : State.ctlKey (s.target ga) = some k) :
    s.regWrite req ga wide v = (s.ctlWrite req k wide v ga).1.answer req (if (s.ctlWrite req k wide v ga).2 then .done else .busError) := by
  simp [State.regWrite, h]

theorem mem_resp_answer (s : State) (req : Req) (r : Resp) : (req, r) ∈ (s.answer req r).resp := List.mem_cons_self

theorem reg_answer (s : State) (req : Req) (r : Resp) (k : Nat) : (s.answer req r).reg k = s.reg k := rfl

theorem reg_dropPend (s : State) (req : Req) (b k : Nat) : (s.dropPend req b).reg k = s.reg k := rfl

theorem reg_noteWrite (s : State) (k j : Nat) : (s.noteWrite k).reg j = s.reg j := by
  unfold State.noteWrite
  split <;> rfl

theorem err_noteWrite (s : State) (k : Nat) : (s.noteWrite k).err = s.err := by
  unfold State.noteWrite
  split <;> rfl

/-- A plain write of a cell's register, once its command has been told from the registers that act. -/
theorem regWrite_cell {s : State} {ga c o : Nat} {row : RegRow} (req : Req) (v : DWord) (ho : o < 0x1000000)
    (hk : State.ctlKey (s.target ga) = some (cellKey c o)) (hrow : findRow cellRows o = some (row, false))
    (hplain : ∀ (t : State) (n : Nat), t.cellWrite req c o row n ga = (t.storeReg (cellKey c o) row n ga, true)) :
    s.regWrite req ga row.wide v =
      ((s.dropPend req (keyBlock (cellKey c o))).storeReg (cellKey c o) row (if row.wide then v.toNat else v.toNat % 2 ^ 32) ga).answer req .done := by
  have hrow' : rowAt s.part (cellKey c o) = some (row, false) := (rowAt_cellKey _ c ho).trans hrow
  rw [regWrite_eq req _ v hk]
  cases hw : row.wide
  case false =>
    rw [ctlWrite_narrow req v ga hrow' hw, writeReg_cellKey _ _ c ho, hplain]
    rfl
  case true =>
    rw [ctlWrite_wide req v ga hrow' hw, writeReg_cellKey _ _ c ho, hplain]
    rfl

/-! ### What a store leaves -/

theorem fld_full {v : DWord} {w : Nat} (h : v.toNat < 2 ^ w) : bits v.toNat 0 w = v.toNat := by
  rw [bits, Nat.pow_zero, Nat.div_one, Nat.mod_eq_of_lt h]

/-- A register that is one RW field from bit 0 takes the value. -/
theorem regAfter_rw (off : Nat) {w : Nat} (stride count : Nat) (wide lock : Bool) (rst old v : Nat)
    (hclamp : clampField 2 off 0 (bits v 0 w) = bits v 0 w) :
    regAfter 2 ⟨off, stride, count, wide, [⟨0, w, .rw, rst⟩]⟩ lock old v = v % 2 ^ w := by
  simp only [regAfter, fieldAfter, alignBits, List.map_cons, List.map_nil, List.sum_singleton, hclamp]
  simp [bits]

theorem storeReg_rw (s : State) {k off w : Nat} (stride count : Nat) (wide : Bool) (rst v ga : Nat) (hk : keyKind k = 2)
    (hclamp : clampField 2 off 0 (bits v 0 w) = bits v 0 w) :
    s.storeReg k ⟨off, stride, count, wide, [⟨0, w, .rw, rst⟩]⟩ v ga = (s.noteWrite k).setReg k (BitVec.ofNat 64 (v % 2 ^ w)) := by
  simp [State.storeReg, hk, regAfter_rw off stride count wide _ rst _ v hclamp]

/-- One that is one RO field from bit 0, and holds no more, is as before. -/
theorem storeReg_ro (s : State) {k off w : Nat} (stride count : Nat) (wide : Bool) (rst v ga : Nat) (hk : keyKind k = 2)
    (h : (s.reg k).toNat < 2 ^ w) :
    s.storeReg k ⟨off, stride, count, wide, [⟨0, w, .ro, rst⟩]⟩ v ga = s.setReg k (s.reg k) := by
  simp [State.storeReg, hk, regAfter, fieldAfter, alignBits, fld_full h, Nat.mod_eq_of_lt h]

theorem storeReg_rwl (s : State) {k off w : Nat} (rst v ga : Nat) (hk : keyKind k = 0) (h : (s.reg k).toNat < 2 ^ w) :
    s.storeReg k ⟨off, 0, 1, false, [⟨0, w, .rwl, rst⟩]⟩ v ga =
      if s.locked? then ((s.noteWrite k).setReg k (s.reg k)).lockedWrite k ga else (s.noteWrite k).setReg k (BitVec.ofNat 64 (v % 2 ^ w)) := by
  cases hl : s.locked?
  case false => simp [State.storeReg, hk, regAfter, fieldAfter, alignBits, hl, bits]
  case true => simp [State.storeReg, hk, regAfter, fieldAfter, alignBits, hl, fld_full h, Nat.mod_eq_of_lt h]

/-! ### The bits that hardware sets in the slot of a write (R16) -/

/-- Bit `b` set again where hardware has set it. -/
def setAgain (set : Nat → Bool) (n b : Nat) : Nat := if set b && !bit n b then n + 2 ^ b else n

theorem setAgain_eq (set : Nat → Bool) : setAgain set = fun n b => if set b && !bit n b then n + 2 ^ b else n := rfl

theorem bit_eq_testBit (n b : Nat) : bit n b = n.testBit b := by
  rw [bit, Nat.testBit_eq_decide_div_mod_eq]
  rfl

theorem testBit_add_two_pow {n b : Nat} (h : n.testBit b = false) (j : Nat) : (n + 2 ^ b).testBit j = (n.testBit j || decide (j = b)) := by
  have hlow : n % 2 ^ b < 2 ^ b := Nat.mod_lt _ (Nat.two_pow_pos b)
  have hn : n = 2 ^ b * (n / 2 ^ b) + n % 2 ^ b := (Nat.div_add_mod ..).symm
  have hsum : n + 2 ^ b = 2 ^ b * (n / 2 ^ b + 1) + n % 2 ^ b := by
    rw [Nat.mul_add, Nat.mul_one]
    omega
  have heven : n / 2 ^ b % 2 = 0 := by
    rw [Nat.testBit_eq_decide_div_mod_eq, decide_eq_false_iff_not] at h
    omega
  rw [hsum, Nat.testBit_two_pow_mul_add _ hlow]
  conv_rhs => rw [hn, Nat.testBit_two_pow_mul_add _ hlow]
  generalize n / 2 ^ b = q at heven
  rcases Nat.lt_trichotomy j b with hj | rfl | hj
  · simp [hj, Nat.ne_of_lt hj]
  · simp [Nat.testBit_zero]
    omega
  · obtain ⟨i, rfl⟩ := Nat.exists_eq_add_of_lt hj
    rw [if_neg (by omega), if_neg (by omega), show b + i + 1 - b = i + 1 by omega, Nat.testBit_add_one, Nat.testBit_add_one,
      show (q + 1) / 2 = q / 2 by omega]
    simp
    omega

theorem testBit_setAgain (set : Nat → Bool) (n b j : Nat) : (setAgain set n b).testBit j = (n.testBit j || (decide (j = b) && set b)) := by
  unfold setAgain
  rw [bit_eq_testBit]
  cases hset : set b <;> cases hb : n.testBit b
  case true.false => simp [testBit_add_two_pow hb]
  case true.true =>
    by_cases hj : j = b
    · simp [hj, hb]
    · simp [hj]
  all_goals simp

theorem testBit_foldl_setAgain (set : Nat → Bool) (n m j : Nat) :
    ((List.range m).foldl (setAgain set) n).testBit j = (n.testBit j || (decide (j < m) && set j)) := by
  induction m with
  | zero => simp
  | succ m ih =>
    rw [List.range_succ, List.foldl_append, List.foldl_cons, List.foldl_nil, testBit_setAgain, ih]
    by_cases hj : j = m
    · simp [hj]
    · simp [hj, show (j < m + 1) = (j < m) by rw [eq_iff_iff]; omega]

theorem storeReg_w1c (s : State) {k off w : Nat} (rst v ga : Nat) (hk : keyKind k = 2) :
    s.storeReg k ⟨off, 0, 1, false, [⟨0, w, .w1c, rst⟩]⟩ v ga =
      s.setReg k (BitVec.ofNat 64 ((List.range 64).foldl (setAgain fun b => s.w1cSet.contains (k, b))
        ((bits (s.reg k).toNat 0 w ^^^ (bits (s.reg k).toNat 0 w &&& bits v 0 w)) % 2 ^ w))) := by
  simp [State.storeReg, hk, regAfter, fieldAfter, alignBits, setAgain_eq]

theorem fld_one_iff (v : DWord) {n : Nat} : bits v.toNat n 1 = 1 ↔ v.toNat.testBit n = true := by
  rw [bits, Nat.testBit_eq_decide_div_mod_eq, decide_eq_true_iff, Nat.pow_one]

/-! ### The clauses of a write by access type -/

theorem regsBut_answer {s t : State} {ks : List Nat} (h : s.regsBut t ks) (req : Req) (r : Resp) : s.regsBut (t.answer req r) ks :=
  regsBut_of_regs h rfl rfl

theorem write_descriptor {s : State} {ga : GAddr} {c i : Nat} (req : Req) (v : DWord) (hi : i < 8)
    (hk : State.ctlKey (s.target ga.toNat) = some (cellKey c (MXE_DESC + 4 * i))) :
    ∃ t, s.regWrite req ga.toNat false v = t ∧ (t.reg (cellKey c (MXE_DESC + 4 * i))).toNat = v.toNat % 2 ^ 32 ∧
      s.regsBut t [cellKey c (MXE_DESC + 4 * i)] ∧ (req, .done) ∈ t.resp ∧ t.err = s.err := by
  have ho : MXE_DESC + 4 * i < 0x1000000 := by unfold MXE_DESC; omega
  have hrow : findRow cellRows (MXE_DESC + 4 * i) = some (⟨MXE_DESC, 4, 8, false, [⟨0, 32, .rw, 0⟩]⟩, false) := by
    interval_cases i <;> rfl
  have hplain (t : State) (n : Nat) : t.cellWrite req c (MXE_DESC + 4 * i) ⟨MXE_DESC, 4, 8, false, [⟨0, 32, .rw, 0⟩]⟩ n ga.toNat =
      (t.storeReg (cellKey c (MXE_DESC + 4 * i)) ⟨MXE_DESC, 4, 8, false, [⟨0, 32, .rw, 0⟩]⟩ n ga.toNat, true) := by
    interval_cases i <;> rfl
  have hkind : keyKind (cellKey c (MXE_DESC + 4 * i)) = 2 := by
    rw [keyKind, keyUnit_cellKey c ho, if_neg (by omega), if_neg (by omega)]
  refine ⟨_, regWrite_cell req v ho hk hrow hplain, ?_⟩
  rw [storeReg_rw _ 4 8 false 0 _ _ hkind rfl]
  refine ⟨?_, regsBut_answer (regsBut_setReg (fun k _ => reg_noteWrite ..) (List.mem_singleton_self _) _) _ _, mem_resp_answer .., err_noteWrite ..⟩
  rw [reg_answer, reg_setReg, if_pos rfl, BitVec.toNat_ofNat]
  simp only [Bool.false_eq_true, if_false]
  omega

theorem write_seed {s : State} {ga : GAddr} {c : Nat} (req : Req) (v : DWord)
    (hk : State.ctlKey (s.target ga.toNat) = some (cellKey c MXE_SR_SEED)) :
    ∃ t, s.regWrite req ga.toNat true v = t ∧ t.reg (cellKey c MXE_SR_SEED) = v ∧
      s.regsBut t [cellKey c MXE_SR_SEED] ∧ (req, .done) ∈ t.resp ∧ t.err = s.err := by
  have hkind : keyKind (cellKey c MXE_SR_SEED) = 2 := by
    rw [keyKind, keyUnit_cellKey c (by decide), if_neg (by omega), if_neg (by omega)]
  refine ⟨_, regWrite_cell (o := MXE_SR_SEED) (row := ⟨MXE_SR_SEED, 0, 1, true, [⟨0, 64, .rw, 0⟩]⟩) req v (by decide) hk rfl fun _ _ => rfl, ?_⟩
  rw [storeReg_rw _ 0 1 true 0 _ _ hkind rfl]
  refine ⟨?_, regsBut_answer (regsBut_setReg (fun k _ => reg_noteWrite ..) (List.mem_singleton_self _) _) _ _, mem_resp_answer .., err_noteWrite ..⟩
  rw [reg_answer, reg_setReg, if_pos rfl, if_pos rfl, Nat.mod_eq_of_lt v.isLt, BitVec.ofNat_toNat, BitVec.setWidth_eq]

theorem write_passDone {s : State} {ga : GAddr} {c : Nat} (req : Req) (v : DWord)
    (hk : State.ctlKey (s.target ga.toNat) = some (cellKey c MXE_PASS_DONE)) (h : (s.reg (cellKey c MXE_PASS_DONE)).toNat < 2 ^ 32) :
    ∃ t, s.regWrite req ga.toNat false v = t ∧ (∀ k, t.reg k = s.reg k) ∧ (req, .done) ∈ t.resp ∧ t.err = s.err := by
  have hkind : keyKind (cellKey c MXE_PASS_DONE) = 2 := by
    rw [keyKind, keyUnit_cellKey c (by decide), if_neg (by omega), if_neg (by omega)]
  refine ⟨_, regWrite_cell (o := MXE_PASS_DONE) (row := ⟨MXE_PASS_DONE, 0, 1, false, [⟨0, 32, .ro, 0⟩]⟩) req v (by decide) hk rfl fun _ _ => rfl, ?_⟩
  rw [storeReg_ro (s.dropPend req _) 0 1 false 0 _ _ hkind h]
  refine ⟨fun k => ?_, mem_resp_answer .., rfl⟩
  rw [reg_answer, reg_setReg]
  split
  · rename_i hk
    rw [hk, reg_dropPend]
  · rfl

theorem write_saturated {s : State} {ga : GAddr} {c n : Nat} (req : Req) (v : DWord)
    (hk : State.ctlKey (s.target ga.toNat) = some (cellKey c SYNC_SAT_LO)) (hn : n < 32) :
    ∃ t, s.regWrite req ga.toNat false v = t ∧
      (t.fld (cellKey c SYNC_SAT_LO) n 1 = 1 ↔
        (s.fld (cellKey c SYNC_SAT_LO) n 1 = 1 ∧ bits v.toNat n 1 = 0) ∨ s.w1cSet.contains (cellKey c SYNC_SAT_LO, n) = true) ∧
      s.regsBut t [cellKey c SYNC_SAT_LO] ∧ (req, .done) ∈ t.resp := by
  have hkind : keyKind (cellKey c SYNC_SAT_LO) = 2 := by
    rw [keyKind, keyUnit_cellKey c (by decide), if_neg (by omega), if_neg (by omega)]
  refine ⟨_, regWrite_cell (o := SYNC_SAT_LO) (row := ⟨SYNC_SAT_LO, 0, 1, false, [⟨0, 32, .w1c, 0⟩]⟩) req v (by decide) hk rfl fun _ _ => rfl, ?_⟩
  rw [storeReg_w1c _ 0 _ _ hkind]
  refine ⟨?_, regsBut_answer (regsBut_setReg (fun k _ => reg_dropPend ..) (List.mem_singleton_self _) _) _ _, mem_resp_answer ..⟩
  have hbits (x m : Nat) (hm : m < 32) : (bits x 0 32).testBit m = x.testBit m := by
    rw [bits, Nat.pow_zero, Nat.div_one, Nat.testBit_mod_two_pow, decide_eq_true hm, Bool.true_and]
  have hv : bits v.toNat n 1 = 0 ↔ v.toNat.testBit n = false := by
    rw [bits, Nat.testBit_eq_decide_div_mod_eq, decide_eq_false_iff_not]
    omega
  rw [State.fld, reg_answer, reg_setReg, if_pos rfl, fld_one_iff, State.fld, fld_one_iff, hv, BitVec.toNat_ofNat, Nat.testBit_mod_two_pow,
    testBit_foldl_setAgain, Nat.testBit_mod_two_pow, Nat.testBit_xor, Nat.testBit_and, hbits _ n hn, hbits _ n hn, reg_dropPend]
  have hsmall : (v.toNat % 2 ^ 32).testBit n = v.toNat.testBit n := by
    rw [Nat.testBit_mod_two_pow, decide_eq_true hn, Bool.true_and]
  simp only [Bool.false_eq_true, if_false, hsmall, show n < 64 by omega, hn, decide_true, Bool.true_and, Bool.or_eq_true]
  cases (s.reg (cellKey c SYNC_SAT_LO)).toNat.testBit n <;> cases v.toNat.testBit n <;> simp <;> rfl

theorem write_orphan {s : State} {ga : GAddr} (req : Req) (v : DWord)
    (hk : State.ctlKey (s.target ga.toNat) = some (ecKey RAMP_ORPHAN)) (h : (s.reg (ecKey RAMP_ORPHAN)).toNat < 2 ^ 24) :
    ∃ t, s.regWrite req ga.toNat false v = t ∧ s.regsBut t [ecKey RAMP_ORPHAN] ∧ (req, .done) ∈ t.resp ∧
      if s.fld (ecKey BOOT_STAT) 5 1 = 1 then
        t.reg (ecKey RAMP_ORPHAN) = s.reg (ecKey RAMP_ORPHAN) ∧ s.logs t 0x87 (.engine 0) (1 + ga.toNat * 2 ^ 16)
      else (t.reg (ecKey RAMP_ORPHAN)).toNat = v.toNat % 2 ^ 24 ∧ t.err = s.err := by
  have hrow : rowAt s.part (ecKey RAMP_ORPHAN) = some (⟨RAMP_ORPHAN, 0, 1, false, [⟨0, 24, .rwl, 0⟩]⟩, false) :=
    (rowAt_ecKey _ (by decide)).trans rfl
  have hkind : keyKind (ecKey RAMP_ORPHAN) = 0 := rfl
  have hstore := storeReg_rwl (s.dropPend req (keyBlock (ecKey RAMP_ORPHAN))) (off := RAMP_ORPHAN) 0 (v.toNat % 2 ^ 32) ga.toNat hkind h
  refine ⟨_, regWrite_eq req false v hk, ?_⟩
  rw [ctlWrite_narrow req v _ hrow rfl, writeReg_ecKey _ _ (by decide),
    show ∀ (t : State) (row : RegRow) (n g : Nat), t.engWrite RAMP_ORPHAN row n g = t.storeReg (ecKey RAMP_ORPHAN) row n g from fun _ _ _ _ => rfl,
    hstore]
  have hnote (x : DWord) : s.regsBut (((s.dropPend req (keyBlock (ecKey RAMP_ORPHAN))).noteWrite (ecKey RAMP_ORPHAN)).setReg (ecKey RAMP_ORPHAN) x)
      [ecKey RAMP_ORPHAN] := regsBut_setReg (fun k _ => reg_noteWrite ..) (List.mem_singleton_self _) _
  have herr (x : DWord) : (((s.dropPend req (keyBlock (ecKey RAMP_ORPHAN))).noteWrite (ecKey RAMP_ORPHAN)).setReg (ecKey RAMP_ORPHAN) x).err = s.err :=
    err_noteWrite ..
  by_cases hl : s.fld (ecKey BOOT_STAT) 5 1 = 1
  · rw [if_pos (show (s.dropPend req (keyBlock (ecKey RAMP_ORPHAN))).locked? = true from beq_iff_eq.2 hl), if_pos hl]
    refine ⟨regsBut_of_regs (hnote _) rfl rfl, mem_resp_answer .., ?_, ?_⟩
    · rw [reg_answer, State.lockedWrite, raise_reg, reg_setReg, if_pos rfl, reg_dropPend]
    · have hga : ga.toNat % 2 ^ 48 = ga.toNat := Nat.mod_eq_of_lt ga.isLt
      rw [State.lockedWrite, hga, show State.keyLoc (ecKey RAMP_ORPHAN) = .engine 0 from rfl]
      exact logs_of_err (logs_raise (congrArg Err.recQ (herr (s.reg (ecKey RAMP_ORPHAN)))) 0x87 (.engine 0) (1 + ga.toNat * 2 ^ 16) none) rfl
  · rw [if_neg (show ¬ (s.dropPend req (keyBlock (ecKey RAMP_ORPHAN))).locked? = true from fun e => hl (beq_iff_eq.1 e)), if_neg hl]
    refine ⟨regsBut_of_regs (hnote _) rfl rfl, mem_resp_answer .., ?_, herr (BitVec.ofNat 64 (v.toNat % 2 ^ 32 % 2 ^ 24))⟩
    rw [reg_answer, reg_setReg, if_pos rfl, BitVec.toNat_ofNat]
    omega

/-- Settles O5, one lemma per access type. -/
theorem registerWriteByAccessType : Obligations.RegisterWriteByAccessType := by
  unfold Obligations.RegisterWriteByAccessType
  refine ⟨?_, ?_, ?_, ?_, ?_⟩
  · intro s req ga c i v hi hk
    obtain ⟨t, ht, h⟩ := write_descriptor req v hi hk
    exact ⟨t, next_congr ht, h⟩
  · intro s req ga c v hk
    obtain ⟨t, ht, h⟩ := write_seed req v hk
    exact ⟨t, next_congr ht, h⟩
  · intro s req ga c v hk hv
    obtain ⟨t, ht, h⟩ := write_passDone req v hk hv
    exact ⟨t, next_congr ht, h⟩
  · intro s req ga c n v hk hn
    obtain ⟨t, ht, h⟩ := write_saturated req v hk hn
    exact ⟨t, next_congr ht, h⟩
  · intro s req ga v hk hv
    obtain ⟨t, ht, h⟩ := write_orphan req v hk hv
    exact ⟨t, next_congr ht, h⟩

end Sys2Proof.RegisterAccess
end

section
/-! PROOFS. The halves of a wide register, read and written one after the other (R13). -/

namespace Sys2Proof.WordPairs

open Sys2Proof Sys2Proof.Machine Sys2Proof.Laws Sys2Proof.Clauses Sys2Proof.RegisterAccess

/-! ### What is pending for a requester -/

theorem find?_filter_same {α : Type} (l : List α) (p : α → Bool) : (l.filter fun a => !p a).find? p = none := by
  rw [List.find?_eq_none]
  intro a ha
  simpa using (List.mem_filter.1 ha).2

theorem find?_filter_apart {α : Type} (l : List α) {p q : α → Bool} (h : ∀ a, q a = true → p a = false) :
    (l.filter fun a => !p a).find? q = l.find? q := by
  induction l with
  | nil => rfl
  | cons a l ih =>
    cases hq : q a
    case true => simp [h a hq, hq]
    case false =>
      rw [List.find?_cons_of_neg (by simp [hq]), List.filter_cons]
      split
      · rw [List.find?_cons_of_neg (by simp [hq]), ih]
      · exact ih

theorem pendOf_eq (s : State) (req : Req) (b : Nat) :
    s.pendOf req b = (s.pend13.find? fun p => decide (p.1 = req) && p.2.1 == b).map fun p => p.2.2 := by
  unfold State.pendOf
  cases s.pend13.find? fun p => decide (p.1 = req) && p.2.1 == b <;> rfl

theorem pendOf_dropPend_same (s : State) (req : Req) (b : Nat) : (s.dropPend req b).pendOf req b = none := by
  rw [pendOf_eq, State.dropPend, find?_filter_same]
  rfl

theorem pendOf_dropPend_other (s : State) {req q : Req} {b d : Nat} (h : q ≠ req ∨ d ≠ b) : (s.dropPend req b).pendOf q d = s.pendOf q d := by
  rw [pendOf_eq, pendOf_eq, State.dropPend, find?_filter_apart]
  rintro ⟨r, e, x⟩ hm
  simp only [Bool.and_eq_true, decide_eq_true_eq, beq_iff_eq] at hm
  obtain ⟨rfl, rfl⟩ := hm
  rcases h with h | h <;> simp [h]

theorem pendOf_setPend_same (s : State) (req : Req) (b : Nat) (x : Pend) : (s.setPend req b x).pendOf req b = some x := by
  simp [pendOf_eq, State.setPend]

theorem pendOf_setPend_other (s : State) {req q : Req} {b d : Nat} (x : Pend) (h : q ≠ req ∨ d ≠ b) :
    (s.setPend req b x).pendOf q d = s.pendOf q d := by
  rw [← pendOf_dropPend_other s h, pendOf_eq, pendOf_eq, State.setPend, List.find?_cons_of_neg]
  rcases h with h | h
  · simp [Ne.symm h]
  · simp [Ne.symm h]

theorem pend13_noteWrite (s : State) (k : Nat) : (s.noteWrite k).pend13 = s.pend13 := by
  unfold State.noteWrite
  split <;> rfl

theorem err_answer (s : State) (req : Req) (r : Resp) : (s.answer req r).err = s.err := rfl

theorem err_dropPend (s : State) (req : Req) (b : Nat) : (s.dropPend req b).err = s.err := rfl

theorem pendOf_answer (s : State) (req q : Req) (r : Resp) (b : Nat) : (s.answer req r).pendOf q b = s.pendOf q b := rfl

/-! ### The low word -/

section
variable {s : State} {k : Nat} {row : RegRow} {ga : Nat} (req : Req)

theorem regRead_low (hk : State.ctlKey (s.target ga) = some k) (hrow : rowAt s.part k = some (row, false)) (hw : row.wide = true) :
    s.regRead req ga false = ((s.dropPend req (keyBlock k)).setPend req (keyBlock k) (.latch k ((s.regShows k >>> 32).setWidth 32))).answer req
      (.value (((s.regShows k).setWidth 32).setWidth 64) false) := by
  simp [State.regRead, hk, State.ctlRead, hrow, hw]

theorem regRead_high (hk : State.ctlKey (s.target ga) = some (k + 4)) (hrow : rowAt s.part (k + 4) = some (row, true)) (hw : row.wide = true) :
    s.regRead req ga false = (s.dropPend req (keyBlock (k + 4))).answer req (.value (match s.pendOf req (keyBlock (k + 4)) with
      | some (.latch key w) => if key = k then w.setWidth 64 else s.regShows k >>> 32
      | _ => s.regShows k >>> 32) false) := by
  simp only [State.regRead, hk, State.ctlRead, hrow, hw]
  rcases s.pendOf req (keyBlock (k + 4)) with _ | ⟨key, w⟩ | ⟨key, w⟩ <;> simp

theorem regWrite_low (v : Word) (hk : State.ctlKey (s.target ga) = some k) (hrow : rowAt s.part k = some (row, false)) (hw : row.wide = true) :
    s.regWrite req ga false (v.setWidth 64) =
      ((s.dropPend req (keyBlock k)).setPend req (keyBlock k) (.low k v)).answer req .done := by
  simp [State.regWrite, hk, State.ctlWrite, hrow, hw]

end

/-! ### The high word of the seed -/

theorem keyBlock_seed (c : Nat) : keyBlock (cellKey c (MXE_SR_SEED + 4)) = keyBlock (cellKey c MXE_SR_SEED) := by
  rw [keyBlock, keyBlock, keyUnit_cellKey c (by decide), keyUnit_cellKey c (by decide), if_neg (by omega), if_neg (by omega)]
  unfold cellKey MXE_SR_SEED
  omega

theorem seed_high (c : Nat) : cellKey c MXE_SR_SEED + 4 = cellKey c (MXE_SR_SEED + 4) := by
  unfold cellKey
  omega

theorem rowAt_seedHigh (p : Part) (c : Nat) :
    rowAt p (cellKey c (MXE_SR_SEED + 4)) = some (⟨MXE_SR_SEED, 0, 1, true, [⟨0, 64, .rw, 0⟩]⟩, true) :=
  (rowAt_cellKey p c (by decide)).trans rfl

theorem clampField_seed (v : Nat) : clampField 2 MXE_SR_SEED 0 v = v := rfl

theorem cellWrite_seed (s : State) (req : Req) (c : Nat) (row : RegRow) (n ga : Nat) :
    s.cellWrite req c MXE_SR_SEED row n ga = (s.storeReg (cellKey c MXE_SR_SEED) row n ga, true) := rfl

section
variable {s : State} {c ga : Nat} (req : Req) (v : Word)

/-- The two words are stored as one (R13). -/
theorem regWrite_seedPair {w : Word} (hk : State.ctlKey (s.target ga) = some (cellKey c (MXE_SR_SEED + 4)))
    (hp : s.pendOf req (keyBlock (cellKey c MXE_SR_SEED)) = some (.low (cellKey c MXE_SR_SEED) w)) :
    s.regWrite req ga false (v.setWidth 64) =
      (((s.dropPend req (keyBlock (cellKey c MXE_SR_SEED))).noteWrite (cellKey c MXE_SR_SEED)).setReg (cellKey c MXE_SR_SEED)
        (BitVec.ofNat 64 (w.toNat + v.toNat * 2 ^ 32))).answer req .done := by
  have hkind : keyKind (cellKey c MXE_SR_SEED) = 2 := by
    rw [keyKind, keyUnit_cellKey c (by decide), if_neg (by omega), if_neg (by omega)]
  have hv : (v.setWidth 64).toNat % 2 ^ 32 = v.toNat := by
    rw [BitVec.toNat_setWidth]
    omega
  have hstore := storeReg_rw (s.dropPend req (keyBlock (cellKey c MXE_SR_SEED))) (k := cellKey c MXE_SR_SEED) (off := MXE_SR_SEED) (w := 64) 0 1 true 0
    (w.toNat + v.toNat * 2 ^ 32) ga hkind (clampField_seed _)
  rw [Nat.mod_eq_of_lt (by omega)] at hstore
  rw [regWrite_eq req false _ hk, ← hstore]
  simp only [State.ctlWrite, keyBlock_seed, hp, rowAt_seedHigh, seed_high, if_true, Bool.false_eq_true, if_false, hv,
    writeReg_cellKey _ req c (show MXE_SR_SEED < 0x1000000 by decide), cellWrite_seed]

theorem regWrite_seedAlone (hk : State.ctlKey (s.target ga) = some (cellKey c (MXE_SR_SEED + 4)))
    (hp : s.pendOf req (keyBlock (cellKey c MXE_SR_SEED)) = none) :
    s.regWrite req ga false (v.setWidth 64) =
      ((s.dropPend req (keyBlock (cellKey c MXE_SR_SEED))).ctlRefuse req (cellKey c (MXE_SR_SEED + 4)) ga).answer req .busError := by
  have hsubmit : State.submitKey (cellKey c (MXE_SR_SEED + 4)) = none := by
    rw [State.submitKey, keyUnit_cellKey c (by decide), if_neg (by omega)]
  rw [regWrite_eq req false _ hk]
  simp [State.ctlWrite, keyBlock_seed, hp, rowAt_seedHigh, hsubmit]

end

/-! ### The refusal -/

theorem reg_ctlRefuse_cell (s : State) (req : Req) (c : Nat) {o j : Nat} (ga : Nat) (ho : o < 0x1000000)
    (hlast : j ≠ cellKey c RTR_ERR_LAST) (hhost : ∀ p, j ≠ State.pcieKey p PCIE_HOST_ADDR) : (s.ctlRefuse req (cellKey c o) ga).reg j = s.reg j := by
  have hloc : State.keyLoc (cellKey c o) = .cell c 0 := by
    rw [State.keyLoc, keyUnit_cellKey c ho, if_neg (by omega), if_neg (by omega), Nat.add_sub_cancel_left]
  unfold State.ctlRefuse
  split
  · rw [State.hostRefuse, raise_reg, reg_setReg, if_neg (hhost _)]
  · simp only [hloc, State.rtrLast]
    rw [reg_setReg, if_neg hlast, raise_reg]

theorem seed_ne_hostAddr (c p : Nat) : cellKey c MXE_SR_SEED ≠ State.pcieKey p PCIE_HOST_ADDR := by
  unfold cellKey State.pcieKey dieKey portDie MXE_SR_SEED PCIE_HOST_ADDR
  split <;> omega

theorem seed_ne_last (c : Nat) : cellKey c MXE_SR_SEED ≠ cellKey c RTR_ERR_LAST := by
  unfold cellKey MXE_SR_SEED RTR_ERR_LAST
  omega

theorem seedPair_acts {s : State} {c ga : Nat} (req : Req) (v w : Word) (hk : State.ctlKey (s.target ga) = some (cellKey c (MXE_SR_SEED + 4)))
    (hp : s.pendOf req (keyBlock (cellKey c MXE_SR_SEED)) = some (.low (cellKey c MXE_SR_SEED) w)) :
    ∃ t, s.regWrite req ga false (v.setWidth 64) = t ∧
      (t.reg (cellKey c MXE_SR_SEED)).toNat = w.toNat + v.toNat * 2 ^ 32 ∧ s.regsBut t [cellKey c MXE_SR_SEED] ∧
      t.pendOf req (keyBlock (cellKey c MXE_SR_SEED)) = none ∧ (req, .done) ∈ t.resp ∧ t.err = s.err := by
  have hlt : w.toNat + v.toNat * 2 ^ 32 < 2 ^ 64 := by omega
  generalize hx : w.toNat + v.toNat * 2 ^ 32 = x at hlt
  refine ⟨_, regWrite_seedPair req v hk hp, ?_, ?_, ?_, mem_resp_answer .., ?_⟩
  · rw [hx, reg_answer, reg_setReg, if_pos rfl, BitVec.toNat_ofNat, Nat.mod_eq_of_lt hlt]
  · exact regsBut_answer (regsBut_setReg (fun k _ => reg_noteWrite ..) (List.mem_singleton_self _) _) _ _
  · rw [pendOf_answer, pendOf_eq, setReg_pend13, pend13_noteWrite, ← pendOf_eq, pendOf_dropPend_same]
  · rw [err_answer, setReg_err, err_noteWrite, err_dropPend]

/-- Settles O6, one lemma per half of an access; the write pair is that of the seed. -/
theorem splitAccessesAndHeldWrites : Obligations.SplitAccessesAndHeldWrites := by
  unfold Obligations.SplitAccessesAndHeldWrites
  refine ⟨⟨?_, ?_, ?_, ?_⟩, ?_, ?_⟩
  · intro s req ga k row hk hrow hw
    refine ⟨_, next_congr (regRead_low req hk hrow hw), mem_resp_answer .., pendOf_setPend_same .., rfl, fun q b h => ?_⟩
    rw [pendOf_answer, pendOf_setPend_other _ _ h, pendOf_dropPend_other s h]
  · intro s req ga k w row hk hrow hw hp
    refine ⟨_, next_congr (regRead_high req hk hrow hw), ?_, pendOf_dropPend_same .., rfl, fun q b h => ?_⟩
    · simp only [hp, if_true]
      exact mem_resp_answer ..
    · rw [pendOf_answer, pendOf_dropPend_other s h]
  · intro s req ga k row hk hrow hw hp
    refine ⟨_, next_congr (regRead_high req hk hrow hw), ?_, rfl⟩
    simp only [hp]
    exact mem_resp_answer ..
  · intro s req ga k v row hk hrow hw
    refine ⟨_, next_congr (regWrite_low req v hk hrow hw), rfl, pendOf_setPend_same .., mem_resp_answer .., fun q b h => ?_⟩
    rw [pendOf_answer, pendOf_setPend_other _ _ h, pendOf_dropPend_other s h]
  · intro s req ga c v w hk hp
    obtain ⟨t, ht, h⟩ := seedPair_acts req v w hk hp
    exact ⟨t, next_congr ht, h⟩
  · intro s req ga c v hk hp
    refine ⟨_, next_congr (regWrite_seedAlone req v hk hp), ?_, mem_resp_answer ..⟩
    rw [reg_answer, reg_ctlRefuse_cell _ req c _ (by decide) (seed_ne_last c) (seed_ne_hostAddr c), reg_dropPend]

end Sys2Proof.WordPairs
end

section
/-! PROOFS. Descriptors, the easels' segments and their beats (R88-R93, R110-R112). -/

namespace Sys2Proof.DescriptorQueue

open Sys2Proof Sys2Proof.Machine Sys2Proof.Laws Sys2Proof.Clauses

theorem cellsBut_setMxe {s t : State} {c : Nat} (h : s.cellsBut t c) (m : Mxe) : s.cellsBut (t.setMxe c m) c := cellsBut_setCell h _

theorem cellsBut_of_cells {s t u : State} {c : Nat} (h : s.cellsBut t c) (hu : u.cells = t.cells) : s.cellsBut u c :=
  fun e he => (congrArg (fun m => SMap.get m e Cell.reset) hu).trans (h e he)

theorem mxe_of_cells {s t : State} (h : t.cells = s.cells) (c : Nat) : t.mxe c = s.mxe c :=
  congrArg (fun m => (SMap.get m c Cell.reset).mxe) h

theorem cell_of_cells {s t : State} (h : t.cells = s.cells) (c : Nat) : t.cell c = s.cell c :=
  congrArg (fun m => SMap.get m c Cell.reset) h

theorem queue_of_cells {s t : State} (h : t.cells = s.cells) (c : Nat) : (t.mxe c).queue = (s.mxe c).queue := by rw [mxe_of_cells h]

theorem cells_incSatUn (s : State) (k lo w n : Nat) : (s.incSatUn k lo w n).cells = s.cells :=
  StartPhases.within_same (within_incSatUn (List.Subset.refl _) (within_refl s)) .cells (by decide)

theorem err_incSatUn (s : State) (k lo w n : Nat) : (s.incSatUn k lo w n).err = s.err :=
  StartPhases.within_same (within_incSatUn (List.Subset.refl _) (within_refl s)) .err (by decide)

theorem regsBut_incSatUn {s t : State} {ks : List Nat} {k : Nat} (h : s.regsBut t ks) (hk : k ∈ ks) (lo w n : Nat) :
    s.regsBut (t.incSatUn k lo w n) ks := by
  unfold State.incSatUn
  split
  · exact h
  · exact regsBut_setFld h hk _ _ _

/-! ### The queue of an engine -/

@[simp] theorem queue_modPass (m : Mxe) (j : Nat) (f : Pass → Pass) : (modPass m j f).queue = m.queue.map fun p => if p.j = j then f p else p := rfl

@[simp] theorem queue_setEasel (m : Mxe) (j : Nat) (e : Easel) : (setEasel m j e).queue = m.queue := rfl

@[simp] theorem easelOf_setEasel {m : Mxe} (hm : m.easels.length = 4) (j : Nat) (e : Easel) : easelOf (setEasel m j e) j = e := by
  have hj : j % 4 < m.easels.length := by omega
  simp [easelOf, setEasel, hj]

@[simp] theorem easelOf_modPass (m : Mxe) (j i : Nat) (f : Pass → Pass) : easelOf (modPass m j f) i = easelOf m i := rfl

/-! ### A pushed descriptor -/

/-- The pass of an accepted descriptor that nothing has been done for yet. -/
structure FreshPass (s : State) (c : Nat) (d : BitVec 256) (p : Pass) : Prop where
  desc : p.desc = d
  j : p.j = (s.mxe c).seq
  pushed : p.pushed = (s.cell c).cyc
  start : p.start = none
  segs : p.segs = 0
  beats : p.beats = 0
  rows : p.rows = 0
  ready : p.ready = false

theorem mxeAccept_queues (s : State) (c : Nat) (d : BitVec 256) :
    ∃ p, ((s.mxeAccept c d).mxe c).queue = (s.mxe c).queue ++ [p] ∧ FreshPass s c d p ∧ ((s.mxeAccept c d).mxe c).seq = (s.mxe c).seq + 1 ∧
      (s.mxeAccept c d).err = s.err ∧ s.cellsBut (s.mxeAccept c d) c ∧ s.regsBut (s.mxeAccept c d) [cellKey c MXE_RPL_STAT] := by
  simp only [State.mxeAccept]
  split
  · refine ⟨_, (queue_of_cells (cells_incSatUn ..) c).trans (congrArg Mxe.queue (mxe_setMxe_same ..)), ⟨rfl, rfl, rfl, rfl, rfl, rfl, rfl, rfl⟩, ?_,
      err_incSatUn .., cellsBut_of_cells (cellsBut_setMxe (cellsBut_refl s c) _) (cells_incSatUn ..), ?_⟩
    · rw [mxe_of_cells (cells_incSatUn ..), mxe_setMxe_same]
      rfl
    · exact regsBut_incSatUn (fun k _ => setMxe_reg ..) (List.mem_singleton_self _) _ _ _
  · refine ⟨_, congrArg Mxe.queue (mxe_setMxe_same ..), ⟨rfl, rfl, rfl, rfl, rfl, rfl, rfl, rfl⟩, ?_, rfl,
      cellsBut_setMxe (cellsBut_refl s c) _, regsBut_refl s _⟩
    rw [mxe_setMxe_same]
    rfl

theorem mxePush_flushing {s : State} {c : Nat} (hf : (s.mxe c).flushDue = true) : s.mxePush c = s := if_pos hf

theorem mxePush_full {s : State} {c : Nat} (hf : (s.mxe c).flushDue = false) (h8 : 8 ≤ s.queueAtStart c) : s.mxePush c = s.pushRefuse c 0x11 0 := by
  simp [State.mxePush, hf, h8]

theorem mxePush_invalid {s : State} {c : Nat} (hf : (s.mxe c).flushDue = false) (h8 : s.queueAtStart c < 8)
    (hr : descReason (s.mxe c).info (s.staged c) ≠ 0) :
    s.mxePush c = s.pushRefuse c 0x10 (s.errDesc c (descReason (s.mxe c).info (s.staged c))) := by
  simp [State.mxePush, hf, Nat.not_le.2 h8, hr]

theorem mxePush_valid {s : State} {c : Nat} (hf : (s.mxe c).flushDue = false) (h8 : s.queueAtStart c < 8)
    (hr : descReason (s.mxe c).info (s.staged c) = 0) : s.mxePush c = s.mxeAccept c (s.staged c) := by
  simp [State.mxePush, hf, Nat.not_le.2 h8, hr]

theorem pushRefuse_keeps (s : State) (c cls detail : Nat) : ∃ t, s.pushRefuse c cls detail = t ∧ (t.mxe c).queue = (s.mxe c).queue ∧
    (t.mxe c).seq = (s.mxe c).seq ∧ t.regs = s.regs ∧ (t.mxe c).pushFails = (s.mxe c).pushFails ++ [⟨cls, detail⟩] ∧ t.err = s.err ∧ s.cellsBut t c := by
  refine ⟨_, rfl, ?_, ?_, rfl, ?_, rfl, cellsBut_setMxe (cellsBut_refl s c) _⟩ <;> rw [State.pushRefuse, mxe_setMxe_same]

/-! ### The refusals at the end of a cycle -/

/-- The engine's state after its stages of a cycle, ahead of the refusals. -/
def afterStages (s : State) (c : Nat) : State := if s.runs c then s.mxeStages c else s

theorem mxeCycle_refusals {s : State} {c cls v : Nat} (hf : ((afterStages s c).mxe c).flushDue = false)
    (hp : ((afterStages s c).mxe c).pushFails = [⟨cls, v⟩]) :
    s.mxeCycle c = ((afterStages s c).setMxe c { (afterStages s c).mxe c with pushFails := [] }).pushRecord c ⟨cls, v⟩ := by
  have : s.mxeCycle c = if ((afterStages s c).mxe c).flushDue then (afterStages s c).mxeFlushNow c
    else if ((afterStages s c).mxe c).pushFails = [] then afterStages s c else (afterStages s c).pushRecords c := rfl
  rw [this, hf, hp]
  simp [State.pushRecords, hp]

theorem refusal_invalid {s : State} {c v : Nat} (hf : ((afterStages s c).mxe c).flushDue = false)
    (hp : ((afterStages s c).mxe c).pushFails = [⟨0x10, v⟩]) :
    (s.mxeCycle c).reg (cellKey c MXE_ERR_DESC) = BitVec.ofNat 64 v ∧ (afterStages s c).regsBut (s.mxeCycle c) [cellKey c MXE_ERR_DESC] ∧
      (afterStages s c).logs (s.mxeCycle c) 0x10 (.cell c 0) v := by
  rw [mxeCycle_refusals hf hp, State.pushRecord, if_pos rfl]
  refine ⟨?_, regsBut_of_regs (regsBut_setReg (regsBut_refl _ _) (List.mem_singleton_self _) _) rfl rfl, logs_raiseAt rfl ..⟩
  rw [State.raiseAt, raise_reg, reg_setReg, if_pos rfl]

theorem refusal_full {s : State} {c : Nat} (hf : ((afterStages s c).mxe c).flushDue = false)
    (hp : ((afterStages s c).mxe c).pushFails = [⟨0x11, 0⟩]) :
    (s.mxeCycle c).regs = (afterStages s c).regs ∧ (afterStages s c).logs (s.mxeCycle c) 0x11 (.cell c 0) 0 := by
  rw [mxeCycle_refusals hf hp, State.pushRecord, if_neg (by decide)]
  exact ⟨rfl, logs_raiseAt rfl ..⟩

/-! ### Segments and beats -/

theorem loadSegment_starts {s : State} {c : Nat} {p : Pass} (hp : (s.mxe c).queue.find? (fun q => q.segs < segNeed q.desc) = some p)
    (hruns : s.runs c = true) (hpushed : p.pushed < (s.cell c).cyc)
    (hseg : ((s.mxe c).queue.all fun q => match q.seg with | none => true | some b => decide (b + 8 ≤ (s.cell c).cyc)) = true)
    (hfree : colsFree (s.mxe c) p.desc p.j p.segs (s.arrayTime c) = true) :
    s.loadSegment c = s.setMxe c (modPass (setEasel (s.mxe c) p.j
      { Easel.free with owner := some p.j, block := if p.segs = 0 then [] else (easelOf (s.mxe c) p.j).block }) p.j
      fun q => { q with segs := q.segs + 1, seg := some (s.cell c).cyc, beats := 0 }) := by
  simp only [State.loadSegment, hp]
  refine if_neg ?_
  rintro (h | h | h | h)
  · simp [hruns] at h
  · omega
  · exact h hseg
  · exact h hfree

theorem easelReady_forms {s : State} {c b : Nat} {p : Pass} (hp : (s.mxe c).queue.find? (fun q => !q.ready) = some p) (hseg : p.seg = some b)
    (hsegs : p.segs = segNeed p.desc) (hbeats : p.beats = 8) (h12 : b + 12 ≤ (s.cell c).cyc) (hruns : s.runs c = true) :
    s.easelReady c = s.setMxe c (modPass (State.formSums (s.mxe c) p) p.j fun q => { q with ready := true }) := by
  simp [State.easelReady, hp, hseg, hruns, hsegs, hbeats, h12]

/-! ### What a beat's reads leave of the queue -/

theorem queue_setCell {s : State} {c : Nat} (x : Cell) (h : x.mxe.queue = (s.mxe c).queue) (e : Nat) : ((s.setCell c x).mxe e).queue = (s.mxe e).queue := by
  rw [State.mxe, cell_setCell]
  split
  · rw [h, ‹e = c›]
  · rfl

theorem queue_queueTest (s : State) (c unit sn word e : Nat) : ((s.queueTest c unit sn word).mxe e).queue = (s.mxe e).queue := by
  unfold State.queueTest
  dsimp only
  split_ifs
  · rfl
  · refine queue_setCell _ ?_ e
    rfl

theorem queue_correction (s : State) (c off port syn e : Nat) : ((s.correction c off port syn).mxe e).queue = (s.mxe e).queue := by
  have hrec (t : State) : ((t.incSatUn (cellKey c SPM_ECC_CNT) 0 16 1).raiseLim 1000000 0x20 (.cell c 0) (State.errLast off port syn)).cells = t.cells :=
    StartPhases.within_same (w := [.regs, .err]) (within_raiseLim (by decide) (within_incSatUn (by decide) (within_refl t))) .cells (by decide)
  simp only [State.correction, State.setErrLast, setReg_mxe]
  rw [queue_of_cells (hrec _), queue_setCell]
  · split
    · exact queue_queueTest ..
    · rfl
  · rfl

theorem queue_readWord (s : State) (c off port e : Nat) : (((s.readWord c off port).1).mxe e).queue = (s.mxe e).queue := by
  simp only [State.readWord]
  split
  · rfl
  · exact queue_correction ..
  · exact queue_of_cells (cells_incSatUn ..) e
  · exact queue_of_cells (cells_incSatUn ..) e

theorem queue_mxeWord (r : MxeRead) (c port off e : Nat) : ((State.mxeWord r c port off).s.mxe e).queue = (r.s.mxe e).queue := by
  have h := queue_readWord r.s c off port e
  unfold State.mxeWord
  split
  · rename_i hr
    rwa [hr] at h
  · rename_i hr
    rw [hr] at h
    refine (queue_setCell _ ?_ e).trans h
    rfl

theorem queue_mxeRefuse (s : State) (c off port : Nat) (cr : Nat × Nat) (e : Nat) : ((s.mxeRefuse c off port cr).mxe e).queue = (s.mxe e).queue := by
  have hrec (n : Nat) : ((s.raise cr.1 (.cell c 0) n (some c)).setErrLast c off port 0).cells = s.cells :=
    StartPhases.within_same (w := [.regs, .err]) (within_setErrLast (by decide) (within_raise (by decide) (within_refl s))) .cells (by decide)
  rw [State.mxeRefuse, State.setMxe, queue_setCell]
  · exact queue_of_cells (hrec _) e
  · rfl

theorem queue_mxeLine (r : MxeRead) (c port n off e : Nat) : ((State.mxeLine r c port n off).s.mxe e).queue = (r.s.mxe e).queue := by
  unfold State.mxeLine
  split
  · rfl
  · split
    · exact queue_mxeRefuse ..
    · exact List.foldlRecOn (motive := fun q : MxeRead => (q.s.mxe e).queue = (r.s.mxe e).queue) _ _ rfl fun q hq i _ => (queue_mxeWord ..).trans hq

theorem queue_beatLine (s : State) (c off e : Nat) : ((s.beatLine c off).s.mxe e).queue = (s.mxe e).queue := queue_mxeLine ..

theorem queue_loadBeat {s : State} {c : Nat} {p : Pass} (hp : ((s.mxe c).queue.find? fun q => match q.seg with
      | some b => decide (q.beats < 8 ∧ b + q.beats ≤ (s.cell c).cyc)
      | none => false) = some p) :
    ((s.loadBeat c).mxe c).queue = (s.mxe c).queue.map fun q => if q.j = p.j then { q with beats := p.beats + 1 } else q := by
  unfold State.loadBeat
  dsimp only
  split
  · rename_i hn
    exact absurd (hn.symm.trans hp) (by simp)
  · rename_i q hq
    obtain rfl : q = p := Option.some.inj (hq.symm.trans hp)
    rw [mxe_setMxe_same, queue_modPass, queue_setEasel]
    split
    · rfl
    · rw [queue_beatLine, queue_beatLine]

/-- Settles O7: pushes and refusals, segments and beats, and the sums of an easel. -/
theorem descriptorsQueueAndEaselsLoad : Obligations.DescriptorsQueueAndEaselsLoad := by
  unfold Obligations.DescriptorsQueueAndEaselsLoad
  refine ⟨⟨?_, ?_, ?_, ?_, fun s c v hf hp _ => refusal_invalid hf hp, fun s c hf hp => refusal_full hf hp⟩, ?_, fun s c p hp => queue_loadBeat hp, ?_⟩
  · intro s c hf h8 hr
    obtain ⟨p, hqueue, hp, hseq, herr, hcells, hregs⟩ := mxeAccept_queues s c (s.staged c)
    exact ⟨_, p, next_congr (mxePush_valid hf h8 hr), hqueue, hp.desc, hp.j, hp.pushed, hp.start, hp.segs, hp.beats, hp.rows, hp.ready, hseq, herr,
      hcells, hregs⟩
  · intro s c hf h8
    obtain ⟨t, ht, h⟩ := pushRefuse_keeps s c 0x11 0
    exact ⟨t, next_congr ((mxePush_full hf h8).trans ht), h⟩
  · intro s c hf h8 hr
    obtain ⟨t, ht, h⟩ := pushRefuse_keeps s c 0x10 (s.errDesc c (descReason (s.mxe c).info (s.staged c)))
    exact ⟨t, next_congr ((mxePush_invalid hf h8 hr).trans ht), h⟩
  · intro s c hf
    exact next_congr (mxePush_flushing hf)
  · intro s c p hp hruns hpushed hseg hfree h4
    refine ⟨_, next_congr (loadSegment_starts hp hruns hpushed hseg hfree), ?_, ?_, ?_, ?_, rfl, rfl, cellsBut_setMxe (cellsBut_refl s c) _⟩
    · rw [mxe_setMxe_same, easelOf_modPass, easelOf_setEasel h4]
    · rw [mxe_setMxe_same, queue_modPass, queue_setEasel]
    · rw [mxe_setMxe_same]
      rfl
    · rw [mxe_setMxe_same]
      rfl
  · intro s c b p hp hseg hsegs hbeats h12 hruns h4
    refine ⟨_, next_congr (easelReady_forms hp hseg hsegs hbeats h12 hruns), ?_, ?_, ?_, rfl, cellsBut_setMxe (cellsBut_refl s c) _⟩
    · rw [mxe_setMxe_same]
      rfl
    · rw [mxe_setMxe_same, easelOf_modPass, State.formSums, easelOf_setEasel h4]
    · rw [mxe_setMxe_same, easelOf_modPass, State.formSums, easelOf_setEasel h4]

end Sys2Proof.DescriptorQueue
end

section
/-! PROOFS. The swap wave, its stalls and the freeze of the array (R86, R93, R104-R107). -/

namespace Sys2Proof.SwapWave

open Sys2Proof Sys2Proof.Machine Sys2Proof.Laws Sys2Proof.Clauses Sys2Proof.DescriptorQueue

/-- A wave may enter cell `c` now for pass `p`, but for a freeze and the pass's easel. -/
structure MayEnter (s : State) (c : Nat) (p : Pass) : Prop where
  next : nextPass (s.mxe c) = some p
  runs : s.runs c = true
  start : (s.mxe c).noStart = false
  stop : stoppedAt (s.mxe c) (s.cell c).cyc = false
  prev : prevDone (s.mxe c) (s.arrayTime c) s.rowDueAt = true

theorem waveEnter_eq {s : State} {c : Nat} {p : Pass} (h : MayEnter s c p) :
    s.waveEnter c = if s.frozenNow c then s.judgeCycle c
      else if !p.ready then s.easelStall c p
      else s.setMxe c (modPass { s.mxe c with starts := ((p.j, s.arrayTime c, s.rowInterval p.desc * dM p.desc) :: (s.mxe c).starts).take 4, cur := p.j % 4 } p.j
        fun q => { q with start := some (s.arrayTime c) }) := by
  simp only [State.waveEnter, h.next]
  refine if_neg ?_
  simp [h.runs, h.start, h.stop, h.prev]

theorem waveEnter_stopped {s : State} {c b : Nat} (hb : (s.mxe c).stopFrom = some b) (hle : b ≤ (s.cell c).cyc) : s.waveEnter c = s := by
  have hstop : stoppedAt (s.mxe c) (s.cell c).cyc = true := by simp [stoppedAt, hb, hle]
  simp only [State.waveEnter, hstop]
  split
  · rfl
  · simp

/-! ### A stall -/

theorem easelStall_counts {s : State} {c : Nat} {p : Pass} (hpushed : p.pushed < (s.cell c).cyc) (hstall : (s.mxe c).stallAt ≠ (s.cell c).cyc + 1)
    (hw : s.written (cellKey c MXE_STALL_EASEL) = false) :
    s.easelStall c p = (s.setMxe c { s.mxe c with stallAt := (s.cell c).cyc + 1 }).incSat (cellKey c MXE_STALL_EASEL) 0 64 1 := by
  have hw' : (s.setMxe c { s.mxe c with stallAt := (s.cell c).cyc + 1 }).written (cellKey c MXE_STALL_EASEL) = false := hw
  simp only [State.easelStall]
  rw [if_neg (by simp [hstall, hpushed]), State.incSatUn, hw']
  rfl

/-! ### A freeze -/

theorem feedRows_pos (d : BitVec 256) : 0 < feedRows d := by
  unfold feedRows
  split
  · decide
  · split <;> omega

theorem dryRows_eq {s : State} {c : Nat} {q : Pass} (hdry : s.dryNow c = true) (hq : streamPass (s.mxe c) = some q) : s.dryRows c = feedRows q.desc := by
  simp [State.dryRows, hdry, hq]

theorem judgeCycle_judged {s : State} {c : Nat} (h : (s.mxe c).judged = (s.cell c).cyc + 1) : s.judgeCycle c = s := by
  unfold State.judgeCycle
  split
  · exact if_pos h
  · rfl

/-- The array's counts of a cycle that is frozen for a feeder. -/
def frozenMxe (s : State) (c : Nat) : Mxe :=
  { s.mxe c with frozen := (s.mxe c).frozen + 1, consec := if (s.mxe c).judged = (s.cell c).cyc then (s.mxe c).consec + 1 else 1,
                 judged := (s.cell c).cyc + 1 }

theorem judgeCycle_dry {s : State} {c : Nat} {q : Pass} (hj : (s.mxe c).judged ≠ (s.cell c).cyc + 1) (hfull : s.fullNow c = false)
    (hdry : s.dryNow c = true) (hq : streamPass (s.mxe c) = some q) (hw : s.written (cellKey c MXE_STALL_FREEZE) = false) :
    s.judgeCycle c = ((s.setMxe c (frozenMxe s c)).incSat (cellKey c MXE_STALL_FREEZE) 0 64 1).setReg (cellKey c MXE_FREEZE_CAUSE)
      (BitVec.ofNat 64 (1 + 2 ^ 16 * (2 ^ feedRows q.desc - 1))) := by
  have hw' (m : Mxe) : (s.setMxe c m).written (cellKey c MXE_STALL_FREEZE) = false := hw
  simp only [State.judgeCycle, hdry, Bool.true_or, if_true, State.freeze, hj, if_false, dryRows_eq hdry hq, feedRows_pos, hfull, State.incSatUn, hw',
    Bool.false_eq_true, Nat.add_zero]
  rfl

theorem cause_bits {f : Nat} (hf : f ≤ 16) :
    bits (BitVec.ofNat 64 (1 + 2 ^ 16 * (2 ^ f - 1))).toNat 0 2 = 1 ∧
      bits (BitVec.ofNat 64 (1 + 2 ^ 16 * (2 ^ f - 1))).toNat 16 16 = 2 ^ f - 1 := by
  have hle : 2 ^ f ≤ 2 ^ 16 := Nat.pow_le_pow_right (by decide) hf
  have hx : 2 ^ f - 1 < 2 ^ 16 := by omega
  generalize 2 ^ f - 1 = x at hx ⊢
  rw [BitVec.toNat_ofNat, bits, bits]
  omega

theorem causeKey_ne (c : Nat) : cellKey c MXE_STALL_FREEZE ≠ cellKey c MXE_FREEZE_CAUSE := by
  unfold cellKey MXE_STALL_FREEZE MXE_FREEZE_CAUSE
  omega

theorem freeze_dry {s : State} {c : Nat} {q : Pass} (hj : (s.mxe c).judged ≠ (s.cell c).cyc + 1) (hfull : s.fullNow c = false)
    (hdry : s.dryNow c = true) (hq : streamPass (s.mxe c) = some q) (hw : s.written (cellKey c MXE_STALL_FREEZE) = false) (h16 : feedRows q.desc ≤ 16) :
    ∃ t, s.judgeCycle c = t ∧ (t.mxe c).queue = (s.mxe c).queue ∧ (t.mxe c).frozen = (s.mxe c).frozen + 1 ∧
      t.fld (cellKey c MXE_STALL_FREEZE) 0 64 = min (s.fld (cellKey c MXE_STALL_FREEZE) 0 64 + 1) (2 ^ 64 - 1) ∧
      t.fld (cellKey c MXE_FREEZE_CAUSE) 0 2 = 1 ∧ t.fld (cellKey c MXE_FREEZE_CAUSE) 16 16 = 2 ^ feedRows q.desc - 1 ∧
      s.regsBut t [cellKey c MXE_STALL_FREEZE, cellKey c MXE_FREEZE_CAUSE] := by
  obtain ⟨hlow, hrows⟩ := cause_bits h16
  refine ⟨_, judgeCycle_dry hj hfull hdry hq hw, ?_, ?_, ?_, ?_, ?_, ?_⟩
  · rw [setReg_mxe, incSat_mxe, mxe_setMxe_same]
    rfl
  · rw [setReg_mxe, incSat_mxe, mxe_setMxe_same]
    rfl
  · rw [State.fld, reg_setReg, if_neg (causeKey_ne c)]
    exact (fld_incSat_same _ _ (by decide)).trans (by rw [setMxe_fld])
  · rw [State.fld, reg_setReg, if_pos rfl, hlow]
  · rw [State.fld, reg_setReg, if_pos rfl, hrows]
  · exact regsBut_setReg (regsBut_setFld (regsBut_refl s _) (by simp) _ _ _) (by simp) _

/-! ### The watchdog of a freeze -/

theorem freezeExpire_eq {s : State} {c : Nat} (hj : (s.mxe c).judged = (s.cell c).cyc + 1)
    (hcons : (s.mxe c).consec = 2 ^ s.fld (cellKey c MXE_WDOG) 0 5 + 1) (hruns : s.runs c = true) :
    s.freezeExpire c = (s.setMxe c { s.mxe c with consec := (s.mxe c).consec + 1 }).raiseAt 0x13 c (s.reg (cellKey c MXE_FREEZE_CAUSE)).toNat := by
  simp only [State.freezeExpire, hruns, if_true, judgeCycle_judged hj]
  exact if_pos ⟨hj, hcons, trivial⟩

theorem haltQ_raiseAt {s : State} {cls c : Nat} (detail : Nat) (hsev : sevOf cls = 1) (hh : s.haltable c = true) :
    (s.raiseAt cls c detail).err.haltQ = s.err.haltQ ++ [⟨c, cls, s.err.nextSn, s.jobOf c, false⟩] := by
  simp only [State.raiseAt, State.raise, State.raiseSev, hsev, hh, and_self, if_true]
  rfl

/-- Settles O8: the wave's entry, its stalls, a freeze for a feeder, and the watchdog. -/
theorem swapWaveStallsAndFreezes : Obligations.SwapWaveStallsAndFreezes := by
  unfold Obligations.SwapWaveStallsAndFreezes
  refine ⟨?_, ?_, ?_, fun s c b hb hle => next_congr (waveEnter_stopped hb hle), ?_⟩
  · intro s c p hnext hruns hstart hstop hprev hfrozen hready
    refine ⟨_, next_congr ((waveEnter_eq ⟨hnext, hruns, hstart, hstop, hprev⟩).trans ((if_neg (by simp [hfrozen])).trans (if_neg (by simp [hready])))),
      ?_, ?_, ?_, rfl, rfl, cellsBut_setMxe (cellsBut_refl s c) _⟩
    · rw [mxe_setMxe_same, queue_modPass]
    · rw [mxe_setMxe_same]
      simp [startOf, modPass]
    · rw [mxe_setMxe_same]
      rfl
  · intro s c p hnext hruns hstart hstop hprev hfrozen hready hpushed hstall hw
    refine ⟨_, next_congr ((waveEnter_eq ⟨hnext, hruns, hstart, hstop, hprev⟩).trans ((if_neg (by simp [hfrozen])).trans
      ((if_pos (by simp [hready])).trans (easelStall_counts hpushed hstall hw)))), ?_, ?_, regsBut_setFld (regsBut_refl s _) (List.mem_singleton_self _) _ _ _⟩
    · rw [incSat_mxe, mxe_setMxe_same]
    · exact (fld_incSat_same _ _ (by decide)).trans (by rw [setMxe_fld])
  · intro s c p q hnext hq hruns hstart hstop hprev hj hfull hdry hw h16
    obtain ⟨t, ht, h⟩ := freeze_dry hj hfull hdry hq hw h16
    exact ⟨t, next_congr ((waveEnter_eq ⟨hnext, hruns, hstart, hstop, hprev⟩).trans ((if_pos (by simp [State.frozenNow, hdry])).trans ht)), h⟩
  · intro s c hj hcons hruns
    refine ⟨_, next_congr (freezeExpire_eq hj hcons hruns), logs_raiseAt rfl .., ?_, rfl, fun hh => haltQ_raiseAt _ rfl hh⟩
    rw [State.raiseAt, raise_mxe, mxe_setMxe_same]

end Sys2Proof.SwapWave
end

section
/-! PROOFS. The feeder's lines, presented rows and rows in flight (R85-R89, R94-R100). -/

namespace Sys2Proof.RowFlow

open Sys2Proof Sys2Proof.Machine Sys2Proof.Laws Sys2Proof.Clauses Sys2Proof.DescriptorQueue

/-! ### What the engine's reads leave -/

/-- A read of the engine leaves other cells and the engine as they are, but for the stops that a failed word asks for. -/
structure ReadKeeps (c : Nat) (s t : State) : Prop where
  cells : s.cellsBut t c
  cyc : (t.cell c).cyc = (s.cell c).cyc
  mxe : ∃ stop drain, t.mxe c = { s.mxe c with stopFrom := stop, noDrain := drain }

theorem ReadKeeps.refl (c : Nat) (s : State) : ReadKeeps c s s := ⟨cellsBut_refl s c, rfl, _, _, rfl⟩

theorem ReadKeeps.trans {c : Nat} {s t u : State} (h : ReadKeeps c s t) (h' : ReadKeeps c t u) : ReadKeeps c s u := by
  obtain ⟨stop, drain, hm⟩ := h.mxe
  obtain ⟨stop', drain', hm'⟩ := h'.mxe
  exact ⟨fun e he => (h'.cells e he).trans (h.cells e he), h'.cyc.trans h.cyc, stop', drain', by rw [hm', hm]⟩

theorem readKeeps_of_cells {c : Nat} {s t : State} (h : t.cells = s.cells) : ReadKeeps c s t :=
  ⟨fun e _ => cell_of_cells h e, by rw [cell_of_cells h], _, _, mxe_of_cells h c⟩

theorem readKeeps_setCell {c : Nat} {s : State} {x : Cell} (hc : x.cyc = (s.cell c).cyc) (hm : x.mxe = (s.cell c).mxe) : ReadKeeps c s (s.setCell c x) :=
  ⟨cellsBut_setCell (cellsBut_refl s c) x, by rw [cell_setCell, if_pos rfl, hc], _, _, by rw [State.mxe, cell_setCell, if_pos rfl, hm]; rfl⟩

theorem readKeeps_setMxe {c : Nat} {s : State} (stop : Option Nat) (drain : Bool) :
    ReadKeeps c s (s.setMxe c { s.mxe c with stopFrom := stop, noDrain := drain }) :=
  ⟨cellsBut_setMxe (cellsBut_refl s c) _, by rw [State.setMxe, cell_setCell, if_pos rfl], _, _, mxe_setMxe_same ..⟩

theorem readKeeps_queueTest (s : State) (c unit sn word : Nat) : ReadKeeps c s (s.queueTest c unit sn word) := by
  unfold State.queueTest
  dsimp only
  split_ifs
  · exact .refl c s
  · exact readKeeps_setCell rfl rfl

theorem readKeeps_correction (s : State) (c off port syn : Nat) : ReadKeeps c s (s.correction c off port syn) := by
  have hrec (t : State) : ReadKeeps c t (((t.incSatUn (cellKey c SPM_ECC_CNT) 0 16 1).raiseLim 1000000 0x20 (.cell c 0)
      (State.errLast off port syn)).setErrLast c off port syn) :=
    readKeeps_of_cells (StartPhases.within_same (w := [.regs, .err])
      (within_setErrLast (by decide) (within_raiseLim (by decide) (within_incSatUn (by decide) (within_refl t)))) .cells (by decide))
  refine ReadKeeps.trans (ReadKeeps.trans ?_ (readKeeps_setCell ?_ ?_)) (hrec _)
  · split
    · exact readKeeps_queueTest ..
    · exact .refl c s
  · rfl
  · rfl

theorem readKeeps_readWord (s : State) (c off port : Nat) : ReadKeeps c s (s.readWord c off port).1 := by
  simp only [State.readWord]
  split
  · exact .refl c s
  · exact readKeeps_correction ..
  · exact readKeeps_of_cells (cells_incSatUn ..)
  · exact readKeeps_of_cells (cells_incSatUn ..)

theorem readKeeps_mxeConsume (s : State) (c off port : Nat) : ReadKeeps c s (s.mxeConsume c off port) :=
  (readKeeps_of_cells (StartPhases.within_same (w := [.err]) (within_raiseAt (by decide) (within_refl s)) .cells (by decide))).trans
    (readKeeps_setMxe _ true)

theorem readKeeps_mxeWord (r : MxeRead) (c port off : Nat) : ReadKeeps c r.s (State.mxeWord r c port off).s := by
  have h := readKeeps_readWord r.s c off port
  unfold State.mxeWord
  split
  · rename_i hr
    rwa [hr] at h
  · rename_i t _ _ hr
    rw [hr] at h
    exact (h.trans (readKeeps_mxeConsume t c off port)).trans (readKeeps_of_cells rfl)

theorem readKeeps_mxeRefuse (s : State) (c off port : Nat) (cr : Nat × Nat) : ReadKeeps c s (s.mxeRefuse c off port cr) := by
  have hrec (n : Nat) : ReadKeeps c s ((s.raise cr.1 (.cell c 0) n (some c)).setErrLast c off port 0) :=
    readKeeps_of_cells (StartPhases.within_same (w := [.regs, .err]) (within_setErrLast (by decide) (within_raise (by decide) (within_refl s))) .cells
      (by decide))
  exact (hrec _).trans (readKeeps_setMxe _ _)

theorem readKeeps_mxeLine (r : MxeRead) (c port n off : Nat) : ReadKeeps c r.s (State.mxeLine r c port n off).s := by
  unfold State.mxeLine
  split
  · exact .refl c _
  · split
    · exact readKeeps_mxeRefuse ..
    · exact List.foldlRecOn (motive := fun q : MxeRead => ReadKeeps c r.s q.s) _ _ (readKeeps_of_cells rfl) fun q hq i _ => hq.trans (readKeeps_mxeWord ..)

/-! ### A line of the feeder -/

theorem feederFetch_rows {s : State} {c : Nat} {p : Pass} (hp : (s.mxe c).queue.find? (fun q => needsFeed q.desc && decide (q.fetched < dM q.desc)) = some p)
    (hruns : s.runs c = true) (hpushed : p.pushed < (s.cell c).cyc) (hat : (s.mxe c).fetchAt ≠ (s.cell c).cyc + 1)
    (hroom : (s.mxe c).feeder.length + State.lineRows p.desc p.fetched ≤ 64) (hstat : dStatScaled p.desc = false)
    (hstrm : dStrmScaled p.desc = false) (hinit : dInit p.desc = 0) : s.feederFetch c = s.fetchRows c p := by
  have hraw : (dIsInit p.desc && dInit p.desc == 2) = false := by simp [hinit]
  simp only [State.feederFetch, hp, hraw, hstat, hstrm, Bool.false_eq_true, false_and, if_false]
  refine if_neg ?_
  rintro (h | h | h | h)
  · simp [hruns] at h
  · omega
  · exact hat h
  · omega

theorem fetchRows_feeds (s : State) (c : Nat) (p : Pass) :
    ∃ t, s.fetchRows c p = t ∧
      let n := State.lineRows p.desc p.fetched
      (t.mxe c).feeder.length = (s.mxe c).feeder.length + n ∧ (t.mxe c).fetchAt = (s.cell c).cyc + 1 ∧
      (t.mxe c).queue = ((s.mxe c).queue.map fun q => if q.j = p.j then { p with fetched := p.fetched + n } else q) ∧
      (∀ i, i < n → ((t.mxe c).feeder[(s.mxe c).feeder.length + i]?).map (fun f => (f.j, f.m, f.arr)) =
        some (p.j, p.fetched + i, (s.cell c).cyc + 3)) ∧
      s.cellsBut t c := by
  obtain ⟨r, hr⟩ : ∃ r, r = State.mxeLine { s := s, bytes := [], ok := true, refused := false } c 1 64 (rowOff p.desc p.fetched / 64 * 64) := ⟨_, rfl⟩
  have hkeeps : ReadKeeps c s r.s := by
    rw [hr]
    exact readKeeps_mxeLine { s := s, bytes := [], ok := true, refused := false } ..
  obtain ⟨stop, drain, hm⟩ := hkeeps.mxe
  have hfeeder : (r.s.mxe c).feeder = (s.mxe c).feeder := by rw [hm]
  have hqueue : (r.s.mxe c).queue = (s.mxe c).queue := by rw [hm]
  refine ⟨_, rfl, ?_⟩
  simp only [State.fetchRows, ← hr, State.fetchNote, mxe_setMxe_same, hfeeder, hkeeps.cyc, queue_modPass, hqueue]
  refine ⟨?_, rfl, trivial, fun i hi => ?_, cellsBut_setMxe hkeeps.cells _⟩
  · simp [modPass, State.lineCut]
  · simp [modPass, State.lineCut, State.feedRow, hkeeps.cyc, hi]

/-! ### A presented row -/

theorem streamRow_presents {s : State} {c S : Nat} {p : Pass} (u : Option (Nat × Int)) (hp : streamPass (s.mxe c) = some p) (hS : p.start = some S)
    (hruns : s.runs c = true) (hstop : stoppedAt (s.mxe c) (s.cell c).cyc = false) (hat : (s.mxe c).streamAt ≠ (s.cell c).cyc + 1)
    (hdue : S + s.rowInterval p.desc * p.rows + 1 ≤ s.arrayTime c) (hfrozen : s.frozenNow c = false) :
    s.streamRow c u = s.presentRow c p u := by
  simp only [State.streamRow, hp, hS]
  rw [if_neg, if_neg (by simp [hfrozen])]
  rintro (h | h | h | h)
  · simp [hruns] at h
  · simp [hstop] at h
  · exact hat h
  · unfold State.rowDueAt at h
    omega

/-- The row that pass `p` presents with the feeder's oldest row `f`. -/
def presented (s : State) (c : Nat) (p : Pass) (f : FRow) : Flight :=
  { desc := p.desc, j := p.j, m := p.rows, slot := dSlot p.desc + p.rows, t0 := s.arrayTime c - 1, block := (easelOf (s.mxe c) p.j).block, scl := p.scl,
    c0 := (easelOf (s.mxe c) p.j).c0, c1 := (easelOf (s.mxe c) p.j).c1, bytes := f.bytes, scale := f.scale, raw := f.raw, data := [], chk := Chk.reset,
    replayOk := p.replayOk.contains (dSlot p.desc + p.rows), init := (p.inits[p.rows]?).getD 0, epoch := p.epoch, upset := none }

theorem presentRow_flies {s : State} {c : Nat} {p : Pass} {f : FRow} (htime : 1 ≤ s.arrayTime c) (hneeds : needsFeed p.desc = true)
    (hf : (s.mxe c).feeder.head? = some f) :
    ∃ t x, s.presentRow c p none = t ∧ (t.mxe c).feeder = (s.mxe c).feeder.drop 1 ∧
      (t.mxe c).queue = ((s.mxe c).queue.map fun q => if q.j = p.j then { q with rows := q.rows + 1 } else q) ∧
      (t.mxe c).flight = (s.mxe c).flight ++ [x] ∧ x.desc = p.desc ∧ x.j = p.j ∧ x.m = p.rows ∧ x.slot = dSlot p.desc + p.rows ∧
      x.t0 + 1 = s.arrayTime c ∧ x.block = (easelOf (s.mxe c) p.j).block ∧ x.bytes = f.bytes ∧ x.data = [] ∧
      (t.mxe c).slots = (s.mxe c).slots ∧ (t.mxe c).finals = (s.mxe c).finals ∧
      t.regs = s.regs ∧ t.err = s.err ∧ s.cellsBut t c := by
  refine ⟨_, presented s c p f, rfl, ?_⟩
  simp only [State.presentRow, act_mxe, mxe_setMxe_same, queue_modPass, hneeds, if_true, hf, Option.getD_some]
  refine ⟨rfl, trivial, rfl, rfl, rfl, rfl, rfl, ?_, rfl, rfl, rfl, rfl, rfl, rfl, rfl, cellsBut_setMxe (cellsBut_refl s c) _⟩
  exact Nat.sub_add_cancel htime

/-! ### A row in flight -/

theorem slots_modFlight (m : Mxe) (f : Flight) (g : Flight → Flight) : (State.modFlight m f g).slots = m.slots := rfl

theorem slots_flightLand (m : Mxe) (f : Flight) : (State.flightLand m f).slots = m.slots := by
  unfold State.flightLand
  dsimp only
  split
  · split <;> rfl
  · rfl

theorem slots_flightCheck (m : Mxe) (f : Flight) : (State.flightCheck m f).slots = m.slots := rfl

theorem slots_flightColumn (m : Mxe) (f : Flight) (bias n t : Nat) :
    (State.flightColumn m f bias n t).slots = SMap.set m.slots (State.slotKey f.slot n)
      (BitVec.ofNat 128 (State.colSum f bias n (SMap.get m.slots (State.slotKey f.slot n) 0).toNat)) 0 := by
  unfold State.flightColumn
  dsimp only
  split <;> rfl

theorem slots_flightStep (bias : BitVec 256 → Nat → Nat) (m : Mxe) {f : Flight} {n : Nat} (hn : n < dNp f.desc) :
    (State.flightStep bias (f.t0 + 17 + n) m f).slots = SMap.set m.slots (State.slotKey f.slot n)
      (BitVec.ofNat 128 (State.colSum f (bias f.desc n) n (SMap.get m.slots (State.slotKey f.slot n) 0).toNat)) 0 := by
  have hm1 : (if n = 0 then State.flightCheck m f else m).slots = m.slots := by split <;> rfl
  have hcol := slots_flightColumn (if n = 0 then State.flightCheck m f else m) f (bias f.desc n) n (f.t0 + 17 + n)
  rw [hm1] at hcol
  simp only [State.flightStep, Nat.not_lt.2 (Nat.le_add_right (f.t0 + 17) n), Nat.add_sub_cancel_left, hn, if_true, if_false]
  split
  · rw [slots_flightLand]
    split
    · exact hcol
    · exact hcol
  · split
    · exact hcol
    · exact hcol

/-- A change of a row in flight that keeps whose it is. -/
structure SameRow (g : Flight → Flight) : Prop where
  j : ∀ x, (g x).j = x.j
  m : ∀ x, (g x).m = x.m
  slot : ∀ x, (g x).slot = x.slot
  t0 : ∀ x, (g x).t0 = x.t0

/-- The engine's rows in flight are changed, each as it stands. -/
def Reflown (m n : Mxe) : Prop := n.finals = m.finals ∧ ∃ g, SameRow g ∧ n.flight = m.flight.map g

theorem Reflown.refl (m : Mxe) : Reflown m m := ⟨rfl, id, ⟨fun _ => rfl, fun _ => rfl, fun _ => rfl, fun _ => rfl⟩, (List.map_id _).symm⟩

theorem Reflown.trans {m n k : Mxe} (h : Reflown m n) (h' : Reflown n k) : Reflown m k := by
  obtain ⟨hf, g, hg, hn⟩ := h
  obtain ⟨hf', g', hg', hk⟩ := h'
  exact ⟨hf'.trans hf, g' ∘ g, ⟨fun x => (hg'.j _).trans (hg.j x), fun x => (hg'.m _).trans (hg.m x), fun x => (hg'.slot _).trans (hg.slot x),
    fun x => (hg'.t0 _).trans (hg.t0 x)⟩, by rw [hk, hn, List.map_map]⟩

theorem sameRow_ite {p : Flight → Prop} [DecidablePred p] {g : Flight → Flight} (hg : SameRow g) : SameRow fun x => if p x then g x else x :=
  ⟨fun x => by split <;> simp [hg.j], fun x => by split <;> simp [hg.m], fun x => by split <;> simp [hg.slot],
    fun x => by split <;> simp [hg.t0]⟩

theorem reflown_modFlight (m : Mxe) (f : Flight) {g : Flight → Flight} (hg : SameRow g) : Reflown m (State.modFlight m f g) :=
  ⟨rfl, _, sameRow_ite hg, rfl⟩

theorem reflown_flightColumn (m : Mxe) (f : Flight) (bias n t : Nat) : Reflown m (State.flightColumn m f bias n t) := by
  unfold State.flightColumn
  dsimp only
  split
  · exact ⟨rfl, _, sameRow_ite (g := fun x => { x with chk := chkInitCol n _ x.chk }) ⟨fun _ => rfl, fun _ => rfl, fun _ => rfl, fun _ => rfl⟩, rfl⟩
  · exact .refl m

theorem flightLand_ends {m n : Mxe} {f : Flight} (hfinal : dIsFinal f.desc = true) (hf : m.flight.find? (fun x => x.j == f.j && x.m == f.m) = some f)
    (hmn : Reflown m n) :
    ∃ r, (State.flightLand n f).finals = m.finals ++ [r] ∧ r.j = f.j ∧ r.m = f.m ∧ r.slot = f.slot ∧ r.due = f.t0 + 144 := by
  obtain ⟨hfinals, g, hg, hflight⟩ := hmn
  have hfind : n.flight.find? (fun x => x.j == f.j && x.m == f.m) = some (g f) := by
    rw [hflight, List.find?_map, show ((fun x : Flight => x.j == f.j && x.m == f.m) ∘ g) = fun x => x.j == f.j && x.m == f.m from
      funext fun x => by simp [hg.j, hg.m], hf]
    rfl
  simp only [State.flightLand, hfind, hfinal, if_true, hfinals]
  exact ⟨_, rfl, hg.j f, hg.m f, hg.slot f, congrArg (· + 144) (hg.t0 f)⟩

theorem flightStep_ends (bias : BitVec 256 → Nat → Nat) {m : Mxe} {f : Flight} (hfinal : dIsFinal f.desc = true)
    (hf : m.flight.find? (fun x => x.j == f.j && x.m == f.m) = some f) :
    ∃ r, (State.flightStep bias (f.t0 + 144) m f).finals = m.finals ++ [r] ∧ r.j = f.j ∧ r.m = f.m ∧ r.slot = f.slot ∧ r.due = f.t0 + 144 := by
  have hlt : ¬ f.t0 + 144 < f.t0 + 17 := by omega
  have hn : f.t0 + 144 - (f.t0 + 17) = 127 := by omega
  simp only [State.flightStep, if_neg hlt, hn, if_neg (show ¬ 127 = 0 by decide), hfinal, if_true]
  refine flightLand_ends hfinal hf (Reflown.trans ?_ (reflown_modFlight _ f ⟨fun _ => rfl, fun _ => rfl, fun _ => rfl, fun _ => rfl⟩))
  split
  · exact reflown_flightColumn ..
  · exact .refl m

/-- Settles O9: a feeder line, a presented row, a column of a row in flight and its end. -/
theorem rowsAreFetchedAndPresented : Obligations.RowsAreFetchedAndPresented := by
  unfold Obligations.RowsAreFetchedAndPresented
  refine ⟨?_, ?_, ?_, fun bias m f hfinal hf => flightStep_ends bias hfinal hf⟩
  · intro s c p hp hruns hpushed hat hroom hstat hstrm _ hinit
    obtain ⟨t, ht, h⟩ := fetchRows_feeds s c p
    exact ⟨t, next_congr ((feederFetch_rows hp hruns hpushed hat hroom hstat hstrm hinit).trans ht), h⟩
  · intro s c S p f hp hS hruns hstop hat hdue hfrozen hneeds hf
    obtain ⟨t, x, ht, h⟩ := presentRow_flies (p := p) (Nat.le_trans (Nat.le_add_left 1 _) hdue) hneeds hf
    exact ⟨t, x, next_congr ((streamRow_presents none hp hS hruns hstop hat hdue hfrozen).trans ht), h⟩
  · intro bias m f n hn
    rw [slots_flightStep bias m hn]
    exact ⟨get_set_same .., fun k hk => get_set_other _ _ _ _ hk⟩

end Sys2Proof.RowFlow
end

section
/-! PROOFS. Final rows: the check, the replay of a failed row, and the conversion (R102, R139-R147). -/

namespace Sys2Proof.RowCheck

open Sys2Proof Sys2Proof.Machine Sys2Proof.Laws Sys2Proof.Clauses Sys2Proof.DescriptorQueue Sys2Proof.RowFlow

theorem boundKey_ne (c : Nat) : cellKey c MXE_CHK_ROWS ≠ cellKey c MXE_CHK_BOUND := by
  unfold cellKey MXE_CHK_ROWS MXE_CHK_BOUND
  omega

/-! ### A check -/

/-- The oldest final row of cell `c`, ready for its check. -/
structure Checkable (s : State) (c : Nat) (r : FinalRow) (rest : List FinalRow) : Prop where
  runs : s.runs c = true
  frozen : s.frozenNow c = false
  finals : (s.mxe c).finals = r :: rest
  due : r.due + 3 ≤ s.arrayTime c

/-- The checked row taken from the engine, the check counted. -/
def checked (s : State) (c : Nat) (r : FinalRow) (rest : List FinalRow) : State :=
  (s.setMxe c { s.mxe c with finals := rest }).countCheck c (checkRow (r.data.map (·.toNat)) r.chk)

theorem finalCheck_eq {s : State} {c : Nat} {r : FinalRow} {rest : List FinalRow} (h : Checkable s c r rest) (bad : Bool) :
    s.finalCheck c bad = match checkRow (r.data.map (·.toNat)) r.chk with
      | .fail b d0 d1 => (checked s c r rest).rowFail c { r with loc := locate b d0 d1 r.chk.w } bad
      | _ => (checked s c r rest).rowPassed c r := by
  have hdue : ¬ s.arrayTime c < r.due + 3 := Nat.not_lt.2 h.due
  unfold State.finalCheck
  simp only [h.runs, h.frozen, h.finals, hdue, Bool.not_true, Bool.false_eq_true, if_false]
  cases hres : checkRow (r.data.map (·.toNat)) r.chk <;> simp [checked, hres]

theorem cells_countCheck (s : State) (c : Nat) (res : ChkRes) : (s.countCheck c res).cells = s.cells :=
  StartPhases.within_same (within_countCheck (List.Subset.refl _) (within_refl s)) .cells (by decide)

theorem err_countCheck (s : State) (c : Nat) (res : ChkRes) : (s.countCheck c res).err = s.err :=
  StartPhases.within_same (within_countCheck (List.Subset.refl _) (within_refl s)) .err (by decide)

theorem mxe_checked (s : State) (c : Nat) (r : FinalRow) (rest : List FinalRow) : (checked s c r rest).mxe c = { s.mxe c with finals := rest } := by
  rw [checked, mxe_of_cells (cells_countCheck ..), mxe_setMxe_same]

theorem cell_checked (s : State) (c : Nat) (r : FinalRow) (rest : List FinalRow) : ((checked s c r rest).cell c).cyc = (s.cell c).cyc := by
  rw [checked, cell_of_cells (cells_countCheck ..), State.setMxe, cell_setCell, if_pos rfl]

theorem cellsBut_checked (s : State) (c : Nat) (r : FinalRow) (rest : List FinalRow) : s.cellsBut (checked s c r rest) c :=
  cellsBut_of_cells (cellsBut_setMxe (cellsBut_refl s c) _) (cells_countCheck ..)

theorem err_checked (s : State) (c : Nat) (r : FinalRow) (rest : List FinalRow) : (checked s c r rest).err = s.err := err_countCheck ..

theorem checked_pass {s : State} {c : Nat} {r : FinalRow} {rest : List FinalRow} {b : Bool} (h : checkRow (r.data.map (·.toNat)) r.chk = .pass b)
    (hw : s.written (cellKey c MXE_CHK_ROWS) = false) :
    (checked s c r rest).fld (cellKey c MXE_CHK_ROWS) 0 64 = min (s.fld (cellKey c MXE_CHK_ROWS) 0 64 + 1) (2 ^ 64 - 1) ∧
      s.regsBut (checked s c r rest) [cellKey c MXE_CHK_ROWS, cellKey c MXE_CHK_BOUND] := by
  have hw' (m : Mxe) : (s.setMxe c m).written (cellKey c MXE_CHK_ROWS) = false := hw
  rw [checked, h]
  simp only [State.countCheck]
  have hstep : (s.setMxe c { s.mxe c with finals := rest }).incSatUn (cellKey c MXE_CHK_ROWS) 0 64 1 =
      (s.setMxe c { s.mxe c with finals := rest }).incSat (cellKey c MXE_CHK_ROWS) 0 64 1 := by
    rw [State.incSatUn, hw', if_neg (by decide)]
  rw [hstep]
  have hfld := fld_incSat_same (s.setMxe c { s.mxe c with finals := rest }) (k := cellKey c MXE_CHK_ROWS) (lo := 0) (w := 64) 1 (by decide)
  have hregs : s.regsBut ((s.setMxe c { s.mxe c with finals := rest }).incSat (cellKey c MXE_CHK_ROWS) 0 64 1)
      [cellKey c MXE_CHK_ROWS, cellKey c MXE_CHK_BOUND] := regsBut_setFld (fun k _ => setMxe_reg ..) (by simp) _ _ _
  rw [setMxe_fld] at hfld
  split
  · refine ⟨?_, regsBut_incSatUn hregs (by simp) _ _ _⟩
    rw [fld_of_regsBut (regsBut_incSatUn (regsBut_refl _ [cellKey c MXE_CHK_BOUND]) (List.mem_singleton_self _) _ _ _)
      (by simpa using boundKey_ne c), hfld]
  · exact ⟨hfld, hregs⟩

theorem conv_rowPassed (s : State) (c : Nat) (r : FinalRow) : (s.rowPassed c r).mxe c = retire { s.mxe c with conv := (s.mxe c).conv ++ [r] } :=
  mxe_setMxe_same ..

/-! ### A failed row -/

theorem locate_bits (b : Bool) (d0 d1 : Int) {w : Nat} (hw : w ≤ 128) : (locate b d0 d1 w).1 < 2 ^ 8 ∧ (locate b d0 d1 w).2 < 2 ^ 3 := by
  unfold locate
  split_ifs with h1 h2 h3 h4
  · exact ⟨by decide, by decide⟩
  · exact ⟨by decide, by decide⟩
  · exact ⟨by decide, by decide⟩
  · obtain ⟨-, -, hle⟩ := h4
    refine ⟨?_, show 1 < 2 ^ 3 by decide⟩
    show (d1 / d0 - 1).toNat < 2 ^ 8
    omega
  · exact ⟨by decide, by decide⟩

theorem chkLast_outcome {loc : Nat × Nat} (h1 : loc.1 < 2 ^ 8) (h2 : loc.2 < 2 ^ 3) {outcome : Nat} (ho : outcome < 4) (slot j : Nat) :
    bits (BitVec.ofNat 64 (chkLast loc outcome slot j)).toNat 11 2 = outcome := by
  rw [BitVec.toNat_ofNat, bits, chkLast]
  omega

theorem readKeeps_checkRecord (s : State) (c cls outcome : Nat) (r : FinalRow) : ReadKeeps c s (s.checkRecord c cls outcome r) :=
  (readKeeps_queueTest s c 0 s.err.nextSn 0).trans (readKeeps_of_cells (by rw [State.checkRecord, raise_cells, setReg_cells]))

theorem mxe_queueTest (s : State) (c unit sn word : Nat) : (s.queueTest c unit sn word).mxe c = s.mxe c := by
  unfold State.queueTest
  dsimp only
  split_ifs
  · rfl
  · rw [State.mxe, cell_setCell, if_pos rfl]
    rfl

theorem mxe_checkRecord (s : State) (c cls outcome : Nat) (r : FinalRow) : (s.checkRecord c cls outcome r).mxe c = s.mxe c := by
  rw [State.checkRecord, raise_mxe, setReg_mxe, mxe_queueTest]

theorem err_queueTest (s : State) (c unit sn word : Nat) : (s.queueTest c unit sn word).err = s.err :=
  StartPhases.within_same (within_queueTest (List.Subset.refl _) (within_refl s)) .err (by decide)

theorem logs_checkRecord {s t : State} (h : t.err.recQ = s.err.recQ) (c cls outcome : Nat) (r : FinalRow) :
    s.logs (t.checkRecord c cls outcome r) cls (.cell c 0) (chkLast r.loc outcome r.slot r.j) := by
  rw [State.checkRecord]
  exact logs_raise (by rw [setReg_err, err_queueTest, h]) ..

theorem fld_checkRecord (s : State) (c cls outcome : Nat) (r : FinalRow) (lo w : Nat) :
    (s.checkRecord c cls outcome r).fld (cellKey c MXE_CHK_LAST) lo w = bits (BitVec.ofNat 64 (chkLast r.loc outcome r.slot r.j)).toNat lo w := by
  rw [State.checkRecord, raise_fld, State.fld, reg_setReg, if_pos rfl]

theorem mxe_rowLost (s : State) (c outcome : Nat) (r : FinalRow) :
    (s.rowLost c outcome r).mxe c = { s.mxe c with noStart := true, lost := (r.slot, r.init, r.j) :: (s.mxe c).lost } := by
  rw [State.rowLost, mxe_checkRecord, mxe_setMxe_same]

theorem logs_rowLost {s t : State} (h : t.err.recQ = s.err.recQ) (c outcome : Nat) (r : FinalRow) :
    s.logs (t.rowLost c outcome r) 0x16 (.cell c 0) (chkLast r.loc outcome r.slot r.j) := by
  rw [State.rowLost]
  exact logs_checkRecord (by rw [setMxe_err, h]) ..

theorem rowFail_replays {s : State} {c : Nat} {r : FinalRow} (hok : r.replayOk = true) (he : r.epoch = (s.mxe c).epoch) :
    s.rowFail c r false = (s.setReg (cellKey c MXE_CHK_LAST) (BitVec.ofNat 64 (chkLast r.loc 0 r.slot r.j))).setMxe c
      { s.mxe c with replay := some r, replayAt := (s.cell c).cyc } := by
  rw [State.rowFail, if_pos ⟨hok, he⟩, if_neg (by decide)]
  dsimp only
  rw [setReg_mxe, setReg_cell]

theorem rowFail_lost {s : State} {c : Nat} {r : FinalRow} (hok : r.replayOk = false) (bad : Bool) : s.rowFail c r bad = s.rowLost c 3 r :=
  if_neg fun h => by simp [hok] at h

/-! ### A replay's verdict -/

theorem slot_replayRun (s : State) (c : Nat) (r : FinalRow) : (s.replayRun c r none).s.slot = s.slot := by
  obtain ⟨-, hslot, -⟩ := within_replayRun (s0 := s) (List.Subset.refl _) (within_refl s)
  exact hslot

theorem mxe_endReplay (s : State) (c : Nat) : (s.endReplay c).mxe c = { s.mxe c with replay := none, holdTo := s.slot + 1 } := mxe_setMxe_same ..

/-- The engine with the replayed row's slots, where the row's pass is still the last to name its slot. -/
def replaced (m : Mxe) (r : FinalRow) (a : State.Replay) : Mxe :=
  { m with
    slots := if (SMap.get m.info r.slot SlotMeta.reset).namedBy = r.j then
      a.data.zipIdx.foldl (fun x q => SMap.set x (State.slotKey r.slot q.2) (BitVec.ofNat 128 q.1) 0) m.slots else m.slots
    chk := if (SMap.get m.info r.slot SlotMeta.reset).namedBy = r.j then SMap.put m.chk r.slot a.chk else m.chk }

theorem replayVerdict_passes {s : State} {c : Nat} {r : FinalRow} (hr : (s.mxe c).replay = some r) (hok : (s.replayRun c r none).ok = true)
    (hchk : ∀ b d0 d1, checkRow (s.replayRun c r none).data (s.replayRun c r none).chk ≠ .fail b d0 d1) :
    s.replayVerdict c none = ((((s.replayRun c r none).s.endReplay c).setMxe c
        (replaced (((s.replayRun c r none).s.endReplay c).mxe c) r (s.replayRun c r none))).checkRecord c 0x15 1 r).rowPassed c
      { r with data := (s.replayRun c r none).data.map (BitVec.ofNat 128), chk := (s.replayRun c r none).chk } := by
  unfold State.replayVerdict
  rw [hr]
  dsimp only
  rw [hok]
  split
  · exact absurd ‹_› (hchk _ _ _)
  · exact if_pos rfl

theorem replayVerdict_lost {s : State} {c : Nat} {r : FinalRow} (hr : (s.mxe c).replay = some r) (hok : (s.replayRun c r none).ok = false) :
    s.replayVerdict c none = ((s.replayRun c r none).s.endReplay c).rowLost c 2 r := by
  unfold State.replayVerdict
  rw [hr]
  dsimp only
  rw [hok]
  rfl

/-! ### The conversion -/

theorem convertRow_eq (s : State) (c : Nat) (r : FinalRow) (u : Nat) :
    ∃ (row : DRow) (n : Mxe) (nan ovf : Nat), s.convertRow c r u = (((s.setMxe c n).incSatUn (cellKey c MXE_ARITH_CNT) 0 16 nan).incSatUn
        (cellKey c MXE_ARITH_CNT) 16 16 ovf).act c 7 (dNp r.desc) ∧
      n.drain = (s.mxe c).drain ++ [row] ∧ n.conv = (s.mxe c).conv ∧ row.j = r.j ∧
      row.addr = dOut r.desc + 64 * dOutStride r.desc * r.m ∧ row.lines = 0 ∧ row.enter = u + 2 :=
  ⟨_, _, _, _, rfl, rfl, rfl, rfl, rfl, rfl, rfl⟩

theorem finalCheck_passes {s : State} {c : Nat} {r : FinalRow} {rest : List FinalRow} {b : Bool} (h : Checkable s c r rest)
    (hchk : checkRow (r.data.map (·.toNat)) r.chk = .pass b) (hw : s.written (cellKey c MXE_CHK_ROWS) = false) :
    ∃ t, s.finalCheck c false = t ∧ (t.mxe c).finals = rest ∧ (t.mxe c).conv = (s.mxe c).conv ++ [r] ∧ (t.mxe c).drain = (s.mxe c).drain ∧
      t.fld (cellKey c MXE_CHK_ROWS) 0 64 = min (s.fld (cellKey c MXE_CHK_ROWS) 0 64 + 1) (2 ^ 64 - 1) ∧ t.err = s.err ∧
      s.regsBut t [cellKey c MXE_CHK_ROWS, cellKey c MXE_CHK_BOUND] ∧ s.cellsBut t c := by
  obtain ⟨hfld, hregs⟩ := checked_pass (rest := rest) hchk hw
  have heq := finalCheck_eq h false
  rw [hchk] at heq
  refine ⟨_, heq, ?_, ?_, ?_, hfld, err_checked .., hregs, cellsBut_setMxe (cellsBut_checked s c r rest) _⟩
  all_goals rw [conv_rowPassed, mxe_checked]; rfl

theorem convertNext_drains {s : State} {c u : Nat} {r : FinalRow} {rest : List FinalRow} (hconv : (s.mxe c).conv = r :: rest) (hu : r.due + 4 ≤ u) :
    ∃ row, ((s.convertNext c u).mxe c).drain = (s.mxe c).drain ++ [row] ∧ ((s.convertNext c u).mxe c).conv = rest ∧ row.j = r.j ∧
      row.addr = dOut r.desc + 64 * dOutStride r.desc * r.m ∧ row.lines = 0 ∧ row.enter = u + 2 ∧
      s.regsBut (s.convertNext c u) [cellKey c MXE_ARITH_CNT] ∧ (s.convertNext c u).err = s.err := by
  have heq : s.convertNext c u = (s.setMxe c { s.mxe c with conv := rest }).convertRow c r u := by
    simp [State.convertNext, hconv, hu]
  obtain ⟨row, n, nan, ovf, hrow, hdrain, hkeep, hj, haddr, hlines, henter⟩ := convertRow_eq (s.setMxe c { s.mxe c with conv := rest }) c r u
  rw [mxe_setMxe_same] at hdrain hkeep
  rw [heq, hrow]
  refine ⟨row, ?_, ?_, hj, haddr, hlines, henter, ?_, ?_⟩
  · rw [act_mxe, mxe_of_cells (cells_incSatUn ..), mxe_of_cells (cells_incSatUn ..), mxe_setMxe_same, hdrain]
  · rw [act_mxe, mxe_of_cells (cells_incSatUn ..), mxe_of_cells (cells_incSatUn ..), mxe_setMxe_same, hkeep]
  · exact regsBut_of_regs (regsBut_incSatUn (regsBut_incSatUn (fun k _ => by simp) (List.mem_singleton_self _) _ _ _) (List.mem_singleton_self _) _ _ _)
      (act_part ..) (act_regs ..)
  · rw [act_err, err_incSatUn, err_incSatUn, setMxe_err, setMxe_err]

theorem finalCheck_replays {s : State} {c : Nat} {r : FinalRow} {rest : List FinalRow} {b : Bool} {d0 d1 : Int} (h : Checkable s c r rest)
    (hchk : checkRow (r.data.map (·.toNat)) r.chk = .fail b d0 d1) (hok : r.replayOk = true) (he : r.epoch = (s.mxe c).epoch) :
    ∃ t, s.finalCheck c false = t ∧ (t.mxe c).replayAt = (s.cell c).cyc ∧ (t.mxe c).replay = some { r with loc := locate b d0 d1 r.chk.w } ∧
      (t.mxe c).finals = rest ∧ (t.mxe c).conv = (s.mxe c).conv ∧ t.err = s.err ∧ s.cellsBut t c := by
  have heq := finalCheck_eq h false
  rw [hchk] at heq
  dsimp only at heq
  rw [rowFail_replays (r := { r with loc := locate b d0 d1 r.chk.w }) hok (he.trans (by rw [mxe_checked])), mxe_checked, cell_checked] at heq
  refine ⟨_, heq, ?_, ?_, ?_, ?_, ?_, cellsBut_setMxe (cellsBut_of_cells (cellsBut_checked s c r rest) (setReg_cells ..)) _⟩
  · rw [mxe_setMxe_same]
  · rw [mxe_setMxe_same]
  · rw [mxe_setMxe_same]
  · rw [mxe_setMxe_same]
  · rw [setMxe_err, setReg_err, err_checked]

theorem finalCheck_loses {s : State} {c : Nat} {r : FinalRow} {rest : List FinalRow} {b : Bool} {d0 d1 : Int} (h : Checkable s c r rest)
    (hchk : checkRow (r.data.map (·.toNat)) r.chk = .fail b d0 d1) (hok : r.replayOk = false) (hw : r.chk.w ≤ 128) :
    ∃ t, s.finalCheck c false = t ∧ (t.mxe c).noStart = true ∧ (t.mxe c).conv = (s.mxe c).conv ∧ t.fld (cellKey c MXE_CHK_LAST) 11 2 = 3 ∧
      s.logs t 0x16 (.cell c 0) (chkLast (locate b d0 d1 r.chk.w) 3 r.slot r.j) := by
  obtain ⟨h1, h2⟩ := locate_bits b d0 d1 hw
  have heq := finalCheck_eq h false
  rw [hchk] at heq
  dsimp only at heq
  rw [rowFail_lost (r := { r with loc := locate b d0 d1 r.chk.w }) hok] at heq
  refine ⟨_, heq, ?_, ?_, ?_, ?_⟩
  · rw [mxe_rowLost]
  · rw [mxe_rowLost, mxe_checked]
  · rw [State.rowLost, fld_checkRecord, chkLast_outcome h1 h2 (by decide)]
  · exact logs_rowLost (congrArg Err.recQ (err_checked ..)) ..

theorem verdict_recovers {s : State} {c : Nat} {r : FinalRow} (hr : (s.mxe c).replay = some r) (hok : (s.replayRun c r none).ok = true)
    (hchk : ∀ b d0 d1, checkRow (s.replayRun c r none).data (s.replayRun c r none).chk ≠ .fail b d0 d1) :
    ∃ t row, s.replayVerdict c none = t ∧ (t.mxe c).replay = none ∧ (t.mxe c).holdTo = s.slot + 1 ∧
      (t.mxe c).conv = ((s.replayRun c r none).s.mxe c).conv ++ [row] ∧ row.j = r.j ∧ row.m = r.m ∧
      (s.replayRun c r none).s.logs t 0x15 (.cell c 0) (chkLast r.loc 1 r.slot r.j) := by
  have hslot := slot_replayRun s c r
  refine ⟨_, { r with data := (s.replayRun c r none).data.map (BitVec.ofNat 128), chk := (s.replayRun c r none).chk },
    replayVerdict_passes hr hok hchk, ?_⟩
  generalize s.replayRun c r none = a at hslot ⊢
  rw [conv_rowPassed, mxe_checkRecord, mxe_setMxe_same, mxe_endReplay, hslot]
  exact ⟨rfl, rfl, rfl, rfl, rfl, logs_of_err (logs_checkRecord (s := a.s) (t := (State.endReplay _ _).setMxe _ _) rfl c 0x15 1 r)
    (congrArg Err.recQ (setMxe_err ..))⟩

theorem verdict_loses {s : State} {c : Nat} {r : FinalRow} (hr : (s.mxe c).replay = some r) (hok : (s.replayRun c r none).ok = false) :
    ∃ t, s.replayVerdict c none = t ∧ (t.mxe c).replay = none ∧ (t.mxe c).holdTo = s.slot + 1 ∧ (t.mxe c).noStart = true ∧
      (t.mxe c).conv = ((s.replayRun c r none).s.mxe c).conv ∧ (s.replayRun c r none).s.logs t 0x16 (.cell c 0) (chkLast r.loc 2 r.slot r.j) := by
  have hslot := slot_replayRun s c r
  refine ⟨_, replayVerdict_lost hr hok, ?_⟩
  generalize s.replayRun c r none = a at hslot ⊢
  rw [mxe_rowLost, mxe_endReplay, hslot]
  exact ⟨rfl, rfl, rfl, rfl, logs_rowLost (s := a.s) (t := State.endReplay _ _) rfl ..⟩

/-- Settles O10: rows that pass, rows that fail, and the verdict of a replay. -/
theorem checkedRowsGoOnOrReplay : Obligations.CheckedRowsGoOnOrReplay := by
  unfold Obligations.CheckedRowsGoOnOrReplay
  refine ⟨⟨?_, fun s c u r rest hconv hu => convertNext_drains hconv hu⟩, ⟨?_, ?_, ?_⟩, ?_, ?_⟩
  · intro s c r rest b hruns hfrozen hfinals hdue hchk hw
    obtain ⟨t, ht, h⟩ := finalCheck_passes ⟨hruns, hfrozen, hfinals, hdue⟩ hchk hw
    exact ⟨t, next_congr ht, h⟩
  · intro s c r rest b d0 d1 hruns hfrozen hfinals hdue hchk hok he
    obtain ⟨t, ht, h⟩ := finalCheck_replays ⟨hruns, hfrozen, hfinals, hdue⟩ hchk hok he
    exact ⟨t, next_congr ht, h⟩
  · intro s c hsome hlt
    rw [State.mxe] at hsome hlt
    simp [State.isHeld, hsome, hlt]
  · intro s c r rest b d0 d1 hruns hfrozen hfinals hdue hchk hok hw
    obtain ⟨t, ht, h⟩ := finalCheck_loses ⟨hruns, hfrozen, hfinals, hdue⟩ hchk hok hw
    exact ⟨t, next_congr ht, h⟩
  · intro s c r hr hok hchk
    obtain ⟨t, row, ht, h⟩ := verdict_recovers hr hok hchk
    exact ⟨t, row, next_congr ht, h⟩
  · intro s c r hr hok
    obtain ⟨t, ht, h⟩ := verdict_loses hr hok
    exact ⟨t, next_congr ht, h⟩

end Sys2Proof.RowCheck
end

section
/-! PROOFS. Runs of whole words in a scratchpad, byte by byte. -/

namespace Sys2Proof.WordRuns

open Sys2Proof Sys2Proof.Machine Sys2Proof.Laws Sys2Proof.Clauses Sys2Proof.Scratchpad
open Sys2Proof.Machine.State (covered mergeBytes wordsOf)

/-! ### Bytes of a number -/

theorem ofLe_digit (l : List Byte) {i : Nat} (hi : i < l.length) : ofLe l / 256 ^ i % 256 = (l[i]).toNat := by
  induction l generalizing i with
  | nil => exact absurd hi (Nat.not_lt_zero i)
  | cons b l ih =>
    have hb : b.toNat < 256 := b.isLt
    have hcons : ofLe (b :: l) = b.toNat + 256 * ofLe l := rfl
    rw [hcons]
    cases i with
    | zero =>
      rw [Nat.pow_zero, Nat.div_one, List.getElem_cons_zero]
      omega
    | succ i =>
      rw [Nat.pow_succ', ← Nat.div_div_eq_div_mul, show (b.toNat + 256 * ofLe l) / 256 = ofLe l by omega, List.getElem_cons_succ]
      exact ih (by simpa using hi)

theorem byte_of_wordAt (s : State) (c : Nat) {o i : Nat} (ho : o % 8 = 0) (hi : i < 8) :
    (s.byte (spmKey c (o + i))).toNat = s.wordAt c o / 256 ^ i % 256 := by
  have ho' : o / 8 * 8 = o := by omega
  have hlen : (s.bytes (spmKey c o) 8).length = 8 := by rw [State.bytes, List.length_map, List.length_range]
  have hkey : spmKey c (o + i) = spmKey c o + i := by
    unfold spmKey
    omega
  rw [State.wordAt, ho', ofLe_digit _ (hlen.symm ▸ hi), hkey]
  simp [State.bytes]

theorem byte_of_stored {s : State} {c o i : Nat} {l : List Byte} (ho : o % 8 = 0) (hi : i < 8) (hl : l.length = 8) (h : s.wordAt c o = ofLe l) :
    some (s.byte (spmKey c (o + i))) = l[i]? := by
  rw [List.getElem?_eq_getElem (hl.symm ▸ hi), Option.some_inj]
  apply BitVec.eq_of_toNat_eq
  rw [byte_of_wordAt s c ho hi, h, ofLe_digit l (hl.symm ▸ hi)]

/-! ### The words that data covers -/

theorem covered_whole {off o : Nat} {bs : List Byte} (hlo : off ≤ o) (hhi : o + 8 ≤ off + bs.length) :
    covered off o bs = ((bs.drop (o - off)).take 8).zipIdx.map fun p => (p.2, p.1) := by
  apply List.ext_getElem?
  intro i
  have hcov : covered off o bs = (List.range 8).map fun i => (i, (bs[o + i - off]?).getD 0) := by
    rw [covered, ← List.filterMap_eq_map]
    refine List.filterMap_congr fun i hi => ?_
    rw [List.mem_range] at hi
    rw [if_pos (by omega)]
    simp [show o + i - off < bs.length by omega]
  rw [hcov]
  by_cases hi : i < 8
  · simp [hi, show o + i - off = o - off + i by omega, show o - off + i < bs.length by omega]
  · simp [hi]

theorem length_covered {off o : Nat} {bs : List Byte} (hlo : off ≤ o) (hhi : o + 8 ≤ off + bs.length) : (covered off o bs).length = 8 := by
  rw [covered_whole hlo hhi, List.length_map, List.length_zipIdx, List.length_take, List.length_drop]
  omega

theorem find?_zipIdx (l : List Byte) {i : Nat} (hi : i < l.length) :
    (l.zipIdx.map fun p => (p.2, p.1)).find? (fun p => p.1 == i) = some (i, l[i]) := by
  rw [List.find?_eq_some_iff_getElem]
  refine ⟨by simp, i, by simpa using hi, by simp, fun j hj => by simpa using (Nat.ne_of_lt hj)⟩

/-- A word that the data covers whole takes eight of its bytes. -/
theorem mergeBytes_whole {off o : Nat} {bs : List Byte} (w : Nat) (hlo : off ≤ o) (hhi : o + 8 ≤ off + bs.length) :
    mergeBytes w (covered off o bs) = ofLe ((bs.drop (o - off)).take 8) := by
  have hlen : ((bs.drop (o - off)).take 8).length = 8 := by
    rw [List.length_take, List.length_drop]
    omega
  rw [covered_whole hlo hhi]
  generalize (bs.drop (o - off)).take 8 = l at hlen ⊢
  rw [mergeBytes]
  congr 1
  apply List.ext_getElem
  · simp [hlen]
  · intro i hi _
    have hi8 : i < l.length := by simpa [hlen] using hi
    simp only [List.getElem_map, List.getElem_range, find?_zipIdx l hi8]

theorem wordsOf_whole {off n : Nat} (ho : off % 8 = 0) : wordsOf off (8 * n) = (List.range n).map fun j => off + 8 * j := by
  unfold wordsOf
  split
  · rw [show n = 0 by omega]
    rfl
  · rw [show (off + 8 * n - 1) / 8 - off / 8 + 1 = n by omega]
    exact List.map_congr_left fun j _ => by omega

/-- Storing a word of the data at each place of a run of `n` words. -/
theorem storesWords_foldl {s s0 : State} {c off n : Nat} {bs : List Byte} {step : State → Nat → State} (ho : off % 8 = 0)
    (hlen : bs.length = 8 * n) (htop : off + 8 * n ≤ 0x180000) (hs : StoresWords s s0 c off 0 (fun j => ofLe ((bs.drop (8 * j)).take 8))
      fun j => eccByte (ofLe ((bs.drop (8 * j)).take 8)))
    (hstep : ∀ t j, j < n → step t (off + 8 * j) = t.writeWord c (off + 8 * j) (ofLe ((bs.drop (8 * j)).take 8))) :
    StoresWords s ((wordsOf off (8 * n)).foldl step s0) c off n (fun j => ofLe ((bs.drop (8 * j)).take 8))
      fun j => eccByte (ofLe ((bs.drop (8 * j)).take 8)) := by
  rw [wordsOf_whole ho, List.foldl_map]
  have hfold (k : Nat) (hk : k ≤ n) : StoresWords s ((List.range k).foldl (fun t j => step t (off + 8 * j)) s0) c off k
      (fun j => ofLe ((bs.drop (8 * j)).take 8)) fun j => eccByte (ofLe ((bs.drop (8 * j)).take 8)) := by
    induction k with
    | zero => exact hs
    | succ k ih =>
      rw [List.range_succ, List.foldl_append, List.foldl_cons, List.foldl_nil, hstep _ k hk]
      exact (ih (by omega)).putWord ho (by omega)
  exact hfold n le_rfl

/-- What the data's bytes read afterwards. -/
theorem byte_of_storesWords {s t : State} {c off n : Nat} {bs : List Byte} {chk : Nat → Nat} (ho : off % 8 = 0) (hlen : bs.length = 8 * n)
    (h : StoresWords s t c off n (fun j => ofLe ((bs.drop (8 * j)).take 8)) chk) {i : Nat} (hi : i < 8 * n) :
    some (t.byte (spmKey c (off + i))) = bs[i]? := by
  have hw := h.word (i / 8) (by omega)
  have hl : ((bs.drop (8 * (i / 8))).take 8).length = 8 := by
    rw [List.length_take, List.length_drop]
    omega
  have hlt : ofLe ((bs.drop (8 * (i / 8))).take 8) < 2 ^ 64 := by
    have := ofLe_lt ((bs.drop (8 * (i / 8))).take 8)
    rw [hl] at this
    omega
  rw [Nat.mod_eq_of_lt hlt] at hw
  have hb := byte_of_stored (i := i % 8) (by omega) (by omega) hl hw
  rw [show off + i = off + 8 * (i / 8) + i % 8 by omega, hb, List.getElem?_take, if_pos (by omega), List.getElem?_drop]
  congr 1
  omega

end Sys2Proof.WordRuns
end

section
/-! PROOFS. The drain, passes that end, ballast and patterns, a flush and the clears (R102, R108-R115, R120, R145-R149). -/

namespace Sys2Proof.DrainAndFlush

open Sys2Proof Sys2Proof.Machine Sys2Proof.Laws Sys2Proof.Clauses Sys2Proof.DescriptorQueue Sys2Proof.RowFlow Sys2Proof.RowCheck Sys2Proof.WordRuns
open Sys2Proof.Scratchpad

/-! ### A line of the drain -/

/-- The words of a line, drained one after the other. -/
theorem drainWords_stores {s : State} {c off i n m : Nat} {bs : List Byte} (ho : off % 8 = 0) (hlen : bs.length = 8 * m) (htop : off + 8 * m ≤ 0x180000) :
    StoresWords s ((s.act c i n).drainWords c off bs) c off m (fun j => ofLe ((bs.drop (8 * j)).take 8))
      fun j => eccByte (ofLe ((bs.drop (8 * j)).take 8)) := by
  rw [State.drainWords, hlen]
  refine storesWords_foldl ho hlen htop (.act ..) fun t j hj => ?_
  rw [if_pos (length_covered (Nat.le_add_right ..) (by omega)), mergeBytes_whole _ (Nat.le_add_right ..) (by omega), Nat.add_sub_cancel_left]

/-- The engine once the oldest drained row has left. -/
def drained (s : State) (c : Nat) (r : DRow) (rest : List DRow) : Mxe :=
  let n := { s.mxe c with drain := rest, drainAt := (s.cell c).cyc + 1, drainFreed := (s.cell c).cyc + 1 }
  if r.last then modPass n r.j fun q => { q with lastOut := true } else n

theorem queue_drained (s : State) (c : Nat) (r : DRow) (rest : List DRow) :
    (drained s c r rest).queue = (s.mxe c).queue.map fun q => if r.last = true ∧ q.j = r.j then { q with lastOut := true } else q := by
  unfold drained
  dsimp only
  split
  · rw [queue_modPass]
    simp [*]
  · simp [*]

theorem drain_drained (s : State) (c : Nat) (r : DRow) (rest : List DRow) : (drained s c r rest).drain = rest := by
  unfold drained
  dsimp only
  split <;> rfl

theorem drainLine_eq {s : State} {c : Nat} {r : DRow} {rest : List DRow} (hdrain : (s.mxe c).drain = r :: rest) (hruns : s.runs c = true)
    (hno : (s.mxe c).noDrain = false) (hat : (s.mxe c).drainAt ≠ (s.cell c).cyc + 1) (henter : r.enter < s.arrayTime c)
    (hlen : r.bytes.length = 64 * (r.lines + 1)) (hcheck : s.spmCheck c (r.addr + 64 * r.lines) 3 false = none) :
    s.drainLine c = ((s.setMxe c (drained s c r rest)).act c 1 1).drainWords c (r.addr + 64 * r.lines) ((r.bytes.drop (64 * r.lines)).take 64) := by
  have hgo : ¬ (s.arrayTime c ≤ r.enter) := Nat.not_le.2 henter
  have hdone : r.bytes.length ≤ 64 * (r.lines + 1) := Nat.le_of_eq hlen
  simp only [State.drainLine, hdrain, hruns, hno, hat, hgo, hcheck, hdone, drained]
  simp

theorem drainLine_stores {s : State} {c : Nat} {r : DRow} {rest : List DRow} (hdrain : (s.mxe c).drain = r :: rest) (hruns : s.runs c = true)
    (hno : (s.mxe c).noDrain = false) (hat : (s.mxe c).drainAt ≠ (s.cell c).cyc + 1) (henter : r.enter < s.arrayTime c) (haddr : r.addr % 64 = 0)
    (hlen : r.bytes.length = 64 * (r.lines + 1)) (hcheck : s.spmCheck c (r.addr + 64 * r.lines) 3 false = none) :
    ∃ t, s.drainLine c = t ∧ (t.mxe c).drain = rest ∧
      (t.mxe c).queue = ((s.mxe c).queue.map fun q => if r.last = true ∧ q.j = r.j then { q with lastOut := true } else q) ∧
      (∀ i, i < 64 → some (t.byte (spmKey c (r.addr + 64 * r.lines + i))) = r.bytes[64 * r.lines + i]?) ∧
      (∀ k, (∀ i, i < 64 → k ≠ spmKey c (r.addr + 64 * r.lines + i) ∧ k ≠ spmChkKey c (r.addr + 64 * r.lines + i)) →
        t.byte k = s.byte k) ∧ t.regs = s.regs ∧ t.err = s.err ∧ s.cellsBut t c := by
  have htop : r.addr + 64 * r.lines < 0x180000 := by
    refine Nat.lt_of_not_le fun h => ?_
    simp [State.spmCheck, h] at hcheck
  have hbs : ((r.bytes.drop (64 * r.lines)).take 64).length = 8 * 8 := by
    rw [List.length_take, List.length_drop]
    omega
  have hstores := drainWords_stores (s := s.setMxe c (drained s c r rest)) (c := c) (i := 1) (n := 1) (off := r.addr + 64 * r.lines) (by omega) hbs (by omega)
  refine ⟨_, drainLine_eq hdrain hruns hno hat henter hlen hcheck, ?_⟩
  generalize State.drainWords _ _ _ _ = t at hstores
  obtain ⟨m, hcell⟩ := hstores.cell
  have hmxe : t.mxe c = drained s c r rest := by
    rw [State.mxe, hcell]
    exact mxe_setMxe_same ..
  refine ⟨by rw [hmxe, drain_drained], by rw [hmxe, queue_drained], fun i hi => ?_, fun k hk => ?_, hstores.regs, hstores.err, fun e he => ?_⟩
  · rw [byte_of_storesWords (by omega) hbs hstores (show i < 8 * 8 from hi), List.getElem?_take, if_pos hi, List.getElem?_drop]
  · exact (hstores.otherByte k fun i hi => hk i (by omega)).trans (setMxe_byte ..)
  · exact (hstores.cells e he).trans (cellsBut_setMxe (cellsBut_refl s c) _ e he)

/-! ### The end of a pass -/

theorem passComplete_ends {s : State} {c : Nat} {p : Pass} (hp : (s.mxe c).queue.find? (s.passDone c) = some p) (hruns : s.runs c = true) :
    ∃ t, s.passComplete c = t ∧ (t.mxe c).queue = (s.mxe c).queue.filter (fun q => q.j != p.j) ∧
      t.queueAtStart c = (t.mxe c).queue.length + (t.mxe c).freed.2 ∧ 0 < (t.mxe c).freed.2 ∧
      t.fld (cellKey c MXE_PASS_DONE) 0 32 = (s.fld (cellKey c MXE_PASS_DONE) 0 32 + 1) % 2 ^ 32 ∧
      s.regsBut t [cellKey c MXE_PASS_DONE] ∧ t.err = s.err ∧ s.cellsBut t c := by
  refine ⟨_, rfl, ?_⟩
  simp only [State.passComplete, hp, hruns, Bool.not_true, Bool.false_eq_true, if_false]
  refine ⟨?_, ?_, ?_, ?_, regsBut_setFld (fun k _ => setMxe_reg ..) (List.mem_singleton_self _) _ _ _, rfl, cellsBut_setMxe (cellsBut_refl s c) _⟩
  · rw [incWrap_mxe, mxe_setMxe_same]
  · have hcyc : ∀ m, ((s.setMxe c m).cell c).cyc = (s.cell c).cyc := fun m => by rw [State.setMxe, cell_setCell, if_pos rfl]
    rw [State.queueAtStart, incWrap_mxe, incWrap_cell, mxe_setMxe_same, hcyc, if_pos rfl]
  · rw [incWrap_mxe, mxe_setMxe_same]
    exact Nat.succ_pos _
  · rw [State.incWrap, fld_setFld_same _ _ (by decide), setMxe_fld]

/-! ### Ballast and patterns -/

theorem ballastRow_counts {s : State} {c : Nat} (hen : s.fld (cellKey c MXE_BAL_CTRL) 0 1 = 1) (hruns : s.runs c = true) (hqueue : (s.mxe c).queue = [])
    (hstream : (s.mxe c).streamAt ≠ (s.cell c).cyc + 1) (hbal : (s.mxe c).ballastAt ≠ (s.cell c).cyc + 1) (hfrozen : s.frozenNow c = false) :
    s.ballastRow c false = (s.setMxe c { s.mxe c with ballastAt := (s.cell c).cyc + 1, balRows := (s.mxe c).balRows + 1 }).act c 0 64 := by
  have hstreamPass : streamPass (s.mxe c) = none := by simp [streamPass, hqueue]
  have hnext : nextPass (s.mxe c) = none := by simp [nextPass, hqueue]
  simp only [State.ballastRow, hstreamPass, hnext, hen, hruns, hstream, hbal, hfrozen]
  simp

theorem patternLoad_loads {s : State} {c : Nat} (hen : s.fld (cellKey c MXE_BAL_CTRL) 0 1 = 1) (hseq : (s.mxe c).seq = 0) (hqueue : (s.mxe c).queue = [])
    (hruns : s.runs c = true) (howner : (easelOf (s.mxe c) 0).owner = none) (hpattern : (easelOf (s.mxe c) 0).pattern = none) :
    s.patternLoad c = s.setMxe c (setEasel (s.mxe c) 0 { Easel.free with block := Config.ballastPattern c 0, pattern := some (s.cell c).cyc }) := by
  have hfind : (List.range 4).find? (fun i => (easelOf (s.mxe c) i).owner.isNone && (easelOf (s.mxe c) i).pattern.isNone) = some 0 := by
    simp [show List.range 4 = 0 :: [1, 2, 3] from rfl, howner, hpattern]
  rw [State.patternLoad, if_pos ⟨hen, hseq, hqueue, hruns⟩, hfind]

theorem easelOf_setEasel_other (m : Mxe) {i j : Nat} (e : Easel) (h : i % 4 ≠ j % 4) : easelOf (setEasel m j e) i = easelOf m i := by
  simp [easelOf, setEasel, List.getElem?_set, Ne.symm h]

/-! ### A flush -/

theorem mxeCycle_flushes {s : State} {c : Nat} (hf : ((afterStages s c).mxe c).flushDue = true) : s.mxeCycle c = (afterStages s c).mxeFlushNow c := by
  have heq : s.mxeCycle c = if ((afterStages s c).mxe c).flushDue then (afterStages s c).mxeFlushNow c
    else if ((afterStages s c).mxe c).pushFails = [] then afterStages s c else (afterStages s c).pushRecords c := rfl
  rw [heq, if_pos hf]

/-- What a flush leaves of an engine in which no replay runs. -/
theorem flushNow_idle {u : State} {c : Nat} (hr : (u.mxe c).replay = none) :
    u.mxeFlushNow c = (u.setMxe c (State.flushed (u.mxe c))).setReg (cellKey c MXE_PASS_DONE) 0 := by
  simp [State.mxeFlushNow, hr]

theorem flushNow_replaying {u : State} {c : Nat} {r : FinalRow} (hr : (u.mxe c).replay = some r) :
    u.mxeFlushNow c = ((u.checkRecord c 0x16 2 r).setMxe c (State.flushed ((u.checkRecord c 0x16 2 r).mxe c))).setReg (cellKey c MXE_PASS_DONE) 0 := by
  simp [State.mxeFlushNow, hr]

/-! ### The clears -/

theorem reg_clearReg (s : State) (k j : Nat) : (s.clearReg k).reg j = if j = k then 0 else s.reg j := by
  rw [State.clearReg, reg_setReg, RegisterAccess.reg_noteWrite]

theorem cells_noteWrite (s : State) (k : Nat) : (s.noteWrite k).cells = s.cells := by
  unfold State.noteWrite
  split <;> rfl

theorem cells_clearReg (s : State) (k : Nat) : (s.clearReg k).cells = s.cells := cells_noteWrite s k

theorem written_noteWrite (s : State) (k : Nat) : (s.noteWrite k).written k = true := by
  unfold State.noteWrite
  split
  · assumption
  · simp [State.written]

/-- An increment of the slot in which software clears a counter is discarded (R16). -/
theorem incSatUn_clearReg (s : State) (k lo w n : Nat) : (s.clearReg k).incSatUn k lo w n = s.clearReg k :=
  if_pos (written_noteWrite s k)

theorem regsBut_clearReg {s t : State} {ks : List Nat} {k : Nat} (h : s.regsBut t ks) (hk : k ∈ ks) : s.regsBut (t.clearReg k) ks :=
  fun j hj => by rw [reg_clearReg, if_neg (ne_of_mem_of_not_mem hk hj).symm]; exact h j hj

theorem clear_one (s : State) (k : Nat) : (s.clearReg k).reg k = 0 ∧ s.regsBut (s.clearReg k) [k] ∧ (s.clearReg k).cells = s.cells :=
  ⟨by rw [reg_clearReg, if_pos rfl], regsBut_clearReg (regsBut_refl s _) (List.mem_singleton_self _), cells_clearReg s k⟩

theorem rplCtrl_acts (s : State) (c : Nat) (en : Bool) : ∃ t, s.rplCtrl c en = t ∧
    t.fld (cellKey c MXE_RPL_CTRL) 0 1 = (if en then 1 else 0) ∧ s.regsBut t [cellKey c MXE_RPL_CTRL] ∧ s.cellsBut t c ∧
    (t.mxe c).queue = (s.mxe c).queue ∧
    if en then (t.mxe c).journal = (s.mxe c).journal
    else (t.mxe c).journal = [] ∧ ∀ x ∈ (t.mxe c).info, x.2.replayable = false := by
  have hfld (v : Nat) (hv : v < 2) : (s.setFld (cellKey c MXE_RPL_CTRL) 0 1 v).fld (cellKey c MXE_RPL_CTRL) 0 1 = v := by
    rw [fld_setFld_same _ _ (by decide)]
    omega
  have hregs (v : Nat) : s.regsBut (s.setFld (cellKey c MXE_RPL_CTRL) 0 1 v) [cellKey c MXE_RPL_CTRL] :=
    regsBut_setFld (regsBut_refl s _) (List.mem_singleton_self _) _ _ _
  refine ⟨_, rfl, ?_⟩
  cases en
  case true => exact ⟨hfld 1 (by decide), hregs 1, cellsBut_refl s c, rfl, rfl⟩
  case false =>
    simp only [State.rplCtrl, Bool.false_eq_true, if_false, setMxe_fld, mxe_setMxe_same, setFld_mxe]
    refine ⟨hfld 0 (by decide), regsBut_of_regs (hregs 0) rfl rfl, cellsBut_setMxe (cellsBut_refl s c) _, rfl, rfl, fun x hx => ?_⟩
    obtain ⟨y, -, rfl⟩ := List.mem_map.1 hx
    rfl

/-- Settles O11: the drain, passes that end, ballast, patterns, a flush, and each clear. -/
theorem drainBallastAndJournal : Obligations.DrainBallastAndJournal := by
  unfold Obligations.DrainBallastAndJournal
  refine ⟨⟨?_, ?_⟩, ⟨?_, ?_, ?_, ?_, ?_⟩, ?_, ?_, ?_, ?_, ?_, ?_⟩
  · intro s c r rest hdrain hruns hno hat henter haddr hlen hcheck
    obtain ⟨t, ht, h⟩ := drainLine_stores hdrain hruns hno hat henter haddr hlen hcheck
    exact ⟨t, next_congr ht, h⟩
  · intro s c p hp hruns
    obtain ⟨t, ht, h⟩ := passComplete_ends hp hruns
    exact ⟨t, next_congr ht, h⟩
  · intro s c hen hruns hqueue hstream hbal hfrozen
    refine ⟨_, next_congr (ballastRow_counts hen hruns hqueue hstream hbal hfrozen), ?_, ?_, ?_, rfl, rfl, cellsBut_setMxe (cellsBut_refl s c) _⟩
    all_goals rw [act_mxe, mxe_setMxe_same]
  · intro s c hen hseq hqueue hruns h4 howner hpattern
    refine ⟨_, next_congr (patternLoad_loads hen hseq hqueue hruns howner hpattern), ?_, ?_, fun i hi => ?_, cellsBut_setMxe (cellsBut_refl s c) _⟩
    · rw [mxe_setMxe_same, easelOf_setEasel h4]
    · rw [mxe_setMxe_same, easelOf_setEasel h4]
    · rw [mxe_setMxe_same, easelOf_setEasel_other _ _ hi]
  · intro s c
    refine ⟨_, rfl, ?_, ?_, ?_, rfl, rfl, cellsBut_setMxe (cellsBut_refl s c) _⟩
    all_goals rw [State.mxeFlush, mxe_setMxe_same]
  · intro s c u hf hr t
    have ht : t = (u.setMxe c (State.flushed (u.mxe c))).setReg (cellKey c MXE_PASS_DONE) 0 := (mxeCycle_flushes hf).trans (flushNow_idle hr)
    have hm : t.mxe c = State.flushed (u.mxe c) := by rw [ht, setReg_mxe, mxe_setMxe_same]
    simp only [hm]
    refine ⟨rfl, rfl, rfl, rfl, rfl, rfl, rfl, rfl, rfl, rfl, rfl, rfl, rfl, rfl, rfl, ?_, ?_, ?_, ?_⟩
    · rw [ht, reg_setReg, if_pos rfl]
    · rw [ht]
      exact regsBut_setReg (fun k _ => setMxe_reg ..) (List.mem_singleton_self _) _
    · rw [ht, setReg_err, setMxe_err]
    · rw [ht]
      exact cellsBut_of_cells (cellsBut_setMxe (cellsBut_refl u c) _) (setReg_cells ..)
  · intro s c r u hf hr
    rw [(mxeCycle_flushes hf).trans (flushNow_replaying hr), setReg_mxe, mxe_setMxe_same]
    exact ⟨rfl, logs_of_err (logs_checkRecord rfl c 0x16 2 r) (congrArg Err.recQ ((setReg_err ..).trans (setMxe_err ..)))⟩
  · intro s c
    obtain ⟨hreg, hregs, hcells⟩ := clear_one s (cellKey c MXE_STALL_FREEZE)
    exact ⟨_, rfl, hreg, hregs, hcells, incSatUn_clearReg ..⟩
  · intro s c
    obtain ⟨hreg, hregs, hcells⟩ := clear_one s (cellKey c MXE_STALL_EASEL)
    exact ⟨_, rfl, hreg, hregs, hcells, incSatUn_clearReg ..⟩
  · intro s c
    obtain ⟨hreg, hregs, hcells⟩ := clear_one s (cellKey c MXE_ARITH_CNT)
    exact ⟨_, rfl, hreg, hregs, hcells, fun lo n => incSatUn_clearReg ..⟩
  · intro s c
    refine ⟨_, rfl, ?_, ?_, ?_, regsBut_clearReg (regsBut_clearReg (regsBut_clearReg (regsBut_refl s _) (by simp)) (by simp)) (by simp), ?_⟩
    · rw [reg_clearReg, reg_clearReg, reg_clearReg]
      simp
    · rw [reg_clearReg, reg_clearReg]
      simp
    · rw [reg_clearReg, if_pos rfl]
    · rw [cells_clearReg, cells_clearReg, cells_clearReg]
  · intro s c
    refine ⟨_, rfl, ?_, regsBut_setFld (fun k _ => RegisterAccess.reg_noteWrite ..) (List.mem_singleton_self _) _ _ _, cells_noteWrite ..⟩
    rw [fld_setFld_same _ _ (by decide), Nat.zero_mod]
  · intro s c en
    obtain ⟨t, ht, h⟩ := rplCtrl_acts s c en
    exact ⟨t, next_congr ht, h⟩

end Sys2Proof.DrainAndFlush
end

section
/-! PROOFS. Bank ownership and the check-bit test (R154-R157, R171). -/

namespace Sys2Proof.BankOwnership

open Sys2Proof Sys2Proof.Machine Sys2Proof.Laws Sys2Proof.Clauses Sys2Proof.Scratchpad

/-! ### The bits of a masked word -/

theorem bits_and (a b lo w : Nat) : bits (a &&& b) lo w = bits a lo w &&& bits b lo w := by
  apply Nat.eq_of_testBit_eq
  intro i
  simp only [bits, Nat.testBit_and, Nat.testBit_mod_two_pow, Nat.testBit_div_two_pow]
  cases decide (i < w) <;> simp

theorem bits_owners (v : Nat) {b : Nat} (hb : b < 8) : bits (v &&& 0x77777777) (4 * b) 3 = bits v (4 * b) 3 := by
  have hmask : bits 0x77777777 (4 * b) 3 = 2 ^ 3 - 1 := by interval_cases b <;> rfl
  rw [bits_and, hmask, Nat.and_two_pow_sub_one_eq_mod]
  exact Nat.mod_eq_of_lt (Nat.mod_lt _ (by decide))

/-! ### A register at the start of its slot -/

theorem regStart_noteWrite (s : State) (k : Nat) : (s.noteWrite k).regStart k = s.regStart k := by
  unfold State.noteWrite
  split
  · rfl
  · rename_i h
    have hnone : s.wrote.find? (fun p => p.1 == k) = none := by
      rw [List.find?_eq_none]
      intro p hp hk
      exact h (List.any_eq_true.2 ⟨p, hp, hk⟩)
    simp [State.regStart, hnone]

theorem regStart_setReg (s : State) (k : Nat) (v : DWord) (h : s.written k = true) : (s.setReg k v).regStart k = s.regStart k := by
  obtain ⟨p, hp, hk⟩ := List.any_eq_true.1 h
  unfold State.regStart
  rw [setReg_wrote]
  split
  · rfl
  · rename_i hnone
    exact absurd hk (List.find?_eq_none.1 hnone p hp)

theorem owner_setOwners (s : State) (c : Nat) (v : Word) (b : Nat) : (s.setOwners c v).owner c b = s.owner c b := by
  rw [State.owner, State.setOwners, regStart_setReg _ _ _ (DrainAndFlush.written_noteWrite ..), regStart_noteWrite]
  rfl

theorem owner_passSlot (s : State) (c b : Nat) : s.passSlot.owner c b = bits (s.reg (cellKey c SPM_BANK_OWN)).toNat (4 * b) 3 := rfl

theorem reg_setOwners (s : State) (c : Nat) (v : Word) :
    (s.setOwners c v).reg (cellKey c SPM_BANK_OWN) = BitVec.ofNat 64 (v.toNat &&& 0x77777777) := by
  rw [State.setOwners, reg_setReg, if_pos rfl]

/-- What a governing write leaves: the owners of this cycle stay, the next cycle has the new ones. -/
theorem owners_setOwners (s : State) (c : Nat) (v : Word) {b : Nat} (hb : b < 8) :
    (s.setOwners c v).owner c b = s.owner c b ∧ (s.setOwners c v).passSlot.owner c b = bits v.toNat (4 * b) 3 := by
  have hlt : v.toNat &&& 0x77777777 < 2 ^ 64 := Nat.and_le_left.trans_lt (v.isLt.trans (by decide))
  refine ⟨owner_setOwners .., ?_⟩
  rw [owner_passSlot, reg_setOwners, BitVec.toNat_ofNat, Nat.mod_eq_of_lt hlt, bits_owners _ hb]

theorem regsBut_setOwners (s : State) (c : Nat) (v : Word) : s.regsBut (s.setOwners c v) [cellKey c SPM_BANK_OWN] :=
  regsBut_setReg (fun k _ => RegisterAccess.reg_noteWrite ..) (List.mem_singleton_self _) _

theorem within_setOwners_self (s : State) (c : Nat) (v : Word) : s.within [.regs, .wrote] (s.setOwners c v) :=
  within_setOwners (List.Subset.refl _) (within_refl s)

/-! ### Merge buffers with nothing to write -/

theorem mbFlush_none {s : State} {c : Nat} {k : CoreSel} {p : MbEntry → Bool} (h : ∀ e ∈ (s.core c k).mb, p e = false) : s.mbFlush c k p = s := by
  have hnil : (s.core c k).mb.filter p = [] := List.filter_eq_nil_iff.2 fun e he => by simp [h e he]
  rw [State.mbFlush, hnil]
  rfl

theorem ownFlush_empty {s : State} {c : Nat} (v : Word) (hh : (s.core c .head).mb = []) (ht : (s.core c .tail).mb = []) : s.ownFlush c v = s := by
  have hhead : s.mbFlush c .head (s.losesBank c .head v) = s := mbFlush_none (by rw [hh]; simp)
  rw [State.ownFlush, hhead, mbFlush_none (by rw [ht]; simp)]

theorem ownWaits_empty {s : State} {c : Nat} (v : Word) (hh : (s.core c .head).mb = []) (ht : (s.core c .tail).mb = []) : s.ownWaits c v = false := by
  simp [State.ownWaits, hh, ht]

/-- The state after the oldest held write governs a cell with empty merge buffers. -/
def governed (s : State) (c : Nat) (v : Word) (rest : List Word) : State := (s.setCell c { s.cell c with owns := rest }).setOwners c v

theorem cells_setOwners (s : State) (c : Nat) (v : Word) : (s.setOwners c v).cells = s.cells :=
  StartPhases.within_same (within_setOwners_self s c v) .cells (by decide)

theorem cell_governed (s : State) (c : Nat) (v : Word) (rest : List Word) : (governed s c v rest).cell c = { s.cell c with owns := rest } := by
  rw [governed, DescriptorQueue.cell_of_cells (cells_setOwners ..), cell_setCell, if_pos rfl]

theorem core_governed (s : State) (c : Nat) (v : Word) (rest : List Word) (k : CoreSel) : (governed s c v rest).core c k = s.core c k := by
  unfold State.core
  rw [cell_governed]

theorem releaseStores_none {s : State} {c : Nat} {k : CoreSel} (h : (s.core c k).heldStores = []) :
    s.releaseStores c k (s.core c k).heldStores.length = s := by
  rw [h]
  rfl

theorem governOwners_eq {s : State} {c : Nat} {v : Word} {rest : List Word} (howns : (s.cell c).owns = v :: rest)
    (hh : (s.core c .head).mb = []) (ht : (s.core c .tail).mb = []) : s.governOwners c = governed s c v rest := by
  have hh' : ((governed s c v rest).core c .head).mb = [] := by rw [core_governed, hh]
  have ht' : ((governed s c v rest).core c .tail).mb = [] := by rw [core_governed, ht]
  have hg : ((s.setCell c { s.cell c with owns := rest }).setOwners c v) = governed s c v rest := rfl
  simp only [State.governOwners, howns, ownWaits_empty v hh ht, ownFlush_empty v hh ht, Bool.false_eq_true, and_false, if_false, hg]
  cases rest with
  | nil => rfl
  | cons w ws =>
    dsimp only
    rw [ownFlush_empty w hh' ht', ite_self]

theorem ownershipGovern_eq {s : State} {c : Nat} {v : Word} {rest : List Word} (howns : (s.cell c).owns = v :: rest)
    (hh : (s.core c .head).mb = []) (ht : (s.core c .tail).mb = []) (hhs : (s.core c .head).heldStores = [])
    (hts : (s.core c .tail).heldStores = []) : s.ownershipGovern c = governed s c v rest := by
  have hstores (k : CoreSel) : ((governed s c v rest).core c k).heldStores = [] := by
    rw [core_governed]
    cases k
    · exact hhs
    · exact hts
  simp only [State.ownershipGovern, governOwners_eq howns hh ht]
  rw [releaseStores_none (hstores .head), releaseStores_none (hstores .tail)]

/-! ### The check-bit test -/

theorem eccFlush_none {s : State} {c off : Nat} (h : ∀ k, ∀ e ∈ (s.core c k).mb, e.word ≠ off / 8) : s.eccFlush c off = s := by
  have hk (k : CoreSel) : s.mbFlush c k (fun e => e.word == off / 8) = s := mbFlush_none fun e he => by simpa using h k e he
  rw [State.eccFlush, hk .head, hk .tail, ite_self]

theorem lt_of_spmCheck {s : State} {c off port : Nat} {fw : Bool} (h : s.spmCheck c off port fw = none) : off < 0x180000 := by
  refine Nat.lt_of_not_le fun hle => ?_
  simp [State.spmCheck, hle] at h

section
variable {s : State} {c : Nat} {req : Req}

theorem eccRawWrite_eq (hmb : ∀ k, ∀ e ∈ (s.core c k).mb, e.word ≠ s.eccAddr c / 8)
    (hcheck : s.spmCheck c (s.eccAddr c) (State.classOf c req) (decide (req = .firmware)) = none) :
    s.eccRawWrite c req = (s.act c (State.eccCounter c req) 1).putWord c (s.eccAddr c) (s.reg (cellKey c SPM_ECC_TDATA)).toNat
      (s.fld (cellKey c SPM_ECC_TCHK) 0 8) := by
  simp only [State.eccRawWrite, hcheck, eccFlush_none hmb, act_reg, act_fld]

theorem eccRawRead_eq (hmb : ∀ k, ∀ e ∈ (s.core c k).mb, e.word ≠ s.eccAddr c / 8)
    (hcheck : s.spmCheck c (s.eccAddr c) (State.classOf c req) (decide (req = .firmware)) = none) :
    s.eccRawRead c req = ((s.act c (State.eccCounter c req) 1).setReg (cellKey c SPM_ECC_TDATA) (BitVec.ofNat 64 (s.wordAt c (s.eccAddr c)))).setReg
      (cellKey c SPM_ECC_TCHK) (BitVec.ofNat 64 (s.chkAt c (s.eccAddr c) +
        (s.chkAt c (s.eccAddr c) ^^^ eccByte (s.wordAt c (s.eccAddr c))) * 2 ^ 8)) := by
  simp only [State.eccRawRead, hcheck, eccFlush_none hmb]
  rfl

theorem eccRaw_refused {d cls r : Nat} {q : CoreSel}
    (hcheck : s.spmCheck c (s.eccAddr c) (State.classOf c (.core d q)) false = some (cls, r)) :
    s.eccRawWrite c (.core d q) = s.spmRefuse c (s.eccAddr c) (State.classOf c (.core d q)) (.core d q) (cls, r) ∧
      s.eccRawRead c (.core d q) = s.spmRefuse c (s.eccAddr c) (State.classOf c (.core d q)) (.core d q) (cls, r) := by
  constructor
  · simp [State.eccRawWrite, hcheck]
  · simp [State.eccRawRead, hcheck]

end

theorem chkAt_lt (s : State) (c o : Nat) : s.chkAt c o < 256 := (s.byte (spmChkKey c o)).isLt

theorem spmRefuse_logs (s : State) (c off d : Nat) (q : CoreSel) (cls r port : Nat) :
    ∃ e, (s.spmRefuse c off port (.core d q) (cls, r)).mem = s.mem ∧ (s.spmRefuse c off port (.core d q) (cls, r)).cells = s.cells ∧
      (s.spmRefuse c off port (.core d q) (cls, r)).err.recQ = s.err.recQ ++ [e] ∧ e.cls = cls ∧ e.loc = .cell c 0 ∧ e.struck = some d ∧
      s.regsBut (s.spmRefuse c off port (.core d q) (cls, r)) [cellKey c SPM_ERR_LAST] := by
  simp only [State.spmRefuse, State.setErrLast, setReg_mem, setReg_cells, setReg_err, raise_mem, raise_cells]
  exact ⟨_, trivial, trivial, rfl, rfl, rfl, rfl, regsBut_setReg (fun k _ => raise_reg ..) (List.mem_singleton_self _) _⟩

theorem eccRawWrite_stores {s : State} {c : Nat} {req : Req} (hmb : ∀ k, ∀ e ∈ (s.core c k).mb, e.word ≠ s.eccAddr c / 8)
    (hcheck : s.spmCheck c (s.eccAddr c) (State.classOf c req) (decide (req = .firmware)) = none) :
    ∃ t, s.eccRawWrite c req = t ∧ t.wordAt c (s.eccAddr c) = (s.reg (cellKey c SPM_ECC_TDATA)).toNat ∧
      t.chkAt c (s.eccAddr c) = s.fld (cellKey c SPM_ECC_TCHK) 0 8 ∧
      (∀ k, (∀ i, i < 8 → k ≠ spmKey c (s.eccAddr c + i)) → k ≠ spmChkKey c (s.eccAddr c) → t.byte k = s.byte k) ∧
      t.regs = s.regs ∧ s.cellsBut t c ∧ (∀ k, t.core c k = s.core c k) ∧ t.mxe c = s.mxe c ∧ t.err = s.err := by
  have hoff : s.eccAddr c % 8 = 0 := by
    unfold State.eccAddr
    omega
  have hfld : s.fld (cellKey c SPM_ECC_TCHK) 0 8 < 256 := fld_lt ..
  refine ⟨_, eccRawWrite_eq hmb hcheck, ?_, ?_, ?_, ?_, ?_, ?_, ?_, ?_⟩
  · rw [wordAt_putWord_same _ c _ _ (lt_of_spmCheck hcheck), Nat.mod_eq_of_lt (BitVec.isLt _)]
  · rw [chkAt_putWord_same, Nat.mod_eq_of_lt hfld]
  · intro k hk hc
    rw [byte_putWord_other _ _ _ hoff hk hc, act_byte]
  · exact StartPhases.within_same (w := [.mem, .cells, .regions]) (within_putWord (by decide) (within_act (by decide) (within_refl s))) .regs (by decide)
  · exact fun e he => cell_putWord_other _ _ _ _ he
  · intro k
    obtain ⟨m, hm⟩ := cell_putWord_same (s.act c (State.eccCounter c req) 1) c (s.eccAddr c) (s.reg (cellKey c SPM_ECC_TDATA)).toNat
      (s.fld (cellKey c SPM_ECC_TCHK) 0 8)
    unfold State.core
    rw [hm]
    cases k <;> rfl
  · obtain ⟨m, hm⟩ := cell_putWord_same (s.act c (State.eccCounter c req) 1) c (s.eccAddr c) (s.reg (cellKey c SPM_ECC_TDATA)).toNat
      (s.fld (cellKey c SPM_ECC_TCHK) 0 8)
    rw [State.mxe, hm]
    rfl
  · exact StartPhases.within_same (w := [.mem, .cells, .regions]) (within_putWord (by decide) (within_act (by decide) (within_refl s))) .err (by decide)

theorem eccRawRead_shows {s : State} {c : Nat} {req : Req} (hmb : ∀ k, ∀ e ∈ (s.core c k).mb, e.word ≠ s.eccAddr c / 8)
    (hcheck : s.spmCheck c (s.eccAddr c) (State.classOf c req) (decide (req = .firmware)) = none) :
    ∃ t, s.eccRawRead c req = t ∧ (t.reg (cellKey c SPM_ECC_TDATA)).toNat = s.wordAt c (s.eccAddr c) ∧
      t.fld (cellKey c SPM_ECC_TCHK) 0 8 = s.chkAt c (s.eccAddr c) ∧
      t.fld (cellKey c SPM_ECC_TCHK) 8 8 = s.chkAt c (s.eccAddr c) ^^^ eccByte (s.wordAt c (s.eccAddr c)) ∧
      s.regsBut t [cellKey c SPM_ECC_TDATA, cellKey c SPM_ECC_TCHK] ∧ t.mem = s.mem ∧ t.cells = s.cells ∧ t.err = s.err := by
  have hne : cellKey c SPM_ECC_TDATA ≠ cellKey c SPM_ECC_TCHK := by
    unfold cellKey SPM_ECC_TDATA SPM_ECC_TCHK
    omega
  have hchk := chkAt_lt s c (s.eccAddr c)
  have hsyn : s.chkAt c (s.eccAddr c) ^^^ eccByte (s.wordAt c (s.eccAddr c)) < 2 ^ 8 := Nat.xor_lt_two_pow hchk (eccByte_lt _)
  refine ⟨_, eccRawRead_eq hmb hcheck, ?_, ?_, ?_, regsBut_setReg (regsBut_setReg (fun k _ => act_reg ..) (by simp) _) (by simp) _,
    by rw [setReg_mem, setReg_mem, act_mem], by rw [setReg_cells, setReg_cells, act_cells], by rw [setReg_err, setReg_err, act_err]⟩
  · rw [reg_setReg, if_neg hne, reg_setReg, if_pos rfl, BitVec.toNat_ofNat, Nat.mod_eq_of_lt (wordAt_lt ..)]
  · rw [State.fld, reg_setReg, if_pos rfl, BitVec.toNat_ofNat, bits]
    omega
  · rw [State.fld, reg_setReg, if_pos rfl, BitVec.toNat_ofNat, bits]
    omega

/-- Settles O12: a write of the owners, one that waits, one that governs, and the raw accesses. -/
theorem ownershipAndCheckBitTest : Obligations.OwnershipAndCheckBitTest := by
  unfold Obligations.OwnershipAndCheckBitTest
  refine ⟨⟨?_, ?_, ?_⟩, ?_, ?_, ?_⟩
  · intro s c v howns hwaits
    refine ⟨_, next_congr (if_pos ⟨by simp [howns], by simp [hwaits]⟩), fun b hb => owners_setOwners s c v hb, regsBut_setOwners s c v,
      cells_setOwners s c v, ?_, ?_⟩
    · exact StartPhases.within_same (within_setOwners_self s c v) .mem (by decide)
    · exact StartPhases.within_same (within_setOwners_self s c v) .err (by decide)
  · intro s c v howns
    have hne : (s.cell c).owns.isEmpty = false := by simpa using howns
    have heq : s.writeOwners c v = s.setCell c { s.cell c with owns := (s.cell c).owns ++ [v] } := by
      simp [State.writeOwners, hne]
    refine ⟨_, next_congr heq, ?_, rfl, rfl, cellsBut_setCell (cellsBut_refl s c) _, rfl⟩
    rw [cell_setCell, if_pos rfl]
  · intro s c v rest howns hh ht hhs hts
    have hwithin := within_setOwners_self (s.setCell c { s.cell c with owns := rest }) c v
    refine ⟨_, next_congr (ownershipGovern_eq howns hh ht hhs hts), by rw [cell_governed], fun b hb => ?_, ?_, ?_, ?_, ?_⟩
    · exact owners_setOwners (s.setCell c { s.cell c with owns := rest }) c v hb
    · exact regsBut_trans (fun k _ => setCell_reg ..) (regsBut_setOwners _ c v)
    · exact (StartPhases.within_same hwithin .mem (by decide)).trans (setCell_mem ..)
    · exact DescriptorQueue.cellsBut_of_cells (cellsBut_setCell (cellsBut_refl s c) _) (cells_setOwners _ c v)
    · exact (StartPhases.within_same hwithin .err (by decide)).trans (setCell_err ..)
  · intro s c req hmb hcheck
    obtain ⟨t, ht, h⟩ := eccRawWrite_stores (s := s.dropPend req (keyBlock (cellKey c SPM_ECC_TEST))) hmb hcheck
    exact ⟨t, next_congr ht, h⟩
  · intro s c req hmb hcheck
    obtain ⟨t, ht, h⟩ := eccRawRead_shows (s := s.dropPend req (keyBlock (cellKey c SPM_ECC_TEST))) hmb hcheck
    exact ⟨t, next_congr ht, h⟩
  · intro s c d cls r q i hi hcheck
    obtain ⟨hwrite, hread⟩ := eccRaw_refused (s := s.dropPend (.core d q) (keyBlock (cellKey c SPM_ECC_TEST))) hcheck
    obtain ⟨e, h⟩ := spmRefuse_logs (s.dropPend (.core d q) (keyBlock (cellKey c SPM_ECC_TEST))) c (s.eccAddr c) d q cls r
      (State.classOf c (.core d q))
    rcases hi with rfl | rfl
    · exact ⟨_, e, next_congr hwrite, h⟩
    · exact ⟨_, e, next_congr hread, h⟩

end Sys2Proof.BankOwnership
end

section
/-! PROOFS. The primer, the line scrubbers and the scrubber of the instruction stores (R172-R176, R207). -/

namespace Sys2Proof.PrimerAndScrubbers

open Sys2Proof Sys2Proof.Machine Sys2Proof.Laws Sys2Proof.Clauses Sys2Proof.Scratchpad Sys2Proof.RowFlow

/-! ### The primer -/

theorem reg_foldl_setReg (s : State) (l : List Nat) (f : Nat → Nat) (v : DWord) (k : Nat) :
    (l.foldl (fun t n => t.setReg (f n) v) s).reg k = if ∃ n ∈ l, k = f n then v else s.reg k := by
  induction l generalizing s with
  | nil => simp
  | cons n l ih =>
    rw [List.foldl_cons, ih, reg_setReg]
    by_cases h : ∃ m ∈ l, k = f m
    · simp [h]
    · by_cases hn : k = f n <;> simp [h, hn]

theorem byte_clearMem (s : State) (lo n k : Nat) : (s.clearMem lo n).byte k = if lo ≤ k ∧ k < lo + n then 0 else s.byte k := by
  unfold State.clearMem State.byte
  split
  · exact StartPhases.get_filter_of_dropped (by simp [*]) _ _
  · exact StartPhases.get_filter_of_kept (fun v => by simp; omega) _ _

/-- The cell's registers after the primer, ahead of its DONE bit. -/
def primedRegs (s : State) (c : Nat) : State :=
  ((((List.range 16).foldl (fun t n => t.setReg (cellKey c (RTR_DETOUR + 4 * n)) 0)
    ((List.range 48).foldl (fun t n => t.setReg (ctrKey c n) 0) (s.clearMem (2 ^ 44 + 2 ^ 24 * c) (2 ^ 24)))).setFld (cellKey c RTR_MC_LAND) 0 16 0).setFld
      (cellKey c RTR_LINK_STAT) 0 12 (s.failedBits c))

/-- A cell with its links, signals and journal cleared and its scrubbers at the start of a pass. -/
def primedCell (x : Cell) (now : Nat) : Cell :=
  { x with mxe := { x.mxe with journal := [] }, links := [], sigs := []
           scrub := (List.range 8).map fun b => (b, { ScrubSt.reset with passStart := now, due := now })
           iscrub := [0, 0], iscrubDue := [now, now] }

theorem primeCell_eq (s : State) (c : Nat) :
    s.primeCell c = (((primedRegs s c).setCell c (primedCell ((primedRegs s c).cell c) s.now)).setReg (cellKey c SPM_PRIME_STAT) 1).act c 1 24576 := rfl

theorem within_foldl_setReg (s : State) (l : List Nat) (f : Nat → Nat) (v : DWord) : s.within [.regs] (l.foldl (fun t n => t.setReg (f n) v) s) :=
  List.foldlRecOn (motive := fun t => s.within [.regs] t) l _ (within_refl s) fun _ ht _ _ => within_setReg (by decide) ht

theorem within_primedRegs (s : State) (c : Nat) : s.within [.regs, .mem] (primedRegs s c) := by
  refine within_setFld (by decide) (within_setFld (by decide) ?_)
  refine List.foldlRecOn (motive := fun t => s.within [.regs, .mem] t) _ _ ?_ fun _ ht _ _ => within_setReg (by decide) ht
  refine List.foldlRecOn (motive := fun t => s.within [.regs, .mem] t) _ _ ?_ fun _ ht _ _ => within_setReg (by decide) ht
  exact within_clearMem (by decide) (within_refl s)

theorem cells_primedRegs (s : State) (c : Nat) : (primedRegs s c).cells = s.cells := StartPhases.within_same (within_primedRegs s c) .cells (by decide)

theorem byte_of_mem {s t : State} (h : t.mem = s.mem) (k : Nat) : t.byte k = s.byte k := congrArg (fun m => SMap.get m k 0) h

theorem byte_primeCell (s : State) (c k : Nat) :
    (s.primeCell c).byte k = if 2 ^ 44 + 2 ^ 24 * c ≤ k ∧ k < 2 ^ 44 + 2 ^ 24 * c + 2 ^ 24 then 0 else s.byte k := by
  rw [primeCell_eq, act_byte, setReg_byte, setCell_byte, primedRegs, setFld_byte, setFld_byte,
    byte_of_mem (StartPhases.within_same (within_foldl_setReg ..) .mem (by decide)),
    byte_of_mem (StartPhases.within_same (within_foldl_setReg ..) .mem (by decide)), byte_clearMem]

theorem primeKeys_apart (c : Nat) {n m : Nat} (hn : n < 48) (hm : m < 16) :
    ctrKey c n ≠ cellKey c SPM_PRIME_STAT ∧ ctrKey c n ≠ cellKey c RTR_LINK_STAT ∧ ctrKey c n ≠ cellKey c RTR_MC_LAND ∧
      cellKey c (RTR_DETOUR + 4 * m) ≠ cellKey c SPM_PRIME_STAT ∧ cellKey c (RTR_DETOUR + 4 * m) ≠ cellKey c RTR_LINK_STAT ∧
      cellKey c (RTR_DETOUR + 4 * m) ≠ cellKey c RTR_MC_LAND ∧ cellKey c RTR_MC_LAND ≠ cellKey c SPM_PRIME_STAT ∧
      cellKey c RTR_MC_LAND ≠ cellKey c RTR_LINK_STAT ∧ cellKey c RTR_LINK_STAT ≠ cellKey c SPM_PRIME_STAT := by
  simp only [ctrKey, cellKey, SPM_PRIME_STAT, RTR_LINK_STAT, RTR_MC_LAND, RTR_DETOUR, SYNC_CTR]
  omega

theorem counter_primeCell (s : State) (c : Nat) {n : Nat} (hn : n < 48) : (s.primeCell c).reg (ctrKey c n) = 0 := by
  obtain ⟨hdone, hlink, hland, -⟩ := primeKeys_apart c hn (m := 0) (by decide)
  rw [primeCell_eq, act_reg, reg_setReg, if_neg hdone, setCell_reg, primedRegs, reg_setFld, if_neg hlink, reg_setFld, if_neg hland, reg_foldl_setReg]
  split
  · rfl
  · rw [reg_foldl_setReg, if_pos ⟨n, List.mem_range.2 hn, rfl⟩]

theorem detour_primeCell (s : State) (c : Nat) {n : Nat} (hn : n < 16) : (s.primeCell c).reg (cellKey c (RTR_DETOUR + 4 * n)) = 0 := by
  obtain ⟨-, -, -, hdone, hlink, hland, -⟩ := primeKeys_apart c (n := 0) (by decide) hn
  rw [primeCell_eq, act_reg, reg_setReg, if_neg hdone, setCell_reg, primedRegs, reg_setFld, if_neg hlink, reg_setFld, if_neg hland, reg_foldl_setReg,
    if_pos ⟨n, List.mem_range.2 hn, rfl⟩]

theorem landed_primeCell (s : State) (c : Nat) : (s.primeCell c).fld (cellKey c RTR_MC_LAND) 0 16 = 0 := by
  obtain ⟨-, -, -, -, -, -, hdone, hlink, -⟩ := primeKeys_apart c (n := 0) (m := 0) (by decide) (by decide)
  rw [primeCell_eq, act_fld, State.fld, reg_setReg, if_neg hdone, setCell_reg, primedRegs, reg_setFld, if_neg hlink, ← State.fld,
    fld_setFld_same _ _ (by decide), Nat.zero_mod]

theorem links_primeCell (s : State) (c : Nat) : (s.primeCell c).fld (cellKey c RTR_LINK_STAT) 0 12 = s.failedBits c % 2 ^ 12 := by
  obtain ⟨-, -, -, -, -, -, -, -, hdone⟩ := primeKeys_apart c (n := 0) (m := 0) (by decide) (by decide)
  rw [primeCell_eq, act_fld, State.fld, reg_setReg, if_neg hdone, setCell_reg, primedRegs, ← State.fld, fld_setFld_same _ _ (by decide)]

theorem done_primeCell (s : State) (c : Nat) : (s.primeCell c).reg (cellKey c SPM_PRIME_STAT) = 1 := by
  rw [primeCell_eq, act_reg, reg_setReg, if_pos rfl]

theorem cell_primeCell (s : State) (c : Nat) : (s.primeCell c).cell c = primedCell (s.cell c) s.now := by
  rw [primeCell_eq, act_cell, setReg_cell, cell_setCell, if_pos rfl, DescriptorQueue.cell_of_cells (cells_primedRegs s c)]

theorem cellsBut_primeCell (s : State) (c : Nat) : s.cellsBut (s.primeCell c) c := fun e he => by
  rw [primeCell_eq, act_cell, setReg_cell, cell_setCell, if_neg he, DescriptorQueue.cell_of_cells (cells_primedRegs s c)]

theorem scrub_primedCell (x : Cell) (now : Nat) {b : Nat} (hb : b < 8) :
    SMap.get (primedCell x now).scrub b ScrubSt.reset = { ScrubSt.reset with passStart := now, due := now } := by
  unfold primedCell
  interval_cases b <;> rfl

/-- The region's coming up reaches none of the cell's registers. -/
theorem reg_resDone (s : State) (c : Nat) {o : Nat} (ho : o < 0x1000000) : (s.resDone (cellRegion c)).reg (cellKey c o) = s.reg (cellKey c o) := by
  have hkey : cellKey c o ≠ dieKey (regionDie (cellRegion c)) PWR_REG_RES := by
    simp only [cellKey, dieKey, regionDie, cellRegion, regionAt, cellDie, cellPx, cellPy, PWR_REG_RES]
    omega
  unfold State.resDone
  dsimp only
  split
  · rw [State.regRes, reg_setReg, if_neg hkey]
  · rfl

theorem reg_regionUp (s : State) (c : Nat) {o : Nat} (ho : o < 0x1000000) : (s.regionUp (cellRegion c)).reg (cellKey c o) = s.reg (cellKey c o) := by
  unfold State.regionUp
  dsimp only
  split
  · rw [reg_resDone _ c ho]
    rfl
  · rfl

theorem within_primed_up (s : State) (c : Nat) : (s.primeCell c).within [.regs, .regions] ((s.primeCell c).regionUp (cellRegion c)) :=
  within_regionUp (List.Subset.refl _) (within_refl _)

theorem primerDone_eq {s : State} {c : Nat} (h : s.fld (cellKey c SPM_PRIME_STAT) 1 1 = 1) :
    s.primerDone c = (s.primeCell c).regionUp (cellRegion c) := if_pos h

theorem primerDone_primes {s : State} {c : Nat} (h : s.fld (cellKey c SPM_PRIME_STAT) 1 1 = 1) :
    ∃ t, s.primerDone c = t ∧ t.primed c = true ∧ judge 0 0 = .good ∧
      (∀ o, o < 0x180000 → t.byte (spmKey c o) = 0 ∧ t.byte (spmChkKey c o) = 0) ∧
      (∀ k o, o < 0x8000 → t.byte (imemKey c k o) = 0 ∧ t.byte (imemChkKey c k o) = 0) ∧
      (∀ k, k < 2 ^ 44 + 2 ^ 24 * c ∨ 2 ^ 44 + 2 ^ 24 * c + 2 ^ 24 ≤ k → t.byte k = s.byte k) ∧
      (∀ n, n < 48 → t.reg (ctrKey c n) = 0) ∧ (∀ n, n < 16 → t.reg (cellKey c (RTR_DETOUR + 4 * n)) = 0) ∧
      t.fld (cellKey c RTR_MC_LAND) 0 16 = 0 ∧ (t.cell c).links = [] ∧ (t.cell c).sigs = [] ∧
      t.fld (cellKey c RTR_LINK_STAT) 0 12 = s.failedBits c % 2 ^ 12 ∧
      (∀ b, b < 8 → (t.scrubOf c b).passStart = s.now ∧ (t.scrubOf c b).line = 0) ∧ (t.mxe c).journal = [] ∧ s.cellsBut t c ∧ t.err = s.err := by
  have hup := within_primed_up s c
  have hcells := StartPhases.within_same hup .cells (by decide)
  have hbyte (k : Nat) := (byte_of_mem (StartPhases.within_same hup .mem (by decide)) k).trans (byte_primeCell s c k)
  have hreg (o : Nat) (ho : o < 0x1000000) := reg_regionUp (s.primeCell c) c ho
  have hfld (o lo w : Nat) (ho : o < 0x1000000) : ((s.primeCell c).regionUp (cellRegion c)).fld (cellKey c o) lo w = (s.primeCell c).fld (cellKey c o) lo w := by
    rw [State.fld, hreg o ho]
    rfl
  have hcell : ((s.primeCell c).regionUp (cellRegion c)).cell c = primedCell (s.cell c) s.now :=
    (DescriptorQueue.cell_of_cells hcells c).trans (cell_primeCell s c)
  refine ⟨_, primerDone_eq h, ?_⟩
  generalize (s.primeCell c).regionUp (cellRegion c) = t at *
  refine ⟨?_, by decide, fun o ho => ?_, fun k o ho => ?_, fun k hk => ?_, fun n hn => ?_, fun n hn => ?_, ?_, by rw [hcell]; rfl, by rw [hcell]; rfl, ?_,
    fun b hb => ?_, ?_, ?_, ?_⟩
  · rw [State.primed, hfld _ _ _ (by decide), State.fld, done_primeCell]
    rfl
  · constructor <;> rw [hbyte, if_pos (by simp only [spmKey, spmChkKey]; omega)]
  · cases k <;> constructor <;> rw [hbyte, if_pos (by simp only [imemKey, imemChkKey]; omega)]
  · rw [hbyte, if_neg (by omega)]
  · exact (hreg _ (by unfold SYNC_CTR; omega)).trans (counter_primeCell s c hn)
  · exact (hreg _ (by unfold RTR_DETOUR; omega)).trans (detour_primeCell s c hn)
  · rw [hfld _ _ _ (by decide), landed_primeCell]
  · rw [hfld _ _ _ (by decide), links_primeCell]
  · rw [State.scrubOf, hcell, scrub_primedCell _ _ hb]
    exact ⟨rfl, rfl⟩
  · rw [State.mxe, hcell]
    rfl
  · exact DescriptorQueue.cellsBut_of_cells (cellsBut_primeCell s c) hcells
  · exact (StartPhases.within_same hup .err (by decide)).trans
      (StartPhases.within_same (within_primeCell (List.Subset.refl _) (within_refl s)) .err (by decide))

/-! ### The line scrubbers -/

theorem scrubOf_setScrub_same (s : State) (c b : Nat) (x : ScrubSt) : (s.setScrub c b x).scrubOf c b = x := by
  rw [State.scrubOf, State.setScrub, cell_setCell, if_pos rfl]
  exact get_put_same ..

theorem cellsBut_setScrub {s t : State} {c : Nat} (h : s.cellsBut t c) (b : Nat) (x : ScrubSt) : s.cellsBut (t.setScrub c b x) c := cellsBut_setCell h _

theorem scrubLate_intime {s : State} {c b : Nat} (h : s.now ≤ (s.scrubOf c b).passStart + s.scrubLimit c b * 1000000) : s.scrubLate c b = s :=
  if_neg fun hlate => by omega

theorem scrubLate_eq (s : State) (c b : Nat) : s.scrubLate c b = s ∨
    (s.scrubLate c b).cells = (s.setScrub c b { s.scrubOf c b with lateLogged := true }).cells ∧ (s.scrubLate c b).mem = s.mem := by
  unfold State.scrubLate
  dsimp only
  split
  · exact .inr ⟨(raise_cells ..).trans (setFld_cells ..), (raise_mem ..).trans (setFld_mem ..)⟩
  · exact .inl rfl

/-- A late pass is noted; its line and the line's words stay. -/
theorem scrubLate_keeps (s : State) (c b : Nat) : ((s.scrubLate c b).scrubOf c b).line = (s.scrubOf c b).line ∧
    (s.scrubLate c b).mem = s.mem ∧ s.cellsBut (s.scrubLate c b) c := by
  rcases scrubLate_eq s c b with h | ⟨hcells, hmem⟩
  · rw [h]
    exact ⟨rfl, rfl, cellsBut_refl s c⟩
  · have hscrub : (s.scrubLate c b).scrubOf c b = { s.scrubOf c b with lateLogged := true } :=
      (congrArg (fun x : Cell => SMap.get x.scrub b ScrubSt.reset) (DescriptorQueue.cell_of_cells hcells c)).trans (scrubOf_setScrub_same ..)
    exact ⟨by rw [hscrub], hmem, DescriptorQueue.cellsBut_of_cells (cellsBut_setScrub (cellsBut_refl s c) b _) hcells⟩

theorem scrubNext_eq {s : State} {c b : Nat} (h : (s.scrubOf c b).line < 3071) :
    s.scrubNext c b = s.setScrub c b { s.scrubOf c b with line := (s.scrubOf c b).line + 1, wb := false, due := (s.scrubOf c b).due + s.scrubInterval c } :=
  if_pos (by omega)

/-- The step of a line read over one word. -/
def scrubReadStep (c : Nat) (t : State) (o : Nat) : State :=
  match t.readWord c o 0 with
  | (u, .lost false syn) => u.wordRecord 0x21 c o 0 syn none
  | (u, _) => u

theorem scrubRead_eq (s : State) (c b : Nat) : s.scrubRead c b =
    if (s.scrubWords c b).all fun o => judge (s.wordAt c o) (s.chkAt c o) == .good
    then ((s.scrubWords c b).foldl (scrubReadStep c) (s.act c 1 1)).scrubNext c b
    else ((s.scrubWords c b).foldl (scrubReadStep c) (s.act c 1 1)).setScrub c b
      { ((s.scrubWords c b).foldl (scrubReadStep c) (s.act c 1 1)).scrubOf c b with wb := true } := rfl

theorem all_good_iff (s : State) (c b : Nat) : ((s.scrubWords c b).all fun o => judge (s.wordAt c o) (s.chkAt c o) == .good) = true ↔
    ∀ o ∈ s.scrubWords c b, judge (s.wordAt c o) (s.chkAt c o) = .good := by
  simp

theorem readGood_foldl {s : State} {c : Nat} (i n : Nat) {l : List Nat} (h : ∀ o ∈ l, judge (s.wordAt c o) (s.chkAt c o) = .good) :
    l.foldl (scrubReadStep c) (s.act c i n) = s.act c i n := by
  induction l with
  | nil => rfl
  | cons o l ih =>
    have hgood : (s.act c i n).readWord c o 0 = (s.act c i n, .word ((s.act c i n).wordAt c o)) := BankEngine.readWord_of_good 0 (h o List.mem_cons_self)
    rw [List.foldl_cons, scrubReadStep, hgood]
    exact ih fun p hp => h p (List.mem_cons_of_mem _ hp)

/-- What a line read leaves of memory and of the cell's scrubbers. -/
structure LineRead (c : Nat) (s t : State) : Prop where
  mem : t.mem = s.mem
  scrub : (t.cell c).scrub = (s.cell c).scrub
  cells : s.cellsBut t c

theorem LineRead.refl (c : Nat) (s : State) : LineRead c s s := ⟨rfl, rfl, cellsBut_refl s c⟩

theorem LineRead.trans {c : Nat} {s t u : State} (h : LineRead c s t) (h' : LineRead c t u) : LineRead c s u :=
  ⟨h'.mem.trans h.mem, h'.scrub.trans h.scrub, fun e he => (h'.cells e he).trans (h.cells e he)⟩

theorem lineRead_of_within {c : Nat} {s t : State} {w : List Comp} (h : s.within w t) (hm : .mem ∉ w) (hc : .cells ∉ w) : LineRead c s t :=
  have hcells := StartPhases.within_same h .cells hc
  ⟨StartPhases.within_same h .mem hm, by rw [DescriptorQueue.cell_of_cells hcells], fun e _ => DescriptorQueue.cell_of_cells hcells e⟩

theorem lineRead_setCell {c : Nat} {s : State} {x : Cell} (h : x.scrub = (s.cell c).scrub) : LineRead c s (s.setCell c x) :=
  ⟨rfl, by rw [cell_setCell, if_pos rfl, h], cellsBut_setCell (cellsBut_refl s c) x⟩

theorem lineRead_queueTest (s : State) (c unit sn word : Nat) : LineRead c s (s.queueTest c unit sn word) := by
  unfold State.queueTest
  dsimp only
  split_ifs
  · exact .refl c s
  · exact lineRead_setCell rfl

theorem lineRead_correction (s : State) (c off port syn : Nat) : LineRead c s (s.correction c off port syn) := by
  have hrec (t : State) : LineRead c t (((t.incSatUn (cellKey c SPM_ECC_CNT) 0 16 1).raiseLim 1000000 0x20 (.cell c 0)
      (State.errLast off port syn)).setErrLast c off port syn) :=
    lineRead_of_within (w := [.regs, .err])
      (within_setErrLast (by decide) (within_raiseLim (by decide) (within_incSatUn (by decide) (within_refl t)))) (by decide) (by decide)
  refine LineRead.trans (LineRead.trans ?_ (lineRead_setCell ?_)) (hrec _)
  · split
    · exact lineRead_queueTest ..
    · exact .refl c s
  · rfl

theorem lineRead_readWord (s : State) (c off port : Nat) : LineRead c s (s.readWord c off port).1 := by
  have hcount : LineRead c s (s.incSatUn (cellKey c SPM_ECC_CNT) 16 16 1) :=
    lineRead_of_within (within_incSatUn (List.Subset.refl _) (within_refl s)) (by decide) (by decide)
  simp only [State.readWord]
  split
  · exact .refl c s
  · exact lineRead_correction ..
  · exact hcount
  · exact hcount

theorem lineRead_wordRecord (s : State) (cls c off port syn : Nat) (struck : Option Nat) : LineRead c s (s.wordRecord cls c off port syn struck) :=
  (lineRead_queueTest s c 1 s.err.nextSn off).trans
    (lineRead_of_within (w := [.regs, .err]) (within_setErrLast (by decide) (within_raise (by decide) (within_refl _))) (by decide) (by decide))

theorem lineRead_step (c : Nat) (s : State) (o : Nat) : LineRead c s (scrubReadStep c s o) := by
  have h := lineRead_readWord s c o 0
  unfold scrubReadStep
  split
  · rename_i u syn hu
    rw [hu] at h
    exact h.trans (lineRead_wordRecord ..)
  · rename_i u _ _ hu
    rw [hu] at h
    exact h

theorem lineRead_line (s : State) (c b : Nat) : LineRead c s ((s.scrubWords c b).foldl (scrubReadStep c) (s.act c 1 1)) :=
  List.foldlRecOn (motive := fun t => LineRead c s t) _ _ (lineRead_of_within (within_act (List.Subset.refl _) (within_refl s)) (by decide) (by decide))
    fun _ ht _ _ => ht.trans (lineRead_step ..)

theorem scrubWords_congr {s t : State} {c b : Nat} (h : (t.scrubOf c b).line = (s.scrubOf c b).line) : t.scrubWords c b = s.scrubWords c b := by
  simp only [State.scrubWords, h]

theorem wordAt_of_mem {s t : State} (h : t.mem = s.mem) (c o : Nat) : t.wordAt c o = s.wordAt c o := wordAt_congr fun _ _ => byte_of_mem h _

theorem chkAt_of_mem {s t : State} (h : t.mem = s.mem) (c o : Nat) : t.chkAt c o = s.chkAt c o := congrArg BitVec.toNat (byte_of_mem h _)

theorem scrubLineRead_passes {s : State} {c b : Nat} (hline : (s.scrubOf c b).line < 3071)
    (htime : s.now ≤ (s.scrubOf c b).passStart + s.scrubLimit c b * 1000000)
    (hgood : ∀ o ∈ s.scrubWords c b, judge (s.wordAt c o) (s.chkAt c o) = .good) :
    ∃ t, (s.scrubLate c b).scrubRead c b = t ∧ (t.scrubOf c b).line = (s.scrubOf c b).line + 1 ∧
      (t.scrubOf c b).due = (s.scrubOf c b).due + s.scrubInterval c ∧ t.mem = s.mem ∧ t.regs = s.regs ∧ t.err = s.err ∧ s.cellsBut t c := by
  rw [scrubLate_intime htime, scrubRead_eq, if_pos ((all_good_iff ..).2 hgood), readGood_foldl 1 1 hgood, scrubNext_eq (s := s.act c 1 1) hline]
  refine ⟨_, rfl, ?_, ?_, rfl, rfl, rfl, cellsBut_setScrub (cellsBut_refl s c) b _⟩
  · rw [scrubOf_setScrub_same]
    rfl
  · rw [scrubOf_setScrub_same]
    rfl

theorem some_bad {s : State} {c b : Nat} (hbad : ¬ ∀ o ∈ s.scrubWords c b, judge (s.wordAt c o) (s.chkAt c o) = .good) :
    ¬ ((s.scrubLate c b).scrubWords c b).all (fun o => judge ((s.scrubLate c b).wordAt c o) ((s.scrubLate c b).chkAt c o) == .good) = true := by
  obtain ⟨hline, hmem, -⟩ := scrubLate_keeps s c b
  rw [all_good_iff, scrubWords_congr hline]
  intro hgood
  refine hbad fun o ho => ?_
  rw [← wordAt_of_mem hmem, ← chkAt_of_mem hmem]
  exact hgood o ho

theorem lineRead_waits {s u v : State} {c b : Nat} (hread : LineRead c u v) (hline : (u.scrubOf c b).line = (s.scrubOf c b).line)
    (hmem : u.mem = s.mem) (hcells : s.cellsBut u c) : ((v.setScrub c b { v.scrubOf c b with wb := true }).scrubOf c b).line = (s.scrubOf c b).line ∧
      ((v.setScrub c b { v.scrubOf c b with wb := true }).scrubOf c b).wb = true ∧ (v.setScrub c b { v.scrubOf c b with wb := true }).mem = s.mem ∧
      s.cellsBut (v.setScrub c b { v.scrubOf c b with wb := true }) c := by
  have hscrub : v.scrubOf c b = u.scrubOf c b := congrArg (fun m => SMap.get m b ScrubSt.reset) hread.scrub
  rw [scrubOf_setScrub_same, hscrub]
  exact ⟨hline, rfl, hread.mem.trans hmem, cellsBut_setScrub (fun e he => (hread.cells e he).trans (hcells e he)) b _⟩

theorem scrubLineRead_waits {s : State} {c b : Nat} (hbad : ¬ ∀ o ∈ s.scrubWords c b, judge (s.wordAt c o) (s.chkAt c o) = .good) :
    ∃ t, (s.scrubLate c b).scrubRead c b = t ∧ (t.scrubOf c b).line = (s.scrubOf c b).line ∧ (t.scrubOf c b).wb = true ∧ t.mem = s.mem ∧ s.cellsBut t c := by
  obtain ⟨hline, hmem, hcells⟩ := scrubLate_keeps s c b
  exact ⟨_, (scrubRead_eq ..).trans (if_neg (some_bad hbad)), lineRead_waits (lineRead_line ..) hline hmem hcells⟩

/-! ### The write-back -/

theorem judge_single_lt {w chk v : Nat} (hw : w < 2 ^ 64) (h : judge w chk = .single v) : v < 2 ^ 64 := by
  unfold judge at h
  dsimp only at h
  split at h
  · cases h
  · split at h
    · cases h
    · split at h
      · rename_i i hi
        cases h
        obtain ⟨hlt, -⟩ := List.findIdx?_eq_some_iff_getElem.1 hi
        exact Nat.xor_lt_two_pow hw (Nat.pow_lt_pow_right (by decide) (hlt.trans_eq (by decide)))
      · split at h
        · cases h
          exact hw
        · cases h

/-- A word and its check byte as the scrubber leaves them. -/
def mended (w chk : Nat) : Nat × Nat :=
  match judge w chk with
  | .good => (w, chk)
  | .single v => (v, eccByte v)
  | _ => (0, 0xFF)

/-- The step of a write-back over one word. -/
def scrubWriteStep (c : Nat) (t : State) (o : Nat) : State :=
  match judge (t.wordAt c o) (t.chkAt c o) with
  | .good => t
  | .single v => t.writeWord c o v
  | _ => t.poisonWord c o

theorem mended_lt {w chk : Nat} (hw : w < 2 ^ 64) (hc : chk < 256) : (mended w chk).1 < 2 ^ 64 ∧ (mended w chk).2 < 256 := by
  unfold mended
  split
  · exact ⟨hw, hc⟩
  · exact ⟨judge_single_lt hw ‹_›, eccByte_lt _⟩
  · exact ⟨Nat.two_pow_pos 64, show 0xFF < 256 by decide⟩

/-- A word that already reads as it should counts as stored. -/
theorem storesWords_keep {s t : State} {c d n : Nat} {w chk : Nat → Nat} (h : StoresWords s t c d n w chk) (hw : t.wordAt c (d + 8 * n) = w n % 2 ^ 64)
    (hchk : t.chkAt c (d + 8 * n) = chk n % 256) : StoresWords s t c d (n + 1) w chk where
  word j hj := by
    rcases Nat.lt_succ_iff_lt_or_eq.1 hj with hlt | rfl
    · exact h.word j hlt
    · exact hw
  check j hj := by
    rcases Nat.lt_succ_iff_lt_or_eq.1 hj with hlt | rfl
    · exact h.check j hlt
    · exact hchk
  otherWord o ho hne := h.otherWord o ho fun j hj => hne j (Nat.lt_succ_of_lt hj)
  otherByte k hk := h.otherByte k fun i hi => hk i (by omega)
  reach := h.reach
  cells := h.cells
  cell := h.cell

theorem scrubWriteStep_stores {s t : State} {c d n : Nat} (hd : d % 8 = 0) (hn : d + 8 * n < 0x180000)
    (h : StoresWords s t c d n (fun j => (mended (s.wordAt c (d + 8 * j)) (s.chkAt c (d + 8 * j))).1)
      fun j => (mended (s.wordAt c (d + 8 * j)) (s.chkAt c (d + 8 * j))).2) :
    StoresWords s (scrubWriteStep c t (d + 8 * n)) c d (n + 1) (fun j => (mended (s.wordAt c (d + 8 * j)) (s.chkAt c (d + 8 * j))).1)
      fun j => (mended (s.wordAt c (d + 8 * j)) (s.chkAt c (d + 8 * j))).2 := by
  obtain ⟨hword, hchk⟩ := h.otherWord (d + 8 * n) hn fun j hj => by omega
  have hput := h.putWord hd hn
  have hmend : mended (s.wordAt c (d + 8 * n)) (s.chkAt c (d + 8 * n)) = match judge (s.wordAt c (d + 8 * n)) (s.chkAt c (d + 8 * n)) with
      | .good => (s.wordAt c (d + 8 * n), s.chkAt c (d + 8 * n))
      | .single v => (v, eccByte v)
      | _ => (0, 0xFF) := rfl
  rw [scrubWriteStep, hword, hchk]
  split
  · rename_i hj
    rw [hj] at hmend
    refine storesWords_keep h ?_ ?_
    · rw [hword, hmend, Nat.mod_eq_of_lt (wordAt_lt ..)]
    · rw [hchk, hmend, Nat.mod_eq_of_lt (BankOwnership.chkAt_lt ..)]
  · rename_i v hj
    rw [hj] at hmend
    simp only [hmend] at hput
    exact hput
  · rename_i hgood hsingle
    have hpoison : mended (s.wordAt c (d + 8 * n)) (s.chkAt c (d + 8 * n)) = (0, 0xFF) := by
      rw [hmend]
      split
      · exact absurd ‹_› hgood
      · exact absurd ‹_› (hsingle _)
      · rfl
    simp only [hpoison] at hput
    exact hput

theorem scrubOf_putWord (s : State) (c o w chk b : Nat) : ((s.putWord c o w chk).scrubOf c b).line = (s.scrubOf c b).line := by
  rw [State.scrubOf, cell_putWord, ← State.scrubOf, State.scrubDrop]
  split
  · by_cases hb : b = bankOf o
    · rw [hb, scrubOf_setScrub_same]
    · rw [State.scrubOf, State.setScrub, cell_setCell, if_pos rfl]
      exact congrArg ScrubSt.line (get_put_other _ _ _ hb)
  · rfl

theorem scrubOf_writeStep (c : Nat) (t : State) (o b : Nat) : ((scrubWriteStep c t o).scrubOf c b).line = (t.scrubOf c b).line := by
  unfold scrubWriteStep
  split
  · rfl
  · exact scrubOf_putWord ..
  · exact scrubOf_putWord ..

theorem scrubWriteback_eq (s : State) (c b : Nat) :
    s.scrubWriteback c b = ((s.scrubWords c b).foldl (scrubWriteStep c) (s.act c 1 1)).scrubNext c b := rfl

theorem scrubWords_eq (s : State) (c b : Nat) : s.scrubWords c b = (List.range 8).map fun i => b * 0x30000 + (s.scrubOf c b).line * 64 + 8 * i := rfl

theorem scrubWriteback_mends {s : State} {c b : Nat} (hb : b < 8) (hline : (s.scrubOf c b).line < 3071) :
    ∃ t, s.scrubWriteback c b = t ∧ (t.scrubOf c b).line = (s.scrubOf c b).line + 1 ∧ (t.scrubOf c b).wb = false ∧
      (∀ o ∈ s.scrubWords c b, (t.wordAt c o, t.chkAt c o) = mended (s.wordAt c o) (s.chkAt c o)) ∧
      (∀ k, (∀ o ∈ s.scrubWords c b, (∀ i, i < 8 → k ≠ spmKey c (o + i)) ∧ k ≠ spmChkKey c o) → t.byte k = s.byte k) ∧ s.cellsBut t c := by
  obtain ⟨d, hd⟩ : ∃ d, d = b * 0x30000 + (s.scrubOf c b).line * 64 := ⟨_, rfl⟩
  have hwords : s.scrubWords c b = (List.range 8).map fun i => d + 8 * i := by rw [scrubWords_eq, hd]
  have hfold (n : Nat) (hn : n ≤ 8) : StoresWords s (((List.range n).map fun i => d + 8 * i).foldl (scrubWriteStep c) (s.act c 1 1)) c d n
      (fun j => (mended (s.wordAt c (d + 8 * j)) (s.chkAt c (d + 8 * j))).1) fun j => (mended (s.wordAt c (d + 8 * j)) (s.chkAt c (d + 8 * j))).2 := by
    induction n with
    | zero => exact .act ..
    | succ n ih =>
      rw [List.range_succ, List.map_append, List.foldl_append]
      exact scrubWriteStep_stores (by omega) (by omega) (ih (by omega))
  have hkeep : (((s.scrubWords c b).foldl (scrubWriteStep c) (s.act c 1 1)).scrubOf c b).line = (s.scrubOf c b).line :=
    List.foldlRecOn (motive := fun t : State => (t.scrubOf c b).line = (s.scrubOf c b).line) _ _ rfl fun t ht o _ => (scrubOf_writeStep c t o b).trans ht
  have h := hfold 8 le_rfl
  rw [← hwords] at h
  rw [scrubWriteback_eq]
  generalize (s.scrubWords c b).foldl (scrubWriteStep c) (s.act c 1 1) = u at h hkeep ⊢
  rw [scrubNext_eq (by rwa [hkeep])]
  refine ⟨_, rfl, ?_, ?_, fun o ho => ?_, fun k hk => ?_, cellsBut_setScrub h.cells b _⟩
  · rw [scrubOf_setScrub_same, hkeep]
  · rw [scrubOf_setScrub_same]
  · rw [hwords] at ho
    obtain ⟨j, hj, rfl⟩ := List.mem_map.1 ho
    rw [List.mem_range] at hj
    obtain ⟨hw, hc⟩ := mended_lt (wordAt_lt s c (d + 8 * j)) (BankOwnership.chkAt_lt s c (d + 8 * j))
    refine Prod.ext ?_ ?_
    · exact (h.word j hj).trans (Nat.mod_eq_of_lt hw)
    · exact (h.check j hj).trans (Nat.mod_eq_of_lt hc)
  · refine (h.otherByte k fun i hi => ?_)
    have hmem : d + 8 * (i / 8) ∈ s.scrubWords c b := by
      rw [hwords]
      exact List.mem_map_of_mem (List.mem_range.2 (by omega))
    obtain ⟨hbytes, hchk⟩ := hk _ hmem
    refine ⟨?_, ?_⟩
    · have := hbytes (i % 8) (by omega)
      rwa [show d + 8 * (i / 8) + i % 8 = d + i by omega] at this
    · rw [show spmChkKey c (d + i) = spmChkKey c (d + 8 * (i / 8)) by unfold spmChkKey; omega]
      exact hchk

theorem wb_putWord {s : State} {c o : Nat} (w chk : Nat) (h : (s.scrubOf c (bankOf o)).line = o % 0x30000 / 64) :
    ((s.putWord c o w chk).scrubOf c (bankOf o)).wb = false := by
  rw [State.scrubOf, cell_putWord, ← State.scrubOf, State.scrubDrop]
  split
  · rw [scrubOf_setScrub_same]
  · rename_i hn
    simpa [h] using hn

theorem scrubWriteback_late {s : State} {c b : Nat} (hb : b < 8) (hline : (s.scrubOf c b).line < 3071) :
    ∃ t, (s.scrubLate c b).scrubWriteback c b = t ∧ (t.scrubOf c b).line = (s.scrubOf c b).line + 1 ∧ (t.scrubOf c b).wb = false ∧
      (∀ o ∈ s.scrubWords c b, (t.wordAt c o, t.chkAt c o) = mended (s.wordAt c o) (s.chkAt c o)) ∧
      (∀ k, (∀ o ∈ s.scrubWords c b, (∀ i, i < 8 → k ≠ spmKey c (o + i)) ∧ k ≠ spmChkKey c o) → t.byte k = s.byte k) ∧ s.cellsBut t c := by
  obtain ⟨hlate, hmem, hcells⟩ := scrubLate_keeps s c b
  obtain ⟨t, ht, hnext, hwb, hwords, hbytes, hother⟩ := scrubWriteback_mends hb (hlate.trans_lt hline)
  refine ⟨t, ht, hnext.trans (by rw [hlate]), hwb, fun o ho => ?_, fun k hk => ?_, fun e he => (hother e he).trans (hcells e he)⟩
  · rw [hwords o (by rwa [scrubWords_congr hlate]), wordAt_of_mem hmem, chkAt_of_mem hmem]
  · rw [hbytes k (by rwa [scrubWords_congr hlate]), byte_of_mem hmem]

theorem mended_cases {t : State} {c o w chk : Nat} (h : (t.wordAt c o, t.chkAt c o) = mended w chk) :
    match judge w chk with
    | .good => t.wordAt c o = w ∧ t.chkAt c o = chk
    | .single v => t.wordAt c o = v ∧ t.chkAt c o = eccByte v
    | _ => t.wordAt c o = 0 ∧ t.chkAt c o = 0xFF := by
  unfold mended at h
  cases hj : judge w chk <;> simpa [hj] using h

/-! ### The scrubber of the instruction stores -/

theorem imemWord_congr {s t : State} {c o : Nat} {k : CoreSel} (h : ∀ i, i < 8 → t.byte (imemKey c k (o / 8 * 8) + i) = s.byte (imemKey c k (o / 8 * 8) + i)) :
    t.imemWord c k o = s.imemWord c k o :=
  congrArg ofLe (List.map_congr_left fun i hi => h i (List.mem_range.1 hi))

theorem byte_putImem (s : State) (c o w j : Nat) (k : CoreSel) : (s.putImem c k o w).byte j =
    if j = imemChkKey c k o then BitVec.ofNat 8 (eccByte w)
    else if imemKey c k (o / 8 * 8) ≤ j ∧ j < imemKey c k (o / 8 * 8) + 8 then ((toLe 8 w)[j - imemKey c k (o / 8 * 8)]?).getD 0 else s.byte j := by
  rw [State.putImem, byte_setByte, byte_setBytes, StartPhases.length_toLe]

theorem imemWord_lt (s : State) (c o : Nat) (k : CoreSel) : s.imemWord c k o < 2 ^ 64 := by
  have h := ofLe_lt (s.bytes (imemKey c k (o / 8 * 8)) 8)
  rw [State.bytes, List.length_map, List.length_range] at h
  exact h

theorem imemKey_apart (c : Nat) (k : CoreSel) {o p i : Nat} (ho : o < 0x8000) (hp : p < 0x8000) (hi : i < 8) :
    imemKey c k (o / 8 * 8) + i ≠ imemChkKey c k p := by
  cases k <;> simp only [imemKey, imemChkKey] <;> omega

theorem imemWord_putImem_same (s : State) (c : Nat) {o w : Nat} (k : CoreSel) (ho : o < 0x8000) (hw : w < 2 ^ 64) :
    (s.putImem c k o w).imemWord c k o = w := by
  have hbytes : (s.putImem c k o w).bytes (imemKey c k (o / 8 * 8)) 8 = toLe 8 w := by
    refine List.ext_getElem (by rw [State.bytes, List.length_map, List.length_range, StartPhases.length_toLe]) fun i hi _ => ?_
    have hi : i < 8 := by simpa [State.bytes] using hi
    simp only [State.bytes, List.getElem_map, List.getElem_range]
    rw [byte_putImem, if_neg (imemKey_apart c k ho ho hi), if_pos (by omega), Nat.add_sub_cancel_left,
      List.getElem?_eq_getElem (by rw [StartPhases.length_toLe]; exact hi), Option.getD_some]
  rw [State.imemWord, hbytes, ofLe_toLe, Nat.mod_eq_of_lt]
  exact hw.trans_eq (by norm_num)

theorem imemChk_putImem_same (s : State) (c o w : Nat) (k : CoreSel) : (s.putImem c k o w).imemChk c k o = eccByte w := by
  rw [State.imemChk, byte_putImem, if_pos rfl, BitVec.toNat_ofNat, Nat.mod_eq_of_lt (eccByte_lt w)]

theorem imemWord_putImem_other (s : State) (c : Nat) {o p : Nat} (w : Nat) (k : CoreSel) (ho : o < 0x8000) (hp : p < 0x8000) (h : p / 8 ≠ o / 8) :
    (s.putImem c k o w).imemWord c k p = s.imemWord c k p := by
  refine imemWord_congr fun i hi => ?_
  rw [byte_putImem, if_neg (imemKey_apart c k hp ho hi), if_neg]
  cases k <;> simp only [imemKey] <;> omega

theorem imemChk_putImem_other (s : State) (c : Nat) {o p : Nat} (w : Nat) (k : CoreSel) (ho : o < 0x8000) (hp : p < 0x8000) (h : p / 8 ≠ o / 8) :
    (s.putImem c k o w).imemChk c k p = s.imemChk c k p := by
  rw [State.imemChk, byte_putImem, if_neg, if_neg]
  · rfl
  · cases k <;> simp only [imemKey, imemChkKey] <;> omega
  · cases k <;> simp only [imemChkKey] <;> omega

theorem readImem_good {s : State} {c o : Nat} {k : CoreSel} (h : judge (s.imemWord c k o) (s.imemChk c k o) = .good) : (s.readImem c k o).1 = s := by
  simp [State.readImem, h]

theorem readImem_single {s : State} {c o v : Nat} {k : CoreSel} (h : judge (s.imemWord c k o) (s.imemChk c k o) = .single v) :
    (s.readImem c k o).1 = ((s.putImem c k o v).incSatUn (State.coreKey c k HEAD_IMEM_CNT) 0 16 1).raise 0x27 (.cell c 0) 0 none := by
  simp [State.readImem, h]

/-- A store's word `o` corrected, counted and recorded. -/
def imemMended (s : State) (c : Nat) (k : CoreSel) (o v : Nat) : State :=
  ((s.putImem c k o v).incSatUn (State.coreKey c k HEAD_IMEM_CNT) 0 16 1).raise 0x27 (.cell c 0) 0 none

theorem mem_imemMended (s : State) (c : Nat) (k : CoreSel) (o v : Nat) : (imemMended s c k o v).mem = (s.putImem c k o v).mem :=
  StartPhases.within_same (w := [.regs, .err]) (within_raise (by decide) (within_incSatUn (by decide) (within_refl _))) .mem (by decide)

theorem imemWord_of_mem {s t : State} (h : t.mem = s.mem) (c o : Nat) (k : CoreSel) : t.imemWord c k o = s.imemWord c k o :=
  imemWord_congr fun _ _ => byte_of_mem h _

theorem imemChk_of_mem {s t : State} (h : t.mem = s.mem) (c o : Nat) (k : CoreSel) : t.imemChk c k o = s.imemChk c k o :=
  congrArg BitVec.toNat (byte_of_mem h _)

theorem readImem_foldl {s : State} {c l j v : Nat} {k : CoreSel} (hl : l < 512) (hj : j < 8)
    (h : ∀ i, i < 8 → judge (s.imemWord c k (64 * l + 8 * i)) (s.imemChk c k (64 * l + 8 * i)) = if i = j then .single v else .good) :
    (List.range 8).foldl (fun t i => (t.readImem c k (64 * l + 8 * i)).1) s = imemMended s c k (64 * l + 8 * j) v := by
  have hfold (n : Nat) (hn : n ≤ 8) : (List.range n).foldl (fun t i => (t.readImem c k (64 * l + 8 * i)).1) s =
      if n ≤ j then s else imemMended s c k (64 * l + 8 * j) v := by
    induction n with
    | zero => rw [if_pos (Nat.zero_le j)]; rfl
    | succ n ih =>
      rw [List.range_succ, List.foldl_append, List.foldl_cons, List.foldl_nil, ih (by omega)]
      have hgood := h n (by omega)
      rcases Nat.lt_trichotomy n j with hlt | rfl | hlt
      · rw [if_neg (Nat.ne_of_lt hlt)] at hgood
        rw [if_pos (Nat.le_of_lt hlt), if_pos (show n + 1 ≤ j from hlt), readImem_good hgood]
      · rw [if_pos rfl] at hgood
        rw [if_pos le_rfl, if_neg (show ¬ n + 1 ≤ n by omega), readImem_single hgood]
        rfl
      · rw [if_neg (Nat.ne_of_gt hlt)] at hgood
        rw [if_neg (by omega), if_neg (by omega), readImem_good]
        rw [imemWord_of_mem (mem_imemMended ..), imemChk_of_mem (mem_imemMended ..), imemWord_putImem_other s c v k (by omega) (by omega) (by omega),
          imemChk_putImem_other s c v k (by omega) (by omega) (by omega), hgood]
  exact (hfold 8 le_rfl).trans (if_neg (by omega))

theorem imemMended_counts {s : State} {c o v : Nat} {k : CoreSel} (ho : o < 0x8000) (hv : v < 2 ^ 64)
    (hw : s.written (State.coreKey c k HEAD_IMEM_CNT) = false) :
    (imemMended s c k o v).imemWord c k o = v ∧ (imemMended s c k o v).imemChk c k o = eccByte v ∧
      (imemMended s c k o v).fld (State.coreKey c k HEAD_IMEM_CNT) 0 16 = min (s.fld (State.coreKey c k HEAD_IMEM_CNT) 0 16 + 1) 0xFFFF ∧
      s.logs (imemMended s c k o v) 0x27 (.cell c 0) 0 ∧ s.regsBut (imemMended s c k o v) [State.coreKey c k HEAD_IMEM_CNT] ∧
      s.cellsBut (imemMended s c k o v) c := by
  have hput := within_putImem (s0 := s) (c := c) (k := k) (off := o) (w := v) (List.Subset.refl _) (within_refl s)
  have hwrote : (s.putImem c k o v).written (State.coreKey c k HEAD_IMEM_CNT) = false := by
    rw [State.written, StartPhases.within_same hput .wrote (by decide)]
    exact hw
  have hregs := StartPhases.within_same hput .regs (by decide)
  have hall : s.within [.regs, .mem, .err] (imemMended s c k o v) :=
    within_raise (by decide) (within_incSatUn (by decide) (within_putImem (by decide) (within_refl s)))
  refine ⟨?_, ?_, ?_, ?_, ?_, fun e _ => DescriptorQueue.cell_of_cells (StartPhases.within_same hall .cells (by decide)) e⟩
  · rw [imemWord_of_mem (mem_imemMended ..), imemWord_putImem_same s c k ho hv]
  · rw [imemChk_of_mem (mem_imemMended ..), imemChk_putImem_same]
  · rw [imemMended, raise_fld, State.incSatUn, hwrote, if_neg (by decide), fld_incSat_same _ _ (by decide),
      fld_of_regs (StartPhases.within_part hput) hregs]
    rfl
  · refine logs_raise ?_ ..
    rw [DescriptorQueue.err_incSatUn, StartPhases.within_same hput .err (by decide)]
  · refine regsBut_of_regs (t := (s.putImem c k o v).incSatUn (State.coreKey c k HEAD_IMEM_CNT) 0 16 1) ?_ (raise_part ..) (raise_regs ..)
    exact DescriptorQueue.regsBut_incSatUn (fun j _ => reg_of_regs (StartPhases.within_part hput) hregs j) (List.mem_singleton_self _) _ _ _

/-- Settles O13: the primer, the two steps of a line scrubber, and the scrubber of the instruction stores. -/
theorem primerAndScrubberMendWords : Obligations.PrimerAndScrubberMendWords := by
  unfold Obligations.PrimerAndScrubberMendWords
  refine ⟨?_, ?_, ?_, ?_, ?_, ?_⟩
  · intro s c h
    obtain ⟨t, ht, h⟩ := primerDone_primes h
    exact ⟨t, next_congr ht, h⟩
  · intro s c b hprimed hwb hdue hline htime hgood
    obtain ⟨t, ht, h⟩ := scrubLineRead_passes hline htime hgood
    exact ⟨t, next_congr ((if_pos (by simp [hprimed, hwb, hdue])).trans ht), h⟩
  · intro s c b hprimed hwb hdue hbad
    obtain ⟨t, ht, h⟩ := scrubLineRead_waits hbad
    exact ⟨t, next_congr ((if_pos (by simp [hprimed, hwb, hdue])).trans ht), h⟩
  · intro s c o w hline
    have hwb := wb_putWord w (eccByte w) hline
    refine ⟨hwb, fun t ht => ?_⟩
    have hidle : exec (.scrubWriteback c (bankOf o)) (s.writeWord c o w) = .next (s.writeWord c o w) :=
      next_congr (if_neg (by rw [State.writeWord, hwb]; decide))
    exact (Host.Outcome.next.inj (hidle.symm.trans ht)).symm
  · intro s c b hb hline hwb
    obtain ⟨t, ht, hnext, hwb', hwords, h⟩ := scrubWriteback_late hb hline
    exact ⟨t, next_congr ((if_pos hwb).trans ht), hnext, hwb', fun o ho => mended_cases (hwords o ho), h⟩
  · intro s c j v l k hprimed hw hdue hl hlt hj hwords
    have hv : v < 2 ^ 64 := by
      have hsingle := hwords j hj
      rw [if_pos rfl] at hsingle
      exact judge_single_lt (imemWord_lt ..) hsingle
    obtain ⟨s1, hs1⟩ : ∃ s1, s1 = s.setCell c { s.cell c with
      iscrub := (s.cell c).iscrub.set (match k with | .head => 0 | .tail => 1) ((l + 1) % 512)
      iscrubDue := (s.cell c).iscrubDue.set (match k with | .head => 0 | .tail => 1)
        (((s.cell c).iscrubDue[match k with | .head => 0 | .tail => 1]?).getD 0 + s.scrubInterval c) } := ⟨_, rfl⟩
    have hfold := readImem_foldl (s := s1) hlt hj (by rw [hs1]; exact hwords)
    obtain ⟨hword, hchk, hcnt, hlogs, hregs, hcells⟩ := imemMended_counts (s := s1) (o := 64 * l + 8 * j) (by omega) hv (by rw [hs1]; exact hw)
    refine ⟨imemMended s1 c k (64 * l + 8 * j) v, next_congr ((if_pos ⟨hprimed, hdue⟩).trans ?_), hword, hchk, ?_, ?_, ?_, ?_⟩
    · rw [← hfold, hs1, ← hl] <;> rfl
    · rw [hcnt, hs1, setCell_fld]
    · rw [hs1] at hlogs ⊢
      exact hlogs
    · rw [hs1] at hregs ⊢
      exact regsBut_trans (fun k _ => setCell_reg ..) hregs
    · rw [hs1] at hcells ⊢
      exact fun e he => (hcells e he).trans (cellsBut_setCell (cellsBut_refl s c) _ e he)

end Sys2Proof.PrimerAndScrubbers
end

section
/-! PROOFS. The integer instructions of the cores (R160, log 29). -/

namespace Sys2Proof.IntegerInstructions

open Sys2Proof Sys2Proof.Machine

/-! ### The fields of an encoded word -/

theorem fields_encI {op f3 rd rs imm : Nat} (hop : op < 2 ^ 7) (hrd : rd < 2 ^ 5) (hf3 : f3 < 2 ^ 3) (hrs : rs < 2 ^ 5) (himm : imm < 2 ^ 12) :
    opc (encI op f3 rd rs imm) = op ∧ rdOf (encI op f3 rd rs imm) = rd ∧ f3Of (encI op f3 rd rs imm) = f3 ∧ rs1Of (encI op f3 rd rs imm) = rs ∧
      immI (encI op f3 rd rs imm) = sext32 12 imm := by
  have himm' : bits (encI op f3 rd rs imm) 20 12 = imm := by
    simp only [encI, bits]
    omega
  refine ⟨?_, ?_, ?_, ?_, by rw [immI, himm']⟩ <;> simp only [opc, rdOf, f3Of, rs1Of, encI, bits] <;> omega

theorem fields_encR {op f3 f7 rd rs1 rs2 : Nat} (hop : op < 2 ^ 7) (hrd : rd < 2 ^ 5) (hf3 : f3 < 2 ^ 3) (hrs1 : rs1 < 2 ^ 5) (hrs2 : rs2 < 2 ^ 5)
    (hf7 : f7 < 2 ^ 7) :
    opc (encR op f3 f7 rd rs1 rs2) = op ∧ rdOf (encR op f3 f7 rd rs1 rs2) = rd ∧ f3Of (encR op f3 f7 rd rs1 rs2) = f3 ∧
      rs1Of (encR op f3 f7 rd rs1 rs2) = rs1 ∧ rs2Of (encR op f3 f7 rd rs1 rs2) = rs2 ∧ f7Of (encR op f3 f7 rd rs1 rs2) = f7 := by
  simp only [opc, rdOf, f3Of, rs1Of, rs2Of, f7Of, encR, bits]
  omega

/-- The word of an upper immediate. -/
def encU (op rd imm : Nat) : Nat := op + rd * 2 ^ 7 + imm * 2 ^ 12

theorem fields_encU {op rd imm : Nat} (hop : op < 2 ^ 7) (hrd : rd < 2 ^ 5) (himm : imm < 2 ^ 20) :
    opc (encU op rd imm) = op ∧ rdOf (encU op rd imm) = rd ∧ immU (encU op rd imm) = imm * 2 ^ 12 := by
  simp only [opc, rdOf, immU, encU, bits]
  omega

theorem sext32_small {n v : Nat} (hn : n < 32) (h : v < 2 ^ n) : sext32 (n + 1) v = v := by
  have hle : 2 ^ n < 2 ^ 32 := Nat.pow_lt_pow_right (by decide) hn
  have hlt : v < 2 ^ (n + 1) := h.trans (Nat.pow_lt_pow_right (by decide) (Nat.lt_succ_self n))
  rw [sext32, toSigned, Nat.add_sub_cancel, Nat.mod_eq_of_lt hlt, if_pos h, ofSigned]
  omega

theorem bits_lt (v lo w : Nat) : bits v lo w < 2 ^ w := Nat.mod_lt _ (Nat.two_pow_pos w)

/-- The fields of a jump's offset make it up. -/
theorem jumpOffset_parts {off : Nat} (hoff : off < 2 ^ 20) (heven : off % 2 = 0) :
    bits off 1 10 * 2 + bits off 11 1 * 2 ^ 11 + bits off 12 8 * 2 ^ 12 + bits off 20 1 * 2 ^ 20 = off ∧ bits off 20 1 = 0 := by
  simp only [bits]
  omega

/-- The fields of a branch's offset make it up. -/
theorem branchOffset_parts {off : Nat} (hoff : off < 2 ^ 12) (heven : off % 2 = 0) :
    bits off 1 4 * 2 + bits off 5 6 * 2 ^ 5 + bits off 11 1 * 2 ^ 11 + bits off 12 1 * 2 ^ 12 = off ∧ bits off 12 1 = 0 := by
  simp only [bits]
  omega

/-- A bit field of a word given as what is below it, the field and what is above it. -/
theorem bits_of_parts {lo w below v above : Nat} (hb : below < 2 ^ lo) (hv : v < 2 ^ w) : bits (below + 2 ^ lo * (v + 2 ^ w * above)) lo w = v := by
  rw [bits, Nat.add_mul_div_left _ _ (Nat.two_pow_pos lo), Nat.div_eq_of_lt hb, Nat.zero_add, Nat.add_mul_mod_self_left, Nat.mod_eq_of_lt hv]

theorem bits_eq_of_parts {x lo w v : Nat} (below above : Nat) (hx : x = below + 2 ^ lo * (v + 2 ^ w * above)) (hb : below < 2 ^ lo) (hv : v < 2 ^ w) :
    bits x lo w = v := hx ▸ bits_of_parts hb hv

section
variable {a b c d rd f3 rs1 rs2 : Nat}

/-- The fields of a word laid out as a jump. -/
theorem jumpLayout (hrd : rd < 2 ^ 5) (ha : a < 2 ^ 10) (hb : b < 2 ^ 1) (hc : c < 2 ^ 8) (hd : d < 2 ^ 1) {x : Nat}
    (hx : x = 0x6F + rd * 2 ^ 7 + c * 2 ^ 12 + b * 2 ^ 20 + a * 2 ^ 21 + d * 2 ^ 31) :
    bits x 0 7 = 0x6F ∧ bits x 7 5 = rd ∧ bits x 12 8 = c ∧ bits x 20 1 = b ∧ bits x 21 10 = a ∧ bits x 31 1 = d := by
  refine ⟨?_, ?_, ?_, ?_, ?_, ?_⟩
  · exact bits_eq_of_parts 0 (rd + c * 2 ^ 5 + b * 2 ^ 13 + a * 2 ^ 14 + d * 2 ^ 24) (by omega) (by decide) (by decide)
  · exact bits_eq_of_parts 0x6F (c + b * 2 ^ 8 + a * 2 ^ 9 + d * 2 ^ 19) (by omega) (by decide) hrd
  · exact bits_eq_of_parts (0x6F + rd * 2 ^ 7) (b + a * 2 + d * 2 ^ 11) (by omega) (by omega) hc
  · exact bits_eq_of_parts (0x6F + rd * 2 ^ 7 + c * 2 ^ 12) (a + d * 2 ^ 10) (by omega) (by omega) hb
  · exact bits_eq_of_parts (0x6F + rd * 2 ^ 7 + c * 2 ^ 12 + b * 2 ^ 20) d (by omega) (by omega) ha
  · exact bits_eq_of_parts (0x6F + rd * 2 ^ 7 + c * 2 ^ 12 + b * 2 ^ 20 + a * 2 ^ 21) 0 (by omega) (by omega) hd

/-- The fields of a word laid out as a branch. -/
theorem branchLayout (hf3 : f3 < 2 ^ 3) (hrs1 : rs1 < 2 ^ 5) (hrs2 : rs2 < 2 ^ 5) (ha : a < 2 ^ 4) (hb : b < 2 ^ 6) (hc : c < 2 ^ 1) (hd : d < 2 ^ 1)
    {x : Nat} (hx : x = 0x63 + c * 2 ^ 7 + a * 2 ^ 8 + f3 * 2 ^ 12 + rs1 * 2 ^ 15 + rs2 * 2 ^ 20 + b * 2 ^ 25 + d * 2 ^ 31) :
    bits x 0 7 = 0x63 ∧ bits x 7 1 = c ∧ bits x 8 4 = a ∧ bits x 12 3 = f3 ∧ bits x 15 5 = rs1 ∧ bits x 20 5 = rs2 ∧ bits x 25 6 = b ∧
      bits x 31 1 = d := by
  refine ⟨?_, ?_, ?_, ?_, ?_, ?_, ?_, ?_⟩
  · exact bits_eq_of_parts 0 (c + a * 2 + f3 * 2 ^ 5 + rs1 * 2 ^ 8 + rs2 * 2 ^ 13 + b * 2 ^ 18 + d * 2 ^ 24) (by omega) (by decide) (by decide)
  · exact bits_eq_of_parts 0x63 (a + f3 * 2 ^ 4 + rs1 * 2 ^ 7 + rs2 * 2 ^ 12 + b * 2 ^ 17 + d * 2 ^ 23) (by omega) (by decide) hc
  · exact bits_eq_of_parts (0x63 + c * 2 ^ 7) (f3 + rs1 * 2 ^ 3 + rs2 * 2 ^ 8 + b * 2 ^ 13 + d * 2 ^ 19) (by omega) (by omega) ha
  · exact bits_eq_of_parts (0x63 + c * 2 ^ 7 + a * 2 ^ 8) (rs1 + rs2 * 2 ^ 5 + b * 2 ^ 10 + d * 2 ^ 16) (by omega) (by omega) hf3
  · exact bits_eq_of_parts (0x63 + c * 2 ^ 7 + a * 2 ^ 8 + f3 * 2 ^ 12) (rs2 + b * 2 ^ 5 + d * 2 ^ 11) (by omega) (by omega) hrs1
  · exact bits_eq_of_parts (0x63 + c * 2 ^ 7 + a * 2 ^ 8 + f3 * 2 ^ 12 + rs1 * 2 ^ 15) (b + d * 2 ^ 6) (by omega) (by omega) hrs2
  · exact bits_eq_of_parts (0x63 + c * 2 ^ 7 + a * 2 ^ 8 + f3 * 2 ^ 12 + rs1 * 2 ^ 15 + rs2 * 2 ^ 20) d (by omega) (by omega) hb
  · exact bits_eq_of_parts (0x63 + c * 2 ^ 7 + a * 2 ^ 8 + f3 * 2 ^ 12 + rs1 * 2 ^ 15 + rs2 * 2 ^ 20 + b * 2 ^ 25) 0 (by omega) (by omega) hd

end

theorem fields_encJ {rd off : Nat} (hrd : rd < 2 ^ 5) (hoff : off < 2 ^ 20) (heven : off % 2 = 0) :
    opc (encJ rd off) = 0x6F ∧ rdOf (encJ rd off) = rd ∧ immJ (encJ rd off) = off := by
  obtain ⟨hparts, -⟩ := jumpOffset_parts hoff heven
  obtain ⟨hop, hd, h12, h20, h21, h31⟩ := jumpLayout hrd (bits_lt off 1 10) (bits_lt off 11 1) (bits_lt off 12 8) (bits_lt off 20 1) rfl
  refine ⟨hop, hd, ?_⟩
  rw [encJ, immJ, h12, h20, h21, h31, hparts, sext32_small (by decide) hoff]

theorem fields_encB {f3 rs1 rs2 off : Nat} (hf3 : f3 < 2 ^ 3) (hrs1 : rs1 < 2 ^ 5) (hrs2 : rs2 < 2 ^ 5) (hoff : off < 2 ^ 12) (heven : off % 2 = 0) :
    opc (encB f3 rs1 rs2 off) = 0x63 ∧ f3Of (encB f3 rs1 rs2 off) = f3 ∧ rs1Of (encB f3 rs1 rs2 off) = rs1 ∧ rs2Of (encB f3 rs1 rs2 off) = rs2 ∧
      immB (encB f3 rs1 rs2 off) = off := by
  obtain ⟨hparts, -⟩ := branchOffset_parts hoff heven
  obtain ⟨hop, h7, h8, h12, h15, h20, h25, h31⟩ :=
    branchLayout hf3 hrs1 hrs2 (bits_lt off 1 4) (bits_lt off 5 6) (bits_lt off 11 1) (bits_lt off 12 1) rfl
  refine ⟨hop, h12, h15, h20, ?_⟩
  rw [encB, immB, h7, h8, h25, h31, hparts, sext32_small (by decide) hoff]

/-! ### Registers -/

@[simp] theorem xr_goto (x : CoreSt) (p r : Nat) : (x.goto p).xr r = x.xr r := rfl

@[simp] theorem pcn_goto (x : CoreSt) (p : Nat) : (x.goto p).pcn = p % 2 ^ 32 := BitVec.toNat_ofNat ..

theorem pcn_lt (x : CoreSt) : x.pcn < 2 ^ 32 := x.pc.isLt

/-- Register 0 reads zero and is never written. -/
theorem xr_wx {x : CoreSt} {rd r : Nat} (v : Nat) (hlen : x.x.length = 32) (hr : r < 32) :
    (x.wx rd v).xr r = if r = rd ∧ rd ≠ 0 then v % 2 ^ 32 else x.xr r := by
  by_cases h0 : rd = 0
  · simp [CoreSt.wx, h0]
  · by_cases hrd : r = rd
    · subst hrd
      rw [if_pos ⟨rfl, h0⟩]
      simp [CoreSt.wx, CoreSt.xr, h0, hlen, hr]
    · rw [if_neg fun h => hrd h.1]
      simp [CoreSt.wx, CoreSt.xr, h0, Ne.symm hrd]

theorem xr_lt (x : CoreSt) (r : Nat) : x.xr r < 2 ^ 32 := by
  unfold CoreSt.xr
  split
  · decide
  · exact BitVec.isLt _

/-- A core that goes on with one register written. -/
theorem wrote_goto {x : CoreSt} {rd : Nat} (v p : Nat) (hlen : x.x.length = 32) (r : Nat) (hr : r < 32) :
    ((x.wx rd v).goto p).xr r = if r = rd ∧ rd ≠ 0 then v % 2 ^ 32 else x.xr r := by rw [xr_goto, xr_wx v hlen hr]

/-- Writing an integer register leaves the rest of a core. -/
theorem wx_keeps (x : CoreSt) (rd v : Nat) : (x.wx rd v).f = x.f ∧ (x.wx rd v).v = x.v ∧ (x.wx rd v).csr = x.csr := by
  unfold CoreSt.wx
  split <;> exact ⟨rfl, rfl, rfl⟩

/-! ### The instructions -/

section
variable (x : CoreSt) (cyc h : Nat)

theorem exec_addi {rd rs imm : Nat} (hrd : rd < 32) (hrs : rs < 32) (himm : imm < 4096) :
    execScalar x (encI 0x13 0 rd rs imm) 4 cyc h = some ((x.wx rd (x.xr rs + sext32 12 imm)).goto ((x.pcn + 4) % 2 ^ 32)) := by
  obtain ⟨hop, hd, hf3, hs, hi⟩ := fields_encI (op := 0x13) (f3 := 0) (by decide) hrd (by decide) hrs himm
  simp [execScalar, hop, hd, hf3, hs, hi, alu]

theorem exec_op {f3 f7 rd rs1 rs2 v : Nat} (hf3 : f3 < 8) (hrd : rd < 32) (hrs1 : rs1 < 32) (hrs2 : rs2 < 32)
    (hv : (f7 = 0 ∧ v = alu f3 (x.xr rs1) (x.xr rs2) false) ∨ (f7 = 1 ∧ v = mulDiv f3 (x.xr rs1) (x.xr rs2)) ∨
      (f7 = 0x20 ∧ f3 = 0 ∧ v = alu 0 (x.xr rs1) (x.xr rs2) true)) :
    execScalar x (encR 0x33 f3 f7 rd rs1 rs2) 4 cyc h = some ((x.wx rd v).goto ((x.pcn + 4) % 2 ^ 32)) := by
  have h7 : f7 < 2 ^ 7 := by omega
  obtain ⟨hop, hd, hf, h1, h2, hf7⟩ := fields_encR (op := 0x33) (by decide) hrd hf3 hrs1 hrs2 h7
  rcases hv with ⟨rfl, rfl⟩ | ⟨rfl, rfl⟩ | ⟨rfl, rfl, rfl⟩
  · simp [execScalar, hop, hd, hf, h1, h2, hf7]
  · simp [execScalar, hop, hd, hf, h1, h2, hf7]
  · simp [execScalar, hop, hd, hf, h1, h2, hf7]

theorem exec_lui {rd imm : Nat} (hrd : rd < 32) (himm : imm < 2 ^ 20) :
    execScalar x (encU 0x37 rd imm) 4 cyc h = some ((x.wx rd (imm * 2 ^ 12)).goto ((x.pcn + 4) % 2 ^ 32)) := by
  obtain ⟨hop, hd, hi⟩ := fields_encU (op := 0x37) (by decide) hrd himm
  simp [execScalar, hop, hd, hi]

theorem exec_auipc {rd imm : Nat} (hrd : rd < 32) (himm : imm < 2 ^ 20) :
    execScalar x (encU 0x17 rd imm) 4 cyc h = some ((x.wx rd (x.pcn + imm * 2 ^ 12)).goto ((x.pcn + 4) % 2 ^ 32)) := by
  obtain ⟨hop, hd, hi⟩ := fields_encU (op := 0x17) (by decide) hrd himm
  simp [execScalar, hop, hd, hi]

theorem exec_jal {rd off : Nat} (hrd : rd < 32) (hoff : off < 2 ^ 20) (heven : off % 2 = 0) :
    execScalar x (encJ rd off) 4 cyc h = some ((x.wx rd ((x.pcn + 4) % 2 ^ 32)).goto (x.pcn + off)) := by
  obtain ⟨hop, hd, hi⟩ := fields_encJ hrd hoff heven
  simp [execScalar, hop, hd, hi]

theorem exec_beq {rs1 rs2 off : Nat} (hrs1 : rs1 < 32) (hrs2 : rs2 < 32) (hoff : off < 2 ^ 12) (heven : off % 2 = 0) :
    execScalar x (encB 0 rs1 rs2 off) 4 cyc h = some (x.goto (if x.xr rs1 = x.xr rs2 then x.pcn + off else (x.pcn + 4) % 2 ^ 32)) := by
  obtain ⟨hop, hf, h1, h2, hi⟩ := fields_encB (f3 := 0) (by decide) hrs1 hrs2 hoff heven
  simp [execScalar, hop, hf, h1, h2, hi, branchTaken]

end

/-- Settles O15, one equation per instruction. -/
theorem integerInstructionsCompute : Obligations.IntegerInstructionsCompute := by
  unfold Obligations.IntegerInstructionsCompute
  refine ⟨?_, ?_, ?_, ?_, ?_⟩
  · intro x rd rs imm cyc h hlen hrd hrs himm
    obtain ⟨hf, hv, hcsr⟩ := wx_keeps x rd (x.xr rs + sext32 12 imm)
    exact ⟨_, exec_addi x cyc h hrd hrs himm, by rw [pcn_goto, Nat.mod_mod], wrote_goto _ _ hlen, hf, hv, hcsr⟩
  · intro x rd rs1 rs2 cyc h hlen hrd hrs1 hrs2
    refine ⟨⟨_, exec_op x cyc h (by decide) hrd hrs1 hrs2 (.inl ⟨rfl, rfl⟩), wrote_goto _ _ hlen⟩,
      ⟨_, exec_op x cyc h (by decide) hrd hrs1 hrs2 (.inr (.inr ⟨rfl, rfl, rfl⟩)), wrote_goto _ _ hlen⟩, fun h0 => ?_, fun h0 => ?_⟩
    · refine ⟨_, exec_op x cyc h (v := 0xFFFFFFFF) (by decide) hrd hrs1 hrs2 (.inr (.inl ⟨rfl, ?_⟩)), wrote_goto _ _ hlen⟩
      simp [mulDiv, h0]
    · refine ⟨_, exec_op x cyc h (v := x.xr rs1) (by decide) hrd hrs1 hrs2 (.inr (.inl ⟨rfl, ?_⟩)), fun r hr => ?_⟩
      · simp [mulDiv, h0]
      · rw [wrote_goto _ _ hlen r hr, Nat.mod_eq_of_lt (xr_lt x rs1)]
  · intro x rd imm cyc h hlen hrd himm
    refine ⟨⟨_, exec_lui x cyc h hrd himm, fun r hr => ?_⟩, ⟨_, exec_auipc x cyc h hrd himm, wrote_goto _ _ hlen⟩⟩
    rw [wrote_goto _ _ hlen r hr, Nat.mod_eq_of_lt (by omega)]
  · intro x rd off cyc h hlen hrd hoff heven
    refine ⟨_, exec_jal x cyc h hrd hoff heven, by rw [pcn_goto], fun r hr => ?_⟩
    rw [wrote_goto _ _ hlen r hr, Nat.mod_mod]
  · intro x rs1 rs2 off cyc h hrs1 hrs2 hoff heven
    refine ⟨_, exec_beq x cyc h hrs1 hrs2 hoff heven, rfl, ?_⟩
    rw [pcn_goto]
    split
    · rfl
    · rw [Nat.mod_mod]

end Sys2Proof.IntegerInstructions
end

section
/-! PROOFS. What the cores' shared steps do to their cell: registers of a core, exceptions, stops, issue (R160-R164). -/

namespace Sys2Proof.CoreSteps

open Sys2Proof Sys2Proof.Machine Sys2Proof.Laws Sys2Proof.Clauses
open Sys2Proof.Machine.State (coreKey hartOf trapEnter)

section
variable (s t : State) (c : Nat) (k : CoreSel)

/-! ### The core that is written -/

theorem core_of_cells {s t : State} (h : t.cells = s.cells) (d : Nat) (q : CoreSel) : t.core d q = s.core d q := by
  unfold State.core State.cell
  rw [h]

theorem core_setCore_other (x : CoreSt) {d : Nat} {q : CoreSel} (h : d ≠ c ∨ q ≠ k) : (s.setCore c k x).core d q = s.core d q := by
  by_cases hd : d = c
  · subst hd
    have hq : q ≠ k := h.resolve_left fun hn => hn rfl
    cases k <;> cases q <;> simp_all [State.setCore, State.core, cell_setCell]
  · cases k <;> simp [State.setCore, State.core, cell_setCell, hd]

theorem coresBut_refl : s.coresBut s c k := fun _ _ _ => rfl

theorem coresBut_setCore {s t : State} {c : Nat} {k : CoreSel} (h : s.coresBut t c k) (x : CoreSt) : s.coresBut (t.setCore c k x) c k :=
  fun d q hd => (core_setCore_other t c k x hd).trans (h d q hd)

theorem coresBut_of_cells {s t u : State} {c : Nat} {k : CoreSel} (h : s.coresBut t c k) (hu : u.cells = t.cells) : s.coresBut u c k :=
  fun d q hd => (core_of_cells hu d q).trans (h d q hd)

theorem cell_setCore_other (x : CoreSt) {d : Nat} (h : d ≠ c) : (s.setCore c k x).cell d = s.cell d := by
  cases k <;> simp [State.setCore, cell_setCell, h]

theorem mxe_setCore (x : CoreSt) (d : Nat) : (s.setCore c k x).mxe d = s.mxe d := by
  cases k <;> simp only [State.setCore, State.mxe, cell_setCell] <;> split <;> simp_all

/-! ### A core's CSRs -/

theorem csrOf_putCsr (x : CoreSt) (n v m : Nat) : (x.putCsr n v).csrOf m = if m = n then v % 2 ^ 32 else x.csrOf m := by
  unfold CoreSt.csrOf CoreSt.putCsr
  split
  · next h =>
    subst h
    simp
  · next h => simp [get_set_other _ _ _ _ h]

@[simp] theorem csrOf_goto (x : CoreSt) (p n : Nat) : (x.goto p).csrOf n = x.csrOf n := rfl

/-! ### The trap registers -/

@[simp] theorem trapRegs_cells (cause pc val : Nat) : (s.trapRegs c k cause pc val).cells = s.cells := rfl
@[simp] theorem trapRegs_mem (cause pc val : Nat) : (s.trapRegs c k cause pc val).mem = s.mem := rfl
@[simp] theorem trapRegs_core (cause pc val d : Nat) (q : CoreSel) : (s.trapRegs c k cause pc val).core d q = s.core d q := rfl
@[simp] theorem trapRegs_err (cause pc val : Nat) : (s.trapRegs c k cause pc val).err = s.err := by simp [State.trapRegs]

/-- Offsets of a core's registers in its cell are apart. -/
theorem coreKey_inj {k : CoreSel} {c a b : Nat} (h : coreKey c k a = coreKey c k b) : a = b := by
  simp only [coreKey, cellKey] at h
  omega

theorem coreKey_ne {a b : Nat} (h : a ≠ b) : coreKey c k a ≠ coreKey c k b := fun e => h (coreKey_inj e)

theorem reg_trapRegs_cause (cause pc val : Nat) :
    (s.trapRegs c k cause pc val).reg (coreKey c k HEAD_TRAP_CAUSE) = BitVec.ofNat 64 cause := by
  rw [State.trapRegs, reg_setReg, if_neg (coreKey_ne c k (by decide)), reg_setReg, if_neg (coreKey_ne c k (by decide)), reg_setReg, if_pos rfl]

theorem reg_trapRegs_pc (cause pc val : Nat) : (s.trapRegs c k cause pc val).reg (coreKey c k HEAD_TRAP_PC) = BitVec.ofNat 64 pc := by
  rw [State.trapRegs, reg_setReg, if_neg (coreKey_ne c k (by decide)), reg_setReg, if_pos rfl]

theorem reg_trapRegs_val (cause pc val : Nat) : (s.trapRegs c k cause pc val).reg (coreKey c k HEAD_TRAP_VAL) = BitVec.ofNat 64 val := by
  rw [State.trapRegs, reg_setReg, if_pos rfl]

/-! ### A core that stops -/

/-- The core after a stop: only its state and what it waited for changed. -/
def stopped (x : CoreSt) (st : Nat) : CoreSt := { x with st := st, stopReq := false, wait := none, far := none }

@[simp] theorem stopped_st (x : CoreSt) (st : Nat) : (stopped x st).st = st := rfl
@[simp] theorem stopped_x (x : CoreSt) (st : Nat) : (stopped x st).x = x.x := rfl
@[simp] theorem stopped_mb (x : CoreSt) (st : Nat) : (stopped x st).mb = x.mb := rfl

@[simp] theorem stopCore_mem (st : Nat) : (s.stopCore c k st).mem = s.mem := by simp [State.stopCore]
@[simp] theorem stopCore_err (st : Nat) : (s.stopCore c k st).err = s.err := by simp [State.stopCore]

theorem core_stopCore (st : Nat) : (s.stopCore c k st).core c k = stopped (s.core c k) st := by
  rw [State.stopCore, core_of_cells (setFld_cells ..), core_setCore_same, stopped]

theorem coresBut_stopCore {s t : State} {c : Nat} {k : CoreSel} (h : s.coresBut t c k) (st : Nat) : s.coresBut (t.stopCore c k st) c k :=
  coresBut_of_cells (coresBut_setCore h _) (setFld_cells ..)

theorem reg_stopCore_other (st : Nat) {j : Nat} (h : j ≠ coreKey c k HEAD_CTRL) : (s.stopCore c k st).reg j = s.reg j := by
  rw [State.stopCore, reg_setFld, if_neg h, setCore_reg]

theorem run_stopCore (st : Nat) : (s.stopCore c k st).fld (coreKey c k HEAD_CTRL) 0 1 = 0 := by
  rw [State.stopCore]
  exact fld_setFld_same _ _ (by decide)

@[simp] theorem busStop_mem (cause pc val : Nat) : (s.busStop c k cause pc val).mem = s.mem := by simp [State.busStop]
@[simp] theorem busStop_err (cause pc val : Nat) : (s.busStop c k cause pc val).err = s.err := by simp [State.busStop]

theorem core_busStop (cause pc val : Nat) : (s.busStop c k cause pc val).core c k = stopped (s.core c k) 3 := by
  rw [State.busStop, core_stopCore, trapRegs_core]

theorem coresBut_busStop {s t : State} {c : Nat} {k : CoreSel} (h : s.coresBut t c k) (cause pc val : Nat) :
    s.coresBut (t.busStop c k cause pc val) c k := coresBut_stopCore (coresBut_of_cells h (trapRegs_cells ..)) 3

theorem cause_busStop (cause pc val : Nat) : (s.busStop c k cause pc val).reg (coreKey c k HEAD_TRAP_CAUSE) = BitVec.ofNat 64 cause := by
  rw [State.busStop, reg_stopCore_other _ _ _ _ (coreKey_ne c k (by decide)), reg_trapRegs_cause]

theorem val_busStop (cause pc val : Nat) : (s.busStop c k cause pc val).reg (coreKey c k HEAD_TRAP_VAL) = BitVec.ofNat 64 val := by
  rw [State.busStop, reg_stopCore_other _ _ _ _ (coreKey_ne c k (by decide)), reg_trapRegs_val]

/-! ### Exceptions (R164) -/

/-- An exception that the core cannot take stops it with STATE 3 and class 0x29. -/
theorem exception_stops (cause tval : Nat) (h : ¬ (s.fld (coreKey c k HEAD_CTRL) 1 1 = 1 ∧ ¬ (s.core c k).inHandler)) :
    s.exception c k cause tval =
      ((s.trapRegs c k cause (s.core c k).pcn tval).raiseAt 0x29 c (cause + hartOf k * 2 ^ 32)).stopCore c k 3 := if_neg h

theorem exception_vectors (cause tval : Nat) (h : s.fld (coreKey c k HEAD_CTRL) 1 1 = 1 ∧ ¬ (s.core c k).inHandler) :
    s.exception c k cause tval = (s.trapRegs c k cause (s.core c k).pcn tval).setCore c k (trapEnter (s.core c k) cause tval) := if_pos h

/-- What an exception that stops the core leaves. -/
structure Stopped (cause pc : Nat) : Prop where
  st : (t.core c k).st = 3
  x : (t.core c k).x = (s.core c k).x
  mem : t.mem = s.mem
  trap : (t.reg (coreKey c k HEAD_TRAP_CAUSE)).toNat = cause
  trapPc : (t.reg (coreKey c k HEAD_TRAP_PC)).toNat = pc
  run : t.fld (coreKey c k HEAD_CTRL) 0 1 = 0
  others : s.coresBut t c k
  logged : s.logs t 0x29 (.cell c 0) (cause + hartOf k * 2 ^ 32)

theorem stopped_of_exception {s : State} {c : Nat} {k : CoreSel} {cause : Nat} (tval : Nat) (hc : cause < 2 ^ 64)
    (h : s.fld (coreKey c k HEAD_CTRL) 1 1 = 0) : Stopped s (s.exception c k cause tval) c k cause (s.core c k).pcn := by
  have hp : (s.core c k).pcn < 2 ^ 64 := (s.core c k).pc.isLt.trans (by decide)
  rw [exception_stops s c k cause tval fun hn => by rw [h] at hn; exact absurd hn.1 (by decide)]
  have hcore : ∀ d q, ((s.trapRegs c k cause (s.core c k).pcn tval).raiseAt 0x29 c (cause + hartOf k * 2 ^ 32)).core d q = s.core d q := fun d q => by
    rw [raiseAt_core, trapRegs_core]
  refine ⟨?_, ?_, ?_, ?_, ?_, run_stopCore .., coresBut_stopCore (fun d q _ => hcore d q) 3, ?_⟩
  · rw [core_stopCore, stopped_st]
  · rw [core_stopCore, stopped_x, hcore]
  · rw [stopCore_mem, raiseAt_mem, trapRegs_mem]
  · rw [reg_stopCore_other _ _ _ _ (coreKey_ne c k (by decide)), raiseAt_reg, reg_trapRegs_cause]
    exact Nat.mod_eq_of_lt hc
  · rw [reg_stopCore_other _ _ _ _ (coreKey_ne c k (by decide)), raiseAt_reg, reg_trapRegs_pc]
    exact Nat.mod_eq_of_lt hp
  · exact logs_of_err (logs_raiseAt (congrArg _ (trapRegs_err s c k ..)) _ _ _) (congrArg _ (stopCore_err ..))

/-! ### Issue (R162, R180) -/

/-- An instruction of the command's row runs, with the region's activity counted; a fence counts its own. -/
theorem issue_of_issues {s : State} {c w len raw : Nat} {k : CoreSel} {row : Row} (run : State → Nat → Nat → Nat → State)
    (h : s.issues c k row w len raw) : s.issue c k row run = run (if row = .fence then s else s.act c 3 1) w len raw := by
  obtain ⟨hi, hk, hf, hr⟩ := h
  simp [State.issue, hi, hk, hf, hr]

theorem issue_of_fault {s : State} {c a : Nat} {k : CoreSel} (run : State → Nat → Nat → Nat → State) (hi : s.canIssue c k = true)
    (hk : s.atKernel c k = false) (hf : s.fetch c k = (s, .fault a)) : s.issue c k .other run = s.exception c k 1 a := by
  simp [State.issue, hi, hk, hf]

theorem coresBut_act (i n : Nat) : s.coresBut (s.act c i n) c k := coresBut_of_cells (coresBut_refl s c k) (act_cells ..)

end

end Sys2Proof.CoreSteps
end

section
/-! PROOFS. Instructions that touch no memory, and exceptions (R160, R164). -/

namespace Sys2Proof.CoreIssue

open Sys2Proof Sys2Proof.Machine Sys2Proof.Laws Sys2Proof.Clauses Sys2Proof.CoreSteps
open Sys2Proof.Machine.State (coreKey hartOf trapEnter runOther)

section
variable {s : State} {c w len raw : Nat} {k : CoreSel}

theorem exec_other (h : s.issues c k .other w len raw) : exec (.coreInstruction c k) s = .next (runOther c k (s.act c 3 1) w len raw) := by
  show Host.Outcome.next (s.issue c k .other (runOther c k)) = _
  rw [issue_of_issues _ h, if_neg (by decide)]

/-- An instruction without memory access takes the core to the state that `execScalar` gives. -/
theorem scalar_issue {y : CoreSt} (h : s.issues c k .other w len raw) (hm : scalarMem (s.core c k) w = none) (he : w ≠ 0x73) (hb : w ≠ 0x00100073)
    (hv : opc w ≠ 0x57) (hy : execScalar (s.core c k) w len (s.cell c).cyc (hartOf k) = some y) :
    ∃ t, exec (.coreInstruction c k) s = .next t ∧ t.core c k = y ∧ s.coresBut t c k ∧ t.mem = s.mem ∧ t.regs = s.regs ∧ t.err = s.err ∧
      t.mxe c = s.mxe c := by
  have hrun : runOther c k (s.act c 3 1) w len raw = (s.act c 3 1).setCore c k y := by
    simp only [runOther, act_core, act_cell, hm, he, hb, hv, if_false, hy]
  refine ⟨_, (exec_other h).trans (next_congr hrun), core_setCore_same .., coresBut_setCore (coresBut_act s c k 3 1) y, ?_, ?_, ?_, ?_⟩
  · rw [setCore_mem, act_mem]
  · rw [setCore_regs, act_regs]
  · rw [setCore_err, act_err]
  · rw [mxe_setCore, act_mxe]

theorem vector_issue {y : CoreSt} (h : s.issues c k .other w len raw) (hm : scalarMem (s.core c k) w = none) (hv : opc w = 0x57)
    (hy : execVector (s.core c k) w = some y) :
    ∃ t, exec (.coreInstruction c k) s = .next t ∧ t.core c k = y.goto ((s.core c k).pcn + len) ∧ s.coresBut t c k ∧ t.mem = s.mem ∧
      t.regs = s.regs ∧ t.err = s.err := by
  have he : w ≠ 0x73 := fun e => absurd (e ▸ hv) (by decide)
  have hb : w ≠ 0x00100073 := fun e => absurd (e ▸ hv) (by decide)
  have hrun : runOther c k (s.act c 3 1) w len raw =
      ((s.act c 3 1).setCore c k (y.goto ((s.core c k).pcn + len))).act c 4 (vLanes (s.core c k) w) := by
    simp only [runOther, act_core, hm, he, hb, if_false, if_pos hv, hy]
  refine ⟨_, (exec_other h).trans (next_congr hrun), ?_, ?_, ?_, ?_, ?_⟩
  · rw [act_core, core_setCore_same]
  · exact coresBut_of_cells (coresBut_setCore (coresBut_act s c k 3 1) _) (act_cells ..)
  · rw [act_mem, setCore_mem, act_mem]
  · rw [act_regs, setCore_regs, act_regs]
  · rw [act_err, setCore_err, act_err]

/-- An illegal word raises exception 2. -/
theorem run_illegal (hm : scalarMem (s.core c k) w = none) (he : w ≠ 0x73) (hb : w ≠ 0x00100073) (hv : opc w ≠ 0x57)
    (hy : execScalar (s.core c k) w len (s.cell c).cyc (hartOf k) = none) :
    runOther c k (s.act c 3 1) w len raw = (s.act c 3 1).exception c k 2 raw := by
  simp only [runOther, act_core, act_cell, hm, he, hb, hv, if_false, hy]

theorem scalarMem_ecall (x : CoreSt) : scalarMem x 0x73 = none := rfl

/-- The trap state of a core that vectors. -/
theorem trapEnter_fields (x : CoreSt) (cause tval : Nat) (hm : x.csrOf 0x305 % 4 = 0) (hc : cause < 2 ^ 32) :
    (trapEnter x cause tval).pcn = x.csrOf 0x305 ∧ (trapEnter x cause tval).inHandler = true ∧ (trapEnter x cause tval).csrOf 0x341 = x.pcn ∧
      (trapEnter x cause tval).csrOf 0x342 = cause ∧ (trapEnter x cause tval).st = x.st ∧ (trapEnter x cause tval).x = x.x := by
  have hlt : x.csrOf 0x305 < 2 ^ 32 := BitVec.isLt _
  have hpc : x.pcn < 2 ^ 32 := x.pc.isLt
  refine ⟨?_, rfl, ?_, ?_, rfl, rfl⟩
  · show (BitVec.ofNat 32 (x.csrOf 0x305 / 4 * 4)).toNat = _
    rw [BitVec.toNat_ofNat]
    omega
  · show ((((x.putCsr 0x341 x.pcn).putCsr 0x342 cause).putCsr 0x343 tval).putCsr 0x300 _).csrOf 0x341 = _
    simpa [csrOf_putCsr] using hpc
  · show ((((x.putCsr 0x341 x.pcn).putCsr 0x342 cause).putCsr 0x343 tval).putCsr 0x300 _).csrOf 0x342 = _
    simpa [csrOf_putCsr] using hc

theorem running_of_issues {row : Row} (h : s.issues c k row w len raw) : (s.core c k).st = 1 := by
  have hi := h.1
  simp only [State.canIssue, Bool.and_eq_true, beq_iff_eq] at hi
  exact hi.1.1.1.1

theorem ecall_vectors (h : s.issues c k .other 0x73 len raw) (he : s.fld (coreKey c k HEAD_CTRL) 1 1 = 1) (hh : (s.core c k).inHandler = false)
    (hm : (s.core c k).csrOf 0x305 % 4 = 0) :
    ∃ t, exec (.coreInstruction c k) s = .next t ∧ (t.core c k).pcn = (s.core c k).csrOf 0x305 ∧ (t.core c k).inHandler = true ∧
      (t.core c k).csrOf 0x341 = (s.core c k).pcn ∧ (t.core c k).csrOf 0x342 = 11 ∧ (t.core c k).st = 1 ∧ (t.core c k).x = (s.core c k).x ∧
      (t.reg (coreKey c k HEAD_TRAP_CAUSE)).toNat = 11 ∧ t.err = s.err ∧ t.mem = s.mem := by
  have hrun : runOther c k (s.act c 3 1) 0x73 len raw =
      ((s.act c 3 1).trapRegs c k 11 (s.core c k).pcn 0).setCore c k (trapEnter (s.core c k) 11 0) := by
    have hn : ¬ (s.core c k).inHandler = true := by simp [hh]
    have hx := exception_vectors (s.act c 3 1) c k 11 0 (by rw [act_fld, act_core]; exact ⟨he, hn⟩)
    rw [act_core] at hx
    simp only [runOther, act_core, scalarMem_ecall, if_true, hx]
  obtain ⟨hpc, hin, hepc, hcause, hst, hx⟩ := trapEnter_fields (s.core c k) 11 0 hm (by decide)
  refine ⟨_, (exec_other h).trans (next_congr hrun), ?_⟩
  rw [core_setCore_same, setCore_reg, reg_trapRegs_cause, setCore_err, setCore_mem, trapRegs_err, act_err, trapRegs_mem, act_mem]
  exact ⟨hpc, hin, hepc, hcause, hst.trans (running_of_issues h), hx, rfl, rfl, rfl⟩

/-- A stop that starts after the region's activity was counted. -/
theorem stopped_after_act {t : State} {cause pc i n : Nat} (h : Stopped (s.act c i n) t c k cause pc) : Stopped s t c k cause pc where
  st := h.st
  x := by rw [h.x, act_core]
  mem := by rw [h.mem, act_mem]
  trap := h.trap
  trapPc := h.trapPc
  run := h.run
  others := fun d q hd => by rw [h.others d q hd, act_core]
  logged := by
    obtain ⟨r, hq, hr⟩ := h.logged
    exact ⟨r, by rw [hq, act_err], hr⟩

theorem exception_after_act (cause i n tval : Nat) (hc : cause < 2 ^ 64) (h : s.fld (coreKey c k HEAD_CTRL) 1 1 = 0) :
    Stopped s ((s.act c i n).exception c k cause tval) c k cause (s.core c k).pcn := by
  have hs := stopped_of_exception (s := s.act c i n) (c := c) (k := k) (cause := cause) tval hc (by rw [act_fld, h])
  rw [act_core] at hs
  exact stopped_after_act hs

end

/-- Settles O16: an instruction runs as its execution says; an exception vectors through mtvec or stops the core. -/
theorem coreInstructionsIssue : Obligations.CoreInstructionsIssue := by
  refine ⟨fun s c w len raw k y h hm he hb hv hy => scalar_issue h hm he hb hv hy, fun s c w len raw k y h hm hv hy => vector_issue h hm hv hy,
    fun s c len raw k h he hh hm => ecall_vectors h he hh hm, fun s c w len raw k h hm hv he hb hy hen => ?_, fun s c k hi hk hpc hen => ?_⟩
  · have hs := exception_after_act (s := s) (c := c) (k := k) 2 3 1 raw (by decide) hen
    exact ⟨_, (exec_other h).trans (next_congr (run_illegal hm he hb hv hy)), hs.st, hs.trap, hs.trapPc, hs.run, hs.mem, hs.others, hs.logged⟩
  · have hf : s.fetch c k = (s, .fault (s.core c k).pcn) := if_pos hpc
    have hs := stopped_of_exception (s := s) (c := c) (k := k) (cause := 1) (s.core c k).pcn (by decide) hen
    exact ⟨_, next_congr (issue_of_fault _ hi hk hf), hs.st, hs.trap, hs.logged⟩

end Sys2Proof.CoreIssue
end

section
/-! PROOFS. Loads and stores of the cores to the scratchpad (R154, R161, R164, R166). -/

namespace Sys2Proof.CoreMemory

open Sys2Proof Sys2Proof.Machine Sys2Proof.Laws Sys2Proof.Clauses Sys2Proof.CoreSteps Sys2Proof.CoreIssue Sys2Proof.Scratchpad Sys2Proof.WordRuns
open Sys2Proof.Machine.State (coreKey hartOf corePort runLoad runStore runVector mbBytes mergeInto mergeBytes vElement accessCause)
open Sys2Proof.BankEngine (readWord_of_good)
open Sys2Proof.BankOwnership (spmRefuse_logs)
open Sys2Proof.IntegerInstructions (bits_eq_of_parts xr_wx)

/-! ### Bytes of a word and of a merge-buffer entry -/

/-- The bytes of a run within one word. -/
theorem bytes_of_word (s : State) (c : Nat) {o n : Nat} (hn : o % 8 + n ≤ 8) :
    ((List.range n).map fun i => BitVec.ofNat 8 (s.wordAt c o / 256 ^ (o % 8 + i))) = s.bytes (spmKey c o) n := by
  have hword : s.wordAt c o = s.wordAt c (o / 8 * 8) := by rw [State.wordAt, State.wordAt, Nat.mul_div_cancel _ (by decide)]
  unfold State.bytes
  refine List.map_congr_left fun i hi => ?_
  have hin : i < n := List.mem_range.1 hi
  have hb := byte_of_wordAt s c (o := o / 8 * 8) (i := o % 8 + i) (by omega) (by omega)
  have hkey : spmKey c (o / 8 * 8 + (o % 8 + i)) = spmKey c o + i := by
    unfold spmKey
    omega
  rw [hkey, ← hword] at hb
  exact BitVec.eq_of_toNat_eq (by rw [hb, BitVec.toNat_ofNat])

theorem find?_shifted (bs : List Byte) (r : Nat) {j : Nat} (hj : j < bs.length) :
    (bs.zipIdx.map fun p => (r + p.2, p.1)).find? (fun p => p.1 == r + j) = some (r + j, bs[j]) := by
  rw [List.find?_eq_some_iff_getElem]
  refine ⟨by simp, j, by simpa using hj, by simp, fun i hi => by simpa using (Nat.ne_of_lt hi)⟩

/-- A byte merged into a word reads back. -/
theorem byte_mergeBytes (w : Nat) (bs : List Byte) {r j : Nat} (hj : j < bs.length) (hr : r + bs.length ≤ 8) :
    BitVec.ofNat 8 ((BitVec.ofNat 64 (mergeBytes w (bs.zipIdx.map fun p => (r + p.2, p.1)))).toNat / 256 ^ (r + j)) = bs[j] := by
  have hi : r + j < 8 := by omega
  apply BitVec.eq_of_toNat_eq
  rw [BitVec.toNat_ofNat, BitVec.toNat_ofNat, mergeBytes, Nat.mod_eq_of_lt ((ofLe_lt _).trans_le (by simp)),
    show (2 : Nat) ^ 8 = 256 from rfl, ofLe_digit _ (by simpa using hi)]
  rw [List.getElem_map, List.getElem_range, find?_shifted bs r hj]

/-- The byte of an entry at a place of its word, where it holds one. -/
def heldByte (e : MbEntry) (i : Nat) : Option (Nat × Byte) :=
  if e.valid.getLsbD i then some (i, BitVec.ofNat 8 (e.data.toNat / 256 ^ i)) else none

theorem mbBytes_eq (e : MbEntry) : mbBytes e = (List.range 8).filterMap (heldByte e) := rfl

theorem heldByte_first (w now : Nat) {r : Nat} {bs : List Byte} (hr : r + bs.length ≤ 8) {i : Nat} (hi : i < 8) :
    heldByte (mergeInto ⟨w, 0, 0, now⟩ r bs now) i = if r ≤ i then bs[i - r]?.map fun b => (i, b) else none := by
  have hbit : (mergeInto ⟨w, 0, 0, now⟩ r bs now).valid.getLsbD i = (decide (r ≤ i) && decide (i - r < bs.length)) := by
    have hv : (mergeInto ⟨w, 0, 0, now⟩ r bs now).valid = BitVec.ofNat 8 ((2 ^ bs.length - 1) * 2 ^ r) := BitVec.zero_or
    rw [hv, BitVec.getLsbD_ofNat, Nat.testBit_mul_two_pow, Nat.testBit_two_pow_sub_one, decide_eq_true hi, Bool.true_and]
  rw [heldByte, hbit]
  by_cases hlo : r ≤ i
  · by_cases hhi : i - r < bs.length
    · have hb := byte_mergeBytes 0 bs hhi hr
      rw [Nat.add_sub_cancel' hlo] at hb
      simp only [hlo, hhi, decide_true, Bool.and_true, if_true, List.getElem?_eq_getElem hhi, Option.map_some]
      exact congrArg some (Prod.ext rfl hb)
    · simp [hhi]
  · simp [hlo]

/-- An entry that takes its first bytes holds those bytes. -/
theorem mbBytes_first (w now r : Nat) (bs : List Byte) (hr : r + bs.length ≤ 8) :
    mbBytes (mergeInto ⟨w, 0, 0, now⟩ r bs now) = bs.zipIdx.map fun p => (r + p.2, p.1) := by
  have hsplit : List.range 8 = List.range r ++ ((List.range bs.length).map (r + ·) ++ (List.range (8 - (r + bs.length))).map (r + bs.length + ·)) := by
    rw [← List.append_assoc, ← List.range_add, ← List.range_add, Nat.add_sub_cancel' hr]
  have hbelow : (List.range r).filterMap (heldByte (mergeInto ⟨w, 0, 0, now⟩ r bs now)) = [] := by
    rw [List.filterMap_eq_nil_iff]
    intro i hi
    have hlt : i < r := List.mem_range.1 hi
    rw [heldByte_first w now hr (by omega), if_neg (by omega)]
  have habove : ((List.range (8 - (r + bs.length))).map (r + bs.length + ·)).filterMap (heldByte (mergeInto ⟨w, 0, 0, now⟩ r bs now)) = [] := by
    rw [List.filterMap_eq_nil_iff]
    intro i hi
    obtain ⟨j, hj, rfl⟩ := List.mem_map.1 hi
    have hlt : j < 8 - (r + bs.length) := List.mem_range.1 hj
    rw [heldByte_first w now hr (by omega), if_pos (by omega), List.getElem?_eq_none (by omega), Option.map_none]
  have hheld : ((List.range bs.length).map (r + ·)).filterMap (heldByte (mergeInto ⟨w, 0, 0, now⟩ r bs now)) =
      (List.range bs.length).map fun i => (r + i, bs.getD i 0) := by
    rw [List.filterMap_map, ← List.filterMap_eq_map']
    refine List.filterMap_congr fun i hi => ?_
    have hlt : i < bs.length := List.mem_range.1 hi
    rw [Function.comp_apply, heldByte_first w now hr (by omega), if_pos (by omega), Nat.add_sub_cancel_left, List.getElem?_eq_getElem hlt,
      Option.map_some, List.getD_eq_getElem _ _ hlt]
  rw [mbBytes_eq, hsplit, List.filterMap_append, List.filterMap_append, hbelow, habove, hheld, List.nil_append, List.append_nil]
  refine List.ext_getElem (by simp) fun i hi hj => ?_
  have hlt : i < bs.length := by simpa using hi
  simp [hlt]

/-! ### What is read and checked stays when the region's activity is counted -/

section
variable (s : State) (c d i n : Nat)

@[simp] theorem spmCheckRun_act (off len port : Nat) (fw : Bool) : (s.act d i n).spmCheckRun c off len port fw = s.spmCheckRun c off len port fw := rfl
@[simp] theorem wordAt_act (off : Nat) : (s.act d i n).wordAt c off = s.wordAt c off := rfl
@[simp] theorem chkAt_act (off : Nat) : (s.act d i n).chkAt c off = s.chkAt c off := rfl

end

/-! ### Loads -/

section
variable {s : State} {c w len raw : Nat} {k : CoreSel} {m : SMem}

theorem find?_none_of_words {l : List MbEntry} {o : Nat} (h : ∀ e ∈ l, e.word ≠ o) : (l.find? fun e => e.word == o) = none :=
  List.find?_eq_none.2 fun e he => by simpa using h e he

/-- A load that the port may make, with none of its word in the merge buffer, reads the word. -/
theorem loadFrom_word {o n addr : Nat} (hcheck : s.spmCheckRun c o n (corePort k) false = none) (hmb : ∀ e ∈ (s.core c k).mb, e.word ≠ o / 8)
    (hgood : judge (s.wordAt c o) (s.chkAt c o) = .good) (hn : 0 < n) (hword : o % 8 + n ≤ 8) :
    s.loadFrom c k o n addr none = (s.act c 2 1, some (s.bytes (spmKey c o) n, some (o / 8, s.wordAt c o))) := by
  have hall : (List.range n).all (fun _ => false) = false := by
    rw [List.all_eq_false]
    exact ⟨0, List.mem_range.2 hn, by decide⟩
  have hread := readWord_of_good (s := s.act c 2 1) (c := c) (o := o) (corePort k) (by rw [wordAt_act, chkAt_act]; exact hgood)
  rw [wordAt_act] at hread
  simp only [State.loadFrom, hcheck, find?_none_of_words hmb, List.find?_nil, Option.map_none, Option.isSome_none, hall, Bool.false_eq_true,
    if_false, Option.filter_none, hread, Option.getD_none, bytes_of_word s c hword]

theorem accessCause_aligned {store : Bool} {a n : Nat} (h : a % n = 0) : accessCause store a n true = none := by simp [accessCause, h]

/-- An aligned access stays in one word. -/
theorem within_word {a n : Nat} (hlo : 0x10000000 ≤ a) (ha : a % n = 0) (hn : n ∣ 8) : (a - 0x10000000) % 8 + n ≤ 8 ∧ 0 < n := by
  have h8 : n ≤ 8 := Nat.le_of_dvd (by decide) hn
  have h0 : 0 < n := Nat.pos_of_dvd_of_pos hn (by decide)
  interval_cases n <;> omega

theorem spm_lower {a : Nat} (h : regionOf a = .spm) : 0x10000000 ≤ a := by
  unfold regionOf at h
  split at h
  · next hin => exact hin.1
  · split at h
    · cases h
    · split at h <;> cases h

theorem len_dvd (m : SMem) : m.len ∣ 8 := by
  have hlt : m.f3 % 4 < 4 := Nat.mod_lt _ (by decide)
  unfold SMem.len
  interval_cases m.f3 % 4 <;> decide

theorem core_setX (t : State) (rd v : Nat) : (t.setX c k false rd (BitVec.ofNat 32 v)).core c k = (t.core c k).wx rd v := by
  unfold State.setX CoreSt.wx
  by_cases h : rd = 0 <;> simp [h]

theorem coresBut_setX {t : State} (h : s.coresBut t c k) (fp : Bool) (rd : Nat) (v : Word) : s.coresBut (t.setX c k fp rd v) c k := by
  unfold State.setX
  dsimp only
  split_ifs
  · exact coresBut_setCore h _
  · exact h
  · exact coresBut_setCore h _

theorem setX_keeps (t : State) (fp : Bool) (rd : Nat) (v : Word) :
    (t.setX c k fp rd v).mem = t.mem ∧ (t.setX c k fp rd v).regs = t.regs ∧ (t.setX c k fp rd v).err = t.err := by
  unfold State.setX
  dsimp only
  split_ifs <;> simp

theorem core_advance (t : State) (len : Nat) : (t.advance c k len).core c k = (t.core c k).goto ((t.core c k).pcn + len) := core_setCore_same ..

theorem wx_mb (x : CoreSt) (rd v : Nat) : (x.wx rd v).mb = x.mb ∧ (x.wx rd v).pc = x.pc := by
  unfold CoreSt.wx
  split <;> exact ⟨rfl, rfl⟩

/-- The state after a good integer load. -/
def loaded (s : State) (c : Nat) (k : CoreSel) (len rd v : Nat) : State :=
  (((s.act c 3 1).act c 2 1).advance c k len).setX c k false rd (BitVec.ofNat 32 v)

theorem core_loaded (rd v : Nat) : (loaded s c k len rd v).core c k = ((s.core c k).goto ((s.core c k).pcn + len)).wx rd v := by
  rw [loaded, core_setX, core_advance, act_core, act_core]

theorem loaded_keeps (rd v : Nat) : (loaded s c k len rd v).mem = s.mem ∧ (loaded s c k len rd v).regs = s.regs ∧
    (loaded s c k len rd v).err = s.err ∧ s.coresBut (loaded s c k len rd v) c k := by
  obtain ⟨hm, hr, he⟩ := setX_keeps (c := c) (k := k) (((s.act c 3 1).act c 2 1).advance c k len) false rd (BitVec.ofNat 32 v)
  refine ⟨hm.trans ?_, hr.trans ?_, he.trans ?_, coresBut_setX (coresBut_setCore (fun d q _ => ?_) _) false rd _⟩
  · rw [State.advance, setCore_mem, act_mem, act_mem]
  · rw [State.advance, setCore_regs, act_regs, act_regs]
  · rw [State.advance, setCore_err, act_err, act_err]
  · rw [act_core, act_core]

theorem exec_load (h : s.issues c k .load w len raw) : exec (.coreLoad c k) s = .next (runLoad c k (s.act c 3 1) w len raw) := by
  show Host.Outcome.next (s.issue c k .load (runLoad c k)) = _
  rw [issue_of_issues _ h, if_neg (by decide)]

theorem load_reads {v : Nat} (h : s.issues c k .load w len raw) (hm : scalarMem (s.core c k) w = some m) (hfp : m.fp = false)
    (hreg : regionOf m.addr = .spm) (hal : m.addr % m.len = 0) (hcheck : s.spmCheckRun c (m.addr - 0x10000000) m.len (corePort k) false = none)
    (hmb : ∀ e ∈ (s.core c k).mb, e.word ≠ (m.addr - 0x10000000) / 8)
    (hgood : judge (s.wordAt c (m.addr - 0x10000000)) (s.chkAt c (m.addr - 0x10000000)) = .good)
    (hv : loadVal m.f3 (s.bytes (spmKey c (m.addr - 0x10000000)) m.len) = BitVec.ofNat 32 v) :
    exec (.coreLoad c k) s = .next (loaded s c k len m.r v) := by
  obtain ⟨hword, hpos⟩ := within_word (spm_lower hreg) hal (len_dvd m)
  have hload := loadFrom_word (s := s.act c 3 1) (addr := m.addr) (by rw [spmCheckRun_act]; exact hcheck) (by rw [act_core]; exact hmb)
    (by rw [wordAt_act, chkAt_act]; exact hgood) hpos hword
  rw [exec_load h]
  refine next_congr ?_
  simp only [runLoad, act_core, hm, hreg, beq_self_eq_true, accessCause_aligned hal, State.loadSpm, hload, Option.map_some, act_bytes, hfp, hv, loaded]

theorem load_refused {o cls r : Nat} (h : s.issues c k .load w len raw) (hm : scalarMem (s.core c k) w = some m)
    (hreg : regionOf m.addr = .spm) (hal : m.addr % m.len = 0)
    (hcheck : s.spmCheckRun c (m.addr - 0x10000000) m.len (corePort k) false = some (o, cls, r)) :
    exec (.coreLoad c k) s =
      .next (((s.act c 3 1).spmRefuse c o (corePort k) (.core c k) (cls, r)).busStop c k 5 (s.core c k).pcn m.addr) := by
  rw [exec_load h]
  refine next_congr ?_
  simp only [runLoad, act_core, hm, hreg, beq_self_eq_true, accessCause_aligned hal, State.loadSpm, State.loadFrom, spmCheckRun_act, hcheck,
    Option.map_none]

/-! ### Stores -/

theorem exec_store (h : s.issues c k .store w len raw) : exec (.coreStore c k) s = .next (runStore c k (s.act c 3 1) w len raw) := by
  show Host.Outcome.next (s.issue c k .store (runStore c k)) = _
  rw [issue_of_issues _ h, if_neg (by decide)]

theorem length_data (x : CoreSt) : (m.data x).length = m.len := by
  rw [SMem.data, StartPhases.length_toLe]

/-- A store into a buffer with room and no entry of its word takes a new entry. -/
theorem storeSpm_new {off addr : Nat} {bs : List Byte} (hcheck : s.spmCheckRun c off bs.length (corePort k) false = none)
    (hmb : ∀ e ∈ (s.core c k).mb, e.word ≠ off / 8) (hroom : (s.core c k).mb.length < 4) (hst : (s.core c k).st = 1) :
    s.storeSpm c k off addr bs = (s.setCore c k { s.core c k with
      mb := (s.core c k).mb ++ [mergeInto ⟨off / 8, 0, 0, (s.cell c).cyc⟩ (off % 8) bs (s.cell c).cyc] }, true) := by
  have hany : ((s.core c k).mb.any fun e => e.word == off / 8) = false := by
    rw [List.any_eq_false]
    exact fun e he => by simpa using hmb e he
  simp only [State.storeSpm, hcheck, hany, Bool.false_eq_true, if_false]
  cases hl : (s.core c k).mb with
  | nil => simp only [hl, hst, ne_eq, not_true_eq_false, if_false]
  | cons e rest =>
    rw [hl] at hroom
    simp only [if_neg (Nat.not_le.2 hroom), hl, hst, ne_eq, not_true_eq_false, if_false]

/-- The state after a store that takes a new entry of the merge buffer. -/
def stored (s : State) (c : Nat) (k : CoreSel) (e : MbEntry) (len : Nat) : State :=
  ((s.act c 3 1).setCore c k { s.core c k with mb := (s.core c k).mb ++ [e] }).advance c k len

theorem store_enters (h : s.issues c k .store w len raw) (hm : scalarMem (s.core c k) w = some m) (hreg : regionOf m.addr = .spm)
    (hal : m.addr % m.len = 0) (hcheck : s.spmCheckRun c (m.addr - 0x10000000) m.len (corePort k) false = none)
    (hmb : ∀ e ∈ (s.core c k).mb, e.word ≠ (m.addr - 0x10000000) / 8) (hroom : (s.core c k).mb.length < 4) :
    exec (.coreStore c k) s = .next (stored s c k (mergeInto ⟨(m.addr - 0x10000000) / 8, 0, 0, (s.cell c).cyc⟩ ((m.addr - 0x10000000) % 8)
      (m.data (s.core c k)) (s.cell c).cyc) len) := by
  have hstore := storeSpm_new (s := s.act c 3 1) (off := m.addr - 0x10000000) (addr := m.addr) (bs := m.data (s.core c k))
    (by rw [length_data, spmCheckRun_act]; exact hcheck) (by rw [act_core]; exact hmb) (by rw [act_core]; exact hroom)
    (by rw [act_core]; exact running_of_issues h)
  rw [act_core, act_cell] at hstore
  rw [exec_store h]
  refine next_congr ?_
  simp only [runStore, act_core, hm, hreg, beq_self_eq_true, accessCause_aligned hal, hstore, stored]

theorem core_stored (e : MbEntry) : (stored s c k e len).core c k =
    { s.core c k with mb := (s.core c k).mb ++ [e], pc := BitVec.ofNat 32 ((s.core c k).pcn + len) } := by
  rw [stored, core_advance, core_setCore_same]
  rfl

theorem stored_keeps (e : MbEntry) : (stored s c k e len).mem = s.mem ∧ (stored s c k e len).regs = s.regs ∧ (stored s c k e len).err = s.err ∧
    s.coresBut (stored s c k e len) c k := by
  refine ⟨?_, ?_, ?_, coresBut_setCore (coresBut_setCore (coresBut_act s c k 3 1) _) _⟩
  · rw [stored, State.advance, setCore_mem, setCore_mem, act_mem]
  · rw [stored, State.advance, setCore_regs, setCore_regs, act_regs]
  · rw [stored, State.advance, setCore_err, setCore_err, act_err]

/-! ### Vector accesses -/

theorem exec_vector (h : s.issues c k .vector w len raw) : exec (.coreVectorAccess c k) s = .next (runVector c k (s.act c 3 1) w len raw) := by
  show Host.Outcome.next (s.issue c k .vector (runVector c k)) = _
  rw [issue_of_issues _ h, if_neg (by decide)]

/-- The state after a vector load of one 32-bit element. -/
def vectorLoaded (s : State) (c : Nat) (k : CoreSel) (len reg el o : Nat) (m : VMem) : State :=
  let t := ((s.act c 3 1).act c 4 m.lanes).act c 2 1
  let u := t.setCore c k { s.core c k with v := vPut (s.core c k).v reg 32 el (ofLe (s.bytes (spmKey c o) 4)) }
  (u.setCore c k (vDone (u.core c k))).advance c k len

theorem vElement_loads {t u : State} {last : Option (Nat × Nat)} {vm : VMem} {e : VAcc} {bs : List Byte} (hs : vm.store = false) (hw : vm.eew = 32)
    (hreg : regionOf e.addr = .spm) (ha : e.addr < 0x10170000) (hal : e.addr % 4 = 0)
    (hload : t.loadFrom c k (e.addr - 0x10000000) 4 e.addr none = (u, some (bs, last))) :
    vElement c k vm (t, .going none) e = (u.setCore c k { u.core c k with v := vPut (u.core c k).v e.reg 32 e.el (ofLe bs) }, .going last) := by
  have h4 : vm.eew / 8 = 4 := by rw [hw]
  have hcause : accessCause false e.addr 4 (regionOf e.addr == .spm && decide (e.addr < 0x10170000)) = none := by
    rw [hreg, decide_eq_true ha]
    exact accessCause_aligned hal
  simp only [vElement, hs, h4, hcause, Bool.false_eq_true, if_false, hload, hw]

theorem vector_loads {reg el a : Nat} (h : s.issues c k .vector w len raw)
    (hm : vMemOf (s.core c k) w = some ⟨false, 32, false, [⟨0, reg, el, a⟩]⟩) (hreg : regionOf a = .spm) (ha : a < 0x10170000) (hal : a % 4 = 0)
    (hcheck : s.spmCheckRun c (a - 0x10000000) 4 (corePort k) false = none) (hmb : ∀ e ∈ (s.core c k).mb, e.word ≠ (a - 0x10000000) / 8)
    (hgood : judge (s.wordAt c (a - 0x10000000)) (s.chkAt c (a - 0x10000000)) = .good) :
    exec (.coreVectorAccess c k) s = .next (vectorLoaded s c k len reg el (a - 0x10000000) ⟨false, 32, false, [⟨0, reg, el, a⟩]⟩) := by
  obtain ⟨hword, hpos⟩ := within_word (spm_lower hreg) hal (by decide)
  have hload := loadFrom_word (s := (s.act c 3 1).act c 4 (VMem.lanes ⟨false, 32, false, [⟨0, reg, el, a⟩]⟩)) (addr := a)
    (by rw [spmCheckRun_act, spmCheckRun_act]; exact hcheck) (by rw [act_core, act_core]; exact hmb)
    (by rw [wordAt_act, chkAt_act, wordAt_act, chkAt_act]; exact hgood) hpos hword
  have helem := vElement_loads (vm := ⟨false, 32, false, [⟨0, reg, el, a⟩]⟩) (e := ⟨0, reg, el, a⟩) rfl rfl hreg ha hal hload
  rw [exec_vector h]
  refine next_congr ?_
  simp only [runVector, act_core, hm, List.foldl_cons, List.foldl_nil, helem, act_bytes, vectorLoaded]

theorem ofLe_bytes_lt (s : State) (key : Nat) : ofLe (s.bytes key 4) < 2 ^ 32 := by
  have hlt := ofLe_lt (s.bytes key 4)
  rw [State.bytes, List.length_map, List.length_range] at hlt
  exact hlt

/-- A field of a number reads the same after the number is cut above it. -/
theorem bits_mod (v : Nat) {n lo w : Nat} (h : lo + w ≤ n) : bits (v % 2 ^ n) lo w = bits v lo w := by
  have hn : 2 ^ n = 2 ^ lo * 2 ^ (n - lo) := by rw [← pow_add, Nat.add_sub_cancel' (by omega)]
  rw [bits, bits, hn, Nat.mod_mul_right_div_self, Nat.mod_mod_of_dvd _ (pow_dvd_pow 2 (by omega))]

/-- A field that is taken out and put in anew. -/
theorem bits_replace (old : Nat) {lo w x : Nat} (hx : x < 2 ^ w) : bits (old - bits old lo w * 2 ^ lo + x * 2 ^ lo) lo w = x := by
  have hq : bits old lo w + 2 ^ w * (old / 2 ^ lo / 2 ^ w) = old / 2 ^ lo := by rw [bits, Nat.mod_add_div]
  have hold : old % 2 ^ lo + 2 ^ lo * (bits old lo w + 2 ^ w * (old / 2 ^ lo / 2 ^ w)) = old := by rw [hq, Nat.mod_add_div]
  refine bits_eq_of_parts (old % 2 ^ lo) (old / 2 ^ lo / 2 ^ w) ?_ (Nat.mod_lt _ (Nat.two_pow_pos lo)) hx
  generalize bits old lo w = b at hold ⊢
  generalize old % 2 ^ lo = a at hold ⊢
  generalize old / 2 ^ lo / 2 ^ w = q at hold ⊢
  rw [← hold, Nat.mul_add, Nat.mul_add, Nat.mul_comm b, Nat.mul_comm x]
  omega

/-- A vector element that was put reads back, and the other registers stay. -/
theorem vGet_vPut {v : List (BitVec 256)} {reg el x : Nat} (hreg : reg < 32) (hel : el < 8) (hlen : v.length = 32) (hx : x < 2 ^ 32) :
    vGet (vPut v reg 32 el x) reg 32 el = x ∧ ∀ r, r ≠ reg → (vPut v reg 32 el x)[r]? = v[r]? := by
  have hq : reg + el * 32 / 256 = reg := by omega
  refine ⟨?_, fun r hr => ?_⟩
  · have hin : reg < v.length := by omega
    simp only [vGet, vPut, hq, List.getElem?_set_self hin, Option.getD_some, BitVec.toNat_ofNat, Nat.mod_eq_of_lt hx]
    rw [bits_mod _ (by omega), bits_replace _ hx]
  · rw [vPut, hq]
    exact List.getElem?_set_ne (Ne.symm hr)

theorem core_vectorLoaded (reg el o : Nat) (vm : VMem) : (vectorLoaded s c k len reg el o vm).core c k =
    (vDone { s.core c k with v := vPut (s.core c k).v reg 32 el (ofLe (s.bytes (spmKey c o) 4)) }).goto ((s.core c k).pcn + len) := by
  rw [vectorLoaded, core_advance, core_setCore_same, core_setCore_same]
  rfl

theorem vectorLoaded_keeps (reg el o : Nat) (vm : VMem) : (vectorLoaded s c k len reg el o vm).mem = s.mem ∧
    (vectorLoaded s c k len reg el o vm).err = s.err ∧ s.coresBut (vectorLoaded s c k len reg el o vm) c k := by
  refine ⟨?_, ?_, coresBut_setCore (coresBut_setCore (coresBut_setCore (fun d q _ => ?_) _) _) _⟩
  · rw [vectorLoaded, State.advance, setCore_mem, setCore_mem, setCore_mem, act_mem, act_mem, act_mem]
  · rw [vectorLoaded, State.advance, setCore_err, setCore_err, setCore_err, act_err, act_err, act_err]
  · rw [act_core, act_core, act_core]

end

/-- Settles O17: loads and stores of the cores reach the scratchpad, misuse stops the core. -/
theorem loadsAndStoresReachScratchpad : Obligations.LoadsAndStoresReachScratchpad := by
  refine ⟨?_, ?_, ?_, ?_, ?_⟩
  · intro s c w len raw v o k m h hm hfp hr hlen hreg ho hal _ hcheck hmb hgood hv hv32
    rw [ho] at hcheck hmb hgood hv
    obtain ⟨hmem, hregs, herr, hothers⟩ := loaded_keeps (s := s) (c := c) (k := k) (len := len) m.r v
    refine ⟨_, load_reads h hm hfp hreg hal hcheck hmb hgood hv, fun r hr32 => ?_, ?_, ?_, hmem, hregs, herr, hothers⟩
    · rw [core_loaded, xr_wx v (by exact hlen) hr32, Nat.mod_eq_of_lt hv32]
      rfl
    · rw [core_loaded, CoreSt.pcn, (wx_mb ..).2]
      exact BitVec.toNat_ofNat ..
    · rw [core_loaded, (wx_mb ..).1]
      rfl
  · rintro s c w len raw o a cls r k m h hm hreg hal hcheck rfl
    obtain ⟨e, hmem, hcells, hq, hcls, -, hstruck, -⟩ := spmRefuse_logs (s.act c 3 1) c o c k cls r (corePort k)
    have hcore := core_of_cells hcells
    refine ⟨_, e, load_refused h hm hreg hal hcheck, ?_, ?_, ?_, ?_, val_busStop .., ?_, hcls, hstruck, coresBut_busStop (fun d q _ => ?_) _ _ _⟩
    · rw [core_busStop, stopped_st]
    · rw [core_busStop, stopped_x, hcore, act_core]
    · rw [busStop_mem, hmem, act_mem]
    · rw [cause_busStop]; rfl
    · rw [busStop_err, hq, act_err]
    · rw [hcore, act_core]
  · intro s c w len raw o k m h hm hreg ho hal hcheck hmb hroom
    rw [ho] at hcheck hmb ⊢
    obtain ⟨hword, -⟩ := within_word (spm_lower hreg) hal (len_dvd m)
    refine ⟨_, mergeInto ⟨(m.addr - 0x10000000) / 8, 0, 0, (s.cell c).cyc⟩ ((m.addr - 0x10000000) % 8) (m.data (s.core c k)) (s.cell c).cyc,
      store_enters h hm hreg hal hcheck hmb hroom, ?_⟩
    rw [core_stored]
    obtain ⟨hmem, hregs, herr, hothers⟩ := stored_keeps (s := s) (c := c) (k := k) (len := len)
      (mergeInto ⟨(m.addr - 0x10000000) / 8, 0, 0, (s.cell c).cyc⟩ ((m.addr - 0x10000000) % 8) (m.data (s.core c k)) (s.cell c).cyc)
    exact ⟨rfl, rfl, rfl, mbBytes_first _ _ _ _ (by rw [length_data]; exact hword), BitVec.toNat_ofNat .., rfl, hmem, hregs, herr, hothers⟩
  · intro s c w len raw k h hm hen
    have hs := exception_after_act (s := s) (c := c) (k := k) 2 3 1 raw (by decide) hen
    refine ⟨_, (exec_vector h).trans (next_congr ?_), hs.st, hs.mem, hs.logged⟩
    simp only [runVector, act_core, hm]
  · intro s c w len raw a reg el o k h hm hreg ha hal ho hcheck hmb hgood hr hel hlen
    simp only [ho] at hcheck hmb hgood ⊢
    obtain ⟨hget, hother⟩ := vGet_vPut (v := (s.core c k).v) (x := ofLe (s.bytes (spmKey c (a - 0x10000000)) 4)) hr hel hlen (ofLe_bytes_lt ..)
    obtain ⟨hmem, herr, hothers⟩ := vectorLoaded_keeps (s := s) (c := c) (k := k) (len := len) reg el (a - 0x10000000) ⟨false, 32, false, [⟨0, reg, el, a⟩]⟩
    have hexec := vector_loads h hm hreg ha hal hcheck hmb hgood
    refine ⟨_, hexec, ?_, ?_, ?_, ?_, hmem, herr, hothers⟩
    · rw [core_vectorLoaded]
      exact hget
    · rw [core_vectorLoaded]
      exact fun r _ hne => hother r hne
    · rw [core_vectorLoaded]
      exact BitVec.toNat_ofNat ..
    · rw [core_vectorLoaded]
      rfl

end Sys2Proof.CoreMemory
end

section
/-! PROOFS. The merge buffers of the cores drain (R161, R166). -/

namespace Sys2Proof.MergeBuffers

open Sys2Proof Sys2Proof.Machine Sys2Proof.Laws Sys2Proof.Clauses Sys2Proof.CoreSteps Sys2Proof.CoreMemory Sys2Proof.Scratchpad Sys2Proof.WordRuns
open Sys2Proof.Machine.State (corePort mbBytes mergeBytes runFence)
open Sys2Proof.BankEngine (readWord_of_good)
open Sys2Proof.BankOwnership (lt_of_spmCheck)

/-! ### A word that is written -/

theorem core_putWord (s : State) (c o w chk d : Nat) (q : CoreSel) : (s.putWord c o w chk).core d q = s.core d q := by
  unfold State.core
  by_cases h : d = c
  · subst h
    obtain ⟨m, hm⟩ := cell_putWord_same s d o w chk
    rw [hm]
  · rw [cell_putWord_other s o w chk h]

theorem putWord_keeps (s : State) (c o w chk : Nat) : (s.putWord c o w chk).regs = s.regs ∧ (s.putWord c o w chk).err = s.err := by
  unfold State.putWord
  rcases scrubDrop_eq s c o with h | ⟨m, h⟩ <;> rw [h] <;> simp

/-! ### Bytes of an entry -/

/-- The byte that an entry gives a place of its word. -/
theorem find?_mbBytes (e : MbEntry) {i : Nat} (hi : i < 8) : (mbBytes e).find? (fun p => p.1 == i) = heldByte e i := by
  rw [mbBytes_eq, List.find?_filterMap]
  cases hv : e.valid.getLsbD i
  case true =>
    have hfind : (List.range 8).find? (fun a => (heldByte e a).any fun p => p.1 == i) = some i := by
      rw [List.find?_range_eq_some]
      refine ⟨by simp [heldByte, hv], List.mem_range.2 hi, fun j hj => ?_⟩
      unfold heldByte
      split <;> simp [Nat.ne_of_lt hj]
    rw [hfind, Option.bind_some]
  case false =>
    have hfind : (List.range 8).find? (fun a => (heldByte e a).any fun p => p.1 == i) = none := by
      rw [List.find?_eq_none]
      intro j _
      unfold heldByte
      split
      · next hj =>
        have hne : j ≠ i := fun heq => by simp [heq, hv] at hj
        simpa using hne
      · simp
    rw [hfind, Option.bind_none, heldByte, hv]
    rfl

/-- A byte of a word into which an entry's bytes are merged. -/
theorem digit_mergeBytes (w : Nat) (e : MbEntry) {i : Nat} (hi : i < 8) :
    mergeBytes w (mbBytes e) / 256 ^ i % 256 = if e.valid.getLsbD i then e.data.toNat / 256 ^ i % 256 else w / 256 ^ i % 256 := by
  rw [mergeBytes, ofLe_digit _ (by simpa using hi), List.getElem_map, List.getElem_range, find?_mbBytes e hi]
  cases hv : e.valid.getLsbD i <;> simp [heldByte, hv]

theorem mergeBytes_lt (w : Nat) (bs : List (Nat × Byte)) : mergeBytes w bs < 2 ^ 64 := by
  have hlt := ofLe_lt ((List.range 8).map fun i =>
    match bs.find? fun p => p.1 == i with
    | some p => p.2
    | none => BitVec.ofNat 8 (w / 256 ^ i))
  rw [List.length_map, List.length_range] at hlt
  exact hlt

/-! ### Writing an entry -/

section
variable (s : State) (c : Nat) (k : CoreSel) (e : MbEntry)

/-- The state in which an entry has left its buffer. -/
def taken : State :=
  (s.setCore c k { s.core c k with mb := (s.core c k).mb.filter fun f => f.word != e.word }).act c 2 (if e.valid = 0xFF then 1 else 2)

theorem core_taken : (taken s c k e).core c k = { s.core c k with mb := (s.core c k).mb.filter fun f => f.word != e.word } := by
  rw [taken, act_core, core_setCore_same]

theorem mem_taken : (taken s c k e).mem = s.mem := by rw [taken, act_mem, setCore_mem]

theorem spmCheck_taken (d off port : Nat) (fw : Bool) : (taken s c k e).spmCheck d off port fw = s.spmCheck d off port fw := by
  cases k <;> rfl

theorem taken_keeps : (taken s c k e).regs = s.regs ∧ (taken s c k e).err = s.err ∧ s.coresBut (taken s c k e) c k := by
  refine ⟨?_, ?_, fun d q h => ?_⟩
  · rw [taken, act_regs, setCore_regs]
  · rw [taken, act_err, setCore_err]
  · rw [taken, act_core, core_setCore_other s c k _ h]

end

section
variable {s : State} {c : Nat} {k : CoreSel} {e : MbEntry}

theorem wordAt_taken (off : Nat) : (taken s c k e).wordAt c off = s.wordAt c off := wordAt_congr fun i _ => by rw [State.byte, mem_taken]; rfl

theorem byte_taken (q : Nat) : (taken s c k e).byte q = s.byte q := by
  rw [State.byte, mem_taken]
  rfl

theorem mbWrite_complete (hcheck : s.spmCheck c (e.word * 8) (corePort k) false = none) (hv : e.valid = 0xFF) :
    s.mbWrite c k e = (taken s c k e).putWord c (e.word * 8) e.data.toNat (eccByte e.data.toNat) := by
  rw [← spmCheck_taken s c k e] at hcheck
  simp only [taken, if_pos hv] at hcheck ⊢
  simp only [State.mbWrite, hcheck, if_pos hv, State.writeWord]

theorem mbWrite_part (hcheck : s.spmCheck c (e.word * 8) (corePort k) false = none) (hv : e.valid ≠ 0xFF)
    (hgood : judge (s.wordAt c (e.word * 8)) (s.chkAt c (e.word * 8)) = .good) :
    s.mbWrite c k e = (taken s c k e).putWord c (e.word * 8) (mergeBytes (s.wordAt c (e.word * 8)) (mbBytes e))
      (eccByte (mergeBytes (s.wordAt c (e.word * 8)) (mbBytes e))) := by
  have hread := readWord_of_good (s := taken s c k e) (c := c) (o := e.word * 8) (corePort k)
    (by rw [wordAt_taken, State.chkAt, byte_taken]; exact hgood)
  rw [wordAt_taken] at hread
  rw [← spmCheck_taken s c k e] at hcheck
  simp only [taken, if_neg hv] at hcheck hread ⊢
  simp only [State.mbWrite, hcheck, if_neg hv, hread, State.writeWord]

/-- What writing a word for an entry leaves: the word with fresh check bits, and everything else. -/
structure Wrote (s t : State) (c : Nat) (k : CoreSel) (e : MbEntry) (w : Nat) : Prop where
  mb : (t.core c k).mb = (s.core c k).mb.filter fun f => f.word != e.word
  word : t.wordAt c (e.word * 8) = w
  chk : t.chkAt c (e.word * 8) = eccByte w
  bytes : ∀ q, (∀ i, i < 8 → q ≠ spmKey c (e.word * 8 + i)) → q ≠ spmChkKey c (e.word * 8) → t.byte q = s.byte q
  regs : t.regs = s.regs
  err : t.err = s.err
  others : s.coresBut t c k

theorem wrote_putWord {w : Nat} (hcheck : s.spmCheck c (e.word * 8) (corePort k) false = none) (hw : w < 2 ^ 64) :
    Wrote s ((taken s c k e).putWord c (e.word * 8) w (eccByte w)) c k e w := by
  obtain ⟨hregs, herr⟩ := putWord_keeps (taken s c k e) c (e.word * 8) w (eccByte w)
  obtain ⟨hregs', herr', hothers⟩ := taken_keeps s c k e
  refine ⟨?_, ?_, ?_, fun q hq hc => ?_, hregs.trans hregs', herr.trans herr', fun d q h => ?_⟩
  · rw [core_putWord, core_taken]
  · rw [wordAt_putWord_same _ _ _ _ (lt_of_spmCheck hcheck), Nat.mod_eq_of_lt hw]
  · rw [chkAt_putWord_same, Nat.mod_eq_of_lt (eccByte_lt w)]
  · rw [byte_putWord_other _ _ _ (by omega) hq hc, byte_taken]
  · rw [core_putWord, hothers d q h]

/-- A fence with an empty buffer. -/
theorem exec_fence {w len raw : Nat} (h : s.issues c k .fence w len raw) (hmb : (s.core c k).mb = []) :
    exec (.fence c k) s = .next (if (s.core c k).farStores = 0 then (s.act c 3 1).advance c k len else s) := by
  have hst := CoreIssue.running_of_issues h
  have hflush : s.mbFlush c k (fun _ => true) = s := by rw [State.mbFlush, hmb]; rfl
  show Host.Outcome.next (s.issue c k .fence (runFence c k)) = _
  rw [issue_of_issues _ h, if_pos rfl]
  simp only [runFence, hflush, hst, ne_eq, not_true_eq_false, if_false]

end

/-- Settles O18: complete entries are written, old ones merged into their words, and a fence ends. -/
theorem mergeBuffersDrain : Obligations.MergeBuffersDrain := by
  refine ⟨?_, ?_, ?_, ?_⟩
  · intro s c k e hruns hfind hcheck
    have hv : e.valid = 0xFF := by simpa using List.find?_some hfind
    have hexec : exec (.mergeEntryWrite c k) s = .next (s.mbWrite c k e) := by
      show Host.Outcome.next (s.mergeWrite c k) = _
      simp only [State.mergeWrite, hruns, Bool.not_true, Bool.false_eq_true, if_false, hfind]
    have hw := wrote_putWord (w := e.data.toNat) hcheck e.data.isLt
    exact ⟨_, hexec.trans (next_congr (mbWrite_complete hcheck hv)), hw.mb, hw.word, hw.chk, hw.bytes, hw.regs, hw.err, hw.others⟩
  · intro s c k e hruns hage hfind hcheck hgood
    have hpred := List.find?_some hfind
    have hv : e.valid ≠ 0xFF := by
      simp only [Bool.and_eq_true, bne_iff_ne] at hpred
      exact hpred.1
    have hexec : exec (.mergeAgeEvict c k) s = .next (s.mbWrite c k e) := by
      show Host.Outcome.next (s.mergeEvict c k) = _
      simp only [State.mergeEvict, hruns, Bool.not_true, Bool.false_eq_true, hage, or_self, if_false, hfind]
    have hw := wrote_putWord (w := mergeBytes (s.wordAt c (e.word * 8)) (mbBytes e)) hcheck (mergeBytes_lt ..)
    refine ⟨_, hexec.trans (next_congr (mbWrite_part hcheck hv hgood)), hw.mb, fun i hi => ?_, ?_, hw.bytes, hw.regs, hw.err, hw.others⟩
    · apply BitVec.eq_of_toNat_eq
      rw [byte_of_wordAt _ c (by omega) hi, hw.word, digit_mergeBytes _ _ hi, ← byte_of_wordAt s c (by omega) hi]
      split <;> simp
    · rw [hw.chk, hw.word]
  · intro s c w len raw k h hmb hfar
    refine ⟨_, (exec_fence h hmb).trans (next_congr (if_pos hfar)), ?_, ?_, ?_, ?_, coresBut_setCore (coresBut_act s c k 3 1) _⟩
    · rw [core_advance, act_core]
    · rw [State.advance, setCore_mem, act_mem]
    · rw [State.advance, setCore_regs, act_regs]
    · rw [State.advance, setCore_err, act_err]
  · intro s c w len raw k h hmb hfar
    exact ⟨_, (exec_fence h hmb).trans (next_congr (if_neg hfar)), rfl, rfl⟩

end Sys2Proof.MergeBuffers
end

section
/-! PROOFS. The control window and the far window of the cores (R159, R161, R203, R205). -/

namespace Sys2Proof.CoreWindows

open Sys2Proof Sys2Proof.Machine Sys2Proof.Laws Sys2Proof.Clauses Sys2Proof.CoreSteps Sys2Proof.CoreIssue Sys2Proof.CoreMemory Sys2Proof.Scratchpad
open Sys2Proof.RegisterAccess
open Sys2Proof.DrainAndFlush (cells_noteWrite)
open Sys2Proof.IntegerInstructions (xr_wx xr_lt)
open Sys2Proof.Machine.State (runCtlStore runFarLoad runFarStore accessCause coreKey)

section
variable {s : State} {c w len raw : Nat} {k : CoreSel} {m : SMem}

theorem mem_noteWrite (s : State) (k : Nat) : (s.noteWrite k).mem = s.mem := by
  unfold State.noteWrite
  split <;> rfl

theorem cells_dropPend (s : State) (req : Req) (b : Nat) : (s.dropPend req b).cells = s.cells := rfl

/-! ### Stores to the own control window -/

/-- A write of a descriptor word is the write of a plain register. -/
theorem ctlWrite_descriptor {n : Nat} (t : State) (req : Req) (v : DWord) (ga : Nat) (hn : n < 8) :
    t.ctlWrite req (cellKey c (MXE_DESC + 4 * n)) false v ga =
      (((t.dropPend req (keyBlock (cellKey c (MXE_DESC + 4 * n)))).noteWrite (cellKey c (MXE_DESC + 4 * n))).setReg
        (cellKey c (MXE_DESC + 4 * n)) (BitVec.ofNat 64 (v.toNat % 2 ^ 32)), true) := by
  have ho : MXE_DESC + 4 * n < 0x1000000 := by unfold MXE_DESC; omega
  have hrow : findRow cellRows (MXE_DESC + 4 * n) = some (⟨MXE_DESC, 4, 8, false, [⟨0, 32, .rw, 0⟩]⟩, false) := by
    interval_cases n <;> rfl
  have hplain (u : State) (x : Nat) : u.cellWrite req c (MXE_DESC + 4 * n) ⟨MXE_DESC, 4, 8, false, [⟨0, 32, .rw, 0⟩]⟩ x ga =
      (u.storeReg (cellKey c (MXE_DESC + 4 * n)) ⟨MXE_DESC, 4, 8, false, [⟨0, 32, .rw, 0⟩]⟩ x ga, true) := by
    interval_cases n <;> rfl
  have hkind : keyKind (cellKey c (MXE_DESC + 4 * n)) = 2 := by
    rw [keyKind, keyUnit_cellKey c ho, if_neg (by omega), if_neg (by omega)]
  rw [ctlWrite_narrow req v ga ((rowAt_cellKey _ c ho).trans hrow) rfl, writeReg_cellKey _ _ c ho, hplain, storeReg_rw _ 4 8 false 0 _ _ hkind rfl,
    Nat.mod_mod]

/-- The state after a store of a descriptor word. -/
def descriptorStored (s : State) (c : Nat) (k : CoreSel) (len n : Nat) (v : DWord) : State :=
  (((((s.act c 3 1).advance c k len).dropPend (.core c k) (keyBlock (cellKey c (MXE_DESC + 4 * n)))).noteWrite (cellKey c (MXE_DESC + 4 * n))).setReg
    (cellKey c (MXE_DESC + 4 * n)) v)

theorem exec_ctlStore (h : s.issues c k .ctlStore w len raw) :
    exec (.controlWindowStore c k) s = .next (runCtlStore c k (s.act c 3 1) w len raw) := by
  show Host.Outcome.next (s.issue c k .ctlStore (runCtlStore c k)) = _
  rw [issue_of_issues _ h, if_neg (by decide)]

theorem ctlStore_descriptor {n : Nat} (h : s.issues c k .ctlStore w len raw) (hm : scalarMem (s.core c k) w = some m) (hlen : m.len = 4)
    (hfp : m.fp = false) (hn : n < 8) (haddr : m.addr = 0x20000000 + MXE_DESC + 4 * n) (hheld : (s.core c k).heldStores = []) :
    exec (.controlWindowStore c k) s = .next (descriptorStored s c k len n (BitVec.ofNat 64 ((s.core c k).xr m.r))) := by
  have hoff : m.addr - 0x20000000 = MXE_DESC + 4 * n := by omega
  have hcause : accessCause true m.addr 4 true = none := accessCause_aligned (by rw [haddr]; unfold MXE_DESC; omega)
  have hdata : (BitVec.setWidth 64 (BitVec.ofNat 32 (ofLe (m.data (s.core c k))))).toNat % 2 ^ 32 = (s.core c k).xr m.r := by
    have hx := xr_lt (s.core c k) m.r
    have hle : ofLe (m.data (s.core c k)) = (s.core c k).xr m.r := by
      rw [SMem.data, hfp, hlen, if_neg Bool.false_ne_true, ofLe_toLe, Nat.mod_eq_of_lt (by exact hx)]
    rw [hle, BitVec.toNat_setWidth, BitVec.toNat_ofNat]
    omega
  have hwaits : ((s.act c 3 1).storeWaits c k (MXE_DESC + 4 * n)) = false := by
    have hsig : (MXE_DESC + 4 * n == SYNC_SIG) = false := by
      rw [beq_eq_false_iff_ne]
      unfold MXE_DESC SYNC_SIG
      omega
    rw [State.storeWaits, act_core, hsig, hheld]
    rfl
  rw [exec_ctlStore h]
  refine next_congr ?_
  simp only [runCtlStore, act_core, hm, hlen, hcause, hoff, ne_eq, not_true_eq_false, if_false, hwaits, Bool.false_eq_true, State.ctlStore,
    ctlWrite_descriptor _ _ _ _ hn, if_true, hdata, descriptorStored]

theorem descriptorStored_keeps (n : Nat) (v : DWord) :
    (descriptorStored s c k len n v).reg (cellKey c (MXE_DESC + 4 * n)) = v ∧
      s.regsBut (descriptorStored s c k len n v) [cellKey c (MXE_DESC + 4 * n)] ∧
      (descriptorStored s c k len n v).core c k = (s.core c k).goto ((s.core c k).pcn + len) ∧ (descriptorStored s c k len n v).mem = s.mem ∧
      (descriptorStored s c k len n v).err = s.err ∧ s.coresBut (descriptorStored s c k len n v) c k := by
  have hcells : (descriptorStored s c k len n v).cells = ((s.act c 3 1).advance c k len).cells := by
    rw [descriptorStored, setReg_cells, cells_noteWrite, cells_dropPend]
  refine ⟨?_, regsBut_setReg (fun j _ => ?_) (List.mem_singleton_self _) _, ?_, ?_, ?_, coresBut_of_cells (coresBut_setCore (coresBut_act s c k 3 1) _) hcells⟩
  · rw [descriptorStored, reg_setReg, if_pos rfl]
  · rw [reg_noteWrite]
    exact (setCore_reg _ c k _ j).trans (act_reg ..)
  · rw [core_of_cells hcells, core_advance, act_core]
  · rw [descriptorStored, setReg_mem, mem_noteWrite, State.dropPend]
    exact (setCore_mem _ c k _).trans (act_mem ..)
  · rw [descriptorStored, setReg_err, err_noteWrite]
    exact (setCore_err _ c k _).trans (act_err ..)

/-! ### Requests through the far window -/

/-- A request to a cell goes to the router of its origin. -/
theorem inject_cell {t : State} {p : Pkt} {x y : Nat} (h : t.dest p.addr p.blen = .cell x y) :
    t.inject c p = ({ t with net := t.net ++ [{ p with x := x, y := y, pos := .router c 0 }] }, true) := by
  simp only [State.inject, h]

@[simp] theorem dest_act (d i n a l : Nat) : (s.act d i n).dest a l = s.dest a l := rfl
@[simp] theorem dest_setCell (d a l : Nat) (x : Cell) : (s.setCell d x).dest a l = s.dest a l := rfl
@[simp] theorem dest_setCore (d a l : Nat) (q : CoreSel) (x : CoreSt) : (s.setCore d q x).dest a l = s.dest a l := by cases q <;> rfl
theorem farPkt_act (d i n ptype : Nat) : (s.act d i n).farPkt c k ptype m = s.farPkt c k ptype m := rfl

theorem core_newTag (t : State) (d : Nat) (q : CoreSel) : (t.newTag c).core d q = t.core d q := by
  unfold State.newTag State.core
  rw [cell_setCell]
  by_cases h : d = c
  · rw [if_pos h, h]
  · rw [if_neg h]

theorem exec_farLoad (h : s.issues c k .farLoad w len raw) : exec (.farWindowLoad c k) s = .next (runFarLoad c k (s.act c 3 1) w len raw) := by
  show Host.Outcome.next (s.issue c k .farLoad (runFarLoad c k)) = _
  rw [issue_of_issues _ h, if_neg (by decide)]

theorem exec_farStore (h : s.issues c k .farStore w len raw) : exec (.farWindowStore c k) s = .next (runFarStore c k (s.act c 3 1) w len raw) := by
  show Host.Outcome.next (s.issue c k .farStore (runFarStore c k)) = _
  rw [issue_of_issues _ h, if_neg (by decide)]

/-- The packet of a far-window access, at the router of its cell. -/
def routed (c x y : Nat) (p : Pkt) : Pkt := { p with x := x, y := y, pos := .router c 0 }

/-- The state after a far-window load is sent. -/
def farLoadSent (s : State) (c : Nat) (k : CoreSel) (len x y : Nat) (m : SMem) : State :=
  ({ (s.act c 3 1).newTag c with net := s.net ++ [routed c x y (s.farPkt c k 2 m)] }).setCore c k
    { s.core c k with far := some ⟨(s.cell c).nextTag, m.fp, m.r, m.f3, BitVec.ofNat 32 m.addr, len⟩ }

theorem farLoad_sends {x y : Nat} (h : s.issues c k .farLoad w len raw) (hm : scalarMem (s.core c k) w = some m) (hal : m.addr % m.len = 0)
    (hdest : s.dest (s.farAddr c k m.addr) m.len = .cell x y) : exec (.farWindowLoad c k) s = .next (farLoadSent s c k len x y m) := by
  have hinj : ((s.act c 3 1).newTag c).inject c (s.farPkt c k 2 m) = _ := inject_cell (by rw [State.newTag, dest_setCell, dest_act]; exact hdest)
  have hcore : ∀ n : List Pkt, State.core { (s.act c 3 1).newTag c with net := n } c k = s.core c k := fun n =>
    (core_of_cells rfl c k).trans ((core_newTag ..).trans (act_core ..))
  rw [exec_farLoad h]
  refine next_congr ?_
  simp only [runFarLoad, act_core, hm, hal, ne_eq, not_true_eq_false, if_false, farPkt_act, hinj, State.farLoadSent, if_true, hcore]
  rfl

theorem farLoadSent_keeps (x y : Nat) : (farLoadSent s c k len x y m).mem = s.mem ∧ (farLoadSent s c k len x y m).regs = s.regs ∧
    (farLoadSent s c k len x y m).err = s.err ∧ s.coresBut (farLoadSent s c k len x y m) c k := by
  refine ⟨?_, ?_, ?_, coresBut_setCore (fun d q _ => ?_) _⟩
  · rw [farLoadSent, setCore_mem]
    rfl
  · rw [farLoadSent, setCore_regs]
    rfl
  · rw [farLoadSent, setCore_err]
    rfl
  · exact (core_of_cells rfl d q).trans ((core_newTag ..).trans (act_core ..))

/-- The packet of a far-window store. -/
def storePkt (s : State) (c : Nat) (k : CoreSel) (m : SMem) : Pkt :=
  { s.farPkt c k 1 m with ackreq := true, data := m.data (s.core c k), dlen := dlenOf m.len }

/-- The state after a far-window store is sent. -/
def farStoreSent (s : State) (c : Nat) (k : CoreSel) (len x y : Nat) (m : SMem) : State :=
  ({ ((s.act c 3 1).newTag c).advance c k len with net := s.net ++ [routed c x y (storePkt s c k m)] }).setCore c k
    { (s.core c k).goto ((s.core c k).pcn + len) with farStores := (s.core c k).farStores + 1 }

theorem farStore_sends {x y : Nat} (h : s.issues c k .farStore w len raw) (hm : scalarMem (s.core c k) w = some m) (hal : m.addr % m.len = 0)
    (hdest : s.dest (s.farAddr c k m.addr) m.len = .cell x y) : exec (.farWindowStore c k) s = .next (farStoreSent s c k len x y m) := by
  have hinj : (((s.act c 3 1).newTag c).advance c k len).inject c (storePkt s c k m) = _ :=
    inject_cell (by rw [State.advance, dest_setCore, State.newTag, dest_setCell, dest_act]; exact hdest)
  have hnet : (((s.act c 3 1).newTag c).advance c k len).net = s.net := by rw [State.advance, setCore_net]; rfl
  have hcore : ∀ n : List Pkt, State.core { ((s.act c 3 1).newTag c).advance c k len with net := n } c k =
      (s.core c k).goto ((s.core c k).pcn + len) := fun n =>
    (core_of_cells (s := ((s.act c 3 1).newTag c).advance c k len) rfl c k).trans (by rw [core_advance, core_newTag, act_core])
  rw [exec_farStore h]
  refine next_congr ?_
  unfold storePkt at hinj
  simp only [runFarStore, act_core, hm, hal, ne_eq, not_true_eq_false, if_false, farPkt_act, hinj, State.farStoreSent, if_true, hcore, hnet]
  rfl

theorem farStoreSent_keeps (x y : Nat) : (farStoreSent s c k len x y m).mem = s.mem ∧ (farStoreSent s c k len x y m).regs = s.regs ∧
    (farStoreSent s c k len x y m).err = s.err ∧ s.coresBut (farStoreSent s c k len x y m) c k := by
  refine ⟨?_, ?_, ?_, coresBut_setCore (fun d q hd => ?_) _⟩
  · rw [farStoreSent, setCore_mem]
    exact setCore_mem ..
  · rw [farStoreSent, setCore_regs]
    exact setCore_regs ..
  · rw [farStoreSent, setCore_err]
    exact setCore_err ..
  · refine (core_of_cells (s := ((s.act c 3 1).newTag c).advance c k len) rfl d q).trans ?_
    rw [State.advance, core_setCore_other _ c k _ hd, core_newTag, act_core]

/-! ### Responses -/

/-- The state after a response with data. -/
def responded (s : State) (c : Nat) (k : CoreSel) (i len rd v : Nat) : State :=
  (((s.replacePkt i []).setCore c k { s.core c k with far := none }).advance c k len).setX c k false rd (BitVec.ofNat 32 v)

theorem core_responded (i len rd v : Nat) : (responded s c k i len rd v).core c k =
    (({ s.core c k with far := none }).goto ((s.core c k).pcn + len)).wx rd v := by
  rw [responded, core_setX, core_advance, core_setCore_same]
  rfl

theorem net_setX (t : State) (fp : Bool) (rd : Nat) (v : Word) : (t.setX c k fp rd v).net = t.net := by
  unfold State.setX
  dsimp only
  split_ifs <;> simp

theorem responded_keeps (i len rd v : Nat) : (responded s c k i len rd v).mem = s.mem ∧ (responded s c k i len rd v).regs = s.regs ∧
    (responded s c k i len rd v).err = s.err ∧ (responded s c k i len rd v).net = s.net.eraseIdx i ∧ s.coresBut (responded s c k i len rd v) c k := by
  obtain ⟨hm, hr, he⟩ := setX_keeps (c := c) (k := k) (((s.replacePkt i []).setCore c k { s.core c k with far := none }).advance c k len) false rd
    (BitVec.ofNat 32 v)
  refine ⟨hm.trans ?_, hr.trans ?_, he.trans ?_, ?_, coresBut_setX (coresBut_setCore (coresBut_setCore (fun d q _ => rfl) _) _) _ _ _⟩
  · rw [State.advance, setCore_mem, setCore_mem]
    rfl
  · rw [State.advance, setCore_regs, setCore_regs]
    rfl
  · rw [State.advance, setCore_err, setCore_err]
    rfl
  · rw [responded, net_setX, State.advance, setCore_net, setCore_net]
    exact List.append_nil _

theorem wx_far (x : CoreSt) (rd v : Nat) : (x.wx rd v).far = x.far := by
  unfold CoreSt.wx
  split <;> rfl

theorem net_busStop (t : State) (cause pc val : Nat) : (t.busStop c k cause pc val).net = t.net := by
  rw [State.busStop, State.stopCore, setFld_net, setCore_net]
  rfl

theorem exec_farResponse {i : Nat} {p : Pkt} {f : FarLoad} (hp : s.pktOf i 3 = some p) (hf : (s.core c k).far = some f) (hpos : p.pos = .landed c)
    (htag : p.tag = f.tag) (hruns : s.runs c = true) : exec (.farLoadResponse c k i) s = .next
      (if p.status = 0 then
        (((s.replacePkt i []).setCore c k { s.core c k with far := none }).advance c k f.len).setX c k f.fp f.rd (loadVal f.funct3 p.data)
      else if p.status = 2 then
        ((((s.replacePkt i []).farTest p.addr).raiseAt 0x22 c (State.errLast (bits p.addr 0 21) (State.corePort k) 0)).setErrLast c (bits p.addr 0 21)
          (State.corePort k) 0).busStop c k 5 (s.core c k).pcn f.addr.toNat
      else (s.replacePkt i []).busStop c k 5 (s.core c k).pcn f.addr.toNat) := by
  show Host.Outcome.next (s.farResponse c k i) = _
  simp only [State.farResponse, hp, hf, hpos, htag, hruns, ne_eq, not_true_eq_false, Bool.not_true, Bool.false_eq_true, or_self, if_false]
  rfl

end

/-- Settles O19: stores reach the own control window's registers, far-window accesses the mesh, and responses their core. -/
theorem windowsReachRegistersAndMesh : Obligations.WindowsReachRegistersAndMesh := by
  refine ⟨?_, ?_, ?_, ?_, ?_⟩
  · intro s c w len raw n k m h hm hlen hfp hn haddr hheld _
    obtain ⟨hreg, hregs, hcore, hmem, herr, hothers⟩ := descriptorStored_keeps (s := s) (c := c) (k := k) (len := len) n
      (BitVec.ofNat 64 ((s.core c k).xr m.r))
    refine ⟨_, ctlStore_descriptor h hm hlen hfp hn haddr hheld, ?_, hregs, hcore, hmem, herr, hothers⟩
    rw [hreg, BitVec.toNat_ofNat, Nat.mod_eq_of_lt ((xr_lt _ _).trans (by decide))]
  · intro s c w len raw k m x y h hm hal hdest
    obtain ⟨hmem, hregs, herr, hothers⟩ := farLoadSent_keeps (s := s) (c := c) (k := k) (len := len) (m := m) x y
    refine ⟨_, routed c x y (s.farPkt c k 2 m), farLoad_sends h hm hal hdest, setCore_net .., rfl, rfl, rfl, rfl, rfl, rfl, rfl, rfl, ?_, ?_, hmem,
      hregs, herr, hothers⟩
    · rw [farLoadSent, core_setCore_same]
      rfl
    · rw [farLoadSent, core_setCore_same]
  · intro s c w len raw k m x y h hm hal hdest
    obtain ⟨hmem, hregs, herr, hothers⟩ := farStoreSent_keeps (s := s) (c := c) (k := k) (len := len) (m := m) x y
    refine ⟨_, routed c x y (storePkt s c k m), farStore_sends h hm hal hdest, setCore_net .., rfl, rfl, rfl, rfl, rfl, rfl, rfl, ?_, ?_, hmem,
      hregs, herr, hothers⟩
    · rw [farStoreSent, core_setCore_same]
    · rw [farStoreSent, core_setCore_same]
      exact BitVec.toNat_ofNat ..
  · intro s c i k p f hp hf hpos htag hruns hst hfp hrd hlen
    have hv : loadVal f.funct3 p.data = BitVec.ofNat 32 (loadVal f.funct3 p.data).toNat := by rw [BitVec.ofNat_toNat, BitVec.setWidth_eq]
    have hexec := (exec_farResponse hp hf hpos htag hruns).trans (next_congr (if_pos hst))
    rw [hfp, hv] at hexec
    have hcore : (responded s c k i f.len f.rd (loadVal f.funct3 p.data).toNat).core c k = _ := core_responded ..
    obtain ⟨hmem, hregs, herr, hnet, hothers⟩ := responded_keeps (s := s) (c := c) (k := k) i f.len f.rd (loadVal f.funct3 p.data).toNat
    refine ⟨_, hexec, ?_, fun r hr => ?_, ?_, hnet, hmem, hregs, herr, hothers⟩
    · exact (congrArg CoreSt.far hcore).trans (wx_far ..)
    · refine (congrArg (fun x => x.xr r) hcore).trans ?_
      rw [xr_wx _ (by exact hlen) hr, Nat.mod_eq_of_lt (loadVal f.funct3 p.data).isLt]
      rfl
    · refine (congrArg CoreSt.pcn hcore).trans ?_
      rw [CoreSt.pcn, (wx_mb ..).2]
      exact BitVec.toNat_ofNat ..
  · intro s c i k p f hp hf hpos htag hruns hst
    have hexec := (exec_farResponse hp hf hpos htag hruns).trans (next_congr ((if_neg (by rw [hst]; decide)).trans (if_neg (by rw [hst]; decide))))
    refine ⟨_, hexec, ?_, ?_, ?_, ?_, busStop_mem .., coresBut_busStop (fun d q _ => ?_) _ _ _⟩
    · rw [core_busStop, stopped_st]
    · rw [core_busStop, stopped_x]
      rfl
    · rw [cause_busStop]; rfl
    · rw [net_busStop]
      exact List.append_nil _
    · rfl

end Sys2Proof.CoreWindows
end

section
/-! PROOFS. What the jobs' shared steps do: a job's state, the jobs that are done (R182, R239). -/

namespace Sys2Proof.JobStates

open Sys2Proof Sys2Proof.Machine Sys2Proof.Laws Sys2Proof.Clauses Sys2Proof.CoreSteps

/-- A lookup after a map that keeps the identities. -/
theorem find?_map_id {jobs : List Job} {f : Job → Job} (hf : ∀ j, (f j).id = j.id) (i : Nat) :
    (jobs.map f).find? (fun j => j.id == i) = (jobs.find? fun j => j.id == i).map f := by
  rw [List.find?_map]
  simp only [Function.comp_def, hf]

section
variable (s : State)

theorem job_of_jobs {s t : State} (h : t.jobs = s.jobs) (i : Nat) : t.job? i = s.job? i := by rw [State.job?, h, State.job?]

theorem job_modJob {f : Job → Job} (hf : ∀ j, (f j).id = j.id) (id i : Nat) :
    (s.modJob id f).job? i = (s.job? i).map fun j => if j.id = id then f j else j :=
  find?_map_id (fun j => by split <;> simp [hf]) i

theorem id_of_job {s : State} {i : Nat} {j : Job} (h : s.job? i = some j) : j.id = i := by simpa using List.find?_some h

theorem jobs_raiseAll (v : Nat) : (s.raiseAll v).jobs = s.jobs :=
  StartPhases.within_same (w := [.hports, .out]) (within_raiseAll (List.Subset.refl _) (within_refl s)) .jobs (by decide)

theorem jobs_event (kind : Nat) (body : List Byte) : (s.event kind body).jobs = s.jobs :=
  StartPhases.within_same (w := [.regs, .mem, .hports, .out]) (within_event (List.Subset.refl _) (within_refl s)) .jobs (by decide)

theorem cells_setJobState (id st : Nat) : (s.setJobState id st).cells = s.cells :=
  StartPhases.within_same (w := [.regs, .mem, .jobs, .leftRun, .hports, .out]) (within_setJobState (List.Subset.refl _) (within_refl s)) .cells (by decide)

theorem err_setJobState (id st : Nat) : (s.setJobState id st).err = s.err :=
  StartPhases.within_same (w := [.regs, .mem, .jobs, .leftRun, .hports, .out]) (within_setJobState (List.Subset.refl _) (within_refl s)) .err (by decide)

/-- A job's state is set, and no other job changes. -/
theorem job_setJobState (id st i : Nat) :
    (s.setJobState id st).job? i = (s.job? i).map fun j => if j.id = id then { j with state := st } else j := by
  unfold State.setJobState
  cases hj : s.job? id with
  | none =>
    cases hi : s.job? i with
    | none => rfl
    | some x =>
      have hne : x.id ≠ id := fun h => by rw [id_of_job hi] at h; rw [h, hj] at hi; cases hi
      simp [hi, hne]
  | some j =>
    by_cases hst : j.state = st
    · dsimp only
      rw [if_pos hst]
      cases hi : s.job? i with
      | none => rfl
      | some x =>
        by_cases hx : x.id = id
        · have hxj : x = j := by
            rw [id_of_job hi] at hx
            rw [hx, hj] at hi
            exact (Option.some_inj.1 hi).symm
          subst hxj
          rw [Option.map_some, if_pos hx, ← hst]
        · simp [hx]
    · dsimp only
      rw [if_neg hst, job_of_jobs (jobs_raiseAll ..), job_of_jobs (jobs_event ..), job_modJob _ (f := fun x => { x with state := st }) (fun _ => rfl)]
      rfl

theorem setJobState_same {j : Job} {id : Nat} (h : s.job? id = some j) (st : Nat) : (s.setJobState id st).job? id = some { j with state := st } := by
  rw [job_setJobState, h, Option.map_some, if_pos (id_of_job h)]

theorem setJobState_other {id i : Nat} (h : i ≠ id) (st : Nat) : (s.setJobState id st).job? i = s.job? i := by
  rw [job_setJobState]
  cases hi : s.job? i with
  | none => rfl
  | some x => rw [Option.map_some, if_neg (by rw [id_of_job hi]; exact h)]

/-! ### Jobs that are done (R182) -/

/-- A running job all of whose started cores have stopped. -/
def AllStopped (j : Job) : Prop := j.state = 3 ∧ j.starts.all (fun e => (s.core e.1 e.2).st == 0) = true

theorem allStopped_of_cells {s t : State} (h : t.cells = s.cells) {j : Job} (ho : AllStopped s j) : AllStopped t j := by
  refine ⟨ho.1, ?_⟩
  simp only [core_of_cells h]
  exact ho.2

theorem cells_jobDone (id : Nat) : (s.jobDone id).cells = s.cells := by
  unfold State.jobDone
  split
  · split
    · exact cells_setJobState ..
    · rfl
  · rfl

theorem jobDone_other {id i : Nat} (h : i ≠ id) : (s.jobDone id).job? i = s.job? i := by
  unfold State.jobDone
  split
  · split
    · exact setJobState_other s h 4
    · rfl
  · rfl

theorem jobDone_allStopped {s : State} {id : Nat} {j : Job} (h : s.job? id = some j) (ho : AllStopped s j) : (s.jobDone id).job? id = some { j with state := 4 } := by
  unfold State.jobDone
  rw [h]
  dsimp only
  exact (congrArg (fun t => State.job? t id) (if_pos ho)).trans (setJobState_same s h 4)

theorem jobDone_stays {s : State} {id : Nat} {j : Job} (h : s.job? id = some j) (hst : j.state ≠ 3) : s.jobDone id = s := by
  unfold State.jobDone
  rw [h]
  exact if_neg fun hn => hst hn.1

/-- A job that does not run stays as it is while the jobs settle. -/
theorem settle_stays {id : Nat} {j : Job} (hst : j.state ≠ 3) (l : List Job) {s : State} (h : s.job? id = some j) :
    (l.foldl (fun t x => t.jobDone x.id) s).job? id = some j := by
  induction l generalizing s with
  | nil => exact h
  | cons x l ih =>
    rw [List.foldl_cons]
    refine ih ?_
    by_cases hx : id = x.id
    · rw [← hx, jobDone_stays h hst, h]
    · rw [jobDone_other s hx, h]

/-- A running job whose cores have stopped is done once the jobs settle. -/
theorem settle_allStopped {id : Nat} {j : Job} (l : List Job) {s : State} (h : s.job? id = some j) (ho : AllStopped s j) (hmem : ∃ x ∈ l, x.id = id) :
    (l.foldl (fun t x => t.jobDone x.id) s).job? id = some { j with state := 4 } := by
  induction l generalizing s with
  | nil => simp at hmem
  | cons x l ih =>
    rw [List.foldl_cons]
    by_cases hx : id = x.id
    · rw [← hx]
      exact settle_stays (j := { j with state := 4 }) (show (4 : Nat) ≠ 3 by decide) l (jobDone_allStopped h ho)
    · refine ih ((jobDone_other s hx).trans h) (allStopped_of_cells (cells_jobDone s x.id) ho) ?_
      obtain ⟨y, hy, hid⟩ := hmem
      rcases List.mem_cons.1 hy with rfl | hyl
      · exact absurd hid.symm hx
      · exact ⟨y, hyl, hid⟩

theorem jobsSettle_allStopped {s : State} {id : Nat} {j : Job} (h : s.job? id = some j) (ho : AllStopped s j) :
    s.jobsSettle.job? id = some { j with state := 4 } :=
  settle_allStopped s.jobs h ho ⟨j, List.mem_of_find?_eq_some h, id_of_job h⟩

end

end Sys2Proof.JobStates
end

section
/-! PROOFS. Cores start and stop, jobs end, instruction stores take loads (R164, R165, R182, R243). -/

namespace Sys2Proof.CoreControl

open Sys2Proof Sys2Proof.Machine Sys2Proof.Laws Sys2Proof.Clauses Sys2Proof.CoreSteps Sys2Proof.Scratchpad Sys2Proof.JobStates
open Sys2Proof.PrimerAndScrubbers
open Sys2Proof.BankEngine (readWord_of_good)
open Sys2Proof.Machine.State (coreKey hartOf)

/-! ### Starting and stopping (R164, R182) -/

/-- The core that starts. -/
def started (s : State) (c : Nat) (k : CoreSel) : CoreSt :=
  { CoreSt.reset with
    st := 1, pc := BitVec.ofNat 32 (2 * s.fld (coreKey c k HEAD_BOOT_PC) 1 14),
    csr := (s.core c k).csr.filter fun e => !fpVecCsrs.contains e.1, imem := (s.core c k).imem, mb := (s.core c k).mb,
    farStores := (s.core c k).farStores, heldStores := (s.core c k).heldStores }

section
variable {s : State} {c : Nat} {k : CoreSel}

theorem exec_start (hp : s.primed c = true) (hst : (s.core c k).st = 0 ∨ (s.core c k).st = 2 ∨ (s.core c k).st = 3) :
    exec (.coreStart c k) s = .next ((s.setCore c k (started s c k)).setFld (coreKey c k HEAD_CTRL) 0 1 1) := by
  have hok : ((s.core c k).st == 0 || (s.core c k).st == 2 || (s.core c k).st == 3) = true := by
    rcases hst with h | h | h <;> rw [h] <;> rfl
  show Host.Outcome.next (s.coreRun c k) = _
  simp only [State.coreRun, hp, hok, Bool.not_true, Bool.or_self, Bool.false_eq_true, if_false, started]

theorem exec_start_ignored (h : (s.core c k).st = 1 ∨ s.primed c = false) : exec (.coreStart c k) s = .next s := by
  show Host.Outcome.next (s.coreRun c k) = _
  unfold State.coreRun
  rcases h with h | h <;> simp [h]

/-- Every integer and FP register of a core that starts is zero. -/
theorem started_zero (r : Nat) : (started s c k).xr r = 0 ∧ (started s c k).fr r = 0 ∧ ((started s c k).v[r]?).getD 0 = 0 := by
  refine ⟨?_, ?_, ?_⟩
  · show (if r = 0 then 0 else (((List.replicate 32 (0 : Word))[r]?).getD 0).toNat) = 0
    rw [List.getElem?_replicate]
    split_ifs <;> rfl
  · show (((List.replicate 32 (0 : Word))[r]?).getD 0).toNat = 0
    rw [List.getElem?_replicate]
    split_ifs <;> rfl
  · show ((List.replicate 32 (0 : BitVec 256))[r]?).getD 0 = 0
    rw [List.getElem?_replicate]
    split_ifs <;> rfl

theorem pcn_started : (started s c k).pcn = 2 * s.fld (coreKey c k HEAD_BOOT_PC) 1 14 := by
  have hlt : s.fld (coreKey c k HEAD_BOOT_PC) 1 14 < 2 ^ 14 := fld_lt ..
  rw [CoreSt.pcn, started, BitVec.toNat_ofNat]
  omega

/-- A state whose core and RUN bit are written. -/
theorem controlled_keeps (x : CoreSt) (v : Nat) : s.regsBut ((s.setCore c k x).setFld (coreKey c k HEAD_CTRL) 0 1 v) [coreKey c k HEAD_CTRL] ∧
    ((s.setCore c k x).setFld (coreKey c k HEAD_CTRL) 0 1 v).mem = s.mem ∧
    s.coresBut ((s.setCore c k x).setFld (coreKey c k HEAD_CTRL) 0 1 v) c k ∧
    ((s.setCore c k x).setFld (coreKey c k HEAD_CTRL) 0 1 v).err = s.err ∧
    ((s.setCore c k x).setFld (coreKey c k HEAD_CTRL) 0 1 v).fld (coreKey c k HEAD_CTRL) 0 1 = v % 2 ^ 1 ∧
    ((s.setCore c k x).setFld (coreKey c k HEAD_CTRL) 0 1 v).core c k = x := by
  refine ⟨regsBut_setFld (fun j _ => setCore_reg ..) (List.mem_singleton_self _) _ _ _, ?_, coresBut_of_cells (coresBut_setCore (coresBut_refl s c k) x) (setFld_cells ..), ?_, ?_, ?_⟩
  · rw [setFld_mem, setCore_mem]
  · rw [setFld_err, setCore_err]
  · exact fld_setFld_same _ _ (by decide)
  · rw [core_of_cells (setFld_cells ..), core_setCore_same]

theorem exec_stop (hst : (s.core c k).st = 1) (hmb : (s.core c k).mb = []) (hb : s.coreBusy c k = false) :
    exec (.coreStop c k) s = .next (s.stopCore c k 0) := by
  have hflush : s.mbFlush c k (fun _ => true) = s := by rw [State.mbFlush, hmb]; rfl
  show Host.Outcome.next (s.coreOff c k) = _
  simp only [State.coreOff, hst, hb, hflush, ne_eq, not_true_eq_false, if_false, Bool.false_eq_true, if_true]

theorem exec_stop_asked (hst : (s.core c k).st = 1) (hb : s.coreBusy c k = true) :
    exec (.coreStop c k) s = .next ((s.setCore c k { s.core c k with stopReq := true }).setFld (coreKey c k HEAD_CTRL) 0 1 0) := by
  show Host.Outcome.next (s.coreOff c k) = _
  simp only [State.coreOff, hst, hb, ne_eq, not_true_eq_false, if_false, if_true]

/-- A core asked to stop issues nothing. -/
theorem canIssue_of_asked {t : State} (h : (t.core c k).stopReq = true) : t.canIssue c k = false := by
  simp [State.canIssue, h]

end

/-! ### Loads of the instruction store (R165, R243) -/

section
variable {s : State} {c : Nat} {k : CoreSel}

/-- A command that records nothing of class 0x2A leaves the load of its cell. -/
theorem imemWatch_of_recQ {s t : State} (h : t.err.recQ = s.err.recQ) (c : Nat) : s.imemWatch t c = t := by
  rw [State.imemWatch, h, List.drop_length]
  rfl

theorem imemWatch_of_load {s t : State} (h : t.load = none) (c : Nat) : s.imemWatch t c = t := by
  have hfail : t.loadCellFail c = t := by simp only [State.loadCellFail, h]
  rw [State.imemWatch, hfail]
  split <;> rfl

theorem roundSettle_of_load {t : State} (h : t.load = none) : t.roundSettle = t := by simp only [State.roundSettle, h]

theorem imemReason_cases (req : Req) (v : Word) : s.imemReason c k req v < 2 ^ 3 ∧ (req ≠ .firmware → s.imemReason c k req v = 1) ∧
    (s.imemReason c k .firmware v = 0 → 1 ≤ bits v.toNat 0 10 ∧ bits v.toNat 0 10 ≤ 512 ∧ (s.core c k).st ≠ 1) := by
  unfold State.imemReason
  refine ⟨?_, fun h => if_pos h, fun h => ?_⟩
  · dsimp only
    split_ifs <;> decide
  · dsimp only at h
    split_ifs at h with h1 h2 h3 <;> omega

theorem exec_imemLoad_taken {v : Word} (hp : s.primed c = true) (hr : s.imemReason c k .firmware v = 0) :
    exec (.imemLoad c k .firmware v) s = .next ((s.dropPend .firmware (keyBlock (coreKey c k HEAD_IMEM_LOAD))).setCore c k
      { s.core c k with imem := some ⟨bits v.toNat 0 10, bits v.toNat 10 10, bits v.toNat 20 9⟩ }) := by
  have hload : (s.dropPend .firmware (keyBlock (coreKey c k HEAD_IMEM_LOAD))).imemLoad c k .firmware v =
      (s.dropPend .firmware (keyBlock (coreKey c k HEAD_IMEM_LOAD))).setCore c k
        { s.core c k with imem := some ⟨bits v.toNat 0 10, bits v.toNat 10 10, bits v.toNat 20 9⟩ } := by
    have hp' : (s.dropPend .firmware (keyBlock (coreKey c k HEAD_IMEM_LOAD))).primed c = true := hp
    have hr' : (s.dropPend .firmware (keyBlock (coreKey c k HEAD_IMEM_LOAD))).imemReason c k .firmware v = 0 := hr
    simp only [State.imemLoad, hp', hr', Bool.not_true, Bool.false_eq_true, if_false, ne_eq, not_true_eq_false]
    rfl
  show Host.Outcome.next (State.imemWatch _ _ c) = _
  rw [hload, imemWatch_of_recQ (by rw [setCore_err])]

/-- The state after a refused load of the instruction store. -/
def imemRefused (s : State) (c : Nat) (k : CoreSel) (req : Req) (r : Nat) : State :=
  ((s.dropPend req (keyBlock (coreKey c k HEAD_IMEM_LOAD))).setFld (coreKey c k HEAD_IMEM_STAT) 1 3 r).raise 0x2A (.cell c 0)
    (State.imemDetail k r) (originCell req)

theorem exec_imemLoad_refused {req : Req} {v : Word} {r : Nat} (hp : s.primed c = true) (hr : s.imemReason c k req v = r) (h0 : r ≠ 0)
    (hl : s.load = none) : exec (.imemLoad c k req v) s = .next (imemRefused s c k req r) := by
  have hload : (s.dropPend req (keyBlock (coreKey c k HEAD_IMEM_LOAD))).imemLoad c k req v = imemRefused s c k req r := by
    have hp' : (s.dropPend req (keyBlock (coreKey c k HEAD_IMEM_LOAD))).primed c = true := hp
    have hr' : (s.dropPend req (keyBlock (coreKey c k HEAD_IMEM_LOAD))).imemReason c k req v = r := hr
    simp only [State.imemLoad, hp', hr', h0, Bool.not_true, Bool.false_eq_true, if_false, ne_eq, not_false_eq_true, if_true, imemRefused]
  have hkeep : (imemRefused s c k req r).load = none := by
    rw [imemRefused, raise_load, setFld_load]
    exact hl
  show Host.Outcome.next (State.imemWatch _ _ c) = _
  rw [hload, imemWatch_of_load hkeep]

/-! ### A line that is copied -/

/-- One word of the line read for a copy. -/
def imemStep (c src : Nat) (a : State.LineRead) (i : Nat) : State.LineRead :=
  match a.s.readWord c (src + 8 * i) 0 with
  | (t, .word w) => { a with s := t, words := a.words ++ [w] }
  | (t, .lost _ syn) => { a with s := t, lost := if a.lost.isSome then a.lost else some (src + 8 * i, syn) }

theorem imemLine_eq (src : Nat) : s.imemLine c src = (List.range 8).foldl (imemStep c src) ⟨s, [], none⟩ := rfl

theorem imemStep_good {src i : Nat} (ws : List Nat) (h : judge (s.wordAt c (src + 8 * i)) (s.chkAt c (src + 8 * i)) = .good) :
    imemStep c src ⟨s, ws, none⟩ i = ⟨s, ws ++ [s.wordAt c (src + 8 * i)], none⟩ := by
  simp only [imemStep, readWord_of_good 0 h]

/-- The words of a line that is good. -/
theorem imemLine_good {src : Nat} (h : ∀ i, i < 8 → judge (s.wordAt c (src + 8 * i)) (s.chkAt c (src + 8 * i)) = .good) :
    s.imemLine c src = ⟨s, (List.range 8).map fun i => s.wordAt c (src + 8 * i), none⟩ := by
  have hn : ∀ n, n ≤ 8 → (List.range n).foldl (imemStep c src) ⟨s, [], none⟩ = ⟨s, (List.range n).map fun i => s.wordAt c (src + 8 * i), none⟩ := by
    intro n hn
    induction n with
    | zero => rfl
    | succ n ih =>
      rw [List.range_succ, List.foldl_append, ih (by omega), List.foldl_cons, List.foldl_nil, imemStep_good _ (h n hn), List.map_append,
        List.map_singleton]
  rw [imemLine_eq, hn 8 (Nat.le_refl 8)]

/-- The words that were put into the line at `dst` and what else stays. -/
structure LineCopied (s t : State) (c : Nat) (k : CoreSel) (dst n : Nat) (w : Nat → Nat) : Prop where
  words : ∀ i, i < n → t.imemWord c k (64 * dst + 8 * i) = w i ∧ t.imemChk c k (64 * dst + 8 * i) = eccByte (w i)
  bytes : ∀ q, (∀ i, i < 64 → q ≠ imemKey c k (64 * dst + i) ∧ q ≠ imemChkKey c k (64 * dst + i)) → t.byte q = s.byte q

theorem lineCopied_putImem {t : State} {dst n : Nat} {w : Nat → Nat} (h : LineCopied s t c k dst n w) (hdst : dst < 512) (hn : n < 8)
    (hw : w n < 2 ^ 64) : LineCopied s (t.putImem c k (64 * dst + 8 * n) (w n)) c k dst (n + 1) w where
  words i hi := by
    rcases Nat.lt_succ_iff_lt_or_eq.1 hi with hlt | rfl
    · rw [imemWord_putImem_other t c _ k (by omega) (by omega) (by omega), imemChk_putImem_other t c _ k (by omega) (by omega) (by omega)]
      exact h.words i hlt
    · exact ⟨imemWord_putImem_same t c k (by omega) hw, imemChk_putImem_same ..⟩
  bytes q hq := by
    rw [byte_putImem, if_neg (hq (8 * n) (by omega)).2, if_neg, h.bytes q hq]
    rintro ⟨hlo, hhi⟩
    have hbase : imemKey c k ((64 * dst + 8 * n) / 8 * 8) = imemKey c k (64 * dst) + 8 * n := by
      unfold imemKey
      omega
    rw [hbase] at hlo hhi
    refine (hq (q - imemKey c k (64 * dst)) (by omega)).1 ?_
    have hoff : imemKey c k (64 * dst + (q - imemKey c k (64 * dst))) = imemKey c k (64 * dst) + (q - imemKey c k (64 * dst)) := by
      generalize q - imemKey c k (64 * dst) = x
      unfold imemKey
      omega
    omega

/-- The words of a line that are put one after the other. -/
def putLine (s : State) (c : Nat) (k : CoreSel) (dst : Nat) (w : Nat → Nat) (n : Nat) : State :=
  (List.range n).foldl (fun t i => t.putImem c k (64 * dst + 8 * i) (w i)) s

theorem lineCopied_putLine {dst : Nat} {w : Nat → Nat} (hdst : dst < 512) (hw : ∀ i, w i < 2 ^ 64) {n : Nat} (hn : n ≤ 8) :
    LineCopied s (putLine s c k dst w n) c k dst n w := by
  induction n with
  | zero => exact ⟨fun i hi => absurd hi (Nat.not_lt_zero i), fun _ _ => rfl⟩
  | succ n ih =>
    rw [putLine, List.range_succ, List.foldl_append]
    exact lineCopied_putImem (ih (by omega)) hdst hn (hw n)

theorem putLine_keeps (dst : Nat) (w : Nat → Nat) (n : Nat) : (putLine s c k dst w n).regs = s.regs ∧ (putLine s c k dst w n).err = s.err ∧
    (putLine s c k dst w n).cells = s.cells ∧ (putLine s c k dst w n).load = s.load :=
  List.foldlRecOn (motive := fun (t : State) => t.regs = s.regs ∧ t.err = s.err ∧ t.cells = s.cells ∧ t.load = s.load) _ _ ⟨rfl, rfl, rfl, rfl⟩
    fun t ht i _ => by simpa [State.putImem] using ht

/-- One good line is copied. -/
theorem imemLines_one {src dst : Nat} (h : ∀ i, i < 8 → judge (s.wordAt c (src + 8 * i)) (s.chkAt c (src + 8 * i)) = .good) :
    s.imemLines c k src (64 * dst) 1 = (putLine s c k dst (fun i => s.wordAt c (src + 8 * i)) 8, none) := by
  simp only [State.imemLines, imemLine_good h]
  rfl

/-- The state after the copy of one good line. -/
def lineLoaded (s : State) (c : Nat) (k : CoreSel) (src dst : Nat) : State :=
  (putLine s c k dst (fun i => s.wordAt c (0x170000 + 64 * src + 8 * i)) 8).setCore c k { s.core c k with imem := none }

theorem exec_imemLoadComplete {src dst : Nat} (him : (s.core c k).imem = some ⟨1, src, dst⟩) (hl : s.load = none)
    (h : ∀ i, i < 8 → judge (s.wordAt c (0x170000 + 64 * src + 8 * i)) (s.chkAt c (0x170000 + 64 * src + 8 * i)) = .good) :
    exec (.imemLoadComplete c k) s = .next (lineLoaded s c k src dst) := by
  obtain ⟨-, herr, hcells, hload⟩ := putLine_keeps (s := s) (c := c) (k := k) dst (fun i => s.wordAt c (0x170000 + 64 * src + 8 * i)) 8
  have hdone : s.imemDone c k = lineLoaded s c k src dst := by
    simp only [State.imemDone, him, imemLines_one h, core_of_cells hcells, lineLoaded]
  have hwatch : s.imemWatch (lineLoaded s c k src dst) c = lineLoaded s c k src dst :=
    imemWatch_of_recQ (by rw [lineLoaded, setCore_err, herr]) c
  show Host.Outcome.next (s.imemWatch (s.imemDone c k) c).roundSettle = _
  rw [hdone, hwatch, roundSettle_of_load (by rw [lineLoaded, setCore_load, hload, hl])]

end

/-- Settles O20: cores start and stop, the last to stop ends its job, and instruction stores take loads. -/
theorem coresStartStopAndLoadCode : Obligations.CoresStartStopAndLoadCode := by
  refine ⟨⟨?_, ?_, ?_, ?_, ?_⟩, ?_, ?_, ?_⟩
  · intro s c k hp hst
    obtain ⟨hregs, hmem, hothers, herr, hrun, hcore⟩ := controlled_keeps (s := s) (c := c) (k := k) (started s c k) 1
    refine ⟨_, exec_start hp hst, ?_⟩
    rw [hcore]
    exact ⟨rfl, pcn_started, fun r => ⟨(started_zero r).1, (started_zero r).2.1⟩, fun r => (started_zero r).2.2, hrun, rfl, hregs, hmem, hothers, herr⟩
  · intro s c k h
    exact ⟨s, exec_start_ignored h, rfl, rfl, rfl⟩
  · intro s c k hst hmb hb _
    obtain ⟨hregs, hmem, hothers, herr, hrun, -⟩ := controlled_keeps (s := s) (c := c) (k := k) (stopped (s.core c k) 0) 0
    refine ⟨_, exec_stop hst hmb hb, ?_, ?_, hrun, hregs, hmem, hothers, herr⟩
    · rw [core_stopCore, stopped_st]
    · rw [core_stopCore, stopped_x]
  · intro s c k hst hb
    obtain ⟨hregs, hmem, hothers, herr, hrun, hcore⟩ := controlled_keeps (s := s) (c := c) (k := k) { s.core c k with stopReq := true } 0
    exact ⟨_, exec_stop_asked hst hb, hcore, canIssue_of_asked (by rw [hcore]), hrun, hregs, hmem, hothers, herr⟩
  · intro s c k j hst hmb hb hj hrun hstarts
    have hjob : (s.stopCore c k 0).job? (s.jobOf c) = some j :=
      (job_of_jobs (by rw [State.stopCore, setFld_jobs, setCore_jobs]) _).trans hj
    have hstop : ((s.stopCore c k 0).core c k).st = 0 := by rw [core_stopCore, stopped_st]
    refine ⟨_, exec_stop hst hmb hb, hstop, hjob, jobsSettle_allStopped hjob ⟨hrun, ?_⟩, coresBut_stopCore (coresBut_refl s c k) 0, stopCore_err ..⟩
    rw [hstarts, List.all_cons, List.all_nil, Bool.and_true, hstop]
    rfl
  · intro s c k v hp hr
    obtain ⟨hlo, hhi, hne⟩ := (imemReason_cases (s := s) (c := c) (k := k) .firmware v).2.2 hr
    refine ⟨_, exec_imemLoad_taken hp hr, ?_, ?_, hlo, hhi, hne, setCore_regs .., setCore_mem .., setCore_err .., coresBut_setCore (fun _ _ _ => rfl) _⟩
    · rw [core_setCore_same]
    · rw [core_setCore_same]
  · intro s c r k req v hp hr h0 hl
    obtain ⟨hlt, hfw, -⟩ := imemReason_cases (s := s) (c := c) (k := k) req v
    rw [hr] at hlt hfw
    refine ⟨_, exec_imemLoad_refused hp hr h0 hl, ?_, ?_, ?_, hfw, ?_, logs_raise ?_ ..⟩
    · rw [imemRefused, raise_fld]
      exact (fld_setFld_same _ _ (by decide)).trans (Nat.mod_eq_of_lt hlt)
    · rw [imemRefused, raise_cells, setFld_cells]
      rfl
    · rw [imemRefused, raise_mem, setFld_mem]
      rfl
    · exact regsBut_of_regs (regsBut_setFld (fun _ _ => rfl) (List.mem_singleton_self _) _ _ _) (raise_part ..) (raise_regs ..)
    · rw [setFld_err]
      rfl
  · intro s c src dst k him hsrc hdst hl hgood
    obtain ⟨hregs, herr, hcells, -⟩ := putLine_keeps (s := s) (c := c) (k := k) dst (fun i => s.wordAt c (0x170000 + 64 * src + 8 * i)) 8
    have hcopy := lineCopied_putLine (s := s) (c := c) (k := k) hdst (fun i => wordAt_lt s c (0x170000 + 64 * src + 8 * i)) (Nat.le_refl 8)
    have hmem : (lineLoaded s c k src dst).mem = (putLine s c k dst (fun i => s.wordAt c (0x170000 + 64 * src + 8 * i)) 8).mem := setCore_mem ..
    refine ⟨_, exec_imemLoadComplete him hl hgood, ?_, fun i hi => ?_, fun q hq => ?_, ?_, ?_, coresBut_setCore (fun d q _ => core_of_cells hcells d q) _⟩
    · rw [lineLoaded, core_setCore_same]
    · rw [imemWord_of_mem hmem, imemChk_of_mem hmem]
      exact hcopy.words i hi
    · rw [byte_of_mem hmem]
      exact hcopy.bytes q hq
    · rw [lineLoaded, setCore_regs, hregs]
    · rw [lineLoaded, setCore_err, herr]

end Sys2Proof.CoreControl
end

section
/-! PROOFS. The test kernel: it returns, passes or reports (R201, R250, R251, R439). -/

namespace Sys2Proof.TestKernel

open Sys2Proof Sys2Proof.Machine Sys2Proof.Laws Sys2Proof.Clauses Sys2Proof.CoreSteps Sys2Proof.Scratchpad Sys2Proof.MergeBuffers
open Sys2Proof.PrimerAndScrubbers (byte_of_mem)
open Sys2Proof.Machine.State (coreKey hartOf corePort callerX callerF freeAt)

/-! ### What a call leaves of a core -/

theorem xr_wx_other (x : CoreSt) {rd r : Nat} (v : Nat) (h : r ≠ rd) : (x.wx rd v).xr r = x.xr r := by
  unfold CoreSt.wx
  split
  · rfl
  · simp [CoreSt.xr, List.getElem?_set, Ne.symm h]

/-- What a run of FP writes leaves. -/
theorem foldl_wf_keeps (l : List Nat) (g : Nat → Nat) (x : CoreSt) :
    (l.foldl (fun a r => a.wf r (g r)) x).x = x.x ∧ (l.foldl (fun a r => a.wf r (g r)) x).csr = x.csr ∧
      (l.foldl (fun a r => a.wf r (g r)) x).v = x.v :=
  List.foldlRecOn (motive := fun (y : CoreSt) => y.x = x.x ∧ y.csr = x.csr ∧ y.v = x.v) _ _ ⟨rfl, rfl, rfl⟩ fun _ h _ _ => h

/-- What a run of integer writes leaves. -/
theorem foldl_wx_keeps (l : List Nat) (g : Nat → Nat) (x : CoreSt) :
    (∀ r, r ∉ l → (l.foldl (fun a r => a.wx r (g r)) x).xr r = x.xr r) ∧ (l.foldl (fun a r => a.wx r (g r)) x).csr = x.csr ∧
      (l.foldl (fun a r => a.wx r (g r)) x).v = x.v :=
  List.foldlRecOn (motive := fun (y : CoreSt) => (∀ r, r ∉ l → y.xr r = x.xr r) ∧ y.csr = x.csr ∧ y.v = x.v) _ _ ⟨fun _ _ => rfl, rfl, rfl⟩
    fun y h i hi => by
      obtain ⟨hx, hcsr, hv⟩ := h
      refine ⟨fun r hr => ?_, ?_, ?_⟩
      · rw [xr_wx_other _ _ (ne_of_mem_of_not_mem hi hr).symm, hx r hr]
      · rw [← hcsr]
        unfold CoreSt.wx
        split <;> rfl
      · rw [← hv]
        unfold CoreSt.wx
        split <;> rfl

section
variable (s : State) (c : Nat) (k : CoreSel)

/-- The core that the kernel returns to. -/
theorem core_kernelReturn : ∃ z : CoreSt, (s.kernelReturn c k).core c k = z.goto ((s.core c k).xr 1 / 2 * 2) ∧
    (∀ r, r ∉ callerX → z.xr r = (s.core c k).xr r) ∧ z.csr = (s.core c k).csr ∧ z.v = (s.core c k).v := by
  obtain ⟨hx, hcsr, hv⟩ := foldl_wx_keeps callerX (fun r => s.freeAt r) (s.core c k)
  obtain ⟨hfx, hfcsr, hfv⟩ := foldl_wf_keeps callerF (fun r => s.freeAt (32 + r)) (callerX.foldl (fun a r => a.wx r (s.freeAt r)) (s.core c k))
  refine ⟨_, core_setCore_same .., fun r hr => ?_, hfcsr.trans hcsr, hfv.trans hv⟩
  rw [← hx r hr]
  simp only [CoreSt.xr, hfx]

theorem kernelReturn_keeps : (s.kernelReturn c k).mem = s.mem ∧ (s.kernelReturn c k).regs = s.regs ∧ (s.kernelReturn c k).err = s.err ∧
    (s.kernelReturn c k).part = s.part ∧ s.coresBut (s.kernelReturn c k) c k := by
  refine ⟨?_, ?_, ?_, ?_, coresBut_setCore (fun _ _ _ => rfl) _⟩ <;> simp [State.kernelReturn]

/-! ### The test's area -/

/-- What writing the words of the test's area leaves. -/
structure AreaWritten (t : State) (off : Nat) : Prop where
  bytes : ∀ q, (∀ i, i < 4096 → q ≠ spmKey c (off + i) ∧ q ≠ spmChkKey c (off + i)) → t.byte q = s.byte q
  regs : t.regs = s.regs
  err : t.err = s.err
  part : t.part = s.part
  jobs : t.jobs = s.jobs
  panels : t.panels = s.panels
  time : t.time = s.time
  slot : t.slot = s.slot
  core : ∀ d q, t.core d q = s.core d q

end

section
variable {s : State} {c : Nat} {k : CoreSel}

theorem putWord_machine (s : State) (c o w chk : Nat) : (s.putWord c o w chk).part = s.part ∧ (s.putWord c o w chk).jobs = s.jobs ∧
    (s.putWord c o w chk).panels = s.panels ∧ (s.putWord c o w chk).time = s.time ∧ (s.putWord c o w chk).slot = s.slot := by
  unfold State.putWord
  rcases scrubDrop_eq s c o with h | ⟨m, h⟩ <;> rw [h] <;> simp

theorem areaWritten_writeWord {t : State} {off i : Nat} (h : AreaWritten s c t off) (hoff : off % 8 = 0) (hi : i < 512) (w : Nat) :
    AreaWritten s c (t.writeWord c (off + 8 * i) w) off := by
  obtain ⟨hregs, herr⟩ := putWord_keeps t c (off + 8 * i) w (eccByte w)
  obtain ⟨hpart, hjobs, hpanels, htime, hslot⟩ := putWord_machine t c (off + 8 * i) w (eccByte w)
  refine ⟨fun q hq => ?_, hregs.trans h.regs, herr.trans h.err, hpart.trans h.part, hjobs.trans h.jobs, hpanels.trans h.panels, htime.trans h.time,
    hslot.trans h.slot, fun d q => (core_putWord ..).trans (h.core d q)⟩
  rw [State.writeWord, byte_putWord_other _ _ _ (by omega) (fun j hj => ?_) (hq (8 * i) (by omega)).2, h.bytes q hq]
  rw [Nat.add_assoc]
  exact (hq (8 * i + j) (by omega)).1

theorem areaWritten_foldl {off : Nat} (hoff : off % 8 = 0) (f : Nat → Nat) :
    AreaWritten s c ((List.range 512).foldl (fun t i => t.writeWord c (off + 8 * i) (f i)) s) off :=
  List.foldlRecOn (motive := fun t => AreaWritten s c t off) _ _ ⟨fun _ _ => rfl, rfl, rfl, rfl, rfl, rfl, rfl, rfl, fun _ _ => rfl⟩
    fun _ h i hi => areaWritten_writeWord h hoff (List.mem_range.1 hi) _

/-- The core whose vector state a test has used. -/
def testedCore (s : State) (c : Nat) (k : CoreSel) : CoreSt :=
  { ((((s.core c k).putCsr 0xC20 (s.freeAt 128)).putCsr 0xC21 (s.freeAt 129)).putCsr 8 0) with
    v := (List.range 32).map fun r => BitVec.ofNat 256 (((List.range 4).map fun j => s.freeAt (4 * r + j) * 2 ^ (64 * j)).sum) }

/-- The state of a test before its area is written. -/
def tested (s : State) (c : Nat) (k : CoreSel) : State := { s with free := s.free + 642 }.setCore c k (testedCore s c k)

theorem kernelScratch_eq (off : Nat) :
    s.kernelScratch c k off = (List.range 512).foldl (fun t i => t.writeWord c (off + 8 * i) (s.freeAt (130 + i))) (tested s c k) := by
  unfold State.kernelScratch tested testedCore
  rfl

theorem areaWritten_scratch {off : Nat} (hoff : off % 8 = 0) : AreaWritten (tested s c k) c (s.kernelScratch c k off) off := by
  rw [kernelScratch_eq]
  exact areaWritten_foldl hoff _

theorem xr_tested (r : Nat) : ((tested s c k).core c k).xr r = (s.core c k).xr r := by
  rw [tested, core_setCore_same]
  rfl

/-- What the state after the test's work leaves of the state before. -/
theorem scratch_keeps {off : Nat} (hoff : off % 8 = 0) : (s.kernelScratch c k off).regs = s.regs ∧ (s.kernelScratch c k off).err = s.err ∧
    (s.kernelScratch c k off).part = s.part ∧ (s.kernelScratch c k off).jobs = s.jobs ∧ (s.kernelScratch c k off).panels = s.panels ∧
    (s.kernelScratch c k off).time = s.time ∧ (s.kernelScratch c k off).slot = s.slot ∧
    (∀ r, ((s.kernelScratch c k off).core c k).xr r = (s.core c k).xr r) ∧
    (∀ q, (∀ i, i < 4096 → q ≠ spmKey c (off + i) ∧ q ≠ spmChkKey c (off + i)) → (s.kernelScratch c k off).byte q = s.byte q) := by
  have h := areaWritten_scratch (s := s) (c := c) (k := k) hoff
  refine ⟨h.regs.trans (setCore_regs ..), h.err.trans (setCore_err ..), h.part.trans (setCore_part ..), h.jobs.trans (setCore_jobs ..),
    h.panels.trans (setCore_panels ..), h.time.trans (setCore_time ..), h.slot.trans (setCore_slot ..), fun r => ?_, fun q hq => ?_⟩
  · rw [h.core, xr_tested]
  · rw [h.bytes q hq]
    exact byte_of_mem (setCore_mem ..) q

/-! ### The call -/

/-- What reading STEP_ENGINE over the mesh leaves (R201). -/
theorem asked_keeps {v : State} {n ga : Nat} (h : s.cellAsks c (.far c k) s.ctlDie ga 4 = (v, n)) :
    v.cells = s.cells ∧ v.mem = s.mem ∧ v.facility = s.facility := by
  have hw := within_cellAsks (s := s) (c := c) (req := .far c k) (d := s.ctlDie) (ga := ga) (len := 4) (List.Subset.refl _) (within_refl s)
  rw [h] at hw
  refine ⟨StartPhases.within_same hw .cells (by decide), StartPhases.within_same hw .mem (by decide), ?_⟩
  have htime : v.time = s.time := StartPhases.within_same hw .time (by decide)
  rw [State.facility, State.facility, StartPhases.within_now hw, htime]

/-- The step slot of a cell has come (R250). -/
def inSlot (s : State) (c : Nat) (k : CoreSel) : Prop :=
  (s.stepEngine + 512 - bits ((s.core c k).csrOf 0xFC0) 0 8 - bits ((s.core c k).csrOf 0xFC0) 8 7) % 64 = 0

theorem exec_call_outside {v : State} {u : Option Nat} (hi : s.canIssue c k = true) (hk : s.atKernel c k = true)
    (ha : s.cellAsks c (.far c k) s.ctlDie (4 * 2 ^ 44 + STEP_ENGINE) 4 = (v, 0)) (hs : ¬ inSlot s c k) :
    exec (.testKernelCall c k u) s = .next (v.kernelReturn c k) := by
  show Host.Outcome.next (s.testKernel c k u) = _
  simp only [State.testKernel, hi, hk, Bool.not_true, Bool.or_self, Bool.false_eq_true, if_false, ha]
  exact next_congr (if_pos hs)

theorem exec_call_cut {v : State} {n : Nat} {u : Option Nat} (hi : s.canIssue c k = true) (hk : s.atKernel c k = true)
    (ha : s.cellAsks c (.far c k) s.ctlDie (4 * 2 ^ 44 + STEP_ENGINE) 4 = (v, n + 1)) :
    exec (.testKernelCall c k u) s = .next (v.busStop c k 5 (s.core c k).pcn (0x40000000 + STEP_ENGINE)) := by
  show Host.Outcome.next (s.testKernel c k u) = _
  simp only [State.testKernel, hi, hk, Bool.not_true, Bool.or_self, Bool.false_eq_true, if_false, ha]

theorem exec_call_tail {v : State} {u : Option Nat} (hi : s.canIssue c .tail = true) (hk : s.atKernel c .tail = true)
    (ha : s.cellAsks c (.far c .tail) s.ctlDie (4 * 2 ^ 44 + STEP_ENGINE) 4 = (v, 0)) (hs : inSlot s c .tail)
    (hcheck : v.spmCheckRun c ((s.core c .tail).xr 10 / 4096 * 4096) 4096 6 false = none) :
    exec (.testKernelCall c .tail u) s = .next (match u with
      | none => ((v.kernelScratch c .tail ((s.core c .tail).xr 10 / 4096 * 4096)).selfPass c).kernelReturn c .tail
      | some _ => ((v.kernelScratch c .tail ((s.core c .tail).xr 10 / 4096 * 4096)).selfFail c 1).stopCore c .tail
          (if (v.kernelScratch c .tail ((s.core c .tail).xr 10 / 4096 * 4096)).haltable c then 2 else 3)) := by
  show Host.Outcome.next (s.testKernel c .tail u) = _
  have hport : corePort .tail = 6 := rfl
  simp only [State.testKernel, hi, hk, Bool.not_true, Bool.or_self, Bool.false_eq_true, if_false, ha, hport]
  rw [if_neg fun hn => hn hs, hcheck] <;> cases u <;> rfl

/-- Whether a cell's job can be halted depends on registers, panels, jobs and the halts under way. -/
theorem haltable_congr {s t : State} (hregs : t.regs = s.regs) (hpart : t.part = s.part) (hpanels : t.panels = s.panels) (hjobs : t.jobs = s.jobs)
    (herr : t.err = s.err) (c : Nat) : t.haltable c = s.haltable c := by
  have hreg := reg_of_regs hpart hregs
  have hlog : t.logicalOf c = s.logicalOf c := by
    simp only [State.logicalOf, State.canvasValid, State.dieState, State.skipA, State.skipB, State.canvasDc, State.canvasDr, State.fld, hreg, hpart]
    rfl
  have hat : ∀ x y, t.panelAt x y = s.panelAt x y := fun x y => by simp only [State.panelAt, State.covering, hpanels]
  have hjob : t.jobOf c = s.jobOf c := by simp only [State.jobOf, State.panelOf, hlog, hat]
  simp only [State.haltable, hjob, JobStates.job_of_jobs hjobs, herr]

theorem recQ_queueTest (s : State) (c unit sn word : Nat) : (s.queueTest c unit sn word).err = s.err := by
  unfold State.queueTest
  dsimp only
  split_ifs <;> rfl

theorem cells_selfPass (s : State) (c : Nat) : (s.selfPass c).cells = s.cells := by rw [State.selfPass, setReg_cells, setReg_cells]

theorem mem_selfPass (s : State) (c : Nat) : (s.selfPass c).mem = s.mem := by rw [State.selfPass, setReg_mem, setReg_mem]

theorem logs_selfFail {s t : State} (h : t.err = s.err) (c : Nat) : s.logs (t.selfFail c 1) 0x2D (.cell c 0) 1 :=
  logs_raiseAt (by rw [recQ_queueTest, h]) ..

/-- Registers of a passed test. -/
theorem selfPass_regs (s : State) (c : Nat) : (s.selfPass c).reg (cellKey c ERR_RT_STEP) = s.reg (ecKey STEP_ENGINE) ∧
    (s.selfPass c).fld (cellKey c ERR_RT_TIME) 0 64 = s.facility % 2 ^ 64 ∧
    s.regsBut (s.selfPass c) [cellKey c ERR_RT_STEP, cellKey c ERR_RT_TIME] := by
  have hne : cellKey c ERR_RT_STEP ≠ cellKey c ERR_RT_TIME := fun h => by
    simp only [cellKey, ERR_RT_STEP, ERR_RT_TIME] at h
    omega
  refine ⟨?_, ?_, fun j hj => ?_⟩
  · rw [State.selfPass, reg_setReg, if_neg hne, reg_setReg, if_pos rfl]
  · rw [State.fld, State.selfPass, reg_setReg, if_pos rfl, BitVec.toNat_ofNat, bits]
    simp
  · rw [List.mem_cons, List.mem_singleton, not_or] at hj
    rw [State.selfPass, reg_setReg, if_neg hj.2, reg_setReg, if_neg hj.1]

end

/-- Settles O21: the test kernel returns outside its slot, records a pass, and reports a failed unit. -/
theorem testKernelReturnsOrReports : Obligations.TestKernelReturnsOrReports := by
  refine ⟨?_, ?_, ?_, ?_⟩
  · intro s v c k u hi hk ha hs
    obtain ⟨hcells, hmem, -⟩ := asked_keeps ha
    obtain ⟨z, hz, hx, hcsr, hv⟩ := core_kernelReturn v c k
    obtain ⟨hmem', hregs, herr, -, hothers⟩ := kernelReturn_keeps v c k
    have hcore := core_of_cells hcells
    refine ⟨_, exec_call_outside hi hk ha hs, ?_, fun r _ hr => ?_, ?_, ?_, hmem'.trans hmem, hregs, herr, fun d q h => (hothers d q h).trans (hcore d q)⟩
    · rw [hz, hcore]
      exact (BitVec.toNat_ofNat ..).trans (Nat.mod_eq_of_lt (by have := IntegerInstructions.xr_lt (s.core c k) 1; omega))
    · rw [hz, ← hcore, ← hx r hr]
      rfl
    · rw [hz, ← hcore, ← hcsr]
      rfl
    · rw [hz, ← hcore, ← hv]
      rfl
  · intro s v c hi hk ha hs hcheck
    obtain ⟨hcells, hmem, hfac⟩ := asked_keeps ha
    have hcore := core_of_cells hcells
    obtain ⟨hregs, herr, hpart, -, -, htime, hslot, hx, hbytes⟩ :=
      scratch_keeps (s := v) (c := c) (k := .tail) (off := (s.core c .tail).xr 10 / 4096 * 4096) (by omega)
    obtain ⟨hstep, hat, hbut⟩ := selfPass_regs (v.kernelScratch c .tail ((s.core c .tail).xr 10 / 4096 * 4096)) c
    obtain ⟨z, hz, -⟩ := core_kernelReturn ((v.kernelScratch c .tail ((s.core c .tail).xr 10 / 4096 * 4096)).selfPass c) c .tail
    obtain ⟨hmem', hregs', herr', hpart', -⟩ := kernelReturn_keeps ((v.kernelScratch c .tail ((s.core c .tail).xr 10 / 4096 * 4096)).selfPass c) c .tail
    have hreg := reg_of_regs hpart' hregs'
    refine ⟨_, exec_call_tail hi hk ha hs hcheck, ?_, ?_, ?_, fun j hj => ?_, fun q hq => ?_, ?_⟩
    · dsimp only
      rw [hz, core_of_cells (t := (v.kernelScratch c .tail ((s.core c .tail).xr 10 / 4096 * 4096)).selfPass c) (cells_selfPass ..), hx 1, hcore]
      exact (BitVec.toNat_ofNat ..).trans (Nat.mod_eq_of_lt (by have := IntegerInstructions.xr_lt (s.core c .tail) 1; omega))
    · dsimp only
      rw [hreg, hstep, reg_of_regs hpart hregs]
    · dsimp only
      rw [State.fld, hreg, ← State.fld, hat, State.facility, State.now, htime, hslot, ← hfac]
      rfl
    · dsimp only
      rw [hreg, hbut j hj, reg_of_regs hpart hregs]
    · dsimp only
      rw [byte_of_mem hmem' q, byte_of_mem (mem_selfPass ..) q, hbytes q hq, byte_of_mem hmem q]
    · dsimp only
      rw [herr', State.selfPass, setReg_err, setReg_err, herr]
  · intro s v c u hi hk ha hs hcheck
    obtain ⟨hregs, herr, hpart, hjobs, hpanels, -⟩ :=
      scratch_keeps (s := v) (c := c) (k := .tail) (off := (s.core c .tail).xr 10 / 4096 * 4096) (by omega)
    refine ⟨_, exec_call_tail hi hk ha hs hcheck, ?_, logs_of_err (logs_selfFail herr c) ?_⟩
    · dsimp only
      rw [core_stopCore, stopped_st, haltable_congr hregs hpart hpanels hjobs herr]
    · dsimp only
      rw [stopCore_err]
  · intro s v c n k u hi hk ha
    obtain ⟨hcells, hmem, -⟩ := asked_keeps ha
    have hcore := core_of_cells hcells
    refine ⟨_, exec_call_cut hi hk ha, ?_, ?_, ?_, (busStop_mem ..).trans hmem, busStop_err .., coresBut_busStop (fun d q _ => hcore d q) _ _ _⟩
    · rw [core_busStop, stopped_st]
    · rw [cause_busStop]; rfl
    · rw [core_busStop, stopped_x, hcore]

end Sys2Proof.TestKernel
end

section
/-! PROOFS. Sync counters take signals and the SYNC block sends them (R216-R218, R223, R226). -/

namespace Sys2Proof.SyncCounters

open Sys2Proof Sys2Proof.Machine Sys2Proof.Laws Sys2Proof.Clauses Sys2Proof.CoreSteps
open Sys2Proof.DescriptorQueue (cellsBut_of_cells cell_of_cells)

theorem cellKey_ne {c a b : Nat} (h : a ≠ b) : cellKey c a ≠ cellKey c b := fun e => h (by simp only [cellKey] at e; omega)

theorem ctrKey_ne {c n o : Nat} (hn : n < 48) (ho : o < SYNC_CTR ∨ SYNC_CTR + 192 ≤ o) : ctrKey c n ≠ cellKey c o := cellKey_ne (by omega)

/-- The record that `raise` adds. -/
theorem raise_record (t : State) (cls : Nat) (loc : Loc) (d : Nat) (struck : Option Nat) :
    ∃ e, (t.raise cls loc d struck).err.recQ = t.err.recQ ++ [e] ∧ e.cls = cls ∧ e.loc = loc ∧ e.struck = struck := ⟨_, rfl, rfl, rfl, rfl⟩

section
variable (s : State) (c : Nat)

/-! ### Upsets of the block's own state (R223) -/

/-- What an access leaves where the block's state met an error. -/
theorem routerEcc_keeps (e : Nat) : (s.routerEcc c e).cells = s.cells ∧ (s.routerEcc c e).part = s.part ∧
    s.regsBut (s.routerEcc c e) (if e = 1 ∨ e = 2 then [cellKey c RTR_ERR_LAST] else []) ∧
    (e = 1 → s.logs (s.routerEcc c e) 0x3B (.cell c 0) 0) ∧ (e = 2 → s.logs (s.routerEcc c e) 0x3A (.cell c 0) 0) ∧
    (e ≠ 1 → e ≠ 2 → s.routerEcc c e = s) := by
  have hkept (cls : Nat) : s.regsBut ((s.rtrLast c cls 0 0).raise cls (.cell c 0) 0 none) [cellKey c RTR_ERR_LAST] :=
    regsBut_of_regs (regsBut_setReg (fun _ _ => rfl) (List.mem_singleton_self _) _) (raise_part ..) (raise_regs ..)
  have hlogs (cls : Nat) : s.logs ((s.rtrLast c cls 0 0).raise cls (.cell c 0) 0 none) cls (.cell c 0) 0 :=
    logs_raise (by rw [State.rtrLast, setReg_err]) ..
  unfold State.routerEcc
  by_cases h1 : e = 1
  · subst h1
    rw [if_pos rfl, if_pos (Or.inl rfl)]
    refine ⟨?_, raise_part .., hkept 0x3B, fun _ => hlogs 0x3B, fun h => absurd h (by decide), fun h => absurd rfl h⟩
    rw [raise_cells, State.rtrLast, setReg_cells]
  · by_cases h2 : e = 2
    · subst h2
      rw [if_neg h1, if_pos rfl, if_pos (Or.inr rfl)]
      refine ⟨?_, raise_part .., hkept 0x3A, fun h => absurd h (by decide), fun _ => hlogs 0x3A, fun _ h => absurd rfl h⟩
      rw [raise_cells, State.rtrLast, setReg_cells]
    · rw [if_neg h1, if_neg h2, if_neg (by omega)]
      exact ⟨rfl, rfl, regsBut_refl s _, fun h => absurd h h1, fun h => absurd h h2, fun _ _ => rfl⟩

/-- Records of the state's error stay where a register of the block is written after it. -/
theorem routerEcc_then {t : State} {e k : Nat} (hr : ∀ j, j ≠ k → t.reg j = (s.routerEcc c e).reg j) (hc : t.cells = (s.routerEcc c e).cells)
    (he : t.err = (s.routerEcc c e).err) : s.regsBut t (if e = 1 ∨ e = 2 then [k, cellKey c RTR_ERR_LAST] else [k]) ∧ t.cells = s.cells ∧
    (e = 1 → s.logs t 0x3B (.cell c 0) 0) ∧ (e = 2 → s.logs t 0x3A (.cell c 0) 0) ∧ (e ≠ 1 → e ≠ 2 → t.err = s.err) := by
  obtain ⟨hcells, -, hregs, h1, h2, h0⟩ := routerEcc_keeps s c e
  refine ⟨fun j hj => ?_, hc.trans hcells, fun h => logs_of_err (h1 h) (by rw [he]), fun h => logs_of_err (h2 h) (by rw [he]),
    fun hn1 hn2 => by rw [he, h0 hn1 hn2]⟩
  split_ifs at hj hregs
  · rw [List.mem_cons, not_or] at hj
    rw [hr j hj.1, hregs j hj.2]
  · rw [hr j (by simpa using hj), hregs j (by simp)]

/-! ### Arming and adding -/

theorem armed (n e : Nat) (v : Word) : ((s.routerEcc c e).armCounter c n v).count c n = bits v.toNat 0 20 ∧
    ((s.routerEcc c e).armCounter c n v).epoch c n = bits v.toNat 20 2 := by
  have hreg : ((s.routerEcc c e).armCounter c n v).reg (ctrKey c n) = BitVec.ofNat 64 (bits v.toNat 0 22) := by
    rw [State.armCounter, reg_setReg, if_pos rfl]
  have hv : (BitVec.ofNat 64 (bits v.toNat 0 22)).toNat = bits v.toNat 0 22 := by
    rw [BitVec.toNat_ofNat]
    exact Nat.mod_eq_of_lt ((Nat.mod_lt _ (by decide)).trans (by decide))
  refine ⟨?_, ?_⟩
  · rw [State.count, State.fld, hreg, hv]
    simp only [bits]
    omega
  · rw [State.epoch, State.fld, hreg, hv]
    simp only [bits]
    omega

/-! ### Signals as their cycle ends -/

/-- A list of one counter's signals names that counter once. -/
theorem eraseDups_same {l : List Nat} {n : Nat} (hne : l ≠ []) (h : ∀ x ∈ l, x = n) : l.eraseDups = [n] := by
  cases l with
  | nil => exact absurd rfl hne
  | cons a l =>
    have ha : a = n := h a List.mem_cons_self
    have hf : l.filter (fun b => !b == a) = [] := List.filter_eq_nil_iff.2 fun b hb => by simp [h b (List.mem_cons_of_mem _ hb), ha]
    rw [List.eraseDups_cons, hf, ha]
    rfl

end

section
variable {s : State} {c n : Nat}

theorem count_of_reg {t : State} (h : t.reg (ctrKey c n) = s.reg (ctrKey c n)) : t.count c n = s.count c n ∧ t.epoch c n = s.epoch c n := by
  rw [State.count, State.epoch, State.fld, State.fld, h]
  exact ⟨rfl, rfl⟩

/-- The state in which the signals of a cell have been taken. -/
def unsignalled (s : State) (c : Nat) : State :=
  s.setCell c { s.cell c with sigs := (s.cell c).sigs.filter fun g => decide ((s.cell c).rcyc < g.1) }

/-- The signals of one counter that arrived, all of its epoch, are added together. -/
theorem syncCycle_good (hne : (s.cell c).sigs ≠ [])
    (h : ∀ p ∈ (s.cell c).sigs, p.1 ≤ (s.cell c).rcyc ∧ p.2.ctr = n ∧ p.2.epoch = s.epoch c n) :
    s.syncCycle c = (unsignalled s c).addSignals c n ((s.cell c).sigs.map fun p => p.2.inc).sum := by
  have hnow : (s.cell c).sigs.filter (fun g => decide (g.1 ≤ (s.cell c).rcyc)) = (s.cell c).sigs :=
    List.filter_eq_self.2 fun p hp => decide_eq_true (h p hp).1
  have hctr : ((((s.cell c).sigs.map fun g => g.2).map fun g => g.ctr)).eraseDups = [n] :=
    eraseDups_same (by simpa using hne) fun x hx => by
      simp only [List.map_map, List.mem_map, Function.comp_apply] at hx
      obtain ⟨p, hp, rfl⟩ := hx
      exact (h p hp).2.1
  have hall : ∀ g ∈ (s.cell c).sigs.map (fun g => g.2), g.ctr = n ∧ g.epoch = s.epoch c n := fun g hg => by
    obtain ⟨p, hp, rfl⟩ := List.mem_map.1 hg
    exact (h p hp).2
  have hmine : ((s.cell c).sigs.map fun g => g.2).filter (fun g => g.ctr == n) = (s.cell c).sigs.map fun g => g.2 :=
    List.filter_eq_self.2 fun g hg => by simp [(hall g hg).1]
  have hgood : ((s.cell c).sigs.map fun g => g.2).filter (fun g => g.epoch == s.epoch c n) = (s.cell c).sigs.map fun g => g.2 :=
    List.filter_eq_self.2 fun g hg => by simp [(hall g hg).2]
  have hstale : ((s.cell c).sigs.map fun g => g.2).filter (fun g => g.epoch != s.epoch c n) = [] :=
    List.filter_eq_nil_iff.2 fun g hg => by simp [(hall g hg).2]
  have hepoch : ∀ x : Cell, (s.setCell c x).epoch c n = s.epoch c n := fun x => rfl
  have hisNil : (s.cell c).sigs.isEmpty = false := by simpa using hne
  have hmapNil : ((s.cell c).sigs.map fun g => g.2).isEmpty = false := by simpa using hne
  simp only [State.syncCycle, hisNil, Bool.false_eq_true, if_false, hnow, hctr, List.foldl_cons, List.foldl_nil, State.judgeCtr, hmine, hepoch, hgood,
    hstale, hmapNil]
  rw [List.map_map]
  rfl

theorem unsignalled_sigs (h : ∀ p ∈ (s.cell c).sigs, p.1 ≤ (s.cell c).rcyc) : ((unsignalled s c).cell c).sigs = [] := by
  rw [unsignalled, cell_setCell, if_pos rfl]
  exact List.filter_eq_nil_iff.2 fun p hp => by simpa using h p hp

theorem cells_addSignals (t : State) (sum : Nat) : (t.addSignals c n sum).cells = t.cells := by
  unfold State.addSignals State.setSat State.setW1c
  split_ifs <;> simp

theorem addSignals_within {t : State} {sum : Nat} (h : t.count c n + sum ≤ 0xFFFFF) :
    (t.addSignals c n sum).count c n = t.count c n + sum ∧ (t.addSignals c n sum).epoch c n = t.epoch c n ∧
      t.regsBut (t.addSignals c n sum) [ctrKey c n] ∧ (t.addSignals c n sum).err = t.err := by
  rw [State.addSignals, if_pos h]
  refine ⟨?_, fld_setFld_apart _ _ (by decide) (Or.inr (by decide)), regsBut_setFld (regsBut_refl t _) (List.mem_singleton_self _) _ _ _, setFld_err ..⟩
  exact (fld_setFld_same _ _ (by decide)).trans (Nat.mod_eq_of_lt (by omega))

theorem setSat_eq {t : State} (hn : n < 48) : t.setSat c n = t.setW1c (cellKey c (if n < 32 then SYNC_SAT_LO else SYNC_SAT_HI)) (n % 32) := by
  unfold State.setSat
  by_cases hlo : n < 32
  · rw [if_pos hlo, if_pos hlo, Nat.mod_eq_of_lt hlo]
  · rw [if_neg hlo, if_neg hlo, show n - 32 = n % 32 by omega]

theorem fld_setW1c_other (t : State) {j k b : Nat} (h : j ≠ k) (lo w : Nat) : (t.setW1c k b).fld j lo w = t.fld j lo w :=
  fld_setFld_other _ _ _ _ _ _ h

theorem regsBut_setW1c {s t : State} {ks : List Nat} {k : Nat} (h : s.regsBut t ks) (hk : k ∈ ks) (b : Nat) : s.regsBut (t.setW1c k b) ks :=
  regsBut_setFld (fun j hj => h j hj) hk _ _ _

theorem err_setW1c (t : State) (k b : Nat) : (t.setW1c k b).err = t.err := by rw [State.setW1c, setFld_err]

theorem addSignals_saturates {t : State} (hn : n < 48) {sum : Nat} (h : 0xFFFFF < t.count c n + sum) :
    (t.addSignals c n sum).count c n = 0xFFFFF ∧ (t.addSignals c n sum).epoch c n = t.epoch c n ∧
      (t.addSignals c n sum).fld (cellKey c (if n < 32 then SYNC_SAT_LO else SYNC_SAT_HI)) (n % 32) 1 = 1 ∧
      t.regsBut (t.addSignals c n sum) [ctrKey c n, cellKey c (if n < 32 then SYNC_SAT_LO else SYNC_SAT_HI)] ∧
      t.logs (t.addSignals c n sum) 0x38 (.cell c 0) 0 := by
  have hne : ctrKey c n ≠ cellKey c (if n < 32 then SYNC_SAT_LO else SYNC_SAT_HI) := ctrKey_ne hn (Or.inr (by split <;> decide))
  have hcount : (t.setFld (ctrKey c n) 0 20 0xFFFFF).count c n = 0xFFFFF := fld_setFld_same _ _ (by decide)
  have hepoch : (t.setFld (ctrKey c n) 0 20 0xFFFFF).epoch c n = t.epoch c n := fld_setFld_apart _ _ (by decide) (Or.inr (by decide))
  have hregs : t.regsBut (t.setFld (ctrKey c n) 0 20 0xFFFFF) [ctrKey c n, cellKey c (if n < 32 then SYNC_SAT_LO else SYNC_SAT_HI)] :=
    regsBut_setFld (regsBut_refl t _) List.mem_cons_self _ _ _
  have herr : (t.setFld (ctrKey c n) 0 20 0xFFFFF).err = t.err := setFld_err ..
  rw [State.addSignals, if_neg (Nat.not_le.2 h)]
  generalize t.setFld (ctrKey c n) 0 20 0xFFFFF = u at *
  rw [setSat_eq hn]
  refine ⟨?_, ?_, ?_, ?_, logs_raiseAt ?_ ..⟩
  · rw [State.count, raiseAt_fld, fld_setW1c_other _ hne]
    exact hcount
  · rw [State.epoch, raiseAt_fld, fld_setW1c_other _ hne]
    exact hepoch
  · rw [raiseAt_fld]
    exact fld_setFld_same _ _ (by omega)
  · refine regsBut_of_regs (regsBut_setW1c hregs (List.mem_cons_of_mem _ (List.mem_singleton_self _)) _) (raiseAt_part ..) (raiseAt_regs ..)
  · rw [err_setW1c, herr]

/-! ### A stale signal -/

/-- A lone signal of another epoch is counted and recorded. -/
theorem syncCycle_stale {m : Nat} {g : Signal} (hs : (s.cell c).sigs = [(m, g)]) (hm : m ≤ (s.cell c).rcyc) (he : g.epoch ≠ s.epoch c g.ctr) :
    s.syncCycle c = (unsignalled s c).staleSignal c g := by
  have hepoch : ∀ x : Cell, (s.setCell c x).epoch c g.ctr = s.epoch c g.ctr := fun x => rfl
  have hnot : (g.epoch == s.epoch c g.ctr) = false := beq_eq_false_iff_ne.2 he
  have hdups : [g.ctr].eraseDups = [g.ctr] := eraseDups_same (List.cons_ne_nil _ _) fun x hx => List.mem_singleton.1 hx
  simp only [State.syncCycle, hs, List.isEmpty_cons, Bool.false_eq_true, if_false, List.filter_cons, decide_eq_true hm, if_true, List.filter_nil,
    List.map_cons, List.map_nil, hdups, List.foldl_cons, List.foldl_nil, State.judgeCtr, beq_self_eq_true, hepoch, hnot, bne, Bool.not_false,
    List.isEmpty_nil, unsignalled]

theorem staleSignal_keeps {t : State} {g : Signal} (hg : g.ctr < 48) (hw : t.written (cellKey c SYNC_STALE_CNT) = false) :
    (t.staleSignal c g).count c g.ctr = t.count c g.ctr ∧
      (t.staleSignal c g).fld (cellKey c SYNC_STALE_CNT) 0 16 = min (t.fld (cellKey c SYNC_STALE_CNT) 0 16 + 1) 0xFFFF ∧
      t.regsBut (t.staleSignal c g) [cellKey c SYNC_STALE_CNT, cellKey c SYNC_STALE_LAST] := by
  have hreg : ∀ j, j ≠ cellKey c SYNC_STALE_LAST → (t.staleSignal c g).reg j = (t.incSat (cellKey c SYNC_STALE_CNT) 0 16 1).reg j := fun j hj => by
    rw [State.staleSignal, raiseLim_reg, reg_setReg, if_neg hj, State.incSatUn, hw]
    rfl
  refine ⟨?_, ?_, fun j hj => ?_⟩
  · refine (count_of_reg ((hreg _ (ctrKey_ne hg (Or.inr (by decide)))).trans ?_)).1
    exact reg_incSat_other _ _ _ _ (ctrKey_ne hg (Or.inr (by decide)))
  · rw [State.fld, hreg _ (cellKey_ne (by decide))]
    exact fld_incSat_same _ _ (by decide)
  · rw [List.mem_cons, List.mem_singleton, not_or] at hj
    rw [hreg j hj.2]
    exact reg_incSat_other _ _ _ _ hj.1

/-- A signal that has not arrived yet stays. -/
theorem syncCycle_early {m : Nat} {g : Signal} (hs : (s.cell c).sigs = [(m, g)]) (hm : (s.cell c).rcyc < m) :
    s.syncCycle c = s.setCell c (s.cell c) := by
  have hnot : decide (m ≤ (s.cell c).rcyc) = false := decide_eq_false (Nat.not_le.2 hm)
  have hnil : ([] : List Nat).eraseDups = [] := rfl
  simp only [State.syncCycle, hs, List.isEmpty_cons, Bool.false_eq_true, if_false, List.filter_cons, hnot, decide_eq_true hm, if_true, List.filter_nil,
    List.map_nil, hnil, List.foldl_nil]
  rw [← hs]

/-! ### SYNC_SIG -/

/-- The packet of a signal (R216). -/
def signalPkt (s : State) (c n : Nat) : Pkt :=
  { Pkt.blank (if bit n 31 then 7 else 5) (.far c .head) (.router c 0) with
    x := bits n 16 8, y := bits n 24 7, x1 := if bit n 31 then s.fld (cellKey c SYNC_MC_SE) 0 8 else 0,
    y1 := if bit n 31 then s.fld (cellKey c SYNC_MC_SE) 8 7 else 0, ctr := bits n 0 6, epoch := bits n 6 2, inc := max 1 (bits n 8 8) }

theorem sigBad_single {n : Nat} (hn : bits n 0 6 < 48) (hv : s.canvasValid = true) (h31 : bit n 31 = false) (hx : bits n 16 8 < s.canvasW)
    (hy : bits n 24 7 < s.canvasH) : s.sigBad c n = false := by
  have h48 : Nat.ble 48 (bits n 0 6) = false := Bool.eq_false_iff.2 fun h => Nat.not_le.2 hn (Nat.le_of_ble_eq_true h)
  have hw : Nat.ble s.canvasW (bits n 16 8) = false := Bool.eq_false_iff.2 fun h => Nat.not_le.2 hx (Nat.le_of_ble_eq_true h)
  have hh : Nat.ble s.canvasH (bits n 24 7) = false := Bool.eq_false_iff.2 fun h => Nat.not_le.2 hy (Nat.le_of_ble_eq_true h)
  simp only [State.sigBad, h48, hv, h31, hw, hh, Bool.not_true, Bool.or_self, Bool.false_eq_true, if_false]

theorem sigBad_multicast {n : Nat} (hn : bits n 0 6 < 48) (hv : s.canvasValid = true) (h31 : bit n 31 = true)
    (hx : bits n 16 8 ≤ s.fld (cellKey c SYNC_MC_SE) 0 8) (hx1 : s.fld (cellKey c SYNC_MC_SE) 0 8 < s.canvasW)
    (hy : bits n 24 7 ≤ s.fld (cellKey c SYNC_MC_SE) 8 7) (hy1 : s.fld (cellKey c SYNC_MC_SE) 8 7 < s.canvasH) : s.sigBad c n = false := by
  have h48 : Nat.ble 48 (bits n 0 6) = false := Bool.eq_false_iff.2 fun h => Nat.not_le.2 hn (Nat.le_of_ble_eq_true h)
  have hw : Nat.ble s.canvasW (s.fld (cellKey c SYNC_MC_SE) 0 8) = false := Bool.eq_false_iff.2 fun h => Nat.not_le.2 hx1 (Nat.le_of_ble_eq_true h)
  have hh : Nat.ble s.canvasH (s.fld (cellKey c SYNC_MC_SE) 8 7) = false := Bool.eq_false_iff.2 fun h => Nat.not_le.2 hy1 (Nat.le_of_ble_eq_true h)
  have hbx : Nat.blt (s.fld (cellKey c SYNC_MC_SE) 0 8) (bits n 16 8) = false := Bool.eq_false_iff.2 fun h => Nat.not_le.2 (Nat.le_of_ble_eq_true h) hx
  have hby : Nat.blt (s.fld (cellKey c SYNC_MC_SE) 8 7) (bits n 24 7) = false := Bool.eq_false_iff.2 fun h => Nat.not_le.2 (Nat.le_of_ble_eq_true h) hy
  simp only [State.sigBad, h48, hv, h31, hw, hh, hbx, hby, Bool.not_true, Bool.or_self, if_true]

theorem sigBad_counter {n : Nat} (hn : 48 ≤ bits n 0 6) : s.sigBad c n = true := by
  have h48 : Nat.ble 48 (bits n 0 6) = true := Nat.ble_eq_true_of_le hn
  simp only [State.sigBad, h48, Bool.true_or]

theorem exec_sigWrite {req : Req} {v : Word} (h : s.sigBad c v.toNat = false) : exec (.syncSigWrite c req v) s =
    .next { s.dropPend req (keyBlock (cellKey c SYNC_SIG)) with net := s.net ++ [signalPkt s c v.toNat] } := by
  have h' : (s.dropPend req (keyBlock (cellKey c SYNC_SIG))).sigBad c v.toNat = false := h
  show Host.Outcome.next (State.sigWrite _ c req v).1 = _
  simp only [State.sigWrite, h', Bool.false_eq_true, if_false]
  rfl

theorem exec_sigWrite_refused {d : Nat} {k : CoreSel} {v : Word} (h : s.sigBad c v.toNat = true) : exec (.syncSigWrite c (.core d k) v) s =
    .next (((s.dropPend (.core d k) (keyBlock (cellKey c SYNC_SIG))).rtrLast c 0x34 0 0).raise 0x34 (.cell c 0) 0 (some d)) := by
  have h' : (s.dropPend (.core d k) (keyBlock (cellKey c SYNC_SIG))).sigBad c v.toNat = true := h
  show Host.Outcome.next (State.sigWrite _ c (.core d k) v).1 = _
  simp only [State.sigWrite, h', if_true]
  rfl

end

/-- Settles O22: counters arm, take the signals of their epoch, and signals leave through the SYNC block. -/
theorem countersTakeAndSendSignals : Obligations.CountersTakeAndSendSignals := by
  refine ⟨⟨?_, ?_, ?_, ?_, ?_, ?_⟩, ?_, ?_, ?_⟩
  · intro s c n e v _
    obtain ⟨hcount, hepoch⟩ := armed s c n e v
    obtain ⟨hregs, hcells, hlogs⟩ := routerEcc_then s c (t := (s.routerEcc c e).armCounter c n v) (e := e) (k := ctrKey c n)
      (fun j hj => by rw [State.armCounter, reg_setReg, if_neg hj]) (by rw [State.armCounter, setReg_cells]) (by rw [State.armCounter, setReg_err])
    exact ⟨_, rfl, hcount, hepoch, hregs, hcells, hlogs⟩
  · intro s c late g
    refine ⟨?_, rfl, rfl, cellsBut_setCell (cellsBut_refl s c) _⟩
    rw [State.applySignal, cell_setCell, if_pos rfl]
  · intro s c n hn hne h
    have hcell : ((s.syncCycle c).cell c).sigs = [] := by
      rw [syncCycle_good hne h, cell_of_cells (cells_addSignals ..), unsignalled_sigs fun p hp => (h p hp).1]
    rw [syncCycle_good hne h] at hcell ⊢
    refine ⟨hcell, ?_, fun hle => ?_, fun hgt => ?_⟩
    · by_cases hle : (unsignalled s c).count c n + ((s.cell c).sigs.map fun p => p.2.inc).sum ≤ 0xFFFFF
      · exact (addSignals_within hle).2.1
      · exact (addSignals_saturates hn (Nat.not_le.1 hle)).2.1
    · obtain ⟨hcount, -, hregs, herr⟩ := addSignals_within (t := unsignalled s c) hle
      exact ⟨hcount, hregs, herr⟩
    · obtain ⟨hcount, -, hsat, hregs, hlogs⟩ := addSignals_saturates (t := unsignalled s c) hn hgt
      exact ⟨hcount, hsat, hregs, hlogs⟩
  · intro s c m g hs hm he hg hw
    rw [syncCycle_stale hs hm he]
    exact staleSignal_keeps (t := unsignalled s c) hg hw
  · intro s c m g hs hm
    rw [syncCycle_early hs hm]
    exact ⟨rfl, by rw [cell_setCell, if_pos rfl], rfl⟩
  · intro s c e v
    obtain ⟨hregs, hcells, hlogs⟩ := routerEcc_then s c (t := (s.routerEcc c e).incSat (cellKey c RTR_MC_LAND) 0 16 (bits v.toNat 0 16)) (e := e)
      (k := cellKey c RTR_MC_LAND) (fun j hj => reg_incSat_other _ _ _ _ hj) (incSat_cells ..) (incSat_err ..)
    refine ⟨_, rfl, ?_, hregs, hcells, hlogs⟩
    refine (fld_incSat_same _ _ (by decide)).trans ?_
    have hland : (s.routerEcc c e).fld (cellKey c RTR_MC_LAND) 0 16 = s.fld (cellKey c RTR_MC_LAND) 0 16 := by
      have hne : cellKey c RTR_MC_LAND ≠ cellKey c RTR_ERR_LAST := cellKey_ne (by decide)
      rw [State.fld, (routerEcc_keeps s c e).2.2.1 _ (by split <;> simp [hne]), State.fld]
    rw [hland]
    rfl
  · intro s c req v hn hv h31 hx hy
    have hbad : s.sigBad c v.toNat = false := sigBad_single hn hv h31 hx hy
    have h31' : bit v.toNat 31 = false := h31
    exact ⟨_, signalPkt s c v.toNat, exec_sigWrite hbad, rfl, by rw [signalPkt, h31']; rfl, rfl, rfl, rfl, rfl, rfl, rfl, rfl, rfl, rfl⟩
  · intro s c req v hn hv h31 hx hx1 hy hy1
    have hbad : s.sigBad c v.toNat = false := sigBad_multicast hn hv h31 hx hx1 hy hy1
    refine ⟨_, signalPkt s c v.toNat, exec_sigWrite hbad, rfl, ?_, rfl, rfl, ?_, ?_, rfl, rfl⟩ <;> rw [signalPkt, h31] <;> rfl
  · intro s c d k v hn
    have hbad : s.sigBad c v.toNat = true := sigBad_counter hn
    obtain ⟨e, hq, hcls, hloc, hstruck⟩ := raise_record ((s.dropPend (.core d k) (keyBlock (cellKey c SYNC_SIG))).rtrLast c 0x34 0 0) 0x34
      (.cell c 0) 0 (some d)
    refine ⟨_, e, exec_sigWrite_refused hbad, ?_, ?_, hcls, hloc, hstruck⟩
    · rw [raise_net]
      rfl
    · rw [hq, State.rtrLast, setReg_err]
      rfl

end Sys2Proof.SyncCounters
end

section
/-! PROOFS. Waits of the cores on sync counters (R219, R220, R222). -/

namespace Sys2Proof.SyncWaits

open Sys2Proof Sys2Proof.Machine Sys2Proof.Laws Sys2Proof.Clauses Sys2Proof.CoreSteps Sys2Proof.CoreMemory Sys2Proof.SyncCounters
open Sys2Proof.IntegerInstructions (xr_wx)
open Sys2Proof.CoreWindows (cells_dropPend)
open Sys2Proof.Machine.State (coreKey runWait)

section
variable {s : State} {c : Nat} {k : CoreSel}

/-! ### A wait starts -/

/-- The state after a wait started. -/
def waiting (s : State) (c : Nat) (k : CoreSel) (w : WaitSt) : State :=
  ((s.act c 3 1).dropPend (.core c k) (keyBlock (cellKey c SYNC_WAIT))).setCore c k { s.core c k with wait := some w }

theorem exec_wait {w len raw n : Nat} {m : SMem} (h : s.issues c k .wait w len raw) (hm : scalarMem (s.core c k) w = some m)
    (haddr : m.addr = 0x20000000 + SYNC_WAIT + 4 * n) :
    exec (.syncWait c k) s = .next (waiting s c k ⟨n, s.waitTarget c k, m.fp, m.r, (s.cell c).cyc, len⟩) := by
  have hn : (m.addr - 0x20000000 - SYNC_WAIT) / 4 = n := by omega
  have htarget : (s.act c 3 1).waitTarget c k = s.waitTarget c k := act_fld ..
  show Host.Outcome.next (s.issue c k .wait (runWait c k)) = _
  rw [issue_of_issues _ h, if_neg (by decide)]
  refine next_congr ?_
  simp only [runWait, act_core, act_cell, hm, hn, htarget, waiting]

theorem waiting_keeps (w : WaitSt) : (waiting s c k w).regs = s.regs ∧ (waiting s c k w).mem = s.mem ∧ (waiting s c k w).err = s.err ∧
    s.coresBut (waiting s c k w) c k := by
  refine ⟨?_, ?_, ?_, coresBut_setCore (fun d q _ => (core_of_cells (cells_dropPend (s.act c 3 1) _ _) d q).trans (act_core s c 3 1 d q)) _⟩
  · rw [waiting, setCore_regs]
    exact act_regs s c 3 1
  · rw [waiting, setCore_mem]
    exact act_mem s c 3 1
  · rw [waiting, setCore_err]
    exact act_err s c 3 1

/-! ### A wait ends -/

/-- The state after a wait whose test holds. -/
def satisfied (s : State) (c : Nat) (k : CoreSel) (x : WaitSt) : State :=
  (s.setCore c k { s.core c k with wait := none, pc := (s.core c k).pc + BitVec.ofNat 32 x.len }).setX c k false x.rd
    (BitVec.ofNat 32 (s.count c x.ctr + s.epoch c x.ctr * 2 ^ 20))

theorem exec_satisfied {x : WaitSt} (hx : (s.core c k).wait = some x) (ht : x.target ≤ s.count c x.ctr) (hr : s.runs c = true)
    (hl : (s.cell c).cyc ≤ s.waitLimit c x) (hfp : x.fp = false) : exec (.syncWaitSatisfied c k 0) s = .next (satisfied s c k x) := by
  have hmet : s.waitMet c x = true := Nat.ble_eq_true_of_le ht
  have hecc : s.routerEcc c 0 = s := (routerEcc_keeps s c 0).2.2.2.2.2 (by decide) (by decide)
  show Host.Outcome.next ((s.routerEcc c 0).waitSatisfied c k) = _
  rw [hecc]
  simp only [State.waitSatisfied, hx, hmet, hr, hl, and_self, if_true, hfp, satisfied]

theorem core_satisfied (x : WaitSt) : (satisfied s c k x).core c k =
    ({ s.core c k with wait := none, pc := (s.core c k).pc + BitVec.ofNat 32 x.len }).wx x.rd (s.count c x.ctr + s.epoch c x.ctr * 2 ^ 20) := by
  rw [satisfied, core_setX, core_setCore_same]

theorem wx_wait (x : CoreSt) (rd v : Nat) : (x.wx rd v).wait = x.wait := by
  unfold CoreSt.wx
  split <;> rfl

/-- What the register of a counter holds fits a word. -/
theorem counter_lt (n : Nat) : s.count c n + s.epoch c n * 2 ^ 20 < 2 ^ 32 := by
  have hc : s.count c n < 2 ^ 20 := fld_lt ..
  have he : s.epoch c n < 2 ^ 2 := fld_lt ..
  omega

/-! ### A wait expires -/

theorem exec_expire {x : WaitSt} (hx : (s.core c k).wait = some x) (hr : s.runs c = true)
    (hl : (s.count c x.ctr < x.target ∧ s.waitLimit c x ≤ (s.cell c).cyc) ∨ s.waitLimit c x < (s.cell c).cyc) :
    exec (.syncWaitWatchdog c k) s =
      .next ((s.raiseAt 0x37 c (s.waitDetail c k x)).stopCore c k (if s.haltable c then 2 else 3)) := by
  have hgo : ¬ ((!s.runs c) = true ∨ (s.cell c).cyc < s.waitLimit c x ∨ (s.waitMet c x = true ∧ (s.cell c).cyc = s.waitLimit c x)) := by
    rw [hr]
    rintro (h | h | ⟨hmet, heq⟩)
    · cases h
    · omega
    · have hle : x.target ≤ s.count c x.ctr := Nat.le_of_ble_eq_true hmet
      omega
  show Host.Outcome.next (s.waitExpire c k) = _
  simp only [State.waitExpire, hx, if_neg hgo]

end

/-- Settles O23: a wait starts, ends with its counter's value, or expires. -/
theorem waitsEndOrExpire : Obligations.WaitsEndOrExpire := by
  refine ⟨?_, ?_, ?_⟩
  · intro s c w len raw n k m h hm _ haddr
    obtain ⟨hregs, hmem, herr, hothers⟩ := waiting_keeps (s := s) (c := c) (k := k) ⟨n, s.waitTarget c k, m.fp, m.r, (s.cell c).cyc, len⟩
    refine ⟨_, ⟨n, s.waitTarget c k, m.fp, m.r, (s.cell c).cyc, len⟩, exec_wait h hm haddr, ?_, rfl, rfl, rfl, rfl, ?_, hregs, hmem, herr, hothers⟩
    · rw [waiting, core_setCore_same]
    · rw [waiting, core_setCore_same]
  · intro s c k x hx ht hr hl hfp hrd hlen
    obtain ⟨hmem, hregs, herr⟩ := setX_keeps (c := c) (k := k)
      (s.setCore c k { s.core c k with wait := none, pc := (s.core c k).pc + BitVec.ofNat 32 x.len }) false x.rd
      (BitVec.ofNat 32 (s.count c x.ctr + s.epoch c x.ctr * 2 ^ 20))
    refine ⟨_, exec_satisfied hx ht hr hl hfp, ?_, fun r hr32 => ?_, ?_, hregs.trans (setCore_regs ..), hmem.trans (setCore_mem ..),
      herr.trans (setCore_err ..), coresBut_setX (coresBut_setCore (coresBut_refl s c k) _) _ _ _⟩
    · rw [core_satisfied, wx_wait]
    · rw [core_satisfied, xr_wx _ (by exact hlen) hr32, Nat.mod_eq_of_lt (counter_lt ..)]
      rfl
    · rw [core_satisfied, (wx_mb ..).2]
  · intro s c k x hx hr hctr hl
    have hreg : ∀ j, j ≠ coreKey c k HEAD_CTRL →
        ((s.raiseAt 0x37 c (s.waitDetail c k x)).stopCore c k (if s.haltable c then 2 else 3)).reg j = s.reg j := fun j hj => by
      rw [reg_stopCore_other _ _ _ _ hj, raiseAt_reg]
    have hne : ctrKey c x.ctr ≠ coreKey c k HEAD_CTRL := by
      cases k <;> exact cellKey_ne (by simp only [SYNC_CTR, HEAD_CTRL]; omega)
    refine ⟨_, exec_expire hx hr hl, ?_, ?_, (count_of_reg (hreg _ hne)).1, fun j hj => hreg j (by simpa using hj), ?_,
      coresBut_stopCore (coresBut_of_cells (coresBut_refl s c k) (raiseAt_cells ..)) _⟩
    · rw [core_stopCore]
      rfl
    · rw [core_stopCore, stopped_st]
    · exact logs_of_err (logs_raiseAt rfl _ _ _) (congrArg _ (stopCore_err ..))

end Sys2Proof.SyncWaits
end

section
/-! PROOFS. What the mesh's shared steps do: the ends of links, the packets in the mesh, records of a router (R186, R193, R201). -/

namespace Sys2Proof.MeshLinks

open Sys2Proof Sys2Proof.Machine Sys2Proof.Laws Sys2Proof.Clauses
open Sys2Proof.DescriptorQueue (cellsBut_of_cells cell_of_cells)
open Sys2Proof.RegisterAccess (reg_answer)
open Sys2Proof.SyncCounters (raise_record)
open Sys2Proof.Machine.State (ringLink linkTakes seqsFrom)

section
variable (s : State) (c l : Nat)

/-! ### Ends of links -/

theorem link_setLink (x : LinkSt) (e m : Nat) : (s.setLink c l x).link e m = if e = c ∧ m = l then x else s.link e m := by
  unfold State.link State.setLink
  rw [cell_setCell]
  by_cases he : e = c
  · by_cases hm : m = l
    · simp [he, hm]
    · simp [he, hm, get_put_other _ _ _ hm]
  · simp [he]

theorem link_setLink_same (x : LinkSt) : (s.setLink c l x).link c l = x := by rw [link_setLink, if_pos ⟨rfl, rfl⟩]

theorem link_setLink_other (x : LinkSt) {m : Nat} (h : m ≠ l) : (s.setLink c l x).link c m = s.link c m := by
  rw [link_setLink, if_neg fun hn => h hn.2]

theorem link_of_cells {s t : State} (h : t.cells = s.cells) (e m : Nat) : t.link e m = s.link e m := by
  unfold State.link
  rw [cell_of_cells h]

theorem cellsBut_setLink {s t : State} {c : Nat} (h : s.cellsBut t c) (l : Nat) (x : LinkSt) : s.cellsBut (t.setLink c l x) c := cellsBut_setCell h _

@[simp] theorem setLink_regs (x : LinkSt) : (s.setLink c l x).regs = s.regs := rfl
@[simp] theorem setLink_part (x : LinkSt) : (s.setLink c l x).part = s.part := rfl
@[simp] theorem setLink_net (x : LinkSt) : (s.setLink c l x).net = s.net := rfl
@[simp] theorem setLink_err (x : LinkSt) : (s.setLink c l x).err = s.err := rfl

/-- The far ends of the east link of a cell that is not the last of its die's row. -/
theorem linkFar_east (h : cellPx c < 47) : s.linkFar c 0 = .cell (c + 1) := by
  simp only [State.linkFar, if_pos h, if_true]

theorem reverseOf_east (h : cellPx c < 47) : s.reverseOf c 0 = some (c + 1, 1) := by
  simp only [State.reverseOf, linkFar_east s c h]
  rfl

/-! ### The packets in the mesh -/

/-- A packet that is put where it stands. -/
theorem net_set_self {s : State} {i : Nat} {p : Pkt} (h : s.net[i]? = some p) : ({ s with net := s.net.set i p } : State) = s := by
  obtain ⟨hi, rfl⟩ := List.getElem?_eq_some_iff.1 h
  rw [List.set_getElem_self hi]

/-! ### Records of a router -/

theorem rtrLast_keeps (cls tag : Nat) : (s.rtrLast c cls l tag).cells = s.cells ∧ (s.rtrLast c cls l tag).err = s.err ∧
    (s.rtrLast c cls l tag).net = s.net ∧ s.regsBut (s.rtrLast c cls l tag) [cellKey c RTR_ERR_LAST] :=
  ⟨setReg_cells .., setReg_err .., setReg_net .., regsBut_setReg (regsBut_refl s _) (List.mem_singleton_self _) _⟩

/-- A packet's record names the router's link and strikes the packet's origin. -/
theorem pktRaise_record (cls : Nat) (p : Pkt) : ∃ e, (s.pktRaise cls c l p).err.recQ = s.err.recQ ++ [e] ∧ e.cls = cls ∧ e.loc = .cell c l ∧
    e.struck = p.org := by
  obtain ⟨e, hq, hrec⟩ := raise_record (s.rtrLast c cls l p.tag) cls (.cell c l) (p.detail l) p.org
  exact ⟨e, by rw [State.pktRaise, hq, (rtrLast_keeps s c l cls p.tag).2.1], hrec⟩

theorem pktRaise_keeps (cls : Nat) (p : Pkt) : (s.pktRaise cls c l p).cells = s.cells ∧ (s.pktRaise cls c l p).net = s.net ∧
    s.regsBut (s.pktRaise cls c l p) [cellKey c RTR_ERR_LAST] := by
  obtain ⟨hcells, -, hnet, hregs⟩ := rtrLast_keeps s c l cls p.tag
  exact ⟨(raise_cells ..).trans hcells, (raise_net ..).trans hnet, regsBut_of_regs hregs (raise_part ..) (raise_regs ..)⟩

theorem endRequest_keeps (p : Pkt) (st : Nat) : (s.endRequest p st).cells = s.cells ∧ (s.endRequest p st).net = s.net ∧
    (s.endRequest p st).regs = s.regs ∧ (s.endRequest p st).part = s.part ∧ (s.endRequest p st).err = s.err := by
  unfold State.endRequest
  split
  · split <;> exact ⟨rfl, rfl, rfl, rfl, rfl⟩
  · split <;> exact ⟨rfl, rfl, rfl, rfl, rfl⟩
  · exact ⟨rfl, rfl, rfl, rfl, rfl⟩

/-- An unroutable packet leaves the mesh with one record (R201). -/
theorem unroutable_keeps (i : Nat) (p : Pkt) : ∃ e, (s.unroutable i c l p).net = s.net.eraseIdx i ∧
    (s.unroutable i c l p).err.recQ = s.err.recQ ++ [e] ∧ e.cls = 0x35 ∧ e.loc = .cell c l ∧ e.struck = p.org ∧
    s.regsBut (s.unroutable i c l p) [cellKey c RTR_ERR_LAST] ∧ (s.unroutable i c l p).cells = s.cells := by
  obtain ⟨e, hq, hrec⟩ := pktRaise_record (s.replacePkt i []) c l 0x35 p
  obtain ⟨hcells, hnet, hregs⟩ := pktRaise_keeps (s.replacePkt i []) c l 0x35 p
  obtain ⟨hcells', hnet', hregs', hpart', herr'⟩ := endRequest_keeps ((s.replacePkt i []).pktRaise 0x35 c l p) p 1
  obtain ⟨hcls, hloc, hstruck⟩ := hrec
  refine ⟨e, ?_, ?_, hcls, hloc, hstruck, ?_, ?_⟩
  · exact hnet'.trans (hnet.trans (List.append_nil _))
  · rw [State.unroutable, herr', hq]
    rfl
  · exact regsBut_of_regs (fun k hk => hregs k hk) hpart' hregs'
  · exact hcells'.trans hcells

/-! ### Sequence numbers -/

/-- A packet that has not been sent takes sequence numbers for its flits. -/
theorem linkTakes_unsent (x : LinkSt) {p : Pkt} (h : p.sent = none) :
    linkTakes x l p = { x with next := (x.next + p.flits) % 256, retry := x.retry ++ seqsFrom x.next p.flits } := by
  rw [linkTakes, h, if_neg (by simp)]

end

end Sys2Proof.MeshLinks
end

section
/-! PROOFS. One step of a router (R186-R201, R223). -/

namespace Sys2Proof.PacketRouting

open Sys2Proof Sys2Proof.Machine Sys2Proof.Laws Sys2Proof.Clauses Sys2Proof.MeshLinks
open Sys2Proof.DescriptorQueue (cellsBut_of_cells cell_of_cells)
open Sys2Proof.SyncCounters (routerEcc_keeps cellKey_ne)
open Sys2Proof.Machine.State (ringLink linkTakes seqsFrom errOn)

/-- A packet without detour at the head of its buffer, in a router that runs in routing mode. -/
structure AtHead (s : State) (i c via x y : Nat) (p : Pkt) : Prop where
  stands : s.net[i]? = some p
  pos : p.pos = .router c via
  first : s.isFirst i p = true
  header : p.badHeader = false
  mcast : p.mcast = false
  phys : p.phys = false
  way : p.way = none
  alive : s.routerDead c = false
  here : s.logicalOf c = some (x, y)

section
variable {s : State} {i c via x y : Nat} {p : Pkt}

theorem routerEcc_zero (s : State) (c : Nat) : s.routerEcc c 0 = s := (routerEcc_keeps s c 0).2.2.2.2.2 (by decide) (by decide)

theorem net_routerEcc (s : State) (c e : Nat) : (s.routerEcc c e).net = s.net := by
  unfold State.routerEcc
  split_ifs <;> simp [State.rtrLast]

/-- The step of a router that the packet's decision chooses. -/
def moved (s : State) (i c via : Nat) (p : Pkt) (errs : List (Nat × Nat)) : State :=
  match s.hopOf c via p with
  | (q, .loc) => s.landLocal i c q
  | (q, .link l) => s.crossLink i c l q (errOn errs l)
  | (q, .lost) => s.unroutable i c 0 q

theorem packetRoute_head (h : AtHead s i c via x y p) (errs : List (Nat × Nat)) :
    s.packetRoute i errs 0 = if s.routerPulse c = true then moved s i c via p errs else s := by
  have hrow : ((0 : Nat) = 2) = False := by simp
  simp only [State.packetRoute, h.stands, h.pos, routerEcc_zero, hrow, decide_false, h.first, Bool.not_true, Bool.or_self, Bool.false_eq_true, if_false, h.alive,
    h.header, h.mcast, moved]
  cases hp : s.routerPulse c <;> rfl

/-- A router in routing mode routes (R186). -/
theorem hopOf_routing (h : AtHead s i c via x y p) : s.hopOf c via p = s.route c p 4 := by
  have hpass : s.passMode c = false := by simp [State.passMode, h.here]
  have hrout : s.routingMode c = true := by simp [State.routingMode, h.here, h.alive]
  simp only [State.hopOf, hpass, Bool.false_eq_true, if_false, hrout, if_true]

/-- At its target a packet goes to the local port. -/
theorem hopOf_here (h : AtHead s i c via x y p) (hx : p.x = x) (hy : p.y = y) : s.hopOf c via p = (p, .loc) := by
  rw [hopOf_routing h]
  simp only [State.route, h.phys, Bool.false_eq_true, if_false, h.here, h.way, hx, hy, if_true]

/-- Toward a target further east a packet takes the east link. -/
theorem hopOf_east (h : AtHead s i c via x y p) (hx : x < p.x) (hd : s.detourOf c 0 = none) : s.hopOf c via p = (p, .link 0) := by
  have hne : ¬ (x, y) = (p.x, p.y) := fun hn => Nat.ne_of_lt hx (congrArg Prod.fst hn)
  rw [hopOf_routing h]
  simp only [State.route, h.phys, Bool.false_eq_true, if_false, h.here, h.way, hne, State.routeTo, if_pos hx, hd]

theorem moved_here (h : AtHead s i c via x y p) (hx : p.x = x) (hy : p.y = y) (errs : List (Nat × Nat)) :
    moved s i c via p errs = s.landLocal i c p := by
  rw [moved, hopOf_here h hx hy]

theorem moved_east (h : AtHead s i c via x y p) (hx : x < p.x) (hd : s.detourOf c 0 = none) (errs : List (Nat × Nat)) :
    moved s i c via p errs = s.crossLink i c 0 p (errOn errs 0) := by
  rw [moved, hopOf_east h hx hd]

/-! ### The local port -/

/-- A packet that cannot leave stays. -/
theorem cell_takeOut (s : State) (c side : Nat) (p : Pkt) : ∃ o, (s.takeOut c side p).cell c = { s.cell c with outs := o } := ⟨_, cell_setCell_same s c _⟩

theorem takeOut_keeps (s : State) (c side : Nat) (p : Pkt) : (s.takeOut c side p).regs = s.regs ∧ (s.takeOut c side p).err = s.err ∧
    (s.takeOut c side p).net = s.net ∧ (s.takeOut c side p).part = s.part ∧ s.cellsBut (s.takeOut c side p) c :=
  ⟨rfl, rfl, rfl, rfl, cellsBut_setCell (cellsBut_refl s c) _⟩

/-! ### The east link -/

/-- The east link of a cell takes the flits of a packet: what the decision to cross it needs (R187, R193, R201). -/
structure EastOpen (s : State) (i c : Nat) (p : Pkt) : Prop where
  unsent : p.sent = none
  next : s.routerDead (c + 1) = false
  inside : cellPx c < 47
  takes : s.linkHolds c 0 = false
  whole : s.linkFailed c 0 = false
  run : s.runOn c 0 p 64 = ([c], c, 0)
  credit : s.credit c 0 p = true
  room : s.retryRoom c 0 p = true
  granted : s.granted s.wants i c 2 p = true

theorem linkDead_east (hn : s.routerDead (c + 1) = false) (hin : cellPx c < 47) (hw : s.linkFailed c 0 = false) : s.linkDead c 0 = false := by
  simp only [State.linkDead, hw, linkFar_east s c hin, hn, Bool.or_self]

theorem crossLink_open (h : EastOpen s i c p) {err : Nat} : s.crossLink i c 0 p err = match s.badFlit c 0 p err with
    | none => ((s.crossTo c 0 p).takeOut c 2 p).replacePkt i [s.across c 0 p]
    | some k => s.linkRefused i c 0 p k := by
  have hdead := linkDead_east h.next h.inside h.whole
  have hgr : s.granted s.wants i c (linkSide 0) p = true := h.granted
  simp only [State.crossLink, h.takes, Bool.false_eq_true, if_false, hdead, h.run, h.credit, h.room, hgr, Bool.and_self, Bool.not_true]
  rfl

theorem crossLink_waits (hstands : s.net[i]? = some p) (hn : s.routerDead (c + 1) = false) (hin : cellPx c < 47) (hw : s.linkFailed c 0 = false)
    (hrun : s.runOn c 0 p 64 = ([c], c, 0))
    (hwait : s.linkHolds c 0 = true ∨ s.credit c 0 p = false ∨ s.retryRoom c 0 p = false ∨ s.granted s.wants i c 2 p = false) (err : Nat) :
    s.crossLink i c 0 p err = s := by
  have hdead := linkDead_east hn hin hw
  have hno : s.linkHolds c 0 = false → (s.credit c 0 p && s.retryRoom c 0 p && s.granted s.wants i c (linkSide 0) p) = false := fun hh => by
    rcases hwait with h | h | h | h
    · rw [hh] at h; cases h
    · simp [h]
    · simp [h]
    · rw [show linkSide 0 = 2 from rfl, h, Bool.and_false]
  unfold State.crossLink
  rw [net_set_self hstands]
  cases hh : s.linkHolds c 0 with
  | true => rfl
  | false => simp only [Bool.false_eq_true, if_false, hdead, hrun, hno hh, Bool.not_false, if_true]

/-- The crossing of a link with no wire error. -/
theorem crossTo_east (hrun : s.runOn c 0 p 64 = ([c], c, 0)) : s.crossTo c 0 p = s.linkSent c 0 p := by
  simp only [State.crossTo, hrun, List.drop_succ_cons, List.drop_zero, List.foldl_nil]

theorem across_east (hrun : s.runOn c 0 p 64 = ([c], c, 0)) (hin : cellPx c < 47) :
    s.across c 0 p = { p with pos := .router (c + 1) 4, sent := none, waited := 0 } := by
  simp only [State.across, hrun, linkFar_east s c hin]
  rfl

/-- The sending end after a packet's flits crossed. -/
theorem link_linkPassed {l : Nat} (h : p.sent = none) : (s.linkPassed c l p).link c l =
    { s.link c l with
      next := ((s.link c l).next + p.flits) % 256, retry := (s.link c l).retry ++ seqsFrom (s.link c l).next p.flits, refused := 0,
      good := ((s.link c l).next + p.flits + 255) % 256 } := by
  rw [State.linkPassed, link_setLink_same, linkTakes_unsent l _ h]
  simp [Nat.add_mod]

/-- The state in which the packet crossed the east link. -/
def crossed (s : State) (i c : Nat) (p : Pkt) : State :=
  ((s.linkSent c 0 p).takeOut c 2 p).replacePkt i [{ p with pos := .router (c + 1) 4, sent := none, waited := 0 }]

theorem link_act (s : State) (d i n c l : Nat) : (s.act d i n).link c l = s.link c l := rfl

theorem link_takeOut (s : State) (c side : Nat) (p : Pkt) (l : Nat) : (s.takeOut c side p).link c l = s.link c l := by
  obtain ⟨o, ho⟩ := cell_takeOut s c side p
  rw [State.link, ho, State.link]

theorem crossed_keeps (h : p.sent = none) : (crossed s i c p).net = s.net.eraseIdx i ++ [{ p with pos := .router (c + 1) 4, sent := none, waited := 0 }] ∧
    (crossed s i c p).link c 0 =
      { s.link c 0 with
        next := ((s.link c 0).next + p.flits) % 256, retry := (s.link c 0).retry ++ seqsFrom (s.link c 0).next p.flits, refused := 0,
        good := ((s.link c 0).next + p.flits + 255) % 256 } ∧
    (crossed s i c p).regs = s.regs ∧ (crossed s i c p).err = s.err ∧ s.cellsBut (crossed s i c p) c := by
  refine ⟨rfl, ?_, rfl, rfl, ?_⟩
  · have hlink : (crossed s i c p).link c 0 = ((s.linkSent c 0 p).takeOut c 2 p).link c 0 := link_of_cells rfl c 0
    rw [hlink, link_takeOut, State.linkSent, link_act, link_linkPassed h]
  · exact cellsBut_of_cells (cellsBut_setCell (cellsBut_of_cells (cellsBut_setLink (cellsBut_refl s c) 0 _) (act_cells ..)) _) rfl

/-! ### A flit that is refused -/

theorem raiseLimCell_keeps (s : State) (ns cls c u d : Nat) : (s.raiseLimCell ns cls c u d).cells = s.cells ∧
    (s.raiseLimCell ns cls c u d).regs = s.regs ∧ (s.raiseLimCell ns cls c u d).part = s.part ∧ (s.raiseLimCell ns cls c u d).net = s.net := by
  have hw := within_raiseLimCell (ns := ns) (cls := cls) (c := c) (uidx := u) (detail := d) (List.Subset.refl _) (within_refl s)
  exact ⟨StartPhases.within_same hw .cells (by decide), StartPhases.within_same hw .regs (by decide), hw.1, StartPhases.within_same hw .net (by decide)⟩

/-- The state in which the sending end of the east link waits for a NAK. -/
def awaiting (s : State) (c : Nat) (p : Pkt) (k : Nat) : State :=
  s.setLink c 0 { linkTakes (s.link c 0) 0 p with naked := true, good := ((linkTakes (s.link c 0) 0 p).next + 511 - p.flits + k) % 256 }

/-- The state in which the receiver of the east link refused flit k of a packet. -/
def refused (s : State) (i c : Nat) (p : Pkt) (k : Nat) : State :=
  { (((awaiting s c p k).incSatUn (cellKey (c + 1) RTR_RETRY_CNT) 0 16 1).rtrLast (c + 1) 0x30 1 0).raiseLimCell 1000000 0x30 (c + 1) 1 0 with
    net := s.net.set i { p with sent := some 0 } }

theorem linkRefused_east (hin : cellPx c < 47) (k : Nat) : s.linkRefused i c 0 p k = refused s i c p k := by
  simp only [State.linkRefused, State.refuseFlit, reverseOf_east s c hin, refused]
  rfl

/-- A packet with room in a retry buffer has few flits. -/
theorem flits_le (h : p.sent = none) (hr : s.retryRoom c 0 p = true) : p.flits ≤ 48 := by
  have hcap : s.retryCap c 0 ≤ 48 := by
    unfold State.retryCap
    split <;> omega
  have hle : (s.link c 0).retry.length + p.flits ≤ s.retryCap c 0 := by simpa [State.retryRoom, h] using hr
  omega

theorem refused_keeps (h : p.sent = none) (hr : s.retryRoom c 0 p = true) (hw : s.written (cellKey (c + 1) RTR_RETRY_CNT) = false) (k : Nat) :
    ((refused s i c p k).link c 0).naked = true ∧ ((refused s i c p k).link c 0).good = ((s.link c 0).next + k + 255) % 256 ∧
      ((refused s i c p k).link c 0).retry = (s.link c 0).retry ++ seqsFrom (s.link c 0).next p.flits ∧
      (refused s i c p k).fld (cellKey (c + 1) RTR_RETRY_CNT) 0 16 = min (s.fld (cellKey (c + 1) RTR_RETRY_CNT) 0 16 + 1) 0xFFFF ∧
      s.regsBut (refused s i c p k) [cellKey (c + 1) RTR_RETRY_CNT, cellKey (c + 1) RTR_ERR_LAST] ∧ s.cellsBut (refused s i c p k) c := by
  have hflits := flits_le h hr
  have hcount : (awaiting s c p k).incSatUn (cellKey (c + 1) RTR_RETRY_CNT) 0 16 1 = (awaiting s c p k).incSat (cellKey (c + 1) RTR_RETRY_CNT) 0 16 1 := by
    have hwr : (awaiting s c p k).written (cellKey (c + 1) RTR_RETRY_CNT) = false := hw
    rw [State.incSatUn, hwr]
    rfl
  obtain ⟨hrcells, hrregs, hrpart, -⟩ :=
    raiseLimCell_keeps (((awaiting s c p k).incSatUn (cellKey (c + 1) RTR_RETRY_CNT) 0 16 1).rtrLast (c + 1) 0x30 1 0) 1000000 0x30 (c + 1) 1 0
  have hcells : (refused s i c p k).cells = (awaiting s c p k).cells := by
    refine hrcells.trans ((rtrLast_keeps ..).1.trans ?_)
    rw [hcount, incSat_cells]
  have hlink := link_of_cells hcells c 0
  rw [awaiting, link_setLink_same, linkTakes_unsent 0 _ h] at hlink
  have hreg : ∀ j, j ≠ cellKey (c + 1) RTR_ERR_LAST → (refused s i c p k).reg j = (s.incSat (cellKey (c + 1) RTR_RETRY_CNT) 0 16 1).reg j := fun j hj => by
    refine (reg_of_regs hrpart hrregs j).trans ?_
    rw [State.rtrLast, reg_setReg, if_neg hj, hcount]
    rfl
  refine ⟨by rw [hlink], ?_, by rw [hlink], ?_, fun j hj => ?_, cellsBut_of_cells (cellsBut_setLink (cellsBut_refl s c) 0 _) hcells⟩
  · rw [hlink]
    dsimp only
    omega
  · rw [State.fld, hreg _ (cellKey_ne (by decide))]
    exact fld_incSat_same _ _ (by decide)
  · rw [List.mem_cons, List.mem_singleton, not_or] at hj
    rw [hreg j hj.2]
    exact reg_incSat_other _ _ _ _ hj.1

theorem badFlit_none (l : Nat) : s.badFlit c l p 0 = none := if_pos rfl

/-! ### The edge port's link from the ring -/

theorem packetRoute_ring {ecc : Nat} (hp : s.net[i]? = some p) (hpos : p.pos = .ring c) (ha : s.routerDead c = false) (hpulse : s.routerPulse c = true)
    (errs : List (Nat × Nat)) : s.packetRoute i errs ecc = s.ringEnter i c p (errOn errs ringLink) := by
  simp only [State.packetRoute, hp, hpos, ha, Bool.false_eq_true, if_false, hpulse, if_true]

theorem ringEnter_enters {v : Nat} (hv : v = if edgeRow s.part (cellDie c) = 0 then 1 else 3) (hf : s.isFirst i p = true)
    (hh : s.linkHolds c ringLink = false) (hl : s.linkFailed c (edgeLink s.part (cellDie c)) = false) (hroom : s.roomFor c v p.vc p.flits = true)
    (hretry : s.retryRoom c ringLink p = true) :
    s.ringEnter i c p 0 = (s.linkPassed c ringLink p).replacePkt i [{ p with pos := .router c v, sent := none, waited := 0 }] := by
  subst hv
  simp only [State.ringEnter, hf, hh, hl, hroom, hretry, Bool.not_true, Bool.or_self, Bool.and_self, Bool.false_eq_true, if_false, badFlit_none]

end

/-- Settles O24: a router delivers, passes on, keeps or discards the packet at the head of a buffer. -/
theorem packetsRouteTowardTheirTarget : Obligations.PacketsRouteTowardTheirTarget := by
  refine ⟨?_, ?_, ?_, ?_, ?_, ?_, ?_, ?_⟩
  · intro s i c via x y p hn hpos hf hb hm hph hw ha hl hx hy hpulse
    have h : AtHead s i c via x y p := ⟨hn, hpos, hf, hb, hm, hph, hw, ha, hl⟩
    have hexec : exec (.packetRoute i [] 0) s = .next (s.landLocal i c p) :=
      next_congr ((packetRoute_head h []).trans ((if_pos hpulse).trans (moved_here h hx hy [])))
    obtain ⟨hregs, herr, hnet, -, hcells⟩ := takeOut_keeps s c 0 p
    refine ⟨_, hexec, ?_⟩
    unfold State.landLocal
    cases hg : s.granted (fun _ _ _ => []) i c 0 p with
    | true =>
      obtain ⟨o, ho⟩ := cell_takeOut s c 0 p
      refine ⟨rfl, hregs, ?_, hcells, herr⟩
      have hcell : ((s.takeOut c 0 p).replacePkt i [{ p with pos := .landed c, sent := none }]).cell c = { s.cell c with outs := o } := ho
      simp only [if_true]
      rw [hcell]
    | false =>
      rw [net_set_self hn]
      exact ⟨rfl, rfl, rfl, cellsBut_refl s c, rfl⟩
  · intro s i c via x y p hn hpos hf hb hm hph hw hsent ha hnext hl hx hin hd hhold hwhole hrun hcr hroom hgr hpulse
    have h : AtHead s i c via x y p := ⟨hn, hpos, hf, hb, hm, hph, hw, ha, hl⟩
    have ho : EastOpen s i c p := ⟨hsent, hnext, hin, hhold, hwhole, hrun, hcr, hroom, hgr⟩
    have hcross : s.crossLink i c 0 p 0 = crossed s i c p := by
      rw [crossLink_open ho, badFlit_none, crossTo_east hrun, across_east hrun hin]
      rfl
    have hexec : exec (.packetRoute i [] 0) s = .next (crossed s i c p) :=
      next_congr ((packetRoute_head h []).trans ((if_pos hpulse).trans ((moved_east h hx hd []).trans hcross)))
    exact ⟨_, hexec, crossed_keeps hsent⟩
  · intro s i c via x y errs p hn hpos hf hb hm hph hw ha hnext hl hx hin hd hwhole hrun hwait
    have h : AtHead s i c via x y p := ⟨hn, hpos, hf, hb, hm, hph, hw, ha, hl⟩
    refine next_congr ((packetRoute_head h errs).trans ?_)
    split
    · rw [moved_east h hx hd, crossLink_waits hn hnext hin hwhole hrun hwait]
    · rfl
  · intro s i c via x y err k p hn hpos hf hb hm hph hw hsent ha hnext hl hx hin hd hhold hwhole hrun hcr hroom hgr hpulse hbad hwr
    have h : AtHead s i c via x y p := ⟨hn, hpos, hf, hb, hm, hph, hw, ha, hl⟩
    have ho : EastOpen s i c p := ⟨hsent, hnext, hin, hhold, hwhole, hrun, hcr, hroom, hgr⟩
    have hcross : s.crossLink i c 0 p (errOn [(0, err)] 0) = refused s i c p k := by
      rw [crossLink_open ho, show errOn [(0, err)] 0 = err from rfl, hbad, ← linkRefused_east hin]
    have hexec : exec (.packetRoute i [(0, err)] 0) s = .next (refused s i c p k) :=
      next_congr ((packetRoute_head h _).trans ((if_pos hpulse).trans ((moved_east h hx hd _).trans hcross)))
    exact ⟨_, hexec, rfl, refused_keeps hsent hroom hwr k⟩
  · intro s i c via x y errs p hn hpos hf hb hm hph hw ha hl hx hd hhold hfail hpulse
    have h : AtHead s i c via x y p := ⟨hn, hpos, hf, hb, hm, hph, hw, ha, hl⟩
    have hdead : s.linkDead c 0 = true := by simp [State.linkDead, hfail]
    have hcross : s.crossLink i c 0 p (errOn errs 0) = s.unroutable i c 0 p := by
      simp only [State.crossLink, hhold, Bool.false_eq_true, if_false, hdead, if_true]
    have hexec : exec (.packetRoute i errs 0) s = .next (s.unroutable i c 0 p) :=
      next_congr ((packetRoute_head h errs).trans ((if_pos hpulse).trans ((moved_east h hx hd errs).trans hcross)))
    obtain ⟨e, hrec⟩ := unroutable_keeps s c 0 i p
    exact ⟨_, e, hexec, hrec⟩
  · intro s i c via errs p hn hpos hf
    refine next_congr ?_
    simp only [State.packetRoute, hn, hpos, routerEcc_zero, hf, Bool.not_false, Bool.or_true, if_true]
  · intro s i c via ecc p hn hpos hv hf ha hpulse hhold hl hroom hretry
    have hexec : exec (.packetRoute i [] ecc) s =
        .next ((s.linkPassed c ringLink p).replacePkt i [{ p with pos := .router c via, sent := none, waited := 0 }]) :=
      next_congr ((packetRoute_ring hn hpos ha hpulse []).trans (ringEnter_enters hv hf hhold hl hroom hretry))
    refine ⟨_, hexec, rfl, ?_, fun l hne => ?_, rfl, cellsBut_of_cells (cellsBut_setLink (cellsBut_refl s c) _ _) rfl, rfl⟩
    · refine (congrArg LinkSt.refused (link_of_cells (s := s.linkPassed c ringLink p) rfl c ringLink)).trans ?_
      rw [State.linkPassed, link_setLink_same]
    · refine (link_of_cells (s := s.linkPassed c ringLink p) rfl c l).trans ?_
      rw [State.linkPassed, link_setLink_other _ _ _ _ hne]
  · intro s i c via errs p hn hpos
    have hexec : exec (.packetRoute i errs 2) s = .next (s.routerEcc c 2) := by
      refine next_congr ?_
      simp only [State.packetRoute, hn, hpos, decide_true, Bool.true_or, if_true]
    obtain ⟨hcells, -, hregs, -, hlogs, -⟩ := routerEcc_keeps s c 2
    exact ⟨_, hexec, net_routerEcc .., hcells, hregs, hlogs rfl⟩

end Sys2Proof.PacketRouting
end

section
/-! PROOFS. Link retries, loopback tests, detours and the multicast watchdog (R193-R195, R199, R214). -/

namespace Sys2Proof.LinkRetries

open Sys2Proof Sys2Proof.Machine Sys2Proof.Laws Sys2Proof.Clauses Sys2Proof.MeshLinks
open Sys2Proof.DescriptorQueue (cellsBut_of_cells cell_of_cells)
open Sys2Proof.PacketRouting (raiseLimCell_keeps)
open Sys2Proof.SyncCounters (cellKey_ne raise_record)
open Sys2Proof.Machine.State (ringLink onLink)

/-! ### Acknowledged flits -/

/-- What is kept of a retry buffer after an acknowledgement. -/
theorem rest_of_acked {a : Nat} {pre post : List Nat} (h : a ∉ pre) : ((pre ++ a :: post).dropWhile (· != a)).drop 1 = post := by
  rw [List.dropWhile_append_of_pos fun x hx => by simpa using ne_of_mem_of_not_mem hx h]
  simp

section
variable {s : State} {c l sb : Nat}

/-- The sending end after a NAK. -/
def naked (x : LinkSt) (a : Nat) : LinkSt :=
  { x with naked := false, refused := x.refused + 1, retry := if x.retry.contains a then (x.retry.dropWhile (· != a)).drop 1 else x.retry }

theorem exec_nak (hg : idleGood sb = true) (hn : bit sb 25 = true) (hx : (s.link c l).naked = true) :
    exec (.linkNakReceive c l sb) s = .next (if s.fld (cellKey c RTR_LINK_CFG) 0 4 ≤ (s.link c l).refused + 1 then
      (s.setLink c l (naked (s.link c l) (bits sb 17 8))).bothEnds c l fun y => { y with stopped := true }
      else s.setLink c l (naked (s.link c l) (bits sb 17 8))) := by
  refine next_congr ?_
  simp only [State.idleReceive, hg, hn, hx, State.nakReceive, Bool.not_true, Bool.false_eq_true, if_false, if_true, naked]

theorem exec_ack {a : Nat} {pre post : List Nat} (hg : idleGood sb = true) (hn : bit sb 25 = false) (ha : a = bits sb 17 8)
    (hx : (s.link c l).naked = false) (hr : (s.link c l).retry = pre ++ a :: post) (hp : a ∉ pre) :
    exec (.linkNakReceive c l sb) s = .next (s.setLink c l { s.link c l with retry := post }) := by
  have hin : (s.link c l).retry.contains a = true := by rw [hr]; simp
  refine next_congr ?_
  simp only [State.idleReceive, hg, hn, hx, ← ha, hin, Bool.not_true, Bool.or_self, Bool.false_eq_true, if_false]
  rw [hr, rest_of_acked hp]

/-- Both directions of a link are set alike. -/
theorem link_bothEnds {f : LinkSt → LinkSt} {P : LinkSt → Prop} (hf : ∀ x, P (f x)) : P ((s.bothEnds c l f).link c l) ∧
    ∀ e m, s.reverseOf c l = some (e, m) → P ((s.bothEnds c l f).link e m) := by
  have hrev : (s.setLink c l (f (s.link c l))).reverseOf c l = s.reverseOf c l := rfl
  unfold State.bothEnds
  cases hr : s.reverseOf c l with
  | none => exact ⟨by rw [link_setLink_same]; exact hf _, fun e m h => by cases h⟩
  | some em =>
    refine ⟨?_, fun e m h => ?_⟩
    · show P (((s.setLink c l (f (s.link c l))).setLink em.1 em.2 _).link c l)
      rw [link_setLink]
      split
      · exact hf _
      · rw [link_setLink_same]
        exact hf _
    · rw [Option.some_inj.1 h]
      show P (((s.setLink c l (f (s.link c l))).setLink e m _).link e m)
      rw [link_setLink_same]
      exact hf _

theorem bothEnds_keeps (f : LinkSt → LinkSt) : (s.bothEnds c l f).regs = s.regs ∧ (s.bothEnds c l f).net = s.net ∧ (s.bothEnds c l f).err = s.err ∧
    (s.bothEnds c l f).part = s.part ∧ (s.bothEnds c l f).wrote = s.wrote := by
  unfold State.bothEnds
  dsimp only
  split <;> exact ⟨rfl, rfl, rfl, rfl, rfl⟩

theorem reverseOf_setLink (x : LinkSt) : (s.setLink c l x).reverseOf c l = s.reverseOf c l := rfl

/-! ### A flit of the reverse link that fails -/

theorem exec_idle_bad (hg : idleGood sb = false) : exec (.linkNakReceive c l sb) s =
    .next (((s.incSatUn (cellKey c RTR_RETRY_CNT) 0 16 1).rtrLast c 0x30 (s.codeOf c l) 0).raiseLimCell 1000000 0x30 c (s.codeOf c l) 0) := by
  refine next_congr ?_
  simp only [State.idleReceive, hg, Bool.not_false, if_true]

/-- A counter of the router, and what it recorded last. -/
theorem counted {t : State} {lo w cls u : Nat} (hw : t.written (cellKey c RTR_RETRY_CNT) = false) (h : lo + w ≤ 64) :
    ((t.incSatUn (cellKey c RTR_RETRY_CNT) lo w 1).rtrLast c cls u 0).fld (cellKey c RTR_RETRY_CNT) lo w =
      min (t.fld (cellKey c RTR_RETRY_CNT) lo w + 1) (2 ^ w - 1) ∧
    t.regsBut ((t.incSatUn (cellKey c RTR_RETRY_CNT) lo w 1).rtrLast c cls u 0) [cellKey c RTR_RETRY_CNT, cellKey c RTR_ERR_LAST] ∧
    ((t.incSatUn (cellKey c RTR_RETRY_CNT) lo w 1).rtrLast c cls u 0).cells = t.cells ∧
    ((t.incSatUn (cellKey c RTR_RETRY_CNT) lo w 1).rtrLast c cls u 0).net = t.net ∧
    ((t.incSatUn (cellKey c RTR_RETRY_CNT) lo w 1).rtrLast c cls u 0).err = t.err := by
  have hne : cellKey c RTR_RETRY_CNT ≠ cellKey c RTR_ERR_LAST := cellKey_ne (by decide)
  have hcount : t.incSatUn (cellKey c RTR_RETRY_CNT) lo w 1 = t.incSat (cellKey c RTR_RETRY_CNT) lo w 1 := by
    rw [State.incSatUn, hw]
    rfl
  rw [hcount]
  obtain ⟨hcells, herr, hnet, -⟩ := rtrLast_keeps (t.incSat (cellKey c RTR_RETRY_CNT) lo w 1) c u cls 0
  refine ⟨?_, fun j hj => ?_, hcells.trans (incSat_cells ..), hnet.trans (incSat_net ..), herr.trans (incSat_err ..)⟩
  · rw [State.fld, State.rtrLast, reg_setReg, if_neg hne]
    exact fld_incSat_same _ _ h
  · rw [List.mem_cons, List.mem_singleton, not_or] at hj
    rw [State.rtrLast, reg_setReg, if_neg hj.2]
    exact reg_incSat_other _ _ _ _ hj.1

/-! ### Loopback tests -/

/-- The state after a passed loopback test. -/
def restored (s : State) (c l : Nat) : State :=
  (((s.bothEnds c l fun x => { x with stopped := false, refused := 0 }).incSatUn (cellKey c RTR_RETRY_CNT) 16 8 1).rtrLast c 0x31 l 0).raise
    0x31 (.cell c l) 0 none

theorem exec_loopback_pass {raw : Nat} (hs : (s.link c l).stopped = true) (hp : s.meetsPad c l raw = true) :
    exec (.loopbackTestDone c l true true [] raw) s = .next (restored s c l) := by
  refine next_congr ?_
  simp only [State.loopback, hs, hp, Bool.not_true, Bool.false_eq_true, if_false, List.foldl_nil, ite_self, List.all_nil, Bool.or_true, Bool.and_self,
    Bool.not_false, Bool.and_false, if_true, restored]

/-- A failed end shows in its link status, whatever its links held. -/
theorem linkFailed_failEnd {m : Nat} (hm : m < 12) : (s.failEnd c m).linkFailed c m = true := by
  have hne : m ≠ ringLink := by rintro rfl; exact absurd hm (by decide)
  have hreg : ∀ t : State, (t.markEnd c m).regs = t.regs ∧ (t.markEnd c m).part = t.part := fun t => by
    unfold State.markEnd
    split <;> exact ⟨rfl, rfl⟩
  have hfld : (s.failEnd c m).fld (cellKey c RTR_LINK_STAT) m 1 = (s.setFld (cellKey c RTR_LINK_STAT) m 1 1).fld (cellKey c RTR_LINK_STAT) m 1 := by
    rw [State.failEnd, if_neg hne]
    exact fld_of_regs (hreg _).2 (hreg _).1 _ _ _
  rw [State.linkFailed, hfld, fld_setFld_same _ _ (by omega)]
  rfl

theorem failEnd_keeps (m : Nat) : s.regsBut (s.failEnd c m) [cellKey c RTR_LINK_STAT] ∧ (s.failEnd c m).net = s.net := by
  have hw := within_failEnd (c := c) (l := m) (List.Subset.refl _) (within_refl s)
  refine ⟨?_, StartPhases.within_same hw .net (by decide)⟩
  unfold State.failEnd
  split
  · exact regsBut_of_regs (regsBut_refl s _) rfl rfl
  · have hm : ∀ t : State, (t.markEnd c m).regs = t.regs ∧ (t.markEnd c m).part = t.part := fun t => by
      unfold State.markEnd
      split <;> exact ⟨rfl, rfl⟩
    exact regsBut_of_regs (regsBut_setFld (regsBut_refl s _) (List.mem_singleton_self _) m 1 1) (hm _).2 (hm _).1

/-- A die's calibration registers are none of a cell's. -/
theorem cellKey_ne_dieKey {e d o q : Nat} (hd : d < 16 + e) (ho : o < 0x1000000) (hq : q < 0x1000000) (hed : d + 1 ≠ 16 + e) : cellKey e o ≠ dieKey d q := by
  unfold cellKey dieKey
  omega

/-- A failed end between two cells of one die counts in the die's calibration registers. -/
theorem failCounts_keeps {e l : Nat} (hd : cellDie c = cellDie e) : (s.failCounts c e l).net = s.net ∧ ∀ k, k ≠ dieKey (cellDie c) CAL_STAT →
    (∀ j, j < 6 → k ≠ dieKey (cellDie c) (CAL_SEAM0 + 4 * j)) → (s.failCounts c e l).reg k = s.reg k := by
  have hj : cellPy c / 8 < 6 := by unfold cellPy; omega
  simp only [State.failCounts, hd, if_true]
  rw [← hd]
  split
  · exact ⟨rfl, fun _ _ _ => rfl⟩
  · split
    · exact ⟨by simp only [setFld_net, incSat_net], fun k hk hs => by rw [reg_setFld, if_neg (hs _ hj), reg_incSat_other _ _ _ _ hk]⟩
    · exact ⟨incSat_net .., fun k hk _ => reg_incSat_other _ _ _ _ hk⟩

theorem haltPanels_keep (cls : Nat) : ∀ (cs : List Nat) (t : State), (cs.foldl (fun u e => u.haltPanelOf e cls) t).err.recQ = t.err.recQ ∧
    t.within [.err] (cs.foldl (fun u e => u.haltPanelOf e cls) t)
  | [], t => ⟨rfl, within_refl t⟩
  | e :: cs, t => by
    obtain ⟨hq, hw⟩ := haltPanels_keep cls cs (t.haltPanelOf e cls)
    refine ⟨hq.trans ?_, within_foldl (l := cs) (fun u e hu => within_haltPanelOf (List.Subset.refl _) hu) (within_haltPanelOf (List.Subset.refl _) (within_refl t))⟩
    unfold State.haltPanelOf
    dsimp only
    split <;> rfl

/-- What the record of a failed link says, and what raising it leaves. -/
theorem raiseFor_logs (sev cls : Nat) (loc : Loc) (d : Nat) (cs : List Nat) :
    (∃ r, r ∈ (s.raiseFor sev cls loc d cs).err.recQ ∧ r.cls = cls ∧ r.loc = loc) ∧ s.within [.err] (s.raiseFor sev cls loc d cs) := by
  obtain ⟨hq, hw⟩ := haltPanels_keep cls cs (s.raiseSev sev cls loc d (cs.find? s.haltable))
  refine ⟨⟨_, by rw [State.raiseFor, hq]; exact List.mem_append_right _ (List.mem_singleton_self _), rfl, rfl⟩, ?_⟩
  exact within_raiseFor (List.Subset.refl _) (within_refl s)

/-- No request is lost on a link that no packet was on its way over. -/
theorem loseOn_none {m : Nat} (h : ∀ p ∈ s.net, p.sent ≠ some m) : s.loseOn c m = s := by
  have hon : ∀ p ∈ s.net, onLink c m p = false := fun p hp => by
    have hne : (p.sent == some m) = false := by simpa using h p hp
    rw [onLink, hne, Bool.false_and]
  have hnone : s.net.filter (onLink c m) = [] := List.filter_eq_nil_iff.2 fun p hp => by simp [hon p hp]
  have hall : (s.net.filter fun p => !onLink c m p) = s.net := List.filter_eq_self.2 fun p hp => by simp [hon p hp]
  rw [State.loseOn, hnone, hall]
  rfl

theorem failFuses_keeps (m : Nat) (near far : Bool) : s.within [.flash, .err] (s.failFuses c m near far) :=
  within_failFuses (List.Subset.refl _) (within_refl s)

/-- The state after a failed loopback test of the east link. -/
def lostEast (s : State) (c : Nat) (near far : Bool) (cs : List Nat) : State :=
  ((((((s.failEnd c 0).failEnd (c + 1) 1).failCounts c (c + 1) 0).failFuses c 0 near far).rtrLast c 0x32 0 0).raiseFor (sevOf 0x32) 0x32 (.cell c 0) 0 cs)

theorem lostEast_keeps (hpx : cellPx c < 47) (near far : Bool) (cs : List Nat) : (lostEast s c near far cs).net = s.net ∧
    (lostEast s c near far cs).linkFailed c 0 = true ∧ (lostEast s c near far cs).linkFailed (c + 1) 1 = true := by
  have hdie : cellDie c = cellDie (c + 1) := by unfold cellPx at hpx; unfold cellDie; omega
  obtain ⟨h0, n0⟩ := failEnd_keeps (s := s) (c := c) 0
  obtain ⟨-, n1⟩ := failEnd_keeps (s := s.failEnd c 0) (c := c + 1) 1
  obtain ⟨n2, h2⟩ := failCounts_keeps (s := (s.failEnd c 0).failEnd (c + 1) 1) (l := 0) hdie
  have h3 := failFuses_keeps (s := ((s.failEnd c 0).failEnd (c + 1) 1).failCounts c (c + 1) 0) (c := c) 0 near far
  have h4 := rtrLast_keeps ((((s.failEnd c 0).failEnd (c + 1) 1).failCounts c (c + 1) 0).failFuses c 0 near far) c 0 0x32 0
  obtain ⟨-, h5⟩ := raiseFor_logs (s := ((((s.failEnd c 0).failEnd (c + 1) 1).failCounts c (c + 1) 0).failFuses c 0 near far).rtrLast c 0x32 0 0)
    (sevOf 0x32) 0x32 (.cell c 0) 0 cs
  obtain ⟨-, -, n4, h4⟩ := h4
  have hstat : ∀ e, e = c ∨ e = c + 1 → (lostEast s c near far cs).reg (cellKey e RTR_LINK_STAT) =
      ((s.failEnd c 0).failEnd (c + 1) 1).reg (cellKey e RTR_LINK_STAT) := fun e he => by
    have hapart : ∀ q, q < 0x1000000 → cellKey e RTR_LINK_STAT ≠ dieKey (cellDie c) q := fun q hq => by
      refine cellKey_ne_dieKey ?_ (by decide) hq ?_ <;> (unfold cellDie; omega)
    have hlast : cellKey e RTR_LINK_STAT ≠ cellKey c RTR_ERR_LAST := by
      simp only [cellKey, RTR_LINK_STAT, RTR_ERR_LAST]
      omega
    rw [lostEast, reg_of_regs h5.1 (StartPhases.within_same h5 .regs (by decide)), h4 _ (by simpa using hlast),
      reg_of_regs h3.1 (StartPhases.within_same h3 .regs (by decide)), h2 _ (hapart _ (by decide)) fun j hj => hapart _ ?_]
    rw [CAL_SEAM0]
    omega
  refine ⟨?_, ?_, ?_⟩
  · rw [lostEast, StartPhases.within_same h5 .net (by decide), n4, StartPhases.within_same h3 .net (by decide), n2, n1, n0]
  · have hne : cellKey c RTR_LINK_STAT ≠ cellKey (c + 1) RTR_LINK_STAT := by unfold cellKey; omega
    have hfail := linkFailed_failEnd (s := s) (c := c) (m := 0) (by decide)
    have h1 := (failEnd_keeps (s := s.failEnd c 0) (c := c + 1) 1).1
    rw [State.linkFailed, State.fld] at hfail ⊢
    rw [hstat c (.inl rfl), h1 _ (by simpa using hne)]
    exact hfail
  · have hfail := linkFailed_failEnd (s := s.failEnd c 0) (c := c + 1) (m := 1) (by decide)
    rw [State.linkFailed, State.fld] at hfail ⊢
    rw [hstat _ (.inr rfl)]
    exact hfail

theorem exec_loopback_fail {raw : Nat} {near far : Bool} (hs : (s.link c 0).stopped = true) (hpx : cellPx c < 47) (hb : (near && far) = false)
    (hn : ∀ p ∈ s.net, p.sent ≠ some 0 ∧ p.sent ≠ some 1) : ∃ cs, exec (.loopbackTestDone c 0 near far [] raw) s = .next (lostEast s c near far cs) := by
  refine ⟨[(c, 0), (c + 1, 1)].flatMap fun e => s.lostCells e.1 e.2, next_congr ?_⟩
  simp only [State.loopback, hs, hb, List.foldl_nil, ite_self, Bool.not_true, Bool.false_eq_true, if_false, Bool.false_and, reverseOf_east s c hpx,
    Option.toList, List.foldl_cons]
  generalize [(c, 0), (c + 1, 1)].flatMap (fun e => s.lostCells e.1 e.2) = cs
  have hnet := (lostEast_keeps (s := s) hpx near far cs).1
  show ((lostEast s c near far cs).loseOn c 0).loseOn (c + 1) 1 = _
  rw [loseOn_none fun p hp => (hn p (hnet ▸ hp)).1, loseOn_none fun p hp => (hn p (hnet ▸ hp)).2]

/-! ### Detours -/

/-- The entries a detour load writes, from entry n on. -/
def entries (s : State) (c n : Nat) (es : List Word) : State :=
  (es.zipIdx n).foldl (fun t e => t.setReg (cellKey c (RTR_DETOUR + 4 * e.2)) (BitVec.ofNat 64 (bits e.1.toNat 0 25))) s

theorem entries_cons (n : Nat) (e : Word) (es : List Word) : entries s c n (e :: es) =
    entries (s.setReg (cellKey c (RTR_DETOUR + 4 * n)) (BitVec.ofNat 64 (bits e.toNat 0 25))) c (n + 1) es := rfl

theorem entries_keeps : ∀ (es : List Word) (s : State) (n : Nat), s.within [.regs] (entries s c n es) ∧
    (∀ k, (∀ j, n ≤ j → j < n + es.length → k ≠ cellKey c (RTR_DETOUR + 4 * j)) → (entries s c n es).reg k = s.reg k) ∧
    ∀ i e, es[i]? = some e → ((entries s c n es).reg (cellKey c (RTR_DETOUR + 4 * (n + i)))).toNat = bits e.toNat 0 25
  | [], s, n => ⟨within_refl s, fun _ _ => rfl, fun i e h => by simp at h⟩
  | x :: es, s, n => by
    obtain ⟨hw, hother, hentry⟩ := entries_keeps es (s.setReg (cellKey c (RTR_DETOUR + 4 * n)) (BitVec.ofNat 64 (bits x.toNat 0 25))) (n + 1)
    refine ⟨within_trans (within_setReg (List.Subset.refl _) (within_refl s)) hw, fun k hk => ?_, fun i e hi => ?_⟩
    · rw [entries_cons, hother k fun j hj hl => hk j (by omega) (by rw [List.length_cons]; omega), reg_setReg,
        if_neg (hk n (Nat.le_refl n) (by rw [List.length_cons]; omega))]
    · cases i with
      | zero =>
        cases hi
        have hlt := IntegerInstructions.bits_lt x.toNat 0 25
        rw [entries_cons, hother _ fun j hj _ => by unfold cellKey; omega, reg_setReg, Nat.add_zero, if_pos rfl, BitVec.toNat_ofNat]
        exact Nat.mod_eq_of_lt (by omega)
      | succ i =>
        have := hentry i e hi
        rwa [show n + 1 + i = n + (i + 1) by omega] at this

/-- No region waits for detours, so the load tells none. -/
theorem detoursIn_none {t : State} (hr : ∀ r got, (t.region r).off ≠ .detours got) (c : Nat) : t.detoursIn c = t := by
  suffices hfold : ∀ l : List (Nat × Region), l.foldl (fun u e => match (u.region e.1).off with
      | .detours got => (u.setRegion e.1 { u.region e.1 with off := .detours (c :: got) }).fullOffEnd e.1
      | _ => u) t = t from hfold t.regions
  intro l
  induction l with
  | nil => rfl
  | cons e l ih =>
    rw [List.foldl_cons]
    split
    next got h => exact absurd h (hr e.1 got)
    next => exact ih

/-- The links of a cell, none of which waits for a detour any more. -/
def resumed (x : Cell) : Cell := { x with links := x.links.map fun p => (p.1, { p.2 with await := false }) }

theorem await_resumed (x : Cell) (l : Nat) : (SMap.get (resumed x).links l LinkSt.reset).await = false := by
  unfold resumed
  induction x.links with
  | nil => rfl
  | cons p ps ih =>
    show (if p.1 = l then { p.2 with await := false } else SMap.get (ps.map fun p => (p.1, { p.2 with await := false })) l LinkSt.reset).await = false
    split
    · rfl
    · exact ih

theorem exec_detour {es : List Word} (hl : es.length ≤ 16) (hr : ∀ r got, (s.region r).off ≠ .detours got) :
    exec (.detourLoad c es) s = .next ((entries s c 0 es).setCell c (resumed ((entries s c 0 es).cell c))) := by
  have hregion : ∀ r, ((entries s c 0 es).setCell c (resumed ((entries s c 0 es).cell c))).region r = s.region r := fun r => by
    have hw := (entries_keeps (c := c) es s 0).1
    exact congrArg (fun m => SMap.get m r Region.reset) (StartPhases.within_same hw .regions (by decide))
  refine next_congr ?_
  simp only [State.detourLoad, List.take_of_length_le hl]
  exact detoursIn_none (fun r got h => hr r got ((congrArg Region.off (hregion r)).symm.trans h)) c

/-! ### The multicast watchdog -/

theorem exec_mcStall {i via : Nat} {p : Pkt} (hp : s.net[i]? = some p) (hpos : p.pos = .router c via) (hm : p.mcast = true)
    (hw : 2 ^ s.fld (cellKey c RTR_MC_WDOG) 0 5 ≤ p.waited) (hr : s.mcReady i c p (s.mcOuts c via p) = false) :
    exec (.mcStallWatchdog i) s = .next ((s.destCells p).foldl (fun t e => t.haltPanelOf e 0x36) ((s.replacePkt i []).pktRaise 0x36 c 0 p)) := by
  refine next_congr ?_
  simp only [State.mcStall, hp, hpos, hm, hr, Nat.ble_eq_true_of_le hw, Bool.not_false, Bool.and_self, if_true]

end

/-- Settles O25: the idle flit's acknowledgement is a cut of the retry buffer, a test's outcome writes both ends of the link, and the watchdog's packet
leaves with its record. -/
theorem linksRetryFailAndDetour : Obligations.LinksRetryFailAndDetour := by
  unfold Obligations.LinksRetryFailAndDetour
  refine ⟨?_, ?_, ?_, ?_, ?_, ?_, ?_, ?_⟩
  · intro s c l sb a hg hn ha hx hlim
    refine ⟨_, (exec_nak hg hn hx).trans (next_congr (if_neg (Nat.not_le.2 hlim))), ?_⟩
    rw [← ha]
    refine ⟨congrArg LinkSt.naked (link_setLink_same ..), congrArg LinkSt.refused (link_setLink_same ..),
      (congrArg LinkSt.stopped (link_setLink_same ..)).trans rfl,
      fun hr => ?_, fun pre post hr hp => ?_, fun m hm => by rw [link_setLink, if_neg (by simp [hm])], rfl, rfl,
      cellsBut_setLink (fun _ _ => rfl) _ _⟩
    · rw [link_setLink_same]
      exact if_neg (by simpa using hr)
    · rw [link_setLink_same]
      refine (if_pos ?_).trans (by rw [hr, rest_of_acked hp])
      rw [hr]
      simp
  · intro s c l sb hg hn hx hlim
    obtain ⟨hregs, hnet, herr, -⟩ := bothEnds_keeps (s := s.setLink c l (naked (s.link c l) (bits sb 17 8))) (c := c) (l := l) fun y => { y with stopped := true }
    obtain ⟨hhere, hthere⟩ := link_bothEnds (s := s.setLink c l (naked (s.link c l) (bits sb 17 8))) (c := c) (l := l) (f := fun y => { y with stopped := true })
      (P := fun y => y.stopped = true) fun _ => rfl
    exact ⟨_, (exec_nak hg hn hx).trans (next_congr (if_pos hlim)), hhere, fun e m h => hthere e m ((reverseOf_setLink _).trans h), hregs, hnet, herr⟩
  · intro s c l sb a pre post hg hn ha hx hr hp
    exact ⟨_, exec_ack hg hn ha hx hr hp, link_setLink_same .., fun m hm => by rw [link_setLink, if_neg (by simp [hm])], rfl, rfl,
      cellsBut_setLink (fun _ _ => rfl) _ _, rfl⟩
  · intro s c l sb hg hw
    obtain ⟨hcells, hregs, hpart, hnet⟩ := raiseLimCell_keeps ((s.incSatUn (cellKey c RTR_RETRY_CNT) 0 16 1).rtrLast c 0x30 (s.codeOf c l) 0) 1000000 0x30 c
      (s.codeOf c l) 0
    obtain ⟨hcount, hbut, hlcells, hlnet, -⟩ := counted (c := c) (cls := 0x30) (u := s.codeOf c l) hw (show 0 + 16 ≤ 64 by decide)
    refine ⟨_, exec_idle_bad hg, hcells.trans hlcells, hnet.trans hlnet, ?_,
      regsBut_of_regs hbut hpart hregs⟩
    exact (fld_of_regs hpart hregs _ _ _).trans hcount
  · intro s c l raw hs hp hw
    obtain ⟨hregs, hnet, herr, hpart, hwrote⟩ := bothEnds_keeps (s := s) (c := c) (l := l) fun x => { x with stopped := false, refused := 0 }
    obtain ⟨hhere, hthere⟩ := link_bothEnds (s := s) (c := c) (l := l) (f := fun x => { x with stopped := false, refused := 0 })
      (P := fun y => y.stopped = false ∧ y.refused = 0) fun _ => ⟨rfl, rfl⟩
    obtain ⟨hcount, hbut, hlcells, hlnet, hlerr⟩ := counted (t := s.bothEnds c l fun x => { x with stopped := false, refused := 0 }) (cls := 0x31) (u := l)
      (by rw [State.written, hwrote]; exact hw) (show 16 + 8 ≤ 64 by decide)
    have hlink := link_of_cells hlcells
    refine ⟨restored s c l, exec_loopback_pass hs hp, ?_, ?_, fun e m h => ?_, ?_, ?_, ?_, ?_⟩
    · exact (congrArg LinkSt.stopped (hlink c l)).trans hhere.1
    · exact (congrArg LinkSt.refused (hlink c l)).trans hhere.2
    · exact ⟨(congrArg LinkSt.stopped (hlink e m)).trans (hthere e m h).1, (congrArg LinkSt.refused (hlink e m)).trans (hthere e m h).2⟩
    · rw [← fld_of_regs hpart hregs]
      exact (fld_of_regs (raise_part ..) (raise_regs ..) _ _ _).trans hcount
    · exact regsBut_of_regs (fun k hk => (hbut k hk).trans (reg_of_regs hpart hregs k)) (raise_part ..) (raise_regs ..)
    · exact logs_raise (congrArg Err.recQ (hlerr.trans herr)) ..
    · exact (raise_net ..).trans (hlnet.trans hnet)
  · intro s c raw near far hs hpx hb hn
    obtain ⟨cs, hexec⟩ := exec_loopback_fail (raw := raw) hs hpx hb hn
    obtain ⟨hnet, hnear, hfar⟩ := lostEast_keeps (s := s) hpx near far cs
    obtain ⟨⟨r, hr, hcls, hloc⟩, -⟩ := raiseFor_logs (s := ((((s.failEnd c 0).failEnd (c + 1) 1).failCounts c (c + 1) 0).failFuses c 0 near far).rtrLast c 0x32 0 0)
      (sevOf 0x32) 0x32 (.cell c 0) 0 cs
    exact ⟨_, r, hexec, hnear, hfar, hr, hcls, hloc, hnet⟩
  · intro s c i es e hl he hr
    obtain ⟨hw, hother, hentry⟩ := entries_keeps (c := c) es s 0
    have hcells := StartPhases.within_same hw .cells (by decide)
    refine ⟨_, exec_detour hl hr, ?_, fun l => ?_, fun k hk => ?_, StartPhases.within_same hw .net (by decide), StartPhases.within_same hw .err (by decide),
      cellsBut_setCell (cellsBut_of_cells (fun _ _ => rfl) hcells) _⟩
    · have := hentry i e he
      rwa [Nat.zero_add] at this
    · unfold State.link
      rw [cell_setCell_same]
      exact await_resumed _ l
    · exact hother k fun j _ hj => hk j (by omega)
  · intro s i c via p hp hpos hm hw hr
    obtain ⟨hq, hwithin⟩ := haltPanels_keep 0x36 (s.destCells p) ((s.replacePkt i []).pktRaise 0x36 c 0 p)
    obtain ⟨e, he, hcls, hloc, hstruck⟩ := pktRaise_record (s := s.replacePkt i []) (c := c) (l := 0) 0x36 p
    obtain ⟨-, hnet, -⟩ := pktRaise_keeps (s := s.replacePkt i []) (c := c) (l := 0) 0x36 p
    refine ⟨_, e, exec_mcStall hp hpos hm hw hr, ?_, hq.trans he, hcls, hloc, hstruck⟩
    rw [StartPhases.within_same hwithin .net (by decide), hnet]
    exact List.append_nil _

end Sys2Proof.LinkRetries
end

section
/-! PROOFS. Runs of scratchpad words as MESH-class accesses write and read them (R203-R205). -/

namespace Sys2Proof.MeshRuns

open Sys2Proof Sys2Proof.Machine Sys2Proof.Laws Sys2Proof.Clauses Sys2Proof.Scratchpad Sys2Proof.WordRuns
open Sys2Proof.Machine.State (covered mergeBytes wordsOf lineCount partLines)

variable {s : State} {c off : Nat}

/-! ### Writes -/

/-- A run of whole words that the checks of R154 pass ends within the scratchpad. -/
theorem top_of_spmCheckRun {n port : Nat} {fw : Bool} (ho : off % 8 = 0) (hn : n ≠ 0) (h : s.spmCheckRun c off (8 * n) port fw = none) :
    off + 8 * n ≤ 0x180000 := by
  rw [State.spmCheckRun, wordsOf_whole ho, List.findSome?_eq_none_iff] at h
  have hlast := h (off + 8 * (n - 1)) (List.mem_map.2 ⟨n - 1, List.mem_range.2 (by omega), rfl⟩)
  have := BankOwnership.lt_of_spmCheck (Option.map_eq_none_iff.1 hlast)
  omega

/-- A fold that never clears its flag is a fold of states. -/
theorem foldl_flagged {α : Type} {f : State × Bool → α → State × Bool} {g : State → α → State} {l : List α}
    (h : ∀ t x, x ∈ l → f (t, true) x = (g t x, true)) (t : State) : l.foldl f (t, true) = (l.foldl g t, true) := by
  induction l generalizing t with
  | nil => rfl
  | cons x l ih =>
    rw [List.foldl_cons, List.foldl_cons, h t x List.mem_cons_self]
    exact ih (fun u y hy => h u y (List.mem_cons_of_mem x hy)) _

/-- A write of whole words without poison stores each of them with fresh check bits. -/
theorem meshWrite_whole {n port : Nat} {fw : Bool} {bs : List Byte} (struck : Option Nat) (ho : off % 8 = 0) (hlen : bs.length = 8 * n)
    (h : s.spmCheckRun c off bs.length port fw = none) : ∃ t, s.meshWrite c off bs [] struck = (t, true) ∧
      StoresWords s t c off n (fun j => ofLe ((bs.drop (8 * j)).take 8)) fun j => eccByte (ofLe ((bs.drop (8 * j)).take 8)) := by
  refine ⟨(wordsOf off bs.length).foldl (fun t o => t.writeWord c o (mergeBytes 0 (covered off o bs)))
    (s.act c 1 (lineCount off bs.length + partLines off bs [])), foldl_flagged (fun t o hin => ?_) _, ?_⟩
  · rw [hlen, wordsOf_whole ho] at hin
    obtain ⟨j, hj, rfl⟩ := List.mem_map.1 hin
    rw [List.mem_range] at hj
    have hany : ((covered off (off + 8 * j) bs).any fun p => [].contains ((off + 8 * j + p.1 - off) / 8)) = false := by simp
    simp only [hany, length_covered (Nat.le_add_right off (8 * j)) (show off + 8 * j + 8 ≤ off + bs.length by omega), Bool.false_eq_true, if_false, if_true]
  · rw [hlen] at h ⊢
    cases n with
    | zero => exact StoresWords.act ..
    | succ n =>
      refine storesWords_foldl ho hlen (top_of_spmCheckRun ho (Nat.succ_ne_zero n) h) (.act ..) fun t j hj => ?_
      rw [mergeBytes_whole _ (Nat.le_add_right ..) (by omega), Nat.add_sub_cancel_left]

/-! ### Reads -/

theorem toLe_getElem (n v : Nat) {i : Nat} (hi : i < (toLe n v).length) : (toLe n v)[i] = BitVec.ofNat 8 (v / 256 ^ i) := by
  induction n generalizing v i with
  | zero => exact absurd hi (Nat.not_lt_zero i)
  | succ n ih =>
    cases i with
    | zero => rw [Nat.pow_zero, Nat.div_one]; rfl
    | succ i =>
      rw [Nat.pow_succ', ← Nat.div_div_eq_div_mul]
      exact ih (v / 256) (by simpa [toLe] using hi)

theorem length_bytes (s : State) (k n : Nat) : (s.bytes k n).length = n := by rw [State.bytes, List.length_map, List.length_range]

theorem bytes_add (s : State) (k n m : Nat) : s.bytes k (n + m) = s.bytes k n ++ s.bytes (k + n) m := by
  simp only [State.bytes, List.range_add, List.map_append, List.map_map, Function.comp_def, Nat.add_assoc]

theorem bytes_drop_take (s : State) (k r : Nat) {n m : Nat} (h : r + n ≤ m) : ((s.bytes k m).drop r).take n = s.bytes (k + r) n := by
  obtain ⟨d, rfl⟩ := Nat.exists_eq_add_of_le h
  rw [bytes_add, bytes_add, List.append_assoc, List.drop_left' (length_bytes s k r), List.take_left' (length_bytes ..)]

/-- A word's bytes, low byte first. -/
theorem toLe_wordAt (s : State) (c : Nat) {o : Nat} (ho : o % 8 = 0) : toLe 8 (s.wordAt c o) = s.bytes (spmKey c o) 8 := by
  refine List.ext_getElem (by rw [StartPhases.length_toLe, length_bytes]) fun i hi hj => ?_
  rw [StartPhases.length_toLe] at hi
  have hb := byte_of_wordAt s c ho hi
  rw [toLe_getElem]
  apply BitVec.eq_of_toNat_eq
  rw [BitVec.toNat_ofNat, ← hb]
  simp only [State.bytes, List.getElem_map, List.getElem_range]
  congr 2
  unfold spmKey
  omega

/-- A fold that takes good words takes their bytes. -/
theorem foldl_goodWords {f : State × List Byte × List Nat → Nat → State × List Byte × List Nat}
    (hf : ∀ bs o, judge (s.wordAt c o) (s.chkAt c o) = .good → f (s, bs, []) o = (s, bs ++ toLe 8 (s.wordAt c o), [])) (b k : Nat)
    (hk : ∀ i, i < k → judge (s.wordAt c ((b + i) * 8)) (s.chkAt c ((b + i) * 8)) = .good) :
    ((List.range k).map fun i => (b + i) * 8).foldl f (s, [], []) = (s, s.bytes (spmKey c (b * 8)) (8 * k), []) := by
  induction k with
  | zero => rfl
  | succ k ih =>
    have hkey : spmKey c (b * 8) + 8 * k = spmKey c ((b + k) * 8) := by
      unfold spmKey
      omega
    rw [List.range_succ, List.map_append, List.foldl_append, ih fun i hi => hk i (by omega), List.map_cons, List.map_nil, List.foldl_cons, List.foldl_nil,
      hf _ _ (hk k (Nat.lt_succ_self k)), toLe_wordAt s c (Nat.mul_mod_left _ 8), show 8 * (k + 1) = 8 * k + 8 from rfl, bytes_add, hkey]

/-- A read whose words are good gives their bytes and changes only the region's activity. -/
theorem meshRead_good {n : Nat} (hgood : ∀ j, j < n → judge (s.wordAt c (off + j)) (s.chkAt c (off + j)) = .good) :
    s.meshRead c off n = (s.act c 1 (lineCount off n), s.bytes (spmKey c off) n, []) := by
  unfold State.meshRead wordsOf
  split
  next hz => subst hz; rfl
  next hz =>
    have hall : ∀ i, i < (off + n - 1) / 8 - off / 8 + 1 → judge (s.wordAt c ((off / 8 + i) * 8)) (s.chkAt c ((off / 8 + i) * 8)) = .good := fun i hi => by
      have hj := hgood ((off / 8 + i) * 8 - off) (by omega)
      have hsame : (off + ((off / 8 + i) * 8 - off)) / 8 = (off / 8 + i) * 8 / 8 := by omega
      simpa only [State.wordAt, State.chkAt, spmChkKey, hsame] using hj
    rw [foldl_goodWords (c := c) (fun bs o h => by simp only [BankEngine.readWord_of_good 4 h]) _ _ hall]
    dsimp only
    rw [bytes_drop_take _ _ _ (by omega)]
    congr 3
    unfold spmKey
    omega

end Sys2Proof.MeshRuns
end

section
/-! PROOFS. Requests at the cell they reach (R154, R203-R207, R213, R217). -/

namespace Sys2Proof.MeshRequests

open Sys2Proof Sys2Proof.Machine Sys2Proof.Laws Sys2Proof.Clauses Sys2Proof.MeshRuns Sys2Proof.WordRuns Sys2Proof.Scratchpad
open Sys2Proof.DescriptorQueue (cellsBut_of_cells cell_of_cells)
open Sys2Proof.SyncCounters (routerEcc_keeps cellKey_ne)
open Sys2Proof.PacketRouting (routerEcc_zero net_routerEcc)

variable {s : State} {c : Nat} {p : Pkt}

/-! ### Replies -/

/-- The reply of a cell to the cell that asks. -/
theorem cellReply_sent {o st : Nat} (ho : originCell p.src = some o) (data : List Byte) (pois : List Nat)
    (hs : ¬ (p.ptype = 1 ∧ st = 0 ∧ ¬ p.ackreq = true)) : ∃ r, s.cellReply c p data pois st = { s with net := s.net ++ [r] } ∧
      r.ptype = (if p.ptype = 2 then 3 else 4) ∧ r.tag = p.tag ∧ r.status = st ∧ r.src = p.src ∧ (st = 0 → r.data = data ∧ r.pois = pois) := by
  rw [State.cellReply, if_neg hs]
  simp only [ho]
  exact ⟨_, rfl, rfl, rfl, rfl, rfl, fun h => by subst h; exact ⟨rfl, rfl⟩⟩

/-- The acknowledgement of a write that is not refused. -/
theorem cellReply_ack {o : Nat} (ht : p.ptype = 1) (ho : originCell p.src = some o) : ∃ as, s.cellReply c p [] [] 0 = { s with net := s.net ++ as } ∧
    as.map (fun a => (a.ptype, a.tag, a.status, a.src)) = if p.ackreq = true then [(4, p.tag, 0, p.src)] else [] := by
  by_cases hack : p.ackreq = true
  · obtain ⟨r, hr, htype, htag, hst, hsrc, -⟩ := cellReply_sent (s := s) (c := c) (st := 0) ho [] [] (by simp [hack])
    rw [if_neg (by omega)] at htype
    exact ⟨[r], hr, by rw [if_pos hack, List.map_singleton, htype, htag, hst, hsrc]⟩
  · refine ⟨[], ?_, by rw [if_neg hack]; rfl⟩
    rw [State.cellReply, if_pos ⟨ht, rfl, hack⟩, List.append_nil]

/-- The packet is of the TYPE asked for. -/
theorem type_of_pktOf {i ty : Nat} (h : s.pktOf i ty = some p) : p.ptype = ty := by
  unfold State.pktOf at h
  split at h
  · split_ifs at h with hp
    · cases h
      exact hp.1
  · cases h

/-! ### Writes -/

theorem landWrite_good {off : Nat} {t : State} (hh : s.isHole c = false) (hb : bits p.addr 44 4 = 1) (ho : off = bits p.addr 0 21)
    (hc : s.spmCheckRun c off p.data.length 4 (decide (p.src = .firmware)) = none)
    (hm : s.meshWrite c off p.data p.pois (originCell p.src) = (t, true)) : s.landWrite c p = (t, 0) := by
  subst ho
  simp only [State.landWrite, hh, hb, hc, hm, Bool.false_eq_true, if_false, if_true]

theorem landWrite_refused {off w cls r : Nat} (hh : s.isHole c = false) (hb : bits p.addr 44 4 = 1) (ho : off = bits p.addr 0 21)
    (hc : s.spmCheckRun c off p.data.length 4 (decide (p.src = .firmware)) = some (w, cls, r)) :
    s.landWrite c p = (s.spmRefuse c w 4 p.src (cls, r), 1) := by
  subst ho
  simp only [State.landWrite, hh, hb, hc, Bool.false_eq_true, if_false, if_true]

theorem exec_writeLand {i m ecc st : Nat} {t : State} (hp : s.pktOf i 1 = some p) (hpos : p.pos = .landed c)
    (hl : (s.replacePkt i []).landWrite c p = (t, st)) (hs : ¬ (p.sigf = true ∧ st = 0)) :
    exec (.writePacketLand i m ecc) s = .next (t.cellReply c p [] [] st) := by
  refine next_congr ?_
  simp only [State.writeLand, hp, hpos, hl, if_neg hs]

theorem exec_writeLand_signal {i m ecc : Nat} {t : State} (hp : s.pktOf i 1 = some p) (hpos : p.pos = .landed c)
    (hl : (s.replacePkt i []).landWrite c p = (t, 0)) (hs : p.sigf = true) :
    exec (.writePacketLand i m ecc) s = .next (((t.routerEcc c ecc).applySignal c 1 (t.pktSignal p)).cellReply c p [] [] 0) := by
  refine next_congr ?_
  simp only [State.writeLand, hp, hpos, hl, hs, and_self, if_true]

/-- A refused MESH-class access of a cell: its record and SPM_ERR_LAST. -/
theorem spmRefuse_cell {w port cls r o : Nat} {q : Req} (ho : originCell q = some o) :
    ∃ e, (s.spmRefuse c w port q (cls, r)).err.recQ = s.err.recQ ++ [e] ∧ e.cls = cls ∧ e.loc = .cell c 0 ∧ e.struck = some o ∧
      (s.spmRefuse c w port q (cls, r)).mem = s.mem ∧ (s.spmRefuse c w port q (cls, r)).net = s.net ∧
      s.regsBut (s.spmRefuse c w port q (cls, r)) [cellKey c SPM_ERR_LAST] := by
  have hraised : s.spmRefuse c w port q (cls, r) =
      (s.raise cls (.cell c 0) (r + port * 2 ^ 8 + s.gaOf c w * 2 ^ 16) (originCell q)).setErrLast c w port 0 := by
    cases q <;> first | rfl | cases ho
  generalize r + port * 2 ^ 8 + s.gaOf c w * 2 ^ 16 = d at hraised
  obtain ⟨e, he, hcls, hloc, hstruck⟩ := SyncCounters.raise_record s cls (.cell c 0) d (originCell q)
  rw [hraised]
  simp only [State.setErrLast, setReg_err, setReg_mem, setReg_net, raise_mem, raise_net]
  exact ⟨e, he, hcls, hloc, hstruck.trans ho, trivial, trivial, regsBut_setReg (fun k _ => raise_reg ..) (List.mem_singleton_self _) _⟩

/-! ### Reads -/

theorem exec_readLand {i m off : Nat} (hp : s.pktOf i 2 = some p) (hpos : p.pos = .landed c) (hh : s.isHole c = false) (hb : bits p.addr 44 4 = 1)
    (ho : off = bits p.addr 0 21) (hc : s.spmCheckRun c off p.blen 4 (decide (p.src = .firmware)) = none)
    (hg : ∀ j, j < p.blen → judge (s.wordAt c (off + j)) (s.chkAt c (off + j)) = .good) :
    exec (.readPacket i m) s = .next (((s.replacePkt i []).act c 1 (State.lineCount off p.blen)).cellReply c p (s.bytes (spmKey c off) p.blen) [] 0) := by
  subst ho
  have hread : (s.replacePkt i []).meshRead c (bits p.addr 0 21) p.blen = _ := meshRead_good hg
  have hland : (s.replacePkt i []).landRead c p = ((s.replacePkt i []).act c 1 (State.lineCount (bits p.addr 0 21) p.blen),
      s.bytes (spmKey c (bits p.addr 0 21)) p.blen, [], 0) := by
    have hh' : (s.replacePkt i []).isHole c = false := hh
    have hc' : (s.replacePkt i []).spmCheckRun c (bits p.addr 0 21) p.blen 4 (decide (p.src = .firmware)) = none := hc
    simp only [State.landRead, hh', hb, hc', hread, Bool.false_eq_true, if_false, if_true]
    rfl
  refine next_congr ?_
  simp only [State.readLand, hp, hpos, hland]

/-! ### Multicast writes and signals -/

theorem exec_mcastLand {i ecc off : Nat} {t : State} (hp : s.pktOf i 6 = some p) (hpos : p.pos = .landed c) (ho : off = bits p.addr 0 21)
    (hs : p.sigf = false) (hc : s.spmCheckRun c off p.data.length 4 (decide (p.src = .firmware)) = none)
    (hm : (s.replacePkt i []).meshWrite c off p.data p.pois (originCell p.src) = (t, true)) : exec (.multicastWriteLand i ecc) s = .next t := by
  subst ho
  have hc' : (s.replacePkt i []).spmCheckRun c (bits p.addr 0 21) p.data.length 4 (decide (p.src = .firmware)) = none := hc
  refine next_congr ?_
  simp only [State.mcastLand, hp, hpos, hc', hm, hs, Bool.false_eq_true, false_and, if_false]

/-- Where a cell stands in the canvas is read from no cell's registers. -/
theorem logicalOf_of_regsBut {t : State} {o : Nat} (hpart : t.part = s.part) (h : s.regsBut t [cellKey c o]) (ho : o < 0x50000) (e : Nat) :
    t.logicalOf e = s.logicalOf e := by
  have hread {k : Nat} (hk : k ≠ cellKey c o) : t.reg k = s.reg k := h k (by simpa using hk)
  have hpy : cellPy e < 48 := by unfold cellPy; omega
  have hcanvas : t.reg (ecKey BOOT_CANVAS) = s.reg (ecKey BOOT_CANVAS) := hread (by simp only [ecKey, cellKey, BOOT_CANVAS]; omega)
  have hstate : t.reg (ecKey BOOT_DIE_STATE) = s.reg (ecKey BOOT_DIE_STATE) := hread (by simp only [ecKey, cellKey, BOOT_DIE_STATE]; omega)
  have hskip : t.reg (dieKey (cellDie e) (FUSE_SKIP + 4 * cellPy e)) = s.reg (dieKey (cellDie e) (FUSE_SKIP + 4 * cellPy e)) :=
    hread (by simp only [dieKey, cellKey, FUSE_SKIP]; omega)
  simp only [State.logicalOf, State.canvasValid, State.dieState, State.skipA, State.skipB, State.canvasDc, State.canvasDr, State.fld, hcanvas, hstate, hskip,
    hpart]
  rfl

/-- A record of a router's state changes no signal. -/
theorem pktSignal_routerEcc (e : Nat) : (s.routerEcc c e).pktSignal p = s.pktSignal p := by
  obtain ⟨-, hpart, hregs, -⟩ := routerEcc_keeps s c e
  have hbut : s.regsBut (s.routerEcc c e) [cellKey c RTR_ERR_LAST] := fun k hk => hregs k (by split <;> simp_all)
  have hlogical : (s.routerEcc c e).logicalOf = s.logicalOf := funext fun x => logicalOf_of_regsBut hpart hbut (by decide) x
  rw [State.pktSignal, hlogical]
  rfl

/-- A signal that reaches a cell waits for the cycle's end. -/
theorem exec_signal {i e : Nat} {m : Instr} (h : (s.pktOf i 5 = some p ∧ m = .signalPacket i e ∧ s.isHole c = false) ∨
    (s.pktOf i 7 = some p ∧ m = .multicastSignal i e)) (hpos : p.pos = .landed c) :
    exec m s = .next (((s.replacePkt i []).routerEcc c e).applySignal c 0 (s.pktSignal p)) := by
  have hsignal : (s.replacePkt i []).pktSignal p = s.pktSignal p := rfl
  rcases h with ⟨hp, rfl, hh⟩ | ⟨hp, rfl⟩
  · have hhole : ((s.replacePkt i []).routerEcc c e).isHole c = false := by
      have hw := within_routerEcc (c := c) (ecc := e) (List.Subset.refl _) (within_refl (s.replacePkt i []))
      rw [State.isHole, StartPhases.within_same hw .boot (by decide)]
      exact hh
    refine next_congr ?_
    simp only [State.signalLand, hp, hpos, hh, State.landSignal, hhole, Bool.false_eq_true, if_false, pktSignal_routerEcc, hsignal]
  · refine next_congr ?_
    simp only [State.mcastSignal, hp, hpos, hsignal]

theorem applySignal_cell (late : Nat) (g : Signal) :
    (s.applySignal c late g).cell c = { s.cell c with sigs := (s.cell c).sigs ++ [((s.cell c).rcyc + late, g)] } := cell_setCell_same ..

/-- What a run of words leaves of the state. -/
structure Landed (s t : State) (c off : Nat) (data : List Byte) : Prop where
  byte : ∀ j, j < data.length → some (t.byte (spmKey c (off + j))) = data[j]?
  check : ∀ j, j < data.length / 8 → t.chkAt c (off + 8 * j) = eccByte (t.wordAt c (off + 8 * j))
  other : ∀ k, (∀ j, j < data.length → k ≠ spmKey c (off + j) ∧ k ≠ spmChkKey c (off + j)) → t.byte k = s.byte k
  reach : s.within [.mem, .cells, .regions] t
  cells : s.cellsBut t c
  cell : t.cell c = { s.cell c with scrub := (t.cell c).scrub }

theorem landed_of_storesWords {t : State} {off n : Nat} {bs : List Byte} (ho : off % 8 = 0) (hlen : bs.length = 8 * n)
    (h : StoresWords s t c off n (fun j => ofLe ((bs.drop (8 * j)).take 8)) fun j => eccByte (ofLe ((bs.drop (8 * j)).take 8))) : Landed s t c off bs where
  byte j hj := byte_of_storesWords ho hlen h (hlen ▸ hj)
  check j hj := by
    have hlt : ofLe ((bs.drop (8 * j)).take 8) < 2 ^ 64 := (ofLe_lt _).trans_le (by
      rw [List.length_take]
      exact (Nat.pow_le_pow_right (by decide) (Nat.min_le_left 8 _)).trans (by decide))
    rw [h.check j (by omega), h.word j (by omega), Nat.mod_eq_of_lt hlt, Nat.mod_eq_of_lt (eccByte_lt _)]
  other k hk := h.otherByte k fun i hi => hk i (hlen ▸ hi)
  reach := h.reach
  cells := h.cells
  cell := by
    obtain ⟨m, hm⟩ := h.cell
    rw [hm]

/-- A write of whole words without poison, as it leaves the state. -/
theorem landed_meshWrite {off port : Nat} {fw : Bool} {bs : List Byte} (struck : Option Nat) (ho : off % 8 = 0) (hlen : bs.length % 8 = 0)
    (h : s.spmCheckRun c off bs.length port fw = none) : ∃ t, s.meshWrite c off bs [] struck = (t, true) ∧ Landed s t c off bs := by
  obtain ⟨t, ht, hstores⟩ := meshWrite_whole (n := bs.length / 8) struck ho (by omega) h
  exact ⟨t, ht, landed_of_storesWords ho (by omega) hstores⟩

/-- Settles O26: a write packet of whole words is a run of stores, a refused one its record, and every other request leaves memory as it is. -/
theorem requestsActAtTheirCell : Obligations.RequestsActAtTheirCell := by
  unfold Obligations.RequestsActAtTheirCell
  refine ⟨?_, ?_, ?_, ?_, ?_, ?_, ?_⟩
  · intro s i m ecc c o off p hp hpos hh horg hb ho hal hlen hpois hsig hc
    obtain ⟨t, ht, hl⟩ := landed_meshWrite (s := s.replacePkt i []) (originCell p.src) hal hlen hc
    obtain ⟨as, has, hacks⟩ := cellReply_ack (s := t) (c := c) (type_of_pktOf hp) horg
    have hland := landWrite_good (s := s.replacePkt i []) hh hb ho hc (hpois ▸ ht)
    refine ⟨_, as, (exec_writeLand hp hpos hland (by simp [hsig])).trans (next_congr has), hl.byte, hl.check, hl.other, ?_, hacks,
      StartPhases.within_same hl.reach .regs (by decide), hl.cell, hl.cells, StartPhases.within_same hl.reach .err (by decide)⟩
    rw [← List.append_nil (s.net.eraseIdx i)]
    exact congrArg (· ++ as) (StartPhases.within_same hl.reach .net (by decide))
  · intro s i m c o off p hp hpos hh horg hb ho hal hlen hpois hsig hc
    obtain ⟨t, ht, hl⟩ := landed_meshWrite (s := s.replacePkt i []) (originCell p.src) hal hlen hc
    have hland := landWrite_good (s := s.replacePkt i []) hh hb ho hc (hpois ▸ ht)
    obtain ⟨as, has, -⟩ := cellReply_ack (s := (t.routerEcc c 0).applySignal c 1 (t.pktSignal p)) (c := c) (type_of_pktOf hp) horg
    rw [routerEcc_zero] at has
    have hregs : t.regs = s.regs := StartPhases.within_same hl.reach .regs (by decide)
    have hsame : t.pktSignal p = s.pktSignal p := by
      have hlogical : t.logicalOf = s.logicalOf := funext fun x =>
        logicalOf_of_regsBut (c := 0) (o := 0) hl.reach.1 (fun k _ => reg_of_regs hl.reach.1 hregs k) (by decide) x
      rw [State.pktSignal, hlogical]
      rfl
    have hexec := exec_writeLand_signal (m := m) (ecc := 0) hp hpos hland hsig
    rw [routerEcc_zero, has] at hexec
    refine ⟨_, hexec, ?_, hl.byte, hregs, StartPhases.within_same hl.reach .err (by decide)⟩
    have hsigs : (t.cell c).sigs = (s.cell c).sigs := (congrArg Cell.sigs hl.cell).trans rfl
    have hrcyc : (t.cell c).rcyc = (s.cell c).rcyc := (congrArg Cell.rcyc hl.cell).trans rfl
    refine (congrArg Cell.sigs (applySignal_cell (s := t) (c := c) 1 (t.pktSignal p))).trans ?_
    show (t.cell c).sigs ++ [((t.cell c).rcyc + 1, t.pktSignal p)] = _
    rw [hsigs, hrcyc, hsame]
  · intro s i m ecc c o off w cls r p hp hpos hh horg hb ho hc
    obtain ⟨e, he, hcls, hloc, hstruck, hmem, hnet, hregs⟩ := spmRefuse_cell (s := s.replacePkt i []) (c := c) (w := w) (port := 4) (cls := cls) (r := r) horg
    obtain ⟨a, ha, htype, htag, hst, -⟩ := cellReply_sent (s := (s.replacePkt i []).spmRefuse c w 4 p.src (cls, r)) (c := c) (st := 1) horg [] [] (by simp)
    have hland := landWrite_refused (s := s.replacePkt i []) hh hb ho hc
    rw [if_neg (by rw [type_of_pktOf hp]; decide)] at htype
    refine ⟨_, e, a, (exec_writeLand hp hpos hland (by simp)).trans (next_congr ha), hmem, ?_, htype, htag, hst, he, hcls, hloc, hstruck, hregs⟩
    rw [← List.append_nil (s.net.eraseIdx i)]
    exact congrArg (· ++ [a]) hnet
  · intro s i m c o off p hp hpos hh horg hb ho hc hg
    obtain ⟨a, ha, htype, htag, hst, hsrc, hdata⟩ := cellReply_sent (s := (s.replacePkt i []).act c 1 (State.lineCount off p.blen)) (c := c) (st := 0) horg
      (s.bytes (spmKey c off) p.blen) [] (by simp [type_of_pktOf hp])
    rw [if_pos (type_of_pktOf hp)] at htype
    refine ⟨_, a, (exec_readLand hp hpos hh hb ho hc hg).trans (next_congr ha), ?_, htype, htag, hst, (hdata rfl).1, (hdata rfl).2, hsrc, rfl, rfl, rfl, rfl⟩
    rw [← List.append_nil (s.net.eraseIdx i)]
    rfl
  · intro s i ecc c off p hp hpos ho hal hlen hpois hsig hc
    obtain ⟨t, ht, hl⟩ := landed_meshWrite (s := s.replacePkt i []) (originCell p.src) hal hlen hc
    refine ⟨t, exec_mcastLand hp hpos ho hsig hc (hpois ▸ ht), hl.byte, hl.other, ?_, StartPhases.within_same hl.reach .regs (by decide), hl.cell, hl.cells,
      StartPhases.within_same hl.reach .err (by decide)⟩
    rw [← List.append_nil (s.net.eraseIdx i)]
    exact StartPhases.within_same hl.reach .net (by decide)
  · intro s i c p m h hpos
    have hexec := exec_signal h hpos
    rw [routerEcc_zero] at hexec
    refine ⟨_, hexec, applySignal_cell 0 _, List.append_nil _, rfl, cellsBut_setCell (fun _ _ => rfl) _, rfl, rfl⟩
  · intro s i c p m h hpos
    obtain ⟨hcells, hpart, hregs, -, hlog, -⟩ := routerEcc_keeps (s.replacePkt i []) c 2
    have hcell := cell_of_cells hcells c
    refine ⟨_, exec_signal h hpos, (applySignal_cell 0 _).trans ?_, ?_, hregs, cellsBut_setCell (cellsBut_of_cells (fun _ _ => rfl) hcells) _, hlog rfl⟩
    · rw [hcell]
      rfl
    · exact (net_routerEcc ..).trans (List.append_nil _)

end Sys2Proof.MeshRequests
end

section
/-! PROOFS. The send unit's commands (R208, R209, R223). -/

namespace Sys2Proof.SendUnit

open Sys2Proof Sys2Proof.Machine Sys2Proof.Laws Sys2Proof.Clauses Sys2Proof.MeshRuns Sys2Proof.MeshLinks
open Sys2Proof.CoreWindows (inject_cell dest_act dest_setCell)
open Sys2Proof.SyncCounters (cellKey_ne)
open Sys2Proof.Machine.State (txSend)

variable {s : State} {c op : Nat} {req : Req} {i : Instr} {x : TxCmd}

/-! ### Pushes -/

/-- The state on which a push acts. -/
def atPush (s : State) (c : Nat) (req : Req) : State := s.dropPend req (keyBlock (cellKey c RTR_TX_CMD))

theorem exec_push (h : (i, op) ∈ [(Instr.txPut c req, 1), (.txGet c req, 2), (.txMulticastPut c req, 3)]) :
    exec i s = .next ((atPush s c req).txPush c op req) := by
  simp only [List.mem_cons, Prod.mk.injEq, List.not_mem_nil, or_false] at h
  rcases h with ⟨rfl, rfl⟩ | ⟨rfl, rfl⟩ | ⟨rfl, rfl⟩ <;> rfl

theorem reason_atPush : (atPush s c req).txReason c op = s.txReason c op := rfl

/-- The queue with the staged command at its end. -/
def queued (s : State) (c op : Nat) (req : Req) : State := (atPush s c req).setCell c { s.cell c with tx := (s.cell c).tx ++ [s.txStaged c op] }

theorem bytes_queued (k n : Nat) : (queued s c op req).bytes k n = s.bytes k n := rfl

theorem dest_queued (a l : Nat) : (queued s c op req).dest a l = s.dest a l := rfl

theorem check_queued (off n port : Nat) (fw : Bool) : (queued s c op req).spmCheckRun c off n port fw = s.spmCheckRun c off n port fw := rfl

theorem judge_queued (o : Nat) : judge ((queued s c op req).wordAt c o) ((queued s c op req).chkAt c o) = judge (s.wordAt c o) (s.chkAt c o) := rfl

theorem txPush_behind (hr : s.txReason c op = 0) (htx : (s.cell c).tx ≠ []) : (atPush s c req).txPush c op req = queued s c op req := by
  have hidle : ((atPush s c req).cell c).tx.isEmpty = false := List.isEmpty_eq_false_iff.2 htx
  simp only [State.txPush, reason_atPush, hr, hidle, ne_eq, not_true_eq_false, if_false, Bool.false_eq_true]
  rfl

theorem txPush_idle (hr : s.txReason c op = 0) (htx : (s.cell c).tx = []) : (atPush s c req).txPush c op req = (queued s c op req).txAdvance c := by
  have hidle : ((atPush s c req).cell c).tx.isEmpty = true := List.isEmpty_iff.2 htx
  simp only [State.txPush, reason_atPush, hr, hidle, ne_eq, not_true_eq_false, if_false, if_true]
  rfl

theorem txPush_refused (hr : s.txReason c op ≠ 0) : (atPush s c req).txPush c op req =
    ((((atPush s c req).setFld (cellKey c RTR_TX_STAT) 4 4 (s.txReason c op)).rtrLast c 0x39 0 0).raise 0x39 (.cell c 0) (s.txReason c op) (originCell req)) := by
  simp only [State.txPush, reason_atPush, if_pos hr]

/-- A refused push: its reason, the router's last error and the record. -/
theorem refused_keeps {t : State} {r d : Nat} {o : Option Nat} (hle : r ≤ 6) :
    (((t.setFld (cellKey c RTR_TX_STAT) 4 4 r).rtrLast c 0x39 0 0).raise 0x39 (.cell c 0) d o).fld (cellKey c RTR_TX_STAT) 4 4 = r ∧
      t.regsBut (((t.setFld (cellKey c RTR_TX_STAT) 4 4 r).rtrLast c 0x39 0 0).raise 0x39 (.cell c 0) d o) [cellKey c RTR_TX_STAT, cellKey c RTR_ERR_LAST] ∧
      t.logs (((t.setFld (cellKey c RTR_TX_STAT) 4 4 r).rtrLast c 0x39 0 0).raise 0x39 (.cell c 0) d o) 0x39 (.cell c 0) d ∧
      (((t.setFld (cellKey c RTR_TX_STAT) 4 4 r).rtrLast c 0x39 0 0).raise 0x39 (.cell c 0) d o).cells = t.cells ∧
      (((t.setFld (cellKey c RTR_TX_STAT) 4 4 r).rtrLast c 0x39 0 0).raise 0x39 (.cell c 0) d o).net = t.net ∧
      (((t.setFld (cellKey c RTR_TX_STAT) 4 4 r).rtrLast c 0x39 0 0).raise 0x39 (.cell c 0) d o).mem = t.mem := by
  have hlast : cellKey c RTR_TX_STAT ≠ cellKey c RTR_ERR_LAST := cellKey_ne (by decide)
  have hstat := fld_setFld_same t (k := cellKey c RTR_TX_STAT) (lo := 4) (w := 4) r (by decide)
  obtain ⟨hcells, herr, hnet, -⟩ := rtrLast_keeps (t.setFld (cellKey c RTR_TX_STAT) 4 4 r) c 0 0x39 0
  have hmem : ((t.setFld (cellKey c RTR_TX_STAT) 4 4 r).rtrLast c 0x39 0 0).mem = t.mem := (setReg_mem ..).trans (setFld_mem ..)
  rw [setFld_cells] at hcells
  rw [setFld_err] at herr
  rw [setFld_net] at hnet
  have hregs : t.regsBut ((t.setFld (cellKey c RTR_TX_STAT) 4 4 r).rtrLast c 0x39 0 0) [cellKey c RTR_TX_STAT, cellKey c RTR_ERR_LAST] :=
    regsBut_setReg (regsBut_setFld (regsBut_refl t _) List.mem_cons_self 4 4 r) (List.mem_cons_of_mem _ List.mem_cons_self) _
  have hsame : ((t.setFld (cellKey c RTR_TX_STAT) 4 4 r).rtrLast c 0x39 0 0).fld (cellKey c RTR_TX_STAT) 4 4 = r := by
    rw [State.rtrLast, State.fld, reg_setReg, if_neg hlast]
    exact hstat.trans (Nat.mod_eq_of_lt (by omega))
  generalize (t.setFld (cellKey c RTR_TX_STAT) 4 4 r).rtrLast c 0x39 0 0 = u at herr hregs hsame hcells hnet hmem ⊢
  exact ⟨(fld_of_regs (raise_part ..) (raise_regs ..) _ _ _).trans hsame, regsBut_of_regs hregs (raise_part ..) (raise_regs ..),
    logs_raise (congrArg Err.recQ herr) .., (raise_cells ..).trans hcells, (raise_net ..).trans hnet, (raise_mem ..).trans hmem⟩

theorem txReason_le (s : State) (c op : Nat) : s.txReason c op ≤ 6 := by
  simp only [State.txReason]
  split_ifs <;> decide

theorem tx_queued (htx : (s.cell c).tx = []) : ((queued s c op req).cell c).tx = [s.txStaged c op] := by
  rw [queued, cell_setCell_same, htx]
  rfl

/-! ### The only packet of a command -/

theorem dst_aligned (hr : s.txReason c op = 0) : (s.txStaged c op).dst % 32 = 0 := by
  by_contra hd
  simp only [State.txReason] at hr
  split_ifs at hr with h1 h2
  all_goals exact h2 (.inr hd)

/-- A command of 32 bytes to another cell is one packet. -/
theorem txPieces_one (ha : x.dst % 32 = 0) (hu : x.units = 1) (hb : bits x.dst 44 4 = 1) : txPieces x = [(0, 32)] := by
  have hmin : min 32 (256 - x.dst % 256) = 32 := by omega
  have hpieces : pieces256 x.dst 32 = [(0, 32)] := by
    simp only [pieces256, hmin]
    rfl
  rw [txPieces, TxCmd.len, hu, Nat.mul_one, piecesOf, hpieces, hb]
  rfl

theorem txAdvance_one (htx : (s.cell c).tx = [x]) (hmay : s.txMay c x = true) (hp : txPieces x = [(0, 32)]) (hu : x.units = 1) (hs : x.sent = 0) :
    s.txAdvance c = ((txSend (s, true) c x true (0, 32)).1.setCell c { (txSend (s, true) c x true (0, 32)).1.cell c with
      txAt := ((txSend (s, true) c x true (0, 32)).1.cell c).rcyc + (if x.op = 2 then 1 else 1 + dlenOf 32) }) := by
  have hfind : (txPieces x).find? (fun p => p.1 == x.sent) = some (0, 32) := by rw [hp, hs]; rfl
  have hlast : (x.sent + 32 == x.len) = true := by rw [hs, TxCmd.len, hu]; rfl
  unfold State.txAdvance
  rw [htx]
  simp only [hmay, if_true, hfind, hlast]

/-- The running command once a packet has left. -/
def sentOne (y : TxCmd) (tags : List Nat) : TxCmd := { y with sent := y.sent + 32, waiting := tags ++ y.waiting }

/-- The state once the packet has left: it stands in the router, and the command counts it. -/
def leaves (w : State) (c : Nat) (p : Pkt) (tags : List Nat) : State := { w with net := w.net ++ [p] }.modTx c fun y => sentOne y tags

/-- The send unit is busy until the packet's flits have left. -/
def busy (w : State) (c n : Nat) : State := w.setCell c { w.cell c with txAt := n }

theorem leaves_keeps {w : State} (htx : (w.cell c).tx = [x]) (p : Pkt) (tags : List Nat) (n : Nat) :
    (busy (leaves w c p tags) c n).net = w.net ++ [p] ∧ (busy (leaves w c p tags) c n).regs = w.regs ∧ (busy (leaves w c p tags) c n).mem = w.mem ∧
      (busy (leaves w c p tags) c n).err = w.err ∧ w.cellsBut (busy (leaves w c p tags) c n) c ∧
      ((busy (leaves w c p tags) c n).cell c).tx.map (fun q => (q.sent, q.waiting)) = [(x.sent + 32, tags ++ x.waiting)] := by
  refine ⟨rfl, rfl, rfl, rfl, cellsBut_setCell (cellsBut_setCell (fun _ _ => rfl) _) _, ?_⟩
  have htx' : ((leaves w c p tags).cell c).tx = [sentOne x tags] := by
    rw [leaves, State.modTx, cell_setCell_same]
    show (match (w.cell c).tx with | y :: r => sentOne y tags :: r | [] => []) = _
    rw [htx]
  rw [busy, cell_setCell_same]
  show List.map _ ((leaves w c p tags).cell c).tx = _
  rw [htx']
  rfl

theorem tx_newTag (htx : (s.cell c).tx = [x]) : ((s.newTag c).cell c).tx = [x] := by
  rw [State.newTag, cell_setCell_same]
  exact htx

/-- The command's packet, without data. -/
def packet (s : State) (c : Nat) (x : TxCmd) : Pkt := (s.newTag c).txPacket c x true (0, 32)

theorem addr_packet (s : State) (c : Nat) (x : TxCmd) : (packet s c x).addr = x.dst := Nat.add_zero _

theorem txSend_get {a b : Nat} (hop : x.op = 2) (hd : s.dest x.dst 32 = .cell a b) : txSend (s, true) c x true (0, 32) =
    (leaves (s.newTag c) c { packet s c x with x := a, y := b, pos := .router c 0 } [(packet s c x).tag], true) := by
  have hdest : (s.newTag c).dest (packet s c x).addr (packet s c x).blen = .cell a b := hd
  unfold packet at hdest
  have hsend := inject_cell (c := c) hdest
  simp only [txSend, Bool.not_true, Bool.false_eq_true, if_false, hop, if_true, hsend]
  rfl

/-- What the command's data reads. -/
theorem read_newTag (hg : ∀ j, j < 32 → judge (s.wordAt c (x.src + j)) (s.chkAt c (x.src + j)) = .good) : (s.newTag c).meshRead c (x.src + 0) 32 =
    ((s.newTag c).act c 1 (State.lineCount x.src 32), s.bytes (spmKey c x.src) 32, []) := meshRead_good (s := s.newTag c) hg

theorem txSend_put {a b : Nat} (hop : x.op = 1) (hd : s.dest x.dst 32 = .cell a b) (hc : s.spmCheckRun c x.src 32 4 false = none)
    (hg : ∀ j, j < 32 → judge (s.wordAt c (x.src + j)) (s.chkAt c (x.src + j)) = .good) {data : List Byte}
    (hdata : data = s.bytes (spmKey c x.src) 32) : txSend (s, true) c x true (0, 32) =
    (leaves ((s.newTag c).act c 1 (State.lineCount x.src 32)) c
      { packet s c x with data := data, pois := [], x := a, y := b, pos := .router c 0 } [(packet s c x).tag], true) := by
  subst hdata
  have hcheck : (s.newTag c).spmCheckRun c (x.src + 0) 32 4 false = none := hc
  have hdest : ((s.newTag c).act c 1 (State.lineCount x.src 32)).dest (packet s c x).addr (packet s c x).blen = .cell a b := hd
  unfold packet at hdest
  have hsend := inject_cell (c := c) (p := { packet s c x with data := s.bytes (spmKey c x.src) 32, pois := [] }) hdest
  unfold packet at hsend
  simp only [txSend, Bool.not_true, Bool.false_eq_true, if_false, hop, hcheck, read_newTag hg, hsend, show ¬ (1 = 2) by decide, show ¬ (1 = 3) by decide]
  rfl

theorem txSend_multicast {a b : Nat} (hop : x.op = 3) (hd : s.dest x.dst 32 = .cell a b) (hc : s.spmCheckRun c x.src 32 4 false = none)
    (hg : ∀ j, j < 32 → judge (s.wordAt c (x.src + j)) (s.chkAt c (x.src + j)) = .good) {data : List Byte}
    (hdata : data = s.bytes (spmKey c x.src) 32) : txSend (s, true) c x true (0, 32) =
    (leaves ((s.newTag c).act c 1 (State.lineCount x.src 32)) c
      { packet s c x with data := data, pois := [], x := bits x.dst 36 8, y := bits x.dst 29 7, x1 := x.x1, y1 := x.y1 } [], true) := by
  subst hdata
  have hcheck : (s.newTag c).spmCheckRun c (x.src + 0) 32 4 false = none := hc
  have hdest : (s.newTag c).dest (packet s c x).addr (packet s c x).blen = .cell a b := hd
  unfold packet at hdest
  simp only [txSend, Bool.not_true, Bool.false_eq_true, if_false, hop, hcheck, read_newTag hg, hdest, show ¬ (3 = 2) by decide, if_true]
  rfl

theorem cellsBut_trans {t u : State} (h : s.cellsBut t c) (h' : t.cellsBut u c) : s.cellsBut u c := fun e he => (h' e he).trans (h e he)

theorem cellsBut_queued (s : State) : s.cellsBut ((queued s c op req).newTag c) c := cellsBut_setCell (cellsBut_setCell (fun _ _ => rfl) _) _

theorem txMay_queued (s : State) (c op : Nat) (req : Req) (x : TxCmd) : (queued s c op req).txMay c x = s.txMay c x := by
  have hcell : (queued s c op req).cell c = { s.cell c with tx := (s.cell c).tx ++ [s.txStaged c op] } := cell_setCell_same ..
  rw [State.txMay, hcell]
  rfl

/-- A pushed command of one packet starts at once. -/
theorem exec_start (h : (i, op) ∈ [(Instr.txPut c req, 1), (.txGet c req, 2), (.txMulticastPut c req, 3)]) (hr : s.txReason c op = 0)
    (htx : (s.cell c).tx = []) (hmay : s.txMay c (s.txStaged c op) = true) (hu : (s.txStaged c op).units = 1) (hb : bits (s.txStaged c op).dst 44 4 = 1)
    {v : State} (hv : txSend (queued s c op req, true) c (s.txStaged c op) true (0, 32) = (v, true)) : ∃ n, exec i s = .next (busy v c n) := by
  have hone := txAdvance_one (tx_queued (op := op) (req := req) htx) ((txMay_queued s c op req _).trans hmay) (txPieces_one (dst_aligned hr) hu hb) hu rfl
  rw [hv] at hone
  exact ⟨_, (exec_push h).trans (next_congr ((txPush_idle hr htx).trans hone))⟩

/-! ### Completion -/

/-- The state once the only command is complete. -/
def completed (s : State) (c n : Nat) : State :=
  (s.setCell c { s.cell c with tx := [], txFreed := ((s.cell c).rcyc + 1, n) }).incWrap (cellKey c RTR_TX_STAT) 8 24 1

theorem tx_completed (n : Nat) : ((completed s c n).cell c).tx = [] := by
  rw [completed, incWrap_cell, cell_setCell_same]

theorem exec_complete {ecc : Nat} (htx : (s.cell c).tx = [x]) (hp : s.corePulse c = true) (hd : s.txDone c x = true) (hs : bit x.sig.toNat 17 = false) :
    ∃ n, exec (.txCommandComplete c ecc) s = .next (completed s c n) := by
  refine ⟨(if (s.cell c).txFreed.1 = (s.cell c).rcyc + 1 then (s.cell c).txFreed.2 else 0) + 1, next_congr ?_⟩
  have hstart (n : Nat) : (completed s c n).txStart c = completed s c n := by
    unfold State.txStart State.txAdvance
    rw [tx_completed]
  unfold State.txComplete
  rw [htx]
  simp only [hp, hd, hs, and_self, if_true, Bool.false_eq_true, if_false]
  exact hstart _

/-- Settles O28: a push of 32 bytes to another cell is one packet, whose data a good run of words gives; other pushes wait or are refused. -/
theorem sendUnitRunsCommands : Obligations.SendUnitRunsCommands := by
  unfold Obligations.SendUnitRunsCommands
  refine ⟨?_, ?_, ?_, ?_, ?_⟩
  · intro s c op req i h hr htx
    exact ⟨_, (exec_push h).trans (next_congr (txPush_behind hr htx)), congrArg Cell.tx (cell_setCell_same ..), rfl, rfl, rfl, rfl,
      cellsBut_setCell (fun _ _ => rfl) _⟩
  · intro s c op req i h hr
    obtain ⟨hfld, hregs, hlog, hcells, hnet, hmem⟩ := refused_keeps (c := c) (t := atPush s c req) (d := s.txReason c op) (o := originCell req) (txReason_le s c op)
    exact ⟨_, (exec_push h).trans (next_congr (txPush_refused hr)), hcells, hnet, hmem, hfld, hregs, hlog⟩
  · intro s c op a b req i h hr htx hmay hu hb hd hc hg
    simp only [List.mem_cons, Prod.mk.injEq, List.not_mem_nil, or_false] at h
    rcases h with ⟨rfl, rfl⟩ | ⟨rfl, rfl⟩
    · obtain ⟨n, hexec⟩ := exec_start (i := .txPut c req) (by simp) hr htx hmay hu hb (txSend_put (s := queued s c 1 req) rfl ((dest_queued ..).trans hd) ((check_queued ..).trans hc)
          (fun j hj => (judge_queued _).trans (hg j hj)) (bytes_queued ..).symm)
      obtain ⟨hnet, hregs, hmem, herr, hcells, hcmd⟩ := leaves_keeps (w := ((queued s c 1 req).newTag c).act c 1 (State.lineCount (s.txStaged c 1).src 32))
        (tx_newTag (tx_queued htx)) { packet (queued s c 1 req) c (s.txStaged c 1) with
          data := s.bytes (spmKey c (s.txStaged c 1).src) 32, pois := [], x := a, y := b, pos := .router c 0 }
        [(packet (queued s c 1 req) c (s.txStaged c 1)).tag] n
      exact ⟨_, _, hexec, hnet, rfl, addr_packet (queued s c 1 req) c _, rfl, rfl, rfl, fun _ => ⟨rfl, rfl⟩, fun h => absurd h (by decide), hcmd, hregs, hmem, herr,
        cellsBut_trans (cellsBut_queued s) hcells⟩
    · obtain ⟨n, hexec⟩ := exec_start (i := .txMulticastPut c req) (by simp) hr htx hmay hu hb
        (txSend_multicast (s := queued s c 3 req) rfl ((dest_queued ..).trans hd) ((check_queued ..).trans hc)
          (fun j hj => (judge_queued _).trans (hg j hj)) (bytes_queued ..).symm)
      obtain ⟨hnet, hregs, hmem, herr, hcells, hcmd⟩ := leaves_keeps (w := ((queued s c 3 req).newTag c).act c 1 (State.lineCount (s.txStaged c 3).src 32))
        (tx_newTag (tx_queued htx)) { packet (queued s c 3 req) c (s.txStaged c 3) with
          data := s.bytes (spmKey c (s.txStaged c 3).src) 32, pois := [], x := bits (s.txStaged c 3).dst 36 8, y := bits (s.txStaged c 3).dst 29 7,
          x1 := (s.txStaged c 3).x1, y1 := (s.txStaged c 3).y1 } [] n
      exact ⟨_, _, hexec, hnet, rfl, addr_packet (queued s c 3 req) c _, rfl, rfl, rfl, fun h => absurd h (by decide), fun _ => ⟨rfl, rfl⟩, hcmd, hregs, hmem, herr,
        cellsBut_trans (cellsBut_queued s) hcells⟩
  · intro s c a b req hr htx hmay hu hb hd
    obtain ⟨n, hexec⟩ := exec_start (i := .txGet c req) (by simp) hr htx hmay hu hb (txSend_get (s := queued s c 2 req) rfl ((dest_queued ..).trans hd))
    obtain ⟨hnet, hregs, hmem, herr, hcells, hcmd⟩ := leaves_keeps (w := (queued s c 2 req).newTag c) (tx_newTag (tx_queued htx))
      { packet (queued s c 2 req) c (s.txStaged c 2) with x := a, y := b, pos := .router c 0 } [(packet (queued s c 2 req) c (s.txStaged c 2)).tag] n
    exact ⟨_, _, hexec, hnet, rfl, rfl, addr_packet (queued s c 2 req) c _, rfl, rfl, rfl, hcmd, hregs, hmem, herr, cellsBut_trans (cellsBut_queued s) hcells⟩
  · intro s c ecc x htx hp hd hs
    obtain ⟨n, hexec⟩ := exec_complete (ecc := ecc) htx hp hd hs
    refine ⟨_, hexec, tx_completed n, fld_incWrap_same _ _ (by decide), ?_, rfl, rfl, cellsBut_setCell (fun _ _ => rfl) _⟩
    exact fun k hk => reg_incWrap_other _ _ _ _ (by simpa using hk)

end Sys2Proof.SendUnit
end

section
/-! PROOFS. What events to the host and the fabric's bookkeeping leave of the registers (R247, R293, R295, R332). -/

namespace Sys2Proof.Bookkeeping

open Sys2Proof Sys2Proof.Machine Sys2Proof.Laws Sys2Proof.Clauses
open Sys2Proof.Machine.State (pcieKey)

/-- A register that no event ring and no submit queue writes. -/
def quiet (k : Nat) : Prop := k % 0x1000000 ≠ FAB_SUBMIT_STAT ∧ k % 0x1000000 ≠ PCIE_EVQ_STAT ∧ k % 0x1000000 ≠ PCIE_EVQ_PI

/-- A register of a cell. -/
theorem quiet_cellKey {c o : Nat} (ho : o < 0x50000) : quiet (cellKey c o) := by
  simp only [quiet, cellKey, FAB_SUBMIT_STAT, PCIE_EVQ_STAT, PCIE_EVQ_PI]
  omega

theorem quiet_ecKey {o : Nat} (ho : o < 0x1000000) (hf : o ≠ FAB_SUBMIT_STAT) (hs : o ≠ PCIE_EVQ_STAT) (hp : o ≠ PCIE_EVQ_PI) : quiet (ecKey o) := by
  simp only [quiet, ecKey, Nat.mod_eq_of_lt ho]
  exact ⟨hf, hs, hp⟩

theorem quiet_skip (d : Nat) {py : Nat} (hpy : py < 48) : quiet (dieKey d (FUSE_SKIP + 4 * py)) := by
  simp only [quiet, dieKey, FUSE_SKIP, FAB_SUBMIT_STAT, PCIE_EVQ_STAT, PCIE_EVQ_PI]
  omega

/-- `t` comes from `s` by bookkeeping: only registers of event rings and submit queues are written. -/
structure Booked (s t : State) : Prop where
  part : t.part = s.part
  reg : ∀ k, quiet k → t.reg k = s.reg k

namespace Booked

variable {s t u : State}

theorem refl (s : State) : Booked s s := ⟨rfl, fun _ _ => rfl⟩

theorem trans (h : Booked s t) (g : Booked t u) : Booked s u := ⟨g.part.trans h.part, fun k hk => (g.reg k hk).trans (h.reg k hk)⟩

theorem fld (h : Booked s t) {k : Nat} (hk : quiet k) (lo w : Nat) : t.fld k lo w = s.fld k lo w := by
  rw [State.fld, h.reg k hk]
  rfl

theorem of_eq (h : Booked s t) (hp : u.part = t.part) (hr : u.regs = t.regs) : Booked s u := h.trans ⟨hp, fun k _ => reg_of_regs hp hr k⟩

theorem of_within {w : List Comp} (h : Booked s t) (hw : t.within w u) (hr : .regs ∉ w) : Booked s u :=
  h.of_eq hw.1 (StartPhases.within_same hw .regs hr)

theorem setReg (h : Booked s t) {k : Nat} (hk : ¬ quiet k) (v : DWord) : Booked s (t.setReg k v) :=
  h.trans ⟨rfl, fun j hj => by
    rw [reg_setReg, if_neg]
    rintro rfl
    exact hk hj⟩

theorem foldl {α : Type} {f : State → α → State} (hf : ∀ u x, Booked s u → Booked s (f u x)) (l : List α) (h : Booked s t) : Booked s (l.foldl f t) := by
  induction l generalizing t with
  | nil => exact h
  | cons x l ih => exact ih (hf t x h)

/-! ### The host's events -/

theorem evqPut (h : Booked s t) (p k : Nat) (b : List Byte) : Booked s (t.evqPut p k b) := by
  have hk : ¬ quiet (pcieKey p PCIE_EVQ_PI) := fun hq => hq.2.2 (by simp only [pcieKey, dieKey, PCIE_EVQ_PI]; omega)
  unfold State.evqPut State.incWrap
  refine setReg (of_within h (w := [.mem, .out, .hports]) ?_ (by decide)) hk _
  exact within_setHport (by decide) (within_hostStore (by decide) (within_refl t))

theorem evqLoss (h : Booked s t) (p : Nat) : Booked s (t.evqLoss p) := by
  unfold State.evqLoss
  split
  · refine evqPut ?_ ..
    exact of_eq h (setHport_part ..) (setHport_regs ..)
  · exact h

theorem evqWrite (h : Booked s t) (p k : Nat) (b : List Byte) : Booked s (t.evqWrite p k b) := by
  have hk : ¬ quiet (pcieKey p PCIE_EVQ_STAT) := fun hq => hq.2.1 (by simp only [pcieKey, dieKey, PCIE_EVQ_STAT]; omega)
  unfold State.evqWrite
  dsimp only
  split
  · exact h
  · split
    · exact evqPut (evqLoss h p) ..
    · exact of_eq (setReg (evqLoss h p) hk _) (setHport_part ..) (setHport_regs ..)

theorem event (h : Booked s t) (k : Nat) (b : List Byte) : Booked s (t.event k b) := foldl (fun _ p hu => hu.evqWrite p k b) _ h

theorem raiseAll (h : Booked s t) (v : Nat) : Booked s (t.raiseAll v) :=
  h.of_within (within_raiseAll (List.Subset.refl _) (within_refl t)) (by decide)

theorem setJobState (h : Booked s t) (id st : Nat) : Booked s (t.setJobState id st) := by
  unfold State.setJobState
  split
  · split
    · exact h
    · refine raiseAll (event ?_ _ _) _
      exact of_eq h rfl rfl
  · exact h

/-! ### The fabric's contexts -/

theorem submitNow (h : Booked s t) (req : Req) (d : Nat) (c : BitVec 256) : Booked s (t.submitNow req d c).1 := by
  have hk : ¬ quiet (dieKey d FAB_SUBMIT_STAT) := fun hq => hq.1 (by simp only [dieKey, FAB_SUBMIT_STAT]; omega)
  unfold State.submitNow
  dsimp only
  split
  · exact of_eq (setReg h hk _) (raise_part ..) (raise_regs ..)
  · exact of_eq h rfl rfl

theorem fabAdmit (h : Booked s t) (d : Nat) : Booked s (t.fabAdmit d) := by
  refine foldl (fun u e hu => ?_) _ h
  dsimp only
  split
  · exact hu
  · refine of_eq (t := (State.submitNow { u with fabWait := u.fabWait.erase e } e.2.req d e.2.cmd).1) (submitNow ?_ ..) rfl rfl
    exact of_eq hu rfl rfl

theorem fabAdmitAll (h : Booked s t) : Booked s t.fabAdmitAll := foldl (fun _ d hu => hu.fabAdmit d) _ h

theorem quietFail (h : Booked s t) (q : Nat) : Booked s (t.quietFail q) :=
  h.of_within (within_quietFail (List.Subset.refl _) (within_refl t)) (by decide)

/-- A context's waiting commands and tags go. -/
theorem quietFailed {x : State → Ctx} (h : Booked s t) (q : Nat) :
    Booked s ((({ t with fabQ := t.fabQ.filter fun e => cQueue e.2.cmd != q } : State).quietFail q).setCtx q
      (x (({ t with fabQ := t.fabQ.filter fun e => cQueue e.2.cmd != q } : State).quietFail q))) := by
  refine of_eq (quietFail ?_ q) (setCtx_part ..) (setCtx_regs ..)
  exact of_eq h rfl rfl

theorem haltCtxs (h : Booked s t) (id : Nat) : Booked s (t.haltCtxs id) :=
  fabAdmitAll (foldl (fun _ q hu => quietFailed (x := fun v => { v.ctx q with state := 3 }) hu q) _ h)

theorem freeJobCtxs (h : Booked s t) (id : Nat) : Booked s (t.freeJobCtxs id) :=
  fabAdmitAll (foldl (fun _ q hu => quietFailed (x := fun _ => Ctx.reset) hu q) _ h)

/-! ### The events of loads -/

theorem loadEvent (h : Booked s t) : Booked s t.loadEvent :=
  raiseAll (event (h.of_within (within_ringLoadEnd (List.Subset.refl _) (within_refl t)) (by decide)) ..) _

end Booked

/-! ### The canvas -/

variable {s t : State}

/-- The registers that the canvas is read from read as before. -/
structure SameCanvas (s t : State) : Prop where
  part : t.part = s.part
  canvas : t.reg (ecKey BOOT_CANVAS) = s.reg (ecKey BOOT_CANVAS)
  dies : t.reg (ecKey BOOT_DIE_STATE) = s.reg (ecKey BOOT_DIE_STATE)
  skip : ∀ d py, py < 48 → t.reg (dieKey d (FUSE_SKIP + 4 * py)) = s.reg (dieKey d (FUSE_SKIP + 4 * py))

namespace SameCanvas

theorem trans {u : State} (h : SameCanvas s t) (g : SameCanvas t u) : SameCanvas s u :=
  ⟨g.part.trans h.part, g.canvas.trans h.canvas, g.dies.trans h.dies, fun d py hpy => (g.skip d py hpy).trans (h.skip d py hpy)⟩

theorem of_booked (h : Booked s t) : SameCanvas s t where
  part := h.part
  canvas := h.reg _ (quiet_ecKey (by decide) (by decide) (by decide) (by decide))
  dies := h.reg _ (quiet_ecKey (by decide) (by decide) (by decide) (by decide))
  skip d py hpy := h.reg _ (quiet_skip d hpy)

theorem of_eq (hp : t.part = s.part) (hr : t.regs = s.regs) : SameCanvas s t := of_booked ((Booked.refl s).of_eq hp hr)

/-- Registers of cells hold nothing of the canvas. -/
theorem of_cellRegs (hp : t.part = s.part) (hr : ∀ k, (∀ c o, o < 0x50000 → k ≠ cellKey c o) → t.reg k = s.reg k) : SameCanvas s t where
  part := hp
  canvas := hr _ fun c o ho => by simp only [ecKey, cellKey, BOOT_CANVAS]; omega
  dies := hr _ fun c o ho => by simp only [ecKey, cellKey, BOOT_DIE_STATE]; omega
  skip d py hpy := hr _ fun c o ho => by simp only [dieKey, cellKey, FUSE_SKIP]; omega

theorem physicalOf (h : SameCanvas s t) (x y : Nat) : t.physicalOf x y = s.physicalOf x y := by
  have hskip (d : Nat) : t.reg (dieKey d (FUSE_SKIP + 4 * (y % 48))) = s.reg (dieKey d (FUSE_SKIP + 4 * (y % 48))) :=
    h.skip d _ (Nat.mod_lt _ (by decide))
  simp only [State.physicalOf, State.canvasValid, State.canvasW, State.canvasH, State.canvasDc, State.canvasDr, State.skipA, State.skipB, State.fld,
    h.canvas, hskip, h.part]
  rfl

theorem logicalOf (h : SameCanvas s t) (c : Nat) : t.logicalOf c = s.logicalOf c := by
  have hskip := h.skip (cellDie c) (cellPy c) (by unfold cellPy; omega)
  simp only [State.logicalOf, State.canvasValid, State.dieState, State.skipA, State.skipB, State.canvasDc, State.canvasDr, State.fld, h.canvas, h.dies,
    hskip, h.part]
  rfl

theorem panelCells (h : SameCanvas s t) (p : Panel) : t.panelCells p = s.panelCells p := by
  unfold State.panelCells
  simp only [h.physicalOf]

theorem jobCells (h : SameCanvas s t) (hp : t.panels = s.panels) (id : Nat) : t.jobCells id = s.jobCells id := by
  unfold State.jobCells
  rw [hp]
  exact congrArg (fun f => List.flatMap f _) (funext h.panelCells)

end SameCanvas

end Sys2Proof.Bookkeeping
end

section
/-! PROOFS. The halt of a panel meets a fabric command that waited (R179, R293, R295, R429). -/

namespace Sys2Proof.PanelHalts

open Sys2Proof Sys2Proof.Machine

/-- Job 5 runs on the panel of cell 0, which is to be halted, while a malformed fabric command of the cell's core waits for room. -/
def waiting : State :=
  { State.reset with
    regs := [(ecKey BOOT_CANVAS, BitVec.ofNat 64 (46 + 48 * 2 ^ 8 + 2 ^ 22)), (ecKey BOOT_DIE_STATE, 1)]
    jobs := [{ id := 5, state := 3, step := 0, gbase := 0, glen := 0, testslot := false, starts := [], ctxs := [] }]
    panels := [{ id := 1, parent := 0xFFFF, x0 := 0, y0 := 0, w := 1, h := 1, job := 5, ballast := false }]
    err := { State.reset.err with haltQ := [⟨0, 0x2C, 1, 5, false⟩] }
    fabWait := [(0, { cmd := 0, req := .core 0 .head })] }

/-- The waiting command is admitted as the job's contexts stop, and its refusal asks for a halt in turn. -/
theorem halts_again : waiting.panelHalt.err.haltQ.length = 1 := by decide +kernel

/-- Refutes O29 in its clause on a halt that is settled at once, which leaves the other halt requests alone. As the halted job's contexts stop,
a command that waited for room in the submit queue is judged; it is malformed, and its record of class 0x54 strikes the panel of the core that
pushed it, so that one more request stands in the queue. -/
theorem not_haltsStopTheWholeJob : ¬ Obligations.HaltsStopTheWholeJob := by
  intro h
  obtain ⟨-, -, atOnce, -⟩ := h
  obtain ⟨t, x, next, queue, -⟩ := atOnce waiting ⟨0, 0x2C, 1, 5, false⟩ [] _ rfl rfl (by decide +kernel) rfl (by decide) (by decide)
  cases next
  have hlen := halts_again
  rw [queue] at hlen
  exact absurd hlen (by decide)

end Sys2Proof.PanelHalts
end

section
/-! PROOFS. What stopping a core reaches: the core itself, its cell's memory and registers (R166, R182). -/

namespace Sys2Proof.CoreStops

open Sys2Proof Sys2Proof.Machine Sys2Proof.Laws Sys2Proof.Clauses Sys2Proof.CoreSteps Sys2Proof.Bookkeeping
open Sys2Proof.DescriptorQueue (cellsBut_of_cells cell_of_cells)
open Sys2Proof.Machine.State (coreKey corePort mbBytes mergeBytes)

/-- The units of a cell that hold its cores back are the same. -/
structure SameHold (x y : Cell) : Prop where
  held : y.held = x.held
  running : y.running = x.running
  mxe : y.mxe = x.mxe
  cyc : y.cyc = x.cyc

/-- `t` comes from `s` by work of one core of a cell: the cell's registers and memory, this core and what its faults queue. -/
structure OnCore (s t : State) (c : Nat) (k : CoreSel) : Prop where
  reach : s.within [.regs, .mem, .cells, .regions, .err] t
  reg : ∀ j, (∀ o, o < 0x50000 → j ≠ cellKey c o) → t.reg j = s.reg j
  cells : s.cellsBut t c
  cores : s.coresBut t c k
  hold : SameHold (s.cell c) (t.cell c)

namespace OnCore

variable {s t u : State} {c : Nat} {k : CoreSel}

theorem refl (s : State) (c : Nat) (k : CoreSel) : OnCore s s c k :=
  ⟨within_refl s, fun _ _ => rfl, fun _ _ => rfl, fun _ _ _ => rfl, ⟨rfl, rfl, rfl, rfl⟩⟩

theorem trans (h : OnCore s t c k) (g : OnCore t u c k) : OnCore s u c k where
  reach := within_trans h.reach g.reach
  reg j hj := (g.reg j hj).trans (h.reg j hj)
  cells e he := (g.cells e he).trans (h.cells e he)
  cores d q hd := (g.cores d q hd).trans (h.cores d q hd)
  hold := ⟨g.hold.held.trans h.hold.held, g.hold.running.trans h.hold.running, g.hold.mxe.trans h.hold.mxe, g.hold.cyc.trans h.hold.cyc⟩

/-- Work that leaves the cells and the registers alone. -/
theorem of_cells (h : OnCore s t c k) (hw : t.within [.mem, .regions, .err] u) : OnCore s u c k :=
  h.trans
    { reach := within_mono hw (by decide)
      reg := fun j _ => reg_of_regs hw.1 (StartPhases.within_same hw .regs (by decide)) j
      cells := cellsBut_of_cells (fun _ _ => rfl) (StartPhases.within_same hw .cells (by decide))
      cores := coresBut_of_cells (fun _ _ _ => rfl) (StartPhases.within_same hw .cells (by decide))
      hold := by rw [cell_of_cells (StartPhases.within_same hw .cells (by decide))]; exact ⟨rfl, rfl, rfl, rfl⟩ }

theorem setReg (h : OnCore s t c k) {o : Nat} (ho : o < 0x50000) (v : DWord) : OnCore s (t.setReg (cellKey c o) v) c k :=
  h.trans
    { reach := within_setReg (by decide) (within_refl t)
      reg := fun j hj => by rw [reg_setReg, if_neg (hj o ho)]
      cells := fun _ _ => rfl
      cores := fun _ _ _ => rfl
      hold := ⟨rfl, rfl, rfl, rfl⟩ }

theorem setCoreReg (h : OnCore s t c k) {o : Nat} (ho : o < 0x4F000) (v : DWord) : OnCore s (t.setReg (coreKey c k o) v) c k :=
  h.setReg (by cases k <;> simp only <;> omega) v

/-- A change of the cell beside its cores and what holds them. -/
theorem setCell (h : OnCore s t c k) {x : Cell} (hh : x.head = (t.cell c).head) (ht : x.tail = (t.cell c).tail) (hold : SameHold (t.cell c) x) :
    OnCore s (t.setCell c x) c k :=
  h.trans
    { reach := within_setCell (by decide) (within_refl t)
      reg := fun _ _ => rfl
      cells := cellsBut_setCell (fun _ _ => rfl) x
      cores := fun d q _ => by
        unfold State.core
        by_cases hd : d = c
        · subst hd
          rw [cell_setCell_same]
          cases q
          · exact hh
          · exact ht
        · rw [cell_setCell, if_neg hd]
      hold := by rw [cell_setCell_same]; exact hold }

theorem setCore (h : OnCore s t c k) (x : CoreSt) : OnCore s (t.setCore c k x) c k :=
  h.trans
    { reach := within_setCore (by decide) (within_refl t)
      reg := fun _ _ => setCore_reg ..
      cells := fun e he => cell_setCore_other _ _ _ _ he
      cores := coresBut_setCore (fun _ _ _ => rfl) x
      hold := by cases k <;> (rw [State.setCore, cell_setCell_same]; exact ⟨rfl, rfl, rfl, rfl⟩) }

theorem raise (h : OnCore s t c k) (cls : Nat) (loc : Loc) (d : Nat) (struck : Option Nat) : OnCore s (t.raise cls loc d struck) c k :=
  h.of_cells (within_raise (by decide) (within_refl t))

theorem stopCore (h : OnCore s t c k) (st : Nat) : OnCore s (t.stopCore c k st) c k := (h.setCore _).setCoreReg (by decide) _

theorem busStop (h : OnCore s t c k) (cause pc val : Nat) : OnCore s (t.busStop c k cause pc val) c k :=
  (((h.setCoreReg (by decide) _).setCoreReg (by decide) _).setCoreReg (by decide) _).stopCore 3

theorem putWord (h : OnCore s t c k) (o w chk : Nat) : OnCore s (t.putWord c o w chk) c k := by
  unfold State.putWord
  refine of_cells ?_ (within_setByte (by decide) (within_setBytes (by decide) (within_refl _)))
  rcases Scratchpad.scrubDrop_eq t c o with hd | ⟨m, hd⟩ <;> rw [hd]
  · exact h
  · exact h.setCell rfl rfl ⟨rfl, rfl, rfl, rfl⟩

theorem queueTest (h : OnCore s t c k) (unit sn word : Nat) : OnCore s (t.queueTest c unit sn word) c k := by
  unfold State.queueTest
  exact iteInduction (motive := fun u => OnCore s u c k) (fun _ => h) fun _ => h.setCell rfl rfl ⟨rfl, rfl, rfl, rfl⟩

theorem incSatUn (h : OnCore s t c k) {o : Nat} (ho : o < 0x50000) (lo w n : Nat) : OnCore s (t.incSatUn (cellKey c o) lo w n) c k := by
  unfold State.incSatUn
  split
  · exact h
  · exact h.setReg ho _

theorem correction (h : OnCore s t c k) (o port syn : Nat) : OnCore s (t.correction c o port syn) c k := by
  unfold State.correction State.setErrLast
  refine setReg (of_cells ?_ (within_raiseLim (List.subset_cons_of_subset _ (List.subset_cons_self ..)) (within_refl _))) (o := SPM_ERR_LAST) (by decide) _
  refine incSatUn (o := SPM_ECC_CNT) ?_ (by decide) ..
  refine setCell ?_ rfl rfl ⟨rfl, rfl, rfl, rfl⟩
  split
  · exact h.queueTest ..
  · exact h

theorem readWord (h : OnCore s t c k) (o port : Nat) : OnCore s (t.readWord c o port).1 c k := by
  unfold State.readWord
  dsimp only
  split
  · exact h
  · exact h.correction ..
  · exact h.incSatUn (by decide) ..
  · exact h.incSatUn (by decide) ..

theorem wordRecord (h : OnCore s t c k) (cls o port syn : Nat) (struck : Option Nat) : OnCore s (t.wordRecord cls c o port syn struck) c k :=
  ((h.queueTest ..).raise ..).setReg (by decide) _

theorem spmRefuse (h : OnCore s t c k) (o port : Nat) (cr : Nat × Nat) : OnCore s (t.spmRefuse c o port (.core c k) cr) c k :=
  (h.raise ..).setReg (by decide) _

/-- Writing a merge-buffer entry. -/
theorem mbWrite (h : OnCore s t c k) (e : MbEntry) : OnCore s (t.mbWrite c k e) c k := by
  have htaken (n : Nat) : OnCore s ((t.setCore c k { t.core c k with mb := (t.core c k).mb.filter fun f => f.word != e.word }).act c 2 n) c k :=
    (h.setCore _).of_cells (within_act (by decide) (within_refl _))
  unfold State.mbWrite
  dsimp only
  split
  · exact ((htaken _).spmRefuse ..).busStop ..
  · split
    · exact (htaken _).putWord ..
    · have hread := fun n => (htaken n).readWord (e.word * 8) (corePort k)
      split
      next heq => exact (heq ▸ hread _ : OnCore s (_, _).1 c k).putWord ..
      next heq => exact (((heq ▸ hread _ : OnCore s (_, _).1 c k).putWord ..).wordRecord ..).busStop ..

theorem mbFlush (h : OnCore s t c k) (p : MbEntry → Bool) : OnCore s (t.mbFlush c k p) c k := by
  unfold State.mbFlush
  generalize (t.core c k).mb.filter p = l
  induction l generalizing t with
  | nil => exact h
  | cons e l ih => exact ih (h.mbWrite e)

end OnCore

end Sys2Proof.CoreStops
end

section
/-! PROOFS. Jobs start, end and declare their steps (R182, R243-R247). -/

namespace Sys2Proof.JobCommands

open Sys2Proof Sys2Proof.Machine Sys2Proof.Laws Sys2Proof.Clauses Sys2Proof.CoreSteps Sys2Proof.JobStates Sys2Proof.Bookkeeping Sys2Proof.CoreStops
open Sys2Proof.DescriptorQueue (cellsBut_of_cells cell_of_cells mxe_of_cells)
open Sys2Proof.Machine.State (coreKey)

variable {s t u : State} {c : Nat} {k : CoreSel}

/-! ### Cores that stop -/

theorem coreOff_running (hst : (s.core c k).st = 1) (hb : s.coreBusy c k = false) : s.coreOff c k =
    if ((s.mbFlush c k fun _ => true).core c k).st = 1 then (s.mbFlush c k fun _ => true).stopCore c k 0 else s.mbFlush c k fun _ => true := by
  simp only [State.coreOff, hst, hb, ne_eq, not_true_eq_false, if_false, Bool.false_eq_true]

theorem coreOff_stopped (hst : (s.core c k).st ≠ 1) : s.coreOff c k = s := if_pos hst

/-- A core to stop either runs no more, or can stop at once. -/
def Free (s : State) (c : Nat) (k : CoreSel) : Prop := (s.core c k).st = 1 → s.coreBusy c k = false

theorem coreOff_free (hf : Free s c k) : ((s.coreOff c k).core c k).st ≠ 1 ∧ OnCore s (s.coreOff c k) c k := by
  by_cases hst : (s.core c k).st = 1
  · have hflush := (OnCore.refl s c k).mbFlush fun _ => true
    rw [coreOff_running hst (hf hst)]
    split
    · refine ⟨?_, hflush.stopCore 0⟩
      rw [core_stopCore]
      exact Nat.zero_ne_one
    next h => exact ⟨h, hflush⟩
  · rw [coreOff_stopped hst]
    exact ⟨hst, .refl s c k⟩

/-- Whether a core is busy is read from the core, what holds its cell, and the slot. -/
theorem coreBusy_congr {q : CoreSel} (hcore : t.core c q = s.core c q) (hold : SameHold (s.cell c) (t.cell c)) (hslot : t.slot = s.slot) :
    t.coreBusy c q = s.coreBusy c q := by
  simp only [State.coreBusy, State.isHeld, hcore, hold.held, hold.running, hold.mxe, hold.cyc, hslot]

theorem Free.of_same {q : CoreSel} (h : Free s c q) (hcore : t.core c q = s.core c q) (hold : SameHold (s.cell c) (t.cell c)) (hslot : t.slot = s.slot) :
    Free t c q := fun hst => (coreBusy_congr hcore hold hslot).trans (h (hcore ▸ hst))

/-! ### Released cells -/

/-- A cell whose job has ended: its cores are off, its MXE is to be flushed, and every bank is MESH. -/
structure Released (t : State) (c : Nat) : Prop where
  st : ∀ k, (t.core c k).st ≠ 1
  flush : (t.mxe c).flushDue = true
  owners : ∀ b, b < 8 → t.ownerSet c b = 4

theorem Released.free (h : Released t c) (k : CoreSel) : Free t c k := fun hst => absurd hst (h.st k)

theorem Released.of_same (h : Released t c) (hcell : u.cell c = t.cell c) (hreg : u.reg (cellKey c SPM_BANK_OWN) = t.reg (cellKey c SPM_BANK_OWN)) :
    Released u c := by
  refine ⟨fun k => ?_, by rw [State.mxe, hcell]; exact h.flush, fun b hb => ?_⟩
  · have hcore : u.core c k = t.core c k := by cases k <;> (unfold State.core; rw [hcell])
    rw [hcore]
    exact h.st k
  · rw [State.ownerSet, State.fld, hreg]
    exact h.owners b hb

theorem core_mxeFlush (e : Nat) (k : CoreSel) : (s.mxeFlush c).core e k = s.core e k := by
  unfold State.core State.mxeFlush State.setMxe
  by_cases h : e = c
  · subst h
    rw [cell_setCell_same]
  · rw [cell_setCell, if_neg h]

/-- Both cores of a cell off. -/
def coresOff (s : State) (c : Nat) : State := (s.coreOff c .head).coreOff c .tail

theorem coresOff_free (hf : ∀ k, Free s c k) : (∀ k, ((coresOff s c).core c k).st ≠ 1) ∧
    s.within [.regs, .mem, .cells, .regions, .err] (coresOff s c) ∧ s.cellsBut (coresOff s c) c ∧
    ∀ j, (∀ o, o < 0x50000 → j ≠ cellKey c o) → (coresOff s c).reg j = s.reg j := by
  obtain ⟨hhead, hon⟩ := coreOff_free (hf .head)
  have htail : Free (s.coreOff c .head) c .tail :=
    (hf .tail).of_same (hon.cores c .tail (.inr (by decide))) hon.hold hon.reach.2.1
  obtain ⟨hoff, hon'⟩ := coreOff_free htail
  refine ⟨fun k => ?_, within_trans hon.reach hon'.reach, fun e he => (hon'.cells e he).trans (hon.cells e he), fun j hj => (hon'.reg j hj).trans (hon.reg j hj)⟩
  cases k with
  | head =>
    rw [coresOff, hon'.cores c .head (.inr (by decide))]
    exact hhead
  | tail => exact hoff

theorem releaseCell_eq : s.releaseCell c = ((coresOff s c).mxeFlush c).setOwners c 0x44444444 := rfl

theorem setOwners_keeps (v : Word) : s.within [.regs, .wrote] (s.setOwners c v) ∧ ∀ j, j ≠ cellKey c SPM_BANK_OWN → (s.setOwners c v).reg j = s.reg j := by
  refine ⟨within_setOwners (List.Subset.refl _) (within_refl s), fun j hj => ?_⟩
  rw [State.setOwners, reg_setReg, if_neg hj, RegisterAccess.reg_noteWrite]

theorem releaseCell_keeps (hf : ∀ k, Free s c k) : s.within [.regs, .wrote, .mem, .cells, .regions, .err] (s.releaseCell c) ∧
    s.cellsBut (s.releaseCell c) c ∧ ∀ j, (∀ o, o < 0x50000 → j ≠ cellKey c o) → (s.releaseCell c).reg j = s.reg j := by
  obtain ⟨-, hw, hcells, hregs⟩ := coresOff_free hf
  obtain ⟨how, hown⟩ := setOwners_keeps (s := (coresOff s c).mxeFlush c) (c := c) 0x44444444
  rw [releaseCell_eq]
  refine ⟨?_, ?_, fun j hj => (hown j (hj _ (by decide))).trans (hregs j hj)⟩
  · exact within_trans (within_mono (within_trans hw (within_mxeFlush (by decide) (within_refl _))) (by decide)) (within_mono how (by decide))
  · exact cellsBut_of_cells (cellsBut_setCell hcells _) (StartPhases.within_same how .cells (by decide))

theorem ownerSet_mesh {t : State} {b : Nat} (hb : b < 8) : (t.setOwners c 0x44444444).ownerSet c b = 4 := by
  rw [State.ownerSet, State.fld, BankOwnership.reg_setOwners]
  interval_cases b <;> decide

theorem releaseCell_released (hf : ∀ k, Free s c k) : Released (s.releaseCell c) c := by
  obtain ⟨hoff, -⟩ := coresOff_free hf
  have hcells := StartPhases.within_same (setOwners_keeps (s := (coresOff s c).mxeFlush c) (c := c) 0x44444444).1 .cells (by decide)
  refine ⟨fun k => ?_, ?_, fun b hb => ownerSet_mesh hb⟩
  · rw [releaseCell_eq, core_of_cells hcells, core_mxeFlush]
    exact hoff k
  · rw [releaseCell_eq, mxe_of_cells hcells, State.mxe, State.mxeFlush, State.setMxe, cell_setCell_same]

/-- The cells of a job are released one after the other. -/
def releaseCells (s : State) (cs : List Nat) : State := cs.foldl (fun t c => t.releaseCell c) s

theorem releaseCells_released {cs : List Nat} : ∀ {s : State}, (∀ e ∈ cs, ∀ k, Free s e k) →
    s.within [.regs, .wrote, .mem, .cells, .regions, .err] (releaseCells s cs) ∧ (∀ e, e ∈ cs ∨ Released s e → Released (releaseCells s cs) e) := by
  induction cs with
  | nil => exact fun {s} _ => ⟨within_refl s, fun e he => he.resolve_left (by simp)⟩
  | cons c cs ih =>
    intro s hf
    have hfree : ∀ k, Free s c k := hf c List.mem_cons_self
    obtain ⟨hw, hcells, hregs⟩ := releaseCell_keeps hfree
    have hrel := releaseCell_released hfree
    have hother {e : Nat} (he : e ≠ c) : (s.releaseCell c).reg (cellKey e SPM_BANK_OWN) = s.reg (cellKey e SPM_BANK_OWN) :=
      hregs _ fun o ho => by simp only [cellKey, SPM_BANK_OWN]; omega
    obtain ⟨hw', hall⟩ := ih (s := s.releaseCell c) fun e he k => by
      by_cases hec : e = c
      · subst hec
        exact hrel.free k
      · have hcell := hcells e hec
        refine (hf e (List.mem_cons_of_mem c he) k).of_same ?_ (by rw [hcell]; exact ⟨rfl, rfl, rfl, rfl⟩) hw.2.1
        cases k <;> (unfold State.core; rw [hcell])
    refine ⟨within_trans hw hw', fun e he => hall e ?_⟩
    by_cases hec : e = c
    · subst hec
      exact .inr hrel
    · exact he.imp (fun h => (List.mem_cons.1 h).resolve_left hec) fun h => h.of_same (hcells e hec) (hother hec)

/-! ### Halted cells -/

theorem haltCore_stops (s : State) (c : Nat) (k : CoreSel) : ((s.haltCore c k).core c k).st ≠ 1 ∧ OnCore s (s.haltCore c k) c k := by
  have hon := (OnCore.refl s c k).setCore { s.core c k with mb := [], heldStores := [] }
  unfold State.haltCore
  dsimp only
  split
  · refine ⟨?_, hon.stopCore 2⟩
    rw [core_stopCore]
    exact (by decide : (2 : Nat) ≠ 1)
  next h => exact ⟨h, hon⟩

/-- Both cores of a cell have halted. -/
def coresHalted (s : State) (c : Nat) : State := (s.haltCore c .head).haltCore c .tail

/-- The halted cell's units are empty. -/
def emptied (s : State) (c : Nat) : State := (((coresHalted s c).setCell c { (coresHalted s c).cell c with beng := [] }).mxeFlush c).txStop c

theorem cellHalt_eq (cls rseq : Nat) : s.cellHalt c cls rseq =
    (((emptied s c).setFld (cellKey c ERR_STAT) 0 1 1).setFld (cellKey c ERR_STAT) 1 8 cls).setReg (cellKey c ERR_HALT_RSEQ) (BitVec.ofNat 64 rseq) := rfl

theorem coresHalted_stop : (∀ k, ((coresHalted s c).core c k).st ≠ 1) ∧ s.cellsBut (coresHalted s c) c ∧
    ∀ j, (∀ o, o < 0x50000 → j ≠ cellKey c o) → (coresHalted s c).reg j = s.reg j := by
  obtain ⟨hhead, hon⟩ := haltCore_stops s c .head
  obtain ⟨htail, hon'⟩ := haltCore_stops (s.haltCore c .head) c .tail
  refine ⟨fun k => ?_, fun e he => (hon'.cells e he).trans (hon.cells e he), fun j hj => (hon'.reg j hj).trans (hon.reg j hj)⟩
  cases k with
  | head =>
    rw [coresHalted, hon'.cores c .head (.inr (by decide))]
    exact hhead
  | tail => exact htail

/-- Emptying a cell's units changes neither its cores nor other cells. -/
theorem emptied_keeps {t : State} : ∀ e k, ((((t.setCell c { t.cell c with beng := [] }).mxeFlush c).txStop c).core e k) = t.core e k := by
  intro e k
  unfold State.txStop State.mxeFlush State.setMxe State.core
  by_cases h : e = c
  · subst h
    simp only [cell_setCell_same]
  · simp only [cell_setCell, if_neg h]

theorem cellHalt_keeps (cls rseq : Nat) : s.within [.regs, .cells] (s.cellHalt c cls rseq) ∧ (∀ k, ((s.cellHalt c cls rseq).core c k).st ≠ 1) ∧
    s.cellsBut (s.cellHalt c cls rseq) c ∧ ∀ j, (∀ o, o < 0x50000 → j ≠ cellKey c o) → (s.cellHalt c cls rseq).reg j = s.reg j := by
  obtain ⟨hst, hcells, hregs⟩ := coresHalted_stop (s := s) (c := c)
  have hsame : (s.cellHalt c cls rseq).cells = (emptied s c).cells := by rw [cellHalt_eq, setReg_cells, setFld_cells, setFld_cells]
  refine ⟨within_cellHalt (List.Subset.refl _) (within_refl s), fun k => ?_, cellsBut_of_cells ?_ hsame, fun j hj => ?_⟩
  · rw [core_of_cells hsame, emptied, emptied_keeps]
    exact hst k
  · unfold emptied
    generalize coresHalted s c = u at hcells ⊢
    exact cellsBut_setCell (cellsBut_setCell (cellsBut_setCell hcells _) _) _
  · have hstat : j ≠ cellKey c ERR_STAT := hj _ (by decide)
    have hempty : (emptied s c).reg j = (coresHalted s c).reg j := by
      unfold emptied
      generalize coresHalted s c = u
      rfl
    rw [cellHalt_eq, reg_setReg, if_neg (hj _ (by decide)), reg_setFld, if_neg hstat, reg_setFld, if_neg hstat, hempty]
    exact hregs j hj

/-- The cells of a list halt one after the other. -/
def haltCells (s : State) (cs : List Nat) : State := cs.foldl (fun t c => t.cellHalt c 0 0) s

theorem haltCells_stop {cs : List Nat} : ∀ s : State, s.within [.regs, .cells] (haltCells s cs) ∧ SameCanvas s (haltCells s cs) ∧
    ∀ e, (e ∈ cs ∨ ∀ k, (s.core e k).st ≠ 1) → ∀ k, ((haltCells s cs).core e k).st ≠ 1 := by
  induction cs with
  | nil => exact fun s => ⟨within_refl s, .of_eq rfl rfl, fun e he => he.resolve_left (by simp)⟩
  | cons c cs ih =>
    intro s
    obtain ⟨hw, hst, hcells, hregs⟩ := cellHalt_keeps (s := s) (c := c) 0 0
    obtain ⟨hw', hcanvas, hall⟩ := ih (s.cellHalt c 0 0)
    refine ⟨within_trans hw hw', .trans (.of_cellRegs hw.1 fun j hj => hregs j (hj c)) hcanvas, fun e he => hall e ?_⟩
    by_cases hec : e = c
    · subst hec
      exact .inr hst
    · have hcore (k : CoreSel) : (s.cellHalt c 0 0).core e k = s.core e k := by cases k <;> (unfold State.core; rw [hcells e hec])
      exact he.imp (fun h => (List.mem_cons.1 h).resolve_left hec) fun h k => by rw [hcore k]; exact h k

/-! ### Jobs that end -/

theorem haltJob_eq (id : Nat) : s.haltJob id 0 0 = ((haltCells s (s.jobCells id)).haltCtxs id).setJobState id 5 := rfl

theorem removeJob_eq (id : Nat) : s.removeJob id = { ((releaseCells s (s.jobCells id)).freeJobCtxs id).setJobState id 0 with
    jobs := (((releaseCells s (s.jobCells id)).freeJobCtxs id).setJobState id 0).jobs.filter fun j => j.id != id,
    panels := (((releaseCells s (s.jobCells id)).freeJobCtxs id).setJobState id 0).panels.filter fun p => p.job != id } := rfl

theorem job_removed (js : List Job) (id : Nat) : (js.filter fun j => j.id != id).find? (fun j => j.id == id) = none := by
  rw [List.find?_eq_none]
  intro j hj
  simpa using (List.mem_filter.1 hj).2

theorem job_removed_other (js : List Job) {id i : Nat} (h : i ≠ id) : (js.filter fun j => j.id != id).find? (fun j => j.id == i) = js.find? fun j => j.id == i := by
  rw [List.find?_filter]
  congr 1
  funext j
  by_cases hj : j.id = i <;> simp [hj, h]

/-- What ending the contexts and setting the state of a job leave alone. -/
theorem freed_keeps (id : Nat) : Booked s ((s.freeJobCtxs id).setJobState id 0) ∧ ((s.freeJobCtxs id).setJobState id 0).cells = s.cells ∧
    ((s.freeJobCtxs id).setJobState id 0).panels = s.panels ∧ (s.freeJobCtxs id).jobs = s.jobs := by
  have hw := within_freeJobCtxs (id := id) (List.Subset.refl _) (within_refl s)
  have hw' := within_setJobState (id := id) (st := 0) (List.Subset.refl _) (within_refl (s.freeJobCtxs id))
  exact ⟨((Booked.refl s).freeJobCtxs id).setJobState id 0,
    (cells_setJobState ..).trans (StartPhases.within_same hw .cells (by decide)),
    (StartPhases.within_same hw' .panels (by decide)).trans (StartPhases.within_same hw .panels (by decide)), StartPhases.within_same hw .jobs (by decide)⟩

/-- A job whose cells can be released at once is gone with its panels. -/
theorem removeJob_keeps {id : Nat} (hf : ∀ c ∈ s.jobCells id, ∀ k, Free s c k) : (s.removeJob id).job? id = none ∧
    (s.removeJob id).panels = s.panels.filter (fun p => p.job != id) ∧ (∀ c ∈ s.jobCells id, Released (s.removeJob id) c) ∧
    ∀ i, i ≠ id → (s.removeJob id).job? i = s.job? i := by
  obtain ⟨hw, hall⟩ := releaseCells_released hf
  obtain ⟨hbook, hcells, hpanels, hjobs⟩ := freed_keeps (s := releaseCells s (s.jobCells id)) id
  rw [removeJob_eq]
  refine ⟨job_removed _ id, ?_, fun c hc => ?_, fun i hi => ?_⟩
  · dsimp only
    rw [hpanels, StartPhases.within_same hw .panels (by decide)]
  · exact (hall c (.inl hc)).of_same (cell_of_cells hcells c) (hbook.reg _ (quiet_cellKey (by decide)))
  · refine (job_removed_other _ hi).trans ?_
    have hset := setJobState_other ((releaseCells s (s.jobCells id)).freeJobCtxs id) hi 0
    exact hset.trans (job_of_jobs (hjobs.trans (StartPhases.within_same hw .jobs (by decide))) i)

/-- Halting a running job first leaves its cells off and the canvas as it was. -/
theorem haltJob_keeps (id : Nat) : (∀ c ∈ s.jobCells id, ∀ k, ((s.haltJob id 0 0).core c k).st ≠ 1) ∧ (s.haltJob id 0 0).panels = s.panels ∧
    (s.haltJob id 0 0).jobCells id = s.jobCells id ∧ ∀ i, i ≠ id → (s.haltJob id 0 0).job? i = s.job? i := by
  obtain ⟨hw, hcanvas, hstop⟩ := haltCells_stop (cs := s.jobCells id) s
  have hbook := ((Booked.refl (haltCells s (s.jobCells id))).haltCtxs id).setJobState id 5
  have hwc := within_haltCtxs (id := id) (List.Subset.refl _) (within_refl (haltCells s (s.jobCells id)))
  have hws := within_setJobState (id := id) (st := 5) (List.Subset.refl _) (within_refl ((haltCells s (s.jobCells id)).haltCtxs id))
  have hpanels : (s.haltJob id 0 0).panels = s.panels := (StartPhases.within_same hws .panels (by decide)).trans
    ((StartPhases.within_same hwc .panels (by decide)).trans (StartPhases.within_same hw .panels (by decide)))
  rw [haltJob_eq] at hpanels ⊢
  refine ⟨fun c hc k => ?_, hpanels, (hcanvas.trans (.of_booked hbook)).jobCells hpanels id, fun i hi => ?_⟩
  · rw [core_of_cells ((cells_setJobState ..).trans (StartPhases.within_same hwc .cells (by decide)))]
    exact hstop c (.inl hc) k
  · refine (setJobState_other _ hi 5).trans (job_of_jobs ?_ i)
    exact (StartPhases.within_same hwc .jobs (by decide)).trans (StartPhases.within_same hw .jobs (by decide))

theorem exec_jobEnd {id : Nat} {j : Job} (h : s.job? id = some j) (hst : 2 ≤ j.state) :
    exec (.jobEnd id) s = .next ((if j.state = 3 then s.haltJob id 0 0 else s).removeJob id) := by
  refine next_congr ?_
  simp only [State.jobEnd, h, if_neg (Nat.not_lt.2 hst)]

/-! ### Jobs that start -/

/-- A started job, before its cores run. -/
def launched (s : State) (id : Nat) : State := (s.setJobState id 3).adoptPace id

theorem adoptPace_keeps (id : Nat) : s.within [.regs] (s.adoptPace id) ∧ ∀ j, j ≠ ecKey STEP_CTRL → (s.adoptPace id).reg j = s.reg j := by
  refine ⟨within_adoptPace (List.Subset.refl _) (within_refl s), fun j hj => ?_⟩
  unfold State.adoptPace
  split
  · rw [reg_setFld, if_neg hj]
  · rfl

theorem launched_keeps (id : Nat) : (launched s id).cells = s.cells ∧ (launched s id).err = s.err ∧
    (∀ c o, o < 0x50000 → (launched s id).reg (cellKey c o) = s.reg (cellKey c o)) ∧ (launched s id).jobs = (s.setJobState id 3).jobs := by
  obtain ⟨hw, hreg⟩ := adoptPace_keeps (s := s.setJobState id 3) id
  refine ⟨(StartPhases.within_same hw .cells (by decide)).trans (cells_setJobState ..), (StartPhases.within_same hw .err (by decide)).trans (err_setJobState ..),
    fun c o ho => ?_, StartPhases.within_same hw .jobs (by decide)⟩
  have hne : cellKey c o ≠ ecKey STEP_CTRL := by
    simp only [cellKey, ecKey, STEP_CTRL]
    omega
  exact (hreg _ hne).trans (((Booked.refl s).setJobState id 3).reg _ (quiet_cellKey ho))

theorem exec_jobStart {id : Nat} {j : Job} (h : s.job? id = some j) (hst : j.state = 2) :
    exec (.jobStart id) s = .next ((j.starts.foldl (fun t e => t.coreRun e.1 e.2) (launched s id)).jobDone id) := by
  refine next_congr ?_
  simp only [State.jobStart, h, hst, ne_eq, not_true_eq_false, if_false]
  rfl

theorem job_launched {id : Nat} {j : Job} (h : s.job? id = some j) : (launched s id).job? id = some { j with state := 3 } :=
  (job_of_jobs (launched_keeps id).2.2.2 id).trans (setJobState_same _ h 3)

theorem coreRun_stopped (hp : s.primed c = true) (hst : (s.core c k).st = 0) :
    s.coreRun c k = (s.setCore c k (CoreControl.started s c k)).setFld (coreKey c k HEAD_CTRL) 0 1 1 := by
  have h : Host.Outcome.next (s.coreRun c k) = _ := CoreControl.exec_start hp (.inl hst)
  exact (Host.Outcome.next.inj h)

/-- A job is not done while one of its cores runs. -/
theorem jobDone_runs {id : Nat} {j : Job} (h : s.job? id = some j) (hr : ∃ e ∈ j.starts, (s.core e.1 e.2).st ≠ 0) : s.jobDone id = s := by
  obtain ⟨e, he, hst⟩ := hr
  unfold State.jobDone
  rw [h]
  refine if_neg fun hall => hst ?_
  simpa using List.all_eq_true.1 hall.2 e he

/-! ### Ignored commands -/

theorem ignored_keeps (id cmd : Nat) : (s.jobIgnored id cmd).jobs = s.jobs ∧ (s.jobIgnored id cmd).cells = s.cells ∧ (s.jobIgnored id cmd).regs = s.regs ∧
    s.logs (s.jobIgnored id cmd) 0x8E (.engine 0) (id % 65536 + cmd * 2 ^ 16) :=
  ⟨raise_jobs .., raise_cells .., raise_regs .., logs_raise rfl ..⟩

theorem exec_jobStart_ignored {id : Nat} (h : ∀ j, s.job? id = some j → j.state ≠ 2) : exec (.jobStart id) s = .next (s.jobIgnored id 1) := by
  refine next_congr ?_
  unfold State.jobStart
  cases hj : s.job? id with
  | none => rfl
  | some j => exact if_pos (h j hj)

/-! ### Declared steps -/

theorem exec_declare {id : Nat} {j : Job} (h : s.job? id = some j) (hd : j.state = 3 ∨ id ∈ s.leftRun) : exec (.stepDeclare id) s =
    .next (if s.paceJob = id then ((s.modJob id fun x => { x with step := x.step + 1 }).setReg (ecKey STEP_ENGINE) (s.reg (ecKey STEP_ENGINE) + 1)).setReg
      (ecKey STEP_LAST) (BitVec.ofNat 64 s.facility) else s.modJob id fun x => { x with step := x.step + 1 }) := by
  have hdo : ((match s.job? id with | some j => j.state == 3 | none => false) || s.leftRun.contains id) = true := by
    rw [h]
    rcases hd with hd | hd <;> simp [hd]
  refine next_congr ?_
  unfold State.declareStep
  exact (if_pos hdo).trans rfl

theorem exec_declare_ignored {id : Nat} (h : ∀ j, s.job? id = some j → j.state ≠ 3) (hl : id ∉ s.leftRun) :
    exec (.stepDeclare id) s = .next (s.jobIgnored id 8) := by
  have hdo : ((match s.job? id with | some j => j.state == 3 | none => false) || s.leftRun.contains id) ≠ true := by
    cases hj : s.job? id with
    | none => simpa using hl
    | some j => simpa [h j hj] using hl
  refine next_congr ?_
  unfold State.declareStep
  exact if_neg hdo

/-- Settles O30: a start runs the job's cores, an end releases its cells one after the other, and a declared step is one more. -/
theorem jobsRunAndDeclareSteps : Obligations.JobsRunAndDeclareSteps := by
  unfold Obligations.JobsRunAndDeclareSteps
  refine ⟨⟨?_, ?_, ?_, ?_, ?_⟩, ?_, ?_, ?_⟩
  · intro s id c k j hj hst hstarts hp hc
    obtain ⟨hcells, herr, hregs, hjobs⟩ := launched_keeps (s := s) id
    have hcore := core_of_cells hcells c k
    have hprimed : (launched s id).primed c = true := by
      rw [State.primed, State.fld, hregs c _ (by decide)]
      exact hp
    have hrun := coreRun_stopped (s := launched s id) hprimed ((congrArg CoreSt.st hcore).trans hc)
    obtain ⟨-, -, hbut, herr', -, hset⟩ := CoreControl.controlled_keeps (s := launched s id) (c := c) (k := k) (CoreControl.started (launched s id) c k) 1
    have hjob : ((launched s id).coreRun c k).job? id = some { j with state := 3 } := by
      rw [hrun]
      exact (job_of_jobs ((setFld_jobs ..).trans (setCore_jobs ..)) id).trans (job_launched hj)
    rw [← hrun] at hbut herr' hset
    have hexec := exec_jobStart hj hst
    rw [hstarts, List.foldl_cons, List.foldl_nil, jobDone_runs hjob ⟨(c, k), by rw [hstarts]; exact List.mem_singleton_self _, by rw [hset]; exact Nat.one_ne_zero⟩]
      at hexec
    refine ⟨_, _, hexec, hjob, rfl, by rw [hset]; rfl, ?_, fun d q hd => (hbut d q hd).trans (core_of_cells hcells d q), herr'.trans herr⟩
    have hpc : (launched s id).reg (coreKey c k HEAD_BOOT_PC) = s.reg (coreKey c k HEAD_BOOT_PC) := hregs c _ (by cases k <;> decide)
    rw [hset, CoreControl.pcn_started, State.fld, hpc]
    rfl
  · intro s id j hj hst hstarts
    have hdone : AllStopped (launched s id) { j with state := 3 } := ⟨rfl, by rw [hstarts]; rfl⟩
    have hexec := exec_jobStart hj hst
    rw [hstarts] at hexec
    exact ⟨_, _, hexec, jobDone_allStopped (job_launched hj) hdone, rfl, (cells_jobDone ..).trans (launched_keeps id).1⟩
  · intro s id h
    exact ⟨_, exec_jobStart_ignored h, ignored_keeps id 1⟩
  · intro s id j hj hst hfree
    by_cases h3 : j.state = 3
    · obtain ⟨hstop, hpanels, hcells, hjobs⟩ := haltJob_keeps (s := s) id
      obtain ⟨hgone, hpan, hrel, hother⟩ := removeJob_keeps (s := s.haltJob id 0 0) (id := id) fun c hc k hst => absurd hst (hstop c (hcells ▸ hc) k)
      refine ⟨_, (exec_jobEnd hj hst).trans (next_congr (by rw [if_pos h3])), hgone, by rw [hpan, hpanels], fun c hc => ?_, fun i hi => ?_⟩
      · have := hrel c (hcells.symm ▸ hc)
        exact ⟨this.st, this.flush, this.owners⟩
      · rw [hother i hi, hjobs i hi]
    · have hbusy := hfree.resolve_left h3
      obtain ⟨hgone, hpan, hrel, hother⟩ := removeJob_keeps (s := s) (id := id) fun c hc k _ => hbusy c hc k
      refine ⟨_, (exec_jobEnd hj hst).trans (next_congr (by rw [if_neg h3])), hgone, hpan, fun c hc => ?_, fun i hi => by rw [hother i hi]⟩
      exact ⟨(hrel c hc).st, (hrel c hc).flush, (hrel c hc).owners⟩
  · intro s id h
    have hexec : exec (.jobEnd id) s = .next (s.jobIgnored id 3) := next_congr (by simp only [State.jobEnd, h])
    obtain ⟨hjobs, hcells, -, hlog⟩ := ignored_keeps (s := s) id 3
    exact ⟨_, hexec, hjobs, hcells, hlog⟩
  · intro s id j hj hd
    have hjob : (s.modJob id fun x => { x with step := x.step + 1 }).job? id = some { j with step := j.step + 1 } := by
      rw [job_modJob s (f := fun x => { x with step := x.step + 1 }) (fun _ => rfl), hj, Option.map_some, if_pos (id_of_job hj)]
    have hexec := exec_declare hj hd
    split_ifs at hexec with hpace
    · refine ⟨_, hexec, hjob, rfl, rfl, ?_⟩
      rw [if_pos hpace]
      have hne : ecKey STEP_ENGINE ≠ ecKey STEP_LAST := by decide
      refine ⟨by rw [reg_setReg, if_neg hne, reg_setReg, if_pos rfl], by rw [reg_setReg, if_pos rfl], ?_⟩
      exact regsBut_setReg (regsBut_setReg (fun _ _ => rfl) List.mem_cons_self _) (List.mem_cons_of_mem _ List.mem_cons_self) _
    · refine ⟨_, hexec, hjob, rfl, rfl, ?_⟩
      rw [if_neg hpace]
      rfl
  · intro s id h hl
    obtain ⟨hjobs, -, hregs, hlog⟩ := ignored_keeps (s := s) id 8
    exact ⟨_, exec_declare_ignored h hl, hjobs, hregs, hlog⟩
  · intro s v j hj
    have hexec : exec (.stepNumSet v) s = .next (s.modJob (s.fld (ecKey STEP_SEL) 0 16) fun x => { x with step := v }) :=
      next_congr (by simp only [State.setStepNum, hj])
    refine ⟨_, hexec, ?_, rfl, rfl, rfl⟩
    rw [job_modJob s (f := fun x => { x with step := v }) (fun _ => rfl), hj, Option.map_some, if_pos (id_of_job hj)]

end Sys2Proof.JobCommands
end

section
/-! PROOFS. A prepared cell whose ballast register software has just written (R16, R236). -/

namespace Sys2Proof.LoadPreparation

open Sys2Proof Sys2Proof.Machine

/-- The panel of job 7: cell 0 alone. -/
def onePanel : Panel := { id := 2, parent := 0xFFFF, x0 := 0, y0 := 0, w := 1, h := 1, job := 7, ballast := false }

/-- The load of job 7, entered and not yet prepared. -/
def entering : LoadSt :=
  { job := 7, src := 0, len := 0, qctx := 0, panels := [onePanel], segs := [], k4 := [], testslot := false, gbase := 0, glen := 0, round := 0, bad := [],
    bcastEnd := 0, entered := true, prepared := false, k5 := false, armed := [], tables := [], asked := [] }

/-- Cell 0 is in a region that is on, and software has written EN of its MXE_BAL_CTRL in this cycle. -/
def written : State :=
  { State.reset with
    regs := [(ecKey BOOT_CANVAS, BitVec.ofNat 64 (46 + 48 * 2 ^ 8 + 2 ^ 22)), (ecKey BOOT_DIE_STATE, 1), (cellKey 0 MXE_BAL_CTRL, 1)]
    wrote := [(cellKey 0 MXE_BAL_CTRL, 0)]
    regions := [(0, { Region.reset with st := 3 })]
    jobs := [{ id := 7, state := 1, step := 0, gbase := 0, glen := 0, testslot := false, starts := [], ctxs := [] }]
    panels := [onePanel]
    load := some entering }

theorem ballast_stays : written.loadPrepare.fld (cellKey 0 MXE_BAL_CTRL) 0 1 = 1 := by decide +kernel

/-- Refutes O31 in its clause on a prepared cell's ballast. Ballast is withdrawn by a hardware write of EN, which a write of the register by
software in the same cycle overrides (R16): EN stays 1 where the clause has 0. -/
theorem not_loadsStartPrepareAndRefuse : ¬ Obligations.LoadsStartPrepareAndRefuse := by
  intro h
  obtain ⟨-, -, -, -, prepared, -⟩ := h
  obtain ⟨t, next, -, -, cells, -⟩ := prepared written entering rfl rfl rfl (by decide +kernel)
  cases next
  obtain ⟨-, -, -, -, -, -, -, -, ballast⟩ := cells 0 (by decide +kernel)
  exact absurd (ballast_stays.symm.trans ballast) (by decide)

end Sys2Proof.LoadPreparation
end

section
/-! PROOFS. Half-blocks of the GDDR7 tier: what a store puts there, and what a read of good ones gives (R260-R262, R266-R268). -/

namespace Sys2Proof.GddrHalves

open Sys2Proof Sys2Proof.Machine Sys2Proof.Laws Sys2Proof.Clauses Sys2Proof.WordRuns Sys2Proof.MeshRuns

variable {s t : State} {a h : Nat}

/-! ### Numbers -/

theorem toLe_ofLe (l : List Byte) : toLe l.length (ofLe l) = l := by
  refine List.ext_getElem (StartPhases.length_toLe ..) fun i hi hj => ?_
  rw [toLe_getElem]
  apply BitVec.eq_of_toNat_eq
  rw [BitVec.toNat_ofNat, ofLe_digit l hj]

theorem xorCols_lt {n : Nat} {l : List Nat} (hl : ∀ x ∈ l, x < 2 ^ n) (w : Nat) : xorCols l w < 2 ^ n := by
  induction l generalizing w with
  | nil => exact Nat.two_pow_pos n
  | cons x l ih =>
    have hcol : (if w % 2 = 1 then x else 0) < 2 ^ n := by
      split
      · exact hl x List.mem_cons_self
      · exact Nat.two_pow_pos n
    exact Nat.xor_lt_two_pow hcol (ih (fun y hy => hl y (List.mem_cons_of_mem x hy)) (w / 2))

theorem gddrCheck_lt (w : Nat) : gddrCheck w < 2 ^ 16 := xorCols_lt (n := 16) (by decide +kernel) w

/-- A single-bit error is corrected within the half-block. -/
theorem single_lt {w chk v : Nat} (hw : w < 2 ^ 256) (hj : gddrJudge w chk = .single v) : v < 2 ^ 256 := by
  unfold gddrJudge at hj
  dsimp only at hj
  split at hj
  · cases hj
  · split at hj
    · cases hj
    · split at hj
      next i hi =>
        cases hj
        have hlt : i < 256 := by
          obtain ⟨hlen, -⟩ := List.findIdx?_eq_some_iff_getElem.1 hi
          have : gddrCols.length ≤ 256 := by
            unfold gddrCols
            rw [List.length_take]
            exact Nat.min_le_left ..
          omega
        exact Nat.xor_lt_two_pow hw (Nat.pow_lt_pow_right (by decide) hlt)
      next =>
        split at hj
        · cases hj
          exact hw
        · cases hj

/-! ### Stores -/

theorem byte_putHalf (a w chk k : Nat) : (s.putHalf a w chk).byte k =
    if gddrChkKey a ≤ k ∧ k < gddrChkKey a + 2 then ((toLe 2 chk)[k - gddrChkKey a]?).getD 0
    else if a / 32 * 32 ≤ k ∧ k < a / 32 * 32 + 32 then ((toLe 32 w)[k - a / 32 * 32]?).getD 0 else s.byte k := by
  rw [State.putHalf, byte_setBytes, byte_setBytes, StartPhases.length_toLe, StartPhases.length_toLe]

theorem bytes_eq {k n : Nat} {l : List Byte} (hl : l.length = n) (hb : ∀ i, i < n → s.byte (k + i) = (l[i]?).getD 0) : s.bytes k n = l := by
  refine List.ext_getElem (by rw [length_bytes, hl]) fun i hi hj => ?_
  rw [length_bytes] at hi
  simp only [State.bytes, List.getElem_map, List.getElem_range, hb i hi]
  rw [List.getElem?_eq_getElem hj]
  rfl

/-- Every address of the tier lies below its check fields. -/
theorem bytes_putHalf (ha : a < 2 ^ 44) (w chk : Nat) : (s.putHalf a w chk).bytes (a / 32 * 32) 32 = toLe 32 w := by
  refine bytes_eq (StartPhases.length_toLe ..) fun i hi => ?_
  have hkey : gddrChkKey a = 2 ^ 45 + 2 * (a / 32) := rfl
  rw [byte_putHalf, if_neg (by omega), if_pos (by omega), Nat.add_sub_cancel_left]

theorem half_putHalf (ha : a < 2 ^ 44) (w chk : Nat) : (s.putHalf a w chk).half a = w % 2 ^ 256 := by
  rw [State.half, bytes_putHalf ha, Scratchpad.ofLe_toLe]
  rfl

theorem halfChk_putHalf (a w chk : Nat) : (s.putHalf a w chk).halfChk a = chk % 2 ^ 16 := by
  have hbytes : (s.putHalf a w chk).bytes (gddrChkKey a) 2 = toLe 2 chk := by
    refine bytes_eq (StartPhases.length_toLe ..) fun i hi => ?_
    rw [byte_putHalf, if_pos (by omega), Nat.add_sub_cancel_left]
  rw [State.halfChk, hbytes, Scratchpad.ofLe_toLe]
  rfl

/-- A byte of neither the half-block nor its check field. -/
theorem byte_putHalf_other {k : Nat} (w chk : Nat) (hh : k < a / 32 * 32 ∨ a / 32 * 32 + 32 ≤ k) (h0 : k ≠ gddrChkKey a) (h1 : k ≠ gddrChkKey a + 1) :
    (s.putHalf a w chk).byte k = s.byte k := by rw [byte_putHalf, if_neg (by omega), if_neg (by omega)]

/-! ### Judgements of reads -/

theorem half_lt (s : State) (a : Nat) : s.half a < 2 ^ 256 := by
  have := Scratchpad.ofLe_lt (s.bytes (a / 32 * 32) 32)
  rw [length_bytes] at this
  exact this.trans_eq (by norm_num)

theorem readHalf_good {g : GLoc} (hj : gddrJudge (s.half a) (s.halfChk a) = .good) : s.readHalf g a = (s, some (s.half a)) := by
  unfold State.readHalf
  simp only [hj]

theorem readHalf_single {g : GLoc} {v : Nat} (hj : gddrJudge (s.half a) (s.halfChk a) = .single v) : s.readHalf g a =
    (((s.writeHalf a v).incSatUn (memKey g.d g.n MEM_ECC_CNT) 0 16 1).memRaiseLim g 0x41 (a / 32 * 32) (s.halfChk a ^^^ gddrCheck (s.half a)), some v) := by
  unfold State.readHalf
  simp only [hj]

theorem readHalf_bad {g : GLoc} (hj : gddrJudge (s.half a) (s.halfChk a) = .bad) : s.readHalf g a =
    ((((s.poisonHalf a).incSatUn (memKey g.d g.n MEM_ECC_CNT) 16 16 1).halfTest g).memRaise g 0x42 (a / 32 * 32) (s.halfChk a ^^^ gddrCheck (s.half a)) 0 none,
      none) := by
  unfold State.readHalf
  simp only [hj]

/-- A half-block's bytes, low byte first. -/
theorem toLe_half (s : State) (ha : a % 32 = 0) : toLe 32 (s.half a) = s.bytes a 32 := by
  have hlen := length_bytes s a 32
  have h := toLe_ofLe (s.bytes a 32)
  rw [hlen] at h
  rw [State.half, show a / 32 * 32 = a by omega]
  exact h

/-- A fold that takes good half-blocks takes their bytes. -/
theorem foldl_goodHalves {f : State × List Byte × List Nat → Nat → State × List Byte × List Nat}
    (hf : ∀ bs o, gddrJudge (s.half o) (s.halfChk o) = .good → f (s, bs, []) o = (s, bs ++ toLe 32 (s.half o), [])) (b k : Nat)
    (hk : ∀ i, i < k → gddrJudge (s.half ((b + i) * 32)) (s.halfChk ((b + i) * 32)) = .good) :
    ((List.range k).map fun i => (b + i) * 32).foldl f (s, [], []) = (s, s.bytes (b * 32) (32 * k), []) := by
  induction k with
  | zero => rfl
  | succ k ih =>
    rw [List.range_succ, List.map_append, List.foldl_append, ih fun i hi => hk i (by omega), List.map_cons, List.map_nil, List.foldl_cons, List.foldl_nil,
      hf _ _ (hk k (Nat.lt_succ_self k)), toLe_half s (Nat.mul_mod_left _ 32), show 32 * (k + 1) = 32 * k + 32 from rfl, bytes_add,
      show b * 32 + 32 * k = (b + k) * 32 by omega]

/-- A run of good half-blocks reads its bytes. -/
theorem readHalves_good {g : GLoc} {len : Nat} (ht : s.tagBad g a = false)
    (hg : ∀ h ∈ halvesOf a len, gddrJudge (s.half h) (s.halfChk h) = .good) : s.readHalves g a len = (s, s.bytes a len, []) := by
  unfold State.readHalves
  rw [ht, if_neg Bool.false_ne_true]
  unfold halvesOf at hg ⊢
  split
  next hz => subst hz; rfl
  next hz =>
    rw [if_neg hz] at hg
    have hall : ∀ i, i < (a + len - 1) / 32 - a / 32 + 1 → gddrJudge (s.half ((a / 32 + i) * 32)) (s.halfChk ((a / 32 + i) * 32)) = .good :=
      fun i hi => hg _ (List.mem_map.2 ⟨i, List.mem_range.2 hi, rfl⟩)
    rw [foldl_goodHalves (fun bs o h => by simp only [readHalf_good h]) _ _ hall]
    dsimp only
    rw [bytes_drop_take _ _ _ (by omega), show a / 32 * 32 + a % 32 = a by omega]

/-! ### Requests that reach their channel -/

theorem not_retraining {g : GLoc} (hh : s.heldBack g = false) : s.retraining g.d g.n g.ch = false := by
  unfold State.heldBack at hh
  simp only [Bool.or_eq_false_iff] at hh
  exact hh.1.1

theorem admitReq_free {g : GLoc} (hh : s.heldBack g = false) (a : Nat) : s.admitReq g a 0 = (s, true) := by
  simp only [State.admitReq, hh, State.transfer, not_retraining hh, Bool.false_eq_true, if_false, if_true]

theorem mcUpset_none (g : Option GLoc) : s.mcUpset g 0 = s := by
  unfold State.mcUpset
  split <;> simp

theorem exec_read {req : Req} {ga : GAddr} {len : Nat} {g : GLoc} {t : State} {bs : List Byte} {ps : List Nat} (hr : s.gddrReason (bits ga.toNat 0 44) len = 0)
    (hl : s.locate (bits ga.toNat 0 44) = some g) (hh : s.heldBack g = false) (hd : s.devState g.d g.n ≠ 6)
    (hread : s.readHalves g (bits ga.toNat 0 44) len = (t, bs, ps)) :
    exec (.gddrRead req ga len 0 0) s = .next (t.answer req (.read bs ps (if ps = [] then 0 else 2))) := by
  have hfetch : s.gddrFetch g (bits ga.toNat 0 44) len = (t, bs, ps, if ps = [] then 0 else 2) := by
    simp only [State.gddrFetch, if_neg hd, hread]
  have hreq : s.gddrReadReq req (bits ga.toNat 0 44) len 0 = (t, some (bs, ps, if ps = [] then 0 else 2)) := by
    simp only [State.gddrReadReq, hr, hl, admitReq_free hh, hfetch, ne_eq, not_true_eq_false, if_false]
  refine next_congr ?_
  simp only [State.gddrRead, mcUpset_none, hreq, show ¬ (0 = 2) by decide, if_false]

theorem exec_write {req : Req} {ga : GAddr} {data : List Byte} {pois : List Nat} {g : GLoc} {t : State} {st : Nat}
    (hr : s.gddrReason (bits ga.toNat 0 44) data.length = 0) (hl : s.locate (bits ga.toNat 0 44) = some g) (hh : s.heldBack g = false)
    (hstore : s.gddrStore g req (bits ga.toNat 0 44) data pois = (t, st)) :
    exec (.gddrWrite req ga data pois 0 0) s = .next (t.answer req (.ack st)) := by
  have hreq : s.gddrWriteReq req (bits ga.toNat 0 44) data pois 0 = (t, some st) := by
    simp only [State.gddrWriteReq, hr, hl, admitReq_free hh, hstore, ne_eq, not_true_eq_false, if_false]
  refine next_congr ?_
  simp only [State.gddrWrite, mcUpset_none, hreq, show ¬ (0 = 2) by decide, if_false]

end Sys2Proof.GddrHalves
end

section
/-! PROOFS. Reads and writes of the GDDR7 tier (R261, R265-R268, R275, R277, R278). -/

namespace Sys2Proof.GddrAccesses

open Sys2Proof Sys2Proof.Machine Sys2Proof.Laws Sys2Proof.Clauses Sys2Proof.WordRuns Sys2Proof.MeshRuns Sys2Proof.GddrHalves
open Sys2Proof.DescriptorQueue (cellsBut_of_cells)

variable {s t : State} {a w chk : Nat} {g : GLoc}

theorem memKey_ne {d n o q : Nat} (h : o ≠ q) : memKey d n o ≠ memKey d n q := by
  unfold memKey dieKey
  omega

/-! ### Records of a controller -/

theorem memLast_keeps (cls b syn : Nat) : s.within [.regs] (s.memLast g cls b syn) ∧
    s.regsBut (s.memLast g cls b syn) [memKey g.d g.n MEM_ERR_ADDR, memKey g.d g.n MEM_ERR_INFO] :=
  ⟨within_setReg (by decide) (within_setReg (by decide) (within_refl s)),
    regsBut_setReg (regsBut_setReg (regsBut_refl s _) List.mem_cons_self _) (List.mem_cons_of_mem _ List.mem_cons_self) _⟩

theorem mc_of_mcs (h : t.mcs = s.mcs) (d n : Nat) : t.mc d n = s.mc d n := by unfold State.mc; rw [h]

/-- A record counts from any state with the same records. -/
theorem logs_of_same {u : State} {cls d : Nat} {loc : Loc} (h : u.err.recQ = s.err.recQ) (hl : u.logs t cls loc d) : s.logs t cls loc d := by
  obtain ⟨r, hr, hrest⟩ := hl
  exact ⟨r, by rw [hr, h], hrest⟩

theorem tests_halfTest : ((s.halfTest g).mc g.d g.n).tests = (s.mc g.d g.n).tests ++ [s.err.nextSn] :=
  congrArg Mc.tests (mc_setMc_same ..)

theorem raise_entry (t : State) (cls : Nat) (loc : Loc) (d : Nat) (struck : Option Nat) : ∃ e, (t.raise cls loc d struck).err.recQ = t.err.recQ ++ [e] ∧
    e.cls = cls ∧ e.detail = BitVec.ofNat 64 d ∧ e.struck = struck := ⟨_, rfl, rfl, rfl, rfl⟩

theorem memRaise_keeps (cls b syn d : Nat) (struck : Option Nat) : s.within [.regs, .err] (s.memRaise g cls b syn d struck) ∧
    s.regsBut (s.memRaise g cls b syn d struck) [memKey g.d g.n MEM_ERR_ADDR, memKey g.d g.n MEM_ERR_INFO] ∧
    (∃ e, (s.memRaise g cls b syn d struck).err.recQ = s.err.recQ ++ [e] ∧ e.cls = cls ∧ e.detail = BitVec.ofNat 64 d ∧ e.struck = struck) ∧
    s.logs (s.memRaise g cls b syn d struck) cls (.dieUnit g.d g.n) d := by
  obtain ⟨hw, hregs⟩ := memLast_keeps (s := s) (g := g) cls b syn
  have herr : (s.memLast g cls b syn).err = s.err := StartPhases.within_same hw .err (by decide)
  unfold State.memRaise
  generalize s.memLast g cls b syn = u at hw hregs herr
  refine ⟨within_trans (within_mono hw (by decide)) (within_raise (by decide) (within_refl u)), regsBut_of_regs hregs (raise_part ..) (raise_regs ..), ?_,
    logs_raise (congrArg Err.recQ herr) ..⟩
  rw [← herr]
  exact raise_entry ..

theorem memRaiseLim_keeps (cls b syn : Nat) : s.within [.regs, .err] (s.memRaiseLim g cls b syn) ∧
    s.regsBut (s.memRaiseLim g cls b syn) [memKey g.d g.n MEM_ERR_ADDR, memKey g.d g.n MEM_ERR_INFO] := by
  have hw : s.within [.regs, .err] (s.raiseLim 1000000 cls (.dieUnit g.d g.n) 0) := within_raiseLim (by decide) (within_refl s)
  have hregs : s.regsBut (s.raiseLim 1000000 cls (.dieUnit g.d g.n) 0) [memKey g.d g.n MEM_ERR_ADDR, memKey g.d g.n MEM_ERR_INFO] :=
    regsBut_of_regs (regsBut_refl s _) (raiseLim_part ..) (raiseLim_regs ..)
  unfold State.memRaiseLim
  dsimp only
  generalize s.raiseLim 1000000 cls (.dieUnit g.d g.n) 0 = u at hw hregs ⊢
  split
  · exact ⟨hw, hregs⟩
  · obtain ⟨hw', hregs'⟩ := memLast_keeps (s := u) (g := g) cls b syn
    exact ⟨within_trans hw (within_mono hw' (by decide)), regsBut_trans hregs hregs'⟩

/-- A counter of the controller that software has not cleared in the cycle. -/
theorem counted (hw : s.written (memKey g.d g.n MEM_ECC_CNT) = false) {lo w n : Nat} (h : lo + w ≤ 64) :
    (s.incSatUn (memKey g.d g.n MEM_ECC_CNT) lo w n).fld (memKey g.d g.n MEM_ECC_CNT) lo w = min (s.fld (memKey g.d g.n MEM_ECC_CNT) lo w + n) (2 ^ w - 1) := by
  rw [State.incSatUn, hw]
  exact fld_incSat_same _ _ h

/-- A record changes no counter. -/
theorem cnt_of_regsBut (h : s.regsBut t [memKey g.d g.n MEM_ERR_ADDR, memKey g.d g.n MEM_ERR_INFO]) (lo w : Nat) :
    t.fld (memKey g.d g.n MEM_ECC_CNT) lo w = s.fld (memKey g.d g.n MEM_ECC_CNT) lo w :=
  fld_of_regsBut h (by simp [memKey_ne (show MEM_ECC_CNT ≠ MEM_ERR_ADDR by decide), memKey_ne (show MEM_ECC_CNT ≠ MEM_ERR_INFO by decide)]) lo w

/-! ### Reads of one half-block -/

theorem halvesOf_one (ha : a % 32 = 0) : halvesOf a 32 = [a] := by
  unfold halvesOf
  rw [if_neg (by decide), show (a + 32 - 1) / 32 - a / 32 + 1 = 1 by omega]
  simp only [List.range_one, List.map_cons, List.map_nil]
  congr 1
  omega

theorem readHalves_one {o : Option Nat} (ha : a % 32 = 0) (ht : s.tagBad g a = false) (hr : s.readHalf g a = (t, o)) :
    s.readHalves g a 32 = (t, toLe 32 (o.getD 0), match o with | some _ => [] | none => wordsIn a 32 a) := by
  have htake (w : Nat) : ((toLe 32 w).drop (a % 32)).take 32 = toLe 32 w := by
    rw [ha, List.drop_zero]
    exact List.take_of_length_le (by rw [StartPhases.length_toLe])
  unfold State.readHalves
  rw [ht, if_neg Bool.false_ne_true, halvesOf_one ha]
  simp only [List.foldl_cons, List.foldl_nil, hr]
  cases o <;> simp only [List.nil_append, htake] <;> rfl

theorem wordsIn_one (ha : a % 32 = 0) : wordsIn a 32 a = [0, 1, 2, 3] := by
  have hword (i : Nat) (hi : i < 4) : (if a / 8 ≤ a / 8 + i ∧ 8 * (a / 8 + i) < a + 32 then some (a / 8 + i - a / 8) else none) = some i := by
    rw [if_pos (by omega), Nat.add_sub_cancel_left]
  unfold wordsIn
  rw [show List.range 4 = [0, 1, 2, 3] from rfl]
  simp only [List.filterMap_cons, List.filterMap_nil, hword 0 (by decide), hword 1 (by decide), hword 2 (by decide), hword 3 (by decide)]

theorem addr_lt (ga : GAddr) : bits ga.toNat 0 44 < 2 ^ 44 := IntegerInstructions.bits_lt ..

theorem mem_answer (req : Req) (r : Resp) : (req, r) ∈ (s.answer req r).resp := List.mem_cons_self

/-! ### What does not change memory -/

theorem byte_of_mem (h : t.mem = s.mem) (k : Nat) : t.byte k = s.byte k := by unfold State.byte; rw [h]

theorem bytes_of_mem (h : t.mem = s.mem) (k n : Nat) : t.bytes k n = s.bytes k n :=
  List.map_congr_left fun i _ => byte_of_mem h (k + i)

theorem half_of_mem (h : t.mem = s.mem) (a : Nat) : t.half a = s.half a := congrArg ofLe (bytes_of_mem h ..)

theorem halfChk_of_mem (h : t.mem = s.mem) (a : Nat) : t.halfChk a = s.halfChk a := congrArg ofLe (bytes_of_mem h ..)

theorem halfChk_lt (s : State) (a : Nat) : s.halfChk a < 2 ^ 16 := by
  have := Scratchpad.ofLe_lt (s.bytes (gddrChkKey a) 2)
  rw [length_bytes] at this
  exact this.trans_eq (by norm_num)

theorem within_putHalf (s : State) (a w chk : Nat) : s.within [.mem] (s.putHalf a w chk) :=
  within_setBytes (by decide) (within_setBytes (by decide) (within_refl s))

theorem half_poisonHalf (ha : a < 2 ^ 44) : (s.poisonHalf a).half a = 0 := (half_putHalf ha ..).trans (Nat.zero_mod _)

theorem halfChk_poisonHalf (s : State) (a : Nat) : (s.poisonHalf a).halfChk a = 0xFFFF := (halfChk_putHalf ..).trans (by norm_num)

theorem halfChk_writeHalf (s : State) (a w : Nat) : (s.writeHalf a w).halfChk a = gddrCheck w :=
  (halfChk_putHalf ..).trans (Nat.mod_eq_of_lt (gddrCheck_lt w))

/-- Every byte outside an aligned half-block and its check field. -/
def OtherBytes (s t : State) (a : Nat) : Prop := ∀ k, (k < a ∨ a + 32 ≤ k) → k ≠ gddrChkKey a → k ≠ gddrChkKey a + 1 → t.byte k = s.byte k

theorem otherBytes_putHalf (ha : a % 32 = 0) (h : t.mem = (s.putHalf a w chk).mem) : OtherBytes s t a := fun k hk h0 h1 =>
  (byte_of_mem h k).trans (byte_putHalf_other w chk (by omega) h0 h1)

theorem written_putHalf (k : Nat) : (s.putHalf a w chk).written k = s.written k := by
  unfold State.putHalf
  simp only [State.written, setBytes_wrote]

/-- A half-block stored and counted by its controller. -/
theorem putCounted_keeps {lo : Nat} (hw : s.written (memKey g.d g.n MEM_ECC_CNT) = false) (h : lo + 16 ≤ 64)
    (hu : (s.putHalf a w chk).incSatUn (memKey g.d g.n MEM_ECC_CNT) lo 16 1 = t) :
    s.within [.mem, .regs] t ∧ t.mem = (s.putHalf a w chk).mem ∧
    t.fld (memKey g.d g.n MEM_ECC_CNT) lo 16 = min (s.fld (memKey g.d g.n MEM_ECC_CNT) lo 16 + 1) 0xFFFF := by
  subst hu
  have hp := within_putHalf s a w chk
  have hfld : (s.putHalf a w chk).fld (memKey g.d g.n MEM_ECC_CNT) lo 16 = s.fld (memKey g.d g.n MEM_ECC_CNT) lo 16 :=
    fld_of_regs hp.1 (StartPhases.within_same hp .regs (by decide)) ..
  have hwr : (s.putHalf a w chk).written (memKey g.d g.n MEM_ECC_CNT) = false := (written_putHalf ..).trans hw
  have hi := within_incSatUn (k := memKey g.d g.n MEM_ECC_CNT) (lo := lo) (w := 16) (n := 1) (List.Subset.refl [Comp.regs]) (within_refl (s.putHalf a w chk))
  refine ⟨within_trans (within_mono hp (by decide)) (within_mono hi (by decide)), StartPhases.within_same hi .mem (by decide), ?_⟩
  rw [counted hwr h, hfld]
  rfl

/-- A record with its test of the half-block. -/
theorem tested_keeps {cls b syn d : Nat} {struck : Option Nat} (ht : (s.halfTest g).memRaise g cls b syn d struck = t) : s.within [.mcs, .regs, .err] t ∧
    (∀ lo w, t.fld (memKey g.d g.n MEM_ECC_CNT) lo w = s.fld (memKey g.d g.n MEM_ECC_CNT) lo w) ∧ s.logs t cls (.dieUnit g.d g.n) d ∧
    (t.mc g.d g.n).tests = (s.mc g.d g.n).tests ++ [s.err.nextSn] := by
  have htest : s.within [.mcs] (s.halfTest g) := within_halfTest (List.Subset.refl _) (within_refl s)
  have hrec : (s.halfTest g).err.recQ = s.err.recQ := congrArg Err.recQ (StartPhases.within_same htest .err (by decide))
  have hregs : (s.halfTest g).regs = s.regs := StartPhases.within_same htest .regs (by decide)
  obtain ⟨hw, hbut, -, hlog⟩ := memRaise_keeps (s := s.halfTest g) (g := g) cls b syn d struck
  rw [ht] at hw hbut hlog
  have hmcs : t.mcs = (s.halfTest g).mcs := StartPhases.within_same hw .mcs (by decide)
  refine ⟨within_trans (within_mono htest (by decide)) (within_mono hw (by decide)), fun lo w => ?_, logs_of_same hrec hlog, ?_⟩
  · exact (cnt_of_regsBut hbut lo w).trans (fld_of_regs htest.1 hregs ..)
  · rw [mc_of_mcs hmcs, tests_halfTest]

/-! ### A read of one half-block (R261, R268) -/

section
variable {req : Req} {ga : GAddr} {v : Nat}

theorem exec_read_one {o : Option Nat} (ha : a = bits ga.toNat 0 44) (h32 : a % 32 = 0) (hr : s.gddrReason a 32 = 0) (hl : s.locate a = some g)
    (hh : s.heldBack g = false) (ht : s.tagBad g a = false) (hd : s.devState g.d g.n ≠ 6) (hread : s.readHalf g a = (t, o)) :
    exec (.gddrRead req ga 32 0 0) s =
      .next (t.answer req (if o.isSome then .read (toLe 32 (o.getD 0)) [] 0 else .read (List.replicate 32 0) [0, 1, 2, 3] 2)) := by
  subst ha
  have h := exec_read (req := req) hr hl hh hd (readHalves_one h32 ht hread)
  cases o with
  | some v => exact h
  | none => exact (wordsIn_one h32 ▸ h :)

theorem read_single (ha : a = bits ga.toNat 0 44) (h32 : a % 32 = 0) (hr : s.gddrReason a 32 = 0) (hl : s.locate a = some g) (hh : s.heldBack g = false)
    (ht : s.tagBad g a = false) (hd : s.devState g.d g.n ≠ 6) (hw : s.written (memKey g.d g.n MEM_ECC_CNT) = false)
    (hj : gddrJudge (s.half a) (s.halfChk a) = .single v) :
    ∃ t, exec (.gddrRead req ga 32 0 0) s = .next t ∧ (req, Resp.read (toLe 32 v) [] 0) ∈ t.resp ∧ t.half a = v ∧ t.halfChk a = gddrCheck v ∧
      t.fld (memKey g.d g.n MEM_ECC_CNT) 0 16 = min (s.fld (memKey g.d g.n MEM_ECC_CNT) 0 16 + 1) 0xFFFF ∧ OtherBytes s t a := by
  have hlt : a < 2 ^ 44 := ha ▸ addr_lt ga
  have hexec := exec_read_one (req := req) ha h32 hr hl hh ht hd (readHalf_single hj)
  simp only [Option.isSome_some, if_true, Option.getD_some] at hexec
  generalize hu : (s.writeHalf a v).incSatUn (memKey g.d g.n MEM_ECC_CNT) 0 16 1 = u at hexec
  obtain ⟨-, hmem, hcnt⟩ := putCounted_keeps hw (by decide) hu
  obtain ⟨hwr, hregs⟩ := memRaiseLim_keeps (s := u) (g := g) 0x41 (a / 32 * 32) (s.halfChk a ^^^ gddrCheck (s.half a))
  have hcnt' := cnt_of_regsBut hregs 0 16
  have hmem' := (StartPhases.within_same hwr .mem (by decide)).trans hmem
  generalize u.memRaiseLim g 0x41 (a / 32 * 32) (s.halfChk a ^^^ gddrCheck (s.half a)) = x at hexec hcnt' hmem'
  refine ⟨_, hexec, mem_answer .., ?_, ?_, hcnt'.trans hcnt, otherBytes_putHalf h32 hmem'⟩
  · exact (half_of_mem hmem' a).trans ((half_putHalf hlt ..).trans (Nat.mod_eq_of_lt (single_lt (half_lt s a) hj)))
  · exact (halfChk_of_mem hmem' a).trans ((halfChk_putHalf ..).trans (Nat.mod_eq_of_lt (gddrCheck_lt v)))

theorem read_bad (ha : a = bits ga.toNat 0 44) (h32 : a % 32 = 0) (hr : s.gddrReason a 32 = 0) (hl : s.locate a = some g) (hh : s.heldBack g = false)
    (ht : s.tagBad g a = false) (hd : s.devState g.d g.n ≠ 6) (hw : s.written (memKey g.d g.n MEM_ECC_CNT) = false)
    (hj : gddrJudge (s.half a) (s.halfChk a) = .bad) :
    ∃ t, exec (.gddrRead req ga 32 0 0) s = .next t ∧ (req, Resp.read (List.replicate 32 0) [0, 1, 2, 3] 2) ∈ t.resp ∧ t.half a = 0 ∧
      t.halfChk a = 0xFFFF ∧ s.logs t 0x42 (.dieUnit g.d g.n) 0 ∧ (t.mc g.d g.n).tests = (s.mc g.d g.n).tests ++ [s.err.nextSn] ∧
      t.fld (memKey g.d g.n MEM_ECC_CNT) 16 16 = min (s.fld (memKey g.d g.n MEM_ECC_CNT) 16 16 + 1) 0xFFFF ∧ t.cells = s.cells ∧ OtherBytes s t a := by
  have hlt : a < 2 ^ 44 := ha ▸ addr_lt ga
  have hexec := exec_read_one (req := req) ha h32 hr hl hh ht hd (readHalf_bad hj)
  simp only [Option.isSome_none, Bool.false_eq_true, if_false] at hexec
  generalize hu : (s.poisonHalf a).incSatUn (memKey g.d g.n MEM_ECC_CNT) 16 16 1 = u at hexec
  generalize hy : (u.halfTest g).memRaise g 0x42 (a / 32 * 32) (s.halfChk a ^^^ gddrCheck (s.half a)) 0 none = y at hexec
  obtain ⟨hwu, hmem, hcnt⟩ := putCounted_keeps hw (by decide) hu
  obtain ⟨hwy, hcnt', hlog, htests⟩ := tested_keeps hy
  have herr : u.err = s.err := StartPhases.within_same hwu .err (by decide)
  have hmcs : u.mcs = s.mcs := StartPhases.within_same hwu .mcs (by decide)
  have hmem' : y.mem = (s.poisonHalf a).mem := (StartPhases.within_same hwy .mem (by decide)).trans hmem
  have hcells : y.cells = s.cells := (StartPhases.within_same hwy .cells (by decide)).trans (StartPhases.within_same hwu .cells (by decide))
  rw [herr, mc_of_mcs hmcs] at htests
  have hmem'' : (y.answer req (.read (List.replicate 32 0) [0, 1, 2, 3] 2)).mem = (s.poisonHalf a).mem := (answer_mem ..).trans hmem'
  refine ⟨_, hexec, mem_answer .., (half_of_mem hmem'' a).trans (half_poisonHalf hlt), (halfChk_of_mem hmem'' a).trans (halfChk_poisonHalf ..), ?_, ?_, ?_,
    (answer_cells ..).trans hcells, otherBytes_putHalf h32 hmem''⟩
  · exact logs_of_err (logs_of_same (congrArg Err.recQ herr) hlog) (congrArg Err.recQ (answer_err ..))
  · exact (congrArg Mc.tests (answer_mc ..)).trans htests
  · exact (fld_of_regs (answer_part ..) (answer_regs ..) ..).trans ((hcnt' 16 16).trans hcnt)

end

/-! ### Refused requests (R265, R280) -/

theorem gddrRefuse_far {c : Nat} {k : CoreSel} (b r : Nat) : ∃ e, (s.gddrRefuse (.far c k) b r).mem = s.mem ∧
    s.regsBut (s.gddrRefuse (.far c k) b r) (match s.locate b with
      | some g => [memKey g.d g.n MEM_ERR_ADDR, memKey g.d g.n MEM_ERR_INFO] | none => []) ∧
    (s.gddrRefuse (.far c k) b r).err.recQ = s.err.recQ ++ [e] ∧ e.cls = 0x44 ∧ e.detail = BitVec.ofNat 64 (r + b * 2 ^ 8) ∧ e.struck = some c := by
  unfold State.gddrRefuse
  dsimp only
  cases s.locate b with
  | some g =>
    obtain ⟨hw, hregs, ⟨e, he⟩, -⟩ := memRaise_keeps (s := s) (g := g) 0x44 (b / 32 * 32) 0 (r + b * 2 ^ 8) (originCell (.far c k))
    exact ⟨e, StartPhases.within_same hw .mem (by decide), hregs, he⟩
  | none =>
    obtain ⟨e, he⟩ := raise_entry s 0x44 (.engine 0) (r + b * 2 ^ 8) (originCell (.far c k))
    exact ⟨e, raise_mem .., regsBut_of_regs (regsBut_refl s _) (raise_part ..) (raise_regs ..), he⟩

theorem exec_read_refused {req : Req} {ga : GAddr} {len m : Nat} (hr : s.gddrReason (bits ga.toNat 0 44) len ≠ 0) :
    exec (.gddrRead req ga len m 0) s =
      .next ((s.gddrRefuse req (bits ga.toNat 0 44) (s.gddrReason (bits ga.toNat 0 44) len)).answer req (.read [] [] 1)) := by
  refine next_congr ?_
  simp only [State.gddrRead, mcUpset_none, State.gddrReadReq, hr, ne_eq, not_false_eq_true, if_true, show ¬ (0 = 2) by decide, if_false]

theorem exec_write_refused {req : Req} {ga : GAddr} {data : List Byte} {pois : List Nat} {m : Nat} (hr : s.gddrReason (bits ga.toNat 0 44) data.length ≠ 0) :
    exec (.gddrWrite req ga data pois m 0) s =
      .next ((s.gddrRefuse req (bits ga.toNat 0 44) (s.gddrReason (bits ga.toNat 0 44) data.length)).answer req (.ack 1)) := by
  refine next_congr ?_
  simp only [State.gddrWrite, mcUpset_none, State.gddrWriteReq, hr, ne_eq, not_false_eq_true, if_true, show ¬ (0 = 2) by decide, if_false]

/-! ### The bytes a write puts into a half-block (R267) -/

/-- Entries made one for each place are found by their place. -/
theorem find?_places {f : Nat → Option (Nat × Byte)} (hf : ∀ i p, f i = some p → p.1 = i) (l : List Nat) {i : Nat} (hi : i ∈ l) :
    (l.filterMap f).find? (fun p => p.1 == i) = f i := by
  have hnone (l : List Nat) (h : f i = none) : (l.filterMap f).find? (fun p => p.1 == i) = none := by
    refine List.find?_eq_none.2 fun p hp hpi => ?_
    obtain ⟨j, -, hj⟩ := List.mem_filterMap.1 hp
    rw [← hf j p hj, beq_iff_eq.1 hpi, h] at hj
    cases hj
  induction l with
  | nil => cases hi
  | cons x l ih =>
    cases hx : f x with
    | none =>
      rw [List.filterMap_cons_none hx]
      rcases List.mem_cons.1 hi with rfl | hi
      · exact (hnone l hx).trans hx.symm
      · exact ih hi
    | some p =>
      rw [List.filterMap_cons_some hx, List.find?_cons]
      have hp := hf x p hx
      by_cases hxi : x = i
      · subst hxi
        rw [hp, beq_self_eq_true, hx]
      · rw [hp, beq_false_of_ne hxi]
        exact ih ((List.mem_cons.1 hi).resolve_left fun h => hxi h.symm)

theorem coveredHalf_find {h i : Nat} {data : List Byte} (hi : i < 32) : (coveredHalf a h data).find? (fun p => p.1 == i) =
    if a ≤ h + i then (data[h + i - a]?).map fun b => (i, b) else none := by
  refine find?_places (fun j p hj => ?_) (List.range 32) (List.mem_range.2 hi)
  split at hj
  · obtain ⟨b, -, rfl⟩ := Option.map_eq_some_iff.1 hj
    rfl
  · cases hj

theorem mergeHalf_lt (w : Nat) (bs : List (Nat × Byte)) : mergeHalf w bs < 2 ^ 256 := by
  refine (Scratchpad.ofLe_lt _).trans_eq ?_
  rw [List.length_map, List.length_range]
  norm_num

/-- A byte of a merged half-block: the run's where the run covers it, else the stored one. -/
theorem toLe_mergeHalf {h i : Nat} {data : List Byte} (w : Nat) (hi : i < 32) : (toLe 32 (mergeHalf w (coveredHalf a h data)))[i]? =
    some (match (if a ≤ h + i then data[h + i - a]? else none) with | some b => b | none => BitVec.ofNat 8 (w / 256 ^ i)) := by
  unfold mergeHalf
  have hlen {f : Nat → Byte} : toLe 32 (ofLe ((List.range 32).map f)) = (List.range 32).map f := by
    have := toLe_ofLe ((List.range 32).map f)
    rwa [List.length_map, List.length_range] at this
  rw [hlen, List.getElem?_map, List.getElem?_range hi, Option.map_some, coveredHalf_find hi]
  by_cases ha : a ≤ h + i
  · rw [if_pos ha, if_pos ha]
    cases data[h + i - a]? <;> rfl
  · rw [if_neg ha, if_neg ha]

/-- A run that covers the half-block leaves no stored byte. -/
theorem coveredHalf_whole {data : List Byte} (hlen : data.length = 32) : (coveredHalf a a data).length = 32 := by
  unfold coveredHalf
  rw [List.filterMap_length_eq_length.2, List.length_range]
  intro i hi
  have hi := List.mem_range.1 hi
  rw [if_pos (Nat.le_add_right a i), Nat.add_sub_cancel_left, List.getElem?_eq_getElem (by omega)]
  rfl

theorem coveredHalf_part {data : List Byte} (h : a % 32 + data.length < 32) : (coveredHalf a (a / 32 * 32) data).length ≠ 32 := by
  refine Nat.ne_of_lt ?_
  have hlt := List.length_filterMap_lt_length_iff_exists (xs := List.range 32)
    (f := fun i => if a ≤ a / 32 * 32 + i then (data[a / 32 * 32 + i - a]?).map fun b => (i, b) else none)
  rw [List.length_range] at hlt
  refine hlt.2 ⟨31, List.mem_range.2 (by decide), ?_⟩
  rw [if_pos (by omega), List.getElem?_eq_none (by omega)]
  rfl

/-! ### Writes of one half-block (R267) -/

theorem halvesOf_within {len : Nat} (h0 : 0 < len) (h : a % 32 + len ≤ 32) : halvesOf a len = [a / 32 * 32] := by
  unfold halvesOf
  rw [if_neg (by omega), show (a + len - 1) / 32 - a / 32 + 1 = 1 by omega]
  rfl

theorem putHalf_base (s : State) (a w chk : Nat) : s.putHalf (a / 32 * 32) w chk = s.putHalf a w chk := by
  unfold State.putHalf gddrChkKey
  rw [Nat.mul_div_cancel _ (show 0 < 32 by decide)]

theorem half_base (s : State) (a : Nat) : s.half (a / 32 * 32) = s.half a := by
  unfold State.half
  rw [Nat.mul_div_cancel _ (show 0 < 32 by decide)]

theorem halfChk_base (s : State) (a : Nat) : s.halfChk (a / 32 * 32) = s.halfChk a := by
  unfold State.halfChk gddrChkKey
  rw [Nat.mul_div_cancel _ (show 0 < 32 by decide)]

section
variable {req : Req} {ga : GAddr} {data : List Byte} {pois : List Nat}

theorem store_one {h : Nat} {ok : Bool} (hd : s.devState g.d g.n ≠ 6) (hh : halvesOf a data.length = [h])
    (ht : s.tagBad g a = false ∨ (coveredHalf a h data).length = 32) (hp : s.writePart g req a data pois h = (t, ok)) :
    s.gddrStore g req a data pois = (t, if ok then 0 else 2) := by
  have hnot : ¬ (s.tagBad g a = true ∧ (halvesOf a data.length).any (fun h => (coveredHalf a h data).length ≠ 32) = true) := by
    rintro ⟨hb, hany⟩
    rw [hh, List.any_cons, List.any_nil, Bool.or_false, decide_eq_true_eq] at hany
    rcases ht with ht | ht
    · rw [ht] at hb
      cases hb
    · exact hany ht
  unfold State.gddrStore
  rw [if_neg hd, if_neg hnot, hh]
  simp only [List.foldl_cons, List.foldl_nil, hp, Bool.true_and]

theorem exec_write_one {h : Nat} {ok : Bool} (ha : a = bits ga.toNat 0 44) (hr : s.gddrReason a data.length = 0) (hl : s.locate a = some g)
    (hh : s.heldBack g = false) (hd : s.devState g.d g.n ≠ 6) (hone : halvesOf a data.length = [h])
    (ht : s.tagBad g a = false ∨ (coveredHalf a h data).length = 32) (hp : s.writePart g req a data pois h = (t, ok)) :
    exec (.gddrWrite req ga data pois 0 0) s = .next (t.answer req (.ack (if ok then 0 else 2))) := by
  subst ha
  exact exec_write hr hl hh (store_one hd hone ht hp)

theorem mergeHalf_whole (w : Nat) (hlen : data.length = 32) : toLe 32 (mergeHalf w (coveredHalf a a data)) = data := by
  refine List.ext_getElem? fun i => ?_
  by_cases hi : i < 32
  · rw [toLe_mergeHalf w hi, if_pos (Nat.le_add_right a i), Nat.add_sub_cancel_left, List.getElem?_eq_getElem (by omega)]
  · rw [List.getElem?_eq_none (by rw [StartPhases.length_toLe]; omega), List.getElem?_eq_none (by omega)]

theorem mergeHalf_eq (w : Nat) (hlen : data.length = 32) : mergeHalf w (coveredHalf a a data) = ofLe data := by
  have h := congrArg ofLe (mergeHalf_whole (a := a) w hlen)
  rw [Scratchpad.ofLe_toLe, Nat.mod_eq_of_lt ((mergeHalf_lt w _).trans_eq (by norm_num))] at h
  exact h

theorem write_whole (ha : a = bits ga.toNat 0 44) (h32 : a % 32 = 0) (hlen : data.length = 32) (hr : s.gddrReason a 32 = 0) (hl : s.locate a = some g)
    (hh : s.heldBack g = false) (hd : s.devState g.d g.n ≠ 6) :
    ∃ t, exec (.gddrWrite req ga data [] 0 0) s = .next t ∧ (req, Resp.ack 0) ∈ t.resp ∧ t.bytes a 32 = data ∧ t.halfChk a = gddrCheck (ofLe data) ∧
      t.regs = s.regs ∧ t.err = s.err ∧ OtherBytes s t a := by
  have hb : a / 32 * 32 = a := by omega
  have hone : halvesOf a data.length = [a] := by rw [hlen, halvesOf_one h32]
  have hp : s.writePart g req a data [] a = (s.writeHalf a (ofLe data), true) := by
    unfold State.writePart
    dsimp only
    rw [if_neg (by simp), if_pos (coveredHalf_whole hlen), mergeHalf_eq 0 hlen]
  have hexec := exec_write_one (req := req) ha (hlen.symm ▸ hr) hl hh hd hone (.inr (coveredHalf_whole hlen)) hp
  simp only [if_true] at hexec
  have hlt : a < 2 ^ 44 := ha ▸ addr_lt ga
  have hbytes := bytes_putHalf (s := s) hlt (ofLe data) (gddrCheck (ofLe data))
  have hdata := toLe_ofLe data
  rw [hlen] at hdata
  rw [hb, hdata] at hbytes
  have hw := within_putHalf s a (ofLe data) (gddrCheck (ofLe data))
  have hregs : (s.writeHalf a (ofLe data)).regs = s.regs := StartPhases.within_same hw .regs (by decide)
  have herr : (s.writeHalf a (ofLe data)).err = s.err := StartPhases.within_same hw .err (by decide)
  exact ⟨_, hexec, mem_answer .., (bytes_of_mem (answer_mem ..) ..).trans hbytes, (halfChk_of_mem (answer_mem ..) a).trans (halfChk_writeHalf ..),
    (answer_regs ..).trans hregs, (answer_err ..).trans herr, otherBytes_putHalf h32 (answer_mem ..)⟩

theorem write_poisoned (ha : a = bits ga.toNat 0 44) (h32 : a % 32 = 0) (hlen : data.length = 32) (hr : s.gddrReason a 32 = 0) (hl : s.locate a = some g)
    (hh : s.heldBack g = false) (hd : s.devState g.d g.n ≠ 6) :
    ∃ t, exec (.gddrWrite req ga data [2] 0 0) s = .next t ∧ (req, Resp.ack 0) ∈ t.resp ∧ t.half a = 0 ∧ t.halfChk a = 0xFFFF ∧ t.regs = s.regs ∧ t.err = s.err ∧
      OtherBytes s t a := by
  have hone : halvesOf a data.length = [a] := by rw [hlen, halvesOf_one h32]
  have hp : s.writePart g req a data [2] a = (s.poisonHalf a, true) := by
    unfold State.writePart
    dsimp only
    rw [hlen, wordsIn_one h32, if_pos (by decide)]
  have hexec := exec_write_one (req := req) ha (hlen.symm ▸ hr) hl hh hd hone (.inr (coveredHalf_whole hlen)) hp
  simp only [if_true] at hexec
  have hlt : a < 2 ^ 44 := ha ▸ addr_lt ga
  have hw := within_putHalf s a 0 0xFFFF
  have hregs : (s.poisonHalf a).regs = s.regs := StartPhases.within_same hw .regs (by decide)
  have herr : (s.poisonHalf a).err = s.err := StartPhases.within_same hw .err (by decide)
  exact ⟨_, hexec, mem_answer .., (half_of_mem (answer_mem ..) a).trans (half_poisonHalf hlt), (halfChk_of_mem (answer_mem ..) a).trans (halfChk_poisonHalf ..),
    (answer_regs ..).trans hregs, (answer_err ..).trans herr, otherBytes_putHalf h32 (answer_mem ..)⟩

/-- A byte of a good half-block that a run does not cover stays; the others are the run's. -/
theorem byte_merged (hfit : a % 32 + data.length < 32) {chk k : Nat} (h0 : k ≠ gddrChkKey a) (h1 : k ≠ gddrChkKey a + 1) :
    (s.putHalf a (mergeHalf (s.half a) (coveredHalf a (a / 32 * 32) data)) chk).byte k =
      if a ≤ k ∧ k < a + data.length then (data[k - a]?).getD 0 else s.byte k := by
  rw [byte_putHalf, if_neg (by omega)]
  by_cases hk : a / 32 * 32 ≤ k ∧ k < a / 32 * 32 + 32
  · rw [if_pos hk, toLe_mergeHalf _ (by omega), show a / 32 * 32 + (k - a / 32 * 32) = k by omega, Option.getD_some]
    by_cases hrun : a ≤ k ∧ k < a + data.length
    · rw [if_pos hrun, if_pos hrun.1, List.getElem?_eq_getElem (by omega)]
      rfl
    · rw [if_neg hrun]
      have hnone : (if a ≤ k then data[k - a]? else none) = none := by
        split
        · exact List.getElem?_eq_none (by omega)
        · rfl
      have hstored := toLe_half s (a := a / 32 * 32) (Nat.mul_mod_left ..)
      have hget : (toLe 32 (s.half a))[k - a / 32 * 32]? = some (s.byte k) := by
        rw [← half_base, hstored, State.bytes, List.getElem?_map, List.getElem?_range (by omega), Option.map_some,
          show a / 32 * 32 + (k - a / 32 * 32) = k by omega]
      rw [hnone]
      rw [List.getElem?_eq_getElem (by rw [StartPhases.length_toLe]; omega), toLe_getElem, Option.some_inj] at hget
      exact hget
  · rw [if_neg hk, if_neg (by omega)]

theorem write_part (ha : a = bits ga.toNat 0 44) (h0 : 0 < data.length) (hfit : a % 32 + data.length < 32) (hr : s.gddrReason a data.length = 0)
    (hl : s.locate a = some g) (hh : s.heldBack g = false) (ht : s.tagBad g a = false) (hd : s.devState g.d g.n ≠ 6)
    (hj : gddrJudge (s.half a) (s.halfChk a) = .good) :
    ∃ t, exec (.gddrWrite req ga data [] 0 0) s = .next t ∧ (req, Resp.ack 0) ∈ t.resp ∧ t.bytes a data.length = data ∧ t.halfChk a = gddrCheck (t.half a) ∧
      t.regs = s.regs ∧ t.err = s.err ∧ ∀ k, (k < a ∨ a + data.length ≤ k) → k ≠ gddrChkKey a → k ≠ gddrChkKey a + 1 → t.byte k = s.byte k := by
  have hone := halvesOf_within h0 (Nat.le_of_lt hfit)
  have hp : s.writePart g req a data [] (a / 32 * 32) = (s.writeHalf a (mergeHalf (s.half a) (coveredHalf a (a / 32 * 32) data)), true) := by
    unfold State.writePart
    simp only [half_base, halfChk_base, hj]
    rw [if_neg (by simp), if_neg (coveredHalf_part hfit)]
    unfold State.writeHalf
    rw [putHalf_base]
  have hexec := exec_write_one (req := req) ha hr hl hh hd hone (.inl ht) hp
  simp only [if_true] at hexec
  have hlt : a < 2 ^ 44 := ha ▸ addr_lt ga
  have hkey : gddrChkKey a = 2 ^ 45 + 2 * (a / 32) := rfl
  have hhalf : (s.writeHalf a (mergeHalf (s.half a) (coveredHalf a (a / 32 * 32) data))).half a = mergeHalf (s.half a) (coveredHalf a (a / 32 * 32) data) :=
    (half_putHalf hlt ..).trans (Nat.mod_eq_of_lt (mergeHalf_lt ..))
  have hbyte (k : Nat) := byte_merged (s := s) (chk := gddrCheck (mergeHalf (s.half a) (coveredHalf a (a / 32 * 32) data))) (k := k) hfit
  have hw := within_putHalf s a (mergeHalf (s.half a) (coveredHalf a (a / 32 * 32) data)) (gddrCheck (mergeHalf (s.half a) (coveredHalf a (a / 32 * 32) data)))
  have hregs := StartPhases.within_same hw .regs (by decide)
  have herr := StartPhases.within_same hw .err (by decide)
  have hchk := halfChk_writeHalf s a (mergeHalf (s.half a) (coveredHalf a (a / 32 * 32) data))
  refine ⟨_, hexec, mem_answer .., (bytes_of_mem (answer_mem ..) ..).trans (bytes_eq rfl fun i hi => ?_), ?_, (answer_regs ..).trans hregs, (answer_err ..).trans herr,
    fun k hk hk0 hk1 => (byte_of_mem (answer_mem ..) k).trans ((hbyte k hk0 hk1).trans (if_neg (by omega)))⟩
  · rw [State.writeHalf, hbyte (a + i) (by omega) (by omega), if_pos (by omega), Nat.add_sub_cancel_left]
  · rw [halfChk_of_mem (answer_mem ..), half_of_mem (answer_mem ..), hhalf, hchk]

theorem write_into_poison (ha : a = bits ga.toNat 0 44) (h0 : 0 < data.length) (hfit : a % 32 + data.length < 32) (hr : s.gddrReason a data.length = 0)
    (hl : s.locate a = some g) (hh : s.heldBack g = false) (ht : s.tagBad g a = false) (hd : s.devState g.d g.n ≠ 6)
    (hj : gddrJudge (s.half a) (s.halfChk a) = .poison) :
    ∃ t e, exec (.gddrWrite req ga data [] 0 0) s = .next t ∧ (req, Resp.ack 2) ∈ t.resp ∧ t.half a = 0 ∧ t.halfChk a = 0xFFFF ∧
      t.err.recQ = s.err.recQ ++ [e] ∧ e.cls = 0x43 ∧ e.struck = originCell req := by
  have hone := halvesOf_within h0 (Nat.le_of_lt hfit)
  have hp : s.writePart g req a data [] (a / 32 * 32) = (((s.poisonHalf a).incSatUn (memKey g.d g.n MEM_ECC_CNT) 16 16 1).memRaise g 0x43 (a / 32 * 32)
      (s.halfChk a ^^^ gddrCheck (s.half a)) 0 (originCell req), false) := by
    unfold State.writePart
    simp only [half_base, halfChk_base, hj]
    rw [if_neg (by simp), if_neg (coveredHalf_part hfit)]
    unfold State.poisonHalf
    rw [putHalf_base]
  have hexec := exec_write_one (req := req) ha hr hl hh hd hone (.inl ht) hp
  simp only [Bool.false_eq_true, if_false] at hexec
  have hlt : a < 2 ^ 44 := ha ▸ addr_lt ga
  have hpu := within_putHalf s a 0 0xFFFF
  generalize hu : (s.poisonHalf a).incSatUn (memKey g.d g.n MEM_ECC_CNT) 16 16 1 = u at hexec
  have hwu : (s.poisonHalf a).within [.regs] u := hu ▸ within_incSatUn (List.Subset.refl _) (within_refl _)
  obtain ⟨hw, -, ⟨e, he, hcls, -, hst⟩, -⟩ := memRaise_keeps (s := u) (g := g) 0x43 (a / 32 * 32) (s.halfChk a ^^^ gddrCheck (s.half a)) 0 (originCell req)
  generalize u.memRaise g 0x43 (a / 32 * 32) (s.halfChk a ^^^ gddrCheck (s.half a)) 0 (originCell req) = y at hexec hw he
  have hmem : (y.answer req (.ack 2)).mem = (s.poisonHalf a).mem :=
    (answer_mem ..).trans ((StartPhases.within_same hw .mem (by decide)).trans (StartPhases.within_same hwu .mem (by decide)))
  have herr : u.err = s.err := (StartPhases.within_same hwu .err (by decide)).trans (StartPhases.within_same hpu .err (by decide))
  refine ⟨_, e, hexec, mem_answer .., (half_of_mem hmem a).trans (half_poisonHalf hlt), (halfChk_of_mem hmem a).trans (halfChk_poisonHalf ..), ?_, hcls, hst⟩
  rw [answer_err, he, herr]

end

/-! ### A controller's own error (R275) -/

theorem exec_read_upset {req : Req} {ga : GAddr} {len m : Nat} (hl : s.locate (bits ga.toNat 0 44) = some g) :
    exec (.gddrRead req ga len m 2) s = .next (s.memRaise g 0x49 0 0 0 none) := by
  refine next_congr ?_
  simp only [State.gddrRead, State.mcUpset, hl, if_true]

/-! ### Raw commands (R277, R278) -/

section
variable {d n : Nat}

theorem testAddr_lt (s : State) (d n : Nat) : s.testAddr d n < 2 ^ 44 := by
  have := IntegerInstructions.bits_lt ((s.reg (memKey d n MEM_ECC_TADDR)).toNat) 5 39
  have hfld : s.fld (memKey d n MEM_ECC_TADDR) 5 39 < 2 ^ 39 := this
  unfold State.testAddr
  omega

/-- The controller that serves the half-block is the one the command names. -/
theorem served_locate (h : s.testServed d n = true) : ∃ g, s.locate (s.testAddr d n) = some g ∧ g.d = d ∧ g.n = n := by
  unfold State.testServed at h
  generalize s.locate (s.testAddr d n) = o at h ⊢
  rw [Bool.and_eq_true] at h
  cases o with
  | none => exact absurd h.2 Bool.false_ne_true
  | some g =>
    obtain ⟨hd, hn⟩ := Bool.and_eq_true _ _ ▸ h.2
    exact ⟨g, rfl, beq_iff_eq.1 hd, beq_iff_eq.1 hn⟩

/-- With no request waiting and no retrain the command's turn comes at once. -/
theorem admitNow_free (hw : (s.mc g.d g.n).waits = []) (hr : s.retraining g.d g.n g.ch = false) (hf : s.fates = []) : s.admitNow g a = s := by
  have hserve : s.serveWaits g.d g.n = s := by
    unfold State.serveWaits
    rw [hw, List.foldl_nil]
  have hfree : s.channelFree g = s := by
    unfold State.channelFree
    rw [hr, if_neg Bool.false_ne_true, hserve]
  have hagain : s.nextAgain = (s, 0) := by
    unfold State.nextAgain
    rw [hf]
    rfl
  simp only [State.admitNow, hfree, hagain, State.transfer, hr, Bool.false_eq_true, if_false, if_true]

theorem rawTurn_free (h : s.testServed d n = true) (hw : (s.mc d n).waits = []) (hr : ∀ ch, s.retraining d n ch = false) (hf : s.fates = []) :
    s.rawTurn (s.testAddr d n) = s := by
  obtain ⟨g, hl, rfl, rfl⟩ := served_locate h
  simp only [State.rawTurn, hl, admitNow_free hw (hr g.ch) hf]

theorem half_setCheck {u : State} (ha : a < 2 ^ 44) (l : List Byte) : (u.setBytes (gddrChkKey a) l).half a = u.half a := by
  refine congrArg ofLe (List.map_congr_left fun i hi => ?_)
  have hi := List.mem_range.1 hi
  have hkey : gddrChkKey a = 2 ^ 45 + 2 * (a / 32) := rfl
  rw [byte_setBytes, if_neg (by omega)]

theorem halfChk_setCheck {u : State} (a v : Nat) : (u.setBytes (gddrChkKey a) (toLe 2 v)).halfChk a = v % 2 ^ 16 := by
  have hbytes : (u.setBytes (gddrChkKey a) (toLe 2 v)).bytes (gddrChkKey a) 2 = toLe 2 v := by
    refine bytes_eq (StartPhases.length_toLe ..) fun i hi => ?_
    rw [byte_setBytes, StartPhases.length_toLe, if_pos (by omega), Nat.add_sub_cancel_left]
  rw [State.halfChk, hbytes, Scratchpad.ofLe_toLe]
  rfl

theorem rawWrite_eq (h : s.testServed d n = true) (req : Req) : s.memRawWrite req d n =
    (s.rawTurn (s.testAddr d n)).setBytes (gddrChkKey (s.testAddr d n)) (toLe 2 (s.fld (memKey d n MEM_ECC_TCHK) 0 16)) := by
  unfold State.memRawWrite
  exact if_pos h

theorem rawRead_eq {u : State} (h : s.testServed d n = true) (hu : s.rawTurn (s.testAddr d n) = u) (hw : u.written (memKey d n MEM_ECC_TCHK) = false) (req : Req) :
    s.memRawRead req d n = (u.setFld (memKey d n MEM_ECC_TCHK) 0 16 (u.halfChk (s.testAddr d n))).setFld (memKey d n MEM_ECC_TCHK) 16 16
      (u.halfChk (s.testAddr d n) ^^^ gddrCheck (u.half (s.testAddr d n))) := by
  unfold State.memRawRead
  dsimp only
  rw [if_pos h, hu, State.hwFld, hw, if_neg Bool.false_ne_true]

theorem rawWritten {u : State} (req : Req) (h : s.testServed d n = true) (hu : s.rawTurn (s.testAddr d n) = u) :
    (s.memRawWrite req d n).halfChk (s.testAddr d n) = s.fld (memKey d n MEM_ECC_TCHK) 0 16 ∧ (s.memRawWrite req d n).half (s.testAddr d n) = u.half (s.testAddr d n) ∧
    (s.memRawWrite req d n).regs = u.regs ∧ (s.memRawWrite req d n).err = u.err := by
  rw [rawWrite_eq h, hu]
  have hfld : s.fld (memKey d n MEM_ECC_TCHK) 0 16 < 2 ^ 16 := IntegerInstructions.bits_lt ..
  exact ⟨(halfChk_setCheck ..).trans (Nat.mod_eq_of_lt hfld), half_setCheck (testAddr_lt ..) _, setBytes_regs .., setBytes_err ..⟩

theorem rawRead {u : State} (req : Req) (h : s.testServed d n = true) (hu : s.rawTurn (s.testAddr d n) = u) (hw : u.written (memKey d n MEM_ECC_TCHK) = false) :
    (s.memRawRead req d n).fld (memKey d n MEM_ECC_TCHK) 0 16 = u.halfChk (s.testAddr d n) ∧
    (s.memRawRead req d n).fld (memKey d n MEM_ECC_TCHK) 16 16 = u.halfChk (s.testAddr d n) ^^^ gddrCheck (u.half (s.testAddr d n)) ∧
    u.regsBut (s.memRawRead req d n) [memKey d n MEM_ECC_TCHK] ∧ (s.memRawRead req d n).mem = u.mem ∧ (s.memRawRead req d n).err = u.err := by
  rw [rawRead_eq h hu hw]
  have hchk := halfChk_lt u (s.testAddr d n)
  have hsyn := Nat.xor_lt_two_pow hchk (gddrCheck_lt (u.half (s.testAddr d n)))
  generalize u.halfChk (s.testAddr d n) = c at hchk hsyn
  generalize c ^^^ gddrCheck (u.half (s.testAddr d n)) = y at hsyn
  generalize memKey d n MEM_ECC_TCHK = k
  refine ⟨?_, ?_, regsBut_setFld (regsBut_setFld (regsBut_refl u _) List.mem_cons_self _ _ _) List.mem_cons_self _ _ _, rfl, rfl⟩
  · rw [fld_setFld_apart _ _ (by decide) (.inl (by decide)), fld_setFld_same _ _ (by decide), Nat.mod_eq_of_lt hchk]
  · rw [fld_setFld_same _ _ (by decide), Nat.mod_eq_of_lt hsyn]

end

/-- Settles O33: a request in service takes its half-blocks through their judgement, one that R265 refuses is logged, and the raw commands touch the check
field alone. -/
theorem gddrReadsAndWrites : Obligations.GddrReadsAndWrites := by
  unfold Obligations.GddrReadsAndWrites
  refine ⟨?_, ?_, ?_, ?_, ?_, ?_, ?_⟩
  · intro s req ga len g hr hl hh ht hd hg
    exact exec_read hr hl hh hd (readHalves_good ht hg)
  · intro s req ga g a w v ha h32 hr hl hh ht hd hv hw
    rw [hv]
    exact ⟨read_single ha h32 hr hl hh ht hd hw, read_bad ha h32 hr hl hh ht hd hw⟩
  · intro s c k ga data pois len m r hv hr hlen
    subst hv
    obtain ⟨e, hmem, hregs, hrec, hcls, hdet, hst⟩ := gddrRefuse_far (s := s) (c := c) (k := k) (bits ga.toNat 0 44) (s.gddrReason (bits ga.toNat 0 44) len)
    refine ⟨⟨_, e, exec_read_refused hr, (answer_mem ..).trans hmem, regsBut_of_regs hregs (answer_part ..) (answer_regs ..), mem_answer ..,
      (congrArg Err.recQ (answer_err ..)).trans hrec, hcls, hdet, hst⟩, ?_⟩
    subst hlen
    exact ⟨_, e, exec_write_refused hr, (answer_mem ..).trans hmem, mem_answer .., (congrArg Err.recQ (answer_err ..)).trans hrec, hcls⟩
  · intro s req ga g a data ha h32 hlen hr hl hh hd
    exact ⟨write_whole ha h32 hlen hr hl hh hd, write_poisoned ha h32 hlen hr hl hh hd⟩
  · intro s req ga g a data ha h0 hfit hr hl hh ht hd
    exact ⟨write_part ha h0 hfit hr hl hh ht hd, write_into_poison ha h0 hfit hr hl hh ht hd⟩
  · intro s req ga len m g hl
    obtain ⟨hw, -, -, hlog⟩ := memRaise_keeps (s := s) (g := g) 0x49 0 0 0 none
    exact ⟨_, exec_read_upset hl, StartPhases.within_same hw .resp (by decide), StartPhases.within_same hw .mem (by decide), hlog⟩
  · intro s u req d n h hu
    have hserved : (s.dropPend req (keyBlock (memKey d n MEM_ECC_TCMD))).testServed d n = true := h
    refine ⟨⟨_, next_congr rfl, rawWritten req hserved hu.symm⟩, fun hw => ⟨_, next_congr rfl, rawRead req hserved hu.symm hw⟩, fun hq hr hf => ?_⟩
    have hfree := hu.trans (rawTurn_free hserved hq hr hf)
    rw [hfree]
    exact ⟨rfl, rfl, rfl⟩

end Sys2Proof.GddrAccesses
end

section
/-! PROOFS. Retrains, the scrubber, temperature and refresh of the GDDR7 tier (R257, R269, R270, R273, R274). -/

namespace Sys2Proof.GddrDevices

open Sys2Proof Sys2Proof.Machine Sys2Proof.Laws Sys2Proof.Clauses Sys2Proof.WordRuns Sys2Proof.MeshRuns Sys2Proof.GddrHalves Sys2Proof.GddrAccesses
open Sys2Proof.DescriptorQueue (regsBut_incSatUn)
open Sys2Proof.LinkRetries (haltPanels_keep)

variable {s t : State} {a d n : Nat} {g : GLoc}

/-! ### The live list under writes of a controller's registers -/

theorem memKey_high (d n o : Nat) : 0x1000000 ≤ memKey d n o := by
  unfold memKey dieKey
  omega

theorem fld_low {ks : List Nat} (h : s.regsBut t ks) (hk : ∀ k ∈ ks, 0x1000000 ≤ k) {k : Nat} (hlow : k < 0x1000000) (lo w : Nat) :
    t.fld k lo w = s.fld k lo w := fld_of_regsBut h (fun hmem => absurd (hk k hmem) (by omega)) lo w

theorem liveDevs_of_regsBut {ks : List Nat} (h : s.regsBut t ks) (hk : ∀ k ∈ ks, 0x1000000 ≤ k) : t.liveDevs = s.liveDevs := by
  refine List.flatMap_congr fun n hn => List.filterMap_congr fun d hd => ?_
  have hn := List.mem_range.1 hn
  have hd := List.mem_range.1 hd
  have hlow : ecKey (BOOT_GDDR_LIVE + 4 * ((12 * d + n) / 32)) < 0x1000000 := by
    unfold ecKey BOOT_GDDR_LIVE
    omega
  rw [fld_low h hk hlow]

theorem locate_of_liveDevs (h : t.liveDevs = s.liveDevs) (a : Nat) : t.locate a = s.locate a := by
  unfold State.locate
  rw [h]

theorem locate_of_regsBut {ks : List Nat} (h : s.regsBut t ks) (hk : ∀ k ∈ ks, 0x1000000 ≤ k) (a : Nat) : t.locate a = s.locate a :=
  locate_of_liveDevs (liveDevs_of_regsBut h hk) a

/-! ### A counter that software has not cleared in the cycle -/

section
variable {k : Nat}

theorem fld_incSatUn_same {lo w : Nat} (m : Nat) (hw : s.written k = false) (h : lo + w ≤ 64) :
    (s.incSatUn k lo w m).fld k lo w = min (s.fld k lo w + m) (2 ^ w - 1) := by
  rw [State.incSatUn, hw]
  exact fld_incSat_same _ _ h

theorem fld_incSatUn_apart {lo w p q : Nat} (m : Nat) (hw : s.written k = false) (h : lo + w ≤ 64) (hd : p + q ≤ lo ∨ lo + w ≤ p) :
    (s.incSatUn k lo w m).fld k p q = s.fld k p q := by
  rw [State.incSatUn, hw]
  exact fld_incSat_apart _ _ h hd

theorem written_of_within {ks : List Comp} (h : s.within ks t) (hc : Comp.wrote ∉ ks) (k : Nat) : t.written k = s.written k := by
  have hw : t.wrote = s.wrote := StartPhases.within_same h .wrote hc
  unfold State.written
  rw [hw]

end

/-! ### A transfer that fails three times (R269) -/

def retrainKeys (g : GLoc) : List Nat := [memKey g.d g.n MEM_EDC_CNT, memKey g.d g.n MEM_STAT, memKey g.d g.n MEM_ERR_ADDR, memKey g.d g.n MEM_ERR_INFO]

/-- What a transfer leaves that starts a retrain of its channel. -/
structure Retrains (s t : State) (g : GLoc) : Prop where
  reach : s.within [.regs, .err] t
  keys : s.regsBut t (retrainKeys g)
  on : t.retraining g.d g.n g.ch = true
  retries : s.written (memKey g.d g.n MEM_EDC_CNT) = false →
    t.fld (memKey g.d g.n MEM_EDC_CNT) 0 16 = min (s.fld (memKey g.d g.n MEM_EDC_CNT) 0 16 + 3) 0xFFFF
  retrains : s.written (memKey g.d g.n MEM_EDC_CNT) = false →
    t.fld (memKey g.d g.n MEM_EDC_CNT) 16 8 = min (s.fld (memKey g.d g.n MEM_EDC_CNT) 16 8 + 1) 0xFF
  others : ∀ c, c < 4 → c ≠ g.ch → t.retraining g.d g.n c = s.retraining g.d g.n c

theorem transfer_retrains {m : Nat} (hch : g.ch < 4) (hr : s.retraining g.d g.n g.ch = false) (hm : 3 ≤ m) :
    ∃ t, s.transfer g a m = (t, false) ∧ Retrains s t g := by
  have hne : memKey g.d g.n MEM_STAT ≠ memKey g.d g.n MEM_EDC_CNT := memKey_ne (by decide)
  have hstat : memKey g.d g.n MEM_STAT ∉ [memKey g.d g.n MEM_ERR_ADDR, memKey g.d g.n MEM_ERR_INFO] := by
    simp [memKey_ne (show MEM_STAT ≠ MEM_ERR_ADDR by decide), memKey_ne (show MEM_STAT ≠ MEM_ERR_INFO by decide)]
  have hedc : memKey g.d g.n MEM_EDC_CNT ∉ [memKey g.d g.n MEM_ERR_ADDR, memKey g.d g.n MEM_ERR_INFO] := by
    simp [memKey_ne (show MEM_EDC_CNT ≠ MEM_ERR_ADDR by decide), memKey_ne (show MEM_EDC_CNT ≠ MEM_ERR_INFO by decide)]
  have hsub {k : Nat} (hk : k ∈ [memKey g.d g.n MEM_ERR_ADDR, memKey g.d g.n MEM_ERR_INFO]) : k ∈ retrainKeys g := List.mem_cons_of_mem _ (List.mem_cons_of_mem _ hk)
  have hmin : min m 3 = 3 := by omega
  unfold State.transfer
  dsimp only
  rw [hr, if_neg Bool.false_ne_true, if_neg (show ¬ m = 0 by omega), if_neg (show ¬ m < 3 by omega), hmin]
  have hw1 : s.within [.regs] (s.incSatUn (memKey g.d g.n MEM_EDC_CNT) 0 16 3) := within_incSatUn (List.Subset.refl _) (within_refl s)
  have hk1 : s.regsBut (s.incSatUn (memKey g.d g.n MEM_EDC_CNT) 0 16 3) (retrainKeys g) := regsBut_incSatUn (regsBut_refl s _) List.mem_cons_self _ _ _
  have hstat1 (lo w : Nat) : (s.incSatUn (memKey g.d g.n MEM_EDC_CNT) 0 16 3).fld (memKey g.d g.n MEM_STAT) lo w = s.fld (memKey g.d g.n MEM_STAT) lo w :=
    fld_of_regsBut (regsBut_incSatUn (regsBut_refl s [memKey g.d g.n MEM_EDC_CNT]) List.mem_cons_self _ _ _) (by simpa using hne) _ _
  have hlow1 := fun hw => fld_incSatUn_same (s := s) (k := memKey g.d g.n MEM_EDC_CNT) (lo := 0) (w := 16) 3 hw (by decide)
  have hhigh1 := fun hw => fld_incSatUn_apart (s := s) (k := memKey g.d g.n MEM_EDC_CNT) (lo := 0) (w := 16) (p := 16) (q := 8) 3 hw (by decide) (.inr (by decide))
  have hwr1 := written_of_within hw1 (by decide) (memKey g.d g.n MEM_EDC_CNT)
  generalize s.incSatUn (memKey g.d g.n MEM_EDC_CNT) 0 16 3 = u at hw1 hk1 hstat1 hlow1 hhigh1 hwr1
  obtain ⟨hw2, hk2⟩ := memRaiseLim_keeps (s := u) (g := g) 0x40 (a / 32 * 32) 0
  have hstat2 := fun lo w => fld_of_regsBut hk2 hstat lo w
  have hedc2 := fun lo w => fld_of_regsBut hk2 hedc lo w
  have hwr2 := written_of_within hw2 (by decide) (memKey g.d g.n MEM_EDC_CNT)
  generalize u.memRaiseLim g 0x40 (a / 32 * 32) 0 = v at hw2 hk2 hstat2 hedc2 hwr2
  have hwr3 : (v.setFld (memKey g.d g.n MEM_STAT) (3 + g.ch) 1 1).written (memKey g.d g.n MEM_EDC_CNT) = s.written (memKey g.d g.n MEM_EDC_CNT) := hwr2.trans hwr1
  have hedc3 := fun lo w => fld_setFld_other v (3 + g.ch) 1 1 lo w hne.symm
  have hstat3 := fld_setFld_same v (k := memKey g.d g.n MEM_STAT) (lo := 3 + g.ch) (w := 1) 1 (by omega)
  have hstat3' := fun c (hc : c ≠ g.ch) => fld_setFld_apart v (k := memKey g.d g.n MEM_STAT) (lo := 3 + g.ch) (w := 1) (a := 3 + c) (b := 1) 1 (by omega) (by omega)
  have hk3 : v.regsBut (v.setFld (memKey g.d g.n MEM_STAT) (3 + g.ch) 1 1) (retrainKeys g) :=
    regsBut_setFld (regsBut_refl v _) (List.mem_cons_of_mem _ List.mem_cons_self) _ _ _
  have hw3 : v.within [.regs] (v.setFld (memKey g.d g.n MEM_STAT) (3 + g.ch) 1 1) := within_setFld (List.Subset.refl _) (within_refl v)
  generalize v.setFld (memKey g.d g.n MEM_STAT) (3 + g.ch) 1 1 = x at hwr3 hedc3 hstat3 hstat3' hk3 hw3
  have hw4 : x.within [.regs] (x.incSatUn (memKey g.d g.n MEM_EDC_CNT) 16 8 1) := within_incSatUn (List.Subset.refl _) (within_refl x)
  have hstat4 (lo w : Nat) : (x.incSatUn (memKey g.d g.n MEM_EDC_CNT) 16 8 1).fld (memKey g.d g.n MEM_STAT) lo w = x.fld (memKey g.d g.n MEM_STAT) lo w :=
    fld_of_regsBut (regsBut_incSatUn (regsBut_refl x [memKey g.d g.n MEM_EDC_CNT]) List.mem_cons_self _ _ _) (by simpa using hne) _ _
  refine ⟨_, rfl, ?_, ?_, ?_, fun hw => ?_, fun hw => ?_, fun c hc hcg => ?_⟩
  · exact within_trans (within_mono hw1 (by decide)) (within_trans hw2 (within_trans (within_mono hw3 (by decide)) (within_mono hw4 (by decide))))
  · exact regsBut_trans hk1 (regsBut_trans (fun k hk => hk2 k fun hmem => hk (hsub hmem))
      (regsBut_trans hk3 (regsBut_incSatUn (regsBut_refl x _) List.mem_cons_self _ _ _)))
  · unfold State.retraining
    rw [hstat4, hstat3]
    rfl
  · rw [fld_incSatUn_apart 1 (hwr3.trans hw) (by decide) (.inl (by decide)), hedc3, hedc2, hlow1 hw]
    rfl
  · rw [fld_incSatUn_same 1 (hwr3.trans hw) (by decide), hedc3, hedc2, hhigh1 hw]
    rfl
  · unfold State.retraining
    rw [hstat4, hstat3' c hcg, hstat2, hstat1]

theorem exec_read_retrains {req : Req} {ga : GAddr} {len m : Nat} (hr : s.gddrReason (bits ga.toNat 0 44) len = 0)
    (hl : s.locate (bits ga.toNat 0 44) = some g) (hh : s.heldBack g = false) (ht : s.transfer g (bits ga.toNat 0 44) m = (t, false)) :
    exec (.gddrRead req ga len m 0) s = .next (t.enqueue g ⟨req, bits ga.toNat 0 44, len, none, s.slot⟩) := by
  have hreq : s.gddrReadReq req (bits ga.toNat 0 44) len m = (t.enqueue g ⟨req, bits ga.toNat 0 44, len, none, s.slot⟩, none) := by
    simp only [State.gddrReadReq, hr, hl, State.admitReq, hh, ht, ne_eq, not_true_eq_false, Bool.false_eq_true, if_false]
  refine next_congr ?_
  simp only [State.gddrRead, mcUpset_none, hreq, show ¬ (0 = 2) by decide, if_false]

theorem waits_enqueue (w : GWait) : ((s.enqueue g w).mc g.d g.n).waits = (s.mc g.d g.n).waits ++ [w] := congrArg Mc.waits (mc_setMc_same ..)

/-- The third mismatch: the channel alone retrains, and the request waits. -/
theorem read_retrains {req : Req} {ga : GAddr} {len m : Nat} (hr : s.gddrReason (bits ga.toNat 0 44) len = 0) (hl : s.locate (bits ga.toNat 0 44) = some g)
    (hh : s.heldBack g = false) (hch : g.ch < 4) (hm : 3 ≤ m) (hw : s.written (memKey g.d g.n MEM_EDC_CNT) = false) :
    ∃ t, exec (.gddrRead req ga len m 0) s = .next t ∧ t.retraining g.d g.n g.ch = true ∧ t.resp = s.resp ∧
      (t.mc g.d g.n).waits = (s.mc g.d g.n).waits ++ [⟨req, bits ga.toNat 0 44, len, none, s.slot⟩] ∧ t.mem = s.mem ∧
      t.fld (memKey g.d g.n MEM_EDC_CNT) 0 16 = min (s.fld (memKey g.d g.n MEM_EDC_CNT) 0 16 + 3) 0xFFFF ∧
      t.fld (memKey g.d g.n MEM_EDC_CNT) 16 8 = min (s.fld (memKey g.d g.n MEM_EDC_CNT) 16 8 + 1) 0xFF ∧
      (∀ c, c < 4 → c ≠ g.ch → t.retraining g.d g.n c = s.retraining g.d g.n c) ∧ t.cells = s.cells := by
  obtain ⟨t, ht, hret⟩ := transfer_retrains (s := s) (a := bits ga.toNat 0 44) hch (not_retraining hh) hm
  have hmcs : t.mcs = s.mcs := StartPhases.within_same hret.reach .mcs (by decide)
  have hfld (k lo w : Nat) : (t.enqueue g ⟨req, bits ga.toNat 0 44, len, none, s.slot⟩).fld k lo w = t.fld k lo w := fld_of_regs (setMc_part ..) (setMc_regs ..) ..
  have hst (c : Nat) : (t.enqueue g ⟨req, bits ga.toNat 0 44, len, none, s.slot⟩).retraining g.d g.n c = t.retraining g.d g.n c := by
    unfold State.retraining
    rw [hfld]
  refine ⟨_, exec_read_retrains hr hl hh ht, (hst _).trans hret.on, (setMc_resp ..).trans (StartPhases.within_same hret.reach .resp (by decide)), ?_,
    (setMc_mem ..).trans (StartPhases.within_same hret.reach .mem (by decide)), (hfld ..).trans (hret.retries hw), (hfld ..).trans (hret.retrains hw),
    fun c hc hcg => (hst c).trans (hret.others c hc hcg), (setMc_cells ..).trans (StartPhases.within_same hret.reach .cells (by decide))⟩
  rw [waits_enqueue, mc_of_mcs hmcs]

/-! ### A retrain ends (R269, R270) -/

/-- What a retrain that passed leaves: its channel free, the record, no other register. -/
structure Retrained (s t : State) (d n ch : Nat) : Prop where
  reach : s.within [.regs, .err] t
  keys : s.regsBut t [memKey d n MEM_STAT, memKey d n MEM_ERR_ADDR, memKey d n MEM_ERR_INFO]
  off : t.retraining d n ch = false
  state : t.devState d n = s.devState d n
  logged : s.logs t 0x45 (.dieUnit d n) 0

theorem stat_free (d n : Nat) : memKey d n MEM_STAT ∉ [memKey d n MEM_ERR_ADDR, memKey d n MEM_ERR_INFO] := by
  simp [memKey_ne (show MEM_STAT ≠ MEM_ERR_ADDR by decide), memKey_ne (show MEM_STAT ≠ MEM_ERR_INFO by decide)]

theorem retrained {ch : Nat} (hch : ch < 4) :
    Retrained s ((s.setFld (memKey d n MEM_STAT) (3 + ch) 1 0).memRaise ⟨d, n, ch, 0, 0, 0⟩ 0x45 0 0 0 none) d n ch := by
  have hw1 : s.within [.regs] (s.setFld (memKey d n MEM_STAT) (3 + ch) 1 0) := within_setFld (List.Subset.refl _) (within_refl s)
  have hk1 : s.regsBut (s.setFld (memKey d n MEM_STAT) (3 + ch) 1 0) [memKey d n MEM_STAT, memKey d n MEM_ERR_ADDR, memKey d n MEM_ERR_INFO] :=
    regsBut_setFld (regsBut_refl s _) List.mem_cons_self _ _ _
  have hoff := fld_setFld_same s (k := memKey d n MEM_STAT) (lo := 3 + ch) (w := 1) 0 (by omega)
  have hstate := fld_setFld_apart s (k := memKey d n MEM_STAT) (lo := 3 + ch) (w := 1) (a := 0) (b := 3) 0 (by omega) (by omega)
  have herr : (s.setFld (memKey d n MEM_STAT) (3 + ch) 1 0).err = s.err := setFld_err ..
  generalize s.setFld (memKey d n MEM_STAT) (3 + ch) 1 0 = u at hw1 hk1 hoff hstate herr
  obtain ⟨hw2, hk2, -, hlog⟩ := memRaise_keeps (s := u) (g := ⟨d, n, ch, 0, 0, 0⟩) 0x45 0 0 0 none
  have hstat (lo w : Nat) := fld_of_regsBut hk2 (stat_free d n) lo w
  refine ⟨within_trans (within_mono hw1 (by decide)) hw2, regsBut_trans hk1 fun k hk => hk2 k fun hmem => hk (List.mem_cons_of_mem _ hmem), ?_, ?_,
    logs_of_same (congrArg Err.recQ herr) hlog⟩
  · unfold State.retraining
    rw [hstat, hoff]
    rfl
  · unfold State.devState
    rw [hstat, hstate]

theorem serveWaits_nil (h : (s.mc d n).waits = []) : s.serveWaits d n = s := by
  unfold State.serveWaits
  rw [h, List.foldl_nil]

theorem exec_retrainDone {ch : Nat} (hr : s.retraining d n ch = true) (hch : ch < 4) (ok : Bool) : exec (.channelRetrainDone d n ch ok) s =
    .next ((if ok then (s.setFld (memKey d n MEM_STAT) (3 + ch) 1 0).memRaise ⟨d, n, ch, 0, 0, 0⟩ 0x45 0 0 0 none
      else (s.setFld (memKey d n MEM_STAT) (3 + ch) 1 0).deviceFail d n ch).serveWaits d n) :=
  next_congr (if_pos ⟨hr, hch⟩)

theorem retrain_passes {ch : Nat} (hr : s.retraining d n ch = true) (hch : ch < 4) (hw : (s.mc d n).waits = []) :
    ∃ t, exec (.channelRetrainDone d n ch true) s = .next t ∧ t.retraining d n ch = false ∧ s.logs t 0x45 (.dieUnit d n) 0 ∧
      t.devState d n = s.devState d n ∧ t.mem = s.mem ∧ t.flash = s.flash ∧
      s.regsBut t [memKey d n MEM_STAT, memKey d n MEM_ERR_ADDR, memKey d n MEM_ERR_INFO] := by
  have hexec := exec_retrainDone hr hch true
  rw [if_pos rfl] at hexec
  have hret := retrained (s := s) (d := d) (n := n) hch
  generalize (s.setFld (memKey d n MEM_STAT) (3 + ch) 1 0).memRaise ⟨d, n, ch, 0, 0, 0⟩ 0x45 0 0 0 none = t at hexec hret
  have hmcs : t.mcs = s.mcs := StartPhases.within_same hret.reach .mcs (by decide)
  rw [serveWaits_nil ((congrArg Mc.waits (mc_of_mcs hmcs d n)).trans hw)] at hexec
  exact ⟨t, hexec, hret.off, hret.logged, hret.state, StartPhases.within_same hret.reach .mem (by decide), StartPhases.within_same hret.reach .flash (by decide),
    hret.keys⟩

/-- A device that fails is out of service, with its record. -/
theorem deviceFail_keeps {ch : Nat} (hch : ch < 4) : s.within [.regs, .flash, .err] (s.deviceFail d n ch) ∧
    (s.deviceFail d n ch).devState d n = 6 ∧ (s.deviceFail d n ch).retraining d n ch = s.retraining d n ch ∧
    (s.deviceFail d n ch).fld (memKey d n MEM_TRAIN_STAT) 6 3 = 5 ∧
    ∃ r, r ∈ (s.deviceFail d n ch).err.recQ ∧ r.cls = 0x46 ∧ r.loc = .dieUnit d n := by
  have hne : memKey d n MEM_STAT ≠ memKey d n MEM_TRAIN_STAT := memKey_ne (by decide)
  have htrain : memKey d n MEM_TRAIN_STAT ∉ [memKey d n MEM_ERR_ADDR, memKey d n MEM_ERR_INFO] := by
    simp [memKey_ne (show MEM_TRAIN_STAT ≠ MEM_ERR_ADDR by decide), memKey_ne (show MEM_TRAIN_STAT ≠ MEM_ERR_INFO by decide)]
  unfold State.deviceFail
  dsimp only
  generalize s.jobsOn (s.liveDevs.findIdx fun p => p == (d, n)) = cells
  have hw1 : s.within [.regs] ((s.setFld (memKey d n MEM_STAT) 0 3 6).setFld (memKey d n MEM_TRAIN_STAT) 6 3 5) :=
    within_setFld (List.Subset.refl _) (within_setFld (List.Subset.refl _) (within_refl s))
  have hdev : ((s.setFld (memKey d n MEM_STAT) 0 3 6).setFld (memKey d n MEM_TRAIN_STAT) 6 3 5).fld (memKey d n MEM_STAT) 0 3 = 6 :=
    (fld_setFld_other _ _ _ _ _ _ hne).trans (fld_setFld_same _ _ (by decide))
  have hret : ((s.setFld (memKey d n MEM_STAT) 0 3 6).setFld (memKey d n MEM_TRAIN_STAT) 6 3 5).fld (memKey d n MEM_STAT) (3 + ch) 1 = s.fld (memKey d n MEM_STAT) (3 + ch) 1 :=
    (fld_setFld_other _ _ _ _ _ _ hne).trans (fld_setFld_apart _ _ (by decide) (by omega))
  have hstep : ((s.setFld (memKey d n MEM_STAT) 0 3 6).setFld (memKey d n MEM_TRAIN_STAT) 6 3 5).fld (memKey d n MEM_TRAIN_STAT) 6 3 = 5 :=
    fld_setFld_same _ _ (by decide)
  generalize (s.setFld (memKey d n MEM_STAT) 0 3 6).setFld (memKey d n MEM_TRAIN_STAT) 6 3 5 = u at hw1 hdev hret hstep
  have hw2 : u.within [.flash, .err] (u.confirmFuse 7 4 d n) := within_confirmFuse (List.Subset.refl _) (within_refl u)
  have hfld2 (k lo w : Nat) : (u.confirmFuse 7 4 d n).fld k lo w = u.fld k lo w := fld_of_regs hw2.1 (StartPhases.within_same hw2 .regs (by decide)) ..
  generalize u.confirmFuse 7 4 d n = v at hw2 hfld2
  obtain ⟨hw3, hk3, -, hlog⟩ := memRaise_keeps (s := v) (g := ⟨d, n, ch, 0, 0, 0⟩) 0x46 0 0 0 cells.head?
  have hstat3 := fun lo w => fld_of_regsBut hk3 (stat_free d n) lo w
  have htrain3 := fun lo w => fld_of_regsBut hk3 htrain lo w
  obtain ⟨r, hrec, hcls, -, hloc, -⟩ := hlog
  generalize v.memRaise ⟨d, n, ch, 0, 0, 0⟩ 0x46 0 0 0 cells.head? = x at hw3 hstat3 htrain3 hrec
  obtain ⟨hrec4, hw4⟩ := haltPanels_keep 0x46 cells.tail x
  have hfld4 (k lo w : Nat) : (cells.tail.foldl (fun u e => u.haltPanelOf e 0x46) x).fld k lo w = x.fld k lo w :=
    fld_of_regs hw4.1 (StartPhases.within_same hw4 .regs (by decide)) ..
  generalize cells.tail.foldl (fun u e => u.haltPanelOf e 0x46) x = y at hrec4 hw4 hfld4
  refine ⟨within_trans (within_mono hw1 (by decide)) (within_trans (within_mono hw2 (by decide)) (within_trans (within_mono hw3 (by decide)) (within_mono hw4 (by decide)))),
    ?_, ?_, ?_, r, ?_, hcls, hloc⟩
  · rw [State.devState, hfld4, hstat3, hfld2, hdev]
  · rw [State.retraining, hfld4, hstat3, hfld2, hret]
    rfl
  · rw [hfld4, htrain3, hfld2, hstep]
  · rw [hrec4, hrec]
    exact List.mem_append_right _ List.mem_cons_self

theorem retrain_fails {ch : Nat} (hr : s.retraining d n ch = true) (hch : ch < 4) (hw : (s.mc d n).waits = []) :
    ∃ t r, exec (.channelRetrainDone d n ch false) s = .next t ∧ t.retraining d n ch = false ∧ t.devState d n = 6 ∧
      t.fld (memKey d n MEM_TRAIN_STAT) 6 3 = 5 ∧ r ∈ t.err.recQ ∧ r.cls = 0x46 ∧ r.loc = .dieUnit d n ∧ t.mem = s.mem := by
  have hexec := exec_retrainDone hr hch false
  rw [if_neg Bool.false_ne_true] at hexec
  have hw1 : s.within [.regs] (s.setFld (memKey d n MEM_STAT) (3 + ch) 1 0) := within_setFld (List.Subset.refl _) (within_refl s)
  have hoff : (s.setFld (memKey d n MEM_STAT) (3 + ch) 1 0).retraining d n ch = false := by
    unfold State.retraining
    rw [fld_setFld_same s _ (by omega)]
    rfl
  generalize s.setFld (memKey d n MEM_STAT) (3 + ch) 1 0 = u at hexec hw1 hoff
  obtain ⟨hw2, hdev, hret, htrain, r, hrec, hcls, hloc⟩ := deviceFail_keeps (s := u) (d := d) (n := n) hch
  generalize u.deviceFail d n ch = t at hexec hw2 hdev hret htrain hrec
  have hwt : s.within [.regs, .flash, .err] t := within_trans (within_mono hw1 (by decide)) hw2
  have hmcs : t.mcs = s.mcs := StartPhases.within_same hwt .mcs (by decide)
  rw [serveWaits_nil ((congrArg Mc.waits (mc_of_mcs hmcs d n)).trans hw)] at hexec
  exact ⟨t, r, hexec, hret.trans hoff, hdev, htrain, hrec, hcls, hloc, StartPhases.within_same hwt .mem (by decide)⟩

/-! ### The request that waited (R269) -/

theorem tagBad_of_mem (h : t.mem = s.mem) (g : GLoc) (a : Nat) : t.tagBad g a = s.tagBad g a := by
  unfold State.tagBad State.checkBlock
  simp only [bytes_of_mem h]

theorem serveWait_good {w : GWait} (hd : w.data = none) (hs : s.devState g.d g.n ≠ 6) (ht : s.tagBad g w.addr = false) (hw : (s.mc g.d g.n).waits = [w])
    (hg : ∀ h ∈ halvesOf w.addr w.len, gddrJudge (s.half h) (s.halfChk h) = .good) :
    (w.req, Resp.read (s.bytes w.addr w.len) [] 0) ∈ (s.serveWait g w).resp ∧ (s.serveWait g w).mem = s.mem ∧ ((s.serveWait g w).mc g.d g.n).waits = [] := by
  have hmem : (s.setMc g.d g.n { s.mc g.d g.n with waits := (s.mc g.d g.n).waits.erase w }).mem = s.mem := setMc_mem ..
  have hdev : (s.setMc g.d g.n { s.mc g.d g.n with waits := (s.mc g.d g.n).waits.erase w }).devState g.d g.n = s.devState g.d g.n :=
    fld_of_regs (setMc_part ..) (setMc_regs ..) ..
  have hnil : ((s.setMc g.d g.n { s.mc g.d g.n with waits := (s.mc g.d g.n).waits.erase w }).mc g.d g.n).waits = [] := by
    rw [mc_setMc_same, hw, List.erase_cons_head]
  unfold State.serveWait
  dsimp only
  generalize s.setMc g.d g.n { s.mc g.d g.n with waits := (s.mc g.d g.n).waits.erase w } = u at hmem hdev hnil
  have hread : u.readHalves g w.addr w.len = (u, u.bytes w.addr w.len, []) :=
    readHalves_good ((tagBad_of_mem hmem ..).trans ht) fun h hh => by rw [half_of_mem hmem, halfChk_of_mem hmem]; exact hg h hh
  have hfetch : u.gddrFetch g w.addr w.len = (u, u.bytes w.addr w.len, [], 0) := by
    simp only [State.gddrFetch, if_neg (hdev ▸ hs), hread, if_true]
  rw [hd]
  dsimp only
  rw [hfetch, bytes_of_mem hmem]
  exact ⟨mem_answer .., (answer_mem ..).trans hmem, (congrArg Mc.waits (answer_mc ..)).trans hnil⟩

theorem serveWaits_one {w : GWait} (hw : (s.mc d n).waits = [w]) (hl : s.locate w.addr = some g) (hr : s.retraining d n g.ch = false)
    (hb : s.meshBefore g w.slot = false) : s.serveWaits d n = s.serveWait g w := by
  unfold State.serveWaits
  rw [hw]
  simp only [List.foldl_cons, List.foldl_nil, hl, hr, hb, Bool.or_false, Bool.false_eq_true, if_false]

theorem meshBefore_of_net (hn : t.net = s.net) (hs : t.slot = s.slot) (hl : ∀ a, t.locate a = s.locate a) (g : GLoc) (slot : Nat) :
    t.meshBefore g slot = s.meshBefore g slot := by
  unfold State.meshBefore
  rw [hn, hs]
  simp only [hl]

theorem retrain_serves {w : GWait} (hr : s.retraining g.d g.n g.ch = true) (hch : g.ch < 4) (hw : (s.mc g.d g.n).waits = [w]) (hd : w.data = none)
    (hl : s.locate w.addr = some g) (hb : s.meshBefore g w.slot = false) (hs : s.devState g.d g.n ≠ 6) (ht : s.tagBad g w.addr = false)
    (hg : ∀ h ∈ halvesOf w.addr w.len, gddrJudge (s.half h) (s.halfChk h) = .good) :
    ∃ t, exec (.channelRetrainDone g.d g.n g.ch true) s = .next t ∧ (w.req, Resp.read (s.bytes w.addr w.len) [] 0) ∈ t.resp ∧ t.mem = s.mem ∧
      (t.mc g.d g.n).waits = [] := by
  have hexec := exec_retrainDone hr hch true
  rw [if_pos rfl] at hexec
  have hret := retrained (s := s) (d := g.d) (n := g.n) hch
  generalize (s.setFld (memKey g.d g.n MEM_STAT) (3 + g.ch) 1 0).memRaise ⟨g.d, g.n, g.ch, 0, 0, 0⟩ 0x45 0 0 0 none = t at hexec hret
  have hmcs : t.mcs = s.mcs := StartPhases.within_same hret.reach .mcs (by decide)
  have hmem : t.mem = s.mem := StartPhases.within_same hret.reach .mem (by decide)
  have hloc (a : Nat) : t.locate a = s.locate a := locate_of_regsBut hret.keys (by simp [memKey_high]) a
  have hwt := (congrArg Mc.waits (mc_of_mcs hmcs g.d g.n)).trans hw
  have hbt := (meshBefore_of_net (StartPhases.within_same hret.reach .net (by decide)) hret.reach.2.1 hloc g w.slot).trans hb
  rw [serveWaits_one hwt ((hloc _).trans hl) hret.off hbt] at hexec
  obtain ⟨hresp, hm, hnil⟩ := serveWait_good hd (hret.state ▸ hs) ((tagBad_of_mem hmem ..).trans ht) hwt
    (fun h hh => by rw [half_of_mem hmem, halfChk_of_mem hmem]; exact hg h hh)
  exact ⟨_, hexec, bytes_of_mem hmem w.addr w.len ▸ hresp, hm.trans hmem, hnil⟩

/-! ### The scrubber (R273) -/

/-- A segment of the scrubber's device lies in one of its own channels. -/
theorem locate_segment {k : Nat} (hi : s.liveIdx d n < s.liveDevs.length) (hl : s.locate ((k * s.liveDevs.length + s.liveIdx d n) * 960) = some g) :
    g.d = d ∧ g.n = n ∧ g.ch < 4 := by
  have hu : (k * s.liveDevs.length + s.liveIdx d n) * 960 / 960 = k * s.liveDevs.length + s.liveIdx d n := Nat.mul_div_cancel _ (by decide)
  have hmod : (k * s.liveDevs.length + s.liveIdx d n) % s.liveDevs.length = s.liveIdx d n := by
    rw [Nat.mul_add_mod', Nat.mod_eq_of_lt hi]
  have hdev : s.liveDevs[s.liveIdx d n]? = some (d, n) := by
    rw [List.getElem?_eq_getElem hi]
    exact congrArg some (beq_iff_eq.1 (List.findIdx_getElem (xs := s.liveDevs) (p := fun p => p == (d, n)) (w := hi)))
  unfold State.locate at hl
  dsimp only at hl
  rw [hu, hmod, hdev] at hl
  cases hl
  exact ⟨rfl, rfl, Nat.mod_lt _ (by decide)⟩

theorem idle_free {ch : Nat} (h : s.mcIdle d n = true) (hch : ch < 4) : s.retraining d n ch = false := by
  unfold State.mcIdle at h
  have hall := List.all_eq_true.1 (Bool.and_eq_true _ _ ▸ h).2 ch (List.mem_range.2 hch)
  have hret := (Bool.and_eq_true _ _ ▸ hall).1
  simpa using hret

theorem mscrubLate_timely (h : s.now ≤ (s.mc d n).passStart + s.fld (memKey d n MEM_SCRUB_RATE) 0 16 * 60000000000) : s.mscrubLate d n = s := by
  unfold State.mscrubLate
  exact if_neg fun hlate => absurd hlate.1 (Nat.not_lt.2 h)

theorem mscrub_acts {m : Nat} (hi : s.liveIdx d n < s.liveDevs.length) (hs : s.devState d n = 4) (hid : s.mcIdle d n = true) :
    exec (.gddrScrubSegment d n m 0) s = .next ((s.mscrubLate d n).scrubSegment d n m) := by
  refine next_congr ?_
  unfold State.mscrub
  rw [if_neg (by decide), if_pos ⟨hi, hs, hid⟩, mcUpset_none]

theorem segmentDone_keeps : (s.segmentDone d n).mem = s.mem ∧ (s.segmentDone d n).err = s.err ∧
    if (s.mc d n).scrub + 1 < s.segs then ((s.segmentDone d n).mc d n).scrub = (s.mc d n).scrub + 1 ∧ (s.segmentDone d n).regs = s.regs
    else ((s.segmentDone d n).mc d n).scrub = 0 ∧ ((s.segmentDone d n).mc d n).passStart = s.now ∧
      (s.segmentDone d n).fld (memKey d n MEM_SCRUB_STAT) 0 16 = (s.fld (memKey d n MEM_SCRUB_STAT) 0 16 + 1) % 2 ^ 16 ∧
      (s.segmentDone d n).fld (memKey d n MEM_SCRUB_STAT) 16 1 = 0 := by
  unfold State.segmentDone
  dsimp only
  split
  next => exact ⟨setMc_mem .., setMc_err .., congrArg Mc.scrub (mc_setMc_same ..), setMc_regs ..⟩
  next =>
    have hfld (lo w : Nat) : (s.setMc d n { s.mc d n with scrub := 0, passStart := s.now }).fld (memKey d n MEM_SCRUB_STAT) lo w = s.fld (memKey d n MEM_SCRUB_STAT) lo w :=
      fld_of_regs (setMc_part ..) (setMc_regs ..) ..
    have hmc := mc_setMc_same s d n { s.mc d n with scrub := 0, passStart := s.now }
    have hmem : (s.setMc d n { s.mc d n with scrub := 0, passStart := s.now }).mem = s.mem := setMc_mem ..
    have herr : (s.setMc d n { s.mc d n with scrub := 0, passStart := s.now }).err = s.err := setMc_err ..
    generalize s.setMc d n { s.mc d n with scrub := 0, passStart := s.now } = u at hfld hmc hmem herr
    refine ⟨(incWrap_mem ..).trans ((setFld_mem ..).trans hmem), (incWrap_err ..).trans ((setFld_err ..).trans herr), ?_, ?_, ?_, ?_⟩
    · rw [incWrap_mc, setFld_mc, hmc]
    · rw [incWrap_mc, setFld_mc, hmc]
    · rw [fld_incWrap_same _ _ (by decide), fld_setFld_apart _ _ (by decide) (.inl (by decide)), hfld]
    · rw [State.incWrap, fld_setFld_apart _ _ (by decide) (.inr (by decide)), fld_setFld_same _ _ (by decide)]
      rfl

/-- A segment of good half-blocks is passed over. -/
theorem scrub_passes (hi : s.liveIdx d n < s.liveDevs.length) (hs : s.devState d n = 4)
    (hl : s.locate (((s.mc d n).scrub * s.liveDevs.length + s.liveIdx d n) * 960) = some g)
    (ht : s.tagBad g (((s.mc d n).scrub * s.liveDevs.length + s.liveIdx d n) * 960) = false) (hid : s.mcIdle d n = true)
    (hnow : s.now ≤ (s.mc d n).passStart + s.fld (memKey d n MEM_SCRUB_RATE) 0 16 * 60000000000)
    (hg : ∀ h ∈ halvesOf (((s.mc d n).scrub * s.liveDevs.length + s.liveIdx d n) * 960) 960, gddrJudge (s.half h) (s.halfChk h) = .good) :
    exec (.gddrScrubSegment d n 0 0) s = .next (s.segmentDone d n) := by
  obtain ⟨rfl, rfl, hch⟩ := locate_segment hi hl
  refine (mscrub_acts hi hs hid).trans (next_congr ?_)
  rw [mscrubLate_timely hnow]
  unfold State.scrubSegment
  simp only [hl, State.transfer, idle_free hid hch, Bool.false_eq_true, if_false, if_true]
  rw [readHalves_good ht hg]

theorem mscrubLate_keeps : s.within [.regs, .err] (s.mscrubLate d n) ∧
    s.regsBut (s.mscrubLate d n) [memKey d n MEM_SCRUB_STAT, memKey d n MEM_ERR_ADDR, memKey d n MEM_ERR_INFO] := by
  unfold State.mscrubLate
  split
  · have hw : s.within [.regs] (s.setFld (memKey d n MEM_SCRUB_STAT) 16 1 1) := within_setFld (List.Subset.refl _) (within_refl s)
    have hk : s.regsBut (s.setFld (memKey d n MEM_SCRUB_STAT) 16 1 1) [memKey d n MEM_SCRUB_STAT, memKey d n MEM_ERR_ADDR, memKey d n MEM_ERR_INFO] :=
      regsBut_setFld (regsBut_refl s _) List.mem_cons_self _ _ _
    generalize s.setFld (memKey d n MEM_SCRUB_STAT) 16 1 1 = u at hw hk
    obtain ⟨hw2, hk2, -⟩ := memRaise_keeps (s := u) (g := ⟨d, n, 0, 0, 0, 0⟩) 0x4A 0 0 0 none
    exact ⟨within_trans (within_mono hw (by decide)) hw2, regsBut_trans hk fun k hmem => hk2 k fun h => hmem (List.mem_cons_of_mem _ h)⟩
  · exact ⟨within_refl s, regsBut_refl s _⟩

theorem scrubSegment_waits {m : Nat} (ha : a = ((s.mc d n).scrub * s.liveDevs.length + s.liveIdx d n) * 960) (hl : s.locate a = some g)
    (ht : s.transfer g a m = (t, false)) : s.scrubSegment d n m = t := by
  unfold State.scrubSegment
  simp only [← ha, hl, ht, Bool.false_eq_true, if_false]

/-- A read that starts a retrain leaves the scrubber at its segment. -/
theorem scrub_retrains {m : Nat} (hi : s.liveIdx d n < s.liveDevs.length) (hs : s.devState d n = 4)
    (ha : a = ((s.mc d n).scrub * s.liveDevs.length + s.liveIdx d n) * 960) (hl : s.locate a = some g) (hid : s.mcIdle d n = true) (hm : 3 ≤ m) :
    ∃ t, exec (.gddrScrubSegment d n m 0) s = .next t ∧ t.retraining d n g.ch = true ∧ (t.mc d n).scrub = (s.mc d n).scrub ∧ t.mem = s.mem := by
  obtain ⟨rfl, rfl, hch⟩ := locate_segment hi (ha ▸ hl)
  have hexec := mscrub_acts (m := m) hi hs hid
  obtain ⟨hw, hk⟩ := mscrubLate_keeps (s := s) (d := g.d) (n := g.n)
  generalize s.mscrubLate g.d g.n = u at hexec hw hk
  have hlive : u.liveDevs = s.liveDevs := liveDevs_of_regsBut hk (by simp [memKey_high])
  have hidx : u.liveIdx g.d g.n = s.liveIdx g.d g.n := by
    unfold State.liveIdx
    rw [hlive]
  have hmcs : u.mcs = s.mcs := StartPhases.within_same hw .mcs (by decide)
  have hret : u.retraining g.d g.n g.ch = false := by
    unfold State.retraining
    rw [fld_of_regsBut hk (by simp [memKey_ne (show MEM_STAT ≠ MEM_ERR_ADDR by decide), memKey_ne (show MEM_STAT ≠ MEM_ERR_INFO by decide),
      memKey_ne (show MEM_STAT ≠ MEM_SCRUB_STAT by decide)])]
    exact idle_free hid hch
  obtain ⟨t, ht, hrt⟩ := transfer_retrains (s := u) (a := a) hch hret hm
  rw [scrubSegment_waits (by rw [mc_of_mcs hmcs, hlive, hidx]; exact ha) ((locate_of_liveDevs hlive a).trans hl) ht] at hexec
  have hmcs' : t.mcs = u.mcs := StartPhases.within_same hrt.reach .mcs (by decide)
  have hmem : u.mem = s.mem := StartPhases.within_same hw .mem (by decide)
  exact ⟨t, hexec, hrt.on, congrArg Mc.scrub ((mc_of_mcs hmcs' _ _).trans (mc_of_mcs hmcs _ _)), (StartPhases.within_same hrt.reach .mem (by decide)).trans hmem⟩

/-! ### A temperature reading (R274) -/

section
variable {v : Int}

theorem toSigned_ofSigned (h : -128 ≤ v) (h' : v ≤ 127) : toSigned 8 (ofSigned 8 v % 2 ^ 8) = v := by
  unfold toSigned ofSigned
  norm_num
  split <;> omega

theorem toSigned_range (x : Nat) : -128 ≤ toSigned 8 x ∧ toSigned 8 x ≤ 127 := by
  unfold toSigned
  norm_num
  split <;> omega

/-- The refresh rate doubled at 85 degrees, single again below 80. -/
def drefSet (s : State) (k : Nat) (v : Int) : State := if 85 ≤ v then s.setFld k 8 1 1 else if v < 80 then s.setFld k 8 1 0 else s

theorem drefSet_keeps (s : State) (k : Nat) (v : Int) : s.regsBut (drefSet s k v) [k] ∧ (drefSet s k v).err = s.err ∧ (drefSet s k v).mem = s.mem ∧
    (drefSet s k v).fld k 7 1 = s.fld k 7 1 ∧ (85 ≤ v → (drefSet s k v).fld k 8 1 = 1) ∧ (v < 80 → (drefSet s k v).fld k 8 1 = 0) ∧
    (80 ≤ v → v < 85 → (drefSet s k v).fld k 8 1 = s.fld k 8 1) := by
  have hset (x : Nat) : s.regsBut (s.setFld k 8 1 x) [k] := regsBut_setFld (regsBut_refl s _) List.mem_cons_self _ _ _
  have hthrot (x : Nat) : (s.setFld k 8 1 x).fld k 7 1 = s.fld k 7 1 := fld_setFld_apart _ _ (by decide) (.inl (by decide))
  have hdref (x : Nat) : (s.setFld k 8 1 x).fld k 8 1 = x % 2 ^ 1 := fld_setFld_same _ _ (by decide)
  unfold drefSet
  split
  · exact ⟨hset _, setFld_err .., setFld_mem .., hthrot _, fun _ => hdref _, fun _ => by omega, fun _ _ => by omega⟩
  · split
    · exact ⟨hset _, setFld_err .., setFld_mem .., hthrot _, fun _ => by omega, fun _ => hdref _, fun _ _ => by omega⟩
    · exact ⟨regsBut_refl s _, rfl, rfl, rfl, fun _ => by omega, fun _ => by omega, fun _ _ => rfl⟩

/-- The device throttled at 95 degrees, with its record, no longer below 90. -/
def throtSet (s : State) (d n : Nat) (v : Int) : State :=
  if 95 ≤ v then if s.fld (memKey d n MEM_STAT) 7 1 = 1 then s else (s.setFld (memKey d n MEM_STAT) 7 1 1).memRaise ⟨d, n, 0, 0, 0, 0⟩ 0x47 0 0 0 none
  else if v < 90 then s.setFld (memKey d n MEM_STAT) 7 1 0 else s

/-- What a step of the throttle leaves. -/
structure Throttled (s t : State) (d n : Nat) (v : Int) : Prop where
  keys : s.regsBut t [memKey d n MEM_STAT, memKey d n MEM_ERR_ADDR, memKey d n MEM_ERR_INFO]
  mem : t.mem = s.mem
  dref : t.fld (memKey d n MEM_STAT) 8 1 = s.fld (memKey d n MEM_STAT) 8 1
  on : 95 ≤ v → t.fld (memKey d n MEM_STAT) 7 1 = 1
  off : v < 90 → t.fld (memKey d n MEM_STAT) 7 1 = 0
  stays : 90 ≤ v → v < 95 → t.fld (memKey d n MEM_STAT) 7 1 = s.fld (memKey d n MEM_STAT) 7 1
  logged : if 95 ≤ v ∧ s.fld (memKey d n MEM_STAT) 7 1 = 0 then s.logs t 0x47 (.dieUnit d n) 0 else t.err = s.err

theorem throtSet_keeps (s : State) (d n : Nat) (v : Int) : Throttled s (throtSet s d n v) d n v := by
  have hset (x : Nat) : s.regsBut (s.setFld (memKey d n MEM_STAT) 7 1 x) [memKey d n MEM_STAT, memKey d n MEM_ERR_ADDR, memKey d n MEM_ERR_INFO] :=
    regsBut_setFld (regsBut_refl s _) List.mem_cons_self _ _ _
  have hdref (x : Nat) : (s.setFld (memKey d n MEM_STAT) 7 1 x).fld (memKey d n MEM_STAT) 8 1 = s.fld (memKey d n MEM_STAT) 8 1 :=
    fld_setFld_apart _ _ (by decide) (.inr (by decide))
  have hthrot (x : Nat) : (s.setFld (memKey d n MEM_STAT) 7 1 x).fld (memKey d n MEM_STAT) 7 1 = x % 2 ^ 1 := fld_setFld_same _ _ (by decide)
  have hbit : s.fld (memKey d n MEM_STAT) 7 1 < 2 ^ 1 := IntegerInstructions.bits_lt ..
  unfold throtSet
  split
  next hhot =>
    split
    next hon =>
      exact ⟨regsBut_refl s _, rfl, rfl, fun _ => hon, fun _ => by omega, fun _ _ => by omega, by rw [if_neg (by omega)]⟩
    next hoff =>
      have hk := hset 1
      have hd := hdref 1
      have ht := hthrot 1
      have hm : (s.setFld (memKey d n MEM_STAT) 7 1 1).mem = s.mem := setFld_mem ..
      have he : (s.setFld (memKey d n MEM_STAT) 7 1 1).err = s.err := setFld_err ..
      generalize s.setFld (memKey d n MEM_STAT) 7 1 1 = u at hk hd ht hm he
      obtain ⟨hw2, hk2, -, hlog⟩ := memRaise_keeps (s := u) (g := ⟨d, n, 0, 0, 0, 0⟩) 0x47 0 0 0 none
      have hstat := fun lo w => fld_of_regsBut hk2 (stat_free d n) lo w
      refine ⟨regsBut_trans hk fun k hmem => hk2 k fun h => hmem (List.mem_cons_of_mem _ h), (StartPhases.within_same hw2 .mem (by decide)).trans hm,
        (hstat ..).trans hd, fun _ => (hstat ..).trans ht, fun _ => by omega, fun _ _ => by omega, ?_⟩
      rw [if_pos ⟨hhot, by omega⟩]
      exact logs_of_same (congrArg Err.recQ he) hlog
  next hcool =>
    split
    next => exact ⟨hset 0, setFld_mem .., hdref 0, fun _ => by omega, fun _ => hthrot 0, fun _ _ => by omega, by rw [if_neg (by omega), setFld_err]⟩
    next => exact ⟨regsBut_refl s _, rfl, rfl, fun _ => by omega, fun _ => by omega, fun _ _ => rfl, by rw [if_neg (by omega)]⟩

theorem memTemp_eq (s : State) (d n : Nat) (v : Int) : s.memTemp d n v = throtSet (drefSet ((s.setFld (memKey d n MEM_TEMP) 0 8 (ofSigned 8 v)).setFld (memKey d n MEM_TEMP) 8 8
    (ofSigned 8 (max (toSigned 8 (s.fld (memKey d n MEM_TEMP) 8 8)) v))) (memKey d n MEM_STAT) v) d n v := rfl

theorem temp_read (hlo : -128 ≤ v) (hhi : v ≤ 127) :
    ∃ t, exec (.gddrTempRead d n v) s = .next t ∧ toSigned 8 (t.fld (memKey d n MEM_TEMP) 0 8) = v ∧
      toSigned 8 (t.fld (memKey d n MEM_TEMP) 8 8) = max (toSigned 8 (s.fld (memKey d n MEM_TEMP) 8 8)) v ∧
      (85 ≤ v → t.fld (memKey d n MEM_STAT) 8 1 = 1) ∧ (v < 80 → t.fld (memKey d n MEM_STAT) 8 1 = 0) ∧
      (80 ≤ v → v < 85 → t.fld (memKey d n MEM_STAT) 8 1 = s.fld (memKey d n MEM_STAT) 8 1) ∧
      (95 ≤ v → t.fld (memKey d n MEM_STAT) 7 1 = 1) ∧ (v < 90 → t.fld (memKey d n MEM_STAT) 7 1 = 0) ∧
      (90 ≤ v → v < 95 → t.fld (memKey d n MEM_STAT) 7 1 = s.fld (memKey d n MEM_STAT) 7 1) ∧
      (if 95 ≤ v ∧ s.fld (memKey d n MEM_STAT) 7 1 = 0 then s.logs t 0x47 (.dieUnit d n) 0 else t.err = s.err) ∧
      t.mem = s.mem ∧ s.regsBut t [memKey d n MEM_TEMP, memKey d n MEM_STAT, memKey d n MEM_ERR_ADDR, memKey d n MEM_ERR_INFO] := by
  have hrange := toSigned_range (s.fld (memKey d n MEM_TEMP) 8 8)
  have hexec : exec (.gddrTempRead d n v) s = .next (s.memTemp d n v) := next_congr rfl
  rw [memTemp_eq] at hexec
  have hmlo : -128 ≤ max (toSigned 8 (s.fld (memKey d n MEM_TEMP) 8 8)) v := le_max_of_le_right hlo
  have hmhi : max (toSigned 8 (s.fld (memKey d n MEM_TEMP) 8 8)) v ≤ 127 := max_le hrange.2 hhi
  generalize max (toSigned 8 (s.fld (memKey d n MEM_TEMP) 8 8)) v = m at hexec hmlo hmhi ⊢
  have hts : memKey d n MEM_STAT ≠ memKey d n MEM_TEMP := memKey_ne (by decide)
  have hta : memKey d n MEM_TEMP ≠ memKey d n MEM_ERR_ADDR := memKey_ne (by decide)
  have hti : memKey d n MEM_TEMP ≠ memKey d n MEM_ERR_INFO := memKey_ne (by decide)
  have hk1 : s.regsBut ((s.setFld (memKey d n MEM_TEMP) 0 8 (ofSigned 8 v)).setFld (memKey d n MEM_TEMP) 8 8 (ofSigned 8 m)) [memKey d n MEM_TEMP] :=
    regsBut_setFld (regsBut_setFld (regsBut_refl s _) List.mem_cons_self _ _ _) List.mem_cons_self _ _ _
  have hlow1 : ((s.setFld (memKey d n MEM_TEMP) 0 8 (ofSigned 8 v)).setFld (memKey d n MEM_TEMP) 8 8 (ofSigned 8 m)).fld (memKey d n MEM_TEMP) 0 8 = ofSigned 8 v % 2 ^ 8 :=
    (fld_setFld_apart _ _ (by decide) (.inl (by decide))).trans (fld_setFld_same _ _ (by decide))
  have hhigh1 : ((s.setFld (memKey d n MEM_TEMP) 0 8 (ofSigned 8 v)).setFld (memKey d n MEM_TEMP) 8 8 (ofSigned 8 m)).fld (memKey d n MEM_TEMP) 8 8 = ofSigned 8 m % 2 ^ 8 :=
    fld_setFld_same _ _ (by decide)
  have hm1 : ((s.setFld (memKey d n MEM_TEMP) 0 8 (ofSigned 8 v)).setFld (memKey d n MEM_TEMP) 8 8 (ofSigned 8 m)).mem = s.mem := (setFld_mem ..).trans (setFld_mem ..)
  have he1 : ((s.setFld (memKey d n MEM_TEMP) 0 8 (ofSigned 8 v)).setFld (memKey d n MEM_TEMP) 8 8 (ofSigned 8 m)).err = s.err := (setFld_err ..).trans (setFld_err ..)
  generalize (s.setFld (memKey d n MEM_TEMP) 0 8 (ofSigned 8 v)).setFld (memKey d n MEM_TEMP) 8 8 (ofSigned 8 m) = u at hexec hk1 hlow1 hhigh1 hm1 he1
  have hstat1 (lo w : Nat) : u.fld (memKey d n MEM_STAT) lo w = s.fld (memKey d n MEM_STAT) lo w := fld_of_regsBut hk1 (by simpa using hts) lo w
  obtain ⟨hk2, he2, hm2, hthrot2, hon2, hoff2, hstay2⟩ := drefSet_keeps u (memKey d n MEM_STAT) v
  have htemp2 (lo w : Nat) : (drefSet u (memKey d n MEM_STAT) v).fld (memKey d n MEM_TEMP) lo w = u.fld (memKey d n MEM_TEMP) lo w :=
    fld_of_regsBut hk2 (by simpa using hts.symm) lo w
  generalize drefSet u (memKey d n MEM_STAT) v = x at hexec hk2 he2 hm2 hthrot2 hon2 hoff2 hstay2 htemp2
  have hthr := throtSet_keeps x d n v
  generalize throtSet x d n v = t at hexec hthr
  have htemp3 (lo w : Nat) : t.fld (memKey d n MEM_TEMP) lo w = u.fld (memKey d n MEM_TEMP) lo w :=
    (fld_of_regsBut hthr.keys (by simp [hts.symm, hta, hti]) lo w).trans (htemp2 lo w)
  have hbit : x.fld (memKey d n MEM_STAT) 7 1 = s.fld (memKey d n MEM_STAT) 7 1 := hthrot2.trans (hstat1 7 1)
  have hlog := hthr.logged
  rw [hbit] at hlog
  refine ⟨t, hexec, ?_, ?_, fun h => hthr.dref.trans (hon2 h), fun h => hthr.dref.trans (hoff2 h), fun h h' => hthr.dref.trans ((hstay2 h h').trans (hstat1 8 1)),
    hthr.on, hthr.off, fun h h' => (hthr.stays h h').trans hbit, ?_, hthr.mem.trans (hm2.trans hm1), ?_⟩
  · rw [htemp3, hlow1]
    exact toSigned_ofSigned hlo hhi
  · rw [htemp3, hhigh1]
    exact toSigned_ofSigned hmlo hmhi
  · split
    next h =>
      rw [if_pos h] at hlog
      exact logs_of_same (congrArg Err.recQ (he2.trans he1)) hlog
    next h =>
      rw [if_neg h] at hlog
      exact hlog.trans (he2.trans he1)
  · have hsub {k : Nat} (hk : k ∉ [memKey d n MEM_TEMP, memKey d n MEM_STAT, memKey d n MEM_ERR_ADDR, memKey d n MEM_ERR_INFO]) :
        k ∉ [memKey d n MEM_TEMP] ∧ k ∉ [memKey d n MEM_STAT] ∧ k ∉ [memKey d n MEM_STAT, memKey d n MEM_ERR_ADDR, memKey d n MEM_ERR_INFO] := by
      simp only [List.mem_cons, List.not_mem_nil, or_false, not_or] at hk ⊢
      exact ⟨hk.1, hk.2.1, hk.2⟩
    intro k hk
    obtain ⟨h1, h2, h3⟩ := hsub hk
    exact (hthr.keys k h3).trans ((hk2 k h2).trans (hk1 k h1))

end

/-- Settles O34: retries are counted and the third starts a retrain, its end serves what waited, and the scrubber, the temperature and the refresh keep what is
stored. -/
theorem gddrDevicesRetrainScrubAndRefresh : Obligations.GddrDevicesRetrainScrubAndRefresh := by
  unfold Obligations.GddrDevicesRetrainScrubAndRefresh
  refine ⟨?_, ?_, ?_, ?_, ?_, ?_, ?_⟩
  · intro s req ga len m g hr hl hh hch hm hw
    exact read_retrains hr hl hh hch hm hw
  · intro s d n ch hr hch hw
    exact ⟨retrain_passes hr hch hw, retrain_fails hr hch hw⟩
  · intro s w g hr hch hw hd hl hb hs ht hg
    exact retrain_serves hr hch hw hd hl hb hs ht hg
  · intro s d n a g hi hs ha hl ht hid hnow hg
    have hexec := scrub_passes hi hs (ha ▸ hl) (ha ▸ ht) hid hnow (ha ▸ hg)
    obtain ⟨hmem, herr, hseg⟩ := segmentDone_keeps (s := s) (d := d) (n := n)
    exact ⟨_, hexec, hmem, herr, hseg⟩
  · intro s d n a m g hi hs ha hl hid hm
    exact scrub_retrains hi hs ha hl hid hm
  · intro s d n v hlo hhi
    exact temp_read hlo hhi
  · intro s d n b
    have hmc := mc_setMc_same s d n { s.mc d n with refreshes := (s.mc d n).refreshes + 1 }
    exact ⟨_, next_congr rfl, congrArg Mc.refreshes hmc, setMc_mem .., setMc_regs .., setMc_err ..⟩

end Sys2Proof.GddrDevices
end

section
/-! PROOFS. What the fabric's sender does: accesses that reach their target, frames that leave a port, commands that end (R281-R303). -/

namespace Sys2Proof.FabricFrames

open Sys2Proof Sys2Proof.Machine Sys2Proof.Laws Sys2Proof.Clauses

variable {s t u v : State} {d p q : Nat}

/-! ### An access that reaches its target leaves registers and records (R185, R194) -/

theorem gateLink_passes {c l : Nat} {k : Pkt} {o : Option Nat} (h : s.gateLink c l k = (t, o)) (ho : o = none ∨ o = some 0) : s.within [.regions, .fates] t := by
  have hfate : s.within [.fates] s.nextFate.1 := within_nextFate (List.Subset.refl _) (within_refl s)
  unfold State.gateLink at h
  rcases hn : s.nextFate with ⟨x, lost⟩
  rw [hn] at h hfate
  generalize s.linkAwaits c l = awaits at h
  generalize (if l = State.ringLink then s.linkFailed c (s.codeOf c l) else s.linkDead c l) = dead at h
  generalize (s.link c l).stopped = stopped at h
  have hx : s.within [.regions, .fates] x := within_mono hfate (by decide)
  cases awaits with
  | true =>
    cases lost with
    | true =>
      obtain ⟨rfl, rfl⟩ := Prod.mk.inj h
      simp at ho
    | false =>
      obtain ⟨rfl, rfl⟩ := Prod.mk.inj h
      exact hx
  | false =>
    cases dead with
    | true =>
      obtain ⟨rfl, rfl⟩ := Prod.mk.inj h
      simp at ho
    | false =>
      cases stopped with
      | true =>
        cases lost with
        | true =>
          obtain ⟨rfl, rfl⟩ := Prod.mk.inj h
          simp at ho
        | false =>
          obtain ⟨rfl, rfl⟩ := Prod.mk.inj h
          exact hx
      | false =>
        obtain ⟨rfl, rfl⟩ := Prod.mk.inj h
        exact within_refl _

theorem walk_arrives (fuel : Nat) {c via : Nat} {k : Pkt} (h : s.walk c via k fuel = (t, 0)) : s.within [.regions, .fates] t := by
  induction fuel generalizing s c via k with
  | zero =>
    cases h
  | succ fuel ih =>
    unfold State.walk at h
    split at h
    · cases h
    · split at h
      · cases h
        exact within_refl _
      · cases h
      · split at h
        next x o hg =>
          cases h
          exact gateLink_passes hg (.inr rfl)
        next x hg =>
          have hw := gateLink_passes hg (.inl rfl)
          have hact (m : Nat) : x.within [.regions, .fates] (x.act c 5 m) := within_act (by decide) (within_refl x)
          dsimp only at h
          split at h
          · exact within_trans hw (within_trans (hact _) (ih h))
          · cases h
            exact within_trans hw (hact _)

theorem walkIn_arrives {e : Nat} {k : Pkt} (h : s.walkIn e k = (t, 0)) : s.within [.regions, .fates] t := by
  unfold State.walkIn at h
  split at h
  next x o hg =>
    cases h
    exact gateLink_passes hg (.inr rfl)
  next x hg => exact within_trans (gateLink_passes hg (.inl rfl)) (walk_arrives 1024 h)

theorem carry_arrives {k : Pkt} {a : State.Dest} (h : s.carry d k a = (t, 0)) : s.within [.regions, .fates] t := by
  unfold State.carry at h
  split at h
  · split at h
    · exact walkIn_arrives h
    · cases h
  · split at h
    · cases h
      exact within_refl s
    · split at h
      · cases h
      · dsimp only at h
        split at h
        · exact walkIn_arrives h
        · cases h
  · cases h
    exact within_refl s

theorem carryOut_arrives {req : Req} {ga len : Nat} {write : Bool} (h : s.carryOut d req ga len write = (t, 0)) : s.within [.regions, .fates] t := carry_arrives h

theorem carryBack_arrives {req : Req} {ga len : Nat} {write : Bool} (h : s.carryBack d req ga len write = (t, 0)) : s.within [.regions, .fates] t := by
  unfold State.carryBack at h
  dsimp only at h
  split at h
  · split at h
    · exact walk_arrives 1024 h
    · cases h
      exact within_refl s
  · exact carry_arrives h
  · cases h
    exact within_refl s

/-- An access carried both ways. -/
theorem carried_arrives {α : Type} {req : Req} {ga len : Nat} {write : Bool} {lost : Nat → α} {act : State → State × α} {x : State} {r : α}
    (hout : s.carryOut d req ga len write = (t, 0)) (hact : act t = (u, r)) (hback : u.carryBack d req ga len write = (x, 0)) :
    s.carried d req ga len write lost act = (x, r) := by
  unfold State.carried
  simp only [hout, hact, hback]

/-! ### Frames that leave a port (R286, R287, R289) -/

/-- The same ports, registers and frames sent. -/
structure SamePorts (s t : State) : Prop where
  part : t.part = s.part
  regs : t.regs = s.regs
  fports : t.fports = s.fports
  out : t.out = s.out

theorem SamePorts.of_within {ks : List Comp} (h : s.within ks t) (hr : Comp.regs ∉ ks) (hf : Comp.fports ∉ ks) (ho : Comp.out ∉ ks) : SamePorts s t :=
  ⟨h.1, StartPhases.within_same h .regs hr, StartPhases.within_same h .fports hf, StartPhases.within_same h .out ho⟩

theorem SamePorts.trans (h : SamePorts s t) (h' : SamePorts t u) : SamePorts s u :=
  ⟨h'.part.trans h.part, h'.regs.trans h.regs, h'.fports.trans h.fports, h'.out.trans h.out⟩

theorem SamePorts.fport (h : SamePorts s t) (d p : Nat) : t.fport d p = s.fport d p := by
  unfold State.fport
  rw [h.fports]

theorem SamePorts.fld (h : SamePorts s t) (k lo w : Nat) : t.fld k lo w = s.fld k lo w := fld_of_regs h.part h.regs ..

theorem SamePorts.reg (h : SamePorts s t) (k : Nat) : t.reg k = s.reg k := reg_of_regs h.part h.regs ..

theorem SamePorts.pstate (h : SamePorts s t) (d p : Nat) : t.pstate d p = s.pstate d p := h.fld ..

theorem SamePorts.ethernet (h : SamePorts s t) (d p : Nat) : t.ethernet d p = s.ethernet d p := by
  unfold State.ethernet
  rw [h.pstate, h.fport, h.fld]

/-- A frame that an up Ethernet port takes leaves at once. -/
theorem sendFrame_ether (hp : s.pstate d p = 2) (he : s.ethernet d p = true) (dmac : BitVec 48) (f : Frame) :
    s.sendsEther (s.sendFrame d p dmac f) d p dmac f ∧ s.within [.out] (s.sendFrame d p dmac f) := by
  have h : s.sendFrame d p dmac f = s.emit (.frame d p (etherBytes dmac (BitVec.ofNat 48 (s.reg (fabKey d p FAB_PMAC)).toNat) (s.fport d p).vlan (s.fport d p).etype (sealFrame f))) := by
    unfold State.sendFrame
    dsimp only
    rw [if_pos hp, he, if_pos rfl]
  rw [h]
  exact ⟨rfl, within_emit (List.Subset.refl _) (within_refl s)⟩

/-- It is the frame of an earlier state with the same ports. -/
theorem sendsEther_of {dmac : BitVec 48} {f : Frame} (h : SamePorts s u) (hs : u.sendsEther t d p dmac f) : s.sendsEther t d p dmac f := by
  unfold State.sendsEther at hs ⊢
  rw [hs, h.out, h.fport, h.reg]

theorem sends_ether (h : SamePorts s u) (hp : s.pstate d p = 2) (he : s.ethernet d p = true) (dmac : BitVec 48) (f : Frame) :
    s.sendsEther (u.sendFrame d p dmac f) d p dmac f ∧ u.within [.out] (u.sendFrame d p dmac f) := by
  obtain ⟨hs, hw⟩ := sendFrame_ether ((h.pstate d p).trans hp) ((h.ethernet d p).trans he) dmac f
  exact ⟨sendsEther_of h hs, hw⟩

/-- A later state that sent nothing more. -/
theorem sendsEther_out {dmac : BitVec 48} {f : Frame} (h : s.sendsEther t d p dmac f) (ho : u.out = t.out) : s.sendsEther u d p dmac f := ho.trans h

theorem length_frameHead (f : Frame) : (frameHead f).length = 32 := by
  simp only [frameHead, List.length_append, StartPhases.length_toLe]

theorem length_frameBytes (f : Frame) (h : f.pois = []) : (frameBytes f).length = 36 + f.payload.length := by
  simp only [frameBytes, frameBody, poisMap, h, if_true, List.length_append, length_frameHead, StartPhases.length_toLe, List.length_nil]
  omega

/-! ### Contexts and tags -/

theorem ctx_of_ctxs (h : t.ctxs = s.ctxs) (q : Nat) : t.ctx q = s.ctx q := by unfold State.ctx; rw [h]

theorem tag_of_tags (h : t.tags = s.tags) (d n : Nat) : t.tag d n = s.tag d n := by unfold State.tag; rw [h]

/-- The state of a context and its frames after one of them took its SEQ. -/
theorem sendSeq_ether {f : Frame} {x : Ctx} (hx : s.ctx q = x) (hp : s.pstate (State.ctxDie q) x.port = 2) (he : s.ethernet (State.ctxDie q) x.port = true) :
    s.sendsEther (s.sendSeq q f) (State.ctxDie q) x.port x.dmac
      { f with seq := x.txSeq, srcEngine := s.engineId (State.ctxDie q), dstEngine := x.peerEngine, srcQueue := q, dstQueue := x.peerQueue } ∧
    s.within [.ctxs, .out] (s.sendSeq q f) ∧ ((s.sendSeq q f).ctx q).inflight = x.inflight ∧ ((s.sendSeq q f).ctx q).txSeq = x.txSeq + 1 ∧
    (∀ r, r ≠ q → (s.sendSeq q f).ctx r = s.ctx r) := by
  subst hx
  unfold State.sendSeq
  dsimp only
  rw [he]
  have hsame (y : Ctx) : SamePorts s (s.setCtx q y) := .of_within (within_setCtx (List.Subset.refl [Comp.ctxs]) (within_refl s)) (by decide) (by decide) (by decide)
  have hset (y : Ctx) : s.within [.ctxs] (s.setCtx q y) := within_setCtx (List.Subset.refl _) (within_refl s)
  obtain ⟨hs, hw⟩ := sends_ether (hsame _) hp he (s.ctx q).dmac
    { f with seq := (s.ctx q).txSeq, srcEngine := s.engineId (State.ctxDie q), dstEngine := (s.ctx q).peerEngine, srcQueue := q, dstQueue := (s.ctx q).peerQueue }
  have hc := fun e => ctx_of_ctxs (StartPhases.within_same hw .ctxs (by decide)) e
  refine ⟨hs, within_trans (within_mono (hset _) (by decide)) (within_mono hw (by decide)), ?_, ?_, fun r hr => ?_⟩
  · rw [hc, ctx_setCtx_same]
  · rw [hc, ctx_setCtx_same]
  · rw [hc, ctx_setCtx, if_neg hr]

/-! ### Commands that end (R300, R303) -/

/-- What a released tag slot leaves. -/
theorem releaseTag_keeps (d n q : Nat) : s.within [.ctxs, .tags] (s.releaseTag d n q) ∧ ((s.releaseTag d n q).tag d n).cmd = none ∧
    ((s.releaseTag d n q).tag d n).gen = ((s.tag d n).gen + 1) % 16 ∧
    (s.releaseTag d n q).ctx q = { s.ctx q with inflight := (s.ctx q).inflight - 1 } ∧ (∀ r, r ≠ q → (s.releaseTag d n q).ctx r = s.ctx r) := by
  have htag : (s.releaseTag d n q).tag d n = { Tag.reset with gen := ((s.tag d n).gen + 1) % 16 } := (setCtx_tag ..).trans (tag_setTag_same ..)
  have hctx (r : Nat) : (s.releaseTag d n q).ctx r = if r = q then { s.ctx q with inflight := (s.ctx q).inflight - 1 } else s.ctx r := by
    unfold State.releaseTag
    rw [ctx_setCtx, setTag_ctx]
  exact ⟨within_releaseTag (List.Subset.refl _) (within_refl s), by rw [htag]; rfl, by rw [htag], (hctx q).trans (if_pos rfl), fun r hr => (hctx r).trans (if_neg hr)⟩

/-- What a failed command leaves. -/
theorem failTag_keeps {n cause : Nat} {fc : FabCmd} (hq : cQueue fc.cmd = q) (hc : (s.tag d n).cmd = some fc) :
    s.within [.ctxs, .tags, .err] (s.failTag d n cause) ∧ ((s.failTag d n cause).tag d n).cmd = none ∧
    ((s.failTag d n cause).tag d n).gen = ((s.tag d n).gen + 1) % 16 ∧
    (s.failTag d n cause).ctx q = { s.ctx q with inflight := (s.ctx q).inflight - 1, state := 3, cause := cause } ∧
    (∃ e, (s.failTag d n cause).err.recQ = s.err.recQ ++ [e] ∧ e.cls = 0x56 ∧ e.struck = originCell fc.req) := by
  subst hq
  obtain ⟨hw, htag, hgen, hctx, -⟩ := releaseTag_keeps (s := s) d n (cQueue fc.cmd)
  have herr : (s.releaseTag d n (cQueue fc.cmd)).err = s.err := StartPhases.within_same hw .err (by decide)
  refine ⟨within_failTag (List.Subset.refl _) (within_refl s), ?_⟩
  unfold State.failTag
  rw [hc]
  dsimp only
  generalize s.releaseTag d n (cQueue fc.cmd) = u at hw htag hgen hctx herr
  rw [hctx]
  refine ⟨(congrArg Tag.cmd ((raise_tag ..).trans (setCtx_tag ..))).trans htag, (congrArg Tag.gen ((raise_tag ..).trans (setCtx_tag ..))).trans hgen,
    (raise_ctx ..).trans (ctx_setCtx_same ..), ?_⟩
  obtain ⟨e, hrec, hcls, -, hst⟩ := SyncCounters.raise_record (u.setCtx (cQueue fc.cmd) { s.ctx (cQueue fc.cmd) with inflight := (s.ctx (cQueue fc.cmd)).inflight - 1, state := 3, cause := cause })
    0x56 (.dieUnit d (s.ctx (cQueue fc.cmd)).port) (cause + cQueue fc.cmd * 2 ^ 8 + n * 2 ^ 24 + (s.tag d n).gen * 2 ^ 40) (originCell fc.req)
  exact ⟨e, hrec.trans (congrArg (· ++ [e]) (congrArg Err.recQ ((setCtx_err ..).trans herr))), hcls, hst⟩

/-! ### Scratchpad runs as the FAB reaches them (R297-R299) -/

theorem agentPieces_spm {ga len : Nat} (h : bits ga 44 4 = 1) : State.agentPieces ga len = [(0, len)] := by
  unfold State.agentPieces
  rw [h]
  rfl

theorem agentReadPart_spm {ga len c off : Nat} (hout : s.carryOut d (.agent d) ga len false = (v, 0)) (ht : v.target ga = .spm c off)
    (hchk : v.spmCheckRun c off len 4 false = none) (hgood : ∀ j, j < len → judge (v.wordAt c (off + j)) (v.chkAt c (off + j)) = .good)
    (hback : (v.meshRead c off len).1.carryBack d (.agent d) ga len false = (t, 0)) :
    s.agentReadPart d ga len = (t, v.bytes (spmKey c off) len, [], 0) := by
  have hread := MeshRuns.meshRead_good hgood
  unfold State.agentReadPart
  refine carried_arrives (r := (v.bytes (spmKey c off) len, [], 0)) hout ?_ hback
  simp only [ht, hchk, hread, if_true]

/-- One run: nothing but the regions' activity and the fates given changes. -/
theorem agentRead_spm {ga len c off : Nat} (hga : bits ga 44 4 = 1) (hout : s.carryOut d (.agent d) ga len false = (v, 0)) (ht : v.target ga = .spm c off)
    (hchk : v.spmCheckRun c off len 4 false = none) (hgood : ∀ j, j < len → judge (v.wordAt c (off + j)) (v.chkAt c (off + j)) = .good)
    (hback : (v.meshRead c off len).1.carryBack d (.agent d) ga len false = (t, 0)) :
    s.agentRead d ga len = (t, s.bytes (spmKey c off) len, [], 0) ∧ s.within [.regions, .fates] t := by
  have hw1 := carryOut_arrives hout
  have hpart := agentReadPart_spm hout ht hchk hgood hback
  rw [MeshRuns.meshRead_good hgood] at hback
  have hact : v.within [.regions, .fates] (v.act c 1 (State.lineCount off len)) := within_act (by decide) (within_refl v)
  refine ⟨?_, within_trans hw1 (within_trans hact (carryBack_arrives hback))⟩
  unfold State.agentRead
  rw [agentPieces_spm hga, List.foldl_cons, List.foldl_nil]
  simp only [Nat.add_zero, hpart, List.nil_append, List.map_nil]
  rw [GddrAccesses.bytes_of_mem (StartPhases.within_same hw1 .mem (by decide))]
  rfl

end Sys2Proof.FabricFrames
end

section
/-! PROOFS. Commands of the fabric: submitted, started, timed out, and the contexts they belong to (R290-R297, R303, R308). -/

namespace Sys2Proof.FabricCommands

open Sys2Proof Sys2Proof.Machine Sys2Proof.Laws Sys2Proof.Clauses Sys2Proof.FabricFrames
open Sys2Proof.Machine.State (withOp ctxDie retryBytes linkSend)

variable {s t u v : State} {d n q op : Nat} {req : Req} {c : BitVec 256} {fc : FabCmd}

/-! ### Submission (R294, R295) -/

theorem cOp_withOp (c : BitVec 256) (h : op < 16) : cOp (withOp c op) = op := by
  have hlt := c.isLt
  unfold withOp cOp cfld bits
  rw [BitVec.toNat_ofNat]
  generalize c.toNat = x at hlt ⊢
  norm_num at hlt ⊢
  omega

theorem exec_submit {i : Instr}
    (h : (i = .fabSubmitPut req d c ∧ op = 1) ∨ (i = .fabSubmitGet req d c ∧ op = 2) ∨ (i = .fabSubmitSignal req d c ∧ op = 3) ∨ (i = .fabSubmitReduce req d c ∧ op = 4)) :
    exec i s = .next (State.submitAnswer req ((s.dropPend req (keyBlock (dieKey d FAB_SUBMIT))).submit req d (withOp c op))) ∧ op < 16 := by
  rcases h with ⟨rfl, rfl⟩ | ⟨rfl, rfl⟩ | ⟨rfl, rfl⟩ | ⟨rfl, rfl⟩
  · exact ⟨next_congr rfl, by decide⟩
  · exact ⟨next_congr rfl, by decide⟩
  · exact ⟨next_congr rfl, by decide⟩
  · exact ⟨next_congr rfl, by decide⟩

theorem submitted (hf : s.fabFull d = false) (hr : s.submitReason req d c = 0) :
    s.submit req d c = ({ s with fabQ := s.fabQ ++ [(d, { cmd := c, req := req })] }, some 0) := by
  unfold State.submit State.submitNow
  simp only [hf, hr, Bool.false_eq_true, if_false, ne_eq, not_true_eq_false]

theorem submit_full (hf : s.fabFull d = true) : s.submit req d c = ({ s with fabWait := s.fabWait ++ [(d, { cmd := c, req := req })] }, none) := by
  unfold State.submit
  rw [if_pos hf]

theorem submit_refused (hf : s.fabFull d = false) (hr : s.submitReason req d c ≠ 0) :
    s.submit req d c = (s.fab54 d (s.submitReason req d c) (cQueue c) (originCell req), some 1) := by
  unfold State.submit State.submitNow
  simp only [hf, hr, Bool.false_eq_true, if_false, ne_eq, not_false_eq_true, if_true]

theorem submitReason_lt : s.submitReason req d c < 2 ^ 4 := by
  unfold State.submitReason
  dsimp only
  repeat' split
  all_goals decide

theorem fab54_keeps (d r q : Nat) (struck : Option Nat) (hr : r < 2 ^ 4) : s.within [.regs, .err] (s.fab54 d r q struck) ∧
    (s.fab54 d r q struck).fld (dieKey d FAB_SUBMIT_STAT) 10 4 = r ∧ s.regsBut (s.fab54 d r q struck) [dieKey d FAB_SUBMIT_STAT] ∧
    s.logs (s.fab54 d r q struck) 0x54 (.dieUnit d 0) (r + q * 2 ^ 8) ∧
    ∃ e, (s.fab54 d r q struck).err.recQ = s.err.recQ ++ [e] ∧ e.cls = 0x54 ∧ e.struck = struck ∧ e.detail = BitVec.ofNat 64 (r + q * 2 ^ 8) := by
  unfold State.fab54
  have hw : s.within [.regs] (s.setFld (dieKey d FAB_SUBMIT_STAT) 10 4 r) := within_setFld (List.Subset.refl _) (within_refl s)
  have hfld := (fld_setFld_same s (k := dieKey d FAB_SUBMIT_STAT) (lo := 10) (w := 4) r (by decide)).trans (Nat.mod_eq_of_lt hr)
  have hregs : s.regsBut (s.setFld (dieKey d FAB_SUBMIT_STAT) 10 4 r) [dieKey d FAB_SUBMIT_STAT] := regsBut_setFld (regsBut_refl s _) List.mem_cons_self _ _ _
  have herr : (s.setFld (dieKey d FAB_SUBMIT_STAT) 10 4 r).err = s.err := setFld_err ..
  generalize s.setFld (dieKey d FAB_SUBMIT_STAT) 10 4 r = u at hw hfld hregs herr
  obtain ⟨e, hrec, hcls, hdet, hst⟩ := GddrAccesses.raise_entry u 0x54 (.dieUnit d 0) (r + q * 2 ^ 8) struck
  exact ⟨within_trans (within_mono hw (by decide)) (within_raise (by decide) (within_refl u)), (fld_of_regs (raise_part ..) (raise_regs ..) ..).trans hfld,
    regsBut_of_regs hregs (raise_part ..) (raise_regs ..), logs_raise (congrArg Err.recQ herr) .., e, hrec.trans (congrArg (· ++ [e]) (congrArg Err.recQ herr)),
    hcls, hst, hdet⟩

theorem fabFull_dropPend (s : State) (req : Req) (b d : Nat) : (s.dropPend req b).fabFull d = s.fabFull d := rfl

theorem submitReason_dropPend (s : State) (req : Req) (b d : Nat) (c : BitVec 256) : (s.dropPend req b).submitReason req d c = s.submitReason req d c := by
  have hctx (q : Nat) : (s.dropPend req b).ctx q = s.ctx q := rfl
  have hjob (e : Nat) : (s.dropPend req b).jobOf e = s.jobOf e := rfl
  have htarget (a : Nat) : (s.dropPend req b).target a = s.target a := rfl
  have hvalid : (s.dropPend req b).canvasValid = s.canvasValid := rfl
  have hwidth : (s.dropPend req b).canvasW = s.canvasW := rfl
  have hheight : (s.dropPend req b).canvasH = s.canvasH := rfl
  simp only [State.submitReason, State.localOk, hctx, hjob, htarget, hvalid, hwidth, hheight] <;> rfl

/-- The three answers to a submission. -/
theorem submissions {i : Instr}
    (h : (i = .fabSubmitPut req d c ∧ op = 1) ∨ (i = .fabSubmitGet req d c ∧ op = 2) ∨ (i = .fabSubmitSignal req d c ∧ op = 3) ∨ (i = .fabSubmitReduce req d c ∧ op = 4)) :
    (s.fabFull d = false → s.submitReason req d (withOp c op) = 0 →
      ∃ t, exec i s = .next t ∧ t.fabQ = s.fabQ ++ [(d, ⟨withOp c op, req⟩)] ∧ cOp (withOp c op) = op ∧ (req, Resp.ack 0) ∈ t.resp ∧
        t.regs = s.regs ∧ t.ctxs = s.ctxs ∧ t.tags = s.tags ∧ t.err = s.err ∧ t.mem = s.mem) ∧
    (s.fabFull d = true →
      ∃ t, exec i s = .next t ∧ t.fabWait = s.fabWait ++ [(d, ⟨withOp c op, req⟩)] ∧ t.fabQ = s.fabQ ∧ t.resp = s.resp ∧ t.regs = s.regs ∧ t.err = s.err) ∧
    (s.fabFull d = false → s.submitReason req d (withOp c op) ≠ 0 →
      ∃ t e, exec i s = .next t ∧ t.fabQ = s.fabQ ∧ (req, Resp.ack 1) ∈ t.resp ∧
        t.fld (dieKey d FAB_SUBMIT_STAT) 10 4 = s.submitReason req d (withOp c op) ∧ s.regsBut t [dieKey d FAB_SUBMIT_STAT] ∧
        t.err.recQ = s.err.recQ ++ [e] ∧ e.cls = 0x54 ∧ e.struck = originCell req ∧
        e.detail = BitVec.ofNat 64 (s.submitReason req d (withOp c op) + cQueue (withOp c op) * 2 ^ 8)) := by
  obtain ⟨hexec, hop⟩ := exec_submit (s := s) h
  have hw : s.within [.pend13] (s.dropPend req (keyBlock (dieKey d FAB_SUBMIT))) := within_dropPend (List.Subset.refl _) (within_refl s)
  have hfull := fabFull_dropPend s req (keyBlock (dieKey d FAB_SUBMIT)) d
  have hreason := submitReason_dropPend s req (keyBlock (dieKey d FAB_SUBMIT)) d (withOp c op)
  generalize s.dropPend req (keyBlock (dieKey d FAB_SUBMIT)) = u at hexec hw hfull hreason
  have hregs : u.regs = s.regs := StartPhases.within_same hw .regs (by decide)
  have herr : u.err = s.err := StartPhases.within_same hw .err (by decide)
  have hq : u.fabQ = s.fabQ := StartPhases.within_same hw .fabQ (by decide)
  refine ⟨fun hf hr => ?_, fun hf => ?_, fun hf hr => ?_⟩
  · rw [submitted (hfull.trans hf) (hreason.trans hr), hq] at hexec
    exact ⟨_, hexec, answer_fabQ .., cOp_withOp c hop, GddrAccesses.mem_answer .., (answer_regs ..).trans hregs,
      (answer_ctxs ..).trans (StartPhases.within_same hw .ctxs (by decide)), (answer_tags ..).trans (StartPhases.within_same hw .tags (by decide)),
      (answer_err ..).trans herr, (answer_mem ..).trans (StartPhases.within_same hw .mem (by decide))⟩
  · have hwait : u.fabWait = s.fabWait := StartPhases.within_same hw .fabWait (by decide)
    rw [submit_full (hfull.trans hf), hwait] at hexec
    exact ⟨_, hexec, rfl, hq, StartPhases.within_same hw .resp (by decide), hregs, herr⟩
  · rw [submit_refused (hfull.trans hf) (fun h => hr (hreason.symm.trans h)), hreason] at hexec
    obtain ⟨hwf, hfld, hbut, -, e, hrec, hcls, hst, hdet⟩ := fab54_keeps (s := u) d (s.submitReason req d (withOp c op)) (cQueue (withOp c op)) (originCell req) submitReason_lt
    generalize u.fab54 d (s.submitReason req d (withOp c op)) (cQueue (withOp c op)) (originCell req) = x at hexec hwf hfld hbut hrec
    have hbut' : s.regsBut x [dieKey d FAB_SUBMIT_STAT] := regsBut_trans (regsBut_of_regs (regsBut_refl s _) hw.1 hregs) hbut
    exact ⟨_, e, hexec, (answer_fabQ ..).trans ((StartPhases.within_same hwf .fabQ (by decide)).trans hq), GddrAccesses.mem_answer ..,
      (fld_of_regs (answer_part ..) (answer_regs ..) ..).trans hfld, regsBut_of_regs hbut' (answer_part ..) (answer_regs ..),
      (congrArg Err.recQ (answer_err ..)).trans (hrec.trans (congrArg (· ++ [e]) (congrArg Err.recQ herr))), hcls, hst, hdet⟩

/-! ### Start (R296, R297) -/

/-- A command that can start waits in its die's queue. -/
theorem mem_of_startable {l : List (Nat × FabCmd)} {seen : List Nat} (h : s.startable d l seen = some fc) : (d, fc) ∈ l := by
  induction l generalizing seen with
  | nil => cases h
  | cons e l ih =>
    obtain ⟨b, g⟩ := e
    unfold State.startable at h
    dsimp only at h
    split at h
    next hc =>
      cases h
      exact hc.1 ▸ List.mem_cons_self
    next => exact List.mem_cons_of_mem _ (ih h)

/-- A command that took its tag slot and left the queue. -/
def begun (s : State) (d n : Nat) (fc : FabCmd) : State :=
  (({ s with fabQ := s.fabQ.eraseP fun e => e.1 == d && e.2.cmd == fc.cmd && decide (e.2.req = fc.req) } : State).setCtx (cQueue fc.cmd)
    { s.ctx (cQueue fc.cmd) with inflight := (s.ctx (cQueue fc.cmd)).inflight + 1 }).setTag d n
    { gen := (s.tag d n).gen, cmd := some fc, start := s.now, pois := false, got := 0 }

theorem within_fabQ (l : List (Nat × FabCmd)) : s.within [.fabQ] { s with fabQ := l } :=
  ⟨rfl, rfl, rfl, id, fun k hk => by
    cases k with
    | fabQ => exact absurd List.mem_cons_self hk
    | _ => rfl⟩

theorem within_begun (d n : Nat) (fc : FabCmd) : s.within [.fabQ, .ctxs, .tags] (begun s d n fc) :=
  within_setTag (by decide) (within_setCtx (by decide) (within_mono (within_fabQ _) (by decide)))

theorem ports_begun (d n : Nat) (fc : FabCmd) : SamePorts s (begun s d n fc) := .of_within (within_begun d n fc) (by decide) (by decide) (by decide)

theorem ctx_begun (d n : Nat) (fc : FabCmd) : (begun s d n fc).ctx (cQueue fc.cmd) =
    { s.ctx (cQueue fc.cmd) with inflight := (s.ctx (cQueue fc.cmd)).inflight + 1 } := (setTag_ctx ..).trans (ctx_setCtx_same ..)

theorem tag_begun (d n : Nat) (fc : FabCmd) : (begun s d n fc).tag d n = { gen := (s.tag d n).gen, cmd := some fc, start := s.now, pois := false, got := 0 } :=
  tag_setTag_same ..

theorem length_begun (h : s.startable d s.fabQ [] = some fc) (n : Nat) : (begun s d n fc).fabQ.length + 1 = s.fabQ.length := by
  have hmem := mem_of_startable h
  have hlen : (begun s d n fc).fabQ.length = s.fabQ.length - 1 := List.length_eraseP_of_mem hmem (by simp)
  have hpos := List.length_pos_of_mem hmem
  omega

theorem fabAdmit_nil (h : s.fabWait.filter (fun e => e.1 == d) = []) : s.fabAdmit d = s := by
  unfold State.fabAdmit
  rw [h]
  rfl

/-- A single piece is the last. -/
theorem zipIdx_single {f : State × Bool → Bool → Nat × Nat → State × Bool} (a : State × Bool) (p : Nat × Nat) :
    [p].zipIdx.foldl (fun a e => f a (e.2 + 1 == [p].length) e.1) a = f a true p := by
  simp only [List.zipIdx_cons, List.zipIdx_nil, List.foldl_cons, List.foldl_nil, List.length_singleton, Nat.zero_add, beq_self_eq_true]

section
variable (hst : s.startable d s.fabQ [] = some fc) (htag : s.freeTag d = some n) (hwait : s.fabWait.filter (fun e => e.1 == d) = [])
include hst htag hwait

theorem exec_start_down (hp : s.pstate d (s.ctx (cQueue fc.cmd)).port ≠ 2) : exec (.fabCommandStart d 0) s = .next ((begun s d n fc).failTag d n 3) := by
  have hadmit : (begun s d n fc).fabAdmit d = begun s d n fc := fabAdmit_nil hwait
  refine next_congr ?_
  unfold State.fabStart
  simp only [show ¬ (0 = 1) by decide, if_false, if_true, hst, htag]
  unfold State.startCmd
  dsimp only
  rw [if_pos hp]
  exact congrArg (fun u => State.failTag u d n 3) hadmit

theorem exec_start_signal (hp : s.pstate d (s.ctx (cQueue fc.cmd)).port = 2) (hop : cOp fc.cmd = 3) :
    exec (.fabCommandStart d 0) s = .next ((begun s d n fc).sendSeq (cQueue fc.cmd) (cFrame fc.cmd 4 n (s.tag d n).gen true 0 0)) := by
  have hadmit : (begun s d n fc).fabAdmit d = begun s d n fc := fabAdmit_nil hwait
  refine next_congr ?_
  unfold State.fabStart
  simp only [show ¬ (0 = 1) by decide, if_false, if_true, hst, htag]
  unfold State.startCmd
  dsimp only
  rw [if_neg (not_not.2 hp), if_pos hop]
  exact congrArg (fun u => State.sendSeq u (cQueue fc.cmd) (cFrame fc.cmd 4 n (s.tag d n).gen true 0 0)) hadmit

theorem exec_start_put {len : Nat} (hp : s.pstate d (s.ctx (cQueue fc.cmd)).port = 2) (hop : cOp fc.cmd = 1)
    (hone : piecesBy (maxPay (s.fld (fabKey d (s.ctx (cQueue fc.cmd)).port FAB_PCFG) 4 2)) (cRemote fc.cmd) (cLen fc.cmd) = [(0, len)]) :
    exec (.fabCommandStart d 0) s = .next (State.sendData (begun s d n fc, true) d (cQueue fc.cmd) n (s.tag d n).gen fc true (0, len)).1 := by
  have hadmit : (begun s d n fc).fabAdmit d = begun s d n fc := fabAdmit_nil hwait
  refine next_congr ?_
  unfold State.fabStart
  simp only [show ¬ (0 = 1) by decide, if_false, if_true, hst, htag]
  unfold State.startCmd
  dsimp only
  rw [if_neg (not_not.2 hp), if_neg (show ¬ cOp fc.cmd = 3 by omega), hone, if_neg (show ¬ cOp fc.cmd = 2 by omega)]
  exact (congrArg Prod.fst (zipIdx_single (f := fun a last p => State.sendData a d (cQueue fc.cmd) n (s.tag d n).gen fc last p) _ (0, len))).trans
    (congrArg (fun u => (State.sendData (u, true) d (cQueue fc.cmd) n (s.tag d n).gen fc true (0, len)).1) hadmit)

end

/-! ### A signal is sent (R297, R289) -/

section
variable {fc : FabCmd} {x : Ctx}

theorem start_signal_ether (hst : s.startable d s.fabQ [] = some fc) (htag : s.freeTag d = some n) (hq : q = cQueue fc.cmd) (hd : ctxDie q = d) (hx : x = s.ctx q)
    (hwait : s.fabWait.filter (fun e => e.1 == d) = []) (hp : s.pstate d x.port = 2) (hop : cOp fc.cmd = 3) (he : s.ethernet d x.port = true) :
    ∃ t g, exec (.fabCommandStart d 0) s = .next t ∧ s.sendsEther t d x.port x.dmac g ∧ g.ftype = 4 ∧ g.seq = x.txSeq ∧ g.tag = n ∧
      g.gen = (s.tag d n).gen ∧ g.rsig = cRsig fc.cmd ∧ g.last = true ∧ g.dstEngine = x.peerEngine ∧ g.dstQueue = x.peerQueue ∧ g.srcQueue = q ∧ g.sig = cSig fc.cmd ∧ g.payload = [] ∧
      (t.tag d n).cmd = some fc ∧ (t.tag d n).start = s.now ∧ (t.ctx q).inflight = x.inflight + 1 ∧ (t.ctx q).txSeq = x.txSeq + 1 ∧
      t.fabQ.length + 1 = s.fabQ.length ∧ t.mem = s.mem ∧ t.regs = s.regs ∧ t.err = s.err := by
  subst hq hx hd
  have hexec := exec_start_signal hst htag hwait hp hop
  have hports := ports_begun (s := s) (ctxDie (cQueue fc.cmd)) n fc
  have hw := within_begun (s := s) (ctxDie (cQueue fc.cmd)) n fc
  have htg := tag_begun (s := s) (ctxDie (cQueue fc.cmd)) n fc
  have hlen := length_begun hst n
  have hctx := ctx_begun (s := s) (ctxDie (cQueue fc.cmd)) n fc
  generalize begun s (ctxDie (cQueue fc.cmd)) n fc = u at hexec hports hw htg hlen hctx
  obtain ⟨hsend, hwt, hin, htx, -⟩ := sendSeq_ether (f := cFrame fc.cmd 4 n (s.tag (ctxDie (cQueue fc.cmd)) n).gen true 0 0) hctx ((hports.pstate ..).trans hp)
    ((hports.ethernet ..).trans he)
  have hsend := sendsEther_of hports hsend
  generalize u.sendSeq (cQueue fc.cmd) (cFrame fc.cmd 4 n (s.tag (ctxDie (cQueue fc.cmd)) n).gen true 0 0) = t at hexec hsend hwt hin htx
  have htags : t.tag (ctxDie (cQueue fc.cmd)) n = u.tag (ctxDie (cQueue fc.cmd)) n := tag_of_tags (StartPhases.within_same hwt .tags (by decide)) ..
  have hfab : t.fabQ = u.fabQ := StartPhases.within_same hwt .fabQ (by decide)
  refine ⟨t, _, hexec, hsend, rfl, rfl, rfl, rfl, rfl, rfl, rfl, rfl, rfl, rfl, rfl, ?_, ?_, hin, htx, ?_,
    (StartPhases.within_same hwt .mem (by decide)).trans (StartPhases.within_same hw .mem (by decide)),
    (StartPhases.within_same hwt .regs (by decide)).trans hports.regs, (StartPhases.within_same hwt .err (by decide)).trans (StartPhases.within_same hw .err (by decide))⟩
  · rw [htags, htg]
  · rw [htags, htg]
  · rw [hfab, hlen]

/-- What the link header of a port shows of it. -/
theorem linkHead_congr {a b : FPort} (hl : a.lack = b.lack) (hq : a.owedReq = b.owedReq) (hr : a.owedRsp = b.owedRsp) (l : Nat) (nak lvc idle : Bool) :
    linkHead a l nak lvc idle = linkHead b l nak lvc idle := by
  unfold linkHead
  rw [hl, hq, hr]

/-- A request frame that a native port takes at once. -/
theorem nativeSend_request {p : Nat} {g : Frame} (hg : respClass g = false) : (s.nativeSend d p g).out =
      .frame d p (nativeBytes (linkHead (s.fport d p) (s.fport d p).lseq false false false) (frameBytes g)) :: s.out ∧
    ((s.nativeSend d p g).fport d p).retry = (s.fport d p).retry ++ [((s.fport d p).lseq, g)] ∧
    ((s.nativeSend d p g).fport d p).crReq = (s.fport d p).crReq - frameUnits g ∧
    ((s.nativeSend d p g).fport d p).lseq = ((s.fport d p).lseq + 1) % 4096 ∧ s.within [.fports, .out] (s.nativeSend d p g) := by
  refine ⟨?_, ?_, ?_, ?_, within_nativeSend (List.Subset.refl _) (within_refl s)⟩
  · unfold State.nativeSend linkSend
    simp only [fport_setFport_same, hg]
    exact congrArg (fun h => Out.frame d p (nativeBytes h (frameBytes g)) :: s.out) (linkHead_congr rfl rfl rfl ..)
  all_goals
    unfold State.nativeSend linkSend
    simp only [emit_fport, fport_setFport_same, hg, Bool.false_eq_true, if_false]

theorem sendFrame_native {p : Nat} {f : Frame} (hp : s.pstate d p = 2) (he : s.ethernet d p = false) (hm : State.mayLeave (s.fport d p) (sealFrame f) = true) (dmac : BitVec 48) :
    s.sendFrame d p dmac f = s.nativeSend d p (sealFrame f) := by
  unfold State.sendFrame
  dsimp only
  rw [if_pos hp, he, if_neg Bool.false_ne_true, if_pos hm]

theorem mayLeave_request {y : FPort} {g : Frame} (hg : respClass g = false) (hh : y.held = []) (hc : frameUnits g ≤ y.crReq)
    (hr : retryBytes y + (frameBytes g).length ≤ 262144) : State.mayLeave y g = true := by
  unfold State.mayLeave
  rw [hh, hg]
  simpa using ⟨hc, hr⟩

/-- In native mode the context keeps no frame: the port does. -/
theorem sendSeq_native {f : Frame} (hx : s.ctx q = x) (he : s.ethernet (ctxDie q) x.port = false) : ∃ y : Ctx, y.unacked = x.unacked ∧ s.sendSeq q f =
    (s.setCtx q y).sendFrame (ctxDie q) x.port x.dmac
      { f with seq := x.txSeq, srcEngine := s.engineId (ctxDie q), dstEngine := x.peerEngine, srcQueue := q, dstQueue := x.peerQueue } := by
  subst hx
  unfold State.sendSeq
  dsimp only
  simp only [he, Bool.false_eq_true, if_false]
  refine ⟨_, ?_, rfl⟩
  rfl

theorem start_signal_native (hst : s.startable d s.fabQ [] = some fc) (htag : s.freeTag d = some n) (hq : q = cQueue fc.cmd) (hd : ctxDie q = d) (hx : x = s.ctx q)
    (hwait : s.fabWait.filter (fun e => e.1 == d) = []) (hp : s.pstate d x.port = 2) (hop : cOp fc.cmd = 3) (he : s.ethernet d x.port = false)
    (hheld : (s.fport d x.port).held = []) (hcr : 1 ≤ (s.fport d x.port).crReq) (hroom : retryBytes (s.fport d x.port) + 36 ≤ 262144) :
    ∃ t g, exec (.fabCommandStart d 0) s = .next t ∧ g.ftype = 4 ∧ g.seq = x.txSeq ∧ g.tag = n ∧ (frameBytes g).length = 36 ∧ frameUnits g = 1 ∧
      t.out = .frame d x.port (nativeBytes (linkHead (s.fport d x.port) (s.fport d x.port).lseq false false false) (frameBytes g)) :: s.out ∧
      (t.fport d x.port).retry = (s.fport d x.port).retry ++ [((s.fport d x.port).lseq, g)] ∧ (t.fport d x.port).crReq = (s.fport d x.port).crReq - 1 ∧
      (t.fport d x.port).lseq = ((s.fport d x.port).lseq + 1) % 4096 ∧ (t.ctx q).unacked = x.unacked ∧ t.regs = s.regs ∧ t.err = s.err := by
  subst hq hx hd
  have hexec := exec_start_signal hst htag hwait hp hop
  have hports := ports_begun (s := s) (ctxDie (cQueue fc.cmd)) n fc
  have hw := within_begun (s := s) (ctxDie (cQueue fc.cmd)) n fc
  have hctx := ctx_begun (s := s) (ctxDie (cQueue fc.cmd)) n fc
  generalize begun s (ctxDie (cQueue fc.cmd)) n fc = u at hexec hports hw hctx
  obtain ⟨y, hy, hseq⟩ := sendSeq_native (f := cFrame fc.cmd 4 n (s.tag (ctxDie (cQueue fc.cmd)) n).gen true 0 0) hctx ((hports.ethernet ..).trans he)
  rw [hseq] at hexec
  have hset : u.within [.ctxs] (u.setCtx (cQueue fc.cmd) y) := within_setCtx (List.Subset.refl _) (within_refl u)
  have hports' := hports.trans (SamePorts.of_within hset (by decide) (by decide) (by decide))
  have hy' : ((u.setCtx (cQueue fc.cmd) y).ctx (cQueue fc.cmd)).unacked = (s.ctx (cQueue fc.cmd)).unacked :=
    (congrArg Ctx.unacked (ctx_setCtx_same ..)).trans hy
  generalize u.setCtx (cQueue fc.cmd) y = v at hexec hset hports' hy'
  dsimp only at hexec
  generalize hf : ({ cFrame fc.cmd 4 n (s.tag (ctxDie (cQueue fc.cmd)) n).gen true 0 0 with
    seq := (s.ctx (cQueue fc.cmd)).txSeq, srcEngine := u.engineId (ctxDie (cQueue fc.cmd)), dstEngine := (s.ctx (cQueue fc.cmd)).peerEngine,
    srcQueue := cQueue fc.cmd, dstQueue := (s.ctx (cQueue fc.cmd)).peerQueue } : Frame) = f at hexec
  have hftype : (sealFrame f).ftype = 4 := by rw [← hf]; rfl
  have hresp : respClass (sealFrame f) = false := by rw [respClass, hftype]; rfl
  have hlen : (frameBytes (sealFrame f)).length = 36 := by
    rw [length_frameBytes _ (by rw [← hf]; rfl)]
    rw [← hf]
    rfl
  have hunits : frameUnits (sealFrame f) = 1 := by
    rw [frameUnits, hlen]
    rfl
  rw [sendFrame_native ((hports'.pstate ..).trans hp) ((hports'.ethernet ..).trans he)
    (mayLeave_request hresp (by rw [hports'.fport]; exact hheld) (by rw [hports'.fport, hunits]; exact hcr) (by rw [hports'.fport, hlen]; exact hroom))] at hexec
  obtain ⟨hout, hretry, hcred, hlseq, hwt⟩ := nativeSend_request (s := v) (d := ctxDie (cQueue fc.cmd)) (p := (s.ctx (cQueue fc.cmd)).port) hresp
  rw [hports'.fport] at hout hretry hcred hlseq
  rw [hports'.out] at hout
  refine ⟨_, sealFrame f, hexec, hftype, by rw [← hf]; rfl, by rw [← hf]; rfl, hlen, hunits, hout, hretry, hunits ▸ hcred, hlseq,
    (congrArg Ctx.unacked (ctx_of_ctxs (StartPhases.within_same hwt .ctxs (by decide)) _)).trans hy',
    (StartPhases.within_same hwt .regs (by decide)).trans hports'.regs, (StartPhases.within_same hwt .err (by decide)).trans ?_⟩
  exact (StartPhases.within_same hset .err (by decide)).trans (StartPhases.within_same hw .err (by decide))

/-! ### A put is sent (R297) -/

theorem poisUnits_nil (len : Nat) : State.poisUnits len [] = [] := by
  unfold State.poisUnits
  exact List.filter_eq_nil_iff.2 fun j _ => by simp

theorem sendData_read {gen len : Nat} {last : Bool} {bs : List Byte} (hr : s.agentRead d (cLocal fc.cmd) len = (t, bs, [], 0)) (hop : cOp fc.cmd = 1) :
    State.sendData (s, true) d q n gen fc last (0, len) =
      (t.sendSeq q { cFrame fc.cmd 1 n gen last (cRemote fc.cmd) len with pois := [], payload := bs }, true) := by
  unfold State.sendData
  rw [if_neg (show ¬ (!(s, true).2) = true from Bool.false_ne_true)]
  dsimp only
  rw [Nat.add_zero, hr]
  dsimp only
  rw [if_neg (by decide), if_pos hop, poisUnits_nil, if_pos (.inl rfl), Nat.add_zero]

theorem start_put {v w : State} {c off len : Nat} (hst : s.startable d s.fabQ [] = some fc) (htag : s.freeTag d = some n) (hq : q = cQueue fc.cmd) (hd : ctxDie q = d)
    (hx : x = s.ctx q) (hwait : s.fabWait.filter (fun e => e.1 == d) = []) (hp : s.pstate d x.port = 2) (he : s.ethernet d x.port = true) (hop : cOp fc.cmd = 1)
    (hlen : len = cLen fc.cmd) (hone : piecesBy (maxPay (s.fld (fabKey d x.port FAB_PCFG) 4 2)) (cRemote fc.cmd) len = [(0, len)])
    (hout : (begun s d n fc).carryOut d (.agent d) (cLocal fc.cmd) len false = (v, 0)) (hga : bits (cLocal fc.cmd) 44 4 = 1) (ht : v.target (cLocal fc.cmd) = .spm c off)
    (hchk : v.spmCheckRun c off len 4 false = none) (hgood : ∀ j, j < len → judge (v.wordAt c (off + j)) (v.chkAt c (off + j)) = .good)
    (hback : (v.meshRead c off len).1.carryBack d (.agent d) (cLocal fc.cmd) len false = (w, 0)) :
    ∃ t g, exec (.fabCommandStart d 0) s = .next t ∧ s.sendsEther t d x.port x.dmac g ∧ g.ftype = 1 ∧ g.seq = x.txSeq ∧ g.tag = n ∧
      g.last = true ∧ g.addr = BitVec.ofNat 48 (cRemote fc.cmd) ∧ g.payload = s.bytes (spmKey c off) len ∧ g.paylen = len ∧ g.pois = [] ∧
      (t.tag d n).cmd = some fc ∧ (t.ctx q).inflight = x.inflight + 1 ∧ t.mem = s.mem ∧ t.regs = w.regs ∧ t.err = w.err := by
  subst hq hx hd hlen
  have hexec := exec_start_put hst htag hwait hp hop hone
  have hports := ports_begun (s := s) (ctxDie (cQueue fc.cmd)) n fc
  have hw := within_begun (s := s) (ctxDie (cQueue fc.cmd)) n fc
  have htg := tag_begun (s := s) (ctxDie (cQueue fc.cmd)) n fc
  have hctx := ctx_begun (s := s) (ctxDie (cQueue fc.cmd)) n fc
  obtain ⟨hread, hwr⟩ := agentRead_spm hga hout ht hchk hgood hback
  rw [sendData_read hread hop] at hexec
  generalize begun s (ctxDie (cQueue fc.cmd)) n fc = u at hexec hports hw htg hctx hout hread hwr
  have hmem : u.mem = s.mem := StartPhases.within_same hw .mem (by decide)
  rw [GddrAccesses.bytes_of_mem hmem] at hexec
  have hports' := hports.trans (SamePorts.of_within hwr (by decide) (by decide) (by decide))
  have hctx' := (ctx_of_ctxs (StartPhases.within_same hwr .ctxs (by decide)) (cQueue fc.cmd)).trans hctx
  have htg' := (tag_of_tags (StartPhases.within_same hwr .tags (by decide)) (ctxDie (cQueue fc.cmd)) n).trans htg
  have hmem' : w.mem = s.mem := (StartPhases.within_same hwr .mem (by decide)).trans hmem
  dsimp only at hexec
  generalize hf : ({ cFrame fc.cmd 1 n (s.tag (ctxDie (cQueue fc.cmd)) n).gen true (cRemote fc.cmd) (cLen fc.cmd) with
    pois := [], payload := s.bytes (spmKey c off) (cLen fc.cmd) } : Frame) = f at hexec
  obtain ⟨hsend, hwt, hin, -, -⟩ := sendSeq_ether (f := f) hctx' ((hports'.pstate ..).trans hp) ((hports'.ethernet ..).trans he)
  have hsend := sendsEther_of hports' hsend
  generalize w.sendSeq (cQueue fc.cmd) f = t at hexec hsend hwt hin
  have htags : t.tag (ctxDie (cQueue fc.cmd)) n = w.tag (ctxDie (cQueue fc.cmd)) n := tag_of_tags (StartPhases.within_same hwt .tags (by decide)) ..
  subst hf
  exact ⟨t, _, hexec, hsend, rfl, rfl, rfl, rfl, rfl, rfl, rfl, rfl, congrArg Tag.cmd (htags.trans htg'), hin,
    (StartPhases.within_same hwt .mem (by decide)).trans hmem', StartPhases.within_same hwt .regs (by decide), StartPhases.within_same hwt .err (by decide)⟩

end

/-! ### Commands that fail (R296, R303) -/

theorem start_down (hst : s.startable d s.fabQ [] = some fc) (htag : s.freeTag d = some n) (hq : q = cQueue fc.cmd)
    (hwait : s.fabWait.filter (fun e => e.1 == d) = []) (hp : s.pstate d (s.ctx q).port ≠ 2) :
    ∃ t e, exec (.fabCommandStart d 0) s = .next t ∧ t.out = s.out ∧ (t.tag d n).cmd = none ∧ (t.ctx q).state = 3 ∧ (t.ctx q).cause = 3 ∧
      t.err.recQ = s.err.recQ ++ [e] ∧ e.cls = 0x56 ∧ e.struck = originCell fc.req ∧ t.mem = s.mem := by
  subst hq
  have hexec := exec_start_down hst htag hwait hp
  have hw := within_begun (s := s) d n fc
  have htg := tag_begun (s := s) d n fc
  generalize begun s d n fc = u at hexec hw htg
  obtain ⟨hwt, hnone, -, hctx, e, hrec, hcls, hst⟩ := failTag_keeps (s := u) (cause := 3) rfl (congrArg Tag.cmd htg)
  have herr : u.err = s.err := StartPhases.within_same hw .err (by decide)
  exact ⟨_, e, hexec, (StartPhases.within_same hwt .out (by decide)).trans (StartPhases.within_same hw .out (by decide)), hnone, by rw [hctx], by rw [hctx],
    by rw [hrec, herr], hcls, hst, (StartPhases.within_same hwt .mem (by decide)).trans (StartPhases.within_same hw .mem (by decide))⟩

theorem timeout_due (hq : q = cQueue fc.cmd) (hc : (s.tag d n).cmd = some fc)
    (hnow : (s.tag d n).start + 1000000 * s.fld (fabKey d (s.ctx q).port FAB_PTIME) 16 16 ≤ s.now) :
    ∃ t e, exec (.commandTimeout d n) s = .next t ∧ (t.tag d n).cmd = none ∧ (t.tag d n).gen = ((s.tag d n).gen + 1) % 16 ∧ (t.ctx q).state = 3 ∧ (t.ctx q).cause = 2 ∧
      (t.ctx q).inflight = (s.ctx q).inflight - 1 ∧ t.err.recQ = s.err.recQ ++ [e] ∧ e.cls = 0x56 ∧ e.struck = originCell fc.req ∧ t.mem = s.mem ∧ t.regs = s.regs := by
  subst hq
  have hexec : exec (.commandTimeout d n) s = .next (s.failTag d n 2) := by
    refine next_congr ?_
    unfold State.cmdTimeout
    rw [hc]
    exact if_pos hnow
  obtain ⟨hwt, hnone, hgen, hctx, e, hrec, hcls, hst⟩ := failTag_keeps (s := s) (cause := 2) rfl hc
  exact ⟨_, e, hexec, hnone, hgen, by rw [hctx], by rw [hctx], by rw [hctx], hrec, hcls, hst, StartPhases.within_same hwt .mem (by decide),
    StartPhases.within_same hwt .regs (by decide)⟩

theorem timeout_early (hq : q = cQueue fc.cmd) (hc : (s.tag d n).cmd = some fc)
    (hnow : s.now < (s.tag d n).start + 1000000 * s.fld (fabKey d (s.ctx q).port FAB_PTIME) 16 16) : exec (.commandTimeout d n) s = .next s := by
  subst hq
  refine next_congr ?_
  unfold State.cmdTimeout
  rw [hc]
  exact if_neg (Nat.not_le.2 hnow)

/-! ### Upsets of the FAB's own state (R310) -/

theorem exec_start_upset : exec (.fabCommandStart d 1) s = .next (s.fabRec 0x5B d 0 0) := by
  refine next_congr ?_
  unfold State.fabStart
  exact if_pos rfl

theorem startable_congr (hp : ∀ p, t.pstate d p = s.pstate d p) (hc : ∀ q, t.ctx q = s.ctx q) (l : List (Nat × FabCmd)) (seen : List Nat) :
    t.startable d l seen = s.startable d l seen := by
  induction l generalizing seen with
  | nil => rfl
  | cons e l ih =>
    obtain ⟨b, g⟩ := e
    unfold State.startable
    simp only [hp, hc, ih]

theorem fabKey_ne {p q a b : Nat} (h : a % 64 ≠ b % 64) : fabKey d p a ≠ fabKey d q b := by
  unfold fabKey dieKey
  omega

theorem start_corrected {p : Nat} (hp : p < 3) (hst : s.startable d s.fabQ [] = none) (hw : s.written (fabKey d p FAB_PRETRY) = false) :
    ∃ t, exec (.fabCommandStart d (2 + p)) s = .next t ∧ t.fld (fabKey d p FAB_PRETRY) 0 16 = min (s.fld (fabKey d p FAB_PRETRY) 0 16 + 1) 0xFFFF ∧
      s.regsBut t [fabKey d p FAB_PRETRY] ∧ t.err = s.err := by
  have hwt : s.within [.regs] (s.incSatUn (fabKey d p FAB_PRETRY) 0 16 1) := within_incSatUn (List.Subset.refl _) (within_refl s)
  have hregs : s.regsBut (s.incSatUn (fabKey d p FAB_PRETRY) 0 16 1) [fabKey d p FAB_PRETRY] :=
    DescriptorQueue.regsBut_incSatUn (regsBut_refl s _) List.mem_cons_self _ _ _
  have hfld := GddrDevices.fld_incSatUn_same (s := s) (k := fabKey d p FAB_PRETRY) (lo := 0) (w := 16) 1 hw (by decide)
  have hmod : (2 + p - 2) % 3 = p := by omega
  have hexec : exec (.fabCommandStart d (2 + p)) s = .next (s.incSatUn (fabKey d p FAB_PRETRY) 0 16 1) := by
    have hstates (r : Nat) : (s.incSatUn (fabKey d p FAB_PRETRY) 0 16 1).pstate d r = s.pstate d r :=
      fld_of_regsBut hregs (by simpa using fabKey_ne (by decide)) ..
    have hnone : (s.incSatUn (fabKey d p FAB_PRETRY) 0 16 1).startable d (s.incSatUn (fabKey d p FAB_PRETRY) 0 16 1).fabQ [] = none := by
      rw [startable_congr hstates (ctx_of_ctxs (StartPhases.within_same hwt .ctxs (by decide)))]
      exact (congrArg (fun l => s.startable d l []) (StartPhases.within_same hwt .fabQ (by decide))).trans hst
    refine next_congr ?_
    unfold State.fabStart
    rw [if_neg (by omega), hmod]
    dsimp only
    rw [if_neg (show ¬ 2 + p = 0 by omega), hnone]
  exact ⟨_, hexec, hfld, hregs, StartPhases.within_same hwt .err (by decide)⟩

/-! ### Contexts (R290-R292) -/

theorem opened {x : Ctx} (hx : x = s.ctx q) (hs : x.state = 1 ∨ x.state = 3) (hp : x.port ≠ 3) (hpe : x.peerEngine ≠ 0xFFFF)
    (hm : s.ethernet (ctxDie q) x.port = false ∨ x.dmac ≠ 0) :
    ∃ t, exec (.contextOpen q) s = .next t ∧ (t.ctx q).state = 2 ∧ (t.ctx q).txSeq = 0 ∧ (t.ctx q).rxSeq = 0 ∧ (t.ctx q).cause = 0 ∧
      (t.ctx q).peerEngine = x.peerEngine ∧ (t.ctx q).winLen = x.winLen ∧ (∀ r, r ≠ q → t.ctx r = s.ctx r) ∧ t.regs = s.regs ∧ t.err = s.err := by
  subst hx
  have hnot : ¬ ((s.ctx q).state = 0 ∨ (s.ctx q).port = 3 ∨ (s.ctx q).peerEngine = 0xFFFF ∨ s.ethernet (ctxDie q) (s.ctx q).port = true ∧ (s.ctx q).dmac = 0) := by
    rintro (h | h | h | ⟨h, h'⟩)
    · omega
    · exact hp h
    · exact hpe h
    · rcases hm with hm | hm
      · rw [hm] at h
        cases h
      · exact hm h'
  have hexec : exec (.contextOpen q) s = .next (s.setCtx q { s.ctx q with state := 2, txSeq := 0, rxSeq := 0, cause := 0, unacked := [], rto := 0, toAck := 0, dropping := false, landedPois := false, landedBad := false }) := by
    refine next_congr ?_
    unfold State.ctxOpen
    dsimp only
    rw [if_neg (show ¬ (s.ctx q).state = 2 by omega), if_neg hnot]
  refine ⟨_, hexec, ?_, ?_, ?_, ?_, ?_, ?_, fun r hr => (ctx_setCtx ..).trans (if_neg hr), setCtx_regs .., setCtx_err ..⟩
  all_goals rw [ctx_setCtx_same]

theorem ignored {i : Instr} (hs : (s.ctx q).state = 0) (hi : i = .contextOpen q ∨ i = .contextClose q) :
    ∃ t, exec i s = .next t ∧ t.ctxs = s.ctxs ∧ t.tags = s.tags ∧ s.logs t 0x54 (.dieUnit (ctxDie q) 0) (8 + q * 2 ^ 8) := by
  have hexec : exec i s = .next (s.fab54 (ctxDie q) 8 q none) := by
    rcases hi with rfl | rfl
    · refine next_congr ?_
      unfold State.ctxOpen
      dsimp only
      rw [if_neg (by omega), if_pos (.inl hs)]
      rfl
    · refine next_congr ?_
      unfold State.ctxClose
      dsimp only
      rw [if_pos hs]
      rfl
  obtain ⟨hw, -, -, hlog, -⟩ := fab54_keeps (s := s) (ctxDie q) 8 q none (by decide)
  exact ⟨_, hexec, StartPhases.within_same hw .ctxs (by decide), StartPhases.within_same hw .tags (by decide), hlog⟩

theorem closed {x : Ctx} (hx : x = s.ctx q) (hs : x.state = 2 ∨ x.state = 3) (ht : s.tagsOf q = []) :
    ∃ t, exec (.contextClose q) s = .next t ∧ t.ctx q = { x with state := 1 } ∧ (∀ r, r ≠ q → t.ctx r = s.ctx r) ∧ t.tags = s.tags ∧ t.regs = s.regs ∧ t.err = s.err := by
  subst hx
  have hfail : s.failCtx q 7 = s := by
    unfold State.failCtx
    rw [ht]
    rfl
  have hexec : exec (.contextClose q) s = .next (s.setCtx q { s.ctx q with state := 1 }) := by
    refine next_congr ?_
    unfold State.ctxClose
    dsimp only
    rw [if_neg (by omega), if_neg (by omega), hfail]
  exact ⟨_, hexec, ctx_setCtx_same .., fun r hr => (ctx_setCtx ..).trans (if_neg hr), setCtx_tags .., setCtx_regs .., setCtx_err ..⟩

/-- Settles O35: a submission is queued, held or refused; the first startable command takes its tag and sends its frames; the rest are its failures and the
contexts' states. -/
theorem fabCommandsAreQueuedAndStarted : Obligations.FabCommandsAreQueuedAndStarted := by
  unfold Obligations.FabCommandsAreQueuedAndStarted
  refine ⟨?_, ?_, ?_, ?_, ?_, ?_⟩
  · intro s req d op c i h
    exact submissions h
  · intro s d n q fc x hst htag hq hd hx hwait hp hop
    exact ⟨start_signal_ether hst htag hq hd hx hwait hp hop, start_signal_native hst htag hq hd hx hwait hp hop⟩
  · intro s s2 v w d n q c off len fc x hst htag hq hd hx hwait hp he hop hlen hone hs2 hout hga ht hchk hgood hback
    have hbegun : s2 = begun s d n fc := by
      rw [hs2, hx, hq]
      rfl
    rw [hbegun] at hout
    exact start_put hst htag hq hd hx hwait hp he hop hlen hone hout hga ht hchk hgood hback
  · intro s d n q fc hq hd
    exact ⟨fun hst htag hwait hp => start_down hst htag hq hwait hp, timeout_due hq, timeout_early hq⟩
  · intro s d p
    exact ⟨⟨_, exec_start_upset, raise_fabQ .., raise_tags .., raise_out .., logs_raise rfl ..⟩, start_corrected⟩
  · intro s q x hx
    exact ⟨opened hx, fun hs i hi => ignored (hx ▸ hs) hi, closed hx⟩

end Sys2Proof.FabricCommands
end

section
/-! PROOFS. Request frames at the receiving engine: puts, gets, signals and reduces (R286, R289, R298, R299, R305). -/

namespace Sys2Proof.FabricRequests

open Sys2Proof Sys2Proof.Machine Sys2Proof.Laws Sys2Proof.Clauses Sys2Proof.FabricFrames
open Sys2Proof.Machine.State (ctxDie frameBad inWin)

variable {s t u v w : State} {d p q : Nat} {f : Frame} {x : Ctx} {link : DWord}

/-! ### A frame reaches its context (R289, R298) -/

theorem linkRx_ether (he : s.ethernet d p = true) (act : State → State) : s.linkRx d p f link act = act s := by
  unfold State.linkRx
  rw [if_pos he]

/-- What counting a frame leaves. -/
theorem countAck_keeps (s : State) (q : Nat) : s.within [.ctxs] (s.countAck q) ∧ ∃ n k, (s.countAck q).ctx q = { s.ctx q with rxSeq := (s.ctx q).rxSeq + 1, toAck := n, firstToAck := k } :=
  ⟨within_setCtx (List.Subset.refl _) (within_refl s), _, _, ctx_setCtx_same ..⟩

theorem inWin_congr {x y : Ctx} (hb : y.winBase = x.winBase) (hl : y.winLen = x.winLen) (f : Frame) : inWin y f = inWin x f := by
  unfold State.inWin
  rw [hb, hl]

/-- A frame that every check of R298 accepts. -/
theorem onRequest_accepts (land : State → State) (hbad : frameBad f = false) (hpeer : s.fromPeer f = true) (hst : (s.ctx f.dstQueue).state = 2)
    (hseq : f.seq = (s.ctx f.dstQueue).rxSeq) (hdrop : (s.ctx f.dstQueue).dropping = false) (hwin : inWin (s.ctx f.dstQueue) f = true)
    (hsig : (s.countAck f.dstQueue).sigBadTarget f = false) : s.onRequest d p f land = land (s.countAck f.dstQueue) := by
  obtain ⟨-, n, k, hctx⟩ := countAck_keeps s f.dstQueue
  have hwin' : inWin ((s.countAck f.dstQueue).ctx f.dstQueue) f = true := by
    rw [hctx]
    exact (inWin_congr rfl rfl f).trans hwin
  have hdrop' : ((s.countAck f.dstQueue).ctx f.dstQueue).dropping = false := by
    rw [hctx]
    exact hdrop
  unfold State.onRequest
  dsimp only
  rw [hbad, hpeer, if_neg (by simp), if_neg (not_not.2 hst), if_neg (not_not.2 hseq), hdrop', if_neg Bool.false_ne_true, hwin', hsig, if_neg (by decide)]

theorem onRequest_outside (land : State → State) (hbad : frameBad f = false) (hpeer : s.fromPeer f = true) (hst : (s.ctx f.dstQueue).state = 2)
    (hseq : f.seq = (s.ctx f.dstQueue).rxSeq) (hdrop : (s.ctx f.dstQueue).dropping = false) (hwin : inWin (s.ctx f.dstQueue) f = false) :
    ∃ y : Ctx, y.port = (s.ctx f.dstQueue).port ∧ y.dmac = (s.ctx f.dstQueue).dmac ∧
      s.onRequest d p f land = ((s.countAck f.dstQueue).setCtx f.dstQueue y).refuseFrame f.dstQueue f := by
  obtain ⟨-, n, k, hctx⟩ := countAck_keeps s f.dstQueue
  have hwin' : inWin ((s.countAck f.dstQueue).ctx f.dstQueue) f = false := by
    rw [hctx]
    exact (inWin_congr rfl rfl f).trans hwin
  have hdrop' : ((s.countAck f.dstQueue).ctx f.dstQueue).dropping = false := by
    rw [hctx]
    exact hdrop
  unfold State.onRequest
  dsimp only
  rw [hbad, hpeer, if_neg (by simp), if_neg (not_not.2 hst), if_neg (not_not.2 hseq), hdrop', if_neg Bool.false_ne_true, hwin', if_pos (by simp)]
  refine ⟨_, ?_, ?_, rfl⟩
  · have h := congrArg Ctx.port hctx
    exact h
  · have h := congrArg Ctx.dmac hctx
    exact h

theorem onRequest_bad (land : State → State) (hbad : frameBad f = true) : s.onRequest d p f land = s.strange d p := by
  unfold State.onRequest
  dsimp only
  rw [if_pos (.inl hbad)]

/-! ### Completions (R300) -/

theorem sendDone_ether (st : Nat) (hport : SamePorts s u) (hx : (u.ctx q).port = x.port) (hm : (u.ctx q).dmac = x.dmac) (hp : s.pstate (ctxDie q) x.port = 2)
    (he : s.ethernet (ctxDie q) x.port = true) : u.within [.out] (u.sendDone q f st) ∧
    ∃ g, s.sendsEther (u.sendDone q f st) (ctxDie q) x.port x.dmac g ∧ g.ftype = 6 ∧ g.status = st ∧ g.tag = f.tag ∧ g.gen = f.gen := by
  unfold State.sendDone State.sendCtx
  dsimp only
  rw [hx, hm]
  obtain ⟨hs, hw⟩ := sends_ether hport hp he x.dmac { cFrame 0 6 f.tag f.gen true 0 0 with
    rsig := false, status := st, sig := 0, srcEngine := u.engineId (ctxDie q), dstEngine := (u.ctx q).peerEngine, srcQueue := q, dstQueue := (u.ctx q).peerQueue }
  exact ⟨hw, _, hs, rfl, rfl, rfl, rfl⟩

/-- The last frame of a command, landed without error. -/
theorem landed_last (hl : f.last = true) (hb : (s.ctx f.dstQueue).landedBad = false) (hp : (s.ctx f.dstQueue).landedPois = false) (hr : f.rsig = false) :
    s.landed f 0 = (s.setCtx f.dstQueue { s.ctx f.dstQueue with landedBad := false, landedPois := false }).sendDone f.dstQueue f 0 := by
  unfold State.landed
  dsimp only
  rw [hl, hb, hp, hr]
  simp

/-- The completion of a command whose last frame landed. -/
theorem landed_completes {y : Ctx} (hports : SamePorts s u) (hy : u.ctx f.dstQueue = y) (hport : y.port = x.port) (hmac : y.dmac = x.dmac) (hl : f.last = true)
    (hb : y.landedBad = false) (hpo : y.landedPois = false) (hr : f.rsig = false) (hp : s.pstate (ctxDie f.dstQueue) x.port = 2)
    (he : s.ethernet (ctxDie f.dstQueue) x.port = true) : u.within [.ctxs, .out] (u.landed f 0) ∧ ((u.landed f 0).ctx f.dstQueue).rxSeq = y.rxSeq ∧
    ∃ g, s.sendsEther (u.landed f 0) (ctxDie f.dstQueue) x.port x.dmac g ∧ g.ftype = 6 ∧ g.status = 0 ∧ g.tag = f.tag ∧ g.gen = f.gen := by
  subst hy
  rw [landed_last hl hb hpo hr]
  have hset : u.within [.ctxs] (u.setCtx f.dstQueue { u.ctx f.dstQueue with landedBad := false, landedPois := false }) :=
    within_setCtx (List.Subset.refl _) (within_refl u)
  have hctx : (u.setCtx f.dstQueue { u.ctx f.dstQueue with landedBad := false, landedPois := false }).ctx f.dstQueue =
    { u.ctx f.dstQueue with landedBad := false, landedPois := false } := ctx_setCtx_same ..
  generalize u.setCtx f.dstQueue { u.ctx f.dstQueue with landedBad := false, landedPois := false } = a at hset hctx
  have hports' := hports.trans (SamePorts.of_within hset (by decide) (by decide) (by decide))
  obtain ⟨hw, g, hg⟩ := sendDone_ether (f := f) (q := f.dstQueue) (x := x) 0 hports' (by rw [hctx]; exact hport) (by rw [hctx]; exact hmac) hp he
  refine ⟨within_trans (within_mono hset (by decide)) (within_mono hw (by decide)), ?_, g, hg⟩
  rw [ctx_of_ctxs (StartPhases.within_same hw .ctxs (by decide)), hctx]

/-! ### Scratchpad runs that the FAB writes (R298) -/

theorem agentWritePart_spm {ga c off : Nat} {data : List Byte} (hout : s.carryOut d (.agent d) ga data.length true = (v, 0)) (ht : v.target ga = .spm c off)
    (hchk : v.spmCheckRun c off data.length 4 false = none) (hwr : v.meshWrite c off data [] none = (u, true))
    (hback : u.carryBack d (.agent d) ga data.length true = (t, 0)) : s.agentWritePart d ga data [] = (t, 0) := by
  unfold State.agentWritePart
  refine carried_arrives (r := 0) hout ?_ hback
  simp only [ht, hchk, hwr, if_true]

/-- One run of whole words: they are stored with fresh check bits. -/
theorem agentWrite_spm {ga c off : Nat} {data : List Byte} (hga : bits ga 44 4 = 1) (ho : off % 8 = 0) (hlen : data.length % 8 = 0)
    (hout : s.carryOut d (.agent d) ga data.length true = (v, 0)) (ht : v.target ga = .spm c off) (hchk : v.spmCheckRun c off data.length 4 false = none)
    (hback : (v.meshWrite c off data [] none).1.carryBack d (.agent d) ga data.length true = (t, 0)) :
    s.agentWrite d ga data [] = (t, 0) ∧ ∃ u, MeshRequests.Landed v u c off data ∧ s.within [.regions, .fates] v ∧ u.within [.regions, .fates] t := by
  obtain ⟨u, hwr, hland⟩ := MeshRequests.landed_meshWrite none ho hlen hchk
  rw [hwr] at hback
  refine ⟨?_, u, hland, carryOut_arrives hout, carryBack_arrives hback⟩
  unfold State.agentWrite
  rw [agentPieces_spm hga, List.foldl_cons, List.foldl_nil]
  simp only [Nat.add_zero, List.filterMap_nil, List.drop_zero, List.take_length, agentWritePart_spm hout ht hchk hwr hback]
  rfl

/-- What a landed run leaves of the state it was sent in. -/
structure Written (s t : State) (c off : Nat) (data : List Byte) : Prop where
  byte : ∀ j, j < data.length → some (t.byte (spmKey c (off + j))) = data[j]?
  other : ∀ k, (∀ j, j < data.length → k ≠ spmKey c (off + j) ∧ k ≠ spmChkKey c (off + j)) → t.byte k = s.byte k
  reach : s.within [.mem, .cells, .regions, .fates] t
  cells : s.cellsBut t c
  cell : t.cell c = { s.cell c with scrub := (t.cell c).scrub }

theorem written_of_landed {c off : Nat} {data : List Byte} (hout : s.within [.regions, .fates] v) (hl : MeshRequests.Landed v u c off data)
    (hback : u.within [.regions, .fates] t) : Written s t c off data where
  byte j hj := by rw [GddrAccesses.byte_of_mem (StartPhases.within_same hback .mem (by decide))]; exact hl.byte j hj
  other k hk := by
    rw [GddrAccesses.byte_of_mem (StartPhases.within_same hback .mem (by decide)), hl.other k hk, GddrAccesses.byte_of_mem (StartPhases.within_same hout .mem (by decide))]
  reach := within_trans (within_mono hout (by decide)) (within_trans (within_mono hl.reach (by decide)) (within_mono hback (by decide)))
  cells e he := by
    rw [DescriptorQueue.cell_of_cells (StartPhases.within_same hback .cells (by decide)), hl.cells e he,
      DescriptorQueue.cell_of_cells (StartPhases.within_same hout .cells (by decide))]
  cell := by
    rw [DescriptorQueue.cell_of_cells (StartPhases.within_same hback .cells (by decide)), hl.cell,
      DescriptorQueue.cell_of_cells (StartPhases.within_same hout .cells (by decide))]

/-! ### A put (R298) -/

section
variable {e c off ga n : Nat}

/-- What the accepted frame's state shares with the state it came to. -/
theorem ports_countAck (s : State) (q : Nat) : SamePorts s (s.countAck q) := .of_within (countAck_keeps s q).1 (by decide) (by decide) (by decide)

theorem sigBadTarget_plain (hr : f.rsig = false) : s.sigBadTarget f = false := by
  unfold State.sigBadTarget
  rw [hr]
  rfl

theorem put_lands (hx : x = s.ctx f.dstQueue) (he : e = ctxDie f.dstQueue) (hd : s.ethernet d p = true) (hep : s.ethernet e x.port = true) (hst : x.state = 2)
    (hdrop : x.dropping = false) (hb : x.landedBad = false) (hpo : x.landedPois = false) (hseq : f.seq = x.rxSeq) (hl : f.last = true) (hpeer : s.fromPeer f = true)
    (hr : f.rsig = false) (hpois : f.pois = []) (hps : s.pstate e x.port = 2) (hwin : inWin x { f with ftype := 1 } = true) (hga : ga = f.addr.toNat)
    (hsp : bits ga 44 4 = 1) (ht : v.target ga = .spm c off) (hbad : frameBad { f with ftype := 1 } = false) (ho : off % 8 = 0) (hn : n = f.payload.length)
    (hlen : n % 8 = 0) (hout : (s.countAck f.dstQueue).carryOut e (.agent e) ga n true = (v, 0)) (hchk : v.spmCheckRun c off n 4 false = none)
    (hback : (v.meshWrite c off f.payload [] none).1.carryBack e (.agent e) ga n true = (w, 0)) :
    ∃ t g, exec (.putFrameReceive d p f link) s = .next t ∧ (∀ j, j < n → some (t.byte (spmKey c (off + j))) = f.payload[j]?) ∧
      (∀ k, (∀ j, j < n → k ≠ spmKey c (off + j) ∧ k ≠ spmChkKey c (off + j)) → t.byte k = s.byte k) ∧
      s.sendsEther t e x.port x.dmac g ∧ g.ftype = 6 ∧ g.status = 0 ∧ g.tag = f.tag ∧ g.gen = f.gen ∧
      (t.ctx f.dstQueue).rxSeq = x.rxSeq + 1 ∧ t.regs = w.regs ∧ t.err = w.err ∧ t.cell c = { s.cell c with scrub := (t.cell c).scrub } ∧ s.cellsBut t c := by
  subst hx he hga hn
  have hexec : exec (.putFrameReceive d p f link) s = .next ((s.countAck f.dstQueue).landPut { f with ftype := 1 }) := by
    refine next_congr ?_
    rw [linkRx_ether hd, onRequest_accepts _ hbad hpeer hst hseq hdrop hwin (sigBadTarget_plain hr)]
  obtain ⟨hwc, m, k, hctx⟩ := countAck_keeps s f.dstQueue
  have hports := ports_countAck s f.dstQueue
  obtain ⟨hwrite, u, hland, hw1, hw2⟩ := agentWrite_spm hsp ho hlen hout ht hchk hback
  have hwritten := written_of_landed hw1 hland hw2
  generalize s.countAck f.dstQueue = a at hexec hwc hctx hports hwrite hwritten
  have hctxw : w.ctx f.dstQueue = { s.ctx f.dstQueue with rxSeq := (s.ctx f.dstQueue).rxSeq + 1, toAck := m, firstToAck := k } :=
    (ctx_of_ctxs (StartPhases.within_same hwritten.reach .ctxs (by decide)) _).trans hctx
  have hput : a.landPut { f with ftype := 1 } = w.landed { f with ftype := 1 } 0 := by
    unfold State.landPut
    simp only [hpois, State.unitWords, List.flatMap_nil, hwrite]
    rfl
  rw [hput] at hexec
  have hportsw := hports.trans (SamePorts.of_within hwritten.reach (by decide) (by decide) (by decide))
  obtain ⟨hwt, hrx, g, hsend, hg⟩ := landed_completes (f := { f with ftype := 1 }) hportsw hctxw rfl rfl hl hb hpo hr hps hep
  generalize w.landed { f with ftype := 1 } 0 = t at hexec hwt hrx hsend
  have hmem : t.mem = w.mem := StartPhases.within_same hwt .mem (by decide)
  have hmema : a.mem = s.mem := StartPhases.within_same hwc .mem (by decide)
  have hcells : t.cells = w.cells := StartPhases.within_same hwt .cells (by decide)
  have hcellsa : a.cells = s.cells := StartPhases.within_same hwc .cells (by decide)
  refine ⟨t, g, hexec, fun j hj => ?_, fun k hk => ?_, hsend, hg.1, hg.2.1, hg.2.2.1, hg.2.2.2, hrx, StartPhases.within_same hwt .regs (by decide),
    StartPhases.within_same hwt .err (by decide), ?_, fun e he => ?_⟩
  · rw [GddrAccesses.byte_of_mem hmem]
    exact hwritten.byte j hj
  · rw [GddrAccesses.byte_of_mem hmem, hwritten.other k hk, GddrAccesses.byte_of_mem hmema]
  · rw [DescriptorQueue.cell_of_cells hcells, hwritten.cell, DescriptorQueue.cell_of_cells hcellsa]
  · rw [DescriptorQueue.cell_of_cells hcells, hwritten.cells e he, DescriptorQueue.cell_of_cells hcellsa]

/-! ### A get (R299) -/

theorem get_answers (hx : x = s.ctx f.dstQueue) (he : e = ctxDie f.dstQueue) (hd : s.ethernet d p = true) (hep : s.ethernet e x.port = true) (hst : x.state = 2)
    (hdrop : x.dropping = false) (hseq : f.seq = x.rxSeq) (hpeer : s.fromPeer f = true)
    (hr : f.rsig = false) (hps : s.pstate e x.port = 2) (hwin : inWin x { f with ftype := 1 } = true) (hga : ga = f.addr.toNat)
    (hsp : bits ga 44 4 = 1) (ht : v.target ga = .spm c off) (hbad : frameBad { f with ftype := 2 } = false) (hn : n = f.paylen)
    (hout : (s.countAck f.dstQueue).carryOut e (.agent e) ga n false = (v, 0)) (hchk : v.spmCheckRun c off n 4 false = none)
    (hgood : ∀ j, j < n → judge (v.wordAt c (off + j)) (v.chkAt c (off + j)) = .good)
    (hback : (v.meshRead c off n).1.carryBack e (.agent e) ga n false = (w, 0)) :
    ∃ t g, exec (.getRequestReceive d p f link) s = .next t ∧ s.sendsEther t e x.port x.dmac g ∧ g.ftype = 3 ∧ g.status = 0 ∧
      g.tag = f.tag ∧ g.gen = f.gen ∧ g.payload = s.bytes (spmKey c off) n ∧ g.pois = [] ∧ t.mem = s.mem ∧ t.regs = w.regs ∧ t.err = w.err ∧ t.cells = s.cells := by
  subst hx he hga hn
  have hexec : exec (.getRequestReceive d p f link) s = .next ((s.countAck f.dstQueue).landGet { f with ftype := 2 }) := by
    refine next_congr ?_
    rw [linkRx_ether hd, onRequest_accepts _ hbad hpeer hst hseq hdrop hwin (sigBadTarget_plain hr)]
  obtain ⟨hwc, m, k, hctx⟩ := countAck_keeps s f.dstQueue
  have hports := ports_countAck s f.dstQueue
  obtain ⟨hread, hwr⟩ := agentRead_spm hsp hout ht hchk hgood hback
  generalize s.countAck f.dstQueue = a at hexec hwc hctx hports hread hwr
  have hmema : a.mem = s.mem := StartPhases.within_same hwc .mem (by decide)
  have hctxw : w.ctx f.dstQueue = { s.ctx f.dstQueue with rxSeq := (s.ctx f.dstQueue).rxSeq + 1, toAck := m, firstToAck := k } :=
    (ctx_of_ctxs (StartPhases.within_same hwr .ctxs (by decide)) _).trans hctx
  rw [GddrAccesses.bytes_of_mem hmema] at hread
  have hget : a.landGet { f with ftype := 2 } = w.sendCtx f.dstQueue { cFrame 0 3 f.tag f.gen f.last 0 f.paylen with
      rsig := false, sig := 0, status := 0, pois := [], payload := s.bytes (spmKey c off) f.paylen } := by
    unfold State.landGet
    simp only [hread, FabricCommands.poisUnits_nil, if_false, show ¬ (0 = 1) by decide]
  rw [hget] at hexec
  have hportsw := hports.trans (SamePorts.of_within hwr (by decide) (by decide) (by decide))
  unfold State.sendCtx at hexec
  dsimp only at hexec
  rw [hctxw] at hexec
  obtain ⟨hsend, hwt⟩ := sends_ether hportsw hps hep (s.ctx f.dstQueue).dmac { cFrame 0 3 f.tag f.gen f.last 0 f.paylen with
    rsig := false, sig := 0, status := 0, pois := [], payload := s.bytes (spmKey c off) f.paylen,
    srcEngine := w.engineId (ctxDie f.dstQueue), dstEngine := (s.ctx f.dstQueue).peerEngine, srcQueue := f.dstQueue, dstQueue := (s.ctx f.dstQueue).peerQueue }
  refine ⟨_, _, hexec, hsend, rfl, rfl, rfl, rfl, rfl, rfl, ?_, StartPhases.within_same hwt .regs (by decide), StartPhases.within_same hwt .err (by decide), ?_⟩
  · exact (StartPhases.within_same hwt .mem (by decide)).trans ((StartPhases.within_same hwr .mem (by decide)).trans hmema)
  · exact (StartPhases.within_same hwt .cells (by decide)).trans ((StartPhases.within_same hwr .cells (by decide)).trans (StartPhases.within_same hwc .cells (by decide)))

/-! ### A signal (R299, R203) -/

theorem landed_signals {k : Pkt} (hl : f.last = true) (hb : (s.ctx f.dstQueue).landedBad = false) (hp : (s.ctx f.dstQueue).landedPois = false) (hr : f.rsig = true)
    (hu : u = s.setCtx f.dstQueue { s.ctx f.dstQueue with landedBad := false, landedPois := false })
    (hk : k = { Pkt.blank 5 (.agent (ctxDie f.dstQueue)) (.agent (ctxDie f.dstQueue)) with
      x := bits f.sig.toNat 16 8, y := bits f.sig.toNat 24 7, ctr := bits f.sig.toNat 0 6, epoch := bits f.sig.toNat 6 2, inc := bits f.sig.toNat 8 8 })
    (hc : u.physicalOf k.x k.y = some c) (hv : u.carry (ctxDie f.dstQueue) k (.cell k.x k.y) = (v, 0)) (hh : v.isHole c = false) :
    s.landed f 0 = (v.applySignal c 0 ⟨k.ctr, k.epoch, k.inc, none, true⟩).sendDone f.dstQueue f 0 := by
  have hsig : u.agentSignal (ctxDie f.dstQueue) (.agent (ctxDie f.dstQueue)) (bits f.sig.toNat 16 8) (bits f.sig.toNat 24 7) (bits f.sig.toNat 0 6) (bits f.sig.toNat 6 2)
      (bits f.sig.toNat 8 8) = v.applySignal c 0 ⟨k.ctr, k.epoch, k.inc, none, true⟩ := by
    have hc' : u.physicalOf (bits f.sig.toNat 16 8) (bits f.sig.toNat 24 7) = some c := by rw [hk] at hc; exact hc
    have hv' : u.carry (ctxDie f.dstQueue) k (.cell (bits f.sig.toNat 16 8) (bits f.sig.toNat 24 7)) = (v, 0) := by
      rw [show bits f.sig.toNat 16 8 = k.x by rw [hk], show bits f.sig.toNat 24 7 = k.y by rw [hk]]
      exact hv
    unfold State.agentSignal
    dsimp only
    rw [← hk, hc', hv']
    change v.landSignal c k = _
    unfold State.landSignal
    rw [if_neg (by rw [hh]; exact Bool.false_ne_true), hk]
    rfl
  unfold State.landed
  dsimp only
  rw [hl, hb, hp, hr, ← hu]
  rw [hsig]
  simp

theorem sigBadTarget_congr (hp : ∀ x y, t.physicalOf x y = s.physicalOf x y) (hh : ∀ c, t.isHole c = s.isHole c) (f : Frame) : t.sigBadTarget f = s.sigBadTarget f := by
  unfold State.sigBadTarget
  simp only [hp, hh]

theorem sigBadTarget_countAck (s : State) (q : Nat) (f : Frame) : (s.countAck q).sigBadTarget f = s.sigBadTarget f :=
  sigBadTarget_congr (fun _ _ => rfl) (fun _ => rfl) f

theorem inWin_signal (h : f.ftype = 4) : inWin x f = true := by
  unfold State.inWin
  rw [h]
  rfl

theorem signal_lands {k : Pkt} (hx : x = s.ctx f.dstQueue) (he : e = ctxDie f.dstQueue) (hd : s.ethernet d p = true) (hep : s.ethernet e x.port = true)
    (hst : x.state = 2) (hdrop : x.dropping = false) (hb : x.landedBad = false) (hpo : x.landedPois = false) (hseq : f.seq = x.rxSeq) (hl : f.last = true)
    (hpeer : s.fromPeer f = true) (hr : f.rsig = true) (hps : s.pstate e x.port = 2) (htg : s.sigBadTarget f = false) (hbad : frameBad { f with ftype := 4 } = false)
    (hu : u = (s.countAck f.dstQueue).setCtx f.dstQueue { (s.countAck f.dstQueue).ctx f.dstQueue with landedBad := false, landedPois := false })
    (hk : k = { Pkt.blank 5 (.agent e) (.agent e) with
      x := bits f.sig.toNat 16 8, y := bits f.sig.toNat 24 7, ctr := bits f.sig.toNat 0 6, epoch := bits f.sig.toNat 6 2, inc := bits f.sig.toNat 8 8 })
    (hc : u.physicalOf k.x k.y = some c) (hv : u.carry e k (.cell k.x k.y) = (v, 0)) (hh : v.isHole c = false) :
    ∃ t g, exec (.signalFrameReceive d p f link) s = .next t ∧
      t.cell c = { s.cell c with sigs := (s.cell c).sigs ++ [((s.cell c).rcyc, ⟨k.ctr, k.epoch, k.inc, none, true⟩)] } ∧ s.cellsBut t c ∧
      s.sendsEther t e x.port x.dmac g ∧ g.ftype = 6 ∧ g.status = 0 ∧ g.tag = f.tag ∧
      (t.ctx f.dstQueue).rxSeq = x.rxSeq + 1 ∧ t.mem = s.mem ∧ t.net = s.net := by
  subst hx he
  have hexec : exec (.signalFrameReceive d p f link) s = .next ((s.countAck f.dstQueue).landed { f with ftype := 4 } 0) := by
    refine next_congr ?_
    rw [linkRx_ether hd, onRequest_accepts (f := { f with ftype := 4 }) _ hbad hpeer hst hseq hdrop (inWin_signal rfl) ((sigBadTarget_countAck ..).trans htg)]
  obtain ⟨hwc, m, l, hctx⟩ := countAck_keeps s f.dstQueue
  have hports := ports_countAck s f.dstQueue
  generalize s.countAck f.dstQueue = a at hexec hwc hctx hports hu
  have hland := landed_signals (f := { f with ftype := 4 }) hl (by rw [hctx]; exact hb) (by rw [hctx]; exact hpo) hr hu hk hc hv hh
  rw [hland] at hexec
  have hwu : a.within [.ctxs] u := hu ▸ within_setCtx (List.Subset.refl _) (within_refl a)
  have hctxu : u.ctx f.dstQueue = { s.ctx f.dstQueue with rxSeq := (s.ctx f.dstQueue).rxSeq + 1, toAck := m, firstToAck := l, landedBad := false, landedPois := false } := by
    rw [hu, ctx_setCtx_same, hctx]
  have hwv := carry_arrives hv
  have hcell (q : Nat) : v.cell q = s.cell q := by
    rw [DescriptorQueue.cell_of_cells (StartPhases.within_same hwv .cells (by decide)), DescriptorQueue.cell_of_cells (StartPhases.within_same hwu .cells (by decide)),
      DescriptorQueue.cell_of_cells (StartPhases.within_same hwc .cells (by decide))]
  have hmem : v.mem = s.mem := (StartPhases.within_same hwv .mem (by decide)).trans ((StartPhases.within_same hwu .mem (by decide)).trans (StartPhases.within_same hwc .mem (by decide)))
  have hnet : v.net = s.net := (StartPhases.within_same hwv .net (by decide)).trans ((StartPhases.within_same hwu .net (by decide)).trans (StartPhases.within_same hwc .net (by decide)))
  have hctxv := (ctx_of_ctxs (StartPhases.within_same hwv .ctxs (by decide)) f.dstQueue).trans hctxu
  have hportsv := (hports.trans (SamePorts.of_within hwu (by decide) (by decide) (by decide))).trans (SamePorts.of_within hwv (by decide) (by decide) (by decide))
  have hsigs := MeshRequests.applySignal_cell (s := v) (c := c) 0 ⟨k.ctr, k.epoch, k.inc, none, true⟩
  have hothers (q : Nat) (hq : q ≠ c) : (v.applySignal c 0 ⟨k.ctr, k.epoch, k.inc, none, true⟩).cell q = v.cell q := (cell_setCell ..).trans (if_neg hq)
  have hwy : v.within [.cells] (v.applySignal c 0 ⟨k.ctr, k.epoch, k.inc, none, true⟩) := within_setCell (List.Subset.refl _) (within_refl v)
  generalize v.applySignal c 0 ⟨k.ctr, k.epoch, k.inc, none, true⟩ = y at hexec hsigs hothers hwy
  have hctxy := (ctx_of_ctxs (StartPhases.within_same hwy .ctxs (by decide)) f.dstQueue).trans hctxv
  obtain ⟨hwt, g, hsend, hft, hstat, htag, -⟩ := sendDone_ether (f := { f with ftype := 4 }) (x := s.ctx f.dstQueue) (q := f.dstQueue) 0
    (hportsv.trans (SamePorts.of_within hwy (by decide) (by decide) (by decide))) (by rw [hctxy]) (by rw [hctxy]) hps hep
  refine ⟨_, g, hexec, ?_, fun q hq => ?_, hsend, hft, hstat, htag, ?_, ?_, ?_⟩
  · rw [DescriptorQueue.cell_of_cells (StartPhases.within_same hwt .cells (by decide)), hsigs, hcell]
    rfl
  · rw [DescriptorQueue.cell_of_cells (StartPhases.within_same hwt .cells (by decide)), hothers q hq, hcell]
  · rw [ctx_of_ctxs (StartPhases.within_same hwt .ctxs (by decide)), hctxy]
  · exact (StartPhases.within_same hwt .mem (by decide)).trans ((StartPhases.within_same hwy .mem (by decide)).trans hmem)
  · exact (StartPhases.within_same hwt .net (by decide)).trans ((StartPhases.within_same hwy .net (by decide)).trans hnet)

/-! ### Frames that do not act (R287, R289, R298) -/

theorem put_outside (hx : x = s.ctx f.dstQueue) (he : e = ctxDie f.dstQueue) (hd : s.ethernet d p = true) (hep : s.ethernet e x.port = true) (hst : x.state = 2)
    (hdrop : x.dropping = false) (hseq : f.seq = x.rxSeq) (hpeer : s.fromPeer f = true) (hps : s.pstate e x.port = 2)
    (hbad : frameBad { f with ftype := 1 } = false) (hwin : inWin x { f with ftype := 1 } = false) :
    ∃ t g, exec (.putFrameReceive d p f link) s = .next t ∧ t.mem = s.mem ∧ s.sendsEther t e x.port x.dmac g ∧ g.ftype = 6 ∧
      g.status = 1 ∧ g.tag = f.tag ∧ s.logs t 0x57 (.dieUnit e x.port) 0 := by
  subst hx he
  obtain ⟨y, hport, hmac, hreq⟩ := onRequest_outside (d := d) (p := p) (f := { f with ftype := 1 }) (fun t => t.landPut { f with ftype := 1 }) hbad hpeer hst hseq hdrop hwin
  have hexec : exec (.putFrameReceive d p f link) s = .next (((s.countAck f.dstQueue).setCtx f.dstQueue y).refuseFrame f.dstQueue { f with ftype := 1 }) := by
    refine next_congr ?_
    rw [linkRx_ether hd, hreq]
  have hw : s.within [.ctxs] ((s.countAck f.dstQueue).setCtx f.dstQueue y) := within_setCtx (List.Subset.refl _) (countAck_keeps s f.dstQueue).1
  have hctx : ((s.countAck f.dstQueue).setCtx f.dstQueue y).ctx f.dstQueue = y := ctx_setCtx_same ..
  generalize (s.countAck f.dstQueue).setCtx f.dstQueue y = a at hexec hw hctx
  have hports : SamePorts s a := .of_within hw (by decide) (by decide) (by decide)
  obtain ⟨hwt, g, hsend, hft, hstat, htag, -⟩ := sendDone_ether (f := { f with ftype := 1 }) (x := s.ctx f.dstQueue) (q := f.dstQueue) 1 hports
    (by rw [hctx]; exact hport) (by rw [hctx]; exact hmac) hps hep
  have herr : (a.sendDone f.dstQueue { f with ftype := 1 } 1).err = s.err := (StartPhases.within_same hwt .err (by decide)).trans (StartPhases.within_same hw .err (by decide))
  have hmem : (a.sendDone f.dstQueue { f with ftype := 1 } 1).mem = s.mem := (StartPhases.within_same hwt .mem (by decide)).trans (StartPhases.within_same hw .mem (by decide))
  unfold State.refuseFrame State.fabRec at hexec
  rw [hctx, hport] at hexec
  exact ⟨_, g, hexec, (raise_mem ..).trans hmem, sendsEther_out hsend (raise_out ..), hft, hstat, htag, logs_raise (congrArg Err.recQ herr) ..⟩

theorem strange_keeps (hw : s.written (fabKey d p FAB_PDROP) = false) : (s.strange d p).fld (fabKey d p FAB_PDROP) 0 16 = min (s.fld (fabKey d p FAB_PDROP) 0 16 + 1) 0xFFFF ∧
    s.regsBut (s.strange d p) [fabKey d p FAB_PDROP] ∧ s.within [.regs, .err] (s.strange d p) := by
  have hfld := GddrDevices.fld_incSatUn_same (s := s) (k := fabKey d p FAB_PDROP) (lo := 0) (w := 16) 1 hw (by decide)
  have hregs : s.regsBut (s.incSatUn (fabKey d p FAB_PDROP) 0 16 1) [fabKey d p FAB_PDROP] :=
    DescriptorQueue.regsBut_incSatUn (regsBut_refl s _) List.mem_cons_self _ _ _
  refine ⟨?_, regsBut_of_regs hregs (raiseLim_part ..) (raiseLim_regs ..), within_strange (List.Subset.refl _) (within_refl s)⟩
  unfold State.strange
  exact (fld_of_regs (raiseLim_part ..) (raiseLim_regs ..) ..).trans hfld

theorem malformed {k : BadFrame} (hw : s.written (fabKey d p FAB_PDROP) = false) (hk : k ≠ .linkCrc ∨ s.ethernet d p = true) :
    ∃ t, exec (.malformedFrameReceive d p k) s = .next t ∧ t.fld (fabKey d p FAB_PDROP) 0 16 = min (s.fld (fabKey d p FAB_PDROP) 0 16 + 1) 0xFFFF ∧
      (k = .pause → t.err = s.err) ∧ s.regsBut t [fabKey d p FAB_PDROP] ∧ t.mem = s.mem ∧ t.ctxs = s.ctxs ∧ t.out = s.out := by
  obtain ⟨hfld, hregs, hws⟩ := strange_keeps hw
  have hmem : (s.strange d p).mem = s.mem := StartPhases.within_same hws .mem (by decide)
  have hctxs : (s.strange d p).ctxs = s.ctxs := StartPhases.within_same hws .ctxs (by decide)
  have hout : (s.strange d p).out = s.out := StartPhases.within_same hws .out (by decide)
  have hstrange (hne : k ≠ .pause) (h : exec (.malformedFrameReceive d p k) s = .next (s.strange d p)) :
      ∃ t, exec (.malformedFrameReceive d p k) s = .next t ∧ t.fld (fabKey d p FAB_PDROP) 0 16 = min (s.fld (fabKey d p FAB_PDROP) 0 16 + 1) 0xFFFF ∧
        (k = .pause → t.err = s.err) ∧ s.regsBut t [fabKey d p FAB_PDROP] ∧ t.mem = s.mem ∧ t.ctxs = s.ctxs ∧ t.out = s.out :=
    ⟨_, h, hfld, fun hp => absurd hp hne, hregs, hmem, hctxs, hout⟩
  cases k with
  | linkCrc =>
    refine hstrange (by decide) (next_congr ?_)
    unfold State.linkBad
    exact if_pos (hk.resolve_left fun h => h rfl)
  | pause =>
    have hi : s.within [.regs] (s.incSatUn (fabKey d p FAB_PDROP) 0 16 1) := within_incSatUn (List.Subset.refl _) (within_refl s)
    exact ⟨_, next_congr rfl, GddrDevices.fld_incSatUn_same 1 hw (by decide), fun _ => StartPhases.within_same hi .err (by decide),
      DescriptorQueue.regsBut_incSatUn (regsBut_refl s _) List.mem_cons_self _ _ _, StartPhases.within_same hi .mem (by decide),
      StartPhases.within_same hi .ctxs (by decide), StartPhases.within_same hi .out (by decide)⟩
  | tooLong => exact hstrange (by decide) (next_congr rfl)
  | stranger => exact hstrange (by decide) (next_congr rfl)

theorem linkSend_keeps (d p l : Nat) (nak lvc idle : Bool) (body : List Byte) : s.within [.fports, .out] (s.linkSend d p l nak lvc idle body) ∧
    (s.linkSend d p l nak lvc idle body).out = .frame d p (nativeBytes (linkHead (s.fport d p) l nak lvc idle) body) :: s.out ∧
    (s.linkSend d p l nak lvc idle body).fport d p = { s.fport d p with
      owedReq := (s.fport d p).owedReq - min (s.fport d p).owedReq 0xFFFF, owedRsp := (s.fport d p).owedRsp - min (s.fport d p).owedRsp 0xFFFF, due := false } :=
  ⟨within_linkSend (List.Subset.refl _) (within_refl s), rfl, (emit_fport ..).trans (fport_setFport_same ..)⟩

theorem linkCrc_refused {y : FPort} (he : s.ethernet d p = false) (hy : y = s.fport d p) :
    ∃ t, exec (.malformedFrameReceive d p .linkCrc) s = .next t ∧ t.out = .frame d p (nativeBytes (linkHead y y.lseq true false true) []) :: s.out ∧
      (t.fport d p).lack = y.lack ∧ (t.fport d p).lseq = y.lseq ∧ t.mem = s.mem ∧ t.regs = s.regs ∧ t.ctxs = s.ctxs := by
  subst hy
  have hexec : exec (.malformedFrameReceive d p .linkCrc) s = .next (s.linkSend d p (s.fport d p).lseq true false true []) := by
    refine next_congr ?_
    unfold State.linkBad
    rw [he, if_neg Bool.false_ne_true]
  obtain ⟨hw, hout, hport⟩ := linkSend_keeps (s := s) d p (s.fport d p).lseq true false true []
  exact ⟨_, hexec, hout, by rw [hport], by rw [hport], StartPhases.within_same hw .mem (by decide), StartPhases.within_same hw .regs (by decide),
    StartPhases.within_same hw .ctxs (by decide)⟩

/-! ### Native link headers (R289) -/

theorem flushHeld_nil (h : (s.fport d p).held = []) : s.within [.fports] (s.flushHeld d p) ∧ (s.flushHeld d p).fport d p = s.fport d p := by
  have heq : s.flushHeld d p = s.setFport d p { s.fport d p with held := [] } := by
    unfold State.flushHeld
    rw [h]
    rfl
  rw [heq]
  refine ⟨within_setFport (List.Subset.refl _) (within_refl s), (fport_setFport_same ..).trans ?_⟩
  rw [← h]

/-- The frames of the retry buffer that a LACK does not acknowledge. -/
def kept (y : FPort) (link : DWord) : List (Nat × Frame) :=
  match y.retry.findIdx? fun e => e.1 == bits link.toNat 12 12 with | some i => y.retry.drop (i + 1) | none => y.retry

/-- With no frame waiting a link header acknowledges and brings its credits. -/
theorem linkHeader_keeps (link : DWord) (h : (s.fport d p).held = []) : s.within [.fports] (s.linkHeader d p link) ∧
    (s.linkHeader d p link).fport d p = { s.fport d p with
      retry := kept (s.fport d p) link, crReq := (s.fport d p).crReq + bits link.toNat 32 16, crRsp := (s.fport d p).crRsp + bits link.toNat 48 16 } := by
  have heq : s.linkHeader d p link = (s.setFport d p { s.fport d p with
      retry := kept (s.fport d p) link, crReq := (s.fport d p).crReq + bits link.toNat 32 16, crRsp := (s.fport d p).crRsp + bits link.toNat 48 16 }).flushHeld d p := rfl
  have hset : s.within [.fports] (s.setFport d p { s.fport d p with
      retry := kept (s.fport d p) link, crReq := (s.fport d p).crReq + bits link.toNat 32 16, crRsp := (s.fport d p).crRsp + bits link.toNat 48 16 }) :=
    within_setFport (List.Subset.refl _) (within_refl s)
  have hport := fport_setFport_same s d p { s.fport d p with
      retry := kept (s.fport d p) link, crReq := (s.fport d p).crReq + bits link.toNat 32 16, crRsp := (s.fport d p).crRsp + bits link.toNat 48 16 }
  rw [heq]
  generalize s.setFport d p { s.fport d p with
      retry := kept (s.fport d p) link, crReq := (s.fport d p).crReq + bits link.toNat 32 16, crRsp := (s.fport d p).crRsp + bits link.toNat 48 16 } = a at hset hport
  obtain ⟨hw, hf⟩ := flushHeld_nil (s := a) (d := d) (p := p) (by rw [hport]; exact h)
  exact ⟨within_trans hset hw, hf.trans hport⟩

theorem linkRx_native (he : s.ethernet d p = false) (hnak : bit link.toNat 24 = false) (act : State → State) : s.linkRx d p f link act =
    if bits link.toNat 0 12 ≠ (((s.linkHeader d p link).fport d p).lack + 1) % 4096 then s.linkHeader d p link
    else act ((s.linkHeader d p link).setFport d p { (s.linkHeader d p link).fport d p with
      lack := (((s.linkHeader d p link).fport d p).lack + 1) % 4096, due := true,
      owedReq := if respClass f then ((s.linkHeader d p link).fport d p).owedReq else ((s.linkHeader d p link).fport d p).owedReq + frameUnits f,
      owedRsp := if respClass f then ((s.linkHeader d p link).fport d p).owedRsp + frameUnits f else ((s.linkHeader d p link).fport d p).owedRsp }) := by
  unfold State.linkRx
  rw [he, if_neg Bool.false_ne_true, hnak, if_neg Bool.false_ne_true]

theorem native_frame {y : FPort} (he : s.ethernet d p = false) (hy : y = s.fport d p) (hnak : bit link.toNat 24 = false) (hh : y.held = [])
    (hbad : frameBad { f with ftype := 1 } = true) :
    ∃ t, exec (.putFrameReceive d p f link) s = .next t ∧ (t.fport d p).crReq = y.crReq + bits link.toNat 32 16 ∧ (t.fport d p).crRsp = y.crRsp + bits link.toNat 48 16 ∧
      (bits link.toNat 0 12 = (y.lack + 1) % 4096 → (t.fport d p).lack = (y.lack + 1) % 4096 ∧ (t.fport d p).due = true ∧
        (t.fport d p).owedReq = y.owedReq + frameUnits { f with ftype := 1 } ∧ (t.fport d p).owedRsp = y.owedRsp) ∧
      (bits link.toNat 0 12 ≠ (y.lack + 1) % 4096 → (t.fport d p).lack = y.lack ∧ (t.fport d p).owedReq = y.owedReq ∧ t.regs = s.regs ∧ t.err = s.err) ∧
      t.mem = s.mem ∧ t.ctxs = s.ctxs := by
  subst hy
  obtain ⟨hw, hport⟩ := linkHeader_keeps link hh
  have hresp : respClass { f with ftype := 1 } = false := rfl
  have hexec : exec (.putFrameReceive d p f link) s = .next (s.linkRx d p { f with ftype := 1 } link fun s => s.onRequest d p { f with ftype := 1 } fun t => t.landPut { f with ftype := 1 }) :=
    next_congr rfl
  rw [linkRx_native he hnak, hresp, onRequest_bad _ hbad] at hexec
  generalize s.linkHeader d p link = a at hw hport hexec
  rw [hport] at hexec
  dsimp only at hexec
  by_cases hseq : bits link.toNat 0 12 ≠ ((s.fport d p).lack + 1) % 4096
  · rw [if_pos hseq] at hexec
    exact ⟨a, hexec, by rw [hport], by rw [hport], fun h => absurd h hseq, fun _ => ⟨by rw [hport], by rw [hport], StartPhases.within_same hw .regs (by decide),
      StartPhases.within_same hw .err (by decide)⟩, StartPhases.within_same hw .mem (by decide), StartPhases.within_same hw .ctxs (by decide)⟩
  · rw [if_neg hseq] at hexec
    simp only [Bool.false_eq_true, if_false] at hexec
    generalize hz : ({ s.fport d p with
      lack := ((s.fport d p).lack + 1) % 4096, due := true, owedReq := (s.fport d p).owedReq + frameUnits { f with ftype := 1 },
      retry := kept (s.fport d p) link, crReq := (s.fport d p).crReq + bits link.toNat 32 16, crRsp := (s.fport d p).crRsp + bits link.toNat 48 16 } : FPort) = z at hexec
    have hset : a.within [.fports] (a.setFport d p z) := within_setFport (List.Subset.refl _) (within_refl a)
    have hports : (a.setFport d p z).fport d p = z := fport_setFport_same ..
    generalize a.setFport d p z = b at hexec hset hports
    have hws : b.within [.regs, .err] (b.strange d p) := within_strange (List.Subset.refl _) (within_refl b)
    have hportt : (b.strange d p).fport d p = z := by
      unfold State.fport
      rw [show (b.strange d p).fports = b.fports from StartPhases.within_same hws .fports (by decide)]
      exact hports
    have hmem : (b.strange d p).mem = s.mem := (StartPhases.within_same hws .mem (by decide)).trans ((StartPhases.within_same hset .mem (by decide)).trans (StartPhases.within_same hw .mem (by decide)))
    have hctxs : (b.strange d p).ctxs = s.ctxs := (StartPhases.within_same hws .ctxs (by decide)).trans ((StartPhases.within_same hset .ctxs (by decide)).trans (StartPhases.within_same hw .ctxs (by decide)))
    refine ⟨_, hexec, by rw [hportt, ← hz], by rw [hportt, ← hz], fun _ => ⟨by rw [hportt, ← hz], by rw [hportt, ← hz], by rw [hportt, ← hz], by rw [hportt, ← hz]⟩,
      fun h => absurd h hseq, hmem, hctxs⟩

end

/-! ### FP32 sums (R305) -/

theorem fpRound_le (f : IeeeFmt) (rm : Nat) (neg : Bool) (m : Nat) (e : Int) (sticky : Bool) : (fpRound f rm neg m e sticky).v ≤ f.sign + f.inf := by
  unfold fpRound
  dsimp only
  have hs : (if neg = true then f.sign else 0) ≤ f.sign := by split <;> omega
  generalize (if neg = true then f.sign else 0) = sg at hs ⊢
  split
  · dsimp only; omega
  · split
    · dsimp only
      split <;> omega
    · dsimp only; omega

theorem fpAddV_le (f : IeeeFmt) (rm : Nat) (hq : f.qnan ≤ f.sign + f.inf) (a b : FpVal) : (fpAddV f rm a b).v ≤ f.sign + f.inf := by
  have hinf (c : Bool) : (if c = true then f.sign else 0) + f.inf ≤ f.sign + f.inf := by split <;> omega
  unfold fpAddV
  split
  · exact hq
  · exact hq
  · split
    · exact hinf _
    · exact hq
  · exact hinf _
  · exact hinf _
  · dsimp only
    split
    · dsimp only
      split <;> omega
    · exact fpRound_le ..

theorem sum32_lt (a b : Nat) : State.sum32 a b < 2 ^ 32 := (fpAddV_le fp32 0 (by decide) ..).trans_lt (by decide)

/-- One piece of a run made of pieces of four bytes. -/
theorem piece_flatMap {g : Nat → List Byte} (hg : ∀ i, (g i).length = 4) (k : Nat) : ((List.range k).flatMap g).length = 4 * k ∧
    ∀ j, j < k → (((List.range k).flatMap g).drop (4 * j)).take 4 = g j := by
  induction k with
  | zero => exact ⟨rfl, fun j hj => absurd hj (Nat.not_lt_zero j)⟩
  | succ k ih =>
    obtain ⟨hlen, hpiece⟩ := ih
    rw [List.range_succ, List.flatMap_append, List.flatMap_cons, List.flatMap_nil, List.append_nil]
    refine ⟨by rw [List.length_append, hlen, hg]; omega, fun j hj => ?_⟩
    rcases Nat.lt_or_eq_of_le (Nat.le_of_lt_succ hj) with hj | rfl
    · rw [List.drop_append_of_le_length (by omega), List.take_append_of_le_length (by rw [List.length_drop]; omega), hpiece j hj]
    · rw [List.drop_left' hlen, List.take_of_length_le (by rw [hg])]

/-- The FP32 sums of two units. -/
def sums (a b : List Byte) : List Byte :=
  (List.range 8).flatMap fun j => toLe 4 (State.sum32 (ofLe ((a.drop (4 * j)).take 4)) (ofLe ((b.drop (4 * j)).take 4)))

theorem sumUnit_sums {a b : List Byte} (ha : a.length = 32) (hb : b.length = 32) : State.sumUnit 0 a b = some (sums a b) := by
  unfold State.sumUnit State.elemsOf sums
  rw [if_pos rfl, ha, hb, List.zip_map', List.flatMap_map]

theorem length_sums (a b : List Byte) : (sums a b).length = 32 := (piece_flatMap (fun _ => StartPhases.length_toLe ..) 8).1

theorem sums_piece (a b : List Byte) {j : Nat} (hj : j < 8) :
    ofLe (((sums a b).drop (4 * j)).take 4) = State.sum32 (ofLe ((a.drop (4 * j)).take 4)) (ofLe ((b.drop (4 * j)).take 4)) := by
  rw [sums, (piece_flatMap (fun _ => StartPhases.length_toLe ..) 8).2 j hj, Scratchpad.ofLe_toLe]
  exact Nat.mod_eq_of_lt ((sum32_lt ..).trans_eq (by norm_num))

/-! ### Half-blocks as the FAB of their die reaches them (R265, R298) -/

/-- A half-block of the tier. -/
structure Placed (s : State) (g : GLoc) (a : Nat) : Prop where
  space : bits a 44 4 = 0
  low : a < 2 ^ 44
  align : a % 32 = 0
  legal : s.gddrReason a 32 = 0
  loc : s.locate a = some g

/-- A half-block that a request carried at once reads and writes without waiting. -/
structure Ready (s : State) (g : GLoc) (a : Nat) : Prop extends Placed s g a where
  served : s.devState g.d g.n ≠ 6
  trained : s.retraining g.d g.n g.ch = false
  free : (s.mc g.d g.n).waits = []
  fates : s.fates = []
  tag : s.tagBad g a = false

variable {g : GLoc} {a : Nat}

theorem bits_low (h : a < 2 ^ 44) : bits a 0 44 = a := by
  unfold bits
  rw [pow_zero, Nat.div_one, Nat.mod_eq_of_lt h]

theorem addr_lt_of_legal (h : s.gddrReason a 32 = 0) : a < s.gddrCap := by
  unfold State.gddrReason at h
  split at h
  · cases h
  · split at h
    · cases h
    · omega

theorem Placed.target (h : Placed s g a) : s.target a = .gddr a := by
  have hcap : a < s.fld (ecKey BOOT_GDDR_CAP) 0 44 := addr_lt_of_legal h.legal
  unfold State.target
  dsimp only
  rw [if_pos h.space, bits_low h.low, if_pos hcap]

theorem Placed.dest (h : Placed s g a) : s.dest a 32 = .agent g.d := by
  unfold State.dest
  rw [h.target]
  dsimp only
  rw [if_neg (not_not.2 h.legal), h.loc]

theorem Placed.carryOut (h : Placed s g a) (req : Req) (write : Bool) : s.carryOut g.d req a 32 write = (s, 0) := by
  unfold State.carryOut
  rw [h.dest]
  unfold State.carry
  exact if_pos rfl

theorem Placed.carryBack (h : Placed s g a) (req : Req) (write : Bool) : s.carryBack g.d req a 32 write = (s, 0) := by
  unfold State.carryBack
  rw [h.dest]
  unfold State.carry
  exact if_pos rfl

theorem liveDevs_of_within (hw : s.within [.mem, .ctxs] t) : t.liveDevs = s.liveDevs :=
  GddrDevices.liveDevs_of_regsBut (regsBut_of_regs (regsBut_refl s []) hw.1 (StartPhases.within_same hw .regs (by decide))) (by simp)

theorem Placed.of_within (h : Placed s g a) (hw : s.within [.mem, .ctxs] t) : Placed t g a := by
  have hcap : t.gddrCap = s.gddrCap := fld_of_regs hw.1 (StartPhases.within_same hw .regs (by decide)) ..
  refine ⟨h.space, h.low, h.align, ?_, (GddrDevices.locate_of_liveDevs (liveDevs_of_within hw) a).trans h.loc⟩
  have hlegal := h.legal
  unfold State.gddrReason at hlegal ⊢
  rw [liveDevs_of_within hw, hcap]
  exact hlegal

theorem Ready.of_within (h : Ready s g a) (hw : s.within [.ctxs] t) : Ready t g a := by
  have hmcs : t.mcs = s.mcs := StartPhases.within_same hw .mcs (by decide)
  have hfld (k lo w : Nat) : t.fld k lo w = s.fld k lo w := fld_of_regs hw.1 (StartPhases.within_same hw .regs (by decide)) ..
  refine ⟨h.toPlaced.of_within (within_mono hw (by decide)), fun he => h.served ((hfld ..).symm.trans he), ?_,
    (congrArg Mc.waits (GddrAccesses.mc_of_mcs hmcs ..)).trans h.free, (StartPhases.within_same hw .fates (by decide)).trans h.fates,
    (GddrDevices.tagBad_of_mem (StartPhases.within_same hw .mem (by decide)) ..).trans h.tag⟩
  have htrained := h.trained
  unfold State.retraining at htrained ⊢
  rw [hfld]
  exact htrained

theorem agentPieces_unit (hsp : bits a 44 4 = 0) (h32 : a % 32 = 0) : State.agentPieces a 32 = [(0, 32)] := by
  unfold State.agentPieces piecesBy
  rw [if_pos hsp]
  have hmin : min 32 (960 - a % 960) = 32 := by omega
  rw [hmin]
  rfl

theorem Ready.admitted (h : Ready s g a) : s.admitNow g a = s := GddrAccesses.admitNow_free h.free h.trained h.fates

/-- A good half-block is read as it stands. -/
theorem Ready.read (h : Ready s g a) (hj : gddrJudge (s.half a) (s.halfChk a) = .good) : s.agentRead g.d a 32 = (s, s.bytes a 32, [], 0) := by
  have hread : s.readHalves g a 32 = (s, s.bytes a 32, []) :=
    GddrHalves.readHalves_good h.tag fun k hk => by
      rw [GddrAccesses.halvesOf_one h.align, List.mem_singleton] at hk
      exact hk ▸ hj
  have hnow : s.gddrReadNow (.agent g.d) a 32 = (s, s.bytes a 32, [], 0) := by
    unfold State.gddrReadNow
    simp only [h.legal, h.loc, h.admitted, State.gddrFetch, if_neg h.served, hread, ne_eq, not_true_eq_false, if_false, if_true]
  have hpart : s.agentReadPart g.d a 32 = (s, s.bytes a 32, [], 0) := by
    unfold State.agentReadPart
    refine carried_arrives (r := (s.bytes a 32, [], 0)) (h.carryOut ..) ?_ (h.carryBack ..)
    rw [h.target]
    exact hnow
  unfold State.agentRead
  rw [agentPieces_unit h.space h.align, List.foldl_cons, List.foldl_nil]
  simp only [Nat.add_zero, hpart, List.nil_append, List.map_nil]
  rfl

/-- A whole half-block is written with a fresh check field. -/
theorem Ready.write (h : Ready s g a) {data : List Byte} (hlen : data.length = 32) : s.agentWrite g.d a data [] = (s.writeHalf a (ofLe data), 0) := by
  have hone : halvesOf a data.length = [a] := by rw [hlen, GddrAccesses.halvesOf_one h.align]
  have hpart : s.writePart g (.agent g.d) a data [] a = (s.writeHalf a (ofLe data), true) := by
    unfold State.writePart
    dsimp only
    rw [if_neg (by simp), if_pos (GddrAccesses.coveredHalf_whole hlen), GddrAccesses.mergeHalf_eq 0 hlen]
  have hstore := GddrAccesses.store_one h.served hone (.inr (GddrAccesses.coveredHalf_whole hlen)) hpart
  have hnow : s.gddrWriteNow (.agent g.d) a data [] = (s.writeHalf a (ofLe data), 0) := by
    unfold State.gddrWriteNow
    simp only [hlen, h.legal, h.loc, h.admitted, hstore, ne_eq, not_true_eq_false, if_false, if_true]
  have hwrote : s.within [.mem] (s.writeHalf a (ofLe data)) := GddrAccesses.within_putHalf ..
  have hplaced := h.toPlaced.of_within (within_mono hwrote (by decide))
  have hpart' : s.agentWritePart g.d a data [] = (s.writeHalf a (ofLe data), 0) := by
    unfold State.agentWritePart
    rw [hlen]
    refine carried_arrives (r := 0) (h.carryOut ..) ?_ (hplaced.carryBack ..)
    rw [h.target]
    exact hnow
  unfold State.agentWrite
  rw [hlen, agentPieces_unit h.space h.align, List.foldl_cons, List.foldl_nil]
  have htake : data.take 32 = data := List.take_of_length_le (by omega)
  simp only [Nat.add_zero, List.filterMap_nil, List.drop_zero, htake, hpart']
  rfl

/-! ### A reduce (R305) -/

section
variable {e : Nat}

/-- The unit read, summed and written. -/
theorem Ready.landReduce (h : Ready s g a) (hg : g.d = ctxDie f.dstQueue) (ha : a = f.addr.toNat) (hj : gddrJudge (s.half a) (s.halfChk a) = .good)
    (hpois : f.pois = []) (hfmt : f.rfmt = 0) (hpay : f.paylen = 32) (hlen : f.payload.length = 32) :
    s.landReduce f = (s.writeHalf a (ofLe (sums (s.bytes a 32) f.payload))).landed f 0 := by
  have hunit : State.reduceUnit (s, 0) f 0 = (s.writeHalf a (ofLe (sums (s.bytes a 32) f.payload)), 0) := by
    have hread := h.read hj
    have hwrite := h.write (data := sums (s.bytes a 32) f.payload) (length_sums ..)
    have hsum := sumUnit_sums (MeshRuns.length_bytes s a 32) hlen
    have htake : f.payload.take 32 = f.payload := List.take_of_length_le (by omega)
    rw [hg] at hread hwrite
    unfold State.reduceUnit
    simp only [← ha, Nat.mul_zero, Nat.add_zero, hread, hpois, List.contains_nil, hfmt, List.drop_zero, htake, hsum, hwrite, Bool.false_eq_true, false_or,
      show ¬ (0 = 1) by decide, show ¬ (0 = 2) by decide, if_false, or_false]
    rfl
  unfold State.landReduce
  rw [hpay]
  simp only [show 32 / 32 = 1 by decide, List.range_one, List.foldl_cons, List.foldl_nil, hunit]

theorem payload_of_good (h : frameBad f = false) (hf : f.ftype ≠ 2) : f.paylen % 32 = 0 ∧ f.payload.length = f.paylen := by
  unfold State.frameBad at h
  simp only [Bool.or_eq_false_iff] at h
  obtain ⟨⟨⟨⟨⟨-, hmod⟩, -⟩, -⟩, hlen⟩, -⟩ := h
  rw [if_neg hf] at hlen
  exact ⟨bne_eq_false_iff_eq.1 hmod, bne_eq_false_iff_eq.1 hlen⟩

theorem reduce_lands {x : Ctx} (hx : x = s.ctx f.dstQueue) (he : e = ctxDie f.dstQueue) (hd : s.ethernet d p = true) (hep : s.ethernet e x.port = true)
    (hst : x.state = 2) (hdrop : x.dropping = false) (hb : x.landedBad = false) (hpo : x.landedPois = false) (hseq : f.seq = x.rxSeq) (hl : f.last = true)
    (hpeer : s.fromPeer f = true) (hr : f.rsig = false) (hpois : f.pois = []) (hps : s.pstate e x.port = 2) (hwin : inWin x { f with ftype := 5 } = true)
    (ha : a = f.addr.toNat) (hready : Ready s g a) (hge : g.d = e) (hj : gddrJudge (s.half a) (s.halfChk a) = .good)
    (hbad : frameBad { f with ftype := 5 } = false) (hfmt : f.rfmt = 0) (hpay : f.paylen = 32) :
    ∃ t y, exec (.reduceFrameReceive d p f link) s = .next t ∧
      (∀ j, j < 8 → ofLe (t.bytes (a + 4 * j) 4) = State.sum32 (ofLe (s.bytes (a + 4 * j) 4)) (ofLe ((f.payload.drop (4 * j)).take 4))) ∧
      t.halfChk a = gddrCheck (t.half a) ∧ (∀ k, (k < a ∨ a + 32 ≤ k) → k ≠ gddrChkKey a → k ≠ gddrChkKey a + 1 → t.byte k = s.byte k) ∧
      s.sendsEther t e x.port x.dmac y ∧ y.ftype = 6 ∧ y.status = 0 ∧ t.regs = s.regs ∧ t.err = s.err := by
  subst hx he
  have hlen : f.payload.length = 32 := (payload_of_good hbad (show (5 : Nat) ≠ 2 by decide)).2.trans hpay
  have hexec : exec (.reduceFrameReceive d p f link) s = .next ((s.countAck f.dstQueue).landReduce { f with ftype := 5 }) := by
    refine next_congr ?_
    rw [linkRx_ether hd, onRequest_accepts (f := { f with ftype := 5 }) _ hbad hpeer hst hseq hdrop hwin (sigBadTarget_plain hr)]
  obtain ⟨hwc, m, k, hctx⟩ := countAck_keeps s f.dstQueue
  have hports := ports_countAck s f.dstQueue
  generalize s.countAck f.dstQueue = b at hexec hwc hctx hports
  have hmem : b.mem = s.mem := StartPhases.within_same hwc .mem (by decide)
  have hready' := hready.of_within hwc
  rw [hready'.landReduce (f := { f with ftype := 5 }) hge ha (by rw [GddrAccesses.half_of_mem hmem, GddrAccesses.halfChk_of_mem hmem]; exact hj) hpois hfmt hpay hlen,
    GddrAccesses.bytes_of_mem hmem] at hexec
  have hwrote : b.within [.mem] (b.writeHalf a (ofLe (sums (s.bytes a 32) f.payload))) := GddrAccesses.within_putHalf ..
  have hchk := GddrAccesses.halfChk_writeHalf b a (ofLe (sums (s.bytes a 32) f.payload))
  have hbytes := GddrHalves.bytes_putHalf (s := b) hready.low (ofLe (sums (s.bytes a 32) f.payload)) (gddrCheck (ofLe (sums (s.bytes a 32) f.payload)))
  have hother := GddrAccesses.otherBytes_putHalf (s := b) (t := b.writeHalf a (ofLe (sums (s.bytes a 32) f.payload))) hready.align rfl
  have hle := GddrHalves.toLe_ofLe (sums (s.bytes a 32) f.payload)
  rw [length_sums] at hle
  have hal : a / 32 * 32 = a := by have := hready.align; omega
  rw [hle, hal] at hbytes
  have hhalf : (b.writeHalf a (ofLe (sums (s.bytes a 32) f.payload))).half a = ofLe (sums (s.bytes a 32) f.payload) := by
    rw [State.half, hal]
    exact congrArg ofLe hbytes
  have hbytes' : (b.writeHalf a (ofLe (sums (s.bytes a 32) f.payload))).bytes a 32 = sums (s.bytes a 32) f.payload := hbytes
  have hctxw := (ctx_of_ctxs (StartPhases.within_same hwrote .ctxs (by decide)) f.dstQueue).trans hctx
  generalize b.writeHalf a (ofLe (sums (s.bytes a 32) f.payload)) = w at hexec hwrote hchk hother hhalf hbytes' hctxw
  obtain ⟨hwt, -, y, hsend, hft, hstat, -⟩ := landed_completes (f := { f with ftype := 5 }) (hports.trans (SamePorts.of_within hwrote (by decide) (by decide) (by decide)))
    hctxw rfl rfl hl hb hpo hr hps hep
  generalize w.landed { f with ftype := 5 } 0 = t at hexec hwt hsend
  have hmemt : t.mem = w.mem := StartPhases.within_same hwt .mem (by decide)
  refine ⟨t, y, hexec, fun j hj => ?_, ?_, fun k hk h0 h1 => ?_, hsend, hft, hstat, ?_, ?_⟩
  · rw [GddrAccesses.bytes_of_mem hmemt, ← MeshRuns.bytes_drop_take w a (4 * j) (n := 4) (m := 32) (by omega), hbytes', sums_piece _ _ hj,
      MeshRuns.bytes_drop_take s a (4 * j) (by omega)]
  · rw [GddrAccesses.halfChk_of_mem hmemt, GddrAccesses.half_of_mem hmemt, hchk, hhalf]
  · rw [GddrAccesses.byte_of_mem hmemt, hother k hk h0 h1, GddrAccesses.byte_of_mem hmem]
  · exact (StartPhases.within_same hwt .regs (by decide)).trans ((StartPhases.within_same hwrote .regs (by decide)).trans (StartPhases.within_same hwc .regs (by decide)))
  · exact (StartPhases.within_same hwt .err (by decide)).trans ((StartPhases.within_same hwrote .err (by decide)).trans (StartPhases.within_same hwc .err (by decide)))

end

/-- Settles O36: a frame that every check accepts lands and draws its completion or answer; the others are refused, counted or dropped. -/
theorem fabRequestFramesAct : Obligations.FabRequestFramesAct := by
  unfold Obligations.FabRequestFramesAct
  refine ⟨?_, ?_, ?_, ?_, ?_, ?_, ?_⟩
  · intro s v w d p e c off ga n link f x hx he hd hep hst hdrop hb hpo hseq hl hpeer hr hpois hps hwin hga hsp ht
    refine ⟨fun hbad ho hn hout hchk hback => ?_, fun hbad hn hout hchk hgood hback => ?_⟩
    · obtain ⟨hmod, hlen⟩ := payload_of_good hbad (show (1 : Nat) ≠ 2 by decide)
      have hlen' : f.payload.length = f.paylen := hlen
      have hmod' : f.paylen % 32 = 0 := hmod
      exact put_lands hx he hd hep hst hdrop hb hpo hseq hl hpeer hr hpois hps hwin hga hsp ht hbad ho hn (by omega) hout hchk hback
    · exact get_answers hx he hd hep hst hdrop hseq hpeer hr hps hwin hga hsp ht hbad hn hout hchk hgood hback
  · intro s d p e a link f x g hx he hd hep hst hdrop hb hpo hseq hl hpeer hr hpois hps hwin ha hsp h32 hlegal hloc hge hserved htrained hfree hfates htag hj hbad hfmt hpay
    have hlow : a < 2 ^ 44 := by
      have := f.addr.isLt
      have hsp' : a / 2 ^ 44 % 2 ^ 4 = 0 := hsp
      norm_num at hsp' this ⊢
      omega
    exact reduce_lands hx he hd hep hst hdrop hb hpo hseq hl hpeer hr hpois hps hwin ha ⟨⟨hsp, hlow, h32, hlegal, hloc⟩, hserved, htrained, hfree, hfates, htag⟩ hge hj
      hbad hfmt hpay
  · intro s u v d p e c link f x k hx he hd hep hst hdrop hb hpo hseq hl hpeer hr hps htg hbad hu hk hc hv hh
    exact signal_lands hx he hd hep hst hdrop hb hpo hseq hl hpeer hr hps htg hbad hu hk hc hv hh
  · intro s d p e link f x hx he hd hep hst hdrop hseq hpeer hps hbad hwin
    exact put_outside hx he hd hep hst hdrop hseq hpeer hps hbad hwin
  · intro s d p k hw hk
    exact malformed hw hk
  · intro s d p y he hy
    exact linkCrc_refused he hy
  · intro s d p link f y he hy hnak hh hbad
    exact native_frame he hy hnak hh hbad

end Sys2Proof.FabricRequests
end

section
/-! PROOFS. Responses, acknowledgements, resends and fault notices of the fabric (R289, R300-R304). -/

namespace Sys2Proof.FabricResponses

open Sys2Proof Sys2Proof.Machine Sys2Proof.Laws Sys2Proof.Clauses Sys2Proof.FabricFrames Sys2Proof.FabricRequests
open Sys2Proof.Machine.State (ctxDie frameBad)

variable {s t u v w : State} {d p q e n : Nat} {f : Frame} {x : Ctx} {link : DWord} {fc : FabCmd}

/-! ### Responses (R300, R301) -/

theorem onResponse_accepts {act : State → FabCmd → State} (hbad : frameBad f = false) (hpeer : s.fromPeer f = true)
    (hc : (s.tag (ctxDie f.dstQueue) f.tag).cmd = some fc) (hg : (s.tag (ctxDie f.dstQueue) f.tag).gen = f.gen) (hq : cQueue fc.cmd = f.dstQueue) :
    s.onResponse d p f act = act s fc := by
  have hcur : s.current (ctxDie f.dstQueue) f = some fc := by
    unfold State.current
    rw [if_pos hg, hc]
  unfold State.onResponse
  rw [hbad, hpeer, if_neg (by simp), hcur]
  exact if_pos hq

theorem onResponse_stale {act : State → FabCmd → State} (hbad : frameBad f = false) (hpeer : s.fromPeer f = true)
    (hg : (s.tag (ctxDie f.dstQueue) f.tag).gen ≠ f.gen) : s.onResponse d p f act = s.staleFrame d p := by
  have hcur : s.current (ctxDie f.dstQueue) f = none := by
    unfold State.current
    rw [if_neg hg]
  unfold State.onResponse
  rw [hbad, hpeer, if_neg (by simp), hcur]

theorem completeTag_plain (hs : cCsig fc.cmd = false) : s.completeTag d n fc = s.releaseTag d n (cQueue fc.cmd) := by
  unfold State.completeTag
  rw [hs]
  exact if_neg Bool.false_ne_true

theorem getData_last (hst : f.status = 0) (hpois : f.pois = []) (hgot : (s.tag (ctxDie f.dstQueue) f.tag).got = 0)
    (hw : s.agentWrite (ctxDie f.dstQueue) (cLocal fc.cmd) f.payload [] = (w, 0)) (hlen : cLen fc.cmd = f.paylen) (hcs : cCsig fc.cmd = false) (hcq : cQueue fc.cmd = f.dstQueue) :
    s.getData f fc =
      (w.setTag (ctxDie f.dstQueue) f.tag { s.tag (ctxDie f.dstQueue) f.tag with got := f.paylen }).releaseTag (ctxDie f.dstQueue) f.tag f.dstQueue := by
  unfold State.getData
  dsimp only
  rw [if_neg (show ¬ f.status = 1 by omega), hgot, hpois, Nat.add_zero, Nat.zero_add]
  rw [show State.unitWords [] = [] from rfl, hw]
  dsimp only
  rw [if_neg (by decide), hlen, if_pos (le_refl _), completeTag_plain hcs, hcq]

/-- The last get response stores its data, and the command ends. -/
theorem get_response {c off : Nat} (hd : s.ethernet d p = true) (hq : q = f.dstQueue) (he : e = ctxDie q) (hpeer : s.fromPeer f = true) (hn : n = f.tag)
    (hc : (s.tag e n).cmd = some fc) (hg : (s.tag e n).gen = f.gen) (hcq : cQueue fc.cmd = q) (hcs : cCsig fc.cmd = false) (hbad : frameBad { f with ftype := 3 } = false)
    (hst : f.status = 0) (hpois : f.pois = []) (hgot : (s.tag e n).got = 0) (hlen : cLen fc.cmd = f.paylen) (ho : off % 8 = 0) (hsp : bits (cLocal fc.cmd) 44 4 = 1)
    (hout : s.carryOut e (.agent e) (cLocal fc.cmd) f.payload.length true = (v, 0)) (ht : v.target (cLocal fc.cmd) = .spm c off)
    (hchk : v.spmCheckRun c off f.payload.length 4 false = none)
    (hback : (v.meshWrite c off f.payload [] none).1.carryBack e (.agent e) (cLocal fc.cmd) f.payload.length true = (w, 0)) :
    ∃ t, exec (.getResponseReceive d p f link) s = .next t ∧ (∀ j, j < f.payload.length → some (t.byte (spmKey c (off + j))) = f.payload[j]?) ∧
      (∀ k, (∀ j, j < f.payload.length → k ≠ spmKey c (off + j) ∧ k ≠ spmChkKey c (off + j)) → t.byte k = s.byte k) ∧
      (t.tag e n).cmd = none ∧ (t.tag e n).gen = (f.gen + 1) % 16 ∧ (t.ctx q).inflight = (s.ctx q).inflight - 1 ∧ t.regs = w.regs ∧ t.err = w.err ∧ t.out = s.out := by
  subst hq he hn
  obtain ⟨hmod, hplen⟩ := payload_of_good hbad (show (3 : Nat) ≠ 2 by decide)
  have hplen' : f.payload.length = f.paylen := hplen
  have hmod' : f.paylen % 32 = 0 := hmod
  obtain ⟨hwrite, u, hland, hw1, hw2⟩ := agentWrite_spm hsp ho (by omega) hout ht hchk hback
  have hwritten := written_of_landed hw1 hland hw2
  have hexec : exec (.getResponseReceive d p f link) s = .next (s.getData { f with ftype := 3 } fc) := by
    refine next_congr ?_
    rw [linkRx_ether hd, onResponse_accepts (f := { f with ftype := 3 }) hbad hpeer hc hg hcq]
  have hdata := getData_last (f := { f with ftype := 3 }) hst hpois hgot hwrite hlen hcs hcq
  rw [hdata] at hexec
  have hset : w.within [.tags] (w.setTag (ctxDie f.dstQueue) f.tag { s.tag (ctxDie f.dstQueue) f.tag with got := f.paylen }) :=
    within_setTag (List.Subset.refl _) (within_refl w)
  have htag := tag_setTag_same w (ctxDie f.dstQueue) f.tag { s.tag (ctxDie f.dstQueue) f.tag with got := f.paylen }
  generalize w.setTag (ctxDie f.dstQueue) f.tag { s.tag (ctxDie f.dstQueue) f.tag with got := f.paylen } = y at hexec hset htag
  obtain ⟨hwt, hnone, hgen, hctx, -⟩ := releaseTag_keeps (s := y) (ctxDie f.dstQueue) f.tag f.dstQueue
  generalize y.releaseTag (ctxDie f.dstQueue) f.tag f.dstQueue = t at hexec hwt hnone hgen hctx
  have hmem : t.mem = w.mem := (StartPhases.within_same hwt .mem (by decide)).trans (StartPhases.within_same hset .mem (by decide))
  have hctxs : y.ctxs = s.ctxs := (StartPhases.within_same hset .ctxs (by decide)).trans (StartPhases.within_same hwritten.reach .ctxs (by decide))
  refine ⟨t, hexec, fun j hj => ?_, fun k hk => ?_, hnone, ?_, ?_, ?_, ?_, ?_⟩
  · rw [GddrAccesses.byte_of_mem hmem]
    exact hwritten.byte j hj
  · rw [GddrAccesses.byte_of_mem hmem]
    exact hwritten.other k hk
  · rw [hgen, htag, hg]
  · rw [hctx, ctx_of_ctxs hctxs]
  · exact (StartPhases.within_same hwt .regs (by decide)).trans (StartPhases.within_same hset .regs (by decide))
  · exact (StartPhases.within_same hwt .err (by decide)).trans (StartPhases.within_same hset .err (by decide))
  · exact (StartPhases.within_same hwt .out (by decide)).trans ((StartPhases.within_same hset .out (by decide)).trans (StartPhases.within_same hwritten.reach .out (by decide)))

section
variable (hd : s.ethernet d p = true) (hq : q = f.dstQueue) (he : e = ctxDie q) (hpeer : s.fromPeer f = true) (hn : n = f.tag)
  (hc : (s.tag e n).cmd = some fc) (hg : (s.tag e n).gen = f.gen) (hcq : cQueue fc.cmd = q) (hbad : frameBad { f with ftype := 6 } = false)
include hd hq he hpeer hn hc hg hcq hbad

theorem exec_completion : exec (.completionReceive d p f link) s = .next (s.cmdDone { f with ftype := 6 } fc) := by
  subst hq he hn
  refine next_congr ?_
  rw [linkRx_ether hd, onResponse_accepts (f := { f with ftype := 6 }) hbad hpeer hc hg hcq]

theorem completed (hcs : cCsig fc.cmd = false) (hst : f.status = 0) :
    ∃ t, exec (.completionReceive d p f link) s = .next t ∧ (t.tag e n).cmd = none ∧ (t.tag e n).gen = (f.gen + 1) % 16 ∧
      (t.ctx q).inflight = (s.ctx q).inflight - 1 ∧ (t.ctx q).state = (s.ctx q).state ∧ t.regs = s.regs ∧ t.err = s.err ∧ t.mem = s.mem ∧ t.out = s.out := by
  have hexec := exec_completion (link := link) hd hq he hpeer hn hc hg hcq hbad
  subst hq he hn
  have hdone : s.cmdDone { f with ftype := 6 } fc = s.releaseTag (ctxDie f.dstQueue) f.tag f.dstQueue := by
    unfold State.cmdDone
    simp only [hst, show ¬ (0 = 1) by decide, show ¬ (0 = 2) by decide, false_and, if_false, completeTag_plain hcs, hcq]
  rw [hdone] at hexec
  obtain ⟨hw, hnone, hgen, hctx, -⟩ := releaseTag_keeps (s := s) (ctxDie f.dstQueue) f.tag f.dstQueue
  exact ⟨_, hexec, hnone, by rw [hgen, hg], by rw [hctx], by rw [hctx], StartPhases.within_same hw .regs (by decide), StartPhases.within_same hw .err (by decide),
    StartPhases.within_same hw .mem (by decide), StartPhases.within_same hw .out (by decide)⟩

theorem failed (hst : f.status = 1) :
    ∃ t r, exec (.completionReceive d p f link) s = .next t ∧ (t.tag e n).cmd = none ∧ (t.ctx q).state = 3 ∧ (t.ctx q).cause = 1 ∧
      t.err.recQ = s.err.recQ ++ [r] ∧ r.cls = 0x56 ∧ r.struck = originCell fc.req ∧ t.regs = s.regs ∧ t.mem = s.mem := by
  have hexec := exec_completion (link := link) hd hq he hpeer hn hc hg hcq hbad
  subst hq he hn
  have hdone : s.cmdDone { f with ftype := 6 } fc = s.failTag (ctxDie f.dstQueue) f.tag 1 := by
    unfold State.cmdDone
    exact if_pos hst
  rw [hdone] at hexec
  obtain ⟨hw, hnone, -, hctx, r, hrec, hcls, hstruck⟩ := failTag_keeps (cause := 1) hcq hc
  exact ⟨_, r, hexec, hnone, by rw [hctx], by rw [hctx], hrec, hcls, hstruck, StartPhases.within_same hw .regs (by decide), StartPhases.within_same hw .mem (by decide)⟩

end

theorem stale (hd : s.ethernet d p = true) (hpeer : s.fromPeer f = true) (hbad : frameBad { f with ftype := 6 } = false)
    (hg : (s.tag (ctxDie f.dstQueue) f.tag).gen ≠ f.gen) (hw : s.written (fabKey d p FAB_PDROP) = false) :
    ∃ t, exec (.completionReceive d p f link) s = .next t ∧ t.tags = s.tags ∧ t.ctxs = s.ctxs ∧ t.mem = s.mem ∧
      t.fld (fabKey d p FAB_PDROP) 16 16 = min (s.fld (fabKey d p FAB_PDROP) 16 16 + 1) 0xFFFF ∧ s.regsBut t [fabKey d p FAB_PDROP] := by
  have hexec : exec (.completionReceive d p f link) s = .next (s.staleFrame d p) := by
    refine next_congr ?_
    rw [linkRx_ether hd, onResponse_stale (f := { f with ftype := 6 }) hbad hpeer hg]
  have hfld := GddrDevices.fld_incSatUn_same (s := s) (k := fabKey d p FAB_PDROP) (lo := 16) (w := 16) 1 hw (by decide)
  have hregs : s.regsBut (s.incSatUn (fabKey d p FAB_PDROP) 16 16 1) [fabKey d p FAB_PDROP] :=
    DescriptorQueue.regsBut_incSatUn (regsBut_refl s _) List.mem_cons_self _ _ _
  have hws : s.within [.regs, .err] (s.staleFrame d p) := within_staleFrame (List.Subset.refl _) (within_refl s)
  exact ⟨_, hexec, StartPhases.within_same hws .tags (by decide), StartPhases.within_same hws .ctxs (by decide), StartPhases.within_same hws .mem (by decide),
    (fld_of_regs (raiseLim_part ..) (raiseLim_regs ..) ..).trans hfld, regsBut_of_regs hregs (raiseLim_part ..) (raiseLim_regs ..)⟩

/-! ### Acknowledgements and fault notices (R302, R304) -/

theorem acknowledged {i : Nat} (hd : s.ethernet d p = true) (hpeer : s.fromPeer f = true) (hbad : frameBad { f with ftype := 7 } = false)
    (hi : (s.ctx f.dstQueue).unacked.findIdx? (fun g => g.seq == f.seq) = some i) :
    ∃ t, exec (.frameAckReceive d p f link) s = .next t ∧ (t.ctx f.dstQueue).unacked = (s.ctx f.dstQueue).unacked.drop (i + 1) ∧ (t.ctx f.dstQueue).progress = s.now ∧
      (t.ctx f.dstQueue).rto = 0 ∧ (∀ r, r ≠ f.dstQueue → t.ctx r = s.ctx r) ∧ t.regs = s.regs ∧ t.out = s.out ∧ t.err = s.err := by
  have hpeer' : s.fromPeer { f with ftype := 7 } = true := hpeer
  have hexec : exec (.frameAckReceive d p f link) s =
      .next (s.setCtx f.dstQueue { s.ctx f.dstQueue with unacked := (s.ctx f.dstQueue).unacked.drop (i + 1), progress := s.now, rto := 0 }) := by
    refine next_congr ?_
    rw [linkRx_ether hd]
    unfold State.ackFrame
    rw [hbad, hpeer', if_neg (by simp)]
    dsimp only
    rw [hi]
  have hctx := ctx_setCtx_same (s := s) f.dstQueue { s.ctx f.dstQueue with unacked := (s.ctx f.dstQueue).unacked.drop (i + 1), progress := s.now, rto := 0 }
  exact ⟨_, hexec, by rw [hctx], by rw [hctx], by rw [hctx], fun r hr => (ctx_setCtx ..).trans (if_neg hr), setCtx_regs .., setCtx_out .., setCtx_err ..⟩

theorem fault_notice (hd : s.ethernet d p = true) (hbad : frameBad { f with ftype := 15 } = false) (hctxs : s.ctxs = [(q, x)]) (hst : x.state = 2)
    (hpe : x.peerEngine = f.srcEngine) (htags : s.tags = []) :
    ∃ t, exec (.faultNoticeReceive d p f link) s = .next t ∧ t.ctxs = s.ctxs ∧ s.logs t 0x56 (.dieUnit (ctxDie q) x.port) (5 + q * 2 ^ 8) ∧ t.mem = s.mem ∧ t.regs = s.regs := by
  have htagsOf : s.tagsOf q = [] := by
    unfold State.tagsOf
    rw [htags]
    rfl
  have hquiet : s.quietFail q = s := by
    unfold State.quietFail
    rw [htagsOf]
    rfl
  have htag : (s.tag (ctxDie q) 0).gen = 0 := by
    unfold State.tag
    rw [htags]
    rfl
  have hx : s.ctx q = x := by
    unfold State.ctx
    rw [hctxs]
    simp [SMap.get]
  have hfilter : (s.ctxs.filter fun e => e.2.state == 2 && e.2.peerEngine == f.srcEngine).map (·.1) = [q] := by
    rw [hctxs]
    simp [hst, hpe]
  have hexec : exec (.faultNoticeReceive d p f link) s = .next (s.raise 0x56 (.dieUnit (ctxDie q) x.port) (5 + q * 2 ^ 8) none) := by
    refine next_congr ?_
    rw [linkRx_ether hd]
    unfold State.faultNotice
    rw [hbad, if_neg Bool.false_ne_true]
    dsimp only
    rw [hfilter]
    simp only [List.foldl_cons, List.foldl_nil, htagsOf, hquiet, List.filterMap_nil, List.tail_nil, List.head?_nil, Option.getD_none, if_true, htag, hx, Nat.zero_mul,
      Nat.add_zero]
  exact ⟨_, hexec, raise_ctxs .., logs_raise rfl .., raise_mem .., raise_regs ..⟩

/-! ### Native links (R289) -/

theorem fport_of_fports (h : t.fports = s.fports) (d p : Nat) : t.fport d p = s.fport d p := by unfold State.fport; rw [h]

/-- Frames sent again: each is one link frame, and stays in the retry buffer. -/
theorem resent (d p : Nat) (r : List (Nat × Frame)) (a : State) : a.within [.fports, .out] (r.foldl (fun t e => t.nativeAgain d p e) a) ∧
    (r.foldl (fun t e => t.nativeAgain d p e) a).out.length = a.out.length + r.length ∧
    ((r.foldl (fun t e => t.nativeAgain d p e) a).fport d p).retry = (a.fport d p).retry := by
  induction r generalizing a with
  | nil => exact ⟨within_refl a, rfl, rfl⟩
  | cons e r ih =>
    obtain ⟨hw, hout, hport⟩ := linkSend_keeps (s := a) d p e.1 false (respClass e.2) false (frameBytes e.2)
    obtain ⟨hw', hlen, hretry⟩ := ih (a.nativeAgain d p e)
    have hsent : (a.nativeAgain d p e).out.length = a.out.length + 1 := congrArg List.length hout
    have hport' := congrArg FPort.retry hport
    have hkept : ((a.nativeAgain d p e).fport d p).retry = (a.fport d p).retry := hport'
    refine ⟨within_trans hw hw', ?_, hretry.trans hkept⟩
    rw [List.foldl_cons, hlen, hsent, List.length_cons]
    omega

theorem kept_acked {y : FPort} {i : Nat} (h : y.retry.findIdx? (fun e => e.1 == bits link.toNat 12 12) = some i) : kept y link = y.retry.drop (i + 1) := by
  unfold kept
  rw [h]

theorem native_nak {i : Nat} {r : List (Nat × Frame)} (he : s.ethernet d p = false) (hnak : bit link.toNat 24 = true) (hh : (s.fport d p).held = [])
    (hi : (s.fport d p).retry.findIdx? (fun e => e.1 == bits link.toNat 12 12) = some i) (hr : r = (s.fport d p).retry.drop (i + 1))
    (hw : s.written (fabKey d p FAB_PRETRY) = false) :
    ∃ t, exec (.nativeLinkNak d p link) s = .next t ∧ (t.fport d p).retry = r ∧ t.out.length = s.out.length + r.length ∧
      (∀ e, r = [e] → t.out = .frame d p (nativeBytes (linkHead (s.fport d p) e.1 false (respClass e.2) false) (frameBytes e.2)) :: s.out) ∧
      t.fld (fabKey d p FAB_PRETRY) 0 16 = min (s.fld (fabKey d p FAB_PRETRY) 0 16 + r.length) 0xFFFF ∧ s.regsBut t [fabKey d p FAB_PRETRY] ∧ t.mem = s.mem ∧ t.ctxs = s.ctxs := by
  have hexec : exec (.nativeLinkNak d p link) s = .next (s.linkNak d p link) := by
    refine next_congr ?_
    rw [he, if_neg Bool.false_ne_true, if_pos hnak]
  unfold State.linkNak at hexec
  dsimp only at hexec
  obtain ⟨hwh, hport⟩ := linkHeader_keeps link hh
  generalize s.linkHeader d p link = a at hexec hwh hport
  have hretry : (a.fport d p).retry = r := by rw [hport, hr]; exact kept_acked hi
  rw [hretry] at hexec
  have hwa : a.written (fabKey d p FAB_PRETRY) = false := (GddrDevices.written_of_within hwh (by decide) _).trans hw
  have hfld := GddrDevices.fld_incSatUn_same (s := a) (k := fabKey d p FAB_PRETRY) (lo := 0) (w := 16) r.length hwa (by decide)
  have hregs : a.regsBut (a.incSatUn (fabKey d p FAB_PRETRY) 0 16 r.length) [fabKey d p FAB_PRETRY] :=
    DescriptorQueue.regsBut_incSatUn (regsBut_refl a _) List.mem_cons_self _ _ _
  have hwb : a.within [.regs] (a.incSatUn (fabKey d p FAB_PRETRY) 0 16 r.length) := within_incSatUn (List.Subset.refl _) (within_refl a)
  generalize a.incSatUn (fabKey d p FAB_PRETRY) 0 16 r.length = b at hexec hfld hregs hwb
  have hfldb : b.fld (fabKey d p FAB_PRETRY) 0 16 = min (s.fld (fabKey d p FAB_PRETRY) 0 16 + r.length) 0xFFFF :=
    hfld.trans (by rw [fld_of_regs hwh.1 (StartPhases.within_same hwh .regs (by decide))]; rfl)
  have hregsb : s.regsBut b [fabKey d p FAB_PRETRY] := regsBut_trans (regsBut_of_regs (regsBut_refl s _) hwh.1 (StartPhases.within_same hwh .regs (by decide))) hregs
  have houtb : b.out = s.out := (StartPhases.within_same hwb .out (by decide)).trans (StartPhases.within_same hwh .out (by decide))
  have hportb : b.fport d p = a.fport d p := fport_of_fports (StartPhases.within_same hwb .fports (by decide)) ..
  have hmemb : b.mem = s.mem := (StartPhases.within_same hwb .mem (by decide)).trans (StartPhases.within_same hwh .mem (by decide))
  have hctxb : b.ctxs = s.ctxs := (StartPhases.within_same hwb .ctxs (by decide)).trans (StartPhases.within_same hwh .ctxs (by decide))
  obtain ⟨hwc, hlen, hkept⟩ := resent d p r b
  have hone : ∀ e, r = [e] → (r.foldl (fun t e => t.nativeAgain d p e) b).out =
      .frame d p (nativeBytes (linkHead (s.fport d p) e.1 false (respClass e.2) false) (frameBytes e.2)) :: s.out := by
    rintro e rfl
    obtain ⟨-, hout, -⟩ := linkSend_keeps (s := b) d p e.1 false (respClass e.2) false (frameBytes e.2)
    refine hout.trans ?_
    rw [houtb, hportb, hport]
    exact congrArg (fun h => Out.frame d p (nativeBytes h (frameBytes e.2)) :: s.out) (FabricCommands.linkHead_congr rfl rfl rfl ..)
  generalize r.foldl (fun t e => t.nativeAgain d p e) b = c at hexec hwc hlen hkept hone
  have hfldc := (fld_of_regs hwc.1 (StartPhases.within_same hwc .regs (by decide)) (fabKey d p FAB_PRETRY) 0 16).trans hfldb
  have hregsc := regsBut_of_regs hregsb hwc.1 (StartPhases.within_same hwc .regs (by decide))
  have hretryc : (c.fport d p).retry = r := hkept.trans ((congrArg FPort.retry hportb).trans hretry)
  have hmemc : c.mem = s.mem := (StartPhases.within_same hwc .mem (by decide)).trans hmemb
  have hctxc : c.ctxs = s.ctxs := (StartPhases.within_same hwc .ctxs (by decide)).trans hctxb
  rw [houtb] at hlen
  by_cases hnil : r = []
  · rw [if_pos hnil] at hexec
    exact ⟨c, hexec, hretryc, hlen, hone, hfldc, hregsc, hmemc, hctxc⟩
  · rw [if_neg hnil] at hexec
    exact ⟨_, hexec, (congrArg FPort.retry (fport_of_fports (raiseLim_fports ..) ..)).trans hretryc, (congrArg List.length (raiseLim_out ..)).trans hlen,
      fun e h => (raiseLim_out ..).trans (hone e h), (fld_of_regs (raiseLim_part ..) (raiseLim_regs ..) ..).trans hfldc,
      regsBut_of_regs hregsc (raiseLim_part ..) (raiseLim_regs ..), (raiseLim_mem ..).trans hmemc, (raiseLim_ctxs ..).trans hctxc⟩

theorem native_header {i : Nat} {y : FPort} (he : s.ethernet d p = false) (hnak : bit link.toNat 24 = false) (hy : y = s.fport d p) (hh : y.held = [])
    (hi : y.retry.findIdx? (fun e => e.1 == bits link.toNat 12 12) = some i) :
    ∃ t, exec (.nativeLinkNak d p link) s = .next t ∧ (t.fport d p).retry = y.retry.drop (i + 1) ∧ (t.fport d p).crReq = y.crReq + bits link.toNat 32 16 ∧
      (t.fport d p).crRsp = y.crRsp + bits link.toNat 48 16 ∧ t.out = s.out ∧ t.regs = s.regs ∧ t.err = s.err ∧ t.mem = s.mem ∧ t.ctxs = s.ctxs := by
  subst hy
  have hexec : exec (.nativeLinkNak d p link) s = .next (s.linkHeader d p link) := by
    refine next_congr ?_
    rw [he, if_neg Bool.false_ne_true, hnak, if_neg Bool.false_ne_true]
  obtain ⟨hw, hport⟩ := linkHeader_keeps link hh
  exact ⟨_, hexec, by rw [hport]; exact kept_acked hi, by rw [hport], by rw [hport], StartPhases.within_same hw .out (by decide), StartPhases.within_same hw .regs (by decide),
    StartPhases.within_same hw .err (by decide), StartPhases.within_same hw .mem (by decide), StartPhases.within_same hw .ctxs (by decide)⟩

/-! ### Ethernet mode (R302) -/

theorem ack_sent (hx : x = s.ctx q) (hp : s.pstate (ctxDie q) x.port = 2) (hdue : s.ackDue q = true) :
    ∃ t g, exec (.e2eAckSend q) s = .next t ∧ s.sendsEther t (ctxDie q) x.port x.dmac g ∧ g.ftype = 7 ∧ g.seq = x.rxSeq - 1 ∧
      (t.ctx q).toAck = 0 ∧ t.regs = s.regs ∧ t.mem = s.mem ∧ t.err = s.err := by
  subst hx
  have he : s.ethernet (ctxDie q) (s.ctx q).port = true := by
    unfold State.ackDue at hdue
    exact (Bool.and_eq_true _ _ ▸ hdue).1
  have hexec : exec (.e2eAckSend q) s = .next (s.sendAck q) := next_congr (if_pos hdue)
  unfold State.sendAck State.sendCtx at hexec
  dsimp only at hexec
  have hset : s.within [.ctxs] (s.setCtx q { s.ctx q with toAck := 0 }) := within_setCtx (List.Subset.refl _) (within_refl s)
  have hctx := ctx_setCtx_same (s := s) q { s.ctx q with toAck := 0 }
  generalize s.setCtx q { s.ctx q with toAck := 0 } = a at hexec hset hctx
  rw [hctx] at hexec
  have hports : SamePorts s a := .of_within hset (by decide) (by decide) (by decide)
  obtain ⟨hsend, hw⟩ := sends_ether hports hp he (s.ctx q).dmac { cFrame 0 7 0 0 false 0 0 with
    rsig := false, sig := 0, seq := (s.ctx q).rxSeq - 1, srcEngine := a.engineId (ctxDie q), dstEngine := (s.ctx q).peerEngine, srcQueue := q, dstQueue := (s.ctx q).peerQueue }
  refine ⟨_, _, hexec, hsend, rfl, rfl, ?_, ?_, ?_, ?_⟩
  · rw [ctx_of_ctxs (StartPhases.within_same hw .ctxs (by decide)), hctx]
  · exact (StartPhases.within_same hw .regs (by decide)).trans (StartPhases.within_same hset .regs (by decide))
  · exact (StartPhases.within_same hw .mem (by decide)).trans (StartPhases.within_same hset .mem (by decide))
  · exact (StartPhases.within_same hw .err (by decide)).trans (StartPhases.within_same hset .err (by decide))

/-- Frames sent to an up Ethernet port leave one by one. -/
theorem sends_all {dmac : BitVec 48} (hp : s.pstate d p = 2) (he : s.ethernet d p = true) (l : List Frame) (a : State) (hr : a.regs = s.regs) (hf : a.fports = s.fports) (hpt : a.part = s.part) :
    a.within [.out] (l.foldl (fun t f => t.sendFrame d p dmac f) a) ∧ (l.foldl (fun t f => t.sendFrame d p dmac f) a).out.length = a.out.length + l.length := by
  induction l generalizing a with
  | nil => exact ⟨within_refl a, rfl⟩
  | cons f l ih =>
    have hports : SamePorts { s with out := a.out } a := ⟨hpt, hr, hf, rfl⟩
    obtain ⟨hsend, hw⟩ := sends_ether hports hp he dmac f
    obtain ⟨hw', hlen⟩ := ih (a.sendFrame d p dmac f) ((StartPhases.within_same hw .regs (by decide)).trans hr) ((StartPhases.within_same hw .fports (by decide)).trans hf)
      (hw.1.trans hpt)
    have hone : (a.sendFrame d p dmac f).out.length = a.out.length + 1 := congrArg List.length hsend
    refine ⟨within_trans hw hw', ?_⟩
    rw [List.foldl_cons, hlen, hone, List.length_cons]
    omega

theorem resend_due (hx : x = s.ctx q) (hp : s.pstate (ctxDie q) x.port = 2) (he : s.ethernet (ctxDie q) x.port = true) (hne : x.unacked ≠ [])
    (hnow : x.progress + 1000 * s.rtoOf q ≤ s.now) :
    ∃ t, exec (.e2eResendTimeout q) s = .next t ∧ t.out.length = s.out.length + x.unacked.length ∧
      (∀ f, x.unacked = [f] → s.sendsEther t (ctxDie q) x.port x.dmac f) ∧
      (t.ctx q).rto = min 10000 (2 * s.rtoOf q) ∧ (t.ctx q).progress = s.now ∧ (t.ctx q).unacked = x.unacked ∧ t.mem = s.mem ∧ t.err = s.err := by
  subst hx
  have hexec : exec (.e2eResendTimeout q) s = .next (s.resend q) := next_congr rfl
  unfold State.resend at hexec
  dsimp only at hexec
  rw [if_neg (by rintro (h | h); exact hne h; omega)] at hexec
  have hset : s.within [.ctxs] (s.setCtx q { s.ctx q with rto := min 10000 (2 * s.rtoOf q), progress := s.now }) := within_setCtx (List.Subset.refl _) (within_refl s)
  have hctx := ctx_setCtx_same (s := s) q { s.ctx q with rto := min 10000 (2 * s.rtoOf q), progress := s.now }
  generalize s.setCtx q { s.ctx q with rto := min 10000 (2 * s.rtoOf q), progress := s.now } = a at hexec hset hctx
  have hcnt : a.within [.regs] (a.incSatUn (fabKey (ctxDie q) (s.ctx q).port FAB_PRETRY) 16 16 (s.ctx q).unacked.length) := within_incSatUn (List.Subset.refl _) (within_refl a)
  have hregs : a.regsBut (a.incSatUn (fabKey (ctxDie q) (s.ctx q).port FAB_PRETRY) 16 16 (s.ctx q).unacked.length) [fabKey (ctxDie q) (s.ctx q).port FAB_PRETRY] :=
    DescriptorQueue.regsBut_incSatUn (regsBut_refl a _) List.mem_cons_self _ _ _
  generalize a.incSatUn (fabKey (ctxDie q) (s.ctx q).port FAB_PRETRY) 16 16 (s.ctx q).unacked.length = b at hexec hcnt hregs
  have hkey {o : Nat} (h : o % 64 ≠ FAB_PRETRY % 64) (j : Nat) : b.reg (fabKey (ctxDie q) j o) = s.reg (fabKey (ctxDie q) j o) :=
    (hregs _ (by simpa using FabricCommands.fabKey_ne h)).trans (reg_of_regs hset.1 (StartPhases.within_same hset .regs (by decide)) _)
  have hout : b.out = s.out := (StartPhases.within_same hcnt .out (by decide)).trans (StartPhases.within_same hset .out (by decide))
  have hfports : b.fports = s.fports := (StartPhases.within_same hcnt .fports (by decide)).trans (StartPhases.within_same hset .fports (by decide))
  have hpb : b.pstate (ctxDie q) (s.ctx q).port = 2 := by
    rw [← hp]
    unfold State.pstate State.fld
    rw [hkey (by decide)]
  have heb : b.ethernet (ctxDie q) (s.ctx q).port = true := by
    rw [← he]
    unfold State.ethernet
    rw [hpb, hp, if_pos (.inl rfl), if_pos (.inl rfl), fport_of_fports hfports]
  have hctxb := (ctx_of_ctxs (StartPhases.within_same hcnt .ctxs (by decide)) q).trans hctx
  obtain ⟨hw, hlen⟩ := sends_all (dmac := (s.ctx q).dmac) hpb heb (s.ctx q).unacked b rfl rfl rfl
  have hone : ∀ f, (s.ctx q).unacked = [f] → s.sendsEther ((s.ctx q).unacked.foldl (fun t f => t.sendFrame (ctxDie q) (s.ctx q).port (s.ctx q).dmac f) b) (ctxDie q) (s.ctx q).port (s.ctx q).dmac f := by
    intro f hf
    obtain ⟨hsend, -⟩ := sendFrame_ether hpb heb (s.ctx q).dmac f
    rw [hf, List.foldl_cons, List.foldl_nil]
    unfold State.sendsEther at hsend ⊢
    rw [hsend, hout, fport_of_fports hfports, hkey (by decide)]
  generalize (s.ctx q).unacked.foldl (fun t f => t.sendFrame (ctxDie q) (s.ctx q).port (s.ctx q).dmac f) b = t at hexec hw hlen hone
  have hctxt := (ctx_of_ctxs (StartPhases.within_same hw .ctxs (by decide)) q).trans hctxb
  exact ⟨t, hexec, by rw [hlen, hout], hone, by rw [hctxt], by rw [hctxt], by rw [hctxt],
    (StartPhases.within_same hw .mem (by decide)).trans ((StartPhases.within_same hcnt .mem (by decide)).trans (StartPhases.within_same hset .mem (by decide))),
    (StartPhases.within_same hw .err (by decide)).trans ((StartPhases.within_same hcnt .err (by decide)).trans (StartPhases.within_same hset .err (by decide)))⟩

/-- Settles O37: a current response ends its command or fails it, a stale one is counted, and acknowledgements, NAKs and resends keep the frames that are owed. -/
theorem fabResponsesAndRetries : Obligations.FabResponsesAndRetries := by
  unfold Obligations.FabResponsesAndRetries
  refine ⟨?_, ?_, ?_, ?_, ?_, ?_, ?_⟩
  · intro s v w d p n e q c off link f fc hd hq he hpeer hn hc hg hcq hcs
    refine ⟨fun hbad hst hpois hgot hlen ho hsp hout ht hchk hback => ?_, fun hbad => ⟨?_, ?_⟩⟩
    · exact get_response hd hq he hpeer hn hc hg hcq hcs hbad hst hpois hgot hlen ho hsp hout ht hchk hback
    · exact completed hd hq he hpeer hn hc hg hcq hbad hcs
    · exact failed hd hq he hpeer hn hc hg hcq hbad
  · intro s d p link f hd hpeer hbad hg hw
    exact stale hd hpeer hbad hg hw
  · intro s d p i link f hd hpeer hbad hi
    exact acknowledged hd hpeer hbad hi
  · intro s d p q link f x hd hbad hctxs hst hpe htags
    exact fault_notice hd hbad hctxs hst hpe htags
  · intro s d p i link r he hnak hh hi hr hw
    exact native_nak he hnak hh hi hr hw
  · intro s d p i link x he hnak hx hh hi
    exact native_header he hnak hx hh hi
  · intro s q x hx hp
    exact ⟨ack_sent hx hp, resend_due hx hp⟩

end Sys2Proof.FabricResponses
end

section
/-! PROOFS. Ports of the fabric: retrains, widths, link-up and EN (R283-R285, R288, R289, R311). -/

namespace Sys2Proof.FabricPorts

open Sys2Proof Sys2Proof.Machine Sys2Proof.Laws Sys2Proof.Clauses Sys2Proof.FabricFrames
open Sys2Proof.FabricCommands (fabKey_ne)
open Sys2Proof.FabricRequests (flushHeld_nil)

variable {s t u : State} {d p : Nat}

/-! ### Registers of a port -/

theorem fabKey_high (d p o : Nat) : 0x1000000 ≤ fabKey d p o := by
  unfold fabKey dieKey
  omega

theorem engineKey_ne {p o : Nat} (h : FAB_ENGINE_ID < o) : dieKey d FAB_ENGINE_ID ≠ fabKey d p o := by
  unfold fabKey dieKey
  omega

theorem setPstate_keeps (s : State) (d p st : Nat) : s.within [.regs] (s.setPstate d p st) ∧ s.regsBut (s.setPstate d p st) [fabKey d p FAB_PSTAT] ∧
    (s.setPstate d p st).pstate d p = st % 2 ^ 3 ∧ ∀ lo w, 3 ≤ lo → (s.setPstate d p st).fld (fabKey d p FAB_PSTAT) lo w = s.fld (fabKey d p FAB_PSTAT) lo w :=
  ⟨within_setFld (List.Subset.refl _) (within_refl s), regsBut_setFld (regsBut_refl s _) List.mem_cons_self _ _ _, fld_setFld_same _ _ (by decide),
    fun lo w h => fld_setFld_apart _ _ (by decide) (.inr h)⟩

theorem retrain_up (hp : s.pstate d p = 2) : s.retrain d p = s.setPstate d p 3 := if_pos hp

/-- A retrain of an up port. -/
theorem retrained (s : State) (d p : Nat) : (s.setPstate d p 3).pstate d p = 3 ∧ s.regsBut (s.setPstate d p 3) [fabKey d p FAB_PSTAT] ∧ (s.setPstate d p 3).err = s.err ∧
    (s.setPstate d p 3).ctxs = s.ctxs ∧ (s.setPstate d p 3).tags = s.tags := by
  obtain ⟨hw, hregs, hst, -⟩ := setPstate_keeps s d p 3
  exact ⟨hst, hregs, StartPhases.within_same hw .err (by decide), StartPhases.within_same hw .ctxs (by decide), StartPhases.within_same hw .tags (by decide)⟩

/-- Uncorrectable and corrected codewords are counted. -/
theorem fec_counted {n k : Nat} (hw : s.written (fabKey d p FAB_PFEC) = false) :
    ∃ u, (s.incSatUn (fabKey d p FAB_PFEC) 32 32 n).incSatUn (fabKey d p FAB_PFEC) 0 32 k = u ∧ s.within [.regs] u ∧ s.regsBut u [fabKey d p FAB_PFEC] ∧
      u.fld (fabKey d p FAB_PFEC) 32 32 = min (s.fld (fabKey d p FAB_PFEC) 32 32 + n) 0xFFFFFFFF ∧
      u.fld (fabKey d p FAB_PFEC) 0 32 = min (s.fld (fabKey d p FAB_PFEC) 0 32 + k) 0xFFFFFFFF := by
  have hw1 : s.within [.regs] (s.incSatUn (fabKey d p FAB_PFEC) 32 32 n) := within_incSatUn (List.Subset.refl _) (within_refl s)
  have hr1 : s.regsBut (s.incSatUn (fabKey d p FAB_PFEC) 32 32 n) [fabKey d p FAB_PFEC] := DescriptorQueue.regsBut_incSatUn (regsBut_refl s _) List.mem_cons_self _ _ _
  have hhigh := GddrDevices.fld_incSatUn_same (s := s) (k := fabKey d p FAB_PFEC) (lo := 32) (w := 32) n hw (by decide)
  have hlow := GddrDevices.fld_incSatUn_apart (s := s) (k := fabKey d p FAB_PFEC) (lo := 32) (w := 32) (p := 0) (q := 32) n hw (by decide) (.inl (by decide))
  have hwr := (GddrDevices.written_of_within hw1 (by decide) (fabKey d p FAB_PFEC)).trans hw
  generalize s.incSatUn (fabKey d p FAB_PFEC) 32 32 n = a at hw1 hr1 hhigh hlow hwr
  refine ⟨_, rfl, within_trans hw1 (within_incSatUn (List.Subset.refl _) (within_refl a)),
    regsBut_trans hr1 (DescriptorQueue.regsBut_incSatUn (regsBut_refl a _) List.mem_cons_self _ _ _), ?_, ?_⟩
  · rw [GddrDevices.fld_incSatUn_apart k hwr (by decide) (.inr (by decide)), hhigh]
    rfl
  · rw [GddrDevices.fld_incSatUn_same k hwr (by decide), hlow]
    rfl

theorem signal_lost (hp : s.pstate d p = 2) : exec (.partnerSignalLoss d p) s = .next (s.setPstate d p 3) := next_congr (retrain_up hp)

theorem retrain_commanded (hp : s.pstate d p = 2) : exec (.fabPcmdRetrain d p) s = .next (s.setPstate d p 3) := by
  refine next_congr ?_
  unfold State.pcmd
  rw [if_pos hp, retrain_up hp]

theorem burst_retrains {l n k : Nat} (hp : s.pstate d p = 2) (hn : 16 < n) (hw : s.written (fabKey d p FAB_PFEC) = false) :
    ∃ t, exec (.fecUncorrectableBurst d p l n k) s = .next t ∧ t.pstate d p = 3 ∧
      t.fld (fabKey d p FAB_PFEC) 32 32 = min (s.fld (fabKey d p FAB_PFEC) 32 32 + n) 0xFFFFFFFF ∧ s.regsBut t [fabKey d p FAB_PSTAT, fabKey d p FAB_PFEC] := by
  obtain ⟨u, hu, hwu, hregs, hhigh, -⟩ := fec_counted (n := n) (k := k) hw
  have hne : fabKey d p FAB_PFEC ≠ fabKey d p FAB_PSTAT := fabKey_ne (by decide)
  have hpu : u.pstate d p = 2 := (fld_of_regsBut hregs (by simpa using hne.symm) ..).trans hp
  have hexec : exec (.fecUncorrectableBurst d p l n k) s = .next (u.setPstate d p 3) := by
    refine next_congr ?_
    rw [if_pos hn, hu, retrain_up hpu]
  obtain ⟨hst, hregs', -⟩ := retrained u d p
  exact ⟨_, hexec, hst, (fld_of_regsBut hregs' (by simpa using hne) ..).trans hhigh,
    regsBut_trans (fun k hk => hregs k fun h => hk (List.mem_cons_of_mem _ h)) fun k hk => hregs' k fun h => hk (List.mem_singleton.1 h ▸ List.mem_cons_self)⟩

theorem burst_counted {l n k : Nat} (hn : n ≤ 16) (hw : s.written (fabKey d p FAB_PFEC) = false) :
    ∃ t, exec (.fecUncorrectableBurst d p l n k) s = .next t ∧ t.pstate d p = s.pstate d p ∧
      t.fld (fabKey d p FAB_PFEC) 32 32 = min (s.fld (fabKey d p FAB_PFEC) 32 32 + n) 0xFFFFFFFF ∧
      t.fld (fabKey d p FAB_PFEC) 0 32 = min (s.fld (fabKey d p FAB_PFEC) 0 32 + k) 0xFFFFFFFF ∧ s.regsBut t [fabKey d p FAB_PFEC] ∧ t.err = s.err := by
  obtain ⟨u, hu, hwu, hregs, hhigh, hlow⟩ := fec_counted (n := n) (k := k) hw
  have hne : fabKey d p FAB_PSTAT ≠ fabKey d p FAB_PFEC := fabKey_ne (by decide)
  refine ⟨u, next_congr ?_, fld_of_regsBut hregs (by simpa using hne) .., hhigh, hlow, hregs, StartPhases.within_same hwu .err (by decide)⟩
  rw [if_neg (Nat.not_lt.2 hn), hu]

/-! ### Training ends (R284, R285) -/

theorem unconfigured_of_regsBut (h : s.regsBut t [fabKey d p FAB_PSTAT]) : t.unconfigured d p = s.unconfigured d p := by
  have hid : t.engineId d = s.engineId d := fld_of_regsBut h (by simpa using engineKey_ne (by decide)) ..
  have hcfg : t.fld (fabKey d p FAB_PCFG) 1 1 = s.fld (fabKey d p FAB_PCFG) 1 1 := fld_of_regsBut h (by simpa using fabKey_ne (by decide)) ..
  have htype : t.fld (fabKey d p FAB_PETYPE) 0 16 = s.fld (fabKey d p FAB_PETYPE) 0 16 := fld_of_regsBut h (by simpa using fabKey_ne (by decide)) ..
  unfold State.unconfigured
  rw [hid, hcfg, htype]

/-- What marking lanes leaves. -/
structure Marked (s t : State) (d p bad : Nat) : Prop where
  reach : s.within [.regs, .flash, .err] t
  keys : s.regsBut t [fabKey d p FAB_PSTAT]
  lanes : t.fld (fabKey d p FAB_PSTAT) 10 8 = s.fld (fabKey d p FAB_PSTAT) 10 8 ||| bad
  low : ∀ lo w, lo + w ≤ 10 → t.fld (fabKey d p FAB_PSTAT) lo w = s.fld (fabKey d p FAB_PSTAT) lo w

theorem markLanes_keeps {bad : Nat} (hb : bad < 2 ^ 8) : Marked s (s.markLanes d p bad) d p bad := by
  have hlt : s.fld (fabKey d p FAB_PSTAT) 10 8 ||| bad < 2 ^ 8 := Nat.or_lt_two_pow (IntegerInstructions.bits_lt ..) hb
  have hset : s.within [.regs] (s.setFld (fabKey d p FAB_PSTAT) 10 8 (s.fld (fabKey d p FAB_PSTAT) 10 8 ||| bad)) := within_setFld (List.Subset.refl _) (within_refl s)
  have hregs : s.regsBut (s.setFld (fabKey d p FAB_PSTAT) 10 8 (s.fld (fabKey d p FAB_PSTAT) 10 8 ||| bad)) [fabKey d p FAB_PSTAT] :=
    regsBut_setFld (regsBut_refl s _) List.mem_cons_self _ _ _
  have hlanes := (fld_setFld_same s (k := fabKey d p FAB_PSTAT) (lo := 10) (w := 8) (s.fld (fabKey d p FAB_PSTAT) 10 8 ||| bad) (by decide)).trans (Nat.mod_eq_of_lt hlt)
  have hlow : ∀ lo w, lo + w ≤ 10 → (s.setFld (fabKey d p FAB_PSTAT) 10 8 (s.fld (fabKey d p FAB_PSTAT) 10 8 ||| bad)).fld (fabKey d p FAB_PSTAT) lo w = s.fld (fabKey d p FAB_PSTAT) lo w :=
    fun lo w h => fld_setFld_apart _ _ (by decide) (.inl h)
  unfold State.markLanes
  dsimp only
  generalize s.setFld (fabKey d p FAB_PSTAT) 10 8 (s.fld (fabKey d p FAB_PSTAT) 10 8 ||| bad) = a at hset hregs hlanes hlow
  have hfold : a.within [.flash, .err] ((List.range 8).foldl (fun t i => if bit bad i then t.confirmFuse 8 4 d (8 * p + i) else t) a) :=
    within_foldl (l := List.range 8) (fun u i hu => by
      split
      · exact within_confirmFuse (List.Subset.refl _) hu
      · exact hu) (within_refl a)
  generalize (List.range 8).foldl (fun t i => if bit bad i then t.confirmFuse 8 4 d (8 * p + i) else t) a = b at hfold
  have hfld (lo w : Nat) : b.fld (fabKey d p FAB_PSTAT) lo w = a.fld (fabKey d p FAB_PSTAT) lo w := fld_of_regs hfold.1 (StartPhases.within_same hfold .regs (by decide)) ..
  exact ⟨within_trans (within_mono hset (by decide)) (within_mono hfold (by decide)), regsBut_of_regs hregs hfold.1 (StartPhases.within_same hfold .regs (by decide)),
    (hfld ..).trans hlanes, fun lo w h => (hfld ..).trans (hlow lo w h)⟩

/-- No lane marked: no record. -/
theorem markLanes_none : (s.markLanes d p 0).err = s.err := by
  have hfold (l : List Nat) (a : State) : l.foldl (fun t i => if bit 0 i then t.confirmFuse 8 4 d (8 * p + i) else t) a = a := by
    induction l with
    | nil => rfl
    | cons i l ih =>
      have hbit : bit 0 i = false := by unfold bit; simp
      rw [List.foldl_cons, hbit, if_neg Bool.false_ne_true, ih]
  unfold State.markLanes
  dsimp only
  rw [hfold]
  exact setFld_err ..

/-- What a port that came up at a width with nothing waiting leaves. -/
structure Up (s t : State) (d p w f : Nat) : Prop where
  reach : s.within [.regs, .fports] t
  keys : s.regsBut t [fabKey d p FAB_PSTAT]
  state : t.pstate d p = 2
  width : t.fld (fabKey d p FAB_PSTAT) 4 3 = widthCode w
  first : t.fld (fabKey d p FAB_PSTAT) 7 3 = f % 8
  lanes : t.fld (fabKey d p FAB_PSTAT) 10 8 = s.fld (fabKey d p FAB_PSTAT) 10 8
  framing : t.ethernet d p = (s.fld (fabKey d p FAB_PCFG) 1 1 == 1)
  retry : (t.fport d p).retry = []
  lseq : (t.fport d p).lseq = (s.fport d p).lseq
  crReq : (t.fport d p).crReq = (s.fport d p).crReq
  crRsp : (t.fport d p).crRsp = (s.fport d p).crRsp

theorem widthCode_lt (w : Nat) : widthCode w < 2 ^ 3 := by
  unfold widthCode
  repeat' split
  all_goals decide

/-- With nothing waiting a port resumes as it is. -/
theorem resume_idle (hr : (s.fport d p).retry = []) (hh : (s.fport d p).held = []) : s.within [.fports] (s.resume d p) ∧ (s.resume d p).fport d p = s.fport d p := by
  unfold State.resume
  dsimp only
  rw [if_pos (.inr hr)]
  exact flushHeld_nil hh

/-- The port's framing, state, width and first lane set. -/
def risen (s : State) (d p w f : Nat) : State :=
  ((((s.takeFraming d p).setPstate d p 2).setFld (fabKey d p FAB_PSTAT) 4 3 (widthCode w)).setFld (fabKey d p FAB_PSTAT) 7 3 f).resume d p

theorem risen_up (w f : Nat) (hr : (s.fport d p).retry = []) (hh : (s.fport d p).held = []) : Up s (risen s d p w f) d p w f := by
  have hframe : s.within [.fports] (s.takeFraming d p) := within_setFport (List.Subset.refl _) (within_refl s)
  have hport : (s.takeFraming d p).fport d p = { s.fport d p with
      ether := bit (s.reg (fabKey d p FAB_PCFG)).toNat 1, etype := s.fld (fabKey d p FAB_PETYPE) 0 16,
      licd := s.fld (ecKey LIC_STAT) 0 1 == 1,
      vlan := if bit (s.reg (fabKey d p FAB_PCFG)).toNat 6 then some (bits (s.reg (fabKey d p FAB_PCFG)).toNat 8 12 + bits (s.reg (fabKey d p FAB_PCFG)).toNat 20 3 * 2 ^ 13) else none } :=
    fport_setFport_same ..
  have hregs0 : s.regsBut (s.takeFraming d p) [fabKey d p FAB_PSTAT] := regsBut_of_regs (regsBut_refl s _) hframe.1 (StartPhases.within_same hframe .regs (by decide))
  unfold risen
  generalize s.takeFraming d p = a at hframe hport hregs0
  have hretry : (a.fport d p).retry = [] := by rw [hport]; exact hr
  have hheld : (a.fport d p).held = [] := by rw [hport]; exact hh
  have hether : (a.fport d p).ether = (s.fld (fabKey d p FAB_PCFG) 1 1 == 1) := by rw [hport]; rfl
  have hlseq : (a.fport d p).lseq = (s.fport d p).lseq := by rw [hport]
  have hcq : (a.fport d p).crReq = (s.fport d p).crReq := by rw [hport]
  have hcr : (a.fport d p).crRsp = (s.fport d p).crRsp := by rw [hport]
  obtain ⟨hw1, hregs1, hst1, hlow1⟩ := setPstate_keeps a d p 2
  have hport1 : (a.setPstate d p 2).fport d p = a.fport d p := setFld_fport ..
  generalize a.setPstate d p 2 = b at hw1 hregs1 hst1 hlow1 hport1
  have hw2 : b.within [.regs] ((b.setFld (fabKey d p FAB_PSTAT) 4 3 (widthCode w)).setFld (fabKey d p FAB_PSTAT) 7 3 f) :=
    within_setFld (List.Subset.refl _) (within_setFld (List.Subset.refl _) (within_refl b))
  have hregs2 : b.regsBut ((b.setFld (fabKey d p FAB_PSTAT) 4 3 (widthCode w)).setFld (fabKey d p FAB_PSTAT) 7 3 f) [fabKey d p FAB_PSTAT] :=
    regsBut_setFld (regsBut_setFld (regsBut_refl b _) List.mem_cons_self _ _ _) List.mem_cons_self _ _ _
  have hst2 : ((b.setFld (fabKey d p FAB_PSTAT) 4 3 (widthCode w)).setFld (fabKey d p FAB_PSTAT) 7 3 f).fld (fabKey d p FAB_PSTAT) 0 3 = b.fld (fabKey d p FAB_PSTAT) 0 3 :=
    (fld_setFld_apart _ _ (by decide) (.inl (by decide))).trans (fld_setFld_apart _ _ (by decide) (.inl (by decide)))
  have hwidth2 : ((b.setFld (fabKey d p FAB_PSTAT) 4 3 (widthCode w)).setFld (fabKey d p FAB_PSTAT) 7 3 f).fld (fabKey d p FAB_PSTAT) 4 3 = widthCode w :=
    (fld_setFld_apart _ _ (by decide) (.inl (by decide))).trans ((fld_setFld_same _ _ (by decide)).trans (Nat.mod_eq_of_lt (widthCode_lt w)))
  have hfirst2 : ((b.setFld (fabKey d p FAB_PSTAT) 4 3 (widthCode w)).setFld (fabKey d p FAB_PSTAT) 7 3 f).fld (fabKey d p FAB_PSTAT) 7 3 = f % 8 :=
    fld_setFld_same _ _ (by decide)
  have hlanes2 : ((b.setFld (fabKey d p FAB_PSTAT) 4 3 (widthCode w)).setFld (fabKey d p FAB_PSTAT) 7 3 f).fld (fabKey d p FAB_PSTAT) 10 8 = b.fld (fabKey d p FAB_PSTAT) 10 8 :=
    (fld_setFld_apart _ _ (by decide) (.inr (by decide))).trans (fld_setFld_apart _ _ (by decide) (.inr (by decide)))
  have hport2 : ((b.setFld (fabKey d p FAB_PSTAT) 4 3 (widthCode w)).setFld (fabKey d p FAB_PSTAT) 7 3 f).fport d p = a.fport d p :=
    (setFld_fport ..).trans ((setFld_fport ..).trans hport1)
  generalize (b.setFld (fabKey d p FAB_PSTAT) 4 3 (widthCode w)).setFld (fabKey d p FAB_PSTAT) 7 3 f = c at hw2 hregs2 hst2 hwidth2 hfirst2 hlanes2 hport2
  obtain ⟨hw3, hport3⟩ := resume_idle (s := c) (d := d) (p := p) (by rw [hport2]; exact hretry) (by rw [hport2]; exact hheld)
  generalize c.resume d p = t at hw3 hport3
  have hport' : t.fport d p = a.fport d p := hport3.trans hport2
  have hfld3 (lo w : Nat) : t.fld (fabKey d p FAB_PSTAT) lo w = c.fld (fabKey d p FAB_PSTAT) lo w := fld_of_regs hw3.1 (StartPhases.within_same hw3 .regs (by decide)) ..
  have hfld0 (lo w : Nat) : a.fld (fabKey d p FAB_PSTAT) lo w = s.fld (fabKey d p FAB_PSTAT) lo w := fld_of_regs hframe.1 (StartPhases.within_same hframe .regs (by decide)) ..
  have hstate : t.pstate d p = 2 := (hfld3 ..).trans (hst2.trans hst1)
  refine ⟨?_, ?_, hstate, (hfld3 ..).trans hwidth2, (hfld3 ..).trans hfirst2, ?_, ?_, by rw [hport']; exact hretry, by rw [hport']; exact hlseq, by rw [hport']; exact hcq,
    by rw [hport']; exact hcr⟩
  · exact within_trans (within_mono hframe (by decide)) (within_trans (within_mono hw1 (by decide)) (within_trans (within_mono hw2 (by decide)) (within_mono hw3 (by decide))))
  · exact regsBut_of_regs (regsBut_trans hregs0 (regsBut_trans hregs1 hregs2)) hw3.1 (StartPhases.within_same hw3 .regs (by decide))
  · exact (hfld3 ..).trans (hlanes2.trans ((hlow1 10 8 (by decide)).trans (hfld0 ..)))
  · unfold State.ethernet
    rw [hstate, if_pos (.inl rfl), hport', hether]

/-- Nothing retrains under the lane licence while none is in force. -/
theorem licRetrain_none (h : s.fld (ecKey LIC_STAT) 0 1 = 0) : s.licRetrain = s := by
  unfold State.licRetrain
  exact if_pos (.inl h)

theorem licence_of_regsBut {ks : List Nat} (h : s.regsBut t ks) (hk : ∀ k ∈ ks, 0x1000000 ≤ k) : t.fld (ecKey LIC_STAT) 0 1 = s.fld (ecKey LIC_STAT) 0 1 :=
  GddrDevices.fld_low h hk (by decide) ..

/-- Training that ends with a width. -/
theorem exec_trained {w f bad cq cr : Nat} {b8 : BitVec 8} (hb8 : b8.toNat = bad) (hwas : s.pstate d p = 1 ∨ s.pstate d p = 3) (hpend : (s.fport d p).pendDisable = false)
    (hlic : s.fld (ecKey LIC_STAT) 0 1 = 0) (hcfg : s.unconfigured d p = false)
    (hwidth : portWidth (s.fld (fabKey d p FAB_PSTAT) 10 8 ||| bad) 4 (2 ^ s.fld (fabKey d p FAB_PCFG) 2 2) = some (w, f)) (hb : bad < 2 ^ 8) :
    exec (.portRetrainDone d p b8 cq cr) s = .next (((s.markLanes d p bad).portUp d p (s.pstate d p) w f cq cr).licRetrain) := by
  have hm := markLanes_keeps (s := s) (d := d) (p := p) hb
  refine next_congr ?_
  rw [hb8]
  unfold State.trainDone
  dsimp only
  rw [if_neg (by omega), hpend, if_neg Bool.false_ne_true, hlic, if_neg (show (0 : Nat) ≠ 1 by decide), unconfigured_of_regsBut hm.keys, hcfg, if_neg Bool.false_ne_true, hm.lanes,
    fld_of_regsBut hm.keys (by simpa using fabKey_ne (by decide)), hwidth]

/-- Training that ends with no width. -/
theorem exec_lost {bad cq cr : Nat} {b8 : BitVec 8} (hb8 : b8.toNat = bad) (hwas : s.pstate d p = 1 ∨ s.pstate d p = 3) (hpend : (s.fport d p).pendDisable = false)
    (hlic : s.fld (ecKey LIC_STAT) 0 1 = 0) (hcfg : s.unconfigured d p = false)
    (hwidth : portWidth (s.fld (fabKey d p FAB_PSTAT) 10 8 ||| bad) 4 (2 ^ s.fld (fabKey d p FAB_PCFG) 2 2) = none) (hb : bad < 2 ^ 8) :
    exec (.portRetrainDone d p b8 cq cr) s = .next ((((((s.markLanes d p bad).setPstate d p 5).noWidth d p).fabRec 0x53 d p
      ((((s.markLanes d p bad).setPstate d p 5).noWidth d p).portDetail d p)).failPort d p 3).licRetrain) := by
  have hm := markLanes_keeps (s := s) (d := d) (p := p) hb
  refine next_congr ?_
  rw [hb8]
  unfold State.trainDone
  dsimp only
  rw [if_neg (by omega), hpend, if_neg Bool.false_ne_true, hlic, if_neg (show (0 : Nat) ≠ 1 by decide), unconfigured_of_regsBut hm.keys, hcfg, if_neg Bool.false_ne_true, hm.lanes,
    fld_of_regsBut hm.keys (by simpa using fabKey_ne (by decide)), hwidth]

/-- Where a native link begins anew: at a first link-up or after Ethernet framing. -/
theorem portUp_first {w f cq cr : Nat} : s.portUp d p 1 w f cq cr = risen (s.linkBegin d p cq cr) d p w f := by
  unfold State.portUp
  dsimp only
  rw [if_neg (show (1 : Nat) ≠ 3 by decide), if_pos (Or.inl rfl)]
  rfl

/-- Coming up out of a retrain, with its records. -/
theorem portUp_again {w f cq cr : Nat} {a : State} (ha : a = if (s.fport d p).ether ∧ s.fld (fabKey d p FAB_PCFG) 1 1 = 0 then s.linkBegin d p cq cr else s) :
    s.portUp d p 3 w f cq cr = if widthCode w < s.fld (fabKey d p FAB_PSTAT) 4 3
      then ((risen a d p w f).fabRec 0x51 d p ((risen a d p w f).portDetail d p)).fabRec 0x52 d p
        (((risen a d p w f).fabRec 0x51 d p ((risen a d p w f).portDetail d p)).portDetail d p)
      else (risen a d p w f).fabRec 0x51 d p ((risen a d p w f).portDetail d p) := by
  have hcond : (if (3 : Nat) = 1 ∨ ((s.fport d p).ether ∧ s.fld (fabKey d p FAB_PCFG) 1 1 = 0) then s.linkBegin d p cq cr else s) = a := by
    rw [ha]
    refine ite_congr (by simp) (fun _ => rfl) fun _ => rfl
  unfold State.portUp
  dsimp only
  rw [hcond, if_pos rfl]
  rfl

/-- A link that begins: its port alone changes. -/
theorem linkBegin_keeps (s : State) (d p cq cr : Nat) : s.within [.fports] (s.linkBegin d p cq cr) ∧
    (s.linkBegin d p cq cr).fport d p = { s.fport d p with retry := [], lseq := 0, lack := 0xFFF, crReq := cq, crRsp := cr, owedReq := 0, owedRsp := 0, due := false } :=
  ⟨within_setFport (List.Subset.refl _) (within_refl s), fport_setFport_same ..⟩

/-- A record of a port. -/
theorem fabRec_keeps (s : State) (cls d p detail : Nat) : s.within [.err] (s.fabRec cls d p detail) ∧ (s.fabRec cls d p detail).reg = s.reg ∧
    ∃ r, (s.fabRec cls d p detail).err.recQ = s.err.recQ ++ [r] ∧ r.cls = cls ∧ r.loc = .dieUnit d p := by
  obtain ⟨r, hq, hcls, hloc, -⟩ := SyncCounters.raise_record s cls (.dieUnit d p) detail none
  have hw : s.within [.err] (s.fabRec cls d p detail) := within_raise (List.Subset.refl _) (within_refl s)
  exact ⟨hw, funext fun k => reg_of_regs hw.1 (StartPhases.within_same hw .regs (by decide)) k, r, hq, hcls, hloc⟩

theorem fld_of_reg (h : t.reg = s.reg) (k lo w : Nat) : t.fld k lo w = s.fld k lo w := by
  unfold State.fld
  rw [h]

theorem pstate_of_regsBut {ks : List Nat} (h : s.regsBut t ks) (hk : fabKey d p FAB_PSTAT ∉ ks) : t.pstate d p = s.pstate d p := fld_of_regsBut h hk ..

theorem trained_first {w f cq cr : Nat} (hwas : s.pstate d p = 1) (hpend : (s.fport d p).pendDisable = false) (hheld : (s.fport d p).held = [])
    (hlic : s.fld (ecKey LIC_STAT) 0 1 = 0) (hcfg : s.unconfigured d p = false)
    (hwidth : portWidth (s.fld (fabKey d p FAB_PSTAT) 10 8) 4 (2 ^ s.fld (fabKey d p FAB_PCFG) 2 2) = some (w, f)) :
    ∃ t, exec (.portRetrainDone d p 0 cq cr) s = .next t ∧ t.pstate d p = 2 ∧ t.fld (fabKey d p FAB_PSTAT) 4 3 = widthCode w ∧ t.fld (fabKey d p FAB_PSTAT) 7 3 = f % 8 ∧
      t.fld (fabKey d p FAB_PSTAT) 10 8 = s.fld (fabKey d p FAB_PSTAT) 10 8 ∧ (t.fport d p).crReq = cq ∧ (t.fport d p).crRsp = cr ∧ (t.fport d p).retry = [] ∧ (t.fport d p).lseq = 0 ∧
      t.ethernet d p = (s.fld (fabKey d p FAB_PCFG) 1 1 == 1) ∧ s.regsBut t [fabKey d p FAB_PSTAT] ∧ t.err = s.err ∧ t.ctxs = s.ctxs := by
  have hm := markLanes_keeps (s := s) (d := d) (p := p) (bad := 0) (by decide)
  have herr := markLanes_none (s := s) (d := d) (p := p)
  have hexec := exec_trained (bad := 0) (b8 := 0) (cq := cq) (cr := cr) rfl (.inl hwas) hpend hlic hcfg (by rw [Nat.or_zero]; exact hwidth) (by decide)
  have hports : (s.markLanes d p 0).fports = s.fports := StartPhases.within_same hm.reach .fports (by decide)
  rw [hwas, portUp_first] at hexec
  generalize s.markLanes d p 0 = m at hm herr hexec hports
  obtain ⟨hwl, hlink⟩ := linkBegin_keeps m d p cq cr
  have hreg : (m.linkBegin d p cq cr).reg = m.reg := funext fun k => reg_of_regs hwl.1 (StartPhases.within_same hwl .regs (by decide)) k
  generalize m.linkBegin d p cq cr = a at hexec hwl hlink hreg
  have hup := risen_up (s := a) (d := d) (p := p) w f (by rw [hlink]) (by rw [hlink]; exact (congrArg FPort.held (FabricResponses.fport_of_fports hports ..)).trans hheld)
  generalize risen a d p w f = t at hexec hup
  have hkeys : s.regsBut t [fabKey d p FAB_PSTAT] := regsBut_trans hm.keys (regsBut_trans (regsBut_of_regs (regsBut_refl m _) hwl.1 (StartPhases.within_same hwl .regs (by decide))) hup.keys)
  rw [licRetrain_none ((licence_of_regsBut hkeys (by simpa using fabKey_high d p FAB_PSTAT)).trans hlic)] at hexec
  refine ⟨t, hexec, hup.state, hup.width, hup.first, ?_, hup.crReq.trans (by rw [hlink]), hup.crRsp.trans (by rw [hlink]), hup.retry, hup.lseq.trans (by rw [hlink]), ?_, hkeys, ?_, ?_⟩
  · rw [hup.lanes, fld_of_reg hreg, hm.lanes, Nat.or_zero]
  · rw [hup.framing, fld_of_reg hreg, fld_of_regsBut hm.keys (by simpa using fabKey_ne (by decide))]
  · exact (StartPhases.within_same hup.reach .err (by decide)).trans ((StartPhases.within_same hwl .err (by decide)).trans herr)
  · exact (StartPhases.within_same hup.reach .ctxs (by decide)).trans ((StartPhases.within_same hwl .ctxs (by decide)).trans (StartPhases.within_same hm.reach .ctxs (by decide)))

/-- A retrained port whose link is as `a` at the end: up with its records. -/
theorem trained_again {w f cq cr : Nat} (hwas : s.pstate d p = 3) (hpend : (s.fport d p).pendDisable = false)
    (hlic : s.fld (ecKey LIC_STAT) 0 1 = 0) (hcfg : s.unconfigured d p = false)
    (hwidth : portWidth (s.fld (fabKey d p FAB_PSTAT) 10 8) 4 (2 ^ s.fld (fabKey d p FAB_PCFG) 2 2) = some (w, f)) :
    ∃ m, s.within [.regs, .flash, .err] m ∧ s.regsBut m [fabKey d p FAB_PSTAT] ∧
      ∀ a, a = (if (m.fport d p).ether ∧ m.fld (fabKey d p FAB_PCFG) 1 1 = 0 then m.linkBegin d p cq cr else m) → m.within [.fports] a → (a.fport d p).retry = [] → (a.fport d p).held = [] →
        ∃ t r, exec (.portRetrainDone d p 0 cq cr) s = .next t ∧ t.pstate d p = 2 ∧ t.fld (fabKey d p FAB_PSTAT) 4 3 = widthCode w ∧
          t.ethernet d p = (s.fld (fabKey d p FAB_PCFG) 1 1 == 1) ∧ (t.fport d p).retry = [] ∧ (t.fport d p).lseq = (a.fport d p).lseq ∧
          (t.fport d p).crReq = (a.fport d p).crReq ∧ (t.fport d p).crRsp = (a.fport d p).crRsp ∧
          r ∈ t.err.recQ ∧ r.cls = 0x51 ∧ r.loc = .dieUnit d p ∧ (widthCode w < s.fld (fabKey d p FAB_PSTAT) 4 3 → ∃ q, q ∈ t.err.recQ ∧ q.cls = 0x52 ∧ q.loc = .dieUnit d p) := by
  have hm := markLanes_keeps (s := s) (d := d) (p := p) (bad := 0) (by decide)
  have hexec := exec_trained (bad := 0) (b8 := 0) (cq := cq) (cr := cr) rfl (.inr hwas) hpend hlic hcfg (by rw [Nat.or_zero]; exact hwidth) (by decide)
  generalize s.markLanes d p 0 = m at hm hexec
  refine ⟨m, hm.reach, hm.keys, fun a ha hwa hretry hheld => ?_⟩
  rw [hwas, portUp_again ha, hm.low 4 3 (by decide)] at hexec
  have hup := risen_up w f hretry hheld
  have hregs0 : m.regsBut a [fabKey d p FAB_PSTAT] := regsBut_of_regs (regsBut_refl m _) hwa.1 (StartPhases.within_same hwa .regs (by decide))
  have hframe : (risen a d p w f).ethernet d p = (s.fld (fabKey d p FAB_PCFG) 1 1 == 1) := by
    have hne : fabKey d p FAB_PCFG ∉ [fabKey d p FAB_PSTAT] := by simpa using fabKey_ne (by decide)
    rw [hup.framing, fld_of_regsBut hregs0 hne, fld_of_regsBut hm.keys hne]
  have hkeys : s.regsBut (risen a d p w f) [fabKey d p FAB_PSTAT] := regsBut_trans hm.keys (regsBut_trans hregs0 hup.keys)
  generalize risen a d p w f = b at hexec hup hframe hkeys
  have hlicb : b.fld (ecKey LIC_STAT) 0 1 = 0 := (licence_of_regsBut hkeys (by simpa using fabKey_high d p FAB_PSTAT)).trans hlic
  obtain ⟨hw1, hreg1, r, hq1, hcls1, hloc1⟩ := fabRec_keeps b 0x51 d p (b.portDetail d p)
  generalize b.fabRec 0x51 d p (b.portDetail d p) = v at hexec hw1 hreg1 hq1
  have hfp1 : v.fport d p = b.fport d p := FabricResponses.fport_of_fports (StartPhases.within_same hw1 .fports (by decide)) ..
  have hr1 : r ∈ v.err.recQ := by rw [hq1]; exact List.mem_append_right _ List.mem_cons_self
  /- the state that comes up with `q` as its records' end -/
  have hleft {t : State} (hreg : t.reg = b.reg) (hfp : t.fport d p = b.fport d p) : t.pstate d p = 2 ∧ t.fld (fabKey d p FAB_PSTAT) 4 3 = widthCode w ∧
      t.ethernet d p = (s.fld (fabKey d p FAB_PCFG) 1 1 == 1) ∧ (t.fport d p).retry = [] ∧ (t.fport d p).lseq = (a.fport d p).lseq ∧
      (t.fport d p).crReq = (a.fport d p).crReq ∧ (t.fport d p).crRsp = (a.fport d p).crRsp := by
    refine ⟨(fld_of_reg hreg ..).trans hup.state, (fld_of_reg hreg ..).trans hup.width, ?_, ?_⟩
    · rw [← hframe]
      unfold State.ethernet State.pstate
      rw [fld_of_reg hreg, fld_of_reg hreg, hfp]
    · rw [hfp]
      exact ⟨hup.retry, hup.lseq, hup.crReq, hup.crRsp⟩
  by_cases hn : widthCode w < s.fld (fabKey d p FAB_PSTAT) 4 3
  · rw [if_pos hn] at hexec
    obtain ⟨hw2, hreg2, q, hq2, hcls2, hloc2⟩ := fabRec_keeps v 0x52 d p (v.portDetail d p)
    generalize v.fabRec 0x52 d p (v.portDetail d p) = t at hexec hw2 hreg2 hq2
    rw [licRetrain_none ((fld_of_reg (hreg2.trans hreg1) ..).trans hlicb)] at hexec
    obtain ⟨h1, h2, h3, h4, h5, h6, h7⟩ := hleft (hreg2.trans hreg1) ((FabricResponses.fport_of_fports (StartPhases.within_same hw2 .fports (by decide)) ..).trans hfp1)
    exact ⟨t, r, hexec, h1, h2, h3, h4, h5, h6, h7, by rw [hq2]; exact List.mem_append_left _ hr1, hcls1, hloc1,
      fun _ => ⟨q, by rw [hq2]; exact List.mem_append_right _ List.mem_cons_self, hcls2, hloc2⟩⟩
  · rw [if_neg hn, licRetrain_none ((fld_of_reg hreg1 ..).trans hlicb)] at hexec
    obtain ⟨h1, h2, h3, h4, h5, h6, h7⟩ := hleft hreg1 hfp1
    exact ⟨v, r, hexec, h1, h2, h3, h4, h5, h6, h7, hr1, hcls1, hloc1, fun h => absurd h hn⟩

theorem trained_kept {w f cq cr : Nat} (hwas : s.pstate d p = 3) (hpend : (s.fport d p).pendDisable = false) (hheld : (s.fport d p).held = []) (hretry : (s.fport d p).retry = [])
    (hlic : s.fld (ecKey LIC_STAT) 0 1 = 0) (hkind : (s.fport d p).ether = false ∨ s.fld (fabKey d p FAB_PCFG) 1 1 = 1) (hcfg : s.unconfigured d p = false)
    (hwidth : portWidth (s.fld (fabKey d p FAB_PSTAT) 10 8) 4 (2 ^ s.fld (fabKey d p FAB_PCFG) 2 2) = some (w, f)) :
    ∃ t r, exec (.portRetrainDone d p 0 cq cr) s = .next t ∧ t.pstate d p = 2 ∧ t.fld (fabKey d p FAB_PSTAT) 4 3 = widthCode w ∧ (t.fport d p).crReq = (s.fport d p).crReq ∧
      r ∈ t.err.recQ ∧ r.cls = 0x51 ∧ r.loc = .dieUnit d p ∧ (widthCode w < s.fld (fabKey d p FAB_PSTAT) 4 3 → ∃ q, q ∈ t.err.recQ ∧ q.cls = 0x52 ∧ q.loc = .dieUnit d p) := by
  obtain ⟨m, hwm, hkeys, hup⟩ := trained_again (f := f) (cq := cq) (cr := cr) hwas hpend hlic hcfg hwidth
  have hfp : m.fport d p = s.fport d p := FabricResponses.fport_of_fports (StartPhases.within_same hwm .fports (by decide)) ..
  have hcond : ¬((m.fport d p).ether ∧ m.fld (fabKey d p FAB_PCFG) 1 1 = 0) := by
    rw [hfp, fld_of_regsBut hkeys (by simpa using fabKey_ne (by decide))]
    rintro ⟨he, hz⟩
    rcases hkind with h | h
    · exact Bool.false_ne_true (h.symm.trans he)
    · omega
  obtain ⟨t, r, hexec, hst, hwd, -, -, -, hcr, -, hrec⟩ := hup m (by rw [if_neg hcond]) (within_refl m) (by rw [hfp]; exact hretry) (by rw [hfp]; exact hheld)
  exact ⟨t, r, hexec, hst, hwd, hcr.trans (by rw [hfp]), hrec⟩

theorem trained_native {w f cq cr : Nat} (hwas : s.pstate d p = 3) (hpend : (s.fport d p).pendDisable = false) (hheld : (s.fport d p).held = [])
    (hlic : s.fld (ecKey LIC_STAT) 0 1 = 0) (hether : (s.fport d p).ether = true) (hnative : s.fld (fabKey d p FAB_PCFG) 1 1 = 0) (hcfg : s.unconfigured d p = false)
    (hwidth : portWidth (s.fld (fabKey d p FAB_PSTAT) 10 8) 4 (2 ^ s.fld (fabKey d p FAB_PCFG) 2 2) = some (w, f)) :
    ∃ t, exec (.portRetrainDone d p 0 cq cr) s = .next t ∧ t.pstate d p = 2 ∧ t.ethernet d p = false ∧ (t.fport d p).crReq = cq ∧ (t.fport d p).crRsp = cr ∧
      (t.fport d p).lseq = 0 ∧ (t.fport d p).retry = [] := by
  obtain ⟨m, hwm, hkeys, hup⟩ := trained_again (f := f) (cq := cq) (cr := cr) hwas hpend hlic hcfg hwidth
  have hfp : m.fport d p = s.fport d p := FabricResponses.fport_of_fports (StartPhases.within_same hwm .fports (by decide)) ..
  have hcond : (m.fport d p).ether ∧ m.fld (fabKey d p FAB_PCFG) 1 1 = 0 := by
    rw [hfp, fld_of_regsBut hkeys (by simpa using fabKey_ne (by decide))]
    exact ⟨hether, hnative⟩
  obtain ⟨hwl, hlink⟩ := linkBegin_keeps m d p cq cr
  obtain ⟨t, r, hexec, hst, -, heth, hre, hls, hcq, hcr, -⟩ := hup (m.linkBegin d p cq cr) (by rw [if_pos hcond]) hwl (by rw [hlink]) (by rw [hlink, hfp]; exact hheld)
  rw [hnative] at heth
  rw [hlink] at hls hcq hcr
  exact ⟨t, hexec, hst, heth, hcq, hcr, hls, hre⟩

/-! ### Ports that fail or go down -/

/-- A port with no context fails nothing. -/
theorem failPort_none (h : s.ctxs = []) (cause : Nat) : s.failPort d p cause = s := by
  unfold State.failPort
  rw [h]
  rfl

theorem noWidth_keeps (s : State) (d p : Nat) : s.within [.regs] (s.noWidth d p) ∧ s.regsBut (s.noWidth d p) [fabKey d p FAB_PSTAT] ∧ (s.noWidth d p).pstate d p = s.pstate d p ∧
    (s.noWidth d p).fld (fabKey d p FAB_PSTAT) 4 3 = 0 ∧ (s.noWidth d p).fld (fabKey d p FAB_PSTAT) 10 8 = s.fld (fabKey d p FAB_PSTAT) 10 8 :=
  ⟨within_setFld (List.Subset.refl _) (within_setFld (List.Subset.refl _) (within_refl s)),
    regsBut_setFld (regsBut_setFld (regsBut_refl s _) List.mem_cons_self _ _ _) List.mem_cons_self _ _ _,
    (fld_setFld_apart _ _ (by decide) (.inl (by decide))).trans (fld_setFld_apart _ _ (by decide) (.inl (by decide))),
    (fld_setFld_apart _ _ (by decide) (.inl (by decide))).trans (fld_setFld_same _ _ (by decide)),
    (fld_setFld_apart _ _ (by decide) (.inr (by decide))).trans (fld_setFld_apart _ _ (by decide) (.inr (by decide)))⟩

theorem width_lost {cq cr : Nat} {bad : BitVec 8} (hwas : s.pstate d p = 1 ∨ s.pstate d p = 3) (hpend : (s.fport d p).pendDisable = false)
    (hlic : s.fld (ecKey LIC_STAT) 0 1 = 0) (hctxs : s.ctxs = []) (hcfg : s.unconfigured d p = false)
    (hwidth : portWidth (s.fld (fabKey d p FAB_PSTAT) 10 8 ||| bad.toNat) 4 (2 ^ s.fld (fabKey d p FAB_PCFG) 2 2) = none) :
    ∃ t r, exec (.portRetrainDone d p bad cq cr) s = .next t ∧ t.pstate d p = 5 ∧ t.fld (fabKey d p FAB_PSTAT) 4 3 = 0 ∧
      t.fld (fabKey d p FAB_PSTAT) 10 8 = s.fld (fabKey d p FAB_PSTAT) 10 8 ||| bad.toNat ∧ r ∈ t.err.recQ ∧ r.cls = 0x53 ∧ r.loc = .dieUnit d p ∧ s.regsBut t [fabKey d p FAB_PSTAT] := by
  have hm := markLanes_keeps (s := s) (d := d) (p := p) bad.isLt
  have hexec := exec_lost (cq := cq) (cr := cr) rfl hwas hpend hlic hcfg hwidth bad.isLt
  generalize s.markLanes d p bad.toNat = m at hm hexec
  obtain ⟨hw1, hregs1, hst1, hlow1⟩ := setPstate_keeps m d p 5
  generalize m.setPstate d p 5 = a at hexec hw1 hregs1 hst1 hlow1
  obtain ⟨hw2, hregs2, hst2, hwd2, hlanes2⟩ := noWidth_keeps a d p
  generalize a.noWidth d p = b at hexec hw2 hregs2 hst2 hwd2 hlanes2
  obtain ⟨hw3, hreg3, r, hq3, hcls3, hloc3⟩ := fabRec_keeps b 0x53 d p (b.portDetail d p)
  generalize b.fabRec 0x53 d p (b.portDetail d p) = t at hexec hw3 hreg3 hq3
  have hall := within_trans hm.reach (within_trans (within_mono hw1 (by decide)) (within_trans (within_mono hw2 (by decide)) (within_mono hw3 (by decide))))
  rw [failPort_none ((StartPhases.within_same hall .ctxs (by decide)).trans hctxs)] at hexec
  have hkeys : s.regsBut t [fabKey d p FAB_PSTAT] :=
    regsBut_of_regs (regsBut_trans hm.keys (regsBut_trans hregs1 hregs2)) hw3.1 (StartPhases.within_same hw3 .regs (by decide))
  rw [licRetrain_none ((licence_of_regsBut hkeys (by simpa using fabKey_high d p FAB_PSTAT)).trans hlic)] at hexec
  refine ⟨t, r, hexec, (fld_of_reg hreg3 ..).trans (hst2.trans hst1), (fld_of_reg hreg3 ..).trans hwd2, ?_, by rw [hq3]; exact List.mem_append_right _ List.mem_cons_self, hcls3, hloc3, hkeys⟩
  rw [fld_of_reg hreg3, hlanes2, hlow1 10 8 (by decide), hm.lanes]

/-! ### EN of a port (R283, R311) -/

theorem enabled (hst : s.pstate d p = 0) :
    ∃ t, exec (.fabPortEnWrite d p true) s = .next t ∧ t.fld (fabKey d p FAB_PCFG) 0 1 = 1 ∧ s.regsBut t [fabKey d p FAB_PCFG, fabKey d p FAB_PSTAT] ∧
      if s.unconfigured d p then t.pstate d p = 4 ∧ ((s.fport d p).cfgLogged = false → s.logs t 0x5C (.dieUnit d p) 0) else t.pstate d p = 1 ∧ t.err = s.err := by
  have hexec : exec (.fabPortEnWrite d p true) s = .next ((s.setFld (fabKey d p FAB_PCFG) 0 1 1).trainPort d p 1) := by
    refine next_congr ?_
    unfold State.portEn
    dsimp only
    rw [if_pos rfl, if_pos rfl, if_pos hst]
  have hw0 : s.within [.regs] (s.setFld (fabKey d p FAB_PCFG) 0 1 1) := within_setFld (List.Subset.refl _) (within_refl s)
  have hregs0 : s.regsBut (s.setFld (fabKey d p FAB_PCFG) 0 1 1) [fabKey d p FAB_PCFG] := regsBut_setFld (regsBut_refl s _) List.mem_cons_self _ _ _
  have hen : (s.setFld (fabKey d p FAB_PCFG) 0 1 1).fld (fabKey d p FAB_PCFG) 0 1 = 1 := fld_setFld_same _ _ (by decide)
  have hcfg : (s.setFld (fabKey d p FAB_PCFG) 0 1 1).unconfigured d p = s.unconfigured d p := by
    have hid : (s.setFld (fabKey d p FAB_PCFG) 0 1 1).engineId d = s.engineId d := fld_of_regsBut hregs0 (by simpa using engineKey_ne (by decide)) ..
    have hframing : (s.setFld (fabKey d p FAB_PCFG) 0 1 1).fld (fabKey d p FAB_PCFG) 1 1 = s.fld (fabKey d p FAB_PCFG) 1 1 := fld_setFld_apart _ _ (by decide) (.inr (by decide))
    have htype : (s.setFld (fabKey d p FAB_PCFG) 0 1 1).fld (fabKey d p FAB_PETYPE) 0 16 = s.fld (fabKey d p FAB_PETYPE) 0 16 :=
      fld_of_regsBut hregs0 (by simpa using fabKey_ne (by decide)) ..
    unfold State.unconfigured
    rw [hid, hframing, htype]
  have hport0 : (s.setFld (fabKey d p FAB_PCFG) 0 1 1).fport d p = s.fport d p := setFld_fport ..
  generalize s.setFld (fabKey d p FAB_PCFG) 0 1 1 = a at hexec hw0 hregs0 hen hcfg hport0
  have hne : fabKey d p FAB_PCFG ∉ [fabKey d p FAB_PSTAT] := by simpa using fabKey_ne (by decide)
  /- the registers that either state leaves -/
  have hpair {u : State} (h : a.regsBut u [fabKey d p FAB_PSTAT]) : u.fld (fabKey d p FAB_PCFG) 0 1 = 1 ∧ s.regsBut u [fabKey d p FAB_PCFG, fabKey d p FAB_PSTAT] :=
    ⟨(fld_of_regsBut h hne ..).trans hen,
      regsBut_trans (fun k hk => hregs0 k fun h => hk (List.mem_singleton.1 h ▸ List.mem_cons_self)) fun k hk => h k fun h' => hk (List.mem_cons_of_mem _ h')⟩
  unfold State.trainPort at hexec
  dsimp only at hexec
  rw [hcfg] at hexec
  cases hun : s.unconfigured d p with
  | false =>
    rw [hun, if_neg Bool.false_ne_true] at hexec
    obtain ⟨hw1, hregs1, hst1, -⟩ := setPstate_keeps a d p 1
    obtain ⟨hen', hregs⟩ := hpair hregs1
    exact ⟨_, hexec, hen', hregs, hst1, (StartPhases.within_same hw1 .err (by decide)).trans (StartPhases.within_same hw0 .err (by decide))⟩
  | true =>
    rw [hun, if_pos rfl, hport0] at hexec
    obtain ⟨hw1, hregs1, hst1, -⟩ := setPstate_keeps a d p 4
    generalize a.setPstate d p 4 = b at hexec hw1 hregs1 hst1
    have hw2 : b.within [.fports] (b.setFport d p { s.fport d p with cfgLogged := true }) := within_setFport (List.Subset.refl _) (within_refl b)
    generalize b.setFport d p { s.fport d p with cfgLogged := true } = c at hexec hw2
    have hregs2 : a.regsBut c [fabKey d p FAB_PSTAT] := regsBut_of_regs hregs1 hw2.1 (StartPhases.within_same hw2 .regs (by decide))
    have hst2 : c.pstate d p = 4 := (fld_of_regs hw2.1 (StartPhases.within_same hw2 .regs (by decide)) ..).trans hst1
    have herr : c.err = s.err := (StartPhases.within_same hw2 .err (by decide)).trans ((StartPhases.within_same hw1 .err (by decide)).trans (StartPhases.within_same hw0 .err (by decide)))
    cases hlog : (s.fport d p).cfgLogged with
    | true =>
      rw [hlog, if_pos rfl] at hexec
      obtain ⟨hen', hregs⟩ := hpair hregs2
      exact ⟨_, hexec, hen', hregs, hst2, fun h => absurd h (by decide)⟩
    | false =>
      rw [hlog, if_neg Bool.false_ne_true] at hexec
      obtain ⟨hw3, hreg3, -⟩ := fabRec_keeps c 0x5C d p 0
      obtain ⟨hen', hregs⟩ := hpair (u := c.fabRec 0x5C d p 0) fun k hk => (congrFun hreg3 k).trans (hregs2 k hk)
      exact ⟨_, hexec, hen', hregs, (fld_of_reg hreg3 ..).trans hst2, fun _ => logs_raise (congrArg _ herr) ..⟩

theorem disabled (hst : s.pstate d p = 2) (hctxs : s.ctxs = []) :
    ∃ t, exec (.fabPortEnWrite d p false) s = .next t ∧ t.pstate d p = 0 ∧ t.fld (fabKey d p FAB_PCFG) 0 1 = 0 ∧ (t.fport d p).held = [] ∧
      s.regsBut t [fabKey d p FAB_PCFG, fabKey d p FAB_PSTAT] ∧ t.err = s.err := by
  have hexec : exec (.fabPortEnWrite d p false) s = .next ((s.setFld (fabKey d p FAB_PCFG) 0 1 0).portDown d p 0) := by
    refine next_congr ?_
    unfold State.portEn
    dsimp only
    rw [if_neg Bool.false_ne_true, if_neg Bool.false_ne_true, if_neg (by omega)]
  have hw0 : s.within [.regs] (s.setFld (fabKey d p FAB_PCFG) 0 1 0) := within_setFld (List.Subset.refl _) (within_refl s)
  have hregs0 : s.regsBut (s.setFld (fabKey d p FAB_PCFG) 0 1 0) [fabKey d p FAB_PCFG] := regsBut_setFld (regsBut_refl s _) List.mem_cons_self _ _ _
  have hen : (s.setFld (fabKey d p FAB_PCFG) 0 1 0).fld (fabKey d p FAB_PCFG) 0 1 = 0 := fld_setFld_same _ _ (by decide)
  generalize s.setFld (fabKey d p FAB_PCFG) 0 1 0 = a at hexec hw0 hregs0 hen
  unfold State.portDown at hexec
  have hw1 : a.within [.fports] (a.setFport d p { a.fport d p with pendDisable := false, held := [] }) := within_setFport (List.Subset.refl _) (within_refl a)
  have hheld : ((a.setFport d p { a.fport d p with pendDisable := false, held := [] }).fport d p).held = [] := by rw [fport_setFport_same]
  generalize a.setFport d p { a.fport d p with pendDisable := false, held := [] } = b at hexec hw1 hheld
  obtain ⟨hw2, hregs2, hst2, -⟩ := setPstate_keeps b d p 0
  generalize b.setPstate d p 0 = c at hexec hw2 hregs2 hst2
  obtain ⟨hw3, hregs3, hst3, -⟩ := noWidth_keeps c d p
  generalize c.noWidth d p = t at hexec hw3 hregs3 hst3
  have hall := within_trans (within_mono hw0 (show [Comp.regs] ⊆ [.regs, .fports] by decide)) (within_trans (within_mono hw1 (by decide)) (within_trans (within_mono hw2 (by decide)) (within_mono hw3 (by decide))))
  rw [failPort_none ((StartPhases.within_same hall .ctxs (by decide)).trans hctxs)] at hexec
  have hregs1 : a.regsBut t [fabKey d p FAB_PSTAT] :=
    regsBut_trans (regsBut_of_regs (regsBut_refl a _) hw1.1 (StartPhases.within_same hw1 .regs (by decide))) (regsBut_trans hregs2 hregs3)
  have hports : t.fports = b.fports := (StartPhases.within_same hw3 .fports (by decide)).trans (StartPhases.within_same hw2 .fports (by decide))
  refine ⟨t, hexec, hst3.trans hst2, (fld_of_regsBut hregs1 (by simpa using fabKey_ne (by decide)) ..).trans hen, (congrArg FPort.held (FabricResponses.fport_of_fports hports ..)).trans hheld, ?_,
    StartPhases.within_same hall .err (by decide)⟩
  exact regsBut_trans (fun k hk => hregs0 k fun h => hk (List.mem_singleton.1 h ▸ List.mem_cons_self)) fun k hk => hregs1 k fun h' => hk (List.mem_cons_of_mem _ h')

/-- Settles O38: lane marks, the coming up with what a link that begins anew takes, and the records each leave the port's other fields alone. -/
theorem fabPortsTrainAndFail : Obligations.FabPortsTrainAndFail :=
  ⟨fun s d p _ _ _ hst => ⟨⟨_, signal_lost hst, (retrained s d p).1, (retrained s d p).2⟩,
      ⟨_, retrain_commanded hst, (retrained s d p).1, (retrained s d p).2.1, (retrained s d p).2.2.1⟩, burst_retrains hst⟩,
    fun _ _ _ _ _ _ => burst_counted,
    fun _ _ _ _ _ _ _ => trained_first,
    fun _ _ _ _ _ _ _ => trained_kept,
    fun _ _ _ _ _ _ _ => trained_native,
    fun _ _ _ _ _ _ => width_lost,
    fun _ _ _ => enabled,
    fun _ _ _ => disabled⟩

end Sys2Proof.FabricPorts
end

section
/-! PROOFS. Host ports: links, event writes, vectors and ring stops (R324-R332). -/

namespace Sys2Proof.HostPorts

open Sys2Proof Sys2Proof.Machine Sys2Proof.Laws Sys2Proof.Clauses

variable {s t u : State} {p n : Nat}

/-! ### Reading ports and rings -/

theorem hport_setHport_other (s : State) {p q : Nat} (x : HPort) (h : q ≠ p) : (s.setHport p x).hport q = s.hport q := get_put_other _ _ _ h

theorem ring_setRing_other (s : State) {p n q m : Nat} (x : Ring) (h : 256 * q + m ≠ 256 * p + n) : (s.setRing p n x).ring q m = s.ring q m := get_put_other _ _ _ h

theorem hport_of_hports (h : t.hports = s.hports) (q : Nat) : t.hport q = s.hport q := congrArg (fun m => SMap.get m q HPort.reset) h

theorem ring_of_rings (h : t.rings = s.rings) (q m : Nat) : t.ring q m = s.ring q m := congrArg (fun m' => SMap.get m' (256 * q + m) Ring.reset) h

theorem pcieKey_ne {o o' : Nat} (h : o ≠ o') : State.pcieKey p o ≠ State.pcieKey p o' := by
  unfold State.pcieKey dieKey
  omega

/-- Changing every entry of a sparse map, the default's value being the default, changes what every key reads. -/
theorem get_map {α : Type} (f : Nat → α → α) (m : SMap α) (k : Nat) (d : α) (hd : f k d = d) :
    SMap.get (m.map fun e => (e.1, f e.1 e.2)) k d = f k (SMap.get m k d) := by
  induction m with
  | nil => exact hd.symm
  | cons e m ih =>
    obtain ⟨j, v⟩ := e
    by_cases hj : j = k
    · subst hj
      simp [SMap.get]
    · simpa [SMap.get, hj] using ih

/-! ### Links -/

/-- Every port's link and power state are as they were. -/
def SameLinks (s t : State) : Prop := ∀ q, (t.hport q).up = (s.hport q).up ∧ (t.hport q).d3hot = (s.hport q).d3hot

theorem SameLinks.refl (s : State) : SameLinks s s := fun _ => ⟨rfl, rfl⟩

theorem SameLinks.trans (h : SameLinks s t) (h' : SameLinks t u) : SameLinks s u := fun q => ⟨(h' q).1.trans (h q).1, (h' q).2.trans (h q).2⟩

theorem SameLinks.of_hports (h : t.hports = s.hports) : SameLinks s t := fun q => by
  rw [hport_of_hports h]
  exact ⟨rfl, rfl⟩

theorem SameLinks.of_within {ks : List Comp} (h : s.within ks t) (hk : Comp.hports ∉ ks) : SameLinks s t := .of_hports (StartPhases.within_same h .hports hk)

theorem SameLinks.setHport {x : HPort} (hup : x.up = (s.hport p).up) (hd : x.d3hot = (s.hport p).d3hot) : SameLinks s (s.setHport p x) := fun q => by
  by_cases hq : q = p
  · subst hq
    rw [hport_setHport_same]
    exact ⟨hup, hd⟩
  · rw [hport_setHport_other s x hq]
    exact ⟨rfl, rfl⟩

/-! ### Events and vectors -/

theorem links_evqPut (s : State) (p kind : Nat) (body : List Byte) : SameLinks s (s.evqPut p kind body) := by
  unfold State.evqPut
  dsimp only
  refine .trans (t := s.hostStore p (s.evqSlot p) (toLe 4 kind ++ toLe 4 (if (s.hport p).evqSeq = 0xFFFFFFFF then 1 else (s.hport p).evqSeq + 1) ++ body ++
    List.replicate (56 - body.length) 0) false) (.of_within (within_hostStore (List.Subset.refl _) (within_refl s)) (by decide)) ?_
  have hport : (s.hostStore p (s.evqSlot p) (toLe 4 kind ++ toLe 4 (if (s.hport p).evqSeq = 0xFFFFFFFF then 1 else (s.hport p).evqSeq + 1) ++ body ++
    List.replicate (56 - body.length) 0) false).hport p = s.hport p := hport_of_hports (StartPhases.within_same (within_hostStore (List.Subset.refl _) (within_refl s)) .hports (by decide)) p
  generalize s.hostStore p (s.evqSlot p) (toLe 4 kind ++ toLe 4 (if (s.hport p).evqSeq = 0xFFFFFFFF then 1 else (s.hport p).evqSeq + 1) ++ body ++
    List.replicate (56 - body.length) 0) false = a at hport
  exact .trans (.setHport (x := { s.hport p with evqSeq := if (s.hport p).evqSeq = 0xFFFFFFFF then 1 else (s.hport p).evqSeq + 1, batch := 2 }) (by rw [hport]) (by rw [hport]))
    (.of_within (within_incWrap (List.Subset.refl _) (within_refl _)) (by decide))

theorem links_evqLoss (s : State) (p : Nat) : SameLinks s (s.evqLoss p) := by
  unfold State.evqLoss
  split
  · refine .trans (.setHport (p := p) (x := { s.hport p with evqLostDue := false }) rfl rfl) (links_evqPut _ _ _ _)
  · exact .refl s

theorem links_evqWrite (s : State) (p kind : Nat) (body : List Byte) : SameLinks s (s.evqWrite p kind body) := by
  unfold State.evqWrite
  split
  · exact .refl s
  · refine .trans (links_evqLoss s p) ?_
    dsimp only
    generalize s.evqLoss p = a
    split
    · exact links_evqPut _ _ _ _
    · exact .trans (.of_within (within_incSat (List.Subset.refl _) (within_refl a)) (by decide)) (.setHport rfl rfl)

theorem links_event (s : State) (kind : Nat) (body : List Byte) : SameLinks s (s.event kind body) := by
  unfold State.event
  exact List.foldlRecOn (motive := SameLinks s) s.part.ports _ (.refl s) fun t ht p _ => ht.trans (links_evqWrite t p kind body)

theorem links_raiseVec (s : State) (p v : Nat) : SameLinks s (s.raiseVec p v) := by
  unfold State.raiseVec
  dsimp only
  split
  · exact .setHport rfl rfl
  · split
    · exact .of_within (within_emit (List.Subset.refl _) (within_refl s)) (by decide)
    · exact .refl s

/-! ### A ring stops (R328) -/

/-- A ring as it stands once it stopped for a cause. -/
def halted (r : Ring) (cause : Nat) : Ring := { r with stopped := true, cause := cause, cur := none, res := none, loading := false, dma := false }

/-- What a ring that stops leaves. -/
structure Stopped (s t : State) (p n cause : Nat) : Prop where
  reach : s.within [.regs, .mem, .rings, .hports, .err, .out] t
  rings : t.rings = SMap.put s.rings (256 * p + n) (halted (s.ring p n) cause)
  links : SameLinks s t
  record : ∃ r, t.err.recQ = s.err.recQ ++ [r] ∧ r.cls = 0x64 ∧ r.loc = .dieUnit (portDie p) n

theorem stopRing_keeps (s : State) (p n cause : Nat) : Stopped s (s.stopRing p n cause) p n cause := by
  have hall : s.within [.regs, .mem, .rings, .hports, .err, .out] (s.stopRing p n cause) := within_stopRing (List.Subset.refl _) (within_refl s)
  unfold State.stopRing at hall ⊢
  dsimp only at hall ⊢
  have hset : s.setRing p n { s.ring p n with stopped := true, cause := cause, cur := none, res := none, loading := false, dma := false } =
      s.setRing p n (halted (s.ring p n) cause) := rfl
  rw [hset] at hall ⊢
  have hl0 : SameLinks s (s.setRing p n (halted (s.ring p n) cause)) := .of_within (within_setRing (List.Subset.refl _) (within_refl s)) (by decide)
  have hr0 : (s.setRing p n (halted (s.ring p n) cause)).rings = SMap.put s.rings (256 * p + n) (halted (s.ring p n) cause) := rfl
  have he0 : (s.setRing p n (halted (s.ring p n) cause)).err = s.err := StartPhases.within_same (within_setRing (List.Subset.refl _) (within_refl s)) .err (by decide)
  generalize s.setRing p n (halted (s.ring p n) cause) = a at hl0 hr0 he0 hall ⊢
  obtain ⟨r, hq, hcls, hloc, -⟩ := SyncCounters.raise_record a 0x64 (State.portLoc p n) (cause + n * 2 ^ 8 + p * 2 ^ 16 + (s.ring p n).ci * 2 ^ 32) none
  have hw1 : a.within [.err] (a.raise 0x64 (State.portLoc p n) (cause + n * 2 ^ 8 + p * 2 ^ 16 + (s.ring p n).ci * 2 ^ 32) none) := within_raise (List.Subset.refl _) (within_refl a)
  generalize a.raise 0x64 (State.portLoc p n) (cause + n * 2 ^ 8 + p * 2 ^ 16 + (s.ring p n).ci * 2 ^ 32) none = b at hq hw1 hall ⊢
  have hw2 : b.within [.regs, .mem, .hports, .out] (b.event 5 (toLe 2 n ++ toLe 2 cause ++ toLe 2 (s.ring p n).ci)) := within_event (List.Subset.refl _) (within_refl b)
  have hl2 := links_event b 5 (toLe 2 n ++ toLe 2 cause ++ toLe 2 (s.ring p n).ci)
  generalize b.event 5 (toLe 2 n ++ toLe 2 cause ++ toLe 2 (s.ring p n).ci) = c at hw2 hl2 hall ⊢
  have hlc : SameLinks s c := hl0.trans (.trans (.of_within hw1 (by decide)) hl2)
  have hrc : c.rings = SMap.put s.rings (256 * p + n) (halted (s.ring p n) cause) :=
    (StartPhases.within_same hw2 .rings (by decide)).trans ((StartPhases.within_same hw1 .rings (by decide)).trans hr0)
  have hec : ∃ r, c.err.recQ = s.err.recQ ++ [r] ∧ r.cls = 0x64 ∧ r.loc = .dieUnit (portDie p) n :=
    ⟨r, by rw [StartPhases.within_same hw2 .err (by decide), hq, he0], hcls, hloc⟩
  by_cases hirq : (s.ring p n).irqEn = true
  · rw [if_pos hirq] at hall ⊢
    have hw3 : c.within [.hports, .out] (c.raiseVec p n) := within_raiseVec (List.Subset.refl _) (within_refl c)
    refine ⟨hall, (StartPhases.within_same hw3 .rings (by decide)).trans hrc, hlc.trans (links_raiseVec _ _ _), ?_⟩
    rw [StartPhases.within_same hw3 .err (by decide)]
    exact hec
  · rw [if_neg hirq] at hall ⊢
    exact ⟨hall, hrc, hlc, hec⟩

theorem Stopped.ring {cause : Nat} (h : Stopped s t p n cause) : t.ring p n = halted (s.ring p n) cause := (congrArg (fun m => SMap.get m (256 * p + n) Ring.reset) h.rings).trans (get_put_same ..)

theorem Stopped.other {cause q m : Nat} (h : Stopped s t p n cause) (hne : 256 * q + m ≠ 256 * p + n) : t.ring q m = s.ring q m :=
  (congrArg (fun m' => SMap.get m' (256 * q + m) Ring.reset) h.rings).trans (get_put_other _ _ _ hne)

end Sys2Proof.HostPorts
end

section
/-! PROOFS. Host links: link-up, loss, recovery, configuration requests and the resets of a port (R314, R315, R333-R337). -/

namespace Sys2Proof.HostLinks

open Sys2Proof Sys2Proof.Machine Sys2Proof.Laws Sys2Proof.Clauses Sys2Proof.HostPorts

variable {s t u : State} {p n : Nat}

/-! ### Link-up and recovery (R314) -/

/-- PCIE_LINK as it shows a rate and a width. -/
theorem link_shows {speed width : Nat} (hs : speed < 8) (hw : width < 32) :
    bits (BitVec.ofNat 64 (speed + width * 8)).toNat 0 3 = speed ∧ bits (BitVec.ofNat 64 (speed + width * 8)).toNat 3 5 = width := by
  rw [BitVec.toNat_ofNat, Nat.mod_eq_of_lt (by omega : speed + width * 8 < 2 ^ 64)]
  unfold bits
  omega

theorem linkDetail_up (speed width p : Nat) : State.linkDetail speed width p 0 = speed + width * 2 ^ 3 + p * 2 ^ 9 := by
  unfold State.linkDetail
  omega

theorem linkDetail_recovered (speed width p : Nat) : State.linkDetail speed width p 1 = speed + width * 2 ^ 3 + 2 ^ 8 + p * 2 ^ 9 := by
  unfold State.linkDetail
  omega

theorem link_comes_up {speed width : Nat} (hport : s.part.ports.contains p = true) (hperst : (s.hport p).perst = false) (hpow : (s.hport p).powered = true) (hup : (s.hport p).up = false)
    (hlo : 5 ≤ speed) (hhi : speed ≤ 7) (hwidth : width ∈ [1, 2, 4, 8, 16]) :
    ∃ t, exec (.pcieLinkUp p speed width) s = .next t ∧ t.hport p = { s.hport p with up := true, upSince := s.now, d3hot := false } ∧
      t.fld (State.pcieKey p PCIE_LINK) 0 3 = speed ∧ t.fld (State.pcieKey p PCIE_LINK) 3 5 = width ∧ s.regsBut t [State.pcieKey p PCIE_LINK] ∧
      (∀ q, q ≠ p → t.hport q = s.hport q) ∧ t.rings = s.rings ∧
      if speed < 7 ∨ width < 16 then s.logs t 0x60 (.dieUnit (portDie p) p) (speed + width * 2 ^ 3 + p * 2 ^ 9) else t.err = s.err := by
  have hw : width < 32 := by
    simp only [List.mem_cons, List.not_mem_nil, or_false] at hwidth
    omega
  have hcond : (!s.part.ports.contains p || (s.hport p).perst || !(s.hport p).powered || (s.hport p).up || decide (speed < 5) || decide (7 < speed) ||
      !([1, 2, 4, 8, 16].contains width)) = false := by
    rw [hport, hperst, hpow, hup, List.contains_iff_mem.2 hwidth, decide_eq_false (Nat.not_lt.2 hlo), decide_eq_false (Nat.not_lt.2 hhi)]
    rfl
  have hexec : exec (.pcieLinkUp p speed width) s = .next (if speed < 7 ∨ width < 16
      then ((s.setHport p { s.hport p with up := true, upSince := s.now, d3hot := false }).setReg (State.pcieKey p PCIE_LINK) (BitVec.ofNat 64 (speed + width * 8))).raise 0x60
        (State.portLoc p p) (State.linkDetail speed width p 0) none
      else (s.setHport p { s.hport p with up := true, upSince := s.now, d3hot := false }).setReg (State.pcieKey p PCIE_LINK) (BitVec.ofNat 64 (speed + width * 8))) := by
    refine next_congr ?_
    unfold State.linkUp
    dsimp only
    rw [hcond, if_neg Bool.false_ne_true]
  have hsame := hport_setHport_same s p { s.hport p with up := true, upSince := s.now, d3hot := false }
  have hother := fun q (h : q ≠ p) => hport_setHport_other s { s.hport p with up := true, upSince := s.now, d3hot := false } h
  have hw0 : s.within [.hports] (s.setHport p { s.hport p with up := true, upSince := s.now, d3hot := false }) := within_setHport (List.Subset.refl _) (within_refl s)
  generalize s.setHport p { s.hport p with up := true, upSince := s.now, d3hot := false } = a at hexec hsame hother hw0
  have hw1 : a.within [.regs] (a.setReg (State.pcieKey p PCIE_LINK) (BitVec.ofNat 64 (speed + width * 8))) := within_setReg (List.Subset.refl _) (within_refl a)
  obtain ⟨hrate, hwide⟩ := link_shows (speed := speed) (by omega) hw
  rw [← fld_setReg_same a (State.pcieKey p PCIE_LINK)] at hrate hwide
  have hregs : s.regsBut (a.setReg (State.pcieKey p PCIE_LINK) (BitVec.ofNat 64 (speed + width * 8))) [State.pcieKey p PCIE_LINK] :=
    regsBut_setReg (regsBut_of_regs (regsBut_refl s _) hw0.1 (StartPhases.within_same hw0 .regs (by decide))) List.mem_cons_self _
  generalize a.setReg (State.pcieKey p PCIE_LINK) (BitVec.ofNat 64 (speed + width * 8)) = b at hexec hw1 hrate hwide hregs
  have herr : b.err = s.err := (StartPhases.within_same hw1 .err (by decide)).trans (StartPhases.within_same hw0 .err (by decide))
  have hports (q : Nat) : b.hport q = a.hport q := hport_of_hports (StartPhases.within_same hw1 .hports (by decide)) q
  have hrings : b.rings = s.rings := (StartPhases.within_same hw1 .rings (by decide)).trans (StartPhases.within_same hw0 .rings (by decide))
  by_cases hless : speed < 7 ∨ width < 16
  · rw [if_pos hless] at hexec
    have hw2 : b.within [.err] (b.raise 0x60 (State.portLoc p p) (State.linkDetail speed width p 0) none) := within_raise (List.Subset.refl _) (within_refl b)
    have hlogs : s.logs (b.raise 0x60 (State.portLoc p p) (State.linkDetail speed width p 0) none) 0x60 (State.portLoc p p) (State.linkDetail speed width p 0) :=
      logs_raise (congrArg _ herr) ..
    rw [linkDetail_up] at hlogs hw2 hexec
    generalize b.raise 0x60 (State.portLoc p p) (speed + width * 2 ^ 3 + p * 2 ^ 9) none = t at hexec hw2 hlogs
    have hregs2 : t.regs = b.regs := StartPhases.within_same hw2 .regs (by decide)
    have hports2 (q : Nat) : t.hport q = a.hport q := (hport_of_hports (StartPhases.within_same hw2 .hports (by decide)) q).trans (hports q)
    exact ⟨t, hexec, (hports2 p).trans hsame, (fld_of_regs hw2.1 hregs2 ..).trans hrate, (fld_of_regs hw2.1 hregs2 ..).trans hwide, regsBut_of_regs hregs hw2.1 hregs2,
      fun q h => (hports2 q).trans (hother q h), (StartPhases.within_same hw2 .rings (by decide)).trans hrings, (if_pos hless).mpr hlogs⟩
  · rw [if_neg hless] at hexec
    exact ⟨b, hexec, (hports p).trans hsame, hrate, hwide, hregs, fun q h => (hports q).trans (hother q h), hrings, (if_neg hless).mpr herr⟩

theorem link_recovers {speed width : Nat} (hup : (s.hport p).up = true) (hs : speed < 8) (hw : width < 32)
    (hlast : ∀ v, (s.hport p).lastRecovery = some v → v + 1000000000 ≤ s.now) :
    ∃ t, exec (.pcieLinkRecovery p speed width) s = .next t ∧ t.fld (State.pcieKey p PCIE_LINK) 0 3 = speed ∧ t.fld (State.pcieKey p PCIE_LINK) 3 5 = width ∧
      s.regsBut t [State.pcieKey p PCIE_LINK] ∧ (t.hport p).up = true ∧ s.logs t 0x60 (.dieUnit (portDie p) p) (speed + width * 2 ^ 3 + 2 ^ 8 + p * 2 ^ 9) ∧ t.rings = s.rings := by
  have hsoon : (match (s.hport p).lastRecovery with | some t => decide (s.now < t + 1000000000) | none => false) = false := by
    cases h : (s.hport p).lastRecovery with
    | none => rfl
    | some v => exact decide_eq_false (Nat.not_lt.2 (hlast v h))
  have hexec : exec (.pcieLinkRecovery p speed width) s = .next (((s.setReg (State.pcieKey p PCIE_LINK) (BitVec.ofNat 64 (speed + width * 8))).setHport p
      { s.hport p with lastRecovery := some s.now }).raise 0x60 (State.portLoc p p) (speed + width * 2 ^ 3 + 2 ^ 8 + p * 2 ^ 9) none) := by
    refine next_congr ?_
    rw [← linkDetail_recovered]
    unfold State.linkRecovery
    dsimp only
    rw [hup, Bool.not_true, if_neg Bool.false_ne_true]
    exact if_neg fun h => Bool.false_ne_true (hsoon.symm.trans h)
  have hw0 : s.within [.regs] (s.setReg (State.pcieKey p PCIE_LINK) (BitVec.ofNat 64 (speed + width * 8))) := within_setReg (List.Subset.refl _) (within_refl s)
  obtain ⟨hrate, hwide⟩ := link_shows hs hw
  rw [← fld_setReg_same s (State.pcieKey p PCIE_LINK)] at hrate hwide
  have hregs : s.regsBut (s.setReg (State.pcieKey p PCIE_LINK) (BitVec.ofNat 64 (speed + width * 8))) [State.pcieKey p PCIE_LINK] :=
    regsBut_setReg (regsBut_refl s _) List.mem_cons_self _
  generalize s.setReg (State.pcieKey p PCIE_LINK) (BitVec.ofNat 64 (speed + width * 8)) = a at hexec hw0 hrate hwide hregs
  have hw1 : a.within [.hports] (a.setHport p { s.hport p with lastRecovery := some s.now }) := within_setHport (List.Subset.refl _) (within_refl a)
  have hport := hport_setHport_same a p { s.hport p with lastRecovery := some s.now }
  generalize a.setHport p { s.hport p with lastRecovery := some s.now } = b at hexec hw1 hport
  have herr : b.err = s.err := (StartPhases.within_same hw1 .err (by decide)).trans (StartPhases.within_same hw0 .err (by decide))
  have hw2 : b.within [.err] (b.raise 0x60 (State.portLoc p p) (speed + width * 2 ^ 3 + 2 ^ 8 + p * 2 ^ 9) none) := within_raise (List.Subset.refl _) (within_refl b)
  have hlogs := logs_raise (s := s) (congrArg _ herr) 0x60 (State.portLoc p p) (speed + width * 2 ^ 3 + 2 ^ 8 + p * 2 ^ 9) none
  generalize b.raise 0x60 (State.portLoc p p) (speed + width * 2 ^ 3 + 2 ^ 8 + p * 2 ^ 9) none = t at hexec hw2 hlogs
  have hregs2 : t.regs = a.regs := (StartPhases.within_same hw2 .regs (by decide)).trans (StartPhases.within_same hw1 .regs (by decide))
  have hpart2 : t.part = a.part := hw2.1.trans hw1.1
  refine ⟨t, hexec, (fld_of_regs hpart2 hregs2 ..).trans hrate, (fld_of_regs hpart2 hregs2 ..).trans hwide, regsBut_of_regs hregs hpart2 hregs2, ?_, hlogs, ?_⟩
  · rw [hport_of_hports (StartPhases.within_same hw2 .hports (by decide)), hport]
    exact hup
  · exact (StartPhases.within_same hw2 .rings (by decide)).trans ((StartPhases.within_same hw1 .rings (by decide)).trans (StartPhases.within_same hw0 .rings (by decide)))

/-! ### Registers and rings of a port that is reset (R334, R335) -/

theorem reg_dropReg (s : State) (k j : Nat) : (s.dropReg k).reg j = if j = k then regReset s.part k else s.reg j := reg_setReg ..

/-- The registers that a link loss and a Function Level Reset return to reset. -/
def portDrops : List Nat := [PCIE_CTRL, PCIE_EVQ_BASE, PCIE_EVQ_SIZE, PCIE_EVQ_PI, PCIE_EVQ_CI, PCIE_EVQ_STAT]

theorem dropped (l : List Nat) (s : State) (p : Nat) : s.within [.regs] (l.foldl (fun t o => t.dropReg (State.pcieKey p o)) s) ∧
    (∀ o ∈ l, (l.foldl (fun t o => t.dropReg (State.pcieKey p o)) s).reg (State.pcieKey p o) = regReset s.part (State.pcieKey p o)) ∧
    ∀ k, (∀ o ∈ l, k ≠ State.pcieKey p o) → (l.foldl (fun t o => t.dropReg (State.pcieKey p o)) s).reg k = s.reg k := by
  induction l generalizing s with
  | nil => exact ⟨within_refl s, fun _ h => absurd h List.not_mem_nil, fun _ _ => rfl⟩
  | cons o l ih =>
    have hw0 : s.within [.regs] (s.dropReg (State.pcieKey p o)) := within_setReg (List.Subset.refl _) (within_refl s)
    have hreg := reg_dropReg s (State.pcieKey p o)
    rw [List.foldl_cons]
    generalize s.dropReg (State.pcieKey p o) = a at hw0 hreg
    obtain ⟨hw1, hin, hout⟩ := ih a
    refine ⟨within_trans hw0 hw1, fun o' h => ?_, fun k hk => ?_⟩
    · by_cases hl : o' ∈ l
      · rw [hin o' hl, hw0.1]
      · obtain rfl : o' = o := (List.mem_cons.1 h).resolve_right hl
        rw [hout _ fun q hq => pcieKey_ne fun e => hl (by rw [e]; exact hq), hreg, if_pos rfl]
    · rw [hout k fun q hq => hk q (List.mem_cons_of_mem _ hq), hreg, if_neg (hk o List.mem_cons_self)]

/-- What the registers and tables of a port that is reset leave. -/
theorem portRegs_keeps (s : State) (p : Nat) : s.within [.regs, .hports] (s.portRegs p) ∧
    (∀ o ∈ portDrops, (s.portRegs p).reg (State.pcieKey p o) = regReset s.part (State.pcieKey p o)) ∧
    (∀ k, (∀ o ∈ portDrops, k ≠ State.pcieKey p o) → (s.portRegs p).reg k = s.reg k) ∧
    (s.portRegs p).hport p = { s.hport p with evqSeq := 0, evqLostDue := false, msix := [], pba := [], msixEn := false, msixMask := false, batch := 0 } ∧
    ∀ q, q ≠ p → (s.portRegs p).hport q = s.hport q := by
  obtain ⟨hw, hin, hout⟩ := dropped portDrops s p
  have hports (q : Nat) : (portDrops.foldl (fun t o => t.dropReg (State.pcieKey p o)) s).hport q = s.hport q := hport_of_hports (StartPhases.within_same hw .hports (by decide)) q
  refine ⟨within_portRegs (List.Subset.refl _) (within_refl s), ?_⟩
  have hdef : s.portRegs p = (portDrops.foldl (fun t o => t.dropReg (State.pcieKey p o)) s).setHport p
      { s.hport p with evqSeq := 0, evqLostDue := false, msix := [], pba := [], msixEn := false, msixMask := false, batch := 0 } := rfl
  rw [hdef]
  generalize portDrops.foldl (fun t o => t.dropReg (State.pcieKey p o)) s = a at hin hout hports
  exact ⟨fun o ho => (setHport_reg ..).trans (hin o ho), fun k hk => (setHport_reg ..).trans (hout k hk), hport_setHport_same ..,
    fun q hq => (hport_setHport_other _ _ hq).trans (hports q)⟩

theorem clearEn_keeps (s : State) (p : Nat) : s.within [.rings] (s.clearEn p) ∧ ∀ n, n < 256 → (s.clearEn p).ring p n = { s.ring p n with en := false, dma := false } := by
  refine ⟨within_clearEn (List.Subset.refl _) (within_refl s), fun n hn => ?_⟩
  have hmap : (s.clearEn p).ring p n = if (256 * p + n) / 256 = p then { s.ring p n with en := false, dma := false } else s.ring p n := by
    have h := get_map (fun k (r : Ring) => if k / 256 = p then { r with en := false, dma := false } else r) s.rings (256 * p + n) Ring.reset (by split <;> rfl)
    refine Eq.trans ?_ h
    refine congrArg (fun m => SMap.get m (256 * p + n) Ring.reset) (List.map_congr_left fun e _ => ?_)
    dsimp only
    split <;> rfl
  rw [hmap, if_pos (by omega)]

/-- What rings that stop, or none, leave. -/
structure RingsStop (s t : State) : Prop where
  reach : s.within [.regs, .mem, .rings, .hports, .err, .out] t
  links : SameLinks s t
  records : ∃ l, t.err.recQ = s.err.recQ ++ l

theorem RingsStop.refl (s : State) : RingsStop s s := ⟨within_refl s, .refl s, [], (List.append_nil _).symm⟩

theorem RingsStop.trans (h : RingsStop s t) (h' : RingsStop t u) : RingsStop s u := by
  obtain ⟨l, hl⟩ := h.records
  obtain ⟨l', hl'⟩ := h'.records
  exact ⟨within_trans h.reach h'.reach, h.links.trans h'.links, l ++ l', by rw [hl', hl, List.append_assoc]⟩

/-- The rings of a port stop as their numbers are met. -/
def stopEach (p : Nat) (l : List Nat) (s : State) : State := l.foldl (fun t n => if (t.ring p n).en && !(t.ring p n).stopped then t.stopRing p n 5 else t) s

theorem stopEach_keeps (p : Nat) (l : List Nat) (s : State) : RingsStop s (stopEach p l s) ∧ ∀ n, n ∉ l → (stopEach p l s).ring p n = s.ring p n := by
  induction l generalizing s with
  | nil => exact ⟨.refl s, fun _ _ => rfl⟩
  | cons m l ih =>
    have hstep : RingsStop s (if (s.ring p m).en && !(s.ring p m).stopped then s.stopRing p m 5 else s) ∧
        ∀ n, n ≠ m → (if (s.ring p m).en && !(s.ring p m).stopped then s.stopRing p m 5 else s).ring p n = s.ring p n := by
      split
      · have h := stopRing_keeps s p m 5
        obtain ⟨r, hr, -⟩ := h.record
        exact ⟨⟨h.reach, h.links, [r], hr⟩, fun n hn => h.other (by omega)⟩
      · exact ⟨.refl s, fun _ _ => rfl⟩
    unfold stopEach at ih ⊢
    rw [List.foldl_cons]
    generalize (if (s.ring p m).en && !(s.ring p m).stopped then s.stopRing p m 5 else s) = a at hstep
    obtain ⟨hkeep, hring⟩ := ih a
    refine ⟨hstep.1.trans hkeep, fun n hn => ?_⟩
    rw [hring n fun h => hn (List.mem_cons_of_mem _ h), hstep.2 n fun h => hn (h ▸ List.mem_cons_self)]

/-- With no ring enabled none stops. -/
theorem stopRings_idle (h : ∀ n, n < 256 → (s.ring p n).en = false) : s.stopRings p = s := by
  have hnone (l : List Nat) (hl : ∀ n ∈ l, n < 256) : stopEach p l s = s := by
    induction l with
    | nil => rfl
    | cons m l ih =>
      unfold stopEach at ih ⊢
      rw [List.foldl_cons, h m (hl m List.mem_cons_self), Bool.false_and, if_neg Bool.false_ne_true]
      exact ih fun n hn => hl n (List.mem_cons_of_mem _ hn)
  exact hnone _ fun n hn => List.mem_range.1 hn

/-- A running ring stops with cause 5. -/
theorem stopRings_stops (hn : n < 256) (hen : (s.ring p n).en = true) (hrun : (s.ring p n).stopped = false) :
    RingsStop s (s.stopRings p) ∧ (s.stopRings p).ring p n = halted (s.ring p n) 5 ∧ ∃ r ∈ (s.stopRings p).err.recQ, r.cls = 0x64 ∧ r.loc = .dieUnit (portDie p) n := by
  obtain ⟨l1, l2, hl⟩ := List.append_of_mem (List.mem_range.2 hn)
  have hnd : (l1 ++ n :: l2).Nodup := hl ▸ List.nodup_range
  have hn1 : n ∉ l1 := fun h => (List.disjoint_of_nodup_append hnd) h List.mem_cons_self
  have hn2 : n ∉ l2 := (List.nodup_cons.1 (List.nodup_append.1 hnd).2.1).1
  have hfold : s.stopRings p = stopEach p l2 ((fun t : State => if (t.ring p n).en && !(t.ring p n).stopped then t.stopRing p n 5 else t) (stopEach p l1 s)) := by
    unfold State.stopRings stopEach
    rw [hl, List.foldl_append, List.foldl_cons]
  obtain ⟨hk1, hr1⟩ := stopEach_keeps p l1 s
  generalize stopEach p l1 s = a at hfold hk1 hr1
  dsimp only at hfold
  rw [hr1 n hn1, hen, hrun, Bool.not_false, Bool.and_self, if_pos rfl] at hfold
  have hstop := stopRing_keeps a p n 5
  generalize a.stopRing p n 5 = b at hfold hstop
  obtain ⟨hk2, hr2⟩ := stopEach_keeps p l2 b
  rw [hfold]
  generalize stopEach p l2 b = t at hk2 hr2
  obtain ⟨r, hr, hcls, hloc⟩ := hstop.record
  obtain ⟨l, hl2⟩ := hk2.records
  refine ⟨(hk1.trans ⟨hstop.reach, hstop.links, [r], hr⟩).trans hk2, ?_, r, ?_, hcls, hloc⟩
  · rw [hr2 n hn2, hstop.ring, hr1 n hn1]
  · rw [hl2, hr]
    simp

theorem portDie_lt (p : Nat) : portDie p < 8 := by
  unfold portDie
  split <;> decide

theorem reset_evqPi (q : Part) (p : Nat) : regReset q (State.pcieKey p PCIE_EVQ_PI) = 0 := by
  have hd := portDie_lt p
  have hunit : State.pcieKey p PCIE_EVQ_PI / 0x1000000 = 1 + portDie p := by unfold State.pcieKey dieKey PCIE_EVQ_PI; omega
  have hoff : State.pcieKey p PCIE_EVQ_PI % 0x1000000 = PCIE_EVQ_PI := by unfold State.pcieKey dieKey PCIE_EVQ_PI; omega
  have hrows : unitRows (1 + portDie p) = dieRows := by rw [unitRows, if_neg (by omega), if_pos (by omega)]
  have hrow : findRow dieRows PCIE_EVQ_PI = some (⟨PCIE_EVQ_PI, 0, 1, false, [⟨0, 17, .ro, 0⟩]⟩, false) := by decide
  have hpart : partReset q (State.pcieKey p PCIE_EVQ_PI) = 0 := WholeMachine.partReset_dieKey q (portDie p) (by decide) (by decide)
  have hfound : findRow (unitRows (State.pcieKey p PCIE_EVQ_PI / 0x1000000)) (State.pcieKey p PCIE_EVQ_PI % 0x1000000) =
      some (⟨PCIE_EVQ_PI, 0, 1, false, [⟨0, 17, .ro, 0⟩]⟩, false) := by rw [hunit, hoff, hrows, hrow]
  exact (WholeMachine.regReset_of_row hfound hpart).trans rfl

theorem link_goes_down (hup : (s.hport p).up = true) (hidle : ∀ n, n < 256 → (s.ring p n).en = false) :
    ∃ t, exec (.pcieLinkDown p) s = .next t ∧ (t.hport p).up = false ∧ (t.hport p).msix = [] ∧ (t.hport p).pba = [] ∧ t.reg (State.pcieKey p PCIE_LINK) = 0 ∧
      t.reg (State.pcieKey p PCIE_CTRL) = regReset s.part (State.pcieKey p PCIE_CTRL) ∧ t.reg (State.pcieKey p PCIE_EVQ_PI) = 0 ∧ s.logs t 0x69 (.dieUnit (portDie p) p) 0 ∧
      (∀ q, q ≠ p → t.hport q = s.hport q) ∧ t.mem = s.mem ∧ t.jobs = s.jobs := by
  have hexec : exec (.pcieLinkDown p) s = .next ((((s.setHport p { s.hport p with up := false, d3hot := false }).setReg (State.pcieKey p PCIE_LINK) 0).raise 0x69
      (State.portLoc p p) 0 none).portReset p) := by
    refine next_congr ?_
    unfold State.linkDown
    dsimp only
    rw [hup, Bool.not_true, if_neg Bool.false_ne_true]
  have hw0 : s.within [.hports] (s.setHport p { s.hport p with up := false, d3hot := false }) := within_setHport (List.Subset.refl _) (within_refl s)
  have hsame := hport_setHport_same s p { s.hport p with up := false, d3hot := false }
  have hother := fun q (h : q ≠ p) => hport_setHport_other s { s.hport p with up := false, d3hot := false } h
  generalize s.setHport p { s.hport p with up := false, d3hot := false } = a at hexec hw0 hsame hother
  have hw1 : a.within [.regs] (a.setReg (State.pcieKey p PCIE_LINK) 0) := within_setReg (List.Subset.refl _) (within_refl a)
  have hlink : (a.setReg (State.pcieKey p PCIE_LINK) 0).reg (State.pcieKey p PCIE_LINK) = 0 := by rw [reg_setReg, if_pos rfl]
  generalize a.setReg (State.pcieKey p PCIE_LINK) 0 = b at hexec hw1 hlink
  have hw2 : b.within [.err] (b.raise 0x69 (State.portLoc p p) 0 none) := within_raise (List.Subset.refl _) (within_refl b)
  have herr : b.err = s.err := (StartPhases.within_same hw1 .err (by decide)).trans (StartPhases.within_same hw0 .err (by decide))
  have hlogs := logs_raise (s := s) (congrArg _ herr) 0x69 (State.portLoc p p) 0 none
  generalize b.raise 0x69 (State.portLoc p p) 0 none = c at hexec hw2 hlogs
  have hring (n : Nat) : c.ring p n = s.ring p n := ring_of_rings ((StartPhases.within_same hw2 .rings (by decide)).trans ((StartPhases.within_same hw1 .rings (by decide)).trans
    (StartPhases.within_same hw0 .rings (by decide)))) p n
  unfold State.portReset at hexec
  rw [stopRings_idle fun n hn => (congrArg Ring.en (hring n)).trans (hidle n hn)] at hexec
  obtain ⟨hw3, -⟩ := clearEn_keeps c p
  generalize c.clearEn p = e at hexec hw3
  obtain ⟨hw4, hin, hout, hp4, hq4⟩ := portRegs_keeps e p
  generalize e.portRegs p = t at hexec hw4 hin hout hp4 hq4
  have hall : s.within [.regs, .mem, .rings, .hports, .err, .out] t := within_trans (within_mono hw0 (by decide)) (within_trans (within_mono hw1 (by decide))
    (within_trans (within_mono hw2 (by decide)) (within_trans (within_mono hw3 (by decide)) (within_mono hw4 (by decide)))))
  have hpart : e.part = s.part := hw3.1.trans (hw2.1.trans (hw1.1.trans hw0.1))
  have hports (q : Nat) : e.hport q = a.hport q := hport_of_hports ((StartPhases.within_same hw3 .hports (by decide)).trans ((StartPhases.within_same hw2 .hports (by decide)).trans
    (StartPhases.within_same hw1 .hports (by decide)))) q
  refine ⟨t, hexec, ?_, by rw [hp4], by rw [hp4], ?_, (hin _ (by decide)).trans (by rw [hpart]), (hin _ (by decide)).trans (reset_evqPi ..), ?_, ?_, ?_,
    StartPhases.within_same hall .jobs (by decide)⟩
  · rw [hp4, hports p, hsame]
  · rw [hout _ fun o ho => pcieKey_ne fun e => absurd (e ▸ ho) (by decide), reg_of_regs (hw3.1.trans hw2.1)
      ((StartPhases.within_same hw3 .regs (by decide)).trans (StartPhases.within_same hw2 .regs (by decide)))]
    exact hlink
  · exact logs_of_err hlogs (by rw [StartPhases.within_same hw4 .err (by decide), StartPhases.within_same hw3 .err (by decide)])
  · intro q hq
    rw [hq4 q hq, hports q, hother q hq]
  · exact (StartPhases.within_same hw4 .mem (by decide)).trans ((StartPhases.within_same hw3 .mem (by decide)).trans ((StartPhases.within_same hw2 .mem (by decide)).trans
      ((StartPhases.within_same hw1 .mem (by decide)).trans (StartPhases.within_same hw0 .mem (by decide)))))

theorem function_resets (hn : n < 256) (hen : (s.ring p n).en = true) (hrun : (s.ring p n).stopped = false) :
    ∃ t r, exec (.functionLevelReset p) s = .next t ∧ (t.ring p n).en = false ∧ (t.ring p n).stopped = true ∧ (t.ring p n).cause = 5 ∧ (t.ring p n).ci = (s.ring p n).ci ∧
      (t.ring p n).cur = none ∧ r ∈ t.err.recQ ∧ r.cls = 0x64 ∧ r.loc = .dieUnit (portDie p) n ∧ (t.hport p).msix = [] ∧
      t.reg (State.pcieKey p PCIE_CTRL) = regReset s.part (State.pcieKey p PCIE_CTRL) ∧ (t.hport p).up = (s.hport p).up ∧ t.jobs = s.jobs ∧ t.cells = s.cells := by
  have hexec : exec (.functionLevelReset p) s = .next (((s.stopRings p).clearEn p).portRegs p) := rfl
  obtain ⟨hk, hring, r, hr, hcls, hloc⟩ := stopRings_stops hn hen hrun
  generalize s.stopRings p = a at hexec hk hring hr
  obtain ⟨hw1, hclear⟩ := clearEn_keeps a p
  have hring1 := (hclear n hn).trans (congrArg (fun x : Ring => { x with en := false, dma := false }) hring)
  generalize a.clearEn p = b at hexec hw1 hclear hring1
  obtain ⟨hw2, hin, -, hp2, -⟩ := portRegs_keeps b p
  generalize b.portRegs p = t at hexec hw2 hin hp2
  have hring2 : t.ring p n = { halted (s.ring p n) 5 with en := false, dma := false } := (ring_of_rings (StartPhases.within_same hw2 .rings (by decide)) p n).trans hring1
  have hall := within_trans hk.reach (within_trans (within_mono hw1 (by decide)) (within_mono hw2 (by decide)))
  have hquiet : t.err = a.err := (StartPhases.within_same hw2 .err (by decide)).trans (StartPhases.within_same hw1 .err (by decide))
  refine ⟨t, r, hexec, ?_, ?_, ?_, ?_, ?_, by rw [hquiet]; exact hr, hcls, hloc, by rw [hp2], (hin _ (by decide)).trans (by rw [hw1.1, hk.reach.1]), ?_,
    StartPhases.within_same hall .jobs (by decide), StartPhases.within_same hall .cells (by decide)⟩
  · rw [hring2]
  · rw [hring2]; rfl
  · rw [hring2]; rfl
  · rw [hring2]; rfl
  · rw [hring2]; rfl
  · rw [hp2]
    exact (congrArg HPort.up (hport_of_hports (StartPhases.within_same hw1 .hports (by decide)) p)).trans (hk.links p).1

/-! ### Configuration requests (R315) -/

theorem config_retried {r : CfgReg} {v : Option Nat} (hup : (s.hport p).up = true) (h : s.now < (s.hport p).upSince + 100000000) :
    exec (.pcieConfigRequest p r v) s = .next (s.emit (.cfgRetry p)) := by
  refine next_congr ?_
  unfold State.configReq
  dsimp only
  rw [hup, Bool.not_true, if_neg Bool.false_ne_true, if_pos h]

theorem config_read {r : CfgReg} (hup : (s.hport p).up = true) (h : (s.hport p).upSince + 100000000 ≤ s.now) :
    exec (.pcieConfigRequest p r none) s = .next (s.emit (.hostCpl p true false (s.configShows p r))) := by
  refine next_congr ?_
  unfold State.configReq
  dsimp only
  rw [hup, Bool.not_true, if_neg Bool.false_ne_true, if_neg (Nat.not_lt.2 h)]

/-- What a configuration write sets of a port. -/
theorem configSet_keeps (x : HPort) (r : CfgReg) (w : Nat) : (State.configSet x r w).up = x.up ∧
    (State.configSet x r w).d3hot = (if r = .power ∧ w % 4 = 3 then true else if r = .power ∧ w % 4 = 0 then false else x.d3hot) ∧
    (State.configSet x r w).msixEn = (if r = .msix then bit w 1 else x.msixEn) ∧ (State.configSet x r w).mps = (if r = .payload then State.sizeOf w 512 else x.mps) ∧
    (State.configSet x r w).mrrs = (if r = .readRequest then State.sizeOf w 4096 else x.mrrs) := by
  cases r with
  | power =>
    unfold State.configSet
    dsimp only
    split
    · next h => simp [h]
    · next h =>
      split
      · next h' => simp [h']
      · next h' => simp [h, h']
  | _ => exact ⟨rfl, rfl, rfl, rfl, rfl⟩

theorem config_written {r : CfgReg} {w : Nat} (hup : (s.hport p).up = true) (h : (s.hport p).upSince + 100000000 ≤ s.now) (hpba : (s.hport p).pba = []) :
    ∃ t, exec (.pcieConfigRequest p r (some w)) s = .next t ∧ t.out = .hostCpl p true false [] :: s.out ∧ t.regs = s.regs ∧ t.err = s.err ∧ (t.hport p).up = true ∧
      (t.hport p).d3hot = (if r = .power ∧ w % 4 = 3 then true else if r = .power ∧ w % 4 = 0 then false else (s.hport p).d3hot) ∧
      (t.hport p).msixEn = (if r = .msix then bit w 1 else (s.hport p).msixEn) ∧ (t.hport p).mps = (if r = .payload then State.sizeOf w 512 else (s.hport p).mps) ∧
      (t.hport p).mrrs = (if r = .readRequest then State.sizeOf w 4096 else (s.hport p).mrrs) := by
  have hexec : exec (.pcieConfigRequest p r (some w)) s = .next ((s.setHport p (State.configSet (s.hport p) r w)).emit (.hostCpl p true false [])) := by
    refine next_congr ?_
    unfold State.configReq
    dsimp only
    rw [hup, Bool.not_true, if_neg Bool.false_ne_true, if_neg (Nat.not_lt.2 h), hpba]
    rfl
  obtain ⟨hkup, hkeep⟩ := configSet_keeps (s.hport p) r w
  have hport : ((s.setHport p (State.configSet (s.hport p) r w)).emit (.hostCpl p true false [])).hport p = State.configSet (s.hport p) r w := hport_setHport_same ..
  refine ⟨_, hexec, rfl, rfl, rfl, ?_, ?_⟩
  · rw [hport]
    exact hkup.trans hup
  · rw [hport]
    exact hkeep

/-! ### PERST# (R336) -/

theorem portCold_keeps (s : State) (p : Nat) : (s.portCold p).hports = s.hports ∧ (∀ n, n < 256 → (s.portCold p).ring p n = Ring.reset) ∧
    (∀ o, 0x60000 ≤ o → o < 0x70000 → (s.portCold p).reg (State.pcieKey p o) = regReset s.part (State.pcieKey p o)) ∧ (s.portCold p).jobs = s.jobs ∧ (s.portCold p).cells = s.cells := by
  refine ⟨rfl, fun n hn => ?_, fun o hlo hhi => ?_, rfl, rfl⟩
  · refine StartPhases.get_filter_of_dropped (fun v => ?_) ..
    have hq : (256 * p + n) / 256 = p := by omega
    simp [hq]
  · refine StartPhases.get_filter_of_dropped (fun v => ?_) ..
    have h1 : State.pcieKey p 0x60000 ≤ State.pcieKey p o := by unfold State.pcieKey dieKey; omega
    have h2 : State.pcieKey p o < State.pcieKey p 0x70000 := by unfold State.pcieKey dieKey; omega
    simp [h1, h2]

theorem perst_asserted (hport : s.part.ports.contains p = true) (hperst : (s.hport p).perst = false) :
    ∃ t, exec (.perstAssert p) s = .next t ∧ t.hport p = { HPort.reset with powered := (s.hport p).powered } ∧ (∀ n, n < 256 → t.ring p n = Ring.reset) ∧
      (∀ o, 0x60000 ≤ o → o < 0x70000 → t.reg (State.pcieKey p o) = regReset s.part (State.pcieKey p o)) ∧
      ((∀ n, n < 256 → (s.ring p n).en = false) → ∀ q, q ≠ p → t.hport q = s.hport q) ∧ t.jobs = s.jobs ∧ t.cells = s.cells := by
  have hexec : exec (.perstAssert p) s = .next (((if (s.hport p).up = true then s.linkDown p else s).portCold p).setHport p { HPort.reset with powered := (s.hport p).powered }) := by
    refine next_congr ?_
    unfold State.perst
    dsimp only
    rw [hperst, hport, Bool.not_true, Bool.or_self, if_neg Bool.false_ne_true]
  have hdown : s.within [.regs, .mem, .rings, .hports, .err, .out] (if (s.hport p).up = true then s.linkDown p else s) := by
    split
    · exact within_linkDown (List.Subset.refl _) (within_refl s)
    · exact within_refl s
  have hothers : (∀ n, n < 256 → (s.ring p n).en = false) → ∀ q, q ≠ p → (if (s.hport p).up = true then s.linkDown p else s).hport q = s.hport q := fun hidle q hq => by
    by_cases hup : (s.hport p).up = true
    · rw [if_pos hup]
      obtain ⟨t, ht, -, -, -, -, -, -, -, hq', -⟩ := link_goes_down hup hidle
      have heq : s.linkDown p = t := Host.Outcome.next.inj ht
      rw [heq, hq' q hq]
    · rw [if_neg hup]
  generalize (if (s.hport p).up = true then s.linkDown p else s) = a at hexec hdown hothers
  obtain ⟨hports, hrings, hregs, hjobs, hcells⟩ := portCold_keeps a p
  generalize a.portCold p = b at hexec hports hrings hregs hjobs hcells
  refine ⟨_, hexec, hport_setHport_same .., fun n hn => hrings n hn, fun o hlo hhi => (hregs o hlo hhi).trans (by rw [hdown.1]), fun hidle q hq => ?_,
    hjobs.trans (StartPhases.within_same hdown .jobs (by decide)), hcells.trans (StartPhases.within_same hdown .cells (by decide))⟩
  rw [hport_setHport_other _ _ hq, hport_of_hports hports, hothers hidle q hq]

/-- Settles O39: a port's loss and resets stop its rings one by one, each leaving the links of all ports, and return its registers to their reset values. -/
theorem hostLinksTrainFailAndReset : Obligations.HostLinksTrainFailAndReset :=
  ⟨fun _ _ _ _ => link_comes_up,
    fun _ _ => link_goes_down,
    fun _ _ _ => function_resets,
    fun _ _ _ _ => link_recovers,
    fun _ _ _ _ _ hup => ⟨config_retried hup, fun h => ⟨config_read hup h, show toLe 3 0x120000 = [0, 0, 0x12] by decide, config_written hup h⟩⟩,
    fun _ _ => ⟨perst_asserted, _, rfl, hport_setHport_same .., fun _ hq => hport_setHport_other _ _ hq, rfl, rfl⟩⟩

end Sys2Proof.HostLinks
end

section
/-! PROOFS. A host port's accesses to scratchpad (R318, R319, R330). -/

namespace Sys2Proof.HostAccesses

open Sys2Proof Sys2Proof.Machine Sys2Proof.Laws Sys2Proof.Clauses Sys2Proof.FabricFrames Sys2Proof.Scratchpad
open Sys2Proof.Machine.State (covered wordsOf lineCount partLines)

variable {s t v w : State} {p c off ga len : Nat}

/-! ### Poisoned runs -/

/-- A write of whole words every one of which is poisoned stores each of them as poison. -/
theorem meshWrite_poisoned {n port : Nat} {fw : Bool} {bs : List Byte} {pois : List Nat} (struck : Option Nat) (ho : off % 8 = 0) (hlen : bs.length = 8 * n)
    (hp : ∀ k, k < n → k ∈ pois) (h : s.spmCheckRun c off bs.length port fw = none) : ∃ t, s.meshWrite c off bs pois struck = (t, true) ∧
      StoresWords s t c off n (fun _ => 0) fun _ => 0xFF := by
  refine ⟨(wordsOf off bs.length).foldl (fun t o => t.poisonWord c o) (s.act c 1 (lineCount off bs.length + partLines off bs pois)),
    MeshRuns.foldl_flagged (fun t o hin => ?_) _, ?_⟩
  · rw [hlen, WordRuns.wordsOf_whole ho] at hin
    obtain ⟨j, hj, rfl⟩ := List.mem_map.1 hin
    rw [List.mem_range] at hj
    have hcov := WordRuns.length_covered (bs := bs) (Nat.le_add_right off (8 * j)) (show off + 8 * j + 8 ≤ off + bs.length by omega)
    have hany : ((covered off (off + 8 * j) bs).any fun q => pois.contains ((off + 8 * j + q.1 - off) / 8)) = true := by
      obtain ⟨q, hq⟩ := List.exists_mem_of_length_pos (Nat.lt_of_lt_of_eq (by decide : 0 < 8) hcov.symm)
      refine List.any_eq_true.2 ⟨q, hq, List.contains_iff_mem.2 (hp _ ?_)⟩
      obtain ⟨i, hi, hi'⟩ := List.mem_filterMap.1 hq
      have hi8 := List.mem_range.1 hi
      have hqi : q.1 = i := by
        split at hi'
        · obtain ⟨b, -, hb⟩ := Option.map_eq_some_iff.1 hi'
          exact congrArg Prod.fst hb.symm
        · cases hi'
      omega
    simp only [hany, if_true]
  · rw [hlen] at h ⊢
    rw [WordRuns.wordsOf_whole ho, List.foldl_map]
    cases n with
    | zero => exact StoresWords.act ..
    | succ n =>
      have htop := MeshRuns.top_of_spmCheckRun ho (Nat.succ_ne_zero n) h
      have hfold (k : Nat) (hk : k ≤ n + 1) (a : State) (ha : StoresWords s a c off 0 (fun _ => 0) fun _ => 0xFF) :
          StoresWords s ((List.range k).foldl (fun t j => t.poisonWord c (off + 8 * j)) a) c off k (fun _ => 0) fun _ => 0xFF := by
        induction k with
        | zero => exact ha
        | succ k ih =>
          rw [List.range_succ, List.foldl_append, List.foldl_cons, List.foldl_nil]
          exact (ih (by omega)).putWord ho (by omega)
      exact hfold _ (Nat.le_refl _) _ (.act ..)

theorem judge_poison : judge 0 0xFF = .poison := by decide

/-! ### Reads -/

theorem hostGet_spm (hout : s.carryOut (portDie p) (.host p) ga len false = (v, 0)) (ht : v.target ga = .spm c off)
    (hchk : v.spmCheckRun c off len 4 false = none) (hgood : ∀ j, j < len → judge (v.wordAt c (off + j)) (v.chkAt c (off + j)) = .good)
    (hback : (v.meshRead c off len).1.carryBack (portDie p) (.host p) ga len false = (w, 0)) : s.hostGet p ga len = (w, v.bytes (spmKey c off) len, [], 0) := by
  have hread := MeshRuns.meshRead_good hgood
  unfold State.hostGet
  refine carried_arrives (r := (v.bytes (spmKey c off) len, [], 0)) hout ?_ hback
  simp only [ht, hchk, hread, if_true]

/-- A read of good scratchpad words: nothing but the regions' activity and the fates given changes. -/
theorem dmaRead_spm (hga : bits ga 44 4 = 1) (hout : s.carryOut (portDie p) (.host p) ga len false = (v, 0)) (ht : v.target ga = .spm c off)
    (hchk : v.spmCheckRun c off len 4 false = none) (hgood : ∀ j, j < len → judge (v.wordAt c (off + j)) (v.chkAt c (off + j)) = .good)
    (hback : (v.meshRead c off len).1.carryBack (portDie p) (.host p) ga len false = (w, 0)) :
    s.dmaRead p ga len = (w, s.bytes (spmKey c off) len, [], 0) ∧ s.within [.regions, .fates] w := by
  have hw1 := carryOut_arrives hout
  have hpart := hostGet_spm hout ht hchk hgood hback
  rw [MeshRuns.meshRead_good hgood] at hback
  have hact : v.within [.regions, .fates] (v.act c 1 (lineCount off len)) := within_act (by decide) (within_refl v)
  refine ⟨?_, within_trans hw1 (within_trans hact (carryBack_arrives hback))⟩
  unfold State.dmaRead
  rw [agentPieces_spm hga, List.foldl_cons, List.foldl_nil]
  simp only [Nat.add_zero, hpart, List.nil_append, List.map_nil]
  rw [GddrAccesses.bytes_of_mem (StartPhases.within_same hw1 .mem (by decide))]
  rfl

/-! ### Writes -/

theorem hostPut_spm {u : State} {ep ok : Bool} {data : List Byte} {pois : List Nat} (hpois : pois = if ep then List.range ((data.length + 7) / 8 + 1) else [])
    (hout : s.carryOut (portDie p) (.host p) ga data.length true = (v, 0)) (ht : v.target ga = .spm c off) (hchk : v.spmCheckRun c off data.length 4 false = none)
    (hwr : v.meshWrite c off data pois none = (u, ok)) (hback : u.carryBack (portDie p) (.host p) ga data.length true = (w, 0)) :
    s.hostPut p ga data ep = (w, if ok then 0 else 2) := by
  subst hpois
  unfold State.hostPut
  refine carried_arrives (r := if ok then 0 else 2) hout ?_ hback
  simp only [ht, hchk, hwr]

theorem dmaWrite_one {ep ok : Bool} {data : List Byte} (hga : bits ga 44 4 = 1) (h : s.hostPut p ga data ep = (w, if ok then 0 else 2)) :
    s.dmaWrite p ga data ep = (w, if ok then 0 else 2) := by
  unfold State.dmaWrite
  rw [agentPieces_spm hga, List.foldl_cons, List.foldl_nil]
  simp only [Nat.add_zero, List.drop_zero, List.take_length, h]
  cases ok <;> rfl

/-- A write of whole words: they are stored with fresh check bits. -/
theorem dmaWrite_spm {data : List Byte} (hga : bits ga 44 4 = 1) (ho : off % 8 = 0) (hlen : data.length % 8 = 0)
    (hout : s.carryOut (portDie p) (.host p) ga data.length true = (v, 0)) (ht : v.target ga = .spm c off) (hchk : v.spmCheckRun c off data.length 4 false = none)
    (hback : (v.meshWrite c off data [] none).1.carryBack (portDie p) (.host p) ga data.length true = (w, 0)) :
    s.dmaWrite p ga data false = (w, 0) ∧ ∃ u, MeshRequests.Landed v u c off data ∧ s.within [.regions, .fates] v ∧ u.within [.regions, .fates] w := by
  obtain ⟨u, hwr, hland⟩ := MeshRequests.landed_meshWrite none ho hlen hchk
  rw [hwr] at hback
  exact ⟨dmaWrite_one (ok := true) hga (hostPut_spm rfl hout ht hchk hwr hback), u, hland, carryOut_arrives hout, carryBack_arrives hback⟩

/-- A write of whole words with EP set: they are stored as poison. -/
theorem dmaWrite_poisoned {data : List Byte} (hga : bits ga 44 4 = 1) (ho : off % 8 = 0) (hlen : data.length % 8 = 0)
    (hout : s.carryOut (portDie p) (.host p) ga data.length true = (v, 0)) (ht : v.target ga = .spm c off) (hchk : v.spmCheckRun c off data.length 4 false = none)
    (hback : (v.meshWrite c off data (List.range ((data.length + 7) / 8 + 1)) none).1.carryBack (portDie p) (.host p) ga data.length true = (w, 0)) :
    s.dmaWrite p ga data true = (w, 0) ∧ ∃ u, StoresWords v u c off (data.length / 8) (fun _ => 0) (fun _ => 0xFF) ∧ s.within [.regions, .fates] v ∧ u.within [.regions, .fates] w := by
  obtain ⟨u, hwr, hstores⟩ := meshWrite_poisoned (n := data.length / 8) (pois := List.range ((data.length + 7) / 8 + 1)) none ho (by omega)
    (fun k hk => List.mem_range.2 (by omega)) hchk
  rw [hwr] at hback
  exact ⟨dmaWrite_one (ok := true) hga (hostPut_spm rfl hout ht hchk hwr hback), u, hstores, carryOut_arrives hout, carryBack_arrives hback⟩

end Sys2Proof.HostAccesses
end

section
/-! PROOFS. Host memory traffic: BAR2 accesses, outbound requests, vectors and event rings (R318-R323, R331-R333). -/

namespace Sys2Proof.HostTraffic

open Sys2Proof Sys2Proof.Machine Sys2Proof.Laws Sys2Proof.Clauses Sys2Proof.HostPorts Sys2Proof.HostAccesses

variable {s t v w : State} {p c o off ga len : Nat}

/-! ### BAR2 (R318, R319) -/

theorem fates_same (h : s.fates = []) : { s with fates := [] } = s := by
  cases s
  simp only at h
  rw [h]

theorem port_of_open (h : s.barOpen p = true) : s.part.ports.contains p = true ∧ (s.hport p).up = true := by
  unfold State.barOpen State.portOpen at h
  simp only [Bool.and_eq_true] at h
  exact ⟨h.1, h.2.1⟩

theorem good_ecrc (s : State) (p : Nat) : s.ecrcBad p true = false := rfl

theorem withFates_none (hf : s.fates = []) (act : State → State) : s.withFates [] act = { act s with fates := [] } := by
  unfold State.withFates
  rw [fates_same hf]

theorem hostRead_ready (hopen : s.barOpen p = true) (hready : s.ready = true) : s.hostRead p 2 off len = s.bar2Read p off len := by
  obtain ⟨hport, hup⟩ := port_of_open hopen
  unfold State.hostRead
  rw [hport, hup, hopen, hready, Bool.not_true, Bool.or_self, if_neg Bool.false_ne_true, if_neg Bool.false_ne_true, if_neg (show (2 : Nat) ≠ 0 by decide), if_pos rfl]

theorem hostWrite_ready {ep : Bool} {data : List Byte} (hopen : s.barOpen p = true) (hready : s.ready = true) : s.hostWrite p 2 off data ep = s.bar2Write p off data ep := by
  unfold State.hostWrite
  rw [hopen, hready, Bool.not_true, if_neg Bool.false_ne_true, if_neg (show (2 : Nat) ≠ 0 by decide), if_pos rfl]

/-- A read through BAR2 of a port that takes memory requests. -/
theorem exec_read (hopen : s.barOpen p = true) (hf : s.fates = []) (hready : s.ready = true) :
    exec (.hostBarRead p 2 off len true []) s = .next { s.bar2Read p off len with fates := [] } := by
  refine next_congr ?_
  rw [good_ecrc, if_neg Bool.false_ne_true, withFates_none hf, hostRead_ready hopen hready]

theorem exec_write {ep : Bool} {data : List Byte} (hopen : s.barOpen p = true) (hf : s.fates = []) (hready : s.ready = true) :
    exec (.hostBarWrite p 2 off data ep true []) s = .next { s.bar2Write p off data ep with fates := [] } := by
  refine next_congr ?_
  rw [good_ecrc, if_neg Bool.false_ne_true, withFates_none hf, hostWrite_ready hopen hready]

/-- A read that reaches GDDR or scratchpad. -/
theorem bar2Read_mem (hoff : off < 2 ^ 36) (hga : ga = s.bar2Addr p off) (hsp : bits ga 44 4 < 2) : s.bar2Read p off len = s.memWindowRead p ga len := by
  subst hga
  have hforb : State.barForbidden (s.bar2Addr p off) = false := decide_eq_false (by omega)
  unfold State.bar2Read
  dsimp only
  rw [if_neg (Nat.not_le.2 hoff), hforb, if_neg Bool.false_ne_true, if_pos hsp]

theorem bar2Write_mem {ep : Bool} {data : List Byte} (hoff : off < 2 ^ 36) (hga : ga = s.bar2Addr p off) (hsp : bits ga 44 4 < 2) :
    s.bar2Write p off data ep = ((if ep then s.epWrite p else s).dmaWrite p ga data ep).1 := by
  subst hga
  have hforb : State.barForbidden (s.bar2Addr p off) = false := decide_eq_false (by omega)
  unfold State.bar2Write
  dsimp only
  rw [if_neg (Nat.not_le.2 hoff), hforb, if_neg Bool.false_ne_true, if_pos hsp]

theorem spm_read (hopen : s.barOpen p = true) (hf : s.fates = []) (hoff : off < 2 ^ 36) (hga : ga = s.bar2Addr p off) (hready : s.ready = true) (hsp : bits ga 44 4 = 1)
    (ht : v.target ga = .spm c o) (hchk : v.spmCheckRun c o len 4 false = none) (hout : s.carryOut (portDie p) (.host p) ga len false = (v, 0))
    (hgood : ∀ j, j < len → judge (v.wordAt c (o + j)) (v.chkAt c (o + j)) = .good)
    (hback : (v.meshRead c o len).1.carryBack (portDie p) (.host p) ga len false = (w, 0)) :
    exec (.hostBarRead p 2 off len true []) s = .next { w.emit (.hostCpl p true false (s.bytes (spmKey c o) len)) with fates := [] } ∧ w.mem = s.mem := by
  obtain ⟨hread, hw⟩ := dmaRead_spm hsp hout ht hchk hgood hback
  refine ⟨(exec_read hopen hf hready).trans ?_, StartPhases.within_same hw .mem (by decide)⟩
  rw [bar2Read_mem hoff hga (by omega)]
  unfold State.memWindowRead
  rw [hread]
  rfl

theorem spm_write {data : List Byte} (hopen : s.barOpen p = true) (hf : s.fates = []) (hoff : off < 2 ^ 36) (hga : ga = s.bar2Addr p off) (hready : s.ready = true) (hsp : bits ga 44 4 = 1)
    (ht : v.target ga = .spm c o) (hchk : v.spmCheckRun c o len 4 false = none) (hlen : data.length = len) (ho : o % 8 = 0) (h8 : len % 8 = 0)
    (hout : s.carryOut (portDie p) (.host p) ga len true = (v, 0)) (hback : (v.meshWrite c o data [] none).1.carryBack (portDie p) (.host p) ga len true = (w, 0)) :
    exec (.hostBarWrite p 2 off data false true []) s = .next { w with fates := [] } ∧ (∀ j, j < len → some (w.byte (spmKey c (o + j))) = data[j]?) ∧
      (∀ k, (∀ j, j < len → k ≠ spmKey c (o + j) ∧ k ≠ spmChkKey c (o + j)) → w.byte k = s.byte k) ∧
      w.cell c = { s.cell c with scrub := (w.cell c).scrub } ∧ s.cellsBut w c := by
  subst hlen
  obtain ⟨hwr, u, hland, hwv, hwu⟩ := dmaWrite_spm hsp ho h8 hout ht hchk hback
  have hwritten := FabricRequests.written_of_landed hwv hland hwu
  refine ⟨(exec_write hopen hf hready).trans ?_, hwritten.byte, hwritten.other, hwritten.cell, hwritten.cells⟩
  rw [bar2Write_mem hoff hga (by omega), if_neg Bool.false_ne_true, hwr]

theorem spm_write_poisoned {data : List Byte} (hopen : s.barOpen p = true) (hf : s.fates = []) (hoff : off < 2 ^ 36) (hga : ga = s.bar2Addr p off) (hready : s.ready = true)
    (hsp : bits ga 44 4 = 1) (ht : v.target ga = .spm c o) (hchk : v.spmCheckRun c o len 4 false = none) (hlen : data.length = len) (ho : o % 8 = 0) (h8 : len % 8 = 0)
    (hout : (s.epWrite p).carryOut (portDie p) (.host p) ga len true = (v, 0))
    (hback : (v.meshWrite c o data (List.range ((len + 7) / 8 + 1)) none).1.carryBack (portDie p) (.host p) ga len true = (w, 0)) :
    exec (.hostBarWrite p 2 off data true true []) s = .next { w with fates := [] } ∧ (∀ j, j < len / 8 → judge (w.wordAt c (o + 8 * j)) (w.chkAt c (o + 8 * j)) = .poison) ∧
      (∃ r, r ∈ w.err.recQ ∧ r.cls = 0x62 ∧ r.loc = .dieUnit (portDie p) p) ∧ (w.hport p).aer = true := by
  subst hlen
  have hexec : exec (.hostBarWrite p 2 off data true true []) s = .next { ((s.epWrite p).dmaWrite p ga data true).1 with fates := [] } := by
    refine (exec_write hopen hf hready).trans ?_
    rw [bar2Write_mem hoff hga (by omega), if_pos rfl]
  obtain ⟨r, hq, hcls, hloc, -⟩ := SyncCounters.raise_record s 0x62 (State.portLoc p p) 0 none
  have hq' : (s.epWrite p).err.recQ = s.err.recQ ++ [r] := hq
  have haer : ((s.epWrite p).hport p).aer = true := congrArg HPort.aer (hport_setHport_same ..)
  generalize s.epWrite p = a at hout hexec hq' haer
  obtain ⟨hwr, u, hstores, hwv, hwu⟩ := dmaWrite_poisoned hsp ho h8 hout ht hchk hback
  rw [hwr] at hexec
  have hmem : w.mem = u.mem := StartPhases.within_same hwu .mem (by decide)
  have herr : w.err = a.err := (StartPhases.within_same hwu .err (by decide)).trans (hstores.err.trans (StartPhases.within_same hwv .err (by decide)))
  have hports : w.hports = a.hports := (StartPhases.within_same hwu .hports (by decide)).trans ((StartPhases.within_same hstores.reach .hports (by decide)).trans
    (StartPhases.within_same hwv .hports (by decide)))
  refine ⟨hexec, fun j hj => ?_, ⟨r, by rw [herr, hq']; exact List.mem_append_right _ List.mem_cons_self, hcls, hloc⟩, by rw [hport_of_hports hports]; exact haer⟩
  rw [PrimerAndScrubbers.wordAt_of_mem hmem, PrimerAndScrubbers.chkAt_of_mem hmem, hstores.word j hj, hstores.check j hj]
  exact judge_poison

/-- What a refused access of a port leaves. -/
theorem hostRefuse_keeps (s : State) (p g : Nat) {reason : Nat} (hr : reason < 2 ^ 4) : s.within [.regs, .err] (s.hostRefuse p g reason) ∧
    (s.hostRefuse p g reason).fld (State.pcieKey p PCIE_HOST_ADDR) 0 48 = bits g 0 48 ∧ (s.hostRefuse p g reason).fld (State.pcieKey p PCIE_HOST_ADDR) 48 4 = reason ∧
    s.regsBut (s.hostRefuse p g reason) [State.pcieKey p PCIE_HOST_ADDR] ∧ s.logs (s.hostRefuse p g reason) 0x63 (.dieUnit (portDie p) p) (bits g 0 48 + reason * 2 ^ 48) := by
  have hlt : bits g 0 48 < 2 ^ 48 := IntegerInstructions.bits_lt ..
  unfold State.hostRefuse
  dsimp only
  generalize bits g 0 48 = b at hlt
  have hw1 : s.within [.regs] (s.setReg (State.pcieKey p PCIE_HOST_ADDR) (BitVec.ofNat 64 (b + reason * 2 ^ 48))) := within_setReg (List.Subset.refl _) (within_refl s)
  have hregs : s.regsBut (s.setReg (State.pcieKey p PCIE_HOST_ADDR) (BitVec.ofNat 64 (b + reason * 2 ^ 48))) [State.pcieKey p PCIE_HOST_ADDR] :=
    regsBut_setReg (regsBut_refl s _) List.mem_cons_self _
  have hval : (BitVec.ofNat 64 (b + reason * 2 ^ 48)).toNat = b + reason * 2 ^ 48 := by
    rw [BitVec.toNat_ofNat]
    exact Nat.mod_eq_of_lt (by omega)
  have hlow := fld_setReg_same s (State.pcieKey p PCIE_HOST_ADDR) 0 48 (BitVec.ofNat 64 (b + reason * 2 ^ 48))
  have hhigh := fld_setReg_same s (State.pcieKey p PCIE_HOST_ADDR) 48 4 (BitVec.ofNat 64 (b + reason * 2 ^ 48))
  rw [hval] at hlow hhigh
  generalize s.setReg (State.pcieKey p PCIE_HOST_ADDR) (BitVec.ofNat 64 (b + reason * 2 ^ 48)) = a at hw1 hregs hlow hhigh
  have hw2 : a.within [.err] (a.raise 0x63 (.dieUnit (portDie p) p) (b + reason * 2 ^ 48) none) := within_raise (List.Subset.refl _) (within_refl a)
  have hregs2 : (a.raise 0x63 (.dieUnit (portDie p) p) (b + reason * 2 ^ 48) none).regs = a.regs := StartPhases.within_same hw2 .regs (by decide)
  refine ⟨within_trans (within_mono hw1 (by decide)) (within_mono hw2 (by decide)), (fld_of_regs hw2.1 hregs2 ..).trans (hlow.trans ?_),
    (fld_of_regs hw2.1 hregs2 ..).trans (hhigh.trans ?_), regsBut_of_regs hregs hw2.1 hregs2, logs_raise (congrArg _ (StartPhases.within_same hw1 .err (by decide))) ..⟩
  · unfold bits
    omega
  · unfold bits
    omega

theorem bar2Write_forbidden {data : List Byte} {ep : Bool} (hoff : off < 2 ^ 36) (hga : ga = s.bar2Addr p off) (hsp : 4 < bits ga 44 4) :
    s.bar2Write p off data ep = s.hostRefuse p ga 3 := by
  subst hga
  have hforb : State.barForbidden (s.bar2Addr p off) = true := decide_eq_true hsp
  unfold State.bar2Write
  dsimp only
  rw [if_neg (Nat.not_le.2 hoff), hforb, if_pos rfl]

theorem bar2Read_forbidden (hoff : off < 2 ^ 36) (hga : ga = s.bar2Addr p off) (hsp : 4 < bits ga 44 4) : s.bar2Read p off len = (s.hostRefuse p ga 3).cpl p none := by
  subst hga
  have hforb : State.barForbidden (s.bar2Addr p off) = true := decide_eq_true hsp
  unfold State.bar2Read
  dsimp only
  rw [if_neg (Nat.not_le.2 hoff), hforb, if_pos rfl]

/-- An aperture that may not reach where it points. -/
theorem forbidden_write {a : State} {data : List Byte} (hexec : exec (.hostBarWrite p 2 off data false true []) s = .next { a with fates := [] }) (hw : s.within [.regs, .err] a)
    (hlow : a.fld (State.pcieKey p PCIE_HOST_ADDR) 0 48 = bits ga 0 48) (hhigh : a.fld (State.pcieKey p PCIE_HOST_ADDR) 48 4 = 3)
    (hregs : s.regsBut a [State.pcieKey p PCIE_HOST_ADDR]) {detail : Nat} (hlogs : s.logs a 0x63 (.dieUnit (portDie p) p) detail) :
    ∃ t, exec (.hostBarWrite p 2 off data false true []) s = .next t ∧ t.mem = s.mem ∧ t.fld (State.pcieKey p PCIE_HOST_ADDR) 0 48 = bits ga 0 48 ∧
      t.fld (State.pcieKey p PCIE_HOST_ADDR) 48 4 = 3 ∧ s.regsBut t [State.pcieKey p PCIE_HOST_ADDR] ∧ s.logs t 0x63 (.dieUnit (portDie p) p) detail := by
  have hmem : a.mem = s.mem := StartPhases.within_same hw .mem (by decide)
  exact ⟨_, hexec, hmem, (fld_of_regs rfl rfl ..).trans hlow, (fld_of_regs rfl rfl ..).trans hhigh, regsBut_of_regs hregs rfl rfl, logs_of_err hlogs rfl⟩

theorem forbidden_read {a : State} (hexec : exec (.hostBarRead p 2 off len true []) s = .next { a.cpl p none with fates := [] }) (hw : s.within [.regs, .err] a)
    {detail : Nat} (hlogs : s.logs a 0x63 (.dieUnit (portDie p) p) detail) :
    ∃ t, exec (.hostBarRead p 2 off len true []) s = .next t ∧ t.mem = s.mem ∧ t.out = .hostCpl p false false [] :: s.out ∧ s.logs t 0x63 (.dieUnit (portDie p) p) detail := by
  have hmem : a.mem = s.mem := StartPhases.within_same hw .mem (by decide)
  have hout : a.out = s.out := StartPhases.within_same hw .out (by decide)
  exact ⟨_, hexec, hmem, congrArg (Out.hostCpl p false false [] :: ·) hout, logs_of_err hlogs rfl⟩

theorem forbidden {data : List Byte} (hopen : s.barOpen p = true) (hf : s.fates = []) (hoff : off < 2 ^ 36) (hga : ga = s.bar2Addr p off) (hready : s.ready = true) (hsp : 4 < bits ga 44 4) :
    (∃ t, exec (.hostBarWrite p 2 off data false true []) s = .next t ∧ t.mem = s.mem ∧ t.fld (State.pcieKey p PCIE_HOST_ADDR) 0 48 = bits ga 0 48 ∧
      t.fld (State.pcieKey p PCIE_HOST_ADDR) 48 4 = 3 ∧ s.regsBut t [State.pcieKey p PCIE_HOST_ADDR] ∧ s.logs t 0x63 (.dieUnit (portDie p) p) (bits ga 0 48 + 3 * 2 ^ 48)) ∧
    ∃ t, exec (.hostBarRead p 2 off len true []) s = .next t ∧ t.mem = s.mem ∧ t.out = .hostCpl p false false [] :: s.out ∧
      s.logs t 0x63 (.dieUnit (portDie p) p) (bits ga 0 48 + 3 * 2 ^ 48) := by
  obtain ⟨hw, hlow, hhigh, hregs, hlogs⟩ := hostRefuse_keeps s p ga (reason := 3) (by decide)
  have hew := exec_write (ep := false) (data := data) (off := off) hopen hf hready
  have her := exec_read (off := off) (len := len) hopen hf hready
  rw [bar2Write_forbidden hoff hga hsp] at hew
  rw [bar2Read_forbidden hoff hga hsp] at her
  exact ⟨forbidden_write hew hw hlow hhigh hregs hlogs, forbidden_read her hw hlogs⟩

/-- Before the engine is ready. -/
theorem not_ready (hopen : s.barOpen p = true) (hf : s.fates = []) (hready : s.ready = false) :
    (s.part.ports.contains p = true ∧ (s.hport p).up = true → exec (.hostBarRead p 2 off len true []) s = .next (s.emit (.hostCpl p false false []))) ∧
    ∀ data : List Byte, exec (.hostBarWrite p 2 off data false true []) s = .next s := by
  have hread : (s.part.ports.contains p = true ∧ (s.hport p).up = true) → s.hostRead p 2 off len = s.emit (.hostCpl p false false []) := fun ⟨hport, hup⟩ => by
    unfold State.hostRead
    rw [hport, hup, hopen, hready, Bool.not_true, Bool.or_self, if_neg Bool.false_ne_true, if_neg Bool.false_ne_true, if_neg (show (2 : Nat) ≠ 0 by decide),
      if_neg Bool.false_ne_true]
    rfl
  have hwrite (data : List Byte) : s.hostWrite p 2 off data false = s := by
    unfold State.hostWrite
    rw [hopen, hready, Bool.not_true, if_neg Bool.false_ne_true, if_neg (show (2 : Nat) ≠ 0 by decide), if_neg Bool.false_ne_true]
  refine ⟨fun h => next_congr ?_, fun data => next_congr ?_⟩
  · rw [good_ecrc, if_neg Bool.false_ne_true, withFates_none hf, hread h]
    exact fates_same (s := s.emit (.hostCpl p false false [])) hf
  · rw [good_ecrc, if_neg Bool.false_ne_true, withFates_none hf, hwrite]
    exact fates_same hf

/-! ### Outbound requests (R321-R323) -/

/-- A read whose every TLP was sent sends nothing more. -/
theorem waiting_none {l : List OutRead} (h : ∀ r ∈ l, ∀ u ∈ r.tlps, u.sent.isSome = true) :
    (l.flatMap fun r => r.tlps.filterMap fun t => if t.sent.isNone then some (r, t) else none) = [] := by
  refine List.flatMap_eq_nil_iff.2 fun r hr => List.filterMap_eq_nil_iff.2 fun u hu => ?_
  have hsent := h r hr u hu
  rw [Option.isNone_eq_false_iff.2 hsent, if_neg Bool.false_ne_true]

/-- The TLP that a read of one TLP waits with, and the read. -/
def oneTlp (id p len : Nat) (sent : Option Nat) : OutTlp := { id := id, port := p, off := 0, len := len, sent := sent, done := none }

def oneRead (id : Nat) (req : Req) (a p len : Nat) (sent : Option Nat) : OutRead := { id := id, req := req, addr := a, len := len, tlps := [oneTlp id p len sent], pkt := none }

/-- A read whose one TLP alone waits is sent where its port has a tag. -/
theorem sendReads_one {l : List OutRead} {a id : Nat} {req : Req} (hl : s.outReads = l ++ [oneRead id req a p len none])
    (htags : (l.map fun r => r.tlps.countP fun t => t.port == p && t.sent.isSome && t.done.isNone).sum < 1024)
    (hold : ∀ r ∈ l, r.id ≠ id ∧ ∀ u ∈ r.tlps, u.sent.isSome = true) :
    s.sendReads = ({ s with outReads := l ++ [oneRead id req a p len (some s.now)] } : State).emit (.hostReadReq p id a len) := by
  have hwait : (s.outReads.flatMap fun r => r.tlps.filterMap fun t => if t.sent.isNone then some (r, t) else none) = [(oneRead id req a p len none, oneTlp id p len none)] := by
    rw [hl, List.flatMap_append, waiting_none fun r hr => (hold r hr).2]
    rfl
  have hcount : s.tagsOut p < 1024 := by
    unfold State.tagsOut
    rw [hl, List.map_append, List.sum_append]
    exact (show _ = _ by simp [oneRead, oneTlp]).trans_lt htags
  have hmod : s.modTlp id id (fun t => { t with sent := some s.now }) = { s with outReads := l ++ [oneRead id req a p len (some s.now)] } := by
    unfold State.modTlp
    have hmap : (l.map fun r => if r.id = id then { r with tlps := r.tlps.map fun t => if t.id = id then { t with sent := some s.now } else t } else r) = l :=
      (List.map_congr_left fun r hr => if_neg (hold r hr).1).trans (List.map_id l)
    rw [hl, List.map_append, hmap]
    simp [oneRead, oneTlp]
  unfold State.sendReads
  rw [hwait, List.foldl_cons, List.foldl_nil]
  dsimp only
  rw [show (oneTlp id p len none).port = p from rfl, if_pos hcount, show (oneRead id req a p len none).id = id from rfl, show (oneTlp id p len none).id = id from rfl, hmod]
  rfl

theorem outbound_read {req : Req} {a : Nat} (hsplit : s.outSplit false a len = [(p, 0, len)]) (hport : s.outPort a = some p) (htags : s.tagsOut p < 1024)
    (hold : ∀ r ∈ s.outReads, r.id ≠ s.nextId ∧ ∀ u ∈ r.tlps, u.sent.isSome = true) :
    ∃ t, exec (.outboundRead req a len) s = .next t ∧ t.out = .hostReadReq p s.nextId a len :: s.out ∧
      t.outReads = s.outReads ++ [oneRead s.nextId req a p len (some s.now)] ∧ t.nextId = s.nextId + 1 ∧ t.regs = s.regs ∧ t.mem = s.mem ∧ t.resp = s.resp := by
  have hread : s.outRead req a len none =
      (({ s with outReads := s.outReads ++ [oneRead s.nextId req a p len none], nextId := s.nextId + 1 } : State).sendReads, true) := by
    unfold State.outRead
    rw [hport, hsplit]
    rfl
  have hsend := sendReads_one (s := { s with outReads := s.outReads ++ [oneRead s.nextId req a p len none], nextId := s.nextId + 1 }) rfl htags hold
  refine ⟨_, next_congr (by rw [hread]), ?_⟩
  rw [hsend]
  exact ⟨rfl, rfl, rfl, rfl, rfl, rfl⟩

theorem outbound_write {req : Req} {a : Nat} {data : List Byte} {pois : List Nat} (hsplit : s.outSplit true a data.length = [(p, 0, data.length)]) (hport : s.outPort a = some p) :
    ∃ t, exec (.outboundWrite req a data pois) s = .next t ∧ (req, Resp.ack 0) ∈ t.resp ∧ (∀ j, j < data.length → some (t.byte (State.hostKey (a + j))) = data[j]?) ∧
      (∀ k, (∀ j, j < data.length → k ≠ State.hostKey (a + j)) → t.byte k = s.byte k) ∧ t.regs = s.regs ∧
      (pois = [] → t.out = .hostWrite p a data false :: s.out ∧ t.err = s.err) ∧ (∀ c, originCell req = some c → pois ≠ [] → s.logs t 0x66 (.cell c 0) 0) := by
  have hstore : ∃ ep, s.outStore a data pois = s.hostStore p a data ep ∧ (pois = [] → ep = false) := by
    refine ⟨pois.any fun w => decide (0 < 8 * w + 8) && decide (8 * w < 0 + data.length), ?_, fun h => ?_⟩
    · unfold State.outStore
      rw [hsplit, List.foldl_cons, List.foldl_nil]
      dsimp only
      rw [Nat.add_zero, List.drop_zero, List.take_length]
    · subst h
      rfl
  obtain ⟨ep, hstore, hep⟩ := hstore
  have hw1 : s.within [.mem, .out] (s.hostStore p a data ep) := within_hostStore (List.Subset.refl _) (within_refl s)
  have hbyte (k : Nat) : (s.hostStore p a data ep).byte k = if State.hostKey a ≤ k ∧ k < State.hostKey a + data.length then (data[k - State.hostKey a]?).getD 0 else s.byte k :=
    byte_setBytes ..
  have hout : (s.hostStore p a data ep).out = .hostWrite p a data ep :: s.out := by
    refine congrArg (_ :: ·) (setBytes_out ..)
  have hwrite : ∃ u, s.outWrite req a data pois = (u, 0) ∧ (s.hostStore p a data ep).within [.err] u ∧ (pois = [] → u = s.hostStore p a data ep) ∧
      ∀ c, originCell req = some c → pois ≠ [] → u = (s.hostStore p a data ep).raiseAt 0x66 c 0 := by
    unfold State.outWrite
    rw [hport, hstore]
    cases horg : originCell req with
    | none => exact ⟨_, rfl, within_refl _, fun _ => rfl, fun c h => by cases h⟩
    | some c =>
      by_cases hp : pois = []
      · exact ⟨_, rfl, by dsimp only; rw [if_pos hp]; exact within_refl _, fun _ => if_pos hp, fun c h hne => absurd hp hne⟩
      · exact ⟨_, rfl, by dsimp only; rw [if_neg hp]; exact within_raise (List.Subset.refl _) (within_refl _), fun h => absurd h hp, fun c' h _ => by cases h; exact if_neg hp⟩
  obtain ⟨u, hu, hwu, hgood, hbad⟩ := hwrite
  generalize s.hostStore p a data ep = b at hw1 hbyte hout hwu hgood hbad
  have hmem : (u.answer req (.ack 0)).mem = b.mem := (answer_mem ..).trans (StartPhases.within_same hwu .mem (by decide))
  refine ⟨u.answer req (.ack 0), next_congr (by rw [hu]), GddrAccesses.mem_answer .., fun j hj => ?_, fun k hk => ?_, ?_, fun h => ?_, fun c horg hne => ?_⟩
  · rw [GddrAccesses.byte_of_mem hmem, hbyte, if_pos (by unfold State.hostKey; omega), show State.hostKey (a + j) - State.hostKey a = j by unfold State.hostKey; omega,
      List.getElem?_eq_getElem hj]
    rfl
  · rw [GddrAccesses.byte_of_mem hmem, hbyte, if_neg fun h => hk (k - State.hostKey a) (by omega) (by unfold State.hostKey at *; omega)]
  · exact (answer_regs ..).trans ((StartPhases.within_same hwu .regs (by decide)).trans (StartPhases.within_same hw1 .regs (by decide)))
  · rw [hgood h, answer_out, answer_err, hout, hep h]
    exact ⟨rfl, StartPhases.within_same hw1 .err (by decide)⟩
  · rw [hbad c horg hne]
    exact logs_of_err (logs_raiseAt (congrArg _ (StartPhases.within_same hw1 .err (by decide))) ..) (congrArg _ (answer_err ..))

/-- What a request that no port can carry leaves: its record. -/
theorem outFail_record (s : State) (req : Req) (q reason a : Nat) : s.within [.err] (s.outFail req q reason a) ∧ ∃ r, (s.outFail req q reason a).err.recQ = s.err.recQ ++ [r] ∧ r.cls = 0x65 ∧
    r.struck = originCell req ∧ r.detail = BitVec.ofNat 64 (reason + (if reason = 3 then 0 else q * 2 ^ 8) + a % 2 ^ 44 * 2 ^ 16) := by
  obtain ⟨r, hq, hcls, hdet, hstruck⟩ := GddrAccesses.raise_entry s 0x65 (if reason = 3 then .engine 0 else State.portLoc q q)
    (reason + (if reason = 3 then 0 else q * 2 ^ 8) + a % 2 ^ 44 * 2 ^ 16) (originCell req)
  exact ⟨within_raise (List.Subset.refl _) (within_refl s), r, hq, hcls, hstruck, hdet⟩

theorem outbound_refused {req : Req} {a : Nat} {data : List Byte} {pois : List Nat} (hport : s.outPort a = none) :
    (∃ t r, exec (.outboundRead req a len) s = .next t ∧ (req, Resp.read [] [] 1) ∈ t.resp ∧ t.outReads = s.outReads ∧ t.err.recQ = s.err.recQ ++ [r] ∧ r.cls = 0x65 ∧
      r.struck = originCell req) ∧
    ∃ t r, exec (.outboundWrite req a data pois) s = .next t ∧ (req, Resp.ack 1) ∈ t.resp ∧ t.mem = s.mem ∧ t.err.recQ = s.err.recQ ++ [r] ∧ r.cls = 0x65 ∧
      r.detail = BitVec.ofNat 64 (3 + a % 2 ^ 44 * 2 ^ 16) := by
  have hread : s.outRead req a len none = (s.outFail req 0 3 a, false) := by
    unfold State.outRead
    rw [hport]
    rfl
  have hwrite : s.outWrite req a data pois = (s.outFail req 0 3 a, 1) := by
    unfold State.outWrite
    rw [hport]
    rfl
  obtain ⟨hw, r, hq, hcls, hstruck, hdet⟩ := outFail_record s req 0 3 a
  generalize s.outFail req 0 3 a = b at hread hwrite hw hq
  rw [if_pos rfl, Nat.add_zero] at hdet
  refine ⟨⟨b.answer req (.read [] [] 1), r, next_congr (by rw [hread]), GddrAccesses.mem_answer .., ?_, ?_, hcls, hstruck⟩,
    b.answer req (.ack 1), r, next_congr (by rw [hwrite]), GddrAccesses.mem_answer .., ?_, ?_, hcls, hdet⟩
  · exact (answer_outReads ..).trans (StartPhases.within_same hw .outReads (by decide))
  · rw [answer_err]; exact hq
  · exact (answer_mem ..).trans (StartPhases.within_same hw .mem (by decide))
  · rw [answer_err]; exact hq

/-! ### Completions (R322, R323) -/

section
variable {st : Nat} {r : OutRead} {u : OutTlp} {data : List Byte}

theorem tlpOf_one (hreads : s.outReads = [r]) (htlps : r.tlps = [u]) (hsent : u.sent = some st) (hdone : u.done = none) : s.tlpOf u.id = some (r, u) := by
  unfold State.tlpOf
  rw [hreads, List.findSome?_cons, htlps, List.find?_cons, beq_self_eq_true, hsent, hdone]
  rfl

/-- The one outbound read ends. -/
theorem outEnd_one (hreads : s.outReads = [r]) (hpkt : r.pkt = none) (pois : List Nat) (status : Nat) :
    s.outEnd r data pois status = ({ s with outReads := [] } : State).answer r.req (.read data pois status) := by
  unfold State.outEnd
  rw [hreads, hpkt]
  have hnone : [r].filter (fun q => q.id != r.id) = [] := by simp
  dsimp only
  rw [hnone]
  rfl

/-- The bytes and poisoned words of a read of one TLP. -/
theorem readData_one (ep : Bool) {q : OutRead} (hq : q.tlps = [{ u with done := some (ep, data) }]) (hoff : u.off = 0) (hlen : q.len = u.len) :
    (State.readData q).1 = data ∧ (ep = false → (State.readData q).2 = []) ∧ (ep = true → 0 < u.len → (State.readData q).2 ≠ []) := by
  unfold State.readData
  rw [hq]
  refine ⟨by simp, fun he => ?_, fun he hpos => ?_⟩
  · subst he
    simp
  · subst he
    refine List.ne_nil_of_mem (a := 0) (List.mem_filter.2 ⟨List.mem_range.2 (by omega), ?_⟩)
    simp [hoff, hpos]

theorem completes (hreads : s.outReads = [r]) (htlps : r.tlps = [u]) (hpkt : r.pkt = none) (hoff : u.off = 0) (hlen : u.len = r.len) (hsent : u.sent = some st) (hdone : u.done = none)
    (hdata : data.length = r.len) (ep : Bool) : ∃ ps, (ep = false → ps = []) ∧ (ep = true → 0 < r.len → ps ≠ []) ∧
      exec (.outboundCompletion u.id true ep true data) s = .next (({ if ep then s.raise 0x62 (State.portLoc u.port u.port) 0 none else s with outReads := [] } : State).answer r.req
        (.read data ps (if ps = [] then 0 else 2))) := by
  have hd : ((List.range u.len).map fun i => (data[i]?).getD 0) = data := by
    refine List.ext_getElem (by simp [hlen, hdata]) fun i h1 h2 => ?_
    simp [List.getElem?_eq_getElem h2]
  have hq : (r.tlps.map fun (x : OutTlp) => if x.id = u.id then { x with done := some (ep, data) } else x) = [{ u with done := some (ep, data) }] := by
    rw [htlps]
    simp
  obtain ⟨hbytes, hnone, hsome⟩ := readData_one (u := u) (data := data) ep (q := { r with tlps := [{ u with done := some (ep, data) }] }) rfl hoff hlen.symm
  refine ⟨_, hnone, fun he hpos => hsome he (by omega), next_congr ?_⟩
  rw [tlpOf_one hreads htlps hsent hdone]
  dsimp only
  rw [good_ecrc, if_neg Bool.false_ne_true]
  unfold State.outComplete
  rw [tlpOf_one hreads htlps hsent hdone]
  dsimp only
  rw [Bool.not_true, if_neg Bool.false_ne_true, hd, hq]
  rw [List.all_cons, List.all_nil]
  dsimp only
  rw [Option.isSome_some, Bool.and_self, if_pos rfl, hbytes]
  have hr : (if ep then s.raise 0x62 (State.portLoc u.port u.port) 0 none else s).outReads = [r] := by
    split
    · exact (raise_outReads ..).trans hreads
    · exact hreads
  exact outEnd_one hr hpkt _ _

/-- A completion that fails ends the read with a record. -/
theorem completion_fails (hreads : s.outReads = [r]) (htlps : r.tlps = [u]) (hpkt : r.pkt = none) (hsent : u.sent = some st) (hdone : u.done = none) :
    ∃ t e, exec (.outboundCompletion u.id false false true data) s = .next t ∧ (r.req, Resp.read [] [] 1) ∈ t.resp ∧ t.outReads = [] ∧
      t.err.recQ = s.err.recQ ++ [e] ∧ e.cls = 0x65 ∧ e.struck = originCell r.req ∧ t.mem = s.mem := by
  have hexec : exec (.outboundCompletion u.id false false true data) s = .next ((s.outFail r.req u.port 1 (r.addr + u.off)).outEnd r [] [] 1) := by
    refine next_congr ?_
    rw [tlpOf_one hreads htlps hsent hdone]
    dsimp only
    rw [good_ecrc, if_neg Bool.false_ne_true]
    unfold State.outComplete
    rw [tlpOf_one hreads htlps hsent hdone]
    rfl
  obtain ⟨hw, e, hq, hcls, hstruck, -⟩ := outFail_record s r.req u.port 1 (r.addr + u.off)
  generalize s.outFail r.req u.port 1 (r.addr + u.off) = b at hexec hw hq
  rw [outEnd_one ((StartPhases.within_same hw .outReads (by decide)).trans hreads) hpkt] at hexec
  refine ⟨_, e, hexec, GddrAccesses.mem_answer .., answer_outReads .., ?_, hcls, hstruck, ?_⟩
  · rw [answer_err]; exact hq
  · rw [answer_mem]; exact StartPhases.within_same hw .mem (by decide)

theorem times_out (hreads : s.outReads = [r]) (htlps : r.tlps = [u]) (hpkt : r.pkt = none) (hsent : u.sent = some st) (hdone : u.done = none)
    (hlate : st + s.fld (State.pcieKey u.port PCIE_CPL_TO) 0 16 * 1000000 ≤ s.now) :
    ∃ t e, exec (.outboundCplTimeout u.id) s = .next t ∧ (r.req, Resp.read [] [] 3) ∈ t.resp ∧ t.outReads = [] ∧
      t.err.recQ = s.err.recQ ++ [e] ∧ e.cls = 0x65 ∧ e.struck = originCell r.req ∧ t.mem = s.mem := by
  have hexec : exec (.outboundCplTimeout u.id) s = .next ((s.outFail r.req u.port 2 (r.addr + u.off)).outEnd r [] [] 3) := by
    refine next_congr ?_
    unfold State.outTimeout
    rw [tlpOf_one hreads htlps hsent hdone]
    dsimp only
    rw [hsent, Option.getD_some, if_pos hlate]
  obtain ⟨hw, e, hq, hcls, hstruck, -⟩ := outFail_record s r.req u.port 2 (r.addr + u.off)
  generalize s.outFail r.req u.port 2 (r.addr + u.off) = b at hexec hw hq
  rw [outEnd_one ((StartPhases.within_same hw .outReads (by decide)).trans hreads) hpkt] at hexec
  refine ⟨_, e, hexec, GddrAccesses.mem_answer .., answer_outReads .., ?_, hcls, hstruck, ?_⟩
  · rw [answer_err]; exact hq
  · rw [answer_mem]; exact StartPhases.within_same hw .mem (by decide)

theorem waits_on (hreads : s.outReads = [r]) (htlps : r.tlps = [u]) (hsent : u.sent = some st) (hdone : u.done = none)
    (hearly : s.now < st + s.fld (State.pcieKey u.port PCIE_CPL_TO) 0 16 * 1000000) : exec (.outboundCplTimeout u.id) s = .next s := by
  refine next_congr ?_
  unfold State.outTimeout
  rw [tlpOf_one hreads htlps hsent hdone]
  dsimp only
  rw [hsent, Option.getD_some, if_neg (Nat.not_le.2 hearly)]

theorem completion_good (hreads : s.outReads = [r]) (htlps : r.tlps = [u]) (hpkt : r.pkt = none) (hoff : u.off = 0) (hlen : u.len = r.len) (hsent : u.sent = some st) (hdone : u.done = none)
    (hdata : data.length = r.len) :
    ∃ t, exec (.outboundCompletion u.id true false true data) s = .next t ∧ (r.req, Resp.read data [] 0) ∈ t.resp ∧ t.outReads = [] ∧ t.err = s.err ∧ t.mem = s.mem ∧ t.regs = s.regs := by
  obtain ⟨ps, hnone, -, hexec⟩ := completes hreads htlps hpkt hoff hlen hsent hdone hdata false
  obtain rfl := hnone rfl
  rw [if_neg Bool.false_ne_true, if_pos rfl] at hexec
  exact ⟨_, hexec, GddrAccesses.mem_answer .., answer_outReads .., answer_err .., answer_mem .., answer_regs ..⟩

theorem completion_poisoned (hreads : s.outReads = [r]) (htlps : r.tlps = [u]) (hpkt : r.pkt = none) (hoff : u.off = 0) (hlen : u.len = r.len) (hsent : u.sent = some st) (hdone : u.done = none)
    (hdata : data.length = r.len) (hpos : 0 < r.len) :
    ∃ t ps, exec (.outboundCompletion u.id true true true data) s = .next t ∧ (r.req, Resp.read data ps 2) ∈ t.resp ∧ t.outReads = [] ∧
      s.logs t 0x62 (.dieUnit (portDie u.port) u.port) 0 := by
  obtain ⟨ps, -, hsome, hexec⟩ := completes hreads htlps hpkt hoff hlen hsent hdone hdata true
  rw [if_pos rfl, if_neg (hsome rfl hpos)] at hexec
  have hlogs := logs_raise (s := s) (t := s) rfl 0x62 (.dieUnit (portDie u.port) u.port) 0 none
  exact ⟨_, ps, hexec, GddrAccesses.mem_answer .., answer_outReads .., logs_of_err hlogs (congrArg _ (answer_err ..))⟩

theorem completion_dropped {ok ep : Bool} (hreads : s.outReads = [r]) (htlps : r.tlps = [u]) (hsent : u.sent = some st) (hdone : u.done = none) (hbad : s.ecrcBad u.port false = true) :
    exec (.outboundCompletion u.id ok ep false data) s = .next (s.ecrcDrop u.port) := by
  refine next_congr ?_
  rw [tlpOf_one hreads htlps hsent hdone]
  exact if_pos hbad

end

/-! ### Vectors and event rings (R331-R333) -/

theorem exec_msix {req : Req} {v : Nat} (hv : v < 512) (b : State) (hb : b = s.dropPend req (keyBlock (State.pcieKey p PCIE_MSIX_RAISE))) :
    exec (.msixRaise req p v) s = .next (if v < 260 then b.raise 0x6B (State.portLoc p p) 0 (originCell req) else b.raiseVec p v) := by
  subst hb
  refine next_congr ?_
  unfold State.msixWrite
  rw [Nat.mod_eq_of_lt hv]

theorem vector_raised {req : Req} {v : Nat} (hv : v < 512) :
    (260 ≤ v → (s.hport p).up = true → State.vecMasked (s.hport p) v = false →
      ∃ t, exec (.msixRaise req p v) s = .next t ∧ t.out = .msix p v :: s.out ∧ t.hports = s.hports ∧ t.regs = s.regs ∧ t.err = s.err) ∧
    (260 ≤ v → State.vecMasked (s.hport p) v = true →
      ∃ t, exec (.msixRaise req p v) s = .next t ∧ v ∈ (t.hport p).pba ∧ t.out = s.out ∧ t.regs = s.regs ∧ t.err = s.err) ∧
    (v < 260 → ∃ t r, exec (.msixRaise req p v) s = .next t ∧ t.out = s.out ∧ t.hports = s.hports ∧ t.err.recQ = s.err.recQ ++ [r] ∧ r.cls = 0x6B ∧ r.struck = originCell req) := by
  have hw : s.within [.pend13] (s.dropPend req (keyBlock (State.pcieKey p PCIE_MSIX_RAISE))) := within_dropPend (List.Subset.refl _) (within_refl s)
  have hexec := exec_msix (s := s) (p := p) (req := req) hv _ rfl
  generalize s.dropPend req (keyBlock (State.pcieKey p PCIE_MSIX_RAISE)) = b at hw hexec
  have hport : b.hport p = s.hport p := hport_of_hports (StartPhases.within_same hw .hports (by decide)) p
  have hout : b.out = s.out := StartPhases.within_same hw .out (by decide)
  have hregs : b.regs = s.regs := StartPhases.within_same hw .regs (by decide)
  have herr : b.err = s.err := StartPhases.within_same hw .err (by decide)
  have hports : b.hports = s.hports := StartPhases.within_same hw .hports (by decide)
  refine ⟨fun hlo hup hmask => ?_, fun hlo hmask => ?_, fun hhi => ?_⟩
  · have hsend : b.raiseVec p v = b.emit (.msix p v) := by
      unfold State.raiseVec
      dsimp only
      rw [hport, hmask, if_neg Bool.false_ne_true, hup, if_pos rfl]
    rw [if_neg (Nat.not_lt.2 hlo), hsend] at hexec
    exact ⟨_, hexec, congrArg (_ :: ·) hout, hports, hregs, herr⟩
  · have hkeep : b.raiseVec p v = b.setHport p { s.hport p with pba := if (s.hport p).pba.contains v then (s.hport p).pba else v :: (s.hport p).pba } := by
      unfold State.raiseVec
      dsimp only
      rw [hport, hmask, if_pos rfl]
    rw [if_neg (Nat.not_lt.2 hlo), hkeep] at hexec
    refine ⟨_, hexec, ?_, hout, hregs, herr⟩
    rw [hport_setHport_same]
    dsimp only
    split
    · next h => exact List.contains_iff_mem.1 h
    · exact List.mem_cons_self
  · rw [if_pos hhi] at hexec
    obtain ⟨r, hq, hcls, -, hstruck⟩ := SyncCounters.raise_record b 0x6B (State.portLoc p p) 0 (originCell req)
    refine ⟨_, r, hexec, (raise_out ..).trans hout, (raise_hports ..).trans hports, hq.trans (by rw [herr]), hcls, hstruck⟩

theorem event_ring_enabled (hoff : s.fld (State.pcieKey p PCIE_CTRL) 1 1 = 0) :
    ∃ t, exec (.evqEnable p) s = .next t ∧ t.fld (State.pcieKey p PCIE_CTRL) 1 1 = 1 ∧ t.reg (State.pcieKey p PCIE_EVQ_PI) = 0 ∧ t.reg (State.pcieKey p PCIE_EVQ_CI) = 0 ∧
      t.fld (State.pcieKey p PCIE_EVQ_STAT) 0 16 = 0 ∧ (t.hport p).evqSeq = 0 ∧
      s.regsBut t [State.pcieKey p PCIE_CTRL, State.pcieKey p PCIE_EVQ_PI, State.pcieKey p PCIE_EVQ_CI, State.pcieKey p PCIE_EVQ_STAT] ∧ t.err = s.err := by
  have hexec : exec (.evqEnable p) s = .next (((((s.setFld (State.pcieKey p PCIE_CTRL) 1 1 1).setReg (State.pcieKey p PCIE_EVQ_PI) 0).setReg (State.pcieKey p PCIE_EVQ_CI) 0).setFld
      (State.pcieKey p PCIE_EVQ_STAT) 0 16 0).setHport p { s.hport p with evqSeq := 0, evqLostDue := false }) := by
    refine next_congr ?_
    unfold State.enableEvq
    rw [if_neg (by omega)]
  have hctrl := fld_setFld_same s (k := State.pcieKey p PCIE_CTRL) (lo := 1) (w := 1) 1 (by decide)
  have herr1 : (s.setFld (State.pcieKey p PCIE_CTRL) 1 1 1).err = s.err := setFld_err ..
  have hregs1 : s.regsBut (s.setFld (State.pcieKey p PCIE_CTRL) 1 1 1) [State.pcieKey p PCIE_CTRL, State.pcieKey p PCIE_EVQ_PI, State.pcieKey p PCIE_EVQ_CI, State.pcieKey p PCIE_EVQ_STAT] :=
    regsBut_setFld (regsBut_refl s _) (by simp) _ _ _
  generalize s.setFld (State.pcieKey p PCIE_CTRL) 1 1 1 = a at hexec hctrl herr1 hregs1
  refine ⟨_, hexec, ?_, ?_, ?_, ?_, ?_, ?_, ?_⟩
  · rw [setHport_fld, fld_setFld_other _ _ _ _ _ _ (pcieKey_ne (show PCIE_CTRL ≠ PCIE_EVQ_STAT by decide)), fld_setReg_other _ _ _ _ (pcieKey_ne (show PCIE_CTRL ≠ PCIE_EVQ_CI by decide)),
      fld_setReg_other _ _ _ _ (pcieKey_ne (show PCIE_CTRL ≠ PCIE_EVQ_PI by decide))]
    exact hctrl
  · rw [setHport_reg, reg_setFld_other _ _ _ _ (pcieKey_ne (show PCIE_EVQ_PI ≠ PCIE_EVQ_STAT by decide)), reg_setReg, if_neg (pcieKey_ne (show PCIE_EVQ_PI ≠ PCIE_EVQ_CI by decide)), reg_setReg,
      if_pos rfl]
  · rw [setHport_reg, reg_setFld_other _ _ _ _ (pcieKey_ne (show PCIE_EVQ_CI ≠ PCIE_EVQ_STAT by decide)), reg_setReg, if_pos rfl]
  · rw [setHport_fld, fld_setFld_same _ _ (by decide)]
    rfl
  · rw [hport_setHport_same]
  · exact regsBut_of_regs (regsBut_setFld (regsBut_setReg (regsBut_setReg hregs1 (by simp) _) (by simp) _) (by simp) _ _ _) (setHport_part ..) (setHport_regs ..)
  · rw [setHport_err, setFld_err, setReg_err, setReg_err, herr1]

theorem consumer_moves {ci : Nat} (hci : ci < 2 ^ 17) (hroom : (s.fld (State.pcieKey p PCIE_EVQ_PI) 0 17 + 131072 - ci) % 131072 ≤ 65536) (hlost : (s.hport p).evqLostDue = false) :
    ∃ t, exec (.evqCiWrite p ci) s = .next t ∧ t.fld (State.pcieKey p PCIE_EVQ_CI) 0 17 = ci ∧ s.regsBut t [State.pcieKey p PCIE_EVQ_CI] ∧ t.err = s.err ∧ t.out = s.out := by
  have hmod : ci % 131072 = ci := Nat.mod_eq_of_lt hci
  have hexec : exec (.evqCiWrite p ci) s = .next (s.setReg (State.pcieKey p PCIE_EVQ_CI) (BitVec.ofNat 64 ci)) := by
    refine next_congr ?_
    unfold State.evqCi
    dsimp only
    rw [hmod, if_pos hroom]
    unfold State.evqLoss
    refine if_neg fun h => ?_
    rw [setReg_hport, hlost] at h
    exact Bool.false_ne_true h.2.1
  refine ⟨_, hexec, ?_, regsBut_setReg (regsBut_refl s _) List.mem_cons_self _, setReg_err .., setReg_out ..⟩
  rw [fld_setReg_same, BitVec.toNat_ofNat]
  unfold bits
  omega

theorem consumer_refused {ci : Nat} (hci : ci < 2 ^ 17) (hroom : 65536 < (s.fld (State.pcieKey p PCIE_EVQ_PI) 0 17 + 131072 - ci) % 131072) :
    ∃ t, exec (.evqCiWrite p ci) s = .next t ∧ t.regs = s.regs ∧ s.logs t 0x68 (.dieUnit (portDie p) p) 0 := by
  have hexec : exec (.evqCiWrite p ci) s = .next (s.raise 0x68 (State.portLoc p p) 0 none) := by
    refine next_congr ?_
    unfold State.evqCi
    dsimp only
    rw [show ci % 131072 = ci from Nat.mod_eq_of_lt hci, if_neg (Nat.not_le.2 hroom)]
  exact ⟨_, hexec, raise_regs .., logs_raise rfl ..⟩

/-- Settles O40: accesses that arrive act at their target and come back, a read's one TLP ends it, and a vector or an index is taken or refused alone. -/
theorem hostMemoryTrafficAndVectors : Obligations.HostMemoryTrafficAndVectors :=
  ⟨fun _ _ _ _ _ hopen hf hoff hga =>
      ⟨fun _ _ _ _ hready hsp ht hchk => ⟨fun hout hgood hback => spm_read hopen hf hoff hga hready hsp ht hchk hout hgood hback,
          fun _ hlen ho h8 => ⟨spm_write hopen hf hoff hga hready hsp ht hchk hlen ho h8, spm_write_poisoned hopen hf hoff hga hready hsp ht hchk hlen ho h8⟩⟩,
        fun hready hsp _ => forbidden hopen hf hoff hga hready hsp,
        not_ready hopen hf,
        fun hbad _ _ _ _ => ⟨next_congr (if_pos hbad), next_congr (if_pos hbad), congrArg HPort.aerEcrc (hport_setHport_same ..)⟩⟩,
    fun _ _ _ _ _ => outbound_read,
    fun _ _ _ _ _ _ hsplit hport _ => outbound_write hsplit hport,
    fun _ _ _ _ _ _ => outbound_refused,
    fun _ _ _ _ _ hreads htlps hpkt hoff hlen hsent hdone hdata =>
      ⟨completion_good hreads htlps hpkt hoff hlen hsent hdone hdata, completion_poisoned hreads htlps hpkt hoff hlen hsent hdone hdata,
        completion_fails hreads htlps hpkt hsent hdone, fun _ _ => completion_dropped hreads htlps hsent hdone,
        times_out hreads htlps hpkt hsent hdone, waits_on hreads htlps hsent hdone⟩,
    fun _ _ _ _ => vector_raised,
    fun _ _ _ hci => ⟨event_ring_enabled, consumer_moves hci, consumer_refused hci⟩⟩

end Sys2Proof.HostTraffic
end

section
/-! PROOFS. Submission rings: doorbells, the entry at CI, its operation and its completion (R324-R330). -/

namespace Sys2Proof.Rings

open Sys2Proof Sys2Proof.Machine Sys2Proof.Laws Sys2Proof.Clauses Sys2Proof.HostPorts Sys2Proof.HostAccesses Sys2Proof.FabricFrames
open Sys2Proof.HostTraffic (withFates_none)

variable {s t u v w : State} {p n : Nat} {r : Ring} {e : List Byte}

/-! ### Enabling, disabling, doorbells (R324, R325, R328) -/

theorem enabled (hr : r = s.ring p n) (hen : r.en = false) :
    ∃ t, exec (.ringEnable p n) s = .next t ∧
      t.ring p n = { r with en := true, ci := 0, pi := 0, stopped := false, cause := 0, cur := none, res := none, loading := false, dma := false } ∧ t.regs = s.regs ∧ t.mem = s.mem ∧
      t.err = s.err := by
  subst hr
  refine ⟨s.setRing p n { s.ring p n with en := true, ci := 0, pi := 0, stopped := false, cause := 0, cur := none, res := none, loading := false, dma := false }, next_congr ?_,
    ring_setRing_same .., rfl, rfl, rfl⟩
  unfold State.enableRing
  dsimp only
  rw [hen, if_neg Bool.false_ne_true]

theorem disabled (hr : r = s.ring p n) (hen : r.en = true) (hrun : r.stopped = false) :
    ∃ t e, exec (.ringDisable p n) s = .next t ∧ (t.ring p n).en = false ∧ (t.ring p n).stopped = true ∧ (t.ring p n).cause = 4 ∧ (t.ring p n).ci = r.ci ∧
      e ∈ t.err.recQ ∧ e.cls = 0x64 ∧ t.jobs = s.jobs ∧ t.cells = s.cells := by
  subst hr
  have hexec : exec (.ringDisable p n) s = .next ((s.stopRing p n 4).setRing p n { (s.stopRing p n 4).ring p n with en := false }) := by
    refine next_congr ?_
    unfold State.disableRing
    dsimp only
    rw [hen, hrun, Bool.not_true, if_neg Bool.false_ne_true, if_neg Bool.false_ne_true]
  have hstop := stopRing_keeps s p n 4
  generalize s.stopRing p n 4 = a at hexec hstop
  obtain ⟨x, hq, hcls, -⟩ := hstop.record
  have hring : (a.setRing p n { a.ring p n with en := false }).ring p n = { halted (s.ring p n) 4 with en := false } := by rw [ring_setRing_same, hstop.ring]
  refine ⟨_, x, hexec, ?_, ?_, ?_, ?_, ?_, hcls, StartPhases.within_same hstop.reach .jobs (by decide), StartPhases.within_same hstop.reach .cells (by decide)⟩
  · rw [hring]
  · rw [hring]; rfl
  · rw [hring]; rfl
  · rw [hring]; rfl
  · have herr : (a.setRing p n { a.ring p n with en := false }).err = a.err := rfl
    rw [herr, hq]
    exact List.mem_append_right _ List.mem_cons_self

theorem doorbell_kept {pi : Nat} (hr : r = s.ring p n) (hpi : pi < 65536) (hroom : r.en = true ∧ r.stopped = false → (pi + 65536 - r.ci) % 65536 ≤ 2 ^ r.log2) :
    ∃ t, exec (.ringDoorbell p n pi) s = .next t ∧ t.ring p n = { r with pi := pi } ∧ t.regs = s.regs ∧ t.mem = s.mem ∧ t.err = s.err ∧ t.out = s.out := by
  subst hr
  refine ⟨s.setRing p n { s.ring p n with pi := pi }, next_congr ?_, ring_setRing_same .., rfl, rfl, rfl, rfl⟩
  unfold State.doorbell
  dsimp only
  rw [Nat.mod_eq_of_lt hpi]
  refine if_neg fun ⟨hen, hrun, hfar⟩ => ?_
  have := hroom ⟨hen, Bool.eq_false_iff.2 hrun⟩
  omega

theorem doorbell_beyond {pi : Nat} (hr : r = s.ring p n) (hpi : pi < 65536) (hen : r.en = true) (hrun : r.stopped = false) (hfar : 2 ^ r.log2 < (pi + 65536 - r.ci) % 65536) :
    ∃ t e, exec (.ringDoorbell p n pi) s = .next t ∧ (t.ring p n).pi = pi ∧ (t.ring p n).stopped = true ∧ (t.ring p n).cause = 2 ∧ e ∈ t.err.recQ ∧ e.cls = 0x64 := by
  subst hr
  have hexec : exec (.ringDoorbell p n pi) s = .next ((s.setRing p n { s.ring p n with pi := pi }).stopRing p n 2) := by
    refine next_congr ?_
    unfold State.doorbell
    dsimp only
    rw [Nat.mod_eq_of_lt hpi]
    exact if_pos ⟨hen, Bool.eq_false_iff.1 hrun, hfar⟩
  have hring0 := ring_setRing_same s p n { s.ring p n with pi := pi }
  generalize s.setRing p n { s.ring p n with pi := pi } = a at hexec hring0
  have hstop := stopRing_keeps a p n 2
  generalize a.stopRing p n 2 = t at hexec hstop
  obtain ⟨x, hq, hcls, -⟩ := hstop.record
  have hring := hstop.ring
  rw [hring0] at hring
  refine ⟨t, x, hexec, ?_, ?_, ?_, ?_, hcls⟩
  · rw [hring]; rfl
  · rw [hring]; rfl
  · rw [hring]; rfl
  · rw [hq]; exact List.mem_append_right _ List.mem_cons_self

/-! ### The entry at CI (R325, R326) -/

/-- The result that an entry has as soon as it is judged. -/
def judged (s : State) (e : List Byte) : Option (Nat × Nat) :=
  if entryBad e then some (1, 0)
  else if rfield e 2 2 != 0xFFFF && !(match s.job? (rfield e 2 2) with | some j => j.state != 5 | none => false) then some (4, 0) else none

theorem fetches (hen : r.en = true) (hrun : r.stopped = false) (hcur : r.cur = none) (hne : r.ci ≠ r.pi) (hopen : s.portOpen p = true) :
    (r.en && !r.stopped && r.cur.isNone && r.ci != r.pi && s.portOpen p) = true := by
  rw [hen, hrun, hcur, hopen]
  simpa using hne

theorem fetched (hr : r = s.ring p n) (hen : r.en = true) (hrun : r.stopped = false) (hcur : r.cur = none) (hne : r.ci ≠ r.pi) (hopen : s.portOpen p = true)
    (he : e = s.bytes (State.hostKey (r.base / 4096 * 4096 + 64 * (r.ci % 2 ^ r.log2))) 64) :
    ∃ t, exec (.ringEntryFetch p n true false) s = .next t ∧ (t.ring p n).cur = some e ∧ (t.ring p n).ci = r.ci ∧
      (entryBad e = true → (t.ring p n).res = some (1, 0)) ∧ (entryBad e = false → rfield e 2 2 = 0xFFFF → (t.ring p n).res = none) ∧
      (entryBad e = false → rfield e 2 2 ≠ 0xFFFF → s.job? (rfield e 2 2) = none → (t.ring p n).res = some (4, 0)) ∧ t.mem = s.mem ∧ t.regs = s.regs ∧ t.err = s.err := by
  have hgo := fetches hen hrun hcur hne hopen
  subst hr
  have hexec : exec (.ringEntryFetch p n true false) s = .next (s.setRing p n { s.ring p n with cur := some e, res := judged s e }) := by
    subst he
    refine next_congr ?_
    rw [if_neg Bool.false_ne_true]
    unfold State.fetchEntry
    dsimp only
    rw [hgo, Bool.not_true, if_neg Bool.false_ne_true, if_neg Bool.false_ne_true]
    rfl
  have hring := ring_setRing_same s p n { s.ring p n with cur := some e, res := judged s e }
  refine ⟨_, hexec, by rw [hring], by rw [hring], fun hb => ?_, fun hb hj => ?_, fun hb hj hnone => ?_, rfl, rfl, rfl⟩
  · rw [hring]
    exact if_pos hb
  · rw [hring]
    unfold judged
    rw [hb, if_neg Bool.false_ne_true, hj]
    rfl
  · rw [hring]
    unfold judged
    rw [hb, if_neg Bool.false_ne_true, hnone, bne_iff_ne.2 hj]
    rfl

theorem unreadable (hr : r = s.ring p n) (hen : r.en = true) (hrun : r.stopped = false) (hcur : r.cur = none) (hne : r.ci ≠ r.pi) (hopen : s.portOpen p = true) :
    ∃ t x, exec (.ringEntryFetch p n false false) s = .next t ∧ (t.ring p n).stopped = true ∧ (t.ring p n).cause = 3 ∧ (t.ring p n).ci = r.ci ∧ x ∈ t.err.recQ ∧ x.cls = 0x64 := by
  have hgo := fetches hen hrun hcur hne hopen
  subst hr
  have hexec : exec (.ringEntryFetch p n false false) s = .next (s.stopRing p n 3) := by
    refine next_congr ?_
    rw [if_neg Bool.false_ne_true]
    unfold State.fetchEntry
    dsimp only
    rw [hgo, Bool.not_true, if_neg Bool.false_ne_true]
    rfl
  have hstop := stopRing_keeps s p n 3
  generalize s.stopRing p n 3 = t at hexec hstop
  obtain ⟨x, hq, hcls, -⟩ := hstop.record
  refine ⟨t, x, hexec, ?_, ?_, ?_, ?_, hcls⟩
  · rw [hstop.ring]; rfl
  · rw [hstop.ring]; rfl
  · rw [hstop.ring]; rfl
  · rw [hq]; exact List.mem_append_right _ List.mem_cons_self

theorem upset_fetch : ∃ t, exec (.ringEntryFetch p n true true) s = .next t ∧ t.rings = s.rings ∧ s.logs t 0x6A (.dieUnit (portDie p) n) 0 :=
  ⟨_, next_congr (if_pos rfl), raise_rings .., logs_raise rfl ..⟩

/-! ### Completion (R327, R328) -/

theorem completes_good {st det a : Nat} (hr : r = s.ring p n) (hcur : r.cur = some e) (hres : r.res = some (st, det)) (hopen : s.portOpen p = true) (hci : r.ciAddr = 0)
    (ha : a = r.base / 4096 * 4096 + 64 * (r.ci % 2 ^ r.log2) + 0x38) :
    ∃ b, s.within [.mem, .rings, .out] b ∧ b.bytes (State.hostKey a) 8 = toLe 8 (st + det * 2 ^ 8 + s.facility % 2 ^ 48 * 2 ^ 16) ∧
      (∀ k, (∀ j, j < 8 → k ≠ State.hostKey (a + j)) → b.byte k = s.byte k) ∧
      b.ring p n = { r with ci := (r.ci + 1) % 65536, cur := none, res := none, loading := false, dma := false } ∧
      exec (.ringEntryComplete p n) s = .next (if st = 0 ∨ st = 2 then (if bit (rfield e 1 1) 0 && r.irqEn then b.raiseVec p n else b) else b.stopRing p n 1) := by
  have haddr : s.entryAddr p n + 0x38 = a := by
    subst hr
    exact ha.symm
  have hexec : exec (.ringEntryComplete p n) s = .next (if st = 0 ∨ st = 2
      then (if bit (rfield e 1 1) 0 && r.irqEn
        then ((s.hostStore p a (toLe 8 (st + det * 2 ^ 8 + s.facility % 2 ^ 48 * 2 ^ 16)) false).setRing p n
          { r with ci := (r.ci + 1) % 65536, cur := none, res := none, loading := false, dma := false }).raiseVec p n
        else (s.hostStore p a (toLe 8 (st + det * 2 ^ 8 + s.facility % 2 ^ 48 * 2 ^ 16)) false).setRing p n
          { r with ci := (r.ci + 1) % 65536, cur := none, res := none, loading := false, dma := false })
      else ((s.hostStore p a (toLe 8 (st + det * 2 ^ 8 + s.facility % 2 ^ 48 * 2 ^ 16)) false).setRing p n
          { r with ci := (r.ci + 1) % 65536, cur := none, res := none, loading := false, dma := false }).stopRing p n 1) := by
    refine next_congr ?_
    unfold State.completeEntry
    dsimp only
    rw [← hr, hcur, hres]
    dsimp only
    rw [hopen, Bool.not_true, if_neg Bool.false_ne_true, haddr, hci, if_neg (show ¬ (0 : Nat) ≠ 0 by decide)]
  have hlen : (toLe 8 (st + det * 2 ^ 8 + s.facility % 2 ^ 48 * 2 ^ 16)).length = 8 := StartPhases.length_toLe ..
  generalize toLe 8 (st + det * 2 ^ 8 + s.facility % 2 ^ 48 * 2 ^ 16) = bs at hexec hlen
  have hw1 : s.within [.mem, .out] (s.hostStore p a bs false) := within_hostStore (List.Subset.refl _) (within_refl s)
  have hbyte (k : Nat) : (s.hostStore p a bs false).byte k = if State.hostKey a ≤ k ∧ k < State.hostKey a + bs.length then (bs[k - State.hostKey a]?).getD 0 else s.byte k := byte_setBytes ..
  generalize s.hostStore p a bs false = b at hexec hw1 hbyte
  have hw2 : b.within [.rings] (b.setRing p n { r with ci := (r.ci + 1) % 65536, cur := none, res := none, loading := false, dma := false }) :=
    within_setRing (List.Subset.refl _) (within_refl b)
  have hmem := StartPhases.within_same hw2 .mem (by decide)
  refine ⟨b.setRing p n { r with ci := (r.ci + 1) % 65536, cur := none, res := none, loading := false, dma := false },
    within_trans (within_mono hw1 (by decide)) (within_mono hw2 (by decide)), ?_, fun k hk => ?_, ring_setRing_same .., hexec⟩
  · refine List.ext_getElem (by simp [State.bytes, hlen]) fun i h1 h2 => ?_
    simp only [State.bytes, List.getElem_map, List.getElem_range]
    rw [GddrAccesses.byte_of_mem hmem, hbyte, if_pos (by omega), Nat.add_sub_cancel_left, List.getElem?_eq_getElem h2]
    rfl
  · rw [GddrAccesses.byte_of_mem hmem, hbyte, if_neg fun h => hk (k - State.hostKey a) (by omega) (by unfold State.hostKey at *; omega)]

theorem entry_completes {st det a : Nat} (hr : r = s.ring p n) (hcur : r.cur = some e) (hres : r.res = some (st, det)) (hopen : s.portOpen p = true) (hci : r.ciAddr = 0)
    (ha : a = r.base / 4096 * 4096 + 64 * (r.ci % 2 ^ r.log2) + 0x38) (hst : st = 0 ∨ st = 2) :
    ∃ t, exec (.ringEntryComplete p n) s = .next t ∧ t.bytes (State.hostKey a) 8 = toLe 8 (st + det * 2 ^ 8 + s.facility % 2 ^ 48 * 2 ^ 16) ∧
      (∀ k, (∀ j, j < 8 → k ≠ State.hostKey (a + j)) → t.byte k = s.byte k) ∧
      t.ring p n = { r with ci := (r.ci + 1) % 65536, cur := none, res := none, loading := false, dma := false } ∧ t.regs = s.regs ∧ t.err = s.err := by
  obtain ⟨b, hw, hbytes, hbyte, hring, hexec⟩ := completes_good hr hcur hres hopen hci ha
  rw [if_pos hst] at hexec
  have hvec : b.within [.hports, .out] (if bit (rfield e 1 1) 0 && r.irqEn then b.raiseVec p n else b) := by
    split
    · exact within_raiseVec (List.Subset.refl _) (within_refl b)
    · exact within_refl b
  generalize (if bit (rfield e 1 1) 0 && r.irqEn then b.raiseVec p n else b) = t at hexec hvec
  have hmem := StartPhases.within_same hvec .mem (by decide)
  exact ⟨t, hexec, (GddrAccesses.bytes_of_mem hmem ..).trans hbytes, fun k hk => (GddrAccesses.byte_of_mem hmem k).trans (hbyte k hk),
    (ring_of_rings (StartPhases.within_same hvec .rings (by decide)) p n).trans hring,
    (StartPhases.within_same hvec .regs (by decide)).trans (StartPhases.within_same hw .regs (by decide)),
    (StartPhases.within_same hvec .err (by decide)).trans (StartPhases.within_same hw .err (by decide))⟩

theorem entry_fails {st det a : Nat} (hr : r = s.ring p n) (hcur : r.cur = some e) (hres : r.res = some (st, det)) (hopen : s.portOpen p = true) (hci : r.ciAddr = 0)
    (ha : a = r.base / 4096 * 4096 + 64 * (r.ci % 2 ^ r.log2) + 0x38) (hst : st = 1 ∨ st = 3 ∨ st = 4) :
    ∃ t x, exec (.ringEntryComplete p n) s = .next t ∧ (t.ring p n).ci = (r.ci + 1) % 65536 ∧ (t.ring p n).stopped = true ∧ (t.ring p n).cause = 1 ∧ (t.ring p n).cur = none ∧
      x ∈ t.err.recQ ∧ x.cls = 0x64 ∧ t.jobs = s.jobs := by
  obtain ⟨b, hw, -, -, hring, hexec⟩ := completes_good hr hcur hres hopen hci ha
  rw [if_neg (by omega)] at hexec
  have hstop := stopRing_keeps b p n 1
  generalize b.stopRing p n 1 = t at hexec hstop
  obtain ⟨x, hq, hcls, -⟩ := hstop.record
  have hringt := hstop.ring
  rw [hring] at hringt
  refine ⟨t, x, hexec, ?_, ?_, ?_, ?_, ?_, hcls, (StartPhases.within_same hstop.reach .jobs (by decide)).trans (StartPhases.within_same hw .jobs (by decide))⟩
  · rw [hringt]; rfl
  · rw [hringt]; rfl
  · rw [hringt]; rfl
  · rw [hringt]; rfl
  · rw [hq]; exact List.mem_append_right _ List.mem_cons_self

/-! ### DMA (R327, R330) -/

theorem setResult_keeps (s : State) (p n st det : Nat) : s.within [.rings] (s.setResult p n st det) ∧ (s.setResult p n st det).ring p n = { s.ring p n with res := some (st, det) } :=
  ⟨within_setRing (List.Subset.refl _) (within_refl s), ring_setRing_same ..⟩

/-- The ports that host memory is reached through are as they were. -/
structure SamePaths (s t : State) : Prop where
  part : t.part = s.part
  regs : t.regs = s.regs
  links : SameLinks s t
  sizes : ∀ q, (t.hport q).mps = (s.hport q).mps ∧ (t.hport q).mrrs = (s.hport q).mrrs

theorem SamePaths.outPort (h : SamePaths s t) (a : Nat) : t.outPort a = s.outPort a := by
  have hok : (fun p => t.fld (State.pcieKey p PCIE_CTRL) 0 1 == 1 && t.portOpen p) = fun p => s.fld (State.pcieKey p PCIE_CTRL) 0 1 == 1 && s.portOpen p := by
    funext p
    unfold State.portOpen
    rw [fld_of_regs h.part h.regs, (h.links p).1, (h.links p).2]
  unfold State.outPort
  dsimp only
  rw [hok, h.part]

theorem SamePaths.outSplit (h : SamePaths s t) (write : Bool) (a len : Nat) : t.outSplit write a len = s.outSplit write a len := by
  unfold State.outSplit
  refine congrArg (fun f => (piecesBy 4096 a len).flatMap f) (funext fun x => ?_)
  rw [h.outPort]
  split
  · rfl
  · next q _ =>
    rw [(h.sizes q).1, (h.sizes q).2]

theorem SamePaths.of_within {ks : List Comp} (h : SamePaths s t) (hw : t.within ks u) (hr : Comp.regs ∉ ks) (hp : Comp.hports ∉ ks) : SamePaths s u where
  part := hw.1.trans h.part
  regs := (StartPhases.within_same hw .regs hr).trans h.regs
  links := h.links.trans (.of_within hw hp)
  sizes q := by
    rw [hport_of_hports (StartPhases.within_same hw .hports hp)]
    exact h.sizes q

/-- A channel that takes its entry. -/
theorem dmaTake_keeps (s : State) (p n : Nat) : s.within [.rings, .hports] (s.dmaTake p n) ∧ (s.dmaTake p n).ring p n = { s.ring p n with dma := true } ∧ SamePaths s (s.dmaTake p n) := by
  have hw : s.within [.rings, .hports] (s.dmaTake p n) := within_dmaTake (List.Subset.refl _) (within_refl s)
  refine ⟨hw, ring_setRing_same .., hw.1, StartPhases.within_same hw .regs (by decide), ?_, fun q => ?_⟩
  · exact .trans (.of_within (within_setRing (List.Subset.refl _) (within_refl s)) (by decide)) (.setHport rfl rfl)
  · unfold State.dmaTake
    dsimp only
    rw [hport_setHport]
    split
    · next h => subst h; exact ⟨rfl, rfl⟩
    · exact ⟨rfl, rfl⟩

/-- What one TLP's fetch leaves of the entry's run. -/
def fetchedRun (f : State × List Byte × Nat) (p ga : Nat) : State × Nat :=
  if f.2.2 = 1 ∨ f.2.2 = 3 then (f.1, State.worst 0 f.2.2)
  else ((f.1.dmaWrite p ga f.2.1 (f.2.2 == 2)).1, State.worst (State.worst 0 f.2.2) (f.1.dmaWrite p ga f.2.1 (f.2.2 == 2)).2)

theorem ringIn_one {q len : Nat} (hruns : s.entryRuns p n 1 = some e) (hturn : s.dmaTurn p n = true) (hport : s.outPort (rfield e 8 8) = some q)
    (hsplit : s.outSplit false (rfield e 8 8) (rfield e 4 4) = [(q, 0, len)]) (x : State × Nat)
    (hx : x = fetchedRun ((s.dmaTake p n).fetchTlp (.host p) q (rfield e 8 8) len) p (rfield e 0x10 8)) :
    s.ringIn p n = x.1.setResult p n x.2 (if x.2 = 0 then 0 else State.lastCls s x.1) := by
  subst hx
  unfold State.ringIn
  rw [hruns]
  dsimp only
  rw [hturn, hport, hsplit, Bool.not_true, if_neg Bool.false_ne_true, if_neg (by simp), List.foldl_cons, List.foldl_nil]
  rfl

theorem exec_in (s : State) (p n : Nat) (fs : List Fate) : exec (.ringDmaHostToEngine p n fs) s = .next { ({ s with fates := fs } : State).ringIn p n with fates := [] } := rfl

theorem exec_out (s : State) (p n : Nat) (fs : List Fate) : exec (.ringDmaEngineToHost p n fs) s = .next { ({ s with fates := fs } : State).ringOut p n with fates := [] } := rfl

/-- Host memory is read and what it holds is stored in scratchpad. -/
theorem dma_in {s1 : State} {q c o a ga len : Nat} (hlen : len = rfield e 4 4) (ha : a = rfield e 8 8) (hga : ga = rfield e 0x10 8) (hturn : s.dmaTurn p n = true)
    (hport : s.outPort a = some q) (hsp : bits ga 44 4 = 1) (ht : v.target ga = .spm c o) (hchk : v.spmCheckRun c o len 4 false = none) (hruns : s.entryRuns p n 1 = some e)
    (ho : o % 8 = 0) (h8 : len % 8 = 0) (hsplit : s.outSplit false a len = [(q, 0, len)]) (hs1 : s1 = ({ s with fates := [] } : State).dmaTake p n)
    (hout : s1.carryOut (portDie p) (.host p) ga len true = (v, 0))
    (hback : (v.meshWrite c o (s.bytes (State.hostKey a) len) [] none).1.carryBack (portDie p) (.host p) ga len true = (w, 0)) :
    ∃ t, exec (.ringDmaHostToEngine p n []) s = .next t ∧ t.bytes (spmKey c o) len = s.bytes (State.hostKey a) len ∧
      (∀ k, (∀ j, j < len → k ≠ spmKey c (o + j) ∧ k ≠ spmChkKey c (o + j)) → t.byte k = s.byte k) ∧
      t.ring p n = { s.ring p n with dma := true, res := some (0, 0) } ∧ t.regs = w.regs ∧ t.err = w.err := by
  subst ha hga
  obtain ⟨hwt, hring, -⟩ := dmaTake_keeps ({ s with fates := [] } : State) p n
  rw [← hs1] at hwt hring
  have hf1 : s1.fates = [] := (StartPhases.within_same hwt .fates (by decide))
  have hmem1 : s1.mem = s.mem := (StartPhases.within_same hwt .mem (by decide))
  have hfetch : s1.fetchTlp (.host p) q (rfield e 8 8) len = (s1, s.bytes (State.hostKey (rfield e 8 8)) len, 0) := by
    unfold State.fetchTlp
    rw [hf1]
    dsimp only [List.tail_nil, List.head?_nil]
    rw [HostTraffic.fates_same hf1]
    exact congrArg (fun b => (s1, b, 0)) (GddrAccesses.bytes_of_mem hmem1 ..)
  have hbl : (s.bytes (State.hostKey (rfield e 8 8)) len).length = len := by simp [State.bytes]
  generalize s.bytes (State.hostKey (rfield e 8 8)) len = data at hback hfetch hbl
  subst hbl
  obtain ⟨hwr, u, hland, hwv, hwu⟩ := dmaWrite_spm hsp ho h8 hout ht hchk hback
  have hwritten := FabricRequests.written_of_landed hwv hland hwu
  have hin := ringIn_one (s := { s with fates := [] }) (q := q) (len := data.length) hruns hturn hport (by rw [← hlen]; exact hsplit) (w, 0) (by
    rw [← hs1, hfetch]
    unfold fetchedRun
    dsimp only
    rw [if_neg (by decide), show ((0 : Nat) == 2) = false from rfl, hwr]
    rfl)
  have hexec : exec (.ringDmaHostToEngine p n []) s = .next { w.setResult p n 0 0 with fates := [] } :=
    (exec_in ..).trans (by rw [hin]; rfl)
  obtain ⟨hwres, hres⟩ := setResult_keeps w p n 0 0
  generalize w.setResult p n 0 0 = t at hexec hwres hres
  have hmem : t.mem = w.mem := StartPhases.within_same hwres .mem (by decide)
  refine ⟨_, hexec, ?_, fun k hk => ?_, ?_, StartPhases.within_same hwres .regs (by decide), StartPhases.within_same hwres .err (by decide)⟩
  · refine List.ext_getElem (by simp [State.bytes]) fun i h1 h2 => ?_
    simp only [State.bytes, List.getElem_map, List.getElem_range]
    have hb := hwritten.byte i h2
    rw [List.getElem?_eq_getElem h2] at hb
    exact (GddrAccesses.byte_of_mem hmem _).trans ((congrArg w.byte (by unfold spmKey; omega)).trans (Option.some.inj hb))
  · exact (GddrAccesses.byte_of_mem hmem k).trans ((hwritten.other k hk).trans (GddrAccesses.byte_of_mem hmem1 k))
  · refine hres.trans ?_
    rw [ring_of_rings (StartPhases.within_same hwritten.reach .rings (by decide)), hring]
    rfl

/-- Scratchpad is read and stored in host memory. -/
theorem dma_out {s1 : State} {q c o a ga len : Nat} (hlen : len = rfield e 4 4) (ha : a = rfield e 8 8) (hga : ga = rfield e 0x10 8) (hturn : s.dmaTurn p n = true)
    (hport : s.outPort a = some q) (hsp : bits ga 44 4 = 1) (ht : v.target ga = .spm c o) (hchk : v.spmCheckRun c o len 4 false = none) (hruns : s.entryRuns p n 2 = some e)
    (hsplit : s.outSplit true a len = [(q, 0, len)]) (hs1 : s1 = ({ s with fates := [] } : State).dmaTake p n)
    (hout : s1.carryOut (portDie p) (.host p) ga len false = (v, 0)) (hgood : ∀ j, j < len → judge (v.wordAt c (o + j)) (v.chkAt c (o + j)) = .good)
    (hback : (v.meshRead c o len).1.carryBack (portDie p) (.host p) ga len false = (w, 0)) :
    ∃ t, exec (.ringDmaEngineToHost p n []) s = .next t ∧ t.bytes (State.hostKey a) len = s.bytes (spmKey c o) len ∧
      (∀ k, (∀ j, j < len → k ≠ State.hostKey (a + j)) → t.byte k = s.byte k) ∧ t.ring p n = { s.ring p n with dma := true, res := some (0, 0) } ∧ t.regs = w.regs ∧ t.err = w.err := by
  subst ha hga hlen
  obtain ⟨hwt, hring, hpaths⟩ := dmaTake_keeps ({ s with fates := [] } : State) p n
  rw [← hs1] at hwt hring hpaths
  have hmem1 : s1.mem = s.mem := (StartPhases.within_same hwt .mem (by decide))
  obtain ⟨hread, hww⟩ := dmaRead_spm hsp hout ht hchk hgood hback
  rw [GddrAccesses.bytes_of_mem hmem1] at hread
  have hbl : (s.bytes (spmKey c o) (rfield e 4 4)).length = rfield e 4 4 := by simp [State.bytes]
  have hwsplit : w.outSplit true (rfield e 8 8) (rfield e 4 4) = [(q, 0, rfield e 4 4)] := ((hpaths.of_within hww (by decide) (by decide)).outSplit ..).trans hsplit
  generalize s.bytes (spmKey c o) (rfield e 4 4) = data at hread hbl
  have hstore : w.outStore (rfield e 8 8) data [] = w.hostStore q (rfield e 8 8) data false := by
    unfold State.outStore
    rw [hbl, hwsplit, List.foldl_cons, List.foldl_nil]
    dsimp only
    rw [Nat.add_zero, List.drop_zero, ← hbl, List.take_length]
    rfl
  have hringOut : ({ s with fates := [] } : State).ringOut p n = (w.hostStore q (rfield e 8 8) data false).setResult p n 0 0 := by
    unfold State.ringOut
    rw [show ({ s with fates := [] } : State).entryRuns p n 2 = some e from hruns]
    dsimp only
    rw [show ({ s with fates := [] } : State).dmaTurn p n = true from hturn, show ({ s with fates := [] } : State).outPort (rfield e 8 8) = some q from hport, Bool.not_true,
      if_neg Bool.false_ne_true, if_neg (by simp), ← hs1, hread]
    dsimp only
    rw [if_neg (by decide), if_neg (by decide), hstore]
  have hexec : exec (.ringDmaEngineToHost p n []) s = .next { (w.hostStore q (rfield e 8 8) data false).setResult p n 0 0 with fates := [] } :=
    (exec_out ..).trans (by rw [hringOut])
  have hws : w.within [.mem, .out] (w.hostStore q (rfield e 8 8) data false) := within_hostStore (List.Subset.refl _) (within_refl w)
  have hbyte (k : Nat) : (w.hostStore q (rfield e 8 8) data false).byte k =
      if State.hostKey (rfield e 8 8) ≤ k ∧ k < State.hostKey (rfield e 8 8) + data.length then (data[k - State.hostKey (rfield e 8 8)]?).getD 0 else w.byte k := byte_setBytes ..
  generalize w.hostStore q (rfield e 8 8) data false = b at hexec hws hbyte
  obtain ⟨hwres, hres⟩ := setResult_keeps b p n 0 0
  generalize b.setResult p n 0 0 = t at hexec hwres hres
  have hmem : t.mem = b.mem := StartPhases.within_same hwres .mem (by decide)
  have hmemw (k : Nat) : w.byte k = s.byte k := (GddrAccesses.byte_of_mem (StartPhases.within_same hww .mem (by decide)) k).trans (GddrAccesses.byte_of_mem hmem1 k)
  refine ⟨_, hexec, ?_, fun k hk => ?_, ?_, (StartPhases.within_same hwres .regs (by decide)).trans (StartPhases.within_same hws .regs (by decide)),
    (StartPhases.within_same hwres .err (by decide)).trans (StartPhases.within_same hws .err (by decide))⟩
  · refine List.ext_getElem (by simp [State.bytes, hbl]) fun i h1 h2 => ?_
    simp only [State.bytes, List.getElem_map, List.getElem_range]
    refine (GddrAccesses.byte_of_mem hmem _).trans ?_
    rw [hbyte, if_pos (by omega), Nat.add_sub_cancel_left, List.getElem?_eq_getElem h2]
    rfl
  · refine (GddrAccesses.byte_of_mem hmem k).trans ?_
    rw [hbyte, if_neg fun h => hk (k - State.hostKey (rfield e 8 8)) (by omega) (by unfold State.hostKey at *; omega)]
    exact hmemw k
  · refine hres.trans ?_
    rw [ring_of_rings (StartPhases.within_same hws .rings (by decide)), ring_of_rings (StartPhases.within_same hww .rings (by decide)), hring]
    rfl

/-- A host that does not answer. -/
theorem dma_late {q len : Nat} (hruns : s.entryRuns p n 1 = some e) (hturn : s.dmaTurn p n = true) (hport : s.outPort (rfield e 8 8) = some q)
    (hsplit : s.outSplit false (rfield e 8 8) (rfield e 4 4) = [(q, 0, len)]) :
    ∃ t, exec (.ringDmaHostToEngine p n [.late]) s = .next t ∧ (t.ring p n).res = some (3, 0x65) ∧ t.mem = s.mem ∧ t.regs = s.regs ∧
      s.logs t 0x65 (.dieUnit (portDie q) q) (2 + q * 2 ^ 8 + rfield e 8 8 % 2 ^ 44 * 2 ^ 16) := by
  obtain ⟨hwt, -, -⟩ := dmaTake_keeps ({ s with fates := [.late] } : State) p n
  have hf1 : (({ s with fates := [.late] } : State).dmaTake p n).fates = [.late] := StartPhases.within_same hwt .fates (by decide)
  have hin := ringIn_one (s := { s with fates := [.late] }) hruns hturn hport hsplit _ rfl
  have hexec := exec_in s p n [.late]
  rw [hin] at hexec
  have hmem1 : (({ s with fates := [.late] } : State).dmaTake p n).mem = s.mem := StartPhases.within_same hwt .mem (by decide)
  have hregs1 : (({ s with fates := [.late] } : State).dmaTake p n).regs = s.regs := StartPhases.within_same hwt .regs (by decide)
  have herr1 : (({ s with fates := [.late] } : State).dmaTake p n).err = s.err := StartPhases.within_same hwt .err (by decide)
  generalize ({ s with fates := [.late] } : State).dmaTake p n = s1 at hexec hf1 hmem1 hregs1 herr1
  have hrun : fetchedRun (s1.fetchTlp (.host p) q (rfield e 8 8) len) p (rfield e 0x10 8) = (({ s1 with fates := [] } : State).outFail (.host p) q 2 (rfield e 8 8), 3) := by
    unfold State.fetchTlp
    rw [hf1]
    rfl
  rw [hrun, if_neg (show (3 : Nat) ≠ 0 by decide)] at hexec
  dsimp only at hexec
  have hlogs : s.logs (({ s1 with fates := [] } : State).outFail (.host p) q 2 (rfield e 8 8)) 0x65 (.dieUnit (portDie q) q) (2 + q * 2 ^ 8 + rfield e 8 8 % 2 ^ 44 * 2 ^ 16) :=
    logs_raise (t := { s1 with fates := [] }) (congrArg Err.recQ herr1) ..
  obtain ⟨hw2, -⟩ := HostTraffic.outFail_record ({ s1 with fates := [] } : State) (.host p) q 2 (rfield e 8 8)
  have hmem2 := (StartPhases.within_same hw2 .mem (by decide) : _).trans hmem1
  have hregs2 := (StartPhases.within_same hw2 .regs (by decide) : _).trans hregs1
  generalize ({ s1 with fates := [] } : State).outFail (.host p) q 2 (rfield e 8 8) = b at hexec hlogs hmem2 hregs2
  have hlast : State.lastCls ({ s with fates := [.late] } : State) b = 0x65 := by
    obtain ⟨x, hq, hcls, -⟩ := hlogs
    unfold State.lastCls
    rw [hq, List.drop_left']
    · exact hcls
    · rfl
  rw [hlast] at hexec
  obtain ⟨hwres, hres⟩ := setResult_keeps b p n 3 0x65
  generalize b.setResult p n 3 0x65 = t at hexec hwres hres
  refine ⟨_, hexec, (congrArg Ring.res hres : _), (StartPhases.within_same hwres .mem (by decide) : _).trans hmem2, (StartPhases.within_same hwres .regs (by decide) : _).trans hregs2,
    logs_of_err hlogs (congrArg Err.recQ (StartPhases.within_same hwres .err (by decide) : _))⟩

/-- A ring that waits for its channel. -/
theorem dma_waits (hruns : s.entryRuns p n 1 = some e) (hturn : s.dmaTurn p n = false) :
    ∃ t, exec (.ringDmaHostToEngine p n []) s = .next t ∧ t.rings = s.rings ∧ t.mem = s.mem ∧ t.regs = s.regs ∧ t.err = s.err := by
  have hin : ({ s with fates := [] } : State).ringIn p n = { s with fates := [] } := by
    unfold State.ringIn
    rw [show ({ s with fates := [] } : State).entryRuns p n 1 = some e from hruns]
    dsimp only
    rw [show ({ s with fates := [] } : State).dmaTurn p n = false from hturn, Bool.not_false, if_pos rfl]
  exact ⟨_, (exec_in ..).trans (congrArg Host.Outcome.next (HostTraffic.fates_same (s := ({ s with fates := [] } : State).ringIn p n) (by rw [hin]))), by rw [hin], by rw [hin], by rw [hin], by rw [hin]⟩

/-! ### Other operations (R327) -/

theorem nop_done (hruns : s.entryRuns p n 0 = some e) :
    ∃ t, exec (.ringNop p n) s = .next t ∧ t.ring p n = { s.ring p n with res := some (0, 0) } ∧ t.mem = s.mem ∧ t.regs = s.regs ∧ t.err = s.err := by
  obtain ⟨hw, hres⟩ := setResult_keeps s p n 0 0
  exact ⟨_, next_congr (by rw [hruns]), hres, StartPhases.within_same hw .mem (by decide), StartPhases.within_same hw .regs (by decide), StartPhases.within_same hw .err (by decide)⟩

theorem exec_register (s : State) (p n : Nat) (fs : List Fate) : exec (.ringRegisterWrite p n fs) s = .next { ({ s with fates := fs } : State).ringReg p n with fates := [] } := rfl

theorem exec_load (s : State) (p n : Nat) (fs : List Fate) : exec (.ringLoad p n fs) s = .next { ({ s with fates := fs } : State).ringLoad p n with fates := [] } := rfl

theorem exec_job (s : State) (p n : Nat) (fs : List Fate) : exec (.ringJobCommand p n fs) s = .next { ({ s with fates := fs } : State).ringJob p n with fates := [] } := rfl

theorem register_written {k : Nat} (hruns : s.entryRuns p n 3 = some e) (hkey : State.ctlKey (s.target (rfield e 0x10 8)) = some k)
    (hout : ({ s with fates := [] } : State).carryOut (portDie p) (.host p) (rfield e 0x10 8) (if bit (rfield e 1 1) 1 then 8 else 4) true = (v, 0))
    (hwr : v.ctlWrite (.host p) k (bit (rfield e 1 1) 1) (BitVec.ofNat 64 (rfield e 0x18 8)) (rfield e 0x10 8) = (u, true))
    (hback : u.carryBack (portDie p) (.host p) (rfield e 0x10 8) (if bit (rfield e 1 1) 1 then 8 else 4) true = (w, 0)) :
    ∃ t, exec (.ringRegisterWrite p n []) s = .next t ∧ t.regs = w.regs ∧ t.mem = u.mem ∧ t.cells = u.cells ∧ (t.ring p n).res = some (0, 0) := by
  have hreg : ({ s with fates := [] } : State).ringReg p n = w.setResult p n 0 0 := by
    have hkey' : State.ctlKey (({ s with fates := [] } : State).target (rfield e 0x10 8)) = some k := hkey
    unfold State.ringReg
    rw [show ({ s with fates := [] } : State).entryRuns p n 3 = some e from hruns]
    dsimp only
    rw [hkey']
    dsimp only
    rw [carried_arrives (r := 0) hout (by rw [hwr]; rfl) hback]
    rfl
  have hexec : exec (.ringRegisterWrite p n []) s = .next { w.setResult p n 0 0 with fates := [] } := (exec_register ..).trans (by rw [hreg])
  have hwu := carryBack_arrives hback
  obtain ⟨hw, hres⟩ := setResult_keeps w p n 0 0
  generalize w.setResult p n 0 0 = t at hexec hw hres
  exact ⟨_, hexec, StartPhases.within_same hw .regs (by decide), (StartPhases.within_same hw .mem (by decide) : _).trans (StartPhases.within_same hwu .mem (by decide)),
    (StartPhases.within_same hw .cells (by decide) : _).trans (StartPhases.within_same hwu .cells (by decide)), (congrArg Ring.res hres : _)⟩

theorem signal_sent {c : Nat} {k : Pkt} (hruns : s.entryRuns p n 4 = some e) (hk : k = { Pkt.blank 5 (.host p) (.agent (portDie p)) with
      x := bits (rfield e 0x18 4) 16 8, y := bits (rfield e 0x18 4) 24 7, ctr := bits (rfield e 0x18 4) 0 6, epoch := bits (rfield e 0x18 4) 6 2, inc := bits (rfield e 0x18 4) 8 8 })
    (hctr : k.ctr < 48) (hmc : bit (rfield e 0x18 4) 31 = false) (hinc : 0 < k.inc) (hphys : s.physicalOf k.x k.y = some c) (hcarry : s.carry (portDie p) k (.cell k.x k.y) = (v, 0))
    (hhole : v.isHole c = false) :
    ∃ t, exec (.ringSignal p n) s = .next t ∧ (t.ring p n).res = some (0, 0) ∧ t.mem = s.mem ∧ t.regs = v.regs ∧ t.err = v.err ∧ t.net = s.net ∧
      t.cell c = { s.cell c with sigs := (s.cell c).sigs ++ [((s.cell c).rcyc, ⟨k.ctr, k.epoch, k.inc, none, false⟩)] } ∧ s.cellsBut t c := by
  subst hk
  have hctr' : bits (rfield e 0x18 4) 0 6 < 48 := hctr
  have hinc' : 0 < bits (rfield e 0x18 4) 8 8 := hinc
  have hphys' : s.physicalOf (bits (rfield e 0x18 4) 16 8) (bits (rfield e 0x18 4) 24 7) = some c := hphys
  have hsend : s.agentSignal (portDie p) (.host p) (bits (rfield e 0x18 4) 16 8) (bits (rfield e 0x18 4) 24 7) (bits (rfield e 0x18 4) 0 6) (bits (rfield e 0x18 4) 6 2)
      (bits (rfield e 0x18 4) 8 8) = v.applySignal c 0 ⟨bits (rfield e 0x18 4) 0 6, bits (rfield e 0x18 4) 6 2, bits (rfield e 0x18 4) 8 8, none, false⟩ := by
    have hland (k : Pkt) : v.landSignal c k = v.applySignal c 0 (v.pktSignal k) := by
      unfold State.landSignal
      rw [hhole, if_neg Bool.false_ne_true]
    unfold State.agentSignal
    dsimp only
    rw [hphys', hcarry]
    exact hland _
  have hexec : exec (.ringSignal p n) s = .next ((v.applySignal c 0 ⟨bits (rfield e 0x18 4) 0 6, bits (rfield e 0x18 4) 6 2, bits (rfield e 0x18 4) 8 8, none, false⟩).setResult p n 0 0) := by
    refine next_congr ?_
    unfold State.ringSignal
    rw [hruns]
    dsimp only
    rw [hmc, decide_eq_false (by omega), show (bits (rfield e 0x18 4) 8 8 == 0) = false from beq_eq_false_iff_ne.2 (by omega), Bool.or_self, Bool.or_self, if_neg Bool.false_ne_true, hphys',
      Option.isNone_some, if_neg Bool.false_ne_true, hsend]
  have hwv := carry_arrives hcarry
  have hcell (q : Nat) : v.cell q = s.cell q := DescriptorQueue.cell_of_cells (StartPhases.within_same hwv .cells (by decide)) q
  have hsigs := MeshRequests.applySignal_cell (s := v) (c := c) 0 ⟨bits (rfield e 0x18 4) 0 6, bits (rfield e 0x18 4) 6 2, bits (rfield e 0x18 4) 8 8, none, false⟩
  have hothers (q : Nat) (hq : q ≠ c) : (v.applySignal c 0 ⟨bits (rfield e 0x18 4) 0 6, bits (rfield e 0x18 4) 6 2, bits (rfield e 0x18 4) 8 8, none, false⟩).cell q = v.cell q :=
    (cell_setCell ..).trans (if_neg hq)
  have hwy : v.within [.cells] (v.applySignal c 0 ⟨bits (rfield e 0x18 4) 0 6, bits (rfield e 0x18 4) 6 2, bits (rfield e 0x18 4) 8 8, none, false⟩) :=
    within_setCell (List.Subset.refl _) (within_refl v)
  generalize v.applySignal c 0 ⟨bits (rfield e 0x18 4) 0 6, bits (rfield e 0x18 4) 6 2, bits (rfield e 0x18 4) 8 8, none, false⟩ = y at hexec hsigs hothers hwy
  obtain ⟨hw, hres⟩ := setResult_keeps y p n 0 0
  generalize y.setResult p n 0 0 = t at hexec hw hres
  have hcellt (q : Nat) : t.cell q = y.cell q := DescriptorQueue.cell_of_cells (StartPhases.within_same hw .cells (by decide)) q
  refine ⟨t, hexec, by rw [hres], ?_, ?_, ?_, ?_, ?_, fun q hq => ?_⟩
  · exact (StartPhases.within_same hw .mem (by decide)).trans ((StartPhases.within_same hwy .mem (by decide)).trans (StartPhases.within_same hwv .mem (by decide)))
  · exact (StartPhases.within_same hw .regs (by decide)).trans (StartPhases.within_same hwy .regs (by decide))
  · exact (StartPhases.within_same hw .err (by decide)).trans (StartPhases.within_same hwy .err (by decide))
  · exact (StartPhases.within_same hw .net (by decide)).trans ((StartPhases.within_same hwy .net (by decide)).trans (StartPhases.within_same hwv .net (by decide)))
  · rw [hcellt, hsigs, hcell]
    rfl
  · rw [hcellt, hothers q hq, hcell]

theorem load_started (hruns : s.entryRuns p n 5 = some e) (hload : s.load = none) (hfirst : (s.ring p n).loading = false)
    (hout : ({ s with fates := [] } : State).carryOut (portDie p) (.host p) (4 * 2 ^ 44 + BOOT_LOAD_CMD) 4 true = (v, 0))
    (hu : u = (((v.setReg (ecKey BOOT_LOAD_SRC) (BitVec.ofNat 64 (rfield e 0x10 8 % 2 ^ 48))).setReg (ecKey BOOT_LOAD_LEN) (BitVec.ofNat 64 (rfield e 4 4))).setReg
      (ecKey BOOT_LOAD_ORG) (BitVec.ofNat 64 (rfield e 0x18 4 % 2 ^ 15))).setRing p n { v.ring p n with loading := true })
    (hback : u.loadStart.carryBack (portDie p) (.host p) (4 * 2 ^ 44 + BOOT_LOAD_CMD) 4 true = (w, 0)) :
    exec (.ringLoad p n []) s = .next { w with fates := [] } ∧ u.load = none ∧ u.jobs = s.jobs ∧ u.mem = s.mem ∧ (u.ring p n).loading = true ∧
      w.load = u.loadStart.load ∧ w.rings = u.loadStart.rings ∧ w.mem = u.loadStart.mem := by
  have hwv := carryOut_arrives hout
  have hloadv : v.load = none := (StartPhases.within_same hwv .load (by decide) : _).trans hload
  have hwu := carryBack_arrives hback
  have hw3 : v.within [.regs, .rings] u := by
    rw [hu]
    exact within_setRing (by decide) (within_setReg (by decide) (within_setReg (by decide) (within_setReg (by decide) (within_refl v))))
  have hring : (u.ring p n).loading = true := by
    rw [hu, ring_setRing_same]
  have hrun : ({ s with fates := [] } : State).ringLoad p n = w := by
    unfold State.ringLoad
    rw [show ({ s with fates := [] } : State).entryRuns p n 5 = some e from hruns]
    dsimp only
    rw [show (({ s with fates := [] } : State).ring p n).loading = false from hfirst, if_neg Bool.false_ne_true]
    rw [carried_arrives (r := 0) (u := u.loadStart) hout ?_ hback]
    · rfl
    · rw [setReg_load, setReg_load, setReg_load, hloadv, Option.isSome_none, if_neg Bool.false_ne_true, hu]
      rfl
  refine ⟨(exec_load ..).trans (by rw [hrun]), ?_, ?_, ?_, hring, StartPhases.within_same hwu .load (by decide), StartPhases.within_same hwu .rings (by decide),
    StartPhases.within_same hwu .mem (by decide)⟩
  · exact (StartPhases.within_same hw3 .load (by decide)).trans hloadv
  · exact (StartPhases.within_same hw3 .jobs (by decide)).trans (StartPhases.within_same hwv .jobs (by decide) : _)
  · exact (StartPhases.within_same hw3 .mem (by decide)).trans (StartPhases.within_same hwv .mem (by decide) : _)

/-- A job that starts no core is done at once. -/
theorem started_done {j : Job} {id : Nat} (hj : s.job? id = some j) (hst : j.state = 2) (hno : j.starts = []) :
    (s.jobStart id).job? id = some { j with state := 4 } ∧ (s.jobStart id).cells = s.cells ∧ (s.jobStart id).err = s.err := by
  have hsame := JobStates.setJobState_same s hj 3
  have hcells := JobStates.cells_setJobState s id 3
  have herr := JobStates.err_setJobState s id 3
  unfold State.jobStart
  rw [hj]
  dsimp only
  rw [hst, if_neg (show ¬ (2 : Nat) ≠ 2 by decide)]
  have hfold (a : State) : j.starts.foldl (fun t e => t.coreRun e.1 e.2) a = a := by rw [hno]; rfl
  rw [hfold]
  generalize s.setJobState id 3 = a at hsame hcells herr
  have hw : a.within [.regs] (a.adoptPace id) := by
    unfold State.adoptPace
    split
    · exact within_setFld (List.Subset.refl _) (within_refl a)
    · exact within_refl a
  generalize a.adoptPace id = b at hw
  have hjob : b.job? id = some { j with state := 3 } := (JobStates.job_of_jobs (StartPhases.within_same hw .jobs (by decide)) id).trans hsame
  unfold State.jobDone
  rw [hjob]
  dsimp only
  rw [if_pos ⟨rfl, by rw [hno]; rfl⟩, JobStates.setJobState_same _ hjob 4, JobStates.cells_setJobState, JobStates.err_setJobState]
  exact ⟨rfl, (StartPhases.within_same hw .cells (by decide)).trans hcells, (StartPhases.within_same hw .err (by decide)).trans herr⟩

theorem job_commanded {j : Job} (hruns : s.entryRuns p n 6 = some e) (hj : s.job? (bits (rfield e 0x18 4) 0 16) = some j) (hst : j.state = 2) (hno : j.starts = [])
    (hop : bits (rfield e 0x18 4) 16 2 = 1)
    (hout : ({ s with fates := [] } : State).carryOut (portDie p) (.host p) (4 * 2 ^ 44 + BOOT_JOB_CMD) 4 true = (v, 0))
    (hback : (v.jobCmd (rfield e 0x18 4)).carryBack (portDie p) (.host p) (4 * 2 ^ 44 + BOOT_JOB_CMD) 4 true = (w, 0)) :
    ∃ t x, exec (.ringJobCommand p n []) s = .next t ∧ t.job? (bits (rfield e 0x18 4) 0 16) = some x ∧ x.state = 4 ∧ (t.ring p n).res = some (0, 0) ∧ t.cells = s.cells := by
  have hwv := carryOut_arrives hout
  have hjv : v.job? (bits (rfield e 0x18 4) 0 16) = some j := (JobStates.job_of_jobs (StartPhases.within_same hwv .jobs (by decide) : _) _).trans hj
  have hcmd : v.jobCmd (rfield e 0x18 4) = v.jobStart (bits (rfield e 0x18 4) 0 16) := if_pos hop
  obtain ⟨hdone, hcells, herr⟩ := started_done hjv hst hno
  rw [← hcmd] at hdone hcells herr
  have hlast : State.lastCls v (v.jobCmd (rfield e 0x18 4)) = 0 := by
    unfold State.lastCls
    rw [herr, List.drop_length]
    rfl
  have hrun : ({ s with fates := [] } : State).ringJob p n = w.setResult p n 0 0 := by
    unfold State.ringJob
    rw [show ({ s with fates := [] } : State).entryRuns p n 6 = some e from hruns]
    dsimp only
    rw [carried_arrives (r := 0) (u := v.jobCmd (rfield e 0x18 4)) hout ?_ hback]
    · rfl
    · rw [hlast]
      rfl
  have hexec : exec (.ringJobCommand p n []) s = .next { w.setResult p n 0 0 with fates := [] } := (exec_job ..).trans (by rw [hrun])
  have hwu := carryBack_arrives hback
  generalize v.jobCmd (rfield e 0x18 4) = a at hdone hcells hwu
  obtain ⟨hw, hres⟩ := setResult_keeps w p n 0 0
  generalize w.setResult p n 0 0 = t at hexec hw hres
  have hjobs : t.jobs = a.jobs := (StartPhases.within_same hw .jobs (by decide)).trans (StartPhases.within_same hwu .jobs (by decide))
  refine ⟨_, _, hexec, (JobStates.job_of_jobs hjobs _).trans hdone, rfl, congrArg Ring.res hres, ?_⟩
  exact (StartPhases.within_same hw .cells (by decide) : _).trans ((StartPhases.within_same hwu .cells (by decide)).trans (hcells.trans (StartPhases.within_same hwv .cells (by decide))))

/-- Settles O41: a ring's stop leaves its index, an entry's operation is its target's own rule with its result, and the completion moves CI. -/
theorem ringsRunTheirEntries : Obligations.RingsRunTheirEntries :=
  ⟨fun _ _ _ _ hr => ⟨enabled hr, disabled hr, fun _ => doorbell_kept hr, fun _ => doorbell_beyond hr⟩,
    fun _ _ _ _ _ hr hen hrun hcur hne hopen he => ⟨fetched hr hen hrun hcur hne hopen he, unreadable hr hen hrun hcur hne hopen, upset_fetch⟩,
    fun _ _ _ _ _ _ _ _ _ _ _ _ _ hlen ha hga hturn hport hsp ht hchk =>
      ⟨dma_in hlen ha hga hturn hport hsp ht hchk, fun hruns _ => dma_out hlen ha hga hturn hport hsp ht hchk hruns⟩,
    fun _ _ _ _ _ _ hruns => ⟨dma_late hruns, dma_waits hruns⟩,
    fun _ _ _ _ => ⟨nop_done, fun _ _ _ _ => register_written, fun _ _ _ => signal_sent, fun _ _ _ => load_started, fun _ _ _ => job_commanded⟩,
    fun _ _ _ _ _ _ _ _ hr hcur hres hopen hci ha => ⟨entry_completes hr hcur hres hopen hci ha, entry_fails hr hcur hres hopen hci ha⟩⟩

end Sys2Proof.Rings
end

section
/-! PROOFS. The rails of a region and the registers every die shows (R348, R354, R361). -/

namespace Sys2Proof.PowerRails

open Sys2Proof Sys2Proof.Machine Sys2Proof.Laws Sys2Proof.Clauses
open Sys2Proof.PulseRemoval (regionsBut_setRegion)

variable {s t u : State} {r d : Nat}

/-! ### A register that reads the same on every die (R361) -/

theorem dieKey_inj {d e o : Nat} (h : dieKey d o = dieKey e o) : d = e := by
  unfold dieKey at h
  omega

/-- What a field set on the listed dies leaves. -/
structure SetOn (s t : State) (l : List Nat) (o lo w v : Nat) : Prop where
  reach : s.within [.regs] t
  set : ∀ d ∈ l, t.fld (dieKey d o) lo w = v % 2 ^ w
  apart : ∀ d lo' w', lo' + w' ≤ lo ∨ lo + w ≤ lo' → t.fld (dieKey d o) lo' w' = s.fld (dieKey d o) lo' w'
  other : ∀ k, (∀ d ∈ l, k ≠ dieKey d o) → t.reg k = s.reg k

theorem setOn_foldl {o lo w : Nat} (v : Nat) (h : lo + w ≤ 64) (l : List Nat) (s : State) : SetOn s (l.foldl (fun t d => t.setFld (dieKey d o) lo w v) s) l o lo w v := by
  induction l generalizing s with
  | nil => exact ⟨within_refl s, fun _ hd => absurd hd List.not_mem_nil, fun _ _ _ _ => rfl, fun _ _ => rfl⟩
  | cons e l ih =>
    rw [List.foldl_cons]
    have hw : s.within [.regs] (s.setFld (dieKey e o) lo w v) := within_setFld (List.Subset.refl _) (within_refl s)
    have hsame : (s.setFld (dieKey e o) lo w v).fld (dieKey e o) lo w = v % 2 ^ w := fld_setFld_same s v h
    have hapart (d lo' w' : Nat) (ha : lo' + w' ≤ lo ∨ lo + w ≤ lo') : (s.setFld (dieKey e o) lo w v).fld (dieKey d o) lo' w' = s.fld (dieKey d o) lo' w' := by
      by_cases hd : d = e
      · subst hd
        exact fld_setFld_apart _ _ h ha
      · exact fld_setFld_other _ _ _ _ _ _ fun hk => hd (dieKey_inj hk)
    have hother (k : Nat) (hk : k ≠ dieKey e o) : (s.setFld (dieKey e o) lo w v).reg k = s.reg k := reg_setFld_other _ _ _ _ hk
    generalize s.setFld (dieKey e o) lo w v = a at hw hsame hapart hother
    obtain ⟨hw', hin, hap, hout⟩ := ih a
    refine ⟨within_trans hw hw', fun d hd => ?_, fun d lo' w' ha => (hap d lo' w' ha).trans (hapart d lo' w' ha), fun k hk => ?_⟩
    · by_cases hl : d ∈ l
      · exact hin d hl
      · obtain rfl : d = e := (List.mem_cons.1 hd).resolve_right hl
        have hreg := hout (dieKey d o) fun q hq hk => hl (by rw [dieKey_inj hk]; exact hq)
        unfold State.fld at hsame ⊢
        rw [hreg, hsame]
    · rw [hout k fun d hd => hk d (List.mem_cons_of_mem _ hd), hother k (hk e List.mem_cons_self)]

theorem setAll_keeps (s : State) {o lo w : Nat} (v : Nat) (h : lo + w ≤ 64) : SetOn s (s.setAll o lo w v) (List.range s.part.dies) o lo w v := setOn_foldl v h _ s

/-- A field that was set on every die, read at one of them. -/
theorem SetOn.at_die {o lo w v d : Nat} (h : SetOn s t (List.range s.part.dies) o lo w v) (hd : d < s.part.dies) (hv : v < 2 ^ w) : t.fld (dieKey d o) lo w = v :=
  (h.set d (List.mem_range.2 hd)).trans (Nat.mod_eq_of_lt hv)

theorem SetOn.away {o lo w v k : Nat} {l : List Nat} (h : SetOn s t l o lo w v) (hk : ∀ d, k ≠ dieKey d o) : t.reg k = s.reg k :=
  h.other k fun d _ => hk d

/-! ### Rails that open (R354) -/

theorem ldoKey_eq (r rail : Nat) : ldoKey r rail = (1 + r / 64) * 0x1000000 + (0x20000 + 8 * (r % 64) + 4 * rail) := by
  unfold ldoKey dieKey regionDie LDO_CR
  omega

theorem ldoKey_ne (r : Nat) : ldoKey r 0 ≠ ldoKey r 1 := by
  rw [ldoKey_eq, ldoKey_eq]
  omega

/-- Keys of no unit of a cell: the engine's and the dies' own, or beyond a cell's units. -/
def NoCellKey (k : Nat) : Prop := k < 0x10000000 ∨ 0x6000 ≤ k % 0x1000000

/-- What rails of a region that open leave: beside its cells, its activity and its own controllers' registers nothing but the count of ballast cells. -/
structure RailsOpen (s t : State) (r : Nat) : Prop where
  reach : s.within [.regs, .cells, .regions, .band] t
  low : ∀ k, NoCellKey k → k ≠ ldoKey r 0 → k ≠ ldoKey r 1 → t.reg k = s.reg k
  others : s.regionsBut t r
  band : t.band = { s.band with nbal := t.band.nbal }

theorem reg_dropRegs (s : State) (r : Nat) {on : Nat → Bool} (hon : ∀ o, 0x6000 ≤ o → on o = false) {k : Nat} (hk : NoCellKey k) : (s.dropRegs r on).reg k = s.reg k := by
  refine StartPhases.get_filter_of_kept (fun v => ?_) ..
  dsimp only
  rcases hk with h | h
  · rw [show keyCell k = none from if_pos (by omega)]
  · rw [hon _ h]
    split
    · rw [Bool.and_false]
      rfl
    · rfl

theorem onCompute_high (o : Nat) (h : 0x6000 ≤ o) : onCompute o = false := by
  unfold onCompute
  rw [decide_eq_false (by omega), decide_eq_false (by omega : ¬o < 0x6000), Bool.and_false]
  rfl

theorem onRouter_high (o : Nat) (h : 0x6000 ≤ o) : onRouter o = false := by
  unfold onRouter
  rw [decide_eq_false (by omega : ¬o < 0x4000), Bool.and_false]

theorem noCellKey_ldo (r rail : Nat) (h : rail < 2) : NoCellKey (ldoKey r rail) := by
  right
  rw [ldoKey_eq]
  omega

theorem dropVset_keeps (s : State) (r : Nat) : s.within [.regs] (s.dropVset r) ∧ (∀ k, k ≠ ldoKey r 0 → k ≠ ldoKey r 1 → (s.dropVset r).reg k = s.reg k) ∧
    ∀ k lo w, 12 ≤ lo → (s.dropVset r).fld k lo w = s.fld k lo w := by
  have hrail (a : State) (rail v k : Nat) (hk : k ≠ ldoKey r rail) : (a.railVset r rail v).reg k = a.reg k := by
    unfold State.railVset
    dsimp only
    split
    · rw [reg_setFld_other _ _ _ _ hk, reg_setFld_other _ _ _ _ hk]
    · rw [reg_setFld_other _ _ _ _ hk]
  have hhigh (a : State) (rail v k lo w : Nat) (hlo : 12 ≤ lo) : (a.railVset r rail v).fld k lo w = a.fld k lo w := by
    by_cases hk : k = ldoKey r rail
    · subst hk
      unfold State.railVset
      dsimp only
      split
      · rw [fld_setFld_apart _ _ (by decide) (.inr (by omega)), fld_setFld_apart _ _ (by decide) (.inr (by omega))]
      · rw [fld_setFld_apart _ _ (by decide) (.inr (by omega))]
    · unfold State.fld
      rw [hrail _ _ _ _ hk]
  refine ⟨within_dropVset (List.Subset.refl _) (within_refl s), fun k h0 h1 => ?_, fun k lo w hlo => ?_⟩
  · unfold State.dropVset
    split
    · rw [hrail _ _ _ _ h1, hrail _ _ _ _ h0]
    · rfl
  · unfold State.dropVset
    split
    · rw [hhigh _ _ _ _ _ _ hlo, hhigh _ _ _ _ _ _ hlo]
    · rfl

/-- A cell whose compute units lost power. -/
theorem cellOff_keeps (s : State) (c : Nat) : s.within [.cells] (s.cellOff c) ∧ (∀ k, ((s.cellOff c).core c k).st = 0) ∧ ((s.cellOff c).mxe c).queue = [] ∧
    ∀ e, e ≠ c → (s.cellOff c).cell e = s.cell e := by
  refine ⟨within_setCell (List.Subset.refl _) (within_refl s), fun k => ?_, ?_, fun e he => (cell_setCell ..).trans (if_neg he)⟩
  · unfold State.core State.cellOff
    rw [cell_setCell_same]
    cases k <;> rfl
  · unfold State.mxe State.cellOff
    rw [cell_setCell_same]
    rfl

theorem cellsOff_keeps (l : List Nat) (s : State) : s.within [.cells] (l.foldl (fun t c => t.cellOff c) s) ∧
    (∀ c ∈ l, (∀ k, ((l.foldl (fun t c => t.cellOff c) s).core c k).st = 0) ∧ ((l.foldl (fun t c => t.cellOff c) s).mxe c).queue = []) ∧
    ∀ e, e ∉ l → (l.foldl (fun t c => t.cellOff c) s).cell e = s.cell e := by
  induction l generalizing s with
  | nil => exact ⟨within_refl s, fun _ h => absurd h List.not_mem_nil, fun _ _ => rfl⟩
  | cons c l ih =>
    rw [List.foldl_cons]
    obtain ⟨hw, hcore, hmxe, hother⟩ := cellOff_keeps s c
    generalize s.cellOff c = a at hw hcore hmxe hother
    obtain ⟨hw', hin, hout⟩ := ih a
    refine ⟨within_trans hw hw', fun e he => ?_, fun e he => ?_⟩
    · by_cases hl : e ∈ l
      · exact hin e hl
      · obtain rfl : e = c := (List.mem_cons.1 he).resolve_right hl
        have hsame := hout e hl
        refine ⟨fun k => ?_, ?_⟩
        · unfold State.core at hcore ⊢
          rw [hsame]
          exact hcore k
        · unfold State.mxe at hmxe ⊢
          rw [hsame, hmxe]
    · rw [hout e fun h => he (List.mem_cons_of_mem _ h), hother e fun h => he (h ▸ List.mem_cons_self)]

/-- A region whose compute rail opened. -/
structure ComputeOpen (s t : State) (r : Nat) : Prop extends RailsOpen s t r where
  region : t.region r = { s.region r with on := none }
  gate : t.fld (ldoKey r 0) 17 1 = 0
  router : ∀ lo w, 12 ≤ lo → t.fld (ldoKey r 1) lo w = s.fld (ldoKey r 1) lo w
  units : ∀ c ∈ State.cellsOf r, ∀ k, (t.core c k).st = 0 ∧ (t.mxe c).queue = []

theorem computeRailOff_keeps (s : State) (r : Nat) : ComputeOpen s (s.computeRailOff r) r := by
  have hall : s.within [.regs, .cells, .regions, .band] (s.computeRailOff r) := within_computeRailOff (List.Subset.refl _) (within_refl s)
  unfold State.computeRailOff at hall ⊢
  dsimp only at hall ⊢
  obtain ⟨hw0, hreg0, hfld0⟩ := dropVset_keeps s r
  generalize s.dropVset r = a at hw0 hreg0 hfld0 hall ⊢
  have hregions0 : a.regions = s.regions := StartPhases.within_same hw0 .regions (by decide)
  have hband0 : a.band = s.band := StartPhases.within_same hw0 .band (by decide)
  have hb0 : ({ a with band := { a.band with nbal := a.band.nbal.filter fun c => cellRegion c != r } } : State).reg = a.reg := rfl
  have hb1 : ({ a with band := { a.band with nbal := a.band.nbal.filter fun c => cellRegion c != r } } : State).regions = a.regions := rfl
  have hb2 : ({ a with band := { a.band with nbal := a.band.nbal.filter fun c => cellRegion c != r } } : State).band = { a.band with nbal := a.band.nbal.filter fun c => cellRegion c != r } := rfl
  generalize ({ a with band := { a.band with nbal := a.band.nbal.filter fun c => cellRegion c != r } } : State) = b at hb0 hb1 hb2 hall ⊢
  obtain ⟨hw1, hin, -⟩ := cellsOff_keeps (State.cellsOf r) b
  generalize (State.cellsOf r).foldl (fun t c => t.cellOff c) b = c at hw1 hin hall ⊢
  have hreg1 (k : Nat) : c.reg k = a.reg k := (reg_of_regs hw1.1 (StartPhases.within_same hw1 .regs (by decide)) k).trans (congrFun hb0 k)
  have hw2 : c.within [.regs] (c.dropRegs r onCompute) := within_dropRegs (List.Subset.refl _) (within_refl c)
  have hreg2 (k : Nat) (hk : NoCellKey k) : (c.dropRegs r onCompute).reg k = c.reg k := reg_dropRegs c r onCompute_high hk
  generalize c.dropRegs r onCompute = e at hw2 hreg2 hall ⊢
  have hregions2 : e.regions = s.regions := (StartPhases.within_same hw2 .regions (by decide)).trans ((StartPhases.within_same hw1 .regions (by decide)).trans (hb1.trans hregions0))
  have hregion (q : Nat) : e.region q = s.region q := congrArg (fun m => SMap.get m q Region.reset) hregions2
  have hband2 : e.band = { s.band with nbal := a.band.nbal.filter fun c => cellRegion c != r } := by
    rw [StartPhases.within_same hw2 .band (by decide), StartPhases.within_same hw1 .band (by decide), hb2, hband0]
  have hcell (q : Nat) : e.cell q = c.cell q := DescriptorQueue.cell_of_cells (StartPhases.within_same hw2 .cells (by decide)) q
  refine ⟨⟨hall, fun k hk h0 h1 => ?_, fun q hq => ?_, ?_⟩, ?_, ?_, fun lo w hlo => ?_, fun q hq k => ?_⟩
  · rw [setRegion_reg, reg_setFld_other _ _ _ _ h0, reg_setFld_other _ _ _ _ h0, hreg2 k hk, hreg1, hreg0 k h0 h1]
  · rw [region_setRegion, if_neg hq]
    exact hregion q
  · rw [setRegion_band, setFld_band, setFld_band, hband2]
  · rw [region_setRegion_same, hregion]
  · rw [setRegion_fld, fld_setFld_apart _ _ (by decide) (.inr (by decide)), fld_setFld_same _ _ (by decide)]
    rfl
  · have hne : ldoKey r 1 ≠ ldoKey r 0 := (ldoKey_ne r).symm
    rw [setRegion_fld, fld_setFld_other _ _ _ _ _ _ hne, fld_setFld_other _ _ _ _ _ _ hne, ← hfld0 _ _ _ hlo]
    unfold State.fld
    rw [hreg2 _ (noCellKey_ldo r 1 (by decide)), hreg1]
  · have hunits := hin q hq
    unfold State.core State.mxe at hunits ⊢
    rw [setRegion_cell, setFld_cell, setFld_cell, hcell]
    exact ⟨hunits.1 k, hunits.2⟩

theorem routerRailOff_keeps (s : State) (r : Nat) : s.within [.regs] (s.routerRailOff r) ∧ (∀ k, NoCellKey k → k ≠ ldoKey r 1 → (s.routerRailOff r).reg k = s.reg k) ∧
    (s.routerRailOff r).fld (ldoKey r 1) 17 1 = 0 := by
  refine ⟨within_routerRailOff (List.Subset.refl _) (within_refl s), fun k hk h1 => ?_, ?_⟩
  · unfold State.routerRailOff
    rw [reg_setFld_other _ _ _ _ h1, reg_setFld_other _ _ _ _ h1, reg_dropRegs s r onRouter_high hk]
  · unfold State.routerRailOff
    rw [fld_setFld_apart _ _ (by decide) (.inr (by decide)), fld_setFld_same _ _ (by decide)]
    rfl

/-- A region both of whose rails opened. -/
theorem fullOff_keeps (s : State) (r : Nat) : RailsOpen s (s.fullOff r) r ∧ (s.fullOff r).region r = { s.region r with on := none, st := 0, off := .idle } ∧
    (s.fullOff r).fld (ldoKey r 0) 17 1 = 0 ∧ (s.fullOff r).fld (ldoKey r 1) 17 1 = 0 := by
  have hall : s.within [.regs, .cells, .regions, .band] (s.fullOff r) := within_fullOff (List.Subset.refl _) (within_refl s)
  unfold State.fullOff State.setSt at hall ⊢
  dsimp only at hall ⊢
  have h := computeRailOff_keeps s r
  generalize s.computeRailOff r = a at h hall ⊢
  obtain ⟨hw, hreg, hgate⟩ := routerRailOff_keeps a r
  generalize a.routerRailOff r = b at hw hreg hgate hall ⊢
  have hregion (q : Nat) : b.region q = a.region q := congrArg (fun m => SMap.get m q Region.reset) (StartPhases.within_same hw .regions (by decide))
  refine ⟨⟨hall, fun k hk h0 h1 => ?_, fun q hq => ?_, ?_⟩, ?_, ?_, ?_⟩
  · rw [setRegion_reg, setRegion_reg, hreg k hk h1, h.low k hk h0 h1]
  · rw [region_setRegion, if_neg hq, region_setRegion, if_neg hq, hregion, h.others q hq]
  · rw [setRegion_band, setRegion_band, StartPhases.within_same hw .band (by decide)]
    exact h.band
  · rw [region_setRegion_same, region_setRegion_same, hregion, h.region]
  · rw [setRegion_fld, setRegion_fld]
    have := hreg (ldoKey r 0) (noCellKey_ldo r 0 (by decide)) (ldoKey_ne r)
    unfold State.fld
    rw [this]
    exact h.gate
  · rw [setRegion_fld, setRegion_fld]
    exact hgate

end Sys2Proof.PowerRails
end

section
/-! PROOFS. The engine's input: readings, the ceiling they give, blades, input loss and cold start (R338-R341). -/

namespace Sys2Proof.InputPower

open Sys2Proof Sys2Proof.Machine Sys2Proof.Laws Sys2Proof.Clauses Sys2Proof.PowerRails
open Sys2Proof.WholeMachine (powerSettle_of_not_phase_three)

variable {s t u : State} {r d : Nat}

theorem dies_pos (p : Part) : 0 < p.dies := by cases p <;> decide

theorem fld_of_reg {k : Nat} (h : t.reg k = s.reg k) (lo w : Nat) : t.fld k lo w = s.fld k lo w := by
  unfold State.fld
  rw [h]

theorem ecKey_ne_dieKey {o : Nat} (d q : Nat) (ho : o < 0x1000000) : ecKey o ≠ dieKey d q := by
  unfold ecKey dieKey
  omega

theorem dieKey_ne (d e : Nat) {o q : Nat} (ho : o < 0x1000000) (hq : q < 0x1000000) (h : o ≠ q) : dieKey d o ≠ dieKey e q := by
  unfold dieKey
  omega

/-! ### The ceiling (R339, R370) -/

theorem ceilW_lt (s : State) : s.ceilW < 2 ^ 24 := by
  have h : s.part.maxInput < 2 ^ 24 := by cases s.part <;> decide
  unfold State.ceilW
  omega

/-- What the ceiling's update leaves. -/
structure CeilTaken (s t : State) : Prop where
  reach : s.within [.regs, .band] t
  ceil : t.ceil = s.ceilW
  other : ∀ k, k ≠ ecKey RAMP_CEIL → k ≠ ecKey BAND_AVG → t.reg k = s.reg k
  high : t.band.b = min s.band.bReq s.ceilW
  target : t.band.t = min s.band.tReq t.band.b
  asked : t.band.bReq = s.band.bReq ∧ t.band.tReq = s.band.tReq

/-- The registers that the ceiling's update writes. -/
def ceilRegs (s : State) : State :=
  ((s.setFld (ecKey RAMP_CEIL) 0 24 s.ceilW).setFld (ecKey RAMP_CEIL) 24 1 (s.fld (ecKey LIC_STAT) 2 1)).setFld (ecKey BAND_AVG) 0 24 (min (s.fld (ecKey BAND_AVG) 0 24) s.ceilW)

theorem updateCeil_reg (s : State) (drop : Bool) (k : Nat) : (s.updateCeil drop).reg k = (ceilRegs s).reg k := by
  unfold ceilRegs State.updateCeil
  dsimp only
  exact reg_of_regs rfl rfl k

theorem updateCeil_keeps (s : State) (drop : Bool) : CeilTaken s (s.updateCeil drop) := by
  refine ⟨within_updateCeil (List.Subset.refl _) (within_refl s), ?_, fun k h1 h2 => ?_, rfl, rfl, rfl, rfl⟩
  · unfold State.ceil
    rw [fld_of_reg (updateCeil_reg s drop _), ceilRegs, fld_setFld_other _ _ _ _ _ _ (show ecKey RAMP_CEIL ≠ ecKey BAND_AVG by decide),
      fld_setFld_apart _ _ (by decide) (.inl (by decide)), fld_setFld_same _ _ (by decide)]
    exact Nat.mod_eq_of_lt (ceilW_lt s)
  · rw [updateCeil_reg, ceilRegs, reg_setFld_other _ _ _ _ h2, reg_setFld_other _ _ _ _ h1, reg_setFld_other _ _ _ _ h1]

theorem updateCeil_band_s (s : State) : (s.updateCeil false).band.s = s.band.s := rfl

/-! ### Readings of the input (R338, R361) -/

/-- What a reading of the input in range leaves, its ceiling apart. -/
structure InputRead (s t : State) (v ia ib : Nat) : Prop where
  reach : s.within [.regs] t
  shown : ∀ d, d < s.part.dies → t.fld (dieKey d PWR_IN) 0 16 = v ∧ t.fld (dieKey d PWR_IN) 16 10 = min 1023 (ia + ib) ∧ t.fld (dieKey d PWR_BLADE) 0 10 = min 1023 ia ∧
    t.fld (dieKey d PWR_BLADE) 10 10 = min 1023 ib ∧ t.fld (dieKey d PWR_BLADE) 20 12 = s.fld (dieKey d PWR_BLADE) 20 12
  limit : t.inLimit = s.inLimit
  other : ∀ k, (∀ d, k ≠ dieKey d PWR_IN ∧ k ≠ dieKey d PWR_BLADE) → t.reg k = s.reg k

theorem blade_ne_in (d e : Nat) : dieKey d PWR_BLADE ≠ dieKey e PWR_IN := dieKey_ne d e (by decide) (by decide) (by decide)

theorem inputRead (s : State) {v : Nat} (ia ib : Nat) (hv : v ≤ 6000) : InputRead s ((s.setAll PWR_IN 0 16 v).bladeCurrents ia ib) v ia ib := by
  unfold State.bladeCurrents
  have h1 := setAll_keeps s (o := PWR_IN) (lo := 0) (w := 16) v (by decide)
  generalize s.setAll PWR_IN 0 16 v = a at h1 ⊢
  have h2 := setAll_keeps a (o := PWR_IN) (lo := 16) (w := 10) (min 1023 (ia + ib)) (by decide)
  generalize a.setAll PWR_IN 16 10 (min 1023 (ia + ib)) = b at h2 ⊢
  have h3 := setAll_keeps b (o := PWR_BLADE) (lo := 0) (w := 10) (min 1023 ia) (by decide)
  generalize b.setAll PWR_BLADE 0 10 (min 1023 ia) = c at h3 ⊢
  have h4 := setAll_keeps c (o := PWR_BLADE) (lo := 10) (w := 10) (min 1023 ib) (by decide)
  generalize c.setAll PWR_BLADE 10 10 (min 1023 ib) = e at h4 ⊢
  have hin (d : Nat) : e.reg (dieKey d PWR_IN) = b.reg (dieKey d PWR_IN) :=
    (h4.away fun q => (blade_ne_in q d).symm).trans (h3.away fun q => (blade_ne_in q d).symm)
  have hblade (d : Nat) : b.reg (dieKey d PWR_BLADE) = s.reg (dieKey d PWR_BLADE) := (h2.away (blade_ne_in d)).trans (h1.away (blade_ne_in d))
  have hpa : a.part = s.part := h1.reach.1
  have hpb : b.part = s.part := h2.reach.1.trans hpa
  have hpc : c.part = s.part := h3.reach.1.trans hpb
  rw [hpa] at h2
  rw [hpb] at h3
  rw [hpc] at h4
  have hup (d : Nat) : e.fld (dieKey d PWR_BLADE) 20 12 = s.fld (dieKey d PWR_BLADE) 20 12 :=
    (h4.apart d _ _ (.inr (by decide))).trans ((h3.apart d _ _ (.inr (by decide))).trans (fld_of_reg (hblade d) ..))
  refine ⟨within_trans h1.reach (within_trans h2.reach (within_trans h3.reach h4.reach)), fun d hd => ⟨?_, ?_, ?_, ?_, hup d⟩, ?_, fun k hk => ?_⟩
  · exact (fld_of_reg (hin d) ..).trans ((h2.apart d _ _ (.inl (by decide))).trans (h1.at_die hd (by omega)))
  · exact (fld_of_reg (hin d) ..).trans ((h2.set d (List.mem_range.2 hd)).trans (Nat.mod_eq_of_lt (by omega)))
  · exact (h4.apart d _ _ (.inl (by decide))).trans ((h3.set d (List.mem_range.2 hd)).trans (Nat.mod_eq_of_lt (by omega)))
  · exact (h4.set d (List.mem_range.2 hd)).trans (Nat.mod_eq_of_lt (by omega))
  · exact (h4.apart 0 _ _ (.inr (by decide))).trans ((h3.apart 0 _ _ (.inr (by decide))).trans (fld_of_reg (hblade 0) ..))
  · exact (h4.away fun d => (hk d).2).trans ((h3.away fun d => (hk d).2).trans ((h2.away fun d => (hk d).1).trans (h1.away fun d => (hk d).1)))

theorem ceilW_eq {s t : State} (hp : t.part = s.part) (hv : t.vin = v) (hl : t.inLimit = l) (hlic : t.reg (ecKey LIC_STAT) = s.reg (ecKey LIC_STAT)) :
    t.ceilW = min (min s.part.maxInput (v * l / 100)) (s.part.tier (s.fld (ecKey LIC_STAT) 2 1 == 1)) := by
  unfold State.ceilW
  rw [hp, hv, hl, fld_of_reg hlic]

/-- A reading in range, its ceiling taken. -/
structure InputTaken (s t : State) (v ia ib : Nat) : Prop where
  reach : s.within [.regs, .band, .err] t
  shown : ∀ d, d < s.part.dies → t.fld (dieKey d PWR_IN) 0 16 = v ∧ t.fld (dieKey d PWR_IN) 16 10 = min 1023 (ia + ib) ∧ t.fld (dieKey d PWR_BLADE) 0 10 = min 1023 ia ∧
    t.fld (dieKey d PWR_BLADE) 10 10 = min 1023 ib ∧ t.fld (dieKey d PWR_BLADE) 20 12 = s.fld (dieKey d PWR_BLADE) 20 12
  ceil : t.ceil = min (min s.part.maxInput (v * s.inLimit / 100)) (s.part.tier (s.fld (ecKey LIC_STAT) 2 1 == 1))
  high : t.band.b = min s.band.bReq t.ceil
  target : t.band.t = min s.band.tReq t.band.b
  asked : t.band.bReq = s.band.bReq ∧ t.band.tReq = s.band.tReq
  other : ∀ k, (∀ d, k ≠ dieKey d PWR_IN ∧ k ≠ dieKey d PWR_BLADE) → k ≠ ecKey RAMP_CEIL → k ≠ ecKey BAND_AVG → t.reg k = s.reg k
  setPoint : t.band.s = s.band.s

theorem inputTaken_of_read {v ia ib : Nat} (h : InputRead s t v ia ib) : InputTaken s (t.updateCeil false) v ia ib := by
  have hc := updateCeil_keeps t false
  have hs : (t.updateCeil false).band.s = t.band.s := rfl
  generalize t.updateCeil false = u at hc hs ⊢
  have hband : t.band = s.band := StartPhases.within_same h.reach .band (by decide)
  have hlic : t.reg (ecKey LIC_STAT) = s.reg (ecKey LIC_STAT) := h.other _ fun d => ⟨ecKey_ne_dieKey _ _ (by decide), ecKey_ne_dieKey _ _ (by decide)⟩
  have hkey (d : Nat) (o : Nat) : dieKey d o ≠ ecKey RAMP_CEIL ∧ dieKey d o ≠ ecKey BAND_AVG := ⟨(ecKey_ne_dieKey _ _ (by decide)).symm, (ecKey_ne_dieKey _ _ (by decide)).symm⟩
  have hdie (d o lo w : Nat) : u.fld (dieKey d o) lo w = t.fld (dieKey d o) lo w := fld_of_reg (hc.other _ (hkey d o).1 (hkey d o).2) lo w
  have hw : s.within [.regs, .band, .err] u := within_trans (within_mono h.reach (by decide)) (within_mono hc.reach (by decide))
  refine ⟨hw, fun d hd => ?_, ?_, ?_, hc.target.trans (by rw [hband]), ⟨hc.asked.1.trans (by rw [hband]), hc.asked.2.trans (by rw [hband])⟩, fun k hk h1 h2 => (hc.other k h1 h2).trans (h.other k hk), hs.trans (by rw [hband])⟩
  · simp only [hdie]
    exact h.shown d hd
  · exact hc.ceil.trans (ceilW_eq h.reach.1 (h.shown 0 (dies_pos _)).1 h.limit hlic)
  · rw [hc.ceil, hc.high, hband]

theorem InputTaken.raise {v ia ib : Nat} (h : InputTaken s t v ia ib) (cls : Nat) (loc : Loc) (detail : Nat) : InputTaken s (t.raise cls loc detail none) v ia ib := by
  obtain ⟨hw, hshown, hceil, hhigh, htarget, hasked, hother, hset⟩ := h
  refine ⟨within_trans hw (within_raise (by decide) (within_refl t)), fun d hd => ?_, ?_, ?_, ?_, ?_, fun k hk h1 h2 => ?_, ?_⟩
  · simp only [raise_fld]
    exact hshown d hd
  · unfold State.ceil at hceil ⊢
    rw [raise_fld]
    exact hceil
  · unfold State.ceil at hhigh ⊢
    rw [raise_fld, raise_band]
    exact hhigh
  · rw [raise_band]
    exact htarget
  · rw [raise_band]
    exact hasked
  · rw [raise_reg]
    exact hother k hk h1 h2
  · rw [raise_band]
    exact hset

theorem inputRange_taken (s : State) (v ia ib : Nat) (hlo : 4500 ≤ v) (hhi : v ≤ 6000) (hoff : s.boot.off = false) :
    InputTaken s (s.inputRange v ia ib) v ia ib ∧
      if (v < 4800 ∨ 5800 < v) ∧ (4800 ≤ s.vin ∧ s.vin ≤ 5800 ∨ s.vin = 0) then s.logs (s.inputRange v ia ib) 0x76 (.module 0) 1 else (s.inputRange v ia ib).err = s.err := by
  unfold State.inputRange
  dsimp only
  rw [if_neg (show ¬(v < 4500 ∨ 6000 < v ∨ s.boot.off = true) by rw [hoff]; simp only [Bool.false_eq_true, or_false]; omega)]
  have h := inputTaken_of_read (inputRead s ia ib hhi)
  have herr : (((s.setAll PWR_IN 0 16 v).bladeCurrents ia ib).updateCeil false).err = s.err :=
    StartPhases.within_same (within_updateCeil (ks := [.regs, .band]) (List.Subset.refl _) (within_mono (inputRead s ia ib hhi).reach (by decide))) .err (by decide)
  generalize ((s.setAll PWR_IN 0 16 v).bladeCurrents ia ib).updateCeil false = t at h herr ⊢
  have hcond : ((decide (v < 4800) || decide (5800 < v)) && !((decide (s.vin < 4800) || decide (5800 < s.vin)) && s.vin != 0)) = true ↔
      (v < 4800 ∨ 5800 < v) ∧ (4800 ≤ s.vin ∧ s.vin ≤ 5800 ∨ s.vin = 0) := by
    simp only [Bool.and_eq_true, Bool.or_eq_true, decide_eq_true_eq, Bool.not_eq_true', Bool.and_eq_false_iff, Bool.or_eq_false_iff, decide_eq_false_iff_not, bne_eq_false_iff_eq]
    omega
  by_cases hc : (v < 4800 ∨ 5800 < v) ∧ (4800 ≤ s.vin ∧ s.vin ≤ 5800 ∨ s.vin = 0)
  · rw [if_pos hc, if_pos (hcond.2 hc)]
    exact ⟨h.raise .., logs_raise (congrArg _ herr) ..⟩
  · rw [if_neg hc, if_neg (fun h => hc (hcond.1 h))]
    exact ⟨h, herr⟩

end Sys2Proof.InputPower
end

section
/-! PROOFS. Input loss and cold start, blades, converters, the spare, phases (R338-R346). -/

namespace Sys2Proof.InputPower

open Sys2Proof Sys2Proof.Machine Sys2Proof.Laws Sys2Proof.Clauses Sys2Proof.PowerRails
open Sys2Proof.WholeMachine (powerSettle_of_not_phase_three)

variable {s t u : State} {r d : Nat}

/-! ### Regions switched off together -/

/-- What regions that go fully off leave. -/
structure RegionsOff (s t : State) (l : List Nat) : Prop where
  reach : s.within [.regs, .cells, .regions, .band] t
  off : ∀ r ∈ l, (t.region r).st = 0 ∧ (t.region r).on = none
  others : ∀ r, r ∉ l → t.region r = s.region r
  other : ∀ k, NoCellKey k → (∀ r rail, rail < 2 → k ≠ ldoKey r rail) → t.reg k = s.reg k

theorem regionsOff_foldl (l : List Nat) (s : State) : RegionsOff s (l.foldl (fun t r => t.fullOff r) s) l := by
  induction l generalizing s with
  | nil => exact ⟨within_refl s, fun _ h => absurd h List.not_mem_nil, fun _ _ => rfl, fun _ _ _ => rfl⟩
  | cons r l ih =>
    rw [List.foldl_cons]
    obtain ⟨hrails, hregion, -, -⟩ := fullOff_keeps s r
    generalize s.fullOff r = a at hrails hregion
    have h := ih a
    refine ⟨within_trans hrails.reach h.reach, fun q hq => ?_, fun q hq => ?_, fun k hk hldo => (h.other k hk hldo).trans (hrails.low k hk (hldo r 0 (by decide)) (hldo r 1 (by decide)))⟩
    · by_cases hl : q ∈ l
      · exact h.off q hl
      · obtain rfl : q = r := (List.mem_cons.1 hq).resolve_right hl
        rw [h.others q hl, hregion]
        exact ⟨rfl, rfl⟩
    · rw [h.others q fun hl => hq (List.mem_cons_of_mem _ hl), hrails.others q fun hr => hq (hr ▸ List.mem_cons_self)]

theorem noCellKey_dieKey (d : Nat) {o : Nat} (ho : o < 0x1000000) (hhigh : 0x6000 ≤ o ∨ d < 15) : NoCellKey (dieKey d o) := by
  unfold NoCellKey dieKey
  omega

theorem dieKey_ne_ldo (d r : Nat) {o rail : Nat} (ho : o < 0x20000) (hrail : rail < 2) : dieKey d o ≠ ldoKey r rail := by
  rw [ldoKey_eq]
  unfold dieKey
  omega

theorem ecKey_ne_ldo (r : Nat) {o : Nat} (rail : Nat) (ho : o < 0x1000000) : ecKey o ≠ ldoKey r rail := by
  rw [ldoKey_eq]
  unfold ecKey
  omega

theorem noCellKey_ec {o : Nat} (ho : o < 0x1000000) : NoCellKey (ecKey o) := .inl (by unfold ecKey; omega)

theorem dies_le (p : Part) : p.dies ≤ 8 := by cases p <;> decide

/-! ### A die's field rails (R361, R401) -/

/-- What a die whose field rails are off leaves. -/
structure FieldOff (s t : State) (d : Nat) : Prop where
  reach : s.within [.regs] t
  zero : t.fld (dieKey d PWR_FIELD_V) 0 10 = 0 ∧ t.fld (dieKey d PWR_DIE_I) 0 12 = 0 ∧ t.fld (dieKey d CLK_STAT) 0 4 = 0
  other : ∀ k, k ≠ dieKey d PWR_FIELD_V → k ≠ dieKey d PWR_DIE_I → k ≠ dieKey d CLK_STAT → t.reg k = s.reg k

theorem fieldOff_keeps (s : State) (d : Nat) : FieldOff s (s.fieldOff d) d := by
  have h1 : dieKey d PWR_FIELD_V ≠ dieKey d PWR_DIE_I := dieKey_ne d d (by decide) (by decide) (by decide)
  have h2 : dieKey d PWR_FIELD_V ≠ dieKey d CLK_STAT := dieKey_ne d d (by decide) (by decide) (by decide)
  have h3 : dieKey d PWR_DIE_I ≠ dieKey d CLK_STAT := dieKey_ne d d (by decide) (by decide) (by decide)
  refine ⟨within_fieldOff (List.Subset.refl _) (within_refl s), ⟨?_, ?_, ?_⟩, fun k hv hi hc => ?_⟩ <;> unfold State.fieldOff State.pllsOff
  · rw [fld_setFld_other _ _ _ _ _ _ h2, fld_setFld_other _ _ _ _ _ _ h1, fld_setFld_same _ _ (by decide), Nat.zero_mod]
  · rw [fld_setFld_other _ _ _ _ _ _ h3, fld_setFld_same _ _ (by decide), Nat.zero_mod]
  · rw [fld_setFld_same _ _ (by decide), Nat.zero_mod]
  · rw [reg_setFld_other _ _ _ _ hc, reg_setFld_other _ _ _ _ hi, reg_setFld_other _ _ _ _ hv]

theorem FieldOff.other_die {e o : Nat} (h : FieldOff s t d) (he : e ≠ d) (ho : o < 0x1000000) : t.reg (dieKey e o) = s.reg (dieKey e o) := by
  have hne (q : Nat) (hq : q < 0x1000000) : dieKey e o ≠ dieKey d q := by
    unfold dieKey
    omega
  exact h.other _ (hne _ (by decide)) (hne _ (by decide)) (hne _ (by decide))

theorem fieldsOff_foldl (l : List Nat) (s : State) : s.within [.regs] (l.foldl (fun t d => t.fieldOff d) s) ∧
    (∀ d ∈ l, (l.foldl (fun t d => t.fieldOff d) s).fld (dieKey d PWR_FIELD_V) 0 10 = 0 ∧ (l.foldl (fun t d => t.fieldOff d) s).fld (dieKey d PWR_DIE_I) 0 12 = 0 ∧
      (l.foldl (fun t d => t.fieldOff d) s).fld (dieKey d CLK_STAT) 0 4 = 0) ∧
    ∀ d, d ∉ l → ∀ o, o < 0x1000000 → (l.foldl (fun t d => t.fieldOff d) s).reg (dieKey d o) = s.reg (dieKey d o) := by
  induction l generalizing s with
  | nil => exact ⟨within_refl s, fun _ h => absurd h List.not_mem_nil, fun _ _ _ _ => rfl⟩
  | cons e l ih =>
    rw [List.foldl_cons]
    have h := fieldOff_keeps s e
    generalize s.fieldOff e = a at h
    obtain ⟨hw, hin, hout⟩ := ih a
    refine ⟨within_trans h.reach hw, fun d hd => ?_, fun d hd o ho => ?_⟩
    · by_cases hl : d ∈ l
      · exact hin d hl
      · obtain rfl : d = e := (List.mem_cons.1 hd).resolve_right hl
        have hkeep (o : Nat) (ho : o < 0x1000000) := fld_of_reg (hout d hl o ho)
        rw [hkeep _ (by decide), hkeep _ (by decide), hkeep _ (by decide)]
        exact h.zero
    · rw [hout d (fun hl => hd (List.mem_cons_of_mem _ hl)) o ho, h.other_die (fun he => hd (he ▸ List.mem_cons_self)) ho]

/-! ### Input loss (R341) -/

/-- What the loss of the input leaves. -/
structure InputLost (s t : State) : Prop where
  regions : ∀ r, r < s.part.dies * 64 → (t.region r).st = 0 ∧ (t.region r).on = none
  jobs : t.jobs = [] ∧ t.panels = [] ∧ t.load = none
  down : t.ready = false ∧ t.boot.off = true
  fields : ∀ d, d < s.part.dies → t.fld (dieKey d PWR_FIELD_V) 0 10 = 0 ∧ t.fld (dieKey d PWR_DIE_I) 0 12 = 0 ∧ t.fld (dieKey d CLK_STAT) 0 4 = 0
  band : t.band.s = 0 ∧ t.band.windows = []
  record : s.logs t 0x78 (.module 0) 0
  flash : t.flash = s.flash

theorem pllsOffs_reach (l : List Nat) (s : State) : s.within [.regs] (l.foldl (fun t d => t.pllsOff d) s) := by
  induction l generalizing s with
  | nil => exact within_refl s
  | cons d l ih => exact within_trans (within_setFld (List.Subset.refl _) (within_refl s)) (ih _)

theorem allOff_off (s : State) : s.within [.regs, .cells, .regions, .band] s.allOff ∧ ∀ r, r < s.part.dies * 64 → (s.allOff.region r).st = 0 ∧ (s.allOff.region r).on = none := by
  unfold State.allOff
  have h := regionsOff_foldl (List.range (s.part.dies * 64)) s
  generalize (List.range (s.part.dies * 64)).foldl (fun t r => t.fullOff r) s = a at h ⊢
  have hw := pllsOffs_reach (List.range s.part.dies) a
  refine ⟨within_trans h.reach (within_mono hw (by decide)), fun r hr => ?_⟩
  have hregion := congrArg (fun m => SMap.get m r Region.reset) (StartPhases.within_same hw .regions (by decide))
  have hoff := h.off r (List.mem_range.2 hr)
  unfold State.region at hoff ⊢
  rw [hregion]
  exact hoff

/-- The state of a lost input before its record is raised. -/
def offEngine (s : State) : State :=
  { (List.range s.part.dies).foldl (fun t d => t.fieldOff d) s.allOff.loseJobs.zeroS with
    boot := { ((List.range s.part.dies).foldl (fun t d => t.fieldOff d) s.allOff.loseJobs.zeroS).boot with off := true, lost := true } }

theorem inputLoss_eq (s : State) : s.inputLoss = ((offEngine s).setFld (ecKey BOOT_STAT) 4 1 0).raise 0x78 (.module 0) 0 none := rfl

theorem inputLoss_keeps (s : State) : InputLost s s.inputLoss := by
  obtain ⟨hw0, hregion0⟩ := allOff_off s
  have hzero : s.allOff.loseJobs.zeroS.regions = s.allOff.regions ∧ s.allOff.loseJobs.zeroS.jobs = [] ∧ s.allOff.loseJobs.zeroS.panels = [] ∧
      s.allOff.loseJobs.zeroS.load = none ∧ s.allOff.loseJobs.zeroS.band.s = 0 ∧ s.allOff.loseJobs.zeroS.band.windows = [] ∧ s.allOff.loseJobs.zeroS.err = s.allOff.err ∧
      s.allOff.loseJobs.zeroS.flash = s.allOff.flash := ⟨rfl, rfl, rfl, rfl, rfl, rfl, rfl, rfl⟩
  have heq := inputLoss_eq s
  unfold offEngine at heq
  generalize s.allOff.loseJobs.zeroS = a at hzero heq
  obtain ⟨hregions, hjobs, hpanels, hload, hs, hwindows, herr, hflash⟩ := hzero
  obtain ⟨hw, hin, -⟩ := fieldsOff_foldl (List.range s.part.dies) a
  generalize (List.range s.part.dies).foldl (fun t d => t.fieldOff d) a = b at hw hin heq
  have hboot : ({ b with boot := { b.boot with off := true, lost := true } } : State).boot.off = true := rfl
  have hb : b.within [.boot] { b with boot := { b.boot with off := true, lost := true } } := within_setBoot (List.Subset.refl _) (within_refl b)
  generalize ({ b with boot := { b.boot with off := true, lost := true } } : State) = c at hboot hb heq
  rw [heq]
  have hall : a.within [.regs, .boot] c := within_trans (within_mono hw (by decide)) (within_mono hb (by decide))
  have hband : c.band = a.band := StartPhases.within_same hall .band (by decide)
  refine ⟨fun r hr => ?_, ⟨?_, ?_, ?_⟩, ⟨?_, ?_⟩, fun d hd => ?_, ⟨?_, ?_⟩, logs_raise ?_ .., ?_⟩
  · have hoff := hregion0 r hr
    unfold State.region at hoff ⊢
    rw [raise_regions, setFld_regions, StartPhases.within_same hall .regions (by decide), hregions]
    exact hoff
  · rw [raise_jobs, setFld_jobs, StartPhases.within_same hall .jobs (by decide), hjobs]
  · rw [raise_panels, setFld_panels, StartPhases.within_same hall .panels (by decide), hpanels]
  · rw [raise_load, setFld_load, StartPhases.within_same hall .load (by decide), hload]
  · unfold State.ready
    rw [raise_fld, fld_setFld_same _ _ (by decide)]
    rfl
  · rw [raise_boot, setFld_boot, hboot]
  · have hkey (o : Nat) (ho : o < 0x1000000) (lo w : Nat) : ((c.setFld (ecKey BOOT_STAT) 4 1 0).raise 0x78 (.module 0) 0 none).fld (dieKey d o) lo w = b.fld (dieKey d o) lo w := by
      rw [raise_fld, fld_setFld_other _ _ _ _ _ _ (ecKey_ne_dieKey d o (by decide)).symm]
      exact fld_of_regs hb.1 (StartPhases.within_same hb .regs (by decide)) ..
    rw [hkey _ (by decide), hkey _ (by decide), hkey _ (by decide)]
    exact hin d (List.mem_range.2 hd)
  · rw [raise_band, setFld_band, hband, hs]
  · rw [raise_band, setFld_band, hband, hwindows]
  · rw [setFld_err, StartPhases.within_same hall .err (by decide), herr, StartPhases.within_same hw0 .err (by decide)]
  · rw [raise_flash, setFld_flash, StartPhases.within_same hall .flash (by decide), hflash, StartPhases.within_same hw0 .flash (by decide)]

end Sys2Proof.InputPower
end

section
/-! PROOFS. Cold start, blades, converters, the spare, phases (R340-R346). -/

namespace Sys2Proof.InputPower

open Sys2Proof Sys2Proof.Machine Sys2Proof.Laws Sys2Proof.Clauses Sys2Proof.PowerRails
open Sys2Proof.WholeMachine (powerSettle_of_not_phase_three)

variable {s t u : State} {r d : Nat}

/-! ### Cold start (R341) -/

theorem startStat_status (s : State) (stat cause cls : Nat) : (s.startStat stat false cause cls).fld (ecKey BOOT_STAT) 0 4 = 1 ∧ (s.startStat stat false cause cls).ready = false ∧
    (s.startStat stat false cause cls).fld (ecKey BOOT_CAUSE) 0 4 = cause % 16 := by
  have hkey : ecKey BOOT_STAT ≠ ecKey BOOT_CAUSE := by decide
  have hstat : (bits stat 7 6) < 2 ^ 6 := IntegerInstructions.bits_lt ..
  unfold State.ready State.startStat
  generalize bits stat 7 6 = n at hstat ⊢
  rw [if_neg (by decide), fld_setReg_other _ _ _ _ hkey, fld_setReg_other _ _ _ _ hkey, fld_setReg_same, fld_setReg_same, fld_setReg_same, BitVec.toNat_ofNat, BitVec.toNat_ofNat]
  unfold bits
  refine ⟨by omega, ?_, by omega⟩
  rw [beq_eq_false_iff_ne]
  omega

/-- What a cold start leaves. -/
structure ColdStarted (s t : State) : Prop where
  status : t.fld (ecKey BOOT_STAT) 0 4 = 1 ∧ t.ready = false ∧ t.fld (ecKey BOOT_CAUSE) 0 4 = 0
  on : t.boot.off = false
  empty : t.cells = [] ∧ t.regions = [] ∧ t.jobs = []
  err : t.err = { s.err with haltQ := [], rates := [] }
  rmap : t.flash.rmap = s.startFlash.rmap

theorem beginCold_starts (s : State) (cls : Nat) : ColdStarted s (s.beginCold 0 cls) := by
  have hstatus := startStat_status (s.wipe false 1) (s.reg (ecKey BOOT_STAT)).toNat 0 cls
  exact ⟨hstatus, rfl, ⟨rfl, rfl, rfl⟩, rfl, rfl⟩

theorem startFlash_rmap (s : State) : s.startFlash.rmap = if s.flash.dev0 || s.flash.dev1 then s.flash.rmap else s.flash.rmapDone := by
  unfold State.startFlash
  split <;> rfl

theorem powerLost_of_kept {s : State} (h : s.boot.lost = false) : s.powerLost = s := by
  unfold State.powerLost
  rw [h]
  rfl

theorem powerLost_of_lost {s : State} (h : s.boot.lost = true) : s.powerLost.boot = s.boot ∧ s.powerLost.err.bbox = s.err.bbox ∧ s.powerLost.err.recQ = [] ∧
    s.powerLost.err.unsent = [] ∧ s.powerLost.flash.rmap = s.flash.rmapDone ∧ s.powerLost.flash.rmapDone = s.flash.rmapDone := by
  unfold State.powerLost
  rw [h, Bool.not_true, if_neg Bool.false_ne_true]
  exact ⟨rfl, rfl, rfl, rfl, rfl, rfl⟩

theorem coldStart (s : State) (hoff : s.boot.off = true) (hmod : s.boot.modRst = false) :
    ∃ t, exec .inputColdStartCondition s = .next t ∧ t.fld (ecKey BOOT_STAT) 0 4 = 1 ∧ t.ready = false ∧ t.fld (ecKey BOOT_CAUSE) 0 4 = 0 ∧ t.boot.off = false ∧ t.cells = [] ∧
      t.regions = [] ∧ t.jobs = [] ∧ t.err.bbox = s.err.bbox ∧
      if s.boot.lost then t.flash.rmap = s.flash.rmapDone ∧ t.err.recQ = [] ∧ t.err.unsent = [] else ((s.flash.dev0 || s.flash.dev1) = true → t.flash.rmap = s.flash.rmap) ∧ t.err.recQ = s.err.recQ := by
  have hexec (a : State) (ha : s.powerLost = a) (hm : a.boot.modRst = false) : exec .inputColdStartCondition s = .next (a.beginCold 0 0) := by
    refine congrArg Host.Outcome.next ?_
    unfold State.inputStart
    dsimp only
    rw [hoff, ha, hm, Bool.not_true, if_neg Bool.false_ne_true, if_neg Bool.false_ne_true]
  cases hlost : s.boot.lost with
  | true =>
    obtain ⟨hboot, hbbox, hrec, hunsent, hrmap, hdone⟩ := powerLost_of_lost hlost
    obtain ⟨⟨h1, h2, h3⟩, hon, ⟨h4, h5, h6⟩, herr, hfl⟩ := beginCold_starts s.powerLost 0
    refine ⟨_, hexec _ rfl (by rw [hboot, hmod]), h1, h2, h3, hon, h4, h5, h6, ?_, ?_⟩
    · rw [herr]
      exact hbbox
    · rw [if_pos rfl, hfl, startFlash_rmap, hrmap, hdone, herr, ite_self]
      exact ⟨rfl, hrec, hunsent⟩
  | false =>
    obtain ⟨⟨h1, h2, h3⟩, hon, ⟨h4, h5, h6⟩, herr, hfl⟩ := beginCold_starts s 0
    refine ⟨_, hexec _ (powerLost_of_kept hlost) hmod, h1, h2, h3, hon, h4, h5, h6, ?_, ?_⟩
    · rw [herr]
    · rw [if_neg Bool.false_ne_true, hfl, startFlash_rmap, herr]
      exact ⟨fun hdev => if_pos hdev, rfl⟩

/-! ### Blades (R340) -/

/-- What a change of the blades in service leaves, its record apart. -/
structure BladesSet (s t : State) (lo w v limit : Nat) : Prop where
  reach : s.within [.regs, .band] t
  shown : ∀ d, d < s.part.dies → t.fld (dieKey d PWR_BLADE) lo w = v ∧ t.fld (dieKey d PWR_BLADE) 22 10 = limit
  ceil : t.ceil = min (min s.part.maxInput (s.vin * limit / 100)) (s.part.tier (s.fld (ecKey LIC_STAT) 2 1 == 1))

theorem bladesSet (s : State) (drop : Bool) {lo w v limit : Nat} (hlo : lo + w ≤ 22) (hv : v < 2 ^ w) (hlimit : limit < 2 ^ 10) :
    BladesSet s (((s.setAll PWR_BLADE lo w v).setAll PWR_BLADE 22 10 limit).updateCeil drop) lo w v limit := by
  have h1 := setAll_keeps s (o := PWR_BLADE) (lo := lo) (w := w) v (by omega)
  generalize s.setAll PWR_BLADE lo w v = a at h1 ⊢
  have h2 := setAll_keeps a (o := PWR_BLADE) (lo := 22) (w := 10) limit (by decide)
  generalize a.setAll PWR_BLADE 22 10 limit = b at h2 ⊢
  have hc := updateCeil_keeps b drop
  generalize b.updateCeil drop = c at hc ⊢
  rw [h1.reach.1] at h2
  have hpart : b.part = s.part := h2.reach.1.trans h1.reach.1
  have hin (d : Nat) : b.reg (dieKey d PWR_IN) = s.reg (dieKey d PWR_IN) := (h2.away fun q => (blade_ne_in q d).symm).trans (h1.away fun q => (blade_ne_in q d).symm)
  have hlic : b.reg (ecKey LIC_STAT) = s.reg (ecKey LIC_STAT) := (h2.away fun q => ecKey_ne_dieKey _ _ (by decide)).trans (h1.away fun q => ecKey_ne_dieKey _ _ (by decide))
  have hlim (d : Nat) (hd : d < s.part.dies) : b.fld (dieKey d PWR_BLADE) 22 10 = limit := (h2.set d (List.mem_range.2 hd)).trans (Nat.mod_eq_of_lt hlimit)
  have hkeep (d lo w : Nat) : c.fld (dieKey d PWR_BLADE) lo w = b.fld (dieKey d PWR_BLADE) lo w :=
    fld_of_reg (hc.other _ (ecKey_ne_dieKey _ _ (by decide)).symm (ecKey_ne_dieKey _ _ (by decide)).symm) ..
  refine ⟨within_trans (within_mono h1.reach (by decide)) (within_trans (within_mono h2.reach (by decide)) hc.reach), fun d hd => ⟨?_, ?_⟩, ?_⟩
  · rw [hkeep, h2.apart d _ _ (.inl hlo)]
    exact h1.at_die hd hv
  · rw [hkeep]
    exact hlim d hd
  · exact hc.ceil.trans (ceilW_eq hpart (fld_of_reg (hin 0) ..) (hlim 0 (dies_pos _)) hlic)

/-- The loss of one blade, its record raised. -/
theorem bladeLost (s : State) {b : Nat} (hb : b < 2) (hoff : s.boot.off = false) (hlive : s.fld (dieKey 0 PWR_BLADE) (20 + b) 1 = 0) :
    ∃ t, BladesSet s t (20 + b) 1 1 s.part.limitOne ∧
      s.bladeLoss b = if s.fld (dieKey 0 PWR_BLADE) (21 - b) 1 = 1 then (t.raise 0x76 (.module b) 2 none).inputLoss else t.raise 0x76 (.module b) 2 none := by
  refine ⟨_, bladesSet s true (by omega) (by decide) (by cases s.part <;> decide), ?_⟩
  unfold State.bladeLoss
  dsimp only
  rw [if_neg (by rw [hoff, hlive]; simp only [Bool.false_eq_true, or_false]; omega)]

/-- A record that follows a change of the blades. -/
theorem BladesSet.recorded {lo w v limit : Nat} (h : BladesSet s t lo w v limit) (cls : Nat) (loc : Loc) (detail : Nat) :
    (∀ d, d < s.part.dies → (t.raise cls loc detail none).fld (dieKey d PWR_BLADE) lo w = v ∧ (t.raise cls loc detail none).fld (dieKey d PWR_BLADE) 22 10 = limit) ∧
      (t.raise cls loc detail none).ceil = min (min s.part.maxInput (s.vin * limit / 100)) (s.part.tier (s.fld (ecKey LIC_STAT) 2 1 == 1)) ∧
      s.logs (t.raise cls loc detail none) cls loc detail ∧ (t.raise cls loc detail none).regions = s.regions ∧ (t.raise cls loc detail none).jobs = s.jobs := by
  have hceil := h.ceil
  unfold State.ceil at hceil ⊢
  refine ⟨fun d hd => ?_, ?_, logs_raise (congrArg _ (StartPhases.within_same h.reach .err (by decide))) .., ?_, ?_⟩
  · rw [raise_fld, raise_fld]
    exact h.shown d hd
  · rw [raise_fld, hceil]
  · rw [raise_regions, StartPhases.within_same h.reach .regions (by decide)]
  · rw [raise_jobs, StartPhases.within_same h.reach .jobs (by decide)]

theorem bladeEvents (s : State) (b : Nat) (hb : b < 2) (hoff : s.boot.off = false) :
    (s.fld (dieKey 0 PWR_BLADE) (20 + b) 1 = 0 → s.fld (dieKey 0 PWR_BLADE) (21 - b) 1 = 0 →
      ∃ t, exec (.bladeLoss b) s = .next t ∧ (∀ d, d < s.part.dies → t.fld (dieKey d PWR_BLADE) (20 + b) 1 = 1 ∧ t.fld (dieKey d PWR_BLADE) 22 10 = s.part.limitOne) ∧
        t.ceil = min (min s.part.maxInput (s.vin * s.part.limitOne / 100)) (s.part.tier (s.fld (ecKey LIC_STAT) 2 1 == 1)) ∧ s.logs t 0x76 (.module b) 2 ∧ t.regions = s.regions ∧ t.jobs = s.jobs) ∧
    (s.fld (dieKey 0 PWR_BLADE) (20 + b) 1 = 0 → s.fld (dieKey 0 PWR_BLADE) (21 - b) 1 = 1 →
      ∃ t r, exec (.bladeLoss b) s = .next t ∧ t.boot.off = true ∧ t.jobs = [] ∧ r ∈ t.err.recQ ∧ r.cls = 0x78) ∧
    (s.fld (dieKey 0 PWR_BLADE) 20 2 ≠ 0 →
      ∃ t, exec .bladeRestore s = .next t ∧ (∀ d, d < s.part.dies → t.fld (dieKey d PWR_BLADE) 20 2 = 0 ∧ t.fld (dieKey d PWR_BLADE) 22 10 = s.part.limitTwo) ∧
        t.ceil = min (min s.part.maxInput (s.vin * s.part.limitTwo / 100)) (s.part.tier (s.fld (ecKey LIC_STAT) 2 1 == 1)) ∧ s.logs t 0x76 (.module 0) 2 ∧ t.regions = s.regions) := by
  refine ⟨fun hlive hother => ?_, fun hlive hother => ?_, fun hlost => ?_⟩
  · obtain ⟨t, ht, heq⟩ := bladeLost s hb hoff hlive
    rw [if_neg (by rw [hother]; decide)] at heq
    exact ⟨_, congrArg Host.Outcome.next heq, ht.recorded ..⟩
  · obtain ⟨t, ht, heq⟩ := bladeLost s hb hoff hlive
    rw [if_pos hother] at heq
    have hin := inputLoss_keeps (t.raise 0x76 (.module b) 2 none)
    obtain ⟨r, hr, hcls, -⟩ := hin.record
    exact ⟨_, r, congrArg Host.Outcome.next heq, hin.down.2, hin.jobs.1, hr ▸ List.mem_append_right _ List.mem_cons_self, hcls⟩
  · have h := (bladesSet s false (lo := 20) (w := 2) (v := 0) (limit := s.part.limitTwo) (by decide) (by decide) (by cases s.part <;> decide)).recorded 0x76 (.module 0) 2
    refine ⟨_, congrArg Host.Outcome.next ?_, h.1, h.2.1, h.2.2.1, h.2.2.2.1⟩
    unfold State.bladeRestore
    rw [if_neg (by rw [hoff]; simp only [Bool.false_eq_true, or_false]; exact hlost)]

end Sys2Proof.InputPower
end

section
/-! PROOFS. Converters, the spare, phases; power delivery without input (R341-R346). -/

namespace Sys2Proof.InputPower

open Sys2Proof Sys2Proof.Machine Sys2Proof.Laws Sys2Proof.Clauses Sys2Proof.PowerRails
open Sys2Proof.WholeMachine (powerSettle_of_not_phase_three)

variable {s t u : State} {r d : Nat}

/-! ### Without input nothing of power delivery acts (R341) -/

theorem powerSettle_of_off (h : s.boot.off = true) : s.powerSettle = s := by
  refine powerSettle_of_not_phase_three ?_
  unfold State.inPhase
  rw [h]
  simp only [Bool.not_true, Bool.and_false, Bool.false_and]

theorem regionCmd_of_off (h : s.boot.off = true) (r op : Nat) : s.regionCmd r op = s := by
  unfold State.regionCmd
  dsimp only
  rw [if_pos h]

theorem quarter_of_off (h : s.boot.off = true) (r : Nat) : s.quarter r = s := by
  unfold State.quarter
  dsimp only
  split
  · rw [if_neg fun hc => hc.2.2.2.2 h]
  · rfl

theorem powerGood_of_off (h : s.boot.off = true) (r : Nat) : s.powerGood r = s := by
  unfold State.powerGood
  dsimp only
  split
  · rfl
  · rw [if_pos (.inr h)]

theorem goodMissed_of_off (h : s.boot.off = true) (r : Nat) : s.goodMissed r = s := by
  unfold State.goodMissed
  split
  · rfl
  · rw [if_neg fun hc => hc.2.2 h]

theorem regulatorFail_of_off (h : s.boot.off = true) (d : Nat) (u : Feeds) : s.regulatorFail d u = s := by
  unfold State.regulatorFail
  rw [if_pos h]

theorem offIgnores (s : State) (v ia ib b d p meas rx ry rail slice : Nat) (h : s.boot.off = true) : ∀ i ∈ [Instr.inputOutOfRange v ia ib, .bladeLoss b, .bladeRestore, .busConverterFail d, .spareConverterFail,
      .phaseFail d p meas, .ldoSliceFail d rx ry rail slice, .regionComputeOn d rx ry, .regionComputeOff d rx ry, .regionFullOff d rx ry, .regionRouterOn d rx ry,
      .quarterStrength d rx ry, .stageAdmission d, .powerGood d rx ry, .powerGoodMissed d rx ry] ++ (List.range 12).map (Instr.substrateRegulatorFail d ∘ .gddr) ++ [.substrateRegulatorFail d .hostPort, .substrateRegulatorFail d .dieControl],
    exec i s = .next s := by
  have hinput : s.inputRange v ia ib = s := if_pos (.inr (.inr h))
  have hloss : s.bladeLoss b = s := if_pos (.inr (.inr h))
  have hrestore : s.bladeRestore = s := if_pos (.inr h)
  have hconv : s.converterFail d = s := if_pos h
  have hspare : s.spareFail = s := if_pos h
  have hphase : s.phaseFail d p meas = s := if_pos (.inr (.inr h))
  have hslice : (s.sliceFail (regionAt d rx ry) rail slice).powerSettle = s := (congrArg State.powerSettle (if_pos (.inr (.inr h)))).trans (powerSettle_of_off h)
  have hadmit : (s.admitStages d).powerSettle = s := (congrArg State.powerSettle (if_pos (.inr h))).trans (powerSettle_of_off h)
  have hgood : (s.powerGood (regionAt d rx ry)).powerSettle = s := (congrArg State.powerSettle (powerGood_of_off h _)).trans (powerSettle_of_off h)
  have hmissed : (s.goodMissed (regionAt d rx ry)).powerSettle = s := (congrArg State.powerSettle (goodMissed_of_off h _)).trans (powerSettle_of_off h)
  intro i hi
  rcases List.mem_append.1 hi with hi | hi
  · rcases List.mem_append.1 hi with hi | hi
    · simp only [List.mem_cons, List.not_mem_nil, or_false] at hi
      rcases hi with rfl | rfl | rfl | rfl | rfl | rfl | rfl | rfl | rfl | rfl | rfl | rfl | rfl | rfl | rfl
      · exact congrArg Host.Outcome.next hinput
      · exact congrArg Host.Outcome.next hloss
      · exact congrArg Host.Outcome.next hrestore
      · exact congrArg Host.Outcome.next hconv
      · exact congrArg Host.Outcome.next hspare
      · exact congrArg Host.Outcome.next hphase
      · exact congrArg Host.Outcome.next hslice
      · exact congrArg Host.Outcome.next (regionCmd_of_off h _ _)
      · exact congrArg Host.Outcome.next (regionCmd_of_off h _ _)
      · exact congrArg Host.Outcome.next (regionCmd_of_off h _ _)
      · exact congrArg Host.Outcome.next (regionCmd_of_off h _ _)
      · exact congrArg Host.Outcome.next (quarter_of_off h _)
      · exact congrArg Host.Outcome.next hadmit
      · exact congrArg Host.Outcome.next hgood
      · exact congrArg Host.Outcome.next hmissed
    · obtain ⟨n, -, rfl⟩ := List.mem_map.1 hi
      exact congrArg Host.Outcome.next (regulatorFail_of_off h ..)
  · simp only [List.mem_cons, List.not_mem_nil, or_false] at hi
    rcases hi with rfl | rfl <;> exact congrArg Host.Outcome.next (regulatorFail_of_off h ..)

/-! ### A die that loses its supply (R344) -/

/-- What a die leaves that loses its supply. -/
structure SupplyLost (s t : State) (d : Nat) : Prop where
  reach : s.within [.regs, .cells, .regions, .dies, .band, .boot, .err] t
  off : t.boot.off = s.boot.off
  regions : ∀ i, i < 64 → (t.region (d * 64 + i)).st = 0
  others : ∀ r, regionDie r ≠ d → t.region r = s.region r
  supplied : (t.die d).supplied = false
  dies : ∀ e, (t.die e).convFail = (s.die e).convFail
  fields : t.fld (dieKey d PWR_FIELD_V) 0 10 = 0 ∧ t.fld (dieKey d CLK_STAT) 0 4 = 0
  excluded : (d, 3, s.fld (ecKey BOOT_STAT) 4 1 == 1) ∈ t.boot.excluded
  conv : ∀ e, t.reg (dieKey e PWR_CONV) = s.reg (dieKey e PWR_CONV)
  serving : s.fld (ecKey BOOT_STAT) 4 1 = 1 → ∃ a b, t.err.recQ = s.err.recQ ++ [a, b] ∧ a.cls = 0x75 ∧ a.sev = 2 ∧ a.loc = .dieUnit d d ∧ b.cls = 0x8A ∧ b.sev = 2
  starting : s.fld (ecKey BOOT_STAT) 4 1 = 0 → ∃ a, t.err.recQ = s.err.recQ ++ [a] ∧ a.cls = 0x75 ∧ a.loc = .dieUnit d d

/-- What the note of a die to be excluded leaves. -/
structure Excluded (s t : State) (d reason : Nat) : Prop where
  reach : s.within [.boot, .err] t
  off : t.boot.off = s.boot.off
  noted : (d, reason, s.fld (ecKey BOOT_STAT) 4 1 == 1) ∈ t.boot.excluded
  serving : s.fld (ecKey BOOT_STAT) 4 1 = 1 → ∃ b, t.err.recQ = s.err.recQ ++ [b] ∧ b.cls = 0x8A ∧ b.sev = 2
  starting : s.fld (ecKey BOOT_STAT) 4 1 ≠ 1 → t.err = s.err

theorem excludeNext_keeps (s : State) (d reason : Nat) : Excluded s (s.excludeNext d reason) d reason := by
  have hw : s.within [.boot, .err] (s.excludeNext d reason) := within_excludeNext (List.Subset.refl _) (within_refl s)
  unfold State.excludeNext at hw ⊢
  dsimp only at hw ⊢
  by_cases h : s.fld (ecKey BOOT_STAT) 4 1 = 1
  · rw [if_pos (beq_iff_eq.2 h)] at hw ⊢
    exact ⟨hw, rfl, List.mem_append_right _ List.mem_cons_self, fun _ => ⟨_, rfl, rfl, rfl⟩, fun hc => absurd h hc⟩
  · rw [if_neg fun hb => h (beq_iff_eq.1 hb)] at hw ⊢
    exact ⟨hw, rfl, List.mem_append_right _ List.mem_cons_self, fun hc => absurd hc h, fun _ => rfl⟩

theorem regionDie_at {i : Nat} (d : Nat) (hi : i < 64) : regionDie (d * 64 + i) = d := by
  unfold regionDie
  omega

theorem supplyLoss_keeps (s : State) (d : Nat) : SupplyLost s (s.supplyLoss d) d := by
  have hall : s.within [.regs, .cells, .regions, .dies, .band, .boot, .err] (s.supplyLoss d) := within_supplyLoss (List.Subset.refl _) (within_refl s)
  unfold State.supplyLoss at hall ⊢
  dsimp only at hall ⊢
  have hoff := regionsOff_foldl ((List.range 64).map fun i => d * 64 + i) s
  rw [List.foldl_map] at hoff
  generalize (List.range 64).foldl (fun t i => t.fullOff (d * 64 + i)) s = a at hoff hall ⊢
  have hfield := fieldOff_keeps a d
  generalize a.fieldOff d = b at hfield hall ⊢
  have hwd : b.within [.dies] (b.setDie d { a.die d with supplied := false }) := within_setDie (List.Subset.refl _) (within_refl b)
  have hsame : (b.setDie d { a.die d with supplied := false }).die d = { a.die d with supplied := false } := die_setDie_same ..
  have hother (e : Nat) (he : e ≠ d) : (b.setDie d { a.die d with supplied := false }).die e = b.die e := (die_setDie ..).trans (if_neg he)
  generalize b.setDie d { a.die d with supplied := false } = c at hwd hsame hother hall ⊢
  have hregs : c.regs = b.regs := StartPhases.within_same hwd .regs (by decide)
  have hwc : s.within [.regs, .cells, .regions, .band, .dies] c := within_trans (within_mono hoff.reach (by decide)) (within_trans (within_mono hfield.reach (by decide)) (within_mono hwd (by decide)))
  have herr : c.err = s.err := StartPhases.within_same hwc .err (by decide)
  have hboot : c.boot = s.boot := StartPhases.within_same hwc .boot (by decide)
  have hregions : c.regions = a.regions := (StartPhases.within_same hwd .regions (by decide)).trans (StartPhases.within_same hfield.reach .regions (by decide))
  have hdies (e : Nat) : b.die e = s.die e :=
    congrArg (fun m => SMap.get m e Die.reset) ((StartPhases.within_same hfield.reach .dies (by decide)).trans (StartPhases.within_same hoff.reach .dies (by decide)))
  have hdieA (e : Nat) : a.die e = s.die e := congrArg (fun m => SMap.get m e Die.reset) (StartPhases.within_same hoff.reach .dies (by decide))
  have hstat : c.fld (ecKey BOOT_STAT) 4 1 = s.fld (ecKey BOOT_STAT) 4 1 :=
    (fld_of_regs hwd.1 hregs ..).trans ((fld_of_reg (hfield.other _ (ecKey_ne_dieKey _ _ (by decide)) (ecKey_ne_dieKey _ _ (by decide)) (ecKey_ne_dieKey _ _ (by decide))) ..).trans
      (fld_of_reg (hoff.other _ (noCellKey_ec (by decide)) fun r rail _ => ecKey_ne_ldo r rail (by decide)) ..))
  have hconv (e : Nat) : c.reg (dieKey e PWR_CONV) = s.reg (dieKey e PWR_CONV) :=
    (reg_of_regs hwd.1 hregs _).trans ((hfield.other _ (dieKey_ne _ _ (by decide) (by decide) (by decide)) (dieKey_ne _ _ (by decide) (by decide) (by decide)) (dieKey_ne _ _ (by decide) (by decide) (by decide))).trans
      (hoff.other _ (.inr (by unfold dieKey PWR_CONV; omega)) fun r rail hr => dieKey_ne_ldo e r (by decide) hr))
  have hx := excludeNext_keeps (c.raise 0x75 (.dieUnit d d) 0 none) d 3
  obtain ⟨q, hq, hcls, hsev, hloc, -⟩ : c.logs (c.raise 0x75 (.dieUnit d d) 0 none) 0x75 (.dieUnit d d) 0 := logs_raise rfl ..
  have hstat' : (c.raise 0x75 (.dieUnit d d) 0 none).fld (ecKey BOOT_STAT) 4 1 = s.fld (ecKey BOOT_STAT) 4 1 := (raise_fld ..).trans hstat
  have hregs' : (c.raise 0x75 (.dieUnit d d) 0 none).regs = c.regs := raise_regs ..
  have hregions' : (c.raise 0x75 (.dieUnit d d) 0 none).regions = c.regions := raise_regions ..
  have hdies' : (c.raise 0x75 (.dieUnit d d) 0 none).dies = c.dies := raise_dies ..
  have hboot' : (c.raise 0x75 (.dieUnit d d) 0 none).boot = c.boot := raise_boot ..
  have hpart' : (c.raise 0x75 (.dieUnit d d) 0 none).part = c.part := raise_part ..
  generalize c.raise 0x75 (.dieUnit d d) 0 none = e at hx hq hstat' hregs' hregions' hdies' hboot' hpart' hall ⊢
  have hxregs : (e.excludeNext d 3).regs = c.regs := (StartPhases.within_same hx.reach .regs (by decide)).trans hregs'
  have hxpart : (e.excludeNext d 3).part = c.part := hx.reach.1.trans hpart'
  have hxregions : (e.excludeNext d 3).regions = a.regions := (StartPhases.within_same hx.reach .regions (by decide)).trans (hregions'.trans hregions)
  have hxdie (f : Nat) : (e.excludeNext d 3).die f = c.die f := congrArg (fun m => SMap.get m f Die.reset) ((StartPhases.within_same hx.reach .dies (by decide)).trans hdies')
  have hregion (r : Nat) : (e.excludeNext d 3).region r = a.region r := congrArg (fun m => SMap.get m r Region.reset) hxregions
  have hcfld {k lo w : Nat} : (e.excludeNext d 3).fld k lo w = b.fld k lo w := (fld_of_regs hxpart hxregs ..).trans (fld_of_regs hwd.1 hregs ..)
  refine ⟨hall, ?_, fun i hi => ?_, fun r hr => ?_, ?_, fun f => ?_, ?_, ?_, fun f => (reg_of_regs hxpart hxregs _).trans (hconv f), fun hs => ?_, fun hs => ?_⟩
  · rw [hx.off, hboot', hboot]
  · rw [hregion]
    exact (hoff.off _ (List.mem_map.2 ⟨i, List.mem_range.2 hi, rfl⟩)).1
  · rw [hregion]
    refine hoff.others r fun hm => ?_
    obtain ⟨i, hi, rfl⟩ := List.mem_map.1 hm
    exact hr (regionDie_at d (List.mem_range.1 hi))
  · rw [hxdie, hsame]
  · rw [hxdie]
    by_cases hf : f = d
    · rw [hf, hsame, hdieA]
    · rw [hother f hf, hdies]
  · rw [hcfld, hcfld]
    exact ⟨hfield.zero.1, hfield.zero.2.2⟩
  · rw [← hstat']
    exact hx.noted
  · obtain ⟨y, hy, hycls, hysev⟩ := hx.serving (hstat'.trans hs)
    exact ⟨q, y, by rw [hy, hq, herr, List.append_assoc]; rfl, hcls, hsev, hloc, hycls, hysev⟩
  · refine ⟨q, ?_, hcls, hloc⟩
    rw [hx.starting (by rw [hstat', hs]; decide), hq, herr]

end Sys2Proof.InputPower
end

section
/-! PROOFS. Converters, the spare, phases (R342-R346). -/

namespace Sys2Proof.InputPower

open Sys2Proof Sys2Proof.Machine Sys2Proof.Laws Sys2Proof.Clauses Sys2Proof.PowerRails

variable {s t u : State} {r d : Nat}

/-! ### A die without its converter (R343, R344) -/

/-- What the spare's turn to a die leaves. -/
structure SpareServes (s t : State) (d : Nat) : Prop where
  reach : s.within [.regs, .err] t
  fed : t.fld (dieKey d PWR_CONV) 0 2 = 2
  served : ∀ e, e < s.part.dies → t.fld (dieKey e PWR_CONV) 3 4 = d
  apart : ∀ e, e ≠ d → ∀ lo w, lo + w ≤ 3 → t.fld (dieKey e PWR_CONV) lo w = s.fld (dieKey e PWR_CONV) lo w
  record : s.logs t 0x74 (.dieUnit d d) 0

theorem fld_of_low {k lo w : Nat} (h0 : s.fld k lo 1 = a) (h1 : s.fld k (lo + 1) 1 = b) (hw : w = 2) : s.fld k lo w = a + 2 * b := by
  subst hw
  unfold State.fld bits at h0 h1 ⊢
  have hpow : (s.reg k).toNat / 2 ^ (lo + 1) = (s.reg k).toNat / 2 ^ lo / 2 := by rw [Nat.pow_succ, Nat.div_div_eq_div_mul]
  rw [hpow] at h1
  generalize (s.reg k).toNat / 2 ^ lo = n at h0 h1 ⊢
  omega

theorem fld_split {k lo w a b : Nat} (h : s.fld k lo (a + b) = w) : s.fld k lo a = w % 2 ^ a ∧ s.fld k (lo + a) b = w / 2 ^ a := by
  subst h
  unfold State.fld bits
  rw [Nat.pow_add, Nat.pow_add, ← Nat.div_div_eq_div_mul]
  generalize (s.reg k).toNat / 2 ^ lo = n
  exact ⟨(Nat.mod_mul_right_mod n (2 ^ a) (2 ^ b)).symm, Nat.mod_mul_right_div_self n (2 ^ a) (2 ^ b) |>.symm⟩

theorem converterLost_to_spare (s : State) {d : Nat} (hd : d < s.part.dies) (hfed : s.fld (dieKey d PWR_CONV) 0 2 = 1) (hready : s.fld (dieKey d PWR_CONV) 2 1 = 1)
    (hfree : s.fld (dieKey d PWR_CONV) 3 4 = 0xF) : SpareServes s (s.converterLost d) d := by
  have hlow := fld_split (a := 1) (b := 1) hfed
  have hd8 := dies_le s.part
  unfold State.converterLost
  dsimp only
  rw [if_neg (show ¬s.fld (dieKey d PWR_CONV) 1 1 = 1 by rw [hlow.2]; decide), if_neg (show ¬s.fld (dieKey d PWR_CONV) 0 1 = 0 by rw [hlow.1]; decide), if_pos ⟨hready, hfree⟩]
  have hbit0 : ((s.setFld (dieKey d PWR_CONV) 0 1 0).setFld (dieKey d PWR_CONV) 1 1 1).fld (dieKey d PWR_CONV) 0 1 = 0 := by
    rw [fld_setFld_apart _ _ (by decide) (.inl (by decide)), fld_setFld_same _ _ (by decide), Nat.zero_mod]
  have hbit1 : ((s.setFld (dieKey d PWR_CONV) 0 1 0).setFld (dieKey d PWR_CONV) 1 1 1).fld (dieKey d PWR_CONV) 1 1 = 1 := by
    rw [fld_setFld_same _ _ (by decide), Nat.one_mod_two_pow (by decide)]
  have hkeep (e : Nat) (he : e ≠ d) : ((s.setFld (dieKey d PWR_CONV) 0 1 0).setFld (dieKey d PWR_CONV) 1 1 1).reg (dieKey e PWR_CONV) = s.reg (dieKey e PWR_CONV) := by
    rw [reg_setFld_other _ _ _ _ fun hk => he (dieKey_inj hk), reg_setFld_other _ _ _ _ fun hk => he (dieKey_inj hk)]
  have hw : s.within [.regs] ((s.setFld (dieKey d PWR_CONV) 0 1 0).setFld (dieKey d PWR_CONV) 1 1 1) :=
    within_setFld (List.Subset.refl _) (within_setFld (List.Subset.refl _) (within_refl s))
  generalize (s.setFld (dieKey d PWR_CONV) 0 1 0).setFld (dieKey d PWR_CONV) 1 1 1 = a at hbit0 hbit1 hkeep hw ⊢
  have hset := setAll_keeps a (o := PWR_CONV) (lo := 3) (w := 4) d (by decide)
  rw [hw.1] at hset
  generalize a.setAll PWR_CONV 3 4 d = b at hset ⊢
  refine ⟨within_trans (within_mono hw (by decide)) (within_raise (by decide) (within_mono hset.reach (by decide))), ?_, fun e he => ?_, fun e he lo w hlo => ?_, logs_raise ?_ ..⟩
  · rw [raise_fld, hset.apart d _ _ (.inl (by decide))]
    exact fld_of_low hbit0 hbit1 rfl
  · rw [raise_fld]
    exact (hset.set e (List.mem_range.2 he)).trans (Nat.mod_eq_of_lt (by omega))
  · rw [raise_fld, hset.apart e _ _ (.inl hlo)]
    exact fld_of_reg (hkeep e he) ..
  · rw [StartPhases.within_same hset.reach .err (by decide), StartPhases.within_same hw .err (by decide)]

/-- A die that has no spare to go to, or loses the spare that served it. -/
theorem converterLost_unserved (s : State) {d : Nat} (h : (s.fld (dieKey d PWR_CONV) 0 2 = 1 ∧ (s.fld (dieKey d PWR_CONV) 2 1 = 0 ∨ s.fld (dieKey d PWR_CONV) 3 4 ≠ 0xF)) ∨ 2 ≤ s.fld (dieKey d PWR_CONV) 0 2) :
    ∃ a, s.within [.regs] a ∧ SupplyLost a (s.converterLost d) d ∧ a.fld (dieKey d PWR_CONV) 1 1 = 0 ∧ a.fld (ecKey BOOT_STAT) 4 1 = s.fld (ecKey BOOT_STAT) 4 1 ∧
      (s.fld (dieKey d PWR_CONV) 0 2 = 1 → ∀ e lo w, 1 ≤ lo ∨ e ≠ d → a.fld (dieKey e PWR_CONV) lo w = s.fld (dieKey e PWR_CONV) lo w) ∧
      (2 ≤ s.fld (dieKey d PWR_CONV) 0 2 → ∀ e, e < s.part.dies → a.fld (dieKey e PWR_CONV) 2 5 = 0x1E) := by
  have hlow : s.fld (dieKey d PWR_CONV) 0 1 = s.fld (dieKey d PWR_CONV) 0 2 % 2 ^ 1 ∧ s.fld (dieKey d PWR_CONV) 1 1 = s.fld (dieKey d PWR_CONV) 0 2 / 2 ^ 1 := fld_split (a := 1) (b := 1) rfl
  have hlt : s.fld (dieKey d PWR_CONV) 0 2 < 4 := IntegerInstructions.bits_lt ..
  have hstat (e : Nat) : ecKey BOOT_STAT ≠ dieKey e PWR_CONV := ecKey_ne_dieKey _ _ (by decide)
  unfold State.converterLost
  dsimp only
  by_cases hserved : 2 ≤ s.fld (dieKey d PWR_CONV) 0 2
  · rw [if_pos (show s.fld (dieKey d PWR_CONV) 1 1 = 1 by rw [hlow.2]; omega)]
    have hw : s.within [.regs] (s.setFld (dieKey d PWR_CONV) 1 1 0) := within_setFld (List.Subset.refl _) (within_refl s)
    have hbit : (s.setFld (dieKey d PWR_CONV) 1 1 0).fld (dieKey d PWR_CONV) 1 1 = 0 := fld_setFld_same _ _ (by decide)
    have hboot : (s.setFld (dieKey d PWR_CONV) 1 1 0).reg (ecKey BOOT_STAT) = s.reg (ecKey BOOT_STAT) := reg_setFld_other _ _ _ _ (hstat d)
    generalize s.setFld (dieKey d PWR_CONV) 1 1 0 = a at hw hbit hboot ⊢
    have h1 := setAll_keeps a (o := PWR_CONV) (lo := 2) (w := 1) 0 (by decide)
    generalize a.setAll PWR_CONV 2 1 0 = b at h1 ⊢
    have h2 := setAll_keeps b (o := PWR_CONV) (lo := 3) (w := 4) 0xF (by decide)
    generalize b.setAll PWR_CONV 3 4 0xF = c at h2 ⊢
    refine ⟨c, within_trans hw (within_trans h1.reach h2.reach), supplyLoss_keeps c d, ?_, ?_, fun h => absurd h (by omega), fun _ e he => ?_⟩
    · rw [h2.apart d _ _ (.inl (by decide)), h1.apart d _ _ (.inl (by decide)), hbit]
    · exact fld_of_reg ((h2.away hstat).trans ((h1.away hstat).trans hboot)) ..
    · have hpa : a.part = s.part := hw.1
      have hpb : b.part = s.part := h1.reach.1.trans hpa
      have h4 : c.fld (dieKey e PWR_CONV) 3 4 = 0xF := h2.set e (List.mem_range.2 (hpb ▸ he))
      have h3 : c.fld (dieKey e PWR_CONV) 2 1 = 0 := (h2.apart e _ _ (.inl (by decide))).trans (h1.set e (List.mem_range.2 (hpa ▸ he)))
      have hs : c.fld (dieKey e PWR_CONV) 2 1 = c.fld (dieKey e PWR_CONV) 2 5 % 2 ^ 1 ∧ c.fld (dieKey e PWR_CONV) 3 4 = c.fld (dieKey e PWR_CONV) 2 5 / 2 ^ 1 := fld_split (a := 1) (b := 4) rfl
      rw [h3, h4] at hs
      omega
  · obtain ⟨hfed, hno⟩ := h.resolve_right hserved
    rw [if_neg (show ¬s.fld (dieKey d PWR_CONV) 1 1 = 1 by rw [hlow.2, hfed]; decide), if_neg (show ¬s.fld (dieKey d PWR_CONV) 0 1 = 0 by rw [hlow.1, hfed]; decide),
      if_neg (by omega)]
    have hkeep (e lo w : Nat) (h : 1 ≤ lo ∨ e ≠ d) : (s.setFld (dieKey d PWR_CONV) 0 1 0).fld (dieKey e PWR_CONV) lo w = s.fld (dieKey e PWR_CONV) lo w := by
      by_cases he : e = d
      · subst he
        exact fld_setFld_apart _ _ (by decide) (.inr (h.resolve_right fun h => h rfl))
      · exact fld_setFld_other _ _ _ _ _ _ fun hk => he (dieKey_inj hk)
    refine ⟨_, within_setFld (List.Subset.refl _) (within_refl s), supplyLoss_keeps _ d, ?_, fld_setFld_other _ _ _ _ _ _ (hstat d), fun _ e lo w h => hkeep e lo w h, fun h => absurd h hserved⟩
    rw [hkeep d 1 1 (.inl (by decide)), hlow.2, hfed, Nat.div_eq_of_lt (by decide)]

/-! ### The end of the slot (R344) -/

/-- One die's turn at the end of a slot. -/
def settleOne (t : State) (d : Nat) : State :=
  if (t.die d).convFail ∧ ¬ t.boot.off then (t.setDie d { t.die d with convFail := false }).converterLost d else t

theorem settleConverters_eq (s : State) : s.settleConverters = (List.range' 0 s.part.dies).foldl settleOne s := by
  rw [← List.range_eq_range']
  rfl

theorem settle_idle (l : List Nat) (h : ∀ q ∈ l, (t.die q).convFail = false) : l.foldl settleOne t = t := by
  induction l with
  | nil => rfl
  | cons q l ih =>
    rw [List.foldl_cons, settleOne, h q List.mem_cons_self, if_neg (by simp only [Bool.false_eq_true, false_and, not_false_eq_true])]
    exact ih fun p hp => h p (List.mem_cons_of_mem _ hp)

theorem range'_split {a k n : Nat} (h : k < n) : List.range' a n = List.range' a k ++ (a + k) :: List.range' (a + k + 1) (n - k - 1) := by
  obtain ⟨m, rfl⟩ : ∃ m, n = k + (m + 1) := ⟨n - k - 1, by omega⟩
  rw [← List.range'_append_1, show k + (m + 1) - k - 1 = m by omega]
  rfl

/-- A state whose die d's converter no longer counts as failed. -/
def taken (s : State) (d : Nat) : State := s.setDie d { s.die d with convFail := false }

theorem taken_keeps (s : State) (d : Nat) : s.within [.dies] (taken s d) ∧ (∀ e, ((taken s d).die e).convFail = if e = d then false else (s.die e).convFail) := by
  refine ⟨within_setDie (List.Subset.refl _) (within_refl s), fun e => ?_⟩
  unfold taken
  rw [die_setDie]
  split <;> rfl

theorem settle_one (s : State) {d : Nat} (hd : d < s.part.dies) (hoff : s.boot.off = false) (hfail : ∀ q, q < s.part.dies → ((s.die q).convFail = true ↔ q = d))
    (hafter : ∀ q, d < q → q < s.part.dies → (((taken s d).converterLost d).die q).convFail = false) : s.settleConverters = (taken s d).converterLost d := by
  have hfalse (q : Nat) (hq : q < s.part.dies) (hne : q ≠ d) : (s.die q).convFail = false := Bool.eq_false_iff.2 fun h => hne ((hfail q hq).1 h)
  have hone : settleOne s d = (taken s d).converterLost d := if_pos ⟨(hfail d hd).2 rfl, by rw [hoff]; decide⟩
  have hidle : (List.range' 0 d).foldl settleOne s = s := settle_idle _ fun q hq => by
    have := List.mem_range'_1.1 hq
    exact hfalse q (by omega) (by omega)
  rw [settleConverters_eq, range'_split hd, List.foldl_append, hidle, List.foldl_cons, Nat.zero_add, hone]
  refine settle_idle _ fun q hq => ?_
  have := List.mem_range'_1.1 hq
  exact hafter q (by omega) (by omega)

theorem logs_from {cls : Nat} {loc : Loc} {detail : Nat} (h : t.logs u cls loc detail) (herr : t.err = s.err) : s.logs u cls loc detail := by
  obtain ⟨r, hr, h⟩ := h
  exact ⟨r, by rw [hr, herr], h⟩

theorem fld_of_within_dies (h : s.within [.dies] t) (k lo w : Nat) : t.fld k lo w = s.fld k lo w := fld_of_regs h.1 (StartPhases.within_same h .regs (by decide)) k lo w

/-- The converter of a die fails, all others being sound (R343, R344). -/
theorem converterFailed (s : State) (d : Nat) (hd : d < s.part.dies) (hoff : s.boot.off = false) (hsound : ∀ e, (s.die e).convFail = false) :
    ∃ u, exec (.busConverterFail d) s = .next u ∧ (u.die d).convFail = true ∧ (∀ e, e ≠ d → u.die e = s.die e) ∧ u.regs = s.regs ∧ u.regions = s.regions ∧ u.err = s.err ∧
      (s.fld (dieKey d PWR_CONV) 0 2 = 1 → s.fld (dieKey d PWR_CONV) 2 1 = 1 → s.fld (dieKey d PWR_CONV) 3 4 = 0xF →
        u.settleConverters.fld (dieKey d PWR_CONV) 0 2 = 2 ∧ (∀ e, e < s.part.dies → u.settleConverters.fld (dieKey e PWR_CONV) 3 4 = d) ∧
        s.logs u.settleConverters 0x74 (.dieUnit d d) 0 ∧ u.settleConverters.regions = s.regions ∧ u.settleConverters.cells = s.cells) ∧
      ((s.fld (dieKey d PWR_CONV) 0 2 = 1 ∧ (s.fld (dieKey d PWR_CONV) 2 1 = 0 ∨ s.fld (dieKey d PWR_CONV) 3 4 ≠ 0xF)) ∨ 2 ≤ s.fld (dieKey d PWR_CONV) 0 2 →
        u.settleConverters.fld (dieKey d PWR_CONV) 1 1 = 0 ∧ (∀ i, i < 64 → (u.settleConverters.region (d * 64 + i)).st = 0) ∧ (u.settleConverters.die d).supplied = false ∧
        (2 ≤ s.fld (dieKey d PWR_CONV) 0 2 → ∀ e, e < s.part.dies → u.settleConverters.fld (dieKey e PWR_CONV) 2 5 = 0x1E) ∧
        u.settleConverters.fld (dieKey d PWR_FIELD_V) 0 10 = 0 ∧ u.settleConverters.fld (dieKey d CLK_STAT) 0 4 = 0 ∧
        (d, 3, s.fld (ecKey BOOT_STAT) 4 1 == 1) ∈ u.settleConverters.boot.excluded ∧
        (s.fld (ecKey BOOT_STAT) 4 1 = 1 →
          ∃ a b, u.settleConverters.err.recQ = s.err.recQ ++ [a, b] ∧ a.cls = 0x75 ∧ a.sev = 2 ∧ a.loc = .dieUnit d d ∧ b.cls = 0x8A ∧ b.sev = 2) ∧
        (s.fld (ecKey BOOT_STAT) 4 1 = 0 → ∃ a, u.settleConverters.err.recQ = s.err.recQ ++ [a] ∧ a.cls = 0x75 ∧ a.loc = .dieUnit d d) ∧
        ∀ r, regionDie r ≠ d → u.settleConverters.region r = s.region r) := by
  have hexec : exec (.busConverterFail d) s = .next (s.setDie d { s.die d with convFail := true }) :=
    congrArg Host.Outcome.next (if_neg (by rw [hoff]; decide))
  have hwu : s.within [.dies] (s.setDie d { s.die d with convFail := true }) := within_setDie (List.Subset.refl _) (within_refl s)
  have hdu : ((s.setDie d { s.die d with convFail := true }).die d).convFail = true := congrArg Die.convFail (die_setDie_same ..)
  have hou (e : Nat) (he : e ≠ d) : (s.setDie d { s.die d with convFail := true }).die e = s.die e := (die_setDie ..).trans (if_neg he)
  generalize s.setDie d { s.die d with convFail := true } = u at hexec hwu hdu hou
  obtain ⟨hwa, hta⟩ := taken_keeps u d
  have hnone (e : Nat) : ((taken u d).die e).convFail = false := by
    rw [hta]
    split
    · rfl
    · rename_i he
      rw [hou e he, hsound]
  have hsettle (hafter : ∀ q, (((taken u d).converterLost d).die q).convFail = false) : u.settleConverters = (taken u d).converterLost d := by
    refine settle_one u (hwu.1.symm ▸ hd) ?_ (fun q _ => ⟨fun hq => ?_, fun hq => hq ▸ hdu⟩) fun q _ _ => hafter q
    · rw [StartPhases.within_same hwu .boot (by decide), hoff]
    · by_contra hne
      rw [hou q hne, hsound] at hq
      exact Bool.false_ne_true hq
  have hws : s.within [.dies] (taken u d) := within_trans hwu hwa
  generalize taken u d = a at hws hnone hsettle
  have hfld := fld_of_within_dies hws
  have herr : a.err = s.err := StartPhases.within_same hws .err (by decide)
  refine ⟨u, hexec, hdu, hou, StartPhases.within_same hwu .regs (by decide), StartPhases.within_same hwu .regions (by decide), StartPhases.within_same hwu .err (by decide),
    fun hfed hready hfree => ?_, fun hlost => ?_⟩
  · have h := converterLost_to_spare a (hws.1.symm ▸ hd) (by rw [hfld, hfed]) (by rw [hfld, hready]) (by rw [hfld, hfree])
    rw [hsettle fun q => (congrArg (fun m => (SMap.get m q Die.reset).convFail) (StartPhases.within_same h.reach .dies (by decide))).trans (hnone q)]
    refine ⟨h.fed, fun e he => h.served e (hws.1.symm ▸ he), logs_from h.record herr, ?_, ?_⟩
    · rw [StartPhases.within_same h.reach .regions (by decide), StartPhases.within_same hws .regions (by decide)]
    · rw [StartPhases.within_same h.reach .cells (by decide), StartPhases.within_same hws .cells (by decide)]
  · obtain ⟨b, hwb, h, hunfed, hstat, -, hgone⟩ := converterLost_unserved a (d := d) (by rw [hfld, hfld, hfld]; exact hlost)
    rw [hsettle fun q => (h.dies q).trans ((congrArg (fun m => (SMap.get m q Die.reset).convFail) (StartPhases.within_same hwb .dies (by decide))).trans (hnone q))]
    have hstats : b.fld (ecKey BOOT_STAT) 4 1 = s.fld (ecKey BOOT_STAT) 4 1 := hstat.trans (hfld ..)
    have hrec : b.err = s.err := (StartPhases.within_same hwb .err (by decide)).trans herr
    have hconv (e lo w : Nat) : (a.converterLost d).fld (dieKey e PWR_CONV) lo w = b.fld (dieKey e PWR_CONV) lo w := fld_of_reg (h.conv e) ..
    refine ⟨(hconv ..).trans hunfed, h.regions, h.supplied, fun hserved e he => (hconv ..).trans (hgone (by rw [hfld]; exact hserved) e (hws.1.symm ▸ he)), h.fields.1, h.fields.2, ?_, ?_, ?_, fun r hr => ?_⟩
    · rw [← hstats]
      exact h.excluded
    · rw [← hstats, ← hrec]
      exact h.serving
    · rw [← hstats, ← hrec]
      exact h.starting
    · rw [h.others r hr]
      exact congrArg (fun m => SMap.get m r Region.reset) ((StartPhases.within_same hwb .regions (by decide)).trans (StartPhases.within_same hws .regions (by decide)))

/-- Two dies that claim the spare in one slot (R344). -/
theorem twoClaims (s : State) (d e : Nat) (hde : d < e) (he : e < s.part.dies) (hoff : s.boot.off = false) (hfail : ∀ q, (s.die q).convFail = true ↔ q = d ∨ q = e)
    (hd7 : s.fld (dieKey d PWR_CONV) 0 7 = 0x7D) (he7 : s.fld (dieKey e PWR_CONV) 0 7 = 0x7D) :
    s.settleConverters.fld (dieKey d PWR_CONV) 0 2 = 2 ∧ (s.settleConverters.die e).supplied = false ∧ s.settleConverters.fld (dieKey e PWR_CONV) 3 4 = d := by
  have hfields {q : Nat} (hq : s.fld (dieKey q PWR_CONV) 0 7 = 0x7D) : s.fld (dieKey q PWR_CONV) 0 2 = 1 ∧ s.fld (dieKey q PWR_CONV) 2 1 = 1 ∧ s.fld (dieKey q PWR_CONV) 3 4 = 0xF := by
    obtain ⟨h3, h4⟩ := fld_split (a := 3) (b := 4) hq
    obtain ⟨h0, h2⟩ := fld_split (a := 2) (b := 1) h3
    exact ⟨h0, h2, h4⟩
  have hd8 := dies_le s.part
  have hd : d < s.part.dies := by omega
  have hone : settleOne s d = (taken s d).converterLost d := if_pos ⟨(hfail d).2 (.inl rfl), by rw [hoff]; decide⟩
  obtain ⟨hwa, hta⟩ := taken_keeps s d
  generalize taken s d = a at hone hwa hta
  have hfa := fld_of_within_dies hwa
  obtain ⟨h0, h2, h4⟩ := hfields hd7
  have hsp := converterLost_to_spare a (hwa.1.symm ▸ hd) (by rw [hfa, h0]) (by rw [hfa, h2]) (by rw [hfa, h4])
  generalize a.converterLost d = b at hone hsp
  have hbfail (q : Nat) : (b.die q).convFail = (a.die q).convFail := congrArg (fun m => (SMap.get m q Die.reset).convFail) (StartPhases.within_same hsp.reach .dies (by decide))
  have hbe : (b.die e).convFail = true := by
    rw [hbfail, hta, if_neg (by omega)]
    exact (hfail e).2 (.inr rfl)
  have hbother (q : Nat) (hq : q ≠ e) : (b.die q).convFail = false := by
    rw [hbfail, hta]
    split
    · rfl
    · exact Bool.eq_false_iff.2 fun h => ((hfail q).1 h).elim ‹_› hq
  have hbpart : b.part = s.part := hsp.reach.1.trans hwa.1
  have hboff : b.boot.off = false := by rw [StartPhases.within_same hsp.reach .boot (by decide), StartPhases.within_same hwa .boot (by decide), hoff]
  have hidle : (List.range' 0 d).foldl settleOne s = s := settle_idle _ fun q hq => by
    have := List.mem_range'_1.1 hq
    exact Bool.eq_false_iff.2 fun h => ((hfail q).1 h).elim (by omega) (by omega)
  have hidleb : (List.range' 0 (d + 1)).foldl settleOne b = b := settle_idle _ fun q hq => by
    have := List.mem_range'_1.1 hq
    exact hbother q (by omega)
  have hsettle : s.settleConverters = b.settleConverters := by
    rw [settleConverters_eq, settleConverters_eq, hbpart, range'_split hd, List.foldl_append, hidle, List.foldl_cons, Nat.zero_add, hone,
      show List.range' 0 d ++ d :: List.range' (d + 1) (s.part.dies - d - 1) = List.range' 0 (d + 1) ++ List.range' (d + 1) (s.part.dies - d - 1) by
        rw [List.range'_1_concat, List.append_assoc, Nat.zero_add]; rfl, List.foldl_append, hidleb]
  obtain ⟨hwc, htc⟩ := taken_keeps b e
  have hsettleb (hafter : ∀ q, e < q → (((taken b e).converterLost e).die q).convFail = false) : b.settleConverters = (taken b e).converterLost e :=
    settle_one b (hbpart.symm ▸ he) hboff (fun q _ => ⟨fun h => by_contra fun hq => Bool.false_ne_true ((hbother q hq).symm.trans h), fun h => h ▸ hbe⟩) fun q hq _ => hafter q hq
  generalize taken b e = c at hwc htc hsettleb
  have hfc := fld_of_within_dies hwc
  obtain ⟨k0, k2, k4⟩ := hfields he7
  have hce0 : c.fld (dieKey e PWR_CONV) 0 2 = 1 := by rw [hfc, hsp.apart e (by omega) 0 2 (by decide), hfa, k0]
  have hce4 : c.fld (dieKey e PWR_CONV) 3 4 = d := (hfc ..).trans (hsp.served e (hwa.1.symm ▸ he))
  obtain ⟨x, hwx, hlost, -, -, hkeep, -⟩ := converterLost_unserved c (d := e) (.inl ⟨hce0, .inr (by rw [hce4]; omega)⟩)
  rw [hsettle, hsettleb fun q hq => ?_]
  · refine ⟨?_, hlost.supplied, ?_⟩
    · rw [fld_of_reg (hlost.conv d), hkeep hce0 d _ _ (.inr (by omega)), hfc]
      exact hsp.fed
    · rw [fld_of_reg (hlost.conv e), hkeep hce0 e _ _ (.inl (by decide)), hce4]
  · rw [hlost.dies q, show (x.die q).convFail = (c.die q).convFail from congrArg (fun m => (SMap.get m q Die.reset).convFail) (StartPhases.within_same hwx .dies (by decide)), htc,
      if_neg (by omega)]
    exact hbother q (by omega)

end Sys2Proof.InputPower
end

section
/-! PROOFS. The spare, phases, slices of a rail and dark regions (R343-R350). -/

namespace Sys2Proof.InputPower

open Sys2Proof Sys2Proof.Machine Sys2Proof.Laws Sys2Proof.Clauses Sys2Proof.PowerRails
open Sys2Proof.WholeMachine (powerSettle_of_not_phase_three)
open Sys2Proof.PulseRemoval (regionsBut_setRegion)
open Sys2Proof.Bookkeeping (SameCanvas)

variable {s t u : State} {r d : Nat}

/-! ### The spare in standby (R343) -/

theorem spareFailed (s : State) (hoff : s.boot.off = false) (hready : s.fld (dieKey 0 PWR_CONV) 2 1 = 1) (hfree : s.fld (dieKey 0 PWR_CONV) 3 4 = 0xF) :
    ∃ t, exec .spareConverterFail s = .next t ∧ (∀ d, d < s.part.dies → t.fld (dieKey d PWR_CONV) 2 1 = 0) ∧ s.logs t 0x74 (.module s.part.dies) 0 ∧ t.regions = s.regions ∧ t.cells = s.cells := by
  have h := setAll_keeps s (o := PWR_CONV) (lo := 2) (w := 1) 0 (by decide)
  have hexec : exec .spareConverterFail s = .next ((s.setAll PWR_CONV 2 1 0).raise 0x74 (.module s.part.dies) 0 none) := by
    refine congrArg Host.Outcome.next ?_
    unfold State.spareFail
    rw [if_neg (by rw [hoff]; decide), if_pos ⟨hready, hfree⟩]
  generalize s.setAll PWR_CONV 2 1 0 = a at h hexec
  refine ⟨_, hexec, fun d hd => (raise_fld ..).trans (h.set d (List.mem_range.2 hd)), logs_raise (congrArg _ (StartPhases.within_same h.reach .err (by decide))) .., ?_, ?_⟩
  · rw [raise_regions, StartPhases.within_same h.reach .regions (by decide)]
  · rw [raise_cells, StartPhases.within_same h.reach .cells (by decide)]

/-! ### Bits counted (R345, R349) -/

theorem onesBelow_fld (s : State) (k lo n : Nat) : onesBelow (s.fld k lo n) n = (List.range n).countP fun i => s.fld k (lo + i) 1 == 1 := by
  unfold onesBelow
  refine List.countP_congr fun i hi => ?_
  have hlt := List.mem_range.1 hi
  obtain ⟨m, rfl⟩ : ∃ m, n = i + (1 + m) := ⟨n - i - 1, by omega⟩
  have h1 := (fld_split (s := s) (k := k) (lo := lo) (a := i) (b := 1 + m) rfl).2
  have h2 := (fld_split (s := s) (k := k) (lo := lo + i) (a := 1) (b := m) rfl).1
  rw [h2, h1]
  rfl

theorem countP_clear {f g : Nat → Bool} {p n : Nat} (hp : p < n) (hf : f p = true) (hg : g p = false) (h : ∀ i, i ≠ p → g i = f i) :
    (List.range n).countP g + 1 = (List.range n).countP f := by
  have hsame (l : List Nat) (hl : p ∉ l) : l.countP g = l.countP f :=
    List.countP_congr fun i hi => by rw [h i fun he => hl (he ▸ hi)]
  obtain ⟨m, rfl⟩ : ∃ m, n = p + (m + 1) := ⟨n - p - 1, by omega⟩
  rw [List.range_add, List.countP_append, List.countP_append, hsame _ (by simp only [List.mem_range, lt_irrefl, not_false_eq_true]), List.range_succ_eq_map, List.map_cons,
    List.countP_cons_of_neg (by rw [Nat.add_zero, hg]; decide), List.countP_cons_of_pos (by rw [Nat.add_zero]; exact hf), hsame _ fun hm => ?_]
  · omega
  · simp only [List.map_map, List.mem_map, Function.comp] at hm
    obtain ⟨i, -, hi⟩ := hm
    omega

/-- Clearing a live bit lowers the count by one. -/
theorem onesBelow_clear (s : State) {k lo n p : Nat} (hp : p < n) (hn : lo + n ≤ 64) (hlive : s.fld k (lo + p) 1 = 1) :
    onesBelow ((s.setFld k (lo + p) 1 0).fld k lo n) n + 1 = onesBelow (s.fld k lo n) n := by
  rw [onesBelow_fld, onesBelow_fld, List.countP_congr (p := fun i => (s.setFld k (lo + p) 1 0).fld k (lo + i) 1 == 1)
    (q := fun i => if i = p then false else s.fld k (lo + i) 1 == 1) fun i hi => ?_]
  · exact countP_clear hp (beq_iff_eq.2 hlive) (if_pos rfl) fun i hi => if_neg hi
  · by_cases hip : i = p
    · rw [if_pos hip, hip, fld_setFld_same _ _ (by omega)]
      rfl
    · rw [if_neg hip, fld_setFld_apart _ _ (by omega) (by omega)]

/-! ### A phase (R345) -/

theorem phaseFailed (s : State) (d p meas n : Nat) (hp : p < 28) (hoff : s.boot.off = false) (hlive : s.fld (dieKey d PWR_PHASE) p 1 = 1)
    (hn : n + 1 = onesBelow (s.fld (dieKey d PWR_PHASE) 0 28) 28) (h20 : 20 ≤ n) (hmeas : meas ≤ State.ilim n) :
    ∃ t, exec (.phaseFail d p meas) s = .next t ∧ t.fld (dieKey d PWR_PHASE) p 1 = 0 ∧ t.fld (dieKey d PWR_DIE_I) 16 12 = min 2160 (84 * n) ∧ t.fld (dieKey d PWR_DIE_I) 0 12 = meas ∧
      s.logs t 0x73 (.dieUnit d p) n ∧ s.regsBut t [dieKey d PWR_PHASE, dieKey d PWR_DIE_I] ∧ t.regions = s.regions ∧ t.dies = s.dies := by
  have hcount := onesBelow_clear s (k := dieKey d PWR_PHASE) (lo := 0) hp (by decide) (by rw [Nat.zero_add]; exact hlive)
  rw [Nat.zero_add, ← hn, Nat.add_right_cancel_iff] at hcount
  have hne : dieKey d PWR_PHASE ≠ dieKey d PWR_DIE_I := dieKey_ne d d (by decide) (by decide) (by decide)
  have hexec : exec (.phaseFail d p meas) s = .next ((((s.setFld (dieKey d PWR_PHASE) p 1 0).setFld (dieKey d PWR_DIE_I) 16 12 (State.ilim n)).setFld (dieKey d PWR_DIE_I) 0 12 meas).raise 0x73 (.dieUnit d p) n none) := by
    refine congrArg Host.Outcome.next ?_
    unfold State.phaseFail
    dsimp only
    rw [if_neg (by rw [hoff, hlive]; simp only [Bool.false_eq_true, or_false]; omega), hcount, if_neg (Nat.not_lt.2 hmeas), if_neg (Nat.not_lt.2 h20)]
  unfold State.ilim at hexec hmeas
  refine ⟨_, hexec, ?_, ?_, ?_, logs_raise rfl .., fun k hk => ?_, ?_, ?_⟩
  · rw [raise_fld, fld_setFld_other _ _ _ _ _ _ hne, fld_setFld_other _ _ _ _ _ _ hne, fld_setFld_same _ _ (by omega), Nat.zero_mod]
  · rw [raise_fld, fld_setFld_apart _ _ (by decide) (.inr (by decide)), fld_setFld_same _ _ (by decide), Nat.mod_eq_of_lt (by omega)]
  · rw [raise_fld, fld_setFld_same _ _ (by decide), Nat.mod_eq_of_lt (by omega)]
  · simp only [List.mem_cons, List.not_mem_nil, or_false, not_or] at hk
    rw [raise_reg, reg_setFld_other _ _ _ _ hk.2, reg_setFld_other _ _ _ _ hk.2, reg_setFld_other _ _ _ _ hk.1]
  · rw [raise_regions, setFld_regions, setFld_regions, setFld_regions]
  · rw [raise_dies, setFld_dies, setFld_dies, setFld_dies]

/-! ### Records of a dark region (R350) -/

theorem confirmFuse_queue (s : State) (typ source die loc : Nat) : ∃ l, (s.confirmFuse typ source die loc).err.recQ = s.err.recQ ++ l := by
  unfold State.confirmFuse
  dsimp only
  split
  · exact ⟨[], (List.append_nil _).symm⟩
  · split
    · exact ⟨[], (List.append_nil _).symm⟩
    · exact ⟨_, rfl⟩

theorem haltPanelOf_queue (s : State) (c cls : Nat) : (s.haltPanelOf c cls).err.recQ = s.err.recQ := by
  unfold State.haltPanelOf
  dsimp only
  split <;> rfl

theorem raiseFor_queue (s : State) (sev cls : Nat) (loc : Loc) (detail : Nat) (cs : List Nat) : ∃ e, (s.raiseFor sev cls loc detail cs).err.recQ = s.err.recQ ++ [e] ∧ e.cls = cls := by
  have hfold (l : List Nat) (t : State) : (l.foldl (fun t c => t.haltPanelOf c cls) t).err.recQ = t.err.recQ := by
    induction l generalizing t with
    | nil => rfl
    | cons c l ih => rw [List.foldl_cons, ih, haltPanelOf_queue]
  unfold State.raiseFor
  rw [hfold]
  exact ⟨_, rfl, rfl⟩

/-! ### Cells that become holes (R350) -/

/-- What cells that become holes leave. -/
structure HolesMade (s t : State) (l : List Nat) : Prop where
  reach : s.within [.cells, .boot] t
  boot : t.boot = { s.boot with holes := t.boot.holes }
  kept : ∀ c, s.isHole c = true → t.isHole c = true
  made : ∀ c ∈ l, (s.logicalOf c).isSome = true → t.isHole c = true

theorem logicalOf_of_regs (hp : t.part = s.part) (h : t.regs = s.regs) (c : Nat) : t.logicalOf c = s.logicalOf c := (SameCanvas.of_eq hp h).logicalOf c

theorem makeHole_makes (s : State) (c : Nat) : HolesMade s (s.makeHole c) [c] := by
  have hw : s.within [.cells, .boot] (s.makeHole c) := within_makeHole (List.Subset.refl _) (within_refl s)
  unfold State.makeHole at hw ⊢
  by_cases h : (s.logicalOf c).isNone = true ∨ s.isHole c = true
  · rw [if_pos h] at hw ⊢
    refine ⟨hw, rfl, fun _ h => h, fun e he hsome => ?_⟩
    obtain rfl := List.mem_singleton.1 he
    refine h.resolve_left fun hnone => ?_
    rw [Option.isNone_iff_eq_none.1 hnone] at hsome
    exact Bool.false_ne_true hsome
  · rw [if_neg h] at hw ⊢
    refine ⟨hw, rfl, fun e he => ?_, fun e he _ => ?_⟩
    · exact List.contains_iff_mem.2 (List.mem_cons_of_mem _ (List.contains_iff_mem.1 he))
    · exact List.contains_iff_mem.2 (List.mem_singleton.1 he ▸ List.mem_cons_self)

theorem holes_foldl (l : List Nat) (s : State) : HolesMade s (l.foldl (fun t c => t.makeHole c) s) l := by
  induction l generalizing s with
  | nil => exact ⟨within_refl s, rfl, fun _ h => h, fun _ h => absurd h List.not_mem_nil⟩
  | cons c l ih =>
    rw [List.foldl_cons]
    have h1 := makeHole_makes s c
    generalize s.makeHole c = a at h1
    have h2 := ih a
    refine ⟨within_trans h1.reach h2.reach, ?_, fun e he => h2.kept e (h1.kept e he), fun e he hsome => ?_⟩
    · rw [h2.boot, h1.boot]
    · rcases List.mem_cons.1 he with rfl | he
      · exact h2.kept e (h1.made e List.mem_cons_self hsome)
      · refine h2.made e he ?_
        rw [logicalOf_of_regs h1.reach.1 (StartPhases.within_same h1.reach .regs (by decide))]
        exact hsome

/-! ### A region that goes dark (R350) -/

/-- What a region that goes dark leaves. -/
structure Dark (s t : State) (r rail : Nat) : Prop where
  st : (t.region r).st = 5 + rail
  on : (t.region r).on = none
  others : s.regionsBut t r
  record : ∃ e ∈ t.err.recQ, e.cls = 0x72
  holes : ∀ c ∈ State.cellsOf r, (s.logicalOf c).isSome = true → t.isHole c = true
  phase : t.inPhase 3 = s.inPhase 3

theorem inPhase_congr (hboot : t.boot = { s.boot with holes := t.boot.holes }) (h : t.reg (ecKey BOOT_STAT) = s.reg (ecKey BOOT_STAT)) : t.inPhase 3 = s.inPhase 3 := by
  unfold State.inPhase State.phase
  rw [fld_of_reg h, fld_of_reg h, hboot]

/-- The rail of a dark region, open. -/
def darkRail (s : State) (r rail : Nat) : State :=
  if rail = 0 then s.computeRailOff r
  else (s.computeRailOff r).routerRailOff r |>.setRegion r { ((s.computeRailOff r).routerRailOff r).region r with off := .detours [] }

theorem darkRail_keeps (s : State) (r rail : Nat) : s.within [.regs, .cells, .regions, .band] (darkRail s r rail) ∧ ((darkRail s r rail).region r).on = none ∧
    s.regionsBut (darkRail s r rail) r ∧ (darkRail s r rail).reg (ecKey BOOT_STAT) = s.reg (ecKey BOOT_STAT) := by
  have h := computeRailOff_keeps s r
  unfold darkRail
  generalize s.computeRailOff r = a at h ⊢
  have hstat : a.reg (ecKey BOOT_STAT) = s.reg (ecKey BOOT_STAT) := h.low _ (noCellKey_ec (by decide)) (ecKey_ne_ldo r 0 (by decide)) (ecKey_ne_ldo r 1 (by decide))
  split
  · exact ⟨h.reach, by rw [h.region], h.others, hstat⟩
  · obtain ⟨hw, hreg, -⟩ := routerRailOff_keeps a r
    generalize a.routerRailOff r = b at hw hreg ⊢
    have hregion (q : Nat) : b.region q = a.region q := congrArg (fun m => SMap.get m q Region.reset) (StartPhases.within_same hw .regions (by decide))
    refine ⟨within_setRegion (by decide) (within_trans h.reach (within_mono hw (by decide))), ?_, fun q hq => ?_, ?_⟩
    · rw [region_setRegion_same, hregion, h.region]
    · rw [region_setRegion, if_neg hq, hregion, h.others q hq]
    · rw [setRegion_reg, hreg _ (noCellKey_ec (by decide)) (ecKey_ne_ldo r 1 (by decide)), hstat]

theorem regionDark_eq (s : State) (r rail failed source : Nat) : ∃ typ die loc, s.regionDark r rail failed source =
    ((darkRail ((State.cellsOf r).foldl (fun t c => t.makeHole c) (s.raiseFor (if s.regionLoaded r then 1 else 0) 0x72 (State.regionLoc r) (State.railDetail r rail failed) (State.cellsOf r))) r rail).setSt r
      (if rail = 0 then 5 else 6)).confirmFuse typ source die loc := ⟨_, _, _, rfl⟩

theorem regionDark_keeps (s : State) {rail : Nat} (r failed source : Nat) (hrail : rail < 2) : Dark s (s.regionDark r rail failed source) r rail := by
  obtain ⟨typ, die, loc, heq⟩ := regionDark_eq s r rail failed source
  rw [heq]
  obtain ⟨e, he, hcls⟩ := raiseFor_queue s (if s.regionLoaded r then 1 else 0) 0x72 (State.regionLoc r) (State.railDetail r rail failed) (State.cellsOf r)
  have hwa : s.within [.err] (s.raiseFor (if s.regionLoaded r then 1 else 0) 0x72 (State.regionLoc r) (State.railDetail r rail failed) (State.cellsOf r)) :=
    within_raiseFor (List.Subset.refl _) (within_refl s)
  generalize s.raiseFor (if s.regionLoaded r then 1 else 0) 0x72 (State.regionLoc r) (State.railDetail r rail failed) (State.cellsOf r) = a at he hwa
  have hb := holes_foldl (State.cellsOf r) a
  generalize (State.cellsOf r).foldl (fun t c => t.makeHole c) a = b at hb
  obtain ⟨hwc, hon, hothers, hstat⟩ := darkRail_keeps b r rail
  generalize darkRail b r rail = c at hwc hon hothers hstat
  have hwd : c.within [.regions] (c.setSt r (if rail = 0 then 5 else 6)) := within_setRegion (List.Subset.refl _) (within_refl c)
  have hregion : (c.setSt r (if rail = 0 then 5 else 6)).region r = { c.region r with st := if rail = 0 then 5 else 6 } := region_setRegion_same ..
  have hother (q : Nat) (hq : q ≠ r) : (c.setSt r (if rail = 0 then 5 else 6)).region q = c.region q := (region_setRegion ..).trans (if_neg hq)
  generalize c.setSt r (if rail = 0 then 5 else 6) = f at hwd hregion hother
  obtain ⟨l, hl⟩ := confirmFuse_queue f typ source die loc
  have hwg : f.within [.flash, .err] (f.confirmFuse typ source die loc) := within_confirmFuse (List.Subset.refl _) (within_refl f)
  generalize f.confirmFuse typ source die loc = g at hl hwg
  have hgregion (q : Nat) : g.region q = f.region q := congrArg (fun m => SMap.get m q Region.reset) (StartPhases.within_same hwg .regions (by decide))
  have hregs : g.regs = c.regs := (StartPhases.within_same hwg .regs (by decide)).trans (StartPhases.within_same hwd .regs (by decide))
  have hgboot : g.boot = b.boot := (StartPhases.within_same hwg .boot (by decide)).trans ((StartPhases.within_same hwd .boot (by decide)).trans (StartPhases.within_same hwc .boot (by decide)))
  have haboot : a.boot = s.boot := StartPhases.within_same hwa .boot (by decide)
  have haregs : a.regs = s.regs := StartPhases.within_same hwa .regs (by decide)
  have herr : f.err = a.err := (StartPhases.within_same hwd .err (by decide)).trans ((StartPhases.within_same hwc .err (by decide)).trans (StartPhases.within_same hb.reach .err (by decide)))
  refine ⟨?_, ?_, fun q hq => ?_, ⟨e, ?_, hcls⟩, fun q hq hsome => ?_, inPhase_congr ?_ ?_⟩
  · rw [hgregion, hregion]
    dsimp only
    split <;> omega
  · rw [hgregion, hregion]
    exact hon
  · rw [hgregion, hother q hq, hothers q hq]
    exact congrArg (fun m => SMap.get m q Region.reset) ((StartPhases.within_same hb.reach .regions (by decide)).trans (StartPhases.within_same hwa .regions (by decide)))
  · rw [hl, herr, he]
    exact List.mem_append_left _ (List.mem_append_right _ List.mem_cons_self)
  · unfold State.isHole
    rw [hgboot]
    refine hb.made q hq ?_
    rw [logicalOf_of_regs hwa.1 haregs]
    exact hsome
  · rw [hgboot, hb.boot, haboot]
  · rw [reg_of_regs (hwg.1.trans hwd.1) hregs, hstat, reg_of_regs (hb.reach.1.trans hwa.1) ((StartPhases.within_same hb.reach .regs (by decide)).trans haregs)]

end Sys2Proof.InputPower
end

section
/-! PROOFS. Slices and substrate regulators that fail (R349-R352). -/

namespace Sys2Proof.InputPower

open Sys2Proof Sys2Proof.Machine Sys2Proof.Laws Sys2Proof.Clauses Sys2Proof.PowerRails
open Sys2Proof.WholeMachine (powerSettle_of_not_phase_three)
open Sys2Proof.HostPorts (SameLinks hport_setHport_other)
open Sys2Proof.HostLinks (RingsStop stopEach stopEach_keeps clearEn_keeps portRegs_keeps)

variable {s t u : State} {r d p : Nat}

/-! ### A slice of a rail (R349, R350) -/

theorem onesBelow_le (v n : Nat) : onesBelow v n ≤ n := (List.countP_le_length ..).trans (List.length_range ..).le

/-- The state of a slice that failed, its outcome apart. -/
def sliceGone (s : State) (r rail slice : Nat) : State :=
  (s.setFld (ldoKey r rail) (12 + slice) 1 0).confirmFuse 4 s.railSource (regionDie r) (locSlice (regionRx r) (regionRy r) rail slice)

structure SliceGone (s t : State) (r rail slice : Nat) : Prop where
  reach : s.within [.regs, .flash, .err] t
  bit : t.fld (ldoKey r rail) (12 + slice) 1 = 0
  regs : s.regsBut t [ldoKey r rail]
  failed : t.failedSlices r rail = s.failedSlices r rail + 1

theorem sliceGone_keeps {slice : Nat} (hslice : slice < 4) (rail : Nat) (hlive : s.fld (ldoKey r rail) (12 + slice) 1 = 1) : SliceGone s (sliceGone s r rail slice) r rail slice := by
  have hcount := onesBelow_clear s hslice (k := ldoKey r rail) (lo := 12) (by decide) hlive
  have hle := onesBelow_le (s.fld (ldoKey r rail) 12 4) 4
  have hw : (s.setFld (ldoKey r rail) (12 + slice) 1 0).within [.flash, .err] (sliceGone s r rail slice) := within_confirmFuse (List.Subset.refl _) (within_refl _)
  have hregs : (sliceGone s r rail slice).regs = (s.setFld (ldoKey r rail) (12 + slice) 1 0).regs := StartPhases.within_same hw .regs (by decide)
  have hbit : (s.setFld (ldoKey r rail) (12 + slice) 1 0).fld (ldoKey r rail) (12 + slice) 1 = 0 := by rw [fld_setFld_same _ _ (by omega), Nat.zero_mod]
  refine ⟨within_trans (within_setFld (by decide) (within_refl s)) (within_mono hw (by decide)), ?_, fun k hk => ?_, ?_⟩
  · rw [fld_of_regs hw.1 hregs, hbit]
  · rw [reg_of_regs hw.1 hregs, reg_setFld_other _ _ _ _ fun h => hk (List.mem_singleton.2 h)]
  · unfold State.failedSlices
    rw [fld_of_regs hw.1 hregs]
    omega

theorem ldoSliceFail_eq {s : State} {d rx ry rail slice r : Nat} (hr : r = regionAt d rx ry) (hslice : slice < 4) (hlive : s.fld (ldoKey r rail) (12 + slice) 1 = 1)
    (h5 : (s.region r).st ≠ 5) (h6 : (s.region r).st ≠ 6) (hoff : s.boot.off = false) (hsettle : ((sliceGone s r rail slice).sliceOutcome r rail s.railSource).inPhase 3 = false) :
    exec (.ldoSliceFail d rx ry rail slice) s = .next ((sliceGone s r rail slice).sliceOutcome r rail s.railSource) := by
  subst hr
  have heq : s.sliceFail (regionAt d rx ry) rail slice = (sliceGone s (regionAt d rx ry) rail slice).sliceOutcome (regionAt d rx ry) rail s.railSource := by
    unfold State.sliceFail
    dsimp only
    rw [if_neg (by rw [hlive, hoff]; simp only [Bool.false_eq_true, or_false]; omega), if_neg (by simp only [h5, h6, false_and, or_false, not_false_eq_true])]
    rfl
  refine congrArg Host.Outcome.next ?_
  rw [heq]
  exact powerSettle_of_not_phase_three hsettle

theorem regions_same {ks : List Comp} (h : s.within ks t) (hk : Comp.regions ∉ ks) (q : Nat) : t.region q = s.region q :=
  congrArg (fun m => SMap.get m q Region.reset) (StartPhases.within_same h .regions hk)

theorem sliceFailed (s : State) (d rx ry rail slice r : Nat) (hr : r = regionAt d rx ry) (hrail : rail < 2) (hslice : slice < 4) (hlive : s.fld (ldoKey r rail) (12 + slice) 1 = 1)
    (h5 : (s.region r).st ≠ 5) (h6 : (s.region r).st ≠ 6) (hoff : s.boot.off = false) (hphase : s.inPhase 3 = false) :
    (s.failedSlices r rail = 0 → ∃ t e, exec (.ldoSliceFail d rx ry rail slice) s = .next t ∧ t.fld (ldoKey r rail) (12 + slice) 1 = 0 ∧ t.regions = s.regions ∧ t.cells = s.cells ∧
      e ∈ t.err.recQ ∧ e.cls = 0x70 ∧ s.regsBut t [ldoKey r rail]) ∧
    (s.failedSlices r rail = 1 → ∃ t e, exec (.ldoSliceFail d rx ry rail slice) s = .next t ∧ (t.region r).sliceCap = true ∧
      (t.region r).st = (if (s.region r).st = 3 then 4 else (s.region r).st) ∧ t.fld (ldoKey r rail) 16 1 = 1 ∧ e ∈ t.err.recQ ∧ e.cls = 0x71 ∧ t.cells = s.cells ∧
      s.regionsBut t r) ∧
    (s.failedSlices r rail = 2 → ∃ t e, exec (.ldoSliceFail d rx ry rail slice) s = .next t ∧ (t.region r).st = 5 + rail ∧ (t.region r).on = none ∧ e ∈ t.err.recQ ∧ e.cls = 0x72 ∧
      (∀ c ∈ State.cellsOf r, (s.logicalOf c).isSome = true → t.isHole c = true) ∧ s.regionsBut t r) := by
  have hgone := sliceGone_keeps hslice rail hlive
  have hexec (hsettle) := ldoSliceFail_eq hr hslice hlive h5 h6 hoff hsettle
  generalize sliceGone s r rail slice = a at hgone hexec
  have hboot : a.boot = { s.boot with holes := a.boot.holes } := by rw [StartPhases.within_same hgone.reach .boot (by decide)]
  have hstat : a.reg (ecKey BOOT_STAT) = s.reg (ecKey BOOT_STAT) := hgone.regs _ fun h => ecKey_ne_ldo r rail (by decide) (List.mem_singleton.1 h)
  have hphasea : a.inPhase 3 = false := (inPhase_congr hboot hstat).trans hphase
  have hregion (q : Nat) : a.region q = s.region q := regions_same hgone.reach (by decide) q
  have hcells : a.cells = s.cells := StartPhases.within_same hgone.reach .cells (by decide)
  unfold State.sliceOutcome at hexec
  dsimp only at hexec
  rw [hgone.failed] at hexec
  refine ⟨fun hn => ?_, fun hn => ?_, fun hn => ?_⟩ <;> rw [hn] at hexec
  · rw [if_pos rfl] at hexec
    obtain ⟨e, he, hcls, -⟩ : a.logs (a.raise 0x70 (State.regionLoc r) (State.railDetail r rail (0 + 1)) none) 0x70 (State.regionLoc r) (State.railDetail r rail (0 + 1)) := logs_raise rfl ..
    refine ⟨_, e, hexec ((inPhase_congr (by rw [raise_boot]) (raise_reg ..)).trans hphasea), ?_, ?_, ?_, he ▸ List.mem_append_right _ List.mem_cons_self, hcls, fun k hk => ?_⟩
    · rw [raise_fld, hgone.bit]
    · rw [raise_regions, StartPhases.within_same hgone.reach .regions (by decide)]
    · rw [raise_cells, hcells]
    · rw [raise_reg, hgone.regs k hk]
  · rw [if_neg (by decide), if_pos rfl] at hexec
    have hrec : ∀ b : State, b.logs (b.raise 0x71 (State.regionLoc r) (State.railDetail r rail (1 + 1)) none) 0x71 (State.regionLoc r) (State.railDetail r rail (1 + 1)) := fun b => logs_raise rfl ..
    obtain ⟨e, he, hcls, -⟩ := hrec ((a.setRegion r { a.region r with sliceCap := true, st := if (a.region r).st = 3 then 4 else (a.region r).st }).setFld (ldoKey r rail) 16 1 1)
    refine ⟨_, e, hexec ((inPhase_congr (by rw [raise_boot, setFld_boot, setRegion_boot]) ?_).trans hphasea), ?_, ?_, ?_, he ▸ List.mem_append_right _ List.mem_cons_self, hcls, ?_, fun q hq => ?_⟩
    · rw [raise_reg, reg_setFld_other _ _ _ _ (ecKey_ne_ldo r rail (by decide)), setRegion_reg]
    · rw [raise_region, setFld_region, region_setRegion_same]
    · rw [raise_region, setFld_region, region_setRegion_same, hregion]
    · rw [raise_fld, fld_setFld_same _ _ (by decide), Nat.one_mod_two_pow (by decide)]
    · rw [raise_cells, setFld_cells, setRegion_cells, hcells]
    · rw [raise_region, setFld_region, region_setRegion, if_neg hq, hregion]
  · rw [if_neg (by decide), if_neg (by decide)] at hexec
    have hdark := regionDark_keeps a r (2 + 1) s.railSource hrail
    obtain ⟨e, he, hcls⟩ := hdark.record
    refine ⟨_, e, hexec (hdark.phase.trans hphasea), hdark.st, hdark.on, he, hcls, fun c hc hsome => hdark.holes c hc ?_, fun q hq => (hdark.others q hq).trans (hregion q)⟩
    have hcanvas : Bookkeeping.SameCanvas s a := by
      have hkeep (k : Nat) (hk : k ≠ ldoKey r rail) : a.reg k = s.reg k := hgone.regs k fun h => hk (List.mem_singleton.1 h)
      refine ⟨hgone.reach.1, hkeep _ (ecKey_ne_ldo r rail (by decide)), hkeep _ (ecKey_ne_ldo r rail (by decide)), fun e py hpy => hkeep _ ?_⟩
      rw [ldoKey_eq]
      unfold dieKey FUSE_SKIP
      omega
    rw [hcanvas.logicalOf]
    exact hsome

/-! ### A link that goes down (R315, R352) -/

/-- What links that go down leave. -/
structure LinksFall (s t : State) : Prop where
  reach : s.within [.regs, .mem, .rings, .hports, .err, .out] t
  down : ∀ q, (s.hport q).up = false → (t.hport q).up = false
  records : ∃ l, t.err.recQ = s.err.recQ ++ l

theorem LinksFall.refl (s : State) : LinksFall s s := ⟨within_refl s, fun _ h => h, [], (List.append_nil _).symm⟩

theorem LinksFall.trans (h : LinksFall s t) (h' : LinksFall t u) : LinksFall s u := by
  obtain ⟨l, hl⟩ := h.records
  obtain ⟨l', hl'⟩ := h'.records
  exact ⟨within_trans h.reach h'.reach, fun q hq => h'.down q (h.down q hq), l ++ l', by rw [hl', hl, List.append_assoc]⟩

theorem LinksFall.of_stop (h : RingsStop s t) : LinksFall s t := ⟨h.reach, fun q hq => (h.links q).1.trans hq, h.records⟩

theorem LinksFall.of_within {ks : List Comp} (h : s.within ks t) (hks : ks ⊆ [.regs, .mem, .rings, .hports, .err, .out]) (hports : Comp.hports ∉ ks) (herr : Comp.err ∉ ks) : LinksFall s t :=
  ⟨within_mono h hks, fun q hq => (SameLinks.of_within h hports q).1.trans hq, [], by rw [StartPhases.within_same h .err herr, List.append_nil]⟩

theorem portReset_falls (s : State) (p : Nat) : LinksFall s (s.portReset p) := by
  have h1 : LinksFall s (s.stopRings p) := .of_stop (stopEach_keeps p (List.range 256) s).1
  unfold State.portReset
  generalize s.stopRings p = a at h1 ⊢
  have h2 : LinksFall a (a.clearEn p) := .of_within (clearEn_keeps a p).1 (by decide) (by decide) (by decide)
  generalize a.clearEn p = b at h2 ⊢
  obtain ⟨hw, -, -, hsame, hother⟩ := portRegs_keeps b p
  refine h1.trans (h2.trans ⟨within_mono hw (by decide), fun q hq => ?_, [], ?_⟩)
  · by_cases hqp : q = p
    · rw [hqp] at hq ⊢
      rw [hsame]
      exact hq
    · rw [hother q hqp, hq]
  · rw [StartPhases.within_same hw .err (by decide), List.append_nil]

/-- A link that was up goes down, with its record. -/
theorem linkDown_falls (s : State) (p : Nat) : LinksFall s (s.linkDown p) ∧ ((s.hport p).up = true → ((s.linkDown p).hport p).up = false ∧ ∃ e ∈ (s.linkDown p).err.recQ, e.cls = 0x69) := by
  unfold State.linkDown
  dsimp only
  cases hup : (s.hport p).up with
  | false => exact ⟨.refl s, fun h => absurd h Bool.false_ne_true⟩
  | true =>
    rw [Bool.not_true, if_neg Bool.false_ne_true]
    have hsame := hport_setHport_same s p { s.hport p with up := false, d3hot := false }
    have hother (q : Nat) (h : q ≠ p) := hport_setHport_other s { s.hport p with up := false, d3hot := false } h
    have hw0 : s.within [.hports] (s.setHport p { s.hport p with up := false, d3hot := false }) := within_setHport (List.Subset.refl _) (within_refl s)
    generalize s.setHport p { s.hport p with up := false, d3hot := false } = a at hsame hother hw0 ⊢
    have hdowna : (a.hport p).up = false := by rw [hsame]
    have h0 : LinksFall s a := by
      refine ⟨within_mono hw0 (by decide), fun q hq => ?_, [], by rw [StartPhases.within_same hw0 .err (by decide), List.append_nil]⟩
      by_cases hqp : q = p
      · rw [hqp, hdowna]
      · rw [hother q hqp, hq]
    have h1 : LinksFall a (a.setReg (State.pcieKey p PCIE_LINK) 0) := .of_within (ks := [.regs]) (within_setReg (List.Subset.refl _) (within_refl a)) (by decide) (by decide) (by decide)
    generalize a.setReg (State.pcieKey p PCIE_LINK) 0 = b at h1 ⊢
    obtain ⟨e, he, hcls, -⟩ := SyncCounters.raise_record b 0x69 (State.portLoc p p) 0 none
    have hw2 : b.within [.err] (b.raise 0x69 (State.portLoc p p) 0 none) := within_raise (List.Subset.refl _) (within_refl b)
    generalize b.raise 0x69 (State.portLoc p p) 0 none = c at he hw2 ⊢
    have h2 : LinksFall b c := ⟨within_mono hw2 (by decide), fun q hq => (SameLinks.of_within hw2 (by decide) q).1.trans hq, [e], he⟩
    have h3 := portReset_falls c p
    obtain ⟨l, hl⟩ := h3.records
    refine ⟨h0.trans (h1.trans (h2.trans h3)), fun _ => ⟨h3.down p (h2.down p (h1.down p hdowna)), e, ?_, hcls⟩⟩
    rw [hl, he]
    exact List.mem_append_left _ (List.mem_append_right _ List.mem_cons_self)

/-- The turn of one port at a failed host-port regulator. -/
def fallOf (d : Nat) (t : State) (q : Nat) : State := if portDie q = d then t.linkDown q else t

theorem fallOf_falls (s : State) (d q : Nat) : LinksFall s (fallOf d s q) := by
  unfold fallOf
  split
  · exact (linkDown_falls s q).1
  · exact .refl s

theorem fall_foldl (d : Nat) (l : List Nat) (s : State) : LinksFall s (l.foldl (fallOf d) s) :=
  List.foldlRecOn (motive := LinksFall s) l _ (.refl s) fun t ht q _ => ht.trans (fallOf_falls t d q)

theorem hostPortFailed (s : State) (d p : Nat) (hp : p ∈ s.part.ports) (hd : portDie p = d) (hoff : s.boot.off = false) (hup : (s.hport p).up = true) :
    ∃ t e, exec (.substrateRegulatorFail d .hostPort) s = .next t ∧ (t.hport p).up = false ∧ e ∈ t.err.recQ ∧ e.cls = 0x69 ∧ t.jobs = s.jobs ∧ t.cells = s.cells := by
  have hexec : exec (.substrateRegulatorFail d .hostPort) s = .next (s.part.ports.foldl (fallOf d) s) := by
    refine congrArg Host.Outcome.next ?_
    unfold State.regulatorFail
    rw [if_neg (by rw [hoff]; decide)]
    rfl
  obtain ⟨l1, l2, hl⟩ := List.append_of_mem hp
  have hnd : (l1 ++ p :: l2).Nodup := by
    rw [← hl]
    cases s.part <;> decide
  have hother (q : Nat) (hq : q ∈ l1) : fallOf d s q = s := by
    refine if_neg fun hqd => ?_
    have hin : q ∈ s.part.ports := hl ▸ List.mem_append_left _ hq
    have hports (n : Nat) (hn : n ∈ s.part.ports) : n = 0 ∨ n = 1 := by
      unfold Part.ports at hn
      split at hn <;> simp only [List.mem_cons, List.not_mem_nil, or_false] at hn <;> omega
    have hsame : q = p := by
      rcases hports q hin with rfl | rfl <;> rcases hports p hp with rfl | rfl
      · rfl
      · exact absurd (hqd.trans hd.symm) (by decide)
      · exact absurd (hqd.trans hd.symm) (by decide)
      · rfl
    exact (List.disjoint_of_nodup_append hnd) hq (hsame ▸ List.mem_cons_self)
  have hidle : l1.foldl (fallOf d) s = s := List.foldlRecOn (motive := fun t => t = s) l1 _ rfl fun t ht q hq => by rw [ht, hother q hq]
  have hsplit : s.part.ports.foldl (fallOf d) s = l2.foldl (fallOf d) (fallOf d s p) := by rw [hl, List.foldl_append, hidle, List.foldl_cons]
  have hfall : fallOf d s p = s.linkDown p := if_pos hd
  rw [hfall] at hsplit
  obtain ⟨hfirst, hboth⟩ := linkDown_falls s p
  obtain ⟨hdown, e, he, hcls⟩ := hboth hup
  have hrest := fall_foldl d l2 (s.linkDown p)
  have hreach := (hfirst.trans hrest).reach
  obtain ⟨l, hrec⟩ := hrest.records
  rw [hsplit] at hexec
  exact ⟨_, e, hexec, hrest.down p hdown, hrec ▸ List.mem_append_left _ he, hcls, StartPhases.within_same hreach .jobs (by decide), StartPhases.within_same hreach .cells (by decide)⟩

theorem deviceRegulatorFailed (s : State) (d n : Nat) (hn : n < 12) (hoff : s.boot.off = false) (hlive : s.devState d n = 4) :
    ∃ t e, exec (.substrateRegulatorFail d (.gddr n)) s = .next t ∧ t.devState d n = 6 ∧ e ∈ t.err.recQ ∧ e.cls = 0x46 ∧ e.loc = .dieUnit d n ∧ t.mem = s.mem := by
  have hexec : exec (.substrateRegulatorFail d (.gddr n)) s = .next (s.deviceFail d n 0) := by
    refine congrArg Host.Outcome.next ?_
    unfold State.regulatorFail
    rw [if_neg (by rw [hoff]; decide)]
    exact if_pos ⟨hlive, hn⟩
  obtain ⟨hw, hdev, -, -, e, he, hcls, hloc⟩ := GddrDevices.deviceFail_keeps (s := s) (d := d) (n := n) (ch := 0) (by decide)
  exact ⟨_, e, hexec, hdev, he, hcls, hloc, StartPhases.within_same hw .mem (by decide)⟩

end Sys2Proof.InputPower
end

section
/-! PROOFS. Failures of the supply are contained (R338-R352). -/

namespace Sys2Proof.InputPower

open Sys2Proof Sys2Proof.Machine Sys2Proof.Laws Sys2Proof.PowerRails

/-- Settles O42: a lemma for each part of the supply that fails. -/
theorem supplyFailuresAreContained : Obligations.SupplyFailuresAreContained := by
  unfold Obligations.SupplyFailuresAreContained
  refine ⟨fun s v ia ib => ⟨fun hlo hhi hoff => ?_, fun hout => ?_⟩, fun s v ia ib b d p meas rx ry rail slice hoff => offIgnores s v ia ib b d p meas rx ry rail slice hoff,
    fun s => ⟨?_, coldStart s⟩, bladeEvents, converterFailed, twoClaims, spareFailed, phaseFailed, sliceFailed, deviceRegulatorFailed, hostPortFailed⟩
  · obtain ⟨⟨hw, hshown, hceil, hhigh, htarget, ⟨hb, ht⟩, hother, hset⟩, hlog⟩ := inputRange_taken s v ia ib hlo hhi hoff
    exact ⟨_, rfl, hshown, hceil, hhigh, htarget, hb, ht, hother, StartPhases.within_same hw .regions (by decide), hset, hlog⟩
  · exact congrArg Host.Outcome.next (if_pos (by rcases hout with h | h <;> simp only [h, true_or, or_true]))
  · obtain ⟨hregions, ⟨hjobs, hpanels, hload⟩, ⟨hready, hoff⟩, hfields, ⟨hs, hwindows⟩, hrecord, hflash⟩ := inputLoss_keeps s
    exact ⟨_, rfl, hregions, hjobs, hpanels, hload, hready, hoff, hfields, hs, hwindows, hrecord, hflash⟩

end Sys2Proof.InputPower
end

section
/-! PROOFS. Region commands (R353-R355, R361). -/

namespace Sys2Proof.RegionCommands

open Sys2Proof Sys2Proof.Machine Sys2Proof.Laws Sys2Proof.Clauses Sys2Proof.PowerRails Sys2Proof.InputPower

variable {s t u : State} {r d : Nat}

/-! ### The result register (R361) -/

/-- The register that shows the result of a region's command. -/
def resKey (r : Nat) : Nat := dieKey (regionDie r) PWR_REG_RES

theorem resKey_ne_ldo (r q : Nat) {rail : Nat} (h : rail < 2) : resKey r ≠ ldoKey q rail := dieKey_ne_ldo _ q (by decide) h

theorem noCellKey_res (r : Nat) : NoCellKey (resKey r) := .inr (by unfold resKey dieKey PWR_REG_RES; omega)

/-- What a command's result leaves. -/
structure ResShown (s t : State) (r st reason : Nat) : Prop where
  reach : s.within [.regs] t
  other : ∀ k, k ≠ resKey r → t.reg k = s.reg k
  state : t.fld (resKey r) 0 2 = st
  reason : t.fld (resKey r) 2 3 = reason
  place : t.fld (resKey r) 5 3 = regionRx r ∧ t.fld (resKey r) 8 3 = regionRy r

theorem regRes_shows (s : State) (r : Nat) {st reason : Nat} (hst : st < 4) (hreason : reason < 8) : ResShown s (s.regRes r st reason) r st reason := by
  have hx : regionRx r < 8 := by unfold regionRx; omega
  have hy : regionRy r < 8 := by unfold regionRy; omega
  refine ⟨within_regRes (List.Subset.refl _) (within_refl s), fun k hk => (reg_setReg ..).trans (if_neg hk), ?_, ?_, ?_, ?_⟩ <;>
  · unfold State.regRes resKey
    rw [fld_setReg_same, BitVec.toNat_ofNat]
    unfold bits
    omega

theorem resDone_keeps (s : State) (r : Nat) : s.within [.regs] (s.resDone r) ∧ ∀ k, k ≠ resKey r → (s.resDone r).reg k = s.reg k := by
  refine ⟨within_resDone (List.Subset.refl _) (within_refl s), fun k hk => ?_⟩
  unfold State.resDone
  dsimp only
  split
  · exact (regRes_shows s r (by decide) (by decide)).other k hk
  · rfl

/-- The most recent command of a region, completing. -/
theorem resDone_shows (h : s.fld (resKey r) 0 2 = 1) (hp : s.fld (resKey r) 5 3 = regionRx r ∧ s.fld (resKey r) 8 3 = regionRy r) : (s.resDone r).fld (resKey r) 0 2 = 2 := by
  unfold State.resDone
  dsimp only
  rw [if_pos ⟨h, hp⟩]
  exact (regRes_shows s r (by decide) (by decide)).state

/-! ### Which commands are refused (R353) -/

theorem regionReason_lt (s : State) (r op : Nat) : s.regionReason r op < 8 := by
  unfold State.regionReason
  dsimp only
  repeat' split
  all_goals decide

theorem regionCmd_acts {op : Nat} (hoff : s.boot.off = false) (hreason : s.regionReason r op = 0) : s.regionCmd r op = s.regionAct r op := by
  unfold State.regionCmd
  dsimp only
  rw [if_neg (by rw [hoff]; decide), if_neg fun h => h.2 hreason]

theorem regionCmd_stays {op : Nat} (hoff : s.boot.off = false)
    (hsame : (op = 1 ∧ ((s.region r).st = 3 ∨ (s.region r).st = 4)) ∨ (op = 2 ∧ (s.region r).st = 1) ∨ (op = 3 ∧ (s.region r).st = 0) ∨ (op = 4 ∧ (s.region r).st = 1)) :
    s.regionCmd r op = s.regionAct r op := by
  unfold State.regionCmd
  dsimp only
  rw [if_neg (by rw [hoff]; decide), if_neg fun h => h.1 hsame]

theorem regionCmd_refused {op : Nat} (hoff : s.boot.off = false)
    (hsame : ¬((op = 1 ∧ ((s.region r).st = 3 ∨ (s.region r).st = 4)) ∨ (op = 2 ∧ (s.region r).st = 1) ∨ (op = 3 ∧ (s.region r).st = 0) ∨ (op = 4 ∧ (s.region r).st = 1)))
    (hreason : s.regionReason r op ≠ 0) : s.regionCmd r op = s.regionRefuse r op (s.regionReason r op) := by
  unfold State.regionCmd
  dsimp only
  rw [if_neg (by rw [hoff]; decide), if_pos ⟨hsame, hreason⟩]

/-- A refused command: its result, and one record of class 0x77. -/
theorem regionRefuse_keeps (s : State) (r op : Nat) {reason : Nat} (h : reason < 8) : ∃ e, (s.regionRefuse r op reason).regions = s.regions ∧ (s.regionRefuse r op reason).cells = s.cells ∧
    (s.regionRefuse r op reason).fld (resKey r) 0 2 = 3 ∧ (s.regionRefuse r op reason).fld (resKey r) 2 3 = reason ∧ s.regsBut (s.regionRefuse r op reason) [resKey r] ∧
    (s.regionRefuse r op reason).err.recQ = s.err.recQ ++ [e] ∧ e.cls = 0x77 := by
  have hres := regRes_shows s r (show 3 < 4 by decide) h
  unfold State.regionRefuse
  generalize s.regRes r 3 reason = a at hres ⊢
  generalize reason + regionDie r * 2 ^ 8 + regionRx r * 2 ^ 11 + regionRy r * 2 ^ 14 + op * 2 ^ 17 = n
  obtain ⟨e, he, hcls, -⟩ := SyncCounters.raise_record a 0x77 (State.regionLoc r) n none
  refine ⟨e, ?_, ?_, (raise_fld ..).trans hres.state, (raise_fld ..).trans hres.reason, fun k hk => (raise_reg ..).trans (hres.other k fun hr => hk (List.mem_singleton.2 hr)), ?_, hcls⟩
  · rw [raise_regions, StartPhases.within_same hres.reach .regions (by decide)]
  · rw [raise_cells, StartPhases.within_same hres.reach .cells (by decide)]
  · rw [he, StartPhases.within_same hres.reach .err (by decide)]

/-! ### Turn-ons begin (R355-R357) -/

/-- What a turn-on that begins leaves. -/
structure TurnOnBegun (s t : State) (r : Nat) (router : Bool) : Prop where
  reach : s.within [.regs, .regions] t
  others : s.regionsBut t r
  begun : ∃ o, (t.region r).on = some o ∧ o.stage = 0 ∧ o.due = s.now ∧ o.router = router ∧ o.quarter = false

theorem now_of_within {ks : List Comp} (h : s.within ks t) : t.now = s.now := by
  unfold State.now
  rw [h.2.1]

theorem startTurnOn_begins (s : State) (r : Nat) (router forLoad : Bool) : TurnOnBegun s (s.startTurnOn r router forLoad) r router ∧
    ((s.startTurnOn r router forLoad).region r).st = (if router then (s.region r).st else 2) ∧
    (∀ k, k ≠ regionKey TEMP_R r → (s.startTurnOn r router forLoad).reg k = s.reg k) ∧
    (router = false → (s.startTurnOn r router forLoad).fld (regionKey TEMP_R r) 21 1 = 0 ∧ (s.startTurnOn r router forLoad).fld (regionKey TEMP_R r) 0 21 = s.fld (regionKey TEMP_R r) 0 21) ∧
    (router = true → (s.startTurnOn r router forLoad).regs = s.regs) := by
  have hw : s.within [.regs, .regions] (s.startTurnOn r router forLoad) := within_startTurnOn (List.Subset.refl _) (within_refl s)
  unfold State.startTurnOn at hw ⊢
  dsimp only at hw ⊢
  generalize List.foldl _ 0 _ = order at hw ⊢
  cases router with
  | true =>
    refine ⟨⟨hw, fun q hq => (region_setRegion ..).trans (if_neg hq), _, congrArg Region.on (region_setRegion_same ..), rfl, rfl, rfl, rfl⟩, by rw [region_setRegion_same], fun k _ => setRegion_reg .., fun h => absurd h (by decide), fun _ => setRegion_regs ..⟩
  | false =>
    rw [if_neg Bool.false_ne_true] at hw ⊢
    refine ⟨⟨hw, fun q hq => (region_setRegion ..).trans ((if_neg hq).trans (setFld_region ..)), _, congrArg Region.on (region_setRegion_same ..), rfl, rfl, rfl, rfl⟩, by rw [region_setRegion_same], fun k hk => ?_, fun _ => ⟨?_, ?_⟩, fun h => absurd h (by decide)⟩
    · rw [setRegion_reg, reg_setFld_other _ _ _ _ hk]
    · rw [setRegion_fld, fld_setFld_same _ _ (by decide), Nat.zero_mod]
    · rw [setRegion_fld, fld_setFld_apart _ _ (by decide) (.inl (by decide))]

theorem region_of_regions (h : t.regions = s.regions) (q : Nat) : t.region q = s.region q := congrArg (fun m => SMap.get m q Region.reset) h

theorem tempKey_ne_res (r : Nat) : regionKey TEMP_R r ≠ resKey r := by
  unfold regionKey resKey dieKey TEMP_R PWR_REG_RES
  omega

theorem computeOn_begins (hoff : s.boot.off = false) (hst : (s.region r).st = 1) (hreason : s.regionReason r 1 = 0) :
    ∃ t o, s.regionCmd r 1 = t ∧ (t.region r).st = 2 ∧ (t.region r).on = some o ∧ o.stage = 0 ∧ o.due = s.now ∧ o.router = false ∧ o.quarter = false ∧
      t.fld (resKey r) 0 2 = 1 ∧ t.fld (regionKey TEMP_R r) 21 1 = 0 ∧ t.fld (regionKey TEMP_R r) 0 21 = s.fld (regionKey TEMP_R r) 0 21 ∧
      s.regsBut t [resKey r, regionKey TEMP_R r] ∧ s.regionsBut t r ∧ t.err = s.err ∧ t.cells = s.cells := by
  rw [regionCmd_acts hoff hreason]
  unfold State.regionAct
  dsimp only
  rw [if_pos rfl, if_pos hst]
  have hres := regRes_shows s r (show 1 < 4 by decide) (show 0 < 8 by decide)
  generalize s.regRes r 1 0 = a at hres ⊢
  obtain ⟨⟨hw, hothers, o, hon, hstage, hdue, hrouter, hquarter⟩, hst2, hreg, htemp, -⟩ := startTurnOn_begins a r false false
  obtain ⟨htemp1, htemp0⟩ := htemp rfl
  generalize a.startTurnOn r false false = b at hw hothers hon hst2 hreg htemp1 htemp0 ⊢
  have hall : s.within [.regs, .regions] b := within_trans (within_mono hres.reach (by decide)) hw
  refine ⟨b, o, rfl, hst2, hon, hstage, hdue.trans (now_of_within hres.reach), hrouter, hquarter, ?_, htemp1, ?_, fun k hk => ?_, fun q hq => ?_, StartPhases.within_same hall .err (by decide), StartPhases.within_same hall .cells (by decide)⟩
  · rw [fld_of_reg (hreg _ (tempKey_ne_res r).symm), hres.state]
  · rw [htemp0, fld_of_reg (hres.other _ (tempKey_ne_res r))]
  · simp only [List.mem_cons, List.not_mem_nil, or_false, not_or] at hk
    rw [hreg k hk.2, hres.other k hk.1]
  · rw [hothers q hq, regions_same hres.reach (by decide)]

theorem routerOn_begins (hoff : s.boot.off = false) (hst : (s.region r).st = 0) (hreason : s.regionReason r 4 = 0) :
    ∃ t o, s.regionCmd r 4 = t ∧ (t.region r).st = 0 ∧ (t.region r).on = some o ∧ o.router = true ∧ o.stage = 0 ∧ t.fld (resKey r) 0 2 = 1 ∧
      s.regsBut t [resKey r] ∧ s.regionsBut t r ∧ t.err = s.err := by
  rw [regionCmd_acts hoff hreason]
  unfold State.regionAct
  dsimp only
  rw [if_neg (by decide), if_neg (by decide), if_neg (by decide), if_pos hst]
  have hres := regRes_shows s r (show 1 < 4 by decide) (show 0 < 8 by decide)
  generalize s.regRes r 1 0 = a at hres ⊢
  obtain ⟨⟨hw, hothers, o, hon, hstage, -, hrouter, -⟩, hst0, -, -, hregs⟩ := startTurnOn_begins a r true false
  have hregs := hregs rfl
  generalize a.startTurnOn r true false = b at hw hothers hon hst0 hregs ⊢
  have hall : s.within [.regs, .regions] b := within_trans (within_mono hres.reach (by decide)) hw
  refine ⟨b, o, rfl, ?_, hon, hrouter, hstage, ?_, fun k hk => ?_, fun q hq => ?_, StartPhases.within_same hall .err (by decide)⟩
  · rw [hst0, if_pos rfl, regions_same hres.reach (by decide), hst]
  · rw [fld_of_regs hw.1 hregs, hres.state]
  · rw [reg_of_regs hw.1 hregs, hres.other k fun h => hk (List.mem_singleton.2 h)]
  · rw [hothers q hq, regions_same hres.reach (by decide)]

end Sys2Proof.RegionCommands
end

section
/-! PROOFS. Compute off and full off of a region (R354). -/

namespace Sys2Proof.RegionCommands

open Sys2Proof Sys2Proof.Machine Sys2Proof.Laws Sys2Proof.Clauses Sys2Proof.PowerRails Sys2Proof.InputPower

variable {s t u : State} {r d : Nat}

/-- A region in state 1 whose compute rail opened. -/
structure ComputeOff (s t : State) (r : Nat) : Prop extends RailsOpen s t r where
  region : t.region r = { s.region r with on := none, st := 1 }
  gate : t.fld (ldoKey r 0) 17 1 = 0
  router : ∀ lo w, 12 ≤ lo → t.fld (ldoKey r 1) lo w = s.fld (ldoKey r 1) lo w
  units : ∀ c ∈ State.cellsOf r, ∀ k, (t.core c k).st = 0 ∧ (t.mxe c).queue = []

theorem computeOff_keeps (s : State) (r : Nat) : ComputeOff s (s.computeOff r) r := by
  have hall : s.within [.regs, .cells, .regions, .band] (s.computeOff r) := within_computeOff (List.Subset.refl _) (within_refl s)
  have h := computeRailOff_keeps s r
  unfold State.computeOff State.setSt at hall ⊢
  generalize s.computeRailOff r = a at h hall ⊢
  refine ⟨⟨hall, fun k hk h0 h1 => (setRegion_reg ..).trans (h.low k hk h0 h1), fun q hq => ?_, ?_⟩, ?_, (setRegion_fld ..).trans h.gate, fun lo w hlo => (setRegion_fld ..).trans (h.router lo w hlo), fun c hc k => ?_⟩
  · rw [region_setRegion, if_neg hq, h.others q hq]
  · rw [setRegion_band]
    exact h.band
  · rw [region_setRegion_same, h.region]
  · have hunits := h.units c hc k
    unfold State.core State.mxe at hunits ⊢
    rw [setRegion_cell]
    exact hunits

theorem computeOff_acts (hoff : s.boot.off = false) (hst : (s.region r).st = 3 ∨ (s.region r).st = 4) (hreason : s.regionReason r 2 = 0) :
    ∃ t, s.regionCmd r 2 = t ∧ (t.region r).st = 1 ∧ (t.region r).on = none ∧ t.fld (ldoKey r 0) 17 1 = 0 ∧ t.fld (resKey r) 0 2 = 2 ∧
      (∀ c ∈ State.cellsOf r, ∀ k, (t.core c k).st = 0 ∧ (t.mxe c).queue = []) ∧ s.regionsBut t r ∧ t.err = s.err := by
  rw [regionCmd_acts hoff hreason]
  unfold State.regionAct State.regionOff
  dsimp only
  rw [if_neg (by decide), if_pos rfl, if_neg (by omega), if_pos hst, if_neg (by omega), if_neg Bool.false_ne_true]
  have h := computeOff_keeps s r
  generalize s.computeOff r = a at h ⊢
  have hres := regRes_shows a r (show 2 < 4 by decide) (show 0 < 8 by decide)
  generalize a.regRes r 2 0 = b at hres ⊢
  have hregion (q : Nat) : b.region q = a.region q := regions_same hres.reach (by decide) q
  refine ⟨b, rfl, ?_, ?_, ?_, hres.state, fun c hc k => ?_, fun q hq => (hregion q).trans (h.others q hq), ?_⟩
  · rw [hregion, h.region]
  · rw [hregion, h.region]
  · rw [fld_of_reg (hres.other _ (resKey_ne_ldo r r (by decide)).symm), h.gate]
  · have hunits := h.units c hc k
    unfold State.core State.mxe at hunits ⊢
    rw [DescriptorQueue.cell_of_cells (StartPhases.within_same hres.reach .cells (by decide))]
    exact hunits
  · rw [StartPhases.within_same hres.reach .err (by decide), StartPhases.within_same h.reach .err (by decide)]

/-! ### Full off (R354) -/

theorem detourRing_congr (hp : t.part = s.part) (h : s.regionsBut t r) : t.detourRing r = s.detourRing r := by
  have hfar (c l : Nat) : t.linkFar c l = s.linkFar c l := by
    unfold State.linkFar State.dieBeside
    simp only [hp]
  unfold State.detourRing
  refine congrArg List.eraseDups (List.flatMap_congr fun c _ => List.filterMap_congr fun l _ => ?_)
  rw [hfar]
  cases s.linkFar c l with
  | cell e =>
    dsimp only
    by_cases he : cellRegion e = r
    · rw [if_neg fun hc => hc.1 he, if_neg fun hc => hc.1 he]
    · unfold State.routerGate
      rw [h _ he]
  | edge _ => rfl
  | none => rfl

/-- A region that waits for detours ends its full off when no router needs one. -/
theorem fullOffEnd_eq (hst : (s.region r).st = 1) (hwait : (s.region r).off = .detours []) : s.fullOffEnd r = if s.detourRing r = [] then (s.fullOff r).resDone r else s := by
  unfold State.fullOffEnd
  rw [hwait]
  dsimp only
  cases hring : s.detourRing r with
  | nil => rw [if_pos ⟨hst, rfl⟩, if_pos rfl]
  | cons e l => rw [if_neg fun hc => Bool.false_ne_true hc.2, if_neg (List.cons_ne_nil _ _)]

/-- A region that is asked for full off, its compute rail open. -/
def waitsDetours (s : State) (r : Nat) : State := (s.computeOff r).setRegion r { (s.computeOff r).region r with off := .detours [] }

theorem fullOff_acts (hoff : s.boot.off = false) (hst : (s.region r).st = 3 ∨ (s.region r).st = 4 ∨ (s.region r).st = 1) (hreason : s.regionReason r 3 = 0) :
    ∃ t, s.regionCmd r 3 = t ∧ t.fld (ldoKey r 0) 17 1 = 0 ∧ s.regionsBut t r ∧ t.err = s.err ∧
      if s.detourRing r = [] then (t.region r).st = 0 ∧ t.fld (ldoKey r 1) 17 1 = 0 ∧ t.fld (resKey r) 0 2 = 2
      else (t.region r).st = 1 ∧ (t.region r).off = .detours [] ∧ t.fld (ldoKey r 1) 17 1 = s.fld (ldoKey r 1) 17 1 ∧ t.fld (resKey r) 0 2 = 1 := by
  rw [regionCmd_acts hoff hreason]
  have hres := regRes_shows s r (show 1 < 4 by decide) (show 0 < 8 by decide)
  unfold State.regionAct State.regionOff
  dsimp only
  rw [if_neg (by decide), if_neg (by decide), if_pos rfl, if_pos (by omega)]
  generalize s.regRes r 1 0 = a at hres ⊢
  have hregion (q : Nat) : a.region q = s.region q := regions_same hres.reach (by decide) q
  rw [if_neg (by rw [hregion]; omega), if_pos rfl]
  have hbegin : a.fullOffBegin r = (waitsDetours a r).fullOffEnd r := rfl
  have h := computeOff_keeps a r
  unfold waitsDetours at hbegin
  generalize a.computeOff r = b at h hbegin
  have hsame := region_setRegion_same b r { b.region r with off := .detours [] }
  have hother (q : Nat) (hq : q ≠ r) : (b.setRegion r { b.region r with off := .detours [] }).region q = b.region q := (region_setRegion ..).trans (if_neg hq)
  have hwc : b.within [.regions] (b.setRegion r { b.region r with off := .detours [] }) := within_setRegion (List.Subset.refl _) (within_refl b)
  generalize b.setRegion r { b.region r with off := .detours [] } = c at hsame hother hwc hbegin
  have hcst : (c.region r).st = 1 := by rw [hsame, h.region]
  have hcoff : (c.region r).off = .detours [] := by rw [hsame]
  have hcregs : c.regs = b.regs := StartPhases.within_same hwc .regs (by decide)
  have hcreg (k : Nat) : c.reg k = b.reg k := reg_of_regs hwc.1 hcregs k
  have hbut : s.regionsBut c r := fun q hq => (hother q hq).trans ((h.others q hq).trans (hregion q))
  have hring : c.detourRing r = s.detourRing r := detourRing_congr (hwc.1.trans (h.reach.1.trans hres.reach.1)) hbut
  have hcres (lo w : Nat) : c.fld (resKey r) lo w = a.fld (resKey r) lo w :=
    fld_of_reg ((hcreg _).trans (h.low _ (noCellKey_res r) (resKey_ne_ldo r r (by decide)) (resKey_ne_ldo r r (by decide)))) lo w
  have hcerr : c.err = s.err := by rw [StartPhases.within_same hwc .err (by decide), StartPhases.within_same h.reach .err (by decide), StartPhases.within_same hres.reach .err (by decide)]
  rw [hbegin, fullOffEnd_eq hcst hcoff, hring]
  by_cases hnone : s.detourRing r = []
  · simp only [if_pos hnone]
    obtain ⟨hrails, hregiond, hgate0, hgate1⟩ := fullOff_keeps c r
    generalize c.fullOff r = e at hrails hregiond hgate0 hgate1
    have heres (lo w : Nat) : e.fld (resKey r) lo w = a.fld (resKey r) lo w :=
      (fld_of_reg (hrails.low _ (noCellKey_res r) (resKey_ne_ldo r r (by decide)) (resKey_ne_ldo r r (by decide))) lo w).trans (hcres lo w)
    obtain ⟨hwf, hfreg⟩ := resDone_keeps e r
    have hfregion (q : Nat) : (e.resDone r).region q = e.region q := regions_same hwf (by decide) q
    refine ⟨_, rfl, ?_, fun q hq => ?_, ?_, ?_, ?_, ?_⟩
    · rw [fld_of_reg (hfreg _ (resKey_ne_ldo r r (by decide)).symm), hgate0]
    · rw [hfregion, hrails.others q hq, hbut q hq]
    · rw [StartPhases.within_same hwf .err (by decide), StartPhases.within_same hrails.reach .err (by decide), hcerr]
    · rw [hfregion, hregiond]
    · rw [fld_of_reg (hfreg _ (resKey_ne_ldo r r (by decide)).symm), hgate1]
    · exact resDone_shows ((heres ..).trans hres.state) ⟨(heres ..).trans hres.place.1, (heres ..).trans hres.place.2⟩
  · simp only [if_neg hnone]
    refine ⟨c, rfl, ?_, hbut, hcerr, hcst, hcoff, ?_, (hcres ..).trans hres.state⟩
    · rw [fld_of_reg (hcreg _), h.gate]
    · rw [fld_of_reg (hcreg _), h.router _ _ (by decide), fld_of_reg (hres.other _ (resKey_ne_ldo r r (by decide)).symm)]

/-! ### A switch-off during a turn-on waits for the next interval (R354) -/

theorem interval_of_within {ks : List Comp} (h : s.within ks t) : t.interval = s.interval := by
  unfold State.interval
  rw [now_of_within h]

theorem switchOff_waits (op : Nat) (full : Bool) (hop : (op = 2 ∧ full = false) ∨ (op = 3 ∧ full = true)) (hoff : s.boot.off = false) (hst : (s.region r).st = 2) (hidle : (s.region r).off = .idle)
    (hreason : s.regionReason r op = 0) : ∃ t, s.regionCmd r op = t ∧ (t.region r).st = 2 ∧ (t.region r).off = .next full s.interval ∧ t.fld (resKey r) 0 2 = 1 ∧ s.regsBut t [resKey r] ∧
      s.regionsBut t r ∧ t.err = s.err := by
  rw [regionCmd_acts hoff hreason]
  have hact : s.regionAct r op = (s.regRes r 1 0).regionOff r full := by
    unfold State.regionAct
    dsimp only
    rcases hop with ⟨rfl, rfl⟩ | ⟨rfl, rfl⟩
    · rw [if_neg (by decide), if_pos rfl, if_pos hst]
    · rw [if_neg (by decide), if_neg (by decide), if_pos rfl, if_pos (by omega)]
  rw [hact]
  have hres := regRes_shows s r (show 1 < 4 by decide) (show 0 < 8 by decide)
  generalize s.regRes r 1 0 = a at hres ⊢
  have hregion (q : Nat) : a.region q = s.region q := regions_same hres.reach (by decide) q
  unfold State.regionOff
  rw [if_pos (by rw [hregion]; exact hst), hregion, hidle]
  dsimp only
  refine ⟨_, rfl, ?_, ?_, ?_, fun k hk => ?_, fun q hq => ?_, ?_⟩
  · rw [region_setRegion_same]
    exact hst
  · rw [region_setRegion_same, interval_of_within hres.reach]
  · rw [setRegion_fld, hres.state]
  · rw [setRegion_reg, hres.other k fun h => hk (List.mem_singleton.2 h)]
  · rw [region_setRegion, if_neg hq, hregion]
  · rw [setRegion_err, StartPhases.within_same hres.reach .err (by decide)]

end Sys2Proof.RegionCommands
end

section
/-! PROOFS. Stages are admitted, wait, or go to quarter strength (R357, R358). -/

namespace Sys2Proof.RegionCommands

open Sys2Proof Sys2Proof.Machine Sys2Proof.Laws Sys2Proof.Clauses Sys2Proof.PowerRails Sys2Proof.InputPower
open Sys2Proof.WholeMachine (powerSettle_of_not_phase_three)

variable {s t u : State} {r d : Nat}

/-! ### The turn-ons of a die -/

theorem byArrival_congr (h : t.regions = s.regions) (d : Nat) : t.byArrival d = s.byArrival d := by
  unfold State.byArrival State.turnOns
  simp only [region_of_regions h]

theorem mem_insertBy {f : Nat → Nat} {l : List Nat} {x a : Nat} (h : x ∈ insertBy f a l) : x = a ∨ x ∈ l := by
  induction l with
  | nil => exact .inl (List.mem_singleton.1 h)
  | cons b l ih =>
    unfold insertBy at h
    split at h
    · exact List.mem_cons.1 h
    · rcases List.mem_cons.1 h with rfl | h
      · exact .inr List.mem_cons_self
      · exact (ih h).imp id (List.mem_cons_of_mem _)

theorem mem_sortBy {f : Nat → Nat} {l : List Nat} {x : Nat} (h : x ∈ sortBy f l) : x ∈ l := by
  induction l with
  | nil => exact h
  | cons a l ih => exact List.mem_cons.2 ((mem_insertBy h).imp id ih)

theorem mem_byArrival (h : r ∈ s.byArrival d) : ∃ i, i < 64 ∧ r = d * 64 + i := by
  unfold State.byArrival at h
  obtain ⟨i, hi, rfl⟩ := List.mem_map.1 h
  have hon := mem_sortBy hi
  unfold State.turnOns at hon
  exact ⟨i, List.mem_range.1 (List.mem_filter.1 hon).1, rfl⟩

theorem offDue_of_idle (h : (s.region r).off = .idle) : s.offDue r = s := by
  unfold State.offDue
  rw [h]

/-- An interval with no switch-off waiting. -/
theorem offDues_idle (l : List Nat) (h : ∀ i ∈ l, (s.region (d * 64 + i)).off = .idle) : l.foldl (fun t i => t.offDue (d * 64 + i)) s = s := by
  induction l with
  | nil => rfl
  | cons i l ih =>
    rw [List.foldl_cons, offDue_of_idle (h i List.mem_cons_self)]
    exact ih fun j hj => h j (List.mem_cons_of_mem _ hj)

/-- The state in which a die's turn-ons are considered. -/
def considered (s : State) (d : Nat) : State := s.setDie d { s.die d with admitAt := s.interval + 1 }

theorem considered_keeps (s : State) (d : Nat) : s.within [.dies] (considered s d) ∧ (considered s d).die d = { s.die d with admitAt := s.interval + 1 } :=
  ⟨within_setDie (List.Subset.refl _) (within_refl s), die_setDie_same ..⟩

theorem admitStages_eq (hdue : (s.die d).admitAt ≠ s.interval + 1) (hoff : s.boot.off = false) : s.admitStages d =
    ((((List.range 64).foldl (fun t i => t.offDue (d * 64 + i)) (considered s d)).byArrival d).foldl State.admitOne (((List.range 64).foldl (fun t i => t.offDue (d * 64 + i)) (considered s d)), 0, false)).1 := by
  unfold State.admitStages
  rw [if_neg (by rw [hoff]; simp only [hdue, Bool.false_eq_true, or_self, not_false_eq_true])]
  rfl

theorem admitStages_one (hone : s.byArrival d = [r]) (hdue : (s.die d).admitAt ≠ s.interval + 1) (hidle : ∀ i, i < 64 → (s.region (d * 64 + i)).off = .idle) (hoff : s.boot.off = false) :
    s.admitStages d = (State.admitOne (considered s d, 0, false) r).1 := by
  have hregions : (considered s d).regions = s.regions := StartPhases.within_same (considered_keeps s d).1 .regions (by decide)
  rw [admitStages_eq hdue hoff, offDues_idle _ fun i hi => by rw [region_of_regions hregions]; exact hidle i (List.mem_range.1 hi), byArrival_congr hregions, hone]
  rfl

theorem stageCfg_congr (hd : (t.die d).cfgAt = (s.die d).cfgAt ∧ (t.die d).cfgOld = (s.die d).cfgOld) (hi : t.interval = s.interval) (hreg : t.reg (dieKey d PWR_STAGE_CFG) = s.reg (dieKey d PWR_STAGE_CFG)) (lo w : Nat) :
    t.stageCfg d lo w = s.stageCfg d lo w := by
  unfold State.stageCfg
  rw [hd.1, hd.2, hi, fld_of_reg hreg]

/-- What one turn-on's turn leaves. -/
structure TurnTaken (s t : State) (d r : Nat) (o : TurnOn) : Prop where
  on : (t.region r).on = some o
  admitted : (t.die d).admitAt = s.interval + 1
  regs : t.regs = s.regs
  err : t.err = s.err
  others : s.regionsBut t r

theorem turnTaken (s : State) (d r : Nat) (o : TurnOn) : TurnTaken s ((considered s d).setRegion r { (considered s d).region r with on := some o }) d r o := by
  obtain ⟨hw, hdie⟩ := considered_keeps s d
  generalize considered s d = a at hw hdie ⊢
  refine ⟨congrArg Region.on (region_setRegion_same ..), ?_, ?_, ?_, fun q hq => ?_⟩
  · rw [setRegion_die, hdie]
  · rw [setRegion_regs, StartPhases.within_same hw .regs (by decide)]
  · rw [setRegion_err, StartPhases.within_same hw .err (by decide)]
  · rw [region_setRegion, if_neg hq, regions_same hw (by decide)]

theorem settle_considered (s : State) (d r : Nat) (x : Region) (hphase : s.inPhase 3 = false) : ((considered s d).setRegion r x).powerSettle = (considered s d).setRegion r x := by
  obtain ⟨hw, -⟩ := considered_keeps s d
  generalize considered s d = a at hw ⊢
  refine powerSettle_of_not_phase_three ((inPhase_congr ?_ ?_).trans hphase)
  · rw [setRegion_boot, StartPhases.within_same hw .boot (by decide)]
  · rw [setRegion_reg, reg_of_regs hw.1 (StartPhases.within_same hw .regs (by decide))]

/-- A stage that is due and needs 12 A, by what its admission finds. -/
theorem admitOne_eq {a : State} {o : TurnOn} (hon : (a.region r).on = some o) (hfull : o.full = false) (hquarter : o.quarter = false) (hrouter : o.router = false) :
    (¬((a.die (regionDie r)).est + 12000 ≤ a.fld (dieKey (regionDie r) PWR_DIE_I) 16 12 * 1000 ∧ 12 ≤ a.stageCfg (regionDie r) 0 8) →
      (State.admitOne (a, 0, false) r).1 = a.setRegion r { a.region r with on := some { o with onlyC := false, cLast := 0 } }) ∧
    ((a.die (regionDie r)).est + 12000 ≤ a.fld (dieKey (regionDie r) PWR_DIE_I) 16 12 * 1000 → 12 ≤ a.stageCfg (regionDie r) 0 8 →
      (a.peakNear r = false → (State.admitOne (a, 0, false) r).1 = a.setRegion r { a.region r with on := some (a.nextStage o) }) ∧
      (a.peakNear r = true → 0 < a.interval → o.cLast = a.interval → o.waited = true →
        (State.admitOne (a, 0, false) r).1 = a.setRegion r { a.region r with on := some { o with cLast := a.interval + 1 } })) := by
  have hinrush : State.inrush o = 12 := by
    unfold State.inrush
    rw [hrouter, hquarter]
    rfl
  have hgo : ¬(false = true ∨ o.full = true) := by simp only [hfull, Bool.false_eq_true, or_self, not_false_eq_true]
  unfold State.admitOne
  dsimp only
  rw [hon]
  dsimp only
  rw [hinrush, if_neg hgo, Nat.zero_add]
  refine ⟨fun hno => ?_, fun hest hcfg => ⟨fun hpeak => ?_, fun hpeak hi hlast hwaited => ?_⟩⟩
  · rw [if_pos hno]
  · rw [if_neg fun h => h ⟨hest, hcfg⟩, if_neg (by simp only [hpeak, Bool.false_eq_true, and_false, not_false_eq_true])]
  · rw [if_neg fun h => h ⟨hest, hcfg⟩, if_pos (by simp only [hquarter, hrouter, hpeak, Bool.false_eq_true, not_false_eq_true, and_self]), if_pos hwaited, if_pos ⟨hlast, hi⟩, ← hwaited]

theorem nextStage_eq (s : State) {o : TurnOn} (h : o.quarter = false) :
    s.nextStage o = { o with stage := o.stage + 1, sub := 0, due := s.now, onlyC := true, cFrom := 0, cLast := 0, waited := false } := by
  unfold State.nextStage
  dsimp only
  rw [if_neg (by simp only [h, Bool.false_eq_true, false_and, not_false_eq_true])]

theorem stageAdmitted (s : State) (d r : Nat) (o : TurnOn) (hone : s.byArrival d = [r]) (hon : (s.region r).on = some o) (hfull : o.full = false) (hquarter : o.quarter = false) (hrouter : o.router = false)
    (hdue : (s.die d).admitAt ≠ s.interval + 1) (hidle : ∀ i, i < 64 → (s.region (d * 64 + i)).off = .idle) (hoff : s.boot.off = false) (hphase : s.inPhase 3 = false) :
    ((s.die d).est + 12000 ≤ s.fld (dieKey d PWR_DIE_I) 16 12 * 1000 → 12 ≤ s.stageCfg d 0 8 →
      (s.peakNear r = false → ∃ t, exec (.stageAdmission d) s = .next t ∧
        (t.region r).on = some { o with stage := o.stage + 1, sub := 0, due := s.now, onlyC := true, cFrom := 0, cLast := 0, waited := false } ∧
        (t.die d).admitAt = s.interval + 1 ∧ t.regs = s.regs ∧ t.err = s.err ∧ s.regionsBut t r) ∧
      (s.peakNear r = true → 0 < s.interval → o.cLast = s.interval → o.waited = true → ∃ t, exec (.stageAdmission d) s = .next t ∧
        (t.region r).on = some { o with cLast := s.interval + 1 } ∧ t.regs = s.regs ∧ t.err = s.err ∧ s.regionsBut t r)) ∧
    (s.fld (dieKey d PWR_DIE_I) 16 12 * 1000 < (s.die d).est + 12000 →
      ∃ t, exec (.stageAdmission d) s = .next t ∧ (t.region r).on = some { o with onlyC := false, cLast := 0 } ∧ t.regs = s.regs ∧ s.regionsBut t r) := by
  obtain ⟨i, hi, hr⟩ := mem_byArrival (hone ▸ List.mem_cons_self : r ∈ s.byArrival d)
  have hdie : regionDie r = d := hr ▸ regionDie_at d hi
  have hstep := admitStages_one hone hdue hidle hoff
  have hexec (x : Region) (h : (State.admitOne (considered s d, 0, false) r).1 = (considered s d).setRegion r x) : exec (.stageAdmission d) s = .next ((considered s d).setRegion r x) := by
    refine congrArg Host.Outcome.next ?_
    rw [hstep, h, settle_considered s d r x hphase]
  have hturn := turnTaken s d r
  obtain ⟨hw, hsame⟩ := considered_keeps s d
  generalize considered s d = a at hexec hturn hw hsame
  have hinterval : a.interval = s.interval := interval_of_within hw
  have hnow : a.now = s.now := now_of_within hw
  have hregion : a.region r = s.region r := regions_same hw (by decide) r
  have hregs : a.regs = s.regs := StartPhases.within_same hw .regs (by decide)
  have hest : (a.die d).est = (s.die d).est := by rw [hsame]
  have hlimit : a.fld (dieKey d PWR_DIE_I) 16 12 = s.fld (dieKey d PWR_DIE_I) 16 12 := fld_of_regs hw.1 hregs ..
  have hcfg (lo w : Nat) : a.stageCfg d lo w = s.stageCfg d lo w := stageCfg_congr (by rw [hsame]; exact ⟨rfl, rfl⟩) hinterval (reg_of_regs hw.1 hregs _) lo w
  have hpeak : a.peakNear r = s.peakNear r := by
    unfold State.peakNear
    rw [hdie, hcfg]
    exact congrArg (fun f => List.any _ f) (funext fun q => by rw [regions_same hw (by decide) q])
  obtain ⟨hrefused, hadmitted⟩ := admitOne_eq (a := a) (hregion ▸ hon) hfull hquarter hrouter
  rw [hdie, hest, hlimit, hcfg, hpeak, hinterval] at hadmitted
  rw [hdie, hest, hlimit, hcfg] at hrefused
  refine ⟨fun hok hroom => ⟨fun hcalm => ?_, fun hbusy hi0 hlast hwaited => ?_⟩, fun hover => ?_⟩
  · have h := hturn (a.nextStage o)
    exact ⟨_, hexec _ ((hadmitted hok hroom).1 hcalm), h.on.trans (by rw [nextStage_eq a hquarter, hnow]), h.admitted, h.regs, h.err, h.others⟩
  · have h := hturn { o with cLast := s.interval + 1 }
    exact ⟨_, hexec _ ((hadmitted hok hroom).2 hbusy hi0 hlast hwaited), h.on, h.regs, h.err, h.others⟩
  · have h := hturn { o with onlyC := false, cLast := 0 }
    exact ⟨_, hexec _ (hrefused fun hc => absurd hc.1 (Nat.not_le.2 hover)), h.on, h.regs, h.others⟩

/-! ### A switch-off whose interval has come (R354) -/

theorem offDue_of_next {k : Nat} (hst : (s.region r).off = .next false k) (hk : s.interval ≠ k) :
    s.offDue r = ((s.setRegion r { s.region r with off := .idle }).computeOff r).resDone r := by
  unfold State.offDue
  rw [hst]
  dsimp only
  rw [if_neg hk, if_neg Bool.false_ne_true]

theorem switchOff_ends (s : State) (d i k : Nat) (hi : i < 64) (hnext : (s.region (d * 64 + i)).off = .next false k) (hk : s.interval ≠ k)
    (hdue : (s.die d).admitAt ≠ s.interval + 1) (hothers : ∀ q, q ≠ d * 64 + i → (s.region q).off = .idle ∧ (s.region q).on = none) (hoff : s.boot.off = false) (hphase : s.inPhase 3 = false) :
    ∃ t, exec (.stageAdmission d) s = .next t ∧ (t.region (d * 64 + i)).st = 1 ∧ (t.region (d * 64 + i)).on = none ∧ (t.region (d * 64 + i)).off = .idle ∧
      t.fld (ldoKey (d * 64 + i) 0) 17 1 = 0 ∧ s.regionsBut t (d * 64 + i) ∧ t.err = s.err := by
  have hstep := admitStages_eq hdue hoff
  obtain ⟨hw, -⟩ := considered_keeps s d
  generalize considered s d = a at hstep hw
  have hregion (q : Nat) : a.region q = s.region q := regions_same hw (by decide) q
  have hsplit : List.range 64 = List.range' 0 i ++ i :: List.range' (i + 1) (64 - i - 1) := by
    rw [List.range_eq_range', range'_split hi, Nat.zero_add]
  have hbefore : (List.range' 0 i).foldl (fun t j => t.offDue (d * 64 + j)) a = a := offDues_idle _ fun j hj => by
    have := List.mem_range'_1.1 hj
    rw [hregion]
    exact (hothers _ (by omega)).1
  have hturn := offDue_of_next (s := a) (r := d * 64 + i) (by rw [hregion]; exact hnext) (by rw [interval_of_within hw]; exact hk)
  have hsame := region_setRegion_same a (d * 64 + i) { a.region (d * 64 + i) with off := .idle }
  have hother (q : Nat) (hq : q ≠ d * 64 + i) : (a.setRegion (d * 64 + i) { a.region (d * 64 + i) with off := .idle }).region q = a.region q := (region_setRegion ..).trans (if_neg hq)
  have hwb : a.within [.regions] (a.setRegion (d * 64 + i) { a.region (d * 64 + i) with off := .idle }) := within_setRegion (List.Subset.refl _) (within_refl a)
  generalize a.setRegion (d * 64 + i) { a.region (d * 64 + i) with off := .idle } = b at hturn hsame hother hwb
  have hcomp := computeOff_keeps b (d * 64 + i)
  generalize b.computeOff (d * 64 + i) = c at hturn hcomp
  obtain ⟨hwe, hereg⟩ := resDone_keeps c (d * 64 + i)
  generalize c.resDone (d * 64 + i) = e at hturn hwe hereg
  have heregion (q : Nat) : e.region q = c.region q := regions_same hwe (by decide) q
  have hrest (q : Nat) (hq : q ≠ d * 64 + i) : e.region q = s.region q := by rw [heregion, hcomp.others q hq, hother q hq, hregion]
  have hself : (e.region (d * 64 + i)).st = 1 ∧ (e.region (d * 64 + i)).on = none ∧ (e.region (d * 64 + i)).off = .idle := by
    rw [heregion, hcomp.region, hsame]
    exact ⟨rfl, rfl, rfl⟩
  have hafter : (List.range' (i + 1) (64 - i - 1)).foldl (fun t j => t.offDue (d * 64 + j)) e = e := offDues_idle _ fun j hj => by
    have := List.mem_range'_1.1 hj
    rw [hrest _ (by omega)]
    exact (hothers _ (by omega)).1
  have hnone : e.byArrival d = [] := by
    unfold State.byArrival State.turnOns
    rw [List.filter_eq_nil_iff.2 fun j _ => ?_]
    · rfl
    · by_cases hj : d * 64 + j = d * 64 + i
      · rw [hj, hself.2.1]
        decide
      · rw [hrest _ hj, (hothers _ hj).2]
        decide
  rw [hsplit, List.foldl_append, hbefore, List.foldl_cons, hturn, hafter, hnone] at hstep
  have hwall : s.within [.regs, .cells, .regions, .dies, .band] e :=
    within_trans (within_mono hw (by decide)) (within_trans (within_mono hwb (by decide)) (within_trans (within_mono hcomp.reach (by decide)) (within_mono hwe (by decide))))
  have hstat : e.reg (ecKey BOOT_STAT) = s.reg (ecKey BOOT_STAT) := by
    rw [hereg _ (ecKey_ne_dieKey _ _ (by decide)), hcomp.low _ (noCellKey_ec (by decide)) (ecKey_ne_ldo _ 0 (by decide)) (ecKey_ne_ldo _ 1 (by decide)),
      reg_of_regs (hwb.1.trans hw.1) ((StartPhases.within_same hwb .regs (by decide)).trans (StartPhases.within_same hw .regs (by decide)))]
  have hsettle : e.powerSettle = e := powerSettle_of_not_phase_three ((inPhase_congr (by rw [StartPhases.within_same hwall .boot (by decide)]) hstat).trans hphase)
  refine ⟨e, congrArg Host.Outcome.next ((congrArg State.powerSettle hstep).trans hsettle), hself.1, hself.2.1, hself.2.2, ?_, fun q hq => hrest q hq, StartPhases.within_same hwall .err (by decide)⟩
  rw [fld_of_reg (hereg _ (resKey_ne_ldo _ _ (by decide)).symm), hcomp.gate]

end Sys2Proof.RegionCommands
end

section
/-! PROOFS. Quarter strength, abandoned turn-ons, power good (R358-R360). -/

namespace Sys2Proof.RegionCommands

open Sys2Proof Sys2Proof.Machine Sys2Proof.Laws Sys2Proof.Clauses Sys2Proof.PowerRails Sys2Proof.InputPower
open Sys2Proof.WholeMachine (powerSettle_of_not_phase_three)
open Sys2Proof.GddrDevices (fld_incSatUn_same written_of_within)

variable {s t u : State} {r d : Nat} {o : TurnOn}

theorem regionDie_regionAt (d : Nat) {rx ry : Nat} (hx : rx < 8) (hy : ry < 8) : regionDie (regionAt d rx ry) = d := by
  unfold regionDie regionAt
  omega

theorem inPhase_three_of_phase (h : s.fld (ecKey BOOT_STAT) 0 4 ≠ 3) : s.inPhase 3 = false := by
  unfold State.inPhase State.phase
  rw [beq_false_of_ne h]
  rfl

/-! ### Counts of the staging register (R358, R359) -/

/-- A count that goes up by one, no write of software meeting it. -/
structure Counted (s t : State) (k lo w : Nat) : Prop where
  reach : s.within [.regs] t
  count : t.fld k lo w = min (s.fld k lo w + 1) (2 ^ w - 1)
  other : s.regsBut t [k]

theorem counted (s : State) {k lo w : Nat} (hw : s.written k = false) (h : lo + w ≤ 64) : Counted s (s.incSatUn k lo w 1) k lo w :=
  ⟨within_incSatUn (List.Subset.refl _) (within_refl s), fld_incSatUn_same 1 hw h, DescriptorQueue.regsBut_incSatUn (regsBut_refl s _) List.mem_cons_self _ _ _⟩

theorem written_setRegion (s : State) (r k : Nat) (x : Region) : (s.setRegion r x).written k = s.written k := rfl

theorem quarterBegins (hon : (s.region r).on = some o) (hoff : s.boot.off = false) (hfree : s.written (dieKey (regionDie r) PWR_STAGE_STAT) = false) (hlate : s.interval ≤ o.cLast) (hpos : 0 < o.cLast)
    (hquarter : o.quarter = false) (hwait : o.cFrom + s.stageCfg (regionDie r) 16 8 * 100000 ≤ s.now) :
    ∃ t, s.quarter r = t ∧ (t.region r).on = some { o with quarter := true, sub := 0 } ∧
      t.fld (dieKey (regionDie r) PWR_STAGE_STAT) 16 8 = min (s.fld (dieKey (regionDie r) PWR_STAGE_STAT) 16 8 + 1) 0xFF ∧ s.regsBut t [dieKey (regionDie r) PWR_STAGE_STAT] ∧ s.regionsBut t r ∧ t.err = s.err := by
  unfold State.quarter
  dsimp only
  rw [hon]
  dsimp only
  rw [if_pos ⟨hlate, hpos, by rw [hquarter]; decide, hwait, by rw [hoff]; decide⟩]
  have hc := counted (s.setRegion r { s.region r with on := some { o with quarter := true, sub := 0 } }) (lo := 16) (w := 8) ((written_setRegion ..).trans hfree) (by decide)
  have hsame := region_setRegion_same s r { s.region r with on := some { o with quarter := true, sub := 0 } }
  have hother (q : Nat) (hq : q ≠ r) : (s.setRegion r { s.region r with on := some { o with quarter := true, sub := 0 } }).region q = s.region q := (region_setRegion ..).trans (if_neg hq)
  have hreg (k : Nat) : (s.setRegion r { s.region r with on := some { o with quarter := true, sub := 0 } }).reg k = s.reg k := setRegion_reg ..
  have herr : (s.setRegion r { s.region r with on := some { o with quarter := true, sub := 0 } }).err = s.err := setRegion_err ..
  generalize s.setRegion r { s.region r with on := some { o with quarter := true, sub := 0 } } = a at hc hsame hother hreg herr ⊢
  generalize a.incSatUn (dieKey (regionDie r) PWR_STAGE_STAT) 16 8 1 = b at hc ⊢
  refine ⟨b, rfl, ?_, hc.count.trans (by rw [fld_of_reg (hreg _)]; rfl), fun k hk => (hc.other k hk).trans (hreg k), fun q hq => ?_, (StartPhases.within_same hc.reach .err (by decide)).trans herr⟩
  · rw [regions_same hc.reach (by decide), hsame]
  · rw [regions_same hc.reach (by decide), hother q hq]

/-- A turn-on whose stage was held back too long, no load running. -/
theorem turnOnAbandoned (hon : (s.region r).on = some o) (hphase : s.fld (ecKey BOOT_STAT) 0 4 ≠ 3) (hfree : s.written (dieKey (regionDie r) PWR_STAGE_STAT) = false) (honly : o.onlyC = false)
    (hfull : o.full = false) (hrouter : o.router = false) (hdue : o.due + s.stageCfg (regionDie r) 24 8 * 1000000 ≤ s.now) (hload : s.load = none) :
    ∃ t e, s.turnOnAbandon r = t ∧ (t.region r).st = 1 ∧ (t.region r).on = none ∧ t.fld (dieKey (regionDie r) PWR_STAGE_STAT) 24 8 = min (s.fld (dieKey (regionDie r) PWR_STAGE_STAT) 24 8 + 1) 0xFF ∧
      t.fld (resKey r) 2 3 = 7 ∧ t.err.recQ = s.err.recQ ++ [e] ∧ e.cls = 0x77 ∧ s.regionsBut t r := by
  have hab : s.abandonDue r = true := by
    unfold State.abandonDue
    rw [hon]
    dsimp only
    rw [honly, hfull, decide_eq_true hdue]
    rfl
  have heq : s.abandon r = ((s.setRegion r { s.region r with st := 1, on := none }).incSatUn (dieKey (regionDie r) PWR_STAGE_STAT) 24 8 1).regionRefuse r 1 7 := by
    unfold State.abandon
    dsimp only
    rw [hon]
    dsimp only
    simp only [hrouter, Bool.false_eq_true, if_false]
  have hwall : s.within [.regs, .regions, .err] (s.abandon r) := within_abandon (List.Subset.refl _) (within_refl s)
  have hc := counted (s.setRegion r { s.region r with st := 1, on := none }) (lo := 24) (w := 8) ((written_setRegion ..).trans hfree) (by decide)
  have hsame := region_setRegion_same s r { s.region r with st := 1, on := none }
  have hother (q : Nat) (hq : q ≠ r) : (s.setRegion r { s.region r with st := 1, on := none }).region q = s.region q := (region_setRegion ..).trans (if_neg hq)
  have hreg (k : Nat) : (s.setRegion r { s.region r with st := 1, on := none }).reg k = s.reg k := setRegion_reg ..
  have herr : (s.setRegion r { s.region r with st := 1, on := none }).err = s.err := setRegion_err ..
  generalize s.setRegion r { s.region r with st := 1, on := none } = a at hc hsame hother hreg herr heq
  generalize a.incSatUn (dieKey (regionDie r) PWR_STAGE_STAT) 24 8 1 = b at hc heq
  obtain ⟨e, hregions, -, -, hreason, hbut, hrec, hcls⟩ := regionRefuse_keeps b r 1 (show 7 < 8 by decide)
  rw [← heq] at hregions hreason hbut hrec
  have hstage : dieKey (regionDie r) PWR_STAGE_STAT ∉ [resKey r] := fun h => dieKey_ne _ _ (by decide) (by decide) (by decide) (List.mem_singleton.1 h)
  have hstat : (s.abandon r).fld (ecKey BOOT_STAT) 0 4 = s.fld (ecKey BOOT_STAT) 0 4 := by
    rw [fld_of_regsBut hbut fun h => ecKey_ne_dieKey _ _ (by decide) (List.mem_singleton.1 h), fld_of_regsBut hc.other fun h => ecKey_ne_dieKey _ _ (by decide) (List.mem_singleton.1 h), fld_of_reg (hreg _)]
  have hsettle : (s.abandon r).powerSettle = s.abandon r := powerSettle_of_not_phase_three (inPhase_three_of_phase (by rw [hstat]; exact hphase))
  have hall : s.turnOnAbandon r = s.abandon r := by
    unfold State.turnOnAbandon
    dsimp only
    rw [hab, Bool.not_true, if_neg Bool.false_ne_true, hsettle, StartPhases.within_same hwall .load (by decide), hload, if_neg (by simp only [Option.isSome_none, Bool.and_false, Bool.false_eq_true, not_false_eq_true])]
  have hregion (q : Nat) : (s.abandon r).region q = a.region q := (region_of_regions hregions q).trans (regions_same hc.reach (by decide) q)
  refine ⟨_, e, hall, ?_, ?_, ?_, hreason, ?_, hcls, fun q hq => (hregion q).trans (hother q hq)⟩
  · rw [hregion, hsame]
  · rw [hregion, hsame]
  · rw [fld_of_regsBut hbut hstage, hc.count, fld_of_reg (hreg _)]
    rfl
  · rw [hrec, StartPhases.within_same hc.reach .err (by decide), herr]

/-! ### Power good (R360) -/

/-- What a rail that regulates leaves. -/
structure RailOn (s t : State) (r rail : Nat) : Prop where
  reach : s.within [.regs] t
  vset : t.fld (ldoKey r rail) 0 6 = 30
  gate : t.fld (ldoKey r rail) 17 1 = 1
  other : s.regsBut t [ldoKey r rail]

theorem railOn_keeps (s : State) (r rail : Nat) : RailOn s (s.railOn r rail) r rail := by
  unfold State.railOn
  refine ⟨within_railOn (List.Subset.refl _) (within_refl s), ?_, ?_, fun k hk => ?_⟩
  · rw [fld_setFld_apart _ _ (by decide) (.inl (by decide)), fld_setFld_apart _ _ (by decide) (.inl (by decide)), fld_setFld_same _ _ (by decide)]
    rfl
  · rw [fld_setFld_same _ _ (by decide)]
    rfl
  · have hne : k ≠ ldoKey r rail := fun h => hk (List.mem_singleton.2 h)
    rw [reg_setFld_other _ _ _ _ hne, reg_setFld_other _ _ _ _ hne, reg_setFld_other _ _ _ _ hne]

theorem primers_start (l : List Nat) (s : State) : s.within [.regs] (l.foldl (fun t c => t.primerStart c) s) ∧ (∀ c ∈ l, (l.foldl (fun t c => t.primerStart c) s).fld (cellKey c SPM_PRIME_STAT) 1 1 = 1) ∧
    ∀ k, (∀ c, k ≠ cellKey c SPM_PRIME_STAT) → (l.foldl (fun t c => t.primerStart c) s).reg k = s.reg k := by
  have hkey (l : List Nat) (c : Nat) (s : State) (h : s.fld (cellKey c SPM_PRIME_STAT) 1 1 = 1) : (l.foldl (fun t c => t.primerStart c) s).fld (cellKey c SPM_PRIME_STAT) 1 1 = 1 := by
    refine List.foldlRecOn (motive := fun t : State => t.fld (cellKey c SPM_PRIME_STAT) 1 1 = 1) l _ h fun t ht e _ => ?_
    unfold State.primerStart
    by_cases he : cellKey c SPM_PRIME_STAT = cellKey e SPM_PRIME_STAT
    · rw [he, fld_setReg_same]
      rfl
    · rw [fld_setReg_other _ _ _ _ he]
      exact ht
  induction l generalizing s with
  | nil => exact ⟨within_refl s, fun _ h => absurd h List.not_mem_nil, fun _ _ => rfl⟩
  | cons c l ih =>
    have h0 : (s.primerStart c).fld (cellKey c SPM_PRIME_STAT) 1 1 = 1 := (fld_setReg_same ..).trans rfl
    have hw0 : s.within [.regs] (s.primerStart c) := within_setReg (List.Subset.refl _) (within_refl s)
    have hother (k : Nat) (hk : ∀ c, k ≠ cellKey c SPM_PRIME_STAT) : (s.primerStart c).reg k = s.reg k := (reg_setReg ..).trans (if_neg (hk c))
    rw [List.foldl_cons]
    generalize s.primerStart c = a at h0 hw0 hother
    obtain ⟨hw, hin, hout⟩ := ih a
    refine ⟨within_trans hw0 hw, fun e he => ?_, fun k hk => (hout k hk).trans (hother k hk)⟩
    rcases List.mem_cons.1 he with rfl | he
    · exact hkey l e a h0
    · exact hin e he

theorem ldoKey_ne_cell (r rail c : Nat) {o : Nat} (hrail : rail < 2) (ho : o < 0x20000) : ldoKey r rail ≠ cellKey c o := by
  rw [ldoKey_eq]
  unfold cellKey
  omega

/-- The compute rail of a region is good in time. -/
theorem computeGood (hon : (s.region r).on = some o) (hoff : s.boot.off = false) (hphase : s.fld (ecKey BOOT_STAT) 0 4 ≠ 3) (hfull : o.full = true) (hrouter : o.router = false) (hdue : s.now ≤ o.due + 2000) :
    ∃ t, (s.powerGood r).powerSettle = t ∧ (t.region r).on = none ∧ (t.region r).st = (s.region r).st ∧ t.fld (ldoKey r 0) 0 6 = 30 ∧ t.fld (ldoKey r 0) 17 1 = 1 ∧
      (∀ c ∈ State.cellsOf r, t.fld (cellKey c SPM_PRIME_STAT) 1 1 = 1) ∧ s.regionsBut t r ∧ t.err = s.err := by
  have heq : s.powerGood r = ((s.setRegion r { s.region r with on := none }).railOn r 0).primeRegion r := by
    unfold State.powerGood
    dsimp only
    rw [hon]
    dsimp only
    rw [if_neg (by simp only [hfull, hoff, not_true_eq_false, Bool.false_eq_true, or_self, not_false_eq_true]), if_neg (Nat.not_lt.2 hdue), hrouter, if_neg Bool.false_ne_true, if_neg hphase]
  have hsame := region_setRegion_same s r { s.region r with on := none }
  have hwa : s.within [.regions] (s.setRegion r { s.region r with on := none }) := within_setRegion (List.Subset.refl _) (within_refl s)
  have hother (q : Nat) (hq : q ≠ r) : (s.setRegion r { s.region r with on := none }).region q = s.region q := (region_setRegion ..).trans (if_neg hq)
  generalize s.setRegion r { s.region r with on := none } = a at heq hsame hwa hother
  have hrail := railOn_keeps a r 0
  unfold State.primeRegion at heq
  generalize a.railOn r 0 = b at heq hrail
  obtain ⟨hwc, hin, hout⟩ := primers_start (State.cellsOf r) b
  generalize (State.cellsOf r).foldl (fun t c => t.primerStart c) b = c at heq hwc hin hout
  have hregion (q : Nat) : c.region q = a.region q := (regions_same hwc (by decide) q).trans (regions_same hrail.reach (by decide) q)
  have hldo : c.reg (ldoKey r 0) = b.reg (ldoKey r 0) := hout _ fun e => ldoKey_ne_cell r 0 e (by decide) (by decide)
  have hstat : c.fld (ecKey BOOT_STAT) 0 4 = s.fld (ecKey BOOT_STAT) 0 4 := by
    rw [fld_of_reg (hout _ fun e => by unfold ecKey cellKey BOOT_STAT; omega), fld_of_regsBut hrail.other fun h => ecKey_ne_ldo r 0 (by decide) (List.mem_singleton.1 h),
      fld_of_regs hwa.1 (StartPhases.within_same hwa .regs (by decide))]
  rw [heq, powerSettle_of_not_phase_three (inPhase_three_of_phase (by rw [hstat]; exact hphase))]
  refine ⟨c, rfl, ?_, ?_, ?_, ?_, hin, fun q hq => (hregion q).trans (hother q hq), ?_⟩
  · rw [hregion, hsame]
  · rw [hregion, hsame]
  · rw [fld_of_reg hldo, hrail.vset]
  · rw [fld_of_reg hldo, hrail.gate]
  · rw [StartPhases.within_same hwc .err (by decide), StartPhases.within_same hrail.reach .err (by decide), StartPhases.within_same hwa .err (by decide)]

/-- A rail that missed power good is dark. -/
theorem goodMissed_darkens (hon : (s.region r).on = some o) (hoff : s.boot.off = false) (hphase : s.fld (ecKey BOOT_STAT) 0 4 ≠ 3) (hfull : o.full = true) (hrouter : o.router = false) (hdue : o.due + 2000 ≤ s.now) :
    ∃ t e, (s.goodMissed r).powerSettle = t ∧ (t.region r).st = 5 ∧ (t.region r).on = none ∧ e ∈ t.err.recQ ∧ e.cls = 0x72 ∧
      (∀ c ∈ State.cellsOf r, (s.logicalOf c).isSome = true → t.isHole c = true) ∧ s.regionsBut t r := by
  have heq : s.goodMissed r = s.regionDark r 0 3 s.railSource := by
    unfold State.goodMissed
    rw [hon]
    dsimp only
    rw [if_pos ⟨hfull, hdue, by rw [hoff]; decide⟩]
    unfold State.railMissed
    rw [hrouter, if_neg Bool.false_ne_true]
  have h := regionDark_keeps s r 3 s.railSource (show 0 < 2 by decide)
  rw [heq]
  generalize s.regionDark r 0 3 s.railSource = a at h
  rw [powerSettle_of_not_phase_three (h.phase.trans (inPhase_three_of_phase hphase))]
  obtain ⟨e, he, hcls⟩ := h.record
  exact ⟨a, e, rfl, h.st, h.on, he, hcls, h.holes, h.others⟩

end Sys2Proof.RegionCommands
end

section
/-! PROOFS. A router rail that is good in time (R355, R360). -/

namespace Sys2Proof.RegionCommands

open Sys2Proof Sys2Proof.Machine Sys2Proof.Laws Sys2Proof.Clauses Sys2Proof.PowerRails Sys2Proof.InputPower
open Sys2Proof.WholeMachine (powerSettle_of_not_phase_three)

variable {s t u : State} {r d : Nat} {o : TurnOn}

theorem cellRegion_of_mem {c : Nat} (h : c ∈ State.cellsOf r) : cellRegion c = r := by
  obtain ⟨i, hi, rfl⟩ := List.mem_map.1 h
  have := List.mem_range.1 hi
  unfold cellRegion regionAt cellDie cellPx cellPy cellAt regionDie regionRx regionRy
  omega

/-- Registers of a region's routers read their reset values once they were dropped. -/
theorem reg_dropRouter (s : State) {c q : Nat} (hc : cellRegion c = r) (hq : onRouter q = true) : (s.dropRegs r onRouter).reg (cellKey c q) = regReset s.part (cellKey c q) := by
  refine StartPhases.get_filter_of_dropped (fun v => ?_) ..
  have hlt : q < 0x1000000 := by
    by_contra hge
    unfold onRouter at hq
    rw [decide_eq_false (by omega : ¬q < 0x4000), Bool.and_false] at hq
    exact Bool.false_ne_true hq
  have hkey : keyCell (cellKey c q) = some c := by
    unfold keyCell cellKey
    rw [if_neg (by omega)]
    exact congrArg some (by omega)
  have hoff : cellKey c q % 0x1000000 = q := by
    unfold cellKey
    omega
  dsimp only
  rw [hkey]
  dsimp only
  rw [hoff, hq, hc, beq_self_eq_true]
  rfl

/-- The routers of a region, primed. -/
theorem routersPrimed (l : List Nat) (s : State) : s.within [.regs, .cells] (l.foldl (fun t c => t.primeRouter c) s) ∧
    ∀ k, (∀ c, k ≠ cellKey c RTR_LINK_STAT) → (l.foldl (fun t c => t.primeRouter c) s).reg k = s.reg k := by
  refine ⟨List.foldlRecOn (motive := fun t => s.within [.regs, .cells] t) l _ (within_refl s) fun t ht c _ => within_primeRouter (List.Subset.refl _) ht, fun k hk => ?_⟩
  refine List.foldlRecOn (motive := fun t : State => t.reg k = s.reg k) l _ rfl fun t ht c _ => ?_
  unfold State.primeRouter
  rw [setCell_reg, reg_setFld_other _ _ _ _ (hk c), ht]

/-- The detours round a region go from other regions' routers alone. -/
theorem undetoured (s : State) (r k : Nat) (hk : ∀ e i, cellRegion e ≠ r → i < 16 → k ≠ cellKey e (RTR_DETOUR + 4 * i)) : (s.undetourRegion r).reg k = s.reg k := by
  have hone (t : State) (e l : Nat) (he : cellRegion e ≠ r) : (t.undetour e l).reg k = t.reg k := by
    refine List.foldlRecOn (motive := fun u : State => u.reg k = t.reg k) _ _ rfl fun u hu i hi => ?_
    dsimp only
    split
    · rw [reg_setReg, if_neg (hk e i he (List.mem_range.1 hi)), hu]
    · exact hu
  refine List.foldlRecOn (motive := fun t : State => t.reg k = s.reg k) _ _ rfl fun t ht c _ => ?_
  refine List.foldlRecOn (motive := fun u : State => u.reg k = s.reg k) _ _ ht fun u hu l _ => ?_
  split
  · split
    · rw [hone _ _ _ ‹_›, hu]
    · exact hu
  · exact hu

theorem routerGood (hon : (s.region r).on = some o) (hoff : s.boot.off = false) (hphase : s.fld (ecKey BOOT_STAT) 0 4 ≠ 3) (hfull : o.full = true) (hrouter : o.router = true) (hdue : s.now ≤ o.due + 2000) :
    ∃ t, (s.powerGood r).powerSettle = t ∧ (t.region r).on = none ∧ (t.region r).st = 1 ∧ t.fld (ldoKey r 1) 0 6 = 30 ∧ t.fld (ldoKey r 1) 17 1 = 1 ∧
      (∀ c ∈ State.cellsOf r, ∀ o, onRouter o = true → o ≠ RTR_LINK_STAT → t.reg (cellKey c o) = regReset s.part (cellKey c o)) ∧ s.regionsBut t r ∧ t.err = s.err := by
  have heq : s.powerGood r = s.routerUp r := by
    unfold State.powerGood
    dsimp only
    rw [hon]
    dsimp only
    rw [if_neg (by simp only [hfull, hoff, not_true_eq_false, Bool.false_eq_true, or_self, not_false_eq_true]), if_neg (Nat.not_lt.2 hdue), if_pos hrouter]
  rw [heq]
  have hall : s.within [.regs, .cells, .regions] (s.routerUp r) := within_routerUp (List.Subset.refl _) (within_refl s)
  unfold State.routerUp at hall ⊢
  dsimp only at hall ⊢
  have hdrop (c q : Nat) (hc : cellRegion c = r) (hq : onRouter q = true) := reg_dropRouter (r := r) s hc hq
  have hkeep (k : Nat) (hk : NoCellKey k) : (s.dropRegs r onRouter).reg k = s.reg k := reg_dropRegs s r onRouter_high hk
  have hwa : s.within [.regs] (s.dropRegs r onRouter) := within_dropRegs (List.Subset.refl _) (within_refl s)
  generalize s.dropRegs r onRouter = a at hdrop hkeep hwa hall ⊢
  have hrail := railOn_keeps a r 1
  generalize a.railOn r 1 = b at hrail hall ⊢
  obtain ⟨hwc, hprime⟩ := routersPrimed (State.cellsOf r) b
  generalize (State.cellsOf r).foldl (fun t c => t.primeRouter c) b = c at hwc hprime hall ⊢
  have hundo := undetoured c r
  have hwe : c.within [.regs] (c.undetourRegion r) := within_undetourRegion (List.Subset.refl _) (within_refl c)
  generalize c.undetourRegion r = e at hundo hwe hall ⊢
  have hsame := region_setRegion_same e r { e.region r with on := none, st := 1 }
  have hother (q : Nat) (hq : q ≠ r) : (e.setRegion r { e.region r with on := none, st := 1 }).region q = e.region q := (region_setRegion ..).trans (if_neg hq)
  have hreg (k : Nat) : (e.setRegion r { e.region r with on := none, st := 1 }).reg k = e.reg k := setRegion_reg ..
  generalize e.setRegion r { e.region r with on := none, st := 1 } = f at hsame hother hreg hall ⊢
  obtain ⟨hwg, hdone⟩ := resDone_keeps f r
  generalize f.resDone r = g at hwg hdone hall ⊢
  have hregion (q : Nat) : g.region q = f.region q := regions_same hwg (by decide) q
  have heregion (q : Nat) : e.region q = s.region q :=
    (regions_same hwe (by decide) q).trans ((regions_same hwc (by decide) q).trans ((regions_same hrail.reach (by decide) q).trans (regions_same hwa (by decide) q)))
  have hend (k : Nat) (hres : k ≠ resKey r) (hlink : ∀ c, k ≠ cellKey c RTR_LINK_STAT) (hdet : ∀ e i, cellRegion e ≠ r → i < 16 → k ≠ cellKey e (RTR_DETOUR + 4 * i)) : g.reg k = b.reg k := by
    rw [hdone k hres, hreg, hundo k hdet, hprime k hlink]
  have hldo : g.reg (ldoKey r 1) = b.reg (ldoKey r 1) := hend _ (resKey_ne_ldo r r (by decide)).symm (fun c => ldoKey_ne_cell r 1 c (by decide) (by decide))
    fun e i _ hi => ldoKey_ne_cell r 1 e (by decide) (by unfold RTR_DETOUR; omega)
  have hstat : g.fld (ecKey BOOT_STAT) 0 4 = s.fld (ecKey BOOT_STAT) 0 4 := by
    rw [fld_of_reg (hend _ (ecKey_ne_dieKey _ _ (by decide)) (fun c => by unfold ecKey cellKey BOOT_STAT; omega) fun e i _ hi => by unfold ecKey cellKey BOOT_STAT; omega),
      fld_of_regsBut hrail.other fun h => ecKey_ne_ldo r 1 (by decide) (List.mem_singleton.1 h), fld_of_reg (hkeep _ (noCellKey_ec (by decide)))]
  rw [powerSettle_of_not_phase_three (inPhase_three_of_phase (by rw [hstat]; exact hphase))]
  refine ⟨g, rfl, ?_, ?_, ?_, ?_, fun c hc q hq hne => ?_, fun q hq => ?_, StartPhases.within_same hall .err (by decide)⟩
  · rw [hregion, hsame]
  · rw [hregion, hsame]
  · rw [fld_of_reg hldo, hrail.vset]
  · rw [fld_of_reg hldo, hrail.gate]
  · have hregionc := cellRegion_of_mem hc
    have hrange : 0x2000 ≤ q ∧ q < 0x4000 := by
      unfold onRouter at hq
      simpa only [Bool.and_eq_true, decide_eq_true_eq] using hq
    rw [hend _ ?_ (fun e => ?_) fun e i he hi => ?_, hrail.other _ ?_, hdrop c q hregionc hq]
    · exact fun h => ldoKey_ne_cell r 1 c (by decide) (by omega) (List.mem_singleton.1 h).symm
    · unfold resKey dieKey cellKey PWR_REG_RES
      omega
    · unfold cellKey RTR_LINK_STAT at *
      omega
    · intro h
      have hec : e = c := by
        unfold cellKey RTR_DETOUR at h
        omega
      exact he (hec ▸ hregionc)
  · rw [hregion, hother q hq, heregion]

end Sys2Proof.RegionCommands
end

section
/-! PROOFS. Activity and engine estimates (R361, R366-R370). -/

namespace Sys2Proof.PowerEstimates

open Sys2Proof Sys2Proof.Machine Sys2Proof.Laws Sys2Proof.Clauses Sys2Proof.PowerRails Sys2Proof.InputPower
open Sys2Proof.RegionCommands (region_of_regions)

variable {s t u : State} {r d : Nat}

/-! ### A region's estimate (R366, R367) -/

/-- A region with the estimate that its counters give, and the counters clear. -/
def estimated (s : State) (r : Nat) : Region :=
  { s.region r with
    act := List.replicate 8 0
    ic := State.leak (!s.flash.calOk) (regionDie r) (r % 64) 0 (s.vset r) (s.temp r) + State.chargeMa (!s.flash.calOk) (regionDie r) (s.region r).act (· != 5)
    ir := State.leak (!s.flash.calOk) (regionDie r) (r % 64) 1 (s.fld (ldoKey r 1) 0 6) (s.temp r) + State.chargeMa (!s.flash.calOk) (regionDie r) (s.region r).act (· == 5) }

theorem estimateRegion_eq (s : State) (r : Nat) : s.estimateRegion r = s.setRegion r (estimated s r) := rfl

/-- A region's estimate reads registers, the calibration and the region itself. -/
theorem estimated_congr (hp : t.part = s.part) (hr : t.regs = s.regs) (hf : t.flash = s.flash) (hx : t.region r = s.region r) : estimated t r = estimated s r := by
  unfold estimated State.vset State.temp
  rw [fld_of_regs hp hr, fld_of_regs hp hr, fld_of_regs hp hr, hf, hx]

theorem estimates (l : List Nat) (hnd : l.Nodup) (s : State) : s.within [.regions] (l.foldl (fun t r => t.estimateRegion r) s) ∧
    (∀ r ∈ l, (l.foldl (fun t r => t.estimateRegion r) s).region r = estimated s r) ∧ ∀ r, r ∉ l → (l.foldl (fun t r => t.estimateRegion r) s).region r = s.region r := by
  induction l generalizing s with
  | nil => exact ⟨within_refl s, fun _ h => absurd h List.not_mem_nil, fun _ _ => rfl⟩
  | cons e l ih =>
    obtain ⟨hel, hl⟩ := List.nodup_cons.1 hnd
    rw [List.foldl_cons, estimateRegion_eq]
    have hw0 : s.within [.regions] (s.setRegion e (estimated s e)) := within_setRegion (List.Subset.refl _) (within_refl s)
    have hsame := region_setRegion_same s e (estimated s e)
    have hother (q : Nat) (hq : q ≠ e) : (s.setRegion e (estimated s e)).region q = s.region q := (region_setRegion ..).trans (if_neg hq)
    generalize s.setRegion e (estimated s e) = a at hw0 hsame hother
    obtain ⟨hw, hin, hout⟩ := ih hl a
    refine ⟨within_trans hw0 hw, fun q hq => ?_, fun q hq => ?_⟩
    · rcases List.mem_cons.1 hq with rfl | hq
      · rw [hout _ hel, hsame]
      · have hne : q ≠ e := fun h => hel (h ▸ hq)
        rw [hin q hq, estimated_congr hw0.1 (StartPhases.within_same hw0 .regs (by decide)) (StartPhases.within_same hw0 .flash (by decide)) (hother q hne)]
    · rw [hout q fun h => hq (List.mem_cons_of_mem _ h), hother q fun h => hq (h ▸ List.mem_cons_self)]

/-- What a die's estimate leaves. -/
structure DieEstimated (s t : State) (d : Nat) : Prop where
  reach : s.within [.regions, .dies] t
  est : (t.die d).est = ((List.range 64).map fun i => (t.region (d * 64 + i)).ic + (t.region (d * 64 + i)).ir).sum + Config.quiescent d
  overLast : (t.die d).overLast = (s.die d).overLast
  regions : ∀ i, i < 64 → t.region (d * 64 + i) = estimated s (d * 64 + i)
  others : ∀ r, regionDie r ≠ d → t.region r = s.region r

theorem estimateDie_keeps (s : State) (d : Nat) : DieEstimated s (s.estimateDie d) d := by
  have hnd : ((List.range 64).map fun i => d * 64 + i).Nodup := List.nodup_range.map fun _ _ h => Nat.add_left_cancel h
  obtain ⟨hw, hin, hout⟩ := estimates _ hnd s
  rw [List.foldl_map] at hw hin hout
  unfold State.estimateDie
  dsimp only
  generalize (List.range 64).foldl (fun t i => t.estimateRegion (d * 64 + i)) s = a at hw hin hout ⊢
  generalize hsum : ((List.range 64).map fun i => (a.region (d * 64 + i)).ic + (a.region (d * 64 + i)).ir).sum + Config.quiescent d = n
  have hwd : a.within [.dies] (a.setDie d { a.die d with est := n }) := within_setDie (List.Subset.refl _) (within_refl a)
  have hsame := die_setDie_same a d { a.die d with est := n }
  generalize a.setDie d { a.die d with est := n } = b at hwd hsame ⊢
  have hregion (q : Nat) : b.region q = a.region q := regions_same hwd (by decide) q
  refine ⟨within_trans (within_mono hw (by decide)) (within_mono hwd (by decide)), ?_, ?_, fun i hi => ?_, fun q hq => ?_⟩
  · simp only [hregion]
    rw [hsame, hsum]
  · rw [hsame]
    exact congrArg (fun m => (SMap.get m d Die.reset).overLast) (StartPhases.within_same hw .dies (by decide))
  · rw [hregion]
    exact hin _ (List.mem_map.2 ⟨i, List.mem_range.2 hi, rfl⟩)
  · rw [hregion]
    refine hout q fun h => hq ?_
    obtain ⟨i, hi, rfl⟩ := List.mem_map.1 h
    exact regionDie_at d (List.mem_range.1 hi)

/-! ### Measured current (R361, R408) -/

/-- What a measurement of a die's current leaves. -/
structure Measured (s t : State) (d : Nat) (meas : Option Nat) : Prop where
  reach : s.within [.regs, .dies] t
  regs : s.regsBut t [dieKey d PWR_DIE_I]
  shown : match meas with
    | none => t = s
    | some a => t.fld (dieKey d PWR_DIE_I) 0 12 = min 4095 a ∧ t.fld (dieKey d PWR_DIE_I) 16 12 = s.fld (dieKey d PWR_DIE_I) 16 12 ∧
        (t.die d).overLast = if s.fld (dieKey d PWR_DIE_I) 16 12 ≤ a then s.now else (s.die d).overLast

theorem measured_keeps (s : State) (d : Nat) (meas : Option Nat) : Measured s (s.measured d meas) d meas := by
  have hall : s.within [.regs, .dies] (s.measured d meas) := within_measured (List.Subset.refl _) (within_refl s)
  cases meas with
  | none => exact ⟨hall, regsBut_refl s _, rfl⟩
  | some a =>
    unfold State.measured at hall ⊢
    dsimp only at hall ⊢
    have hlow : (s.setFld (dieKey d PWR_DIE_I) 0 12 (min 4095 a)).fld (dieKey d PWR_DIE_I) 0 12 = min 4095 a := by rw [fld_setFld_same _ _ (by decide), Nat.mod_eq_of_lt (by omega)]
    have hhigh : (s.setFld (dieKey d PWR_DIE_I) 0 12 (min 4095 a)).fld (dieKey d PWR_DIE_I) 16 12 = s.fld (dieKey d PWR_DIE_I) 16 12 := fld_setFld_apart _ _ (by decide) (.inr (by decide))
    have hreg (k : Nat) (hk : k ∉ [dieKey d PWR_DIE_I]) : (s.setFld (dieKey d PWR_DIE_I) 0 12 (min 4095 a)).reg k = s.reg k := reg_setFld_other _ _ _ _ fun h => hk (List.mem_singleton.2 h)
    have hdie : (s.setFld (dieKey d PWR_DIE_I) 0 12 (min 4095 a)).die d = s.die d := setFld_die ..
    generalize s.setFld (dieKey d PWR_DIE_I) 0 12 (min 4095 a) = b at hlow hhigh hreg hdie hall ⊢
    by_cases hover : s.fld (dieKey d PWR_DIE_I) 16 12 ≤ a
    · rw [if_pos hover] at hall ⊢
      exact ⟨hall, fun k hk => (setDie_reg ..).trans (hreg k hk), (setDie_fld ..).trans hlow, (setDie_fld ..).trans hhigh, by rw [die_setDie_same, if_pos hover]⟩
    · rw [if_neg hover] at hall ⊢
      exact ⟨hall, hreg, hlow, hhigh, by rw [hdie, if_neg hover]⟩

theorem activityEstimated (s : State) (d : Nat) (meas : Option Nat) (_ : d < s.part.dies) :
    (∃ t, exec (.activityEstimate d false meas) s = .next t ∧
      (t.die d).est = ((List.range 64).map fun i => (t.region (d * 64 + i)).ic + (t.region (d * 64 + i)).ir).sum + Config.quiescent d ∧
      (∀ i, i < 64 → (t.region (d * 64 + i)).act = List.replicate 8 0 ∧ (t.region (d * 64 + i)).st = (s.region (d * 64 + i)).st ∧
        (t.region (d * 64 + i)).ic = State.leak (!s.flash.calOk) d i 0 (s.vset (d * 64 + i)) (s.temp (d * 64 + i)) +
          State.chargeMa (!s.flash.calOk) d (s.region (d * 64 + i)).act (· != 5) ∧
        (t.region (d * 64 + i)).ir = State.leak (!s.flash.calOk) d i 1 (s.fld (ldoKey (d * 64 + i) 1) 0 6) (s.temp (d * 64 + i)) +
          State.chargeMa (!s.flash.calOk) d (s.region (d * 64 + i)).act (· == 5)) ∧
      (∀ r, regionDie r ≠ d → t.region r = s.region r) ∧ s.regsBut t [dieKey d PWR_DIE_I] ∧ t.err = s.err ∧
      match meas with
      | none => t.regs = s.regs ∧ (t.die d).overLast = (s.die d).overLast
      | some a => t.fld (dieKey d PWR_DIE_I) 0 12 = min 4095 a ∧ t.fld (dieKey d PWR_DIE_I) 16 12 = s.fld (dieKey d PWR_DIE_I) 16 12 ∧
          (t.die d).overLast = if s.fld (dieKey d PWR_DIE_I) 16 12 ≤ a then s.now else (s.die d).overLast) ∧
    ∃ t, exec (.activityEstimate d true meas) s = .next t ∧ t.regions = s.regions ∧ t.dies = s.dies ∧ s.logs t 0x86 (.dieUnit d 0) (1 + d * 2 ^ 8) := by
  refine ⟨?_, _, rfl, raise_regions .., raise_dies .., logs_raise rfl ..⟩
  have hm := measured_keeps s d meas
  have hexec : exec (.activityEstimate d false meas) s = .next ((s.measured d meas).estimateDie d) := rfl
  generalize s.measured d meas = a at hm hexec
  have he := estimateDie_keeps a d
  generalize a.estimateDie d = t at he hexec
  have hregs : t.regs = a.regs := StartPhases.within_same he.reach .regs (by decide)
  have hregion (q : Nat) : a.region q = s.region q := regions_same hm.reach (by decide) q
  have hestimated (i : Nat) (hi : i < 64) : t.region (d * 64 + i) = estimated s (d * 64 + i) := by
    have hother (k : Nat) (hk : k ≠ dieKey d PWR_DIE_I) : a.reg k = s.reg k := hm.regs k fun h => hk (List.mem_singleton.1 h)
    have hldo (rail : Nat) (hrail : rail < 2) : a.reg (ldoKey (d * 64 + i) rail) = s.reg (ldoKey (d * 64 + i) rail) := hother _ (dieKey_ne_ldo _ _ (by decide) hrail).symm
    have htemp : a.reg (regionKey TEMP_R (d * 64 + i)) = s.reg (regionKey TEMP_R (d * 64 + i)) := hother _ (by unfold regionKey dieKey TEMP_R PWR_DIE_I; omega)
    rw [he.regions i hi]
    unfold estimated State.vset State.temp
    rw [fld_of_reg (hldo 0 (by decide)), fld_of_reg (hldo 1 (by decide)), fld_of_reg htemp, StartPhases.within_same hm.reach .flash (by decide), hregion]
  refine ⟨t, hexec, he.est, fun i hi => ?_, fun q hq => (he.others q hq).trans (hregion q), fun k hk => (reg_of_regs he.reach.1 hregs k).trans (hm.regs k hk), ?_, ?_⟩
  · have hdie := regionDie_at d hi
    have hmod : (d * 64 + i) % 64 = i := by omega
    rw [hestimated i hi]
    unfold estimated
    rw [hdie, hmod]
    exact ⟨rfl, rfl, rfl, rfl⟩
  · rw [StartPhases.within_same he.reach .err (by decide), StartPhases.within_same hm.reach .err (by decide)]
  · have hshown := hm.shown
    cases meas with
    | none =>
      dsimp only at hshown ⊢
      rw [hregs, he.overLast, hshown]
      exact ⟨rfl, rfl⟩
    | some x =>
      dsimp only at hshown ⊢
      rw [fld_of_regs he.reach.1 hregs, fld_of_regs he.reach.1 hregs, he.overLast]
      exact hshown

end Sys2Proof.PowerEstimates
end

section
/-! PROOFS. The engine estimate and the ceiling's throttle (R361, R368, R370). -/

namespace Sys2Proof.PowerEstimates

open Sys2Proof Sys2Proof.Machine Sys2Proof.Laws Sys2Proof.Clauses Sys2Proof.PowerRails Sys2Proof.InputPower

variable {s t u : State} {r d : Nat}

/-! ### Levels issued (R370, R405) -/

theorem lastLevel_setDie_same (s : State) (d l at' : Nat) : (s.setDie d { s.die d with leNext := some (l, at') }).lastLevel d = l := by
  unfold State.lastLevel
  rw [die_setDie_same]

theorem lastLevel_setDie_other (s : State) {d e : Nat} (x : Die) (h : d ≠ e) : (s.setDie e x).lastLevel d = s.lastLevel d := by
  unfold State.lastLevel
  rw [die_setDie, if_neg h, setDie_fld]

/-- One die's turn when the engine level is issued. -/
def issueTo (level at' : Nat) (t : State) (d : Nat) : State := if t.lastLevel d = level then t else t.setDie d { t.die d with leNext := some (level, at') }

theorem issued (level at' : Nat) (l : List Nat) (s : State) : s.within [.dies] (l.foldl (issueTo level at') s) ∧ ∀ d, (d ∈ l ∨ s.lastLevel d = level) → (l.foldl (issueTo level at') s).lastLevel d = level := by
  induction l generalizing s with
  | nil => exact ⟨within_refl s, fun d h => h.resolve_left List.not_mem_nil⟩
  | cons e l ih =>
    have hstep : s.within [.dies] (issueTo level at' s e) ∧ ∀ d, (d = e ∨ s.lastLevel d = level) → (issueTo level at' s e).lastLevel d = level := by
      unfold issueTo
      by_cases h : s.lastLevel e = level
      · rw [if_pos h]
        exact ⟨within_refl s, fun d hd => hd.elim (fun hd => hd ▸ h) id⟩
      · rw [if_neg h]
        refine ⟨within_setDie (List.Subset.refl _) (within_refl s), fun d hd => ?_⟩
        by_cases hde : d = e
        · rw [hde, lastLevel_setDie_same]
        · rw [lastLevel_setDie_other s _ hde, hd.resolve_left hde]
    rw [List.foldl_cons]
    generalize issueTo level at' s e = a at hstep
    obtain ⟨hw, hin⟩ := ih a
    refine ⟨within_trans hstep.1 hw, fun d hd => hin d ?_⟩
    rcases hd with hd | hd
    · exact (List.mem_cons.1 hd).elim (fun h => .inr (hstep.2 d (.inl h))) .inl
    · exact .inr (hstep.2 d (.inr hd))

theorem issueLevel_issues (s : State) : s.within [.dies] s.issueLevel ∧ ∀ d, d < s.part.dies → s.issueLevel.lastLevel d = s.issueLevel.engineLevel := by
  have heq : s.issueLevel = (List.range s.part.dies).foldl (issueTo s.engineLevel (s.slot / 16 + 64)) s := rfl
  obtain ⟨hw, hin⟩ := issued s.engineLevel (s.slot / 16 + 64) (List.range s.part.dies) s
  rw [← heq] at hw hin
  refine ⟨hw, fun d hd => (hin d (.inl (List.mem_range.2 hd))).trans ?_⟩
  unfold State.engineLevel
  rw [StartPhases.within_same hw .band (by decide)]

/-! ### The estimate (R368, R370) -/

/-- The band's account of an engine estimate p. -/
def bandAt (b : Band) (ceil p : Nat) : Band := { b with p := p, ceilThr := if ceil < p then min 8 (b.ceilThr + 1) else b.ceilThr - 1, pAcc := b.pAcc + p, pN := b.pN + 1 }

/-- The engine estimate in W. -/
def estimateW (s : State) (paux : Nat) : Nat := s.fld (ecKey BAND_TRIM) 0 16 * (((List.range s.part.dies).map s.dieWatts).sum + paux) / 32768

/-- What an engine estimate leaves. -/
structure Estimated (s t : State) (p : Nat) : Prop where
  reach : s.within [.regs, .band, .dies] t
  band : t.band = bandAt s.band s.ceil p
  shown : t.fld (ecKey BAND_EST) 0 24 = p % 2 ^ 24
  levels : ∀ d, d < s.part.dies → t.lastLevel d = t.engineLevel
  other : s.regsBut t [ecKey BAND_EST]

theorem engineEstimate_eq (s : State) (paux : Nat) : s.engineEstimate paux = (({ s with band := bandAt s.band s.ceil (estimateW s paux) }).setFld (ecKey BAND_EST) 0 24 (estimateW s paux)).issueLevel := rfl

theorem within_bandSet (s : State) (b : Band) : s.within [.band] { s with band := b } := within_setBand (List.Subset.refl _) (within_refl s)

theorem engineEstimated (s : State) (paux : Nat) : Estimated s (s.engineEstimate paux) (estimateW s paux) := by
  rw [engineEstimate_eq]
  generalize estimateW s paux = p
  have hw0 := within_bandSet s (bandAt s.band s.ceil p)
  have hb : ({ s with band := bandAt s.band s.ceil p } : State).band = bandAt s.band s.ceil p := rfl
  generalize ({ s with band := bandAt s.band s.ceil p } : State) = a at hw0 hb ⊢
  have hw1 : a.within [.regs] (a.setFld (ecKey BAND_EST) 0 24 p) := within_setFld (List.Subset.refl _) (within_refl a)
  have hshown : (a.setFld (ecKey BAND_EST) 0 24 p).fld (ecKey BAND_EST) 0 24 = p % 2 ^ 24 := fld_setFld_same _ _ (by decide)
  have hreg (k : Nat) (hk : k ∉ [ecKey BAND_EST]) : (a.setFld (ecKey BAND_EST) 0 24 p).reg k = a.reg k := reg_setFld_other _ _ _ _ fun h => hk (List.mem_singleton.2 h)
  generalize a.setFld (ecKey BAND_EST) 0 24 p = b at hw1 hshown hreg ⊢
  obtain ⟨hw2, hlevels⟩ := issueLevel_issues b
  generalize b.issueLevel = c at hw2 hlevels ⊢
  have hpart : b.part = s.part := hw1.1.trans hw0.1
  have hregs : c.regs = b.regs := StartPhases.within_same hw2 .regs (by decide)
  refine ⟨within_trans (within_mono hw0 (by decide)) (within_trans (within_mono hw1 (by decide)) (within_mono hw2 (by decide))), ?_, ?_, fun d hd => hlevels d (hpart ▸ hd), fun k hk => ?_⟩
  · rw [StartPhases.within_same hw2 .band (by decide), StartPhases.within_same hw1 .band (by decide), hb]
  · rw [fld_of_regs hw2.1 hregs, hshown]
  · rw [reg_of_regs hw2.1 hregs, hreg k hk, reg_of_regs hw0.1 (StartPhases.within_same hw0 .regs (by decide))]

/-! ### A reading of the input with it (R361, R371, R375) -/

/-- The band's account of a reading of w W. -/
def bandRead (b : Band) (now w : Nat) : Band :=
  { b with
    samples := (now, w) :: b.samples.filter fun e => decide (now ≤ e.1 + 60000000000)
    trimSum := b.trimSum + w, trimCnt := b.trimCnt + 1, judgeSum := b.judgeSum + w, judgeCnt := b.judgeCnt + 1 }

theorem inputReading_eq (s : State) (v ia ib : Nat) : s.inputReading (some (v, ia, ib)) =
    { s.inputRange v ia ib with
      band := bandRead (s.inputRange v ia ib).band (s.inputRange v ia ib).now ((s.inputRange v ia ib).vin * (s.inputRange v ia ib).fld (dieKey 0 PWR_IN) 16 10 / 100) } := rfl

theorem estimateW_congr {paux : Nat} (hp : t.part = s.part) (htrim : t.reg (ecKey BAND_TRIM) = s.reg (ecKey BAND_TRIM)) (hdies : t.dies = s.dies)
    (hv : ∀ d, t.reg (dieKey d PWR_FIELD_V) = s.reg (dieKey d PWR_FIELD_V)) : estimateW t paux = estimateW s paux := by
  have hwatts : t.dieWatts = s.dieWatts := funext fun d => by
    unfold State.dieWatts State.die
    rw [hdies, fld_of_reg (hv d)]
  unfold estimateW
  rw [fld_of_reg htrim, hp, hwatts]

/-- The account that the ceiling's update keeps. -/
theorem inputRange_account (s : State) (v ia ib : Nat) : (s.inputRange v ia ib).band.samples = s.band.samples ∧ (s.inputRange v ia ib).band.trimSum = s.band.trimSum ∧
    (s.inputRange v ia ib).band.trimCnt = s.band.trimCnt ∧ (s.inputRange v ia ib).band.judgeSum = s.band.judgeSum ∧ (s.inputRange v ia ib).band.judgeCnt = s.band.judgeCnt ∧
    (s.inputRange v ia ib).band.ceilThr = s.band.ceilThr := by
  have hset : ((s.setAll PWR_IN 0 16 v).bladeCurrents ia ib).band = s.band :=
    StartPhases.within_same (within_bladeCurrents (ks := [.regs]) (List.Subset.refl _) (within_setAll (List.Subset.refl _) (within_refl s))) .band (by decide)
  have hceil (a : State) (drop : Bool) : (a.updateCeil drop).band.samples = a.band.samples ∧ (a.updateCeil drop).band.trimSum = a.band.trimSum ∧ (a.updateCeil drop).band.trimCnt = a.band.trimCnt ∧
      (a.updateCeil drop).band.judgeSum = a.band.judgeSum ∧ (a.updateCeil drop).band.judgeCnt = a.band.judgeCnt ∧ (a.updateCeil drop).band.ceilThr = a.band.ceilThr := ⟨rfl, rfl, rfl, rfl, rfl, rfl⟩
  unfold State.inputRange
  dsimp only
  generalize (s.setAll PWR_IN 0 16 v).bladeCurrents ia ib = a at hset ⊢
  split
  · exact ⟨rfl, rfl, rfl, rfl, rfl, rfl⟩
  · have h := hceil a false
    generalize a.updateCeil false = b at h ⊢
    rw [hset] at h
    split
    · rw [raise_band]
      exact h
    · exact h

theorem estimateWithReading (s : State) (paux : Nat) (v ia ib : Nat) (hlo : 4500 ≤ v) (hhi : v ≤ 6000) (hoff : s.boot.off = false) (u : State) (hu : exec (.inputOutOfRange v ia ib) s = .next u) :
    ∃ t w, exec (.engineEstimate paux (some (v, ia, ib))) s = .next t ∧ w = v * min 1023 (ia + ib) / 100 ∧ (∃ q, t.band.samples = (s.now, w) :: q ∧ ∀ e ∈ q, e ∈ s.band.samples ∧ s.now ≤ e.1 + 60000000000) ∧
      t.band.trimSum = s.band.trimSum + w ∧ t.band.trimCnt = s.band.trimCnt + 1 ∧ t.band.judgeSum = s.band.judgeSum + w ∧ t.band.judgeCnt = s.band.judgeCnt + 1 ∧
      t.band.ceilThr = (if u.ceil < estimateW s paux then min 8 (s.band.ceilThr + 1) else s.band.ceilThr - 1) ∧ (∀ d, d < s.part.dies → t.fld (dieKey d PWR_IN) 0 16 = v) ∧
      (∀ k, k ≠ ecKey BAND_EST → t.reg k = u.reg k) ∧ t.err = u.err := by
  obtain ⟨htaken, -⟩ := inputRange_taken s v ia ib hlo hhi hoff
  obtain ⟨hsamples, htrim, htrimN, hjudge, hjudgeN, hthr⟩ := inputRange_account s v ia ib
  have hread := inputReading_eq s v ia ib
  have hu' : s.inputRange v ia ib = u := Host.Outcome.next.inj hu
  have hexec : exec (.engineEstimate paux (some (v, ia, ib))) s = .next ((s.inputReading (some (v, ia, ib))).engineEstimate paux) := rfl
  rw [hread, hu'] at hexec
  rw [hu'] at htaken hsamples htrim htrimN hjudge hjudgeN hthr
  have hpart : u.part = s.part := htaken.reach.1
  have hnow : u.now = s.now := RegionCommands.now_of_within htaken.reach
  obtain ⟨hvin, hiin, -⟩ := htaken.shown 0 (dies_pos _)
  have hvin' : u.vin = v := hvin
  rw [hvin', hiin, hnow] at hexec
  generalize hw : v * min 1023 (ia + ib) / 100 = w at hexec
  have hwb := within_bandSet u (bandRead u.band s.now w)
  have hb : ({ u with band := bandRead u.band s.now w } : State).band = bandRead u.band s.now w := rfl
  generalize ({ u with band := bandRead u.band s.now w } : State) = a at hexec hwb hb
  have haregs : a.regs = u.regs := StartPhases.within_same hwb .regs (by decide)
  have hest := engineEstimated a paux
  have hother (k : Nat) (h1 : ∀ d, k ≠ dieKey d PWR_IN ∧ k ≠ dieKey d PWR_BLADE) (h2 : k ≠ ecKey RAMP_CEIL) (h3 : k ≠ ecKey BAND_AVG) : a.reg k = s.reg k :=
    (reg_of_regs hwb.1 haregs k).trans (htaken.other k h1 h2 h3)
  have hp : estimateW a paux = estimateW s paux := by
    refine estimateW_congr (hwb.1.trans hpart) (hother _ (fun d => ⟨ecKey_ne_dieKey _ _ (by decide), ecKey_ne_dieKey _ _ (by decide)⟩) (by decide) (by decide)) ?_ fun d => hother _ (fun e => ⟨?_, ?_⟩) ?_ ?_
    · rw [StartPhases.within_same hwb .dies (by decide), StartPhases.within_same htaken.reach .dies (by decide)]
    · exact dieKey_ne _ _ (by decide) (by decide) (by decide)
    · exact dieKey_ne _ _ (by decide) (by decide) (by decide)
    · exact (ecKey_ne_dieKey _ _ (by decide)).symm
    · exact (ecKey_ne_dieKey _ _ (by decide)).symm
  have hceil : a.ceil = u.ceil := fld_of_regs hwb.1 haregs ..
  rw [hp] at hest
  generalize a.engineEstimate paux = t at hest hexec
  have hband := hest.band
  rw [hb, hceil] at hband
  have hreg (k : Nat) (hk : k ≠ ecKey BAND_EST) : t.reg k = u.reg k := (hest.other k fun h => hk (List.mem_singleton.1 h)).trans (reg_of_regs hwb.1 haregs k)
  refine ⟨t, w, hexec, rfl, ⟨s.band.samples.filter fun e => decide (s.now ≤ e.1 + 60000000000), ?_, fun e he => ?_⟩, ?_, ?_, ?_, ?_, ?_, fun d hd => ?_, hreg, ?_⟩
  · rw [hband, ← hsamples]
    rfl
  · obtain ⟨hmem, hrecent⟩ := List.mem_filter.1 he
    exact ⟨hmem, of_decide_eq_true hrecent⟩
  · rw [hband, ← htrim]
    rfl
  · rw [hband, ← htrimN]
    rfl
  · rw [hband, ← hjudge]
    rfl
  · rw [hband, ← hjudgeN]
    rfl
  · rw [hband, ← hthr]
    rfl
  · rw [fld_of_reg (hreg _ (ecKey_ne_dieKey _ _ (by decide)).symm)]
    exact (htaken.shown d hd).1
  · rw [StartPhases.within_same hest.reach .err (by decide), StartPhases.within_same hwb .err (by decide)]

theorem estimateAlone (s : State) (paux : Nat) :
    ∃ t, exec (.engineEstimate paux none) s = .next t ∧ t.band.samples = s.band.samples ∧ t.band.p = estimateW s paux ∧ t.fld (ecKey BAND_EST) 0 24 = estimateW s paux % 2 ^ 24 ∧
      t.band.pAcc = s.band.pAcc + estimateW s paux ∧ t.band.pN = s.band.pN + 1 ∧
      t.band.ceilThr = (if s.ceil < estimateW s paux then min 8 (s.band.ceilThr + 1) else s.band.ceilThr - 1) ∧ t.band.s = s.band.s ∧
      (∀ d, d < s.part.dies → t.lastLevel d = t.engineLevel) ∧ s.regsBut t [ecKey BAND_EST] ∧ t.err = s.err ∧ t.cells = s.cells := by
  have hest := engineEstimated s paux
  have hexec : exec (.engineEstimate paux none) s = .next (s.engineEstimate paux) := rfl
  generalize s.engineEstimate paux = t at hest hexec
  refine ⟨t, hexec, ?_, ?_, hest.shown, ?_, ?_, ?_, ?_, hest.levels, hest.other, StartPhases.within_same hest.reach .err (by decide), StartPhases.within_same hest.reach .cells (by decide)⟩ <;>
    rw [hest.band] <;> rfl

end Sys2Proof.PowerEstimates
end

section
/-! PROOFS. Regions turn on in stages (R353-R370). -/

namespace Sys2Proof.RegionCommands

open Sys2Proof Sys2Proof.Machine Sys2Proof.InputPower Sys2Proof.PowerEstimates

/-- The commands on a region that a switch-off, a switch-on or a refusal answers, as the register of its die shows. -/
theorem regionCommands (s : State) (d rx ry r : Nat) (hr : r = regionAt d rx ry) (hx : rx < 8) (hy : ry < 8) (hoff : s.boot.off = false) :
    ((s.region r).st = 1 → s.regionReason r 1 = 0 →
      ∃ t o, exec (.regionComputeOn d rx ry) s = .next t ∧ (t.region r).st = 2 ∧ (t.region r).on = some o ∧ o.stage = 0 ∧ o.due = s.now ∧ o.router = false ∧ o.quarter = false ∧
        t.fld (dieKey d PWR_REG_RES) 0 2 = 1 ∧ t.fld (regionKey TEMP_R r) 21 1 = 0 ∧ t.fld (regionKey TEMP_R r) 0 21 = s.fld (regionKey TEMP_R r) 0 21 ∧
        s.regsBut t [dieKey d PWR_REG_RES, regionKey TEMP_R r] ∧ s.regionsBut t r ∧ t.err = s.err ∧ t.cells = s.cells) ∧
    ((s.region r).st = 3 ∨ (s.region r).st = 4 → s.regionReason r 2 = 0 →
      ∃ t, exec (.regionComputeOff d rx ry) s = .next t ∧ (t.region r).st = 1 ∧ (t.region r).on = none ∧ t.fld (ldoKey r 0) 17 1 = 0 ∧ t.fld (dieKey d PWR_REG_RES) 0 2 = 2 ∧
        (∀ c ∈ State.cellsOf r, ∀ k, (t.core c k).st = 0 ∧ (t.mxe c).queue = []) ∧ s.regionsBut t r ∧ t.err = s.err) ∧
    ((s.region r).st = 3 ∨ (s.region r).st = 4 ∨ (s.region r).st = 1 → s.regionReason r 3 = 0 →
      ∃ t, exec (.regionFullOff d rx ry) s = .next t ∧ t.fld (ldoKey r 0) 17 1 = 0 ∧ s.regionsBut t r ∧ t.err = s.err ∧
        if s.detourRing r = [] then (t.region r).st = 0 ∧ t.fld (ldoKey r 1) 17 1 = 0 ∧ t.fld (dieKey d PWR_REG_RES) 0 2 = 2
        else (t.region r).st = 1 ∧ (t.region r).off = .detours [] ∧ t.fld (ldoKey r 1) 17 1 = s.fld (ldoKey r 1) 17 1 ∧ t.fld (dieKey d PWR_REG_RES) 0 2 = 1) ∧
    ((s.region r).st = 2 → (s.region r).off = .idle → ∀ i full, (i = Instr.regionComputeOff d rx ry ∧ full = false ∧ s.regionReason r 2 = 0) ∨
        (i = .regionFullOff d rx ry ∧ full = true ∧ s.regionReason r 3 = 0) →
      ∃ t, exec i s = .next t ∧ (t.region r).st = 2 ∧ (t.region r).off = .next full s.interval ∧ t.fld (dieKey d PWR_REG_RES) 0 2 = 1 ∧ s.regsBut t [dieKey d PWR_REG_RES] ∧
        s.regionsBut t r ∧ t.err = s.err) ∧
    ((s.region r).st = 0 → s.regionReason r 4 = 0 →
      ∃ t o, exec (.regionRouterOn d rx ry) s = .next t ∧ (t.region r).st = 0 ∧ (t.region r).on = some o ∧ o.router = true ∧ o.stage = 0 ∧ t.fld (dieKey d PWR_REG_RES) 0 2 = 1 ∧
        s.regsBut t [dieKey d PWR_REG_RES] ∧ s.regionsBut t r ∧ t.err = s.err) ∧
    (∀ op i, (i = .regionComputeOn d rx ry ∧ op = 1 ∧ (s.region r).st ≠ 3 ∧ (s.region r).st ≠ 4) ∨ (i = .regionComputeOff d rx ry ∧ op = 2 ∧ (s.region r).st ≠ 1) ∨
        (i = .regionFullOff d rx ry ∧ op = 3 ∧ (s.region r).st ≠ 0) ∨ (i = .regionRouterOn d rx ry ∧ op = 4 ∧ (s.region r).st ≠ 1) → s.regionReason r op ≠ 0 →
      ∃ t e, exec i s = .next t ∧ t.regions = s.regions ∧ t.cells = s.cells ∧ t.fld (dieKey d PWR_REG_RES) 0 2 = 3 ∧ t.fld (dieKey d PWR_REG_RES) 2 3 = s.regionReason r op ∧
        s.regsBut t [dieKey d PWR_REG_RES] ∧ t.err.recQ = s.err.recQ ++ [e] ∧ e.cls = 0x77) := by
  have hkey : resKey r = dieKey d PWR_REG_RES := by
    unfold resKey
    rw [hr, regionDie_regionAt d hx hy]
  have hexec (op : Nat) (i : Instr) (hi : exec i s = .next (s.regionCmd (regionAt d rx ry) op)) {t : State} (ht : s.regionCmd r op = t) : exec i s = .next t := by
    rw [hi, ← hr, ht]
  rw [← hkey]
  refine ⟨fun hst hreason => ?_, fun hst hreason => ?_, fun hst hreason => ?_, fun hst hidle i full h => ?_, fun hst hreason => ?_, fun op i h hreason => ?_⟩
  · obtain ⟨t, o, ht, h⟩ := computeOn_begins hoff hst hreason
    exact ⟨t, o, hexec 1 _ rfl ht, h⟩
  · obtain ⟨t, ht, h⟩ := computeOff_acts hoff hst hreason
    exact ⟨t, hexec 2 _ rfl ht, h⟩
  · obtain ⟨t, ht, h⟩ := fullOff_acts hoff hst hreason
    exact ⟨t, hexec 3 _ rfl ht, h⟩
  · rcases h with ⟨rfl, rfl, hreason⟩ | ⟨rfl, rfl, hreason⟩
    · obtain ⟨t, ht, h⟩ := switchOff_waits 2 false (.inl ⟨rfl, rfl⟩) hoff hst hidle hreason
      exact ⟨t, hexec 2 _ rfl ht, h⟩
    · obtain ⟨t, ht, h⟩ := switchOff_waits 3 true (.inr ⟨rfl, rfl⟩) hoff hst hidle hreason
      exact ⟨t, hexec 3 _ rfl ht, h⟩
  · obtain ⟨t, o, ht, h⟩ := routerOn_begins hoff hst hreason
    exact ⟨t, o, hexec 4 _ rfl ht, h⟩
  · have hrefused := regionCmd_refused (r := r) (op := op) hoff (by omega) hreason
    obtain ⟨e, hrefuse⟩ := regionRefuse_keeps s r op (regionReason_lt s r op)
    refine ⟨_, e, ?_, hrefuse⟩
    rcases h with ⟨rfl, rfl, -, -⟩ | ⟨rfl, rfl, -⟩ | ⟨rfl, rfl, -⟩ | ⟨rfl, rfl, -⟩
    · exact hexec 1 _ rfl hrefused
    · exact hexec 2 _ rfl hrefused
    · exact hexec 3 _ rfl hrefused
    · exact hexec 4 _ rfl hrefused

/-- Settles O43: region commands, admission, the ends of a turn-on and the estimates, each by its lemma. -/
theorem regionsTurnOnInStages : Obligations.RegionsTurnOnInStages := by
  unfold Obligations.RegionsTurnOnInStages
  refine ⟨regionCommands, stageAdmitted, fun s d i k hi _ => switchOff_ends s d i k hi, fun s d rx ry r o hr hx hy hon hoff hphase hfree => ?_, activityEstimated, fun s paux p hp => ?_⟩
  · have hdie : regionDie r = d := by rw [hr, regionDie_regionAt d hx hy]
    have hkey : resKey r = dieKey d PWR_REG_RES := by rw [resKey, hdie]
    rw [← hkey]
    rw [← hdie] at hfree ⊢
    refine ⟨fun hlate hpos hquarter hwait => ?_, fun honly hfull hrouter hdue hload => ?_, fun hfull hrouter hdue => ?_, fun hfull hrouter hdue => ?_, fun hfull hrouter hdue => ?_⟩
    · obtain ⟨t, ht, h⟩ := quarterBegins hon hoff hfree hlate hpos hquarter hwait
      exact ⟨t, congrArg Host.Outcome.next ((by rw [hdie, ← hr] : s.quarter (regionAt (regionDie r) rx ry) = s.quarter r).trans ht), h⟩
    · obtain ⟨t, e, ht, h⟩ := turnOnAbandoned hon hphase hfree honly hfull hrouter hdue hload
      exact ⟨t, e, congrArg Host.Outcome.next ((by rw [hdie, ← hr] : s.turnOnAbandon (regionAt (regionDie r) rx ry) = s.turnOnAbandon r).trans ht), h⟩
    · obtain ⟨t, ht, h⟩ := computeGood hon hoff hphase hfull hrouter hdue
      exact ⟨t, congrArg Host.Outcome.next ((by rw [hdie, ← hr] : (s.powerGood (regionAt (regionDie r) rx ry)).powerSettle = (s.powerGood r).powerSettle).trans ht), h⟩
    · obtain ⟨t, ht, h⟩ := routerGood hon hoff hphase hfull hrouter hdue
      exact ⟨t, congrArg Host.Outcome.next ((by rw [hdie, ← hr] : (s.powerGood (regionAt (regionDie r) rx ry)).powerSettle = (s.powerGood r).powerSettle).trans ht), h⟩
    · obtain ⟨t, e, ht, h⟩ := goodMissed_darkens hon hoff hphase hfull hrouter hdue
      exact ⟨t, e, congrArg Host.Outcome.next ((by rw [hdie, ← hr] : (s.goodMissed (regionAt (regionDie r) rx ry)).powerSettle = (s.goodMissed r).powerSettle).trans ht), h⟩
  · obtain rfl : p = estimateW s paux := hp
    exact ⟨fun v ia ib hlo hhi hoff u hu => estimateWithReading s paux v ia ib hlo hhi hoff u hu, estimateAlone s paux⟩

end Sys2Proof.RegionCommands
end

section
/-! PROOFS. Ballast and the band controller's step (R249, R373, R374). -/

namespace Sys2Proof.BandControl

open Sys2Proof Sys2Proof.Machine Sys2Proof.Laws Sys2Proof.Clauses Sys2Proof.InputPower Sys2Proof.PowerEstimates
open Sys2Proof.Bookkeeping (SameCanvas)

variable {s t u : State} {r c : Nat} {cs : List Nat}

/-! ### Ballast of cells (R249) -/

/-- The register that enables a cell's ballast. -/
def balKey (c : Nat) : Nat := cellKey c MXE_BAL_CTRL

theorem balKey_inj {e : Nat} (h : balKey c = balKey e) : c = e := by
  unfold balKey cellKey at h
  omega

/-- What ballast set in cells leaves. -/
structure BalSet (s t : State) (cs : List Nat) (v : Nat) : Prop where
  reach : s.within [.regs] t
  set : ∀ c ∈ cs, s.written (balKey c) = false → t.fld (balKey c) 0 1 = v
  other : ∀ k, (∀ c ∈ cs, k ≠ balKey c) → t.reg k = s.reg k

theorem balSet {v : Nat} (hv : v < 2) (cs : List Nat) (s : State) : BalSet s (s.setBal v cs) cs v := by
  have hone (t : State) (c : Nat) : t.within [.regs] (t.hwFld (balKey c) 0 1 v) ∧ (∀ k, k ≠ balKey c → (t.hwFld (balKey c) 0 1 v).reg k = t.reg k) ∧
      (t.written (balKey c) = false → (t.hwFld (balKey c) 0 1 v).fld (balKey c) 0 1 = v) := by
    refine ⟨within_hwFld (List.Subset.refl _) (within_refl t), fun k hk => ?_, fun hw => ?_⟩
    · unfold State.hwFld
      split
      · rfl
      · exact reg_setFld_other _ _ _ _ hk
    · rw [State.hwFld, hw, if_neg Bool.false_ne_true, fld_setFld_same _ _ (by decide)]
      exact Nat.mod_eq_of_lt hv
  have heq (t : State) (l : List Nat) : t.setBal v l = l.foldl (fun t c => t.hwFld (balKey c) 0 1 v) t := rfl
  induction cs generalizing s with
  | nil => exact ⟨within_refl s, fun _ h => absurd h List.not_mem_nil, fun _ _ => rfl⟩
  | cons e cs ih =>
    obtain ⟨hw0, hother0, hset0⟩ := hone s e
    rw [heq, List.foldl_cons, ← heq]
    generalize s.hwFld (balKey e) 0 1 v = a at hw0 hother0 hset0
    obtain ⟨hw, hset, hother⟩ := ih a
    have hwritten (k : Nat) : a.written k = s.written k := GddrDevices.written_of_within hw0 (by decide) k
    refine ⟨within_trans hw0 hw, fun q hq hfree => ?_, fun k hk => ?_⟩
    · by_cases hin : q ∈ cs
      · exact hset q hin ((hwritten _).trans hfree)
      · obtain rfl : q = e := (List.mem_cons.1 hq).resolve_right hin
        rw [fld_of_reg (hother (balKey q) fun p hp h => hin ((balKey_inj h).symm ▸ hp)), hset0 hfree]
    · rw [hother k fun q hq => hk q (List.mem_cons_of_mem _ hq), hother0 k (hk e List.mem_cons_self)]

theorem setBal_nil (s : State) (v : Nat) : s.setBal v [] = s := rfl

/-- Registers of ballast hold nothing of the canvas. -/
theorem BalSet.canvas {v : Nat} (h : BalSet s t cs v) : SameCanvas s t :=
  .of_cellRegs h.reach.1 fun k hk => h.other k fun c _ => hk c _ (by decide)

theorem balKey_ne_die (c d : Nat) {o : Nat} (h : 0x54 < o) (ho : o < 0x1000000) : dieKey d o ≠ balKey c := by
  unfold dieKey balKey cellKey MXE_BAL_CTRL
  omega

theorem balKey_ne_ec (c : Nat) {o : Nat} (ho : o < 0x1000000) : ecKey o ≠ balKey c := by
  unfold ecKey balKey cellKey MXE_BAL_CTRL
  omega

theorem panelOf_congr (h : SameCanvas s t) (hp : t.panels = s.panels) (c : Nat) : t.panelOf c = s.panelOf c := by
  unfold State.panelOf State.panelAt State.covering
  rw [h.logicalOf, hp]

/-- Whether a cell is eligible reads nothing of the ballast registers. -/
theorem BalSet.eligible {v : Nat} (h : BalSet s t cs v) (c : Nat) : t.eligible c = s.eligible c := by
  have hreg (d : Nat) {o : Nat} (ho : 0x54 < o) (ho' : o < 0x1000000) : t.reg (dieKey d o) = s.reg (dieKey d o) := h.other _ fun e _ => balKey_ne_die e d ho ho'
  have hpanel := panelOf_congr h.canvas (StartPhases.within_same h.reach .panels (by decide)) c
  have htemp : t.reg (regionKey TEMP_R (cellRegion c)) = s.reg (regionKey TEMP_R (cellRegion c)) := hreg _ (by unfold TEMP_R; omega) (by unfold TEMP_R; omega)
  have hregion : t.region (cellRegion c) = s.region (cellRegion c) := regions_same h.reach (by decide) _
  unfold State.eligible State.temp State.coreGate State.job?
  dsimp only
  rw [h.canvas.logicalOf, hpanel, fld_of_reg (hreg (cellDie c) (by decide) (by decide)), fld_of_reg htemp, fld_of_reg htemp, hregion, StartPhases.within_same h.reach .jobs (by decide)]

theorem eligible_of_band {b : Band} (c : Nat) : ({ s with band := b } : State).eligible c = s.eligible c := rfl

/-! ### Cells that may no longer have it (R374) -/

/-- What cells leave that lose their ballast because it is no longer permitted. -/
structure Settled (s t : State) : Prop where
  reach : s.within [.regs, .band] t
  band : t.band = { s.band with nbal := s.band.nbal.filter s.eligible }
  off : ∀ c ∈ s.band.nbal, s.eligible c = false → s.written (balKey c) = false → t.fld (balKey c) 0 1 = 0
  eligible : ∀ c, t.eligible c = s.eligible c

theorem balSettle_settles (s : State) : Settled s s.balSettle := by
  have hall : s.within [.regs, .band] s.balSettle := within_balSettle (List.Subset.refl _) (within_refl s)
  unfold State.balSettle at hall ⊢
  dsimp only at hall ⊢
  have h := balSet (show 0 < 2 by decide) (s.band.nbal.filter fun c => !s.eligible c) s
  generalize s.setBal 0 (s.band.nbal.filter fun c => !s.eligible c) = a at h hall ⊢
  have hband : a.band = s.band := StartPhases.within_same h.reach .band (by decide)
  refine ⟨hall, ?_, fun c hc hno hfree => ?_, fun c => (eligible_of_band c).trans (h.eligible c)⟩
  · rw [← hband]
    rfl
  · have hset := h.set c (List.mem_filter.2 ⟨hc, by rw [hno]; rfl⟩) hfree
    exact (fld_of_regs (s := a) rfl rfl ..).trans hset

theorem balSettle_of_eligible (h : ∀ c ∈ s.band.nbal, s.eligible c = true) : s.balSettle = s := by
  have hnone : (s.band.nbal.filter fun c => !s.eligible c) = [] := List.filter_eq_nil_iff.2 fun c hc => by
    rw [h c hc]
    decide
  have hall : s.band.nbal.filter s.eligible = s.band.nbal := List.filter_eq_self.2 h
  unfold State.balSettle
  dsimp only
  rw [hnone, setBal_nil, hall]
  rfl

/-! ### Ballast released and enabled (R373) -/

/-- What ballast released in the newest cells leaves. -/
structure BalReleased (s t : State) (n : Nat) : Prop where
  reach : s.within [.regs, .band] t
  band : t.band = { s.band with nbal := s.band.nbal.drop n }
  off : ∀ c ∈ s.band.nbal.take n, s.written (balKey c) = false → t.fld (balKey c) 0 1 = 0
  other : ∀ k, (∀ c ∈ s.band.nbal.take n, k ≠ balKey c) → t.reg k = s.reg k

theorem balOff_releases (s : State) (n : Nat) : BalReleased s (s.balOff n) n := by
  unfold State.balOff
  have h := balSet (show 0 < 2 by decide) (s.band.nbal.take n) s
  generalize s.setBal 0 (s.band.nbal.take n) = a at h ⊢
  have hregs (k : Nat) : (a.setBand { s.band with nbal := s.band.nbal.drop n }).reg k = a.reg k := reg_of_regs rfl rfl k
  exact ⟨within_setBand (by decide) (within_mono h.reach (by decide)), rfl, fun c hc hfree => (fld_of_reg (hregs _) ..).trans (h.set c hc hfree), fun k hk => (hregs k).trans (h.other k hk)⟩

/-- Cells that get ballast next. -/
def nextCells (s : State) (n : Nat) : List Nat := (s.eligibleCells.filter fun c => !s.band.nbal.contains c).take n

/-- What ballast enabled in further cells leaves. -/
structure BalEnabled (s t : State) (n : Nat) : Prop where
  reach : s.within [.regs, .band] t
  band : t.band = { s.band with nbal := (nextCells s n).reverse ++ s.band.nbal }
  on : ∀ c ∈ nextCells s n, s.written (balKey c) = false → t.fld (balKey c) 0 1 = 1
  other : ∀ k, (∀ c ∈ nextCells s n, k ≠ balKey c) → t.reg k = s.reg k

theorem balOn_enables (s : State) (n : Nat) : BalEnabled s (s.balOn n) n := by
  have heq : s.balOn n = (s.setBal 1 (nextCells s n)).setBand { s.band with nbal := (nextCells s n).reverse ++ s.band.nbal } := rfl
  rw [heq]
  have h := balSet (show 1 < 2 by decide) (nextCells s n) s
  generalize s.setBal 1 (nextCells s n) = a at h ⊢
  have hregs (k : Nat) : (a.setBand { s.band with nbal := (nextCells s n).reverse ++ s.band.nbal }).reg k = a.reg k := reg_of_regs rfl rfl k
  exact ⟨within_setBand (by decide) (within_mono h.reach (by decide)), rfl, fun c hc hfree => (fld_of_reg (hregs _) ..).trans (h.set c hc hfree), fun k hk => (hregs k).trans (h.other k hk)⟩

theorem eligible_of_next {n : Nat} (h : c ∈ nextCells s n) : s.eligible c = true := by
  have hf := List.mem_of_mem_take h
  exact (List.mem_filter.1 (List.mem_filter.1 hf).1).2

/-! ### The step (R373) -/

/-- What the step does to a settled state in rack mode. -/
def stepOn (s : State) : State :=
  let b := s.band
  let p := uW b.p
  if min (b.s * (200 + s.tol) / 200) (uW s.ceil) < p then
    if b.nbal ≠ [] then s.balOff (4 * s.balStep)
    else (s.setBand { b with throttle := min 8 (b.throttle + 1) }).issueLevel
  else if b.s < p then s.balOff s.balStep
  else if p < b.s then
    if 0 < b.throttle then
      if p < b.s * (400 - s.tol) / 400 then (s.setBand { b with throttle := b.throttle - 1 }).issueLevel else s
    else s.balOn s.balStep
  else s

theorem bandStep_eq (s : State) : s.bandStep = if s.balSettle.band.mode ≠ 1 ∨ s.balSettle.band.stopped = true then s.balSettle else stepOn s.balSettle := rfl

theorem bandStep_of_rack (hmode : s.band.mode = 1) (hrun : s.band.stopped = false) (hel : ∀ c ∈ s.band.nbal, s.eligible c = true) : s.bandStep = stepOn s := by
  rw [bandStep_eq, balSettle_of_eligible hel, if_neg]
  rw [hmode, hrun]
  decide

/-- A throttle set, its level issued. -/
theorem throttleSet (s : State) (b : Band) : (s.setBand b).issueLevel.band = b ∧ (s.setBand b).issueLevel.regs = s.regs ∧ (s.setBand b).issueLevel.cells = s.cells ∧ (s.setBand b).issueLevel.err = s.err := by
  obtain ⟨hw, -⟩ := issueLevel_issues (s.setBand b)
  exact ⟨StartPhases.within_same hw .band (by decide), StartPhases.within_same hw .regs (by decide), StartPhases.within_same hw .cells (by decide), StartPhases.within_same hw .err (by decide)⟩

theorem stepOn_releases (hfree : ∀ c, s.written (balKey c) = false) (hover : min (s.band.s * (200 + s.tol) / 200) (uW s.ceil) < uW s.band.p) (hbal : s.band.nbal ≠ []) :
    ∃ t, stepOn s = t ∧ t.band = { s.band with nbal := s.band.nbal.drop (4 * s.balStep) } ∧ (∀ c ∈ s.band.nbal.take (4 * s.balStep), t.fld (balKey c) 0 1 = 0) ∧
      (∀ k, (∀ c ∈ s.band.nbal.take (4 * s.balStep), k ≠ balKey c) → t.reg k = s.reg k) ∧ t.cells = s.cells ∧ t.err = s.err := by
  have h := balOff_releases s (4 * s.balStep)
  refine ⟨_, (if_pos hover).trans (if_pos hbal), h.band, fun c hc => h.off c hc (hfree c), h.other, StartPhases.within_same h.reach .cells (by decide), StartPhases.within_same h.reach .err (by decide)⟩

theorem stepOn_throttles (hover : min (s.band.s * (200 + s.tol) / 200) (uW s.ceil) < uW s.band.p) (hbal : s.band.nbal = []) :
    ∃ t, stepOn s = t ∧ t.band = { s.band with throttle := min 8 (s.band.throttle + 1) } ∧ t.regs = s.regs ∧ t.cells = s.cells ∧ t.err = s.err :=
  ⟨_, (if_pos hover).trans (if_neg (by rw [hbal]; decide)), throttleSet _ _⟩

theorem stepOn_releases_one (hbound : uW s.band.p ≤ min (s.band.s * (200 + s.tol) / 200) (uW s.ceil)) (hover : s.band.s < uW s.band.p) :
    ∃ t, stepOn s = t ∧ t.band = { s.band with nbal := s.band.nbal.drop s.balStep } ∧ t.cells = s.cells ∧ t.err = s.err := by
  have h := balOff_releases s s.balStep
  exact ⟨_, (if_neg (Nat.not_lt.2 hbound)).trans (if_pos hover), h.band, StartPhases.within_same h.reach .cells (by decide), StartPhases.within_same h.reach .err (by decide)⟩

theorem bound_of_below (hceil : uW s.band.p ≤ uW s.ceil) (hbelow : uW s.band.p < s.band.s) : ¬min (s.band.s * (200 + s.tol) / 200) (uW s.ceil) < uW s.band.p := by
  have hle : s.band.s ≤ s.band.s * (200 + s.tol) / 200 := (Nat.le_div_iff_mul_le (by decide)).2 (Nat.mul_le_mul_left _ (Nat.le_add_right ..))
  exact Nat.not_lt.2 (le_min (hbelow.le.trans hle) hceil)

theorem stepOn_unthrottles (hceil : uW s.band.p ≤ uW s.ceil) (hbelow : uW s.band.p < s.band.s) (hthr : 0 < s.band.throttle) (hlow : uW s.band.p < s.band.s * (400 - s.tol) / 400) :
    ∃ t, stepOn s = t ∧ t.band = { s.band with throttle := s.band.throttle - 1 } ∧ t.regs = s.regs ∧ t.err = s.err := by
  obtain ⟨hband, hregs, -, herr⟩ := throttleSet s { s.band with throttle := s.band.throttle - 1 }
  exact ⟨_, (if_neg (bound_of_below hceil hbelow)).trans ((if_neg hbelow.not_gt).trans ((if_pos hbelow).trans ((if_pos hthr).trans (if_pos hlow)))), hband, hregs, herr⟩

theorem stepOn_enables (hfree : ∀ c, s.written (balKey c) = false) (hceil : uW s.band.p ≤ uW s.ceil) (hbelow : uW s.band.p < s.band.s) (hthr : s.band.throttle = 0) :
    ∃ t, stepOn s = t ∧ t.band = { s.band with nbal := (nextCells s s.balStep).reverse ++ s.band.nbal } ∧ (∀ c ∈ nextCells s s.balStep, t.fld (balKey c) 0 1 = 1) ∧
      (∀ k, (∀ c ∈ nextCells s s.balStep, k ≠ balKey c) → t.reg k = s.reg k) ∧ t.err = s.err := by
  have h := balOn_enables s s.balStep
  exact ⟨_, (if_neg (bound_of_below hceil hbelow)).trans ((if_neg hbelow.not_gt).trans ((if_pos hbelow).trans (if_neg (by rw [hthr]; decide)))), h.band, fun c hc => h.on c hc (hfree c), h.other,
    StartPhases.within_same h.reach .err (by decide)⟩

/-- What a step can do to a settled state. -/
theorem stepOn_cases (s : State) : (∃ n, stepOn s = s.balOff n) ∨ (∃ n, stepOn s = (s.setBand { s.band with throttle := n }).issueLevel) ∨ stepOn s = s.balOn s.balStep ∨ stepOn s = s := by
  by_cases hbound : min (s.band.s * (200 + s.tol) / 200) (uW s.ceil) < uW s.band.p
  · by_cases hbal : s.band.nbal = []
    · exact .inr (.inl ⟨_, (if_pos hbound).trans (if_neg (not_not.2 hbal))⟩)
    · exact .inl ⟨_, (if_pos hbound).trans (if_pos hbal)⟩
  by_cases hover : s.band.s < uW s.band.p
  · exact .inl ⟨_, (if_neg hbound).trans (if_pos hover)⟩
  by_cases hbelow : uW s.band.p < s.band.s
  · by_cases hthr : 0 < s.band.throttle
    · by_cases hlow : uW s.band.p < s.band.s * (400 - s.tol) / 400
      · exact .inr (.inl ⟨_, (if_neg hbound).trans ((if_neg hover).trans ((if_pos hbelow).trans ((if_pos hthr).trans (if_pos hlow))))⟩)
      · exact .inr (.inr (.inr ((if_neg hbound).trans ((if_neg hover).trans ((if_pos hbelow).trans ((if_pos hthr).trans (if_neg hlow)))))))
    · exact .inr (.inr (.inl ((if_neg hbound).trans ((if_neg hover).trans ((if_pos hbelow).trans (if_neg hthr))))))
  · exact .inr (.inr (.inr ((if_neg hbound).trans ((if_neg hover).trans (if_neg hbelow)))))

theorem released_keeps_off (n : Nat) (hc : c ∉ s.band.nbal) : c ∉ (s.balOff n).band.nbal ∧ (s.fld (balKey c) 0 1 = 0 → (s.balOff n).fld (balKey c) 0 1 = 0) := by
  have h := balOff_releases s n
  refine ⟨fun hin => hc ?_, fun hoff => ?_⟩
  · rw [h.band] at hin
    exact List.mem_of_mem_drop hin
  · rw [fld_of_reg (h.other (balKey c) fun e he hk => hc ((balKey_inj hk).symm ▸ List.mem_of_mem_take he)), hoff]

theorem enabled_keeps_off (n : Nat) (hc : c ∉ s.band.nbal) (hel : s.eligible c = false) : c ∉ (s.balOn n).band.nbal ∧ (s.fld (balKey c) 0 1 = 0 → (s.balOn n).fld (balKey c) 0 1 = 0) := by
  have h := balOn_enables s n
  have hnot (q : Nat) (hq : q ∈ nextCells s n) : q ≠ c := fun hqc => by
    have := eligible_of_next hq
    rw [hqc, hel] at this
    exact Bool.false_ne_true this
  refine ⟨fun hin => ?_, fun hoff => ?_⟩
  · rw [h.band] at hin
    exact (List.mem_append.1 hin).elim (fun hr => hnot c (List.mem_reverse.1 hr) rfl) hc
  · rw [fld_of_reg (h.other (balKey c) fun e he hk => hnot e he (balKey_inj hk).symm), hoff]

theorem throttled_keeps_off (n : Nat) (hc : c ∉ s.band.nbal) : c ∉ (s.setBand { s.band with throttle := n }).issueLevel.band.nbal ∧
    (s.fld (balKey c) 0 1 = 0 → (s.setBand { s.band with throttle := n }).issueLevel.fld (balKey c) 0 1 = 0) := by
  obtain ⟨hw, -⟩ := issueLevel_issues (s.setBand { s.band with throttle := n })
  obtain ⟨hband, hregs, -, -⟩ := throttleSet s { s.band with throttle := n }
  have hpart : (s.setBand { s.band with throttle := n }).issueLevel.part = s.part := hw.1
  generalize (s.setBand { s.band with throttle := n }).issueLevel = a at hband hregs hpart
  rw [hband, fld_of_regs hpart hregs]
  exact ⟨hc, id⟩

/-- A step neither gives ballast to a cell that is not eligible nor takes it back on where it is off. -/
theorem stepOn_keeps_off (hc : c ∉ s.band.nbal) (hel : s.eligible c = false) : c ∉ (stepOn s).band.nbal ∧ (s.fld (balKey c) 0 1 = 0 → (stepOn s).fld (balKey c) 0 1 = 0) := by
  rcases stepOn_cases s with ⟨n, h⟩ | ⟨n, h⟩ | h | h <;> rw [h]
  · exact released_keeps_off n hc
  · exact throttled_keeps_off n hc
  · exact enabled_keeps_off _ hc hel
  · exact ⟨hc, id⟩

theorem bandStep_withdraws (s : State) : ∃ t, exec .bandControlStep s = .next t ∧ ∀ c ∈ s.band.nbal, s.eligible c = false → c ∉ t.band.nbal ∧
    (s.written (balKey c) = false → t.fld (balKey c) 0 1 = 0) := by
  have hexec : exec .bandControlStep s = .next (if s.balSettle.band.mode ≠ 1 ∨ s.balSettle.band.stopped = true then s.balSettle else stepOn s.balSettle) := congrArg Host.Outcome.next (bandStep_eq s)
  have h := balSettle_settles s
  generalize s.balSettle = a at h hexec
  refine ⟨_, hexec, fun c hc hel => ?_⟩
  have hout : c ∉ a.band.nbal := fun hin => by
    rw [h.band] at hin
    have := (List.mem_filter.1 hin).2
    rw [hel] at this
    exact Bool.false_ne_true this
  split
  · exact ⟨hout, h.off c hc hel⟩
  · obtain ⟨hnot, hoff⟩ := stepOn_keeps_off hout ((h.eligible c).trans hel)
    exact ⟨hnot, fun hfree => hoff (h.off c hc hel hfree)⟩

end Sys2Proof.BandControl
end

section
/-! PROOFS. The trim factor, judged intervals and average mode (R368-R371, R375). -/

namespace Sys2Proof.BandControl

open Sys2Proof Sys2Proof.Machine Sys2Proof.Laws Sys2Proof.Clauses Sys2Proof.InputPower Sys2Proof.PowerEstimates

variable {s t u : State} {avg : Nat}

/-! ### The trim factor (R368) -/

theorem trimNext_range (g raw : Nat) : 29492 ≤ (State.trimNext g raw).1 ∧ (State.trimNext g raw).1 ≤ 36044 := by
  unfold State.trimNext
  dsimp only
  split
  · exact ⟨le_refl _, by decide⟩
  · split
    · exact ⟨by decide, le_refl _⟩
    · dsimp only
      omega

theorem trimNext_value (g raw : Nat) : (State.trimNext g raw).1 = min (max (max (g - g / 100) (min (g + g / 100) raw)) 29492) 36044 ∧
    ((State.trimNext g raw).2 = true ↔ max (g - g / 100) (min (g + g / 100) raw) < 29492 ∨ 36044 < max (g - g / 100) (min (g + g / 100) raw)) := by
  unfold State.trimNext
  dsimp only
  generalize max (g - g / 100) (min (g + g / 100) raw) = a
  split
  · exact ⟨by omega, iff_of_true rfl (.inl ‹_›)⟩
  · split
    · exact ⟨by omega, iff_of_true rfl (.inr ‹_›)⟩
    · exact ⟨by omega, iff_of_false Bool.false_ne_true (by omega)⟩

/-- The update's end: G taken, the ceiling with it, and what the limit held logged once. -/
def trimTake (a : State) (r : Nat × Bool) (logged : Bool) : State :=
  let s1 := (a.setFld (ecKey BAND_TRIM) 0 16 r.1).updateCeil false
  let s2 := s1.setBand { s1.band with trimLogged := r.2 }
  if r.2 && !logged then s2.bandRec 11 else s2

/-- What the update's end leaves. -/
structure TrimTaken (s t : State) (r : Nat × Bool) (logged : Bool) : Prop where
  trim : t.fld (ecKey BAND_TRIM) 0 16 = r.1
  sums : t.band.pAcc = s.band.pAcc ∧ t.band.pN = s.band.pN ∧ t.band.trimSum = s.band.trimSum ∧ t.band.trimCnt = s.band.trimCnt ∧ t.band.trimIv = s.band.trimIv
  setPoint : t.band.s = s.band.s
  free : t.free = s.free
  calm : (r.2 && !logged) = false → t.err = s.err
  held : (r.2 && !logged) = true → s.logs t 0x7A (.engine 0) 11

theorem updateCeil_sums (a : State) : (a.updateCeil false).band.pAcc = a.band.pAcc ∧ (a.updateCeil false).band.pN = a.band.pN ∧ (a.updateCeil false).band.trimSum = a.band.trimSum ∧
    (a.updateCeil false).band.trimCnt = a.band.trimCnt ∧ (a.updateCeil false).band.trimIv = a.band.trimIv ∧ (a.updateCeil false).band.s = a.band.s := ⟨rfl, rfl, rfl, rfl, rfl, rfl⟩

theorem trimTake_takes (a : State) {r : Nat × Bool} (logged : Bool) (hr : r.1 < 2 ^ 16) : TrimTaken a (trimTake a r logged) r logged := by
  have hset : (a.setFld (ecKey BAND_TRIM) 0 16 r.1).fld (ecKey BAND_TRIM) 0 16 = r.1 := (fld_setFld_same _ _ (by decide)).trans (Nat.mod_eq_of_lt hr)
  have hw0 : a.within [.regs] (a.setFld (ecKey BAND_TRIM) 0 16 r.1) := within_setFld (List.Subset.refl _) (within_refl a)
  unfold trimTake
  dsimp only
  generalize a.setFld (ecKey BAND_TRIM) 0 16 r.1 = b at hset hw0 ⊢
  have hc := updateCeil_keeps b false
  have hsums := updateCeil_sums b
  generalize b.updateCeil false = c at hc hsums ⊢
  have htrim : c.fld (ecKey BAND_TRIM) 0 16 = r.1 := (fld_of_reg (hc.other _ (by decide) (by decide)) ..).trans hset
  have hband : b.band = a.band := StartPhases.within_same hw0 .band (by decide)
  rw [hband] at hsums
  have herr : c.err = a.err := (StartPhases.within_same hc.reach .err (by decide)).trans (StartPhases.within_same hw0 .err (by decide))
  have hfree : c.free = a.free := (StartPhases.within_same hc.reach .free (by decide)).trans (StartPhases.within_same hw0 .free (by decide))
  obtain ⟨h1, h2, h3, h4, h5, h6⟩ := hsums
  have hd : (c.setBand { c.band with trimLogged := r.2 }).fld (ecKey BAND_TRIM) 0 16 = r.1 ∧ (c.setBand { c.band with trimLogged := r.2 }).band = { c.band with trimLogged := r.2 } ∧
      (c.setBand { c.band with trimLogged := r.2 }).err = c.err ∧ (c.setBand { c.band with trimLogged := r.2 }).free = c.free := ⟨(fld_of_regs (s := c) rfl rfl ..).trans htrim, rfl, rfl, rfl⟩
  generalize c.setBand { c.band with trimLogged := r.2 } = e at hd ⊢
  obtain ⟨hdtrim, hdband, hderr, hdfree⟩ := hd
  cases hlog : r.2 && !logged with
  | true =>
    rw [if_pos rfl]
    unfold State.bandRec
    refine ⟨(raise_fld ..).trans hdtrim, ?_, ?_, ?_, fun h => absurd (hlog.symm.trans h) (by decide), fun _ => logs_raise (congrArg _ (hderr.trans herr)) ..⟩
    · rw [raise_band, hdband]
      exact ⟨h1, h2, h3, h4, h5⟩
    · rw [raise_band, hdband]
      exact h6
    · rw [raise_free, hdfree, hfree]
  | false =>
    rw [if_neg Bool.false_ne_true]
    refine ⟨hdtrim, ?_, ?_, hdfree.trans hfree, fun _ => hderr.trans herr, fun h => absurd (hlog.symm.trans h) (by decide)⟩
    · rw [hdband]
      exact ⟨h1, h2, h3, h4, h5⟩
    · rw [hdband]
      exact h6

/-- The sums of an interval, cleared at its end. -/
def trimStart (s : State) : State := s.setBand { s.band with pAcc := 0, pN := 0, trimSum := 0, trimCnt := 0, trimIv := s.interval100 }

/-- The quotient that the update takes. -/
def trimRaw (s : State) : Nat :=
  let est := if s.band.pN = 0 then 0 else s.band.pAcc / s.band.pN
  if est = 0 then (Config.freeWord s.free).toNat else s.fld (ecKey BAND_TRIM) 0 16 * s.meanOf s.band.trimSum s.band.trimCnt / est

/-- Whether the quotient or a mean is a free value. -/
def trimOpen (s : State) : Bool := decide ((if s.band.pN = 0 then 0 else s.band.pAcc / s.band.pN) = 0) || decide (s.band.trimCnt = 0)

theorem trimStart_fld (s : State) (k lo w : Nat) : (trimStart s).fld k lo w = s.fld k lo w := fld_of_regs rfl rfl ..

theorem trimUpdate_eq (h : s.band.trimIv ≠ s.interval100) : s.trimUpdate =
    trimTake (if trimOpen s = true then (trimStart s).fresh else trimStart s) (State.trimNext (s.fld (ecKey BAND_TRIM) 0 16) (trimRaw s)) s.band.trimLogged := by
  unfold trimRaw
  rw [← trimStart_fld s]
  exact if_neg h

theorem trimUpdated (h : s.band.trimIv ≠ s.interval100) : ∃ t, exec .trimUpdate s = .next t ∧ 29492 ≤ t.fld (ecKey BAND_TRIM) 0 16 ∧ t.fld (ecKey BAND_TRIM) 0 16 ≤ 36044 ∧
    t.band.pAcc = 0 ∧ t.band.pN = 0 ∧ t.band.trimSum = 0 ∧ t.band.trimCnt = 0 ∧ t.band.trimIv = s.interval100 := by
  have hrange := trimNext_range (s.fld (ecKey BAND_TRIM) 0 16) (trimRaw s)
  have hexec : exec .trimUpdate s = .next _ := congrArg Host.Outcome.next (trimUpdate_eq h)
  have hstart : (if trimOpen s = true then (trimStart s).fresh else trimStart s).band = (trimStart s).band := by
    split <;> rfl
  have ht := trimTake_takes (if trimOpen s = true then (trimStart s).fresh else trimStart s) (r := State.trimNext (s.fld (ecKey BAND_TRIM) 0 16) (trimRaw s)) s.band.trimLogged (by omega)
  obtain ⟨h1, h2, h3, h4, h5⟩ := ht.sums
  rw [hstart] at h1 h2 h3 h4 h5
  rw [← ht.trim] at hrange
  exact ⟨_, hexec, hrange.1, hrange.2, h1, h2, h3, h4, h5⟩

theorem trimMeasured (s : State) (meas est g a : Nat) (hg : g = s.fld (ecKey BAND_TRIM) 0 16) (h : s.band.trimIv ≠ s.interval100) (hcnt : 0 < s.band.trimCnt) (hmeas : meas = s.band.trimSum / s.band.trimCnt)
    (hn : 0 < s.band.pN) (hest : est = s.band.pAcc / s.band.pN) (hpos : 0 < est) (ha : a = max (g - g / 100) (min (g + g / 100) (g * meas / est))) :
    ∃ t, exec .trimUpdate s = .next t ∧ t.fld (ecKey BAND_TRIM) 0 16 = min (max a 29492) 36044 ∧ t.free = s.free ∧ t.band.s = s.band.s ∧
      (29492 ≤ a ∧ a ≤ 36044 → t.err = s.err) ∧ ((a < 29492 ∨ 36044 < a) → s.band.trimLogged = false → s.logs t 0x7A (.engine 0) 11) := by
  have hestimate : (if s.band.pN = 0 then 0 else s.band.pAcc / s.band.pN) = est := by rw [if_neg (by omega), hest]
  have hraw : trimRaw s = g * meas / est := by
    unfold trimRaw State.meanOf
    dsimp only
    rw [hestimate, if_neg (by omega), if_neg (by omega), ← hmeas, ← hg]
  have hclosed : trimOpen s = false := by
    unfold trimOpen
    rw [hestimate, decide_eq_false (by omega), decide_eq_false (by omega)]
    rfl
  have hexec : exec .trimUpdate s = .next _ := congrArg Host.Outcome.next (trimUpdate_eq h)
  rw [hraw, hclosed, if_neg Bool.false_ne_true, ← hg] at hexec
  obtain ⟨hvalue, hheld⟩ := trimNext_value g (g * meas / est)
  have hrange := trimNext_range g (g * meas / est)
  rw [← ha] at hvalue hheld
  have ht := trimTake_takes (trimStart s) (r := State.trimNext g (g * meas / est)) s.band.trimLogged (by omega)
  refine ⟨_, hexec, ht.trim.trans hvalue, ht.free, ht.setPoint, fun hin => ht.calm ?_, fun hout hnew => ?_⟩
  · rw [show (State.trimNext g (g * meas / est)).2 = false from Bool.eq_false_iff.2 fun h => by have := hheld.1 h; omega]
    rfl
  · exact logs_from (ht.held (by rw [hheld.2 hout, hnew]; rfl)) rfl

/-! ### Intervals judged (R375) -/

/-- An interval's end, before its judgement. -/
def judgeStart (s : State) (avg : Nat) : State :=
  (s.setBand { s.band with lastAvg := avg, sAcc := 0, sN := 0, exc := false, judgeSum := 0, judgeCnt := 0, judgeIv := s.interval100 }).setFld (ecKey BAND_MEAS) 0 24 avg

/-- What an interval's end leaves. -/
structure JudgeStarted (s t : State) (avg : Nat) : Prop where
  reach : s.within [.regs, .band] t
  measured : t.fld (ecKey BAND_MEAS) 0 24 = avg % 2 ^ 24
  band : t.band.exc = false ∧ t.band.lastAvg = avg ∧ t.band.sN = 0
  logged : t.band.oobLogged = s.band.oobLogged
  other : s.regsBut t [ecKey BAND_MEAS]

theorem judgeStart_keeps (s : State) (avg : Nat) : JudgeStarted s (judgeStart s avg) avg := by
  refine ⟨within_setFld (by decide) (within_setBand (by decide) (within_refl s)), fld_setFld_same _ _ (by decide), ?_, ?_, fun k hk => ?_⟩
  · unfold judgeStart
    rw [setFld_band]
    exact ⟨rfl, rfl, rfl⟩
  · unfold judgeStart
    rw [setFld_band]
    rfl
  · exact (reg_setFld_other _ _ _ _ fun h => hk (List.mem_singleton.2 h)).trans (reg_of_regs rfl rfl k)

/-- The judgement of an interval, its average taken. -/
def judgement (s : State) (avg : Nat) : State :=
  let s0 := judgeStart s avg
  let lo := uW avg < s.meanS * (200 - s.tol) / 200
  let hi := s.meanS * (200 + s.tol) / 200 < uW avg
  if s.band.mode ≠ 1 ∨ s.band.exc then s0
  else if lo && decide (s.band.nbal.length = s.eligibleCells.length) then
    let s1 := ((s0.setInterval false true false).incSatUn (ecKey BAND_OOB) 0 16 1).setBand { s0.band with oobLogged := true }
    if s.band.oobLogged then s1 else (s1.bandRec 9).sendEvent 5
  else if hi && decide (s.band.throttle = 8) then
    let s1 := ((s0.setInterval false false true).incSatUn (ecKey BAND_OOB) 16 16 1).setBand { s0.band with oobLogged := true }
    if s.band.oobLogged then s1 else (s1.bandRec 10).sendEvent 5
  else (s0.setInterval (!lo && !hi) false false).setBand { s0.band with oobLogged := s0.band.oobLogged && (lo || hi) }

theorem intervalJudge_eq (h : s.band.judgeIv ≠ s.interval100) (hcnt : 0 < s.band.judgeCnt) : s.intervalJudge = judgement s (s.band.judgeSum / s.band.judgeCnt) := by
  have hmean : s.meanOf s.band.judgeSum s.band.judgeCnt = s.band.judgeSum / s.band.judgeCnt := if_neg (by omega)
  have hsome : (if s.band.judgeCnt = 0 then s.fresh else s) = s := if_neg (by omega)
  unfold State.intervalJudge
  dsimp only
  rw [if_neg h, hmean, hsome]
  rfl

/-- One excursion counted, its record and event with it. -/
structure Excursion (s t : State) (lo reason bits : Nat) : Prop where
  shown : t.fld (ecKey BAND_STAT) 0 3 = bits
  count : t.fld (ecKey BAND_OOB) lo 16 = min (s.fld (ecKey BAND_OOB) lo 16 + 1) 0xFFFF
  record : s.logs t 0x7A (.engine 0) reason

theorem setInterval_sets (s : State) (inb under above : Bool) : (s.setInterval inb under above).fld (ecKey BAND_STAT) 0 3 = (if inb then 1 else 0) + (if under then 2 else 0) + (if above then 4 else 0) ∧
    ∀ k, k ≠ ecKey BAND_STAT → (s.setInterval inb under above).reg k = s.reg k := by
  refine ⟨?_, fun k hk => reg_setFld_other _ _ _ _ hk⟩
  unfold State.setInterval
  rw [fld_setFld_same _ _ (by decide)]
  cases inb <;> cases under <;> cases above <;> rfl

theorem sendEvent_keeps (s : State) (code : Nat) : (s.sendEvent code).err = s.err ∧ ∀ k, (s.sendEvent code).reg k = s.reg k := by
  have hw : s.within [.out, .free] (s.sendEvent code) := within_sendEvent (List.Subset.refl _) (within_refl s)
  exact ⟨StartPhases.within_same hw .err (by decide), reg_of_regs hw.1 (StartPhases.within_same hw .regs (by decide))⟩

theorem excursion (s : State) (avg reason lo : Nat) (under above : Bool) (b : Band) (hlo : lo + 16 ≤ 64) (hfree : s.written (ecKey BAND_OOB) = false) :
    Excursion s ((((((judgeStart s avg).setInterval false under above).incSatUn (ecKey BAND_OOB) lo 16 1).setBand b).bandRec reason).sendEvent 5) lo reason ((if under then 2 else 0) + (if above then 4 else 0)) := by
  have h := judgeStart_keeps s avg
  generalize judgeStart s avg = a at h ⊢
  obtain ⟨hstat, hother⟩ := setInterval_sets a false under above
  have hwb : a.within [.regs] (a.setInterval false under above) := within_setFld (List.Subset.refl _) (within_refl a)
  rw [if_neg Bool.false_ne_true, Nat.zero_add] at hstat
  generalize a.setInterval false under above = x at hstat hother hwb ⊢
  have hwritten : x.written (ecKey BAND_OOB) = false := (GddrDevices.written_of_within hwb (by decide) _).trans ((GddrDevices.written_of_within h.reach (by decide) _).trans hfree)
  have hc := RegionCommands.counted x (lo := lo) (w := 16) hwritten hlo
  generalize x.incSatUn (ecKey BAND_OOB) lo 16 1 = y at hc ⊢
  have hz : (y.setBand b).err = y.err ∧ ∀ k, (y.setBand b).reg k = y.reg k := ⟨rfl, fun k => reg_of_regs rfl rfl k⟩
  generalize y.setBand b = z at hz ⊢
  have hrec : z.logs (z.bandRec reason) 0x7A (.engine 0) reason := logs_raise rfl ..
  have hrecreg (k : Nat) : (z.bandRec reason).reg k = z.reg k := raise_reg ..
  generalize z.bandRec reason = v at hrec hrecreg ⊢
  obtain ⟨herr, hreg⟩ := sendEvent_keeps v 5
  have hall (k : Nat) : (v.sendEvent 5).reg k = y.reg k := (hreg k).trans ((hrecreg k).trans (hz.2 k))
  have hoob : x.fld (ecKey BAND_OOB) lo 16 = s.fld (ecKey BAND_OOB) lo 16 := by
    rw [fld_of_reg (hother _ (by decide)), fld_of_regsBut h.other (by decide)]
  have hzerr : z.err = s.err :=
    hz.1.trans ((StartPhases.within_same hc.reach .err (by decide)).trans ((StartPhases.within_same hwb .err (by decide)).trans (StartPhases.within_same h.reach .err (by decide))))
  refine ⟨?_, ?_, logs_of_err (logs_from hrec hzerr) (congrArg _ herr)⟩
  · rw [fld_of_reg (hall _), fld_of_regsBut hc.other (by decide), hstat]
  · rw [fld_of_reg (hall _), hc.count, hoob]
    rfl

theorem intervalJudged (s : State) (avg m : Nat) (hm : m = s.meanS) (hmode : s.band.mode = 1) (hfree : s.written (ecKey BAND_OOB) = false) (hiv : s.band.judgeIv ≠ s.interval100) (hcnt : 0 < s.band.judgeCnt)
    (havg : avg = s.band.judgeSum / s.band.judgeCnt) :
    (s.band.exc = true → ∃ t, exec .bandIntervalJudge s = .next t ∧ t.band.exc = false ∧ t.band.lastAvg = avg ∧ t.band.sN = 0 ∧ t.fld (ecKey BAND_MEAS) 0 24 = avg % 2 ^ 24 ∧
      s.regsBut t [ecKey BAND_MEAS] ∧ t.err = s.err) ∧
    (s.band.exc = false → m * (200 - s.tol) / 200 ≤ uW avg → uW avg ≤ m * (200 + s.tol) / 200 →
      ∃ t, exec .bandIntervalJudge s = .next t ∧ t.fld (ecKey BAND_STAT) 0 3 = 1 ∧ t.fld (ecKey BAND_MEAS) 0 24 = avg % 2 ^ 24 ∧ t.band.lastAvg = avg ∧ t.band.sN = 0 ∧
        s.regsBut t [ecKey BAND_STAT, ecKey BAND_MEAS] ∧ t.err = s.err) ∧
    (s.band.exc = false → uW avg < m * (200 - s.tol) / 200 → s.band.nbal.length = s.eligibleCells.length → s.band.oobLogged = false →
      ∃ t, exec .bandIntervalJudge s = .next t ∧ t.fld (ecKey BAND_STAT) 0 3 = 2 ∧ t.fld (ecKey BAND_OOB) 0 16 = min (s.fld (ecKey BAND_OOB) 0 16 + 1) 0xFFFF ∧
        s.logs t 0x7A (.engine 0) 9) ∧
    (s.band.exc = false → m * (200 + s.tol) / 200 < uW avg → s.band.throttle = 8 → s.band.oobLogged = false →
      ∃ t, exec .bandIntervalJudge s = .next t ∧ t.fld (ecKey BAND_STAT) 0 3 = 4 ∧ t.fld (ecKey BAND_OOB) 16 16 = min (s.fld (ecKey BAND_OOB) 16 16 + 1) 0xFFFF ∧
        s.logs t 0x7A (.engine 0) 10) := by
  have hexec : exec .bandIntervalJudge s = .next (judgement s avg) := congrArg Host.Outcome.next (havg ▸ intervalJudge_eq hiv hcnt)
  have hstart := judgeStart_keeps s avg
  unfold judgement at hexec
  dsimp only at hexec
  rw [← hm] at hexec
  have horder : m * (200 - s.tol) / 200 ≤ m * (200 + s.tol) / 200 := Nat.div_le_div_right (Nat.mul_le_mul_left _ (by omega))
  refine ⟨fun hexc => ?_, fun hexc hlo hhi => ?_, fun hexc hlo hfull hnew => ?_, fun hexc hhi hthr hnew => ?_⟩
  · rw [if_pos (.inr hexc)] at hexec
    exact ⟨_, hexec, hstart.band.1, hstart.band.2.1, hstart.band.2.2, hstart.measured, hstart.other, StartPhases.within_same hstart.reach .err (by decide)⟩
  · rw [if_neg (by simp only [hmode, hexc, ne_eq, not_true_eq_false, Bool.false_eq_true, or_self, not_false_eq_true]), decide_eq_false (Nat.not_lt.2 hlo), Bool.false_and, if_neg Bool.false_ne_true,
      decide_eq_false (Nat.not_lt.2 hhi), Bool.false_and, if_neg Bool.false_ne_true] at hexec
    generalize judgeStart s avg = a at hstart hexec
    obtain ⟨hstat, hother⟩ := setInterval_sets a (!false && !false) false false
    have hwb : a.within [.regs] (a.setInterval (!false && !false) false false) := within_setFld (List.Subset.refl _) (within_refl a)
    generalize a.setInterval (!false && !false) false false = x at hstat hother hwb hexec
    refine ⟨_, hexec, (fld_of_regs (s := x) rfl rfl ..).trans hstat, ?_, hstart.band.2.1, hstart.band.2.2, fun k hk => ?_, ?_⟩
    · refine (fld_of_regs (s := x) rfl rfl ..).trans ?_
      rw [fld_of_reg (hother _ (by decide)), hstart.measured]
    · simp only [List.mem_cons, List.not_mem_nil, or_false, not_or] at hk
      refine (reg_of_regs (s := x) rfl rfl k).trans ?_
      rw [hother k hk.1, hstart.other k fun h => hk.2 (List.mem_singleton.1 h)]
    · exact (StartPhases.within_same hwb .err (by decide) : x.err = a.err).trans (StartPhases.within_same hstart.reach .err (by decide))
  · rw [if_neg (by simp only [hmode, hexc, ne_eq, not_true_eq_false, Bool.false_eq_true, or_self, not_false_eq_true]), decide_eq_true hlo, decide_eq_true hfull, Bool.and_self, if_pos rfl, hnew, if_neg Bool.false_ne_true] at hexec
    have h := excursion s avg 9 0 true false { (judgeStart s avg).band with oobLogged := true } (by decide) hfree
    exact ⟨_, hexec, h.shown, h.count, h.record⟩
  · rw [if_neg (by simp only [hmode, hexc, ne_eq, not_true_eq_false, Bool.false_eq_true, or_self, not_false_eq_true]), decide_eq_false (Nat.not_lt.2 (horder.trans hhi.le)), Bool.false_and, if_neg Bool.false_ne_true,
      decide_eq_true hhi, decide_eq_true hthr, Bool.and_self, if_pos rfl, hnew, if_neg Bool.false_ne_true] at hexec
    have h := excursion s avg 10 16 false true { (judgeStart s avg).band with oobLogged := true } (by decide) hfree
    exact ⟨_, hexec, h.shown, h.count, h.record⟩

/-! ### Average mode (R369, R371) -/

theorem averageEvaluated (s : State) (ws : List (Nat × Nat)) (avg k : Nat) (hws : ws = (s.band.samples.filter fun e => decide (s.now < e.1 + s.fld (ecKey BAND_AVG) 24 6 * 1000000000))) (hsome : ws ≠ [])
    (havg : avg = (ws.map (·.2)).sum / ws.length) (hk : k = s.now / 10000000 + 1) (hiv : s.band.avgIv ≠ k) (hmode : s.band.mode = 0) :
    (s.fld (ecKey BAND_AVG) 0 24 < avg → ∃ t, exec .averageModeEval s = .next t ∧ t.band = { s.band with avgThr := min 8 (s.band.avgThr + 1), avgIv := k } ∧ t.regs = s.regs ∧ t.err = s.err) ∧
    (avg < s.fld (ecKey BAND_AVG) 0 24 → ∃ t, exec .averageModeEval s = .next t ∧ t.band = { s.band with avgThr := s.band.avgThr - 1, avgIv := k } ∧ t.regs = s.regs ∧ t.err = s.err) := by
  have htrail : s.trailing = avg := by
    unfold State.trailing State.meanOf
    dsimp only
    rw [← hws, if_neg fun h => hsome (List.eq_nil_of_length_eq_zero h), havg]
  have hsamples : s.band.samples ≠ [] := fun h => hsome (by rw [hws, h]; rfl)
  have heq : s.averageEval = if s.fld (ecKey BAND_AVG) 0 24 < avg then (s.setBand { s.band with avgThr := min 8 (s.band.avgThr + 1), avgIv := k }).issueLevel
      else if avg < s.fld (ecKey BAND_AVG) 0 24 then (s.setBand { s.band with avgThr := s.band.avgThr - 1, avgIv := k }).issueLevel else s.setBand { s.band with avgIv := k } := by
    unfold State.averageEval
    dsimp only
    rw [htrail, if_neg hsamples, if_neg (by simp only [hmode, ne_eq, not_true_eq_false, false_or]; exact hk ▸ hiv), hk]
  have hexec : exec .averageModeEval s = .next _ := congrArg Host.Outcome.next heq
  refine ⟨fun hover => ?_, fun hunder => ?_⟩
  · rw [if_pos hover] at hexec
    obtain ⟨hband, hregs, -, herr⟩ := throttleSet s { s.band with avgThr := min 8 (s.band.avgThr + 1), avgIv := k }
    exact ⟨_, hexec, hband, hregs, herr⟩
  · rw [if_neg hunder.not_gt, if_pos hunder] at hexec
    obtain ⟨hband, hregs, -, herr⟩ := throttleSet s { s.band with avgThr := s.band.avgThr - 1, avgIv := k }
    exact ⟨_, hexec, hband, hregs, herr⟩

end Sys2Proof.BandControl
end

section
/-! PROOFS. The band controller tracks its set point (R368-R375). -/

namespace Sys2Proof.BandControl

open Sys2Proof Sys2Proof.Machine

/-- Settles O44: the settled controller's step by the case of its power, then trim, judgement and average mode. -/
theorem bandControllerTracksItsSetPoint : Obligations.BandControllerTracksItsSetPoint := by
  unfold Obligations.BandControllerTracksItsSetPoint
  refine ⟨fun s b hb hmode hrun hel hfree => ?_, bandStep_withdraws, fun s h => congrArg Host.Outcome.next (if_pos h), fun s h => trimUpdated h, trimMeasured, intervalJudged,
    fun s h => congrArg Host.Outcome.next (if_pos h), averageEvaluated⟩
  subst hb
  have hexec {t : State} (h : stepOn s = t) : exec .bandControlStep s = .next t := congrArg Host.Outcome.next ((bandStep_of_rack hmode hrun hel).trans h)
  refine ⟨fun hover hbal => ?_, fun hover hbal => ?_, fun hbound hover => ?_, fun hceil hbelow hthr hlow => ?_, fun cs hceil hbelow hthr hcs => ?_⟩
  · obtain ⟨t, ht, h⟩ := stepOn_releases hfree hover hbal
    exact ⟨t, hexec ht, h⟩
  · obtain ⟨t, ht, h⟩ := stepOn_throttles hover hbal
    exact ⟨t, hexec ht, h⟩
  · obtain ⟨t, ht, h⟩ := stepOn_releases_one hbound hover
    exact ⟨t, hexec ht, h⟩
  · obtain ⟨t, ht, h⟩ := stepOn_unthrottles hceil hbelow hthr hlow
    exact ⟨t, hexec ht, h⟩
  · obtain rfl : cs = nextCells s s.balStep := hcs
    obtain ⟨t, ht, h⟩ := stepOn_enables hfree hceil hbelow hthr
    exact ⟨t, hexec ht, h⟩

end Sys2Proof.BandControl
end

section
/-! PROOFS. Heat: readings, ballast withdrawn, caps, switch-offs, failed sensors (R388, R389). -/

namespace Sys2Proof.Heat

open Sys2Proof Sys2Proof.Machine Sys2Proof.Laws Sys2Proof.Clauses Sys2Proof.InputPower Sys2Proof.BandControl
open Sys2Proof.Bookkeeping (SameCanvas)

variable {s t u : State} {r d : Nat} {T : Int}

/-! ### The register of a region's temperature (R396) -/

/-- The register of a region's temperature. -/
def tempKey (r : Nat) : Nat := regionKey TEMP_R r

theorem tempKey_ne_bal (r c : Nat) : tempKey r ≠ balKey c := by
  unfold tempKey regionKey dieKey balKey cellKey TEMP_R MXE_BAL_CTRL
  omega

theorem tempKey_ne_cfg (r d : Nat) : dieKey d TEMP_CFG ≠ tempKey r := by
  unfold tempKey regionKey dieKey TEMP_R TEMP_CFG
  omega

theorem cfgKey_ne_bal (d c : Nat) : dieKey d TEMP_CFG ≠ balKey c := balKey_ne_die c d (by decide) (by decide)

/-- A region's temperature and ballast registers hold nothing of the canvas. -/
theorem canvas_of_heat (hp : t.part = s.part) (h : ∀ k, k ≠ tempKey r → (∀ c, k ≠ balKey c) → t.reg k = s.reg k) : SameCanvas s t := by
  refine ⟨hp, h _ ?_ fun c => balKey_ne_ec c (by decide), h _ ?_ fun c => balKey_ne_ec c (by decide), fun d py hpy => h _ ?_ fun c => balKey_ne_die c d ?_ ?_⟩ <;>
    simp only [ecKey, tempKey, regionKey, dieKey, TEMP_R, BOOT_CANVAS, BOOT_DIE_STATE, FUSE_SKIP] <;> omega

/-- Whether a region holds a loaded panel reads nothing of either. -/
theorem regionLoaded_congr (h : SameCanvas s t) (hpanels : t.panels = s.panels) (hjobs : t.jobs = s.jobs) (r : Nat) : t.regionLoaded r = s.regionLoaded r := by
  have hjob (c : Nat) : t.jobOf c = s.jobOf c := by
    unfold State.jobOf
    rw [panelOf_congr h hpanels]
  unfold State.regionLoaded State.job?
  simp only [hjob, hjobs]

/-! ### A reading taken -/

/-- What a reading leaves. -/
structure Read (s t : State) (r : Nat) (T : Int) : Prop where
  reach : s.within [.regs] t
  temp : t.temp r = T
  max : s.sensorBad r = false → toSigned 8 (t.fld (tempKey r) 8 8) = max (toSigned 8 (s.fld (tempKey r) 8 8)) T
  upper : ∀ lo w, 16 ≤ lo → t.fld (tempKey r) lo w = s.fld (tempKey r) lo w
  other : s.regsBut t [tempKey r]

theorem setTemp_reads (s : State) (r : Nat) (hlo : -128 ≤ T) (hhi : T ≤ 127) : Read s (s.setTemp r T) r T := by
  unfold State.setTemp
  dsimp only
  refine ⟨within_setTemp (List.Subset.refl _) (within_refl s), ?_, fun hgood => ?_, fun lo w h => ?_, fun k hk => ?_⟩
  · unfold State.temp
    rw [fld_setFld_apart _ _ (by decide) (.inl (by decide)), fld_setFld_same _ _ (by decide)]
    exact GddrDevices.toSigned_ofSigned hlo hhi
  · unfold tempKey
    rw [fld_setFld_same _ _ (by decide), hgood, if_neg Bool.false_ne_true]
    have hold := GddrDevices.toSigned_range (s.fld (regionKey TEMP_R r) 8 8)
    exact GddrDevices.toSigned_ofSigned (by omega) (by omega)
  · unfold tempKey
    rw [fld_setFld_apart _ _ (by decide) (.inr (by omega)), fld_setFld_apart _ _ (by decide) (.inr (by omega))]
  · have hne : k ≠ regionKey TEMP_R r := fun h => hk (List.mem_singleton.2 h)
    rw [reg_setFld_other _ _ _ _ hne, reg_setFld_other _ _ _ _ hne]

/-! ### Ballast of a region (R388) -/

/-- What ballast withdrawn from a region leaves. -/
structure Withdrawn (s t : State) (r : Nat) : Prop where
  reach : s.within [.regs, .band] t
  off : ∀ c ∈ State.cellsOf r, s.written (balKey c) = false → t.fld (balKey c) 0 1 = 0
  other : ∀ k, (∀ c ∈ State.cellsOf r, k ≠ balKey c) → t.reg k = s.reg k

theorem balWithdraw_withdraws (s : State) (r : Nat) : Withdrawn s (s.balWithdraw r) r := by
  have hall : s.within [.regs, .band] (s.balWithdraw r) := within_balWithdraw (List.Subset.refl _) (within_refl s)
  have h := balSet (show 0 < 2 by decide) (State.cellsOf r) s
  unfold State.balWithdraw at hall ⊢
  dsimp only at hall ⊢
  generalize s.setBal 0 (State.cellsOf r) = a at h hall ⊢
  exact ⟨hall, fun c hc hfree => (fld_of_regs (s := a) rfl rfl ..).trans (h.set c hc hfree), fun k hk => (reg_of_regs (s := a) rfl rfl k).trans (h.other k hk)⟩

/-- What the ballast's answer to heat leaves. -/
structure BallastHeld (s t : State) (r : Nat) : Prop where
  reach : s.within [.regs, .band] t
  apart : ∀ lo w, lo + w ≤ 22 ∨ 23 ≤ lo → t.fld (tempKey r) lo w = s.fld (tempKey r) lo w
  other : ∀ k, k ≠ tempKey r → (∀ c ∈ State.cellsOf r, k ≠ balKey c) → t.reg k = s.reg k

/-- Ballast withdrawn and marked so. -/
theorem withdrawn_marked (s : State) (r : Nat) : BallastHeld s ((s.balWithdraw r).setFld (tempKey r) 22 1 1) r ∧ ((s.balWithdraw r).setFld (tempKey r) 22 1 1).fld (tempKey r) 22 1 = 1 ∧
    ∀ c ∈ State.cellsOf r, s.written (balKey c) = false → ((s.balWithdraw r).setFld (tempKey r) 22 1 1).fld (balKey c) 0 1 = 0 := by
  have h := balWithdraw_withdraws s r
  generalize s.balWithdraw r = a at h ⊢
  refine ⟨⟨within_setFld (by decide) h.reach, fun lo w hap => ?_, fun k hk hbal => ?_⟩, ?_, fun c hc hfree => ?_⟩
  · rw [fld_setFld_apart _ _ (by decide) (by omega), fld_of_reg (h.other _ fun c _ => tempKey_ne_bal r c)]
  · rw [reg_setFld_other _ _ _ _ hk, h.other k hbal]
  · rw [fld_setFld_same _ _ (by decide)]
    rfl
  · rw [fld_setFld_other _ _ _ _ _ _ (tempKey_ne_bal r c).symm, h.off c hc hfree]

theorem heatBallast_hot (h : s.thCap (regionDie r) - 5 ≤ T) : s.heatBallast r T = (s.balWithdraw r).setFld (tempKey r) 22 1 1 := if_pos h

theorem heatBallast_cool (h : T < s.thCap (regionDie r) - 8) (hgood : s.sensorBad r = false) : s.heatBallast r T = s.setFld (tempKey r) 22 1 0 := by
  unfold State.heatBallast
  dsimp only
  rw [if_neg (by omega), if_pos ⟨h, by rw [hgood]; decide⟩]
  rfl

theorem unmarked (s : State) (r v : Nat) : BallastHeld s (s.setFld (tempKey r) 22 1 v) r :=
  ⟨within_setFld (by decide) (within_refl s), fun _ _ hap => fld_setFld_apart _ _ (by decide) (by omega), fun _ hk _ => reg_setFld_other _ _ _ _ hk⟩

theorem heatBallast_holds (s : State) (r : Nat) (T : Int) : BallastHeld s (s.heatBallast r T) r := by
  by_cases hhot : s.thCap (regionDie r) - 5 ≤ T
  · rw [heatBallast_hot hhot]
    exact (withdrawn_marked s r).1
  · unfold State.heatBallast
    dsimp only
    rw [if_neg hhot]
    split
    · exact unmarked s r 0
    · exact ⟨within_refl s, fun _ _ _ => rfl, fun _ _ _ => rfl⟩

/-! ### Timers -/

/-- What a region's timers leave. -/
structure Timed (s t : State) (r : Nat) : Prop where
  reach : s.within [.regions] t
  region : ∃ v w, t.region r = { s.region r with heatBelow := v, stopSince := w }
  others : s.regionsBut t r

theorem heatTimers_times (s : State) (r : Nat) (T : Int) : Timed s (s.heatTimers r T) r :=
  ⟨within_heatTimers (List.Subset.refl _) (within_refl s), ⟨_, _, region_setRegion_same ..⟩, fun _ hq => (region_setRegion ..).trans (if_neg hq)⟩

/-! ### The report's first part -/

/-- The state of a region that has been read, before its cap or switch-off. -/
def readState (s : State) (r : Nat) (j : Int) : State := ((s.setTemp r j).heatBallast r j).heatTimers r j

/-- What the report's first part leaves. -/
structure Reported (s t : State) (r : Nat) (j : Int) : Prop where
  reach : s.within [.regs, .band, .regions] t
  temp : t.temp r = j
  max : s.sensorBad r = false → toSigned 8 (t.fld (tempKey r) 8 8) = max (toSigned 8 (s.fld (tempKey r) 8 8)) j
  upper : ∀ lo w, 16 ≤ lo → lo + w ≤ 22 ∨ 23 ≤ lo → t.fld (tempKey r) lo w = s.fld (tempKey r) lo w
  other : ∀ k, k ≠ tempKey r → (∀ c ∈ State.cellsOf r, k ≠ balKey c) → t.reg k = s.reg k
  region : ∃ v w, t.region r = { s.region r with heatBelow := v, stopSince := w }
  others : s.regionsBut t r

theorem reported (s : State) (r : Nat) {j : Int} (hlo : -128 ≤ j) (hhi : j ≤ 127) : Reported s (readState s r j) r j := by
  unfold readState
  have h1 := setTemp_reads s r hlo hhi
  generalize s.setTemp r j = a at h1 ⊢
  have h2 := heatBallast_holds a r j
  generalize a.heatBallast r j = b at h2 ⊢
  have h3 := heatTimers_times b r j
  generalize b.heatTimers r j = c at h3 ⊢
  have hregs (k lo w : Nat) : c.fld k lo w = b.fld k lo w := fld_of_regs h3.reach.1 (StartPhases.within_same h3.reach .regs (by decide)) ..
  have hregion (q : Nat) : b.region q = s.region q := (regions_same h2.reach (by decide) q).trans (regions_same h1.reach (by decide) q)
  obtain ⟨v, w, hv⟩ := h3.region
  refine ⟨within_trans (within_mono h1.reach (by decide)) (within_trans (within_mono h2.reach (by decide)) (within_mono h3.reach (by decide))), ?_, fun hgood => ?_, fun lo w hl hap => ?_, fun k hk hbal => ?_,
    ⟨v, w, by rw [hv, hregion]⟩, fun q hq => (h3.others q hq).trans (hregion q)⟩
  · have htemp := h1.temp
    unfold State.temp at htemp ⊢
    rw [hregs, show b.fld (regionKey TEMP_R r) 0 8 = a.fld (regionKey TEMP_R r) 0 8 from h2.apart 0 8 (.inl (by decide))]
    exact htemp
  · rw [hregs, h2.apart 8 8 (.inl (by decide)), h1.max hgood]
  · rw [hregs, h2.apart lo w hap, h1.upper lo w hl]
  · rw [reg_of_regs h3.reach.1 (StartPhases.within_same h3.reach .regs (by decide)), h2.other k hk hbal, h1.other k fun h => hk (List.mem_singleton.1 h)]

theorem Reported.sensor {j : Int} (h : Reported s t r j) : t.sensorBad r = s.sensorBad r := congrArg (· == 1) (h.upper 23 1 (by decide) (.inr (by decide)))

theorem Reported.cap {j : Int} (h : Reported s t r j) (d : Nat) : t.thCap d = s.thCap d := by
  unfold State.thCap
  rw [fld_of_reg (h.other _ (tempKey_ne_cfg r d) fun c _ => cfgKey_ne_bal d c)]

theorem Reported.loaded {j : Int} (h : Reported s t r j) : t.regionLoaded r = s.regionLoaded r :=
  regionLoaded_congr (canvas_of_heat h.reach.1 fun k hk hbal => h.other k hk fun c _ => hbal c) (StartPhases.within_same h.reach .panels (by decide)) (StartPhases.within_same h.reach .jobs (by decide)) r

/-- A region that is cool: its ballast may be there. -/
theorem reported_cool (hlo : -128 ≤ T) (hhi : T ≤ 127) (hgood : s.sensorBad r = false) (hcool : T < s.thCap (regionDie r) - 8) :
    (readState s r T).fld (tempKey r) 22 1 = 0 ∧ s.regsBut (readState s r T) [tempKey r] ∧ (readState s r T).band = s.band := by
  unfold readState
  have h1 := setTemp_reads s r hlo hhi
  generalize s.setTemp r T = a at h1 ⊢
  have hcap : a.thCap (regionDie r) = s.thCap (regionDie r) := by
    unfold State.thCap
    rw [fld_of_regsBut h1.other fun h => tempKey_ne_cfg r (regionDie r) (List.mem_singleton.1 h)]
  have hbad : a.sensorBad r = false := (congrArg (· == 1) (h1.upper 23 1 (by decide))).trans hgood
  rw [heatBallast_cool (by rw [hcap]; exact hcool) hbad]
  have hw : a.within [.regs] (a.setFld (tempKey r) 22 1 0) := within_setFld (List.Subset.refl _) (within_refl a)
  have hmark : (a.setFld (tempKey r) 22 1 0).fld (tempKey r) 22 1 = 0 := (fld_setFld_same _ _ (by decide)).trans (Nat.zero_mod _)
  have hreg (k : Nat) (hk : k ≠ tempKey r) : (a.setFld (tempKey r) 22 1 0).reg k = a.reg k := reg_setFld_other _ _ _ _ hk
  generalize a.setFld (tempKey r) 22 1 0 = b at hw hmark hreg ⊢
  have h3 := heatTimers_times b r T
  generalize b.heatTimers r T = c at h3 ⊢
  have hregs := StartPhases.within_same h3.reach .regs (by decide)
  refine ⟨(fld_of_regs h3.reach.1 hregs ..).trans hmark, fun k hk => ?_, ?_⟩
  · rw [reg_of_regs h3.reach.1 hregs, hreg k fun h => hk (List.mem_singleton.2 h), h1.other k hk]
  · rw [StartPhases.within_same h3.reach .band (by decide), StartPhases.within_same hw .band (by decide), StartPhases.within_same h1.reach .band (by decide)]

/-- A region that is hot: its ballast is gone. -/
theorem reported_hot (hlo : -128 ≤ T) (hhi : T ≤ 127) (hhot : s.thCap (regionDie r) ≤ T) :
    (readState s r T).fld (tempKey r) 22 1 = 1 ∧ ∀ c ∈ State.cellsOf r, s.written (balKey c) = false → (readState s r T).fld (balKey c) 0 1 = 0 := by
  unfold readState
  have h1 := setTemp_reads s r hlo hhi
  generalize s.setTemp r T = a at h1 ⊢
  have hcap : a.thCap (regionDie r) = s.thCap (regionDie r) := by
    unfold State.thCap
    rw [fld_of_regsBut h1.other fun h => tempKey_ne_cfg r (regionDie r) (List.mem_singleton.1 h)]
  rw [heatBallast_hot (by rw [hcap]; omega)]
  obtain ⟨-, hmark, hoff⟩ := withdrawn_marked a r
  generalize (a.balWithdraw r).setFld (tempKey r) 22 1 1 = b at hmark hoff ⊢
  have h3 := heatTimers_times b r T
  generalize b.heatTimers r T = c at h3 ⊢
  have hregs := StartPhases.within_same h3.reach .regs (by decide)
  exact ⟨(fld_of_regs h3.reach.1 hregs ..).trans hmark,
    fun e he hfree => (fld_of_regs h3.reach.1 hregs ..).trans (hoff e he ((GddrDevices.written_of_within h1.reach (by decide) _).trans hfree))⟩

end Sys2Proof.Heat
end

section
/-! PROOFS. Caps and switch-offs for heat, the way back, failed sensors (R388, R389). -/

namespace Sys2Proof.Heat

open Sys2Proof Sys2Proof.Machine Sys2Proof.Laws Sys2Proof.Clauses Sys2Proof.PowerRails Sys2Proof.InputPower Sys2Proof.BandControl
open Sys2Proof.RegionCommands (computeOff_keeps regionDie_regionAt startTurnOn_begins interval_of_within)

variable {s t u : State} {r d : Nat} {T : Int}

/-! ### The pulse cap -/

theorem heatCap_of_bad (h : s.sensorBad r = true) (T : Int) : s.heatCap r T = s := by
  unfold State.heatCap
  dsimp only
  rw [if_pos h]

theorem heatCap_cool (hgood : s.sensorBad r = false) (h : T < s.thCap (regionDie r) - 2) :
    s.heatCap r T = (s.setFld (tempKey r) 16 5 16).setRegion r { s.region r with capLogged := false } := by
  unfold State.heatCap
  dsimp only
  rw [hgood, if_neg Bool.false_ne_true, if_neg (by omega), if_pos h]
  rfl

/-- A region that is capped for heat, its record apart. -/
def capped (s : State) (r n : Nat) : State := (s.setFld (tempKey r) 16 5 n).setRegion r { s.region r with capLogged := true }

theorem heatCap_hot (hgood : s.sensorBad r = false) (h : s.thCap (regionDie r) ≤ T) :
    s.heatCap r T = if (s.region r).capLogged = true then capped s r (16 - min 8 (T - s.thCap (regionDie r) + 1).toNat) else (capped s r (16 - min 8 (T - s.thCap (regionDie r) + 1).toNat)).heatRec r 1 := by
  unfold State.heatCap
  dsimp only
  rw [hgood, if_neg Bool.false_ne_true, if_pos h]
  rfl

/-- What a set cap leaves. -/
structure CapSet (s t : State) (r n : Nat) (logged : Bool) : Prop where
  reach : s.within [.regs, .regions] t
  shown : t.fld (tempKey r) 16 5 = n
  apart : ∀ lo w, lo + w ≤ 16 ∨ 21 ≤ lo → t.fld (tempKey r) lo w = s.fld (tempKey r) lo w
  region : t.region r = { s.region r with capLogged := logged }
  others : s.regionsBut t r
  other : s.regsBut t [tempKey r]

theorem capSet (s : State) (r : Nat) {n : Nat} (logged : Bool) (hn : n < 2 ^ 5) : CapSet s ((s.setFld (tempKey r) 16 5 n).setRegion r { s.region r with capLogged := logged }) r n logged := by
  refine ⟨within_setRegion (by decide) (within_setFld (by decide) (within_refl s)), ?_, fun lo w hap => ?_, region_setRegion_same .., fun q hq => ?_, fun k hk => ?_⟩
  · rw [setRegion_fld, fld_setFld_same _ _ (by decide), Nat.mod_eq_of_lt hn]
  · rw [setRegion_fld, fld_setFld_apart _ _ (by decide) (by omega)]
  · rw [region_setRegion, if_neg hq, setFld_region]
  · rw [setRegion_reg, reg_setFld_other _ _ _ _ fun h => hk (List.mem_singleton.2 h)]

/-! ### Records of heat -/

theorem heatRec_keeps (s : State) (r reason : Nat) : s.within [.err] (s.heatRec r reason) ∧
    s.logs (s.heatRec r reason) 0x7B (State.regionLoc r) (reason + regionDie r * 2 ^ 8 + regionRx r * 2 ^ 11 + regionRy r * 2 ^ 14) :=
  ⟨within_raise (List.Subset.refl _) (within_refl s), logs_raise rfl ..⟩

/-- A record raised unless it was before. -/
def recordOnce (s : State) (r reason : Nat) (logged : Bool) : State := if logged = true then s else s.heatRec r reason

theorem recordOnce_keeps (s : State) (r reason : Nat) (logged : Bool) : s.within [.err] (recordOnce s r reason logged) ∧
    if logged = true then (recordOnce s r reason logged).err = s.err
    else s.logs (recordOnce s r reason logged) 0x7B (State.regionLoc r) (reason + regionDie r * 2 ^ 8 + regionRx r * 2 ^ 11 + regionRy r * 2 ^ 14) := by
  unfold recordOnce
  cases logged with
  | true =>
    rw [if_pos rfl, if_pos rfl]
    exact ⟨within_refl s, rfl⟩
  | false =>
    rw [if_neg Bool.false_ne_true, if_neg Bool.false_ne_true]
    exact heatRec_keeps s r reason

/-! ### Reports (R388) -/

theorem judgedTemp_good (h : s.sensorBad r = false) : s.judgedTemp r T = T := by
  unfold State.judgedTemp
  rw [h, if_neg Bool.false_ne_true]

theorem tempEval_eq (s : State) (r : Nat) (T : Int) : s.tempEval r T =
    if (readState s r (s.judgedTemp r T)).regionLoaded r = true then (readState s r (s.judgedTemp r T)).heatCap r (s.judgedTemp r T)
    else if (readState s r (s.judgedTemp r T)).thCap (regionDie r) ≤ s.judgedTemp r T then ((readState s r (s.judgedTemp r T)).heatOff r).heatTimers r (s.judgedTemp r T)
    else (readState s r (s.judgedTemp r T)).heatCap r (s.judgedTemp r T) := rfl

theorem temp_of_fld (h : t.fld (tempKey r) 0 8 = s.fld (tempKey r) 0 8) : t.temp r = s.temp r := congrArg (toSigned 8) h

/-- A region well below its cap. -/
theorem evaluatedCool (hlo : -128 ≤ T) (hhi : T ≤ 127) (hgood : s.sensorBad r = false) (hcool : T < s.thCap (regionDie r) - 8) :
    ∃ t, s.tempEval r T = t ∧ t.temp r = T ∧ t.fld (tempKey r) 16 5 = 16 ∧ t.fld (tempKey r) 22 1 = 0 ∧
      toSigned 8 (t.fld (tempKey r) 8 8) = max (toSigned 8 (s.fld (tempKey r) 8 8)) T ∧ (t.region r).capLogged = false ∧ (t.region r).st = (s.region r).st ∧
      s.regsBut t [tempKey r] ∧ s.regionsBut t r ∧ t.cells = s.cells ∧ t.band = s.band ∧ t.err = s.err := by
  have heq := tempEval_eq s r T
  rw [judgedTemp_good hgood] at heq
  have h := reported s r hlo hhi
  obtain ⟨hmark, hregs, hband⟩ := reported_cool hlo hhi hgood hcool
  generalize readState s r T = a at h hmark hregs hband heq
  rw [h.cap, if_neg (show ¬s.thCap (regionDie r) ≤ T by omega), ite_self, heatCap_cool (h.sensor.trans hgood) (by rw [h.cap]; omega)] at heq
  have hc := capSet a r (n := 16) false (by decide)
  generalize (a.setFld (tempKey r) 16 5 16).setRegion r { a.region r with capLogged := false } = b at hc heq
  obtain ⟨v, w, hv⟩ := h.region
  have hall := within_trans (within_mono h.reach (by decide)) (within_mono hc.reach (by decide) : a.within [.regs, .band, .regions] b)
  refine ⟨b, heq, (temp_of_fld (hc.apart 0 8 (.inl (by decide)))).trans h.temp, hc.shown, ?_, ?_, ?_, ?_, fun k hk => (hc.other k hk).trans (hregs k hk), fun q hq => (hc.others q hq).trans (h.others q hq),
    StartPhases.within_same hall .cells (by decide), (StartPhases.within_same hc.reach .band (by decide)).trans hband, StartPhases.within_same hall .err (by decide)⟩
  · rw [hc.apart 22 1 (.inr (by decide)), hmark]
  · rw [hc.apart 8 8 (.inl (by decide)), h.max hgood]
  · rw [hc.region]
  · rw [hc.region, hv]

/-- A loaded region at its cap. -/
theorem evaluatedCapped (hlo : -128 ≤ T) (hhi : T ≤ 127) (hgood : s.sensorBad r = false) (hloaded : s.regionLoaded r = true) (hhot : s.thCap (regionDie r) ≤ T)
    (hfree : ∀ c ∈ State.cellsOf r, s.written (balKey c) = false) :
    ∃ t, s.tempEval r T = t ∧ t.temp r = T ∧ t.fld (tempKey r) 16 5 = 16 - min 8 (T - s.thCap (regionDie r) + 1).toNat ∧ t.fld (tempKey r) 22 1 = 1 ∧
      (∀ c ∈ State.cellsOf r, t.fld (balKey c) 0 1 = 0) ∧ (t.region r).st = (s.region r).st ∧ (t.region r).capLogged = true ∧ s.regionsBut t r ∧ t.cells = s.cells ∧
      s.regsBut t (tempKey r :: (State.cellsOf r).map balKey) ∧
      if (s.region r).capLogged = true then t.err = s.err else s.logs t 0x7B (State.regionLoc r) (1 + regionDie r * 2 ^ 8 + regionRx r * 2 ^ 11 + regionRy r * 2 ^ 14) := by
  have heq := tempEval_eq s r T
  rw [judgedTemp_good hgood] at heq
  have h := reported s r hlo hhi
  obtain ⟨hmark, hoff⟩ := reported_hot hlo hhi hhot
  generalize readState s r T = a at h hmark hoff heq
  obtain ⟨v, w, hv⟩ := h.region
  rw [h.loaded, if_pos hloaded, heatCap_hot (h.sensor.trans hgood) (by rw [h.cap]; exact hhot), h.cap, show (a.region r).capLogged = (s.region r).capLogged by rw [hv]] at heq
  have hc := capSet a r (n := 16 - min 8 (T - s.thCap (regionDie r) + 1).toNat) true (by omega)
  unfold capped at heq
  generalize (a.setFld (tempKey r) 16 5 (16 - min 8 (T - s.thCap (regionDie r) + 1).toNat)).setRegion r { a.region r with capLogged := true } = b at hc heq
  obtain ⟨hwe, hlog⟩ := recordOnce_keeps b r 1 (s.region r).capLogged
  have heq' : s.tempEval r T = recordOnce b r 1 (s.region r).capLogged := heq
  generalize recordOnce b r 1 (s.region r).capLogged = e at hwe hlog heq'
  have hreg (k : Nat) : e.reg k = b.reg k := reg_of_regs hwe.1 (StartPhases.within_same hwe .regs (by decide)) k
  have hregion (q : Nat) : e.region q = b.region q := regions_same hwe (by decide) q
  have herr : b.err = s.err := (StartPhases.within_same hc.reach .err (by decide)).trans (StartPhases.within_same h.reach .err (by decide))
  refine ⟨e, heq', ?_, ?_, ?_, fun c hcell => ?_, ?_, ?_, fun q hq => ?_, ?_, fun k hk => ?_, ?_⟩
  · rw [temp_of_fld (fld_of_reg (hreg _) ..), temp_of_fld (hc.apart 0 8 (.inl (by decide))), h.temp]
  · rw [fld_of_reg (hreg _), hc.shown]
  · rw [fld_of_reg (hreg _), hc.apart 22 1 (.inr (by decide)), hmark]
  · rw [fld_of_reg (hreg _), fld_of_regsBut hc.other fun h => tempKey_ne_bal r c (List.mem_singleton.1 h).symm, hoff c hcell (hfree c hcell)]
  · rw [hregion, hc.region, hv]
  · rw [hregion, hc.region]
  · rw [hregion, hc.others q hq, h.others q hq]
  · rw [StartPhases.within_same hwe .cells (by decide), StartPhases.within_same hc.reach .cells (by decide), StartPhases.within_same h.reach .cells (by decide)]
  · simp only [List.mem_cons, List.mem_map, not_or, not_exists, not_and] at hk
    rw [hreg, hc.other k fun h => hk.1 (List.mem_singleton.1 h), h.other k hk.1 fun c hcell hkc => hk.2 c hcell hkc.symm]
  · split at hlog
    · rw [if_pos ‹_›, hlog, herr]
    · rw [if_neg ‹_›]
      exact logs_from hlog herr

/-- A region whose switch-off for heat has begun, its record apart. -/
def heatOpened (s : State) (r : Nat) : State :=
  ((s.regionOff r false).setFld (tempKey r) 21 1 1).setRegion r { ((s.regionOff r false).setFld (tempKey r) 21 1 1).region r with offLogged := true, heatBelow := none }

theorem heatOff_eq (hlow : 2 ≤ (s.region r).st) (hhigh : (s.region r).st ≤ 4) : s.heatOff r = recordOnce (heatOpened s r) r 2 (s.region r).offLogged := by
  unfold State.heatOff
  dsimp only
  rw [if_pos ⟨hlow, hhigh⟩]
  rfl

/-- What a region off or waiting for it leaves: what the switch-off of a turn-on or of a running region does. -/
structure OffBegun (s t : State) (r : Nat) : Prop where
  reach : s.within [.regs, .cells, .regions, .band] t
  temp : ∀ lo w, t.fld (tempKey r) lo w = s.fld (tempKey r) lo w
  outcome : if (s.region r).st = 2 then (t.region r).st = 2 ∧ (t.region r).off = .next false s.interval ∧ (t.region r).on = (s.region r).on
    else (t.region r).st = 1 ∧ (t.region r).on = none ∧ t.fld (ldoKey r 0) 17 1 = 0
  others : s.regionsBut t r

theorem tempKey_ne_ldo (r q rail : Nat) (h : rail < 2) : tempKey r ≠ ldoKey q rail := by
  rw [ldoKey_eq]
  unfold tempKey regionKey dieKey TEMP_R
  omega

theorem regionOff_begins (hidle : (s.region r).off = .idle) : OffBegun s (s.regionOff r false) r := by
  unfold State.regionOff
  by_cases hst : (s.region r).st = 2
  · rw [if_pos hst, hidle]
    dsimp only
    refine ⟨within_setRegion (by decide) (within_refl s), fun lo w => setRegion_fld .., ?_, fun q hq => (region_setRegion ..).trans (if_neg hq)⟩
    rw [if_pos hst, region_setRegion_same]
    exact ⟨hst, rfl, rfl⟩
  · rw [if_neg hst, if_neg Bool.false_ne_true]
    have h := computeOff_keeps s r
    generalize s.computeOff r = a at h ⊢
    refine ⟨h.reach, fun lo w => fld_of_reg (h.low _ (.inr (by unfold tempKey regionKey dieKey TEMP_R; omega)) (tempKey_ne_ldo r r 0 (by decide)) (tempKey_ne_ldo r r 1 (by decide))) lo w, ?_, h.others⟩
    rw [if_neg hst, h.region]
    exact ⟨rfl, rfl, h.gate⟩

/-- A region without loaded work at its cap. -/
theorem evaluatedOff (hlo : -128 ≤ T) (hhi : T ≤ 127) (hgood : s.sensorBad r = false) (hidleWork : s.regionLoaded r = false) (hhot : s.thCap (regionDie r) ≤ T)
    (hlow : 2 ≤ (s.region r).st) (hhigh : (s.region r).st ≤ 4) (hidle : (s.region r).off = .idle) :
    ∃ t, s.tempEval r T = t ∧ t.temp r = T ∧ t.fld (tempKey r) 21 1 = 1 ∧
      (if (s.region r).st = 2 then (t.region r).st = 2 ∧ (t.region r).off = .next false s.interval ∧ (t.region r).on = (s.region r).on
        else (t.region r).st = 1 ∧ (t.region r).on = none ∧ t.fld (ldoKey r 0) 17 1 = 0) ∧ s.regionsBut t r ∧ t.jobs = s.jobs ∧
      if (s.region r).offLogged = true then t.err = s.err else s.logs t 0x7B (State.regionLoc r) (2 + regionDie r * 2 ^ 8 + regionRx r * 2 ^ 11 + regionRy r * 2 ^ 14) := by
  have heq := tempEval_eq s r T
  rw [judgedTemp_good hgood] at heq
  have h := reported s r hlo hhi
  generalize readState s r T = a at h heq
  obtain ⟨v, w, hv⟩ := h.region
  have hst : (a.region r).st = (s.region r).st := by rw [hv]
  have hon : (a.region r).on = (s.region r).on := by rw [hv]
  have hint : a.interval = s.interval := interval_of_within h.reach
  rw [h.loaded, hidleWork, if_neg Bool.false_ne_true, h.cap, if_pos hhot, heatOff_eq (by rw [hst]; exact hlow) (by rw [hst]; exact hhigh), show (a.region r).offLogged = (s.region r).offLogged by rw [hv]] at heq
  have hb := regionOff_begins (s := a) (r := r) (by rw [hv]; exact hidle)
  unfold heatOpened at heq
  generalize a.regionOff r false = b at hb heq
  have hwc : b.within [.regs] (b.setFld (tempKey r) 21 1 1) := within_setFld (List.Subset.refl _) (within_refl b)
  have hmark : (b.setFld (tempKey r) 21 1 1).fld (tempKey r) 21 1 = 1 := (fld_setFld_same _ _ (by decide)).trans rfl
  have hcreg (k : Nat) (hk : k ≠ tempKey r) : (b.setFld (tempKey r) 21 1 1).reg k = b.reg k := reg_setFld_other _ _ _ _ hk
  have hclow : (b.setFld (tempKey r) 21 1 1).fld (tempKey r) 0 8 = b.fld (tempKey r) 0 8 := fld_setFld_apart _ _ (by decide) (.inl (by decide))
  generalize b.setFld (tempKey r) 21 1 1 = c at hwc hmark hcreg hclow heq
  have hsame := region_setRegion_same c r { c.region r with offLogged := true, heatBelow := none }
  have hother (q : Nat) (hq : q ≠ r) : (c.setRegion r { c.region r with offLogged := true, heatBelow := none }).region q = c.region q := (region_setRegion ..).trans (if_neg hq)
  have hwd : c.within [.regions] (c.setRegion r { c.region r with offLogged := true, heatBelow := none }) := within_setRegion (List.Subset.refl _) (within_refl c)
  generalize c.setRegion r { c.region r with offLogged := true, heatBelow := none } = e at hsame hother hwd heq
  obtain ⟨hwf, hlog⟩ := recordOnce_keeps e r 2 (s.region r).offLogged
  generalize recordOnce e r 2 (s.region r).offLogged = f at hwf hlog heq
  have ht := heatTimers_times f r T
  generalize f.heatTimers r T = g at ht heq
  obtain ⟨v', w', hv'⟩ := ht.region
  have hreg (k : Nat) : g.reg k = c.reg k :=
    (reg_of_regs ht.reach.1 (StartPhases.within_same ht.reach .regs (by decide)) k).trans ((reg_of_regs hwf.1 (StartPhases.within_same hwf .regs (by decide)) k).trans
      (reg_of_regs hwd.1 (StartPhases.within_same hwd .regs (by decide)) k))
  have hfregion (q : Nat) : f.region q = e.region q := regions_same hwf (by decide) q
  have hcregion (q : Nat) : c.region q = b.region q := regions_same hwc (by decide) q
  have herr : e.err = s.err := (StartPhases.within_same hwd .err (by decide)).trans ((StartPhases.within_same hwc .err (by decide)).trans ((StartPhases.within_same hb.reach .err (by decide)).trans (StartPhases.within_same h.reach .err (by decide))))
  have hgerr : g.err = f.err := StartPhases.within_same ht.reach .err (by decide)
  refine ⟨g, heq, ?_, ?_, ?_, fun q hq => ?_, ?_, ?_⟩
  · rw [temp_of_fld (fld_of_reg (hreg _) ..), temp_of_fld hclow, temp_of_fld (hb.temp 0 8), h.temp]
  · rw [fld_of_reg (hreg _), hmark]
  · have hout := hb.outcome
    rw [hst, hint, hon] at hout
    rw [hv', hfregion, hsame, hcregion, fld_of_reg (hreg _), fld_of_reg (hcreg _ (tempKey_ne_ldo r r 0 (by decide)).symm)]
    exact hout
  · rw [ht.others q hq, hfregion, hother q hq, hcregion, hb.others q hq, h.others q hq]
  · rw [StartPhases.within_same ht.reach .jobs (by decide), StartPhases.within_same hwf .jobs (by decide), StartPhases.within_same hwd .jobs (by decide), StartPhases.within_same hwc .jobs (by decide),
      StartPhases.within_same hb.reach .jobs (by decide), StartPhases.within_same h.reach .jobs (by decide)]
  · split at hlog
    · rw [if_pos ‹_›, hgerr, hlog, herr]
    · rw [if_neg ‹_›]
      exact logs_of_err (logs_from hlog herr) (congrArg _ hgerr)

/-- A region whose sensor failed reads its hottest neighbour and 5 (R389). -/
theorem evaluatedSubstitute {x : Int} (hbad : s.sensorBad r = true) (hx : s.highest (State.neighbours r) = some x) (hlo : -128 ≤ x + 5) (hhi : x + 5 ≤ 127)
    (hload : s.regionLoaded r = true ∨ x + 5 < s.thCap (regionDie r)) :
    ∃ t, s.tempEval r T = t ∧ t.temp r = x + 5 ∧ t.fld (tempKey r) 16 5 = s.fld (tempKey r) 16 5 ∧ t.sensorBad r = true ∧ (t.region r).st = (s.region r).st ∧ s.regionsBut t r ∧ t.err = s.err := by
  have hjudged : s.judgedTemp r T = x + 5 := by
    unfold State.judgedTemp
    rw [if_pos hbad, hx]
  have heq := tempEval_eq s r T
  rw [hjudged] at heq
  have h := reported s r hlo hhi
  generalize readState s r (x + 5) = a at h heq
  rw [h.loaded, h.cap, heatCap_of_bad (h.sensor.trans hbad)] at heq
  have hplain : s.tempEval r T = a := by
    rcases hload with hl | hc
    · rw [heq, if_pos hl]
    · rw [heq, if_neg (show ¬s.thCap (regionDie r) ≤ x + 5 by omega), ite_self]
  obtain ⟨v, w, hv⟩ := h.region
  exact ⟨a, hplain, h.temp, h.upper 16 5 (by decide) (.inl (by decide)), h.sensor.trans hbad, by rw [hv], h.others, StartPhases.within_same h.reach .err (by decide)⟩

/-! ### The way back and failed sensors -/

theorem heatOn_starts {v : Nat} (hmark : s.fld (tempKey r) 21 1 = 1) (hst : (s.region r).st = 1) (hidle : (s.region r).off = .idle) (hbelow : (s.region r).heatBelow = some v) :
    s.heatOn r = if v + 1000000000 ≤ s.now then s.startTurnOn r false false else s := by
  have hmark' : s.fld (regionKey TEMP_R r) 21 1 = 1 := hmark
  unfold State.heatOn
  dsimp only
  rw [hmark', hst, hidle, hbelow]
  by_cases h : v + 1000000000 ≤ s.now
  · rw [if_pos h, if_pos (by simp only [h, decide_true, BEq.rfl, Bool.and_self])]
  · rw [if_neg h, if_neg (by simp only [h, decide_false, Bool.and_false, Bool.false_eq_true, not_false_eq_true])]

theorem heatReturns (s : State) (d rx ry r v : Nat) (hr : r = regionAt d rx ry) (hmark : s.fld (regionKey TEMP_R r) 21 1 = 1) (hst : (s.region r).st = 1) (hidle : (s.region r).off = .idle) (hbelow : (s.region r).heatBelow = some v) :
    (v + 1000000000 ≤ s.now → ∃ t, exec (.heatSwitchOn d rx ry) s = .next t ∧ (t.region r).st = 2 ∧ (t.region r).on.isSome = true ∧ t.fld (regionKey TEMP_R r) 21 1 = 0 ∧
      s.regsBut t [regionKey TEMP_R r] ∧ s.regionsBut t r ∧ t.cells = s.cells ∧ t.err = s.err) ∧
    (s.now < v + 1000000000 → exec (.heatSwitchOn d rx ry) s = .next s) := by
  have heq := heatOn_starts hmark hst hidle hbelow
  have hexec {t : State} (h : s.heatOn r = t) : exec (.heatSwitchOn d rx ry) s = .next t := congrArg Host.Outcome.next (hr ▸ h)
  refine ⟨fun hdue => ?_, fun hearly => hexec (heq.trans (if_neg (Nat.not_le.2 hearly)))⟩
  obtain ⟨hbegun, hst2, hreg, hclear, -⟩ := startTurnOn_begins s r false false
  obtain ⟨o, hon, -⟩ := hbegun.begun
  exact ⟨_, hexec (heq.trans (if_pos hdue)), hst2, by rw [hon]; rfl, (hclear rfl).1, fun k hk => hreg k fun h => hk (List.mem_singleton.2 h), hbegun.others,
    StartPhases.within_same hbegun.reach .cells (by decide), StartPhases.within_same hbegun.reach .err (by decide)⟩

theorem sensorFailed (hgood : s.sensorBad r = false) (hfree : ∀ c ∈ State.cellsOf r, s.written (balKey c) = false) :
    ∃ t, s.sensorFail r = t ∧ t.sensorBad r = true ∧ t.fld (tempKey r) 22 1 = 1 ∧ t.fld (tempKey r) 16 5 = 11 ∧
      (∀ c ∈ State.cellsOf r, t.fld (balKey c) 0 1 = 0) ∧ t.regions = s.regions ∧ t.cells = s.cells ∧
      s.regsBut t (tempKey r :: (State.cellsOf r).map balKey) ∧ s.logs t 0x7B (State.regionLoc r) (3 + regionDie r * 2 ^ 8 + regionRx r * 2 ^ 11 + regionRy r * 2 ^ 14) := by
  have heq : s.sensorFail r = ((((s.balWithdraw r).setFld (tempKey r) 22 1 1).setFld (tempKey r) 23 1 1).setFld (tempKey r) 16 5 11).heatRec r 3 := by
    unfold State.sensorFail
    rw [hgood, if_neg Bool.false_ne_true]
    rfl
  rw [heq]
  obtain ⟨h, hmark, hoff⟩ := withdrawn_marked s r
  generalize (s.balWithdraw r).setFld (tempKey r) 22 1 1 = a at h hmark hoff ⊢
  have hwb : a.within [.regs] ((a.setFld (tempKey r) 23 1 1).setFld (tempKey r) 16 5 11) := within_setFld (List.Subset.refl _) (within_setFld (List.Subset.refl _) (within_refl a))
  have hbit : ((a.setFld (tempKey r) 23 1 1).setFld (tempKey r) 16 5 11).fld (tempKey r) 23 1 = 1 := (fld_setFld_apart _ _ (by decide) (.inr (by decide))).trans ((fld_setFld_same _ _ (by decide)).trans rfl)
  have hcap : ((a.setFld (tempKey r) 23 1 1).setFld (tempKey r) 16 5 11).fld (tempKey r) 16 5 = 11 := (fld_setFld_same _ _ (by decide)).trans rfl
  have hkeep : ((a.setFld (tempKey r) 23 1 1).setFld (tempKey r) 16 5 11).fld (tempKey r) 22 1 = 1 :=
    (fld_setFld_apart _ _ (by decide) (.inr (by decide))).trans ((fld_setFld_apart _ _ (by decide) (.inl (by decide))).trans hmark)
  have hreg (k : Nat) (hk : k ≠ tempKey r) : ((a.setFld (tempKey r) 23 1 1).setFld (tempKey r) 16 5 11).reg k = a.reg k := (reg_setFld_other _ _ _ _ hk).trans (reg_setFld_other _ _ _ _ hk)
  generalize (a.setFld (tempKey r) 23 1 1).setFld (tempKey r) 16 5 11 = b at hwb hbit hcap hkeep hreg ⊢
  obtain ⟨hwc, hlog⟩ := heatRec_keeps b r 3
  generalize b.heatRec r 3 = c at hwc hlog ⊢
  have hcreg (k : Nat) : c.reg k = b.reg k := reg_of_regs hwc.1 (StartPhases.within_same hwc .regs (by decide)) k
  have herr : b.err = s.err := (StartPhases.within_same hwb .err (by decide)).trans (StartPhases.within_same h.reach .err (by decide))
  refine ⟨c, rfl, ?_, ?_, ?_, fun e he => ?_, ?_, ?_, fun k hk => ?_, logs_from hlog herr⟩
  · exact beq_iff_eq.2 ((fld_of_reg (hcreg _) ..).trans hbit)
  · rw [fld_of_reg (hcreg _), hkeep]
  · rw [fld_of_reg (hcreg _), hcap]
  · rw [fld_of_reg (hcreg _), fld_of_reg (hreg _ (tempKey_ne_bal r e).symm), hoff e he (hfree e he)]
  · rw [StartPhases.within_same hwc .regions (by decide), StartPhases.within_same hwb .regions (by decide), StartPhases.within_same h.reach .regions (by decide)]
  · rw [StartPhases.within_same hwc .cells (by decide), StartPhases.within_same hwb .cells (by decide), StartPhases.within_same h.reach .cells (by decide)]
  · simp only [List.mem_cons, List.mem_map, not_or, not_exists, not_and] at hk
    rw [hcreg, hreg k hk.1, h.other k hk.1 fun c hcell hkc => hk.2 c hcell hkc.symm]

theorem regionPlace (d : Nat) {rx ry : Nat} (hx : rx < 8) (hy : ry < 8) : regionDie (regionAt d rx ry) = d ∧ regionRx (regionAt d rx ry) = rx ∧ regionRy (regionAt d rx ry) = ry := by
  unfold regionDie regionRx regionRy regionAt
  omega

end Sys2Proof.Heat
end

section
/-! PROOFS. Regions answer heat (R388, R389). -/

namespace Sys2Proof.Heat

open Sys2Proof Sys2Proof.Machine

/-- Settles O46: a report by the case of its temperature and of the region's work, the way back, a failed sensor. -/
theorem regionsAnswerHeat : Obligations.RegionsAnswerHeat := by
  unfold Obligations.RegionsAnswerHeat
  refine ⟨fun s d rx ry r T hr hx hy hlo hhi => ?_, heatReturns, fun s d rx ry r hr hx hy hgood hfree => ?_⟩
  · obtain ⟨hd, hrx, hry⟩ := regionPlace d hx hy
    rw [← hr] at hd hrx hry
    have hexec {t : State} (h : s.tempEval r T = t) : exec (.regionTempEval d rx ry T) s = .next t := congrArg Host.Outcome.next (hr ▸ h)
    refine ⟨fun hgood hcool => ?_, fun hgood hloaded hhot hfree => ?_, fun hgood hwork hhot hlow hhigh hidle => ?_, fun x hbad hx hxlo hxhi hload => ?_⟩
    · obtain ⟨t, ht, h⟩ := evaluatedCool hlo hhi hgood (hd.symm ▸ hcool)
      exact ⟨t, hexec ht, h⟩
    · obtain ⟨t, ht, h⟩ := evaluatedCapped hlo hhi hgood hloaded (hd.symm ▸ hhot) hfree
      rw [hd, hrx, hry] at h
      exact ⟨t, hexec ht, h⟩
    · obtain ⟨t, ht, h⟩ := evaluatedOff hlo hhi hgood hwork (hd.symm ▸ hhot) hlow hhigh hidle
      rw [hd, hrx, hry] at h
      exact ⟨t, hexec ht, h⟩
    · obtain ⟨t, ht, h⟩ := evaluatedSubstitute (T := T) hbad hx hxlo hxhi (hd.symm ▸ hload)
      exact ⟨t, hexec ht, h⟩
  · obtain ⟨hd, hrx, hry⟩ := regionPlace d hx hy
    rw [← hr] at hd hrx hry
    obtain ⟨t, ht, h⟩ := sensorFailed hgood hfree
    rw [hd, hrx, hry] at h
    exact ⟨t, congrArg Host.Outcome.next (hr ▸ ht), h⟩

end Sys2Proof.Heat
end

section
/-! PROOFS. Outputs that stay, and the way of a record (R423-R432). -/

namespace Sys2Proof.RecordWay

open Sys2Proof Sys2Proof.Machine Sys2Proof.Laws Sys2Proof.Clauses Sys2Proof.InputPower
open Sys2Proof.Bookkeeping (Booked quiet_ecKey)

variable {s t u : State}

/-! ### Outputs stay -/

/-- What was given out stays given out. -/
def KeepsOut (s t : State) : Prop := ∀ o ∈ s.out, o ∈ t.out

theorem KeepsOut.refl (s : State) : KeepsOut s s := fun _ h => h

theorem KeepsOut.trans (h : KeepsOut s t) (h' : KeepsOut t u) : KeepsOut s u := fun o ho => h' o (h o ho)

theorem KeepsOut.of_eq (h : t.out = s.out) : KeepsOut s t := fun o ho => by
  rw [h]
  exact ho

theorem KeepsOut.of_within {ks : List Comp} (h : s.within ks t) (hk : Comp.out ∉ ks) : KeepsOut s t := .of_eq (StartPhases.within_same h .out hk)

theorem keepsOut_emit (s : State) (o : Out) : KeepsOut s (s.emit o) := fun _ h => List.mem_cons_of_mem _ h

theorem KeepsOut.foldl {α : Type} {f : State → α → State} (hf : ∀ t x, KeepsOut t (f t x)) (l : List α) (s : State) : KeepsOut s (l.foldl f s) :=
  List.foldlRecOn (motive := KeepsOut s) l f (.refl s) fun t ht x _ => ht.trans (hf t x)

theorem keepsOut_evqPut (s : State) (p kind : Nat) (body : List Byte) : KeepsOut s (s.evqPut p kind body) := by
  unfold State.evqPut State.hostStore
  dsimp only
  intro o ho
  rw [incWrap_out, setHport_out]
  exact List.mem_cons_of_mem _ (by rw [setBytes_out]; exact ho)

theorem keepsOut_evqWrite (s : State) (p kind : Nat) (body : List Byte) : KeepsOut s (s.evqWrite p kind body) := by
  have hloss : KeepsOut s (s.evqLoss p) := by
    unfold State.evqLoss
    split
    · exact .trans (.of_eq (setHport_out ..)) (keepsOut_evqPut _ _ _ _)
    · exact .refl s
  unfold State.evqWrite
  split
  · exact .refl s
  · dsimp only
    generalize s.evqLoss p = a at hloss ⊢
    split
    · exact hloss.trans (keepsOut_evqPut a _ _ _)
    · exact hloss.trans (.of_eq (by rw [setHport_out, incSat_out]))

theorem keepsOut_event (s : State) (kind : Nat) (body : List Byte) : KeepsOut s (s.event kind body) := .foldl (fun t p => keepsOut_evqWrite t p kind body) _ s

theorem keepsOut_sendFrame (s : State) (d p : Nat) (m : BitVec 48) (f : Frame) : KeepsOut s (s.sendFrame d p m f) := by
  unfold State.sendFrame
  dsimp only
  split
  · split
    · exact keepsOut_emit _ _
    · split
      · intro o ho
        unfold State.nativeSend State.linkSend
        exact List.mem_cons_of_mem _ (by rw [setFport_out, setFport_out]; exact ho)
      · exact .of_eq (setFport_out ..)
  · split
    · exact .of_eq (setFport_out ..)
    · exact .refl s

theorem keepsOut_faultNotices (s : State) : KeepsOut s s.faultNotices := by
  refine .foldl (fun t i => ?_) _ s
  dsimp only
  split
  · split
    · exact .foldl (fun u m => keepsOut_sendFrame u _ _ m _) _ t
    · exact keepsOut_sendFrame t _ _ _ _
  · exact .refl t

/-! ### Collectors (R425) -/

theorem emitAll_eq (s : State) (f : Nat → Out) : ∃ l, s.emitAll f = { s with out := l } ∧ (∀ o ∈ s.out, o ∈ l) ∧ ∀ i, i < s.err.collectors → f i ∈ l := by
  have hfold (l : List Nat) (t : State) : ∃ l', l.foldl (fun t i => t.emit (f i)) t = { t with out := l' } ∧ (∀ o ∈ t.out, o ∈ l') ∧ ∀ i ∈ l, f i ∈ l' := by
    induction l generalizing t with
    | nil => exact ⟨t.out, rfl, fun _ h => h, fun _ h => absurd h List.not_mem_nil⟩
    | cons j l ih =>
      obtain ⟨l', heq, hold, hnew⟩ := ih (t.emit (f j))
      refine ⟨l', heq, fun o ho => hold o (List.mem_cons_of_mem _ ho), fun i hi => ?_⟩
      rcases List.mem_cons.1 hi with rfl | hi
      · exact hold _ List.mem_cons_self
      · exact hnew i hi
  obtain ⟨l, heq, hold, hnew⟩ := hfold (List.range s.err.collectors) s
  exact ⟨l, heq, hold, fun i hi => hnew i (List.mem_range.2 hi)⟩

/-! ### The black box's buffer (R447) -/

/-- What an entry that is staged leaves. -/
structure Staged (s t : State) (kind rseq : Nat) (body : List Byte) : Prop where
  reach : s.within [.regs, .err] t
  queues : t.err.recQ = s.err.recQ ∧ t.err.arrived = s.err.arrived ∧ t.err.unsent = s.err.unsent ∧ t.err.ages = s.err.ages ∧ t.err.unlogged = s.err.unlogged ∧
    t.err.collectors = s.err.collectors ∧ t.err.mgmtUp = s.err.mgmtUp
  other : s.regsBut t [ecKey BBOX_NEXT, ecKey BBOX_PEND]
  room : s.err.staged.length < 4096 → ∃ e, t.err.staged = s.err.staged ++ [e] ∧ e.jseq = s.fld (ecKey BBOX_NEXT) 0 32 ∧ e.kind = kind ∧ e.body = body ∧ e.okA = true ∧ e.okB = true ∧ e.raw = none
  full : 4096 ≤ s.err.staged.length → t.err.staged = s.err.staged ∧ t.err.lossCount = s.err.lossCount + 1 ∧ t.fld (ecKey BBOX_PEND) 16 16 = min (s.fld (ecKey BBOX_PEND) 16 16 + 1) 0xFFFF

theorem stage_stages (s : State) (kind rseq : Nat) (body : List Byte) : Staged s (s.stage kind rseq body) kind rseq body := by
  have hall : s.within [.regs, .err] (s.stage kind rseq body) := within_stage (List.Subset.refl _) (within_refl s)
  unfold State.stage at hall ⊢
  by_cases hfull : 4096 ≤ s.err.staged.length
  · rw [if_pos hfull] at hall ⊢
    dsimp only at hall ⊢
    refine ⟨hall, ?_, fun k hk => ?_, fun h => absurd h (Nat.not_lt.2 hfull), fun _ => ⟨?_, ?_, ?_⟩⟩
    · rw [incSat_err]
      exact ⟨rfl, rfl, rfl, rfl, rfl, rfl, rfl⟩
    · simp only [List.mem_cons, List.not_mem_nil, or_false, not_or] at hk
      unfold State.incSat
      rw [reg_setFld_other _ _ _ _ hk.2]
      exact reg_of_regs rfl rfl k
    · rw [incSat_err]
    · rw [incSat_err]
    · rw [fld_incSat_same _ _ (by decide)]
      exact congrArg (fun n => min (n + 1) 0xFFFF) (fld_of_regs rfl rfl ..)
  · rw [if_neg hfull] at hall ⊢
    unfold State.stageOne at hall ⊢
    dsimp only at hall ⊢
    refine ⟨hall, ?_, fun k hk => ?_, fun _ => ⟨{ jseq := s.nextJ, kind := kind, body := body, okA := true, okB := true, raw := none }, ?_, rfl, rfl, rfl, rfl, rfl, rfl⟩, fun h => absurd h hfull⟩
    · rw [setReg_err]
      exact ⟨rfl, rfl, rfl, rfl, rfl, rfl, rfl⟩
    · simp only [List.mem_cons, List.not_mem_nil, or_false, not_or] at hk
      rw [reg_setReg, if_neg hk.1]
      exact reg_of_regs rfl rfl k
    · rw [setReg_err]

/-! ### Management Ethernet (R425) -/

theorem holdRec_eq (e : Err) (now : Nat) (r : Rec) : ∃ m n, m = e.unsent.length + 1 - 1024 ∧ n = e.unlogged.length + 1 - 1024 ∧
    State.holdRec e now r = { e with unsent := (e.unsent ++ [r]).drop m, ages := (e.ages ++ [now]).drop m, unlogged := (e.unlogged ++ [r]).drop n } := ⟨_, _, rfl, rfl, rfl⟩

/-- What a record that goes to the collectors leaves. -/
structure ToMgmt (s t : State) (r : Rec) : Prop where
  reach : s.within [.err, .out] t
  queues : t.err.recQ = s.err.recQ ∧ t.err.arrived = s.err.arrived ∧ t.err.staged = s.err.staged ∧ t.err.lossCount = s.err.lossCount
  sent : s.err.collectors ≠ 0 → s.err.mgmtUp = true → (∀ i, i < s.err.collectors → .syslog i r.syslog ∈ t.out) ∧ t.err.unsent = s.err.unsent ++ [r] ∧ t.err.ages = s.err.ages ++ [s.now] ∧
    t.err.unlogged = s.err.unlogged
  held : s.err.collectors ≠ 0 → s.err.mgmtUp = false → t.err.unsent = (s.err.unsent ++ [r]).drop (s.err.unsent.length + 1 - 1024) ∧
    t.err.unlogged = (s.err.unlogged ++ [r]).drop (s.err.unlogged.length + 1 - 1024)
  none : s.err.collectors = 0 → t.err.unsent = s.err.unsent ∧ t.err.unlogged = s.err.unlogged

theorem toMgmt_goes (s : State) (r : Rec) : ToMgmt s (s.toMgmt r) r := by
  have hall : s.within [.err, .out] (s.toMgmt r) := within_toMgmt (List.Subset.refl _) (within_refl s)
  unfold State.toMgmt at hall ⊢
  dsimp only at hall ⊢
  by_cases hnone : s.err.collectors = 0
  · rw [if_pos hnone] at hall ⊢
    exact ⟨hall, ⟨rfl, rfl, rfl, rfl⟩, fun h => absurd hnone h, fun h => absurd hnone h, fun _ => ⟨rfl, rfl⟩⟩
  rw [if_neg hnone] at hall ⊢
  by_cases hup : s.err.mgmtUp = true
  · rw [if_pos hup] at hall ⊢
    obtain ⟨l, heq, -, hnew⟩ := emitAll_eq ({ s with err := { s.err with unsent := s.err.unsent ++ [r], ages := s.err.ages ++ [s.now] } } : State) fun i => .syslog i r.syslog
    rw [heq] at hall ⊢
    exact ⟨hall, ⟨rfl, rfl, rfl, rfl⟩, fun _ _ => ⟨hnew, rfl, rfl, rfl⟩, fun _ h => absurd (hup.symm.trans h) (by decide), fun h => absurd h hnone⟩
  · rw [if_neg hup] at hall ⊢
    obtain ⟨m, n, hm, hn, heq⟩ := holdRec_eq s.err s.now r
    rw [heq] at hall ⊢
    exact ⟨hall, ⟨rfl, rfl, rfl, rfl⟩, fun _ h => absurd h hup, fun _ _ => by rw [← hm, ← hn]; exact ⟨rfl, rfl⟩, fun h => absurd h hnone⟩

end Sys2Proof.RecordWay
end

section
/-! PROOFS. A record that arrives (R423-R432). -/

namespace Sys2Proof.RecordWay

open Sys2Proof Sys2Proof.Machine Sys2Proof.Laws Sys2Proof.Clauses Sys2Proof.InputPower Sys2Proof.RegionCommands
open Sys2Proof.Bookkeeping (Booked quiet_ecKey)

variable {s t u : State}

/-- The times of the engine's records within 10 minutes, with the present one. -/
def engineTimes (s : State) : List Nat := (s.boot.engRecs.filter fun q => decide (s.now ≤ q + 600000000000)) ++ [s.now]

/-- What the restart that a record asks for leaves (R432). -/
structure AsksReset (s t : State) (r : Rec) : Prop where
  reach : s.within [.fports, .boot, .out] t
  kept : KeepsOut s t
  recs : t.boot.engRecs = engineTimes s
  due : s.starting = false → s.boot.restartDue = none → s.boot.off = false →
    t.boot.restartDue = some (s.now + 50000000) ∧ t.boot.restartCls = r.cls ∧ t.boot.restartCold = decide (3 ≤ t.boot.engRecs.length)

theorem engineReset_asks (s : State) (r : Rec) : AsksReset s (s.engineReset r) r := by
  have hall : s.within [.fports, .boot, .out] (s.engineReset r) := within_engineReset (List.Subset.refl _) (within_refl s)
  have hrecs : (s.boot.engRecs.filter fun q => decide (s.now ≤ q + 600000000000)) ++ [s.now] = engineTimes s := rfl
  unfold State.engineReset at hall ⊢
  rw [hrecs] at hall ⊢
  generalize hts : engineTimes s = ts at hall ⊢
  by_cases hno : (s.starting || s.boot.restartDue.isSome || s.boot.off) = true
  · simp only [if_pos hno] at hall ⊢
    refine ⟨hall, .of_eq rfl, hts.symm, fun hstart hdue hoff => absurd hno ?_⟩
    rw [hstart, hdue, hoff]
    decide
  · simp only [if_neg hno] at hall ⊢
    generalize hs0 : ({ s with boot := { s.boot with engRecs := ts, restartCold := s.boot.restartCold || (s.boot.restartDue.isSome && Nat.ble 3 ts.length) } } : State) = s0 at hall ⊢
    have hb : s0.faultNotices.boot = s0.boot := StartPhases.within_same (within_faultNotices (List.Subset.refl _) (within_refl s0)) .boot (by decide)
    have ho : KeepsOut s s0.faultNotices := .trans (.of_eq (by rw [← hs0])) (keepsOut_faultNotices s0)
    refine ⟨hall, ho, ?_, fun _ _ _ => ⟨rfl, rfl, ?_⟩⟩
    · rw [hts, hb, ← hs0]
    · rw [hb, ← hs0]
      exact Bool.eq_iff_iff.2 ⟨fun h => decide_eq_true (Nat.le_of_ble_eq_true h), fun h => Nat.ble_eq_true_of_le (of_decide_eq_true h)⟩

/-- The two registers of the severity counters. -/
def sevKey (sev : Nat) : Nat := ecKey (if sev < 2 then BBOX_CNT_CC else BBOX_CNT_ES)

theorem quiet_sevKey (sev : Nat) : Bookkeeping.quiet (sevKey sev) := by
  unfold sevKey
  split
  · exact quiet_ecKey (by decide) (by decide) (by decide) (by decide)
  · exact quiet_ecKey (by decide) (by decide) (by decide) (by decide)

theorem sevKey_ne {o : Nat} (h : ecKey BBOX_CNT_CC ≠ ecKey o) (h' : ecKey BBOX_CNT_ES ≠ ecKey o) (sev : Nat) : sevKey sev ≠ ecKey o := by
  unfold sevKey
  split
  · exact h
  · exact h'

theorem countSev_eq (s : State) (sev : Nat) : s.countSev sev = s.incSat (sevKey sev) (16 * (sev % 2)) 16 1 := rfl

theorem countSev_counts (s : State) (sev : Nat) : (s.countSev sev).fld (sevKey sev) (16 * (sev % 2)) 16 = min (s.fld (sevKey sev) (16 * (sev % 2)) 16 + 1) 0xFFFF := by
  rw [countSev_eq, fld_incSat_same _ _ (by omega)]
  rfl

/-- What the way of a record to its destinations leaves, before a restart is asked for. -/
structure Arrives (s t : State) (r : Rec) : Prop where
  reach : s.within [.regs, .mem, .hports, .err, .out] t
  queues : t.err.recQ = s.err.recQ ∧ t.err.arrived = s.err.arrived
  counted : t.fld (sevKey r.sev) (16 * (r.sev % 2)) 16 = min (s.fld (sevKey r.sev) (16 * (r.sev % 2)) 16 + 1) 0xFFFF
  started : t.starting = s.starting
  room : s.err.staged.length < 4096 → ∃ e, t.err.staged = s.err.staged ++ [e] ∧ e.jseq = s.fld (ecKey BBOX_NEXT) 0 32 ∧ e.kind = 1 ∧ e.body = r.bytes ∧ e.okA = true ∧ e.okB = true ∧ e.raw = none
  full : 4096 ≤ s.err.staged.length → t.err.staged = s.err.staged ∧ t.err.lossCount = s.err.lossCount + 1 ∧ t.fld (ecKey BBOX_PEND) 16 16 = min (s.fld (ecKey BBOX_PEND) 16 16 + 1) 0xFFFF
  sent : s.err.collectors ≠ 0 → s.err.mgmtUp = true → (∀ i, i < s.err.collectors → .syslog i r.syslog ∈ t.out) ∧ t.err.unsent = s.err.unsent ++ [r] ∧ t.err.ages = s.err.ages ++ [s.now] ∧
    t.err.unlogged = s.err.unlogged
  held : s.err.collectors ≠ 0 → s.err.mgmtUp = false → t.err.unsent = (s.err.unsent ++ [r]).drop (s.err.unsent.length + 1 - 1024) ∧
    t.err.unlogged = (s.err.unlogged ++ [r]).drop (s.err.unlogged.length + 1 - 1024)
  none : s.err.collectors = 0 → t.err.unsent = s.err.unsent ∧ t.err.unlogged = s.err.unlogged

theorem way_arrives (s : State) (r : Rec) : Arrives s ((((s.stage 1 r.rseq r.bytes).toMgmt r).event 1 r.bytes).countSev r.sev) r := by
  have hst := stage_stages s 1 r.rseq r.bytes
  generalize s.stage 1 r.rseq r.bytes = a at hst ⊢
  have hto := toMgmt_goes a r
  generalize a.toMgmt r = b at hto ⊢
  have hev : b.within [.regs, .mem, .hports, .out] (b.event 1 r.bytes) := within_event (List.Subset.refl _) (within_refl b)
  have hout := keepsOut_event b 1 r.bytes
  have hbook : Booked b (b.event 1 r.bytes) := .event (.refl b) _ _
  generalize b.event 1 r.bytes = c at hev hout hbook ⊢
  have hcount : c.within [.regs] (c.countSev r.sev) := within_countSev (List.Subset.refl _) (within_refl c)
  have hval := countSev_counts c r.sev
  have hrest (k : Nat) (hk : k ≠ sevKey r.sev) : (c.countSev r.sev).reg k = c.reg k := by rw [countSev_eq, reg_incSat_other _ _ _ _ hk]
  generalize c.countSev r.sev = t at hcount hval hrest ⊢
  have herr : t.err = b.err := (StartPhases.within_same hcount .err (by decide)).trans (StartPhases.within_same hev .err (by decide))
  have hreg (k : Nat) (hq : Bookkeeping.quiet k) (hk : k ≠ sevKey r.sev) : t.reg k = a.reg k :=
    (hrest k hk).trans ((hbook.reg k hq).trans (reg_of_regs hto.reach.1 (StartPhases.within_same hto.reach .regs (by decide)) k))
  have hfld {k : Nat} (hq : Bookkeeping.quiet k) (hk : k ≠ sevKey r.sev) (lo w : Nat) : t.fld k lo w = a.fld k lo w := fld_of_reg (hreg k hq hk) lo w
  have hcnt : c.fld (sevKey r.sev) (16 * (r.sev % 2)) 16 = s.fld (sevKey r.sev) (16 * (r.sev % 2)) 16 := by
    have hne : sevKey r.sev ∉ [ecKey BBOX_NEXT, ecKey BBOX_PEND] := by
      simp only [List.mem_cons, List.not_mem_nil, or_false, not_or]
      exact ⟨sevKey_ne (by decide) (by decide) _, sevKey_ne (by decide) (by decide) _⟩
    rw [hbook.fld (quiet_sevKey r.sev), fld_of_regs hto.reach.1 (StartPhases.within_same hto.reach .regs (by decide)), fld_of_reg (hst.other _ hne)]
  have hnow : a.now = s.now := now_of_within hst.reach
  obtain ⟨hq1, hq2, hunsent, hages, hunlogged, hcoll, hup⟩ := hst.queues
  obtain ⟨hb1, hb2, hb3, hb4⟩ := hto.queues
  have hall : s.within [.regs, .mem, .hports, .err, .out] t :=
    within_trans (within_mono hst.reach (by decide)) (within_trans (within_mono hto.reach (by decide)) (within_trans (within_mono hev (by decide)) (within_mono hcount (by decide))))
  refine ⟨hall, ⟨?_, ?_⟩, ?_, ?_, fun h => ?_, fun h => ?_, fun hc hu => ?_, fun hc hu => ?_, fun hc => ?_⟩
  · rw [herr, hb1, hq1]
  · rw [herr, hb2, hq2]
  · rw [hval, hcnt]
  · have hb : t.fld (ecKey BOOT_STAT) 4 1 = s.fld (ecKey BOOT_STAT) 4 1 :=
      (hfld (quiet_ecKey (by decide) (by decide) (by decide) (by decide)) (sevKey_ne (by decide) (by decide) _).symm 4 1).trans (fld_of_reg (hst.other _ (by decide)) 4 1)
    unfold State.starting
    rw [hb]
  · rw [herr, hb3]
    exact hst.room h
  · rw [herr, hb3, hb4, hfld (quiet_ecKey (by decide) (by decide) (by decide) (by decide)) (sevKey_ne (by decide) (by decide) _).symm]
    exact hst.full h
  · obtain ⟨hlog, h1, h2, h3⟩ := hto.sent (hcoll ▸ hc) (hup ▸ hu)
    rw [herr, h1, h2, h3, hunsent, hages, hunlogged, hnow, StartPhases.within_same hcount .out (by decide)]
    exact ⟨fun i hi => hout _ (hlog i (hcoll ▸ hi)), rfl, rfl, rfl⟩
  · obtain ⟨h1, h2⟩ := hto.held (hcoll ▸ hc) (hup ▸ hu)
    rw [hunsent] at h1
    rw [hunlogged] at h2
    rw [herr]
    exact ⟨h1, h2⟩
  · obtain ⟨h1, h2⟩ := hto.none (hcoll ▸ hc)
    rw [herr, h1, h2]
    exact ⟨hunsent, hunlogged⟩

/-- The state in which the record leaves its queue and takes the next RSEQ. -/
def taken (s : State) (r0 : Rec) : State :=
  { s with err := { s.err with recQ := s.err.recQ.erase r0, arrived := { r0 with rseq := s.flash.rseq } :: s.err.arrived }, flash := { s.flash with rseq := s.flash.rseq % 0xFFFFFFFF + 1, ctrDone := false } }

theorem recordArrive_eq {r0 r : Rec} (h : firstRec s.err.recQ = some r0) (hr : { r0 with rseq := s.flash.rseq } = r) {t : State}
    (ht : ((((taken s r0).stage 1 r.rseq r.bytes).toMgmt r).event 1 r.bytes).countSev r.sev = t) : s.recordArrive = if isEngine r then t.engineReset r else t := by
  subst hr ht
  unfold State.recordArrive
  rw [h]
  rfl

/-- What the arrival of a record leaves. -/
structure Arrived (s t : State) (r0 r : Rec) : Prop where
  way : ∃ u, Arrives (taken s r0) u r ∧ u.within [.fports, .boot, .out] t ∧ KeepsOut u t
  calm : r.sev ≠ 2 → t.boot = s.boot
  engine : r.sev = 2 → t.boot.engRecs = engineTimes s
  due : r.sev = 2 → s.starting = false → s.boot.restartDue = none → s.boot.off = false →
    t.boot.restartDue = some (s.now + 50000000) ∧ t.boot.restartCls = r.cls ∧ t.boot.restartCold = decide (3 ≤ t.boot.engRecs.length)

theorem recordArrive_arrives {r0 r : Rec} (h : firstRec s.err.recQ = some r0) (hr : { r0 with rseq := s.flash.rseq } = r) : Arrived s s.recordArrive r0 r := by
  have hway := way_arrives (taken s r0) r
  generalize ht : ((((taken s r0).stage 1 r.rseq r.bytes).toMgmt r).event 1 r.bytes).countSev r.sev = t at hway
  have hboot : t.boot = s.boot := StartPhases.within_same hway.reach .boot (by decide)
  have hnow : t.now = s.now := (now_of_within hway.reach).trans rfl
  have htimes : engineTimes t = engineTimes s := by
    unfold engineTimes
    rw [hboot, hnow]
  rw [recordArrive_eq h hr ht]
  by_cases hsev : r.sev = 2
  · rw [if_pos (show isEngine r = true from beq_iff_eq.2 hsev)]
    have hask := engineReset_asks t r
    refine ⟨⟨t, hway, hask.reach, hask.kept⟩, fun hne => absurd hsev hne, fun _ => hask.recs.trans htimes, fun _ hstart hdue hoff => ?_⟩
    rw [← hnow]
    exact hask.due (hway.started.trans hstart) (hboot ▸ hdue) (hboot ▸ hoff)
  · rw [if_neg (show ¬ isEngine r = true from fun h => hsev (beq_iff_eq.1 h))]
    exact ⟨⟨t, hway, within_refl t, .refl t⟩, fun _ => hboot, fun h => absurd h hsev, fun h => absurd h hsev⟩

end Sys2Proof.RecordWay
end

section
/-! PROOFS. The black box's commits, datagrams and the management link (R425, R445-R448). -/

namespace Sys2Proof.RecordWay

open Sys2Proof Sys2Proof.Machine Sys2Proof.Laws Sys2Proof.Clauses Sys2Proof.InputPower Sys2Proof.RegionCommands

variable {s t u : State}

/-! ### Commits -/

theorem flashRec_logs (s : State) (cls n : Nat) : ∃ e, (s.flashRec cls n).err.recQ = s.err.recQ ++ [e] ∧ e.cls = cls ∧ e.detail = BitVec.ofNat 64 n := ⟨_, rfl, rfl, rfl⟩

/-- The black box of `t` is that of `s`. -/
structure SameBox (s t : State) : Prop where
  staged : t.err.staged = s.err.staged
  box : t.err.bbox = s.err.bbox
  loss : t.err.lossDue = s.err.lossDue
  boot : t.boot = s.boot
  flash : t.flash = s.flash

theorem sameBox_flashRec (s : State) (cls n : Nat) : SameBox s (s.flashRec cls n) := ⟨rfl, rfl, rfl, raise_boot .., raise_flash ..⟩

theorem copyFail_good (s : State) (h : s.flash.dev0 = true ∨ s.flash.dev1 = true) : s.copyFail true true = s := by
  have hgone : (!s.flash.dev0 && !s.flash.dev1) = false := by
    rcases h with h | h
    · rw [h]
      rfl
    · rw [h, Bool.not_true, Bool.and_false]
  unfold State.copyFail State.dropDevs
  simp only [Bool.not_true, Bool.and_false, Bool.and_true, hgone, Bool.false_and, Bool.false_eq_true, if_false, Bool.or_false]

theorem copyFail_gone (s : State) (ok0 ok1 : Bool) (h0 : s.flash.dev0 = false) (h1 : s.flash.dev1 = false) (hlog : s.flash.noDevLogged = true) : s.copyFail ok0 ok1 = s := by
  unfold State.copyFail State.dropDevs
  simp only [h0, h1, hlog, Bool.false_and, Bool.not_true, Bool.and_false, Bool.false_eq_true, if_false, Bool.or_false]
  have hflash : ({ s.flash with dev0 := false, dev1 := false, noDevLogged := true } : Flash) = s.flash := by
    generalize s.flash = f at h0 h1 hlog
    cases f
    cases h0
    cases h1
    cases hlog
    rfl
  rw [hflash]

/-- What a write that fails in the first copy alone leaves. -/
structure FirstLost (s t : State) : Prop where
  dev0 : t.flash.dev0 = false
  dev1 : t.flash.dev1 = true
  logged : ∃ a b, t.err.recQ = s.err.recQ ++ [a, b] ∧ a.cls = 0x8F ∧ a.detail = 1 ∧ b.cls = 0x82 ∧ b.detail = 4
  staged : t.err.staged = s.err.staged
  box : t.err.bbox = s.err.bbox
  loss : t.err.lossDue = s.err.lossDue
  boot : t.boot = s.boot

theorem copyFail_first (s : State) (h0 : s.flash.dev0 = true) (h1 : s.flash.dev1 = true) : FirstLost s (s.copyFail false true) := by
  obtain ⟨a, ha, hacls, hadet⟩ := flashRec_logs s 0x8F 1
  have ha' := sameBox_flashRec s 0x8F 1
  unfold State.copyFail
  simp only [h0, h1, Bool.not_true, Bool.not_false, Bool.and_false, Bool.and_true, Bool.false_eq_true, if_true, if_false]
  generalize s.flashRec 0x8F 1 = x at ha ha'
  obtain ⟨b, hb, hbcls, hbdet⟩ := flashRec_logs x 0x82 4
  have hb' := sameBox_flashRec x 0x82 4
  unfold State.dropDevs State.flashEvent
  simp only [ha'.flash, h0, h1, Bool.not_true, Bool.not_false, Bool.and_false, Bool.and_true, Bool.false_and, Bool.false_eq_true, if_true, if_false]
  generalize x.flashRec 0x82 4 = y at hb hb'
  refine ⟨rfl, rfl, ⟨a, b, ?_, hacls, hadet, hbcls, hbdet⟩, hb'.staged.trans ha'.staged, hb'.box.trans ha'.box, hb'.loss.trans ha'.loss, hb'.boot.trans ha'.boot⟩
  rw [hb, ha, List.append_assoc]
  rfl

theorem journal_appends (s : State) (e : JEntry) (h : s.err.bbox.length < 1048576) : s.journal e = { s with err := { s.err with bbox := s.err.bbox ++ [e] } } := by
  have hfull : Nat.ble 1048576 s.err.bbox.length = false := Bool.eq_false_iff.2 fun h' => absurd (Nat.le_of_ble_eq_true h') (Nat.not_le.2 h)
  unfold State.journal
  simp only [hfull, Bool.false_eq_true, if_false, Bool.false_and, Bool.or_false]

theorem stageLoss_none (s : State) (h : s.err.lossDue = false) : s.stageLoss = s := by
  unfold State.stageLoss
  rw [if_neg]
  rintro ⟨hd, -⟩
  exact absurd (hd.symm.trans h) (by decide)

theorem nextStaged_first (s : State) (h : s.boot.off = false) : s.nextStaged = 0 := by
  unfold State.nextStaged
  rw [h]
  rfl

/-- The state in which the oldest staged entry stands in the black box. -/
def committed (s : State) (e : JEntry) (rest : List JEntry) : State :=
  { s with
      err := { s.err with staged := rest, bbox := s.err.bbox ++ [{ e with okA := s.flash.dev0, okB := s.flash.dev1 }] },
      boot := if State.isEngineEntry e = true ∧ s.boot.restartDue.isSome = true then { s.boot with restartDue := some s.now } else s.boot }

theorem bboxCommit_commits {e : JEntry} {rest : List JEntry} {ok0 ok1 : Bool} {c : State} (hst : s.err.staged = e :: rest) (hoff : s.boot.off = false) (hbehind : s.flashBehind = false)
    (hc : s.copyFail ok0 ok1 = c) (hcst : c.err.staged = s.err.staged) (hcboot : c.boot = s.boot) (hdev : (!c.flash.dev0 && !c.flash.dev1) = false)
    (hlen : c.err.bbox.length < 1048576) (hloss : c.err.lossDue = false) : s.bboxCommit ok0 ok1 = committed c e rest := by
  have hn : c.nextStaged = 0 := nextStaged_first c (hcboot ▸ hoff)
  unfold State.bboxCommit
  rw [nextStaged_first s hoff, hst]
  simp only [List.getElem?_cons_zero, hbehind, Bool.and_false, Bool.false_eq_true, if_false, hc, hdev, hn, hcst, hst, List.eraseIdx_cons_zero]
  rw [journal_appends ({ c with err := { c.err with staged := rest } } : State) _ hlen]
  by_cases hrec : (State.isEngineEntry e && c.boot.restartDue.isSome) = true
  · have hrec' : State.isEngineEntry e = true ∧ c.boot.restartDue.isSome = true := Bool.and_eq_true_iff.1 hrec
    rw [if_pos hrec]
    refine (stageLoss_none _ ?_).trans ?_
    · exact hloss
    unfold committed
    rw [if_pos hrec']
    rfl
  · have hrec' : ¬ (State.isEngineEntry e = true ∧ c.boot.restartDue.isSome = true) := fun h => hrec (Bool.and_eq_true_iff.2 h)
    rw [if_neg hrec]
    refine (stageLoss_none _ ?_).trans ?_
    · exact hloss
    unfold committed
    rw [if_neg hrec']

theorem bboxCommit_behind (s : State) (ok0 ok1 : Bool) (hdev : s.flash.dev0 = true ∨ s.flash.dev1 = true) (hbehind : s.flashBehind = true) : s.bboxCommit ok0 ok1 = s := by
  have h : ((s.flash.dev0 || s.flash.dev1) && s.flashBehind) = true := by
    rw [hbehind, Bool.and_true]
    exact Bool.or_eq_true_iff.2 hdev
  unfold State.bboxCommit
  simp only [h, if_true]
  split
  · rfl
  · rfl

theorem bboxCommit_no_device (s : State) (ok0 ok1 : Bool) (h0 : s.flash.dev0 = false) (h1 : s.flash.dev1 = false) (hlog : s.flash.noDevLogged = true) (hoff : s.boot.off = false)
    (hloss : s.err.lossDue = false) : s.bboxCommit ok0 ok1 = { s with err := { s.err with staged := s.err.staged.drop 1 } } := by
  have hc := copyFail_gone s ok0 ok1 h0 h1 hlog
  have hn := nextStaged_first s hoff
  unfold State.bboxCommit
  cases hst : s.err.staged with
  | nil =>
    simp only [hn, List.getElem?_nil, List.drop_nil]
    rw [← hst]
  | cons e rest =>
    simp only [hn, hst, hc, h0, h1, List.getElem?_cons_zero, Bool.or_false, Bool.false_and, Bool.false_eq_true, if_false, Bool.not_false, Bool.and_self, if_true, List.eraseIdx_cons_zero, List.drop_one, List.tail_cons]
    exact stageLoss_none _ hloss

/-! ### Datagrams (R425) -/

/-- What a datagram leaves. -/
structure SentDatagram (s t : State) : Prop where
  err : t.err = { s.err with unsent := s.err.unsent.drop 16, ages := s.err.ages.drop 16 }
  rest : { t with err := s.err, out := s.out } = s
  regs : t.regs = s.regs
  kept : KeepsOut s t
  sent : ∀ i, i < s.err.collectors → .datagram i (datagramBytes (s.err.unsent.take 16)) ∈ t.out

theorem sendRecs_sends (s : State) : SentDatagram s s.sendRecs := by
  unfold State.sendRecs
  dsimp only
  obtain ⟨l, heq, hold, hnew⟩ := emitAll_eq ({ s with err := { s.err with unsent := s.err.unsent.drop 16, ages := s.err.ages.drop 16 } } : State)
    fun i => .datagram i (datagramBytes (s.err.unsent.take 16))
  rw [heq]
  exact ⟨rfl, rfl, rfl, hold, hnew⟩

/-- What the datagrams of all held records leave. -/
structure SentHeld (s t : State) : Prop where
  err : t.err.unlogged = s.err.unlogged ∧ t.err.mgmtUp = s.err.mgmtUp ∧ t.err.recQ = s.err.recQ
  regs : t.regs = s.regs
  kept : KeepsOut s t
  sent : ∀ r ∈ s.err.unsent, ∃ l, r ∈ l ∧ l.length ≤ 16 ∧ ∀ i, i < s.err.collectors → .datagram i (datagramBytes l) ∈ t.out

theorem sendHeld_sends (n : Nat) (s : State) (hn : s.err.unsent.length < n) : SentHeld s (s.sendHeld n) ∧ (s.sendHeld n).err.unsent = [] := by
  induction n generalizing s with
  | zero => exact absurd hn (Nat.not_lt_zero _)
  | succ n ih =>
    unfold State.sendHeld
    by_cases hempty : s.err.unsent.isEmpty = true
    · rw [if_pos hempty]
      have hnil := List.isEmpty_iff.1 hempty
      exact ⟨⟨⟨rfl, rfl, rfl⟩, rfl, .refl s, fun r hr => absurd (hnil ▸ hr) List.not_mem_nil⟩, hnil⟩
    rw [if_neg hempty]
    have hsend := sendRecs_sends s
    generalize s.sendRecs = a at hsend
    have hlen : 0 < s.err.unsent.length := List.length_pos_iff.2 fun h => hempty (List.isEmpty_iff.2 h)
    have hunsent : a.err.unsent = s.err.unsent.drop 16 := by rw [hsend.err]
    have hcoll : a.err.collectors = s.err.collectors := by rw [hsend.err]
    obtain ⟨hrest, hdone⟩ := ih a (by rw [hunsent, List.length_drop]; omega)
    obtain ⟨hlogs, hups, hqs⟩ := hrest.err
    refine ⟨⟨⟨hlogs.trans (by rw [hsend.err]), hups.trans (by rw [hsend.err]), hqs.trans (by rw [hsend.err])⟩, hrest.regs.trans hsend.regs, hsend.kept.trans hrest.kept, fun r hr => ?_⟩, hdone⟩
    rw [← List.take_append_drop 16 s.err.unsent, List.mem_append] at hr
    rcases hr with hr | hr
    · exact ⟨_, hr, List.length_take_le _ _, fun i hi => hrest.kept _ (hsend.sent i hi)⟩
    · obtain ⟨l, hmem, hl, hout⟩ := hrest.sent r (hunsent ▸ hr)
      exact ⟨l, hmem, hl, fun i hi => hout i (hcoll ▸ hi)⟩

theorem datagram_sends (s : State) (hup : s.err.mgmtUp = true) (hne : s.err.unsent ≠ []) (hdue : 16 ≤ s.err.unsent.length ∨ (s.err.ages.head?).getD 0 + 1000000 ≤ s.now) : s.datagram = s.sendRecs := by
  unfold State.datagram
  dsimp only
  rw [if_pos]
  rw [hup, Bool.true_and, Bool.and_eq_true_iff, Bool.or_eq_true_iff]
  exact ⟨by rw [Bool.not_eq_true', Bool.eq_false_iff]; exact fun h => hne (List.isEmpty_iff.1 h), hdue.imp Nat.ble_eq_true_of_le Nat.ble_eq_true_of_le⟩

theorem datagram_down (s : State) (h : s.err.mgmtUp = false) : s.datagram = s := by
  unfold State.datagram
  dsimp only
  rw [if_neg]
  rw [h, Bool.false_and, Bool.false_and]
  exact Bool.false_ne_true

theorem syslog_all (rs : List Rec) (s : State) : ∃ l, rs.foldl (fun t r => t.emitAll fun i => .syslog i r.syslog) s = { s with out := l } ∧ (∀ o ∈ s.out, o ∈ l) ∧
    ∀ r ∈ rs, ∀ i, i < s.err.collectors → .syslog i r.syslog ∈ l := by
  induction rs generalizing s with
  | nil => exact ⟨s.out, rfl, fun _ h => h, fun _ h => absurd h List.not_mem_nil⟩
  | cons r rs ih =>
    rw [List.foldl_cons]
    obtain ⟨l, heq, hold, hnew⟩ := emitAll_eq s fun i => .syslog i r.syslog
    rw [heq]
    obtain ⟨l', heq', hold', hnew'⟩ := ih { s with out := l }
    refine ⟨l', heq', fun o ho => hold' o (hold o ho), fun r' hr i hi => ?_⟩
    rcases List.mem_cons.1 hr with rfl | hr
    · exact hold' _ (hnew i hi)
    · exact hnew' r' hr i hi

/-- What the return of the management link leaves. -/
structure LinkReturns (s t : State) : Prop where
  err : t.err.mgmtUp = true ∧ t.err.unsent = [] ∧ t.err.unlogged = [] ∧ t.err.recQ = s.err.recQ
  regs : t.regs = s.regs
  logs : ∀ r ∈ s.err.unlogged, ∀ i, i < s.err.collectors → .syslog i r.syslog ∈ t.out
  sent : ∀ r ∈ s.err.unsent, ∃ l, r ∈ l ∧ l.length ≤ 16 ∧ ∀ i, i < s.err.collectors → .datagram i (datagramBytes l) ∈ t.out

theorem mgmtUp_returns (s : State) (h : s.err.mgmtUp = false) : LinkReturns s s.mgmtUp := by
  obtain ⟨l, heq, -, hlogs⟩ := syslog_all s.err.unlogged { s with err := { s.err with mgmtUp := true, unlogged := [] } }
  unfold State.mgmtUp
  rw [if_neg (by rw [h]; decide)]
  dsimp only
  rw [heq]
  obtain ⟨hsent, hdone⟩ := sendHeld_sends (s.err.unsent.length + 1) { s with err := { s.err with mgmtUp := true, unlogged := [] }, out := l } (Nat.lt_succ_self _)
  obtain ⟨hlog, hup, hq⟩ := hsent.err
  exact ⟨⟨hup, hdone, hlog, hq⟩, hsent.regs, fun r hr i hi => hsent.kept _ (hlogs r hr i hi), hsent.sent⟩

end Sys2Proof.RecordWay
end

section
/-! PROOFS. Records reach their destinations (O48). -/

namespace Sys2Proof.RecordWay

open Sys2Proof Sys2Proof.Machine Sys2Proof.Laws Sys2Proof.Clauses Sys2Proof.InputPower

/-- Settles O48: each command of a record's way does what the section on it says; the severities' counters are apart from the black box's registers. -/
theorem recordsReachTheirDestinations : Obligations.RecordsReachTheirDestinations := by
  unfold Obligations.RecordsReachTheirDestinations
  refine ⟨fun s r0 h => ?_, fun s h => ?_, fun s e rest hst hoff hdev hlen hloss hbehind => ?_, fun s e rest hst hoff h0 h1 hlen hloss hbehind => ?_, fun s ok0 ok1 => ⟨fun _ hdev hbehind => ?_, fun h0 h1 hlog hoff hloss => ?_⟩,
    fun s => ⟨fun hup hne hdue => ?_, fun hdown => ?_, fun hdown => ?_, rfl⟩, fun s j => ?_⟩
  · dsimp only
    generalize hr : { r0 with rseq := s.flash.rseq } = r
    have hsev : r.sev = r0.sev := by rw [← hr]
    have hcls : r.cls = r0.cls := by rw [← hr]
    obtain ⟨⟨u, hway, hreach, hout⟩, hcalm, hengine, hdue⟩ := recordArrive_arrives h hr
    have herr : s.recordArrive.err = u.err := StartPhases.within_same hreach .err (by decide)
    have hflash : s.recordArrive.flash = (taken s r0).flash := (StartPhases.within_same hreach .flash (by decide)).trans (StartPhases.within_same hway.reach .flash (by decide))
    have hfld (k lo w : Nat) : s.recordArrive.fld k lo w = u.fld k lo w := fld_of_regs hreach.1 (StartPhases.within_same hreach .regs (by decide)) ..
    rw [← hsev, ← hcls]
    refine ⟨s.recordArrive, rfl, by rw [herr]; exact hway.queues.1, ?_, hflash, (StartPhases.within_same hreach .jobs (by decide)).trans (StartPhases.within_same hway.reach .jobs (by decide)),
      (StartPhases.within_same hreach .cells (by decide)).trans (StartPhases.within_same hway.reach .cells (by decide)),
      (StartPhases.within_same hreach .regions (by decide)).trans (StartPhases.within_same hway.reach .regions (by decide)), ?_, ?_, ?_, ?_, ?_, ?_, hcalm,
      fun h2 hstart hdue' hoff => hdue h2 ?_ hdue' hoff, hengine⟩
    · rw [herr, ← hr]
      exact hway.queues.2
    · rw [hfld]
      exact hway.counted
    · rw [herr]
      exact hway.room
    · rw [herr, hfld]
      exact hway.full
    · rw [herr]
      exact fun hc hu => ⟨fun i hi => hout _ ((hway.sent hc hu).1 i hi), (hway.sent hc hu).2⟩
    · rw [herr]
      exact hway.held
    · rw [herr]
      exact hway.none
    · unfold State.starting
      rw [hstart]
      rfl
  · refine congrArg Host.Outcome.next ?_
    unfold State.recordArrive
    rw [h]
    rfl
  · have hc := copyFail_good s hdev
    have hdev' : (!s.flash.dev0 && !s.flash.dev1) = false := by
      rcases hdev with hd | hd
      · rw [hd]
        rfl
      · rw [hd, Bool.not_true, Bool.and_false]
    exact ⟨_, congrArg Host.Outcome.next (bboxCommit_commits hst hoff hbehind hc rfl rfl hdev' hlen hloss), rfl, rfl, rfl, rfl⟩
  · have hlost := copyFail_first s h0 h1
    have hdev : (!(s.copyFail false true).flash.dev0 && !(s.copyFail false true).flash.dev1) = false := by
      rw [hlost.dev1, Bool.not_true, Bool.and_false]
    obtain ⟨a, b, hq, ha, ha', hb, hb'⟩ := hlost.logged
    refine ⟨_, a, b, congrArg Host.Outcome.next (bboxCommit_commits hst hoff hbehind rfl hlost.staged hlost.boot hdev (hlost.box ▸ hlen) (hlost.loss.trans hloss)), hlost.dev0, hlost.dev1, hq, ha, ha', hb, hb', rfl, ?_⟩
    unfold committed
    rw [hlost.dev0, hlost.dev1, hlost.box]
  · exact congrArg Host.Outcome.next (bboxCommit_behind s ok0 ok1 hdev hbehind)
  · exact congrArg Host.Outcome.next (bboxCommit_no_device s ok0 ok1 h0 h1 hlog hoff hloss)
  · have hsend := sendRecs_sends s
    exact ⟨_, congrArg Host.Outcome.next (datagram_sends s hup hne hdue), hsend.err, hsend.rest, hsend.sent⟩
  · exact congrArg Host.Outcome.next (datagram_down s hdown)
  · obtain ⟨⟨hup, hunsent, hunlogged, hq⟩, hregs, hlogs, hsent⟩ := mgmtUp_returns s hdown
    exact ⟨_, rfl, hup, hunsent, hunlogged, hlogs, hsent, hq, hregs⟩
  · exact ⟨_, rfl, by rw [reg_setReg, if_pos rfl], fun k hk => by rw [reg_setReg, if_neg fun h => hk (List.mem_singleton.2 h)], setReg_err ..⟩

end Sys2Proof.RecordWay
end

section
/-! PROOFS. A lasting verdict of a targeted test in a cell that was a hole already (R61, R436). -/

namespace Sys2Proof.TargetedTests

open Sys2Proof Sys2Proof.Machine

/-- Cell 0 stands in the list of holes and is not held, and a targeted test of its unit 0 runs. -/
def tested : State :=
  { State.reset with
    regs := [(ecKey BOOT_CANVAS, BitVec.ofNat 64 (46 + 48 * 2 ^ 8 + 2 ^ 22)), (ecKey BOOT_DIE_STATE, 1)]
    cells := [(0, { Cell.reset with running := some { unit := 0, sn := 0, word := 0 } })]
    boot := { State.reset.boot with holes := [0] } }

/-- The lasting verdict finds the cell a hole and leaves its hold as it is. -/
theorem stays_free : (tested.testVerdict 0 false).isHeld 0 = false := by decide +kernel

/-- Refutes O49 in its clause on a lasting verdict, after which a logical cell is a hole and held. Only a cell that becomes a hole takes its hold with it:
one that is listed as a hole and not held, as the clause allows, stays unheld. -/
theorem not_testsAndCoverage : ¬ Obligations.TestsAndCoverage := by
  intro h
  obtain ⟨-, verdict, -⟩ := h
  obtain ⟨-, t, next, -, -, -, -, -, hole, -⟩ := verdict tested 0 { unit := 0, sn := 0, word := 0 } (by decide) rfl (by decide) (by decide +kernel)
  cases next
  have held := (hole (by decide +kernel)).2
  rw [if_pos (by decide), stays_free] at held
  exact absurd held (by decide)

end Sys2Proof.TargetedTests
end

section
/-! PROOFS. Repair in service: failed cells and quick remaps (R61-R63, R76). -/

namespace Sys2Proof.RepairInService

open Sys2Proof Sys2Proof.Machine Sys2Proof.Laws Sys2Proof.Clauses Sys2Proof.InputPower Sys2Proof.RegionCommands
open Sys2Proof.Bookkeeping (Booked quiet_ecKey SameCanvas)

variable {s t u : State}

/-! ### Soft fuses (R453) -/

theorem within_flashSet (s : State) (f : Flash) : s.within [.flash] { s with flash := f } := by
  refine ⟨rfl, rfl, rfl, fun h => h, fun k hk => ?_⟩
  cases k
  case flash => exact absurd (List.mem_singleton.2 rfl) hk
  all_goals rfl

/-- What a soft fuse that finds room leaves. -/
structure Confirmed (s t : State) (typ die loc : Nat) : Prop where
  reach : s.within [.flash] t
  flash : t.flash = { s.flash with rmap := t.flash.rmap }
  fused : 1 ≤ typ → typ ≤ 8 → t.fused typ die loc = true

theorem fused_of_any {typ d loc : Nat} (h : ∃ e ∈ s.flash.rmap, e.live = true ∧ e.typ = typ ∧ e.die = d ∧ e.loc = loc) : s.fused typ d loc = true := by
  obtain ⟨e, hmem, hlive, htyp, hdie, hloc⟩ := h
  refine Bool.or_eq_true_iff.2 (.inr (List.any_eq_true.2 ⟨e, hmem, ?_⟩))
  rw [hlive, htyp, hdie, hloc, beq_self_eq_true, beq_self_eq_true, beq_self_eq_true]
  rfl

theorem live_of {e : RmapEntry} (hbad : (e.bad != 2) = true) (h1 : 1 ≤ e.typ) (h8 : e.typ ≤ 8) : e.live = true := by
  unfold RmapEntry.live
  rw [hbad, decide_eq_true h1, decide_eq_true h8]
  rfl

theorem confirmFuse_confirms (s : State) (typ source die loc : Nat) (hroom : s.flash.rmap.length < 4096) : Confirmed s (s.confirmFuse typ source die loc) typ die loc := by
  unfold State.confirmFuse
  dsimp only
  by_cases hany : (s.flash.rmap.any fun e => e.typ == typ && e.die == die && e.loc == loc && e.bad != 2) = true
  · rw [if_pos hany]
    refine ⟨within_flashSet s _, rfl, fun h1 h8 => ?_⟩
    obtain ⟨e, hmem, he⟩ := List.any_eq_true.1 hany
    obtain ⟨he, hbad⟩ := Bool.and_eq_true_iff.1 he
    obtain ⟨he, hloc⟩ := Bool.and_eq_true_iff.1 he
    obtain ⟨htyp, hdie⟩ := Bool.and_eq_true_iff.1 he
    have htyp := beq_iff_eq.1 htyp
    refine fused_of_any ⟨_, List.mem_map_of_mem hmem, ?_⟩
    split
    · exact ⟨live_of hbad (htyp ▸ h1) (htyp ▸ h8), htyp, beq_iff_eq.1 hdie, beq_iff_eq.1 hloc⟩
    · exact ⟨live_of hbad (htyp ▸ h1) (htyp ▸ h8), htyp, beq_iff_eq.1 hdie, beq_iff_eq.1 hloc⟩
  · rw [if_neg hany, if_pos hroom]
    refine ⟨within_flashSet s _, rfl, fun h1 h8 => fused_of_any ⟨_, List.mem_append_right _ (List.mem_singleton.2 rfl), live_of rfl h1 h8, rfl, rfl, rfl⟩⟩

/-! ### A cell that fails in service (R61) -/

theorem haltPanelOf_asks (s : State) (c : Nat) : s.haltPanelOf c 0 = { s with err := { s.err with haltQ := s.err.haltQ ++ (if s.haltable c = true then [⟨c, 0, 0, s.jobOf c, false⟩] else []) } } := by
  unfold State.haltPanelOf
  by_cases h : s.haltable c = true
  · rw [if_pos h, if_pos h]
    cases s.err.recQ.getLast? with
    | none => rfl
    | some r => simp only [bne_self_eq_false, Bool.and_false, Bool.false_eq_true, if_false]
  · rw [if_neg h, if_neg h, List.append_nil]

/-- What a cell that fails in service leaves. -/
structure Failed (s t : State) (c : Nat) : Prop where
  hole : t.isHole c = true
  held : s.isHole c = false → t.cell c = { s.cell c with held := true }
  cells : s.cellsBut t c
  fused : t.fused 1 (cellDie c) (locCell c) = true
  regs : t.regs = s.regs
  queue : t.err.recQ = s.err.recQ
  halts : t.err.haltQ = s.err.haltQ ++ (if s.haltable c = true then [⟨c, 0, 0, s.jobOf c, false⟩] else [])

theorem makeHole_holds (h : (s.logicalOf c).isSome = true) : (s.isHole c = false → (s.makeHole c).cell c = { s.cell c with held := true }) ∧ s.cellsBut (s.makeHole c) c := by
  have hsome : ¬ (s.logicalOf c).isNone = true := by
    rw [Option.isNone_iff_eq_none]
    intro hn
    rw [hn] at h
    exact Bool.false_ne_true h
  unfold State.makeHole
  by_cases hhole : s.isHole c = true
  · rw [if_pos (.inr hhole)]
    exact ⟨fun hf => absurd (hhole.symm.trans hf) (by decide), fun _ _ => rfl⟩
  · rw [if_neg (not_or.2 ⟨hsome, hhole⟩)]
    exact ⟨fun _ => cell_setCell_same .., cellsBut_setCell (fun _ _ => rfl) _⟩

theorem cellFail_fails (s : State) (c source : Nat) (hlog : (s.logicalOf c).isSome = true) (hroom : s.flash.rmap.length < 4096) : Failed s (s.cellFail c source 0) c := by
  unfold State.cellFail
  rw [haltPanelOf_asks]
  generalize hq : s.err.haltQ ++ (if s.haltable c = true then [⟨c, 0, 0, s.jobOf c, false⟩] else []) = q
  have hmade := makeHole_makes ({ s with err := { s.err with haltQ := q } } : State) c
  have hholds := makeHole_holds (s := { s with err := { s.err with haltQ := q } }) (c := c) ((congrArg Option.isSome (logicalOf_of_regs (s := s) rfl rfl c)).trans hlog)
  have hisnone := hmade.made c (List.mem_singleton.2 rfl) ((congrArg Option.isSome (logicalOf_of_regs (s := s) rfl rfl c)).trans hlog)
  generalize State.makeHole _ c = a at hmade hholds hisnone ⊢
  have hconf := confirmFuse_confirms a 1 source (cellDie c) (locCell c) (by rw [StartPhases.within_same hmade.reach .flash (by decide)]; exact hroom)
  generalize a.confirmFuse 1 source (cellDie c) (locCell c) = t at hconf ⊢
  have hcell (e : Nat) : t.cell e = a.cell e := by
    unfold State.cell
    rw [show t.cells = a.cells from StartPhases.within_same hconf.reach .cells (by decide)]
  have herr : t.err = { s.err with haltQ := q } := (StartPhases.within_same hconf.reach .err (by decide)).trans (StartPhases.within_same hmade.reach .err (by decide))
  refine ⟨?_, fun hf => (hcell c).trans (hholds.1 hf), fun e he => (hcell e).trans (hholds.2 e he), hconf.fused (by decide) (by decide), ?_, by rw [herr], by rw [herr, hq]⟩
  · unfold State.isHole
    rw [show t.boot = a.boot from StartPhases.within_same hconf.reach .boot (by decide)]
    exact hisnone
  · exact (StartPhases.within_same hconf.reach .regs (by decide)).trans (StartPhases.within_same hmade.reach .regs (by decide))

end Sys2Proof.RepairInService
end

section
/-! PROOFS. Quick remaps (R62, R63, R76). -/

namespace Sys2Proof.RepairInService

open Sys2Proof Sys2Proof.Machine Sys2Proof.Laws Sys2Proof.Clauses Sys2Proof.InputPower Sys2Proof.RegionCommands
open Sys2Proof.Bookkeeping (Booked quiet quiet_ecKey SameCanvas)

variable {s t u : State}

/-! ### A remap is asked for -/

theorem quickRemap_refused {d py r : Nat} (h : s.remapReason d py = r) (h0 : r ≠ 0) (h3 : r ≠ 3) : s.quickRemap d py = s.setReg (ecKey BOOT_REMAP_STAT) (BitVec.ofNat 64 (3 + r * 2 ^ 4)) := by
  unfold State.quickRemap
  dsimp only
  rw [h, if_neg h3, if_pos h0]

theorem quickRemap_late (s : State) (d py : Nat) (h : s.boot.remap.isSome = true) :
    s.quickRemap d py = ({ s with boot := { s.boot with remapLate := s.boot.remapLate ++ [(d, py)] } } : State).setReg (ecKey BOOT_REMAP_STAT) (BitVec.ofNat 64 (3 + 3 * 2 ^ 4)) := by
  have hr : s.remapReason d py = 3 := if_pos h
  unfold State.quickRemap
  dsimp only
  rw [hr, if_pos rfl]

theorem quickRemap_taken {d py : Nat} (h : s.remapReason d py = 0) :
    s.quickRemap d py = ({ s with boot := { s.boot with remap := some (d, py, s.rowHoles d py) } } : State).setReg (ecKey BOOT_REMAP_STAT) 1 := by
  unfold State.quickRemap
  dsimp only
  rw [h, if_neg (by decide), if_neg (fun h => h rfl)]

/-- The reasons of a remap of a row of a die in service, on a valid canvas while no remap is in progress. -/
theorem remapReason_cases {d py : Nat} (hno : s.boot.remap = none) (hcanvas : s.canvasValid = true) (hdie : s.dieState d = 1) (hpy : py < 48) :
    s.remapReason d py = if s.rowHoles d py = [] then 4 else if 2 ≤ (s.rowDisabled d py).length then 2 else if s.rowBusy d py = true then 1 else 0 := by
  have hcond : (!s.canvasValid || s.dieState d != 1 || 48 ≤ py || (s.rowHoles d py).isEmpty) = (s.rowHoles d py).isEmpty := by
    rw [hcanvas, hdie, decide_eq_false (Nat.not_le.2 hpy)]
    rfl
  unfold State.remapReason
  rw [if_neg (by rw [hno]; decide)]
  by_cases hh : s.rowHoles d py = []
  · rw [if_pos hh, if_pos]
    exact hcond.trans (List.isEmpty_iff.2 hh)
  · rw [if_neg hh, if_neg]
    exact fun h => hh (List.isEmpty_iff.1 (hcond.symm.trans h))

/-! ### Nothing but the remaps reads the late commands -/

/-- The state with the given late commands. -/
def late (s : State) (l : List (Nat × Nat)) : State := { s with boot := { s.boot with remapLate := l } }

theorem foldl_late {α : Type} {f : State → α → State} {l : List (Nat × Nat)} (hf : ∀ t x, f (late t l) x = late (f t x) l) (xs : List α) (s : State) :
    xs.foldl f (late s l) = late (xs.foldl f s) l := by
  induction xs generalizing s with
  | nil => rfl
  | cons x xs ih => rw [List.foldl_cons, List.foldl_cons, hf, ih]

variable (s : State) (l : List (Nat × Nat))

theorem ite_late (c : Prop) [Decidable c] (a b : State) : (if c then late a l else late b l) = late (if c then a else b) l := (apply_ite (fun t => late t l) c a b).symm

theorem emit_late (o : Out) : (late s l).emit o = late (s.emit o) l := rfl

theorem hport_late (p : Nat) : (late s l).hport p = s.hport p := rfl

theorem fld_late (k lo w : Nat) : (late s l).fld k lo w = s.fld k lo w := rfl

theorem evqRoom_late (p : Nat) : (late s l).evqRoom p = s.evqRoom p := rfl

theorem portOpen_late (p : Nat) : (late s l).portOpen p = s.portOpen p := rfl

theorem evqSlot_late (p : Nat) : (late s l).evqSlot p = s.evqSlot p := rfl

theorem setHport_late (p : Nat) (x : HPort) : (late s l).setHport p x = late (s.setHport p x) l := rfl

theorem setReg_late (k : Nat) (v : DWord) : (late s l).setReg k v = late (s.setReg k v) l := rfl

theorem setFld_late (k lo w v : Nat) : (late s l).setFld k lo w v = late (s.setFld k lo w v) l := rfl

theorem incWrap_late (k lo w n : Nat) : (late s l).incWrap k lo w n = late (s.incWrap k lo w n) l := rfl

theorem incSat_late (k lo w n : Nat) : (late s l).incSat k lo w n = late (s.incSat k lo w n) l := rfl

theorem setBytes_late (k : Nat) (bs : List Byte) : (late s l).setBytes k bs = late (s.setBytes k bs) l := by
  induction bs generalizing s k with
  | nil => rfl
  | cons b bs ih => exact ih (s.setByte k b) (k + 1)

theorem hostStore_late (p a : Nat) (bs : List Byte) (ep : Bool) : (late s l).hostStore p a bs ep = late (s.hostStore p a bs ep) l := by
  unfold State.hostStore
  rw [setBytes_late, emit_late]

theorem evqPut_late (p k : Nat) (b : List Byte) : (late s l).evqPut p k b = late (s.evqPut p k b) l := by
  unfold State.evqPut
  dsimp only
  rw [hport_late, evqSlot_late, hostStore_late, setHport_late, incWrap_late]

theorem evqLoss_late (p : Nat) : (late s l).evqLoss p = late (s.evqLoss p) l := by
  unfold State.evqLoss
  simp only [fld_late, hport_late, evqRoom_late, portOpen_late, setHport_late, evqPut_late, ite_late]

theorem evqWrite_late (p k : Nat) (b : List Byte) : (late s l).evqWrite p k b = late (s.evqWrite p k b) l := by
  unfold State.evqWrite
  simp only [fld_late, evqLoss_late]
  generalize s.evqLoss p = a
  simp only [evqRoom_late, portOpen_late, evqPut_late, incSat_late, hport_late, setHport_late, ite_late]

theorem event_late (k : Nat) (b : List Byte) : (late s l).event k b = late (s.event k b) l := foldl_late (fun t p => evqWrite_late t l p k b) _ s

theorem raiseVec_late (p v : Nat) : (late s l).raiseVec p v = late (s.raiseVec p v) l := by
  unfold State.raiseVec
  by_cases h : State.vecMasked (s.hport p) v = true
  · rw [if_pos h]
    exact if_pos h
  · rw [if_neg h]
    refine (if_neg h).trans ?_
    by_cases h' : (s.hport p).up = true
    · rw [if_pos h']
      exact if_pos h'
    · rw [if_neg h']
      exact if_neg h'

theorem raiseAll_late (v : Nat) : (late s l).raiseAll v = late (s.raiseAll v) l := foldl_late (fun t p => raiseVec_late t l p v) _ s

theorem canvasEvent_late : (late s l).canvasEvent = late s.canvasEvent l :=
  (congrArg (fun t => State.raiseAll t 259) (event_late s l ..)).trans (raiseAll_late _ l 259)

theorem holdRow_late (d py : Nat) : (late s l).holdRow d py = late (s.holdRow d py) l := by
  refine foldl_late (fun t px => ?_) _ s
  dsimp only
  by_cases h : (t.cell (cellAt d px py)).held = (decide (px = t.skipA d py) || decide (px = t.skipB d py) || t.isHole (cellAt d px py))
  · rw [if_pos h]
    exact if_pos h
  · rw [if_neg h]
    exact if_neg h

/-! ### A remap completes -/

/-- The cells of the row that the remap disables. -/
def goneCells (s : State) (d py : Nat) (holes : List Nat) : List Nat := holes.take (2 - (s.rowDisabled d py).length)

/-- The state in which the row's holes are disabled. -/
def disabledHoles (s : State) (gone : List Nat) : State :=
  { s with boot := { s.boot with remap := none, disabled := s.boot.disabled ++ gone, holes := s.boot.holes.filter fun c => !gone.contains c } }

/-- The state in which the remap's skips, counts and canvas are published. -/
def republished (s : State) (d py : Nat) (gone : List Nat) : State :=
  ((((((s.writeSkips d py (s.skipSrc gone d py)).holdRow d py).skipCounts d).incWrap (ecKey BOOT_CANVAS_GEN) 0 32 1).setReg (ecKey BOOT_REMAP_STAT) 2)).canvasEvent

theorem remapComplete_eq {d py : Nat} {holes : List Nat} (h : s.boot.remap = some (d, py, holes)) :
    s.remapComplete = s.boot.remapLate.foldl (fun t e => t.quickRemap e.1 e.2) (late (republished (disabledHoles s (goneCells s d py holes)) d py (goneCells s d py holes)) []) := by
  unfold State.remapComplete
  rw [h]
  simp only [republished, disabledHoles, goneCells, late]

theorem republished_late (d py : Nat) (gone : List Nat) : republished (late s l) d py gone = late (republished s d py gone) l := by
  have hskips : (late s l).writeSkips d py ((late s l).skipSrc gone d py) = late (s.writeSkips d py (s.skipSrc gone d py)) l := rfl
  have hcounts (t : State) : (late t l).skipCounts d = late (t.skipCounts d) l := rfl
  unfold republished
  rw [hskips, holdRow_late, hcounts, incWrap_late, setReg_late, canvasEvent_late]

theorem remapComplete_late {e : Nat × Nat} (hlate : s.boot.remapLate = [e]) (hremap : s.boot.remap.isSome = true) : s.remapComplete = ((late s []).remapComplete).quickRemap e.1 e.2 := by
  obtain ⟨⟨d, py, holes⟩, hsome⟩ := Option.isSome_iff_exists.1 hremap
  have hgone : goneCells (late s []) d py holes = goneCells s d py holes := rfl
  have hempty : (late s []).boot.remapLate = [] := rfl
  rw [remapComplete_eq s hsome, remapComplete_eq (late s []) hsome, hlate, hempty, hgone]
  generalize goneCells s d py holes = gone
  rw [show disabledHoles (late s []) gone = late (disabledHoles s gone) [] from rfl, republished_late]
  generalize republished (disabledHoles s gone) d py gone = x
  rfl

end Sys2Proof.RepairInService
end

section
/-! PROOFS. Failed cells become holes and rows are remapped (O53). -/

namespace Sys2Proof.RepairInService

open Sys2Proof Sys2Proof.Machine Sys2Proof.Laws Sys2Proof.Clauses Sys2Proof.InputPower Sys2Proof.RegionCommands
open Sys2Proof.Bookkeeping (Booked quiet quiet_ecKey)

variable {s t u : State}

/-- What a row's new skips, counts and canvas leave. -/
structure Republished (s t : State) (d : Nat) : Prop where
  reach : s.within [.regs, .mem, .cells, .hports, .out] t
  gen : t.fld (ecKey BOOT_CANVAS_GEN) 0 32 = (s.fld (ecKey BOOT_CANVAS_GEN) 0 32 + 1) % 2 ^ 32
  stat : t.reg (ecKey BOOT_REMAP_STAT) = 2
  spares : t.fld (dieKey d FUSE_SPARES) 0 7 = 96 - s.boot.disabled.countP (fun c => cellDie c == d)
  live : t.fld (dieKey d FUSE_RMAP_LIVE) 0 12 = min (s.flash.rmap.countP fun e => e.live && e.die == d && !s.isHard e.typ d e.loc) 0xFFF

theorem quiet_dieKey {d o : Nat} (ho : o < 0x1000000) (hf : o ≠ FAB_SUBMIT_STAT) (hs : o ≠ PCIE_EVQ_STAT) (hp : o ≠ PCIE_EVQ_PI) : quiet (dieKey d o) := by
  simp only [quiet, dieKey, Nat.add_mul_mod_self_left, Nat.mod_eq_of_lt ho]
  exact ⟨hf, hs, hp⟩

theorem republished_keeps (s : State) (d py : Nat) (gone : List Nat) : Republished s (republished s d py gone) d := by
  unfold republished
  have hskip : s.within [.regs] (s.writeSkips d py (s.skipSrc gone d py)) := within_writeSkips (List.Subset.refl _) (within_refl s)
  have hskips (k : Nat) (hk : k ≠ dieKey d (FUSE_SKIP + 4 * py)) : (s.writeSkips d py (s.skipSrc gone d py)).reg k = s.reg k := by
    unfold State.writeSkips
    rw [reg_setReg, if_neg hk]
  generalize s.writeSkips d py (s.skipSrc gone d py) = a at hskip hskips ⊢
  have hrow : a.within [.cells] (a.holdRow d py) := within_holdRow (List.Subset.refl _) (within_refl a)
  generalize a.holdRow d py = b at hrow ⊢
  have hboot : b.boot = s.boot := (StartPhases.within_same hrow .boot (by decide)).trans (StartPhases.within_same hskip .boot (by decide))
  have hflash : b.flash = s.flash := (StartPhases.within_same hrow .flash (by decide)).trans (StartPhases.within_same hskip .flash (by decide))
  have hgen : b.fld (ecKey BOOT_CANVAS_GEN) 0 32 = s.fld (ecKey BOOT_CANVAS_GEN) 0 32 :=
    fld_of_reg ((reg_of_regs hrow.1 (StartPhases.within_same hrow .regs (by decide)) _).trans (hskips _ (InputPower.ecKey_ne_dieKey _ _ (by decide)))) ..
  have hcounts : b.within [.regs] (b.skipCounts d) := within_skipCounts (List.Subset.refl _) (within_refl b)
  have hspares : (b.skipCounts d).fld (dieKey d FUSE_SPARES) 0 7 = 96 - s.boot.disabled.countP (fun c => cellDie c == d) := by
    unfold State.skipCounts
    dsimp only
    rw [fld_setFld_other _ _ _ _ _ _ (InputPower.dieKey_ne _ _ (by decide) (by decide) (by decide)), fld_setFld_same _ _ (by decide), hboot, Nat.mod_eq_of_lt (by omega)]
  have hlive : (b.skipCounts d).fld (dieKey d FUSE_RMAP_LIVE) 0 12 = min (s.flash.rmap.countP fun e => e.live && e.die == d && !s.isHard e.typ d e.loc) 0xFFF := by
    have hhard : (fun e : RmapEntry => e.live && e.die == d && !b.isHard e.typ d e.loc) = fun e => e.live && e.die == d && !s.isHard e.typ d e.loc := by
      unfold State.isHard State.hardFuses
      rw [hflash]
    unfold State.skipCounts
    dsimp only
    rw [fld_setFld_same _ _ (by decide), hflash, hhard, Nat.mod_eq_of_lt (by omega)]
  have hgen' : (b.skipCounts d).fld (ecKey BOOT_CANVAS_GEN) 0 32 = b.fld (ecKey BOOT_CANVAS_GEN) 0 32 := by
    unfold State.skipCounts
    dsimp only
    rw [fld_setFld_other _ _ _ _ _ _ (InputPower.ecKey_ne_dieKey _ _ (by decide)), fld_setFld_other _ _ _ _ _ _ (InputPower.ecKey_ne_dieKey _ _ (by decide))]
  generalize b.skipCounts d = c at hcounts hspares hlive hgen' ⊢
  have hset : c.within [.regs] ((c.incWrap (ecKey BOOT_CANVAS_GEN) 0 32 1).setReg (ecKey BOOT_REMAP_STAT) 2) := within_setReg (by decide) (within_incWrap (by decide) (within_refl c))
  have hd (o lo w : Nat) : ((c.incWrap (ecKey BOOT_CANVAS_GEN) 0 32 1).setReg (ecKey BOOT_REMAP_STAT) 2).fld (dieKey d o) lo w = c.fld (dieKey d o) lo w := by
    rw [fld_setReg_other _ _ _ _ (InputPower.ecKey_ne_dieKey _ _ (by decide)).symm]
    exact fld_of_reg (reg_incWrap_other _ _ _ _ (InputPower.ecKey_ne_dieKey _ _ (by decide)).symm) ..
  have hg : ((c.incWrap (ecKey BOOT_CANVAS_GEN) 0 32 1).setReg (ecKey BOOT_REMAP_STAT) 2).fld (ecKey BOOT_CANVAS_GEN) 0 32 = (c.fld (ecKey BOOT_CANVAS_GEN) 0 32 + 1) % 2 ^ 32 := by
    rw [fld_setReg_other _ _ _ _ (by decide), fld_incWrap_same _ _ (by decide)]
  have hstat : ((c.incWrap (ecKey BOOT_CANVAS_GEN) 0 32 1).setReg (ecKey BOOT_REMAP_STAT) 2).reg (ecKey BOOT_REMAP_STAT) = 2 := by
    rw [reg_setReg, if_pos rfl]
  generalize (c.incWrap (ecKey BOOT_CANVAS_GEN) 0 32 1).setReg (ecKey BOOT_REMAP_STAT) 2 = e at hset hd hg hstat ⊢
  have hev : e.within [.regs, .mem, .hports, .out] e.canvasEvent := within_canvasEvent (List.Subset.refl _) (within_refl e)
  have hbook : Booked e e.canvasEvent := .raiseAll (.event (.refl e) _ _) _
  generalize e.canvasEvent = t at hev hbook ⊢
  refine ⟨within_trans (within_mono hskip (by decide)) (within_trans (within_mono hrow (by decide)) (within_trans (within_mono hcounts (by decide)) (within_trans (within_mono hset (by decide)) (within_mono hev (by decide))))),
    ?_, ?_, ?_, ?_⟩
  · rw [hbook.fld (quiet_ecKey (by decide) (by decide) (by decide) (by decide)), hg, hgen', hgen]
  · rw [hbook.reg _ (quiet_ecKey (by decide) (by decide) (by decide) (by decide)), hstat]
  · rw [hbook.fld (quiet_dieKey (by decide) (by decide) (by decide) (by decide)), hd, hspares]
  · rw [hbook.fld (quiet_dieKey (by decide) (by decide) (by decide) (by decide)), hd, hlive]

/-- Settles O53: a failing cell of a canvas becomes a hole with its fuse; a quick remap is judged by its row, and publishes the row when it completes, after which the late commands are judged. -/
theorem failedCellsBecomeHolesAndRowsRemap : Obligations.FailedCellsBecomeHolesAndRowsRemap := by
  unfold Obligations.FailedCellsBecomeHolesAndRowsRemap
  refine ⟨fun s c source hlog hroom => ?_, fun s d py => ⟨fun hbusy => ?_, fun hno hcanvas hdie hpy => ?_⟩, fun s u e hlate hu hremap => ?_, fun s d py holes gone hremap hlate hgone => ?_⟩
  · obtain ⟨hhole, hheld, hcells, hfused, hregs, hq, hhalts⟩ := cellFail_fails s c source hlog hroom
    exact ⟨_, rfl, hhole, hheld, hcells, hfused, hregs, hq, hhalts⟩
  · refine ⟨_, congrArg Host.Outcome.next (quickRemap_late s d py hbusy), ?_, setReg_boot .., fun k hk => ?_⟩
    · rw [reg_setReg, if_pos rfl]
      rfl
    · rw [reg_setReg, if_neg fun h => hk (List.mem_singleton.2 h)]
      rfl
  · have hreason := remapReason_cases hno hcanvas hdie hpy
    have hstat (a : State) (v : DWord) (hp : a.part = s.part) (hr : a.regs = s.regs) : (a.setReg (ecKey BOOT_REMAP_STAT) v).reg (ecKey BOOT_REMAP_STAT) = v ∧ s.regsBut (a.setReg (ecKey BOOT_REMAP_STAT) v) [ecKey BOOT_REMAP_STAT] := by
      refine ⟨by rw [reg_setReg, if_pos rfl], fun k hk => ?_⟩
      rw [reg_setReg, if_neg fun h => hk (List.mem_singleton.2 h)]
      exact reg_of_regs hp hr k
    refine ⟨_, rfl, ?_⟩
    by_cases h1 : s.rowHoles d py = []
    · rw [if_pos h1] at hreason
      rw [quickRemap_refused hreason (by decide) (by decide), if_pos h1]
      obtain ⟨hv, hbut⟩ := hstat s (BitVec.ofNat 64 (3 + 4 * 2 ^ 4)) rfl rfl
      exact ⟨hbut, setReg_cells .., hv, setReg_boot ..⟩
    rw [if_neg h1] at hreason ⊢
    by_cases h2 : 2 ≤ (s.rowDisabled d py).length
    · rw [if_pos h2] at hreason
      rw [quickRemap_refused hreason (by decide) (by decide), if_pos h2]
      obtain ⟨hv, hbut⟩ := hstat s (BitVec.ofNat 64 (3 + 2 * 2 ^ 4)) rfl rfl
      exact ⟨hbut, setReg_cells .., hv, setReg_boot ..⟩
    rw [if_neg h2] at hreason ⊢
    by_cases h3 : s.rowBusy d py = true
    · rw [if_pos h3] at hreason
      rw [quickRemap_refused hreason (by decide) (by decide), if_pos h3]
      obtain ⟨hv, hbut⟩ := hstat s (BitVec.ofNat 64 (3 + 1 * 2 ^ 4)) rfl rfl
      exact ⟨hbut, setReg_cells .., hv, setReg_boot ..⟩
    · rw [if_neg h3] at hreason
      rw [quickRemap_taken hreason, if_neg h3]
      obtain ⟨hv, hbut⟩ := hstat { s with boot := { s.boot with remap := some (d, py, s.rowHoles d py) } } 1 rfl rfl
      exact ⟨hbut, setReg_cells .., hv, setReg_boot ..⟩
  · obtain rfl : State.remapComplete (late s []) = u := Host.Outcome.next.inj hu
    exact congrArg Host.Outcome.next (remapComplete_late s hlate hremap)
  · have heq := remapComplete_eq s hremap
    rw [hlate, show goneCells s d py holes = gone from hgone.symm] at heq
    have hrep := republished_keeps (disabledHoles s gone) d py gone
    generalize republished (disabledHoles s gone) d py gone = x at hrep heq
    have hboot : x.boot = (disabledHoles s gone).boot := StartPhases.within_same hrep.reach .boot (by decide)
    have hlive := hrep.live
    refine ⟨late x [], congrArg Host.Outcome.next heq, congrArg Boot.remap hboot, congrArg Boot.disabled hboot, congrArg Boot.holes hboot, hrep.gen, hrep.stat, ?_, hlive, StartPhases.within_same hrep.reach .err (by decide),
      StartPhases.within_same hrep.reach .jobs (by decide)⟩
    have hdis : (late x []).boot.disabled = (disabledHoles s gone).boot.disabled := (show (late x []).boot.disabled = x.boot.disabled from rfl).trans (congrArg Boot.disabled hboot)
    rw [hdis]
    exact hrep.spares

end Sys2Proof.RepairInService
end

section
/-! PROOFS. Restarts, the standby controller and flash writes (R431, R448, R454-R456). -/

namespace Sys2Proof.Restarts

open Sys2Proof Sys2Proof.Machine Sys2Proof.Laws Sys2Proof.Clauses Sys2Proof.InputPower Sys2Proof.RegionCommands

variable {s t u : State}

/-! ### The beginning of a start (R456) -/

/-- What the status registers show at the beginning of a start. -/
structure StatShows (t : State) (stat : Nat) (warm : Bool) (cause cls : Nat) : Prop where
  phase : t.fld (ecKey BOOT_STAT) 0 4 = 1
  ready : t.ready = false
  warm : t.fld (ecKey BOOT_STAT) 6 1 = if warm = true then 1 else 0
  ctl : t.ctlDie = bits stat 7 3
  recovery : t.fld (ecKey BOOT_STAT) 13 1 = 0
  cause : t.fld (ecKey BOOT_CAUSE) 0 2 = cause
  cls : t.fld (ecKey BOOT_CAUSE) 8 8 = cls % 256

theorem startStat_shows (s : State) (stat : Nat) (warm : Bool) {cause : Nat} (cls : Nat) (hcause : cause < 4) : StatShows (s.startStat stat warm cause cls) stat warm cause cls := by
  have hkey : ecKey BOOT_STAT ≠ ecKey BOOT_CAUSE := by decide
  have hstat (lo w : Nat) : (s.startStat stat warm cause cls).fld (ecKey BOOT_STAT) lo w = (1 + (if warm then 2 ^ 6 else 0) + bits stat 7 6 * 2 ^ 7) % 2 ^ 64 / 2 ^ lo % 2 ^ w := by
    unfold State.startStat
    rw [fld_setReg_other _ _ _ _ hkey, fld_setReg_same, BitVec.toNat_ofNat]
    rfl
  have hcs (lo w : Nat) : (s.startStat stat warm cause cls).fld (ecKey BOOT_CAUSE) lo w = (cause + cls % 256 * 2 ^ 8) % 2 ^ 64 / 2 ^ lo % 2 ^ w := by
    unfold State.startStat
    rw [fld_setReg_same, BitVec.toNat_ofNat]
    rfl
  have hbits : bits stat 7 6 < 2 ^ 6 := IntegerInstructions.bits_lt ..
  have hctl : bits stat 7 3 = bits stat 7 6 % 8 := by
    unfold bits
    omega
  generalize hm : (if warm = true then 2 ^ 6 else 0) = m at hstat
  have hm' : m = 64 * (if warm = true then 1 else 0) := by
    rw [← hm]
    split <;> rfl
  have hle : (if warm = true then 1 else 0) ≤ 1 := by
    split <;> decide
  generalize hb : (if warm = true then 1 else 0) = b at hm' hle
  refine ⟨?_, ?_, ?_, ?_, ?_, ?_, ?_⟩
  · rw [hstat]
    omega
  · unfold State.ready
    rw [hstat, beq_eq_false_iff_ne]
    omega
  · rw [hstat, hb]
    omega
  · unfold State.ctlDie
    rw [hstat, hctl]
    omega
  · rw [hstat]
    omega
  · rw [hcs]
    omega
  · rw [hcs]
    omega

/-- What the beginning of a start leaves. -/
structure Begun (s t : State) (warm : Bool) (kind cause cls : Nat) : Prop where
  stat : StatShows t (s.reg (ecKey BOOT_STAT)).toNat warm cause cls
  kind : t.boot.kind = kind
  on : t.boot.off = false ∧ t.boot.modRst = false ∧ t.boot.restartDue = none
  empty : t.jobs = [] ∧ t.cells = [] ∧ t.panels = []
  regions : warm = false → t.regions = []
  queue : t.err.recQ = s.err.recQ

theorem beginCold_begins (s : State) {cause : Nat} (cls : Nat) (hcause : cause < 4) : Begun s (s.beginCold cause cls) false 1 cause cls :=
  ⟨startStat_shows _ _ _ _ hcause, rfl, ⟨rfl, rfl, rfl⟩, ⟨rfl, rfl, rfl⟩, fun _ => rfl, rfl⟩

/-! ### Warm restarts (R456) -/

/-- The rings stop and the host is told. -/
def announced (s : State) : State :=
  let s1 := s.part.ports.foldl (fun t p => t.stopRings p) s
  (s1.event 7 (toLe 8 s1.facility)).raiseAll 259

theorem announced_flash (s : State) : (announced s).flash = s.flash := by
  have hrings : s.within [.regs, .mem, .rings, .hports, .err, .out] (s.part.ports.foldl (fun t p => t.stopRings p) s) :=
    within_foldl _ (fun t p ht => within_stopRings (List.Subset.refl _) ht) (within_refl s)
  unfold announced
  dsimp only
  generalize s.part.ports.foldl (fun t p => t.stopRings p) s = a at hrings ⊢
  exact StartPhases.within_same (within_raiseAll (by decide) (within_event (by decide) hrings) : s.within [.regs, .mem, .rings, .hports, .err, .out] _) .flash (by decide)

theorem beginWarm_eq (s : State) (kind cls : Nat) : s.beginWarm kind cls = ((announced s).wipe true kind).startStat (s.reg (ecKey BOOT_STAT)).toNat true 2 cls := rfl

/-- What the beginning of a warm restart leaves. -/
structure WarmBegun (s t : State) (kind cls : Nat) : Prop where
  stat : StatShows t (s.reg (ecKey BOOT_STAT)).toNat true 2 cls
  kind : t.boot.kind = kind
  on : t.boot.off = false ∧ t.boot.modRst = false ∧ t.boot.restartDue = none
  empty : t.jobs = [] ∧ t.cells = [] ∧ t.panels = []
  image : (s.flash.dev0 || s.flash.dev1) = true → State.slotOf t.flash t.flash.active = State.slotOf s.flash s.flash.active

theorem beginWarm_begins (s : State) (kind cls : Nat) : WarmBegun s (s.beginWarm kind cls) kind cls := by
  have hflash := announced_flash s
  rw [beginWarm_eq]
  generalize announced s = a at hflash ⊢
  refine ⟨startStat_shows _ _ _ _ (by decide), rfl, ⟨rfl, rfl, rfl⟩, ⟨rfl, rfl, rfl⟩, fun hdev => ?_⟩
  have hstart : a.startFlash = a.flashFlush.flash := if_pos (by rw [hflash]; exact hdev)
  have himage : State.slotOf a.flashFlush.flash a.flashFlush.flash.active = State.slotOf a.flash a.flash.active := rfl
  rw [← hflash, ← himage, ← hstart]
  rfl

theorem fld_endPhase_stat (s : State) (p : Nat) {lo : Nat} (w : Nat) (h : 4 ≤ lo) : (s.endPhase p).fld (ecKey BOOT_STAT) lo w = s.fld (ecKey BOOT_STAT) lo w := by
  change ((s.setReg _ _).setFld _ 0 4 _).fld _ lo w = _
  rw [fld_setFld_apart _ _ (by decide) (.inr h), fld_setReg_other _ _ _ _ ?_]
  simp only [ecKey, BOOT_STAT, BOOT_PTIME]
  omega

/-- What the restart that a record asked for leaves, once warm. -/
structure WarmRestarted (s t : State) (cls : Nat) : Prop where
  kind : t.boot.kind = 2
  ready : t.ready = false
  warm : t.fld (ecKey BOOT_STAT) 6 1 = 1
  cause : t.fld (ecKey BOOT_CAUSE) 0 2 = 2
  cls : t.fld (ecKey BOOT_CAUSE) 8 8 = cls % 256
  empty : t.jobs = [] ∧ t.cells = [] ∧ t.panels = []
  due : t.boot.restartDue = none
  phase : (s.flash.dev0 || s.flash.dev1) = true → t.fld (ecKey BOOT_STAT) 0 4 = if ((State.slotOf s.flash s.flash.active).okA || (State.slotOf s.flash s.flash.active).okB) = true then 2 else 1

theorem warmVerify_restarts (h : WarmBegun s t 2 cls) : WarmRestarted s t.warmVerify cls := by
  obtain ⟨⟨hphase, hready, hwarm, -, hrec, hcause, hcls⟩, hkind, ⟨hoff, hmod, hdue⟩, hempty, himage⟩ := h
  have hin : t.inPhase 1 = true := by
    unfold State.inPhase State.phase
    rw [hphase, hoff, hmod, hrec]
    rfl
  have hw : t.warm = true := by
    unfold State.warm
    rw [hkind]
    rfl
  unfold State.warmVerify
  dsimp only
  rw [hin, hw, Bool.true_and, Bool.true_and]
  by_cases hok : ((State.slotOf t.flash t.flash.active).okA || (State.slotOf t.flash t.flash.active).okB) = true
  · rw [if_pos hok]
    refine ⟨hkind, ?_, (fld_endPhase_stat t 1 _ (by decide)).trans hwarm, (StartPhases.fld_endPhase t 1 (by decide) (by decide) ..).trans hcause, (StartPhases.fld_endPhase t 1 (by decide) (by decide) ..).trans hcls, hempty, hdue, fun hdev => ?_⟩
    · unfold State.ready
      rw [fld_endPhase_stat t 1 _ (by decide)]
      exact hready
    · rw [himage hdev] at hok
      rw [if_pos hok]
      exact (StartPhases.phaseEnds_endPhase t 1 (s := t) (by decide) (by decide) rfl rfl).1
  · rw [if_neg hok]
    refine ⟨hkind, hready, hwarm, hcause, hcls, hempty, hdue, fun hdev => ?_⟩
    rw [himage hdev] at hok
    rw [if_neg hok]
    exact hphase

/-! ### The standby controller takes over (R454) -/

theorem silent_of {b v : Nat} (hat : s.boot.standbyAt = some v) (hbeat : s.boot.beat = some b) (hle : v ≤ b) : s.silent = Nat.ble (b + 5000000) s.now := by
  unfold State.silent
  rw [hat, hbeat]
  exact if_pos hle

/-- The state in which the standby controls. -/
def handed (s : State) : State := ((s.setFld (ecKey BOOT_STAT) 7 3 s.part.standby).setFld (ecKey BOOT_STAT) 10 1 1).setDie s.ctlDie { s.die s.ctlDie with ctlOk := false }

theorem standby_lt (p : Part) : p.standby < 8 := by cases p <;> decide

theorem handed_stat (s : State) : (handed s).fld (ecKey BOOT_STAT) 7 3 = s.part.standby ∧ (handed s).fld (ecKey BOOT_STAT) 10 1 = 1 ∧ s.regsBut (handed s) [ecKey BOOT_STAT] := by
  have hregs (k : Nat) : (handed s).reg k = ((s.setFld (ecKey BOOT_STAT) 7 3 s.part.standby).setFld (ecKey BOOT_STAT) 10 1 1).reg k := reg_of_regs (setDie_part ..) (setDie_regs ..) k
  refine ⟨?_, ?_, fun k hk => ?_⟩
  · rw [fld_of_reg (hregs _), fld_setFld_apart _ _ (by decide) (.inl (by decide)), fld_setFld_same _ _ (by decide)]
    exact Nat.mod_eq_of_lt (standby_lt _)
  · rw [fld_of_reg (hregs _), fld_setFld_same _ _ (by decide)]
    rfl
  · have hne : k ≠ ecKey BOOT_STAT := fun h => hk (List.mem_singleton.2 h)
    rw [hregs, reg_setFld_other _ _ _ _ hne, reg_setFld_other _ _ _ _ hne]

theorem handed_err (s : State) : (handed s).err = s.err := by
  unfold handed
  rw [setDie_err, setFld_err, setFld_err]

theorem handed_cells (s : State) : (handed s).cells = s.cells := by
  unfold handed
  rw [setDie_cells, setFld_cells, setFld_cells]

theorem takeOver_ready (h : s.ready = true) : s.takeOver = (handed s).raise 0x86 (.dieUnit s.ctlDie 0) (2 + s.ctlDie * 2 ^ 8) none := if_pos h

theorem takeOver_starting (h : s.ready = false) : s.takeOver = (handed s).beginCold (s.fld (ecKey BOOT_CAUSE) 0 2) (s.fld (ecKey BOOT_CAUSE) 8 8) := if_neg (by rw [h]; decide)

theorem failover_eq (hoff : s.boot.off = false) (hmod : s.boot.modRst = false) (hctl : s.ctlDie ≠ s.part.standby) : s.failover = if s.silent = true then s.takeOver else s := by
  have hcond : (s.silent && s.ctlDie != s.part.standby && !s.boot.off && !s.boot.modRst) = s.silent := by
    rw [hoff, hmod, bne_iff_ne.2 hctl, Bool.not_false, Bool.and_true, Bool.and_true, Bool.and_true]
  unfold State.failover
  rw [hcond]

end Sys2Proof.Restarts
end

section
/-! PROOFS. Restarts, failover and flash writes (O52). -/

namespace Sys2Proof.Restarts

open Sys2Proof Sys2Proof.Machine Sys2Proof.Laws Sys2Proof.Clauses Sys2Proof.InputPower Sys2Proof.RegionCommands

variable {s t u : State}

/-! ### Flash writes (R455) -/

theorem dropDevs_good (s : State) (n : Nat) (h0 : s.flash.dev0 = true) (_h1 : s.flash.dev1 = true) : s.dropDevs true true n = s := by
  unfold State.dropDevs
  simp only [h0, Bool.and_self, Bool.and_true, Bool.not_true, Bool.and_false, Bool.false_and, Bool.false_eq_true, if_false, Bool.or_false]
  rw [← h0]

theorem find_first_difference {a b : List RmapEntry} {i : Nat} (hne : a[i]? ≠ b[i]?) (hbelow : ∀ j, j < i → a[j]? = b[j]?) :
    (List.range (max a.length b.length)).find? (fun j => a[j]? != b[j]?) = some i := by
  have hi : i < max a.length b.length := by
    rcases Nat.lt_or_ge i (max a.length b.length) with h | h
    · exact h
    · refine absurd ?_ hne
      rw [List.getElem?_eq_none (Nat.le_trans (Nat.le_max_left ..) h), List.getElem?_eq_none (Nat.le_trans (Nat.le_max_right ..) h)]
  rw [List.find?_range_eq_some]
  exact ⟨bne_iff_ne.2 hne, List.mem_range.2 hi, fun j hj => by rw [hbelow j hj]; simp⟩

theorem find_no_difference (a : List RmapEntry) (n : Nat) : (List.range n).find? (fun j => a[j]? != a[j]?) = none :=
  List.find?_eq_none.2 fun j _ => by simp

section
variable (h0 : s.flash.dev0 = true) (h1 : s.flash.dev1 = true)
include h0 h1

theorem flashWrite_counters (hd : s.flash.ctrDone = false) : s.flashWrite true true = s.ctrWrite := by
  unfold State.flashWrite
  rw [dropDevs_good s 4 h0 h1]
  simp only [h0, hd, Bool.not_true, Bool.not_false, Bool.false_and, Bool.false_eq_true, if_false, if_true]

theorem flashWrite_entry {i : Nat} (hd : s.flash.ctrDone = true) (hf : (List.range (max s.flash.rmap.length s.flash.rmapDone.length)).find? (fun i => s.flash.rmap[i]? != s.flash.rmapDone[i]?) = some i) :
    s.flashWrite true true = { s with flash := { s.flash with rmapDone := s.flash.rmapDone.take i ++ (s.flash.rmap.drop i).take 1 ++ s.flash.rmapDone.drop (i + 1) } } := by
  unfold State.flashWrite
  rw [dropDevs_good s 4 h0 h1]
  simp only [h0, hd, Bool.not_true, Bool.false_and, Bool.false_eq_true, if_false, hf]

theorem flashWrite_rest (hd : s.flash.ctrDone = true) (hf : (List.range (max s.flash.rmap.length s.flash.rmapDone.length)).find? (fun i => s.flash.rmap[i]? != s.flash.rmapDone[i]?) = none) :
    s.flashWrite true true = if s.err.staged.isEmpty = true then s.keepStore else s := by
  unfold State.flashWrite
  rw [dropDevs_good s 4 h0 h1]
  simp only [h0, hd, Bool.not_true, Bool.false_and, Bool.false_eq_true, if_false, hf]

end

theorem ctrWrite_counts (s : State) {i v : Nat} {l : List Nat} (hv : s.ctrNow[i]? = some v) (hl : s.flash.ctrs[i]? = some l) : s.ctrWrite.flash.ctrs[i]? = some (if l.head? = some v then l else v :: l) := by
  unfold State.ctrWrite
  dsimp only
  rw [List.getElem?_zipWith, hv, hl]

/-- What a flash write that ends with both devices in service leaves. -/
structure WrittenOut (s t : State) : Prop where
  err : t.err = s.err
  rmap : t.flash.rmap = s.flash.rmap
  counters : s.flash.ctrDone = false → t.flash = { s.flash with ctrDone := true, ctrs := t.flash.ctrs } ∧
    ∀ (i v : Nat) (l : List Nat), s.ctrNow[i]? = some v → s.flash.ctrs[i]? = some l → t.flash.ctrs[i]? = some (if l.head? = some v then l else v :: l)
  waits : s.flash.ctrDone = true → s.flash.rmapDone = s.flash.rmap → s.err.staged ≠ [] → t.flash = s.flash
  store : s.flash.ctrDone = true → s.flash.rmapDone = s.flash.rmap → s.err.staged = [] → t.flash = s.keepStore.flash
  entry : ∀ i, s.flash.ctrDone = true → s.flash.rmap[i]? ≠ s.flash.rmapDone[i]? → (∀ j, j < i → s.flash.rmap[j]? = s.flash.rmapDone[j]?) →
    t.flash = { s.flash with rmapDone := s.flash.rmapDone.take i ++ (s.flash.rmap.drop i).take 1 ++ s.flash.rmapDone.drop (i + 1) }

theorem flashWrite_writes (h0 : s.flash.dev0 = true) (h1 : s.flash.dev1 = true) : WrittenOut s (s.flashWrite true true) := by
  have hsame (hr : s.flash.rmapDone = s.flash.rmap) : (List.range (max s.flash.rmap.length s.flash.rmapDone.length)).find? (fun i => s.flash.rmap[i]? != s.flash.rmapDone[i]?) = none := by
    rw [hr]
    exact find_no_difference _ _
  cases hd : s.flash.ctrDone with
  | false =>
    have hno {P : Prop} (h : false = true) : P := absurd h (by decide)
    rw [flashWrite_counters h0 h1 hd]
    exact ⟨rfl, rfl, fun _ => ⟨rfl, fun i v l hv hl => ctrWrite_counts s hv hl⟩, fun h => hno (hd.symm.trans h), fun h => hno (hd.symm.trans h), fun _ h => hno (hd.symm.trans h)⟩
  | true =>
    refine ⟨?_, ?_, fun h => absurd (hd.symm.trans h) (by decide), fun _ hr hne => ?_, fun _ hr he => ?_, fun i _ hne hbelow => ?_⟩
    · cases hf : (List.range (max s.flash.rmap.length s.flash.rmapDone.length)).find? (fun i => s.flash.rmap[i]? != s.flash.rmapDone[i]?) with
      | some i => rw [flashWrite_entry h0 h1 hd hf]
      | none =>
        rw [flashWrite_rest h0 h1 hd hf]
        split <;> rfl
    · cases hf : (List.range (max s.flash.rmap.length s.flash.rmapDone.length)).find? (fun i => s.flash.rmap[i]? != s.flash.rmapDone[i]?) with
      | some i => rw [flashWrite_entry h0 h1 hd hf]
      | none =>
        rw [flashWrite_rest h0 h1 hd hf]
        split <;> rfl
    · rw [flashWrite_rest h0 h1 hd (hsame hr), if_neg fun h => hne (List.isEmpty_iff.1 h)]
    · rw [flashWrite_rest h0 h1 hd (hsame hr), if_pos (List.isEmpty_iff.2 he)]
    · rw [flashWrite_entry h0 h1 hd (find_first_difference hne hbelow)]

/-- What a flash write that fails in one device leaves. -/
structure DeviceLost (s t : State) (ok0 ok1 : Bool) : Prop where
  dev0 : t.flash.dev0 = ok0
  dev1 : t.flash.dev1 = ok1
  rmap : t.flash.rmap = s.flash.rmap
  logged : s.logs t 0x82 (.module 0) 4

theorem dropDevs_drops (h0 : s.flash.dev0 = true) (h1 : s.flash.dev1 = true) {ok0 ok1 : Bool} (hok : (ok0 = false ∧ ok1 = true) ∨ (ok0 = true ∧ ok1 = false)) :
    s.dropDevs ok0 ok1 4 = { s.flashEvent 4 with flash := { s.flash with dev0 := ok0, dev1 := ok1 } } := by
  have hfl : (s.flashEvent 4).flash = s.flash := raise_flash ..
  unfold State.dropDevs
  rcases hok with ⟨rfl, rfl⟩ | ⟨rfl, rfl⟩ <;> simp only [h0, h1, hfl, Bool.not_true, Bool.not_false, Bool.and_true, Bool.and_false, Bool.false_and, Bool.false_eq_true, if_true, if_false, Bool.or_false]

theorem flashWrite_drops (h0 : s.flash.dev0 = true) (h1 : s.flash.dev1 = true) {ok0 ok1 : Bool} (hok : (ok0 = false ∧ ok1 = true) ∨ (ok0 = true ∧ ok1 = false)) : DeviceLost s (s.flashWrite ok0 ok1) ok0 ok1 := by
  have hlog : s.logs (s.flashEvent 4) 0x82 (.module 0) 4 := logs_raise rfl ..
  have hdrop := dropDevs_drops h0 h1 hok
  have hgone : (!ok0 && !ok1) = false := by
    rcases hok with ⟨rfl, rfl⟩ | ⟨rfl, rfl⟩ <;> rfl
  unfold State.flashWrite
  rw [hdrop]
  generalize s.flashEvent 4 = a at hlog ⊢
  dsimp only
  rw [hgone, if_neg (by decide)]
  split
  · exact ⟨rfl, rfl, rfl, hlog⟩
  · split
    · exact ⟨rfl, rfl, rfl, hlog⟩
    · split
      · exact ⟨rfl, rfl, rfl, hlog⟩
      · exact ⟨rfl, rfl, rfl, hlog⟩

/-- Settles O52: restarts begin when due, the standby takes over when the heartbeat stays out, and a flash write ends in the devices in service. -/
theorem restartsAndFailover : Obligations.RestartsAndFailover := by
  unfold Obligations.RestartsAndFailover
  refine ⟨fun s v hdue hoff hmod => ⟨fun hnow hcold => ?_, fun hnow hcold => ?_, fun hnow => ?_⟩, fun s => ⟨fun hready => ?_, fun hoff hmod => ?_, fun k hk => ⟨?_, ?_⟩⟩,
    fun s hoff hmod => ⟨?_, fun v b hat hbeat hle hctl => ⟨fun hlate hready => ?_, fun hlate hready => ?_, fun hnow => ?_⟩⟩, fun s d hd hne => ?_, fun s h0 h1 => ⟨?_, ?_, ?_⟩⟩
  · have heq : s.warmRestart = (s.beginWarm 2 s.boot.restartCls).warmVerify := by
      unfold State.warmRestart
      rw [hdue, hoff, hmod, hcold]
      exact (if_neg (by simp [Nat.not_lt.2 hnow])).trans (if_neg (by decide))
    obtain ⟨hkind, hready, hwarm, hcause, hcls, ⟨hjobs, hcells, hpanels⟩, hnone, hphase⟩ := warmVerify_restarts (beginWarm_begins s 2 s.boot.restartCls)
    exact ⟨_, congrArg Host.Outcome.next heq, hkind, hready, hwarm, hcause, hcls, hjobs, hcells, hpanels, hnone, hphase⟩
  · have heq : s.warmRestart = s.beginCold 3 s.boot.restartCls := by
      unfold State.warmRestart
      rw [hdue, hoff, hmod, hcold]
      exact (if_neg (by simp [Nat.not_lt.2 hnow])).trans (if_pos rfl)
    obtain ⟨hstat, hkind, -, ⟨hjobs, hcells, -⟩, hregions, -⟩ := beginCold_begins s (cause := 3) s.boot.restartCls (by decide)
    exact ⟨_, congrArg Host.Outcome.next heq, hkind, hstat.ready, hstat.phase, hstat.warm, hstat.cause, hstat.cls, hjobs, hcells, hregions rfl⟩
  · refine congrArg Host.Outcome.next ?_
    unfold State.warmRestart
    rw [hdue]
    exact if_pos (.inl hnow)
  · have heq : s.resetWarm 0x5253 = (s.setBoot { s.boot with restartCls := 0 }).faultNotices.beginWarm 2 0 := if_neg (by rw [hready]; decide)
    have hnote : s.within [.fports, .boot, .out] (s.setBoot { s.boot with restartCls := 0 }).faultNotices := within_faultNotices (by decide) (within_setBoot (by decide) (within_refl s))
    generalize (s.setBoot { s.boot with restartCls := 0 }).faultNotices = a at heq hnote
    obtain ⟨hstat, hkind, -, ⟨hjobs, hcells, -⟩, -⟩ := beginWarm_begins a 2 0
    exact ⟨_, congrArg Host.Outcome.next heq, hkind, hstat.ready, hstat.phase, hstat.warm, hstat.cause, hjobs, hcells⟩
  · have heq : s.resetCold 0x5253 = (if s.ready = true then s.faultNotices else s).beginCold 1 0 := if_neg (by rw [hoff, hmod]; decide)
    obtain ⟨hstat, hkind, -, ⟨hjobs, hcells, -⟩, hregions, -⟩ := beginCold_begins (if s.ready = true then s.faultNotices else s) (cause := 1) 0 (by decide)
    exact ⟨_, congrArg Host.Outcome.next heq, hkind, hstat.ready, hstat.phase, hstat.warm, hstat.cause, hjobs, hcells, hregions rfl⟩
  · exact congrArg Host.Outcome.next (if_pos (.inl hk))
  · exact congrArg Host.Outcome.next (if_pos (.inl hk))
  · refine congrArg Host.Outcome.next ?_
    unfold State.heartbeat
    rw [hoff, hmod]
    rfl
  · have heq : s.failover = (handed s).raise 0x86 (.dieUnit s.ctlDie 0) (2 + s.ctlDie * 2 ^ 8) none := by
      rw [failover_eq hoff hmod hctl, silent_of hat hbeat hle, if_pos (Nat.ble_eq_true_of_le hlate), takeOver_ready hready]
    obtain ⟨hctl', hfail, hregs⟩ := handed_stat s
    have hraise : (handed s).within [.err] ((handed s).raise 0x86 (.dieUnit s.ctlDie 0) (2 + s.ctlDie * 2 ^ 8) none) := within_raise (List.Subset.refl _) (within_refl _)
    have hfld (k lo w : Nat) : ((handed s).raise 0x86 (.dieUnit s.ctlDie 0) (2 + s.ctlDie * 2 ^ 8) none).fld k lo w = (handed s).fld k lo w := fld_of_regs hraise.1 (StartPhases.within_same hraise .regs (by decide)) ..
    refine ⟨_, congrArg Host.Outcome.next heq, (hfld ..).trans hctl', (hfld ..).trans hfail, ?_, logs_raise (congrArg Err.recQ (handed_err s)) .., fun k hk => (reg_of_regs hraise.1 (StartPhases.within_same hraise .regs (by decide)) k).trans (hregs k hk), ?_⟩
    · rw [State.die, show (State.raise ..).dies = _ from StartPhases.within_same hraise .dies (by decide)]
      exact congrArg Die.ctlOk (die_setDie_same ..)
    · exact (StartPhases.within_same hraise .cells (by decide)).trans (handed_cells s)
  · have heq : s.failover = (handed s).beginCold (s.fld (ecKey BOOT_CAUSE) 0 2) (s.fld (ecKey BOOT_CAUSE) 8 8) := by
      rw [failover_eq hoff hmod hctl, silent_of hat hbeat hle, if_pos (Nat.ble_eq_true_of_le hlate), takeOver_starting hready]
    obtain ⟨hstat, hkind, -, ⟨-, hcells, -⟩, -, hq⟩ := beginCold_begins (handed s) (cause := s.fld (ecKey BOOT_CAUSE) 0 2) (s.fld (ecKey BOOT_CAUSE) 8 8) (IntegerInstructions.bits_lt ..)
    refine ⟨_, congrArg Host.Outcome.next heq, hstat.ctl.trans (handed_stat s).1, hstat.phase, hkind, hcells, hq.trans (congrArg Err.recQ (handed_err s))⟩
  · refine congrArg Host.Outcome.next ((failover_eq hoff hmod hctl).trans (if_neg ?_))
    rw [silent_of hat hbeat hle]
    exact fun h => absurd (Nat.le_of_ble_eq_true h) (Nat.not_le.2 hnow)
  · have heq : s.watchdog d = (s.setDie d { s.die d with ctlOk := false }).raise 0x86 (.dieUnit d 0) (2 + d * 2 ^ 8) none := if_neg (not_or.2 ⟨Nat.not_le.2 hd, hne⟩)
    refine ⟨_, congrArg Host.Outcome.next heq, ?_, logs_raise (congrArg Err.recQ (setDie_err ..)) .., ?_, ?_⟩
    · rw [State.die, raise_dies]
      exact congrArg Die.ctlOk (die_setDie_same ..)
    · rw [raise_regs, setDie_regs]
    · rw [raise_cells, setDie_cells]
  · obtain ⟨herr, hrmap, hctr, hwait, hstore, hentry⟩ := flashWrite_writes h0 h1
    refine ⟨_, rfl, herr, hrmap, hctr, hwait, fun hd hr he => ?_, hentry⟩
    rw [hstore hd hr he]
    exact ⟨rfl, rfl, rfl⟩
  · obtain ⟨hd0, hd1, hrmap, hlog⟩ := flashWrite_drops h0 h1 (.inl ⟨rfl, rfl⟩)
    exact ⟨_, rfl, hd0, hd1, hrmap, hlog⟩
  · obtain ⟨hd0, hd1, hrmap, hlog⟩ := flashWrite_drops h0 h1 (.inr ⟨rfl, rfl⟩)
    exact ⟨_, rfl, hd1, hd0, hrmap, hlog⟩

end Sys2Proof.Restarts
end

section
/-! PROOFS. Licence commands and service commands (R474-R480, R483, R484). -/

namespace Sys2Proof.Licences

open Sys2Proof Sys2Proof.Machine Sys2Proof.Laws Sys2Proof.Clauses Sys2Proof.InputPower Sys2Proof.RegionCommands

variable {s t u v : State}

/-! ### The end of a command (R483, R484) -/

/-- What the end of a command leaves of the state `v` in which its result stands; `n` nonces are drawn. -/
structure Closed (v t : State) (n : Nat) : Prop where
  flash : t.flash = { v.flash with nonces := v.flash.nonces + n, licOp := 0 }
  part : t.part = v.part
  regs : t.regs = v.regs
  err : t.err = v.err
  mem : t.mem = v.mem
  band : t.band = v.band

theorem licEnd_closes (v : State) : Closed v v.licEnd 0 := ⟨rfl, rfl, rfl, rfl, rfl, rfl⟩

theorem nonce_closes (v : State) : Closed v v.licEnd.drawNonce 1 := ⟨rfl, rfl, rfl, rfl, rfl, rfl⟩

theorem Closed.reg {n : Nat} (h : Closed v t n) (k : Nat) : t.reg k = v.reg k := reg_of_regs h.part h.regs k

theorem Closed.fld {n : Nat} (h : Closed v t n) (k lo w : Nat) : t.fld k lo w = v.fld k lo w := fld_of_reg (h.reg k) lo w

section
variable {op : Nat} {act : State → State}

theorem licRun_acts (hop : s.flash.licOp = 0) (hopen : s.licOpen op = true) : s.licRun op act = (act s).licEnd.nonceAfter op := by
  unfold State.licRun
  rw [if_neg fun h => h.1 hop, if_neg (by rw [hopen]; decide)]

theorem licRun_closes (hop : s.flash.licOp = 0) (hopen : s.licOpen op = true) (hne : op ≠ 2) : Closed (act s) (s.licRun op act) 0 := by
  rw [licRun_acts hop hopen, State.nonceAfter, if_neg hne]
  exact licEnd_closes _

theorem licRun_service_closes (hop : s.flash.licOp = 0) (hopen : s.licOpen 2 = true) : Closed (act s) (s.licRun 2 act) 1 := by
  rw [licRun_acts hop hopen, State.nonceAfter, if_pos rfl]
  exact nonce_closes _

theorem licOpen_of_ready (h : s.ready = true) : s.licOpen op = true := by
  unfold State.licOpen
  rw [h]
  rfl

theorem licOpen_firmware (h : s.ready = true ∨ s.fld (ecKey BOOT_STAT) 13 1 = 1) : s.licOpen 4 = true := by
  unfold State.licOpen
  rcases h with h | h
  · rw [h]
    rfl
  · rw [h]
    exact Bool.or_true _

end

/-! ### Results -/

theorem licRes_res (s : State) (st reason : Nat) : (s.licRes st reason).reg (ecKey LIC_RES) = BitVec.ofNat 64 (st + reason * 2 ^ 2) := by
  unfold State.licRes
  rw [reg_setReg, if_pos rfl]

theorem licRes_regs (s : State) (st reason : Nat) : s.regsBut (s.licRes st reason) [ecKey LIC_RES] := fun k hk => by
  unfold State.licRes
  rw [reg_setReg, if_neg fun h => hk (List.mem_singleton.2 h)]

theorem licRes_rest (s : State) (st reason : Nat) : s.within [.regs] (s.licRes st reason) := within_setReg (List.Subset.refl _) (within_refl s)

/-- What a command that ends with its result leaves of the state in which it acted. -/
structure Succeeded (u t : State) (n : Nat) : Prop where
  flash : t.flash = { u.flash with nonces := u.flash.nonces + n, licOp := 0 }
  res : t.reg (ecKey LIC_RES) = 2
  regs : u.regsBut t [ecKey LIC_RES]
  err : t.err = u.err
  mem : t.mem = u.mem
  band : t.band = u.band

theorem Closed.succeeds {n : Nat} (h : Closed (u.licRes 2 0) t n) : Succeeded u t n where
  flash := h.flash
  res := (h.reg _).trans (licRes_res u 2 0)
  regs := fun k hk => (h.reg k).trans (licRes_regs u 2 0 k hk)
  err := h.err.trans (StartPhases.within_same (licRes_rest u 2 0) .err (by decide))
  mem := h.mem.trans (StartPhases.within_same (licRes_rest u 2 0) .mem (by decide))
  band := h.band.trans (StartPhases.within_same (licRes_rest u 2 0) .band (by decide))

/-- What a command that is refused leaves of the state in which it was. -/
structure Refused (u t : State) (op reason n : Nat) : Prop where
  flash : t.flash = { u.flash with nonces := u.flash.nonces + n, licOp := 0 }
  res : t.reg (ecKey LIC_RES) = BitVec.ofNat 64 (3 + reason * 2 ^ 2)
  regs : u.regsBut t [ecKey LIC_RES]
  logged : u.logs t 0x83 (.engine 0) (reason + op * 2 ^ 8)
  box : t.err.bbox = u.err.bbox
  mem : t.mem = u.mem

theorem Closed.refuses {op reason n : Nat} (h : Closed (u.licRefuse op reason) t n) : Refused u t op reason n := by
  have hregs (k : Nat) : (u.licRefuse op reason).reg k = (u.licRes 3 reason).reg k := reg_of_regs rfl (raise_regs ..) k
  refine ⟨h.flash, ?_, fun k hk => ?_, ?_, ?_, h.mem⟩
  · rw [h.reg, hregs, licRes_res]
  · rw [h.reg, hregs, licRes_regs u 3 reason k hk]
  · exact logs_of_err (logs_raise (t := u.licRes 3 reason) rfl 0x83 (.engine 0) (reason + op * 2 ^ 8) none) (congrArg Err.recQ h.err)
  · exact (congrArg Err.bbox h.err).trans rfl

/-! ### Service commands (R478) -/

/-- How an object of the service command `cmd` is judged and acts. -/
def judged (o : SignedObj) (cmd : Nat) (why : State → Nat) (act : State → State) (s : State) : State :=
  let r := s.licObject (some o) 3
  if r.2 ≠ 0 then r.1.licRefuse 2 r.2
  else if o.nonce ≠ s.curNonce then r.1.licRefuse 2 6
  else if ofLe (o.body.take 4) ≠ cmd then r.1.licRefuse 2 1
  else if why r.1 ≠ 0 then r.1.licRefuse 2 (why r.1)
  else (act r.1).licRes 2 0

theorem service_eq (s : State) (o : SignedObj) (cmd : Nat) (why : State → Nat) (act : State → State) : s.service (some o) cmd why act = s.licRun 2 (judged o cmd why act) := rfl

section
variable {cmd : Nat} {why : State → Nat} {act : State → State} {o : SignedObj} (hop : s.flash.licOp = 0) (hready : s.ready = true) (hobj : s.licObject (some o) 3 = (u, 0))
include hop hready hobj

theorem service_acts (hnonce : o.nonce = s.curNonce) (hcmd : ofLe (o.body.take 4) = cmd) (hwhy : why u = 0) : Succeeded (act u) (s.service (some o) cmd why act) 1 := by
  have hjudged : judged o cmd why act s = (act u).licRes 2 0 := by
    unfold judged
    dsimp only
    rw [hobj, if_neg fun h => h rfl, if_neg fun h => h hnonce, if_neg fun h => h hcmd, if_neg fun h => h hwhy]
  have hclosed := licRun_service_closes (act := judged o cmd why act) hop (licOpen_of_ready hready)
  rw [hjudged] at hclosed
  exact hclosed.succeeds

theorem service_stale (hnonce : o.nonce ≠ s.curNonce) : Refused u (s.service (some o) cmd why act) 2 6 1 := by
  have hjudged : judged o cmd why act s = u.licRefuse 2 6 := by
    unfold judged
    dsimp only
    rw [hobj, if_neg fun h => h rfl, if_pos hnonce]
  have hclosed := licRun_service_closes (act := judged o cmd why act) hop (licOpen_of_ready hready)
  rw [hjudged] at hclosed
  exact hclosed.refuses

end

/-- A service command whose object is refused, or that names none. -/
theorem service_refused {obj : Option SignedObj} {cmd r : Nat} {why : State → Nat} {act : State → State} (hop : s.flash.licOp = 0) (hready : s.ready = true) (hobj : s.licObject obj 3 = (u, r)) (hr : r ≠ 0) :
    Refused u (s.service obj cmd why act) 2 r 1 := by
  cases obj with
  | some o =>
    have hjudged : judged o cmd why act s = u.licRefuse 2 r := by
      unfold judged
      dsimp only
      rw [hobj, if_pos hr]
    have hclosed := licRun_service_closes (act := judged o cmd why act) hop (licOpen_of_ready hready)
    rw [hjudged] at hclosed
    exact hclosed.refuses
  | none =>
    have hclosed := licRun_service_closes (act := fun s => (s.licObject none 3).1.licRefuse 2 (s.licObject none 3).2) hop (licOpen_of_ready hready)
    rw [hobj] at hclosed
    exact hclosed.refuses

theorem Succeeded.withFates {n : Nat} (h : Succeeded u t n) : Succeeded u { t with fates := [] } n := ⟨h.flash, h.res, h.regs, h.err, h.mem, h.band⟩

theorem Refused.withFates {op r n : Nat} (h : Refused u t op r n) : Refused u { t with fates := [] } op r n := ⟨h.flash, h.res, h.regs, h.logged, h.box, h.mem⟩

end Sys2Proof.Licences
end

section
/-! PROOFS. Features in force, licences and firmware that are installed, reports (R475-R480). -/

namespace Sys2Proof.Licences

open Sys2Proof Sys2Proof.Machine Sys2Proof.Laws Sys2Proof.Clauses Sys2Proof.InputPower Sys2Proof.RegionCommands

variable {s t u v : State}

/-! ### Features (R477) -/

theorem licRetrain_stat (s : State) : s.licRetrain.reg (ecKey LIC_STAT) = s.reg (ecKey LIC_STAT) := by
  unfold State.licRetrain
  dsimp only
  split
  · rfl
  · split
    · unfold State.retrain State.setPstate
      split
      · exact reg_setFld_other _ _ _ _ (ecKey_ne_dieKey _ _ (by decide))
      · rfl
    · rfl

/-- What features that come into force leave of the status. -/
structure FeaturesIn (s t : State) (f : Nat) : Prop where
  reach : s.within [.regs] t
  lanes : t.fld (ecKey LIC_STAT) 0 1 = if bit f 0 = true then 1 else s.fld (ecKey LIC_STAT) 0 1
  rate : t.fld (ecKey LIC_STAT) 1 1 = s.fld (ecKey LIC_STAT) 1 1
  tier : t.fld (ecKey LIC_STAT) 2 1 = if bit f 2 = true then 1 else s.fld (ecKey LIC_STAT) 2 1
  waits : t.fld (ecKey LIC_STAT) 3 1 = if bit f 1 = true ∧ s.fld (ecKey LIC_STAT) 1 1 = 0 then 1 else s.fld (ecKey LIC_STAT) 3 1

/-- The lanes' feature. -/
def lanesIn (s : State) (f : Nat) : State := if bit f 0 then (s.setFld (ecKey LIC_STAT) 0 1 1).licRetrain else s

/-- The 4-bit rate's feature, which waits. -/
def rateIn (s : State) (f : Nat) : State := if bit f 1 ∧ s.fld (ecKey LIC_STAT) 1 1 = 0 then s.setFld (ecKey LIC_STAT) 3 1 1 else s

theorem applyFeatures_eq (s : State) (f : Nat) :
    s.applyFeatures f = if bit f 2 then (rateIn (lanesIn s f) f).setFld (ecKey LIC_STAT) 2 1 1 else rateIn (lanesIn s f) f := rfl

theorem lanesIn_shows (s : State) (f : Nat) : (lanesIn s f).fld (ecKey LIC_STAT) 0 1 = (if bit f 0 = true then 1 else s.fld (ecKey LIC_STAT) 0 1) ∧
    ∀ lo w, 1 ≤ lo → (lanesIn s f).fld (ecKey LIC_STAT) lo w = s.fld (ecKey LIC_STAT) lo w := by
  unfold lanesIn
  by_cases h : bit f 0 = true
  · rw [if_pos h, if_pos h]
    refine ⟨?_, fun lo w hlo => ?_⟩
    · rw [fld_of_reg (licRetrain_stat _), fld_setFld_same _ _ (by decide)]
      rfl
    · rw [fld_of_reg (licRetrain_stat _), fld_setFld_apart _ _ (by decide) (.inr hlo)]
  · rw [if_neg h, if_neg h]
    exact ⟨rfl, fun _ _ _ => rfl⟩

theorem rateIn_shows (s : State) (f : Nat) : (rateIn s f).fld (ecKey LIC_STAT) 3 1 = (if bit f 1 = true ∧ s.fld (ecKey LIC_STAT) 1 1 = 0 then 1 else s.fld (ecKey LIC_STAT) 3 1) ∧
    ∀ lo w, lo + w ≤ 3 → (rateIn s f).fld (ecKey LIC_STAT) lo w = s.fld (ecKey LIC_STAT) lo w := by
  unfold rateIn
  by_cases h : bit f 1 = true ∧ s.fld (ecKey LIC_STAT) 1 1 = 0
  · rw [if_pos h, if_pos h]
    exact ⟨by rw [fld_setFld_same _ _ (by decide)]; rfl, fun lo w hlo => fld_setFld_apart _ _ (by decide) (.inl hlo)⟩
  · rw [if_neg h, if_neg h]
    exact ⟨rfl, fun _ _ _ => rfl⟩

theorem applyFeatures_shows (s : State) (f : Nat) : FeaturesIn s (s.applyFeatures f) f := by
  have hall : s.within [.regs] (s.applyFeatures f) := within_applyFeatures (List.Subset.refl _) (within_refl s)
  obtain ⟨hlanes, hrest⟩ := lanesIn_shows s f
  obtain ⟨hwaits, hbelow⟩ := rateIn_shows (lanesIn s f) f
  rw [hrest 1 1 (by decide), hrest 3 1 (by decide)] at hwaits
  have h0 := (hbelow 0 1 (by decide)).trans hlanes
  have h1 := (hbelow 1 1 (by decide)).trans (hrest 1 1 (by decide))
  have h2 := (hbelow 2 1 (by decide)).trans (hrest 2 1 (by decide))
  rw [applyFeatures_eq] at hall ⊢
  generalize rateIn (lanesIn s f) f = a at hall hwaits h0 h1 h2 ⊢
  by_cases hb : bit f 2 = true
  · rw [if_pos hb] at hall ⊢
    refine ⟨hall, ?_, ?_, ?_, ?_⟩
    · rw [fld_setFld_apart _ _ (by decide) (.inl (by decide)), h0]
    · rw [fld_setFld_apart _ _ (by decide) (.inl (by decide)), h1]
    · rw [fld_setFld_same _ _ (by decide), if_pos hb]
      rfl
    · rw [fld_setFld_apart _ _ (by decide) (.inr (by decide)), hwaits]
  · rw [if_neg hb] at hall ⊢
    exact ⟨hall, h0, h1, by rw [if_neg hb, h2], hwaits⟩

/-! ### The 4-bit rate (R477) -/

theorem w4Apply_takes (hwaits : s.fld (ecKey LIC_STAT) 3 1 = 1) (hjobs : s.jobs = []) : s.w4Apply = (s.setFld (ecKey LIC_STAT) 3 1 0).setFld (ecKey LIC_STAT) 1 1 1 := if_pos ⟨hwaits, hjobs⟩

theorem w4Apply_waits (h : s.fld (ecKey LIC_STAT) 3 1 = 0 ∨ s.jobs ≠ []) : s.w4Apply = s := if_neg fun hc => by
  rcases h with h | h
  · exact absurd (h.symm.trans hc.1) (by decide)
  · exact h hc.2

theorem rate_stat (s : State) : ((s.setFld (ecKey LIC_STAT) 3 1 0).setFld (ecKey LIC_STAT) 1 1 1).fld (ecKey LIC_STAT) 3 1 = 0 ∧
    ((s.setFld (ecKey LIC_STAT) 3 1 0).setFld (ecKey LIC_STAT) 1 1 1).fld (ecKey LIC_STAT) 1 1 = 1 := by
  rw [fld_setFld_apart _ _ (by decide) (.inr (by decide)), fld_setFld_same _ _ (by decide), fld_setFld_same _ _ (by decide)]
  exact ⟨rfl, rfl⟩

theorem w4Apply_apart (s : State) {lo w : Nat} (h : lo + w ≤ 1 ∨ (2 ≤ lo ∧ lo + w ≤ 3) ∨ 4 ≤ lo) : s.w4Apply.fld (ecKey LIC_STAT) lo w = s.fld (ecKey LIC_STAT) lo w := by
  unfold State.w4Apply
  split
  · rw [fld_setFld_apart _ _ (by decide) (by omega), fld_setFld_apart _ _ (by decide) (by omega)]
  · rfl

/-- What the features of a licence and the count of licences leave. -/
structure InForce (s t : State) (f n : Nat) : Prop where
  reach : s.within [.regs] t
  lanes : t.fld (ecKey LIC_STAT) 0 1 = if bit f 0 = true then 1 else s.fld (ecKey LIC_STAT) 0 1
  tier : t.fld (ecKey LIC_STAT) 2 1 = if bit f 2 = true then 1 else s.fld (ecKey LIC_STAT) 2 1
  count : t.fld (ecKey LIC_STAT) 4 5 = n
  rate : s.fld (ecKey LIC_STAT) 3 1 = 0 → bit f 1 = true → s.fld (ecKey LIC_STAT) 1 1 = 0 →
    t.fld (ecKey LIC_STAT) 1 1 = (if s.jobs = [] then 1 else 0) ∧ t.fld (ecKey LIC_STAT) 3 1 = (if s.jobs = [] then 0 else 1)

theorem features_in_force (s : State) (f : Nat) (hlen : (s.flash.licences.filter (·.valid)).length < 32) : InForce s ((s.applyFeatures f).licCount).w4Apply f (s.flash.licences.filter (·.valid)).length := by
  have hin := applyFeatures_shows s f
  generalize s.applyFeatures f = a at hin ⊢
  have hcount : a.within [.regs] a.licCount := within_licCount (List.Subset.refl _) (within_refl a)
  have hn : a.licCount.fld (ecKey LIC_STAT) 4 5 = (s.flash.licences.filter (·.valid)).length := by
    unfold State.licCount
    rw [fld_setFld_same _ _ (by decide), show a.flash = s.flash from StartPhases.within_same hin.reach .flash (by decide)]
    exact Nat.mod_eq_of_lt hlen
  have hlow {lo w : Nat} (h : lo + w ≤ 4) : a.licCount.fld (ecKey LIC_STAT) lo w = a.fld (ecKey LIC_STAT) lo w := fld_setFld_apart _ _ (by decide) (.inl h)
  generalize a.licCount = b at hcount hn hlow ⊢
  have hw4 : b.within [.regs] b.w4Apply := within_w4Apply (List.Subset.refl _) (within_refl b)
  have hjobs : b.jobs = s.jobs := (StartPhases.within_same hcount .jobs (by decide)).trans (StartPhases.within_same hin.reach .jobs (by decide))
  refine ⟨within_trans hin.reach (within_trans hcount hw4), ?_, ?_, ?_, fun h3 hf h1 => ?_⟩
  · rw [w4Apply_apart b (.inl (by decide)), hlow (by decide), hin.lanes]
  · rw [w4Apply_apart b (.inr (.inl (by decide))), hlow (by decide), hin.tier]
  · rw [w4Apply_apart b (.inr (.inr (by decide))), hn]
  · have hwaits : b.fld (ecKey LIC_STAT) 3 1 = 1 := by rw [hlow (by decide), hin.waits, if_pos ⟨hf, h1⟩]
    have hrate : b.fld (ecKey LIC_STAT) 1 1 = 0 := by rw [hlow (by decide), hin.rate, h1]
    by_cases hj : s.jobs = []
    · rw [w4Apply_takes hwaits (hjobs.trans hj), if_pos hj, if_pos hj]
      exact ⟨(rate_stat b).2, (rate_stat b).1⟩
    · rw [w4Apply_waits (.inr (hjobs ▸ hj)), if_neg hj, if_neg hj]
      exact ⟨hrate, hwaits⟩

end Sys2Proof.Licences
end

section
/-! PROOFS. What licences, images, reports and service commands leave (R475-R480). -/

namespace Sys2Proof.Licences

open Sys2Proof Sys2Proof.Machine Sys2Proof.Laws Sys2Proof.Clauses Sys2Proof.InputPower Sys2Proof.RegionCommands

variable {s t u v : State}

/-! ### Licences (R476) -/

/-- The licence that an object holds. -/
def licenceOf (o : SignedObj) : Licence := { lseq := ofLe ((o.body.drop 4).take 4), features := ofLe (o.body.take 4), bytes := State.objBytes o, valid := true }

/-- The state in which the licence is stored. -/
def stored (s : State) (o : SignedObj) : State := { s with flash := { s.flash with licences := s.flash.licences ++ [licenceOf o] } }

/-- How an object is installed as a licence. -/
def installed (o : SignedObj) (s : State) : State :=
  let r := s.licObject (some o) 2
  if r.2 ≠ 0 then r.1.licRefuse 1 r.2
  else if !State.licBodyOk o.body then r.1.licRefuse 1 1
  else if r.1.flash.licences.any fun h => h.lseq == (licenceOf o).lseq then r.1.licRes 2 0
  else if 16 ≤ r.1.flash.licences.length then r.1.licRefuse 1 12
  else if !r.1.flash.dev0 && !r.1.flash.dev1 then r.1.licRefuse 1 11
  else ((((stored r.1 o).applyFeatures (licenceOf o).features).licCount).w4Apply).licRes 2 0

theorem installLicence_eq (s : State) (o : SignedObj) : s.installLicence (some o) = s.licRun 1 (installed o) := rfl

section
variable {o : SignedObj} (hop : s.flash.licOp = 0) (hready : s.ready = true) (hobj : s.licObject (some o) 2 = (u, 0)) (hbody : State.licBodyOk o.body = true)
include hop hready hobj hbody

theorem installLicence_again (hany : (u.flash.licences.any fun h => h.lseq == (licenceOf o).lseq) = true) : Succeeded u (s.installLicence (some o)) 0 := by
  have hact : installed o s = u.licRes 2 0 := by
    unfold installed
    dsimp only
    rw [hobj, if_neg fun h => h rfl, if_neg (by rw [hbody]; decide), if_pos hany]
  have hclosed := licRun_closes (op := 1) (act := installed o) hop (licOpen_of_ready hready) (by decide)
  rw [hact] at hclosed
  exact hclosed.succeeds

theorem installLicence_new (hany : (u.flash.licences.any fun h => h.lseq == (licenceOf o).lseq) = false) (hroom : u.flash.licences.length < 16) (hdev : u.flash.dev0 = true) :
    Succeeded (((stored u o).applyFeatures (licenceOf o).features).licCount).w4Apply (s.installLicence (some o)) 0 := by
  have hact : installed o s = ((((stored u o).applyFeatures (licenceOf o).features).licCount).w4Apply).licRes 2 0 := by
    unfold installed
    dsimp only
    rw [hobj, if_neg fun h => h rfl, if_neg (by rw [hbody]; decide), if_neg (by rw [hany]; decide), if_neg (Nat.not_le.2 hroom), if_neg (by rw [hdev]; exact Bool.false_ne_true)]
  have hclosed := licRun_closes (op := 1) (act := installed o) hop (licOpen_of_ready hready) (by decide)
  rw [hact] at hclosed
  exact hclosed.succeeds

end

/-- A licence command whose object is refused. -/
theorem installLicence_refused {obj : Option SignedObj} {r : Nat} (hop : s.flash.licOp = 0) (hready : s.ready = true) (hobj : s.licObject obj 2 = (u, r)) (hr : r ≠ 0) : Refused u (s.installLicence obj) 1 r 0 := by
  cases obj with
  | some o =>
    have hact : installed o s = u.licRefuse 1 r := by
      unfold installed
      dsimp only
      rw [hobj, if_pos hr]
    have hclosed := licRun_closes (op := 1) (act := installed o) hop (licOpen_of_ready hready) (by decide)
    rw [hact] at hclosed
    exact hclosed.refuses
  | none =>
    have hclosed := licRun_closes (op := 1) (act := fun s => (s.licObject none 2).1.licRefuse 1 (s.licObject none 2).2) hop (licOpen_of_ready hready) (by decide)
    rw [hobj] at hclosed
    exact hclosed.refuses

/-! ### Firmware (R475) -/

/-- The image that an object holds. -/
def imageOf (s : State) (o : SignedObj) : FwSlot := { okA := s.flash.dev0, okB := s.flash.dev1, svn := o.svn, body := State.objBytes o }

/-- The state in which slot `n` holds the image and is the active one. -/
def flashed (s : State) (o : SignedObj) (n : Nat) : State := { s with flash := { State.setSlot s.flash n (imageOf s o) with active := n } }

/-- How an object is installed as firmware. -/
def burned (o : SignedObj) (ok : Bool) (s : State) : State :=
  let r := s.licObject (some o) 1
  if r.2 ≠ 0 then r.1.licRefuse 4 r.2
  else if !ok || (!r.1.flash.dev0 && !r.1.flash.dev1) then r.1.licRefuse 4 11
  else (flashed r.1 o (1 - r.1.fld (ecKey BOOT_STAT) 11 1)).licRes 2 0

theorem installFirmware_eq (s : State) (o : SignedObj) (ok : Bool) : s.installFirmware (some o) ok = s.licRun 4 (burned o ok) := rfl

section
variable {o : SignedObj} (hop : s.flash.licOp = 0) (hopen : s.licOpen 4 = true) (hobj : s.licObject (some o) 1 = (u, 0))
include hop hopen hobj

theorem installFirmware_good (hdev : u.flash.dev0 = true) : Succeeded (flashed u o (1 - u.fld (ecKey BOOT_STAT) 11 1)) (s.installFirmware (some o) true) 0 := by
  have hact : burned o true s = (flashed u o (1 - u.fld (ecKey BOOT_STAT) 11 1)).licRes 2 0 := by
    unfold burned
    dsimp only
    rw [hobj, if_neg fun h => h rfl, if_neg (by rw [hdev]; exact Bool.false_ne_true)]
  have hclosed := licRun_closes (op := 4) (act := burned o true) hop hopen (by decide)
  rw [hact] at hclosed
  exact hclosed.succeeds

theorem installFirmware_bad : Refused u (s.installFirmware (some o) false) 4 11 0 := by
  have hact : burned o false s = u.licRefuse 4 11 := by
    unfold burned
    dsimp only
    rw [hobj, if_neg fun h => h rfl, if_pos (show (!false || !(u, (0 : Nat)).1.flash.dev0 && !(u, (0 : Nat)).1.flash.dev1) = true from rfl)]
  have hclosed := licRun_closes (op := 4) (act := burned o false) hop hopen (by decide)
  rw [hact] at hclosed
  exact hclosed.refuses

end

/-- A firmware command whose object is refused. -/
theorem installFirmware_refused {obj : Option SignedObj} {r : Nat} (hop : s.flash.licOp = 0) (hopen : s.licOpen 4 = true) (hobj : s.licObject obj 1 = (u, r)) (hr : r ≠ 0) :
    Refused u (s.installFirmware obj true) 4 r 0 := by
  cases obj with
  | some o =>
    have hact : burned o true s = u.licRefuse 4 r := by
      unfold burned
      dsimp only
      rw [hobj, if_pos hr]
    have hclosed := licRun_closes (op := 4) (act := burned o true) hop hopen (by decide)
    rw [hact] at hclosed
    exact hclosed.refuses
  | none =>
    have hclosed := licRun_closes (op := 4) (act := fun s => (s.licObject none 1).1.licRefuse 4 (s.licObject none 1).2) hop hopen (by decide)
    rw [hobj] at hclosed
    exact hclosed.refuses

theorem slotOf_flashed (s : State) (o : SignedObj) {n : Nat} (hn : n < 2) : State.slotOf (flashed s o n).flash n = imageOf s o ∧ State.slotOf (flashed s o n).flash (1 - n) = State.slotOf s.flash (1 - n) := by
  match n, hn with
  | 0, _ => exact ⟨rfl, rfl⟩
  | 1, _ => exact ⟨rfl, rfl⟩

/-! ### Reports and the certificate (R479, R480) -/

/-- The result of a report's or certificate's write. -/
def answered (r : State × Bool) (op : Nat) : State := if r.2 then r.1.licRes 2 0 else r.1.licRefuse op 8

/-- What a report or certificate that was written leaves. -/
structure Written (u t : State) (ok : Bool) : Prop where
  flash : t.flash = { u.flash with licOp := 0 }
  mem : t.mem = u.mem
  res : t.reg (ecKey LIC_RES) = if ok = true then 2 else 35
  regs : u.regsBut t [ecKey LIC_RES]

theorem answered_written {ok : Bool} {op : Nat} (h : Closed (answered (u, ok) op) t 0) : Written u t ok := by
  cases ok with
  | true =>
    have hs : Succeeded u t 0 := h.succeeds
    exact ⟨hs.flash, hs.mem, hs.res, hs.regs⟩
  | false =>
    have hr : Refused u t op 8 0 := h.refuses
    exact ⟨hr.flash, hr.mem, hr.res, hr.regs⟩

/-- The state in which the next leaf is the counter's. -/
def leafTaken (s : State) : State := ({ s with flash := { s.flash with lmsQ := s.flash.lmsQ + 1 } } : State).ctrWrite

/-- How a report is drawn up. -/
def reported (s : State) : State :=
  if !s.licAddrOk s.licDst then s.licRefuse 3 8
  else if lmsLeaves ≤ s.flash.lmsQ then s.licRefuse 3 10
  else if !s.flash.dev0 && !s.flash.dev1 then s.licRefuse 3 11
  else answered ((leafTaken s).licWrite ((leafTaken s).reportBytes ++ Config.sign s.flash.lmsQ (leafTaken s).reportBytes)) 3

theorem attest_eq (s : State) : s.attest = s.licRun 3 reported := rfl

/-- How the certificate is given out. -/
def certified (s : State) : State := if !s.licAddrOk s.licDst then s.licRefuse 5 8 else answered (s.licWrite Config.certificate) 5

theorem certificate_eq (s : State) : s.certificate = s.licRun 5 certified := rfl

section
variable (hop : s.flash.licOp = 0) (hready : s.ready = true) (haddr : s.licAddrOk s.licDst = true)
include hop hready haddr

theorem attest_writes (hleaf : s.flash.lmsQ < 1048576) (hdev : s.flash.dev0 = true) {ok : Bool}
    (hw : (leafTaken s).licWrite ((leafTaken s).reportBytes ++ Config.sign s.flash.lmsQ (leafTaken s).reportBytes) = (u, ok)) : Written u s.attest ok := by
  have hact : reported s = answered (u, ok) 3 := by
    unfold reported
    rw [haddr, if_neg (by decide), if_neg (show ¬ lmsLeaves ≤ s.flash.lmsQ from Nat.not_le.2 hleaf), if_neg (by rw [hdev]; exact Bool.false_ne_true), hw]
  have hclosed := licRun_closes (op := 3) (act := reported) hop (licOpen_of_ready hready) (by decide)
  rw [hact] at hclosed
  exact answered_written hclosed

theorem attest_spent (hleaf : 1048576 ≤ s.flash.lmsQ) : Refused s s.attest 3 10 0 := by
  have hact : reported s = s.licRefuse 3 10 := by
    unfold reported
    rw [haddr, if_neg (by decide), if_pos (show lmsLeaves ≤ s.flash.lmsQ from hleaf)]
  have hclosed := licRun_closes (op := 3) (act := reported) hop (licOpen_of_ready hready) (by decide)
  rw [hact] at hclosed
  exact hclosed.refuses

theorem certificate_writes {ok : Bool} (hw : s.licWrite Config.certificate = (u, ok)) : Written u s.certificate ok := by
  have hact : certified s = answered (u, ok) 5 := by
    unfold certified
    rw [haddr, if_neg (by decide), hw]
  have hclosed := licRun_closes (op := 5) (act := certified) hop (licOpen_of_ready hready) (by decide)
  rw [hact] at hclosed
  exact answered_written hclosed

end

/-! ### What the service commands do (R478) -/

theorem flashWhy_good (h : s.flash.dev0 = true) : s.flashWhy = 0 := by
  unfold State.flashWhy
  rw [h]
  exact if_neg Bool.false_ne_true

theorem filter_zipIdx_fst {α : Type} (p : α → Bool) (l : List α) (n : Nat) : ((l.zipIdx n).filter fun e => p e.1).map (·.1) = l.filter p := by
  induction l generalizing n with
  | nil => rfl
  | cons a l ih =>
    rw [List.zipIdx_cons, List.filter_cons, List.filter_cons]
    dsimp only
    split
    · rw [List.map_cons, ih]
    · exact ih _

theorem removeEntries_rmap (s : State) (die : Nat) (idxs : List Nat) : (s.removeEntries die idxs).flash.rmap =
    if idxs.contains 0xFFFF = true then s.flash.rmap.filter (fun e => !(e.die == die && e.state == 0)) else (s.flash.rmap.zipIdx.filter fun e => !idxs.contains e.2).map (·.1) := by
  unfold State.removeEntries
  dsimp only
  by_cases h : idxs.contains 0xFFFF = true
  · simp only [h, if_true]
    exact filter_zipIdx_fst (fun e : RmapEntry => !(e.die == die && e.state == 0)) _ _
  · simp only [h, if_false, Bool.false_eq_true]

/-- What the black box that is cleared leaves. -/
structure Cleared (s t : State) : Prop where
  box : t.err.bbox = [] ∧ t.err.wrapped = false
  counts : t.reg (ecKey BBOX_CNT_CC) = 0 ∧ t.reg (ecKey BBOX_CNT_ES) = 0
  marked : ∃ e, t.err.staged = s.err.staged ++ [e] ∧ e.kind = 4 ∧ e.jseq = s.fld (ecKey BBOX_NEXT) 0 32
  nonces : t.flash.nonces = s.flash.nonces

theorem clearBbox_clears (s : State) : Cleared s s.clearBbox := by
  unfold State.clearBbox
  dsimp only
  generalize ha : ({ s with err := { s.err with bbox := [], wrapped := false }, flash := { s.flash with ctrs := s.flash.ctrs.take 3 ++ List.replicate 4 [0] } } : State) = a
  have herr : a.err = { s.err with bbox := [], wrapped := false } := by rw [← ha]
  have hnonces : a.flash.nonces = s.flash.nonces := by rw [← ha]
  have hnext : a.fld (ecKey BBOX_NEXT) 0 32 = s.fld (ecKey BBOX_NEXT) 0 32 := by
    rw [← ha]
    exact fld_of_regs rfl rfl ..
  have hj : ((a.setReg (ecKey BBOX_CNT_CC) 0).setReg (ecKey BBOX_CNT_ES) 0).fld (ecKey BBOX_NEXT) 0 32 = s.fld (ecKey BBOX_NEXT) 0 32 := by
    rw [fld_setReg_other _ _ _ _ (by decide), fld_setReg_other _ _ _ _ (by decide), hnext]
  have hcc : ((a.setReg (ecKey BBOX_CNT_CC) 0).setReg (ecKey BBOX_CNT_ES) 0).reg (ecKey BBOX_CNT_CC) = 0 := by
    rw [reg_setReg, if_neg (by decide), reg_setReg, if_pos rfl]
  have hes : ((a.setReg (ecKey BBOX_CNT_CC) 0).setReg (ecKey BBOX_CNT_ES) 0).reg (ecKey BBOX_CNT_ES) = 0 := by
    rw [reg_setReg, if_pos rfl]
  have hw : a.within [.regs] ((a.setReg (ecKey BBOX_CNT_CC) 0).setReg (ecKey BBOX_CNT_ES) 0) := within_setReg (by decide) (within_setReg (by decide) (within_refl a))
  generalize (a.setReg (ecKey BBOX_CNT_CC) 0).setReg (ecKey BBOX_CNT_ES) 0 = b at hj hcc hes hw ⊢
  have hberr : b.err = { s.err with bbox := [], wrapped := false } := (StartPhases.within_same hw .err (by decide)).trans herr
  have hbflash : b.flash.nonces = s.flash.nonces := (congrArg Flash.nonces (StartPhases.within_same hw .flash (by decide))).trans hnonces
  have hreg (k : Nat) (hk : k ≠ ecKey BBOX_NEXT) : (b.stageOne 4 (toLe 8 s.facility)).reg k = b.reg k := by
    unfold State.stageOne
    rw [reg_setReg, if_neg hk]
    exact reg_of_regs rfl rfl k
  refine ⟨⟨?_, ?_⟩, ⟨(hreg _ (by decide)).trans hcc, (hreg _ (by decide)).trans hes⟩, ⟨{ jseq := b.nextJ, kind := 4, body := toLe 8 s.facility, okA := true, okB := true, raw := none }, ?_, rfl, hj⟩, ?_⟩
  · unfold State.stageOne
    rw [setReg_err]
    exact congrArg Err.bbox hberr
  · unfold State.stageOne
    rw [setReg_err]
    exact congrArg Err.wrapped hberr
  · unfold State.stageOne
    rw [setReg_err]
    exact congrArg (fun e => e.staged ++ _) hberr
  · unfold State.stageOne
    rw [setReg_flash]
    exact hbflash

/-- What SVN_MIN raised to `v` leaves. -/
structure SvnRaised (s t : State) (v : Nat) : Prop where
  flash : t.flash = { s.flash with svnMin := v }
  fuses : v < 2 ^ 16 → t.fld (dieKey 0 FUSE_SVN) 0 16 = v ∧ t.fld (dieKey s.part.standby FUSE_SVN) 0 16 = v
  err : t.err = s.err

theorem raiseSvn_raises (s : State) {v : Nat} (hv : v = max s.flash.svnMin ((State.slotOf s.flash (s.fld (ecKey BOOT_STAT) 11 1)).svn % 2 ^ 16)) : SvnRaised s s.raiseSvn v := by
  have hv' : max s.flash.svnMin (bits (State.slotOf s.flash (s.fld (ecKey BOOT_STAT) 11 1)).svn 0 16) = v := by
    rw [hv, bits, Nat.pow_zero, Nat.div_one]
  have hne : dieKey 0 FUSE_SVN ≠ dieKey s.part.standby FUSE_SVN := by
    cases s.part <;> decide
  unfold State.raiseSvn
  rw [hv']
  refine ⟨?_, fun hlt => ⟨?_, ?_⟩, ?_⟩
  · rw [setFld_flash, setFld_flash]
  · rw [fld_setFld_other _ _ _ _ _ _ hne, fld_setFld_same _ _ (by decide), Nat.mod_eq_of_lt hlt]
  · rw [fld_setFld_same _ _ (by decide), Nat.mod_eq_of_lt hlt]
  · rw [setFld_err, setFld_err]

theorem licCount_regs (s : State) : s.regsBut s.licCount [ecKey LIC_STAT] := fun k hk => reg_setFld_other _ _ _ _ fun h => hk (List.mem_singleton.2 h)

end Sys2Proof.Licences
end

section
/-! PROOFS. Licences and service commands (O54). -/

namespace Sys2Proof.Licences

open Sys2Proof Sys2Proof.Machine Sys2Proof.Laws Sys2Proof.Clauses Sys2Proof.InputPower

variable {s t u v : State}

theorem regsBut_twice {k : Nat} {ks : List Nat} (h : s.regsBut t ks) (h' : t.regsBut u [k]) : s.regsBut u (k :: ks) := fun j hj =>
  (h' j fun hm => hj (List.mem_cons.2 (.inl (List.mem_singleton.1 hm)))).trans (h j fun hm => hj (List.mem_cons_of_mem _ hm))

theorem licence_installed (s u : State) (o : SignedObj) (fates : List Fate) (hop : s.flash.licOp = 0) (hready : s.ready = true) (hobj : ({ s with fates := fates } : State).licObject (some o) 2 = (u, 0))
    (hbody : State.licBodyOk o.body = true) (hany : (u.flash.licences.any fun h => h.lseq == (licenceOf o).lseq) = false) (hroom : u.flash.licences.length < 16) (hdev : u.flash.dev0 = true) :
    ∃ t, exec (.licInstallLicence (some o) fates) s = .next t ∧ t.flash.licences = u.flash.licences ++ [licenceOf o] ∧ t.reg (ecKey LIC_RES) = 2 ∧ ∃ w, InForce (stored u o) w (licenceOf o).features ((u.flash.licences.filter fun h => h.valid).length + 1) ∧
      ∀ lo n, t.fld (ecKey LIC_STAT) lo n = w.fld (ecKey LIC_STAT) lo n := by
  have hs := (installLicence_new (s := { s with fates := fates }) hop hready hobj hbody hany hroom hdev).withFates
  have hcount : ((stored u o).flash.licences.filter (·.valid)).length = (u.flash.licences.filter fun h => h.valid).length + 1 := by
    show ((u.flash.licences ++ [licenceOf o]).filter (·.valid)).length = _
    rw [List.filter_append, List.length_append]
    rfl
  have hlt : ((stored u o).flash.licences.filter (·.valid)).length < 32 := by
    have hle := List.length_filter_le (fun h : Licence => h.valid) u.flash.licences
    omega
  have hin := features_in_force (stored u o) (licenceOf o).features hlt
  rw [hcount] at hin
  refine ⟨_, rfl, (congrArg Flash.licences hs.flash).trans ?_, hs.res, _, hin, fun lo n => fld_of_reg (hs.regs _ (by decide)) lo n⟩
  exact congrArg Flash.licences (show _ = (stored u o).flash from StartPhases.within_same hin.reach .flash (by decide))

/-- Settles O54: each command of the licence unit runs as its section says, and ends with its result, its record and its nonce. -/
theorem licencesAndServiceCommands : Obligations.LicencesAndServiceCommands := by
  unfold Obligations.LicencesAndServiceCommands
  refine ⟨fun s u o fates hop hready hobj hbody => ⟨fun hany => ?_, fun hany hroom hdev => ?_⟩, fun s => ⟨fun hwaits hjobs => ?_, fun h => ?_⟩, fun s u o fates hop hopen hobj hdev => ⟨?_, ?_⟩,
    fun s obj op otype why i u fates hop hready hobj hwhy _ hi => ?_, fun s hop hready haddr => ⟨fun hleaf hdev => ?_, fun hleaf => ?_, ?_⟩,
    fun s u o fates hop hready hobj hdev => ⟨fun die idxs hnonce hcmd hwhy => ?_, fun hnonce hcmd => ?_, fun k hnonce hcmd => ?_, fun lseq hnonce hcmd => ?_, fun cfg hnonce hcmd => ?_, fun slot hnonce hcmd => ?_,
      fun hnonce hcmd => ?_, fun hnonce => ?_⟩⟩
  · have hs := (installLicence_again (s := { s with fates := fates }) hop hready hobj hbody hany).withFates
    exact ⟨_, rfl, hs.res, hs.flash, hs.regs, hs.err⟩
  · obtain ⟨t, hexec, hlic, hres, w, hin, hfld⟩ := licence_installed s u o fates hop hready hobj hbody hany hroom hdev
    refine ⟨t, licenceOf o, hexec, hlic, rfl, rfl, rfl, hres, (hfld ..).trans hin.count, (hfld ..).trans hin.lanes, (hfld ..).trans hin.tier, fun h3 hf h1 => ?_⟩
    obtain ⟨hrate, hwait⟩ := hin.rate h3 hf h1
    exact ⟨(hfld ..).trans hrate, (hfld ..).trans hwait⟩
  · obtain ⟨h3, h1⟩ := rate_stat s
    refine ⟨_, congrArg Host.Outcome.next (w4Apply_takes hwaits hjobs), h3, h1, fun k hk => ?_, ?_, ?_⟩
    · have hne : k ≠ ecKey LIC_STAT := fun h => hk (List.mem_singleton.2 h)
      rw [reg_setFld_other _ _ _ _ hne, reg_setFld_other _ _ _ _ hne]
    · rw [setFld_flash, setFld_flash]
    · rw [setFld_err, setFld_err]
  · exact congrArg Host.Outcome.next (w4Apply_waits h)
  · have hs := (installFirmware_good (s := { s with fates := fates }) hop (licOpen_firmware hopen) hobj hdev).withFates
    have hn : 1 - u.fld (ecKey BOOT_STAT) 11 1 < 2 := by omega
    obtain ⟨hslot, hother⟩ := slotOf_flashed u o hn
    exact ⟨_, rfl, congrArg Flash.active hs.flash, (congrArg (fun f => (State.slotOf f _).svn) hs.flash).trans (congrArg FwSlot.svn hslot),
      (congrArg (fun f => (State.slotOf f _).okA) hs.flash).trans ((congrArg FwSlot.okA hslot).trans hdev), (congrArg (fun f => State.slotOf f _) hs.flash).trans hother, hs.res, hs.regs, hs.err⟩
  · have hr := (installFirmware_bad (s := { s with fates := fates }) hop (licOpen_firmware hopen) hobj).withFates
    exact ⟨_, rfl, hr.flash, hr.res, hr.logged⟩
  · have hclose {n : Nat} {t : State} (hexec : exec i s = .next t) (hr : Refused u t op why n) : ∃ t, exec i s = .next t ∧ t.reg (ecKey LIC_RES) = BitVec.ofNat 64 (3 + why * 2 ^ 2) ∧ u.regsBut t [ecKey LIC_RES] ∧
        t.flash.licences = u.flash.licences ∧ t.flash.active = u.flash.active ∧ u.logs t 0x83 (.engine 0) (why + op * 2 ^ 8) :=
      ⟨t, hexec, hr.res, hr.regs, by rw [hr.flash], by rw [hr.flash], hr.logged⟩
    rcases hi with ⟨rfl, rfl, rfl⟩ | ⟨rfl, rfl, rfl⟩ | ⟨rfl, rfl, rfl⟩
    · exact hclose rfl (installLicence_refused (s := { s with fates := fates }) hop hready hobj hwhy).withFates
    · exact hclose rfl (installFirmware_refused (s := { s with fates := fates }) hop (licOpen_of_ready hready) hobj hwhy).withFates
    · exact hclose rfl (service_refused (s := { s with fates := fates }) hop hready hobj hwhy).withFates
  · obtain ⟨u, ok, hwrite⟩ : ∃ u ok, (leafTaken s).licWrite ((leafTaken s).reportBytes ++ Config.sign s.flash.lmsQ (leafTaken s).reportBytes) = (u, ok) := ⟨_, _, rfl⟩
    have hw := attest_writes hop hready haddr hleaf hdev hwrite
    exact ⟨_, u, ok, rfl, hwrite, hw.mem, (congrArg Flash.lmsQ hw.flash).trans rfl, hw.res, hw.regs⟩
  · have hr := attest_spent hop hready haddr hleaf
    exact ⟨_, rfl, hr.res, hr.regs, hr.mem, hr.flash, hr.logged⟩
  · obtain ⟨u, ok, hwrite⟩ : ∃ u ok, s.licWrite Config.certificate = (u, ok) := ⟨_, _, rfl⟩
    have hw := certificate_writes hop hready haddr hwrite
    exact ⟨_, u, ok, rfl, hwrite, hw.mem, hw.res, hw.regs⟩
  · have hs := (service_acts (s := { s with fates := fates }) (why := fun t => t.removeWhy die idxs) (act := fun t => t.removeEntries die idxs) hop hready hobj hnonce hcmd hwhy).withFates
    exact ⟨_, rfl, hs.res, hs.regs, congrArg Flash.nonces hs.flash, hs.err, (congrArg Flash.rmap hs.flash).trans (removeEntries_rmap u die idxs)⟩
  · have hs := (service_acts (s := { s with fates := fates }) (why := State.flashWhy) (act := State.clearBbox) hop hready hobj hnonce hcmd (flashWhy_good hdev)).withFates
    obtain ⟨⟨hbox, hwrap⟩, ⟨hcc, hes⟩, ⟨e, hstaged, hkind, hseq⟩, hnonces⟩ := clearBbox_clears u
    refine ⟨_, e, rfl, (congrArg Err.bbox hs.err).trans hbox, (congrArg Err.wrapped hs.err).trans hwrap, (hs.regs _ (by decide)).trans hcc, (hs.regs _ (by decide)).trans hes, (congrArg Err.staged hs.err).trans hstaged, hkind, hseq, hs.res, (congrArg Flash.nonces hs.flash).trans (congrArg (· + 1) hnonces)⟩
  · have hs := (service_acts (s := { s with fates := fates }) (why := State.flashWhy) (act := fun t => t.installKeys [some k, none]) hop hready hobj hnonce hcmd (flashWhy_good hdev)).withFates
    exact ⟨_, rfl, hs.band, hs.res, congrArg Flash.nonces hs.flash, hs.err⟩
  · have hs := (service_acts (s := { s with fates := fates }) (why := State.flashWhy) (act := fun t => t.removeLicence lseq) hop hready hobj hnonce hcmd (flashWhy_good hdev)).withFates
    have hcount : u.regsBut (u.removeLicence lseq) [ecKey LIC_STAT] := fun k hk => (licCount_regs _ k hk).trans (reg_of_regs rfl rfl k)
    exact ⟨_, rfl, congrArg Flash.licences hs.flash, hs.res, regsBut_twice hcount hs.regs, congrArg Flash.nonces hs.flash, hs.err⟩
  · have hs := (service_acts (s := { s with fates := fates }) (why := State.flashWhy) (act := fun t => { t with flash := { t.flash with configSet := cfg } }) hop hready hobj hnonce hcmd (flashWhy_good hdev)).withFates
    exact ⟨_, rfl, hs.flash, hs.res, hs.regs, hs.err⟩
  · have hs := (service_acts (s := { s with fates := fates }) (why := State.flashWhy) (act := fun t => { t with flash := { t.flash with active := slot % 2 } }) hop hready hobj hnonce hcmd (flashWhy_good hdev)).withFates
    exact ⟨_, rfl, hs.flash, hs.res, hs.regs, hs.err⟩
  · have hs := (service_acts (s := { s with fates := fates }) (why := fun _ => 0) (act := State.raiseSvn) hop hready hobj hnonce hcmd rfl).withFates
    have hr := raiseSvn_raises u rfl
    refine ⟨_, _, rfl, rfl, (congrArg Flash.svnMin hs.flash).trans (congrArg Flash.svnMin hr.flash), fun hlt => ?_, hs.res,
      (congrArg Flash.nonces hs.flash).trans ((congrArg (fun f : Flash => f.nonces + 1) hr.flash).trans rfl), hs.err.trans hr.err⟩
    · have hkey (d : Nat) : dieKey d FUSE_SVN ∉ [ecKey LIC_RES] := fun h => absurd (List.mem_singleton.1 h).symm (ecKey_ne_dieKey _ _ (by decide))
      obtain ⟨h0, h1⟩ := hr.fuses hlt
      exact ⟨(fld_of_reg (hs.regs _ (hkey _)) ..).trans h0, (fld_of_reg (hs.regs _ (hkey _)) ..).trans h1⟩
  · have hr := (service_stale (s := { s with fates := fates }) (cmd := 2) (why := State.flashWhy) (act := State.clearBbox) hop hready hobj hnonce).withFates
    exact ⟨_, rfl, hr.res, hr.box, congrArg Flash.nonces hr.flash, hr.logged⟩

end Sys2Proof.Licences
end

section
/-! PROOFS. A read of the image leaves the canvas and every cell as they are (R241, R256-R280). -/

namespace Sys2Proof.ImageReads

open Sys2Proof Sys2Proof.Machine Sys2Proof.Laws
open Sys2Proof.Clauses (reg_of_regs)
open Sys2Proof.Bookkeeping (SameCanvas)
open Sys2Proof.FabricFrames (carryOut_arrives carryBack_arrives)

/-! ### Registers outside the memory controllers' blocks -/

/-- A register in no memory controller's block. -/
def aside (k : Nat) : Prop := k % 0x1000000 < 0x100000

theorem aside_ecKey {o : Nat} (h : o < 0x100000) : aside (ecKey o) := by
  unfold aside ecKey
  omega

theorem aside_dieKey (d : Nat) {o : Nat} (h : o < 0x100000) : aside (dieKey d o) := by
  unfold aside dieKey
  omega

theorem not_aside_memKey (d : Nat) {n o : Nat} (hn : n < 12) (h : MEM_STAT ≤ o) (h' : o < MEM_STAT + 0x10000) : ¬ aside (memKey d n o) := by
  unfold aside memKey dieKey
  unfold MEM_STAT at h h'
  omega

/-- `t` comes from `s` by work of memory controllers: the registers outside their blocks read as before. -/
structure MemoryWork (s t : State) : Prop where
  part : t.part = s.part
  reg : ∀ k, aside k → t.reg k = s.reg k

namespace MemoryWork

variable {s t u : State}

theorem refl (s : State) : MemoryWork s s := ⟨rfl, fun _ _ => rfl⟩

theorem trans (h : MemoryWork s t) (g : MemoryWork t u) : MemoryWork s u :=
  ⟨g.part.trans h.part, fun k hk => (g.reg k hk).trans (h.reg k hk)⟩

theorem of_eq (h : MemoryWork s t) (hp : u.part = t.part) (hr : u.regs = t.regs) : MemoryWork s u :=
  h.trans ⟨hp, fun k _ => reg_of_regs hp hr k⟩

/-- A change in kinds of state other than registers. -/
theorem of_within (h : MemoryWork s t) {w : List Comp} (hw : t.within w u) (hr : .regs ∉ w) : MemoryWork s u :=
  h.of_eq hw.1 (StartPhases.within_same hw .regs hr)

theorem foldl {α : Type} {f : State → α → State} (l : List α) (hf : ∀ t x, x ∈ l → MemoryWork s t → MemoryWork s (f t x)) (h : MemoryWork s t) :
    MemoryWork s (l.foldl f t) :=
  List.foldlRecOn l f h fun t ht x hx => hf t x hx ht

theorem setReg (h : MemoryWork s t) {k : Nat} {v : DWord} (hk : ¬ aside k) : MemoryWork s (t.setReg k v) :=
  h.trans ⟨rfl, fun _ hj => reg_setReg_other t v fun e => hk (e ▸ hj)⟩

theorem setFld (h : MemoryWork s t) {k lo w v : Nat} (hk : ¬ aside k) : MemoryWork s (t.setFld k lo w v) := h.setReg hk

theorem incSatUn (h : MemoryWork s t) {k lo w n : Nat} (hk : ¬ aside k) : MemoryWork s (t.incSatUn k lo w n) := by
  unfold State.incSatUn
  split
  · exact h
  · exact h.setReg hk

theorem raise (h : MemoryWork s t) {cls : Nat} {loc : Loc} {detail : Nat} {struck : Option Nat} : MemoryWork s (t.raise cls loc detail struck) :=
  h.of_within (within_raise (List.Subset.refl _) (within_refl t)) (by decide)

theorem raiseLim (h : MemoryWork s t) {ns cls : Nat} {loc : Loc} {detail : Nat} : MemoryWork s (t.raiseLim ns cls loc detail) :=
  h.of_within (within_raiseLim (List.Subset.refl _) (within_refl t)) (by decide)

theorem haltPanelOf (h : MemoryWork s t) {c cls : Nat} : MemoryWork s (t.haltPanelOf c cls) :=
  h.of_within (within_haltPanelOf (List.Subset.refl _) (within_refl t)) (by decide)

theorem answer (h : MemoryWork s t) {req : Req} {r : Resp} : MemoryWork s (t.answer req r) :=
  h.of_within (within_answer (List.Subset.refl _) (within_refl t)) (by decide)

/-! #### Half-blocks and their check fields (R257-R262) -/

theorem memLast (h : MemoryWork s t) {g : GLoc} {cls a syn : Nat} (hn : g.n < 12) : MemoryWork s (t.memLast g cls a syn) :=
  (h.setReg (not_aside_memKey g.d hn (by decide) (by decide))).setReg (not_aside_memKey g.d hn (by decide) (by decide))

theorem memRaise (h : MemoryWork s t) {g : GLoc} {cls a syn detail : Nat} {struck : Option Nat} (hn : g.n < 12) :
    MemoryWork s (t.memRaise g cls a syn detail struck) := (h.memLast hn).raise

theorem memRaiseLim (h : MemoryWork s t) {g : GLoc} {cls a syn : Nat} (hn : g.n < 12) : MemoryWork s (t.memRaiseLim g cls a syn) := by
  unfold State.memRaiseLim
  dsimp only
  split
  · exact h.raiseLim
  · exact h.raiseLim.memLast hn

theorem setBytes (h : MemoryWork s t) {k : Nat} {l : List Byte} : MemoryWork s (t.setBytes k l) := h.of_eq (setBytes_part ..) (setBytes_regs ..)

theorem writeHalf (h : MemoryWork s t) {a w : Nat} : MemoryWork s (t.writeHalf a w) := h.setBytes.setBytes

theorem poisonHalf (h : MemoryWork s t) {a : Nat} : MemoryWork s (t.poisonHalf a) := h.setBytes.setBytes

theorem halfTest (h : MemoryWork s t) {g : GLoc} : MemoryWork s (t.halfTest g) := h.of_eq rfl rfl

theorem tagWrong (h : MemoryWork s t) {g : GLoc} {a : Nat} (hn : g.n < 12) : MemoryWork s (t.tagWrong g a) := by
  have poisoned := (h.setBytes (k := gddrTagKey a) (l := toLe 4 0)).foldl (f := fun t i => t.poisonHalf (a / 960 * 960 + 32 * i)) (List.range 30)
    fun _ _ _ hu => hu.poisonHalf
  exact (poisoned.incSatUn (not_aside_memKey g.d hn (by decide) (by decide))).halfTest.memRaise hn

theorem readHalf (h : MemoryWork s t) {g : GLoc} {a : Nat} (hn : g.n < 12) : MemoryWork s (t.readHalf g a).1 := by
  have key : ¬ aside (memKey g.d g.n MEM_ECC_CNT) := not_aside_memKey g.d hn (by decide) (by decide)
  unfold State.readHalf
  dsimp only
  split <;> dsimp only
  · exact h
  · exact (h.writeHalf.incSatUn key).memRaiseLim hn
  · exact h.incSatUn key
  · exact (h.poisonHalf.incSatUn key).halfTest.memRaise hn

theorem readHalves (h : MemoryWork s t) {g : GLoc} {a len : Nat} (hn : g.n < 12) : MemoryWork s (t.readHalves g a len).1 := by
  unfold State.readHalves
  split
  · exact h.tagWrong hn
  · refine List.foldlRecOn (motive := fun q : State × List Byte × List Nat => MemoryWork s q.1) _ _ h fun q hq half _ => ?_
    have read := hq.readHalf (a := half) hn
    split <;> (rename_i e; rw [e] at read; exact read)

theorem writePart (h : MemoryWork s t) {g : GLoc} {req : Req} {a half : Nat} {data : List Byte} {pois : List Nat} (hn : g.n < 12) :
    MemoryWork s (t.writePart g req a data pois half).1 := by
  have key : ¬ aside (memKey g.d g.n MEM_ECC_CNT) := not_aside_memKey g.d hn (by decide) (by decide)
  unfold State.writePart
  dsimp only
  split
  · exact h.poisonHalf
  · split
    · exact h.writeHalf
    · split <;> dsimp only
      · exact h.writeHalf
      · exact (h.writeHalf.incSatUn key).memRaiseLim hn
      · exact (h.poisonHalf.incSatUn key).memRaise hn

/-! #### Transfers of a device (R263-R272) -/

theorem gddrFetch (h : MemoryWork s t) {g : GLoc} {a len : Nat} (hn : g.n < 12) : MemoryWork s (t.gddrFetch g a len).1 := by
  unfold State.gddrFetch
  split
  · exact h
  · exact h.readHalves hn

theorem gddrStore (h : MemoryWork s t) {g : GLoc} {req : Req} {a : Nat} {data : List Byte} {pois : List Nat} (hn : g.n < 12) :
    MemoryWork s (t.gddrStore g req a data pois).1 := by
  unfold State.gddrStore
  split
  · dsimp only
    split
    · exact h.haltPanelOf
    · exact h
  · refine List.foldlRecOn (motive := fun q : State × Bool => MemoryWork s q.1) _ _ ?_ fun q hq half _ => hq.writePart hn
    dsimp only
    split
    · exact h.tagWrong hn
    · exact h

theorem confirmFuse (h : MemoryWork s t) {typ source die loc : Nat} : MemoryWork s (t.confirmFuse typ source die loc) :=
  h.of_within (within_confirmFuse (List.Subset.refl _) (within_refl t)) (by decide)

theorem deviceFail (h : MemoryWork s t) {d n ch : Nat} (hn : n < 12) : MemoryWork s (t.deviceFail d n ch) := by
  have failed := ((h.setFld (lo := 0) (w := 3) (v := 6) (not_aside_memKey d hn (Nat.le_refl MEM_STAT) (by decide))).setFld (lo := 6) (w := 3) (v := 5)
    (not_aside_memKey d hn (o := MEM_TRAIN_STAT) (by decide) (by decide))).confirmFuse (typ := 7) (source := 4) (die := d) (loc := n)
  unfold State.deviceFail
  exact (failed.memRaise hn).foldl _ fun _ _ _ hu => hu.haltPanelOf

end MemoryWork

/-- An address that lies in a device names one of a die's twelve. -/
theorem locate_device {s : State} {a : Nat} {g : GLoc} (h : s.locate a = some g) : g.n < 12 := by
  unfold State.locate at h
  dsimp only at h
  split at h
  · next d n found =>
    cases h
    obtain ⟨m, hm, live⟩ := List.mem_flatMap.1 (List.mem_of_getElem? found)
    obtain ⟨e, -, named⟩ := List.mem_filterMap.1 live
    split at named
    · cases named
      exact List.mem_range.1 hm
    · cases named
  · cases h

namespace MemoryWork

variable {s t u : State}

theorem serveWait (h : MemoryWork s t) {g : GLoc} {w : GWait} (hn : g.n < 12) : MemoryWork s (t.serveWait g w) := by
  have taken : MemoryWork s (t.setMc g.d g.n { t.mc g.d g.n with waits := (t.mc g.d g.n).waits.erase w }) := h.of_eq rfl rfl
  unfold State.serveWait
  dsimp only
  split
  · exact (taken.gddrFetch hn).answer
  · exact (taken.gddrStore hn).answer

theorem serveWaits (h : MemoryWork s t) {d n : Nat} : MemoryWork s (t.serveWaits d n) := by
  refine h.foldl _ fun u w _ hu => ?_
  split
  · next g hg =>
    split
    · exact hu
    · exact hu.serveWait (locate_device hg)
  · exact hu

theorem retrainDone (h : MemoryWork s t) {d n ch : Nat} {ok : Bool} (hn : n < 12) : MemoryWork s (t.retrainDone d n ch ok) := by
  have cleared := h.setFld (lo := 3 + ch) (w := 1) (v := 0) (not_aside_memKey d hn (Nat.le_refl MEM_STAT) (by decide))
  unfold State.retrainDone
  dsimp only
  split
  · refine serveWaits ?_
    split
    · exact cleared.memRaise hn
    · exact cleared.deviceFail hn
  · exact h

theorem channelFree (h : MemoryWork s t) {g : GLoc} (hn : g.n < 12) : MemoryWork s (t.channelFree g) := by
  unfold State.channelFree
  dsimp only
  split
  · exact (h.of_within (within_nextFate (List.Subset.refl _) (within_refl t)) (by decide)).retrainDone hn
  · exact h.serveWaits

theorem transfer (h : MemoryWork s t) {g : GLoc} {a m : Nat} (hn : g.n < 12) : MemoryWork s (t.transfer g a m).1 := by
  have key : ¬ aside (memKey g.d g.n MEM_EDC_CNT) := not_aside_memKey g.d hn (by decide) (by decide)
  have counted := (h.incSatUn (lo := 0) (w := 16) (n := min m 3) key).memRaiseLim (cls := 0x40) (a := a / 32 * 32) (syn := 0) hn
  unfold State.transfer
  dsimp only
  split
  · exact h
  · split
    · exact h
    · split
      · exact counted
      · exact (counted.setFld (not_aside_memKey g.d hn (Nat.le_refl MEM_STAT) (by decide))).incSatUn key

theorem admitNow (h : MemoryWork s t) {g : GLoc} {a : Nat} (hn : g.n < 12) : MemoryWork s (t.admitNow g a) := by
  have tried : MemoryWork s (((t.channelFree g).nextAgain.1).transfer g a (t.channelFree g).nextAgain.2).1 :=
    ((h.channelFree hn).of_within (within_nextAgain (List.Subset.refl _) (within_refl _)) (by decide)).transfer hn
  unfold State.admitNow
  dsimp only
  split
  · exact tried
  · exact tried.channelFree hn

theorem canvas (h : MemoryWork s t) : SameCanvas s t where
  part := h.part
  canvas := h.reg _ (aside_ecKey (by decide))
  dies := h.reg _ (aside_ecKey (by decide))
  skip d py hpy := h.reg _ (aside_dieKey d (by unfold FUSE_SKIP; omega))

end MemoryWork

/-! ### The image (R241) -/

variable {s t u : State}

/-- A read of GDDR7 that is not refused. -/
theorem gddrReadNow_works {req : Req} {a len : Nat} (h : (s.gddrReadNow req a len).2.2.2 ≠ 1) : MemoryWork s (s.gddrReadNow req a len).1 := by
  unfold State.gddrReadNow at h ⊢
  dsimp only at h ⊢
  split at h
  · exact absurd rfl h
  · next legal =>
    rw [if_neg legal]
    split at h
    · exact absurd rfl h
    · next g hg => exact ((MemoryWork.refl s).admitNow (locate_device hg)).gddrFetch (locate_device hg)

/-- What an access that was neither lost on its way nor on its way back has done. -/
theorem carried_answers {α : Type} {d : Nat} {req : Req} {ga len : Nat} {write : Bool} {lost : Nat → α} {act : State → State × α} {x : α}
    (h : s.carried d req ga len write lost act = (u, x)) (hx : ∀ k, k ≠ 0 → lost k ≠ x) :
    ∃ v, s.within [.regions, .fates] v ∧ (act v).1.within [.regions, .fates] u ∧ (act v).2 = x := by
  unfold State.carried at h
  split at h
  · next v out =>
    dsimp only at h
    split at h
    · next w back =>
      cases h
      exact ⟨v, carryOut_arrives out, carryBack_arrives back, rfl⟩
    · next w k hk back =>
      cases h
      exact absurd rfl (hx k fun e => hk e)
  · next v k hk out =>
    cases h
    exact absurd rfl (hx k fun e => hk e)

theorem imgPiece_works {d sp a n : Nat} (h : (s.imgPiece d sp a n).2.2 = 0) : MemoryWork s (s.imgPiece d sp a n).1 := by
  obtain ⟨v, out, back, answered⟩ := carried_answers (s := s) (x := (s.imgPiece d sp a n).2) rfl fun k hk e => hk ((congrArg Prod.snd e).trans h)
  have acted : MemoryWork v (if sp = 8 then v.hostFetch .firmware a n
      else let g := v.gddrReadNow .firmware a n; (g.1, g.2.1, g.2.2.2)).1 := by
    have status := (congrArg Prod.snd answered).trans h
    split
    · exact (MemoryWork.refl v).of_within (within_hostFetch (List.Subset.refl _) (within_refl v)) (by decide)
    · next gddr =>
      rw [if_neg gddr] at status
      exact gddrReadNow_works fun e => absurd (status.symm.trans e) (by decide)
  exact (((MemoryWork.refl s).of_within out (by decide)).trans acted).of_within back (by decide)

/-- A read of the image that gives its bytes: none of its requests failed. -/
theorem imgNexts_work {d sp a : Nat} {l : List (Nat × Nat)} : ∀ {q : State × Option (List Byte)}, (l.foldl (State.imgNext d sp a) q).2.isSome = true →
    q.2.isSome = true ∧ MemoryWork q.1 (l.foldl (State.imgNext d sp a) q).1 := by
  induction l with
  | nil => exact fun h => ⟨h, .refl _⟩
  | cons p l ih =>
    intro q h
    obtain ⟨some, work⟩ := ih h
    unfold State.imgNext at some
    dsimp only at some
    split at some
    · next answered => exact ⟨by simpa using some, (imgPiece_works answered).trans work⟩
    · cases some

theorem imgReadBy_works {d src off len : Nat} {bs : List Byte} (h : s.imgReadBy d src off len = (t, some bs)) : MemoryWork s t := by
  have work := (imgNexts_work (d := d) (sp := bits src 44 4) (a := bits src 0 44 + off) (q := (s, some []))
    (l := piecesBy (if bits src 44 4 == 8 then 4096 else 960) (bits src 0 44 + off) len) (by
      rw [show List.foldl _ _ _ = _ from h]
      rfl)).2
  rw [show List.foldl _ _ _ = _ from h] at work
  exact work

theorem readChunk_works {src i o n crc : Nat} {g : Seg} {bs : List Byte} (h : s.readChunk src g i o n = (t, some (bs, crc))) : MemoryWork s t := by
  unfold State.readChunk at h
  split at h
  · cases h
  · next u data first =>
    split at h
    · cases h
    · next w table second =>
      cases h
      exact (imgReadBy_works first).trans (imgReadBy_works second)

end Sys2Proof.ImageReads
end

section
/-! PROOFS. Chunks that land in one cell, and what a round, a repair and a refusal leave (R237-R240, R521). -/

namespace Sys2Proof.LoadRounds

open Sys2Proof Sys2Proof.Machine Sys2Proof.Machine.State Sys2Proof.Laws Sys2Proof.Clauses
open Sys2Proof.Bookkeeping (Booked SameCanvas quiet_ecKey)
open Sys2Proof.MeshRequests (Landed landed_meshWrite)
open Sys2Proof.ImageReads
open Sys2Proof.FabricFrames (carryOut_arrives carryBack_arrives carried_arrives)

variable {s t u v w : State} {l : LoadSt} {g : Seg} {bs : List Byte}

/-! ### One packet to one cell (R521) -/

theorem landOff_data (h : g.kind = 3) : landOff g 0 = g.dest := by simp [landOff, h]

/-- A packet of whole words that the scratchpad takes lands in it. -/
theorem landPiece_lands {c n : Nat} (h3 : g.kind = 3) (hlen : bs.length = n) (h8 : n % 8 = 0) (ho : g.dest % 8 = 0)
    (hc : v.spmCheckRun c g.dest n 4 true = none) : ∃ x, v.landPiece c g 0 bs [] = (x, true) ∧ Landed v x c g.dest bs := by
  subst hlen
  obtain ⟨x, hx, hl⟩ := landed_meshWrite none ho h8 hc
  refine ⟨x, ?_, hl⟩
  unfold State.landPiece
  rw [landOff_data h3, hc]
  exact congrArg (fun q : State × Bool => (q.1, true)) hx

theorem landed_panels {c off : Nat} (h : Landed v w c off bs) : w.panels = v.panels := StartPhases.within_same h.reach .panels (by decide)

/-- An access whose answer means no more than its loss. -/
theorem carried_acts_lost {α : Type} {d : Nat} {req : Req} {ga len : Nat} {write : Bool} {x : α} {act : State → State × α}
    (out : s.carryOut d req ga len write = (v, 0)) (acts : act v = (u, x)) :
    s.carried d req ga len write (fun _ => x) act = ((u.carryBack d req ga len write).1, x) := by
  unfold State.carried
  simp only [out, acts]
  split <;> (rename_i e; rw [e])

/-- A loader packet to one cell that lands there. -/
theorem sendPacket_lands {i n k o c : Nat} {lost stalled : List (Nat × Nat × Nat × Nat)} {cs : List Nat} (hu : g.u0 = g.u1) (hv : g.v0 = g.v1)
    (out : s.carryOut s.ctlDie .firmware (State.loadGa g.u0 g.v0 g o) bs.length true = (v, 0)) (hc : v.physicalOf g.u0 g.v0 = some c)
    (lands : v.landAll g i n k o bs lost [c] = (u, cs))
    (back : u.carryBack s.ctlDie .firmware (State.loadGa g.u0 g.v0 g o) bs.length true = (w, 0)) :
    s.sendPacket l g i n k o bs lost stalled = (w, cs) := by
  unfold State.sendPacket
  refine carried_arrives out ?_ back
  simp only [hc, if_pos (And.intro hu hv)]
  exact lands

/-- A loader packet to one cell that is lost to it. -/
theorem sendPacket_misses {i n k o c : Nat} {lost stalled : List (Nat × Nat × Nat × Nat)} (hu : g.u0 = g.u1) (hv : g.v0 = g.v1)
    (out : s.carryOut s.ctlDie .firmware (State.loadGa g.u0 g.v0 g o) bs.length true = (v, 0)) (hc : v.physicalOf g.u0 g.v0 = some c)
    (lands : v.landAll g i n k o bs lost [c] = (u, [])) :
    s.sendPacket l g i n k o bs lost stalled = ((u.carryBack s.ctlDie .firmware (State.loadGa g.u0 g.v0 g o) bs.length true).1, []) := by
  unfold State.sendPacket
  refine carried_acts_lost out ?_
  simp only [hc, if_pos (And.intro hu hv)]
  exact lands

theorem segCells_one (hu : g.u0 = g.u1) (hv : g.v0 = g.v1) {c : Nat} (hc : s.physicalOf g.u0 g.v0 = some c) : s.segCells g = [c] := by
  unfold State.segCells
  rw [← hu, ← hv, Nat.add_sub_cancel_left, Nat.add_sub_cancel_left]
  simp [hc]

/-- A chunk of one packet to one cell: bad there unless the packet landed and the CRC is the table's. -/
theorem sendChunk_one {i n c crc : Nat} {lost stalled : List (Nat × Nat × Nat × Nat)} {cs : List Nat} (hc : s.segCells g = [c])
    (hlen : bs.length = n) (hp : State.packetsOf g 0 n = [(0, 0, n)]) (sent : s.sendPacket l g i 0 0 0 bs lost stalled = (w, cs)) :
    s.sendChunk l g i 0 0 bs crc lost stalled = (w, if crc32c bs = crc ∧ c ∈ cs then [] else [c]) := by
  subst hlen
  have next : State.sendNext l g i 0 0 bs lost stalled (s, [c]) (0, 0, bs.length) = (w, [c].filter cs.contains) := by
    unfold State.sendNext
    simp only [Nat.add_zero, List.drop_zero, List.take_length, sent]
  unfold State.sendChunk
  rw [hp, hc, List.foldl_cons, List.foldl_nil, next]
  by_cases hm : c ∈ cs <;> by_cases he : crc32c bs = crc <;> simp [hm, he]

/-! ### Rounds (R237) -/

/-- The load units are disarmed where the round has ended in every cell, and nothing else changes. -/
theorem roundSettle_eq (h : s.load = some l) :
    s.roundSettle = { s with load := some { l with armed := if s.roundOver l then [] else l.armed } } := by
  have kept : s = { s with load := some l } := by
    rw [← h]
  unfold State.roundSettle
  rw [h]
  dsimp only
  by_cases ended : s.roundOver l = true
  · rw [if_pos ended]
    by_cases armed : l.armed = []
    · rw [if_neg fun e => e.1 armed]
      exact kept.trans (by rw [← armed])
    · rw [if_pos ⟨armed, ended⟩]
  · rw [if_neg ended, if_neg fun e => ended e.2]
    exact kept

/-- The broadcast of one chunk. -/
theorem broadcast_one {i n crc : Nat} {lost stalled : List (Nat × Nat × Nat × Nat)} {v0 : State} {bad : List Nat} (hg : l.segs[i]? = some g)
    (hch : chunksOf g.len = [(0, 0, n)]) (hread : s.readChunk l.src g 0 0 n = (v0, some (bs, crc)))
    (hsent : v0.sendChunk l g i 0 0 bs crc lost stalled = (w, bad)) :
    s.broadcast l lost stalled [i] = ⟨w, bad.map fun c => (c, i, 0), [(i, 0, crc)], true⟩ := by
  unfold State.broadcast
  simp only [List.flatMap_cons, List.flatMap_nil, hg, hch, List.append_nil, List.map_cons, List.map_nil, List.foldl_cons, List.foldl_nil, hread, hsent,
    List.nil_append, Bool.not_true, Bool.false_eq_true, if_false]

/-- A round of one chunk to one cell, up to what its broadcast has come to. -/
theorem loadRound_one {i c n crc : Nat} {lost : List (Nat × Nat × Nat × Nat)} {v0 : State} {bad : List Nat} (hl : s.load = some l)
    (prepared : l.prepared = true) (k5 : l.k5 = true) (ended : s.roundOver l = true) (hround : (State.roundsOf l)[l.round]? = some [i]) (h0 : 0 < l.round)
    (hg : l.segs[i]? = some g) (h3 : g.kind = 3) (hc : s.segCells g = [c]) (hch : chunksOf g.len = [(0, 0, n)])
    (hread : ({ s with load := some { l with armed := [c] } } : State).readChunk l.src g 0 0 n = (v0, some (bs, crc)))
    (hsent : v0.sendChunk { l with armed := [c] } g i 0 0 bs crc lost [] = (w, bad)) :
    s.loadRound lost [] = ({ w with load := some { l with armed := [c], round := l.round + 1, bad := bad.map fun e => (e, i, 0), bcastEnd := w.now,
                                                          tables := [(i, 0, crc)], asked := [] } } : State).roundSettle := by
  have armed (f : Nat → List Nat) (h : f i = [c]) : ([i].flatMap f).eraseDups = [c] := by
    rw [List.flatMap_cons, List.flatMap_nil, List.append_nil, h]
    rfl
  have sent := broadcast_one (l := { l with armed := [c] }) hg hch hread hsent
  unfold State.loadRound
  rw [hl]
  dsimp only
  rw [if_neg (by simp [prepared, k5, ended]), hround]
  dsimp only
  rw [if_neg (by omega : ¬ l.round = 0)]
  rw [armed, sent]
  · dsimp only
    rw [if_neg (by decide), List.foldl_cons, List.foldl_nil]
    simp only [hg, h3, if_true]
  · simp only [hg, hc]

/-- Whether a round has ended, where the cells of the job and what they load have not changed. -/
theorem roundOver_of_same {m : LoadSt} (h : SameCanvas s t) (hp : t.panels = s.panels)
    (hc : ∀ c, (t.cell c).head = (s.cell c).head ∧ (t.cell c).tail = (s.cell c).tail) (hj : m.job = l.job) (ended : s.roundOver l = true) :
    t.roundOver m = m.bad.isEmpty := by
  have idle := (Bool.and_eq_true_iff.1 ended).2
  unfold State.roundOver
  rw [hj, h.jobCells hp]
  simp only [fun c => (hc c).1, fun c => (hc c).2, idle, Bool.and_true]

/-- A round of one chunk to one cell: the load units stay armed where the chunk is bad. -/
theorem loadRound_done {i c n crc : Nat} {lost : List (Nat × Nat × Nat × Nat)} {v0 : State} {bad : List Nat} (hl : s.load = some l)
    (prepared : l.prepared = true) (k5 : l.k5 = true) (ended : s.roundOver l = true) (hround : (State.roundsOf l)[l.round]? = some [i]) (h0 : 0 < l.round)
    (hg : l.segs[i]? = some g) (h3 : g.kind = 3) (hc : s.segCells g = [c]) (hch : chunksOf g.len = [(0, 0, n)])
    (hread : ({ s with load := some { l with armed := [c] } } : State).readChunk l.src g 0 0 n = (v0, some (bs, crc)))
    (hsent : v0.sendChunk { l with armed := [c] } g i 0 0 bs crc lost [] = (w, bad)) (hnow : w.now = s.now)
    (hover : ∀ m : LoadSt, m.job = l.job → m.bad = bad.map (fun e => (e, i, 0)) → ({ w with load := some m } : State).roundOver m = bad.isEmpty) :
    s.loadRound lost [] = { w with load := some { l with armed := (if bad.isEmpty = true then [] else [c]), tables := [(i, 0, crc)], asked := [],
                                                         round := l.round + 1, bad := bad.map fun e => (e, i, 0), bcastEnd := s.now } } := by
  rw [loadRound_one hl prepared k5 ended hround h0 hg h3 hc hch hread hsent, roundSettle_eq rfl, hover, hnow] <;> rfl

/-! ### Repairs from the image source (R238) -/

/-- A packet of a chunk that the controller of the cell's die writes to it. -/
theorem unicastPiece_lands {c x y o : Nat} (hxy : s.logicalOf c = some (x, y))
    (out : s.carryOut (cellDie c) .firmware (State.loadGa x y g o) bs.length true = (v, 0)) (lands : v.landPiece c g o bs [] = (u, true))
    (back : u.carryBack (cellDie c) .firmware (State.loadGa x y g o) bs.length true = (w, 0)) : s.unicastPiece c g o bs = (w, some bs) := by
  unfold State.unicastPiece
  rw [hxy]
  refine carried_arrives out ?_ back
  rw [lands]
  rfl

/-- A copy of one packet that lands with the table's CRC. -/
theorem copyChunk_one {n : Nat} {piece : State → Nat → Nat → State × Option (List Byte)} (hp : State.packetsOf g 0 n = [(0, 0, n)])
    (sent : piece s 0 n = (w, some bs)) : s.copyChunk g 0 n (crc32c bs) [] piece = (w, true) := by
  unfold State.copyChunk
  simp only [hp, List.foldl_cons, List.foldl_nil, List.contains_nil, Bool.false_eq_true, if_false, Nat.add_zero, sent, List.nil_append, beq_self_eq_true]

/-- With no holder left, the repair is the image source's copy. -/
theorem repairChunk_image {i c n : Nat} {v0 : State} (hl : s.load = some l) (hg : l.segs[i]? = some g) (hbad : l.bad = [(c, i, 0)])
    (htab : l.tables = [(i, 0, crc32c bs)]) (htime : s.now ≤ l.bcastEnd + 250000000) (hn : n = min 2048 g.len)
    (hp : State.packetsOf g 0 n = [(0, 0, n)]) (hc : s.segCells g = [c]) (hread : s.imgReadBy (cellDie c) l.src g.off n = (v0, some bs))
    (hlen : bs.length = n) (sent : v0.unicastPiece c g 0 bs = (w, some bs)) : s.repairChunk c i 0 [] = w.chunkGood c i 0 g := by
  have kept : ({ s with load := some { l with asked := l.asked ++ [] } } : State) = s := by
    rw [List.append_nil, ← hl]
  have holders : s.holders l c i 0 g = [] := by
    unfold State.holders
    rw [hc]
    simp [sortBy]
  have known : l.bad.contains (c, i, 0) = true := by
    rw [hbad]
    simp
  have table : (l.tables.find? fun e => e.1 == i && e.2.1 == 0) = some (i, 0, crc32c bs) := by
    rw [htab]
    simp
  unfold State.repairChunk
  rw [hl]
  dsimp only
  rw [hg, known, table]
  simp only [if_neg (Nat.not_lt.2 htime), holders, State.askHolders, List.map_nil, Nat.mul_zero, Nat.sub_zero, Nat.add_zero, ← hn, kept, hread,
    Bool.false_eq_true, if_false, List.drop_nil, List.headD_nil, List.length_nil]
  rw [copyChunk_one hp (by simpa only [Nat.sub_zero, List.drop_zero, ← hlen, List.take_length] using sent)]

/-- More than 250 ms after the broadcast, a repair refuses the load (R239). -/
theorem repairChunk_late {i c crc : Nat} {copies : List (List Nat)} (hl : s.load = some l) (hg : l.segs[i]? = some g)
    (known : l.bad.contains (c, i, 0) = true) (htab : l.tables = [(i, 0, crc)]) (late : l.bcastEnd + 250000000 < s.now) :
    s.repairChunk c i 0 copies = s.loadRefuse 18 ((l.bad.filterMap fun b => (s.panelOf b.1).map (·.id)).foldl min 0xFFFF) 0xFFFF := by
  have table : (l.tables.find? fun e => e.1 == i && e.2.1 == 0) = some (i, 0, crc) := by
    rw [htab]
    simp
  have some_bad : l.bad ≠ [] := fun e => by
    rw [e] at known
    exact Bool.false_ne_true known
  unfold State.repairChunk
  rw [hl]
  dsimp only
  rw [hg, known, table]
  refine (if_pos late).trans ?_
  unfold State.roundTimeout
  rw [hl]
  exact if_pos ⟨some_bad, late⟩

/-- A good chunk of data is counted and is bad no more. -/
theorem chunkGood_eq {c i n : Nat} (hl : s.load = some l) (h3 : g.kind = 3) : ∃ armed, s.chunkGood c i n g =
    { (s.setCell c { s.cell c with patched := (s.cell c).patched + 1 }).incSat (ecKey BOOT_LOAD_INFO) 16 16 1 with
      load := some { l with bad := l.bad.filter (fun b => b != (c, i, n)), armed := armed } } := by
  unfold State.chunkGood
  rw [hl]
  dsimp only
  rw [if_neg fun e => e.1 h3, roundSettle_eq rfl]
  exact ⟨_, rfl⟩

/-! ### Refusals (R240) -/

theorem fld_loadEvent (s : State) (lo w : Nat) : s.loadEvent.fld (ecKey BOOT_LOAD_STAT) lo w = s.fld (ecKey BOOT_LOAD_STAT) lo w :=
  InputPower.fld_of_reg ((Booked.refl s).loadEvent.reg _ (quiet_ecKey (by decide) (by decide) (by decide) (by decide))) lo w

/-- What a refusal leaves in the registers. -/
def shownRefusal (s : State) (reason info : Nat) : State :=
  ((s.setPhase 6).setFld (ecKey BOOT_LOAD_STAT) 3 5 reason).setFld (ecKey BOOT_LOAD_INFO) 0 16 info

theorem shownRefusal_phase (s : State) (reason info : Nat) : (shownRefusal s reason info).fld (ecKey BOOT_LOAD_STAT) 0 3 = 6 := by
  refine (fld_setFld_other _ _ _ _ _ _ (by decide)).trans ((fld_setFld_apart _ _ (by decide) (.inl (by decide))).trans ?_)
  exact fld_setFld_same _ _ (by decide)

theorem shownRefusal_reason (s : State) {reason : Nat} (info : Nat) (hr : reason < 2 ^ 5) :
    (shownRefusal s reason info).fld (ecKey BOOT_LOAD_STAT) 3 5 = reason :=
  (fld_setFld_other _ _ _ _ _ _ (by decide)).trans ((fld_setFld_same _ _ (by decide)).trans (Nat.mod_eq_of_lt hr))

/-- A refusal of a load that has entered its job, as its parts. -/
theorem loadRefuse_entered {reason panel seg : Nat} (hl : s.load = some l) (entered : l.entered = true) : ∃ a info,
    s.loadRefuse reason panel seg = (shownRefusal (({ State.removeJob a l.job with load := none } : State).loadRec reason panel seg) reason info).loadEvent := by
  unfold State.loadRefuse
  rw [hl]
  dsimp only
  rw [if_pos entered]
  exact ⟨_, _, rfl⟩

/-- A load that has entered its job is refused: the job is gone. -/
theorem loadRefuse_refuses {reason panel seg : Nat} (hl : s.load = some l) (entered : l.entered = true) (hr : reason < 2 ^ 5) :
    (s.loadRefuse reason panel seg).load = none ∧ (s.loadRefuse reason panel seg).job? l.job = none ∧ (s.loadRefuse reason panel seg).loadPhase = 6 ∧
    (s.loadRefuse reason panel seg).fld (ecKey BOOT_LOAD_STAT) 3 5 = reason := by
  obtain ⟨a, info, he⟩ := loadRefuse_entered (reason := reason) (panel := panel) (seg := seg) hl entered
  rw [he]
  have hrec := within_raise (cls := 0x8B) (loc := .engine 0) (detail := reason + panel * 2 ^ 8 + seg * 2 ^ 24) (struck := none) (List.Subset.refl _)
    (within_refl ({ State.removeJob a l.job with load := none } : State))
  generalize hb : ({ State.removeJob a l.job with load := none } : State).loadRec reason panel seg = b at *
  have hload : b.load = none := by
    rw [← hb]
    exact StartPhases.within_same hrec .load (by decide)
  have hjobs : b.jobs.find? (fun j => j.id == l.job) = none := by
    rw [← hb]
    exact (congrArg (List.find? fun e : Job => e.id == l.job) (StartPhases.within_same hrec .jobs (by decide))).trans (JobCommands.job_removed _ _)
  have hw := within_loadEvent (List.Subset.refl _) (within_refl (shownRefusal b reason info))
  refine ⟨(StartPhases.within_same hw .load (by decide)).trans hload, ?_, (fld_loadEvent _ 0 3).trans (shownRefusal_phase b reason info),
    (fld_loadEvent _ 3 5).trans (shownRefusal_reason b info hr)⟩
  exact (congrArg (List.find? fun e : Job => e.id == l.job) (StartPhases.within_same hw .jobs (by decide))).trans hjobs

/-! ### KIND 5 segments (R239) -/

/-- The chunk reads right the first time. -/
theorem readGood_first {src i o n more : Nat} (h : s.readChunk src g i o n = (t, some (bs, crc32c bs))) :
    s.readGood src g i o n (more + 1) 0 = (t, some bs) := by
  unfold State.readGood
  rw [h]
  exact if_pos ⟨rfl, rfl⟩

/-- Three reads that fail their CRC on the way. -/
theorem readGood_spoilt {src i o n : Nat} (h : s.readChunk src g i o n = (s, some (bs, crc32c bs))) : s.readGood src g i o n 3 3 = (s, none) := by
  have again (more spoilt : Nat) : s.readGood src g i o n (more + 1) (spoilt + 1) = s.readGood src g i o n more spoilt := by
    rw [State.readGood, h]
    exact if_neg fun e => absurd e.2 (Nat.succ_ne_zero _)
  rw [again, again, again]
  rfl

/-- A run within one piece. -/
theorem piecesBy_one {m a n : Nat} (h : a % m + n ≤ m) (hn : 0 < n) : piecesBy m a n = [(0, n)] := by
  have hmin : min n (m - a % m) = n := by omega
  have none : (n - n + m - 1) / m = 0 := by
    rw [Nat.sub_self, Nat.zero_add]
    exact Nat.div_eq_of_lt (by omega)
  unfold piecesBy
  simp only [hmin, none, List.range_zero, List.map_nil]

/-- The KIND 5 segments of a load with one chunk in them: three bad reads. -/
theorem loadKind5_bad {n : Nat} (hl : s.load = some l) (prepared : l.prepared = true) (k5 : l.k5 = false)
    (hseg : (l.segs.filter fun g => g.kind == 5) = [g]) (hch : chunksOf g.len = [(0, 0, n)])
    (hread : s.readChunk l.src g 0 0 n = (s, some (bs, crc32c bs))) : s.loadKind5 3 = s.loadRefuse 17 0xFFFF 0xFFFF := by
  unfold State.loadKind5
  rw [hl]
  dsimp only
  rw [if_neg (by simp [prepared, k5]), hseg]
  simp only [List.flatMap_cons, List.flatMap_nil, hch, List.append_nil, List.map_cons, List.map_nil, List.foldl_cons, List.foldl_nil,
    readGood_spoilt hread, ne_eq, not_true_eq_false, if_false]
  rfl

/-- The KIND 5 segments of a load with one chunk of one piece in them: it is written. -/
theorem loadKind5_good {n st : Nat} {v0 : State} (hl : s.load = some l) (prepared : l.prepared = true) (k5 : l.k5 = false)
    (hseg : (l.segs.filter fun g => g.kind == 5) = [g]) (hch : chunksOf g.len = [(0, 0, n)])
    (hread : s.readChunk l.src g 0 0 n = (v0, some (bs, crc32c bs))) (hlen : bs.length = n) (hone : (l.gbase + g.dest) % 960 + n ≤ 960) (hn : 0 < n)
    (out : v0.carryOut v0.ctlDie .firmware (l.gbase + g.dest) n true = (v, 0)) (hst : ¬ (st = 1 ∨ st = 3))
    (act : v.gddrWriteNow .firmware (l.gbase + g.dest) bs [] = (u, st))
    (back : u.carryBack v0.ctlDie .firmware (l.gbase + g.dest) n true = (w, 0)) :
    s.loadKind5 0 = { w with load := some { l with k5 := true } } := by
  have written : v0.carried v0.ctlDie .firmware (l.gbase + g.dest) n true id (fun u => u.gddrWriteNow .firmware (l.gbase + g.dest) bs []) = (w, st) :=
    carried_arrives out act back
  subst hlen
  unfold State.loadKind5
  rw [hl]
  dsimp only
  rw [if_neg (by simp [prepared, k5]), hseg]
  simp only [List.flatMap_cons, List.flatMap_nil, hch, List.append_nil, List.map_cons, List.map_nil, List.foldl_cons, List.foldl_nil,
    readGood_first hread, ne_eq, not_true_eq_false, if_false, Nat.add_zero, piecesBy_one hone hn, List.drop_zero, List.take_length, written, if_neg hst]

/-! ### The end of a load (R239, R255) -/

/-- Cells keep all but the count of chunks they repaired. -/
theorem logPatches_cell (id c : Nat) : (s.logPatches id).cell c = { s.cell c with patched := ((s.logPatches id).cell c).patched } := by
  refine List.foldlRecOn (motive := fun u : State => u.cell c = { s.cell c with patched := (u.cell c).patched }) _ _ rfl fun u hu e _ => ?_
  dsimp only
  split
  · exact hu
  · by_cases hc : c = e
    · subst hc
      rw [cell_setCell_same, hu]
    · rw [cell_setCell, if_neg hc, raise_cell]
      exact hu

/-- A load whose rounds are over, without KIND 4 entries, ends. -/
theorem loadInit_eq (hl : s.load = some l) (prepared : l.prepared = true) (k5 : l.k5 = true) (ended : s.roundOver l = true)
    (hround : (State.roundsOf l)[l.round]? = none) (h0 : 0 < l.round) (k4 : l.k4 = []) :
    s.loadInit = ((({ (s.logPatches l.job).setPhase 4 with load := none } : State).setJobState l.job 2).setPhase 5).loadEvent := by
  have held : ((s.logPatches l.job).setPhase 4).load = some l :=
    (StartPhases.within_same (within_logPatches (id := l.job) (List.Subset.refl _) (within_refl s)) .load (by decide)).trans hl
  have waits : ¬ ((s.logPatches l.job).setPhase 4).load.isNone = true := by
    rw [held]
    exact Bool.false_ne_true
  unfold State.loadInit
  rw [hl]
  dsimp only
  rw [if_neg (by simp [prepared, k5, ended, hround]), if_neg (by omega : ¬ l.round = 0), k4]
  dsimp only [List.foldl_nil]
  exact if_neg waits

/-- What the end of a load leaves. -/
theorem loadInit_ends {j : Job} (hl : s.load = some l) (prepared : l.prepared = true) (k5 : l.k5 = true) (ended : s.roundOver l = true)
    (hround : (State.roundsOf l)[l.round]? = none) (h0 : 0 < l.round) (k4 : l.k4 = []) (hj : s.job? l.job = some j) :
    s.loadInit.load = none ∧ s.loadInit.job? l.job = some { j with state := 2 } ∧ s.loadInit.loadPhase = 5 ∧ s.loadInit.panels = s.panels ∧
    ∀ c, (s.loadInit.cell c).head = (s.cell c).head ∧ (s.loadInit.cell c).tail = (s.cell c).tail ∧ s.loadInit.mxe c = s.mxe c := by
  rw [loadInit_eq hl prepared k5 ended hround h0 k4]
  have patches := within_logPatches (id := l.job) (List.Subset.refl _) (within_refl s)
  generalize ha : ({ (s.logPatches l.job).setPhase 4 with load := none } : State) = a
  have hjob : a.job? l.job = some j := by
    rw [← ha]
    exact (congrArg (List.find? fun e : Job => e.id == l.job) (StartPhases.within_same patches .jobs (by decide))).trans hj
  have hset := within_setJobState (id := l.job) (st := 2) (List.Subset.refl _) (within_refl a)
  have hend := within_loadEvent (List.Subset.refl _) (within_refl ((a.setJobState l.job 2).setPhase 5))
  have cells : (((a.setJobState l.job 2).setPhase 5).loadEvent).cells = (s.logPatches l.job).cells :=
    (StartPhases.within_same hend .cells (by decide)).trans ((StartPhases.within_same hset .cells (by decide)).trans (by rw [← ha]; rfl))
  refine ⟨?_, ?_, ?_, ?_, fun c => ?_⟩
  · exact (StartPhases.within_same hend .load (by decide)).trans ((StartPhases.within_same hset .load (by decide)).trans (by rw [← ha]))
  · exact (congrArg (List.find? fun e : Job => e.id == l.job) (StartPhases.within_same hend .jobs (by decide))).trans (JobStates.setJobState_same _ hjob 2)
  · exact (fld_loadEvent _ 0 3).trans (fld_setFld_same _ _ (by decide))
  · refine (StartPhases.within_same hend .panels (by decide)).trans ((StartPhases.within_same hset .panels (by decide)).trans ?_)
    rw [← ha]
    exact StartPhases.within_same patches .panels (by decide)
  · have same := (DescriptorQueue.cell_of_cells cells c).trans (logPatches_cell l.job c)
    exact ⟨(congrArg Cell.head same).trans rfl, (congrArg Cell.tail same).trans rfl, (congrArg Cell.mxe same).trans rfl⟩

end Sys2Proof.LoadRounds
end

section
/-! PROOFS. Rounds deliver chunks, repair them and end in initialisation (R237-R240, R255). -/

namespace Sys2Proof.LoadRounds

open Sys2Proof Sys2Proof.Machine Sys2Proof.Machine.State Sys2Proof.Laws Sys2Proof.Clauses
open Sys2Proof.Bookkeeping (SameCanvas)
open Sys2Proof.MeshRequests (Landed)
open Sys2Proof.ImageReads (readChunk_works)
open Sys2Proof.FabricFrames (carryOut_arrives carryBack_arrives)
open Sys2Proof.DescriptorQueue (cell_of_cells)
open Sys2Proof.RegionCommands (now_of_within)

variable {s : State}

/-- A run of words that the scratchpad took, once its answer is back. -/
theorem landed_back {v x w : State} {c off : Nat} {bs : List Byte} (h : Landed v x c off bs) (back : x.within [.regions, .fates] w) :
    (∀ j, j < bs.length → some (w.byte (spmKey c (off + j))) = bs[j]?) ∧
    (∀ k, (∀ j, j < bs.length → k ≠ spmKey c (off + j) ∧ k ≠ spmChkKey c (off + j)) → w.byte k = v.byte k) ∧
    w.cell c = { v.cell c with scrub := (w.cell c).scrub } ∧ v.cellsBut w c := by
  have byte (k : Nat) : w.byte k = x.byte k := congrArg (fun m => SMap.get m k 0) (StartPhases.within_same back .mem (by decide))
  have cell (e : Nat) : w.cell e = x.cell e := cell_of_cells (StartPhases.within_same back .cells (by decide)) e
  refine ⟨fun j hj => (congrArg some (byte _)).trans (h.byte j hj), fun k hk => (byte k).trans (h.other k hk), ?_, fun e he => (cell e).trans (h.cells e he)⟩
  rw [cell]
  exact h.cell

/-- A chunk of one packet is read and goes out to one cell, whose answer comes back. -/
theorem chunk_delivered {v0 v w : State} {l : LoadSt} {g : Seg} {i c n crc src : Nat} {bs : List Byte} (h3 : g.kind = 3) (hu : g.u0 = g.u1)
    (hv : g.v0 = g.v1) (hp : State.packetsOf g 0 n = [(0, 0, n)]) (hread : s.readChunk src g 0 0 n = (v0, some (bs, crc))) (hlen : bs.length = n)
    (h8 : n % 8 = 0) (ho : g.dest % 8 = 0) (out : v0.carryOut v0.ctlDie .firmware (State.loadGa g.u0 g.v0 g 0) n true = (v, 0))
    (hnw : v.physicalOf g.u0 g.v0 = some c) (hfree : v.spmCheckRun c g.dest n 4 true = none)
    (back : (v.landPiece c g 0 bs []).1.carryBack v0.ctlDie .firmware (State.loadGa g.u0 g.v0 g 0) n true = (w, 0)) :
    ∃ x, Landed v x c g.dest bs ∧ x.within [.regions, .fates] w ∧ v.cells = s.cells ∧ w.panels = s.panels ∧ w.now = s.now ∧ SameCanvas s w ∧
      v0.sendChunk l g i 0 0 bs crc [] [] = (w, if crc32c bs = crc ∧ c ∈ [c] then [] else [c]) := by
  subst hlen
  obtain ⟨x, hx, landed⟩ := landPiece_lands h3 rfl h8 ho hfree
  have lands : v.landAll g i 0 0 0 bs [] [c] = (x, [c]) := by
    unfold State.landAll
    simp [hx]
  rw [hx] at back
  have returned := carryBack_arrives back
  have sent := carryOut_arrives out
  have read := within_readChunk (src := src) (g := g) (i := 0) (o := 0) (n := bs.length) (List.Subset.refl _) (within_refl s)
  rw [hread] at read
  have outward : SameCanvas v0 v := .of_eq sent.1 (StartPhases.within_same sent .regs (by decide))
  have canvas : SameCanvas s w := (((readChunk_works hread).canvas.trans outward).trans
    (.of_eq landed.reach.1 (StartPhases.within_same landed.reach .regs (by decide)))).trans (.of_eq returned.1 (StartPhases.within_same returned .regs (by decide)))
  refine ⟨x, landed, returned, ?_, ?_, ?_, canvas, sendChunk_one (segCells_one hu hv ((outward.physicalOf ..).symm.trans hnw)) rfl hp
    (sendPacket_lands hu hv out hnw lands back)⟩
  · exact (StartPhases.within_same sent .cells (by decide)).trans (StartPhases.within_same read .cells (by decide))
  · exact (StartPhases.within_same returned .panels (by decide)).trans ((landed_panels landed).trans
      ((StartPhases.within_same sent .panels (by decide)).trans (StartPhases.within_same read .panels (by decide))))
  · exact (now_of_within returned).trans ((now_of_within landed.reach).trans ((now_of_within sent).trans (now_of_within read)))

/-- A round of one chunk of one packet to one cell (R237, R521). -/
theorem loadRound_delivers {v0 v w : State} {l : LoadSt} {g : Seg} {i c n crc : Nat} {bs : List Byte} (hl : s.load = some l)
    (prepared : l.prepared = true) (k5 : l.k5 = true) (ended : s.roundOver l = true) (hround : (State.roundsOf l)[l.round]? = some [i]) (h0 : 0 < l.round)
    (hg : l.segs[i]? = some g) (h3 : g.kind = 3) (hu : g.u0 = g.u1) (hv : g.v0 = g.v1) (hc : s.segCells g = [c]) (hch : chunksOf g.len = [(0, 0, n)])
    (hp : State.packetsOf g 0 n = [(0, 0, n)])
    (hread : ({ s with load := some { l with armed := [c] } } : State).readChunk l.src g 0 0 n = (v0, some (bs, crc))) (hlen : bs.length = n)
    (h8 : n % 8 = 0) (ho : g.dest % 8 = 0) (out : v0.carryOut v0.ctlDie .firmware (State.loadGa g.u0 g.v0 g 0) n true = (v, 0))
    (hnw : v.physicalOf g.u0 g.v0 = some c) (hfree : v.spmCheckRun c g.dest n 4 true = none)
    (back : (v.landPiece c g 0 bs []).1.carryBack v0.ctlDie .firmware (State.loadGa g.u0 g.v0 g 0) n true = (w, 0)) :
    ∃ x, Landed v x c g.dest bs ∧ x.within [.regions, .fates] w ∧ v.cells = s.cells ∧ s.loadRound [] [] =
      { w with load := some { l with armed := (if crc32c bs = crc then [] else [c]), tables := [(i, 0, crc)], asked := [], round := l.round + 1,
                                     bad := (if crc32c bs = crc then [] else [(c, i, 0)]), bcastEnd := s.now } } := by
  obtain ⟨x, landed, returned, cells, panels, now, canvas, chunk⟩ :=
    chunk_delivered (l := { l with armed := [c] }) (i := i) h3 hu hv hp hread hlen h8 ho out hnw hfree back
  obtain ⟨-, -, struck, others⟩ := landed_back landed returned
  have cores (e : Nat) : (w.cell e).head = (s.cell e).head ∧ (w.cell e).tail = (s.cell e).tail := by
    have same : v.cell e = s.cell e := cell_of_cells cells e
    by_cases he : e = c
    · subst he
      rw [struck, same]
      exact ⟨rfl, rfl⟩
    · rw [others e he, same]
      exact ⟨rfl, rfl⟩
  have whole : SameCanvas s w := (SameCanvas.of_eq (s := s) (t := { s with load := some { l with armed := [c] } }) rfl rfl).trans canvas
  refine ⟨x, landed, returned, cells, ?_⟩
  rw [loadRound_done hl prepared k5 ended hround h0 hg h3 hc hch hread chunk now fun m hm hb => ?_]
  · by_cases he : crc32c bs = crc <;> simp [he]
  · rw [roundOver_of_same (t := { w with load := some m }) (whole.trans (.of_eq rfl rfl)) panels cores hm ended, hb]
    cases (if crc32c bs = crc ∧ c ∈ [c] then [] else [c] : List Nat) <;> rfl

/-- The same round, its packet lost to the cell. -/
theorem loadRound_misses {v0 v : State} {l : LoadSt} {g : Seg} {i c n crc : Nat} {bs : List Byte} (hl : s.load = some l)
    (prepared : l.prepared = true) (k5 : l.k5 = true) (ended : s.roundOver l = true) (hround : (State.roundsOf l)[l.round]? = some [i]) (h0 : 0 < l.round)
    (hg : l.segs[i]? = some g) (h3 : g.kind = 3) (hu : g.u0 = g.u1) (hv : g.v0 = g.v1) (hc : s.segCells g = [c]) (hch : chunksOf g.len = [(0, 0, n)])
    (hp : State.packetsOf g 0 n = [(0, 0, n)])
    (hread : ({ s with load := some { l with armed := [c] } } : State).readChunk l.src g 0 0 n = (v0, some (bs, crc))) (hlen : bs.length = n)
    (out : v0.carryOut v0.ctlDie .firmware (State.loadGa g.u0 g.v0 g 0) n true = (v, 0)) (hnw : v.physicalOf g.u0 g.v0 = some c) :
    ∃ w : State, w.mem = v.mem ∧ w.cells = s.cells ∧ s.loadRound [(c, i, 0, 0)] [] =
      { w with load := some { l with armed := [c], tables := [(i, 0, crc)], asked := [], round := l.round + 1, bad := [(c, i, 0)], bcastEnd := s.now } } := by
  subst hlen
  have lands : v.landAll g i 0 0 0 bs [(c, i, 0, 0)] [c] = (v, []) := by
    unfold State.landAll
    simp
  have sent := carryOut_arrives out
  have outward : SameCanvas v0 v := .of_eq sent.1 (StartPhases.within_same sent .regs (by decide))
  have read := within_readChunk (src := l.src) (g := g) (i := 0) (o := 0) (n := bs.length) (List.Subset.refl _)
    (within_refl ({ s with load := some { l with armed := [c] } } : State))
  rw [hread] at read
  have returned := within_carryBack (d := v0.ctlDie) (req := .firmware) (ga := State.loadGa g.u0 g.v0 g 0) (len := bs.length) (write := true)
    (List.Subset.refl _) (within_refl v)
  have chunk := sendChunk_one (l := { l with armed := [c] }) (crc := crc) (stalled := []) (segCells_one hu hv ((outward.physicalOf ..).symm.trans hnw))
    rfl hp (sendPacket_misses hu hv out hnw lands)
  have now := (now_of_within returned).trans ((now_of_within sent).trans (now_of_within read))
  refine ⟨(v.carryBack v0.ctlDie .firmware (State.loadGa g.u0 g.v0 g 0) bs.length true).1, StartPhases.within_same returned .mem (by decide),
    (StartPhases.within_same returned .cells (by decide)).trans ((StartPhases.within_same sent .cells (by decide)).trans
      (StartPhases.within_same read .cells (by decide))), ?_⟩
  rw [if_neg fun e => absurd e.2 List.not_mem_nil] at chunk
  exact loadRound_done hl prepared k5 ended hround h0 hg h3 hc hch hread chunk now fun m _ hb => by
    unfold State.roundOver
    rw [hb]
    rfl

/-- A cell has repaired a chunk. -/
def mended (w : State) (c : Nat) : State :=
  (w.setCell c { w.cell c with patched := (w.cell c).patched + 1 }).incSat (ecKey BOOT_LOAD_INFO) 16 16 1

theorem mended_counts (w : State) (c : Nat) : ((mended w c).cell c).patched = (w.cell c).patched + 1 ∧
    (mended w c).fld (ecKey BOOT_LOAD_INFO) 16 16 = min (w.fld (ecKey BOOT_LOAD_INFO) 16 16 + 1) 0xFFFF ∧
    w.regsBut (mended w c) [ecKey BOOT_LOAD_INFO] ∧ w.cellsBut (mended w c) c ∧ (mended w c).mem = w.mem := by
  unfold mended
  refine ⟨?_, ?_, fun k hk => ?_, fun e he => ?_, rfl⟩
  · exact congrArg Cell.patched (cell_setCell_same _ c _)
  · exact fld_incSat_same _ 1 (by decide)
  · exact reg_incSat_other _ _ _ _ fun e => hk (List.mem_singleton.2 e)
  · exact (cell_setCell _ c e _).trans (if_neg he)

/-- The image source's copy of a chunk of one packet lands in its cell (R238). -/
theorem repairChunk_lands {v0 v w : State} {l : LoadSt} {g : Seg} {i c n x y : Nat} {bs : List Byte} (hl : s.load = some l) (hg : l.segs[i]? = some g)
    (h3 : g.kind = 3) (hbad : l.bad = [(c, i, 0)]) (htab : l.tables = [(i, 0, crc32c bs)]) (htime : s.now ≤ l.bcastEnd + 250000000)
    (hn : n = min 2048 g.len) (hp : State.packetsOf g 0 n = [(0, 0, n)]) (hc : s.segCells g = [c])
    (hread : s.imgReadBy (cellDie c) l.src g.off n = (v0, some bs)) (hlen : bs.length = n) (h8 : n % 8 = 0) (ho : g.dest % 8 = 0)
    (hxy : v0.logicalOf c = some (x, y)) (out : v0.carryOut (cellDie c) .firmware (State.loadGa x y g 0) n true = (v, 0))
    (hfree : v.spmCheckRun c g.dest n 4 true = none)
    (back : (v.landPiece c g 0 bs []).1.carryBack (cellDie c) .firmware (State.loadGa x y g 0) n true = (w, 0)) :
    ∃ u armed, Landed v u c g.dest bs ∧ u.within [.regions, .fates] w ∧ v.cells = s.cells ∧ s.repairChunk c i 0 [] =
      { mended w c with load := some { l with bad := [], armed := armed } } := by
  obtain ⟨u, hu, landed⟩ := landPiece_lands h3 hlen h8 ho hfree
  rw [hu] at back
  have returned := carryBack_arrives back
  have sent := carryOut_arrives out
  have read := within_imgReadBy (d := cellDie c) (src := l.src) (off := g.off) (len := n) (List.Subset.refl _) (within_refl s)
  rw [hread] at read
  have copied : v0.unicastPiece c g 0 bs = (w, some bs) := unicastPiece_lands hxy (hlen ▸ out) hu (hlen ▸ back)
  have held : w.load = some l := (StartPhases.within_same returned .load (by decide)).trans ((StartPhases.within_same landed.reach .load (by decide)).trans
    ((StartPhases.within_same sent .load (by decide)).trans ((StartPhases.within_same read .load (by decide)).trans hl)))
  obtain ⟨armed, good⟩ := chunkGood_eq (c := c) (i := i) (n := 0) held h3
  have none : l.bad.filter (fun b => b != (c, i, 0)) = [] := by
    rw [hbad]
    simp
  refine ⟨u, armed, landed, returned, (StartPhases.within_same sent .cells (by decide)).trans (StartPhases.within_same read .cells (by decide)), ?_⟩
  rw [repairChunk_image hl hg hbad htab htime hn hp hc hread hlen copied, good, none]
  rfl

/-- A command whose reads have their fates given, as what it does. -/
theorem next_withFates {f : List Fate} {act : State → State} {t : State} (h : act { s with fates := f } = t) :
    (Host.Outcome.next (s.withFates f act) : Res) = .next { t with fates := [] } := congrArg (fun t : State => Host.Outcome.next { t with fates := [] }) h

/-- Settles O32: the chunk's one packet is followed out, into its cell and back; a refusal takes the job away, the end leaves it LOADED. -/
theorem loadsDeliverAndFinish : Obligations.LoadsDeliverAndFinish := by
  unfold Obligations.LoadsDeliverAndFinish
  refine ⟨?_, ?_, ?_, ?_, ?_, ?_⟩
  · intro s s0 v0 v w l g i c n crc bs hl prepared k5 ended hround h0 hg h3 hu hv hc hch hp hs0 hread hlen h8 ho out hnw hfree back
    subst hs0
    constructor
    · obtain ⟨x, landed, returned, cells, hexec⟩ := loadRound_delivers (s := { s with fates := [] }) hl prepared k5 ended hround h0 hg h3 hu hv hc hch hp
        hread hlen h8 ho out hnw hfree back
      obtain ⟨bytes, others, struck, rest⟩ := landed_back landed returned
      subst hlen
      have same (e : Nat) : v.cell e = s.cell e := cell_of_cells cells e
      refine ⟨_, next_withFates hexec, rfl, bytes, others, ?_, fun e he => ?_, rfl⟩
      · exact struck.trans (congrArg (fun x : Cell => ({ x with scrub := (w.cell c).scrub } : Cell)) (same c))
      · exact (rest e he).trans (same e)
    · obtain ⟨t, mem, cells, hexec⟩ := loadRound_misses (s := { s with fates := [] }) hl prepared k5 ended hround h0 hg h3 hu hv hc hch hp hread hlen out hnw
      exact ⟨_, next_withFates hexec, rfl, mem, cells⟩
  · intro s v0 v w l g i c n x y bs hl hg h3 hbad htab htime hn hp hc hread hlen h8 ho hxy out hfree back
    obtain ⟨u, armed, landed, returned, cells, hexec⟩ := repairChunk_lands (s := { s with fates := [] }) hl hg h3 hbad htab htime hn hp hc hread hlen h8 ho
      hxy out hfree back
    obtain ⟨bytes, -, struck, rest⟩ := landed_back landed returned
    subst hlen
    have same (e : Nat) : v.cell e = s.cell e := cell_of_cells cells e
    obtain ⟨count, info, regs, cells', mem⟩ := mended_counts w c
    have unpatched : (w.cell c).patched = (v.cell c).patched := by rw [struck]
    have kept : (w.cell c).patched = (s.cell c).patched := unpatched.trans (congrArg Cell.patched (same c))
    generalize mended w c = m at hexec count info regs cells' mem
    refine ⟨_, _, next_withFates hexec, rfl, rfl, rfl, fun j hj => (congrArg some ?_).trans (bytes j hj), ?_, info, regs, fun e he => ?_⟩
    · exact congrArg (fun m => SMap.get m _ 0) mem
    · exact count.trans (congrArg (· + 1) kept)
    · exact (cells' e he).trans ((rest e he).trans (same e))
  · intro s l g i c crc copies f hl entered hg hmem htab htime
    obtain ⟨load, job, phase, reason⟩ := loadRefuse_refuses (s := { s with fates := f }) (reason := 18)
      (panel := (l.bad.filterMap fun b => (s.panelOf b.1).map (·.id)).foldl min 0xFFFF) (seg := 0xFFFF) hl entered (by decide)
    exact ⟨_, next_withFates (repairChunk_late hl hg (List.contains_iff_mem.2 hmem) htab htime), load, job, phase, reason⟩
  · intro s v0 v u w l g n st bs hl prepared k5 hseg hch hread hlen hone hn out act hst1 hst3 back
    have hexec := loadKind5_good (s := { s with fates := [] }) hl prepared k5 hseg hch hread hlen hone hn out (not_or.2 ⟨hst1, hst3⟩) act back
    refine ⟨_, next_withFates hexec, rfl, rfl, rfl, ?_⟩
    have read := within_readChunk (src := l.src) (g := g) (i := 0) (o := 0) (n := n) (List.Subset.refl _) (within_refl ({ s with fates := [] } : State))
    rw [hread] at read
    have wrote := within_gddrWriteNow (req := .firmware) (a := l.gbase + g.dest) (data := bs) (pois := []) (List.Subset.refl _) (within_refl v)
    rw [act] at wrote
    exact (StartPhases.within_same (carryBack_arrives back) .cells (by decide)).trans ((StartPhases.within_same wrote .cells (by decide)).trans
      ((StartPhases.within_same (carryOut_arrives out) .cells (by decide)).trans (StartPhases.within_same read .cells (by decide))))
  · intro s l g n bs hl prepared k5 entered hseg hch hf hread
    have whole : ({ s with fates := [] } : State) = s := by rw [← hf]
    obtain ⟨load, -, phase, reason⟩ := loadRefuse_refuses (reason := 17) (panel := 0xFFFF) (seg := 0xFFFF) hl entered (by decide)
    exact ⟨_, next_withFates ((congrArg (State.loadKind5 · 3) whole).trans (loadKind5_bad hl prepared k5 hseg hch hread)), load, phase, reason⟩
  · intro s l j hl prepared k5 ended hround h0 k4 hj hst
    exact ⟨_, rfl, loadInit_ends hl prepared k5 ended hround h0 k4 hj⟩

end Sys2Proof.LoadRounds
end

section
/-! PROOFS. Phase 1 of a start: the firmware that runs, or recovery (R453, R473, R474). -/

namespace Sys2Proof.StartFirmware

open Sys2Proof Sys2Proof.Machine Sys2Proof.Laws Sys2Proof.Clauses
open Sys2Proof.StartPhases (within_same phase_of_inPhase phaseEnds_endPhase reg_endPhase)

variable {s t u : State}

/-! ### The SFDP check (R453) -/

/-- Both devices are usable. -/
theorem sfdpCheck_usable {ts : List Sfdp} (h : ts.map State.Sfdp.usable = [true, true]) (h0 : s.flash.dev0 = true) (h1 : s.flash.dev1 = true) :
    s.sfdpCheck ts = s := by
  obtain ⟨a, l, rfl, ha, hl⟩ := List.map_eq_cons_iff.1 h
  obtain ⟨b, l, rfl, hb, -⟩ := List.map_eq_cons_iff.1 hl
  have good := Restarts.dropDevs_good s 3 h0 h1
  unfold State.sfdpCheck
  simp only [List.getElem?_cons_zero, List.getElem?_cons_succ, ha, hb, good]

/-- Only device 0 is usable: device 1 leaves service with class 0x82. -/
theorem sfdpCheck_first {ts : List Sfdp} (h : ts.map State.Sfdp.usable = [true, false]) (h0 : s.flash.dev0 = true) (h1 : s.flash.dev1 = true) :
    (s.sfdpCheck ts).flash.dev0 = true ∧ (s.sfdpCheck ts).flash.dev1 = false ∧ ∃ e, (s.sfdpCheck ts).err.recQ = s.err.recQ ++ [e] ∧ e.cls = 0x82 ∧
      e.detail = 3 := by
  obtain ⟨a, l, rfl, ha, hl⟩ := List.map_eq_cons_iff.1 h
  obtain ⟨b, l, rfl, hb, -⟩ := List.map_eq_cons_iff.1 hl
  unfold State.sfdpCheck State.dropDevs
  simp only [List.getElem?_cons_zero, List.getElem?_cons_succ, ha, hb, h0, h1, Bool.and_true, Bool.and_false, Bool.not_true, Bool.not_false,
    Bool.false_eq_true, if_false, if_true, Bool.false_and, true_and]
  exact RecordWay.flashRec_logs s 0x82 3

/-! ### The candidates (R473) -/

/-- The candidates of a list are rejected. -/
def rejected (u : State) (objs : List SignedObj) (l : List Nat) : State :=
  l.foldl (fun t i => t.raise 0x80 (.engine 0) (u.candReason objs i + State.candSlot u.flash.active i * 2 ^ 8 + State.candDev i * 2 ^ 9) none) u

theorem within_rejected (u : State) (objs : List SignedObj) (l : List Nat) : u.within [.err] (rejected u objs l) :=
  within_foldl _ (fun _ _ h => within_raise (List.Subset.refl _) h) (within_refl u)

/-- Each is logged. -/
theorem rejected_logs (u : State) (objs : List SignedObj) (l : List Nat) :
    ∃ es, (rejected u objs l).err.recQ = u.err.recQ ++ es ∧ es.length = l.length ∧ ∀ e ∈ es, e.cls = 0x80 := by
  suffices hs : ∀ t : State, ∃ es, (l.foldl (fun t i => t.raise 0x80 (.engine 0)
      (u.candReason objs i + State.candSlot u.flash.active i * 2 ^ 8 + State.candDev i * 2 ^ 9) none) t).err.recQ = t.err.recQ ++ es ∧
      es.length = l.length ∧ ∀ e ∈ es, e.cls = 0x80 from hs u
  induction l with
  | nil => exact fun t => ⟨[], (List.append_nil _).symm, rfl, fun e he => absurd he List.not_mem_nil⟩
  | cons i l ih =>
    intro t
    obtain ⟨e, he, hcls, -⟩ := SyncCounters.raise_record t 0x80 (.engine 0)
      (u.candReason objs i + State.candSlot u.flash.active i * 2 ^ 8 + State.candDev i * 2 ^ 9) none
    obtain ⟨es, hes, hlen, hall⟩ := ih (t.raise 0x80 (.engine 0) (u.candReason objs i + State.candSlot u.flash.active i * 2 ^ 8 + State.candDev i * 2 ^ 9) none)
    refine ⟨e :: es, ?_, congrArg (· + 1) hlen, fun x hx => (List.mem_cons.1 hx).elim (fun hxe => hxe ▸ hcls) (hall x)⟩
    rw [List.foldl_cons, hes, he, List.append_assoc]
    rfl

/-- The slots as the ROM found them. -/
def found (u : State) (objs : List SignedObj) (f : Flash) : Flash :=
  State.setSlot (State.setSlot f 0 (u.slotFound objs 0)) 1 (u.slotFound objs 1)

theorem found_devices (u : State) (objs : List SignedObj) (f : Flash) : (found u objs f).dev0 = f.dev0 ∧ (found u objs f).dev1 = f.dev1 := ⟨rfl, rfl⟩

/-- Slot `n` runs, from device `dev`. -/
def runs (t : State) (f : Flash) (n dev : Nat) : State :=
  ((((({ t with flash := { f with active := n } } : State).keepStore.setFld (ecKey BOOT_STAT) 11 1 n).setFld (ecKey BOOT_STAT) 12 1 dev).setReg
    (ecKey BOOT_FW_SVN) (BitVec.ofNat 64 (State.slotOf f n).svn)))

/-- Recovery is entered. -/
def recovers (t : State) : State :=
  (((t.readCollectors t.flash.cfgOk).raise 0x81 (.engine 0) 0 none).setFld (ecKey BOOT_STAT) 13 1 1).recoveryPorts

/-- The state in which the candidates are tried. -/
def checked (s : State) (ts : List Sfdp) (keys : List Bool) : State := ({ s with flash := { s.flash with keysOk := keys } } : State).sfdpCheck ts

/-- The first valid candidate runs. -/
theorem firmwareVerify_runs {ts : List Sfdp} {keys : List Bool} {objs : List SignedObj} {i : Nat} (hph : s.inPhase 1 = true)
    (hu : checked s ts keys = u) (hi : i < 4) (good : u.candReason objs i = 0) (first : ∀ j, j < i → u.candReason objs j ≠ 0) :
    s.firmwareVerify ts keys objs = (runs (rejected u objs (List.range i)) (found u objs (rejected u objs (List.range i)).flash)
      (State.candSlot u.flash.active i) (State.candDev i)).endPhase 1 := by
  have hfind : ((List.range 4).find? fun i => u.candReason objs i == 0) = some i :=
    List.find?_range_eq_some.2 ⟨by simp [good], List.mem_range.2 hi, fun j hj => by simpa using first j hj⟩
  unfold checked at hu
  unfold State.firmwareVerify
  rw [if_neg (by simp [hph])]
  simp only [hu, hfind]
  rfl

/-- None is valid. -/
theorem firmwareVerify_recovers {ts : List Sfdp} {keys : List Bool} {objs : List SignedObj} (hph : s.inPhase 1 = true)
    (hu : checked s ts keys = u) (bad : ∀ i, i < 4 → u.candReason objs i ≠ 0) :
    s.firmwareVerify ts keys objs = recovers (rejected u objs (List.range 4)) := by
  have hfind : ((List.range 4).find? fun i => u.candReason objs i == 0) = none :=
    List.find?_eq_none.2 fun i hi => by simpa using bad i (List.mem_range.1 hi)
  unfold checked at hu
  unfold State.firmwareVerify
  rw [if_neg (by simp [hph])]
  simp only [hu, hfind]
  rfl

/-! ### What each leaves -/

theorem candSlot_lt {active i : Nat} (h : active < 2) : State.candSlot active i < 2 := by
  unfold State.candSlot
  split <;> omega

/-- BOOT_STAT shows the slot that runs and its device. -/
theorem runs_shows (t : State) (f : Flash) {n dev : Nat} (hn : n < 2) (hd : dev < 2) :
    (runs t f n dev).fld (ecKey BOOT_STAT) 11 1 = n ∧ (runs t f n dev).fld (ecKey BOOT_STAT) 12 1 = dev := by
  constructor
  · refine (fld_setReg_other _ _ _ _ (by decide)).trans ((fld_setFld_apart _ _ (by decide) (.inl (by decide))).trans ?_)
    exact (fld_setFld_same _ _ (by decide)).trans (Nat.mod_eq_of_lt hn)
  · exact (fld_setReg_other _ _ _ _ (by decide)).trans ((fld_setFld_same _ _ (by decide)).trans (Nat.mod_eq_of_lt hd))

theorem runs_regs (t : State) (f : Flash) (n dev : Nat) : t.regsBut (runs t f n dev) [ecKey BOOT_STAT, ecKey BOOT_FW_SVN] := fun k hk => by
  have stat : k ≠ ecKey BOOT_STAT := fun e => hk (e ▸ List.mem_cons_self)
  have svn : k ≠ ecKey BOOT_FW_SVN := fun e => hk (e ▸ List.mem_cons_of_mem _ List.mem_cons_self)
  exact (reg_setReg_other _ _ svn).trans ((reg_setFld_other _ _ _ _ stat).trans (reg_setFld_other _ _ _ _ stat))

theorem rejected_reg (u : State) (objs : List SignedObj) (l : List Nat) (k : Nat) : (rejected u objs l).reg k = u.reg k :=
  reg_of_regs (within_rejected u objs l).1 (within_same (within_rejected u objs l) .regs (by decide)) k

/-- Every port of the module is powered (R474). -/
theorem recoveryPorts_powers (s : State) : ∀ p ∈ s.part.ports, (s.recoveryPorts.hport p).powered = true := by
  have each (l : List Nat) : ∀ t : State, (∀ p, (t.hport p).powered = true → ((l.foldl (fun t p => t.setHport p { t.hport p with powered := true }) t).hport p).powered = true) ∧
      ∀ p ∈ l, ((l.foldl (fun t p => t.setHport p { t.hport p with powered := true }) t).hport p).powered = true := by
    induction l with
    | nil => exact fun t => ⟨fun _ h => h, fun p hp => absurd hp List.not_mem_nil⟩
    | cons q l ih =>
      intro t
      obtain ⟨kept, all⟩ := ih (t.setHport q { t.hport q with powered := true })
      have struck : ((t.setHport q { t.hport q with powered := true }).hport q).powered = true := congrArg HPort.powered (hport_setHport_same ..)
      refine ⟨fun p hp => kept p ?_, fun p hp => (List.mem_cons.1 hp).elim (fun e => kept p (e ▸ struck)) (all p)⟩
      by_cases e : p = q
      · exact e ▸ struck
      · rw [hport_setHport, if_neg e]
        exact hp
  exact (each s.part.ports s).2

/-- What recovery leaves: class 0x81, RECOVERY in BOOT_STAT, and the ports powered. -/
theorem recovers_shows (t : State) : (recovers t).fld (ecKey BOOT_STAT) 13 1 = 1 ∧ (recovers t).fld (ecKey BOOT_STAT) 0 4 = t.fld (ecKey BOOT_STAT) 0 4 ∧
    (∃ e, (recovers t).err.recQ = t.err.recQ ++ [e] ∧ e.cls = 0x81) ∧ (recovers t).flash = t.flash ∧ t.regsBut (recovers t) [ecKey BOOT_STAT] ∧
    ∀ p ∈ t.part.ports, ((recovers t).hport p).powered = true := by
  have logged : ∃ e, ((t.readCollectors t.flash.cfgOk).raise 0x81 (.engine 0) 0 none).err.recQ = t.err.recQ ++ [e] ∧ e.cls = 0x81 := ⟨_, rfl, rfl⟩
  have quiet : t.within [.err] ((t.readCollectors t.flash.cfgOk).raise 0x81 (.engine 0) 0 none) :=
    within_raise (List.Subset.refl _) (within_readCollectors (List.Subset.refl _) (within_refl t))
  unfold recovers
  generalize (t.readCollectors t.flash.cfgOk).raise 0x81 (.engine 0) 0 none = a at logged quiet ⊢
  have reg (k : Nat) : a.reg k = t.reg k := reg_of_regs quiet.1 (within_same quiet .regs (by decide)) k
  have ports := within_recoveryPorts (List.Subset.refl _) (within_refl (a.setFld (ecKey BOOT_STAT) 13 1 1))
  have regs (k : Nat) : ((a.setFld (ecKey BOOT_STAT) 13 1 1).recoveryPorts).reg k = (a.setFld (ecKey BOOT_STAT) 13 1 1).reg k :=
    reg_of_regs ports.1 (within_same ports .regs (by decide)) k
  obtain ⟨e, he, hcls⟩ := logged
  refine ⟨?_, ?_, ⟨e, ?_, hcls⟩, ?_, fun k hk => ?_, fun p hp => recoveryPorts_powers _ p ?_⟩
  · exact (InputPower.fld_of_reg (regs _) 13 1).trans (fld_setFld_same _ _ (by decide))
  · exact (InputPower.fld_of_reg (regs _) 0 4).trans ((fld_setFld_apart _ _ (by decide) (.inl (by decide))).trans (InputPower.fld_of_reg (reg _) 0 4))
  · exact (congrArg Err.recQ ((within_same ports .err (by decide)).trans (setFld_err ..))).trans he
  · exact (within_same ports .flash (by decide)).trans ((setFld_flash ..).trans (within_same quiet .flash (by decide)))
  · exact (regs k).trans ((reg_setFld_other _ _ _ _ fun e => hk (List.mem_singleton.2 e)).trans (reg k))
  · exact (congrArg (p ∈ Part.ports ·) ((setFld_part ..).trans quiet.1)).mpr hp

/-- A registers' change that the end of phase 1 adds to. -/
theorem regsBut_endPhase {ks : List Nat} (p : Nat) (h : s.regsBut t ks) (h1 : ecKey BOOT_STAT ∈ ks) (h2 : ecKey (BOOT_PTIME + 4 * (p - 1)) ∈ ks) :
    s.regsBut (t.endPhase p) ks := fun k hk =>
  (reg_endPhase t p (fun e : k = _ => hk (e ▸ h1)) fun e : k = _ => hk (e ▸ h2)).trans (h k hk)

/-- Phase 1 with a valid candidate (R473). -/
theorem firmware_runs {ts : List Sfdp} {keys : List Bool} {objs : List SignedObj} {i : Nat} (hts : ts.map State.Sfdp.usable = [true, true])
    (hu : u = { s with flash := { s.flash with keysOk := keys } }) (hph : s.inPhase 1 = true) (h0 : s.flash.dev0 = true) (h1 : s.flash.dev1 = true)
    (hactive : s.flash.active < 2) (hi : i < 4) (good : u.candReason objs i = 0) (first : ∀ j, j < i → u.candReason objs j ≠ 0) :
    s.phaseEnds (s.firmwareVerify ts keys objs) 1 ∧ (s.firmwareVerify ts keys objs).flash.active = State.candSlot s.flash.active i ∧
    (s.firmwareVerify ts keys objs).fld (ecKey BOOT_STAT) 11 1 = State.candSlot s.flash.active i ∧
    (s.firmwareVerify ts keys objs).fld (ecKey BOOT_STAT) 12 1 = State.candDev i ∧
    (∃ l, (s.firmwareVerify ts keys objs).err.recQ = s.err.recQ ++ l ∧ l.length = i ∧ ∀ r ∈ l, r.cls = 0x80) ∧
    (s.firmwareVerify ts keys objs).flash.kept.active = (s.firmwareVerify ts keys objs).flash.active ∧
    s.regsBut (s.firmwareVerify ts keys objs) [ecKey BOOT_STAT, ecKey BOOT_FW_SVN, ecKey BOOT_PTIME] := by
  have hc : checked s ts keys = u := by
    rw [hu]
    exact sfdpCheck_usable hts h0 h1
  have hact : u.flash.active = s.flash.active := by rw [hu]
  rw [firmwareVerify_runs hph hc hi good first, hact]
  have hw := within_rejected u objs (List.range i)
  obtain ⟨es, hes, hlen, hall⟩ := rejected_logs u objs (List.range i)
  generalize rejected u objs (List.range i) = a at hw hes ⊢
  have boot : a.boot = s.boot := (within_same hw .boot (by decide)).trans (by rw [hu])
  have reg (k : Nat) : a.reg k = s.reg k := (reg_of_regs hw.1 (within_same hw .regs (by decide)) k).trans (by rw [hu]; rfl)
  have now : a.now = s.now := (RegionCommands.now_of_within hw).trans (by rw [hu]; rfl)
  have recs : u.err.recQ = s.err.recQ := by rw [hu]
  obtain ⟨slot, dev⟩ := runs_shows a (found u objs a.flash) (candSlot_lt (i := i) hactive) (Nat.mod_lt i (by decide) : State.candDev i < 2)
  refine ⟨phaseEnds_endPhase _ 1 (by decide) (by decide) now (congrArg Boot.phaseStart boot), rfl, ?_, ?_, ⟨es, ?_, ?_, hall⟩, rfl, ?_⟩
  · exact (Restarts.fld_endPhase_stat _ 1 1 (by decide)).trans slot
  · exact (Restarts.fld_endPhase_stat _ 1 1 (by decide)).trans dev
  · exact hes.trans (congrArg (· ++ es) recs)
  · exact hlen.trans List.length_range
  · refine regsBut_endPhase 1 (fun k hk => (runs_regs a (found u objs a.flash) _ _ k fun h => hk ?_).trans (reg k)) (by decide) (by decide)
    exact List.mem_of_mem_dropLast h

/-- Phase 1 without one: recovery (R474). -/
theorem firmware_recovers {ts : List Sfdp} {keys : List Bool} {objs : List SignedObj} (hts : ts.map State.Sfdp.usable = [true, true])
    (hu : u = { s with flash := { s.flash with keysOk := keys } }) (hph : s.inPhase 1 = true) (h0 : s.flash.dev0 = true) (h1 : s.flash.dev1 = true)
    (bad : ∀ i, i < 4 → u.candReason objs i ≠ 0) :
    ∃ r, (s.firmwareVerify ts keys objs).fld (ecKey BOOT_STAT) 13 1 = 1 ∧ (s.firmwareVerify ts keys objs).fld (ecKey BOOT_STAT) 0 4 = 1 ∧
      r ∈ (s.firmwareVerify ts keys objs).err.recQ ∧ r.cls = 0x81 ∧ (s.firmwareVerify ts keys objs).flash.active = s.flash.active ∧
      (∀ p ∈ s.part.ports, ((s.firmwareVerify ts keys objs).hport p).powered = true) ∧ s.regsBut (s.firmwareVerify ts keys objs) [ecKey BOOT_STAT] := by
  have hc : checked s ts keys = u := by
    rw [hu]
    exact sfdpCheck_usable hts h0 h1
  rw [firmwareVerify_recovers hph hc bad]
  have hw := within_rejected u objs (List.range 4)
  generalize rejected u objs (List.range 4) = a at hw ⊢
  have reg (k : Nat) : a.reg k = s.reg k := (reg_of_regs hw.1 (within_same hw .regs (by decide)) k).trans (by rw [hu]; rfl)
  have part : a.part = s.part := hw.1.trans (by rw [hu])
  have active : a.flash.active = s.flash.active := (congrArg Flash.active (within_same hw .flash (by decide))).trans (by rw [hu])
  obtain ⟨recovery, phase, ⟨r, hr, hcls⟩, flash, regs, ports⟩ := recovers_shows a
  refine ⟨r, recovery, phase.trans ((InputPower.fld_of_reg (reg _) 0 4).trans (phase_of_inPhase hph)), ?_, hcls, (congrArg Flash.active flash).trans active,
    fun p hp => ports p ((congrArg (p ∈ Part.ports ·) part).mpr hp), fun k hk => (regs k hk).trans (reg k)⟩
  exact hr ▸ List.mem_append_right _ List.mem_cons_self

/-- A device that fails its check leaves service, whatever firmware runs (R453). -/
theorem firmware_drops {ts : List Sfdp} {keys : List Bool} {objs : List SignedObj} (hts : ts.map State.Sfdp.usable = [true, false])
    (hph : s.inPhase 1 = true) (h0 : s.flash.dev0 = true) (h1 : s.flash.dev1 = true) :
    ∃ r, (s.firmwareVerify ts keys objs).flash.dev0 = true ∧ (s.firmwareVerify ts keys objs).flash.dev1 = false ∧
      r ∈ (s.firmwareVerify ts keys objs).err.recQ ∧ r.cls = 0x82 ∧ r.detail = 3 := by
  obtain ⟨dev0, dev1, r, hr, hcls, hdet⟩ := sfdpCheck_first (s := { s with flash := { s.flash with keysOk := keys } }) hts h0 h1
  generalize hu : checked s ts keys = u
  have hu' : ({ s with flash := { s.flash with keysOk := keys } } : State).sfdpCheck ts = u := hu
  rw [hu'] at dev0 dev1 hr
  have hmem : r ∈ u.err.recQ := hr ▸ List.mem_append_right _ List.mem_cons_self
  have kept (l : List Nat) : (rejected u objs l).flash = u.flash ∧ r ∈ (rejected u objs l).err.recQ := by
    obtain ⟨es, hes, -⟩ := rejected_logs u objs l
    exact ⟨within_same (within_rejected u objs l) .flash (by decide), hes ▸ List.mem_append_left _ hmem⟩
  cases hfind : (List.range 4).find? fun i => u.candReason objs i == 0 with
  | none =>
    rw [firmwareVerify_recovers hph hu fun i hi => by simpa using List.find?_eq_none.1 hfind i (List.mem_range.2 hi)]
    obtain ⟨-, -, ⟨e, he, -⟩, flash, -, -⟩ := recovers_shows (rejected u objs (List.range 4))
    obtain ⟨same, mem⟩ := kept (List.range 4)
    exact ⟨r, (congrArg Flash.dev0 (flash.trans same)).trans dev0, (congrArg Flash.dev1 (flash.trans same)).trans dev1, he ▸ List.mem_append_left _ mem, hcls, hdet⟩
  | some i =>
    obtain ⟨good, hi, first⟩ := List.find?_range_eq_some.1 hfind
    rw [firmwareVerify_runs hph hu (List.mem_range.1 hi) (by simpa using good) fun j hj => by simpa using first j hj]
    obtain ⟨same, mem⟩ := kept (List.range i)
    exact ⟨r, (congrArg Flash.dev0 same).trans dev0, (congrArg Flash.dev1 same).trans dev1, mem, hcls, hdet⟩

end Sys2Proof.StartFirmware
end

section
/-! PROOFS. Phase 2 of a start: what is read from flash (R454, R456, R476). -/

namespace Sys2Proof.StartConfig

open Sys2Proof Sys2Proof.Machine Sys2Proof.Laws Sys2Proof.Clauses
open Sys2Proof.StartPhases (within_same phase_of_inPhase)

variable {s t u : State}

/-- `t` comes from `s` by a step of the read of flash: the counters and what they show stay, and so do the records. -/
structure ReadsOn (s t : State) : Prop where
  part : t.part = s.part
  boot : t.boot = s.boot
  free : t.free = s.free
  bootseq : t.flash.bootseq = s.flash.bootseq
  rseq : t.flash.rseq = s.flash.rseq
  lmsQ : t.flash.lmsQ = s.flash.lmsQ
  nonces : t.flash.nonces = s.flash.nonces
  seq : t.reg (ecKey BOOT_SEQ) = s.reg (ecKey BOOT_SEQ)
  corrected : t.reg (ecKey BBOX_CNT_CC) = s.reg (ecKey BBOX_CNT_CC)
  phase : t.fld (ecKey BOOT_STAT) 0 4 = s.fld (ecKey BOOT_STAT) 0 4
  recs : s.err.recQ <+: t.err.recQ

namespace ReadsOn

theorem refl (s : State) : ReadsOn s s := ⟨rfl, rfl, rfl, rfl, rfl, rfl, rfl, rfl, rfl, rfl, List.prefix_rfl⟩

theorem trans (h : ReadsOn s t) (g : ReadsOn t u) : ReadsOn s u :=
  ⟨g.part.trans h.part, g.boot.trans h.boot, g.free.trans h.free, g.bootseq.trans h.bootseq, g.rseq.trans h.rseq, g.lmsQ.trans h.lmsQ,
    g.nonces.trans h.nonces, g.seq.trans h.seq, g.corrected.trans h.corrected, g.phase.trans h.phase, h.recs.trans g.recs⟩

/-- A step that leaves the registers. -/
theorem of_regs (hp : t.part = s.part) (hr : t.regs = s.regs) (boot : t.boot = s.boot) (free : t.free = s.free) (bootseq : t.flash.bootseq = s.flash.bootseq)
    (rseq : t.flash.rseq = s.flash.rseq) (lmsQ : t.flash.lmsQ = s.flash.lmsQ) (nonces : t.flash.nonces = s.flash.nonces)
    (recs : s.err.recQ <+: t.err.recQ) : ReadsOn s t :=
  ⟨hp, boot, free, bootseq, rseq, lmsQ, nonces, reg_of_regs hp hr _, reg_of_regs hp hr _, fld_of_regs hp hr .., recs⟩

/-- A write of a register that shows no counter. -/
theorem setReg (s : State) (v : DWord) {k : Nat} (hs : ecKey BOOT_SEQ ≠ k) (hc : ecKey BBOX_CNT_CC ≠ k) (hb : ecKey BOOT_STAT ≠ k) : ReadsOn s (s.setReg k v) :=
  ⟨rfl, rfl, rfl, rfl, rfl, rfl, rfl, reg_setReg_other _ _ hs, reg_setReg_other _ _ hc, fld_setReg_other _ _ _ _ hb, List.prefix_rfl⟩

theorem foldl {α : Type} {f : State → α → State} (l : List α) (hf : ∀ t x, ReadsOn t (f t x)) (s : State) : ReadsOn s (l.foldl f s) :=
  List.foldlRecOn (motive := ReadsOn s) l f (refl s) fun t ht x _ => ht.trans (hf t x)

end ReadsOn

/-! ### The counters (R456) -/

/-- A count of the black box as its journal holds it: half `i % 2` of register `k`. -/
def countRead (t : State) (k i : Nat) : Option Nat → State
  | some v => t.setFld (ecKey k) (16 * i) 16 v
  | none => t

theorem countRead_reg (t : State) {k : Nat} (i : Nat) (o : Option Nat) {j : Nat} (h : j ≠ ecKey k) : (countRead t k i o).reg j = t.reg j := by
  cases o with
  | some v => exact reg_setFld_other _ _ _ _ h
  | none => rfl

theorem countRead_high (t : State) (k : Nat) (o : Option Nat) : (countRead t k 1 o).fld (ecKey k) 0 16 = t.fld (ecKey k) 0 16 := by
  cases o with
  | some v => exact fld_setFld_apart _ _ (by decide) (.inl (by decide))
  | none => rfl

/-- The four counts in turn. -/
theorem readBboxCnt_eq (s : State) (bad : List (Nat × Nat)) : s.readBboxCnt bad =
    countRead (countRead (countRead (countRead s BBOX_CNT_CC 0 (s.ctrRead bad 3)) BBOX_CNT_CC 1 (s.ctrRead bad 4)) BBOX_CNT_ES 0 (s.ctrRead bad 5))
      BBOX_CNT_ES 1 (s.ctrRead bad 6) := by
  unfold State.readBboxCnt
  rw [show List.range 4 = [0, 1, 2, 3] from rfl]
  simp only [List.foldl_cons, List.foldl_nil]
  cases s.ctrRead bad 3 <;> cases s.ctrRead bad 4 <;> cases s.ctrRead bad 5 <;> cases s.ctrRead bad 6 <;> rfl

/-- The journals of the black box's counts, as read. -/
theorem readBboxCnt_shows (s : State) (bad : List (Nat × Nat)) :
    (∀ x, s.ctrRead bad 3 = some x → (s.readBboxCnt bad).fld (ecKey BBOX_CNT_CC) 0 16 = x % 2 ^ 16) ∧
    s.regsBut (s.readBboxCnt bad) [ecKey BBOX_CNT_CC, ecKey BBOX_CNT_ES] := by
  rw [readBboxCnt_eq]
  constructor
  · intro x hx
    have system (t : State) (i : Nat) (o : Option Nat) : (countRead t BBOX_CNT_ES i o).fld (ecKey BBOX_CNT_CC) 0 16 = t.fld (ecKey BBOX_CNT_CC) 0 16 :=
      InputPower.fld_of_reg (countRead_reg t i o (by decide)) 0 16
    rw [system, system, countRead_high, hx]
    exact fld_setFld_same _ _ (by decide)
  · intro k hk
    have cc : k ≠ ecKey BBOX_CNT_CC := fun e => hk (e ▸ List.mem_cons_self)
    have es : k ≠ ecKey BBOX_CNT_ES := fun e => hk (e ▸ List.mem_cons_of_mem _ List.mem_cons_self)
    rw [countRead_reg _ _ _ es, countRead_reg _ _ _ es, countRead_reg _ _ _ cc, countRead_reg _ _ _ cc]

/-- What the read of the counters leaves: BOOTSEQ `seq` incremented, RSEQ after `rq`. -/
structure CountersRead (s t : State) (r : FlashRead) (seq rq : Nat) : Prop where
  reach : s.within [.regs, .flash, .free] t
  bootseq : t.flash.bootseq = (seq + 1) % 2 ^ 24
  shown : t.reg (ecKey BOOT_SEQ) = BitVec.ofNat 64 ((seq + 1) % 2 ^ 24)
  rseq : t.flash.rseq = (rq + 0xFFFFFFFE) % 0xFFFFFFFF + 1
  lmsQ : t.flash.lmsQ = (s.ctrRead r.ctrBad 2).getD 1048576
  corrected : ∀ x, s.ctrRead r.ctrBad 3 = some x → t.fld (ecKey BBOX_CNT_CC) 0 16 = x % 2 ^ 16
  free : t.free = if (s.ctrRead r.ctrBad 0).isNone || (s.ctrRead r.ctrBad 1).isNone then s.free + 1 else s.free
  kept : t.flash.dev0 = s.flash.dev0 ∧ t.flash.dev1 = s.flash.dev1 ∧ t.flash.configSet = s.flash.configSet ∧ t.flash.rmap = s.flash.rmap ∧
    t.flash.nonces = s.flash.nonces
  phase : t.fld (ecKey BOOT_STAT) 0 4 = s.fld (ecKey BOOT_STAT) 0 4

/-- The counters as they are read: BOOTSEQ after `seq`, RSEQ after `rq`. -/
def countersIn (f : Flash) (seq rq lms : Nat) : Flash :=
  { f with bootseq := (seq + 1) % 2 ^ 24, rseq := (rq + 0xFFFFFFFE) % 0xFFFFFFFF + 1, lmsQ := lms }

/-- The state with them, a free value taken where a counter has none. -/
def seated (s : State) (r : FlashRead) (seq rq : Nat) : State :=
  let a := if (s.ctrRead r.ctrBad 0).isNone || (s.ctrRead r.ctrBad 1).isNone then s.fresh else s
  { a with flash := countersIn a.flash seq rq ((s.ctrRead r.ctrBad 2).getD 1048576) }

theorem seated_flash (s : State) (r : FlashRead) (seq rq : Nat) :
    (seated s r seq rq).flash = countersIn s.flash seq rq ((s.ctrRead r.ctrBad 2).getD 1048576) := by
  unfold seated
  split <;> rfl

theorem seated_reg (s : State) (r : FlashRead) (seq rq k : Nat) : (seated s r seq rq).reg k = s.reg k := by
  unfold seated
  split <;> rfl

theorem seated_free (s : State) (r : FlashRead) (seq rq : Nat) :
    (seated s r seq rq).free = if (s.ctrRead r.ctrBad 0).isNone || (s.ctrRead r.ctrBad 1).isNone then s.free + 1 else s.free := by
  unfold seated
  dsimp only
  by_cases none : ((s.ctrRead r.ctrBad 0).isNone || (s.ctrRead r.ctrBad 1).isNone) = true
  · rw [if_pos none, if_pos none]
    rfl
  · rw [if_neg none, if_neg none]

theorem readCounters_eq (s : State) (r : FlashRead) {seq rq : Nat} (hseq : (s.ctrRead r.ctrBad 0).getD (Config.freeWord s.free).toNat = seq)
    (hrq : (s.ctrRead r.ctrBad 1).getD ((Config.freeWord s.free).toNat / 2 ^ 24) = rq) :
    s.readCounters r = (((seated s r seq rq).readBboxCnt r.ctrBad).ctrWrite).setReg (ecKey BOOT_SEQ) (BitVec.ofNat 64 ((seq + 1) % 2 ^ 24)) := by
  subst hseq hrq
  rfl

theorem readCounters_reads (s : State) (r : FlashRead) {seq rq : Nat} (hseq : (s.ctrRead r.ctrBad 0).getD (Config.freeWord s.free).toNat = seq)
    (hrq : (s.ctrRead r.ctrBad 1).getD ((Config.freeWord s.free).toNat / 2 ^ 24) = rq) : CountersRead s (s.readCounters r) r seq rq := by
  have reach := within_readCounters (r := r) (List.Subset.refl _) (within_refl s)
  have boxes := within_readBboxCnt (bad := r.ctrBad) (List.Subset.refl _) (within_refl (seated s r seq rq))
  obtain ⟨corrected, regs⟩ := readBboxCnt_shows (seated s r seq rq) r.ctrBad
  have ctrs : ∀ i, (seated s r seq rq).ctrRead r.ctrBad i = s.ctrRead r.ctrBad i := fun i => by
    unfold State.ctrRead
    rw [seated_flash]
    rfl
  have flash := (within_same boxes .flash (by decide)).trans (seated_flash s r seq rq)
  have free := (within_same boxes .free (by decide)).trans (seated_free s r seq rq)
  have reg (k : Nat) (hk : k ∉ [ecKey BBOX_CNT_CC, ecKey BBOX_CNT_ES]) := (regs k hk).trans (seated_reg s r seq rq k)
  rw [readCounters_eq s r hseq hrq] at reach ⊢
  generalize (seated s r seq rq).readBboxCnt r.ctrBad = b at *
  refine ⟨reach, ?_, reg_setReg_same .., ?_, ?_, fun x hx => ?_, free, ?_, ?_⟩
  · exact congrArg Flash.bootseq flash
  · exact congrArg Flash.rseq flash
  · exact congrArg Flash.lmsQ flash
  · exact (fld_setReg_other _ _ _ _ (by decide)).trans (corrected x ((ctrs 3).trans hx))
  · exact ⟨(congrArg Flash.dev0 flash).trans rfl, (congrArg Flash.dev1 flash).trans rfl, (congrArg Flash.configSet flash).trans rfl,
      (congrArg Flash.rmap flash).trans rfl, (congrArg Flash.nonces flash).trans rfl⟩
  · exact (fld_setReg_other _ _ _ _ (by decide)).trans (InputPower.fld_of_reg (reg _ (by decide)) 0 4)

/-! ### Sets of two copies (R454) -/

/-- Both copies verify. -/
theorem readSet_good (h0 : s.flash.dev0 = true) (h1 : s.flash.dev1 = true) : s.readSet [true, true] = (s, true) := by
  unfold State.readSet
  simp [h0, h1]

/-- Neither does. -/
theorem readSet_bad : s.readSet [false, false] = (s.flashEvent 2, false) := by
  unfold State.readSet
  simp

/-- The registers that the configuration set gives, and BAND_BUS_CFG as it gives it. -/
theorem applyConfig_shows (s : State) : s.applyConfig.fld (ecKey BAND_BUS_CFG) 0 5 = Config.siteNode s.flash.configSet % 32 ∧ ReadsOn s s.applyConfig ∧
    s.applyConfig.flash = s.flash ∧ s.applyConfig.err = s.err := by
  have reach := within_applyConfig (List.Subset.refl _) (within_refl s)
  have key (i o : Nat) (ho : o < 0x1000000) : ecKey o ≠ fabKey (i / 3) (i % 3) FAB_PMAC := by
    simp only [ecKey, fabKey, dieKey]
    omega
  have macs (t : State) (l : List Nat) : ∀ o, o < 0x1000000 → (l.foldl (fun t i => t.setReg (fabKey (i / 3) (i % 3) FAB_PMAC)
      (BitVec.ofNat 64 (Config.siteMac s.siteKeys.flash.configSet i).toNat)) t).reg (ecKey o) = t.reg (ecKey o) := fun o ho =>
    List.foldlRecOn (motive := fun u : State => u.reg (ecKey o) = t.reg (ecKey o)) l _ rfl fun u hu i _ => (reg_setReg_other _ _ (key i o ho)).trans hu
  have regs (o : Nat) (ho : o < 0x1000000) (hr : o ≠ RAMP_ORPHAN) : s.applyConfig.reg (ecKey o) =
      (s.siteKeys.setReg (ecKey BAND_BUS_CFG) (BitVec.ofNat 64 (Config.siteNode s.flash.configSet % 32 +
        (if Config.siteBusEn s.flash.configSet then 2 ^ 5 else 0)))).reg (ecKey o) :=
    (macs _ (List.range (3 * s.siteKeys.part.dies)) o ho).trans (reg_setReg_other _ _ hr)
  have kept (o : Nat) (ho : o < 0x1000000) (hr : o ≠ RAMP_ORPHAN) (hb : o ≠ BAND_BUS_CFG) : s.applyConfig.reg (ecKey o) = s.reg (ecKey o) :=
    (regs o ho hr).trans (reg_setReg_other _ _ hb)
  refine ⟨?_, ⟨reach.1, within_same reach .boot (by decide), within_same reach .free (by decide), ?_, ?_, ?_, ?_, ?_, ?_, ?_, ?_⟩,
    within_same reach .flash (by decide), within_same reach .err (by decide)⟩
  · refine (InputPower.fld_of_reg (regs BAND_BUS_CFG (by decide) (by decide)) 0 5).trans ((fld_setReg_same _ _ 0 5 _).trans ?_)
    have h32 : Config.siteNode s.flash.configSet % 32 < 32 := Nat.mod_lt _ (by decide)
    rw [BitVec.toNat_ofNat]
    unfold bits
    split <;> omega
  · exact congrArg Flash.bootseq (within_same reach .flash (by decide))
  · exact congrArg Flash.rseq (within_same reach .flash (by decide))
  · exact congrArg Flash.lmsQ (within_same reach .flash (by decide))
  · exact congrArg Flash.nonces (within_same reach .flash (by decide))
  · exact kept BOOT_SEQ (by decide) (by decide) (by decide)
  · exact kept BBOX_CNT_CC (by decide) (by decide) (by decide)
  · exact InputPower.fld_of_reg (kept BOOT_STAT (by decide) (by decide) (by decide)) 0 4
  · rw [within_same reach .err (by decide)]

/-- The calibration set, with both its copies good where it is read. -/
theorem configCal_reads {r : FlashRead} (hcal : r.calOk = [true, true]) (h0 : s.flash.dev0 = true) (h1 : s.flash.dev1 = true) :
    ReadsOn s (s.configCal r) ∧ (s.configCal r).err = s.err ∧ (s.configCal r).flash.cfgOk = s.flash.cfgOk ∧
    (s.configCal r).flash.rmap = s.flash.rmap ∧ (s.configCal r).flash.configSet = s.flash.configSet ∧
    (s.configCal r).reg (ecKey BAND_BUS_CFG) = s.reg (ecKey BAND_BUS_CFG) := by
  have eq : ∃ cal v, s.configCal r = ({ s with flash := { s.flash with calOk := cal } } : State).setFld (ecKey BOOT_STAT) 14 1 v := by
    unfold State.configCal
    dsimp only
    rw [hcal, readSet_good h0 h1]
    split <;> exact ⟨_, _, rfl⟩
  obtain ⟨cal, v, eq⟩ := eq
  rw [eq]
  refine ⟨⟨rfl, rfl, rfl, rfl, rfl, rfl, rfl, ?_, ?_, ?_, List.prefix_rfl⟩, rfl, rfl, rfl, rfl, ?_⟩
  · exact reg_setFld_other _ _ _ _ (by decide)
  · exact reg_setFld_other _ _ _ _ (by decide)
  · exact fld_setFld_apart _ _ (by decide) (.inl (by decide))
  · exact reg_setFld_other _ _ _ _ (by decide)

/-- Whether the configuration set could be read. -/
def cfgRead (s : State) (ok : Bool) : State := { s with flash := { s.flash with cfgOk := ok } }

/-- What the configuration set's read leaves where its copies agree. -/
theorem configSets_good {r : FlashRead} (hcfg : r.cfgOk = [true, true]) (hcal : r.calOk = [true, true]) (h0 : s.flash.dev0 = true)
    (h1 : s.flash.dev1 = true) : ReadsOn s (s.configSets r) ∧ (s.configSets r).err.recQ = s.err.recQ ∧ (s.configSets r).flash.cfgOk = true ∧
    (s.configSets r).flash.rmap = s.flash.rmap ∧ (s.configSets r).fld (ecKey BAND_BUS_CFG) 0 5 = Config.siteNode s.flash.configSet % 32 := by
  have eq : s.configSets r = (((cfgRead s true).applyConfig).readCollectors true).configCal r := by
    unfold State.configSets
    rw [hcfg, readSet_good h0 h1]
    rfl
  obtain ⟨bus, reads, flash, err⟩ := applyConfig_shows (cfgRead s true)
  rw [eq]
  generalize (cfgRead s true).applyConfig = a at bus reads flash err ⊢
  have dev0 : a.flash.dev0 = true := (congrArg Flash.dev0 flash).trans h0
  have dev1 : a.flash.dev1 = true := (congrArg Flash.dev1 flash).trans h1
  obtain ⟨cal, calErr, calCfg, calRmap, -, calBus⟩ := configCal_reads (s := a.readCollectors true) hcal dev0 dev1
  have start : ReadsOn s (cfgRead s true) := .of_regs rfl rfl rfl rfl rfl rfl rfl rfl List.prefix_rfl
  have collectors : ReadsOn a (a.readCollectors true) := .of_regs rfl rfl rfl rfl rfl rfl rfl rfl List.prefix_rfl
  refine ⟨((start.trans reads).trans collectors).trans cal, ?_, ?_, ?_, ?_⟩
  · exact (congrArg Err.recQ calErr).trans ((congrArg Err.recQ err).trans rfl)
  · exact calCfg.trans ((congrArg Flash.cfgOk flash).trans rfl)
  · exact calRmap.trans ((congrArg Flash.rmap flash).trans rfl)
  · exact (InputPower.fld_of_reg calBus 0 5).trans bus

/-- And where neither of them verifies: class 0x82 with reason 2. -/
theorem configSets_bad {r : FlashRead} (hcfg : r.cfgOk = [false, false]) (hcal : r.calOk = [true, true]) (h0 : s.flash.dev0 = true)
    (h1 : s.flash.dev1 = true) : ReadsOn s (s.configSets r) ∧ (s.configSets r).flash.cfgOk = false ∧
    (s.configSets r).flash.rmap = s.flash.rmap ∧ ∃ e, (s.configSets r).err.recQ = s.err.recQ ++ [e] ∧ e.cls = 0x82 ∧ e.detail = 2 := by
  have eq : s.configSets r = ((cfgRead (s.flashEvent 2) false).readCollectors false).configCal r := by
    unfold State.configSets
    rw [hcfg, readSet_bad]
    rfl
  obtain ⟨e, he, hcls, hdet⟩ := RecordWay.flashRec_logs s 0x82 2
  have flash : (s.flashEvent 2).flash = s.flash := raise_flash ..
  rw [eq]
  have logged : ReadsOn s (s.flashEvent 2) := .of_regs rfl rfl rfl rfl rfl rfl rfl rfl ⟨[e], he.symm⟩
  have he' : (s.flashEvent 2).err.recQ = s.err.recQ ++ [e] := he
  generalize s.flashEvent 2 = a at flash logged he' ⊢
  have start : ReadsOn a ((cfgRead a false).readCollectors false) :=
    .of_regs rfl rfl rfl rfl rfl rfl rfl rfl List.prefix_rfl
  obtain ⟨cal, calErr, calCfg, calRmap, -⟩ := configCal_reads (s := ((cfgRead a false).readCollectors false)) hcal
    ((congrArg Flash.dev0 flash).trans h0) ((congrArg Flash.dev1 flash).trans h1)
  exact ⟨(logged.trans start).trans cal, calCfg, calRmap.trans ((congrArg Flash.rmap flash).trans rfl), e, (congrArg Err.recQ calErr).trans he', hcls, hdet⟩

/-! ### The repair map and the licences as read (R56, R476) -/

/-- The entries of a repair map whose copies can be read. -/
def entriesRead (l : List RmapEntry) : List RmapEntry := l.map fun e => { e with bad := if e.bad = 2 then 2 else 0 }

/-- The repair map with its entries `es`. -/
def rmapIn (s : State) (es : List RmapEntry) : State := { s with flash := { s.flash with rmap := es, rmapDone := es } }

/-- An entry that is reserved or unreadable is logged. -/
def entryLogged (t : State) (e : RmapEntry × Nat) : State :=
  if e.1.bad = 2 then t.raise 0x89 (.engine 0) (e.2 * 2 ^ 32) none
  else if !e.1.live then t.raise 0x89 (.engine 0) (e.1.word0 + e.2 * 2 ^ 32 + 2 ^ 48) none
  else t

theorem readRmap_eq (s : State) : s.readRmap [] = (entriesRead s.flash.rmap).zipIdx.foldl entryLogged (rmapIn s (entriesRead s.flash.rmap)) := by
  have eq : ∃ es, es = entriesRead s.flash.rmap ∧ s.readRmap [] = es.zipIdx.foldl entryLogged (rmapIn s es) := by
    refine ⟨_, ?_, rfl⟩
    unfold entriesRead
    conv => rhs; rw [← List.zipIdx_map_fst 0 s.flash.rmap, List.map_map]
    exact List.map_congr_left fun e _ => by simp
  obtain ⟨es, hes, eq⟩ := eq
  rw [eq, hes]

/-- A map without reserved and unreadable entries: no record. -/
theorem readRmap_live (h : s.flash.rmap.all (fun e => e.live) = true) : s.readRmap [] = rmapIn s (entriesRead s.flash.rmap) := by
  have readable : ∀ e ∈ entriesRead s.flash.rmap, e.bad = 0 ∧ e.live = true := fun e he => by
    obtain ⟨x, hx, rfl⟩ := List.mem_map.1 he
    have live := List.all_eq_true.1 h x hx
    have hbad : x.bad ≠ 2 := fun e => by
      simp [RmapEntry.live, e] at live
    simp only [RmapEntry.live, if_neg hbad] at live ⊢
    exact ⟨trivial, by simpa [hbad] using live⟩
  rw [readRmap_eq]
  refine List.foldlRecOn (motive := fun u : State => u = _) _ _ rfl fun u hu e he => ?_
  obtain ⟨good, live⟩ := readable e.1 (List.fst_mem_of_mem_zipIdx he)
  unfold entryLogged
  rw [if_neg (by rw [good]; decide), if_neg (by rw [live]; decide)]
  exact hu

/-- The licences as read, and what LIC_STAT shows of them; `f` logs those that fail, here none. -/
theorem readLicences_eq (s : State) : ∃ (ls : List Licence) (f : State → Licence × Nat → State), (∀ t l, f t l = t) ∧ s.readLicences [] =
    ((s.flash.licences.zipIdx.foldl f { s with flash := { s.flash with licences := ls } }).setReg (ecKey LIC_STAT) (BitVec.ofNat 64
      (s.flash.licences.zipIdx.foldl f { s with flash := { s.flash with licences := ls } }).licFeatures)).licCount := by
  refine ⟨_, _, ?_, rfl⟩
  exact fun _ _ => rfl

/-- Stored licences that all verify: no record. -/
theorem readLicences_reads (s : State) : ReadsOn s (s.readLicences []) ∧ (s.readLicences []).err = s.err ∧ (s.readLicences []).flash.cfgOk = s.flash.cfgOk ∧
    (s.readLicences []).flash.rmap = s.flash.rmap ∧ (s.readLicences []).flash.rmapDone = s.flash.rmapDone ∧
    (s.readLicences []).reg (ecKey BAND_BUS_CFG) = s.reg (ecKey BAND_BUS_CFG) := by
  have eq : ∃ ls v n, s.readLicences [] = ((({ s with flash := { s.flash with licences := ls } } : State).setReg (ecKey LIC_STAT) v).setFld
      (ecKey LIC_STAT) 4 5 n) := by
    obtain ⟨ls, f, quiet, eq⟩ := readLicences_eq s
    have none (l : List (Licence × Nat)) (t : State) : l.foldl f t = t :=
      List.foldlRecOn (motive := fun u : State => u = t) l f rfl fun u hu x _ => (quiet u x).trans hu
    rw [eq, none]
    exact ⟨_, _, _, rfl⟩
  obtain ⟨ls, v, n, eq⟩ := eq
  rw [eq]
  have stat {k : Nat} (h : k ≠ ecKey LIC_STAT) : ((({ s with flash := { s.flash with licences := ls } } : State).setReg (ecKey LIC_STAT) v).setFld
      (ecKey LIC_STAT) 4 5 n).reg k = s.reg k := (reg_setFld_other _ _ _ _ h).trans (reg_setReg_other _ _ h)
  exact ⟨⟨rfl, rfl, rfl, rfl, rfl, rfl, rfl, stat (by decide), stat (by decide), InputPower.fld_of_reg (stat (by decide)) 0 4, List.prefix_rfl⟩, rfl, rfl,
    rfl, rfl, stat (by decide)⟩

/-- The read of phase 2 in its parts, where the SFDP tables are good or not read. -/
theorem configRead_eq {r : FlashRead} (hph : s.inPhase 2 = true) (fresh : s.boot.cfgDone = false)
    (hsfdp : s.warm = false ∨ r.sfdp.map State.Sfdp.usable = [true, true]) (h0 : s.flash.dev0 = true) (h1 : s.flash.dev1 = true) :
    s.configRead r = (((((s.readCounters r).configSets r).readRmap r.rmapBad).readLicences r.licBad).repairCopies r.bboxBad).configDone := by
  have checked : (if s.warm then s.sfdpCheck r.sfdp else s) = s := by
    rcases hsfdp with cold | usable
    · rw [if_neg (by rw [cold]; decide)]
    · rw [StartFirmware.sfdpCheck_usable usable h0 h1, ite_self]
  unfold State.configRead
  rw [if_neg (by simp [hph, fresh]), checked]

/-- What phase 2 leaves after the configuration set has been read. -/
structure Configured (s t : State) : Prop where
  recs : t.err.recQ = s.err.recQ
  free : t.free = s.free
  bootseq : t.flash.bootseq = s.flash.bootseq
  rseq : t.flash.rseq = s.flash.rseq
  lmsQ : t.flash.lmsQ = s.flash.lmsQ
  nonces : t.flash.nonces = s.flash.nonces + 1
  cfgOk : t.flash.cfgOk = s.flash.cfgOk
  done : t.boot.cfgDone = true
  rmapDone : t.flash.rmapDone = t.flash.rmap
  seq : t.reg (ecKey BOOT_SEQ) = s.reg (ecKey BOOT_SEQ)
  corrected : t.reg (ecKey BBOX_CNT_CC) = s.reg (ecKey BBOX_CNT_CC)
  bus : t.reg (ecKey BAND_BUS_CFG) = s.reg (ecKey BAND_BUS_CFG)
  phase : t.fld (ecKey BOOT_STAT) 0 4 = s.fld (ecKey BOOT_STAT) 0 4

theorem configured (h : s.flash.rmap.all (fun e => e.live) = true) (bad : List (Nat × Nat × List Byte)) :
    Configured s ((((s.readRmap []).readLicences []).repairCopies bad).configDone) := by
  rw [readRmap_live h]
  obtain ⟨reads, err, cfgOk, rmap, rmapDone, bus⟩ := readLicences_reads (rmapIn s (entriesRead s.flash.rmap))
  generalize (rmapIn s (entriesRead s.flash.rmap)).readLicences [] = a at reads err cfgOk rmap rmapDone bus ⊢
  have late {k : Nat} (hk : k ≠ ecKey (BOOT_PTIME + 4 * (2 - 1))) : ((a.repairCopies bad).configDone).reg k = a.reg k := reg_setReg_other _ _ hk
  refine ⟨?_, reads.free, reads.bootseq, reads.rseq, reads.lmsQ, congrArg (· + 1) reads.nonces, cfgOk, rfl, ?_, (late (by decide)).trans reads.seq,
    (late (by decide)).trans reads.corrected, (late (by decide)).trans bus, (InputPower.fld_of_reg (late (by decide)) 0 4).trans reads.phase⟩
  · exact (congrArg Err.recQ err).trans rfl
  · exact rmapDone.trans rmap.symm

/-- Phase 2 with every journal and set readable. -/
theorem configRead_good {r : FlashRead} {v w : Nat} (hph : s.inPhase 2 = true) (fresh : s.boot.cfgDone = false)
    (hsfdp : s.warm = false ∨ r.sfdp.map State.Sfdp.usable = [true, true]) (h0 : s.flash.dev0 = true) (h1 : s.flash.dev1 = true) (hrmap : r.rmapBad = [])
    (hlic : r.licBad = []) (hcal : r.calOk = [true, true]) (live : s.flash.rmap.all (fun e => e.live) = true) (hv : s.ctrRead r.ctrBad 0 = some v)
    (hw : s.ctrRead r.ctrBad 1 = some w) (hcfg : r.cfgOk = [true, true]) :
    ∃ a, CountersRead s a r v w ∧ (a.configSets r).fld (ecKey BAND_BUS_CFG) 0 5 = Config.siteNode s.flash.configSet % 32 ∧
      ReadsOn a (a.configSets r) ∧ (a.configSets r).err.recQ = a.err.recQ ∧ (a.configSets r).flash.cfgOk = true ∧
      Configured (a.configSets r) (s.configRead r) := by
  have counters := readCounters_reads s r (seq := v) (rq := w) (by rw [hv]; rfl) (by rw [hw]; rfl)
  rw [configRead_eq hph fresh hsfdp h0 h1, hrmap, hlic]
  generalize s.readCounters r = a at counters ⊢
  obtain ⟨dev0, dev1, set, rmap, -⟩ := counters.kept
  obtain ⟨reads, recs, ok, rmap', bus⟩ := configSets_good hcfg hcal (dev0.trans h0) (dev1.trans h1)
  exact ⟨a, counters, bus.trans (by rw [set]), reads, recs, ok, configured (by rw [rmap', rmap]; exact live) _⟩

/-- Phase 2 where no record of BOOTSEQ and no copy of the configuration set can be read. -/
theorem configRead_bad {r : FlashRead} (hph : s.inPhase 2 = true) (fresh : s.boot.cfgDone = false)
    (hsfdp : s.warm = false ∨ r.sfdp.map State.Sfdp.usable = [true, true]) (h0 : s.flash.dev0 = true) (h1 : s.flash.dev1 = true) (hrmap : r.rmapBad = [])
    (hlic : r.licBad = []) (hcal : r.calOk = [true, true]) (live : s.flash.rmap.all (fun e => e.live) = true) (hnone : s.ctrRead r.ctrBad 0 = none)
    (hcfg : r.cfgOk = [false, false]) :
    ∃ a rq e, CountersRead s a r (Config.freeWord s.free).toNat rq ∧ ReadsOn a (a.configSets r) ∧ (a.configSets r).flash.cfgOk = false ∧
      (a.configSets r).err.recQ = a.err.recQ ++ [e] ∧ e.cls = 0x82 ∧ e.detail = 2 ∧ Configured (a.configSets r) (s.configRead r) := by
  have counters := readCounters_reads s r (seq := (Config.freeWord s.free).toNat) (by rw [hnone]; rfl) rfl
  rw [configRead_eq hph fresh hsfdp h0 h1, hrmap, hlic]
  generalize s.readCounters r = a at counters ⊢
  obtain ⟨dev0, dev1, -, rmap, -⟩ := counters.kept
  obtain ⟨reads, bad, rmap', e, he, hcls, hdet⟩ := configSets_bad hcfg hcal (dev0.trans h0) (dev1.trans h1)
  exact ⟨a, _, e, counters, reads, bad, he, hcls, hdet, configured (by rw [rmap', rmap]; exact live) _⟩

end Sys2Proof.StartConfig
end

section
/-! PROOFS. Phase 3 of a start: dies power up, their regions turn on (R342-R357, R457-R459). -/

namespace Sys2Proof.StartPower

open Sys2Proof Sys2Proof.Machine Sys2Proof.Laws Sys2Proof.Clauses
open Sys2Proof.StartPhases (within_same phase_of_inPhase phaseEnds_endPhase)
open Sys2Proof.PowerRails (ldoKey_eq)
open Sys2Proof.InputPower (dieKey_ne_ldo ecKey_ne_ldo)
open Sys2Proof.RegionCommands (RailOn railOn_keeps now_of_within)

variable {s t u : State}

/-! ### Rails of a region (R356, R357) -/

/-- Whether a rail of a region cannot be powered. -/
def deadRail (s : State) (r rail : Nat) : Bool :=
  Nat.ble 3 ((List.range 4).countP fun k => s.fused 4 (regionDie r) (locSlice (regionRx r) (regionRy r) rail k)) ||
    s.fused (2 + rail) (regionDie r) (locRegion (regionRx r) (regionRy r))

/-- A rail at a start in which no slice is found failed: its slices with entries are out. -/
theorem railStart_quiet (s : State) (r rail : Nat) : ∃ t, s.railStart r rail [] = (t, !deadRail s r rail) ∧ s.within [.regs] t ∧ s.regsBut t [ldoKey r rail] := by
  have new : ((List.range 4).filter fun k => ([] : List Nat).contains k && !((List.range 4).filter fun k =>
      s.fused 4 (regionDie r) (locSlice (regionRx r) (regionRy r) rail k)).contains k) = [] :=
    List.filter_eq_nil_iff.2 fun k _ => by simp
  unfold State.railStart deadRail
  dsimp only
  rw [new, List.countP_eq_length_filter]
  simp only [List.append_nil, List.foldl_nil, List.length_nil, Nat.add_zero, List.isEmpty_nil, if_true]
  refine ⟨_, rfl, within_setFld (List.Subset.refl _) (within_foldl _ (fun _ _ h => within_setFld (List.Subset.refl _) h) (within_refl s)), fun k hk => ?_⟩
  have other : k ≠ ldoKey r rail := fun e => hk (List.mem_singleton.2 e)
  refine (reg_setFld_other _ _ _ _ other).trans ?_
  exact List.foldlRecOn (motive := fun u : State => u.reg k = s.reg k) _ _ rfl fun u hu _ _ => (reg_setFld_other _ _ _ _ other).trans hu

theorem deadRail_congr (h : t.flash = s.flash) (r rail : Nat) : deadRail t r rail = deadRail s r rail := by
  unfold deadRail State.fused State.isHard State.hardFuses
  rw [h]

/-- What a region's start leaves: the switches as the fuses allow, and the first stage of the turn-on asked for. -/
structure RegionStarted (s t : State) (r : Nat) : Prop where
  st : (t.region r).st = if deadRail s r 1 = true then 6 else if deadRail s r 0 = true then 5 else 2
  on : (t.region r).on = if deadRail s r 1 = true ∨ deadRail s r 0 = true then none else some (State.TurnOn.first s.now (r % 64) false false)
  router : deadRail s r 1 = false → t.fld (ldoKey r 1) 0 6 = 30 ∧ t.fld (ldoKey r 1) 17 1 = 1

/-- The start of a region without a slice found failed. -/
theorem regionStart_starts (s : State) (r : Nat) : RegionStarted s (s.regionStart r []) r ∧ s.within [.regs, .regions] (s.regionStart r []) ∧
    s.regsBut (s.regionStart r []) [ldoKey r 0, ldoKey r 1] ∧ s.regionsBut (s.regionStart r []) r := by
  obtain ⟨a, ha, wa, ra⟩ := railStart_quiet s r 0
  obtain ⟨b, hb, wb, rb⟩ := railStart_quiet a r 1
  have wab := within_trans wa wb
  have flash : a.flash = s.flash := within_same wa .flash (by decide)
  rw [deadRail_congr flash] at hb
  have two {k : Nat} (hk : k ∉ [ldoKey r 0, ldoKey r 1]) : b.reg k = s.reg k :=
    (rb k fun h => hk (List.mem_cons_of_mem _ h)).trans (ra k fun h => hk (List.mem_cons.2 (.inl (List.mem_singleton.1 h))))
  have eq : ∃ cap, s.regionStart r [] = (if (!deadRail s r 1) = true then b.railOn r 1 else b).setRegion r { Region.reset with
      st := if !!deadRail s r 1 then 6 else if !!deadRail s r 0 then 5 else 2, sliceCap := cap,
      on := if !deadRail s r 1 && !deadRail s r 0 then some (State.TurnOn.first s.now (r % 64) false false) else none } := by
    unfold State.regionStart
    simp only [List.filterMap_nil, ha, hb]
    exact ⟨_, rfl⟩
  obtain ⟨cap, eq⟩ := eq
  rw [eq]
  have on := railOn_keeps b r 1
  have wc : s.within [.regs] (if (!deadRail s r 1) = true then b.railOn r 1 else b) := by
    split
    · exact within_trans wab on.reach
    · exact wab
  have rc : s.regsBut (if (!deadRail s r 1) = true then b.railOn r 1 else b) [ldoKey r 0, ldoKey r 1] := fun k hk => by
    split
    · exact (on.other k fun h => hk (List.mem_cons_of_mem _ h)).trans (two hk)
    · exact two hk
  have powered : deadRail s r 1 = false → (if (!deadRail s r 1) = true then b.railOn r 1 else b).fld (ldoKey r 1) 0 6 = 30 ∧
      (if (!deadRail s r 1) = true then b.railOn r 1 else b).fld (ldoKey r 1) 17 1 = 1 := fun live => by
    rw [live]
    exact ⟨on.vset, on.gate⟩
  generalize (if (!deadRail s r 1) = true then b.railOn r 1 else b) = c at wc rc powered ⊢
  refine ⟨⟨?_, ?_, powered⟩, within_setRegion (by decide) (within_mono wc (by decide)), rc, fun q hq => ?_⟩
  · rw [region_setRegion_same]
    cases deadRail s r 1 <;> cases deadRail s r 0 <;> rfl
  · rw [region_setRegion_same]
    cases deadRail s r 1 <;> cases deadRail s r 0 <;> rfl
  · rw [region_setRegion, if_neg hq]
    exact RegionCommands.region_of_regions (within_same wc .regions (by decide)) q

theorem RegionStarted.mono {r : Nat} (h : RegionStarted s t r) (hr : u.region r = t.region r) (hk : u.reg (ldoKey r 1) = t.reg (ldoKey r 1)) :
    RegionStarted s u r where
  st := (congrArg Region.st hr).trans h.st
  on := (congrArg Region.on hr).trans h.on
  router live := (h.router live).imp (InputPower.fld_of_reg hk 0 6).trans (InputPower.fld_of_reg hk 17 1).trans

theorem RegionStarted.of_before {r : Nat} (h : RegionStarted t u r) (flash : t.flash = s.flash) (now : t.now = s.now) : RegionStarted s u r where
  st := h.st.trans (by rw [deadRail_congr flash, deadRail_congr flash])
  on := h.on.trans (by rw [deadRail_congr flash, deadRail_congr flash, now])
  router live := h.router ((deadRail_congr flash r 1).trans live)

/-- The first `n` regions of die `d` have started. -/
def startedRegions (s : State) (d n : Nat) : State := (List.range n).foldl (fun t i => t.regionStart (d * 64 + i) []) s

structure RegionsStarted (s t : State) (d n : Nat) : Prop where
  reach : s.within [.regs, .regions] t
  started : ∀ i, i < n → RegionStarted s t (d * 64 + i)
  others : ∀ r, (∀ i, i < n → r ≠ d * 64 + i) → t.region r = s.region r
  reg : ∀ k, (∀ i rail, i < n → rail < 2 → k ≠ ldoKey (d * 64 + i) rail) → t.reg k = s.reg k

theorem startedRegions_start (s : State) (d n : Nat) (hn : n ≤ 64) : RegionsStarted s (startedRegions s d n) d n := by
  induction n with
  | zero => exact ⟨within_refl s, fun i hi => absurd hi (Nat.not_lt_zero i), fun _ _ => rfl, fun _ _ => rfl⟩
  | succ n ih =>
    have before := ih (by omega)
    have eq : startedRegions s d (n + 1) = (startedRegions s d n).regionStart (d * 64 + n) [] := by
      unfold startedRegions
      rw [List.range_succ, List.foldl_append]
      rfl
    rw [eq]
    generalize startedRegions s d n = a at before ⊢
    obtain ⟨started, reach, regs, regions⟩ := regionStart_starts a (d * 64 + n)
    refine ⟨within_trans before.reach reach, fun i hi => ?_, fun r hr => ?_, fun k hk => ?_⟩
    · rcases Nat.lt_succ_iff_lt_or_eq.1 hi with hlt | rfl
      · refine (before.started i hlt).mono (regions _ (by omega)) (regs _ fun h => ?_)
        simp only [List.mem_cons, List.not_mem_nil, or_false, ldoKey_eq] at h
        omega
      · exact started.of_before (within_same before.reach .flash (by decide)) (now_of_within before.reach)
    · exact (regions r (hr n (Nat.lt_succ_self n))).trans (before.others r fun i hi => hr i (Nat.lt_succ_of_lt hi))
    · refine (regs k fun h => ?_).trans (before.reg k fun i rail hi => hk i rail (Nat.lt_succ_of_lt hi))
      simp only [List.mem_cons, List.not_mem_nil, or_false] at h
      exact h.elim (hk n 0 (Nat.lt_succ_self n) (by decide)) (hk n 1 (Nat.lt_succ_self n) (by decide))

/-! ### A die powers up (R342, R345, R458, R459, R482) -/

/-- The ports of a list that `c` picks, each changed by `f`: what `f` gives, they have. -/
theorem foldl_setHport {P : HPort → Prop} {f : HPort → HPort} (hf : ∀ x, P (f x)) (c : Nat → Prop) [DecidablePred c] (l : List Nat) : ∀ t : State,
    (∀ p, P (t.hport p) → P ((l.foldl (fun t p => if c p then t.setHport p (f (t.hport p)) else t) t).hport p)) ∧
    ∀ p ∈ l, c p → P ((l.foldl (fun t p => if c p then t.setHport p (f (t.hport p)) else t) t).hport p) := by
  induction l with
  | nil => exact fun t => ⟨fun _ h => h, fun p hp => absurd hp List.not_mem_nil⟩
  | cons q l ih =>
    intro t
    rw [List.foldl_cons]
    by_cases hq : c q
    · rw [if_pos hq]
      obtain ⟨kept, all⟩ := ih (t.setHport q (f (t.hport q)))
      have struck : P ((t.setHport q (f (t.hport q))).hport q) := by
        rw [hport_setHport_same]
        exact hf _
      refine ⟨fun p hp => kept p ?_, fun p hp hpd => (List.mem_cons.1 hp).elim (fun e => kept p (e ▸ struck)) fun hl => all p hl hpd⟩
      by_cases e : p = q
      · exact e ▸ struck
      · rw [hport_setHport, if_neg e]
        exact hp
    · rw [if_neg hq]
      obtain ⟨kept, all⟩ := ih t
      exact ⟨kept, fun p hp hpd => (List.mem_cons.1 hp).elim (fun e => absurd (e ▸ hpd) hq) fun hl => all p hl hpd⟩

/-- The ports of die `d` are powered. -/
theorem portPower_powers (s : State) (d : Nat) : ∀ p ∈ s.part.ports, portDie p = d → ((s.portPower d).hport p).powered = true :=
  (foldl_setHport (P := fun x => x.powered = true) (f := fun x => { x with powered := true }) (fun _ => rfl) (fun p => portDie p = d) s.part.ports s).2

/-- The eFuses are shown in their own block. -/
theorem reg_fuseRegs (s : State) (d : Nat) {k : Nat} (hk : k ∉ [dieKey d FUSE_STAT, dieKey d FUSE_SVN, dieKey d FUSE_SERIAL, dieKey d FUSE_DIE_ID]) :
    (s.fuseRegs d).reg k = s.reg k := by
  simp only [List.mem_cons, List.not_mem_nil, or_false, not_or] at hk
  obtain ⟨hstat, hsvn, hserial, hid⟩ := hk
  exact (reg_setReg_other _ _ hid).trans ((reg_setReg_other _ _ hserial).trans ((reg_setReg_other _ _ hsvn).trans (reg_setReg_other _ _ hstat)))

/-- A die's own supply: there already where a warm restart follows no stop of it, else its converter's. -/
def suppliedDie (s : State) (d : Nat) : State :=
  if s.warm && (s.die d).supplied then s else (s.dieSupply d).setDie d { Die.reset with supplied := true }

theorem reg_dieSupply (s : State) (d : Nat) {k : Nat} (hc : ∀ e, k ≠ dieKey e PWR_CONV) (hv : k ≠ dieKey d PWR_FIELD_V) : (s.dieSupply d).reg k = s.reg k := by
  have spare : (if d = 0 ∧ s.fld (dieKey d PWR_CONV) 3 4 = 0xF then s.setAll PWR_CONV 2 1 1 else s).reg k = s.reg k := by
    split
    · exact (PowerRails.setAll_keeps s 1 (by decide)).away hc
    · rfl
  unfold State.dieSupply
  dsimp only
  rw [reg_setFld_other _ _ _ _ hv]
  generalize (if d = 0 ∧ s.fld (dieKey d PWR_CONV) 3 4 = 0xF then s.setAll PWR_CONV 2 1 1 else s) = a at spare ⊢
  split
  · exact spare
  · exact (reg_setFld_other _ _ _ _ (hc d)).trans spare

theorem suppliedDie_supplies (s : State) (d : Nat) : ((suppliedDie s d).die d).supplied = true ∧ s.within [.regs, .dies] (suppliedDie s d) ∧
    ∀ k, (∀ e, k ≠ dieKey e PWR_CONV) → k ≠ dieKey d PWR_FIELD_V → (suppliedDie s d).reg k = s.reg k := by
  unfold suppliedDie
  by_cases h : (s.warm && (s.die d).supplied) = true
  · rw [if_pos h]
    exact ⟨(Bool.and_eq_true_iff.1 h).2, within_refl s, fun _ _ _ => rfl⟩
  · rw [if_neg h]
    refine ⟨congrArg Die.supplied (die_setDie_same ..), within_setDie (by decide) (within_dieSupply (by decide) (within_refl s)), fun k hc hv => ?_⟩
    exact (setDie_reg ..).trans (reg_dieSupply s d hc hv)

/-- The die with its controller, its phases and its ports. -/
def equippedDie (s : State) (d : Nat) : State :=
  ((((suppliedDie s d).phasesBack d).setDie d { (suppliedDie s d).die d with ctlOk := true }).portPower d).fuseRegs d

/-- The die in its place in the start: the standby begins its watch, the controller of d0 resumes the engine's. -/
def readiedDie (s : State) (d : Nat) : State :=
  let s2 := equippedDie s d
  let s3 := if d = s.part.standby ∧ s2.boot.standbyAt = none then s2.setBoot { s2.boot with standbyAt := some s.now } else s2
  if d = 0 ∧ s.ctlDie ≠ 0 then (s3.setFld (ecKey BOOT_STAT) 7 3 0).setFld (ecKey BOOT_STAT) 10 1 0 else s3

theorem dieUp_eq (s : State) (d : Nat) : s.dieUp d [] = startedRegions (readiedDie s d) d 64 := rfl

/-- What the power-up of a die leaves, before its regions turn on. -/
structure DieReadied (s t : State) (d : Nat) : Prop where
  reach : s.within [.regs, .dies, .hports, .boot] t
  supplied : (t.die d).supplied = true
  ctlOk : (t.die d).ctlOk = true
  phases : t.fld (dieKey d PWR_PHASE) 0 28 = 0xFFFFFFF
  limit : t.fld (dieKey d PWR_DIE_I) 16 12 = State.ilim 28
  ports : ∀ p ∈ s.part.ports, portDie p = d → (t.hport p).powered = true
  stat : t.fld (ecKey BOOT_STAT) 0 4 = s.fld (ecKey BOOT_STAT) 0 4 ∧ t.fld (ecKey BOOT_STAT) 13 1 = s.fld (ecKey BOOT_STAT) 13 1
  boot : ∃ x, t.boot = { s.boot with standbyAt := x }

theorem equippedDie_equips (s : State) (d : Nat) : s.within [.regs, .dies, .hports] (equippedDie s d) ∧ ((equippedDie s d).die d).supplied = true ∧
    ((equippedDie s d).die d).ctlOk = true ∧ (equippedDie s d).fld (dieKey d PWR_PHASE) 0 28 = 0xFFFFFFF ∧
    (equippedDie s d).fld (dieKey d PWR_DIE_I) 16 12 = State.ilim 28 ∧
    (∀ p ∈ s.part.ports, portDie p = d → ((equippedDie s d).hport p).powered = true) ∧ (equippedDie s d).reg (ecKey BOOT_STAT) = s.reg (ecKey BOOT_STAT) := by
  obtain ⟨supplied, ws, regs⟩ := suppliedDie_supplies s d
  unfold equippedDie
  generalize suppliedDie s d = a at supplied ws regs ⊢
  have wp := within_phasesBack (d := d) (List.Subset.refl _) (within_refl a)
  have phases : (a.phasesBack d).fld (dieKey d PWR_PHASE) 0 28 = 0xFFFFFFF := by
    refine (fld_setFld_other _ _ _ _ _ _ ?_).trans (fld_setReg_same _ _ 0 28 _)
    simp only [dieKey, PWR_PHASE, PWR_DIE_I, ne_eq]
    omega
  have limit : (a.phasesBack d).fld (dieKey d PWR_DIE_I) 16 12 = State.ilim 28 := (fld_setFld_same _ _ (by decide)).trans (by decide)
  have stat : (a.phasesBack d).reg (ecKey BOOT_STAT) = a.reg (ecKey BOOT_STAT) := by
    refine (reg_setFld_other _ _ _ _ ?_).trans (reg_setReg_other _ _ ?_) <;>
      (simp only [dieKey, ecKey, PWR_PHASE, PWR_DIE_I, BOOT_STAT, ne_eq]; omega)
  have supplies : ∀ e, ecKey BOOT_STAT ≠ dieKey e PWR_CONV := fun e => by
    simp only [dieKey, ecKey, PWR_CONV, BOOT_STAT, ne_eq]
    omega
  have rail : ecKey BOOT_STAT ≠ dieKey d PWR_FIELD_V := by
    simp only [dieKey, ecKey, PWR_FIELD_V, BOOT_STAT, ne_eq]
    omega
  have die : ((a.phasesBack d).setDie d { a.die d with ctlOk := true }).die d = { a.die d with ctlOk := true } := die_setDie_same ..
  have regs' (k : Nat) : ((a.phasesBack d).setDie d { a.die d with ctlOk := true }).reg k = (a.phasesBack d).reg k := setDie_reg ..
  have wd := within_setDie (d := d) (x := { a.die d with ctlOk := true }) (List.Subset.refl _) (within_refl (a.phasesBack d))
  generalize (a.phasesBack d).setDie d { a.die d with ctlOk := true } = b at die regs' wd ⊢
  have wports := within_portPower (d := d) (List.Subset.refl _) (within_refl b)
  have wfuses := within_fuseRegs (d := d) (List.Subset.refl _) (within_refl (b.portPower d))
  have reach : b.within [.regs, .hports] ((b.portPower d).fuseRegs d) := within_trans (within_mono wports (by decide)) (within_mono wfuses (by decide))
  have same {k : Nat} (hk : k ∉ [dieKey d FUSE_STAT, dieKey d FUSE_SVN, dieKey d FUSE_SERIAL, dieKey d FUSE_DIE_ID]) :
      ((b.portPower d).fuseRegs d).reg k = (a.phasesBack d).reg k :=
    (reg_fuseRegs _ d hk).trans ((reg_of_regs wports.1 (within_same wports .regs (by decide)) k).trans (regs' k))
  have low {o : Nat} (ho : o < 0x70000) : dieKey d o ∉ [dieKey d FUSE_STAT, dieKey d FUSE_SVN, dieKey d FUSE_SERIAL, dieKey d FUSE_DIE_ID] := by
    simp only [dieKey, FUSE_STAT, FUSE_SVN, FUSE_SERIAL, FUSE_DIE_ID, List.mem_cons, List.not_mem_nil, or_false]
    omega
  have engine : ecKey BOOT_STAT ∉ [dieKey d FUSE_STAT, dieKey d FUSE_SVN, dieKey d FUSE_SERIAL, dieKey d FUSE_DIE_ID] := by
    simp only [dieKey, ecKey, BOOT_STAT, FUSE_STAT, FUSE_SVN, FUSE_SERIAL, FUSE_DIE_ID, List.mem_cons, List.not_mem_nil, or_false]
    omega
  have dies : ((b.portPower d).fuseRegs d).die d = { a.die d with ctlOk := true } :=
    (congrArg (fun m => SMap.get m d Die.reset) (within_same reach .dies (by decide))).trans die
  refine ⟨?_, ?_, ?_, ?_, ?_, fun p hp hpd => ?_, ?_⟩
  · exact within_trans (within_mono ws (by decide)) (within_trans (within_mono wp (by decide)) (within_trans (within_mono wd (by decide)) (within_mono reach (by decide))))
  · rw [dies]
    exact supplied
  · rw [dies]
  · exact (InputPower.fld_of_reg (same (low (by decide))) 0 28).trans phases
  · exact (InputPower.fld_of_reg (same (low (by decide))) 16 12).trans limit
  · have ports : b.part.ports = s.part.ports := congrArg Part.ports (wd.1.trans (wp.1.trans ws.1))
    have powered := portPower_powers b d p (ports.symm ▸ hp) hpd
    exact (congrArg (fun m => (SMap.get m p HPort.reset).powered) (within_same wfuses .hports (by decide))).trans powered
  · exact (same engine).trans (stat.trans (regs _ supplies rail))

theorem readiedDie_readies (s : State) (d : Nat) : DieReadied s (readiedDie s d) d := by
  obtain ⟨we, supplied, ctlOk, phases, limit, ports, stat⟩ := equippedDie_equips s d
  unfold readiedDie
  dsimp only
  generalize equippedDie s d = a at we supplied ctlOk phases limit ports stat ⊢
  have boot : a.boot = s.boot := within_same we .boot (by decide)
  have watched : ∃ x, (if d = s.part.standby ∧ a.boot.standbyAt = none then a.setBoot { a.boot with standbyAt := some s.now } else a) =
      a.setBoot { s.boot with standbyAt := x } := by
    split
    · exact ⟨some s.now, by rw [boot]⟩
    · exact ⟨s.boot.standbyAt, by rw [← boot]; rfl⟩
  obtain ⟨x, hx⟩ := watched
  rw [hx]
  have wb : s.within [.regs, .dies, .hports, .boot] (a.setBoot { s.boot with standbyAt := x }) := within_setBoot (by decide) (within_mono we (by decide))
  by_cases h : d = 0 ∧ s.ctlDie ≠ 0
  · rw [if_pos h]
    have other {k : Nat} (hk : k ≠ ecKey BOOT_STAT) : (((a.setBoot { s.boot with standbyAt := x }).setFld (ecKey BOOT_STAT) 7 3 0).setFld
        (ecKey BOOT_STAT) 10 1 0).reg k = a.reg k := (reg_setFld_other _ _ _ _ hk).trans (reg_setFld_other _ _ _ _ hk)
    have key (o : Nat) : dieKey d o ≠ ecKey BOOT_STAT := by
      simp only [dieKey, ecKey, BOOT_STAT, ne_eq]
      omega
    refine ⟨within_setFld (by decide) (within_setFld (by decide) wb), supplied, ctlOk, ?_, ?_, ports, ⟨?_, ?_⟩, x, rfl⟩
    · exact (InputPower.fld_of_reg (other (key _)) 0 28).trans phases
    · exact (InputPower.fld_of_reg (other (key _)) 16 12).trans limit
    · refine (fld_setFld_apart _ _ (by decide) (.inl (by decide))).trans ((fld_setFld_apart _ _ (by decide) (.inl (by decide))).trans ?_)
      exact InputPower.fld_of_reg stat 0 4
    · refine (fld_setFld_apart _ _ (by decide) (.inr (by decide))).trans ((fld_setFld_apart _ _ (by decide) (.inr (by decide))).trans ?_)
      exact InputPower.fld_of_reg stat 13 1
  · rw [if_neg h]
    exact ⟨wb, supplied, ctlOk, phases, limit, ports, ⟨InputPower.fld_of_reg stat 0 4, InputPower.fld_of_reg stat 13 1⟩, x, rfl⟩

/-! ### A die's turn (R459) -/

/-- The input limit that a start sets with die 0's turn. -/
def limitSet (s : State) (d : Nat) : State :=
  if d = 0 then s.setAll PWR_BLADE 22 10 (if s.fld (dieKey 0 PWR_BLADE) 20 2 = 0 then s.part.limitTwo else s.part.limitOne) else s

theorem limitSet_keeps (s : State) (d : Nat) : s.within [.regs] (limitSet s d) ∧ ∀ k, (∀ e, k ≠ dieKey e PWR_BLADE) → (limitSet s d).reg k = s.reg k := by
  unfold limitSet
  split
  · have set := PowerRails.setAll_keeps s (o := PWR_BLADE) (lo := 22) (w := 10)
      (if s.fld (dieKey 0 PWR_BLADE) 20 2 = 0 then s.part.limitTwo else s.part.limitOne) (by decide)
    exact ⟨set.reach, fun k hk => set.away hk⟩
  · exact ⟨within_refl s, fun _ _ => rfl⟩

/-- The turn is over: the next die's, or the end of the phase. -/
def turnDone (t : State) (d : Nat) : State := (t.setBoot { t.boot with nextDie := d + 1 }).powerSettle

/-- A die's turn, in its parts. -/
theorem diePowerUp_eq {d : Nat} {ok ctl : Bool} {bad : List (Nat × Nat × Nat)} (hph : s.inPhase 3 = true) (hd : s.boot.nextDie = d) (hlt : d < s.part.dies)
    (hin : (s.boot.excluded.find? fun e => e.1 == d) = none) (turns : s.turningOn = false ∨ s.boot.kind = 2) : s.diePowerUp d ok ctl bad =
    turnDone (if (!ok) = true then (limitSet s d).excludeDie d 3 false else if (!ctl) = true then (limitSet s d).excludeDie d 5 false
      else (limitSet s d).dieUp d bad) d := by
  have phase : s.phase = 3 := phase_of_inPhase hph
  have free : ¬ (s.boot.nextDie ≠ d ∨ s.part.dies ≤ d ∨ (s.boot.kind ≠ 2 ∧ s.turningOn = true)) := by
    rintro (h | h | ⟨h, on⟩)
    · exact h hd
    · omega
    · rcases turns with off | warm
      · rw [off] at on
        exact Bool.false_ne_true on
      · exact h warm
  have boot : (limitSet s d).boot = s.boot := within_same (limitSet_keeps s d).1 .boot (by decide)
  unfold State.diePowerUp
  rw [if_neg (by simp [State.powerPhase, hph])]
  dsimp only
  rw [show (if s.phase = 2 then s.startPhase 3 else s) = s from if_neg (by rw [phase]; decide), if_neg free]
  have found : ((limitSet s d).boot.excluded.find? fun e => e.1 == d) = none := by
    rw [boot]
    exact hin
  unfold limitSet at found ⊢
  rw [found]
  rfl

theorem inPhase_congr {p : Nat} (off : t.boot.off = s.boot.off) (rst : t.boot.modRst = s.boot.modRst)
    (stat : t.fld (ecKey BOOT_STAT) 0 4 = s.fld (ecKey BOOT_STAT) 0 4 ∧ t.fld (ecKey BOOT_STAT) 13 1 = s.fld (ecKey BOOT_STAT) 13 1) :
    t.inPhase p = s.inPhase p := by
  unfold State.inPhase State.phase
  rw [off, rst, stat.1, stat.2]

theorem turningOn_congr (h : t.regions = s.regions) : t.turningOn = s.turningOn := by
  unfold State.turningOn
  rw [h]

/-- Phase 3 goes on while a die has its turn or a region turns on, and ends otherwise. -/
theorem powerSettle_eq (hph : s.inPhase 3 = true) :
    s.powerSettle = if s.boot.nextDie < s.part.dies ∨ s.turningOn = true then s else s.endPhase 3 := by
  unfold State.powerSettle
  rw [hph, Bool.true_and]
  by_cases more : s.boot.nextDie < s.part.dies ∨ s.turningOn = true
  · rw [if_pos more]
    refine if_neg fun h => ?_
    obtain ⟨last, off⟩ := Bool.and_eq_true_iff.1 h
    rcases more with lt | on
    · exact absurd (Nat.le_of_ble_eq_true last) (Nat.not_le.2 lt)
    · rw [on] at off
      exact Bool.false_ne_true off
  · rw [if_neg more]
    obtain ⟨last, off⟩ := not_or.1 more
    exact if_pos (Bool.and_eq_true_iff.2 ⟨Nat.ble_eq_true_of_le (Nat.not_lt.1 last), by rw [Bool.eq_false_iff.2 off]; rfl⟩)

/-- What the end of a die's turn leaves of the state after its power-up. -/
structure TurnDone (s a t : State) (d : Nat) : Prop where
  reach : a.within [.regs, .boot] t
  reg : ∀ k, k ≠ ecKey BOOT_STAT → k ≠ ecKey (BOOT_PTIME + 4 * (3 - 1)) → t.reg k = a.reg k
  next : if d + 1 < s.part.dies ∨ t.turningOn = true then t.boot.nextDie = d + 1 ∧ t.fld (ecKey BOOT_STAT) 0 4 = 3 else s.phaseEnds t 3

theorem turnDone_done {a : State} (d : Nat) (hph : s.inPhase 3 = true) (part : a.part = s.part) (now : a.now = s.now) (off : a.boot.off = s.boot.off)
    (rst : a.boot.modRst = s.boot.modRst) (start : a.boot.phaseStart = s.boot.phaseStart)
    (stat : a.fld (ecKey BOOT_STAT) 0 4 = s.fld (ecKey BOOT_STAT) 0 4 ∧ a.fld (ecKey BOOT_STAT) 13 1 = s.fld (ecKey BOOT_STAT) 13 1) :
    TurnDone s a (turnDone a d) d := by
  have moved : a.within [.regs, .boot] (a.setBoot { a.boot with nextDie := d + 1 }) := within_setBoot (by decide) (within_refl a)
  have hph' : (a.setBoot { a.boot with nextDie := d + 1 }).inPhase 3 = true := (inPhase_congr (s := s) off rst stat).trans hph
  unfold turnDone
  rw [powerSettle_eq hph']
  by_cases more : d + 1 < s.part.dies ∨ a.turningOn = true
  · have more' : (a.setBoot { a.boot with nextDie := d + 1 }).boot.nextDie < (a.setBoot { a.boot with nextDie := d + 1 }).part.dies ∨
        (a.setBoot { a.boot with nextDie := d + 1 }).turningOn = true := more.imp (fun h => by
      show d + 1 < a.part.dies
      rw [part]
      exact h) id
    rw [if_pos more']
    refine ⟨moved, fun _ _ _ => rfl, ?_⟩
    show if d + 1 < s.part.dies ∨ a.turningOn = true then _ else _
    rw [if_pos more]
    exact ⟨rfl, stat.1.trans (phase_of_inPhase hph)⟩
  · have over' : ¬ ((a.setBoot { a.boot with nextDie := d + 1 }).boot.nextDie < (a.setBoot { a.boot with nextDie := d + 1 }).part.dies ∨
        (a.setBoot { a.boot with nextDie := d + 1 }).turningOn = true) := fun h => more (h.imp_left fun h => by
      rw [← part]
      exact h)
    rw [if_neg over']
    refine ⟨within_endPhase (by decide) moved, fun k h1 h2 => StartPhases.reg_endPhase _ 3 h1 h2, ?_⟩
    show if d + 1 < s.part.dies ∨ a.turningOn = true then _ else _
    rw [if_neg more]
    exact phaseEnds_endPhase _ 3 (by decide) (by decide) now start

/-! ### Exclusion (R64, R66) -/

/-- The ports of a die go out of service. -/
structure UnitsOut (s t : State) (d : Nat) : Prop where
  reach : s.within [.regs, .hports] t
  ports : ∀ p ∈ s.part.ports, portDie p = d → (t.hport p).up = false ∧ (t.hport p).powered = false
  links : ∀ p, p < 3 → t.pstate d p = 6
  reg : ∀ k, (∀ p, p < 3 → k ≠ fabKey d p FAB_PSTAT) → t.reg k = s.reg k

theorem dieUnitsOut_out (s : State) (d : Nat) : UnitsOut s (s.dieUnitsOut d) d := by
  have hw := within_dieUnitsOut (d := d) (List.Subset.refl _) (within_refl s)
  have ports := (foldl_setHport (P := fun x => x.up = false ∧ x.powered = false) (f := fun x => { HPort.reset with perst := x.perst })
    (fun _ => ⟨rfl, rfl⟩) (fun p => portDie p = d) s.part.ports s).2
  unfold State.dieUnitsOut at hw ⊢
  dsimp only at hw ⊢
  have quiet : s.within [.hports] (s.part.ports.foldl (fun t p => if portDie p = d then t.setHport p { HPort.reset with perst := (t.hport p).perst } else t) s) :=
    within_foldl _ (fun t p h => by
      split
      · exact within_setHport (List.Subset.refl _) h
      · exact h) (within_refl s)
  generalize s.part.ports.foldl (fun t p => if portDie p = d then t.setHport p { HPort.reset with perst := (t.hport p).perst } else t) s = a at hw ports quiet ⊢
  have keys {p q : Nat} (hp : p < 3) (hq : q < 3) (h : p ≠ q) : fabKey d p FAB_PSTAT ≠ fabKey d q FAB_PSTAT := by
    simp only [fabKey, dieKey, FAB_PSTAT, ne_eq]
    omega
  have last : (List.range 3).foldl (fun t p => t.setPstate d p 6) a = ((a.setPstate d 0 6).setPstate d 1 6).setPstate d 2 6 := rfl
  rw [last] at hw ⊢
  refine ⟨hw, fun p hp hpd => ports p hp hpd, fun p hp => ?_, fun k hk => ?_⟩
  · have set (t : State) : (t.setPstate d p 6).pstate d p = 6 := fld_setFld_same _ _ (by decide)
    have other (t : State) {q : Nat} (hq : q < 3) (h : p ≠ q) : (t.setPstate d q 6).pstate d p = t.pstate d p := fld_setFld_other _ _ _ _ _ _ (keys hp hq h)
    obtain rfl | rfl | rfl : p = 0 ∨ p = 1 ∨ p = 2 := by omega
    · rw [other _ (by decide) (by decide), other _ (by decide) (by decide), set]
    · rw [other _ (by decide) (by decide), set]
    · exact set _
  · refine (reg_setFld_other _ _ _ _ (hk 2 (by decide))).trans ((reg_setFld_other _ _ _ _ (hk 1 (by decide))).trans
      ((reg_setFld_other _ _ _ _ (hk 0 (by decide))).trans ?_))
    exact reg_of_regs quiet.1 (within_same quiet .regs (by decide)) k

/-- What the exclusion of a die leaves. -/
structure DieExcluded (s t : State) (d reason : Nat) : Prop where
  reach : s.within [.regs, .hports, .err] t
  state : t.dieState d = 3
  logged : s.logs t 0x8A (.dieUnit d 0) (reason + d * 2 ^ 8)
  links : ∀ p, p < 3 → t.pstate d p = 6
  ports : ∀ p ∈ s.part.ports, portDie p = d → (t.hport p).up = false ∧ (t.hport p).powered = false
  stat : t.fld (ecKey BOOT_STAT) 0 4 = s.fld (ecKey BOOT_STAT) 0 4 ∧ t.fld (ecKey BOOT_STAT) 13 1 = s.fld (ecKey BOOT_STAT) 13 1

/-- The standby takes over where the engine's controller goes (R458). -/
theorem handedOver_keeps (s : State) (x : Nat) : (∀ k, k ≠ ecKey BOOT_STAT → ((s.setFld (ecKey BOOT_STAT) 7 3 x).setFld (ecKey BOOT_STAT) 10 1 1).reg k = s.reg k) ∧
    ((s.setFld (ecKey BOOT_STAT) 7 3 x).setFld (ecKey BOOT_STAT) 10 1 1).fld (ecKey BOOT_STAT) 0 4 = s.fld (ecKey BOOT_STAT) 0 4 ∧
    ((s.setFld (ecKey BOOT_STAT) 7 3 x).setFld (ecKey BOOT_STAT) 10 1 1).fld (ecKey BOOT_STAT) 13 1 = s.fld (ecKey BOOT_STAT) 13 1 :=
  ⟨fun _ hk => (reg_setFld_other _ _ _ _ hk).trans (reg_setFld_other _ _ _ _ hk),
    (fld_setFld_apart _ _ (by decide) (.inl (by decide))).trans (fld_setFld_apart _ _ (by decide) (.inl (by decide))),
    (fld_setFld_apart _ _ (by decide) (.inr (by decide))).trans (fld_setFld_apart _ _ (by decide) (.inr (by decide)))⟩

theorem excludeDie_excludes (s : State) {d : Nat} (hd : d < 32) (reason : Nat) : DieExcluded s (s.excludeDie d reason false) d reason := by
  have reach := within_excludeDie (d := d) (reason := reason) (inService := false) (List.Subset.refl _) (within_refl s)
  have state : (((s.setFld (ecKey BOOT_DIE_STATE) (2 * d) 2 3).raise 0x8A (.dieUnit d 0) (reason + d * 2 ^ 8) none).setFld (dieKey d CLK_STAT) 0 4 0).dieState d = 3 := by
    refine (fld_setFld_other _ _ _ _ _ _ (by simp only [dieKey, ecKey, CLK_STAT, BOOT_DIE_STATE, ne_eq]; omega)).trans ?_
    exact (raise_fld ..).trans (fld_setFld_same _ _ (by omega))
  have logged : s.logs (((s.setFld (ecKey BOOT_DIE_STATE) (2 * d) 2 3).raise 0x8A (.dieUnit d 0) (reason + d * 2 ^ 8) none).setFld (dieKey d CLK_STAT) 0 4 0)
      0x8A (.dieUnit d 0) (reason + d * 2 ^ 8) :=
    logs_of_err (logs_raise (t := s.setFld (ecKey BOOT_DIE_STATE) (2 * d) 2 3) (congrArg Err.recQ (setFld_err ..)) ..) (congrArg Err.recQ (setFld_err ..))
  have stat (lo w : Nat) : (((s.setFld (ecKey BOOT_DIE_STATE) (2 * d) 2 3).raise 0x8A (.dieUnit d 0) (reason + d * 2 ^ 8) none).setFld (dieKey d CLK_STAT) 0 4 0).fld
      (ecKey BOOT_STAT) lo w = s.fld (ecKey BOOT_STAT) lo w := by
    refine (fld_setFld_other _ _ _ _ _ _ (by simp only [dieKey, ecKey, CLK_STAT, BOOT_STAT, ne_eq]; omega)).trans ?_
    exact (raise_fld ..).trans (fld_setFld_other _ _ _ _ _ _ (by decide))
  unfold State.excludeDie at reach ⊢
  dsimp only at reach ⊢
  rw [if_neg Bool.false_ne_true, Nat.add_zero] at reach ⊢
  have part : (((s.setFld (ecKey BOOT_DIE_STATE) (2 * d) 2 3).raise 0x8A (.dieUnit d 0) (reason + d * 2 ^ 8) none).setFld (dieKey d CLK_STAT) 0 4 0).part = s.part :=
    (setFld_part ..).trans ((raise_part ..).trans (setFld_part ..))
  generalize ((s.setFld (ecKey BOOT_DIE_STATE) (2 * d) 2 3).raise 0x8A (.dieUnit d 0) (reason + d * 2 ^ 8) none).setFld (dieKey d CLK_STAT) 0 4 0 = a at *
  have out := dieUnitsOut_out a d
  have engine {o : Nat} (ho : o < 0x1000000) (p : Nat) (_ : p < 3) : ecKey o ≠ fabKey d p FAB_PSTAT := by
    simp only [ecKey, fabKey, dieKey, FAB_PSTAT, ne_eq]
    omega
  generalize a.dieUnitsOut d = b at *
  have logs' : s.logs b 0x8A (.dieUnit d 0) (reason + d * 2 ^ 8) := logs_of_err logged (congrArg Err.recQ (within_same out.reach .err (by decide)))
  have state' : b.dieState d = 3 := (InputPower.fld_of_reg (out.reg _ (engine (by decide))) _ _).trans state
  have stat' (lo w : Nat) : b.fld (ecKey BOOT_STAT) lo w = s.fld (ecKey BOOT_STAT) lo w :=
    (InputPower.fld_of_reg (out.reg _ (engine (by decide))) _ _).trans (stat lo w)
  by_cases goes : b.ctlDie = d ∧ d ≠ s.part.standby
  · rw [if_pos goes] at reach ⊢
    obtain ⟨regs, phase, recovery⟩ := handedOver_keeps b s.part.standby
    refine ⟨reach, (InputPower.fld_of_reg (regs _ (by decide)) _ _).trans state', logs_of_err logs' (congrArg Err.recQ ((setFld_err ..).trans (setFld_err ..))),
      fun p hp => ?_, fun p hp hpd => ?_, phase.trans (stat' 0 4), recovery.trans (stat' 13 1)⟩
    · exact (InputPower.fld_of_reg (regs (fabKey d p FAB_PSTAT) (engine (o := BOOT_STAT) (by decide) p hp).symm) 0 3).trans (out.links p hp)
    · rw [setFld_hport, setFld_hport]
      exact out.ports p (part.symm ▸ hp) hpd
  · rw [if_neg goes] at reach ⊢
    exact ⟨reach, state', logs', out.links, fun p hp hpd => out.ports p (part.symm ▸ hp) hpd, stat' 0 4, stat' 13 1⟩

/-! ### The turn of a die that powers up -/

/-- What the power-up of a die and the end of its turn leave. -/
structure DiePowered (s t : State) (d : Nat) : Prop where
  supplied : (t.die d).supplied = true
  ctlOk : (t.die d).ctlOk = true
  phases : t.fld (dieKey d PWR_PHASE) 0 28 = 0xFFFFFFF
  limit : t.fld (dieKey d PWR_DIE_I) 16 12 = State.ilim 28
  ports : ∀ p ∈ s.part.ports, portDie p = d → (t.hport p).powered = true
  regions : ∀ i, i < 64 → RegionStarted s t (d * 64 + i)
  err : t.err = s.err
  others : ∀ r, regionDie r ≠ d → t.region r = s.region r
  next : if d + 1 < s.part.dies ∨ t.turningOn = true then t.boot.nextDie = d + 1 ∧ t.fld (ecKey BOOT_STAT) 0 4 = 3 else s.phaseEnds t 3

theorem diePowerUp_powers {d : Nat} (hph : s.inPhase 3 = true) (hd : s.boot.nextDie = d) (hlt : d < s.part.dies)
    (hin : (s.boot.excluded.find? fun e => e.1 == d) = none) (turns : s.turningOn = false ∨ s.boot.kind = 2) : DiePowered s (s.diePowerUp d true true []) d := by
  have eq : s.diePowerUp d true true [] = turnDone (startedRegions (readiedDie (limitSet s d) d) d 64) d := diePowerUp_eq hph hd hlt hin turns
  rw [eq]
  obtain ⟨wl, limits⟩ := limitSet_keeps s d
  have readied := readiedDie_readies (limitSet s d) d
  generalize limitSet s d = a at wl limits readied ⊢
  generalize readiedDie a d = r at readied ⊢
  have started := startedRegions_start r d 64 (Nat.le_refl 64)
  generalize startedRegions r d 64 = q at started ⊢
  have engine (o : Nat) (ho : o < 0x1000000) : q.reg (ecKey o) = r.reg (ecKey o) := started.reg _ fun i rail _ _ => ecKey_ne_ldo _ rail ho
  have blade (e : Nat) : ecKey BOOT_STAT ≠ dieKey e PWR_BLADE := by
    simp only [ecKey, dieKey, BOOT_STAT, PWR_BLADE, ne_eq]
    omega
  have flash : r.flash = s.flash := (within_same readied.reach .flash (by decide)).trans (within_same wl .flash (by decide))
  have boot : ∃ x, q.boot = { s.boot with standbyAt := x } := by
    obtain ⟨x, hx⟩ := readied.boot
    exact ⟨x, (within_same started.reach .boot (by decide)).trans (hx.trans (by rw [within_same wl .boot (by decide)]))⟩
  obtain ⟨x, boot⟩ := boot
  have now : r.now = s.now := (now_of_within readied.reach).trans (now_of_within wl)
  have stat (lo w : Nat) (h : r.fld (ecKey BOOT_STAT) lo w = a.fld (ecKey BOOT_STAT) lo w) : q.fld (ecKey BOOT_STAT) lo w = s.fld (ecKey BOOT_STAT) lo w :=
    (InputPower.fld_of_reg (engine _ (by decide)) lo w).trans (h.trans (InputPower.fld_of_reg (limits _ blade) lo w))
  have done := turnDone_done (a := q) d hph (started.reach.1.trans (readied.reach.1.trans wl.1)) ((now_of_within started.reach).trans now)
    ((congrArg Boot.off boot).trans rfl) ((congrArg Boot.modRst boot).trans rfl) ((congrArg Boot.phaseStart boot).trans rfl) ⟨stat 0 4 readied.stat.1, stat 13 1 readied.stat.2⟩
  generalize turnDone q d = t at done ⊢
  have regions : t.regions = q.regions := within_same done.reach .regions (by decide)
  have region (i : Nat) : t.region i = q.region i := RegionCommands.region_of_regions regions i
  have die : t.die d = r.die d := congrArg (fun m => SMap.get m d Die.reset)
    ((within_same done.reach .dies (by decide)).trans (within_same started.reach .dies (by decide)))
  have fields {o : Nat} (ho : o < 0x20000) (lo w : Nat) : t.fld (dieKey d o) lo w = r.fld (dieKey d o) lo w := by
    refine InputPower.fld_of_reg ((done.reg _ ?_ ?_).trans (started.reg _ fun i rail _ hr => dieKey_ne_ldo d _ ho hr)) lo w <;>
      (simp only [ecKey, dieKey, BOOT_STAT, BOOT_PTIME, ne_eq]; omega)
  refine ⟨?_, ?_, (fields (by decide) 0 28).trans readied.phases, (fields (by decide) 16 12).trans readied.limit, fun p hp hpd => ?_, fun i hi => ?_, ?_,
    fun i hi => ?_, done.next⟩
  · rw [die]
    exact readied.supplied
  · rw [die]
    exact readied.ctlOk
  · have hport : t.hport p = r.hport p := congrArg (fun m => SMap.get m p HPort.reset)
      ((within_same done.reach .hports (by decide)).trans (within_same started.reach .hports (by decide)))
    rw [hport]
    exact readied.ports p ((congrArg (p ∈ Part.ports ·) wl.1).mpr hp) hpd
  · refine ((started.started i hi).mono (region _) (done.reg _ ?_ ?_)).of_before flash now <;> exact (ecKey_ne_ldo _ 1 (by decide)).symm
  · exact (within_same done.reach .err (by decide)).trans ((within_same started.reach .err (by decide)).trans
      ((within_same readied.reach .err (by decide)).trans (within_same wl .err (by decide))))
  · refine (region i).trans ((started.others i fun j hj e => hi ?_).trans ?_)
    · unfold regionDie
      omega
    · exact RegionCommands.region_of_regions ((within_same readied.reach .regions (by decide)).trans (within_same wl .regions (by decide))) i

/-- The turn of a die without a supply or without a working controller (R457, R458). -/
theorem diePowerUp_excludes {d reason : Nat} {ok ctl : Bool} (hph : s.inPhase 3 = true) (hd : s.boot.nextDie = d) (hlt : d < s.part.dies)
    (hin : (s.boot.excluded.find? fun e => e.1 == d) = none) (turns : s.turningOn = false ∨ s.boot.kind = 2)
    (h : (ok = false ∧ reason = 3) ∨ (ok = true ∧ ctl = false ∧ reason = 5)) :
    (s.diePowerUp d ok ctl []).dieState d = 3 ∧ s.logs (s.diePowerUp d ok ctl []) 0x8A (.dieUnit d 0) (reason + d * 2 ^ 8) ∧
    (∀ p, p < 3 → (s.diePowerUp d ok ctl []).pstate d p = 6) ∧
    (∀ p ∈ s.part.ports, portDie p = d → ((s.diePowerUp d ok ctl []).hport p).up = false ∧ ((s.diePowerUp d ok ctl []).hport p).powered = false) ∧
    (s.diePowerUp d ok ctl []).regions = s.regions ∧ (s.diePowerUp d ok ctl []).cells = s.cells := by
  have eq : s.diePowerUp d ok ctl [] = turnDone ((limitSet s d).excludeDie d reason false) d := by
    rw [diePowerUp_eq hph hd hlt hin turns]
    rcases h with ⟨rfl, rfl⟩ | ⟨rfl, rfl, rfl⟩ <;> rfl
  rw [eq]
  obtain ⟨wl, limits⟩ := limitSet_keeps s d
  generalize limitSet s d = a at wl limits ⊢
  have excluded := excludeDie_excludes a (Nat.lt_of_lt_of_le hlt ((InputPower.dies_le s.part).trans (by decide))) reason
  generalize a.excludeDie d reason false = q at excluded ⊢
  have blade (e : Nat) : ecKey BOOT_STAT ≠ dieKey e PWR_BLADE := by
    simp only [ecKey, dieKey, BOOT_STAT, PWR_BLADE, ne_eq]
    omega
  have boot : q.boot = s.boot := (within_same excluded.reach .boot (by decide)).trans (within_same wl .boot (by decide))
  have done := turnDone_done (a := q) d hph (excluded.reach.1.trans wl.1) ((now_of_within excluded.reach).trans (now_of_within wl))
    (congrArg Boot.off boot) (congrArg Boot.modRst boot) (congrArg Boot.phaseStart boot)
    ⟨excluded.stat.1.trans (InputPower.fld_of_reg (limits _ blade) 0 4), excluded.stat.2.trans (InputPower.fld_of_reg (limits _ blade) 13 1)⟩
  generalize turnDone q d = t at done ⊢
  have record : s.logs q 0x8A (.dieUnit d 0) (reason + d * 2 ^ 8) := by
    obtain ⟨r, hr, facts⟩ := excluded.logged
    exact ⟨r, hr.trans (by rw [within_same wl .err (by decide)]), facts⟩
  refine ⟨?_, logs_of_err record (congrArg Err.recQ (within_same done.reach .err (by decide))), fun p hp => ?_, fun p hp hpd => ?_, ?_, ?_⟩
  · exact (InputPower.fld_of_reg (done.reg _ (by decide) (by decide)) _ _).trans excluded.state
  · refine (InputPower.fld_of_reg (k := fabKey d p FAB_PSTAT) (done.reg _ ?_ ?_) 0 3).trans (excluded.links p hp) <;>
      (simp only [ecKey, fabKey, dieKey, BOOT_STAT, BOOT_PTIME, FAB_PSTAT, ne_eq]; omega)
  · have hport : t.hport p = q.hport p := congrArg (fun m => SMap.get m p HPort.reset) (within_same done.reach .hports (by decide))
    rw [hport]
    exact excluded.ports p ((congrArg (p ∈ Part.ports ·) wl.1).mpr hp) hpd
  · exact (within_same done.reach .regions (by decide)).trans ((within_same excluded.reach .regions (by decide)).trans (within_same wl .regions (by decide)))
  · exact (within_same done.reach .cells (by decide)).trans ((within_same excluded.reach .cells (by decide)).trans (within_same wl .cells (by decide)))

/-! ### Power good during a start (R356) -/

/-- What a region's power good leaves in phase 3 once every die has had its turn. -/
theorem powerGood_settles {r : Nat} {o : TurnOn} (hph : s.inPhase 3 = true) (hd : s.boot.nextDie = s.part.dies) (ho : (s.region r).on = some o)
    (full : o.full = true) (compute : o.router = false) (due : s.now ≤ o.due + 2000) :
    ((s.powerGood r).powerSettle.region r).on = none ∧ ((s.powerGood r).powerSettle.region r).st = (s.region r).st ∧
    (s.powerGood r).powerSettle.fld (ldoKey r 0) 0 6 = 30 ∧ s.regionsBut (s.powerGood r).powerSettle r ∧ (s.powerGood r).powerSettle.cells = s.cells ∧
    (s.powerGood r).powerSettle.err = s.err ∧
    if (s.powerGood r).powerSettle.turningOn = true then (s.powerGood r).powerSettle.fld (ecKey BOOT_STAT) 0 4 = 3
    else s.phaseEnds (s.powerGood r).powerSettle 3 := by
  have phase : s.fld (ecKey BOOT_STAT) 0 4 = 3 := phase_of_inPhase hph
  have supplied : s.boot.off = false := by
    simp only [State.inPhase, Bool.and_eq_true, Bool.not_eq_true'] at hph
    exact hph.1.1.2
  have good : s.powerGood r = (s.setRegion r { s.region r with on := none }).railOn r 0 := by
    unfold State.powerGood
    dsimp only
    rw [ho]
    dsimp only
    rw [if_neg (by simp [full, supplied]), if_neg (by omega), if_neg (by simp [compute]), if_pos phase]
  have on := railOn_keeps (s.setRegion r { s.region r with on := none }) r 0
  have moved := within_setRegion (r := r) (x := { s.region r with on := none }) (List.Subset.refl _) (within_refl s)
  have struck := region_setRegion_same s r { s.region r with on := none }
  have others (q : Nat) (hq : q ≠ r) : (s.setRegion r { s.region r with on := none }).region q = s.region q := by
    rw [region_setRegion, if_neg hq]
  have regs (k : Nat) : (s.setRegion r { s.region r with on := none }).reg k = s.reg k := rfl
  rw [good]
  generalize s.setRegion r { s.region r with on := none } = a at on moved struck others regs ⊢
  generalize a.railOn r 0 = b at on ⊢
  have boot : b.boot = s.boot := (within_same on.reach .boot (by decide)).trans (within_same moved .boot (by decide))
  have stat (lo w : Nat) : b.fld (ecKey BOOT_STAT) lo w = s.fld (ecKey BOOT_STAT) lo w :=
    InputPower.fld_of_reg ((on.other _ fun h => ecKey_ne_ldo r 0 (by decide) (List.mem_singleton.1 h)).trans (regs _)) lo w
  have hph' : b.inPhase 3 = true := (inPhase_congr (congrArg Boot.off boot) (congrArg Boot.modRst boot) ⟨stat 0 4, stat 13 1⟩).trans hph
  have region (q : Nat) : b.region q = a.region q := RegionCommands.region_of_regions (within_same on.reach .regions (by decide)) q
  have last : ¬ b.boot.nextDie < b.part.dies := by
    rw [boot, on.reach.1, moved.1]
    omega
  have settled : b.powerSettle = if b.turningOn = true then b else b.endPhase 3 := (powerSettle_eq hph').trans (by simp only [last, false_or])
  have reach := within_powerSettle (List.Subset.refl _) (within_refl b)
  have vset : b.powerSettle.fld (ldoKey r 0) 0 6 = 30 := by
    rw [settled]
    split
    · exact on.vset
    · exact (StartPhases.fld_endPhase b 3 (ecKey_ne_ldo r 0 (by decide)).symm (ecKey_ne_ldo r 0 (by decide)).symm 0 6).trans on.vset
  have same (q : Nat) : b.powerSettle.region q = a.region q := (RegionCommands.region_of_regions (within_same reach .regions (by decide)) q).trans (region q)
  refine ⟨?_, ?_, vset, fun q hq => (same q).trans (others q hq), ?_, ?_, ?_⟩
  · rw [same, struck]
  · rw [same, struck]
  · exact (within_same reach .cells (by decide)).trans ((within_same on.reach .cells (by decide)).trans (within_same moved .cells (by decide)))
  · exact (within_same reach .err (by decide)).trans ((within_same on.reach .err (by decide)).trans (within_same moved .err (by decide)))
  · rw [settled]
    by_cases turning : b.turningOn = true
    · rw [if_pos turning, if_pos turning]
      exact (stat 0 4).trans phase
    · rw [if_neg turning]
      rw [turningOn_congr (t := b.endPhase 3) (s := b) rfl, if_neg turning]
      exact phaseEnds_endPhase _ 3 (by decide) (by decide) ((now_of_within on.reach).trans (now_of_within moved)) (congrArg Boot.phaseStart boot)

end Sys2Proof.StartPower
end

section
/-! PROOFS. Phase 4 of a start: calibration (R64, R404, R410, R414, R420). -/

namespace Sys2Proof.StartCalibration

open Sys2Proof Sys2Proof.Machine Sys2Proof.Machine.State Sys2Proof.Laws Sys2Proof.Clauses
open Sys2Proof.StartPhases (within_same phase_of_inPhase phaseEnds_endPhase)
open Sys2Proof.RegionCommands (now_of_within)

variable {s t u : State}

/-! ### Crossings that take no part -/

/-- A register of engine control or of a die. -/
def ofDies (k : Nat) : Prop := k < 0x10000000

theorem cellKey_not_ofDies (c o : Nat) : ¬ ofDies (cellKey c o) := by
  unfold ofDies cellKey
  omega

/-- `t` comes from `s` by the failure of links: the registers of the dies stay, and of bring-up all but the ends and crossings that have failed. -/
structure LinksFail (s t : State) : Prop where
  reach : s.within [.regs, .cells, .boot] t
  reg : ∀ k, ofDies k → t.reg k = s.reg k
  boot : ∃ ends fx, t.boot = { s.boot with failedEnds := ends, failedX := fx }

namespace LinksFail

theorem refl (s : State) : LinksFail s s := ⟨within_refl s, fun _ _ => rfl, s.boot.failedEnds, s.boot.failedX, rfl⟩

theorem trans (h : LinksFail s t) (g : LinksFail t u) : LinksFail s u := by
  obtain ⟨ends, fx, hb⟩ := h.boot
  obtain ⟨ends', fx', hb'⟩ := g.boot
  exact ⟨within_trans h.reach g.reach, fun k hk => (g.reg k hk).trans (h.reg k hk), ends', fx', hb'.trans (by rw [hb])⟩

theorem foldl {α : Type} {f : State → α → State} (l : List α) (hf : ∀ t x, LinksFail t (f t x)) (s : State) : LinksFail s (l.foldl f s) :=
  List.foldlRecOn (motive := LinksFail s) l f (refl s) fun t ht x _ => ht.trans (hf t x)

end LinksFail

theorem markEnd_eq (s : State) (c l : Nat) : ∃ ends, s.markEnd c l = { s with boot := { s.boot with failedEnds := ends } } := by
  unfold State.markEnd
  split
  · exact ⟨s.boot.failedEnds, rfl⟩
  · exact ⟨_, rfl⟩

/-- The failure of one end of a link. -/
theorem failEnd_fails (s : State) (c l : Nat) : LinksFail s (s.failEnd c l) ∧ (s.failEnd c l).boot.failedX = s.boot.failedX := by
  have reach := within_failEnd (c := c) (l := l) (List.Subset.refl _) (within_refl s)
  unfold State.failEnd at reach ⊢
  by_cases ring : l = ringLink
  · rw [if_pos ring] at reach ⊢
    exact ⟨⟨reach, fun _ _ => rfl, s.boot.failedEnds, s.boot.failedX, rfl⟩, rfl⟩
  · rw [if_neg ring] at reach ⊢
    obtain ⟨ends, marked⟩ := markEnd_eq (s.setFld (cellKey c RTR_LINK_STAT) l 1 1) c l
    rw [marked] at reach ⊢
    refine ⟨⟨reach, fun k hk => ?_, ends, s.boot.failedX, rfl⟩, rfl⟩
    exact reg_setFld_other s _ _ _ fun e => cellKey_not_ofDies c RTR_LINK_STAT (e ▸ hk)

theorem failSide_fails (s : State) (c side : Nat) : LinksFail s (s.failSide c side) ∧ (s.failSide c side).boot.failedX = s.boot.failedX := by
  refine List.foldlRecOn (motive := fun t : State => LinksFail s t ∧ t.boot.failedX = s.boot.failedX) _ _ ⟨.refl s, rfl⟩ fun t ht l _ => ?_
  obtain ⟨fails, kept⟩ := ht
  split
  · next e _ =>
    obtain ⟨near, nearX⟩ := failEnd_fails t c l
    obtain ⟨far, farX⟩ := failEnd_fails (t.failEnd c l) e (backLink l)
    exact ⟨(fails.trans near).trans far, farX.trans (nearX.trans kept)⟩
  · exact ⟨fails, kept⟩

theorem failLinks_fails (s : State) (c side : Nat) : LinksFail s (s.failLinks c side) ∧ (s.failLinks c side).boot.failedX = s.boot.failedX := by
  obtain ⟨near, nearX⟩ := failSide_fails s c side
  unfold State.failLinks
  dsimp only
  split
  · next e _ =>
    obtain ⟨far, farX⟩ := failSide_fails (s.failSide c side) e ((side + 2) % 4)
    exact ⟨near.trans far, farX.trans nearX⟩
  · exact ⟨near, nearX⟩

/-- A crossing that takes no part is among the failed ones, with those that were. -/
theorem failCrossing_fails (s : State) (d side c : Nat) : LinksFail s (s.failCrossing d side c) ∧
    ∀ x, x ∈ (s.failCrossing d side c).boot.failedX ↔ x ∈ s.boot.failedX ∨ x = (d, side, c) := by
  obtain ⟨links, linksX⟩ := failLinks_fails s (crossCell d side c) side
  unfold State.failCrossing
  generalize s.failLinks (crossCell d side c) side = a at links linksX ⊢
  refine ⟨⟨within_setBoot (by decide) links.reach, links.reg, s.boot.failedEnds, _, rfl⟩, fun x => ?_⟩
  show x ∈ (if s.boot.failedX.contains (d, side, c) then s.boot.failedX else s.boot.failedX ++ [(d, side, c)]) ↔ _
  by_cases known : s.boot.failedX.contains (d, side, c) = true
  · rw [if_pos known]
    exact ⟨.inl, fun h => h.elim id fun e => e ▸ List.contains_iff_mem.1 known⟩
  · rw [if_neg known, List.mem_append, List.mem_singleton]

/-- A crossing has failed where either of its dies' entries says so. -/
theorem crossFailed_iff (s : State) (d side c : Nat) : s.crossFailed d side c = true ↔
    (d, side, c) ∈ s.boot.failedX ∨ ∃ e, s.dieBeside d side = some e ∧ (e, (side + 2) % 4, c) ∈ s.boot.failedX := by
  unfold State.crossFailed
  rw [Bool.or_eq_true, List.contains_iff_mem]
  refine or_congr_right ?_
  cases s.dieBeside d side with
  | none => simp
  | some e => simp

theorem dieBeside_congr (h : t.part = s.part) (d side : Nat) : t.dieBeside d side = s.dieBeside d side := by
  unfold State.dieBeside
  rw [h]

/-- Crossings of other boundaries fail: this one is as before. -/
theorem crossFailed_apart {d side c : Nat} (hp : t.part = s.part)
    (hx : ∀ x, x ∈ t.boot.failedX → x ∈ s.boot.failedX ∨ (x ≠ (d, side, c) ∧ ∀ e, s.dieBeside d side = some e → x ≠ (e, (side + 2) % 4, c)))
    (clear : s.crossFailed d side c = false) : t.crossFailed d side c = false := by
  refine Bool.eq_false_iff.2 fun failed => Bool.eq_false_iff.1 clear ((crossFailed_iff s d side c).2 ?_)
  rcases (crossFailed_iff t d side c).1 failed with h | ⟨e, he, h⟩
  · exact .inl ((hx _ h).resolve_right fun n => n.1 rfl)
  · rw [dieBeside_congr hp] at he
    exact .inr ⟨e, he, (hx _ h).resolve_right fun n => n.2 e he rfl⟩

/-- A crossing that takes no part has failed, and no other of its boundary. -/
theorem crossFailed_failCrossing (s : State) (d side n c : Nat) :
    (s.failCrossing d side n).crossFailed d side c = (s.crossFailed d side c || decide (c = n)) := by
  obtain ⟨fails, mem⟩ := failCrossing_fails s d side n
  have opposite : (side + 2) % 4 ≠ side := by omega
  rw [Bool.eq_iff_iff, Bool.or_eq_true, decide_eq_true_iff, crossFailed_iff, crossFailed_iff]
  simp only [mem, dieBeside_congr fails.reach.1, Prod.mk.injEq, true_and]
  constructor
  · rintro ((h | h) | ⟨e, he, h | ⟨-, h, -⟩⟩)
    · exact .inl (.inl h)
    · exact .inr h
    · exact .inl (.inr ⟨e, he, h⟩)
    · exact absurd h opposite
  · rintro ((h | ⟨e, he, h⟩) | h)
    · exact .inl (.inl h)
    · exact .inr ⟨e, he, .inl h⟩
    · exact .inl (.inr h)

/-! ### A boundary between two dies (R414) -/

/-- An entry of TYPE 0x6 on either side of a crossing. -/
def crossFused (s : State) (d e side c : Nat) : Bool := s.fused 6 d (locCross side c) || s.fused 6 e (locCross ((side + 2) % 4) c)

/-- The crossings of a boundary that have an entry take no part. -/
def markCross (d e side : Nat) (t : State) (c : Nat) : State :=
  if crossFused t d e side c && !t.crossFailed d side c then t.failCrossing d side c else t

theorem crossFused_congr (h : t.flash = s.flash) (d e side c : Nat) : crossFused t d e side c = crossFused s d e side c := by
  unfold crossFused State.fused State.isHard State.hardFuses
  rw [h]

/-- The first `n` crossings of a boundary have been looked at. -/
structure Marked (s t : State) (d e side n : Nat) : Prop where
  fails : LinksFail s t
  from_ : ∀ x, x ∈ t.boot.failedX → x ∈ s.boot.failedX ∨ ∃ c, x = (d, side, c)
  crossed : ∀ c, t.crossFailed d side c = (s.crossFailed d side c || (decide (c < n) && crossFused s d e side c))

theorem marked (s : State) (d e side n : Nat) : Marked s ((List.range n).foldl (markCross d e side) s) d e side n := by
  induction n with
  | zero => exact ⟨.refl s, fun _ h => .inl h, fun c => by simp⟩
  | succ n ih =>
    rw [List.range_succ, List.foldl_append, List.foldl_cons, List.foldl_nil]
    generalize (List.range n).foldl (markCross d e side) s = a at ih ⊢
    have flash : a.flash = s.flash := within_same ih.fails.reach .flash (by decide)
    unfold markCross
    rw [crossFused_congr flash]
    by_cases new : (crossFused s d e side n && !a.crossFailed d side n) = true
    · rw [if_pos new]
      obtain ⟨fused, clear⟩ := Bool.and_eq_true_iff.1 new
      obtain ⟨fails, mem⟩ := failCrossing_fails a d side n
      refine ⟨ih.fails.trans fails, fun x hx => ?_, fun c => ?_⟩
      · exact ((mem x).1 hx).elim (ih.from_ x) fun e => .inr ⟨n, e⟩
      · rw [crossFailed_failCrossing, ih.crossed]
        by_cases hc : c = n
        · subst hc
          simp [fused]
        · have lt : decide (c < n + 1) = decide (c < n) := decide_eq_decide.2 (by omega)
          rw [lt, decide_eq_false hc, Bool.or_false]
    · rw [if_neg new]
      refine ⟨ih.fails, ih.from_, fun c => ?_⟩
      by_cases hc : c = n
      · subst hc
        rw [ih.crossed] at new ⊢
        revert new
        cases s.crossFailed d side c <;> cases crossFused s d e side c <;> simp
      · have lt : decide (c < n + 1) = decide (c < n) := decide_eq_decide.2 (by omega)
        rw [lt, ih.crossed]

/-- What one end of a boundary publishes beside its latencies. -/
def bndValue (pad bad rawmax : Nat) : DWord := BitVec.ofNat 64 (pad + bad * 2 ^ 4 + rawmax * 2 ^ 10 + 2 ^ 14 + (if 4 < bad then 2 ^ 15 else 0))

/-- A register of the published latencies. -/
def latKey (k : Nat) : Prop := 0x80100 ≤ k % 0x1000000 ∧ k % 0x1000000 < 0x80180

theorem latKey_blatKey (d : Nat) {side c : Nat} (hs : side < 4) (hc : c < 48) : latKey (blatKey d side c) := by
  unfold latKey blatKey dieKey CAL_BLAT0
  omega

theorem publishSide_shows (s : State) (d pad rawmax : Nat) (lat : Nat → Nat) {side : Nat} (hs : side < 4) :
    (s.publishSide d side pad rawmax lat).reg (bndKey d side) = bndValue pad ((List.range 48).countP fun c => lat c == 0xF) rawmax ∧
    s.within [.regs] (s.publishSide d side pad rawmax lat) ∧ ∀ k, ¬ latKey k → k ≠ bndKey d side → (s.publishSide d side pad rawmax lat).reg k = s.reg k := by
  refine ⟨reg_setReg_same .., within_publishSide (List.Subset.refl _) (within_refl s), fun k hk hb => ?_⟩
  refine (reg_setReg_other _ _ hb).trans ?_
  exact List.foldlRecOn (motive := fun u : State => u.reg k = s.reg k) _ _ rfl fun u hu c hc =>
    (reg_setFld_other _ _ _ _ fun e : k = _ => hk (e ▸ latKey_blatKey d hs (List.mem_range.1 hc))).trans hu

/-- The greatest latency of crossings that are all measured alike. -/
theorem rawmax_alike (p : Nat → Bool) (l : List Nat) :
    l.foldl (fun a c => if p c = true then a else max a 6) 0 = if l.countP p < l.length then 6 else 0 := by
  have from6 (l : List Nat) : l.foldl (fun a c => if p c = true then a else max a 6) 6 = 6 :=
    List.foldlRecOn (motive := fun a : Nat => a = 6) l _ rfl fun a ha c _ => by
      split
      · exact ha
      · rw [ha]
        rfl
  induction l with
  | nil => rfl
  | cons c l ih =>
    rw [List.foldl_cons, List.length_cons]
    cases hp : p c with
    | true =>
      rw [if_pos rfl, ih, List.countP_cons_of_pos hp]
      simp only [Nat.add_lt_add_iff_right]
    | false =>
      rw [if_neg Bool.false_ne_true, List.countP_cons_of_neg (by simp [hp])]
      have lt : l.countP p < l.length + 1 := Nat.lt_succ_of_le List.countP_le_length
      rw [if_pos lt]
      exact from6 l

/-- A boundary measured with nominal latencies. -/
structure BoundaryShown (s t : State) (d e side : Nat) : Prop where
  reach : s.within [.regs, .cells, .boot] t
  boot : ∃ ends fx, t.boot = { s.boot with failedEnds := ends, failedX := fx }
  from_ : ∀ x, x ∈ t.boot.failedX → x ∈ s.boot.failedX ∨ ∃ c, x = (d, side, c)
  near : t.reg (bndKey d side) = t.reg (bndKey e ((side + 2) % 4))
  far : t.reg (bndKey e ((side + 2) % 4)) = bndValue 6 ((List.range 48).countP fun c => s.crossFailed d side c || crossFused s d e side c)
    (if ((List.range 48).countP fun c => s.crossFailed d side c || crossFused s d e side c) < 48 then 6 else 0)
  reg : ∀ k, ofDies k → ¬ latKey k → k ≠ bndKey d side → k ≠ bndKey e ((side + 2) % 4) → t.reg k = s.reg k

theorem rawOf_nil (k c dflt : Nat) : State.rawOf [] k c dflt = dflt := rfl

theorem calBoundary_shows (s : State) (d e : Nat) {side : Nat} (hs : side < 4) : BoundaryShown s (s.calBoundary d e side []) d e side := by
  have hmark := marked s d e side 48
  have eq : s.calBoundary d e side [] =
      let a := (List.range 48).foldl (markCross d e side) s
      let lat := fun c => if a.crossFailed d side c = true then 0xF else 6
      let rawmax := (List.range 48).foldl (fun m c => if a.crossFailed d side c = true then m else max m 6) 0
      let b := (a.publishSide d side (max 6 rawmax) rawmax lat).publishSide e ((side + 2) % 4) (max 6 rawmax) rawmax lat
      if 6 < max 6 rawmax then b.raise 0x7F (.dieUnit d 0) (calDetail 1 d 0 side 0 0 0 (max 6 rawmax)) none else b := by
    have measured (t : State) : (List.range 48).foldl (fun t c => if (!t.crossFailed d side c && Nat.ble 10 (rawOf [] side c 6)) = true then
        (t.failCrossing d side c).raise 0x7F (.dieUnit d c) (calDetail 2 d 0 side c 0 0 0) none else t) t = t :=
      List.foldlRecOn (motive := fun u : State => u = t) _ _ rfl fun u hu c _ => by
        rw [if_neg (by simp [rawOf_nil])]
        exact hu
    unfold State.calBoundary
    simp only [measured]
    rfl
  rw [eq]
  generalize (List.range 48).foldl (markCross d e side) s = a at hmark ⊢
  have opp : (side + 2) % 4 < 4 := Nat.mod_lt _ (by decide)
  have count : ((List.range 48).countP fun c => a.crossFailed d side c) = (List.range 48).countP fun c => s.crossFailed d side c || crossFused s d e side c :=
    List.countP_congr fun c hc => by rw [hmark.crossed, decide_eq_true (List.mem_range.1 hc), Bool.true_and]
  have lats : ((List.range 48).countP fun c => (if a.crossFailed d side c = true then 0xF else 6) == 0xF) =
      (List.range 48).countP fun c => s.crossFailed d side c || crossFused s d e side c := by
    rw [← count]
    exact List.countP_congr fun c _ => by cases a.crossFailed d side c <;> simp
  dsimp only
  rw [rawmax_alike, List.length_range, count]
  generalize hm : ((List.range 48).countP fun c => s.crossFailed d side c || crossFused s d e side c) = m at lats ⊢
  have pad : max 6 (if m < 48 then 6 else 0) = 6 := by split <;> rfl
  rw [pad, if_neg (by decide)]
  generalize hr : (if m < 48 then 6 else 0) = rawmax
  obtain ⟨near, wn, otherN⟩ := publishSide_shows a d 6 rawmax (fun c => if a.crossFailed d side c = true then 0xF else 6) hs
  generalize a.publishSide d side 6 rawmax (fun c => if a.crossFailed d side c = true then 0xF else 6) = b at near wn otherN ⊢
  obtain ⟨far, wf, otherF⟩ := publishSide_shows b e 6 rawmax (fun c => if a.crossFailed d side c = true then 0xF else 6) opp
  generalize b.publishSide e ((side + 2) % 4) 6 rawmax (fun c => if a.crossFailed d side c = true then 0xF else 6) = f at far wf otherF ⊢
  rw [lats] at near far
  have keys : bndKey d side ≠ bndKey e ((side + 2) % 4) := by
    simp only [bndKey, dieKey, CAL_BND, ne_eq]
    omega
  have nearKey : ¬ latKey (bndKey d side) := by
    simp only [latKey, bndKey, dieKey, CAL_BND]
    omega
  have boot : f.boot = a.boot := (within_same wf .boot (by decide)).trans (within_same wn .boot (by decide))
  obtain ⟨ends, fx, hb⟩ := hmark.fails.boot
  refine ⟨within_trans hmark.fails.reach (within_trans (within_mono wn (by decide)) (within_mono wf (by decide))), ⟨ends, fx, boot.trans hb⟩,
    fun x hx => hmark.from_ x (boot ▸ hx), ?_, ?_, fun k hd hk h1 h2 => ?_⟩
  · exact (otherF _ nearKey keys).trans (near.trans far.symm)
  · rw [far, hm, hr]
  · exact (otherF k hk h2).trans ((otherN k hk h1).trans (hmark.fails.reg k hd))

/-! ### The calibration of a die (R414, R420) -/

/-- A register that the calibration of boundaries may write: CAL_STAT, the boundaries' own, and the latencies. -/
def sideKey (k : Nat) : Prop := k % 0x1000000 = CAL_STAT ∨ (0x80080 ≤ k % 0x1000000 ∧ k % 0x1000000 < 0x80200)

theorem sideKey_bndKey (d : Nat) {side : Nat} (h : side < 4) : sideKey (bndKey d side) := by
  unfold sideKey bndKey dieKey CAL_BND
  omega

theorem sideKey_latKey {k : Nat} (h : latKey k) : sideKey k := by
  unfold latKey at h
  unfold sideKey
  omega

theorem sideKey_calStat (d : Nat) : sideKey (dieKey d CAL_STAT) := by
  unfold sideKey dieKey CAL_STAT
  omega

/-- `t` comes from `s` by the calibration of a side of die `d`. -/
structure SideDone (s t : State) (d side : Nat) : Prop where
  reach : s.within [.regs, .cells, .boot] t
  boot : ∃ ends fx, t.boot = { s.boot with failedEnds := ends, failedX := fx }
  from_ : ∀ x, x ∈ t.boot.failedX → x ∈ s.boot.failedX ∨ ∃ e c, e < d ∧ s.dieBeside d side = some e ∧ x = (e, (side + 2) % 4, c)
  reg : ∀ k, ofDies k → ¬ sideKey k → t.reg k = s.reg k

/-- The calibration of one side, with nominal latencies. -/
def calSide (d : Nat) (t : State) (side : Nat) : State :=
  match t.dieBeside d side with
  | some e => if t.isExcluded e then t.absentSide d side else if e < d then t.calShared d e side [] else t
  | none => t.absentSide d side

/-- A side without a neighbour shows none. -/
theorem absentSide_shows (s : State) (d : Nat) {side : Nat} (hs : side < 4) : (s.absentSide d side).reg (bndKey d side) = 0 ∧
    s.within [.regs] (s.absentSide d side) ∧ ∀ k, ¬ latKey k → k ≠ bndKey d side → (s.absentSide d side).reg k = s.reg k := by
  have kept {k : Nat} (hk : ¬ latKey k) : (s.absentSide d side).reg k = (s.setReg (bndKey d side) 0).reg k :=
    List.foldlRecOn (motive := fun u : State => u.reg k = (s.setReg (bndKey d side) 0).reg k) _ _ rfl fun u hu i hi =>
      (reg_setReg_other _ _ fun e : k = _ => hk (e ▸ latKey_blatKey d hs (by have := List.mem_range.1 hi; omega))).trans hu
  refine ⟨(kept ?_).trans (reg_setReg_same ..), within_absentSide (List.Subset.refl _) (within_refl s), fun k hk hb => (kept hk).trans (reg_setReg_other _ _ hb)⟩
  simp only [latKey, bndKey, dieKey, CAL_BND]
  omega

theorem absentSide_done (s : State) (d : Nat) {side : Nat} (hs : side < 4) : SideDone s (s.absentSide d side) d side := by
  obtain ⟨-, reach, regs⟩ := absentSide_shows s d hs
  have boot : (s.absentSide d side).boot = s.boot := within_same reach .boot (by decide)
  exact ⟨within_mono reach (by decide), ⟨s.boot.failedEnds, s.boot.failedX, boot⟩, fun x hx => .inl (boot ▸ hx),
    fun k _ hk => regs k (fun h => hk (sideKey_latKey h)) fun e => hk (e ▸ sideKey_bndKey d hs)⟩

/-- A boundary with an earlier die: what both ends show of it, and the counts of CAL_STAT. -/
theorem calShared_done (s : State) {d e side : Nat} (hs : side < 4) (hlt : e < d) (hb : s.dieBeside d side = some e) :
    SideDone s (s.calShared d e side []) d side ∧
    ((s.calShared d e side []).reg (bndKey e ((side + 2) % 4)) =
      bndValue 6 ((List.range 48).countP fun c => s.crossFailed e ((side + 2) % 4) c || crossFused s e d ((side + 2) % 4) c)
        (if ((List.range 48).countP fun c => s.crossFailed e ((side + 2) % 4) c || crossFused s e d ((side + 2) % 4) c) < 48 then 6 else 0)) ∧
    (s.calShared d e side []).reg (bndKey d side) = (s.calShared d e side []).reg (bndKey e ((side + 2) % 4)) := by
  have back : ((side + 2) % 4 + 2) % 4 = side := by omega
  have shown := calBoundary_shows s e d (side := (side + 2) % 4) (Nat.mod_lt _ (by decide))
  unfold State.calShared
  dsimp only
  generalize s.calBoundary e d ((side + 2) % 4) [] = a at shown ⊢
  have counted {k : Nat} (hk : k ≠ dieKey d CAL_STAT) (hk' : k ≠ dieKey e CAL_STAT) :
      ((a.incSat (dieKey d CAL_STAT) 8 8 (a.crossCount d side)).incSat (dieKey e CAL_STAT) 8 8 (a.crossCount d side)).reg k = a.reg k :=
    (reg_incSat_other _ _ _ _ hk').trans (reg_incSat_other _ _ _ _ hk)
  have key (x z : Nat) {y : Nat} (hy : y < 4) : bndKey x y ≠ dieKey z CAL_STAT := by
    simp only [bndKey, dieKey, CAL_BND, CAL_STAT, ne_eq]
    omega
  have opp : (side + 2) % 4 < 4 := Nat.mod_lt _ (by decide)
  have near := shown.near
  have far := shown.far
  rw [back] at near far
  have boot : ((a.incSat (dieKey d CAL_STAT) 8 8 (a.crossCount d side)).incSat (dieKey e CAL_STAT) 8 8 (a.crossCount d side)).boot = a.boot := rfl
  refine ⟨⟨within_incSat (by decide) (within_incSat (by decide) shown.reach), shown.boot, fun x hx => ?_, fun k hd hk => ?_⟩, ?_, ?_⟩
  · exact (shown.from_ x (boot ▸ hx)).imp_right fun ⟨c, hc⟩ => ⟨e, c, hlt, hb, hc⟩
  · refine (counted (fun h : k = _ => hk (h ▸ sideKey_calStat d)) fun h : k = _ => hk (h ▸ sideKey_calStat e)).trans
      (shown.reg k hd (fun h => hk (sideKey_latKey h)) (fun h => hk (h ▸ sideKey_bndKey e opp)) fun h => hk ?_)
    rw [back] at h
    exact h ▸ sideKey_bndKey d hs
  · rw [counted (key e d opp) (key e e opp), near, far]
  · rw [counted (key e d opp) (key e e opp), counted (key d d hs) (key d e hs), near]

theorem calSide_done (s : State) (d : Nat) {side : Nat} (hs : side < 4) : SideDone s (calSide d s side) d side := by
  unfold calSide
  split
  · next e hb =>
    split
    · exact absentSide_done s d hs
    · split
      · next hlt => exact (calShared_done s hs hlt hb).1
      · exact ⟨within_refl s, ⟨s.boot.failedEnds, s.boot.failedX, rfl⟩, fun _ h => .inl h, fun _ _ _ => rfl⟩
  · exact absentSide_done s d hs

/-- The seams of a die, with nominal latencies. -/
def calSeams (s : State) (d n : Nat) : State :=
  (List.range n).foldl (fun t i => t.setFld (seamKey d (i / 48) (i % 48)) (4 * (i % 48 % 8)) 4 1) s

/-- A register of the seams' latencies. -/
def seamReg (k : Nat) : Prop := 0x80040 ≤ k % 0x1000000 ∧ k % 0x1000000 < 0x80080

theorem seamReg_seamKey (d : Nat) {seam c : Nat} (hs : seam < 2) (hc : c < 48) : seamReg (seamKey d seam c) := by
  unfold seamReg seamKey dieKey CAL_SEAM0
  omega

/-- Every seam crossing of a die shows LAT 1. -/
theorem calSeams_show (s : State) (d n : Nat) (hn : n ≤ 96) : s.within [.regs] (calSeams s d n) ∧ (∀ k, ¬ seamReg k → (calSeams s d n).reg k = s.reg k) ∧
    ∀ i, i < n → (calSeams s d n).fld (seamKey d (i / 48) (i % 48)) (4 * (i % 48 % 8)) 4 = 1 := by
  induction n with
  | zero => exact ⟨within_refl s, fun _ _ => rfl, fun i hi => absurd hi (Nat.not_lt_zero i)⟩
  | succ n ih =>
    obtain ⟨reach, regs, shown⟩ := ih (by omega)
    have eq : calSeams s d (n + 1) = (calSeams s d n).setFld (seamKey d (n / 48) (n % 48)) (4 * (n % 48 % 8)) 4 1 := by
      unfold calSeams
      rw [List.range_succ, List.foldl_append]
      rfl
    rw [eq]
    generalize calSeams s d n = a at reach regs shown ⊢
    refine ⟨within_setFld (List.Subset.refl _) reach, fun k hk => (reg_setFld_other _ _ _ _ fun e : k = _ => hk (e ▸ ?_)).trans (regs k hk), fun i hi => ?_⟩
    · exact seamReg_seamKey d (by omega) (by omega)
    · rcases Nat.lt_succ_iff_lt_or_eq.1 hi with hlt | rfl
      · by_cases same : seamKey d (i / 48) (i % 48) = seamKey d (n / 48) (n % 48)
        · rw [same, fld_setFld_apart _ _ (by omega) (by simp only [seamKey, dieKey, CAL_SEAM0] at same; omega), ← same]
          exact shown i hlt
        · exact (fld_setFld_other _ _ _ _ _ _ same).trans (shown i hlt)
      · exact fld_setFld_same _ _ (by omega)

/-- The calibration of a die without measurements, in its parts. -/
theorem calDie_eq (s : State) (d : Nat) : s.calDie d [] = (calSide d (calSide d (calSide d (calSide d (calSeams s d 96) 0) 1) 2) 3).setFld (dieKey d CAL_STAT) 1 1 1 := by
  have seams : (List.range 96).foldl (fun t i => t.calSeam d (i / 48) (i % 48) []) s = calSeams s d 96 :=
    congrArg (fun f => (List.range 96).foldl f s) (funext fun t => funext fun i => if_pos (rawOf_nil _ _ _))
  unfold State.calDie
  rw [seams]
  generalize calSeams s d 96 = a
  rfl

theorem dieAt_self (p : Part) : ∀ d, d < p.dies → dieAt p (dieCol p d) (dieRow p d) = some d := by
  cases p <;> decide

theorem dieAt_place {p : Part} {x y e : Nat} (h : dieAt p x y = some e) : dieCol p e = x ∧ dieRow p e = y := by
  have place := List.find?_some h
  simpa using place

/-- The die west of another has it east of itself. -/
theorem dieBeside_back {d e : Nat} (hd : d < s.part.dies) (h : s.dieBeside d 3 = some e) : s.dieBeside e 1 = some d := by
  unfold State.dieBeside at h ⊢
  dsimp only at h ⊢
  rw [if_neg (by decide), if_neg (by decide), if_neg (by decide)] at h
  rw [if_neg (by decide), if_pos rfl]
  by_cases west : dieCol s.part d = 0
  · rw [if_pos west] at h
    cases h
  · rw [if_neg west] at h
    obtain ⟨col, row⟩ := dieAt_place h
    rw [col, row, Nat.sub_add_cancel (Nat.pos_of_ne_zero west)]
    exact dieAt_self s.part d hd

/-- The first three sides of a die, with the seams before them. -/
def threeSides (s : State) (d : Nat) : State := calSide d (calSide d (calSide d (calSeams s d 96) 0) 1) 2

/-- What they leave: crossings fail on boundaries with earlier dies only, and never on the western one. -/
structure ThreeDone (s t : State) (d : Nat) : Prop where
  reach : s.within [.regs, .cells, .boot] t
  boot : ∃ ends fx, t.boot = { s.boot with failedEnds := ends, failedX := fx }
  from_ : ∀ x, x ∈ t.boot.failedX → x ∈ s.boot.failedX ∨ (x.1 < d ∧ x.2.1 ≠ 1)
  seams : ∀ seam c, seam < 2 → c < 48 → t.fld (seamKey d seam c) (4 * (c % 8)) 4 = 1
  reg : ∀ k, ofDies k → ¬ sideKey k → ¬ seamReg k → t.reg k = s.reg k

theorem SideDone.then {d side : Nat} (h : SideDone t u d side) (hs : side < 3) (boot : ∃ ends fx, t.boot = { s.boot with failedEnds := ends, failedX := fx })
    (hx : ∀ x, x ∈ t.boot.failedX → x ∈ s.boot.failedX ∨ (x.1 < d ∧ x.2.1 ≠ 1)) :
    (∃ ends fx, u.boot = { s.boot with failedEnds := ends, failedX := fx }) ∧ ∀ x, x ∈ u.boot.failedX → x ∈ s.boot.failedX ∨ (x.1 < d ∧ x.2.1 ≠ 1) := by
  obtain ⟨ends, fx, hb⟩ := boot
  obtain ⟨ends', fx', hb'⟩ := h.boot
  refine ⟨⟨ends', fx', hb'.trans (by rw [hb])⟩, fun x hxu => (h.from_ x hxu).elim (hx x) fun ⟨e, c, hlt, _, hxe⟩ => .inr ?_⟩
  subst hxe
  refine ⟨hlt, ?_⟩
  show (side + 2) % 4 ≠ 1
  omega

theorem threeSides_done (s : State) {d : Nat} (hd : d < 15) : ThreeDone s (threeSides s d) d := by
  obtain ⟨reach, regs, seams⟩ := calSeams_show s d 96 (Nat.le_refl _)
  unfold threeSides
  generalize calSeams s d 96 = a at reach regs seams ⊢
  have first := calSide_done a d (side := 0) (by decide)
  generalize calSide d a 0 = b at first ⊢
  have second := calSide_done b d (side := 1) (by decide)
  generalize calSide d b 1 = c at second ⊢
  have third := calSide_done c d (side := 2) (by decide)
  generalize calSide d c 2 = f at third ⊢
  have boot : a.boot = s.boot := within_same reach .boot (by decide)
  obtain ⟨boot1, from1⟩ := first.then (s := s) (by decide) ⟨s.boot.failedEnds, s.boot.failedX, boot⟩ fun x hx => .inl (boot ▸ hx)
  obtain ⟨boot2, from2⟩ := second.then (by decide) boot1 from1
  obtain ⟨boot3, from3⟩ := third.then (by decide) boot2 from2
  have kept {k : Nat} (hk : ofDies k) (hs : ¬ sideKey k) : f.reg k = a.reg k := (third.reg k hk hs).trans ((second.reg k hk hs).trans (first.reg k hk hs))
  refine ⟨within_trans (within_mono reach (by decide)) (within_trans first.reach (within_trans second.reach third.reach)), boot3, from3,
    fun seam c hseam hc => ?_, fun k hk hs hm => (kept hk hs).trans (regs k hm)⟩
  have shown := seams (48 * seam + c) (by omega)
  rw [show (48 * seam + c) / 48 = seam by omega, show (48 * seam + c) % 48 = c by omega] at shown
  refine (InputPower.fld_of_reg (kept ?_ ?_) _ _).trans shown
  · simp only [ofDies, seamKey, dieKey, CAL_SEAM0]
    omega
  · simp only [sideKey, seamKey, dieKey, CAL_SEAM0, CAL_STAT]
    omega

/-- What the calibration of a die leaves, on a module in which no crossing has failed. -/
structure DieCalibrated (s t : State) (d : Nat) : Prop where
  reach : s.within [.regs, .cells, .boot] t
  boot : ∃ ends fx, t.boot = { s.boot with failedEnds := ends, failedX := fx }
  seams : ∀ seam c, seam < 2 → c < 48 → t.fld (seamKey d seam c) (4 * (c % 8)) 4 = 1
  done : t.fld (dieKey d CAL_STAT) 1 1 = 1
  west : ∀ e, s.dieBeside d 3 = some e → e < d → s.isExcluded e = false →
    t.reg (bndKey e 1) = bndValue 6 ((List.range 48).countP fun c => s.fused 6 e (locCross 1 c) || s.fused 6 d (locCross 3 c))
      (if ((List.range 48).countP fun c => s.fused 6 e (locCross 1 c) || s.fused 6 d (locCross 3 c)) < 48 then 6 else 0) ∧
    t.reg (bndKey d 3) = t.reg (bndKey e 1)
  reg : ∀ k, ofDies k → ¬ sideKey k → ¬ seamReg k → t.reg k = s.reg k

theorem dieState_ofDies : ofDies (ecKey BOOT_DIE_STATE) ∧ ¬ sideKey (ecKey BOOT_DIE_STATE) ∧ ¬ seamReg (ecKey BOOT_DIE_STATE) := by
  unfold ofDies sideKey seamReg
  decide

theorem isExcluded_congr (h : t.reg (ecKey BOOT_DIE_STATE) = s.reg (ecKey BOOT_DIE_STATE)) (d : Nat) : t.isExcluded d = s.isExcluded d := by
  unfold State.isExcluded State.dieState
  rw [InputPower.fld_of_reg h]

theorem calDie_calibrates (s : State) {d : Nat} (hd : d < s.part.dies) (clear : s.boot.failedX = []) : DieCalibrated s (s.calDie d []) d := by
  have hd15 : d < 15 := Nat.lt_of_lt_of_le hd ((InputPower.dies_le s.part).trans (by decide))
  have three := threeSides_done s hd15
  have eq : s.calDie d [] = (calSide d (threeSides s d) 3).setFld (dieKey d CAL_STAT) 1 1 1 := calDie_eq s d
  rw [eq]
  generalize threeSides s d = a at three ⊢
  have last := calSide_done a d (side := 3) (by decide)
  have excluded (e : Nat) : a.isExcluded e = s.isExcluded e :=
    isExcluded_congr (three.reg _ dieState_ofDies.1 dieState_ofDies.2.1 dieState_ofDies.2.2) e
  have west : ∀ e, s.dieBeside d 3 = some e → e < d → s.isExcluded e = false →
      (calSide d a 3).reg (bndKey e 1) = bndValue 6 ((List.range 48).countP fun c => s.fused 6 e (locCross 1 c) || s.fused 6 d (locCross 3 c))
        (if ((List.range 48).countP fun c => s.fused 6 e (locCross 1 c) || s.fused 6 d (locCross 3 c)) < 48 then 6 else 0) ∧
      (calSide d a 3).reg (bndKey d 3) = (calSide d a 3).reg (bndKey e 1) := by
    intro e he hlt hin
    have beside : a.dieBeside d 3 = some e := (dieBeside_congr three.reach.1 d 3).trans he
    have side : calSide d a 3 = a.calShared d e 3 [] := by
      unfold calSide
      rw [beside]
      dsimp only
      rw [excluded, hin, if_neg Bool.false_ne_true, if_pos hlt]
    obtain ⟨-, far, near⟩ := calShared_done a (side := 3) (by decide) hlt beside
    rw [side]
    have count : ((List.range 48).countP fun c => a.crossFailed e 1 c || crossFused a e d 1 c) =
        (List.range 48).countP fun c => s.fused 6 e (locCross 1 c) || s.fused 6 d (locCross 3 c) := List.countP_congr fun c _ => by
      have sound : a.crossFailed e 1 c = false := by
        refine crossFailed_apart three.reach.1 (fun x hx => ?_) (Bool.eq_false_iff.2 fun failed => ?_)
        · rcases three.from_ x hx with known | ⟨below, notWest⟩
          · exact .inl known
          · refine .inr ⟨fun h => notWest (by rw [h]), fun f hf h => ?_⟩
            rw [dieBeside_back hd he] at hf
            cases hf
            rw [h] at below
            exact Nat.lt_irrefl d below
        · rw [crossFailed_iff, clear] at failed
          simp at failed
      rw [sound, Bool.false_or, crossFused_congr (within_same three.reach .flash (by decide))]
      rfl
    rw [count] at far
    exact ⟨far, near⟩
  generalize calSide d a 3 = b at last west ⊢
  obtain ⟨ends, fx, hb⟩ := three.boot
  obtain ⟨ends', fx', hb'⟩ := last.boot
  have stat {k : Nat} (hk : k ≠ dieKey d CAL_STAT) : (b.setFld (dieKey d CAL_STAT) 1 1 1).reg k = b.reg k := reg_setFld_other _ _ _ _ hk
  have key (x y : Nat) (hy : y < 4) : bndKey x y ≠ dieKey d CAL_STAT := by
    simp only [bndKey, dieKey, CAL_BND, CAL_STAT, ne_eq]
    omega
  refine ⟨within_setFld (by decide) (within_trans three.reach last.reach), ⟨ends', fx', hb'.trans (by rw [hb])⟩, fun seam c hs hc => ?_,
    fld_setFld_same _ _ (by decide), fun e he hlt hin => ?_, fun k hd hk hm => ?_⟩
  · refine (InputPower.fld_of_reg ((stat ?_).trans (last.reg _ ?_ ?_)) _ _).trans (three.seams seam c hs hc)
    · simp only [seamKey, dieKey, CAL_SEAM0, CAL_STAT, ne_eq]
      omega
    · simp only [ofDies, seamKey, dieKey, CAL_SEAM0]
      omega
    · simp only [sideKey, seamKey, dieKey, CAL_SEAM0, CAL_STAT]
      omega
  · rw [stat (key e 1 (by decide)), stat (key d 3 (by decide))]
    exact west e he hlt hin
  · exact (stat fun h : k = _ => hk (h ▸ sideKey_calStat d)).trans ((last.reg k hd hk).trans (three.reg k hd hk hm))

end Sys2Proof.StartCalibration
end

section
/-! PROOFS. Phase 4 of a start, die by die (R64, R401, R404, R410, R414). -/

namespace Sys2Proof.StartCalibration

open Sys2Proof Sys2Proof.Machine Sys2Proof.Machine.State Sys2Proof.Laws Sys2Proof.Clauses
open Sys2Proof.StartPhases (within_same phase_of_inPhase phaseEnds_endPhase)
open Sys2Proof.RegionCommands (now_of_within)

variable {s t u : State}

/-! ### Calibration of every die is done (R404, R420) -/

/-- A register that the end of calibration writes. -/
def doneKey (k : Nat) : Prop := k % 0x1000000 = CAL_STAT ∨ k % 0x1000000 = CAL_LAT_REG ∨ k % 0x1000000 = CLK_STAT

theorem doneKey_dieKey (d : Nat) : doneKey (dieKey d CAL_STAT) ∧ doneKey (dieKey d CAL_LAT_REG) ∧ doneKey (dieKey d CLK_STAT) := by
  unfold doneKey dieKey CAL_STAT CAL_LAT_REG CLK_STAT
  omega

/-- One die's registers show that calibration is done. -/
def dieAligned (s t : State) (e : Nat) : State :=
  if s.isExcluded e then t else ((t.setFld (dieKey e CAL_STAT) 0 2 1).setReg (dieKey e CAL_LAT_REG) 1).setFld (dieKey e CLK_STAT) 9 1 1

theorem reg_dieAligned (s t : State) (e : Nat) {k : Nat} (hk : ¬ doneKey k) : (dieAligned s t e).reg k = t.reg k := by
  obtain ⟨hcal, hlat, hclk⟩ := doneKey_dieKey e
  unfold dieAligned
  by_cases out : s.isExcluded e = true
  · rw [if_pos out]
  · rw [if_neg out]
    exact (reg_setFld_other _ _ _ _ fun h : k = _ => hk (h ▸ hclk)).trans ((reg_setReg_other _ _ fun h : k = _ => hk (h ▸ hlat)).trans
      (reg_setFld_other _ _ _ _ fun h : k = _ => hk (h ▸ hcal)))

structure Aligned (s t : State) (n : Nat) : Prop where
  reach : s.within [.regs] t
  shown : ∀ e, e < n → s.isExcluded e = false → t.fld (dieKey e CAL_STAT) 0 2 = 1 ∧ t.fld (dieKey e CLK_STAT) 9 1 = 1
  locks : ∀ e, t.fld (dieKey e CLK_STAT) 0 4 = s.fld (dieKey e CLK_STAT) 0 4
  reg : ∀ k, ¬ doneKey k → t.reg k = s.reg k

theorem aligned (s : State) (n : Nat) : Aligned s ((List.range n).foldl (dieAligned s) s) n := by
  induction n with
  | zero => exact ⟨within_refl s, fun e he => absurd he (Nat.not_lt_zero e), fun _ => rfl, fun _ _ => rfl⟩
  | succ n ih =>
    rw [List.range_succ, List.foldl_append, List.foldl_cons, List.foldl_nil]
    generalize (List.range n).foldl (dieAligned s) s = a at ih ⊢
    have regs (k : Nat) (hk : ¬ doneKey k) : (dieAligned s a n).reg k = s.reg k := (reg_dieAligned s a n hk).trans (ih.reg k hk)
    unfold dieAligned at regs ⊢
    by_cases out : s.isExcluded n = true
    · rw [if_pos out]
      refine ⟨ih.reach, fun e he hin => ?_, ih.locks, ih.reg⟩
      refine ih.shown e (Nat.lt_of_le_of_ne (Nat.le_of_lt_succ he) fun h => ?_) hin
      rw [h, out] at hin
      exact Bool.false_ne_true hin.symm
    · rw [if_neg out] at regs ⊢
      have calClk (e : Nat) : dieKey e CAL_STAT ≠ dieKey n CLK_STAT := by simp only [dieKey, CAL_STAT, CLK_STAT, ne_eq]; omega
      have calLat (e : Nat) : dieKey e CAL_STAT ≠ dieKey n CAL_LAT_REG := by simp only [dieKey, CAL_STAT, CAL_LAT_REG, ne_eq]; omega
      have clkLat (e : Nat) : dieKey e CLK_STAT ≠ dieKey n CAL_LAT_REG := by simp only [dieKey, CLK_STAT, CAL_LAT_REG, ne_eq]; omega
      have clkCal (e : Nat) : dieKey e CLK_STAT ≠ dieKey n CAL_STAT := by simp only [dieKey, CAL_STAT, CLK_STAT, ne_eq]; omega
      have dies {e : Nat} (o : Nat) (h : e ≠ n) : dieKey e o ≠ dieKey n o := by simp only [dieKey, ne_eq]; omega
      refine ⟨within_setFld (by decide) (within_setReg (by decide) (within_setFld (by decide) ih.reach)), fun e he hin => ?_, fun e => ?_, regs⟩
      · by_cases h : e = n
        · subst h
          exact ⟨(fld_setFld_other _ _ _ _ _ _ (calClk e)).trans ((fld_setReg_other _ _ _ _ (calLat e)).trans (fld_setFld_same _ _ (by decide))),
            fld_setFld_same _ _ (by decide)⟩
        · obtain ⟨cal, clk⟩ := ih.shown e (Nat.lt_of_le_of_ne (Nat.le_of_lt_succ he) h) hin
          exact ⟨(fld_setFld_other _ _ _ _ _ _ (calClk e)).trans ((fld_setReg_other _ _ _ _ (calLat e)).trans
              ((fld_setFld_other _ _ _ _ _ _ (dies _ h)).trans cal)),
            (fld_setFld_other _ _ _ _ _ _ (dies _ h)).trans ((fld_setReg_other _ _ _ _ (clkLat e)).trans ((fld_setFld_other _ _ _ _ _ _ (clkCal e)).trans clk))⟩
      · have under : ((a.setFld (dieKey n CAL_STAT) 0 2 1).setReg (dieKey n CAL_LAT_REG) 1).fld (dieKey e CLK_STAT) 0 4 = s.fld (dieKey e CLK_STAT) 0 4 :=
          (fld_setReg_other _ _ _ _ (clkLat e)).trans ((fld_setFld_other _ _ _ _ _ _ (clkCal e)).trans (ih.locks e))
        by_cases h : e = n
        · subst h
          exact (fld_setFld_apart _ _ (by decide) (.inl (by decide))).trans under
        · exact (fld_setFld_other _ _ _ _ _ _ (dies _ h)).trans under

/-- One die's turn at the end of calibration, by what the state itself says of it. -/
def dieDoneNow (t : State) (e : Nat) : State := dieAligned t t e

theorem dieDoneNow_eq (ht : t.reg (ecKey BOOT_DIE_STATE) = s.reg (ecKey BOOT_DIE_STATE)) (e : Nat) : dieDoneNow t e = dieAligned s t e := by
  unfold dieDoneNow dieAligned
  rw [isExcluded_congr ht]

/-- The dies that take part are those of before, whatever the end of calibration writes. -/
theorem foldl_dieDoneNow (l : List Nat) : ∀ t : State, t.reg (ecKey BOOT_DIE_STATE) = s.reg (ecKey BOOT_DIE_STATE) →
    l.foldl dieDoneNow t = l.foldl (dieAligned s) t := by
  induction l with
  | nil =>
    intro t _
    rw [List.foldl_nil, List.foldl_nil]
  | cons e l ih =>
    intro t ht
    have quiet : ¬ doneKey (ecKey BOOT_DIE_STATE) := by
      simp only [doneKey, ecKey, BOOT_DIE_STATE, CAL_STAT, CAL_LAT_REG, CLK_STAT]
      omega
    rw [List.foldl_cons, List.foldl_cons, dieDoneNow_eq ht]
    exact ih _ ((reg_dieAligned s t e quiet).trans ht)

theorem calDone_eq (s : State) : s.calDone = (List.range s.part.dies).foldl (dieAligned s) s :=
  foldl_dieDoneNow _ s rfl

end Sys2Proof.StartCalibration
end

section
/-! PROOFS. A die's turn in phase 4 (R64, R401, R404, R414). -/

namespace Sys2Proof.StartCalibration

open Sys2Proof Sys2Proof.Machine Sys2Proof.Machine.State Sys2Proof.Laws Sys2Proof.Clauses
open Sys2Proof.StartPhases (within_same within_part phase_of_inPhase phaseEnds_endPhase reg_endPhase err_endPhase)
open Sys2Proof.RegionCommands (now_of_within)
open Sys2Proof.InputPower (fld_of_reg)

variable {s t u : State}

/-! ### The end of a die's turn -/

/-- A register that the end of a die's turn in phase 4 writes. -/
def turnKey (k : Nat) : Prop := k = ecKey BOOT_STAT ∨ k = ecKey (BOOT_PTIME + 4 * (4 - 1))

structure TurnOver (s t : State) (d : Nat) : Prop where
  reach : s.within [.regs, .boot] t
  reg : ∀ k, ¬ turnKey k → t.reg k = s.reg k
  next : if d + 1 < s.part.dies then t.boot.nextDie = d + 1 else s.phaseEnds t 4

/-- The next die's turn. -/
def turned (s : State) : State := s.setBoot { s.boot with nextDie := s.boot.nextDie + 1 }

theorem dieDone_eq (s : State) : s.dieDone 4 = if s.part.dies ≤ s.boot.nextDie + 1 then (turned s).endPhase 4 else turned s := rfl

theorem dieDone_over {d : Nat} (hd : u.boot.nextDie = d) : TurnOver u (u.dieDone 4) d := by
  have reach : u.within [.regs, .boot] (u.dieDone 4) := within_dieDone (by decide) (within_refl u)
  rw [dieDone_eq, hd] at reach ⊢
  by_cases more : d + 1 < u.part.dies
  · rw [if_neg (by omega)] at reach ⊢
    refine ⟨reach, fun _ _ => rfl, ?_⟩
    rw [if_pos more, ← hd]
    rfl
  · rw [if_pos (by omega)] at reach ⊢
    refine ⟨reach, fun k hk => reg_endPhase _ _ (fun h : k = _ => hk (.inl h)) fun h : k = _ => hk (.inr h), ?_⟩
    rw [if_neg more]
    exact phaseEnds_endPhase (u := turned u) 4 (by decide) (by decide) rfl rfl

/-! ### The voltage floors are read (R410) -/

/-- The registers of a die's regions with its first `n` floors read. -/
def seeded (s : State) (d n : Nat) : State :=
  (List.range n).foldl (fun t i => t.setFld (regionKey CLK_R (64 * d + i)) 10 6 (Config.vfloor (!s.flash.calOk) d i % 31)) s

theorem floorKey {d i : Nat} (hi : i < 64) : regionKey CLK_R (64 * d + i) = dieKey d (0x100 + 4 * i) := by
  simp only [regionKey, regionDie, dieKey, CLK_R]
  omega

/-- The register of a region's clock, by its number within its die. -/
def floorReg (k : Nat) : Prop := 0x100 ≤ k % 0x1000000 ∧ k % 0x1000000 < 0x200

theorem seeded_shows (s : State) (d n : Nat) (hn : n ≤ 64) : s.within [.regs] (seeded s d n) ∧ (∀ k, ¬ floorReg k → (seeded s d n).reg k = s.reg k) ∧
    ∀ i, i < n → (seeded s d n).fld (regionKey CLK_R (64 * d + i)) 10 6 = Config.vfloor (!s.flash.calOk) d i % 31 := by
  unfold seeded
  induction n with
  | zero => exact ⟨within_refl s, fun _ _ => rfl, fun i hi => absurd hi (Nat.not_lt_zero i)⟩
  | succ n ih =>
    obtain ⟨reach, reg, floors⟩ := ih (by omega)
    rw [List.range_succ, List.foldl_append, List.foldl_cons, List.foldl_nil]
    have key := @floorKey d n (by omega)
    refine ⟨within_setFld (by decide) reach, fun k hk => (reg_setFld_other _ _ _ _ fun h : k = _ => hk ?_).trans (reg k hk), fun i hi => ?_⟩
    · rw [h, key]
      unfold floorReg dieKey
      omega
    · by_cases h : i = n
      · subst h
        rw [fld_setFld_same _ _ (by decide)]
        exact Nat.mod_eq_of_lt (Nat.lt_trans (Nat.mod_lt _ (by decide)) (by decide))
      · have apart : regionKey CLK_R (64 * d + i) ≠ regionKey CLK_R (64 * d + n) := by
          rw [key, floorKey (by omega)]
          simp only [dieKey, ne_eq]
          omega
        exact (fld_setFld_other _ _ _ _ _ _ apart).trans (floors i (by omega))

theorem readSeeds_eq (s : State) (d : Nat) : s.readSeeds d = seeded s d 64 := rfl

/-! ### A die whose loops lock -/

/-- A die with its floors read and its loops locked. -/
def lockedDie (s : State) (d : Nat) : State :=
  (s.readSeeds d).setReg (dieKey d CLK_STAT) (BitVec.ofNat 64 (0xF + s.fld (dieKey d CLK_STAT) 4 4 * 2 ^ 4 + 2 ^ 8))

/-- The module once a locked die is calibrated, and every die where it was the last. -/
def afterDie (s : State) (d : Nat) : State :=
  if s.part.dies ≤ d + 1 then ((lockedDie s d).calDie d []).calDone else (lockedDie s d).calDie d []

theorem pllCalibration_locked {d : Nat} (phase : s.inPhase 4 = true) (next : s.boot.nextDie = d) (inn : s.isExcluded d = false) :
    s.pllCalibration d true [] [] = (afterDie s d).dieDone 4 := by
  unfold State.pllCalibration
  rw [phase, next, inn, bne_self_eq_false, if_neg (by decide)]
  rfl

theorem lockedDie_shows (s : State) {d : Nat} : s.within [.regs] (lockedDie s d) ∧ (∀ k, ¬ floorReg k → k ≠ dieKey d CLK_STAT → (lockedDie s d).reg k = s.reg k) ∧
    (lockedDie s d).fld (dieKey d CLK_STAT) 0 4 = 0xF ∧
    ∀ i, i < 64 → (lockedDie s d).fld (regionKey CLK_R (64 * d + i)) 10 6 = Config.vfloor (!s.flash.calOk) d i % 31 := by
  obtain ⟨reach, reg, floors⟩ := seeded_shows s d 64 (Nat.le_refl _)
  unfold lockedDie
  rw [readSeeds_eq]
  refine ⟨within_setReg (by decide) reach, fun k hk hc => (reg_setReg_other _ _ hc).trans (reg k hk), ?_, fun i hi => ?_⟩
  · refine (fld_setReg_same _ _ 0 4 _).trans ?_
    rw [BitVec.toNat_ofNat]
    simp only [bits]
    omega
  · refine (fld_setReg_other _ _ _ _ ?_).trans (floors i hi)
    rw [floorKey hi]
    simp only [dieKey, CLK_STAT, ne_eq]
    omega

/-- What a locked die's calibration leaves, as the state before its turn says. -/
structure DieLocked (s t : State) (d : Nat) : Prop where
  reach : s.within [.regs, .cells, .boot] t
  locks : t.fld (dieKey d CLK_STAT) 0 4 = 0xF
  floors : ∀ i, i < 64 → t.fld (regionKey CLK_R (64 * d + i)) 10 6 = Config.vfloor (!s.flash.calOk) d i % 31
  west : ∀ e, s.dieBeside d 3 = some e → e < d → s.isExcluded e = false →
    t.reg (bndKey e 1) = bndValue 6 ((List.range 48).countP fun c => s.fused 6 e (locCross 1 c) || s.fused 6 d (locCross 3 c))
      (if ((List.range 48).countP fun c => s.fused 6 e (locCross 1 c) || s.fused 6 d (locCross 3 c)) < 48 then 6 else 0) ∧
    t.reg (bndKey d 3) = t.reg (bndKey e 1)
  seams : ∀ seam c, seam < 2 → c < 48 → t.fld (seamKey d seam c) (4 * (c % 8)) 4 = 1

/-- A die's own register outside calibration. -/
theorem clockReg_kept {d o : Nat} (hd : d < 15) (ho : o < 0x200) :
    ofDies (dieKey d o) ∧ ¬ sideKey (dieKey d o) ∧ ¬ seamReg (dieKey d o) := by
  simp only [ofDies, sideKey, seamReg, dieKey, CAL_STAT]
  omega

theorem fused_congr (h : t.flash = s.flash) (k d l : Nat) : t.fused k d l = s.fused k d l := by
  unfold State.fused State.isHard State.hardFuses
  rw [h]

theorem calDie_lockedDie (s : State) {d : Nat} (hd : d < s.part.dies) (clear : s.boot.failedX = []) :
    DieLocked s ((lockedDie s d).calDie d []) d ∧ ((lockedDie s d).calDie d []).fld (dieKey d CAL_STAT) 1 1 = 1 ∧
    (∃ ends fx, ((lockedDie s d).calDie d []).boot = { s.boot with failedEnds := ends, failedX := fx }) ∧
    ((lockedDie s d).calDie d []).reg (ecKey BOOT_DIE_STATE) = s.reg (ecKey BOOT_DIE_STATE) := by
  obtain ⟨reach, reg, locks, floors⟩ := lockedDie_shows s (d := d)
  have cal := fun hd clear => calDie_calibrates (lockedDie s d) (d := d) hd clear
  generalize lockedDie s d = a at reach reg locks floors cal ⊢
  have small : d < 15 := Nat.lt_of_lt_of_le hd ((InputPower.dies_le s.part).trans (by decide))
  have part : a.part = s.part := within_part reach
  have flash : a.flash = s.flash := within_same reach .flash (by decide)
  have boot : a.boot = s.boot := within_same reach .boot (by decide)
  have cal := cal (part ▸ hd) (boot ▸ clear)
  generalize a.calDie d [] = t at cal ⊢
  have clock (o : Nat) (ho : o < 0x200) : t.reg (dieKey d o) = a.reg (dieKey d o) :=
    let ⟨die, side, seam⟩ := clockReg_kept small ho
    cal.reg _ die side seam
  have states : a.reg (ecKey BOOT_DIE_STATE) = s.reg (ecKey BOOT_DIE_STATE) := by
    refine reg _ ?_ ?_ <;> simp only [floorReg, ecKey, dieKey, BOOT_DIE_STATE, CLK_STAT, ne_eq] <;> omega
  refine ⟨⟨within_trans (within_mono reach (by decide)) cal.reach, (fld_of_reg (clock CLK_STAT (by decide)) 0 4).trans locks,
    fun i hi => ?_, fun e beside earlier inn => ?_, cal.seams⟩, cal.done, boot ▸ cal.boot, ?_⟩
  · have kept := clock (0x100 + 4 * i) (by omega)
    rw [← floorKey hi] at kept
    exact (fld_of_reg kept 10 6).trans (floors i hi)
  · have west := cal.west e ((dieBeside_congr part d 3).trans beside) earlier ((isExcluded_congr states e).trans inn)
    simp only [fused_congr flash] at west
    exact west
  · obtain ⟨die, side, seam⟩ := dieState_ofDies
    exact (cal.reg _ die side seam).trans states

/-! ### The module after a locked die's turn -/

theorem bit_of_low {x : Nat} (h : bits x 0 2 = 1) : bits x 1 1 = 0 := by
  simp only [bits] at h ⊢
  omega

theorem doneKey_bndKey (e : Nat) {side : Nat} (hs : side < 4) : ¬ doneKey (bndKey e side) := by
  simp only [doneKey, bndKey, dieKey, CAL_BND, CAL_STAT, CAL_LAT_REG, CLK_STAT]
  omega

theorem DieLocked.aligned {d n : Nat} (h : DieLocked s t d) (g : Aligned t u n) : DieLocked s u d := by
  have quiet {k : Nat} (hk : ¬ doneKey k) := g.reg k hk
  refine ⟨within_trans h.reach (within_mono g.reach (by decide)), (g.locks d).trans h.locks, fun i hi => ?_, fun e beside earlier inn => ?_,
    fun seam c hs hc => ?_⟩
  · refine (fld_of_reg (quiet ?_) 10 6).trans (h.floors i hi)
    rw [floorKey hi]
    simp only [doneKey, dieKey, CAL_STAT, CAL_LAT_REG, CLK_STAT]
    omega
  · rw [quiet (doneKey_bndKey e (by decide)), quiet (doneKey_bndKey d (by decide))]
    exact h.west e beside earlier inn
  · refine (fld_of_reg (quiet ?_) _ _).trans (h.seams seam c hs hc)
    have := seamReg_seamKey d hs hc
    simp only [doneKey, seamReg, CAL_STAT, CAL_LAT_REG, CLK_STAT] at this ⊢
    omega

theorem afterDie_locked (s : State) {d : Nat} (hd : d < s.part.dies) (inn : s.isExcluded d = false) (clear : s.boot.failedX = []) :
    DieLocked s (afterDie s d) d ∧ (afterDie s d).fld (dieKey d CAL_STAT) 1 1 = (if d + 1 < s.part.dies then 1 else 0) ∧
    (∃ ends fx, (afterDie s d).boot = { s.boot with failedEnds := ends, failedX := fx }) ∧
    (s.part.dies ≤ d + 1 → ∀ e, e < s.part.dies → s.isExcluded e = false →
      (afterDie s d).fld (dieKey e CAL_STAT) 0 2 = 1 ∧ (afterDie s d).fld (dieKey e CLK_STAT) 9 1 = 1) := by
  obtain ⟨locked, done, boot, states⟩ := calDie_lockedDie s hd clear
  have small : d < 15 := Nat.lt_of_lt_of_le hd ((InputPower.dies_le s.part).trans (by decide))
  unfold afterDie
  generalize (lockedDie s d).calDie d [] = a at locked done boot states ⊢
  by_cases more : d + 1 < s.part.dies
  · rw [if_neg (by omega), if_pos more]
    exact ⟨locked, done, boot, fun last => absurd last (by omega)⟩
  · rw [if_pos (by omega), if_neg more, calDone_eq, within_part locked.reach]
    have all := StartCalibration.aligned a s.part.dies
    generalize (List.range s.part.dies).foldl (dieAligned a) a = b at all ⊢
    have shown (e : Nat) (he : e < s.part.dies) (hin : s.isExcluded e = false) := all.shown e he ((isExcluded_congr states e).trans hin)
    exact ⟨locked.aligned all, bit_of_low (shown d hd inn).1, (show b.boot = a.boot from within_same all.reach .boot (by decide)) ▸ boot, fun _ => shown⟩

/-- The phase ends alike where time and the phase's start are alike. -/
theorem phaseEnds_of_alike {p : Nat} (now : t.now = s.now) (start : t.boot.phaseStart = s.boot.phaseStart) (h : t.phaseEnds u p) : s.phaseEnds u p := by
  unfold State.phaseEnds at h ⊢
  rwa [now, start] at h

theorem turnKey_dieKey (d o : Nat) : ¬ turnKey (dieKey d o)
  | .inl h => InputPower.ecKey_ne_dieKey _ _ (by decide) h.symm
  | .inr h => InputPower.ecKey_ne_dieKey _ _ (by decide) h.symm

theorem pllCalibration_locks {d : Nat} (phase : s.inPhase 4 = true) (next : s.boot.nextDie = d) (hd : d < s.part.dies) (inn : s.isExcluded d = false)
    (clear : s.boot.failedX = []) :
    DieLocked s (s.pllCalibration d true [] []) d ∧
    (s.pllCalibration d true [] []).fld (dieKey d CAL_STAT) 1 1 = (if d + 1 < s.part.dies then 1 else 0) ∧
    (s.part.dies ≤ d + 1 → ∀ e, e < s.part.dies → s.isExcluded e = false →
      (s.pllCalibration d true [] []).fld (dieKey e CAL_STAT) 0 2 = 1 ∧ (s.pllCalibration d true [] []).fld (dieKey e CLK_STAT) 9 1 = 1) ∧
    if d + 1 < s.part.dies then (s.pllCalibration d true [] []).boot.nextDie = d + 1 else s.phaseEnds (s.pllCalibration d true [] []) 4 := by
  obtain ⟨locked, done, ⟨ends, fx, boot⟩, all⟩ := afterDie_locked s hd inn clear
  rw [pllCalibration_locked phase next inn]
  generalize afterDie s d = a at locked done all boot ⊢
  have turn := dieDone_over (u := a) (d := d) (show a.boot.nextDie = d by rw [boot]; exact next)
  generalize a.dieDone 4 = t at turn ⊢
  have kept (e o lo w : Nat) : t.fld (dieKey e o) lo w = a.fld (dieKey e o) lo w := fld_of_reg (turn.reg _ (turnKey_dieKey e o)) lo w
  refine ⟨⟨within_trans locked.reach (within_mono turn.reach (by decide)), (kept _ _ _ _).trans locked.locks, fun i hi => (kept _ _ _ _).trans (locked.floors i hi),
      fun e beside earlier inn => ?_, fun seam c hs hc => (kept _ _ _ _).trans (locked.seams seam c hs hc)⟩,
    (kept _ _ _ _).trans done, fun last e he inn => ?_, ?_⟩
  · rw [show t.reg (bndKey e 1) = a.reg (bndKey e 1) from turn.reg _ (turnKey_dieKey _ _), show t.reg (bndKey d 3) = a.reg (bndKey d 3) from turn.reg _ (turnKey_dieKey _ _)]
    exact locked.west e beside earlier inn
  · rw [kept, kept]
    exact all last e he inn
  · have := turn.next
    rw [within_part locked.reach] at this
    by_cases more : d + 1 < s.part.dies
    · rw [if_pos more] at this ⊢
      exact this
    · rw [if_neg more] at this ⊢
      exact phaseEnds_of_alike (now_of_within locked.reach) (show a.boot.phaseStart = s.boot.phaseStart by rw [boot]) this

/-! ### A die whose loops do not lock -/

/-- The die beside an excluded one shows none on that side. -/
def besideOut (d : Nat) (t : State) (side : Nat) : State :=
  match t.dieBeside d side with
  | some e => t.absentSide e ((side + 2) % 4)
  | none => t

structure SidesOut (s t : State) (d n : Nat) : Prop where
  reach : s.within [.regs] t
  reg : ∀ k, ¬ sideKey k → t.reg k = s.reg k
  absent : ∀ side e, side < n → s.dieBeside d side = some e → t.reg (bndKey e ((side + 2) % 4)) = 0

theorem sidesOut (s : State) (d n : Nat) : SidesOut s ((List.range n).foldl (besideOut d) s) d n := by
  induction n with
  | zero => exact ⟨within_refl s, fun _ _ => rfl, fun side _ h => absurd h (Nat.not_lt_zero side)⟩
  | succ n ih =>
    rw [List.range_succ, List.foldl_append, List.foldl_cons, List.foldl_nil]
    generalize (List.range n).foldl (besideOut d) s = a at ih ⊢
    unfold besideOut
    rw [dieBeside_congr (within_part ih.reach) d n]
    cases beside : s.dieBeside d n with
    | none =>
      refine ⟨ih.reach, ih.reg, fun side e h some => ih.absent side e (Nat.lt_of_le_of_ne (Nat.le_of_lt_succ h) fun same => ?_) some⟩
      rw [same, beside] at some
      cases some
    | some f =>
      have opp : (n + 2) % 4 < 4 := Nat.mod_lt _ (by decide)
      obtain ⟨zero, reach, regs⟩ := absentSide_shows a f opp
      refine ⟨within_trans ih.reach reach, fun k hk => (regs k (fun h => hk (sideKey_latKey h)) fun h : k = _ => hk (h ▸ sideKey_bndKey f opp)).trans (ih.reg k hk),
        fun side e h some => ?_⟩
      by_cases same : bndKey e ((side + 2) % 4) = bndKey f ((n + 2) % 4)
      · exact same ▸ zero
      · refine (regs _ ?_ same).trans (ih.absent side e (Nat.lt_of_le_of_ne (Nat.le_of_lt_succ h) fun hn => same ?_) some)
        · simp only [latKey, bndKey, dieKey, CAL_BND]
          omega
        · subst hn
          rw [beside] at some
          cases some
          rfl

theorem pllFail_eq (s : State) (d : Nat) : s.pllFail d = (List.range 4).foldl (besideOut d) (s.excludeDie d 4 false) := rfl

/-- The module once a die that did not lock is excluded, and calibration done where it was the last. -/
def afterFailed (s : State) (d : Nat) : State := if s.part.dies ≤ d + 1 then (s.pllFail d).calDone else s.pllFail d

theorem pllCalibration_unlocked {d : Nat} (phase : s.inPhase 4 = true) (next : s.boot.nextDie = d) (inn : s.isExcluded d = false) :
    s.pllCalibration d false [] [] = (afterFailed s d).dieDone 4 := by
  unfold State.pllCalibration
  rw [phase, next, inn, bne_self_eq_false, if_neg (by decide)]
  rfl

/-- What the exclusion of a die whose loops do not lock leaves. -/
structure DieUnlocked (s t : State) (d : Nat) : Prop where
  state : t.dieState d = 3
  logged : s.logs t 0x8A (.dieUnit d 0) (4 + d * 2 ^ 8)
  absent : ∀ side e, side < 4 → s.dieBeside d side = some e → t.reg (bndKey e ((side + 2) % 4)) = 0
  cells : t.cells = s.cells

/-- A change of other registers keeps it. -/
theorem DieUnlocked.keep {d : Nat} (h : DieUnlocked s t d) (state : u.reg (ecKey BOOT_DIE_STATE) = t.reg (ecKey BOOT_DIE_STATE)) (err : u.err = t.err)
    (bnd : ∀ e side, side < 4 → u.reg (bndKey e side) = t.reg (bndKey e side)) (cells : u.cells = t.cells) : DieUnlocked s u d :=
  ⟨(fld_of_reg state _ _).trans h.state, by unfold State.logs; rw [err]; exact h.logged, fun side e hs some => (bnd e _ (Nat.mod_lt _ (by decide))).trans (h.absent side e hs some),
    cells.trans h.cells⟩

theorem pllFail_excludes (s : State) {d : Nat} (hd : d < s.part.dies) : DieUnlocked s (s.pllFail d) d := by
  have out := StartPower.excludeDie_excludes s (d := d) (Nat.lt_of_lt_of_le hd ((InputPower.dies_le s.part).trans (by decide))) 4
  rw [pllFail_eq]
  generalize s.excludeDie d 4 false = a at out ⊢
  have sides := sidesOut a d 4
  generalize (List.range 4).foldl (besideOut d) a = t at sides ⊢
  refine ⟨(fld_of_reg (sides.reg _ dieState_ofDies.2.1) _ _).trans out.state, ?_, fun side e hs some => sides.absent side e hs ?_, ?_⟩
  · unfold State.logs
    rw [show t.err = a.err from within_same sides.reach .err (by decide)]
    exact out.logged
  · exact (dieBeside_congr (within_part out.reach) d side).trans some
  · exact (show t.cells = a.cells from within_same sides.reach .cells (by decide)).trans (within_same out.reach .cells (by decide))

theorem afterFailed_excludes (s : State) {d : Nat} (hd : d < s.part.dies) : DieUnlocked s (afterFailed s d) d := by
  have out := pllFail_excludes s hd
  unfold afterFailed
  generalize s.pllFail d = a at out ⊢
  by_cases last : s.part.dies ≤ d + 1
  · rw [if_pos last, calDone_eq]
    have all := aligned a a.part.dies
    generalize (List.range a.part.dies).foldl (dieAligned a) a = b at all ⊢
    refine out.keep (all.reg _ ?_) (within_same all.reach .err (by decide)) (fun e side hs => all.reg _ (doneKey_bndKey e hs)) (within_same all.reach .cells (by decide))
    simp only [doneKey, ecKey, BOOT_DIE_STATE, CAL_STAT, CAL_LAT_REG, CLK_STAT]
    omega
  · rw [if_neg last]
    exact out

theorem pllCalibration_excludes {d : Nat} (phase : s.inPhase 4 = true) (next : s.boot.nextDie = d) (hd : d < s.part.dies) (inn : s.isExcluded d = false) :
    DieUnlocked s (s.pllCalibration d false [] []) d := by
  have out := afterFailed_excludes s hd
  rw [pllCalibration_unlocked phase next inn]
  generalize afterFailed s d = a at out ⊢
  have turn := dieDone_over (u := a) (d := a.boot.nextDie) rfl
  refine out.keep (turn.reg _ ?_) (within_same turn.reach .err (by decide)) (fun e side _ => turn.reg _ (turnKey_dieKey _ _)) (within_same turn.reach .cells (by decide))
  simp only [turnKey, ecKey, BOOT_DIE_STATE, BOOT_STAT, BOOT_PTIME]
  omega

end Sys2Proof.StartCalibration
end

section
/-! PROOFS. Phase 5 of a start: the cells of every region that has power are primed (R64, R377). -/

namespace Sys2Proof.StartPriming

open Sys2Proof Sys2Proof.Machine Sys2Proof.Machine.State Sys2Proof.Laws Sys2Proof.Clauses
open Sys2Proof.StartPhases (within_same within_part)
open Sys2Proof.RegionCommands (region_of_regions resDone_keeps resKey)
open Sys2Proof.PrimerAndScrubbers
open Sys2Proof.InputPower (fld_of_reg)

variable {s t u : State}

/-- Every region but those listed is in the stage it was in. -/
def StagesBut (s t : State) (l : List Nat) : Prop :=
  ∀ q, q ∉ l → (t.region q).st = (s.region q).st ∧ (t.region q).on = (s.region q).on ∧ (t.region q).sliceCap = (s.region q).sliceCap

theorem StagesBut.trans {l m : List Nat} (h : StagesBut s t l) (g : StagesBut t u m) : StagesBut s u (l ++ m) := fun q hq =>
  let ⟨st, on, cap⟩ := g q fun hm => hq (List.mem_append_right l hm)
  let ⟨st', on', cap'⟩ := h q fun hl => hq (List.mem_append_left m hl)
  ⟨st.trans st', on.trans on', cap.trans cap'⟩

theorem StagesBut.of_regions (h : t.regions = s.regions) : StagesBut s t [] := fun q _ => by
  rw [region_of_regions h q]
  exact ⟨rfl, rfl, rfl⟩

theorem stages_act (s : State) (c i n : Nat) : StagesBut s (s.act c i n) [] := fun q _ => by
  unfold State.act
  rw [region_setRegion]
  split
  · next h =>
    subst h
    exact ⟨rfl, rfl, rfl⟩
  · exact ⟨rfl, rfl, rfl⟩

theorem primed_of_reg {c e : Nat} (h : t.reg (cellKey e SPM_PRIME_STAT) = s.reg (cellKey c SPM_PRIME_STAT)) : t.primed e = s.primed c := by
  unfold State.primed State.fld
  rw [h]

/-- A cell's priming reaches no register but the cell's. -/
theorem reg_primeCell (s : State) {c k : Nat} (other : ∀ o, o < 0x1000000 → k ≠ cellKey c o) : (s.primeCell c).reg k = s.reg k := by
  have detours : ¬ ∃ n ∈ List.range 16, k = cellKey c (RTR_DETOUR + 4 * n) := fun ⟨n, hn, same⟩ =>
    other _ (by have := List.mem_range.1 hn; unfold RTR_DETOUR; omega) same
  have counters : ¬ ∃ n ∈ List.range 48, k = ctrKey c n := fun ⟨n, hn, same⟩ =>
    other _ (by have := List.mem_range.1 hn; unfold SYNC_CTR; omega) same
  rw [primeCell_eq, act_reg, reg_setReg, if_neg (other _ (by decide)), setCell_reg, primedRegs, reg_setFld, if_neg (other _ (by decide)), reg_setFld,
    if_neg (other _ (by decide)), reg_foldl_setReg, if_neg detours, reg_foldl_setReg, if_neg counters]
  rfl

/-- A register that priming leaves: a die's, but for the result of region commands. -/
def Unprimed (k : Nat) : Prop := k < 0x10000000 ∧ k % 0x1000000 ≠ PWR_REG_RES

theorem Unprimed.primeCell {k : Nat} (h : Unprimed k) (s : State) (c : Nat) : (s.primeCell c).reg k = s.reg k :=
  reg_primeCell s fun o _ => by
    have := h.1
    simp only [cellKey, ne_eq]
    omega

theorem Unprimed.resDone {k : Nat} (h : Unprimed k) (s : State) (r : Nat) : (s.resDone r).reg k = s.reg k :=
  (resDone_keeps s r).2 _ fun same => h.2 (by rw [same]; simp only [resKey, dieKey, PWR_REG_RES]; omega)

theorem prime_stat_other (s : State) {c e : Nat} (h : e ≠ c) : (s.primeCell c).reg (cellKey e SPM_PRIME_STAT) = s.reg (cellKey e SPM_PRIME_STAT) :=
  reg_primeCell s fun o ho => by
    simp only [cellKey, SPM_PRIME_STAT, ne_eq]
    omega

/-- What a cell's priming leaves of its module. -/
structure CellPrimed (s t : State) (c : Nat) : Prop where
  reach : s.within [.regs, .mem, .cells, .regions] t
  stages : StagesBut s t []
  primed : t.primed c = true
  kept : ∀ e, s.primed e = true → t.primed e = true
  reg : ∀ k, Unprimed k → t.reg k = s.reg k

theorem primeCell_primes (s : State) (c : Nat) : CellPrimed s (s.primeCell c) c := by
  have done : (s.primeCell c).primed c = true := by
    rw [State.primed, State.fld, done_primeCell]
    rfl
  refine ⟨within_primeCell (List.Subset.refl _) (within_refl s), ?_, done, fun e he => ?_, fun k hk => hk.primeCell s c⟩
  · have regions : (primedRegs s c).regions = s.regions := within_same (within_primedRegs s c) .regions (by decide)
    rw [primeCell_eq]
    generalize primedRegs s c = a at regions ⊢
    refine StagesBut.trans (l := []) (m := []) (StagesBut.of_regions ?_) (stages_act _ c 1 24576)
    rw [setReg_regions, setCell_regions, regions]
  · by_cases h : e = c
    · rw [h]
      exact done
    · exact (primed_of_reg (prime_stat_other s h)).trans he

/-- The first cells of a list are primed. -/
structure ListPrimed (s t : State) (l : List Nat) : Prop where
  reach : s.within [.regs, .mem, .cells, .regions] t
  stages : StagesBut s t []
  primed : ∀ c ∈ l, t.primed c = true
  kept : ∀ e, s.primed e = true → t.primed e = true
  reg : ∀ k, Unprimed k → t.reg k = s.reg k

theorem foldl_primeCell (l : List Nat) : ∀ s : State, ListPrimed s (l.foldl (fun u c => u.primeCell c) s) l := by
  induction l with
  | nil => exact fun s => ⟨within_refl s, StagesBut.of_regions rfl, fun c hc => absurd hc List.not_mem_nil, fun _ => id, fun _ _ => rfl⟩
  | cons c l ih =>
    intro s
    rw [List.foldl_cons]
    have one := primeCell_primes s c
    have rest := ih (s.primeCell c)
    generalize s.primeCell c = a at one rest ⊢
    refine ⟨within_trans one.reach rest.reach, one.stages.trans rest.stages, fun e he => ?_, fun e he => rest.kept e (one.kept e he), fun k hk => (rest.reg k hk).trans (one.reg k hk)⟩
    rcases List.mem_cons.1 he with rfl | he
    · exact rest.kept _ one.primed
    · exact rest.primed e he

/-! ### The region comes up (R377) -/

theorem resKey_ne_cellKey {r : Nat} (hr : r < 512) (c o : Nat) : cellKey c o ≠ resKey r := by
  simp only [cellKey, resKey, dieKey, regionDie, PWR_REG_RES, ne_eq]
  omega

theorem primed_resDone {r : Nat} (hr : r < 512) (c : Nat) : (s.resDone r).primed c = s.primed c :=
  primed_of_reg ((resDone_keeps s r).2 _ (resKey_ne_cellKey hr c _))

structure RegionComesUp (s t : State) (r : Nat) : Prop where
  reach : s.within [.regs, .regions] t
  stages : StagesBut s t [r]
  up : (s.region r).st = 2 → (s.region r).on = none → (∀ c ∈ cellsOf r, s.primed c = true) → (t.region r).st = if (s.region r).sliceCap = true then 4 else 3
  primed : ∀ c, t.primed c = s.primed c
  reg : ∀ k, Unprimed k → t.reg k = s.reg k

theorem regionUp_comesUp (s : State) {r : Nat} (hr : r < 512) : RegionComesUp s (s.regionUp r) r := by
  unfold State.regionUp
  dsimp only
  by_cases up : (s.region r).st = 2 ∧ (s.region r).on = none ∧ ((cellsOf r).all fun c => s.primed c) = true
  · rw [if_pos up]
    generalize hst : (if (s.region r).sliceCap = true then 4 else 3) = st
    have set : StagesBut s (s.setSt r st) [r] := fun q hq => by
      unfold State.setSt
      rw [region_setRegion, if_neg fun h => hq (List.mem_singleton.2 h)]
      exact ⟨rfl, rfl, rfl⟩
    have now : ((s.setSt r st).region r).st = st := by
      unfold State.setSt
      rw [region_setRegion_same]
    have same (c : Nat) : (s.setSt r st).primed c = s.primed c := rfl
    have regs (k : Nat) : (s.setSt r st).reg k = s.reg k := rfl
    have within : s.within [.regs, .regions] (s.setSt r st) := within_setSt (by decide) (within_refl s)
    generalize s.setSt r st = a at set now same regs within ⊢
    have regions : (a.resDone r).regions = a.regions := within_same (resDone_keeps a r).1 .regions (by decide)
    exact ⟨within_resDone (by decide) within, set.trans (StagesBut.of_regions regions), fun _ _ _ => (congrArg Region.st (region_of_regions regions r)).trans (now.trans hst.symm),
      fun c => (primed_resDone hr c).trans (same c), fun k hk => (hk.resDone a r).trans (regs k)⟩
  · rw [if_neg up]
    exact ⟨within_refl s, fun _ _ => ⟨rfl, rfl, rfl⟩, fun st on all => absurd ⟨st, on, List.all_eq_true.2 all⟩ up, fun _ => rfl, fun _ _ => rfl⟩

/-! ### Every region's turn -/

/-- A region's turn in phase 5. -/
def primeTurn (t : State) (r : Nat) : State :=
  if 2 ≤ (t.region r).st ∧ (t.region r).st ≤ 4 ∧ (t.region r).on = none then ((cellsOf r).foldl (fun u c => u.primeCell c) t).regionUp r else t

structure TurnPrimed (s t : State) (r : Nat) : Prop where
  reach : s.within [.regs, .mem, .cells, .regions] t
  stages : StagesBut s t [r]
  primed : ∀ c ∈ cellsOf r, 2 ≤ (s.region r).st → (s.region r).st ≤ 4 → (s.region r).on = none → t.primed c = true
  up : (s.region r).st = 2 → (s.region r).on = none → (t.region r).st = if (s.region r).sliceCap = true then 4 else 3
  kept : ∀ e, s.primed e = true → t.primed e = true
  reg : ∀ k, Unprimed k → t.reg k = s.reg k

theorem primeTurn_primes (s : State) {r : Nat} (hr : r < 512) : TurnPrimed s (primeTurn s r) r := by
  unfold primeTurn
  by_cases due : 2 ≤ (s.region r).st ∧ (s.region r).st ≤ 4 ∧ (s.region r).on = none
  · rw [if_pos due]
    have cells := foldl_primeCell (cellsOf r) s
    generalize (cellsOf r).foldl (fun u c => u.primeCell c) s = a at cells ⊢
    have comes := regionUp_comesUp a hr
    obtain ⟨st, on, cap⟩ := cells.stages r List.not_mem_nil
    refine ⟨within_trans cells.reach (within_mono comes.reach (by decide)), cells.stages.trans comes.stages, fun c hc _ _ _ => (comes.primed c).trans (cells.primed c hc),
      fun two none => ?_, fun e he => (comes.primed e).trans (cells.kept e he),
      fun k hk => (comes.reg k hk).trans (cells.reg k hk)⟩
    rw [comes.up (st.trans two) (on.trans none) cells.primed, cap]
  · rw [if_neg due]
    exact ⟨within_refl s, fun _ _ => ⟨rfl, rfl, rfl⟩, fun c _ lo hi on => absurd ⟨lo, hi, on⟩ due,
      fun two none => absurd ⟨two.ge, two ▸ (by decide), none⟩ due, fun _ => id, fun _ _ => rfl⟩

/-- The first `n` regions have had their turn. -/
structure RegionsPrimed (s t : State) (n : Nat) : Prop where
  reach : s.within [.regs, .mem, .cells, .regions] t
  stages : ∀ q, n ≤ q → (t.region q).st = (s.region q).st ∧ (t.region q).on = (s.region q).on ∧ (t.region q).sliceCap = (s.region q).sliceCap
  primed : ∀ r, r < n → ∀ c ∈ cellsOf r, 2 ≤ (s.region r).st → (s.region r).st ≤ 4 → (s.region r).on = none → t.primed c = true
  up : ∀ r, r < n → (s.region r).st = 2 → (s.region r).on = none → (t.region r).st = if (s.region r).sliceCap = true then 4 else 3
  reg : ∀ k, Unprimed k → t.reg k = s.reg k

theorem regionsPrimed (s : State) : ∀ n, n ≤ 512 → RegionsPrimed s ((List.range n).foldl primeTurn s) n := by
  intro n
  induction n with
  | zero => exact fun _ => ⟨within_refl s, fun _ _ => ⟨rfl, rfl, rfl⟩, fun r hr => absurd hr (Nat.not_lt_zero r), fun r hr => absurd hr (Nat.not_lt_zero r), fun _ _ => rfl⟩
  | succ n ih =>
    intro hn
    have ih := ih (by omega)
    rw [List.range_succ, List.foldl_append, List.foldl_cons, List.foldl_nil]
    generalize (List.range n).foldl primeTurn s = a at ih ⊢
    have turn := primeTurn_primes a (r := n) (by omega)
    generalize primeTurn a n = t at turn ⊢
    have apart {q : Nat} (h : q ≠ n) := turn.stages q fun hq => h (List.mem_singleton.1 hq)
    obtain ⟨st, on, cap⟩ := ih.stages n (Nat.le_refl n)
    refine ⟨within_trans ih.reach turn.reach, fun q hq => ?_, fun r hr c hc lo hi none => ?_, fun r hr two none => ?_,
      fun k hk => (turn.reg k hk).trans (ih.reg k hk)⟩
    · obtain ⟨st, on, cap⟩ := ih.stages q (by omega)
      obtain ⟨st', on', cap'⟩ := apart (q := q) (by omega)
      exact ⟨st'.trans st, on'.trans on, cap'.trans cap⟩
    · rcases Nat.lt_succ_iff_lt_or_eq.1 hr with before | rfl
      · exact turn.kept c (ih.primed r before c hc lo hi none)
      · exact turn.primed c hc (st ▸ lo) (st ▸ hi) (on.trans none)
    · rcases Nat.lt_succ_iff_lt_or_eq.1 hr with before | rfl
      · exact (apart (Nat.ne_of_lt before)).1.trans (ih.up r before two none)
      · rw [turn.up (st.trans two) (on.trans none), cap]

theorem primeRegions_eq (s : State) : s.primeRegions = (List.range (s.part.dies * 64)).foldl primeTurn s := rfl

theorem primeRegions_primes (s : State) : RegionsPrimed s s.primeRegions (s.part.dies * 64) := by
  rw [primeRegions_eq]
  exact regionsPrimed s _ (by have := InputPower.dies_le s.part; omega)

/-- Phase 5, its regions primed and up (R64, R377). -/
theorem primeAll_primes (phase : s.inPhase 5 = true) : s.phaseEnds s.primeAll 5 ∧ s.primeAll.err = s.err ∧
    ∀ r, r < s.part.dies * 64 → 2 ≤ (s.region r).st → (s.region r).st ≤ 4 → (s.region r).on = none →
      (∀ c ∈ cellsOf r, s.primeAll.primed c = true) ∧ ((s.region r).st = 2 → (s.primeAll.region r).st = if (s.region r).sliceCap = true then 4 else 3) := by
  have primes := primeRegions_primes s
  unfold State.primeAll
  rw [if_pos phase]
  generalize s.primeRegions = a at primes ⊢
  have boot : a.boot = s.boot := within_same primes.reach .boot (by decide)
  have regions : (a.endPhase 5).regions = a.regions := rfl
  refine ⟨StartPhases.phaseEnds_endPhase (u := a) 5 (by decide) (by decide) (RegionCommands.now_of_within primes.reach) (by rw [boot]),
    within_same primes.reach .err (by decide), fun r hr lo hi on => ⟨fun c hc => (primed_of_reg ?_).trans (primes.primed r hr c hc lo hi on), fun two => ?_⟩⟩
  · refine StartPhases.reg_endPhase a 5 ?_ ?_ <;> simp only [cellKey, ecKey, SPM_PRIME_STAT, BOOT_STAT, BOOT_PTIME, ne_eq] <;> omega
  · exact (congrArg Region.st (region_of_regions regions r)).trans (primes.up r hr two on)

end Sys2Proof.StartPriming
end

section
/-! PROOFS. The end of phase 6 of a start: priming again, and the memory devices' training begins (R64, R271). -/

namespace Sys2Proof.StartVotes

open Sys2Proof Sys2Proof.Machine Sys2Proof.Machine.State Sys2Proof.Laws Sys2Proof.Clauses Sys2Proof.StartPriming
open Sys2Proof.StartPhases (within_same within_part phase_of_inPhase phaseEnds_endPhase reg_endPhase)
open Sys2Proof.StartCalibration (fused_congr isExcluded_congr phaseEnds_of_alike)
open Sys2Proof.RegionCommands (now_of_within)
open Sys2Proof.InputPower (fld_of_reg)

variable {s t u : State}

/-! ### The memory devices begin to train -/

/-- A register of a memory device. -/
def deviceReg (k : Nat) : Prop := 0x100000 ≤ k % 0x1000000

theorem deviceReg_memKey (d : Nat) {n : Nat} (hn : n < 12) : deviceReg (memKey d n MEM_STAT) := by
  simp only [deviceReg, memKey, dieKey, MEM_STAT]
  omega

/-- The device begins to train, unless a fuse disables it. -/
def trainDevice (d : Nat) (t : State) (n : Nat) : State := if t.fused 7 d n then t else t.setFld (memKey d n MEM_STAT) 0 3 1

/-- What the start of some training leaves. -/
structure Training (s t : State) : Prop where
  reach : s.within [.regs] t
  reg : ∀ k, ¬ deviceReg k → t.reg k = s.reg k
  kept : ∀ e k, s.devState e k = 1 → t.devState e k = 1

theorem Training.refl (s : State) : Training s s := ⟨within_refl s, fun _ _ => rfl, fun _ _ => id⟩

theorem Training.trans (h : Training s t) (g : Training t u) : Training s u :=
  ⟨within_trans h.reach g.reach, fun k hk => (g.reg k hk).trans (h.reg k hk), fun e k x => g.kept e k (h.kept e k x)⟩

theorem trainDevice_trains (s : State) (d : Nat) {n : Nat} (hn : n < 12) :
    Training s (trainDevice d s n) ∧ (s.fused 7 d n = false → (trainDevice d s n).devState d n = 1) := by
  unfold trainDevice
  by_cases out : s.fused 7 d n = true
  · rw [if_pos out]
    exact ⟨Training.refl s, fun h => absurd (out.symm.trans h) (by decide)⟩
  · rw [if_neg out]
    have now : (s.setFld (memKey d n MEM_STAT) 0 3 1).devState d n = 1 := fld_setFld_same _ _ (by decide)
    refine ⟨⟨within_setFld (by decide) (within_refl s), fun k hk => reg_setFld_other _ _ _ _ fun h : k = _ => hk (h ▸ deviceReg_memKey d hn), fun e k h => ?_⟩, fun _ => now⟩
    by_cases same : memKey e k MEM_STAT = memKey d n MEM_STAT
    · unfold State.devState at now ⊢
      rw [same]
      exact now
    · exact (fld_setFld_other _ _ _ _ _ _ same).trans h

theorem trainDevices_train (s : State) (d n : Nat) (hn : n ≤ 12) :
    Training s ((List.range n).foldl (trainDevice d) s) ∧ ∀ k, k < n → s.fused 7 d k = false → ((List.range n).foldl (trainDevice d) s).devState d k = 1 := by
  induction n with
  | zero => exact ⟨Training.refl s, fun k hk => absurd hk (Nat.not_lt_zero k)⟩
  | succ n ih =>
    obtain ⟨before, states⟩ := ih (by omega)
    rw [List.range_succ, List.foldl_append, List.foldl_cons, List.foldl_nil]
    generalize (List.range n).foldl (trainDevice d) s = a at before states ⊢
    obtain ⟨now, state⟩ := trainDevice_trains a d (n := n) (by omega)
    refine ⟨before.trans now, fun k hk unfused => ?_⟩
    rcases Nat.lt_succ_iff_lt_or_eq.1 hk with earlier | rfl
    · exact now.kept d k (states k earlier unfused)
    · exact state ((fused_congr (within_same before.reach .flash (by decide)) 7 d k).trans unfused)

theorem trainDies_train (l : List Nat) : ∀ s : State, Training s (l.foldl (fun t d => (List.range 12).foldl (trainDevice d) t) s) ∧
    ∀ d ∈ l, ∀ k, k < 12 → s.fused 7 d k = false → (l.foldl (fun t d => (List.range 12).foldl (trainDevice d) t) s).devState d k = 1 := by
  induction l with
  | nil => exact fun s => ⟨Training.refl s, fun d hd => absurd hd List.not_mem_nil⟩
  | cons d l ih =>
    intro s
    rw [List.foldl_cons]
    obtain ⟨first, states⟩ := trainDevices_train s d 12 (Nat.le_refl _)
    generalize (List.range 12).foldl (trainDevice d) s = a at first states ⊢
    obtain ⟨rest, later⟩ := ih a
    refine ⟨first.trans rest, fun e he k hk unfused => ?_⟩
    rcases List.mem_cons.1 he with rfl | he
    · exact rest.kept e k (states k hk unfused)
    · exact later e he k hk ((fused_congr (within_same first.reach .flash (by decide)) 7 e k).trans unfused)

theorem trainBegin_eq (s : State) : s.trainBegin =
    ((List.range s.part.dies).filter fun d => !s.isExcluded d).foldl (fun t d => (List.range 12).foldl (trainDevice d) t) s := rfl

theorem trainBegin_trains (s : State) : Training s s.trainBegin ∧ ∀ d k, d < s.part.dies → k < 12 → s.isExcluded d = false → s.fused 7 d k = false → s.trainBegin.devState d k = 1 := by
  rw [trainBegin_eq]
  obtain ⟨training, states⟩ := trainDies_train ((List.range s.part.dies).filter fun d => !s.isExcluded d) s
  refine ⟨training, fun d k hd hk inn unfused => states d (List.mem_filter.2 ⟨List.mem_range.2 hd, ?_⟩) k hk unfused⟩
  rw [inn]
  rfl

/-! ### Phase 6 ends -/

/-- The end of phase 6 on a module whose tests have been judged. -/
def testsOver (s : State) : State := (s.primeRegions.endPhase 6).trainBegin

/-- A register that the end of phase 6 leaves. -/
def Settled (k : Nat) : Prop := Unprimed k ∧ ¬ deviceReg k ∧ k ≠ ecKey BOOT_STAT ∧ k ≠ ecKey (BOOT_PTIME + 4 * (6 - 1))

structure TestsOver (s t : State) : Prop where
  reach : s.within [.regs, .mem, .cells, .regions, .boot] t
  boot : ∃ start die, t.boot = { s.boot with phaseStart := start, nextDie := die }
  ends : s.phaseEnds t 6
  reg : ∀ k, Settled k → t.reg k = s.reg k
  trains : ∀ d k, d < s.part.dies → k < 12 → s.isExcluded d = false → s.fused 7 d k = false → t.devState d k = 1

theorem testsOver_over (s : State) : TestsOver s (testsOver s) := by
  have primes := primeRegions_primes s
  unfold testsOver
  generalize s.primeRegions = a at primes ⊢
  have boot : a.boot = s.boot := within_same primes.reach .boot (by decide)
  have ended : s.phaseEnds (a.endPhase 6) 6 := phaseEnds_endPhase (u := a) 6 (by decide) (by decide) (now_of_within primes.reach) (by rw [boot])
  have endBoot : (a.endPhase 6).boot = { s.boot with phaseStart := a.now, nextDie := 0 } := by rw [StartPhases.boot_endPhase, boot]
  have reach : s.within [.regs, .mem, .cells, .regions, .boot] (a.endPhase 6) := within_endPhase (by decide) (within_mono primes.reach (by decide))
  have reg (k : Nat) (hk : Settled k) : (a.endPhase 6).reg k = s.reg k := (reg_endPhase a 6 hk.2.2.1 hk.2.2.2).trans (primes.reg k hk.1)
  generalize a.endPhase 6 = b at ended endBoot reach reg ⊢
  obtain ⟨training, states⟩ := trainBegin_trains b
  generalize b.trainBegin = t at training states ⊢
  have boots : t.boot = b.boot := within_same training.reach .boot (by decide)
  have controls (o : Nat) (ho : o < 0x100000) : t.reg (ecKey o) = b.reg (ecKey o) := training.reg _ (by simp only [deviceReg, ecKey]; omega)
  refine ⟨within_trans reach (within_mono training.reach (by decide)), ⟨a.now, 0, boots.trans endBoot⟩, ?_, fun k hk => (training.reg k hk.2.1).trans (reg k hk),
    fun d k hd hk inn unfused => states d k ?_ hk ?_ ?_⟩
  · unfold State.phaseEnds
    rw [fld_of_reg (controls BOOT_STAT (by decide)), controls _ (by decide), boots]
    exact ended
  · rwa [within_part reach]
  · refine (isExcluded_congr (reg _ ?_) d).trans inn
    simp only [Settled, Unprimed, deviceReg, ecKey, BOOT_DIE_STATE, BOOT_STAT, BOOT_PTIME, PWR_REG_RES]
    omega
  · exact (fused_congr (within_same reach .flash (by decide)) 7 d k).trans unfused

/-! ### A neighbour's votes (R64) -/

/-- The tests of one cell leave one cell to vote on. -/
theorem eraseDups_const {c : Nat} {l : List Nat} (some : l ≠ []) (all : ∀ x ∈ l, x = c) : l.eraseDups = [c] := by
  cases l with
  | nil => exact absurd rfl some
  | cons a l =>
    have head : a = c := all a List.mem_cons_self
    have tail : l.filter (fun b => !b == a) = [] := List.filter_eq_nil_iff.2 fun b hb => by
      rw [head, all b (List.mem_cons_of_mem a hb)]
      simp
    rw [List.eraseDups_cons, tail, head]
    rfl

/-- The votes on a cell that is alone tested. -/
theorem neighbourTest_votes {c : Nat} {vs : List (Nat × Nat × Bool)} (phase : s.inPhase 6 = true) (hc : c < s.part.dies * 2304) (inn : s.isExcluded (cellDie c) = false)
    (unfused : s.fused 1 (cellDie c) (locCell c) = false) (enabled : s.boot.disabled.contains c = false) (some : vs ≠ []) (all : ∀ v ∈ vs, v.1 = c) :
    s.neighbourTest [] vs [] [] = testsOver (s.vote c (s.failVotes vs c)) := by
  have one : (vs.map (·.1)).eraseDups = [c] := eraseDups_const (fun h => some (List.map_eq_nil_iff.1 h)) fun x hx => by
    obtain ⟨v, hv, rfl⟩ := List.mem_map.1 hx
    exact all v hv
  unfold State.neighbourTest
  rw [phase, if_neg (by decide)]
  simp only [List.foldl_nil, ite_self, one, decide_eq_true hc, inn, unfused, enabled, List.filter_cons, Bool.not_false, Bool.and_true, if_true, List.filter_nil, List.foldl_cons]
  rfl

end Sys2Proof.StartVotes
end

section
/-! PROOFS. The votes of phase 6 on a cell (R64, R409). -/

namespace Sys2Proof.StartVotes

open Sys2Proof Sys2Proof.Machine Sys2Proof.Machine.State Sys2Proof.Laws Sys2Proof.Clauses Sys2Proof.StartPriming
open Sys2Proof.StartPhases (within_same within_part)
open Sys2Proof.StartCalibration (isExcluded_congr phaseEnds_of_alike fused_congr dieBeside_congr failCrossing_fails crossFailed_iff)
open Sys2Proof.RepairInService (confirmFuse_confirms)
open Sys2Proof.InputPower (fld_of_reg)

variable {s t u : State} {c : Nat}

/-- The votes a cell's testers cast against it. -/
theorem failVotes_eq {n : Nat} {vs : List (Nat × Nat × Bool)}
    (h : (2 ≤ (s.testers c).length ∧ n = (s.testers c).countP fun e => vs.contains (c, e, true)) ∨
      ((s.testers c).length < 2 ∧ n = if vs.contains (c, c, true) = true then 2 else 0)) : s.failVotes vs c = n := by
  unfold State.failVotes
  dsimp only
  rcases h with ⟨many, rfl⟩ | ⟨few, rfl⟩
  · rw [if_neg (Nat.not_lt.2 many)]
  · rw [if_pos few]

theorem cellBad_disables (s : State) {source : Nat} (room : s.flash.rmap.length < 4096) :
    c ∈ (s.cellBad c source).boot.disabled ∧ (s.cellBad c source).fused 1 (cellDie c) (locCell c) = true ∧ (s.cellBad c source).err = s.err ∧
    (s.cellBad c source).boot.phaseStart = s.boot.phaseStart := by
  have confirmed := confirmFuse_confirms s 1 source (cellDie c) (locCell c) room
  unfold State.cellBad
  generalize s.confirmFuse 1 source (cellDie c) (locCell c) = a at confirmed ⊢
  have listed : c ∈ (if s.boot.disabled.contains c = true then s.boot.disabled else s.boot.disabled ++ [c]) := by
    split
    · next h => exact List.contains_iff_mem.1 h
    · exact List.mem_append_right _ (List.mem_singleton_self c)
  exact ⟨listed, confirmed.fused (by decide) (by decide), within_same confirmed.reach .err (by decide), rfl⟩

/-- What two failing votes leave. -/
theorem vote_disables (hc : c < s.part.dies * 2304) (inn : s.isExcluded (cellDie c) = false) (room : s.flash.rmap.length < 4096) {n : Nat} (hn : 2 ≤ n) :
    c ∈ (s.vote c n).boot.disabled ∧ (s.vote c n).fused 1 (cellDie c) (locCell c) = true ∧ s.logs (s.vote c n) 0x84 (.cell c 0) 0 ∧
    (s.vote c n).boot.phaseStart = s.boot.phaseStart := by
  obtain ⟨disabled, fused, err, start⟩ := cellBad_disables s (c := c) (source := 3) room
  unfold State.vote
  dsimp only
  rw [inn, if_neg (by simp only [not_or, Nat.not_le]; exact ⟨hc, by decide⟩), if_pos hn]
  generalize s.cellBad c 3 = a at disabled fused err start ⊢
  exact ⟨disabled, fused, logs_raise (by rw [← err]; rfl) _ _ _ _, start⟩

theorem vote_none (s : State) (c : Nat) : s.vote c 0 = s := by
  unfold State.vote
  dsimp only
  split
  · rfl
  · rw [if_neg (by decide), if_neg (by decide)]

theorem vote_counts (hc : c < s.part.dies * 2304) (inn : s.isExcluded (cellDie c) = false) : s.vote c 1 = s.incSat (dieKey (cellDie c) FUSE_NVOTE) 7 8 1 := by
  unfold State.vote
  dsimp only
  rw [inn, if_neg (by simp only [not_or, Nat.not_le]; exact ⟨hc, by decide⟩), if_neg (by decide), if_pos rfl]

theorem settled_fuses {d o : Nat} (hd : d < 8) (hlo : 0x70000 ≤ o) (hhi : o < 0x70100) : Settled (dieKey d o) := by
  simp only [Settled, Unprimed, deviceReg, dieKey, ecKey, BOOT_STAT, BOOT_PTIME, PWR_REG_RES]
  omega

theorem crossFailed_congr {d side : Nat} (part : t.part = s.part) (failedX : t.boot.failedX = s.boot.failedX) : t.crossFailed d side c = s.crossFailed d side c := by
  unfold State.crossFailed
  rw [dieBeside_congr part, failedX]

/-! ### What the end of phase 6 leaves of its tests -/

/-- The commands of phase 6 leave time and the start of the phase to its end. -/
theorem TestsOver.ends_of (h : TestsOver t u) (now : t.now = s.now) (start : t.boot.phaseStart = s.boot.phaseStart) : s.phaseEnds u 6 :=
  phaseEnds_of_alike now start h.ends

theorem TestsOver.disabled (h : TestsOver t u) : u.boot.disabled = t.boot.disabled := by
  obtain ⟨start, die, boot⟩ := h.boot
  rw [boot]

theorem TestsOver.wires (h : TestsOver t u) : u.boot.wires = t.boot.wires := by
  obtain ⟨start, die, boot⟩ := h.boot
  rw [boot]

theorem TestsOver.crossFailed (h : TestsOver t u) (d side c : Nat) : u.crossFailed d side c = t.crossFailed d side c := by
  obtain ⟨start, die, boot⟩ := h.boot
  exact crossFailed_congr (within_part h.reach) (by rw [boot])

theorem TestsOver.err (h : TestsOver t u) : u.err = t.err := within_same h.reach .err (by decide)

theorem TestsOver.flash (h : TestsOver t u) : u.flash = t.flash := within_same h.reach .flash (by decide)

theorem TestsOver.logs {cls detail : Nat} {loc : Loc} (h : TestsOver t u) (g : s.logs t cls loc detail) : s.logs u cls loc detail :=
  logs_of_err g (congrArg Err.recQ h.err)

/-! ### A crossing is disabled (R419) -/

/-- The boundary's registers show the crossing disabled where the boundary is calibrated. -/
def crossShown (s : State) (d side c : Nat) : State :=
  match s.dieBeside d side with
  | some e => if s.fld (dieKey d CAL_STAT) 0 1 = 1 then s.crossShows d e side c else s
  | none => s

theorem within_crossShown (s : State) (d side c : Nat) : s.within [.regs] (crossShown s d side c) := by
  unfold crossShown
  cases s.dieBeside d side with
  | none => exact within_refl s
  | some e =>
    dsimp only
    split
    · exact within_crossShows (List.Subset.refl _) (within_refl s)
    · exact within_refl s

/-- A fuse of phase 6 is confirmed, counted in a field of its die and recorded (R409, R419). -/
def fuseTold (s : State) (typ d loc o lo w c : Nat) : State := ((s.confirmFuse typ 4 d loc).incSat (dieKey d o) lo w 1).raise 0x85 (.dieUnit d c) 0 none

structure FuseTold (s t : State) (d o c : Nat) : Prop where
  reach : s.within [.regs, .flash, .err] t
  reg : ∀ k, k ≠ dieKey d o → t.reg k = s.reg k
  logged : s.flash.rmap.length < 4096 → s.logs t 0x85 (.dieUnit d c) 0

theorem fuseTold_tells (s : State) (typ d loc o lo w c : Nat) : FuseTold s (fuseTold s typ d loc o lo w c) d o c := by
  have room := confirmFuse_confirms s typ 4 d loc
  have reach : s.within [.flash, .err] (s.confirmFuse typ 4 d loc) := within_confirmFuse (List.Subset.refl _) (within_refl s)
  unfold fuseTold
  generalize s.confirmFuse typ 4 d loc = a at room reach ⊢
  have regs : a.regs = s.regs := within_same reach .regs (by decide)
  refine ⟨within_raise (by decide) (within_incSat (by decide) (within_mono reach (by decide))), fun k hk => ?_, fun h => ?_⟩
  · exact (raise_reg ..).trans ((reg_incSat_other _ _ _ _ hk).trans (reg_of_regs (within_part reach) regs k))
  · have err : a.err = s.err := within_same (room h).reach .err (by decide)
    exact logs_raise (by rw [← err]; rfl) _ _ _ _

theorem disableCrossing_eq (s : State) (d side c : Nat) :
    s.disableCrossing d side c = fuseTold ((crossShown s d side c).failCrossing d side c) 6 d (locCross side c) FUSE_XDIS (6 * side) 6 c := rfl

/-- What the disabling of a crossing leaves. -/
structure CrossingOut (s t : State) (d side c : Nat) : Prop where
  reach : s.within [.regs, .cells, .boot, .flash, .err] t
  failed : t.crossFailed d side c = true
  start : t.boot.phaseStart = s.boot.phaseStart
  logged : s.flash.rmap.length < 4096 → s.logs t 0x85 (.dieUnit d c) 0

theorem disableCrossing_out (s : State) (d side c : Nat) : CrossingOut s (s.disableCrossing d side c) d side c := by
  have reach : s.within [.regs, .cells, .boot, .flash, .err] (s.disableCrossing d side c) := within_disableCrossing (List.Subset.refl _) (within_refl s)
  have shown := within_crossShown s d side c
  rw [disableCrossing_eq] at reach ⊢
  generalize crossShown s d side c = a at shown reach ⊢
  obtain ⟨fails, xs⟩ := failCrossing_fails a d side c
  generalize a.failCrossing d side c = b at fails xs reach ⊢
  have told := fuseTold_tells b 6 d (locCross side c) FUSE_XDIS (6 * side) 6 c
  generalize fuseTold b 6 d (locCross side c) FUSE_XDIS (6 * side) 6 c = t at told reach ⊢
  have boot : t.boot = b.boot := within_same told.reach .boot (by decide)
  have before : s.within [.regs, .cells, .boot] b := within_trans (within_mono shown (by decide)) fails.reach
  obtain ⟨ends, fx, boots⟩ := fails.boot
  refine ⟨reach, ?_, ?_, fun room => ?_⟩
  · exact (crossFailed_iff t d side c).2 (.inl (boot ▸ (xs _).2 (.inr rfl)))
  · have start : b.boot.phaseStart = a.boot.phaseStart := by rw [boots]
    rw [boot, start, show a.boot = s.boot from within_same shown .boot (by decide)]
  · have flash : b.flash = s.flash := within_same before .flash (by decide)
    have err : b.err = s.err := within_same before .err (by decide)
    have logged := told.logged (flash ▸ room)
    unfold State.logs at logged ⊢
    rwa [err] at logged

/-! ### A failing wire (R419) -/

/-- A wire that its spares stand in for. -/
def wireSpared (s : State) (d side c w : Nat) : State :=
  fuseTold (s.setBoot { s.boot with wires := (d, side, c, w) :: s.boot.wires }) 5 d (locCross side c + w * 2 ^ 8) FUSE_WIRES (8 * side) 8 c

theorem wireFail_eq {d side c w : Nat} (hs : side < 4) (hc : c < 48) (hw : w < 40) (clear : s.crossFailed d side c = false) (inn : s.isExcluded d = false) :
    s.wireFail d side c w = if (s.wiresOut d side c).contains w = true then s
      else if steered (s.wiresOut d side c ++ [w]) = true then wireSpared s d side c w else s.disableCrossing d side c := by
  unfold State.wireFail
  dsimp only
  rw [clear, inn]
  by_cases out : (s.wiresOut d side c).contains w = true
  · rw [if_pos out, if_pos (.inr (.inr (.inr (.inl out))))]
  · rw [if_neg out, if_neg (by simp only [not_or, Nat.not_le]; exact ⟨hw, hc, hs, out, by decide, by decide⟩)]
    rfl

structure WireSpared (s t : State) (d side c w : Nat) : Prop where
  reach : s.within [.regs, .boot, .flash, .err] t
  boot : t.boot = { s.boot with wires := (d, side, c, w) :: s.boot.wires }
  reg : ∀ k, k ≠ dieKey d FUSE_WIRES → t.reg k = s.reg k
  logged : s.flash.rmap.length < 4096 → s.logs t 0x85 (.dieUnit d c) 0

theorem wireSpared_spares (s : State) (d side c w : Nat) : WireSpared s (wireSpared s d side c w) d side c w := by
  unfold wireSpared
  generalize hb : { s.boot with wires := (d, side, c, w) :: s.boot.wires } = b
  have reach : s.within [.boot] (s.setBoot b) := within_setBoot (by decide) (within_refl s)
  have told := fuseTold_tells (s.setBoot b) 5 d (locCross side c + w * 2 ^ 8) FUSE_WIRES (8 * side) 8 c
  generalize fuseTold (s.setBoot b) 5 d (locCross side c + w * 2 ^ 8) FUSE_WIRES (8 * side) 8 c = t at told ⊢
  have boot : t.boot = (s.setBoot b).boot := within_same told.reach .boot (by decide)
  exact ⟨within_trans (within_mono reach (by decide)) (within_mono told.reach (by decide)), boot.trans hb.symm, told.reg, told.logged⟩

theorem WireSpared.crossFailed {d side c w : Nat} (h : WireSpared s t d side c w) : t.crossFailed d side c = s.crossFailed d side c :=
  crossFailed_congr (within_part h.reach) (by rw [h.boot])

/-- A crossing whose skew is above the boundary's PAD fails, its wire spared or not (R419). -/
theorem WireSpared.soak {d side c w raw : Nat} (h : WireSpared s t d side c w) (clear : s.crossFailed d side c = false) (inn : s.isExcluded d = false)
    (high : s.fld (bndKey d side) 0 4 < raw) : t.soakRetrain d side c raw = t.disableCrossing d side c := by
  have pad : t.fld (bndKey d side) 0 4 = s.fld (bndKey d side) 0 4 := fld_of_reg (h.reg _ (by simp only [bndKey, dieKey, CAL_BND, FUSE_WIRES, ne_eq]; omega)) 0 4
  have state : t.isExcluded d = s.isExcluded d := isExcluded_congr (h.reg _ (InputPower.ecKey_ne_dieKey _ _ (by decide))) d
  unfold State.soakRetrain
  rw [h.crossFailed, clear, state, inn, pad, decide_eq_false (Nat.not_le.2 high)]
  rfl

/-- Phase 6 with wires to judge and no cells (R64, R419). -/
theorem neighbourTest_wires (phase : s.inPhase 6 = true) (d side c w : Nat) (retrain : List (Nat × Nat × Nat × Nat)) :
    s.neighbourTest [] [] [(d, side, c, w)] retrain = testsOver (retrain.foldl (fun t x =>
      if [(d, side, c, w)].any (fun v => v.1 == x.1 && v.2.1 == x.2.1 && v.2.2.1 == x.2.2.1) then t.soakRetrain x.1 x.2.1 x.2.2.1 x.2.2.2 else t)
        (s.wireFail d side c w)) := by
  unfold State.neighbourTest
  rw [phase, if_neg (by decide)]
  simp only [List.foldl_nil, ite_self, List.map_nil, List.eraseDups_nil, List.filter_nil]
  rfl

theorem neighbourTest_wire (phase : s.inPhase 6 = true) (d side c w : Nat) : s.neighbourTest [] [] [(d, side, c, w)] [] = testsOver (s.wireFail d side c w) :=
  neighbourTest_wires phase d side c w []

theorem neighbourTest_soak (phase : s.inPhase 6 = true) (d side c w raw : Nat) :
    s.neighbourTest [] [] [(d, side, c, w)] [(d, side, c, raw)] = testsOver ((s.wireFail d side c w).soakRetrain d side c raw) := by
  rw [neighbourTest_wires phase, List.foldl_cons, List.foldl_nil, if_pos (by simp)]

end Sys2Proof.StartVotes
end

section
/-! PROOFS. The start phases 1 to 6, each by what its command leaves (R64, R401, R404, R409, R414, R419). -/

namespace Sys2Proof.StartPhasesOneToSix

open Sys2Proof Sys2Proof.Machine Sys2Proof.Machine.State Sys2Proof.Laws Sys2Proof.Clauses
open Sys2Proof.StartPhases (within_same within_part phase_of_inPhase)
open Sys2Proof.StartFirmware Sys2Proof.StartConfig Sys2Proof.StartPower Sys2Proof.StartCalibration Sys2Proof.StartPriming Sys2Proof.StartVotes
open Sys2Proof.InputPower (fld_of_reg)
open Sys2Proof.RegionCommands (now_of_within)

variable {s t u : State}

/-! ### Phase 3: the regions of a die that has power -/

theorem regionDie_place (d : Nat) {i : Nat} (hi : i < 64) : regionDie (d * 64 + i) = d ∧ (d * 64 + i) % 64 = i := by
  unfold regionDie
  omega

/-- A region's start, by what its entries in the repair map say of its rails. -/
theorem region_started {d i r : Nat} {dead : Nat → Bool} (h : DiePowered s t d) (hi : i < 64) (hr : r = d * 64 + i)
    (rails : ∀ rail, dead rail = (Nat.ble 3 ((List.range 4).countP fun k => s.fused 4 d (locSlice (regionRx r) (regionRy r) rail k)) ||
      s.fused (2 + rail) d (locRegion (regionRx r) (regionRy r)))) :
    (t.region r).st = (if dead 1 = true then 6 else if dead 0 = true then 5 else 2) ∧
    (t.region r).on = (if dead 1 = true ∨ dead 0 = true then none else some (State.TurnOn.first s.now i false false)) ∧
    (dead 1 = false → t.fld (ldoKey r 1) 0 6 = 30 ∧ t.fld (ldoKey r 1) 17 1 = 1) := by
  obtain ⟨die, place⟩ := regionDie_place d hi
  subst hr
  have same (rail : Nat) : dead rail = deadRail s (d * 64 + i) rail := by
    rw [rails, deadRail, die]
  have started := h.regions i hi
  rw [same, same]
  have on := started.on
  rw [place] at on
  exact ⟨started.st, on, started.router⟩

/-! ### Phase 2 -/

/-- The counters and the configuration set where every record can be read. -/
theorem configRead_configures {r : FlashRead} {v w : Nat} (phase : s.inPhase 2 = true) (fresh : s.boot.cfgDone = false)
    (sfdp : s.warm = false ∨ r.sfdp.map State.Sfdp.usable = [true, true]) (h0 : s.flash.dev0 = true) (h1 : s.flash.dev1 = true) (rmap : r.rmapBad = [])
    (lic : r.licBad = []) (cal : r.calOk = [true, true]) (live : s.flash.rmap.all (fun e => e.live) = true) (hv : s.ctrRead r.ctrBad 0 = some v)
    (hw : s.ctrRead r.ctrBad 1 = some w) (cfg : r.cfgOk = [true, true]) :
    (s.configRead r).flash.bootseq = (v + 1) % 2 ^ 24 ∧ (s.configRead r).reg (ecKey BOOT_SEQ) = BitVec.ofNat 64 ((v + 1) % 2 ^ 24) ∧
    (s.configRead r).flash.rseq = (w + 0xFFFFFFFE) % 0xFFFFFFFF + 1 ∧ (s.configRead r).flash.lmsQ = (s.ctrRead r.ctrBad 2).getD 1048576 ∧
    (∀ x, s.ctrRead r.ctrBad 3 = some x → (s.configRead r).fld (ecKey BBOX_CNT_CC) 0 16 = x % 2 ^ 16) ∧ (s.configRead r).flash.cfgOk = true ∧
    (s.configRead r).boot.cfgDone = true ∧ (s.configRead r).flash.nonces = s.flash.nonces + 1 ∧ (s.configRead r).flash.rmapDone = (s.configRead r).flash.rmap ∧
    (s.configRead r).fld (ecKey BAND_BUS_CFG) 0 5 = Config.siteNode s.flash.configSet % 32 ∧ (s.configRead r).err.recQ = s.err.recQ ∧
    (s.configRead r).free = s.free ∧ (s.configRead r).fld (ecKey BOOT_STAT) 0 4 = 2 := by
  obtain ⟨a, counters, bus, reads, recs, ok, config⟩ := configRead_good phase fresh sfdp h0 h1 rmap lic cal live hv hw cfg
  refine ⟨?_, ?_, ?_, ?_, fun x hx => ?_, config.cfgOk.trans ok, config.done, ?_, ?_, ?_, ?_, ?_, ?_⟩
  · rw [config.bootseq, reads.bootseq, counters.bootseq]
  · rw [config.seq, reads.seq, counters.shown]
  · rw [config.rseq, reads.rseq, counters.rseq]
  · rw [config.lmsQ, reads.lmsQ, counters.lmsQ]
  · rw [fld_of_reg (config.corrected.trans reads.corrected)]
    exact counters.corrected x hx
  · obtain ⟨-, -, -, -, nonces⟩ := counters.kept
    rw [config.nonces, reads.nonces, nonces]
  · exact config.rmapDone
  · rw [fld_of_reg config.bus]
    exact bus
  · rw [config.recs, recs, show a.err = s.err from within_same counters.reach .err (by decide)]
  · rw [config.free, reads.free, counters.free, hv, hw]
    rfl
  · exact config.phase.trans (reads.phase.trans (counters.phase.trans (phase_of_inPhase phase)))

/-- No record of BOOTSEQ and no copy of the configuration set can be read: a free value, and a record. -/
theorem configRead_unread {r : FlashRead} (phase : s.inPhase 2 = true) (fresh : s.boot.cfgDone = false)
    (sfdp : s.warm = false ∨ r.sfdp.map State.Sfdp.usable = [true, true]) (h0 : s.flash.dev0 = true) (h1 : s.flash.dev1 = true) (rmap : r.rmapBad = [])
    (lic : r.licBad = []) (cal : r.calOk = [true, true]) (live : s.flash.rmap.all (fun e => e.live) = true) (hnone : s.ctrRead r.ctrBad 0 = none)
    (cfg : r.cfgOk = [false, false]) :
    ∃ e, (s.configRead r).flash.bootseq = ((Config.freeWord s.free).toNat + 1) % 2 ^ 24 ∧ (s.configRead r).free = s.free + 1 ∧
      (s.configRead r).flash.cfgOk = false ∧ (s.configRead r).boot.cfgDone = true ∧ e ∈ (s.configRead r).err.recQ ∧ e.cls = 0x82 ∧ e.detail = 2 := by
  obtain ⟨a, rq, e, counters, reads, bad, recs, cls, detail, config⟩ := configRead_bad phase fresh sfdp h0 h1 rmap lic cal live hnone cfg
  refine ⟨e, ?_, ?_, config.cfgOk.trans bad, config.done, ?_, cls, detail⟩
  · rw [config.bootseq, reads.bootseq, counters.bootseq]
  · rw [config.free, reads.free, counters.free, hnone]
    rfl
  · rw [config.recs, recs]
    exact List.mem_append_right _ (List.mem_singleton_self e)

/-! ### Phase 6 -/

theorem cellDie_lt {c : Nat} (hc : c < s.part.dies * 2304) : cellDie c < 8 := by
  have := InputPower.dies_le s.part
  unfold cellDie
  omega

/-- Two failing votes disable the cell, with a record. -/
theorem voted_out {c n : Nat} (hc : c < s.part.dies * 2304) (inn : s.isExcluded (cellDie c) = false) (room : s.flash.rmap.length < 4096) (two : 2 ≤ n) :
    c ∈ (testsOver (s.vote c n)).boot.disabled ∧ (testsOver (s.vote c n)).fused 1 (cellDie c) (locCell c) = true ∧
    s.logs (testsOver (s.vote c n)) 0x84 (.cell c 0) 0 ∧ s.phaseEnds (testsOver (s.vote c n)) 6 := by
  have reach : s.within [.regs, .boot, .flash, .err] (s.vote c n) := within_vote (List.Subset.refl _) (within_refl s)
  have done := testsOver_over (s.vote c n)
  obtain ⟨disabled, fused, logged, start⟩ := vote_disables hc inn room two
  exact ⟨done.disabled ▸ disabled, (StartCalibration.fused_congr done.flash _ _ _).trans fused, done.logs logged, done.ends_of (now_of_within reach) start⟩

/-- No failing vote leaves the cell. -/
theorem voted_in (s : State) {c : Nat} (hc : c < s.part.dies * 2304) :
    (testsOver (s.vote c 0)).boot.disabled = s.boot.disabled ∧ (testsOver (s.vote c 0)).flash = s.flash ∧
    (testsOver (s.vote c 0)).reg (dieKey (cellDie c) FUSE_NVOTE) = s.reg (dieKey (cellDie c) FUSE_NVOTE) ∧
    (testsOver (s.vote c 0)).err.recQ = s.err.recQ ∧ s.phaseEnds (testsOver (s.vote c 0)) 6 := by
  rw [vote_none]
  have done := testsOver_over s
  exact ⟨done.disabled, done.flash, done.reg _ (settled_fuses (cellDie_lt hc) (by decide) (by decide)), congrArg Err.recQ done.err, done.ends⟩

/-- One failing vote is counted. -/
theorem voted_once {c : Nat} (hc : c < s.part.dies * 2304) (inn : s.isExcluded (cellDie c) = false) :
    (testsOver (s.vote c 1)).boot.disabled = s.boot.disabled ∧ (testsOver (s.vote c 1)).flash = s.flash ∧
    (∀ e k, e < s.part.dies → k < 12 → s.isExcluded e = false → s.fused 7 e k = false → (testsOver (s.vote c 1)).devState e k = 1) ∧
    (testsOver (s.vote c 1)).fld (dieKey (cellDie c) FUSE_NVOTE) 7 8 = min (s.fld (dieKey (cellDie c) FUSE_NVOTE) 7 8 + 1) 0xFF ∧
    (testsOver (s.vote c 1)).err.recQ = s.err.recQ ∧ s.phaseEnds (testsOver (s.vote c 1)) 6 := by
  rw [vote_counts hc inn]
  have done := testsOver_over (s.incSat (dieKey (cellDie c) FUSE_NVOTE) 7 8 1)
  have counted : Settled (dieKey (cellDie c) FUSE_NVOTE) := settled_fuses (cellDie_lt hc) (by decide) (by decide)
  refine ⟨done.disabled, done.flash, fun e k he hk inn unfused => done.trains e k he hk ((isExcluded_congr ?_ e).trans inn) unfused, ?_, congrArg Err.recQ done.err, done.ends⟩
  · exact reg_incSat_other _ _ _ _ (InputPower.ecKey_ne_dieKey _ _ (by decide))
  · exact (fld_of_reg (done.reg _ counted) 7 8).trans (fld_incSat_same _ 1 (by decide))

/-- A crossing that its spares saved and that then retrains above its PAD is disabled all the same. -/
theorem wire_soaked {d side c w raw : Nat} (phase : s.inPhase 6 = true) (hs : side < 4) (hc : c < 48) (hw : w < 40) (clear : s.crossFailed d side c = false)
    (inn : s.isExcluded d = false) (high : s.fld (State.bndKey d side) 0 4 < raw) (fresh : (s.wiresOut d side c).contains w = false)
    (steers : State.steered (s.wiresOut d side c ++ [w]) = true) :
    s.phaseEnds (s.neighbourTest [] [] [(d, side, c, w)] [(d, side, c, raw)]) 6 ∧
    (s.neighbourTest [] [] [(d, side, c, w)] [(d, side, c, raw)]).crossFailed d side c = true := by
  have spared := wireSpared_spares s d side c w
  have out : s.wireFail d side c w = wireSpared s d side c w := by rw [wireFail_eq hs hc hw clear inn, if_neg (fresh ▸ Bool.false_ne_true), if_pos steers]
  rw [neighbourTest_soak phase, out]
  generalize wireSpared s d side c w = a at spared ⊢
  rw [spared.soak clear inn high]
  have failed := disableCrossing_out a d side c
  have done := testsOver_over (a.disableCrossing d side c)
  have start : a.boot.phaseStart = s.boot.phaseStart := by rw [spared.boot]
  exact ⟨done.ends_of ((now_of_within failed.reach).trans (now_of_within spared.reach)) (failed.start.trans start), (done.crossFailed d side c).trans failed.failed⟩

/-- A failing wire is known already, has a spare, or takes its crossing with it. -/
theorem wire_judged {d side c w : Nat} (phase : s.inPhase 6 = true) (hs : side < 4) (hc : c < 48) (hw : w < 40) (clear : s.crossFailed d side c = false)
    (inn : s.isExcluded d = false) (room : s.flash.rmap.length < 4096) :
    s.phaseEnds (s.neighbourTest [] [] [(d, side, c, w)] []) 6 ∧
    if (s.wiresOut d side c).contains w = true then
      (s.neighbourTest [] [] [(d, side, c, w)] []).boot.wires = s.boot.wires ∧ (s.neighbourTest [] [] [(d, side, c, w)] []).err.recQ = s.err.recQ
    else if State.steered (s.wiresOut d side c ++ [w]) = true then
      (d, side, c, w) ∈ (s.neighbourTest [] [] [(d, side, c, w)] []).boot.wires ∧ s.logs (s.neighbourTest [] [] [(d, side, c, w)] []) 0x85 (.dieUnit d c) 0 ∧
        (s.neighbourTest [] [] [(d, side, c, w)] []).crossFailed d side c = false
    else (s.neighbourTest [] [] [(d, side, c, w)] []).crossFailed d side c = true ∧ s.logs (s.neighbourTest [] [] [(d, side, c, w)] []) 0x85 (.dieUnit d c) 0 := by
  rw [neighbourTest_wire phase, wireFail_eq hs hc hw clear inn]
  by_cases out : (s.wiresOut d side c).contains w = true
  · rw [if_pos out, if_pos out]
    have done := testsOver_over s
    exact ⟨done.ends, done.wires, congrArg Err.recQ done.err⟩
  rw [if_neg out, if_neg out]
  by_cases steers : steered (s.wiresOut d side c ++ [w]) = true
  · rw [if_pos steers, if_pos steers]
    have spared := wireSpared_spares s d side c w
    generalize wireSpared s d side c w = a at spared ⊢
    have done := testsOver_over a
    have failed : a.crossFailed d side c = false := spared.crossFailed.trans clear
    refine ⟨done.ends_of (now_of_within spared.reach) (by rw [spared.boot]), ?_, done.logs (spared.logged room), (done.crossFailed d side c).trans failed⟩
    rw [done.wires, spared.boot]
    exact List.mem_cons_self
  · rw [if_neg steers, if_neg steers]
    have failed := disableCrossing_out s d side c
    have done := testsOver_over (s.disableCrossing d side c)
    exact ⟨done.ends_of (now_of_within failed.reach) failed.start, (done.crossFailed d side c).trans failed.failed, done.logs (failed.logged room)⟩

/-- Settles O50: every phase of a start leaves what the commands of its phase leave. -/
theorem startPhasesOneToSix : Obligations.StartPhasesOneToSix := by
  unfold Obligations.StartPhasesOneToSix
  refine ⟨fun s u ts keys objs hts hu phase h0 h1 active => ⟨fun i hi good first => ?_, fun bad => ?_⟩, fun s ts keys objs hts phase h0 h1 => ?_,
    fun s r phase fresh sfdp h0 h1 rmap lic cal live => ⟨fun v w hv hw cfg => ?_, fun hnone cfg => ?_⟩,
    fun s d phase next hd inn turns => ⟨?_, fun ok ctl rs h => ?_⟩, fun s d rx ry r o hr _ _ phase next on full compute due => ?_,
    fun s d phase next hd inn => ⟨fun clear => ?_, ?_⟩, fun s phase => ?_,
    fun s c n vs phase hc inn room unfused enabled some all tests => ?_, fun s d side c w phase _ hs hc hw clear inn room => ⟨fun raw high fresh steers => ?_, ?_⟩⟩
  · exact ⟨_, rfl, firmware_runs hts hu phase h0 h1 active hi good first⟩
  · obtain ⟨r, h⟩ := firmware_recovers hts hu phase h0 h1 bad
    exact ⟨_, r, rfl, h⟩
  · obtain ⟨r, h⟩ := firmware_drops (objs := objs) (keys := keys) hts phase h0 h1
    exact ⟨_, r, rfl, h⟩
  · exact ⟨_, rfl, configRead_configures phase fresh sfdp h0 h1 rmap lic cal live hv hw cfg⟩
  · obtain ⟨e, h⟩ := configRead_unread phase fresh sfdp h0 h1 rmap lic cal live hnone cfg
    exact ⟨_, e, rfl, h⟩
  · have powered := diePowerUp_powers phase next hd inn turns
    exact ⟨_, rfl, powered.supplied, powered.ctlOk, powered.phases, powered.limit, powered.ports, fun i r dead hi hr rails => region_started powered hi hr rails,
      congrArg Err.recQ powered.err, powered.others, powered.next⟩
  · exact ⟨_, rfl, diePowerUp_excludes phase next hd inn turns h⟩
  · subst hr
    exact ⟨_, rfl, powerGood_settles phase next on full compute due⟩
  · obtain ⟨locked, done, all, ends⟩ := pllCalibration_locks phase next hd inn clear
    refine ⟨_, rfl, locked.locks, done, all, locked.floors, fun e n beside earlier inn hn => ?_, locked.seams, ?_, ends⟩
    · obtain ⟨near, far⟩ := locked.west e beside earlier inn
      rw [← hn, bndValue] at near
      refine ⟨near.trans ?_, far⟩
      rw [ite_mul, Nat.zero_mul]
    · exact congrArg Err.recQ (within_same locked.reach .err (by decide))
  · have out := pllCalibration_excludes phase next hd inn
    exact ⟨_, rfl, out.state, out.logged, out.absent, out.cells⟩
  · obtain ⟨ends, err, cells⟩ := primeAll_primes phase
    exact ⟨_, rfl, ends, err, cells⟩
  · have votes := neighbourTest_votes phase hc inn unfused enabled some all
    rw [failVotes_eq tests] at votes
    refine ⟨fun two => ⟨s.neighbourTest [] vs [] [], rfl, ?_⟩, fun zero => ⟨s.neighbourTest [] vs [] [], rfl, ?_⟩,
      fun one => ⟨s.neighbourTest [] vs [] [], rfl, ?_⟩⟩ <;> rw [votes]
    · exact voted_out hc inn room two
    · rw [zero]
      exact voted_in s hc
    · rw [one]
      exact voted_once hc inn
  · exact ⟨_, rfl, wire_soaked phase hs hc hw clear inn high fresh steers⟩
  · exact ⟨_, rfl, wire_judged phase hs hc hw clear inn room⟩

end Sys2Proof.StartPhasesOneToSix
end

section
/-! PROOFS. Acknowledgements and read responses at the cell that asked (R204, R206, R208). -/

namespace Sys2Proof.MeshResponses

open Sys2Proof Sys2Proof.Machine Sys2Proof.Laws Sys2Proof.Clauses Sys2Proof.MeshRequests Sys2Proof.CoreSteps

variable {s : State} {i c : Nat} {p : Pkt} {x : TxCmd} {rest : List TxCmd}

/-- A response's TAG is no longer awaited. -/
def answered (x : TxCmd) (tag : Nat) : TxCmd := { x with waiting := x.waiting.filter (· != tag) }

/-- One far-window store fewer is outstanding. -/
def stored (x : CoreSt) : CoreSt := { x with farStores := x.farStores - 1 }

theorem tx_modTx (h : (s.cell c).tx = x :: rest) (f : TxCmd → TxCmd) : ((s.modTx c f).cell c).tx = f x :: rest := by
  rw [State.modTx, cell_setCell_same, h]

theorem exec_ack_store {k : CoreSel} (hp : s.pktOf i 4 = some p) (hpos : p.pos = .landed c) (htx : (s.cell c).tx = []) (hsrc : p.src = .far c k) :
    exec (.ackReceive i) s = .next ((s.replacePkt i []).setCore c k (stored (s.core c k))) := by
  refine next_congr ?_
  simp only [State.ackReceive, hp, hpos, htx, hsrc, Bool.false_eq_true, if_false]
  rfl

theorem exec_ack_put (hp : s.pktOf i 4 = some p) (hpos : p.pos = .landed c) (htx : (s.cell c).tx = x :: rest) (hw : p.tag ∈ x.waiting) :
    exec (.ackReceive i) s = .next (if p.status = 1 ∨ p.status = 3 then ((s.replacePkt i []).modTx c fun y => answered y p.tag).txStop c
      else (s.replacePkt i []).modTx c fun y => answered y p.tag) := by
  have hin : x.waiting.contains p.tag = true := by simpa using hw
  refine next_congr ?_
  simp only [State.ackReceive, hp, hpos, htx, hin, if_true]
  rfl

/-- A running command whose packets have all left injects none. -/
theorem txAdvance_sent {t : State} (htx : (t.cell c).tx = x :: rest) (hsent : x.len ≤ x.sent) : t.txAdvance c = t := by
  have hmay : t.txMay c x = false := by
    rw [State.txMay, decide_eq_false (Nat.not_lt.2 hsent), Bool.and_false, Bool.false_and, Bool.false_and, Bool.false_and]
  unfold State.txAdvance
  rw [htx]
  simp only [hmay, Bool.false_eq_true, if_false]

theorem exec_response {off : Nat} {t : State} (hp : s.pktOf i 3 = some p) (hpos : p.pos = .landed c) (hh : s.farTag c .head ≠ some p.tag)
    (ht : s.farTag c .tail ≠ some p.tag) (htx : (s.cell c).tx = x :: rest) (hw : p.tag ∈ x.waiting) (hst : p.status = 0)
    (ho : off = x.src + (p.addr - x.dst)) (hc : s.spmCheckRun c off p.data.length 4 false = none)
    (hm : ((s.replacePkt i []).modTx c fun y => answered y p.tag).meshWrite c off p.data p.pois (some c) = (t, true)) :
    exec (.readResponseReceive i) s = .next (t.txAdvance c) := by
  subst ho
  have hin : x.waiting.contains p.tag = true := by simpa using hw
  have hc' : ((s.replacePkt i []).modTx c fun y => answered y p.tag).spmCheckRun c (x.src + (p.addr - x.dst)) p.data.length 4 false = none := hc
  have hnone : ¬ (p.status = 1 ∨ p.status = 3) := by omega
  have hget : (s.replacePkt i []).getResponse c x p = t.txAdvance c := by
    unfold answered at hc' hm
    simp only [State.getResponse, if_neg hnone, hc', hm]
  refine next_congr ?_
  simp only [State.readResponse, hp, hpos, if_neg (not_or.2 ⟨hh, ht⟩), htx, hin, if_true, hget]

theorem net_replaced : (s.replacePkt i []).net = s.net.eraseIdx i := List.append_nil _

/-- Settles O27: an answer frees its TAG, ends a far-window store, stops a refused put, or is a run of stores of the running get. -/
theorem responsesReachTheirRequester : Obligations.ResponsesReachTheirRequester := by
  unfold Obligations.ResponsesReachTheirRequester
  refine ⟨?_, ?_, ?_, ?_⟩
  · intro s i c k p hp hpos htx hsrc
    have hcore := core_setCore_same (s.replacePkt i []) c k (stored (s.core c k))
    exact ⟨_, exec_ack_store hp hpos htx hsrc, congrArg CoreSt.farStores hcore, (congrArg CoreSt.x hcore).trans rfl, (setCore_net ..).trans net_replaced, setCore_regs ..,
      setCore_mem .., setCore_err .., coresBut_setCore (fun _ _ _ => rfl) _⟩
  · intro s i c p x rest hp hpos htx hw hst
    exact ⟨_, answered x p.tag, (exec_ack_put hp hpos htx hw).trans (next_congr (if_neg (by omega))), tx_modTx (s := s.replacePkt i []) htx _, rfl, rfl,
      net_replaced, rfl, rfl, cellsBut_setCell (fun _ _ => rfl) _⟩
  · intro s i c p x rest hp hpos htx hw hst
    exact ⟨_, (exec_ack_put hp hpos htx hw).trans (next_congr (if_pos (.inl hst))), congrArg Cell.tx (cell_setCell_same ..), net_replaced, rfl, rfl,
      cellsBut_setCell (cellsBut_setCell (fun _ _ => rfl) _) _⟩
  · intro s i c off p x rest hp hpos hh ht htx hw hst ho hal hlen hpois hsent hc
    obtain ⟨t, hm, hl⟩ := landed_meshWrite (s := (s.replacePkt i []).modTx c fun y => answered y p.tag) (some c) hal hlen hc
    have htx' : (t.cell c).tx = answered x p.tag :: rest := (congrArg Cell.tx hl.cell).trans (tx_modTx (s := s.replacePkt i []) htx _)
    have hexec := exec_response hp hpos hh ht htx hw hst ho hc (hpois ▸ hm)
    rw [txAdvance_sent htx' hsent] at hexec
    exact ⟨t, answered x p.tag, hexec, hl.byte, hl.other, htx', rfl, (StartPhases.within_same hl.reach .net (by decide)).trans net_replaced,
      StartPhases.within_same hl.reach .regs (by decide), StartPhases.within_same hl.reach .err (by decide),
      fun e he => (hl.cells e he).trans (by rw [State.modTx, cell_setCell, if_neg he]; rfl)⟩

end Sys2Proof.MeshResponses
end
